-- ==== Sys2Proof/Word.lean ====
section
/-!
DEFINITION. The words of the SN-1: the widths the manual names and the plainest arithmetic over them (R10, R11, R15).
-/

namespace Sys2Proof

/-- One byte of memory. -/
abbrev Byte := BitVec 8
/-- A 32-bit BAR2 register or Krytha instruction word (R12, R48). -/
abbrev Word32 := BitVec 32
/-- A general register, an address or a CSR of a control core (R33, R39). -/
abbrev Word64 := BitVec 64
/-- A vector register (R35). -/
abbrev VWord := BitVec 512
/-- A ticket (R59); 0 is never issued. -/
abbrev Ticket := BitVec 32
/-- One of the sixteen control cores CC0 to CC15 (R33). -/
abbrev CoreId := Fin 16
/-- A general register field of an instruction word (R48). -/
abbrev RegField := BitVec 5

/-- `n` divided by `d`, rounded up; `d` = 0 gives 0. -/
def ceilDiv (n d : Nat) : Nat := (n + d - 1) / d

/-- The greatest common multiple of `d` not above `n`. -/
def alignDown (n d : Nat) : Nat := n / d * d

/-- The smallest multiple of `d` not below `n`. -/
def alignUp (n d : Nat) : Nat := ceilDiv n d * d

/-- A saturating count of the given ceiling. -/
def satAdd (ceiling n k : Nat) : Nat := min ceiling (n + k)

/-- A reserved setting: values below `lo` act as `lo` and values above `hi` act as `hi`. -/
def clampTo (lo hi n : Nat) : Nat := max lo (min hi n)

/-- A setting whose value 0 acts as 1. -/
def zeroActsAsOne (n : Nat) : Nat := if n = 0 then 1 else n

end Sys2Proof
end

