-- ==== Sys2Proof/Machine/Bits.lean ====
section
/-!
DEFINITION. Bit fields, bytes and little-endian values (R10, R11), the helpers every unit shares.
-/

namespace Sys2Proof.Machine

/-- Bits [lo+len-1:lo] of a word. -/
def bitsAt {n : Nat} (w : BitVec n) (lo len : Nat) : BitVec len := w.extractLsb' lo len

/-- The same bits as a number. -/
def natAt {n : Nat} (w : BitVec n) (lo len : Nat) : Nat := (w.toNat >>> lo) % 2 ^ len

/-- One bit of a word. -/
def bitAt {n : Nat} (w : BitVec n) (i : Nat) : Bool := w.getLsbD i

/-- A word with bits [lo+len-1:lo] replaced by the low bits of `v`. -/
def putBits {n : Nat} (w : BitVec n) (lo len : Nat) (v : Nat) : BitVec n :=
  let mask : BitVec n := BitVec.ofNat n ((2 ^ len - 1) <<< lo)
  (w &&& ~~~mask) ||| (BitVec.ofNat n ((v % 2 ^ len) <<< lo))

/-- A word with one bit replaced. -/
def putBit {n : Nat} (w : BitVec n) (i : Nat) (b : Bool) : BitVec n := putBits w i 1 b.toNat

/-- The little-endian bytes of a number (R11). -/
def leBytes : Nat → Nat → List Byte
  | 0, _ => []
  | k + 1, v => BitVec.ofNat 8 v :: leBytes k (v / 256)

/-- The number that little-endian bytes spell (R11). -/
def leNat : List Byte → Nat
  | [] => 0
  | b :: bs => b.toNat + 256 * leNat bs

/-- The number that big-endian bytes spell. -/
def beNat (bs : List Byte) : Nat := leNat bs.reverse

/-- `n` zero bytes. -/
def zeros (n : Nat) : List Byte := List.replicate n 0

/-- A list cut or zero-filled to exactly `n` bytes. -/
def fitBytes (n : Nat) (bs : List Byte) : List Byte := (bs ++ zeros (n - bs.length)).take n

/-- Bytes [off, off+len) of a list. -/
def sliceOf {α : Type} (off len : Nat) (bs : List α) : List α := (bs.drop off).take len

/-- A little-endian field of `len` bytes at `off` in a record. -/
def leAt (bs : List Byte) (off len : Nat) : Nat := leNat (sliceOf off len bs)

/-- A big-endian field of `len` bytes at `off` in a record. -/
def beAt (bs : List Byte) (off len : Nat) : Nat := beNat (sliceOf off len bs)

/-- Two's complement reading of the low `n` bits of a number. -/
def asInt (n v : Nat) : Int := (BitVec.ofNat n v).toInt

/-- The low `n` bits of an integer, as a number. -/
def intBits (n : Nat) (v : Int) : Nat := (BitVec.ofInt n v).toNat

/-- `a` lies on a multiple of `n`. -/
def isAligned (a n : Nat) : Bool := a % n == 0

/-- The number of set bits of a word. -/
def popCount {n : Nat} (w : BitVec n) : Nat := ((List.range n).filter (fun i => w.getLsbD i)).length

/-- The number of zero bits above the highest set bit; the width for zero. -/
def leadingZeros {n : Nat} (w : BitVec n) : Nat :=
  ((List.range n).takeWhile (fun i => ! w.getLsbD (n - 1 - i))).length

/-- The number of zero bits below the lowest set bit; the width for zero. -/
def trailingZeros {n : Nat} (w : BitVec n) : Nat :=
  ((List.range n).takeWhile (fun i => ! w.getLsbD i)).length

/-- The least power of two not below `n`. -/
def powerAbove : Nat → Nat → Nat
  | 0, n => n
  | fuel + 1, n => if 2 ^ (64 - (fuel + 1)) ≥ n then 2 ^ (64 - (fuel + 1)) else powerAbove fuel n

/-- `n` rounded up to a power of two, for `n` up to 2^64. -/
def toPowerOfTwo (n : Nat) : Nat := powerAbove 64 n

/-- The number of a power of two's exponent, rounded up. -/
def log2Up (n : Nat) : Nat := ((List.range 64).find? (fun k => 2 ^ k ≥ n)).getD 64

/-- Replace the element at an index, if there is one. -/
def setAt {α : Type} (l : List α) (i : Nat) (x : α) : List α := l.set i x

/-- The element at an index, or a default. -/
def nth {α : Type} (d : α) (l : List α) (i : Nat) : α := l.getD i d

/-- A keyed table in canonical form: keys strictly rising, no entry equal to what an unlisted key reads as. -/
abbrev Table (α : Type) := List (Nat × α)

/-- What a table holds at a key. -/
def Table.find {α : Type} (t : Table α) (k : Nat) : Option α := (List.find? (fun e => e.1 == k) t).map (·.2)

/-- What a table holds at a key, `d` where it lists nothing. -/
def Table.at {α : Type} (d : α) (t : Table α) (k : Nat) : α := (Table.find t k).getD d

/-- A table with the entry of a key put in place, keys rising. -/
def Table.put {α : Type} : Table α → Nat → α → Table α
  | [], k, x => [(k, x)]
  | (j, y) :: t, k, x =>
    if k < j then (k, x) :: (j, y) :: t
    else if k = j then (k, x) :: t
    else (j, y) :: Table.put t k x

/-- A table without the entry of a key. -/
def Table.drop {α : Type} : Table α → Nat → Table α
  | [], _ => []
  | (j, y) :: t, k => if k = j then Table.drop t k else (j, y) :: Table.drop t k

/-- Write a key of a canonical table: writing what an unlisted key reads as removes the entry. -/
def Table.write {α : Type} [DecidableEq α] (d : α) (t : Table α) (k : Nat) (x : α) : Table α :=
  if x = d then Table.drop t k else Table.put t k x

/-- Keys strictly rising and no entry at the default. -/
def Table.canonical {α : Type} [DecidableEq α] (d : α) : Table α → Bool
  | [] => true
  | [(_, x)] => x != d
  | (j, x) :: (k, y) :: t => x != d && decide (j < k) && Table.canonical d ((k, y) :: t)

end Sys2Proof.Machine
end

