-- ==== Sys2Proof/Machine/Regs.lean ====
section
/-!
DEFINITION. The registers of the BAR2 map (R630), transcribed field by field from the register tables of the chapters: offset,
bits, access code (R13) and the reset a table states. Registers that are windows onto other state, and resets that depend on the
part (R629), are given in Machine/RegFile.lean.
-/

namespace Sys2Proof.Machine

/-- The access codes of R13; a reserved field has no entry. -/
inductive Access where
  | ro | rw | wo | w1c | w1s | rc
deriving DecidableEq, Repr

/-- A field of a register: BAR2 offset, lowest bit, width. -/
structure Fld where
  off : Nat
  lo : Nat
  len : Nat
deriving DecidableEq, Repr

/-- A field as a row of the register table. -/
structure FldRow where
  lo : Nat
  len : Nat
  acc : Access
  reset : Nat
deriving DecidableEq, Repr

/-- A register, or a numbered set of them: offset of the first, stride, count, fields. -/
structure RegRow where
  off : Nat
  stride : Nat
  count : Nat
  flds : List FldRow
deriving DecidableEq, Repr

/-- Field `f` of member `n` of a numbered set with the given stride. -/
def Fld.nth (f : Fld) (stride n : Nat) : Fld := { f with off := f.off + stride * n }

namespace Reg

/-- `CC_DBG_CTL` (R79). -/
def CC_DBG_CTL : Nat := 0x00800000
def CC_DBG_CTL_HALTED : Fld := ⟨0x00800000, 31, 1⟩
def CC_DBG_CTL_HALT_CAUSE : Fld := ⟨0x00800000, 24, 4⟩
def CC_DBG_CTL_DRAINED : Fld := ⟨0x00800000, 16, 1⟩
def CC_DBG_CTL_RESUME : Fld := ⟨0x00800000, 2, 1⟩
def CC_DBG_CTL_HALT : Fld := ⟨0x00800000, 1, 1⟩
/-- `CC_DBG_GLOBAL` (R80). -/
def CC_DBG_GLOBAL : Nat := 0x00810000
def CC_DBG_GLOBAL_HALTED_MASK : Fld := ⟨0x00810000, 16, 16⟩
def CC_DBG_GLOBAL_HALT_ALL : Fld := ⟨0x00810000, 0, 1⟩
/-- `CC_SWI` (R81). -/
def CC_SWI : Nat := 0x00810004
def CC_SWI_CLEAR : Fld := ⟨0x00810004, 16, 16⟩
def CC_SWI_SET : Fld := ⟨0x00810004, 0, 16⟩
/-- `CC_RING_IDX` (R88). -/
def CC_RING_IDX : Nat := 0x00820000
def CC_RING_IDX_CLS : Fld := ⟨0x00820000, 10, 4⟩
def CC_RING_IDX_RING : Fld := ⟨0x00820000, 0, 10⟩
/-- `CC_RING_CFG` (R89). -/
def CC_RING_CFG : Nat := 0x00820004
def CC_RING_CFG_EN : Fld := ⟨0x00820004, 31, 1⟩
def CC_RING_CFG_DISABLING : Fld := ⟨0x00820004, 30, 1⟩
def CC_RING_CFG_OWNER_PRIV : Fld := ⟨0x00820004, 28, 2⟩
def CC_RING_CFG_OWNER_CORE : Fld := ⟨0x00820004, 24, 4⟩
def CC_RING_CFG_LOG2_ENTRIES : Fld := ⟨0x00820004, 20, 4⟩
def CC_RING_CFG_WEIGHT : Fld := ⟨0x00820004, 16, 4⟩
def CC_RING_CFG_QCN : Fld := ⟨0x00820004, 0, 16⟩
/-- `CC_RING_BASE_LO` (R90). -/
def CC_RING_BASE_LO : Nat := 0x00820008
def CC_RING_BASE_LO_BASE_L : Fld := ⟨0x00820008, 12, 20⟩
/-- `CC_RING_BASE_HI` (R90). -/
def CC_RING_BASE_HI : Nat := 0x0082000C
def CC_RING_BASE_HI_BASE_H : Fld := ⟨0x0082000C, 0, 16⟩
/-- `CC_RING_PTR` (R91). -/
def CC_RING_PTR : Nat := 0x00820010
def CC_RING_PTR_TAIL : Fld := ⟨0x00820010, 16, 16⟩
def CC_RING_PTR_HEAD : Fld := ⟨0x00820010, 0, 16⟩
/-- `CC_RING_ERR` (R93). -/
def CC_RING_ERR : Nat := 0x00820038
def CC_RING_ERR_REJECT : Fld := ⟨0x00820038, 31, 1⟩
def CC_RING_ERR_CAUSE : Fld := ⟨0x00820038, 28, 3⟩
def CC_RING_ERR_ERRORS : Fld := ⟨0x00820038, 0, 16⟩
/-- `CC_TKI_POP` (R106). -/
def CC_TKI_POP : Nat := 0x00830000
def CC_TKI_POP_TICKET : Fld := ⟨0x00830000, 0, 32⟩
/-- `CC_TKI_STAT` (R107). -/
def CC_TKI_STAT : Nat := 0x00830004
def CC_TKI_STAT_OVF : Fld := ⟨0x00830004, 31, 1⟩
def CC_TKI_STAT_COUNT : Fld := ⟨0x00830004, 0, 7⟩
/-- `CAT_CACHE_CFG` (R152). -/
def CAT_CACHE_CFG : Nat := 0x01800000
def CAT_CACHE_CFG_SIZE : Fld := ⟨0x01800000, 0, 16⟩
/-- `CAT_STREAMS` (R152). -/
def CAT_STREAMS : Nat := 0x01800004
def CAT_STREAMS_MAX : Fld := ⟨0x01800004, 16, 16⟩
def CAT_STREAMS_OPEN : Fld := ⟨0x01800004, 0, 16⟩
/-- `CAT_FETCH_CFG` (R152). -/
def CAT_FETCH_CFG : Nat := 0x01800008
def CAT_FETCH_CFG_URGENT_POS : Fld := ⟨0x01800008, 16, 16⟩
def CAT_FETCH_CFG_DIE_QDEPTH : Fld := ⟨0x01800008, 8, 4⟩
/-- `CAT_STAGE_USED` (R152). -/
def CAT_STAGE_USED : Nat := 0x0180000C
def CAT_STAGE_USED_MIB : Fld := ⟨0x0180000C, 0, 32⟩
/-- `CAT_ERR_CNT` (R152). -/
def CAT_ERR_CNT : Nat := 0x01800040
def CAT_ERR_CNT_CRC_FAIL : Fld := ⟨0x01800040, 16, 16⟩
def CAT_ERR_CNT_BAD_ENTRY : Fld := ⟨0x01800040, 0, 16⟩
/-- `CAT_SNAP` (R152). -/
def CAT_SNAP : Nat := 0x018000FC
def CAT_SNAP_LATCH : Fld := ⟨0x018000FC, 0, 1⟩
/-- `MIL_UNITS` (R180). -/
def MIL_UNITS : Nat := 0x01C00000
def MIL_UNITS_AUDIO : Fld := ⟨0x01C00000, 16, 8⟩
def MIL_UNITS_J2K : Fld := ⟨0x01C00000, 8, 8⟩
def MIL_UNITS_IMAGE : Fld := ⟨0x01C00000, 0, 8⟩
/-- `MIL_ROT_IMG` (R180). -/
def MIL_ROT_IMG : Nat := 0x01C00004
def MIL_ROT_IMG_IN_ROT : Fld := ⟨0x01C00004, 0, 32⟩
/-- `MIL_ROT_OTH` (R180). -/
def MIL_ROT_OTH : Nat := 0x01C00008
def MIL_ROT_OTH_AUDIO_ROT : Fld := ⟨0x01C00008, 8, 8⟩
def MIL_ROT_OTH_J2K_ROT : Fld := ⟨0x01C00008, 0, 8⟩
/-- `MIL_CFG` (R180). -/
def MIL_CFG : Nat := 0x01C00010
def MIL_CFG_SPLIT_KIB : Fld := ⟨0x01C00010, 8, 8⟩
def MIL_CFG_SPEC_EN : Fld := ⟨0x01C00010, 0, 1⟩
/-- `MIL_ERR_CNT` (R180). -/
def MIL_ERR_CNT : Nat := 0x01C00040
def MIL_ERR_CNT_CONCEALED : Fld := ⟨0x01C00040, 16, 16⟩
def MIL_ERR_CNT_DAMAGED : Fld := ⟨0x01C00040, 0, 16⟩
/-- `MIL_ERR_CNT1` (R180). -/
def MIL_ERR_CNT1 : Nat := 0x01C00044
def MIL_ERR_CNT1_LIMIT : Fld := ⟨0x01C00044, 16, 16⟩
def MIL_ERR_CNT1_UNSUPPORTED : Fld := ⟨0x01C00044, 0, 16⟩
/-- `MIL_SNAP` (R180). -/
def MIL_SNAP : Nat := 0x01C000FC
def MIL_SNAP_LATCH : Fld := ⟨0x01C000FC, 0, 1⟩
/-- `KLN_LANES` (R204). -/
def KLN_LANES : Nat := 0x02000000
def KLN_LANES_IN_ROT : Fld := ⟨0x02000000, 16, 16⟩
def KLN_LANES_COUNT : Fld := ⟨0x02000000, 0, 5⟩
/-- `KLN_ERR_CNT` (R204). -/
def KLN_ERR_CNT : Nat := 0x02000040
def KLN_ERR_CNT_VERIFY_FAIL : Fld := ⟨0x02000040, 16, 16⟩
def KLN_ERR_CNT_DAMAGED : Fld := ⟨0x02000040, 0, 16⟩
/-- `KLN_ERR_CNT1` (R204). -/
def KLN_ERR_CNT1 : Nat := 0x02000044
def KLN_ERR_CNT1_OVERFLOW : Fld := ⟨0x02000044, 16, 16⟩
def KLN_ERR_CNT1_LIMIT : Fld := ⟨0x02000044, 0, 16⟩
/-- `KLN_SNAP` (R204). -/
def KLN_SNAP : Nat := 0x020000FC
def KLN_SNAP_LATCH : Fld := ⟨0x020000FC, 0, 1⟩
/-- `MSH_TILES` (R244). -/
def MSH_TILES : Nat := 0x02400000
def MSH_TILES_IN_ROT : Fld := ⟨0x02400000, 16, 9⟩
def MSH_TILES_COUNT : Fld := ⟨0x02400000, 0, 9⟩
/-- `MSH_CFG` (R244). -/
def MSH_CFG : Nat := 0x02400004
def MSH_CFG_MODEL_TILES : Fld := ⟨0x02400004, 0, 8⟩
/-- `MSH_MODEL` (R244). -/
def MSH_MODEL : Nat := 0x02400008
def MSH_MODEL_LOADED : Fld := ⟨0x02400008, 31, 1⟩
def MSH_MODEL_TILES : Fld := ⟨0x02400008, 24, 7⟩
def MSH_MODEL_PARAMS : Fld := ⟨0x02400008, 0, 24⟩
/-- `MSH_ROT` (R244). -/
def MSH_ROT : Nat := 0x02400020
def MSH_ROT_IN_ROT : Fld := ⟨0x02400020, 0, 32⟩
/-- `MSH_ERR_CNT` (R244). -/
def MSH_ERR_CNT : Nat := 0x02400040
def MSH_ERR_CNT_TILE_ERROR : Fld := ⟨0x02400040, 16, 16⟩
def MSH_ERR_CNT_BAD_OPLIST : Fld := ⟨0x02400040, 0, 16⟩
/-- `MSH_SNAP` (R244). -/
def MSH_SNAP : Nat := 0x024000FC
def MSH_SNAP_LATCH : Fld := ⟨0x024000FC, 0, 1⟩
/-- `LTR_SET` (R246). -/
def LTR_SET : Nat := 0x02800000
def LTR_SET_LOADED : Fld := ⟨0x02800000, 31, 1⟩
def LTR_SET_M128 : Fld := ⟨0x02800000, 30, 1⟩
def LTR_SET_BANDS : Fld := ⟨0x02800000, 23, 7⟩
def LTR_SET_ENTRIES : Fld := ⟨0x02800000, 0, 23⟩
/-- `LTR_ERR_CNT` (R246). -/
def LTR_ERR_CNT : Nat := 0x02800040
def LTR_ERR_CNT_NAN_SCORE : Fld := ⟨0x02800040, 16, 16⟩
def LTR_ERR_CNT_BAD_FILTER : Fld := ⟨0x02800040, 0, 16⟩
/-- `LTR_SNAP` (R246). -/
def LTR_SNAP : Nat := 0x028000FC
def LTR_SNAP_LATCH : Fld := ⟨0x028000FC, 0, 1⟩
/-- `TOK_LANES` (R283). -/
def TOK_LANES : Nat := 0x02C00000
def TOK_LANES_IN_ROT : Fld := ⟨0x02C00000, 16, 16⟩
def TOK_LANES_COUNT : Fld := ⟨0x02C00000, 0, 5⟩
/-- `TOK_CACHE` (R283). -/
def TOK_CACHE : Nat := 0x02C00004
def TOK_CACHE_MIB : Fld := ⟨0x02C00004, 0, 8⟩
/-- `TOK_VOCAB` (R283). -/
def TOK_VOCAB : Nat := 0x02C00080
def TOK_VOCAB_LOADED : Fld := ⟨0x02C00080, 31, 1⟩
def TOK_VOCAB_TOKENS : Fld := ⟨0x02C00080, 0, 19⟩
/-- `TOK_ERR_CNT` (R283). -/
def TOK_ERR_CNT : Nat := 0x02C00040
def TOK_ERR_CNT_INVALID : Fld := ⟨0x02C00040, 16, 16⟩
def TOK_ERR_CNT_MASKED : Fld := ⟨0x02C00040, 0, 16⟩
/-- `TOK_ERR_CNT1` (R283). -/
def TOK_ERR_CNT1 : Nat := 0x02C00044
def TOK_ERR_CNT1_LIMIT : Fld := ⟨0x02C00044, 16, 16⟩
def TOK_ERR_CNT1_DAMAGED : Fld := ⟨0x02C00044, 0, 16⟩
/-- `TOK_SNAP` (R283). -/
def TOK_SNAP : Nat := 0x02C000FC
def TOK_SNAP_LATCH : Fld := ⟨0x02C000FC, 0, 1⟩
/-- `CSK_STORE_BASE_LO` (R284). -/
def CSK_STORE_BASE_LO : Nat := 0x03000000
def CSK_STORE_BASE_LO_BASE_L : Fld := ⟨0x03000000, 16, 16⟩
/-- `CSK_STORE_BASE_HI` (R284). -/
def CSK_STORE_BASE_HI : Nat := 0x03000004
def CSK_STORE_BASE_HI_BASE_H : Fld := ⟨0x03000004, 0, 16⟩
/-- `CSK_STORE_SIZE` (R284). -/
def CSK_STORE_SIZE : Nat := 0x03000008
def CSK_STORE_SIZE_GIB : Fld := ⟨0x03000008, 0, 16⟩
/-- `CSK_STORE_USED` (R284). -/
def CSK_STORE_USED : Nat := 0x0300000C
def CSK_STORE_USED_MIB : Fld := ⟨0x0300000C, 0, 32⟩
/-- `CSK_ERR_CNT` (R284). -/
def CSK_ERR_CNT : Nat := 0x03000040
def CSK_ERR_CNT_DROPPED : Fld := ⟨0x03000040, 16, 16⟩
def CSK_ERR_CNT_REFUSED : Fld := ⟨0x03000040, 0, 16⟩
/-- `CSK_SNAP` (R284). -/
def CSK_SNAP : Nat := 0x030000FC
def CSK_SNAP_LATCH : Fld := ⟨0x030000FC, 0, 1⟩
/-- `FLS_POP` (R317). -/
def FLS_POP : Nat := 0x01000000
def FLS_POP_MODE : Fld := ⟨0x01000000, 30, 2⟩
def FLS_POP_CHANNELS : Fld := ⟨0x01000000, 24, 6⟩
def FLS_POP_DIES : Fld := ⟨0x01000000, 16, 6⟩
def FLS_POP_CES : Fld := ⟨0x01000000, 8, 3⟩
def FLS_POP_LUNS : Fld := ⟨0x01000000, 4, 4⟩
def FLS_POP_MISMATCH : Fld := ⟨0x01000000, 0, 1⟩
/-- `FLS_RATE` (R317). -/
def FLS_RATE : Nat := 0x01000004
def FLS_RATE_TARGET : Fld := ⟨0x01000004, 0, 3⟩
/-- `FLS_CHAN_RATE` (R317). -/
def FLS_CHAN_RATE : Nat := 0x01000008
def FLS_CHAN_RATE_RATES : Fld := ⟨0x01000008, 0, 32⟩
/-- `FLS_CHAN_STATE` (R317). -/
def FLS_CHAN_STATE : Nat := 0x01000018
def FLS_CHAN_STATE_OUT : Fld := ⟨0x01000018, 0, 32⟩
/-- `FLS_SERVICE` (R317). -/
def FLS_SERVICE : Nat := 0x0100001C
def FLS_SERVICE_BUSY : Fld := ⟨0x0100001C, 31, 1⟩
def FLS_SERVICE_KIND : Fld := ⟨0x0100001C, 29, 2⟩
def FLS_SERVICE_CHANNEL : Fld := ⟨0x0100001C, 0, 5⟩
/-- `FLS_CAL_CFG` (R317). -/
def FLS_CAL_CFG : Nat := 0x01000020
def FLS_CAL_CFG_PERIOD_S : Fld := ⟨0x01000020, 16, 16⟩
def FLS_CAL_CFG_TEMP_DELTA : Fld := ⟨0x01000020, 8, 8⟩
/-- `FLS_PATROL_CFG` (R317). -/
def FLS_PATROL_CFG : Nat := 0x01000024
def FLS_PATROL_CFG_PERIOD_H : Fld := ⟨0x01000024, 24, 8⟩
def FLS_PATROL_CFG_SHARE : Fld := ⟨0x01000024, 16, 8⟩
def FLS_PATROL_CFG_REFRESH_BITS : Fld := ⟨0x01000024, 8, 8⟩
/-- `FLS_PATROL_STAT` (R317). -/
def FLS_PATROL_STAT : Nat := 0x01000028
def FLS_PATROL_STAT_LATE : Fld := ⟨0x01000028, 31, 1⟩
def FLS_PATROL_STAT_PROGRESS : Fld := ⟨0x01000028, 0, 10⟩
/-- `FLS_REBUILD_CFG` (R317). -/
def FLS_REBUILD_CFG : Nat := 0x0100002C
def FLS_REBUILD_CFG_SHARE : Fld := ⟨0x0100002C, 0, 8⟩
/-- `FLS_REBUILD_STAT` (R317). -/
def FLS_REBUILD_STAT : Nat := 0x01000030
def FLS_REBUILD_STAT_ACTIVE : Fld := ⟨0x01000030, 31, 1⟩
def FLS_REBUILD_STAT_CHANNEL : Fld := ⟨0x01000030, 30, 1⟩
def FLS_REBUILD_STAT_DIE : Fld := ⟨0x01000030, 16, 10⟩
def FLS_REBUILD_STAT_PROGRESS : Fld := ⟨0x01000030, 0, 10⟩
/-- `FLS_RETRY_CFG` (R317). -/
def FLS_RETRY_CFG : Nat := 0x01000034
def FLS_RETRY_CFG_RETRY_MAX : Fld := ⟨0x01000034, 0, 4⟩
/-- `FLS_DIE_SEL` (R317). -/
def FLS_DIE_SEL : Nat := 0x01000038
def FLS_DIE_SEL_DIE : Fld := ⟨0x01000038, 0, 10⟩
/-- `FLS_DIE_INFO` (R317). -/
def FLS_DIE_INFO : Nat := 0x0100003C
def FLS_DIE_INFO_STATE : Fld := ⟨0x0100003C, 29, 3⟩
def FLS_DIE_INFO_RETIRED : Fld := ⟨0x0100003C, 0, 16⟩
/-- `FLS_ERR_CNT` (R317). -/
def FLS_ERR_CNT : Nat := 0x01000040
def FLS_ERR_CNT_UNREADABLE : Fld := ⟨0x01000040, 16, 16⟩
def FLS_ERR_CNT_RECONSTRUCTED : Fld := ⟨0x01000040, 0, 16⟩
/-- `FLS_ERR_CNT1` (R317). -/
def FLS_ERR_CNT1 : Nat := 0x01000044
def FLS_ERR_CNT1_PROG_FAIL : Fld := ⟨0x01000044, 16, 16⟩
def FLS_ERR_CNT1_ERASE_FAIL : Fld := ⟨0x01000044, 0, 16⟩
/-- `FLS_ERR_CNT2` (R317). -/
def FLS_ERR_CNT2 : Nat := 0x01000048
def FLS_ERR_CNT2_MISCORRECT : Fld := ⟨0x01000048, 16, 16⟩
def FLS_ERR_CNT2_DEAD_DIES : Fld := ⟨0x01000048, 0, 16⟩
/-- `FLS_SNAP` (R317). -/
def FLS_SNAP : Nat := 0x010000FC
def FLS_SNAP_LATCH : Fld := ⟨0x010000FC, 0, 1⟩
/-- `FTL_STATE` (R353). -/
def FTL_STATE : Nat := 0x01400000
def FTL_STATE_STATE : Fld := ⟨0x01400000, 29, 3⟩
def FTL_STATE_SPACES : Fld := ⟨0x01400000, 0, 12⟩
/-- `FTL_MAPC_CFG` (R353). -/
def FTL_MAPC_CFG : Nat := 0x01400004
def FTL_MAPC_CFG_GIB : Fld := ⟨0x01400004, 0, 10⟩
/-- `FTL_WRITE_CFG` (R353). -/
def FTL_WRITE_CFG : Nat := 0x01400008
def FTL_WRITE_CFG_FILL_US : Fld := ⟨0x01400008, 0, 16⟩
/-- `FTL_JNL_CFG` (R353). -/
def FTL_JNL_CFG : Nat := 0x0140000C
def FTL_JNL_CFG_LIMIT_EFF : Fld := ⟨0x0140000C, 16, 9⟩
def FTL_JNL_CFG_DIRTY_LIMIT : Fld := ⟨0x0140000C, 0, 9⟩
/-- `FTL_JNL_STAT` (R353). -/
def FTL_JNL_STAT : Nat := 0x01400010
def FTL_JNL_STAT_DIRTY_KIB : Fld := ⟨0x01400010, 16, 16⟩
def FTL_JNL_STAT_FLASH_MIB : Fld := ⟨0x01400010, 0, 16⟩
/-- `FTL_CKPT_CFG` (R353). -/
def FTL_CKPT_CFG : Nat := 0x01400014
def FTL_CKPT_CFG_CKPT_MIB : Fld := ⟨0x01400014, 0, 16⟩
/-- `FTL_GC_CFG` (R353). -/
def FTL_GC_CFG : Nat := 0x01400018
def FTL_GC_CFG_FREE_LOW : Fld := ⟨0x01400018, 24, 8⟩
def FTL_GC_CFG_FREE_MIN : Fld := ⟨0x01400018, 16, 8⟩
def FTL_GC_CFG_IDLE_MS : Fld := ⟨0x01400018, 8, 8⟩
def FTL_GC_CFG_BG_VALID : Fld := ⟨0x01400018, 0, 8⟩
/-- `FTL_SB_FREE` (R353). -/
def FTL_SB_FREE : Nat := 0x0140001C
def FTL_SB_FREE_FREE : Fld := ⟨0x0140001C, 0, 18⟩
/-- `FTL_SB_TOTAL` (R353). -/
def FTL_SB_TOTAL : Nat := 0x01400020
def FTL_SB_TOTAL_TOTAL : Fld := ⟨0x01400020, 0, 18⟩
/-- `FTL_GC_STAT` (R353). -/
def FTL_GC_STAT : Nat := 0x01400024
def FTL_GC_STAT_FG : Fld := ⟨0x01400024, 31, 1⟩
def FTL_GC_STAT_BG : Fld := ⟨0x01400024, 30, 1⟩
def FTL_GC_STAT_VICTIM : Fld := ⟨0x01400024, 0, 18⟩
/-- `FTL_CREDIT` (R353). -/
def FTL_CREDIT : Nat := 0x01400028
def FTL_CREDIT_CREDITS : Fld := ⟨0x01400028, 0, 32⟩
/-- `FTL_USER_LO` (R353). -/
def FTL_USER_LO : Nat := 0x01400030
def FTL_USER_LO_UNITS_L : Fld := ⟨0x01400030, 0, 32⟩
/-- `FTL_USER_HI` (R353). -/
def FTL_USER_HI : Nat := 0x01400034
def FTL_USER_HI_UNITS_H : Fld := ⟨0x01400034, 0, 8⟩
/-- `FTL_ERR_CNT` (R353). -/
def FTL_ERR_CNT : Nat := 0x01400040
def FTL_ERR_CNT_OOB_MISMATCH : Fld := ⟨0x01400040, 16, 16⟩
def FTL_ERR_CNT_UNREADABLE : Fld := ⟨0x01400040, 0, 16⟩
/-- `FTL_ERR_CNT1` (R353). -/
def FTL_ERR_CNT1 : Nat := 0x01400044
def FTL_ERR_CNT1_GC_TARGET_FAIL : Fld := ⟨0x01400044, 16, 16⟩
def FTL_ERR_CNT1_WRITE_PROG_FAIL : Fld := ⟨0x01400044, 0, 16⟩
/-- `FTL_SNAP` (R353). -/
def FTL_SNAP : Nat := 0x014000FC
def FTL_SNAP_LATCH : Fld := ⟨0x014000FC, 0, 1⟩
/-- `NET_PORT_CFG` (R386). -/
def NET_PORT_CFG : Nat := 0x03400000
def NET_PORT_CFG_EN : Fld := ⟨0x03400000, 31, 1⟩
def NET_PORT_CFG_BREAKOUT : Fld := ⟨0x03400000, 30, 1⟩
def NET_PORT_CFG_MEDIA : Fld := ⟨0x03400000, 28, 2⟩
def NET_PORT_CFG_MAX_FRAME : Fld := ⟨0x03400000, 0, 14⟩
/-- `NET_PORT_STAT` (R386). -/
def NET_PORT_STAT : Nat := 0x03400010
def NET_PORT_STAT_PRESENT : Fld := ⟨0x03400010, 31, 1⟩
def NET_PORT_STAT_DOWN1 : Fld := ⟨0x03400010, 3, 1⟩
def NET_PORT_STAT_DOWN0 : Fld := ⟨0x03400010, 2, 1⟩
def NET_PORT_STAT_UP1 : Fld := ⟨0x03400010, 1, 1⟩
def NET_PORT_STAT_UP0 : Fld := ⟨0x03400010, 0, 1⟩
/-- `NET_PRIO_CFG` (R386). -/
def NET_PRIO_CFG : Nat := 0x03400020
def NET_PRIO_CFG_DATA_DSCP : Fld := ⟨0x03400020, 24, 6⟩
def NET_PRIO_CFG_CTRL_DSCP : Fld := ⟨0x03400020, 16, 6⟩
def NET_PRIO_CFG_DATA_PRIO : Fld := ⟨0x03400020, 4, 3⟩
def NET_PRIO_CFG_CTRL_PRIO : Fld := ⟨0x03400020, 0, 3⟩
/-- `NET_ERR_CNT` (R386). -/
def NET_ERR_CNT : Nat := 0x03400040
def NET_ERR_CNT_FEC_UNCORR : Fld := ⟨0x03400040, 16, 16⟩
def NET_ERR_CNT_PUNT_DROP : Fld := ⟨0x03400040, 0, 16⟩
/-- `NET_SNAP` (R386). -/
def NET_SNAP : Nat := 0x034000FC
def NET_SNAP_LATCH : Fld := ⟨0x034000FC, 0, 1⟩
/-- `RDM_QCT_IDX` (R386). -/
def RDM_QCT_IDX : Nat := 0x03800000
def RDM_QCT_IDX_QCN : Fld := ⟨0x03800000, 0, 16⟩
/-- `RDM_QP_STATE` (R386). -/
def RDM_QP_STATE : Nat := 0x03800004
def RDM_QP_STATE_TYPE : Fld := ⟨0x03800004, 30, 2⟩
def RDM_QP_STATE_STATE : Fld := ⟨0x03800004, 27, 3⟩
def RDM_QP_STATE_FLUSH_DONE : Fld := ⟨0x03800004, 26, 1⟩
def RDM_QP_STATE_CMD_REJECT : Fld := ⟨0x03800004, 25, 1⟩
def RDM_QP_STATE_CMD : Fld := ⟨0x03800004, 0, 3⟩
/-- `RDM_QP_PATH` (R386). -/
def RDM_QP_PATH : Nat := 0x03800008
def RDM_QP_PATH_CLASS : Fld := ⟨0x03800008, 31, 1⟩
def RDM_QP_PATH_SUBPORT : Fld := ⟨0x03800008, 28, 3⟩
def RDM_QP_PATH_PMTU : Fld := ⟨0x03800008, 26, 2⟩
def RDM_QP_PATH_SUBSCRIBER : Fld := ⟨0x03800008, 0, 12⟩
/-- `RDM_RETRY_CFG` (R386). -/
def RDM_RETRY_CFG : Nat := 0x03800010
def RDM_RETRY_CFG_DATA_TMO : Fld := ⟨0x03800010, 16, 16⟩
def RDM_RETRY_CFG_CTRL_TMO : Fld := ⟨0x03800010, 8, 8⟩
def RDM_RETRY_CFG_DATA_RETRY : Fld := ⟨0x03800010, 4, 4⟩
def RDM_RETRY_CFG_CTRL_RETRY : Fld := ⟨0x03800010, 0, 4⟩
/-- `RDM_REVOKE_CFG` (R386). -/
def RDM_REVOKE_CFG : Nat := 0x03800014
def RDM_REVOKE_CFG_REVOKE_TMO : Fld := ⟨0x03800014, 0, 8⟩
/-- `RDM_REGIONS` (R386). -/
def RDM_REGIONS : Nat := 0x03800018
def RDM_REGIONS_IN_USE : Fld := ⟨0x03800018, 0, 21⟩
/-- `RDM_ERR_CNT` (R386). -/
def RDM_ERR_CNT : Nat := 0x03800040
def RDM_ERR_CNT_QP_ERR : Fld := ⟨0x03800040, 16, 16⟩
def RDM_ERR_CNT_KEY_FAIL : Fld := ⟨0x03800040, 0, 16⟩
/-- `RDM_ERR_CNT1` (R386). -/
def RDM_ERR_CNT1 : Nat := 0x03800044
def RDM_ERR_CNT1_STALE_DUP : Fld := ⟨0x03800044, 16, 16⟩
def RDM_ERR_CNT1_BAD_QPN : Fld := ⟨0x03800044, 0, 16⟩
/-- `RDM_SNAP` (R386). -/
def RDM_SNAP : Nat := 0x038000FC
def RDM_SNAP_LATCH : Fld := ⟨0x038000FC, 0, 1⟩
/-- `WER_SVC_CFG` (R404). -/
def WER_SVC_CFG : Nat := 0x03C00000
def WER_SVC_CFG_WEIGHT : Fld := ⟨0x03C00000, 24, 8⟩
def WER_SVC_CFG_RATE : Fld := ⟨0x03C00000, 0, 16⟩
/-- `WER_OVH` (R404). -/
def WER_OVH : Nat := 0x03C00010
def WER_OVH_OVERHEAD : Fld := ⟨0x03C00010, 0, 8⟩
/-- `WER_SUB_IDX` (R404). -/
def WER_SUB_IDX : Nat := 0x03C00014
def WER_SUB_IDX_SUB : Fld := ⟨0x03C00014, 0, 12⟩
/-- `WER_SUB_CFG` (R404). -/
def WER_SUB_CFG : Nat := 0x03C00018
def WER_SUB_CFG_WEIGHT : Fld := ⟨0x03C00018, 24, 8⟩
def WER_SUB_CFG_TELEM : Fld := ⟨0x03C00018, 23, 1⟩
def WER_SUB_CFG_RATE : Fld := ⟨0x03C00018, 0, 16⟩
/-- `WER_CC_CFG` (R404). -/
def WER_CC_CFG : Nat := 0x03C0001C
def WER_CC_CFG_CUT : Fld := ⟨0x03C0001C, 28, 4⟩
def WER_CC_CFG_RISE : Fld := ⟨0x03C0001C, 16, 12⟩
def WER_CC_CFG_INTERVAL : Fld := ⟨0x03C0001C, 8, 8⟩
def WER_CC_CFG_RMIN : Fld := ⟨0x03C0001C, 0, 8⟩
/-- `WER_PFC_CFG` (R404). -/
def WER_PFC_CFG : Nat := 0x03C00020
def WER_PFC_CFG_XOFF_KIB : Fld := ⟨0x03C00020, 16, 16⟩
def WER_PFC_CFG_XON_KIB : Fld := ⟨0x03C00020, 0, 16⟩
/-- `WER_Q_IDX` (R404). -/
def WER_Q_IDX : Nat := 0x03C00024
def WER_Q_IDX_AGG : Fld := ⟨0x03C00024, 31, 1⟩
def WER_Q_IDX_SUBPORT : Fld := ⟨0x03C00024, 16, 3⟩
def WER_Q_IDX_SERVICE : Fld := ⟨0x03C00024, 12, 2⟩
def WER_Q_IDX_SUB : Fld := ⟨0x03C00024, 0, 12⟩
/-- `WER_Q_DEPTH` (R404). -/
def WER_Q_DEPTH : Nat := 0x03C00028
def WER_Q_DEPTH_LAST : Fld := ⟨0x03C00028, 16, 16⟩
def WER_Q_DEPTH_MAX : Fld := ⟨0x03C00028, 0, 16⟩
/-- `WER_Q_DELAY` (R404). -/
def WER_Q_DELAY : Nat := 0x03C0002C
def WER_Q_DELAY_LAST : Fld := ⟨0x03C0002C, 16, 16⟩
def WER_Q_DELAY_MAX : Fld := ⟨0x03C0002C, 0, 16⟩
/-- `WER_PAUSE_STAT` (R404). -/
def WER_PAUSE_STAT : Nat := 0x03C00030
def WER_PAUSE_STAT_XOFF_SENT : Fld := ⟨0x03C00030, 8, 8⟩
def WER_PAUSE_STAT_PAUSED : Fld := ⟨0x03C00030, 0, 8⟩
/-- `WER_ERR_CNT` (R404). -/
def WER_ERR_CNT : Nat := 0x03C00040
def WER_ERR_CNT_PAUSE_LONG : Fld := ⟨0x03C00040, 16, 16⟩
def WER_ERR_CNT_OVERRUN : Fld := ⟨0x03C00040, 0, 16⟩
/-- `WER_SNAP` (R404). -/
def WER_SNAP : Nat := 0x03C000FC
def WER_SNAP_LATCH : Fld := ⟨0x03C000FC, 0, 1⟩
/-- `HST_LINK` (R441). -/
def HST_LINK : Nat := 0x04000000
def HST_LINK_UP : Fld := ⟨0x04000000, 31, 1⟩
def HST_LINK_FLIT : Fld := ⟨0x04000000, 30, 1⟩
def HST_LINK_SPEED : Fld := ⟨0x04000000, 27, 3⟩
def HST_LINK_WIDTH : Fld := ⟨0x04000000, 22, 5⟩
/-- `HST_FN_IDX` (R441). -/
def HST_FN_IDX : Nat := 0x04000004
def HST_FN_IDX_FN : Fld := ⟨0x04000004, 0, 6⟩
/-- `HST_FN_CFG` (R441). -/
def HST_FN_CFG : Nat := 0x04000008
def HST_FN_CFG_WEIGHT : Fld := ⟨0x04000008, 0, 8⟩
/-- `HST_PWR` (R441). -/
def HST_PWR : Nat := 0x0400000C
def HST_PWR_PS : Fld := ⟨0x0400000C, 29, 3⟩
def HST_PWR_FLOOR : Fld := ⟨0x0400000C, 0, 3⟩
/-- `HST_ERR_CNT` (R441). -/
def HST_ERR_CNT : Nat := 0x04000040
def HST_ERR_CNT_AER_CORR : Fld := ⟨0x04000040, 16, 16⟩
def HST_ERR_CNT_AER_UNCORR : Fld := ⟨0x04000040, 0, 16⟩
/-- `HST_ERR_CNT1` (R441). -/
def HST_ERR_CNT1 : Nat := 0x04000044
def HST_ERR_CNT1_DB_DISCARD : Fld := ⟨0x04000044, 16, 16⟩
def HST_ERR_CNT1_NVME_ERR : Fld := ⟨0x04000044, 0, 16⟩
/-- `HST_SNAP` (R441). -/
def HST_SNAP : Nat := 0x040000FC
def HST_SNAP_LATCH : Fld := ⟨0x040000FC, 0, 1⟩
/-- `DMA_CFG` (R441). -/
def DMA_CFG : Nat := 0x04400000
def DMA_CFG_AGE : Fld := ⟨0x04400000, 0, 16⟩
/-- `DMA_ERR_CNT` (R441). -/
def DMA_ERR_CNT : Nat := 0x04400040
def DMA_ERR_CNT_HOST_ERROR : Fld := ⟨0x04400040, 16, 16⟩
def DMA_ERR_CNT_GO_IGNORED : Fld := ⟨0x04400040, 0, 16⟩
/-- `DMA_SNAP` (R441). -/
def DMA_SNAP : Nat := 0x044000FC
def DMA_SNAP_LATCH : Fld := ⟨0x044000FC, 0, 1⟩
/-- `DMA_CH_SRC_LO` (R442). -/
def DMA_CH_SRC_LO : Nat := 0x04410008
def DMA_CH_SRC_LO_ADDR_L : Fld := ⟨0x04410008, 0, 32⟩
/-- `DMA_CH_DST_LO` (R442). -/
def DMA_CH_DST_LO : Nat := 0x04410010
def DMA_CH_DST_LO_ADDR_L : Fld := ⟨0x04410010, 0, 32⟩
/-- `DMA_CH_SH_SRC_LO` (R442). -/
def DMA_CH_SH_SRC_LO : Nat := 0x04410020
def DMA_CH_SH_SRC_LO_ADDR_L : Fld := ⟨0x04410020, 0, 32⟩
/-- `DMA_CH_SH_DST_LO` (R442). -/
def DMA_CH_SH_DST_LO : Nat := 0x04410028
def DMA_CH_SH_DST_LO_ADDR_L : Fld := ⟨0x04410028, 0, 32⟩
/-- `DMA_CH_SRC_HI` (R442). -/
def DMA_CH_SRC_HI : Nat := 0x0441000C
def DMA_CH_SRC_HI_ADDR_H : Fld := ⟨0x0441000C, 0, 32⟩
/-- `DMA_CH_DST_HI` (R442). -/
def DMA_CH_DST_HI : Nat := 0x04410014
def DMA_CH_DST_HI_ADDR_H : Fld := ⟨0x04410014, 0, 32⟩
/-- `DMA_CH_SH_SRC_HI` (R442). -/
def DMA_CH_SH_SRC_HI : Nat := 0x04410024
def DMA_CH_SH_SRC_HI_ADDR_H : Fld := ⟨0x04410024, 0, 32⟩
/-- `DMA_CH_SH_DST_HI` (R442). -/
def DMA_CH_SH_DST_HI : Nat := 0x0441002C
def DMA_CH_SH_DST_HI_ADDR_H : Fld := ⟨0x0441002C, 0, 32⟩
/-- `DMA_CH_COUNT` (R442). -/
def DMA_CH_COUNT : Nat := 0x04410018
def DMA_CH_COUNT_BYTES : Fld := ⟨0x04410018, 0, 32⟩
/-- `DMA_CH_SH_COUNT` (R442). -/
def DMA_CH_SH_COUNT : Nat := 0x04410030
def DMA_CH_SH_COUNT_BYTES : Fld := ⟨0x04410030, 0, 32⟩
/-- `DMA_CH_CTL` (R442). -/
def DMA_CH_CTL : Nat := 0x04410000
def DMA_CH_CTL_MODE : Fld := ⟨0x04410000, 30, 2⟩
def DMA_CH_CTL_PRIO : Fld := ⟨0x04410000, 27, 3⟩
def DMA_CH_CTL_SWAP : Fld := ⟨0x04410000, 24, 3⟩
def DMA_CH_CTL_SRC_HOST : Fld := ⟨0x04410000, 23, 1⟩
def DMA_CH_CTL_DST_HOST : Fld := ⟨0x04410000, 22, 1⟩
def DMA_CH_CTL_FN : Fld := ⟨0x04410000, 16, 6⟩
def DMA_CH_CTL_VECTOR : Fld := ⟨0x04410000, 8, 8⟩
def DMA_CH_CTL_IRQ_EN : Fld := ⟨0x04410000, 2, 1⟩
def DMA_CH_CTL_PAUSE : Fld := ⟨0x04410000, 1, 1⟩
def DMA_CH_CTL_GO : Fld := ⟨0x04410000, 0, 1⟩
/-- `DMA_CH_STAT` (R442). -/
def DMA_CH_STAT : Nat := 0x04410004
def DMA_CH_STAT_BUSY : Fld := ⟨0x04410004, 31, 1⟩
def DMA_CH_STAT_PAUSED : Fld := ⟨0x04410004, 30, 1⟩
def DMA_CH_STAT_DONE : Fld := ⟨0x04410004, 29, 1⟩
def DMA_CH_STAT_ERR : Fld := ⟨0x04410004, 28, 1⟩
def DMA_CH_STAT_CAUSE : Fld := ⟨0x04410004, 24, 4⟩
/-- `BPM_BITMAP_LO` (R443). -/
def BPM_BITMAP_LO : Nat := 0x04800000
def BPM_BITMAP_LO_ADDR_L : Fld := ⟨0x04800000, 6, 26⟩
/-- `BPM_BITMAP_HI` (R443). -/
def BPM_BITMAP_HI : Nat := 0x04800004
def BPM_BITMAP_HI_ADDR_H : Fld := ⟨0x04800004, 0, 16⟩
/-- `BPM_POOL_BASE_LO` (R443). -/
def BPM_POOL_BASE_LO : Nat := 0x04801000
def BPM_POOL_BASE_LO_BASE_L : Fld := ⟨0x04801000, 8, 24⟩
/-- `BPM_POOL_BASE_HI` (R443). -/
def BPM_POOL_BASE_HI : Nat := 0x04801004
def BPM_POOL_BASE_HI_BASE_H : Fld := ⟨0x04801004, 0, 16⟩
/-- `BPM_POOL_CFG` (R443). -/
def BPM_POOL_CFG : Nat := 0x04801008
def BPM_POOL_CFG_EN : Fld := ⟨0x04801008, 31, 1⟩
def BPM_POOL_CFG_BUILDING : Fld := ⟨0x04801008, 30, 1⟩
def BPM_POOL_CFG_BROKEN : Fld := ⟨0x04801008, 29, 1⟩
def BPM_POOL_CFG_COUNT : Fld := ⟨0x04801008, 0, 24⟩
/-- `BPM_POOL_FREE` (R443). -/
def BPM_POOL_FREE : Nat := 0x0480100C
def BPM_POOL_FREE_FREE : Fld := ⟨0x0480100C, 0, 24⟩
/-- `BPM_ERR_CNT` (R443). -/
def BPM_ERR_CNT : Nat := 0x04800040
def BPM_ERR_CNT_BAD_FREE : Fld := ⟨0x04800040, 16, 16⟩
def BPM_ERR_CNT_CFG_IGNORED : Fld := ⟨0x04800040, 0, 16⟩
/-- `BPM_SNAP` (R443). -/
def BPM_SNAP : Nat := 0x048000FC
def BPM_SNAP_LATCH : Fld := ⟨0x048000FC, 0, 1⟩
/-- `GTC_NOW_LO` (R476). -/
def GTC_NOW_LO : Nat := 0x00300000
def GTC_NOW_LO_COUNT_L : Fld := ⟨0x00300000, 0, 32⟩
/-- `GTC_NOW_HI` (R476). -/
def GTC_NOW_HI : Nat := 0x00300004
def GTC_NOW_HI_COUNT_H : Fld := ⟨0x00300004, 0, 32⟩
/-- `GTC_SYNC` (R476). -/
def GTC_SYNC : Nat := 0x00300008
def GTC_SYNC_STATE : Fld := ⟨0x00300008, 30, 2⟩
def GTC_SYNC_LOST : Fld := ⟨0x00300008, 29, 1⟩
/-- `GTC_OFFSET` (R476). -/
def GTC_OFFSET : Nat := 0x0030000C
def GTC_OFFSET_NS : Fld := ⟨0x0030000C, 0, 32⟩
/-- `GTC_RATE` (R476). -/
def GTC_RATE : Nat := 0x00300010
def GTC_RATE_PPB : Fld := ⟨0x00300010, 0, 32⟩
/-- `GTC_LEASE_LO` (R476). -/
def GTC_LEASE_LO : Nat := 0x00300018
def GTC_LEASE_LO_EXP_L : Fld := ⟨0x00300018, 0, 32⟩
/-- `GTC_LEASE_HI` (R476). -/
def GTC_LEASE_HI : Nat := 0x0030001C
def GTC_LEASE_HI_EXP_H : Fld := ⟨0x0030001C, 0, 32⟩
/-- `GTC_FENCE` (R476). -/
def GTC_FENCE : Nat := 0x00300020
def GTC_FENCE_FENCED : Fld := ⟨0x00300020, 31, 1⟩
def GTC_FENCE_LEASE_EN : Fld := ⟨0x00300020, 30, 1⟩
def GTC_FENCE_UNFENCE : Fld := ⟨0x00300020, 0, 1⟩
/-- `GTC_TERM` (R476). -/
def GTC_TERM : Nat := 0x00300024
def GTC_TERM_TERM : Fld := ⟨0x00300024, 0, 32⟩
/-- `GTC_ERR_CNT` (R476). -/
def GTC_ERR_CNT : Nat := 0x00300040
def GTC_ERR_CNT_FENCES : Fld := ⟨0x00300040, 16, 16⟩
def GTC_ERR_CNT_SYNC_LOST : Fld := ⟨0x00300040, 0, 16⟩
/-- `GTC_SNAP` (R476). -/
def GTC_SNAP : Nat := 0x003000FC
def GTC_SNAP_LATCH : Fld := ⟨0x003000FC, 0, 1⟩
/-- `POL_STATE` (R503). -/
def POL_STATE : Nat := 0x00100000
def POL_STATE_STATE : Fld := ⟨0x00100000, 0, 22⟩
/-- `POL_MODE` (R503). -/
def POL_MODE : Nat := 0x00100004
def POL_MODE_CUR : Fld := ⟨0x00100004, 29, 3⟩
def POL_MODE_TARGET : Fld := ⟨0x00100004, 26, 3⟩
def POL_MODE_BUSY : Fld := ⟨0x00100004, 25, 1⟩
def POL_MODE_REFUSED : Fld := ⟨0x00100004, 24, 1⟩
def POL_MODE_CAUSE : Fld := ⟨0x00100004, 20, 4⟩
/-- `POL_LADDER` (R503). -/
def POL_LADDER : Nat := 0x00100008
def POL_LADDER_BUDGET_W : Fld := ⟨0x00100008, 24, 8⟩
def POL_LADDER_SPACING_US : Fld := ⟨0x00100008, 16, 8⟩
/-- `POL_STAGGER` (R503). -/
def POL_STAGGER : Nat := 0x0010000C
def POL_STAGGER_STEP_US : Fld := ⟨0x0010000C, 16, 16⟩
def POL_STAGGER_SLOT : Fld := ⟨0x0010000C, 0, 6⟩
/-- `POL_WAKE` (R503). -/
def POL_WAKE : Nat := 0x00100010
def POL_WAKE_CAUSE : Fld := ⟨0x00100010, 28, 4⟩
def POL_WAKE_PEND : Fld := ⟨0x00100010, 16, 3⟩
def POL_WAKE_EN_GTC : Fld := ⟨0x00100010, 2, 1⟩
def POL_WAKE_EN_PCIE : Fld := ⟨0x00100010, 1, 1⟩
def POL_WAKE_EN_SMB : Fld := ⟨0x00100010, 0, 1⟩
/-- `POL_SMB` (R503). -/
def POL_SMB : Nat := 0x00100014
def POL_SMB_I3C : Fld := ⟨0x00100014, 31, 1⟩
def POL_SMB_ADDR : Fld := ⟨0x00100014, 0, 7⟩
/-- `POL_PAD` (R503). -/
def POL_PAD : Nat := 0x00100018
def POL_PAD_HELD : Fld := ⟨0x00100018, 16, 11⟩
def POL_PAD_RELEASE : Fld := ⟨0x00100018, 0, 11⟩
/-- `POL_CORE_RST` (R503). -/
def POL_CORE_RST : Nat := 0x0010001C
def POL_CORE_RST_RUN : Fld := ⟨0x0010001C, 0, 16⟩
/-- `POL_RESET` (R503). -/
def POL_RESET : Nat := 0x00100020
def POL_RESET_CONFIRM : Fld := ⟨0x00100020, 16, 16⟩
def POL_RESET_POLDER : Fld := ⟨0x00100020, 12, 4⟩
def POL_RESET_KIND : Fld := ⟨0x00100020, 0, 2⟩
/-- `POL_SAVE_STAT` (R503). -/
def POL_SAVE_STAT : Nat := 0x00100024
def POL_SAVE_STAT_VALID : Fld := ⟨0x00100024, 31, 1⟩
def POL_SAVE_STAT_CRC_FAIL : Fld := ⟨0x00100024, 30, 1⟩
def POL_SAVE_STAT_RECORDS : Fld := ⟨0x00100024, 0, 16⟩
/-- `POL_WAKE_AT_LO` (R503). -/
def POL_WAKE_AT_LO : Nat := 0x00100028
def POL_WAKE_AT_LO_AT_L : Fld := ⟨0x00100028, 0, 32⟩
/-- `POL_WAKE_AT_HI` (R503). -/
def POL_WAKE_AT_HI : Nat := 0x0010002C
def POL_WAKE_AT_HI_AT_H : Fld := ⟨0x0010002C, 0, 32⟩
/-- `POL_CLK` (R503). -/
def POL_CLK : Nat := 0x00100080
def POL_CLK_STOP : Fld := ⟨0x00100080, 31, 1⟩
def POL_CLK_STOPPED : Fld := ⟨0x00100080, 30, 1⟩
def POL_CLK_SRC : Fld := ⟨0x00100080, 29, 1⟩
def POL_CLK_LOCK : Fld := ⟨0x00100080, 28, 1⟩
def POL_CLK_OPP : Fld := ⟨0x00100080, 26, 2⟩
def POL_CLK_OPP_CUR : Fld := ⟨0x00100080, 24, 2⟩
/-- `POL_ERR_CNT` (R503). -/
def POL_ERR_CNT : Nat := 0x00100040
def POL_ERR_CNT_PLL_UNLOCK : Fld := ⟨0x00100040, 16, 16⟩
def POL_ERR_CNT_RESTORE_FAIL : Fld := ⟨0x00100040, 0, 16⟩
/-- `POL_SNAP` (R503). -/
def POL_SNAP : Nat := 0x001000FC
def POL_SNAP_LATCH : Fld := ⟨0x001000FC, 0, 1⟩
/-- `MGT_INPUT` (R528). -/
def MGT_INPUT : Nat := 0x00200000
def MGT_INPUT_IIN : Fld := ⟨0x00200000, 16, 16⟩
def MGT_INPUT_VIN : Fld := ⟨0x00200000, 0, 16⟩
/-- `MGT_POWER` (R528). -/
def MGT_POWER : Nat := 0x00200004
def MGT_POWER_NAND : Fld := ⟨0x00200004, 16, 16⟩
def MGT_POWER_INPUT : Fld := ⟨0x00200004, 0, 16⟩
/-- `MGT_BANK` (R528). -/
def MGT_BANK : Nat := 0x00200008
def MGT_BANK_STATE : Fld := ⟨0x00200008, 28, 4⟩
def MGT_BANK_ARMED : Fld := ⟨0x00200008, 27, 1⟩
def MGT_BANK_CHARGER : Fld := ⟨0x00200008, 26, 1⟩
def MGT_BANK_VBANK : Fld := ⟨0x00200008, 0, 16⟩
/-- `MGT_HOLDUP` (R528). -/
def MGT_HOLDUP : Nat := 0x0020000C
def MGT_HOLDUP_HU_LIMIT : Fld := ⟨0x0020000C, 16, 9⟩
def MGT_HOLDUP_CAP : Fld := ⟨0x0020000C, 0, 10⟩
/-- `MGT_CAP` (R528). -/
def MGT_CAP : Nat := 0x00200010
def MGT_CAP_ESR_MOHM : Fld := ⟨0x00200010, 16, 16⟩
def MGT_CAP_C_UF : Fld := ⟨0x00200010, 0, 16⟩
/-- `MGT_HEALTH` (R528). -/
def MGT_HEALTH : Nat := 0x00200014
def MGT_HEALTH_FAILED : Fld := ⟨0x00200014, 31, 1⟩
def MGT_HEALTH_WORN : Fld := ⟨0x00200014, 30, 1⟩
def MGT_HEALTH_ESR_HIGH : Fld := ⟨0x00200014, 29, 1⟩
def MGT_HEALTH_CHARGE_SLOW : Fld := ⟨0x00200014, 28, 1⟩
def MGT_HEALTH_TEST_FAULT : Fld := ⟨0x00200014, 27, 1⟩
def MGT_HEALTH_INPUT_HIGH : Fld := ⟨0x00200014, 26, 1⟩
def MGT_HEALTH_NAND_OVERLOAD : Fld := ⟨0x00200014, 25, 1⟩
/-- `MGT_TEST_CFG` (R528). -/
def MGT_TEST_CFG : Nat := 0x00200018
def MGT_TEST_CFG_REQUEST : Fld := ⟨0x00200018, 31, 1⟩
def MGT_TEST_CFG_REFUSED : Fld := ⟨0x00200018, 30, 1⟩
def MGT_TEST_CFG_POSTPONED : Fld := ⟨0x00200018, 29, 1⟩
def MGT_TEST_CFG_TEST_H : Fld := ⟨0x00200018, 0, 8⟩
/-- `MGT_TEST_AGE` (R528). -/
def MGT_TEST_AGE : Nat := 0x0020001C
def MGT_TEST_AGE_SECONDS : Fld := ⟨0x0020001C, 0, 32⟩
/-- `MGT_CTL` (R528). -/
def MGT_CTL : Nat := 0x00200020
def MGT_CTL_CONFIRM : Fld := ⟨0x00200020, 16, 16⟩
def MGT_CTL_OFF : Fld := ⟨0x00200020, 0, 1⟩
/-- `MGT_ERR_CNT` (R528). -/
def MGT_ERR_CNT : Nat := 0x00200040
def MGT_ERR_CNT_TEST_FAULTS : Fld := ⟨0x00200040, 16, 16⟩
def MGT_ERR_CNT_NAND_OVERLOADS : Fld := ⟨0x00200040, 0, 16⟩
/-- `MGT_RESTART_DS` (R528). -/
def MGT_RESTART_DS : Nat := 0x00200080
def MGT_RESTART_DS_VALID : Fld := ⟨0x00200080, 31, 1⟩
def MGT_RESTART_DS_DATASET : Fld := ⟨0x00200080, 0, 16⟩
/-- `MGT_RESTART_LO` (R528). -/
def MGT_RESTART_LO : Nat := 0x00200084
def MGT_RESTART_LO_SEQ_L : Fld := ⟨0x00200084, 0, 32⟩
/-- `MGT_RESTART_HI` (R528). -/
def MGT_RESTART_HI : Nat := 0x00200088
def MGT_RESTART_HI_SEQ_H : Fld := ⟨0x00200088, 0, 32⟩
/-- `MGT_SNAP` (R528). -/
def MGT_SNAP : Nat := 0x002000FC
def MGT_SNAP_LATCH : Fld := ⟨0x002000FC, 0, 1⟩
/-- `MEM_CHAN_STAT` (R550). -/
def MEM_CHAN_STAT : Nat := 0x04C00000
def MEM_CHAN_STAT_STATE : Fld := ⟨0x04C00000, 0, 24⟩
/-- `FLT_STATUS` (R573). -/
def FLT_STATUS : Nat := 0x00400000
def FLT_STATUS_SAFE : Fld := ⟨0x00400000, 31, 1⟩
def FLT_STATUS_READY : Fld := ⟨0x00400000, 30, 1⟩
def FLT_STATUS_FIRST : Fld := ⟨0x00400000, 16, 8⟩
def FLT_STATUS_FIRST_LOG : Fld := ⟨0x00400000, 0, 6⟩
/-- `FLT_SOURCE` (R573). -/
def FLT_SOURCE : Nat := 0x00400004
def FLT_SOURCE_SRC : Fld := ⟨0x00400004, 1, 8⟩
/-- `FLT_FORCE` (R573). -/
def FLT_FORCE : Nat := 0x00400008
def FLT_FORCE_CONFIRM : Fld := ⟨0x00400008, 16, 16⟩
def FLT_FORCE_FORCE : Fld := ⟨0x00400008, 0, 1⟩
/-- `FLT_WDOG_CFG` (R573). -/
def FLT_WDOG_CFG : Nat := 0x0040000C
def FLT_WDOG_CFG_PERIOD_MS : Fld := ⟨0x0040000C, 16, 16⟩
def FLT_WDOG_CFG_EN : Fld := ⟨0x0040000C, 0, 16⟩
/-- `FLT_WDOG_KICK` (R573). -/
def FLT_WDOG_KICK : Nat := 0x00400010
def FLT_WDOG_KICK_KICK : Fld := ⟨0x00400010, 0, 16⟩
/-- `FLT_LOG_HEAD` (R573). -/
def FLT_LOG_HEAD : Nat := 0x00400014
def FLT_LOG_HEAD_WRAPPED : Fld := ⟨0x00400014, 31, 1⟩
def FLT_LOG_HEAD_NEXT : Fld := ⟨0x00400014, 0, 6⟩
/-- `FLT_OVF_IRQ` (R573). -/
def FLT_OVF_IRQ : Nat := 0x00400018
def FLT_OVF_IRQ_VECTOR : Fld := ⟨0x00400018, 24, 8⟩
def FLT_OVF_IRQ_EN : Fld := ⟨0x00400018, 0, 24⟩
/-- `FLT_OVF_PEND` (R573). -/
def FLT_OVF_PEND : Nat := 0x0040001C
def FLT_OVF_PEND_PEND : Fld := ⟨0x0040001C, 0, 24⟩
/-- `FLT_CNT_CLR` (R573). -/
def FLT_CNT_CLR : Nat := 0x00400020
def FLT_CNT_CLR_CLEAR : Fld := ⟨0x00400020, 0, 24⟩
/-- `FLT_ST_REQ` (R573). -/
def FLT_ST_REQ : Nat := 0x00400024
def FLT_ST_REQ_RETIRE : Fld := ⟨0x00400024, 31, 1⟩
def FLT_ST_REQ_CLASS : Fld := ⟨0x00400024, 24, 4⟩
def FLT_ST_REQ_UNIT : Fld := ⟨0x00400024, 0, 9⟩
/-- `FLT_ST_STAT` (R573). -/
def FLT_ST_STAT : Nat := 0x00400028
def FLT_ST_STAT_BUSY : Fld := ⟨0x00400028, 31, 1⟩
def FLT_ST_STAT_REFUSED : Fld := ⟨0x00400028, 30, 1⟩
def FLT_ST_STAT_LAST : Fld := ⟨0x00400028, 28, 2⟩
def FLT_ST_STAT_CLASS : Fld := ⟨0x00400028, 24, 4⟩
def FLT_ST_STAT_QUEUED : Fld := ⟨0x00400028, 16, 5⟩
def FLT_ST_STAT_UNIT : Fld := ⟨0x00400028, 0, 9⟩
/-- `FLT_RPL_BASE_LO` (R573). -/
def FLT_RPL_BASE_LO : Nat := 0x00400030
def FLT_RPL_BASE_LO_BASE_L : Fld := ⟨0x00400030, 16, 16⟩
/-- `FLT_RPL_BASE_HI` (R573). -/
def FLT_RPL_BASE_HI : Nat := 0x00400034
def FLT_RPL_BASE_HI_BASE_H : Fld := ⟨0x00400034, 0, 16⟩
/-- `FLT_RPL_CFG` (R573). -/
def FLT_RPL_CFG : Nat := 0x00400038
def FLT_RPL_CFG_EN : Fld := ⟨0x00400038, 31, 1⟩
def FLT_RPL_CFG_MIB : Fld := ⟨0x00400038, 0, 16⟩
/-- `FLT_RPL_HEAD` (R573). -/
def FLT_RPL_HEAD : Nat := 0x0040003C
def FLT_RPL_HEAD_OFFSET : Fld := ⟨0x0040003C, 0, 32⟩
/-- `FLT_ERR_CNT` (R573). -/
def FLT_ERR_CNT : Nat := 0x00400040
def FLT_ERR_CNT_ST_FAIL : Fld := ⟨0x00400040, 16, 16⟩
def FLT_ERR_CNT_DOUBTS : Fld := ⟨0x00400040, 0, 16⟩
/-- `FLT_RPL_REQ_LO` (R573). -/
def FLT_RPL_REQ_LO : Nat := 0x00400048
def FLT_RPL_REQ_LO_ADDR_L : Fld := ⟨0x00400048, 0, 32⟩
/-- `FLT_RPL_REQ_HI` (R573). -/
def FLT_RPL_REQ_HI : Nat := 0x0040004C
def FLT_RPL_REQ_HI_BUSY : Fld := ⟨0x0040004C, 31, 1⟩
def FLT_RPL_REQ_HI_DONE : Fld := ⟨0x0040004C, 30, 1⟩
def FLT_RPL_REQ_HI_ADDR_H : Fld := ⟨0x0040004C, 0, 16⟩
/-- `FLT_SNAP` (R573). -/
def FLT_SNAP : Nat := 0x004000FC
def FLT_SNAP_LATCH : Fld := ⟨0x004000FC, 0, 1⟩
/-- `DBG_CTL` (R599). -/
def DBG_CTL : Nat := 0x05000000
def DBG_CTL_PORT_EN : Fld := ⟨0x05000000, 31, 1⟩
def DBG_CTL_CAPTURE : Fld := ⟨0x05000000, 30, 1⟩
def DBG_CTL_SRC_EN : Fld := ⟨0x05000000, 0, 6⟩
/-- `DBG_TRIG_CFG` (R599). -/
def DBG_TRIG_CFG : Nat := 0x05000004
def DBG_TRIG_CFG_ARM : Fld := ⟨0x05000004, 31, 1⟩
def DBG_TRIG_CFG_PRE : Fld := ⟨0x05000004, 16, 5⟩
def DBG_TRIG_CFG_TRIG_SRC : Fld := ⟨0x05000004, 0, 5⟩
/-- `DBG_TRIG` (R599). -/
def DBG_TRIG : Nat := 0x05000008
def DBG_TRIG_FIRE : Fld := ⟨0x05000008, 0, 1⟩
/-- `DBG_STAT` (R599). -/
def DBG_STAT : Nat := 0x0500000C
def DBG_STAT_ARMED : Fld := ⟨0x0500000C, 31, 1⟩
def DBG_STAT_TRIGGERED : Fld := ⟨0x0500000C, 30, 1⟩
def DBG_STAT_FROZEN : Fld := ⟨0x0500000C, 29, 1⟩
def DBG_STAT_WPTR : Fld := ⟨0x0500000C, 0, 19⟩
/-- `DBG_TRIG_PTR` (R599). -/
def DBG_TRIG_PTR : Nat := 0x05000010
def DBG_TRIG_PTR_PTR : Fld := ⟨0x05000010, 0, 19⟩
/-- `DBG_PORT_STAT` (R599). -/
def DBG_PORT_STAT : Nat := 0x05000014
def DBG_PORT_STAT_SENDING : Fld := ⟨0x05000014, 31, 1⟩
def DBG_PORT_STAT_PENDING : Fld := ⟨0x05000014, 0, 20⟩
/-- `DBG_BUF_PAGE` (R599). -/
def DBG_BUF_PAGE : Nat := 0x05000018
def DBG_BUF_PAGE_PAGE : Fld := ⟨0x05000018, 0, 4⟩
/-- `DBG_MARK` (R599). -/
def DBG_MARK : Nat := 0x0500001C
def DBG_MARK_VALUE : Fld := ⟨0x0500001C, 0, 32⟩
/-- `DBG_GTC_OFS` (R599). -/
def DBG_GTC_OFS : Nat := 0x05000020
def DBG_GTC_OFS_NS : Fld := ⟨0x05000020, 0, 32⟩
/-- `DBG_RING_SEL` (R599). -/
def DBG_RING_SEL : Nat := 0x05000024
def DBG_RING_SEL_CLS : Fld := ⟨0x05000024, 10, 4⟩
def DBG_RING_SEL_RING : Fld := ⟨0x05000024, 0, 10⟩
/-- `DBG_ERR_CNT` (R599). -/
def DBG_ERR_CNT : Nat := 0x05000040
def DBG_ERR_CNT_GAPS : Fld := ⟨0x05000040, 16, 16⟩
def DBG_ERR_CNT_INCOMPLETE : Fld := ⟨0x05000040, 0, 16⟩
/-- `DBG_SNAP` (R599). -/
def DBG_SNAP : Nat := 0x050000FC
def DBG_SNAP_LATCH : Fld := ⟨0x050000FC, 0, 1⟩
/-- `DBG_AFILT_ADDR_LO` (R599). -/
def DBG_AFILT_ADDR_LO : Nat := 0x05000200
def DBG_AFILT_ADDR_LO_ADDR_L : Fld := ⟨0x05000200, 0, 32⟩
/-- `DBG_AFILT_ADDR_HI` (R599). -/
def DBG_AFILT_ADDR_HI : Nat := 0x05000204
def DBG_AFILT_ADDR_HI_EN : Fld := ⟨0x05000204, 31, 1⟩
def DBG_AFILT_ADDR_HI_READ : Fld := ⟨0x05000204, 30, 1⟩
def DBG_AFILT_ADDR_HI_WRITE : Fld := ⟨0x05000204, 29, 1⟩
def DBG_AFILT_ADDR_HI_ADDR_H : Fld := ⟨0x05000204, 0, 16⟩
/-- `DBG_AFILT_MASK_LO` (R599). -/
def DBG_AFILT_MASK_LO : Nat := 0x05000208
def DBG_AFILT_MASK_LO_MASK_L : Fld := ⟨0x05000208, 0, 32⟩
/-- `DBG_AFILT_MASK_HI` (R599). -/
def DBG_AFILT_MASK_HI : Nat := 0x0500020C
def DBG_AFILT_MASK_HI_MASK_H : Fld := ⟨0x0500020C, 0, 16⟩
/-- `DBG_WATCH_CFG` (R599). -/
def DBG_WATCH_CFG : Nat := 0x05000300
def DBG_WATCH_CFG_EN : Fld := ⟨0x05000300, 31, 1⟩
def DBG_WATCH_CFG_TRIG_NAN : Fld := ⟨0x05000300, 30, 1⟩
def DBG_WATCH_CFG_TRIG_MAX : Fld := ⟨0x05000300, 29, 1⟩
def DBG_WATCH_CFG_DIGEST : Fld := ⟨0x05000300, 28, 1⟩
def DBG_WATCH_CFG_CLASS : Fld := ⟨0x05000300, 24, 4⟩
def DBG_WATCH_CFG_OPCODE : Fld := ⟨0x05000300, 16, 8⟩
def DBG_WATCH_CFG_FMT : Fld := ⟨0x05000300, 13, 3⟩
def DBG_WATCH_CFG_RING : Fld := ⟨0x05000300, 0, 10⟩
/-- `DBG_WATCH_LIMIT` (R599). -/
def DBG_WATCH_LIMIT : Nat := 0x05000304
def DBG_WATCH_LIMIT_LIMIT : Fld := ⟨0x05000304, 0, 32⟩
/-- `SEC_SERIAL` (R620). -/
def SEC_SERIAL : Nat := 0x05400000
def SEC_SERIAL_SERIAL : Fld := ⟨0x05400000, 0, 32⟩
/-- `SEC_HWTYPE` (R620). -/
def SEC_HWTYPE : Nat := 0x05400010
def SEC_HWTYPE_HW_TYPE : Fld := ⟨0x05400010, 0, 16⟩
/-- `SEC_ROOT` (R620). -/
def SEC_ROOT : Nat := 0x05400014
def SEC_ROOT_DBG_KEY : Fld := ⟨0x05400014, 8, 1⟩
def SEC_ROOT_REVOKED : Fld := ⟨0x05400014, 4, 4⟩
def SEC_ROOT_PRESENT : Fld := ⟨0x05400014, 0, 4⟩
/-- `SEC_SVN` (R620). -/
def SEC_SVN : Nat := 0x05400018
def SEC_SVN_COMMIT : Fld := ⟨0x05400018, 31, 1⟩
def SEC_SVN_SVN : Fld := ⟨0x05400018, 0, 7⟩
/-- `SEC_FW_VER` (R620). -/
def SEC_FW_VER : Nat := 0x0540001C
def SEC_FW_VER_FW_VERSION : Fld := ⟨0x0540001C, 0, 32⟩
/-- `SEC_FW_STATE` (R620). -/
def SEC_FW_STATE : Nat := 0x05400020
def SEC_FW_STATE_STATE : Fld := ⟨0x05400020, 29, 3⟩
def SEC_FW_STATE_REASON : Fld := ⟨0x05400020, 0, 8⟩
/-- `SEC_FW_STAT` (R620). -/
def SEC_FW_STAT : Nat := 0x05400024
def SEC_FW_STAT_CRC_FAIL : Fld := ⟨0x05400024, 16, 16⟩
def SEC_FW_STAT_RECEIVED : Fld := ⟨0x05400024, 0, 10⟩
/-- `SEC_ACT_AT_LO` (R620). -/
def SEC_ACT_AT_LO : Nat := 0x05400028
def SEC_ACT_AT_LO_AT_L : Fld := ⟨0x05400028, 0, 32⟩
/-- `SEC_ACT_AT_HI` (R620). -/
def SEC_ACT_AT_HI : Nat := 0x0540002C
def SEC_ACT_AT_HI_AT_H : Fld := ⟨0x0540002C, 0, 32⟩
/-- `SEC_ACT_STAT` (R620). -/
def SEC_ACT_STAT : Nat := 0x05400030
def SEC_ACT_STAT_ARMED : Fld := ⟨0x05400030, 31, 1⟩
def SEC_ACT_STAT_LATE : Fld := ⟨0x05400030, 30, 1⟩
def SEC_ACT_STAT_MISSED : Fld := ⟨0x05400030, 29, 1⟩
def SEC_ACT_STAT_DISARM : Fld := ⟨0x05400030, 28, 1⟩
/-- `SEC_ATT` (R620). -/
def SEC_ATT : Nat := 0x05400034
def SEC_ATT_NEXT : Fld := ⟨0x05400034, 0, 30⟩
/-- `SEC_ATT_LEFT` (R620). -/
def SEC_ATT_LEFT : Nat := 0x05400038
def SEC_ATT_LEFT_LEFT : Fld := ⟨0x05400038, 0, 31⟩
/-- `SEC_MBOX_CTL` (R620). -/
def SEC_MBOX_CTL : Nat := 0x0540003C
def SEC_MBOX_CTL_BUSY : Fld := ⟨0x0540003C, 31, 1⟩
def SEC_MBOX_CTL_DONE : Fld := ⟨0x0540003C, 30, 1⟩
def SEC_MBOX_CTL_STATUS : Fld := ⟨0x0540003C, 27, 3⟩
def SEC_MBOX_CTL_LEN : Fld := ⟨0x0540003C, 3, 13⟩
def SEC_MBOX_CTL_OP : Fld := ⟨0x0540003C, 0, 3⟩
/-- `SEC_DBG` (R620). -/
def SEC_DBG : Nat := 0x05400040
def SEC_DBG_UNLOCKED : Fld := ⟨0x05400040, 31, 1⟩
def SEC_DBG_BLOCKED : Fld := ⟨0x05400040, 30, 1⟩
def SEC_DBG_SCOPE : Fld := ⟨0x05400040, 0, 2⟩
/-- `SEC_ATT_TOKENS` (R620). -/
def SEC_ATT_TOKENS : Nat := 0x05400044
def SEC_ATT_TOKENS_TOKENS : Fld := ⟨0x05400044, 0, 5⟩
/-- `GLB_ID` (R627). -/
def GLB_ID : Nat := 0x00000000
def GLB_ID_MAP_REV : Fld := ⟨0x00000000, 24, 8⟩
def GLB_ID_HW_TYPE : Fld := ⟨0x00000000, 0, 16⟩
/-- `GLB_DCLASS` (R627). -/
def GLB_DCLASS : Nat := 0x00000004
def GLB_DCLASS_STEPPING : Fld := ⟨0x00000004, 24, 8⟩
def GLB_DCLASS_ARITH : Fld := ⟨0x00000004, 16, 8⟩
def GLB_DCLASS_CODEC : Fld := ⟨0x00000004, 8, 8⟩
def GLB_DCLASS_MICROCODE : Fld := ⟨0x00000004, 0, 8⟩
/-- `GLB_CAP0` (R627). -/
def GLB_CAP0 : Nat := 0x00000010
def GLB_CAP0_IMAGE_MILLS : Fld := ⟨0x00000010, 24, 8⟩
def GLB_CAP0_KILN_LANES : Fld := ⟨0x00000010, 16, 8⟩
def GLB_CAP0_FETCH : Fld := ⟨0x00000010, 8, 8⟩
def GLB_CAP0_NAND_CH : Fld := ⟨0x00000010, 0, 8⟩
/-- `GLB_CAP1` (R627). -/
def GLB_CAP1 : Nat := 0x00000014
def GLB_CAP1_TILES : Fld := ⟨0x00000014, 16, 16⟩
def GLB_CAP1_AUDIO_MILLS : Fld := ⟨0x00000014, 8, 8⟩
def GLB_CAP1_J2K_MILLS : Fld := ⟨0x00000014, 0, 8⟩
/-- `GLB_CAP2` (R627). -/
def GLB_CAP2 : Nat := 0x00000018
def GLB_CAP2_DMA_CH : Fld := ⟨0x00000018, 24, 8⟩
def GLB_CAP2_ETH_PORTS : Fld := ⟨0x00000018, 16, 8⟩
def GLB_CAP2_CASK : Fld := ⟨0x00000018, 8, 8⟩
def GLB_CAP2_TOKEN_LANES : Fld := ⟨0x00000018, 0, 8⟩
/-- `GLB_CAP3` (R627). -/
def GLB_CAP3 : Nat := 0x0000001C
def GLB_CAP3_POOLS : Fld := ⟨0x0000001C, 24, 8⟩
def GLB_CAP3_LAUTER : Fld := ⟨0x0000001C, 16, 8⟩
def GLB_CAP3_DDR_CH : Fld := ⟨0x0000001C, 12, 4⟩
/-- `DMA_CH_SH_FLAGS` (R442). -/
def DMA_CH_SH_FLAGS : Nat := 0x04410034
def DMA_CH_SH_FLAGS_SWAP : Fld := ⟨0x04410034, 24, 3⟩
def DMA_CH_SH_FLAGS_SRC_HOST : Fld := ⟨0x04410034, 23, 1⟩
def DMA_CH_SH_FLAGS_DST_HOST : Fld := ⟨0x04410034, 22, 1⟩
def DMA_CH_SH_FLAGS_FN : Fld := ⟨0x04410034, 16, 6⟩
def DMA_CH_SH_FLAGS_VALID : Fld := ⟨0x04410034, 0, 1⟩

end Reg

open Reg

/-- Registers 1 to 20 of the map, in address order (R630). -/
def regRows0 : List RegRow := [
  ⟨GLB_ID, 0, 1, [⟨24, 8, .ro, 1⟩, ⟨0, 16, .ro, 0⟩]⟩,
  ⟨GLB_DCLASS, 0, 1, [⟨24, 8, .ro, 0⟩, ⟨16, 8, .ro, 0⟩, ⟨8, 8, .ro, 0⟩, ⟨0, 8, .ro, 0⟩]⟩,
  ⟨GLB_CAP0, 0, 1, [⟨24, 8, .ro, 0⟩, ⟨16, 8, .ro, 0⟩, ⟨8, 8, .ro, 1⟩, ⟨0, 8, .ro, 0⟩]⟩,
  ⟨GLB_CAP1, 0, 1, [⟨16, 16, .ro, 0⟩, ⟨8, 8, .ro, 0⟩, ⟨0, 8, .ro, 0⟩]⟩,
  ⟨GLB_CAP2, 0, 1, [⟨24, 8, .ro, 64⟩, ⟨16, 8, .ro, 0⟩, ⟨8, 8, .ro, 1⟩, ⟨0, 8, .ro, 16⟩]⟩,
  ⟨GLB_CAP3, 0, 1, [⟨24, 8, .ro, 8⟩, ⟨16, 8, .ro, 1⟩, ⟨12, 4, .ro, 0⟩]⟩,
  ⟨POL_STATE, 0, 1, [⟨0, 22, .ro, 3⟩]⟩,
  ⟨POL_MODE, 0, 1, [⟨29, 3, .ro, 0⟩, ⟨26, 3, .ro, 0⟩, ⟨25, 1, .ro, 0⟩, ⟨24, 1, .w1c, 0⟩, ⟨20, 4, .ro, 0⟩]⟩,
  ⟨POL_LADDER, 0, 1, [⟨24, 8, .rw, 24⟩, ⟨16, 8, .rw, 50⟩]⟩,
  ⟨POL_STAGGER, 0, 1, [⟨16, 16, .rw, 200⟩, ⟨0, 6, .ro, 0⟩]⟩,
  ⟨POL_WAKE, 0, 1, [⟨28, 4, .ro, 0⟩, ⟨16, 3, .w1c, 0⟩, ⟨2, 1, .rw, 0⟩, ⟨1, 1, .rw, 1⟩, ⟨0, 1, .ro, 1⟩]⟩,
  ⟨POL_SMB, 0, 1, [⟨31, 1, .ro, 0⟩, ⟨0, 7, .rw, 0⟩]⟩,
  ⟨POL_PAD, 0, 1, [⟨16, 11, .ro, 2046⟩, ⟨0, 11, .wo, 0⟩]⟩,
  ⟨POL_CORE_RST, 0, 1, [⟨0, 16, .rw, 1⟩]⟩,
  ⟨POL_RESET, 0, 1, [⟨16, 16, .wo, 0⟩, ⟨12, 4, .wo, 0⟩, ⟨0, 2, .wo, 0⟩]⟩,
  ⟨POL_SAVE_STAT, 0, 1, [⟨31, 1, .ro, 0⟩, ⟨30, 1, .w1c, 0⟩, ⟨0, 16, .ro, 0⟩]⟩,
  ⟨POL_WAKE_AT_LO, 0, 1, [⟨0, 32, .rw, 0⟩]⟩,
  ⟨POL_WAKE_AT_HI, 0, 1, [⟨0, 32, .rw, 4294967295⟩]⟩,
  ⟨POL_ERR_CNT, 0, 1, [⟨16, 16, .ro, 0⟩, ⟨0, 16, .ro, 0⟩]⟩,
  ⟨POL_CLK, 4, 11, [⟨31, 1, .rw, 0⟩, ⟨30, 1, .ro, 0⟩, ⟨29, 1, .rw, 0⟩, ⟨28, 1, .ro, 0⟩, ⟨26, 2, .rw, 0⟩, ⟨24, 2, .ro, 0⟩]⟩]

/-- Registers 21 to 40 of the map, in address order (R630). -/
def regRows1 : List RegRow := [
  ⟨POL_SNAP, 0, 1, [⟨0, 1, .wo, 0⟩]⟩,
  ⟨MGT_INPUT, 0, 1, [⟨16, 16, .ro, 0⟩, ⟨0, 16, .ro, 0⟩]⟩,
  ⟨MGT_POWER, 0, 1, [⟨16, 16, .ro, 0⟩, ⟨0, 16, .ro, 0⟩]⟩,
  ⟨MGT_BANK, 0, 1, [⟨28, 4, .ro, 0⟩, ⟨27, 1, .ro, 0⟩, ⟨26, 1, .ro, 0⟩, ⟨0, 16, .ro, 0⟩]⟩,
  ⟨MGT_HOLDUP, 0, 1, [⟨16, 9, .ro, 0⟩, ⟨0, 10, .ro, 0⟩]⟩,
  ⟨MGT_CAP, 0, 1, [⟨16, 16, .rw, 0⟩, ⟨0, 16, .rw, 5440⟩]⟩,
  ⟨MGT_HEALTH, 0, 1, [⟨31, 1, .ro, 0⟩, ⟨30, 1, .ro, 0⟩, ⟨29, 1, .ro, 0⟩, ⟨28, 1, .w1c, 0⟩, ⟨27, 1, .w1c, 0⟩, ⟨26, 1, .w1c, 0⟩, ⟨25, 1, .w1c, 0⟩]⟩,
  ⟨MGT_TEST_CFG, 0, 1, [⟨31, 1, .wo, 0⟩, ⟨30, 1, .w1c, 0⟩, ⟨29, 1, .w1c, 0⟩, ⟨0, 8, .rw, 24⟩]⟩,
  ⟨MGT_TEST_AGE, 0, 1, [⟨0, 32, .rw, 0⟩]⟩,
  ⟨MGT_CTL, 0, 1, [⟨16, 16, .wo, 0⟩, ⟨0, 1, .wo, 0⟩]⟩,
  ⟨MGT_ERR_CNT, 0, 1, [⟨16, 16, .ro, 0⟩, ⟨0, 16, .ro, 0⟩]⟩,
  ⟨MGT_RESTART_DS, 12, 8, [⟨31, 1, .rw, 0⟩, ⟨0, 16, .rw, 0⟩]⟩,
  ⟨MGT_RESTART_LO, 12, 8, [⟨0, 32, .rw, 0⟩]⟩,
  ⟨MGT_RESTART_HI, 12, 8, [⟨0, 32, .rw, 0⟩]⟩,
  ⟨MGT_SNAP, 0, 1, [⟨0, 1, .wo, 0⟩]⟩,
  ⟨GTC_NOW_LO, 0, 1, [⟨0, 32, .ro, 0⟩]⟩,
  ⟨GTC_NOW_HI, 0, 1, [⟨0, 32, .ro, 0⟩]⟩,
  ⟨GTC_SYNC, 0, 1, [⟨30, 2, .ro, 0⟩, ⟨29, 1, .w1c, 0⟩]⟩,
  ⟨GTC_OFFSET, 0, 1, [⟨0, 32, .ro, 0⟩]⟩,
  ⟨GTC_RATE, 0, 1, [⟨0, 32, .ro, 0⟩]⟩]

/-- Registers 41 to 60 of the map, in address order (R630). -/
def regRows2 : List RegRow := [
  ⟨GTC_LEASE_LO, 0, 1, [⟨0, 32, .rw, 0⟩]⟩,
  ⟨GTC_LEASE_HI, 0, 1, [⟨0, 32, .rw, 0⟩]⟩,
  ⟨GTC_FENCE, 0, 1, [⟨31, 1, .ro, 0⟩, ⟨30, 1, .rw, 0⟩, ⟨0, 1, .wo, 0⟩]⟩,
  ⟨GTC_TERM, 0, 1, [⟨0, 32, .rw, 0⟩]⟩,
  ⟨GTC_ERR_CNT, 0, 1, [⟨16, 16, .ro, 0⟩, ⟨0, 16, .ro, 0⟩]⟩,
  ⟨GTC_SNAP, 0, 1, [⟨0, 1, .wo, 0⟩]⟩,
  ⟨FLT_STATUS, 0, 1, [⟨31, 1, .ro, 0⟩, ⟨30, 1, .w1s, 0⟩, ⟨16, 8, .ro, 0⟩, ⟨0, 6, .ro, 0⟩]⟩,
  ⟨FLT_SOURCE, 0, 1, [⟨1, 8, .w1c, 0⟩]⟩,
  ⟨FLT_FORCE, 0, 1, [⟨16, 16, .wo, 0⟩, ⟨0, 1, .wo, 0⟩]⟩,
  ⟨FLT_WDOG_CFG, 0, 1, [⟨16, 16, .rw, 500⟩, ⟨0, 16, .rw, 3⟩]⟩,
  ⟨FLT_WDOG_KICK, 0, 1, [⟨0, 16, .wo, 0⟩]⟩,
  ⟨FLT_LOG_HEAD, 0, 1, [⟨31, 1, .ro, 0⟩, ⟨0, 6, .ro, 0⟩]⟩,
  ⟨FLT_OVF_IRQ, 0, 1, [⟨24, 8, .rw, 0⟩, ⟨0, 24, .rw, 0⟩]⟩,
  ⟨FLT_OVF_PEND, 0, 1, [⟨0, 24, .w1c, 0⟩]⟩,
  ⟨FLT_CNT_CLR, 0, 1, [⟨0, 24, .wo, 0⟩]⟩,
  ⟨FLT_ST_REQ, 0, 1, [⟨31, 1, .wo, 0⟩, ⟨24, 4, .wo, 0⟩, ⟨0, 9, .wo, 0⟩]⟩,
  ⟨FLT_ST_STAT, 0, 1, [⟨31, 1, .ro, 0⟩, ⟨30, 1, .w1c, 0⟩, ⟨28, 2, .ro, 0⟩, ⟨24, 4, .ro, 0⟩, ⟨16, 5, .ro, 0⟩, ⟨0, 9, .ro, 0⟩]⟩,
  ⟨FLT_RPL_BASE_LO, 0, 1, [⟨16, 16, .rw, 0⟩]⟩,
  ⟨FLT_RPL_BASE_HI, 0, 1, [⟨0, 16, .rw, 0⟩]⟩,
  ⟨FLT_RPL_CFG, 0, 1, [⟨31, 1, .rw, 0⟩, ⟨0, 16, .rw, 0⟩]⟩]

/-- Registers 61 to 80 of the map, in address order (R630). -/
def regRows3 : List RegRow := [
  ⟨FLT_RPL_HEAD, 0, 1, [⟨0, 32, .ro, 0⟩]⟩,
  ⟨FLT_ERR_CNT, 0, 1, [⟨16, 16, .ro, 0⟩, ⟨0, 16, .ro, 0⟩]⟩,
  ⟨FLT_RPL_REQ_LO, 0, 1, [⟨0, 32, .rw, 0⟩]⟩,
  ⟨FLT_RPL_REQ_HI, 0, 1, [⟨31, 1, .ro, 0⟩, ⟨30, 1, .w1c, 0⟩, ⟨0, 16, .rw, 0⟩]⟩,
  ⟨FLT_SNAP, 0, 1, [⟨0, 1, .wo, 0⟩]⟩,
  ⟨CC_DBG_CTL, 4096, 16, [⟨31, 1, .ro, 0⟩, ⟨24, 4, .ro, 0⟩, ⟨16, 1, .ro, 1⟩, ⟨2, 1, .wo, 0⟩, ⟨1, 1, .wo, 0⟩]⟩,
  ⟨CC_DBG_GLOBAL, 0, 1, [⟨16, 16, .ro, 0⟩, ⟨0, 1, .rw, 0⟩]⟩,
  ⟨CC_SWI, 0, 1, [⟨16, 16, .wo, 0⟩, ⟨0, 16, .w1s, 0⟩]⟩,
  ⟨CC_RING_IDX, 0, 1, [⟨10, 4, .rw, 0⟩, ⟨0, 10, .rw, 0⟩]⟩,
  ⟨CC_RING_CFG, 0, 1, [⟨31, 1, .rw, 0⟩, ⟨30, 1, .ro, 0⟩, ⟨28, 2, .rw, 0⟩, ⟨24, 4, .rw, 0⟩, ⟨20, 4, .rw, 6⟩, ⟨16, 4, .rw, 1⟩, ⟨0, 16, .rw, 0⟩]⟩,
  ⟨CC_RING_BASE_LO, 0, 1, [⟨12, 20, .rw, 0⟩]⟩,
  ⟨CC_RING_BASE_HI, 0, 1, [⟨0, 16, .rw, 0⟩]⟩,
  ⟨CC_RING_PTR, 0, 1, [⟨16, 16, .ro, 0⟩, ⟨0, 16, .ro, 0⟩]⟩,
  ⟨CC_RING_ERR, 0, 1, [⟨31, 1, .w1c, 0⟩, ⟨28, 3, .ro, 0⟩, ⟨0, 16, .ro, 0⟩]⟩,
  ⟨CC_TKI_POP, 8, 16, [⟨0, 32, .rc, 0⟩]⟩,
  ⟨CC_TKI_STAT, 8, 16, [⟨31, 1, .w1c, 0⟩, ⟨0, 7, .ro, 0⟩]⟩,
  ⟨FLS_POP, 0, 1, [⟨30, 2, .ro, 0⟩, ⟨24, 6, .ro, 0⟩, ⟨16, 6, .ro, 0⟩, ⟨8, 3, .ro, 0⟩, ⟨4, 4, .ro, 0⟩, ⟨0, 1, .ro, 0⟩]⟩,
  ⟨FLS_RATE, 0, 1, [⟨0, 3, .rw, 4⟩]⟩,
  ⟨FLS_CHAN_RATE, 4, 4, [⟨0, 32, .ro, 4008636142⟩]⟩,
  ⟨FLS_CHAN_STATE, 0, 1, [⟨0, 32, .ro, 0⟩]⟩]

/-- Registers 81 to 100 of the map, in address order (R630). -/
def regRows4 : List RegRow := [
  ⟨FLS_SERVICE, 0, 1, [⟨31, 1, .ro, 0⟩, ⟨29, 2, .ro, 0⟩, ⟨0, 5, .ro, 0⟩]⟩,
  ⟨FLS_CAL_CFG, 0, 1, [⟨16, 16, .rw, 3600⟩, ⟨8, 8, .rw, 10⟩]⟩,
  ⟨FLS_PATROL_CFG, 0, 1, [⟨24, 8, .rw, 96⟩, ⟨16, 8, .rw, 20⟩, ⟨8, 8, .rw, 24⟩]⟩,
  ⟨FLS_PATROL_STAT, 0, 1, [⟨31, 1, .w1c, 0⟩, ⟨0, 10, .ro, 0⟩]⟩,
  ⟨FLS_REBUILD_CFG, 0, 1, [⟨0, 8, .rw, 25⟩]⟩,
  ⟨FLS_REBUILD_STAT, 0, 1, [⟨31, 1, .ro, 0⟩, ⟨30, 1, .ro, 0⟩, ⟨16, 10, .ro, 0⟩, ⟨0, 10, .ro, 0⟩]⟩,
  ⟨FLS_RETRY_CFG, 0, 1, [⟨0, 4, .rw, 8⟩]⟩,
  ⟨FLS_DIE_SEL, 0, 1, [⟨0, 10, .rw, 0⟩]⟩,
  ⟨FLS_DIE_INFO, 0, 1, [⟨29, 3, .ro, 0⟩, ⟨0, 16, .ro, 0⟩]⟩,
  ⟨FLS_ERR_CNT, 0, 1, [⟨16, 16, .ro, 0⟩, ⟨0, 16, .ro, 0⟩]⟩,
  ⟨FLS_ERR_CNT1, 0, 1, [⟨16, 16, .ro, 0⟩, ⟨0, 16, .ro, 0⟩]⟩,
  ⟨FLS_ERR_CNT2, 0, 1, [⟨16, 16, .ro, 0⟩, ⟨0, 16, .ro, 0⟩]⟩,
  ⟨FLS_SNAP, 0, 1, [⟨0, 1, .wo, 0⟩]⟩,
  ⟨FTL_STATE, 0, 1, [⟨29, 3, .ro, 0⟩, ⟨0, 12, .ro, 0⟩]⟩,
  ⟨FTL_MAPC_CFG, 0, 1, [⟨0, 10, .rw, 64⟩]⟩,
  ⟨FTL_WRITE_CFG, 0, 1, [⟨0, 16, .rw, 500⟩]⟩,
  ⟨FTL_JNL_CFG, 0, 1, [⟨16, 9, .ro, 256⟩, ⟨0, 9, .rw, 256⟩]⟩,
  ⟨FTL_JNL_STAT, 0, 1, [⟨16, 16, .ro, 0⟩, ⟨0, 16, .ro, 0⟩]⟩,
  ⟨FTL_CKPT_CFG, 0, 1, [⟨0, 16, .rw, 1024⟩]⟩,
  ⟨FTL_GC_CFG, 0, 1, [⟨24, 8, .rw, 64⟩, ⟨16, 8, .rw, 8⟩, ⟨8, 8, .rw, 50⟩, ⟨0, 8, .rw, 60⟩]⟩]

/-- Registers 101 to 120 of the map, in address order (R630). -/
def regRows5 : List RegRow := [
  ⟨FTL_SB_FREE, 0, 1, [⟨0, 18, .ro, 0⟩]⟩,
  ⟨FTL_SB_TOTAL, 0, 1, [⟨0, 18, .ro, 0⟩]⟩,
  ⟨FTL_GC_STAT, 0, 1, [⟨31, 1, .ro, 0⟩, ⟨30, 1, .ro, 0⟩, ⟨0, 18, .ro, 0⟩]⟩,
  ⟨FTL_CREDIT, 0, 1, [⟨0, 32, .ro, 0⟩]⟩,
  ⟨FTL_USER_LO, 0, 1, [⟨0, 32, .ro, 0⟩]⟩,
  ⟨FTL_USER_HI, 0, 1, [⟨0, 8, .ro, 0⟩]⟩,
  ⟨FTL_ERR_CNT, 0, 1, [⟨16, 16, .ro, 0⟩, ⟨0, 16, .ro, 0⟩]⟩,
  ⟨FTL_ERR_CNT1, 0, 1, [⟨16, 16, .ro, 0⟩, ⟨0, 16, .ro, 0⟩]⟩,
  ⟨FTL_SNAP, 0, 1, [⟨0, 1, .wo, 0⟩]⟩,
  ⟨CAT_CACHE_CFG, 0, 1, [⟨0, 16, .rw, 128⟩]⟩,
  ⟨CAT_STREAMS, 0, 1, [⟨16, 16, .ro, 1023⟩, ⟨0, 16, .ro, 0⟩]⟩,
  ⟨CAT_FETCH_CFG, 0, 1, [⟨16, 16, .rw, 1024⟩, ⟨8, 4, .rw, 4⟩]⟩,
  ⟨CAT_STAGE_USED, 0, 1, [⟨0, 32, .ro, 0⟩]⟩,
  ⟨CAT_ERR_CNT, 0, 1, [⟨16, 16, .ro, 0⟩, ⟨0, 16, .ro, 0⟩]⟩,
  ⟨CAT_SNAP, 0, 1, [⟨0, 1, .wo, 0⟩]⟩,
  ⟨MIL_UNITS, 0, 1, [⟨16, 8, .ro, 0⟩, ⟨8, 8, .ro, 0⟩, ⟨0, 8, .ro, 0⟩]⟩,
  ⟨MIL_ROT_IMG, 0, 1, [⟨0, 32, .ro, 0⟩]⟩,
  ⟨MIL_ROT_OTH, 0, 1, [⟨8, 8, .ro, 0⟩, ⟨0, 8, .ro, 0⟩]⟩,
  ⟨MIL_CFG, 0, 1, [⟨8, 8, .rw, 16⟩, ⟨0, 1, .rw, 1⟩]⟩,
  ⟨MIL_ERR_CNT, 0, 1, [⟨16, 16, .ro, 0⟩, ⟨0, 16, .ro, 0⟩]⟩]

/-- Registers 121 to 140 of the map, in address order (R630). -/
def regRows6 : List RegRow := [
  ⟨MIL_ERR_CNT1, 0, 1, [⟨16, 16, .ro, 0⟩, ⟨0, 16, .ro, 0⟩]⟩,
  ⟨MIL_SNAP, 0, 1, [⟨0, 1, .wo, 0⟩]⟩,
  ⟨KLN_LANES, 0, 1, [⟨16, 16, .ro, 0⟩, ⟨0, 5, .ro, 0⟩]⟩,
  ⟨KLN_ERR_CNT, 0, 1, [⟨16, 16, .ro, 0⟩, ⟨0, 16, .ro, 0⟩]⟩,
  ⟨KLN_ERR_CNT1, 0, 1, [⟨16, 16, .ro, 0⟩, ⟨0, 16, .ro, 0⟩]⟩,
  ⟨KLN_SNAP, 0, 1, [⟨0, 1, .wo, 0⟩]⟩,
  ⟨MSH_TILES, 0, 1, [⟨16, 9, .ro, 0⟩, ⟨0, 9, .ro, 0⟩]⟩,
  ⟨MSH_CFG, 0, 1, [⟨0, 8, .rw, 64⟩]⟩,
  ⟨MSH_MODEL, 4, 4, [⟨31, 1, .ro, 0⟩, ⟨24, 7, .ro, 0⟩, ⟨0, 24, .ro, 0⟩]⟩,
  ⟨MSH_ROT, 4, 8, [⟨0, 32, .ro, 0⟩]⟩,
  ⟨MSH_ERR_CNT, 0, 1, [⟨16, 16, .ro, 0⟩, ⟨0, 16, .ro, 0⟩]⟩,
  ⟨MSH_SNAP, 0, 1, [⟨0, 1, .wo, 0⟩]⟩,
  ⟨LTR_SET, 4, 4, [⟨31, 1, .ro, 0⟩, ⟨30, 1, .ro, 0⟩, ⟨23, 7, .ro, 0⟩, ⟨0, 23, .ro, 0⟩]⟩,
  ⟨LTR_ERR_CNT, 0, 1, [⟨16, 16, .ro, 0⟩, ⟨0, 16, .ro, 0⟩]⟩,
  ⟨LTR_SNAP, 0, 1, [⟨0, 1, .wo, 0⟩]⟩,
  ⟨TOK_LANES, 0, 1, [⟨16, 16, .ro, 65535⟩, ⟨0, 5, .ro, 16⟩]⟩,
  ⟨TOK_CACHE, 0, 1, [⟨0, 8, .ro, 32⟩]⟩,
  ⟨TOK_ERR_CNT, 0, 1, [⟨16, 16, .ro, 0⟩, ⟨0, 16, .ro, 0⟩]⟩,
  ⟨TOK_ERR_CNT1, 0, 1, [⟨16, 16, .ro, 0⟩, ⟨0, 16, .ro, 0⟩]⟩,
  ⟨TOK_VOCAB, 4, 16, [⟨31, 1, .ro, 0⟩, ⟨0, 19, .ro, 0⟩]⟩]

/-- Registers 141 to 160 of the map, in address order (R630). -/
def regRows7 : List RegRow := [
  ⟨TOK_SNAP, 0, 1, [⟨0, 1, .wo, 0⟩]⟩,
  ⟨CSK_STORE_BASE_LO, 0, 1, [⟨16, 16, .rw, 0⟩]⟩,
  ⟨CSK_STORE_BASE_HI, 0, 1, [⟨0, 16, .rw, 0⟩]⟩,
  ⟨CSK_STORE_SIZE, 0, 1, [⟨0, 16, .rw, 0⟩]⟩,
  ⟨CSK_STORE_USED, 0, 1, [⟨0, 32, .ro, 0⟩]⟩,
  ⟨CSK_ERR_CNT, 0, 1, [⟨16, 16, .ro, 0⟩, ⟨0, 16, .ro, 0⟩]⟩,
  ⟨CSK_SNAP, 0, 1, [⟨0, 1, .wo, 0⟩]⟩,
  ⟨NET_PORT_CFG, 4, 4, [⟨31, 1, .rw, 0⟩, ⟨30, 1, .rw, 0⟩, ⟨28, 2, .rw, 0⟩, ⟨0, 14, .rw, 9216⟩]⟩,
  ⟨NET_PORT_STAT, 4, 4, [⟨31, 1, .ro, 0⟩, ⟨3, 1, .w1c, 0⟩, ⟨2, 1, .w1c, 0⟩, ⟨1, 1, .ro, 0⟩, ⟨0, 1, .ro, 0⟩]⟩,
  ⟨NET_PRIO_CFG, 0, 1, [⟨24, 6, .rw, 26⟩, ⟨16, 6, .rw, 48⟩, ⟨4, 3, .rw, 3⟩, ⟨0, 3, .rw, 6⟩]⟩,
  ⟨NET_ERR_CNT, 0, 1, [⟨16, 16, .ro, 0⟩, ⟨0, 16, .ro, 0⟩]⟩,
  ⟨NET_SNAP, 0, 1, [⟨0, 1, .wo, 0⟩]⟩,
  ⟨RDM_QCT_IDX, 0, 1, [⟨0, 16, .rw, 0⟩]⟩,
  ⟨RDM_QP_STATE, 0, 1, [⟨30, 2, .ro, 0⟩, ⟨27, 3, .ro, 0⟩, ⟨26, 1, .ro, 0⟩, ⟨25, 1, .w1c, 0⟩, ⟨0, 3, .wo, 0⟩]⟩,
  ⟨RDM_QP_PATH, 0, 1, [⟨31, 1, .ro, 0⟩, ⟨28, 3, .ro, 0⟩, ⟨26, 2, .ro, 0⟩, ⟨0, 12, .ro, 0⟩]⟩,
  ⟨RDM_RETRY_CFG, 0, 1, [⟨16, 16, .rw, 2048⟩, ⟨8, 8, .rw, 16⟩, ⟨4, 4, .rw, 7⟩, ⟨0, 4, .rw, 7⟩]⟩,
  ⟨RDM_REVOKE_CFG, 0, 1, [⟨0, 8, .rw, 10⟩]⟩,
  ⟨RDM_REGIONS, 0, 1, [⟨0, 21, .ro, 0⟩]⟩,
  ⟨RDM_ERR_CNT, 0, 1, [⟨16, 16, .ro, 0⟩, ⟨0, 16, .ro, 0⟩]⟩,
  ⟨RDM_ERR_CNT1, 0, 1, [⟨16, 16, .ro, 0⟩, ⟨0, 16, .ro, 0⟩]⟩]

/-- Registers 161 to 180 of the map, in address order (R630). -/
def regRows8 : List RegRow := [
  ⟨RDM_SNAP, 0, 1, [⟨0, 1, .wo, 0⟩]⟩,
  ⟨WER_SVC_CFG, 4, 4, [⟨24, 8, .rw, 0⟩, ⟨0, 16, .rw, 0⟩]⟩,
  ⟨WER_OVH, 0, 1, [⟨0, 8, .rw, 24⟩]⟩,
  ⟨WER_SUB_IDX, 0, 1, [⟨0, 12, .rw, 0⟩]⟩,
  ⟨WER_SUB_CFG, 0, 1, [⟨24, 8, .rw, 16⟩, ⟨23, 1, .rw, 0⟩, ⟨0, 16, .rw, 0⟩]⟩,
  ⟨WER_CC_CFG, 0, 1, [⟨28, 4, .rw, 12⟩, ⟨16, 12, .rw, 50⟩, ⟨8, 8, .rw, 55⟩, ⟨0, 8, .rw, 10⟩]⟩,
  ⟨WER_PFC_CFG, 0, 1, [⟨16, 16, .rw, 1536⟩, ⟨0, 16, .rw, 1280⟩]⟩,
  ⟨WER_Q_IDX, 0, 1, [⟨31, 1, .rw, 0⟩, ⟨16, 3, .rw, 0⟩, ⟨12, 2, .rw, 0⟩, ⟨0, 12, .rw, 0⟩]⟩,
  ⟨WER_Q_DEPTH, 0, 1, [⟨16, 16, .ro, 0⟩, ⟨0, 16, .rc, 0⟩]⟩,
  ⟨WER_Q_DELAY, 0, 1, [⟨16, 16, .ro, 0⟩, ⟨0, 16, .rc, 0⟩]⟩,
  ⟨WER_PAUSE_STAT, 0, 1, [⟨8, 8, .ro, 0⟩, ⟨0, 8, .ro, 0⟩]⟩,
  ⟨WER_ERR_CNT, 0, 1, [⟨16, 16, .ro, 0⟩, ⟨0, 16, .ro, 0⟩]⟩,
  ⟨WER_SNAP, 0, 1, [⟨0, 1, .wo, 0⟩]⟩,
  ⟨HST_LINK, 0, 1, [⟨31, 1, .ro, 0⟩, ⟨30, 1, .ro, 0⟩, ⟨27, 3, .ro, 0⟩, ⟨22, 5, .ro, 0⟩]⟩,
  ⟨HST_FN_IDX, 0, 1, [⟨0, 6, .rw, 0⟩]⟩,
  ⟨HST_FN_CFG, 0, 1, [⟨0, 8, .rw, 16⟩]⟩,
  ⟨HST_PWR, 0, 1, [⟨29, 3, .ro, 0⟩, ⟨0, 3, .rw, 4⟩]⟩,
  ⟨HST_ERR_CNT, 0, 1, [⟨16, 16, .ro, 0⟩, ⟨0, 16, .ro, 0⟩]⟩,
  ⟨HST_ERR_CNT1, 0, 1, [⟨16, 16, .ro, 0⟩, ⟨0, 16, .ro, 0⟩]⟩,
  ⟨HST_SNAP, 0, 1, [⟨0, 1, .wo, 0⟩]⟩]

/-- Registers 181 to 200 of the map, in address order (R630). -/
def regRows9 : List RegRow := [
  ⟨DMA_CFG, 0, 1, [⟨0, 16, .rw, 256⟩]⟩,
  ⟨DMA_ERR_CNT, 0, 1, [⟨16, 16, .ro, 0⟩, ⟨0, 16, .ro, 0⟩]⟩,
  ⟨DMA_SNAP, 0, 1, [⟨0, 1, .wo, 0⟩]⟩,
  ⟨DMA_CH_CTL, 64, 64, [⟨30, 2, .rw, 0⟩, ⟨27, 3, .rw, 0⟩, ⟨24, 3, .rw, 0⟩, ⟨23, 1, .rw, 0⟩, ⟨22, 1, .rw, 0⟩, ⟨16, 6, .rw, 0⟩, ⟨8, 8, .rw, 0⟩, ⟨2, 1, .rw, 0⟩, ⟨1, 1, .rw, 0⟩, ⟨0, 1, .w1s, 0⟩]⟩,
  ⟨DMA_CH_STAT, 64, 64, [⟨31, 1, .ro, 0⟩, ⟨30, 1, .ro, 0⟩, ⟨29, 1, .w1c, 0⟩, ⟨28, 1, .w1c, 0⟩, ⟨24, 4, .ro, 0⟩]⟩,
  ⟨DMA_CH_SRC_LO, 64, 64, [⟨0, 32, .rw, 0⟩]⟩,
  ⟨DMA_CH_SRC_HI, 64, 64, [⟨0, 32, .rw, 0⟩]⟩,
  ⟨DMA_CH_DST_LO, 64, 64, [⟨0, 32, .rw, 0⟩]⟩,
  ⟨DMA_CH_DST_HI, 64, 64, [⟨0, 32, .rw, 0⟩]⟩,
  ⟨DMA_CH_COUNT, 64, 64, [⟨0, 32, .rw, 0⟩]⟩,
  ⟨DMA_CH_SH_SRC_LO, 64, 64, [⟨0, 32, .rw, 0⟩]⟩,
  ⟨DMA_CH_SH_SRC_HI, 64, 64, [⟨0, 32, .rw, 0⟩]⟩,
  ⟨DMA_CH_SH_DST_LO, 64, 64, [⟨0, 32, .rw, 0⟩]⟩,
  ⟨DMA_CH_SH_DST_HI, 64, 64, [⟨0, 32, .rw, 0⟩]⟩,
  ⟨DMA_CH_SH_COUNT, 64, 64, [⟨0, 32, .rw, 0⟩]⟩,
  ⟨DMA_CH_SH_FLAGS, 64, 64, [⟨24, 3, .rw, 0⟩, ⟨23, 1, .rw, 0⟩, ⟨22, 1, .rw, 0⟩, ⟨16, 6, .rw, 0⟩, ⟨0, 1, .w1s, 0⟩]⟩,
  ⟨BPM_BITMAP_LO, 0, 1, [⟨6, 26, .rw, 0⟩]⟩,
  ⟨BPM_BITMAP_HI, 0, 1, [⟨0, 16, .rw, 0⟩]⟩,
  ⟨BPM_ERR_CNT, 0, 1, [⟨16, 16, .ro, 0⟩, ⟨0, 16, .ro, 0⟩]⟩,
  ⟨BPM_SNAP, 0, 1, [⟨0, 1, .wo, 0⟩]⟩]

/-- Registers 201 to 220 of the map, in address order (R630). -/
def regRows10 : List RegRow := [
  ⟨BPM_POOL_BASE_LO, 16, 8, [⟨8, 24, .rw, 0⟩]⟩,
  ⟨BPM_POOL_BASE_HI, 16, 8, [⟨0, 16, .rw, 0⟩]⟩,
  ⟨BPM_POOL_CFG, 16, 8, [⟨31, 1, .rw, 0⟩, ⟨30, 1, .ro, 0⟩, ⟨29, 1, .ro, 0⟩, ⟨0, 24, .rw, 0⟩]⟩,
  ⟨BPM_POOL_FREE, 16, 8, [⟨0, 24, .ro, 0⟩]⟩,
  ⟨MEM_CHAN_STAT, 0, 1, [⟨0, 24, .ro, 0⟩]⟩,
  ⟨DBG_CTL, 0, 1, [⟨31, 1, .rw, 0⟩, ⟨30, 1, .rw, 0⟩, ⟨0, 6, .rw, 63⟩]⟩,
  ⟨DBG_TRIG_CFG, 0, 1, [⟨31, 1, .wo, 0⟩, ⟨16, 5, .rw, 8⟩, ⟨0, 5, .rw, 1⟩]⟩,
  ⟨DBG_TRIG, 0, 1, [⟨0, 1, .wo, 0⟩]⟩,
  ⟨DBG_STAT, 0, 1, [⟨31, 1, .ro, 0⟩, ⟨30, 1, .ro, 0⟩, ⟨29, 1, .ro, 0⟩, ⟨0, 19, .ro, 0⟩]⟩,
  ⟨DBG_TRIG_PTR, 0, 1, [⟨0, 19, .ro, 0⟩]⟩,
  ⟨DBG_PORT_STAT, 0, 1, [⟨31, 1, .ro, 0⟩, ⟨0, 20, .ro, 0⟩]⟩,
  ⟨DBG_BUF_PAGE, 0, 1, [⟨0, 4, .rw, 0⟩]⟩,
  ⟨DBG_MARK, 0, 1, [⟨0, 32, .wo, 0⟩]⟩,
  ⟨DBG_GTC_OFS, 0, 1, [⟨0, 32, .ro, 0⟩]⟩,
  ⟨DBG_RING_SEL, 0, 1, [⟨10, 4, .rw, 0⟩, ⟨0, 10, .rw, 0⟩]⟩,
  ⟨DBG_ERR_CNT, 0, 1, [⟨16, 16, .ro, 0⟩, ⟨0, 16, .ro, 0⟩]⟩,
  ⟨DBG_SNAP, 0, 1, [⟨0, 1, .wo, 0⟩]⟩,
  ⟨DBG_AFILT_ADDR_LO, 16, 4, [⟨0, 32, .rw, 0⟩]⟩,
  ⟨DBG_AFILT_ADDR_HI, 16, 4, [⟨31, 1, .rw, 0⟩, ⟨30, 1, .rw, 0⟩, ⟨29, 1, .rw, 0⟩, ⟨0, 16, .rw, 0⟩]⟩,
  ⟨DBG_AFILT_MASK_LO, 16, 4, [⟨0, 32, .rw, 0⟩]⟩]

/-- Registers 221 to 238 of the map, in address order (R630). -/
def regRows11 : List RegRow := [
  ⟨DBG_AFILT_MASK_HI, 16, 4, [⟨0, 16, .rw, 0⟩]⟩,
  ⟨DBG_WATCH_CFG, 8, 8, [⟨31, 1, .rw, 0⟩, ⟨30, 1, .rw, 0⟩, ⟨29, 1, .rw, 0⟩, ⟨28, 1, .rw, 0⟩, ⟨24, 4, .rw, 0⟩, ⟨16, 8, .rw, 0⟩, ⟨13, 3, .rw, 0⟩, ⟨0, 10, .rw, 1023⟩]⟩,
  ⟨DBG_WATCH_LIMIT, 8, 8, [⟨0, 32, .rw, 0⟩]⟩,
  ⟨SEC_SERIAL, 4, 4, [⟨0, 32, .ro, 0⟩]⟩,
  ⟨SEC_HWTYPE, 0, 1, [⟨0, 16, .ro, 0⟩]⟩,
  ⟨SEC_ROOT, 0, 1, [⟨8, 1, .ro, 0⟩, ⟨4, 4, .ro, 0⟩, ⟨0, 4, .ro, 0⟩]⟩,
  ⟨SEC_SVN, 0, 1, [⟨31, 1, .wo, 0⟩, ⟨0, 7, .ro, 0⟩]⟩,
  ⟨SEC_FW_VER, 0, 1, [⟨0, 32, .ro, 0⟩]⟩,
  ⟨SEC_FW_STATE, 0, 1, [⟨29, 3, .ro, 0⟩, ⟨0, 8, .ro, 0⟩]⟩,
  ⟨SEC_FW_STAT, 0, 1, [⟨16, 16, .ro, 0⟩, ⟨0, 10, .ro, 0⟩]⟩,
  ⟨SEC_ACT_AT_LO, 0, 1, [⟨0, 32, .rw, 0⟩]⟩,
  ⟨SEC_ACT_AT_HI, 0, 1, [⟨0, 32, .rw, 0⟩]⟩,
  ⟨SEC_ACT_STAT, 0, 1, [⟨31, 1, .ro, 0⟩, ⟨30, 1, .w1c, 0⟩, ⟨29, 1, .w1c, 0⟩, ⟨28, 1, .wo, 0⟩]⟩,
  ⟨SEC_ATT, 0, 1, [⟨0, 30, .ro, 0⟩]⟩,
  ⟨SEC_ATT_LEFT, 0, 1, [⟨0, 31, .ro, 0⟩]⟩,
  ⟨SEC_MBOX_CTL, 0, 1, [⟨31, 1, .ro, 0⟩, ⟨30, 1, .w1c, 0⟩, ⟨27, 3, .ro, 0⟩, ⟨3, 13, .ro, 0⟩, ⟨0, 3, .wo, 0⟩]⟩,
  ⟨SEC_DBG, 0, 1, [⟨31, 1, .ro, 0⟩, ⟨30, 1, .ro, 0⟩, ⟨0, 2, .ro, 0⟩]⟩,
  ⟨SEC_ATT_TOKENS, 0, 1, [⟨0, 5, .ro, 16⟩]⟩]

/-- Every register the tables of the manual give, with its fields, their access codes and the resets they state (R13, R630). -/
def regRows : List RegRow :=
  regRows0 ++ regRows1 ++ regRows2 ++ regRows3 ++ regRows4 ++ regRows5 ++ regRows6 ++ regRows7 ++ regRows8 ++ regRows9 ++ regRows10 ++ regRows11

end Sys2Proof.Machine
end

