-- ==== Sys2Proof/Machine/Mem.lean ====
section
/-!
DEFINITION. Byte memory in one canonical form: DRAM (R621), host memory behind PCIe (R434), boot flash (R603), the save
memory (R495) and the security mailbox (R608) are all held this way.
-/

namespace Sys2Proof.Machine

/-- Memory: (address, byte) pairs, addresses strictly rising, no entry equal to `memUnlisted`. -/
abbrev Mem := List Host.Cell

/-- What a byte that nothing has written reads as. DESIGN CHOICE (log entry 3): the manual gives DRAM no contents at
power-up; unsafe. -/
def memUnlisted : Byte := 0

/-- The canonical form. -/
def Mem.wf (m : Mem) : Bool := Table.canonical memUnlisted m

/-- One byte. -/
def Mem.get (m : Mem) (a : Nat) : Byte := Table.at memUnlisted m a

/-- One byte written; writing the unlisted value removes the entry. -/
def Mem.set (m : Mem) (a : Nat) (b : Byte) : Mem := Table.write memUnlisted m a b

/-- `n` bytes from `a` upwards. -/
def Mem.bytes (m : Mem) (a n : Nat) : List Byte := (List.range n).map (fun i => Mem.get m (a + i))

/-- Bytes stored from `a` upwards. -/
def Mem.store (m : Mem) (a : Nat) : List Byte → Mem
  | [] => m
  | b :: bs => Mem.store (Mem.set m a b) (a + 1) bs

/-- A little-endian value of `n` bytes (R11). -/
def Mem.readLe (m : Mem) (a n : Nat) : Nat := leNat (Mem.bytes m a n)

/-- A little-endian value of `n` bytes stored (R11). -/
def Mem.writeLe (m : Mem) (a n v : Nat) : Mem := Mem.store m a (leBytes n v)

/-- `n` bytes set to zero. -/
def Mem.clear (m : Mem) (a n : Nat) : Mem := m.filter (fun e => decide (e.1 < a) || decide (a + n ≤ e.1))

end Sys2Proof.Machine
end

