-- ==== Sys2Proof/Machine/CoreTypes.lean ====
section
/-!
DEFINITION. The state of a control core (R33, R59, R66, R79, R105), of a descriptor ring (R84 to R93) and of a descriptor an
engine has taken (R97, R100).
-/

namespace Sys2Proof.Machine

/-- What a core waits for between two instructions: a `wtc` (R62), a `fnc` (R64) or an `idle` (R58). -/
inductive Wait where
  | ticket (rd : RegField) (t : Ticket)
  | fence (mask : BitVec 16)
  | idle
deriving DecidableEq, Repr

/-- An entry of the ticket table (R59): the engine class submitted to, and the status once complete. -/
structure TicketEntry where
  cls : Nat
  status : Option Byte
deriving DecidableEq, Repr

/-- How a recipe's core stands under the tenant supervisor (R119, R121). -/
inductive CoreDuty where
  | free      -- not held by a recipe's supervisor
  | waiting   -- launched, waiting for the GTC to reach L
  | ended     -- its `svc` ended its part of the work, or it failed
  | stopped   -- halted by the supervisor at an instruction boundary
deriving DecidableEq, Repr

/-- One control core. -/
structure Core where
  g : Vector Word64 32
  v : Vector VWord 16
  pc : Word64
  fflags : BitVec 5
  cycle : Word64
  instret : Word64
  status : Word64
  trapVecS : Word64
  trapPcS : Word64
  trapCauseS : Word64
  trapValS : Word64
  scratchS : Word64
  trapVecM : Word64
  trapPcM : Word64
  trapCauseM : Word64
  trapValM : Word64
  scratchM : Word64
  deleg : Word64
  irqEn : BitVec 4
  gtcCmp : Word64
  regionU : Vector Word64 16
  regionS : Vector Word64 16
  bpAddr : Vector Word64 8
  bpCtl : Word64
  wpAddr : Vector Word64 4
  wpMask : Vector Word64 4
  wpCtl : Word64
  halted : Bool
  haltCause : BitVec 4
  wait : Option Wait
  duty : CoreDuty
  swi : Bool
  /-- Tickets issued since the core's reset (R59). -/
  issued : Nat
  /-- The latest 4,096 tickets, newest first. -/
  tickets : List TicketEntry
  tki : List Ticket
  tkiOvf : Bool
deriving DecidableEq, Repr

/-- A region CSR at reset: not enabled, SIZE 12 (R42). -/
def regionReset : Word64 := 12#64 <<< 48

/-- `STATUS` at reset: PRIV and PREV_PRIV_M are M (R67). -/
def statusReset : Word64 := 0x2002

/-- A core after core reset (R36, R66); `pc` holds the reset vector of R621. -/
def Core.reset : Core where
  g := Vector.replicate 32 0
  v := Vector.replicate 16 0
  pc := 0
  fflags := 0
  cycle := 0
  instret := 0
  status := statusReset
  trapVecS := 0
  trapPcS := 0
  trapCauseS := 0
  trapValS := 0
  scratchS := 0
  trapVecM := 0
  trapPcM := 0
  trapCauseM := 0
  trapValM := 0
  scratchM := 0
  deleg := 0
  irqEn := 0
  gtcCmp := BitVec.allOnes 64
  regionU := Vector.replicate 16 regionReset
  regionS := Vector.replicate 16 regionReset
  bpAddr := Vector.replicate 8 0
  bpCtl := 0
  wpAddr := Vector.replicate 4 0
  wpMask := Vector.replicate 4 0
  wpCtl := 0
  halted := false
  haltCause := 0
  wait := none
  duty := .free
  swi := false
  issued := 0
  tickets := []
  tki := []
  tkiOvf := false

/-- A descriptor ring (R85, R89 to R93, R595). Pointers count modulo 2^(n+1). -/
structure Ring where
  en : Bool
  disabling : Bool
  ownerPriv : BitVec 2
  ownerCore : BitVec 4
  log2 : BitVec 4
  weight : BitVec 4
  qcn : BitVec 16
  base : BitVec 48
  tail : Nat
  head : Nat
  win : Vector Word64 4
  reject : Bool
  cause : BitVec 3
  errors : Nat
  /-- Descriptors completed, and those with status 0x10 or above, since the ring was enabled (R595). -/
  done : Nat
  doneErr : Nat
deriving DecidableEq, Repr

/-- A ring at reset (R89 to R93). -/
def Ring.reset : Ring where
  en := false
  disabling := false
  ownerPriv := 0
  ownerCore := 0
  log2 := 6
  weight := 1
  qcn := 0
  base := 0
  tail := 0
  head := 0
  win := Vector.replicate 4 regionReset
  reject := false
  cause := 0
  errors := 0
  done := 0
  doneErr := 0

/-- The round-robin position of a class: the ring served last and the turns it has left (R87). -/
structure Turn where
  ring : Nat
  left : Nat
deriving DecidableEq, Repr

/-- Whom a queue context number is bound to (R363); an unlisted one is free. -/
inductive QcUse where
  | engineRing (cls ring : Nat)
  | nvmeQueue (fn qid : Nat)
  | commandRing (index : Nat)
  | rdmaQp
deriving DecidableEq, Repr

/-- How an engine's work on a descriptor ended (R100), and the output a watch examines (R591). -/
structure Result where
  status : Byte
  detail : BitVec 16
  /-- Whether a status word is written where STATUS_ADDR names one (R99, R102). -/
  writesWord : Bool
  /-- The output a watch examines: address and bytes (R591). -/
  output : List (Nat × Nat)
deriving DecidableEq, Repr

/-- A descriptor an engine has taken and not yet completed (R87, R102). -/
structure Taken where
  cls : Nat
  ring : Nat
  core : CoreId
  ticket : Ticket
  desc : List Byte
  unit : Nat
  /-- MIL_CFG as it stood then: writes apply to descriptors taken afterwards (R180). -/
  millCfg : Nat
  result : Option Result
deriving DecidableEq, Repr

end Sys2Proof.Machine
end

