-- ==== Sys2Proof/Machine/FaultTypes.lean ====
section
/-!
DEFINITION. What the fault controller holds beside its registers: watchdogs, self-tests and a replay run (R551 to R574).
-/

namespace Sys2Proof.Machine

/-- A replay run (R570): the block of its request, runs made, mismatches, the first differing piece and the last digest. -/
structure ReplayRun where
  block : Nat
  runs : Nat
  mismatches : Nat
  firstPiece : Nat
  digest : Nat
deriving DecidableEq, Repr

structure FaultCtl where
  /-- When each core's watchdog was last restarted. -/
  kicks : Table Word64
  /-- Self-tests that wait, as class and unit, oldest first, and the one that runs (R564). -/
  queue : List (Nat × Nat)
  testing : Option (Nat × Nat)
  replay : Option ReplayRun
deriving DecidableEq, Repr

def FaultCtl.reset : FaultCtl := { kicks := [], queue := [], testing := none, replay := none }

end Sys2Proof.Machine
end

