-- ==== Sys2Proof/Machine/FetchTypes.lean ====
section
/-!
DEFINITION. Fetch streams, their items and the catalog cache (R132, R139 to R149).
-/

namespace Sys2Proof.Machine

/-- A dataset volume as its header describes it (R125, R126). -/
structure Volume where
  space : Nat
  n : Nat
  places : Nat
  place : Nat
  catOffset : Nat
  catEntries : Nat
  bytes : Nat
  generation : Nat
deriving DecidableEq, Repr

/-- The outcome the kiln enters in an item's tracking record (R198). -/
structure KilnOutcome where
  status : Nat
  outBytes : Nat
  kind : Nat
  offset : Nat
  lane : Nat
deriving DecidableEq, Repr

/-- An item of a stream (R149): its fields, its staging and where its CRC check stands (R143). -/
structure FetchItem where
  pos : Nat
  gsid : Nat
  status : Nat
  cause : Nat
  codec : Nat
  frame : Nat
  storedLen : Nat
  expandedLen : Nat
  dim0 : Nat
  dim1 : Nat
  crc : Nat
  /-- Byte offset in the volume. -/
  offset : Nat
  grist : Nat
  out : Nat
  outSize : Nat
  attempt : Nat
  origin : Nat
  /-- The CRC check has ended, or no grist is read. -/
  staged : Bool
  /-- Bytes that could not be read as staged, and whether none could. -/
  unread : Bool
  blank : Bool
  kiln : Option KilnOutcome
deriving DecidableEq, Repr

/-- A fetch stream, by its ring (R139, R147). -/
structure FetchStream where
  /-- Streams are numbered as they open. -/
  serial : Nat
  dataset : Nat
  seedSlot : Nat
  all : Bool
  epoch : Nat
  first : Nat
  last : Nat
  seed : List Byte
  volume : Volume
  lookahead : Nat
  /-- The recipe whose staging the stream uses, and where its tracking records lie (R139). -/
  handle : Nat
  track : Nat
  /-- Items issued and not returned, and those of the last list, whose space is still held (R148). -/
  items : List FetchItem
  held : List FetchItem
  /-- Positions returned, and those whose catalog page was missed (R153). -/
  returned : List Nat
  missed : List Nat
  /-- The FILL_LIST that has begun: core and ticket. -/
  began : Option (Nat × Nat)
  /-- Closed by a clearing write, its staging not yet released (R151). -/
  closed : Bool
deriving DecidableEq, Repr

/-- The fetch engine. -/
structure Fetch where
  streams : Table FetchStream
  /-- Items that the SPAREs of a ring returned and no FILL_LIST has released (R148). -/
  spareHeld : Table (List FetchItem)
  /-- Cached catalog pages by space × 2^40 + page, newest first (R132). -/
  cache : List (Nat × List Byte)
  /-- The channel served last (R141). -/
  turn : Nat
  /-- Streams opened. -/
  opened : Nat
deriving DecidableEq, Repr

def Fetch.reset : Fetch := { streams := [], spareHeld := [], cache := [], turn := 0, opened := 0 }

end Sys2Proof.Machine
end

