-- ==== Sys2Proof/Machine/RecipeTypes.lean ====
section
/-!
DEFINITION. A loaded recipe (R108 to R122) and what was asked of it.
-/

namespace Sys2Proof.Machine

/-- Where a command came from: a command ring (R421) with its CID, or the manager (R116). -/
inductive CmdRef where
  | ring (qcn cid : Nat)
  | manager (cid : Nat)
deriving DecidableEq, Repr

/-- A memory block of the loader: base and size (R632). -/
structure Block where
  base : Nat
  size : Nat
deriving DecidableEq, Repr

/-- An active stage of a recipe (R111 to R113). -/
structure Stage where
  index : Nat
  cls : Nat
  rings : Nat
  log2 : Nat
  weight : Nat
  active : Bool
deriving DecidableEq, Repr

/-- A ring the loader allocated: (stage, index) on a core of the recipe (R114). -/
structure RingSlot where
  stage : Nat
  index : Nat
  core : CoreId
  cls : Nat
  ring : Nat
deriving DecidableEq, Repr

/-- A launch (R119). -/
structure Launch where
  at_ : Word64
  dataset : BitVec 16
  epochFirst : BitVec 32
  epochCount : BitVec 32
  seeds : List (List Byte)
deriving DecidableEq, Repr

/-- The failure that RECIPE_STATUS reports (R121, R422). -/
structure Failure where
  status : Byte
  exception : Bool
  index : Nat
  gtc : Word64
deriving DecidableEq, Repr

/-- The four states of R422. -/
inductive RecipeState where
  | loaded | waiting | running | ended
deriving DecidableEq, Repr

/-- A recipe the loader holds. -/
structure Recipe where
  hash : List Byte
  cores : List CoreId
  entry : Nat
  codeOff : Nat
  code : List Block
  data : Block
  bss : Block
  staging : Block
  /-- STAGING_MIB in bytes. -/
  stagingBytes : Nat
  page : Block
  stages : List Stage
  slots : List RingSlot
  seedSlots : Nat
  damagePolicy : Nat
  maxRatio : Nat
  maxPixels : Nat
  maxAudio : Nat
  maxBytes : Nat
  lookahead : Nat
  state : RecipeState
  launch : Option Launch
  failure : Option Failure
  /-- The unload commands waiting for the unload in progress (R122, R422); empty while none is. -/
  unloading : List CmdRef
deriving DecidableEq, Repr

/-- Bit s is set for an active stage (R113, R120). -/
def Recipe.stageMask (r : Recipe) : Nat :=
  (r.stages.filter (·.active)).foldl (fun acc st => acc + 2 ^ st.index) 0

/-- Every block of DRAM the recipe holds. -/
def Recipe.blocks (r : Recipe) : List Block := r.code ++ [r.data, r.bss, r.staging, r.page]

end Sys2Proof.Machine
end

