-- ==== Sys2Proof/Syntax.lean ====
section
/-!
DEFINITION. The commands the SN-1 takes: one constructor of `Instr` for each row of the opcode table, with its operands. A
Krytha instruction carries the core it runs on and the fields of its format (R48); every other command carries what its sender
supplies.
-/

namespace Sys2Proof

/-- The RRR format (R48). -/
structure Rrr where
  rd : RegField
  ra : RegField
  rb : RegField
deriving DecidableEq, Repr

/-- The RRI format (R48). -/
structure Rri where
  rd : RegField
  ra : RegField
  imm : BitVec 16
deriving DecidableEq, Repr

/-- Opcode 0x0E, whose imm[7:6] selects the shift (R52). -/
structure ShiftImm where
  rd : RegField
  ra : RegField
  upper : BitVec 8
  shamt : BitVec 6
deriving DecidableEq, Repr

/-- The BR format (R48). -/
structure Br where
  ra : RegField
  rb : RegField
  off : BitVec 16
deriving DecidableEq, Repr

/-- An atomic's registers, ORD and size bit (R55). -/
structure Atom where
  regs : Rrr
  ord : BitVec 2
  wide : Bool
deriving DecidableEq, Repr

/-- A vector instruction's registers and lane width code (R56, R57). -/
structure Vec where
  regs : Rrr
  width : BitVec 2
deriving DecidableEq, Repr

/-- The ST format (R48). -/
structure St where
  cls : BitVec 4
  ring : BitVec 10
  rd : RegField
  ra : RegField
deriving DecidableEq, Repr

/-- The SYS format (R48). -/
structure Sys where
  rd : RegField
  ra : RegField
  csr : BitVec 12
deriving DecidableEq, Repr

/-- The word an ADD step meets: an `add`, or a word that R50 and R51 leave unassigned. -/
inductive AddWord where
  | add (regs : Rrr)
  | unassigned (w : Word32)
deriving DecidableEq, Repr

/-- Who makes a register access (R631): a core at M, the host through the PF's BAR2, the debug port once unlocked with scope
bit 1, or the sideband. -/
inductive Writer where
  | core (c : CoreId)
  | host
  | debugPort
  | sideband
deriving DecidableEq, Repr

/-- Where a command of R422 comes from: a command ring of the PF, or the manager (R116), whose command carries the entry and the
bytes that a ring's command would name in host memory. -/
inductive CmdSrc where
  | ring (i : BitVec 4)
  | manager (cid : BitVec 16) (entry : List Byte) (payload : List Byte)
deriving DecidableEq, Repr

/-- Where image bytes or a commit come from (R612): the PF's admin queue, or the manager through the network service. -/
inductive FwSrc where
  | nvme
  | manager (cid : BitVec 16)
deriving DecidableEq, Repr

/-- What the recipe loader reserves for a load (R117, R632): cores, then for each ring in the order core, stage, index its number,
base and queue context, a code block for each core, and the other blocks. -/
structure Placement where
  cores : List CoreId
  rings : List Nat
  bases : List Nat
  qcns : List Nat
  code : List Nat
  data : Nat
  bss : Nat
  staging : Nat
  page : Nat
deriving DecidableEq, Repr

/-- What a die answers at the start of its channel (R286 to R290, R300, R308). -/
structure DieIdent where
  part : Nat
  toggle : Bool
  qlc : Bool
  planes : Nat
  pageBytes : Nat
  spareBytes : Nat
  pages : Nat
  blocks : Nat
  retryLen : Nat
  factoryBad : List Nat
deriving DecidableEq, Repr

/-- What the cells of a codeword show to a read (R300): corrected bits of the hard read where it decodes, the first retry entry
that decodes, whether the soft read decodes, and the steps whose decode fails CHECK. -/
structure CellState where
  bits : Option Nat
  retry : Option Nat
  soft : Bool
  miscorrects : List Nat
deriving DecidableEq, Repr

/-- Why a responder answers with a NAK (R359, R366, R367, R369). -/
inductive NakCode where
  | sequence | remoteAccess | invalid | remoteOp | notReady
deriving DecidableEq, Repr

/-- What a RoCEv2 packet carries (R359): `addr`, `key` and `len` stand in the first packet of a WRITE and in a READ request. -/
inductive NetBody where
  | send (first last : Bool) (data : List Byte)
  | write (first last : Bool) (addr key len : Nat) (imm : Option Nat) (data : List Byte)
  | readReq (addr key len : Nat)
  | readResp (last : Bool) (data : List Byte)
  | ack
  | nak (code : NakCode)
  | cnp
  /-- Any operation or transport that R359 refuses. -/
  | refused
deriving DecidableEq, Repr

/-- A packet that arrives on a sub-port. -/
structure NetPacket where
  sub : BitVec 3
  qpn : BitVec 24
  psn : BitVec 24
  ce : Bool
  body : NetBody
deriving DecidableEq, Repr

/-- What the connection service fills into a queue context (R362, R363). -/
structure QpSetup where
  control : Bool
  sub : BitVec 3
  pmtu : BitVec 2
  subscriber : BitVec 12
  v6 : Bool
  owner : Option (BitVec 8)
  psn : BitVec 24
  epsn : BitVec 24
deriving DecidableEq, Repr

/-- What happens to a replay run (R569 to R571): the write that requests it; a run whose part has a digest and perhaps a first
piece that differs, at a temperature and load; or the target temperature not reached in time. -/
inductive ReplayEvent where
  | request (w : Writer) (value : Word32)
  | ran (digest : Word64) (firstPiece : Option Word32) (temp : BitVec 16) (load : Byte)
  | unreached (temp : BitVec 16) (load : Byte)
deriving DecidableEq, Repr

/-- One command for each row of the opcode table, in its order. -/
inductive Instr where
  /-- ADD (R52): Writes ra + rb to rd, wrapping modulo 2^64. -/
  | add (c : CoreId) (w : AddWord)
  /-- DIF (R52): Writes ra − rb to rd. -/
  | dif (c : CoreId) (f : Rrr)
  /-- AND (R52): Writes the bitwise AND of ra and rb to rd. -/
  | and (c : CoreId) (f : Rrr)
  /-- OR (R52): Writes the bitwise OR of ra and rb to rd. -/
  | or (c : CoreId) (f : Rrr)
  /-- XOR (R52): Writes the bitwise XOR of ra and rb to rd. -/
  | xor (c : CoreId) (f : Rrr)
  /-- SLL (R52): Shifts ra left by rb[5:0]. -/
  | sll (c : CoreId) (f : Rrr)
  /-- SRL (R52): Shifts ra right logically by rb[5:0]. -/
  | srl (c : CoreId) (f : Rrr)
  /-- SRA (R52): Shifts ra right arithmetically by rb[5:0]. -/
  | sra (c : CoreId) (f : Rrr)
  /-- SLT (R52): Writes 1 to rd if ra < rb as signed values, else 0. -/
  | slt (c : CoreId) (f : Rrr)
  /-- SLTU (R52): Writes 1 to rd if ra < rb as unsigned values, else 0. -/
  | sltu (c : CoreId) (f : Rrr)
  /-- MIN (R52): Writes the signed minimum of ra and rb. -/
  | min (c : CoreId) (f : Rrr)
  /-- MAX (R52): Writes the signed maximum of ra and rb. -/
  | max (c : CoreId) (f : Rrr)
  /-- MINU (R52): Writes the unsigned minimum of ra and rb. -/
  | minu (c : CoreId) (f : Rrr)
  /-- MAXU (R52): Writes the unsigned maximum of ra and rb. -/
  | maxu (c : CoreId) (f : Rrr)
  /-- ADDW (R52): Writes the sign-extended low 32 bits of ra + rb. -/
  | addw (c : CoreId) (f : Rrr)
  /-- DIFW (R52): Writes the sign-extended low 32 bits of ra − rb. -/
  | difw (c : CoreId) (f : Rrr)
  /-- SLLW (R52): Shifts ra[31:0] left by rb[4:0] and sign-extends the result. -/
  | sllw (c : CoreId) (f : Rrr)
  /-- SRLW (R52): Shifts ra[31:0] right logically by rb[4:0] and sign-extends the result. -/
  | srlw (c : CoreId) (f : Rrr)
  /-- SRAW (R52): Shifts ra[31:0] right arithmetically by rb[4:0] and sign-extends the result. -/
  | sraw (c : CoreId) (f : Rrr)
  /-- CLZ (R52): Counts the leading zeros of ra. -/
  | clz (c : CoreId) (f : Rrr)
  /-- CTZ (R52): Counts the trailing zeros of ra, giving 64 for zero. -/
  | ctz (c : CoreId) (f : Rrr)
  /-- POP (R52): Counts the set bits of ra. -/
  | pop (c : CoreId) (f : Rrr)
  /-- BSWAP_H (R52): Reverses the bytes of ra[15:0] and zero-extends. -/
  | bswapH (c : CoreId) (f : Rrr)
  /-- BSWAP_W (R52): Reverses the bytes of ra[31:0] and zero-extends. -/
  | bswapW (c : CoreId) (f : Rrr)
  /-- BSWAP_D (R52): Reverses the bytes of ra. -/
  | bswapD (c : CoreId) (f : Rrr)
  /-- MUL (R52): Writes the low 64 bits of ra × rb. -/
  | mul (c : CoreId) (f : Rrr)
  /-- MULH (R52): Writes the high 64 bits of the signed 128-bit product. -/
  | mulh (c : CoreId) (f : Rrr)
  /-- MULHU (R52): Writes the high 64 bits of the unsigned 128-bit product. -/
  | mulhu (c : CoreId) (f : Rrr)
  /-- DIV (R53): Writes the signed quotient rounded toward zero, without trapping. -/
  | div (c : CoreId) (f : Rrr)
  /-- DIVU (R53): Writes the unsigned quotient, without trapping. -/
  | divu (c : CoreId) (f : Rrr)
  /-- REM (R53): Writes the signed remainder with the sign of ra. -/
  | rem (c : CoreId) (f : Rrr)
  /-- REMU (R53): Writes the unsigned remainder. -/
  | remu (c : CoreId) (f : Rrr)
  /-- ADDI (R52): Writes ra plus the sign-extended immediate. -/
  | addi (c : CoreId) (f : Rri)
  /-- ANDI (R52): Writes ra AND the zero-extended immediate. -/
  | andi (c : CoreId) (f : Rri)
  /-- ORI (R52): Writes ra OR the zero-extended immediate. -/
  | ori (c : CoreId) (f : Rri)
  /-- XORI (R52): Writes ra XOR the zero-extended immediate. -/
  | xori (c : CoreId) (f : Rri)
  /-- SLTI (R52): Signed compare of ra with the sign-extended immediate. -/
  | slti (c : CoreId) (f : Rri)
  /-- SLTIU (R52): Unsigned compare of ra with the sign-extended immediate. -/
  | sltiu (c : CoreId) (f : Rri)
  /-- SLLI (R52): Shifts ra left by an immediate amount. -/
  | slli (c : CoreId) (f : ShiftImm)
  /-- SRLI (R52): Shifts ra right logically by an immediate amount. -/
  | srli (c : CoreId) (f : ShiftImm)
  /-- SRAI (R52): Shifts ra right arithmetically by an immediate amount. -/
  | srai (c : CoreId) (f : ShiftImm)
  /-- LUI (R52): Writes sext(imm << 16) to rd. -/
  | lui (c : CoreId) (f : Rri)
  /-- BEQ (R54): Branches if ra equals rb. -/
  | beq (c : CoreId) (f : Br)
  /-- BNE (R54): Branches if ra differs from rb. -/
  | bne (c : CoreId) (f : Br)
  /-- BLT (R54): Branches if ra < rb as signed values. -/
  | blt (c : CoreId) (f : Br)
  /-- BGE (R54): Branches if ra ≥ rb as signed values. -/
  | bge (c : CoreId) (f : Br)
  /-- BLTU (R54): Branches if ra < rb as unsigned values. -/
  | bltu (c : CoreId) (f : Br)
  /-- BGEU (R54): Branches if ra ≥ rb as unsigned values. -/
  | bgeu (c : CoreId) (f : Br)
  /-- J (R54): Jumps by a word offset. -/
  | j (c : CoreId) (off : BitVec 26)
  /-- JAL (R54): Jumps by a word offset and writes the return address to g31. -/
  | jal (c : CoreId) (off : BitVec 26)
  /-- JALR (R54): Jumps to ra + imm with bits [1:0] cleared and writes the link to rd. -/
  | jalr (c : CoreId) (f : Rri)
  /-- LB (R54): Loads a sign-extended byte. -/
  | lb (c : CoreId) (f : Rri)
  /-- LBU (R54): Loads a zero-extended byte. -/
  | lbu (c : CoreId) (f : Rri)
  /-- LH (R54): Loads a sign-extended halfword. -/
  | lh (c : CoreId) (f : Rri)
  /-- LHU (R54): Loads a zero-extended halfword. -/
  | lhu (c : CoreId) (f : Rri)
  /-- LW (R54): Loads a sign-extended word. -/
  | lw (c : CoreId) (f : Rri)
  /-- LWU (R54): Loads a zero-extended word. -/
  | lwu (c : CoreId) (f : Rri)
  /-- LD (R54): Loads a doubleword. -/
  | ld (c : CoreId) (f : Rri)
  /-- VLD (R54): Loads 64 bytes into a vector register. -/
  | vld (c : CoreId) (f : Rri)
  /-- SB (R54): Stores a byte. -/
  | sb (c : CoreId) (f : Rri)
  /-- SH (R54): Stores a halfword. -/
  | sh (c : CoreId) (f : Rri)
  /-- SW (R54): Stores a word. -/
  | sw (c : CoreId) (f : Rri)
  /-- SD (R54): Stores a doubleword. -/
  | sd (c : CoreId) (f : Rri)
  /-- VST (R54): Stores a vector register as 64 bytes. -/
  | vst (c : CoreId) (f : Rri)
  /-- ATADD (R55): Atomically adds rb to memory and returns the old value. -/
  | atadd (c : CoreId) (f : Atom)
  /-- ATSWP (R55): Atomically swaps rb into memory and returns the old value. -/
  | atswp (c : CoreId) (f : Atom)
  /-- ATAND (R55): Atomically ANDs rb into memory and returns the old value. -/
  | atand (c : CoreId) (f : Atom)
  /-- ATOR (R55): Atomically ORs rb into memory and returns the old value. -/
  | ator (c : CoreId) (f : Atom)
  /-- ATXOR (R55): Atomically XORs rb into memory and returns the old value. -/
  | atxor (c : CoreId) (f : Atom)
  /-- ATMAX (R55): Atomic signed maximum. -/
  | atmax (c : CoreId) (f : Atom)
  /-- ATMIN (R55): Atomic signed minimum. -/
  | atmin (c : CoreId) (f : Atom)
  /-- ATMAXU (R55): Atomic unsigned maximum. -/
  | atmaxu (c : CoreId) (f : Atom)
  /-- ATMINU (R55): Atomic unsigned minimum. -/
  | atminu (c : CoreId) (f : Atom)
  /-- ATCAS (R55): Atomic compare-and-swap, which always writes. -/
  | atcas (c : CoreId) (f : Atom)
  /-- VADD (R56): Lane-wise wrapping sum. -/
  | vadd (c : CoreId) (f : Vec)
  /-- VDIF (R56): Lane-wise difference. -/
  | vdif (c : CoreId) (f : Vec)
  /-- VMUL (R56): Lane-wise low half of the product. -/
  | vmul (c : CoreId) (f : Vec)
  /-- VAND (R56): Lane-wise AND. -/
  | vand (c : CoreId) (f : Vec)
  /-- VOR (R56): Lane-wise OR. -/
  | vor (c : CoreId) (f : Vec)
  /-- VXOR (R56): Lane-wise XOR. -/
  | vxor (c : CoreId) (f : Vec)
  /-- VMIN (R56): Lane-wise signed minimum. -/
  | vmin (c : CoreId) (f : Vec)
  /-- VMAX (R56): Lane-wise signed maximum. -/
  | vmax (c : CoreId) (f : Vec)
  /-- VMINU (R56): Lane-wise unsigned minimum. -/
  | vminu (c : CoreId) (f : Vec)
  /-- VMAXU (R56): Lane-wise unsigned maximum. -/
  | vmaxu (c : CoreId) (f : Vec)
  /-- VSLL (R56): Lane-wise shift left. -/
  | vsll (c : CoreId) (f : Vec)
  /-- VSRL (R56): Lane-wise logical shift right. -/
  | vsrl (c : CoreId) (f : Vec)
  /-- VSRA (R56): Lane-wise arithmetic shift right. -/
  | vsra (c : CoreId) (f : Vec)
  /-- VCMPEQ (R56): Sets each lane to all ones where the lanes are equal. -/
  | vcmpeq (c : CoreId) (f : Vec)
  /-- VCMPLT (R56): Sets each lane to all ones where the signed less-than holds. -/
  | vcmplt (c : CoreId) (f : Vec)
  /-- VCMPLTU (R56): Sets each lane to all ones where the unsigned less-than holds. -/
  | vcmpltu (c : CoreId) (f : Vec)
  /-- VBCAST (R56): Broadcasts a general register into every lane. -/
  | vbcast (c : CoreId) (f : Vec)
  /-- VEXT (R56): Extracts one lane into a general register. -/
  | vext (c : CoreId) (f : Vec)
  /-- VINS (R56): Inserts a general register into one lane. -/
  | vins (c : CoreId) (f : Vec)
  /-- VREDSUM (R56): Sums the lanes in increasing lane order. -/
  | vredsum (c : CoreId) (f : Vec)
  /-- VFADD (R57): Lane-wise floating-point sum. -/
  | vfadd (c : CoreId) (f : Vec)
  /-- VFDIF (R57): Lane-wise floating-point difference. -/
  | vfdif (c : CoreId) (f : Vec)
  /-- VFMUL (R57): Lane-wise floating-point product. -/
  | vfmul (c : CoreId) (f : Vec)
  /-- VFMA (R57): Lane-wise fused multiply-add with one rounding. -/
  | vfma (c : CoreId) (f : Vec)
  /-- VFMIN (R57): Lane-wise IEEE 754-2019 minimum. -/
  | vfmin (c : CoreId) (f : Vec)
  /-- VFMAX (R57): Lane-wise IEEE 754-2019 maximum. -/
  | vfmax (c : CoreId) (f : Vec)
  /-- VFCVT_I (R57): Converts float lanes to saturating signed integers. -/
  | vfcvtI (c : CoreId) (f : Vec)
  /-- VFCVT_F (R57): Converts signed integer lanes to floats. -/
  | vfcvtF (c : CoreId) (f : Vec)
  /-- CSRR (R58): Reads a CSR. -/
  | csrr (c : CoreId) (f : Sys)
  /-- CSRW (R58): Swaps a CSR with ra. -/
  | csrw (c : CoreId) (f : Sys)
  /-- CSRSET (R58): Sets CSR bits from ra and returns the old value. -/
  | csrset (c : CoreId) (f : Sys)
  /-- CSRCLR (R58): Clears CSR bits from ra and returns the old value. -/
  | csrclr (c : CoreId) (f : Sys)
  /-- MBAR (R44): Orders memory accesses before the barrier ahead of those after it. -/
  | mbar (c : CoreId) (f : Sys)
  /-- IBAR (R43): Makes earlier stores visible to later instruction fetch. -/
  | ibar (c : CoreId) (f : Sys)
  /-- SVC (R58): Raises the service call of the current level; at U under the tenant supervisor it ends or fails the recipe core. -/
  | svc (c : CoreId) (f : Sys)
  /-- BRK (R58): Raises BREAKPOINT. -/
  | brk (c : CoreId) (f : Sys)
  /-- TRET (R71): Returns from a trap and restores the privilege and interrupt enable. -/
  | tret (c : CoreId) (f : Sys)
  /-- IDLE (R58): Waits until an enabled interrupt is pending. -/
  | idle (c : CoreId) (f : Sys)
  /-- IDLE_WAKE (R58): A waiting idle retires once a bit is set in both IRQ_PEND and IRQ_EN. -/
  | idleWake (c : CoreId)
  /-- SUB (R60): Submits a descriptor to a ring, issues a ticket and rings the doorbell, or writes 0. -/
  | sub (c : CoreId) (f : St)
  /-- WTC (R62): Waits for a ticket to complete and returns its result. -/
  | wtc (c : CoreId) (f : St)
  /-- WTC_RETURN (R62): A waiting wtc retires once its ticket completes. -/
  | wtcReturn (c : CoreId)
  /-- TKP (R62): Returns a ticket's state at once, without waiting. -/
  | tkp (c : CoreId) (f : St)
  /-- FNC (R64): Waits until every descriptor this core submitted to the selected classes is complete. -/
  | fnc (c : CoreId) (f : St)
  /-- FNC_RETURN (R64): A waiting fnc retires once its descriptors are complete. -/
  | fncReturn (c : CoreId)
  /-- GTC (R65): Reads the global tick counter. -/
  | gtc (c : CoreId) (f : St)
  /-- TAKE_INTERRUPT (R70): A pending, enabled interrupt is taken at an instruction boundary. -/
  | takeInterrupt (c : CoreId)
  /-- TIMER_INTERRUPT (R66): The timer interrupt becomes pending when the GTC reaches GTC_CMP. -/
  | timerInterrupt (c : CoreId)
  /-- HALT (R79): A HALT write requests debug halt of a core, and of every core when HALT_ALL is set. -/
  | halt (w : Writer) (c : CoreId)
  /-- RESUME (R79): A RESUME write makes a core leave debug halt. -/
  | resume (w : Writer) (c : CoreId)
  /-- SWI_SET (R81): Sets the software interrupt of the selected cores. -/
  | swiSet (w : Writer) (cores : BitVec 16)
  /-- SWI_CLEAR (R81): Clears the software interrupt of the selected cores. -/
  | swiClear (w : Writer) (cores : BitVec 16)
  /-- RING_ENABLE (R94): A write of EN = 1 enables a ring and binds its QCN, or refuses with a cause. -/
  | ringEnable (w : Writer) (value : Word32)
  /-- RING_DISABLE (R95): A write of EN = 0 disables an empty ring, or sets DISABLING on one that holds descriptors. -/
  | ringDisable (w : Writer) (value : Word32)
  /-- RING_DRAINED (R95): DISABLING clears and the QCN binding ends once HEAD reaches TAIL. -/
  | ringDrained (cls : BitVec 4) (ring : BitVec 10)
  /-- DESCRIPTOR_TAKE (R87): An engine takes the next descriptor of a ring by weighted round robin, honouring BARRIER. -/
  | descriptorTake (cls : BitVec 4)
  /-- DESCRIPTOR_COMPLETE (R102): A finished descriptor writes its status word, completes its ticket and queues it for the ticket interrupt. -/
  | descriptorComplete (c : CoreId) (t : Ticket) (seen : Option Nat)
  /-- TKI_POP (R106): A read of CC_TKI_POPn removes and returns the oldest queued ticket. -/
  | tkiPop (w : Writer) (c : CoreId)
  /-- SQ_TAIL (R410): A BAR4 SQ_TAIL write rings a command-ring or queue doorbell, or is discarded and counted. -/
  | sqTail (qcn : BitVec 16) (value : Word32) (stores : List (Nat × List Byte))
  /-- CQ_HEAD (R410): A BAR4 CQ_HEAD write releases completion entries, or is discarded and counted. -/
  | cqHead (qcn : BitVec 16) (value : Word32)
  /-- RECIPE_LOAD (R117): Checks, hashes, reserves, relocates and places a recipe image. -/
  | recipeLoad (src : CmdSrc) (place : Placement)
  /-- RECIPE_LAUNCH (R119): Accepts a launch with launch value L and writes the launch block. -/
  | recipeLaunch (src : CmdSrc)
  /-- RECIPE_START (R119): The recipe's cores leave their wait at U when the GTC reaches L. -/
  | recipeStart (handle : BitVec 8)
  /-- RECIPE_UNLOAD (R122): Halts the cores, drains the rings and releases the recipe. -/
  | recipeUnload (src : CmdSrc)
  /-- RECIPE_STATUS (R422): Returns the recipe state and its end status. -/
  | recipeStatus (src : CmdSrc)
  /-- CMD_SPACE_CREATE (R422): Command-ring command that creates a translation space. -/
  | cmdSpaceCreate (src : CmdSrc)
  /-- CMD_SPACE_DELETE (R422): Command-ring command that deletes a translation space. -/
  | cmdSpaceDelete (src : CmdSrc)
  /-- NS_ATTACH (R422): Attaches or detaches a namespace to functions. -/
  | nsAttach (src : CmdSrc)
  /-- CASK_GRANT (R424): Queues a host cask-buffer grant for a subscriber. -/
  | caskGrant (src : CmdSrc)
  /-- GRANT_WITHDRAW (R426): Completes a subscriber's waiting grants with WITHDRAWN. -/
  | grantWithdraw (src : CmdSrc)
  /-- FILL_LIST (R148): Returns staged items of the ring's fetch stream in a fetch list. -/
  | fillList (c : CoreId) (t : Ticket)
  /-- PERMUTE (R150): Writes π or σ for a run of positions. -/
  | permute (c : CoreId) (t : Ticket)
  /-- SPARE (R144): Returns the substitute item for a damaged position. -/
  | spare (c : CoreId) (t : Ticket) (peer : Option (List Byte))
  /-- CLOSE (R147): Closes the ring's fetch stream and releases its staging. -/
  | close (c : CoreId) (t : Ticket)
  /-- GRIST_READ_ISSUE (R141): The fetch engine issues die-ordered grist and catalog reads. -/
  | gristReadIssue (rebuilt : Option (List Byte × List Byte))
  /-- CATALOG_MISS (R132): A catalog-cache miss reads the 4 KiB catalog page. -/
  | catalogMiss (ring : BitVec 10)
  /-- ITEM_STAGED (R143): Once an item's last byte is staged, its CRC-64 is checked and the item is reread on a mismatch. -/
  | itemStaged (ring : BitVec 10) (pos : BitVec 48) (peer : Option (List Byte))
  /-- DECODE (R157): A mill decodes a stream and writes the output and a wort record. -/
  | decode (c : CoreId) (t : Ticket)
  /-- PROBE (R156): A mill parses the headers against the limits and writes a wort record. -/
  | probe (c : CoreId) (t : Ticket)
  /-- DECOMPRESS (R191): The kiln expands a stream or a piece of one. -/
  | decompress (c : CoreId) (t : Ticket)
  /-- COMPRESS (R190): The kiln compresses a stream or a piece of one, verifying every block. -/
  | compress (c : CoreId) (t : Ticket) (mismatch : Option Nat)
  /-- GF_COMBINE (R201): The kiln computes GF(2^8) combinations of shares. -/
  | gfCombine (c : CoreId) (t : Ticket)
  /-- TRANSFORM (R217): A tile applies an op list to a wort record and writes a tensor and its record. -/
  | transform (c : CoreId) (t : Ticket) (tileError : Bool)
  /-- SCORE (R231): Runs a resident scoring model on one input. -/
  | score (c : CoreId) (t : Ticket) (tileError : Bool)
  /-- MODEL_LOAD (R230): Makes a scoring model resident on tiles. -/
  | modelLoad (c : CoreId) (t : Ticket)
  /-- MODEL_UNLOAD (R240): Releases a model's tiles once the FILTERs using it have finished. -/
  | modelUnload (c : CoreId) (t : Ticket)
  /-- FILTER (R234): The lauter judges one sample by its predicates and writes a verdict record. -/
  | filter (c : CoreId) (t : Ticket)
  /-- LOAD_SET (R237): Makes a MinHash set resident and builds its index. -/
  | loadSet (c : CoreId) (t : Ticket)
  /-- SIGNATURE (R237): Writes the MinHash signature of an input. -/
  | signature (c : CoreId) (t : Ticket)
  /-- UNLOAD_SET (R240): Releases a set once the FILTERs using it have finished. -/
  | unloadSet (c : CoreId) (t : Ticket)
  /-- TOKENIZE (R253): Tokenizes one text, or one piece of it, by longest match. -/
  | tokenize (c : CoreId) (t : Ticket)
  /-- VOCAB_LOAD (R249): Makes a vocabulary resident and builds its trie. -/
  | vocabLoad (c : CoreId) (t : Ticket)
  /-- VOCAB_UNLOAD (R251): Releases a vocabulary slot once the running TOKENIZEs have ended. -/
  | vocabUnload (c : CoreId) (t : Ticket)
  /-- PACK_SLOTS (R269): Converts one node's tensors into a slot part with its manifest. -/
  | packSlots (c : CoreId) (t : Ticket)
  /-- PACK_ROWS (R274): Packs the final segments of a stream into token rows. -/
  | packRows (c : CoreId) (t : Ticket)
  /-- MERGE (R278): Computes a cask digest from piece entries. -/
  | merge (c : CoreId) (t : Ticket)
  /-- DISCARD (R280): Frees a closed part or row set that was not delivered. -/
  | discard (c : CoreId) (t : Ticket)
  /-- PHYS_READ (R315): Reads a physical plane-page. -/
  | physRead (c : CoreId) (t : Ticket)
  /-- CHANNEL_SERVICE (R315): Calibrates or retrains a channel once no other channel is out of service. -/
  | channelService (c : CoreId) (t : Ticket) (best : Option (BitVec 3))
  /-- CHANNEL_TRAINING (R287): At reset a channel reads its dies' identification and trains up to the target rate. -/
  | channelTraining (ch : BitVec 5) (dies : List (BitVec 5 × DieIdent)) (best : Option (BitVec 3))
  /-- CODEWORD_READ (R300): A completed array read climbs the decode and retry steps for each codeword. -/
  | codewordRead (die : BitVec 10) (block page : Nat) (plane cw : BitVec 2) (shows : CellState)
  /-- STRIPE_RECONSTRUCTION (R302): A missing codeword is rebuilt by XOR of the other members of its stripe. -/
  | stripeReconstruction (die : BitVec 10) (block page : Nat) (plane cw : BitVec 2)
  /-- PROGRAM_DONE (R298): A wordline program ends, and its pages are reported programmed once their parity is programmed. -/
  | programDone (gcStream : Bool) (m : BitVec 5) (ok : Bool)
  /-- ERASE_DONE (R308): An erase ends, and the block is retired on failure. -/
  | eraseDone (m : BitVec 5) (ok : Bool)
  /-- DIE_TIMEOUT (R305): A die still busy at three times the maximum operation time is reset. -/
  | dieTimeout (die : BitVec 10) (cleared answers : Bool)
  /-- DIE_REBUILD (R306): Rebuilds the pages of a dead die into replacement blocks, one rebuild at a time. -/
  | dieRebuild
  /-- PATROL_READ (R309): The patrol reader reads superblocks in turn and asks for refreshes. -/
  | patrolRead
  /-- PERIODIC_CALIBRATION (R311): A channel is calibrated every PERIOD_S seconds. -/
  | periodicCalibration (ch : BitVec 5)
  /-- TEMP_CALIBRATION (R311): A channel is calibrated after a temperature change of TEMP_DELTA or more. -/
  | tempCalibration (ch : BitVec 5) (temp : Int)
  /-- READ (R350): Reads units of a translation space into a buffer. -/
  | read (c : CoreId) (t : Ticket)
  /-- WRITE (R331): Writes units, or zeros with ZERO, and completes after programming and MAP records. -/
  | write (c : CoreId) (t : Ticket)
  /-- TRIM (R335): Hints units as unused. -/
  | trim (c : CoreId) (t : Ticket) (runs : List (Nat × Nat))
  /-- SPACE_CREATE (R320): Creates a translation space. -/
  | spaceCreate (c : CoreId) (t : Ticket)
  /-- SPACE_DELETE (R337): Deletes a space and starts its background walk. -/
  | spaceDelete (c : CoreId) (t : Ticket)
  /-- SPACE_WALK (R337): A background walk removes a deleted space's units from the valid counts. -/
  | spaceWalk (space : BitVec 12)
  /-- SYNC (R350): Completes once every earlier record of the space is durable. -/
  | sync (c : CoreId) (t : Ticket)
  /-- JOURNAL_PAGE_PROGRAM (R328): A journal page is programmed once it holds 126 records or FILL_US has passed. -/
  | journalPageProgram (ok : Bool)
  /-- FILL_TIMER (R332): After FILL_US a USER wordline is padded with filler and programmed. -/
  | fillTimer
  /-- MAP_PAGE_READ (R324): A map-cache miss reads the map page. -/
  | mapPageRead (page : Nat)
  /-- MAP_WRITEBACK (R324): A changed cached map page is written back before eviction. -/
  | mapWriteback (page : Nat) (ok : Bool)
  /-- CHECKPOINT (R329): Snapshots the tables, writes back map pages and updates the anchor. -/
  | checkpoint
  /-- BACKGROUND_GC (R339): Reclamation starts after IDLE_MS without work. -/
  | backgroundGc
  /-- FOREGROUND_GC (R340): Reclamation with write credits starts when FREE falls below FREE_LOW. -/
  | foregroundGc
  /-- GC_MOVE (R342): A valid unit of the victim is copied, and a MOVE record follows once it is programmed. -/
  | gcMove
  /-- VICTIM_ERASE (R342): The victim is erased once every MOVE is durable and its reads have ended, and SB_FREE follows. -/
  | victimErase
  /-- MOUNT (R347): Recovers the map from the anchor, checkpoint, journal, cursors and reverse-map scan. -/
  | mount (copies : Nat) (checkpoint : Bool)
  /-- PORT_ENABLE (R356): A port comes up with its configuration when EN goes from 0 to 1. -/
  | portEnable (w : Writer) (port : BitVec 2) (value : Word32) (partner : Bool)
  /-- LINK_DOWN (R403): A sub-port loses link, and its queued packets are discarded. -/
  | linkDown (sub : BitVec 3)
  /-- LINK_UP (R403): A sub-port's link returns, and its scheduling state restarts. -/
  | linkUp (sub : BitVec 3)
  /-- PACKET_RECEIVE (R359): A RoCEv2 packet is received and executed or answered as responder. -/
  | packetReceive (p : NetPacket) (kib recycled : Nat)
  /-- PFC_REPEAT (R400): The pause is repeated every 40 µs above XON_KIB, and quanta 0 is sent at XON_KIB. -/
  | pfcRepeat (sub : BitVec 3) (kib : Nat)
  /-- PUNT_FRAME (R358): A non-RoCEv2 frame is passed to the firmware network service, or dropped above the rate. -/
  | puntFrame (sub : BitVec 3) (frame : List Byte)
  /-- CNP_RECEIVE (R398): A received CNP cuts the queue's congestion rate. -/
  | cnpReceive (qcn : BitVec 16)
  /-- RC_RISE (R398): Each INTERVAL without a cut raises RC by RISE. -/
  | rcRise (sub : BitVec 3) (service : BitVec 2) (subscriber : BitVec 12)
  /-- PFC_RECEIVE (R399): A received PFC frame holds or releases DELIVERY and RECONSTRUCT. -/
  | pfcReceive (sub prio : BitVec 3) (quanta : BitVec 16)
  /-- PAUSE_EXPIRY (R399): The pause quanta run out and the services are released. -/
  | pauseExpiry (sub : BitVec 3)
  /-- RETRY_TIMEOUT (R367): A retransmission timer expires, causing a go-back-N resend or ERR. -/
  | retryTimeout (qcn : BitVec 16)
  /-- INIT (R365): The CMD INIT command moves a QP from RESET to INIT. -/
  | init (w : Writer) (setup : Option QpSetup)
  /-- RTR (R365): The CMD RTR command moves a QP from INIT to RTR. -/
  | rtr (w : Writer)
  /-- RTS (R365): The CMD RTS command moves a QP from RTR to RTS. -/
  | rts (w : Writer)
  /-- ERR (R365): The CMD ERR command moves a QP to ERR. -/
  | err (w : Writer)
  /-- RESET (R365): The CMD RESET command moves a QP from ERR to RESET once FLUSH_DONE is 1. -/
  | reset (w : Writer) (unbind : Bool)
  /-- DELIVER (R377): Sends OFFER for a part from the pack store and waits for a GRANT. -/
  | deliver (c : CoreId) (t : Ticket)
  /-- GRANT (R377): A received GRANT lets the waiting DELIVER write its pieces and seal, or is answered by R379. -/
  | grant (qcn : BitVec 16) (msg : List Byte)
  /-- DECLINE (R377): A received DECLINE completes the waiting DELIVER with DECLINED. -/
  | decline (qcn : BitVec 16) (msg : List Byte)
  /-- SEAL_ACKNOWLEDGED (R377): Once every packet of the part and seal is acknowledged, RELEASE is sent. -/
  | sealAcknowledged (c : CoreId) (t : Ticket)
  /-- RELEASE (R377): The RELEASE is acknowledged and the DELIVER completes. -/
  | release (c : CoreId) (t : Ticket)
  /-- NO_GRANT (R383): DEADLINE passes without a GRANT or DECLINE. -/
  | noGrant (c : CoreId) (t : Ticket)
  /-- RECON_READ (R380): Reads one share from a peer by RDMA READ. -/
  | reconRead (c : CoreId) (t : Ticket)
  /-- REGISTER (R373): Registers or re-registers a region with a new generation. -/
  | register (c : CoreId) (t : Ticket)
  /-- REVOKE (R374): Revokes a region by incrementing its generation at the revoke point. -/
  | revoke (c : CoreId) (t : Ticket)
  /-- REVOKE_TIMEOUT (R374): At RP + REVOKE_TMO, QPs still holding accepted messages enter ERR. -/
  | revokeTimeout (c : CoreId) (t : Ticket)
  /-- PACKET_SCHEDULE (R393): At each packet boundary the sub-port chooses a service and a queue by lowest start tag. -/
  | packetSchedule (sub : BitVec 3)
  /-- WHEEL_RELEASE (R397): A timing-wheel slot ends and releases its held entities. -/
  | wheelRelease
  /-- QUEUE_SAMPLE (R402): Every 1,024 ticks the weir samples every queue and service. -/
  | queueSample
  /-- Q_LATCH (R402): A write to WER_Q_IDX latches a queue's samples for reading. -/
  | qLatch (w : Writer) (value : Word32)
  /-- Q_DEPTH_READ (R402): A read of WER_Q_DEPTH returns and clears MAX. -/
  | qDepthRead
  /-- Q_DELAY_READ (R402): A read of WER_Q_DELAY returns and clears MAX. -/
  | qDelayRead
  /-- PERST (R408): PERST_N assertion resets the link, functions, controllers and command rings. -/
  | perst
  /-- CREATE_IO_SQ (R411): Creates an I/O submission queue and binds a QCN. -/
  | createIoSq (fn : BitVec 6)
  /-- CREATE_IO_CQ (R411): Creates an I/O completion queue and binds a QCN. -/
  | createIoCq (fn : BitVec 6)
  /-- DELETE_IO_SQ (R413): Deletes an I/O submission queue. -/
  | deleteIoSq (fn : BitVec 6)
  /-- DELETE_IO_CQ (R413): Deletes an I/O completion queue. -/
  | deleteIoCq (fn : BitVec 6)
  /-- GET_LOG_PAGE (R413): Returns a supported log page. -/
  | getLogPage (fn : BitVec 6)
  /-- IDENTIFY (R413): Returns Identify data. -/
  | identify (fn : BitVec 6)
  /-- ABORT (R416): Completes with the command not aborted. -/
  | abort (fn : BitVec 6)
  /-- SET_FEATURES (R413): Sets a supported feature. -/
  | setFeatures (fn : BitVec 6)
  /-- GET_FEATURES (R413): Returns a supported feature. -/
  | getFeatures (fn : BitVec 6)
  /-- ASYNCHRONOUS_EVENT_REQUEST (R413): Queues up to 4 event requests. -/
  | asynchronousEventRequest (fn : BitVec 6)
  /-- FIRMWARE_IMAGE_DOWNLOAD (R612): Stages image bytes and checks each completed block's CRC. -/
  | firmwareImageDownload (src : FwSrc) (offset : Nat) (data : List Byte)
  /-- FIRMWARE_COMMIT (R613): Checks the staged image and writes it to the boot flash. -/
  | firmwareCommit (src : FwSrc) (fs ca : BitVec 3)
  /-- IMAGE_WRITE_DONE (R613): The boot-flash write and readback end and the commit completes. -/
  | imageWriteDone (ok loaderOk : Bool)
  /-- CREATE_COMMAND_RING (R420): Admin 0xC1 creates an Avwald command ring. -/
  | createCommandRing
  /-- DELETE_COMMAND_RING (R420): Admin 0xC2 deletes a command ring after withdrawing its grants. -/
  | deleteCommandRing
  /-- NVME_FLUSH (R413): Runs a SYNC of the namespace's space. -/
  | nvmeFlush (fn : BitVec 6)
  /-- NVME_WRITE (R413): Runs a translation WRITE. -/
  | nvmeWrite (fn : BitVec 6)
  /-- NVME_READ (R413): Runs a translation READ. -/
  | nvmeRead (fn : BitVec 6)
  /-- WRITE_ZEROES (R413): Runs a WRITE with ZERO. -/
  | writeZeroes (fn : BitVec 6)
  /-- DATASET_MANAGEMENT (R413): Deallocate ranges become TRIMs. -/
  | datasetManagement (fn : BitVec 6) (runs : List (List (Nat × Nat)))
  /-- CONTROLLER_RESET (R417): CC.EN = 0 or an NVM Subsystem Reset discards a controller's queues. -/
  | controllerReset (fn : Option (BitVec 6))
  /-- APST (R419): Idle timers move a controller between power states. -/
  | apst (fn : BitVec 6)
  /-- POWER_STATE_CHANGE (R419): The module takes the lowest-numbered state held by any controller, within the limits. -/
  | powerStateChange
  /-- HOST_DELIVER (R425): Delivers a cask part into a host-granted buffer. -/
  | hostDeliver (c : CoreId) (t : Ticket) (fails : Bool)
  /-- COPY (R433): The DMA engine copies bytes, possibly swapped, between device and host addresses. -/
  | copy (c : CoreId) (t : Ticket)
  /-- GO (R429): Starts a DIRECT or SHADOW channel transfer. -/
  | go (w : Writer) (n : BitVec 6)
  /-- DMA_BURST (R428): At each burst boundary the arbiter serves a ready channel by priority and age. -/
  | dmaBurst (fails : Bool)
  /-- DMA_TRANSFER_DONE (R430): A transfer ends, sets DONE, fires its vector and loads a valid shadow set. -/
  | dmaTransferDone (n : BitVec 6)
  /-- PAUSE (R431): Setting PAUSE stops new reads, then sets PAUSED once read data is written. -/
  | pause (w : Writer) (n : BitVec 6)
  /-- PAUSE_CLEAR (R431): Clearing PAUSE resumes the transfer from the registers. -/
  | pauseClear (w : Writer) (n : BitVec 6)
  /-- VALID (R430): Setting SH_FLAGS.VALID arms a shadow register set. -/
  | valid (w : Writer) (n : BitVec 6)
  /-- POOL_ENABLE (R436): EN = 1 checks a pool and builds its free list. -/
  | poolEnable (w : Writer) (n : BitVec 3) (value : Word32)
  /-- FREE_LIST_BUILT (R436): The free list is complete and BUILDING clears. -/
  | freeListBuilt (n : BitVec 3)
  /-- POOL_DISABLE (R436): EN = 0 disables a pool with no buffer allocated. -/
  | poolDisable (w : Writer) (n : BitVec 3) (value : Word32)
  /-- ALLOC (R437): Takes buffers from the smallest fitting pool, or completes with EMPTY. -/
  | alloc (c : CoreId) (t : Ticket)
  /-- FREE (R438): Returns buffers to their pool after checking all of them. -/
  | free (c : CoreId) (t : Ticket)
  /-- LEASE_RENEWAL (R452): A module requests lease renewal every LEASE ÷ 4. -/
  | leaseRenewal
  /-- LEASE_GRANT (R453): A received lease grant writes the expiry and unfences. -/
  | leaseGrant (requested granted : Word64) (lease : Nat) (term : Word32)
  /-- FENCE (R453): The GTC reaching the lease expiry sets FENCED. -/
  | fence
  /-- UNFENCE (R453): Clears FENCED when the expiry is above the GTC. -/
  | unfence (w : Writer)
  /-- LEASE_EXPIRY_WRITE (R478): A write of GTC_LEASE_HI sets the expiry and fences at once if it is below the GTC. -/
  | leaseExpiryWrite (w : Writer) (value : Word32)
  /-- WORKER_DEAD (R454): The manager declares a worker dead LEASE + 1 s after its last grant. -/
  | workerDead (worker spare : BitVec 14) (group : BitVec 12) (place : BitVec 6) (lastGrant : Word64)
  /-- MANAGER_TAKEOVER (R456): The standby asks for votes and takes office after the manager's lease lapses. -/
  | managerTakeover (grants : List Word64)
  /-- PTP_EXCHANGE (R458): A PTP exchange measures the offset and adjusts or steps the GTC. -/
  | ptpExchange (offset rate : Int)
  /-- HOLDOVER (R458): With no exchange for 2 s the GTC enters HOLDOVER. -/
  | holdover
  /-- DROP_MAP (R462): The manager ORs the drop bitmaps of a block and returns the map and survivor counts. -/
  | dropMap (epoch block : BitVec 32) (positions : Nat) (maps : List (List Nat))
  /-- BACKUP_START (R466): BACKUP_DELAY after the first offer of a cask, the manager backs up an unoffered part. -/
  | backupStart (group : BitVec 12) (seq : Word64) (place : BitVec 6) (firstOffer : Word64) (delay : Nat) (node : BitVec 14) (recovered : List Nat)
  /-- CHECK_PREPARATION (R468): The spare prepares a chosen part again as a check. -/
  | checkPreparation (seq : Word64) (part : Byte)
  /-- DIGEST_MISMATCH (R469): Differing digests start a third preparation and possibly a MISMATCH message. -/
  | digestMismatch (seq : Word64) (part : Byte) (first second : BitVec 14 × Word64) (third : Option (BitVec 14 × Word64)) (delivered : Word64) (qcn : BitVec 16)
  /-- COLD_START (R489): Power-up brings PA out of reset, runs the ladder and releases CC0. -/
  | coldStart (chans : List (BitVec 2)) (dram : Nat) (eepromOk loaderOk : Bool)
  /-- LADDER_STEP (R500): The next polder powers up once spacing and budget allow. -/
  | ladderStep
  /-- WARM_RESET (R488): KIND 1 resets every polder but PA and ends the safe state. -/
  | warmReset (w : Writer) (value : Word32) (loaderOk : Bool)
  /-- POLDER_RESET (R488): KIND 2 resets one polder's engines and aborts their work. -/
  | polderReset (w : Writer) (value : Word32)
  /-- CORE_RESET (R488): A 0 in POL_CORE_RST resets a core once it is drained. -/
  | coreReset (w : Writer) (c : CoreId)
  /-- CORE_RELEASE (R490): A 1 in POL_CORE_RST releases a core from reset. -/
  | coreRelease (w : Writer) (c : CoreId)
  /-- PAD_RELEASE (R490): RELEASE lets a powered polder drive its pads. -/
  | padRelease (w : Writer) (polders : BitVec 11)
  /-- CLOCK_STOP (R502): STOP stops a polder's clock between descriptors. -/
  | clockStop (w : Writer) (polder : BitVec 4) (stop : Bool)
  /-- CLOCK_SOURCE_SWITCH (R484): SRC switches a polder's clock without a glitch once the PLL locks. -/
  | clockSourceSwitch (w : Writer) (polder : BitVec 4) (pll : Bool)
  /-- OPP_CHANGE (R485): Changes a polder's OPP, ordering voltage and frequency. -/
  | oppChange (w : Writer) (polder : BitVec 4) (opp : BitVec 2)
  /-- POWER_GOVERNOR (R486): Every 100 µs the governor adjusts the effective OPPs against the cap. -/
  | powerGovernor (input nand : BitVec 16)
  /-- CLOCK_STRETCH (R487): A supply droop stretches a polder's clock. -/
  | clockStretch (polder : BitVec 4)
  /-- MS3_ENTRY (R491): The data-path polders' clocks stop. -/
  | ms3Entry
  /-- MS3_EXIT (R491): The data-path polders' clocks restart. -/
  | ms3Exit
  /-- MS4_ENTRY (R493): The module saves state, latches pads and gates polders, or refuses. -/
  | ms4Entry
  /-- MS4_EXIT (R494): A wake event powers the polders, restores the save list and resumes firmware. -/
  | ms4Exit (eccError loaderOk : Bool)
  /-- SIDEBAND_MATCH (R498): A clockless sideband address match wakes the module. -/
  | sidebandMatch (addr : BitVec 7)
  /-- PCIE_WAKE (R499): A doorbell or access that waits on a clamped sluice wakes the module. -/
  | pcieWake
  /-- GTC_WAKE (R499): The GTC reaching POL_WAKE_AT wakes the module. -/
  | gtcWake
  /-- INPUT_START (R505): An input of 46 V for 100 ms closes the switch and starts a cold start. -/
  | inputStart
  /-- DIP (R517): A dip under 20 µs is ridden through on the bank. -/
  | dip
  /-- POWER_FAIL_TRIGGER (R518): The input low for 20 µs starts the hold-up flush. -/
  | powerFailTrigger
  /-- OVERVOLTAGE (R505): Above 61 V the input switch opens and the flush starts. -/
  | overvoltage
  /-- OVERCURRENT (R505): Above 7.5 A the input switch opens and the flush starts. -/
  | overcurrent
  /-- FLUSH_END (R518): Once every array operation has ended, WP_N is asserted and the rails fall. -/
  | flushEnd
  /-- POST_FLUSH_RESTART (R521): After a flush the module cold-starts on a good input, or discharges the bank and stays off. -/
  | postFlushRestart (recovered : Bool)
  /-- BANK_SAMPLE (R513): Every 100 µs the bank voltage is measured and HU_LIMIT recomputed. -/
  | bankSample (vbank vin iin : BitVec 16)
  /-- CAPACITOR_TEST (R524): A due or requested test lowers HU_LIMIT to begin. -/
  | capacitorTest
  /-- TEST_LOAD_CONNECT (R524): The test load connects once DIRTY is at most HU_LIMIT, or the test is postponed. -/
  | testLoadConnect (drop : BitVec 16)
  /-- TEST_LOAD_DISCONNECT (R524): At 56.0 V the load is disconnected and C_MEAS computed. -/
  | testLoadDisconnect
  /-- TEST_END (R525): The recharged bank ends the test and the result is judged. -/
  | testEnd
  /-- CAPACITOR_TEST_REQUEST (R523): REQUEST asks for a capacitor test, or sets REFUSED. -/
  | capacitorTestRequest (w : Writer)
  /-- CONTROLLED_POWER_OFF (R526): OFF with CONFIRM runs the flush from the input and enters OFF. -/
  | controlledPowerOff (w : Writer) (value : Word32)
  /-- EJECTOR_OPEN (R549): Opening the ejector lever starts a controlled power-off. -/
  | ejectorOpen
  /-- NAND_RAIL_TRIP (R509): A current-limited NAND rail below 92 % for 10 µs is a doubt. -/
  | nandRailTrip
  /-- THERMAL_THROTTLE (R548): At 100 °C the governor raises the OPPs step by step. -/
  | thermalThrottle (temp : Int)
  /-- THERMAL_POWER_OFF (R548): At 115 °C a controlled power-off starts. -/
  | thermalPowerOff (temp : Int)
  /-- RESTART_WRITE (R528): A write of MGT_RESTARTn_HI copies the three restart words together. -/
  | restartWrite (w : Writer) (n : BitVec 3) (value : Word32)
  /-- GTC_NOW_READ (R476): A read of GTC_NOW_LO latches the high word. -/
  | gtcNowRead (high : Bool)
  /-- SRAM_UE (R551): An uncorrectable error in a control SRAM raises a doubt. -/
  | sramUe (polder : BitVec 4) (detail : BitVec 20) (address : Word32)
  /-- DRAM_UE (R551): An uncorrectable error in a control structure in DRAM raises a doubt. -/
  | dramUe (polder : BitVec 4) (detail : BitVec 20) (address : Word32)
  /-- CLOCK (R551): A clock monitor trip raises a doubt. -/
  | clock (polder : BitVec 4)
  /-- VOLTAGE (R551): A voltage monitor trip raises a doubt. -/
  | voltage (polder : BitVec 4)
  /-- WATCHDOG (R551): An enabled core watchdog expires and raises a doubt. -/
  | watchdog (c : CoreId)
  /-- HSM_ABORT (R558): A double flip aborts a protected state machine and raises a doubt. -/
  | hsmAbort (polder : BitVec 4) (machine : BitVec 20) (work : Option (CoreId × Ticket))
  /-- SELF_CHECK (R551): A sequencer self-check failure raises a doubt. -/
  | selfCheck (polder : BitVec 4) (detail : BitVec 20)
  /-- FORCE (R573): A FORCE write from the host or sideband raises source 8. -/
  | force (w : Writer) (value : Word32)
  /-- SINGLE_FLIP (R558): A single flip in a protected state is corrected and counted. -/
  | singleFlip
  /-- KICK (R573): Restarts core watchdogs. -/
  | kick (w : Writer) (cores : BitVec 16)
  /-- CLEAR (R560): Clears every counter of the selected units. -/
  | clear (w : Writer) (units : BitVec 24)
  /-- LATCH (R561): Copies a unit's counters into its snapshot. -/
  | latch (w : Writer) (unit : BitVec 5)
  /-- SELF_TEST_REQUEST (R565): Queues a self-test of a unit, or refuses it. -/
  | selfTestRequest (w : Writer) (cls : BitVec 4) (unit : BitVec 9)
  /-- RETIRE (R565): Takes a unit out of rotation without a test. -/
  | retire (w : Writer) (cls : BitVec 4) (unit : BitVec 9)
  /-- SELF_TEST (R564): A queued test runs once its unit leaves rotation, and the unit passes or fails. -/
  | selfTest (passes : Bool)
  /-- REPLAY_REQUEST (R570): Runs a replay of a recorded part and writes the result. -/
  | replayRequest (ev : ReplayEvent)
  /-- DAP_READ (R576): A DAP read request over the debug port. -/
  | dapRead (space : BitVec 2) (addr : BitVec 48)
  /-- DAP_WRITE (R576): A DAP write request over the debug port. -/
  | dapWrite (space : BitVec 2) (addr : BitVec 48) (data : Word64)
  /-- IDCODE (R575): Selects the IDCODE data register. -/
  | idcode
  /-- BYPASS (R575): Selects the 1-bit bypass register. -/
  | bypass (ir : BitVec 5)
  /-- TRACE_SYNC (R584): A SYNC record is written at every multiple of 2^20 of the GTC. -/
  | traceSync
  /-- ARM (R586): Arms the trace trigger and clears FROZEN with a GAP. -/
  | arm (w : Writer)
  /-- FIRE (R586): Trigger source 0. -/
  | fire (w : Writer)
  /-- FROZEN (R586): After the post-trigger count the buffer freezes. -/
  | frozen
  /-- MARK (R580): A write to DBG_MARK emits a MARK record. -/
  | mark (w : Writer) (value : Word32)
  /-- TRACE_PORT_SEND (R590): The port sends the next unsent record, a GAP or IDLE. -/
  | tracePortSend
  /-- ATTEST (R609): Signs an attestation report, subject to the token bucket. -/
  | attest (w : Writer)
  /-- READ_CERT (R608): Returns device-certificate bytes. -/
  | readCert (w : Writer)
  /-- DBG_CHALLENGE (R618): Returns a debug-unlock challenge. -/
  | dbgChallenge (w : Writer)
  /-- DBG_UNLOCK (R618): Checks a debug token and unlocks the port. -/
  | dbgUnlock (w : Writer)
  /-- TOKEN_REFILL (R607): Each second of GTC adds one token to the signing bucket. -/
  | tokenRefill
  /-- SVN_COMMIT (R614): COMMIT programs the OTP SVN bits up to the running image's SVN. -/
  | svnCommit (w : Writer)
  /-- ACTIVATION_ARM (R615): A write of SEC_ACT_AT_HI arms an activation, or is refused with LATE. -/
  | activationArm (w : Writer) (value : Word32)
  /-- DISARM (R620): Disarms an armed activation. -/
  | disarm (w : Writer)
  /-- ACTIVATION (R615): At the activation value the module fences and warm-resets into the new image. -/
  | activation (loaderOk : Bool)
  /-- REGISTER_WRITE (R13): A write to a register with no behaviour of its own sets its fields by their access codes. -/
  | registerWrite (w : Writer) (off : BitVec 27) (value : Word32)
  /-- POWER_ON_COMMAND (R526): A sideband power-on command after an address match takes the module out of OFF through a cold start. -/
  | powerOnCommand
  /-- PLL_LOCK (R484): A PLL locks within 50 µs of being enabled, and a source switch that waited for it then takes place. -/
  | pllLock (polder : BitVec 4)
  /-- MANAGEMENT_MAILBOX_READ (R67): A read of the management mailbox clears interrupt 3 of the core. -/
  | managementMailboxRead (c : CoreId)
  /-- INPUT_HIGH (R505): An input above 58.0 V and up to 61.0 V sets MGT_HEALTH.INPUT_HIGH while the module runs on. -/
  | inputHigh
  /-- NAND_OVERLOAD (R509): A NAND rail loaded between 100 % and 110 % of its rating keeps regulating and sets NAND_OVERLOAD. -/
  | nandOverload
  /-- PCIE_LINK_TRAINED (R406): After PERST_N is released the PCIe link trains to a speed and width, and HST_LINK reports it up. -/
  | pcieLinkTrained (speed : BitVec 3) (width : BitVec 5) (flit : Bool) (vfs : BitVec 6) (payload : BitVec 2)
  /-- NVME_DOORBELL (R409): A host write to a BAR0 NVMe SQ tail or CQ head doorbell makes the controller fetch commands or free completion entries. -/
  | nvmeDoorbell (fn : BitVec 6) (qid : BitVec 16) (completion : Bool) (value : Word32) (stores : List (Nat × List Byte))
  /-- CONTROLLER_ENABLE (R411): A host write of CC.EN = 1 enables an NVMe controller and its admin queue. -/
  | controllerEnable (fn : BitVec 6) (asq acq : Nat) (sqSize cqSize : BitVec 12) (mps : BitVec 4) (wrr : Bool)
  /-- GENERATION_HOLD_END (R373): A REGISTER waiting because its new generation value was in use less than 1 s ago proceeds once that second of GTC time has passed. -/
  | generationHoldEnd (c : CoreId) (t : Ticket)
deriving DecidableEq, Repr

end Sys2Proof
end

