-- ==== Sys2Proof/Machine/FlashTypes.lean ====
section
/-!
DEFINITION. The NAND media and the flash channels (R285 to R318), and the tables, journal, streams and reclamation of the
translation engine (R319 to R354).
-/

namespace Sys2Proof.Machine

/-! ## Media -/

/-- A codeword as programmed (R292, R293): 4,096 data bytes and 16 out-of-band bytes. `sum` is the XOR of the members'
out-of-band areas that a parity codeword carries (R296); empty in every other codeword. -/
structure Codeword where
  data : List Byte
  oob : List Byte
  sum : List Byte
deriving DecidableEq, Repr

/-- What the cells of a codeword show now: the steps of R300 that decode it and the corrected bits of the hard read. The step
at which a decode passes but CHECK fails is a miscorrection (R295). -/
structure Health where
  bits : Option Nat
  retry : Option Nat
  soft : Bool
  miscorrects : List Nat
deriving DecidableEq, Repr

def Health.good : Health := ⟨some 0, none, true, []⟩

/-- A die's state in `FLS_DIE_INFO` (R317). -/
inductive DieState where
  | absent | inUse | excluded | dead | rebuilding
deriving DecidableEq, Repr

/-- A die (R285 to R290, R304, R305, R308). -/
structure Die where
  state : DieState
  ident : DieIdent
  /-- Retired blocks and when each was retired. -/
  retired : List (Nat × Word64)
  /-- Operations in a row that ran past three times their maximum time. -/
  stuck : Nat
  /-- A program or erase that runs and how often it was suspended (R304). -/
  busy : Bool
  suspends : Nat
deriving DecidableEq, Repr

/-- Why a channel is taken out of service (R311). -/
inductive ServiceKind where
  | calibration | retraining | selfTest
deriving DecidableEq, Repr

/-- The flash channels and the media. -/
structure Flash where
  dies : Table Die
  failed : List Nat
  nand : Table Codeword
  health : Table Health
  /-- The retry entry that last succeeded, and reads served since the last erase, by block. -/
  lastRetry : Table Nat
  reads : Table Nat
  /-- Last calibration of each channel: when, and at what temperature. -/
  calAt : Table (Word64 × Int)
  /-- The die next in rotation on each channel (R297). -/
  rotation : Table Nat
  /-- Dies whose rebuild waits or runs, oldest first (R306). -/
  rebuilds : List Nat
  /-- The patrol cursor: next superblock, and when the pass began (R309, R310). -/
  patrolAt : Nat
  passStart : Word64
  patrolFirst : List Nat
deriving DecidableEq, Repr

def Flash.reset : Flash :=
  { dies := [], failed := [], nand := [], health := [], lastRetry := [], reads := [], calAt := [], rotation := [], rebuilds := []
    patrolAt := 0, passStart := 0, patrolFirst := [] }

/-! ## Translation -/

/-- Whom a command of the translation engine answers: a descriptor, an NVMe command, or a command-ring command. -/
inductive Asker where
  | desc (core : CoreId) (ticket : Ticket)
  | nvme (fn sqid cid : Nat)
  | ring (ref : CmdRef)
deriving DecidableEq, Repr

/-- A translation space (R319, R320, R337). -/
structure Space where
  typ : Nat
  units : Nat
  createdSeq : Nat
  mapBase : Nat
  /-- Deleted, its background walk not ended. -/
  walking : Bool
  /-- Functions the namespace is attached to, and those attached read-only (R412, R422). -/
  attach : BitVec 64
  readOnly : BitVec 64
deriving DecidableEq, Repr

/-- The three write streams (R330). -/
inductive WriteStream where
  | userData | reclaim | metadata
deriving DecidableEq, Repr

/-- A superblock (R296, R301): its members in channel order, holes left out. -/
structure Superblock where
  members : List (Nat × Nat)
  stream : WriteStream
  firstSeq : Nat
  closed : Bool
  /-- Handed over by a rebuild (R306), or to be refreshed (R309, R333). -/
  handed : Bool
  refresh : Bool
deriving DecidableEq, Repr

/-- A journal record (R327). -/
structure JRecord where
  typ : Nat
  space : Nat
  count : Nat
  a : Nat
  b : Nat
  c : Nat
deriving DecidableEq, Repr

/-- A unit on its way to the medium; `source` is the victim location of a move (R342). `placed` is its location once it has a
place in the round, and `reported` says its page and parity are programmed. -/
structure WriteUnit where
  space : Nat
  lua : Nat
  data : List Byte
  source : Option Nat
  writer : Option Nat
  placed : Option Nat
  reported : Bool
deriving DecidableEq, Repr

/-- An open stream: its superblock, the round being filled or programmed, and what waits behind it (R298, R332). -/
structure OpenStream where
  sb : Option Nat
  round : Nat
  units : List WriteUnit
  /-- Position of the next unit in the round. -/
  fill : Nat
  programming : Bool
  done : List Nat
  seqBase : Nat
  queue : List WriteUnit
  oldest : Word64
deriving DecidableEq, Repr

def OpenStream.none : OpenStream :=
  { sb := Option.none, round := 0, units := [], fill := 0, programming := false, done := [], seqBase := 0, queue := [], oldest := 0 }

/-- A WRITE whose units are not all on record yet (R331). -/
structure UnitWriter where
  id : Nat
  asker : Asker
  left : Nat
  fabric : Bool
deriving DecidableEq, Repr

/-- A SYNC that waits for its records to be durable: the space (0: all) and the count of records appended before it. -/
structure SyncWait where
  asker : Asker
  space : Nat
  upto : Nat
deriving DecidableEq, Repr

/-- A reclamation in progress (R338 to R342). -/
structure GcRun where
  victim : Nat
  foreground : Bool
  /-- Locations of the victim not yet looked at, in PUA order. -/
  left : List Nat
  quota : Nat
  /-- Members whose erase has not ended; `none` before step 5. -/
  erasing : Option (List Nat)
deriving DecidableEq, Repr

/-- The checkpoint that the anchor names (R329). -/
structure Anchor where
  start : Nat
  directory : Table Nat
  superblocks : Table Superblock
  spaces : Table Space
  maxSeq : Nat
  userUnits : Nat
deriving DecidableEq, Repr

/-- The cursor unit of a hold-up flush (R347 step 4, R519). -/
structure Cursor where
  maxSeq : Nat
  gcVictim : Option Nat
  patrolAt : Nat
  bytes : List Byte
deriving DecidableEq, Repr

/-- The translation engine. -/
structure Ftl where
  spaces : Table Space
  /-- The map of R322 by space × 2^40 + LUA, and the map directory of R323 by map page number. -/
  map : Table Nat
  directory : Table Nat
  /-- Cached map pages by number; true: it carries changes not written back (R324). -/
  cached : Table Bool
  superblocks : Table Superblock
  nextSb : Nat
  nextSeq : Nat
  nextMapPage : Nat
  user : OpenStream
  gcStream : OpenStream
  /-- The META superblock in use, its next stripe, and the one opened to follow it. -/
  metaSb : Option Nat
  metaStripe : Nat
  metaNext : Option Nat
  /-- The armed flush superblocks, and the next stripe of each (R516). -/
  armed : List (Nat × Nat)
  /-- Records appended and not durable, oldest first; how many were ever appended; when the first of them was. -/
  journal : List JRecord
  appended : Nat
  journalSince : Word64
  /-- Appends that wait for DIRTY to fall (R328): the record and the writer it completes. -/
  waiting : List (JRecord × Option Nat)
  jseq : Nat
  start : Nat
  flashed : Nat
  writers : List UnitWriter
  nextWriter : Nat
  syncs : List SyncWait
  /-- Superblocks whose SB_CLOSE waits, and SB_FREE records not durable, each with a record count; the flag marks V = 0. -/
  closing : List (Nat × Nat)
  freeing : List (Nat × Nat × Bool)
  /-- Record counts at which a superblock's SB_OPEN and SB_MEMBER records are durable (R330). -/
  opening : Table Nat
  gc : Option GcRun
  /-- Units that wait for admission, in arrival order (R340, R341). -/
  entry : List WriteUnit
  /-- Credits in 16.16 fixed point (R340). -/
  credits : Nat
  lastWork : Word64
  anchor : Option Anchor
  cursor : Option Cursor
deriving DecidableEq, Repr

def Ftl.reset : Ftl :=
  { spaces := [], map := [], directory := [], cached := [], superblocks := [], nextSb := 0, nextSeq := 1, nextMapPage := 0
    user := .none, gcStream := .none, metaSb := none, metaStripe := 0, metaNext := none, armed := []
    journal := [], appended := 0, journalSince := 0, waiting := [], jseq := 0, start := 0, flashed := 0
    writers := [], nextWriter := 0, syncs := [], closing := [], freeing := [], opening := [], gc := none, entry := [], credits := 0
    lastWork := 0, anchor := none, cursor := none }

end Sys2Proof.Machine
end

