-- ==== Sys2Proof/Machine/UnitTypes.lean ====
section
/-!
DEFINITION. What the mash, the lauter, the token unit and the cask packer hold.
-/

namespace Sys2Proof.Machine

/-- A scoring model in a slot (R228 to R230): the recipe that loaded it, its image and its tiles. -/
structure MashModel where
  owner : Option Nat
  image : List Byte
  tiles : List Nat
deriving DecidableEq, Repr

/-- The mash: resident models and the tiles out of rotation until they pass a self-test (R243). -/
structure MashUnit where
  models : Table MashModel
  failed : List Nat
deriving DecidableEq, Repr

/-- A MinHash set in a slot (R235, R237). -/
structure MinSet where
  owner : Option Nat
  image : List Byte
deriving DecidableEq, Repr

/-- A resident vocabulary (R248 to R250): strings by token ID, and the banned and forced sequences. -/
structure Vocab where
  maxLen : Nat
  fallback : Nat
  mask : Nat
  pad : Nat
  strings : List (List Byte)
  banned : List (List Nat)
  forced : List (List Nat)
deriving DecidableEq, Repr

/-- What a context area carries from one piece of a text to the next (R258), in the model's own form: the input so far and the
content tokens written. -/
structure TokContext where
  input : List Byte
  done : Nat
deriving DecidableEq, Repr

/-- What a replay record's member extension holds (R568). -/
structure MemberExt where
  crc : Nat
  codec : Nat
  attempt : Nat
  millClass : Nat
  mill : Nat
  lanes : Nat
  kiln : Nat
  token : Nat
  tile : Nat
  gtc : Nat
deriving DecidableEq, Repr

/-- A segment in the pack store (R261, R266). -/
structure Segment where
  tokens : List Nat
  status : Nat
  flags : Nat
  gsid : Nat
  dmg : Nat
  skip : Bool
  pad : Nat
  vocabTokens : Nat
  ext : MemberExt
  base : Nat
  size : Nat
deriving DecidableEq, Repr

/-- A member of a part or row set (R277). -/
structure Member where
  gsid : Nat
  status : Nat
  flags : Nat
  pos : Nat
  segment : Nat
  place : Nat
  offset : Nat
  length : Nat
  dmg : Nat
  ext : MemberExt
  /-- The order of placement. -/
  order : Nat
deriving DecidableEq, Repr

/-- An open row (R274, R275). -/
structure OpenRow where
  tokens : List Nat
  segIds : List Nat
  places : List Nat
  members : List Member
  segments : Nat
  pad : Nat
  /-- The lowest position in a row open when this one opened (R567). -/
  startPos : Nat
  base : Nat
  /-- Its stride, and S. -/
  size : Nat
  width : Nat
deriving DecidableEq, Repr

/-- What the packer keeps for a stream (R273, R274). -/
structure PackStream where
  owner : Nat
  segs : Table Segment
  packed : List Nat
  rows : List OpenRow
  nextSeq : Nat
  dropped : List Member
  placed : Nat
deriving DecidableEq, Repr

/-- A closed part or row set (R276): its manifest, the bytes of each piece by place, and the place of it in the store. -/
structure PackPart where
  owner : Option Nat
  kind : Nat
  seq : Nat
  manifest : List Byte
  pieces : List (Nat × List Byte)
  /-- Taken by a DELIVER (R383). -/
  out : Bool
  base : Nat
  size : Nat
deriving DecidableEq, Repr

/-- The pack store (R266, R267): streams by number, parts, and the descriptors that wait for space. -/
structure PackStore where
  streams : Table PackStream
  parts : List PackPart
  waiting : List (Nat × Nat)
deriving DecidableEq, Repr

end Sys2Proof.Machine
end

