-- ==== Sys2Proof/Machine/HostTypes.lean ====
section
/-!
DEFINITION. The host side: NVMe controllers and queues (R409 to R419), command rings (R420 to R422), cask-buffer grants (R424)
and what the host was told. Host memory stands behind the link; the host's stores to it arrive with its doorbells.
-/

namespace Sys2Proof.Machine

/-- A completion entry held while its queue is full (R421): result, status and CID. -/
structure HeldEntry where
  result : Nat
  status : Nat
  cid : Nat
deriving DecidableEq, Repr

/-- A command ring (R420). -/
structure CmdRing where
  qcn : Nat
  sqBase : Nat
  cqBase : Nat
  entries : Nat
  vector : Nat
  sqHead : Nat
  sqTail : Nat
  cqHead : Nat
  cqTail : Nat
  phase : Bool
  held : List HeldEntry
  /-- CIDs of commands taken and not yet completed. -/
  outstanding : List Nat
  /-- The CID of the Delete Command Ring that waits, once one was accepted. -/
  deleting : Option Nat
deriving DecidableEq, Repr

/-- An NVMe submission queue; qid 0 is the admin queue (R411, R415). -/
structure NvmeSq where
  fn : Nat
  qid : Nat
  qcn : Nat
  base : Nat
  entries : Nat
  head : Nat
  tail : Nat
  cqid : Nat
  prio : BitVec 2
deriving DecidableEq, Repr

/-- An NVMe completion queue (R411). -/
structure NvmeCq where
  fn : Nat
  qid : Nat
  qcn : Nat
  base : Nat
  entries : Nat
  head : Nat
  tail : Nat
  phase : Bool
  vector : Nat
  irq : Bool
  /-- Completions held while the queue is full: DW0, SQ head, SQ identifier, CID and the status field. -/
  held : List (Nat × Nat × Nat × Nat × Nat)
deriving DecidableEq, Repr

/-- An event that an Asynchronous Event Request reports: type, information and log page. -/
structure NvmeEvent where
  kind : Nat
  info : Nat
  page : Nat
deriving DecidableEq, Repr

/-- The arbitration of R415: the queue last served, the commands left of its turn, and what each of the high, medium and low
classes has left of its weight. -/
structure ArbState where
  last : Nat
  burst : Nat
  credits : List Nat
deriving DecidableEq, Repr

/-- An enabled NVMe controller (R411 to R419). -/
structure Controller where
  fn : Nat
  /-- Memory page size as a power of two (CC.MPS). -/
  pageLog : Nat
  /-- Weighted round robin with urgent class was selected (CC.AMS). -/
  wrr : Bool
  cfs : Bool
  /-- Feature values by FID, as Set Features left them (R413). -/
  features : Table (BitVec 32)
  /-- The APST table of Feature 0x0C: 32 entries of 8 bytes. -/
  apst : List Word64
  /-- CIDs of outstanding Asynchronous Event Requests, oldest first, and events that wait for one. -/
  aers : List Nat
  events : List NvmeEvent
  arb : ArbState
  /-- The power state the controller holds (R419), and when its queues last had work. -/
  ps : Nat
  /-- The operational state Feature 0x02 last set. -/
  opState : Option Nat
  idleSince : Word64
  /-- Error-log entries, newest first (LID 0x01). -/
  errors : List (Nat × Nat × Nat × Nat)
deriving DecidableEq, Repr

/-- A grant that CASK_GRANT queued (R424). -/
structure CaskGrant where
  ref : CmdRef
  generation : BitVec 32
  addr : Nat
  length : Nat
  manLen : Nat
  manAddr : Nat
deriving DecidableEq, Repr

/-- A HOST_DELIVER in work (R425): its part, the grant it has taken, and the payload bytes written. -/
structure HostDelivery where
  core : Nat
  ticket : Nat
  entry : PackPart
  grant : Option CaskGrant
  bytes : Nat
deriving DecidableEq, Repr

/-- A DMA transfer that runs (R427 to R431). SRC, DST and COUNT are the channel's registers. -/
structure DmaRun where
  swap : Nat
  srcHost : Bool
  dstHost : Bool
  fn : Nat
  prio : Nat
  /-- The COPY of a RING channel: core and ticket. -/
  owner : Option (Nat × Nat)
  /-- Bursts it was passed over in a row while ready (R428). -/
  skipped : Nat
  /-- The link was reset while it was paused (R440). -/
  lost : Bool
deriving DecidableEq, Repr

/-- A reply to a command of the manager (R116). -/
structure Reply where
  cid : Nat
  result : Nat
  status : Nat
  data : List Byte
deriving DecidableEq, Repr

/-- The host side of the module. -/
structure HostSide where
  /-- Host memory by bus address. -/
  mem : Mem
  /-- Virtual functions the host enabled, whether it set Relaxed Ordering Enable, and its Max Payload Size (R406, R409). -/
  vfs : Nat
  maxPayload : Nat
  controllers : List Controller
  sqs : List NvmeSq
  cqs : List NvmeCq
  /-- Command rings by index, 0 to 15. -/
  cmdRings : Table CmdRing
  /-- Waiting grants by subscriber, oldest first. -/
  grants : Table (List CaskGrant)
  replies : List Reply
  deliveries : List HostDelivery
  /-- DMA channels with a transfer, and the channel served last. -/
  dma : Table DmaRun
  dmaLast : Nat
  /-- The first free buffer of each enabled pool; 0: none (R436). -/
  poolHeads : Table Nat
  /-- `HST_FN_CFG` by function, and the turn of R415 between controllers. -/
  fnCfg : Table (BitVec 32)
  fnLast : Nat
  fnLeft : Nat
  /-- Words that reads from outside the cores returned, oldest first. -/
  reads : List Word32
deriving DecidableEq, Repr

def HostSide.reset : HostSide :=
  { mem := [], vfs := 0, maxPayload := 512, controllers := [], sqs := [], cqs := [], cmdRings := [], grants := [],
    replies := [], deliveries := [], dma := [], dmaLast := 63,
    poolHeads := [], fnCfg := [], fnLast := 63, fnLeft := 0, reads := [] }

end Sys2Proof.Machine
end

