-- ==== Sys2Proof/Config.lean ====
section
/-!
DEFINITION. What an implementation fixes (the three variants of R6 and R83) and the values the manual leaves open, each an
opaque constant: nothing can evaluate one, so a claim holds whatever its value.
-/

namespace Sys2Proof

/-- The three variants of the family (R6). -/
inductive Variant where
  | full      -- IA-SN1F
  | standard  -- IA-SN1S
  | lean      -- IA-SN1L
deriving DecidableEq, Repr

/-- What the headers of a stream say, read by the standard of its codec (R162 to R167). -/
structure Headers where
  /-- The dimensions are known; otherwise the offset of the malformed element. -/
  known : Bool
  syntaxAt : Nat
  /-- Offset of a refused feature. -/
  unsupported : Option Nat
  /-- Offset of the header that declares the size. -/
  sizeAt : Nat
  /-- Image grid: left, top, right and bottom edges. -/
  left : Nat
  top : Nat
  right : Nat
  bottom : Nat
  /-- Depth, colour components and alpha of the decoded pixels, before R159 converts them. -/
  bits : Nat
  comps : Nat
  alpha : Bool
  /-- Precision and components of the source as stored. -/
  srcBits : Nat
  srcComps : Nat
  whiteIsZero : Bool
  levels : Nat
  orient : Nat
  animIgnored : Bool
  extraIfd : Bool
  /-- Audio: channels, rate, declared samples per channel. -/
  channels : Nat
  rate : Nat
  samples : Option Nat
deriving DecidableEq, Repr, Inhabited

/-- What a decode of a stream yields (R163 to R174), by the standard of its codec and the codec table revision. -/
structure Decoded where
  /-- Source values: pixels in raster order with components interleaved, or samples with channels interleaved. `floats` marks
  binary32 patterns. -/
  values : List Int
  floats : Bool
  /-- The first damage: kind and offset. -/
  damage : Option (Nat × Nat)
  /-- The first concealed unit, and how many there are. -/
  unit : Nat
  units : Nat
  /-- Pixels or samples per channel that are concealed. -/
  lost : List Nat
  /-- Samples beyond the declared count were discarded (R170). -/
  excess : Bool
deriving DecidableEq, Repr, Inhabited

/-- A component of a JPEG picture: sampling factors, blocks across, quantisation table and the blocks' quantised coefficients, both
in zigzag order. -/
structure JpegPart where
  h : Nat
  v : Nat
  wide : Nat
  quant : List Nat
  blocks : List (List Int)
deriving DecidableEq, Repr

/-- A JPEG picture as its entropy-coded data give it, under a codec table revision. -/
structure JpegPicture where
  revision : Nat
  width : Nat
  height : Nat
  rgb : Bool
  parts : List JpegPart
deriving DecidableEq, Repr

/-- What a compression or expansion of one piece depends on (R185, R188). -/
structure StreamJob where
  /-- The codec table revision. -/
  revision : Nat
  format : Nat
  level : Nat
  checksum : Bool
  flush : Bool
  last : Bool
  /-- A one-shot job handles a whole stream. -/
  oneShot : Bool
  /-- The context restored. -/
  context : Option (List Byte)
  dict : List Byte
  input : List Byte
deriving DecidableEq, Repr

/-- What an expansion yields (R182, R183, R193, R196), by the standard of the format. -/
structure Expanded where
  /-- The output of every block that decoded and checked before the first damage. -/
  blocks : List (List Byte)
  /-- Bytes decoded before the first damage, the damaged block's included. -/
  reached : Nat
  /-- The sum of the frames' content sizes where every frame declares one. -/
  declared : Option Nat
  /-- The first damage: kind and offset. -/
  damage : Option (Nat × Nat)
  consumed : Nat
  check : Nat
deriving DecidableEq, Repr, Inhabited

/-- The functions of the mash microcode (R212, R229). -/
inductive MashFn where
  | sinDegrees | cosDegrees | log10 | ln | exp | sqrt | pow10 | phi
deriving DecidableEq, Repr

/-- What a compression yields (R184 to R190). -/
structure Compressed where
  output : List Byte
  consumed : Nat
  check : Nat
deriving DecidableEq, Repr, Inhabited

namespace Config

/-- Units of each engine class on a variant (R6, R83); a class with 0 units, and every class from 0xD, is absent. -/
def unitCount : Variant → Nat → Nat
  | .full, c => [32, 1, 16, 32, 8, 8, 1, 256, 16, 1, 4, 64, 8].getD c 0
  | .standard, c => [32, 1, 12, 24, 0, 4, 1, 192, 16, 1, 2, 64, 8].getD c 0
  | .lean, c => [16, 1, 8, 16, 0, 0, 1, 128, 16, 1, 0, 64, 8].getD c 0

/-- A class of a variant is absent (R83). -/
def absent (v : Variant) (cls : Nat) : Bool := unitCount v cls == 0

/-- The rank of a class in the stage order (R83); `none` for the buffer pools. -/
def classRank : Nat → Option Nat
  | 0 => some 0 | 1 => some 0 | 2 => some 1 | 3 => some 2 | 4 => some 2 | 5 => some 2 | 6 => some 3
  | 7 => some 4 | 8 => some 5 | 9 => some 6 | 10 => some 7 | 11 => some 7 | _ => none

/-- DDR5 channels of a variant (R6). -/
def ddrChannels : Variant → Nat
  | .full => 12
  | .standard => 8
  | .lean => 8

/-- HW_TYPE of a variant (R601). -/
def hwType : Variant → Nat
  | .full => 0x0101
  | .standard => 0x0102
  | .lean => 0x0103

/-- NAND channels of a variant (R6). -/
def nandChannels (v : Variant) : Nat := unitCount v 0
/-- Ethernet ports of a variant (R6). -/
def ethPorts (v : Variant) : Nat := unitCount v 10

/-- Whether a binary floating-point result is judged tiny after rounding (true) or before it (false); R57 and R210 name
IEEE 754, which leaves it to the implementation. -/
opaque tininessAfterRounding : Bool
/-- Core clock cycles that pass while one instruction executes, by core and by instructions retired so far (R66 CYCLE
depends on timing, R82). -/
opaque cyclesSpent : Nat → Nat → Nat
/-- The contents of the ROM (R621), which the manual does not give. -/
opaque rom : Nat → Byte
/-- Whether 0 × ∞ + a quiet NaN raises invalid; R57 names IEEE 754, which leaves it to the implementation. -/
opaque fmaInvalidOnQuietNan : Bool
/-- The LDPC parity bytes of a codeword's data and out-of-band bytes (R292), as a number. -/
opaque ldpcParity : Nat → Nat
/-- The headers of a stream in a form of its codec that the manual does not name: a WAV file of another format than PCM and
binary32. -/
opaque headers : Nat → List Byte → Headers
/-- The decode of a stream by codec, under a codec table revision, with resolution levels discarded and the declared samples per
channel: JPEG 2000, Layer III, Opus, and the WAV files of `headers`. -/
opaque decode : Nat → Nat → Nat → Nat → List Byte → Decoded
/-- The 8-bit components of a JPEG picture, pixel by pixel: inverse DCT, chroma upsampling and colour conversion of its codec table
revision (R159). -/
opaque jpegPixels : JpegPicture → List Int
/-- SRC_BITS of the codecs that have no sample precision of their own, Layer III and Opus (R177). -/
opaque lossyPrecision : Nat → Nat
/-- CONCEALED_UNITS of a whole-sample fill of an image (R172, R176), by codec, width and height. -/
opaque wholeUnits : Nat → Nat → Nat → Nat
/-- A sample of a bit depth that R159 does not name, at another depth. -/
opaque rescale : Nat → Nat → Nat → Nat
/-- The expansion of a piece of a streamed job, whose context has no stated layout (R188). -/
opaque expand : StreamJob → Expanded
/-- The offset of the input byte that produces an output byte of such a piece. -/
opaque inputAt : StreamJob → Nat → Nat
/-- The compression of a stream or a piece of one. -/
opaque compress : StreamJob → Compressed
/-- The pending input bytes a context area holds; `none` where its header check or codec table revision does not match (R188). -/
opaque contextHeld : Nat → List Byte → Option Nat
/-- The context area after a job that ended with a status (R188). -/
opaque contextAfter : StreamJob → Nat → List Byte
/-- A function of one binary32 value, under a mash microcode revision (R212). -/
opaque mashFn : Nat → MashFn → Nat → Nat
/-- cos(2πk ÷ n), under a microcode revision, as a binary32 value. -/
opaque cosTurn : Nat → Nat → Nat → Nat
/-- The power spectrum of a frame of binary32 values, under a microcode revision (R222). -/
opaque fftPower : Nat → List Nat → List Nat
/-- Tap `t` of phase `p` of the L/M resampling table of a microcode revision: revision, L, M, p, t (R222). -/
opaque sincTap : Nat → Nat → Nat → Nat → Nat → Nat
/-- The bit offset of weight (k, o) of a layer's weights, by WFMT, IN and OUT (R229 gives no layout). -/
opaque weightBit : Nat → Nat → Nat → Nat → Nat → Nat
/-- The byte offset of the scale of block b of output o of a layer's weights, by WFMT, IN and OUT. -/
opaque scaleByte : Nat → Nat → Nat → Nat → Nat → Nat
/-- The bytes of a token context area (R258): its layout and check are the unit's own. -/
opaque textContext : List Byte → Nat → List Byte
/-- The data bytes of a filler unit (R293 KIND 6). -/
opaque fillerByte : Nat → Byte
/-- The bytes a failing or raw read returns (R315), by draw and index. -/
opaque rawByte : Nat → Nat → Byte
/-- The hashes of the OTP (R601): the root slots, the loader segment, the device certificate and the debug key. -/
opaque rootHash : Nat → List Byte
opaque loaderHash : List Byte
opaque certHash : List Byte
opaque dbgHash : List Byte
/-- REC_KEY of the OTP, which has no path out (R601). -/
opaque recKey : List Byte
/-- The signature of an index over a message, under ATT_SEED (R604). -/
opaque hssSign : Nat → List Byte → List Byte
/-- The digits A to F of the Firmware Slot Information log are capitals; R612 leaves their case open. -/
opaque hexCapitals : Bool
/-- DDR5 training values of a channel (R495), and the bytes of a debug challenge (R618), by draw and index. -/
opaque ddrTraining : Nat → Nat → Byte
opaque challengeByte : Nat → Nat → Byte
/-- A fresh value for each count of the free counter, for values the manual leaves open. -/
opaque freeValue : Nat → Nat

end Config
end Sys2Proof
end

