-- ==== Sys2Proof/Machine/LogTypes.lean ====
section
/-!
DEFINITION. The part's identity (R601, R627, R629) and the records the fault controller and the trace keep (R560, R574, R579).
-/

namespace Sys2Proof.Machine

/-- What a part is made as: values from OTP, straps and the module EEPROM (R501, R602, R627, R629). -/
structure Part where
  variant : Variant
  dclass : Word32
  serial : BitVec 128
  slot : BitVec 6
  smbAddr : BitVec 7
  /-- The base MAC address of the EEPROM (R358, R602). -/
  mac : BitVec 48
  /-- The strap SB_I3C (R541). -/
  sbI3c : Bool
deriving DecidableEq, Repr

/-- An event counter: 48 bits, and the sticky overflow bit (R560). -/
structure Counter where
  count : BitVec 48
  ovf : Bool
deriving DecidableEq, Repr

def Counter.zero : Counter := ⟨0, false⟩

/-- An entry of the fault log (R574). -/
structure LogEntry where
  gtc : Word64
  kind : Byte
  polder : BitVec 4
  detail : BitVec 20
  value : Word32
deriving DecidableEq, Repr

def LogEntry.empty : LogEntry := ⟨0, 0, 0, 0, 0⟩

/-- Word 2 of a log entry (R574). -/
def LogEntry.word2 (e : LogEntry) : Nat := e.kind.toNat * 2 ^ 24 + e.polder.toNat * 2 ^ 20 + e.detail.toNat

/-- A trace record (R579); SEQ is 0 in the buffer and is added on the port. -/
structure TraceRec where
  typ : Byte
  polder : Byte
  info : Word32
  gtc : Word64
  data : BitVec 128
deriving DecidableEq, Repr

def TraceRec.empty : TraceRec := ⟨0, 0, 0, 0, 0⟩

/-- Records dropped in a row: how many, and the GTC of the first and the last (R580 GAP). -/
structure GapCount where
  count : Nat
  first : Word64
  last : Word64
deriving DecidableEq, Repr

/-- The trace buffer, the trigger and the trace port (R583 to R590), beside their registers. -/
structure Trace where
  buf : Table TraceRec
  /-- Records written since PG powered up, and how many of them the port has passed. -/
  written : Nat
  passed : Nat
  /-- Records still to be captured after the TRIGGER record, once one is taken (R586). -/
  left : Nat
  /-- Records that met FROZEN (R587). -/
  frozenGap : Option GapCount
  /-- Records overwritten before the port sent them (R590). -/
  overGap : Option GapCount
  /-- STOP and RESUME markers PA holds while PG is stopped (R583), and those beyond 64. -/
  held : List TraceRec
  heldGap : Option GapCount
  /-- When PORT_EN was set (R589). -/
  portOn : Option Word64
  seq : BitVec 16
  /-- Records sent on the port with their SEQ, IDLE excluded, oldest first. -/
  port : List (BitVec 16 × TraceRec)
  /-- The gating or reset of PG that its next first record reports (R598). -/
  lostAt : Option Word64
deriving DecidableEq, Repr

def Trace.empty : Trace :=
  { buf := [], written := 0, passed := 0, left := 0, frozenGap := none, overGap := none, held := [], heldGap := none, portOn := none,
    seq := 0, port := [], lostAt := none }

/-- A request shifted into the debug port (R576). -/
structure DapRequest where
  write : Bool
  space : BitVec 2
  addr : BitVec 48
  data : Word64
deriving DecidableEq, Repr

/-- The debug port (R575, R576): the instruction register, the response to the last request, a request that waits for its
polder, and what was shifted out of data registers, oldest first. -/
structure Dap where
  ir : BitVec 5
  response : BitVec 120
  waiting : Option DapRequest
  out : List (BitVec 120)
deriving DecidableEq, Repr

/-- The port in its own reset: IDCODE is selected. PRESUMED (log entry 4): IEEE 1149.1 has it so. -/
def Dap.reset : Dap := { ir := 0x01, response := 0, waiting := none, out := [] }

/-- A message in the management mailbox of CC0 or CC1. -/
inductive Letter where
  | counterOverflow (unit : Nat)   -- R562
  | powerSave                      -- R493
deriving DecidableEq, Repr

end Sys2Proof.Machine
end

