-- ==== Sys2Proof/Machine/NetTypes.lean ====
section
/-!
DEFINITION. What the RDMA engine (R362 to R385), the ports (R355 to R358) and the weir (R388 to R403) hold.
-/

namespace Sys2Proof.Machine

/-- What a packet of a DELIVER or RECON_READ is part of. -/
inductive PacketRole where
  | other | offer | piece | seal | sealLast | release | share
deriving DecidableEq, Repr

/-- A packet the SN-1 sends. A READ request spans as many PSNs as it has responses. -/
structure OutPacket where
  qcn : Nat
  psn : Nat
  span : Nat
  body : NetBody
  role : PacketRole
  /-- The descriptor it belongs to: core and ticket. -/
  owner : Option (Nat × Nat)
  /-- READ requests: where the next response goes, and the responses received. -/
  dst : Nat
  got : Nat
  service : Nat
  /-- When it was queued in the weir. -/
  since : Word64
deriving DecidableEq, Repr

/-- A WRITE message whose first packet was accepted (R371, R374). -/
structure Incoming where
  region : Nat
  addr : Nat
  /-- Packets of a duplicate with a stale key are discarded (R372). -/
  discard : Bool
deriving DecidableEq, Repr

/-- A queue pair (R363, R365 to R368). -/
structure Qp where
  state : Nat
  control : Bool
  sub : Nat
  pmtu : Nat
  subscriber : Nat
  v6 : Bool
  owner : Option Nat
  psn : Nat
  epsn : Nat
  /-- Work not yet placed with the weir, and packets placed and not acknowledged. -/
  todo : List OutPacket
  flight : List OutPacket
  retries : Nat
  timer : Option Word64
  nakSent : Bool
  lastCnp : Option Word64
  incoming : Option Incoming
  /-- A duplicate WRITE message that is being executed or discarded again (R372). -/
  again : Option Incoming
  /-- READ responses still to be sent, by region. -/
  reads : List Nat
deriving DecidableEq, Repr

/-- A region (R370, R373, R374). -/
structure RegionEntry where
  space : Option Nat
  base : Nat
  length : Nat
  access : BitVec 2
  generation : Nat
  registered : Bool
  /-- The descriptor that revokes it, and RP. -/
  revoking : Option (Nat × Nat × Word64)
  /-- Generations that ended, and when. -/
  retired : List (Nat × Word64)
deriving DecidableEq, Repr

/-- A DELIVER in progress (R377, R382). -/
structure Delivery where
  core : Nat
  ticket : Nat
  dataQ : Nat
  ctrlQ : Nat
  part : Nat
  subscriber : Nat
  deadline : Nat
  entry : PackPart
  granted : Bool
  slot : Nat
  generation : Nat
  sealLeft : Bool
  releaseSent : Bool
  releaseAcked : Bool
  bytes : Nat
  resends : Nat
  packetsResent : Nat
deriving DecidableEq, Repr

/-- An exact time in ns: a fraction (R396). -/
structure Frac where
  num : Nat
  den : Nat
deriving DecidableEq, Repr

/-- What a scheduling entity holds: start and finish tags (R392 to R394), eligible time and timing-wheel slot (R396, R397), and
samples (R402). -/
structure Entity where
  s : Nat
  f : Nat
  e : Frac
  slot : Option Nat
  depth : Nat
  depthMax : Nat
  delay : Nat
  delayMax : Nat
deriving DecidableEq, Repr

def Entity.zero : Entity := ⟨0, 0, ⟨0, 1⟩, none, 0, 0, 0, 0⟩

/-- A weir queue (R388, R398). -/
structure WeirQueue where
  packets : List OutPacket
  ent : Entity
  /-- The congestion rate in bit/s; none: the line rate. -/
  rc : Option Nat
  lastCut : Option Word64
  lastRise : Word64
deriving DecidableEq, Repr

/-- A service node of a sub-port (R388, R393): its virtual time and, for DELIVERY, the payload cap's eligible time (R396). -/
structure ServiceNode where
  v : Nat
  ent : Entity
  cap : Frac
deriving DecidableEq, Repr

def ServiceNode.zero : ServiceNode := ⟨0, Entity.zero, ⟨0, 1⟩⟩

/-- A sub-port (R355, R358, R399, R400). -/
structure SubPort where
  up : Bool
  /-- Runs at 400GbE. -/
  whole : Bool
  v : Nat
  pausedSince : Option Word64
  pausedUntil : Word64
  longCounted : Bool
  /-- Receive buffer occupancy in KiB, and when the last pause was sent. -/
  rx : Nat
  lastPause : Word64
  /-- ACKs, NAKs and CNPs that wait for the next packet boundary (R390). -/
  urgent : List OutPacket
  puntSecond : Nat
  puntCount : Nat
  /-- Up to 16 GID entries, which the firmware network service fills (R358). -/
  gids : List (BitVec 128)
deriving DecidableEq, Repr

def SubPort.reset : SubPort :=
  { up := false, whole := false, v := 0, pausedSince := none, pausedUntil := 0, longCounted := false, rx := 0, lastPause := 0,
    urgent := [], puntSecond := 0, puntCount := 0, gids := [] }

/-- The network side. -/
structure Net where
  qps : Table Qp
  regions : Table RegionEntry
  deliveries : List Delivery
  subports : Vector SubPort 8
  /-- Port configurations in force (R356). -/
  ports : Table Word32
  /-- Weir queues by (sub-port × 4 + service) × 4,096 + subscriber, service nodes by sub-port × 4 + service. -/
  queues : Table WeirQueue
  nodes : Table ServiceNode
  /-- `WER_SUB_CFG` by subscriber. -/
  subCfg : Table Word32
  /-- Occupied receive slots, and messages passed to firmware. -/
  slots : Nat
  inbox : List (Nat × List Byte)
  /-- Frames sent, by sub-port, oldest first; PFC frames as sub-port and quanta; frames passed to the network service. -/
  sent : List (Nat × OutPacket)
  pauses : List (Nat × Nat)
  punted : List (Nat × List Byte)
deriving DecidableEq, Repr

def Net.reset : Net :=
  { qps := [], regions := [], deliveries := [], subports := Vector.replicate 8 SubPort.reset, ports := [], queues := [],
    nodes := [], subCfg := [], slots := 0, inbox := [], sent := [], pauses := [], punted := [] }

end Sys2Proof.Machine
end

