-- ==== Sys2Proof/Machine/PowerTypes.lean ====
section
/-!
DEFINITION. What the power logic of PA holds: wake ladder, module state, save memory, clocks (R480 to R504), the hold-up
sequencer and the capacitor test (R505 to R529).
-/

namespace Sys2Proof.Machine

/-- What a wake ladder ends in: a cold start, an exit from MS4, or a warm reset that found gated polders. -/
inductive LadderKind where
  | cold | wake | warm
deriving DecidableEq, Repr

/-- Where the module stands between power-up and power loss. -/
inductive PowerPhase where
  /-- T0 of R489 has passed; the ladder has not begun. -/
  | cold
  | ladder (kind : LadderKind)
  | on
  /-- Entry to MS4 is decided and CC0 and CC1 have been told (R493 step 1). -/
  | entering
  | asleep
  /-- A flush has been started (R518, R526). -/
  | flush
  /-- The flush has ended: WP_N is low and the rails are down (R521). -/
  | flushed
  /-- OFF after a controlled power-off (R526). -/
  | off
  /-- No input. -/
  | unpowered
deriving DecidableEq, Repr

/-- The wake ladder (R500): polders still to power in order, the steps begun, newest first, with their loads, and the earliest
moment of the first. -/
structure Ladder where
  left : List Nat
  begun : List (Nat × Word64)
  start : Word64
  /-- The present step was counted as delayed by BUDGET_W (R504). -/
  delayed : Bool
deriving DecidableEq, Repr

/-- A flush (R518, R520, R526). -/
structure Flush where
  cause : Nat
  controlled : Bool
  /-- T0 of R518 or R526, and the GTC at the trigger. -/
  at_ : Word64
  /-- The polders are shed; a controlled power-off waits before that. -/
  shed : Bool
  /-- The safe state was in force at the trigger (R25). -/
  safe : Bool
  /-- Cut by a doubt of R26. -/
  cut : Bool
deriving DecidableEq, Repr

/-- A capacitor test (R524): T0, when the load was connected and the drop in mV, and when it was disconnected. -/
structure CapTest where
  at_ : Word64
  connected : Option (Word64 × Nat)
  disconnected : Option Word64
  fault : Bool
deriving DecidableEq, Repr

/-- The power logic. -/
structure Power where
  phase : PowerPhase
  ladder : Ladder
  /-- Save memory (R495). -/
  save : Mem
  /-- The GTC value of `POL_WAKE_AT` in effect (R503). -/
  wakeAt : Word64
  /-- Polders whose clock comes from the PLL now (R484). -/
  onPll : BitVec 11
  /-- Core resets that wait for DRAINED (R488). -/
  coreReset : BitVec 16
  /-- OPP steps of the power governor and of the thermal throttle, newest first, by polder (R486, R548), idle insertion, and
  since when the input power or the junction has been low. -/
  governed : List Nat
  throttled : List Nat
  idles : Bool
  lowSince : Option Word64
  coolSince : Option Word64
  flush : Option Flush
  test : Option CapTest
  testAsked : Bool
  /-- Test faults in a row, the end of a postponement, and whether a test completed since the cold start (R522 to R525). -/
  faults : Nat
  retryAt : Word64
  tested : Bool
  /-- Since when `MGT_TEST_AGE` counts, and from what value. -/
  ageAt : Word64
  ageBase : Nat
  /-- The restart points as copied by their HI words: dataset word and CASK_SEQ (R528). -/
  restart : Table (Word32 × Word64)
  /-- WP_N is low on every die, and CAGE_TXDIS is high on every cage (R553). -/
  writeProtect : Bool
  txDisable : Bool
  /-- The sideband address matched while in OFF (R526). -/
  matched : Bool
deriving DecidableEq, Repr

def Power.reset : Power :=
  { phase := .cold, ladder := ⟨[], [], 0, false⟩, save := [], wakeAt := 0xFFFFFFFF00000000, onPll := 0, coreReset := 0
    governed := [], throttled := [], idles := false, lowSince := none, coolSince := none, flush := none, test := none
    testAsked := false, faults := 0, retryAt := 0, tested := false, ageAt := 0, ageBase := 0, restart := [], writeProtect := true
    txDisable := true, matched := false }

end Sys2Proof.Machine
end

