-- ==== Sys2Proof/Machine/SecTypes.lean ====
section
/-!
DEFINITION. Identity and firmware (R601 to R620): the fuses that change, the mailbox, the staging area and the running image. The
hashes and keys of the OTP are constants of the part (Config).
-/

namespace Sys2Proof.Machine

/-- Where the image area and the record ring lie in the boot flash (R603). -/
def imageArea : Nat := 0x1000000
def recordRing : Nat := 0x410000
def certArea : Nat := 0x400000
def blockSize : Nat := 65536
def sigLen : Nat := 3284

/-- The OTP fields that commands change or registers show (R601). -/
structure Otp where
  present : BitVec 4
  revoked : BitVec 4
  dbgKey : Bool
  /-- Set bits of SVN and of ATT_FLOOR. -/
  svn : Nat
  floor : Nat
deriving DecidableEq, Repr

/-- Who sent a firmware commit. -/
inductive FwSender where
  | nvme (cid : Nat)
  | manager (cid : Nat)
deriving DecidableEq, Repr

/-- A commit whose boot-flash write runs (R613). -/
structure FwCommit where
  sender : FwSender
  ca : Nat
  /-- Writes made. -/
  tries : Nat
deriving DecidableEq, Repr

structure Sec where
  otp : Otp
  moduleSerial : List Byte
  /-- The attestation mailbox (R608). -/
  mbox : Mem
  /-- The staging area, its received ranges, and the staged blocks that passed their CRC (R612). -/
  stage : Mem
  got : List (Nat × Nat)
  good : List Nat
  commit : Option FwCommit
  /-- Commits that wait for that write, oldest first (R619). -/
  commits : List FwCommit
  /-- The next index, one past the highest reserved one, the ring's next record and its sequence number (R605, R606). -/
  next : Nat
  reserved : Nat
  slot : Nat
  seqNo : Nat
  /-- When the bucket of R607 was last refilled. -/
  refilled : Word64
  challenge : Option (List Byte × Word64)
  failures : Nat
  /-- The running image: FW_HASH, FW_VERSION and SVN; none in loader-only state. -/
  image : Option (List Byte × Word32 × Nat)
  /-- The activation value that ARM holds (R615). -/
  actAt : Word64
deriving DecidableEq, Repr

/-- DESIGN CHOICE (log entry 2): the sample part's fuses. -/
def Otp.sample : Otp := { present := 1, revoked := 0, dbgKey := true, svn := 0, floor := 1 }

def Sec.reset : Sec :=
  { otp := Otp.sample, moduleSerial := List.replicate 16 0x30, mbox := [], stage := [], got := [], good := [], commit := none, commits := []
    next := 0, reserved := 0, slot := 0, seqNo := 0, refilled := 0, challenge := none, failures := 0, image := none, actAt := 0 }

end Sys2Proof.Machine
end

