-- ==== Sys2Proof/Machine/SystemTypes.lean ====
section
/-!
DEFINITION. What a module keeps as a member of a system (R445 to R479): its lease, the manager's view of the plan, and time.
-/

namespace Sys2Proof.Machine

/-- Messages a module sends to the other modules of its system. -/
inductive SystemMsg where
  | renewal (at_ : Word64)                          -- R452
  | askVotes (term : Nat)                           -- R456
  | newServer (place spare : Nat)                   -- R451
  | dropMap (block : Nat) (drops : List Nat) (survivors : List (Nat × Nat))   -- R462
  | backup (seq place node : Nat)                   -- R466
  | digest (seq part value : Nat)                   -- R468
  | third (seq part : Nat)                          -- R469
  | selfTest (node : Nat)                         -- R469
deriving DecidableEq, Repr

/-- The module's part in a system. -/
structure System where
  /-- LEASE in ns (R452). -/
  lease : Nat
  /-- The GTC value of the last renewal request, and whether it is unanswered. -/
  lastAsk : Option Word64
  asked : Bool
  /-- The lease expiry in effect (R476). -/
  expiry : Word64
  /-- The module holds the manager's office by R456. -/
  office : Bool
  /-- Servers that replaced a dead worker, by group × 256 + place, and modules declared dead with their former place (R451, R455). -/
  servers : Table Nat
  dead : List (Nat × Nat)
  /-- Drop maps of an epoch by epoch × 2^32 + block: dropped positions, and survivors (R462). -/
  drops : Table (List Nat × Nat)
  /-- Backups running, as group, cask and place; places that the backup node covers from then on (R466). -/
  backups : List (Nat × Nat × Nat)
  covered : List (Nat × Nat)
  /-- Modules held out of service (R469), and parts whose replay records the manager keeps. -/
  held : List Nat
  kept : List (Nat × Nat)
  /-- Messages sent, oldest first. -/
  out : List SystemMsg
  /-- Joining: exchanges made and the sum of their offsets; then consecutive offsets within ±250 ns (R457). -/
  joined : Nat
  offsets : Int
  streak : Nat
  lastPtp : Option Word64
  /-- A step of the GTC that waits for pending launches (R27, R458). -/
  stepDue : Option Int
  /-- The GTC was found ahead of the manager's by over 1 ms (R458). -/
  ahead : Bool
  /-- The high word that a read of `GTC_NOW_LO` latched (R476). -/
  nowHigh : Option Word32
deriving DecidableEq, Repr

def System.reset : System :=
  { lease := 2000000000, lastAsk := none, asked := false, expiry := 0, office := false, servers := [], dead := [], drops := []
    backups := [], covered := [], held := [], kept := [], out := [], joined := 0, offsets := 0, streak := 0, lastPtp := none
    stepDue := none, ahead := false, nowHigh := none }

end Sys2Proof.Machine
end

