-- ==== Sys2Proof/Machine/State.lean ====
section
/-!
DEFINITION. The whole state of the SN-1 as plain data, the reasons a step can stop, and the state right after reset.
-/

namespace Sys2Proof.Machine

/-- Why a step faults. -/
inductive Fault where
  /-- No rule of the manual describes the machine after this; raised by no command at present. Safe. -/
  | unreachable
deriving DecidableEq, Repr

/-- Why a step refuses a command. -/
inductive Refusal where
  /-- The command has no meaning yet; raised by `exec`'s arms alone. Safe. -/
  | notModelled (mnemonic : String)
deriving DecidableEq, Repr

structure State where
  /-- Commands waiting, first in, first out. -/
  pending : List Instr
  part : Part
  /-- The global tick counter in PA (R27, R476). -/
  gtc : Word64
  /-- BAR2 registers that hold a value of their own, by offset; an unlisted one reads its reset value. -/
  regs : Table Word32
  /-- Error-counter registers as the last LATCH left them (R561). -/
  errSnap : Table Word32
  /-- Event counters by unit × 16 + k, live and as latched (R560, R561). -/
  events : Table Counter
  eventSnap : Table Counter
  fltLog : Table LogEntry
  /-- The management mailboxes of CC0 and CC1 (R562, R67, R493). -/
  letters : List Letter
  letters1 : List Letter
  /-- MSI-X messages sent, newest last: function and vector. -/
  msix : List (Nat × Nat)
  trace : Trace
  dap : Dap
  cores : Vector Core 16
  rings : Table Ring
  turns : Table Turn
  taken : List Taken
  /-- The queue context table's bindings by QCN (R363). -/
  qct : Table QcUse
  /-- Loaded recipes by handle (R422). -/
  recipes : Table Recipe
  host : HostSide
  flash : Flash
  ftl : Ftl
  fetch : Fetch
  mash : MashUnit
  /-- MinHash sets by slot. -/
  sets : Table MinSet
  /-- Vocabularies by slot, and the contexts of streamed texts, newest first. -/
  vocabs : Table Vocab
  texts : List TokContext
  store : PackStore
  net : Net
  system : System
  power : Power
  fault : FaultCtl
  sec : Sec
  dram : Mem
  /-- D, the capacity of the DDR5 channels in use (R545, R621). -/
  dramSize : Nat
  /-- 8-byte words of DRAM that hold an uncorrectable error, by address div 8 (R552). -/
  dramErr : List Nat
  /-- The boot flash (R603). -/
  bootFlash : Mem
  /-- Counts the free values drawn so far; no claim rests on it. -/
  free : Nat
deriving DecidableEq, Repr

/-- The part that reset starts with. DESIGN CHOICE (log entry 2). -/
def Part.sample : Part := ⟨.full, 0x11020306, 0, 0, 0, 0, false⟩

/-- The machine right after reset, before its cold start has run. -/
def State.reset : State where
  pending := []
  part := Part.sample
  gtc := 0
  regs := []
  errSnap := []
  events := []
  eventSnap := []
  fltLog := []
  letters := []
  letters1 := []
  msix := []
  trace := Trace.empty
  dap := Dap.reset
  cores := Vector.replicate 16 Core.reset
  rings := []
  turns := []
  taken := []
  qct := []
  recipes := []
  host := HostSide.reset
  flash := Flash.reset
  ftl := Ftl.reset
  fetch := Fetch.reset
  mash := ⟨[], []⟩
  sets := []
  vocabs := []
  texts := []
  store := ⟨[], [], []⟩
  net := Net.reset
  system := System.reset
  power := Power.reset
  fault := FaultCtl.reset
  sec := Sec.reset
  dram := []
  dramSize := 0
  dramErr := []
  bootFlash := []
  free := 0

end Sys2Proof.Machine
end

