-- ==== Sys2Proof/Machine/RegFile.lean ====
section
/-!
DEFINITION. The BAR2 register file: resets that depend on the part (R629), fields, error and event counters (R560 to R562), the
fault log (R574) and the trace buffer with its trigger (R579 to R588).
-/

namespace Sys2Proof.Machine

open Reg

/-! ## Registers -/

/-- A register row has a member at an offset. -/
def RegRow.covers (r : RegRow) (off : Nat) : Bool :=
  if r.stride = 0 then r.off == off
  else decide (r.off ≤ off) && (off - r.off) % r.stride == 0 && decide ((off - r.off) / r.stride < r.count)

/-- The row that holds an offset; `none` for a hole (R12). -/
def regRowAt (off : Nat) : Option RegRow := regRows.find? (fun r => r.covers off)

/-- The reset word that a row's table states. -/
def RegRow.resetWord (r : RegRow) : Nat := r.flds.foldl (fun acc f => acc + f.reset * 2 ^ f.lo) 0

/-- The low `n` bits set. -/
def maskOf (n : Nat) : Nat := 2 ^ n - 1

/-- The registers whose reset depends on the part (R627, R629). -/
def partReset (p : Part) (off : Nat) : Option Nat :=
  let u := Config.unitCount p.variant
  if off = GLB_ID then some (2 ^ 24 + Config.hwType p.variant)
  else if off = GLB_DCLASS then some p.dclass.toNat
  else if off = GLB_CAP0 then some (u 3 * 2 ^ 24 + u 2 * 2 ^ 16 + u 1 * 2 ^ 8 + u 0)
  else if off = GLB_CAP1 then some (u 7 * 2 ^ 16 + u 5 * 2 ^ 8 + u 4)
  else if off = GLB_CAP2 then some (u 11 * 2 ^ 24 + u 10 * 2 ^ 16 + u 9 * 2 ^ 8 + u 8)
  else if off = GLB_CAP3 then some (u 12 * 2 ^ 24 + u 6 * 2 ^ 16 + Config.ddrChannels p.variant * 2 ^ 12)
  else if off = MIL_UNITS then some (u 5 * 2 ^ 16 + u 4 * 2 ^ 8 + u 3)
  else if off = MIL_ROT_IMG then some (maskOf (u 3))
  else if off = MIL_ROT_OTH then some (maskOf (u 5) * 2 ^ 8 + maskOf (u 4))
  else if off = KLN_LANES then some (maskOf (u 2) * 2 ^ 16 + u 2)
  else if off = MSH_TILES then some (u 7 * 2 ^ 16 + u 7)
  else if MSH_ROT ≤ off ∧ off < MSH_ROT + 32 ∧ off % 4 = 0 then
    some (maskOf (u 7) / 2 ^ (8 * (off - MSH_ROT)) % 2 ^ 32)
  else if NET_PORT_STAT ≤ off ∧ off < NET_PORT_STAT + 16 ∧ off % 4 = 0 then
    some (if (off - NET_PORT_STAT) / 4 < u 10 then 2 ^ 31 else 0)
  else if WER_SVC_CFG ≤ off ∧ off < WER_SVC_CFG + 16 ∧ off % 4 = 0 then
    some ([200, 40, 10, 6].getD ((off - WER_SVC_CFG) / 4) 0 * 2 ^ 24)
  else if off = POL_STAGGER then some (200 * 2 ^ 16 + p.slot.toNat)
  else if off = POL_SMB then some (p.sbI3c.toNat * 2 ^ 31 + p.smbAddr.toNat)
  else if SEC_SERIAL ≤ off ∧ off < SEC_SERIAL + 16 ∧ off % 4 = 0 then
    some (natAt p.serial (8 * (off - SEC_SERIAL)) 32)
  else if off = SEC_HWTYPE then some (Config.hwType p.variant)
  else none

/-- What a register reads as after reset; 0 in a hole (R12). -/
def resetWord (p : Part) (off : Nat) : Word32 :=
  BitVec.ofNat 32 ((partReset p off).getD (((regRowAt off).map RegRow.resetWord).getD 0))

/-- The word a register holds. -/
def State.reg (s : State) (off : Nat) : Word32 := Table.at (resetWord s.part off) s.regs off

/-- A register word put in place. -/
def State.setReg (s : State) (off : Nat) (w : Word32) : State :=
  { s with regs := Table.write (resetWord s.part off) s.regs off w }

/-- A field of a register. -/
def State.fld (s : State) (f : Fld) : Nat := natAt (s.reg f.off) f.lo f.len

/-- A one-bit field. -/
def State.flag (s : State) (f : Fld) : Bool := bitAt (s.reg f.off) f.lo

/-- A field replaced. -/
def State.setFld (s : State) (f : Fld) (v : Nat) : State := s.setReg f.off (putBits (s.reg f.off) f.lo f.len v)

/-- A one-bit field replaced. -/
def State.setFlag (s : State) (f : Fld) (b : Bool) : State := s.setFld f b.toNat

/-- An error counter raised: 16 bits, saturating (R560). -/
def State.errAdd (s : State) (f : Fld) (k : Nat) : State := s.setFld f (satAdd 0xFFFF (s.fld f) k)

/-- The registers of offsets [lo, hi) back at their reset values. -/
def State.clearRegs (s : State) (lo hi : Nat) : State :=
  { s with regs := s.regs.filter (fun e => decide (e.1 < lo) || decide (hi ≤ e.1)) }

/-- What a register holds after a write, by the access codes of its fields (R13); the actions of WO bits are the unit's. -/
def writtenWord (r : RegRow) (old v : Word32) : Word32 :=
  r.flds.foldl (fun acc f =>
    match f.acc with
    | .rw => putBits acc f.lo f.len (natAt v f.lo f.len)
    | .w1c => putBits acc f.lo f.len (natAt (old &&& ~~~v) f.lo f.len)
    | .w1s => putBits acc f.lo f.len (natAt (old ||| v) f.lo f.len)
    | .ro | .wo | .rc => acc) old

/-- What a read of a register returns, by the access codes of its fields: WO and reserved bits read as 0 (R13). -/
def readableWord (r : RegRow) (w : Word32) : Word32 :=
  r.flds.foldl (fun acc f => if f.acc = .wo then acc else putBits acc f.lo f.len (natAt w f.lo f.len)) 0

/-- What a register holds after a read: RC fields are cleared (R13). -/
def afterRead (r : RegRow) (w : Word32) : Word32 :=
  r.flds.foldl (fun acc f => if f.acc = .rc then putBits acc f.lo f.len 0 else acc) w

/-! ## Units, polders and counters -/

/-- The units of the register map, numbered as R562 numbers them: base, polder index (R624, R480), event counters (R596). -/
structure UnitRow where
  base : Nat
  polder : Nat
  events : Nat
deriving DecidableEq, Repr

def unitRows : List UnitRow := [
  ⟨0x00000000, 0, 0⟩, ⟨0x00100000, 0, 5⟩, ⟨0x00200000, 0, 6⟩, ⟨0x00300000, 0, 3⟩, ⟨0x00400000, 0, 6⟩, ⟨0x00800000, 1, 0⟩,
  ⟨0x01000000, 2, 8⟩, ⟨0x01400000, 2, 8⟩, ⟨0x01800000, 2, 7⟩, ⟨0x01C00000, 4, 6⟩, ⟨0x02000000, 5, 6⟩, ⟨0x02400000, 6, 6⟩,
  ⟨0x02800000, 6, 6⟩, ⟨0x02C00000, 7, 6⟩, ⟨0x03000000, 7, 6⟩, ⟨0x03400000, 8, 0⟩, ⟨0x03800000, 8, 8⟩, ⟨0x03C00000, 8, 6⟩,
  ⟨0x04000000, 9, 6⟩, ⟨0x04400000, 9, 4⟩, ⟨0x04800000, 9, 3⟩, ⟨0x04C00000, 3, 4⟩, ⟨0x05000000, 10, 6⟩, ⟨0x05400000, 0, 0⟩]

def unitPOL : Nat := 1
def unitMGT : Nat := 2
def unitGTC : Nat := 3
def unitFLT : Nat := 4
def unitCC : Nat := 5
def unitFLS : Nat := 6
def unitFTL : Nat := 7
def unitCAT : Nat := 8
def unitMIL : Nat := 9
def unitKLN : Nat := 10
def unitMSH : Nat := 11
def unitLTR : Nat := 12
def unitTOK : Nat := 13
def unitCSK : Nat := 14
def unitNET : Nat := 15
def unitRDM : Nat := 16
def unitWER : Nat := 17
def unitHST : Nat := 18
def unitDMA : Nat := 19
def unitBPM : Nat := 20
def unitMEM : Nat := 21
def unitDBG : Nat := 22
def unitSEC : Nat := 23

/-- The unit whose window holds an offset: the last whose base is not above it (R624); `none` above the SEC window (R625). -/
def unitAt (off : Nat) : Option Nat :=
  if off < 0x05800000 then some ((unitRows.filter (fun u => decide (u.base ≤ off))).length - 1) else none

/-- The base of a unit's window. -/
def unitBase (u : Nat) : Nat := (unitRows.getD u ⟨0, 0, 0⟩).base

/-- The end of a unit's window. -/
def unitEnd (u : Nat) : Nat := if u = unitSEC then 0x05800000 else unitBase (u + 1)

/-- The polder index of a unit. -/
def unitPolder (u : Nat) : Nat := (unitRows.getD u ⟨0, 0, 0⟩).polder

def polPA : Nat := 0
def polPC : Nat := 1
def polPF : Nat := 2
def polPM : Nat := 3
def polPD : Nat := 4
def polPK : Nat := 5
def polPX : Nat := 6
def polPT : Nat := 7
def polPN : Nat := 8
def polPH : Nat := 9
def polPG : Nat := 10

/-- The polder an engine class runs in (R21). -/
def classPolder (cls : Nat) : Nat := [2, 2, 5, 4, 4, 4, 6, 6, 7, 7, 8, 9, 9].getD cls 0

/-- A polder's state in `POL_STATE`: 0 gated, 1 powering, 2 stopped, 3 ON (R503). -/
def State.polder (s : State) (p : Nat) : Nat := natAt (s.reg POL_STATE) (2 * p) 2

/-- A polder is ON. -/
def State.polderOn (s : State) (p : Nat) : Bool := s.polder p == 3

/-- A polder's state set. -/
def State.setPolder (s : State) (p v : Nat) : State := s.setReg POL_STATE (putBits (s.reg POL_STATE) (2 * p) 2 v)

/-- The sixteen keys of a unit's event counters. -/
def eventKey (u k : Nat) : Nat := u * 16 + k

def State.counter (s : State) (u k : Nat) : Counter := Table.at Counter.zero s.events (eventKey u k)

/-- Add to an event counter; on a wrap set OVF and `FLT_OVF_PEND`, and signal where it is enabled (R560, R562). The flag says it
wrapped. -/
def State.countQuiet (s : State) (u k n : Nat) : State × Bool :=
  let c := s.counter u k
  let sum := c.count.toNat + n
  let wrapped := decide (sum ≥ 2 ^ 48)
  let s := { s with events := Table.write Counter.zero s.events (eventKey u k) ⟨BitVec.ofNat 48 sum, c.ovf || wrapped⟩ }
  if wrapped then
    let s := s.setReg FLT_OVF_PEND (s.reg FLT_OVF_PEND ||| BitVec.ofNat 32 (2 ^ u))
    if bitAt (s.reg FLT_OVF_IRQ) u then
      ({ s with letters := s.letters ++ [.counterOverflow u], msix := s.msix ++ [(0, s.fld FLT_OVF_IRQ_VECTOR)] }, true)
    else (s, true)
  else (s, false)

/-! ## Trace and fault log -/

/-- The records the buffer holds (R585). -/
def traceSize : Nat := 524288

/-- The SRC_EN bit that enables a record type (R580); `none` for a type that has no enable. -/
def traceEnable (typ : Nat) : Option Nat :=
  match typ with
  | 0x01 => some 0 | 0x02 => some 0 | 0x05 => some 1 | 0x08 => some 2 | 0x09 => some 2 | 0x0B => some 3 | 0x0C => some 4
  | 0x0D => some 5 | 0x0E => some 5 | 0x0F => some 5
  | _ => none

/-- One record dropped: a run of drops keeps the GTC of its first and last (R580). -/
def GapCount.grow (g : Option GapCount) (t : Word64) : Option GapCount :=
  match g with
  | none => some ⟨1, t, t⟩
  | some g => some { g with count := g.count + 1, last := t }

/-- The record at the write pointer is about to be overwritten: where the running port has not sent it, it is dropped (R590). -/
def State.traceOverwrite (s : State) (w : Nat) : State :=
  let tr := s.trace
  if tr.written < tr.passed + traceSize then s
  else if s.flag DBG_CTL_PORT_EN then
    let g := GapCount.grow tr.overGap (Table.at TraceRec.empty tr.buf w).gtc
    (State.countQuiet { s with trace := { tr with passed := tr.passed + 1, overGap := g } } unitDBG 2 1).1
  else { s with trace := { tr with passed := tr.passed + 1 } }

/-- Write a record to the buffer while CAPTURE is set and FROZEN is clear; count it while FROZEN is set (R585 to R587). -/
def State.traceStore (s : State) (r : TraceRec) : State :=
  if s.flag DBG_STAT_FROZEN then
    let s := { s with trace := { s.trace with frozenGap := GapCount.grow s.trace.frozenGap r.gtc } }
    (s.countQuiet unitDBG 2 1).1
  else if s.flag DBG_CTL_CAPTURE then
    let w := s.fld DBG_STAT_WPTR
    let left := s.trace.left
    let s := s.traceOverwrite w
    let s := { s with trace := { s.trace with
      buf := Table.write TraceRec.empty s.trace.buf w r, written := s.trace.written + 1, left := left - 1 } }
    let s := s.setFld DBG_STAT_WPTR ((w + 1) % traceSize)
    let s := (s.countQuiet unitDBG 0 1).1
    if left = 1 then s.setFlag DBG_STAT_FROZEN true else s
  else s

/-- A record of a running PG: first the GAP that a lost buffer leaves (R598), then the record itself. -/
def State.traceWrite (s : State) (r : TraceRec) : State :=
  let s := match s.trace.lostAt with
    | none => s
    | some t =>
      ({ s with trace := { s.trace with lostAt := none } }.errAdd DBG_ERR_CNT_GAPS 1).traceStore
        ⟨0x06, BitVec.ofNat 8 polPG, 1, t, s.gtc.setWidth 128 ||| (4#128 <<< 64)⟩
  s.traceStore r

/-- A trigger of source `src` (R586): only an armed trigger with that source enabled is taken. -/
def State.trigger (s : State) (src : Nat) : State :=
  if s.polderOn polPG && s.flag DBG_STAT_ARMED && !s.flag DBG_STAT_TRIGGERED && bitAt (s.reg DBG_TRIG_CFG) src then
    let pre := min 16 (s.fld DBG_TRIG_CFG_PRE)
    let s := (s.setFlag DBG_STAT_ARMED false).setFlag DBG_STAT_TRIGGERED true
    let s := s.setFld DBG_TRIG_PTR_PTR (s.fld DBG_STAT_WPTR)
    let s := { s with trace := { s.trace with left := max 1 ((16 - pre) * 32768) } }
    let s := s.traceWrite ⟨0x07, BitVec.ofNat 8 polPG, BitVec.ofNat 32 src, s.gtc, BitVec.ofNat 128 pre⟩
    (s.countQuiet unitDBG 3 1).1
  else s

/-- A source in a running polder emits a record that its enable admits (R580, R582); PG must run to take it. -/
def State.emit (s : State) (typ polder : Nat) (info : Word32) (data : BitVec 128) : State :=
  let enabled := match traceEnable typ with
    | some b => bitAt (s.reg DBG_CTL) b
    | none => true
  if enabled && s.polderOn polPG && s.polderOn polder then
    s.traceWrite ⟨BitVec.ofNat 8 typ, BitVec.ofNat 8 polder, info, s.gtc, data⟩
  else s

/-- A STOP or RESUME marker of a polder, which PA writes (R583): held, up to 64, while PG is not running. -/
def State.marker (s : State) (typ polder kind : Nat) : State :=
  let r : TraceRec := ⟨BitVec.ofNat 8 typ, BitVec.ofNat 8 polPA, BitVec.ofNat 32 polder, s.gtc, BitVec.ofNat 128 kind⟩
  if s.polderOn polPG then s.traceWrite r
  else if s.trace.held.length < 64 then { s with trace := { s.trace with held := s.trace.held ++ [r] } }
  else { s with trace := { s.trace with heldGap := GapCount.grow s.trace.heldGap s.gtc } }

/-- The GAP record that stands for dropped records (R580). -/
def gapRecord (g : GapCount) (cause : Nat) : TraceRec :=
  ⟨0x06, BitVec.ofNat 8 polPG, BitVec.ofNat 32 (min g.count 0xFFFFFFFF), g.first,
    g.last.setWidth 128 ||| (BitVec.ofNat 128 cause <<< 64)⟩

/-- PG runs again: PA writes the markers it held, then a GAP for those beyond 64 (R583). -/
def State.flushMarkers (s : State) : State :=
  let held := s.trace.held
  let gap := s.trace.heldGap
  let s := { s with trace := { s.trace with held := [], heldGap := none } }
  let s := held.foldl (fun s r => s.traceWrite r) s
  match gap with
  | none => s
  | some g => (s.errAdd DBG_ERR_CNT_GAPS 1).traceWrite (gapRecord g 3)

/-- Write a fault log entry (R574): the log is circular; a FAULT record goes to the trace, and trigger source 2 fires (R580,
R586). The flag of a wrap met here is signalled but not itself logged. -/
def State.logFault (s : State) (kind polder detail value : Nat) : State :=
  let e : LogEntry := ⟨s.gtc, BitVec.ofNat 8 kind, BitVec.ofNat 4 polder, BitVec.ofNat 20 detail, BitVec.ofNat 32 value⟩
  let i := s.fld FLT_LOG_HEAD_NEXT
  let s := { s with fltLog := Table.write LogEntry.empty s.fltLog i e }
  let s := s.setFld FLT_LOG_HEAD_NEXT ((i + 1) % 64)
  let s := if i = 63 then s.setFlag FLT_LOG_HEAD_WRAPPED true else s
  let s := (s.countQuiet unitFLT 5 1).1
  let s := s.emit 0x0A polPA (BitVec.ofNat 32 e.word2) (BitVec.ofNat 128 value)
  s.trigger 2

/-- Add to an event counter; a wrap is counted in FLT counter 4 and logged (R562, R572, R574). -/
def State.count (s : State) (u k n : Nat) : State :=
  let (s, wrapped) := s.countQuiet u k n
  if wrapped then
    let s := (s.countQuiet unitFLT 4 1).1
    s.logFault 0x11 polPA u (2 ^ u)
  else s

/-- Self-tests that wait, as `FLT_ST_STAT` counts them (R564). -/
def State.setTests (s : State) (q : List (Nat × Nat)) : State :=
  ({ s with fault := { s.fault with queue := q } }).setFld FLT_ST_STAT_QUEUED q.length

/-- A self-test request joins the queue, or is refused while 16 wait or in the safe state (R565). -/
def State.queueTest (s : State) (cls unit : Nat) : State :=
  if decide (16 ≤ s.fault.queue.length) || s.flag FLT_STATUS_SAFE then s.setFlag FLT_ST_STAT_REFUSED true
  else s.setTests (s.fault.queue ++ [(cls, unit)])

/-- A fresh free value: the manual does not fix it. -/
def State.freshFree (s : State) : Nat × State := (Config.freeValue s.free, { s with free := s.free + 1 })

/-- A message to a host function's MSI-X vector. -/
def State.interrupt (s : State) (fn vector : Nat) : State := { s with msix := s.msix ++ [(fn, vector)] }

end Sys2Proof.Machine
end

