-- ==== Sys2Proof/Machine/Ops.lean ====
section
/-!
DEFINITION. The named operations of the control cores: registers, privilege, the address map and protection (R39 to R42, R621,
R622), taking an exception or an interrupt and returning from it (R68 to R73), debug halt (R74 to R79), the tenant supervisor's
part in a recipe's end (R121) and tickets (R59, R62).
-/

namespace Sys2Proof.Machine

open Reg

/-! ## Registers of a core -/

/-- A core of the machine. -/
def State.core (s : State) (c : CoreId) : Core := s.cores[c]

/-- A core put in place. -/
def State.setCore (s : State) (c : CoreId) (k : Core) : State := { s with cores := s.cores.set c k }

/-- A general register; g0 reads as zero (R34). -/
def Core.reg (k : Core) (r : RegField) : Word64 := if r = 0 then 0 else k.g[r.toNat]'(r.isLt)

/-- A general register written; writes to g0 are discarded (R34). -/
def Core.setReg (k : Core) (r : RegField) (v : Word64) : Core :=
  if r = 0 then k else { k with g := k.g.set r.toNat v r.isLt }

/-- A vector register; bit 4 of its field is clear in every legal word (R51). -/
def Core.vreg (k : Core) (r : RegField) : VWord := k.v[r.toNat % 16]'(Nat.mod_lt _ (by decide))

/-- A vector register written. -/
def Core.setVreg (k : Core) (r : RegField) (v : VWord) : Core :=
  { k with v := k.v.set (r.toNat % 16) v (Nat.mod_lt _ (by decide)) }

/-! ## Privilege and `STATUS` (R37, R67) -/

def privU : BitVec 2 := 0
def privS : BitVec 2 := 1
def privM : BitVec 2 := 2

def Core.priv (k : Core) : BitVec 2 := bitsAt k.status 0 2
def Core.ieS (k : Core) : Bool := bitAt k.status 7
def Core.ieM (k : Core) : Bool := bitAt k.status 8
def Core.prevIeS (k : Core) : Bool := bitAt k.status 9
def Core.prevIeM (k : Core) : Bool := bitAt k.status 10
def Core.prevPrivS (k : Core) : BitVec 2 := bitsAt k.status 11 1 |>.setWidth 2
def Core.prevPrivM (k : Core) : BitVec 2 := bitsAt k.status 12 2
def Core.inTrapS (k : Core) : Bool := bitAt k.status 14
def Core.inTrapM (k : Core) : Bool := bitAt k.status 15

/-! ## Exception codes (R68) -/

def excIllegal : Nat := 0x01
def excPrivileged : Nat := 0x02
def excFetchAccess : Nat := 0x03
def excLoadAlign : Nat := 0x04
def excStoreAlign : Nat := 0x05
def excLoadAccess : Nat := 0x06
def excStoreAccess : Nat := 0x07
def excSvcU : Nat := 0x08
def excSvcS : Nat := 0x09
def excSvcM : Nat := 0x0A
def excBreakpoint : Nat := 0x0B
def excWatchpoint : Nat := 0x0C
def excEngineAbsent : Nat := 0x0D
def excStreamAccess : Nat := 0x0E
def excIllegalTicket : Nat := 0x0F
def excDataError : Nat := 0x10

/-! ## Debug halt (R75, R76, R79) -/

/-- One core enters debug halt at an instruction boundary: a wait is abandoned, `pc` holding it (R75). -/
def State.haltOne (s : State) (c : CoreId) (cause : Nat) : State :=
  let k := s.core c
  let s := s.setCore c { k with halted := true, haltCause := BitVec.ofNat 4 cause, wait := none }
  let s := s.emit 0x08 polPC (BitVec.ofNat 32 c.val) (BitVec.ofNat 128 (cause + k.pc.toNat * 2 ^ 64))
  s.trigger 1

/-- Core `c` is out of reset (R488, R490). -/
def State.outOfReset (s : State) (c : CoreId) : Bool := bitAt (s.reg POL_CORE_RST) c.val

/-- The module holds no running image (R617). -/
def State.loaderOnly (s : State) : Bool := s.sec.image.isNone

/-- Doorbells are ignored from the start of a flush (R23, R526). -/
def State.doorbellsOff (s : State) : Bool := s.power.flush.isSome

/-- A core enters debug halt; with HALT_ALL set, every other running core follows with cause 4 (R76). -/
def State.enterHalt (s : State) (c : CoreId) (cause : Nat) : State :=
  let s := s.haltOne c cause
  if s.flag CC_DBG_GLOBAL_HALT_ALL then
    (List.finRange 16).foldl (fun s d => if s.outOfReset d && !(s.core d).halted then s.haltOne d 4 else s) s
  else s

/-! ## The tenant supervisor and a recipe's end (R121) -/

/-- The recipe a core runs, by handle. -/
def State.recipeOf (s : State) (c : CoreId) : Option (Nat × Recipe) :=
  s.recipes.find? (fun e => e.2.cores.contains c)

/-- The recipe has ended once every core of it has ended or was stopped. -/
def State.settleRecipe (s : State) (h : Nat) : State :=
  match Table.find s.recipes h with
  | some r =>
    if r.state = .running && r.cores.all (fun c => (s.core c).duty == .ended || (s.core c).duty == .stopped) then
      { s with recipes := Table.put s.recipes h { r with state := .ended } }
    else s
  | none => s

/-- A recipe core ends its part of the work normally. -/
def State.coreEnds (s : State) (c : CoreId) : State :=
  match s.recipeOf c with
  | some (h, r) =>
    if r.state = .running then (s.setCore c { s.core c with duty := .ended }).settleRecipe h else s
  | none => s

/-- The supervisor stops a core at an instruction boundary; a core that has ended stays ended. -/
def State.stopCore (s : State) (c : CoreId) : State :=
  let k := s.core c
  if k.duty = .ended then s else s.setCore c { k with duty := .stopped, wait := none }

/-- A recipe core fails: the first failure in time is kept, the lowest core index among equals, and every other core of the
recipe is stopped. -/
def State.coreFails (s : State) (c : CoreId) (status : Byte) (exception : Bool) : State :=
  match s.recipeOf c with
  | some (h, r) =>
    if r.state = .running then
      let i := r.cores.idxOf c
      let new : Failure := ⟨status, exception, i, s.gtc⟩
      let kept := match r.failure with
        | none => new
        | some f => if f.gtc = s.gtc && decide (i < f.index) then new else f
      let s := { s with recipes := Table.put s.recipes h { r with failure := some kept } }
      let s := s.setCore c { s.core c with duty := .ended }
      (r.cores.foldl (fun s d => s.stopCore d) s).settleRecipe h
    else s
  | none => s

/-! ## Taking an exception or an interrupt (R69 to R72) -/

/-- Trap entry to S or M (R70): the trap registers are written, the level and its interrupt enable change, and `pc` goes to
the trap vector. -/
def Core.trapEntry (k : Core) (toM : Bool) (cause val : Word64) : Core :=
  if toM then
    let st := putBit (putBit (putBits k.status 12 2 k.priv.toNat) 10 k.ieM) 8 false
    { k with trapPcM := k.pc, trapCauseM := cause, trapValM := val, status := putBits (putBit st 15 true) 0 2 2
             pc := k.trapVecM &&& ~~~3#64, wait := none }
  else
    let st := putBit (putBit (putBits k.status 11 1 k.priv.toNat) 9 k.ieS) 7 false
    { k with trapPcS := k.pc, trapCauseS := cause, trapValS := val, status := putBits (putBit st 14 true) 0 2 1
             pc := k.trapVecS &&& ~~~3#64, wait := none }

/-- An exception goes to S if it is delegated and the core is at U or S (R70). -/
def Core.excToM (k : Core) (code : Nat) : Bool := k.priv == privM || !bitAt k.deleg code

/-- Raise an exception: a double trap at M enters debug halt and is logged (R72); any other is taken (R70). At U on a core of a
running recipe every exception but SVC_U fails the core (R121). -/
def State.raise (s : State) (c : CoreId) (code : Nat) (val : Word64) : State :=
  let k := s.core c
  if k.priv = privM && k.inTrapM then
    (s.enterHalt c 5).logFault 0x10 polPC c.val 0
  else
    let s := s.setCore c (k.trapEntry (k.excToM code) (BitVec.ofNat 64 code) val)
    if k.priv = privU && code ≠ excSvcU then s.coreFails c (BitVec.ofNat 8 code) true else s

/-- `IRQ_PEND` (R66, R67, R105, R562). -/
def State.irqPend (s : State) (c : CoreId) : BitVec 4 :=
  let k := s.core c
  BitVec.ofNat 4 (k.swi.toNat + 2 * (decide (k.gtcCmp ≤ s.gtc)).toNat + 4 * (!k.tki.isEmpty || k.tkiOvf).toNat
    + 8 * ((c.val == 0 && !s.letters.isEmpty) || (c.val == 1 && !s.letters1.isEmpty)).toNat)

/-- An interrupt goes to S if it is delegated and the core is at U or S (R70). -/
def Core.irqToM (k : Core) (n : Nat) : Bool := k.priv == privM || !bitAt k.deleg (32 + n)

/-- An interrupt's target level admits it: its enable is set, or the core is below the level (R70). -/
def Core.irqAdmitted (k : Core) (n : Nat) : Bool :=
  if k.irqToM n then k.priv != privM || k.ieM else k.priv == privU || k.ieS

/-- The interrupt the core takes next, in the order 3, 2, 1, 0 (R73). -/
def State.irqReady (s : State) (c : CoreId) : Option Nat :=
  let k := s.core c
  [3, 2, 1, 0].find? (fun n => bitAt (s.irqPend c) n && bitAt k.irqEn n && k.irqAdmitted n)

/-- The wake condition of `idle` (R58). -/
def State.wakeReady (s : State) (c : CoreId) : Bool := s.irqPend c &&& (s.core c).irqEn != 0

/-- Clock cycles and retired instructions counted, and `pc` set (R66). -/
def Core.retireTo (k : Core) (c : CoreId) (pc : Word64) : Core :=
  { k with
    pc := pc
    instret := k.instret + 1
    cycle := k.cycle + 1 + BitVec.ofNat 64 (Config.cyclesSpent c.val k.instret.toNat)
    wait := none }

/-- An instruction retires and `pc` moves past it. -/
def Core.retire (k : Core) (c : CoreId) : Core := k.retireTo c (k.pc + 4)

/-- Take interrupt `n`: a waiting `idle` whose wake condition holds retires first (R58); a waiting `wtc` or `fnc` is what
`TRAP_PC` holds (R63, R64). -/
def State.takeInterrupt (s : State) (c : CoreId) (n : Nat) : State :=
  let k := s.core c
  let k := if k.wait = some .idle then k.retire c else k
  s.setCore c (k.trapEntry (k.irqToM n) (BitVec.ofNat 64 (2 ^ 63 + n)) 0)

/-- Return from a trap at level L, the current level (R71); a PREV_PRIV above L returns at L. -/
def Core.trapReturn (k : Core) (c : CoreId) : Core :=
  if k.priv = privM then
    let p := if k.prevPrivM = 3 then privM else k.prevPrivM
    let st := putBit (putBit (putBits k.status 0 2 p.toNat) 8 k.prevIeM) 15 false
    { k.retireTo c (k.trapPcM &&& ~~~3#64) with status := st }
  else
    let st := putBit (putBit (putBits k.status 0 2 k.prevPrivS.toNat) 7 k.prevIeS) 14 false
    { k.retireTo c (k.trapPcS &&& ~~~3#64) with status := st }

/-! ## The address map and protection (R39 to R42, R621, R622) -/

inductive AccessKind where
  | load | store | atomic | fetch
deriving DecidableEq, Repr

/-- The regions of the 48-bit space (R621). -/
inductive Region where
  | rom | registers | bootFlash | dram | none
deriving DecidableEq, Repr

def dramBase : Nat := 0x040000000000
def registerBase : Nat := 0x08000000

/-- The region that holds every byte of an access. -/
def State.regionAt (s : State) (a n : Nat) : Region :=
  if a + n ≤ 0x40000 then .rom
  else if registerBase ≤ a ∧ a + n ≤ 0x10000000 then .registers
  else if 0x10000000 ≤ a ∧ a + n ≤ 0x14000000 then .bootFlash
  else if dramBase ≤ a ∧ a + n ≤ dramBase + s.dramSize then .dram
  else .none

/-- The accesses a region allows, whatever the protection regions grant (R622); `scalar` marks `lw`, `lwu` and `sw`. -/
def State.mapAllows (s : State) (priv : BitVec 2) (kind : AccessKind) (a n : Nat) (scalar : Bool) : Bool :=
  match s.regionAt a n with
  | .rom => priv == privM && (kind == .load || kind == .fetch)
  | .registers => priv == privM && n == 4 && scalar && (kind == .load || kind == .store)
  | .bootFlash => priv == privM && kind == .load
  | .dram => true
  | .none => false

/-- A region CSR or ring window covers every byte of an access (R42). -/
def regionCovers (r : Word64) (a n : Nat) : Bool :=
  let size := 2 ^ clampTo 12 47 (natAt r 48 6)
  let base := alignDown (natAt r 12 36 * 4096) size
  bitAt r 63 && decide (base ≤ a) && decide (a + n ≤ base + size)

/-- The union of the covering regions' permissions grants the access (R41, R42). -/
def regionsGrant (rs : List Word64) (kind : AccessKind) (a n : Nat) : Bool :=
  let some_ (bit : Nat) := rs.any (fun r => regionCovers r a n && bitAt r bit)
  match kind with
  | .load => some_ 56
  | .store => some_ 57
  | .atomic => some_ 56 && some_ 57
  | .fetch => some_ 58

/-- Protection by level (R41): M is not checked, S by the S regions, U by the S and the U regions. -/
def Core.protects (k : Core) (kind : AccessKind) (a n : Nat) : Bool :=
  if k.priv = privM then true
  else regionsGrant k.regionS.toList kind a n && (k.priv == privS || regionsGrant k.regionU.toList kind a n)

/-- An access of a core is allowed by R39, R41 and R622. -/
def State.accessAllowed (s : State) (c : CoreId) (kind : AccessKind) (a : Word64) (n : Nat) (scalar : Bool) : Bool :=
  a.toNat < 2 ^ 48 && s.mapAllows (s.core c).priv kind a.toNat n scalar && (s.core c).protects kind a.toNat n

/-- Some byte of an access lies in a DRAM word with an uncorrectable error (R68 DATA_ERROR, R552). -/
def State.hasDataError (s : State) (a n : Nat) : Bool :=
  s.dramErr.any (fun w => decide (w * 8 < a + n) && decide (a < w * 8 + 8))

/-! ## Breakpoints and watchpoints (R74, R637) -/

/-- Control byte `i` of `BP_CTL` or `WP_CTL` is enabled at a level. -/
def ctlMatches (ctl : Word64) (i : Nat) (priv : BitVec 2) : Bool :=
  bitAt ctl (8 * i) && bitAt ctl (8 * i + (if priv = privU then 1 else if priv = privS then 2 else 3))

/-- What the matching entries ask for: nothing, one exception, or debug halt if any has HALT set (R637). -/
inductive MatchAction where
  | none | raise | halt
deriving DecidableEq, Repr

def matchAction (ctl : Word64) (hits : List Nat) : MatchAction :=
  if hits.isEmpty then .none else if hits.any (fun i => bitAt ctl (8 * i + 4)) then .halt else .raise

/-- Breakpoints on the instruction about to execute, whose word is at `pc` aligned to 4 bytes (R48, R74). -/
def Core.breakpoint (k : Core) : MatchAction :=
  matchAction k.bpCtl ((List.range 8).filter (fun i =>
    ctlMatches k.bpCtl i k.priv && (k.pc &&& ~~~3#64) == (k.bpAddr.toList.getD i 0 &&& ~~~3#64)))

/-- Watchpoints on an access: LOAD matches loads, atomics and descriptor reads, STORE matches stores and atomics. -/
def Core.watchpoint (k : Core) (kind : AccessKind) (a : Word64) (n : Nat) : MatchAction :=
  matchAction k.wpCtl ((List.range 4).filter (fun i =>
    let mask := k.wpMask.toList.getD i 0
    ctlMatches k.wpCtl i k.priv
      && ((bitAt k.wpCtl (8 * i + 5) && (kind == .load || kind == .atomic))
        || (bitAt k.wpCtl (8 * i + 6) && (kind == .store || kind == .atomic)))
      && (List.range n).any (fun b =>
          (a + BitVec.ofNat 64 b) &&& ~~~mask == (k.wpAddr.toList.getD i 0 &&& ~~~mask))))

/-! ## Issue and data accesses (R73) -/

/-- A core executes instructions: out of reset, PC's polder on, not halted, not waiting, not held by the supervisor. -/
def State.canRun (s : State) (c : CoreId) : Bool :=
  let k := s.core c
  s.outOfReset c && s.polderOn polPC && !k.halted && k.wait.isNone && k.duty == .free

/-- What happens where an instruction would start (R73): the core does not run, an earlier event is acted on, or it starts. -/
inductive Issue where
  | stays
  | acted (s : State)
  | go

/-- The events that fall on an instruction before it starts, in the order of R73: interrupt, breakpoint, fetch. -/
def State.issue (s : State) (c : CoreId) : Issue :=
  if !s.canRun c then .stays
  else
    let k := s.core c
    match s.irqReady c with
    | some n => .acted (s.takeInterrupt c n)
    | none =>
      match k.breakpoint with
      | .halt => .acted (s.enterHalt c 2)
      | .raise => .acted (s.raise c excBreakpoint k.pc)
      | .none =>
        let at_ := k.pc &&& ~~~3#64
        if !s.accessAllowed c .fetch at_ 4 false then .acted (s.raise c excFetchAccess at_)
        else if s.hasDataError at_.toNat 4 then .acted (s.raise c excDataError at_)
        else .go

/-- An instruction with a legal word runs its body; one with an illegal word raises ILLEGAL with the word as value (R50, R51,
R68). -/
def State.runInsn (s : State) (c : CoreId) (word : Word32) (legal : Bool) (body : State → State) : State :=
  match s.issue c with
  | .stays => s
  | .acted s' => s'
  | .go => if legal then body s else s.raise c excIllegal (word.setWidth 64)

/-- The checks of a data access, in the order of R73: alignment, watchpoint, access, data error. `none`: it may be made. -/
def State.checkAccess (s : State) (c : CoreId) (kind : AccessKind) (a : Word64) (n : Nat) (scalar : Bool) : Option State :=
  let store := kind == .store || kind == .atomic
  if !isAligned a.toNat n then some (s.raise c (if store then excStoreAlign else excLoadAlign) a)
  else match (s.core c).watchpoint kind a n with
    | .halt => some (s.enterHalt c 3)
    | .raise => some (s.raise c excWatchpoint a)
    | .none =>
      if !s.accessAllowed c kind a n scalar then some (s.raise c (if store then excStoreAccess else excLoadAccess) a)
      else if kind != .store && s.hasDataError a.toNat n then some (s.raise c excDataError a)
      else none

/-- What memory outside the register space holds at a physical address (R621). -/
def State.physByte (s : State) (a : Nat) : Byte :=
  match s.regionAt a 1 with
  | .rom => Config.rom a
  | .bootFlash => Mem.get s.bootFlash (a - 0x10000000)
  | _ => Mem.get s.dram a

/-- `n` bytes of it. -/
def State.physBytes (s : State) (a n : Nat) : List Byte := (List.range n).map (fun i => s.physByte (a + i))

/-- DRAM written: a stored word is whole again, so its error is gone. -/
def State.writeDram (s : State) (a : Nat) (bs : List Byte) : State :=
  { s with dram := Mem.store s.dram a bs,
           dramErr := s.dramErr.filter (fun w => !(decide (a ≤ w * 8) && decide (w * 8 + 8 ≤ a + bs.length))) }

/-! ## Tickets (R59, R62) -/

/-- The ticket of an issue number, passing over 0. -/
def ticketOf (n : Nat) : Ticket := BitVec.ofNat 32 ((n - 1) % (2 ^ 32 - 1) + 1)

/-- `TICKET_NEXT` (R66). -/
def Core.ticketNext (k : Core) : Ticket := ticketOf (k.issued + 1)

/-- How many tickets were issued after `t`; `none` for 0 and for a ticket not yet issued (R62). -/
def Core.ticketAge (k : Core) (t : Ticket) : Option Nat :=
  if t = 0 || k.issued = 0 then none
  else
    let newest := (ticketOf k.issued).toNat
    let age := (newest + (2 ^ 32 - 1) - t.toNat) % (2 ^ 32 - 1)
    if age < 2 ^ 31 && age < k.issued then some age else none

/-- The ticket that would share the next ticket's entry is still outstanding (R59). -/
def Core.entryHeld (k : Core) : Bool :=
  match k.tickets[4095]? with
  | some e => e.status.isNone
  | none => false

/-- Issue a ticket; the table keeps the latest 4,096. -/
def Core.issueTicket (k : Core) (cls : Nat) (status : Option Byte) : Core :=
  { k with issued := k.issued + 1, tickets := (⟨cls, status⟩ :: k.tickets).take 4096 }

/-- Append a completed ticket to its core's ticket-interrupt queue, or set OVF where it is full (R105). -/
def Core.queueTicket (k : Core) (t : Ticket) : Core :=
  if k.tki.length < 64 then { k with tki := k.tki ++ [t] } else { k with tkiOvf := true }

/-- A ticket completes for `wtc`, `tkp` and `fnc` (R102). -/
def Core.completeTicket (k : Core) (t : Ticket) (status : Byte) : Core :=
  match k.ticketAge t with
  | some age => { k with tickets := k.tickets.modify age (fun e => { e with status := some status }) }
  | none => k

/-- The result of `wtc` and `tkp` for an issued ticket (R62): `none` while it is outstanding. -/
def Core.ticketResult (k : Core) (age : Nat) : Option Word64 :=
  if age ≥ 4096 then some 0x100
  else match k.tickets[age]? with
    | some e => e.status.map (fun st => st.setWidth 64)
    | none => some 0x100

/-- Outstanding tickets, with bit n of the mask selecting class n and 0 every class (R64). -/
def Core.outstanding (k : Core) (mask : BitVec 16) : Bool :=
  k.tickets.any (fun e => e.status.isNone && (mask == 0 || bitAt mask e.cls))

/-- `TICKET_OLDEST` (R66). -/
def Core.ticketOldest (k : Core) : Ticket :=
  match (k.tickets.reverse.findIdx? (fun e => e.status.isNone)) with
  | some i => ticketOf (k.issued - (k.tickets.length - 1 - i))
  | none => k.ticketNext

/-- Every descriptor this core submitted is complete (R79 DRAINED). -/
def Core.drained (k : Core) : Bool := !k.outstanding 0

end Sys2Proof.Machine
end

