-- ==== Sys2Proof/Machine/Operands.lean ====
section
/-!
DEFINITION. Instruction words (R48 to R51, R55 to R58, and the ST table of R65): the word each format and operation is encoded
as, which is also what `TRAP_VAL` holds for ILLEGAL and PRIVILEGED, and which words are assigned.
-/

namespace Sys2Proof.Machine

/-- The RRR word (R48). -/
def wordRrr (op : Nat) (f : Rrr) (func : Nat) : Word32 :=
  BitVec.ofNat 32 (op * 2 ^ 26 + f.rd.toNat * 2 ^ 21 + f.ra.toNat * 2 ^ 16 + f.rb.toNat * 2 ^ 11 + func)

/-- The RRI word (R48). -/
def wordRri (op : Nat) (f : Rri) : Word32 :=
  BitVec.ofNat 32 (op * 2 ^ 26 + f.rd.toNat * 2 ^ 21 + f.ra.toNat * 2 ^ 16 + f.imm.toNat)

/-- A shift-immediate word, opcode 0x0E, with the selector in imm[7:6] (R52). -/
def wordShift (sel : Nat) (f : ShiftImm) : Word32 :=
  BitVec.ofNat 32 (0x0E * 2 ^ 26 + f.rd.toNat * 2 ^ 21 + f.ra.toNat * 2 ^ 16 + f.upper.toNat * 256 + sel * 64 + f.shamt.toNat)

/-- The BR word (R48). -/
def wordBr (op : Nat) (f : Br) : Word32 :=
  BitVec.ofNat 32 (op * 2 ^ 26 + f.ra.toNat * 2 ^ 21 + f.rb.toNat * 2 ^ 16 + f.off.toNat)

/-- The J word (R48). -/
def wordJ (op : Nat) (off : BitVec 26) : Word32 := BitVec.ofNat 32 (op * 2 ^ 26 + off.toNat)

/-- The ST word (R48). -/
def wordSt (op fn : Nat) (f : St) : Word32 :=
  BitVec.ofNat 32 (op * 2 ^ 26 + f.cls.toNat * 2 ^ 22 + f.ring.toNat * 2 ^ 12 + f.rd.toNat * 2 ^ 7 + f.ra.toNat * 4 + fn)

/-- The SYS word (R48). -/
def wordSys (fn : Nat) (f : Sys) : Word32 :=
  BitVec.ofNat 32 (0x38 * 2 ^ 26 + f.rd.toNat * 2 ^ 21 + f.ra.toNat * 2 ^ 16 + f.csr.toNat * 16 + fn)

/-- An atomic's word: ORD in func[10:9], size in func[8], operation in func[7:0] (R55). -/
def wordAtom (oper : Nat) (f : Atom) : Word32 := wordRrr 0x03 f.regs (f.ord.toNat * 512 + f.wide.toNat * 256 + oper)

/-- A vector word: lane width in func[10:9], operation in func[8:0] (R56, R57). -/
def wordVec (op oper : Nat) (f : Vec) : Word32 := wordRrr op f.regs (f.width.toNat * 512 + oper)

/-- A vector register field is legal: its bit 4 is clear (R51). -/
def vregOk (r : RegField) : Bool := !bitAt r 4

/-! ## Which words are assigned (R50, R51) -/

/-- The integer ALU functions of opcode 0x01 whose rb field is unused (R52). -/
def aluUnary (func : Nat) : Bool := decide (0x20 ≤ func) && decide (func ≤ 0x25)

/-- The functions of opcode 0x01 (R52). -/
def aluFunc (func : Nat) : Bool :=
  decide (func ≤ 0x0D) || func == 0x10 || func == 0x11 || (decide (0x15 ≤ func) && decide (func ≤ 0x17)) || aluUnary func

/-- The functions of opcode 0x02 (R52). -/
def mulFunc (func : Nat) : Bool := decide (func ≤ 2) || (decide (4 ≤ func) && decide (func ≤ 7))

/-- The operations of opcode 0x04 (R56). -/
def vecOper (oper : Nat) : Bool :=
  decide (oper ≤ 0x0C) || (decide (0x10 ≤ oper) && decide (oper ≤ 0x12)) || (decide (0x20 ≤ oper) && decide (oper ≤ 0x23))

/-- The register fields a vector integer operation leaves unused or takes as vector registers are legal (R51, R56). -/
def vecFieldsOk (oper : Nat) (rd ra rb : RegField) : Bool :=
  if oper = 0x20 then vregOk rd && rb == 0
  else if oper = 0x21 then vregOk ra
  else if oper = 0x22 then vregOk rd
  else if oper = 0x23 then vregOk ra && rb == 0
  else vregOk rd && vregOk ra && vregOk rb

/-- The register fields of a vector floating-point operation are legal (R51, R57). -/
def vecFloatFieldsOk (oper : Nat) (rd ra rb : RegField) : Bool :=
  vregOk rd && vregOk ra && (if oper = 6 || oper = 7 then rb == 0 else vregOk rb)

/-- A word is an assigned encoding (R50, R51). -/
def assigned (w : Word32) : Bool :=
  let op := natAt w 26 6
  let rd : RegField := bitsAt w 21 5
  let ra : RegField := bitsAt w 16 5
  let rb : RegField := bitsAt w 11 5
  let func := natAt w 0 11
  let oper := natAt w 0 9
  match op with
  | 0x01 => aluFunc func && (!aluUnary func || rb == 0)
  | 0x02 => mulFunc func
  | 0x03 => decide (1 ≤ natAt w 0 8) && decide (natAt w 0 8 ≤ 0x0A)
  | 0x04 => vecOper oper && vecFieldsOk oper rd ra rb
  | 0x05 => decide (oper ≤ 7) && bitAt w 10 && vecFloatFieldsOk oper rd ra rb
  | 0x0E => natAt w 8 8 == 0 && natAt w 6 2 != 3
  | 0x0F => ra == 0
  | 0x1B | 0x20 => vregOk rd
  | 0x30 =>
    match natAt w 0 2 with
    | 0 => true
    | 3 => natAt w 7 19 == 0
    | _ => natAt w 12 14 == 0
  | 0x31 => natAt w 0 2 == 0 && natAt w 12 14 == 0 && natAt w 2 5 == 0
  | 0x38 =>
    match natAt w 0 4 with
    | 0x0 => ra == 0
    | 0x1 | 0x2 | 0x3 => true
    | 0x4 | 0x5 | 0x8 | 0x9 | 0xA | 0xB => natAt w 4 22 == 0
    | _ => false
  | _ =>
    (decide (0x08 ≤ op) && decide (op ≤ 0x0D)) || op == 0x10 || (decide (0x14 ≤ op) && decide (op ≤ 0x1F))
      || (decide (0x24 ≤ op) && decide (op ≤ 0x29)) || op == 0x2C || op == 0x2D

/-! ## Operand values -/

/-- A sign-extended immediate (R49). -/
def simm (imm : BitVec 16) : Word64 := imm.signExtend 64

/-- A zero-extended immediate (R49). -/
def zimm (imm : BitVec 16) : Word64 := imm.setWidth 64

/-- The effective address of an RRI access (R54). -/
def Core.ea (k : Core) (f : Rri) : Word64 := k.reg f.ra + simm f.imm

/-- A branch or jump target: words counted from the instruction's own address (R49). -/
def relTarget (pc : Word64) {n : Nat} (off : BitVec n) : Word64 := pc + (off.signExtend 64) * 4

end Sys2Proof.Machine
end

