-- ==== Sys2Proof/WellFormed.lean ====
section
/-!
DEFINITION. Which commands a sender of the SN-1 can spell: the operands that a sum of plain numbers and lists in `Instr` allows
but no sender has. `exec` is total on the others too; a claim may ask for `Instr.wf`.
-/

namespace Sys2Proof

open Machine

/-- A Krytha ADD step meets an ADD word, or a word that R50 and R51 leave unassigned. -/
def AddWord.wf : AddWord → Bool
  | .add _ => true
  | .unassigned w => !assigned w

/-- A manager's command carries one 64-byte entry (R116, R421). -/
def CmdSrc.wf : CmdSrc → Bool
  | .ring _ => true
  | .manager _ entry _ => entry.length == 64

/-- A reservation names each core once, a code block for each core, and a base and a context for each ring (R117, R632). -/
def Placement.wf (p : Placement) : Bool :=
  decide p.cores.Nodup && p.code.length == p.cores.length && p.bases.length == p.rings.length && p.qcns.length == p.rings.length

/-- The host stores to 64-bit addresses (R434). -/
def storesWf (l : List (Nat × List Byte)) : Bool := l.all (fun e => decide (e.1 + e.2.length ≤ 2 ^ 64))

/-- The units a TRIM takes lie in its range: runs rise and do not overlap (R335). -/
def runsWf : List (Nat × Nat) → Bool
  | [] => true
  | [r] => decide (0 < r.2)
  | r :: q :: l => decide (0 < r.2) && decide (r.1 + r.2 ≤ q.1) && runsWf (q :: l)

/-- A packet's header fields fit their widths, and it carries at most one path MTU (R359, R362). -/
def NetBody.wf : NetBody → Bool
  | .send _ _ d => decide (d.length ≤ 4096)
  | .write _ _ a k n i d =>
    decide (a < 2 ^ 64) && decide (k < 2 ^ 32) && decide (n < 2 ^ 32) && i.all (fun x => decide (x < 2 ^ 32)) && decide (d.length ≤ 4096)
  | .readReq a k n => decide (a < 2 ^ 64) && decide (k < 2 ^ 32) && decide (n < 2 ^ 32)
  | .readResp _ d => decide (d.length ≤ 4096)
  | .ack | .nak _ | .cnp | .refused => true

/-- A die answers with one, two or four planes and at least one block and page (R286). -/
def DieIdent.wf (d : DieIdent) : Bool :=
  (d.planes == 1 || d.planes == 2 || d.planes == 4) && decide (0 < d.pages) && decide (0 < d.blocks)
    && d.factoryBad.all (fun b => decide (b < d.blocks))

/-- A codeword decodes at a retry entry of 1 to 15, if at any, and CHECK fails at one of the decode steps 1 to 3 (R300). -/
def CellState.wf (c : CellState) : Bool :=
  c.retry.all (fun r => decide (1 ≤ r) && decide (r ≤ 15)) && c.miscorrects.all (fun k => decide (1 ≤ k) && decide (k ≤ 3))

/-- A command that a sender can spell. -/
def Instr.wf : Instr → Bool
  | .add _ w => w.wf
  | .sqTail _ _ l => storesWf l
  | .nvmeDoorbell _ _ _ _ l => storesWf l
  | .recipeLoad src place => src.wf && place.wf
  | .recipeLaunch src | .recipeUnload src | .recipeStatus src | .cmdSpaceCreate src | .cmdSpaceDelete src | .nsAttach src
  | .caskGrant src | .grantWithdraw src => src.wf
  | .gristReadIssue rebuilt => rebuilt.all (fun e => e.1.length == 32)
  | .grant _ msg => msg.length == 64
  | .decline _ msg => msg.length == 64
  | .trim _ _ runs => runsWf runs
  | .datasetManagement _ runs => runs.all runsWf
  | .packetReceive p _ _ => p.body.wf
  | .channelTraining _ dies _ => decide (dies.map Prod.fst).Nodup && dies.all (fun d => d.2.wf)
  | .codewordRead _ _ _ _ _ shows => shows.wf
  | .mount copies _ => decide (copies ≤ 2)
  | .puntFrame _ frame => decide (frame.length ≤ 9216)
  | .controllerEnable _ asq acq _ _ _ _ => decide (asq < 2 ^ 64) && decide (acq < 2 ^ 64)
  | .dropMap _ _ positions maps => decide (positions ≤ 65536) && maps.all (fun m => m.all (fun p => decide (p < positions)))
  | .managerTakeover grants => decide (1 ≤ grants.length) && decide (grants.length ≤ 5)
  | .coldStart chans _ _ _ => decide (chans.length ≤ 12)
  | .firmwareImageDownload _ _ data => data.length % 4 == 0
  | _ => true

end Sys2Proof
end

