-- ==== Sys2Proof/Decode.lean ====
section
/-!
DEFINITION. The command a word of the opcode table spells. No row of the table gives bits, so no word spells one; the words of
Krytha instructions are those of `Machine/Operands.lean`.
-/

namespace Sys2Proof

/-- The command whose table bits are `w`: no row has table bits. -/
def decodeTableWord (_nbits _w : Nat) : Option Instr := none

end Sys2Proof
end

