-- ==== Sys2Proof/Machine/Float.lean ====
section
/-!
DEFINITION. Binary floating point by exact arithmetic and one rounding to nearest, ties to even (R57, R209, R210).
A finite value is an exact dyadic number; every operation is computed exactly and narrowed once.
-/

namespace Sys2Proof.Machine

/-- What the top exponent of a format means. -/
inductive FloatKind where
  | ieee     -- infinities and NaNs
  | nanOnly  -- FP8 E4M3: no infinity, NaN at all ones
  | finite   -- FP6 and FP4: no infinity and no NaN
deriving DecidableEq, Repr

/-- A binary format: exponent bits, fraction bits, and what its top exponent means. -/
structure FloatFmt where
  ebits : Nat
  mbits : Nat
  kind : FloatKind
deriving DecidableEq, Repr

def fp32 : FloatFmt := ⟨8, 23, .ieee⟩
def fp64 : FloatFmt := ⟨11, 52, .ieee⟩
def bf16 : FloatFmt := ⟨8, 7, .ieee⟩
def fp16 : FloatFmt := ⟨5, 10, .ieee⟩
def fp8e5m2 : FloatFmt := ⟨5, 2, .ieee⟩
def fp8e4m3 : FloatFmt := ⟨4, 3, .nanOnly⟩
def fp6e3m2 : FloatFmt := ⟨3, 2, .finite⟩
def fp6e2m3 : FloatFmt := ⟨2, 3, .finite⟩
def fp4e2m1 : FloatFmt := ⟨2, 1, .finite⟩

/-- An exact value: NaN (with whether it signals), an infinity, or ± m × 2^e. -/
inductive FVal where
  | nan (signalling : Bool)
  | inf (neg : Bool)
  | fin (neg : Bool) (m : Nat) (e : Int)
deriving DecidableEq, Repr

/-- The conditions an operation meets, in the order of FFLAGS (R66). -/
structure FFlags where
  invalid : Bool := false
  divZero : Bool := false
  overflow : Bool := false
  underflow : Bool := false
  inexact : Bool := false
deriving DecidableEq, Repr

/-- FFLAGS bits [4:0] (R66). -/
def FFlags.bits (f : FFlags) : Nat :=
  f.invalid.toNat * 16 + f.divZero.toNat * 8 + f.overflow.toNat * 4 + f.underflow.toNat * 2 + f.inexact.toNat

def FFlags.or (a b : FFlags) : FFlags :=
  ⟨a.invalid || b.invalid, a.divZero || b.divZero, a.overflow || b.overflow, a.underflow || b.underflow,
   a.inexact || b.inexact⟩

def FloatFmt.width (f : FloatFmt) : Nat := 1 + f.ebits + f.mbits
def FloatFmt.bias (f : FloatFmt) : Nat := 2 ^ (f.ebits - 1) - 1
/-- The exponent of the last fraction bit of the smallest binade. -/
def FloatFmt.qmin (f : FloatFmt) : Int := 1 - (f.bias : Int) - (f.mbits : Int)
/-- The magnitude bits of the canonical quiet NaN (R57, R210). -/
def FloatFmt.nanBits (f : FloatFmt) : Nat :=
  match f.kind with
  | .ieee => (2 ^ f.ebits - 1) * 2 ^ f.mbits + 2 ^ (f.mbits - 1)
  | .nanOnly => 2 ^ (f.ebits + f.mbits) - 1
  | .finite => 2 ^ (f.ebits + f.mbits) - 1
/-- The magnitude bits of infinity. -/
def FloatFmt.infBits (f : FloatFmt) : Nat := (2 ^ f.ebits - 1) * 2 ^ f.mbits
/-- The magnitude bits of the largest finite value. -/
def FloatFmt.maxBits (f : FloatFmt) : Nat :=
  match f.kind with
  | .ieee => f.infBits - 1
  | .nanOnly => 2 ^ (f.ebits + f.mbits) - 2
  | .finite => 2 ^ (f.ebits + f.mbits) - 1

/-- The exact value that a bit pattern stands for. -/
def FloatFmt.decode (f : FloatFmt) (w : Nat) : FVal :=
  let neg := (w >>> (f.ebits + f.mbits)) % 2 == 1
  let mag := w % 2 ^ (f.ebits + f.mbits)
  let ef := mag / 2 ^ f.mbits
  let fr := mag % 2 ^ f.mbits
  let finiteVal := if ef = 0 then FVal.fin neg fr f.qmin else FVal.fin neg (2 ^ f.mbits + fr) (f.qmin + (ef : Int) - 1)
  match f.kind with
  | .ieee =>
    if ef = 2 ^ f.ebits - 1 then (if fr = 0 then .inf neg else .nan (fr < 2 ^ (f.mbits - 1))) else finiteVal
  | .nanOnly => if mag = f.nanBits then .nan false else finiteVal
  | .finite => finiteVal

/-- Divide and round to nearest, ties to even; the flag says the quotient was not exact. -/
def divRne (n d : Nat) : Nat × Bool :=
  let q := n / d
  let r := n % d
  let up := 2 * r > d || (2 * r == d && q % 2 == 1)
  (q + up.toNat, r != 0)

/-- The exponent of the leading bit of a positive rational, floor (log2 (n ÷ d)). -/
def log2Ratio (n d : Nat) : Int :=
  let k : Int := (Nat.log2 n : Int) - (Nat.log2 d : Int)
  let le (j : Int) : Bool := if 0 ≤ j then decide (d * 2 ^ j.toNat ≤ n) else decide (d ≤ n * 2 ^ (-j).toNat)
  if le (k + 1) then k + 1 else if le k then k else k - 1

/-- A positive rational n ÷ d × 2^e in units of 2^q, rounded to nearest even. -/
def quantise (n d : Nat) (e q : Int) : Nat × Bool :=
  let s := e - q
  if 0 ≤ s then divRne (n * 2 ^ s.toNat) d else divRne n (d * 2 ^ (-s).toNat)

/-- Round a non-zero rational ± n ÷ d × 2^e to a format: the magnitude bits before the top of the format is applied,
whether the result is inexact, and whether it is tiny. -/
def FloatFmt.roundMag (f : FloatFmt) (n d : Nat) (e : Int) : Nat × Bool × Bool :=
  let lead := log2Ratio n d + e
  let q := max (lead - (f.mbits : Int)) f.qmin
  let (m, inexact) := quantise n d e q
  let bits := (q - f.qmin).toNat * 2 ^ f.mbits + m
  let emin := f.qmin + (f.mbits : Int)
  let tinyBefore := decide (lead < emin)
  let (m', _) := quantise n d e (lead - (f.mbits : Int))
  let tinyAfter := decide (lead < emin) && !(decide (lead = emin - 1) && m' == 2 ^ (f.mbits + 1))
  (bits, inexact, if Config.tininessAfterRounding then tinyAfter else tinyBefore)

/-- The sign bit of a format. -/
def FloatFmt.signed (f : FloatFmt) (neg : Bool) (mag : Nat) : Nat := neg.toNat * 2 ^ (f.ebits + f.mbits) + mag

/-- Round ± n ÷ d × 2^e with overflow to infinity, as IEEE 754 arithmetic does (R57). -/
def FloatFmt.roundRat (f : FloatFmt) (neg : Bool) (n d : Nat) (e : Int) : Nat × FFlags :=
  if n = 0 then (f.signed neg 0, {})
  else
    let (bits, inexact, tiny) := f.roundMag n d e
    if bits ≥ f.infBits then (f.signed neg f.infBits, { overflow := true, inexact := true })
    else (f.signed neg bits, { underflow := tiny && inexact, inexact := inexact })

/-- Round an exact value with overflow to infinity. -/
def FloatFmt.round (f : FloatFmt) : FVal → Nat × FFlags
  | .nan sig => (f.nanBits, { invalid := sig })
  | .inf neg => (f.signed neg f.infBits, {})
  | .fin neg m e => f.roundRat neg m 1 e

/-- Convert an exact value to a format, saturating to its largest finite value (R210). -/
def FloatFmt.saturate (f : FloatFmt) : FVal → Nat
  | .nan _ => f.nanBits
  | .inf neg => f.signed neg f.maxBits
  | .fin neg m e =>
    if m = 0 then f.signed neg 0 else f.signed neg (min f.maxBits (f.roundMag m 1 e).1)

namespace FVal

/-- The signed integer numerator of a finite value in units of 2^e'. -/
def scaledTo (neg : Bool) (m : Nat) (e e' : Int) : Int :=
  let v : Int := (m * 2 ^ (e - e').toNat : Nat)
  if neg then -v else v

/-- An exact sum; the sign of an exact zero is positive unless both terms are negative zeros (round to nearest). -/
def add : FVal → FVal → FVal
  | .nan a, .nan b => .nan (a || b)
  | .nan a, _ => .nan a
  | _, .nan b => .nan b
  | .inf a, .inf b => if a = b then .inf a else .nan true
  | .inf a, _ => .inf a
  | _, .inf b => .inf b
  | .fin n1 m1 e1, .fin n2 m2 e2 =>
    let e := min e1 e2
    let v := scaledTo n1 m1 e1 e + scaledTo n2 m2 e2 e
    if v = 0 then .fin (n1 && n2) 0 e else .fin (decide (v < 0)) v.natAbs e

/-- The value with its sign changed. -/
def neg : FVal → FVal
  | .nan s => .nan s
  | .inf n => .inf (!n)
  | .fin n m e => .fin (!n) m e

/-- An exact product. -/
def mul : FVal → FVal → FVal
  | .nan a, .nan b => .nan (a || b)
  | .nan a, _ => .nan a
  | _, .nan b => .nan b
  | .inf a, .inf b => .inf (a != b)
  | .inf a, .fin n m _ => if m = 0 then .nan true else .inf (a != n)
  | .fin n m _, .inf b => if m = 0 then .nan true else .inf (n != b)
  | .fin n1 m1 e1, .fin n2 m2 e2 => .fin (n1 != n2) (m1 * m2) (e1 + e2)

/-- Less than, on values that are no NaN; the zeros are equal. -/
def lt : FVal → FVal → Bool
  | .nan _, _ => false
  | _, .nan _ => false
  | .inf a, .inf b => a && !b
  | .inf a, .fin _ _ _ => a
  | .fin _ _ _, .inf b => !b
  | .fin n1 m1 e1, .fin n2 m2 e2 =>
    let e := min e1 e2
    decide (scaledTo n1 m1 e1 e < scaledTo n2 m2 e2 e)

def isNan : FVal → Bool
  | .nan _ => true
  | _ => false

def isInf : FVal → Bool
  | .inf _ => true
  | _ => false

def isNeg : FVal → Bool
  | .nan _ => false
  | .inf n => n
  | .fin n _ _ => n

def isZero : FVal → Bool
  | .fin _ m _ => m == 0
  | _ => false

/-- The nearest integer, ties to even, of a finite value. -/
def toIntRne : FVal → Int
  | .fin n m e => let (q, _) := quantise m 1 e 0; if n then -(q : Int) else (q : Int)
  | _ => 0

/-- The greatest integer not above a finite value. -/
def toIntFloor : FVal → Int
  | .fin n m e =>
    let v : Int := if n then -(m : Int) else (m : Int)
    if 0 ≤ e then v * 2 ^ e.toNat else Int.fdiv v (2 ^ (-e).toNat)
  | _ => 0

/-- An integer as an exact value. -/
def ofInt (v : Int) : FVal := .fin (decide (v < 0)) v.natAbs 0

end FVal

/-- An operation on bit patterns of one format: decode, compute exactly, round once (R57). -/
def FloatFmt.add (f : FloatFmt) (a b : Nat) : Nat × FFlags := f.round ((f.decode a).add (f.decode b))
def FloatFmt.sub (f : FloatFmt) (a b : Nat) : Nat × FFlags := f.round ((f.decode a).add (f.decode b).neg)
def FloatFmt.mul (f : FloatFmt) (a b : Nat) : Nat × FFlags := f.round ((f.decode a).mul (f.decode b))

/-- c + a × b rounded once (R57 vfma). -/
def FloatFmt.fma (f : FloatFmt) (c a b : Nat) : Nat × FFlags :=
  let p := (f.decode a).mul (f.decode b)
  let fresh := p.isNan && !(f.decode a).isNan && !(f.decode b).isNan
  match f.decode c with
  | .nan s => (f.nanBits, { invalid := s || (if fresh then Config.fmaInvalidOnQuietNan else decide (p = .nan true)) })
  | x => f.round (x.add p)

/-- A quotient rounded once (R210, R212). -/
def FloatFmt.div (f : FloatFmt) (a b : Nat) : Nat × FFlags :=
  match f.decode a, f.decode b with
  | .nan s, .nan t => (f.nanBits, { invalid := s || t })
  | .nan s, _ => (f.nanBits, { invalid := s })
  | _, .nan t => (f.nanBits, { invalid := t })
  | .inf _, .inf _ => (f.nanBits, { invalid := true })
  | .inf n, .fin m _ _ => (f.signed (n != m) f.infBits, {})
  | .fin n _ _, .inf m => (f.signed (n != m) 0, {})
  | .fin n1 m1 e1, .fin n2 m2 e2 =>
    if m2 = 0 then
      if m1 = 0 then (f.nanBits, { invalid := true }) else (f.signed (n1 != n2) f.infBits, { divZero := true })
    else f.roundRat (n1 != n2) m1 m2 (e1 - e2)

/-- IEEE 754-2019 minimum (`lo` true) or maximum: a NaN operand gives NaN, and −0 lies below +0. -/
def FloatFmt.minMax (f : FloatFmt) (lo : Bool) (a b : Nat) : Nat × FFlags :=
  match f.decode a, f.decode b with
  | .nan s, .nan t => (f.nanBits, { invalid := s || t })
  | .nan s, _ => (f.nanBits, { invalid := s })
  | _, .nan t => (f.nanBits, { invalid := t })
  | x, y =>
    let below := x.lt y || (x.isZero && y.isZero && x.isNeg && !y.isNeg)
    (if below = lo then a else (if x.lt y || y.lt x || x.isNeg != y.isNeg then b else a), {})

/-- A float lane to a signed integer of `w` bits, to nearest even, saturating; NaN gives 0 (R57). -/
def FloatFmt.toSigned (f : FloatFmt) (w a : Nat) : Nat × FFlags :=
  match f.decode a with
  | .nan _ => (0, { invalid := true })
  | .inf n => (if n then 2 ^ (w - 1) else 2 ^ (w - 1) - 1, { invalid := true })
  | .fin n m e =>
    let v := (FVal.fin n m e).toIntRne
    if v < -(2 ^ (w - 1)) then (2 ^ (w - 1), { invalid := true })
    else if v > 2 ^ (w - 1) - 1 then (2 ^ (w - 1) - 1, { invalid := true })
    else (intBits w v, { inexact := (quantise m 1 e 0).2 })

/-- A signed integer of `w` bits to a float (R57). -/
def FloatFmt.ofSigned (f : FloatFmt) (w a : Nat) : Nat × FFlags := f.round (FVal.ofInt (asInt w a))

/-- One bit pattern of a format as an exact value of another, saturated (R210). -/
def FloatFmt.convertTo (src dst : FloatFmt) (a : Nat) : Nat := dst.saturate (src.decode a)

/-- A format's value as a saturated INT8, NaN giving 0 (R210). -/
def FloatFmt.toInt8 (f : FloatFmt) (a : Nat) : Nat := (f.toSigned 8 a).1

end Sys2Proof.Machine
end

