-- ==== Sys2Proof/Machine/Flags.lean ====
section
/-!
DEFINITION. The arithmetic of a core's integer, vector and floating-point instructions as functions of values (R52, R53, R56,
R57), and the sticky bits of `FFLAGS` (R66).
-/

namespace Sys2Proof.Machine

/-- 1 or 0 as a register value. -/
def boolWord (b : Bool) : Word64 := if b then 1 else 0

/-- The low 32 bits of a sum or other value, sign-extended (R52). -/
def sext32 (v : Word64) : Word64 := (v.setWidth 32).signExtend 64

/-- The bytes of the low `n` bytes of a value reversed, zero-extended (R52). -/
def byteSwap (n : Nat) (v : Word64) : Word64 := BitVec.ofNat 64 (leNat (leBytes n v.toNat).reverse)

/-- The signed quotient, rounded toward zero, without a trap (R52, R53). -/
def divSigned (a b : Word64) : Word64 := if b = 0 then BitVec.allOnes 64 else BitVec.ofInt 64 (a.toInt.tdiv b.toInt)

/-- The unsigned quotient (R53). -/
def divUnsigned (a b : Word64) : Word64 := if b = 0 then BitVec.allOnes 64 else BitVec.ofNat 64 (a.toNat / b.toNat)

/-- The signed remainder, with the sign of `a` (R52, R53). -/
def remSigned (a b : Word64) : Word64 := if b = 0 then a else BitVec.ofInt 64 (a.toInt.tmod b.toInt)

/-- The unsigned remainder (R53). -/
def remUnsigned (a b : Word64) : Word64 := if b = 0 then a else BitVec.ofNat 64 (a.toNat % b.toNat)

/-- The new value an atomic writes, on `n`-bit values (R55); `cmp` is rd on entry. -/
def atomicNew {n : Nat} (oper : Nat) (old b cmp : BitVec n) : BitVec n :=
  match oper with
  | 0x01 => old + b
  | 0x02 => b
  | 0x03 => old &&& b
  | 0x04 => old ||| b
  | 0x05 => old ^^^ b
  | 0x06 => if old.slt b then b else old
  | 0x07 => if b.slt old then b else old
  | 0x08 => if old < b then b else old
  | 0x09 => if b < old then b else old
  | _ => if old = cmp then b else old

/-! ## Vector lanes (R35, R56) -/

/-- The lane width in bits of a width code (R56). -/
def laneBits (code : BitVec 2) : Nat := 8 * 2 ^ code.toNat

/-- Lane `i` of width `w`. -/
def laneOf (w : Nat) (v : VWord) (i : Nat) : BitVec w := v.extractLsb' (w * i) w

/-- A vector of lanes given in order. -/
def packLanes (w : Nat) (lanes : List (BitVec w)) : VWord :=
  BitVec.ofNat 512 (lanes.foldr (fun x acc => x.toNat + 2 ^ w * acc) 0)

/-- The lanes of a vector in order. -/
def lanesOf (w : Nat) (v : VWord) : List (BitVec w) := (List.range (512 / w)).map (laneOf w v)

/-- A lane-wise function of two vectors. -/
def mapLanes (w : Nat) (f : BitVec w → BitVec w → BitVec w) (a b : VWord) : VWord :=
  packLanes w ((List.range (512 / w)).map (fun i => f (laneOf w a i) (laneOf w b i)))

/-- One lane of a vector integer operation (R56): wrap within the lane, shifts modulo the lane width. -/
def laneOp (oper : Nat) {w : Nat} (a b : BitVec w) : BitVec w :=
  match oper with
  | 0x000 => a + b
  | 0x001 => a - b
  | 0x002 => a * b
  | 0x003 => a &&& b
  | 0x004 => a ||| b
  | 0x005 => a ^^^ b
  | 0x006 => if b.slt a then b else a
  | 0x007 => if a.slt b then b else a
  | 0x008 => if b < a then b else a
  | 0x009 => if a < b then b else a
  | 0x00A => a <<< (b.toNat % w)
  | 0x00B => a >>> (b.toNat % w)
  | 0x00C => a.sshiftRight (b.toNat % w)
  | 0x010 => if a = b then BitVec.allOnes w else 0
  | 0x011 => if a.slt b then BitVec.allOnes w else 0
  | _ => if a < b then BitVec.allOnes w else 0

/-- A vector integer operation on whole registers. -/
def vectorOp (oper : Nat) (code : BitVec 2) (a b : VWord) : VWord := mapLanes (laneBits code) (fun x y => laneOp oper x y) a b

/-- The sum of the lanes, added in increasing lane order, wrapping (R56). -/
def laneSum (w : Nat) (v : VWord) : BitVec w := (lanesOf w v).foldl (· + ·) 0

/-! ## Vector floating point (R57) -/

/-- The format of a lane width code: binary32 or binary64. -/
def laneFmt (code : BitVec 2) : FloatFmt := if code = 2 then fp32 else fp64

/-- One lane of a floating-point operation on bit patterns: c is the lane of rd on entry. -/
def floatLane (oper : Nat) (f : FloatFmt) (c a b : Nat) : Nat × FFlags :=
  match oper with
  | 0 => f.add a b
  | 1 => f.sub a b
  | 2 => f.mul a b
  | 3 => f.fma c a b
  | 4 => f.minMax true a b
  | 5 => f.minMax false a b
  | 6 => f.toSigned f.width a
  | _ => f.ofSigned f.width a

/-- A floating-point operation on whole registers, and the conditions any lane met. -/
def vectorFloat (oper : Nat) (code : BitVec 2) (c a b : VWord) : VWord × FFlags :=
  let f := laneFmt code
  let w := f.width
  let rs := (List.range (512 / w)).map (fun i =>
    floatLane oper f (laneOf w c i).toNat (laneOf w a i).toNat (laneOf w b i).toNat)
  (packLanes w (rs.map (fun r => BitVec.ofNat w r.1)), rs.foldl (fun acc r => acc.or r.2) {})

/-- Each condition sets its sticky bit in `FFLAGS` (R57). -/
def Core.raiseFlags (k : Core) (fl : FFlags) : Core := { k with fflags := k.fflags ||| BitVec.ofNat 5 fl.bits }

end Sys2Proof.Machine
end

