-- ==== Sys2Proof/Machine/Alu.lean ====
section
/-!
DEFINITION. The meanings of the integer, multiply, divide, vector and control-transfer instructions (R49 to R54, R56, R57).
-/

namespace Sys2Proof.Machine

/-- An instruction that writes one general register and moves on. -/
def State.writesReg (s : State) (c : CoreId) (word : Word32) (legal : Bool) (rd : RegField) (value : Core → Word64) : State :=
  s.runInsn c word legal (fun s => s.setCore c (((s.core c).setReg rd (value (s.core c))).retire c))

/-- An RRR instruction of opcode `op` and function `func` that writes rd from ra and rb. -/
def State.rrrOp (s : State) (c : CoreId) (op func : Nat) (f : Rrr) (g : Word64 → Word64 → Word64) : State :=
  s.writesReg c (wordRrr op f func) true f.rd (fun k => g (k.reg f.ra) (k.reg f.rb))

/-- An RRR instruction of one source, whose rb field must be g0 (R51, R52). -/
def State.unaryOp (s : State) (c : CoreId) (func : Nat) (f : Rrr) (g : Word64 → Word64) : State :=
  s.writesReg c (wordRrr 0x01 f func) (f.rb == 0) f.rd (fun k => g (k.reg f.ra))

/-- An RRI instruction that writes rd from ra and its immediate. -/
def State.rriOp (s : State) (c : CoreId) (op : Nat) (f : Rri) (g : Word64 → BitVec 16 → Word64) : State :=
  s.writesReg c (wordRri op f) true f.rd (fun k => g (k.reg f.ra) f.imm)

/-- A shift by an immediate (R52). -/
def State.shiftOp (s : State) (c : CoreId) (sel : Nat) (f : ShiftImm) (g : Word64 → Nat → Word64) : State :=
  s.writesReg c (wordShift sel f) (f.upper == 0) f.rd (fun k => g (k.reg f.ra) f.shamt.toNat)

/-- A conditional branch (R54). -/
def State.branchOp (s : State) (c : CoreId) (op : Nat) (f : Br) (taken : Word64 → Word64 → Bool) : State :=
  s.runInsn c (wordBr op f) true (fun s =>
    let k := s.core c
    s.setCore c (k.retireTo c (if taken (k.reg f.ra) (k.reg f.rb) then relTarget k.pc f.off else k.pc + 4)))

/-- A lane-wise vector integer instruction (R56). -/
def State.vecOp (s : State) (c : CoreId) (oper : Nat) (f : Vec) : State :=
  s.runInsn c (wordVec 0x04 oper f) (vecFieldsOk oper f.regs.rd f.regs.ra f.regs.rb) (fun s =>
    let k := s.core c
    s.setCore c ((k.setVreg f.regs.rd (vectorOp oper f.width (k.vreg f.regs.ra) (k.vreg f.regs.rb))).retire c))

/-- A vector floating-point instruction; lane widths below 32 bits are illegal (R57). -/
def State.vecFloatOp (s : State) (c : CoreId) (oper : Nat) (f : Vec) : State :=
  s.runInsn c (wordVec 0x05 oper f) (bitAt f.width 1 && vecFloatFieldsOk oper f.regs.rd f.regs.ra f.regs.rb) (fun s =>
    let k := s.core c
    let (v, fl) := vectorFloat oper f.width (k.vreg f.regs.rd) (k.vreg f.regs.ra) (k.vreg f.regs.rb)
    s.setCore c (((k.setVreg f.regs.rd v).raiseFlags fl).retire c))

/-- The outcome of every meaning that always completes. -/
abbrev Res := Host.Outcome State Fault Refusal

/-- ADD: ra + rb; a word that no encoding is assigned raises ILLEGAL (R50, R52). -/
def execAdd (c : CoreId) (w : AddWord) (s : State) : Res :=
  match w with
  | .add f => .next (s.rrrOp c 0x01 0x000 f (fun a b => a + b))
  | .unassigned word =>
    .next (if assigned word then s else s.runInsn c word false (fun s => s))

/-- DIF: ra − rb (R52). -/
def execDif (c : CoreId) (f : Rrr) (s : State) : Res := .next (s.rrrOp c 1 0x001 f (fun a b => a - b))

/-- AND: bitwise and (R52). -/
def execAnd (c : CoreId) (f : Rrr) (s : State) : Res := .next (s.rrrOp c 1 0x002 f (fun a b => a &&& b))

/-- OR: bitwise or (R52). -/
def execOr (c : CoreId) (f : Rrr) (s : State) : Res := .next (s.rrrOp c 1 0x003 f (fun a b => a ||| b))

/-- XOR: bitwise exclusive or (R52). -/
def execXor (c : CoreId) (f : Rrr) (s : State) : Res := .next (s.rrrOp c 1 0x004 f (fun a b => a ^^^ b))

/-- SLL: shift left by rb[5:0] (R52). -/
def execSll (c : CoreId) (f : Rrr) (s : State) : Res := .next (s.rrrOp c 1 0x005 f (fun a b => a <<< (natAt b 0 6)))

/-- SRL: logical shift right by rb[5:0] (R52). -/
def execSrl (c : CoreId) (f : Rrr) (s : State) : Res := .next (s.rrrOp c 1 0x006 f (fun a b => a >>> (natAt b 0 6)))

/-- SRA: arithmetic shift right by rb[5:0] (R52). -/
def execSra (c : CoreId) (f : Rrr) (s : State) : Res := .next (s.rrrOp c 1 0x007 f (fun a b => a.sshiftRight (natAt b 0 6)))

/-- SLT: 1 if ra < rb, signed (R52). -/
def execSlt (c : CoreId) (f : Rrr) (s : State) : Res := .next (s.rrrOp c 1 0x008 f (fun a b => boolWord (a.slt b)))

/-- SLTU: 1 if ra < rb, unsigned (R52). -/
def execSltu (c : CoreId) (f : Rrr) (s : State) : Res := .next (s.rrrOp c 1 0x009 f (fun a b => boolWord (a < b)))

/-- MIN: signed minimum (R52). -/
def execMin (c : CoreId) (f : Rrr) (s : State) : Res := .next (s.rrrOp c 1 0x00A f (fun a b => if b.slt a then b else a))

/-- MAX: signed maximum (R52). -/
def execMax (c : CoreId) (f : Rrr) (s : State) : Res := .next (s.rrrOp c 1 0x00B f (fun a b => if a.slt b then b else a))

/-- MINU: unsigned minimum (R52). -/
def execMinu (c : CoreId) (f : Rrr) (s : State) : Res := .next (s.rrrOp c 1 0x00C f (fun a b => if b < a then b else a))

/-- MAXU: unsigned maximum (R52). -/
def execMaxu (c : CoreId) (f : Rrr) (s : State) : Res := .next (s.rrrOp c 1 0x00D f (fun a b => if a < b then b else a))

/-- ADDW: the low 32 bits of the sum, sign-extended (R52). -/
def execAddw (c : CoreId) (f : Rrr) (s : State) : Res := .next (s.rrrOp c 1 0x010 f (fun a b => sext32 (a + b)))

/-- DIFW: the low 32 bits of the difference, sign-extended (R52). -/
def execDifw (c : CoreId) (f : Rrr) (s : State) : Res := .next (s.rrrOp c 1 0x011 f (fun a b => sext32 (a - b)))

/-- SLLW: 32-bit shift left by rb[4:0], sign-extended (R52). -/
def execSllw (c : CoreId) (f : Rrr) (s : State) : Res := .next (s.rrrOp c 1 0x015 f (fun a b => ((a.setWidth 32) <<< (natAt b 0 5)).signExtend 64))

/-- SRLW: 32-bit logical shift right, sign-extended (R52). -/
def execSrlw (c : CoreId) (f : Rrr) (s : State) : Res := .next (s.rrrOp c 1 0x016 f (fun a b => ((a.setWidth 32) >>> (natAt b 0 5)).signExtend 64))

/-- SRAW: 32-bit arithmetic shift right, sign-extended (R52). -/
def execSraw (c : CoreId) (f : Rrr) (s : State) : Res := .next (s.rrrOp c 1 0x017 f (fun a b => ((a.setWidth 32).sshiftRight (natAt b 0 5)).signExtend 64))

/-- MUL: low half of the product (R52). -/
def execMul (c : CoreId) (f : Rrr) (s : State) : Res := .next (s.rrrOp c 2 0x000 f (fun a b => a * b))

/-- MULH: high half of the signed product (R52). -/
def execMulh (c : CoreId) (f : Rrr) (s : State) : Res := .next (s.rrrOp c 2 0x001 f (fun a b => BitVec.ofInt 64 (a.toInt * b.toInt / 2 ^ 64)))

/-- MULHU: high half of the unsigned product (R52). -/
def execMulhu (c : CoreId) (f : Rrr) (s : State) : Res := .next (s.rrrOp c 2 0x002 f (fun a b => BitVec.ofNat 64 (a.toNat * b.toNat / 2 ^ 64)))

/-- DIV: signed quotient (R53). -/
def execDiv (c : CoreId) (f : Rrr) (s : State) : Res := .next (s.rrrOp c 2 0x004 f (fun a b => divSigned a b))

/-- DIVU: unsigned quotient (R53). -/
def execDivu (c : CoreId) (f : Rrr) (s : State) : Res := .next (s.rrrOp c 2 0x005 f (fun a b => divUnsigned a b))

/-- REM: signed remainder (R53). -/
def execRem (c : CoreId) (f : Rrr) (s : State) : Res := .next (s.rrrOp c 2 0x006 f (fun a b => remSigned a b))

/-- REMU: unsigned remainder (R53). -/
def execRemu (c : CoreId) (f : Rrr) (s : State) : Res := .next (s.rrrOp c 2 0x007 f (fun a b => remUnsigned a b))

/-- CLZ: leading zeros, 64 for zero (R52). -/
def execClz (c : CoreId) (f : Rrr) (s : State) : Res := .next (s.unaryOp c 0x020 f (fun a => BitVec.ofNat 64 (leadingZeros a)))

/-- CTZ: trailing zeros, 64 for zero (R52). -/
def execCtz (c : CoreId) (f : Rrr) (s : State) : Res := .next (s.unaryOp c 0x021 f (fun a => BitVec.ofNat 64 (trailingZeros a)))

/-- POP: set bits (R52). -/
def execPop (c : CoreId) (f : Rrr) (s : State) : Res := .next (s.unaryOp c 0x022 f (fun a => BitVec.ofNat 64 (popCount a)))

/-- BSWAPH: bytes of ra[15:0] reversed (R52). -/
def execBswapH (c : CoreId) (f : Rrr) (s : State) : Res := .next (s.unaryOp c 0x023 f (fun a => byteSwap 2 a))

/-- BSWAPW: bytes of ra[31:0] reversed (R52). -/
def execBswapW (c : CoreId) (f : Rrr) (s : State) : Res := .next (s.unaryOp c 0x024 f (fun a => byteSwap 4 a))

/-- BSWAPD: bytes of ra reversed (R52). -/
def execBswapD (c : CoreId) (f : Rrr) (s : State) : Res := .next (s.unaryOp c 0x025 f (fun a => byteSwap 8 a))

/-- ADDI (R49, R52). -/
def execAddi (c : CoreId) (f : Rri) (s : State) : Res := .next (s.rriOp c 0x08 f (fun a i => a + simm i))

/-- ANDI (R49, R52). -/
def execAndi (c : CoreId) (f : Rri) (s : State) : Res := .next (s.rriOp c 0x09 f (fun a i => a &&& zimm i))

/-- ORI (R49, R52). -/
def execOri (c : CoreId) (f : Rri) (s : State) : Res := .next (s.rriOp c 0x0A f (fun a i => a ||| zimm i))

/-- XORI (R49, R52). -/
def execXori (c : CoreId) (f : Rri) (s : State) : Res := .next (s.rriOp c 0x0B f (fun a i => a ^^^ zimm i))

/-- SLTI (R49, R52). -/
def execSlti (c : CoreId) (f : Rri) (s : State) : Res := .next (s.rriOp c 0x0C f (fun a i => boolWord (a.slt (simm i))))

/-- SLTIU (R49, R52). -/
def execSltiu (c : CoreId) (f : Rri) (s : State) : Res := .next (s.rriOp c 0x0D f (fun a i => boolWord (a < simm i)))

/-- SLLI (R52); a non-zero imm[15:8] is illegal. -/
def execSlli (c : CoreId) (f : ShiftImm) (s : State) : Res := .next (s.shiftOp c 0 f (fun a n => a <<< n))

/-- SRLI (R52); a non-zero imm[15:8] is illegal. -/
def execSrli (c : CoreId) (f : ShiftImm) (s : State) : Res := .next (s.shiftOp c 1 f (fun a n => a >>> n))

/-- SRAI (R52); a non-zero imm[15:8] is illegal. -/
def execSrai (c : CoreId) (f : ShiftImm) (s : State) : Res := .next (s.shiftOp c 2 f (fun a n => a.sshiftRight n))

/-- LUI: sext(imm << 16); ra must be g0 (R52). -/
def execLui (c : CoreId) (f : Rri) (s : State) : Res :=
  .next (s.writesReg c (wordRri 0x0F f) (f.ra == 0) f.rd (fun _ => (f.imm.setWidth 32 <<< 16).signExtend 64))

/-- BEQ (R54). -/
def execBeq (c : CoreId) (f : Br) (s : State) : Res := .next (s.branchOp c 0x24 f (fun a b => decide (a = b)))

/-- BNE (R54). -/
def execBne (c : CoreId) (f : Br) (s : State) : Res := .next (s.branchOp c 0x25 f (fun a b => decide (a ≠ b)))

/-- BLT (R54). -/
def execBlt (c : CoreId) (f : Br) (s : State) : Res := .next (s.branchOp c 0x26 f (fun a b => a.slt b))

/-- BGE (R54). -/
def execBge (c : CoreId) (f : Br) (s : State) : Res := .next (s.branchOp c 0x27 f (fun a b => !a.slt b))

/-- BLTU (R54). -/
def execBltu (c : CoreId) (f : Br) (s : State) : Res := .next (s.branchOp c 0x28 f (fun a b => decide (a < b)))

/-- BGEU (R54). -/
def execBgeu (c : CoreId) (f : Br) (s : State) : Res := .next (s.branchOp c 0x29 f (fun a b => decide (b ≤ a)))

/-- J (R54). -/
def execJ (c : CoreId) (off : BitVec 26) (s : State) : Res :=
  .next (s.runInsn c (wordJ 0x2C off) true (fun s =>
    let k := s.core c
    s.setCore c (k.retireTo c (relTarget k.pc off))))

/-- JAL: g31 = pc + 4 (R34, R54). -/
def execJal (c : CoreId) (off : BitVec 26) (s : State) : Res :=
  .next (s.runInsn c (wordJ 0x2D off) true (fun s =>
    let k := s.core c
    s.setCore c ((k.setReg 31 (k.pc + 4)).retireTo c (relTarget k.pc off))))

/-- JALR: the target is read before rd is written (R54). -/
def execJalr (c : CoreId) (f : Rri) (s : State) : Res :=
  .next (s.runInsn c (wordRri 0x10 f) true (fun s =>
    let k := s.core c
    s.setCore c ((k.setReg f.rd (k.pc + 4)).retireTo c (k.ea f &&& ~~~3#64))))

/-- VADD (R56). -/
def execVadd (c : CoreId) (f : Vec) (s : State) : Res := .next (s.vecOp c 0x000 f)

/-- VDIF (R56). -/
def execVdif (c : CoreId) (f : Vec) (s : State) : Res := .next (s.vecOp c 0x001 f)

/-- VMUL (R56). -/
def execVmul (c : CoreId) (f : Vec) (s : State) : Res := .next (s.vecOp c 0x002 f)

/-- VAND (R56). -/
def execVand (c : CoreId) (f : Vec) (s : State) : Res := .next (s.vecOp c 0x003 f)

/-- VOR (R56). -/
def execVor (c : CoreId) (f : Vec) (s : State) : Res := .next (s.vecOp c 0x004 f)

/-- VXOR (R56). -/
def execVxor (c : CoreId) (f : Vec) (s : State) : Res := .next (s.vecOp c 0x005 f)

/-- VMIN (R56). -/
def execVmin (c : CoreId) (f : Vec) (s : State) : Res := .next (s.vecOp c 0x006 f)

/-- VMAX (R56). -/
def execVmax (c : CoreId) (f : Vec) (s : State) : Res := .next (s.vecOp c 0x007 f)

/-- VMINU (R56). -/
def execVminu (c : CoreId) (f : Vec) (s : State) : Res := .next (s.vecOp c 0x008 f)

/-- VMAXU (R56). -/
def execVmaxu (c : CoreId) (f : Vec) (s : State) : Res := .next (s.vecOp c 0x009 f)

/-- VSLL (R56). -/
def execVsll (c : CoreId) (f : Vec) (s : State) : Res := .next (s.vecOp c 0x00A f)

/-- VSRL (R56). -/
def execVsrl (c : CoreId) (f : Vec) (s : State) : Res := .next (s.vecOp c 0x00B f)

/-- VSRA (R56). -/
def execVsra (c : CoreId) (f : Vec) (s : State) : Res := .next (s.vecOp c 0x00C f)

/-- VCMPEQ (R56). -/
def execVcmpeq (c : CoreId) (f : Vec) (s : State) : Res := .next (s.vecOp c 0x010 f)

/-- VCMPLT (R56). -/
def execVcmplt (c : CoreId) (f : Vec) (s : State) : Res := .next (s.vecOp c 0x011 f)

/-- VCMPLTU (R56). -/
def execVcmpltu (c : CoreId) (f : Vec) (s : State) : Res := .next (s.vecOp c 0x012 f)

/-- VBCAST: every lane takes the low bits of ra; rb must be 0 (R56). -/
def execVbcast (c : CoreId) (f : Vec) (s : State) : Res :=
  .next (s.runInsn c (wordVec 0x04 0x020 f) (vecFieldsOk 0x20 f.regs.rd f.regs.ra f.regs.rb) (fun s =>
    let k := s.core c
    let w := laneBits f.width
    let v := packLanes w (List.replicate (512 / w) ((k.reg f.regs.ra).setWidth w))
    s.setCore c ((k.setVreg f.regs.rd v).retire c)))

/-- VEXT: lane x[rb] of v[ra], or 0 beyond the lanes (R56). -/
def execVext (c : CoreId) (f : Vec) (s : State) : Res :=
  .next (s.writesReg c (wordVec 0x04 0x021 f) (vecFieldsOk 0x21 f.regs.rd f.regs.ra f.regs.rb) f.regs.rd (fun k =>
    let w := laneBits f.width
    let i := (k.reg f.regs.rb).toNat
    if i < 512 / w then (laneOf w (k.vreg f.regs.ra) i).setWidth 64 else 0))

/-- VINS: lane x[rb] of v[rd] takes the low bits of ra; nothing changes beyond the lanes (R56). -/
def execVins (c : CoreId) (f : Vec) (s : State) : Res :=
  .next (s.runInsn c (wordVec 0x04 0x022 f) (vecFieldsOk 0x22 f.regs.rd f.regs.ra f.regs.rb) (fun s =>
    let k := s.core c
    let w := laneBits f.width
    let i := (k.reg f.regs.rb).toNat
    let k' := if i < 512 / w then k.setVreg f.regs.rd (putBits (k.vreg f.regs.rd) (w * i) w (k.reg f.regs.ra).toNat) else k
    s.setCore c (k'.retire c)))

/-- VREDSUM: the wrapping sum of the lanes, sign-extended (R56). -/
def execVredsum (c : CoreId) (f : Vec) (s : State) : Res :=
  .next (s.writesReg c (wordVec 0x04 0x023 f) (vecFieldsOk 0x23 f.regs.rd f.regs.ra f.regs.rb) f.regs.rd (fun k =>
    (laneSum (laneBits f.width) (k.vreg f.regs.ra)).signExtend 64))

/-- VFADD (R57). -/
def execVfadd (c : CoreId) (f : Vec) (s : State) : Res := .next (s.vecFloatOp c 0 f)

/-- VFDIF (R57). -/
def execVfdif (c : CoreId) (f : Vec) (s : State) : Res := .next (s.vecFloatOp c 1 f)

/-- VFMUL (R57). -/
def execVfmul (c : CoreId) (f : Vec) (s : State) : Res := .next (s.vecFloatOp c 2 f)

/-- VFMA (R57). -/
def execVfma (c : CoreId) (f : Vec) (s : State) : Res := .next (s.vecFloatOp c 3 f)

/-- VFMIN (R57). -/
def execVfmin (c : CoreId) (f : Vec) (s : State) : Res := .next (s.vecFloatOp c 4 f)

/-- VFMAX (R57). -/
def execVfmax (c : CoreId) (f : Vec) (s : State) : Res := .next (s.vecFloatOp c 5 f)

/-- VFCVTI (R57). -/
def execVfcvtI (c : CoreId) (f : Vec) (s : State) : Res := .next (s.vecFloatOp c 6 f)

/-- VFCVTF (R57). -/
def execVfcvtF (c : CoreId) (f : Vec) (s : State) : Res := .next (s.vecFloatOp c 7 f)

end Sys2Proof.Machine
end

