-- ==== Sys2Proof/Machine/Digest.lean ====
section
/-!
DEFINITION. The digests, check values and keyed functions the manual names: SHA-256 (R115), CRC-64 of ECMA-182 (R127),
CRC-64/NVME (R278), CRC-32C, SipHash-2-4 (R133) and Philox-4×32-10 (R213).
-/

namespace Sys2Proof.Machine

/-! ## SHA-256 -/

def shaK : List Word32 := [
  0x428a2f98, 0x71374491, 0xb5c0fbcf, 0xe9b5dba5, 0x3956c25b, 0x59f111f1, 0x923f82a4, 0xab1c5ed5,
  0xd807aa98, 0x12835b01, 0x243185be, 0x550c7dc3, 0x72be5d74, 0x80deb1fe, 0x9bdc06a7, 0xc19bf174,
  0xe49b69c1, 0xefbe4786, 0x0fc19dc6, 0x240ca1cc, 0x2de92c6f, 0x4a7484aa, 0x5cb0a9dc, 0x76f988da,
  0x983e5152, 0xa831c66d, 0xb00327c8, 0xbf597fc7, 0xc6e00bf3, 0xd5a79147, 0x06ca6351, 0x14292967] ++ [
  0x27b70a85, 0x2e1b2138, 0x4d2c6dfc, 0x53380d13, 0x650a7354, 0x766a0abb, 0x81c2c92e, 0x92722c85,
  0xa2bfe8a1, 0xa81a664b, 0xc24b8b70, 0xc76c51a3, 0xd192e819, 0xd6990624, 0xf40e3585, 0x106aa070,
  0x19a4c116, 0x1e376c08, 0x2748774c, 0x34b0bcb5, 0x391c0cb3, 0x4ed8aa4a, 0x5b9cca4f, 0x682e6ff3,
  0x748f82ee, 0x78a5636f, 0x84c87814, 0x8cc70208, 0x90befffa, 0xa4506ceb, 0xbef9a3f7, 0xc67178f2]

/-- The working variables of a compression, a to h. -/
structure ShaVars where
  a : Word32
  b : Word32
  c : Word32
  d : Word32
  e : Word32
  f : Word32
  g : Word32
  h : Word32
deriving DecidableEq, Repr

def shaInit : ShaVars :=
  ⟨0x6a09e667, 0xbb67ae85, 0x3c6ef372, 0xa54ff53a, 0x510e527f, 0x9b05688c, 0x1f83d9ab, 0x5be0cd19⟩

def shaSmall0 (x : Word32) : Word32 := x.rotateRight 7 ^^^ x.rotateRight 18 ^^^ (x >>> 3)
def shaSmall1 (x : Word32) : Word32 := x.rotateRight 17 ^^^ x.rotateRight 19 ^^^ (x >>> 10)

/-- The message schedule, newest word first: `n` more words. -/
def shaExtend : Nat → List Word32 → List Word32
  | 0, w => w
  | n + 1, w =>
    shaExtend n ((shaSmall1 (nth 0 w 1) + nth 0 w 6 + shaSmall0 (nth 0 w 14) + nth 0 w 15) :: w)

def shaRound (v : ShaVars) (k w : Word32) : ShaVars :=
  let s1 := v.e.rotateRight 6 ^^^ v.e.rotateRight 11 ^^^ v.e.rotateRight 25
  let ch := (v.e &&& v.f) ^^^ (~~~v.e &&& v.g)
  let t1 := v.h + s1 + ch + k + w
  let s0 := v.a.rotateRight 2 ^^^ v.a.rotateRight 13 ^^^ v.a.rotateRight 22
  let maj := (v.a &&& v.b) ^^^ (v.a &&& v.c) ^^^ (v.b &&& v.c)
  ⟨t1 + s0 + maj, v.a, v.b, v.c, v.d + t1, v.e, v.f, v.g⟩

/-- One 64-byte block. -/
def shaBlock (v : ShaVars) (block : List Byte) : ShaVars :=
  let words := (List.range 16).map (fun i => BitVec.ofNat 32 (beNat (sliceOf (4 * i) 4 block)))
  let w := (shaExtend 48 words.reverse).reverse
  let r := (shaK.zip w).foldl (fun v kw => shaRound v kw.1 kw.2) v
  ⟨v.a + r.a, v.b + r.b, v.c + r.c, v.d + r.d, v.e + r.e, v.f + r.f, v.g + r.g, v.h + r.h⟩

/-- `n` bytes of a number, most significant first. -/
def beBytes (n v : Nat) : List Byte := (leBytes n v).reverse

/-- SHA-256 (R115). -/
def sha256 (msg : List Byte) : List Byte :=
  let len := msg.length
  let padded := msg ++ [0x80] ++ zeros ((119 - len % 64) % 64) ++ beBytes 8 (8 * len)
  let v := (List.range (padded.length / 64)).foldl (fun v i => shaBlock v (sliceOf (64 * i) 64 padded)) shaInit
  [v.a, v.b, v.c, v.d, v.e, v.f, v.g, v.h].flatMap (fun x => beBytes 4 x.toNat)

/-- HMAC-SHA-256. -/
def hmacSha256 (key msg : List Byte) : List Byte :=
  let k := fitBytes 64 (if key.length > 64 then sha256 key else key)
  sha256 (k.map (· ^^^ 0x5C) ++ sha256 (k.map (· ^^^ 0x36) ++ msg))

/-! ## Reflected CRCs -/

/-- The bits of a polynomial in reverse order. -/
def reflect {n : Nat} (w : BitVec n) : BitVec n :=
  (List.range n).foldl (fun acc i => putBit acc i (w.getLsbD (n - 1 - i))) 0

/-- One bit of a reflected CRC. -/
def crcBit {n : Nat} (poly r : BitVec n) : BitVec n := if bitAt r 0 then (r >>> 1) ^^^ poly else r >>> 1

/-- One byte of a reflected CRC. -/
def crcByte {n : Nat} (poly r : BitVec n) (b : Byte) : BitVec n :=
  (List.range 8).foldl (fun r _ => crcBit poly r) (r ^^^ b.setWidth n)

/-- A CRC with input and output reflected, all ones at the start and XORed with all ones at the end. -/
def crcReflected {n : Nat} (poly : BitVec n) (bs : List Byte) : BitVec n :=
  ~~~(bs.foldl (fun r b => crcByte poly r b) (BitVec.allOnes n))

/-- The CRC-64 of a volume (R127). -/
def crc64 (bs : List Byte) : Word64 := crcReflected (reflect (0x42F0E1EBA9EA3693 : Word64)) bs

/-- CRC-64/NVME (R278). -/
def crc64Nvme (bs : List Byte) : Word64 := crcReflected (reflect (0xAD93D23594C93659 : Word64)) bs

/-- CRC-32C. -/
def crc32c (bs : List Byte) : Word32 := crcReflected (reflect (0x1EDC6F41 : Word32)) bs

/-! ## SipHash-2-4 (R133) -/

structure SipVars where
  v0 : Word64
  v1 : Word64
  v2 : Word64
  v3 : Word64
deriving DecidableEq, Repr

def sipRound (s : SipVars) : SipVars :=
  let v0 := s.v0 + s.v1
  let v1 := s.v1.rotateLeft 13 ^^^ v0
  let v0 := v0.rotateLeft 32
  let v2 := s.v2 + s.v3
  let v3 := s.v3.rotateLeft 16 ^^^ v2
  let v0 := v0 + v3
  let v3 := v3.rotateLeft 21 ^^^ v0
  let v2 := v2 + v1
  let v1 := v1.rotateLeft 17 ^^^ v2
  let v2 := v2.rotateLeft 32
  ⟨v0, v1, v2, v3⟩

/-- SipHash-2-4 with a 16-byte key. -/
def sipHash24 (key msg : List Byte) : Word64 :=
  let k0 : Word64 := BitVec.ofNat 64 (leAt key 0 8)
  let k1 : Word64 := BitVec.ofNat 64 (leAt key 8 8)
  let s : SipVars := ⟨0x736f6d6570736575 ^^^ k0, 0x646f72616e646f6d ^^^ k1, 0x6c7967656e657261 ^^^ k0, 0x7465646279746573 ^^^ k1⟩
  let absorb (s : SipVars) (m : Word64) : SipVars :=
    let s := sipRound (sipRound { s with v3 := s.v3 ^^^ m })
    { s with v0 := s.v0 ^^^ m }
  let full := msg.length / 8
  let s := (List.range full).foldl (fun s i => absorb s (BitVec.ofNat 64 (leAt msg (8 * i) 8))) s
  let last := leNat (msg.drop (8 * full)) + (msg.length % 256) * 2 ^ 56
  let s := absorb s (BitVec.ofNat 64 last)
  let s := { s with v2 := s.v2 ^^^ 0xFF }
  let s := sipRound (sipRound (sipRound (sipRound s)))
  s.v0 ^^^ s.v1 ^^^ s.v2 ^^^ s.v3

/-! ## Philox-4×32-10 (R213) -/

/-- One round of Philox-4×32 with round key (k0, k1). -/
def philoxRound (k0 k1 : Word32) (c : Word32 × Word32 × Word32 × Word32) : Word32 × Word32 × Word32 × Word32 :=
  let (c0, c1, c2, c3) := c
  let p0 := 0xD2511F53 * c0.toNat
  let p1 := 0xCD9E8D57 * c2.toNat
  (BitVec.ofNat 32 (p1 / 2 ^ 32) ^^^ c1 ^^^ k0, BitVec.ofNat 32 p1, BitVec.ofNat 32 (p0 / 2 ^ 32) ^^^ c3 ^^^ k1, BitVec.ofNat 32 p0)

/-- Philox-4×32-10 of a counter under a key: four 32-bit outputs. -/
def philox (k0 k1 : Word32) (c : Word32 × Word32 × Word32 × Word32) : List Word32 :=
  let r := (List.range 10).foldl (fun c i =>
    philoxRound (k0 + BitVec.ofNat 32 (0x9E3779B9 * i)) (k1 + BitVec.ofNat 32 (0xBB67AE85 * i)) c) c
  [r.1, r.2.1, r.2.2.1, r.2.2.2]

end Sys2Proof.Machine
end

