-- ==== Sys2Proof/Machine/Inflate.lean ====
section
/-!
DEFINITION. The expansion of raw DEFLATE, zlib and gzip streams (R182, R183, R193, R196): RFC 1951, RFC 1950 and RFC 1952, which
R182 names. Damage is a kind of R171 with the byte offset of the failing element.
-/

namespace Sys2Proof.Machine

/-- Damage of a stream: kind and byte offset. -/
abbrev StreamDamage := Nat × Nat

/-- CRC-32 of gzip and PNG. -/
def crc32 (bs : List Byte) : Nat := (crcReflected (reflect (0x04C11DB7 : Word32)) bs).toNat

/-- Adler-32. -/
def adler32 (bs : List Byte) : Nat :=
  let r := bs.foldl (fun (acc : Nat × Nat) b => let a := (acc.1 + b.toNat) % 65521; (a, (acc.2 + a) % 65521)) (1, 0)
  r.2 * 65536 + r.1

/-! ## Bits in order -/

/-- The bits of a run of bytes, least significant first. -/
def bitsOf (bs : List Byte) : List Bool := bs.flatMap (fun b => (List.range 8).map (fun i => b.getLsbD i))

/-- What is left of a stream, and the position of its first bit. -/
structure BitCursor where
  bits : List Bool
  pos : Nat
deriving DecidableEq, Repr

/-- A cursor at a byte offset of a stream. -/
def BitCursor.from (data : List Byte) (at_ : Nat) : BitCursor := ⟨bitsOf (data.drop at_), 8 * at_⟩

/-- The next `n` bits as a number, the first the least significant. -/
def readBits : Nat → List Bool → Option (Nat × List Bool)
  | 0, bs => some (0, bs)
  | _ + 1, [] => none
  | n + 1, b :: bs => (readBits n bs).map (fun r => (b.toNat + 2 * r.1, r.2))

/-- Read `n` bits; past the end of the stream that is SHORT at its end. -/
def BitCursor.read (c : BitCursor) (n : Nat) : Except StreamDamage (Nat × BitCursor) :=
  match readBits n c.bits with
  | some (v, bs) => .ok (v, ⟨bs, c.pos + n⟩)
  | none => .error (9, (c.pos + c.bits.length) / 8)

/-! ## Prefix codes -/

/-- A canonical code: how many codes each length from 1 has, and the symbols in the order of their codes. -/
structure PrefixCode where
  counts : List Nat
  symbols : List Nat
deriving DecidableEq, Repr

/-- The canonical code of a list of lengths up to `top`; `none` where it is over-subscribed. -/
def prefixCode (top : Nat) (lens : List Nat) : Option PrefixCode :=
  let counts := (List.range top).map (fun l => lens.countP (fun x => x == l + 1))
  let left : Int := counts.foldl (fun (left : Int) (c : Nat) => if left < 0 then left else 2 * left - (c : Int)) 1
  if left < 0 then none
  else some ⟨counts, (List.range top).flatMap (fun l => lens.zipIdx.filterMap (fun e => if e.1 = l + 1 then some e.2 else none))⟩

/-- Read one symbol; a code that stands for none is ENTROPY at its first bit. -/
def readSymbol (elem : Nat) : List Nat → List Nat → Nat → Nat → List Bool → Nat → Except StreamDamage (Nat × BitCursor)
  | [], _, _, _, _, _ => .error (7, elem / 8)
  | _ :: _, _, _, _, [], pos => .error (9, pos / 8)
  | n :: ns, syms, code, first, b :: bs, pos =>
    let code := code + b.toNat
    if code < first + n then .ok (syms.getD (code - first) 0, ⟨bs, pos + 1⟩)
    else readSymbol elem ns (syms.drop n) (2 * code) (2 * (first + n)) bs (pos + 1)

/-- One symbol of a code. -/
def BitCursor.symbol (c : BitCursor) (k : PrefixCode) : Except StreamDamage (Nat × BitCursor) :=
  readSymbol c.pos k.counts k.symbols 0 0 c.bits c.pos

/-! ## Output -/

/-- Output of a stream: history with the newest byte first, its length, the bytes decoded, and the whole blocks, newest first. -/
structure Sink where
  hist : List Byte
  held : Nat
  made : Nat
  blocks : List (List Byte)
deriving DecidableEq, Repr

/-- Output that follows a preset dictionary. -/
def Sink.after (preset : List Byte) (made : Nat) : Sink := ⟨preset.reverse, preset.length, made, []⟩

/-- Append bytes. -/
def Sink.add (o : Sink) (bs : List Byte) : Sink :=
  let n := bs.length
  { o with hist := bs.reverse ++ o.hist, held := o.held + n, made := o.made + n }

/-- Append `n` bytes from `d` bytes back. -/
def Sink.copy (o : Sink) (d n : Nat) : Sink :=
  let run := (o.hist.take d).reverse
  if n ≤ d then o.add (run.take n) else o.add (((List.replicate (n / d + 1) run).flatten).take n)

/-- Output would pass a bound. -/
def Sink.full (o : Sink) (limit : Option Nat) (n : Nat) : Bool := limit.any (fun l => decide (l < o.made + n))

/-- Close the block whose output began after `mark` bytes. -/
def Sink.close (o : Sink) (mark : Nat) : Sink := { o with blocks := (o.hist.take (o.made - mark)).reverse :: o.blocks }

/-! ## DEFLATE (RFC 1951) -/

def deflateLengths : List (Nat × Nat) :=
  [(3, 0), (4, 0), (5, 0), (6, 0), (7, 0), (8, 0), (9, 0), (10, 0), (11, 1), (13, 1), (15, 1), (17, 1), (19, 2), (23, 2), (27, 2),
   (31, 2), (35, 3), (43, 3), (51, 3), (59, 3), (67, 4), (83, 4), (99, 4), (115, 4), (131, 5), (163, 5), (195, 5), (227, 5), (258, 0)]

def deflateDistances : List (Nat × Nat) :=
  [(1, 0), (2, 0), (3, 0), (4, 0), (5, 1), (7, 1), (9, 2), (13, 2), (17, 3), (25, 3), (33, 4), (49, 4), (65, 5), (97, 5), (129, 6),
   (193, 6), (257, 7), (385, 7), (513, 8), (769, 8), (1025, 9), (1537, 9), (2049, 10), (3073, 10), (4097, 11), (6145, 11),
   (8193, 12), (12289, 12), (16385, 13), (24577, 13)]

/-- The order in which the lengths of the code-length code come. -/
def deflateOrder : List Nat := [16, 17, 18, 0, 8, 7, 9, 6, 10, 5, 11, 4, 12, 3, 13, 2, 14, 1, 15]

/-- The codes of a block. -/
structure BlockCodes where
  lit : PrefixCode
  dist : PrefixCode
deriving DecidableEq, Repr

/-- The fixed codes. -/
def fixedCodes : BlockCodes :=
  let lit := prefixCode 15 (List.replicate 144 8 ++ List.replicate 112 9 ++ List.replicate 24 7 ++ List.replicate 8 8)
  let dist := prefixCode 15 (List.replicate 30 5)
  ⟨lit.getD ⟨[], []⟩, dist.getD ⟨[], []⟩⟩

/-- Read `n` numbers of `w` bits. -/
def BitCursor.readMany (w : Nat) : Nat → BitCursor → Except StreamDamage (List Nat × BitCursor)
  | 0, c => .ok ([], c)
  | n + 1, c => do
    let (v, c) ← c.read w
    let (vs, c) ← BitCursor.readMany w n c
    return (v :: vs, c)

/-- The code lengths of a dynamic block, newest first, and the position of the last element read. -/
def readLengths (k : PrefixCode) (total : Nat) : Nat → List Nat → Nat → BitCursor → Except StreamDamage (List Nat × Nat × BitCursor)
  | 0, acc, elem, c => .ok (acc, elem, c)
  | fuel + 1, acc, elem, c =>
    if total ≤ acc.length then .ok (acc, elem, c)
    else do
      let elem := c.pos
      let (sym, c) ← c.symbol k
      if sym < 16 then readLengths k total fuel (sym :: acc) elem c
      else
        if sym = 16 ∧ acc = [] then throw (6, elem / 8)
        let (extra, c) ← c.read (if sym = 16 then 2 else if sym = 17 then 3 else 7)
        let n := extra + (if sym = 18 then 11 else 3)
        if total < acc.length + n then throw (6, elem / 8)
        readLengths k total fuel (List.replicate n (if sym = 16 then acc.headD 0 else 0) ++ acc) elem c

/-- The codes of a dynamic block. -/
def dynamicCodes (c : BitCursor) : Except StreamDamage (BlockCodes × BitCursor) := do
  let head := c.pos
  let (hlit, c) ← c.read 5
  let (hdist, c) ← c.read 5
  let (hclen, c) ← c.read 4
  let nlit := hlit + 257
  let ndist := hdist + 1
  if 286 < nlit ∨ 30 < ndist then throw (6, head / 8)
  let (cls, c) ← BitCursor.readMany 3 (hclen + 4) c
  match prefixCode 7 ((List.range 19).map (fun i => ((deflateOrder.zip cls).find? (fun e => e.1 == i)).elim 0 (·.2))) with
  | none => throw (6, head / 8)
  | some k =>
    let (acc, elem, c) ← readLengths k (nlit + ndist) (nlit + ndist) [] head c
    let lens := acc.reverse
    match prefixCode 15 (lens.take nlit), prefixCode 15 (lens.drop nlit) with
    | some lit, some dist => if lens.getD 256 0 = 0 then throw (6, elem / 8) else return (⟨lit, dist⟩, c)
    | _, _ => throw (6, elem / 8)

/-- An element of a compressed block. -/
inductive DeflateElem where
  | literal (b : Nat)
  | stop
  /-- A copy, and the position of its distance code. -/
  | copy (length dist distAt : Nat)
deriving DecidableEq, Repr

/-- Read one element. -/
def deflateElem (k : BlockCodes) (c : BitCursor) : Except StreamDamage (DeflateElem × BitCursor) := do
  let elem := c.pos
  let (sym, c) ← c.symbol k.lit
  if sym < 256 then return (.literal sym, c)
  else if sym = 256 then return (.stop, c)
  else match deflateLengths[sym - 257]? with
    | none => throw (7, elem / 8)
    | some (base, extra) =>
      let (x, c) ← c.read extra
      let at_ := c.pos
      let (d, c) ← c.symbol k.dist
      match deflateDistances[d]? with
      | none => throw (7, at_ / 8)
      | some (dbase, dextra) =>
        let (y, c) ← c.read dextra
        return (.copy (base + x) (dbase + y) at_, c)

/-- The elements of a block up to its end; output past the bound stops at the element that would produce it (R193). -/
def deflateElems (k : BlockCodes) (limit : Option Nat) : Nat → BitCursor → Sink → BitCursor × Sink × Option StreamDamage
  | 0, c, o => (c, o, some (9, c.pos / 8))
  | fuel + 1, c, o =>
    match deflateElem k c with
    | .error e => (c, o, some e)
    | .ok (.stop, c') => (c', o, none)
    | .ok (.literal b, c') =>
      if o.full limit 1 then (c, o, some (12, c.pos / 8)) else deflateElems k limit fuel c' (o.add [BitVec.ofNat 8 b])
    | .ok (.copy n d at_, c') =>
      if o.held < d then (c, o, some (7, at_ / 8))
      else if o.full limit n then (c, o, some (12, c.pos / 8))
      else deflateElems k limit fuel c' (o.copy d n)

/-- Bytes from bits. -/
def bytesOfBits : Nat → List Bool → List Byte
  | 0, _ => []
  | n + 1, bs => BitVec.ofNat 8 ((readBits 8 bs).elim 0 (·.1)) :: bytesOfBits n (bs.drop 8)

/-- A stored block. -/
def storedBlock (limit : Option Nat) (c : BitCursor) (o : Sink) : BitCursor × Sink × Option StreamDamage :=
  let skip := (8 - c.pos % 8) % 8
  let c : BitCursor := ⟨c.bits.drop skip, c.pos + skip⟩
  match c.read 32 with
  | .error e => (c, o, some e)
  | .ok (v, c') =>
    let n := v % 65536
    if v / 65536 + n ≠ 65535 then (c, o, some (6, c.pos / 8))
    else
      let got := min n (c'.bits.length / 8)
      let room := limit.elim got (fun l => l - o.made)
      if room < got then (c', o, some (12, c'.pos / 8 + room))
      else
        let o := o.add (bytesOfBits got c'.bits)
        let c' : BitCursor := ⟨c'.bits.drop (8 * got), c'.pos + 8 * got⟩
        (c', o, if got < n then some (9, (c'.pos + c'.bits.length) / 8) else none)

/-- The blocks of a DEFLATE stream. -/
def inflateBlocks (limit : Option Nat) : Nat → BitCursor → Sink → BitCursor × Sink × Option StreamDamage
  | 0, c, o => (c, o, some (9, c.pos / 8))
  | fuel + 1, c, o =>
    match c.read 3 with
    | .error e => (c, o, some e)
    | .ok (h, c') =>
      let body : BitCursor × Sink × Option StreamDamage :=
        if h / 2 = 0 then storedBlock limit c' o
        else if h / 2 = 3 then (c, o, some (6, (c.pos) / 8))
        else match (if h / 2 = 1 then .ok (fixedCodes, c') else dynamicCodes c' : Except StreamDamage (BlockCodes × BitCursor)) with
          | .error e => (c', o, some e)
          | .ok (k, c') => deflateElems k limit (c'.bits.length + 1) c' o
      match body with
      | (c', o', some e) => (c', o', some e)
      | (c', o', none) =>
        let o' := o'.close o.made
        if h % 2 = 1 then (c', o', none) else inflateBlocks limit fuel c' o'

/-- What a run of blocks yields. -/
structure Inflated where
  blocks : List (List Byte)
  made : Nat
  /-- One past the last byte read. -/
  stopAt : Nat
  damage : Option StreamDamage
deriving DecidableEq, Repr

/-- Inflate from a byte offset, after a preset dictionary and `made` bytes of earlier members. -/
def inflate (data : List Byte) (at_ : Nat) (preset : List Byte) (made : Nat) (limit : Option Nat) : Inflated :=
  let c := BitCursor.from data at_
  let (c, o, d) := inflateBlocks limit (c.bits.length + 1) c (Sink.after preset made)
  ⟨o.blocks.reverse, o.made, (c.pos + 7) / 8, d⟩

/-! ## The three wrappers -/

/-- An expansion that ends in damage: the bytes before the failing element count as consumed. -/
def damaged (blocks : List (List Byte)) (reached check : Nat) (d : StreamDamage) : Expanded :=
  ⟨blocks, reached, none, some d, d.2, check⟩

/-- Raw DEFLATE. -/
def expandRaw (data : List Byte) (limit : Option Nat) : Expanded :=
  let r := inflate data 0 [] 0 limit
  match r.damage with
  | some d => damaged r.blocks r.made 0 d
  | none => ⟨r.blocks, r.made, none, none, r.stopAt, 0⟩

/-- zlib (RFC 1950). -/
def expandZlib (data dict : List Byte) (limit : Option Nat) : Expanded :=
  let n := data.length
  let cmf := leAt data 0 1
  let flg := leAt data 1 1
  let body (at_ : Nat) (preset : List Byte) : Expanded :=
    let r := inflate data at_ preset 0 limit
    match r.damage with
    | some d => damaged r.blocks r.made 0 d
    | none =>
      if n < r.stopAt + 4 then damaged r.blocks r.made 0 (9, n)
      else
        let found := beNat (sliceOf r.stopAt 4 data)
        if adler32 r.blocks.flatten ≠ found then damaged r.blocks r.made found (8, r.stopAt)
        else ⟨r.blocks, r.made, none, none, r.stopAt + 4, found⟩
  if n < 2 then damaged [] 0 0 (9, n)
  else if 7 < cmf / 16 ∨ (cmf * 256 + flg) % 31 ≠ 0 then damaged [] 0 0 (6, 0)
  else if cmf % 16 ≠ 8 then damaged [] 0 0 (10, 0)
  else if flg / 32 % 2 = 1 then
    if n < 6 then damaged [] 0 0 (9, n)
    else if dict = [] ∨ adler32 dict ≠ beNat (sliceOf 2 4 data) then damaged [] 0 0 (12, 0)
    else body 6 dict
  else body 2 []

/-- The offset past a zero-terminated field; `none` where the stream ends in it. -/
def pastZero (data : List Byte) (at_ : Nat) : Option Nat :=
  let run := (data.drop at_).takeWhile (fun b => b != 0)
  if at_ + run.length < data.length then some (at_ + run.length + 1) else none

/-- The header of the gzip member at an offset: where its blocks begin, or its damage (RFC 1952). -/
def gzipHeader (data : List Byte) (at_ : Nat) : Except StreamDamage Nat :=
  let n := data.length
  let head := sliceOf at_ 10 data
  let flg := leAt head 3 1
  let short : StreamDamage := (9, n)
  if head.take 2 ≠ ([0x1F, 0x8B] : List Byte).take (min 2 head.length) then .error (6, at_)
  else if 2 < head.length ∧ leAt head 2 1 ≠ 8 then .error (10, at_ + 2)
  else if 3 < head.length ∧ 32 ≤ flg then .error (6, at_ + 3)
  else if head.length < 10 then .error short
  else do
    let p := at_ + 10
    let p ← if flg / 4 % 2 = 0 then pure p
      else if n < p + 2 ∨ n < p + 2 + leAt data p 2 then throw short else pure (p + 2 + leAt data p 2)
    let p ← if flg / 8 % 2 = 0 then pure p else (pastZero data p).elim (throw short) pure
    let p ← if flg / 16 % 2 = 0 then pure p else (pastZero data p).elim (throw short) pure
    if flg / 2 % 2 = 0 then pure p
    else if n < p + 2 then throw short
    else if crc32 (sliceOf at_ (p - at_) data) % 65536 ≠ leAt data p 2 then throw (8, p)
    else pure (p + 2)

/-- The members of a gzip stream from an offset. -/
def gzipMembers (data : List Byte) (limit : Option Nat) : Nat → Nat → List (List Byte) → Nat → Nat → Expanded
  | 0, at_, done, made, check => damaged done made check (9, at_)
  | fuel + 1, at_, done, made, check =>
    match gzipHeader data at_ with
    | .error d => damaged done made check d
    | .ok p =>
      let r := inflate data p [] made limit
      let blocks := done ++ r.blocks
      match r.damage with
      | some d => damaged blocks r.made check d
      | none =>
        let q := r.stopAt
        if data.length < q + 8 then damaged blocks r.made check (9, data.length)
        else
          let found := leAt data q 4
          if crc32 r.blocks.flatten ≠ found then damaged blocks r.made found (8, q)
          else if (r.made - made) % 2 ^ 32 ≠ leAt data (q + 4) 4 then damaged blocks r.made found (8, q + 4)
          else if data.length ≤ q + 8 then ⟨blocks, r.made, none, none, q + 8, found⟩
          else gzipMembers data limit fuel (q + 8) blocks r.made found

/-- gzip (RFC 1952), several members in sequence. -/
def expandGzip (data : List Byte) (limit : Option Nat) : Expanded := gzipMembers data limit (data.length + 1) 0 [] 0 0

end Sys2Proof.Machine
end

