-- ==== Sys2Proof/Machine/Streams.lean ====
section
/-!
DEFINITION. What the decoders of the mills share: bits from the most significant end, big-endian fields, rasters of
reconstructed pixels, and a zlib stream inside a container (R165, R166).
-/

namespace Sys2Proof.Machine

/-! ## Damage kinds of streams (R171) -/

def dmgSYNTAX : Nat := 6
def dmgENTROPY : Nat := 7
def dmgCHECK : Nat := 8
def dmgSHORT : Nat := 9

/-! ## Fields -/

/-- The bits of a run of bytes, most significant first. -/
def bitsMsb (bs : List Byte) : List Bool := bs.flatMap (fun b => (List.range 8).map (fun i => b.getLsbD (7 - i)))

/-- A cursor over the bits of a stream from a byte offset, most significant first. -/
def BitCursor.msb (data : List Byte) (at_ : Nat) : BitCursor := ⟨bitsMsb (data.drop at_), 8 * at_⟩

/-- The next `n` bits as a number, the first the most significant. -/
def readMsb : Nat → Nat → List Bool → Option (Nat × List Bool)
  | 0, acc, bs => some (acc, bs)
  | _ + 1, _, [] => none
  | n + 1, acc, b :: bs => readMsb n (2 * acc + b.toNat) bs

/-- The offset of the end of the stream. -/
def BitCursor.endAt (c : BitCursor) : Nat := (c.pos + c.bits.length) / 8

/-- Read `n` bits from the most significant end; past the end of the stream that is SHORT at its end. -/
def BitCursor.take (c : BitCursor) (n : Nat) : Except StreamDamage (Nat × BitCursor) :=
  match readMsb n 0 c.bits with
  | some (v, bs) => .ok (v, ⟨bs, c.pos + n⟩)
  | none => .error (dmgSHORT, c.endAt)

/-- Skip to the next byte boundary. -/
def BitCursor.align (c : BitCursor) : BitCursor :=
  let k := (8 - c.pos % 8) % 8
  ⟨c.bits.drop k, c.pos + k⟩

/-- The bits mirrored within each byte. -/
def mirrorByte (b : Byte) : Byte := reflect b

/-! ## Headers -/

/-- The headers of a stream whose element at an offset is malformed before its size is known. -/
def headersBad (o : Nat) : Headers := { (default : Headers) with known := false, syntaxAt := o }

/-! ## Rasters -/

/-- The pixels reconstructed so far, in raster order. -/
abbrev Raster := Array (Option (List Int))

/-- A raster with nothing reconstructed. -/
def Raster.blank (n : Nat) : Raster := Array.replicate n none

/-- Set pixels at their positions. -/
def Raster.put (r : Raster) (ps : List (Nat × List Int)) : Raster := ps.foldl (fun r p => r.setIfInBounds p.1 (some p.2)) r

/-- A decode from a raster: what is absent is concealed. -/
def Raster.decoded (r : Raster) (comps : Nat) (damage : Option StreamDamage) (unit units : Nat) : Decoded :=
  { values := r.toList.flatMap (fun p => p.getD (List.replicate comps 0))
    floats := false
    damage := damage
    unit := unit
    units := units
    lost := (List.range r.size).filter (fun k => (r.getD k none).isNone)
    excess := false }

/-- The samples of a row of `n` samples of `bits` bits, packed from the most significant end; 16-bit samples have a byte order. -/
def rowSamples (big : Bool) (bits n : Nat) (row : List Byte) : List Nat :=
  if bits = 16 then (List.range n).map (fun i => if big then beAt row (2 * i) 2 else leAt row (2 * i) 2)
  else if bits = 8 then (row.take n).map (·.toNat)
  else
    let all := bitsMsb row
    (List.range n).map (fun i => ((readMsb bits 0 (all.drop (bits * i))).elim 0 (·.1)))

/-- Cut a list into runs of `k`. -/
def runsOf {α : Type} (k : Nat) : Nat → List α → List (List α)
  | 0, _ => []
  | fuel + 1, xs => if xs = [] ∨ k = 0 then [] else xs.take k :: runsOf k fuel (xs.drop k)

/-! ## zlib inside a container -/

/-- What a zlib stream yields, the output before a damage point included. -/
def zlibRun (z : List Byte) (limit : Option Nat) : List Byte × Option StreamDamage :=
  let cmf := leAt z 0 1
  let flg := leAt z 1 1
  if z.length < 2 then ([], some (dmgSHORT, z.length))
  else if cmf % 16 ≠ 8 ∨ 7 < cmf / 16 ∨ (cmf * 256 + flg) % 31 ≠ 0 ∨ flg / 32 % 2 = 1 then ([], some (dmgSYNTAX, 0))
  else
    let c := BitCursor.from z 2
    let (c, o, d) := inflateBlocks limit (c.bits.length + 1) c (Sink.after [] 0)
    let out := o.hist.reverse
    let stop := (c.pos + 7) / 8
    match d with
    | some d => (out, some d)
    | none =>
      if z.length < stop + 4 then (out, some (dmgSHORT, z.length))
      else if adler32 out ≠ beAt z stop 4 then (out, some (dmgCHECK, stop))
      else (out, none)

/-- The offset in a zlib stream of the element that produces output byte `p`. -/
def zlibElement (z : List Byte) (p : Nat) : Nat := ((zlibRun z (some p)).2.getD (0, 0)).2

end Sys2Proof.Machine
end

