-- ==== Sys2Proof/Machine/Audio.lean ====
section
/-!
DEFINITION. The audio streams of the mills (R129, R159, R170 to R174): WAV and FLAC whole, and the headers of Layer III and of
Opus in Ogg.
-/

namespace Sys2Proof.Machine

/-- Headers of an audio stream. -/
def audioHeaders (sizeAt bits srcBits channels rate : Nat) (samples : Option Nat) : Headers :=
  { (default : Headers) with
    known := true, sizeAt := sizeAt, bits := bits, srcBits := srcBits, srcComps := channels, channels := channels, rate := rate
    samples := samples }

/-- A decode of audio: samples of `channels` channels in order, each absent sample concealed. -/
def audioDecoded (floats : Bool) (channels : Nat) (samples : List (Option (List Int))) (damage : Option StreamDamage) (excess : Bool) : Decoded :=
  let lost := samples.zipIdx.filterMap (fun e => if e.1.isNone then some e.2 else none)
  { values := samples.flatMap (fun x => x.getD (List.replicate channels 0))
    floats := floats, damage := damage, unit := lost.headD 0, units := lost.length, lost := lost, excess := excess }

/-! ## WAV -/

def riffFmt : Nat := 0x666D7420
def riffData : Nat := 0x64617461

/-- Offset and length of the first chunk of a kind from an offset on; none where the file ends first. -/
def riffFind (src : List Byte) (kinds : List Nat) : Nat → Nat → Option (Nat × Nat × Nat)
  | 0, _ => none
  | fuel + 1, at_ =>
    if src.length < at_ + 8 then none
    else
      let k := beAt src at_ 4
      let len := leAt src (at_ + 4) 4
      if kinds.contains k then some (k, at_, len) else riffFind src kinds fuel (at_ + 8 + len + len % 2)

/-- A WAV file's format and the place of its data. -/
structure WavInfo where
  tag : Nat
  channels : Nat
  rate : Nat
  block : Nat
  bits : Nat
  dataAt : Nat
  len : Nat
deriving DecidableEq, Repr

/-- Bytes of a sample. -/
def WavInfo.width (w : WavInfo) : Nat := ceilDiv w.bits 8
/-- Samples per channel that the data chunk declares. -/
def WavInfo.samples (w : WavInfo) : Nat := w.len / w.block

/-- The format and data chunks of a WAV or Broadcast WAV file, or the offset of what is malformed. -/
def wavInfo (src : List Byte) : Except Nat WavInfo :=
  if beAt src 0 4 ≠ 0x52494646 ∨ beAt src 8 4 ≠ 0x57415645 then .error 0
  else match riffFind src [riffFmt, riffData] src.length 12 with
    | none => .error src.length
    | some (k, at_, len) =>
      if k ≠ riffFmt ∨ len < 16 ∨ src.length < at_ + 8 + len then .error at_
      else
        let p := at_ + 8
        let tag := leAt src p 2
        let tag := if tag = 0xFFFE ∧ 40 ≤ len then leAt src (p + 24) 2 else tag
        match riffFind src [riffData] src.length (p + len + len % 2) with
        | none => .error src.length
        | some (_, d, n) =>
          let w : WavInfo := ⟨tag, leAt src (p + 2) 2, leAt src (p + 4) 4, leAt src (p + 12) 2, leAt src (p + 14) 2, d, n⟩
          if w.channels = 0 ∨ w.rate = 0 ∨ w.bits = 0 ∨ w.block ≠ w.channels * w.width then .error at_ else .ok w

/-- Integer or binary32 samples of a width that the mill's conversions name; other formats are Config's. -/
def WavInfo.plain (w : WavInfo) : Bool := (w.tag == 1 && decide (w.bits ≤ 32)) || (w.tag == 3 && w.bits == 32)

/-- Headers of a WAV file. -/
def wavHeaders (src : List Byte) : Headers :=
  match wavInfo src with
  | .error o => headersBad o
  | .ok w => if w.plain then audioHeaders w.dataAt (8 * w.width) w.bits w.channels w.rate (some w.samples) else Config.headers 5 src

/-- One sample; unsigned 8-bit samples are offset by −128 (R159). -/
def WavInfo.value (w : WavInfo) (bs : List Byte) : Int :=
  if w.tag = 3 then (leNat bs : Int) else if w.width = 1 then (leNat bs : Int) - 128 else asInt (8 * w.width) (leNat bs)

/-- The decode of a WAV file: only SHORT is detectable in the data (R174). -/
def wavDecode (revision reduce declared : Nat) (src : List Byte) : Decoded :=
  match wavInfo src with
  | .error _ => default
  | .ok w =>
    if !w.plain then Config.decode 5 revision reduce declared src
    else
      let have_ := sliceOf (w.dataAt + 8) (w.samples * w.block) src
      let good := (runsOf w.block w.samples have_).filter (fun r => r.length == w.block)
      let values := good.map (fun r => some ((runsOf w.width w.channels r).map w.value))
      audioDecoded (w.tag == 3) w.channels (values ++ List.replicate (w.samples - good.length) none)
        (if good.length < w.samples then some (dmgSHORT, src.length) else none) false

/-! ## FLAC -/

/-- The plain CRC with no reflection and a zero start, of FLAC and Ogg. -/
def crcPlain {n : Nat} (poly : BitVec n) (bs : List Byte) : Nat :=
  (bs.foldl (fun r b =>
    (List.range 8).foldl (fun (r : BitVec n) i => if bitAt r (n - 1) != b.getLsbD (7 - i) then (r <<< 1) ^^^ poly else r <<< 1) r)
    (0 : BitVec n)).toNat

/-- What STREAMINFO says. -/
structure FlacInfo where
  block : Nat
  rate : Nat
  channels : Nat
  bits : Nat
  total : Nat
deriving DecidableEq, Repr

/-- STREAMINFO, which comes first, or the offset of what is malformed. -/
def flacInfo (src : List Byte) : Except Nat FlacInfo :=
  let x := beAt src 18 8
  let i : FlacInfo := ⟨beAt src 8 2, x / 2 ^ 44, x / 2 ^ 41 % 8 + 1, x / 2 ^ 36 % 32 + 1, x % 2 ^ 36⟩
  if beAt src 0 4 ≠ 0x664C6143 then .error 0
  else if src.length < 42 ∨ leAt src 4 1 % 128 ≠ 0 ∨ beAt src 5 3 ≠ 34 ∨ i.rate = 0 ∨ i.bits < 4 then .error 4
  else .ok i

/-- Headers of a FLAC stream. -/
def flacHeaders (src : List Byte) : Headers :=
  match flacInfo src with
  | .error o => headersBad o
  | .ok i => audioHeaders 4 i.bits i.bits i.channels i.rate (if i.total = 0 then none else some i.total)

/-- The offset past the metadata blocks, or that of a block the stream does not hold. -/
def flacFrames (src : List Byte) : Nat → Nat → Except Nat Nat
  | 0, at_ => .error at_
  | fuel + 1, at_ =>
    let past := at_ + 4 + beAt src (at_ + 1) 3
    if src.length < at_ + 4 ∨ src.length < past then .error at_
    else if 128 ≤ leAt src at_ 1 then .ok past
    else flacFrames src fuel past

/-- A frame header: first sample, samples, channel assignment and length in bytes. -/
structure FlacHead where
  first : Nat
  block : Nat
  assign : Nat
  len : Nat
deriving DecidableEq, Repr

/-- The coded number of a header at an offset, and its length. -/
def flacNumber (src : List Byte) (at_ : Nat) : Option (Nat × Nat) :=
  let b := leAt src at_ 1
  let ones := ((bitsMsb (sliceOf at_ 1 src)).takeWhile id).length
  let tail := sliceOf (at_ + 1) (ones - 1) src
  if src.length ≤ at_ ∨ ones = 1 ∨ ones = 8 then none
  else if ones = 0 then some (b, 1)
  else if tail.length ≠ ones - 1 ∨ tail.any (fun t => t.toNat / 64 != 2) then none
  else some (tail.foldl (fun acc t => acc * 64 + t.toNat % 64) (b % 2 ^ (7 - ones)), ones)

def flacRates : List Nat := [0, 88200, 176400, 192000, 8000, 16000, 22050, 24000, 32000, 44100, 48000, 96000]

/-- The frame header at an offset: SYNTAX where it is malformed or unlike the stream, CHECK where its CRC-8 fails. -/
def flacHead (i : FlacInfo) (src : List Byte) (at_ : Nat) : Except StreamDamage FlacHead :=
  let w := beAt src at_ 4
  let bcode := w / 2 ^ 12 % 16
  let rcode := w / 2 ^ 8 % 16
  let assign := w / 16 % 16
  let scode := w / 2 % 8
  let bad : Except StreamDamage FlacHead := .error (dmgSYNTAX, at_)
  match flacNumber src (at_ + 4) with
  | none => if src.length ≤ at_ + 4 ∧ w / 2 ^ 18 = 0x3FFE then .error (dmgSHORT, src.length) else bad
  | some (num, k) =>
    let p := at_ + 4 + k
    let bsize := if bcode = 6 then 1 else if bcode = 7 then 2 else 0
    let rsize := if rcode = 12 then 1 else if rcode = 13 ∨ rcode = 14 then 2 else 0
    let block := if bcode = 1 then 192 else if 2 ≤ bcode ∧ bcode ≤ 5 then 576 * 2 ^ (bcode - 2)
      else if bcode = 6 ∨ bcode = 7 then beAt src p bsize + 1 else 256 * 2 ^ (bcode - 8)
    let r := beAt src (p + bsize) rsize
    let rate := if rcode = 0 then i.rate else if rcode ≤ 11 then flacRates.getD rcode 0
      else if rcode = 12 then 1000 * r else if rcode = 13 then r else 10 * r
    let bits := [i.bits, 8, 12, 0, 16, 20, 24, 32].getD scode 0
    let len := 4 + k + bsize + rsize + 1
    if w / 2 ^ 17 ≠ 0x7FFC ∨ bcode = 0 ∨ rcode = 15 ∨ 10 < assign ∨ w % 2 = 1 ∨ rate ≠ i.rate ∨ bits ≠ i.bits
      ∨ (if assign < 8 then assign + 1 else 2) ≠ i.channels then bad
    else if src.length < at_ + len then .error (dmgSHORT, src.length)
    else if crcPlain (0x07 : BitVec 8) (sliceOf at_ (len - 1) src) ≠ leAt src (at_ + len - 1) 1 then .error (dmgCHECK, at_ + len - 1)
    else .ok ⟨if w / 2 ^ 16 % 2 = 1 then num else num * i.block, block, assign, len⟩

/-- Read a signed number of `n` bits. -/
def BitCursor.signed (c : BitCursor) (n : Nat) : Except StreamDamage (Int × BitCursor) := do
  let (v, c) ← c.take n
  return (asInt n v, c)

/-- Read `n` signed numbers of `w` bits. -/
def BitCursor.signedMany (w : Nat) : Nat → BitCursor → Except StreamDamage (List Int × BitCursor)
  | 0, c => .ok ([], c)
  | n + 1, c => do
    let (v, c) ← c.signed w
    let (vs, c) ← BitCursor.signedMany w n c
    return (v :: vs, c)

/-- Zeros up to a one. -/
def BitCursor.unary (c : BitCursor) : Except StreamDamage (Nat × BitCursor) :=
  let z := (c.bits.takeWhile (fun b => !b)).length
  if c.bits.length ≤ z then .error (dmgSHORT, c.endAt) else .ok (z, ⟨c.bits.drop (z + 1), c.pos + z + 1⟩)

/-- `n` Rice codes of parameter `k`. -/
def riceMany (k : Nat) : Nat → BitCursor → Except StreamDamage (List Int × BitCursor)
  | 0, c => .ok ([], c)
  | n + 1, c => do
    let (q, c) ← c.unary
    let (r, c) ← c.take k
    let u := q * 2 ^ k + r
    let (vs, c) ← riceMany k n c
    return ((if u % 2 = 0 then ((u / 2 : Nat) : Int) else -(((u + 1) / 2 : Nat) : Int)) :: vs, c)

/-- The partitions of a residual. -/
def flacPartitions (wide : Bool) (per : Nat) : Nat → Nat → BitCursor → Except StreamDamage (List Int × BitCursor)
  | 0, _, c => .ok ([], c)
  | n + 1, skip, c => do
    let w := if wide then 5 else 4
    let (k, c) ← c.take w
    let (vs, c) ← if k = 2 ^ w - 1 then do
        let (b, c) ← c.take 5
        BitCursor.signedMany b (per - skip) c
      else riceMany k (per - skip) c
    let (rest, c) ← flacPartitions wide per n 0 c
    return (vs ++ rest, c)

/-- The residual of a subframe of `block` samples after `order` warm-up samples. -/
def flacResidual (block order : Nat) (c : BitCursor) : Except StreamDamage (List Int × BitCursor) := do
  let elem := c.pos
  let (m, c) ← c.take 2
  let (p, c) ← c.take 4
  let per := block / 2 ^ p
  if 1 < m ∨ per * 2 ^ p ≠ block ∨ per < order then throw (dmgENTROPY, elem / 8)
  flacPartitions (m == 1) per (2 ^ p) order c

/-- Samples from a predictor: coefficients for the newest sample first, and a shift; `done` is newest first. -/
def flacPredict (coefs : List Int) (shift : Nat) : List Int → List Int → List Int
  | [], done => done.reverse
  | r :: rs, done =>
    flacPredict coefs shift rs ((r + ((List.zipWith (fun (x y : Int) => x * y) coefs done).foldl (· + ·) 0) >>> shift) :: done)

/-- The fixed predictors. -/
def flacFixed (order : Nat) : List Int := [[], [1], [2, -1], [3, -3, 1], [4, -6, 4, -1]].getD order []

/-- One subframe of `block` samples of `bits` bits. -/
def flacSubframe (block bits : Nat) (c : BitCursor) : Except StreamDamage (List Int × BitCursor) := do
  let elem := c.pos
  let (h, c) ← c.take 8
  let kind := h / 2
  let (wasted, c) ← if h % 2 = 0 then pure (0, c) else do
    let (z, c) ← c.unary
    pure (z + 1, c)
  let w := bits - wasted
  if 128 ≤ h ∨ w = 0 then throw (dmgENTROPY, elem / 8)
  let (vs, c) ←
    if kind = 0 then do
      let (v, c) ← c.signed w
      pure (List.replicate block v, c)
    else if kind = 1 then BitCursor.signedMany w block c
    else if 8 ≤ kind ∧ kind ≤ 12 then do
      let order := kind - 8
      if block < order then throw (dmgENTROPY, elem / 8)
      let (warm, c) ← BitCursor.signedMany w order c
      let (rs, c) ← flacResidual block order c
      pure (flacPredict (flacFixed order) 0 rs warm.reverse, c)
    else if 32 ≤ kind then do
      let order := kind - 31
      if block < order then throw (dmgENTROPY, elem / 8)
      let (warm, c) ← BitCursor.signedMany w order c
      let at_ := c.pos
      let (p, c) ← c.take 4
      let (s, c) ← c.signed 5
      if p = 15 ∨ s < 0 then throw (dmgENTROPY, at_ / 8)
      let (coefs, c) ← BitCursor.signedMany (p + 1) order c
      let (rs, c) ← flacResidual block order c
      pure (flacPredict coefs s.toNat rs warm.reverse, c)
    else throw (dmgENTROPY, elem / 8)
  return (vs.map (fun v => v * 2 ^ wasted), c)

/-- The subframes of a frame. -/
def flacSubframes (block : Nat) : List Nat → BitCursor → Except StreamDamage (List (List Int) × BitCursor)
  | [], c => .ok ([], c)
  | b :: bs, c => do
    let (v, c) ← flacSubframe block b c
    let (vs, c) ← flacSubframes block bs c
    return (v :: vs, c)

/-- Undo the stereo decorrelation. -/
def flacStereo (assign : Nat) (chans : List (List Int)) : List (List Int) :=
  let a := chans.getD 0 []
  let b := chans.getD 1 []
  if assign = 8 then [a, (a.zip b).map (fun e => e.1 - e.2)]
  else if assign = 9 then [(a.zip b).map (fun e => e.1 + e.2), b]
  else if assign = 10 then
    let m := (a.zip b).map (fun e => 2 * e.1 + e.2 % 2)
    [(m.zip b).map (fun e => (e.1 + e.2) / 2), (m.zip b).map (fun e => (e.1 - e.2) / 2)]
  else chans

/-- The samples of the frame at an offset, each of all channels, and the offset past it. -/
def flacFrame (i : FlacInfo) (src : List Byte) (at_ : Nat) : Except StreamDamage (FlacHead × List (List Int) × Nat) := do
  let h ← flacHead i src at_
  let widths := (List.range i.channels).map (fun k =>
    i.bits + (if (h.assign = 8 ∧ k = 1) ∨ (h.assign = 9 ∧ k = 0) ∨ (h.assign = 10 ∧ k = 1) then 1 else 0))
  let (chans, c) ← flacSubframes h.block widths (BitCursor.msb src (at_ + h.len))
  let stop := c.align.pos / 8
  if src.length < stop + 2 then throw (dmgSHORT, src.length)
  if crcPlain (0x8005 : BitVec 16) (sliceOf at_ (stop - at_) src) ≠ beAt src stop 2 then throw (dmgCHECK, stop)
  let chans := flacStereo h.assign chans
  return (h, (List.range h.block).map (fun j => chans.map (fun ch => ch.getD j 0)), stop + 2)

/-- The next valid frame sync from an offset on, of a frame past sample `e`. -/
def flacSync (i : FlacInfo) (src : List Byte) (e : Nat) : Nat → Nat → Option Nat
  | 0, _ => none
  | fuel + 1, at_ =>
    match flacHead i src at_ with
    | .ok h => if e < h.first then some at_ else flacSync i src e fuel (at_ + 1)
    | .error _ => flacSync i src e fuel (at_ + 1)

/-- The frames in order up to `target` samples: what is decoded, newest block first, the first damage, and whether samples were
discarded. -/
def flacWalk (i : FlacInfo) (src : List Byte) (target : Nat) :
    Nat → Nat → Nat → List (List (Option (List Int))) → Option StreamDamage → List (Option (List Int)) × Option StreamDamage × Bool
  | 0, _, _, done, d => (done.reverse.flatten, d, false)
  | fuel + 1, at_, e, done, d =>
    let stop (d' : Option StreamDamage) (excess : Bool) : List (Option (List Int)) × Option StreamDamage × Bool :=
      let all := done.reverse.flatten
      (all.take target ++ List.replicate (target - all.length) none, d.orElse (fun _ => d'), excess)
    if src.length ≤ at_ then stop (if e < target then some (dmgSHORT, src.length) else none) (decide (target < e))
    else
      let good : Except StreamDamage (FlacHead × List (List Int) × Nat) := match flacFrame i src at_ with
        | .ok f => if f.1.first < e then .error (dmgSYNTAX, at_) else .ok f
        | x => x
      match good with
      | .ok (h, xs, next) =>
        if target ≤ e then stop none true
        else
          let gap := min h.first target - e
          let d := d.orElse (fun _ => if e < h.first then some (dmgSYNTAX, at_) else none)
          flacWalk i src target fuel next (h.first + h.block) (xs.map some :: List.replicate gap none :: done) d
      | .error x =>
        if target ≤ e then stop none (decide (target < e))
        else
          match flacSync i src e (src.length - at_) (at_ + 1) with
          | none => stop (some x) false
          | some next =>
            let upTo := (flacHead i src next).toOption.elim e (·.first)
            flacWalk i src target fuel next upTo (List.replicate (min upTo target - e) none :: done) (d.orElse (fun _ => some x))

/-- The decode of a FLAC stream (R170, R172, R174). -/
def flacDecode (declared : Nat) (src : List Byte) : Decoded :=
  match flacInfo src with
  | .error _ => default
  | .ok i =>
    let target := if i.total = 0 then declared else i.total
    match flacFrames src src.length 4 with
    | .error o => audioDecoded false i.channels (List.replicate target none) (some (dmgSYNTAX, o)) false
    | .ok at_ =>
      let (xs, d, excess) := flacWalk i src target (src.length + 1) at_ 0 [] none
      audioDecoded false i.channels xs d excess

/-! ## Layer III -/

/-- Sampling rates of MPEG-1; MPEG-2 halves them. -/
def layer3Rates : List Nat := [44100, 48000, 32000]

/-- Headers of an MPEG-1 or MPEG-2 Layer III stream, from its first frame header after an ID3v2 tag. -/
def layer3Headers (src : List Byte) : Headers :=
  let tag := if beAt src 0 3 = 0x494433 ∧ 10 ≤ src.length then
      10 + (sliceOf 6 4 src).foldl (fun acc b => acc * 128 + b.toNat % 128) 0 else 0
  let w := beAt src tag 4
  let version := w / 2 ^ 19 % 4
  let rate := w / 2 ^ 10 % 4
  if src.length < tag + 4 ∨ w / 2 ^ 21 ≠ 0x7FF ∨ version < 2 ∨ w / 2 ^ 17 % 4 ≠ 1 ∨ w / 2 ^ 12 % 16 = 15 ∨ rate = 3 then headersBad (min tag src.length)
  else audioHeaders tag (Config.lossyPrecision 7) (Config.lossyPrecision 7) (if w / 64 % 4 = 3 then 1 else 2)
    (layer3Rates.getD rate 0 / (if version = 3 then 1 else 2)) none

/-! ## Opus in Ogg -/

/-- Headers of an Opus stream, from the identification packet of its first page. -/
def opusHeaders (src : List Byte) : Headers :=
  let p := 27 + leAt src 26 1
  if src.length < 27 ∨ beAt src 0 4 ≠ 0x4F676753 ∨ leAt src 4 1 ≠ 0 then headersBad 0
  else if src.length < p + 19 ∨ beAt src p 8 ≠ 0x4F70757348656164 ∨ 16 ≤ leAt src (p + 8) 1 ∨ leAt src (p + 9) 1 = 0 then
    headersBad (min p src.length)
  else audioHeaders p (Config.lossyPrecision 8) (Config.lossyPrecision 8) (leAt src (p + 9) 1) 48000 none

end Sys2Proof.Machine
end

