-- ==== Sys2Proof/Machine/Fax.lean ====
section
/-!
DEFINITION. CCITT T.4 and T.6 bilevel coding as TIFF carries it (R166): Modified Huffman, T.4 in one and two dimensions, and T.6.
-/

namespace Sys2Proof.Machine

/-! ## Codes, as length and value -/

/-- White runs of 0 to 63, then of 64 to 1,728 in steps of 64. -/
def faxWhite : List (Nat × Nat) :=
  [(8, 53), (6, 7), (4, 7), (4, 8), (4, 11), (4, 12), (4, 14), (4, 15), (5, 19), (5, 20), (5, 7), (5, 8), (6, 8), (6, 3),
   (6, 52), (6, 53), (6, 42), (6, 43), (7, 39), (7, 12), (7, 8), (7, 23), (7, 3), (7, 4), (7, 40), (7, 43), (7, 19), (7, 36),
   (7, 24), (8, 2), (8, 3), (8, 26), (8, 27), (8, 18), (8, 19), (8, 20), (8, 21), (8, 22), (8, 23), (8, 40), (8, 41), (8, 42)] ++
  [(8, 43), (8, 44), (8, 45), (8, 4), (8, 5), (8, 10), (8, 11), (8, 82), (8, 83), (8, 84), (8, 85), (8, 36), (8, 37), (8, 88),
   (8, 89), (8, 90), (8, 91), (8, 74), (8, 75), (8, 50), (8, 51), (8, 52), (5, 27), (5, 18), (6, 23), (7, 55), (8, 54), (8, 55),
   (8, 100), (8, 101), (8, 104), (8, 103), (9, 204), (9, 205), (9, 210), (9, 211), (9, 212), (9, 213), (9, 214), (9, 215), (9, 216), (9, 217)] ++
  [(9, 218), (9, 219), (9, 152), (9, 153), (9, 154), (6, 24), (9, 155)]

/-- Black runs, in the same order. -/
def faxBlack : List (Nat × Nat) :=
  [(10, 55), (3, 2), (2, 3), (2, 2), (3, 3), (4, 3), (4, 2), (5, 3), (6, 5), (6, 4), (7, 4), (7, 5), (7, 7), (8, 4),
   (8, 7), (9, 24), (10, 23), (10, 24), (10, 8), (11, 103), (11, 104), (11, 108), (11, 55), (11, 40), (11, 23), (11, 24), (12, 202), (12, 203),
   (12, 204), (12, 205), (12, 104), (12, 105), (12, 106), (12, 107), (12, 210), (12, 211), (12, 212), (12, 213), (12, 214), (12, 215), (12, 108), (12, 109)] ++
  [(12, 218), (12, 219), (12, 84), (12, 85), (12, 86), (12, 87), (12, 100), (12, 101), (12, 82), (12, 83), (12, 36), (12, 55), (12, 56), (12, 39),
   (12, 40), (12, 88), (12, 89), (12, 43), (12, 44), (12, 90), (12, 102), (12, 103), (10, 15), (12, 200), (12, 201), (12, 91), (12, 51), (12, 52),
   (12, 53), (13, 108), (13, 109), (13, 74), (13, 75), (13, 76), (13, 77), (13, 114), (13, 115), (13, 116), (13, 117), (13, 118), (13, 119), (13, 82)] ++
  [(13, 83), (13, 84), (13, 85), (13, 90), (13, 91), (13, 100), (13, 101)]

/-- Runs of 1,792 to 2,560 in steps of 64, of both colours. -/
def faxLong : List (Nat × Nat) :=
  [(11, 8), (11, 12), (11, 13), (12, 18), (12, 19), (12, 20), (12, 21), (12, 22), (12, 23), (12, 28), (12, 29), (12, 30), (12, 31)]

/-- The modes of two dimensions: V0, VR1, VL1, horizontal, pass, VR2, VL2, VR3, VL3. -/
def faxModes : List (Nat × Nat) := [(1, 1), (3, 3), (3, 2), (3, 1), (4, 1), (6, 3), (6, 2), (7, 3), (7, 2)]

/-- Read one code of a table: its index. A run of bits that is none is ENTROPY at its first bit. -/
def faxCode (t : List (Nat × Nat)) (elem : Nat) : Nat → Nat → Nat → BitCursor → Except StreamDamage (Nat × BitCursor)
  | 0, _, _, _ => .error (dmgENTROPY, elem / 8)
  | fuel + 1, len, acc, c => do
    let (b, c') ← c.take 1
    match t.findIdx? (fun e => e == (len + 1, 2 * acc + b)) with
    | some k => return (k, c')
    | none => faxCode t elem fuel (len + 1) (2 * acc + b) c'

/-- The length of a run: make-up codes and a terminating code. -/
def faxRun (black : Bool) : Nat → Nat → BitCursor → Except StreamDamage (Nat × BitCursor)
  | 0, _, c => .error (dmgENTROPY, c.pos / 8)
  | fuel + 1, sum, c => do
    let (k, c') ← faxCode ((if black then faxBlack else faxWhite) ++ faxLong) c.pos 13 0 0 c
    if k < 64 then return (sum + k, c')
    else faxRun black fuel (sum + (k - 63) * 64) c'

/-! ## Rows, black as true -/

/-- A row in one dimension: alternate runs from white. `row` holds the pixels so far, newest first. -/
def faxRow1 (w : Nat) : Nat → Bool → List Bool → BitCursor → Except StreamDamage (List Bool × BitCursor)
  | 0, _, _, c => .error (dmgENTROPY, c.pos / 8)
  | fuel + 1, black, row, c => do
    let (n, c') ← faxRun black (w / 64 + 2) 0 c
    let row := List.replicate n black ++ row
    if w < row.length then throw (dmgENTROPY, c.pos / 8)
    else if row.length = w then return (row.reverse, c')
    else faxRow1 w fuel (!black) row c'

/-- The first change on the line above, from a column on, to the colour other than `black`; the width where there is none. -/
def faxChange (above : List Bool) (w start : Nat) (black : Bool) : Nat :=
  ((List.range w).find? (fun p => decide (start ≤ p) && (above.getD p false == !black) &&
    ((if p = 0 then false else above.getD (p - 1) false) == black))).getD w

/-- A row in two dimensions (T.4 4.2, T.6). `start` is the first column past a0. -/
def faxRow2 (w : Nat) (above : List Bool) : Nat → Bool → Nat → List Bool → BitCursor → Except StreamDamage (List Bool × BitCursor)
  | 0, _, _, _, c => .error (dmgENTROPY, c.pos / 8)
  | fuel + 1, black, start, row, c => do
    if row.length = w then return (row.reverse, c)
    let a0 := row.length
    let b1 := faxChange above w start black
    let (k, c') ← faxCode faxModes c.pos 7 0 0 c
    if k = 4 then
      let b2 := faxChange above w (b1 + 1) (!black)
      faxRow2 w above fuel black (b2 + 1) (List.replicate (b2 - a0) black ++ row) c'
    else if k = 3 then
      let (m, c1) ← faxRun black (w / 64 + 2) 0 c'
      let (n, c2) ← faxRun (!black) (w / 64 + 2) 0 c1
      if w < a0 + m + n then throw (dmgENTROPY, c.pos / 8)
      else faxRow2 w above fuel black (a0 + m + n + 1) (List.replicate n (!black) ++ (List.replicate m black ++ row)) c2
    else
      let left := [0, 0, 1, 0, 0, 0, 2, 0, 3].getD k 0
      let right := [0, 1, 0, 0, 0, 2, 0, 3, 0].getD k 0
      let a1 := b1 + right - left
      if b1 + right < left + a0 ∨ w < a1 ∨ (a1 = a0 ∧ start ≠ 0) then throw (dmgENTROPY, c.pos / 8)
      else faxRow2 w above fuel (!black) (a1 + 1) (List.replicate (a1 - a0) black ++ row) c'

/-- The end-of-line code with its fill: what follows it. -/
def faxEol (c : BitCursor) : Option BitCursor :=
  let z := (c.bits.takeWhile (fun b => !b)).length
  if 11 ≤ z ∧ z < c.bits.length then some ⟨c.bits.drop (z + 1), c.pos + z + 1⟩ else none

/-- How a strip is coded. -/
inductive FaxForm where
  /-- TIFF compression 2: rows from byte boundaries. -/
  | modified
  /-- T.4, with rows in two dimensions where a tag bit after the end of line says so. -/
  | group3 (twoD : Bool)
  | group4
deriving DecidableEq, Repr

/-- One row of a form. -/
def faxRow (form : FaxForm) (w : Nat) (above : List Bool) (c : BitCursor) : Except StreamDamage (List Bool × BitCursor) :=
  let fuel := 2 * w + 2
  match form with
  | .modified => faxRow1 w fuel false [] c.align
  | .group4 => if (faxEol c).isSome then .error (dmgSHORT, c.pos / 8) else faxRow2 w above fuel false 0 [] c
  | .group3 twoD =>
    match faxEol c with
    | none => if twoD then .error (dmgENTROPY, c.pos / 8) else faxRow1 w fuel false [] c
    | some c' => do
      if (faxEol c').isSome then throw (dmgSHORT, c.pos / 8)
      if twoD then
        let (t, c') ← c'.take 1
        if (faxEol c').isSome then throw (dmgSHORT, c.pos / 8)
        if t = 1 then faxRow1 w fuel false [] c' else faxRow2 w above fuel false 0 [] c'
      else faxRow1 w fuel false [] c'

/-- Rows packed into bytes, up to the first damage. -/
def faxRows (form : FaxForm) (w : Nat) : Nat → List Bool → BitCursor → List (List Byte) → List Byte × Option StreamDamage
  | 0, _, _, done => (done.reverse.flatten, none)
  | n + 1, above, c, done =>
    match faxRow form w above c with
    | .error d => (done.reverse.flatten, some d)
    | .ok (row, c') =>
      let bytes := (runsOf 8 w row).map (fun bs =>
        BitVec.ofNat 8 ((bs ++ List.replicate (8 - bs.length) false).foldl (fun acc b => 2 * acc + b.toNat) 0))
      faxRows form w n row c' (bytes :: done)

/-- A strip of `rows` rows. -/
def faxExpand (form : FaxForm) (w rows : Nat) (data : List Byte) : List Byte × Option StreamDamage :=
  faxRows form w rows (List.replicate w false) (BitCursor.msb data 0) []

end Sys2Proof.Machine
end

