-- ==== Sys2Proof/Machine/Tiff.lean ====
section
/-!
DEFINITION. TIFF 6.0 as the image mills read it (R161, R166, R172, R174): the first IFD, its accepted and refused features, and
its strips and tiles.
-/

namespace Sys2Proof.Machine

/-! ## The first IFD -/

/-- An entry: its offset, type and count. -/
structure TiffTag where
  id : Nat
  at_ : Nat
  kind : Nat
  count : Nat
deriving DecidableEq, Repr

/-- A file: byte order, the IFD's offset and its entries. -/
structure TiffDir where
  big : Bool
  ifd : Nat
  tags : List TiffTag
deriving DecidableEq, Repr

/-- A number in the file's byte order. -/
def tiffNum (big : Bool) (src : List Byte) (off len : Nat) : Nat := if big then beAt src off len else leAt src off len

/-- Bytes of a value of a type; 0 for a type that TIFF 6.0 does not list. -/
def tiffSize (kind : Nat) : Nat := [0, 1, 1, 2, 4, 8, 1, 1, 2, 4, 8, 4, 8].getD kind 0

/-- The first IFD, or the offset of what is malformed; `true` where it is refused. -/
def tiffDir (src : List Byte) : Except (Bool × Nat) TiffDir :=
  let n := src.length
  let big := decide (src.take 2 = [0x4D, 0x4D])
  if !big && decide (src.take 2 ≠ [0x49, 0x49]) then .error (false, 0)
  else if 4 ≤ n ∧ tiffNum big src 2 2 = 43 then .error (true, 2)
  else if n < 8 ∨ tiffNum big src 2 2 ≠ 42 then .error (false, 2)
  else
    let ifd := tiffNum big src 4 4
    if ifd < 8 ∨ n < ifd + 2 then .error (false, 4)
    else
      let k := tiffNum big src ifd 2
      if n < ifd + 2 + 12 * k then .error (false, ifd)
      else .ok ⟨big, ifd, (List.range k).map (fun j =>
        let a := ifd + 2 + 12 * j
        ⟨tiffNum big src a 2, a, tiffNum big src (a + 2) 2, tiffNum big src (a + 4) 4⟩)⟩

/-- The values of an entry; none where its type is unknown or they lie outside the file. -/
def TiffDir.values (d : TiffDir) (src : List Byte) (t : TiffTag) : Option (List Nat) :=
  let w := tiffSize t.kind
  let off := if w * t.count ≤ 4 then t.at_ + 8 else tiffNum d.big src (t.at_ + 8) 4
  if w = 0 ∨ t.count = 0 ∨ src.length < off + w * t.count then none
  else some ((List.range t.count).map (fun j => tiffNum d.big src (off + w * j) w))

def TiffDir.find (d : TiffDir) (id : Nat) : Option TiffTag := d.tags.find? (fun t => t.id == id)

/-- The values of a tag; empty where it is absent or malformed. -/
def TiffDir.all (d : TiffDir) (src : List Byte) (id : Nat) : List Nat := ((d.find id).bind (d.values src)).getD []

/-- The first value of a tag, or a default. -/
def TiffDir.one (d : TiffDir) (src : List Byte) (id default_ : Nat) : Nat := (d.all src id).headD default_

/-- The offset of a tag's entry; of the IFD where the tag is absent. -/
def TiffDir.offset (d : TiffDir) (id : Nat) : Nat := (d.find id).elim d.ifd (·.at_)

/-! ## What the tags say -/

/-- An image's layout. -/
structure TiffInfo where
  big : Bool
  width : Nat
  height : Nat
  bits : Nat
  /-- Colour samples, and one alpha sample or none. -/
  base : Nat
  alpha : Nat
  photometric : Nat
  compression : Nat
  fill : Nat
  planar : Nat
  predictor : Nat
  t4 : Nat
  /-- Size of a strip or tile, and whether it is a tile. -/
  segW : Nat
  segH : Nat
  tiled : Bool
  offsets : List Nat
  counts : List Nat
  colours : List Nat
deriving DecidableEq, Repr

def TiffInfo.samples (i : TiffInfo) : Nat := i.base + i.alpha
/-- Strips or tiles across, down, and in all planes. -/
def TiffInfo.across (i : TiffInfo) : Nat := ceilDiv i.width i.segW
def TiffInfo.down (i : TiffInfo) : Nat := ceilDiv i.height i.segH
def TiffInfo.planes (i : TiffInfo) : Nat := if i.planar = 2 then i.samples else 1
def TiffInfo.segments (i : TiffInfo) : Nat := i.across * i.down * i.planes
/-- Samples of a pixel in one strip or tile. -/
def TiffInfo.perPixel (i : TiffInfo) : Nat := if i.planar = 2 then 1 else i.samples

/-- The layout of a directory, with the defaults of the standard. -/
def TiffDir.info (d : TiffDir) (src : List Byte) : TiffInfo :=
  let tiled := (d.find 322).isSome || (d.find 324).isSome
  let width := d.one src 256 0
  let height := d.one src 257 0
  let photometric := d.one src 262 0
  let base := if photometric = 2 then 3 else 1
  { big := d.big, width := width, height := height
    bits := d.one src 258 1, base := base, alpha := d.one src 277 1 - base
    photometric := photometric, compression := d.one src 259 1, fill := d.one src 266 1, planar := d.one src 284 1
    predictor := d.one src 317 1, t4 := d.one src 292 0
    segW := if tiled then d.one src 322 0 else width
    segH := if tiled then d.one src 323 0 else min height (d.one src 278 height)
    tiled := tiled
    offsets := d.all src (if tiled then 324 else 273), counts := d.all src (if tiled then 325 else 279)
    colours := d.all src 320 }

/-- The tags the mill reads. -/
def tiffRead (tiled : Bool) : List Nat :=
  [256, 257, 258, 259, 262, 266, 274, 277, 278, 284, 292, 317, 320, 338, 339] ++ (if tiled then [322, 323, 324, 325] else [273, 279])

/-- The compressions of R166. -/
def tiffCompressions : List Nat := [1, 2, 3, 4, 5, 8, 32946, 32773]

/-- What is refused, by the table of R166, with the tag at fault. -/
def TiffDir.refused (d : TiffDir) (src : List Byte) : List Nat :=
  let i := d.info src
  let samples := d.one src 277 1
  let depths := if (d.find 258).isSome then d.all src 258 else [1]
  let extra := d.all src 338
  let packed := decide (i.compression = 5 ∨ i.compression = 8 ∨ i.compression = 32946)
  let fax := decide (2 ≤ i.compression ∧ i.compression ≤ 4)
  let when_ (b : Bool) (id : Nat) : List Nat := if b then [d.offset id] else []
  when_ (decide (65535 < i.width)) 256 ++ when_ (decide (65535 < i.height)) 257
    ++ when_ (!tiffCompressions.contains i.compression || (fax && i.bits != 1)) 259
    ++ when_ (decide (3 < i.photometric)) 262
    ++ when_ (i.fill != 1 && i.fill != 2) 266
    ++ when_ (samples != i.base && samples != i.base + 1) 277
    ++ when_ (samples == i.base + 1 && extra != [1] && extra != [2]) (if (d.find 338).isSome then 338 else 277)
    ++ when_ (depths.any (· != i.bits) || !(i.bits == 8 || i.bits == 16 || (i.bits == 1 && samples == 1 && decide (i.photometric ≤ 1)))) 258
    ++ when_ (i.planar != 1 && i.planar != 2) 284
    ++ when_ (packed && i.predictor != 1 && i.predictor != 2) 317
    ++ when_ ((d.all src 339).any (fun f => f == 2 || f == 3)) 339

/-- What is malformed: an entry whose values cannot be read, an empty size, or a table too short for the image. -/
def TiffDir.malformed (d : TiffDir) (src : List Byte) : List Nat :=
  let i := d.info src
  let unread := d.tags.filterMap (fun t => if (tiffRead i.tiled).contains t.id && (d.values src t).isNone then some t.at_ else none)
  let empty := [256, 257, if i.tiled then 322 else 278, if i.tiled then 323 else 278].filterMap (fun id =>
    if (d.find id).isSome && d.one src id 1 == 0 then some (d.offset id) else none)
  let sized := decide (0 < i.segW ∧ 0 < i.segH)
  let short (id : Nat) (n want : Nat) : List Nat := if sized && (d.find id).isSome && decide (n < want) then [d.offset id] else []
  unread ++ empty ++ short (if i.tiled then 324 else 273) i.offsets.length i.segments
    ++ short (if i.tiled then 325 else 279) i.counts.length i.segments
    ++ (if i.photometric = 3 then short 320 i.colours.length (3 * 2 ^ i.bits) else [])

/-- A tag that the standard requires is missing. -/
def TiffDir.lacks (d : TiffDir) (src : List Byte) : Bool :=
  let tiled := (d.info src).tiled
  ([256, 257, 262] ++ (if tiled then [322, 323, 324, 325] else [273, 279]) ++ (if d.one src 262 0 = 3 then [320] else [])).any
    (fun id => (d.find id).isNone)

/-- The first fault of a file in the order of its tags: refused (`true`) or malformed, and the offset. -/
def tiffFault (src : List Byte) : Option (Bool × Nat) :=
  match tiffDir src with
  | .error e => some e
  | .ok d =>
    let all := (d.malformed src).map (fun o => (false, o)) ++ (d.refused src).map (fun o => (true, o))
    let first : Option (Bool × Nat) := all.foldl (fun acc e => match acc with
      | some a => if e.2 < a.2 then some e else acc
      | none => some e) none
    match first with
    | some e => some e
    | none => if d.lacks src then some (false, d.ifd) else none

/-- Headers of a TIFF file (R166). -/
def tiffHeaders (src : List Byte) : Headers :=
  match tiffDir src with
  | .error (refused, o) => if refused then { (default : Headers) with known := true, unsupported := some o } else headersBad o
  | .ok d =>
    let i := d.info src
    let next := d.ifd + 2 + 12 * d.tags.length
    let orient := d.one src 274 0
    let h : Headers := { (default : Headers) with
      known := true, sizeAt := d.offset 256, right := i.width, bottom := i.height
      bits := if i.photometric = 3 then 16 else i.bits
      comps := if i.photometric = 2 ∨ i.photometric = 3 then 3 else 1
      alpha := i.alpha == 1
      srcBits := i.bits, srcComps := i.samples
      whiteIsZero := i.photometric == 0 && i.bits == 1
      orient := if orient ≤ 8 then orient else 0
      extraIfd := decide (next + 4 ≤ src.length) && tiffNum d.big src next 4 != 0 }
    match tiffFault src with
    | some (true, o) => { h with unsupported := some o }
    | some (false, o) => headersBad o
    | none => h

/-! ## Compressions -/

/-- PackBits. -/
def unpackRuns (need : Nat) : Nat → List Byte → List Byte → List Byte × Option StreamDamage
  | 0, _, out => (out.reverse, none)
  | fuel + 1, data, out =>
    if need ≤ out.length then (out.reverse, none)
    else match data with
      | [] => (out.reverse, some (dmgSHORT, 0))
      | n :: rest =>
        let n := n.toNat
        if n < 128 then
          let run := rest.take (n + 1)
          if run.length < n + 1 then ((run.reverse ++ out).reverse, some (dmgSHORT, 0))
          else unpackRuns need fuel (rest.drop (n + 1)) (run.reverse ++ out)
        else if n = 128 then unpackRuns need fuel rest out
        else match rest with
          | [] => (out.reverse, some (dmgSHORT, 0))
          | b :: rest => unpackRuns need fuel rest (List.replicate (257 - n) b ++ out)

/-- Bits of an LZW code when `next` is the next code to be assigned. -/
def lzwWidth (next : Nat) : Nat := if next < 511 then 9 else if next < 1023 then 10 else if next < 2047 then 11 else 12

/-- LZW: the strings from code 258 on, the last string, and the output, newest byte first. -/
def lzwRun (need : Nat) : Nat → BitCursor → Array (List Byte) → Option (List Byte) → List Byte → List Byte × Option StreamDamage
  | 0, c, _, _, out => (out.reverse, some (dmgENTROPY, c.pos / 8))
  | fuel + 1, c, table, last, out =>
    if need ≤ out.length then (out.reverse, none)
    else match c.take (lzwWidth (258 + table.size)) with
      | .error d => (out.reverse, some d)
      | .ok (code, c') =>
        if code = 256 then lzwRun need fuel c' #[] none out
        else if code = 257 then (out.reverse, some (dmgSHORT, c.pos / 8))
        else
          let known : Option (List Byte) := if code < 256 then some [BitVec.ofNat 8 code] else table[code - 258]?
          match last with
          | none => match known with
            | some str => lzwRun need fuel c' table (some str) (str.reverse ++ out)
            | none => (out.reverse, some (dmgENTROPY, c.pos / 8))
          | some prev =>
            match (if code = 258 + table.size then some (prev ++ prev.take 1) else known) with
            | none => (out.reverse, some (dmgENTROPY, c.pos / 8))
            | some str =>
              let table := if 258 + table.size < 4096 then table.push (prev ++ str.take 1) else table
              lzwRun need fuel c' table (some str) (str.reverse ++ out)

/-- The bytes of a strip or tile of `rows` rows of `rowBytes` bytes, and the first damage by its offset in the data. -/
def TiffInfo.expand (i : TiffInfo) (rows rowBytes : Nat) (data : List Byte) : List Byte × Option StreamDamage :=
  let need := rows * rowBytes
  let r : List Byte × Option StreamDamage :=
    if i.compression = 1 then (data, none)
    else if i.compression = 2 then faxExpand .modified i.segW rows data
    else if i.compression = 3 then faxExpand (.group3 (i.t4 % 2 = 1)) i.segW rows data
    else if i.compression = 4 then faxExpand .group4 i.segW rows data
    else if i.compression = 5 then lzwRun need (8 * data.length + 1) (BitCursor.msb data 0) #[] none []
    else if i.compression = 32773 then
      let (out, d) := unpackRuns need (data.length + 1) data []
      (out, d.map (fun _ => (dmgSHORT, data.length)))
    else zlibRun data none
  match r.2 with
  | some d => (r.1.take need, some d)
  | none => (r.1.take need, if r.1.length < need then some (dmgSHORT, data.length) else none)

/-- Predictor 2: each sample is the difference from the one a pixel before. -/
def undoDifference (k top : Nat) : List Nat → List Nat → List Nat
  | [], done => done.reverse
  | v :: vs, done => undoDifference k top vs ((v + done.getD (k - 1) 0) % top :: done)

/-! ## The image -/

/-- What the strips and tiles yield: samples of each plane by position, the first damage, and the concealed units, oldest first. -/
structure TiffWork where
  planes : List Raster
  damage : Option StreamDamage
  lost : List Nat
deriving Repr

/-- Decode strip or tile `j`. -/
def TiffInfo.segment (i : TiffInfo) (src : List Byte) (w : TiffWork) (j : Nat) : TiffWork :=
  let per := i.across * i.down
  let plane := j / per
  let x0 := j % per % i.across * i.segW
  let y0 := j % per / i.across * i.segH
  let rows := if i.tiled then i.segH else min i.segH (i.height - y0)
  let samples := i.segW * i.perPixel
  let rowBytes := ceilDiv (samples * i.bits) 8
  let at_ := min (i.offsets.getD j 0) src.length
  let data := sliceOf at_ (i.counts.getD j 0) src
  let data := if i.fill = 2 then data.map mirrorByte else data
  let (bytes, d) := i.expand rows rowBytes data
  let packed := decide (i.compression = 5 ∨ i.compression = 8 ∨ i.compression = 32946)
  let good := (runsOf rowBytes (rows + 1) bytes).filter (fun r => r.length == rowBytes)
  let pixels := good.zipIdx.flatMap (fun (row, y) =>
    let vs := rowSamples i.big i.bits samples row
    let vs := if packed ∧ i.predictor = 2 then undoDifference i.perPixel (2 ^ i.bits) vs [] else vs
    (runsOf i.perPixel i.segW vs).zipIdx.filterMap (fun (px, x) =>
      if x0 + x < i.width ∧ y0 + y < i.height then some ((y0 + y) * i.width + x0 + x, px.map Int.ofNat) else none))
  { planes := w.planes.modify plane (fun r => r.put pixels)
    damage := w.damage.orElse (fun _ => d.map (fun e => (e.1, at_ + e.2)))
    lost := if good.length < rows then w.lost ++ [j] else w.lost }

/-- A pixel from its stored samples: palettes expanded (R159). -/
def TiffInfo.pixel (i : TiffInfo) (px : List Int) : List Int :=
  if i.photometric = 3 then
    let v := (px.headD 0).toNat
    (List.range 3).map (fun k => ((i.colours.getD (k * 2 ^ i.bits + v) 0 : Nat) : Int))
      ++ (px.drop 1).map (fun a => if i.bits = 8 then a * 257 else a)
  else px

/-- The decode of a TIFF file: each failing strip or tile is concealed from its failing row (R172, R174). -/
def tiffDecode (src : List Byte) : Decoded :=
  match tiffDir src with
  | .error _ => default
  | .ok d =>
    let i := d.info src
    let n := i.width * i.height
    let w := (List.range i.segments).foldl (i.segment src) ⟨List.replicate i.planes (Raster.blank n), none, []⟩
    let r : Raster := Array.ofFn (n := n) (fun k =>
      let parts := w.planes.map (fun p => p.getD k.val none)
      if parts.all (·.isSome) then some (i.pixel (parts.flatMap (·.getD []))) else none)
    r.decoded (i.samples + (if i.photometric = 3 then 2 else 0)) w.damage (w.lost.headD 0) w.lost.length

end Sys2Proof.Machine
end

