-- ==== Sys2Proof/Machine/Jpeg.lean ====
section
/-!
DEFINITION. JPEG as the image mills read it (R161 to R164, R172, R174): the accepted features, the entropy-coded data of
sequential and progressive scans, restart markers and concealment by MCU. The inverse DCT, chroma upsampling and colour
conversion are those of the codec table revision (R159), which the manual does not repeat: `Config.jpegPixels`.
-/

namespace Sys2Proof.Machine

/-! ## Segments -/

/-- A marker, the offset of its first byte, and its data. -/
structure JpegSeg where
  marker : Nat
  at_ : Nat
  body : Nat
  len : Nat
deriving DecidableEq, Repr

/-- Markers without data: TEM, RST, SOI and EOI. -/
def jpegBare (m : Nat) : Bool := m == 0x01 || (decide (0xD0 ≤ m) && decide (m ≤ 0xD9))

/-- The segment at an offset. -/
def jpegSegment (src : List Byte) (p : Nat) : Except StreamDamage JpegSeg :=
  let n := src.length
  let fill := ((src.drop p).takeWhile (fun b => b == 0xFF)).length
  let m := leAt src (p + fill) 1
  let at_ := p + fill - 1
  let len := beAt src (at_ + 2) 2
  if n ≤ p then .error (dmgSHORT, n)
  else if fill = 0 then .error (dmgSYNTAX, p)
  else if n ≤ p + fill then .error (dmgSHORT, n)
  else if jpegBare m then .ok ⟨m, at_, at_ + 2, 0⟩
  else if m = 0 then .error (dmgSYNTAX, at_)
  else if n < at_ + 4 then .error (dmgSHORT, n)
  else if len < 2 then .error (dmgSYNTAX, at_)
  else if n < at_ + 2 + len then .error (dmgSHORT, n)
  else .ok ⟨m, at_, at_ + 4, len - 2⟩

/-- The segments up to SOS or EOI, and the damage that ends them first. -/
def jpegFront (src : List Byte) : Nat → Nat → List JpegSeg × Option StreamDamage
  | 0, p => ([], some (dmgSHORT, p))
  | fuel + 1, p =>
    match jpegSegment src p with
    | .error d => ([], some d)
    | .ok s =>
      if s.marker = 0xDA ∨ s.marker = 0xD9 then ([s], none)
      else if s.marker ≠ 1 ∧ jpegBare s.marker then ([], some (dmgSYNTAX, s.at_))
      else
        let (rest, d) := jpegFront src fuel (s.body + s.len)
        (s :: rest, d)

/-- A component of a frame. -/
structure JpegComp where
  id : Nat
  h : Nat
  v : Nat
  tq : Nat
deriving DecidableEq, Repr

/-- A frame. -/
structure JpegFrame where
  progressive : Bool
  width : Nat
  height : Nat
  comps : List JpegComp
deriving DecidableEq, Repr

/-- SOF0 to SOF15: every marker of that range but DHT and DAC. -/
def jpegSof (m : Nat) : Bool := decide (0xC0 ≤ m) && decide (m ≤ 0xCF) && m != 0xC4 && m != 0xCC

/-- The frame of a SOF segment. One component is an MCU of one block, whatever its factors. -/
def jpegFrame (src : List Byte) (s : JpegSeg) : JpegFrame :=
  let n := leAt src (s.body + 5) 1
  { progressive := s.marker == 0xC2
    width := beAt src (s.body + 3) 2, height := beAt src (s.body + 1) 2
    comps := (List.range n).map (fun k =>
      let p := s.body + 6 + 3 * k
      let hv := leAt src (p + 1) 1
      ⟨leAt src p 1, if n = 1 then 1 else hv / 16, if n = 1 then 1 else hv % 16, leAt src (p + 2) 1⟩) }

/-- What R162 refuses of a frame. -/
def jpegRefused (src : List Byte) (s : JpegSeg) : Bool :=
  let f := jpegFrame src s
  let factors := f.comps.map (fun c => (c.h, c.v))
  !(s.marker == 0xC0 || s.marker == 0xC1 || s.marker == 0xC2) || leAt src s.body 1 != 8
    || !(f.comps.length == 1
      || [[(1, 1), (1, 1), (1, 1)], [(2, 1), (1, 1), (1, 1)], [(2, 2), (1, 1), (1, 1)], [(1, 2), (1, 1), (1, 1)]].contains factors)
    || f.height == 0 || decide (32768 < f.width) || decide (32768 < f.height)

/-- EXIF orientation from APP1. -/
def exifOrient (src : List Byte) (s : JpegSeg) : Nat :=
  let tiff := sliceOf (s.body + 6) (s.len - 6) src
  if s.marker = 0xE1 ∧ beAt src s.body 6 = 0x457869660000 ∧ 6 ≤ s.len then
    match tiffDir tiff with
    | .ok d => if d.one tiff 274 0 ≤ 8 then d.one tiff 274 0 else 0
    | .error _ => 0
  else 0

/-- An Adobe APP14 with a transform flag of 0. -/
def adobeRgb (src : List Byte) (s : JpegSeg) : Bool :=
  s.marker == 0xEE && decide (12 ≤ s.len) && beAt src s.body 5 == 0x41646F6265 && leAt src (s.body + 11) 1 == 0

/-- Headers of a JPEG stream (R162). -/
def jpegHeaders (src : List Byte) : Headers :=
  if beAt src 0 2 ≠ 0xFFD8 then headersBad 0
  else
    let (segs, d) := jpegFront src src.length 2
    match segs.find? (fun s => jpegSof s.marker || s.marker == 0xDA) with
    | none => headersBad (match d with | some e => e.2 | none => (segs.getLast?.map (·.at_)).getD 2)
    | some s =>
      let f := jpegFrame src s
      if s.marker = 0xDA then headersBad s.at_
      else
        let h : Headers := { (default : Headers) with
          known := true, sizeAt := s.at_, right := f.width, bottom := f.height, bits := 8, comps := f.comps.length
          srcBits := 8, srcComps := f.comps.length
          orient := (((segs.map (exifOrient src)).find? (· != 0)).getD 0) }
        if s.len < 6 ∨ s.len < 6 + 3 * f.comps.length ∨ f.width = 0 then headersBad s.at_
        else if jpegRefused src s then { h with unsupported := some s.at_ }
        else h

/-! ## Entropy-coded data -/

/-- A run of entropy-coded bytes without their stuffing, the offset of each, and the marker that ends it: 0 where the stream does. -/
structure JpegChunk where
  bytes : List Byte
  offs : List Nat
  endAt : Nat
  marker : Nat
deriving DecidableEq, Repr

/-- The run of bytes from an offset. -/
def jpegChunk : List Byte → Nat → List Byte → List Nat → JpegChunk
  | [], p, bs, os => ⟨bs.reverse, os.reverse, p, 0⟩
  | [b], p, bs, os => if b = 0xFF then ⟨bs.reverse, os.reverse, p + 1, 0⟩ else ⟨(b :: bs).reverse, (p :: os).reverse, p + 1, 0⟩
  | b :: m :: rest, p, bs, os =>
    if b ≠ 0xFF then jpegChunk (m :: rest) (p + 1) (b :: bs) (p :: os)
    else if m = 0 then jpegChunk rest (p + 2) (b :: bs) (p :: os)
    else if m = 0xFF then jpegChunk (m :: rest) (p + 1) bs os
    else ⟨bs.reverse, os.reverse, p, m.toNat⟩

/-- Damage of a run, by its byte, as damage of the stream: data that ends at a marker is a malformed marker. -/
def JpegChunk.damage (k : JpegChunk) (d : StreamDamage) : StreamDamage :=
  if d.1 = dmgSHORT then if k.marker = 0 then (dmgSHORT, k.endAt) else (dmgSYNTAX, k.endAt)
  else (d.1, k.offs.getD d.2 k.endAt)

/-- RST0 to RST7. -/
def jpegRst (m : Nat) : Bool := decide (0xD0 ≤ m ∧ m ≤ 0xD7)

/-- The offset of the marker that ends a scan, and its runs. -/
def jpegScanEnd (src : List Byte) : Nat → Nat → Nat × Nat
  | 0, p => (p, 0)
  | fuel + 1, p =>
    let k := jpegChunk (src.drop p) p [] []
    if jpegRst k.marker then
      let (e, n) := jpegScanEnd src fuel (k.endAt + 2)
      (e, n + 1)
    else (k.endAt, 1)

/-! ## Tables -/

/-- The tables in force. -/
structure JpegTables where
  quant : List (Nat × List Nat)
  /-- By class and number: 0 for DC, 16 for AC, plus the number. -/
  huff : List (Nat × PrefixCode)
  restart : Nat
deriving DecidableEq, Repr

/-- The quantisation tables of a DQT segment. -/
def jpegQuant : Nat → List Byte → Option (List (Nat × List Nat))
  | 0, bs => if bs = [] then some [] else none
  | fuel + 1, bs =>
    match bs with
    | [] => some []
    | b :: rest =>
      let w := if b.toNat / 16 = 0 then 1 else 2
      if 1 < b.toNat / 16 ∨ 3 < b.toNat % 16 ∨ rest.length < 64 * w then none
      else (jpegQuant fuel (rest.drop (64 * w))).map (fun ts => ts ++ [(b.toNat % 16, (runsOf w 64 rest).map beNat)])

/-- The Huffman tables of a DHT segment. -/
def jpegHuff : Nat → List Byte → Option (List (Nat × PrefixCode))
  | 0, bs => if bs = [] then some [] else none
  | fuel + 1, bs =>
    match bs with
    | [] => some []
    | b :: rest =>
      let counts := (rest.take 16).map (·.toNat)
      let n := counts.sum
      let room : Int := counts.foldl (fun (left : Int) (c : Nat) => if left < 0 then left else 2 * left - (c : Int)) 1
      if 1 < b.toNat / 16 ∨ 3 < b.toNat % 16 ∨ rest.length < 16 + n ∨ room < 0 then none
      else (jpegHuff fuel (rest.drop (16 + n))).map (fun ts => ts ++ [(b.toNat, ⟨counts, (sliceOf 16 n rest).map (·.toNat)⟩)])

/-! ## Blocks, coefficients in zigzag order -/

/-- The signed value of `t` bits. -/
def jpegExtend (t v : Nat) : Int := if t = 0 then 0 else if v < 2 ^ (t - 1) then (v : Int) - 2 ^ t + 1 else (v : Int)

/-- A DC difference. -/
def jpegDiff (k : PrefixCode) (c : BitCursor) : Except StreamDamage (Int × BitCursor) := do
  let (t, c') ← c.symbol k
  if 11 < t then throw (dmgENTROPY, c.pos / 8)
  let (v, c') ← c'.take t
  return (jpegExtend t v, c')

/-- The state of a block in a scan: coefficients, the run of blocks that end early, and the bits. -/
structure JpegBlock where
  coef : Array Int
  run : Nat
  bits : BitCursor
deriving Repr

/-- AC coefficients of a sequential scan, or of the first pass of a band; `early` allows runs of blocks. -/
def jpegAcFirst (k : PrefixCode) (early : Bool) (se al : Nat) : Nat → Nat → JpegBlock → Except StreamDamage JpegBlock
  | 0, _, b => .ok b
  | fuel + 1, i, b =>
    if se < i then .ok b
    else do
      let elem := b.bits.pos / 8
      let (rs, c) ← b.bits.symbol k
      let r := rs / 16
      let s := rs % 16
      if s = 0 then
        if r = 15 then
          if se < i + 15 then throw (dmgENTROPY, elem)
          jpegAcFirst k early se al fuel (i + 16) { b with bits := c }
        else if r = 0 then return { b with bits := c }
        else if !early then throw (dmgENTROPY, elem)
        else
          let (x, c) ← c.take r
          return { b with bits := c, run := 2 ^ r + x - 1 }
      else
        if se < i + r ∨ (!early ∧ 10 < s) then throw (dmgENTROPY, elem)
        let (v, c) ← c.take s
        jpegAcFirst k early se al fuel (i + r + 1) { b with bits := c, coef := b.coef.setIfInBounds (i + r) (jpegExtend s v * 2 ^ al) }

/-- Move past `zeros` zero coefficients, refining the others: the place of the next. -/
def jpegRefine (se al : Nat) : Nat → Nat → Nat → JpegBlock → Except StreamDamage (Nat × JpegBlock)
  | 0, i, _, b => .ok (i, b)
  | fuel + 1, i, zeros, b =>
    let v := b.coef.getD i 0
    if se < i then .ok (i, b)
    else if v ≠ 0 then do
      let (x, c) ← b.bits.take 1
      let v' := if x = 1 then (if 0 < v then v + 2 ^ al else v - 2 ^ al) else v
      jpegRefine se al fuel (i + 1) zeros { b with bits := c, coef := b.coef.setIfInBounds i v' }
    else if zeros = 0 then .ok (i, b)
    else jpegRefine se al fuel (i + 1) (zeros - 1) b

/-- AC coefficients of a refining pass. -/
def jpegAcRefine (k : PrefixCode) (se al : Nat) : Nat → Nat → JpegBlock → Except StreamDamage JpegBlock
  | 0, _, b => .ok b
  | fuel + 1, i, b =>
    if se < i then .ok b
    else if 0 < b.run then do
      let (_, b) ← jpegRefine se al 64 i 64 b
      return { b with run := b.run - 1 }
    else do
      let elem := b.bits.pos / 8
      let (rs, c) ← b.bits.symbol k
      let r := rs / 16
      let s := rs % 16
      if s = 0 ∧ r < 15 then
        let (x, c) ← c.take r
        let (_, b) ← jpegRefine se al 64 i 64 { b with bits := c }
        return { b with run := 2 ^ r + x - 1 }
      else
        if 1 < s then throw (dmgENTROPY, elem)
        let (x, c) ← c.take s
        let (j, b) ← jpegRefine se al 64 i r { b with bits := c }
        if s = 1 ∧ se < j then throw (dmgENTROPY, elem)
        let value : Int := if x = 1 then 2 ^ al else -(2 ^ al)
        jpegAcRefine k se al fuel (j + 1) (if s = 1 then { b with coef := b.coef.setIfInBounds j value } else b)

/-! ## Scans -/

/-- A component's blocks: how many across, each block's coefficients, its quantisation table, and whether a scan has brought its DC
coefficients. -/
structure JpegPlane where
  comp : JpegComp
  wide : Nat
  blocks : Array (Array Int)
  quant : List Nat
  seen : Bool
deriving Repr

/-- A scan: the places of its components with their DC and AC tables, and its band. -/
structure JpegScan where
  parts : List (Nat × Option PrefixCode × Option PrefixCode)
  ss : Nat
  se : Nat
  ah : Nat
  al : Nat
deriving DecidableEq, Repr

def JpegFrame.hMax (f : JpegFrame) : Nat := f.comps.foldl (fun m c => max m c.h) 1
def JpegFrame.vMax (f : JpegFrame) : Nat := f.comps.foldl (fun m c => max m c.v) 1
/-- MCUs across and down. -/
def JpegFrame.across (f : JpegFrame) : Nat := ceilDiv f.width (8 * f.hMax)
def JpegFrame.down (f : JpegFrame) : Nat := ceilDiv f.height (8 * f.vMax)

/-- Blocks across and down of a component that a scan holds alone. -/
def JpegFrame.blocksOf (f : JpegFrame) (c : JpegComp) : Nat × Nat :=
  (ceilDiv (ceilDiv (f.width * c.h) f.hMax) 8, ceilDiv (ceilDiv (f.height * c.v) f.vMax) 8)

/-- Empty planes. -/
def JpegFrame.planes (f : JpegFrame) : List JpegPlane :=
  f.comps.map (fun c =>
    ⟨c, f.across * c.h, Array.replicate (f.across * c.h * (f.down * c.v)) (Array.replicate 64 0), [], false⟩)

/-- MCUs of a scan. -/
def JpegScan.mcus (k : JpegScan) (f : JpegFrame) : Nat :=
  match k.parts with
  | [p] => let b := f.blocksOf (f.comps.getD p.1 ⟨0, 1, 1, 0⟩); b.1 * b.2
  | _ => f.across * f.down

/-- The blocks of MCU `m` of a scan: plane, its place among the scan's components, column and row. -/
def JpegScan.blocksAt (k : JpegScan) (f : JpegFrame) (m : Nat) : List (Nat × Nat × Nat × Nat) :=
  match k.parts with
  | [p] => let b := f.blocksOf (f.comps.getD p.1 ⟨0, 1, 1, 0⟩); [(p.1, 0, m % b.1, m / b.1)]
  | ps => ps.zipIdx.flatMap (fun (p, j) =>
    let c := f.comps.getD p.1 ⟨0, 1, 1, 0⟩
    (List.range c.v).flatMap (fun y => (List.range c.h).map (fun x =>
      (p.1, j, m % f.across * c.h + x, m / f.across * c.v + y))))

/-- The MCU of the frame that a scan's MCU lies in. -/
def JpegScan.frameMcu (k : JpegScan) (f : JpegFrame) (m : Nat) : Nat :=
  match k.parts with
  | [p] =>
    let c := f.comps.getD p.1 ⟨0, 1, 1, 0⟩
    let b := f.blocksOf c
    m / b.1 / c.v * f.across + m % b.1 / c.h
  | _ => m

/-- What a scan carries from block to block. -/
structure JpegRun where
  planes : List JpegPlane
  preds : List Int
  run : Nat
  bits : BitCursor
deriving Repr

/-- One block. -/
def JpegScan.block (k : JpegScan) (progressive : Bool) (r : JpegRun) (b : Nat × Nat × Nat × Nat) : Except StreamDamage JpegRun := do
  let (pi, j, x, y) := b
  let plane := r.planes.getD pi ⟨⟨0, 1, 1, 0⟩, 0, #[], [], false⟩
  let at_ := y * plane.wide + x
  let old := plane.blocks.getD at_ #[]
  let (_, dc, ac) := k.parts.getD j (0, none, none)
  let dc := dc.getD ⟨[], []⟩
  let ac := ac.getD ⟨[], []⟩
  let save (run : JpegRun) (coef : Array Int) : JpegRun :=
    { run with planes := run.planes.modify pi (fun p => { p with blocks := p.blocks.setIfInBounds at_ coef }) }
  if k.ss = 0 ∧ k.ah ≠ 0 then
    let (v, c) ← r.bits.take 1
    return save { r with bits := c } (old.setIfInBounds 0 (old.getD 0 0 + v * 2 ^ k.al))
  let (r, old) ← if k.ss = 0 then do
      let (d, c) ← jpegDiff dc r.bits
      let v := r.preds.getD j 0 + d
      pure ({ r with bits := c, preds := r.preds.set j v }, old.setIfInBounds 0 (v * 2 ^ k.al))
    else pure (r, old)
  if k.ss = 0 ∧ progressive then return save r old
  let first := max 1 k.ss
  if k.ah = 0 ∧ 0 < r.run then return { r with run := r.run - 1 }
  let done ← if k.ah = 0 then jpegAcFirst ac progressive k.se k.al 64 first ⟨old, r.run, r.bits⟩
    else jpegAcRefine ac k.se k.al 64 first ⟨old, r.run, r.bits⟩
  return save { r with bits := done.bits, run := done.run } done.coef

/-- The blocks of an MCU. -/
def JpegScan.blocks (k : JpegScan) (progressive : Bool) : List (Nat × Nat × Nat × Nat) → JpegRun → Except StreamDamage JpegRun
  | [], r => .ok r
  | b :: bs, r => do
    let r ← k.block progressive r b
    JpegScan.blocks k progressive bs r

/-- MCUs from `m` up to an end: what is decoded, and the failing MCU with its damage. -/
def JpegScan.run (k : JpegScan) (f : JpegFrame) (stop : Nat) : Nat → Nat → JpegRun → List JpegPlane × Option (Nat × StreamDamage)
  | 0, _, r => (r.planes, none)
  | fuel + 1, m, r =>
    if stop ≤ m then (r.planes, none)
    else match k.blocks f.progressive (k.blocksAt f m) r with
      | .error d => (r.planes, some (m, d))
      | .ok r' => JpegScan.run k f stop fuel (m + 1) r'

/-- A scan's outcome: planes, concealed MCUs of the scan in order, and the first damage. -/
structure JpegOutcome where
  planes : List JpegPlane
  lost : List Nat
  damage : Option StreamDamage
deriving Repr

/-- The restart intervals of a scan from MCU `m` on, the data at `p`, the next restart marker `rst`. After damage decoding resumes
at the next restart marker in sequence (R174). -/
def JpegScan.intervals (k : JpegScan) (f : JpegFrame) (src : List Byte) (restart : Nat) : Nat → Nat → Nat → Nat → JpegOutcome → JpegOutcome
  | 0, _, _, _, o => o
  | fuel + 1, p, m, rst, o =>
    let total := k.mcus f
    let stop := if restart = 0 then total else min total (m + restart)
    let chunk := jpegChunk (src.drop p) p [] []
    let (planes, failed) := k.run f stop (stop - m) m ⟨o.planes, List.replicate 4 0, 0, BitCursor.msb chunk.bytes 0⟩
    let gap (a b : Nat) : List Nat := (List.range (b - a)).map (a + ·)
    let o : JpegOutcome := { o with planes := planes }
    let o := match failed with
      | some (j, d) => { o with lost := o.lost ++ gap j stop, damage := o.damage.orElse (fun _ => some (chunk.damage d)) }
      | none => o
    if total ≤ stop then o
    else if !jpegRst chunk.marker then
      { o with
        lost := o.lost ++ gap stop total
        damage := o.damage.orElse (fun _ => some (if chunk.marker = 0 then dmgSHORT else dmgSYNTAX, chunk.endAt)) }
    else
      let skip := (chunk.marker + 8 - 0xD0 - rst % 8) % 8
      let next := min total (stop + skip * restart)
      let o := if skip = 0 then o else
        { o with lost := o.lost ++ gap stop next, damage := o.damage.orElse (fun _ => some (dmgSYNTAX, chunk.endAt)) }
      if total ≤ next then o else k.intervals f src restart fuel (chunk.endAt + 2) next (rst + skip + 1) o

/-! ## The stream -/

/-- A decode under way: tables, planes, the frame's MCUs that are filled and those that lost a pass, in order, the first damage,
and the bytes and restart intervals of each scan. -/
structure JpegWork where
  tables : JpegTables
  planes : List JpegPlane
  lost : List Nat
  dropped : List Nat
  damage : Option StreamDamage
  scans : List (Nat × Nat)
deriving Repr

/-- The scan of a SOS segment; none where it is malformed or names a table that is not there. -/
def jpegScan (src : List Byte) (f : JpegFrame) (w : JpegWork) (s : JpegSeg) : Option JpegScan :=
  let n := leAt src s.body 1
  let p := s.body + 1 + 2 * n
  let ss := leAt src p 1
  let se := leAt src (p + 1) 1
  let ah := leAt src (p + 2) 1 / 16
  let al := leAt src (p + 2) 1 % 16
  let table (k : Nat) : Option PrefixCode := (w.tables.huff.find? (fun t => t.1 == k)).map (·.2)
  let parts := (List.range n).filterMap (fun j =>
    let id := leAt src (s.body + 1 + 2 * j) 1
    let t := leAt src (s.body + 2 + 2 * j) 1
    (f.comps.findIdx? (fun c => c.id == id)).map (fun c => (c, table (t / 16), table (16 + t % 16))))
  let k : JpegScan := if f.progressive then ⟨parts, ss, se, ah, al⟩ else ⟨parts, 0, 63, 0, 0⟩
  let dcUsed := k.ss = 0 ∧ k.ah = 0
  let acUsed := if f.progressive then 0 < k.ss else True
  if s.len < 4 + 2 * n ∨ n = 0 ∨ parts.length ≠ n ∨ !(parts.map (·.1)).Nodup ∨ 63 < k.se ∨ k.se < k.ss
    ∨ (f.progressive ∧ ((k.ss = 0 ∧ k.se ≠ 0) ∨ (0 < k.ss ∧ n ≠ 1) ∨ 13 < k.al))
    ∨ (dcUsed ∧ parts.any (fun t => t.2.1.isNone)) ∨ (acUsed ∧ parts.any (fun t => t.2.2.isNone))
    ∨ parts.any (fun t => (w.tables.quant.find? (fun q => q.1 == (f.comps.getD t.1 ⟨0, 1, 1, 0⟩).tq)).isNone) then none
  else some k

/-- Segments and scans from an offset to EOI or the stream's end: the work, and the offset where it ends. -/
def jpegWalk (src : List Byte) (f : JpegFrame) : Nat → Nat → JpegWork → JpegWork × Nat
  | 0, p, w => (w, p)
  | fuel + 1, p, w =>
    let bad (w : JpegWork) (d : StreamDamage) : JpegWork := { w with damage := w.damage.orElse (fun _ => some d) }
    match jpegSegment src p with
    | .error d => if d.1 = dmgSHORT then (w, src.length) else (bad w d, d.2)
    | .ok s =>
      let body := sliceOf s.body s.len src
      let next := s.body + s.len
      if s.marker = 0xD9 then (w, s.at_)
      else if s.marker = 0xDB then
        match jpegQuant 65536 body with
        | none => (bad w (dmgSYNTAX, s.at_), s.at_)
        | some q => jpegWalk src f fuel next { w with tables := { w.tables with quant := q ++ w.tables.quant } }
      else if s.marker = 0xC4 then
        match jpegHuff 65536 body with
        | none => (bad w (dmgSYNTAX, s.at_), s.at_)
        | some h => jpegWalk src f fuel next { w with tables := { w.tables with huff := h ++ w.tables.huff } }
      else if s.marker = 0xDD then
        if s.len ≠ 2 then (bad w (dmgSYNTAX, s.at_), s.at_)
        else jpegWalk src f fuel next { w with tables := { w.tables with restart := beNat body } }
      else if s.marker = 0xDA then
        match jpegScan src f w s with
        | none => (bad w (dmgSYNTAX, s.at_), s.at_)
        | some k =>
          let dc := decide (k.ss = 0 ∧ k.ah = 0)
          let planes := w.planes.zipIdx.map (fun (pl, j) =>
            if k.parts.any (fun t => t.1 == j) then
              { pl with
                seen := pl.seen || dc
                quant := if pl.seen then pl.quant else ((w.tables.quant.find? (fun q => q.1 == pl.comp.tq)).map (·.2)).getD [] }
            else pl)
          let o := k.intervals f src w.tables.restart (k.mcus f + 1) next 0 0 ⟨planes, [], w.damage⟩
          let (e, runs) := jpegScanEnd src src.length next
          let lost := (o.lost.map (k.frameMcu f)).eraseDups
          let w : JpegWork := { w with
            planes := o.planes, damage := o.damage
            lost := if dc then w.lost ++ lost else w.lost
            dropped := if dc then w.dropped else w.dropped ++ lost
            scans := w.scans ++ [(e - next, if w.tables.restart = 0 then 0 else runs)] }
          jpegWalk src f fuel e w
      else if jpegSof s.marker && w.scans != [] || (s.marker != 1 && jpegBare s.marker) then (bad w (dmgSYNTAX, s.at_), s.at_)
      else jpegWalk src f fuel next w

/-- The work of a whole stream; a component that no scan brought is SHORT at the end. -/
def jpegWork (src : List Byte) : Option (JpegFrame × JpegWork) :=
  ((jpegFront src src.length 2).1.find? (fun s => jpegSof s.marker)).map (fun s =>
    let f := jpegFrame src s
    let (w, e) := jpegWalk src f src.length 2 ⟨⟨[], [], 0⟩, f.planes, [], [], none, []⟩
    if w.planes.all (·.seen) then (f, w)
    else (f, { w with lost := w.lost ++ List.range (f.across * f.down), damage := w.damage.orElse (fun _ => some (dmgSHORT, e)) }))

/-- The decode of a JPEG stream. -/
def jpegDecode (revision : Nat) (src : List Byte) : Decoded :=
  match jpegWork src with
  | none => default
  | some (f, w) =>
    let rgb := ((jpegFront src src.length 2).1).any (adobeRgb src)
    let units := (w.lost ++ w.dropped).eraseDups
    { values := Config.jpegPixels ⟨revision, f.width, f.height, rgb,
        w.planes.map (fun p => ⟨p.comp.h, p.comp.v, p.wide, p.quant, p.blocks.toList.map (·.toList)⟩)⟩
      floats := false
      damage := w.damage
      unit := units.headD 0
      units := units.length
      lost := (List.range (f.width * f.height)).filter (fun k =>
        w.lost.contains (k / f.width / (8 * f.vMax) * f.across + k % f.width / (8 * f.hMax)))
      excess := false }

/-- Lanes that a scan of `bytes` entropy-coded bytes and `runs` restart intervals uses (R163): 0 intervals where it has no restart
markers. -/
def jpegLanes (specEn : Bool) (splitKib bytes runs : Nat) : Nat :=
  if !specEn then 1 else if runs ≠ 0 then min 8 runs else max 1 (min 8 (bytes / (max 1 splitKib * 1024)))

end Sys2Proof.Machine
end

