-- ==== Sys2Proof/Machine/Png.lean ====
section
/-!
DEFINITION. PNG as the image mills read it (R165, R172, R174): ISO/IEC 15948, which R165 names.
-/

namespace Sys2Proof.Machine

/-! ## Chunks -/

/-- A chunk: its offset, type and data length. -/
structure PngChunk where
  at_ : Nat
  kind : Nat
  len : Nat
deriving DecidableEq, Repr

def pngIHDR : Nat := 0x49484452
def pngPLTE : Nat := 0x504C5445
def pngIDAT : Nat := 0x49444154
def pngIEND : Nat := 0x49454E44
def pngTRNS : Nat := 0x74524E53
def pngACTL : Nat := 0x6163544C

def pngSignature : List Byte := [0x89, 0x50, 0x4E, 0x47, 0x0D, 0x0A, 0x1A, 0x0A]

/-- The chunks from an offset, up to IEND or the first that the stream does not hold whole. -/
def pngChunks (src : List Byte) : Nat → Nat → List PngChunk
  | 0, _ => []
  | fuel + 1, at_ =>
    if src.length < at_ + 8 then []
    else
      let c : PngChunk := ⟨at_, beAt src (at_ + 4) 4, beAt src at_ 4⟩
      if c.kind = pngIEND ∨ src.length < at_ + 12 + c.len then [c] else c :: pngChunks src fuel (at_ + 12 + c.len)

/-- The stream holds the whole chunk. -/
def PngChunk.whole (c : PngChunk) (src : List Byte) : Bool := decide (c.at_ + 12 + c.len ≤ src.length)

/-- The data of a chunk, as far as the stream holds it. -/
def PngChunk.data (c : PngChunk) (src : List Byte) : List Byte := sliceOf (c.at_ + 8) c.len src

/-- The chunk's CRC-32 is right. -/
def PngChunk.sound (c : PngChunk) (src : List Byte) : Bool :=
  crc32 (sliceOf (c.at_ + 4) (4 + c.len) src) == beAt src (c.at_ + 8 + c.len) 4

/-- Bit 5 of the first letter marks an ancillary chunk. -/
def PngChunk.critical (c : PngChunk) : Bool := !(BitVec.ofNat 32 c.kind).getLsbD 29

/-! ## Headers -/

/-- What IHDR says. -/
structure PngInfo where
  width : Nat
  height : Nat
  depth : Nat
  colour : Nat
  interlaced : Bool
deriving DecidableEq, Repr

/-- The depths the standard allows for a colour type. -/
def pngDepths (colour : Nat) : List Nat :=
  if colour = 0 then [1, 2, 4, 8, 16] else if colour = 3 then [1, 2, 4, 8]
  else if colour = 2 ∨ colour = 4 ∨ colour = 6 then [8, 16] else []

/-- Samples of a pixel as stored. -/
def PngInfo.channels (i : PngInfo) : Nat := [1, 0, 3, 1, 2, 0, 4].getD i.colour 1

/-- IHDR at offset 8, or nothing where it is missing or malformed. -/
def pngInfo (src : List Byte) : Option PngInfo :=
  let i : PngInfo := ⟨beAt src 16 4, beAt src 20 4, leAt src 24 1, leAt src 25 1, leAt src 28 1 == 1⟩
  if src.length < 33 ∨ beAt src 8 4 ≠ 13 ∨ beAt src 12 4 ≠ pngIHDR ∨ i.width = 0 ∨ i.height = 0 ∨ 2 ^ 31 ≤ i.width ∨ 2 ^ 31 ≤ i.height
    ∨ !(pngDepths i.colour).contains i.depth ∨ leAt src 26 2 ≠ 0 ∨ 1 < leAt src 28 1 then none
  else some i

/-- The chunks before the image data. -/
def pngFront (src : List Byte) : List PngChunk :=
  (pngChunks src src.length 8).takeWhile (fun c => c.kind != pngIDAT)

/-- Headers of a PNG stream (R165). -/
def pngHeaders (src : List Byte) : Headers :=
  if src.take 8 ≠ pngSignature then headersBad 0
  else match pngInfo src with
    | none => headersBad 8
    | some i =>
      let front := pngFront src
      { (default : Headers) with
        known := true
        unsupported := if 32768 < i.width ∨ 32768 < i.height then some 8 else none
        sizeAt := 8, right := i.width, bottom := i.height
        bits := if i.colour = 3 then 8 else i.depth
        comps := if i.colour = 0 ∨ i.colour = 4 then 1 else 3
        alpha := i.colour == 4 || i.colour == 6 || front.any (fun c => c.kind == pngTRNS)
        srcBits := i.depth, srcComps := i.channels
        animIgnored := front.any (fun c => c.kind == pngACTL) }

/-! ## Image data -/

/-- The critical data of a stream: palette, transparency, the runs of image data with their offsets, and the damage at which
reading stops. -/
structure PngScan where
  palette : Option (List Byte)
  trans : Option (List Byte)
  runs : List (Nat × List Byte)
  /-- A chunk of another kind has followed the image data. -/
  closed : Bool
  damage : Option StreamDamage
deriving DecidableEq, Repr

/-- Read chunks after IHDR in order. -/
def pngScan (src : List Byte) (colour : Nat) : List PngChunk → PngScan → PngScan
  | [], s => { s with damage := some (dmgSHORT, src.length) }
  | c :: cs, s =>
    let idat := c.kind == pngIDAT
    if idat && (s.closed || (colour == 3 && s.palette.isNone)) then { s with damage := some (dmgSYNTAX, c.at_) }
    else if c.critical && !idat && c.kind != pngPLTE && c.kind != pngIEND then { s with damage := some (dmgSYNTAX, c.at_) }
    else
      let s := if idat then { s with runs := s.runs ++ [(c.at_ + 8, c.data src)] }
        else if s.runs = [] then s else { s with closed := true }
      if !c.whole src then { s with damage := some (dmgSHORT, src.length) }
      else if !c.sound src then { s with damage := some (dmgCHECK, c.at_ + 8 + c.len) }
      else if c.kind = pngIEND then
        if s.runs = [] then { s with damage := some (dmgSYNTAX, c.at_) } else s
      else if c.kind = pngPLTE then
        if c.len % 3 ≠ 0 ∨ c.len = 0 ∨ 768 < c.len then { s with damage := some (dmgSYNTAX, c.at_) }
        else pngScan src colour cs { s with palette := some (c.data src) }
      else if c.kind = pngTRNS ∧ s.runs = [] then pngScan src colour cs { s with trans := some (c.data src) }
      else pngScan src colour cs s

/-- The offset in the stream of byte `p` of the joined image data; past it, the end of the last run. -/
def runOffset : List (Nat × List Byte) → Nat → Nat
  | [], _ => 0
  | [(a, d)], p => a + min p d.length
  | (a, d) :: rest, p => if p < d.length then a + p else runOffset rest (p - d.length)

/-! ## Rows -/

/-- The passes: first column and row, and the steps. -/
def pngPasses (i : PngInfo) : List (Nat × Nat × Nat × Nat) :=
  if i.interlaced then [(0, 0, 8, 8), (4, 0, 8, 8), (0, 4, 4, 8), (2, 0, 4, 4), (0, 2, 2, 4), (1, 0, 2, 2), (0, 1, 1, 2)]
  else [(0, 0, 1, 1)]

/-- The rows of the reduced images: first column, row and column step, and the width; a pass's first row starts a fresh image. -/
structure PngRow where
  x0 : Nat
  y : Nat
  dx : Nat
  width : Nat
  first : Bool
deriving DecidableEq, Repr

def pngRows (i : PngInfo) : List PngRow :=
  (pngPasses i).flatMap (fun (x0, y0, dx, dy) =>
    let w := ceilDiv (i.width - x0) dx
    if w = 0 then [] else (List.range (ceilDiv (i.height - y0) dy)).map (fun k => ⟨x0, y0 + k * dy, dx, w, k == 0⟩))

/-- The Paeth predictor. -/
def paeth (a b c : Nat) : Nat :=
  let p : Int := (a : Int) + b - c
  let pa := (p - a).natAbs
  let pb := (p - b).natAbs
  let pc := (p - c).natAbs
  if pa ≤ pb ∧ pa ≤ pc then a else if pb ≤ pc then b else c

/-- Undo a row's filter: `up` holds the bytes above and above to the left, and `done` the row so far, newest first. -/
def unfilter (f bpp : Nat) : List Byte → List (Nat × Nat) → List Byte → List Byte
  | [], _, done => done.reverse
  | x :: xs, up, done =>
    let a := (done.getD (bpp - 1) 0).toNat
    let (b, c) := up.headD (0, 0)
    let p := if f = 1 then a else if f = 2 then b else if f = 3 then (a + b) / 2 else if f = 4 then paeth a b c else 0
    unfilter f bpp xs up.tail (BitVec.ofNat 8 (x.toNat + p) :: done)

/-- A pixel from its samples: palette and transparency applied (R159, R165). -/
def pngPixel (i : PngInfo) (s : PngScan) (px : List Nat) : List Int :=
  let v := px.headD 0
  let top : Int := 2 ^ (if i.colour = 3 then 8 else i.depth) - 1
  if i.colour = 3 then
    (sliceOf (3 * v) 3 (s.palette.getD [])).map (fun b => (b.toNat : Int))
      ++ (s.trans.map (fun a => ((a.getD v 255).toNat : Int))).toList
  else
    let key := s.trans.map (fun a => (List.range px.length).map (fun k => beAt a (2 * k) 2 % 2 ^ i.depth))
    px.map Int.ofNat ++ (if i.colour = 0 ∨ i.colour = 2 then (key.map (fun k => if px = k then 0 else top)).toList else [])

/-- Reconstruct rows from the inflated bytes, which begin at output byte `at_`: the raster, the rows completed, and the output
byte of an invalid filter type or palette index. -/
def pngReconstruct (i : PngInfo) (s : PngScan) : List PngRow → List Byte → Nat → List Byte → Raster → Nat → Raster × Nat × Option (Nat × Nat)
  | [], _, _, _, r, done => (r, done, none)
  | row :: rows, bytes, at_, prior, r, done =>
    let n := ceilDiv (row.width * i.channels * i.depth) 8
    if bytes.length < n + 1 then (r, done, none)
    else
      let f := (bytes.headD 0).toNat
      if 4 < f then (r, done, some (dmgSYNTAX, at_))
      else
        let bpp := max 1 (i.channels * i.depth / 8)
        let above := if row.first then zeros n else prior
        let bs := unfilter f bpp (sliceOf 1 n bytes) (above.zip (zeros bpp ++ above) |>.map (fun e => (e.1.toNat, e.2.toNat))) []
        let samples := rowSamples true i.depth (row.width * i.channels) bs
        match (if i.colour = 3 then samples.findIdx? (fun v => decide ((s.palette.getD []).length / 3 ≤ v)) else none) with
        | some k => (r, done, some (dmgENTROPY, at_ + 1 + k * i.depth / 8))
        | none =>
          let pixels := (runsOf i.channels row.width samples).map (pngPixel i s)
          let r := r.put (pixels.zipIdx.map (fun e => (row.y * i.width + row.x0 + e.2 * row.dx, e.1)))
          pngReconstruct i s rows (bytes.drop (n + 1)) (at_ + n + 1) bs r (done + 1)

/-- The decode of a PNG stream: the first damage in the order of decoding ends it, and what is not yet reconstructed is
concealed (R172, R174). -/
def pngDecode (src : List Byte) : Decoded :=
  match pngInfo src with
  | none => default
  | some i =>
    let head : PngChunk := ⟨8, pngIHDR, 13⟩
    let h := pngHeaders src
    let rows := pngRows i
    let s := if head.sound src then pngScan src i.colour ((pngChunks src src.length 8).drop 1) ⟨none, none, [], false, none⟩
      else ⟨none, none, [], false, some (dmgCHECK, 29)⟩
    let z := s.runs.flatMap (·.2)
    let (bytes, zd) := if s.runs = [] then ([], none) else zlibRun z none
    let (r, done, bad) := pngReconstruct i s rows bytes 0 [] (Raster.blank (i.width * i.height)) 0
    let damage : Option StreamDamage := match bad with
      | some (k, p) => some (k, runOffset s.runs (zlibElement z p))
      | none =>
        match zd with
        | some (k, o) => if k = dmgSHORT ∧ s.damage.isSome then s.damage else some (k, runOffset s.runs o)
        | none => if s.damage.isNone ∧ done < rows.length then some (dmgSHORT, runOffset s.runs z.length) else s.damage
    r.decoded (h.comps + h.alpha.toNat) damage (if done < rows.length then done else 0) (rows.length - done)

end Sys2Proof.Machine
end

