-- ==== Sys2Proof/Machine/Codecs.lean ====
section
/-!
DEFINITION. The streams of the mills by codec (R129, R162 to R170): the headers of JPEG 2000 (R167, R168), and the headers and
decode of every codec.
-/

namespace Sys2Proof.Machine

/-! ## JPEG 2000 headers -/

/-- The boxes from an offset up to an end: type, body and its end. -/
def jp2Boxes (src : List Byte) (stop : Nat) : Nat → Nat → List (Nat × Nat × Nat)
  | 0, _ => []
  | fuel + 1, p =>
    let len := beAt src p 4
    let head := if len = 1 then 16 else 8
    let size := if len = 1 then beAt src (p + 8) 8 else if len = 0 then stop - p else len
    if stop < p + 8 ∨ size < head then []
    else (beAt src (p + 4) 4, p + head, min stop (p + size)) :: jp2Boxes src stop fuel (p + size)

/-- Depth and count of the columns of a palette in a JP2 header with a component mapping. -/
def jp2Palette (src : List Byte) (boxes : List (Nat × Nat × Nat)) : Option (Nat × Nat) :=
  match boxes.find? (fun b => b.1 == 0x6A703268) with
  | none => none
  | some (_, at_, stop) =>
    let inner := jp2Boxes src stop src.length at_
    match inner.find? (fun b => b.1 == 0x70636C72), inner.find? (fun b => b.1 == 0x636D6170) with
    | some (_, p, _), some _ => some (leAt src (p + 3) 1 % 128 + 1, leAt src (p + 2) 1)
    | _, _ => none

/-- The main header from a marker segment on, to the first tile-part: decomposition levels, and the offset of a refused or
malformed segment. -/
def j2kMain (src : List Byte) : Nat → Nat → Option Nat → Except (Bool × Nat) Nat
  | 0, p, _ => .error (false, p)
  | fuel + 1, p, levels =>
    let m := beAt src p 2
    let len := beAt src (p + 2) 2
    if src.length < p + 2 ∨ m < 0xFF00 then .error (false, p)
    else if m = 0xFF90 then match levels with
      | some n => .ok n
      | none => .error (false, p)
    else if len < 2 ∨ src.length < p + 2 + len then .error (false, p)
    else if m = 0xFF50 ∧ (beAt src (p + 4) 4 / 2 ^ 30 % 2 = 1 ∨ beAt src (p + 4) 4 / 2 ^ 17 % 2 = 1) then .error (true, p)
    else if m = 0xFF52 then
      if len < 12 ∨ 32 < leAt src (p + 9) 1 then .error (false, p) else j2kMain src fuel (p + 2 + len) (some (leAt src (p + 9) 1))
    else j2kMain src fuel (p + 2 + len) levels

/-- Headers of a codestream at an offset (R167). -/
def j2kHeaders (src : List Byte) (at_ : Nat) (palette : Option (Nat × Nat)) : Headers :=
  let p := at_ + 2
  let u (o len : Nat) : Nat := beAt src (p + o) len
  let n := u 38 2
  let depths := (List.range n).map (fun k => leAt src (p + 40 + 3 * k) 1 % 128 + 1)
  if beAt src at_ 2 ≠ 0xFF4F then headersBad at_
  else if u 0 2 ≠ 0xFF51 ∨ src.length < p + 40 ∨ u 2 2 ≠ 38 + 3 * n ∨ src.length < p + 2 + u 2 2 ∨ u 6 4 ≤ u 14 4 ∨ u 10 4 ≤ u 18 4 then
    headersBad p
  else
    let bits := depths.foldl max 1
    let (bits', comps) := palette.getD (bits, n)
    let h : Headers := { (default : Headers) with
      known := true, sizeAt := p, left := u 14 4, top := u 18 4, right := u 6 4, bottom := u 10 4
      bits := bits', comps := if comps ≤ 2 then 1 else 3, alpha := comps == 2 || comps == 4
      srcBits := bits, srcComps := n }
    if 2 ^ 14 ≤ u 4 2 ∨ (n ≠ 1 ∧ n ≠ 3) ∨ 16 < bits ∨ 16384 < h.right - h.left ∨ 16384 < h.bottom - h.top then
      { h with unsupported := some p }
    else match j2kMain src src.length (p + 2 + u 2 2) none with
      | .error (true, o) => { h with unsupported := some o }
      | .error (false, o) => headersBad o
      | .ok levels => { h with levels := levels }

/-- Headers of a bare codestream or a JP2 file. -/
def jp2Headers (src : List Byte) : Headers :=
  if beAt src 0 4 = 12 ∧ beAt src 4 4 = 0x6A502020 then
    let boxes := jp2Boxes src src.length src.length 0
    match boxes.find? (fun b => b.1 == 0x6A703263) with
    | some (_, p, _) => j2kHeaders src p (jp2Palette src boxes)
    | none => headersBad ((boxes.getLast?.map (·.2.2)).getD 0)
  else j2kHeaders src 0 none

/-! ## By codec -/

/-- The headers of a stream of a codec of R129. -/
def streamHeaders (codec : Nat) (src : List Byte) : Headers :=
  if codec = 1 then jpegHeaders src
  else if codec = 2 then pngHeaders src
  else if codec = 3 then tiffHeaders src
  else if codec = 4 then jp2Headers src
  else if codec = 5 then wavHeaders src
  else if codec = 6 then flacHeaders src
  else if codec = 7 then layer3Headers src
  else opusHeaders src

/-- The decode of a stream: codec, codec table revision, resolution levels discarded, and the declared samples per channel. -/
def streamDecode (codec revision reduce declared : Nat) (src : List Byte) : Decoded :=
  if codec = 1 then jpegDecode revision src
  else if codec = 2 then pngDecode src
  else if codec = 3 then tiffDecode src
  else if codec = 5 then wavDecode revision reduce declared src
  else if codec = 6 then flacDecode declared src
  else Config.decode codec revision reduce declared src

/-- The most lanes that a JPEG stream's scans use, and the segments cut for speculation beyond the first of each scan (R163). -/
def streamLanes (specEn : Bool) (splitKib : Nat) (src : List Byte) : Nat × Nat :=
  let scans := ((jpegWork src).map (·.2.scans)).getD []
  (scans.foldl (fun m e => max m (jpegLanes specEn splitKib e.1 e.2)) 1,
   (scans.map (fun e => if e.2 = 0 then jpegLanes specEn splitKib e.1 e.2 - 1 else 0)).sum)

end Sys2Proof.Machine
end

