-- ==== Sys2Proof/Machine/SysInsn.lean ====
section
/-!
DEFINITION. The meanings of the CSR, system and stream instructions (R58 to R67, R71, R84) and of the events that act on a
core (R58, R62, R64, R66, R70, R75 to R81).
-/

namespace Sys2Proof.Machine

open Reg

/-! ## Control and status registers (R66, R67) -/

/-- The CSRs by number; `none` for a number the table does not list. -/
def State.csrRead (s : State) (c : CoreId) (n : Nat) : Option Word64 :=
  let k := s.core c
  if n = 0x000 then some (k.fflags.setWidth 64)
  else if n = 0x200 then some k.cycle
  else if n = 0x201 then some k.instret
  else if n = 0x202 then some (BitVec.ofNat 64 c.val)
  else if n = 0x203 then some (k.ticketNext.setWidth 64)
  else if n = 0x204 then some (k.ticketOldest.setWidth 64)
  else if n = 0x400 then some (k.status &&& 0x4A83)
  else if n = 0x401 then some k.trapVecS
  else if n = 0x402 then some k.trapPcS
  else if n = 0x403 then some k.trapCauseS
  else if n = 0x404 then some k.trapValS
  else if n = 0x405 then some k.scratchS
  else if 0x410 ≤ n ∧ n ≤ 0x41F then some (k.regionU.toList.getD (n - 0x410) 0)
  else if n = 0x800 then some k.status
  else if n = 0x801 then some k.trapVecM
  else if n = 0x802 then some k.trapPcM
  else if n = 0x803 then some k.trapCauseM
  else if n = 0x804 then some k.trapValM
  else if n = 0x805 then some k.scratchM
  else if n = 0x806 then some k.deleg
  else if n = 0x807 then some (k.irqEn.setWidth 64)
  else if n = 0x809 then some k.gtcCmp
  else if 0x810 ≤ n ∧ n ≤ 0x81F then some (k.regionS.toList.getD (n - 0x810) 0)
  else if 0x820 ≤ n ∧ n ≤ 0x827 then some (k.bpAddr.toList.getD (n - 0x820) 0)
  else if n = 0x828 then some k.bpCtl
  else if 0x830 ≤ n ∧ n ≤ 0x833 then some (k.wpAddr.toList.getD (n - 0x830) 0)
  else if 0x834 ≤ n ∧ n ≤ 0x837 then some (k.wpMask.toList.getD (n - 0x834) 0)
  else if n = 0x838 then some k.wpCtl
  else if n = 0xA00 then some 1
  else if n = 0xA01 then some ((s.irqPend c).setWidth 64)
  else none

/-- Bits [11:10] give the lowest privilege that may access a CSR (R66). -/
def csrPriv (n : Nat) : Nat := n / 1024 % 4

/-- Bit [9] marks a read-only CSR (R66). -/
def csrReadOnly (n : Nat) : Bool := n / 512 % 2 == 1

/-- The bits of a region CSR that hold a value (R42). -/
def regionMask : Word64 := 0x873FFFFFFFFFF000

/-- The bits of DELEG that hold a value (R66). -/
def delegMask : Word64 := 0xF0001FFFE

/-- A write of `STATUS`: PRIV is read-only and a PREV_PRIV_M of 0b11 leaves that field unchanged (R67). -/
def statusWrite (old v mask : Word64) : Word64 :=
  let mask := if natAt v 12 2 = 3 then mask &&& ~~~0x3000#64 else mask
  (old &&& ~~~mask) ||| (v &&& mask)

/-- The fields of `STATUS` the S view can write: IN_TRAP_S, PREV_PRIV_S, PREV_IE_S and IE_S (R66). -/
def statusMaskS : Word64 := 0x4A80
/-- The fields of `STATUS` the full view can write (R67). -/
def statusMaskM : Word64 := 0xFF80

/-- A vector of registers with one replaced. -/
def setReg64 {n : Nat} (v : Vector Word64 n) (i : Nat) (x : Word64) : Vector Word64 n :=
  if h : i < n then v.set i x h else v

/-- A CSR written; reserved bits keep 0. -/
def Core.csrWrite (k : Core) (n : Nat) (v : Word64) : Core :=
  if n = 0x000 then { k with fflags := v.setWidth 5 }
  else if n = 0x400 then { k with status := statusWrite k.status v statusMaskS }
  else if n = 0x401 then { k with trapVecS := v }
  else if n = 0x402 then { k with trapPcS := v }
  else if n = 0x403 then { k with trapCauseS := v }
  else if n = 0x404 then { k with trapValS := v }
  else if n = 0x405 then { k with scratchS := v }
  else if 0x410 ≤ n ∧ n ≤ 0x41F then { k with regionU := setReg64 k.regionU (n - 0x410) (v &&& regionMask) }
  else if n = 0x800 then { k with status := statusWrite k.status v statusMaskM }
  else if n = 0x801 then { k with trapVecM := v }
  else if n = 0x802 then { k with trapPcM := v }
  else if n = 0x803 then { k with trapCauseM := v }
  else if n = 0x804 then { k with trapValM := v }
  else if n = 0x805 then { k with scratchM := v }
  else if n = 0x806 then { k with deleg := v &&& delegMask }
  else if n = 0x807 then { k with irqEn := v.setWidth 4 }
  else if n = 0x809 then { k with gtcCmp := v }
  else if 0x810 ≤ n ∧ n ≤ 0x81F then { k with regionS := setReg64 k.regionS (n - 0x810) (v &&& regionMask) }
  else if 0x820 ≤ n ∧ n ≤ 0x827 then { k with bpAddr := setReg64 k.bpAddr (n - 0x820) v }
  else if n = 0x828 then { k with bpCtl := v &&& 0x7F7F7F7F7F7F7F7F }
  else if 0x830 ≤ n ∧ n ≤ 0x833 then { k with wpAddr := setReg64 k.wpAddr (n - 0x830) v }
  else if 0x834 ≤ n ∧ n ≤ 0x837 then { k with wpMask := setReg64 k.wpMask (n - 0x834) v }
  else if n = 0x838 then { k with wpCtl := v &&& 0x7F7F7F7F }
  else k

/-- One of the four CSR forms: ILLEGAL for an unknown CSR and for a write to a read-only one, then PRIVILEGED below its level
(R66, R73); otherwise rd takes the old value and `new` of it is written. -/
def State.csrOp (s : State) (c : CoreId) (fn : Nat) (f : Sys) (legal : Bool) (new : Option (Word64 → Word64 → Word64)) : State :=
  s.runInsn c (wordSys fn f) legal (fun s =>
    let k := s.core c
    let n := f.csr.toNat
    match s.csrRead c n with
    | none => s.raise c excIllegal ((wordSys fn f).setWidth 64)
    | some old =>
      if new.isSome && csrReadOnly n then s.raise c excIllegal ((wordSys fn f).setWidth 64)
      else if k.priv.toNat < csrPriv n then s.raise c excPrivileged ((wordSys fn f).setWidth 64)
      else
        let k' := match new with
          | some g => k.csrWrite n (g old (k.reg f.ra))
          | none => k
        s.setCore c ((k'.setReg f.rd old).retire c))

/-- CSRR: rd = csr; ra must be g0 (R58). -/
def execCsrr (c : CoreId) (f : Sys) (s : State) : Res := .next (s.csrOp c 0x0 f (f.ra == 0) none)
/-- CSRW: csr = ra, rd takes the old value (R58). -/
def execCsrw (c : CoreId) (f : Sys) (s : State) : Res := .next (s.csrOp c 0x1 f true (some (fun _ a => a)))
/-- CSRSET: csr = csr or ra (R58). -/
def execCsrset (c : CoreId) (f : Sys) (s : State) : Res := .next (s.csrOp c 0x2 f true (some (fun t a => t ||| a)))
/-- CSRCLR: csr = csr and not ra (R58). -/
def execCsrclr (c : CoreId) (f : Sys) (s : State) : Res := .next (s.csrOp c 0x3 f true (some (fun t a => t &&& ~~~a)))

/-! ## System instructions (R58, R71) -/

/-- A SYS form that uses no register and no csr field (R51, R58). -/
def sysPlain (f : Sys) : Bool := f.rd == 0 && f.ra == 0 && f.csr == 0

/-- MBAR: in a model whose accesses happen one at a time in program order the barrier has nothing left to order (R44). -/
def execMbar (c : CoreId) (f : Sys) (s : State) : Res :=
  .next (s.runInsn c (wordSys 0x4 f) (sysPlain f) (fun s => s.setCore c ((s.core c).retire c)))

/-- IBAR: no instruction is held ahead of its fetch, so the barrier has nothing to discard (R43). -/
def execIbar (c : CoreId) (f : Sys) (s : State) : Res :=
  .next (s.runInsn c (wordSys 0x5 f) (sysPlain f) (fun s => s.setCore c ((s.core c).retire c)))

/-- SVC: raises SVC_U, SVC_S or SVC_M for the current level; at U on a recipe core the supervisor then ends the core's part,
normally with g1 = 0 and as a failure otherwise (R58, R121). -/
def execSvc (c : CoreId) (f : Sys) (s : State) : Res :=
  .next (s.runInsn c (wordSys 0x8 f) (sysPlain f) (fun s =>
    let k := s.core c
    let code := if k.priv = privU then excSvcU else if k.priv = privS then excSvcS else excSvcM
    let s := s.raise c code 0
    if k.priv = privU then
      if k.reg 1 = 0 then s.coreEnds c else s.coreFails c ((k.reg 1).setWidth 8) false
    else s))

/-- BRK: raises BREAKPOINT (R58, R68). -/
def execBrk (c : CoreId) (f : Sys) (s : State) : Res :=
  .next (s.runInsn c (wordSys 0x9 f) (sysPlain f) (fun s => s.raise c excBreakpoint (s.core c).pc))

/-- TRET: returns from the trap of the current level; PRIVILEGED at U (R58, R71). -/
def execTret (c : CoreId) (f : Sys) (s : State) : Res :=
  .next (s.runInsn c (wordSys 0xA f) (sysPlain f) (fun s =>
    let k := s.core c
    if k.priv = privU then s.raise c excPrivileged ((wordSys 0xA f).setWidth 64)
    else s.setCore c (k.trapReturn c)))

/-- IDLE: retires at once where its wake condition holds, and waits otherwise; PRIVILEGED at U (R58, R75). -/
def execIdle (c : CoreId) (f : Sys) (s : State) : Res :=
  .next (s.runInsn c (wordSys 0xB f) (sysPlain f) (fun s =>
    let k := s.core c
    if k.priv = privU then s.raise c excPrivileged ((wordSys 0xB f).setWidth 64)
    else if s.wakeReady c then s.setCore c (k.retire c)
    else s.setCore c { k with wait := some .idle }))

/-- A core that stands in a wait and is otherwise able to go on. -/
def State.waits (s : State) (c : CoreId) : Bool :=
  s.outOfReset c && s.polderOn polPC && !(s.core c).halted && (s.core c).duty == .free

/-- IDLE_WAKE: a waiting `idle` retires once a bit is set in both IRQ_PEND and IRQ_EN (R58). -/
def execIdleWake (c : CoreId) (s : State) : Res :=
  .next (if s.waits c && (s.core c).wait == some .idle && s.wakeReady c then s.setCore c ((s.core c).retire c) else s)

/-! ## Stream instructions (R59 to R65) -/

/-- The key of a ring. -/
def ringKey (cls ring : Nat) : Nat := cls * 1024 + ring

/-- A ring of a class (R84). -/
def State.ring (s : State) (cls ring : Nat) : Ring := Table.at Ring.reset s.rings (ringKey cls ring)

/-- A ring put in place. -/
def State.setRing (s : State) (cls ring : Nat) (r : Ring) : State :=
  { s with rings := Table.write Ring.reset s.rings (ringKey cls ring) r }

/-- The entries of a ring, 2^n (R85). -/
def Ring.size (r : Ring) : Nat := 2 ^ r.log2.toNat

/-- Descriptors waiting in a ring, TAIL − HEAD modulo 2^(n+1) (R85). -/
def Ring.waiting (r : Ring) : Nat := (r.tail + 2 * r.size - r.head) % (2 * r.size)

/-- The ring is full (R85). -/
def Ring.full (r : Ring) : Bool := r.waiting == r.size

/-- The ownership check of R84. -/
def Ring.ownedBy (r : Ring) (c : CoreId) (priv : BitVec 2) : Bool :=
  (r.en || r.disabling) && r.ownerCore.toNat == c.val
    && (r.ownerPriv == privU || (r.ownerPriv == privS && (priv == privS || priv == privM))
      || (r.ownerPriv == privM && priv == privM))

/-- The address of a ring's slot (R85). -/
def Ring.slot (r : Ring) (pointer : Nat) : Nat := r.base.toNat + 64 * (pointer % r.size)

/-- SUB (R60, R61, R84, R86, R554). A `sub` that reaches a halted core was injected through the debug port and raises
STREAM_ACCESS (R77). In the safe state, once every test of R60 has passed, the ticket completes with ABORTED at once. A ticket that completes at once joins the
interrupt queue where IRQ is set (R102, R105). While
doorbells are ignored the ring does not see the descriptor (R23, R526). -/
def execSub (c : CoreId) (f : St) (s : State) : Res :=
  let k := s.core c
  if s.outOfReset c && s.polderOn polPC && k.halted then .next (s.raise c excStreamAccess (k.reg f.ra))
  else .next (s.runInsn c (wordSt 0x30 0 f) true (fun s =>
    let k := s.core c
    let a := k.reg f.ra
    let cls := f.cls.toNat
    match s.checkAccess c .load a 64 false with
    | some s' => s'
    | none =>
      let d := s.physBytes a.toNat 64
      let zero := s.setCore c ((k.setReg f.rd 0).retire c)
      let issued (st : Option Byte) :=
        let k' := k.issueTicket cls st
        let k' := if st.isSome && bitAt (BitVec.ofNat 16 (leAt d 2 2)) 1 then k'.queueTicket k.ticketNext else k'
        (k'.setReg f.rd (k.ticketNext.setWidth 64)).retire c
      if Config.absent s.part.variant cls then
        if !bitAt (BitVec.ofNat 16 (leAt d 2 2)) 0 then s.raise c excEngineAbsent (BitVec.ofNat 64 cls)
        else if k.entryHeld then zero
        else s.setCore c (issued (some 0x13))
      else
        let r := s.ring cls f.ring.toNat
        if !r.ownedBy c k.priv then s.raise c excStreamAccess a
        else if r.full || r.disabling || k.entryHeld then zero
        else if s.flag FLT_STATUS_SAFE then s.setCore c (issued (some 0x22))
        else if s.doorbellsOff then s.setCore c (issued none)
        else
          let copy := sliceOf 0 4 d ++ leBytes 4 k.ticketNext.toNat ++ d.drop 8
          let s := s.writeDram (r.slot r.tail) copy
          let s := s.setRing cls f.ring.toNat { r with tail := (r.tail + 1) % (2 * r.size) }
          s.setCore c (issued none)))

/-- The ticket in a register: bits [63:32] set name no ticket. -/
def Core.ticketIn (k : Core) (r : RegField) : Option Nat :=
  if (k.reg r).toNat < 2 ^ 32 then k.ticketAge ((k.reg r).setWidth 32) else none

/-- WTC: ILLEGAL_TICKET for 0 or a ticket not issued; the result at once where the ticket is complete, a wait otherwise (R62). -/
def execWtc (c : CoreId) (f : St) (s : State) : Res :=
  .next (s.runInsn c (wordSt 0x30 1 f) (f.cls == 0 && f.ring == 0) (fun s =>
    let k := s.core c
    match k.ticketIn f.ra with
    | none => s.raise c excIllegalTicket (k.reg f.ra)
    | some age =>
      match k.ticketResult age with
      | some v => s.setCore c ((k.setReg f.rd v).retire c)
      | none => s.setCore c { k with wait := some (.ticket f.rd ((k.reg f.ra).setWidth 32)) }))

/-- WTC_RETURN: a waiting `wtc` retires once its ticket completes (R62). -/
def execWtcReturn (c : CoreId) (s : State) : Res :=
  let k := s.core c
  .next (match k.wait with
    | some (.ticket rd t) =>
      match (k.ticketAge t).bind k.ticketResult with
      | some v => if s.waits c then s.setCore c ((k.setReg rd v).retire c) else s
      | none => s
    | _ => s)

/-- TKP: the same result without waiting; bit 9 alone while the ticket is outstanding (R62). -/
def execTkp (c : CoreId) (f : St) (s : State) : Res :=
  .next (s.runInsn c (wordSt 0x30 2 f) (f.cls == 0 && f.ring == 0) (fun s =>
    let k := s.core c
    match k.ticketIn f.ra with
    | none => s.raise c excIllegalTicket (k.reg f.ra)
    | some age => s.setCore c ((k.setReg f.rd ((k.ticketResult age).getD 0x200)).retire c)))

/-- FNC: retires once every descriptor this core submitted to the selected classes is complete (R64). -/
def execFnc (c : CoreId) (f : St) (s : State) : Res :=
  .next (s.runInsn c (wordSt 0x30 3 f) (f.cls == 0 && f.ring == 0 && f.rd == 0) (fun s =>
    let k := s.core c
    let mask := (k.reg f.ra).setWidth 16
    if k.outstanding mask then s.setCore c { k with wait := some (.fence mask) } else s.setCore c (k.retire c)))

/-- FNC_RETURN: a waiting `fnc` retires once its descriptors are complete (R64). -/
def execFncReturn (c : CoreId) (s : State) : Res :=
  let k := s.core c
  .next (match k.wait with
    | some (.fence mask) => if s.waits c && !k.outstanding mask then s.setCore c (k.retire c) else s
    | _ => s)

/-- GTC: rd = the global tick counter, at every level (R65). -/
def execGtc (c : CoreId) (f : St) (s : State) : Res :=
  .next (s.runInsn c (wordSt 0x31 0 f) (f.cls == 0 && f.ring == 0 && f.ra == 0) (fun s =>
    s.setCore c (((s.core c).setReg f.rd s.gtc).retire c)))

/-! ## Events on a core -/

/-- TAKE_INTERRUPT: the pending, enabled interrupt first in the order 3, 2, 1, 0 is taken at an instruction boundary, a waiting
`wtc`, `fnc` or `idle` included (R63, R64, R70, R73). -/
def execTakeInterrupt (c : CoreId) (s : State) : Res :=
  .next (if s.waits c then
      match s.irqReady c with
      | some n => s.takeInterrupt c n
      | none => s
    else s)

/-- TIMER_INTERRUPT: the GTC reaches `GTC_CMP`, from which on the timer interrupt is pending (R66). -/
def execTimerInterrupt (c : CoreId) (s : State) : Res :=
  .next (if s.gtc < (s.core c).gtcCmp then { s with gtc := (s.core c).gtcCmp } else s)

/-- The module has input power and is not in OFF: something answers (R526). -/
def State.powered (s : State) : Bool := s.power.phase != .unpowered && s.power.phase != .off

/-- A writer that R631 admits to the registers "at M privilege or from the host". -/
def State.mayWrite (s : State) (w : Writer) : Bool :=
  s.powered && match w with
  | .core c => (s.core c).priv == privM
  | .host => true
  | .debugPort => s.flag SEC_DBG_UNLOCKED && bitAt (s.reg SEC_DBG) 1
  | .sideband => false

/-- Request debug halt of a core: ignored while it is halted, and while it is in reset (R76, R79). -/
def State.requestHalt (s : State) (c : CoreId) : State :=
  if s.outOfReset c && !(s.core c).halted then s.enterHalt c 1 else s

/-- Leave debug halt: ignored where the core is not halted (R75, R79). -/
def State.leaveHalt (s : State) (c : CoreId) : State :=
  let k := s.core c
  if k.halted then
    (s.setCore c { k with halted := false, haltCause := 0 }).emit 0x09 polPC (BitVec.ofNat 32 c.val)
      (BitVec.ofNat 128 (k.pc.toNat * 2 ^ 64))
  else s

/-- HALT: a write of HALT to `CC_DBG_CTLn` (R76, R79). -/
def execHalt (w : Writer) (c : CoreId) (s : State) : Res := .next (if s.mayWrite w then s.requestHalt c else s)

/-- RESUME: a write of RESUME to `CC_DBG_CTLn` (R75, R79). -/
def execResume (w : Writer) (c : CoreId) (s : State) : Res := .next (if s.mayWrite w then s.leaveHalt c else s)

/-- A write of `CC_SWI`: a core both set and cleared is left set (R81). -/
def State.writeSwi (s : State) (set clear : BitVec 16) : State :=
  (List.finRange 16).foldl (fun s c =>
    let k := s.core c
    s.setCore c { k with swi := bitAt set c.val || (k.swi && !bitAt clear c.val) }) s

/-- SWI_SET (R81). -/
def execSwiSet (w : Writer) (cores : BitVec 16) (s : State) : Res := .next (if s.mayWrite w then s.writeSwi cores 0 else s)

/-- SWI_CLEAR (R81). -/
def execSwiClear (w : Writer) (cores : BitVec 16) (s : State) : Res := .next (if s.mayWrite w then s.writeSwi 0 cores else s)

/-- MANAGEMENT_MAILBOX_READ: reading a core's management mailbox takes its messages and so clears interrupt 3 (R67, R562). -/
def execManagementMailboxRead (c : CoreId) (s : State) : Res :=
  .next (if c.val = 0 then { s with letters := [] } else if c.val = 1 then { s with letters1 := [] } else s)

end Sys2Proof.Machine
end

