-- ==== Sys2Proof/Machine/Rings.lean ====
section
/-!
DEFINITION. What every engine shares: binding of queue contexts (R363), descriptors taken and finished (R97 to R102), the
windows an engine's addresses must lie in (R92, R623), and the accesses the address filters match (R593, R597).
-/

namespace Sys2Proof.Machine

open Reg

/-! ## Status codes every engine uses (R16, R99) -/

def stOK : Nat := 0x00
def stCONCEALED : Nat := 0x01
def stSUBSTITUTED : Nat := 0x02
def stDROPPED : Nat := 0x03
def stTRUNCATED : Nat := 0x04
def stMASKED : Nat := 0x05
def stDAMAGED : Nat := 0x10
def stLIMIT : Nat := 0x11
def stEMPTY : Nat := 0x12
def stABSENT : Nat := 0x13
def stNOT_SMALLER : Nat := 0x14
def stOVERFLOW : Nat := 0x15
def stFLUSHED : Nat := 0x20
def stFENCED : Nat := 0x21
def stABORTED : Nat := 0x22
def stCLASS_MISMATCH : Nat := 0xF0
def stBAD_OPCODE : Nat := 0xF1
def stBAD_STATUS_ADDR : Nat := 0xF2
def stBAD_BUFFER : Nat := 0xF3

/-! ## Queue contexts -/

/-- A QCN is bound to another user than the one named (R94, R363). -/
def State.boundElsewhere (s : State) (qcn : Nat) (u : QcUse) : Bool :=
  match Table.find s.qct qcn with
  | some v => v != u
  | none => false

/-- The lowest QCN that is free. -/
def State.freeQcn (s : State) : Option Nat := (List.range 65536).find? (fun q => (Table.find s.qct q).isNone)

/-! ## The descriptor header (R97) -/

def descClass (d : List Byte) : Nat := leAt d 0 1 % 16
def descOpcode (d : List Byte) : Nat := leAt d 1 1
def descFlags (d : List Byte) : BitVec 16 := BitVec.ofNat 16 (leAt d 2 2)
def descFallback (d : List Byte) : Bool := bitAt (descFlags d) 0
def descIrq (d : List Byte) : Bool := bitAt (descFlags d) 1
def descBarrier (d : List Byte) : Bool := bitAt (descFlags d) 2
def descTrace (d : List Byte) : Bool := bitAt (descFlags d) 3
def descTicket (d : List Byte) : Ticket := BitVec.ofNat 32 (leAt d 4 4)
def descStatusAddr (d : List Byte) : Nat := leAt d 8 8

/-! ## Windows (R92) -/

/-- How far a run of addresses from `a` stays inside one window with permission bit `bit`; 0 where no such window holds `a`. -/
def windowReach (ws : List Word64) (bit a : Nat) : Nat :=
  ws.foldl (fun far w =>
    let size := 2 ^ clampTo 12 47 (natAt w 48 6)
    if regionCovers w a 1 && bitAt w bit then max far (alignDown (natAt w 12 36 * 4096) size + size) else far) 0

/-- Every address of [a, e) lies inside an enabled window with permission bit `bit`; `k` bounds the windows passed through. -/
def windowsCover (ws : List Word64) (bit : Nat) : Nat → Nat → Nat → Bool
  | 0, a, e => decide (e ≤ a)
  | k + 1, a, e =>
    if e ≤ a then true
    else
      let far := windowReach ws bit a
      decide (a < far) && windowsCover ws bit k far e

/-- An engine's access for a ring's descriptor: every byte lies in DRAM and inside a window of the ring that grants it (R92,
R623). -/
def State.windowGrants (s : State) (cls ring : Nat) (kind : AccessKind) (a n : Nat) : Bool :=
  s.regionAt a n == .dram && windowsCover (s.ring cls ring).win.toList (if kind == .load then 56 else 57) 4 a (a + n)

/-- STATUS_ADDR meets check 3 of R99. -/
def State.statusAddrOk (s : State) (cls ring a : Nat) : Bool :=
  a % 8 == 0 && decide (a < 2 ^ 48) && s.windowGrants cls ring .store a 8

/-- A header error or a stray doorbell write of a ring, counted in its ERRORS (R93, R96, R99). -/
def State.ringError (s : State) (cls ring : Nat) : State :=
  let r := s.ring cls ring
  s.setRing cls ring { r with errors := satAdd 0xFFFF r.errors 1 }

/-! ## Descriptors in work -/

/-- The taken descriptor of a core's ticket. -/
def State.takenAt (s : State) (c : CoreId) (t : Ticket) : Option Taken :=
  s.taken.find? (fun x => x.core == c && x.ticket == t)

/-- The taken descriptor of a ticket that still runs, of the class and opcode named. -/
def State.running (s : State) (c : CoreId) (t : Ticket) (cls opcode : Nat) : Option Taken :=
  match s.takenAt c t with
  | some x => if x.cls = cls && descOpcode x.desc = opcode && x.result.isNone then some x else none
  | none => none

/-- A taken descriptor replaced. -/
def State.setTaken (s : State) (x : Taken) : State :=
  { s with taken := s.taken.map (fun y => if y.core == x.core && y.ticket == x.ticket then x else y) }

/-- The engine's work on a descriptor has ended; DESCRIPTOR_COMPLETE completes it. -/
def State.finish (s : State) (x : Taken) (status detail : Nat) (output : List (Nat × Nat)) : State :=
  s.setTaken { x with result := some ⟨BitVec.ofNat 8 status, BitVec.ofNat 16 detail, true, output⟩ }

/-- A body field of a descriptor. -/
def Taken.fieldAt (x : Taken) (off len : Nat) : Nat := leAt x.desc off len

/-- The recipe whose ring carried a descriptor (R633: `none` for a ring of no loaded recipe). -/
def State.recipeOfRing (s : State) (cls ring : Nat) : Option (Nat × Recipe) :=
  s.recipes.find? (fun e => e.2.slots.any (fun sl => sl.cls == cls && sl.ring == ring))

/-- An engine reads or writes a run of DRAM: the bytes are counted (R597), and each address filter that matches writes an
ACCESS record and may fire the trigger (R586, R593). -/
def State.engineAccess (s : State) (cls : Nat) (write : Bool) (a n : Nat) : State :=
  if n = 0 then s
  else
    let s := s.count unitMEM write.toNat n
    (List.range 4).foldl (fun s i =>
      let hi := DBG_AFILT_ADDR_HI + 16 * i
      let addr := (s.reg (DBG_AFILT_ADDR_LO + 16 * i)).toNat + natAt (s.reg hi) 0 16 * 2 ^ 32
      let mask := (s.reg (DBG_AFILT_MASK_LO + 16 * i)).toNat + natAt (s.reg (DBG_AFILT_MASK_HI + 16 * i)) 0 16 * 2 ^ 32
      let keep := ~~~(BitVec.ofNat 48 mask)
      let hit := bitAt (s.reg hi) 31 && bitAt (s.reg hi) (if write then 29 else 30)
        && (BitVec.ofNat 48 a &&& keep) == (BitVec.ofNat 48 addr &&& keep)
      if hit then
        (s.emit 0x0B (classPolder cls) (BitVec.ofNat 32 n)
          (BitVec.ofNat 128 (a % 2 ^ 48 + cls % 16 * 2 ^ 48 + write.toNat * 2 ^ 52 + i * 2 ^ 56))).trigger 4
      else s) s

/-- An engine writes a run of DRAM. -/
def State.engineWrite (s : State) (cls a : Nat) (bs : List Byte) : State :=
  (s.writeDram a bs).engineAccess cls true a bs.length

/-- What an engine reads. -/
def State.dramBytes (s : State) (a n : Nat) : List Byte := Mem.bytes s.dram a n

/-- A little-endian field an engine reads. -/
def State.dramLe (s : State) (a n : Nat) : Nat := Mem.readLe s.dram a n

/-- An engine's descriptor work may run: its polder is on and the safe state is not in force. -/
def State.engineRuns (s : State) (cls : Nat) : Bool := s.polderOn (classPolder cls) && !s.flag FLT_STATUS_SAFE

/-- The completion of a descriptor in the order of R102: status word, ticket, ticket interrupt; DONE record and ring counts
(R580, R595). -/
def State.completeTaken (s : State) (x : Taken) (r : Result) : State :=
  let a := descStatusAddr x.desc
  let s := if r.writesWord && a ≠ 0 && s.statusAddrOk x.cls x.ring a then
      s.engineWrite x.cls a (leBytes 1 r.status.toNat ++ leBytes 1 x.unit ++ leBytes 2 r.detail.toNat ++ leBytes 4 x.ticket.toNat)
    else s
  let k := (s.core x.core).completeTicket x.ticket r.status
  let s := s.setCore x.core (if descIrq x.desc then k.queueTicket x.ticket else k)
  let s := { s with taken := s.taken.filter (fun y => !(y.core == x.core && y.ticket == x.ticket)) }
  let rg := s.ring x.cls x.ring
  let bad := decide (r.status.toNat ≥ 0x10)
  let s := s.setRing x.cls x.ring { rg with done := (rg.done + 1) % 2 ^ 48, doneErr := (rg.doneErr + bad.toNat) % 2 ^ 48 }
  if descTrace x.desc then
    s.emit 0x02 (classPolder x.cls) (BitVec.ofNat 32 x.ticket.toNat) (BitVec.ofNat 128
      (x.cls + x.ring * 2 ^ 4 + x.core.val * 2 ^ 14 + descOpcode x.desc * 2 ^ 18 + x.unit * 2 ^ 26 + r.status.toNat * 2 ^ 34))
  else s

/-- End a taken descriptor at once with a status, its status word included (R553). -/
def State.endTaken (s : State) (x : Taken) (status : Nat) (word : Bool) : State :=
  s.completeTaken x ⟨BitVec.ofNat 8 status, 0, word, []⟩

end Sys2Proof.Machine
end

