-- ==== Sys2Proof/Machine/HostQueue.lean ====
section
/-!
DEFINITION. The host's queues: doorbells (R410), completion entries of NVMe queues (R411, R414, R417) and of command rings
(R420, R421), and taking a command from a command ring or from the manager (R116, R422).
-/

namespace Sys2Proof.Machine

open Reg

/-! ## Host memory -/

/-- The link carries host accesses (R406, R408). -/
def State.linkUp (s : State) : Bool := s.flag HST_LINK_UP

def State.hostBytes (s : State) (a n : Nat) : List Byte := Mem.bytes s.host.mem a n
def State.hostWrite (s : State) (a : Nat) (bs : List Byte) : State :=
  { s with host := { s.host with mem := Mem.store s.host.mem a bs } }

/-- Stores the host made to its own memory before it wrote a doorbell. -/
def State.hostStores (s : State) (stores : List (Nat × List Byte)) : State :=
  stores.foldl (fun s e => s.hostWrite e.1 e.2) s

/-- Completion entries and NVMe interrupts stop in the safe state (R417). -/
def State.hostPosts (s : State) : Bool := s.linkUp && !s.flag FLT_STATUS_SAFE

/-! ## NVMe completions -/

def State.controller (s : State) (fn : Nat) : Option Controller := s.host.controllers.find? (fun c => c.fn == fn)
def State.setController (s : State) (c : Controller) : State :=
  { s with host := { s.host with controllers := s.host.controllers.map (fun d => if d.fn = c.fn then c else d) } }
def State.sq (s : State) (fn qid : Nat) : Option NvmeSq := s.host.sqs.find? (fun q => q.fn == fn && q.qid == qid)
def State.setSq (s : State) (q : NvmeSq) : State :=
  { s with host := { s.host with sqs := s.host.sqs.map (fun r => if r.fn = q.fn ∧ r.qid = q.qid then q else r) } }
def State.cq (s : State) (fn qid : Nat) : Option NvmeCq := s.host.cqs.find? (fun q => q.fn == fn && q.qid == qid)
def State.setCq (s : State) (q : NvmeCq) : State :=
  { s with host := { s.host with cqs := s.host.cqs.map (fun r => if r.fn = q.fn ∧ r.qid = q.qid then q else r) } }

/-- An NVMe status field: type, code and DNR (R414). -/
def nvmeStatus (sct sc : Nat) (dnr : Bool) : Nat := sc + 256 * sct + 2 ^ 14 * dnr.toNat

def nvmeOk : Nat := 0
def nvmeBadOpcode : Nat := nvmeStatus 0 0x01 true
def nvmeBadField : Nat := nvmeStatus 0 0x02 true
def nvmeBadNamespace : Nat := nvmeStatus 0 0x0B true

/-- Write one completion entry of 16 bytes with its phase tag, and send the interrupt. -/
def State.putCqe (s : State) (q : NvmeCq) (dw0 sqHead sqid cid status : Nat) : State :=
  let s := s.hostWrite (q.base + 16 * q.tail)
    (leBytes 4 dw0 ++ zeros 4 ++ leBytes 2 sqHead ++ leBytes 2 sqid ++ leBytes 2 cid ++ leBytes 2 (q.phase.toNat + 2 * status))
  let t := (q.tail + 1) % q.entries
  let s := s.setCq { q with tail := t, phase := if t = 0 then !q.phase else q.phase }
  if q.irq then s.interrupt q.fn q.vector else s

/-- Post the completion of an NVMe command, or hold it while the queue is full. A controller that was reset or is in the safe
state gets none (R417). -/
def State.nvmeComplete (s : State) (fn sqid cid dw0 status : Nat) : State :=
  if !s.hostPosts then s
  else match s.controller fn, s.sq fn sqid with
    | some c, some sq =>
      match s.cq fn sq.cqid with
      | some q =>
        let s := s.count unitHST 0 1
        let s := if status ≠ 0 then
            (s.errAdd HST_ERR_CNT1_NVME_ERR 1).setController
              { c with errors := ((c.errors.length + 1, sqid, cid, status) :: c.errors).take 64 }
          else s
        if (q.tail + 1) % q.entries = q.head ∨ q.held ≠ [] then
          s.setCq { q with held := q.held ++ [(dw0, sq.head, sqid, cid, status)] }
        else s.putCqe q dw0 sq.head sqid cid status
      | none => s
    | _, _ => s

/-- Post held completions while the queue has room. -/
def State.releaseCq (s : State) (fn qid : Nat) : Nat → State
  | 0 => s
  | k + 1 =>
    match s.cq fn qid with
    | some q =>
      if (q.tail + 1) % q.entries = q.head then s
      else match q.held with
        | [] => s
        | (dw0, h, sqid, cid, st) :: rest =>
          (State.putCqe (s.setCq { q with held := rest }) { q with held := rest } dw0 h sqid cid st).releaseCq fn qid k
    | none => s

/-! ## Command rings -/

def State.cmdRing (s : State) (i : Nat) : Option CmdRing := Table.find s.host.cmdRings i
def State.setCmdRing (s : State) (i : Nat) (r : CmdRing) : State :=
  { s with host := { s.host with cmdRings := Table.put s.host.cmdRings i r } }

/-- The index of the command ring that a QCN is bound to. -/
def State.cmdRingOf (s : State) (qcn : Nat) : Option Nat := (s.host.cmdRings.find? (fun e => e.2.qcn == qcn)).map (·.1)

/-- The completion queue has no free entry. -/
def CmdRing.cqFull (r : CmdRing) : Bool := (r.cqTail + 1) % r.entries == r.cqHead

/-- Write one completion entry (R421) and send the MSI-X message. -/
def State.putEntry (s : State) (i : Nat) (r : CmdRing) (e : HeldEntry) : State :=
  let s := s.hostWrite (r.cqBase + 16 * r.cqTail)
    (leBytes 8 e.result ++ leBytes 2 r.sqHead ++ zeros 2 ++ leBytes 2 e.cid ++ leBytes 2 (r.phase.toNat + 2 * e.status))
  let t := (r.cqTail + 1) % r.entries
  let s := s.setCmdRing i { r with cqTail := t, phase := if t = 0 then !r.phase else r.phase }
  (s.count unitHST 3 1).interrupt 0 r.vector

/-- Completions held back are posted in order while there is room (R421). -/
def State.releaseEntries (s : State) (i : Nat) : Nat → State
  | 0 => s
  | k + 1 =>
    match s.cmdRing i with
    | some r =>
      if r.cqFull then s
      else match r.held with
        | [] => s
        | e :: rest => ((s.putEntry i { r with held := rest } e)).releaseEntries i k
    | none => s

/-- A ring whose deletion was accepted goes once no command of it is outstanding (R420). -/
def State.settleDelete (s : State) (i : Nat) : State :=
  match s.cmdRing i with
  | some r =>
    match r.deleting with
    | some cid =>
      if r.outstanding = [] then
        let s := { s with host := { s.host with cmdRings := Table.drop s.host.cmdRings i }, qct := Table.drop s.qct r.qcn }
        s.nvmeComplete 0 0 cid 0 nvmeOk
      else s
    | none => s
  | none => s

/-- Complete a command: one completion entry on its ring, held while the queue is full (R421), or a reply to the manager. -/
def State.completeCommand (s : State) (ref : CmdRef) (result status : Nat) (data : List Byte := []) : State :=
  match ref with
  | .manager cid => { s with host := { s.host with replies := s.host.replies ++ [⟨cid, result, status, data⟩] } }
  | .ring qcn cid =>
    match s.cmdRingOf qcn with
    | none => s
    | some i =>
      match s.cmdRing i with
      | none => s
      | some r =>
        let r := { r with outstanding := r.outstanding.erase cid }
        let e : HeldEntry := ⟨result, status, cid⟩
        let s := if !s.hostPosts then s.setCmdRing i r
          else if r.cqFull || r.held ≠ [] then s.setCmdRing i { r with held := r.held ++ [e] }
          else s.putEntry i r e
        s.settleDelete i

/-! ## Command status codes (R422) -/

def csOK : Nat := 0x00
def csBAD_COMMAND : Nat := 0x30
def csBAD_HANDLE : Nat := 0x31
def csWITHDRAWN : Nat := 0x32
def csTOO_SMALL : Nat := 0x33
def csABANDONED : Nat := 0x34
def csGRANTS_FULL : Nat := 0x35
def csWRONG_STATE : Nat := 0x36

/-- The opcodes of R422. -/
def ringOpcodes : List Nat := [0x01, 0x02, 0x03, 0x04, 0x10, 0x11, 0x12, 0x20, 0x21]

/-- The entry at the front of a ring that was not taken yet. -/
def State.frontEntry (s : State) (i : Nat) : Option (List Byte) :=
  match s.cmdRing i with
  | some r => if r.sqHead = r.sqTail then none else some (s.hostBytes (r.sqBase + 64 * r.sqHead) 64)
  | none => none

/-- Take the front entry of a ring. -/
def State.popEntry (s : State) (i : Nat) (e : List Byte) : State :=
  match s.cmdRing i with
  | some r =>
    s.setCmdRing i { r with sqHead := (r.sqHead + 1) % r.entries, outstanding := r.outstanding ++ [leAt e 2 2] }
  | none => s

/-- Entries with an unknown opcode that have come to the front complete with BAD_COMMAND (R422). -/
def State.rejectUnknown (s : State) (i : Nat) : Nat → State
  | 0 => s
  | k + 1 =>
    match s.frontEntry i, s.cmdRing i with
    | some e, some r =>
      if ringOpcodes.contains (leAt e 0 1) then s
      else ((s.popEntry i e).completeCommand (.ring r.qcn (leAt e 2 2)) 0 csBAD_COMMAND).rejectUnknown i k
    | _, _ => s

/-- Take a command of the named opcode: from the front of a command ring, or from the manager (R116). The command's entry
comes with it. -/
def State.takeCommand (s : State) (src : CmdSrc) (opcode : Nat) : Option (CmdRef × List Byte × State) :=
  match src with
  | .manager cid entry _ => some (.manager cid.toNat, fitBytes 64 entry, s)
  | .ring i =>
    match s.frontEntry i.toNat, s.cmdRing i.toNat with
    | some e, some r =>
      if s.linkUp && leAt e 0 1 == opcode then
        some (.ring r.qcn (leAt e 2 2), e, (s.popEntry i.toNat e).rejectUnknown i.toNat 4096)
      else none
    | _, _ => none

/-- Bytes a command names by an address: in host memory, or with the manager's command itself. -/
def State.commandBytes (s : State) (src : CmdSrc) (a n : Nat) : List Byte :=
  match src with
  | .manager _ _ payload => fitBytes n payload
  | .ring _ => s.hostBytes a n

/-! ## BAR4 doorbells (R96, R410) -/

/-- A doorbell write that is discarded and counted; the page of an engine ring counts in its ERRORS too. -/
def State.discardDoorbell (s : State) (qcn : Nat) : State :=
  let s := s.errAdd HST_ERR_CNT1_DB_DISCARD 1
  match Table.find s.qct qcn with
  | some (.engineRing cls ring) => s.ringError cls ring
  | _ => s

/-- SQ_TAIL: the host rings a command ring's doorbell. -/
def execSqTail (qcn : BitVec 16) (value : Word32) (stores : List (Nat × List Byte)) (s : State) : Res :=
  .next (if !s.linkUp || s.doorbellsOff then s
    else
      let s := s.hostStores stores
      match s.cmdRingOf qcn.toNat with
      | some i =>
        match s.cmdRing i with
        | some r =>
          if value.toNat < r.entries then (s.setCmdRing i { r with sqTail := value.toNat }).rejectUnknown i 4096
          else s.discardDoorbell qcn.toNat
        | none => s
      | none => s.discardDoorbell qcn.toNat)

/-- CQ_HEAD: the host releases completion entries, and held ones follow (R421). -/
def execCqHead (qcn : BitVec 16) (value : Word32) (s : State) : Res :=
  .next (if !s.linkUp || s.doorbellsOff then s
    else match s.cmdRingOf qcn.toNat with
      | some i =>
        match s.cmdRing i with
        | some r =>
          if value.toNat < r.entries then (s.setCmdRing i { r with cqHead := value.toNat }).releaseEntries i 4096
          else s.discardDoorbell qcn.toNat
        | none => s
      | none => s.discardDoorbell qcn.toNat)

end Sys2Proof.Machine
end

