-- ==== Sys2Proof/Machine/Recipe.lean ====
section
/-!
DEFINITION. Loading, launching and reporting a recipe (R108 to R120, R422, R632). The loader's freedom (which cores, rings, queue
contexts and DRAM it reserves) comes with the command as a `Placement`, which the checks of R116, R117 and R632 admit or refuse.
-/

namespace Sys2Proof.Machine

open Reg

/-! ## The image (R108 to R114) -/

def imgCores (m : List Byte) : Nat := leAt m 0x06 1
def imgStages (m : List Byte) : Nat := leAt m 0x07 1
def imgLen (m : List Byte) : Nat := leAt m 0x08 4
def imgEntry (m : List Byte) : Nat := leAt m 0x0C 4
def imgStageOff (m : List Byte) : Nat := leAt m 0x18 4
def imgRelocOff (m : List Byte) : Nat := leAt m 0x1C 4
def imgRelocs (m : List Byte) : Nat := leAt m 0x20 4
def imgCodeOff (m : List Byte) : Nat := leAt m 0x24 4
def imgDataOff (m : List Byte) : Nat := leAt m 0x28 4
def imgBss (m : List Byte) : Nat := leAt m 0x2C 4
def imgSeedSlots (m : List Byte) : Nat := leAt m 0x30 1
def imgStagingMib (m : List Byte) : Nat := leAt m 0x44 4

/-- Two runs of bytes share none. -/
def apart (a n b k : Nat) : Bool := n == 0 || k == 0 || decide (a + n ≤ b) || decide (b + k ≤ a)

/-- Every placement and count of R108 and R109 holds; the command's length is the image's. -/
def imageFits (m : List Byte) : Bool :=
  let st := imgStageOff m
  let rl := imgRelocOff m
  let co := imgCodeOff m
  let da := imgDataOff m
  let stn := 16 * imgStages m
  let rln := 8 * imgRelocs m
  imgLen m == m.length && decide (m.length ≤ 16777216) && decide (128 ≤ m.length) && isAligned (imgLen m) 64
    && decide (1 ≤ imgCores m ∧ imgCores m ≤ 14) && decide (1 ≤ imgStages m ∧ imgStages m ≤ 64) && decide (imgRelocs m ≤ 65536)
    && isAligned st 16 && isAligned rl 8 && decide (128 ≤ st ∧ st + stn ≤ co) && (rln == 0 || decide (128 ≤ rl ∧ rl + rln ≤ co))
    && apart st stn rl rln
    && isAligned co 64 && isAligned da 64 && decide (co ≤ da ∧ da ≤ imgLen m ∧ da - co ≤ 1048576)
    && decide (co ≤ imgEntry m ∧ imgEntry m < da) && isAligned (imgEntry m) 4
    && isAligned (imgBss m) 65536 && decide (imgBss m ≤ 2 ^ 30) && decide (1 ≤ imgSeedSlots m ∧ imgSeedSlots m ≤ 4)

/-- A stage entry (R111). -/
structure StageEntry where
  number : Nat
  standby : Bool
  altValid : Bool
  optional : Bool
  cls : Nat
  source : Nat
  alt : Nat
  minUnits : Nat
  rings : Nat
  log2 : Nat
  weight : Nat
deriving DecidableEq, Repr

def stageEntry (m : List Byte) (i : Nat) : StageEntry :=
  let o := imgStageOff m + 16 * i
  let f := BitVec.ofNat 8 (leAt m (o + 1) 1)
  { number := leAt m o 1, standby := bitAt f 6, altValid := bitAt f 5, optional := bitAt f 4, cls := natAt f 0 4,
    source := leAt m (o + 2) 1, alt := leAt m (o + 3) 1, minUnits := leAt m (o + 4) 2, rings := leAt m (o + 6) 1,
    log2 := leAt m (o + 7) 1, weight := leAt m (o + 8) 1 }

def stageTable (m : List Byte) : List StageEntry := (List.range (imgStages m)).map (stageEntry m)

/-- One stage meets R112. A class 0xB stage with FROM 0xFF takes no part in the rank check, also as the stage another names. -/
def stageSound (t : List StageEntry) (i : Nat) (e : StageEntry) : Bool :=
  let ranked := match t[e.source]? with
    | some p => (p.cls == 0xB && p.source == 0xFF) || match Config.classRank e.cls, Config.classRank p.cls with
        | some a, some b => decide (b < a)
        | _, _ => false
    | none => false
  e.number == i && decide (1 ≤ e.minUnits) && decide (1 ≤ e.rings ∧ e.rings ≤ 64) && decide (6 ≤ e.log2 ∧ e.log2 ≤ 15)
    && decide (1 ≤ e.weight ∧ e.weight ≤ 15)
    && (e.source == 0xFF || (decide (e.source < i) && ranked))
    && (e.cls != 0xC || e.source == 0xFF)
    && (!e.altValid || match t[e.alt]? with
        | some a => a.standby && decide (i < e.alt)
        | none => false)

/-- The stages that name stage `i` as ALT. -/
def altNamers (t : List StageEntry) (i : Nat) : List StageEntry := t.filter (fun e => e.altValid && e.alt == i)

/-- The stage table meets R112. -/
def graphSound (t : List StageEntry) : Bool :=
  (t.zipIdx.all (fun ei => stageSound t ei.2 ei.1))
    && t.zipIdx.all (fun ei => !ei.1.standby || decide ((altNamers t ei.2).length ≤ 1))

/-- Activity of the stages in increasing order (R113). -/
def markStages (v : Variant) (t : List StageEntry) : List Bool :=
  t.foldl (fun acc e =>
    let able := decide (e.minUnits ≤ Config.unitCount v e.cls) && (e.source == 0xFF || acc.getD e.source false)
    let chosen := !e.standby || match altNamers t acc.length with
      | n :: _ => !acc.getD n.number false
      | [] => false
    acc ++ [able && chosen]) []

/-- The variant has what the recipe cannot run without (R113). -/
def capable (t : List StageEntry) (act : List Bool) : Bool :=
  t.zipIdx.all (fun ei =>
    let (e, i) := ei
    act.getD i false || ((e.optional || e.standby) && !(e.optional && e.altValid && !act.getD e.alt false)))

/-- The limits of R110 that LIMITS answers for. -/
def limitsSound (m : List Byte) : Bool :=
  let look := leAt m 0x40 4
  decide (1 ≤ look ∧ look ≤ 1048576) && decide (leAt m 0x31 1 ≤ 2)

/-- A limit field whose 0 selects the largest value (R110). -/
def limitOf (width v : Nat) : Nat := if v = 0 then 2 ^ width - 1 else v

/-- The rings a recipe holds: (core index, stage, index), cores outermost (R114). -/
def slotKeys (m : List Byte) (t : List StageEntry) (act : List Bool) : List (Nat × StageEntry × Nat) :=
  (List.range (imgCores m)).flatMap (fun c =>
    (t.filter (fun e => act.getD e.number false)).flatMap (fun e => (List.range e.rings).map (fun i => (c, e, i))))

/-! ## Resources (R116, R117, R632) -/

/-- A naturally aligned block of a power of two, at least one region in size (R632). -/
def blockFor (base size : Nat) : Block := ⟨base, max 4096 (toPowerOfTwo size)⟩

/-- The memory of every ring in use. -/
def State.ringBlocks (s : State) : List Block :=
  s.rings.filterMap (fun e => if e.2.en || e.2.disabling then some ⟨e.2.base.toNat, 64 * e.2.size⟩ else none)

/-- Blocks that are aligned, lie in DRAM and share no byte with each other or with what is reserved. -/
def blocksFree (s : State) (reserved : List Block) : List Block → Bool
  | [] => true
  | b :: bs =>
    isAligned b.base b.size && s.regionAt b.base b.size == .dram
      && (reserved ++ bs).all (fun r => apart b.base b.size r.base r.size) && blocksFree s reserved bs

/-- The rings a placement names, beside what each is for. -/
def placedSlots (m : List Byte) (t : List StageEntry) (act : List Bool) (p : Placement) :
    List ((Nat × StageEntry × Nat) × Nat × Nat × Nat) :=
  (slotKeys m t act).zip (p.rings.zip (p.bases.zip p.qcns))

/-- The blocks a load reserves, without its rings. -/
def loadBlocks (m : List Byte) (p : Placement) : List Block × Block × Block × Block × Block :=
  let code := imgDataOff m - imgCodeOff m
  (p.code.map (fun b => blockFor b code), blockFor p.data (imgLen m - imgDataOff m), blockFor p.bss (max 65536 (imgBss m)),
    blockFor p.staging (imgStagingMib m * 1048576), blockFor p.page 4096)

/-- What a placement names is free and enough (R116, R117 step 6). -/
def State.placementFree (s : State) (m : List Byte) (t : List StageEntry) (act : List Bool) (p : Placement) : Bool :=
  let n := (slotKeys m t act).length
  let (code, data, bss, staging, page) := loadBlocks m p
  let slots := placedSlots m t act p
  let rings := slots.map (fun x => ((x.1.2.1.cls, x.2.1) : Nat × Nat))
  let ringMem := slots.map (fun x => (⟨x.2.2.1, 64 * 2 ^ x.1.2.1.log2⟩ : Block))
  p.cores.length == imgCores m && decide p.cores.Nodup && p.cores.all (fun c => decide (2 ≤ c.val) && (s.recipeOf c).isNone)
    && p.rings.length == n && p.bases.length == n && p.qcns.length == n && p.code.length == imgCores m
    && decide rings.Nodup
    && rings.all (fun x => decide (x.2 < 1023) && !(s.ring x.1 x.2).en && !(s.ring x.1 x.2).disabling)
    && decide p.qcns.Nodup && p.qcns.all (fun q => decide (q < 65536) && (Table.find s.qct q).isNone)
    && blocksFree s (s.recipes.flatMap (fun e => e.2.blocks) ++ s.ringBlocks) (code ++ [data, bss, staging, page] ++ ringMem)

/-! ## Relocation (R114) -/

/-- One relocation entry: offset, stage and index. -/
def relocAt (m : List Byte) (i : Nat) : Nat × Nat × Nat :=
  let o := imgRelocOff m + 8 * i
  (leAt m o 4, leAt m (o + 4) 1, leAt m (o + 5) 1)

/-- The word of a relocation is a `sub` of the stage's class in the code section. -/
def relocSound (m : List Byte) (t : List StageEntry) (i : Nat) : Bool :=
  let (off, stage, index) := relocAt m i
  match t[stage]? with
  | some e =>
    let w := BitVec.ofNat 32 (leAt m off 4)
    decide (imgCodeOff m ≤ off ∧ off + 4 ≤ imgDataOff m) && isAligned off 4 && decide (index < e.rings)
      && natAt w 26 6 == 0x30 && natAt w 0 2 == 0 && natAt w 22 4 == e.cls
  | none => false

/-- A code copy with the ring field of every relocated `sub` written. -/
def relocated (m code : List Byte) (ringOf : Nat → Nat → Nat) : List Byte :=
  (List.range (imgRelocs m)).foldl (fun code i =>
    let (off, stage, index) := relocAt m i
    let o := off - imgCodeOff m
    let w := putBits (BitVec.ofNat 32 (leAt code o 4)) 12 10 (ringOf stage index)
    code.take o ++ leBytes 4 w.toNat ++ code.drop (o + 4)) code

/-! ## Loading (R117, R118, R632) -/

/-- A region CSR or window over a block. `perms` holds RD, W and X in bits 0 to 2 (R42). -/
def regionWord (b : Block) (perms : Nat) : Word64 :=
  BitVec.ofNat 64 (2 ^ 63 + perms * 2 ^ 56 + log2Up b.size * 2 ^ 48 + alignDown b.base 4096)

/-- A region CSR or window over an area of `n` bytes in its block; an area of no bytes has none. -/
def areaWord (b : Block) (n perms : Nat) : Word64 := if n = 0 then regionReset else regionWord b perms

/-- The U and S regions of a recipe's core (R632); the S regions of the supervisor itself are not described. -/
def recipeRegions (m : List Byte) (code data bss page staging : Block) : Vector Word64 16 :=
  let v := Vector.replicate 16 regionReset
  ((((v.set 0 (regionWord code 5)).set 1 (areaWord data (imgLen m - imgDataOff m) 3)).set 2 (areaWord bss (imgBss m) 3)).set 3
    (regionWord page 1)).set 4 (areaWord staging (imgStagingMib m) 1)

/-- Set up one ring of a recipe (R117 step 7, R632). -/
def State.placeRing (s : State) (m : List Byte) (core : CoreId) (e : StageEntry) (ring base qcn : Nat) (data bss staging : Block) :
    State :=
  let win := (((Vector.replicate 4 regionReset).set 0 (areaWord data (imgLen m - imgDataOff m) 3)).set 1
    (areaWord bss (imgBss m) 3)).set 2 (areaWord staging (imgStagingMib m) 3)
  let r : Ring := { Ring.reset with
    en := true, ownerPriv := privU, ownerCore := BitVec.ofNat 4 core.val, log2 := BitVec.ofNat 4 e.log2
    weight := BitVec.ofNat 4 e.weight, qcn := BitVec.ofNat 16 qcn, base := BitVec.ofNat 48 base, win := win }
  { s.setRing e.cls ring r with qct := Table.put s.qct qcn (.engineRing e.cls ring) }

/-- The refusal of a load by steps 1 to 5 of R117, with the codes of R118. -/
def State.loadRefusal (s : State) (m : List Byte) : Option Nat :=
  let t := stageTable m
  if leAt m 0 4 ≠ 0x5043524B then some 0x01
  else if leAt m 4 2 ≠ 0x0001 then some 0x02
  else if !imageFits m then some 0x03
  else if (s.reg GLB_DCLASS &&& BitVec.ofNat 32 (leAt m 0x10 4)) ≠ BitVec.ofNat 32 (leAt m 0x14 4) then some 0x04
  else if !graphSound t then some 0x06
  else if !capable t (markStages s.part.variant t) then some 0x05
  else if !limitsSound m then some 0x07
  else none

/-- The lowest free handle. -/
def State.freeHandle (s : State) : Nat := ((List.range 256).find? (fun h => (Table.find s.recipes h).isNone)).getD 256

/-- Step 7 of R117: place, relocate and set up; the recipe is loaded under its handle. -/
def State.placeRecipe (s : State) (m : List Byte) (p : Placement) (handle : Nat) : State :=
  let t := stageTable m
  let act := markStages s.part.variant t
  let (code, data, bss, staging, page) := loadBlocks m p
  let slots : List RingSlot := (placedSlots m t act p).map (fun x =>
    { stage := x.1.2.1.number, index := x.1.2.2, core := p.cores.getD x.1.1 0, cls := x.1.2.1.cls, ring := x.2.1 })
  let text := sliceOf (imgCodeOff m) (imgDataOff m - imgCodeOff m) m
  let s := (p.cores.zip code).foldl (fun s cb =>
    let ringOf (stage index : Nat) :=
      ((slots.find? (fun sl => sl.core == cb.1 && sl.stage == stage && sl.index == index)).map (·.ring)).getD 1023
    let s := s.writeDram cb.2.base (relocated m text ringOf)
    let regions := recipeRegions m cb.2 data bss page staging
    s.setCore cb.1 { s.core cb.1 with regionU := regions, regionS := regions }) s
  let s := s.writeDram data.base (m.drop (imgDataOff m))
  let s := s.writeDram bss.base (zeros (imgBss m))
  let s := (placedSlots m t act p).foldl (fun s x =>
    s.placeRing m (p.cores.getD x.1.1 0) x.1.2.1 x.2.1 x.2.2.1 x.2.2.2 data bss staging) s
  let r : Recipe := {
    hash := sha256 m, cores := p.cores, entry := imgEntry m, codeOff := imgCodeOff m, code := code, data := data, bss := bss
    staging := staging, stagingBytes := imgStagingMib m * 1048576, page := page
    stages := t.map (fun e => ⟨e.number, e.cls, e.rings, e.log2, e.weight, act.getD e.number false⟩)
    slots := slots, seedSlots := imgSeedSlots m, damagePolicy := leAt m 0x31 1
    maxRatio := limitOf 16 (leAt m 0x32 2), maxPixels := limitOf 32 (leAt m 0x34 4), maxAudio := limitOf 32 (leAt m 0x38 4)
    maxBytes := limitOf 32 (leAt m 0x3C 4), lookahead := leAt m 0x40 4
    state := .loaded, launch := none, failure := none, unloading := [] }
  { s with recipes := Table.put s.recipes handle r }

/-- RECIPE_LOAD (R117, R118, R422): the first check that fails refuses the load, and nothing stays reserved. -/
def execRecipeLoad (src : CmdSrc) (place : Placement) (s : State) : Res :=
  .next (if s.loaderOnly then s
    else match s.takeCommand src 0x01 with
    | none => s
    | some (ref, e, s) =>
      let addr := leAt e 0x08 8
      let len := leAt e 0x10 8
      if !isAligned addr 64 then s.completeCommand ref 0 csBAD_COMMAND
      else if len > 16777216 then s.completeCommand ref 0 0x03
      else
        let m := s.commandBytes src addr len
        match s.loadRefusal m with
        | some code => s.completeCommand ref 0 code
        | none =>
          let t := stageTable m
          let act := markStages s.part.variant t
          let handle := s.freeHandle
          if handle = 256 || !s.placementFree m t act place then s.completeCommand ref 0 0x08
          else if !(List.range (imgRelocs m)).all (relocSound m t) then s.completeCommand ref 0 0x09
          else
            let s := s.placeRecipe m place handle
            let s := match ref with
              | .ring _ _ => s.hostWrite (leAt e 0x18 8) (sha256 m)
              | .manager _ => s
            s.completeCommand ref handle csOK (sha256 m))

/-! ## Launching (R119, R120) -/

/-- The launch block (R120). -/
def launchBlock (v : Variant) (r : Recipe) (l : Launch) : List Byte :=
  leBytes 2 l.dataset.toNat ++ leBytes 1 r.cores.length ++ zeros 1 ++ leBytes 4 l.epochFirst.toNat ++ leBytes 4 l.epochCount.toNat
    ++ zeros 4 ++ leBytes 8 r.stageMask ++ leBytes 8 r.data.base ++ leBytes 8 r.bss.base ++ leBytes 8 l.at_.toNat
    ++ (List.range 16).flatMap (fun c => leBytes 2 (Config.unitCount v c))
    ++ (List.range 4).flatMap (fun k => fitBytes 16 (l.seeds.getD k []))
    ++ fitBytes 32 r.hash ++ zeros 80

/-- RECIPE_LAUNCH (R118, R119, R422): accepted in state 0 while no unload is in progress; the launch block is written and the
recipe's cores wait for L. -/
def execRecipeLaunch (src : CmdSrc) (s : State) : Res :=
  .next (match s.takeCommand src 0x02 with
    | none => s
    | some (ref, e, s) =>
      let h := leAt e 0x04 4
      match Table.find s.recipes h with
      | none => s.completeCommand ref 0 csBAD_HANDLE
      | some r =>
        if r.state ≠ .loaded ∨ r.unloading ≠ [] then s.completeCommand ref 0 csWRONG_STATE
        else
          let p := s.commandBytes src (leAt e 0x08 8) 128
          let supplied := match src with
            | .manager _ _ payload => (payload.length - 0x20) / 16
            | .ring _ => 4
          let at_ := leAt p 0 8
          if supplied < r.seedSlots then s.completeCommand ref 0 0x0A
          else if at_ < s.gtc.toNat + 100000 then s.completeCommand ref 0 0x0B
          else
            let l : Launch := {
              at_ := BitVec.ofNat 64 at_, dataset := BitVec.ofNat 16 (leAt p 0x08 2), epochFirst := BitVec.ofNat 32 (leAt p 0x0C 4)
              epochCount := BitVec.ofNat 32 (leAt p 0x10 4), seeds := (List.range 4).map (fun k => sliceOf (0x20 + 16 * k) 16 p) }
            let s := s.writeDram r.page.base (launchBlock s.part.variant r l)
            let s := r.cores.foldl (fun s c => s.setCore c { s.core c with duty := .waiting }) s
            let s := { s with recipes := Table.put s.recipes h { r with state := .waiting, launch := some l } }
            s.completeCommand ref 0 csOK)

/-- A core leaves its wait at U, at ENTRY of its code copy, with zero registers but g1 and g2 (R119). -/
def Core.startRecipe (k : Core) (entry page index : Nat) : Core :=
  { k with
    g := ((Vector.replicate 32 0).set 1 (BitVec.ofNat 64 page)).set 2 (BitVec.ofNat 64 index)
    v := Vector.replicate 16 0
    fflags := 0
    pc := BitVec.ofNat 64 entry
    status := putBits k.status 0 2 0
    duty := .free
    wait := none }

/-- RECIPE_START: the GTC has reached L (R119). -/
def execRecipeStart (handle : BitVec 8) (s : State) : Res :=
  .next (match Table.find s.recipes handle.toNat with
    | some r =>
      match r.state, r.launch with
      | .waiting, some l =>
        if l.at_ ≤ s.gtc ∧ r.unloading = [] then
          let s := ((r.cores.zip r.code).zipIdx).foldl (fun s x =>
            s.setCore x.1.1 ((s.core x.1.1).startRecipe (x.1.2.base + (r.entry - r.codeOff)) r.page.base x.2)) s
          { s with recipes := Table.put s.recipes handle.toNat { r with state := .running } }
        else s
      | _, _ => s
    | none => s)

/-- The word RECIPE_STATUS returns (R422). -/
def Recipe.statusWord (r : Recipe) : Nat :=
  let st := match r.state with
    | .loaded => 0
    | .waiting => 1
    | .running => 2
    | .ended => 3
  match r.failure with
  | none => st
  | some f => st + f.status.toNat * 2 ^ 8 + 2 ^ 16 + f.exception.toNat * 2 ^ 17 + f.index % 16 * 2 ^ 18

/-- RECIPE_STATUS (R422). -/
def execRecipeStatus (src : CmdSrc) (s : State) : Res :=
  .next (match s.takeCommand src 0x04 with
    | none => s
    | some (ref, e, s) =>
      match Table.find s.recipes (leAt e 0x04 4) with
      | some r => s.completeCommand ref r.statusWord csOK
      | none => s.completeCommand ref 0 csBAD_HANDLE)

end Sys2Proof.Machine
end

