-- ==== Sys2Proof/Machine/Flash.lean ====
section
/-!
DEFINITION. The flash channels (R285 to R318): population, training, codewords and the steps that read them, stripes and their
rebuild, retired blocks and dead dies, patrol and calibration.
-/

namespace Sys2Proof.Machine

open Reg

/-! ## Addresses and out-of-band areas (R285, R293) -/

/-- The key of a codeword on the medium. -/
def cwKey (die block page plane cw : Nat) : Nat := (((die * 8192 + block) * 4096 + page) * 4 + plane) * 4 + cw

/-- The key of a block. -/
def blockKey (die block : Nat) : Nat := die * 8192 + block

def kindUser : Nat := 1
def kindMap : Nat := 2
def kindJournal : Nat := 3
def kindMetadata : Nat := 4
def kindParity : Nat := 5
def kindFiller : Nat := 6

/-- CHECK of R293. -/
def oobCheck (data first14 : List Byte) : Nat := natAt (crc32c (data ++ first14)) 0 16

/-- An out-of-band area (R293). -/
def oobBytes (data : List Byte) (lua kind space seq : Nat) : List Byte :=
  let head := leBytes 5 lua ++ leBytes 1 kind ++ leBytes 2 space ++ leBytes 6 seq
  head ++ leBytes 2 (oobCheck data head)

def Codeword.lua (w : Codeword) : Nat := leAt w.oob 0 5
def Codeword.kind (w : Codeword) : Nat := leAt w.oob 5 1
def Codeword.space (w : Codeword) : Nat := leAt w.oob 6 2
def Codeword.seq (w : Codeword) : Nat := leAt w.oob 8 6

/-- The codeword passes CHECK. -/
def Codeword.checks (w : Codeword) : Bool := leAt w.oob 14 2 == oobCheck w.data (w.oob.take 14)

/-- What an erased codeword reads as (R295). -/
def Codeword.erased : Codeword := ⟨List.replicate 4096 0xFF, List.replicate 16 0xFF, []⟩

/-- The XOR of two runs of bytes. -/
def xorBytes (a b : List Byte) : List Byte := List.zipWith (· ^^^ ·) a b

/-! ## Dies and channels (R285 to R291) -/

def State.die (s : State) (d : Nat) : Option Die := Table.find s.flash.dies d
def State.setDie (s : State) (d : Nat) (x : Die) : State := { s with flash := { s.flash with dies := Table.put s.flash.dies d x } }

/-- The channels of the part (R285). -/
def State.channels (s : State) : Nat := Config.nandChannels s.part.variant

/-- The die that the population is compared with (R289). -/
def State.reference (s : State) : Option DieIdent := (s.die 0).map (·.ident)

/-- The geometry the channels accept (R290). -/
def dieAccepted (d : DieIdent) : Bool :=
  d.qlc && d.planes == 4 && d.pageBytes == 16384 && decide (768 ≤ d.spareBytes) && decide (1024 ≤ d.pages ∧ d.pages ≤ 4096)
    && isAligned d.pages 4 && decide (256 ≤ d.blocks ∧ d.blocks ≤ 8192)

/-- Two dies are of one part (R289). -/
def sameDie (a b : DieIdent) : Bool :=
  a.part == b.part && a.toggle == b.toggle && a.pages == b.pages && a.blocks == b.blocks

/-- A channel that carries a die. -/
def State.populated (s : State) (ch : Nat) : Bool := (List.range 32).any (fun i => (s.die (ch * 32 + i)).isSome)

/-- An index position is used on every channel (R289). -/
def State.positionUsed (s : State) (i : Nat) : Bool :=
  match s.reference with
  | none => false
  | some r =>
    ((List.range s.channels).filter (fun ch => s.populated ch && !s.flash.failed.contains ch)).all (fun ch =>
      match s.die (ch * 32 + i) with
      | some d => dieAccepted d.ident && sameDie d.ident r
      | none => false)

/-- A usable die: in use, and not dead. -/
def State.dieUsable (s : State) (d : Nat) : Bool :=
  match s.die d with
  | some x => x.state == .inUse || x.state == .rebuilding
  | none => false

/-- A channel with a usable die that has not failed. -/
def State.channelUsable (s : State) (ch : Nat) : Bool :=
  !s.flash.failed.contains ch && (List.range 32).any (fun i => s.dieUsable (ch * 32 + i))

def State.usableChannels (s : State) : List Nat := (List.range s.channels).filter s.channelUsable

/-- The population is taken anew: used and excluded dies, and `FLS_POP` (R289, R290, R317). -/
def State.repopulate (s : State) : State :=
  let used := (List.range 32).filter s.positionUsed
  let dies := s.flash.dies.map (fun e => (e.1,
    if e.2.state = .dead || e.2.state = .rebuilding then e.2
    else { e.2 with state := if used.contains (e.1 % 32) then .inUse else .excluded }))
  let s := { s with flash := { s.flash with dies := dies } }
  let ces := ((List.range 4).filter (fun ce => used.any (fun i => i / 8 == ce))).length
  let s := s.setFld FLS_POP_MODE (match s.reference with
    | some r => if r.toggle then 2 else 1
    | none => 0)
  let s := s.setFld FLS_POP_CHANNELS (s.usableChannels.length)
  let s := (s.setFld FLS_POP_DIES used.length).setFld FLS_POP_CES ces
  let s := s.setFld FLS_POP_LUNS (used.length / max 1 ces)
  s.setFlag FLS_POP_MISMATCH (dies.any (fun e => e.2.state == .excluded))

/-- A channel's rate code in `FLS_CHAN_RATE0` to 3. -/
def State.setChanRate (s : State) (ch v : Nat) : State :=
  let off := FLS_CHAN_RATE + 4 * (ch / 8)
  s.setReg off (putBits (s.reg off) (4 * (ch % 8)) 4 v)

def State.chanRate (s : State) (ch : Nat) : Nat := natAt (s.reg (FLS_CHAN_RATE + 4 * (ch / 8))) (4 * (ch % 8)) 4

/-! ## Dead dies, failed channels and retired blocks (R305, R307, R308) -/

/-- A channel fails (R307): it is missing from every stripe, and its dies are rebuilt. -/
def State.failChannel (s : State) (ch : Nat) : State :=
  if s.flash.failed.contains ch then s
  else
    let held := ((List.range 32).map (ch * 32 + ·)).filter (fun d => s.dieUsable d)
    let s := { s with flash := { s.flash with failed := s.flash.failed ++ [ch], rebuilds := s.flash.rebuilds ++ held } }
    (s.setChanRate ch 0xF).repopulate

/-- A die is dead (R305): no further commands, and its rebuild waits its turn. The channel fails with its last die. -/
def State.dieDead (s : State) (d : Nat) : State :=
  match s.die d with
  | some x =>
    if x.state = .dead || x.state = .rebuilding then s
    else
      let s := s.setDie d { x with state := .dead, busy := false }
      let s := { s with flash := { s.flash with rebuilds := s.flash.rebuilds ++ [d] } }
      let s := s.errAdd FLS_ERR_CNT2_DEAD_DIES 1
      let ch := d / 32
      if (List.range 32).any (fun i => s.dieUsable (ch * 32 + i)) then s else s.failChannel ch
  | none => s

/-- Blocks of a die that can still be used. -/
def State.goodBlocks (s : State) (d : Nat) : Nat :=
  match s.die d with
  | some x => if s.dieUsable d then x.ident.blocks - x.retired.length else 0
  | none => 0

/-- Superblocks the usable blocks can form: what the poorest usable channel holds (R297, R301). -/
def State.usableSuperblocks (s : State) : Nat :=
  let per := s.usableChannels.map (fun ch => ((List.range 32).map (fun i => s.goodBlocks (ch * 32 + i))).foldl (· + ·) 0)
  match per with
  | [] => 0
  | p :: ps => ps.foldl min p

/-- Data units of one superblock of `w` members (R296, R320). -/
def State.unitsPer (s : State) (w : Nat) : Nat :=
  match s.reference with
  | some r => (w - 1) * 4 * r.pages * 4
  | none => 0

/-- Channels below which no superblock is formed (R307). -/
def State.channelFloor (s : State) : Nat := s.channels / 2

/-- USER_UNITS (R320). -/
def State.userUnits (s : State) : Nat := s.fld FTL_USER_LO_UNITS_L + s.fld FTL_USER_HI_UNITS_H * 2 ^ 32

/-- The engine enters READ_ONLY where R321 says so. -/
def State.checkReadOnly (s : State) : State :=
  let units := s.usableSuperblocks * s.unitsPer s.usableChannels.length
  if s.fld FTL_STATE_STATE = 2 && (decide (units * 97 < s.userUnits * 100) || decide (s.usableChannels.length < s.channelFloor))
  then s.setFld FTL_STATE_STATE 3 else s

/-- The superblock that holds a block. -/
def State.superblockOf (s : State) (d b : Nat) : Option (Nat × Superblock) :=
  s.ftl.superblocks.find? (fun e => e.2.members.contains (d, b))

def State.setSuperblock (s : State) (n : Nat) (x : Superblock) : State :=
  { s with ftl := { s.ftl with superblocks := Table.put s.ftl.superblocks n x } }

/-- Ask for a superblock's valid data to be moved (R309, R333). -/
def State.askRefresh (s : State) (d b : Nat) : State :=
  match s.superblockOf d b with
  | some (n, x) => s.setSuperblock n { x with refresh := true }
  | none => s

/-- Retire a block (R308); more than 16 within 24 h make the die dead (R305). -/
def State.retireBlock (s : State) (d b : Nat) : State :=
  match s.die d with
  | some x =>
    if x.retired.any (fun r => r.1 == b) then s
    else
      let x := { x with retired := x.retired ++ [(b, s.gtc)] }
      let s := (s.setDie d x).askRefresh d b
      let recent := x.retired.filter (fun r => !x.ident.factoryBad.contains r.1
        && decide (s.gtc.toNat < r.2.toNat + 24 * 3600 * 10 ^ 9))
      let s := if recent.length > 16 then s.dieDead d else s
      s.checkReadOnly
  | none => s

/-- A block is retired. -/
def State.blockRetired (s : State) (d b : Nat) : Bool :=
  match s.die d with
  | some x => x.retired.any (fun r => r.1 == b)
  | none => true

/-! ## Reading codewords (R295, R300 to R302) -/

/-- How a codeword was read: the codeword, the step reached, the retry entry used and the bits corrected. -/
structure CwRead where
  word : Option Codeword
  step : Nat
  entry : Nat
  bits : Nat
  erased : Bool
deriving DecidableEq, Repr

/-- A codeword's place on the medium. -/
structure CwAddr where
  die : Nat
  block : Nat
  page : Nat
  plane : Nat
  cw : Nat
deriving DecidableEq, Repr

def CwAddr.key (a : CwAddr) : Nat := cwKey a.die a.block a.page a.plane a.cw

def State.healthOf (s : State) (a : CwAddr) : Health := Table.at Health.good s.flash.health a.key

/-- Retry entries in the order R300 tries them: the one that last succeeded in the block, then table order. -/
def State.retryOrder (s : State) (a : CwAddr) : List Nat :=
  let len := match s.die a.die with
    | some x => x.ident.retryLen
    | none => 0
  let table := (List.range (min (s.fld FLS_RETRY_CFG_RETRY_MAX) len)).map (· + 1)
  match Table.find s.flash.lastRetry (blockKey a.die a.block) with
  | some e => if table.contains e then e :: table.filter (· != e) else table
  | none => table

/-- A decode at a step stands: the codeword passes CHECK there; otherwise it is a miscorrection (R295). -/
def Health.stands (h : Health) (w : Codeword) (step : Nat) : Bool := w.checks && !h.miscorrects.contains step

/-- Steps 1 to `last` of R300 on the channel's own decoder. -/
def State.readSteps (s : State) (a : CwAddr) (last : Nat) : CwRead × State :=
  let s := s.count unitFLS 0 1
  let k := blockKey a.die a.block
  let s := { s with flash := { s.flash with reads := Table.write 0 s.flash.reads k (Table.at 0 s.flash.reads k + 1) } }
  match Table.find s.flash.nand a.key with
  | none => (⟨some Codeword.erased, 1, 0, 0, true⟩, s)
  | some w =>
    let h := s.healthOf a
    let wrong (s : State) (decoded : Bool) (step : Nat) : State :=
      if decoded && !h.stands w step then s.errAdd FLS_ERR_CNT2_MISCORRECT 1 else s
    if h.bits.isSome && h.stands w 1 then (⟨some w, 1, 0, h.bits.getD 0, false⟩, s.count unitFLS 1 1)
    else
      let s := wrong s h.bits.isSome 1
      if last ≤ 1 then (⟨none, 1, 0, 0, false⟩, s)
      else
        let order := s.retryOrder a
        let hit := match h.retry with
          | some e => order.contains e
          | none => false
        let e := h.retry.getD 0
        let tried := if hit then order.idxOf e + 1 else order.length
        let s := s.count unitFLS 2 tried
        if hit && h.stands w 2 then
          (⟨some w, 2, e, 0, false⟩, { s with flash := { s.flash with lastRetry := Table.put s.flash.lastRetry k e } })
        else
          let s := wrong s hit 2
          if last ≤ 2 then (⟨none, 2, 0, 0, false⟩, s)
          else
            let s := s.count unitFLS 3 1
            if h.soft && h.stands w 3 then (⟨some w, 3, 0, 0, false⟩, s)
            else (⟨none, 3, 0, 0, false⟩, wrong s h.soft 3)

/-- A member of a stripe cannot be read by its own channel (R301). -/
def State.missing (s : State) (d b : Nat) : Bool :=
  !s.dieUsable d || s.flash.failed.contains (d / 32) || bitAt (s.reg FLS_CHAN_STATE) (d / 32) || s.blockRetired d b

/-- A stripe's number in its superblock, and its parity member (R296). -/
def stripeNumber (page plane : Nat) : Nat := page * 4 + plane
def parityMember (n p w : Nat) : Nat := if w = 0 then 0 else (n + p) % w

/-- Rebuild a codeword by XOR of the other members that MEMBERS names (R302); `none` where a second member is missing. -/
def State.rebuildCodeword (s : State) (a : CwAddr) : Option Codeword × State :=
  match s.superblockOf a.die a.block with
  | none => (none, s)
  | some (n, x) =>
    let w := x.members.length
    let p := stripeNumber a.page a.plane
    let pm := parityMember n p w
    let m := x.members.idxOf (a.die, a.block)
    let at_ (i : Nat) : CwAddr :=
      let e := x.members.getD i (0, 0)
      ⟨e.1, e.2, a.page, a.plane, a.cw⟩
    let others := (List.range w).filter (fun i => i != m)
    if others.any (fun i => s.missing (at_ i).die (at_ i).block) then (none, s)
    else
      let (reads, s) := others.foldl (fun (acc : List (Nat × CwRead) × State) i =>
        let (r, s) := acc.2.readSteps (at_ i) 3
        (acc.1 ++ [(i, r)], s)) (([] : List (Nat × CwRead)), s)
      if reads.any (fun e => e.2.word.isNone) then (none, s)
      else
        let parity := (reads.find? (fun e => e.1 == pm)).bind (fun e => e.2.word)
        let included (i : Nat) : Bool := match parity with
          | some q => bitAt (BitVec.ofNat 32 (leAt q.oob 0 4)) i
          | none => true
        let words := reads.filterMap (fun e => if e.1 = pm || !included e.1 then none else e.2.word)
        let zero := List.replicate 4096 (0 : Byte)
        let oob0 := List.replicate 16 (0 : Byte)
        let data := words.foldl (fun acc q => xorBytes acc q.data) (match parity with
          | some q => q.data
          | none => zero)
        let sum := words.foldl (fun acc q => xorBytes acc q.oob) (match parity with
          | some q => q.sum
          | none => oob0)
        let rebuilt : Codeword := if m = pm then ⟨data, oobBytes data (2 ^ w - 1) kindParity 0 0, sum⟩ else ⟨data, sum, []⟩
        if m ≠ pm && (!included m || !rebuilt.checks) then (none, s)
        else (some rebuilt, s.errAdd FLS_ERR_CNT_RECONSTRUCTED 1)

/-- Every step of R300 for a requester: its own channel unless the member is missing, then the stripe; step 5 is counted. A
codeword that needed step 4 retires its block (R308); step 3 or 4 asks for a refresh (R309). -/
def State.readCodeword (s : State) (a : CwAddr) : CwRead × State :=
  if s.missing a.die a.block then
    let (w, s) := s.rebuildCodeword a
    match w with
    | some q => (⟨some q, 4, 0, 0, false⟩, s)
    | none => (⟨none, 5, 0, 0, false⟩, s.errAdd FLS_ERR_CNT_UNREADABLE 1)
  else
    let (r, s) := s.readSteps a 3
    match r.word with
    | some _ => (r, if r.step = 3 then s.askRefresh a.die a.block else s)
    | none =>
      let (w, s) := s.rebuildCodeword a
      let s := (s.askRefresh a.die a.block).retireBlock a.die a.block
      match w with
      | some q => (⟨some q, 4, 0, 0, false⟩, s)
      | none => (⟨none, 5, 0, 0, false⟩, s.errAdd FLS_ERR_CNT_UNREADABLE 1)

/-- A read that must wait: its member or a second one is on the channel that is out of service (R313). -/
def State.readWaits (s : State) (a : CwAddr) : Bool :=
  match s.superblockOf a.die a.block with
  | none => false
  | some (_, x) =>
    let gone := x.members.filter (fun e => s.missing e.1 e.2)
    s.missing a.die a.block && decide (2 ≤ gone.length)
      && gone.any (fun e => bitAt (s.reg FLS_CHAN_STATE) (e.1 / 32))

/-- The channels' work runs: PF is on and the safe state is not in force (R314). -/
def State.flashRuns (s : State) : Bool :=
  s.polderOn polPF && !s.flag FLT_STATUS_SAFE && !s.power.flush.any (fun f => f.shed)

/-- Programs and erases start only while the bank is ARMED (R515). -/
def State.flashStarts (s : State) : Bool := s.flashRuns && s.flag MGT_BANK_ARMED

/-- A delivery read suspends a program or erase on its die, at most 8 times for one operation (R304). -/
def State.suspendDie (s : State) (d : Nat) : State :=
  match s.die d with
  | some x =>
    if x.busy && decide (x.suspends < 8) then (s.setDie d { x with suspends := x.suspends + 1 }).count unitFLS 7 1 else s
  | none => s

/-! ## Media commands -/

/-- CHANNEL_TRAINING (R287 to R290, R308): the dies that answer on a channel, and the highest rate at which training passed. -/
def execChannelTraining (ch : BitVec 5) (dies : List (BitVec 5 × DieIdent)) (best : Option (BitVec 3)) (s : State) : Res :=
  let c := ch.toNat
  .next (if !s.flashRuns || decide (s.channels ≤ c) then s
    else
      let s := dies.foldl (fun s e =>
        let d := c * 32 + e.1.toNat
        match s.die d with
        | some x => s.setDie d { x with ident := e.2, busy := false }
        | none => s.setDie d ⟨.excluded, e.2, e.2.factoryBad.map (fun b => (b, s.gtc)), 0, false, 0⟩) s
      let s := if dies.isEmpty then s.setChanRate c 0xE
        else match best with
          | some r => s.setChanRate c (min r.toNat (min 4 (s.fld FLS_RATE_TARGET)))
          | none => s.failChannel c
      s.repopulate)

/-- CODEWORD_READ: an array read of a codeword completes; what the medium shows comes with the event (R300, R295). -/
def execCodewordRead (die : BitVec 10) (block page : Nat) (plane cw : BitVec 2) (shows : CellState) (s : State) : Res :=
  let a : CwAddr := ⟨die.toNat, block, page, plane.toNat, cw.toNat⟩
  let h : Health := ⟨shows.bits, shows.retry, shows.soft, shows.miscorrects⟩
  .next (if s.flashRuns && s.dieUsable die.toNat && !s.readWaits a then
      (({ s with flash := { s.flash with health := Table.write Health.good s.flash.health a.key h } }).readCodeword a).2
    else s)

/-- STRIPE_RECONSTRUCTION: a missing codeword is rebuilt from the other members of its stripe (R302). -/
def execStripeReconstruction (die : BitVec 10) (block page : Nat) (plane cw : BitVec 2) (s : State) : Res :=
  let a : CwAddr := ⟨die.toNat, block, page, plane.toNat, cw.toNat⟩
  .next (if s.flashRuns && s.missing die.toNat block && !s.readWaits a then (s.readCodeword a).2 else s)

/-- DIE_TIMEOUT: a die is still busy at three times the maximum time and is reset. It is dead where the reset does not clear it
after two operations in a row, or where it does not answer afterwards (R305). -/
def execDieTimeout (die : BitVec 10) (cleared answers : Bool) (s : State) : Res :=
  .next (match s.die die.toNat with
    | some x =>
      if !s.flashRuns || !s.dieUsable die.toNat then s
      else
        let stuck := if cleared then 0 else x.stuck + 1
        let s := s.setDie die.toNat { x with stuck := stuck, busy := false }
        if !answers || decide (2 ≤ stuck) then s.dieDead die.toNat else s
    | none => s)

/-- A PHYS_READ of one codeword in a mode (R315). -/
def State.physCodeword (s : State) (a : CwAddr) (mode : Nat) : CwRead × State :=
  if mode = 2 then
    (⟨Table.find s.flash.nand a.key, 0, 0, 0, (Table.find s.flash.nand a.key).isNone⟩, s.count unitFLS 0 1)
  else s.readSteps a (if mode = 1 then 1 else 3)

/-- The bytes a codeword is written out as: data and out-of-band bytes, or the bytes as read where it failed. -/
def physBytesOf (draw : Nat) (raw : Bool) (h : Health) (r : CwRead) : List Byte :=
  match r.word with
  | some w =>
    if raw && h ≠ Health.good && !r.erased then (List.range 4288).map (Config.rawByte draw)
    else w.data ++ w.oob ++ (if r.erased then List.replicate 176 0xFF else leBytes 176 (Config.ldpcParity (leNat (w.data ++ w.oob))))
  | none => if raw then List.replicate 4288 0xFF else (List.range 4288).map (Config.rawByte draw)

/-- PHYS_READ (R315, R316). -/
def execPhysRead (c : CoreId) (t : Ticket) (s : State) : Res :=
  .next (match s.running c t 0 0x40 with
    | none => s
    | some x =>
      let d := x.fieldAt 0x10 2 % 1024
      let plane := x.fieldAt 0x12 1 % 4
      let mode := x.fieldAt 0x13 1
      let block := x.fieldAt 0x14 2
      let page := x.fieldAt 0x16 2
      let inside := match s.die d with
        | some y => s.dieUsable d && decide (block < y.ident.blocks ∧ page < y.ident.pages)
        | none => false
      if !s.engineRuns 0 then s
      else if (s.ring x.cls x.ring).ownerPriv ≠ privM then s.finish x 0x61 0 []
      else if !inside then s.finish x 0x60 0 []
      else
        let s := s.suspendDie d
        let a (i : Nat) : CwAddr := ⟨d, block, page, plane, i⟩
        let (rs, s) := (List.range 4).foldl (fun (acc : List CwRead × State) i =>
          let (r, s) := acc.2.physCodeword (a i) mode
          (acc.1 ++ [r], s)) (([] : List CwRead), s)
        let (draw, s) := s.freshFree
        let raw := mode == 2
        let all := rs.zipIdx.map (fun e => physBytesOf (draw + e.2) raw (s.healthOf (a e.2)) e.1)
        let out := if raw then all.flatten else all.flatMap (fun b => b.take 4096) ++ all.flatMap (fun b => sliceOf 4096 16 b)
        let step := rs.foldl (fun m r => max m r.step) 0
        let entry := rs.foldl (fun m r => max m r.entry) 0
        let erased := rs.zipIdx.foldl (fun m e => m + e.1.erased.toNat * 2 ^ e.2) 0
        let report := leBytes 1 step ++ leBytes 1 entry ++ leBytes 2 erased ++ rs.flatMap (fun r => leBytes 2 r.bits) ++ zeros 4
        let s := s.engineWrite 0 (x.fieldAt 0x18 8) out
        let s := s.engineWrite 0 (x.fieldAt 0x20 8) report
        s.finish x (if !raw && rs.any (fun r => r.word.isNone) then 0x62 else stOK) 0 [(x.fieldAt 0x18 8, out.length)])

/-! ## Calibration and channel service (R311 to R313) -/

/-- Periodic and non-urgent temperature calibration and self-test are deferred while a rebuild runs or a channel has failed. -/
def State.serviceDeferred (s : State) : Bool := s.flag FLS_REBUILD_STAT_ACTIVE || !s.flash.failed.isEmpty || !s.flash.rebuilds.isEmpty

/-- A channel can be taken out of service now: it is usable and no other is out. -/
def State.serviceFree (s : State) (ch : Nat) : Bool := s.flashRuns && s.channelUsable ch && !s.flag FLS_SERVICE_BUSY

/-- The last calibration of a channel. -/
def State.calibrated (s : State) (ch : Nat) (temp : Int) : State :=
  { s with flash := { s.flash with calAt := Table.put s.flash.calAt ch (s.gtc, temp) } }

def State.lastCal (s : State) (ch : Nat) : Word64 × Int := Table.at (0, 25) s.flash.calAt ch

/-- PERIODIC_CALIBRATION: a channel is calibrated once PERIOD_S seconds have passed. The service lies within the step. -/
def execPeriodicCalibration (ch : BitVec 5) (s : State) : Res :=
  let c := ch.toNat
  let period := s.fld FLS_CAL_CFG_PERIOD_S
  .next (if s.serviceFree c && !s.serviceDeferred && period ≠ 0
      && decide ((s.lastCal c).1.toNat + period * 10 ^ 9 ≤ s.gtc.toNat) then s.calibrated c (s.lastCal c).2 else s)

/-- TEMP_CALIBRATION: the channel's temperature has changed by TEMP_DELTA or more; at twice TEMP_DELTA it is not deferred. -/
def execTempCalibration (ch : BitVec 5) (temp : Int) (s : State) : Res :=
  let c := ch.toNat
  let delta := s.fld FLS_CAL_CFG_TEMP_DELTA
  let change := (temp - (s.lastCal c).2).natAbs
  .next (if s.serviceFree c && delta ≠ 0 && decide (delta ≤ change) && (decide (2 * delta ≤ change) || !s.serviceDeferred)
    then s.calibrated c temp else s)

/-- CHANNEL_SERVICE (R311, R315, R316): calibration at the current rate, or retraining from 800 MT/s up to the target. The
highest rate at which training passed comes with the command. -/
def execChannelService (c : CoreId) (t : Ticket) (best : Option (BitVec 3)) (s : State) : Res :=
  .next (match s.running c t 0 0x41 with
    | none => s
    | some x =>
      let ch := x.fieldAt 0x10 1 % 32
      let retrain := x.fieldAt 0x11 1 % 2 == 1
      let target := min 4 (s.fld FLS_RATE_TARGET)
      if !s.engineRuns 0 then s
      else if (s.ring x.cls x.ring).ownerPriv ≠ privM then s.finish x 0x61 0 []
      else if decide (s.channels ≤ ch) || !s.populated ch then s.finish x 0x60 0 []
      else if s.flag FLS_SERVICE_BUSY then s
      else if !retrain then (s.calibrated ch (s.lastCal ch).2).finish x stOK 0 []
      else match best with
        | some r =>
          let got := min r.toNat target
          let s := (s.setChanRate ch got).calibrated ch (s.lastCal ch).2
          s.finish x (if got < target then 0x63 else stOK) 0 []
        | none => (s.failChannel ch).finish x 0x63 0 [])

/-! ## Patrol (R309, R310) -/

/-- Superblocks that a read count of 100,000 brings forward. -/
def State.worn (s : State) : List Nat :=
  (s.ftl.superblocks.filter (fun e => e.2.members.any (fun m =>
    decide (100000 ≤ Table.at 0 s.flash.reads (blockKey m.1 m.2))))).map (·.1)

/-- The written codewords of a block. -/
def State.writtenIn (s : State) (d b : Nat) : List CwAddr :=
  s.flash.nand.filterMap (fun e =>
    if e.1 / 65536 = blockKey d b then some ⟨d, b, e.1 / 16 % 4096, e.1 / 4 % 4, e.1 % 4⟩ else none)

/-- The superblock that patrol reads next and its cursor afterwards: worn ones first, then in superblock order. -/
def State.patrolNext (s : State) : Nat × Nat :=
  match s.worn with
  | w :: _ => (w, s.flash.patrolAt)
  | [] =>
    let keys := s.ftl.superblocks.map (fun e => e.1)
    let n := (keys.find? (fun k => decide (s.flash.patrolAt ≤ k))).getD (keys.headD 0)
    (n, n + 1)

/-- One superblock read at hard decision: counted, its read counts begun again, and a refresh asked where a codeword reaches
REFRESH_BITS or does not decode. Pages on a channel out of service are left for later. -/
def State.patrolOne (s : State) (n : Nat) (x : Superblock) : State :=
  let refreshAt := clampTo 1 40 (s.fld FLS_PATROL_CFG_REFRESH_BITS)
  let cells := x.members.flatMap (fun m => if s.missing m.1 m.2 then [] else s.writtenIn m.1 m.2)
  let weak := cells.any (fun a => decide (refreshAt ≤ (s.healthOf a).bits.getD 41))
  let s := s.count unitFLS 6 ((cells.length + 3) / 4)
  let s := x.members.foldl (fun (s : State) m => { s with flash := { s.flash with
    reads := Table.write 0 s.flash.reads (blockKey m.1 m.2) 0 } }) s
  if weak then s.setSuperblock n { x with refresh := true } else s

/-- PATROL_READ (R309, R310): the next superblock of the pass. A pass that overran PERIOD_H sets LATE as the next one begins. -/
def execPatrolRead (s : State) : Res :=
  let period := s.fld FLS_PATROL_CFG_PERIOD_H
  let (n, cursor) := s.patrolNext
  let wraps := s.worn.isEmpty && decide (cursor ≤ s.flash.patrolAt)
  .next (match Table.find s.ftl.superblocks n with
    | none => s
    | some x =>
      if !s.flashRuns || period = 0 then s
      else
        let late := wraps && decide (s.flash.passStart.toNat + period * 3600 * 10 ^ 9 < s.gtc.toNat)
        let start := if wraps then s.gtc else s.flash.passStart
        let s := s.patrolOne n x
        let s := if late then s.setFlag FLS_PATROL_STAT_LATE true else s
        let s := { s with flash := { s.flash with patrolAt := cursor, passStart := start } }
        s.setFld FLS_PATROL_STAT_PROGRESS (min 1023 (cursor * 1024 / max 1 s.ftl.nextSb)))

end Sys2Proof.Machine
end

