-- ==== Sys2Proof/Machine/Ftl.lean ====
section
/-!
DEFINITION. The translation engine's tables, journal and write streams (R319 to R337, R350, R351): the map, records and their
durability, rounds of wordlines, and the commands of spaces.
-/

namespace Sys2Proof.Machine

open Reg

/-! ## Status codes (R351) and answers -/

def stNOT_MOUNTED : Nat := 0x40
def stNO_SPACE : Nat := 0x41
def stRANGE : Nat := 0x42
def stREAD_ONLY : Nat := 0x43
def stUNREADABLE : Nat := 0x44
def stNOT_PRIV : Nat := 0x45
def stSPACE_EXISTS : Nat := 0x46
def stNO_ROOM : Nat := 0x47
def stBAD_SPACE : Nat := 0x48

/-- The NVMe status of a translation outcome (R414). -/
def nvmeOf (status : Nat) : Nat :=
  if status = stOK then nvmeOk
  else if status = stUNREADABLE then nvmeStatus 2 0x81 true
  else if status = stRANGE then nvmeStatus 0 0x80 true
  else if status = stREAD_ONLY then nvmeStatus 0 0x20 true
  else if status = stNOT_MOUNTED then nvmeStatus 0 0x82 true
  else nvmeBadNamespace

/-- Answer whoever asked the engine. -/
def State.answer (s : State) (a : Asker) (status detail : Nat) : State :=
  match a with
  | .desc c t =>
    match s.takenAt c t with
    | some x => if x.result.isNone then s.finish x status detail [] else s
    | none => s
  | .nvme fn sqid cid => s.nvmeComplete fn sqid cid 0 (nvmeOf status)
  | .ring ref => s.completeCommand ref 0 status

/-! ## Locations (R322) and the map -/

/-- A map entry: superblock, member, page, plane and codeword. -/
def packLoc (sb m page plane cw : Nat) : Nat := (((sb * 32 + m) * 4096 + page) * 4 + plane) * 4 + cw
def locSb (l : Nat) : Nat := l / 2 ^ 21
def locMember (l : Nat) : Nat := l / 2 ^ 16 % 32

/-- Where a location lies on the medium. -/
def State.locAddr (s : State) (l : Nat) : Option CwAddr :=
  match Table.find s.ftl.superblocks (locSb l) with
  | some x =>
    match x.members[locMember l]? with
    | some (d, b) => some ⟨d, b, l / 16 % 4096, l / 4 % 4, l % 4⟩
    | none => none
  | none => none

/-- The key of a map entry. -/
def mapKey (space lua : Nat) : Nat := space * 2 ^ 40 + lua

def State.space (s : State) (n : Nat) : Option Space :=
  match Table.find s.ftl.spaces n with
  | some x => if x.walking then none else some x
  | none => none

/-- What the map gives for a unit; `none`: unmapped. Space 0 names map pages (R323, R327). -/
def State.lookup (s : State) (space lua : Nat) : Option Nat :=
  if space = 0 then Table.find s.ftl.directory lua else Table.find s.ftl.map (mapKey space lua)

/-- The map page of a unit (R323). -/
def State.mapPageOf (s : State) (space lua : Nat) : Nat :=
  match Table.find s.ftl.spaces space with
  | some x => x.mapBase + lua / 819
  | none => 0

/-- A map entry changed: the cached page carries the change (R324). -/
def State.setMap (s : State) (space lua : Nat) (v : Option Nat) : State :=
  if space = 0 then
    { s with ftl := { s.ftl with directory := match v with
      | some l => Table.put s.ftl.directory lua l
      | none => Table.drop s.ftl.directory lua } }
  else
    let page := s.mapPageOf space lua
    { s with ftl := { s.ftl with
      map := match v with
        | some l => Table.put s.ftl.map (mapKey space lua) l
        | none => Table.drop s.ftl.map (mapKey space lua)
      cached := Table.put s.ftl.cached page true } }

/-- The register's count of spaces (R353). -/
def State.countSpaces (s : State) : State :=
  s.setFld FTL_STATE_SPACES (min 4095 (s.ftl.spaces.filter (fun e => !e.2.walking)).length)

/-! ## Records (R326 to R328) -/

def recMap : Nat := 1
def recMove : Nat := 2
def recTrim : Nat := 3
def recSbOpen : Nat := 4
def recSbMember : Nat := 5
def recSbClose : Nat := 6
def recSbFree : Nat := 7
def recSpace : Nat := 8

/-- Journal numbers of the streams (R327). -/
def WriteStream.code : WriteStream → Nat
  | .userData => 0
  | .reclaim => 1
  | .metadata => 2

def WriteStream.ofCode : Nat → WriteStream
  | 0 => .userData
  | 1 => .reclaim
  | _ => .metadata

/-- Unmap `n` units from `lua` on. -/
def State.unmap (s : State) (space lua n : Nat) : State :=
  let hit := (s.ftl.map.filter (fun e => decide (mapKey space lua ≤ e.1) && decide (e.1 < mapKey space lua + n))).map (·.1)
  hit.foldl (fun s k => s.setMap space (k - mapKey space 0) none) s

/-- The effect of a record on the tables (R327); replay applies it again. -/
def State.applyRecord (s : State) (r : JRecord) : State :=
  if r.typ = recMap then s.setMap r.space r.a (some r.b)
  else if r.typ = recMove then (if s.lookup r.space r.a = some r.c then s.setMap r.space r.a (some r.b) else s)
  else if r.typ = recTrim then s.unmap r.space r.a r.count
  else if r.typ = recSbOpen then
    if (Table.find s.ftl.superblocks r.a).isSome then s
    else s.setSuperblock r.a ⟨[], WriteStream.ofCode r.count, r.b, false, false, false⟩
  else if r.typ = recSbMember then
    match Table.find s.ftl.superblocks r.a with
    | some x =>
      let e := (r.b / 65536 % 1024, r.b % 65536)
      s.setSuperblock r.a { x with members := if r.count < x.members.length then x.members.set r.count e else x.members ++ [e] }
    | none => s
  else if r.typ = recSbClose then
    match Table.find s.ftl.superblocks r.a with
    | some x => s.setSuperblock r.a { x with closed := true }
    | none => s
  else if r.typ = recSbFree then { s with ftl := { s.ftl with superblocks := Table.drop s.ftl.superblocks r.a } }
  else if r.typ = recSpace then
    let t := s.ftl.spaces
    let t := if r.count = 1 then
        Table.put t r.space ⟨(Table.find t r.space).elim 1 (·.typ), r.a, r.b, r.c, false, 0, 0⟩
      else match Table.find t r.space with
        | some x => Table.put t r.space { x with walking := true }
        | none => t
    ({ s with ftl := { s.ftl with spaces := t } }).countSpaces
  else s

/-- Bytes of records that are not durable (R326). -/
def Ftl.dirty (f : Ftl) : Nat := 32 * f.journal.length

/-- LIMIT_EFF in bytes (R328). -/
def State.limitEff (s : State) : Nat := s.fld FTL_JNL_CFG_LIMIT_EFF * 65536

/-- Records appended and durable. -/
def Ftl.durable (f : Ftl) : Nat := f.appended - f.journal.length

/-- The count of appends by which every record asked for so far is in. -/
def Ftl.asked (f : Ftl) : Nat := f.appended + f.waiting.length

/-- `FTL_JNL_STAT` (R353). -/
def State.showJournal (s : State) : State :=
  (s.setFld FTL_JNL_STAT_DIRTY_KIB (ceilDiv s.ftl.dirty 1024)).setFld FTL_JNL_STAT_FLASH_MIB (min 0xFFFF (s.ftl.flashed / 1048576))

/-- One unit of a writer is on record; the last one completes the WRITE (R331). -/
def State.unitDone (s : State) (w : Option Nat) : State :=
  match w.bind (fun id => s.ftl.writers.find? (fun x => x.id == id)) with
  | some x =>
    if x.left ≤ 1 then
      let s := { s with ftl := { s.ftl with writers := s.ftl.writers.filter (fun y => y.id != x.id) } }
      s.answer x.asker stOK 0
    else
      { s with ftl := { s.ftl with writers := s.ftl.writers.map (fun y => if y.id = x.id then { y with left := y.left - 1 } else y) } }
  | none => s

/-- Append a record to the journal buffer and apply it (R324, R326). -/
def State.appendNow (s : State) (r : JRecord) (w : Option Nat) : State :=
  let f := s.ftl
  let s := { s with ftl := { f with
    journal := f.journal ++ [r], appended := f.appended + 1
    journalSince := if f.journal.isEmpty then s.gtc else f.journalSince } }
  ((s.applyRecord r).showJournal).unitDone w

/-- The append fits under LIMIT_EFF (R328). -/
def State.appendFits (s : State) : Bool := decide (s.ftl.dirty + 32 ≤ s.limitEff)

/-- Append a record, or let it wait its turn (R328). No append follows the safe state (R352). -/
def State.append (s : State) (r : JRecord) (w : Option Nat := none) : State :=
  if s.flag FLT_STATUS_SAFE then s
  else if s.ftl.waiting.isEmpty && s.appendFits then s.appendNow r w
  else { s with ftl := { s.ftl with waiting := s.ftl.waiting ++ [(r, w)] } }

/-- Waiting appends follow as room appears. -/
def State.drainWaiting (s : State) : Nat → State
  | 0 => s
  | k + 1 =>
    match s.ftl.waiting with
    | [] => s
    | (r, w) :: rest =>
      if s.appendFits then
        (({ s with ftl := { s.ftl with waiting := rest } }).appendNow r w).drainWaiting k
      else s

/-! ## Superblocks and streams (R297, R330, R332) -/

/-- Free superblocks (R340). -/
def State.freeSbs (s : State) : Nat := s.fld FTL_SB_FREE_FREE

/-- Blocks in use by a superblock. -/
def State.blockTaken (s : State) (d b : Nat) : Bool := (s.superblockOf d b).isSome

/-- The lowest free block of a die. -/
def State.freeBlock (s : State) (d : Nat) : Option Nat :=
  match s.die d with
  | some x =>
    if x.state ≠ .inUse then none
    else (List.range x.ident.blocks).find? (fun b => !s.blockRetired d b && !s.blockTaken d b)
  | none => none

/-- On a channel, the next usable die in rotation that has a free block (R297). -/
def State.nextMember (s : State) (ch : Nat) : Option (Nat × Nat) :=
  let r := Table.at 0 s.flash.rotation ch
  let dies := (List.range 32).map (fun i => ch * 32 + (r + i) % 32)
  dies.findSome? (fun d => (s.freeBlock d).map (fun b => (d, b)))

/-- A superblock number not in use. -/
def State.newSbNumber (s : State) : Nat :=
  ((List.range (s.ftl.superblocks.length + 1)).find? (fun n => (Table.find s.ftl.superblocks n).isNone)).getD 0

/-- Open a superblock for a stream (R297, R307, R330): its records are appended, and nothing is programmed until they are
durable. -/
def State.openSuperblock (s : State) (st : WriteStream) : Option Nat × State :=
  let members := s.usableChannels.filterMap s.nextMember
  if s.usableChannels.length < s.channelFloor || members.length < 2 || s.freeSbs = 0 then (none, s)
  else
    let n := s.newSbNumber
    let seq := s.ftl.nextSeq
    let rot := members.foldl (fun t m => Table.write 0 t (m.1 / 32) ((m.1 + 1) % 32)) s.flash.rotation
    let s := { s with flash := { s.flash with rotation := rot } }
    let s := s.setFld FTL_SB_FREE_FREE (s.freeSbs - 1)
    let s := s.setSuperblock n ⟨members, st, seq, false, false, false⟩
    let s := s.append ⟨recSbOpen, 0, st.code, n, seq, 0⟩
    let s := members.zipIdx.foldl (fun s e => s.append ⟨recSbMember, 0, e.2, n, e.1.1 * 65536 + e.1.2, 0⟩) s
    let s := { s with ftl := { s.ftl with
      opening := Table.put s.ftl.opening n s.ftl.asked, nextSb := max s.ftl.nextSb (n + 1) } }
    (some n, s)

/-- The records of a superblock's opening are durable (R330, R345). -/
def State.sbReady (s : State) (n : Nat) : Bool := decide (Table.at 0 s.ftl.opening n ≤ s.ftl.durable)

def State.stream (s : State) (st : WriteStream) : OpenStream := if st = .reclaim then s.ftl.gcStream else s.ftl.user
def State.setStream (s : State) (st : WriteStream) (o : OpenStream) : State :=
  { s with ftl := if st = .reclaim then { s.ftl with gcStream := o } else { s.ftl with user := o } }

/-- Pages per block of the population. -/
def State.pagesPer (s : State) : Nat := (s.reference.map (·.pages)).getD 0

/-- Units of one round of a superblock with `w` members: 16 stripes of w − 1 data pages (R298). -/
def roundUnits (w : Nat) : Nat := 16 * (w - 1) * 4

/-- The location of position `i` of a round: stripe by stripe, so that later units go into later stripes (R330). -/
def roundLoc (n w round i : Nat) : Nat :=
  let per := (w - 1) * 4
  let j := i / per
  let page := 4 * round + j / 4
  let k := i % per / 4
  let pm := parityMember n (stripeNumber page (j % 4)) w
  packLoc n (if k < pm then k else k + 1) page (j % 4) (i % 4)

/-- Put waiting units into the round (R332); two units of one LUA never share a stripe (R294). A full round is programmed. -/
def State.fillRound (s : State) (st : WriteStream) : Nat → State
  | 0 => s
  | k + 1 =>
    let o := s.stream st
    if o.programming then s
    else match o.queue, o.sb with
      | [], _ => s
      | u :: rest, some n =>
        let w := ((Table.find s.ftl.superblocks n).map (·.members.length)).getD 0
        let per := (w - 1) * 4
        let stripe := o.fill / per
        let clash := o.units.any (fun v => v.space == u.space && v.lua == u.lua
          && v.placed.any (fun l => ((l / 16 % 4096 - 4 * o.round) * 4 + l / 4 % 4) == stripe))
        let i := if clash then (stripe + 1) * per else o.fill
        if i ≥ roundUnits w then (s.setStream st { o with programming := true })
        else
          let o := { o with
            queue := rest, units := o.units ++ [{ u with placed := some (roundLoc n w o.round i) }], fill := i + 1
            oldest := if o.units.isEmpty then s.gtc else o.oldest }
          let o := { o with programming := o.fill == roundUnits w }
          (s.setStream st o).fillRound st k
      | _ :: _, none =>
        match s.openSuperblock st with
        | (some n, s) =>
          let o := s.stream st
          ({ s with ftl := { s.ftl with nextSeq := s.ftl.nextSeq + 16 } }.setStream st
            { o with sb := some n, round := 0, fill := 0, seqBase := s.ftl.nextSeq }).fillRound st k
        | (none, s) => s

/-- Fill a stream's round with all that waits. -/
def State.fill (s : State) (st : WriteStream) : State := s.fillRound st ((s.stream st).queue.length + 2)

/-- The data of a filler unit, which nothing reads (R293 KIND 6). -/
def fillerData : List Byte := (List.range 4096).map Config.fillerByte

/-- The codeword at a position of the round: a unit or filler. -/
def roundWord (o : OpenStream) (loc : Nat) : Codeword :=
  let j := (loc / 16 % 4096 - 4 * o.round) * 4 + loc / 4 % 4
  match o.units.find? (fun u => u.placed == some loc) with
  | some u => ⟨u.data, oobBytes u.data u.lua kindUser u.space (o.seqBase + j), []⟩
  | none => ⟨fillerData, oobBytes fillerData 0 kindFiller 0 (o.seqBase + j), []⟩

/-- The parity codeword over the data codewords of a stripe, with every member included (R296, R299). -/
def parityWord (words : List Codeword) (members seq : Nat) : Codeword :=
  let data := words.foldl (fun acc q => xorBytes acc q.data) (List.replicate 4096 0)
  ⟨data, oobBytes data members kindParity 0 seq, words.foldl (fun acc q => xorBytes acc q.oob) (List.replicate 16 0)⟩

/-- The 64 codewords of member `m`'s wordline in a round (R298). -/
def wordline (n w : Nat) (o : OpenStream) (m : Nat) : List (Nat × Codeword) :=
  (List.range 16).flatMap (fun j =>
    let page := 4 * o.round + j / 4
    let plane := j % 4
    let pm := parityMember n (stripeNumber page plane) w
    (List.range 4).map (fun cw =>
      (packLoc n m page plane cw,
        if m = pm then
          parityWord (((List.range w).filter (· != pm)).map (fun i => roundWord o (packLoc n i page plane cw)))
            (2 ^ w - 1) (o.seqBase + j)
        else roundWord o (packLoc n m page plane cw))))

/-- Codewords programmed at their places, whose cells are good again. -/
def State.programWords (s : State) (ws : List (Nat × Codeword)) : State :=
  ws.foldl (fun s e =>
    match s.locAddr e.1 with
    | some a => { s with flash := { s.flash with
        nand := Table.put s.flash.nand a.key e.2, health := Table.drop s.flash.health a.key } }
    | none => s) s

/-- A unit is reported programmed: its record is appended (R331, R342). -/
def State.reportUnit (s : State) (st : WriteStream) (u : WriteUnit) : State :=
  match u.placed, st with
  | some l, .reclaim =>
    (s.count unitFTL 2 1).append ⟨recMove, u.space, 0, u.lua, l, u.source.getD 0⟩ none
  | some l, _ =>
    let fabric := (u.writer.bind (fun id => s.ftl.writers.find? (fun x => x.id == id))).any (·.fabric)
    (s.count unitFTL fabric.toNat 1).append ⟨recMap, u.space, 0, u.lua, l, 0⟩ u.writer
  | none, _ => s

/-- A location's page counts as programmed: its own wordline and its stripe's parity are done (R298). -/
def reportable (n w : Nat) (done : List Nat) (l : Nat) : Bool :=
  done.contains (locMember l) && done.contains (parityMember n (stripeNumber (l / 16 % 4096) (l / 4 % 4)) w)

/-- Close a superblock once it is full: SB_CLOSE follows when its records are durable (R327). -/
def State.closeSb (s : State) (n : Nat) : State :=
  { s with ftl := { s.ftl with closing := s.ftl.closing ++ [(n, s.ftl.asked)] } }

/-- The round has ended: the next one begins, or the superblock closes. -/
def State.endRound (s : State) (st : WriteStream) : State :=
  let o := s.stream st
  match o.sb with
  | none => s
  | some n =>
    let full := decide (s.pagesPer ≤ 4 * (o.round + 1))
    let o := { o with
      units := [], fill := 0, programming := false, done := [], round := o.round + 1, seqBase := s.ftl.nextSeq
      sb := if full then none else o.sb }
    let s := { s with ftl := { s.ftl with nextSeq := s.ftl.nextSeq + 16 } }.setStream st o
    let s := if full then s.closeSb n else s
    s.fill st

/-- PROGRAM_DONE: a wordline program of member `m` ends (R298, R308, R333, R344). -/
def execProgramDone (gcStream : Bool) (m : BitVec 5) (ok : Bool) (s : State) : Res :=
  let st : WriteStream := if gcStream then .reclaim else .userData
  let o := s.stream st
  let i := m.toNat
  .next (match o.sb with
    | none => s
    | some n =>
      match Table.find s.ftl.superblocks n with
      | none => s
      | some x =>
        let w := x.members.length
        match x.members[i]? with
        | none => s
        | some (d, b) =>
          if !s.flashStarts || !o.programming || o.done.contains i || !s.sbReady n || bitAt (s.reg FLS_CHAN_STATE) (d / 32) then s
          else if ok then
            let s := (s.programWords (wordline n w o i)).count unitFLS 4 16
            let o := { o with done := o.done ++ [i] }
            let ready := o.units.filter (fun u => !u.reported && u.placed.any (reportable n w o.done))
            let o := { o with units := o.units.map (fun u =>
              if u.placed.any (reportable n w o.done) then { u with reported := true } else u) }
            let s := ready.foldl (fun s u => s.reportUnit st u) (s.setStream st o)
            if o.done.length = w then s.endRound st else s
          else
            let hurt (u : WriteUnit) : Bool := u.placed.any (fun l => !u.reported
              && (locMember l == i || parityMember n (stripeNumber (l / 16 % 4096) (l / 4 % 4)) w == i))
            let again := (o.units.filter hurt).map (fun u => { u with placed := none })
            let o := { o with units := o.units.filter (fun u => !hurt u), queue := again ++ o.queue, done := o.done ++ [i] }
            let s := (s.setStream st o).errAdd FLS_ERR_CNT1_PROG_FAIL 1
            let s := s.errAdd (if gcStream then FTL_ERR_CNT1_GC_TARGET_FAIL else FTL_ERR_CNT1_WRITE_PROG_FAIL) 1
            let s := if gcStream then
                match s.ftl.gc with
                | some g =>
                  let moved := (s.ftl.map.filter (fun e => locSb e.2 == n && locMember e.2 == i)).map (·.2)
                  { s with ftl := { s.ftl with gc := some { g with left := g.left ++ moved } } }
                | none => s
              else s
            let s := s.retireBlock d b
            if o.done.length = w then s.endRound st else s)

/-- FILL_TIMER: FILL_US after its oldest unit was buffered, a USER round is padded and programmed (R332). -/
def execFillTimer (s : State) : Res :=
  let o := s.ftl.user
  let fill := zeroActsAsOne (s.fld FTL_WRITE_CFG_FILL_US) * 1000
  .next (if s.flashRuns && !o.programming && !o.units.isEmpty && decide (o.oldest.toNat + fill ≤ s.gtc.toNat) then
      s.setStream .userData { o with programming := true }
    else s)

/-! ## The META stream: journal pages and map pages (R327, R330) -/

/-- Stripes of a META superblock. -/
def State.stripesPer (s : State) : Nat := s.pagesPer * 4

/-- The next META superblock is opened before the current one is full, so that its records become durable there (R330). -/
def State.prepareMeta (s : State) : State :=
  if s.ftl.metaNext.isNone && decide (s.stripesPer ≤ s.ftl.metaStripe + 16) then
    match s.openSuperblock .metadata with
    | (some n, s) => { s with ftl := { s.ftl with metaNext := some n } }
    | (none, s) => s
  else s

/-- The META stream moves past a stripe, and into the next superblock at the end of this one. -/
def State.advanceMeta (s : State) : State :=
  let stripe := s.ftl.metaStripe + 1
  if s.stripesPer ≤ stripe then
    let s := match s.ftl.metaSb with
      | some n => s.closeSb n
      | none => s
    { s with ftl := { s.ftl with metaSb := s.ftl.metaNext, metaNext := none, metaStripe := 0, nextSeq := s.ftl.nextSeq + 1 } }
  else { s with ftl := { s.ftl with metaStripe := stripe, nextSeq := s.ftl.nextSeq + 1 } }

/-- Program one META unit in a stripe of its own, closed by R299. Answers its location. -/
def State.metaWrite (s : State) (kind space lua : Nat) (data : List Byte) (ok : Bool) : Option Nat × State :=
  match s.ftl.metaSb with
  | none => (none, s)
  | some n =>
    match Table.find s.ftl.superblocks n with
    | none => (none, s)
    | some x =>
      let w := x.members.length
      let p := s.ftl.metaStripe
      let pm := parityMember n p w
      let m := if pm = 0 then 1 else 0
      let seq := s.ftl.nextSeq
      if !ok then
        let e := x.members.getD m (0, 0)
        (none, ((s.errAdd FLS_ERR_CNT1_PROG_FAIL 1).retireBlock e.1 e.2).advanceMeta)
      else
        let unit : Codeword := ⟨data, oobBytes data lua kind space seq, []⟩
        let filler : Codeword := ⟨fillerData, oobBytes fillerData 0 kindFiller 0 seq, []⟩
        let words := (List.range 4).flatMap (fun cw =>
          let u := if cw = 0 then unit else filler
          [(packLoc n m (p / 4) (p % 4) cw, u), (packLoc n pm (p / 4) (p % 4) cw, parityWord [u] (2 ^ m) seq)])
        let s := (s.programWords words).count unitFLS 4 2
        (some (packLoc n m (p / 4) (p % 4) 0), s.advanceMeta.prepareMeta)

/-- A record's 32 bytes (R327). -/
def JRecord.bytes (r : JRecord) : List Byte :=
  leBytes 1 r.typ ++ zeros 1 ++ leBytes 2 r.space ++ leBytes 4 r.count ++ leBytes 8 r.a ++ leBytes 8 r.b ++ leBytes 8 r.c

/-- A journal page (R327). -/
def journalPage (jseq start : Nat) (rs : List JRecord) : List Byte :=
  fitBytes 4096 (leBytes 4 0x4C4E4A4B ++ leBytes 2 1 ++ leBytes 2 rs.length ++ leBytes 8 jseq ++ leBytes 8 start ++ zeros 40
    ++ rs.flatMap JRecord.bytes)

/-- FREE_LOW and FREE_MIN as they act (R353). -/
def State.freeLow (s : State) : Nat := max 8 (s.fld FTL_GC_CFG_FREE_LOW)
def State.freeMin (s : State) : Nat := min (s.freeLow - 1) (max 4 (s.fld FTL_GC_CFG_FREE_MIN))

/-- One freed superblock counts in FREE; a victim without valid units fills the credits (R340), and foreground GC ends at
FREE_LOW + 4. -/
def State.countFree (s : State) (v0 : Bool) : State :=
  let s := s.setFld FTL_SB_FREE_FREE (s.freeSbs + 1)
  let s := if v0 then { s with ftl := { s.ftl with credits := 65536 * 65536 } } else s
  if s.freeLow + 4 ≤ s.freeSbs then s.setFlag FTL_GC_STAT_FG false else s

/-- What follows once earlier records are durable: SYNCs complete, full superblocks close, freed ones count in FREE, and waiting
appends go in (R327, R328, R340, R342, R350). -/
def State.settleDurable (s : State) : State :=
  let d := s.ftl.durable
  let ready := s.ftl.syncs.filter (fun y => decide (y.upto ≤ d))
  let s := { s with ftl := { s.ftl with syncs := s.ftl.syncs.filter (fun y => decide (d < y.upto)) } }
  let s := ready.foldl (fun s y => s.answer y.asker stOK 0) s
  let shut := s.ftl.closing.filter (fun e => decide (e.2 ≤ d))
  let s := { s with ftl := { s.ftl with closing := s.ftl.closing.filter (fun e => decide (d < e.2)) } }
  let s := shut.foldl (fun s e => s.append ⟨recSbClose, 0, 0, e.1, 0, 0⟩) s
  let freed := s.ftl.freeing.filter (fun e => decide (e.2.1 ≤ d))
  let s := { s with ftl := { s.ftl with freeing := s.ftl.freeing.filter (fun e => decide (d < e.2.1)) } }
  let s := freed.foldl (fun s e => s.countFree e.2.2) s
  s.drainWaiting s.ftl.waiting.length

/-- Program a journal page of the oldest records. -/
def State.programJournal (s : State) (ok : Bool) : State :=
  let rs := s.ftl.journal.take 126
  let (loc, s) := s.metaWrite kindJournal 0 (s.ftl.jseq % 2 ^ 40) (journalPage s.ftl.jseq s.ftl.start rs) ok
  match loc with
  | none => s
  | some _ =>
    let s := { s with ftl := { s.ftl with
      journal := s.ftl.journal.drop rs.length, jseq := s.ftl.jseq + 1, flashed := s.ftl.flashed + 4096, journalSince := s.gtc } }
    ((s.count unitFTL 3 1).settleDurable).showJournal

/-- JOURNAL_PAGE_PROGRAM: a journal page is programmed once 126 records wait or FILL_US has passed since the first (R328). -/
def execJournalPageProgram (ok : Bool) (s : State) : Res :=
  let fill := zeroActsAsOne (s.fld FTL_WRITE_CFG_FILL_US) * 1000
  let due := decide (126 ≤ s.ftl.journal.length)
    || (!s.ftl.journal.isEmpty && decide (s.ftl.journalSince.toNat + fill ≤ s.gtc.toNat))
  .next (if s.flashStarts && due then s.programJournal ok else s)

/-! ## The map cache (R323, R324) -/

/-- Map pages the cache can hold. -/
def State.cachePages (s : State) : Nat := zeroActsAsOne (s.fld FTL_MAPC_CFG_GIB) * 262144

/-- A map page's content now (R323). -/
def State.mapPageBytes (s : State) (page : Nat) : List Byte :=
  match s.ftl.spaces.find? (fun e => decide (e.2.mapBase ≤ page) && decide (page < e.2.mapBase + ceilDiv e.2.units 819)) with
  | some (n, x) =>
    (List.range 819).flatMap (fun i =>
      leBytes 5 ((s.lookup n ((page - x.mapBase) * 819 + i)).getD 0xFFFFFFFFFF)) ++ zeros 1
  | none => List.replicate 4096 0xFF

/-- Bring a map page into the cache, a clean page leaving where it is full. -/
def State.cachePage (s : State) (page : Nat) : State :=
  if (Table.find s.ftl.cached page).isSome then s
  else
    let t := s.ftl.cached
    let t := if decide (s.cachePages ≤ t.length) then
        match t.find? (fun e => !e.2) with
        | some e => Table.drop t e.1
        | none => t
      else t
    { s with ftl := { s.ftl with cached := Table.put t page false } }

/-- A use of the map page of a unit: a hit, or a miss that reads the page (R324). -/
def State.touchMap (s : State) (space lua : Nat) : State :=
  let page := s.mapPageOf space lua
  if (Table.find s.ftl.cached page).isSome then s.count unitFTL 5 1
  else ((s.count unitFTL 6 1).cachePage page)

/-- MAP_PAGE_READ: a map-cache miss reads the map page (R324). -/
def execMapPageRead (page : Nat) (s : State) : Res :=
  .next (if s.flashRuns && (Table.find s.ftl.cached page).isNone && (Table.find s.ftl.directory page).isSome then
      ((s.count unitFTL 6 1).count unitFLS 0 1).cachePage page
    else s)

/-- Write back a changed map page: its new location is recorded in space 0 (R324, R327). -/
def State.writeBack (s : State) (page : Nat) (ok : Bool) : State :=
  let (loc, s) := s.metaWrite kindMap 0 page (s.mapPageBytes page) ok
  match loc with
  | some l =>
    let s := (s.count unitFTL 4 1).append ⟨recMap, 0, 0, page, l, 0⟩
    { s with ftl := { s.ftl with cached := Table.put s.ftl.cached page false } }
  | none => s

/-- MAP_WRITEBACK: a changed cached map page is written back before eviction (R324). -/
def execMapWriteback (page : Nat) (ok : Bool) (s : State) : Res :=
  .next (if s.flashStarts && Table.find s.ftl.cached page == some true then s.writeBack page ok else s)

/-! ## Reads (R325, R350) -/

/-- The engine serves data: mounted, or mounted read-only. -/
def State.mounted (s : State) : Bool := s.fld FTL_STATE_STATE == 2 || s.fld FTL_STATE_STATE == 3

/-- Data opcodes wait during RECOVERING (R349). -/
def State.recovering (s : State) : Bool := s.fld FTL_STATE_STATE == 1

/-- A unit's bytes; zeros where it is unmapped, `none` where it is unreadable or fails the check of R325. -/
def State.readUnit (s : State) (space lua : Nat) : Option (List Byte) × State :=
  let s := s.touchMap space lua
  match s.lookup space lua, s.space space with
  | some l, some sp =>
    match s.locAddr l with
    | none => (none, s.errAdd FTL_ERR_CNT_UNREADABLE 1)
    | some a =>
      let (r, s) := s.readCodeword a
      match r.word with
      | some w =>
        if w.kind = kindUser && w.space = space && w.lua = lua && decide (sp.createdSeq ≤ w.seq) then (some w.data, s)
        else (none, (s.errAdd FTL_ERR_CNT_OOB_MISMATCH 1).errAdd FTL_ERR_CNT_UNREADABLE 1)
      | none => (none, s.errAdd FTL_ERR_CNT_UNREADABLE 1)
  | _, _ => (some (zeros 4096), s)

/-- `n` units read in order. -/
def State.readRun (s : State) (space lua n : Nat) : List (Option (List Byte)) × State :=
  (List.range n).foldl (fun acc i =>
    let (u, s) := acc.2.readUnit space (lua + i)
    (acc.1 ++ [u], s)) (([] : List (Option (List Byte))), s)

/-- Some unit of a run cannot be read until a channel returns (R313). -/
def State.runWaits (s : State) (space lua n : Nat) : Bool :=
  (List.range n).any (fun i => ((s.lookup space (lua + i)).bind s.locAddr).any s.readWaits)

/-- COUNT, whose 0 acts as 1 (R350). -/
def unitCount (x : Taken) : Nat := zeroActsAsOne (x.fieldAt 0x14 4)

/-- A check of R351 that every data opcode makes; `none`: it may go on. -/
def State.spaceCheck (s : State) (space lua n : Nat) (writes : Bool) : Option Nat :=
  if !s.mounted then some stNOT_MOUNTED
  else match s.space space with
    | none => some stNO_SPACE
    | some sp =>
      if space = 0 then some stNO_SPACE
      else if sp.units < lua + n then some stRANGE
      else if writes && s.fld FTL_STATE_STATE = 3 then some stREAD_ONLY
      else none

/-- A ring of OWNER_PRIV S or M. -/
def State.ringPriv (s : State) (x : Taken) : BitVec 2 := (s.ring x.cls x.ring).ownerPriv

/-- READ (R350, R351): unmapped units read as zeros; the bytes of an unreadable unit are unspecified. -/
def execRead (c : CoreId) (t : Ticket) (s : State) : Res :=
  .next (match s.running c t 0 0x01 with
    | none => s
    | some x =>
      let space := x.fieldAt 0x10 2
      let n := unitCount x
      let lua := x.fieldAt 0x18 5
      if !s.engineRuns 0 || s.recovering then s
      else if s.ringPriv x = privU then s.finish x stNOT_PRIV 0 []
      else if n > 65536 then s.finish x stRANGE 0 []
      else match s.spaceCheck space lua n false with
        | some code => s.finish x code 0 []
        | none =>
          if s.runWaits space lua n then s
          else
            let (us, s) := s.readRun space lua n
            let (draw, s) := s.freshFree
            let bytes := us.zipIdx.flatMap (fun e => e.1.getD ((List.range 4096).map (fun i => Config.rawByte draw (e.2 * 4096 + i))))
            let s := s.engineWrite 0 (x.fieldAt 0x20 8) bytes
            let s := { s with ftl := { s.ftl with lastWork := s.gtc } }
            match us.findIdx? (fun u => u.isNone) with
            | some i => s.finish x stUNREADABLE (min 0xFFFF i) [(x.fieldAt 0x20 8, bytes.length)]
            | none => s.finish x stOK 0 [(x.fieldAt 0x20 8, bytes.length)])

/-! ## Writes (R331 to R336, R340, R341) -/

/-- One unit may enter the write buffer now (R340, R341). -/
def State.unitAdmitted (s : State) : Bool :=
  decide (s.freeMin < s.freeSbs) && (!s.flag FTL_GC_STAT_FG || decide (65536 ≤ s.ftl.credits))

/-- `FTL_CREDIT` (R353). -/
def State.showCredits (s : State) : State := s.setFld FTL_CREDIT_CREDITS (min 65536 (s.ftl.credits / 65536))

/-- Units enter the write buffer in arrival order, each for one credit while foreground GC runs. -/
def State.admitUnits (s : State) : Nat → State
  | 0 => s
  | k + 1 =>
    match s.ftl.entry with
    | [] => s
    | u :: rest =>
      if s.unitAdmitted then
        let paid := if s.flag FTL_GC_STAT_FG then s.ftl.credits - 65536 else s.ftl.credits
        ({ s with ftl := { s.ftl with
          entry := rest, credits := paid, user := { s.ftl.user with queue := s.ftl.user.queue ++ [u] } } }).admitUnits k
      else s

/-- Admit what can be admitted, and fill the USER round. -/
def State.pumpWrites (s : State) : State := ((s.admitUnits s.ftl.entry.length).showCredits).fill .userData

/-- Begin a WRITE of units for an asker. -/
def State.beginWrite (s : State) (a : Asker) (space lua : Nat) (units : List (List Byte)) (fabric : Bool) : State :=
  let id := s.ftl.nextWriter
  let us : List WriteUnit := units.zipIdx.map (fun e =>
    { space := space, lua := lua + e.2, data := e.1, source := none, writer := some id, placed := none, reported := false })
  let f := s.ftl
  State.pumpWrites { s with ftl := { f with
    writers := f.writers ++ [⟨id, a, units.length, fabric⟩], nextWriter := id + 1, entry := f.entry ++ us, lastWork := s.gtc } }

/-- A dataset volume that open fetch streams hold (R126). -/
def State.spaceHeld (s : State) (space : Nat) : Bool := s.fetch.streams.any (fun e => e.2.volume.space == space && !e.2.closed)

/-- The WRITE of an asker is under way. -/
def State.writing (s : State) (a : Asker) : Bool := s.ftl.writers.any (fun w => w.asker == a)

/-- WRITE (R331, R336, R350): it completes once every unit is programmed and on record. -/
def execWrite (c : CoreId) (t : Ticket) (s : State) : Res :=
  .next (match s.running c t 0 0x02 with
    | none => s
    | some x =>
      let space := x.fieldAt 0x10 2
      let zero := x.fieldAt 0x12 1 % 2 == 1
      let n := unitCount x
      let lua := x.fieldAt 0x18 5
      let buf := x.fieldAt 0x20 8
      if !s.engineRuns 0 || s.recovering || s.writing (.desc c t) then s
      else if s.ringPriv x = privU then s.finish x stNOT_PRIV 0 []
      else if n > 65536 then s.finish x stRANGE 0 []
      else match s.spaceCheck space lua n true with
        | some code => s.finish x code 0 []
        | none =>
          if s.spaceHeld space then s
          else
            let s := if zero then s else s.engineAccess 0 false buf (n * 4096)
            let units := (List.range n).map (fun i => if zero then zeros 4096 else s.dramBytes (buf + i * 4096) 4096)
            s.beginWrite (.desc c t) space lua units false)

/-- Begin a record that an asker waits for. -/
def State.recordFor (s : State) (a : Asker) (rs : List JRecord) : State :=
  let id := s.ftl.nextWriter
  let s := { s with ftl := { s.ftl with writers := s.ftl.writers ++ [⟨id, a, rs.length, false⟩], nextWriter := id + 1 } }
  rs.foldl (fun s r => s.append r (some id)) s

/-- Apply a TRIM to the runs of units the engine chooses, which come with the command (R335). -/
def State.trimRuns (s : State) (a : Asker) (space lua n : Nat) (runs : List (Nat × Nat)) : State :=
  let inside := runs.filterMap (fun e =>
    let k := min e.2 (n - e.1)
    if e.1 < n ∧ 0 < k then some (⟨recTrim, space, k, lua + e.1, 0, 0⟩ : JRecord) else none)
  let s := s.count unitFTL 7 (inside.foldl (fun m r => m + r.count) 0)
  let s := { s with ftl := { s.ftl with lastWork := s.gtc } }
  if inside.isEmpty then s.answer a stOK 0 else s.recordFor a inside

/-- TRIM (R335, R350). -/
def execTrim (c : CoreId) (t : Ticket) (runs : List (Nat × Nat)) (s : State) : Res :=
  .next (match s.running c t 0 0x03 with
    | none => s
    | some x =>
      let space := x.fieldAt 0x10 2
      let n := unitCount x
      let lua := x.fieldAt 0x18 5
      if !s.engineRuns 0 || s.recovering || s.writing (.desc c t) then s
      else if s.ringPriv x = privU then s.finish x stNOT_PRIV 0 []
      else match s.spaceCheck space lua n true with
        | some code => s.finish x code 0 []
        | none => if s.spaceHeld space then s else s.trimRuns (.desc c t) space lua n runs)

/-! ## Spaces (R319 to R323, R337) -/

/-- UNITS of all spaces together. -/
def State.spaceUnits (s : State) : Nat := s.ftl.spaces.foldl (fun n e => n + if e.2.walking then 0 else e.2.units) 0

/-- Create a space for an asker. -/
def State.createSpace (s : State) (a : Asker) (space typ units : Nat) : State :=
  if !s.mounted then s.answer a stNOT_MOUNTED 0
  else if s.fld FTL_STATE_STATE = 3 then s.answer a stREAD_ONLY 0
  else if space = 0 || space > 4095 || !(typ == 1 || typ == 2) || units = 0 then s.answer a stBAD_SPACE 0
  else if (Table.find s.ftl.spaces space).isSome then s.answer a stSPACE_EXISTS 0
  else if s.userUnits < s.spaceUnits + units then s.answer a stNO_ROOM 0
  else
    let seq := s.ftl.nextSeq
    let base := s.ftl.nextMapPage
    let s := { s with ftl := { s.ftl with
      nextSeq := seq + 1, nextMapPage := base + ceilDiv units 819
      spaces := Table.put s.ftl.spaces space ⟨typ, units, seq, base, false, 0, 0⟩ } }
    s.countSpaces.recordFor a [⟨recSpace, space, 1, units, seq, base⟩]

/-- Delete a space for an asker. -/
def State.deleteSpace (s : State) (a : Asker) (space : Nat) : State :=
  if !s.mounted then s.answer a stNOT_MOUNTED 0
  else if space = 0 || space > 4095 then s.answer a stBAD_SPACE 0
  else if (s.space space).isNone then s.answer a stNO_SPACE 0
  else s.recordFor a [⟨recSpace, space, 0, 0, 0, 0⟩]

/-- SPACE_CREATE (R320, R323, R337, R350). -/
def execSpaceCreate (c : CoreId) (t : Ticket) (s : State) : Res :=
  .next (match s.running c t 0 0x04 with
    | none => s
    | some x =>
      if !s.engineRuns 0 || s.recovering || s.writing (.desc c t) then s
      else if s.ringPriv x ≠ privM then s.finish x stNOT_PRIV 0 []
      else s.createSpace (.desc c t) (x.fieldAt 0x10 2) (x.fieldAt 0x12 1) (x.fieldAt 0x18 5))

/-- SPACE_DELETE (R337, R350): a dataset volume with open fetch streams waits (R126). -/
def execSpaceDelete (c : CoreId) (t : Ticket) (s : State) : Res :=
  .next (match s.running c t 0 0x05 with
    | none => s
    | some x =>
      let space := x.fieldAt 0x10 2
      if !s.engineRuns 0 || s.recovering || s.writing (.desc c t) then s
      else if s.ringPriv x ≠ privM then s.finish x stNOT_PRIV 0 []
      else if s.spaceHeld space then s
      else s.deleteSpace (.desc c t) space)

/-- SPACE_WALK: the background walk of a deleted space ends; its units no longer count (R337). -/
def execSpaceWalk (space : BitVec 12) (s : State) : Res :=
  let n := space.toNat
  .next (match Table.find s.ftl.spaces n with
    | some x =>
      if x.walking && s.flashRuns then
        let inPages (p : Nat) : Bool := decide (x.mapBase ≤ p) && decide (p < x.mapBase + ceilDiv x.units 819)
        { s with ftl := { s.ftl with
          map := s.ftl.map.filter (fun e => e.1 / 2 ^ 40 != n)
          directory := s.ftl.directory.filter (fun e => !inPages e.1)
          cached := s.ftl.cached.filter (fun e => !inPages e.1)
          spaces := Table.drop s.ftl.spaces n } }
      else s
    | none => s)

/-- The count of appends that a SYNC of a space waits for: its last record that is not durable. -/
def Ftl.syncPoint (f : Ftl) (space : Nat) : Nat :=
  let last := f.journal.zipIdx.foldl (fun m e => if space = 0 ∨ e.1.space = space then e.2 + 1 else m) 0
  f.durable + last

/-- Begin a SYNC for an asker (R350). -/
def State.beginSync (s : State) (a : Asker) (space : Nat) : State :=
  let upto := s.ftl.syncPoint space
  if upto ≤ s.ftl.durable then s.answer a stOK 0
  else { s with ftl := { s.ftl with syncs := s.ftl.syncs ++ [⟨a, space, upto⟩] } }

/-- SYNC (R350). -/
def execSync (c : CoreId) (t : Ticket) (s : State) : Res :=
  .next (match s.running c t 0 0x06 with
    | none => s
    | some x =>
      let space := x.fieldAt 0x10 2
      if !s.engineRuns 0 || s.recovering || s.ftl.syncs.any (fun y => y.asker == .desc c t) then s
      else if s.ringPriv x = privU then s.finish x stNOT_PRIV 0 []
      else if !s.mounted then s.finish x stNOT_MOUNTED 0 []
      else if space ≠ 0 && (s.space space).isNone then s.finish x stNO_SPACE 0 []
      else s.beginSync (.desc c t) space)

end Sys2Proof.Machine
end

