-- ==== Sys2Proof/Machine/Reclaim.lean ====
section
/-!
DEFINITION. Reclamation (R338 to R344), die rebuild (R306), checkpoints (R329) and the mount (R347 to R349).
-/

namespace Sys2Proof.Machine

open Reg

/-! ## Victims (R338) -/

/-- Map entries that name a superblock, as (space, LUA, location). -/
def State.namedIn (s : State) (n : Nat) : List (Nat × Nat × Nat) :=
  s.ftl.map.filterMap (fun e => if locSb e.2 = n then some (e.1 / 2 ^ 40, e.1 % 2 ^ 40, e.2) else none)
    ++ s.ftl.directory.filterMap (fun e => if locSb e.2 = n then some (0, e.1, e.2) else none)

/-- Valid units of a superblock. -/
def State.validUnits (s : State) (n : Nat) : Nat := (s.namedIn n).length

/-- Journal pages of a superblock that recovery still needs (R329). -/
def State.holdsJournal (s : State) (x : Superblock) : Bool :=
  x.stream == .metadata && x.members.any (fun m => s.flash.nand.any (fun e =>
    e.1 / 65536 == blockKey m.1 m.2 && e.2.kind == kindJournal && decide (s.ftl.start % 2 ^ 40 ≤ e.2.lua)))

/-- A superblock that reclamation may choose: closed, and not needed by recovery. -/
def State.candidate (s : State) (e : Nat × Superblock) : Bool :=
  e.2.closed && !s.holdsJournal e.2 && !s.ftl.freeing.any (fun f => f.1 == e.1)

/-- The better of two victims with equal standing: fewer valid units, then the lower first SEQ. -/
def State.betterVictim (s : State) (a b : Nat × Superblock) : Nat × Superblock :=
  let va := s.validUnits a.1
  let vb := s.validUnits b.1
  if vb < va ∨ (vb = va ∧ b.2.firstSeq < a.2.firstSeq) then b else a

/-- The best of a list of candidates. -/
def State.bestVictim (s : State) (l : List (Nat × Superblock)) : Option (Nat × Superblock) :=
  match l with
  | [] => none
  | e :: es => some (es.foldl s.betterVictim e)

/-- The next victim in the order of R338. -/
def State.pickVictim (s : State) : Option (Nat × Superblock) :=
  let cs := s.ftl.superblocks.filter s.candidate
  match cs.find? (fun e => e.2.handed) with
  | some e => some e
  | none =>
    match cs.find? (fun e => e.2.refresh) with
    | some e => some e
    | none => s.bestVictim cs

/-- The cap of Q (R340). -/
def maxQuota : Nat := 0xFFFFFFFF

/-- Data units of a superblock. -/
def State.dataUnits (s : State) (x : Superblock) : Nat := s.unitsPer x.members.length

/-- Ascending order of locations. -/
def sortedLocs (l : List (Nat × Nat × Nat)) : List Nat := (l.map (fun e => e.2.2)).mergeSort (fun a b => decide (a ≤ b))

/-- Begin reclaiming a victim: the cursor is set, and foreground credit is fixed (R340, R342 step 1). -/
def State.beginGc (s : State) (n : Nat) (x : Superblock) (fg : Bool) : State :=
  let v := s.validUnits n
  let d := s.dataUnits x
  let q := if v = 0 then maxQuota else min (maxQuota) (65536 * (d - v) / v)
  let s := { s with ftl := { s.ftl with gc := some ⟨n, fg, sortedLocs (s.namedIn n), q, none⟩ } }
  let s := s.setFld FTL_GC_STAT_VICTIM n
  if fg then (s.setFlag FTL_GC_STAT_FG true).setFlag FTL_GC_STAT_BG false else s.setFlag FTL_GC_STAT_BG true

/-- BACKGROUND_GC: after IDLE_MS without work, a candidate with no more than BG_VALID % valid units is reclaimed (R339). -/
def execBackgroundGc (s : State) : Res :=
  let idle := s.fld FTL_GC_CFG_IDLE_MS
  let most := min 100 (s.fld FTL_GC_CFG_BG_VALID)
  .next (if !s.flashRuns || !s.mounted || idle = 0 || s.ftl.gc.isSome
      || decide (s.gtc.toNat < s.ftl.lastWork.toNat + idle * 10 ^ 6) then s
    else match s.pickVictim with
      | some (n, x) => if s.validUnits n * 100 ≤ most * s.dataUnits x then s.beginGc n x false else s
      | none => s)

/-- FOREGROUND_GC: FREE has fallen below FREE_LOW (R340). -/
def execForegroundGc (s : State) : Res :=
  let going := match s.ftl.gc with
    | some g => g.foreground
    | none => false
  .next (if !s.flashRuns || !s.mounted || going || (!s.flag FTL_GC_STAT_FG && decide (s.freeLow ≤ s.freeSbs)) then s
    else match s.ftl.gc with
      | some g =>
        match Table.find s.ftl.superblocks g.victim with
        | some x =>
          let v := s.validUnits g.victim
          let q := if v = 0 then maxQuota else min (maxQuota) (65536 * (s.dataUnits x - v) / v)
          let s := { s with ftl := { s.ftl with gc := some { g with foreground := true, quota := q } } }
          (s.setFlag FTL_GC_STAT_FG true).setFlag FTL_GC_STAT_BG false
        | none => s
      | none =>
        match s.pickVictim with
        | some (n, x) => s.beginGc n x true
        | none => s)

/-- Background GC stops at a wordline boundary once work has arrived (R339). -/
def State.gcHeld (s : State) (g : GcRun) : Bool :=
  !g.foreground && decide (s.gtc.toNat < s.ftl.lastWork.toNat + s.fld FTL_GC_CFG_IDLE_MS * 10 ^ 6)

/-- GC_MOVE: the next unit of the victim is looked at; one the map still names is read and placed in the GC stream (R342 step 2),
and its move earns credits (R340). Reads of a channel out of service are deferred (R312). -/
def execGcMove (s : State) : Res :=
  .next (match s.ftl.gc with
    | none => s
    | some g =>
      match g.left with
      | [] => s
      | l :: rest =>
        match s.locAddr l with
        | none => { s with ftl := { s.ftl with gc := some { g with left := rest } } }
        | some a =>
          let owner := (s.namedIn (locSb l)).find? (fun e => e.2.2 == l)
          if !s.flashRuns || s.gcHeld g || bitAt (s.reg FLS_CHAN_STATE) (a.die / 32) then s
          else match owner with
            | none => { s with ftl := { s.ftl with gc := some { g with left := rest } } }
            | some (space, lua, _) =>
              let (r, s) := s.readCodeword a
              match r.word with
              | none => s
              | some w =>
                let u : WriteUnit :=
                  { space := space, lua := lua, data := w.data, source := some l, writer := none, placed := none, reported := false }
                let f := s.ftl
                let credits := if g.foreground then min (65536 * 65536) (f.credits + g.quota) else f.credits
                let s := { s with ftl := { f with
                  gc := some { g with left := rest }, credits := credits
                  gcStream := { f.gcStream with queue := f.gcStream.queue ++ [u] } } }
                (s.fill .reclaim).pumpWrites)

/-- A unit or a record of the victim is still on its way (R342 step 4). -/
def State.movesPending (s : State) (n : Nat) : Bool :=
  let units := s.ftl.gcStream.units ++ s.ftl.gcStream.queue
  units.any (fun u => !u.reported && u.source.any (fun l => locSb l == n))
    || s.ftl.journal.any (fun r => r.typ == recMove && locSb r.c == n)
    || s.ftl.waiting.any (fun r => r.1.typ == recMove && locSb r.1.c == n)

/-- FREE counts a superblock once its SB_FREE record is durable; `v0` marks a victim without valid units (R340, R342). -/
def State.awaitFree (s : State) (n : Nat) (v0 : Bool) : State :=
  { s with ftl := { s.ftl with gc := none, freeing := s.ftl.freeing ++ [(n, s.ftl.asked, v0)] } }

/-- The erases of a victim have ended: SB_FREE is appended (R342 step 6). -/
def State.freeVictim (s : State) (g : GcRun) : State :=
  let s := (s.append ⟨recSbFree, 0, 0, g.victim, 0, 0⟩).awaitFree g.victim (g.quota == maxQuota)
  s.setFlag FTL_GC_STAT_BG false

/-- VICTIM_ERASE: once every unit is moved and every MOVE is durable, the member blocks are erased (R342 steps 4 and 5). A GC round
that holds the victim's last units is closed first (R299). -/
def execVictimErase (s : State) : Res :=
  .next (match s.ftl.gc with
    | none => s
    | some g =>
      if !s.flashStarts || !g.left.isEmpty || g.erasing.isSome then s
      else if s.movesPending g.victim then
        let o := s.ftl.gcStream
        if !o.programming && !o.units.isEmpty then s.setStream .reclaim { o with programming := true } else s
      else match Table.find s.ftl.superblocks g.victim with
        | none => { s with ftl := { s.ftl with gc := none } }
        | some x =>
          let ms := (List.range x.members.length).filter (fun i =>
            let e := x.members.getD i (0, 0)
            s.dieUsable e.1 && !s.flash.failed.contains (e.1 / 32) && !s.blockRetired e.1 e.2)
          let s := ms.foldl (fun s i =>
            let d := (x.members.getD i (0, 0)).1
            match s.die d with
            | some y => s.setDie d { y with busy := true, suspends := 0 }
            | none => s) s
          if ms.isEmpty then s.freeVictim g else { s with ftl := { s.ftl with gc := some { g with erasing := some ms } } })

/-- A block's cells after an erase. -/
def State.eraseBlock (s : State) (d b : Nat) : State :=
  let k := blockKey d b
  { s with flash := { s.flash with
    nand := s.flash.nand.filter (fun e => e.1 / 65536 != k), health := s.flash.health.filter (fun e => e.1 / 65536 != k)
    reads := Table.write 0 s.flash.reads k 0, lastRetry := Table.drop s.flash.lastRetry k } }

/-- ERASE_DONE: the erase of member `m` of the victim ends; a block that fails is retired (R308). -/
def execEraseDone (m : BitVec 5) (ok : Bool) (s : State) : Res :=
  .next (match s.ftl.gc with
    | none => s
    | some g =>
      match g.erasing, Table.find s.ftl.superblocks g.victim with
      | some ms, some x =>
        if !s.polderOn polPF || s.power.flush.any (fun f => f.shed) || !ms.contains m.toNat then s
        else
          let e := x.members.getD m.toNat (0, 0)
          let s := match s.die e.1 with
            | some y => s.setDie e.1 { y with busy := false }
            | none => s
          let s := if ok then (s.eraseBlock e.1 e.2).count unitFLS 5 1
            else (s.errAdd FLS_ERR_CNT1_ERASE_FAIL 1).retireBlock e.1 e.2
          let ms := ms.filter (· != m.toNat)
          let g := { g with erasing := some ms }
          if ms.isEmpty && !s.flag FLT_STATUS_SAFE then s.freeVictim g else { s with ftl := { s.ftl with gc := some g } }
      | _, _ => s)

/-! ## Rebuild of a dead die (R306, R307) -/

/-- Rebuild one superblock's member into a free block of the same channel, or hand the superblock over. -/
def State.rebuildMember (s : State) (n : Nat) (x : Superblock) (i d b : Nat) : State :=
  match s.nextMember (d / 32) with
  | some (d', b') =>
    let cells := s.writtenIn d b
    let s := cells.foldl (fun s a =>
      let (w, s) := s.rebuildCodeword a
      match w with
      | some q => { s with flash := { s.flash with nand := Table.put s.flash.nand (cwKey d' b' a.page a.plane a.cw) q } }
      | none => s.errAdd FLS_ERR_CNT_UNREADABLE 1) s
    let s := s.setSuperblock n { x with members := x.members.set i (d', b') }
    (s.count unitFLS 4 (ceilDiv cells.length 4)).append ⟨recSbMember, 0, i, n, d' * 65536 + b', 0⟩
  | none => s.setSuperblock n { x with handed := true }

/-- DIE_REBUILD: the die whose rebuild comes first is rebuilt, one rebuild at a time (R306). -/
def execDieRebuild (s : State) : Res :=
  .next (match s.flash.rebuilds with
    | [] => s
    | d :: rest =>
      if !s.flashStarts then s
      else
        let s := (s.setFlag FLS_REBUILD_STAT_ACTIVE true).setFld FLS_REBUILD_STAT_DIE d
        let s := s.setFlag FLS_REBUILD_STAT_CHANNEL (s.flash.failed.contains (d / 32))
        let s := s.ftl.superblocks.foldl (fun s e =>
          match e.2.members.findIdx? (fun m => m.1 == d) with
          | some i => s.rebuildMember e.1 e.2 i d (e.2.members.getD i (0, 0)).2
          | none => s) s
        let s := (s.setFld FLS_REBUILD_STAT_PROGRESS 1023).setFlag FLS_REBUILD_STAT_ACTIVE false
        { s with flash := { s.flash with rebuilds := rest } })

/-! ## Checkpoints (R329) -/

/-- Take a checkpoint: map pages written back, the snapshot and the anchor written. -/
def State.takeCheckpoint (s : State) : State :=
  let j := s.ftl.jseq
  let s := (s.ftl.cached.filter (fun e => e.2)).foldl (fun s e => s.writeBack e.1 true) s
  let f := s.ftl
  ({ s with ftl := { f with
    start := j, flashed := 0, anchor := some ⟨j, f.directory, f.superblocks, f.spaces, f.nextSeq, s.userUnits⟩ } }).showJournal

/-- CHECKPOINT: the journal written since START exceeds CKPT_MIB (R329). -/
def execCheckpoint (s : State) : Res :=
  .next (if s.flashStarts && s.mounted && decide (max 64 (s.fld FTL_CKPT_CFG_CKPT_MIB) * 1048576 < s.ftl.flashed) then
      s.takeCheckpoint
    else s)

/-! ## Mount (R290, R320, R346 to R349) -/

/-- The totals of R353 after a format or a mount. -/
def State.showTotals (s : State) : State :=
  let total := s.usableSuperblocks
  let s := s.setFld FTL_SB_TOTAL_TOTAL total
  s.setFld FTL_SB_FREE_FREE (total - s.ftl.superblocks.length)

/-- Give the META stream a superblock. -/
def State.startMeta (s : State) : State :=
  match s.openSuperblock .metadata with
  | (some n, s) => { s with ftl := { s.ftl with metaSb := some n, metaStripe := 0, nextSeq := s.ftl.nextSeq + 1 } }
  | (none, s) => s

/-- Arm flush superblocks until they cover min(256, usable dies), no die counted twice (R516). -/
def State.armFlushUp (s : State) : Nat → State
  | 0 => s
  | k + 1 =>
    let dies (n : Nat) : List Nat := (((Table.find s.ftl.superblocks n).map (·.members)).getD []).map (·.1)
    let covered := (s.ftl.armed.flatMap (fun e => dies e.1)).eraseDups.length
    let usable := (s.flash.dies.filter (fun e => s.dieUsable e.1)).length
    if decide (min 256 usable ≤ covered) then s
    else match s.openSuperblock .metadata with
      | (some n, s') =>
        let fresh := ((((Table.find s'.ftl.superblocks n).map (·.members)).getD []).map (·.1)).any (fun d =>
          !(s.ftl.armed.flatMap (fun e => dies e.1)).contains d)
        if fresh then
          ({ s' with ftl := { s'.ftl with armed := s'.ftl.armed ++ [(n, 0)], nextSeq := s'.ftl.nextSeq + 1 } }).armFlushUp k
        else s
      | (none, s') => s'

def State.armFlush (s : State) : State := ({ s with ftl := { s.ftl with armed := [] } }).armFlushUp 256

/-- The first mount of a sled formats it: USER_UNITS is fixed (R290, R320). -/
def State.formatFlash (s : State) : State :=
  let s := ({ s with ftl := Ftl.reset }).showTotals
  let user := s.usableSuperblocks * s.unitsPer s.usableChannels.length * 93 / 100
  let s := (s.setFld FTL_USER_LO_UNITS_L user).setFld FTL_USER_HI_UNITS_H (user / 2 ^ 32)
  ((s.startMeta.armFlush).setFld FTL_STATE_STATE 2).takeCheckpoint

/-- The records of a journal page on the medium (R327). -/
def pageRecords (d : List Byte) : List JRecord :=
  (List.range (min 126 (leAt d 6 2))).map (fun i =>
    let o := 64 + 32 * i
    ⟨leAt d o 1, leAt d (o + 2) 2, leAt d (o + 4) 4, leAt d (o + 8) 8, leAt d (o + 16) 8, leAt d (o + 24) 8⟩)

/-- The readable journal page of a JSEQ. -/
def State.findJournal (s : State) (j : Nat) : Option (List Byte) :=
  let hit := s.flash.nand.find? (fun e =>
    e.2.kind == kindJournal && e.2.space == 0 && e.2.lua == j % 2 ^ 40 && leAt e.2.data 8 8 == j && leAt e.2.data 0 4 == 0x4C4E4A4B
      && e.2.checks)
  hit.map (fun e => e.2.data)

/-- Replay journal pages in JSEQ order until one is missing (R347 step 3). -/
def State.replay (s : State) (j : Nat) : Nat → State
  | 0 => s
  | k + 1 =>
    match s.findJournal j with
    | none => { s with ftl := { s.ftl with jseq := j } }
    | some d => ((pageRecords d).foldl State.applyRecord s).replay (j + 1) k

/-- The map entries of a map page on the medium. -/
def State.loadMapPage (s : State) (page loc : Nat) : State :=
  match (s.locAddr loc).bind (fun a => Table.find s.flash.nand a.key),
      s.ftl.spaces.find? (fun e => decide (e.2.mapBase ≤ page) && decide (page < e.2.mapBase + ceilDiv e.2.units 819)) with
  | some w, some (n, x) =>
    (List.range 819).foldl (fun (s : State) i =>
      let v := leAt w.data (5 * i) 5
      if v = 0xFFFFFFFFFF then s
      else { s with ftl := { s.ftl with map := Table.put s.ftl.map (mapKey n ((page - x.mapBase) * 819 + i)) v } }) s
  | _, _ => s

/-- SEQ of the codeword that a location names. -/
def State.locSeq (s : State) (l : Nat) : Nat :=
  (((s.locAddr l).bind (fun a => Table.find s.flash.nand a.key)).map Codeword.seq).getD 0

/-- The location of a codeword in a superblock. -/
def locOfKey (n m key : Nat) : Nat := packLoc n m (key / 16 % 4096) (key / 4 % 4) (key % 4)

/-- The readable user codewords of a superblock, with their locations. -/
def State.scanWords (s : State) (n : Nat) (x : Superblock) : List (Nat × Codeword) :=
  x.members.zipIdx.flatMap (fun e => s.flash.nand.filterMap (fun c =>
    if c.1 / 65536 = blockKey e.1.1 e.1.2 && c.2.kind == kindUser && c.2.checks then some (locOfKey n e.2 c.1, c.2) else none))

/-- The reverse-map rule for one codeword (R348). -/
def State.scanWord (s : State) (st : WriteStream) (victim : Option Nat) (l : Nat) (w : Codeword) : State :=
  match s.space w.space with
  | none => s
  | some sp =>
    let now := s.lookup w.space w.lua
    if st = .reclaim then
      if now.any (fun l => victim == some (locSb l)) then s.setMap w.space w.lua (some l) else s
    else if sp.createdSeq ≤ w.seq && now.all (fun l => decide (s.locSeq l < w.seq)) then s.setMap w.space w.lua (some l)
    else s

/-- Scan the superblocks that were open, in increasing SEQ (R347 step 5, R348); afterwards they are closed. -/
def State.reverseScan (s : State) (victim : Option Nat) : State :=
  let opened := s.ftl.superblocks.filter (fun e => !e.2.closed)
  let words := opened.flatMap (fun e => (s.scanWords e.1 e.2).map (fun w => (e.2.stream, w)))
  let words := words.mergeSort (fun a b => decide (a.2.2.seq ≤ b.2.2.seq))
  let s := words.foldl (fun s e => s.scanWord e.1 victim e.2.1 e.2.2) s
  opened.foldl (fun s e => s.setSuperblock e.1 { e.2 with closed := true }) s

/-- The highest SEQ on the medium. -/
def State.topSeq (s : State) : Nat := s.flash.nand.foldl (fun m e => max m e.2.seq) 0

/-- Steps 2 to 8 of R347 from an anchor. -/
def State.recover (s : State) (a : Anchor) : State :=
  let cursor := s.ftl.cursor
  let s := { s with ftl := { Ftl.reset with
    spaces := a.spaces, directory := a.directory, superblocks := a.superblocks, start := a.start, jseq := a.start
    anchor := some a, cursor := cursor
    nextSb := a.superblocks.foldl (fun m (e : Nat × Superblock) => max m (e.1 + 1)) 0
    nextMapPage := a.spaces.foldl (fun m (e : Nat × Space) => max m (e.2.mapBase + ceilDiv e.2.units 819)) 0 } }
  let s := a.directory.foldl (fun s e => s.loadMapPage e.1 e.2) s
  let s := s.replay a.start (s.flash.nand.length + 1)
  let s := { s with ftl := { s.ftl with
    nextSeq := max a.maxSeq s.topSeq + 1
    nextMapPage := s.ftl.spaces.foldl (fun m (e : Nat × Space) => max m (e.2.mapBase + ceilDiv e.2.units 819)) s.ftl.nextMapPage } }
  let victim := cursor.bind (fun c => c.gcVictim)
  let s := s.reverseScan victim
  let s := match cursor with
    | some c => { s with flash := { s.flash with patrolAt := c.patrolAt } }
    | none => s
  let s := (s.setFld FTL_USER_LO_UNITS_L a.userUnits).setFld FTL_USER_HI_UNITS_H (a.userUnits / 2 ^ 32)
  let s := ((s.showTotals.countSpaces).startMeta).armFlush
  let s := (s.setFld FTL_STATE_STATE 2).takeCheckpoint
  let s := match victim.bind (fun n => (Table.find s.ftl.superblocks n).map (fun x => (n, x))) with
    | some (n, x) => s.beginGc n x false
    | none => s
  s.checkReadOnly

/-- MOUNT (R290, R347, R349): how many copies of the block table and anchor pass their check, and whether the checkpoint can be
read, come with the event. -/
def execMount (copies : Nat) (checkpoint : Bool) (s : State) : Res :=
  .next (if !s.flashRuns || s.fld FTL_STATE_STATE ≠ 0 || s.fld FLS_POP_MODE = 0 then s
    else match s.ftl.anchor with
      | none => if s.usableChannels.length = s.channels then s.formatFlash else s
      | some a => if copies = 0 || !checkpoint then s.setFld FTL_STATE_STATE 4 else s.recover a)

end Sys2Proof.Machine
end

