-- ==== Sys2Proof/Machine/Fetch.lean ====
section
/-!
DEFINITION. The fetch/permutation engine (R123 to R153, R634, R635): volumes and catalog entries, the permutation, streams and
staging, spares, and fetch lists.
-/

namespace Sys2Proof.Machine

open Reg

def stBAD_RANGE : Nat := 0x40
def stNO_VOLUME : Nat := 0x41
def stBAD_SEED : Nat := 0x42
def stSPARES_EXHAUSTED : Nat := 0x43
def stSTREAM_CLOSED : Nat := 0x44

/-! ## The permutation (R133, R134) -/

/-- The smallest even width of at least 2 bits that holds `n` values. -/
def permWidth (n : Nat) : Nat := max 2 (2 * ((log2Up n + 1) / 2))

/-- The six round keys. -/
def permKeys (tag seed : List Byte) (epoch : Nat) : List (List Byte) :=
  (List.range 3).flatMap (fun j =>
    let d := sha256 (tag ++ seed ++ leBytes 4 epoch ++ leBytes 1 j)
    [d.take 16, d.drop 16])

/-- One six-round evaluation on w-bit values. -/
def permRounds (keys : List (List Byte)) (h x : Nat) : Nat :=
  let m := 2 ^ h
  let (l, r) := keys.foldl (fun (lr : Nat × Nat) k =>
    (lr.2, (BitVec.ofNat 64 lr.1 ^^^ BitVec.ofNat 64 ((sipHash24 k (leBytes 8 lr.2)).toNat % m)).toNat)) (x / m, x % m)
  l * m + r

/-- Cycle walking: the value below `n` and the evaluations it took. -/
def permWalk (keys : List (List Byte)) (h n x count : Nat) : Nat → Nat × Nat
  | 0 => (x % n, count)
  | k + 1 =>
    let y := permRounds keys h x
    if y < n then (y, count + 1) else permWalk keys h n y (count + 1) k

/-- `perm` of R133 with the evaluations it took. -/
def perm (tag seed : List Byte) (epoch n p : Nat) : Nat × Nat :=
  let w := permWidth n
  permWalk (permKeys tag seed epoch) (w / 2) n p 0 (2 ^ w)

/-- The bytes of an ASCII tag. -/
def asciiBytes (t : String) : List Byte := t.toList.map (fun c => BitVec.ofNat 8 c.toNat)

/-- π, extended past N by the spare stream σ (R133, R134). -/
def permPi (seed : List Byte) (epoch n p : Nat) : Nat × Nat :=
  if p < n then perm (asciiBytes "PRM1") seed epoch n p else perm (asciiBytes "SPR1") seed epoch n (p - n)

def permSigma (seed : List Byte) (epoch n p : Nat) : Nat × Nat := perm (asciiBytes "SPR1") seed epoch n p

/-! ## Volumes and entries (R123 to R131) -/

/-- The units that hold bytes [off, off+len) of a space. -/
def unitRun (off len : Nat) : Nat × Nat :=
  let first := off / 4096
  (first, if len = 0 then 0 else (off + len - 1) / 4096 - first + 1)

/-- The bytes of a run of units; those of a unit that could not be read are taken from a free value. -/
def unitBytes (draw : Nat) (us : List (Option (List Byte))) : List Byte :=
  us.zipIdx.flatMap (fun u => u.1.getD (leBytes 4096 (draw / 2 ^ (32768 * u.2))))

/-- What a read of a run of bytes gave: the bytes, whether some unit could not be read, and whether none could. -/
structure SpaceRead where
  data : List Byte
  unread : Bool
  blank : Bool
deriving DecidableEq, Repr

/-- Bytes [off, off+len) of a space. -/
def State.spaceBytes (s : State) (space off len : Nat) : SpaceRead × State :=
  let (first, n) := unitRun off len
  let (us, s) := s.readRun space first n
  let unread := us.any (fun u => u.isNone)
  let (draw, s) := if unread then s.freshFree else (0, s)
  (⟨sliceOf (off % 4096) len (unitBytes draw us), unread, unread && us.all (fun u => u.isNone)⟩, s)

/-- A volume header that meets R126. -/
def volumeOf (space units : Nat) (dataset : Nat) (h : List Byte) : Option Volume :=
  let n := leAt h 0x08 6
  let places := leAt h 0x10 1
  let place := leAt h 0x11 1
  let cat := leAt h 0x18 8
  let entries := leAt h 0x20 8
  let bytes := units * 4096
  if leAt h 0 4 = 0x4C4F5644 && leAt h 4 2 = 1 && leAt h 6 2 = dataset && leAt h 0x38 8 = (crc64 (h.take 0x38)).toNat
      && leAt h 0x12 1 = 1 && decide (n ≠ 0) && decide (1 ≤ places ∧ places ≤ 64 ∧ place < places)
      && entries == (n + places - 1 - place) / places && decide (cat + 32 * entries ≤ bytes)
      && decide (leAt h 0x28 8 < bytes) then
    some ⟨space, n, places, place, cat, entries, bytes, leAt h 0x0E 2⟩
  else none

/-- The volume that serves a dataset (R126). -/
def State.volumeFor (s : State) (dataset : Nat) : Option Volume :=
  if !s.mounted then none
  else s.ftl.spaces.findSome? (fun e =>
    if e.2.typ = 2 && !e.2.walking then
      match (s.readUnit e.1 0).1 with
      | some u => volumeOf e.1 e.2.units dataset (u.take 64)
      | none => none
    else none)

/-- The catalog page that holds an entry, and the entry's place in it. -/
def Volume.entryPage (v : Volume) (gsid : Nat) : Nat × Nat :=
  let off := v.catOffset + 32 * (gsid / v.places)
  (off / 4096, off % 4096)

def catKey (space page : Nat) : Nat := space * 2 ^ 40 + page

/-- A cached catalog page (R132). -/
def State.cachedPage (s : State) (v : Volume) (page : Nat) : Option (List Byte) :=
  (s.fetch.cache.find? (fun e => e.1 == catKey v.space page)).map (·.2)

/-- Catalog pages the cache holds. -/
def State.catalogRoom (s : State) : Nat := zeroActsAsOne (s.fld CAT_CACHE_CFG_SIZE) * 16384

/-- The plane-pages of an extent, by location div 4. -/
def State.pagesOf (s : State) (space off len : Nat) : List Nat :=
  let (first, n) := unitRun off len
  ((List.range n).filterMap (fun i => (s.lookup space (first + i)).map (· / 4))).eraseDups

/-- Read a catalog page into the cache (R132); a page that cannot be read is held as no bytes. -/
def State.loadCatalog (s : State) (v : Volume) (page : Nat) : State :=
  let reads := (s.pagesOf v.space (page * 4096) 4096).length
  let (b, s) := s.spaceBytes v.space (page * 4096) 4096
  let s := (s.count unitCAT 1 1).count unitCAT 5 reads
  let held := if b.unread then [] else b.data
  { s with fetch := { s.fetch with cache := ((catKey v.space page, held) :: s.fetch.cache).take s.catalogRoom } }

/-- The codec values of R129. -/
def codecListed (c : Nat) : Bool := decide (c ≤ 0x0B)

/-- An image, audio or other codec (R131). -/
def codecImage (c : Nat) : Bool := decide (1 ≤ c ∧ c ≤ 4)
def codecAudio (c : Nat) : Bool := decide (5 ≤ c ∧ c ≤ 8)

/-- An item as its catalog entry gives it, with the status of R130 and R131. -/
def itemOf (v : Volume) (r : Recipe) (pos gsid : Nat) (e : List Byte) : FetchItem :=
  let codec := leAt e 6 1
  let frame := leAt e 7 1 % 16
  let stored := leAt e 8 4
  let expanded := leAt e 0x14 4
  let dim0 := leAt e 0x0C 4
  let dim1 := leAt e 0x10 4
  let off := leAt e 0 6
  let bad := !codecListed codec || decide (5 < frame) || stored == 0 || decide (v.bytes < off + stored)
  let beyond := (codecImage codec && decide (r.maxPixels < dim0 * dim1)) || (codecAudio codec && decide (r.maxAudio < dim0))
    || decide (r.maxBytes < expanded) || decide (r.maxRatio * stored < expanded)
  { pos := pos, gsid := gsid, status := if bad then stDAMAGED else if beyond then stLIMIT else stOK
    cause := if bad then 3 else 0, codec := codec, frame := frame, storedLen := stored, expandedLen := expanded
    dim0 := dim0, dim1 := dim1, crc := leAt e 0x18 8, offset := off, grist := 0, out := 0, outSize := 0, attempt := 0, origin := 0
    staged := bad || beyond, unread := false, blank := false, kiln := none }

/-- The item of an entry on a catalog page; on a page that cannot be read the item is unreadable (R149 CAUSE 2). -/
def pageItem (v : Volume) (r : Recipe) (pos gsid : Nat) (page : List Byte) (at_ : Nat) : FetchItem :=
  let i := itemOf v r pos gsid (sliceOf at_ 32 page)
  if page.isEmpty then { i with cause := 2 } else i

/-! ## Streams and staging (R139, R140) -/

def State.fetchStream (s : State) (ring : Nat) : Option FetchStream := Table.find s.fetch.streams ring
def State.setFetchStream (s : State) (ring : Nat) (st : FetchStream) : State :=
  { s with fetch := { s.fetch with streams := Table.put s.fetch.streams ring st } }

/-- The node keeps a position (R136, R634). -/
def FetchStream.keeps (st : FetchStream) (p : Nat) : Bool :=
  st.all || (permPi st.seed st.epoch st.volume.n p).1 % st.volume.places == st.volume.place

/-- Kept positions that were not returned, in order. -/
def FetchStream.remaining (st : FetchStream) : List Nat :=
  ((List.range (st.last - st.first)).map (· + st.first)).filter (fun p => st.keeps p && !st.returned.contains p)

/-- The kept positions of the range, in order. -/
def FetchStream.homes (st : FetchStream) : List Nat := ((List.range (st.last - st.first)).map (· + st.first)).filter st.keeps

/-- The look-ahead window (R139): LOOKAHEAD kept positions from the oldest not returned, those returned left out, each with its
distance from that oldest one. -/
def FetchStream.window (st : FetchStream) : List (Nat × Nat) :=
  (((st.homes.dropWhile (fun p => st.returned.contains p)).take st.lookahead).zipIdx).filter (fun e => !st.returned.contains e.1)

/-- NEXT of the list header (R149). -/
def FetchStream.nextPos (st : FetchStream) : Nat := st.remaining.headD st.last

/-- Runs of a recipe's staging in use: tracking records, staged grist and the grist of held items. -/
def State.stagingUsed (s : State) (handle : Nat) : List Block :=
  let run (i : FetchItem) : List Block := if i.grist = 0 then [] else [⟨i.grist, alignUp i.storedLen 64⟩]
  (s.fetch.streams.filter (fun e => e.2.handle == handle)).flatMap (fun e =>
      ⟨e.2.track, e.2.lookahead * 64⟩ :: (e.2.items ++ e.2.held).flatMap run)
    ++ (s.fetch.spareHeld.filter (fun e => (s.recipeOfRing 1 e.1).any (fun r => r.1 == handle))).flatMap (fun e => e.2.flatMap run)

/-- Bytes of a recipe's staging that the tracking records of its streams take (R139). -/
def State.trackedBytes (s : State) (handle : Nat) : Nat :=
  (s.fetch.streams.filter (fun e => e.2.handle == handle)).foldl (fun n e => n + e.2.lookahead * 64) 0

/-- The lowest run of `n` bytes in an area that meets none in use. -/
def firstFit (used : List Block) (base size n : Nat) : Option Nat :=
  let spots := base :: used.map (fun b => alignUp (b.base + b.size) 64)
  let fits := spots.filter (fun a => decide (base ≤ a ∧ a + n ≤ base + size) && used.all (fun b => apart a n b.base b.size))
  match fits with
  | [] => none
  | a :: rest => some (rest.foldl min a)

/-- Space for grist in a recipe's staging. -/
def State.stagingFor (s : State) (handle : Nat) (r : Recipe) (n : Nat) : Option Nat :=
  firstFit (s.stagingUsed handle) r.staging.base r.stagingBytes (alignUp n 64)

/-- `CAT_STREAMS` and `CAT_STAGE_USED` (R152). -/
def State.showFetch (s : State) : State :=
  let handles := (s.recipes.map (fun e => e.1))
  let used := handles.foldl (fun n h => n + (s.stagingUsed h).foldl (fun m b => m + b.size) 0) 0
  (s.setFld CAT_STREAMS_OPEN (s.fetch.streams.filter (fun e => !e.2.closed)).length).setFld CAT_STAGE_USED_MIB (ceilDiv used 1048576)

/-- The stream of a ring is closed and its staging released (R147, R150). -/
def State.closeStream (s : State) (ring : Nat) : State :=
  ({ s with fetch := { s.fetch with
    streams := Table.drop s.fetch.streams ring, spareHeld := Table.drop s.fetch.spareHeld ring } }).showFetch

/-! ## Reading grist (R141 to R143) -/

/-- A read that the fetch engine could issue: stream, position, item, die and urgency. -/
structure GristRead where
  ring : Nat
  item : FetchItem
  die : Nat
  urgent : Bool
deriving DecidableEq, Repr

/-- The reads a stream could issue now: positions of its window whose catalog page is cached (R139, R141, R142). -/
def State.streamReads (s : State) (ring : Nat) (st : FetchStream) : List GristRead :=
  match s.recipeOfRing 1 ring with
  | none => []
  | some (_, r) =>
    let urgentPos := s.fld CAT_FETCH_CFG_URGENT_POS
    (st.window.filter (fun e => !st.items.any (fun i => i.pos == e.1))).filterMap (fun e =>
      let g := (permPi st.seed st.epoch st.volume.n e.1).1
      let (page, at_) := st.volume.entryPage g
      let home := g % st.volume.places == st.volume.place
      match s.cachedPage st.volume page with
      | some b =>
        let item := pageItem st.volume r e.1 g b at_
        let die := (((s.lookup st.volume.space (item.offset / 4096)).bind s.locAddr).map (·.die)).getD 0
        some ⟨ring, item, die, decide (e.2 < urgentPos)⟩
      | none => if home then none else some ⟨ring, itemOf st.volume r e.1 g (zeros 32), 0, decide (e.2 < urgentPos)⟩)

/-- Of two reads of one die or channel, the one served first: urgent before non-urgent, then the lower position (R142). -/
def GristRead.before (a b : GristRead) : GristRead :=
  if a.urgent != b.urgent then (if a.urgent then a else b) else if b.item.pos < a.item.pos then b else a

/-- Of a list of reads, the one whose turn it is: the channels in turn, and on the channel the die whose queue head comes
first. -/
def State.turnOf (s : State) (all : List GristRead) : Option GristRead :=
  let order := (List.range 32).map (fun i => (s.fetch.turn + 1 + i) % 32)
  order.findSome? (fun ch =>
    match all.filter (fun r => r.die / 32 == ch) with
    | [] => none
    | r :: rs => some (rs.foldl GristRead.before r))

/-- The grist of a read fits in the remaining staging space, or none of it is staged (R139, R140). -/
def State.readFits (s : State) (rd : GristRead) : Bool :=
  match s.fetchStream rd.ring, s.recipeOfRing 1 rd.ring with
  | some st, some (h, r) =>
    rd.item.staged || decide (r.stagingBytes - s.trackedBytes h < rd.item.storedLen)
      || rd.item.gsid % st.volume.places != st.volume.place || (s.stagingFor h r rd.item.storedLen).isSome
  | _, _ => true

/-- The read issued next of a list; a stream whose turn finds no space for its grist stops issuing (R139). -/
def State.readOf (s : State) : Nat → List GristRead → Option GristRead
  | 0, _ => none
  | k + 1, all =>
    match s.turnOf all with
    | none => none
    | some rd => if s.readFits rd then some rd else s.readOf k (all.filter (fun x => x.ring != rd.ring))

/-- The read the engine issues next. -/
def State.nextRead (s : State) : Option GristRead :=
  s.readOf (s.fetch.streams.length + 1) ((s.fetch.streams.filter (fun e => !e.2.closed)).flatMap (fun e => s.streamReads e.1 e.2))

/-- Items whose grist is being read. -/
def State.inFlight (s : State) : List (FetchStream × FetchItem) :=
  s.fetch.streams.flatMap (fun e => (e.2.items.filter (fun i => !i.staged && i.grist != 0)).map (fun i => (e.2, i)))

/-- Read the grist of an item into staging (R139, R140): OVERFLOW where it can never fit; `none` where it must wait for space. -/
def State.stageItem (s : State) (handle : Nat) (r : Recipe) (v : Volume) (i : FetchItem) : Option (FetchItem × State) :=
  if i.staged then some (i, s)
  else if r.stagingBytes - s.trackedBytes handle < i.storedLen then
    some ({ i with status := stOVERFLOW, staged := true }, s)
  else match s.stagingFor handle r i.storedLen with
    | none => none
    | some a =>
      let pages := s.pagesOf v.space i.offset i.storedLen
      let busy := s.inFlight.flatMap (fun e => s.pagesOf e.1.volume.space e.2.offset e.2.storedLen)
      let merged := (pages.filter busy.contains).length
      let dies := (pages.filterMap (fun p => (s.locAddr (p * 4)).map (·.die))).eraseDups
      let s := dies.foldl State.suspendDie s
      let (b, s) := s.spaceBytes v.space i.offset i.storedLen
      let s := ((s.count unitCAT 5 (pages.length - merged)).count unitCAT 6 merged).engineWrite 1 a b.data
      some ({ i with grist := a, unread := b.unread, blank := b.blank }, s)

/-- What an entry's refusal counts (R130, R143, R152). -/
def State.countEntry (s : State) (i : FetchItem) : State :=
  if i.cause = 3 then s.errAdd CAT_ERR_CNT_BAD_ENTRY 1 else if i.cause = 2 then s.errAdd CAT_ERR_CNT_CRC_FAIL 1 else s

/-- Put an item issued for a position into its stream. -/
def State.putItem (s : State) (ring : Nat) (i : FetchItem) : State :=
  match s.fetchStream ring with
  | some st => (s.setFetchStream ring { st with items := st.items.filter (fun j => j.pos != i.pos) ++ [i] }).showFetch
  | none => s

/-- The fetch engine's reads run. -/
def State.fetchRuns (s : State) : Bool := s.engineRuns 1 && s.mounted

/-- GRIST_READ_ISSUE: the read next in die order is issued (R130, R131, R139 to R142). For a position homed elsewhere the entry and
the stored bytes that the reconstruct reads of R450 rebuilt come with the event (R634). -/
def execGristReadIssue (rebuilt : Option (List Byte × List Byte)) (s : State) : Res :=
  .next (if !s.fetchRuns then s
    else match s.nextRead with
      | none => s
      | some rd =>
        match s.fetchStream rd.ring, s.recipeOfRing 1 rd.ring with
        | some st, some (h, r) =>
          let v := st.volume
          let (g, evals) := permPi st.seed st.epoch v.n rd.item.pos
          let s := { s with fetch := { s.fetch with turn := rd.die / 32 } }
          let s := (s.count unitCAT 2 evals).count unitCAT 3 1
          if g % v.places = v.place then
            let s := if st.missed.contains rd.item.pos then s else s.count unitCAT 0 1
            match (s.countEntry rd.item).stageItem h r v rd.item with
            | some (i, s) => s.putItem rd.ring i
            | none => s
          else match rebuilt with
            | some (e, stored) =>
              let i := itemOf { v with bytes := 2 ^ 48 } r rd.item.pos g (fitBytes 32 e)
              if i.staged then s.putItem rd.ring i
              else if r.stagingBytes - s.trackedBytes h < i.storedLen then
                s.putItem rd.ring { i with status := stOVERFLOW, staged := true }
              else match s.stagingFor h r i.storedLen with
                | some a => (s.engineWrite 1 a (fitBytes i.storedLen stored)).putItem rd.ring { i with grist := a }
                | none => s
            | none =>
              let i := itemOf v r rd.item.pos g (zeros 32)
              s.putItem rd.ring { i with status := stDAMAGED, cause := 2, staged := true }
        | _, _ => s)

/-- CATALOG_MISS: the lowest position of a stream's window whose catalog page is not cached has the page read (R132). -/
def execCatalogMiss (ring : BitVec 10) (s : State) : Res :=
  .next (match s.fetchStream ring.toNat with
    | none => s
    | some st =>
      if !s.fetchRuns || st.closed then s
      else
        let want := st.window.findSome? (fun e =>
          let g := (permPi st.seed st.epoch st.volume.n e.1).1
          let page := (st.volume.entryPage g).1
          if g % st.volume.places = st.volume.place && !st.items.any (fun i => i.pos == e.1)
              && (s.cachedPage st.volume page).isNone then some (e.1, page) else none)
        match want with
        | some (p, page) => (s.setFetchStream ring.toNat { st with missed := st.missed ++ [p] }).loadCatalog st.volume page
        | none => s)

/-- The stored bytes of an extent with every page rebuilt from its stripe (R143). -/
def State.rebuiltBytes (s : State) (space off len : Nat) : Option (List Byte) × State :=
  let (first, n) := unitRun off len
  let (us, s) := (List.range n).foldl (fun (acc : List (Option (List Byte)) × State) i =>
    match (acc.2.lookup space (first + i)).bind acc.2.locAddr with
    | some a =>
      let (w, s) := acc.2.rebuildCodeword a
      (acc.1 ++ [w.map (·.data)], s)
    | none => (acc.1 ++ [some (zeros 4096)], acc.2)) (([] : List (Option (List Byte))), s)
  (if us.any (fun u => u.isNone) then none else some (sliceOf (off % 4096) len (us.flatMap (fun u => u.getD []))), s)

/-- The CRC check of a staged item, its reread through the stripes, and the reconstruct read from the peers (R143). -/
def State.checkItem (s : State) (v : Volume) (i : FetchItem) (peer : Option (List Byte)) : FetchItem × State :=
  let good (bs : List Byte) : Bool := (crc64 bs).toNat == i.crc
  let s := s.count unitCAT 4 i.storedLen
  if !i.unread && good (s.dramBytes i.grist i.storedLen) then ({ i with staged := true }, s)
  else
    let (again, s) := s.rebuiltBytes v.space i.offset i.storedLen
    let s := match again with
      | some b => s.engineWrite 1 i.grist b
      | none => s
    if again.any good then ({ i with staged := true, unread := false }, s)
    else
      let s := match peer with
        | some b => s.engineWrite 1 i.grist (fitBytes i.storedLen b)
        | none => s
      if peer.any (fun b => good (fitBytes i.storedLen b)) then ({ i with staged := true, unread := false }, s)
      else
        let lost := i.unread && again.isNone && peer.isNone
        ({ i with staged := true, status := stDAMAGED, cause := if lost then 2 else 1
                  grist := if lost && i.blank then 0 else i.grist }, s.errAdd CAT_ERR_CNT_CRC_FAIL 1)

/-- ITEM_STAGED: the last byte of an item is staged, and its CRC check runs (R143). What the peers return on a volume with
cross-node redundancy comes with the event. -/
def execItemStaged (ring : BitVec 10) (pos : BitVec 48) (peer : Option (List Byte)) (s : State) : Res :=
  .next (match s.fetchStream ring.toNat with
    | none => s
    | some st =>
      match st.items.find? (fun i => i.pos == pos.toNat && !i.staged && i.grist != 0) with
      | some i =>
        if !s.fetchRuns || st.closed then s
        else
          let (i, s) := s.checkItem st.volume i peer
          s.putItem ring.toNat i
      | none => s)

/-! ## Fetch lists (R146 to R149) -/

/-- A list item's 64 bytes. -/
def FetchItem.bytes (i : FetchItem) : List Byte :=
  leBytes 6 i.pos ++ leBytes 1 i.status ++ leBytes 1 i.codec ++ leBytes 6 i.gsid ++ leBytes 2 i.cause ++ leBytes 8 i.grist
    ++ leBytes 4 i.storedLen ++ leBytes 4 i.expandedLen ++ leBytes 8 i.out ++ leBytes 4 i.dim0 ++ leBytes 4 i.dim1
    ++ leBytes 1 i.frame ++ leBytes 1 i.attempt ++ leBytes 2 i.origin ++ zeros 4 ++ leBytes 8 i.crc

/-- A list's header and items. -/
def listBytes (epoch next : Nat) (items : List FetchItem) : List Byte :=
  leBytes 4 items.length ++ leBytes 4 epoch ++ leBytes 6 next ++ zeros 50 ++ items.flatMap FetchItem.bytes

/-- Give items their output space (R148): one that does not fit while others hold space is kept back; one larger than the whole
area is OVERFLOW. -/
def placeOut (base size : Nat) (used : List Block) : List FetchItem → List FetchItem
  | [] => []
  | i :: is =>
    let n := alignUp i.expandedLen 64
    if i.expandedLen = 0 || size = 0 then { i with out := 0, outSize := 0 } :: placeOut base size used is
    else if size < n then
      let st := if i.status = stOK ∨ i.status = stSUBSTITUTED then stOVERFLOW else i.status
      { i with status := st, out := 0, outSize := 0 } :: placeOut base size used is
    else match firstFit used base size n with
      | some a => { i with out := a, outSize := n } :: placeOut base size (⟨a, n⟩ :: used) is
      | none => placeOut base size used is

/-- MAX_ITEMS and MIN_ITEMS as they act (R146). -/
def Taken.maxItems (x : Taken) : Nat :=
  let m := x.fieldAt 0x1E 2
  if m = 0 ∨ 4096 < m then 4096 else m
def Taken.minItems (x : Taken) : Nat := min x.maxItems (zeroActsAsOne (x.fieldAt 0x26 2))

/-- An earlier FILL_LIST of the ring still runs (R147). -/
def State.behindFill (s : State) (x : Taken) : Bool :=
  (s.taken.takeWhile (fun y => !(y.core == x.core && y.ticket == x.ticket))).any (fun y =>
    y.cls == 1 && y.ring == x.ring && descOpcode y.desc == 1 && y.result.isNone)

/-- End a FILL_LIST or SPARE with STREAM_CLOSED (R151): a header with COUNT 0. Where a FILL_LIST has no stream, NEXT is a free
value. -/
def State.endClosed (s : State) (x : Taken) : State :=
  let (next, s) : Nat × State :=
    if descOpcode x.desc = 3 then (x.fieldAt 0x18 6, s)
    else match s.fetchStream x.ring with
      | some st => (st.nextPos, s)
      | none => s.freshFree
  let s := s.engineWrite 1 (x.fieldAt 0x28 8) (listBytes (x.fieldAt 0x14 4) next [])
  s.finish x stSTREAM_CLOSED 0 []

/-- The seed a fetch descriptor names; `none`: BAD_SEED (R635, R633). -/
def State.seedOf (s : State) (cls ring slot : Nat) : Option (List Byte) :=
  match s.recipeOfRing cls ring with
  | some (_, r) => if slot < r.seedSlots then (r.launch.map (fun l => fitBytes 16 (l.seeds.getD slot []))) else none
  | none => none

/-- The stream that a FILL_LIST defines (R147), checked in the order of R635. -/
def State.openStream (s : State) (x : Taken) : Except Nat FetchStream :=
  let slot := x.fieldAt 0x12 1 % 4
  let first := x.fieldAt 0x18 6
  let last := x.fieldAt 0x20 6
  match s.seedOf 1 x.ring slot, s.recipeOfRing 1 x.ring with
  | some seed, some (h, r) =>
    match s.volumeFor (x.fieldAt 0x10 2) with
    | none => .error stNO_VOLUME
    | some v =>
      if last ≤ first ∨ v.n < last ∨ r.stagingBytes < r.lookahead * 64 then .error stBAD_RANGE
      else match s.stagingFor h r (r.lookahead * 64) with
        | none => .error stBAD_RANGE
        | some track =>
          .ok { serial := s.fetch.opened + 1, dataset := x.fieldAt 0x10 2, seedSlot := slot, all := x.fieldAt 0x13 1 % 2 == 1, epoch := x.fieldAt 0x14 4
                first := first, last := last, seed := seed, volume := v, lookahead := r.lookahead, handle := h, track := track
                items := [], held := [], returned := [], missed := [], began := none, closed := false }
  | _, _ => .error stBAD_SEED

/-- A FILL_LIST continues its ring's stream (R147). -/
def FetchStream.continues (st : FetchStream) (x : Taken) : Bool :=
  st.dataset == x.fieldAt 0x10 2 && st.seedSlot == x.fieldAt 0x12 1 % 4 && st.all == (x.fieldAt 0x13 1 % 2 == 1)
    && st.epoch == x.fieldAt 0x14 4 && st.first == x.fieldAt 0x18 6 && st.last == x.fieldAt 0x20 6 && !st.closed

/-- Begin a FILL_LIST: the stream is continued or opened, and what the last list returned is released (R147, R148). -/
def State.beginFill (s : State) (x : Taken) : State :=
  let mark : Option (Nat × Nat) := some (x.core.val, x.ticket.toNat)
  let s := { s with fetch := { s.fetch with spareHeld := Table.drop s.fetch.spareHeld x.ring } }
  let fresh (s : State) : State :=
    let s := s.closeStream x.ring
    match s.openStream x with
    | .ok st =>
      let s := { s with fetch := { s.fetch with opened := s.fetch.opened + 1 } }
      (s.setFetchStream x.ring { st with began := mark }).showFetch
    | .error code => s.finish x code 0 []
  match s.fetchStream x.ring with
  | some st => if st.continues x then (s.setFetchStream x.ring { st with began := mark, held := [] }).showFetch else fresh s
  | none => fresh s

/-- Complete a FILL_LIST where R148 lets it. -/
def State.tryFill (s : State) (x : Taken) (st : FetchStream) : State :=
  let left := st.remaining
  let ready := (left.filterMap (fun p => st.items.find? (fun i => i.pos == p && i.staged)))
  if ready.length < x.minItems && ready.length < left.length then s
  else
    let used := (st.held.filter (fun i => i.outSize != 0)).map (fun i => (⟨i.out, i.outSize⟩ : Block))
    let out := placeOut (x.fieldAt 0x38 8) (x.fieldAt 0x30 4 * 1048576) used (ready.take x.maxItems)
    let st := { st with
      items := st.items.filter (fun i => !out.any (fun j => j.pos == i.pos)), held := out
      returned := st.returned ++ out.map (·.pos), began := none }
    let s := s.setFetchStream x.ring st
    let list := x.fieldAt 0x28 8
    let s := s.engineWrite 1 list (listBytes st.epoch st.nextPos out)
    (s.showFetch).finish x stOK out.length [(list, 64 + 64 * out.length)]

/-- FILL_LIST (R146 to R149, R151, R635): it begins once it is first of its ring, and completes once enough is staged. -/
def execFillList (c : CoreId) (t : Ticket) (s : State) : Res :=
  .next (match s.running c t 1 0x01 with
    | none => s
    | some x =>
      if !s.engineRuns 1 || s.behindFill x then s
      else if !(s.ring 1 x.ring).en then s.endClosed x
      else
        let begun := match s.fetchStream x.ring with
          | some st => st.began == some (c.val, t.toNat)
          | none => false
        let s := if begun then s else s.beginFill x
        match s.running c t 1 0x01, s.fetchStream x.ring with
        | some x, some st => s.tryFill x st
        | _, _ => s)

/-! ## PERMUTE, SPARE and CLOSE (R144, R145, R150) -/

/-- PERMUTE (R150): π or σ for a run of positions, with the evaluations each took. -/
def execPermute (c : CoreId) (t : Ticket) (s : State) : Res :=
  .next (match s.running c t 1 0x02 with
    | none => s
    | some x =>
      if !s.engineRuns 1 then s
      else match s.seedOf 1 x.ring (x.fieldAt 0x12 1 % 4) with
        | none => s.finish x stBAD_SEED 0 []
        | some seed =>
          let given := x.fieldAt 0x20 6
          let n := if given = 0 then ((s.volumeFor (x.fieldAt 0x10 2)).map (·.n)).getD 0 else given
          let first := x.fieldAt 0x18 6
          let count := if x.fieldAt 0x1E 2 = 0 then 65536 else x.fieldAt 0x1E 2
          let epoch := x.fieldAt 0x14 4
          let f := if x.fieldAt 0x13 1 % 2 = 1 then permSigma else permPi
          if n = 0 then s.finish x stNO_VOLUME 0 []
          else
            let rs := (List.range (min count (n - first))).map (fun i => f seed epoch n (first + i))
            let bytes := rs.flatMap (fun r => leBytes 8 (r.1 % 2 ^ 48 + min 255 r.2 * 2 ^ 56))
            let out := x.fieldAt 0x28 8
            let s := (s.count unitCAT 2 (rs.foldl (fun m r => m + r.2) 0)).count unitCAT 3 rs.length
            let s := s.engineWrite 1 out bytes
            s.finish x (if n < first + count then stBAD_RANGE else stOK) 0 [(out, bytes.length)])

/-- The substitute of R144 and R145: the extended position and GSID that remain at count ATTEMPT. -/
def substitute (seed : List Byte) (epoch : Nat) (v : Volume) (p attempt : Nat) : Option (Nat × Nat) :=
  let own := (permPi seed epoch v.n p).1
  let js := (List.range (min v.n 65536)).filterMap (fun j =>
    let k := (p + j) % v.n
    let g := (permSigma seed epoch v.n k).1
    if g % v.places = v.place && g ≠ own then some (v.n + k, g) else none)
  if attempt > 7 then none else js[attempt]?

/-- SPARE (R144, R145, R150, R635): the substitute is staged, checked and returned in a list of one item, and its status is the
descriptor's. -/
def execSpare (c : CoreId) (t : Ticket) (peer : Option (List Byte)) (s : State) : Res :=
  .next (match s.running c t 1 0x03 with
    | none => s
    | some x =>
      let list := x.fieldAt 0x28 8
      let p := x.fieldAt 0x18 6
      let epoch := x.fieldAt 0x14 4
      let attempt := x.fieldAt 0x13 1
      if !s.engineRuns 1 then s
      else if !(s.ring 1 x.ring).en then s.endClosed x
      else match s.seedOf 1 x.ring (x.fieldAt 0x12 1 % 4), s.recipeOfRing 1 x.ring with
        | some seed, some (h, r) =>
          match s.volumeFor (x.fieldAt 0x10 2) with
          | none => s.finish x stNO_VOLUME 0 []
          | some v =>
            if v.n ≤ p then s.finish x stBAD_RANGE 0 []
            else match substitute seed epoch v p attempt with
              | none =>
                (s.engineWrite 1 list (listBytes epoch p [])).finish x stSPARES_EXHAUSTED 0 []
              | some (pos, g) =>
                let (page, at_) := v.entryPage g
                let s := if (s.cachedPage v page).isSome then s.count unitCAT 0 1 else s.loadCatalog v page
                let i := pageItem v r pos g ((s.cachedPage v page).getD []) at_
                match (s.countEntry i).stageItem h r v i with
                | none => s
                | some (i, s) =>
                  let (i, s) := if i.staged then (i, s) else s.checkItem v i peer
                  let i := { i with
                    status := if i.status = stOK then stSUBSTITUTED else i.status, attempt := attempt, origin := p % 65536 }
                  let spares := Table.at [] s.fetch.spareHeld x.ring
                  let used := ((((s.fetchStream x.ring).map (·.held)).getD [] ++ spares).filter (fun j => j.outSize != 0)).map
                    (fun j => (⟨j.out, j.outSize⟩ : Block))
                  match placeOut (x.fieldAt 0x38 8) (x.fieldAt 0x30 4 * 1048576) used [i] with
                  | [] => s
                  | i :: _ =>
                    let s := { s with fetch := { s.fetch with spareHeld := Table.put s.fetch.spareHeld x.ring (spares ++ [i]) } }
                    let s := (s.showFetch).engineWrite 1 list (listBytes epoch p [i])
                    s.finish x i.status 0 [(list, 128)]
        | _, _ => s.finish x stBAD_SEED 0 [])

/-- CLOSE (R147, R150): the ring's stream is closed and its staging released, once no earlier FILL_LIST of the ring runs. -/
def execClose (c : CoreId) (t : Ticket) (s : State) : Res :=
  .next (match s.running c t 1 0x04 with
    | none => s
    | some x => if s.engineRuns 1 && !s.behindFill x then (s.closeStream x.ring).finish x stOK 0 [] else s)

/-! ## Rings of the fetch class (R151) -/

/-- EN of a fetch ring is cleared: what waits completes with STREAM_CLOSED, and the stream closes. -/
def State.fetchRingCleared (s : State) (ring : Nat) : State :=
  let waiting := s.taken.filter (fun y => y.cls == 1 && y.ring == ring && y.result.isNone
    && (descOpcode y.desc == 1 || descOpcode y.desc == 3))
  let s := waiting.foldl (fun s x => s.endClosed x) s
  match s.fetchStream ring with
  | some st => (s.setFetchStream ring { st with closed := true }).showFetch
  | none => s

end Sys2Proof.Machine
end

