-- ==== Sys2Proof/Machine/Mills.lean ====
section
/-!
DEFINITION. The mills (R154 to R181): limits, formats, damage, concealment and the wort record, over the headers and decodes of
Machine/Codecs.lean.
-/

namespace Sys2Proof.Machine

open Reg

def stBAD_FORMAT : Nat := 0x40
def stBAD_UNIT : Nat := 0x41
def stWRONG_CODEC : Nat := 0x42

/-! ## Limits and policy of a ring (R110, R633) -/

/-- The parameters a ring's descriptors run under (R157, R633). -/
structure RingLimits where
  policy : Nat
  ratio : Nat
  pixels : Nat
  audio : Nat
  bytes : Nat
deriving DecidableEq, Repr

def State.limitsOf (s : State) (cls ring : Nat) : RingLimits :=
  match s.recipeOfRing cls ring with
  | some (_, r) => ⟨r.damagePolicy, r.maxRatio, r.maxPixels, r.maxAudio, r.maxBytes⟩
  | none => ⟨0, 2 ^ 16 - 1, 2 ^ 32 - 1, 2 ^ 32 - 1, 2 ^ 32 - 1⟩

/-! ## Fetch-list items as engines read them (R149) -/

/-- An item in memory. -/
structure ItemView where
  pos : Nat
  status : Nat
  codec : Nat
  gsid : Nat
  cause : Nat
  grist : Nat
  storedLen : Nat
  expandedLen : Nat
  out : Nat
  dim0 : Nat
  dim1 : Nat
  frame : Nat
  attempt : Nat
  origin : Nat
  crc : Nat
deriving DecidableEq, Repr

def itemView (b : List Byte) : ItemView :=
  { pos := leAt b 0 6, status := leAt b 6 1, codec := leAt b 7 1, gsid := leAt b 8 6, cause := leAt b 0x0E 2
    grist := leAt b 0x10 8, storedLen := leAt b 0x18 4, expandedLen := leAt b 0x1C 4, out := leAt b 0x20 8
    dim0 := leAt b 0x28 4, dim1 := leAt b 0x2C 4, frame := leAt b 0x30 1, attempt := leAt b 0x31 1, origin := leAt b 0x32 2
    crc := leAt b 0x38 8 }

/-! ## Formats (R158, R159) -/

def fmtImage (f : Nat) : Bool := decide (1 ≤ f ∧ f ≤ 7)
def fmtAudio (f : Nat) : Bool := decide (0x20 ≤ f ∧ f ≤ 0x23)

/-- Bits of a pixel. -/
def pixelBits (f : Nat) : Nat := [0, 8, 24, 32, 16, 48, 64, 1].getD f 0
/-- Bytes of an audio sample. -/
def sampleBytes (f : Nat) : Nat := if f = 0x20 then 2 else 4

/-- PITCH: the row length rounded up to 64 bytes. -/
def pitchOf (f width : Nat) : Nat := alignUp (ceilDiv (width * pixelBits f) 8) 64

/-- A sample of `b` bits at 8 or 16 bits. -/
def rescaled (b target v : Nat) : Nat :=
  if b = target then v
  else if target = 8 then
    if b = 1 then v * 255 else if b = 2 then v * 85 else if b = 4 then v * 17
    else if b = 16 then (v * 255 + 32767) / 65535 else Config.rescale b target v
  else
    if b = 1 then v * 255 * 257 else if b = 2 then v * 85 * 257 else if b = 4 then v * 17 * 257
    else if b = 8 then v * 257 else Config.rescale b target v

/-- The weights of the grey conversion. -/
def greyOf (r g b : Nat) : Nat := (77 * r + 150 * g + 29 * b + 128) / 256

/-- Components of an output format. -/
def fmtComps (f : Nat) : Nat := [0, 1, 3, 4, 1, 3, 4, 1].getD f 0
/-- Depth of an output format. -/
def fmtDepth (f : Nat) : Nat := if f ≤ 3 then 8 else if f = 7 then 1 else 16

/-- One pixel in an output format: the source components (colour, then alpha where there is one). -/
def convertPixel (h : Headers) (f : Nat) (px : List Nat) : List Nat :=
  let colour := if h.alpha then px.take (px.length - 1) else px
  let top := 2 ^ h.bits - 1
  let colour := if h.whiteIsZero then colour.map (fun v => top - v) else colour
  let depth := fmtDepth f
  let wide := if fmtComps f = 1 then
      [if colour.length ≥ 3 then greyOf (colour.getD 0 0) (colour.getD 1 0) (colour.getD 2 0) else colour.getD 0 0]
    else if colour.length ≥ 3 then colour.take 3 else List.replicate 3 (colour.getD 0 0)
  let out := wide.map (rescaled h.bits depth)
  if fmtComps f = 4 then out ++ [if h.alpha then rescaled h.bits depth (px.getLastD top) else 2 ^ depth - 1] else out

/-- The fill of a concealed pixel at a column (R174). -/
def fillPixel (f column : Nat) : List Nat :=
  let grey := if fmtDepth f = 8 then 128 else 32768
  if f = 7 then [(column + 1) % 2] else List.replicate (min 3 (fmtComps f)) grey ++ (if fmtComps f = 4 then [2 ^ fmtDepth f - 1] else [])

/-- Pack rows of pixels, each row from a multiple of 64 bytes. -/
def packImage (f width height : Nat) (pixel : Nat → Nat → List Nat) : List Byte :=
  (List.range height).flatMap (fun y =>
    let row := (List.range width).map (fun x => pixel x y)
    let bytes := if f = 7 then
        (List.range (ceilDiv width 8)).map (fun i =>
          BitVec.ofNat 8 ((List.range 8).foldl (fun acc k => acc * 2 + ((row.getD (8 * i + k) [0]).getD 0 0)) 0))
      else row.flatMap (fun px => px.flatMap (fun v => leBytes (fmtDepth f / 8) v))
    fitBytes (pitchOf f width) bytes)

/-- An exact fraction of full scale: numerator over 2^k, from an integer sample or a binary32 pattern. -/
def sampleFVal (floats : Bool) (bits : Nat) (v : Int) : FVal :=
  if floats then fp32.decode v.toNat else .fin (v < 0) v.natAbs (-((bits : Int) - 1))

/-- Round a value to a signed integer sample of `w` bits, to nearest even and saturating (R159). -/
def toSample (w : Nat) (v : FVal) : Int :=
  let hi : Int := 2 ^ (w - 1) - 1
  match v with
  | .nan _ => 0
  | .inf n => if n then -hi - 1 else hi
  | .fin n m e => max (-hi - 1) (min hi (FVal.toIntRne (.fin n m (e + (w - 1)))))

/-- One audio sample in an output format. -/
def convertSample (f : Nat) (floats : Bool) (bits : Nat) (v : Int) : List Byte :=
  let x := sampleFVal floats bits v
  if f = 0x20 then leBytes 2 (intBits 16 (toSample 16 x))
  else if f = 0x21 then leBytes 4 (intBits 32 (toSample 32 x))
  else leBytes 4 (fp32.round x).1

/-! ## Audio concealment (R174, R175) -/

/-- The fade factor at a good sample: (k − 1) ÷ n for each silent span within n samples before or after it, as a fraction. -/
def fadeOf (lost : List Nat) (n i : Nat) : Nat × Nat :=
  let before := (List.range n).find? (fun k => lost.contains (i + k + 1))
  let after := (List.range n).find? (fun k => decide (k + 1 ≤ i) && lost.contains (i - k - 1))
  let one (o : Option Nat) (f : Nat × Nat) : Nat × Nat := match o with
    | some k => (f.1 * k, f.2 * n)
    | none => f
  one after (one before (1, 1))

/-- A faded value: one product, rounded once to binary32. -/
def fadeValue (f : Nat × Nat) (x : FVal) : FVal :=
  match x with
  | .fin n m e => fp32.decode (fp32.roundRat n (m * f.1) f.2 e).1
  | v => v

/-- The audio output (R158, R174, R175). -/
def packAudio (f : Nat) (d : Decoded) (bits channels samples rate : Nat) : List Byte :=
  let n := (rate + 250) / 500
  let value (ch i : Nat) : List Byte :=
    if d.lost.contains i then convertSample f false 16 0
    else
      let v := d.values.getD (i * channels + ch) 0
      let fade := fadeOf d.lost n i
      if fade.1 = fade.2 then convertSample f d.floats bits v
      else convertSample f true 32 ((fp32.round (fadeValue fade (sampleFVal d.floats bits v))).1 : Nat)
  if f = 0x23 then
    (List.range channels).flatMap (fun ch =>
      let plane := (List.range samples).flatMap (value ch)
      fitBytes (alignUp plane.length 64) plane)
  else (List.range samples).flatMap (fun i => (List.range channels).flatMap (fun ch => value ch i))

/-! ## Damage (R169 to R173) -/

/-- Damage: kind, offset, first unit, units, and whether the whole sample is unusable. -/
structure Damage where
  kind : Nat
  offset : Nat
  unit : Nat
  units : Nat
  whole : Bool
deriving DecidableEq, Repr

def allOnes64 : Nat := 2 ^ 64 - 1

/-- The damage an item brings before anything is read (R171). -/
def itemDamage (i : ItemView) : Option Damage :=
  if i.status = stDAMAGED ∧ i.cause = 2 then some ⟨2, allOnes64, 0, 0, true⟩
  else if i.status = stDAMAGED ∧ i.cause ≠ 1 then some ⟨3, allOnes64, 0, 0, true⟩
  else if i.status = stLIMIT then some ⟨4, allOnes64, 0, 0, true⟩
  else if i.status = stOVERFLOW then some ⟨5, allOnes64, 0, 0, true⟩
  else none

/-- The resolution levels discarded (R168). -/
def reduction (h : Headers) (reduce : Nat) : Nat := max reduce (h.levels - 5)

/-- Output size of an image after `r` levels are discarded. -/
def outWidth (h : Headers) (r : Nat) : Nat := ceilDiv h.right (2 ^ r) - ceilDiv h.left (2 ^ r)
def outHeight (h : Headers) (r : Nat) : Nat := ceilDiv h.bottom (2 ^ r) - ceilDiv h.top (2 ^ r)

/-- Samples per channel of the output: the declared count, or DIM0 where the stream declares none (R170). -/
def outSamples (h : Headers) (i : ItemView) : Nat := min (h.samples.getD i.dim0) i.dim0

/-- Output bytes of a decode in a format. -/
def outBytes (f : Nat) (h : Headers) (i : ItemView) (r : Nat) : Nat :=
  if fmtImage f then pitchOf f (outWidth h r) * outHeight h r
  else if f = 0x23 then h.channels * alignUp (outSamples h i * 4) 64
  else outSamples h i * h.channels * sampleBytes f

/-- The damage the headers show, in the order of decoding (R168 to R170). -/
def headerDamage (cls f reduce srcLen : Nat) (strict : Bool) (l : RingLimits) (h : Headers) (i : ItemView) : Option Damage :=
  let r := reduction h reduce
  let whole (kind at_ : Nat) : Option Damage := some ⟨kind, at_, 0, 0, true⟩
  let image := cls != 5
  if !h.known then whole 6 h.syntaxAt
  else match h.unsupported with
    | some o => whole 10 o
    | none =>
      if cls = 4 && strict && decide (reduce < h.levels - 5) then whole 10 h.sizeAt
      else if image && decide (l.pixels < outWidth h r * outHeight h r) then whole 11 h.sizeAt
      else if !image && decide (l.audio < h.samples.getD i.dim0) then whole 11 h.sizeAt
      else if l.ratio * srcLen < outBytes f h i r then whole 13 h.sizeAt
      else if image && !(h.right - h.left == i.dim0 && h.bottom - h.top == i.dim1) then whole 12 h.sizeAt
      else if !image && !(h.channels == i.dim1 / 2 ^ 24 && h.rate == i.dim1 % 2 ^ 24 && h.samples.getD i.dim0 == i.dim0) then
        whole 12 h.sizeAt
      else none

/-- The status of R173. -/
def wortStatus (conceal : Bool) (d : Option Damage) : Nat :=
  match d with
  | none => stOK
  | some d =>
    if conceal then stCONCEALED
    else if d.kind = 4 ∨ d.kind = 11 ∨ d.kind = 12 ∨ d.kind = 13 then stLIMIT
    else stDAMAGED

/-! ## The wort record (R177) -/

/-- A wort record's fields beside those the item and descriptor give. -/
structure Wort where
  status : Nat
  damage : Option Damage
  lanes : Nat
  flags : Nat
  width : Nat
  height : Nat
  bytes : Nat
  pitch : Nat
  orient : Nat
  srcBits : Nat
  srcComps : Nat
  levels : Nat
  reduced : Nat
deriving DecidableEq, Repr

def Wort.record (w : Wort) (i : ItemView) (x : Taken) (gtc : Nat) : List Byte :=
  let d := w.damage.getD ⟨0, 0, 0, 0, false⟩
  leBytes 6 i.gsid ++ leBytes 1 w.status ++ leBytes 1 i.codec ++ leBytes 6 i.pos ++ leBytes 1 i.attempt ++ leBytes 1 d.kind
    ++ leBytes 4 (x.fieldAt 0x24 4) ++ leBytes 1 x.unit ++ leBytes 1 w.lanes ++ leBytes 1 (x.fieldAt 0x34 1) ++ leBytes 1 w.flags
    ++ leBytes 4 w.width ++ leBytes 4 w.height ++ leBytes 8 (x.fieldAt 0x28 8) ++ leBytes 4 w.bytes ++ leBytes 4 w.pitch
    ++ leBytes 8 d.offset ++ leBytes 4 d.unit ++ leBytes 4 d.units ++ leBytes 2 i.origin ++ leBytes 1 w.orient ++ leBytes 1 w.srcBits
    ++ leBytes 1 w.srcComps ++ leBytes 1 w.levels ++ leBytes 1 w.reduced ++ zeros 1 ++ leBytes 8 gtc ++ leBytes 8 i.crc
    ++ leBytes 4 (x.fieldAt 0x20 4) ++ zeros 36

/-- FLAGS of the record: EXTRA_IFD, WHOLE, REDUCED, ANIM_IGNORED, EXCESS. -/
def wortFlags (h : Headers) (whole reduced excess : Bool) : Nat :=
  h.extraIfd.toNat * 16 + whole.toNat * 8 + reduced.toNat * 4 + h.animIgnored.toNat * 2 + excess.toNat

/-- The whole-sample fill of R176: size in pixels or samples per channel. -/
def wholeSize (f outLen : Nat) (l : RingLimits) (i : ItemView) : Nat × Nat :=
  if fmtImage f then
    if i.dim0 ≠ 0 ∧ i.dim1 ≠ 0 ∧ i.dim0 * i.dim1 ≤ l.pixels ∧ pitchOf f i.dim0 * i.dim1 ≤ outLen then (i.dim0, i.dim1) else (1, 1)
  else
    let ch := i.dim1 / 2 ^ 24
    let n := if f = 0x23 then ch * alignUp (i.dim0 * 4) 64 else i.dim0 * ch * sampleBytes f
    if i.dim0 ≠ 0 ∧ i.dim1 ≠ 0 ∧ i.dim0 ≤ l.audio ∧ n ≤ outLen then (i.dim0, ch) else (0, ch)

/-- The bytes of a whole-sample fill. -/
def wholeFill (f w h : Nat) : List Byte :=
  if fmtImage f then packImage f w h (fun x _ => fillPixel f x)
  else if f = 0x23 then zeros (h * alignUp (w * 4) 64) else zeros (w * h * sampleBytes f)

/-- The codec table revision (R159). -/
def State.codecRevision (s : State) : Nat := natAt (s.reg GLB_DCLASS) 8 8

/-- The refusals of R157 that a mill makes before it reads the item. -/
def millRefusal (v : Variant) (cls f reduce : Nat) (strict pin : Bool) (unit codec : Nat) : Option Nat :=
  let listed := if cls = 5 then fmtAudio f else fmtImage f
  if !listed || (cls != 4 && (reduce != 0 || strict)) || decide (5 < reduce) then some stBAD_FORMAT
  else if pin && decide (Config.unitCount v cls ≤ unit) then some stBAD_UNIT
  else if !(if cls = 3 then decide (1 ≤ codec ∧ codec ≤ 3) else if cls = 4 then codec == 4 else decide (5 ≤ codec ∧ codec ≤ 8)) then
    some stWRONG_CODEC
  else none

/-- A mill's descriptor in work, of any mill class. -/
def State.millRunning (s : State) (c : CoreId) (t : Ticket) (opcode : Nat) : Option Taken :=
  match s.takenAt c t with
  | some x => if decide (3 ≤ x.cls ∧ x.cls ≤ 5) && descOpcode x.desc = opcode && x.result.isNone then some x else none
  | none => none

/-- Write the record and end the descriptor; the counters of R180 and R181. -/
def State.endMill (s : State) (x : Taken) (i : ItemView) (w : Wort) (outRun : List (Nat × Nat)) : State :=
  let d := w.damage.getD ⟨0, 0, 0, 0, false⟩
  let s := s.engineWrite x.cls (x.fieldAt 0x38 8) (w.record i x s.gtc.toNat)
  let s := s.count unitMIL 0 1
  let s := if w.status = stCONCEALED then (s.errAdd MIL_ERR_CNT_CONCEALED 1).count unitMIL 5 d.units
    else if w.status = stDAMAGED then s.errAdd MIL_ERR_CNT_DAMAGED 1 else s
  let s := if d.kind = 11 ∨ d.kind = 13 then s.errAdd MIL_ERR_CNT1_LIMIT 1
    else if d.kind = 10 then s.errAdd MIL_ERR_CNT1_UNSUPPORTED 1 else s
  s.finish x w.status (w.lanes % 256 * 256 + d.kind) outRun

/-- The record of a mill with no output. -/
def bareWort (lanes status : Nat) (d : Option Damage) (h : Headers) (width height reduced : Nat) : Wort :=
  { status := status, damage := d, lanes := lanes, flags := wortFlags h false (decide (reduced > 0)) false, width := width
    height := height, bytes := 0, pitch := 0, orient := h.orient, srcBits := h.srcBits
    srcComps := h.srcComps, levels := h.levels, reduced := reduced }

/-- A mill's end under whole damage (R173, R176). -/
def State.millWhole (s : State) (x : Taken) (i : ItemView) (h : Headers) (conceal : Bool) (l : RingLimits) (d : Damage)
    (probe : Bool) (lanes : Nat) : State :=
  let f := x.fieldAt 0x34 1
  let status := wortStatus conceal (some d)
  if conceal && !probe then
    let (w, ht) := wholeSize f (x.fieldAt 0x30 4) l i
    let bytes := wholeFill f w ht
    let image := fmtImage f
    let d := { d with units := if image then Config.wholeUnits i.codec w ht else w }
    let s := s.engineWrite x.cls (x.fieldAt 0x28 8) bytes
    let wort := { bareWort lanes status (some d) h w (if image then ht else i.dim1) 0 with
      flags := wortFlags h true false false, bytes := bytes.length, pitch := if image then pitchOf f w else 0 }
    s.endMill x i wort [(x.fieldAt 0x28 8, bytes.length)]
  else s.endMill x i (bareWort lanes status (some d) h 0 0 0) []

/-- The decode proper, once the headers pass: output, point damage and the record (R160, R171 to R175). -/
def State.millDecode (s : State) (x : Taken) (i : ItemView) (h : Headers) (conceal : Bool) (src : List Byte) (lane : Nat) : State :=
  let f := x.fieldAt 0x34 1
  let reduce := x.fieldAt 0x35 1 % 16
  let r := if x.cls = 4 then reduction h reduce else 0
  let image := fmtImage f
  let w := if image then outWidth h r else outSamples h i
  let ht := if image then outHeight h r else h.channels * 2 ^ 24 + h.rate
  let base := bareWort lane stOK none h w ht r
  let base := { base with flags := wortFlags h false (decide (reduce < r)) false, pitch := if image then pitchOf f w else 0 }
  if x.fieldAt 0x30 4 < outBytes f h i r then s.endMill x i { base with status := stOVERFLOW } []
  else
    let d := streamDecode i.codec s.codecRevision r i.dim0 src
    let cfg := BitVec.ofNat 32 x.millCfg
    let (used, cuts) := streamLanes (bitAt cfg 0) (natAt cfg 8 8) src
    let lanes := if i.codec = 1 then 2 ^ used - 1 else lane
    let (draw, s) := s.freshFree
    let s := (s.count unitMIL 3 src.length).count unitMIL 4 (if i.codec = 1 then draw % (cuts + 1) else 0)
    let damage : Option Damage := match d.damage with
      | some (k, o) => some ⟨k, o, if conceal then d.unit else 0, if conceal then d.units else 0, false⟩
      | none => if i.status = stDAMAGED then some ⟨1, allOnes64, 0, 0, false⟩ else none
    let status := wortStatus conceal damage
    let base := { base with
      damage := damage, lanes := lanes, flags := wortFlags h false (decide (reduce < r)) d.excess }
    if status = stDAMAGED then s.endMill x i { base with status := status } []
    else
      let comps := h.comps + h.alpha.toNat
      let bytes := if image then
          packImage f w ht (fun px y =>
            let k := y * w + px
            if d.lost.contains k then fillPixel f px
            else convertPixel h f ((List.range comps).map (fun c => (d.values.getD (k * comps + c) 0).toNat)))
        else packAudio f d h.bits h.channels w h.rate
      let s := if image then s.count unitMIL 1 (w * ht) else s.count unitMIL 2 (w * h.channels)
      let s := s.engineWrite x.cls (x.fieldAt 0x28 8) bytes
      let status := if status = stOK ∧ i.status = stSUBSTITUTED then stSUBSTITUTED else status
      s.endMill x i { base with status := status, bytes := bytes.length } [(x.fieldAt 0x28 8, bytes.length)]

/-- DECODE and PROBE up to the headers (R157, R168 to R173). -/
def State.millRun (s : State) (x : Taken) (probe : Bool) : State :=
  let f := x.fieldAt 0x34 1
  let reduce := x.fieldAt 0x35 1 % 16
  let opts := BitVec.ofNat 16 (x.fieldAt 0x36 2)
  let strict := bitAt opts 5
  let i := itemView (s.dramBytes (x.fieldAt 0x10 8) 64)
  let s := s.engineAccess x.cls false (x.fieldAt 0x10 8) 64
  match millRefusal s.part.variant x.cls f reduce strict (bitAt opts 7) (natAt opts 8 8) i.codec with
  | some code => (s.count unitMIL 0 1).finish x code 0 []
  | none =>
    let l := s.limitsOf x.cls x.ring
    let conceal := bitAt opts 6 || l.policy == 0
    let (draw, s) := s.freshFree
    let lane := if x.cls = 4 then draw % 256 else 2 ^ (draw % 8)
    match itemDamage i with
    | some d => s.millWhole x i default conceal l d probe lane
    | none =>
      let len := x.fieldAt 0x20 4
      let src := s.dramBytes (x.fieldAt 0x18 8) len
      let s := s.engineAccess x.cls false (x.fieldAt 0x18 8) len
      let h := streamHeaders i.codec src
      if f = 7 && !(h.bits == 1 && h.comps == 1) && h.known && h.unsupported.isNone then (s.count unitMIL 0 1).finish x stBAD_FORMAT 0 []
      else match headerDamage x.cls f reduce len strict l h i with
        | some d => s.millWhole x i h conceal l d probe lane
        | none =>
          if probe then
            let image := fmtImage f
            let r := if x.cls = 4 then reduction h reduce else 0
            let d : Option Damage := if i.status = stDAMAGED then some ⟨1, allOnes64, 0, 0, false⟩ else none
            let status := wortStatus conceal d
            let status := if status = stOK ∧ i.status = stSUBSTITUTED then stSUBSTITUTED else status
            let w := bareWort lane status d h (if image then outWidth h r else outSamples h i)
              (if image then outHeight h r else h.channels * 2 ^ 24 + h.rate) r
            s.endMill x i w []
          else s.millDecode x i h conceal src lane

/-- DECODE (R154 to R178). -/
def execDecode (c : CoreId) (t : Ticket) (s : State) : Res :=
  .next (match s.millRunning c t 0x01 with
    | some x => if s.engineRuns x.cls then s.millRun x false else s
    | none => s)

/-- PROBE (R156, R169 to R173, R177): the headers alone, and no output. -/
def execProbe (c : CoreId) (t : Ticket) (s : State) : Res :=
  .next (match s.millRunning c t 0x02 with
    | some x => if s.engineRuns x.cls then s.millRun x true else s
    | none => s)

end Sys2Proof.Machine
end

