-- ==== Sys2Proof/Machine/Lz4.lean ====
section
/-!
DEFINITION. The expansion of LZ4 frames (R182, R183, R193, R196), by the frame and block formats that R182 names, and the two
xxHash functions of R183.
-/

namespace Sys2Proof.Machine

/-! ## xxHash (R183) -/

/-- The primes of xxHash32 and xxHash64. -/
def xxPrimes32 : List Word32 := [2654435761, 2246822519, 3266489917, 668265263, 374761393]
def xxPrimes64 : List Word64 :=
  [11400714785074694791, 14029467366897019727, 1609587929392839161, 9650029242287828579, 2870177450012600261]

/-- Mix one lane of xxHash. -/
def xxRound {n : Nat} (p1 p2 : BitVec n) (r : Nat) (acc lane : BitVec n) : BitVec n := (acc + lane * p2).rotateLeft r * p1

/-- The four lanes of xxHash over whole stripes of four words of `w` bytes. -/
def xxLanes {n : Nat} (p1 p2 : BitVec n) (r w : Nat) (bs : List Byte) : List (BitVec n) :=
  (List.range 4).map (fun k =>
    (List.range (bs.length / (4 * w))).foldl (fun acc i => xxRound p1 p2 r acc (BitVec.ofNat n (leAt bs (4 * w * i + w * k) w)))
      ([p1 + p2, p2, 0, 0 - p1].getD k 0))

/-- xxHash32 with seed 0. -/
def xxHash32 (bs : List Byte) : Nat :=
  let p (i : Nat) : Word32 := nth 0 xxPrimes32 (i - 1)
  let len := bs.length
  let lanes := xxLanes (p 1) (p 2) 13 4 bs
  let h : Word32 := if 16 ≤ len then
      (lanes.zip [1, 7, 12, 18]).foldl (fun acc e => acc + e.1.rotateLeft e.2) 0
    else p 5
  let h := h + BitVec.ofNat 32 len
  let tail := bs.drop (len / 16 * 16)
  let h := (List.range (tail.length / 4)).foldl (fun h i => (h + BitVec.ofNat 32 (leAt tail (4 * i) 4) * p 3).rotateLeft 17 * p 4) h
  let h := (tail.drop (tail.length / 4 * 4)).foldl (fun h b => (h + b.setWidth 32 * p 5).rotateLeft 11 * p 1) h
  let h := (h ^^^ (h >>> 15)) * p 2
  let h := (h ^^^ (h >>> 13)) * p 3
  (h ^^^ (h >>> 16)).toNat

/-- xxHash64 with seed 0. -/
def xxHash64 (bs : List Byte) : Nat :=
  let p (i : Nat) : Word64 := nth 0 xxPrimes64 (i - 1)
  let len := bs.length
  let lanes := xxLanes (p 1) (p 2) 31 8 bs
  let mixed (lane : Word64) : Word64 := xxRound (p 1) (p 2) 31 0 lane
  let h : Word64 := if 32 ≤ len then
      let sum := (lanes.zip [1, 7, 12, 18]).foldl (fun acc e => acc + e.1.rotateLeft e.2) 0
      lanes.foldl (fun h lane => (h ^^^ mixed lane) * p 1 + p 4) sum
    else p 5
  let h := h + BitVec.ofNat 64 len
  let tail := bs.drop (len / 32 * 32)
  let h := (List.range (tail.length / 8)).foldl (fun h i =>
    (h ^^^ mixed (BitVec.ofNat 64 (leAt tail (8 * i) 8))).rotateLeft 27 * p 1 + p 4) h
  let tail := tail.drop (tail.length / 8 * 8)
  let h := (List.range (tail.length / 4)).foldl (fun h i =>
    (h ^^^ (BitVec.ofNat 64 (leAt tail (4 * i) 4) * p 1)).rotateLeft 23 * p 2 + p 3) h
  let h := (tail.drop (tail.length / 4 * 4)).foldl (fun h b => (h ^^^ (b.setWidth 64 * p 5)).rotateLeft 11 * p 1) h
  let h := (h ^^^ (h >>> 33)) * p 2
  let h := (h ^^^ (h >>> 29)) * p 3
  (h ^^^ (h >>> 32)).toNat

/-! ## Blocks -/

/-- A length whose nibble is 15 goes on in bytes up to one below 255. -/
def lz4Length (stop : StreamDamage) (nibble : Nat) : List Byte → Nat → Except StreamDamage (Nat × List Byte × Nat)
  | bs, at_ => if nibble < 15 then .ok (nibble, bs, at_) else more 15 bs at_
where
  more (acc : Nat) : List Byte → Nat → Except StreamDamage (Nat × List Byte × Nat)
    | [], _ => .error stop
    | b :: bs, at_ => if b = 255 then more (acc + 255) bs (at_ + 1) else .ok (acc + b.toNat, bs, at_ + 1)

/-- Bytes taken as they stand, from offset `at_`: output past a bound stops at the byte that would produce it. -/
def Sink.raw (o : Sink) (limit : Option Nat) (at_ : Nat) (bs : List Byte) : Sink × Option StreamDamage :=
  match limit with
  | some l => if l < o.made + bs.length then (o.add (bs.take (l - o.made)), some (12, at_ + (l - o.made))) else (o.add bs, none)
  | none => (o.add bs, none)

/-- The sequences of a block. `stop` is the damage of a block that ends within one, and `top` the output the block may reach. -/
def lz4Sequences (limit : Option Nat) (top : Nat) (cut : Bool) (stop : StreamDamage) :
    Nat → List Byte → Nat → Sink → Sink × Option StreamDamage
  | 0, _, _, o => (o, some stop)
  | fuel + 1, bs, at_, o =>
    match bs with
    | [] => (o, some stop)
    | token :: bs =>
      match lz4Length stop (token.toNat / 16) bs (at_ + 1) with
      | .error e => (o, some e)
      | .ok (n, bs, p) =>
        if top < o.made + min n bs.length then (o, some (7, at_))
        else match o.raw limit p (bs.take n) with
          | (o, some e) => (o, some e)
          | (o, none) =>
            if bs.length < n then (o, some stop)
            else
              let bs := bs.drop n
              let p := p + n
              if bs = [] then (o, if cut then some stop else none)
              else if bs.length < 2 then (o, some stop)
              else
                let d := leAt bs 0 2
                match lz4Length stop (token.toNat % 16) (bs.drop 2) (p + 2) with
                | .error e => (o, some e)
                | .ok (m, bs, q) =>
                  if d = 0 ∨ o.held < d then (o, some (7, p))
                  else if top < o.made + (m + 4) then (o, some (7, p))
                  else if o.full limit (m + 4) then (o, some (12, p))
                  else lz4Sequences limit top cut stop fuel bs q (o.copy d (m + 4))

/-! ## Frames -/

/-- What a frame's header says. -/
structure Lz4Frame where
  independent : Bool
  blockCheck : Bool
  contentCheck : Bool
  size : Option Nat
  blockMax : Nat
  dictId : Option Nat
  /-- Where its first block begins. -/
  body : Nat
deriving DecidableEq, Repr

/-- The bytes of a skippable frame. -/
def skippable (data : List Byte) (at_ : Nat) : Option Nat :=
  if leAt data at_ 4 / 16 = 0x0184D2A5 then some (8 + leAt data (at_ + 4) 4) else none

/-- The header of the frame at an offset. -/
def lz4Header (data : List Byte) (at_ : Nat) : Except StreamDamage Lz4Frame :=
  let n := data.length
  let magic := leAt data at_ 4
  let flg := leAt data (at_ + 4) 1
  let bd := leAt data (at_ + 5) 1
  let sized := flg / 8 % 2
  let named := flg % 2
  let sum := at_ + 6 + 8 * sized + 4 * named
  if n < at_ + 4 then .error (9, n)
  else if magic = 0x184C2102 then .error (10, at_)
  else if magic ≠ 0x184D2204 then .error (6, at_)
  else if n < at_ + 6 then .error (9, n)
  else if flg / 64 ≠ 1 ∨ flg / 2 % 2 = 1 then .error (6, at_ + 4)
  else if 128 ≤ bd ∨ bd % 16 ≠ 0 ∨ bd / 16 < 4 then .error (6, at_ + 5)
  else if n < sum + 1 then .error (9, n)
  else if xxHash32 (sliceOf (at_ + 4) (sum - (at_ + 4)) data) / 256 % 256 ≠ leAt data sum 1 then .error (8, sum)
  else .ok { independent := flg / 32 % 2 == 1, blockCheck := flg / 16 % 2 == 1, contentCheck := flg / 4 % 2 == 1
             size := if sized = 1 then some (leAt data (at_ + 6) 8) else none, blockMax := 2 ^ (8 + 2 * (bd / 16))
             dictId := if named = 1 then some (leAt data (at_ + 6 + 8 * sized) 4) else none, body := sum + 1 }

/-- The blocks of a frame, and where it ends. -/
def lz4Blocks (data dict : List Byte) (f : Lz4Frame) (limit : Option Nat) : Nat → Nat → Sink → Sink × Nat × Option StreamDamage
  | 0, at_, o => (o, at_, some (9, data.length))
  | fuel + 1, at_, o =>
    let n := data.length
    if n < at_ + 4 then (o, at_, some (9, n))
    else
      let word := leAt data at_ 4
      let len := word % 2 ^ 31
      if word = 0 then (o, at_ + 4, none)
      else if f.blockMax < len then (o, at_, some (6, at_))
      else
        let bs := sliceOf (at_ + 4) len data
        let cut := decide (bs.length < len)
        let o := if f.independent then { Sink.after dict o.made with blocks := o.blocks } else o
        let (o', d) :=
          if word < 2 ^ 31 then
            lz4Sequences limit (o.made + f.blockMax) cut (if cut then (9, n) else (7, at_ + 4 + len)) (bs.length + 1) bs (at_ + 4) o
          else match o.raw limit (at_ + 4) bs with
            | (o, none) => (o, if cut then some (9, n) else none)
            | r => r
        match d with
        | some d => (o', at_, some d)
        | none =>
          let q := at_ + 4 + len
          let next := q + 4 * f.blockCheck.toNat
          if n < next then (o', at_, some (9, n))
          else if f.blockCheck && xxHash32 bs != leAt data q 4 then (o', at_, some (8, q))
          else lz4Blocks data dict f limit fuel next (o'.close o.made)

/-- The least of two bounds. -/
def tighter (a b : Option Nat) : Option Nat :=
  match a, b with
  | some x, some y => some (min x y)
  | some x, none => some x
  | none, b => b

/-- The frames of a stream from an offset. -/
def lz4Frames (data dict : List Byte) (limit : Option Nat) : Nat → Nat → List (List Byte) → Nat → Nat → Expanded
  | 0, at_, done, made, check => damaged done made check (9, at_)
  | fuel + 1, at_, done, made, check =>
    let n := data.length
    match skippable data at_ with
    | some len =>
      if n < at_ + len then damaged done made check (9, n)
      else if n = at_ + len then ⟨done, made, none, none, n, check⟩
      else lz4Frames data dict limit fuel (at_ + len) done made check
    | none =>
      match lz4Header data at_ with
      | .error d => damaged done made check d
      | .ok f =>
        if f.dictId.isSome && dict.isEmpty then damaged done made check (12, at_)
        else
          let (o, q, d) := lz4Blocks data dict f (tighter limit (f.size.map (· + made))) (n + 1) f.body (Sink.after dict made)
          let blocks := done ++ o.blocks.reverse
          match d with
          | some d => damaged blocks o.made check d
          | none =>
            let found := if f.contentCheck then leAt data q 4 else check
            let next := q + 4 * f.contentCheck.toNat
            if n < next then damaged blocks o.made check (9, n)
            else if f.contentCheck && xxHash32 o.blocks.reverse.flatten != found then damaged blocks o.made found (8, q)
            else if f.size.any (fun z => decide (o.made - made < z)) then damaged blocks o.made found (12, next)
            else if n = next then ⟨blocks, o.made, none, none, n, found⟩
            else lz4Frames data dict limit fuel next blocks o.made found

/-- One past the end mark of a frame, by its blocks' lengths. -/
def lz4Skip (data : List Byte) (f : Lz4Frame) : Nat → Nat → Option Nat
  | 0, _ => none
  | fuel + 1, at_ =>
    let word := leAt data at_ 4
    if data.length < at_ + 4 then none
    else if word = 0 then some (at_ + 4 + 4 * f.contentCheck.toNat)
    else lz4Skip data f fuel (at_ + 4 + word % 2 ^ 31 + 4 * f.blockCheck.toNat)

/-- The sum of the frames' content sizes, where every frame declares one (R191). -/
def lz4Declared (data : List Byte) : Nat → Nat → Nat → Option Nat
  | 0, _, _ => none
  | fuel + 1, at_, sum =>
    if data.length = at_ ∧ 0 < at_ then some sum
    else match skippable data at_ with
      | some len => lz4Declared data fuel (at_ + len) sum
      | none =>
        match lz4Header data at_ with
        | .error _ => none
        | .ok f =>
          match f.size, lz4Skip data f (data.length + 1) f.body with
          | some z, some next => lz4Declared data fuel next (sum + z)
          | _, _ => none

/-- LZ4 frames. -/
def expandLz4 (data dict : List Byte) (limit : Option Nat) : Expanded :=
  { lz4Frames data dict limit (data.length + 1) 0 [] 0 0 with declared := lz4Declared data (data.length + 1) 0 0 }

end Sys2Proof.Machine
end

