-- ==== Sys2Proof/Machine/Zstd.lean ====
section
/-!
DEFINITION. The expansion of Zstandard frames (R182, R183, R193, R196), by RFC 8878, which R182 names.
-/

namespace Sys2Proof.Machine

/-! ## Bits read from the end of a run -/

/-- What is left of a run read backwards: its bits, highest first, their number, and the offset of the run. -/
structure BackBits where
  bits : List Bool
  left : Nat
  base : Nat
deriving DecidableEq, Repr

/-- The offset of the byte that holds the next bit. -/
def BackBits.offset (b : BackBits) : Nat := b.base + (b.left - 1) / 8

/-- A run read backwards from below the mark in its last byte. -/
def backBits (bs : List Byte) (base : Nat) : Except StreamDamage BackBits :=
  if bs.getLastD 0 = 0 then .error (7, base + (bs.length - 1))
  else
    let bits := ((bitsOf bs).reverse.dropWhile (fun b => !b)).drop 1
    .ok ⟨bits, bits.length, base⟩

/-- The next `n` bits as a number, the first the most significant. -/
def takeBack : Nat → Nat → List Bool → Option (Nat × List Bool)
  | 0, v, bs => some (v, bs)
  | _ + 1, _, [] => none
  | n + 1, v, b :: bs => takeBack n (2 * v + b.toNat) bs

/-- The next `n` bits with zeros past the end. -/
def peekBack : Nat → Nat → List Bool → Nat
  | 0, v, _ => v
  | n + 1, v, [] => peekBack n (2 * v) []
  | n + 1, v, b :: bs => peekBack n (2 * v + b.toNat) bs

/-- Read `n` bits; a run that ends first is ENTROPY at the element. -/
def BackBits.read (b : BackBits) (n : Nat) : Except StreamDamage (Nat × BackBits) :=
  match takeBack n 0 b.bits with
  | some (v, bits) => .ok (v, { b with bits := bits, left := b.left - n })
  | none => .error (7, b.offset)

/-! ## Finite-state tables -/

/-- One state: its symbol, and how the next one is found. -/
structure FseCell where
  sym : Nat
  bits : Nat
  base : Nat
deriving DecidableEq, Repr, Inhabited

/-- A table of 2^log states. -/
structure FseTable where
  log : Nat
  cells : Array FseCell
deriving DecidableEq, Repr

/-- The table of a distribution; −1 stands for a probability below one. -/
def fseTable (log : Nat) (probs : List Int) : FseTable :=
  let size := 2 ^ log
  let ps := probs.zipIdx
  let low := (ps.filter (fun e => e.1 == -1)).map (·.2)
  let step := size / 2 + size / 8 + 3
  let order := ((List.range size).map (fun i => i * step % size)).filter (fun i => decide (i < size - low.length))
  let spread := ps.flatMap (fun e => List.replicate e.1.toNat e.2)
  let placed := (order.zip spread) ++ low.zipIdx.map (fun e => (size - 1 - e.2, e.1))
  let syms := placed.foldl (fun (a : Array Nat) e => a.setIfInBounds e.1 e.2) (Array.replicate size 0)
  let seen := (probs.map (fun p => if p = -1 then 1 else p.toNat)).toArray
  let (cells, _) := syms.foldl (fun (acc : Array FseCell × Array Nat) s =>
    let x := acc.2.getD s 1
    let nb := log - Nat.log2 x
    (acc.1.push ⟨s, nb, x * 2 ^ nb - size⟩, acc.2.setIfInBounds s (x + 1))) ((#[] : Array FseCell), seen)
  ⟨log, cells⟩

/-- The table of one symbol. -/
def fseOne (sym : Nat) : FseTable := ⟨0, #[⟨sym, 0, 0⟩]⟩

/-- Runs of symbols of probability 0 (two bits a run, 3 goes on). -/
def fseZeros : Nat → List Int → BitCursor → Except StreamDamage (List Int × BitCursor)
  | 0, acc, c => .ok (acc, c)
  | fuel + 1, acc, c => do
    let (n, c) ← c.read 2
    if n = 3 then fseZeros fuel (0 :: 0 :: 0 :: acc) c else return (List.replicate n 0 ++ acc, c)

/-- The probabilities of a table description, newest first. -/
def fseProbs (top : Nat) : Nat → Nat → List Int → BitCursor → Except StreamDamage (List Int × BitCursor)
  | 0, _, acc, c => .ok (acc, c)
  | fuel + 1, left, acc, c =>
    if left = 0 then .ok (acc, c)
    else if top < acc.length then .error (6, c.pos / 8)
    else do
      let w := Nat.log2 (left + 1)
      let spare := 2 ^ (w + 1) - 2 - left
      let (v, c') ← c.read w
      let (v, c) ← if v < spare then pure (v, c') else do
        let (b, c) ← c'.read 1
        pure (if b = 1 then v + 2 ^ w - spare else v, c)
      let p : Int := (v : Int) - 1
      let (acc, c) ← if v = 1 then fseZeros 256 (p :: acc) c else pure (p :: acc, c)
      fseProbs top fuel (left - (if v = 0 then 1 else v - 1)) acc c

/-- A table description at the start of a run at `at_`: the table, and the bytes it takes. -/
def fseDescription (maxLog top : Nat) (bs : List Byte) (at_ : Nat) : Except StreamDamage (FseTable × Nat) :=
  let r : Except StreamDamage (FseTable × Nat) := do
    let (l, c) ← (BitCursor.mk (bitsOf bs) 0).read 4
    let log := l + 5
    if maxLog < log then throw (6, 0)
    let (acc, c) ← fseProbs top 600 (2 ^ log) [] c
    if top + 1 < acc.length then throw (6, 0)
    return (fseTable log acc.reverse, (c.pos + 7) / 8)
  match r with
  | .ok v => .ok v
  | .error _ => .error (6, at_)

/-! ## Literals -/

/-- A Huffman table of 2^log cells: symbol and bits. -/
structure HuffTable where
  log : Nat
  cells : Array (Nat × Nat)
deriving DecidableEq, Repr

/-- The table of the weights given, the last symbol's weight implied. -/
def huffTable (ws : List Nat) : Option HuffTable :=
  let sum := ws.foldl (fun n w => n + 2 ^ w / 2) 0
  let log := Nat.log2 sum + 1
  let left := 2 ^ log - sum
  if sum = 0 ∨ 11 < log ∨ 2 ^ Nat.log2 left ≠ left ∨ 255 < ws.length then none
  else
    let all := (ws ++ [Nat.log2 left + 1]).zipIdx
    some ⟨log, ((List.range log).flatMap (fun k =>
      (all.filter (fun e => e.1 == k + 1)).flatMap (fun e => List.replicate (2 ^ k) (e.2, log - k)))).toArray⟩

/-- The weights that two interleaved states give. -/
def weightPairs (t : FseTable) : Nat → Nat → Nat → List Bool → List Nat → Option (List Nat)
  | 0, _, _, _, _ => none
  | fuel + 1, a, b, bits, acc =>
    let cell := t.cells.getD a default
    match takeBack cell.bits 0 bits with
    | none => some ((t.cells.getD b default).sym :: cell.sym :: acc).reverse
    | some (v, bits) => weightPairs t fuel b (cell.base + v) bits (cell.sym :: acc)

/-- A Huffman tree description at the start of a run at `at_`: the table, and the bytes it takes. -/
def huffDescription (bs : List Byte) (at_ : Nat) : Except StreamDamage (HuffTable × Nat) :=
  let bad : StreamDamage := (6, at_)
  let h := leAt bs 0 1
  let n := if 128 ≤ h then (h - 127 + 1) / 2 else h
  if bs.length < 1 + n then .error bad
  else if 128 ≤ h then
    let ws := ((sliceOf 1 n bs).flatMap (fun b => [b.toNat / 16, b.toNat % 16])).take (h - 127)
    (huffTable ws).elim (.error bad) (fun t => .ok (t, 1 + n))
  else
    let run := sliceOf 1 n bs
    match fseDescription 6 255 run (at_ + 1) with
    | .error _ => .error bad
    | .ok (t, k) =>
      match backBits (run.drop k) 0 with
      | .error _ => .error bad
      | .ok b =>
        let ws := (takeBack t.log 0 b.bits).bind (fun x => (takeBack t.log 0 x.2).bind (fun y => weightPairs t 255 x.1 y.1 y.2 []))
        match ws.bind huffTable with
        | some t => .ok (t, 1 + n)
        | none => .error bad

/-- Literals with the offsets they come from. -/
abbrev Literals := List (Nat × Byte)

/-- `n` symbols of a stream, newest first. -/
def huffSymbols (t : HuffTable) : Nat → BackBits → Literals → Except StreamDamage Literals
  | 0, b, acc => if b.left = 0 then .ok acc else .error (7, b.offset)
  | n + 1, b, acc =>
    let (sym, nb) := t.cells.getD (peekBack t.log 0 b.bits) (0, 0)
    if b.left < nb then .error (7, b.offset)
    else huffSymbols t n { b with bits := b.bits.drop nb, left := b.left - nb } ((b.offset, BitVec.ofNat 8 sym) :: acc)

/-- One Huffman stream of `n` literals. -/
def huffStream (t : HuffTable) (bs : List Byte) (at_ n : Nat) : Except StreamDamage Literals := do
  let b ← backBits bs at_
  let acc ← huffSymbols t n b []
  return acc.reverse

/-- The literals of a block, the table kept for later blocks, and the bytes the section takes. -/
def literalsSection (huff : Option HuffTable) (bs : List Byte) (at_ : Nat) : Except StreamDamage (Literals × Option HuffTable × Nat) :=
  let bad : StreamDamage := (6, at_)
  let kind := leAt bs 0 1 % 4
  let form := leAt bs 0 1 / 4 % 4
  if kind < 2 then
    let head := if form % 2 = 0 then 1 else if form = 1 then 2 else 3
    let n := leAt bs 0 head / (if form % 2 = 0 then 8 else 16)
    let body := if kind = 0 then n else 1
    if bs.length < head + body ∨ 131072 < n then .error bad
    else if kind = 0 then .ok (((sliceOf head n bs).zipIdx).map (fun e => (at_ + head + e.2, e.1)), huff, head + n)
    else .ok (List.replicate n (at_ + head, bs.getD head 0), huff, head + 1)
  else
    let head := if form ≤ 1 then 3 else if form = 2 then 4 else 5
    let w := if form ≤ 1 then 10 else if form = 2 then 14 else 18
    let word := leAt bs 0 head / 16
    let n := word % 2 ^ w
    let len := word / 2 ^ w
    if bs.length < head + len ∨ 131072 < n then .error bad
    else do
      let run := sliceOf head len bs
      let (t, k) ← if kind = 2 then huffDescription run (at_ + head) else huff.elim (throw bad) (fun t => pure (t, 0))
      let body := run.drop k
      let p := at_ + head + k
      if form = 0 then
        let ls ← huffStream t body p n
        return (ls, some t, head + len)
      else
        let a := leAt body 0 2
        let b := leAt body 2 2
        let c := leAt body 4 2
        let each := (n + 3) / 4
        if body.length < 6 + a + b + c ∨ n < 3 * each then throw bad
        let l1 ← huffStream t (sliceOf 6 a body) (p + 6) each
        let l2 ← huffStream t (sliceOf (6 + a) b body) (p + 6 + a) each
        let l3 ← huffStream t (sliceOf (6 + a + b) c body) (p + 6 + a + b) each
        let l4 ← huffStream t (body.drop (6 + a + b + c)) (p + 6 + a + b + c) (n - 3 * each)
        return (l1 ++ l2 ++ l3 ++ l4, some t, head + len)

/-! ## Sequences -/

def literalCodes : List (Nat × Nat) :=
  (List.range 16).map (fun i => (i, 0)) ++ [(16, 1), (18, 1), (20, 1), (22, 1), (24, 2), (28, 2), (32, 3), (40, 3), (48, 4), (64, 6),
    (128, 7), (256, 8), (512, 9), (1024, 10), (2048, 11), (4096, 12), (8192, 13), (16384, 14), (32768, 15), (65536, 16)]

def matchCodes : List (Nat × Nat) :=
  (List.range 32).map (fun i => (i + 3, 0)) ++ [(35, 1), (37, 1), (39, 1), (41, 1), (43, 2), (47, 2), (51, 3), (59, 3), (67, 4),
    (83, 4), (99, 5), (131, 7), (259, 8), (515, 9), (1027, 10), (2051, 11), (4099, 12), (8195, 13), (16387, 14), (32771, 15), (65539, 16)]

/-- The predefined tables. -/
def literalDefault : FseTable := fseTable 6
  ([4, 3] ++ List.replicate 11 2 ++ [1, 1, 1] ++ List.replicate 9 2 ++ [3, 2, 1, 1, 1, 1, 1, -1, -1, -1, -1])
def matchDefault : FseTable := fseTable 6
  ([1, 4, 3] ++ List.replicate 6 2 ++ List.replicate 37 1 ++ List.replicate 7 (-1))
def offsetDefault : FseTable := fseTable 5
  ([1, 1, 1, 1, 1, 1, 2, 2, 2] ++ List.replicate 15 1 ++ List.replicate 5 (-1))

/-- The tables and offsets a frame carries from block to block. -/
structure ZstdCarry where
  huff : Option HuffTable
  lit : Option FseTable
  off : Option FseTable
  mat : Option FseTable
  rep : Nat × Nat × Nat
deriving DecidableEq, Repr

/-- A table by its mode: the table, and the bytes its description takes. -/
def seqTable (mode : Nat) (dflt : FseTable) (prev : Option FseTable) (maxLog top : Nat) (bs : List Byte) (at_ : Nat) :
    Except StreamDamage (FseTable × Nat) :=
  match mode with
  | 0 => .ok (dflt, 0)
  | 1 => if bs = [] ∨ top < leAt bs 0 1 then .error (6, at_) else .ok (fseOne (leAt bs 0 1), 1)
  | 2 => fseDescription maxLog top bs at_
  | _ => prev.elim (.error (6, at_)) (fun t => .ok (t, 0))

/-- The offset a sequence means, and the offsets carried on; 0 is malformed. -/
def seqOffset (rep : Nat × Nat × Nat) (value lits : Nat) : Nat × (Nat × Nat × Nat) :=
  let (a, b, c) := rep
  if 3 < value then (value - 3, (value - 3, a, b))
  else match value + (if lits = 0 then 1 else 0) with
    | 1 => (a, (a, b, c))
    | 2 => (b, (b, a, c))
    | 3 => (c, (c, a, b))
    | _ => (a - 1, (a - 1, a, b))

/-- Append literals; output past a bound stops at the literal's byte. -/
def Sink.literals (o : Sink) (limit : Option Nat) (ls : Literals) : Sink × Option StreamDamage :=
  match limit with
  | some l =>
    if l < o.made + ls.length then
      (o.add ((ls.take (l - o.made)).map (·.2)), some (12, ((ls.drop (l - o.made)).headD (0, 0)).1))
    else (o.add (ls.map (·.2)), none)
  | none => (o.add (ls.map (·.2)), none)

/-- The states of the three tables. -/
structure SeqStates where
  lit : Nat
  off : Nat
  mat : Nat
deriving DecidableEq, Repr

/-- What one sequence says: literals to append, the offset value and the match length. -/
def readSequence (tl tOff tm : FseTable) (st : SeqStates) (b : BackBits) : Except StreamDamage (Nat × Nat × Nat × BackBits) := do
  let oc := (tOff.cells.getD st.off default).sym
  let (lb, lx) := literalCodes.getD (tl.cells.getD st.lit default).sym (0, 0)
  let (mb, mx) := matchCodes.getD (tm.cells.getD st.mat default).sym (0, 0)
  let (x, b) ← b.read oc
  let (m, b) ← b.read mx
  let (l, b) ← b.read lx
  return (lb + l, 2 ^ oc + x, mb + m, b)

/-- The next states. -/
def nextStates (tl tOff tm : FseTable) (st : SeqStates) (b : BackBits) : Except StreamDamage (SeqStates × BackBits) := do
  let cl := tl.cells.getD st.lit default
  let co := tOff.cells.getD st.off default
  let cm := tm.cells.getD st.mat default
  let (l, b) ← b.read cl.bits
  let (m, b) ← b.read cm.bits
  let (o, b) ← b.read co.bits
  return (⟨cl.base + l, co.base + o, cm.base + m⟩, b)

/-- Carry out `n` sequences: output at most `top` bytes. -/
def runSequences (tl tOff tm : FseTable) (limit : Option Nat) (top : Nat) :
    Nat → SeqStates → BackBits → Literals → (Nat × Nat × Nat) → Sink → Sink × Literals × (Nat × Nat × Nat) × Option StreamDamage
  | 0, _, b, ls, rep, o => (o, ls, rep, if b.left = 0 then none else some (7, b.offset))
  | n + 1, st, b, ls, rep, o =>
    match readSequence tl tOff tm st b with
    | .error e => (o, ls, rep, some e)
    | .ok (lits, value, len, b') =>
      let (dist, rep') := seqOffset rep value lits
      if ls.length < lits ∨ top < o.made + lits + len then (o, ls, rep, some (7, b.offset))
      else match o.literals limit (ls.take lits) with
        | (o, some e) => (o, ls, rep, some e)
        | (o, none) =>
          if dist = 0 ∨ o.held < dist then (o, ls, rep, some (7, b.offset))
          else if o.full limit len then (o, ls, rep, some (12, b.offset))
          else
            let o := o.copy dist len
            if n = 0 then runSequences tl tOff tm limit top 0 st b' (ls.drop lits) rep' o
            else match nextStates tl tOff tm st b' with
              | .error e => (o, ls, rep, some e)
              | .ok (st, b') => runSequences tl tOff tm limit top n st b' (ls.drop lits) rep' o

/-- The tables, first states and bits of a block's sequences: their number and all they need. -/
def sequencesHead (z : ZstdCarry) (bs : List Byte) (at_ : Nat) : Except StreamDamage (Nat × Option (ZstdCarry × FseTable × FseTable × FseTable × SeqStates × BackBits)) := do
  let bad : StreamDamage := (6, at_)
  let b0 := leAt bs 0 1
  let head := if b0 < 128 then 1 else if b0 < 255 then 2 else 3
  let n := if b0 < 128 then b0 else if b0 < 255 then (b0 - 128) * 256 + leAt bs 1 1 else leAt bs 1 2 + 0x7F00
  if bs.length < head then throw bad
  else if n = 0 then (if bs.length = head then return (0, none) else throw bad)
  else
    let modes := leAt bs head 1
    if bs.length < head + 1 ∨ modes % 4 ≠ 0 then throw (6, at_ + head)
    let p := head + 1
    let (tl, k) ← seqTable (modes / 64) literalDefault z.lit 9 35 (bs.drop p) (at_ + p)
    let p := p + k
    let (tOff, k) ← seqTable (modes / 16 % 4) offsetDefault z.off 8 31 (bs.drop p) (at_ + p)
    let p := p + k
    let (tm, k) ← seqTable (modes / 4 % 4) matchDefault z.mat 9 52 (bs.drop p) (at_ + p)
    let p := p + k
    let b ← backBits (bs.drop p) (at_ + p)
    let (l, b) ← b.read tl.log
    let (o, b) ← b.read tOff.log
    let (m, b) ← b.read tm.log
    return (n, some ({ z with lit := some tl, off := some tOff, mat := some tm }, tl, tOff, tm, ⟨l, o, m⟩, b))

/-- A compressed block that is there whole. -/
def zstdBlock (limit : Option Nat) (top : Nat) (z : ZstdCarry) (bs : List Byte) (at_ : Nat) (o : Sink) :
    Sink × ZstdCarry × Option StreamDamage :=
  match literalsSection z.huff bs at_ with
  | .error e => (o, z, some e)
  | .ok (ls, huff, k) =>
    let z := { z with huff := huff }
    match sequencesHead z (bs.drop k) (at_ + k) with
    | .error e => (o, z, some e)
    | .ok (_, none) =>
      if top < o.made + ls.length then (o, z, some (7, at_))
      else
        let (o, d) := o.literals limit ls
        (o, z, d)
    | .ok (n, some (z, tl, tOff, tm, st, b)) =>
      match runSequences tl tOff tm limit top n st b ls z.rep o with
      | (o, _, _, some e) => (o, z, some e)
      | (o, ls, rep, none) =>
        if top < o.made + ls.length then (o, z, some (7, at_ + k))
        else
          let (o, d) := o.literals limit ls
          (o, { z with rep := rep }, d)

/-! ## Frames -/

/-- What a frame's header says. -/
structure ZstdFrame where
  window : Nat
  size : Option Nat
  checksum : Bool
  dictId : Nat
  body : Nat
deriving DecidableEq, Repr

/-- The header of the frame at an offset. -/
def zstdHeader (data : List Byte) (at_ : Nat) : Except StreamDamage ZstdFrame :=
  let n := data.length
  let fhd := leAt data (at_ + 4) 1
  let single := fhd / 32 % 2
  let p := at_ + 5
  let wd := leAt data p 1
  let window := 2 ^ (10 + wd / 8) + 2 ^ (10 + wd / 8) / 8 * (wd % 8)
  let q := p + (1 - single)
  let dl := [0, 1, 2, 4].getD (fhd % 4) 0
  let fl := [single, 2, 4, 8].getD (fhd / 64) 0
  let size := leAt data (q + dl) fl + (if fl = 2 then 256 else 0)
  if n < at_ + 4 then .error (9, n)
  else if leAt data at_ 4 ≠ 0xFD2FB528 then .error (6, at_)
  else if n < at_ + 5 then .error (9, n)
  else if fhd / 8 % 2 = 1 then .error (6, at_ + 4)
  else if n < q + dl + fl then .error (9, n)
  else
    let w := if single = 1 then size else window
    if 2 ^ 31 < w then .error (10, if single = 1 then q + dl else p)
    else .ok ⟨w, if fl = 0 then none else some size, fhd / 4 % 2 == 1, leAt data q dl, q + dl + fl⟩

/-- A dictionary in the format of RFC 8878: its ID, its tables and offsets, and its content. -/
structure ZstdDict where
  id : Nat
  carry : ZstdCarry
  content : List Byte
deriving DecidableEq, Repr

/-- What a frame without dictionary begins with. -/
def freshCarry : ZstdCarry := ⟨none, none, none, none, (1, 4, 8)⟩

/-- A dictionary's bytes; without the magic number they are content alone. -/
def zstdDict (bs : List Byte) : Except StreamDamage ZstdDict :=
  if leAt bs 0 4 ≠ 0xEC30A437 then .ok ⟨0, freshCarry, bs⟩
  else do
    let (h, a) ← huffDescription (bs.drop 8) 8
    let p := 8 + a
    let (o, a) ← fseDescription 8 31 (bs.drop p) p
    let p := p + a
    let (m, a) ← fseDescription 9 52 (bs.drop p) p
    let p := p + a
    let (l, a) ← fseDescription 9 35 (bs.drop p) p
    let p := p + a
    return ⟨leAt bs 4 4, ⟨some h, some l, some o, some m, (leAt bs p 4, leAt bs (p + 4) 4, leAt bs (p + 8) 4)⟩, bs.drop (p + 12)⟩

/-- The blocks of a frame, and where they end. -/
def zstdBlocks (data : List Byte) (blockMax : Nat) (limit : Option Nat) :
    Nat → Nat → ZstdCarry → Sink → Sink × Nat × Option StreamDamage
  | 0, at_, _, o => (o, at_, some (9, data.length))
  | fuel + 1, at_, z, o =>
    let n := data.length
    if n < at_ + 3 then (o, at_, some (9, n))
    else
      let head := leAt data at_ 3
      let kind := head / 2 % 4
      let size := head / 8
      let len := if kind = 1 then 1 else size
      let bs := sliceOf (at_ + 3) len data
      if kind = 3 ∨ blockMax < size then (o, at_, some (6, at_))
      else
        let (o', z, d) : Sink × ZstdCarry × Option StreamDamage :=
          if kind = 0 then
            match o.raw limit (at_ + 3) bs with
            | (o, none) => (o, z, if bs.length < len then some (9, n) else none)
            | (o, d) => (o, z, d)
          else if bs.length < len then (o, z, some (9, n))
          else if kind = 1 then
            if o.full limit size then (o.add (List.replicate (limit.getD 0 - o.made) (bs.headD 0)), z, some (12, at_ + 3))
            else (o.add (List.replicate size (bs.headD 0)), z, none)
          else zstdBlock limit (o.made + blockMax) z bs (at_ + 3) o
        match d with
        | some d => (o', at_, some d)
        | none =>
          let o' := o'.close o.made
          if head % 2 = 1 then (o', at_ + 3 + len, none) else zstdBlocks data blockMax limit fuel (at_ + 3 + len) z o'

/-- The frames of a stream from an offset. -/
def zstdFrames (data dict : List Byte) (limit : Option Nat) : Nat → Nat → List (List Byte) → Nat → Nat → Expanded
  | 0, at_, done, made, check => damaged done made check (9, at_)
  | fuel + 1, at_, done, made, check =>
    let n := data.length
    match skippable data at_ with
    | some len =>
      if n < at_ + len then damaged done made check (9, n)
      else if n = at_ + len then ⟨done, made, none, none, n, check⟩
      else zstdFrames data dict limit fuel (at_ + len) done made check
    | none =>
      match zstdHeader data at_ with
      | .error d => damaged done made check d
      | .ok f =>
        match zstdDict dict with
        | .error _ => damaged done made check (12, at_)
        | .ok d =>
          if f.dictId ≠ 0 ∧ f.dictId ≠ d.id then damaged done made check (12, at_)
          else
            let bound := tighter limit (f.size.map (· + made))
            let (o, q, e) := zstdBlocks data (min f.window 131072) bound (n + 1) f.body d.carry (Sink.after d.content made)
            let blocks := done ++ o.blocks.reverse
            match e with
            | some e => damaged blocks o.made check e
            | none =>
              let found := if f.checksum then leAt data q 4 else check
              let next := q + 4 * f.checksum.toNat
              if n < next then damaged blocks o.made check (9, n)
              else if f.checksum && xxHash64 o.blocks.reverse.flatten % 2 ^ 32 != found then damaged blocks o.made found (8, q)
              else if f.size.any (fun z => decide (o.made - made < z)) then damaged blocks o.made found (12, next)
              else if n = next then ⟨blocks, o.made, none, none, n, found⟩
              else zstdFrames data dict limit fuel next blocks o.made found

/-- One past the last block of a frame, by its blocks' sizes. -/
def zstdSkip (data : List Byte) : Nat → Nat → Option Nat
  | 0, _ => none
  | fuel + 1, at_ =>
    let head := leAt data at_ 3
    let next := at_ + 3 + (if head / 2 % 4 = 1 then 1 else head / 8)
    if data.length < next then none else if head % 2 = 1 then some next else zstdSkip data fuel next

/-- The sum of the frames' content sizes, where every frame declares one (R191). -/
def zstdDeclared (data : List Byte) : Nat → Nat → Nat → Option Nat
  | 0, _, _ => none
  | fuel + 1, at_, sum =>
    if data.length = at_ ∧ 0 < at_ then some sum
    else match skippable data at_ with
      | some len => zstdDeclared data fuel (at_ + len) sum
      | none =>
        match zstdHeader data at_ with
        | .error _ => none
        | .ok f =>
          match f.size, zstdSkip data (data.length + 1) f.body with
          | some z, some next => zstdDeclared data fuel (next + 4 * f.checksum.toNat) (sum + z)
          | _, _ => none

/-- Zstandard frames. -/
def expandZstd (data dict : List Byte) (limit : Option Nat) : Expanded :=
  { zstdFrames data dict limit (data.length + 1) 0 [] 0 0 with declared := zstdDeclared data (data.length + 1) 0 0 }

end Sys2Proof.Machine
end

