-- ==== Sys2Proof/Machine/Kiln.lean ====
section
/-!
DEFINITION. The kiln (R182 to R205): sizes, limits, damage, outcomes, contexts and GF(2^8). One-shot streams are expanded by the
standards that R182 names; the pieces of a streamed job, whose context has no stated layout, and the compressed bits are opaque:
`Config.expand` and `Config.compress`.
-/

namespace Sys2Proof.Machine

open Reg

def stBAD_GEOMETRY : Nat := 0x41
def stBAD_ITEM : Nat := 0x42
def stBAD_DICT : Nat := 0x43
def stVERIFY_FAIL : Nat := 0x44
def stBAD_CONTEXT : Nat := 0x45

/-! ## Live items (R198) -/

/-- The items of a recipe that a list returned and no later list released. -/
def State.liveItems (s : State) (h : Nat) : List FetchItem :=
  (s.fetch.streams.filter (fun e => e.2.handle == h)).flatMap (fun e => e.2.held)
    ++ (s.fetch.spareHeld.filter (fun e => (s.recipeOfRing 1 e.1).any (fun r => r.1 == h))).flatMap (fun e => e.2)

/-- The live item of the recipe that owns a ring, by an address test. -/
def State.liveItem (s : State) (cls ring : Nat) (p : FetchItem → Bool) : Option FetchItem :=
  match s.recipeOfRing cls ring with
  | some (h, _) => (s.liveItems h).find? p
  | none => none

/-- Enter an outcome in the tracking record of the item at a grist address. -/
def State.setOutcome (s : State) (grist : Nat) (o : KilnOutcome) : State :=
  let upd (i : FetchItem) : FetchItem := if i.grist = grist then { i with kiln := some o } else i
  { s with fetch := { s.fetch with
    streams := s.fetch.streams.map (fun e => (e.1, { e.2 with held := e.2.held.map upd }))
    spareHeld := s.fetch.spareHeld.map (fun e => (e.1, e.2.map upd)) } }

/-! ## Jobs -/

/-- Bytes of the dictionary; 0: none (R197). -/
def Taken.dictLen (x : Taken) : Nat :=
  if x.fieldAt 0x30 6 = 0 then 0
  else (x.fieldAt 0x36 2 - 1) * 4096 + (if x.fieldAt 0x30 6 % 4096 = 0 then 4096 else x.fieldAt 0x30 6 % 4096)

/-- A dictionary that R200 refuses. -/
def Taken.badDict (x : Taken) (format : Nat) : Bool :=
  x.fieldAt 0x30 6 != 0
    && (x.fieldAt 0x36 2 == 0 || decide (1024 < x.fieldAt 0x36 2) || (format == 3 && decide (32768 < x.dictLen)))

/-- Bits of byte 0x2E. -/
def Taken.restore (x : Taken) : Bool := bitAt (BitVec.ofNat 8 (x.fieldAt 0x2E 1)) 7
def Taken.save (x : Taken) : Bool := bitAt (BitVec.ofNat 8 (x.fieldAt 0x2E 1)) 6
def Taken.last (x : Taken) : Bool := bitAt (BitVec.ofNat 8 (x.fieldAt 0x2E 1)) 5
def Taken.flush (x : Taken) : Bool := bitAt (BitVec.ofNat 8 (x.fieldAt 0x2E 1)) 4
def Taken.checksum (x : Taken) : Bool := bitAt (BitVec.ofNat 8 (x.fieldAt 0x2F 1)) 7
/-- The level, 0 acting as 3 and 13 to 15 as 12 (R186). -/
def Taken.level (x : Taken) : Nat :=
  let l := x.fieldAt 0x2F 1 % 16
  if l = 0 then 3 else min l 12
/-- The context area's address; 0: one-shot. -/
def Taken.ctx (x : Taken) : Nat := x.fieldAt 0x28 6

/-- Bytes of a context area (R188). -/
def contextSize : Nat := 294912

/-- The job of a descriptor: input, dictionary and restored context as read. -/
def State.streamJob (s : State) (x : Taken) (format len : Nat) : StreamJob :=
  { revision := s.codecRevision, format := format, level := x.level, checksum := x.checksum, flush := x.flush, last := x.last
    oneShot := x.ctx == 0, context := if x.restore && x.ctx != 0 then some (s.dramBytes x.ctx contextSize) else none
    dict := s.dramBytes (x.fieldAt 0x30 6 / 4096 * 4096) x.dictLen, input := s.dramBytes (x.fieldAt 0x10 8) len }

/-- The pending bytes of the restored context; `none`: BAD_CONTEXT. -/
def pendingOf (j : StreamJob) : Option Nat :=
  match j.context with
  | some b => Config.contextHeld j.revision b
  | none => some 0

/-- An earlier descriptor of the ring that names the same context still runs (R189). -/
def State.behindContext (s : State) (x : Taken) : Bool :=
  x.restore && x.ctx != 0
    && (s.taken.takeWhile (fun y => !(y.core == x.core && y.ticket == x.ticket))).any (fun y =>
      y.cls == 2 && y.ring == x.ring && descOpcode y.desc != 3 && y.ctx == x.ctx && y.result.isNone)

/-- How a job ends. -/
structure KilnEnd where
  status : Nat
  output : List Byte
  consumed : Nat
  offset : Nat
  check : Nat
  kind : Nat
  sized : Bool
deriving DecidableEq, Repr

/-- The result record (R199). -/
def KilnEnd.record (e : KilnEnd) : List Byte :=
  leBytes 4 e.output.length ++ leBytes 4 e.consumed ++ leBytes 8 e.offset ++ leBytes 8 e.check ++ leBytes 1 e.kind
    ++ leBytes 1 e.sized.toNat ++ zeros 6

/-- An end without output. -/
def bareEnd (status kind offset consumed : Nat) (sized : Bool) : KilnEnd := ⟨status, [], consumed, offset, 0, kind, sized⟩

/-- A refusal with an engine code: nothing is written (R200). -/
def State.kilnRefuse (s : State) (x : Taken) (code : Nat) : State := (s.count unitKLN 0 1).finish x code 0 []

/-- End a job: output, result record, context, outcome and counters (R188, R198, R199, R204, R205). -/
def State.endKiln (s : State) (x : Taken) (j : StreamJob) (item : Option FetchItem) (e : KilnEnd) : State :=
  let dst := x.fieldAt 0x18 8
  let s := s.engineAccess 2 false (x.fieldAt 0x10 8) j.input.length
  let s := s.engineWrite 2 dst e.output
  let s := if x.fieldAt 0x38 8 = 0 then s else s.engineWrite 2 (x.fieldAt 0x38 8) e.record
  let s := if x.save && x.ctx != 0 then s.engineWrite 2 x.ctx (fitBytes contextSize (Config.contextAfter j e.status)) else s
  let s := match item with
    | some i => s.setOutcome i.grist ⟨e.status, e.output.length, e.kind, e.offset, x.unit⟩
    | none => s
  let s := ((s.count unitKLN 0 1).count unitKLN 1 e.consumed).count unitKLN 2 e.output.length
  let s := if e.sized then s.count unitKLN 3 1 else s
  let s := if e.status = stDAMAGED then s.errAdd KLN_ERR_CNT_DAMAGED 1
    else if e.status = stLIMIT then s.errAdd KLN_ERR_CNT1_LIMIT 1
    else if e.status = stOVERFLOW then s.errAdd KLN_ERR_CNT1_OVERFLOW 1
    else if e.status = stNOT_SMALLER then s.count unitKLN 5 1 else s
  s.finish x e.status e.kind [(dst, e.output.length)]

/-! ## Decompression (R191 to R196) -/

/-- Whole blocks within a bound. -/
def blocksWithin (bound : Nat) : List (List Byte) → List (List Byte)
  | [] => []
  | b :: bs => if b.length ≤ bound then b :: blocksWithin (bound - b.length) bs else []

/-- The expansion of a job, stopped as MISMATCH at the input byte that would take its output past a bound (R193). -/
def expandTo (j : StreamJob) (limit : Option Nat) : Expanded :=
  if j.oneShot then
    if j.format = 1 then expandZstd j.input j.dict limit
    else if j.format = 2 then expandRaw j.input limit
    else if j.format = 3 then expandZlib j.input j.dict limit
    else if j.format = 4 then expandGzip j.input limit
    else expandLz4 j.input j.dict limit
  else
    let e := Config.expand j
    match limit with
    | some n =>
      if n < e.reached then
        let at_ := Config.inputAt j n
        { e with blocks := blocksWithin n e.blocks, reached := n, damage := some (12, at_), consumed := at_ }
      else e
    | none => e

/-- The limit kind a size crosses first: LIMIT (11) or RATIO (13). -/
def limitKind (l : RingLimits) (len size : Nat) : Option Nat :=
  if l.bytes < size then some 11 else if l.ratio * len < size then some 13 else none

/-- The end where the size `n` is known without a sizing pass. -/
def knownEnd (j : StreamJob) (l : RingLimits) (len dst n : Nat) (item : Bool) : KilnEnd :=
  match limitKind l len n with
  | some k => bareEnd stLIMIT k 0 0 false
  | none =>
    let e := expandTo j (some n)
    if dst < n then bareEnd stOVERFLOW 0 0 0 false
    else match e.damage with
      | some (k, o) => ⟨stDAMAGED, e.blocks.flatten, e.consumed, o, e.check, k, false⟩
      | none =>
        if item && decide (e.reached < n) then ⟨stDAMAGED, e.blocks.flatten, e.consumed, e.consumed, e.check, 12, false⟩
        else ⟨stOK, e.blocks.flatten, e.consumed, 0, e.check, 0, false⟩

/-- The end where a sizing pass ran: the first of damage, a recipe limit and DST_LEN in decoding order. -/
def sizedEnd (j : StreamJob) (e : Expanded) (l : RingLimits) (len dst : Nat) : KilnEnd :=
  let bound := min l.bytes (l.ratio * len)
  if min bound dst < e.reached then
    if bound ≤ dst then bareEnd stLIMIT (if l.bytes ≤ l.ratio * len then 11 else 13) 0 (expandTo j (some bound)).consumed true
    else bareEnd stOVERFLOW 0 0 (expandTo j (some dst)).consumed true
  else match e.damage with
    | some (k, o) => { bareEnd stDAMAGED k o e.consumed true with check := e.check }
    | none => ⟨stOK, e.blocks.flatten, e.consumed, 0, e.check, 0, true⟩

/-- Expand with the format, input length and output space settled. -/
def State.kilnExpand (s : State) (x : Taken) (item : Option FetchItem) (format len dst : Nat) : State :=
  let j := s.streamJob x format len
  if x.badDict format then s.kilnRefuse x stBAD_DICT
  else if (pendingOf j).isNone then s.kilnRefuse x stBAD_CONTEXT
  else
    let e := expandTo j none
    let l := s.limitsOf 2 x.ring
    let known := match item with
      | some i => some i.expandedLen
      | none => e.declared
    s.endKiln x j item (match known with
      | some n => knownEnd j l len dst n item.isSome
      | none => sizedEnd j e l len dst)

/-- DECOMPRESS (R182 to R200). -/
def State.kilnDecompress (s : State) (x : Taken) : State :=
  let format := x.fieldAt 0x2E 1 % 16
  let itemMode := x.fieldAt 0x20 4 == 0
  if decide (5 < format) || (!itemMode && format == 0) || x.flush || x.checksum || (x.last && x.ctx == 0) then
    s.kilnRefuse x stBAD_FORMAT
  else if itemMode then
    match s.liveItem 2 x.ring (fun i => i.grist != 0 && i.grist == x.fieldAt 0x10 8) with
    | none => s.kilnRefuse x stBAD_ITEM
    | some i =>
      if i.status ≠ stOK ∧ i.status ≠ stSUBSTITUTED then (s.count unitKLN 0 1).finish x i.status 0 []
      else if i.frame = 0 ∨ (format ≠ 0 ∧ format ≠ i.frame) then s.kilnRefuse x stBAD_FORMAT
      else
        let given := x.fieldAt 0x24 4
        s.kilnExpand x (some i) i.frame i.storedLen (if given = 0 then alignUp i.expandedLen 64 else given)
  else s.kilnExpand x none format (x.fieldAt 0x20 4) (x.fieldAt 0x24 4)

/-! ## Compression (R184 to R195) -/

/-- A lane leaves rotation until it passes the self-test that is requested with it (R195, R563). -/
def State.laneOut (s : State) (lane : Nat) : State :=
  (s.setReg KLN_LANES (s.reg KLN_LANES &&& ~~~(BitVec.ofNat 32 (2 ^ (16 + lane % 16))))).queueTest 2 lane

/-- COMPRESS; `mismatch` holds the output bytes already written where the verification of a block fails (R195). -/
def State.kilnCompress (s : State) (x : Taken) (mismatch : Option Nat) : State :=
  let format := x.fieldAt 0x2E 1 % 16
  let len := x.fieldAt 0x20 4
  let dst := x.fieldAt 0x24 4
  let j := s.streamJob x format len
  if format = 0 ∨ 5 < format ∨ (x.last && x.ctx == 0) then s.kilnRefuse x stBAD_FORMAT
  else if x.badDict format then s.kilnRefuse x stBAD_DICT
  else match pendingOf j with
    | none => s.kilnRefuse x stBAD_CONTEXT
    | some held =>
      let bound := if j.oneShot then len else len + held + 4096
      if dst < bound then s.endKiln x j none (bareEnd stOVERFLOW 0 0 0 false)
      else
        let r := Config.compress j
        match mismatch with
        | some n =>
          let s := s.engineWrite 2 (x.fieldAt 0x18 8) (r.output.take n)
          let s := (s.errAdd KLN_ERR_CNT_VERIFY_FAIL 1).laneOut x.unit
          s.kilnRefuse x stVERIFY_FAIL
        | none =>
          if j.oneShot && decide (len ≤ r.output.length) then
            let (draw, s) := s.freshFree
            let s := s.engineWrite 2 (x.fieldAt 0x18 8) ((List.range len).map (Config.rawByte draw))
            s.endKiln x j none (bareEnd stNOT_SMALLER 0 0 r.consumed false)
          else s.endKiln x j none ⟨stOK, r.output.take dst, r.consumed, 0, r.check, 0, false⟩

/-! ## GF(2^8) (R201, R202) -/

/-- One product in the field with polynomial 0x11D. -/
def gfMul (a b : Byte) : Byte :=
  let (p, _) := (List.range 8).foldl (fun (acc : Nat × Nat) k =>
    let p := if bitAt b k then acc.1 ^^^ acc.2 else acc.1
    let a := acc.2 * 2
    (p, if a ≥ 0x100 then a ^^^ 0x11D else a)) (0, a.toNat)
  BitVec.ofNat 8 p

/-- The combination of equally long shares by one row of coefficients. -/
def gfRow (coef : List Byte) (src : List (List Byte)) (len : Nat) : List Byte :=
  (coef.zip src).foldl (fun acc e => List.zipWith (fun a b => a ^^^ gfMul e.1 b) acc e.2) (zeros len)

/-- A GF_COMBINE descriptor's fields. -/
def Taken.gfIn (x : Taken) : Nat := x.fieldAt 0x2C 1
def Taken.gfOut (x : Taken) : Nat := x.fieldAt 0x2D 1
def Taken.gfLen (x : Taken) : Nat := x.fieldAt 0x28 4

/-- The share addresses of a table. -/
def State.shareTable (s : State) (a n : Nat) : List Nat := (List.range n).map (fun i => s.dramLe (a + 8 * i) 8)

/-- The geometry of R202 that needs no share table. -/
def Taken.gfShape (x : Taken) : Bool :=
  decide (1 ≤ x.gfIn ∧ x.gfIn ≤ 64 ∧ 1 ≤ x.gfOut ∧ x.gfOut ≤ 4) && x.gfLen % 64 == 0
    && decide (64 ≤ x.gfLen ∧ x.gfLen ≤ 16777216) && x.fieldAt 0x10 8 % 64 == 0 && x.fieldAt 0x18 8 % 64 == 0

/-- GF_COMBINE. -/
def State.gfCombine (s : State) (x : Taken) : State :=
  let nin := x.gfIn
  let nout := x.gfOut
  let len := x.gfLen
  if !x.gfShape then s.kilnRefuse x stBAD_GEOMETRY
  else if !(s.windowGrants 2 x.ring .load (x.fieldAt 0x10 8) (8 * nin) && s.windowGrants 2 x.ring .load (x.fieldAt 0x18 8) (8 * nout)
      && s.windowGrants 2 x.ring .load (x.fieldAt 0x20 8) (nin * nout)) then (s.ringError 2 x.ring).kilnRefuse x stBAD_BUFFER
  else
    let ins := s.shareTable (x.fieldAt 0x10 8) nin
    let outs := s.shareTable (x.fieldAt 0x18 8) nout
    if (ins ++ outs).any (fun a => a % 64 != 0) then s.kilnRefuse x stBAD_GEOMETRY
    else if !(ins.all (fun a => s.windowGrants 2 x.ring .load a len) && outs.all (fun a => s.windowGrants 2 x.ring .store a len)) then
      (s.ringError 2 x.ring).kilnRefuse x stBAD_BUFFER
    else
      let src := ins.map (fun a => s.dramBytes a len)
      let coef := s.dramBytes (x.fieldAt 0x20 8) (nin * nout)
      let (draw, s) := s.freshFree
      let s := ins.foldl (fun (s : State) a => s.engineAccess 2 false a len) s
      let s := outs.zipIdx.foldl (fun (s : State) (e : Nat × Nat) =>
        let row := gfRow (sliceOf (e.2 * nin) nin coef) src len
        let out := row.zipIdx.map (fun b =>
          let a := e.1 + b.2
          if ins.any (fun i => decide (i ≤ a ∧ a < i + len)) then Config.rawByte draw a else b.1)
        s.engineWrite 2 e.1 out) s
      let s := ((s.count unitKLN 0 1).count unitKLN 2 (nout * len)).count unitKLN 4 (nin * len)
      s.finish x stOK 0 (outs.map (fun a => (a, len)))

/-! ## The commands -/

/-- DECOMPRESS (R182, R183, R188 to R200). -/
def execDecompress (c : CoreId) (t : Ticket) (s : State) : Res :=
  .next (match s.running c t 2 0x01 with
    | some x => if s.engineRuns 2 && !s.behindContext x then s.kilnDecompress x else s
    | none => s)

/-- COMPRESS (R184 to R195). -/
def execCompress (c : CoreId) (t : Ticket) (mismatch : Option Nat) (s : State) : Res :=
  .next (match s.running c t 2 0x02 with
    | some x => if s.engineRuns 2 && !s.behindContext x then s.kilnCompress x mismatch else s
    | none => s)

/-- GF_COMBINE (R201, R202). -/
def execGfCombine (c : CoreId) (t : Ticket) (s : State) : Res :=
  .next (match s.running c t 2 0x03 with
    | some x => if s.engineRuns 2 then s.gfCombine x else s
    | none => s)

end Sys2Proof.Machine
end

