-- ==== Sys2Proof/Machine/Tensor.lean ====
section
/-!
DEFINITION. Tensors of binary32 values and the operations of an op list (R212 to R223).
-/

namespace Sys2Proof.Machine

/-! ## Binary32 arithmetic in the order written (R210, R212) -/

def fAdd (a b : Nat) : Nat := (fp32.add a b).1
def fSub (a b : Nat) : Nat := (fp32.sub a b).1
def fMul (a b : Nat) : Nat := (fp32.mul a b).1
def fDiv (a b : Nat) : Nat := (fp32.div a b).1
/-- An integer as binary32. -/
def fInt (v : Int) : Nat := (fp32.round (FVal.ofInt v)).1
/-- A decimal fraction n ÷ d as binary32. -/
def fFrac (n d : Nat) : Nat := (fp32.roundRat false n d 0).1
def fLt (a b : Nat) : Bool := (fp32.decode a).lt (fp32.decode b)
/-- The lesser and the greater of two values, the first where they do not compare. -/
def fMin (a b : Nat) : Nat := if fLt b a then b else a
def fMax (a b : Nat) : Nat := if fLt a b then b else a
def fFloor (a : Nat) : Int := (fp32.decode a).toIntFloor
def fHalf : Nat := 0x3F000000
def fOne : Nat := 0x3F800000
def fTwo : Nat := 0x40000000
/-- A sum in increasing order from +0.0. -/
def fSum (xs : List Nat) : Nat := xs.foldl fAdd 0

/-! ## Tensors -/

inductive TensorKind where
  | image | audio | mel
deriving DecidableEq, Repr

/-- A tensor: `data` holds element (x, y, channel) at (y × w + x) × c + channel. -/
structure Tensor where
  kind : TensorKind
  w : Nat
  h : Nat
  c : Nat
  rate : Nat
  data : List Nat
deriving DecidableEq, Repr

def Tensor.get (t : Tensor) (x y ch : Nat) : Nat := t.data.getD ((y * t.w + x) * t.c + ch) 0

/-- A tensor of a size, element by element. -/
def Tensor.make (t : Tensor) (w h c : Nat) (f : Nat → Nat → Nat → Nat) : Tensor :=
  { t with
    w := w, h := h, c := c
    data := (List.range h).flatMap (fun y => (List.range w).flatMap (fun x => (List.range c).map (fun ch => f x y ch))) }

/-- The shape of a tensor, before anything is computed (R223). -/
structure Shape where
  kind : TensorKind
  w : Nat
  h : Nat
  c : Nat
  rate : Nat
deriving DecidableEq, Repr

def Shape.elems (s : Shape) : Nat := s.w * s.h * s.c
def Tensor.shape (t : Tensor) : Shape := ⟨t.kind, t.w, t.h, t.c, t.rate⟩

/-- An op-list entry (R219). -/
structure MashOp where
  op : Nat
  random : Bool
  flags : Nat
  p : List Nat
deriving DecidableEq, Repr

def MashOp.param (o : MashOp) (i : Nat) : Nat := o.p.getD i 0
def MashOp.flag (o : MashOp) (i : Nat) : Bool := bitAt (BitVec.ofNat 8 o.flags) i

def mashOp (b : List Byte) : MashOp :=
  { op := leAt b 0 1, random := leAt b 1 1 % 2 == 1, flags := leAt b 1 1, p := (List.range 7).map (fun i => leAt b (4 + 4 * i) 4) }

/-- The draws an operation makes with RANDOM set (R220, R222). -/
def MashOp.draws (o : MashOp) : Nat :=
  if o.op = 0x01 ∨ o.op = 0x03 ∨ o.op = 0x06 ∨ o.op = 0x14 then 2
  else if o.op = 0x05 then 4
  else if o.op = 0x04 ∨ o.op = 0x13 ∨ o.op = 0x15 then 1 else 0

/-! ## Draws (R213, R214) -/

/-- What the draws of a transform depend on. -/
structure DrawKey where
  k0 : Word32
  k1 : Word32
  gsid : Nat
  epoch : Nat
deriving DecidableEq, Repr

def drawKey (seed : List Byte) (gsid epoch : Nat) : DrawKey :=
  let h := sha256 (asciiBytes "AUG1" ++ seed)
  ⟨BitVec.ofNat 32 (leAt h 0 4), BitVec.ofNat 32 (leAt h 4 4), gsid, epoch⟩

/-- Draw `j` of the operation of an index. -/
def DrawKey.draw (k : DrawKey) (op j : Nat) : Nat :=
  let c1 := op % 65536 + k.gsid % 65536 * 65536
  let ws := philox k.k0 k.k1
    (BitVec.ofNat 32 (j / 4), BitVec.ofNat 32 c1, BitVec.ofNat 32 (k.gsid / 65536), BitVec.ofNat 32 k.epoch)
  (ws.getD (j % 4) 0).toNat

/-- A draw as a uniform value in [0, 1). -/
def unitOf (w : Nat) : Nat := (fp32.roundRat false (w / 256) (2 ^ 24) 0).1
/-- A draw as an integer in 0 to n − 1. -/
def drawBelow (w n : Nat) : Nat := w * n / 2 ^ 32

/-- What an operation reads beside its tensor. -/
structure OpEnv where
  revision : Nat
  key : DrawKey
  index : Nat
  orient : Nat
  aux : List Nat
deriving DecidableEq, Repr

def OpEnv.draw (e : OpEnv) (j : Nat) : Nat := e.key.draw e.index j
def OpEnv.unit (e : OpEnv) (j : Nat) : Nat := unitOf (e.draw j)
def OpEnv.fn (e : OpEnv) (f : MashFn) (x : Nat) : Nat := Config.mashFn e.revision f x
/-- 2u − 1 for a draw. -/
def OpEnv.spread (e : OpEnv) (j : Nat) : Nat := fSub (fMul fTwo (e.unit j)) fOne

/-! ## Image operations (R220, R221) -/

def opCrop (e : OpEnv) (o : MashOp) (t : Tensor) : Tensor :=
  let w := o.param 2
  let h := o.param 3
  let x0 := if o.random then drawBelow (e.draw 0) (t.w - w + 1) else o.param 0
  let y0 := if o.random then drawBelow (e.draw 1) (t.h - h + 1) else o.param 1
  t.make w h t.c (fun x y ch => if x0 + x < t.w ∧ y0 + y < t.h then t.get (x0 + x) (y0 + y) ch else o.param 4)

/-- The point between two values, R221's a_j + f × (a_(j+1) − a_j). -/
def lerp (a b f : Nat) : Nat := fAdd a (fMul f (fSub b a))

/-- One output element of a resampling pass over a line of `n` values. -/
def resampleAt (filter n : Nat) (scale : Nat) (i : Nat) (line : Nat → Nat) : Nat :=
  let centre := fMul (fAdd (fInt i) fHalf) scale
  if filter = 0 then line (min (fFloor centre).toNat (n - 1))
  else if filter = 1 then
    let t := fMin (fMax (fSub centre fHalf) 0) (fInt (n - 1 : Nat))
    let j := (fFloor t).toNat
    lerp (line j) (line (min (j + 1) (n - 1))) (fSub t (fInt j))
  else
    let start := fMul (fInt i) scale
    let stop := fMin (fMul (fInt (i + 1)) scale) (fInt n)
    let terms := (List.range n).filterMap (fun (j : Nat) =>
      let wt := fSub (fMin (fInt (j + 1)) stop) (fMax (fInt j) start)
      if fLt 0 wt then some (fMul wt (line j)) else none)
    fDiv (fSum terms) scale

def opResize (o : MashOp) (t : Tensor) : Tensor :=
  let w := o.param 0
  let h := o.param 1
  let sx := fDiv (fInt t.w) (fInt w)
  let sy := fDiv (fInt t.h) (fInt h)
  let mid := t.make w t.h t.c (fun x y ch => resampleAt (o.param 2) t.w sx x (fun j => t.get j y ch))
  mid.make w h t.c (fun x y ch => resampleAt (o.param 2) t.h sy y (fun j => mid.get x j ch))

def opFlip (e : OpEnv) (o : MashOp) (t : Tensor) : Tensor :=
  let across := o.flag 1 && (!o.random || fLt (e.unit 0) (o.param 0))
  let down := o.flag 2 && (!o.random || fLt (e.unit 1) (o.param 0))
  t.make t.w t.h t.c (fun x y ch => t.get (if across then t.w - 1 - x else x) (if down then t.h - 1 - y else y) ch)

/-- A clockwise quarter turn. -/
def quarterTurn (t : Tensor) : Tensor := t.make t.h t.w t.c (fun x y ch => t.get y (t.h - 1 - x) ch)

def turnTimes : Nat → Tensor → Tensor
  | 0, t => t
  | n + 1, t => turnTimes n (quarterTurn t)

/-- The orientation of TIFF and EXIF undone. -/
def unorient (o : Nat) (t : Tensor) : Tensor :=
  let mirror (t : Tensor) : Tensor := t.make t.w t.h t.c (fun x y ch => t.get (t.w - 1 - x) y ch)
  if o = 2 then mirror t
  else if o = 3 then turnTimes 2 t
  else if o = 4 then mirror (turnTimes 2 t)
  else if o = 5 then mirror (turnTimes 1 t)
  else if o = 6 then turnTimes 1 t
  else if o = 7 then mirror (turnTimes 3 t)
  else if o = 8 then turnTimes 3 t else t

/-- The turns of ROTATE. -/
def rotateTurns (e : OpEnv) (o : MashOp) : Nat := if o.random then drawBelow (e.draw 0) 4 else o.param 0

def opRotate (e : OpEnv) (o : MashOp) (t : Tensor) : Tensor :=
  turnTimes (rotateTurns e o) (if o.flag 1 then unorient e.orient t else t)

/-- A bilinear sample, the columns first; PAD outside. -/
def sampleAt (t : Tensor) (pad xs ys ch : Nat) : Nat :=
  let inside (v n : Nat) : Bool := !fLt v 0 && !fLt (fInt (n - 1 : Nat)) v && !(fp32.decode v).isNan
  if inside xs t.w && inside ys t.h then
    let j := (fFloor xs).toNat
    let i := (fFloor ys).toNat
    let f := fSub xs (fInt j)
    let row (y : Nat) : Nat := lerp (t.get j y ch) (t.get (min (j + 1) (t.w - 1)) y ch) f
    lerp (row i) (row (min (i + 1) (t.h - 1))) (fSub ys (fInt i))
  else pad

/-- The source point of a WARP. -/
def warpPoint (e : OpEnv) (o : MashOp) (w h x y : Nat) : Nat × Nat :=
  let fx := fInt x
  let fy := fInt y
  if o.random then
    let angle := fMul (o.param 0) (e.spread 0)
    let scale := fAdd (o.param 1) (fMul (fSub (o.param 2) (o.param 1)) (e.unit 1))
    let tx := fMul (fMul (o.param 3) (e.spread 2)) (fInt w)
    let ty := fMul (fMul (o.param 3) (e.spread 3)) (fInt h)
    let cx := fDiv (fInt (w - 1 : Nat)) fTwo
    let cy := fDiv (fInt (h - 1 : Nat)) fTwo
    let dx := fSub fx cx
    let dy := fSub fy cy
    let cosine := e.fn .cosDegrees angle
    let sine := e.fn .sinDegrees angle
    let xs := fSub (fAdd cx (fDiv (fAdd (fMul cosine dx) (fMul sine dy)) scale)) tx
    let ys := fSub (fAdd cy (fDiv (fSub (fMul cosine dy) (fMul sine dx)) scale)) ty
    (xs, ys)
  else
    (fAdd (fAdd (fMul (o.param 0) fx) (fMul (o.param 1) fy)) (o.param 2),
      fAdd (fAdd (fMul (o.param 3) fx) (fMul (o.param 4) fy)) (o.param 5))

def opWarp (e : OpEnv) (o : MashOp) (t : Tensor) : Tensor :=
  t.make t.w t.h t.c (fun x y ch =>
    let (xs, ys) := warpPoint e o t.w t.h x y
    sampleAt t (o.param 6) xs ys ch)

def opColour (e : OpEnv) (o : MashOp) (t : Tensor) : Tensor :=
  if o.param 0 = 0 then t.make t.w t.h 3 (fun x y _ => t.get x y 0)
  else if o.param 0 = 1 then
    t.make t.w t.h 1 (fun x y _ =>
      fAdd (fAdd (fMul (fFrac 299 1000) (t.get x y 0)) (fMul (fFrac 587 1000) (t.get x y 1))) (fMul (fFrac 114 1000) (t.get x y 2)))
  else
    let u (j : Nat) : Nat := if o.random then e.unit j else fHalf
    let two (j : Nat) : Nat := fSub (fMul fTwo (u j)) fOne
    let gain := fAdd fOne (fMul (o.param 2) (two 1))
    let lift := fMul (fMul (o.param 1) (two 0)) (o.param 3)
    { t with data := t.data.map (fun v => fAdd (fMul v gain) lift) }

def opNormalise (o : MashOp) (t : Tensor) : Tensor :=
  { t with data := t.data.zipIdx.map (fun e =>
      let ch := e.2 % t.c
      if ch < 3 then fMul (fSub (fMul e.1 (o.param 0)) (o.param (1 + ch))) (o.param (4 + ch)) else e.1) }

/-! ## Audio operations (R222) -/

def opDownmix (t : Tensor) : Tensor :=
  t.make t.w 1 1 (fun x _ _ => fDiv (fSum ((List.range t.c).map (fun ch => t.get x 0 ch))) (fInt t.c))

/-- L and M of a RESAMPLE. -/
def resampleRatio (target rate : Nat) : Nat × Nat := (target / Nat.gcd target rate, rate / Nat.gcd target rate)

def opResample (e : OpEnv) (o : MashOp) (t : Tensor) : Tensor :=
  let (l, m) := resampleRatio (o.param 0) t.rate
  let t' := t.make (ceilDiv (t.w * l) m) 1 t.c (fun j _ ch =>
    fSum ((List.range 32).map (fun (k : Nat) =>
      let at_ : Int := (j * m / l : Nat) - 15 + (k : Int)
      let x := if 0 ≤ at_ ∧ at_ < t.w then t.get at_.toNat 0 ch else 0
      fMul (Config.sincTap e.revision l m (j * m % l) k) x)))
  { t' with rate := o.param 0 }

/-- The frames of a MEL. -/
def melFrames (n frame hop : Nat) : Nat := if n < frame then 1 else 1 + (n - frame) / hop

/-- Band edge `i` in Hz. -/
def melEdge (e : OpEnv) (o : MashOp) (i : Nat) : Nat :=
  let mel (f : Nat) : Nat := fMul (fInt 2595) (e.fn .log10 (fAdd fOne (fDiv f (fInt 700))))
  let lo := mel (o.param 4)
  let step := fDiv (fMul (fInt i) (fSub (mel (o.param 5)) lo)) (fInt (o.param 3 + 1))
  fMul (fInt 700) (fSub (e.fn .pow10 (fDiv (fAdd lo step) (fInt 2595))) fOne)

/-- The triangular weight of a frequency between three edges. -/
def melWeight (f e0 e1 e2 : Nat) : Nat :=
  if fLt e0 f && !fLt e1 f then fDiv (fSub f e0) (fSub e1 e0)
  else if fLt e1 f && fLt f e2 then fDiv (fSub e2 f) (fSub e2 e1) else 0

def opMel (e : OpEnv) (o : MashOp) (t : Tensor) : Tensor :=
  let frame := o.param 0
  let nfft := o.param 2
  let bands := o.param 3
  let frames := melFrames t.w frame (o.param 1)
  let power (f : Nat) : List Nat :=
    Config.fftPower e.revision ((List.range nfft).map (fun k =>
      if k < frame ∧ f * o.param 1 + k < t.w then
        fMul (t.get (f * o.param 1 + k) 0 0) (fSub fHalf (fMul fHalf (Config.cosTurn e.revision k frame)))
      else 0))
  let t' := t.make bands frames 1 (fun b f _ =>
    let p := power f
    let total := fSum ((List.range (nfft / 2 + 1)).map (fun (k : Nat) =>
      fMul (melWeight (fDiv (fMul (fInt k) (fInt t.rate)) (fInt nfft)) (melEdge e o b) (melEdge e o (b + 1)) (melEdge e o (b + 2)))
        (p.getD k 0)))
    e.fn .ln (fMax total (o.param 6)))
  { t' with kind := .mel }

def opGain (e : OpEnv) (o : MashOp) (t : Tensor) : Tensor :=
  let g := if o.random then fAdd (o.param 0) (fMul (fSub (o.param 1) (o.param 0)) (e.unit 0)) else o.param 0
  let k := e.fn .pow10 (fDiv g (fInt 20))
  { t with data := t.data.map (fun v => fMul v k) }

/-- The mean of squares, summed in increasing order. -/
def meanSquare (xs : List Nat) : Nat := fDiv (fSum (xs.map (fun x => fMul x x))) (fInt xs.length)

def opMix (e : OpEnv) (o : MashOp) (t : Tensor) : Tensor :=
  let start := drawBelow (e.draw 0) (o.param 0 - t.w + 1)
  let snr := fAdd (o.param 1) (fMul (fSub (o.param 2) (o.param 1)) (e.unit 1))
  let noise := (List.range t.w).map (fun k => e.aux.getD (start + k) 0)
  let en := meanSquare noise
  let level (ch : Nat) : Nat :=
    let ex := meanSquare ((List.range t.w).map (fun x => t.get x 0 ch))
    fMul (e.fn .sqrt (fDiv ex en)) (e.fn .pow10 (fDiv (fp32.signed true 0 ^^^ snr) (fInt 20)))
  if (fp32.decode en).isZero then t
  else t.make t.w 1 t.c (fun x _ ch => fAdd (t.get x 0 ch) (fMul (level ch) (noise.getD x 0)))

def opTrim (e : OpEnv) (o : MashOp) (t : Tensor) : Tensor :=
  let start := if o.random then drawBelow (e.draw 0) (t.w - o.param 0 + 1) else o.param 1
  t.make (o.param 0) 1 t.c (fun x _ ch => if start + x < t.w then t.get (start + x) 0 ch else 0)

/-- One operation. -/
def runOp (e : OpEnv) (o : MashOp) (t : Tensor) : Tensor :=
  if o.op = 0x01 then opCrop e o t
  else if o.op = 0x02 then opResize o t
  else if o.op = 0x03 then opFlip e o t
  else if o.op = 0x04 then opRotate e o t
  else if o.op = 0x05 then opWarp e o t
  else if o.op = 0x06 then opColour e o t
  else if o.op = 0x07 then opNormalise o t
  else if o.op = 0x10 then opDownmix t
  else if o.op = 0x11 then opResample e o t
  else if o.op = 0x12 then opMel e o t
  else if o.op = 0x13 then opGain e o t
  else if o.op = 0x14 then opMix e o t
  else opTrim e o t

/-! ## Shapes and refusals before anything is computed (R223) -/

/-- An image operation, an audio operation, or one that both allow. -/
def MashOp.suits (o : MashOp) (k : TensorKind) : Bool :=
  o.op == 0x07 || (decide (1 ≤ o.op ∧ o.op ≤ 6) && k == .image) || (decide (0x10 ≤ o.op ∧ o.op ≤ 0x15) && k == .audio)

/-- The parameters of an operation are in their ranges. -/
def MashOp.inRange (o : MashOp) (s : Shape) (aux : Nat) : Bool :=
  if o.op = 0x01 then o.param 2 != 0 && o.param 3 != 0
  else if o.op = 0x02 then !o.random && o.param 0 != 0 && o.param 1 != 0 && decide (o.param 2 ≤ 2)
  else if o.op = 0x04 then decide (o.param 0 ≤ 3)
  else if o.op = 0x06 then decide (o.param 0 ≤ 2)
  else if o.op = 0x11 then
    let (l, m) := resampleRatio (o.param 0) s.rate
    o.param 0 != 0 && decide (l ≤ 1024 ∧ m ≤ 1024)
  else if o.op = 0x12 then
    s.c == 1 && o.param 0 != 0 && o.param 1 != 0 && (List.range 7).any (fun k => o.param 2 == 2 ^ (6 + k))
      && decide (o.param 0 ≤ o.param 2) && decide (1 ≤ o.param 3 ∧ o.param 3 ≤ 256)
  else if o.op = 0x14 then aux != 0 && decide (s.w ≤ o.param 0)
  else if o.op = 0x15 then o.param 0 != 0
  else true

/-- The shape an operation leaves. -/
def MashOp.shapeAfter (o : MashOp) (e : OpEnv) (s : Shape) : Shape :=
  if o.op = 0x01 then { s with w := o.param 2, h := o.param 3 }
  else if o.op = 0x02 then { s with w := o.param 0, h := o.param 1 }
  else if o.op = 0x04 then
    let turns := rotateTurns e o + (if o.flag 1 && decide (5 ≤ e.orient ∧ e.orient ≤ 8) then 1 else 0)
    if turns % 2 = 1 then { s with w := s.h, h := s.w } else s
  else if o.op = 0x06 then (if o.param 0 = 0 then { s with c := 3 } else if o.param 0 = 1 then { s with c := 1 } else s)
  else if o.op = 0x10 then { s with c := 1 }
  else if o.op = 0x11 then
    let (l, m) := resampleRatio (o.param 0) s.rate
    { s with w := ceilDiv (s.w * l) m, rate := o.param 0 }
  else if o.op = 0x12 then { s with kind := .mel, w := o.param 3, h := melFrames s.w (o.param 0) (o.param 1), c := 1 }
  else if o.op = 0x15 then { s with w := o.param 0 }
  else s

/-- A shape beyond R223's bounds; a side is one of an image or of a MEL result. -/
def Shape.tooLarge (s : Shape) : Bool :=
  (s.kind != .audio && (decide (32768 < s.w) || decide (32768 < s.h))) || decide (2 ^ 28 < s.elems)

/-- The tile-cycles of an operation, from the shapes before and after it (R225). -/
def MashOp.cost (o : MashOp) (a b : Shape) : Nat :=
  if o.op = 0x01 ∨ o.op = 0x03 ∨ o.op = 0x04 ∨ o.op = 0x15 then b.elems / 32
  else if o.op = 0x02 then (if o.param 2 = 0 then b.elems / 32 else a.elems / 8 + b.w * a.h * a.c / 8)
  else if o.op = 0x05 then b.elems / 2
  else if o.op = 0x14 then a.elems / 4
  else if o.op = 0x11 then b.elems * 4
  else if o.op = 0x12 then b.h * o.param 2 * log2Up (o.param 2) / 8
  else a.elems / 8

/-- Every shape of an op list: BAD_OPLIST (false) or the shapes after each operation. -/
def opShapes (rev : Nat) (key : DrawKey) (orient aux : Nat) (seeded : Bool) : Nat → List MashOp → Shape → Option (List Shape)
  | _, [], _ => some []
  | i, o :: os, s =>
    if !o.suits s.kind || !o.inRange s aux || (o.random && !seeded) then none
    else
      let s' := o.shapeAfter ⟨rev, key, i, orient, []⟩ s
      (opShapes rev key orient aux seeded (i + 1) os s').map (fun l => s' :: l)

/-- Run an op list. -/
def runOps (rev : Nat) (key : DrawKey) (orient : Nat) (aux : List Nat) : Nat → List MashOp → Tensor → Tensor
  | _, [], t => t
  | i, o :: os, t => runOps rev key orient aux (i + 1) os (runOp ⟨rev, key, i, orient, aux⟩ o t)

end Sys2Proof.Machine
end

