-- ==== Sys2Proof/Machine/Mash.lean ====
section
/-!
DEFINITION. The mash (R206 to R231, R243 to R245): transforms, their tensor records, and scoring models.
-/

namespace Sys2Proof.Machine

open Reg

def stBAD_OPLIST : Nat := 0x40
def stMASH_BAD_FORMAT : Nat := 0x41
def stMASH_BAD_UNIT : Nat := 0x42
def stTOO_LARGE : Nat := 0x43
def stNO_MODEL : Nat := 0x44
def stBAD_MODEL : Nat := 0x45
def stMODEL_TOO_LARGE : Nat := 0x46
def stNO_TILES : Nat := 0x47
def stMODEL_BUSY : Nat := 0x48
def stTILE_ERROR : Nat := 0x49

/-- The mash microcode revision (R212). -/
def State.mashRevision (s : State) : Nat := natAt (s.reg GLB_DCLASS) 0 8

/-! ## Tiles (R207, R244) -/

/-- Tiles a resident model holds. -/
def MashUnit.modelTiles (m : MashUnit) : List Nat := m.models.flatMap (fun e => e.2.tiles)

/-- A tile is present and in rotation. -/
def State.tileIn (s : State) (t : Nat) : Bool :=
  decide (t < Config.unitCount s.part.variant 7) && !s.mash.modelTiles.contains t && !s.mash.failed.contains t

/-- `MSH_TILES`, `MSH_MODEL` and `MSH_ROT` as they stand. -/
def State.showTiles (s : State) : State :=
  let tiles := (List.range 256).filter s.tileIn
  let s := (List.range 8).foldl (fun (s : State) n =>
    s.setReg (MSH_ROT + 4 * n) (BitVec.ofNat 32 ((tiles.filter (fun t => t / 32 == n)).foldl (fun acc t => acc + 2 ^ (t % 32)) 0))) s
  let s := (List.range 4).foldl (fun (s : State) n =>
    s.setReg (MSH_MODEL + 4 * n) (match Table.find s.mash.models n with
      | some m => BitVec.ofNat 32 (2 ^ 31 + m.tiles.length % 128 * 2 ^ 24 + leAt m.image 0x10 4 % 2 ^ 24)
      | none => 0)) s
  s.setReg MSH_TILES (BitVec.ofNat 32 (tiles.length * 65536 + Config.unitCount s.part.variant 7))

/-- A tile leaves rotation. -/
def State.tileDrop (s : State) (t : Nat) : State :=
  { s with mash := { s.mash with failed := (t :: s.mash.failed).eraseDups } }.showTiles

/-- A tile leaves rotation until it passes the self-test that is requested with it (R243, R563). -/
def State.tileOut (s : State) (t : Nat) : State := (s.tileDrop t).queueTest 7 t

/-! ## Reading a wort record (R177, R218) -/

/-- The wort record as a TRANSFORM reads it. -/
structure WortView where
  gsid : Nat
  status : Nat
  pos : Nat
  attempt : Nat
  epoch : Nat
  fmt : Nat
  width : Nat
  height : Nat
  out : Nat
  pitch : Nat
  orient : Nat
deriving DecidableEq, Repr

def wortView (b : List Byte) : WortView :=
  { gsid := leAt b 0 6, status := leAt b 6 1, pos := leAt b 8 6, attempt := leAt b 0x0E 1, epoch := leAt b 0x10 4
    fmt := leAt b 0x16 1, width := leAt b 0x18 4, height := leAt b 0x1C 4, out := leAt b 0x20 8, pitch := leAt b 0x2C 4
    orient := leAt b 0x42 1 }

/-- The shape of the wort output. -/
def WortView.shape (w : WortView) : Shape :=
  if fmtImage w.fmt then ⟨.image, w.width, w.height, if fmtComps w.fmt ≥ 3 then fmtComps w.fmt else 1, 0⟩
  else ⟨.audio, w.width, 1, w.height / 2 ^ 24, w.height % 2 ^ 24⟩

/-- Where element (x, y, channel) of the wort output lies: byte offset and bit. -/
def WortView.place (w : WortView) (s : Shape) (x y ch : Nat) : Nat × Nat :=
  if fmtImage w.fmt then
    if w.fmt = 7 then (y * w.pitch + x / 8, 7 - x % 8)
    else (y * w.pitch + (x * s.c + ch) * (fmtDepth w.fmt / 8), 0)
  else if w.fmt = 0x23 then (ch * alignUp (s.w * 4) 64 + 4 * x, 0)
  else ((x * s.c + ch) * sampleBytes w.fmt, 0)

/-- An element as binary32, without scaling. -/
def WortView.element (w : WortView) (m : Mem) (s : Shape) (x y ch : Nat) : Nat :=
  let (off, bit) := w.place s x y ch
  let raw (n : Nat) : Nat := Mem.readLe m (w.out + off) n
  if fmtImage w.fmt then fInt (if w.fmt = 7 then raw 1 / 2 ^ bit % 2 else raw (fmtDepth w.fmt / 8) : Nat)
  else if w.fmt = 0x20 then fInt (asInt 16 (raw 2))
  else if w.fmt = 0x21 then fInt (asInt 32 (raw 4))
  else raw 4

/-- Bytes of the wort output. -/
def WortView.bytes (w : WortView) (s : Shape) : Nat :=
  if fmtImage w.fmt then w.pitch * w.height
  else if w.fmt = 0x23 then s.c * alignUp (s.w * 4) 64 else s.w * s.c * sampleBytes w.fmt

def State.wortTensor (s : State) (w : WortView) : Tensor :=
  let sh := w.shape
  (⟨sh.kind, 0, 0, 0, sh.rate, []⟩ : Tensor).make sh.w sh.h sh.c (fun x y ch => w.element s.dram sh x y ch)

/-! ## TRANSFORM (R216 to R227) -/

/-- The tensor record (R224): status, channels, width, height and bytes written. -/
def tensorRecord (x : Taken) (w : WortView) (status channels width height bytes gtc : Nat) : List Byte :=
  leBytes 6 w.gsid ++ leBytes 1 status ++ leBytes 1 (x.fieldAt 0x2D 1 / 64 + x.fieldAt 0x2D 1 / 32 % 2 * 128) ++ leBytes 6 w.pos
    ++ leBytes 1 w.attempt ++ leBytes 1 x.unit ++ leBytes 4 w.epoch ++ leBytes 1 channels ++ leBytes 1 (x.fieldAt 0x2C 1) ++ zeros 2
    ++ leBytes 4 width ++ leBytes 4 height ++ leBytes 8 (x.fieldAt 0x20 8) ++ leBytes 4 bytes ++ zeros 4 ++ leBytes 8 gtc
    ++ leBytes 8 (x.fieldAt 0x10 8)

/-- Bytes of one output element. -/
def outElemBytes (e : Nat) : Nat := if e = 0 then 4 else 2

/-- An output element in OUT_ELEM (R210, R218). -/
def outElem (e v : Nat) : List Byte :=
  if e = 0 then leBytes 4 (if (fp32.decode v).isNan then fp32.nanBits else v)
  else leBytes 2 (fp32.convertTo (if e = 1 then bf16 else fp16) v)

/-- The output bytes: images by pixel or by plane, audio by plane, a MEL by frame. -/
def tensorBytes (e : Nat) (hwc : Bool) (t : Tensor) : List Byte :=
  if hwc && t.kind == .image then t.data.flatMap (outElem e)
  else (List.range t.c).flatMap (fun ch => (List.range t.h).flatMap (fun y => (List.range t.w).flatMap (fun x => outElem e (t.get x y ch))))

/-- End a TRANSFORM. -/
def State.endTransform (s : State) (x : Taken) (status : Nat) (out : List (Nat × Nat)) : State :=
  let s := s.count unitMSH 0 1
  let s := if status = stBAD_OPLIST ∨ status = stTOO_LARGE then s.errAdd MSH_ERR_CNT_BAD_OPLIST 1 else s
  s.finish x status x.unit out

/-- A record without output; the shape fields are not fixed by the manual. -/
def State.bareTransform (s : State) (x : Taken) (w : WortView) (status : Nat) : State :=
  let (draw, s) := s.freshFree
  let part (i : Nat) : Nat := (Config.rawByte draw i).toNat + (Config.rawByte draw (i + 1)).toNat * 256
  let s := s.engineWrite 7 (x.fieldAt 0x38 8) (tensorRecord x w status (part 0) (part 2) (part 4) 0 s.gtc.toNat)
  s.endTransform x status []

/-- The op list of a descriptor. -/
def State.opList (s : State) (x : Taken) : List MashOp :=
  (List.range (x.fieldAt 0x2C 1)).map (fun i => mashOp (s.dramBytes (x.fieldAt 0x18 8 + 32 * i) 32))

/-- A transform that meets every condition. -/
def State.transformRun (s : State) (x : Taken) (w : WortView) (key : DrawKey) (ops : List MashOp) (shapes : List Shape) : State :=
  let e := x.fieldAt 0x2D 1 / 64
  let first := w.shape
  let last := shapes.getLastD first
  let noise := ((ops.filter (fun o => o.op == 0x14)).map (fun o => o.param 0)).foldl max 0
  let aux := (List.range noise).map (fun k => s.dramLe (x.fieldAt 0x30 8 + 4 * k) 4)
  let t := runOps s.mashRevision key w.orient aux 0 ops (s.wortTensor w)
  let bytes := tensorBytes e (bitAt (BitVec.ofNat 8 (x.fieldAt 0x2D 1)) 5) t
  let costs := ((first :: shapes).zip (shapes.zip ops)).foldl (fun n (c : Shape × Shape × MashOp) => n + c.2.2.cost c.1 c.2.1) 0
  let blocks := (ops.filter (fun o => o.random && o.draws != 0)).length
  let (waits, s) := s.freshFree
  let s := (s.engineAccess 7 false w.out (w.bytes first)).engineAccess 7 false (x.fieldAt 0x30 8) (4 * noise)
  let s := ((s.count unitMSH 2 last.elems).count unitMSH 3 blocks).count unitMSH 5 (1800 + costs + waits)
  let s := s.engineWrite 7 (x.fieldAt 0x20 8) bytes
  let s := s.engineWrite 7 (x.fieldAt 0x38 8) (tensorRecord x w w.status last.c last.w last.h bytes.length s.gtc.toNat)
  s.endTransform x w.status [(x.fieldAt 0x20 8, bytes.length)]

/-- The seed a TRANSFORM draws from; `none` where its ring or recipe gives none (R216, R633). -/
def State.transformSeed (s : State) (x : Taken) : Option (List Byte) := s.seedOf 7 x.ring (x.fieldAt 0x2D 1 % 4)

/-- TRANSFORM up to the decisions of R223. -/
def State.transform (s : State) (x : Taken) (tileError : Bool) : State :=
  let w := wortView (s.dramBytes (x.fieldAt 0x10 8) 128)
  let e := x.fieldAt 0x2D 1 / 64
  let pin := x.fieldAt 0x2E 1
  let pinned := 128 ≤ x.fieldAt 0x2F 1
  let nops := x.fieldAt 0x2C 1
  let s := s.engineAccess 7 false (x.fieldAt 0x10 8) 128
  if e = 3 then s.endTransform x stMASH_BAD_FORMAT []
  else if pinned ∧ (Config.unitCount s.part.variant 7 ≤ pin ∨ s.mash.modelTiles.contains pin) then
    s.endTransform x stMASH_BAD_UNIT []
  else if w.status ≠ stOK ∧ w.status ≠ stCONCEALED ∧ w.status ≠ stSUBSTITUTED then s.bareTransform x w w.status
  else if nops = 0 ∨ 16 < nops then s.bareTransform x w stBAD_OPLIST
  else
    let ops := s.opList x
    let s := s.engineAccess 7 false (x.fieldAt 0x18 8) (32 * nops)
    let seed := s.transformSeed x
    let key := drawKey (seed.getD []) w.gsid w.epoch
    match opShapes s.mashRevision key w.orient (x.fieldAt 0x30 8) seed.isSome 0 ops w.shape with
    | none => s.bareTransform x w stBAD_OPLIST
    | some shapes =>
      let last := shapes.getLastD w.shape
      if shapes.any Shape.tooLarge then s.bareTransform x w stTOO_LARGE
      else if x.fieldAt 0x28 4 < last.elems * outElemBytes e then s.bareTransform x w stOVERFLOW
      else if tileError then
        ((s.errAdd MSH_ERR_CNT_TILE_ERROR 1).tileOut x.unit).endTransform x stTILE_ERROR []
      else s.transformRun x w key ops shapes

/-! ## Scoring models (R228 to R231) -/

/-- A layer (R229). -/
structure Layer where
  kind : Nat
  fmt : Nat
  ins : Nat
  outs : Nat
  actScale : Nat
  weights : Nat
  bias : Nat
  scale : Nat
  eps : Nat
deriving DecidableEq, Repr

def layerAt (b : List Byte) (off : Nat) : Layer :=
  { kind := leAt b off 1, fmt := leAt b (off + 1) 1, ins := leAt b (off + 4) 4, outs := leAt b (off + 8) 4
    actScale := leAt b (off + 12) 4, weights := leAt b (off + 16) 4, bias := leAt b (off + 20) 4, scale := leAt b (off + 24) 4
    eps := leAt b (off + 28) 4 }

def modelLayers (b : List Byte) : List Layer := (List.range (leAt b 6 1)).map (fun i => layerAt b (leAt b 0x18 4 + 32 * i))

/-- A layer with weights. -/
def Layer.weighted (l : Layer) : Bool := l.kind == 1 || l.kind == 2

/-- The width of the values after the layers, or `none` where a layer's input does not match. -/
def layerWidth (tokens : Bool) : Bool → List Layer → Nat → Option Nat
  | _, [], n => some n
  | first, l :: ls, n =>
    if l.kind = 1 then (if first && tokens then layerWidth tokens false ls l.outs else none)
    else if first && tokens then none
    else if l.kind = 2 then (if l.ins = n then layerWidth tokens false ls l.outs else none)
    else layerWidth tokens false ls n

/-- The format of an image (R228, R229). -/
def modelFormatOk (b : List Byte) (len : Nat) : Bool :=
  let n := leAt b 6 1
  let ls := modelLayers b
  leAt b 0 4 == 0x4C444D4B && leAt b 4 2 == 1 && decide (1 ≤ n ∧ n ≤ 32) && decide (leAt b 7 1 ≤ 1)
    && decide (1 ≤ leAt b 8 4 ∧ leAt b 8 4 ≤ 65536) && decide (1 ≤ leAt b 0x0C 1 ∧ leAt b 0x0C 1 ≤ 16)
    && leAt b 0x14 4 == len && decide (64 ≤ len) && leAt b 0x18 4 % 32 == 0 && decide (leAt b 0x18 4 + 32 * n ≤ len)
    && ls.all (fun l => decide (1 ≤ l.kind ∧ l.kind ≤ 6) && decide (l.fmt ≤ 7) && (!l.weighted || decide (l.weights < len)))
    && leAt b 0x10 4 == (ls.filter Layer.weighted).foldl (fun m l => m + l.ins * l.outs) 0
    && (layerWidth (leAt b 7 1 == 1) true ls (leAt b 8 4)).isSome

/-- A limit of R230 is broken. -/
def modelTooLarge (b : List Byte) : Bool :=
  let ls := modelLayers b
  decide (8388608 < leAt b 0x10 4)
    || ls.any (fun l => (l.kind == 2 && (decide (8192 < l.ins) || decide (8192 < l.outs)))
        || (l.kind == 1 && (decide (262144 < l.ins) || decide (1024 < l.outs))))
    || layerWidth (leAt b 7 1 == 1) true ls (leAt b 8 4) != some (leAt b 0x0C 1)

/-- The tiles a model takes. -/
def modelTileCount (b : List Byte) (len : Nat) : Nat :=
  match (modelLayers b).filter Layer.weighted with
  | [] => 1
  | l :: _ => max 1 (ceilDiv (len - l.weights) 393216)

/-- The element format of a WFMT; `none`: INT8 values. -/
def weightFmt (f : Nat) : Option FloatFmt :=
  if f = 1 ∨ f = 4 then some fp8e4m3 else if f = 2 then some fp8e5m2 else if f = 5 then some fp6e3m2
  else if f = 6 then some fp6e2m3 else if f = 7 then some fp4e2m1 else none

/-- Bits of an image from a bit offset. -/
def bitField (b : List Byte) (off n : Nat) : Nat := leAt b (off / 8) (ceilDiv (off % 8 + n) 8) / 2 ^ (off % 8) % 2 ^ n

/-- Weight (k, o) as an exact value, an MXINT8 element with its factor 2^−6 (R209). -/
def Layer.weight (l : Layer) (b : List Byte) (k o : Nat) : FVal :=
  let bit := 8 * l.weights + Config.weightBit l.fmt l.ins l.outs k o
  match weightFmt l.fmt with
  | some f => f.decode (bitField b bit f.width)
  | none =>
    let v := FVal.ofInt (asInt 8 (bitField b bit 8))
    if l.fmt = 3 then v.mul (.fin false 1 (-6)) else v

/-- The scale of an MX block (R209). -/
def Layer.blockScale (l : Layer) (b : List Byte) (block o : Nat) : FVal :=
  let s := leAt b (l.weights + Config.scaleByte l.fmt l.ins l.outs block o) 1
  if s = 0xFF then .nan false else .fin false 1 ((s : Int) - 127)

/-- A float parameter of an image at an offset table. -/
def paramAt (b : List Byte) (off i : Nat) : Nat := leAt b (off + 4 * i) 4

/-- A sum from +0.0 in order, each exact product rounded to binary32 after its addition (R211). -/
def dotSum (ps : List FVal) : Nat := ps.foldl (fun acc p => (fp32.round ((fp32.decode acc).add p)).1) 0

/-- One output of a DENSE layer. -/
def denseOut (l : Layer) (b : List Byte) (x : List Nat) (o : Nat) : Nat :=
  let bias (y : Nat) : Nat := if l.bias = 0 then y else fAdd y (paramAt b l.bias o)
  if l.fmt = 0 then
    let sum := x.zipIdx.foldl (fun (acc : Int) (e : Nat × Nat) =>
      acc + asInt 8 (fp32.toInt8 (fDiv e.1 l.actScale)) * (l.weight b e.2 o).toIntRne) 0
    bias (fMul (fInt sum) (fMul l.actScale (paramAt b l.scale o)))
  else if l.fmt ≤ 2 then
    let f := (weightFmt l.fmt).getD fp8e4m3
    bias (dotSum (x.zipIdx.map (fun (e : Nat × Nat) => (f.decode (fp32.convertTo f e.1)).mul (l.weight b e.2 o))))
  else
    let blocks := (List.range (ceilDiv x.length 32)).map (fun k =>
      let part := (sliceOf (32 * k) 32 x).zipIdx
      let sum := dotSum (part.map (fun (e : Nat × Nat) =>
        (fp8e4m3.decode (fp32.convertTo fp8e4m3 e.1)).mul (l.weight b (32 * k + e.2) o)))
      (fp32.round ((fp32.decode sum).mul (l.blockScale b k o))).1)
    bias (fSum blocks)

/-- One layer on a vector. -/
def Layer.run (l : Layer) (rev : Nat) (b : List Byte) (tokens : List Nat) (x : List Nat) : List Nat :=
  if l.kind = 1 then
    let ids := tokens.filter (fun t => decide (t < l.ins))
    (List.range l.outs).map (fun o =>
      if ids.isEmpty then 0
      else fDiv (fSum (ids.map (fun t =>
        let w := l.weight b t o
        let v := if 3 ≤ l.fmt then w.mul (l.blockScale b (o / 32) t) else w
        (fp32.round v).1))) (fInt ids.length))
  else if l.kind = 2 then (List.range l.outs).map (denseOut l b x)
  else if l.kind = 3 then x.map (fun v => fMax v 0)
  else if l.kind = 4 then x.map (fun v => fMul v (Config.mashFn rev .phi v))
  else if l.kind = 5 then
    let n := fInt x.length
    let mean := fDiv (fSum x) n
    let var := fDiv (fSum (x.map (fun v => fMul (fSub v mean) (fSub v mean)))) n
    let dev := Config.mashFn rev .sqrt (fAdd var l.eps)
    x.zipIdx.map (fun e => fAdd (fMul (fDiv (fMul (fSub e.1 mean) fOne) dev) (paramAt b l.scale e.2)) (paramAt b l.bias e.2))
  else x.map (fun v => fDiv fOne (fAdd fOne (Config.mashFn rev .exp (v ^^^ 2 ^ 31))))

/-- The scores of a model on its input, as binary32 values. -/
def modelScores (rev : Nat) (b : List Byte) (input : List Nat) : List Nat :=
  let tokens := leAt b 7 1 == 1
  let input := input.take (leAt b 8 4)
  (modelLayers b).foldl (fun x l => l.run rev b input x) (if tokens then [] else input)

/-- The MACs of a run. -/
def modelMacs (b : List Byte) : Nat := ((modelLayers b).filter (fun l => l.kind == 2)).foldl (fun m l => m + l.ins * l.outs) 0

/-- The input of a SCORE: 32-bit values. -/
def State.words32 (s : State) (a n : Nat) : List Nat := (List.range n).map (fun i => s.dramLe (a + 4 * i) 4)

/-- Run a model and count it. -/
def State.runModel (s : State) (m : MashModel) (a n : Nat) : List Nat × State :=
  let scores := modelScores s.mashRevision m.image (s.words32 a n)
  let (busy, s) := s.freshFree
  let s := ((s.count unitMSH 1 1).count unitMSH 4 (modelMacs m.image)).count unitMSH 5 busy
  (scores, s.engineAccess 7 false a (4 * n))

/-- SCORE (R231): a vector input must have exactly INPUT_LEN elements. -/
def State.score (s : State) (x : Taken) (tileError : Bool) : State :=
  let n := x.fieldAt 0x20 4
  match Table.find s.mash.models (x.fieldAt 0x10 1 % 4) with
  | none => s.finish x stNO_MODEL x.unit []
  | some m =>
    if leAt m.image 7 1 = 0 ∧ n ≠ leAt m.image 8 4 then s.finish x stBAD_MODEL x.unit []
    else if tileError then
      ((s.errAdd MSH_ERR_CNT_TILE_ERROR 1).tileOut (m.tiles.headD 0)).finish x stTILE_ERROR x.unit []
    else
      let (scores, s) := s.runModel m (x.fieldAt 0x18 8) n
      let s := s.engineWrite 7 (x.fieldAt 0x28 8) (scores.flatMap (leBytes 4))
      s.finish x stOK x.unit [(x.fieldAt 0x28 8, 4 * scores.length)]

/-- Most tiles all models may hold. -/
def State.modelTileLimit (s : State) : Nat := min 128 (s.fld MSH_CFG_MODEL_TILES)

/-- MODEL_LOAD (R228 to R230, R243): it takes the lowest tiles in rotation, and waits while one of them runs a descriptor. -/
def State.modelLoad (s : State) (x : Taken) : State :=
  let slot := x.fieldAt 0x10 1 % 4
  let len := x.fieldAt 0x20 4
  let b := s.dramBytes (x.fieldAt 0x18 8) len
  let need := modelTileCount b len
  let free := (List.range (Config.unitCount s.part.variant 7)).filter s.tileIn
  let tiles := free.take need
  let busy := s.taken.any (fun y => y.cls == 7 && descOpcode y.desc == 1 && y.result.isNone && tiles.contains y.unit)
  if (Table.find s.mash.models slot).isSome then s.finish x stMODEL_BUSY 0 []
  else if !modelFormatOk b len then s.finish x stBAD_MODEL 0 []
  else if modelTooLarge b then s.finish x stMODEL_TOO_LARGE 0 []
  else if free.length < need ∨ s.modelTileLimit < s.mash.modelTiles.length + need then s.finish x stNO_TILES 0 []
  else if busy then s
  else
    let m : MashModel := ⟨(s.recipeOfRing 7 x.ring).map (·.1), b, tiles⟩
    let s := s.engineAccess 7 false (x.fieldAt 0x18 8) len
    ({ s with mash := { s.mash with models := Table.put s.mash.models slot m } }.showTiles).finish x stOK 0 []

/-- A model or set is in use by a descriptor that runs: a SCORE of the slot, or a FILTER with predicates of the kind that name it
(R240). -/
def State.slotInUse (s : State) (kind slot : Nat) : Bool :=
  s.taken.any (fun y => y.result.isNone
    && ((kind == 3 && y.cls == 7 && descOpcode y.desc == 2 && y.fieldAt 0x10 1 % 4 == slot)
      || (kind == 2 && y.cls == 6 && descOpcode y.desc == 3 && y.fieldAt 0x10 1 % 4 == slot)
      || (y.cls == 6 && descOpcode y.desc == 1 && (List.range (min 16 (y.fieldAt 0x24 1))).any (fun i =>
          let p := s.dramBytes (y.fieldAt 0x28 8 + 16 * i) 16
          leAt p 0 1 == kind && leAt p 1 1 == slot))))

/-- MODEL_UNLOAD (R226, R240): it waits for the descriptors that use the model. -/
def State.modelUnload (s : State) (x : Taken) : State :=
  let slot := x.fieldAt 0x10 1 % 4
  if (Table.find s.mash.models slot).isNone then s.finish x stNO_MODEL 0 []
  else if s.slotInUse 3 slot then s
  else ({ s with mash := { s.mash with models := Table.drop s.mash.models slot } }.showTiles).finish x stOK 0 []

/-! ## The commands -/

/-- TRANSFORM; the event says whether the tile's SRAM shows an uncorrectable error (R226). -/
def execTransform (c : CoreId) (t : Ticket) (tileError : Bool) (s : State) : Res :=
  .next (match s.running c t 7 0x01 with
    | some x => if s.engineRuns 7 then s.transform x tileError else s
    | none => s)

/-- SCORE. -/
def execScore (c : CoreId) (t : Ticket) (tileError : Bool) (s : State) : Res :=
  .next (match s.running c t 7 0x02 with
    | some x => if s.engineRuns 7 then s.score x tileError else s
    | none => s)

/-- MODEL_LOAD. -/
def execModelLoad (c : CoreId) (t : Ticket) (s : State) : Res :=
  .next (match s.running c t 7 0x03 with
    | some x => if s.engineRuns 7 then s.modelLoad x else s
    | none => s)

/-- MODEL_UNLOAD. -/
def execModelUnload (c : CoreId) (t : Ticket) (s : State) : Res :=
  .next (match s.running c t 7 0x04 with
    | some x => if s.engineRuns 7 then s.modelUnload x else s
    | none => s)

end Sys2Proof.Machine
end

