-- ==== Sys2Proof/Machine/Lauter.lean ====
section
/-!
DEFINITION. The lauter (R232 to R243, R246, R247): predicates, MinHash sets and verdicts.
-/

namespace Sys2Proof.Machine

open Reg

def stBAD_FILTER : Nat := 0x40
def stNO_SET : Nat := 0x41
def stBAD_SET : Nat := 0x42
def stSET_BUSY : Nat := 0x43
def stLTR_NO_MODEL : Nat := 0x44

/-! ## MinHash (R235 to R237) -/

/-- What a set's header carries. -/
structure SetHead where
  m : Nat
  bands : Nat
  dataset : Nat
  k : Nat
  tokens : Bool
  entries : Nat
  seed : List Byte
deriving DecidableEq, Repr

def setHead (b : List Byte) : SetHead :=
  { m := leAt b 6 1, bands := leAt b 7 1, dataset := leAt b 8 2, k := leAt b 0x0A 1, tokens := leAt b 0x0B 1 == 1
    entries := leAt b 0x0C 4, seed := sliceOf 0x10 16 b }

/-- Bytes of an entry. -/
def SetHead.entrySize (h : SetHead) : Nat := 4 * h.m + 8

/-- The format of a set image (R235, R237). -/
def setFormatOk (b : List Byte) : Bool :=
  let h := setHead b
  leAt b 0 4 == 0x5453484D && leAt b 4 2 == 1 && (h.m == 64 || h.m == 128) && decide (1 ≤ h.bands ∧ h.bands ≤ 64) && h.m % h.bands == 0
    && decide (leAt b 0x0B 1 ≤ 1) && decide (1 ≤ h.k) && decide (h.k ≤ (if h.tokens then 8 else 32)) && decide (h.entries ≤ 4194304)
    && decide (64 + h.entries * h.entrySize ≤ b.length)

/-- The shingles of an input of `n` elements of `size` bytes. -/
def shingles (k size : Nat) (b : List Byte) : List (List Byte) :=
  let n := b.length / size
  if n = 0 then [] else if n < k then [b.take (n * size)]
  else (List.range (n - k + 1)).map (fun i => sliceOf (i * size) (k * size) b)

/-- The signature of an input. -/
def SetHead.signature (h : SetHead) (b : List Byte) : List Nat :=
  let sh := shingles h.k (if h.tokens then 4 else 1) b
  (List.range h.m).map (fun i =>
    let key := (sha256 (asciiBytes "MNH1" ++ h.seed ++ leBytes 4 i)).take 16
    sh.foldl (fun lo x => min lo ((sipHash24 key x).toNat % 2 ^ 32)) (2 ^ 32 - 1))

/-- Equal words of two signatures. -/
def equalWords (a b : List Nat) : Nat := ((a.zip b).filter (fun e => e.1 == e.2)).length

/-- An entry: its signature and KEEPER. -/
def SetHead.entry (h : SetHead) (b : List Byte) (i : Nat) : List Nat × Nat :=
  let off := 64 + i * h.entrySize
  ((List.range h.m).map (fun j => leAt b (off + 4 * j) 4), leAt b (off + 4 * h.m) 6)

/-- An entry matches a signature at a threshold (R236). -/
def SetHead.isMatch (h : SetHead) (sig e : List Nat) (thresh : Nat) : Bool :=
  let w := h.m / h.bands
  (List.range h.bands).any (fun b => sliceOf (b * w) w sig == sliceOf (b * w) w e) && decide (thresh ≤ equalWords sig e)

/-- The first entry that forces a drop: equal words and KEEPER. An empty input matches no entry. -/
def SetHead.decide (h : SetHead) (b : List Byte) (input : List Byte) (gsid : Nat) (sameSet : Bool) (thresh : Nat) :
    Option (Nat × Nat) :=
  if input.isEmpty then none
  else
    let sig := h.signature input
    ((List.range h.entries).map (h.entry b)).findSome? (fun e =>
      if h.isMatch sig e.1 thresh && (e.2 != gsid || e.2 == 2 ^ 48 - 1 || !sameSet) then some (equalWords sig e.1, e.2) else none)

/-! ## Records judged (R232, R233) -/

/-- A record as predicates read it. -/
structure Judged where
  gsid : Nat
  pos : Nat
  status : Nat
  width : Nat
  height : Nat
  size : Nat
  /-- Sample rate of a wort audio record; 0 otherwise. -/
  rate : Nat
deriving DecidableEq, Repr

def judged (kind : Nat) (b : List Byte) : Judged :=
  if kind = 0 then
    let i := itemView b
    ⟨i.gsid, i.pos, i.status, i.dim0, i.dim1, i.storedLen, 0⟩
  else if kind = 1 then
    let w := wortView b
    ⟨w.gsid, w.pos, w.status, w.width, w.height, leAt b 0x58 4, if fmtAudio w.fmt then w.height % 2 ^ 24 else 0⟩
  else ⟨leAt b 0 6, leAt b 8 6, leAt b 6 1, leAt b 0x18 4, leAt b 0x1C 4, leAt b 0x28 4, 0⟩

/-- The value a BOUND selects (R233). -/
def boundValue (j : Judged) (textLen arg : Nat) : Nat :=
  if arg = 0 then j.width else if arg = 1 then j.height else if arg = 2 then j.size else if arg = 3 then textLen
  else if arg = 4 then (if j.height = 0 then 0 else j.width * 1000 / j.height)
  else if j.rate = 0 then 0 else j.width * 1000 / j.rate

/-- A predicate (R233). -/
structure Predicate where
  kind : Nat
  arg : Nat
  param : Nat
  lo : Nat
  hi : Nat
  extra : Nat
deriving DecidableEq, Repr

def predicate (b : List Byte) : Predicate :=
  ⟨leAt b 0 1, leAt b 1 1, leAt b 2 2, leAt b 4 4, leAt b 8 4, leAt b 12 4⟩

/-- What judging has come to. -/
structure Verdict where
  failed : Option (Nat × Nat)
  score : Nat
  equal : Nat
  keeper : Nat
deriving DecidableEq, Repr

/-- The code of a predicate that cannot be judged (R236, R239): BAD_FILTER, NO_SET or NO_MODEL. -/
def State.predicateRefusal (s : State) (p : Predicate) (recKind textKind text scoreIn : Nat) : Option Nat :=
  if p.kind = 1 then (if 5 < p.arg ∨ (p.arg = 5 ∧ recKind ≠ 1) then some stBAD_FILTER else none)
  else if p.kind = 2 then
    if 3 < p.arg ∨ text = 0 then some stBAD_FILTER
    else match Table.find s.sets p.arg with
      | none => some stNO_SET
      | some st =>
        let h := setHead st.image
        if h.tokens != (textKind == 1) || p.extra == 0 || Nat.blt h.m p.extra then some stBAD_FILTER else none
  else if p.kind = 3 then
    if 3 < p.arg then some stBAD_FILTER
    else match Table.find s.mash.models p.arg with
      | none => some stLTR_NO_MODEL
      | some m =>
        let tokens := leAt m.image 7 1 = 1
        if leAt m.image 0x0C 1 ≤ p.param ∨ (tokens ∧ (text = 0 ∨ textKind ≠ 1)) ∨ (¬ tokens ∧ scoreIn = 0) then some stBAD_FILTER
        else none
  else if p.kind = 4 then none else some stBAD_FILTER

/-- Judge one predicate that can be judged: whether it passes, what it found, and the state after any score it ran. -/
def State.judgeOne (s : State) (x : Taken) (j : Judged) (sameSet : Nat → Bool) (text : List Byte) (v : Verdict) (p : Predicate) :
    Bool × Verdict × State :=
  if p.kind = 1 then
    let n := boundValue j (x.fieldAt 0x20 4) p.arg
    (p.lo ≤ n ∧ n ≤ p.hi, v, s)
  else if p.kind = 2 then
    match Table.find s.sets p.arg with
    | none => (true, v, s)
    | some st =>
      let h := setHead st.image
      let s := s.count unitLTR 5 (shingles h.k (if h.tokens then 4 else 1) text).length
      match h.decide st.image text j.gsid (sameSet h.dataset) p.extra with
      | some (n, k) => (false, { v with equal := n, keeper := k }, s)
      | none => (true, v, s)
  else if p.kind = 3 then
    match Table.find s.mash.models p.arg with
    | none => (true, v, s)
    | some m =>
      let (scores, s) :=
        if leAt m.image 7 1 = 1 then s.runModel m (x.fieldAt 0x18 8) (x.fieldAt 0x20 4)
        else s.runModel m (x.fieldAt 0x30 8) (leAt m.image 8 4)
      let sc := scores.getD p.param 0
      let nan := (fp32.decode sc).isNan
      let s := if nan then s.errAdd LTR_ERR_CNT_NAN_SCORE 1 else s
      (!nan && !fLt sc p.lo && !fLt p.hi sc && !(fp32.decode p.lo).isNan && !(fp32.decode p.hi).isNan, { v with score := sc }, s)
  else (bitAt (BitVec.ofNat 32 p.extra) j.status, v, s)

/-- The predicates in order; the first that fails decides. -/
def State.judgeAll (s : State) (x : Taken) (j : Judged) (sameSet : Nat → Bool) (text : List Byte) (v : Verdict) :
    Nat → List Predicate → Verdict × State
  | _, [] => (v, s)
  | i, p :: ps =>
    match s.judgeOne x j sameSet text v p with
    | (true, v, s) => s.judgeAll x j sameSet text v (i + 1) ps
    | (false, v, s) => ({ v with failed := some (i, p.kind) }, s)

/-- The verdict record (R238). -/
def verdictRecord (j : Judged) (verdict : Nat) (v : Verdict) : List Byte :=
  let reason := match v.failed with
    | some (i, _) => i
    | none => 0xFF
  let kind := match v.failed with
    | some (_, k) => k
    | none => 0
  leBytes 6 j.gsid ++ leBytes 1 verdict ++ leBytes 1 reason ++ leBytes 6 j.pos ++ leBytes 1 kind ++ zeros 1 ++ leBytes 4 v.score
    ++ leBytes 2 v.equal ++ zeros 2 ++ leBytes 6 v.keeper ++ zeros 2

/-- The dataset a recipe's samples belong to: that of its launch (R119). -/
def State.sampleDataset (s : State) (cls ring : Nat) : Option Nat :=
  match s.recipeOfRing cls ring with
  | some (_, r) => r.launch.map (fun l => l.dataset.toNat)
  | none => none

/-- FILTER (R232 to R234, R238, R239). -/
def State.filterRun (s : State) (x : Taken) : State :=
  let n := x.fieldAt 0x24 1
  let recKind := x.fieldAt 0x25 1 % 4
  let textKind := x.fieldAt 0x25 1 / 4 % 4
  let text := x.fieldAt 0x18 8
  let scoreIn := x.fieldAt 0x30 8
  let bad (s : State) (code : Nat) : State :=
    let s := if code = stBAD_FILTER then s.errAdd LTR_ERR_CNT_BAD_FILTER 1 else s
    (s.count unitLTR 0 1).finish x code 0 []
  if n = 0 ∨ 16 < n ∨ recKind = 3 ∨ 1 < textKind then bad s stBAD_FILTER
  else
    let j := judged recKind (s.dramBytes (x.fieldAt 0x10 8) 128)
    let ps := (List.range n).map (fun i => predicate (s.dramBytes (x.fieldAt 0x28 8 + 16 * i) 16))
    let s := (s.engineAccess 6 false (x.fieldAt 0x10 8) (if recKind = 1 then 128 else 64)).engineAccess 6 false (x.fieldAt 0x28 8) (16 * n)
    match ps.findSome? (fun p => s.predicateRefusal p recKind textKind text scoreIn) with
    | some code => bad s code
    | none =>
      let out := x.fieldAt 0x38 8
      let none_ : Verdict := ⟨none, 0, 0, 0⟩
      if j.status ≠ stOK ∧ j.status ≠ stCONCEALED ∧ j.status ≠ stSUBSTITUTED then
        ((s.count unitLTR 0 1).engineWrite 6 out (verdictRecord j 2 none_)).finish x j.status 0 [(out, 32)]
      else
        let len := x.fieldAt 0x20 4 * (if textKind = 1 then 4 else 1)
        let body := if text = 0 then [] else s.dramBytes text len
        let s := s.engineAccess 6 false text (if text = 0 then 0 else len)
        let same := fun d => s.sampleDataset 6 x.ring == some d
        let (v, s) := s.judgeAll x j same body none_ 0 ps
        let s := s.count unitLTR 0 1
        match v.failed with
        | none => ((s.count unitLTR 1 1).engineWrite 6 out (verdictRecord j 0 v)).finish x stOK 0 [(out, 32)]
        | some (_, k) =>
          let s := s.count unitLTR (if k = 2 then 3 else if k = 3 then 4 else 2) 1
          (s.engineWrite 6 out (verdictRecord j 1 v)).finish x stDROPPED 0 [(out, 32)]

/-- `LTR_SETn` (R246). -/
def State.showSet (s : State) (slot : Nat) : State :=
  s.setReg (LTR_SET + 4 * slot) (match Table.find s.sets slot with
    | some st =>
      let h := setHead st.image
      BitVec.ofNat 32 (2 ^ 31 + (h.m / 128) * 2 ^ 30 + h.bands % 128 * 2 ^ 23 + h.entries)
    | none => 0)

/-- LOAD_SET (R237): the index the lauter builds in its area is its own. -/
def State.loadSet (s : State) (x : Taken) : State :=
  let slot := x.fieldAt 0x10 1 % 4
  let len := x.fieldAt 0x20 4
  let b := s.dramBytes (x.fieldAt 0x18 8) len
  let h := setHead b
  if (Table.find s.sets slot).isSome then s.finish x stSET_BUSY 0 []
  else if !setFormatOk b || Nat.blt (x.fieldAt 0x30 8) (h.entries * h.bands * 8) then s.finish x stBAD_SET 0 []
  else
    let n := h.entries * h.bands * 8
    let (draw, s) := s.freshFree
    let s := s.engineAccess 6 false (x.fieldAt 0x18 8) len
    let s := s.engineWrite 6 (x.fieldAt 0x28 8) ((List.range n).map (Config.rawByte draw))
    let st : MinSet := ⟨(s.recipeOfRing 6 x.ring).map (·.1), b⟩
    ({ s with sets := Table.put s.sets slot st }.showSet slot).finish x stOK 0 []

/-- SIGNATURE (R235, R237). -/
def State.signatureRun (s : State) (x : Taken) : State :=
  match Table.find s.sets (x.fieldAt 0x10 1 % 4) with
  | none => s.finish x stNO_SET 0 []
  | some st =>
    let h := setHead st.image
    let kind := x.fieldAt 0x24 1
    if h.tokens != (kind == 1) || Nat.blt 1 kind then (s.errAdd LTR_ERR_CNT_BAD_FILTER 1).finish x stBAD_FILTER 0 []
    else
      let b := s.dramBytes (x.fieldAt 0x18 8) (x.fieldAt 0x20 4 * (if h.tokens then 4 else 1))
      let s := (s.engineAccess 6 false (x.fieldAt 0x18 8) b.length).count unitLTR 5 (shingles h.k (if h.tokens then 4 else 1) b).length
      let out := (h.signature b).flatMap (leBytes 4)
      (s.engineWrite 6 (x.fieldAt 0x28 8) out).finish x stOK 0 [(x.fieldAt 0x28 8, out.length)]

/-- UNLOAD_SET (R237, R240): it waits for the descriptors that use the set. -/
def State.unloadSet (s : State) (x : Taken) : State :=
  let slot := x.fieldAt 0x10 1 % 4
  if (Table.find s.sets slot).isNone then s.finish x stNO_SET 0 []
  else if s.slotInUse 2 slot then s
  else ({ s with sets := Table.drop s.sets slot }.showSet slot).finish x stOK 0 []

/-! ## The commands -/

/-- FILTER. -/
def execFilter (c : CoreId) (t : Ticket) (s : State) : Res :=
  .next (match s.running c t 6 0x01 with
    | some x => if s.engineRuns 6 then s.filterRun x else s
    | none => s)

/-- LOAD_SET. -/
def execLoadSet (c : CoreId) (t : Ticket) (s : State) : Res :=
  .next (match s.running c t 6 0x02 with
    | some x => if s.engineRuns 6 then s.loadSet x else s
    | none => s)

/-- SIGNATURE. -/
def execSignature (c : CoreId) (t : Ticket) (s : State) : Res :=
  .next (match s.running c t 6 0x03 with
    | some x => if s.engineRuns 6 then s.signatureRun x else s
    | none => s)

/-- UNLOAD_SET. -/
def execUnloadSet (c : CoreId) (t : Ticket) (s : State) : Res :=
  .next (match s.running c t 6 0x04 with
    | some x => if s.engineRuns 6 then s.unloadSet x else s
    | none => s)

end Sys2Proof.Machine
end

