-- ==== Sys2Proof/Machine/Tokenizer.lean ====
section
/-!
DEFINITION. Vocabulary images and tokenization (R249, R250, R252 to R255).
-/

namespace Sys2Proof.Machine

/-! ## Vocabulary images (R249, R250) -/

/-- The token IDs of a constraint entry; `none` where it breaks R250. -/
def constraintAt (b : List Byte) (off tokens mask pad : Nat) : Option (List Nat) :=
  let n := leAt b off 1
  let ids := (List.range n).map (fun i => leAt b (off + 4 + 4 * i) 4)
  if decide (1 ≤ n ∧ n ≤ 8) && decide (off + 40 ≤ b.length) && ids.all (fun t => decide (t < tokens) && t != mask && t != pad) then
    some ids
  else none

/-- The string of a token; `none` where it lies outside the image. -/
def stringAt (b : List Byte) (table t : Nat) : Option (List Byte) :=
  let off := leAt b (table + 8 * t) 4
  let len := leAt b (table + 8 * t + 4) 1
  if off + len ≤ b.length then some (sliceOf off len b) else none

/-- A list whose every element is there. -/
def allSome {α : Type} : List (Option α) → Option (List α)
  | [] => some []
  | none :: _ => none
  | some x :: xs => (allSome xs).map (fun l => x :: l)

/-- No string stands twice in a list. -/
def noRepeat : List (List Byte) → Bool
  | [] => true
  | x :: xs => !xs.contains x && noRepeat xs

/-- Tokens never matched, beside those with empty strings: fallback, MASK and PAD. -/
def specialToken (base mask pad t : Nat) : Bool := decide (base ≤ t ∧ t < base + 256) || t == mask || t == pad

/-- The header of R249 is within its ranges. -/
def vocabHeadOk (b : List Byte) : Bool :=
  let tokens := leAt b 8 4
  leAt b 0 4 == 0x434F564B && leAt b 4 2 == 1 && decide (1 ≤ leAt b 6 1 ∧ leAt b 6 1 ≤ 128) && decide (258 ≤ tokens ∧ tokens ≤ 262144)
    && decide (leAt b 0x0C 4 + 255 < tokens) && decide (leAt b 0x10 4 < tokens) && decide (leAt b 0x14 4 < tokens)
    && decide (leAt b 0x18 2 ≤ 4096) && decide (leAt b 0x1A 2 ≤ 256) && leAt b 0x28 4 == b.length && decide (64 ≤ b.length)
    && decide (leAt b 0x1C 4 + 8 * tokens ≤ b.length)

/-- The vocabulary of an image; `none`: BAD_VOCAB. -/
def parseVocab (b : List Byte) : Option Vocab :=
  let tokens := leAt b 8 4
  let base := leAt b 0x0C 4
  let mask := leAt b 0x10 4
  let pad := leAt b 0x14 4
  if !vocabHeadOk b then none
  else
    let strings := allSome ((List.range tokens).map (stringAt b (leAt b 0x1C 4)))
    let banned := allSome ((List.range (leAt b 0x18 2)).map (fun k => constraintAt b (leAt b 0x20 4 + 40 * k) tokens mask pad))
    let forced := allSome ((List.range (leAt b 0x1A 2)).map (fun k => constraintAt b (leAt b 0x24 4 + 40 * k) tokens mask pad))
    match strings, banned, forced with
    | some ss, some bs, some fs =>
      let plain := (ss.zipIdx.filter (fun e => !specialToken base mask pad e.2 && !e.1.isEmpty)).map (·.1)
      if ss.all (fun x => decide (x.length ≤ leAt b 6 1)) && noRepeat plain then
        some ⟨leAt b 6 1, base, mask, pad, ss, bs, fs⟩
      else none
    | _, _, _ => none

/-- The sum of all string lengths (R251). -/
def Vocab.stringBytes (v : Vocab) : Nat := v.strings.foldl (fun n x => n + x.length) 0

/-- Tokens that may match, with their strings. -/
def Vocab.plain (v : Vocab) : List (Nat × List Byte) :=
  (v.strings.zipIdx.filter (fun e => !specialToken v.fallback v.mask v.pad e.2 && !e.1.isEmpty)).map (fun e => (e.2, e.1))

/-- A token that is a banned sequence by itself (R253). -/
def Vocab.banned1 (v : Vocab) (t : Nat) : Bool := v.banned.contains [t]

/-! ## Marked bytes (R252) -/

/-- A byte and whether it is valid. -/
abbrev Marked := Byte × Bool

/-- The range of the second byte and the length of a UTF-8 sequence by its first byte (Unicode, table 3-7). -/
def utf8Lead (c : Nat) : Nat × Nat × Nat :=
  if c < 0x80 then (1, 0, 0)
  else if 0xC2 ≤ c ∧ c ≤ 0xDF then (2, 0x80, 0xBF)
  else if c = 0xE0 then (3, 0xA0, 0xBF)
  else if c = 0xED then (3, 0x80, 0x9F)
  else if 0xE1 ≤ c ∧ c ≤ 0xEF then (3, 0x80, 0xBF)
  else if c = 0xF0 then (4, 0x90, 0xBF)
  else if 0xF1 ≤ c ∧ c ≤ 0xF3 then (4, 0x80, 0xBF)
  else if c = 0xF4 then (4, 0x80, 0x8F)
  else (0, 0, 0)

/-- The bytes at hand agree with a well-formed sequence as far as they go. -/
def utf8Agrees (b : List Byte) (n lo hi : Nat) : Bool :=
  ((b.take n).drop 1).zipIdx.all (fun e =>
    let v := e.1.toNat
    if e.2 = 0 then decide (lo ≤ v ∧ v ≤ hi) else decide (0x80 ≤ v ∧ v ≤ 0xBF))

/-- The length of the well-formed sequence at the head of a list; 0: none. -/
def utf8At (b : List Byte) : Nat :=
  let (n, lo, hi) := utf8Lead (b.headD 0).toNat
  if n ≤ b.length && utf8Agrees b n lo hi then n else 0

/-- A list that ends within a sequence that may still become well-formed. -/
def utf8Partial (b : List Byte) : Bool :=
  let (n, lo, hi) := utf8Lead (b.headD 0).toNat
  decide (b.length < n) && utf8Agrees b n lo hi

/-- Mark UTF-8 input; the number given bounds the steps. -/
def markUtf8 : Nat → List Byte → List Marked
  | 0, _ => []
  | _ + 1, [] => []
  | k + 1, b :: bs =>
    let n := utf8At (b :: bs)
    if n = 0 then (b, false) :: markUtf8 k bs
    else ((b :: bs).take n).map (fun x => (x, true)) ++ markUtf8 k ((b :: bs).drop n)

/-- The UTF-8 bytes of a code point. -/
def utf8Bytes (c : Nat) : List Byte :=
  let cont (i : Nat) : Byte := BitVec.ofNat 8 (0x80 + c / 2 ^ (6 * i) % 64)
  if c < 0x80 then [BitVec.ofNat 8 c]
  else if c < 0x800 then [BitVec.ofNat 8 (0xC0 + c / 64), cont 0]
  else if c < 0x10000 then [BitVec.ofNat 8 (0xE0 + c / 4096), cont 1, cont 0]
  else [BitVec.ofNat 8 (0xF0 + c / 262144), cont 2, cont 1, cont 0]

def isHigh (u : Nat) : Bool := decide (0xD800 ≤ u ∧ u ≤ 0xDBFF)
def isLow (u : Nat) : Bool := decide (0xDC00 ≤ u ∧ u ≤ 0xDFFF)

/-- Mark UTF-16 input. -/
def markUtf16 (big : Bool) : Nat → List Byte → List Marked
  | 0, _ => []
  | _ + 1, [] => []
  | _ + 1, [b] => [(b, false)]
  | k + 1, a :: b :: rest =>
    let unit (x y : Byte) : Nat := if big then x.toNat * 256 + y.toNat else y.toNat * 256 + x.toNat
    let u := unit a b
    let next := match rest with
      | c :: d :: _ => unit c d
      | _ => 0
    if isHigh u && isLow next then
      (utf8Bytes (0x10000 + (u - 0xD800) * 1024 + (next - 0xDC00))).map (fun x => (x, true)) ++ markUtf16 big k (rest.drop 2)
    else if isHigh u || isLow u then (a, false) :: (b, false) :: markUtf16 big k rest
    else (utf8Bytes u).map (fun x => (x, true)) ++ markUtf16 big k rest

/-- Input with one byte-order mark at its start removed. -/
def dropBom (enc : Nat) (b : List Byte) : List Byte :=
  if enc = 1 then (if b.take 3 = [0xEF, 0xBB, 0xBF] then b.drop 3 else b)
  else if enc = 2 then (if b.take 2 = [0xFF, 0xFE] then b.drop 2 else b)
  else if b.take 2 = [0xFE, 0xFF] then b.drop 2 else b

/-- The marked bytes of a sample: ENC 1 UTF-8, 2 UTF-16LE, 3 UTF-16BE. -/
def markBytes (enc : Nat) (b : List Byte) : List Marked :=
  let b := dropBom enc b
  if enc = 1 then markUtf8 b.length b else markUtf16 (enc == 3) b.length b

/-- Trailing input bytes of a piece that are pending: a partial character (R258). -/
def pendingBytes (enc : Nat) (b : List Byte) : Nat :=
  if enc = 1 then
    match [3, 2, 1].find? (fun n => decide (n ≤ b.length) && utf8Partial (b.drop (b.length - n))
        && utf8Lead ((b.drop (b.length - n)).headD 0).toNat != (1, 0, 0)) with
    | some n => n
    | none => 0
  else
    let odd := b.length % 2
    let even := b.take (b.length - odd)
    let tail := even.drop (even.length - 2)
    let u := if enc = 3 then beNat tail else leNat tail
    odd + (if tail.length = 2 && isHigh u then 2 else 0)

/-! ## Content tokens (R253, R254) -/

/-- A content token with what it stands for: a match, an invalid byte, a valid byte by fallback, or a MASK. -/
inductive TokenTag where
  | plain | invalid | fallback | mask
deriving DecidableEq, Repr

/-- The head of a marked list spells a string. -/
def spells (x : List Byte) (b : List Marked) : Bool :=
  let h := b.take x.length
  h.length == x.length && h.map (·.1) == x && h.all (·.2)

/-- The longest non-banned token that matches at the head: ID and length. -/
def Vocab.longest (v : Vocab) (b : List Marked) : Option (Nat × Nat) :=
  (v.plain.filter (fun e => !v.banned1 e.1 && spells e.2 b)).foldl (fun best e =>
    match best with
    | some (_, n) => if n < e.2.length then some (e.1, e.2.length) else best
    | none => some (e.1, e.2.length)) none

/-- A token whose match at the head more input could still lengthen. -/
def Vocab.undecided (v : Vocab) (b : List Marked) : Bool :=
  b.all (·.2) && v.plain.any (fun e => !v.banned1 e.1 && decide (b.length < e.2.length) && (b.map (·.1)).isPrefixOf e.2)

/-- A token can start at the head (R253 `legal_start`). -/
def Vocab.legalStart (v : Vocab) (b : List Marked) : Bool :=
  (v.longest b).isSome || !v.banned1 (v.fallback + (b.headD (0, true)).1.toNat)

/-- The bytes before the next legal start. -/
def Vocab.spanLen (v : Vocab) : List Marked → Nat
  | [] => 0
  | b :: bs => if v.legalStart (b :: bs) then 0 else 1 + v.spanLen bs

/-- The chosen tokens before `mask_bans`; with `more` set, only those that later input cannot change (R258). -/
def Vocab.choose (v : Vocab) (more : Bool) : Nat → List Marked → List (Nat × TokenTag)
  | 0, _ => []
  | _ + 1, [] => []
  | k + 1, b :: bs =>
    if more && v.undecided (b :: bs) then []
    else match v.longest (b :: bs) with
      | some (t, n) => (t, .plain) :: v.choose more k ((b :: bs).drop n)
      | none =>
        let f := v.fallback + b.1.toNat
        if v.banned1 f then
          let rest := bs.drop (v.spanLen bs)
          if more && (rest.isEmpty || (List.range (v.spanLen bs + 1)).any (fun i => v.undecided (bs.drop i))) then []
          else (v.mask, .mask) :: v.choose more k rest
        else (f, if b.2 then .fallback else .invalid) :: v.choose more k bs

/-- The length of the longest banned sequence of LEN 2 or more at the head; 0: none. -/
def Vocab.bannedRun (v : Vocab) (ts : List (Nat × TokenTag)) : Nat :=
  (v.banned.filter (fun q => decide (2 ≤ q.length) && q.isPrefixOf (ts.map (·.1)))).foldl (fun n q => max n q.length) 0

/-- A banned sequence that later tokens could still complete at the head. -/
def Vocab.banOpen (v : Vocab) (ts : List (Nat × TokenTag)) : Bool :=
  v.banned.any (fun q => decide (2 ≤ q.length ∧ ts.length < q.length) && (ts.map (·.1)).isPrefixOf q)

/-- `mask_bans` of R253. -/
def Vocab.maskBans (v : Vocab) (more : Bool) : Nat → List (Nat × TokenTag) → List (Nat × TokenTag)
  | 0, _ => []
  | _ + 1, [] => []
  | k + 1, t :: ts =>
    if more && v.banOpen (t :: ts) then []
    else
      let n := v.bannedRun (t :: ts)
      if n = 0 then t :: v.maskBans more k ts else (v.mask, .mask) :: v.maskBans more k ((t :: ts).drop n)

/-- The content tokens of marked bytes. -/
def Vocab.content (v : Vocab) (more : Bool) (b : List Marked) : List (Nat × TokenTag) :=
  let ts := v.choose more b.length b
  v.maskBans more ts.length ts

/-- Tokens of one tag. -/
def tagCount (tag : TokenTag) (ts : List (Nat × TokenTag)) : Nat := (ts.filter (fun t => t.2 == tag)).length

/-! ## Segments (R255) -/

/-- The truncation of a descriptor. -/
structure Cut where
  trunc : Nat
  limit : Nat
  tail : Nat
deriving DecidableEq, Repr

/-- A forced sequence by index, 0xFF for none; `none`: BAD_DESC. -/
def Vocab.forcedSeq (v : Vocab) (i : Nat) : Option (List Nat) := if i = 0xFF then some [] else v.forced[i]?

/-- R255 refuses a truncation with F forced tokens. -/
def Cut.bad (c : Cut) (f : Nat) : Bool := c.trunc != 0 && (decide (c.limit < f + 1) || (c.trunc == 3 && decide (c.limit - f < c.tail)))

/-- The content kept, with F forced tokens. -/
def Cut.keep (c : Cut) (f : Nat) (ts : List Nat) : List Nat :=
  let lc := c.limit - f
  if c.trunc = 0 ∨ ts.length ≤ lc then ts
  else if c.trunc = 1 then ts.take lc
  else if c.trunc = 2 then ts.drop (ts.length - lc)
  else ts.take (lc - c.tail) ++ ts.drop (ts.length - c.tail)

end Sys2Proof.Machine
end

