-- ==== Sys2Proof/Machine/Store.lean ====
section
/-!
DEFINITION. The pack store (R266 to R268): what it holds, its space and the requests that wait for it.
-/

namespace Sys2Proof.Machine

open Reg

/-- Store bytes that SIZE gives. -/
def State.storeSize (s : State) : Nat := s.fld CSK_STORE_SIZE_GIB * 2 ^ 30
/-- The store's base address. -/
def State.storeBase (s : State) : Nat := s.fld CSK_STORE_BASE_HI_BASE_H * 2 ^ 32 + s.fld CSK_STORE_BASE_LO_BASE_L * 65536

/-- The runs of the store in use. -/
def PackStore.runs (p : PackStore) : List Block :=
  p.streams.flatMap (fun e => e.2.segs.map (fun g => (⟨g.2.base, g.2.size⟩ : Block)) ++ e.2.rows.map (fun r => ⟨r.base, r.size⟩))
    ++ p.parts.map (fun x => ⟨x.base, x.size⟩)

def PackStore.used (p : PackStore) : Nat := p.runs.foldl (fun n b => n + b.size) 0

/-- The store holds any entry (R284). -/
def PackStore.holds (p : PackStore) : Bool :=
  !p.parts.isEmpty || !p.waiting.isEmpty || p.streams.any (fun e => !e.2.segs.isEmpty || !e.2.rows.isEmpty || !e.2.dropped.isEmpty)

/-- `CSK_STORE_USED`. -/
def State.showStore (s : State) : State := s.setFld CSK_STORE_USED_MIB (ceilDiv s.store.used 1048576)

/-- A free run of `n` bytes: an eighth of the store is kept back unless the request is the one it is kept for. -/
def State.storeRun (s : State) (n : Nat) (reserve : Bool) : Option Nat :=
  let size := s.storeSize
  let limit := if reserve then size else size - size / 8
  if s.store.used + n ≤ limit then firstFit s.store.runs s.storeBase size n else none

/-- A request beyond an eighth of the store (R267). -/
def State.storeRefuses (s : State) (n : Nat) : Bool := s.storeSize == 0 || decide (s.storeSize / 8 < n)

/-- A request may be served now: it is the first that waits, or the one space is kept back for. -/
def State.storeTurn (s : State) (x : Taken) (reserve : Bool) : Bool :=
  reserve || (match s.store.waiting with
    | [] => true
    | w :: _ => w == (x.core.val, x.ticket.toNat))

/-- A request waits. -/
def State.storeWait (s : State) (x : Taken) : State :=
  let w := (x.core.val, x.ticket.toNat)
  if s.store.waiting.contains w then s else { s with store := { s.store with waiting := s.store.waiting ++ [w] } }

/-- A request waits no more. -/
def State.storeServed (s : State) (x : Taken) : State :=
  { s with store := { s.store with waiting := s.store.waiting.filter (fun w => w != (x.core.val, x.ticket.toNat)) } }

/-- A stream's entry in the store. -/
def State.packStream (s : State) (serial owner : Nat) : PackStream :=
  (Table.find s.store.streams serial).getD ⟨owner, [], [], [], 0, [], 0⟩

def State.setPackStream (s : State) (serial : Nat) (p : PackStream) : State :=
  { s with store := { s.store with streams := Table.put s.store.streams serial p } }.showStore

/-- The lowest home position of a stream that is not yet packed (R267). -/
def State.lowestUnpacked (s : State) (st : FetchStream) : Option Nat :=
  let p := s.packStream st.serial st.handle
  ((List.range (st.last - st.first)).map (· + st.first)).find? (fun q => st.keeps q && !p.packed.contains q)

/-- Bytes of a segment in the store: its token IDs. -/
def segmentBytes (tokens : List Nat) : Nat := max 64 (alignUp (4 * tokens.length) 64)

/-- The stream an item belongs to: its ring's. -/
def State.streamOfItem (s : State) (h grist : Nat) : Option FetchStream :=
  match s.fetch.streams.find? (fun e => e.2.handle == h && e.2.held.any (fun i => i.grist == grist)) with
  | some e => some e.2
  | none =>
    match s.fetch.spareHeld.find? (fun e => e.2.any (fun i => i.grist == grist) && (s.recipeOfRing 1 e.1).any (fun r => r.1 == h)) with
    | some e => s.fetchStream e.1
    | none => none

/-- Enter a segment at a position (R261); one for a position already packed is dropped. -/
def State.enterSegment (s : State) (st : FetchStream) (pos : Nat) (g : Segment) : State :=
  let p := s.packStream st.serial st.handle
  if p.packed.contains pos then s else s.setPackStream st.serial { p with segs := Table.put p.segs pos g }

/-- Every store entry of a recipe is freed (R282). -/
def State.releaseStore (s : State) (h : Nat) : State :=
  { s with store := { s.store with
    streams := s.store.streams.filter (fun e => e.2.owner != h)
    parts := s.store.parts.filter (fun p => p.owner != some h) } }.showStore

end Sys2Proof.Machine
end

