-- ==== Sys2Proof/Machine/Token.lean ====
section
/-!
DEFINITION. The token unit (R248 to R265, R283, R636): vocabularies, TOKENIZE in both modes and streamed text.
-/

namespace Sys2Proof.Machine

open Reg

def stBAD_DESC : Nat := 0x40
def stNO_VOCAB : Nat := 0x41
def stBAD_VOCAB : Nat := 0x42
def stVOCAB_BUSY : Nat := 0x43
def stVOCAB_TOO_LARGE : Nat := 0x44
def stTOK_BAD_ITEM : Nat := 0x45
def stTOK_BAD_CONTEXT : Nat := 0x46
def stTOK_STORE_SIZE : Nat := 0x47

/-! ## Vocabularies (R249 to R251) -/

/-- `TOK_VOCABn`. -/
def State.showVocab (s : State) (slot : Nat) : State :=
  s.setReg (TOK_VOCAB + 4 * slot) (match Table.find s.vocabs slot with
    | some v => BitVec.ofNat 32 (2 ^ 31 + v.strings.length)
    | none => 0)

/-- VOCAB_LOAD: the first of VOCAB_BUSY, BAD_VOCAB and VOCAB_TOO_LARGE (R636). The trie's bytes are the unit's own. -/
def State.vocabLoad (s : State) (x : Taken) : State :=
  let slot := x.fieldAt 0x10 1 % 16
  let b := s.dramBytes (x.fieldAt 0x18 8) (x.fieldAt 0x20 4)
  if (Table.find s.vocabs slot).isSome then s.finish x stVOCAB_BUSY 0 []
  else match parseVocab b with
    | none => s.finish x stBAD_VOCAB 0 []
    | some v =>
      let need := 16 * v.stringBytes + 65536
      if x.fieldAt 0x30 4 < need then s.finish x stVOCAB_TOO_LARGE 0 []
      else
        let (draw, s) := s.freshFree
        let s := s.engineAccess 8 false (x.fieldAt 0x18 8) b.length
        let s := s.engineWrite 8 (x.fieldAt 0x28 8) ((List.range need).map (Config.rawByte draw))
        ({ s with vocabs := Table.put s.vocabs slot v }.showVocab slot).finish x stOK 0 []

/-- The slot a descriptor of the unit names. -/
def Taken.vocabSlot (x : Taken) : Nat := if descOpcode x.desc = 1 then x.fieldAt 0x27 1 % 16 else x.fieldAt 0x10 1 % 16

/-- Descriptors of the unit taken before one, still running, of an opcode and slot. -/
def State.tokenBefore (s : State) (x : Taken) (opcode slot : Nat) : Bool :=
  (s.taken.takeWhile (fun y => !(y.core == x.core && y.ticket == x.ticket))).any (fun y =>
    y.cls == 8 && descOpcode y.desc == opcode && y.vocabSlot == slot && y.result.isNone)

/-- VOCAB_UNLOAD (R251): it waits for each TOKENIZE of its slot that a lane took before it. -/
def State.vocabUnload (s : State) (x : Taken) : State :=
  let slot := x.vocabSlot
  if (Table.find s.vocabs slot).isNone then s.finish x stNO_VOCAB 0 []
  else if s.tokenBefore x 1 slot then s
  else ({ s with vocabs := Table.drop s.vocabs slot }.showVocab slot).finish x stOK 0 []

/-! ## TOKENIZE (R255 to R263) -/

/-- MAX_IN as it acts (R256). -/
def Taken.maxIn (x : Taken) : Nat := if x.fieldAt 0x1C 4 = 0 then 67108864 else x.fieldAt 0x1C 4
def Taken.tokCut (x : Taken) : Cut := ⟨x.fieldAt 0x27 1 / 64, x.fieldAt 0x20 4, x.fieldAt 0x24 3⟩
def Taken.tokFlag (x : Taken) (i : Nat) : Bool := bitAt (BitVec.ofNat 8 (x.fieldAt 0x36 1)) i
/-- ENC, from the item's CODEC where the field is 0. -/
def Taken.enc (x : Taken) (codec : Nat) : Nat :=
  let e := x.fieldAt 0x27 1 / 16 % 4
  if e ≠ 0 then e else if 9 ≤ codec ∧ codec ≤ 0x0B then codec - 8 else 0

/-- What a TOKENIZE makes of its input: the row of R259, the input read and the first damage. -/
inductive TextRow where
  | clean          -- tokenize
  | asRead         -- the bytes as read, CONCEALED
  | partially      -- the good bytes, then U+FFFD
  | whole          -- U+FFFD alone
  | limit          -- U+FFFD alone, LIMIT where not concealed
deriving DecidableEq, Repr

/-- The row of an item, with the bytes to read and the damage offset (R259, R261). -/
def textRow (i : FetchItem) : TextRow × Nat × Nat :=
  if i.status = stLIMIT then (.limit, 0, allOnes64)
  else if i.status = stDAMAGED ∧ i.cause = 1 ∧ i.frame = 0 then (.asRead, i.storedLen, allOnes64)
  else if i.status = stOK ∨ i.status = stSUBSTITUTED then
    if i.frame = 0 then (.clean, i.storedLen, 0)
    else match i.kiln with
      | none => (.whole, 0, allOnes64)
      | some k =>
        if k.status = stOK then (.clean, k.outBytes, 0)
        else if k.outBytes = 0 then (.whole, 0, k.offset) else (.partially, k.outBytes, k.offset)
  else (.whole, 0, allOnes64)

/-- The refusal of R256 replaces a row whose input is too long. -/
def limitRow (r : TextRow × Nat × Nat) (most : Nat) : TextRow × Nat × Nat := if most < r.2.1 then (.limit, 0, 0) else r

/-- What is written of a text. -/
structure TextOut where
  tokens : List Nat
  status : Nat
  cut : Nat
  invalid : Nat
  fallback : Nat
  masks : Nat
  inBytes : Nat
  dmg : Nat
deriving DecidableEq, Repr

/-- FLAGS of the token record. -/
def TextOut.flags (o : TextOut) : Nat :=
  (decide (0 < o.cut)).toNat + 2 * (decide (0 < o.masks)).toNat + 4 * (decide (0 < o.invalid)).toNat
    + 8 * (decide (0 < o.fallback)).toNat

/-- The tokens of U+FFFD. -/
def Vocab.replacement (v : Vocab) : List (Nat × TokenTag) := v.content false (markBytes 1 [0xEF, 0xBF, 0xBD])

/-- Tokenize a whole sample by its row (R253 to R259, R263). -/
def textOut (v : Vocab) (enc : Nat) (c : Cut) (first last : List Nat) (conceal substituted : Bool) (row : TextRow) (input : List Byte)
    (dmg : Nat) : TextOut :=
  if row ≠ .clean ∧ !conceal then
    ⟨[], if row = .limit then stLIMIT else stDAMAGED, 0, 0, 0, 0, input.length, dmg⟩
  else
    let read := if row = .whole ∨ row = .limit then [] else v.content false (markBytes enc input)
    let content := if row = .clean ∨ row = .asRead then read else read ++ v.replacement
    let f := first.length + last.length
    let all := content.map (·.1)
    let kept := c.keep f all
    let cut := all.length - kept.length
    let masks := tagCount .mask content
    let status := if row ≠ .clean then stCONCEALED else if substituted then stSUBSTITUTED else if 0 < masks then stMASKED
      else if 0 < cut then stTRUNCATED else stOK
    ⟨first ++ kept ++ last, status, cut, tagCount .invalid content, tagCount .fallback content, masks, input.length, dmg⟩

/-- The token record (R263). -/
def tokenRecord (x : Taken) (o : TextOut) (gsid pos addr gtc : Nat) : List Byte :=
  leBytes 6 gsid ++ leBytes 1 o.status ++ leBytes 1 o.flags ++ leBytes 6 pos ++ leBytes 1 x.vocabSlot ++ zeros 1
    ++ leBytes 4 o.tokens.length ++ leBytes 4 o.cut ++ leBytes 4 o.invalid ++ leBytes 4 o.fallback ++ leBytes 4 o.masks
    ++ leBytes 4 o.inBytes ++ leBytes 8 addr ++ leBytes 8 o.dmg ++ leBytes 8 gtc

/-- Count a TOKENIZE and end it (R283); cache misses depend on the cache. -/
def State.endTokenize (s : State) (x : Taken) (o : TextOut) (out : List (Nat × Nat)) : State :=
  let (misses, s) := s.freshFree
  let s := ((s.count unitTOK 0 1).count unitTOK 1 o.inBytes).count unitTOK 2 o.tokens.length
  let s := ((s.count unitTOK 3 o.invalid).count unitTOK 4 o.masks).count unitTOK 5 misses
  let s := if 0 < o.invalid then s.errAdd TOK_ERR_CNT_INVALID 1 else s
  let s := if o.status = stMASKED then s.errAdd TOK_ERR_CNT_MASKED 1 else s
  let s := if o.status = stDAMAGED then s.errAdd TOK_ERR_CNT1_DAMAGED 1 else s
  s.finish x o.status 0 out

/-- A refusal with an engine code. -/
def State.tokenRefuse (s : State) (x : Taken) (code : Nat) : State := (s.count unitTOK 0 1).finish x code 0 []

/-- Token IDs as the unit writes them. -/
def tokenBytes (ts : List Nat) : List Byte := ts.flatMap (leBytes 4)

/-- Item mode: the segment goes to the pack store (R261, R267). -/
def State.tokenizeItem (s : State) (x : Taken) (v : Vocab) (h : Nat) (i : FetchItem) (enc : Nat) (first last : List Nat) : State :=
  let l := s.limitsOf 8 x.ring
  let conceal := x.tokFlag 5 || l.policy == 0
  let (row, len, dmg) := limitRow (textRow i) (min x.maxIn l.bytes)
  let refused := row == .limit && i.status != stLIMIT
  let addr := if i.frame = 0 then i.grist else i.out
  let skip := x.tokFlag 3
  let input := if skip then [] else s.dramBytes addr len
  let subst := x.tokFlag 4 || i.status == stSUBSTITUTED
  let pos := if x.tokFlag 4 then x.fieldAt 0x28 6 else i.pos
  let o := if skip then (⟨[], stDROPPED, 0, 0, 0, 0, 0, 0⟩ : TextOut)
    else textOut v enc x.tokCut first last conceal subst row input dmg
  let need := segmentBytes o.tokens
  match s.streamOfItem h i.grist with
  | none => s.tokenRefuse x stTOK_BAD_ITEM
  | some st =>
    if s.storeRefuses need then s.tokenRefuse x stTOK_STORE_SIZE
    else
      let lowest := s.lowestUnpacked st == some pos
      match (if s.storeTurn x lowest then s.storeRun need lowest else none) with
      | none => s.storeWait x
      | some base =>
        let s := (s.storeServed x).engineAccess 8 false addr input.length
        let s := if refused && !skip then s.errAdd TOK_ERR_CNT1_LIMIT 1 else s
        let lane := match i.kiln with
          | some k => k.lane
          | none => 0xFF
        let ext : MemberExt := ⟨i.crc, i.codec, i.attempt, 0xFF, 0xFF, 0xFF, lane, x.unit, 0xFFFF, s.gtc.toNat⟩
        let g : Segment := ⟨o.tokens, o.status, o.flags, i.gsid, o.dmg, skip, v.pad, v.strings.length, ext, base, need⟩
        let s := (s.enterSegment st pos g).engineWrite 8 base (tokenBytes o.tokens)
        let aux := x.fieldAt 0x38 8
        let s := if aux = 0 then s else s.engineWrite 8 aux (tokenRecord x o i.gsid pos base s.gtc.toNat)
        s.endTokenize x o (if aux = 0 then [] else [(aux, 64)])

/-- Explicit mode, one-shot (R262, R263). -/
def State.tokenizeText (s : State) (x : Taken) (v : Vocab) (first last : List Nat) : State :=
  let l := s.limitsOf 8 x.ring
  let len := x.fieldAt 0x18 4
  let input := s.dramBytes (x.fieldAt 0x10 8) len
  let (row, _, dmg) := limitRow (.clean, len, 0) (min x.maxIn l.bytes)
  let s := if row = .limit then s.errAdd TOK_ERR_CNT1_LIMIT 1 else s.engineAccess 8 false (x.fieldAt 0x10 8) len
  let o := textOut v (x.enc 0) x.tokCut first last (x.tokFlag 5 || l.policy == 0) false row (if row = .limit then [] else input) dmg
  let out := x.fieldAt 0x28 8
  let s := s.engineWrite 8 (out + 64) (tokenBytes o.tokens)
  let s := s.engineWrite 8 out (tokenRecord x o 0 0 (out + 64) s.gtc.toNat)
  s.endTokenize x o [(out, 64 + 4 * o.tokens.length)]

/-- Explicit mode, one-shot: OVERFLOW before any input is read (R262). -/
def State.tokenizeBounded (s : State) (x : Taken) (v : Vocab) (first last : List Nat) (f : Nat) : State :=
  let len := x.fieldAt 0x18 4
  let bound := if x.tokCut.trunc = 0 then len + f else min (len + f) x.tokCut.limit
  if x.fieldAt 0x30 4 < 64 + 4 * bound then s.tokenRefuse x stOVERFLOW else s.tokenizeText x v first last

/-- The context a descriptor restores: the latest whose area holds these bytes. -/
def State.textContext (s : State) (ctx : Nat) : Option TokContext :=
  let b := s.dramBytes ctx 1024
  s.texts.find? (fun c => fitBytes 1024 (Config.textContext c.input c.done) == b)

/-- Explicit mode, one piece of a streamed text (R258): the tokens that no later piece can change are written. -/
def State.tokenizePiece (s : State) (x : Taken) (v : Vocab) (first last : List Nat) : State :=
  let l := s.limitsOf 8 x.ring
  let len := x.fieldAt 0x18 4
  let enc := x.enc 0
  let begins := x.tokFlag 7
  let ends := x.tokFlag 6
  let ctx := x.fieldAt 0x38 8
  match (if begins then some ⟨[], 0⟩ else s.textContext ctx) with
  | none => s.tokenRefuse x stTOK_BAD_CONTEXT
  | some c =>
    let f := first.length + last.length
    let bound := if x.tokCut.trunc = 0 then len + f else min (len + f) x.tokCut.limit
    if x.fieldAt 0x30 4 < 64 + 4 * bound then s.tokenRefuse x stOVERFLOW
    else
      let input := c.input ++ s.dramBytes (x.fieldAt 0x10 8) len
      let out := x.fieldAt 0x28 8
      let s := s.engineAccess 8 false (x.fieldAt 0x10 8) len
      if min x.maxIn l.bytes < input.length then
        let o : TextOut := ⟨[], stLIMIT, 0, 0, 0, 0, len, 0⟩
        let s := s.errAdd TOK_ERR_CNT1_LIMIT 1
        (s.engineWrite 8 out (tokenRecord x o 0 0 (out + 64) s.gtc.toNat)).endTokenize x o [(out, 64)]
      else
        let ready := if ends then input else input.take (input.length - pendingBytes enc input)
        let content := v.content (!ends) (markBytes enc ready)
        let lc := if x.tokCut.trunc = 0 then content.length else x.tokCut.limit - f
        let fresh := (sliceOf c.done (lc - c.done) content).map (·.1)
        let tokens := (if begins then first else []) ++ fresh ++ (if ends then last else [])
        let cut := content.length - min content.length lc
        let masks := tagCount .mask content
        let status := if 0 < masks then stMASKED else if 0 < cut then stTRUNCATED else stOK
        let o : TextOut := ⟨tokens, status, cut, tagCount .invalid content, tagCount .fallback content, masks, len, 0⟩
        let c' : TokContext := ⟨input, min content.length lc⟩
        let s := if ends then s
          else { s with texts := c' :: s.texts.filter (fun d => d != c) }.engineWrite 8 ctx
            (fitBytes 1024 (Config.textContext c'.input c'.done))
        let s := s.engineWrite 8 (out + 64) (tokenBytes tokens)
        let s := s.engineWrite 8 out (tokenRecord x o 0 0 (out + 64) s.gtc.toNat)
        s.endTokenize x o [(out, 64 + 4 * tokens.length)]

/-- The live item an item-mode TOKENIZE names (R260): by its grist with FRAME 0, or by its output. -/
def State.textItem (s : State) (x : Taken) : Option FetchItem :=
  let src := x.fieldAt 0x10 8
  s.liveItem 8 x.ring (fun i => src != 0 && ((i.grist == src && i.frame == 0) || i.out == src))

/-- TOKENIZE in the order of R636: NO_VOCAB, BAD_ITEM, BAD_DESC, BAD_CONTEXT, STORE_SIZE, OVERFLOW. -/
def State.tokenize (s : State) (x : Taken) : State :=
  let item := x.fieldAt 0x18 4 == 0
  let ctx := x.fieldAt 0x38 8
  let streamed := !item && ctx != 0
  match Table.find s.vocabs x.vocabSlot with
  | none => s.tokenRefuse x stNO_VOCAB
  | some v =>
    if s.tokenBefore x 3 x.vocabSlot then s.tokenRefuse x stNO_VOCAB
    else
      let live := s.textItem x
      let noItem := item && (match live with
        | some i => x.enc i.codec == 0
        | none => true)
      if noItem then s.tokenRefuse x stTOK_BAD_ITEM
      else match v.forcedSeq (x.fieldAt 0x34 1), v.forcedSeq (x.fieldAt 0x35 1) with
        | some first, some last =>
          let f := first.length + last.length
          if x.tokCut.bad f || decide (67108864 < x.maxIn) || (!item && x.enc 0 == 0) || (streamed && decide (1 < x.tokCut.trunc)) then
            s.tokenRefuse x stBAD_DESC
          else if streamed then s.tokenizePiece x v first last
          else
            match live, s.recipeOfRing 8 x.ring with
            | some i, some (h, _) =>
              if item then s.tokenizeItem x v h i (x.enc i.codec) first last else s.tokenizeBounded x v first last f
            | _, _ => s.tokenizeBounded x v first last f
        | _, _ => s.tokenRefuse x stBAD_DESC

/-! ## The commands -/

/-- TOKENIZE. -/
def execTokenize (c : CoreId) (t : Ticket) (s : State) : Res :=
  .next (match s.running c t 8 0x01 with
    | some x => if s.engineRuns 8 then s.tokenize x else s
    | none => s)

/-- VOCAB_LOAD. -/
def execVocabLoad (c : CoreId) (t : Ticket) (s : State) : Res :=
  .next (match s.running c t 8 0x02 with
    | some x => if s.engineRuns 8 then s.vocabLoad x else s
    | none => s)

/-- VOCAB_UNLOAD. -/
def execVocabUnload (c : CoreId) (t : Ticket) (s : State) : Res :=
  .next (match s.running c t 8 0x03 with
    | some x => if s.engineRuns 8 then s.vocabUnload x else s
    | none => s)

end Sys2Proof.Machine
end

