-- ==== Sys2Proof/Machine/Cask.lean ====
section
/-!
DEFINITION. The cask packer (R268 to R282, R284): slot parts, rows, manifests, digests and replay records (R566 to R568).
-/

namespace Sys2Proof.Machine

open Reg

def stBAD_SHAPE : Nat := 0x40
def stBAD_SLOT : Nat := 0x41
def stCSK_BAD_FORMAT : Nat := 0x42
def stBAD_MERGE : Nat := 0x43
def stSTORE_SIZE : Nat := 0x44
def stNO_STREAM : Nat := 0x45
def stNOT_FOUND : Nat := 0x46

/-! ## Output formats (R270, R271) -/

/-- A format that is not an MX format: its bytes per element. -/
def plainBytes (f : Nat) : Nat := if f = 1 then 4 else if f = 2 ∨ f = 3 then 2 else 1

/-- The element format of an MX format; `none`: MXINT8. -/
def mxFmt (f : Nat) : Option FloatFmt :=
  if f = 0x10 then some fp8e4m3 else if f = 0x11 then some fp8e5m2 else if f = 0x12 then some fp6e3m2
  else if f = 0x13 then some fp6e2m3 else if f = 0x14 then some fp4e2m1 else none

/-- emax of an MX format. -/
def mxEmax (f : Nat) : Int := if f = 0x10 then 8 else if f = 0x11 then 15 else if f = 0x12 then 4 else if f = 0x13 ∨ f = 0x14 then 2 else 0

/-- Bits of an MX element. -/
def mxBits (f : Nat) : Nat := if f = 0x12 ∨ f = 0x13 then 6 else if f = 0x14 then 4 else 8

def fmtPlain (f : Nat) : Bool := decide (1 ≤ f ∧ f ≤ 6)
def fmtMx (f : Nat) : Bool := decide (0x10 ≤ f ∧ f ≤ 0x15)

/-- MX blocks of a slot. -/
def mxBlocks (elems inner : Nat) : Nat := elems / inner * ceilDiv inner 32

/-- Raw slot bytes, rounded up to 64 (R270). -/
def slotBytes (f elems inner : Nat) : Nat :=
  alignUp (if fmtPlain f then plainBytes f * elems else (4 * mxBits f + 1) * mxBlocks elems inner) 64

/-- One element of a format that is not an MX format, from a binary32 value. -/
def plainElem (f scale v : Nat) : List Byte :=
  if f = 1 then leBytes 4 (if (fp32.decode v).isNan then fp32.nanBits else v)
  else if f = 2 then leBytes 2 (fp32.convertTo bf16 v)
  else if f = 3 then leBytes 2 (fp32.convertTo fp16 v)
  else if f = 4 then leBytes 1 (fp32.convertTo fp8e4m3 v)
  else if f = 5 then leBytes 1 (fp32.convertTo fp8e5m2 v)
  else leBytes 1 (fp32.toInt8 (fMul v scale))

/-- floor(log2) of a finite value's magnitude. -/
def floorLog2 : FVal → Int
  | .fin _ m e => (Nat.log2 m : Int) + e
  | _ => 0

/-- A value times 2^k. -/
def scaleBy (k : Int) : FVal → FVal
  | .fin n m e => .fin n m (e + k)
  | v => v

/-- One MX block: its scale byte and its elements; those of a block that holds a NaN or an infinity are free. -/
def mxBlock (f draw : Nat) (xs : List FVal) : Nat × List Nat :=
  if xs.any (fun v => v.isNan || v.isInf) then
    (0xFF, (List.range xs.length).map (fun i => (Config.rawByte draw i).toNat % 2 ^ mxBits f))
  else
    let lead := (xs.filter (fun v => !v.isZero)).map floorLog2
    match lead with
    | [] => (0, xs.map (fun _ => 0))
    | l :: ls =>
      let x := max (-127) (min 127 (ls.foldl max l - mxEmax f))
      let elem (v : FVal) : Nat := match mxFmt f with
        | some g => g.saturate (scaleBy (-x) v)
        | none => intBits 8 (max (-128) (min 127 (scaleBy (6 - x) v).toIntRne))
      ((x + 127).toNat, xs.map elem)

/-- Elements of `n` bits packed low bits first. -/
def packBits (n : Nat) (es : List Nat) : List Byte :=
  leBytes (ceilDiv (es.length * n) 8) (es.reverse.foldl (fun acc e => acc * 2 ^ n + e % 2 ^ n) 0)

/-- The blocks of a slot: runs of INNER elements, padded with zeros. -/
def mxRuns (inner : Nat) (xs : List Nat) : List (List FVal) :=
  (List.range (xs.length / inner)).flatMap (fun r =>
    let run := (sliceOf (r * inner) inner xs).map fp32.decode
    (List.range (ceilDiv inner 32)).map (fun b =>
      let part := sliceOf (32 * b) 32 run
      part ++ List.replicate (32 - part.length) (.fin false 0 0)))

/-- A slot's bytes from its binary32 elements. -/
def slotData (f inner scale draw : Nat) (xs : List Nat) : List Byte :=
  let raw := if fmtPlain f then xs.flatMap (plainElem f scale)
    else
      let blocks := (mxRuns inner xs).zipIdx.map (fun e => mxBlock f (draw + e.2) e.1)
      packBits (mxBits f) (blocks.flatMap (·.2)) ++ blocks.map (fun b => BitVec.ofNat 8 b.1)
  fitBytes (slotBytes f xs.length inner) raw

/-! ## Manifests (R276 to R279) -/

/-- SEED_REF of a seed. -/
def seedRef (seed : List Byte) : Nat := leAt (sha256 (asciiBytes "SREF" ++ seed)) 0 8

/-- What a manifest's header holds beside its members and pieces. -/
structure ManifestHead where
  kind : Nat
  policy : Nat
  seq : Nat
  epoch : Nat
  dataset : Nat
  fmt : Nat
  dclass : Nat
  shape : Nat
  seedRef : Nat
  hash : List Byte
  gtc : Nat
deriving DecidableEq, Repr

/-- A member entry. -/
def Member.bytes (m : Member) : List Byte :=
  leBytes 6 m.gsid ++ leBytes 1 m.status ++ leBytes 1 m.flags ++ leBytes 6 m.pos ++ leBytes 2 m.segment ++ leBytes 4 m.place
    ++ leBytes 4 m.offset ++ leBytes 4 m.length ++ leBytes 4 m.dmg

/-- Members of a status, saturating. -/
def statusCount (ms : List Member) (st : Nat) : Nat := min 0xFFFF (ms.filter (fun m => m.status == st)).length

/-- A manifest: header, member entries, piece entries. -/
def ManifestHead.bytes (h : ManifestHead) (ms : List Member) (pieces : List (Nat × List Byte)) : List Byte :=
  let payload := pieces.flatMap (·.2)
  leBytes 4 0x4E414D4B ++ leBytes 2 1 ++ leBytes 1 h.kind ++ leBytes 1 h.policy ++ leBytes 8 h.seq ++ leBytes 4 ms.length
    ++ leBytes 4 pieces.length ++ leBytes 4 h.epoch ++ leBytes 2 h.dataset ++ leBytes 1 h.fmt ++ zeros 1 ++ leBytes 4 h.dclass
    ++ leBytes 4 h.shape ++ leBytes 8 payload.length ++ leBytes 8 (crc64Nvme payload).toNat ++ leBytes 8 h.seedRef ++ fitBytes 32 h.hash
    ++ [stCONCEALED, stSUBSTITUTED, stDROPPED, stTRUNCATED, stMASKED].flatMap (fun st => leBytes 2 (statusCount ms st)) ++ zeros 6
    ++ leBytes 8 h.gtc ++ zeros 8 ++ ms.flatMap Member.bytes
    ++ pieces.flatMap (fun p => leBytes 4 p.1 ++ leBytes 4 p.2.length ++ leBytes 8 (crc64Nvme p.2).toNat)

/-- The parameters a manifest takes from the ring's recipe (R279, R633). -/
def State.manifestHead (s : State) (x : Taken) (kind seq epoch fmt shape seedSlot : Nat) : ManifestHead :=
  let base : ManifestHead := ⟨kind, 0, seq, epoch, 0, fmt, (s.reg GLB_DCLASS).toNat, shape, 0, zeros 32, s.gtc.toNat⟩
  match s.recipeOfRing 9 x.ring with
  | none => base
  | some (_, r) =>
    { base with
      policy := r.damagePolicy, hash := r.hash
      dataset := (r.launch.map (fun l => l.dataset.toNat)).getD 0
      seedRef := seedRef (fitBytes 16 ((r.launch.map (fun l => l.seeds.getD seedSlot [])).getD [])) }

/-! ## Replay records (R566 to R568) -/

/-- A member extension. -/
def MemberExt.bytes (e : MemberExt) : List Byte :=
  leBytes 8 e.crc ++ leBytes 1 e.codec ++ leBytes 1 e.attempt ++ leBytes 1 e.millClass ++ leBytes 1 e.mill ++ leBytes 1 e.lanes
    ++ leBytes 1 e.kiln ++ leBytes 1 e.token ++ zeros 1 ++ leBytes 2 e.tile ++ zeros 6 ++ leBytes 8 e.gtc

/-- The polders whose operating points R567 records. -/
def replayPolders : List Nat := [polPC, polPD, polPK, polPX, polPT]

/-- The extension header: the measured temperature and loads are free. -/
def State.replayHead (s : State) (generation startPos gtcFirst draw : Nat) : List Byte :=
  let opp := replayPolders.zipIdx.foldl (fun n e => n + natAt (s.reg (POL_CLK + 4 * e.1)) 24 2 * 4 ^ e.2) 0
  let free (i n : Nat) : List Byte := (List.range n).map (fun k => Config.rawByte draw (i + k))
  leBytes 4 0x5850524B ++ leBytes 2 1 ++ leBytes 2 generation ++ leBytes 6 startPos ++ leBytes 1 (s.fld POL_MODE_CUR) ++ zeros 1
    ++ leBytes 16 s.part.serial.toNat ++ leBytes 8 gtcFirst ++ free 0 2 ++ leBytes 2 opp ++ free 2 4 ++ free 6 1 ++ zeros 15

/-- Write a replay record into the circular log. -/
def State.replayWrite (s : State) (manifest : List Byte) (ms : List Member) (generation startPos gtcFirst : Nat) : State :=
  if !s.flag FLT_RPL_CFG_EN then s
  else
    let (draw, s) := s.freshFree
    let rec_ := manifest ++ s.replayHead generation startPos gtcFirst draw ++ ms.flatMap (fun m => m.ext.bytes)
    let size := s.fld FLT_RPL_CFG_MIB * 1048576
    let base := s.fld FLT_RPL_BASE_HI_BASE_H * 2 ^ 32 + s.fld FLT_RPL_BASE_LO_BASE_L * 65536
    let head := s.fld FLT_RPL_HEAD_OFFSET
    let at_ := if head + rec_.length ≤ size then head else 0
    if size < rec_.length then s
    else (s.engineWrite 9 (base + at_) rec_).setFld FLT_RPL_HEAD_OFFSET (alignUp (at_ + rec_.length) 64)

/-- The generation of the volume that serves a recipe's dataset. -/
def State.volumeGeneration (s : State) (dataset : Nat) : Nat :=
  match s.fetch.streams.find? (fun e => e.2.dataset == dataset) with
  | some e => e.2.volume.generation
  | none => ((s.volumeFor dataset).map (·.generation)).getD 0

/-- Close a part or row set: manifest copy, payload and counters (R276, R284). -/
def State.closePart (s : State) (x : Taken) (h : ManifestHead) (ms : List Member) (pieces : List (Nat × List Byte)) (base size : Nat)
    (startPos gtcFirst copy : Nat) : State :=
  let manifest := h.bytes ms pieces
  let p : PackPart :=
    ⟨(s.recipeOfRing 9 x.ring).map (·.1), h.kind, h.seq, manifest, pieces, false, base, size⟩
  let payload := pieces.flatMap (·.2)
  let s := { s with store := { s.store with parts := s.store.parts ++ [p] } }.showStore
  let s := s.engineWrite 9 base (payload ++ manifest)
  let s := if copy = 0 then s else s.engineWrite 9 copy manifest
  let s := (s.count unitCSK 2 payload.length).count unitCSK 4 ms.length
  s.replayWrite manifest ms (s.volumeGeneration h.dataset) startPos gtcFirst

/-- A refusal with an engine code. -/
def State.caskRefuse (s : State) (x : Taken) (code : Nat) : State :=
  (if code ≤ stNO_STREAM then s.errAdd CSK_ERR_CNT_REFUSED 1 else s).finish x code 0 []

/-! ## PACK_SLOTS (R269 to R272) -/

/-- An entry of the list with its tensor record. -/
structure SlotEntry where
  rec_ : List Byte
  slot : Nat
  ticket : Nat
deriving DecidableEq, Repr

def State.slotEntries (s : State) (x : Taken) : List SlotEntry :=
  (List.range (x.fieldAt 0x18 2)).map (fun i =>
    let e := s.dramBytes (x.fieldAt 0x10 8 + 16 * i) 16
    ⟨s.dramBytes (leAt e 0 8) 64, leAt e 8 4, leAt e 12 4⟩)

/-- Status, shape and place of a tensor record (R224). -/
def SlotEntry.status (e : SlotEntry) : Nat := leAt e.rec_ 6 1
def SlotEntry.elems (e : SlotEntry) : Nat := leAt e.rec_ 0x18 4 * leAt e.rec_ 0x1C 4 * leAt e.rec_ 0x14 1
/-- The record carries no output: DAMAGED or LIMIT under DROP. -/
def SlotEntry.hole (e : SlotEntry) (policy : Nat) : Bool := policy == 2 && (e.status == stDAMAGED || e.status == stLIMIT)
/-- R272 allows the status in a cask. -/
def placedStatus (st : Nat) : Bool := decide (st ≤ 5) && st != stDROPPED

/-- The tensor's elements as binary32. -/
def State.slotElems (s : State) (e : SlotEntry) (n : Nat) : List Nat :=
  let kind := leAt e.rec_ 7 1 % 4
  let base := leAt e.rec_ 0x20 8
  (List.range n).map (fun i =>
    if kind = 0 then s.dramLe (base + 4 * i) 4
    else (fp32.round ((if kind = 1 then bf16 else fp16).decode (s.dramLe (base + 2 * i) 2))).1)

/-- The damaged position a substitute stands for: the one within 65,536 places whose low 16 bits are ORIGIN (R144, R145). -/
def damagedPos (n pos origin : Nat) : Nat :=
  if n = 0 ∨ pos < n then pos
  else
    let k := pos - n
    (((List.range (min n 65536)).map (fun j => (k + n - j) % n)).find? (fun p => p % 65536 == origin)).getD pos

/-- The member of a slot, with what its wort record says (R177, R277, R568). -/
def State.slotMember (s : State) (e : SlotEntry) (policy n bytes order : Nat) : Member :=
  let wort := s.dramBytes (leAt e.rec_ 0x38 8) 128
  let hole := e.hole policy
  let codec := leAt wort 7 1
  let cls := if 1 ≤ codec ∧ codec ≤ 3 then 3 else if codec = 4 then 4 else if 5 ≤ codec ∧ codec ≤ 8 then 5 else 0xFF
  let pos := leAt e.rec_ 8 6
  let items := s.fetch.streams.flatMap (fun t => t.2.held) ++ s.fetch.spareHeld.flatMap (·.2)
  let kiln := ((items.find? (fun i => i.pos == pos)).bind (·.kiln)).map (·.lane)
  { gsid := leAt e.rec_ 0 6, status := if hole then stDROPPED else e.status, flags := 0
    pos := if e.status = stSUBSTITUTED then damagedPos n pos (leAt wort 0x40 2) else pos
    segment := 0, place := e.slot, offset := 0, length := if hole then 0 else bytes, dmg := leAt wort 0x30 4
    ext := ⟨leAt wort 0x50 8, codec, leAt wort 0x0E 1, cls, leAt wort 0x14 1, leAt wort 0x15 1, kiln.getD 0xFF, 0xFF, leAt e.rec_ 0x0F 1,
      leAt e.rec_ 0x30 8⟩
    order := order }

/-- Every TICKET of the list is complete (R269). -/
def State.slotTicketsDone (s : State) (x : Taken) (es : List SlotEntry) : Bool :=
  es.all (fun e => match (s.core x.core).ticketAge (BitVec.ofNat 32 e.ticket) with
    | some age => ((s.core x.core).ticketResult age).isSome
    | none => true)

/-- Insert a member's piece by slot. -/
def insertSlot (e : SlotEntry × Nat) : List (SlotEntry × Nat) → List (SlotEntry × Nat)
  | [] => [e]
  | f :: fs => if e.1.slot < f.1.slot then e :: f :: fs else f :: insertSlot e fs

/-- The places a dataset's permutation covers, for a ring's recipe. -/
def State.volumeN (s : State) (cls ring : Nat) : Nat :=
  match s.recipeOfRing cls ring with
  | none => 0
  | some (h, r) =>
    match s.fetch.streams.find? (fun e => e.2.handle == h) with
    | some e => e.2.volume.n
    | none => ((r.launch.bind (fun l => s.volumeFor l.dataset.toNat)).map (·.n)).getD 0

/-- Slots listed twice. -/
def repeated : List Nat → Bool
  | [] => false
  | x :: xs => xs.contains x || repeated xs

/-- PACK_SLOTS. -/
def State.packSlots (s : State) (x : Taken) : State :=
  let es := s.slotEntries x
  let count := x.fieldAt 0x18 2
  let f := x.fieldAt 0x1A 1
  let slots := x.fieldAt 0x1C 4
  let n := x.fieldAt 0x28 4
  let inner := x.fieldAt 0x30 4
  let policy := (s.limitsOf 9 x.ring).policy
  let bytes := slotBytes f n inner
  let need := count * bytes + alignUp (128 + 48 * count) 64
  if s.storeSize = 0 then s.caskRefuse x stSTORE_SIZE
  else if !fmtPlain f && !fmtMx f then s.caskRefuse x stCSK_BAD_FORMAT
  else if inner = 0 ∨ n % inner ≠ 0 then s.caskRefuse x stBAD_SHAPE
  else if count = 0 ∨ 4096 < count ∨ slots = 0 ∨ 65535 < slots ∨ es.any (fun e => decide (slots ≤ e.slot)) ∨ repeated (es.map (·.slot)) then
    s.caskRefuse x stBAD_SLOT
  else if !s.slotTicketsDone x es then s
  else if es.any (fun e => !e.hole policy && placedStatus e.status && e.elems != n) then s.caskRefuse x stBAD_SHAPE
  else if !es.all (fun e => e.hole policy || placedStatus e.status) then s
  else if s.storeRefuses need then s.caskRefuse x stSTORE_SIZE
  else match (if s.storeTurn x false then s.storeRun need false else none) with
    | none => s.storeWait x
    | some base =>
      let (draw, s) := s.freshFree
      let order := es.zipIdx.foldl (fun acc e => insertSlot e acc) []
      let vn := s.volumeN 9 x.ring
      let ms := order.map (fun e => s.slotMember e.1 policy vn bytes e.2)
      let pieces := order.map (fun e =>
        (e.1.slot, if e.1.hole policy then zeros bytes else slotData f inner (x.fieldAt 0x2C 4) (draw + e.2 * 2 ^ 32) (s.slotElems e.1 n)))
      let epoch := (es.map (fun e => leAt e.rec_ 0x10 4)).headD 0
      let h := s.manifestHead x 0 (x.fieldAt 0x20 8) epoch f slots (x.fieldAt 0x1B 1 % 4)
      let low := (ms.map (·.pos)).foldl min (2 ^ 48 - 1)
      let gtcs := es.flatMap (fun e => [leAt e.rec_ 0x30 8, leAt (s.dramBytes (leAt e.rec_ 0x38 8) 128) 0x48 8])
      let s := (s.storeServed x).closePart x h ms pieces base need low (gtcs.foldl min (2 ^ 64 - 1)) (x.fieldAt 0x38 8)
      let s := s.errAdd CSK_ERR_CNT_DROPPED (ms.filter (fun m => m.status == stDROPPED)).length
      let s := s.count unitCSK 0 1
      s.finish x stOK 0 []

/-! ## PACK_ROWS (R273 to R275) -/

/-- A row with S tokens of `e` bytes: IDs, segment IDs and position indices (R275). -/
def OpenRow.bytes (r : OpenRow) (width e : Nat) : List Byte :=
  let pad := width - r.tokens.length
  (r.tokens ++ List.replicate pad r.pad).flatMap (leBytes e) ++ (r.segIds ++ List.replicate pad 0).flatMap (leBytes 2)
    ++ (r.places ++ List.replicate pad 0).flatMap (leBytes 2)

/-- Rows being packed: the open ones, oldest first, and those closed, in closing order. -/
structure Packing where
  rows : List OpenRow
  closed : List OpenRow
  dropped : List Member
  placed : Nat
deriving DecidableEq, Repr

/-- Add a segment to a row. -/
def OpenRow.add (r : OpenRow) (toks : List Nat) (m : Member) : OpenRow :=
  let id := if toks.isEmpty then 0 else r.segments + 1
  { r with
    tokens := r.tokens ++ toks, segIds := r.segIds ++ toks.map (fun _ => id), places := r.places ++ List.range toks.length
    members := r.members ++ [{ m with segment := id, offset := r.tokens.length, length := toks.length }]
    segments := if toks.isEmpty then r.segments else id }

/-- Add to the first row that has room; `none`: no row has. -/
def addToRow (width : Nat) (toks : List Nat) (m : Member) : List OpenRow → Option (List OpenRow)
  | [] => none
  | r :: rs => if toks.length ≤ width - r.tokens.length then some (r.add toks m :: rs) else (addToRow width toks m rs).map (fun l => r :: l)

/-- The position of the lowest segment in rows. -/
def lowestIn (rows : List OpenRow) (pos : Nat) : Nat := (rows.flatMap (fun r => r.members.map (·.pos))).foldl min pos

/-- `place` of R274. -/
def Packing.place (p : Packing) (g : Segment) (pos width window size : Nat) : Packing :=
  let m : Member := ⟨g.gsid, g.status, g.flags, pos, 0, 2 ^ 32 - 1, 0, 0, g.dmg % 2 ^ 32, g.ext, p.placed⟩
  let p := { p with placed := p.placed + 1 }
  if g.skip then p
  else if !placedStatus g.status then { p with dropped := p.dropped ++ [{ m with status := stDROPPED }] }
  else
    let toks := g.tokens.take width
    let cut := decide (width < g.tokens.length)
    let m := if cut then { m with status := if m.status = stOK then stTRUNCATED else m.status, flags := m.flags ||| 1 } else m
    let rows := match addToRow width toks m p.rows with
      | some rs => (rs, [])
      | none =>
        let full := p.rows.length == window
        let gone := if full then p.rows.take 1 else []
        let kept := if full then p.rows.drop 1 else p.rows
        let fresh : OpenRow := ⟨[], [], [], [], 0, g.pad, lowestIn kept pos, 0, size, width⟩
        (kept ++ [fresh.add toks m], gone)
    let done := rows.1.filter (fun r => r.tokens.length == width)
    { p with rows := rows.1.filter (fun r => r.tokens.length != width), closed := p.closed ++ rows.2 ++ done }

/-- A segment is final (R268, R272). -/
def Segment.isFinal (g : Segment) (policy : Nat) : Bool :=
  g.skip || placedStatus g.status || (policy == 2 && (g.status == stDAMAGED || g.status == stLIMIT))

/-- Place the home positions below NEXT in order, up to the first without a final entry. -/
def placeAll (policy width window size : Nat) (ps : PackStream) (acc : Packing × PackStream) : List Nat → Packing × PackStream
  | [] => acc
  | pos :: rest =>
    match Table.find ps.segs pos with
    | none => acc
    | some g =>
      if !g.isFinal policy then acc
      else
        let p := acc.1.place g pos width window size
        let q := { acc.2 with segs := Table.drop acc.2.segs pos, packed := acc.2.packed ++ [pos] }
        placeAll policy width window size ps (p, q) rest

/-- The home positions of a stream below its NEXT that are not yet packed. -/
def FetchStream.packable (st : FetchStream) (packed : List Nat) : List Nat :=
  ((List.range (st.nextPos - st.first)).map (· + st.first)).filter (fun p => st.keeps p && !packed.contains p)

/-- The whole range is packed. -/
def FetchStream.allPacked (st : FetchStream) (packed : List Nat) : Bool :=
  ((List.range (st.last - st.first)).map (· + st.first)).all (fun p => !st.keeps p || packed.contains p)

/-- The stream FETCH_STAGE names on the submitting core (R273). -/
def State.rowStream (s : State) (x : Taken) : Option FetchStream :=
  match s.recipeOfRing 9 x.ring with
  | none => none
  | some (_, r) =>
    match r.slots.find? (fun sl => sl.stage == x.fieldAt 0x10 1 && sl.index == 0 && sl.core == x.core && sl.cls == 1) with
    | some sl => (s.fetchStream sl.ring).filter (fun st => !st.closed)
    | none => none

/-- WINDOW as it acts. -/
def Taken.rowWindow (x : Taken) : Nat := min 8 (zeroActsAsOne (x.fieldAt 0x11 1 % 16))

/-- Write a row set of the rows closed (R274 to R276). -/
def State.closeRows (s : State) (x : Taken) (st : FetchStream) (ps : PackStream) (rows : List OpenRow) (dropped : List Member)
    (width e base need : Nat) : State :=
  let pieces := rows.zipIdx.map (fun r => (r.2, r.1.bytes width e))
  let placed := rows.zipIdx.flatMap (fun r => r.1.members.map (fun m => { m with place := r.2 }))
  let all := placed ++ dropped
  let ms := (List.range ps.placed).filterMap (fun o => all.find? (fun m => m.order == o))
  let h := s.manifestHead x 1 ps.nextSeq st.epoch (if e = 2 then 0x81 else 0x80) width (x.fieldAt 0x12 1 % 4)
  let h := { h with dataset := st.dataset }
  let start := (rows.map (·.startPos)).headD 0
  let first := (ms.map (fun m => m.ext.gtc)).foldl min (2 ^ 64 - 1)
  let s := s.closePart x h ms pieces base need start first (x.fieldAt 0x18 8)
  let pads := rows.foldl (fun n r => n + (width - r.tokens.length)) 0
  (s.count unitCSK 1 rows.length).count unitCSK 3 pads

/-- PACK_ROWS: it completes without waiting for samples, with the rows closed in DETAIL. -/
def State.packRows (s : State) (x : Taken) : State :=
  let width := x.fieldAt 0x14 4
  let flags := BitVec.ofNat 8 (x.fieldAt 0x12 1)
  let e := if bitAt flags 6 then 2 else 4
  let stride := width * (e + 4)
  if s.storeSize = 0 then s.caskRefuse x stSTORE_SIZE
  else if width = 0 ∨ 65535 < width then s.caskRefuse x stBAD_SHAPE
  else if s.storeRefuses stride then s.caskRefuse x stSTORE_SIZE
  else match s.rowStream x with
    | none => s.caskRefuse x stNO_STREAM
    | some st =>
      let ps := s.packStream st.serial st.handle
      if e = 2 && ps.segs.any (fun g => decide (65536 < g.2.vocabTokens)) then s.caskRefuse x stCSK_BAD_FORMAT
      else if ps.rows.any (fun r => r.width != width) then s.caskRefuse x stBAD_SHAPE
      else if ps.rows.any (fun r => r.size != stride) then s.caskRefuse x stCSK_BAD_FORMAT
      else
        let policy := (s.limitsOf 9 x.ring).policy
        let start : Packing := ⟨ps.rows, [], ps.dropped, ps.placed⟩
        let (p, q) := placeAll policy width x.rowWindow stride ps (start, ps) (st.packable ps.packed)
        let final := bitAt flags 7 && st.allPacked q.packed
        let closed := if final then p.closed ++ p.rows else p.closed
        let rows := if final then [] else p.rows
        let drops := p.dropped.length - ps.dropped.length
        let members := (closed.flatMap (fun r => r.members)).length + p.dropped.length
        let need := closed.length * stride + alignUp (128 + 32 * members + 16 * closed.length) 64
        let q := { q with rows := rows, placed := p.placed, nextSeq := ps.nextSeq + closed.length
                          dropped := if closed.isEmpty then p.dropped else [] }
        let after := s.setPackStream st.serial q
        if closed.isEmpty then
          ((after.storeServed x).errAdd CSK_ERR_CNT_DROPPED drops).finish x stOK 0 []
        else match (if after.storeTurn x true then after.storeRun need true else none) with
          | none => s.storeWait x
          | some base =>
            let s := (after.storeServed x).errAdd CSK_ERR_CNT_DROPPED drops
            let s := s.closeRows x st { q with nextSeq := ps.nextSeq } closed p.dropped width e base need
            s.finish x stOK (closed.length % 65536) []

/-! ## MERGE and DISCARD (R278, R280, R282) -/

/-- Advance a CRC register by one zero byte. -/
def crcZero (r : Word64) : Word64 := crcByte (reflect (0xAD93D23594C93659 : Word64)) r 0

/-- The CRC-64/NVME of a concatenation from the two CRCs and the length of the second part. -/
def crcJoin (a b : Word64) (len : Nat) : Word64 := Nat.repeat crcZero len a ^^^ b

/-- MERGE: the digest of the pieces in order, without reading the payload. -/
def State.mergeRun (s : State) (x : Taken) : State :=
  let n := x.fieldAt 0x18 4
  if n = 0 ∨ 1048576 < n then s.caskRefuse x stBAD_MERGE
  else
    let ps := (List.range n).map (fun i => s.dramBytes (x.fieldAt 0x10 8 + 16 * i) 16)
    if ps.any (fun p => leAt p 4 4 == 0) then s.caskRefuse x stBAD_MERGE
    else
      let s := s.engineAccess 9 false (x.fieldAt 0x10 8) (16 * n)
      let digest := ps.foldl (fun (acc : Word64) p => crcJoin acc (BitVec.ofNat 64 (leAt p 8 8)) (leAt p 4 4)) 0
      let s := (s.engineWrite 9 (x.fieldAt 0x20 8) (leBytes 8 digest.toNat)).count unitCSK 5 1
      s.finish x stOK 0 [(x.fieldAt 0x20 8, 8)]

/-- A part in the store by SEQ and KIND, not taken for delivery: the oldest of the descriptor's recipe, or else of any. -/
def State.partNamed (s : State) (owner : Option Nat) (seq kind : Nat) : Option PackPart :=
  let named := s.store.parts.filter (fun p => p.seq == seq && p.kind == kind && !p.out)
  (named.find? (fun p => p.owner == owner)).or named.head?

/-- A part removed. -/
def State.dropPart (s : State) (p : PackPart) : State :=
  { s with store := { s.store with parts := s.store.parts.erase p } }.showStore

/-- DISCARD. -/
def State.discardRun (s : State) (x : Taken) : State :=
  match s.partNamed ((s.recipeOfRing 9 x.ring).map (·.1)) (x.fieldAt 0x10 8) (x.fieldAt 0x18 1) with
  | some p => (s.dropPart p).finish x stOK 0 []
  | none => s.caskRefuse x stNOT_FOUND

/-! ## The commands -/

/-- PACK_SLOTS: it waits for its tickets, for samples that are not final, and for space. -/
def execPackSlots (c : CoreId) (t : Ticket) (s : State) : Res :=
  .next (match s.running c t 9 0x01 with
    | some x => if s.engineRuns 9 then s.packSlots x else s
    | none => s)

/-- PACK_ROWS. -/
def execPackRows (c : CoreId) (t : Ticket) (s : State) : Res :=
  .next (match s.running c t 9 0x02 with
    | some x => if s.engineRuns 9 then s.packRows x else s
    | none => s)

/-- MERGE. -/
def execMerge (c : CoreId) (t : Ticket) (s : State) : Res :=
  .next (match s.running c t 9 0x03 with
    | some x => if s.engineRuns 9 then s.mergeRun x else s
    | none => s)

/-- DISCARD. -/
def execDiscard (c : CoreId) (t : Ticket) (s : State) : Res :=
  .next (match s.running c t 9 0x04 with
    | some x => if s.engineRuns 9 then s.discardRun x else s
    | none => s)

end Sys2Proof.Machine
end

