-- ==== Sys2Proof/Machine/RingRegs.lean ====
section
/-!
DEFINITION. The words that a ring's fields make in `CC_RING_CFG` and `CC_RING_BASE` (R89, R90).
-/

namespace Sys2Proof.Machine

/-- `CC_RING_CFG` of a ring. -/
def Ring.cfgWord (r : Ring) : Word32 :=
  BitVec.ofNat 32 (r.en.toNat * 2 ^ 31 + r.disabling.toNat * 2 ^ 30 + r.ownerPriv.toNat * 2 ^ 28 + r.ownerCore.toNat * 2 ^ 24
    + r.log2.toNat * 2 ^ 20 + r.weight.toNat * 2 ^ 16 + r.qcn.toNat)

/-- The fields of a `CC_RING_CFG` word put into a ring, EN and DISABLING aside. -/
def Ring.withCfg (r : Ring) (w : Word32) : Ring :=
  { r with ownerPriv := bitsAt w 28 2, ownerCore := bitsAt w 24 4, log2 := bitsAt w 20 4, weight := bitsAt w 16 4, qcn := bitsAt w 0 16 }

/-- `CC_RING_IDX` of a ring's key. -/
def ringIdxWord (key : Nat) : Nat := key

/-- A ring's 48 bytes of the save list (R495): IDX, CFG, BASE and the four windows. -/
def Ring.saved (key : Nat) (r : Ring) : List Byte :=
  leBytes 4 (ringIdxWord key) ++ leBytes 4 r.cfgWord.toNat ++ leBytes 8 r.base.toNat ++ r.win.toList.flatMap (fun w => leBytes 8 w.toNat)

/-- A ring read back from the save list: enabled and empty. -/
def Ring.restored (b : List Byte) : Ring :=
  let w : Word32 := BitVec.ofNat 32 (leAt b 4 4)
  let win (i : Nat) : Word64 := BitVec.ofNat 64 (leAt b (16 + 8 * i) 8)
  { (Ring.reset.withCfg w) with
    en := bitAt w 31, base := BitVec.ofNat 48 (leAt b 8 8), win := #v[win 0, win 1, win 2, win 3] }

end Sys2Proof.Machine
end

