-- ==== Sys2Proof/Machine/Weir.lean ====
section
/-!
DEFINITION. The weir (R388 to R405) and the ports (R355 to R358): what leaves each sub-port, and when it may.
-/

namespace Sys2Proof.Machine

open Reg

/-! ## Ports and sub-ports -/

def State.subport (s : State) (n : BitVec 3) : SubPort := s.net.subports[n.toNat]'(n.isLt)
def State.setSubport (s : State) (n : BitVec 3) (p : SubPort) : State :=
  { s with net := { s.net with subports := s.net.subports.set n.toNat p n.isLt } }
/-- A sub-port by number. -/
def subNo (n : Nat) : BitVec 3 := BitVec.ofNat 3 n

/-- The network polder works and the safe state is not in force. -/
def State.netRuns (s : State) : Bool := s.polderOn polPN && !s.flag FLT_STATUS_SAFE

/-- The port exists on the variant, and the sub-port under the configuration in force (R355). -/
def State.subportExists (s : State) (n : BitVec 3) : Bool :=
  let port := n.toNat / 2
  let cfg := Table.at 0 s.net.ports port
  decide (port < Config.ethPorts s.part.variant) && bitAt cfg 31 && (n.toNat % 2 == 0 || bitAt cfg 30)

/-- `NET_PORT_STAT` and `WER_PAUSE_STAT` bits of a sub-port. -/
def State.showSubport (s : State) (n : BitVec 3) : State :=
  let off := NET_PORT_STAT + 4 * (n.toNat / 2)
  let p := s.subport n
  let s := s.setReg off (putBit (s.reg off) (n.toNat % 2) p.up)
  s.setReg WER_PAUSE_STAT (putBit (s.reg WER_PAUSE_STAT) n.toNat p.pausedSince.isSome)

/-! ## Exact times and tags (R392 to R397) -/

/-- a + n ÷ d. -/
def Frac.add (a : Frac) (n d : Nat) : Frac := if d = 0 then a else ⟨a.num * d + n * a.den, a.den * d⟩
/-- The later of a fraction and a whole time. -/
def Frac.atLeast (a : Frac) (t : Nat) : Frac := if a.num < t * a.den then ⟨t, 1⟩ else a
def Frac.after (a : Frac) (t : Nat) : Bool := decide (t * a.den < a.num)
def Frac.floor (a : Frac) : Nat := a.num / a.den
def Frac.max (a b : Frac) : Frac := if a.num * b.den < b.num * a.den then b else a

/-- Tag `a` is earlier than `b`, modulo 2^48. -/
def tagBefore (a b : Nat) : Bool := decide (2 ^ 47 ≤ (a + 2 ^ 48 - b) % 2 ^ 48)
/-- max(V, F) of R394. -/
def tagMax (a b : Nat) : Nat := if tagBefore a b then b else a

/-- The wheel slot of an eligible time: at most 4,095 slots ahead (R397). -/
def wheelSlot (e : Frac) (now : Nat) : Nat := min (e.floor / 64) (now / 64 + 4095)

/-- An entity with its next eligible time: it waits on the wheel while that lies ahead. The flag says it was inserted. -/
def Entity.hold (x : Entity) (now : Nat) : Entity × Bool :=
  if x.e.after now then ({ x with slot := some (wheelSlot x.e now) }, true) else ({ x with slot := none }, false)

/-! ## Queues and services (R388, R389) -/

def queueKey (sub service subscriber : Nat) : Nat := (sub * 4 + service) * 4096 + subscriber
def nodeKey (sub service : Nat) : Nat := sub * 4 + service

def WeirQueue.empty : WeirQueue := ⟨[], Entity.zero, none, none, 0⟩

def State.queueAt (s : State) (k : Nat) : WeirQueue := Table.at WeirQueue.empty s.net.queues k
def State.setQueue (s : State) (k : Nat) (q : WeirQueue) : State :=
  { s with net := { s.net with queues := Table.write WeirQueue.empty s.net.queues k q } }
def State.nodeAt (s : State) (k : Nat) : ServiceNode := Table.at ServiceNode.zero s.net.nodes k
def State.setNode (s : State) (k : Nat) (n : ServiceNode) : State :=
  { s with net := { s.net with nodes := Table.write ServiceNode.zero s.net.nodes k n } }

/-- `WER_SUB_CFG` of a subscriber. -/
def State.subCfg (s : State) (sub : Nat) : Word32 := Table.at 0x10000000 s.net.subCfg sub

/-- The queues of a service node with packets. -/
def State.backlog (s : State) (node : Nat) : List (Nat × WeirQueue) :=
  s.net.queues.filter (fun e => e.1 / 4096 == node && !e.2.packets.isEmpty)

/-- Header bytes of a frame beside its payload: Ethernet to FCS over IPv4 or IPv6, and the extended headers (R379 example). -/
def headerBytes (v6 : Bool) (b : NetBody) : Nat :=
  let base := if v6 then 82 else 62
  match b with
  | .write first _ _ _ _ imm _ => base + (if first then 16 else 0) + (if imm.isSome then 4 else 0)
  | .readReq _ _ _ => base + 16
  | .readResp _ _ => base + 4
  | .ack => base + 4
  | .nak _ => base + 4
  | .cnp => base + 16
  | _ => base

/-- The payload of a packet. -/
def payloadOf : NetBody → List Byte
  | .send _ _ d => d
  | .write _ _ _ _ _ _ d => d
  | .readResp _ d => d
  | _ => []

def State.qpAt (s : State) (q : Nat) : Option Qp := Table.find s.net.qps q

/-- The counted length of a packet (R391). -/
def State.countedLen (s : State) (p : OutPacket) : Nat :=
  let v6 := ((s.qpAt p.qcn).map (·.v6)).getD false
  headerBytes v6 p.body + (payloadOf p.body).length + s.fld WER_OVH_OVERHEAD

/-- The line rate of a sub-port in bit/s. -/
def SubPort.line (p : SubPort) : Nat := if p.whole then 400000000000 else 200000000000
/-- The payload cap of DELIVERY in byte/s (R396). -/
def SubPort.payloadCap (p : SubPort) : Nat := if p.whole then 40000000000 else 20000000000

/-- The rate of a queue in bit/s: the lower of RC and its subscriber's RATE; `none`: unlimited. -/
def State.queueRate (s : State) (q : WeirQueue) (subscriber : Nat) : Option Nat :=
  let r := natAt (s.subCfg subscriber) 0 16 * 10000000
  match q.rc with
  | some c => some (if r = 0 then c else min c r)
  | none => if r = 0 then none else some r

def State.queueWeight (s : State) (subscriber : Nat) : Nat := zeroActsAsOne (natAt (s.subCfg subscriber) 24 8)
def State.serviceWeight (s : State) (service : Nat) : Nat := zeroActsAsOne (natAt (s.reg (WER_SVC_CFG + 4 * service)) 24 8)
def State.serviceRate (s : State) (service : Nat) : Nat := natAt (s.reg (WER_SVC_CFG + 4 * service)) 0 16 * 10000000

/-- Queue a packet (R394): a queue or service that wakes starts at the current virtual time. -/
def State.weirAdd (s : State) (sub subscriber : Nat) (p : OutPacket) : State :=
  if !(s.subport (subNo sub)).up then s
  else
    let now := s.gtc.toNat
    let nk := nodeKey sub p.service
    let qk := queueKey sub p.service subscriber
    let node := s.nodeAt nk
    let asleep := (s.backlog nk).isEmpty
    let node := if asleep then { node with ent := { node.ent with s := (s.subport (subNo sub)).v } } else node
    let q := s.queueAt qk
    let wakes := q.packets.isEmpty
    let ent := if wakes then { q.ent with s := node.v } else q.ent
    let (ent, held) := if wakes then ent.hold now else (ent, false)
    let s := (s.setNode nk node).setQueue qk { q with packets := q.packets ++ [{ p with since := s.gtc }], ent := ent }
    if held then s.count unitWER 5 1 else s

/-- A packet is a READ response. -/
def OutPacket.isResponse (p : OutPacket) : Bool :=
  match p.body with
  | .readResp _ _ => true
  | _ => false

/-- A QP's requests leave the weir; with `all`, its READ responses too. -/
def State.weirDrop (s : State) (qcn : Nat) (all : Bool) : State :=
  s.net.queues.foldl (fun (s : State) e =>
    s.setQueue e.1 { e.2 with packets := e.2.packets.filter (fun p => p.qcn != qcn || (!all && p.isResponse)) }) s

/-- Packets of a QP that wait in the weir. -/
def State.weirHolds (s : State) (qcn psn : Nat) : Bool :=
  s.net.queues.any (fun e => e.2.packets.any (fun p => p.qcn == qcn && p.psn == psn && !p.isResponse))

/-! ## The packet boundary (R390, R393, R396) -/

/-- DELIVERY and RECONSTRUCT are held by a pause. -/
def SubPort.paused (p : SubPort) : Bool := p.pausedSince.isSome

/-- A queue is eligible. -/
def WeirQueue.eligible (q : WeirQueue) : Bool := !q.packets.isEmpty && q.ent.slot.isNone

/-- A service is eligible. -/
def State.serviceEligible (s : State) (sub service : Nat) : Bool :=
  (s.nodeAt (nodeKey sub service)).ent.slot.isNone && !((s.subport (subNo sub)).paused && decide (service < 2))
    && (s.backlog (nodeKey sub service)).any (fun e => e.2.eligible)

/-- The entry with the lowest start tag, the earlier in the list among equals. -/
def lowestTag {α : Type} (tag : α → Nat) : List α → Option α
  | [] => none
  | x :: xs => some (xs.foldl (fun best y => if tagBefore (tag y) (tag best) then y else best) x)

/-- The queue that a sub-port serves next. -/
def State.nextQueue (s : State) (sub : Nat) : Option (Nat × Nat) :=
  match lowestTag (fun n => (s.nodeAt (nodeKey sub n)).ent.s) ((List.range 4).filter (s.serviceEligible sub)) with
  | none => none
  | some service =>
    (lowestTag (fun e => e.2.ent.s) ((s.backlog (nodeKey sub service)).filter (fun e => e.2.eligible))).map (fun e => (service, e.1))

/-- A tagged entity after it sent `len` counted bytes: its finish tag, and the next start tag where it stays backlogged. -/
def Entity.sent (x : Entity) (len weight : Nat) : Entity :=
  let f := (x.s + len * 65536 / weight) % 2 ^ 48
  { x with f := f, s := f }

/-- The eligible time after a packet of `len` bytes at a rate in bit/s. -/
def Entity.spend (x : Entity) (now len rate : Nat) : Entity := { x with e := (x.e.atLeast now).add (len * 8 * 1000000000) rate }

def State.setQp (s : State) (qcn : Nat) (q : Qp) : State := { s with net := { s.net with qps := Table.put s.net.qps qcn q } }

/-- A QP's retransmission timer as it starts now (R368). -/
def State.qpTimer (s : State) (q : Qp) : Word64 :=
  let us := if q.control then zeroActsAsOne (s.fld RDM_RETRY_CFG_CTRL_TMO) * 2 ^ q.retries
    else max 64 (s.fld RDM_RETRY_CFG_DATA_TMO)
  s.gtc + BitVec.ofNat 64 (us * 1000)

/-- A timer that is not running starts where packets wait for an acknowledgement (R367). -/
def State.startTimer (s : State) (qcn : Nat) : State :=
  match s.qpAt qcn with
  | some q => if q.timer.isNone && !q.flight.isEmpty then s.setQp qcn { q with timer := some (s.qpTimer q) } else s
  | none => s

/-- The last response of a READ has left: it holds its region no longer. -/
def Qp.responseLeft (q : Qp) : NetBody → Qp
  | .readResp true _ => { q with reads := q.reads.drop 1 }
  | _ => q

/-- What a sent packet means to its QP and delivery: the timer starts, and the seal has left (R367, R384). -/
def State.packetLeft (s : State) (p : OutPacket) : State :=
  let s := s.count unitRDM 0 1
  let s := match s.qpAt p.qcn with
    | some q => (s.setQp p.qcn (q.responseLeft p.body)).startTimer p.qcn
    | none => s
  if p.role = .sealLast then
    let mine (d : Delivery) : Bool := p.owner == some (d.core, d.ticket)
    let s := if s.net.deliveries.any (fun d => mine d && !d.sealLeft) then s.count unitRDM 4 1 else s
    { s with net := { s.net with deliveries := s.net.deliveries.map (fun d => if mine d then { d with sealLeft := true } else d) } }
  else s

/-- A queue's entity after it sent a packet: its tags, its rate and whether it is held back now. -/
def State.queueSent (s : State) (q : WeirQueue) (subscriber len : Nat) : Entity × Bool :=
  let e := q.ent.sent len (s.queueWeight subscriber)
  let e := match s.queueRate q subscriber with
    | some r => e.spend s.gtc.toNat len r
    | none => e
  e.hold s.gtc.toNat

/-- A service's node after a packet of it was sent: its tags, its rate, the cap on service 0's payload, and whether it is held back. -/
def State.nodeSent (s : State) (node : ServiceNode) (port : SubPort) (service len payload v : Nat) : ServiceNode × Bool :=
  let now := s.gtc.toNat
  let e := node.ent.sent len (s.serviceWeight service)
  let rate := s.serviceRate service
  let e := if rate = 0 then e else e.spend now len rate
  let cap := if service = 0 then (node.cap.atLeast now).add (payload * 1000000000) port.payloadCap else node.cap
  let r := { e with e := e.e.max cap }.hold now
  ({ v := v, ent := r.1, cap := cap }, r.2)

/-- Send the head of a queue. -/
def State.sendFrom (s : State) (sub service qk : Nat) : State :=
  let nk := nodeKey sub service
  let q := s.queueAt qk
  match q.packets with
  | [] => s
  | p :: rest =>
    let len := s.countedLen p
    let node := s.nodeAt nk
    let port := s.subport (subNo sub)
    let s := s.setSubport (subNo sub) { port with v := node.ent.s }
    let qr := s.queueSent q (qk % 4096) len
    let nr := s.nodeSent node port service len (payloadOf p.body).length q.ent.s
    let s := s.setQueue qk { q with packets := rest, ent := qr.1 }
    let s := s.setNode nk nr.1
    let s := { s with net := { s.net with sent := s.net.sent ++ [(sub, p)] } }
    let s := ((s.count unitWER 0 1).count unitWER 1 len).count unitWER 5 (qr.2.toNat + nr.2.toNat)
    s.packetLeft p

/-- ACKs and NAKs of a paused priority wait; CNPs do not. -/
def State.urgentReady (s : State) (port : SubPort) (p : OutPacket) : Bool :=
  match p.body with
  | .cnp => true
  | _ => !(port.paused && !((s.qpAt p.qcn).map (·.control)).getD false)

/-- PACKET_SCHEDULE: at a packet boundary an urgent frame goes first, else the queue chosen by start tags. -/
def execPacketSchedule (sub : BitVec 3) (s : State) : Res :=
  .next (if !s.netRuns || !(s.subport sub).up then s
    else
      let port := s.subport sub
      match port.urgent.find? (s.urgentReady port) with
      | some p =>
        let s := s.setSubport sub { port with urgent := port.urgent.erase p }
        ({ s with net := { s.net with sent := s.net.sent ++ [(sub.toNat, p)] } }).count unitRDM 0 1
      | none =>
        match s.nextQueue sub.toNat with
        | some (service, qk) => s.sendFrom sub.toNat service qk
        | none => s)

/-- An entity whose slot has ended: placed again, or released at max(V, F). The flags: inserted again, released. -/
def Entity.fire (x : Entity) (now v : Nat) : Entity × Bool :=
  match x.slot with
  | none => (x, false)
  | some k =>
    if now < (k + 1) * 64 then (x, false)
    else if k < x.e.floor / 64 then ({ x with slot := some (wheelSlot x.e now) }, true)
    else ({ x with slot := none, s := tagMax v x.f }, false)

/-- WHEEL_RELEASE: timing-wheel slots that have ended fire (R397). A paused service keeps its hold (R403). -/
def execWheelRelease (s : State) : Res :=
  .next (if !s.netRuns then s
    else
      let now := s.gtc.toNat
      let s := s.net.queues.foldl (fun (s : State) e =>
        let (x, again) := e.2.ent.fire now (s.nodeAt (e.1 / 4096)).v
        (s.setQueue e.1 { e.2 with ent := x }).count unitWER 5 again.toNat) s
      s.net.nodes.foldl (fun (s : State) e =>
        let (x, again) := e.2.ent.fire now (s.subport (subNo (e.1 / 4))).v
        (s.setNode e.1 { e.2 with ent := x }).count unitWER 5 again.toNat) s)

/-! ## Pauses and congestion (R398 to R400) -/

/-- A pause of over 10 ms without a break is counted once. -/
def State.notePause (s : State) (sub : BitVec 3) : State :=
  let p := s.subport sub
  match p.pausedSince with
  | some t =>
    if !p.longCounted && 10000000 < (s.gtc - t).toNat then
      (s.setSubport sub { p with longCounted := true }).errAdd WER_ERR_CNT_PAUSE_LONG 1
    else s
  | none => s

/-- The pause ends: DELIVERY and RECONSTRUCT take max(V, F) (R394). -/
def State.endPause (s : State) (sub : BitVec 3) : State :=
  let s := s.notePause sub
  let p := s.subport sub
  if p.pausedSince.isNone then s
  else
    let s := s.setSubport sub { p with pausedSince := none, longCounted := false }
    let s := [0, 1].foldl (fun (s : State) n =>
      let k := nodeKey sub.toNat n
      let node := s.nodeAt k
      if (s.backlog k).isEmpty then s
      else s.setNode k { node with ent := { node.ent with s := tagMax p.v node.ent.f } }) s
    s.showSubport sub

/-- PFC_RECEIVE: a frame for DATA_PRIO holds or releases; one for CTRL_PRIO is ignored (R399). A quantum is 512 bit times. -/
def execPfcReceive (sub : BitVec 3) (prio : BitVec 3) (quanta : BitVec 16) (s : State) : Res :=
  .next (if !s.netRuns || !(s.subport sub).up || prio.toNat != s.fld NET_PRIO_CFG_DATA_PRIO then s
    else
      let s := s.count unitWER 2 1
      if quanta = 0 then s.endPause sub
      else
        let s := s.notePause sub
        let p := s.subport sub
        let ns := ceilDiv (quanta.toNat * 512 * 1000000000) p.line
        let since := p.pausedSince.getD s.gtc
        (s.setSubport sub { p with pausedSince := some since, pausedUntil := s.gtc + BitVec.ofNat 64 ns }).showSubport sub)

/-- PAUSE_EXPIRY: the quanta have run out (R399). -/
def execPauseExpiry (sub : BitVec 3) (s : State) : Res :=
  .next (let p := s.subport sub
    if s.netRuns && p.pausedSince.isSome && decide (p.pausedUntil ≤ s.gtc) then s.endPause sub else s)

/-- Send a pause for DATA_PRIO. -/
def State.sendPause (s : State) (sub : BitVec 3) (quanta : Nat) : State :=
  let p := s.subport sub
  let s := s.setSubport sub { p with lastPause := s.gtc }
  let s := { s with net := { s.net with pauses := s.net.pauses ++ [(sub.toNat, quanta)] } }
  let s := s.count unitWER 3 1
  s.setReg WER_PAUSE_STAT (putBit (s.reg WER_PAUSE_STAT) (8 + sub.toNat) (quanta != 0))

/-- The SN-1 is pausing its partner. -/
def State.xoffSent (s : State) (sub : BitVec 3) : Bool := bitAt (s.reg WER_PAUSE_STAT) (8 + sub.toNat)

/-- Receive-buffer occupancy reaches a value: a pause is sent at XOFF_KIB (R400). -/
def State.rxLevel (s : State) (sub : BitVec 3) (kib : Nat) : State :=
  let s := s.setSubport sub { s.subport sub with rx := kib }
  if !s.xoffSent sub && decide (s.fld WER_PFC_CFG_XOFF_KIB ≤ kib) then s.sendPause sub 0xFFFF else s

/-- PFC_REPEAT: with the occupancy the buffer has come to, the pause is repeated every 40 µs above XON_KIB and released at it
(R400). -/
def execPfcRepeat (sub : BitVec 3) (kib : Nat) (s : State) : Res :=
  .next (if !s.netRuns || !s.xoffSent sub then s
    else
      let s := s.setSubport sub { s.subport sub with rx := kib }
      if kib ≤ s.fld WER_PFC_CFG_XON_KIB then s.sendPause sub 0
      else if 40000 ≤ (s.gtc - (s.subport sub).lastPause).toNat then s.sendPause sub 0xFFFF else s)

/-- The congestion rate of a queue is cut (R398). -/
def State.cutRate (s : State) (sub : BitVec 3) (qk : Nat) : State :=
  let q := s.queueAt qk
  let line := (s.subport sub).line
  let recent := match q.lastCut with
    | some t => decide ((s.gtc - t).toNat < 50000)
    | none => false
  if recent then s
  else
    let rc := max (q.rc.getD line * zeroActsAsOne (s.fld WER_CC_CFG_CUT) / 16) (zeroActsAsOne (s.fld WER_CC_CFG_RMIN) * 100000000)
    (s.setQueue qk { q with rc := some rc, lastCut := some s.gtc, lastRise := s.gtc }).count unitWER 4 1

/-- The service of a QP's requests: DELIVERY where it carries a DELIVER, RECONSTRUCT on another DATA QP, else CONTROL or
TELEMETRY (R389). -/
def State.qpService (s : State) (qcn : Nat) (q : Qp) : Nat :=
  if q.control then (if bitAt (s.subCfg q.subscriber) 23 then 3 else 2)
  else if s.net.deliveries.any (fun d => d.dataQ == qcn) then 0 else 1

/-- A CNP of a QP (R361, R398). -/
def State.cnpIn (s : State) (qcn : Nat) (q : Qp) : State :=
  (s.count unitRDM 6 1).cutRate (subNo q.sub) (queueKey q.sub (s.qpService qcn q) q.subscriber)

/-- CNP_RECEIVE (R398). -/
def execCnpReceive (qcn : BitVec 16) (s : State) : Res :=
  .next (match s.qpAt qcn.toNat with
    | some q => if !s.netRuns || !(s.subport (subNo q.sub)).up then s else s.cnpIn qcn.toNat q
    | none => s)

/-- RC_RISE: an INTERVAL without a cut raises a queue's RC, up to the line rate (R398). -/
def execRcRise (sub : BitVec 3) (service : BitVec 2) (subscriber : BitVec 12) (s : State) : Res :=
  .next (let k := queueKey sub.toNat service.toNat subscriber.toNat
    let q := s.queueAt k
    match q.rc with
    | none => s
    | some rc =>
      if !s.netRuns || decide ((s.gtc - q.lastRise).toNat < zeroActsAsOne (s.fld WER_CC_CFG_INTERVAL) * 1000) then s
      else
        let up := rc + s.fld WER_CC_CFG_RISE * 100000000
        s.setQueue k { q with rc := if (s.subport sub).line ≤ up then none else some up, lastRise := s.gtc })

/-! ## Statistics (R402) -/

/-- One sample: depth in counted bytes and head delay in ns. -/
def Entity.sample (x : Entity) (depth delay : Nat) : Entity :=
  { x with depth := depth, depthMax := max x.depthMax depth, delay := delay, delayMax := max x.delayMax delay }

/-- Counted bytes waiting and the delay of the head. -/
def State.queueLoad (s : State) (ps : List OutPacket) : Nat × Nat :=
  match ps with
  | [] => (0, 0)
  | p :: _ => (ps.foldl (fun n x => n + s.countedLen x) 0, (s.gtc - p.since).toNat)

/-- The samples of a service node: every packet of its queues, and the longest head delay. -/
def State.nodeLoad (s : State) (k : Nat) : Nat × Nat :=
  (s.backlog k).foldl (fun (acc : Nat × Nat) e => (acc.1 + (s.queueLoad e.2.packets).1, max acc.2 (s.queueLoad e.2.packets).2)) (0, 0)

/-- QUEUE_SAMPLE: at each GTC value that is a multiple of 1,024. -/
def execQueueSample (s : State) : Res :=
  .next (if !s.netRuns || s.gtc.toNat % 1024 != 0 then s
    else
      let s := s.net.queues.foldl (fun (s : State) e =>
        let (d, w) := s.queueLoad e.2.packets
        s.setQueue e.1 { e.2 with ent := e.2.ent.sample d w }) s
      let s := (List.range 32).foldl (fun (s : State) k =>
        let (d, w) := s.nodeLoad k
        let n := s.nodeAt k
        s.setNode k { n with ent := n.ent.sample d w }) s
      (List.range 8).foldl (fun (s : State) n => s.notePause (subNo n)) s)

/-- The entity that `WER_Q_IDX` selects. -/
def State.selected (s : State) : Entity :=
  let w := s.reg WER_Q_IDX
  let node := nodeKey (natAt w 16 3) (natAt w 12 2)
  if bitAt w 31 then (s.nodeAt node).ent else (s.queueAt (node * 4096 + natAt w 0 12)).ent

/-- The selected entity changed. -/
def State.setSelected (s : State) (x : Entity) : State :=
  let w := s.reg WER_Q_IDX
  let node := nodeKey (natAt w 16 3) (natAt w 12 2)
  if bitAt w 31 then s.setNode node { s.nodeAt node with ent := x }
  else s.setQueue (node * 4096 + natAt w 0 12) { s.queueAt (node * 4096 + natAt w 0 12) with ent := x }

/-- A write of `WER_Q_IDX` latches the four values (R402, R404). -/
def State.latchQueue (s : State) (value : Word32) : State :=
  let s := s.setReg WER_Q_IDX (value &&& 0x80073FFF)
  let x := s.selected
  let kib (n : Nat) : Nat := min 0xFFFF (ceilDiv n 1024)
  let ticks (n : Nat) : Nat := min 0xFFFF (n / 64)
  let s := s.setReg WER_Q_DEPTH (BitVec.ofNat 32 (kib x.depth * 65536 + kib x.depthMax))
  s.setReg WER_Q_DELAY (BitVec.ofNat 32 (ticks x.delay * 65536 + ticks x.delayMax))

/-- Q_LATCH. -/
def execQLatch (w : Writer) (value : Word32) (s : State) : Res := .next (if s.mayWrite w && s.polderOn polPN then s.latchQueue value else s)

/-- A read of `WER_Q_DEPTH`: the value, and MAX cleared. -/
def State.readDepth (s : State) : Word32 × State :=
  let v := s.reg WER_Q_DEPTH
  (v, (s.setSelected { s.selected with depthMax := 0 }).setReg WER_Q_DEPTH (v &&& 0xFFFF0000))

/-- A read of `WER_Q_DELAY`: the value, and MAX cleared. -/
def State.readDelay (s : State) : Word32 × State :=
  let v := s.reg WER_Q_DELAY
  (v, (s.setSelected { s.selected with delayMax := 0 }).setReg WER_Q_DELAY (v &&& 0xFFFF0000))

/-- A register word returned to a reader outside the cores. -/
def answerRead (r : Word32 × State) : State :=
  { r.2 with host := { r.2.host with reads := r.2.host.reads ++ [r.1] } }

/-- Q_DEPTH_READ. -/
def execQDepthRead (s : State) : Res := .next (if s.polderOn polPN then answerRead s.readDepth else s)

/-- Q_DELAY_READ. -/
def execQDelayRead (s : State) : Res := .next (if s.polderOn polPN then answerRead s.readDelay else s)

/-! ## Links (R356, R358, R403) -/

/-- Packets wait no longer on a sub-port whose link is down, and timers run (R356, R403). -/
def State.linkLost (s : State) (sub : BitVec 3) : State :=
  let s := s.net.queues.foldl (fun (s : State) e =>
    if e.1 / 16384 == sub.toNat then s.setQueue e.1 { e.2 with packets := [] } else s) s
  let p := s.subport sub
  let s := (s.setSubport sub { p with up := false, urgent := [], pausedSince := none }).showSubport sub
  let s := s.net.qps.foldl (fun (s : State) e => if e.2.sub = sub.toNat then s.startTimer e.1 else s) s
  let off := NET_PORT_STAT + 4 * (sub.toNat / 2)
  s.setReg off (putBit (s.reg off) (2 + sub.toNat % 2) true)

/-- The link of a sub-port is up: virtual times and RC values start afresh (R393, R403). -/
def State.linkUpNow (s : State) (sub : BitVec 3) : State :=
  let cfg := Table.at 0 s.net.ports (sub.toNat / 2)
  let s := { s with net := { s.net with
    queues := s.net.queues.filter (fun e => e.1 / 16384 != sub.toNat), nodes := s.net.nodes.filter (fun e => e.1 / 4 != sub.toNat) } }
  let p := s.subport sub
  (s.setSubport sub { p with up := true, whole := !bitAt cfg 30, v := 0, pausedSince := none }).showSubport sub

/-- LINK_DOWN. -/
def execLinkDown (sub : BitVec 3) (s : State) : Res := .next (if (s.subport sub).up then s.linkLost sub else s)

/-- LINK_UP. -/
def execLinkUp (sub : BitVec 3) (s : State) : Res :=
  .next (if s.netRuns && s.subportExists sub && !(s.subport sub).up then s.linkUpNow sub else s)

/-- A write of `NET_PORT_CFGn`: a change takes effect when EN next goes from 0 to 1, and clearing EN takes the port down (R356). -/
def State.writePortCfg (s : State) (port : Nat) (value : Word32) : State :=
  let off := NET_PORT_CFG + 4 * port
  let was := bitAt (s.reg off) 31
  let s := s.setReg off (value &&& 0xF0003FFF)
  let subs := [subNo (2 * port), subNo (2 * port + 1)]
  if bitAt value 31 && !was then { s with net := { s.net with ports := Table.put s.net.ports port (value &&& 0xF0003FFF) } }
  else if !bitAt value 31 && was then
    let s := subs.foldl (fun (s : State) n => if (s.subport n).up then s.linkLost n else s) s
    { s with net := { s.net with ports := Table.drop s.net.ports port } }
  else s

/-- PORT_ENABLE: EN of a port is set with its configuration, and the port comes up unless its partner offers only what R355 does
not support. -/
def execPortEnable (w : Writer) (port : BitVec 2) (value : Word32) (partner : Bool) (s : State) : Res :=
  .next (if !s.mayWrite w || !s.polderOn polPN then s
    else
      let was := bitAt (s.reg (NET_PORT_CFG + 4 * port.toNat)) 31
      let s := s.writePortCfg port.toNat (value ||| 0x80000000)
      if was || !partner || !s.netRuns then s
      else [subNo (2 * port.toNat), subNo (2 * port.toNat + 1)].foldl (fun (s : State) n =>
        if s.subportExists n && !(s.subport n).up then s.linkUpNow n else s) s)

/-- PUNT_FRAME: at most 100,000 frames a second and sub-port reach the network service (R358). -/
def execPuntFrame (sub : BitVec 3) (frame : List Byte) (s : State) : Res :=
  .next (if !s.netRuns || !(s.subport sub).up then s
    else
      let p := s.subport sub
      let second := s.gtc.toNat / 1000000000
      let n := if p.puntSecond = second then p.puntCount else 0
      if 100000 ≤ n then s.errAdd NET_ERR_CNT_PUNT_DROP 1
      else
        let s := s.setSubport sub { p with puntSecond := second, puntCount := n + 1 }
        { s with net := { s.net with punted := s.net.punted ++ [(sub.toNat, frame)] } })

end Sys2Proof.Machine
end

