-- ==== Sys2Proof/Machine/RingCmd.lean ====
section
/-!
DEFINITION. The ring window at 0x0082_0000 (R88 to R96): enabling and disabling a ring, and the ticket-interrupt queue's
registers (R106, R107).
-/

namespace Sys2Proof.Machine

open Reg

/-- The class and number that `CC_RING_IDX` selects. -/
def State.ringSel (s : State) : Nat × Nat := (s.fld CC_RING_IDX_CLS, s.fld CC_RING_IDX_RING)

/-- A ring becomes disabled: its QCN binding ends (R94), and a fetch stream's staging is released (R151). -/
def State.ringOff (s : State) (cls ring : Nat) : State :=
  let r := s.ring cls ring
  let q := r.qcn.toNat
  let s := s.setRing cls ring { r with en := false, disabling := false }
  let s := if Table.find s.qct q = some (.engineRing cls ring) then { s with qct := Table.drop s.qct q } else s
  if cls = 1 then s.closeStream ring else s

/-- EN of an enabled ring is cleared (R95, R151). -/
def State.clearEn (s : State) (cls ring : Nat) : State :=
  let r := s.ring cls ring
  let s := s.setRing cls ring { r with en := false, disabling := true }
  let s := if cls = 1 then s.fetchRingCleared ring else s
  if r.waiting = 0 then s.ringOff cls ring else s

/-- Why an enable is refused: the lowest cause of R93 that holds, 0 for none. -/
def State.enableCause (s : State) (cls ring : Nat) (r : Ring) : Nat :=
  if r.log2.toNat < 6 then 1
  else if r.base.toNat % (64 * r.size) ≠ 0 then 2
  else if r.ownerPriv = 3 then 3
  else if s.boundElsewhere r.qcn.toNat (.engineRing cls ring) then 4
  else if ring = 1023 then 5
  else if Config.absent s.part.variant cls then 6
  else if r.disabling then 7
  else 0

/-- A write of EN = 1 meets ring `r`: it is enabled empty and its QCN bound, or refused with a cause (R93, R94). -/
def State.tryEnable (s : State) (cls ring : Nat) (r : Ring) : State :=
  let cause := s.enableCause cls ring r
  if cause ≠ 0 then s.setRing cls ring { r with reject := true, cause := BitVec.ofNat 3 cause }
  else
    { s.setRing cls ring { r with en := true, head := 0, tail := 0, done := 0, doneErr := 0 } with
      qct := Table.put s.qct r.qcn.toNat (.engineRing cls ring) }

/-- A write of `CC_RING_CFG` (R89, R94, R95): while EN or DISABLING is set only EN acts. -/
def State.writeRingCfg (s : State) (w : Word32) : State :=
  let (cls, ring) := s.ringSel
  let r := s.ring cls ring
  let en := bitAt w 31
  if r.en then (if en then s else s.clearEn cls ring)
  else if r.disabling then
    (if en then s.setRing cls ring { r with reject := true, cause := 7 } else s)
  else if en then s.tryEnable cls ring (r.withCfg w)
  else s.setRing cls ring (r.withCfg w)

/-- A register write that R631 admits and that reaches a polder which is on. -/
def State.reaches (s : State) (w : Writer) (polder : Nat) : Bool := s.mayWrite w && s.polderOn polder

/-- RING_ENABLE: a write of `CC_RING_CFG` with EN = 1 (R94). -/
def execRingEnable (w : Writer) (value : Word32) (s : State) : Res :=
  .next (if s.reaches w polPC then s.writeRingCfg (value ||| 0x80000000) else s)

/-- RING_DISABLE: a write of `CC_RING_CFG` with EN = 0 (R95). -/
def execRingDisable (w : Writer) (value : Word32) (s : State) : Res :=
  .next (if s.reaches w polPC then s.writeRingCfg (value &&& 0x7FFFFFFF) else s)

/-- RING_DRAINED: HEAD of a DISABLING ring has reached TAIL (R95). -/
def execRingDrained (cls : BitVec 4) (ring : BitVec 10) (s : State) : Res :=
  let r := s.ring cls.toNat ring.toNat
  .next (if r.disabling && r.waiting == 0 then s.ringOff cls.toNat ring.toNat else s)

/-! ## The other registers of the window -/

/-- A ring that the window may change: neither enabled nor draining (R94). -/
def Ring.open_ (r : Ring) : Bool := !r.en && !r.disabling

/-- A write of half `hi` of `CC_RING_BASE` (R90). -/
def State.writeRingBase (s : State) (hi : Bool) (w : Word32) : State :=
  let (cls, ring) := s.ringSel
  let r := s.ring cls ring
  if !r.open_ then s
  else if hi then s.setRing cls ring { r with base := putBits r.base 32 16 (natAt w 0 16) }
  else s.setRing cls ring { r with base := putBits r.base 12 20 (natAt w 12 20) }

/-- A write of half `hi` of `CC_RING_WIN` m (R92). -/
def State.writeRingWin (s : State) (m : Nat) (hi : Bool) (w : Word32) : State :=
  let (cls, ring) := s.ringSel
  let r := s.ring cls ring
  if r.open_ then
    let v := putBits (r.win.toList.getD m 0) (if hi then 32 else 0) 32 w.toNat &&& regionMask
    s.setRing cls ring { r with win := setReg64 r.win m v }
  else s

/-- A write of `CC_RING_ERR`: REJECT is cleared by a 1 (R93). -/
def State.writeRingErr (s : State) (w : Word32) : State :=
  let (cls, ring) := s.ringSel
  let r := s.ring cls ring
  s.setRing cls ring { r with reject := r.reject && !bitAt w 31 }

/-- What a register of the window reads as, by its distance from `CC_RING_IDX`. -/
def Ring.word (r : Ring) (d : Nat) : Word32 :=
  if d = 0x04 then r.cfgWord
  else if d = 0x08 then r.base.setWidth 32
  else if d = 0x0C then (r.base >>> 32).setWidth 32
  else if d = 0x10 then BitVec.ofNat 32 (r.tail * 65536 + r.head)
  else if 0x18 ≤ d ∧ d < 0x38 then
    bitsAt (r.win.toList.getD ((d - 0x18) / 8) 0) (8 * (d % 8)) 32
  else if d = 0x38 then BitVec.ofNat 32 (r.reject.toNat * 2 ^ 31 + r.cause.toNat * 2 ^ 28 + r.errors)
  else 0

/-! ## Ticket interrupts (R105 to R107) -/

/-- A read of `CC_TKI_POPn`: the oldest queued ticket, removed by the read; 0 where the queue is empty. -/
def State.popTicket (s : State) (c : CoreId) : Word32 × State :=
  let k := s.core c
  match k.tki with
  | [] => (0, s)
  | t :: rest => (t, s.setCore c { k with tki := rest })

/-- TKI_POP: the word goes to the reader (R106). -/
def execTkiPop (w : Writer) (c : CoreId) (s : State) : Res :=
  .next (if s.reaches w polPC then answerRead (s.popTicket c) else s)

/-- `CC_TKI_STATn` (R107). -/
def Core.tkiStat (k : Core) : Word32 := BitVec.ofNat 32 (k.tkiOvf.toNat * 2 ^ 31 + k.tki.length)

/-- A write of `CC_TKI_STATn`. -/
def State.writeTkiStat (s : State) (c : CoreId) (w : Word32) : State :=
  let k := s.core c
  s.setCore c { k with tkiOvf := k.tkiOvf && !bitAt w 31 }

end Sys2Proof.Machine
end

