-- ==== Sys2Proof/Machine/Debug.lean ====
section
/-!
DEFINITION. PG's trace: SYNC and MARK records (R580, R584), arming and firing the trigger (R586, R587), and the trace port (R581,
R589, R590).
-/

namespace Sys2Proof.Machine

open Reg

/-! ## SYNC and MARK -/

/-- TRACE_SYNC: the GTC stands at a multiple of 2^20 (R584). -/
def execTraceSync (s : State) : Res :=
  .next (if s.gtc.toNat % 2 ^ 20 = 0 then
      s.emit 0x05 polPG (BitVec.ofNat 32 (s.fld GTC_SYNC_STATE)) (BitVec.ofNat 128
        ((s.reg GTC_OFFSET).toNat + (s.reg GTC_RATE).toNat * 2 ^ 32 + natAt s.part.serial 0 64 * 2 ^ 64))
    else s)

/-- The writer as a MARK record names it: the core, or 0xF for the host. -/
def markCode : Writer → Nat
  | .core c => c.val
  | _ => 0xF

/-- A write of `DBG_MARK`. -/
def State.mark (s : State) (w : Writer) (value : Word32) : State := s.emit 0x0C polPG value (BitVec.ofNat 128 (markCode w))

/-- MARK (R580). -/
def execMark (w : Writer) (value : Word32) (s : State) : Res := .next (if s.reaches w polPG then s.mark w value else s)

/-! ## Arming and firing (R586, R587) -/

/-- ARM clears TRIGGERED and FROZEN, then one GAP with cause 2 stands for the records counted. -/
def State.arm (s : State) : State :=
  let s := ((s.setFlag DBG_STAT_ARMED true).setFlag DBG_STAT_TRIGGERED false).setFlag DBG_STAT_FROZEN false
  let gap := s.trace.frozenGap
  let s := { s with trace := { s.trace with left := 0, frozenGap := none } }
  match gap with
  | some g => (s.errAdd DBG_ERR_CNT_GAPS 1).traceWrite (gapRecord g 2)
  | none => s

/-- ARM: a write of ARM in `DBG_TRIG_CFG`. -/
def execArm (w : Writer) (s : State) : Res := .next (if s.reaches w polPG then s.arm else s)

/-- FIRE: trigger source 0. -/
def execFire (w : Writer) (s : State) : Res := .next (if s.reaches w polPG then s.trigger 0 else s)

/-- FROZEN: the records after a trigger are captured, and the buffer freezes. -/
def execFrozen (s : State) : Res :=
  .next (if s.flag DBG_STAT_TRIGGERED && s.trace.left == 0 then s.setFlag DBG_STAT_FROZEN true else s)

/-! ## The trace port -/

/-- Records written and not yet passed by the port. -/
def State.unsent (s : State) : Nat := s.trace.written - s.trace.passed

/-- The 1 ms of IDLE records from PORT_EN has passed (R589). -/
def State.portSending (s : State) : Bool :=
  s.flag DBG_CTL_PORT_EN && s.trace.portOn.any (fun t => decide (1000000 ≤ (s.gtc - t).toNat))

/-- One record goes out with the next SEQ (R581). -/
def State.portSend (s : State) (r : TraceRec) : State :=
  ({ s with trace := { s.trace with seq := s.trace.seq + 1, port := s.trace.port ++ [(s.trace.seq, r)] } }).count unitDBG 1 1

/-- TRACE_PORT_SEND: a GAP for records overwritten unsent, else the oldest unsent record, else IDLE (R590). -/
def execTracePortSend (s : State) : Res :=
  .next (if !s.polderOn polPG || !s.portSending then s
    else match s.trace.overGap with
      | some g => (({ s with trace := { s.trace with overGap := none } }).errAdd DBG_ERR_CNT_GAPS 1).portSend (gapRecord g 0)
      | none =>
        if s.unsent = 0 then s
        else
          let r := Table.at TraceRec.empty s.trace.buf ((s.fld DBG_STAT_WPTR + traceSize - s.unsent) % traceSize)
          ({ s with trace := { s.trace with passed := s.trace.passed + 1 } }).portSend r)

/-- A write of `DBG_CTL`: PORT_EN starts the port. -/
def State.writeDbgCtl (s : State) (value : Word32) : State :=
  let was := s.flag DBG_CTL_PORT_EN
  let s := s.setReg DBG_CTL (value &&& 0xC000003F)
  if bitAt value 31 && !was then { s with trace := { s.trace with portOn := some s.gtc } } else s

/-- `DBG_PORT_STAT`. -/
def State.portStat (s : State) : Word32 := BitVec.ofNat 32 (s.portSending.toNat * 2 ^ 31 + s.unsent)

/-- Word `i` of a trace record in the buffer (R579). -/
def TraceRec.word (r : TraceRec) (i : Nat) : Word32 :=
  if i = 0 then BitVec.ofNat 32 (r.typ.toNat + r.polder.toNat * 256)
  else if i = 1 then r.info
  else if i < 4 then bitsAt r.gtc (32 * (i - 2)) 32
  else bitsAt r.data (32 * (i - 4)) 32

end Sys2Proof.Machine
end

