-- ==== Sys2Proof/Machine/Nvme.lean ====
section
/-!
DEFINITION. The PCIe link and the NVMe controllers (R406 to R417): queues, arbitration, admin and I/O commands.
-/

namespace Sys2Proof.Machine

open Reg

/-! ## Status fields of the NVMe standard -/

def nvmeBadQueue : Nat := nvmeStatus 1 0x01 true
def nvmeBadCq : Nat := nvmeStatus 1 0x00 true
def nvmeBadSize : Nat := nvmeStatus 1 0x02 true
def nvmeAerLimit : Nat := nvmeStatus 1 0x05 true
def nvmeBadLog : Nat := nvmeStatus 1 0x09 true
def nvmeQueueHeld : Nat := nvmeStatus 1 0x0C true
def nvmeNotSaveable : Nat := nvmeStatus 1 0x0D true

/-! ## Controllers -/

/-- The host has enabled a function (R409); in loader-only state only the PF serves (R617). -/
def State.functionExists (s : State) (fn : Nat) : Bool :=
  decide (fn ≤ s.host.vfs) && decide (fn ≤ 63) && (fn == 0 || !s.loaderOnly)

/-- Bind the lowest free QCN to a queue of a function. -/
def State.bindNvme (s : State) (fn qid : Nat) : Option (Nat × State) :=
  s.freeQcn.map (fun q => (q, { s with qct := Table.put s.qct q (.nvmeQueue fn qid) }))

/-- A QCN is free again. -/
def State.freeQueue (s : State) (qcn : Nat) : State := { s with qct := Table.drop s.qct qcn }

def newController (s : State) (fn pageLog : Nat) (wrr : Bool) : Controller :=
  { fn := fn, pageLog := pageLog, wrr := wrr, cfs := s.flag FLT_STATUS_SAFE, features := [], apst := List.replicate 32 0, aers := []
    events := [], arb := ⟨0, 0, [0, 0, 0]⟩, ps := 0, opState := none, idleSince := s.gtc, errors := [] }

/-- CONTROLLER_ENABLE: CC.EN = 1 enables a controller with its admin queue pair (R411). -/
def execControllerEnable (fn : BitVec 6) (asq acq : Nat) (sqSize cqSize : BitVec 12) (mps : BitVec 4) (wrr : Bool) (s : State) : Res :=
  let f := fn.toNat
  .next (if !s.linkUp || !s.functionExists f || (s.controller f).isSome || decide (4 < mps.toNat) then s
    else match s.bindNvme f 0 with
      | none => s
      | some (q1, s1) =>
        match s1.bindNvme f 0 with
        | none => s
        | some (q2, s2) =>
          let sq : NvmeSq := ⟨f, 0, q1, asq, sqSize.toNat + 1, 0, 0, 0, 0⟩
          let cq : NvmeCq := ⟨f, 0, q2, acq, cqSize.toNat + 1, 0, 0, true, 0, true, []⟩
          { s2 with host := { s2.host with
            controllers := s2.host.controllers ++ [newController s f (12 + mps.toNat) wrr]
            sqs := s2.host.sqs ++ [sq], cqs := s2.host.cqs ++ [cq] } })

/-- A controller and its queues are gone; commands already fetched end without a completion entry (R417). -/
def State.dropController (s : State) (fn : Nat) : State :=
  let mine := (s.host.sqs.filter (fun q => q.fn == fn)).map (·.qcn) ++ (s.host.cqs.filter (fun q => q.fn == fn)).map (·.qcn)
  let s := mine.foldl (fun (s : State) q => s.freeQueue q) s
  { s with host := { s.host with
    controllers := s.host.controllers.filter (fun c => c.fn != fn), sqs := s.host.sqs.filter (fun q => q.fn != fn)
    cqs := s.host.cqs.filter (fun q => q.fn != fn) } }

/-- CONTROLLER_RESET: CC.EN = 0 of one function, or an NVM Subsystem Reset of all (R417). -/
def execControllerReset (fn : Option (BitVec 6)) (s : State) : Res :=
  .next (if !s.linkUp then s
    else match fn with
      | some f => s.dropController f.toNat
      | none => (s.host.controllers.map (·.fn)).foldl (fun (s : State) f => s.dropController f) s)

/-! ## Asynchronous events -/

/-- An event: it completes the oldest outstanding request, or waits for one. -/
def State.raiseEvent (s : State) (fn : Nat) (e : NvmeEvent) : State :=
  match s.controller fn with
  | none => s
  | some c =>
    match c.aers with
    | cid :: rest =>
      (s.setController { c with aers := rest }).nvmeComplete fn 0 cid (e.kind + e.info * 2 ^ 8 + e.page * 2 ^ 16) nvmeOk
    | [] => if c.events.contains e then s else s.setController { c with events := c.events ++ [e] }

/-! ## Fetching commands (R415) -/

/-- The admin commands a function serves (R413, R617). -/
def State.adminOpcodes (s : State) (fn : Nat) : List Nat :=
  if s.loaderOnly then [0x02, 0x06, 0x10, 0x11]
  else [0x00, 0x01, 0x02, 0x04, 0x05, 0x06, 0x08, 0x09, 0x0A, 0x0C] ++ (if fn = 0 then [0x10, 0x11, 0xC1, 0xC2] else [])
def ioOpcodes : List Nat := [0x00, 0x01, 0x02, 0x08, 0x09]

def NvmeSq.waits (q : NvmeSq) : Bool := q.head != q.tail

/-- The entry at the head of a queue. -/
def State.sqEntry (s : State) (q : NvmeSq) : List Byte := s.hostBytes (q.base + 64 * q.head) 64

/-- Feature 0x01: weights of the high, medium and low classes, and commands of a turn. -/
def Controller.feature (c : Controller) (fid : Nat) : BitVec 32 := Table.at 0 c.features fid
def Controller.weights (c : Controller) : List Nat :=
  [natAt (c.feature 1) 24 8 + 1, natAt (c.feature 1) 16 8 + 1, natAt (c.feature 1) 8 8 + 1]
def Controller.turnSize (c : Controller) : Nat := if natAt (c.feature 1) 0 3 = 7 then 2 ^ 32 else 2 ^ natAt (c.feature 1) 0 3

/-- The next queue of a list after the one served last, in the order of their numbers. -/
def nextInTurn (last : Nat) (qs : List NvmeSq) : Option NvmeSq :=
  let low (l : List NvmeSq) : Option NvmeSq := match l with
    | [] => none
    | x :: xs => some (xs.foldl (fun a b => if b.qid < a.qid then b else a) x)
  match low (qs.filter (fun q => decide (last < q.qid))) with
  | some q => some q
  | none => low qs

/-- The queue within a class: the turn goes on while it has commands left. -/
def Controller.inClass (c : Controller) (qs : List NvmeSq) : Option NvmeSq :=
  match qs.find? (fun q => q.qid == c.arb.last && decide (0 < c.arb.burst)) with
  | some q => some q
  | none => nextInTurn c.arb.last qs

/-- The class of high, medium and low that is served, and the credits then: reloaded once no class with commands has any. -/
def Controller.wrrClass (c : Controller) (has : List Bool) : Option (Nat × List Nat) :=
  let free (cs : List Nat) : Option Nat := (List.range 3).find? (fun k => has.getD k false && decide (0 < cs.getD k 0))
  match free c.arb.credits with
  | some k => some (k, c.arb.credits)
  | none => (free c.weights).map (fun k => (k, c.weights))

/-- The queue a controller fetches from next, and its arbitration after that fetch. -/
def State.pickSq (s : State) (c : Controller) : Option (NvmeSq × ArbState) :=
  let qs := s.host.sqs.filter (fun q => q.fn == c.fn && q.waits)
  match qs.find? (fun q => q.qid == 0) with
  | some q => some (q, c.arb)
  | none =>
    let taken (q : NvmeSq) (credits : List Nat) : NvmeSq × ArbState :=
      let left := if q.qid = c.arb.last ∧ 0 < c.arb.burst then c.arb.burst - 1 else c.turnSize - 1
      (q, ⟨q.qid, left, credits⟩)
    if !c.wrr then (c.inClass qs).map (fun q => taken q c.arb.credits)
    else
      match c.inClass (qs.filter (fun q => q.prio == 0)) with
      | some q => some (taken q c.arb.credits)
      | none =>
        let cls (k : Nat) : List NvmeSq := qs.filter (fun q => q.prio.toNat == k + 1)
        match c.wrrClass ((List.range 3).map (fun k => !(cls k).isEmpty)) with
        | none => none
        | some (k, credits) => (c.inClass (cls k)).map (fun q => taken q (credits.modify k (· - 1)))

/-- A command that cannot enter the translation engine yet: it writes a volume that open streams hold (R412). -/
def State.ioHeld (s : State) (e : List Byte) : Bool :=
  [0x01, 0x08, 0x09].contains (leAt e 0 1) && s.spaceHeld (leAt e 4 4)

/-- Controllers whose next command is an I/O command that may enter the translation engine. -/
def State.ioReady (s : State) : List Nat :=
  (s.host.controllers.filter (fun c => match s.pickSq c with
    | some (q, _) => q.qid != 0 && !s.ioHeld (s.sqEntry q)
    | none => false)).map (·.fn)

/-- WEIGHT of a function. -/
def State.fnWeight (s : State) (fn : Nat) : Nat := zeroActsAsOne (natAt (Table.at 16 s.host.fnCfg fn) 0 8)

/-- The controller whose command enters the engine next, by weighted round robin. -/
def State.fnTurn (s : State) : Option Nat :=
  let ready := s.ioReady
  if ready.contains s.host.fnLast && decide (0 < s.host.fnLeft) then some s.host.fnLast
  else match (List.range 64).find? (fun k => ready.contains ((s.host.fnLast + 1 + k) % 64)) with
    | some k => some ((s.host.fnLast + 1 + k) % 64)
    | none => none

/-- A turn of a controller is spent. -/
def State.spendTurn (s : State) (fn : Nat) : State :=
  let left := if fn = s.host.fnLast ∧ 0 < s.host.fnLeft then s.host.fnLeft - 1 else s.fnWeight fn - 1
  { s with host := { s.host with fnLast := fn, fnLeft := left } }

/-- Fetch the head of a queue. -/
def State.fetchSq (s : State) (c : Controller) (q : NvmeSq) (arb : ArbState) : State :=
  (s.setController { c with arb := arb, idleSince := s.gtc }).setSq { q with head := (q.head + 1) % q.entries }

/-- Commands with an unknown opcode that come next complete with Invalid Command Opcode (R413). -/
def State.rejectNvme (s : State) (fn : Nat) : Nat → State
  | 0 => s
  | k + 1 =>
    match s.controller fn with
    | none => s
    | some c =>
      match s.pickSq c with
      | none => s
      | some (q, arb) =>
        let e := s.sqEntry q
        let known := if q.qid = 0 then s.adminOpcodes fn else ioOpcodes
        if known.contains (leAt e 0 1) then s
        else ((s.fetchSq c q arb).nvmeComplete fn q.qid (leAt e 2 2) 0 nvmeBadOpcode).rejectNvme fn k

/-- Take a controller's next command where it is of the kind and opcode named: its submission queue and its 64 bytes. -/
def State.takeNvme (s : State) (fn : Nat) (admin : Bool) (opcode : Nat) : Option (Nat × List Byte × State) :=
  match s.controller fn with
  | none => none
  | some c =>
    match s.pickSq c with
    | none => none
    | some (q, arb) =>
      let e := s.sqEntry q
      if !s.linkUp || admin != (q.qid == 0) || leAt e 0 1 != opcode then none
      else
        let s := s.fetchSq c q arb
        let s := if admin then s else s.spendTurn fn
        some (q.qid, e, s.rejectNvme fn 4096)

/-- CID of a command. -/
def cmdCid (e : List Byte) : Nat := leAt e 2 2
def cmdNsid (e : List Byte) : Nat := leAt e 4 4
def cmdDw (e : List Byte) (n : Nat) : Nat := leAt e (4 * n) 4
def cmdPrp1 (e : List Byte) : Nat := leAt e 0x18 8
def cmdPrp2 (e : List Byte) : Nat := leAt e 0x20 8
/-- PSDT other than 0 (R411). -/
def cmdBadPsdt (e : List Byte) : Bool := leAt e 1 1 / 64 != 0

/-- Run an admin command of a controller. -/
def State.adminCommand (s : State) (fn opcode : Nat) (run : State → List Byte → State) : State :=
  match s.takeNvme fn true opcode with
  | some (_, e, s) => if cmdBadPsdt e then s.nvmeComplete fn 0 (cmdCid e) 0 nvmeBadField else run s e
  | none => s

/-- NVME_DOORBELL: the host wrote a tail or head in BAR0 after the stores that came before it (R409). -/
def execNvmeDoorbell (fn : BitVec 6) (qid : BitVec 16) (completion : Bool) (value : Word32) (stores : List (Nat × List Byte))
    (s : State) : Res :=
  let f := fn.toNat
  .next (if !s.linkUp || s.doorbellsOff then s
    else
      let s := s.hostStores stores
      if completion then
        match s.cq f qid.toNat with
        | some q =>
          if q.entries ≤ value.toNat then s.raiseEvent f ⟨0, 1, 1⟩
          else (s.setCq { q with head := value.toNat }).releaseCq f qid.toNat 4096
        | none => s.raiseEvent f ⟨0, 0, 1⟩
      else match s.sq f qid.toNat with
        | some q =>
          if q.entries ≤ value.toNat then s.raiseEvent f ⟨0, 1, 1⟩
          else
            let s := s.setSq { q with tail := value.toNat }
            let s := match s.controller f with
              | some c => s.setController { c with idleSince := s.gtc }
              | none => s
            s.rejectNvme f 4096
        | none => s.raiseEvent f ⟨0, 0, 1⟩)

/-! ## PRP transfers (R411) -/

/-- The pages of a PRP list. -/
def State.prpList (s : State) (page at_ rest : Nat) : Nat → List (Nat × Nat)
  | 0 => []
  | k + 1 =>
    if rest = 0 then []
    else
      let v := leNat (s.hostBytes at_ 8)
      if at_ % page = page - 8 ∧ page < rest then s.prpList page v rest k
      else
        let n := min rest page
        (v, n) :: s.prpList page (at_ + 8) (rest - n) k

/-- The runs of host memory that PRP1 and PRP2 give for a transfer. -/
def State.prpRuns (s : State) (fn : Nat) (e : List Byte) (len : Nat) : List (Nat × Nat) :=
  let page := 2 ^ ((s.controller fn).map (·.pageLog)).getD 12
  let p1 := cmdPrp1 e
  let first := min len (page - p1 % page)
  let rest := len - first
  (p1, first) :: (if rest = 0 then [] else if rest ≤ page then [(cmdPrp2 e, rest)] else s.prpList page (cmdPrp2 e) rest 1024)

/-- Data to the host. -/
def State.prpWrite (s : State) (fn : Nat) (e : List Byte) (bs : List Byte) : State :=
  ((s.prpRuns fn e bs.length).foldl (fun (acc : State × List Byte) r =>
    (acc.1.hostWrite r.1 (acc.2.take r.2), acc.2.drop r.2)) (s, bs)).1

/-- Data from the host. -/
def State.prpRead (s : State) (fn : Nat) (e : List Byte) (len : Nat) : List Byte :=
  (s.prpRuns fn e len).flatMap (fun r => s.hostBytes r.1 r.2)

/-! ## Queues (R411, R413) -/

/-- I/O queues of a kind, and queue identifiers, of a controller. -/
def queueLimit : Nat := 128

/-- CREATE_IO_CQ. -/
def execCreateIoCq (fn : BitVec 6) (s : State) : Res :=
  let f := fn.toNat
  .next (s.adminCommand f 0x05 (fun s e =>
    let done (s : State) (st : Nat) : State := s.nvmeComplete f 0 (cmdCid e) 0 st
    let qid := cmdDw e 10 % 65536
    let size := cmdDw e 10 / 65536
    let dw11 := cmdDw e 11
    if dw11 % 2 = 0 then done s nvmeBadField
    else if qid = 0 || decide (queueLimit < qid) || (s.cq f qid).isSome
        || decide (queueLimit ≤ (s.host.cqs.filter (fun q => q.fn == f && q.qid != 0)).length) then done s nvmeBadQueue
    else if size = 0 ∨ 4095 < size then done s nvmeBadSize
    else match s.bindNvme f qid with
      | none => done s nvmeBadQueue
      | some (q, s) =>
        let cq : NvmeCq := ⟨f, qid, q, cmdPrp1 e, size + 1, 0, 0, true, dw11 / 65536, dw11 / 2 % 2 == 1, []⟩
        done { s with host := { s.host with cqs := s.host.cqs ++ [cq] } } nvmeOk))

/-- CREATE_IO_SQ. -/
def execCreateIoSq (fn : BitVec 6) (s : State) : Res :=
  let f := fn.toNat
  .next (s.adminCommand f 0x01 (fun s e =>
    let done (s : State) (st : Nat) : State := s.nvmeComplete f 0 (cmdCid e) 0 st
    let qid := cmdDw e 10 % 65536
    let size := cmdDw e 10 / 65536
    let dw11 := cmdDw e 11
    let cqid := dw11 / 65536
    if dw11 % 2 = 0 then done s nvmeBadField
    else if qid = 0 || decide (queueLimit < qid) || (s.sq f qid).isSome
        || decide (queueLimit ≤ (s.host.sqs.filter (fun q => q.fn == f && q.qid != 0)).length) then done s nvmeBadQueue
    else if cqid = 0 || (s.cq f cqid).isNone then done s nvmeBadCq
    else if size = 0 ∨ 4095 < size then done s nvmeBadSize
    else match s.bindNvme f qid with
      | none => done s nvmeBadQueue
      | some (q, s) =>
        let sq : NvmeSq := ⟨f, qid, q, cmdPrp1 e, size + 1, 0, 0, cqid, BitVec.ofNat 2 (dw11 / 2)⟩
        done { s with host := { s.host with sqs := s.host.sqs ++ [sq] } } nvmeOk))

/-- DELETE_IO_SQ. -/
def execDeleteIoSq (fn : BitVec 6) (s : State) : Res :=
  let f := fn.toNat
  .next (s.adminCommand f 0x00 (fun s e =>
    let qid := cmdDw e 10 % 65536
    match (if qid = 0 then none else s.sq f qid) with
    | some q =>
      let s := { s.freeQueue q.qcn with host := { s.host with sqs := s.host.sqs.filter (fun r => !(r.fn == f && r.qid == qid)) } }
      s.nvmeComplete f 0 (cmdCid e) 0 nvmeOk
    | none => s.nvmeComplete f 0 (cmdCid e) 0 nvmeBadQueue))

/-- DELETE_IO_CQ: refused while a submission queue uses it. -/
def execDeleteIoCq (fn : BitVec 6) (s : State) : Res :=
  let f := fn.toNat
  .next (s.adminCommand f 0x04 (fun s e =>
    let qid := cmdDw e 10 % 65536
    match (if qid = 0 then none else s.cq f qid) with
    | some q =>
      if s.host.sqs.any (fun r => r.fn == f && r.cqid == qid) then s.nvmeComplete f 0 (cmdCid e) 0 nvmeQueueHeld
      else
        let s := { s.freeQueue q.qcn with host := { s.host with cqs := s.host.cqs.filter (fun r => !(r.fn == f && r.qid == qid)) } }
        s.nvmeComplete f 0 (cmdCid e) 0 nvmeOk
    | none => s.nvmeComplete f 0 (cmdCid e) 0 nvmeBadQueue))

/-! ## Other admin commands (R413, R416, R418) -/

/-- A page of `n` bytes that the manual does not give, with fields put in place. -/
def State.openPage (s : State) (n : Nat) (fields : List (Nat × List Byte)) : List Byte × State :=
  let (draw, s) := s.freshFree
  let base := (List.range n).map (fun i => Config.rawByte draw i)
  (fields.foldl (fun (b : List Byte) f => b.take f.1 ++ f.2 ++ b.drop (f.1 + f.2.length)) base, s)

/-- A power state descriptor of R418: MP in 0.01 W, flags, latencies in µs. -/
def powerStates : List (Nat × Bool × Nat × Nat) :=
  [(28000, false, 0, 0), (22000, false, 100, 100), (16000, false, 200, 200), (4000, true, 1000, 2000), (1400, true, 10000, 25000)]

/-- A namespace is attached to a function. -/
def State.attached (s : State) (fn nsid : Nat) : Option Space :=
  if nsid = 0 ∨ 4095 < nsid then none else (s.space nsid).filter (fun x => bitAt x.attach fn)

/-- Active namespaces of a function. -/
def State.activeNs (s : State) (fn : Nat) : List Nat :=
  (s.ftl.spaces.filter (fun e => (s.attached fn e.1).isSome)).map (·.1)

/-- IDENTIFY. -/
def execIdentify (fn : BitVec 6) (s : State) : Res :=
  let f := fn.toNat
  .next (s.adminCommand f 0x06 (fun s e =>
    let cns := cmdDw e 10 % 256
    let nsid := cmdNsid e
    let send (s : State) (bs : List Byte) : State := (s.prpWrite f e bs).nvmeComplete f 0 (cmdCid e) 0 nvmeOk
    if cns = 0 then
      match s.attached f nsid with
      | some x =>
        let n := leBytes 8 x.units
        let (page, s) := s.openPage 4096 [(0, n), (8, n), (16, n), (25, [0]), (26, [0]), (29, [0]), (33, [0]), (128, [0, 0, 12])]
        send s page
      | none => if nsid = 0 ∨ 4095 < nsid then s.nvmeComplete f 0 (cmdCid e) 0 nvmeBadNamespace else send s (zeros 4096)
    else if cns = 1 then
      let states := (powerStates.zipIdx).flatMap (fun p =>
        [(2048 + 32 * p.2, leBytes 2 p.1.1 ++ [0, BitVec.ofNat 8 (2 * p.1.2.1.toNat)] ++ leBytes 4 p.1.2.2.1 ++ leBytes 4 p.1.2.2.2)])
      let (page, s) := s.openPage 4096 ([(77, [8]), (259, [3]), (260, [2]), (262, [63]), (263, [4]), (265, [1]), (525, [0])] ++ states)
      send s page
    else if cns = 2 then
      let ids := (s.activeNs f).filter (fun n => decide (nsid < n))
      send s (fitBytes 4096 ((ids.take 1024).flatMap (leBytes 4)))
    else if cns = 3 then
      match s.attached f nsid with
      | some _ =>
        let (page, s) := s.openPage 4096 []
        send s page
      | none => s.nvmeComplete f 0 (cmdCid e) 0 nvmeBadNamespace
    else s.nvmeComplete f 0 (cmdCid e) 0 nvmeBadField))

/-- An entry of the Error Information log: count, queue, command and status. -/
def errorEntry (x : Nat × Nat × Nat × Nat) : List Byte :=
  fitBytes 64 (leBytes 8 x.1 ++ leBytes 2 x.2.1 ++ leBytes 2 x.2.2.1 ++ leBytes 2 (2 * x.2.2.2))

/-- A number as hexadecimal ASCII digits. -/
def hexDigits (n v : Nat) : List Byte :=
  (List.range n).map (fun i =>
    let d := v / 16 ^ (n - 1 - i) % 16
    BitVec.ofNat 8 (if d < 10 then 0x30 + d else (if Config.hexCapitals then 0x41 else 0x61) + d - 10))

/-- GET_LOG_PAGE; the Firmware Slot Information log shows FW_VERSION of slot 1 (R612). -/
def execGetLogPage (fn : BitVec 6) (s : State) : Res :=
  let f := fn.toNat
  .next (s.adminCommand f 0x02 (fun s e =>
    let lid := cmdDw e 10 % 256
    let len := 4 * (cmdDw e 10 / 65536 + cmdDw e 11 % 65536 * 65536 + 1)
    let off := cmdDw e 12 + cmdDw e 13 * 2 ^ 32
    let supported (op : Nat) (l : List Nat) : List Byte := leBytes 4 (if l.contains op then 1 else 0)
    let (page, s) := if lid = 1 then
        (fitBytes 4096 ((((s.controller f).map (·.errors)).getD []).flatMap errorEntry), s)
      else if lid = 5 then
        (fitBytes 4096 ((List.range 256).flatMap (fun o => supported o (s.adminOpcodes f))
          ++ (List.range 256).flatMap (fun o => supported o ioOpcodes)), s)
      else if lid = 3 then s.openPage 512 [(8, hexDigits 8 (Mem.readLe s.bootFlash (imageArea + 0x0C) 4))]
      else s.openPage 512 []
    if lid = 1 ∨ lid = 2 ∨ lid = 3 ∨ lid = 5 then
      (s.prpWrite f e (fitBytes len (page.drop off))).nvmeComplete f 0 (cmdCid e) 0 nvmeOk
    else s.nvmeComplete f 0 (cmdCid e) 0 nvmeBadLog))

/-- ABORT: it never aborts a command (R416). -/
def execAbort (fn : BitVec 6) (s : State) : Res :=
  .next (s.adminCommand fn.toNat 0x08 (fun s e => s.nvmeComplete fn.toNat 0 (cmdCid e) 1 nvmeOk))

def featureIds : List Nat := [0x01, 0x02, 0x04, 0x07, 0x08, 0x09, 0x0B, 0x0C]

/-- The queue counts of Feature 0x07. -/
def queueCounts : Nat := 127 * 65536 + 127

/-- SET_FEATURES. -/
def execSetFeatures (fn : BitVec 6) (s : State) : Res :=
  let f := fn.toNat
  .next (s.adminCommand f 0x09 (fun s e =>
    let fid := cmdDw e 10 % 256
    let v := cmdDw e 11
    let done (s : State) (dw0 st : Nat) : State := s.nvmeComplete f 0 (cmdCid e) dw0 st
    match s.controller f with
    | none => s
    | some c =>
      if !featureIds.contains fid then done s 0 nvmeBadField
      else if 2 ^ 31 ≤ cmdDw e 10 then done s 0 nvmeNotSaveable
      else if fid = 0x02 ∧ 4 < v % 32 then done s 0 nvmeBadField
      else
        let c := { c with features := Table.put c.features fid (BitVec.ofNat 32 v) }
        let c := if fid = 0x02 then { c with ps := v % 32, opState := if v % 32 < 3 then some (v % 32) else c.opState }
          else if fid = 0x0C then
            let t := s.prpRead f e 256
            { c with apst := (List.range 32).map (fun i => BitVec.ofNat 64 (leAt t (8 * i) 8)) }
          else c
        done (s.setController c) (if fid = 0x07 then queueCounts else 0) nvmeOk))

/-- GET_FEATURES: the current value. -/
def execGetFeatures (fn : BitVec 6) (s : State) : Res :=
  let f := fn.toNat
  .next (s.adminCommand f 0x0A (fun s e =>
    let fid := cmdDw e 10 % 256
    match s.controller f with
    | none => s
    | some c =>
      if !featureIds.contains fid then s.nvmeComplete f 0 (cmdCid e) 0 nvmeBadField
      else
        let v := if fid = 0x07 then queueCounts else if fid = 0x02 then c.ps else (c.feature fid).toNat
        let s := if fid = 0x0C then s.prpWrite f e (c.apst.flatMap (fun w => leBytes 8 w.toNat)) else s
        s.nvmeComplete f 0 (cmdCid e) v nvmeOk))

/-- ASYNCHRONOUS_EVENT_REQUEST: up to four wait. -/
def execAsynchronousEventRequest (fn : BitVec 6) (s : State) : Res :=
  let f := fn.toNat
  .next (s.adminCommand f 0x0C (fun s e =>
    match s.controller f with
    | none => s
    | some c =>
      match c.events with
      | x :: rest =>
        (s.setController { c with events := rest }).nvmeComplete f 0 (cmdCid e) (x.kind + x.info * 2 ^ 8 + x.page * 2 ^ 16) nvmeOk
      | [] =>
        if 4 ≤ c.aers.length then s.nvmeComplete f 0 (cmdCid e) 0 nvmeAerLimit
        else s.setController { c with aers := c.aers ++ [cmdCid e] }))

/-- APST: an idle timer of a controller has run out (R419, Feature 0x0C). -/
def execApst (fn : BitVec 6) (s : State) : Res :=
  .next (match s.controller fn.toNat with
    | none => s
    | some c =>
      let entry := c.apst.getD c.ps 0
      let ms := natAt entry 8 24
      let target := natAt entry 3 5
      let idle := !s.host.sqs.any (fun q => q.fn == c.fn && q.waits)
      if bitAt (c.feature 0x0C) 0 && idle && ms != 0 && decide (c.ps < target) && decide (target ≤ 4)
          && decide (ms * 1000000 ≤ (s.gtc - c.idleSince).toNat) then s.setController { c with ps := target }
      else s)

/-! ## I/O commands (R412 to R414) -/

/-- Run an I/O command of a controller: it waits while the flash is RECOVERING (R414), for its turn between controllers, and for
streams that hold a volume it writes (R412). -/
def State.ioCommand (s : State) (fn opcode : Nat) (run : State → Nat → List Byte → State) : State :=
  if s.recovering || s.fnTurn != some fn then s
  else match s.takeNvme fn false opcode with
    | some (q, e, s) => if cmdBadPsdt e then s.nvmeComplete fn q (cmdCid e) 0 nvmeBadField else run s q e
    | none => s

def cmdSlba (e : List Byte) : Nat := leAt e 0x28 8
/-- Blocks of a transfer. -/
def cmdBlocks (e : List Byte) : Nat := cmdDw e 12 % 65536 + 1
/-- MDTS in blocks: 1 MiB (R411). -/
def mdtsBlocks : Nat := 256

/-- The check of a namespace and a range, with the status it gives (R414). -/
def State.ioCheck (s : State) (fn : Nat) (e : List Byte) (lba n : Nat) (write : Bool) : Option Nat :=
  match s.attached fn (cmdNsid e) with
  | none => some (if s.mounted then nvmeBadNamespace else nvmeOf stNOT_MOUNTED)
  | some x =>
    match s.spaceCheck (cmdNsid e) lba n write with
    | some code => some (nvmeOf code)
    | none => if write && bitAt x.readOnly fn then some (nvmeOf stREAD_ONLY) else none

/-- NVME_READ: the other blocks are transferred where one is unreadable. -/
def execNvmeRead (fn : BitVec 6) (s : State) : Res :=
  let f := fn.toNat
  .next (s.ioCommand f 0x02 (fun s q e =>
    let n := cmdBlocks e
    let done (s : State) (st : Nat) : State := s.nvmeComplete f q (cmdCid e) 0 st
    if mdtsBlocks < n then done s nvmeBadField
    else match s.ioCheck f e (cmdSlba e) n false with
      | some st => done s st
      | none =>
        let (us, s) := s.readRun (cmdNsid e) (cmdSlba e) n
        let (draw, s) := s.freshFree
        let bytes := us.zipIdx.flatMap (fun u => u.1.getD ((List.range 4096).map (fun i => Config.rawByte draw (u.2 * 4096 + i))))
        let s := (s.prpWrite f e bytes).count unitHST 1 bytes.length
        let s := { s with ftl := { s.ftl with lastWork := s.gtc } }
        done s (if us.any (fun u => u.isNone) then nvmeOf stUNREADABLE else nvmeOk)))

/-- NVME_WRITE: FUA and LR change nothing (R413). -/
def execNvmeWrite (fn : BitVec 6) (s : State) : Res :=
  let f := fn.toNat
  .next (s.ioCommand f 0x01 (fun s q e =>
    let n := cmdBlocks e
    if mdtsBlocks < n then s.nvmeComplete f q (cmdCid e) 0 nvmeBadField
    else match s.ioCheck f e (cmdSlba e) n true with
      | some st => s.nvmeComplete f q (cmdCid e) 0 st
      | none =>
        let data := s.prpRead f e (n * 4096)
        let units := (List.range n).map (fun i => sliceOf (i * 4096) 4096 data)
        (s.count unitHST 2 (n * 4096)).beginWrite (.nvme f q (cmdCid e)) (cmdNsid e) (cmdSlba e) units false))

/-- WRITE_ZEROES. -/
def execWriteZeroes (fn : BitVec 6) (s : State) : Res :=
  let f := fn.toNat
  .next (s.ioCommand f 0x08 (fun s q e =>
    let n := cmdBlocks e
    match s.ioCheck f e (cmdSlba e) n true with
    | some st => s.nvmeComplete f q (cmdCid e) 0 st
    | none => s.beginWrite (.nvme f q (cmdCid e)) (cmdNsid e) (cmdSlba e) (List.replicate n (zeros 4096)) false))

/-- NVME_FLUSH: a SYNC of the space; of every space where NSID is all ones. -/
def execNvmeFlush (fn : BitVec 6) (s : State) : Res :=
  let f := fn.toNat
  .next (s.ioCommand f 0x00 (fun s q e =>
    let ns := cmdNsid e
    if !s.mounted then s.nvmeComplete f q (cmdCid e) 0 (nvmeOf stNOT_MOUNTED)
    else if ns = 0xFFFFFFFF then s.beginSync (.nvme f q (cmdCid e)) 0
    else if (s.attached f ns).isNone then s.nvmeComplete f q (cmdCid e) 0 nvmeBadNamespace
    else s.beginSync (.nvme f q (cmdCid e)) ns))

/-- DATASET_MANAGEMENT: with AD each range becomes a TRIM, whose runs of units the engine chooses. -/
def execDatasetManagement (fn : BitVec 6) (runs : List (List (Nat × Nat))) (s : State) : Res :=
  let f := fn.toNat
  .next (s.ioCommand f 0x09 (fun s q e =>
    let done (s : State) (st : Nat) : State := s.nvmeComplete f q (cmdCid e) 0 st
    let n := cmdDw e 10 % 256 + 1
    let b := s.prpRead f e (16 * n)
    let ranges := (List.range n).map (fun i => (leAt b (16 * i + 8) 8, leAt b (16 * i + 4) 4))
    match s.ioCheck f e 0 0 true with
    | some st => done s st
    | none =>
      if cmdDw e 11 / 4 % 2 = 0 then done s nvmeOk
      else match ranges.findSome? (fun r => s.ioCheck f e r.1 r.2 true) with
        | some st => done s st
        | none =>
          let recs := (ranges.zip runs).flatMap (fun p =>
            p.2.filterMap (fun u =>
              let k := min u.2 (p.1.2 - u.1)
              if u.1 < p.1.2 ∧ 0 < k then some (⟨recTrim, cmdNsid e, k, p.1.1 + u.1, 0, 0⟩ : JRecord) else none))
          let s := s.count unitFTL 7 (recs.foldl (fun m r => m + r.count) 0)
          let s := { s with ftl := { s.ftl with lastWork := s.gtc } }
          if recs.isEmpty then done s nvmeOk else s.recordFor (.nvme f q (cmdCid e)) recs))

/-! ## The link (R406 to R408) -/

/-- PCIE_LINK_TRAINED: after PERST_N is released the link trains; the host then holds its functions and Max Payload Size. -/
def execPcieLinkTrained (speed : BitVec 3) (width : BitVec 5) (flit : Bool) (vfs : BitVec 6) (payload : BitVec 2) (s : State) : Res :=
  let sp := speed.toNat
  .next (if !s.polderOn polPH || s.linkUp || sp = 0 || decide (6 < sp) || !([1, 4, 8, 16].contains width.toNat) then s
    else
      let s := s.setReg HST_LINK (BitVec.ofNat 32 (2 ^ 31 + (flit || sp == 6).toNat * 2 ^ 30 + sp * 2 ^ 27 + width.toNat * 2 ^ 22))
      { s with host := { s.host with vfs := vfs.toNat, maxPayload := 128 * 2 ^ min 2 payload.toNat } })

end Sys2Proof.Machine
end

