-- ==== Sys2Proof/Machine/Rdma.lean ====
section
/-!
DEFINITION. The RDMA engine (R359 to R385): queue pairs, retransmission, regions and revocation, slot grants, reconstruct reads.
-/

namespace Sys2Proof.Machine

open Reg

def stNO_GRANT : Nat := 0x40
def stDECLINED : Nat := 0x41
def stRDM_NOT_FOUND : Nat := 0x42
def stBAD_QP : Nat := 0x43
def stTOO_SMALL : Nat := 0x44
def stREMOTE_ERROR : Nat := 0x45
def stRETRY_EXCEEDED : Nat := 0x46
def stBAD_REGION : Nat := 0x47

/-! ## Queue pairs (R363 to R365) -/

def qpRESET : Nat := 0
def qpINIT : Nat := 1
def qpRTR : Nat := 2
def qpRTS : Nat := 3
def qpERR : Nat := 4

/-- Payload bytes of a packet. -/
def Qp.mtu (q : Qp) : Nat := 1024 * 2 ^ min 2 q.pmtu

/-- A PSN `n` further, modulo 2^24. -/
def psnAdd (p n : Nat) : Nat := (p + n) % 2 ^ 24
/-- How far PSN `a` lies after `b`. -/
def psnAfter (a b : Nat) : Nat := (a + 2 ^ 24 - b) % 2 ^ 24

/-- Packets of `n` bytes of payload. -/
def Qp.packetsFor (q : Qp) (n : Nat) : Nat := max 1 (ceilDiv n q.mtu)

/-- Packets that wait for an acknowledgement at once (R359). -/
def flightLimit : Nat := 4096
/-- RDMA READs outstanding at once (R359). -/
def readLimit : Nat := 16

def OutPacket.isRead (p : OutPacket) : Bool :=
  match p.body with
  | .readReq _ _ _ => true
  | _ => false

/-- While the sub-port is down nothing leaves, and the timer runs (R356). -/
def State.startLost (s : State) (qcn : Nat) : State :=
  match s.qpAt qcn with
  | some q => if (s.subport (subNo q.sub)).up then s else s.startTimer qcn
  | none => s

/-- Packets go to the weir while the limits of R359 allow. -/
def State.pumpQp (s : State) (qcn : Nat) : Nat → State
  | 0 => s.startLost qcn
  | fuel + 1 =>
    match s.qpAt qcn with
    | none => s
    | some q =>
      match q.todo with
      | [] => s.startLost qcn
      | p :: rest =>
        let reads := (q.flight.filter (·.isRead)).length
        if q.state ≠ qpRTS || decide (flightLimit ≤ q.flight.length) || (p.isRead && decide (readLimit ≤ reads)) then
          s.startLost qcn
        else
          ((s.setQp qcn { q with todo := rest, flight := q.flight ++ [p] }).weirAdd q.sub q.subscriber p).pumpQp qcn fuel

/-- A request packet before it has its PSN. -/
def request (qcn service span : Nat) (body : NetBody) (role : PacketRole) (owner : Option (Nat × Nat)) (dst : Nat) : OutPacket :=
  { qcn := qcn, psn := 0, span := span, body := body, role := role, owner := owner, dst := dst, got := 0, service := service
    since := 0 }

/-- Work posted to a QP: each packet takes its PSNs, and what may leaves for the weir. -/
def State.post (s : State) (qcn : Nat) (ps : List OutPacket) : State :=
  match s.qpAt qcn with
  | none => s
  | some q =>
    let (psn, out) := ps.foldl (fun (acc : Nat × List OutPacket) p =>
      (psnAdd acc.1 p.span, acc.2 ++ [{ p with psn := acc.1 }])) (q.psn, [])
    let todo := q.todo ++ out
    (s.setQp qcn { q with psn := psn, todo := todo }).pumpQp qcn todo.length

/-- An ACK, NAK or CNP, which waits only for the next packet boundary (R390). -/
def State.urgent (s : State) (qcn : Nat) (q : Qp) (psn : Nat) (body : NetBody) : State :=
  let n := subNo q.sub
  let p := s.subport n
  if p.up then s.setSubport n { p with urgent := p.urgent ++ [{ request qcn 0 1 body .other none 0 with psn := psn }] } else s

/-- The packets of one RDMA WRITE. -/
def Qp.writePackets (q : Qp) (qcn addr key : Nat) (imm : Option Nat) (bs : List Byte) (role last : PacketRole)
    (owner : Option (Nat × Nat)) : List OutPacket :=
  let n := q.packetsFor bs.length
  (List.range n).map (fun i =>
    let first := i == 0
    let final := i + 1 == n
    request qcn 0 1 (.write first final (if first then addr else 0) (if first then key else 0) (if first then bs.length else 0)
      (if final then imm else none) (sliceOf (i * q.mtu) q.mtu bs)) (if final then last else role) owner 0)

/-! ## The end of a DELIVER or RECON_READ -/

/-- The taken descriptor that an owner names, while it runs. -/
def State.takenOf (s : State) (o : Nat × Nat) : Option Taken :=
  s.taken.find? (fun x => x.core.val == o.1 && x.ticket.toNat == o.2 && x.result.isNone)

/-- The delivery record of R382, written where the descriptor asks for it. -/
def State.deliveryRecord (s : State) (x : Taken) (slot flags gen bytes resends : Nat) : State :=
  let a := x.fieldAt 0x28 8
  if a = 0 then s
  else s.engineWrite 10 a (leBytes 8 (x.fieldAt 0x10 8) ++ leBytes 2 slot ++ leBytes 1 (x.fieldAt 0x19 1) ++ leBytes 1 flags
    ++ leBytes 4 gen ++ leBytes 6 bytes ++ leBytes 2 (min 0xFFFF resends) ++ leBytes 8 s.gtc.toNat)

/-- A DELIVER that sends nothing ends (R364, R383, R384). -/
def State.deliverRefuse (s : State) (x : Taken) (status : Nat) : State :=
  (s.deliveryRecord x 0 0 0 0 0).finish x status 0 []

/-- A delivery ends: its record is written, and its part leaves the store where the status is OK and stays in it otherwise
(R382, R383). -/
def State.endDelivery (s : State) (d : Delivery) (status : Nat) : State :=
  let s := { s with net := { s.net with deliveries := s.net.deliveries.filter (fun e => !(e.core == d.core && e.ticket == d.ticket)) } }
  let s := if status = stOK then s.dropPart d.entry
    else { s with store := { s.store with parts := s.store.parts.map (fun p => if p == d.entry then { p with out := false } else p) } }
  match s.takenOf (d.core, d.ticket) with
  | some x =>
    let flags := d.granted.toNat + 2 * d.sealLeft.toNat + 4 * d.releaseAcked.toNat
    (s.deliveryRecord x d.slot flags d.generation d.bytes d.resends).finish x status 0 []
  | none => s

/-! ## Revocation (R373, R374) -/

def RegionEntry.fresh : RegionEntry := ⟨none, 0, 0, 0, 0, false, none, []⟩

def State.regionEntry (s : State) (r : Nat) : RegionEntry := Table.at RegionEntry.fresh s.net.regions r

/-- `RDM_REGIONS` counts the regions registered. -/
def State.setRegion (s : State) (r : Nat) (e : RegionEntry) : State :=
  let t := Table.write RegionEntry.fresh s.net.regions r e
  { s with net := { s.net with regions := t } }.setFld RDM_REGIONS_IN_USE (t.filter (fun (x : Nat × RegionEntry) => x.2.registered)).length

/-- The key of a region (R371). -/
def rkeyOf (region generation : Nat) : Nat := generation * 2 ^ 20 + region

/-- A QP holds an accepted message of a region. -/
def Qp.holds (q : Qp) (r : Nat) : Bool :=
  let within (m : Option Incoming) : Bool := m.any (fun i => i.region == r && !i.discard)
  within q.incoming || within q.again || q.reads.contains r

/-- The generation was in use on the region less than 1 s ago (R373). -/
def State.generationRecent (s : State) (e : RegionEntry) : Bool :=
  e.retired.any (fun g => g.1 == e.generation && decide ((s.gtc - g.2).toNat < 1000000000))

/-- REGISTER sets the region once its generation may be used, and writes the key. -/
def State.registerNow (s : State) (x : Taken) (detail : Nat) : State :=
  let r := x.fieldAt 0x10 4 % 2 ^ 20
  let b := x.fieldAt 0x13 1
  let e := s.regionEntry r
  if s.generationRecent e then s
  else
    let e' : RegionEntry := {
      space := if b / 4 % 2 = 1 then some (x.fieldAt 0x14 2) else none
      base := x.fieldAt 0x18 8, length := x.fieldAt 0x20 8, access := BitVec.ofNat 2 b, generation := e.generation
      registered := true, revoking := none
      retired := e.retired.filter (fun g => decide ((s.gtc - g.2).toNat < 1000000000)) }
    let s := s.setRegion r e'
    let out := x.fieldAt 0x28 8
    (s.engineWrite 10 out (leBytes 4 (rkeyOf r e.generation))).finish x stOK detail [(out, 4)]

/-- The revocation of a region ends with `n` QPs moved to ERR: REVOKE completes, and REGISTER goes on. -/
def State.endRevoke (s : State) (r n : Nat) : State :=
  let e := s.regionEntry r
  match e.revoking with
  | none => s
  | some (c, t, _) =>
    let s := s.setRegion r { e with revoking := none }
    match s.takenOf (c, t) with
    | some x => if descOpcode x.desc = 4 then s.finish x stOK (min 0xFFFF n) [] else s.registerNow x (min 0xFFFF n)
    | none => s

/-- Revocations whose last accepted message has ended. -/
def State.settleRevokes (s : State) : State :=
  s.net.regions.foldl (fun (s : State) e =>
    if e.2.revoking.isSome && !s.net.qps.any (fun q => q.2.holds e.1) then s.endRevoke e.1 0 else s) s

/-- The revoke point: the generation moves on at once (R374). -/
def State.beginRevoke (s : State) (r : Nat) (x : Taken) : State :=
  let e := s.regionEntry r
  (s.setRegion r { e with
    registered := false, generation := (e.generation + 1) % 4096, revoking := some (x.core.val, x.ticket.toNat, s.gtc)
    retired := e.retired.filter (fun g => g.1 != e.generation) ++ [(e.generation, s.gtc)] }).settleRevokes

/-! ## Entry to ERR (R366) -/

/-- The descriptors with work on a QP end: the one that caused it with its own code, the others with theirs. -/
def State.endQpWork (s : State) (qcn : Nat) (q : Qp) (cause : Nat) (owner : Option (Nat × Nat)) (others : Nat) : State :=
  let code (o : Nat × Nat) : Nat := if owner = some o then cause else others
  let mine := s.net.deliveries.filter (fun d => d.dataQ == qcn || (d.ctrlQ == qcn && !d.granted))
  let s := mine.foldl (fun (s : State) d => s.endDelivery d (code (d.core, d.ticket))) s
  let shares := ((q.flight ++ q.todo).filter (fun p => p.role == .share)).filterMap (·.owner)
  shares.eraseDups.foldl (fun (s : State) o =>
    match s.takenOf o with
    | some x => s.finish x (code o) 0 []
    | none => s) s

/-- A QP enters ERR: its work ends and no packet of it is sent. -/
def State.qpError (s : State) (qcn cause : Nat) (owner : Option (Nat × Nat)) (others : Nat) (command : Bool) : State :=
  match s.qpAt qcn with
  | none => s
  | some q =>
    if q.state = qpERR ∨ q.state = qpRESET ∨ (q.state = qpINIT ∧ !command) then s
    else
      let s := s.setQp qcn { q with state := qpERR, todo := [], flight := [], timer := none, retries := 0, incoming := none
                                    again := none, reads := [] }
      let s := s.weirDrop qcn true
      let n := subNo q.sub
      let p := s.subport n
      let s := s.setSubport n { p with urgent := p.urgent.filter (fun x => x.qcn != qcn || (match x.body with
        | .nak _ => true
        | _ => false)) }
      let s := if command then s else s.errAdd RDM_ERR_CNT_QP_ERR 1
      (s.endQpWork qcn q cause owner others).settleRevokes

/-- FLUSH_DONE: in ERR, and every descriptor that the entry ended has completed. -/
def State.flushDone (s : State) (qcn : Nat) : Bool :=
  let named (x : Taken) : Bool :=
    if descOpcode x.desc = 1 then x.fieldAt 0x1A 2 == qcn || x.fieldAt 0x1C 2 == qcn else descOpcode x.desc == 2 && x.fieldAt 0x10 2 == qcn
  (s.qpAt qcn).any (fun q => q.state == qpERR) && !s.taken.any (fun x => x.cls == 10 && x.result.isSome && named x)

/-! ## Commands on `RDM_QP_STATE` (R365) -/

/-- The QP that `RDM_QCT_IDX` selects. -/
def State.qpSelected (s : State) : Nat := s.fld RDM_QCT_IDX_QCN

/-- A command that is no transition of R365. -/
def State.cmdReject (s : State) : State := s.setFlag RDM_QP_STATE_CMD_REJECT true

/-- A queue pair as the connection service fills it. -/
def newQp (x : QpSetup) : Qp :=
  { state := qpINIT, control := x.control, sub := x.sub.toNat, pmtu := x.pmtu.toNat, subscriber := x.subscriber.toNat, v6 := x.v6
    owner := x.owner.map (·.toNat), psn := x.psn.toNat, epsn := x.epsn.toNat, todo := [], flight := [], retries := 0, timer := none
    nakSent := false, lastCnp := none, incoming := none, again := none, reads := [] }

/-- CMD INIT: RESET to INIT; on a free entry the connection service binds a QP with its setup. -/
def State.cmdInit (s : State) (setup : Option QpSetup) : State :=
  let n := s.qpSelected
  match s.qpAt n, setup with
  | some q, none => if q.state = qpRESET then s.setQp n { q with state := qpINIT } else s.cmdReject
  | some q, some x => if q.state = qpRESET then s.setQp n (newQp x) else s.cmdReject
  | none, none => s.cmdReject
  | none, some x =>
    if s.boundElsewhere n .rdmaQp then s.cmdReject else { s with qct := Table.put s.qct n .rdmaQp }.setQp n (newQp x)

/-- CMD RTR or RTS: from the state before it. -/
def State.cmdMove (s : State) (src dst : Nat) : State :=
  match s.qpAt s.qpSelected with
  | some q => if q.state = src then s.setQp s.qpSelected { q with state := dst } else s.cmdReject
  | none => s.cmdReject

/-- CMD ERR: from INIT, RTR or RTS. -/
def State.cmdErr (s : State) : State :=
  match s.qpAt s.qpSelected with
  | some q =>
    if q.state = qpINIT ∨ q.state = qpRTR ∨ q.state = qpRTS then s.qpError s.qpSelected stFLUSHED none stFLUSHED true else s.cmdReject
  | none => s.cmdReject

/-- A QP is unbound and its entry free. -/
def State.unbindQp (s : State) (qcn : Nat) : State :=
  { s with net := { s.net with qps := Table.drop s.net.qps qcn }, qct := Table.drop s.qct qcn }

/-- CMD RESET: from ERR once FLUSH_DONE is 1; the connection service may then tear the QP down. -/
def State.cmdReset (s : State) (unbind : Bool) : State :=
  let n := s.qpSelected
  match s.qpAt n with
  | some q =>
    if q.state = qpERR && s.flushDone n then
      if unbind then s.unbindQp n else s.setQp n { q with state := qpRESET, nakSent := false, lastCnp := none }
    else s.cmdReject
  | none => s.cmdReject

/-- A write of `RDM_QP_STATE`.CMD. -/
def State.qpCommand (s : State) (cmd : Nat) : State :=
  match cmd with
  | 1 => s.cmdInit none
  | 2 => s.cmdMove qpINIT qpRTR
  | 3 => s.cmdMove qpRTR qpRTS
  | 4 => s.cmdErr
  | 5 => s.cmdReset false
  | _ => s

/-- The network registers take a writer's command; loader-only state accepts no RDMA work (R617). -/
def State.netWrites (s : State) (w : Writer) : Bool := s.mayWrite w && s.polderOn polPN && !s.loaderOnly

/-- INIT. -/
def execInit (w : Writer) (setup : Option QpSetup) (s : State) : Res := .next (if s.netWrites w then s.cmdInit setup else s)
/-- RTR. -/
def execRtr (w : Writer) (s : State) : Res := .next (if s.netWrites w then s.cmdMove qpINIT qpRTR else s)
/-- RTS. -/
def execRts (w : Writer) (s : State) : Res := .next (if s.netWrites w then s.cmdMove qpRTR qpRTS else s)
/-- ERR. -/
def execErr (w : Writer) (s : State) : Res := .next (if s.netWrites w then s.cmdErr else s)
/-- RESET. -/
def execReset (w : Writer) (unbind : Bool) (s : State) : Res := .next (if s.netWrites w then s.cmdReset unbind else s)

/-! ## Retransmission (R367, R368) -/

/-- Go-back-N: every packet from the oldest unacknowledged PSN is queued again, and counts as retransmitted where it had left. -/
def State.goBack (s : State) (qcn : Nat) : State :=
  match s.qpAt qcn with
  | none => s
  | some q =>
    let left := q.flight.filter (fun p => !s.weirHolds qcn p.psn)
    let q' := { q with retries := q.retries + 1 }
    let s := (s.weirDrop qcn false).setQp qcn { q' with timer := some (s.qpTimer q') }
    let s := s.count unitRDM 3 left.length
    let s := { s with net := { s.net with deliveries := s.net.deliveries.map (fun d =>
      let n := (left.filter (fun p => p.owner == some (d.core, d.ticket))).length
      if d.dataQ = qcn ∨ 0 < n then { d with resends := d.resends + 1, packetsResent := d.packetsResent + n } else d) } }
    q.flight.foldl (fun (s : State) p => s.weirAdd q.sub q.subscriber p) s

/-- Retries allowed. -/
def State.retryLimit (s : State) (q : Qp) : Nat :=
  if q.control then min 10 (s.fld RDM_RETRY_CFG_CTRL_RETRY) else s.fld RDM_RETRY_CFG_DATA_RETRY

/-- RETRY_TIMEOUT: the timer of a QP has expired. -/
def execRetryTimeout (qcn : BitVec 16) (s : State) : Res :=
  .next (match s.qpAt qcn.toNat with
    | some q =>
      match q.timer, q.flight with
      | some t, p :: _ =>
        if !s.netRuns || q.state ≠ qpRTS || decide (s.gtc < t) then s
        else if s.retryLimit q ≤ q.retries then s.qpError qcn.toNat stRETRY_EXCEEDED p.owner stFLUSHED false
        else s.goBack qcn.toNat
      | _, _ => s
    | none => s)

/-- What an acknowledged packet means: payload bytes, and the RELEASE (R382, R387). -/
def State.ackedPacket (s : State) (p : OutPacket) : State :=
  let n := (payloadOf p.body).length
  let mine (d : Delivery) : Bool := p.owner == some (d.core, d.ticket)
  let onMine (s : State) (f : Delivery → Delivery) : State :=
    { s with net := { s.net with deliveries := s.net.deliveries.map (fun d => if mine d then f d else d) } }
  match p.role with
  | .piece => (onMine s (fun d => { d with bytes := d.bytes + n })).count unitRDM 2 n
  | .release => (onMine s (fun d => { d with releaseAcked := true })).count unitRDM 5 1
  | _ => s

/-- An acknowledgement of every packet up to a PSN; a READ request waits for its responses. -/
def State.ackUpTo (s : State) (qcn psn : Nat) : State :=
  match s.qpAt qcn with
  | none => s
  | some q =>
    let done := q.flight.takeWhile (fun p => !p.isRead && decide (psnAfter psn (psnAdd p.psn (p.span - 1)) < 2 ^ 23))
    if done.isEmpty || decide (2 ^ 23 ≤ psnAfter (psnAdd q.psn (2 ^ 24 - 1)) psn) then s
    else
      let rest := q.flight.drop done.length
      let q' := { q with flight := rest, retries := 0 }
      let s := s.setQp qcn { q' with timer := if rest.isEmpty then none else some (s.qpTimer q') }
      (done.foldl (fun (s : State) p => s.ackedPacket p) s).pumpQp qcn q.todo.length

/-- The last response of a share has arrived: RECON_READ completes. -/
def State.settleShare (s : State) (qcn : Nat) (o : Option (Nat × Nat)) : State :=
  match s.qpAt qcn, o with
  | some q, some w =>
    if (q.flight ++ q.todo).any (fun p => p.role == .share && p.owner == o) then s
    else match s.takenOf w with
      | some x => s.finish x stOK 0 [(x.fieldAt 0x20 8, x.fieldAt 0x28 4)]
      | none => s
  | _, _ => s

/-- A READ response: it acknowledges what stands before it, and its bytes go where the share lies (R380). -/
def State.responseIn (s : State) (qcn psn : Nat) (data : List Byte) : State :=
  let s := s.ackUpTo qcn (psnAdd psn (2 ^ 24 - 1))
  match s.qpAt qcn with
  | none => s
  | some q =>
    match q.flight with
    | [] => s
    | p :: rest =>
      match p.body with
      | .readReq addr key len =>
        if p.psn ≠ psn then s
        else
          let n := min data.length len
          let s := (s.engineWrite 10 p.dst (data.take n)).count unitRDM 7 n
          let p' := { p with psn := psnAdd psn 1, span := p.span - 1, dst := p.dst + n, got := p.got + n
                             body := .readReq (addr + n) key (len - n) }
          let flight := if p.span ≤ 1 then rest else p' :: rest
          let q' := { q with flight := flight, retries := 0 }
          let s := s.setQp qcn { q' with timer := if flight.isEmpty then none else some (s.qpTimer q') }
          (s.pumpQp qcn q.todo.length).settleShare qcn p.owner
      | _ => s

/-- A NAK received (R366, R367). -/
def State.nakIn (s : State) (qcn psn : Nat) (code : NakCode) : State :=
  let s := s.ackUpTo qcn (psnAdd psn (2 ^ 24 - 1))
  match code with
  | .sequence => s.goBack qcn
  | .notReady => s
  | _ =>
    let owner := (s.qpAt qcn).bind (fun q => (q.flight.find? (fun p => psnAfter psn p.psn < p.span)).bind (·.owner))
    s.qpError qcn stREMOTE_ERROR owner stFLUSHED false

/-! ## Grant messages (R375 to R379) -/

/-- A 64-byte grant message. -/
structure GrantMsg where
  typ : Nat
  part : Nat
  slot : Nat
  generation : Nat
  subscriber : Nat
  kind : Nat
  seq : Nat
  addr : Nat
  length : Nat
  rkey : Nat
  manAddr : Nat
  manLen : Nat
  detail : Nat
  digest : Nat
deriving DecidableEq, Repr

def grantMagic : Nat := 0x564C444B

def GrantMsg.bytes (m : GrantMsg) : List Byte :=
  leBytes 4 grantMagic ++ leBytes 1 m.typ ++ leBytes 1 m.part ++ leBytes 2 m.slot ++ leBytes 4 m.generation
    ++ leBytes 2 m.subscriber ++ leBytes 1 m.kind ++ zeros 1 ++ leBytes 8 m.seq ++ leBytes 8 m.addr ++ leBytes 4 m.length
    ++ leBytes 4 m.rkey ++ leBytes 8 m.manAddr ++ leBytes 4 m.manLen ++ leBytes 4 m.detail ++ leBytes 8 m.digest

def grantOf (b : List Byte) : GrantMsg :=
  { typ := leAt b 4 1, part := leAt b 5 1, slot := leAt b 6 2 % 4096, generation := leAt b 8 4, subscriber := leAt b 0xC 2 % 4096
    kind := leAt b 0xE 1, seq := leAt b 0x10 8, addr := leAt b 0x18 8, length := leAt b 0x20 4, rkey := leAt b 0x24 4
    manAddr := leAt b 0x28 8, manLen := leAt b 0x30 4, detail := leAt b 0x34 4, digest := leAt b 0x38 8 }

/-- A SEND of one grant message. -/
def grantPacket (qcn service : Nat) (m : GrantMsg) (role : PacketRole) (owner : Option (Nat × Nat)) : OutPacket :=
  request qcn service 1 (.send true true m.bytes) role owner 0

/-- The distance between the pieces of a part: the raw slot bytes or the row stride (R376). -/
def pieceStride (p : PackPart) : Nat := (p.pieces.map (·.2.length)).headD 0

/-- The bytes a part needs at ADDR (R376). -/
def partNeed (p : PackPart) : Nat := (p.pieces.foldl (fun m x => max m (x.1 + 1)) 0) * pieceStride p

/-- Units of 64 bytes. -/
def in64 (n : Nat) : Nat := ceilDiv n 64

/-- The payload of a part. -/
def partPayload (p : PackPart) : Nat := p.pieces.foldl (fun n x => n + x.2.length) 0

/-- The DIGEST of a part's manifest. -/
def partDigest (p : PackPart) : Nat := leAt p.manifest 0x30 8

/-- A message of a delivery: OFFER or RELEASE. -/
def Delivery.msg (d : Delivery) (typ length manLen detail : Nat) : GrantMsg :=
  { typ := typ, part := d.part, slot := d.slot, generation := d.generation, subscriber := d.subscriber, kind := d.entry.kind
    seq := d.entry.seq, addr := 0, length := length, rkey := 0, manAddr := 0, manLen := manLen, detail := detail
    digest := partDigest d.entry }

def State.setDelivery (s : State) (d : Delivery) : State :=
  { s with net := { s.net with deliveries := s.net.deliveries.map (fun e => if e.core == d.core && e.ticket == d.ticket then d else e) } }

def State.deliveryOf (s : State) (c : CoreId) (t : Ticket) : Option Delivery :=
  s.net.deliveries.find? (fun d => d.core == c.val && d.ticket == t.toNat)

/-- The immediate value of a seal (R377). -/
def sealImm (slot part generation : Nat) : Nat := slot % 4096 * 2 ^ 20 + part % 256 * 2 ^ 12 + generation % 4096

/-- A granted DELIVER writes each piece, and then the seal. -/
def State.writePart (s : State) (d : Delivery) (m : GrantMsg) : State :=
  match s.qpAt d.dataQ with
  | none => s
  | some q =>
    let owner := some (d.core, d.ticket)
    let stride := pieceStride d.entry
    let pieces := d.entry.pieces.flatMap (fun x =>
      q.writePackets d.dataQ (m.addr + x.1 * stride) m.rkey none x.2 .piece .piece owner)
    let closing := q.writePackets d.dataQ m.manAddr m.rkey (some (sealImm d.slot d.part d.generation)) d.entry.manifest
      .seal .sealLast owner
    s.post d.dataQ (pieces ++ closing)

/-- The waiting DELIVER that a GRANT or DECLINE matches, before its DEADLINE. -/
def State.waitingFor (s : State) (m : GrantMsg) : Option Delivery :=
  s.net.deliveries.find? (fun d => !d.granted && d.entry.seq == m.seq && d.part == m.part && d.subscriber == m.subscriber
    && (d.deadline == 0 || decide (s.gtc.toNat < d.deadline)))

/-- A GRANT (R377, R379). -/
def State.grantIn (s : State) (qcn : Nat) (m : GrantMsg) : State :=
  match s.waitingFor m with
  | some d =>
    let d := { d with slot := m.slot, generation := m.generation }
    if m.length < in64 (partNeed d.entry) ∨ m.manLen < d.entry.manifest.length then
      let s := s.post d.dataQ [grantPacket d.dataQ 0 (d.msg 4 0 0 0) .other none]
      s.endDelivery { d with slot := m.slot, generation := m.generation } stTOO_SMALL
    else
      let d := { d with granted := true }
      (s.setDelivery d).writePart d m
  | none =>
    match s.qpAt qcn with
    | some q =>
      if q.state ≠ qpRTS then s
      else
        let (n, s) := s.freshFree
        let m := { m with typ := 4, addr := 0, length := 0, rkey := 0, manAddr := 0, manLen := 0, detail := 0, digest := n % 2 ^ 64 }
        s.post qcn [grantPacket qcn (s.qpService qcn q) m .other none]
    | none => s

/-- A DECLINE. -/
def State.declineIn (s : State) (m : GrantMsg) : State :=
  match s.waitingFor m with
  | some d => s.endDelivery d stDECLINED
  | none => s

/-- A grant message taken into the delivery logic (R369, R375): this side writes, so OFFER and RELEASE mean nothing to it. -/
def State.grantMessage (s : State) (qcn : Nat) (b : List Byte) : State :=
  let m := grantOf b
  if m.typ = 2 then s.grantIn qcn m
  else if m.typ = 3 then s.declineIn m
  else if m.typ = 1 ∨ m.typ = 4 then s
  else s.errAdd RDM_ERR_CNT1_BAD_QPN 1

/-- A grant message of a type arrives on a QP that answers. -/
def State.grantCommand (s : State) (qcn typ : Nat) (b : List Byte) : State :=
  match s.qpAt qcn with
  | some q =>
    if !s.netRuns || !(s.subport (subNo q.sub)).up || !(q.state == qpRTR || q.state == qpRTS) || leAt b 0 4 ≠ grantMagic
      || leAt b 4 1 ≠ typ then s
    else s.grantMessage qcn b
  | none => s

/-- GRANT. -/
def execGrant (qcn : BitVec 16) (msg : List Byte) (s : State) : Res := .next (s.grantCommand qcn.toNat 2 msg)
/-- DECLINE. -/
def execDecline (qcn : BitVec 16) (msg : List Byte) (s : State) : Res := .next (s.grantCommand qcn.toNat 3 msg)

/-! ## DELIVER (R364, R377, R383, R384) -/

/-- A descriptor may name a QP (R364). -/
def State.qpUsable (s : State) (x : Taken) (qcn : Nat) (control : Bool) : Bool :=
  match s.qpAt qcn with
  | none => false
  | some q =>
    q.state == qpRTS && q.control == control
      && (match s.recipeOfRing x.cls x.ring with
        | some (h, _) => q.owner == some h
        | none => q.owner.isNone && (s.ring x.cls x.ring).ownerPriv == privM)

/-- DELIVER sends its OFFER. -/
def State.deliverRun (s : State) (x : Taken) : State :=
  let dataQ := x.fieldAt 0x1A 2
  let ctrlQ := x.fieldAt 0x1C 2
  if s.flag GTC_FENCE_FENCED then s.deliverRefuse x stFENCED
  else if !s.qpUsable x dataQ false || !s.qpUsable x ctrlQ true then s.deliverRefuse x stBAD_QP
  else match s.partNamed ((s.recipeOfRing 10 x.ring).map (·.1)) (x.fieldAt 0x10 8) (x.fieldAt 0x18 1) with
    | none => s.deliverRefuse x stRDM_NOT_FOUND
    | some p =>
      let p' := { p with out := true }
      let s := { s with store := { s.store with parts := s.store.parts.map (fun y => if y == p then p' else y) } }
      let d : Delivery := {
        core := x.core.val, ticket := x.ticket.toNat, dataQ := dataQ, ctrlQ := ctrlQ, part := x.fieldAt 0x19 1
        subscriber := ((s.qpAt dataQ).map (·.subscriber)).getD 0, deadline := x.fieldAt 0x20 8, entry := p', granted := false
        slot := 0, generation := 0, sealLeft := false, releaseSent := false, releaseAcked := false, bytes := 0, resends := 0
        packetsResent := 0 }
      let s := { s with net := { s.net with deliveries := s.net.deliveries ++ [d] } }
      let m := d.msg 1 (in64 (partNeed p)) p.manifest.length 0
      let service := ((s.qpAt ctrlQ).map (s.qpService ctrlQ)).getD 2
      s.post ctrlQ [grantPacket ctrlQ service m .offer (some (d.core, d.ticket))]

/-- DELIVER. -/
def execDeliver (c : CoreId) (t : Ticket) (s : State) : Res :=
  .next (match s.running c t 10 0x01 with
    | some x => if s.engineRuns 10 && (s.deliveryOf c t).isNone then s.deliverRun x else s
    | none => s)

/-- SEAL_ACKNOWLEDGED: every packet of the part and the seal is acknowledged, and RELEASE goes out on the same QP. -/
def execSealAcknowledged (c : CoreId) (t : Ticket) (s : State) : Res :=
  .next (match s.deliveryOf c t with
    | some d =>
      match s.qpAt d.dataQ with
      | some q =>
        let open_ := (q.flight ++ q.todo).any (fun p => p.owner == some (d.core, d.ticket))
        if !s.netRuns || !d.granted || !d.sealLeft || d.releaseSent || open_ then s
        else
          let d := { d with releaseSent := true }
          (s.setDelivery d).post d.dataQ [grantPacket d.dataQ 0
            (d.msg 4 (in64 (partPayload d.entry)) 0 (min 0xFFFFFFFF d.packetsResent)) .release (some (d.core, d.ticket))]
      | none => s
    | none => s)

/-- RELEASE: it is acknowledged, and the DELIVER completes. -/
def execRelease (c : CoreId) (t : Ticket) (s : State) : Res :=
  .next (match s.deliveryOf c t with
    | some d => if s.netRuns && d.releaseAcked then s.endDelivery d stOK else s
    | none => s)

/-- NO_GRANT: the DEADLINE has passed. -/
def execNoGrant (c : CoreId) (t : Ticket) (s : State) : Res :=
  .next (match s.deliveryOf c t with
    | some d =>
      if s.netRuns && !d.granted && d.deadline != 0 && decide (d.deadline ≤ s.gtc.toNat) then s.endDelivery d stNO_GRANT else s
    | none => s)

/-- Fencing during deliveries (R384): each whose seal has not left stops, and its DATA QP enters ERR. -/
def State.fenceDeliveries (s : State) : State :=
  s.net.deliveries.foldl (fun (s : State) d =>
    if (s.net.deliveries.any (fun e => e.core == d.core && e.ticket == d.ticket && !e.sealLeft)) then
      s.qpError d.dataQ stFENCED (some (d.core, d.ticket)) stFLUSHED false
    else s) s

/-- The unload of a recipe ends the DELIVERs of its rings that still wait for a grant (R385). -/
def State.unloadDeliveries (s : State) (h : Nat) : State :=
  let waits (x : Taken) : Bool := x.cls == 10 && descOpcode x.desc == 1 && x.result.isNone
    && (s.recipeOfRing 10 x.ring).any (fun e => e.1 == h)
  (s.taken.filter waits).foldl (fun (s : State) x =>
    match s.deliveryOf x.core x.ticket with
    | some d => if d.granted = true then s else s.endDelivery d stNO_GRANT
    | none => s.deliverRefuse x stNO_GRANT) s

/-- The QPs of a recipe enter ERR and are unbound (R385). -/
def State.unbindRecipeQps (s : State) (h : Nat) : State :=
  s.net.qps.foldl (fun (s : State) e =>
    if e.2.owner = some h then (s.qpError e.1 stFLUSHED none stFLUSHED true).unbindQp e.1 else s) s

/-! ## RECON_READ (R380) -/

/-- Bytes of one READ request of a share. -/
def shareChunk : Nat := 1048576

/-- RECON_READ posts its READ requests. -/
def State.reconRun (s : State) (x : Taken) : State :=
  let qcn := x.fieldAt 0x10 2
  let len := x.fieldAt 0x28 4
  let owner := (x.core.val, x.ticket.toNat)
  match s.qpAt qcn with
  | none => s.finish x stBAD_QP 0 []
  | some q =>
    if !s.qpUsable x qcn false then s.finish x stBAD_QP 0 []
    else if len < 64 ∨ 16777216 < len ∨ len % 64 ≠ 0 then s.finish x stBAD_REGION 0 []
    else if (q.flight ++ q.todo).any (fun p => p.owner == some owner) then s
    else s.post qcn ((List.range (ceilDiv len shareChunk)).map (fun i =>
      let off := i * shareChunk
      let n := min shareChunk (len - off)
      request qcn 1 (q.packetsFor n) (.readReq (x.fieldAt 0x18 8 + off) (x.fieldAt 0x14 4) n) .share (some owner)
        (x.fieldAt 0x20 8 + off)))

/-- RECON_READ. -/
def execReconRead (c : CoreId) (t : Ticket) (s : State) : Res :=
  .next (match s.running c t 10 0x02 with
    | some x => if s.engineRuns 10 then s.reconRun x else s
    | none => s)

/-! ## REGISTER and REVOKE (R373, R374) -/

/-- REGISTER is refused (R383 BAD_REGION). -/
def State.registerBad (s : State) (x : Taken) : Bool :=
  let b := x.fieldAt 0x13 1
  let base := x.fieldAt 0x18 8
  let len := x.fieldAt 0x20 8
  b % 4 == 0 || len == 0
    || (if b / 4 % 2 = 1 then b % 2 == 1 || (match s.space (x.fieldAt 0x14 2) with
          | some sp => decide (sp.units * 4096 < base + len)
          | none => true)
        else s.regionAt base len != .dram)

/-- REGISTER: a region that is registered is revoked first. -/
def execRegister (c : CoreId) (t : Ticket) (s : State) : Res :=
  .next (match s.running c t 10 0x03 with
    | some x =>
      let r := x.fieldAt 0x10 4 % 2 ^ 20
      let e := s.regionEntry r
      if !s.engineRuns 10 || e.revoking.isSome then s
      else if s.registerBad x then s.finish x stBAD_REGION 0 []
      else if e.registered then s.beginRevoke r x
      else s.registerNow x 0
    | none => s)

/-- REVOKE. -/
def execRevoke (c : CoreId) (t : Ticket) (s : State) : Res :=
  .next (match s.running c t 10 0x04 with
    | some x =>
      let r := x.fieldAt 0x10 4 % 2 ^ 20
      let e := s.regionEntry r
      if !s.engineRuns 10 || e.revoking.isSome then s.settleRevokes
      else if !e.registered then s.finish x stBAD_REGION 0 []
      else s.beginRevoke r x
    | none => s)

/-- REVOKE_TIMEOUT: RP + REVOKE_TMO has come, and every QP that holds an accepted message enters ERR. -/
def execRevokeTimeout (c : CoreId) (t : Ticket) (s : State) : Res :=
  .next (match s.net.regions.find? (fun e => e.2.revoking.any (fun v => v.1 == c.val && v.2.1 == t.toNat)) with
    | some (r, e) =>
      let rp := (e.revoking.map (·.2.2)).getD 0
      if !s.netRuns || decide ((s.gtc - rp).toNat < zeroActsAsOne (s.fld RDM_REVOKE_CFG_REVOKE_TMO) * 1000000) then s
      else
        let held := (s.net.qps.filter (fun q => q.2.holds r)).map (·.1)
        let keep := s.regionEntry r
        let s := s.setRegion r { keep with revoking := none }
        let s := held.foldl (fun (s : State) q => s.qpError q stFLUSHED none stFLUSHED false) s
        (s.setRegion r { s.regionEntry r with revoking := keep.revoking }).endRevoke r held.length
    | none => s)

/-! ## The responder (R359, R361, R362, R369, R371, R372) -/

/-- How a key check ends. -/
inductive KeyCheck where
  | pass | stale | fail
deriving DecidableEq, Repr

/-- The key check of R371 for a range and an access bit. -/
def State.keyCheck (s : State) (key addr len access : Nat) : KeyCheck :=
  let e := s.regionEntry (key % 2 ^ 20)
  if key / 2 ^ 20 % 4096 ≠ e.generation then .stale
  else if e.registered && bitAt e.access access && decide (e.base ≤ addr ∧ addr + len ≤ e.base + e.length) then .pass
  else .fail

/-- A NAK, and the QP enters ERR. -/
def State.nakError (s : State) (qcn : Nat) (q : Qp) (code : NakCode) : State :=
  (s.urgent qcn q q.epsn (.nak code)).qpError qcn stFLUSHED none stFLUSHED false

/-- A request that fails the key check (R366, R386). -/
def State.keyFails (s : State) (qcn : Nat) (q : Qp) : State := (s.errAdd RDM_ERR_CNT_KEY_FAIL 1).nakError qcn q .remoteAccess

/-- A request in order was executed: its PSNs pass and it is acknowledged. -/
def State.executed (s : State) (qcn : Nat) (q : Qp) (n : Nat) (ack : Bool) : State :=
  let s := s.setQp qcn { q with epsn := psnAdd q.epsn n, nakSent := false }
  if ack then s.urgent qcn q (psnAdd q.epsn (n - 1)) .ack else s

/-- Responses to a READ: the bytes as they stand when it is accepted; a space that cannot be read gives a NAK (R370). -/
def State.readRespond (s : State) (qcn : Nat) (q : Qp) (psn addr key len : Nat) (again : Bool) : State :=
  let r := key % 2 ^ 20
  let e := s.regionEntry r
  let ((bs, bad), s) : (List Byte × Bool) × State := match e.space with
    | some sp =>
      let (b, s) := s.spaceBytes sp addr len
      ((b.data, b.unread), s)
    | none => ((s.dramBytes addr len, s.hasDataError addr len), s.engineAccess 10 false addr len)
  if bad then s.urgent qcn q psn (.nak .remoteOp)
  else
    let n := q.packetsFor len
    let q' := if again then q else { q with epsn := psnAdd q.epsn n, nakSent := false }
    let s := s.setQp qcn { q' with reads := q'.reads ++ [r] }
    (List.range n).foldl (fun (s : State) i =>
      s.weirAdd q.sub q.subscriber { request qcn 1 1 (.readResp (i + 1 == n) (sliceOf (i * q.mtu) q.mtu bs)) .other none 0 with
        psn := psnAdd psn i }) s

/-- A message to firmware. -/
def State.toFirmware (s : State) (qcn : Nat) (first : Bool) (data : List Byte) : State :=
  let box := s.net.inbox
  let box' := if first then box ++ [(qcn, data)]
    else match box.reverse.findIdx? (fun m => m.1 == qcn) with
      | some i => box.modify (box.length - 1 - i) (fun m => (m.1, m.2 ++ data))
      | none => box
  { s with net := { s.net with inbox := box' } }

/-- A SEND in order (R369). -/
def State.sendIn (s : State) (qcn : Nat) (q : Qp) (first : Bool) (data : List Byte) : State :=
  if first && leAt data 0 4 == grantMagic && decide (4 ≤ data.length) then (s.executed qcn q 1 true).grantMessage qcn data
  else if !q.control then (s.executed qcn q 1 true).errAdd RDM_ERR_CNT1_BAD_QPN 1
  else if first && decide (64 ≤ s.net.slots) then s.urgent qcn q q.epsn (.nak .notReady)
  else
    let s := if first then { s with net := { s.net with slots := s.net.slots + 1 } } else s
    (s.executed qcn q 1 true).toFirmware qcn first data

/-- A WRITE packet in order. -/
def State.writeIn (s : State) (qcn : Nat) (q : Qp) (first last : Bool) (addr key len : Nat) (imm : Option Nat) (data : List Byte) :
    State :=
  if first != q.incoming.isNone || (first && (len == 0 || decide (2 ^ 30 < len))) then s.nakError qcn q .invalid
  else if first && s.keyCheck key addr len 0 != .pass then s.keyFails qcn q
  else
    let m := if first then ⟨key % 2 ^ 20, addr, false⟩ else q.incoming.getD ⟨0, 0, false⟩
    let s := s.engineWrite 10 m.addr data
    let q' := { q with incoming := if last then none else some { m with addr := m.addr + data.length }, again := none }
    let s := s.executed qcn q' 1 true
    let s := match imm with
      | some v => if last then s.toFirmware qcn true (leBytes 4 v) else s
      | none => s
    s.settleRevokes

/-- A READ in order. -/
def State.readIn (s : State) (qcn : Nat) (q : Qp) (addr key len : Nat) : State :=
  if readLimit ≤ q.reads.length ∨ len = 0 ∨ 2 ^ 30 < len then s.nakError qcn q .invalid
  else if s.keyCheck key addr len 1 != .pass then s.keyFails qcn q
  else s.readRespond qcn q q.epsn addr key len false

/-- A duplicate request (R369, R372). -/
def State.duplicateIn (s : State) (qcn psn : Nat) (q : Qp) (body : NetBody) : State :=
  let ack (s : State) : State := s.urgent qcn q (psnAdd q.epsn (2 ^ 24 - 1)) .ack
  match body with
  | .readReq addr key len =>
    match s.keyCheck key addr len 1 with
    | .stale => s.urgent qcn q psn (.nak .remoteAccess)
    | _ => s.readRespond qcn q psn addr key len true
  | .write first last addr key len _ data =>
    let from_ : Option Incoming :=
      if first then some ⟨key % 2 ^ 20, addr, s.keyCheck key addr len 0 == .stale⟩ else q.again
    match from_ with
    | none => ack s
    | some m =>
      if first && s.keyCheck key addr len 0 == .fail then s.nakError qcn q .remoteAccess
      else
        let s := s.setQp qcn { q with again := if last then none else some { m with addr := m.addr + data.length } }
        let s := if m.discard then s.errAdd RDM_ERR_CNT1_STALE_DUP 1 else s.engineWrite 10 m.addr data
        (ack s).settleRevokes
  | _ => ack s

/-- A request packet at a responder QP: its PSN is expected, a duplicate, or ahead (R367). -/
def State.requestIn (s : State) (qcn psn : Nat) (q : Qp) (body : NetBody) : State :=
  let d := psnAfter psn q.epsn
  if d = 0 then
    if q.mtu < (payloadOf body).length then s.nakError qcn q .invalid
    else match body with
      | .send first _ data => s.sendIn qcn q first data
      | .write first last addr key len imm data => s.writeIn qcn q first last addr key len imm data
      | .readReq addr key len => s.readIn qcn q addr key len
      | _ => s.nakError qcn q .invalid
  else if d < 2 ^ 23 then
    if q.nakSent then s else (s.setQp qcn { q with nakSent := true }).urgent qcn q q.epsn (.nak .sequence)
  else s.duplicateIn qcn psn q body

/-- A CNP answers a packet marked CE, at most one per QP every 50 µs (R361). -/
def State.answerCe (s : State) (qcn : Nat) (q : Qp) : State :=
  let recent := q.lastCnp.any (fun t => decide ((s.gtc - t).toNat < 50000))
  if recent then s else (s.setQp qcn { q with lastCnp := some s.gtc }).urgent qcn q 0 .cnp

/-- A packet for a QP of the machine. -/
def State.packetIn (s : State) (qcn : Nat) (p : NetPacket) : State :=
  match s.qpAt qcn with
  | none => s.errAdd RDM_ERR_CNT1_BAD_QPN 1
  | some q =>
    if q.sub ≠ p.sub.toNat then s.errAdd RDM_ERR_CNT1_BAD_QPN 1
    else if !(q.state == qpRTR || q.state == qpRTS) then s
    else
      let s := if p.ce then s.answerCe qcn q else s
      let q := (s.qpAt qcn).getD q
      match p.body with
      | .ack => s.ackUpTo qcn p.psn.toNat
      | .nak code => s.nakIn qcn p.psn.toNat code
      | .readResp _ data => s.responseIn qcn p.psn.toNat data
      | .cnp => s.cnpIn qcn q
      | body => s.requestIn qcn p.psn.toNat q body

/-- PACKET_RECEIVE: a packet arrives with the occupancy in KiB that the receive buffer then has and the receive slots firmware has
recycled. A lossless packet that finds the buffer full is dropped (R400). -/
def execPacketReceive (p : NetPacket) (kib recycled : Nat) (s : State) : Res :=
  .next (if !s.netRuns || !(s.subport p.sub).up then s
    else
      let s := { s with net := { s.net with slots := s.net.slots - recycled } }
      let s := (s.count unitRDM 1 1).rxLevel p.sub (min 2048 kib)
      let qpn := p.qpn.toNat
      let qcn := qpn % 65536
      let lossless := (s.qpAt qcn).all (fun q => !q.control)
      if qpn = 1 then { s with net := { s.net with punted := s.net.punted ++ [(p.sub.toNat, payloadOf p.body)] } }
      else if qpn / 65536 ≠ 0x80 then s.errAdd RDM_ERR_CNT1_BAD_QPN 1
      else if lossless && decide (2048 < kib) then s.errAdd WER_ERR_CNT_OVERRUN 1
      else s.packetIn qcn p)

end Sys2Proof.Machine
end

