-- ==== Sys2Proof/Machine/HostCmd.lean ====
section
/-!
DEFINITION. Command rings (R420 to R422): creating and deleting them, spaces, namespaces, cask grants; host delivery (R423 to
R426); PERST_N (R408).
-/

namespace Sys2Proof.Machine

open Reg

def stHOST_NO_GRANT : Nat := 0x41
def stHOST_NOT_FOUND : Nat := 0x42
def stHOST_TOO_SMALL : Nat := 0x43
def stHOST_ERROR : Nat := 0x44

/-! ## Grants (R424) -/

/-- A grant completes with a payload in bytes. -/
def State.endGrant (s : State) (g : CaskGrant) (bytes status : Nat) : State :=
  s.completeCommand g.ref (in64 bytes % 2 ^ 32 + g.generation.toNat * 2 ^ 32) status

def State.grantsOf (s : State) (sub : Nat) : List CaskGrant := Table.at [] s.host.grants sub
def State.setGrants (s : State) (sub : Nat) (gs : List CaskGrant) : State :=
  { s with host := { s.host with grants := Table.write [] s.host.grants sub gs } }

/-- Waiting grants of a subscriber that a test picks complete with WITHDRAWN; how many. -/
def State.withdraw (s : State) (sub : Nat) (pick : CaskGrant → Bool) : State × Nat :=
  let gs := s.grantsOf sub
  let gone := gs.filter pick
  let s := s.setGrants sub (gs.filter (fun g => !pick g))
  (gone.foldl (fun (s : State) g => s.endGrant g 0 csWITHDRAWN) s, gone.length)

/-- CASK_GRANT: up to 64 wait for a subscriber. -/
def execCaskGrant (src : CmdSrc) (s : State) : Res :=
  .next (match s.takeCommand src 0x20 with
    | none => s
    | some (ref, e, s) =>
      let sub := leAt e 0x04 2 % 4096
      let g : CaskGrant := ⟨ref, BitVec.ofNat 32 (leAt e 0x08 4), leAt e 0x10 8, leAt e 0x18 4, leAt e 0x1C 4, leAt e 0x20 8⟩
      let gs := s.grantsOf sub
      if 64 ≤ gs.length then s.endGrant g 0 csGRANTS_FULL else s.setGrants sub (gs ++ [g]))

/-- GRANT_WITHDRAW (R426). -/
def execGrantWithdraw (src : CmdSrc) (s : State) : Res :=
  .next (match s.takeCommand src 0x21 with
    | none => s
    | some (ref, e, s) =>
      let (s, n) := s.withdraw (leAt e 0x04 2 % 4096) (fun _ => true)
      s.completeCommand ref n csOK)

/-! ## Spaces and namespaces (R422) -/

/-- CMD_SPACE_CREATE: it waits during RECOVERING. -/
def execCmdSpaceCreate (src : CmdSrc) (s : State) : Res :=
  .next (if s.recovering then s
    else match s.takeCommand src 0x10 with
      | none => s
      | some (ref, e, s) => s.createSpace (.ring ref) (leAt e 0x10 2) (leAt e 0x12 1) (leAt e 0x18 5))

/-- CMD_SPACE_DELETE: a dataset volume with open fetch streams waits (R126). -/
def execCmdSpaceDelete (src : CmdSrc) (s : State) : Res :=
  .next (if s.recovering then s
    else match s.takeCommand src 0x11 with
      | none => s
      | some (ref, e, s') =>
        let space := leAt e 0x10 2
        if s.spaceHeld space then s else s'.deleteSpace (.ring ref) space)

/-- NS_ATTACH: it attaches and detaches a namespace, and each controller it changes is told. -/
def execNsAttach (src : CmdSrc) (s : State) : Res :=
  .next (match s.takeCommand src 0x12 with
    | none => s
    | some (ref, e, s) =>
      let n := leAt e 0x04 2
      if !s.mounted then s.completeCommand ref 0 stNOT_MOUNTED
      else if n = 0 ∨ 4095 < n then s.completeCommand ref 0 csBAD_COMMAND
      else match s.space n with
        | none => s.completeCommand ref 0 stNO_SPACE
        | some x =>
          let a := BitVec.ofNat 64 (leAt e 0x08 8)
          let ro := BitVec.ofNat 64 (leAt e 0x10 8)
          let s := { s with ftl := { s.ftl with spaces := Table.put s.ftl.spaces n { x with attach := a, readOnly := ro } } }
          let changed := (x.attach ^^^ a) ||| ((x.readOnly ^^^ ro) &&& a)
          let s := (s.host.controllers.map (·.fn)).foldl (fun (s : State) f =>
            if bitAt changed f then s.raiseEvent f ⟨2, 0, 4⟩ else s) s
          s.completeCommand ref 0 csOK)

/-! ## Creating and deleting rings (R420) -/

/-- CREATE_COMMAND_RING. -/
def execCreateCommandRing (s : State) : Res :=
  .next (s.adminCommand 0 0xC1 (fun s e =>
    let cid := cmdCid e
    let entries := cmdDw e 10 % 4096 + 1
    let ok := 16 ≤ entries && isAligned (cmdPrp1 e) 4096 && isAligned (cmdPrp2 e) 4096
    match (List.range 16).find? (fun i => (s.cmdRing i).isNone), s.freeQcn with
    | some i, some q =>
      if !ok then s.nvmeComplete 0 0 cid 0 nvmeBadField
      else
        let r : CmdRing := { qcn := q, sqBase := cmdPrp1 e, cqBase := cmdPrp2 e, entries := entries, vector := cmdDw e 11 % 2048
                             sqHead := 0, sqTail := 0, cqHead := 0, cqTail := 0, phase := true, held := [], outstanding := []
                             deleting := none }
        let s := { s with qct := Table.put s.qct q (.commandRing i) }
        (s.setCmdRing i r).nvmeComplete 0 0 cid q nvmeOk
    | _, _ => s.nvmeComplete 0 0 cid 0 nvmeBadField))

/-- The grants of a ring. -/
def CaskGrant.ofRing (g : CaskGrant) (qcn : Nat) : Bool :=
  match g.ref with
  | .ring q _ => q == qcn
  | .manager _ => false

/-- DELETE_COMMAND_RING: its outstanding grants complete with WITHDRAWN, and it goes once its other commands have completed. -/
def execDeleteCommandRing (s : State) : Res :=
  .next (s.adminCommand 0 0xC2 (fun s e =>
    let qcn := cmdDw e 10
    match s.cmdRingOf qcn with
    | none => s.nvmeComplete 0 0 (cmdCid e) 0 nvmeBadField
    | some i =>
      match s.cmdRing i with
      | none => s
      | some r =>
        let s := (s.host.grants.map (·.1)).foldl (fun (s : State) sub => (s.withdraw sub (fun g => g.ofRing qcn)).1) s
        let r := (s.cmdRing i).getD r
        (s.setCmdRing i { r with deleting := some (cmdCid e) }).settleDelete i))

/-! ## Delivery to the host (R423 to R426) -/

def State.hostDelivery (s : State) (c : CoreId) (t : Ticket) : Option HostDelivery :=
  s.host.deliveries.find? (fun d => d.core == c.val && d.ticket == t.toNat)

def State.putHostDelivery (s : State) (d : HostDelivery) : State :=
  { s with host := { s.host with
    deliveries := s.host.deliveries.filter (fun e => !(e.core == d.core && e.ticket == d.ticket)) ++ [d] } }

/-- A HOST_DELIVER ends: record, part and descriptor (R382, R423). -/
def State.endHostDelivery (s : State) (d : HostDelivery) (status flags : Nat) : State :=
  let s := { s with host := { s.host with
    deliveries := s.host.deliveries.filter (fun e => !(e.core == d.core && e.ticket == d.ticket)) } }
  let s := if status = stOK then s.dropPart d.entry
    else { s with store := { s.store with parts := s.store.parts.map (fun p => if p == d.entry then { p with out := false } else p) } }
  match s.takenOf (d.core, d.ticket) with
  | none => s
  | some x =>
    let gen := (d.grant.map (fun g => g.generation.toNat)).getD 0
    let a := x.fieldAt 0x28 8
    let s := if a = 0 then s
      else s.engineWrite 11 a (leBytes 8 (x.fieldAt 0x10 8) ++ zeros 2 ++ zeros 1 ++ leBytes 1 flags ++ leBytes 4 gen
        ++ leBytes 6 d.bytes ++ zeros 2 ++ leBytes 8 s.gtc.toNat)
    s.finish x status 0 []

/-- A HOST_DELIVER that never started ends: its record and its status word (R382, R426). -/
def State.hostDeliverRefuse (s : State) (x : Taken) (status : Nat) : State :=
  let a := x.fieldAt 0x28 8
  let s := if a = 0 then s else s.engineWrite 11 a (leBytes 8 (x.fieldAt 0x10 8) ++ zeros 16 ++ leBytes 8 s.gtc.toNat)
  s.finish x status 0 []

/-- A HOST_DELIVER starts: it takes its part, unless the module is fenced (R423, R426). -/
def State.hostDeliverStart (s : State) (x : Taken) : State :=
  if s.flag GTC_FENCE_FENCED then s.hostDeliverRefuse x stFENCED
  else match s.partNamed ((s.recipeOfRing 11 x.ring).map (·.1)) (x.fieldAt 0x10 8) (x.fieldAt 0x18 1) with
    | none => s.hostDeliverRefuse x stHOST_NOT_FOUND
    | some p =>
      let p' := { p with out := true }
      let s := { s with store := { s.store with parts := s.store.parts.map (fun y => if y == p then p' else y) } }
      s.putHostDelivery ⟨x.core.val, x.ticket.toNat, p', none, 0⟩

/-- It takes the oldest grant of its subscriber and writes the pieces, or waits for one up to DEADLINE (R425 steps 1 to 3). -/
def State.hostDeliverPayload (s : State) (x : Taken) (d : HostDelivery) (fails : Bool) : State :=
  let sub := x.fieldAt 0x1A 2 % 4096
  let deadline := x.fieldAt 0x20 8
  match s.grantsOf sub with
  | [] => if deadline ≠ 0 ∧ deadline ≤ s.gtc.toNat then s.endHostDelivery d stHOST_NO_GRANT 0 else s
  | g :: rest =>
    let s := s.setGrants sub rest
    let d := { d with grant := some g }
    if g.length < in64 (partNeed d.entry) ∨ g.manLen < d.entry.manifest.length then
      (s.endGrant g 0 csTOO_SMALL).endHostDelivery d stHOST_TOO_SMALL 0
    else if fails || !s.linkUp then (s.errAdd DMA_ERR_CNT_HOST_ERROR 1).endHostDelivery d stHOST_ERROR 1
    else
      let n := partPayload d.entry
      let s := d.entry.pieces.foldl (fun (s : State) p => s.hostWrite (g.addr + p.1 * pieceStride d.entry) p.2) s
      let s := (s.count unitHST 4 n).count unitDMA 2 n
      s.putHostDelivery { d with bytes := n }

/-- The manifest, the completion entry and the record (R425 steps 4 to 6). -/
def State.hostDeliverSeal (s : State) (d : HostDelivery) (g : CaskGrant) (fails : Bool) : State :=
  if fails || !s.linkUp then (s.errAdd DMA_ERR_CNT_HOST_ERROR 1).endHostDelivery d stHOST_ERROR 1
  else
    let s := s.hostWrite g.manAddr d.entry.manifest
    let s := s.endGrant g d.bytes csOK
    (s.count unitDMA 0 1).endHostDelivery d stOK 7

/-- HOST_DELIVER: each turn carries it one step of R425 further; `fails` says that a host access of this turn met a completion
error. -/
def execHostDeliver (c : CoreId) (t : Ticket) (fails : Bool) (s : State) : Res :=
  .next (match s.running c t 11 0x02 with
    | none => s
    | some x =>
      if !s.engineRuns 11 then s
      else match s.hostDelivery c t with
        | none => s.hostDeliverStart x
        | some d =>
          match d.grant with
          | none => s.hostDeliverPayload x d fails
          | some g => s.hostDeliverSeal d g fails)

/-- Fencing before the manifest write stops a host delivery; its grant completes with ABANDONED (R426). -/
def State.fenceHostDeliveries (s : State) : State :=
  s.host.deliveries.foldl (fun (s : State) d =>
    let s := match d.grant with
      | some g => s.endGrant g d.bytes csABANDONED
      | none => s
    s.endHostDelivery d stFENCED d.grant.isSome.toNat) s

end Sys2Proof.Machine
end

