-- ==== Sys2Proof/Machine/Dma.lean ====
section
/-!
DEFINITION. The DMA engine (R427 to R434), its channels' modes, and PERST_N (R408).
-/

namespace Sys2Proof.Machine

open Reg

def stBAD_SWAP : Nat := 0x40

/-! ## Channel registers (R442) -/

/-- A field of a channel. -/
def chan (f : Fld) (n : Nat) : Fld := { f with off := f.off + 64 * n }

/-- A 64-bit address of a channel from its two registers. -/
def State.chanAddr (s : State) (lo hi : Fld) (n : Nat) : Nat := s.fld (chan lo n) + s.fld (chan hi n) * 2 ^ 32
def State.setChanAddr (s : State) (lo hi : Fld) (n a : Nat) : State := (s.setFld (chan lo n) a).setFld (chan hi n) (a / 2 ^ 32)

def State.dmaSrc (s : State) (n : Nat) : Nat := s.chanAddr DMA_CH_SRC_LO_ADDR_L DMA_CH_SRC_HI_ADDR_H n
def State.dmaDst (s : State) (n : Nat) : Nat := s.chanAddr DMA_CH_DST_LO_ADDR_L DMA_CH_DST_HI_ADDR_H n
def State.dmaCount (s : State) (n : Nat) : Nat := s.fld (chan DMA_CH_COUNT_BYTES n)

/-- SRC, DST and COUNT put in place. -/
def State.setTransfer (s : State) (n src dst count : Nat) : State :=
  ((s.setChanAddr DMA_CH_SRC_LO_ADDR_L DMA_CH_SRC_HI_ADDR_H n src).setChanAddr DMA_CH_DST_LO_ADDR_L DMA_CH_DST_HI_ADDR_H n dst).setFld
    (chan DMA_CH_COUNT_BYTES n) count

/-- MODE, whose value 3 acts as 0: 0 RING, 1 DIRECT, 2 SHADOW. -/
def State.dmaMode (s : State) (n : Nat) : Nat :=
  let m := s.fld (chan DMA_CH_CTL_MODE n)
  if m = 3 then 0 else m

def State.dmaBusy (s : State) (n : Nat) : Bool := s.flag (chan DMA_CH_STAT_BUSY n)
def State.dmaPaused (s : State) (n : Nat) : Bool := s.flag (chan DMA_CH_STAT_PAUSED n)

/-- The unit of a SWAP (R432). -/
def swapUnit (swap : Nat) : Nat := [1, 2, 4, 8, 4, 8, 1, 1].getD swap 1

/-- One unit reordered. -/
def swapOne (swap : Nat) (b : List Byte) : List Byte :=
  if swap = 1 ∨ swap = 2 ∨ swap = 3 then b.reverse
  else if swap = 4 then b.drop 2 ++ b.take 2
  else if swap = 5 then b.drop 4 ++ b.take 4
  else b

/-- A run of bytes reordered (R432). -/
def swapBytes (swap : Nat) (b : List Byte) : List Byte :=
  let u := swapUnit swap
  (List.range (b.length / u)).flatMap (fun i => swapOne swap (sliceOf (i * u) u b))

/-- SRC, DST and COUNT are multiples of the unit. -/
def swapFits (swap src dst count : Nat) : Bool :=
  let u := swapUnit swap
  src % u == 0 && dst % u == 0 && count % u == 0

def State.dmaRun (s : State) (n : Nat) : Option DmaRun := Table.find s.host.dma n
def State.setDmaRun (s : State) (n : Nat) (r : DmaRun) : State :=
  { s with host := { s.host with dma := Table.put s.host.dma n r } }.setFlag (chan DMA_CH_STAT_BUSY n) true
def State.dropDmaRun (s : State) (n : Nat) : State :=
  { s with host := { s.host with dma := Table.drop s.host.dma n } }.setFlag (chan DMA_CH_STAT_BUSY n) false

/-- The transfer that CTL describes. -/
def State.dmaOfCtl (s : State) (n : Nat) : DmaRun :=
  { swap := s.fld (chan DMA_CH_CTL_SWAP n), srcHost := s.flag (chan DMA_CH_CTL_SRC_HOST n), dstHost := s.flag (chan DMA_CH_CTL_DST_HOST n)
    fn := s.fld (chan DMA_CH_CTL_FN n), prio := s.fld (chan DMA_CH_CTL_PRIO n), owner := none, skipped := 0, lost := false }

/-! ## The end of a transfer (R429, R430, R432, R434) -/

/-- DONE, and the PF's interrupt where IRQ_EN asks for it. -/
def State.dmaDone (s : State) (n : Nat) : State :=
  let s := s.setFlag (chan DMA_CH_STAT_DONE n) true
  if s.flag (chan DMA_CH_CTL_IRQ_EN n) && s.hostPosts then s.interrupt 0 (s.fld (chan DMA_CH_CTL_VECTOR n)) else s

/-- A transfer ends in error: a cause for a channel started by GO, a status for a COPY. -/
def State.dmaFail (s : State) (n cause status : Nat) : State :=
  match s.dmaRun n with
  | none => s
  | some r =>
    let s := s.dropDmaRun n
    let s := if cause = 3 then s.errAdd DMA_ERR_CNT_HOST_ERROR 1 else s
    match r.owner with
    | some o =>
      match s.takenOf o with
      | some x => s.finish x status 0 []
      | none => s
    | none => ((s.setFlag (chan DMA_CH_STAT_ERR n) true).setFld (chan DMA_CH_STAT_CAUSE n) cause).dmaDone n

/-- Start the transfer that SRC, DST, COUNT and CTL describe: COUNT 0 ends it at once, and so does a SWAP that does not fit. -/
def State.dmaStart (s : State) (n : Nat) : State :=
  let s := s.setDmaRun n (s.dmaOfCtl n)
  if s.dmaCount n = 0 then (s.dropDmaRun n).dmaDone n
  else if !swapFits (s.fld (chan DMA_CH_CTL_SWAP n)) (s.dmaSrc n) (s.dmaDst n) (s.dmaCount n) then s.dmaFail n 1 0
  else s

/-- The shadow set becomes the working set in one step (R430). -/
def State.loadShadow (s : State) (n : Nat) : State :=
  let src := s.chanAddr DMA_CH_SH_SRC_LO_ADDR_L DMA_CH_SH_SRC_HI_ADDR_H n
  let dst := s.chanAddr DMA_CH_SH_DST_LO_ADDR_L DMA_CH_SH_DST_HI_ADDR_H n
  let flags := s.reg (DMA_CH_SH_FLAGS + 64 * n)
  let s := s.setTransfer n src dst (s.fld (chan DMA_CH_SH_COUNT_BYTES n))
  let ctl := DMA_CH_CTL + 64 * n
  let s := s.setReg ctl (putBits (s.reg ctl) 16 11 (natAt flags 16 11))
  s.setFlag (chan DMA_CH_SH_FLAGS_VALID n) false

/-- The shadow set is armed. -/
def State.shadowValid (s : State) (n : Nat) : Bool := s.dmaMode n == 2 && s.flag (chan DMA_CH_SH_FLAGS_VALID n)

/-- A write of GO (R429, R430); loader-only state accepts no DMA work (R617). -/
def State.dmaGo (s : State) (n : Nat) : State :=
  if s.dmaBusy n then s.errAdd DMA_ERR_CNT_GO_IGNORED 1
  else if s.dmaMode n = 0 ∨ s.loaderOnly then s
  else
    let s := if s.dmaCount n = 0 && s.shadowValid n then s.loadShadow n else s
    s.dmaStart n

/-- GO. -/
def execGo (w : Writer) (n : BitVec 6) (s : State) : Res :=
  .next (if s.mayWrite w && s.polderOn polPH then s.dmaGo n.toNat else s)

/-- VALID is set; the shadow set cannot change until it is loaded (R430). -/
def execValid (w : Writer) (n : BitVec 6) (s : State) : Res :=
  .next (if s.mayWrite w && s.polderOn polPH then s.setFlag (chan DMA_CH_SH_FLAGS_VALID n.toNat) true else s)

/-- PAUSE stops new reads; what was read is written, so PAUSED is set at a burst boundary (R431). -/
def State.dmaPause (s : State) (n : Nat) : State :=
  (s.setFlag (chan DMA_CH_CTL_PAUSE n) true).setFlag (chan DMA_CH_STAT_PAUSED n) true

/-- PAUSE is cleared: the transfer goes on from its registers, unless the link was reset meanwhile (R431, R440). -/
def State.dmaResume (s : State) (n : Nat) : State :=
  let s := (s.setFlag (chan DMA_CH_CTL_PAUSE n) false).setFlag (chan DMA_CH_STAT_PAUSED n) false
  match s.dmaRun n with
  | some r =>
    if r.lost && (r.srcHost || r.dstHost) then s.dmaFail n 3 stHOST_ERROR
    else if !swapFits r.swap (s.dmaSrc n) (s.dmaDst n) (s.dmaCount n) then s.dmaFail n 1 stBAD_SWAP
    else s.setDmaRun n { r with lost := false }
  | none => s

/-- PAUSE. -/
def execPause (w : Writer) (n : BitVec 6) (s : State) : Res :=
  .next (if s.mayWrite w && s.polderOn polPH then s.dmaPause n.toNat else s)
/-- PAUSE_CLEAR. -/
def execPauseClear (w : Writer) (n : BitVec 6) (s : State) : Res :=
  .next (if s.mayWrite w && s.polderOn polPH && s.flag (chan DMA_CH_CTL_PAUSE n.toNat) then s.dmaResume n.toNat else s)

/-! ## COPY (R433) -/

/-- A host access from a ring of OWNER_PRIV U, or through a function that is not enabled. -/
def State.copyBad (s : State) (x : Taken) : Bool :=
  let b := x.fieldAt 0x24 1
  let host := b / 8 % 4 != 0
  host && ((s.ring x.cls x.ring).ownerPriv == privU || !s.functionExists (x.fieldAt 0x25 1 % 64))

/-- COPY starts on the RING channel it was given. -/
def execCopy (c : CoreId) (t : Ticket) (s : State) : Res :=
  .next (match s.running c t 11 0x01 with
    | none => s
    | some x =>
      let n := x.unit
      let b := x.fieldAt 0x24 1
      let len := x.fieldAt 0x20 4
      if !s.engineRuns 11 || s.dmaBusy n then s
      else if s.copyBad x then s.finish x stBAD_BUFFER 0 []
      else if len = 0 then (s.count unitDMA 0 1).finish x stOK 0 []
      else if !swapFits (b % 8) (x.fieldAt 0x10 8) (x.fieldAt 0x18 8) len then s.finish x stBAD_SWAP 0 []
      else
        let s := s.setTransfer n (x.fieldAt 0x10 8) (x.fieldAt 0x18 8) len
        s.setDmaRun n { swap := b % 8, srcHost := b / 8 % 2 == 1, dstHost := b / 16 % 2 == 1, fn := x.fieldAt 0x25 1 % 64
                        prio := x.fieldAt 0x26 1 % 8, owner := some (c.val, t.toNat), skipped := 0, lost := false })

/-! ## Bursts (R428) -/

/-- A channel with bytes to move and no pause. -/
def State.dmaReady (s : State) (n : Nat) : Bool := (s.dmaRun n).isSome && !s.dmaPaused n && s.dmaCount n != 0

/-- Channels in the order they come after the one served last. -/
def State.dmaOrder (s : State) : List Nat := (List.range 64).map (fun k => (s.host.dmaLast + 1 + k) % 64)

/-- AGE. -/
def State.dmaAge (s : State) : Nat := zeroActsAsOne (s.fld DMA_CFG_AGE)

/-- The channel the arbiter serves, and whether its age was the reason. -/
def State.dmaPick (s : State) : Option (Nat × Bool) :=
  let ready := s.dmaOrder.filter s.dmaReady
  let skipped (n : Nat) : Nat := ((s.dmaRun n).map (·.skipped)).getD 0
  let prio (n : Nat) : Nat := ((s.dmaRun n).map (·.prio)).getD 0
  match ready.find? (fun n => decide (s.dmaAge ≤ skipped n)) with
  | some n => some (n, true)
  | none =>
    match ready with
    | [] => none
    | x :: xs => some (xs.foldl (fun best n => if prio best < prio n then n else best) x, false)

/-- The bytes of the next burst: up to 4 KiB, no 4 KiB boundary crossed, and toward the host no more than Max Payload Size. -/
def State.burstSize (s : State) (n : Nat) (r : DmaRun) : Nat :=
  let m := min (s.dmaCount n) (min (4096 - s.dmaSrc n % 4096) (4096 - s.dmaDst n % 4096))
  if r.dstHost then min m s.host.maxPayload else m

/-- One burst of a channel. -/
def State.dmaMove (s : State) (n : Nat) (r : DmaRun) (fails : Bool) : State :=
  let src := s.dmaSrc n
  let dst := s.dmaDst n
  let k := s.burstSize n r
  let device (a : Nat) : Nat := a % 2 ^ 48
  if (r.srcHost || r.dstHost) && (fails || !s.linkUp) then s.dmaFail n 3 stHOST_ERROR
  else if (!r.srcHost && s.regionAt (device src) k != .dram) || (!r.dstHost && s.regionAt (device dst) k != .dram) then
    s.dmaFail n 2 stBAD_BUFFER
  else
    let bs := swapBytes r.swap (if r.srcHost then s.hostBytes src k else s.dramBytes (device src) k)
    let s := if r.srcHost then s else s.engineAccess 11 false (device src) k
    let s := if r.dstHost then s.hostWrite dst bs else s.engineWrite 11 (device dst) bs
    let s := s.setTransfer n ((src + k) % 2 ^ 64) ((dst + k) % 2 ^ 64) (s.dmaCount n - k)
    s.count unitDMA 2 k

/-- DMA_BURST: the arbiter serves one burst; `fails` says that its host access met a completion error. -/
def execDmaBurst (fails : Bool) (s : State) : Res :=
  .next (if !s.engineRuns 11 then s
    else match s.dmaPick with
      | none => s
      | some (n, aged) =>
        match s.dmaRun n with
        | none => s
        | some r =>
          let others := (List.range 64).filter (fun k => k != n && s.dmaReady k)
          let s := others.foldl (fun (s : State) k => match s.dmaRun k with
            | some q => s.setDmaRun k { q with skipped := q.skipped + 1 }
            | none => s) s
          let s := { s.setDmaRun n { r with skipped := 0 } with host.dmaLast := n }
          let s := s.count unitDMA 3 aged.toNat
          s.dmaMove n r fails)

/-- DMA_TRANSFER_DONE: the last byte is written. A COPY completes; a channel sets DONE and loads an armed shadow set. -/
def execDmaTransferDone (n : BitVec 6) (s : State) : Res :=
  let n := n.toNat
  .next (match s.dmaRun n with
    | none => s
    | some r =>
      if !s.engineRuns 11 || s.dmaPaused n || s.dmaCount n != 0 then s
      else match r.owner with
        | some o =>
          let s := s.dropDmaRun n
          match s.takenOf o with
          | some x => (s.count unitDMA 0 1).finish x stOK 0 [(x.fieldAt 0x18 8, if r.dstHost then 0 else x.fieldAt 0x20 4)]
          | none => s
        | none =>
          let s := (s.dropDmaRun n).count unitDMA 1 1
          if s.shadowValid n then (s.dmaDone n).loadShadow n |>.dmaStart n else s.dmaDone n)

/-- Entry to the safe state stops the channels: DIRECT and SHADOW ones with ERR and CAUSE 4 (R440). -/
def State.dmaAbort (s : State) : State :=
  (s.host.dma.map (·.1)).foldl (fun (s : State) n => match s.dmaRun n with
    | some r => if r.owner.isSome then s.dropDmaRun n else s.dmaFail n 4 stABORTED
    | none => s) s

/-! ## PERST_N (R408, R440) -/

/-- Transfers that name the host end with HOST_ERROR; a paused channel keeps its registers and fails when it is resumed. -/
def State.dmaLinkLost (s : State) : State :=
  (s.host.dma.map (·.1)).foldl (fun (s : State) n => match s.dmaRun n with
    | some r =>
      if !(r.srcHost || r.dstHost) then s
      else if s.dmaPaused n then s.setDmaRun n { r with lost := true }
      else s.dmaFail n 3 stHOST_ERROR
    | none => s) s

/-- The host side is reset: link, functions, controllers, command rings (R408). -/
def State.hostReset (s : State) : State :=
  let s := s.dmaLinkLost
  let s := s.host.deliveries.foldl (fun (s : State) d =>
    if d.grant.isSome then (s.errAdd DMA_ERR_CNT_HOST_ERROR 1).endHostDelivery d stHOST_ERROR 1 else s) s
  let s := (s.host.controllers.map (·.fn)).foldl (fun (s : State) f => s.dropController f) s
  let s := s.host.cmdRings.foldl (fun (s : State) e => s.freeQueue e.2.qcn) s
  let ofRing (g : CaskGrant) : Bool := match g.ref with
    | .ring _ _ => true
    | .manager _ => false
  let grants := (s.host.grants.map (fun e => (e.1, e.2.filter (fun g => !ofRing g)))).filter (fun e => !e.2.isEmpty)
  let s := { s with host := { s.host with cmdRings := [], grants := grants, vfs := 0 } }
  s.setReg HST_LINK 0

/-- PERST: PERST_N is asserted. -/
def execPerst (s : State) : Res := .next (if s.polderOn polPH then s.hostReset else s)

end Sys2Proof.Machine
end

