-- ==== Sys2Proof/Machine/Pools.lean ====
section
/-!
DEFINITION. The buffer pools (R435 to R439).
-/

namespace Sys2Proof.Machine

open Reg

def stTOO_BIG : Nat := 0x40
def stBAD_ADDR : Nat := 0x41
def stPOOL_BROKEN : Nat := 0x42
def stNOT_ALLOCATED : Nat := 0x43
def stBAD_COUNT : Nat := 0x44

/-! ## Pools (R435, R443) -/

/-- A field of a pool. -/
def pool (f : Fld) (n : Nat) : Fld := { f with off := f.off + 16 * n }

def poolBuffer (n : Nat) : Nat := 256 * 4 ^ n
def poolAlign (n : Nat) : Nat := min 65536 (poolBuffer n)

def State.poolBase (s : State) (n : Nat) : Nat :=
  s.fld (pool BPM_POOL_BASE_LO_BASE_L n) * 256 + s.fld (pool BPM_POOL_BASE_HI_BASE_H n) * 2 ^ 32
def State.poolCount (s : State) (n : Nat) : Nat := s.fld (pool BPM_POOL_CFG_COUNT n)
def State.poolOn (s : State) (n : Nat) : Bool := s.flag (pool BPM_POOL_CFG_EN n)
def State.poolBroken (s : State) (n : Nat) : Bool := s.flag (pool BPM_POOL_CFG_BROKEN n)
def State.poolFree (s : State) (n : Nat) : Nat := s.fld (pool BPM_POOL_FREE_FREE n)
def State.poolHead (s : State) (n : Nat) : Nat := Table.at 0 s.host.poolHeads n

/-- The free list's head and the count of free buffers. -/
def State.setPoolFree (s : State) (n head free : Nat) : State :=
  { s with host := { s.host with poolHeads := Table.write 0 s.host.poolHeads n head } }.setFld (pool BPM_POOL_FREE_FREE n) free

def State.bitmapBase (s : State) : Nat := s.fld BPM_BITMAP_LO_ADDR_L * 64 + s.fld BPM_BITMAP_HI_ADDR_H * 2 ^ 32

/-- The first bit of a pool in the bitmap: the pools that are enabled stand in order (R436). -/
def State.poolBit (s : State) (n : Nat) : Nat :=
  ((List.range n).filter s.poolOn).foldl (fun m k => m + s.poolCount k) 0

/-- The allocation bit of a buffer. -/
def State.allocated (s : State) (n i : Nat) : Bool :=
  let b := s.poolBit n + i
  bitAt (Mem.get s.dram (s.bitmapBase + b / 8)) (b % 8)

def State.setAllocated (s : State) (n i : Nat) (v : Bool) : State :=
  let b := s.poolBit n + i
  let a := s.bitmapBase + b / 8
  s.writeDram a [putBit (Mem.get s.dram a) (b % 8) v]

/-- The bits of every enabled pool, by pool. -/
def State.allBits (s : State) : List (Nat × List Bool) :=
  ((List.range 8).filter s.poolOn).map (fun n => (n, (List.range (s.poolCount n)).map (s.allocated n)))

/-- The bits of the pools that are enabled now, each as it stood, clear for a pool that was not. -/
def State.layBits (s : State) (old : List (Nat × List Bool)) : State :=
  ((List.range 8).filter s.poolOn).foldl (fun (s : State) n =>
    let bits := ((old.find? (fun e => e.1 == n)).map (·.2)).getD []
    (List.range (s.poolCount n)).foldl (fun (s : State) i => s.setAllocated n i (bits.getD i false)) s) s

/-- An address is the start of a buffer of the pool. -/
def State.bufferOf (s : State) (n a : Nat) : Option Nat :=
  let base := s.poolBase n
  let off := a - base
  if s.poolOn n && decide (base ≤ a) && off % poolBuffer n == 0 && decide (off / poolBuffer n < s.poolCount n) then
    some (off / poolBuffer n)
  else none

/-! ## Enabling and disabling (R436) -/

/-- EN = 1 is refused. -/
def State.poolRefused (s : State) (n count : Nat) : Bool :=
  let base := s.poolBase n
  let size := count * poolBuffer n
  base % poolAlign n != 0 || count == 0 || decide (2 ^ 48 < base + size) || s.bitmapBase == 0
    || (List.range 8).any (fun k => k != n && s.poolOn k && !apart base size (s.poolBase k) (s.poolCount k * poolBuffer k))

/-- A write of `BPM_POOLn_CFG`. -/
def State.writePoolCfg (s : State) (n : Nat) (value : Word32) : State :=
  let en := bitAt value 31
  if s.poolOn n then
    if en || (s.poolFree n != s.poolCount n && !s.flag (pool BPM_POOL_CFG_BUILDING n)) then s
    else
      let old := s.allBits
      let s := (s.setFlag (pool BPM_POOL_CFG_EN n) false).setFlag (pool BPM_POOL_CFG_BUILDING n) false
      ((s.setFlag (pool BPM_POOL_CFG_BROKEN n) false).setPoolFree n 0 0).layBits old
  else
    let s := s.setFld (pool BPM_POOL_CFG_COUNT n) (natAt value 0 24)
    if !en then s
    else if s.poolRefused n (natAt value 0 24) then s.errAdd BPM_ERR_CNT_CFG_IGNORED 1
    else
      let old := s.allBits
      let s := (s.setFlag (pool BPM_POOL_CFG_EN n) true).setFlag (pool BPM_POOL_CFG_BUILDING n) true
      ((s.setFlag (pool BPM_POOL_CFG_BROKEN n) false).setPoolFree n 0 0).layBits old

/-- POOL_ENABLE: a write with EN = 1. -/
def execPoolEnable (w : Writer) (n : BitVec 3) (value : Word32) (s : State) : Res :=
  .next (if s.mayWrite w && s.polderOn polPH then s.writePoolCfg n.toNat (value ||| 0x80000000) else s)

/-- POOL_DISABLE: a write with EN = 0. -/
def execPoolDisable (w : Writer) (n : BitVec 3) (value : Word32) (s : State) : Res :=
  .next (if s.mayWrite w && s.polderOn polPH then s.writePoolCfg n.toNat (value &&& 0x7FFFFFFF) else s)

/-- FREE_LIST_BUILT: the first 8 bytes of each buffer hold the address of the next, 0 in the last. -/
def execFreeListBuilt (n : BitVec 3) (s : State) : Res :=
  let n := n.toNat
  .next (if !s.polderOn polPH || !s.flag (pool BPM_POOL_CFG_BUILDING n) then s
    else
      let base := s.poolBase n
      let count := s.poolCount n
      let addr (i : Nat) : Nat := base + i * poolBuffer n
      let s := (List.range count).foldl (fun (s : State) i =>
        s.writeDram (addr i) (leBytes 8 (if i + 1 < count then addr (i + 1) else 0))) s
      (s.setFlag (pool BPM_POOL_CFG_BUILDING n) false).setPoolFree n base count)

/-! ## ALLOC and FREE (R437 to R439) -/

/-- The smallest pool whose buffer holds SIZE. -/
def poolFor (size : Nat) : Option Nat :=
  if size = 0 then none else (List.range 8).find? (fun n => decide (size ≤ poolBuffer n))

/-- Take `k` buffers off the head of the list: their addresses and the head that is left; `none` where a next pointer is neither 0
nor a buffer of the pool. -/
def State.walkFree (s : State) (n head : Nat) : Nat → Option (List Nat × Nat)
  | 0 => some ([], head)
  | k + 1 =>
    match s.bufferOf n head with
    | none => none
    | some _ =>
      let next := s.dramLe head 8
      if next != 0 && (s.bufferOf n next).isNone then none
      else (s.walkFree n next k).map (fun r => (head :: r.1, r.2))

/-- ALLOC. -/
def State.allocRun (s : State) (x : Taken) : State :=
  let size := x.fieldAt 0x10 4
  let count := x.fieldAt 0x14 1
  match poolFor size with
  | none => s.finish x (if count = 0 ∨ 16 < count then stBAD_COUNT else stTOO_BIG) 0 []
  | some n =>
    if count = 0 ∨ 16 < count then s.finish x stBAD_COUNT n []
    else if s.poolBroken n then s.finish x stPOOL_BROKEN n []
    else if !s.poolOn n || decide (s.poolFree n < count) then (s.count unitBPM 2 1).finish x stEMPTY n []
    else match s.walkFree n (s.poolHead n) count with
      | none => (s.setFlag (pool BPM_POOL_CFG_BROKEN n) true).finish x stPOOL_BROKEN n []
      | some (as, head) =>
        let s := as.foldl (fun (s : State) a => match s.bufferOf n a with
          | some i => s.setAllocated n i true
          | none => s) s
        let s := s.setPoolFree n head (s.poolFree n - count)
        let out := x.fieldAt 0x18 8
        let s := s.engineWrite 12 out (as.flatMap (leBytes 8))
        (s.count unitBPM 0 count).finish x stOK n [(out, 8 * count)]

/-- ALLOC. -/
def execAlloc (c : CoreId) (t : Ticket) (s : State) : Res :=
  .next (match s.running c t 12 0x01 with
    | some x => if s.engineRuns 12 then s.allocRun x else s
    | none => s)

/-- The pool and buffer of an address. -/
def State.poolOfAddr (s : State) (a : Nat) : Option (Nat × Nat) :=
  (List.range 8).findSome? (fun n => (s.bufferOf n a).map (fun i => (n, i)))

/-- FREE: every address is checked before anything changes. -/
def State.freeRun (s : State) (x : Taken) : State :=
  let count := x.fieldAt 0x14 1
  let list := x.fieldAt 0x18 8
  if count = 0 ∨ 16 < count then s.finish x stBAD_COUNT 0 []
  else
    let s := s.engineAccess 12 false list (8 * count)
    let addrs := (List.range count).map (fun i => s.dramLe (list + 8 * i) 8)
    let found := addrs.map s.poolOfAddr
    let n := ((found.headD none).map (·.1)).getD 0
    if found.any (fun f => f.isNone) then (s.errAdd BPM_ERR_CNT_BAD_FREE 1).finish x stBAD_ADDR n []
    else
      let bs := found.filterMap id
      if bs.any (fun b => s.poolBroken b.1) then s.finish x stPOOL_BROKEN n []
      else if bs.any (fun b => !s.allocated b.1 b.2) then (s.errAdd BPM_ERR_CNT_BAD_FREE 1).finish x stNOT_ALLOCATED n []
      else
        let s := (addrs.zip bs).foldl (fun (s : State) e =>
          let s := s.writeDram e.1 (leBytes 8 (s.poolHead e.2.1))
          (s.setAllocated e.2.1 e.2.2 false).setPoolFree e.2.1 e.1 (s.poolFree e.2.1 + 1)) s
        (s.count unitBPM 1 count).finish x stOK n []

/-- FREE. -/
def execFree (c : CoreId) (t : Ticket) (s : State) : Res :=
  .next (match s.running c t 12 0x02 with
    | some x => if s.engineRuns 12 then s.freeRun x else s
    | none => s)

/-- GENERATION_HOLD_END: a REGISTER that waited for its generation proceeds (R373). -/
def execGenerationHoldEnd (c : CoreId) (t : Ticket) (s : State) : Res :=
  .next (match s.running c t 10 0x03 with
    | some x =>
      let e := s.regionEntry (x.fieldAt 0x10 4 % 2 ^ 20)
      if s.engineRuns 10 && !e.registered && e.revoking.isNone && !s.registerBad x then s.registerNow x 0 else s
    | none => s)

end Sys2Proof.Machine
end

