-- ==== Sys2Proof/Machine/System.lean ====
section
/-!
DEFINITION. A module in a system (R445 to R479): leases and fencing, the manager's duties, time alignment. A row of the manager
acts on the module that receives it: the sender says with it that this module holds the office (log entry).
-/

namespace Sys2Proof.Machine

open Reg

/-- A module replaces its system state. -/
def State.setSystem (s : State) (y : System) : State := { s with system := y }

/-- A message to the other modules. -/
def State.tell (s : State) (m : SystemMsg) : State := s.setSystem { s.system with out := s.system.out ++ [m] }

/-- The module takes part in a system: Ethernet and no safe state (R445, R475, R479). -/
def State.inSystem (s : State) : Bool := s.part.variant != .lean && s.netRuns

/-- LEASE_EN is set, which an IA-SN1L never has (R479). -/
def State.leased (s : State) : Bool := s.part.variant != .lean && s.flag GTC_FENCE_LEASE_EN

/-! ## Leases and fencing (R452, R453, R475 to R478) -/

/-- FENCED is set: deliveries stop as R384 and R426 state. -/
def State.setFenced (s : State) : State :=
  if s.flag GTC_FENCE_FENCED then s
  else ((s.setFlag GTC_FENCE_FENCED true).errAdd GTC_ERR_CNT_FENCES 1).fenceDeliveries.fenceHostDeliveries

/-- FENCED clears only while the expiry is above the GTC. -/
def State.unfence (s : State) : State := if s.gtc < s.system.expiry then s.setFlag GTC_FENCE_FENCED false else s

/-- The expiry takes effect with the write of `GTC_LEASE_HI`; one that is not above the GTC fences the module at once. -/
def State.writeLeaseHi (s : State) (value : Word32) : State :=
  let s := s.setReg GTC_LEASE_HI value
  let e : Word64 := value ++ s.reg GTC_LEASE_LO
  let s := (s.setSystem { s.system with expiry := e }).count unitGTC 2 1
  if s.leased && decide (e < s.gtc) then s.setFenced else s

/-- Both words of `GTC_LEASE` written. -/
def State.writeLease (s : State) (e : Word64) : State := (s.setReg GTC_LEASE_LO (e.setWidth 32)).writeLeaseHi (bitsAt e 32 32)

/-- LEASE_RENEWAL: a request every LEASE ÷ 4; a fenced module asks on. -/
def execLeaseRenewal (s : State) : Res :=
  .next (
    let due := match s.system.lastAsk with
      | none => true
      | some t => decide (s.system.lease ≤ 4 * (s.gtc - t).toNat)
    if s.inSystem && s.leased && due then
      (s.setSystem { s.system with lastAsk := some s.gtc, asked := true }).tell (.renewal s.gtc)
    else s)

/-- LEASE_GRANT: the expiry counts from the request; a grant made later than LEASE after its request changes nothing. A grant
whose expiry is above the GTC unfences the module. -/
def execLeaseGrant (requested granted : Word64) (lease : Nat) (term : Word32) (s : State) : Res :=
  .next (
    if s.inSystem && s.leased && s.system.asked then
      let n := clampTo 500000000 30000000000 lease
      let s := s.setSystem { s.system with asked := false, lease := n }
      if decide (granted < requested) || decide (n < (granted - requested).toNat) then s
      else ((s.setReg GTC_TERM term).writeLease (requested + BitVec.ofNat 64 n)).unfence
    else s)

/-- FENCE: the GTC has reached the lease expiry. -/
def execFence (s : State) : Res := .next (if s.leased && decide (s.system.expiry ≤ s.gtc) then s.setFenced else s)

/-- UNFENCE: a write of 1 to UNFENCE. -/
def execUnfence (w : Writer) (s : State) : Res := .next (if s.mayWrite w then s.unfence else s)

/-- LEASE_EXPIRY_WRITE: a write of `GTC_LEASE_HI`. -/
def execLeaseExpiryWrite (w : Writer) (value : Word32) (s : State) : Res :=
  .next (if s.mayWrite w then s.writeLeaseHi value else s)

/-- A write of `GTC_FENCE`: LEASE_EN stays where FENCED is 1 and the write clears it, and on an IA-SN1L; UNFENCE acts. -/
def State.writeFence (s : State) (value : Word32) : State :=
  let en := bitAt value 30
  let s := if s.part.variant = .lean ∨ (!en ∧ s.flag GTC_FENCE_FENCED) then s else s.setFlag GTC_FENCE_LEASE_EN en
  if bitAt value 0 then s.unfence else s

/-! ## The manager (R451, R454 to R456, R462, R466 to R469) -/

/-- WORKER_DEAD: LEASE + 1 s after its last grant the worker is dead, and the spare serves its place. -/
def execWorkerDead (worker spare : BitVec 14) (group : BitVec 12) (place : BitVec 6) (lastGrant : Word64) (s : State) : Res :=
  .next (
    let y := s.system
    if s.inSystem && decide (lastGrant ≤ s.gtc) && decide (y.lease + 1000000000 ≤ (s.gtc - lastGrant).toNat)
      && !y.dead.any (fun d => d.1 == worker.toNat) then
      let key := group.toNat * 256 + place.toNat
      (s.setSystem { y with servers := Table.put y.servers key spare.toNat, dead := y.dead ++ [(worker.toNat, key)] }).tell
        (.newServer place.toNat spare.toNat)
    else s)

/-- MANAGER_TAKEOVER: the standby asks under the next term; `grants` are the last grants to the old manager of the voters that
answer, its own first. It takes office with 3 votes of voters whose grants have lapsed. -/
def execManagerTakeover (grants : List Word64) (s : State) : Res :=
  .next (
    let lapsed (g : Word64) : Bool := decide (g ≤ s.gtc) && decide (s.system.lease ≤ (s.gtc - g).toNat)
    if s.inSystem && !s.system.office && (grants.head?.any lapsed) then
      let term := s.reg GTC_TERM + 1
      let s := s.tell (.askVotes term.toNat)
      if decide (3 ≤ (grants.filter lapsed).length) && decide (grants.length ≤ 5) then
        (s.setReg GTC_TERM term).setSystem { s.system with office := true }
      else s
    else s)

/-- DROP_MAP: the bitmaps of every server on a block are ORed into its drop map, which goes out with the survivor count of every
earlier block; `positions` is the size of the block. -/
def execDropMap (epoch block : BitVec 32) (positions : Nat) (maps : List (List Nat)) (s : State) : Res :=
  .next (
    let y := s.system
    let key (b : Nat) : Nat := epoch.toNat * 2 ^ 32 + b
    let earlier := (List.range block.toNat).filterMap (fun b => (Table.find y.drops (key b)).map (fun d => (b, d.2)))
    if s.inSystem && decide (positions ≤ 65536) && earlier.length == block.toNat && (Table.find y.drops (key block.toNat)).isNone then
      let drops := (List.range positions).filter (fun p => maps.any (fun m => m.contains p))
      (s.setSystem { y with drops := Table.put y.drops (key block.toNat) (drops, positions - drops.length) }).tell
        (.dropMap block.toNat drops earlier)
    else s)

/-- BACKUP_DELAY in ns: 30 ms by default, 1 ms to 1 s (R460). -/
def backupDelay (delay : Nat) : Nat := if delay = 0 then 30000000 else clampTo 1000000 1000000000 delay

/-- BACKUP_START: BACKUP_DELAY after the first offer of the cask, part `place` is prepared by `node` too, and so is every later
part of that place. `recovered` names the places whose original server has offered first for 8 casks in a row: their cover
ends. -/
def execBackupStart (group : BitVec 12) (seq : Word64) (place : BitVec 6) (firstOffer : Word64) (delay : Nat) (node : BitVec 14)
    (recovered : List Nat) (s : State) : Res :=
  .next (
    let y := s.system
    let mine (p : Nat) : Bool := recovered.contains p
    let y := { y with covered := y.covered.filter (fun e => !(e.1 == group.toNat && mine e.2))
                      backups := y.backups.filter (fun e => !(e.1 == group.toNat && mine e.2.2)) }
    let running : Nat := (y.backups.filter (fun e => e.1 == group.toNat)).length
    let entry := (group.toNat, seq.toNat, place.toNat)
    if s.inSystem && decide (firstOffer ≤ s.gtc) && decide (backupDelay delay ≤ (s.gtc - firstOffer).toNat) && decide (running < 4)
      && !y.backups.contains entry then
      (s.setSystem { y with backups := y.backups ++ [entry], covered := (group.toNat, place.toNat) :: y.covered.erase (group.toNat, place.toNat) }).tell
        (.backup seq.toNat place.toNat node.toNat)
    else s.setSystem y)

/-- CHECK_PREPARATION: a check never offers: the spare reports the digest of the part it prepared and discards it (R468). -/
def execCheckPreparation (seq : Word64) (part : Byte) (s : State) : Res :=
  .next (match s.store.parts.find? (fun p => p.seq == seq.toNat && !p.out) with
    | some p => if s.inSystem then (s.tell (.digest seq.toNat part.toNat (partDigest p))).dropPart p else s
    | none => s)

/-- The MISMATCH message of R469. -/
def mismatchMsg (seq part digest : Nat) : GrantMsg :=
  { typ := 5, part := part, slot := 0, generation := 0, subscriber := 0, kind := 0, seq := seq, addr := 0, length := 0, rkey := 0
    manAddr := 0, manLen := 0, detail := 0, digest := digest }

/-- DIGEST_MISMATCH: two digests of a part differ. A third preparation starts; once it has its digest, the module in the minority
is asked for a self-test and held, and the consumer learns of a delivered minority part on its CONTROL QP. -/
def execDigestMismatch (seq : Word64) (part : Byte) (first second : BitVec 14 × Word64) (third : Option (BitVec 14 × Word64))
    (delivered : Word64) (qcn : BitVec 16) (s : State) : Res :=
  .next (
    if !s.inSystem || first.2 == second.2 then s
    else
      let y := s.system
      let name := (seq.toNat, part.toNat)
      match third with
      | none =>
        if y.kept.contains name then s
        else (s.setSystem { y with kept := y.kept ++ [name] }).tell (.third seq.toNat part.toNat)
      | some t =>
        if !y.kept.contains name || (t.2 != first.2 && t.2 != second.2) then s
        else
          let loser := if t.2 = first.2 then second else first
          let s := s.setSystem { y with kept := y.kept.erase name, held := loser.1.toNat :: y.held.erase loser.1.toNat }
          let s := s.tell (.selfTest loser.1.toNat)
          match s.qpAt qcn.toNat with
          | some q =>
            if delivered = loser.2 ∧ q.control ∧ q.state = qpRTS then
              s.post qcn.toNat [grantPacket qcn.toNat (s.qpService qcn.toNat q) (mismatchMsg seq.toNat part.toNat t.2.toNat) .other none]
            else s
          | none => s)

/-! ## Time (R27, R457, R458) -/

/-- A value held to a two's complement word, saturating. -/
def saturate32 (v : Int) : Word32 := BitVec.ofInt 32 (max (-(2 ^ 31)) (min (2 ^ 31 - 1) v))

/-- No recipe has a pending launch value (R27). -/
def State.noLaunch (s : State) : Bool := s.recipes.all (fun e => e.2.state != .waiting)

/-- A step that is due is made as soon as no launch is pending. -/
def State.makeStep (s : State) : State :=
  match s.system.stepDue with
  | some d =>
    if s.noLaunch then
      ({ s with gtc := s.gtc + BitVec.ofInt 64 d }.setSystem { s.system with stepDue := none }).setFld GTC_SYNC_STATE 0
    else s
  | none => s

/-- `GTC_SYNC`.STATE leaves LOCKED or HOLDOVER. -/
def State.syncFree (s : State) : State := if s.fld GTC_SYNC_STATE = 1 then s else s.setFld GTC_SYNC_STATE 0

/-- An offset after the joining step: the rate in force, LOST, a forward step, or LOCKED. -/
def State.trackOffset (s : State) (offset rate : Int) : State :=
  let lost := decide (10000 < offset.natAbs)
  let near := decide (offset.natAbs ≤ 250)
  let s := (s.setReg GTC_RATE (BitVec.ofInt 32 (max (-200000) (min 200000 rate)))).count unitGTC 1 1
  let y := s.system
  let y := { y with streak := if near then y.streak + 1 else 0, ahead := y.ahead || decide (1000000 < offset) }
  let s := s.setSystem y
  let s := if lost then
      (if s.flag GTC_SYNC_LOST then s else (s.setFlag GTC_SYNC_LOST true).errAdd GTC_ERR_CNT_SYNC_LOST 1).syncFree
    else if s.fld GTC_SYNC_STATE = 3 then s.setFld GTC_SYNC_STATE 0 else s
  if offset < -1000000 then
    ((s.setSystem { s.system with stepDue := some (-offset) }).setFld GTC_SYNC_STATE 1).makeStep
  else if decide (8 ≤ y.streak) && !y.ahead then s.setFld GTC_SYNC_STATE 2
  else s

/-- PTP_EXCHANGE: `offset` is the module's GTC minus the manager's, `rate` the adjustment in ppb that the network service asks
for. The first 16 of a joining module step the GTC to their mean. -/
def execPtpExchange (offset rate : Int) (s : State) : Res :=
  .next (
    if !s.inSystem then s
    else
      let w := saturate32 offset
      let s := (((s.setReg GTC_OFFSET w).setReg DBG_GTC_OFS w).count unitGTC 0 1)
      let y : System := { s.system with lastPtp := some s.gtc }
      if y.joined < 16 then
        let y : System := { y with joined := y.joined + 1, offsets := y.offsets + offset }
        if y.joined = 16 then
          ((s.setSystem { y with stepDue := some (-(y.offsets / 16)), streak := 0 }).setFld GTC_SYNC_STATE 1).makeStep
        else (s.setSystem y).setFld GTC_SYNC_STATE 1
      else if y.stepDue.isSome then (s.setSystem y).makeStep
      else (s.setSystem y).trackOffset offset rate)

/-- HOLDOVER: no exchange for 2 s; the rate stays as it is. -/
def execHoldover (s : State) : Res :=
  .next (match s.system.lastPtp with
    | some t =>
      if decide (2000000000 ≤ (s.gtc - t).toNat) && s.fld GTC_SYNC_STATE != 3 then
        (s.setSystem { s.system with streak := 0 }).setFld GTC_SYNC_STATE 3
      else s
    | none => s)

/-! ## `GTC_NOW` (R476, R478) -/

/-- A read of `GTC_NOW_LO` latches the high word. -/
def State.readNowLo (s : State) : Word32 × State :=
  (s.gtc.setWidth 32, s.setSystem { s.system with nowHigh := some (bitsAt s.gtc 32 32) })

/-- A read of `GTC_NOW_HI` returns what the read of the low word latched, and the count itself where none did. -/
def State.readNowHi (s : State) : Word32 × State :=
  (s.system.nowHigh.getD (bitsAt s.gtc 32 32), s.setSystem { s.system with nowHigh := none })

/-- GTC_NOW_READ. -/
def execGtcNowRead (high : Bool) (s : State) : Res := .next (answerRead (if high then s.readNowHi else s.readNowLo))

end Sys2Proof.Machine
end

