-- ==== Sys2Proof/Machine/Fault.lean ====
section
/-!
DEFINITION. The fault controller (R551 to R574): doubts and the safe state, watchdogs, counters, self-tests and replay.
-/

namespace Sys2Proof.Machine

open Reg

/-! ## Entry to the safe state (R553, R554, R557) -/

/-- A descriptor that waits in a ring is never taken: its ticket completes with ABORTED, without a status word (R554). -/
def State.abortUntaken (s : State) : State :=
  s.rings.foldl (fun (s : State) e =>
    let r := e.2
    (List.range r.waiting).foldl (fun (s : State) i =>
      let d := s.dramBytes (r.slot (r.head + i)) 64
      let c : CoreId := ⟨r.ownerCore.toNat, r.ownerCore.isLt⟩
      let k := (s.core c).completeTicket (descTicket d) (BitVec.ofNat 8 stABORTED)
      s.setCore c (if descIrq d then k.queueTicket (descTicket d) else k)) s) s

/-- Every taken descriptor that `pick` names completes with ABORTED and writes its status word; what its engine kept for it is
forgotten. -/
def State.abortTaken (s : State) (pick : Taken → Bool) : State :=
  let mine := s.taken.filter pick
  let named (c t : Nat) : Bool := mine.any (fun x => x.core.val == c && x.ticket.toNat == t)
  let s := mine.foldl (fun (s : State) x =>
    match x.result with
    | some r => s.completeTaken x r
    | none => s.endTaken x stABORTED true) s
  { s with
    store := { s.store with waiting := s.store.waiting.filter (fun w => !named w.1 w.2) }
    fetch := { s.fetch with streams := s.fetch.streams.map (fun e =>
      (e.1, if e.2.began.any (fun b => named b.1 b.2) then { e.2 with began := none } else e.2)) } }

/-- The weir is emptied and every sub-port goes down (R403, R553). -/
def State.silencePorts (s : State) : State :=
  let s := s.net.queues.foldl (fun (s : State) e => s.setQueue e.1 { e.2 with packets := [] }) s
  { s with
    net := { s.net with subports := s.net.subports.map (fun (p : SubPort) => { p with up := false, urgent := [] }) }
    power := { s.power with txDisable := true } }

/-- Deliveries end with ABORTED and write their records; their parts stay in the store, and a host delivery's grant gets no
completion (R382, R385, R426). -/
def State.abortDeliveries (s : State) : State :=
  let s := s.net.qps.foldl (fun (s : State) e => s.qpError e.1 stABORTED none stABORTED true) s
  let s := s.net.deliveries.foldl (fun (s : State) d => s.endDelivery d stABORTED) s
  let s := s.host.deliveries.foldl (fun (s : State) d => s.endHostDelivery d stABORTED d.grant.isSome.toNat) s
  (s.taken.filter (fun x => x.result.isNone)).foldl (fun (s : State) x =>
    if x.cls = 10 ∧ descOpcode x.desc = 1 then s.deliverRefuse x stABORTED
    else if x.cls = 11 ∧ descOpcode x.desc = 2 then s.hostDeliverRefuse x stABORTED
    else s) s

/-- The result block of a replay (R571). -/
def State.endReplay (s : State) (outcome temp load : Nat) : State :=
  match s.fault.replay with
  | none => s
  | some r =>
    let bytes := fitBytes 64 (leBytes 1 outcome ++ leBytes 1 r.runs ++ leBytes 2 r.mismatches ++ leBytes 4 r.firstPiece
      ++ leBytes 8 r.digest ++ leBytes 2 temp ++ leBytes 1 load ++ zeros 5 ++ leBytes 8 s.gtc.toNat)
    let s := s.writeDram (s.dramLe (r.block + 8) 8) bytes
    let s := { s with fault := { s.fault with replay := none } }
    (s.setFlag FLT_RPL_REQ_HI_BUSY false).setFlag FLT_RPL_REQ_HI_DONE true

/-- The safe state is entered. -/
def State.enterSafe (s : State) : State :=
  let s := s.setFlag FLT_STATUS_SAFE true
  let s := (s.silencePorts).abortDeliveries
  let s := { s with host := { s.host with controllers := s.host.controllers.map (fun (c : Controller) => { c with cfs := true }) } }
  let s := s.dmaAbort
  let s := (s.abortTaken (fun _ => true)).abortUntaken
  let s := { s with
    ftl := { s.ftl with writers := [], syncs := [], entry := [], waiting := [] }
    mash := { s.mash with models := [] }, sets := [] }
  let s := (List.range 8).foldl (fun (s : State) n => s.showSet n) s.showTiles
  let s := if s.fault.testing.isSome then (s.setFlag FLT_ST_STAT_BUSY false).setFld FLT_ST_STAT_LAST 3 else s
  let s := ({ s with fault := { s.fault with testing := none } }).setTests []
  let (n, s) := s.freshFree
  let s := s.endReplay 7 (n % 2 ^ 16) (n / 2 ^ 16 % 256)
  { s with power := { s.power with writeProtect := true } }

/-- A doubt (R551 to R553): the first enters the safe state; during a flush it is recorded, and one of R26 cuts the flush. -/
def State.doubt (s : State) (code polder detail value : Nat) (cuts : Bool := false) : State :=
  let entry := s.fld FLT_LOG_HEAD_NEXT
  let s := (s.logFault code polder detail value).errAdd FLT_ERR_CNT_DOUBTS 1
  let s := s.setReg FLT_SOURCE (s.reg FLT_SOURCE ||| BitVec.ofNat 32 (2 ^ code))
  match s.power.flush with
  | some f =>
    if f.shed then { s with power := { s.power with flush := some { f with cut := f.cut || cuts } } }
    else if s.flag FLT_STATUS_SAFE then s
    else ((s.setFld FLT_STATUS_FIRST code).setFld FLT_STATUS_FIRST_LOG entry).enterSafe
  | none =>
    if s.flag FLT_STATUS_SAFE then s
    else ((s.setFld FLT_STATUS_FIRST code).setFld FLT_STATUS_FIRST_LOG entry).enterSafe

/-! ## Sources of doubt -/

/-- SRAM_UE; in the journal buffer of PF it cuts a flush (R26). -/
def execSramUe (polder : BitVec 4) (detail : BitVec 20) (address : Word32) (s : State) : Res :=
  .next (s.doubt 1 polder.toNat detail.toNat address.toNat (polder.toNat == polPF))
/-- DRAM_UE. -/
def execDramUe (polder : BitVec 4) (detail : BitVec 20) (address : Word32) (s : State) : Res :=
  .next (s.doubt 2 polder.toNat detail.toNat address.toNat)
/-- CLOCK: a clock monitor trips (R487); the PLL has lost lock. -/
def execClock (polder : BitVec 4) (s : State) : Res :=
  let p := polder.toNat
  .next (if decide (10 < p) then s.doubt 3 p 0 0
    else (((s.setFlag (POL_CLK_LOCK.nth 4 p) false).errAdd POL_ERR_CNT_PLL_UNLOCK 1)).doubt 3 p 0 0)
/-- VOLTAGE: a voltage monitor trips (R487). -/
def execVoltage (polder : BitVec 4) (s : State) : Res := .next (s.doubt 4 polder.toNat 0 0)
/-- NAND_RAIL_TRIP (R509). -/
def execNandRailTrip (s : State) : Res := .next (s.doubt 4 polPA 0 0)

/-- WATCHDOG: an enabled core watchdog was not restarted for PERIOD_MS. -/
def execWatchdog (c : CoreId) (s : State) : Res :=
  let period := zeroActsAsOne (s.fld FLT_WDOG_CFG_PERIOD_MS) * 1000000
  let last := Table.at 0 s.fault.kicks c.val
  .next (if bitAt (s.reg FLT_WDOG_CFG) c.val && decide (period ≤ (s.gtc - last).toNat) then
      ({ s with fault := { s.fault with kicks := Table.write 0 s.fault.kicks c.val s.gtc } }).doubt 5 polPC c.val 0
    else s)

/-- HSM_ABORT: a double flip; the descriptor that the machine ran completes with ABORTED (R558). In a flash sequencer it cuts a
flush (R26). -/
def execHsmAbort (polder : BitVec 4) (machine : BitVec 20) (work : Option (CoreId × Ticket)) (s : State) : Res :=
  let s := s.doubt 6 polder.toNat machine.toNat 0 (polder.toNat == polPF)
  .next (match work with
    | some (c, t) => s.abortTaken (fun x => x.core == c && x.ticket == t && x.result.isNone)
    | none => s)

/-- SELF_CHECK. -/
def execSelfCheck (polder : BitVec 4) (detail : BitVec 20) (s : State) : Res := .next (s.doubt 7 polder.toNat detail.toNat 0)

/-- A write of `FLT_FORCE`: from the host or the sideband, with CONFIRM (R573). -/
def State.writeForce (s : State) (w : Writer) (value : Word32) : State :=
  let admitted := match w with
    | .host => true
    | .sideband => true
    | _ => false
  if admitted && natAt value 16 16 == 0xC35A && bitAt value 0 then s.doubt 8 polPA 0 0 else s

/-- FORCE. -/
def execForce (w : Writer) (value : Word32) (s : State) : Res := .next (s.writeForce w value)

/-- SINGLE_FLIP: corrected in the next cycle and counted (R558). -/
def execSingleFlip (s : State) : Res := .next (s.count unitFLT 0 1)

/-! ## Watchdogs and counters (R560, R561, R573) -/

/-- Restart the watchdogs of the cores named. -/
def State.kick (s : State) (cores : BitVec 16) : State :=
  (List.range 16).foldl (fun (s : State) n =>
    if bitAt cores n then { s with fault := { s.fault with kicks := Table.write 0 s.fault.kicks n s.gtc } } else s) s

/-- KICK. -/
def execKick (w : Writer) (cores : BitVec 16) (s : State) : Res := .next (if s.mayWrite w then s.kick cores else s)

/-- The error-counter registers. -/
def errCounters : List Nat := [
  CAT_ERR_CNT, MIL_ERR_CNT, MIL_ERR_CNT1, KLN_ERR_CNT, KLN_ERR_CNT1, MSH_ERR_CNT, LTR_ERR_CNT, TOK_ERR_CNT, TOK_ERR_CNT1, CSK_ERR_CNT,
  FLS_ERR_CNT, FLS_ERR_CNT1, FLS_ERR_CNT2, FTL_ERR_CNT, FTL_ERR_CNT1, NET_ERR_CNT, RDM_ERR_CNT, RDM_ERR_CNT1, WER_ERR_CNT,
  HST_ERR_CNT, HST_ERR_CNT1, DMA_ERR_CNT, BPM_ERR_CNT, GTC_ERR_CNT, POL_ERR_CNT, MGT_ERR_CNT, FLT_ERR_CNT, DBG_ERR_CNT, 0x04C00040]

/-- The error-counter registers of a unit. -/
def errCountersOf (u : Nat) : List Nat := errCounters.filter (fun o => unitAt o == some u)

/-- A unit's counters return to 0 with OVF clear. -/
def State.clearCounters (s : State) (u : Nat) : State :=
  let s := (errCountersOf u).foldl (fun (s : State) o => s.setReg o 0) s
  { s with events := s.events.filter (fun e => e.1 / 16 != u) }

/-- A write of `FLT_CNT_CLR`. -/
def State.clearUnits (s : State) (units : BitVec 24) : State :=
  (List.range 24).foldl (fun (s : State) u => if bitAt units u then s.clearCounters u else s) s

/-- CLEAR. -/
def execClear (w : Writer) (units : BitVec 24) (s : State) : Res := .next (if s.mayWrite w then s.clearUnits units else s)

/-- Every counter of a unit copied into its snapshot. -/
def State.latch (s : State) (u : Nat) : State :=
  let errs := (errCountersOf u).foldl (fun t o => Table.write 0 t o (s.reg o)) s.errSnap
  let evs := (List.range 16).foldl (fun t k => Table.write Counter.zero t (eventKey u k) (s.counter u k)) s.eventSnap
  { s with errSnap := errs, eventSnap := evs }

/-- LATCH: a unit without counters has no latch (R596). -/
def execLatch (w : Writer) (unit : BitVec 5) (s : State) : Res := .next (if s.mayWrite w then s.latch unit.toNat else s)

/-! ## Self-tests (R563 to R565) -/

/-- The classes with testable units. -/
def testable (cls : Nat) : Bool := [0, 2, 3, 4, 5, 7, 8].contains cls

/-- The rotation bit of a unit: register and bit. -/
def rotationBit (cls unit : Nat) : Option (Nat × Nat) :=
  if cls = 2 then some (KLN_LANES, 16 + unit)
  else if cls = 3 then some (MIL_ROT_IMG, unit)
  else if cls = 4 then some (MIL_ROT_OTH, unit)
  else if cls = 5 then some (MIL_ROT_OTH, 8 + unit)
  else if cls = 8 then some (TOK_LANES, 16 + unit)
  else none

/-- A unit is in rotation. -/
def State.inRotation (s : State) (cls unit : Nat) : Bool :=
  if cls = 0 then s.channelUsable unit
  else if cls = 7 then decide (unit < Config.unitCount s.part.variant 7) && !s.mash.failed.contains unit
  else match rotationBit cls unit with
    | some (r, b) => decide (unit < Config.unitCount s.part.variant cls) && bitAt (s.reg r) b
    | none => false

/-- Units of a class in rotation. -/
def State.rotationCount (s : State) (cls : Nat) : Nat :=
  ((List.range (Config.unitCount s.part.variant cls)).filter (s.inRotation cls)).length

/-- A unit leaves rotation, or comes back. -/
def State.setRotation (s : State) (cls unit : Nat) (on : Bool) : State :=
  if cls = 7 then
    if on then ({ s with mash := { s.mash with failed := s.mash.failed.erase unit } }).showTiles else s.tileDrop unit
  else match rotationBit cls unit with
    | some (r, b) => s.setReg r (putBit (s.reg r) b on)
    | none => s

/-- A request is refused (R565). -/
def State.testRefused (s : State) (cls unit : Nat) : Bool :=
  !testable cls || !s.inRotation cls unit || decide (16 ≤ s.fault.queue.length) || s.flag FLT_STATUS_SAFE
    || decide (s.rotationCount cls ≤ 1)

/-- A write of `FLT_ST_REQ`. -/
def State.requestTest (s : State) (cls unit : Nat) (retire : Bool) : State :=
  if s.testRefused cls unit then s.setFlag FLT_ST_STAT_REFUSED true
  else if retire then
    let s := if cls = 0 then s.failChannel unit else s.setRotation cls unit false
    s.logFault 0x13 (classPolder cls) unit 0
  else s.queueTest cls unit

/-- SELF_TEST_REQUEST. -/
def execSelfTestRequest (w : Writer) (cls : BitVec 4) (unit : BitVec 9) (s : State) : Res :=
  .next (if s.mayWrite w then s.requestTest cls.toNat unit.toNat false else s)
/-- RETIRE. -/
def execRetire (w : Writer) (cls : BitVec 4) (unit : BitVec 9) (s : State) : Res :=
  .next (if s.mayWrite w then s.requestTest cls.toNat unit.toNat true else s)

/-- The unit runs no descriptor, and a channel may be taken out of service (R313, R564). -/
def State.unitIdle (s : State) (cls unit : Nat) : Bool :=
  !s.taken.any (fun x => x.cls == cls && x.unit == unit && x.result.isNone)
    && (cls != 0 || (!s.serviceDeferred && !s.flag FLS_SERVICE_BUSY))

/-- SELF_TEST: the test first in the queue begins once its unit is idle; a test that runs ends, and the unit passes or fails. -/
def execSelfTest (passes : Bool) (s : State) : Res :=
  .next (match s.fault.testing with
    | some (cls, unit) =>
      let s := ({ s with fault := { s.fault with testing := none } }).setFlag FLT_ST_STAT_BUSY false
      let s := if cls = 0 then s.setReg FLS_SERVICE 0 else s
      if passes then ((s.setFld FLT_ST_STAT_LAST 1).setRotation cls unit true).count unitFLT 1 1
      else
        let s := if cls = 0 then s.failChannel unit else s
        ((s.setFld FLT_ST_STAT_LAST 2).errAdd FLT_ERR_CNT_ST_FAIL 1).logFault 0x12 (classPolder cls) unit 0
    | none =>
      match s.fault.queue with
      | [] => s
      | (cls, unit) :: rest =>
        if s.flag FLT_STATUS_SAFE || !s.polderOn (classPolder cls) || !s.unitIdle cls unit then s
        else
          let s := (s.setTests rest).setRotation cls unit false
          let s := { s with fault := { s.fault with testing := some (cls, unit) } }
          let s := if cls = 0 then ((s.setFlag FLS_SERVICE_BUSY true).setFld FLS_SERVICE_KIND 2).setFld FLS_SERVICE_CHANNEL unit
            else s
          ((s.setFlag FLT_ST_STAT_BUSY true).setFld FLT_ST_STAT_CLASS cls).setFld FLT_ST_STAT_UNIT unit)

/-! ## Replay (R569 to R571) -/

/-- A member extension names only units that are present and in rotation; a field of all ones names none. -/
def State.extUnits (s : State) (ext : List Byte) : Bool :=
  let ok (cls v ones : Nat) : Bool := v == ones || s.inRotation cls v
  ok (leAt ext 0x0A 1) (leAt ext 0x0B 1) 0xFF && ok 2 (leAt ext 0x0D 1) 0xFF && ok 8 (leAt ext 0x0E 1) 0xFF
    && ok 7 (leAt ext 0x10 2) 0xFFFF

/-- The check that ends a replay before its first run: NO_RECIPE, DCLASS, VOLUME or UNIT_OUT. -/
def State.replayRefusal (s : State) (block : Nat) : Option Nat :=
  let rec_ := s.dramLe block 8
  let image := s.dramBytes (s.dramLe (block + 0x10) 8) (s.dramLe (block + 0x18) 4)
  let members := s.dramLe (rec_ + 0x10) 4
  let exts := rec_ + 128 + 32 * members + 16 * s.dramLe (rec_ + 0x14) 4
  let dataset := s.dramLe (rec_ + 0x1C) 2
  if sha256 image ≠ s.dramBytes (rec_ + 0x40) 32 ∨ (s.loadRefusal image).isSome then some 2
  else if s.dramLe (rec_ + 0x20) 4 ≠ (s.reg GLB_DCLASS).toNat then some 3
  else if !(s.volumeFor dataset).any (fun v => v.generation == s.dramLe (exts + 6) 2) then some 4
  else if s.dramLe (block + 0x1C) 1 % 2 = 1
      ∧ !(List.range members).all (fun i => s.extUnits (s.dramBytes (exts + 64 + 32 * i) 32)) then some 6
  else none

/-- A write of `FLT_RPL_REQ_HI` submits the request; it is ignored while a replay runs. -/
def State.requestReplay (s : State) (value : Word32) : State :=
  if s.flag FLT_RPL_REQ_HI_BUSY then s
  else
    let s := (s.setFld FLT_RPL_REQ_HI_ADDR_H (natAt value 0 16)).setFlag FLT_RPL_REQ_HI_DONE
      (s.flag FLT_RPL_REQ_HI_DONE && !bitAt value 30)
    let block := (s.reg FLT_RPL_REQ_LO).toNat + natAt value 0 16 * 2 ^ 32
    let s := { s with fault := { s.fault with replay := some ⟨block, 0, 0, 0xFFFFFFFF, 0⟩ } }
    let s := s.setFlag FLT_RPL_REQ_HI_BUSY true
    let (n, s) := s.freshFree
    let out (code : Nat) : State := s.endReplay code (n % 2 ^ 16) (n / 2 ^ 16 % 256)
    if s.flag FLT_STATUS_SAFE then out 7
    else match s.replayRefusal block with
      | some code => out code
      | none => s

/-- REPLAY_REQUEST: the request, the end of a run, or a target temperature not reached. -/
def execReplayRequest (ev : ReplayEvent) (s : State) : Res :=
  .next (match ev, s.fault.replay with
    | .request w value, _ => if s.mayWrite w then s.requestReplay value else s
    | .ran digest piece temp load, some r =>
      let differs := digest.toNat != s.dramLe (s.dramLe r.block 8 + 0x30) 8 || piece.isSome
      let r := { r with
        runs := r.runs + 1, mismatches := r.mismatches + differs.toNat, digest := digest.toNat
        firstPiece := if r.firstPiece = 0xFFFFFFFF then (piece.map (·.toNat)).getD 0xFFFFFFFF else r.firstPiece }
      let s := ({ s with fault := { s.fault with replay := some r } }).count unitFLT 2 1
      let s := if differs then s.count unitFLT 3 1 else s
      if zeroActsAsOne (s.dramLe (r.block + 0x24) 1) ≤ r.runs then
        s.endReplay (if r.mismatches = 0 then 0 else 1) temp.toNat load.toNat
      else s
    | .unreached temp load, some r =>
      if s.dramLe (r.block + 0x20) 2 = 0 then s else s.endReplay 5 temp.toNat load.toNat
    | _, none => s)

end Sys2Proof.Machine
end

