-- ==== Sys2Proof/Machine/Hss.lean ====
section
/-!
DEFINITION. Checking an HSS signature with the parameters of R604 (RFC 8554): L = 2, LMS_SHA256_M32_H20 over LMS_SHA256_M32_H10,
one-time signatures LMOTS_SHA256_N32_W8.
-/

namespace Sys2Proof.Machine

/-- The typecode of LMOTS_SHA256_N32_W8. -/
def otsType : Nat := 4
/-- The typecodes of LMS_SHA256_M32_H20 and LMS_SHA256_M32_H10. -/
def lmsTypeTop : Nat := 8
def lmsTypeBottom : Nat := 6

/-- Hash values in a one-time signature: 32 digits of the digest and 2 of its checksum. -/
def otsChains : Nat := 34

/-- The digits of a digest and its checksum, one byte each. -/
def otsDigits (q : List Byte) : List Byte := q ++ beBytes 2 (q.foldl (fun n b => n + (255 - b.toNat)) 0)

/-- A hash chain goes on from step `j`, `fuel` steps in all. -/
def otsChain (id leaf : List Byte) (i : Nat) : Nat → Nat → List Byte → List Byte
  | 0, _, v => v
  | fuel + 1, j, v => otsChain id leaf i fuel (j + 1) (sha256 (id ++ leaf ++ beBytes 2 i ++ beBytes 1 j ++ v))

/-- The one-time public key that a one-time signature of 1,124 bytes leads to; `none` where its type is another. -/
def otsKey (id : List Byte) (q : Nat) (msg sig : List Byte) : Option (List Byte) :=
  let leaf := beBytes 4 q
  if beAt sig 0 4 = otsType then
    let digits := otsDigits (sha256 (id ++ leaf ++ beBytes 2 0x8181 ++ sliceOf 4 32 sig ++ msg))
    let ends := digits.zipIdx.flatMap (fun d =>
      otsChain id leaf d.2 (255 - d.1.toNat) d.1.toNat (sliceOf (36 + 32 * d.2) 32 sig))
    some (sha256 (id ++ leaf ++ beBytes 2 0x8080 ++ ends))
  else none

/-- The climb from a node to the root, one sibling of the path at each level. -/
def lmsRoot (id : List Byte) : List (List Byte) → Nat → List Byte → List Byte
  | [], _, v => v
  | sib :: path, node, v =>
    let pair := if node % 2 = 1 then sib ++ v else v ++ sib
    lmsRoot id path (node / 2) (sha256 (id ++ beBytes 4 (node / 2) ++ beBytes 2 0x8383 ++ pair))

/-- Bytes of an LMS signature of height `h`. -/
def lmsSigLen (h : Nat) : Nat := 1132 + 32 * h

/-- An LMS signature of a message holds under a public key of 56 bytes. -/
def lmsVerify (type h : Nat) (key msg sig : List Byte) : Bool :=
  let id := sliceOf 8 16 key
  let q := beAt sig 0 4
  beAt key 0 4 == type && beAt key 4 4 == otsType && beAt sig 1128 4 == type && decide (q < 2 ^ h) &&
    (match otsKey id q msg (sliceOf 4 1124 sig) with
      | some k =>
        let path := (List.range h).map (fun i => sliceOf (1132 + 32 * i) 32 sig)
        lmsRoot id path (2 ^ h + q) (sha256 (id ++ beBytes 4 (2 ^ h + q) ++ beBytes 2 0x8282 ++ k)) == sliceOf 24 32 key
      | none => false)

/-- An HSS signature of 3,284 bytes holds under a public key of 60 bytes: the top tree signs the bottom tree's key, and the bottom
tree the message (R604, R611, R618). -/
def hssVerify (key msg sig : List Byte) : Bool :=
  let top := lmsSigLen 20
  let inner := sliceOf (4 + top) 56 sig
  beAt key 0 4 == 2 && beAt sig 0 4 == 1 && lmsVerify lmsTypeTop 20 (sliceOf 4 56 key) inner (sliceOf 4 top sig)
    && lmsVerify lmsTypeBottom 10 inner msg (sliceOf (60 + top) (lmsSigLen 10) sig)

end Sys2Proof.Machine
end

