-- ==== Sys2Proof/Machine/SecImage.lean ====
section
/-!
DEFINITION. Firmware images and the start of the loader (R610, R611, R616, R617), the attestation index at a cold start (R605, R606)
and the SEC registers that show what the OTP holds (R620).
-/

namespace Sys2Proof.Machine

open Reg

def fwRunning : Nat := 0
def fwLoaderOnly : Nat := 1
def fwWriting : Nat := 2
def fwWritten : Nat := 3

/-- Blocks of an image, from its first bytes. -/
def imageBlocks (m : Mem) (base : Nat) : Nat := Mem.readLe m (base + 8) 2

/-- A root slot that is programmed, not revoked, and holds the hash of a key (R611 check 4). -/
def Otp.rootOf (o : Otp) (key : List Byte) : Option Nat :=
  (List.range 4).find? (fun i => bitAt o.present i && !bitAt o.revoked i && Config.rootHash i == sha256 key)

/-- A block of an image matches its BLOCK_CRC. -/
def blockGood (m : Mem) (base i : Nat) : Bool :=
  (crc32c (Mem.bytes m (base + i * blockSize) blockSize)).toNat == Mem.readLe m (base + 0x100 + 4 * i) 4

/-- Check 7 of R611. -/
def payloadGood (m : Mem) (base : Nat) : Bool :=
  let n := imageBlocks m base
  (List.range n).all (fun i => i == 0 || blockGood m base i)
    && sha256 (Mem.bytes m (base + blockSize) ((n - 1) * blockSize)) == Mem.bytes m (base + 0x20) 32

/-- HDR_CRC covers bytes 0x0000 to 0x0CFF with its own field read as 0. -/
def headerGood (h : List Byte) : Bool :=
  (crc32c (h.take 0x44 ++ zeros 4 ++ (h.drop 0x48).take (0xD00 - 0x48))).toNat == leAt h 0x44 4

/-- The first check of R611 that an image fails: its reason. -/
def State.imageReason (s : State) (m : Mem) (base : Nat) : Option Nat :=
  let h := Mem.bytes m base 0xD00
  let n := leAt h 8 2
  let key := sliceOf 0x48 60 h
  if leAt h 0 4 ≠ 0x4746524B ∨ leAt h 4 2 ≠ 1 ∨ n < 2 ∨ 768 < n ∨ !headerGood h then some 1
  else if leAt h 6 2 ≠ Config.hwType s.part.variant then some 2
  else if leAt h 0x0B 1 % 2 = 1 ∧ leAt h 0x10 16 ≠ s.part.serial.toNat then some 3
  else if (s.sec.otp.rootOf key).isNone then some 4
  else if leAt h 0x0A 1 < s.sec.otp.svn then some 5
  else if !hssVerify key h (Mem.bytes m (base + 0x1000) sigLen) then some 6
  else if !payloadGood m base then some 7
  else none

/-! ## What the registers show -/

def State.setSec (s : State) (x : Sec) : State := { s with sec := x }

/-- Indices left (R609, R620). -/
def Sec.left (x : Sec) : Nat := 2 ^ 30 - x.next

/-- `SEC_ROOT`, `SEC_SVN`, `SEC_FW_VER`, `SEC_ATT`, `SEC_ATT_LEFT` and `SEC_FW_STAT` as they stand. -/
def State.showSec (s : State) : State :=
  let x := s.sec
  let s := s.setReg SEC_ROOT (BitVec.ofNat 32 (x.otp.dbgKey.toNat * 256 + x.otp.revoked.toNat * 16 + x.otp.present.toNat))
  let s := s.setReg SEC_SVN (BitVec.ofNat 32 x.otp.svn)
  let s := s.setReg SEC_FW_VER ((x.image.map (fun i => i.2.1)).getD 0)
  let s := s.setReg SEC_ATT (BitVec.ofNat 32 (min x.next (2 ^ 30 - 1)))
  let s := s.setReg SEC_ATT_LEFT (BitVec.ofNat 32 x.left)
  s.setFld SEC_FW_STAT_RECEIVED x.good.length

/-! ## The attestation index at a cold start (R605, R606) -/

/-- A record of the ring: sequence number, RESERVED and its HMAC. -/
def recordBytes (seqNo reserved : Nat) : List Byte :=
  let body := leBytes 8 seqNo ++ leBytes 4 reserved ++ zeros 20
  body ++ fitBytes 32 (hmacSha256 Config.recKey body)

/-- The valid record in a slot of the ring: sequence number and RESERVED. -/
def State.recordAt (s : State) (i : Nat) : Option (Nat × Nat) :=
  let b := Mem.bytes s.bootFlash (recordRing + 64 * i) 64
  if b == recordBytes (leAt b 0 8) (leAt b 8 4) then some (leAt b 0 8, leAt b 8 4) else none

/-- The valid record with the highest sequence number, with its slot. -/
def State.lastRecord (s : State) : Option (Nat × Nat × Nat) :=
  ((List.range 16384).filterMap (fun i => (s.recordAt i).map (fun r => (i, r)))).foldl (fun best r =>
    match best with
    | none => some r
    | some b => if b.2.1 < r.2.1 then some r else some b) none

/-- The next index is the larger of RESERVED + 1 and the floor; a part without a floor bit programs bit 0 first. -/
def State.attestStart (s : State) : State :=
  let floor := max 1 s.sec.otp.floor
  let last := s.lastRecord
  let next := max ((last.map (fun r => r.2.2 + 1)).getD 0) ((floor - 1) * 2 ^ 18)
  s.setSec { s.sec with
    otp := { s.sec.otp with floor := floor }, next := next
    reserved := (last.map (fun r => r.2.2 + 1)).getD 0
    slot := (last.map (fun r => (r.1 + 1) % 16384)).getD 0, seqNo := (last.map (fun r => r.2.1 + 1)).getD 1, refilled := s.gtc }

/-! ## Start (R602, R616, R617) -/

/-- Loader-only state, with its reason. -/
def State.enterLoaderOnly (s : State) (reason : Nat) : State :=
  ((s.setSec { s.sec with image := none }).setReg SEC_FW_STATE (BitVec.ofNat 32 (fwLoaderOnly * 2 ^ 29 + reason))).showSec

/-- The check of the loader and of the stored image. A loader that fails is a doubt and the module stops there; with no DDR5
channel in use the start stops (R545). -/
def State.startLoader (s : State) (eepromOk loaderOk : Bool) : State :=
  if !loaderOk then ((s.setSec { s.sec with image := none }).showSec).doubt 7 polPA 0 0
  else if !eepromOk then s.enterLoaderOnly 8
  else match s.imageReason s.bootFlash imageArea with
    | some reason => s.enterLoaderOnly reason
    | none =>
      let h := Mem.bytes s.bootFlash imageArea 0xD00
      if s.dramSize = 0 then (s.setSec { s.sec with image := none }).showSec
      else
        let image := (sha256 h, BitVec.ofNat 32 (leAt h 0x0C 4), leAt h 0x0A 1)
        ((s.setSec { s.sec with image := some image }).setReg SEC_FW_STATE 0).showSec

end Sys2Proof.Machine
end

