-- ==== Sys2Proof/Machine/Power.lean ====
section
/-!
DEFINITION. Polders, reset and the module power states (R480 to R504, R418, R419).
-/

namespace Sys2Proof.Machine

open Reg

def State.setPower (s : State) (p : Power) : State := { s with power := p }
def State.setPhase (s : State) (p : PowerPhase) : State := s.setPower { s.power with phase := p }

/-! ## Clocks and operating points (R484 to R487, R502) -/

/-- The polders with DVFS, in the order in which the governor slows them (R486). -/
def dvfsOrder : List Nat := [polPX, polPD, polPK, polPT, polPC]

/-- The polders that STOP, MS3 and a polder reset may reach (R488, R502). -/
def stoppable (p : Nat) : Bool := [polPD, polPK, polPX, polPT, polPG].contains p

def clk (f : Fld) (p : Nat) : Fld := f.nth 4 p

/-- The polder of a 4-bit index. -/
def polderOf (i : BitVec 4) : Option Nat := if i.toNat ≤ 10 then some i.toNat else none

/-- A polder's clock stops (R583). -/
def State.stopPolder (s : State) (p kind : Nat) : State :=
  ((s.marker 3 p kind).setPolder p 2).setFlag (clk POL_CLK_STOPPED p) true

/-- A polder's clock runs again; PG takes the markers that waited for it first. -/
def State.resumePolder (s : State) (p kind : Nat) : State :=
  let s := (s.setPolder p 3).setFlag (clk POL_CLK_STOPPED p) false
  let s := if p = polPG then s.flushMarkers else s
  s.marker 4 p kind

/-- No descriptor runs in a polder. -/
def State.polderIdle (s : State) (p : Nat) : Bool := !s.taken.any (fun x => classPolder x.cls == p && x.result.isNone)

/-- STOP bits that were waiting for descriptors to end take effect (R502). -/
def State.settleStops (s : State) : State :=
  (List.range 11).foldl (fun (s : State) p =>
    if stoppable p && s.flag (clk POL_CLK_STOP p) && s.polderOn p && s.polderIdle p then s.stopPolder p 0 else s) s

/-- A write of STOP. -/
def State.writeStop (s : State) (p : Nat) (stop : Bool) : State :=
  if !stoppable p then s
  else
    let s := s.setFlag (clk POL_CLK_STOP p) stop
    if stop then s.settleStops
    else if s.polder p = 2 ∧ s.fld POL_MODE_CUR < 3 then s.resumePolder p 0
    else s

/-- CLOCK_STOP. -/
def execClockStop (w : Writer) (polder : BitVec 4) (stop : Bool) (s : State) : Res :=
  .next (if s.mayWrite w then
      match polderOf polder with
      | some p => s.writeStop p stop
      | none => s
    else s)

/-- A write of SRC: a switch to a PLL that is not locked waits for it. -/
def State.writeSrc (s : State) (p : Nat) (pll : Bool) : State :=
  let s := s.setFlag (clk POL_CLK_SRC p) pll
  s.setPower { s.power with onPll := putBit s.power.onPll p (pll && s.flag (clk POL_CLK_LOCK p)) }

/-- CLOCK_SOURCE_SWITCH. -/
def execClockSourceSwitch (w : Writer) (polder : BitVec 4) (pll : Bool) (s : State) : Res :=
  .next (if s.mayWrite w then
      match polderOf polder with
      | some p => s.writeSrc p pll
      | none => s
    else s)

/-- PLL_LOCK: an enabled PLL locks, and a switch that waited takes place. -/
def execPllLock (polder : BitVec 4) (s : State) : Res :=
  .next (match polderOf polder with
    | some p =>
      if s.polder p ≠ 0 ∧ s.flag (clk POL_CLK_SRC p) then
        let s := s.setFlag (clk POL_CLK_LOCK p) true
        s.setPower { s.power with onPll := putBit s.power.onPll p true }
      else s
    | none => s)

/-- Steps that the governor and the throttle add to a polder's OPP. -/
def Power.steps (x : Power) (p : Nat) : Nat := x.governed.count p + x.throttled.count p

/-- The effective OPP follows the request and the steps; the clock stops during the change (R485, R583). -/
def State.applyOpp (s : State) (p : Nat) : State :=
  let opp := min 3 (s.fld (clk POL_CLK_OPP p) + s.power.steps p)
  if opp = s.fld (clk POL_CLK_OPP_CUR p) then s
  else
    let s := if s.polderOn p then s.marker 3 p 1 else s
    let s := s.setFld (clk POL_CLK_OPP_CUR p) opp
    if s.polderOn p then s.marker 4 p 1 else s

def State.applyOpps (s : State) : State := dvfsOrder.foldl (fun (s : State) p => s.applyOpp p) s

/-- A write of OPP; it is ignored for polders without DVFS. -/
def State.writeOpp (s : State) (p opp : Nat) : State :=
  if dvfsOrder.contains p then (s.setFld (clk POL_CLK_OPP p) opp).applyOpp p else s

/-- OPP_CHANGE. -/
def execOppChange (w : Writer) (polder : BitVec 4) (opp : BitVec 2) (s : State) : Res :=
  .next (if s.mayWrite w then
      match polderOf polder with
      | some p => s.writeOpp p opp.toNat
      | none => s
    else s)

/-- The next polder to slow: the first below OPP 3 in the order, from the one after the last slowed. -/
def State.nextSlower (s : State) (steps : List Nat) : Option Nat :=
  let from_ := match steps with
    | [] => 0
    | p :: _ => dvfsOrder.idxOf p + 1
  ((List.range 5).map (fun i => dvfsOrder.getD ((from_ + i) % 5) 0)).find? (fun p => decide (s.fld (clk POL_CLK_OPP_CUR p) < 3))

/-- Since when a quantity has been low, and whether that lasts 10 ms. -/
def lowFor (since : Option Word64) (now : Word64) : Bool := since.any (fun t => decide (10000000 ≤ (now - t).toNat))

/-- POWER_GOVERNOR: a measurement of the input power, in units of 0.1 W (R486). -/
def execPowerGovernor (input nand : BitVec 16) (s : State) : Res :=
  let s := (s.setFld MGT_POWER_INPUT input.toNat).setFld MGT_POWER_NAND nand.toNat
  let x := s.power
  let mode := s.fld POL_MODE_CUR
  let cap := if mode = 1 then 2200 else 1600
  .next (if mode ≠ 1 ∧ mode ≠ 2 then (s.setPower { x with governed := [], idles := false, lowSince := none }).applyOpps
    else if cap < input.toNat then
      match s.nextSlower x.governed with
      | some p => (s.setPower { x with governed := p :: x.governed, lowSince := none }).applyOpp p
      | none => s.setPower { x with idles := true, lowSince := none }
    else if 10 * input.toNat ≤ 9 * cap then
      if lowFor x.lowSince s.gtc then
        if x.idles then s.setPower { x with idles := false }
        else (s.setPower { x with governed := x.governed.drop 1 }).applyOpps
      else s.setPower { x with lowSince := some (x.lowSince.getD s.gtc) }
    else s.setPower { x with lowSince := none })

/-- THERMAL_THROTTLE: a measurement of the junction temperature, in units of 0.1 °C (R548). -/
def execThermalThrottle (temp : Int) (s : State) : Res :=
  let x := s.power
  .next (if 1000 ≤ temp then
      match s.nextSlower x.throttled with
      | some p => (s.setPower { x with throttled := p :: x.throttled, coolSince := none }).applyOpp p
      | none => s.setPower { x with idles := true, coolSince := none }
    else if temp < 950 then
      if lowFor x.coolSince s.gtc then
        if x.idles then s.setPower { x with idles := false }
        else (s.setPower { x with throttled := x.throttled.drop 1 }).applyOpps
      else s.setPower { x with coolSince := some (x.coolSince.getD s.gtc) }
    else s.setPower { x with coolSince := none })

/-- CLOCK_STRETCH: a droop stretches a polder's clock; the GTC is untouched (R487). -/
def execClockStretch (polder : BitVec 4) (s : State) : Res :=
  .next (match polderOf polder with
    | some p => if s.polderOn p then s.count unitPOL 3 1 else s
    | none => s)

/-! ## What resets clear (R488) -/

/-- The registers, counters and snapshots of the units that `pick` names by polder return to reset. -/
def State.clearUnitsOf (s : State) (pick : Nat → Bool) : State :=
  let mine (u : Nat) : Bool := pick (unitPolder u)
  let gone (off : Nat) : Bool := (unitAt off).any mine
  { s with
    regs := s.regs.filter (fun e => !gone e.1), errSnap := s.errSnap.filter (fun e => !gone e.1)
    events := s.events.filter (fun e => !mine (e.1 / 16)), eventSnap := s.eventSnap.filter (fun e => !mine (e.1 / 16)) }

/-- What the flash keeps without power: media, bad blocks and the anchor. -/
def Flash.kept (f : Flash) : Flash := { Flash.reset with dies := f.dies, nand := f.nand, health := f.health }
def Ftl.kept (f : Ftl) : Ftl := { Ftl.reset with anchor := f.anchor, cursor := f.cursor }

/-- The host side after the module has lost it: host memory and what the host was told stay with the host. -/
def HostSide.kept (h : HostSide) : HostSide := { HostSide.reset with mem := h.mem, replies := h.replies, reads := h.reads }

/-- A cold start: everything is reset, PA included, and the GTC restarts at 0. -/
def State.coldReset (s : State) : State :=
  let fresh := { State.reset with
    pending := s.pending, part := s.part, msix := s.msix, host := s.host.kept, flash := s.flash.kept, ftl := s.ftl.kept
    bootFlash := s.bootFlash, free := s.free
    sec := { Sec.reset with otp := s.sec.otp, moduleSerial := s.sec.moduleSerial } }
  fresh.attestStart

/-- The trace after PG lost it (R598). -/
def State.loseTrace (s : State) : State := { s with trace := { Trace.empty with lostAt := some s.gtc } }

/-- Every polder but PA is reset, and the safe state ends. -/
def State.warmClear (s : State) : State :=
  let s := { s.clearUnitsOf (fun p => p != polPA) with
    cores := Vector.replicate 16 Core.reset, rings := [], turns := [], taken := [], qct := [], recipes := [], letters := [], letters1 := []
    host := s.host.kept, flash := s.flash.kept, ftl := s.ftl.kept, fetch := Fetch.reset, mash := ⟨[], []⟩, sets := [], vocabs := []
    texts := [], store := ⟨[], [], []⟩, net := Net.reset, dram := [], dramErr := []
    fault := { FaultCtl.reset with kicks := (List.range 16).foldl (fun t n => Table.write 0 t n s.gtc) [] }
    system := { s.system with streak := 0, lastPtp := none, nowHigh := none }
    sec := if s.sec.commit.isSome then s.sec else { s.sec with stage := [], got := [], good := [] }
    power := { s.power with
      save := Mem.clear s.power.save 0 0x8000, onPll := 0, coreReset := 0, governed := [], throttled := [], idles := false
      writeProtect := true, txDisable := true } }
  let s := s.loseTrace
  let s := (s.setFlag FLT_STATUS_SAFE false).setFlag FLT_STATUS_READY false
  let s := (((s.setFlag FLT_ST_STAT_BUSY false).setTests []).setFlag FLT_RPL_REQ_HI_BUSY false).setFld GTC_SYNC_STATE 3
  let s := (List.range 11).foldl (fun (s : State) p => if p = polPA then s else s.setReg (POL_CLK + 4 * p) 0) s
  let s := (s.setFld POL_PAD_HELD 0x7FE).setReg POL_CORE_RST 1
  let s := ((s.setFld POL_MODE_CUR 0).setFld POL_MODE_TARGET 0).setFlag POL_MODE_BUSY false
  let s := s.setFlag POL_SAVE_STAT_VALID false
  s.setFlag SEC_ACT_STAT_ARMED false

/-- The polders are released from reset. -/
def State.releasePolders (s : State) : State :=
  let s := (List.range 11).foldl (fun (s : State) p => s.setPolder p 3) s
  s.flushMarkers.setPhase .on

/-! ## The wake ladder (R500, R501) -/

def ladderOrder : List Nat := [polPC, polPF, polPM, polPH, polPT, polPK, polPD, polPX, polPN, polPG]

/-- The load step of a polder in W. -/
def loadOf (p : Nat) : Nat := [0, 3, 8, 10, 9, 4, 11, 3, 8, 4, 1].getD p 0

/-- A ladder over the gated polders that `pick` names begins. -/
def State.beginLadder (s : State) (kind : LadderKind) (pick : Nat → Bool) : State :=
  s.setPower { s.power with
    phase := .ladder kind
    ladder := ⟨ladderOrder.filter (fun p => pick p && s.polder p == 0), [], s.gtc, false⟩ }

/-- The spacing from the last step has passed. -/
def State.ladderSpaced (s : State) : Bool :=
  match s.power.ladder.begun with
  | [] => decide (s.power.ladder.start ≤ s.gtc)
  | (_, t) :: _ => decide (max 50 (s.fld POL_LADDER_SPACING_US) * 1000 ≤ (s.gtc - t).toNat)

/-- The load of the steps begun less than 1 ms earlier, with that of a further one. -/
def State.ladderLoad (s : State) (p : Nat) : Nat :=
  ((s.power.ladder.begun.filter (fun e => decide ((s.gtc - e.2).toNat < 1000000))).map (fun e => loadOf e.1)).foldl (· + ·) (loadOf p)

/-- LADDER_STEP: the next polder powers up; a step that BUDGET_W delays is counted once. -/
def execLadderStep (s : State) : Res :=
  let l := s.power.ladder
  .next (match s.power.phase, l.left with
    | .ladder _, p :: rest =>
      if !s.ladderSpaced then s
      else if max 11 (s.fld POL_LADDER_BUDGET_W) < s.ladderLoad p then
        if l.delayed then s else (s.setPower { s.power with ladder := { l with delayed := true } }).count unitPOL 4 1
      else
        (s.setPower { s.power with ladder := { l with left := rest, begun := (p, s.gtc) :: l.begun, delayed := false } }).setPolder p 1
    | _, _ => s)

/-- The ladder has ended; `after` ns have passed since its last step. -/
def State.ladderDone (s : State) (after : Nat) : Bool :=
  s.power.ladder.left.isEmpty && (match s.power.ladder.begun with
    | [] => true
    | (_, t) :: _ => decide (after ≤ (s.gtc - t).toNat))

/-! ## Cold start and warm reset (R488, R489) -/

/-- `MEM_CHAN_STAT` after training, and D. -/
def State.trainDram (s : State) (chans : List (BitVec 2)) (dram : Nat) : State :=
  let n := Config.ddrChannels s.part.variant
  let codes := (chans.take n).zipIdx
  let used := codes.any (fun e => e.1 == 1 || e.1 == 2)
  let s := s.setReg MEM_CHAN_STAT (BitVec.ofNat 32 (codes.foldl (fun a e => a + e.1.toNat * 4 ^ e.2) 0))
  { s with dramSize := if used then min dram (2 ^ 41) else 0 }

/-- COLD_START: step 1 and the stagger of R489, and after the ladder the release of the polders and of CC0, the loader check and
DDR5 training. -/
def execColdStart (chans : List (BitVec 2)) (dram : Nat) (eepromOk loaderOk : Bool) (s : State) : Res :=
  .next (match s.power.phase with
    | .cold =>
      if s.fld POL_STAGGER_SLOT * s.fld POL_STAGGER_STEP_US * 1000 ≤ s.gtc.toNat then
        (s.attestStart.showSec).beginLadder .cold (fun _ => true)
      else s
    | .ladder .cold =>
      if s.ladderDone 10000 then
        let s := s.releasePolders.setFld POL_WAKE_CAUSE 0
        (s.trainDram chans dram).startLoader eepromOk loaderOk
      else s
    | _ => s)

/-- The end of a warm reset: CC0 leaves reset with CAUSE 4, and the loader starts the stored image. -/
def State.finishWarm (s : State) (loaderOk : Bool) : State :=
  (s.releasePolders.setFld POL_WAKE_CAUSE 4).startLoader true loaderOk

/-- A warm reset; polders that were gated are powered by a ladder first. -/
def State.warmReset (s : State) (loaderOk : Bool) : State :=
  let s := s.warmClear
  if (List.range 11).any (fun p => s.polder p == 0) then s.beginLadder .warm (fun _ => true) else s.finishWarm loaderOk

/-- A power state that a warm reset may end. -/
def PowerPhase.resets : PowerPhase → Bool
  | .on | .entering | .asleep | .ladder .wake | .ladder .warm => true
  | .ladder .cold | .cold | .flush | .flushed | .off | .unpowered => false

/-- The writers of `POL_RESET` KIND 1 (R488, R503). -/
def State.mayReset (s : State) (w : Writer) : Bool :=
  match w with
  | .core _ => s.mayWrite w && !s.flag FLT_STATUS_SAFE
  | .sideband => true
  | _ => s.mayWrite w

/-- A write of `POL_RESET` with KIND 1. -/
def State.writeWarm (s : State) (w : Writer) (value : Word32) (loaderOk : Bool) : State :=
  if natAt value 16 16 = 0xA5C3 ∧ natAt value 0 2 = 1 ∧ s.mayReset w ∧ s.power.phase.resets then s.warmReset loaderOk else s

/-- WARM_RESET; once a ladder has powered the gated polders, it ends. -/
def execWarmReset (w : Writer) (value : Word32) (loaderOk : Bool) (s : State) : Res :=
  .next (if s.power.phase = .ladder .warm ∧ s.ladderDone 10000 then s.finishWarm loaderOk else s.writeWarm w value loaderOk)

/-! ## Polder, core and pad resets (R488, R490) -/

/-- A polder reset: its work is aborted and its counters return to 0; PG loses the trace and its registers (R598). -/
def State.resetPolder (s : State) (p : Nat) : State :=
  if !stoppable p || s.polder p = 0 || s.polder p = 1 then s
  else
    let s := (s.marker 3 p 4).abortTaken (fun x => classPolder x.cls == p)
    let s := (List.range 24).foldl (fun (s : State) u => if unitPolder u = p then s.clearCounters u else s) s
    let s := if p = polPG then (s.clearUnitsOf (fun q => q == polPG)).loseTrace else s
    s.marker 4 p 4

/-- A write of `POL_RESET` with KIND 2. -/
def State.writePolderReset (s : State) (w : Writer) (value : Word32) : State :=
  if natAt value 16 16 = 0xA5C3 ∧ natAt value 0 2 = 2 ∧ s.mayWrite w then s.resetPolder (natAt value 12 4) else s

/-- POLDER_RESET. -/
def execPolderReset (w : Writer) (value : Word32) (s : State) : Res := .next (s.writePolderReset w value)

/-- A core is reset (R36). -/
def State.resetCore (s : State) (c : CoreId) : State :=
  let s := s.setCore c Core.reset
  let s := s.setReg POL_CORE_RST (putBit (s.reg POL_CORE_RST) c.val false)
  s.setPower { s.power with coreReset := putBit s.power.coreReset c.val false }

/-- Core resets whose core is drained take effect. -/
def State.settleCores (s : State) : State :=
  (List.finRange 16).foldl (fun (s : State) c => if bitAt s.power.coreReset c.val && (s.core c).drained then s.resetCore c else s) s

/-- A write of `POL_CORE_RST`. -/
def State.writeCoreRst (s : State) (value : BitVec 16) : State :=
  let s := (List.finRange 16).foldl (fun (s : State) c =>
    let on := s.outOfReset c
    if bitAt value c.val then
      let s := s.setPower { s.power with coreReset := putBit s.power.coreReset c.val false }
      s.setReg POL_CORE_RST (putBit (s.reg POL_CORE_RST) c.val true)
    else if on then s.setPower { s.power with coreReset := putBit s.power.coreReset c.val true }
    else s) s
  s.settleCores

/-- The word of `POL_CORE_RST` with one bit changed. -/
def State.coreRstWith (s : State) (c : CoreId) (on : Bool) : BitVec 16 :=
  putBit (bitsAt (s.reg POL_CORE_RST) 0 16 &&& ~~~s.power.coreReset) c.val on

/-- CORE_RESET: bit c of `POL_CORE_RST` written 0. -/
def execCoreReset (w : Writer) (c : CoreId) (s : State) : Res :=
  .next (if s.mayWrite w then s.writeCoreRst (s.coreRstWith c false) else s)
/-- CORE_RELEASE: bit c written 1. -/
def execCoreRelease (w : Writer) (c : CoreId) (s : State) : Res :=
  .next (if s.mayWrite w then s.writeCoreRst (s.coreRstWith c true) else s)

/-- A write of RELEASE: the polders that are ON drive their pads. -/
def State.releasePads (s : State) (polders : BitVec 11) : State :=
  let s := (List.range 11).foldl (fun (s : State) p =>
    if bitAt polders p && s.polderOn p then s.setFld POL_PAD_HELD (putBit (BitVec.ofNat 11 (s.fld POL_PAD_HELD)) p false).toNat
    else s) s
  if s.flag FLT_STATUS_SAFE || s.loaderOnly then s
  else s.setPower { s.power with
    writeProtect := s.power.writeProtect && !(bitAt polders polPF && s.polderOn polPF)
    txDisable := s.power.txDisable && !(bitAt polders polPN && s.polderOn polPN) }

/-- PAD_RELEASE. -/
def execPadRelease (w : Writer) (polders : BitVec 11) (s : State) : Res :=
  .next (if s.mayWrite w then s.releasePads polders else s)

/-! ## Module power states (R418, R419, R491) -/

/-- What keeps the module out of PS3 and PS4 (R419). -/
def State.moduleBusy (s : State) : Bool :=
  !s.recipes.isEmpty || !s.taken.isEmpty || s.rings.any (fun e => e.2.waiting != 0)
    || s.host.cmdRings.any (fun e => e.2.sqHead != e.2.sqTail || !e.2.outstanding.isEmpty)
    || s.host.sqs.any (fun q => q.waits) || !s.ftl.writers.isEmpty || s.net.qps.any (fun e => e.2.state == qpRTS) || !s.host.dma.isEmpty

/-- The lowest of some states; 0 where there is none. -/
def lowestOf : List Nat → Nat
  | [] => 0
  | x :: rest => rest.foldl min x

/-- The lowest state held by any enabled controller. -/
def State.heldState (s : State) : Nat := lowestOf (s.host.controllers.map (·.ps))

/-- The lowest operational state that Feature 0x02 has set. -/
def State.operational (s : State) : Nat := lowestOf (s.host.controllers.filterMap (·.opState))

/-- The state the module takes. -/
def State.moduleState (s : State) : Nat :=
  min (if s.moduleBusy then s.operational else s.heldState) (s.fld HST_PWR_FLOOR)

/-- The module state and `HST_PWR`.PS. -/
def State.setMode (s : State) (m : Nat) : State := (s.setFld POL_MODE_CUR m).setFld HST_PWR_PS m

/-- The data-path polders that MS3 stops. -/
def ms3Polders : List Nat := [polPD, polPK, polPX, polPT, polPN, polPG]

/-- MS3: the data-path polders' clocks stop. -/
def State.enterMs3 (s : State) : State :=
  let s := ms3Polders.foldl (fun (s : State) p => if s.polderOn p then s.stopPolder p 2 else s) s
  (s.setMode 3).count unitPOL 2 1

/-- MS3 is left: the clocks run again, but for those that STOP holds. -/
def State.leaveMs3 (s : State) (m : Nat) : State :=
  let s := ms3Polders.foldl (fun (s : State) p =>
    if s.polder p = 2 ∧ !s.flag (clk POL_CLK_STOP p) then s.resumePolder p 2 else s) s
  s.setMode m

/-! ## MS4 (R492 to R496) -/

/-- The polders that MS4 gates. -/
def ms4Polders : List Nat := ladderOrder.filter (fun p => p != polPF && p != polPH)

/-- Why an entry to MS4 is refused: the lowest cause of those that hold. -/
def State.ms4Refusal (s : State) : Option Nat :=
  if s.moduleBusy || s.sec.commit.isSome || s.flag SEC_ACT_STAT_ARMED then some 1
  else if s.cores.toList.any (fun k => k.halted) then some 2
  else if 256 < (s.rings.filter (fun e => e.2.en)).length then some 3
  else if s.flag FLT_STATUS_SAFE then some 4
  else if s.power.flush.isSome || s.power.test.isSome then some 5
  else if s.fld HST_PWR_FLOOR < 4 then some 6
  else none

/-- The governor's decision for MS4: refused with its cause, or CC0 and CC1 are told. -/
def State.decideMs4 (s : State) : State :=
  match s.ms4Refusal with
  | some cause => (s.setFlag POL_MODE_REFUSED true).setFld POL_MODE_CAUSE cause
  | none =>
    let s := { s with letters := s.letters ++ [Letter.powerSave], letters1 := s.letters1 ++ [Letter.powerSave] }
    ((s.setFld POL_MODE_TARGET 4).setFlag POL_MODE_BUSY true).setPhase .entering

/-- The registers of the save list's sixth area (R495). -/
def savedRegs : List Nat :=
  [MIL_CFG, MSH_CFG, CSK_STORE_BASE_LO, CSK_STORE_BASE_HI, CSK_STORE_SIZE] ++ (List.range 4).map (fun i => NET_PORT_CFG + 4 * i)
    ++ [NET_PRIO_CFG, RDM_RETRY_CFG, RDM_REVOKE_CFG] ++ (List.range 4).map (fun i => WER_SVC_CFG + 4 * i)
    ++ [WER_OVH, WER_CC_CFG, WER_PFC_CFG, CC_DBG_GLOBAL]

/-- The save list is written with its CRC-32C (R495). -/
def State.writeSave (s : State) : State :=
  let rings := (s.rings.filter (fun e => e.2.en)).take 256
  let m := Mem.clear s.power.save 0 0x8000
  let m := Mem.store m 0x100 (rings.flatMap (fun e => e.2.saved e.1))
  let m := Mem.store m 0x3100 ((List.range 4096).flatMap (fun i => leBytes 4 (s.subCfg i).toNat))
  let m := Mem.store m 0x7100 ((List.range 12).flatMap (fun c => (List.range 128).map (Config.ddrTraining c)))
  let m := Mem.store m 0x7700 (savedRegs.flatMap (fun o => leBytes 4 (s.reg o).toNat))
  let crc := (crc32c (Mem.bytes m 0x100 0x7F00)).toNat
  let m := Mem.store m 0 (leBytes 4 0x56534B50 ++ leBytes 4 rings.length ++ leBytes 4 crc)
  let s := s.setPower { s.power with save := m }
  (s.setFlag POL_SAVE_STAT_VALID true).setFld POL_SAVE_STAT_RECORDS rings.length

/-- The save list passes its checks (R496). -/
def State.saveGood (s : State) : Bool :=
  let m := s.power.save
  Mem.readLe m 0 4 == 0x56534B50 && decide (Mem.readLe m 4 4 ≤ 256)
    && Mem.readLe m 8 4 == (crc32c (Mem.bytes m 0x100 0x7F00)).toNat

/-- The save list is restored. -/
def State.restoreSave (s : State) : State :=
  let m := s.power.save
  let s := (List.range (Mem.readLe m 4 4)).foldl (fun (s : State) i =>
    let b := Mem.bytes m (0x100 + 48 * i) 48
    { s with rings := Table.write Ring.reset s.rings (leAt b 0 4 % 2 ^ 14) (Ring.restored b) }) s
  let s := { s with net := { s.net with subCfg := (List.range 4096).foldl (fun t i =>
    Table.write 0x10000000 t i (BitVec.ofNat 32 (Mem.readLe m (0x3100 + 4 * i) 4))) [] } }
  savedRegs.zipIdx.foldl (fun (s : State) e => s.setReg e.1 (BitVec.ofNat 32 (Mem.readLe m (0x7700 + 4 * e.2) 4))) s

/-- A polder is gated: its registers and SRAM are lost and its PLL is off. -/
def State.gatePolder (s : State) (p : Nat) : State :=
  let s := (s.marker 3 p 3).setPolder p 0
  let s := s.clearUnitsOf (fun q => q == p)
  let s := s.setReg (POL_CLK + 4 * p) (s.reg (POL_CLK + 4 * p) &&& 0x0F000000)
  s.setPower { s.power with onPll := putBit s.power.onPll p false }

/-- Steps 2 to 5 of R493. -/
def State.sleep (s : State) : State :=
  let s := s.writeSave
  let s := s.setFld POL_PAD_HELD ((BitVec.ofNat 11 (s.fld POL_PAD_HELD)) ||| 0x508#11).toNat
  let s := { s with
    cores := Vector.replicate 16 Core.reset, rings := [], turns := [], mash := { s.mash with models := [] }, sets := [], vocabs := []
    texts := [], store := ⟨[], [], []⟩, fetch := { s.fetch with cache := [] }
    net := { Net.reset with qps := s.net.qps, regions := s.net.regions, inbox := s.net.inbox, sent := s.net.sent
                            pauses := s.net.pauses, punted := s.net.punted }
    power := { s.power with txDisable := true, coreReset := 0 } }
  let s := (ms4Polders.reverse).foldl (fun (s : State) p => s.gatePolder p) s
  let s := s.loseTrace
  let s := (s.stopPolder polPF 3).setMode 4
  (((s.setFld POL_MODE_TARGET 0).setFlag POL_MODE_BUSY false).count unitPOL 0 1).setPhase .asleep

/-- A core waits in `idle`, or is in reset. -/
def State.coreWaits (s : State) (c : CoreId) : Bool := !s.outOfReset c || (s.core c).wait == some .idle

/-- MS4_ENTRY: the governor's decision where every controller holds PS4; then, once CC0 and CC1 wait, the entry itself. -/
def execMs4Entry (s : State) : Res :=
  .next (match s.power.phase with
    | .on => if s.heldState = 4 then s.decideMs4 else s
    | .entering => if s.coreWaits 0 && s.coreWaits 1 then s.sleep else s
    | _ => s)

/-- MS3_ENTRY. -/
def execMs3Entry (s : State) : Res :=
  .next (if s.power.phase = .on ∧ s.fld POL_MODE_CUR < 3 ∧ s.moduleState = 3 then s.enterMs3 else s)
/-- MS3_EXIT. -/
def execMs3Exit (s : State) : Res :=
  .next (if s.power.phase = .on ∧ s.fld POL_MODE_CUR = 3 ∧ s.moduleState < 3 then s.leaveMs3 s.moduleState else s)

/-- POWER_STATE_CHANGE: the module takes the state of R419. -/
def execPowerStateChange (s : State) : Res :=
  let m := s.moduleState
  let cur := s.fld POL_MODE_CUR
  .next (if s.power.phase ≠ .on then s
    else if m ≤ 2 then (if cur = 3 then s.leaveMs3 m else s.setMode m)
    else if m = 3 then (if cur = 3 then s else s.enterMs3)
    else s.decideMs4)

/-- The wake ladder of an exit from MS4 begins; PF's clock runs again. -/
def State.beginExit (s : State) : State :=
  let s := (s.resumePolder polPF 3).setFlag POL_MODE_BUSY true
  s.beginLadder .wake (fun p => ms4Polders.contains p)

/-- A wake source fires: 0 sideband, 1 PCIe, 2 GTC (R499, R502). -/
def State.wake (s : State) (src : Nat) : State :=
  let pend := s.fld POL_WAKE_PEND
  let s := if pend = 0 then s.setFld POL_WAKE_CAUSE (src + 1) else s
  let s := s.setFld POL_WAKE_PEND (putBit (BitVec.ofNat 3 pend) src true).toNat
  match s.power.phase with
  | .entering => ((s.setFld POL_MODE_TARGET 0).setFlag POL_MODE_BUSY false).setPhase .on |>.setMode 0
  | .asleep => s.beginExit
  | _ => s

/-- SIDEBAND_MATCH: while the controller runs, a match is an ordinary transfer (R498); in OFF it opens the way to the power-on
command (R526). -/
def execSidebandMatch (addr : BitVec 7) (s : State) : Res :=
  .next (if addr.toNat ≠ s.fld POL_SMB_ADDR then s
    else match s.power.phase with
      | .asleep | .entering => s.wake 0
      | .off => s.setPower { s.power with matched := true }
      | _ => s)

/-- PCIE_WAKE: a doorbell, command or access that waits on a clamped sluice; in MS3 it restarts the clocks (R419, R499, R626). -/
def execPcieWake (s : State) : Res :=
  .next (if !s.flag POL_WAKE_EN_PCIE then s
    else match s.power.phase with
      | .asleep | .entering => s.wake 1
      | .on => if s.fld POL_MODE_CUR = 3 then (s.wake 1).leaveMs3 (min 2 s.operational) else s
      | _ => s)

/-- GTC_WAKE: the GTC has reached `POL_WAKE_AT`. -/
def execGtcWake (s : State) : Res :=
  .next (if s.flag POL_WAKE_EN_GTC && decide (s.power.wakeAt ≤ s.gtc) then
      match s.power.phase with
      | .asleep | .entering => s.wake 2
      | .on => if s.fld POL_MODE_CUR = 3 then (s.wake 2).leaveMs3 (min 2 s.operational) else s
      | _ => s
    else s)

/-- The powered polders leave reset, CC0 and CC1 on the fast oscillator. -/
def State.endExit (s : State) : State :=
  let s := ms4Polders.foldl (fun (s : State) p => s.setPolder p 3) s
  let s := ms4Polders.foldl (fun (s : State) p => s.resumePolder p 3) s
  let s := s.setReg POL_CORE_RST 3
  (((s.setMode 0).setFlag POL_MODE_BUSY false).count unitPOL 1 1).setPhase .on

/-- MS4_EXIT: a pending wake begins the ladder; at its end the save list is checked and restored, or the module makes a warm
reset (R494, R496). -/
def execMs4Exit (eccError loaderOk : Bool) (s : State) : Res :=
  .next (match s.power.phase with
    | .asleep => if s.fld POL_WAKE_PEND ≠ 0 then s.beginExit else s
    | .ladder .wake =>
      if !s.ladderDone 0 then s
      else if s.saveGood && !eccError then s.endExit.restoreSave
      else
        let s := ((s.setFlag POL_SAVE_STAT_CRC_FAIL true).errAdd POL_ERR_CNT_RESTORE_FAIL 1).endExit
        s.warmReset loaderOk
    | _ => s)

end Sys2Proof.Machine
end

