-- ==== Sys2Proof/Machine/Unload.lean ====
section
/-!
DEFINITION. Unloading a recipe (R122, R385, R422): the halt, the rings, and the release once every taken descriptor is complete.
-/

namespace Sys2Proof.Machine

open Reg

/-- A ring of an unloading recipe: EN is cleared and descriptors not yet taken are discarded without status words. -/
def State.discardRing (s : State) (cls ring : Nat) : State :=
  let r := s.ring cls ring
  if r.en || r.disabling then
    let s := s.setRing cls ring { r with head := r.tail }
    if r.en then s.clearEn cls ring else s.ringOff cls ring
  else s

/-- The recipe's models and MinHash sets are released with its memory. -/
def State.releaseSlots (s : State) (h : Nat) : State :=
  let models := s.mash.models.filter (fun e => e.2.owner != some h)
  let gone := (s.sets.filter (fun e => e.2.owner == some h)).map (·.1)
  let s := { s with
    mash := { s.mash with models := models }, sets := s.sets.filter (fun e => e.2.owner != some h) }
  gone.foldl (fun (s : State) slot => s.showSet slot) s.showTiles

/-- What a recipe held is released: QPs, models, sets, store entries, staging, cores and their tickets, rings and memory. -/
def State.releaseRecipe (s : State) (h : Nat) (r : Recipe) : State :=
  let s := ((s.unbindRecipeQps h).releaseSlots h).releaseStore h
  let s := r.cores.foldl (fun (s : State) c => s.setCore c Core.reset) s
  let s := r.slots.foldl (fun (s : State) sl => s.setRing sl.cls sl.ring Ring.reset) s
  { s with recipes := Table.drop s.recipes h }

/-- An unload in progress ends once no taken descriptor of the recipe's rings remains, and its commands complete. -/
def State.settleUnload (s : State) (h : Nat) : State :=
  match Table.find s.recipes h with
  | some r =>
    if r.unloading.isEmpty || s.taken.any (fun x => r.slots.any (fun sl => sl.cls == x.cls && sl.ring == x.ring)) then s
    else r.unloading.foldl (fun (s : State) ref => s.completeCommand ref 0 csOK) (s.releaseRecipe h r)
  | none => s

/-- Every unload in progress. -/
def State.settleUnloads (s : State) : State := s.recipes.foldl (fun (s : State) e => s.settleUnload e.1) s

/-- RECIPE_UNLOAD (R122, R422): a second one joins the one in progress. -/
def execRecipeUnload (src : CmdSrc) (s : State) : Res :=
  .next (match s.takeCommand src 0x03 with
    | none => s
    | some (ref, e, s) =>
      let h := leAt e 0x04 4
      match Table.find s.recipes h with
      | none => s.completeCommand ref 0 csBAD_HANDLE
      | some r =>
        let s := { s with recipes := Table.put s.recipes h { r with unloading := r.unloading ++ [ref] } }
        if !r.unloading.isEmpty then s
        else
          let s := if r.state = .ended then s else r.cores.foldl (fun (s : State) c => s.stopCore c) s
          let s := s.unloadDeliveries h
          (r.slots.foldl (fun (s : State) sl => s.discardRing sl.cls sl.ring) s).settleUnload h)

end Sys2Proof.Machine
end

