-- ==== Sys2Proof/Machine/Engine.lean ====
section
/-!
DEFINITION. What every engine does with its rings: taking a descriptor (R87) and the header checks (R99), the unit it goes to
(R155, R207, R257, R427), its completion (R102) and the watches on its output (R591, R592).
-/

namespace Sys2Proof.Machine

open Reg

/-! ## Defined opcodes -/

/-- OPCODE is defined for the class; REGISTER and REVOKE are accepted from rings of M only (R99 check 2, R381). -/
def opcodeDefined (cls op : Nat) (priv : BitVec 2) : Bool :=
  let upTo (n : Nat) : Bool := decide (1 ≤ op ∧ op ≤ n)
  if cls = 0 then upTo 6 || op == 0x40 || op == 0x41
  else if cls = 2 ∨ cls = 8 then upTo 3
  else if cls = 3 ∨ cls = 4 ∨ cls = 5 ∨ cls = 0xB ∨ cls = 0xC then upTo 2
  else if cls = 0xA then upTo 2 || (upTo 4 && priv == privM)
  else upTo 4

/-! ## Addresses in a body (R99 check 4) -/

/-- A run of memory that a body names: the access, where, how long, and the alignment its field requires. -/
structure Span where
  kind : AccessKind
  addr : Nat
  len : Nat
  align : Nat
deriving DecidableEq, Repr

def reads (a n align : Nat) : List Span := [⟨.load, a, n, align⟩]
def writes (a n align : Nat) : List Span := [⟨.store, a, n, align⟩]
/-- A run whose address 0 names none. -/
def unlessZero (a : Nat) (l : List Span) : List Span := if a = 0 then [] else l

/-- Translation and media bodies (R350, R315). -/
def Taken.spans0 (x : Taken) : List Span :=
  let op := descOpcode x.desc
  let n := 4096 * zeroActsAsOne (x.fieldAt 0x14 4)
  if op = 1 then writes (x.fieldAt 0x20 8) n 64
  else if op = 2 ∧ x.fieldAt 0x12 1 % 2 = 0 then reads (x.fieldAt 0x20 8) n 64
  else if op = 0x40 then
    writes (x.fieldAt 0x18 8) (if x.fieldAt 0x13 1 = 2 then 17152 else 16448) 64 ++ writes (x.fieldAt 0x20 8) 16 16
  else []

/-- Fetch bodies (R146, R150). -/
def Taken.spans1 (x : Taken) : List Span :=
  let op := descOpcode x.desc
  let area := if x.fieldAt 0x30 4 = 0 then [] else writes (x.fieldAt 0x38 8) (x.fieldAt 0x30 4 * 1048576) 64
  if op = 1 then writes (x.fieldAt 0x28 8) (64 + 64 * x.maxItems) 64 ++ area
  else if op = 2 then writes (x.fieldAt 0x28 8) (8 * (if x.fieldAt 0x1E 2 = 0 then 65536 else x.fieldAt 0x1E 2)) 1
  else if op = 3 then writes (x.fieldAt 0x28 8) 128 64 ++ area
  else []

/-- Kiln bodies (R197, R198); the addresses of GF_COMBINE are checked with its geometry (R202). -/
def State.spans2 (s : State) (x : Taken) : List Span :=
  let src := x.fieldAt 0x10 8
  let item := if descOpcode x.desc = 1 ∧ x.fieldAt 0x20 4 = 0 then s.liveItem 2 x.ring (fun i => i.grist == src) else none
  let srcLen := match item with
    | some i => i.storedLen
    | none => x.fieldAt 0x20 4
  let dstLen := match item with
    | some i => if x.fieldAt 0x24 4 = 0 then alignUp i.expandedLen 64 else x.fieldAt 0x24 4
    | none => x.fieldAt 0x24 4
  if descOpcode x.desc = 3 then []
  else
    reads src srcLen 1 ++ writes (x.fieldAt 0x18 8) dstLen 64
      ++ unlessZero x.ctx ((if x.restore then reads x.ctx contextSize 4096 else []) ++ (if x.save then writes x.ctx contextSize 4096 else [])
          ++ reads x.ctx 0 4096)
      ++ unlessZero (x.fieldAt 0x30 6)
          (if 1 ≤ x.fieldAt 0x36 2 ∧ x.fieldAt 0x36 2 ≤ 1024 then reads (x.fieldAt 0x30 6 / 4096 * 4096) x.dictLen 1 else [])
      ++ unlessZero (x.fieldAt 0x38 8) (writes (x.fieldAt 0x38 8) 32 8)

/-- Mill bodies (R156). -/
def Taken.spansMill (x : Taken) : List Span :=
  reads (x.fieldAt 0x10 8) 64 1 ++ reads (x.fieldAt 0x18 8) (x.fieldAt 0x20 4) 1
    ++ (if descOpcode x.desc = 1 then writes (x.fieldAt 0x28 8) (x.fieldAt 0x30 4) 64 else [])
    ++ writes (x.fieldAt 0x38 8) 128 64

/-- The longest FP32 vector that a model named by a SCORE predicate reads. -/
def State.scoreInput (s : State) (x : Taken) : Nat :=
  ((List.range (x.fieldAt 0x24 1)).map (fun i =>
    let p := predicate (s.dramBytes (x.fieldAt 0x28 8 + 16 * i) 16)
    match Table.find s.mash.models p.arg with
    | some m => if p.kind = 3 ∧ leAt m.image 7 1 = 0 then 4 * leAt m.image 8 4 else 0
    | none => 0)).foldl max 0

/-- Lauter bodies (R232, R237). -/
def State.spans6 (s : State) (x : Taken) : List Span :=
  let op := descOpcode x.desc
  if op = 1 then
    let text := x.fieldAt 0x18 8
    let score := x.fieldAt 0x30 8
    reads (x.fieldAt 0x10 8) (if x.fieldAt 0x25 1 % 4 = 1 then 128 else 64) 1
      ++ unlessZero text (reads text (x.fieldAt 0x20 4 * (if x.fieldAt 0x25 1 / 4 % 4 = 1 then 4 else 1)) 1)
      ++ reads (x.fieldAt 0x28 8) (16 * x.fieldAt 0x24 1) 16
      ++ unlessZero score (reads score (s.scoreInput x) 1)
      ++ writes (x.fieldAt 0x38 8) 32 32
  else if op = 2 then reads (x.fieldAt 0x18 8) (x.fieldAt 0x20 4) 1 ++ writes (x.fieldAt 0x28 8) (x.fieldAt 0x30 8) 1
  else if op = 3 then
    let m := ((Table.find s.sets (x.fieldAt 0x10 1 % 4)).map (fun st => (setHead st.image).m)).getD 0
    reads (x.fieldAt 0x18 8) (x.fieldAt 0x20 4 * (if x.fieldAt 0x24 1 = 1 then 4 else 1)) 1 ++ writes (x.fieldAt 0x28 8) (4 * m) 1
  else []

/-- Mash bodies (R216, R231). -/
def State.spans7 (s : State) (x : Taken) : List Span :=
  let op := descOpcode x.desc
  if op = 1 then
    reads (x.fieldAt 0x10 8) 128 64 ++ reads (x.fieldAt 0x18 8) (32 * x.fieldAt 0x2C 1) 32
      ++ writes (x.fieldAt 0x20 8) (x.fieldAt 0x28 4) 64 ++ unlessZero (x.fieldAt 0x30 8) (reads (x.fieldAt 0x30 8) 0 64)
      ++ writes (x.fieldAt 0x38 8) 64 64
  else if op = 2 then
    let outputs := ((Table.find s.mash.models (x.fieldAt 0x10 1 % 4)).map (fun m => leAt m.image 0xC 1)).getD 0
    reads (x.fieldAt 0x18 8) (4 * x.fieldAt 0x20 4) 1 ++ writes (x.fieldAt 0x28 8) (4 * outputs) 64
  else if op = 3 then reads (x.fieldAt 0x18 8) (x.fieldAt 0x20 4) 64
  else []

/-- Token bodies (R260, R251, R258). -/
def State.spans8 (s : State) (x : Taken) : List Span :=
  let op := descOpcode x.desc
  let aux := x.fieldAt 0x38 8
  if op = 1 then
    let src := x.fieldAt 0x10 8
    if x.fieldAt 0x18 4 = 0 then
      let n := match s.liveItem 8 x.ring (fun i => i.grist == src || i.out == src) with
        | some i => if i.grist = src then i.storedLen else i.outSize
        | none => 0
      reads src n 1 ++ unlessZero aux (writes aux 64 1)
    else
      reads src (x.fieldAt 0x18 4) 1 ++ writes (x.fieldAt 0x28 8) (x.fieldAt 0x30 4) 1
        ++ unlessZero aux (reads aux 1024 64 ++ writes aux 1024 64)
  else if op = 2 then reads (x.fieldAt 0x18 8) (x.fieldAt 0x20 4) 1 ++ writes (x.fieldAt 0x28 8) (x.fieldAt 0x30 4) 1
  else []

/-- Cask bodies (R269, R273, R280): the tensor records that PACK_SLOTS lists are in a table that the body names. -/
def State.spans9 (s : State) (x : Taken) : List Span :=
  let op := descOpcode x.desc
  let manifest (a : Nat) : List Span := unlessZero a (writes a 1 1)
  if op = 1 then
    reads (x.fieldAt 0x10 8) (16 * x.fieldAt 0x18 2) 1
      ++ (List.range (x.fieldAt 0x18 2)).flatMap (fun i => reads (s.dramLe (x.fieldAt 0x10 8 + 16 * i) 8) 64 1)
      ++ manifest (x.fieldAt 0x38 8)
  else if op = 2 then manifest (x.fieldAt 0x18 8)
  else if op = 3 then
    let n := x.fieldAt 0x18 4
    reads (x.fieldAt 0x10 8) (if n ≤ 1048576 then 16 * n else 0) 16 ++ writes (x.fieldAt 0x20 8) 8 8
  else []

/-- RDMA bodies (R381). -/
def Taken.spans10 (x : Taken) : List Span :=
  let op := descOpcode x.desc
  if op = 1 then unlessZero (x.fieldAt 0x28 8) (writes (x.fieldAt 0x28 8) 32 32)
  else if op = 2 then writes (x.fieldAt 0x20 8) (x.fieldAt 0x28 4) 64
  else if op = 3 then writes (x.fieldAt 0x28 8) 4 4
  else []

/-- DMA bodies (R434, R424): host bus addresses are no device addresses. -/
def Taken.spans11 (x : Taken) : List Span :=
  let op := descOpcode x.desc
  let b := x.fieldAt 0x24 1
  if op = 1 then
    (if b / 8 % 2 = 1 then [] else reads (x.fieldAt 0x10 8) (x.fieldAt 0x20 4) 1)
      ++ (if b / 16 % 2 = 1 then [] else writes (x.fieldAt 0x18 8) (x.fieldAt 0x20 4) 1)
  else unlessZero (x.fieldAt 0x28 8) (writes (x.fieldAt 0x28 8) 32 32)

/-- Pool bodies (R439). -/
def Taken.spans12 (x : Taken) : List Span :=
  let n := 8 * x.fieldAt 0x14 1
  if descOpcode x.desc = 1 then writes (x.fieldAt 0x18 8) n 1 else reads (x.fieldAt 0x18 8) n 1

/-- Every run that a body, or a table it names, gives the engine to read or write. -/
def State.spans (s : State) (x : Taken) : List Span :=
  if x.cls = 0 then x.spans0
  else if x.cls = 1 then x.spans1
  else if x.cls = 2 then s.spans2 x
  else if x.cls ≤ 5 then x.spansMill
  else if x.cls = 6 then s.spans6 x
  else if x.cls = 7 then s.spans7 x
  else if x.cls = 8 then s.spans8 x
  else if x.cls = 9 then s.spans9 x
  else if x.cls = 10 then x.spans10
  else if x.cls = 11 then x.spans11
  else x.spans12

/-- A run is aligned and lies in a window that grants it; a run of no bytes only has to be aligned. -/
def State.spanOk (s : State) (x : Taken) (p : Span) : Bool :=
  isAligned p.addr p.align && (p.len == 0 || s.windowGrants x.cls x.ring p.kind p.addr p.len)

/-- The status of the first header check that fails (R99). -/
def State.headerError (s : State) (x : Taken) : Option Nat :=
  let a := descStatusAddr x.desc
  if descClass x.desc ≠ x.cls then some stCLASS_MISMATCH
  else if !opcodeDefined x.cls (descOpcode x.desc) (s.ring x.cls x.ring).ownerPriv then some stBAD_OPCODE
  else if a ≠ 0 && !s.statusAddrOk x.cls x.ring a then some stBAD_STATUS_ADDR
  else if !(s.spans x).all (s.spanOk x) then some stBAD_BUFFER
  else none

/-! ## The unit a descriptor goes to -/

/-- Lanes of its mill that a DECODE takes: a JPEG scan or a JPEG 2000 codestream spreads across all eight. -/
def State.millLanes (s : State) (x : Taken) : Nat :=
  let codec := s.dramLe (x.fieldAt 0x10 8 + 7) 1
  if descOpcode x.desc = 1 ∧ (codec = 1 ∨ codec = 4) then 8 else 1

/-- Free lanes of a mill. -/
def State.freeLanes (s : State) (cls mill : Nat) : Nat :=
  8 - (s.taken.filter (fun y => y.cls == cls && y.unit == mill && y.result.isNone)).foldl (fun n y => n + s.millLanes y) 0

/-- The mill with the most free lanes, the lowest-numbered among equals; `none` while every one is full. -/
def State.pickMill (s : State) (cls : Nat) : Option Nat :=
  let mills := (List.range (Config.unitCount s.part.variant cls)).filter (fun m => s.inRotation cls m && s.freeLanes cls m != 0)
  mills.foldl (fun best m => match best with
    | none => some m
    | some b => if s.freeLanes cls b < s.freeLanes cls m then some m else some b) none

/-- A unit that takes one descriptor at a time is free. -/
def State.unitFree (s : State) (cls unit : Nat) : Bool := s.unitIdle cls unit && s.fault.testing != some (cls, unit)

/-- The lowest free unit in rotation. -/
def State.lowestUnit (s : State) (cls : Nat) : Option Nat :=
  (List.range (Config.unitCount s.part.variant cls)).find? (fun u => s.inRotation cls u && s.unitFree cls u)

/-- The unit a descriptor runs on; `none`: it waits. A PIN that no unit answers to is refused by the engine itself. -/
def State.pickUnit (s : State) (x : Taken) : Option Nat :=
  let op := descOpcode x.desc
  let units := Config.unitCount s.part.variant x.cls
  if x.cls = 2 then s.lowestUnit 2
  else if 3 ≤ x.cls ∧ x.cls ≤ 5 then
    let pin := x.fieldAt 0x37 1
    if x.fieldAt 0x36 1 < 128 then s.pickMill x.cls
    else if units ≤ pin ∨ (s.inRotation x.cls pin ∧ s.freeLanes x.cls pin ≠ 0) then some pin
    else none
  else if x.cls = 7 then
    if op = 1 then
      let pin := x.fieldAt 0x2E 1
      let able (t : Nat) : Bool := s.tileIn t && s.unitFree 7 t
      if x.fieldAt 0x2F 1 < 128 then (List.range units).find? able
      else if units ≤ pin ∨ s.mash.modelTiles.contains pin ∨ able pin then some pin
      else none
    else if op = 2 then some (((Table.find s.mash.models (x.fieldAt 0x10 1 % 4)).map (fun m => m.tiles.headD 0)).getD 0)
    else some 0
  else if x.cls = 8 ∧ op = 1 then s.lowestUnit 8
  else if x.cls = 11 ∧ op = 1 then
    (List.range 64).find? (fun n => s.dmaMode n == 0 && !s.dmaPaused n && (s.dmaRun n).isNone && s.unitFree 11 n)
  else some 0

/-! ## Taking a descriptor (R87) -/

/-- The descriptor at HEAD of a ring, as its engine would take it. -/
def State.headOf (s : State) (cls ring : Nat) : Taken :=
  let r := s.ring cls ring
  let d := s.dramBytes (r.slot r.head) 64
  { cls := cls, ring := ring, core := ⟨r.ownerCore.toNat, r.ownerCore.isLt⟩, ticket := descTicket d, desc := d, unit := 0
    millCfg := (s.reg MIL_CFG).toNat, result := none }

/-- What a ring offers its engine: its head descriptor, unless BARRIER holds it or no unit is free for it, with the status of a
failed check. -/
def State.offer (s : State) (cls ring : Nat) : Option (Taken × Option Nat) :=
  let r := s.ring cls ring
  if (r.en || r.disabling) && r.waiting != 0 then
    let x := s.headOf cls ring
    if descBarrier x.desc && s.taken.any (fun y => y.cls == cls && y.ring == ring) then none
    else match s.headerError x with
      | some code => some (x, some code)
      | none => (s.pickUnit x).map (fun u => ({ x with unit := u }, none))
  else none

/-- The enabled rings of a class, in ring order. -/
def State.ringsOf (s : State) (cls : Nat) : List Nat :=
  (s.rings.filter (fun e => e.1 / 1024 == cls && (e.2.en || e.2.disabling))).map (fun e => e.1 % 1024)

/-- The order in which a class's rings are asked: the ring served last while it has turns left, then the next in ring order. -/
def State.turnOrder (s : State) (cls : Nat) : List Nat :=
  let rings := s.ringsOf cls
  match Table.find s.turns cls with
  | none => rings
  | some t =>
    let later := rings.filter (fun r => decide (t.ring < r))
    let earlier := rings.filter (fun r => decide (r ≤ t.ring))
    if t.left ≠ 0 ∧ rings.contains t.ring then t.ring :: (later ++ earlier) else later ++ earlier

/-- The ring served next, and what it offers. -/
def State.nextOffer (s : State) (cls : Nat) : Option (Taken × Option Nat) := (s.turnOrder cls).findSome? (fun r => s.offer cls r)

/-- A turn spent on a ring: WEIGHT descriptors in a row at most. -/
def State.spendRing (s : State) (cls ring : Nat) : State :=
  let fresh := zeroActsAsOne (s.ring cls ring).weight.toNat - 1
  let left := match Table.find s.turns cls with
    | some t => if t.ring = ring ∧ t.left ≠ 0 then t.left - 1 else fresh
    | none => fresh
  { s with turns := Table.put s.turns cls ⟨ring, left⟩ }

/-- A descriptor is taken: HEAD advances, the TAKE record is emitted, and a failed check ends it at once. -/
def State.take (s : State) (x : Taken) (failed : Option Nat) : State :=
  let r := s.ring x.cls x.ring
  let s := s.spendRing x.cls x.ring
  let s := s.setRing x.cls x.ring { r with head := (r.head + 1) % (2 * r.size) }
  let s := if descTrace x.desc then
      s.emit 0x01 (classPolder x.cls) (BitVec.ofNat 32 x.ticket.toNat) (BitVec.ofNat 128
        (x.cls + x.ring * 2 ^ 4 + x.core.val * 2 ^ 14 + descOpcode x.desc * 2 ^ 18 + x.unit * 2 ^ 26))
    else s
  let s := { s with taken := s.taken ++ [x] }
  match failed with
  | some code => (s.ringError x.cls x.ring).finish x code 0 []
  | none => s

/-- A class takes descriptors: its polder runs, no flush has begun (R23, R526), and the network and host classes need a running
image (R617). -/
def State.takes (s : State) (cls : Nat) : Bool :=
  s.engineRuns cls && !s.doorbellsOff && !(s.loaderOnly && (cls == 10 || cls == 11))

/-- DESCRIPTOR_TAKE (R87, R99). -/
def execDescriptorTake (cls : BitVec 4) (s : State) : Res :=
  .next (if s.takes cls.toNat then
      match s.nextOffer cls.toNat with
      | some (x, failed) => s.take x failed
      | none => s
    else s)

/-! ## Watches (R591, R592) -/

/-- Bytes of an element of a watch's FMT. -/
def watchSize (fmt : Nat) : Nat := [1, 4, 2, 2, 1, 1, 1, 4].getD fmt 1

/-- An element as a value. -/
def watchValue (fmt v : Nat) : FVal :=
  if fmt = 1 then fp32.decode v
  else if fmt = 2 then bf16.decode v
  else if fmt = 3 then fp16.decode v
  else if fmt = 4 then fp8e4m3.decode v
  else if fmt = 5 then fp8e5m2.decode v
  else if fmt = 6 then FVal.ofInt (asInt 8 v)
  else FVal.ofInt v

/-- The magnitude of a value. -/
def FVal.mag (v : FVal) : FVal := if v.isNeg then v.neg else v

/-- The statistics of a run of elements. -/
structure WatchStats where
  elements : Nat
  nans : Nat
  infs : Nat
  zeros : Nat
  low : Option FVal
  high : Option FVal
  /-- The sum, as binary64. -/
  sum : Nat
  largest : Option FVal
deriving DecidableEq, Repr

def WatchStats.empty : WatchStats := ⟨0, 0, 0, 0, none, none, 0, none⟩

/-- The lesser or the greater of what was met and a new value. -/
def keepIf (better : FVal → FVal → Bool) (old : Option FVal) (v : FVal) : Option FVal :=
  match old with
  | none => some v
  | some o => if better v o then some v else old

/-- One element more. -/
def WatchStats.step (w : WatchStats) (v : FVal) : WatchStats :=
  let w := { w with
    elements := w.elements + 1, nans := w.nans + v.isNan.toNat, infs := w.infs + v.isInf.toNat, zeros := w.zeros + v.isZero.toNat
    sum := (fp64.add w.sum (fp64.round v).1).1 }
  if v.isNan then w
  else { w with
    low := keepIf FVal.lt w.low v, high := keepIf (fun a b => b.lt a) w.high v, largest := keepIf (fun a b => b.mag.lt a.mag) w.largest v }

/-- The statistics of output bytes; FMT 0 counts bytes and zero bytes alone. -/
def watchStats (fmt : Nat) (b : List Byte) : WatchStats :=
  if fmt = 0 then { WatchStats.empty with elements := b.length, zeros := (b.filter (· == 0)).length }
  else
    let n := watchSize fmt
    (List.range (b.length / n)).foldl (fun w i => w.step (watchValue fmt (leAt b (n * i) n))) WatchStats.empty

/-- The watch condition. -/
def WatchStats.met (w : WatchStats) (nan max_ : Bool) (limit : Nat) : Bool :=
  (nan && decide (0 < w.nans + w.infs)) || (max_ && (w.largest.map FVal.mag).any (fun v => (fp32.decode limit).lt v))

/-- An FP32 statistic; without a non-NaN element the manual states none. -/
def State.watchWord (s : State) (fmt : Nat) (v : Option FVal) : Nat × State :=
  match v with
  | some v => ((fp32.round v).1, s)
  | none => if fmt = 0 then (0, s) else
    let (d, s) := s.freshFree
    (d % 2 ^ 32, s)

/-- The bytes of an output. -/
def State.outputBytes (s : State) (out : List (Nat × Nat)) : List Byte := out.flatMap (fun o => s.dramBytes o.1 o.2)

/-- One watch examines the output of a completed descriptor; `seen` bytes of it kept within the rate of R592. -/
def State.watch (s : State) (i : Nat) (x : Taken) (r : Result) (seen : Option Nat) : State :=
  let w := s.reg (DBG_WATCH_CFG + 8 * i)
  let hit := bitAt w 31 && natAt w 24 4 == x.cls && (natAt w 16 8 == 0 || natAt w 16 8 == descOpcode x.desc)
    && (natAt w 0 10 == 1023 || natAt w 0 10 == x.ring)
  if !hit then s
  else
    let whole := s.outputBytes r.output
    let b := match seen with
      | some n => whole.take n
      | none => whole
    let cut := decide (b.length < whole.length)
    let fmt := natAt w 13 3
    let st := watchStats fmt b
    let pol := classPolder x.cls
    let s := (s.count unitDBG 4 1).count unitDBG 5 b.length
    let s := if cut then s.errAdd DBG_ERR_CNT_INCOMPLETE 1 else s
    let s := s.emit 0x0D pol (BitVec.ofNat 32 x.ticket.toNat)
      (BitVec.ofNat 128 (st.elements + min st.nans 0xFFFFFFFF * 2 ^ 64 + min st.infs 0xFFFFFFFF * 2 ^ 96))
    let (low, s) := s.watchWord fmt st.low
    let (high, s) := s.watchWord fmt st.high
    let s := s.emit 0x0E pol (BitVec.ofNat 32 st.zeros) (BitVec.ofNat 128 (low + high * 2 ^ 32 + st.sum * 2 ^ 64))
    let digest := bitAt w 28 && !cut
    let (draw, s) := if bitAt w 28 && cut then s.freshFree else (0, s)
    let sum := if digest then (crc64Nvme b).toNat else draw % 2 ^ 64
    let s := s.emit 0x0F pol (BitVec.ofNat 32 (cut.toNat + 2 * digest.toNat + i * 2 ^ 8))
      (BitVec.ofNat 128 (sum + (r.output.head?.map (·.1)).getD 0 * 2 ^ 64))
    if st.met (bitAt w 30) (bitAt w 29) (s.reg (DBG_WATCH_LIMIT + 8 * i)).toNat then s.trigger 3 else s

/-- The eight watches, which examine nothing of an aborted descriptor (R598). -/
def State.watches (s : State) (x : Taken) (r : Result) (seen : Option Nat) : State :=
  if r.status.toNat = stABORTED ∨ r.output = [] then s
  else (List.range 8).foldl (fun (s : State) i => s.watch i x r seen) s

/-! ## Completion (R102) -/

/-- What waited for a descriptor to complete: unloads, core resets and STOP bits (R122, R490, R502). -/
def State.settleAll (s : State) : State := ((s.settleUnloads).settleCores).settleStops

/-- DESCRIPTOR_COMPLETE (R102, R591): a descriptor whose work has ended completes. -/
def execDescriptorComplete (c : CoreId) (t : Ticket) (seen : Option Nat) (s : State) : Res :=
  .next (match s.takenAt c t with
    | some x =>
      match x.result with
      | some r => if s.polderOn (classPolder x.cls) then ((s.completeTaken x r).watches x r seen).settleAll else s
      | none => s
    | none => s)

end Sys2Proof.Machine
end

