-- ==== Sys2Proof/Machine/Holdup.lean ====
section
/-!
DEFINITION. The 52 V input, the hold-up bank, the flush and the capacitor test (R505 to R529, R548, R549, R23 to R26).
-/

namespace Sys2Proof.Machine

open Reg

/-! ## What the bank pays for (R513 to R516) -/

/-- C_MEAS × (V² − 36.0²) in the units in which 48 × 10⁹ is E_FIX and 234,375,000 is E_UNIT of half the available energy; V is in
10 mV. -/
def State.energyAt (s : State) (v : Nat) : Nat := s.fld MGT_CAP_C_UF * (v * v - 3600 * 3600)

/-- The distinct dies of some superblocks' members. -/
def State.diesOf (s : State) (sbs : List Nat) : Nat :=
  ((sbs.flatMap (fun n => ((Table.find s.ftl.superblocks n).map (·.members)).getD [])).map (·.1)).eraseDups.length

/-- The superblocks that a flush writes to, with their next stripes: the armed ones, or the open META superblock until they are
armed. -/
def State.flushTargets (s : State) : List (Nat × Nat) :=
  if !s.ftl.armed.isEmpty && s.ftl.armed.all (fun e => s.sbReady e.1) then s.ftl.armed
  else match s.ftl.metaSb with
    | some n => [(n, s.ftl.metaStripe)]
    | none => []

/-- CAP (R516). -/
def State.flushCap (s : State) : Nat :=
  let sbs := s.flushTargets.map (·.1)
  let w := match sbs.head? with
    | some n => ((Table.find s.ftl.superblocks n).map (·.members.length)).getD 0
    | none => 0
  s.diesOf sbs * 4 * (w - 1) / w - 1

/-- HU_LIMIT for a bank voltage (R514). -/
def State.huAt (s : State) (v : Nat) : Nat :=
  min 256 (min s.flushCap ((s.energyAt v - 48000000000) / 234375000))

/-- LIMIT_EFF is the lower of DIRTY_LIMIT and HU_LIMIT; appends that now fit follow (R328). -/
def State.applyLimit (s : State) : State :=
  let s := s.setFld FTL_JNL_CFG_LIMIT_EFF (min (s.fld FTL_JNL_CFG_DIRTY_LIMIT) (s.fld MGT_HOLDUP_HU_LIMIT))
  s.drainWaiting s.ftl.waiting.length

/-- HU_LIMIT and CAP set. -/
def State.setLimit (s : State) (hu : Nat) : State :=
  ((s.setFld MGT_HOLDUP_CAP s.flushCap).setFld MGT_HOLDUP_HU_LIMIT hu).applyLimit

/-- The input switch is closed. -/
def State.inputClosed (s : State) : Bool :=
  match s.power.phase with
  | .cold | .ladder _ | .on | .entering | .asleep => true
  | .flush => s.power.flush.any (fun f => f.controlled)
  | .flushed | .off | .unpowered => false

/-- A test whose load has not been disconnected. -/
def CapTest.loaded (t : CapTest) : Bool := t.connected.isSome && t.disconnected.isNone

/-- The bank's state in `MGT_BANK` (R528). -/
def State.bankState (s : State) (v : Nat) : Nat :=
  match s.power.phase with
  | .flush => if s.power.flush.any (fun f => f.controlled) then (if decide (5940 ≤ v) then 1 else 0) else 4
  | .flushed => 5
  | .off => 6
  | _ =>
    match s.power.test with
    | some t => if t.disconnected.isSome then 3 else 2
    | none => if decide (5940 ≤ v) then 1 else 0

/-- Powered seconds since the last completed test (R528). -/
def State.testAge (s : State) : Nat := s.power.ageBase + (s.gtc - s.power.ageAt).toNat / 1000000000

/-- `MGT_BANK` after a change of the bank's state. -/
def State.showBank (s : State) : State :=
  let v := s.fld MGT_BANK_VBANK
  let s := (s.setFld MGT_BANK_STATE (s.bankState v)).setFlag MGT_BANK_ARMED (decide (48000000000 ≤ s.energyAt v))
  s.setFlag MGT_BANK_CHARGER (s.inputClosed && s.power.flush.isNone && !s.power.test.any CapTest.loaded)

/-- BANK_SAMPLE: the bank voltage and the input are measured, and HU_LIMIT follows; it does not rise in a test until its load is
disconnected (R513 to R515, R524). -/
def execBankSample (vbank vin iin : BitVec 16) (s : State) : Res :=
  .next (if s.power.phase = .unpowered then s
    else
      let v := vbank.toNat
      let s := ((s.setFld MGT_INPUT_VIN vin.toNat).setFld MGT_INPUT_IIN iin.toNat).setFld MGT_BANK_VBANK v
      let hu := s.huAt v
      match s.power.test with
      | some t =>
        match t.disconnected with
        | some d =>
          let s := if decide (2000000000 ≤ (s.gtc - d).toNat) && decide (v < 5940) then s.setFlag MGT_HEALTH_CHARGE_SLOW true else s
          (s.setLimit hu).showBank
        | none => (s.setLimit (min hu (s.fld MGT_HOLDUP_HU_LIMIT))).showBank
      | none => (s.setLimit hu).showBank)

/-! ## The input (R505, R517) -/

/-- INPUT_START: the input switch closes and a cold start begins. -/
def execInputStart (s : State) : Res := .next (if s.power.phase = .unpowered then s.coldReset else s)

/-- INPUT_HIGH. -/
def execInputHigh (s : State) : Res := .next (if s.inputClosed then s.setFlag MGT_HEALTH_INPUT_HIGH true else s)

/-- NAND_OVERLOAD (R509). -/
def execNandOverload (s : State) : Res :=
  .next (if s.inputClosed then (s.setFlag MGT_HEALTH_NAND_OVERLOAD true).errAdd MGT_ERR_CNT_NAND_OVERLOADS 1 else s)

/-- A capacitor test is abandoned without a result (R527). -/
def State.abandonTest (s : State) : State := (s.setPower { s.power with test := none }).showBank

/-- DIP: ridden through on the bank; a test is abandoned. -/
def execDip (s : State) : Res := .next (if s.inputClosed then (s.count unitMGT 0 1).abandonTest else s)

/-! ## The start of a flush (R518, R526) -/

/-- What the polders that are shed held is lost (R23), and a write of the boot flash stops (R619). -/
def State.loseShed (s : State) : State :=
  let lost := (List.range 11).filter (fun p => p != polPA && p != polPF)
  let s := { s.clearUnitsOf (fun p => lost.contains p) with
    cores := Vector.replicate 16 Core.reset, rings := [], turns := [], taken := [], qct := [], recipes := [], letters := [], letters1 := []
    host := s.host.kept, mash := ⟨[], []⟩, sets := [], vocabs := [], texts := [], store := ⟨[], [], []⟩, net := Net.reset
    dram := [], dramErr := [], fetch := Fetch.reset
    ftl := { s.ftl with writers := [], syncs := [], entry := [], waiting := [] }
    sec := { s.sec with stage := [], got := [], good := [], commit := none, commits := [] }
    power := { s.power with txDisable := true, ladder := ⟨[], [], 0, false⟩, coreReset := 0 } }
  let s := lost.foldl (fun (s : State) p => s.setPolder p 0) (s.setReg POL_CORE_RST 0)
  (s.setPolder polPF (if s.polder polPF = 2 then 3 else s.polder polPF)).loseTrace

/-- Step 3: every polder but PA and PF is stopped and gated. -/
def State.shed (s : State) (f : Flush) : State :=
  ((s.setPower { s.power with flush := some { f with shed := true } }).abandonTest).loseShed

/-- A power-fail trigger; one that finds a controlled power-off waiting lets it go on (R527). -/
def State.powerFail (s : State) (cause : Nat) : State :=
  match s.power.phase, s.power.flush with
  | .unpowered, _ => s
  | .flushed, _ => s
  | .off, _ => s.setPhase .unpowered
  | .flush, some f => if f.shed then s else (s.count unitMGT 1 1).shed f
  | _, _ =>
    let s := s.count unitMGT 1 1
    (s.setPhase .flush).shed ⟨cause, false, s.gtc, true, s.flag FLT_STATUS_SAFE, false⟩

/-- POWER_FAIL_TRIGGER. -/
def execPowerFailTrigger (s : State) : Res := .next (s.powerFail 1)
/-- OVERVOLTAGE. -/
def execOvervoltage (s : State) : Res := .next (s.powerFail 2)
/-- OVERCURRENT. -/
def execOvercurrent (s : State) : Res := .next (s.powerFail 3)

/-- A controlled power-off starts; it is ignored in a flush and while the module is off. -/
def State.powerOff (s : State) : State :=
  if !s.inputClosed || s.power.flush.isSome then s
  else
    let s := s.count unitMGT 5 1
    (s.setPower { s.power with
      phase := .flush, flush := some ⟨4, true, s.gtc, false, s.flag FLT_STATUS_SAFE, false⟩ }).showBank

/-- A write of `MGT_CTL`, or the sideband command (R526). -/
def State.writeMgtCtl (s : State) (w : Writer) (value : Word32) : State :=
  if natAt value 16 16 = 0x5A3C ∧ bitAt value 0 ∧ (w = .sideband ∨ s.mayWrite w) then s.powerOff else s

/-- CONTROLLED_POWER_OFF. -/
def execControlledPowerOff (w : Writer) (value : Word32) (s : State) : Res := .next (s.writeMgtCtl w value)
/-- EJECTOR_OPEN (R549). -/
def execEjectorOpen (s : State) : Res := .next s.powerOff
/-- THERMAL_POWER_OFF: at 115 °C, in units of 0.1 °C (R548). -/
def execThermalPowerOff (temp : Int) (s : State) : Res := .next (if 1150 ≤ temp then s.powerOff else s)

/-! ## The end of a flush (R518 to R521) -/

/-- One unit is programmed in the next stripe of a flush target, not on member `avoid`, and its stripe is closed by R299. Answers
the member. -/
def State.flushUnit (s : State) (t : Nat × Nat) (avoid : Option Nat) (kind lua : Nat) (data : List Byte) : Option Nat × State :=
  match Table.find s.ftl.superblocks t.1 with
  | none => (none, s)
  | some x =>
    let w := x.members.length
    let pm := parityMember t.1 t.2 w
    match (List.range w).find? (fun i => i != pm && avoid != some i) with
    | none => (none, s)
    | some m =>
      if s.stripesPer ≤ t.2 then (none, s)
      else
        let seq := s.ftl.nextSeq
        let unit : Codeword := ⟨data, oobBytes data lua kind 0 seq, []⟩
        let filler : Codeword := ⟨fillerData, oobBytes fillerData 0 kindFiller 0 seq, []⟩
        let words := (List.range 4).flatMap (fun cw =>
          let u := if cw = 0 then unit else filler
          [(packLoc t.1 m (t.2 / 4) (t.2 % 4) cw, u), (packLoc t.1 pm (t.2 / 4) (t.2 % 4) cw, parityWord [u] (2 ^ m) seq)])
        (some m, { s.programWords words with ftl := { s.ftl with nextSeq := seq + 1 } })

/-- The journal pages of every record that is not durable, on the targets in turn (R518 step 5). -/
def State.flushJournal (s : State) (targets : List (Nat × Nat)) : Nat → List (Nat × Nat) × State
  | 0 => (targets, s)
  | k + 1 =>
    match targets, s.ftl.journal with
    | _, [] => (targets, s)
    | [], _ => ([], s)
    | t :: rest, _ =>
      let rs := s.ftl.journal.take 126
      match s.flushUnit t none kindJournal (s.ftl.jseq % 2 ^ 40) (journalPage s.ftl.jseq s.ftl.start rs) with
      | (none, s) => s.flushJournal rest k
      | (some _, s) =>
        let s := { s with ftl := { s.ftl with
          journal := s.ftl.journal.drop rs.length, jseq := s.ftl.jseq + 1, flashed := s.ftl.flashed + 4096 } }
        s.flushJournal (rest ++ [(t.1, t.2 + 1)]) k

/-- The wordlines of a round in flight end (R518 step 6). -/
def State.endPrograms (s : State) (st : WriteStream) : State :=
  let o := s.stream st
  match o.sb.bind (fun n => (Table.find s.ftl.superblocks n).map (fun x => (n, x))) with
  | some (n, x) =>
    if o.programming && s.sbReady n then
      let w := x.members.length
      let left := (List.range w).filter (fun m => !o.done.contains m)
      left.foldl (fun (s : State) m => (s.programWords (wordline n w o m)).count unitFLS 4 16) s
    else s
  | none => s

/-- A write pointer of the cursor unit (R519): superblock, next page, next plane. -/
def writePointer (sb : Option Nat) (page plane : Nat) : List Byte :=
  leBytes 4 (sb.getD 0) ++ leBytes 2 page ++ leBytes 1 plane ++ zeros 9

def OpenStream.pointer (o : OpenStream) : List Byte :=
  writePointer o.sb (4 * (o.round + o.programming.toNat)) 0

/-- A restart point of the cursor unit. -/
def restartBytes (e : Word32 × Word64) : List Byte :=
  leBytes 4 (e.1.toNat &&& 0x8000FFFF) ++ leBytes 8 e.2.toNat ++ zeros 4

/-- The cursor unit (R519). -/
def State.cursorBytes (s : State) (f : Flush) (journal : Bool) : List Byte :=
  let body := leBytes 4 0x5255434B ++ leBytes 2 1 ++ leBytes 1 f.cause ++ leBytes 1 (journal.toNat + 2 * f.safe.toNat)
    ++ leBytes 8 s.ftl.jseq ++ leBytes 8 s.topSeq ++ leBytes 8 f.at_.toNat
    ++ s.ftl.user.pointer ++ s.ftl.gcStream.pointer ++ writePointer s.ftl.metaSb (s.ftl.metaStripe / 4) (s.ftl.metaStripe % 4)
    ++ (match s.ftl.gc with
      | some g => leBytes 8 (g.victim + 2 ^ 63)
      | none => zeros 8)
    ++ leBytes 8 (s.flash.patrolAt + s.fld FLS_PATROL_STAT_PROGRESS * 2 ^ 32)
    ++ (List.range 8).flatMap (fun n => restartBytes (Table.at (0, 0) s.power.restart n))
    ++ leBytes 2 (s.fld MGT_CAP_C_UF) ++ leBytes 2 (s.fld MGT_CAP_ESR_MOHM) ++ leBytes 4 s.testAge
  let bytes := fitBytes 0xFF8 body
  bytes ++ leBytes 8 (crc64 bytes).toNat

/-- CURSOR_LUA. -/
def cursorLua : Nat := 0xFFFFFFFFFE

/-- The two copies of the cursor unit, on dies of different channels. -/
def State.writeCursors (s : State) (f : Flush) (journal : Bool) (targets : List (Nat × Nat)) : State :=
  match targets with
  | [] => s
  | t :: _ =>
    let bytes := s.cursorBytes f journal
    let victim := s.ftl.gc.map (fun g => g.victim)
    let (m, s) := s.flushUnit t none kindMetadata cursorLua bytes
    let (_, s) := s.flushUnit (t.1, t.2 + 1) m kindMetadata cursorLua bytes
    if m.isNone then s
    else { s with ftl := { s.ftl with cursor := some ⟨s.topSeq, victim, s.flash.patrolAt, bytes⟩ } }

/-- What the flush writes (R518 steps 5 and 6, R520). -/
def State.writeFlush (s : State) (f : Flush) : State :=
  if !s.polderOn polPF || !s.flag MGT_BANK_ARMED then s
  else
    let s := ((s.endPrograms .userData).endPrograms .reclaim)
    if f.cut || !s.mounted then s
    else
      let journal := !f.safe
      let (targets, s) := if journal then s.flushJournal s.flushTargets (s.ftl.journal.length + s.flushTargets.length + 1)
        else (s.flushTargets, s)
      s.writeCursors f journal targets

/-- Taken descriptors of classes 0x0 and 0xA have completed and DIRTY is 0, or 100 ms have passed (R526). -/
def State.offReady (s : State) (f : Flush) : Bool :=
  (s.ftl.journal.isEmpty && !s.taken.any (fun x => (x.cls == 0 || x.cls == 10))) || decide (100000000 ≤ (s.gtc - f.at_).toNat)

/-- FLUSH_END: once every array operation has ended, WP_N is asserted and the rails fall. A controlled power-off that still waits
goes on to its shedding first. -/
def execFlushEnd (s : State) : Res :=
  .next (match s.power.flush with
    | none => s
    | some f =>
      if !f.shed then (if s.offReady f then s.shed f else s)
      else
        let s := s.writeFlush f
        let s := (s.setPolder polPF 0).count unitMGT 2 1
        (s.setPower { s.power with
          writeProtect := true, flush := none, phase := if f.controlled then .off else .flushed }).showBank)

/-- POST_FLUSH_RESTART: a cold start where the input has stood at 46.0 V for 100 ms, and no power otherwise (R521). -/
def execPostFlushRestart (recovered : Bool) (s : State) : Res :=
  .next (if s.power.phase = .flushed then (if recovered then s.coldReset else s.setPhase .unpowered) else s)

/-- POWER_ON_COMMAND: in OFF, after an address match, a cold start (R526). -/
def execPowerOnCommand (s : State) : Res :=
  .next (if s.power.phase = .off ∧ s.power.matched then s.coldReset else s)

/-! ## The capacitor test (R523 to R525) -/

/-- A test is due or was asked for. -/
def State.testDue (s : State) : Bool :=
  let h := s.fld MGT_TEST_CFG_TEST_H
  s.power.testAsked || (h != 0 && decide (max 24 h * 3600 ≤ s.testAge))

/-- What a test needs. -/
def State.testMayStart (s : State) : Bool :=
  s.inputClosed && s.power.flush.isNone && s.power.test.isNone && decide (5940 ≤ s.fld MGT_BANK_VBANK)
    && decide (4400 ≤ s.fld MGT_INPUT_VIN) && decide (s.fld MGT_INPUT_VIN ≤ 5800) && decide (86400 ≤ s.testAge)
    && decide (s.power.retryAt ≤ s.gtc)

/-- CAPACITOR_TEST: step 1 of R524. -/
def execCapacitorTest (s : State) : Res :=
  .next (if s.testDue && s.testMayStart then
      let s := s.setPower { s.power with test := some ⟨s.gtc, none, none, false⟩, testAsked := false }
      (s.setLimit (s.huAt 5600)).showBank
    else s)

/-- A write of REQUEST. -/
def State.askTest (s : State) : State :=
  if s.testAge < 86400 then s.setFlag MGT_TEST_CFG_REFUSED true else s.setPower { s.power with testAsked := true }

/-- CAPACITOR_TEST_REQUEST. -/
def execCapacitorTestRequest (w : Writer) (s : State) : Res := .next (if s.mayWrite w then s.askTest else s)

/-- TEST_LOAD_CONNECT: step 2 of R524; `drop` is the instant drop in mV. -/
def execTestLoadConnect (drop : BitVec 16) (s : State) : Res :=
  .next (match s.power.test with
    | some t =>
      if t.connected.isSome then s
      else if s.ftl.dirty ≤ s.fld MGT_HOLDUP_HU_LIMIT * 65536 then
        let s := s.setPower { s.power with test := some { t with connected := some (s.gtc, drop.toNat) } }
        (s.setFld MGT_CAP_ESR_MOHM drop.toNat).showBank
      else if decide (100000000 ≤ (s.gtc - t.at_).toNat) then
        let s := s.setPower { s.power with test := none, testAsked := true, retryAt := s.gtc + 600000000000 }
        let s := (s.setFlag MGT_TEST_CFG_POSTPONED true).count unitMGT 4 1
        (s.setLimit (s.huAt (s.fld MGT_BANK_VBANK))).showBank
      else s
    | none => s)

/-- C_MEAS of a test in µF; `none` is a test fault (R524, R525). -/
def measured (ns drop : Nat) : Option Nat :=
  if 60000000 < ns ∨ 4000 ≤ drop then none
  else if 8160 < ns / (4000 - drop) then none
  else some (ns / (4000 - drop))

/-- TEST_LOAD_DISCONNECT: step 3 of R524, once V is at 56.0 V or the load has been connected for more than 60 ms. -/
def execTestLoadDisconnect (s : State) : Res :=
  .next (match s.power.test with
    | some t =>
      match t.connected with
      | some (at_, drop) =>
        let ns := (s.gtc - at_).toNat
        if t.disconnected.isSome || (decide (5600 < s.fld MGT_BANK_VBANK) && decide (ns ≤ 60000000)) then s
        else match measured ns drop with
          | some c =>
            let s := s.setPower { s.power with test := some { t with disconnected := some s.gtc }, faults := 0 }
            ((s.setFld MGT_CAP_C_UF c).setLimit ((s.setFld MGT_CAP_C_UF c).huAt (s.fld MGT_BANK_VBANK))).showBank
          | none =>
            let s := s.setPower { s.power with
              test := some { t with disconnected := some s.gtc, fault := true }, faults := s.power.faults + 1 }
            ((s.setFlag MGT_HEALTH_TEST_FAULT true).errAdd MGT_ERR_CNT_TEST_FAULTS 1).showBank
      | none => s
    | none => s)

/-- TEST_END: step 5 of R524 and the judgement of R525; FAILED is a doubt of the hold-up sequencer. -/
def execTestEnd (s : State) : Res :=
  .next (match s.power.test with
    | some t =>
      if t.disconnected.isNone || decide (s.fld MGT_BANK_VBANK < 5940) then s
      else
        let c := s.fld MGT_CAP_C_UF
        let failed := decide (c < 2246) || decide (2 ≤ s.power.faults)
        let s := s.setPower { s.power with test := none, tested := true, ageBase := 0, ageAt := s.gtc }
        let s := (s.setFlag MGT_HEALTH_WORN (decide (c < 4688))).setFlag MGT_HEALTH_ESR_HIGH (decide (500 < s.fld MGT_CAP_ESR_MOHM))
        let s := ((s.setFlag MGT_HEALTH_FAILED failed).count unitMGT 3 1).showBank
        if failed then s.doubt 7 polPA 0 0 else s
    | none => s)

/-! ## Restart points (R528) -/

/-- A write of `MGT_RESTARTn_HI` copies the three words together. -/
def State.writeRestart (s : State) (n : Nat) (value : Word32) : State :=
  let s := s.setReg (MGT_RESTART_HI + 12 * n) value
  let seq : Word64 := (value ++ s.reg (MGT_RESTART_LO + 12 * n))
  s.setPower { s.power with
    restart := Table.put s.power.restart n (s.reg (MGT_RESTART_DS + 12 * n), seq) }

/-- RESTART_WRITE. -/
def execRestartWrite (w : Writer) (n : BitVec 3) (value : Word32) (s : State) : Res :=
  .next (if s.mayWrite w then s.writeRestart n.toNat value else s)

end Sys2Proof.Machine
end

