-- ==== Sys2Proof/Machine/Sec.lean ====
section
/-!
DEFINITION. The management controller's identity and firmware work: attestation and the mailbox (R604 to R609), debug unlock (R618),
receiving, writing and activating an image (R612 to R615), R619.
-/

namespace Sys2Proof.Machine

open Reg

/-! ## The mailbox (R608) -/

def mbOK : Nat := 0
def mbRATE_LIMITED : Nat := 2
def mbEXHAUSTED : Nat := 3
def mbBAD_REQUEST : Nat := 4
def mbBAD_TOKEN : Nat := 5

/-- The host, M privilege, the unlocked debug port and the sideband reach the mailbox. -/
def State.mayMail (s : State) (w : Writer) : Bool :=
  match w with
  | .sideband => true
  | _ => s.mayWrite w

/-- The controller's answer: response bytes from offset 0, and DONE, STATUS and LEN. -/
def State.answerMail (s : State) (status : Nat) (response : List Byte) : State :=
  let s := s.setSec { s.sec with mbox := Mem.store s.sec.mbox 0 response }
  s.setReg SEC_MBOX_CTL (BitVec.ofNat 32 (2 ^ 30 + status * 2 ^ 27 + ceilDiv response.length 8 * 8))

/-- A request's field in the mailbox. -/
def State.mailBytes (s : State) (off n : Nat) : List Byte := Mem.bytes s.sec.mbox off n

/-! ## Attestation (R605 to R609) -/

/-- An index that no reservation covers is reserved first: ATT_FLOOR is programmed ahead of its block and the record ring written
(R605, R606). -/
def State.reserveIndex (s : State) : State :=
  let x := s.sec
  if x.next < x.reserved then s
  else
    let last := min (2 ^ 30 - 1) (x.next + 63)
    { s.setSec { x with
        otp := { x.otp with floor := max x.otp.floor (last / 2 ^ 18 + 1) }, reserved := last + 1
        slot := (x.slot + 1) % 16384, seqNo := x.seqNo + 1 } with
      bootFlash := Mem.store s.bootFlash (recordRing + 64 * x.slot) (recordBytes x.seqNo last) }

/-- FLAGS of a report. -/
def State.reportFlags (s : State) : Nat :=
  s.loaderOnly.toNat + 2 * (s.flag SEC_DBG_UNLOCKED).toNat + 4 * (s.flag FLT_STATUS_SAFE).toNat
    + 8 * (s.fld SEC_FW_STATE_STATE == fwWritten).toNat

/-- Bytes 0x000 to 0x0C7 of a report for an index (R609). -/
def State.reportBody (s : State) (q : Nat) : List Byte :=
  leBytes 4 0x5454414B ++ leBytes 2 1 ++ leBytes 1 s.reportFlags ++ leBytes 1 s.sec.otp.svn ++ leBytes 2 (Config.hwType s.part.variant) ++ zeros 6
    ++ leBytes 16 s.part.serial.toNat ++ s.mailBytes 0x20 32 ++ fitBytes 32 ((s.sec.image.map (fun i => i.1)).getD [])
    ++ fitBytes 32 Config.loaderHash ++ leBytes 4 s.part.dclass.toNat ++ leBytes 4 ((s.sec.image.map (fun i => i.2.1.toNat)).getD 0)
    ++ leBytes 4 q ++ leBytes 4 (2 ^ 30 - q - 1) ++ leBytes 8 s.gtc.toNat ++ fitBytes 16 s.sec.moduleSerial ++ fitBytes 32 Config.certHash

/-- OP 1. -/
def State.attest (s : State) : State :=
  let tokens := s.fld SEC_ATT_TOKENS_TOKENS
  if s.sec.left = 0 then s.answerMail mbEXHAUSTED []
  else if tokens = 0 then
    let wait := 1000000000 - (s.gtc - s.sec.refilled).toNat
    s.answerMail mbRATE_LIMITED (leBytes 4 (ceilDiv wait 1000000))
  else
    let s := (s.setFld SEC_ATT_TOKENS_TOKENS (tokens - 1)).reserveIndex
    let q := s.sec.next
    let body := s.reportBody q
    let s := (s.setSec { s.sec with next := q + 1 }).showSec
    s.answerMail mbOK (body ++ fitBytes sigLen (Config.hssSign q body))

/-- ATTEST. -/
def execAttest (w : Writer) (s : State) : Res := .next (if s.mayMail w then s.attest else s)

/-- TOKEN_REFILL: a token for each second of GTC time (R607). -/
def execTokenRefill (s : State) : Res :=
  .next (if (s.gtc - s.sec.refilled).toNat < 1000000000 then s
    else
      let s := s.setSec { s.sec with refilled := s.sec.refilled + 1000000000 }
      s.setFld SEC_ATT_TOKENS_TOKENS (min 16 (s.fld SEC_ATT_TOKENS_TOKENS + 1)))

/-- OP 2. -/
def State.readCert (s : State) : State :=
  let off := leNat (s.mailBytes 0 4)
  if off % 4096 ≠ 0 then s.answerMail mbBAD_REQUEST []
  else s.answerMail mbOK (Mem.bytes s.bootFlash (certArea + off) (min 4096 (blockSize - off)))

/-- READ_CERT. -/
def execReadCert (w : Writer) (s : State) : Res := .next (if s.mayMail w then s.readCert else s)

/-! ## Debug unlock (R618) -/

/-- OP 3. -/
def State.debugChallenge (s : State) : State :=
  let (draw, s) := s.freshFree
  let bytes := (List.range 32).map (Config.challengeByte draw)
  (s.setSec { s.sec with challenge := some (bytes, s.gtc) }).answerMail mbOK bytes

/-- DBG_CHALLENGE. -/
def execDbgChallenge (w : Writer) (s : State) : Res := .next (if s.mayMail w then s.debugChallenge else s)

/-- The token in the mailbox is good for the challenge. -/
def State.tokenGood (s : State) : Bool :=
  match s.sec.challenge with
  | none => false
  | some (bytes, at_) =>
    let key := s.mailBytes 0 60
    let scope := s.mailBytes 60 4
    decide ((s.gtc - at_).toNat ≤ 60000000000) && s.sec.otp.dbgKey && sha256 key == Config.dbgHash
      && hssVerify key (bytes ++ leBytes 16 s.part.serial.toNat ++ scope) (s.mailBytes 64 sigLen)

/-- OP 4. -/
def State.debugUnlock (s : State) : State :=
  if s.flag SEC_DBG_BLOCKED then s.answerMail mbBAD_TOKEN []
  else if s.tokenGood then
    let scope := natAt (BitVec.ofNat 32 (leNat (s.mailBytes 60 4))) 0 2
    let s := s.setSec { s.sec with challenge := none, failures := 0 }
    ((s.setFlag SEC_DBG_UNLOCKED true).setFld SEC_DBG_SCOPE scope).answerMail mbOK []
  else
    let s := s.setSec { s.sec with challenge := none, failures := s.sec.failures + 1 }
    (if 3 ≤ s.sec.failures then s.setFlag SEC_DBG_BLOCKED true else s).answerMail mbBAD_TOKEN []

/-- DBG_UNLOCK. -/
def execDbgUnlock (w : Writer) (s : State) : Res := .next (if s.mayMail w then s.debugUnlock else s)

/-- A write of OP. -/
def State.mailOp (s : State) (op : Nat) : State :=
  match op with
  | 0 => s
  | 1 => s.attest
  | 2 => s.readCert
  | 3 => s.debugChallenge
  | 4 => s.debugUnlock
  | _ => s.answerMail mbBAD_REQUEST []

/-! ## Security version and activation (R614, R615) -/

/-- A write of COMMIT. -/
def State.commitSvn (s : State) : State :=
  match s.sec.image with
  | some i => (s.setSec { s.sec with otp := { s.sec.otp with svn := max s.sec.otp.svn i.2.2 } }).showSec
  | none => s

/-- SVN_COMMIT. -/
def execSvnCommit (w : Writer) (s : State) : Res := .next (if s.mayWrite w then s.commitSvn else s)

/-- A write of `SEC_ACT_AT_HI`. -/
def State.armActivation (s : State) (value : Word32) : State :=
  let at_ : Word64 := value ++ s.reg SEC_ACT_AT_LO
  if at_.toNat < s.gtc.toNat + 100000000 ∨ s.fld SEC_FW_STATE_STATE ≠ fwWritten then s.setFlag SEC_ACT_STAT_LATE true
  else ((s.setReg SEC_ACT_AT_HI value).setSec { s.sec with actAt := at_ }).setFlag SEC_ACT_STAT_ARMED true

/-- ACTIVATION_ARM. -/
def execActivationArm (w : Writer) (value : Word32) (s : State) : Res := .next (if s.mayWrite w then s.armActivation value else s)

/-- An armed activation is disarmed. -/
def State.disarm (s : State) : State :=
  if s.flag SEC_ACT_STAT_ARMED then (s.setFlag SEC_ACT_STAT_ARMED false).setFlag SEC_ACT_STAT_MISSED true else s

/-- DISARM. -/
def execDisarm (w : Writer) (s : State) : Res := .next (if s.mayWrite w then s.disarm else s)

/-- ACTIVATION: at the armed value the module fences and makes a warm reset. -/
def execActivation (loaderOk : Bool) (s : State) : Res :=
  .next (if s.flag SEC_ACT_STAT_ARMED && decide (s.sec.actAt ≤ s.gtc) && s.power.phase.resets then s.setFenced.warmReset loaderOk
    else s)

/-! ## Receiving an image (R612) -/

def nvmeBadSlot : Nat := nvmeStatus 1 0x06 true
def nvmeBadImage : Nat := nvmeStatus 1 0x07 true
def nvmeNeedsReset : Nat := nvmeStatus 1 0x0B true
def nvmeProhibited : Nat := nvmeStatus 1 0x13 true
def nvmeOverlap : Nat := nvmeStatus 1 0x14 true

/-- The staging area. -/
def stageSize : Nat := 48 * 2 ^ 20

/-- The completion of a firmware command. -/
def State.fwComplete (s : State) (sender : FwSender) (status : Nat) : State :=
  match sender with
  | .nvme cid => s.nvmeComplete 0 0 cid 0 status
  | .manager cid => s.completeCommand (.manager cid) 0 status

/-- Bytes of a range that lie in a block. -/
def inBlock (i : Nat) (r : Nat × Nat) : Nat := min (r.1 + r.2) ((i + 1) * blockSize) - max r.1 (i * blockSize)

/-- Every byte of a block has been received. -/
def Sec.complete (x : Sec) (i : Nat) : Bool := (x.got.map (inBlock i)).foldl (· + ·) 0 == blockSize

/-- A range without its part in a block. -/
def cutBlock (i : Nat) (r : Nat × Nat) : List (Nat × Nat) :=
  let lo := i * blockSize
  let hi := lo + blockSize
  if inBlock i r = 0 then [r]
  else [(r.1, lo - r.1), (max r.1 hi, r.1 + r.2 - max r.1 hi)].filter (fun q => decide (0 < q.2))

/-- A block that fails its CRC is discarded and counted. -/
def State.discardBlock (s : State) (i : Nat) : State :=
  (s.setSec { s.sec with got := s.sec.got.flatMap (cutBlock i) }).errAdd SEC_FW_STAT_CRC_FAIL 1

/-- Image bytes reach the staging area: the status of the download. -/
def State.stageBytes (s : State) (off : Nat) (data : List Byte) : Nat × State :=
  let x := s.sec
  if x.commit.isSome then (nvmeProhibited, s)
  else if off % 4 ≠ 0 ∨ stageSize ≤ off ∨ stageSize < off + data.length then (nvmeBadField, s)
  else if x.got.any (fun r => !apart r.1 r.2 off data.length) then (nvmeOverlap, s)
  else
    let x := { x with stage := Mem.store x.stage off data, got := x.got ++ [(off, data.length)] }
    let s := s.setSec x
    if !x.complete 0 then (nvmeOk, s)
    else
      let new := (List.range 768).filter (fun i => i != 0 && x.complete i && !x.good.contains i)
      let bad := new.filter (fun i => !blockGood x.stage 0 i)
      let s := s.setSec { x with good := x.good ++ new.filter (fun i => !bad.contains i) }
      let s := (bad.foldl (fun (s : State) i => s.discardBlock i) s).showSec
      (if bad.isEmpty then nvmeOk else nvmeBadField, s)

/-- FIRMWARE_IMAGE_DOWNLOAD: from the PF's admin queue, or from the manager with its bytes. -/
def execFirmwareImageDownload (src : FwSrc) (offset : Nat) (data : List Byte) (s : State) : Res :=
  .next (match src with
    | .nvme => s.adminCommand 0 0x11 (fun s e =>
        let (st, s) := s.stageBytes (4 * cmdDw e 11) (s.prpRead 0 e (4 * (cmdDw e 10 + 1)))
        s.fwComplete (.nvme (cmdCid e)) st)
    | .manager cid =>
      let (st, s) := s.stageBytes offset data
      s.fwComplete (.manager cid.toNat) st)

/-! ## Writing an image (R613) -/

/-- A signed revocation's mask: the payload is a single block with the magic (R613). -/
def revocationMask (m : Mem) : Option (BitVec 4) :=
  if imageBlocks m 0 = 2 ∧ Mem.readLe m blockSize 4 = 0x4B565252 then some (BitVec.ofNat 4 (Mem.readLe m (blockSize + 4) 4)) else none

/-- The checks refuse a commit: its reason, and staging is cleared. -/
def State.refuseImage (s : State) (sender : FwSender) (reason : Nat) : State :=
  let s := s.setSec { s.sec with stage := [], got := [], good := [] }
  ((s.setFld SEC_FW_STATE_REASON reason).showSec).fwComplete sender nvmeBadImage

/-- The status of a commit that succeeds. -/
def commitStatus (ca : Nat) : Nat := if ca = 1 then nvmeNeedsReset else nvmeOk

/-- A commit that succeeded completes. -/
def State.commitDone (s : State) (c : FwCommit) : State := s.fwComplete c.sender (commitStatus c.ca)

/-- A commit runs: the checks, then a revocation, or the write of which the first step erases block 0. -/
def State.runCommit (s : State) (c : FwCommit) : State :=
  let m := s.sec.stage
  match s.imageReason m 0 with
  | some reason => s.refuseImage c.sender reason
  | none =>
    match revocationMask m with
    | some mask =>
      let key := Mem.bytes m 0x48 60
      if (s.sec.otp.rootOf key).any (fun i => bitAt mask i) then s.refuseImage c.sender 4
      else ((s.setSec { s.sec with otp := { s.sec.otp with revoked := s.sec.otp.revoked ||| mask } }).showSec).commitDone c
    | none =>
      let s := { s with bootFlash := Mem.store s.bootFlash imageArea (List.replicate blockSize 0xFF) }
      let s := s.disarm.setSec { s.sec with commit := some { c with tries := 1 } }
      s.setFld SEC_FW_STATE_STATE fwWriting

/-- A commit that arrives runs, or waits for the write that runs (R619). -/
def State.commitImage (s : State) (sender : FwSender) (ca : Nat) : State :=
  if s.sec.commit.isSome then s.setSec { s.sec with commits := s.sec.commits ++ [⟨sender, ca, 0⟩] }
  else s.runCommit ⟨sender, ca, 0⟩

/-- FS and CA as R413 judges them. -/
def State.fwCommit (s : State) (sender : FwSender) (fs ca : Nat) : State :=
  if fs ≠ 1 then s.fwComplete sender nvmeBadSlot
  else if 1 < ca then s.fwComplete sender nvmeBadField
  else s.commitImage sender ca

/-- FIRMWARE_COMMIT. -/
def execFirmwareCommit (src : FwSrc) (fs ca : BitVec 3) (s : State) : Res :=
  .next (match src with
    | .nvme => s.adminCommand 0 0x10 (fun s e => s.fwCommit (.nvme (cmdCid e)) (cmdDw e 10 % 8) (cmdDw e 10 / 8 % 8))
    | .manager cid => s.fwCommit (.manager cid.toNat) fs.toNat ca.toNat)

/-- Commits that waited run until one starts a write. -/
def State.nextCommit (s : State) : Nat → State
  | 0 => s
  | k + 1 =>
    match s.sec.commit, s.sec.commits with
    | none, c :: rest => ((s.setSec { s.sec with commits := rest }).runCommit c).nextCommit k
    | _, _ => s

/-- The image is in the boot flash. -/
def State.imageWritten (s : State) (c : FwCommit) (loaderOk : Bool) : State :=
  let n := imageBlocks s.sec.stage 0 * blockSize
  let s := { s with bootFlash := Mem.store s.bootFlash imageArea (Mem.bytes s.sec.stage 0 n) }
  let s := ((s.setSec { s.sec with commit := none }).setFld SEC_FW_STATE_STATE fwWritten).commitDone c
  let s := s.nextCommit s.sec.commits.length
  if s.loaderOnly && s.power.phase.resets && s.sec.commit.isNone then s.warmReset loaderOk else s

/-- A second readback failed: what the image area holds is open. -/
def State.imageLost (s : State) (c : FwCommit) : State :=
  let n := imageBlocks s.sec.stage 0 * blockSize
  let (draw, s) := s.freshFree
  let s := { s with bootFlash := Mem.store s.bootFlash imageArea ((List.range n).map (fun i => Config.rawByte draw i)) }
  let s := (s.setSec { s.sec with commit := none }).setFld SEC_FW_STATE_STATE (if s.loaderOnly then fwLoaderOnly else fwRunning)
  let s := (s.setFld SEC_FW_STATE_REASON 9).fwComplete c.sender nvmeBadImage
  s.nextCommit s.sec.commits.length

/-- IMAGE_WRITE_DONE: the write has ended, and `ok` says whether the readback passes. -/
def execImageWriteDone (ok loaderOk : Bool) (s : State) : Res :=
  .next (match s.sec.commit with
    | none => s
    | some c =>
      if ok then s.imageWritten c loaderOk
      else if c.tries < 2 then s.setSec { s.sec with commit := some { c with tries := c.tries + 1 } }
      else s.imageLost c)

end Sys2Proof.Machine
end

