-- ==== Sys2Proof/Machine/RegAccess.lean ====
section
/-!
DEFINITION. Reads and writes of the BAR2 register space (R12, R13, R560, R561, R624 to R631): what each register shows, and what a
write of it does. A register without a behaviour of its own follows its access codes.
-/

namespace Sys2Proof.Machine

open Reg

/-! ## Counters (R560, R561, R153) -/

/-- The event counter whose pair of words holds an offset, and whether it is the high word. -/
def eventPair (off : Nat) : Option (Nat × Nat × Bool) :=
  match unitAt off with
  | some u =>
    let d := off - unitBase u
    let k := (d - 0x100) / 8
    if decide (0x100 ≤ d) && decide (k < (unitRows.getD u ⟨0, 0, 0⟩).events) then some (u, k, d % 8 == 4) else none
  | none => none

/-- One word of a counter. -/
def Counter.word (c : Counter) (hi : Bool) : Word32 :=
  if hi then BitVec.ofNat 32 (c.ovf.toNat * 2 ^ 31 + c.count.toNat / 2 ^ 32) else c.count.setWidth 32

/-- A write of a counter's high word: OVF is cleared by a 1, in the live counter and in the snapshot. -/
def State.clearOvf (s : State) (u k : Nat) (value : Word32) : State :=
  if bitAt value 31 then
    let key := eventKey u k
    let off (t : Table Counter) : Table Counter := Table.write Counter.zero t key { (Table.at Counter.zero t key) with ovf := false }
    { s with events := off s.events, eventSnap := off s.eventSnap }
  else s

/-- The unit whose snapshot latch lies at an offset: base + 0x0FC (R630). -/
def latchAt (off : Nat) : Option Nat :=
  match unitAt off with
  | some u => if off = unitBase u + 0xFC then some u else none
  | none => none

/-- A 48-bit count of a ring, low or high word (R595). -/
def countWord (n : Nat) (hi : Bool) : Word32 := if hi then BitVec.ofNat 32 (n / 2 ^ 32) else BitVec.ofNat 32 n

/-! ## Windows -/

/-- Word `i` of a fault log entry (R574). -/
def LogEntry.word (e : LogEntry) (i : Nat) : Word32 :=
  if i = 0 then e.gtc.setWidth 32
  else if i = 1 then bitsAt e.gtc 32 32
  else if i = 2 then BitVec.ofNat 32 e.word2
  else e.value

/-- The windows of memory in the register space: save memory, fault log, trace buffer page and mailbox (R495, R574, R588, R608). -/
inductive RegWindow where
  | save (a : Nat) | log (i word : Nat) | trace (i word : Nat) | mail (a : Nat)
deriving DecidableEq, Repr

def State.regWindow (s : State) (off : Nat) : Option RegWindow :=
  if 0x00110000 ≤ off ∧ off < 0x00120000 then some (.save (off - 0x00110000))
  else if 0x00400400 ≤ off ∧ off < 0x00400800 then some (.log ((off - 0x00400400) / 16) (off / 4 % 4))
  else if 0x05100000 ≤ off ∧ off < 0x05200000 then
    some (.trace (s.fld DBG_BUF_PAGE_PAGE * 32768 + (off - 0x05100000) / 32) (off / 4 % 8))
  else if 0x05410000 ≤ off ∧ off < 0x05411000 then some (.mail (off - 0x05410000))
  else none

def State.readWindow (s : State) (w : RegWindow) : Word32 :=
  match w with
  | .save a => BitVec.ofNat 32 (Mem.readLe s.power.save a 4)
  | .log i k => LogEntry.word (Table.at LogEntry.empty s.fltLog i) k
  | .trace i k => TraceRec.word (Table.at TraceRec.empty s.trace.buf i) k
  | .mail a => BitVec.ofNat 32 (Mem.readLe s.sec.mbox a 4)

def State.writeWindow (s : State) (w : RegWindow) (value : Word32) : State :=
  match w with
  | .save a => s.setPower { s.power with save := Mem.writeLe s.power.save a 4 value.toNat }
  | .mail a => s.setSec { s.sec with mbox := Mem.writeLe s.sec.mbox a 4 value.toNat }
  | .log _ _ | .trace _ _ => s

/-! ## Registers that show other state -/

/-- `CC_DBG_CTLn` (R79). -/
def Core.dbgWord (k : Core) : Word32 :=
  BitVec.ofNat 32 (k.halted.toNat * 2 ^ 31 + k.haltCause.toNat * 2 ^ 24 + k.drained.toNat * 2 ^ 16)

/-- `CC_DBG_GLOBAL` (R80). -/
def State.dbgGlobal (s : State) : Word32 :=
  BitVec.ofNat 32 ((List.finRange 16).foldl (fun n c => n + (s.core c).halted.toNat * 2 ^ (16 + c.val)) 0
    + (s.flag CC_DBG_GLOBAL_HALT_ALL).toNat)

/-- `CC_SWI` (R81). -/
def State.swiWord (s : State) : Word32 := BitVec.ofNat 32 ((List.finRange 16).foldl (fun n c => n + (s.core c).swi.toNat * 2 ^ c.val) 0)

/-- `RDM_QP_STATE` of the selected queue context (R387); a command ring of the host counts as a host queue. -/
def State.qpStateWord (s : State) : Word32 :=
  let q := s.qpSelected
  let typ := match Table.find s.qct q with
    | none => 0
    | some (.engineRing _ _) => 1
    | some (.nvmeQueue _ _) | some (.commandRing _) => 2
    | some .rdmaQp => 3
  let st := ((s.qpAt q).map (·.state)).getD 0
  BitVec.ofNat 32 (typ * 2 ^ 30 + st * 2 ^ 27 + (st == qpERR).toNat * 2 ^ 26 + (s.flag RDM_QP_STATE_CMD_REJECT).toNat * 2 ^ 25)

/-- `RDM_QP_PATH`. -/
def State.qpPathWord (s : State) : Word32 :=
  match s.qpAt s.qpSelected with
  | some q => BitVec.ofNat 32 (q.control.toNat * 2 ^ 31 + q.sub * 2 ^ 28 + q.pmtu * 2 ^ 26 + q.subscriber)
  | none => 0

/-- `FLS_DIE_INFO` of the selected die (R317). -/
def State.dieInfo (s : State) : Word32 :=
  match s.die (s.fld FLS_DIE_SEL_DIE) with
  | some d =>
    let st := match d.state with
      | .absent => 0
      | .inUse => 1
      | .excluded => 2
      | .dead => 3
      | .rebuilding => 4
    BitVec.ofNat 32 (st * 2 ^ 29 + d.retired.length)
  | none => 0

/-- The ring that `DBG_RING_SEL` selects. -/
def State.countedRing (s : State) : Ring := s.ring (s.fld DBG_RING_SEL_CLS) (s.fld DBG_RING_SEL_RING)

/-- The core of a register block with one member for each core. -/
def coreAt (base stride off : Nat) : Option CoreId :=
  if h : base ≤ off ∧ (off - base) % stride = 0 ∧ (off - base) / stride < 16 then some ⟨(off - base) / stride, h.2.2⟩ else none

/-- What a register of CC shows; `none`: its own word. -/
def State.readCC (s : State) (off : Nat) : Option (Word32 × State) :=
  if off = CC_DBG_GLOBAL then some (s.dbgGlobal, s)
  else if off = CC_DBG_GLOBAL + 4 then some (s.swiWord, s)
  else if CC_RING_IDX < off ∧ off < CC_RING_IDX + 0x40 then
    some (Ring.word (s.ring s.ringSel.1 s.ringSel.2) (off - CC_RING_IDX), s)
  else match coreAt CC_DBG_CTL 4096 off with
    | some c => some ((s.core c).dbgWord, s)
    | none =>
      match coreAt CC_TKI_POP 8 off, coreAt CC_TKI_STAT 8 off with
      | some c, _ => some (s.popTicket c)
      | _, some c => some ((s.core c).tkiStat, s)
      | none, none => none

/-- What a register of another unit shows beyond its own word. -/
def State.readOther (s : State) (off : Nat) : Option (Word32 × State) :=
  if off = MGT_TEST_AGE then some (BitVec.ofNat 32 s.testAge, s)
  else if off = GTC_NOW_LO then some s.readNowLo
  else if off = GTC_NOW_HI then some s.readNowHi
  else if off = FLS_DIE_INFO then some (s.dieInfo, s)
  else if off = RDM_QP_STATE then some (s.qpStateWord, s)
  else if off = RDM_QP_PATH then some (s.qpPathWord, s)
  else if off = WER_SUB_CFG then some (s.subCfg (s.fld WER_SUB_IDX_SUB), s)
  else if off = WER_Q_DEPTH then some s.readDepth
  else if off = WER_Q_DELAY then some s.readDelay
  else if off = HST_FN_CFG then some (Table.at 16 s.host.fnCfg (s.fld HST_FN_IDX_FN), s)
  else if off = DBG_PORT_STAT then some (s.portStat, s)
  else if off = 0x05000028 ∨ off = 0x0500002C then some (countWord s.countedRing.done (off == 0x0500002C), s)
  else if off = 0x05000030 ∨ off = 0x05000034 then some (countWord s.countedRing.doneErr (off == 0x05000034), s)
  else none

/-- A read of a register: its word, and the machine after the read (R12, R13, R561). -/
def State.readReg (s : State) (off : Nat) : Word32 × State :=
  match s.regWindow off with
  | some w => (s.readWindow w, s)
  | none =>
    match eventPair off with
    | some (u, k, hi) => ((Table.at Counter.zero s.eventSnap (eventKey u k)).word hi, s)
    | none =>
      if errCounters.contains off then (Table.at 0 s.errSnap off, s)
      else match (if unitAt off = some unitCC then s.readCC off else s.readOther off) with
        | some r => r
        | none =>
          match regRowAt off with
          | some r => (readableWord r (s.reg off), s.setReg off (afterRead r (s.reg off)))
          | none => (0, s)

/-! ## Writes -/

/-- A register without a behaviour of its own: its fields follow their access codes (R13); a hole takes nothing (R12). -/
def State.plainWrite (s : State) (off : Nat) (value : Word32) : State :=
  match regRowAt off with
  | some r => s.setReg off (writtenWord r (s.reg off) value)
  | none => s

/-- `POL_CLKn`: STOP, SRC and OPP. -/
def State.writeClk (s : State) (p : Nat) (value : Word32) : State :=
  let s := s.writeSrc p (bitAt value 29)
  (s.writeOpp p (natAt value 26 2)).writeStop p (bitAt value 31)

/-- POL (R503). What the loader then does in a warm reset is not the writer's: a free value. -/
def State.writePOL (s : State) (w : Writer) (off : Nat) (value : Word32) : State :=
  if off = POL_PAD then s.releasePads (bitsAt value 0 11)
  else if off = POL_CORE_RST then s.writeCoreRst (bitsAt value 0 16)
  else if off = POL_RESET then
    let (d, s) := s.freshFree
    (s.writeWarm w value (d % 2 == 1)).writePolderReset w value
  else if off = POL_WAKE_AT_HI then
    let s := s.plainWrite off value
    s.setPower { s.power with wakeAt := value ++ s.reg POL_WAKE_AT_LO }
  else if POL_CLK ≤ off ∧ off < POL_CLK + 44 then s.writeClk ((off - POL_CLK) / 4) value
  else s.plainWrite off value

/-- MGT (R528): `MGT_CAP` and `MGT_TEST_AGE` take the values of the last test until a test has completed (R522). -/
def State.writeMGT (s : State) (w : Writer) (off : Nat) (value : Word32) : State :=
  if off = MGT_CAP then
    if s.power.tested || decide (natAt value 0 16 < 1000) then s else (s.plainWrite off value).applyLimit
  else if off = MGT_TEST_AGE then
    if s.power.tested then s else s.setPower { s.power with ageBase := value.toNat, ageAt := s.gtc }
  else if off = MGT_TEST_CFG then
    let s := s.plainWrite off value
    if bitAt value 31 then s.askTest else s
  else if off = MGT_CTL then s.writeMgtCtl w value
  else if MGT_RESTART_DS ≤ off ∧ off < MGT_RESTART_DS + 96 ∧ (off - MGT_RESTART_DS) % 12 = 8 then
    s.writeRestart ((off - MGT_RESTART_DS) / 12) value
  else s.plainWrite off value

/-- GTC (R476). -/
def State.writeGTC (s : State) (off : Nat) (value : Word32) : State :=
  if off = GTC_LEASE_HI then s.writeLeaseHi value
  else if off = GTC_FENCE then s.writeFence value
  else s.plainWrite off value

/-- Units of `FLT_OVF_IRQ`.EN that are newly enabled while their PEND bit is set are signalled (R562). -/
def State.writeOvfIrq (s : State) (value : Word32) : State :=
  let old := s.reg FLT_OVF_IRQ
  let s := s.setReg FLT_OVF_IRQ value
  (List.range 24).foldl (fun (s : State) u =>
    if bitAt value u && !bitAt old u && bitAt (s.reg FLT_OVF_PEND) u then
      { s with letters := s.letters ++ [Letter.counterOverflow u], msix := s.msix ++ [(0, natAt value 24 8)] }
    else s) s

/-- `FLT_RPL_CFG`: MIB holds while EN is 1, and MIB 0 refuses EN. -/
def State.writeReplayCfg (s : State) (value : Word32) : State :=
  let s := if s.flag FLT_RPL_CFG_EN then s else s.setFld FLT_RPL_CFG_MIB (natAt value 0 16)
  s.setFlag FLT_RPL_CFG_EN (bitAt value 31 && s.fld FLT_RPL_CFG_MIB != 0)

/-- FLT (R573). In loader-only state READY is not set (R617). -/
def State.writeFLT (s : State) (w : Writer) (off : Nat) (value : Word32) : State :=
  if off = FLT_STATUS then (if s.loaderOnly then s else s.plainWrite off value)
  else if off = FLT_FORCE then s.writeForce w value
  else if off = FLT_WDOG_KICK then s.kick (bitsAt value 0 16)
  else if off = FLT_OVF_IRQ then s.writeOvfIrq value
  else if off = FLT_CNT_CLR then s.clearUnits (bitsAt value 0 24)
  else if off = FLT_ST_REQ then s.requestTest (natAt value 24 4) (natAt value 0 9) (bitAt value 31)
  else if off = FLT_RPL_CFG then s.writeReplayCfg value
  else if off = FLT_RPL_REQ_HI then s.requestReplay value
  else s.plainWrite off value

/-- `CC_DBG_CTLn`: HALT written together with RESUME wins (R79). -/
def State.writeDbgCore (s : State) (c : CoreId) (value : Word32) : State :=
  if bitAt value 1 then s.requestHalt c else if bitAt value 2 then s.leaveHalt c else s

/-- CC (R79 to R81, R88 to R93, R107). -/
def State.writeCC (s : State) (off : Nat) (value : Word32) : State :=
  if off = CC_DBG_GLOBAL + 4 then s.writeSwi (bitsAt value 0 16) (bitsAt value 16 16)
  else if off = CC_RING_CFG then s.writeRingCfg value
  else if off = CC_RING_BASE_LO then s.writeRingBase false value
  else if off = CC_RING_BASE_HI then s.writeRingBase true value
  else if CC_RING_IDX + 0x18 ≤ off ∧ off < CC_RING_IDX + 0x38 then
    s.writeRingWin ((off - (CC_RING_IDX + 0x18)) / 8) (off % 8 == 4) value
  else if off = CC_RING_ERR then s.writeRingErr value
  else match coreAt CC_DBG_CTL 4096 off, coreAt CC_TKI_STAT 8 off with
    | some c, _ => s.writeDbgCore c value
    | none, some c => s.writeTkiStat c value
    | none, none => s.plainWrite off value

/-- The priorities of `NET_PRIO_CFG` stay where a write would make them equal (R386). -/
def State.writePrioCfg (s : State) (value : Word32) : State :=
  let keep := natAt value 4 3 == natAt value 0 3
  let data := s.fld NET_PRIO_CFG_DATA_PRIO
  let ctrl := s.fld NET_PRIO_CFG_CTRL_PRIO
  let s := s.plainWrite NET_PRIO_CFG value
  if keep then (s.setFld NET_PRIO_CFG_DATA_PRIO data).setFld NET_PRIO_CFG_CTRL_PRIO ctrl else s

/-- NET, RDM and WER (R356, R386, R387, R404). -/
def State.writeNet (s : State) (off : Nat) (value : Word32) : State :=
  if NET_PORT_CFG ≤ off ∧ off < NET_PORT_CFG + 16 then s.writePortCfg ((off - NET_PORT_CFG) / 4) value
  else if off = NET_PRIO_CFG then s.writePrioCfg value
  else if off = RDM_QP_STATE then
    let s := s.plainWrite off value
    if s.loaderOnly then s else s.qpCommand (natAt value 0 3)
  else if off = WER_SUB_CFG then
    { s with net := { s.net with subCfg := Table.write 0x10000000 s.net.subCfg (s.fld WER_SUB_IDX_SUB) (value &&& 0xFF80FFFF) } }
  else if off = WER_PFC_CFG then
    let r := writtenWord (regRows.find? (fun r => r.covers off) |>.getD ⟨0, 0, 1, []⟩) (s.reg off) value
    let s' := s.setReg off r
    if s'.fld WER_PFC_CFG_XON_KIB < s'.fld WER_PFC_CFG_XOFF_KIB ∧ s'.fld WER_PFC_CFG_XOFF_KIB ≤ 1536 then s' else s
  else if off = WER_Q_IDX then s.latchQueue value
  else s.plainWrite off value

/-- `DMA_CHn_CTL` (R427 to R431): MODE holds while the channel is busy or paused; then PAUSE and GO act. -/
def State.writeDmaCtl (s : State) (n : Nat) (value : Word32) : State :=
  let off := DMA_CH_CTL + 64 * n
  let was := s.flag (chan DMA_CH_CTL_PAUSE n)
  let mode := if s.dmaBusy n || s.dmaPaused n then s.fld (chan DMA_CH_CTL_MODE n) else natAt value 30 2
  let w := putBits (putBit (s.reg off) 1 was) 2 30 (natAt value 2 30)
  let s := s.setReg off (putBits (putBits w 30 2 mode) 3 5 0)
  let s := if bitAt value 1 && !was then s.dmaPause n else if !bitAt value 1 && was then s.dmaResume n else s
  if bitAt value 0 then s.dmaGo n else s

/-- HST, DMA and BPM (R441 to R443): shadow registers hold while VALID is 1. -/
def State.writeHost (s : State) (off : Nat) (value : Word32) : State :=
  if off = HST_FN_CFG then
    { s with host := { s.host with fnCfg := Table.write 16 s.host.fnCfg (s.fld HST_FN_IDX_FN) (value &&& 0xFF) } }
  else if DMA_CH_CTL ≤ off ∧ off < DMA_CH_CTL + 4096 then
    let n := (off - DMA_CH_CTL) / 64
    let d := off % 64
    if d = 0 then s.writeDmaCtl n value
    else if 0x20 ≤ d ∧ s.flag (chan DMA_CH_SH_FLAGS_VALID n) then s
    else s.plainWrite off value
  else if BPM_POOL_CFG ≤ off ∧ off < BPM_POOL_CFG + 128 ∧ off % 16 = 8 then s.writePoolCfg ((off - BPM_POOL_CFG) / 16) value
  else s.plainWrite off value

/-- DBG (R599). -/
def State.writeDBG (s : State) (w : Writer) (off : Nat) (value : Word32) : State :=
  if off = DBG_CTL then s.writeDbgCtl value
  else if off = DBG_TRIG_CFG then
    let s := s.plainWrite off value
    if bitAt value 31 then s.arm else s
  else if off = DBG_TRIG then (if bitAt value 0 then s.trigger 0 else s)
  else if off = DBG_MARK then s.mark w value
  else s.plainWrite off value

/-- SEC (R620). -/
def State.writeSEC (s : State) (off : Nat) (value : Word32) : State :=
  if off = SEC_SVN then (if bitAt value 31 then s.commitSvn else s)
  else if off = SEC_ACT_AT_HI then s.armActivation value
  else if off = SEC_ACT_STAT then
    let s := s.plainWrite off value
    if bitAt value 28 then s.disarm else s
  else if off = SEC_MBOX_CTL then (s.plainWrite off value).mailOp (natAt value 0 3)
  else s.plainWrite off value

/-- Registers of the flash side and of the other engines whose writes are held back: `FTL_MAPC_CFG` but while UNMOUNTED (R353),
`FTL_JNL_CFG` sets the limit in force (R514), `CAT_CACHE_CFG` while a stream is open (R132), the store registers while the store
holds an entry (R284). -/
def State.writeEngine (s : State) (off : Nat) (value : Word32) : State :=
  if off = FTL_MAPC_CFG then (if s.fld FTL_STATE_STATE = 0 then s.plainWrite off value else s)
  else if off = FTL_JNL_CFG then (s.plainWrite off value).applyLimit
  else if off = CAT_CACHE_CFG then (if s.fetch.streams.any (fun e => !e.2.closed) then s else s.plainWrite off value)
  else if off = CSK_STORE_BASE_LO ∨ off = CSK_STORE_BASE_HI ∨ off = CSK_STORE_SIZE then
    (if s.store.used = 0 then s.plainWrite off value else s)
  else s.plainWrite off value

/-- A write of a register by a unit's own rules. -/
def State.writeUnit (s : State) (w : Writer) (u off : Nat) (value : Word32) : State :=
  if u = unitPOL then s.writePOL w off value
  else if u = unitMGT then s.writeMGT w off value
  else if u = unitGTC then s.writeGTC off value
  else if u = unitFLT then s.writeFLT w off value
  else if u = unitCC then s.writeCC off value
  else if u = unitNET ∨ u = unitRDM ∨ u = unitWER then s.writeNet off value
  else if u = unitHST ∨ u = unitDMA ∨ u = unitBPM then s.writeHost off value
  else if u = unitDBG then s.writeDBG w off value
  else if u = unitSEC then s.writeSEC off value
  else s.writeEngine off value

/-- A write of a register, the writer being one that may write it. -/
def State.writeReg (s : State) (w : Writer) (off : Nat) (value : Word32) : State :=
  match s.regWindow off with
  | some x => s.writeWindow x value
  | none =>
    match eventPair off, latchAt off, unitAt off with
    | some (u, k, hi), _, _ => if hi then s.clearOvf u k value else s
    | none, some u, _ => if bitAt value 0 then s.latch u else s
    | none, none, some u => s.writeUnit w u off value
    | none, none, none => s

/-! ## Reaching a register (R482, R626, R631) -/

/-- How an access to a register goes: it completes, it waits for the polder to run, or it finds nothing there to answer. -/
inductive RegDoor where
  | opens (s : State)
  | waits (s : State)
  | dead

/-- PA and PH answer in every module state; another polder that is not ON lets the access wait and may be woken by it. -/
def State.regDoor (s : State) (host : Bool) (off : Nat) : RegDoor :=
  match (unitAt off).map unitPolder with
  | none => .opens s
  | some p =>
    if p = polPA ∨ p = polPH ∨ s.polderOn p then .opens s
    else if host && !s.flag POL_WAKE_EN_PCIE && s.power.phase == .asleep then .dead
    else
      let woken := match s.power.phase with
        | .on => if s.fld POL_MODE_CUR = 3 then (if host then s.wake 1 else s).leaveMs3 (min 2 s.operational) else s
        | .asleep | .entering => if host && s.flag POL_WAKE_EN_PCIE then s.wake 1 else s
        | _ => s
      if woken.polderOn p then .opens woken else .waits woken

/-- A writer reaches a register: anyone of R631, and the sideband where a rule names it. -/
def State.mayReach (s : State) (w : Writer) (off : Nat) : Bool :=
  match w with
  | .sideband => off == FLT_FORCE || off == POL_RESET || off == MGT_CTL || off == SEC_MBOX_CTL || decide (0x05410000 ≤ off ∧ off < 0x05411000)
  | _ => s.mayWrite w

/-- REGISTER_WRITE (R13): a write of any register of BAR2 by offset. -/
def execRegisterWrite (w : Writer) (off : BitVec 27) (value : Word32) (s : State) : Res :=
  let a := alignDown off.toNat 4
  .next (if !s.mayReach w a then s
    else match s.regDoor (w == .host) a with
      | .opens s => s.writeReg w a value
      | .waits s => s
      | .dead => s)

end Sys2Proof.Machine
end

