-- ==== Sys2Proof/Machine/DebugPort.lean ====
section
/-!
DEFINITION. The debug port (R575 to R578): its data registers, and the accesses a DAP request makes.
-/

namespace Sys2Proof.Machine

open Reg

/-- The debug port changed. -/
def State.setDap (s : State) (d : Dap) : State := { s with dap := d }

/-- The 32-bit IDCODE, with the stepping in its upper bits (R575). -/
def State.idcode (s : State) : Nat := 0x0A5EC0B5 % 2 ^ 28 + natAt (s.reg GLB_DCLASS) 24 4 * 2 ^ 28

/-- IDCODE: selected and shifted out. -/
def execIdcode (s : State) : Res :=
  .next (if s.powered then s.setDap { s.dap with ir := 0x01, out := s.dap.out ++ [BitVec.ofNat 120 s.idcode] } else s)

/-- BYPASS: 0x1F and every value that names no other instruction select the 1-bit register (R575). -/
def execBypass (ir : BitVec 5) (s : State) : Res :=
  .next (if s.powered then s.setDap { s.dap with ir := if ir = 0x01 ∨ ir = 0x10 then 0x1F else ir } else s)

def dapOK : Nat := 0
def dapPENDING : Nat := 1
def dapERROR : Nat := 2
def dapLOCKED : Nat := 3

/-- A response: RESULT in [1:0] and read data in [115:52]. -/
def dapResponse (result : Nat) (data : Word64) : BitVec 120 := BitVec.ofNat 120 (result + data.toNat * 2 ^ 52)

/-- How a request ends: with a result and data, or not yet. -/
inductive DapEnd where
  | ends (result : Nat) (data : Word64) (s : State)
  | waits (s : State)

/-- The unlock and its scope allow a space: bit 1 BAR2, bit 0 memory and cores (R578, R618). -/
def State.dapOpen (s : State) (space : BitVec 2) : Bool :=
  s.flag SEC_DBG_UNLOCKED && bitAt (s.reg SEC_DBG) (if space = 0 then 1 else 0)

/-- A BAR2 access of 32 bits. -/
def State.dapRegister (s : State) (r : DapRequest) : DapEnd :=
  let off := r.addr.toNat
  if off % 4 ≠ 0 ∨ 0x08000000 ≤ off then .ends dapERROR 0 s
  else match s.regDoor false off with
    | .opens s =>
      if r.write then .ends dapOK 0 (s.writeReg .debugPort off (r.data.setWidth 32))
      else
        let (v, s) := s.readReg off
        .ends dapOK (v.setWidth 64) s
    | .waits s => .waits s
    | .dead => .ends dapERROR 0 s

/-- A 64-bit memory access at M without region checks. -/
def State.dapMemory (s : State) (r : DapRequest) : DapEnd :=
  let a := r.addr.toNat
  let kind := if r.write then AccessKind.store else AccessKind.load
  if a % 8 ≠ 0 ∨ s.mapAllows privM kind a 8 false = false ∨ (s.hasDataError a 8 ∧ r.write = false) then .ends dapERROR 0 s
  else if r.write then .ends dapOK 0 (s.writeDram a (leBytes 8 r.data.toNat))
  else .ends dapOK (BitVec.ofNat 64 (leNat (s.physBytes a 8))) s

/-- A register of a core by its DAP number (R577); `none` where none is listed. -/
def State.dapCoreRead (s : State) (c : CoreId) (n : Nat) : Option Word64 :=
  let k := s.core c
  if n < 32 then some (k.reg (BitVec.ofNat 5 n))
  else if 0x100 ≤ n ∧ n < 0x180 then some (bitsAt (k.vreg (BitVec.ofNat 5 ((n - 0x100) / 8))) (64 * (n % 8)) 64)
  else if n = 0x200 then some k.pc
  else if 0x1000 ≤ n ∧ n < 0x2000 then s.csrRead c (n - 0x1000)
  else none

/-- The same register written; a CSR as `csrw` at M writes it. -/
def Core.dapWrite (k : Core) (n : Nat) (v : Word64) : Core :=
  if n < 32 then k.setReg (BitVec.ofNat 5 n) v
  else if n < 0x180 then
    let r : RegField := BitVec.ofNat 5 ((n - 0x100) / 8)
    k.setVreg r (putBits (k.vreg r) (64 * (n % 8)) 64 v.toNat)
  else if n = 0x200 then { k with pc := v }
  else k.csrWrite (n - 0x1000) v

/-- An access to a register of a halted core. -/
def State.dapCore (s : State) (r : DapRequest) : DapEnd :=
  let c : CoreId := ⟨natAt r.addr 16 4, Nat.mod_lt _ (by decide)⟩
  let n := natAt r.addr 0 16
  if (s.core c).halted = false ∨ natAt r.addr 20 28 ≠ 0 then .ends dapERROR 0 s
  else match s.dapCoreRead c n with
    | none => .ends dapERROR 0 s
    | some v =>
      if !r.write then .ends dapOK v s
      else if 0x1000 ≤ n ∧ csrReadOnly (n - 0x1000) = true then .ends dapERROR 0 s
      else .ends dapOK 0 (s.setCore c ((s.core c).dapWrite n r.data))

/-- A request carried out (R576 to R578). -/
def State.dapRun (s : State) (r : DapRequest) : DapEnd :=
  if !s.dapOpen r.space then .ends dapLOCKED 0 s
  else if r.space = 0 then s.dapRegister r
  else if r.space = 1 then s.dapMemory r
  else if r.space = 2 then s.dapCore r
  else .ends dapERROR 0 s

/-- A request starts: its response is kept for the next scan, or it waits. -/
def State.dapStart (s : State) (r : DapRequest) : State :=
  match s.dapRun r with
  | .ends result data s => s.setDap { s.dap with response := dapResponse result data, waiting := none }
  | .waits s => s.setDap { s.dap with response := dapResponse dapPENDING 0, waiting := some r }

/-- One scan of the DAP register: the response to the previous request is shifted out, and the new request starts unless the
previous one is still pending, which discards it. -/
def State.dapScan (s : State) (r : DapRequest) : State :=
  if !s.polderOn polPG then s
  else
    let s := match s.dap.waiting with
      | some old => s.dapStart old
      | none => s
    let s := s.setDap { s.dap with ir := 0x10, out := s.dap.out ++ [s.dap.response] }
    if s.dap.waiting.isSome then s else s.dapStart r

/-- DAP_READ: a scan with OP 1. -/
def execDapRead (space : BitVec 2) (addr : BitVec 48) (s : State) : Res := .next (s.dapScan ⟨false, space, addr, 0⟩)

/-- DAP_WRITE: a scan with OP 2. -/
def execDapWrite (space : BitVec 2) (addr : BitVec 48) (data : Word64) (s : State) : Res := .next (s.dapScan ⟨true, space, addr, data⟩)

end Sys2Proof.Machine
end

