-- ==== Sys2Proof/Machine/MemInsn.lean ====
section
/-!
DEFINITION. The meanings of the loads, stores and atomics that reach memory alone (R40, R47, R54, R55); `lw`, `lwu` and `sw`,
which also reach the register space, are in Machine/RegInsn.lean.
-/

namespace Sys2Proof.Machine

/-- A load of `n` bytes: checked, read little-endian, written to rd through `ext` (R54). -/
def State.loadOp (s : State) (c : CoreId) (op n : Nat) (f : Rri) (ext : Nat → Word64) : State :=
  s.runInsn c (wordRri op f) true (fun s =>
    let k := s.core c
    let a := k.ea f
    match s.checkAccess c .load a n false with
    | some s' => s'
    | none => s.setCore c ((k.setReg f.rd (ext (leNat (s.physBytes a.toNat n)))).retire c))

/-- A store of the low `n` bytes of the register in the rd field (R54). -/
def State.storeOp (s : State) (c : CoreId) (op n : Nat) (f : Rri) : State :=
  s.runInsn c (wordRri op f) true (fun s =>
    let k := s.core c
    let a := k.ea f
    match s.checkAccess c .store a n false with
    | some s' => s'
    | none => (s.writeDram a.toNat (leBytes n (k.reg f.rd).toNat)).setCore c (k.retire c))

/-- An atomic: one indivisible read and write, the old value to rd, a 32-bit one sign-extended (R47, R55). -/
def State.atomOp (s : State) (c : CoreId) (oper : Nat) (f : Atom) : State :=
  s.runInsn c (wordAtom oper f) true (fun s =>
    let k := s.core c
    let a := k.reg f.regs.ra
    let n := if f.wide then 8 else 4
    match s.checkAccess c .atomic a n false with
    | some s' => s'
    | none =>
      let old := leNat (s.physBytes a.toNat n)
      let b := (k.reg f.regs.rb).toNat
      let cmp := (k.reg f.regs.rd).toNat
      let (new, out) : Nat × Word64 :=
        if f.wide then
          ((atomicNew oper (BitVec.ofNat 64 old) (BitVec.ofNat 64 b) (BitVec.ofNat 64 cmp)).toNat, BitVec.ofNat 64 old)
        else
          ((atomicNew oper (BitVec.ofNat 32 old) (BitVec.ofNat 32 b) (BitVec.ofNat 32 cmp)).toNat,
           (BitVec.ofNat 32 old).signExtend 64)
      (s.writeDram a.toNat (leBytes n new)).setCore c ((k.setReg f.regs.rd out).retire c))

/-- LB (R54). -/
def execLb (c : CoreId) (f : Rri) (s : State) : Res := .next (s.loadOp c 0x14 1 f (fun v => (BitVec.ofNat 8 v).signExtend 64))
/-- LBU (R54). -/
def execLbu (c : CoreId) (f : Rri) (s : State) : Res := .next (s.loadOp c 0x15 1 f (fun v => BitVec.ofNat 64 v))
/-- LH (R54). -/
def execLh (c : CoreId) (f : Rri) (s : State) : Res := .next (s.loadOp c 0x16 2 f (fun v => (BitVec.ofNat 16 v).signExtend 64))
/-- LHU (R54). -/
def execLhu (c : CoreId) (f : Rri) (s : State) : Res := .next (s.loadOp c 0x17 2 f (fun v => BitVec.ofNat 64 v))
/-- LD (R54). -/
def execLd (c : CoreId) (f : Rri) (s : State) : Res := .next (s.loadOp c 0x1A 8 f (fun v => BitVec.ofNat 64 v))

/-- VLD: 64 bytes, lane 0 at the lowest address (R35, R54). -/
def execVld (c : CoreId) (f : Rri) (s : State) : Res :=
  .next (s.runInsn c (wordRri 0x1B f) (vregOk f.rd) (fun s =>
    let k := s.core c
    let a := k.ea f
    match s.checkAccess c .load a 64 false with
    | some s' => s'
    | none => s.setCore c ((k.setVreg f.rd (BitVec.ofNat 512 (leNat (s.physBytes a.toNat 64)))).retire c)))

/-- SB (R54). -/
def execSb (c : CoreId) (f : Rri) (s : State) : Res := .next (s.storeOp c 0x1C 1 f)
/-- SH (R54). -/
def execSh (c : CoreId) (f : Rri) (s : State) : Res := .next (s.storeOp c 0x1D 2 f)
/-- SD (R54). -/
def execSd (c : CoreId) (f : Rri) (s : State) : Res := .next (s.storeOp c 0x1F 8 f)

/-- VST: 64 bytes, lane 0 at the lowest address (R35, R54). -/
def execVst (c : CoreId) (f : Rri) (s : State) : Res :=
  .next (s.runInsn c (wordRri 0x20 f) (vregOk f.rd) (fun s =>
    let k := s.core c
    let a := k.ea f
    match s.checkAccess c .store a 64 false with
    | some s' => s'
    | none => (s.writeDram a.toNat (leBytes 64 (k.vreg f.rd).toNat)).setCore c (k.retire c)))

/-- ATADD (R55). -/
def execAtadd (c : CoreId) (f : Atom) (s : State) : Res := .next (s.atomOp c 0x01 f)
/-- ATSWP (R55). -/
def execAtswp (c : CoreId) (f : Atom) (s : State) : Res := .next (s.atomOp c 0x02 f)
/-- ATAND (R55). -/
def execAtand (c : CoreId) (f : Atom) (s : State) : Res := .next (s.atomOp c 0x03 f)
/-- ATOR (R55). -/
def execAtor (c : CoreId) (f : Atom) (s : State) : Res := .next (s.atomOp c 0x04 f)
/-- ATXOR (R55). -/
def execAtxor (c : CoreId) (f : Atom) (s : State) : Res := .next (s.atomOp c 0x05 f)
/-- ATMAX (R55). -/
def execAtmax (c : CoreId) (f : Atom) (s : State) : Res := .next (s.atomOp c 0x06 f)
/-- ATMIN (R55). -/
def execAtmin (c : CoreId) (f : Atom) (s : State) : Res := .next (s.atomOp c 0x07 f)
/-- ATMAXU (R55). -/
def execAtmaxu (c : CoreId) (f : Atom) (s : State) : Res := .next (s.atomOp c 0x08 f)
/-- ATMINU (R55). -/
def execAtminu (c : CoreId) (f : Atom) (s : State) : Res := .next (s.atomOp c 0x09 f)
/-- ATCAS: the write takes place whether or not the values are equal (R55). -/
def execAtcas (c : CoreId) (f : Atom) (s : State) : Res := .next (s.atomOp c 0x0A f)

end Sys2Proof.Machine
end

