-- ==== Sys2Proof/Machine/RegInsn.lean ====
section
/-!
DEFINITION. `lw`, `lwu` and `sw` (R54), the loads and the store that reach the register space too (R621, R622).
-/

namespace Sys2Proof.Machine

open Reg

/-- The register offset of an access in the register space (R621). -/
def State.regOffset (s : State) (a : Nat) : Option Nat := if s.regionAt a 4 = .registers then some (a - registerBase) else none

/-- A load of a word: from a register, which may let it wait (R626), or from memory. -/
def State.loadWord (s : State) (c : CoreId) (op : Nat) (f : Rri) (ext : Word32 → Word64) : State :=
  s.runInsn c (wordRri op f) true (fun s =>
    let a := (s.core c).ea f
    match s.checkAccess c .load a 4 true with
    | some s' => s'
    | none =>
      let done (s : State) (v : Word32) : State := s.setCore c (((s.core c).setReg f.rd (ext v)).retire c)
      match s.regOffset a.toNat with
      | none => done s (BitVec.ofNat 32 (leNat (s.physBytes a.toNat 4)))
      | some off =>
        match s.regDoor false off with
        | .opens s =>
          let (v, s) := s.readReg off
          done s v
        | .waits s => s
        | .dead => done s 0)

/-- LW: sign-extended (R54). -/
def execLw (c : CoreId) (f : Rri) (s : State) : Res := .next (s.loadWord c 0x18 f (fun v => v.signExtend 64))
/-- LWU: zero-extended (R54). -/
def execLwu (c : CoreId) (f : Rri) (s : State) : Res := .next (s.loadWord c 0x19 f (fun v => v.setWidth 64))

/-- SW: the instruction retires and its write takes effect, in a register or in memory (R54). -/
def execSw (c : CoreId) (f : Rri) (s : State) : Res :=
  .next (s.runInsn c (wordRri 0x1E f) true (fun s =>
    let k := s.core c
    let a := k.ea f
    match s.checkAccess c .store a 4 true with
    | some s' => s'
    | none =>
      let v : Word32 := (k.reg f.rd).setWidth 32
      match s.regOffset a.toNat with
      | none => (s.writeDram a.toNat (leBytes 4 v.toNat)).setCore c (k.retire c)
      | some off =>
        match s.regDoor false off with
        | .opens s => (s.setCore c (k.retire c)).writeReg (.core c) off v
        | .waits s => s
        | .dead => s.setCore c (k.retire c)))

end Sys2Proof.Machine
end

