-- ==== Sys2Proof/Machine/Dispatch.lean ====
section
/-!
DEFINITION. The dispatch of a command to its meaning, one arm for each row of the opcode table, in its order.
-/

namespace Sys2Proof.Machine

/-- The effect of a command on everything but the queue of waiting commands. -/
def exec (i : Instr) (s : State) : Host.Outcome State Fault Refusal :=
  match i with
  | .add c w => Sys2Proof.Machine.execAdd c w s
  | .dif c f => Sys2Proof.Machine.execDif c f s
  | .and c f => Sys2Proof.Machine.execAnd c f s
  | .or c f => Sys2Proof.Machine.execOr c f s
  | .xor c f => Sys2Proof.Machine.execXor c f s
  | .sll c f => Sys2Proof.Machine.execSll c f s
  | .srl c f => Sys2Proof.Machine.execSrl c f s
  | .sra c f => Sys2Proof.Machine.execSra c f s
  | .slt c f => Sys2Proof.Machine.execSlt c f s
  | .sltu c f => Sys2Proof.Machine.execSltu c f s
  | .min c f => Sys2Proof.Machine.execMin c f s
  | .max c f => Sys2Proof.Machine.execMax c f s
  | .minu c f => Sys2Proof.Machine.execMinu c f s
  | .maxu c f => Sys2Proof.Machine.execMaxu c f s
  | .addw c f => Sys2Proof.Machine.execAddw c f s
  | .difw c f => Sys2Proof.Machine.execDifw c f s
  | .sllw c f => Sys2Proof.Machine.execSllw c f s
  | .srlw c f => Sys2Proof.Machine.execSrlw c f s
  | .sraw c f => Sys2Proof.Machine.execSraw c f s
  | .clz c f => Sys2Proof.Machine.execClz c f s
  | .ctz c f => Sys2Proof.Machine.execCtz c f s
  | .pop c f => Sys2Proof.Machine.execPop c f s
  | .bswapH c f => Sys2Proof.Machine.execBswapH c f s
  | .bswapW c f => Sys2Proof.Machine.execBswapW c f s
  | .bswapD c f => Sys2Proof.Machine.execBswapD c f s
  | .mul c f => Sys2Proof.Machine.execMul c f s
  | .mulh c f => Sys2Proof.Machine.execMulh c f s
  | .mulhu c f => Sys2Proof.Machine.execMulhu c f s
  | .div c f => Sys2Proof.Machine.execDiv c f s
  | .divu c f => Sys2Proof.Machine.execDivu c f s
  | .rem c f => Sys2Proof.Machine.execRem c f s
  | .remu c f => Sys2Proof.Machine.execRemu c f s
  | .addi c f => Sys2Proof.Machine.execAddi c f s
  | .andi c f => Sys2Proof.Machine.execAndi c f s
  | .ori c f => Sys2Proof.Machine.execOri c f s
  | .xori c f => Sys2Proof.Machine.execXori c f s
  | .slti c f => Sys2Proof.Machine.execSlti c f s
  | .sltiu c f => Sys2Proof.Machine.execSltiu c f s
  | .slli c f => Sys2Proof.Machine.execSlli c f s
  | .srli c f => Sys2Proof.Machine.execSrli c f s
  | .srai c f => Sys2Proof.Machine.execSrai c f s
  | .lui c f => Sys2Proof.Machine.execLui c f s
  | .beq c f => Sys2Proof.Machine.execBeq c f s
  | .bne c f => Sys2Proof.Machine.execBne c f s
  | .blt c f => Sys2Proof.Machine.execBlt c f s
  | .bge c f => Sys2Proof.Machine.execBge c f s
  | .bltu c f => Sys2Proof.Machine.execBltu c f s
  | .bgeu c f => Sys2Proof.Machine.execBgeu c f s
  | .j c off => Sys2Proof.Machine.execJ c off s
  | .jal c off => Sys2Proof.Machine.execJal c off s
  | .jalr c f => Sys2Proof.Machine.execJalr c f s
  | .lb c f => Sys2Proof.Machine.execLb c f s
  | .lbu c f => Sys2Proof.Machine.execLbu c f s
  | .lh c f => Sys2Proof.Machine.execLh c f s
  | .lhu c f => Sys2Proof.Machine.execLhu c f s
  | .lw c f => Sys2Proof.Machine.execLw c f s
  | .lwu c f => Sys2Proof.Machine.execLwu c f s
  | .ld c f => Sys2Proof.Machine.execLd c f s
  | .vld c f => Sys2Proof.Machine.execVld c f s
  | .sb c f => Sys2Proof.Machine.execSb c f s
  | .sh c f => Sys2Proof.Machine.execSh c f s
  | .sw c f => Sys2Proof.Machine.execSw c f s
  | .sd c f => Sys2Proof.Machine.execSd c f s
  | .vst c f => Sys2Proof.Machine.execVst c f s
  | .atadd c f => Sys2Proof.Machine.execAtadd c f s
  | .atswp c f => Sys2Proof.Machine.execAtswp c f s
  | .atand c f => Sys2Proof.Machine.execAtand c f s
  | .ator c f => Sys2Proof.Machine.execAtor c f s
  | .atxor c f => Sys2Proof.Machine.execAtxor c f s
  | .atmax c f => Sys2Proof.Machine.execAtmax c f s
  | .atmin c f => Sys2Proof.Machine.execAtmin c f s
  | .atmaxu c f => Sys2Proof.Machine.execAtmaxu c f s
  | .atminu c f => Sys2Proof.Machine.execAtminu c f s
  | .atcas c f => Sys2Proof.Machine.execAtcas c f s
  | .vadd c f => Sys2Proof.Machine.execVadd c f s
  | .vdif c f => Sys2Proof.Machine.execVdif c f s
  | .vmul c f => Sys2Proof.Machine.execVmul c f s
  | .vand c f => Sys2Proof.Machine.execVand c f s
  | .vor c f => Sys2Proof.Machine.execVor c f s
  | .vxor c f => Sys2Proof.Machine.execVxor c f s
  | .vmin c f => Sys2Proof.Machine.execVmin c f s
  | .vmax c f => Sys2Proof.Machine.execVmax c f s
  | .vminu c f => Sys2Proof.Machine.execVminu c f s
  | .vmaxu c f => Sys2Proof.Machine.execVmaxu c f s
  | .vsll c f => Sys2Proof.Machine.execVsll c f s
  | .vsrl c f => Sys2Proof.Machine.execVsrl c f s
  | .vsra c f => Sys2Proof.Machine.execVsra c f s
  | .vcmpeq c f => Sys2Proof.Machine.execVcmpeq c f s
  | .vcmplt c f => Sys2Proof.Machine.execVcmplt c f s
  | .vcmpltu c f => Sys2Proof.Machine.execVcmpltu c f s
  | .vbcast c f => Sys2Proof.Machine.execVbcast c f s
  | .vext c f => Sys2Proof.Machine.execVext c f s
  | .vins c f => Sys2Proof.Machine.execVins c f s
  | .vredsum c f => Sys2Proof.Machine.execVredsum c f s
  | .vfadd c f => Sys2Proof.Machine.execVfadd c f s
  | .vfdif c f => Sys2Proof.Machine.execVfdif c f s
  | .vfmul c f => Sys2Proof.Machine.execVfmul c f s
  | .vfma c f => Sys2Proof.Machine.execVfma c f s
  | .vfmin c f => Sys2Proof.Machine.execVfmin c f s
  | .vfmax c f => Sys2Proof.Machine.execVfmax c f s
  | .vfcvtI c f => Sys2Proof.Machine.execVfcvtI c f s
  | .vfcvtF c f => Sys2Proof.Machine.execVfcvtF c f s
  | .csrr c f => Sys2Proof.Machine.execCsrr c f s
  | .csrw c f => Sys2Proof.Machine.execCsrw c f s
  | .csrset c f => Sys2Proof.Machine.execCsrset c f s
  | .csrclr c f => Sys2Proof.Machine.execCsrclr c f s
  | .mbar c f => Sys2Proof.Machine.execMbar c f s
  | .ibar c f => Sys2Proof.Machine.execIbar c f s
  | .svc c f => Sys2Proof.Machine.execSvc c f s
  | .brk c f => Sys2Proof.Machine.execBrk c f s
  | .tret c f => Sys2Proof.Machine.execTret c f s
  | .idle c f => Sys2Proof.Machine.execIdle c f s
  | .idleWake c => Sys2Proof.Machine.execIdleWake c s
  | .sub c f => Sys2Proof.Machine.execSub c f s
  | .wtc c f => Sys2Proof.Machine.execWtc c f s
  | .wtcReturn c => Sys2Proof.Machine.execWtcReturn c s
  | .tkp c f => Sys2Proof.Machine.execTkp c f s
  | .fnc c f => Sys2Proof.Machine.execFnc c f s
  | .fncReturn c => Sys2Proof.Machine.execFncReturn c s
  | .gtc c f => Sys2Proof.Machine.execGtc c f s
  | .takeInterrupt c => Sys2Proof.Machine.execTakeInterrupt c s
  | .timerInterrupt c => Sys2Proof.Machine.execTimerInterrupt c s
  | .halt w c => Sys2Proof.Machine.execHalt w c s
  | .resume w c => Sys2Proof.Machine.execResume w c s
  | .swiSet w cores => Sys2Proof.Machine.execSwiSet w cores s
  | .swiClear w cores => Sys2Proof.Machine.execSwiClear w cores s
  | .ringEnable w value => Sys2Proof.Machine.execRingEnable w value s
  | .ringDisable w value => Sys2Proof.Machine.execRingDisable w value s
  | .ringDrained cls ring => Sys2Proof.Machine.execRingDrained cls ring s
  | .descriptorTake cls => Sys2Proof.Machine.execDescriptorTake cls s
  | .descriptorComplete c t seen => Sys2Proof.Machine.execDescriptorComplete c t seen s
  | .tkiPop w c => Sys2Proof.Machine.execTkiPop w c s
  | .sqTail qcn value stores => Sys2Proof.Machine.execSqTail qcn value stores s
  | .cqHead qcn value => Sys2Proof.Machine.execCqHead qcn value s
  | .recipeLoad src place => Sys2Proof.Machine.execRecipeLoad src place s
  | .recipeLaunch src => Sys2Proof.Machine.execRecipeLaunch src s
  | .recipeStart handle => Sys2Proof.Machine.execRecipeStart handle s
  | .recipeUnload src => Sys2Proof.Machine.execRecipeUnload src s
  | .recipeStatus src => Sys2Proof.Machine.execRecipeStatus src s
  | .cmdSpaceCreate src => Sys2Proof.Machine.execCmdSpaceCreate src s
  | .cmdSpaceDelete src => Sys2Proof.Machine.execCmdSpaceDelete src s
  | .nsAttach src => Sys2Proof.Machine.execNsAttach src s
  | .caskGrant src => Sys2Proof.Machine.execCaskGrant src s
  | .grantWithdraw src => Sys2Proof.Machine.execGrantWithdraw src s
  | .fillList c t => Sys2Proof.Machine.execFillList c t s
  | .permute c t => Sys2Proof.Machine.execPermute c t s
  | .spare c t peer => Sys2Proof.Machine.execSpare c t peer s
  | .close c t => Sys2Proof.Machine.execClose c t s
  | .gristReadIssue rebuilt => Sys2Proof.Machine.execGristReadIssue rebuilt s
  | .catalogMiss ring => Sys2Proof.Machine.execCatalogMiss ring s
  | .itemStaged ring pos peer => Sys2Proof.Machine.execItemStaged ring pos peer s
  | .decode c t => Sys2Proof.Machine.execDecode c t s
  | .probe c t => Sys2Proof.Machine.execProbe c t s
  | .decompress c t => Sys2Proof.Machine.execDecompress c t s
  | .compress c t mismatch => Sys2Proof.Machine.execCompress c t mismatch s
  | .gfCombine c t => Sys2Proof.Machine.execGfCombine c t s
  | .transform c t tileError => Sys2Proof.Machine.execTransform c t tileError s
  | .score c t tileError => Sys2Proof.Machine.execScore c t tileError s
  | .modelLoad c t => Sys2Proof.Machine.execModelLoad c t s
  | .modelUnload c t => Sys2Proof.Machine.execModelUnload c t s
  | .filter c t => Sys2Proof.Machine.execFilter c t s
  | .loadSet c t => Sys2Proof.Machine.execLoadSet c t s
  | .signature c t => Sys2Proof.Machine.execSignature c t s
  | .unloadSet c t => Sys2Proof.Machine.execUnloadSet c t s
  | .tokenize c t => Sys2Proof.Machine.execTokenize c t s
  | .vocabLoad c t => Sys2Proof.Machine.execVocabLoad c t s
  | .vocabUnload c t => Sys2Proof.Machine.execVocabUnload c t s
  | .packSlots c t => Sys2Proof.Machine.execPackSlots c t s
  | .packRows c t => Sys2Proof.Machine.execPackRows c t s
  | .merge c t => Sys2Proof.Machine.execMerge c t s
  | .discard c t => Sys2Proof.Machine.execDiscard c t s
  | .physRead c t => Sys2Proof.Machine.execPhysRead c t s
  | .channelService c t best => Sys2Proof.Machine.execChannelService c t best s
  | .channelTraining ch dies best => Sys2Proof.Machine.execChannelTraining ch dies best s
  | .codewordRead die block page plane cw shows => Sys2Proof.Machine.execCodewordRead die block page plane cw shows s
  | .stripeReconstruction die block page plane cw => Sys2Proof.Machine.execStripeReconstruction die block page plane cw s
  | .programDone gcStream m ok => Sys2Proof.Machine.execProgramDone gcStream m ok s
  | .eraseDone m ok => Sys2Proof.Machine.execEraseDone m ok s
  | .dieTimeout die cleared answers => Sys2Proof.Machine.execDieTimeout die cleared answers s
  | .dieRebuild => Sys2Proof.Machine.execDieRebuild s
  | .patrolRead => Sys2Proof.Machine.execPatrolRead s
  | .periodicCalibration ch => Sys2Proof.Machine.execPeriodicCalibration ch s
  | .tempCalibration ch temp => Sys2Proof.Machine.execTempCalibration ch temp s
  | .read c t => Sys2Proof.Machine.execRead c t s
  | .write c t => Sys2Proof.Machine.execWrite c t s
  | .trim c t runs => Sys2Proof.Machine.execTrim c t runs s
  | .spaceCreate c t => Sys2Proof.Machine.execSpaceCreate c t s
  | .spaceDelete c t => Sys2Proof.Machine.execSpaceDelete c t s
  | .spaceWalk space => Sys2Proof.Machine.execSpaceWalk space s
  | .sync c t => Sys2Proof.Machine.execSync c t s
  | .journalPageProgram ok => Sys2Proof.Machine.execJournalPageProgram ok s
  | .fillTimer => Sys2Proof.Machine.execFillTimer s
  | .mapPageRead page => Sys2Proof.Machine.execMapPageRead page s
  | .mapWriteback page ok => Sys2Proof.Machine.execMapWriteback page ok s
  | .checkpoint => Sys2Proof.Machine.execCheckpoint s
  | .backgroundGc => Sys2Proof.Machine.execBackgroundGc s
  | .foregroundGc => Sys2Proof.Machine.execForegroundGc s
  | .gcMove => Sys2Proof.Machine.execGcMove s
  | .victimErase => Sys2Proof.Machine.execVictimErase s
  | .mount copies checkpoint => Sys2Proof.Machine.execMount copies checkpoint s
  | .portEnable w port value partner => Sys2Proof.Machine.execPortEnable w port value partner s
  | .linkDown sub => Sys2Proof.Machine.execLinkDown sub s
  | .linkUp sub => Sys2Proof.Machine.execLinkUp sub s
  | .packetReceive p kib recycled => Sys2Proof.Machine.execPacketReceive p kib recycled s
  | .pfcRepeat sub kib => Sys2Proof.Machine.execPfcRepeat sub kib s
  | .puntFrame sub frame => Sys2Proof.Machine.execPuntFrame sub frame s
  | .cnpReceive qcn => Sys2Proof.Machine.execCnpReceive qcn s
  | .rcRise sub service subscriber => Sys2Proof.Machine.execRcRise sub service subscriber s
  | .pfcReceive sub prio quanta => Sys2Proof.Machine.execPfcReceive sub prio quanta s
  | .pauseExpiry sub => Sys2Proof.Machine.execPauseExpiry sub s
  | .retryTimeout qcn => Sys2Proof.Machine.execRetryTimeout qcn s
  | .init w setup => Sys2Proof.Machine.execInit w setup s
  | .rtr w => Sys2Proof.Machine.execRtr w s
  | .rts w => Sys2Proof.Machine.execRts w s
  | .err w => Sys2Proof.Machine.execErr w s
  | .reset w unbind => Sys2Proof.Machine.execReset w unbind s
  | .deliver c t => Sys2Proof.Machine.execDeliver c t s
  | .grant qcn msg => Sys2Proof.Machine.execGrant qcn msg s
  | .decline qcn msg => Sys2Proof.Machine.execDecline qcn msg s
  | .sealAcknowledged c t => Sys2Proof.Machine.execSealAcknowledged c t s
  | .release c t => Sys2Proof.Machine.execRelease c t s
  | .noGrant c t => Sys2Proof.Machine.execNoGrant c t s
  | .reconRead c t => Sys2Proof.Machine.execReconRead c t s
  | .register c t => Sys2Proof.Machine.execRegister c t s
  | .revoke c t => Sys2Proof.Machine.execRevoke c t s
  | .revokeTimeout c t => Sys2Proof.Machine.execRevokeTimeout c t s
  | .packetSchedule sub => Sys2Proof.Machine.execPacketSchedule sub s
  | .wheelRelease => Sys2Proof.Machine.execWheelRelease s
  | .queueSample => Sys2Proof.Machine.execQueueSample s
  | .qLatch w value => Sys2Proof.Machine.execQLatch w value s
  | .qDepthRead => Sys2Proof.Machine.execQDepthRead s
  | .qDelayRead => Sys2Proof.Machine.execQDelayRead s
  | .perst => Sys2Proof.Machine.execPerst s
  | .createIoSq fn => Sys2Proof.Machine.execCreateIoSq fn s
  | .createIoCq fn => Sys2Proof.Machine.execCreateIoCq fn s
  | .deleteIoSq fn => Sys2Proof.Machine.execDeleteIoSq fn s
  | .deleteIoCq fn => Sys2Proof.Machine.execDeleteIoCq fn s
  | .getLogPage fn => Sys2Proof.Machine.execGetLogPage fn s
  | .identify fn => Sys2Proof.Machine.execIdentify fn s
  | .abort fn => Sys2Proof.Machine.execAbort fn s
  | .setFeatures fn => Sys2Proof.Machine.execSetFeatures fn s
  | .getFeatures fn => Sys2Proof.Machine.execGetFeatures fn s
  | .asynchronousEventRequest fn => Sys2Proof.Machine.execAsynchronousEventRequest fn s
  | .firmwareImageDownload src offset data => Sys2Proof.Machine.execFirmwareImageDownload src offset data s
  | .firmwareCommit src fs ca => Sys2Proof.Machine.execFirmwareCommit src fs ca s
  | .imageWriteDone ok loaderOk => Sys2Proof.Machine.execImageWriteDone ok loaderOk s
  | .createCommandRing => Sys2Proof.Machine.execCreateCommandRing s
  | .deleteCommandRing => Sys2Proof.Machine.execDeleteCommandRing s
  | .nvmeFlush fn => Sys2Proof.Machine.execNvmeFlush fn s
  | .nvmeWrite fn => Sys2Proof.Machine.execNvmeWrite fn s
  | .nvmeRead fn => Sys2Proof.Machine.execNvmeRead fn s
  | .writeZeroes fn => Sys2Proof.Machine.execWriteZeroes fn s
  | .datasetManagement fn runs => Sys2Proof.Machine.execDatasetManagement fn runs s
  | .controllerReset fn => Sys2Proof.Machine.execControllerReset fn s
  | .apst fn => Sys2Proof.Machine.execApst fn s
  | .powerStateChange => Sys2Proof.Machine.execPowerStateChange s
  | .hostDeliver c t fails => Sys2Proof.Machine.execHostDeliver c t fails s
  | .copy c t => Sys2Proof.Machine.execCopy c t s
  | .go w n => Sys2Proof.Machine.execGo w n s
  | .dmaBurst fails => Sys2Proof.Machine.execDmaBurst fails s
  | .dmaTransferDone n => Sys2Proof.Machine.execDmaTransferDone n s
  | .pause w n => Sys2Proof.Machine.execPause w n s
  | .pauseClear w n => Sys2Proof.Machine.execPauseClear w n s
  | .valid w n => Sys2Proof.Machine.execValid w n s
  | .poolEnable w n value => Sys2Proof.Machine.execPoolEnable w n value s
  | .freeListBuilt n => Sys2Proof.Machine.execFreeListBuilt n s
  | .poolDisable w n value => Sys2Proof.Machine.execPoolDisable w n value s
  | .alloc c t => Sys2Proof.Machine.execAlloc c t s
  | .free c t => Sys2Proof.Machine.execFree c t s
  | .leaseRenewal => Sys2Proof.Machine.execLeaseRenewal s
  | .leaseGrant requested granted lease term => Sys2Proof.Machine.execLeaseGrant requested granted lease term s
  | .fence => Sys2Proof.Machine.execFence s
  | .unfence w => Sys2Proof.Machine.execUnfence w s
  | .leaseExpiryWrite w value => Sys2Proof.Machine.execLeaseExpiryWrite w value s
  | .workerDead worker spare group place lastGrant => Sys2Proof.Machine.execWorkerDead worker spare group place lastGrant s
  | .managerTakeover grants => Sys2Proof.Machine.execManagerTakeover grants s
  | .ptpExchange offset rate => Sys2Proof.Machine.execPtpExchange offset rate s
  | .holdover => Sys2Proof.Machine.execHoldover s
  | .dropMap epoch block positions maps => Sys2Proof.Machine.execDropMap epoch block positions maps s
  | .backupStart group seq place firstOffer delay node recovered => Sys2Proof.Machine.execBackupStart group seq place firstOffer delay node recovered s
  | .checkPreparation seq part => Sys2Proof.Machine.execCheckPreparation seq part s
  | .digestMismatch seq part first second third delivered qcn => Sys2Proof.Machine.execDigestMismatch seq part first second third delivered qcn s
  | .coldStart chans dram eepromOk loaderOk => Sys2Proof.Machine.execColdStart chans dram eepromOk loaderOk s
  | .ladderStep => Sys2Proof.Machine.execLadderStep s
  | .warmReset w value loaderOk => Sys2Proof.Machine.execWarmReset w value loaderOk s
  | .polderReset w value => Sys2Proof.Machine.execPolderReset w value s
  | .coreReset w c => Sys2Proof.Machine.execCoreReset w c s
  | .coreRelease w c => Sys2Proof.Machine.execCoreRelease w c s
  | .padRelease w polders => Sys2Proof.Machine.execPadRelease w polders s
  | .clockStop w polder stop => Sys2Proof.Machine.execClockStop w polder stop s
  | .clockSourceSwitch w polder pll => Sys2Proof.Machine.execClockSourceSwitch w polder pll s
  | .oppChange w polder opp => Sys2Proof.Machine.execOppChange w polder opp s
  | .powerGovernor input nand => Sys2Proof.Machine.execPowerGovernor input nand s
  | .clockStretch polder => Sys2Proof.Machine.execClockStretch polder s
  | .ms3Entry => Sys2Proof.Machine.execMs3Entry s
  | .ms3Exit => Sys2Proof.Machine.execMs3Exit s
  | .ms4Entry => Sys2Proof.Machine.execMs4Entry s
  | .ms4Exit eccError loaderOk => Sys2Proof.Machine.execMs4Exit eccError loaderOk s
  | .sidebandMatch addr => Sys2Proof.Machine.execSidebandMatch addr s
  | .pcieWake => Sys2Proof.Machine.execPcieWake s
  | .gtcWake => Sys2Proof.Machine.execGtcWake s
  | .inputStart => Sys2Proof.Machine.execInputStart s
  | .dip => Sys2Proof.Machine.execDip s
  | .powerFailTrigger => Sys2Proof.Machine.execPowerFailTrigger s
  | .overvoltage => Sys2Proof.Machine.execOvervoltage s
  | .overcurrent => Sys2Proof.Machine.execOvercurrent s
  | .flushEnd => Sys2Proof.Machine.execFlushEnd s
  | .postFlushRestart recovered => Sys2Proof.Machine.execPostFlushRestart recovered s
  | .bankSample vbank vin iin => Sys2Proof.Machine.execBankSample vbank vin iin s
  | .capacitorTest => Sys2Proof.Machine.execCapacitorTest s
  | .testLoadConnect drop => Sys2Proof.Machine.execTestLoadConnect drop s
  | .testLoadDisconnect => Sys2Proof.Machine.execTestLoadDisconnect s
  | .testEnd => Sys2Proof.Machine.execTestEnd s
  | .capacitorTestRequest w => Sys2Proof.Machine.execCapacitorTestRequest w s
  | .controlledPowerOff w value => Sys2Proof.Machine.execControlledPowerOff w value s
  | .ejectorOpen => Sys2Proof.Machine.execEjectorOpen s
  | .nandRailTrip => Sys2Proof.Machine.execNandRailTrip s
  | .thermalThrottle temp => Sys2Proof.Machine.execThermalThrottle temp s
  | .thermalPowerOff temp => Sys2Proof.Machine.execThermalPowerOff temp s
  | .restartWrite w n value => Sys2Proof.Machine.execRestartWrite w n value s
  | .gtcNowRead high => Sys2Proof.Machine.execGtcNowRead high s
  | .sramUe polder detail address => Sys2Proof.Machine.execSramUe polder detail address s
  | .dramUe polder detail address => Sys2Proof.Machine.execDramUe polder detail address s
  | .clock polder => Sys2Proof.Machine.execClock polder s
  | .voltage polder => Sys2Proof.Machine.execVoltage polder s
  | .watchdog c => Sys2Proof.Machine.execWatchdog c s
  | .hsmAbort polder machine work => Sys2Proof.Machine.execHsmAbort polder machine work s
  | .selfCheck polder detail => Sys2Proof.Machine.execSelfCheck polder detail s
  | .force w value => Sys2Proof.Machine.execForce w value s
  | .singleFlip => Sys2Proof.Machine.execSingleFlip s
  | .kick w cores => Sys2Proof.Machine.execKick w cores s
  | .clear w units => Sys2Proof.Machine.execClear w units s
  | .latch w unit => Sys2Proof.Machine.execLatch w unit s
  | .selfTestRequest w cls unit => Sys2Proof.Machine.execSelfTestRequest w cls unit s
  | .retire w cls unit => Sys2Proof.Machine.execRetire w cls unit s
  | .selfTest passes => Sys2Proof.Machine.execSelfTest passes s
  | .replayRequest ev => Sys2Proof.Machine.execReplayRequest ev s
  | .dapRead space addr => Sys2Proof.Machine.execDapRead space addr s
  | .dapWrite space addr data => Sys2Proof.Machine.execDapWrite space addr data s
  | .idcode => Sys2Proof.Machine.execIdcode s
  | .bypass ir => Sys2Proof.Machine.execBypass ir s
  | .traceSync => Sys2Proof.Machine.execTraceSync s
  | .arm w => Sys2Proof.Machine.execArm w s
  | .fire w => Sys2Proof.Machine.execFire w s
  | .frozen => Sys2Proof.Machine.execFrozen s
  | .mark w value => Sys2Proof.Machine.execMark w value s
  | .tracePortSend => Sys2Proof.Machine.execTracePortSend s
  | .attest w => Sys2Proof.Machine.execAttest w s
  | .readCert w => Sys2Proof.Machine.execReadCert w s
  | .dbgChallenge w => Sys2Proof.Machine.execDbgChallenge w s
  | .dbgUnlock w => Sys2Proof.Machine.execDbgUnlock w s
  | .tokenRefill => Sys2Proof.Machine.execTokenRefill s
  | .svnCommit w => Sys2Proof.Machine.execSvnCommit w s
  | .activationArm w value => Sys2Proof.Machine.execActivationArm w value s
  | .disarm w => Sys2Proof.Machine.execDisarm w s
  | .activation loaderOk => Sys2Proof.Machine.execActivation loaderOk s
  | .registerWrite w off value => Sys2Proof.Machine.execRegisterWrite w off value s
  | .powerOnCommand => Sys2Proof.Machine.execPowerOnCommand s
  | .pllLock polder => Sys2Proof.Machine.execPllLock polder s
  | .managementMailboxRead c => Sys2Proof.Machine.execManagementMailboxRead c s
  | .inputHigh => Sys2Proof.Machine.execInputHigh s
  | .nandOverload => Sys2Proof.Machine.execNandOverload s
  | .pcieLinkTrained speed width flit vfs payload => Sys2Proof.Machine.execPcieLinkTrained speed width flit vfs payload s
  | .nvmeDoorbell fn qid completion value stores => Sys2Proof.Machine.execNvmeDoorbell fn qid completion value stores s
  | .controllerEnable fn asq acq sqSize cqSize mps wrr => Sys2Proof.Machine.execControllerEnable fn asq acq sqSize cqSize mps wrr s
  | .generationHoldEnd c t => Sys2Proof.Machine.execGenerationHoldEnd c t s

end Sys2Proof.Machine
end

