-- ==== Sys2Proof/Machine/Tick.lean ====
section
/-!
DEFINITION. What passes between commands: a tick of the global tick counter, and the waits that end on their own at it (R122, R458,
R488, R502).
-/

namespace Sys2Proof.Machine

/-- One tick of the GTC, a nanosecond (R27), while PA has power: a step of the GTC that waits for no launch to be pending is made
(R458), and drained recipes, cores and polders settle. DESIGN CHOICE (log entry 5): the table has no row for a tick. -/
def State.tick (s : State) : State :=
  if s.powered then (({ s with gtc := s.gtc + 1 } : State).makeStep).settleAll else s

end Sys2Proof.Machine
end

