-- ==== Sys2Proof/Safety.lean ====
section
/-!
DEFINITION. What a safe run of the SN-1 is, and the words the claims use.
-/

namespace Sys2Proof.Machine

/-- A step is safe when it answers a next state: no fault and no refusal. -/
def Safe (o : Host.Outcome State Fault Refusal) : Prop := ∃ t, o = .next t

/-- The byte memories are in canonical form: DRAM, host memory and the boot flash. -/
def State.memWf (s : State) : Prop := Mem.wf s.dram = true ∧ Mem.wf s.host.mem = true ∧ Mem.wf s.bootFlash = true

/-- STATUS of a core is legal: PRIV and PREV_PRIV_M are not 0b11 and the reserved bits are 0 (R37, R67). -/
def Core.statusLegal (k : Core) : Prop := k.priv ≠ 3 ∧ k.prevPrivM ≠ 3 ∧ k.status &&& 0xFFFFFFFFFFFF007C = 0

/-- The instruction at `pc` of a core starts: none of the events of R73 that come before it falls on it. -/
def State.starts (s : State) (c : CoreId) : Prop := s.issue c = .go

/-- `s` after an instruction of core `c` that writes `v` to `rd` and retires. -/
def State.wrote (s : State) (c : CoreId) (rd : RegField) (v : Word64) : State :=
  s.setCore c (((s.core c).setReg rd v).retire c)

/-- The check of a data access finds nothing against it (R73). -/
def State.allowed (s : State) (c : CoreId) (kind : AccessKind) (a : Word64) (n : Nat) (scalar : Bool) : Prop :=
  s.checkAccess c kind a n scalar = none

/-- DRAM in `t` is DRAM in `s` with the `n` bytes at `a` holding `v` little-endian; a stored word's error is gone. -/
def StoredBytes (s t : State) (a n v : Nat) : Prop :=
  (∀ i, i < n → Mem.get t.dram (a + i) = BitVec.ofNat 8 (v / 256 ^ i)) ∧
  (∀ x, x < a ∨ a + n ≤ x → Mem.get t.dram x = Mem.get s.dram x) ∧
  (∀ w, w ∈ t.dramErr ↔ w ∈ s.dramErr ∧ ¬ (a ≤ w * 8 ∧ w * 8 + 8 ≤ a + n))

/-- `t` is `s` but for its cores. -/
def OnlyCores (s t : State) : Prop := { t with cores := s.cores } = s

/-- `t` is `s` but for DRAM, cores and descriptor rings. -/
def OnlyMemRings (s t : State) : Prop := { t with dram := s.dram, dramErr := s.dramErr, cores := s.cores, rings := s.rings } = s

/-- `t` is `s` but for DRAM and for core `c`, which became `k`. -/
def OnlyStored (s t : State) (c : CoreId) (k : Core) : Prop :=
  t.core c = k ∧ (∀ d : CoreId, d ≠ c → t.core d = s.core d) ∧ { t with dram := s.dram, dramErr := s.dramErr, cores := s.cores } = s

/-- An atomic whose new value is `g` of the old value, rb and rd, at both widths (R55): the 32-bit form returns the old value
sign-extended. -/
def AtomResult (i : Instr) (c : CoreId) (f : Atom) (s : State) (g : (n : Nat) → BitVec n → BitVec n → BitVec n → BitVec n) : Prop :=
  let k := s.core c
  let a := k.reg f.regs.ra
  (f.wide = true → s.allowed c .atomic a 8 false → ∃ t old : _, exec i s = .next t ∧ old = BitVec.ofNat 64 (leNat (s.physBytes a.toNat 8)) ∧
    StoredBytes s t a.toNat 8 (g 64 old (k.reg f.regs.rb) (k.reg f.regs.rd)).toNat ∧ OnlyStored s t c ((k.setReg f.regs.rd old).retire c)) ∧
  (f.wide = false → s.allowed c .atomic a 4 false → ∃ t old : _, exec i s = .next t ∧ old = BitVec.ofNat 32 (leNat (s.physBytes a.toNat 4)) ∧
    StoredBytes s t a.toNat 4 (g 32 old ((k.reg f.regs.rb).setWidth 32) ((k.reg f.regs.rd).setWidth 32)).toNat ∧
    OnlyStored s t c ((k.setReg f.regs.rd (old.signExtend 64)).retire c))

/-- A lane-wise vector integer instruction (R56): each lane of rd is `g` of the lanes of ra and rb. -/
def LaneResult (i : Instr) (c : CoreId) (f : Vec) (s : State) (g : (w : Nat) → BitVec w → BitVec w → BitVec w) : Prop :=
  let k := s.core c
  ∃ v : VWord, exec i s = .next (s.setCore c ((k.setVreg f.regs.rd v).retire c)) ∧
    ∀ j, j < 512 / laneBits f.width →
      laneOf (laneBits f.width) v j =
        g (laneBits f.width) (laneOf (laneBits f.width) (k.vreg f.regs.ra) j) (laneOf (laneBits f.width) (k.vreg f.regs.rb) j)

/-- The engine's work on a core's ticket has ended with a status and a detail; DESCRIPTOR_COMPLETE completes it. -/
def EndedWith (t : State) (c : CoreId) (tk : Ticket) (status detail : Nat) : Prop :=
  ∃ y r, t.takenAt c tk = some y ∧ y.result = some r ∧ r.status = BitVec.ofNat 8 status ∧ r.detail = BitVec.ofNat 16 detail

/-- The same for whatever detail the command gives. -/
def Ended (t : State) (c : CoreId) (tk : Ticket) (status : Nat) : Prop := ∃ detail, EndedWith t c tk status detail

end Sys2Proof.Machine
end

