-- ==== Sys2Proof/Certificates/Slice0/Obligations.lean ====
section
/-!
DEFINITION. The statements for the provers.
-/

open Sys2Proof Sys2Proof.Machine Sys2Proof.Machine.Reg

/-- R52: the integer functions of opcodes 0x01 and 0x02 that take two registers. The whole next state is named: rd takes the
result (g0 discards it), the instruction retires, and everything else is as it was. -/
def Obligations.IntegerResults : Prop :=
  ∀ (c : CoreId) (f : Rrr) (s : State), s.starts c →
    ∀ a b : Word64, (s.core c).reg f.ra = a → (s.core c).reg f.rb = b →
      exec (.add c (.add f)) s = .next (s.wrote c f.rd (a + b)) ∧
      exec (.dif c f) s = .next (s.wrote c f.rd (a - b)) ∧
      exec (.and c f) s = .next (s.wrote c f.rd (a &&& b)) ∧
      exec (.or c f) s = .next (s.wrote c f.rd (a ||| b)) ∧
      exec (.xor c f) s = .next (s.wrote c f.rd (a ^^^ b)) ∧
      exec (.sll c f) s = .next (s.wrote c f.rd (BitVec.ofNat 64 (a.toNat * 2 ^ (b.toNat % 64)))) ∧
      exec (.srl c f) s = .next (s.wrote c f.rd (BitVec.ofNat 64 (a.toNat / 2 ^ (b.toNat % 64)))) ∧
      exec (.sra c f) s = .next (s.wrote c f.rd (BitVec.ofInt 64 (a.toInt / 2 ^ (b.toNat % 64)))) ∧
      exec (.slt c f) s = .next (s.wrote c f.rd (if a.toInt < b.toInt then 1 else 0)) ∧
      exec (.sltu c f) s = .next (s.wrote c f.rd (if a.toNat < b.toNat then 1 else 0)) ∧
      exec (.min c f) s = .next (s.wrote c f.rd (BitVec.ofInt 64 (Min.min a.toInt b.toInt))) ∧
      exec (.max c f) s = .next (s.wrote c f.rd (BitVec.ofInt 64 (Max.max a.toInt b.toInt))) ∧
      exec (.minu c f) s = .next (s.wrote c f.rd (BitVec.ofNat 64 (Min.min a.toNat b.toNat))) ∧
      exec (.maxu c f) s = .next (s.wrote c f.rd (BitVec.ofNat 64 (Max.max a.toNat b.toNat))) ∧
      exec (.addw c f) s = .next (s.wrote c f.rd ((a.setWidth 32 + b.setWidth 32).signExtend 64)) ∧
      exec (.difw c f) s = .next (s.wrote c f.rd ((a.setWidth 32 - b.setWidth 32).signExtend 64)) ∧
      exec (.sllw c f) s = .next (s.wrote c f.rd ((BitVec.ofNat 32 (a.toNat * 2 ^ (b.toNat % 32))).signExtend 64)) ∧
      exec (.srlw c f) s = .next (s.wrote c f.rd ((BitVec.ofNat 32 (a.toNat % 2 ^ 32 / 2 ^ (b.toNat % 32))).signExtend 64)) ∧
      exec (.sraw c f) s = .next (s.wrote c f.rd (BitVec.ofInt 64 ((a.setWidth 32).toInt / 2 ^ (b.toNat % 32)))) ∧
      exec (.mul c f) s = .next (s.wrote c f.rd (BitVec.ofNat 64 (a.toNat * b.toNat))) ∧
      exec (.mulh c f) s = .next (s.wrote c f.rd (BitVec.ofInt 64 (a.toInt * b.toInt / 2 ^ 64))) ∧
      exec (.mulhu c f) s = .next (s.wrote c f.rd (BitVec.ofNat 64 (a.toNat * b.toNat / 2 ^ 64)))

/-- R53: division never traps; by zero it writes all ones and the dividend, and −2^63 ÷ −1 writes −2^63 and 0. Otherwise the
quotient is rounded toward zero and the remainder has the sign of ra. -/
def Obligations.DivisionResults : Prop :=
  ∀ (c : CoreId) (f : Rrr) (s : State), s.starts c →
    ∀ a b : Word64, (s.core c).reg f.ra = a → (s.core c).reg f.rb = b →
      ∃ q r qu ru : Word64,
        exec (.div c f) s = .next (s.wrote c f.rd q) ∧ exec (.rem c f) s = .next (s.wrote c f.rd r) ∧
        exec (.divu c f) s = .next (s.wrote c f.rd qu) ∧ exec (.remu c f) s = .next (s.wrote c f.rd ru) ∧
        (b = 0 → q = BitVec.allOnes 64 ∧ r = a ∧ qu = BitVec.allOnes 64 ∧ ru = a) ∧
        (b ≠ 0 → q = BitVec.ofInt 64 (a.toInt.tdiv b.toInt) ∧ r.toInt = a.toInt.tmod b.toInt ∧
          qu.toNat = a.toNat / b.toNat ∧ ru.toNat = a.toNat % b.toNat ∧ q * b + r = a ∧ qu * b + ru = a) ∧
        (a = BitVec.intMin 64 → b = BitVec.allOnes 64 → q = BitVec.intMin 64 ∧ r = 0)

/-- R51, R52: the functions of one source count and reverse as stated where the rb field is g0, and raise ILLEGAL with the
instruction word as value otherwise.
R49, R52: the immediate forms. A shift immediate with imm[15:8] set and a `lui` with a source raise ILLEGAL. -/
def Obligations.BitAndImmediateResults : Prop :=
  (∀ (c : CoreId) (f : Rrr) (s : State), s.starts c → ∀ a : Word64, (s.core c).reg f.ra = a →
     (f.rb = 0 → ∃ lz tz pc h w d : Word64,
       exec (.clz c f) s = .next (s.wrote c f.rd lz) ∧ exec (.ctz c f) s = .next (s.wrote c f.rd tz) ∧
       exec (.pop c f) s = .next (s.wrote c f.rd pc) ∧ exec (.bswapH c f) s = .next (s.wrote c f.rd h) ∧
       exec (.bswapW c f) s = .next (s.wrote c f.rd w) ∧ exec (.bswapD c f) s = .next (s.wrote c f.rd d) ∧
       lz.toNat ≤ 64 ∧ (∀ i, i < lz.toNat → a.getMsbD i = false) ∧ (lz.toNat < 64 → a.getMsbD lz.toNat = true) ∧
       tz.toNat ≤ 64 ∧ (∀ i, i < tz.toNat → a.getLsbD i = false) ∧ (tz.toNat < 64 → a.getLsbD tz.toNat = true) ∧
       pc.toNat = ((Finset.range 64).filter (fun i => a.getLsbD i = true)).card ∧
       h.toNat < 2 ^ 16 ∧ (∀ i, i < 2 → h.extractLsb' (8 * i) 8 = a.extractLsb' (8 * (1 - i)) 8) ∧
       w.toNat < 2 ^ 32 ∧ (∀ i, i < 4 → w.extractLsb' (8 * i) 8 = a.extractLsb' (8 * (3 - i)) 8) ∧
       (∀ i, i < 8 → d.extractLsb' (8 * i) 8 = a.extractLsb' (8 * (7 - i)) 8)) ∧
     (f.rb ≠ 0 →
       exec (.clz c f) s = .next (s.raise c excIllegal ((wordRrr 0x01 f 0x20).setWidth 64)) ∧
       exec (.ctz c f) s = .next (s.raise c excIllegal ((wordRrr 0x01 f 0x21).setWidth 64)) ∧
       exec (.pop c f) s = .next (s.raise c excIllegal ((wordRrr 0x01 f 0x22).setWidth 64)) ∧
       exec (.bswapH c f) s = .next (s.raise c excIllegal ((wordRrr 0x01 f 0x23).setWidth 64)) ∧
       exec (.bswapW c f) s = .next (s.raise c excIllegal ((wordRrr 0x01 f 0x24).setWidth 64)) ∧
       exec (.bswapD c f) s = .next (s.raise c excIllegal ((wordRrr 0x01 f 0x25).setWidth 64)))) ∧
  (∀ (c : CoreId) (s : State), s.starts c →
     (∀ (f : Rri) (a : Word64), (s.core c).reg f.ra = a →
       exec (.addi c f) s = .next (s.wrote c f.rd (a + f.imm.signExtend 64)) ∧
       exec (.andi c f) s = .next (s.wrote c f.rd (a &&& f.imm.setWidth 64)) ∧
       exec (.ori c f) s = .next (s.wrote c f.rd (a ||| f.imm.setWidth 64)) ∧
       exec (.xori c f) s = .next (s.wrote c f.rd (a ^^^ f.imm.setWidth 64)) ∧
       exec (.slti c f) s = .next (s.wrote c f.rd (if a.toInt < f.imm.toInt then 1 else 0)) ∧
       exec (.sltiu c f) s = .next (s.wrote c f.rd (if a.toNat < (f.imm.signExtend 64).toNat then 1 else 0)) ∧
       (f.ra = 0 → exec (.lui c f) s = .next (s.wrote c f.rd (BitVec.ofInt 64 (f.imm.toInt * 65536)))) ∧
       (f.ra ≠ 0 → exec (.lui c f) s = .next (s.raise c excIllegal ((wordRri 0x0F f).setWidth 64)))) ∧
     (∀ (f : ShiftImm) (a : Word64), (s.core c).reg f.ra = a →
       (f.upper = 0 →
         exec (.slli c f) s = .next (s.wrote c f.rd (BitVec.ofNat 64 (a.toNat * 2 ^ f.shamt.toNat))) ∧
         exec (.srli c f) s = .next (s.wrote c f.rd (BitVec.ofNat 64 (a.toNat / 2 ^ f.shamt.toNat))) ∧
         exec (.srai c f) s = .next (s.wrote c f.rd (BitVec.ofInt 64 (a.toInt / 2 ^ f.shamt.toNat)))) ∧
       (f.upper ≠ 0 →
         exec (.slli c f) s = .next (s.raise c excIllegal ((wordShift 0 f).setWidth 64)) ∧
         exec (.srli c f) s = .next (s.raise c excIllegal ((wordShift 1 f).setWidth 64)) ∧
         exec (.srai c f) s = .next (s.raise c excIllegal ((wordShift 2 f).setWidth 64)))))

/-- R34: g0 reads as zero and a write to it is discarded, and `jal` writes its return address to g31. What an instruction that writes
one register leaves: rd holds the value unless it is g0; `pc` is past the instruction and INSTRET has counted it; every other
register of the core, every other core and everything outside the cores is as it was. -/
def Obligations.RegisterWriteFrame : Prop :=
  (∀ k : Core, k.reg 0 = 0) ∧ (∀ (k : Core) (v : Word64), k.setReg 0 v = k) ∧
  (∀ (c : CoreId) (off : BitVec 26) (s : State), s.starts c → ∃ t : State, exec (.jal c off) s = .next t ∧
    (t.core c).reg 31 = (s.core c).pc + 4 ∧ (∀ r : RegField, r ≠ 31 → (t.core c).reg r = (s.core c).reg r)) ∧
  (∀ (c : CoreId) (rd : RegField) (v : Word64) (s t : State), s.wrote c rd v = t →
    (t.core c).reg rd = (if rd = 0 then 0 else v) ∧
    (∀ r : RegField, r ≠ rd → (t.core c).reg r = (s.core c).reg r) ∧
    (t.core c).pc = (s.core c).pc + 4 ∧ (t.core c).instret = (s.core c).instret + 1 ∧
    { (t.core c) with g := (s.core c).g, pc := (s.core c).pc, instret := (s.core c).instret, cycle := (s.core c).cycle
                      wait := (s.core c).wait } = s.core c ∧
    (∀ d : CoreId, d ≠ c → t.core d = s.core d) ∧ OnlyCores s t)

/-- R49, R54: a branch goes to its target exactly when its comparison holds, `j` and `jal` to theirs, and `jalr` to
ra + imm with bits [1:0] clear; `jal` and `jalr` write the address of the next instruction. Nothing else changes but the
counters of a retired instruction. -/
def Obligations.ControlTransfers : Prop :=
  ∀ (c : CoreId) (s : State), s.starts c → ∀ k : Core, s.core c = k →
    (∀ (f : Br) (a b : Word64), k.reg f.ra = a → k.reg f.rb = b →
      let goes (p : Prop) [Decidable p] : State :=
        s.setCore c (k.retireTo c (if p then k.pc + BitVec.ofInt 64 (4 * f.off.toInt) else k.pc + 4))
      exec (.beq c f) s = .next (goes (a = b)) ∧ exec (.bne c f) s = .next (goes (a ≠ b)) ∧
      exec (.blt c f) s = .next (goes (a.toInt < b.toInt)) ∧ exec (.bge c f) s = .next (goes (b.toInt ≤ a.toInt)) ∧
      exec (.bltu c f) s = .next (goes (a.toNat < b.toNat)) ∧ exec (.bgeu c f) s = .next (goes (b.toNat ≤ a.toNat))) ∧
    (∀ off : BitVec 26,
      exec (.j c off) s = .next (s.setCore c (k.retireTo c (k.pc + BitVec.ofInt 64 (4 * off.toInt)))) ∧
      exec (.jal c off) s =
        .next (s.setCore c ((k.setReg 31 (k.pc + 4)).retireTo c (k.pc + BitVec.ofInt 64 (4 * off.toInt))))) ∧
    (∀ f : Rri, exec (.jalr c f) s =
      .next (s.setCore c ((k.setReg f.rd (k.pc + 4)).retireTo c ((k.reg f.ra + f.imm.signExtend 64) &&& ~~~3#64))))

/-- R54, R11: a load that nothing stands against writes the little-endian bytes at ra + imm to its register, signed or zero
extended; `lw` and `lwu` do so outside the register space. Memory and everything else is as it was.
R54, R11: a store that nothing stands against writes the low bytes of its register at ra + imm, in little-endian order;
`sw` does so outside the register space. Every other byte of memory and everything else is as it was. -/
def Obligations.LoadsAndStores : Prop :=
  (∀ (c : CoreId) (f : Rri) (s : State), s.starts c → ∀ a : Word64, (s.core c).reg f.ra + f.imm.signExtend 64 = a →
     let v (n : Nat) : Nat := leNat (s.physBytes a.toNat n)
     (s.allowed c .load a 1 false →
       exec (.lb c f) s = .next (s.wrote c f.rd ((BitVec.ofNat 8 (v 1)).signExtend 64)) ∧
       exec (.lbu c f) s = .next (s.wrote c f.rd (BitVec.ofNat 64 (v 1)))) ∧
     (s.allowed c .load a 2 false →
       exec (.lh c f) s = .next (s.wrote c f.rd ((BitVec.ofNat 16 (v 2)).signExtend 64)) ∧
       exec (.lhu c f) s = .next (s.wrote c f.rd (BitVec.ofNat 64 (v 2)))) ∧
     (s.allowed c .load a 4 true → s.regionAt a.toNat 4 ≠ .registers →
       exec (.lw c f) s = .next (s.wrote c f.rd ((BitVec.ofNat 32 (v 4)).signExtend 64)) ∧
       exec (.lwu c f) s = .next (s.wrote c f.rd (BitVec.ofNat 64 (v 4)))) ∧
     (s.allowed c .load a 8 false → exec (.ld c f) s = .next (s.wrote c f.rd (BitVec.ofNat 64 (v 8)))) ∧
     (s.allowed c .load a 64 false → f.rd.toNat < 16 →
       exec (.vld c f) s = .next (s.setCore c (((s.core c).setVreg f.rd (BitVec.ofNat 512 (v 64))).retire c)))) ∧
  (∀ (c : CoreId) (f : Rri) (s : State), s.starts c → ∀ a : Word64, (s.core c).reg f.ra + f.imm.signExtend 64 = a →
     ∀ k : Core, s.core c = k →
     (s.allowed c .store a 1 false →
       ∃ t, exec (.sb c f) s = .next t ∧ StoredBytes s t a.toNat 1 (k.reg f.rd).toNat ∧ OnlyStored s t c (k.retire c)) ∧
     (s.allowed c .store a 2 false →
       ∃ t, exec (.sh c f) s = .next t ∧ StoredBytes s t a.toNat 2 (k.reg f.rd).toNat ∧ OnlyStored s t c (k.retire c)) ∧
     (s.allowed c .store a 4 true → s.regionAt a.toNat 4 ≠ .registers →
       ∃ t, exec (.sw c f) s = .next t ∧ StoredBytes s t a.toNat 4 (k.reg f.rd).toNat ∧ OnlyStored s t c (k.retire c)) ∧
     (s.allowed c .store a 8 false →
       ∃ t, exec (.sd c f) s = .next t ∧ StoredBytes s t a.toNat 8 (k.reg f.rd).toNat ∧ OnlyStored s t c (k.retire c)) ∧
     (s.allowed c .store a 64 false → f.rd.toNat < 16 →
       ∃ t, exec (.vst c f) s = .next t ∧ StoredBytes s t a.toNat 64 (k.vreg f.rd).toNat ∧ OnlyStored s t c (k.retire c)))

/-- R47, R55: an atomic reads memory, writes the new value there and the old one to rd in one step; `atcas` writes whether or
not the values are equal. -/
def Obligations.AtomicResults : Prop :=
  ∀ (c : CoreId) (f : Atom) (s : State), s.starts c →
    AtomResult (.atadd c f) c f s (fun _ old b _ => old + b) ∧
    AtomResult (.atswp c f) c f s (fun _ _ b _ => b) ∧
    AtomResult (.atand c f) c f s (fun _ old b _ => old &&& b) ∧
    AtomResult (.ator c f) c f s (fun _ old b _ => old ||| b) ∧
    AtomResult (.atxor c f) c f s (fun _ old b _ => old ^^^ b) ∧
    AtomResult (.atmax c f) c f s (fun _ old b _ => if old.toInt < b.toInt then b else old) ∧
    AtomResult (.atmin c f) c f s (fun _ old b _ => if b.toInt < old.toInt then b else old) ∧
    AtomResult (.atmaxu c f) c f s (fun _ old b _ => if old.toNat < b.toNat then b else old) ∧
    AtomResult (.atminu c f) c f s (fun _ old b _ => if b.toNat < old.toNat then b else old) ∧
    AtomResult (.atcas c f) c f s (fun _ old b d => if old = d then b else old)

/-- R68, R73: what stands against a load or store falls in the order alignment, watchpoint, access, data error, and leaves
memory as it was: the exception carries the address. -/
def Obligations.AccessTraps : Prop :=
  ∀ (c : CoreId) (f : Rri) (s : State), s.starts c → ∀ a : Word64, (s.core c).reg f.ra + f.imm.signExtend 64 = a →
    (a.toNat % 8 ≠ 0 → exec (.ld c f) s = .next (s.raise c excLoadAlign a) ∧ exec (.sd c f) s = .next (s.raise c excStoreAlign a)) ∧
    (a.toNat % 8 = 0 → (s.core c).watchpoint .load a 8 = .raise → exec (.ld c f) s = .next (s.raise c excWatchpoint a)) ∧
    (a.toNat % 8 = 0 → (s.core c).watchpoint .store a 8 = .halt → exec (.sd c f) s = .next (s.enterHalt c 3)) ∧
    (a.toNat % 8 = 0 → (s.core c).watchpoint .load a 8 = .none → s.accessAllowed c .load a 8 false = false →
      exec (.ld c f) s = .next (s.raise c excLoadAccess a)) ∧
    (a.toNat % 8 = 0 → (s.core c).watchpoint .store a 8 = .none → s.accessAllowed c .store a 8 false = false →
      exec (.sd c f) s = .next (s.raise c excStoreAccess a)) ∧
    (a.toNat % 8 = 0 → (s.core c).watchpoint .load a 8 = .none → s.accessAllowed c .load a 8 false = true →
      s.hasDataError a.toNat 8 = true → exec (.ld c f) s = .next (s.raise c excDataError a))

/-- R56: lane-wise integer vector instructions wrap within the lane and shift modulo its width.
R56: broadcast, extract, insert and the lane sum; a lane index past the last lane reads 0 and inserts nothing.
R51, R57: a floating-point vector instruction acts on each lane with the rounding and flags of its function, its
conditions joining FFLAGS; lane widths below 32 bits raise ILLEGAL. -/
def Obligations.VectorInstructions : Prop :=
  (∀ (c : CoreId) (f : Vec) (s : State), s.starts c → f.regs.rd.toNat < 16 → f.regs.ra.toNat < 16 → f.regs.rb.toNat < 16 →
     LaneResult (.vadd c f) c f s (fun _ a b => a + b) ∧ LaneResult (.vdif c f) c f s (fun _ a b => a - b) ∧
     LaneResult (.vmul c f) c f s (fun _ a b => a * b) ∧ LaneResult (.vand c f) c f s (fun _ a b => a &&& b) ∧
     LaneResult (.vor c f) c f s (fun _ a b => a ||| b) ∧ LaneResult (.vxor c f) c f s (fun _ a b => a ^^^ b) ∧
     LaneResult (.vmin c f) c f s (fun w a b => BitVec.ofInt w (Min.min a.toInt b.toInt)) ∧
     LaneResult (.vmax c f) c f s (fun w a b => BitVec.ofInt w (Max.max a.toInt b.toInt)) ∧
     LaneResult (.vminu c f) c f s (fun w a b => BitVec.ofNat w (Min.min a.toNat b.toNat)) ∧
     LaneResult (.vmaxu c f) c f s (fun w a b => BitVec.ofNat w (Max.max a.toNat b.toNat)) ∧
     LaneResult (.vsll c f) c f s (fun w a b => a <<< (b.toNat % w)) ∧
     LaneResult (.vsrl c f) c f s (fun w a b => a >>> (b.toNat % w)) ∧
     LaneResult (.vsra c f) c f s (fun w a b => BitVec.ofInt w (a.toInt / 2 ^ (b.toNat % w))) ∧
     LaneResult (.vcmpeq c f) c f s (fun w a b => if a = b then BitVec.allOnes w else 0) ∧
     LaneResult (.vcmplt c f) c f s (fun w a b => if a.toInt < b.toInt then BitVec.allOnes w else 0) ∧
     LaneResult (.vcmpltu c f) c f s (fun w a b => if a.toNat < b.toNat then BitVec.allOnes w else 0)) ∧
  (∀ (c : CoreId) (f : Vec) (s : State), s.starts c → ∀ k : Core, s.core c = k → ∀ w n : Nat, laneBits f.width = w → 512 / w = n →
     (f.regs.rd.toNat < 16 → f.regs.rb = 0 → ∃ v, exec (.vbcast c f) s = .next (s.setCore c ((k.setVreg f.regs.rd v).retire c)) ∧
       ∀ j, j < n → laneOf w v j = (k.reg f.regs.ra).setWidth w) ∧
     (f.regs.ra.toNat < 16 → exec (.vext c f) s = .next (s.wrote c f.regs.rd
       (if (k.reg f.regs.rb).toNat < n then (laneOf w (k.vreg f.regs.ra) (k.reg f.regs.rb).toNat).setWidth 64 else 0))) ∧
     (f.regs.rd.toNat < 16 → ∃ v, exec (.vins c f) s = .next (s.setCore c ((k.setVreg f.regs.rd v).retire c)) ∧
       ∀ j, j < n → laneOf w v j =
         if j = (k.reg f.regs.rb).toNat then (k.reg f.regs.ra).setWidth w else laneOf w (k.vreg f.regs.rd) j) ∧
     (f.regs.ra.toNat < 16 → f.regs.rb = 0 → ∃ x : BitVec w, exec (.vredsum c f) s = .next (s.wrote c f.regs.rd (x.signExtend 64)) ∧
       x.toNat = ((List.range n).map (fun j => (laneOf w (k.vreg f.regs.ra) j).toNat)).sum % 2 ^ w)) ∧
  (∀ (c : CoreId) (f : Vec) (s : State), s.starts c → ∀ k : Core, s.core c = k →
     ∀ (i : Instr) (op : Nat),
       (i, op) ∈ [(.vfadd c f, 0), (.vfdif c f, 1), (.vfmul c f, 2), (.vfma c f, 3), (.vfmin c f, 4), (.vfmax c f, 5),
                  (.vfcvtI c f, 6), (.vfcvtF c f, 7)] →
       (f.width.toNat < 2 → exec i s = .next (s.raise c excIllegal ((wordVec 0x05 op f).setWidth 64))) ∧
       (2 ≤ f.width.toNat → f.regs.rd.toNat < 16 → f.regs.ra.toNat < 16 →
         (if op < 6 then f.regs.rb.toNat < 16 else f.regs.rb = 0) →
         ∃ (v : VWord) (k' : Core), exec i s = .next (s.setCore c ((k'.setVreg f.regs.rd v).retire c)) ∧
           { k' with fflags := k.fflags } = k ∧
           ∀ w, laneBits f.width = w →
             let lane (j : Nat) : Nat × FFlags := floatLane op (laneFmt f.width) (laneOf w (k.vreg f.regs.rd) j).toNat
               (laneOf w (k.vreg f.regs.ra) j).toNat (laneOf w (k.vreg f.regs.rb) j).toNat
             (∀ j, j < 512 / w → laneOf w v j = BitVec.ofNat w (lane j).1) ∧
             (∀ b, b < 5 → k'.fflags.getLsbD b = (k.fflags.getLsbD b || (List.range (512 / w)).any (fun j => (BitVec.ofNat 5 (lane j).2.bits).getLsbD b)))))

/-- R58, R66: a CSR that the level may reach is read, swapped, set or cleared, and rd takes the old value.
R66, R73: a CSR number the table does not list, and a write to a read-only CSR, raise ILLEGAL at every level; otherwise a
CSR above the level raises PRIVILEGED. -/
def Obligations.CsrAccess : Prop :=
  (∀ (c : CoreId) (f : Sys) (s : State), s.starts c → ∀ k : Core, s.core c = k →
     ∀ old, s.csrRead c f.csr.toNat = some old → csrPriv f.csr.toNat ≤ k.priv.toNat →
       (f.ra = 0 → exec (.csrr c f) s = .next (s.wrote c f.rd old)) ∧
       (csrReadOnly f.csr.toNat = false →
         exec (.csrw c f) s = .next (s.setCore c (((k.csrWrite f.csr.toNat (k.reg f.ra)).setReg f.rd old).retire c)) ∧
         exec (.csrset c f) s = .next (s.setCore c (((k.csrWrite f.csr.toNat (old ||| k.reg f.ra)).setReg f.rd old).retire c)) ∧
         exec (.csrclr c f) s = .next (s.setCore c (((k.csrWrite f.csr.toNat (old &&& ~~~k.reg f.ra)).setReg f.rd old).retire c)))) ∧
  (∀ (c : CoreId) (f : Sys) (s : State), s.starts c → ∀ k : Core, s.core c = k →
     (s.csrRead c f.csr.toNat = none →
       exec (.csrw c f) s = .next (s.raise c excIllegal ((wordSys 1 f).setWidth 64)) ∧
       exec (.csrset c f) s = .next (s.raise c excIllegal ((wordSys 2 f).setWidth 64)) ∧
       exec (.csrclr c f) s = .next (s.raise c excIllegal ((wordSys 3 f).setWidth 64)) ∧
       exec (.csrr c f) s = .next (s.raise c excIllegal ((wordSys 0 f).setWidth 64))) ∧
     (f.ra ≠ 0 → exec (.csrr c f) s = .next (s.raise c excIllegal ((wordSys 0 f).setWidth 64))) ∧
     ((s.csrRead c f.csr.toNat).isSome → csrReadOnly f.csr.toNat = true →
       exec (.csrw c f) s = .next (s.raise c excIllegal ((wordSys 1 f).setWidth 64))) ∧
     ((s.csrRead c f.csr.toNat).isSome → k.priv.toNat < csrPriv f.csr.toNat →
       (f.ra = 0 → exec (.csrr c f) s = .next (s.raise c excPrivileged ((wordSys 0 f).setWidth 64))) ∧
       (csrReadOnly f.csr.toNat = false → exec (.csrw c f) s = .next (s.raise c excPrivileged ((wordSys 1 f).setWidth 64)))))

/-- R42, R66, R67: what a written CSR reads back: the whole value, or the bits its register has; STATUS keeps PRIV, and its
PREV_PRIV_M where 0b11 is written. General and vector registers are as they were. -/
def Obligations.CsrReadBack : Prop :=
  ∀ (c : CoreId) (s : State) (v : Word64) (n : Nat),
    let k := (s.core c).csrWrite n v
    let reads (m : Nat) : Option Word64 := (s.setCore c k).csrRead c m
    (n ∈ [0x401, 0x402, 0x403, 0x404, 0x405, 0x801, 0x802, 0x803, 0x804, 0x805, 0x809] → reads n = some v) ∧
    (0x820 ≤ n → n ≤ 0x827 → reads n = some v) ∧ (0x830 ≤ n → n ≤ 0x837 → reads n = some v) ∧
    (n = 0x000 → reads n = some (v &&& 0x1F)) ∧ (n = 0x807 → reads n = some (v &&& 0xF)) ∧
    (n = 0x806 → reads n = some (v &&& 0xF0001FFFE)) ∧
    (0x410 ≤ n → n ≤ 0x41F → reads n = some (v &&& 0x873FFFFFFFFFF000)) ∧
    (0x810 ≤ n → n ≤ 0x81F → reads n = some (v &&& 0x873FFFFFFFFFF000)) ∧
    (n = 0x800 → k.priv = (s.core c).priv ∧ k.ieM = v.getLsbD 8 ∧
      k.prevPrivM = if v.extractLsb' 12 2 = 3 then (s.core c).prevPrivM else v.extractLsb' 12 2) ∧
    (n = 0x400 → k.status = ((s.core c).status &&& ~~~0x4A80#64) ||| (v &&& 0x4A80)) ∧
    k.g = (s.core c).g ∧ k.v = (s.core c).v ∧ k.pc = (s.core c).pc ∧ k.halted = (s.core c).halted ∧ k.tickets = (s.core c).tickets

/-- R69, R70: an exception that is no double trap, and fails no recipe, writes the trap registers of its level: the address of
the instruction, the code and the value; the level's enable is saved and cleared, its IN_TRAP set, the level entered, and `pc`
takes the trap vector. Every other register of the core and everything else is as it was.
R72: an exception at M inside a trap to M enters debug halt with cause 5, changes no trap register, and logs code 0x10. -/
def Obligations.ExceptionEntry : Prop :=
  (∀ (c : CoreId) (code : Nat) (val : Word64) (s t : State) (k k' : Core), s.core c = k → s.raise c code val = t → t.core c = k' →
     ¬ (k.priv = privM ∧ k.inTrapM = true) → (k.priv ≠ privU ∨ code = excSvcU) →
     (k.priv = privM ∨ k.deleg.getLsbD code = false →
       k'.trapPcM = k.pc ∧ k'.trapCauseM = BitVec.ofNat 64 code ∧ k'.trapValM = val ∧ k'.priv = privM ∧ k'.prevPrivM = k.priv ∧
       k'.ieM = false ∧ k'.prevIeM = k.ieM ∧ k'.inTrapM = true ∧ k'.ieS = k.ieS ∧ k'.inTrapS = k.inTrapS ∧
       k'.pc = k.trapVecM &&& ~~~3#64 ∧
       { k' with trapPcM := k.trapPcM, trapCauseM := k.trapCauseM, trapValM := k.trapValM, status := k.status, pc := k.pc
                 wait := k.wait } = k) ∧
     (k.priv ≠ privM → k.deleg.getLsbD code = true →
       k'.trapPcS = k.pc ∧ k'.trapCauseS = BitVec.ofNat 64 code ∧ k'.trapValS = val ∧ k'.priv = privS ∧
       k'.prevPrivS = (k.priv.setWidth 1).setWidth 2 ∧ k'.ieS = false ∧ k'.prevIeS = k.ieS ∧ k'.inTrapS = true ∧
       k'.ieM = k.ieM ∧ k'.inTrapM = k.inTrapM ∧ k'.pc = k.trapVecS &&& ~~~3#64 ∧
       { k' with trapPcS := k.trapPcS, trapCauseS := k.trapCauseS, trapValS := k.trapValS, status := k.status, pc := k.pc
                 wait := k.wait } = k) ∧
     (∀ d : CoreId, d ≠ c → t.core d = s.core d) ∧ OnlyCores s t) ∧
  (∀ (c : CoreId) (code : Nat) (val : Word64) (s : State) (k : Core), s.core c = k → k.priv = privM → k.inTrapM = true →
     s.flag Reg.CC_DBG_GLOBAL_HALT_ALL = false →
     ∃ t, s.raise c code val = t ∧ t.core c = { k with halted := true, haltCause := 5, wait := none } ∧
       (∀ d : CoreId, d ≠ c → t.core d = s.core d) ∧ t.dram = s.dram ∧ t.gtc = s.gtc ∧
       t.events = ((s.enterHalt c 5).logFault 0x10 polPC c.val 0).events)

/-- R43, R44, R58, R71: the system instructions. Barriers only retire; `svc` and `brk` take their exceptions; `tret` at S or M
returns; `idle` retires or waits; `svc` at U on a core of no recipe is SVC_U. Below their level `tret` and `idle` raise
PRIVILEGED, and a word with a field that must be 0 raises ILLEGAL. -/
def Obligations.SystemInstructions : Prop :=
  ∀ (c : CoreId) (f : Sys) (s : State), s.starts c → ∀ k : Core, s.core c = k →
    (f.rd = 0 → f.ra = 0 → f.csr = 0 →
      exec (.mbar c f) s = .next (s.setCore c (k.retire c)) ∧ exec (.ibar c f) s = .next (s.setCore c (k.retire c)) ∧
      exec (.brk c f) s = .next (s.raise c excBreakpoint k.pc) ∧
      (k.priv = privU → s.recipeOf c = none → exec (.svc c f) s = .next (s.raise c excSvcU 0)) ∧
      (k.priv = privS → exec (.svc c f) s = .next (s.raise c excSvcS 0)) ∧
      (k.priv = privM → exec (.svc c f) s = .next (s.raise c excSvcM 0)) ∧
      (k.priv ≠ privU → exec (.tret c f) s = .next (s.setCore c (k.trapReturn c))) ∧
      (k.priv ≠ privU → s.irqPend c &&& k.irqEn ≠ 0 → exec (.idle c f) s = .next (s.setCore c (k.retire c))) ∧
      (k.priv ≠ privU → s.irqPend c &&& k.irqEn = 0 → exec (.idle c f) s = .next (s.setCore c { k with wait := some .idle })) ∧
      (k.priv = privU → exec (.tret c f) s = .next (s.raise c excPrivileged ((wordSys 0xA f).setWidth 64)) ∧
        exec (.idle c f) s = .next (s.raise c excPrivileged ((wordSys 0xB f).setWidth 64)))) ∧
    (f.rd ≠ 0 ∨ f.ra ≠ 0 ∨ f.csr ≠ 0 →
      exec (.mbar c f) s = .next (s.raise c excIllegal ((wordSys 4 f).setWidth 64)) ∧
      exec (.ibar c f) s = .next (s.raise c excIllegal ((wordSys 5 f).setWidth 64)) ∧
      exec (.svc c f) s = .next (s.raise c excIllegal ((wordSys 8 f).setWidth 64)) ∧
      exec (.brk c f) s = .next (s.raise c excIllegal ((wordSys 9 f).setWidth 64)) ∧
      exec (.tret c f) s = .next (s.raise c excIllegal ((wordSys 0xA f).setWidth 64)) ∧
      exec (.idle c f) s = .next (s.raise c excIllegal ((wordSys 0xB f).setWidth 64)))

/-- R71: `tret` at M sets `pc` to TRAP_PC_M with bits [1:0] cleared, PRIV to PREV_PRIV_M and IE_M to PREV_IE_M and clears IN_TRAP_M; at S
it does the same with the S fields; a PREV_PRIV above the level returns at the level. The general registers and the trap
registers are as they were. -/
def Obligations.TrapReturn : Prop :=
  ∀ (c : CoreId) (f : Sys) (s : State) (k : Core), s.starts c → s.core c = k → f.rd = 0 → f.ra = 0 → f.csr = 0 → k.priv ≠ privU →
    ∃ t : Core, exec (.tret c f) s = .next (s.setCore c t) ∧
      (k.priv = privM → t.ieM = k.prevIeM ∧ t.inTrapM = false ∧ t.pc = k.trapPcM &&& ~~~3#64 ∧
        (k.prevPrivM ≠ 3 → t.priv = k.prevPrivM) ∧ (k.prevPrivM = 3 → t.priv = privM) ∧ t.ieS = k.ieS ∧ t.inTrapS = k.inTrapS) ∧
      (k.priv ≠ privM → t.ieS = k.prevIeS ∧ t.inTrapS = false ∧ t.pc = k.trapPcS &&& ~~~3#64 ∧ t.priv = k.prevPrivS ∧
        t.priv.toNat ≤ 1 ∧ t.ieM = k.ieM ∧ t.inTrapM = k.inTrapM) ∧
      { t with status := k.status, pc := k.pc, instret := k.instret, cycle := k.cycle, wait := k.wait } = k ∧
      t.instret = k.instret + 1

/-- R58, R62, R64, R66, R70, R73: the events on a core. The timer interrupt is pending from GTC_CMP on; the pending and enabled
interrupt of the highest number is taken before an instruction and in a wait, `pc` going to the vector with the cause's bit 63
set; an `idle` whose wake condition holds retires, and so do a `wtc` whose ticket is complete and a `fnc` with nothing left. -/
def Obligations.CoreEvents : Prop :=
  ∀ (c : CoreId) (s : State) (k : Core), s.core c = k →
    (∃ t, exec (.timerInterrupt c) s = .next t ∧ k.gtcCmp ≤ t.gtc ∧ (k.gtcCmp ≤ s.gtc → t = s) ∧ { t with gtc := s.gtc } = s ∧
      (t.irqPend c).getLsbD 1 = true) ∧
    (s.waits c = true → k.wait ≠ some .idle → ∀ n, s.irqReady c = some n →
      ∃ t, exec (.takeInterrupt c) s = .next t ∧ n < 4 ∧ (s.irqPend c).getLsbD n = true ∧ k.irqEn.getLsbD n = true ∧
        (∀ m, n < m → m < 4 → (s.irqPend c).getLsbD m = true → k.irqEn.getLsbD m = true → k.irqAdmitted m = false) ∧
        (k.irqToM n = true → (t.core c).trapPcM = k.pc ∧ (t.core c).trapCauseM = BitVec.ofNat 64 (2 ^ 63 + n) ∧
          (t.core c).pc = k.trapVecM &&& ~~~3#64 ∧ (t.core c).priv = privM) ∧
        (k.irqToM n = false → (t.core c).trapPcS = k.pc ∧ (t.core c).trapCauseS = BitVec.ofNat 64 (2 ^ 63 + n) ∧
          (t.core c).pc = k.trapVecS &&& ~~~3#64 ∧ (t.core c).priv = privS) ∧
        (t.core c).wait = none ∧ (t.core c).g = k.g ∧ (∀ d : CoreId, d ≠ c → t.core d = s.core d) ∧ OnlyCores s t) ∧
    (s.waits c = true → k.wait = some .idle → s.irqPend c &&& k.irqEn ≠ 0 → exec (.idleWake c) s = .next (s.setCore c (k.retire c))) ∧
    (∀ (rd : RegField) (tk : Ticket) (age : Nat) (st : Word64), s.waits c = true → k.wait = some (.ticket rd tk) →
      k.ticketAge tk = some age → k.ticketResult age = some st → exec (.wtcReturn c) s = .next (s.wrote c rd st)) ∧
    (∀ m : BitVec 16, s.waits c = true → k.wait = some (.fence m) → k.outstanding m = false →
      exec (.fncReturn c) s = .next (s.setCore c (k.retire c)))

/-- R62, R64, R65: `wtc` and `tkp` of a ticket that was issued: the status once complete, bit 8 once forgotten, bit 9 from `tkp`
while outstanding, when `wtc` waits; any other value raises ILLEGAL_TICKET. `fnc` retires or waits; `gtc` reads the counter.
R59, R60, R84 to R86: a `sub` whose source may be read, to a ring of a present class that the core owns and that is neither
full nor disabling, copies the 64 bytes to the slot at TAIL with the new ticket in bytes 4 to 7, moves TAIL on, issues the
ticket as outstanding and writes it to rd. A full or disabling ring, or a held ticket entry, makes it write 0 and do nothing
else. A core that does not own the ring takes STREAM_ACCESS. -/
def Obligations.Tickets : Prop :=
  (∀ (c : CoreId) (f : St) (s : State), s.starts c → f.cls = 0 → f.ring = 0 → ∀ k : Core, s.core c = k →
     ∀ v : Word64, k.reg f.ra = v →
     (k.ticketIn f.ra = none →
       exec (.wtc c f) s = .next (s.raise c excIllegalTicket v) ∧ exec (.tkp c f) s = .next (s.raise c excIllegalTicket v)) ∧
     (∀ age, k.ticketIn f.ra = some age →
       (4096 ≤ age → exec (.wtc c f) s = .next (s.wrote c f.rd 0x100) ∧ exec (.tkp c f) s = .next (s.wrote c f.rd 0x100)) ∧
       (∀ e st, age < 4096 → k.tickets[age]? = some e → e.status = some st →
         exec (.wtc c f) s = .next (s.wrote c f.rd (st.setWidth 64)) ∧
         exec (.tkp c f) s = .next (s.wrote c f.rd (st.setWidth 64))) ∧
       (∀ e, age < 4096 → k.tickets[age]? = some e → e.status = none →
         exec (.wtc c f) s = .next (s.setCore c { k with wait := some (.ticket f.rd (v.setWidth 32)) }) ∧
         exec (.tkp c f) s = .next (s.wrote c f.rd 0x200))) ∧
     (f.rd = 0 → k.outstanding (v.setWidth 16) = false → exec (.fnc c f) s = .next (s.setCore c (k.retire c))) ∧
     (f.rd = 0 → k.outstanding (v.setWidth 16) = true →
       exec (.fnc c f) s = .next (s.setCore c { k with wait := some (.fence (v.setWidth 16)) })) ∧
     (f.ra = 0 → exec (.gtc c f) s = .next (s.wrote c f.rd s.gtc))) ∧
  (∀ (c : CoreId) (f : St) (s : State), s.starts c → ∀ k : Core, s.core c = k → ∀ (a : Word64) (r : Ring), k.reg f.ra = a →
     s.ring f.cls.toNat f.ring.toNat = r → s.allowed c .load a 64 false → Config.absent s.part.variant f.cls.toNat = false →
     (r.ownedBy c k.priv = false → exec (.sub c f) s = .next (s.raise c excStreamAccess a)) ∧
     (r.ownedBy c k.priv = true → r.full = true ∨ r.disabling = true ∨ k.entryHeld = true →
       exec (.sub c f) s = .next (s.wrote c f.rd 0)) ∧
     (r.ownedBy c k.priv = true → r.full = false → r.disabling = false → k.entryHeld = false →
       (s.flag Reg.FLT_STATUS_SAFE = true → ∃ t, exec (.sub c f) s = .next t ∧
         (t.core c).tickets.head? = some ⟨f.cls.toNat, some 0x22⟩ ∧ t.rings = s.rings ∧ t.dram = s.dram) ∧
       (s.flag Reg.FLT_STATUS_SAFE = false → s.doorbellsOff = false → ∃ t, exec (.sub c f) s = .next t ∧
         (t.core c).issued = k.issued + 1 ∧ (t.core c).tickets.head? = some ⟨f.cls.toNat, none⟩ ∧
         (t.core c).reg f.rd = (if f.rd = 0 then 0 else k.ticketNext.setWidth 64) ∧ (t.core c).pc = k.pc + 4 ∧
         (∀ i, i < 64 → Mem.get t.dram (r.slot r.tail + i) =
           if 4 ≤ i ∧ i < 8 then k.ticketNext.extractLsb' (8 * (i - 4)) 8 else s.physByte (a.toNat + i)) ∧
         (∀ x, x < r.slot r.tail ∨ r.slot r.tail + 64 ≤ x → Mem.get t.dram x = Mem.get s.dram x) ∧
         (t.ring f.cls.toNat f.ring.toNat).tail = (r.tail + 1) % (2 * r.size) ∧
         (∀ q w, (q, w) ≠ (f.cls.toNat, f.ring.toNat) → w < 1024 → t.ring q w = s.ring q w) ∧
         (∀ d : CoreId, d ≠ c → t.core d = s.core d) ∧
         OnlyMemRings s t)))

/-- R76, R79, R81: HALT puts a running core into debug halt with cause 1 and RESUME takes a halted one out, `pc` staying; both
ignore a core already so. SWI_SET and SWI_CLEAR act on the selected cores alone. A read of the management mailbox of CC0 or
CC1 takes its messages. -/
def Obligations.CoreControl : Prop :=
  ∀ (w : Writer) (s : State), s.mayWrite w = true →
    (∀ c : CoreId, s.outOfReset c = true → (s.core c).halted = false → s.flag Reg.CC_DBG_GLOBAL_HALT_ALL = false →
      ∃ t, exec (.halt w c) s = .next t ∧ t.core c = { (s.core c) with halted := true, haltCause := 1, wait := none } ∧
        (∀ d : CoreId, d ≠ c → t.core d = s.core d) ∧ t.dram = s.dram ∧ t.rings = s.rings) ∧
    (∀ c : CoreId, (s.core c).halted = true → exec (.halt w c) s = .next s ∧
      ∃ t, exec (.resume w c) s = .next t ∧ t.core c = { (s.core c) with halted := false, haltCause := 0 } ∧
        (∀ d : CoreId, d ≠ c → t.core d = s.core d) ∧ t.dram = s.dram ∧ t.rings = s.rings) ∧
    (∀ c : CoreId, (s.core c).halted = false → exec (.resume w c) s = .next s) ∧
    (∀ m : BitVec 16, ∃ t, exec (.swiSet w m) s = .next t ∧ OnlyCores s t ∧
      ∀ d : CoreId, t.core d = { (s.core d) with swi := m.getLsbD d.val || (s.core d).swi }) ∧
    (∀ m : BitVec 16, ∃ t, exec (.swiClear w m) s = .next t ∧ OnlyCores s t ∧
      ∀ d : CoreId, t.core d = { (s.core d) with swi := (s.core d).swi && !m.getLsbD d.val }) ∧
    exec (.managementMailboxRead 0) s = .next { s with letters := [] } ∧
    exec (.managementMailboxRead 1) s = .next { s with letters1 := [] }

/-- R93 to R95: an EN = 1 that every check of R93 passes enables the selected ring empty with the written fields and binds its
QCN; one that fails a check leaves it disabled with REJECT and the lowest cause. An EN = 0 disables an empty ring and frees its
QCN, and sets DISABLING on one that holds descriptors; HEAD reaching TAIL then disables it. Other rings are as they were. -/
def Obligations.RingEnableDisable : Prop :=
  ∀ (w : Writer) (s : State) (cls ring : Nat) (r : Ring), s.ringSel = (cls, ring) → s.ring cls ring = r →
    (∀ (v : Word32) (n : Ring), s.reaches w polPC = true → r.en = false → r.disabling = false → r.withCfg (v ||| 0x80000000) = n →
      (6 ≤ n.log2.toNat → n.base.toNat % (64 * 2 ^ n.log2.toNat) = 0 → n.ownerPriv ≠ 3 →
        s.boundElsewhere n.qcn.toNat (.engineRing cls ring) = false → ring ≠ 1023 → Config.absent s.part.variant cls = false →
        ∃ t, exec (.ringEnable w v) s = .next t ∧ (t.ring cls ring).en = true ∧ (t.ring cls ring).waiting = 0 ∧
          (t.ring cls ring).log2 = n.log2 ∧ (t.ring cls ring).ownerCore = n.ownerCore ∧
          Table.find t.qct n.qcn.toNat = some (.engineRing cls ring) ∧
          (∀ q, q ≠ n.qcn.toNat → Table.find t.qct q = Table.find s.qct q) ∧
          (∀ a b, (a, b) ≠ (cls, ring) → b < 1024 → ring < 1024 → t.ring a b = s.ring a b) ∧ t.dram = s.dram ∧ t.cores = s.cores) ∧
      (n.log2.toNat < 6 → ∃ t, exec (.ringEnable w v) s = .next t ∧ (t.ring cls ring).en = false ∧
        (t.ring cls ring).reject = true ∧ (t.ring cls ring).cause = 1 ∧ t.qct = s.qct)) ∧
    (∀ v : Word32, s.reaches w polPC = true → r.en = true → r.waiting = 0 → cls ≠ 1 →
      Table.find s.qct r.qcn.toNat = some (.engineRing cls ring) →
      ∃ t, exec (.ringDisable w v) s = .next t ∧ (t.ring cls ring).en = false ∧ (t.ring cls ring).disabling = false ∧
        Table.find t.qct r.qcn.toNat = none ∧ t.dram = s.dram ∧ t.cores = s.cores) ∧
    (∀ v : Word32, s.reaches w polPC = true → r.en = true → r.waiting ≠ 0 → cls ≠ 1 →
      ∃ t, exec (.ringDisable w v) s = .next t ∧ (t.ring cls ring).en = false ∧ (t.ring cls ring).disabling = true ∧
        (t.ring cls ring).waiting = r.waiting ∧ t.qct = s.qct ∧ t.dram = s.dram ∧ t.cores = s.cores) ∧
    (∀ (c : BitVec 4) (i : BitVec 10) (q : Ring), s.ring c.toNat i.toNat = q → q.disabling = true → q.waiting = 0 →
      ∃ t, exec (.ringDrained c i) s = .next t ∧ (t.ring c.toNat i.toNat).en = false ∧ (t.ring c.toNat i.toNat).disabling = false ∧
        Table.find t.qct q.qcn.toNat ≠ some (.engineRing c.toNat i.toNat) ∧ t.dram = s.dram ∧ t.cores = s.cores)

/-- R87, R98, R99: an engine that takes a ring's head descriptor moves its HEAD on by one and works on it; where a header check
failed the work has ended with that status and the ring has counted it.
R99 to R102, R105: a descriptor whose work has ended completes: its status word of status, unit, detail and ticket is
written where STATUS_ADDR names an address that the checks admit, its ticket holds the status, the ticket joins the interrupt
queue where IRQ asks, or sets OVF where 64 wait, and the engine no longer holds it.
R105, R106: a read of CC_TKI_POPn returns the oldest queued ticket and removes it, or 0 where the queue is empty. -/
def Obligations.DescriptorFlow : Prop :=
  (∀ (cls : BitVec 4) (s : State) (x : Taken), s.takes cls.toNat = true → x.cls = cls.toNat → x.ring < 1024 →
     s.takenAt x.core x.ticket = none → x.result = none →
     (s.nextOffer cls.toNat = some (x, none) →
       ∃ t, exec (.descriptorTake cls) s = .next t ∧ t.taken = s.taken ++ [x] ∧
         (t.ring x.cls x.ring).head = ((s.ring x.cls x.ring).head + 1) % (2 * (s.ring x.cls x.ring).size) ∧
         (t.ring x.cls x.ring).tail = (s.ring x.cls x.ring).tail ∧
         (∀ a b, (a, b) ≠ (x.cls, x.ring) → b < 1024 → t.ring a b = s.ring a b) ∧ t.dram = s.dram ∧ t.cores = s.cores) ∧
     (∀ code, s.nextOffer cls.toNat = some (x, some code) →
       ∃ t, exec (.descriptorTake cls) s = .next t ∧
         t.takenAt x.core x.ticket = some { x with result := some ⟨BitVec.ofNat 8 code, 0, true, []⟩ } ∧
         (t.ring x.cls x.ring).errors = min 0xFFFF ((s.ring x.cls x.ring).errors + 1) ∧
         (t.ring x.cls x.ring).head = ((s.ring x.cls x.ring).head + 1) % (2 * (s.ring x.cls x.ring).size) ∧
         t.dram = s.dram ∧ t.cores = s.cores)) ∧
  ((∀ (c : CoreId) (tk : Ticket) (seen : Option Nat) (s : State) (x : Taken) (r : Result), s.takenAt c tk = some x →
     x.result = some r → s.polderOn (classPolder x.cls) = true →
     exec (.descriptorComplete c tk seen) s = .next (((s.completeTaken x r).watches x r seen).settleAll)) ∧
   (∀ (s t : State) (x : Taken) (r : Result) (a : Nat), s.completeTaken x r = t → descStatusAddr x.desc = a →
     (r.writesWord = true → a ≠ 0 → s.statusAddrOk x.cls x.ring a = true →
       Mem.get t.dram a = r.status ∧ Mem.get t.dram (a + 1) = BitVec.ofNat 8 x.unit ∧
       (∀ i, i < 2 → Mem.get t.dram (a + 2 + i) = r.detail.extractLsb' (8 * i) 8) ∧
       (∀ i, i < 4 → Mem.get t.dram (a + 4 + i) = x.ticket.extractLsb' (8 * i) 8) ∧
       (∀ b, b < a ∨ a + 8 ≤ b → Mem.get t.dram b = Mem.get s.dram b)) ∧
     (r.writesWord = false ∨ a = 0 ∨ s.statusAddrOk x.cls x.ring a = false → t.dram = s.dram) ∧
     (∀ age e, (s.core x.core).ticketAge x.ticket = some age → (s.core x.core).tickets[age]? = some e →
       (t.core x.core).tickets[age]? = some { e with status := some r.status }) ∧
     (descIrq x.desc = true → (s.core x.core).tki.length < 64 → (t.core x.core).tki = (s.core x.core).tki ++ [x.ticket]) ∧
     (descIrq x.desc = true → 64 ≤ (s.core x.core).tki.length → (t.core x.core).tkiOvf = true) ∧
     (descIrq x.desc = false → (t.core x.core).tki = (s.core x.core).tki) ∧
     t.takenAt x.core x.ticket = none ∧ (t.core x.core).g = (s.core x.core).g ∧ (t.core x.core).pc = (s.core x.core).pc ∧
     (∀ d : CoreId, d ≠ x.core → t.core d = s.core d))) ∧
  (∀ (w : Writer) (c : CoreId) (s : State), s.reaches w polPC = true →
     (∀ tk rest, (s.core c).tki = tk :: rest → ∃ t, exec (.tkiPop w c) s = .next t ∧ t.host.reads = s.host.reads ++ [tk] ∧
       t.core c = { (s.core c) with tki := rest } ∧ (∀ d : CoreId, d ≠ c → t.core d = s.core d) ∧ t.dram = s.dram) ∧
     ((s.core c).tki = [] → ∃ t, exec (.tkiPop w c) s = .next t ∧ t.host.reads = s.host.reads ++ [0] ∧ t.cores = s.cores ∧
       t.dram = s.dram))

/-- R117, R632: a load that every check admits, with a placement that is free, leaves the recipe loaded under the lowest free
handle, its image hash kept, its rings enabled for U, and completes with OK, the handle and the hash.
R118: a load that a check of steps 1 to 5 refuses completes with that check's code and reserves nothing.
R119, R120, R422: a launch of a loaded recipe that no unload awaits, with all its seeds and L at least 100 µs ahead, writes
the launch block to its page, leaves its cores waiting for L and completes with OK; in any other state it completes with
WRONG_STATE, and with BAD_HANDLE where there is no such recipe.
R119: at L the recipe's cores leave their wait at U, at ENTRY of their code copies, with g1 holding the launch block's
address, g2 the core's index and every other register 0.
R122, R422: with nothing of the machine taken and no delivery waiting, an unload releases the recipe: its cores are reset,
its rings disabled at their reset values and its handle free. A second unload joins the one in progress; RECIPE_STATUS
returns the recipe's state word, and both answer BAD_HANDLE for a handle that names no recipe. -/
def Obligations.RecipeLife : Prop :=
  (∀ (src : CmdSrc) (p : Placement) (s s' : State) (ref : CmdRef) (e m : List Byte) (h : Nat),
     s.loaderOnly = false → s.takeCommand src 0x01 = some (ref, e, s') → leAt e 0x08 8 % 64 = 0 → leAt e 0x10 8 ≤ 16777216 →
     s'.commandBytes src (leAt e 0x08 8) (leAt e 0x10 8) = m → s'.loadRefusal m = none → s'.freeHandle = h → h < 256 →
     s'.placementFree m (stageTable m) (markStages s'.part.variant (stageTable m)) p = true →
     (∀ i, i < imgRelocs m → relocSound m (stageTable m) i = true) →
     ∃ (t u : State) (r : Recipe), exec (.recipeLoad src p) s = .next t ∧ t = u.completeCommand ref h csOK (sha256 m) ∧
       Table.find s'.recipes h = none ∧ (∀ i, i < h → (Table.find s'.recipes i).isSome) ∧
       Table.find u.recipes h = some r ∧ r.state = .loaded ∧ r.hash = sha256 m ∧ r.cores = p.cores ∧ r.launch = none ∧
       (∀ i, i ≠ h → Table.find u.recipes i = Table.find s'.recipes i) ∧
       (∀ sl ∈ r.slots, (u.ring sl.cls sl.ring).en = true ∧ (u.ring sl.cls sl.ring).ownerPriv = privU ∧
         (u.ring sl.cls sl.ring).waiting = 0)) ∧
  (∀ (src : CmdSrc) (p : Placement) (s s' : State) (ref : CmdRef) (e m : List Byte) (code : Nat),
     s.loaderOnly = false → s.takeCommand src 0x01 = some (ref, e, s') → leAt e 0x08 8 % 64 = 0 → leAt e 0x10 8 ≤ 16777216 →
     s'.commandBytes src (leAt e 0x08 8) (leAt e 0x10 8) = m →
     (s'.loadRefusal m = some code → exec (.recipeLoad src p) s = .next (s'.completeCommand ref 0 code)) ∧
     (leAt m 0 4 ≠ 0x5043524B → s'.loadRefusal m = some 0x01) ∧
     (leAt m 0 4 = 0x5043524B → leAt m 4 2 ≠ 1 → s'.loadRefusal m = some 0x02)) ∧
  (∀ (src : CmdSrc) (s s' : State) (ref : CmdRef) (e p : List Byte) (h : Nat),
     s.takeCommand src 0x02 = some (ref, e, s') → leAt e 0x04 4 = h → s'.commandBytes src (leAt e 0x08 8) 128 = p →
     (Table.find s'.recipes h = none → exec (.recipeLaunch src) s = .next (s'.completeCommand ref 0 csBAD_HANDLE)) ∧
     (∀ r, Table.find s'.recipes h = some r →
       (r.state ≠ .loaded ∨ r.unloading ≠ [] → exec (.recipeLaunch src) s = .next (s'.completeCommand ref 0 csWRONG_STATE)) ∧
       (r.state = .loaded → r.unloading = [] →
         r.seedSlots ≤ (match src with | .manager _ _ payload => (payload.length - 0x20) / 16 | .ring _ => 4) →
         s'.gtc.toNat + 100000 ≤ leAt p 0 8 →
         ∃ (t u : State) (l : Launch), exec (.recipeLaunch src) s = .next t ∧ t = u.completeCommand ref 0 csOK ∧
           l.at_.toNat = leAt p 0 8 ∧ l.dataset.toNat = leAt p 8 2 ∧ l.epochFirst.toNat = leAt p 0x0C 4 ∧ l.epochCount.toNat = leAt p 0x10 4 ∧
           Table.find u.recipes h = some { r with state := .waiting, launch := some l } ∧
           (∀ c ∈ r.cores, (u.core c).duty = .waiting) ∧ (∀ c : CoreId, c ∉ r.cores → u.core c = s'.core c) ∧
           (∀ i, i < (launchBlock s'.part.variant r l).length →
             Mem.get u.dram (r.page.base + i) = (launchBlock s'.part.variant r l).getD i 0) ∧
           u.rings = s'.rings ∧ u.qct = s'.qct))) ∧
  (∀ (handle : BitVec 8) (s : State) (r : Recipe) (l : Launch), Table.find s.recipes handle.toNat = some r → r.state = .waiting →
     r.launch = some l → r.unloading = [] → r.cores.Nodup → r.code.length = r.cores.length →
     (l.at_ ≤ s.gtc →
       ∃ t, exec (.recipeStart handle) s = .next t ∧ Table.find t.recipes handle.toNat = some { r with state := .running } ∧
         (∀ i (hi : i < r.cores.length) (b : Block), r.code[i]? = some b →
           ∃ k, t.core r.cores[i] = k ∧ k.priv = privU ∧ k.duty = .free ∧ k.wait = none ∧
             k.pc = BitVec.ofNat 64 (b.base + (r.entry - r.codeOff)) ∧ k.reg 1 = BitVec.ofNat 64 r.page.base ∧
             k.reg 2 = BitVec.ofNat 64 i ∧ (∀ g : RegField, g ≠ 1 → g ≠ 2 → k.reg g = 0) ∧ (∀ g : RegField, k.vreg g = 0) ∧ k.fflags = 0) ∧
         (∀ c : CoreId, c ∉ r.cores → t.core c = s.core c) ∧ t.dram = s.dram ∧ t.rings = s.rings) ∧
     (s.gtc < l.at_ → exec (.recipeStart handle) s = .next s)) ∧
  (∀ (src : CmdSrc) (s s' : State) (ref : CmdRef) (e : List Byte) (h : Nat), leAt e 0x04 4 = h →
     (s.takeCommand src 0x03 = some (ref, e, s') →
       (Table.find s'.recipes h = none → exec (.recipeUnload src) s = .next (s'.completeCommand ref 0 csBAD_HANDLE)) ∧
       (∀ r, Table.find s'.recipes h = some r → r.unloading = [] → s'.taken = [] → s'.net.deliveries = [] →
         ∃ t, exec (.recipeUnload src) s = .next t ∧ Table.find t.recipes h = none ∧ (∀ c ∈ r.cores, t.core c = Core.reset) ∧
           (∀ sl ∈ r.slots, t.ring sl.cls sl.ring = Ring.reset)) ∧
       (∀ r, Table.find s'.recipes h = some r → r.unloading ≠ [] →
         exec (.recipeUnload src) s =
           .next { s' with recipes := Table.put s'.recipes h { r with unloading := r.unloading ++ [ref] } })) ∧
     (s.takeCommand src 0x04 = some (ref, e, s') →
       (Table.find s'.recipes h = none → exec (.recipeStatus src) s = .next (s'.completeCommand ref 0 csBAD_HANDLE)) ∧
       (∀ r, Table.find s'.recipes h = some r → exec (.recipeStatus src) s = .next (s'.completeCommand ref r.statusWord csOK))))

/-- R421, R422, R116: a command of a ring is taken from its head entry, its CID outstanding until it completes with one entry
of result, head, CID, phase and status; the manager's command is answered by a reply.
R96, R410, R421: a doorbell write of a command ring moves its tail or its head; a value past the ring, and a page that is no
command ring's, is discarded and counted, in the ERRORS of an engine ring whose page it was. Doorbells are ignored without a
link and from the start of a flush.
R422, R424, R426: CASK_GRANT queues a grant for its subscriber, or completes with GRANTS_FULL where 64 wait;
GRANT_WITHDRAW completes every waiting grant of the subscriber with WITHDRAWN; NS_ATTACH of a live space writes its
attachment. -/
def Obligations.HostCommandRings : Prop :=
  ((∀ (s : State) (i : BitVec 4) (op : Nat) (ref : CmdRef) (e : List Byte) (s' : State) (r : CmdRing),
     s.cmdRing i.toNat = some r → s.takeCommand (.ring i) op = some (ref, e, s') →
     e = s.hostBytes (r.sqBase + 64 * r.sqHead) 64 ∧ ref = .ring r.qcn (leAt e 2 2) ∧ leAt e 0 1 = op ∧ r.sqHead ≠ r.sqTail ∧
     s.linkUp = true) ∧
   (∀ (s : State) (qcn cid result status i : Nat) (data : List Byte) (r : CmdRing), s.cmdRingOf qcn = some i → s.cmdRing i = some r →
     s.hostPosts = true → r.cqFull = false → r.held = [] → r.deleting = none → 0 < r.entries →
     ∃ t, s.completeCommand (.ring qcn cid) result status data = t ∧
       leNat (t.hostBytes (r.cqBase + 16 * r.cqTail) 8) = result % 2 ^ 64 ∧
       leNat (t.hostBytes (r.cqBase + 16 * r.cqTail + 8) 2) = r.sqHead % 2 ^ 16 ∧
       leNat (t.hostBytes (r.cqBase + 16 * r.cqTail + 12) 2) = cid % 2 ^ 16 ∧
       leNat (t.hostBytes (r.cqBase + 16 * r.cqTail + 14) 2) = (r.phase.toNat + 2 * status) % 2 ^ 16 ∧
       (∀ a, a < r.cqBase + 16 * r.cqTail ∨ r.cqBase + 16 * r.cqTail + 16 ≤ a → Mem.get t.host.mem a = Mem.get s.host.mem a) ∧
       (∃ r', t.cmdRing i = some r' ∧ r'.cqTail = (r.cqTail + 1) % r.entries ∧ r'.outstanding = r.outstanding.erase cid) ∧
       t.msix.getLast? = some (0, r.vector) ∧ t.dram = s.dram ∧ t.cores = s.cores) ∧
   (∀ (s : State) (cid result status : Nat) (data : List Byte),
     s.completeCommand (.manager cid) result status data =
       { s with host := { s.host with replies := s.host.replies ++ [⟨cid, result, status, data⟩] } })) ∧
  (∀ (qcn : BitVec 16) (value : Word32) (stores : List (Nat × List Byte)) (s : State), s.linkUp = true → s.doorbellsOff = false →
     (∀ i r, (s.hostStores stores).cmdRingOf qcn.toNat = some i → (s.hostStores stores).cmdRing i = some r → value.toNat < r.entries →
       ∀ u, (s.hostStores stores).setCmdRing i { r with sqTail := value.toNat } = u →
       (∀ e, u.frontEntry i = some e → leAt e 0 1 ∈ ringOpcodes) → exec (.sqTail qcn value stores) s = .next u) ∧
     (∀ i r, s.cmdRingOf qcn.toNat = some i → s.cmdRing i = some r → value.toNat < r.entries →
       exec (.cqHead qcn value) s = .next ((s.setCmdRing i { r with cqHead := value.toNat }).releaseEntries i 4096) ∧
       (r.held = [] → exec (.cqHead qcn value) s = .next (s.setCmdRing i { r with cqHead := value.toNat }))) ∧
     (s.cmdRingOf qcn.toNat = none → ∃ t, exec (.cqHead qcn value) s = .next t ∧
       t.fld Reg.HST_ERR_CNT1_DB_DISCARD = min 0xFFFF (s.fld Reg.HST_ERR_CNT1_DB_DISCARD + 1) ∧
       (∀ cls ring, Table.find s.qct qcn.toNat = some (.engineRing cls ring) →
         (t.ring cls ring).errors = min 0xFFFF ((s.ring cls ring).errors + 1)) ∧ t.dram = s.dram ∧ t.host = s.host)) ∧
  (∀ (src : CmdSrc) (s s' : State) (ref : CmdRef) (e : List Byte) (sub : Nat), leAt e 0x04 2 % 4096 = sub →
     (s.takeCommand src 0x20 = some (ref, e, s') → (s'.grantsOf sub).length < 64 →
       ∃ (t : State) (g : CaskGrant), exec (.caskGrant src) s = .next t ∧ t.grantsOf sub = s'.grantsOf sub ++ [g] ∧ g.ref = ref ∧
         g.generation.toNat = leAt e 0x08 4 ∧ g.addr = leAt e 0x10 8 ∧ g.length = leAt e 0x18 4 ∧ g.manLen = leAt e 0x1C 4 ∧
         g.manAddr = leAt e 0x20 8 ∧ (∀ q, q ≠ sub → t.grantsOf q = s'.grantsOf q) ∧ { t with host := s'.host } = s') ∧
     (s.takeCommand src 0x20 = some (ref, e, s') → 64 ≤ (s'.grantsOf sub).length →
       exec (.caskGrant src) s = .next (s'.completeCommand ref (leAt e 0x08 4 * 2 ^ 32) csGRANTS_FULL)) ∧
     (s.takeCommand src 0x21 = some (ref, e, s') → ∃ t u : State, exec (.grantWithdraw src) s = .next t ∧
       t = u.completeCommand ref (s'.grantsOf sub).length csOK ∧ u.grantsOf sub = [] ∧ u.dram = s'.dram ∧ u.cores = s'.cores) ∧
     (∀ x, s.takeCommand src 0x12 = some (ref, e, s') → s'.mounted = true → 1 ≤ leAt e 0x04 2 → leAt e 0x04 2 ≤ 4095 →
       s'.space (leAt e 0x04 2) = some x → ∃ t u : State, exec (.nsAttach src) s = .next t ∧ t = u.completeCommand ref 0 csOK ∧
       Table.find u.ftl.spaces (leAt e 0x04 2) =
         some { x with attach := BitVec.ofNat 64 (leAt e 0x08 8), readOnly := BitVec.ofNat 64 (leAt e 0x10 8) } ∧
       u.dram = s'.dram ∧ u.cores = s'.cores))

/-- R146 to R149: a FILL_LIST that stands first of its ring, whose stream it began or begins now, completes once MIN_ITEMS or
everything left is staged: its header counts the items listed, at most MAX_ITEMS.
R145, R150: PERMUTE writes π or σ of each position of its run with the evaluations it took, and ends with OK where the run
lies in the dataset; a seed slot the launch did not fill is BAD_SEED.
R144, R147, R150: CLOSE closes the ring's stream and ends with OK once no earlier FILL_LIST of its ring runs. SPARE ends
with SPARES_EXHAUSTED where no substitute is left, and otherwise stages the substitute, lists it and, once it has space, ends
with the status of its item, which is SUBSTITUTED where the item is staged whole. -/
def Obligations.StreamCommands : Prop :=
  (∀ (c : CoreId) (tk : Ticket) (s u : State) (x : Taken) (st : FetchStream), s.running c tk 1 0x01 = some x → s.engineRuns 1 = true →
     s.behindFill x = false → (s.ring 1 x.ring).en = true →
     (if (match s.fetchStream x.ring with | some q => q.began == some (c.val, tk.toNat) | none => false) then s else s.beginFill x) = u →
     u.running c tk 1 0x01 = some x → u.fetchStream x.ring = some st →
     ∀ ready, st.remaining.filterMap (fun p => st.items.find? (fun i => i.pos == p && i.staged)) = ready →
       (ready.length < x.minItems → ready.length < st.remaining.length → exec (.fillList c tk) s = .next u) ∧
       (x.minItems ≤ ready.length ∨ st.remaining.length ≤ ready.length →
         ∃ t n st', exec (.fillList c tk) s = .next t ∧ EndedWith t c tk stOK n ∧ n ≤ x.maxItems ∧ n ≤ ready.length ∧
           Mem.readLe t.dram (x.fieldAt 0x28 8) 4 = n ∧ Mem.readLe t.dram (x.fieldAt 0x28 8 + 4) 4 = st.epoch % 2 ^ 32 ∧
           t.fetchStream x.ring = some st' ∧ st'.held.length = n ∧ (∀ i ∈ st'.held, i.pos ∈ st.remaining ∧ i.pos ∈ st'.returned) ∧
           t.rings = u.rings ∧ t.cores = u.cores)) ∧
  (∀ (c : CoreId) (tk : Ticket) (s : State) (x : Taken), s.running c tk 1 0x02 = some x → s.engineRuns 1 = true →
     (s.seedOf 1 x.ring (x.fieldAt 0x12 1 % 4) = none → ∃ t, exec (.permute c tk) s = .next t ∧ EndedWith t c tk stBAD_SEED 0 ∧ t.dram = s.dram) ∧
     (∀ seed n count out, s.seedOf 1 x.ring (x.fieldAt 0x12 1 % 4) = some seed → 0 < n →
       (if x.fieldAt 0x20 6 = 0 then ((s.volumeFor (x.fieldAt 0x10 2)).map (·.n)).getD 0 else x.fieldAt 0x20 6) = n →
       (if x.fieldAt 0x1E 2 = 0 then 65536 else x.fieldAt 0x1E 2) = count → x.fieldAt 0x28 8 = out → x.fieldAt 0x18 6 + count ≤ n →
       ∃ t, exec (.permute c tk) s = .next t ∧ EndedWith t c tk stOK 0 ∧
         (∀ i, i < count →
           let r := (if x.fieldAt 0x13 1 % 2 = 1 then permSigma else permPi) seed (x.fieldAt 0x14 4) n (x.fieldAt 0x18 6 + i)
           Mem.readLe t.dram (out + 8 * i) 8 = r.1 % 2 ^ 48 + Min.min 255 r.2 * 2 ^ 56) ∧
         (∀ a, a < out ∨ out + 8 * count ≤ a → Mem.get t.dram a = Mem.get s.dram a) ∧ t.rings = s.rings ∧ t.cores = s.cores)) ∧
  ((∀ (c : CoreId) (tk : Ticket) (s : State) (x : Taken), s.running c tk 1 0x04 = some x → s.engineRuns 1 = true → s.behindFill x = false →
     ∃ t, exec (.close c tk) s = .next t ∧ EndedWith t c tk stOK 0 ∧ t.fetchStream x.ring = none ∧
       (∀ r, r ≠ x.ring → t.fetchStream r = s.fetchStream r) ∧ t.dram = s.dram ∧ t.rings = s.rings) ∧
   (∀ (c : CoreId) (tk : Ticket) (peer : Option (List Byte)) (s : State) (x : Taken) (seed : List Byte) (h : Nat) (r : Recipe) (v : Volume),
     s.running c tk 1 0x03 = some x → s.engineRuns 1 = true → (s.ring 1 x.ring).en = true →
     s.seedOf 1 x.ring (x.fieldAt 0x12 1 % 4) = some seed → s.recipeOfRing 1 x.ring = some (h, r) →
     s.volumeFor (x.fieldAt 0x10 2) = some v → x.fieldAt 0x18 6 < v.n →
     (substitute seed (x.fieldAt 0x14 4) v (x.fieldAt 0x18 6) (x.fieldAt 0x13 1) = none →
       ∃ t, exec (.spare c tk peer) s = .next t ∧ EndedWith t c tk stSPARES_EXHAUSTED 0 ∧ Mem.readLe t.dram (x.fieldAt 0x28 8) 4 = 0) ∧
     (∀ pos g pg (i i2 : FetchItem) (s1 s2 : State), substitute seed (x.fieldAt 0x14 4) v (x.fieldAt 0x18 6) (x.fieldAt 0x13 1) = some (pos, g) →
       s.cachedPage v (v.entryPage g).1 = some pg → pageItem v r pos g pg (v.entryPage g).2 = i →
       (s.count unitCAT 0 1).countEntry i = s1 →
       s1.stageItem h r v i = some (i2, s2) → x.fieldAt 0x30 4 = 0 →
       ∃ (t : State) (j : FetchItem), exec (.spare c tk peer) s = .next t ∧ EndedWith t c tk j.status 0 ∧ Mem.readLe t.dram (x.fieldAt 0x28 8) 4 = 1 ∧
         Table.at [] t.fetch.spareHeld x.ring = Table.at [] s2.fetch.spareHeld x.ring ++ [j] ∧ j.pos = pos ∧ j.gsid = g ∧ j.origin = x.fieldAt 0x18 6 % 65536 ∧
         (i2.staged = true → j.status = if i2.status = stOK then stSUBSTITUTED else i2.status))))

/-- R132, R139 to R143: the fetch engine's own work. A missing catalog page of a window is read into the cache; the next grist
read in die order puts its item into the stream with its staging; an item whose stored bytes pass their CRC is staged, and one
that no rebuild nor peer can give is DAMAGED. -/
def Obligations.FetchProgress : Prop :=
  (∀ (ring : BitVec 10) (s : State) (st : FetchStream) (pre suf : List Nat) (p : Nat), s.fetchStream ring.toNat = some st →
    s.fetchRuns = true → st.closed = false → st.window.map (·.1) = pre ++ p :: suf →
    let wants (q : Nat) : Bool :=
      (permPi st.seed st.epoch st.volume.n q).1 % st.volume.places == st.volume.place && !st.items.any (fun i => i.pos == q)
        && (s.cachedPage st.volume (st.volume.entryPage (permPi st.seed st.epoch st.volume.n q).1).1).isNone
    (∀ q ∈ pre, wants q = false) → wants p = true →
    ∃ t, exec (.catalogMiss ring) s = .next t ∧
      (t.cachedPage st.volume (st.volume.entryPage (permPi st.seed st.epoch st.volume.n p).1).1).isSome ∧
      (∃ st', t.fetchStream ring.toNat = some st' ∧ { st' with missed := st.missed } = st) ∧
      (∀ q, q ≠ ring.toNat → t.fetchStream q = s.fetchStream q) ∧ t.dram = s.dram ∧ t.rings = s.rings) ∧
  (∀ (rebuilt : Option (List Byte × List Byte)) (s : State) (rd : GristRead) (st : FetchStream) (h : Nat) (r : Recipe) (a : Nat),
    s.fetchRuns = true → s.nextRead = some rd → s.fetchStream rd.ring = some st → s.recipeOfRing 1 rd.ring = some (h, r) →
    (permPi st.seed st.epoch st.volume.n rd.item.pos).1 % st.volume.places = st.volume.place → rd.item.staged = false →
    rd.item.storedLen ≤ r.stagingBytes - s.trackedBytes h → s.stagingFor h r rd.item.storedLen = some a →
    ∃ t st' i, exec (.gristReadIssue rebuilt) s = .next t ∧ t.fetchStream rd.ring = some st' ∧ i ∈ st'.items ∧
      i.pos = rd.item.pos ∧ i.grist = a ∧ i.staged = false ∧ t.fetch.turn = rd.die / 32 ∧ t.rings = s.rings ∧ t.cores = s.cores) ∧
  (∀ (ring : BitVec 10) (pos : BitVec 48) (peer : Option (List Byte)) (s : State) (st : FetchStream) (i : FetchItem),
    s.fetchStream ring.toNat = some st → st.items.find? (fun j => j.pos == pos.toNat && !j.staged && j.grist != 0) = some i →
    s.fetchRuns = true → st.closed = false → i.unread = false →
    (crc64 (s.dramBytes i.grist i.storedLen)).toNat = i.crc →
    ∃ t st', exec (.itemStaged ring pos peer) s = .next t ∧ t.fetchStream ring.toNat = some st' ∧
      { i with staged := true } ∈ st'.items ∧ (∀ j ∈ st.items, j.pos ≠ i.pos → j ∈ st'.items) ∧ t.dram = s.dram) ∧
  (∀ (ring : BitVec 10) (pos : BitVec 48) (s s1 : State) (st : FetchStream) (i : FetchItem),
    s.fetchStream ring.toNat = some st → st.items.find? (fun j => j.pos == pos.toNat && !j.staged && j.grist != 0) = some i →
    s.fetchRuns = true → st.closed = false → i.unread = true →
    (s.count unitCAT 4 i.storedLen).rebuiltBytes st.volume.space i.offset i.storedLen = (none, s1) →
    s1.fetchStream ring.toNat = some st →
    ∃ t st', exec (.itemStaged ring pos none) s = .next t ∧ t.fetchStream ring.toNat = some st' ∧
      { i with staged := true, status := stDAMAGED, cause := 2, grist := if i.blank then 0 else i.grist } ∈ st'.items)

/-- R156, R157, R168 to R176: a DECODE or PROBE whose format, options and codec its mill takes ends with its record
written, or with BAD_FORMAT where B1 meets an accepted image of another kind than 1 bit and one component. Where nothing of the item, its headers or its stream is damaged it ends with OK: PROBE writes the record
alone, DECODE the whole output where it fits and OVERFLOW where it does not. What the headers and the stream hold is `streamHeaders` and `streamDecode`.
R177: a format, option or codec that the mill does not take is refused with its code, and no record is written. -/
def Obligations.Mills : Prop :=
  (∀ (c : CoreId) (tk : Ticket) (s : State) (x : Taken) (probe : Bool) (i : ItemView), s.millRunning c tk (if probe then 2 else 1) = some x →
     s.engineRuns x.cls = true → itemView (s.dramBytes (x.fieldAt 0x10 8) 64) = i →
     millRefusal s.part.variant x.cls (x.fieldAt 0x34 1) (x.fieldAt 0x35 1 % 16) (bitAt (BitVec.ofNat 16 (x.fieldAt 0x36 2)) 5)
       (bitAt (BitVec.ofNat 16 (x.fieldAt 0x36 2)) 7) (natAt (BitVec.ofNat 16 (x.fieldAt 0x36 2)) 8 8) i.codec = none →
     itemDamage i = none → i.status = stOK →
     ∃ t st, exec (if probe then .probe c tk else .decode c tk) s = .next t ∧ Ended t c tk st ∧ t.rings = s.rings ∧ t.cores = s.cores ∧
       ∀ (src : List Byte) (h : Headers), s.dramBytes (x.fieldAt 0x18 8) (x.fieldAt 0x20 4) = src → streamHeaders i.codec src = h →
         let other : Prop := x.fieldAt 0x34 1 = 7 ∧ ¬ (h.bits = 1 ∧ h.comps = 1) ∧ h.known = true ∧ h.unsupported = none
         (other → st = stBAD_FORMAT) ∧
         (¬ other → Mem.readLe t.dram (x.fieldAt 0x38 8) 6 = i.gsid % 2 ^ 48 ∧ Mem.readLe t.dram (x.fieldAt 0x38 8 + 6) 1 = st % 256) ∧
         (¬ other → headerDamage x.cls (x.fieldAt 0x34 1) (x.fieldAt 0x35 1 % 16) (x.fieldAt 0x20 4)
           (bitAt (BitVec.ofNat 16 (x.fieldAt 0x36 2)) 5) (s.limitsOf x.cls x.ring) h i = none →
         let r := if x.cls = 4 then reduction h (x.fieldAt 0x35 1 % 16) else 0
         (probe = true → st = stOK ∧ ∀ a, a < x.fieldAt 0x38 8 ∨ x.fieldAt 0x38 8 + 128 ≤ a → Mem.get t.dram a = Mem.get s.dram a) ∧
         (probe = false → x.fieldAt 0x30 4 < outBytes (x.fieldAt 0x34 1) h i r → st = stOVERFLOW ∧
           ∀ a, a < x.fieldAt 0x38 8 ∨ x.fieldAt 0x38 8 + 128 ≤ a → Mem.get t.dram a = Mem.get s.dram a) ∧
         (probe = false → outBytes (x.fieldAt 0x34 1) h i r ≤ x.fieldAt 0x30 4 →
           (streamDecode i.codec s.codecRevision r i.dim0 src).damage = none → st = stOK))) ∧
  (∀ (c : CoreId) (tk : Ticket) (s : State) (x : Taken) (code : Nat), s.millRunning c tk 1 = some x → s.engineRuns x.cls = true →
     millRefusal s.part.variant x.cls (x.fieldAt 0x34 1) (x.fieldAt 0x35 1 % 16) (bitAt (BitVec.ofNat 16 (x.fieldAt 0x36 2)) 5)
       (bitAt (BitVec.ofNat 16 (x.fieldAt 0x36 2)) 7) (natAt (BitVec.ofNat 16 (x.fieldAt 0x36 2)) 8 8)
       (itemView (s.dramBytes (x.fieldAt 0x10 8) 64)).codec = some code →
     ∃ t, exec (.decode c tk) s = .next t ∧ EndedWith t c tk code 0 ∧ t.dram = s.dram)

/-- R182 to R200: a DECOMPRESS of a stated length, of a listed format, with a sound dictionary and context, ends and, without
result record and context, writes its output alone: whole where nothing is damaged and size and limits admit it, and nothing
where the sizing pass finds damage first. An item of FRAME f is expanded as format f. A COMPRESS with room for its bound ends with OK, or NOT_SMALLER for a one-shot that does not
shrink.
R201, R202: GF_COMBINE of a sound geometry within its windows writes to each output share, byte by byte, the sum over
GF(2^8) with polynomial 0x11D of the inputs times its coefficients, and ends with OK; a geometry outside R202 ends with
BAD_GEOMETRY and writes nothing. -/
def Obligations.KilnAndGf : Prop :=
  (∀ (c : CoreId) (tk : Ticket) (s : State) (x : Taken) (f len dst : Nat), s.engineRuns 2 = true → s.behindContext x = false →
     x.fieldAt 0x2E 1 % 16 = f → x.fieldAt 0x20 4 = len → x.fieldAt 0x24 4 = dst → 1 ≤ f → f ≤ 5 → (x.last = true → x.ctx ≠ 0) →
     x.badDict f = false → x.restore = false →
     (s.running c tk 2 0x01 = some x → 0 < len → x.flush = false → x.checksum = false →
       ∃ t st, exec (.decompress c tk) s = .next t ∧ Ended t c tk st ∧ t.rings = s.rings ∧ t.cores = s.cores ∧
         (∀ (d e : Expanded) (n : Nat), expandTo (s.streamJob x f len) none = d → d.declared = some n ∨ d.declared = none →
           (d.declared = some n → expandTo (s.streamJob x f len) (some n) = e) → (d.declared = none → d = e) →
           e.damage = none → e.reached = n → n ≤ dst → n ≤ (s.limitsOf 2 x.ring).bytes → n ≤ (s.limitsOf 2 x.ring).ratio * len →
           st = stOK ∧ (x.fieldAt 0x38 8 = 0 → x.ctx = 0 →
             (∀ k, k < e.blocks.flatten.length → Mem.get t.dram (x.fieldAt 0x18 8 + k) = e.blocks.flatten.getD k 0) ∧
             (∀ a, a < x.fieldAt 0x18 8 ∨ x.fieldAt 0x18 8 + e.blocks.flatten.length ≤ a → Mem.get t.dram a = Mem.get s.dram a))) ∧
         (∀ d, expandTo (s.streamJob x f len) none = d → d.declared = none → d.damage.isSome = true → d.reached ≤ dst →
           d.reached ≤ (s.limitsOf 2 x.ring).bytes → d.reached ≤ (s.limitsOf 2 x.ring).ratio * len →
           st = stDAMAGED ∧ (x.fieldAt 0x38 8 = 0 → x.ctx = 0 → t.dram = s.dram))) ∧
     (s.running c tk 2 0x02 = some x → (if x.ctx = 0 then len else len + 4096) ≤ dst →
       ∃ t st, exec (.compress c tk none) s = .next t ∧ Ended t c tk st ∧ t.rings = s.rings ∧ t.cores = s.cores ∧
         ∀ z, Config.compress (s.streamJob x f len) = z →
           (x.ctx = 0 → len ≤ z.output.length → st = stNOT_SMALLER) ∧
           (x.ctx ≠ 0 ∨ z.output.length < len → st = stOK ∧ (x.fieldAt 0x38 8 = 0 → x.ctx = 0 →
             ∀ k, k < z.output.length → Mem.get t.dram (x.fieldAt 0x18 8 + k) = z.output.getD k 0))) ∧
     (∀ i, s.running c tk 2 0x01 = some x → len = 0 → x.flush = false → x.checksum = false →
       s.liveItem 2 x.ring (fun j => j.grist != 0 && j.grist == x.fieldAt 0x10 8) = some i → i.status = stOK ∨ i.status = stSUBSTITUTED → i.frame = f →
       ∃ t st, exec (.decompress c tk) s = .next t ∧ Ended t c tk st ∧ t.rings = s.rings ∧ t.cores = s.cores ∧
         ∀ e, expandTo (s.streamJob x f i.storedLen) (some i.expandedLen) = e → e.damage = none → e.reached = i.expandedLen →
           (dst = 0 ∨ i.expandedLen ≤ dst) → i.expandedLen ≤ (s.limitsOf 2 x.ring).bytes →
           i.expandedLen ≤ (s.limitsOf 2 x.ring).ratio * i.storedLen → st = stOK)) ∧
  (∀ (c : CoreId) (tk : Ticket) (s : State) (x : Taken) (ins outs : List Nat) (len : Nat), s.running c tk 2 0x03 = some x →
     s.engineRuns 2 = true → x.gfLen = len →
     s.shareTable (x.fieldAt 0x10 8) x.gfIn = ins → s.shareTable (x.fieldAt 0x18 8) x.gfOut = outs →
     (x.gfShape = false → ∃ t, exec (.gfCombine c tk) s = .next t ∧ EndedWith t c tk stBAD_GEOMETRY 0 ∧ t.dram = s.dram) ∧
     (x.gfShape = true → s.windowGrants 2 x.ring .load (x.fieldAt 0x10 8) (8 * x.gfIn) = true →
       s.windowGrants 2 x.ring .load (x.fieldAt 0x18 8) (8 * x.gfOut) = true →
       s.windowGrants 2 x.ring .load (x.fieldAt 0x20 8) (x.gfIn * x.gfOut) = true → (∀ a ∈ ins ++ outs, a % 64 = 0) →
       (∀ a ∈ ins, s.windowGrants 2 x.ring .load a len = true) → (∀ a ∈ outs, s.windowGrants 2 x.ring .store a len = true) →
       ∃ t, exec (.gfCombine c tk) s = .next t ∧ EndedWith t c tk stOK 0 ∧ t.rings = s.rings ∧ t.cores = s.cores ∧
         (outs.Pairwise (fun a b => a + len ≤ b ∨ b + len ≤ a) → (∀ a ∈ ins, ∀ b ∈ outs, a + len ≤ b ∨ b + len ≤ a) →
           ∀ j b k, outs[j]? = some b → k < len →
             Mem.get t.dram (b + k) = ((List.range x.gfIn).map (fun i =>
               gfMul (Mem.get s.dram (x.fieldAt 0x20 8 + j * x.gfIn + i)) (Mem.get s.dram (ins.getD i 0 + k)))).foldl (fun u v => u ^^^ v) 0) ∧
         (∀ a, (∀ b ∈ outs, a < b ∨ b + len ≤ a) → Mem.get t.dram a = Mem.get s.dram a)))

/-- R217 to R223: a TRANSFORM of a sample with output, whose op list meets every condition and whose output fits, writes the
tensor of its ops and its record and ends with the sample's status; a tile error ends it with TILE_ERROR and takes the tile
out of rotation. -/
def Obligations.TransformCompletes : Prop :=
  ∀ (c : CoreId) (tk : Ticket) (s : State) (x : Taken) (w : WortView) (e : Nat) (key : DrawKey) (ops : List MashOp) (shapes : List Shape),
    s.running c tk 7 0x01 = some x → s.engineRuns 7 = true → wortView (s.dramBytes (x.fieldAt 0x10 8) 128) = w →
    x.fieldAt 0x2D 1 / 64 = e → e ≠ 3 →
    ¬ (128 ≤ x.fieldAt 0x2F 1 ∧ (Config.unitCount s.part.variant 7 ≤ x.fieldAt 0x2E 1 ∨ s.mash.modelTiles.contains (x.fieldAt 0x2E 1) = true)) →
    w.status = stOK ∨ w.status = stCONCEALED ∨ w.status = stSUBSTITUTED → 1 ≤ x.fieldAt 0x2C 1 → x.fieldAt 0x2C 1 ≤ 16 →
    s.opList x = ops → drawKey ((s.transformSeed x).getD []) w.gsid w.epoch = key →
    opShapes s.mashRevision key w.orient (x.fieldAt 0x30 8) (s.transformSeed x).isSome 0 ops w.shape = some shapes →
    shapes.any Shape.tooLarge = false → (shapes.getLastD w.shape).elems * outElemBytes e ≤ x.fieldAt 0x28 4 →
    (∃ t bytes noise, exec (.transform c tk false) s = .next t ∧ EndedWith t c tk w.status x.unit ∧
      ((ops.filter (fun o => o.op == 0x14)).map (fun o => o.param 0)).foldl Max.max 0 = noise ∧
      tensorBytes e (bitAt (BitVec.ofNat 8 (x.fieldAt 0x2D 1)) 5) (runOps s.mashRevision key w.orient
        ((List.range noise).map (fun k => s.dramLe (x.fieldAt 0x30 8 + 4 * k) 4)) 0 ops (s.wortTensor w)) = bytes ∧
      t.dram = Mem.store (Mem.store s.dram (x.fieldAt 0x20 8) bytes) (x.fieldAt 0x38 8)
        (tensorRecord x w w.status (shapes.getLastD w.shape).c (shapes.getLastD w.shape).w (shapes.getLastD w.shape).h bytes.length s.gtc.toNat) ∧
      t.rings = s.rings ∧ t.cores = s.cores ∧ t.mash = s.mash) ∧
    (∃ t, exec (.transform c tk true) s = .next t ∧ EndedWith t c tk stTILE_ERROR x.unit ∧ t.dram = s.dram)

/-- R228 to R231, R240: a MODEL_LOAD of a sound image into a free slot, with enough tiles that no descriptor runs on, makes the
model resident on the lowest tiles; a SCORE of a resident model writes its scores; MODEL_UNLOAD frees the slot once nothing uses
it.
R232 to R234, R238: a FILTER whose predicates are all admitted judges its sample: it keeps it with OK, or ends with DROPPED and
the first predicate that fails, and writes the verdict record either way. With bounds and status predicates alone the first
that the sample's values miss decides. A sample that carries no data ends with its own status.
R235 to R237, R240: LOAD_SET makes a sound set resident in a free slot, its index in its own area; SIGNATURE writes the MinHash
signature of an input of the set's kind; UNLOAD_SET frees the slot once nothing uses it. -/
def Obligations.ScoringFiltersSets : Prop :=
  (∀ (c : CoreId) (tk : Ticket) (s : State) (x : Taken), s.engineRuns 7 = true →
     (∀ m, s.running c tk 7 0x02 = some x → Table.find s.mash.models (x.fieldAt 0x10 1 % 4) = some m →
       leAt m.image 7 1 ≠ 0 ∨ x.fieldAt 0x20 4 = leAt m.image 8 4 →
       ∃ t, exec (.score c tk false) s = .next t ∧ EndedWith t c tk stOK x.unit ∧
         t.dram = Mem.store s.dram (x.fieldAt 0x28 8) ((s.runModel m (x.fieldAt 0x18 8) (x.fieldAt 0x20 4)).1.flatMap (leBytes 4)) ∧
         t.mash = s.mash ∧ t.rings = s.rings ∧ t.cores = s.cores) ∧
     (∀ b need free, s.running c tk 7 0x03 = some x → s.dramBytes (x.fieldAt 0x18 8) (x.fieldAt 0x20 4) = b →
       Table.find s.mash.models (x.fieldAt 0x10 1 % 4) = none → modelFormatOk b (x.fieldAt 0x20 4) = true → modelTooLarge b = false →
       modelTileCount b (x.fieldAt 0x20 4) = need → (List.range (Config.unitCount s.part.variant 7)).filter s.tileIn = free →
       need ≤ free.length → s.mash.modelTiles.length + need ≤ s.modelTileLimit →
       s.taken.any (fun y => y.cls == 7 && descOpcode y.desc == 1 && y.result.isNone && (free.take need).contains y.unit) = false →
       ∃ t m, exec (.modelLoad c tk) s = .next t ∧ EndedWith t c tk stOK 0 ∧ Table.find t.mash.models (x.fieldAt 0x10 1 % 4) = some m ∧
         m.image = b ∧ m.tiles = free.take need ∧
         (∀ k, k ≠ x.fieldAt 0x10 1 % 4 → Table.find t.mash.models k = Table.find s.mash.models k) ∧ t.dram = s.dram) ∧
     (s.running c tk 7 0x04 = some x → (Table.find s.mash.models (x.fieldAt 0x10 1 % 4)).isSome → s.slotInUse 3 (x.fieldAt 0x10 1 % 4) = false →
       ∃ t, exec (.modelUnload c tk) s = .next t ∧ EndedWith t c tk stOK 0 ∧ Table.find t.mash.models (x.fieldAt 0x10 1 % 4) = none ∧
         t.dram = s.dram) ∧
     (s.running c tk 7 0x04 = some x → (Table.find s.mash.models (x.fieldAt 0x10 1 % 4)).isSome → s.slotInUse 3 (x.fieldAt 0x10 1 % 4) = true →
       exec (.modelUnload c tk) s = .next s)) ∧
  (∀ (c : CoreId) (tk : Ticket) (s : State) (x : Taken) (n recKind textKind : Nat) (j : Judged) (ps : List Predicate),
     s.running c tk 6 0x01 = some x → s.engineRuns 6 = true → x.fieldAt 0x24 1 = n → 1 ≤ n → n ≤ 16 →
     x.fieldAt 0x25 1 % 4 = recKind → recKind ≠ 3 → x.fieldAt 0x25 1 / 4 % 4 = textKind → textKind ≤ 1 →
     judged recKind (s.dramBytes (x.fieldAt 0x10 8) 128) = j →
     (List.range n).map (fun i => predicate (s.dramBytes (x.fieldAt 0x28 8 + 16 * i) 16)) = ps →
     (∀ p ∈ ps, s.predicateRefusal p recKind textKind (x.fieldAt 0x18 8) (x.fieldAt 0x30 8) = none) →
     (j.status ≠ stOK ∧ j.status ≠ stCONCEALED ∧ j.status ≠ stSUBSTITUTED → j.status < 256 →
       ∃ t, exec (.filter c tk) s = .next t ∧ EndedWith t c tk j.status 0 ∧
         t.dram = Mem.store s.dram (x.fieldAt 0x38 8) (verdictRecord j 2 ⟨none, 0, 0, 0⟩)) ∧
     (j.status = stOK ∨ j.status = stCONCEALED ∨ j.status = stSUBSTITUTED →
       ∃ (t : State) (v : Verdict), exec (.filter c tk) s = .next t ∧ t.rings = s.rings ∧ t.cores = s.cores ∧ t.sets = s.sets ∧
         (v.failed = none → EndedWith t c tk stOK 0 ∧ t.dram = Mem.store s.dram (x.fieldAt 0x38 8) (verdictRecord j 0 v)) ∧
         (v.failed ≠ none → EndedWith t c tk stDROPPED 0 ∧ t.dram = Mem.store s.dram (x.fieldAt 0x38 8) (verdictRecord j 1 v)) ∧
         ((∀ p ∈ ps, p.kind = 1 ∨ p.kind = 4) →
           let fails (p : Predicate) : Bool :=
             if p.kind = 1 then !(decide (p.lo ≤ boundValue j (x.fieldAt 0x20 4) p.arg) && decide (boundValue j (x.fieldAt 0x20 4) p.arg ≤ p.hi))
             else !bitAt (BitVec.ofNat 32 p.extra) j.status
           (∀ p ∈ ps, fails p = false) → v.failed = none) ∧
         ((∀ p ∈ ps, p.kind = 1 ∨ p.kind = 4) →
           ∀ pre p suf, ps = pre ++ p :: suf →
             let fails (p : Predicate) : Bool :=
               if p.kind = 1 then !(decide (p.lo ≤ boundValue j (x.fieldAt 0x20 4) p.arg) && decide (boundValue j (x.fieldAt 0x20 4) p.arg ≤ p.hi))
               else !bitAt (BitVec.ofNat 32 p.extra) j.status
             (∀ q ∈ pre, fails q = false) → fails p = true → v.failed = some (pre.length, p.kind)))) ∧
  (∀ (c : CoreId) (tk : Ticket) (s : State) (x : Taken), s.engineRuns 6 = true →
     (∀ b h, s.running c tk 6 0x02 = some x → s.dramBytes (x.fieldAt 0x18 8) (x.fieldAt 0x20 4) = b → setHead b = h →
       Table.find s.sets (x.fieldAt 0x10 1 % 4) = none → setFormatOk b = true → h.entries * h.bands * 8 ≤ x.fieldAt 0x30 8 →
       ∃ t st, exec (.loadSet c tk) s = .next t ∧ EndedWith t c tk stOK 0 ∧ Table.find t.sets (x.fieldAt 0x10 1 % 4) = some st ∧
         st.image = b ∧ (∀ k, k ≠ x.fieldAt 0x10 1 % 4 → Table.find t.sets k = Table.find s.sets k) ∧
         (∀ a, a < x.fieldAt 0x28 8 ∨ x.fieldAt 0x28 8 + h.entries * h.bands * 8 ≤ a → Mem.get t.dram a = Mem.get s.dram a)) ∧
     (∀ st h, s.running c tk 6 0x03 = some x → Table.find s.sets (x.fieldAt 0x10 1 % 4) = some st → setHead st.image = h →
       x.fieldAt 0x24 1 ≤ 1 → h.tokens = decide (x.fieldAt 0x24 1 = 1) →
       ∃ t, exec (.signature c tk) s = .next t ∧ EndedWith t c tk stOK 0 ∧ t.sets = s.sets ∧
         t.dram = Mem.store s.dram (x.fieldAt 0x28 8)
           ((h.signature (s.dramBytes (x.fieldAt 0x18 8) (x.fieldAt 0x20 4 * (if h.tokens then 4 else 1)))).flatMap (leBytes 4))) ∧
     (s.running c tk 6 0x04 = some x → (Table.find s.sets (x.fieldAt 0x10 1 % 4)).isSome → s.slotInUse 2 (x.fieldAt 0x10 1 % 4) = false →
       ∃ t, exec (.unloadSet c tk) s = .next t ∧ EndedWith t c tk stOK 0 ∧ Table.find t.sets (x.fieldAt 0x10 1 % 4) = none ∧ t.dram = s.dram))

/-- R249 to R251: VOCAB_LOAD makes a vocabulary that parses resident in a free slot, its trie in its own area, and VOCAB_UNLOAD
releases it once no TOKENIZE that a lane took before it uses it.
R252 to R263: an explicit one-shot TOKENIZE with a resident vocabulary, a sound truncation and room for its bound writes its
tokens behind its record and ends with the status of R259 and R263; an item's tokens go to the pack store. -/
def Obligations.Tokenizing : Prop :=
  (∀ (c : CoreId) (tk : Ticket) (s : State) (x : Taken), s.engineRuns 8 = true →
     (∀ v, s.running c tk 8 0x02 = some x → Table.find s.vocabs (x.fieldAt 0x10 1 % 16) = none →
       parseVocab (s.dramBytes (x.fieldAt 0x18 8) (x.fieldAt 0x20 4)) = some v → 16 * v.stringBytes + 65536 ≤ x.fieldAt 0x30 4 →
       ∃ t, exec (.vocabLoad c tk) s = .next t ∧ EndedWith t c tk stOK 0 ∧ Table.find t.vocabs (x.fieldAt 0x10 1 % 16) = some v ∧
         (∀ k, k ≠ x.fieldAt 0x10 1 % 16 → Table.find t.vocabs k = Table.find s.vocabs k) ∧
         (∀ a, a < x.fieldAt 0x28 8 ∨ x.fieldAt 0x28 8 + (16 * v.stringBytes + 65536) ≤ a → Mem.get t.dram a = Mem.get s.dram a)) ∧
     (s.running c tk 8 0x02 = some x → (Table.find s.vocabs (x.fieldAt 0x10 1 % 16)).isSome →
       ∃ t, exec (.vocabLoad c tk) s = .next t ∧ EndedWith t c tk stVOCAB_BUSY 0 ∧ t.vocabs = s.vocabs ∧ t.dram = s.dram) ∧
     (s.running c tk 8 0x03 = some x → (Table.find s.vocabs x.vocabSlot).isSome → s.tokenBefore x 1 x.vocabSlot = false →
       ∃ t, exec (.vocabUnload c tk) s = .next t ∧ EndedWith t c tk stOK 0 ∧ Table.find t.vocabs x.vocabSlot = none ∧ t.dram = s.dram)) ∧
  (∀ (c : CoreId) (tk : Ticket) (s : State) (x : Taken) (v : Vocab) (first last : List Nat),
     s.running c tk 8 0x01 = some x → s.engineRuns 8 = true → Table.find s.vocabs x.vocabSlot = some v →
     s.tokenBefore x 3 x.vocabSlot = false → v.forcedSeq (x.fieldAt 0x34 1) = some first → v.forcedSeq (x.fieldAt 0x35 1) = some last →
     x.tokCut.bad (first.length + last.length) = false → x.maxIn ≤ 67108864 →
     (x.fieldAt 0x18 4 ≠ 0 → x.fieldAt 0x38 8 = 0 → x.enc 0 ≠ 0 →
       64 + 4 * (if x.tokCut.trunc = 0 then x.fieldAt 0x18 4 + (first.length + last.length)
         else Min.min (x.fieldAt 0x18 4 + (first.length + last.length)) x.tokCut.limit) ≤ x.fieldAt 0x30 4 →
       ∃ (t : State) (o : TextOut), exec (.tokenize c tk) s = .next t ∧ EndedWith t c tk o.status 0 ∧
         (x.fieldAt 0x18 4 ≤ Min.min x.maxIn (s.limitsOf 8 x.ring).bytes →
           o = textOut v (x.enc 0) x.tokCut first last (x.tokFlag 5 || (s.limitsOf 8 x.ring).policy == 0) false .clean
             (s.dramBytes (x.fieldAt 0x10 8) (x.fieldAt 0x18 4)) 0) ∧
         t.dram = Mem.store (Mem.store s.dram (x.fieldAt 0x28 8 + 64) (tokenBytes o.tokens)) (x.fieldAt 0x28 8)
           (tokenRecord x o 0 0 (x.fieldAt 0x28 8 + 64) s.gtc.toNat) ∧ t.vocabs = s.vocabs ∧ t.rings = s.rings ∧ t.cores = s.cores) ∧
     (∀ i h r st row len dmg (o : TextOut) (lowest : Bool) base, x.fieldAt 0x18 4 = 0 → s.textItem x = some i → x.enc i.codec ≠ 0 →
       s.recipeOfRing 8 x.ring = some (h, r) → s.streamOfItem h i.grist = some st →
       limitRow (textRow i) (Min.min x.maxIn (s.limitsOf 8 x.ring).bytes) = (row, len, dmg) →
       (if x.tokFlag 3 then ⟨[], stDROPPED, 0, 0, 0, 0, 0, 0⟩
         else textOut v (x.enc i.codec) x.tokCut first last (x.tokFlag 5 || (s.limitsOf 8 x.ring).policy == 0)
           (x.tokFlag 4 || i.status == stSUBSTITUTED) row (s.dramBytes (if i.frame = 0 then i.grist else i.out) len) dmg) = o →
       (s.lowestUnpacked st == some (if x.tokFlag 4 then x.fieldAt 0x28 6 else i.pos)) = lowest →
       s.storeRefuses (segmentBytes o.tokens) = false → s.storeTurn x lowest = true →
       s.storeRun (segmentBytes o.tokens) lowest = some base →
       ∃ t, exec (.tokenize c tk) s = .next t ∧ EndedWith t c tk o.status 0 ∧ t.vocabs = s.vocabs ∧ t.rings = s.rings ∧
         (x.fieldAt 0x38 8 = 0 → t.dram = Mem.store s.dram base (tokenBytes o.tokens))))

/-- R266 to R272, R276: a PACK_SLOTS whose list, format and shape every check admits, whose tickets are complete, whose tensors all
take a place and that finds space adds one slot part to the store and ends with OK: one piece of slot size for each entry, in
slot order. With no manifest copy and no replay log DRAM holds the pieces and their manifest at the part's place, and is
otherwise as it was. Without a store, and with an unknown format, it ends with the engine's code and writes nothing.
R267, R268, R273 to R275: a PACK_ROWS of a stream with room ends with OK and the count of rows it closed in DETAIL. It places
the final segments at the stream's home positions below NEXT in order, stopping at the first that is not final; a stream
that is absent is refused with NO_STREAM.
R278, R280: MERGE of 1 to 1,048,576 pieces with bytes writes the CRC-64/NVME of their concatenation and ends with OK; an empty
list or an empty piece is BAD_MERGE. DISCARD frees the part it names, or ends with NOT_FOUND. -/
def Obligations.CaskPacking : Prop :=
  (∀ (c : CoreId) (tk : Ticket) (s : State) (x : Taken) (es : List SlotEntry) (f slots n inner count policy base : Nat),
     s.running c tk 9 0x01 = some x → s.engineRuns 9 = true → s.slotEntries x = es → x.fieldAt 0x18 2 = count →
     x.fieldAt 0x1A 1 = f → x.fieldAt 0x1C 4 = slots → x.fieldAt 0x28 4 = n → x.fieldAt 0x30 4 = inner →
     (s.limitsOf 9 x.ring).policy = policy →
     (s.storeSize = 0 → ∃ t, exec (.packSlots c tk) s = .next t ∧ EndedWith t c tk stSTORE_SIZE 0 ∧ t.dram = s.dram ∧ t.store = s.store) ∧
     (s.storeSize ≠ 0 → fmtPlain f = false → fmtMx f = false →
       ∃ t, exec (.packSlots c tk) s = .next t ∧ EndedWith t c tk stCSK_BAD_FORMAT 0 ∧ t.dram = s.dram ∧ t.store = s.store) ∧
     (s.storeSize ≠ 0 → fmtPlain f = true ∨ fmtMx f = true → inner ≠ 0 → n % inner = 0 → 1 ≤ count → count ≤ 4096 → 1 ≤ slots →
       slots ≤ 65535 → (∀ e ∈ es, e.slot < slots) → (es.map (·.slot)).Nodup → s.slotTicketsDone x es = true →
       (∀ e ∈ es, e.hole policy = true ∨ placedStatus e.status = true ∧ e.elems = n) →
       ∀ need, count * slotBytes f n inner + alignUp (128 + 48 * count) 64 = need → s.storeRefuses need = false →
       s.storeTurn x false = true → s.storeRun need false = some base →
       ∃ t p, exec (.packSlots c tk) s = .next t ∧ EndedWith t c tk stOK 0 ∧ t.store.parts = s.store.parts ++ [p] ∧ p.kind = 0 ∧
         p.seq = x.fieldAt 0x20 8 ∧ p.base = base ∧ p.size = need ∧ p.out = false ∧ p.pieces.length = count ∧
         (∀ e, e ∈ p.pieces.map (·.1) ↔ e ∈ es.map (·.slot)) ∧ (p.pieces.map (·.1)).Pairwise (· < ·) ∧
         (∀ e ∈ p.pieces, e.2.length = slotBytes f n inner) ∧ t.rings = s.rings ∧ t.cores = s.cores ∧
         (x.fieldAt 0x38 8 = 0 → s.flag Reg.FLT_RPL_CFG_EN = false →
           t.dram = Mem.store s.dram base (p.pieces.flatMap (·.2) ++ p.manifest)))) ∧
  (∀ (c : CoreId) (tk : Ticket) (s : State) (x : Taken) (width e : Nat), s.running c tk 9 0x02 = some x → s.engineRuns 9 = true →
     s.storeSize ≠ 0 → x.fieldAt 0x14 4 = width → 1 ≤ width → width ≤ 65535 →
     (if bitAt (BitVec.ofNat 8 (x.fieldAt 0x12 1)) 6 then 2 else 4) = e → s.storeRefuses (width * (e + 4)) = false →
     (s.rowStream x = none → ∃ t, exec (.packRows c tk) s = .next t ∧ EndedWith t c tk stNO_STREAM 0 ∧ t.store = s.store ∧ t.dram = s.dram) ∧
     (∀ (st : FetchStream) (ps q : PackStream) (p : Packing) (closed : List OpenRow), s.rowStream x = some st →
       s.packStream st.serial st.handle = ps → (e = 2 → ∀ g ∈ ps.segs, g.2.vocabTokens ≤ 65536) →
       (∀ r ∈ ps.rows, r.width = width ∧ r.size = width * (e + 4)) →
       placeAll (s.limitsOf 9 x.ring).policy width x.rowWindow (width * (e + 4)) ps (⟨ps.rows, [], ps.dropped, ps.placed⟩, ps)
         (st.packable ps.packed) = (p, q) →
       (if bitAt (BitVec.ofNat 8 (x.fieldAt 0x12 1)) 7 && st.allPacked q.packed then p.closed ++ p.rows else p.closed) = closed →
       (closed = [] → ∃ t ps', exec (.packRows c tk) s = .next t ∧ EndedWith t c tk stOK 0 ∧ Table.find t.store.streams st.serial = some ps' ∧
         ps'.packed = q.packed ∧ ps'.segs = q.segs ∧ t.store.parts = s.store.parts ∧ t.dram = s.dram ∧ t.rings = s.rings ∧ t.cores = s.cores) ∧
       (closed ≠ [] → closed.length < 65536 → ∃ t, exec (.packRows c tk) s = .next t ∧ t.rings = s.rings ∧ t.cores = s.cores ∧
         (t.store.parts ≠ s.store.parts → EndedWith t c tk stOK closed.length ∧
           ∃ part, t.store.parts = s.store.parts ++ [part] ∧ part.kind = 1 ∧ part.seq = ps.nextSeq ∧ part.pieces.length = closed.length) ∧
         (t.store.parts = s.store.parts → t.dram = s.dram))) ∧
     (∀ (policy w window size : Nat) (ps : PackStream) (acc : Packing × PackStream) (pos : Nat) (rest : List Nat),
       (Table.find ps.segs pos = none → placeAll policy w window size ps acc (pos :: rest) = acc) ∧
       (∀ g, Table.find ps.segs pos = some g → g.isFinal policy = false → placeAll policy w window size ps acc (pos :: rest) = acc))) ∧
  ((∀ (c : CoreId) (tk : Ticket) (s : State) (x : Taken) (n : Nat), s.running c tk 9 0x03 = some x → s.engineRuns 9 = true →
     x.fieldAt 0x18 4 = n →
     (n = 0 ∨ 1048576 < n → ∃ t, exec (.merge c tk) s = .next t ∧ EndedWith t c tk stBAD_MERGE 0 ∧ t.dram = s.dram) ∧
     (1 ≤ n → n ≤ 1048576 → (∀ i, i < n → s.dramLe (x.fieldAt 0x10 8 + 16 * i + 4) 4 ≠ 0) →
       ∃ t v, exec (.merge c tk) s = .next t ∧ EndedWith t c tk stOK 0 ∧ t.dram = Mem.store s.dram (x.fieldAt 0x20 8) (leBytes 8 v) ∧
         t.store = s.store ∧ t.rings = s.rings ∧ t.cores = s.cores ∧
         (∀ datas : List (List Byte), datas.length = n →
           (∀ i d, datas[i]? = some d → d.length = s.dramLe (x.fieldAt 0x10 8 + 16 * i + 4) 4 ∧
             (crc64Nvme d).toNat = s.dramLe (x.fieldAt 0x10 8 + 16 * i + 8) 8) →
           v = (crc64Nvme datas.flatten).toNat))) ∧
   (∀ (c : CoreId) (tk : Ticket) (s : State) (x : Taken), s.running c tk 9 0x04 = some x → s.engineRuns 9 = true →
     (∀ p, s.partNamed ((s.recipeOfRing 9 x.ring).map (·.1)) (x.fieldAt 0x10 8) (x.fieldAt 0x18 1) = some p →
       ∃ t, exec (.discard c tk) s = .next t ∧ EndedWith t c tk stOK 0 ∧ t.store.parts = s.store.parts.erase p ∧
         t.dram = s.dram ∧ t.rings = s.rings ∧ t.cores = s.cores) ∧
     (s.partNamed ((s.recipeOfRing 9 x.ring).map (·.1)) (x.fieldAt 0x10 8) (x.fieldAt 0x18 1) = none →
       ∃ t, exec (.discard c tk) s = .next t ∧ EndedWith t c tk stNOT_FOUND 0 ∧ t.store = s.store ∧ t.dram = s.dram)))

/-- R287 to R290: training a channel takes the dies that answer and the highest rate at which it passed, at most the target;
a channel on which it never passes fails. A die that stays busy is reset (R305): it counts the time-outs in a row that the
reset does not clear, and a die that does not answer is dead and waits for its rebuild.
R295, R300 to R302, R308: a codeword that decodes at the hard read is read on its own channel and counted for its block; a
missing one is rebuilt from the other members of its stripe or counted UNREADABLE, and a rebuilt data codeword passes CHECK.
Neither changes what the medium or DRAM holds.
R315, R316: PHYS_READ from a ring of M writes the page's output and its report and ends with OK, or with UNREADABLE where a
codeword of a decoded mode cannot be read; from another ring it ends with NOT_PRIV, and for a page the population does not
have with its own code. In the decoded modes a page of sound codewords is written as its data and then its out-of-band bytes.
R309 to R313: a channel due for calibration, by time or by temperature, is calibrated while no other is out of service;
CHANNEL_SERVICE of M calibrates or retrains the channel it names and ends with OK, or with 0x63 where retraining does not
reach the target. PATROL_READ reads the next superblock, begins its read counts again and asks for the refresh of a weak one. -/
def Obligations.FlashMedia : Prop :=
  ((∀ (ch : BitVec 5) (dies : List (BitVec 5 × DieIdent)) (best : Option (BitVec 3)) (s : State), s.flashRuns = true →
     ch.toNat < s.channels → (dies.map (·.1)).Nodup →
     ∃ t, exec (.channelTraining ch dies best) s = .next t ∧
       (∀ e ∈ dies, ∃ x, t.die (ch.toNat * 32 + e.1.toNat) = some x ∧ x.ident = e.2) ∧
       (dies = [] → t.chanRate ch.toNat = 0xE) ∧
       (dies ≠ [] → ∀ r, best = some r → t.chanRate ch.toNat = Min.min r.toNat (Min.min 4 (s.fld Reg.FLS_RATE_TARGET))) ∧
       (dies ≠ [] → best = none → ch.toNat ∈ t.flash.failed) ∧
       t.flash.nand = s.flash.nand ∧ t.dram = s.dram ∧ t.cores = s.cores ∧ t.ftl = s.ftl) ∧
   (∀ (die : BitVec 10) (cleared answers : Bool) (s : State) (x : Die), s.flashRuns = true → s.dieUsable die.toNat = true →
     s.die die.toNat = some x →
     (cleared = true → answers = true →
       exec (.dieTimeout die cleared answers) s = .next (s.setDie die.toNat { x with stuck := 0, busy := false })) ∧
     (cleared = false → answers = true → x.stuck = 0 →
       exec (.dieTimeout die cleared answers) s = .next (s.setDie die.toNat { x with stuck := 1, busy := false })) ∧
     (x.state = .inUse → (answers = false ∨ cleared = false ∧ 1 ≤ x.stuck) →
       ∃ t y, exec (.dieTimeout die cleared answers) s = .next t ∧ t.die die.toNat = some y ∧ y.state = .dead ∧
         die.toNat ∈ t.flash.rebuilds ∧ t.dieUsable die.toNat = false ∧ t.flash.nand = s.flash.nand ∧ t.dram = s.dram))) ∧
  ((∀ (die : BitVec 10) (block page : Nat) (plane cw : BitVec 2) (shows : CellState) (s : State) (a : CwAddr) (w : Codeword) (b : Nat),
     a = ⟨die.toNat, block, page, plane.toNat, cw.toNat⟩ → s.flashRuns = true → s.dieUsable die.toNat = true → s.readWaits a = false →
     s.missing die.toNat block = false → Table.find s.flash.nand a.key = some w → shows.bits = some b → w.checks = true →
     1 ∉ shows.miscorrects →
     ∃ t, exec (.codewordRead die block page plane cw shows) s = .next t ∧ (t.healthOf a).bits = some b ∧
       Table.at 0 t.flash.reads (blockKey die.toNat block) = Table.at 0 s.flash.reads (blockKey die.toNat block) + 1 ∧
       t.flash.nand = s.flash.nand ∧ t.flash.dies = s.flash.dies ∧ t.ftl = s.ftl ∧ t.dram = s.dram ∧ t.cores = s.cores) ∧
   (∀ (die : BitVec 10) (block page : Nat) (plane cw : BitVec 2) (s : State) (a : CwAddr),
     a = ⟨die.toNat, block, page, plane.toNat, cw.toNat⟩ → s.flashRuns = true → s.missing die.toNat block = true → s.readWaits a = false →
     ∃ t, exec (.stripeReconstruction die block page plane cw) s = .next t ∧ t.flash.nand = s.flash.nand ∧ t.ftl = s.ftl ∧
       t.dram = s.dram ∧ t.cores = s.cores ∧
       ((s.rebuildCodeword a).1 = none → t.fld Reg.FLS_ERR_CNT_UNREADABLE = Min.min 0xFFFF (s.fld Reg.FLS_ERR_CNT_UNREADABLE + 1)) ∧
       (∀ q, (s.rebuildCodeword a).1 = some q →
         t.fld Reg.FLS_ERR_CNT_RECONSTRUCTED = Min.min 0xFFFF (s.fld Reg.FLS_ERR_CNT_RECONSTRUCTED + 1) ∧
         (∀ n x, s.superblockOf die.toNat block = some (n, x) →
           x.members.idxOf (die.toNat, block) ≠ parityMember n (stripeNumber page plane.toNat) x.members.length → q.checks = true)))) ∧
  (∀ (c : CoreId) (tk : Ticket) (s : State) (x : Taken) (d block page plane mode : Nat), s.running c tk 0 0x40 = some x → s.engineRuns 0 = true →
     x.fieldAt 0x10 2 % 1024 = d → x.fieldAt 0x12 1 % 4 = plane → x.fieldAt 0x13 1 = mode → x.fieldAt 0x14 2 = block → x.fieldAt 0x16 2 = page →
     ((s.ring x.cls x.ring).ownerPriv ≠ privM → ∃ t, exec (.physRead c tk) s = .next t ∧ EndedWith t c tk 0x61 0 ∧ t.dram = s.dram) ∧
     ((s.ring x.cls x.ring).ownerPriv = privM → s.dieUsable d = false →
       ∃ t, exec (.physRead c tk) s = .next t ∧ EndedWith t c tk 0x60 0 ∧ t.dram = s.dram) ∧
     (∀ y, (s.ring x.cls x.ring).ownerPriv = privM → s.die d = some y → s.dieUsable d = true → block < y.ident.blocks → page < y.ident.pages →
       ∃ t st out report, exec (.physRead c tk) s = .next t ∧ EndedWith t c tk st 0 ∧ (st = stOK ∨ st = 0x62) ∧ (mode = 2 → st = stOK) ∧
         report.length = 16 ∧ t.dram = Mem.store (Mem.store s.dram (x.fieldAt 0x18 8) out) (x.fieldAt 0x20 8) report ∧
         t.rings = s.rings ∧ t.cores = s.cores ∧ t.ftl = s.ftl ∧
         (mode ≠ 2 → ∀ w0 w1 w2 w3 : Codeword, (∀ i w, (i, w) ∈ [(0, w0), (1, w1), (2, w2), (3, w3)] →
             Table.find s.flash.nand (cwKey d block page plane i) = some w ∧ w.checks = true ∧ w.data.length = 4096 ∧ w.oob.length = 16 ∧
             s.healthOf ⟨d, block, page, plane, i⟩ = Health.good) →
           st = stOK ∧ out = w0.data ++ w1.data ++ w2.data ++ w3.data ++ (w0.oob ++ w1.oob ++ w2.oob ++ w3.oob)))) ∧
  ((∀ (ch : BitVec 5) (s : State), s.serviceFree ch.toNat = true →
     (s.serviceDeferred = false → s.fld Reg.FLS_CAL_CFG_PERIOD_S ≠ 0 →
       (s.lastCal ch.toNat).1.toNat + s.fld Reg.FLS_CAL_CFG_PERIOD_S * 10 ^ 9 ≤ s.gtc.toNat →
       exec (.periodicCalibration ch) s = .next (s.calibrated ch.toNat (s.lastCal ch.toNat).2)) ∧
     (∀ temp : Int, s.fld Reg.FLS_CAL_CFG_TEMP_DELTA ≠ 0 → s.fld Reg.FLS_CAL_CFG_TEMP_DELTA ≤ (temp - (s.lastCal ch.toNat).2).natAbs →
       (s.serviceDeferred = false ∨ 2 * s.fld Reg.FLS_CAL_CFG_TEMP_DELTA ≤ (temp - (s.lastCal ch.toNat).2).natAbs) →
       exec (.tempCalibration ch temp) s = .next (s.calibrated ch.toNat temp))) ∧
   (∀ (s : State) (ch : Nat) (temp : Int), (s.calibrated ch temp).lastCal ch = (s.gtc, temp) ∧
     { s.calibrated ch temp with flash := s.flash } = s) ∧
   (∀ (c : CoreId) (tk : Ticket) (best : Option (BitVec 3)) (s : State) (x : Taken) (ch : Nat), s.running c tk 0 0x41 = some x →
     s.engineRuns 0 = true → x.fieldAt 0x10 1 % 32 = ch →
     ((s.ring x.cls x.ring).ownerPriv ≠ privM → ∃ t, exec (.channelService c tk best) s = .next t ∧ EndedWith t c tk 0x61 0 ∧ t.flash = s.flash) ∧
     ((s.ring x.cls x.ring).ownerPriv = privM → ch < s.channels → s.populated ch = true → s.flag Reg.FLS_SERVICE_BUSY = false →
       (x.fieldAt 0x11 1 % 2 = 0 → ∃ t, exec (.channelService c tk best) s = .next t ∧ EndedWith t c tk stOK 0 ∧
         (t.lastCal ch).1 = s.gtc ∧ t.flash.dies = s.flash.dies ∧ t.dram = s.dram) ∧
       (x.fieldAt 0x11 1 % 2 = 1 → ∀ r, best = some r → ∃ t st, exec (.channelService c tk best) s = .next t ∧ EndedWith t c tk st 0 ∧
         t.chanRate ch = Min.min r.toNat (Min.min 4 (s.fld Reg.FLS_RATE_TARGET)) ∧ (t.lastCal ch).1 = s.gtc ∧ t.dram = s.dram ∧
         st = (if r.toNat < Min.min 4 (s.fld Reg.FLS_RATE_TARGET) then 0x63 else stOK)) ∧
       (x.fieldAt 0x11 1 % 2 = 1 → best = none → ∃ t, exec (.channelService c tk best) s = .next t ∧ EndedWith t c tk 0x63 0 ∧
         ch ∈ t.flash.failed ∧ t.dram = s.dram))) ∧
   (∀ (s : State) (n cursor : Nat) (x : Superblock), s.flashRuns = true → s.fld Reg.FLS_PATROL_CFG_PERIOD_H ≠ 0 → s.patrolNext = (n, cursor) →
     Table.find s.ftl.superblocks n = some x →
     ∃ t, exec .patrolRead s = .next t ∧ t.flash.patrolAt = cursor ∧ (∀ m ∈ x.members, Table.at 0 t.flash.reads (blockKey m.1 m.2) = 0) ∧
       t.flash.nand = s.flash.nand ∧ t.ftl.map = s.ftl.map ∧ t.dram = s.dram ∧ t.cores = s.cores ∧
       (∀ m a, m ∈ x.members → s.missing m.1 m.2 = false → a ∈ s.writtenIn m.1 m.2 → (s.healthOf a).bits = none →
         Table.find t.ftl.superblocks n = some { x with refresh := true })))

/-- R319, R325, R350, R351: a READ that every check admits writes its units to DRAM and ends with OK, or with UNREADABLE and the
index of the first unit that cannot be read. An unmapped unit reads as zeros; a mapped one whose codeword is sound and is
that unit's own reads as that codeword's data. Its checks end it with their codes.
R331, R335, R336, R350: a WRITE that every check admits puts its units, with their data, on their way to the medium; a TRIM whose
record fits under the limit unmaps its units and ends with OK; a SYNC of what is durable ends with OK, and any other waits for
the records appended before it. -/
def Obligations.UnitReadsAndWrites : Prop :=
  ((∀ (c : CoreId) (tk : Ticket) (s : State) (x : Taken) (space n lua : Nat) (us : List (Option (List Byte))), s.running c tk 0 0x01 = some x →
     s.engineRuns 0 = true → s.recovering = false → x.fieldAt 0x10 2 = space → unitCount x = n → x.fieldAt 0x18 5 = lua →
     (s.ringPriv x = privU → ∃ t, exec (.read c tk) s = .next t ∧ EndedWith t c tk stNOT_PRIV 0 ∧ t.dram = s.dram) ∧
     (s.ringPriv x ≠ privU → n ≤ 65536 → ∀ code, s.spaceCheck space lua n false = some code →
       ∃ t, exec (.read c tk) s = .next t ∧ EndedWith t c tk code 0 ∧ t.dram = s.dram) ∧
     (s.ringPriv x ≠ privU → n ≤ 65536 → s.spaceCheck space lua n false = none → s.runWaits space lua n = false →
       (s.readRun space lua n).1 = us →
       ((∀ u ∈ us, u.isSome) → ∃ t, exec (.read c tk) s = .next t ∧ EndedWith t c tk stOK 0 ∧
         t.dram = Mem.store s.dram (x.fieldAt 0x20 8) (us.flatMap (fun u => u.getD [])) ∧ t.rings = s.rings ∧ t.cores = s.cores ∧
         t.flash.nand = s.flash.nand ∧ t.ftl.map = s.ftl.map) ∧
       (∀ i, us[i]? = some none → (∀ j, j < i → (us.getD j none).isSome) →
         ∃ t, exec (.read c tk) s = .next t ∧ EndedWith t c tk stUNREADABLE (Min.min 0xFFFF i) ∧ t.rings = s.rings ∧ t.cores = s.cores))) ∧
   (∀ (s : State) (space lua : Nat), s.lookup space lua = none → (s.readUnit space lua).1 = some (zeros 4096)) ∧
   (∀ (s : State) (space lua l : Nat) (sp : Space) (a : CwAddr) (w : Codeword), s.lookup space lua = some l → s.space space = some sp →
     s.locAddr l = some a → s.missing a.die a.block = false → Table.find s.flash.nand a.key = some w → s.healthOf a = Health.good →
     w.checks = true → w.kind = kindUser → w.space = space → w.lua = lua → sp.createdSeq ≤ w.seq →
     (s.readUnit space lua).1 = some w.data)) ∧
  (∀ (c : CoreId) (tk : Ticket) (s : State) (x : Taken) (space n lua : Nat), s.engineRuns 0 = true → s.recovering = false →
     s.writing (.desc c tk) = false → s.ringPriv x ≠ privU → x.fieldAt 0x10 2 = space → unitCount x = n → x.fieldAt 0x18 5 = lua →
     (s.running c tk 0 0x02 = some x → n ≤ 65536 → s.spaceCheck space lua n true = none → s.spaceHeld space = false →
       ∃ t, exec (.write c tk) s = .next t ∧ t.ftl.writers = s.ftl.writers ++ [⟨s.ftl.nextWriter, .desc c tk, n, false⟩] ∧
         t.takenAt c tk = some x ∧ t.dram = s.dram ∧ t.flash.nand = s.flash.nand ∧ t.rings = s.rings ∧ t.cores = s.cores ∧
         (∀ i, i < n → ∃ u ∈ t.ftl.entry ++ t.ftl.user.queue ++ t.ftl.user.units, u.space = space ∧ u.lua = lua + i ∧
           u.writer = some s.ftl.nextWriter ∧
           u.data = if x.fieldAt 0x12 1 % 2 = 1 then zeros 4096 else s.dramBytes (x.fieldAt 0x20 8 + i * 4096) 4096)) ∧
     (s.running c tk 0 0x03 = some x → s.spaceCheck space lua n true = none → s.spaceHeld space = false → s.flag Reg.FLT_STATUS_SAFE = false →
       s.ftl.waiting = [] → s.appendFits = true → (∀ w ∈ s.ftl.writers, w.id ≠ s.ftl.nextWriter) →
       ∃ t, exec (.trim c tk [(0, n)]) s = .next t ∧ EndedWith t c tk stOK 0 ∧ (∀ i, i < n → t.lookup space (lua + i) = none) ∧
         (∀ k, (k < mapKey space lua ∨ mapKey space lua + n ≤ k) → Table.find t.ftl.map k = Table.find s.ftl.map k) ∧
         t.ftl.journal = s.ftl.journal ++ [⟨recTrim, space, n, lua, 0, 0⟩] ∧ t.dram = s.dram ∧ t.rings = s.rings ∧ t.cores = s.cores) ∧
     (∀ y, s.running c tk 0 0x06 = some x → (∀ w ∈ s.ftl.syncs, w.asker ≠ .desc c tk) → s.mounted = true →
       (space = 0 ∨ s.space space = some y) →
       (s.ftl.syncPoint space ≤ s.ftl.durable → ∃ t, exec (.sync c tk) s = .next t ∧ EndedWith t c tk stOK 0 ∧ t.ftl = s.ftl ∧ t.dram = s.dram) ∧
       (s.ftl.durable < s.ftl.syncPoint space → exec (.sync c tk) s =
         .next { s with ftl := { s.ftl with syncs := s.ftl.syncs ++ [⟨.desc c tk, space, s.ftl.syncPoint space⟩] } })))

/-- R319, R320, R323, R337, R350: a SPACE_CREATE that is admitted makes the space with its type and size, and a SPACE_DELETE ends it
for every later command, by descriptor of M or by command; the background walk then removes its map. -/
def Obligations.Spaces : Prop :=
  ∀ (s : State), s.recovering = false → s.flag Reg.FLT_STATUS_SAFE = false → s.ftl.waiting = [] → s.appendFits = true →
    (∀ w ∈ s.ftl.writers, w.id ≠ s.ftl.nextWriter) →
    (∀ (c : CoreId) (tk : Ticket) (x : Taken) (space typ units : Nat), s.engineRuns 0 = true → s.writing (.desc c tk) = false →
      s.ringPriv x = privM → s.mounted = true → x.fieldAt 0x10 2 = space → x.fieldAt 0x12 1 = typ → x.fieldAt 0x18 5 = units →
      (s.running c tk 0 0x04 = some x → s.fld Reg.FTL_STATE_STATE = 2 → 1 ≤ space → space ≤ 4095 → typ = 1 ∨ typ = 2 → units ≠ 0 →
        Table.find s.ftl.spaces space = none → s.spaceUnits + units ≤ s.userUnits →
        ∃ t sp, exec (.spaceCreate c tk) s = .next t ∧ EndedWith t c tk stOK 0 ∧ t.space space = some sp ∧ sp.typ = typ ∧
          sp.units = units ∧ sp.createdSeq = s.ftl.nextSeq ∧ (∀ k, k ≠ space → t.space k = s.space k) ∧ t.dram = s.dram ∧ t.cores = s.cores) ∧
      (s.running c tk 0 0x05 = some x → 1 ≤ space → space ≤ 4095 → (s.space space).isSome → s.spaceHeld space = false →
        ∃ t, exec (.spaceDelete c tk) s = .next t ∧ EndedWith t c tk stOK 0 ∧ t.space space = none ∧
          (∀ k, k ≠ space → t.space k = s.space k) ∧ t.dram = s.dram ∧ t.cores = s.cores)) ∧
    (∀ (cid : BitVec 16) (entry pay : List Byte) (e : List Byte) (space : Nat), fitBytes 64 entry = e → leAt e 0x10 2 = space →
      s.mounted = true → 1 ≤ space → space ≤ 4095 →
      (s.fld Reg.FTL_STATE_STATE = 2 → leAt e 0x12 1 = 1 ∨ leAt e 0x12 1 = 2 → leAt e 0x18 5 ≠ 0 → Table.find s.ftl.spaces space = none →
        s.spaceUnits + leAt e 0x18 5 ≤ s.userUnits →
        ∃ t sp, exec (.cmdSpaceCreate (.manager cid entry pay)) s = .next t ∧
          t.host.replies = s.host.replies ++ [⟨cid.toNat, 0, stOK, []⟩] ∧ t.space space = some sp ∧ sp.typ = leAt e 0x12 1 ∧
          sp.units = leAt e 0x18 5 ∧ t.dram = s.dram ∧ t.cores = s.cores) ∧
      ((s.space space).isSome → s.spaceHeld space = false →
        ∃ t, exec (.cmdSpaceDelete (.manager cid entry pay)) s = .next t ∧
          t.host.replies = s.host.replies ++ [⟨cid.toNat, 0, stOK, []⟩] ∧ t.space space = none ∧ t.dram = s.dram ∧ t.cores = s.cores)) ∧
    (∀ (space : BitVec 12) (x : Space), Table.find s.ftl.spaces space.toNat = some x → x.walking = true → s.flashRuns = true →
      ∃ t, exec (.spaceWalk space) s = .next t ∧ Table.find t.ftl.spaces space.toNat = none ∧
        (∀ k, k / 2 ^ 40 = space.toNat → Table.find t.ftl.map k = none) ∧
        (∀ k, k / 2 ^ 40 ≠ space.toNat → Table.find t.ftl.map k = Table.find s.ftl.map k) ∧ t.dram = s.dram ∧ t.flash = s.flash)

/-- R298, R308, R330 to R333: the end of a wordline program puts its codewords, data and parity, on the medium at their places;
one that failed retires the block and writes nothing. A USER round whose oldest unit is FILL_US old is programmed.
R323, R324, R327 to R329: a journal page holds the oldest records and takes the next JSEQ; a checkpoint begins the journal
anew at it; a missed map page is read into the cache; and a changed one is written back to a new place that a record in space
0 names. -/
def Obligations.ProgramsAndJournal : Prop :=
  ((∀ (gc : Bool) (m : BitVec 5) (s : State) (o : OpenStream) (n d b : Nat) (x : Superblock),
     s.stream (if gc then .reclaim else .userData) = o → o.sb = some n → Table.find s.ftl.superblocks n = some x →
     x.members[m.toNat]? = some (d, b) → s.flashStarts = true → o.programming = true → m.toNat ∉ o.done → s.sbReady n = true →
     bitAt (s.reg Reg.FLS_CHAN_STATE) (d / 32) = false → 4 * o.round + 4 ≤ 4096 →
     (∃ t, exec (.programDone gc m true) s = .next t ∧ t.dram = s.dram ∧ t.cores = s.cores ∧ t.rings = s.rings ∧
       (∀ j cw, j < 16 → cw < 4 →
         let loc (i : Nat) : Nat := packLoc n i (4 * o.round + j / 4) (j % 4) cw
         let pm := parityMember n (stripeNumber (4 * o.round + j / 4) (j % 4)) x.members.length
         Table.find t.flash.nand (cwKey d b (4 * o.round + j / 4) (j % 4) cw) = some (if m.toNat = pm then
             parityWord (((List.range x.members.length).filter (· != pm)).map (fun i => roundWord o (loc i)))
               (2 ^ x.members.length - 1) (o.seqBase + j)
           else roundWord o (loc m.toNat))) ∧
       (∀ k, k / 65536 ≠ blockKey d b → Table.find t.flash.nand k = Table.find s.flash.nand k)) ∧
     (∃ t, exec (.programDone gc m false) s = .next t ∧ t.blockRetired d b = true ∧ t.flash.nand = s.flash.nand ∧ t.dram = s.dram ∧
       t.cores = s.cores ∧ t.rings = s.rings)) ∧
   (∀ (s : State), s.flashRuns = true → s.ftl.user.programming = false → s.ftl.user.units ≠ [] →
     s.ftl.user.oldest.toNat + zeroActsAsOne (s.fld Reg.FTL_WRITE_CFG_FILL_US) * 1000 ≤ s.gtc.toNat →
     exec .fillTimer s = .next { s with ftl := { s.ftl with user := { s.ftl.user with programming := true } } })) ∧
  ((∀ (s u : State) (l : Nat), s.flashStarts = true → 126 ≤ s.ftl.journal.length →
     s.metaWrite kindJournal 0 (s.ftl.jseq % 2 ^ 40) (journalPage s.ftl.jseq s.ftl.start (s.ftl.journal.take 126)) true = (some l, u) →
     ∃ t, exec (.journalPageProgram true) s = .next t ∧ t.ftl.jseq = s.ftl.jseq + 1 ∧ t.ftl.flashed = s.ftl.flashed + 4096 ∧
       t.flash.nand = u.flash.nand ∧ t.dram = s.dram ∧ t.cores = s.cores) ∧
   (∀ (s : State) (kind space lua n : Nat) (data : List Byte) (x : Superblock), s.ftl.metaSb = some n → Table.find s.ftl.superblocks n = some x →
     x.members.Nodup → (∀ e ∈ x.members, e.2 < 8192) → 2 ≤ x.members.length → x.members.length ≤ 32 → s.ftl.metaStripe < 16384 →
     ∃ l u a w, s.metaWrite kind space lua data true = (some l, u) ∧ s.locAddr l = some a ∧ Table.find u.flash.nand a.key = some w ∧
       w.data = data ∧ w.oob = oobBytes data lua kind space s.ftl.nextSeq ∧ u.dram = s.dram) ∧
   (∀ (s : State), s.flashStarts = true → s.mounted = true → Max.max 64 (s.fld Reg.FTL_CKPT_CFG_CKPT_MIB) * 1048576 < s.ftl.flashed →
     ∃ t a, exec .checkpoint s = .next t ∧ t.ftl.start = s.ftl.jseq ∧ t.ftl.flashed = 0 ∧ t.ftl.anchor = some a ∧ a.start = s.ftl.jseq ∧
       a.directory = t.ftl.directory ∧ a.superblocks = t.ftl.superblocks ∧ a.spaces = t.ftl.spaces ∧ t.dram = s.dram ∧ t.cores = s.cores) ∧
   (∀ (page : Nat) (s : State), s.flashRuns = true → Table.find s.ftl.cached page = none → (Table.find s.ftl.directory page).isSome →
     ∃ t, exec (.mapPageRead page) s = .next t ∧ Table.find t.ftl.cached page = some false ∧ t.ftl.map = s.ftl.map ∧
       t.ftl.directory = s.ftl.directory ∧ t.flash = s.flash ∧ t.dram = s.dram) ∧
   (∀ (page l : Nat) (s u : State), s.flashStarts = true → Table.find s.ftl.cached page = some true →
     s.metaWrite kindMap 0 page (s.mapPageBytes page) true = (some l, u) →
     ∃ t, exec (.mapWriteback page true) s = .next t ∧ Table.find t.ftl.cached page = some false ∧ t.flash.nand = u.flash.nand ∧
       t.dram = s.dram ∧ t.cores = s.cores ∧
       (u.flag Reg.FLT_STATUS_SAFE = false → u.ftl.waiting = [] → u.appendFits = true → t.lookup 0 page = some l)))

/-- R338 to R342, R306: background and foreground reclamation begin with the victim that the order of R338 names; the next unit of
it is read and placed in the GC stream where the map still names it; with every unit moved its member blocks are erased, and
the last erase frees it. DIE_REBUILD takes the first die that waits.
R290, R320, R346 to R349: the first mount of a sled with every channel usable formats it: no space and no map. A later mount
recovers from the anchor and serves, fully or read-only; without a readable copy or checkpoint the engine fails. -/
def Obligations.ReclamationAndMounts : Prop :=
  ((∀ (s : State) (n : Nat) (x : Superblock), s.flashRuns = true → s.mounted = true → s.ftl.gc = none → s.pickVictim = some (n, x) →
     (s.fld Reg.FTL_GC_CFG_IDLE_MS ≠ 0 → s.ftl.lastWork.toNat + s.fld Reg.FTL_GC_CFG_IDLE_MS * 10 ^ 6 ≤ s.gtc.toNat →
       s.validUnits n * 100 ≤ Min.min 100 (s.fld Reg.FTL_GC_CFG_BG_VALID) * s.dataUnits x →
       ∃ t g, exec .backgroundGc s = .next t ∧ t.ftl.gc = some g ∧ g.victim = n ∧ g.foreground = false ∧ g.erasing = none ∧
         t.flag Reg.FTL_GC_STAT_BG = true ∧ t.flash = s.flash ∧ t.dram = s.dram) ∧
     (s.flag Reg.FTL_GC_STAT_FG = true ∨ s.freeSbs < s.freeLow →
       ∃ t g, exec .foregroundGc s = .next t ∧ t.ftl.gc = some g ∧ g.victim = n ∧ g.foreground = true ∧ g.erasing = none ∧
         t.flag Reg.FTL_GC_STAT_FG = true ∧ t.flash = s.flash ∧ t.dram = s.dram)) ∧
   (∀ (s : State) (g : GcRun) (l : Nat) (rest : List Nat) (a : CwAddr), s.ftl.gc = some g → g.left = l :: rest → s.locAddr l = some a →
     s.flashRuns = true → s.gcHeld g = false → bitAt (s.reg Reg.FLS_CHAN_STATE) (a.die / 32) = false →
     ((s.namedIn (locSb l)).find? (fun e => e.2.2 == l) = none →
       exec .gcMove s = .next { s with ftl := { s.ftl with gc := some { g with left := rest } } }) ∧
     (∀ space lua p w, (s.namedIn (locSb l)).find? (fun e => e.2.2 == l) = some (space, lua, p) → (s.readCodeword a).1.word = some w →
       ∃ t, exec .gcMove s = .next t ∧ t.ftl.gc = some { g with left := rest } ∧ t.dram = s.dram ∧ t.cores = s.cores ∧
         ∃ u ∈ t.ftl.gcStream.queue ++ t.ftl.gcStream.units, u.space = space ∧ u.lua = lua ∧ u.data = w.data ∧ u.source = some l)) ∧
   (∀ (s : State) (g : GcRun) (x : Superblock), s.ftl.gc = some g → Table.find s.ftl.superblocks g.victim = some x →
     (s.flashStarts = true → g.left = [] → g.erasing = none → s.movesPending g.victim = false →
       (∃ e ∈ x.members, s.dieUsable e.1 = true ∧ s.flash.failed.contains (e.1 / 32) = false ∧ s.blockRetired e.1 e.2 = false) →
       ∃ t ms, exec .victimErase s = .next t ∧ t.ftl.gc = some { g with erasing := some ms } ∧ ms ≠ [] ∧ t.flash.nand = s.flash.nand ∧ t.dram = s.dram) ∧
     (∀ (m : BitVec 5) (ms : List Nat) (d b : Nat), g.erasing = some ms → m.toNat ∈ ms → x.members[m.toNat]? = some (d, b) →
       s.polderOn polPF = true → s.power.flush = none →
       (∃ t, exec (.eraseDone m true) s = .next t ∧ (∀ k, k / 65536 = blockKey d b → Table.find t.flash.nand k = none) ∧
         (∀ k, k / 65536 ≠ blockKey d b → Table.find t.flash.nand k = Table.find s.flash.nand k) ∧ t.dram = s.dram ∧
         (∀ k ∈ ms, k ≠ m.toNat → t.ftl.gc = some { g with erasing := some (ms.filter (· != m.toNat)) }) ∧
         ((∀ k ∈ ms, k = m.toNat) → s.flag Reg.FLT_STATUS_SAFE = false → t.ftl.gc = none)) ∧
       (∃ t, exec (.eraseDone m false) s = .next t ∧ t.blockRetired d b = true ∧ t.flash.nand = s.flash.nand ∧ t.dram = s.dram))) ∧
   (∀ (s : State) (d : Nat) (rest : List Nat), s.flash.rebuilds = d :: rest → s.flashStarts = true →
     ∃ t, exec .dieRebuild s = .next t ∧ t.flash.rebuilds = rest ∧ t.flag Reg.FLS_REBUILD_STAT_ACTIVE = false ∧
       t.fld Reg.FLS_REBUILD_STAT_PROGRESS = 1023 ∧ t.dram = s.dram ∧ t.cores = s.cores)) ∧
  (∀ (copies : Nat) (checkpoint : Bool) (s : State), s.flashRuns = true → s.fld Reg.FTL_STATE_STATE = 0 → s.fld Reg.FLS_POP_MODE ≠ 0 →
     (s.ftl.anchor = none → s.usableChannels.length = s.channels →
       ∃ t a, exec (.mount copies checkpoint) s = .next t ∧ t.fld Reg.FTL_STATE_STATE = 2 ∧ t.ftl.spaces = [] ∧ t.ftl.map = [] ∧
         t.ftl.anchor = some a ∧ t.flash.nand = s.flash.nand ∧ t.dram = s.dram ∧ t.cores = s.cores) ∧
     (∀ a, s.ftl.anchor = some a →
       (copies = 0 ∨ checkpoint = false → exec (.mount copies checkpoint) s = .next (s.setFld Reg.FTL_STATE_STATE 4)) ∧
       (copies ≠ 0 → checkpoint = true →
         ∃ t, exec (.mount copies checkpoint) s = .next t ∧ (t.fld Reg.FTL_STATE_STATE = 2 ∨ t.fld Reg.FTL_STATE_STATE = 3) ∧
           t.dram = s.dram ∧ t.cores = s.cores)))

/-- R355, R356, R358, R393, R403: a port whose EN is set comes up with its configuration where its partner offers what it supports;
a link that goes down leaves no packet waiting on its sub-port; one that comes up begins at virtual time 0. Frames that are
not the machine's reach the network service, at most 100,000 a second on a sub-port.
R398 to R400: a PFC frame for the data priority pauses its sub-port for its quanta or releases it, one for another priority
is ignored, and the pause ends with its quanta. A receive buffer that has filled is paused again every 40 µs and released at
XON_KIB. A CNP cuts the queue's rate by CUT sixteenths, at most every 50 µs; an INTERVAL without one raises it. -/
def Obligations.PortsAndPauses : Prop :=
  ((∀ (w : Writer) (port : BitVec 2) (value : Word32) (s : State), s.mayWrite w = true → s.netRuns = true →
     port.toNat < Config.ethPorts s.part.variant → bitAt (s.reg (Reg.NET_PORT_CFG + 4 * port.toNat)) 31 = false →
     ∃ t, exec (.portEnable w port value true) s = .next t ∧ (t.subport (subNo (2 * port.toNat))).up = true ∧
       (bitAt value 30 = true → (t.subport (subNo (2 * port.toNat + 1))).up = true) ∧
       bitAt (t.reg (Reg.NET_PORT_CFG + 4 * port.toNat)) 31 = true ∧
       (∀ n : BitVec 3, n.toNat / 2 ≠ port.toNat → t.subport n = s.subport n) ∧ t.dram = s.dram ∧ t.cores = s.cores) ∧
   (∀ (sub : BitVec 3) (s : State), (s.subport sub).up = true →
     ∃ t, exec (.linkDown sub) s = .next t ∧ (t.subport sub).up = false ∧ (t.subport sub).urgent = [] ∧
       (∀ k, k / 16384 = sub.toNat → (t.queueAt k).packets = []) ∧ (∀ k, k / 16384 ≠ sub.toNat → t.queueAt k = s.queueAt k) ∧
       (∀ n : BitVec 3, n ≠ sub → t.subport n = s.subport n) ∧ t.dram = s.dram ∧ t.rings = s.rings ∧ t.cores = s.cores) ∧
   (∀ (sub : BitVec 3) (s : State), s.netRuns = true → s.subportExists sub = true → (s.subport sub).up = false →
     ∃ t, exec (.linkUp sub) s = .next t ∧ (t.subport sub).up = true ∧ (t.subport sub).v = 0 ∧ (t.subport sub).pausedSince = none ∧
       (t.subport sub).whole = !bitAt (Table.at 0 s.net.ports (sub.toNat / 2)) 30 ∧
       (∀ k, k / 16384 = sub.toNat → t.queueAt k = WeirQueue.empty) ∧
       (∀ n : BitVec 3, n ≠ sub → t.subport n = s.subport n) ∧ t.dram = s.dram ∧ t.rings = s.rings ∧ t.cores = s.cores) ∧
   (∀ (sub : BitVec 3) (frame : List Byte) (s : State), s.netRuns = true → (s.subport sub).up = true →
     let n := if (s.subport sub).puntSecond = s.gtc.toNat / 1000000000 then (s.subport sub).puntCount else 0
     (n < 100000 → ∃ t, exec (.puntFrame sub frame) s = .next t ∧ t.net.punted = s.net.punted ++ [(sub.toNat, frame)] ∧
       (t.subport sub).puntCount = n + 1 ∧ t.regs = s.regs ∧ t.dram = s.dram) ∧
     (100000 ≤ n → exec (.puntFrame sub frame) s = .next (s.errAdd Reg.NET_ERR_CNT_PUNT_DROP 1)))) ∧
  ((∀ (sub prio : BitVec 3) (quanta : BitVec 16) (s : State), s.netRuns = true → (s.subport sub).up = true →
     (prio.toNat ≠ s.fld Reg.NET_PRIO_CFG_DATA_PRIO → exec (.pfcReceive sub prio quanta) s = .next s) ∧
     (prio.toNat = s.fld Reg.NET_PRIO_CFG_DATA_PRIO →
       ∃ t, exec (.pfcReceive sub prio quanta) s = .next t ∧ t.dram = s.dram ∧ t.cores = s.cores ∧
         (quanta = 0 → (t.subport sub).pausedSince = none) ∧
         (quanta ≠ 0 → (t.subport sub).pausedSince = some ((s.subport sub).pausedSince.getD s.gtc) ∧
           (t.subport sub).pausedUntil = s.gtc + BitVec.ofNat 64 (ceilDiv (quanta.toNat * 512 * 1000000000) (s.subport sub).line)))) ∧
   (∀ (sub : BitVec 3) (s : State), s.netRuns = true → (s.subport sub).pausedSince.isSome → (s.subport sub).pausedUntil ≤ s.gtc →
     ∃ t, exec (.pauseExpiry sub) s = .next t ∧ (t.subport sub).pausedSince = none ∧ t.dram = s.dram ∧ t.cores = s.cores) ∧
   (∀ (sub : BitVec 3) (kib : Nat) (s : State), s.netRuns = true → s.xoffSent sub = true →
     ∃ t, exec (.pfcRepeat sub kib) s = .next t ∧ (t.subport sub).rx = kib ∧ t.dram = s.dram ∧
       (kib ≤ s.fld Reg.WER_PFC_CFG_XON_KIB → t.net.pauses = s.net.pauses ++ [(sub.toNat, 0)] ∧ t.xoffSent sub = false) ∧
       (s.fld Reg.WER_PFC_CFG_XON_KIB < kib → 40000 ≤ (s.gtc - (s.subport sub).lastPause).toNat →
         t.net.pauses = s.net.pauses ++ [(sub.toNat, 0xFFFF)] ∧ t.xoffSent sub = true) ∧
       (s.fld Reg.WER_PFC_CFG_XON_KIB < kib → (s.gtc - (s.subport sub).lastPause).toNat < 40000 → t.net.pauses = s.net.pauses)) ∧
   (∀ (qcn : BitVec 16) (s : State) (q : Qp) (w : WeirQueue) (k : Nat), s.qpAt qcn.toNat = some q → s.netRuns = true →
     (s.subport (subNo q.sub)).up = true → queueKey q.sub (s.qpService qcn.toNat q) q.subscriber = k → s.queueAt k = w →
     ∃ t, exec (.cnpReceive qcn) s = .next t ∧ t.net.qps = s.net.qps ∧ t.dram = s.dram ∧ (∀ j, j ≠ k → t.queueAt j = s.queueAt j) ∧
       ((∀ a, w.lastCut = some a → 50000 ≤ (s.gtc - a).toNat) → (t.queueAt k).lastCut = some s.gtc ∧ (t.queueAt k).packets = w.packets ∧
         (t.queueAt k).rc = some (Max.max (w.rc.getD (s.subport (subNo q.sub)).line * zeroActsAsOne (s.fld Reg.WER_CC_CFG_CUT) / 16)
           (zeroActsAsOne (s.fld Reg.WER_CC_CFG_RMIN) * 100000000))) ∧
       (∀ a, w.lastCut = some a → (s.gtc - a).toNat < 50000 → t.queueAt k = w)) ∧
   (∀ (sub : BitVec 3) (service : BitVec 2) (subscriber : BitVec 12) (s : State) (rc up k : Nat),
     queueKey sub.toNat service.toNat subscriber.toNat = k → (s.queueAt k).rc = some rc → s.netRuns = true →
     zeroActsAsOne (s.fld Reg.WER_CC_CFG_INTERVAL) * 1000 ≤ (s.gtc - (s.queueAt k).lastRise).toNat →
     rc + s.fld Reg.WER_CC_CFG_RISE * 100000000 = up →
     exec (.rcRise sub service subscriber) s =
       .next (s.setQueue k { s.queueAt k with rc := if (s.subport sub).line ≤ up then none else some up, lastRise := s.gtc })))

/-- R388 to R397, R402, R404: at a packet boundary an urgent frame that may go goes first, and otherwise the head of the queue that
the start tags choose. A wheel slot that has ended releases what waits in it; each 1,024 ns every queue is sampled; a write
of WER_Q_IDX latches the samples, and reading a latched value clears its maximum. -/
def Obligations.WeirSchedules : Prop :=
  (∀ (sub : BitVec 3) (s : State), s.netRuns = true → (s.subport sub).up = true →
    (∀ p, (s.subport sub).urgent.find? (s.urgentReady (s.subport sub)) = some p →
      ∃ t, exec (.packetSchedule sub) s = .next t ∧ t.net.sent = s.net.sent ++ [(sub.toNat, p)] ∧
        (t.subport sub).urgent = (s.subport sub).urgent.erase p ∧ t.net.queues = s.net.queues ∧ t.dram = s.dram) ∧
    ((s.subport sub).urgent.find? (s.urgentReady (s.subport sub)) = none →
      (s.nextQueue sub.toNat = none → exec (.packetSchedule sub) s = .next s) ∧
      (∀ service qk p rest, s.nextQueue sub.toNat = some (service, qk) → (s.queueAt qk).packets = p :: rest →
        ∃ t, exec (.packetSchedule sub) s = .next t ∧ t.net.sent = s.net.sent ++ [(sub.toNat, p)] ∧ (t.queueAt qk).packets = rest ∧
          (t.queueAt qk).ent.f = ((s.queueAt qk).ent.s + s.countedLen p * 65536 / s.queueWeight (qk % 4096)) % 2 ^ 48 ∧
          (t.subport sub).v = (s.nodeAt (nodeKey sub.toNat service)).ent.s ∧ (∀ j, j ≠ qk → t.queueAt j = s.queueAt j) ∧
          t.dram = s.dram ∧ t.cores = s.cores))) ∧
  (∀ (s : State), s.netRuns = true → Table.canonical WeirQueue.empty s.net.queues = true → Table.canonical ServiceNode.zero s.net.nodes = true →
    (∃ t, exec .wheelRelease s = .next t ∧ t.dram = s.dram ∧ t.cores = s.cores ∧
      (∀ k q, Table.find s.net.queues k = some q →
        t.queueAt k = { q with ent := (q.ent.fire s.gtc.toNat (s.nodeAt (k / 4096)).v).1 }) ∧
      (∀ k n, Table.find s.net.nodes k = some n →
        t.nodeAt k = { n with ent := (n.ent.fire s.gtc.toNat (s.subport (subNo (k / 4))).v).1 })) ∧
    (s.gtc.toNat % 1024 = 0 → ∃ t, exec .queueSample s = .next t ∧ t.dram = s.dram ∧ t.cores = s.cores ∧
      (∀ k q, Table.find s.net.queues k = some q →
        t.queueAt k = { q with ent := q.ent.sample (s.queueLoad q.packets).1 (s.queueLoad q.packets).2 }) ∧
      (∀ k, k < 32 → t.nodeAt k = { s.nodeAt k with ent := (s.nodeAt k).ent.sample (s.nodeLoad k).1 (s.nodeLoad k).2 }))) ∧
  (∀ (x : Entity) (now v k : Nat), x.slot = some k →
    (now < (k + 1) * 64 → (x.fire now v).1 = x) ∧
    ((k + 1) * 64 ≤ now → x.e.floor / 64 ≤ k → (x.fire now v).1 = { x with slot := none, s := tagMax v x.f })) ∧
  (∀ (w : Writer) (value : Word32) (s : State), s.polderOn polPN = true →
    (s.mayWrite w = true → ∃ t, exec (.qLatch w value) s = .next t ∧ t.reg Reg.WER_Q_IDX = value &&& 0x80073FFF ∧ t.net = s.net ∧
      natAt (t.reg Reg.WER_Q_DEPTH) 16 16 = Min.min 0xFFFF (ceilDiv t.selected.depth 1024) ∧
      natAt (t.reg Reg.WER_Q_DEPTH) 0 16 = Min.min 0xFFFF (ceilDiv t.selected.depthMax 1024) ∧
      natAt (t.reg Reg.WER_Q_DELAY) 16 16 = Min.min 0xFFFF (t.selected.delay / 64) ∧
      natAt (t.reg Reg.WER_Q_DELAY) 0 16 = Min.min 0xFFFF (t.selected.delayMax / 64)) ∧
    (∃ t, exec .qDepthRead s = .next t ∧ t.host.reads = s.host.reads ++ [s.reg Reg.WER_Q_DEPTH] ∧
      t.reg Reg.WER_Q_DEPTH = s.reg Reg.WER_Q_DEPTH &&& 0xFFFF0000 ∧ t.selected = { s.selected with depthMax := 0 } ∧ t.dram = s.dram) ∧
    (∃ t, exec .qDelayRead s = .next t ∧ t.host.reads = s.host.reads ++ [s.reg Reg.WER_Q_DELAY] ∧
      t.reg Reg.WER_Q_DELAY = s.reg Reg.WER_Q_DELAY &&& 0xFFFF0000 ∧ t.selected = { s.selected with delayMax := 0 } ∧ t.dram = s.dram))

/-- R362, R363, R365 to R368: RDM_QP_STATE moves the selected QP through its states, and a command that is no transition sets
CMD_REJECT and changes nothing else. A QP that enters ERR has no work and no packet left. A timer that expires sends
everything unacknowledged again, until the retries are used up. -/
def Obligations.QueuePairs : Prop :=
  (∀ (w : Writer) (s : State) (n : Nat), s.netWrites w = true → s.qpSelected = n →
    (∀ setup, s.qpAt n = none → s.boundElsewhere n .rdmaQp = false →
      ∃ t, exec (.init w (some setup)) s = .next t ∧ t.qpAt n = some (newQp setup) ∧ Table.find t.qct n = some .rdmaQp ∧
        (∀ k, k ≠ n → t.qpAt k = s.qpAt k) ∧ t.dram = s.dram ∧ t.cores = s.cores) ∧
    (s.qpAt n = none → exec (.init w none) s = .next (s.setFlag Reg.RDM_QP_STATE_CMD_REJECT true)) ∧
    (∀ q, s.qpAt n = some q →
      (exec (.init w none) s = .next (if q.state = qpRESET then s.setQp n { q with state := qpINIT }
        else s.setFlag Reg.RDM_QP_STATE_CMD_REJECT true)) ∧
      (exec (.rtr w) s = .next (if q.state = qpINIT then s.setQp n { q with state := qpRTR }
        else s.setFlag Reg.RDM_QP_STATE_CMD_REJECT true)) ∧
      (exec (.rts w) s = .next (if q.state = qpRTR then s.setQp n { q with state := qpRTS }
        else s.setFlag Reg.RDM_QP_STATE_CMD_REJECT true)) ∧
      (q.state = qpINIT ∨ q.state = qpRTR ∨ q.state = qpRTS →
        ∃ t q', exec (.err w) s = .next t ∧ t.qpAt n = some q' ∧ q'.state = qpERR ∧ q'.flight = [] ∧ q'.todo = [] ∧ q'.timer = none ∧
          (∀ k e, t.queueAt k = e → ∀ p ∈ e.packets, p.qcn ≠ n) ∧ t.rings = s.rings ∧ t.cores = s.cores) ∧
      (q.state = qpRESET ∨ q.state = qpERR → exec (.err w) s = .next (s.setFlag Reg.RDM_QP_STATE_CMD_REJECT true)) ∧
      (q.state = qpERR → s.flushDone n = true →
        exec (.reset w false) s = .next (s.setQp n { q with state := qpRESET, nakSent := false, lastCnp := none }) ∧
        ∃ t, exec (.reset w true) s = .next t ∧ t.qpAt n = none ∧ Table.find t.qct n = none ∧ t.dram = s.dram))) ∧
  (∀ (qcn : BitVec 16) (s : State) (q : Qp) (a : Word64), s.qpAt qcn.toNat = some q → q.timer = some a → a ≤ s.gtc → q.flight ≠ [] →
    q.state = qpRTS → s.netRuns = true →
    (q.retries < s.retryLimit q → ∃ t q', exec (.retryTimeout qcn) s = .next t ∧ t.qpAt qcn.toNat = some q' ∧
      q'.retries = q.retries + 1 ∧ q'.flight = q.flight ∧ q'.state = qpRTS ∧ q'.timer = some (s.qpTimer { q with retries := q.retries + 1 }) ∧
      t.dram = s.dram ∧ t.rings = s.rings ∧ t.cores = s.cores) ∧
    (s.retryLimit q ≤ q.retries → ∃ t q', exec (.retryTimeout qcn) s = .next t ∧ t.qpAt qcn.toNat = some q' ∧ q'.state = qpERR ∧
      q'.flight = [] ∧ q'.todo = [] ∧ t.rings = s.rings ∧ t.cores = s.cores))

/-- R364, R375 to R379, R382 to R384, R387: a DELIVER sends one OFFER on its control QP and holds its part; it is refused with its
code without a part or a QP, and while fenced. A GRANT with room sets the writes going; one without ends it with TOO_SMALL,
a DECLINE with DECLINED, and the deadline with NO_GRANT. When every packet is acknowledged RELEASE goes out, and its
acknowledgement ends the DELIVER with OK and frees the part. -/
def Obligations.Deliveries : Prop :=
  (∀ (c : CoreId) (tk : Ticket) (s : State) (x : Taken), s.running c tk 10 0x01 = some x → s.engineRuns 10 = true → s.deliveryOf c tk = none →
    (s.flag Reg.GTC_FENCE_FENCED = true → ∃ t, exec (.deliver c tk) s = .next t ∧ EndedWith t c tk stFENCED 0 ∧ t.net = s.net) ∧
    (s.flag Reg.GTC_FENCE_FENCED = false → s.qpUsable x (x.fieldAt 0x1A 2) false = false →
      ∃ t, exec (.deliver c tk) s = .next t ∧ EndedWith t c tk stBAD_QP 0 ∧ t.net = s.net) ∧
    (s.flag Reg.GTC_FENCE_FENCED = false → s.qpUsable x (x.fieldAt 0x1A 2) false = true → s.qpUsable x (x.fieldAt 0x1C 2) true = true →
      ∀ p, s.partNamed ((s.recipeOfRing 10 x.ring).map (·.1)) (x.fieldAt 0x10 8) (x.fieldAt 0x18 1) = some p →
        ∃ t d q m, exec (.deliver c tk) s = .next t ∧ t.net.deliveries = s.net.deliveries ++ [d] ∧ d.core = c.val ∧ d.ticket = tk.toNat ∧
          d.granted = false ∧ d.entry = { p with out := true } ∧ d.deadline = x.fieldAt 0x20 8 ∧ { p with out := true } ∈ t.store.parts ∧
          t.qpAt (x.fieldAt 0x1C 2) = some q ∧ m ∈ q.todo ++ q.flight ∧
          m.body = .send true true (d.msg 1 (in64 (partNeed p)) p.manifest.length 0).bytes ∧ m.role = .offer ∧
          t.dram = s.dram ∧ t.rings = s.rings ∧ t.cores = s.cores)) ∧
  (∀ (qcn : BitVec 16) (msg : List Byte) (s : State) (q : Qp) (m : GrantMsg) (d : Delivery) (c : CoreId) (tk : Ticket) (x : Taken),
    s.qpAt qcn.toNat = some q → s.netRuns = true → (s.subport (subNo q.sub)).up = true → q.state = qpRTR ∨ q.state = qpRTS →
    leAt msg 0 4 = grantMagic → grantOf msg = m → s.waitingFor m = some d → d.core = c.val → d.ticket = tk.toNat →
    s.takenAt c tk = some x → x.result = none → x.core = c → x.ticket = tk →
    (m.typ = 2 → ¬ (m.length < in64 (partNeed d.entry) ∨ m.manLen < d.entry.manifest.length) →
      ∃ t, exec (.grant qcn msg) s = .next t ∧ { d with slot := m.slot, generation := m.generation, granted := true } ∈ t.net.deliveries ∧
        t.takenAt c tk = some x ∧ t.dram = s.dram ∧ t.rings = s.rings ∧ t.cores = s.cores) ∧
    (m.typ = 2 → (m.length < in64 (partNeed d.entry) ∨ m.manLen < d.entry.manifest.length) →
      ∃ t, exec (.grant qcn msg) s = .next t ∧ EndedWith t c tk stTOO_SMALL 0 ∧ t.rings = s.rings ∧ t.cores = s.cores) ∧
    (m.typ = 3 → ∃ t, exec (.decline qcn msg) s = .next t ∧ EndedWith t c tk stDECLINED 0 ∧ t.deliveryOf c tk = none ∧
      t.rings = s.rings ∧ t.cores = s.cores)) ∧
  (∀ (c : CoreId) (tk : Ticket) (s : State) (d : Delivery) (x : Taken), s.deliveryOf c tk = some d → s.netRuns = true →
    s.takenAt c tk = some x → x.result = none → x.core = c → x.ticket = tk →
    (∀ q, s.qpAt d.dataQ = some q → d.granted = true → d.sealLeft = true → d.releaseSent = false →
      (∀ p ∈ q.flight ++ q.todo, p.owner ≠ some (d.core, d.ticket)) →
      ∃ t q' p, exec (.sealAcknowledged c tk) s = .next t ∧ { d with releaseSent := true } ∈ t.net.deliveries ∧ t.qpAt d.dataQ = some q' ∧
        p ∈ q'.todo ++ q'.flight ∧ p.role = .release ∧ t.dram = s.dram ∧ t.rings = s.rings ∧ t.cores = s.cores) ∧
    (d.releaseAcked = true → ∃ t, exec (.release c tk) s = .next t ∧ EndedWith t c tk stOK 0 ∧ t.deliveryOf c tk = none ∧
      t.store.parts = s.store.parts.erase d.entry ∧ t.rings = s.rings ∧ t.cores = s.cores) ∧
    (d.granted = false → d.deadline ≠ 0 → d.deadline ≤ s.gtc.toNat →
      ∃ t, exec (.noGrant c tk) s = .next t ∧ EndedWith t c tk stNO_GRANT 0 ∧ t.deliveryOf c tk = none ∧ t.rings = s.rings ∧ t.cores = s.cores))

/-- R371, R373, R374, R380: REGISTER of a free region whose generation is not held sets the region and writes its key; one whose
generation was in use within the second waits for it. REVOKE moves the generation on at once, and ends when no accepted
message of the region is left, at the latest at REVOKE_TMO, when the QPs that hold one enter ERR. RECON_READ posts the READs
of its share. -/
def Obligations.Regions : Prop :=
  ∀ (c : CoreId) (tk : Ticket) (s : State) (x : Taken) (r : Nat) (e : RegionEntry), s.engineRuns 10 = true → x.core = c → x.ticket = tk →
    x.fieldAt 0x10 4 % 2 ^ 20 = r → s.regionEntry r = e →
    (s.running c tk 10 0x03 = some x → e.revoking = none → e.registered = false → s.registerBad x = false →
      (s.generationRecent e = true → exec (.register c tk) s = .next s ∧ exec (.generationHoldEnd c tk) s = .next s) ∧
      (s.generationRecent e = false → ∀ i ∈ [Instr.register c tk, Instr.generationHoldEnd c tk],
        ∃ t e', exec i s = .next t ∧ EndedWith t c tk stOK 0 ∧ t.regionEntry r = e' ∧ e'.registered = true ∧
          e'.base = x.fieldAt 0x18 8 ∧ e'.length = x.fieldAt 0x20 8 ∧ e'.generation = e.generation ∧
          t.dram = Mem.store s.dram (x.fieldAt 0x28 8) (leBytes 4 (rkeyOf r e.generation)) ∧
          (∀ k, k ≠ r → t.regionEntry k = s.regionEntry k) ∧ t.rings = s.rings ∧ t.cores = s.cores)) ∧
    (s.running c tk 10 0x03 = some x → e.revoking = none → s.registerBad x = true →
      ∃ t, exec (.register c tk) s = .next t ∧ EndedWith t c tk stBAD_REGION 0 ∧ t.net = s.net ∧ t.dram = s.dram) ∧
    (s.running c tk 10 0x04 = some x → (∀ k, (s.regionEntry k).revoking = none) → e.registered = true →
      ∃ t e', exec (.revoke c tk) s = .next t ∧ t.regionEntry r = e' ∧ e'.registered = false ∧
        e'.generation = (e.generation + 1) % 4096 ∧ t.dram = s.dram ∧ t.rings = s.rings ∧ t.cores = s.cores ∧
        ((∀ q ∈ s.net.qps, q.2.holds r = false) → EndedWith t c tk stOK 0 ∧ e'.revoking = none) ∧
        ((∃ q ∈ s.net.qps, q.2.holds r = true) → t.takenAt c tk = some x ∧ e'.revoking = some (c.val, tk.toNat, s.gtc))) ∧
    (s.running c tk 10 0x04 = some x → e.revoking = none → e.registered = false → (∀ k, (s.regionEntry k).revoking = none) →
      ∃ t, exec (.revoke c tk) s = .next t ∧ EndedWith t c tk stBAD_REGION 0 ∧ t.net = s.net ∧ t.dram = s.dram) ∧
    (∀ rp, s.running c tk 10 0x04 = some x → s.netRuns = true → e.revoking = some (c.val, tk.toNat, rp) →
      (∀ k, k ≠ r → (s.regionEntry k).revoking = none) → Table.canonical RegionEntry.fresh s.net.regions = true →
      zeroActsAsOne (s.fld Reg.RDM_REVOKE_CFG_REVOKE_TMO) * 1000000 ≤ (s.gtc - rp).toNat →
      (∀ q ∈ s.net.qps, ∀ p ∈ q.2.flight ++ q.2.todo, p.owner ≠ some (c.val, tk.toNat)) → s.net.deliveries = [] →
      ∃ t, exec (.revokeTimeout c tk) s = .next t ∧ Ended t c tk stOK ∧ (t.regionEntry r).revoking = none ∧ t.dram = s.dram ∧
        (∀ n q, s.qpAt n = some q → q.holds r = true → q.state = qpRTR ∨ q.state = qpRTS →
          ∃ q', t.qpAt n = some q' ∧ q'.state = qpERR)) ∧
    (∀ q, s.running c tk 10 0x02 = some x → s.qpAt (x.fieldAt 0x10 2) = some q → s.qpUsable x (x.fieldAt 0x10 2) false = true →
      64 ≤ x.fieldAt 0x28 4 → x.fieldAt 0x28 4 ≤ 16777216 → x.fieldAt 0x28 4 % 64 = 0 →
      (∀ p ∈ q.flight ++ q.todo, p.owner ≠ some (c.val, tk.toNat)) →
      ∃ t q', exec (.reconRead c tk) s = .next t ∧ t.qpAt (x.fieldAt 0x10 2) = some q' ∧ t.takenAt c tk = some x ∧ t.dram = s.dram ∧
        ((q'.flight ++ q'.todo).filter (fun p => p.role == .share && p.owner == some (c.val, tk.toNat))).length =
          ceilDiv (x.fieldAt 0x28 4) 1048576)

/-- R359, R367 to R372, R386, R400: a packet that arrives in order for a QP of the machine is executed: a WRITE of a region whose
key passes stores its bytes, and its PSN passes. One that fails the key check stores nothing and puts the QP into ERR. An
acknowledgement takes what it covers out of flight; a packet out of order is answered once; a packet for no QP is counted. -/
def Obligations.PacketsArrive : Prop :=
  ∀ (p : NetPacket) (s : State) (qcn : Nat), s.netRuns = true → (s.subport p.sub).up = true → p.qpn.toNat = 0x800000 + qcn → qcn < 65536 →
    p.ce = false →
    (s.qpAt qcn = none → ∃ t, exec (.packetReceive p 0 0) s = .next t ∧ t.dram = s.dram ∧ t.net.qps = s.net.qps ∧
      t.fld Reg.RDM_ERR_CNT1_BAD_QPN = Min.min 0xFFFF (s.fld Reg.RDM_ERR_CNT1_BAD_QPN + 1)) ∧
    (∀ q, s.qpAt qcn = some q → q.sub = p.sub.toNat → q.state = qpRTR ∨ q.state = qpRTS → (∀ e ∈ s.net.regions, e.2.revoking = none) →
      (p.psn.toNat = q.epsn → ∀ addr key len imm data, p.body = .write true true addr key len imm data → q.incoming = none → 1 ≤ len →
        len ≤ 2 ^ 30 → data.length ≤ q.mtu →
        (s.keyCheck key addr len 0 = .pass → ∃ t q', exec (.packetReceive p 0 0) s = .next t ∧ t.dram = Mem.store s.dram addr data ∧
          t.qpAt qcn = some q' ∧ q'.epsn = (q.epsn + 1) % 2 ^ 24 ∧ q'.state = q.state ∧ t.rings = s.rings ∧ t.cores = s.cores) ∧
        (s.keyCheck key addr len 0 ≠ .pass → ∃ t q', exec (.packetReceive p 0 0) s = .next t ∧
          t.qpAt qcn = some q' ∧ q'.state = qpERR ∧ q'.epsn = q.epsn ∧ (s.net.deliveries = [] → t.dram = s.dram) ∧ t.cores = s.cores ∧
          t.fld Reg.RDM_ERR_CNT_KEY_FAIL = Min.min 0xFFFF (s.fld Reg.RDM_ERR_CNT_KEY_FAIL + 1))) ∧
      (p.body = .ack → ∃ t q', exec (.packetReceive p 0 0) s = .next t ∧ t.qpAt qcn = some q' ∧ q'.state = q.state ∧ q'.epsn = q.epsn ∧
        t.dram = s.dram ∧ t.rings = s.rings ∧ t.cores = s.cores) ∧
      (0 < psnAfter p.psn.toNat q.epsn → psnAfter p.psn.toNat q.epsn < 2 ^ 23 → ∀ first last data, p.body = .send first last data →
        ∃ t q', exec (.packetReceive p 0 0) s = .next t ∧ t.qpAt qcn = some q' ∧ q'.nakSent = true ∧ q'.epsn = q.epsn ∧
          t.dram = s.dram ∧ t.net.inbox = s.net.inbox ∧ t.cores = s.cores))

/-- R408 to R411, R417, R421: PCIe link training sets the link's registers and the host's functions; PERST_N takes the link, the
functions, the controllers and the command rings away. CC.EN binds a controller and its admin queue pair, clearing it drops
them; a doorbell moves a tail or a head, and one that names no queue or a value past it is an event.
R411, R414, R415: a command is taken from the head of the queue that arbitration chooses, the admin queue before any other; its
completion is one entry of DW0, queue head, queue, CID, phase and status in the submission queue's completion queue, and an
interrupt where the queue asks for one. -/
def Obligations.HostLinkAndQueues : Prop :=
  ((∀ (speed : BitVec 3) (width : BitVec 5) (flit : Bool) (vfs : BitVec 6) (payload : BitVec 2) (s : State), s.polderOn polPH = true →
     s.linkUp = false → 1 ≤ speed.toNat → speed.toNat ≤ 6 → width.toNat ∈ [1, 4, 8, 16] →
     ∃ t, exec (.pcieLinkTrained speed width flit vfs payload) s = .next t ∧ t.linkUp = true ∧ t.host.vfs = vfs.toNat ∧
       t.fld Reg.HST_LINK_SPEED = speed.toNat ∧ t.fld Reg.HST_LINK_WIDTH = width.toNat ∧
       t.host.maxPayload = 128 * 2 ^ Min.min 2 payload.toNat ∧ t.dram = s.dram ∧ t.cores = s.cores) ∧
   (∀ (s : State), s.polderOn polPH = true → ∃ t, exec .perst s = .next t ∧ t.linkUp = false ∧ t.host.vfs = 0 ∧ t.host.cmdRings = [] ∧
     (s.host.dma = [] → s.host.deliveries = [] → t.host.controllers = [] ∧ t.host.sqs.length ≤ s.host.sqs.length ∧ t.dram = s.dram) ∧
     t.rings = s.rings ∧ t.cores = s.cores) ∧
   (∀ (fn : BitVec 6) (asq acq : Nat) (sz cz : BitVec 12) (mps : BitVec 4) (wrr : Bool) (s s1 s2 : State) (a b : Nat), s.linkUp = true →
     s.functionExists fn.toNat = true → s.controller fn.toNat = none → mps.toNat ≤ 4 → s.bindNvme fn.toNat 0 = some (a, s1) →
     s1.bindNvme fn.toNat 0 = some (b, s2) →
     ∃ t, exec (.controllerEnable fn asq acq sz cz mps wrr) s = .next t ∧
       t.controller fn.toNat = some (newController s2 fn.toNat (12 + mps.toNat) wrr) ∧
       t.host.sqs = s.host.sqs ++ [⟨fn.toNat, 0, a, asq, sz.toNat + 1, 0, 0, 0, 0⟩] ∧
       t.host.cqs = s.host.cqs ++ [⟨fn.toNat, 0, b, acq, cz.toNat + 1, 0, 0, true, 0, true, []⟩] ∧ t.dram = s.dram ∧ t.cores = s.cores) ∧
   (∀ (fn : BitVec 6) (s : State), s.linkUp = true →
     (∃ t, exec (.controllerReset (some fn)) s = .next t ∧ t.controller fn.toNat = none ∧ (∀ q ∈ t.host.sqs, q.fn ≠ fn.toNat) ∧
       (∀ q ∈ t.host.cqs, q.fn ≠ fn.toNat) ∧ (∀ f, f ≠ fn.toNat → t.controller f = s.controller f) ∧ t.dram = s.dram ∧ t.host.mem = s.host.mem) ∧
     (∃ t, exec (.controllerReset none) s = .next t ∧ t.host.controllers = [] ∧ t.dram = s.dram ∧ t.host.mem = s.host.mem)) ∧
   (∀ (fn : BitVec 6) (qid : BitVec 16) (value : Word32) (stores : List (Nat × List Byte)) (s u : State), s.linkUp = true → s.doorbellsOff = false →
     s.hostStores stores = u →
     (∀ q c v, u.sq fn.toNat qid.toNat = some q → value.toNat < q.entries → u.controller fn.toNat = some c →
       (u.setSq { q with tail := value.toNat }).setController { c with idleSince := s.gtc } = v →
       (∀ c' q' arb, v.controller fn.toNat = some c' → v.pickSq c' = some (q', arb) →
         leAt (v.sqEntry q') 0 1 ∈ (if q'.qid = 0 then v.adminOpcodes fn.toNat else ioOpcodes)) →
       exec (.nvmeDoorbell fn qid false value stores) s = .next v) ∧
     (∀ q, u.cq fn.toNat qid.toNat = some q → value.toNat < q.entries → q.held = [] →
       exec (.nvmeDoorbell fn qid true value stores) s = .next (u.setCq { q with head := value.toNat })) ∧
     (u.sq fn.toNat qid.toNat = none → exec (.nvmeDoorbell fn qid false value stores) s = .next (u.raiseEvent fn.toNat ⟨0, 0, 1⟩)) ∧
     (u.cq fn.toNat qid.toNat = none → exec (.nvmeDoorbell fn qid true value stores) s = .next (u.raiseEvent fn.toNat ⟨0, 0, 1⟩)))) ∧
  ((∀ (s s' : State) (fn opcode qid : Nat) (admin : Bool) (e : List Byte), s.takeNvme fn admin opcode = some (qid, e, s') →
     ∃ c q arb, s.controller fn = some c ∧ s.pickSq c = some (q, arb) ∧ q.qid = qid ∧ e = s.sqEntry q ∧ leAt e 0 1 = opcode ∧
       (admin = true ↔ qid = 0) ∧ s.linkUp = true ∧ q ∈ s.host.sqs ∧ q.fn = c.fn ∧ q.head ≠ q.tail) ∧
   (∀ (s : State) (c : Controller) (q : NvmeSq) (arb : ArbState), s.pickSq c = some (q, arb) →
     (∃ a ∈ s.host.sqs, a.fn = c.fn ∧ a.waits = true ∧ a.qid = 0) → q.qid = 0) ∧
   (∀ (s : State) (fn sqid cid dw0 status : Nat) (c : Controller) (sq : NvmeSq) (q : NvmeCq), s.hostPosts = true → s.controller fn = some c →
     s.sq fn sqid = some sq → s.cq fn sq.cqid = some q → (q.tail + 1) % q.entries ≠ q.head → q.held = [] →
     ∃ t q', s.nvmeComplete fn sqid cid dw0 status = t ∧ t.cq fn sq.cqid = some q' ∧ q'.tail = (q.tail + 1) % q.entries ∧
       q'.phase = (if q'.tail = 0 then !q.phase else q.phase) ∧
       t.hostBytes (q.base + 16 * q.tail) 16 = leBytes 4 dw0 ++ zeros 4 ++ leBytes 2 sq.head ++ leBytes 2 sqid ++ leBytes 2 cid ++
         leBytes 2 (q.phase.toNat + 2 * status) ∧
       (∀ a, a < q.base + 16 * q.tail ∨ q.base + 16 * q.tail + 16 ≤ a → Mem.get t.host.mem a = Mem.get s.host.mem a) ∧
       (q.irq = true → t.msix.getLast? = some (q.fn, q.vector)) ∧ t.dram = s.dram ∧ t.rings = s.rings ∧ t.cores = s.cores))

/-- R411, R413, R416, R419: what each admin command that is taken does: the queues it makes and deletes, the pages it returns, the
features it sets and returns, the events it waits for. ABORT aborts nothing. An idle controller moves to the state its APST
table names.
R412 to R414: an I/O command that is taken in its turn, within an attached namespace: a READ returns its blocks, a WRITE and
WRITE ZEROES put their units on their way, FLUSH is a SYNC of the space, and DATASET MANAGEMENT without AD does nothing. Each
of them fails its checks with their status. -/
def Obligations.NvmeCommands : Prop :=
  (∀ (fn : BitVec 6) (s s' : State) (e : List Byte) (f cid qid : Nat), fn.toNat = f → cmdCid e = cid → cmdBadPsdt e = false →
     cmdDw e 10 % 65536 = qid →
     (s.takeNvme f true 0x05 = some (0, e, s') → cmdDw e 11 % 2 = 1 → 1 ≤ qid → qid ≤ 128 → s'.cq f qid = none →
       (s'.host.cqs.filter (fun q => q.fn == f && q.qid != 0)).length < 128 → 1 ≤ cmdDw e 10 / 65536 → cmdDw e 10 / 65536 ≤ 4095 →
       ∀ n u, s'.bindNvme f qid = some (n, u) → ∃ q : NvmeCq, q.fn = f ∧ q.qid = qid ∧ q.qcn = n ∧ q.base = cmdPrp1 e ∧
         q.entries = cmdDw e 10 / 65536 + 1 ∧ q.head = 0 ∧ q.tail = 0 ∧ q.phase = true ∧ q.vector = cmdDw e 11 / 65536 ∧
         exec (.createIoCq fn) s = .next (State.nvmeComplete { u with host := { u.host with cqs := u.host.cqs ++ [q] } } f 0 cid 0 nvmeOk)) ∧
     (s.takeNvme f true 0x01 = some (0, e, s') → cmdDw e 11 % 2 = 1 → 1 ≤ qid → qid ≤ 128 → s'.sq f qid = none →
       (s'.host.sqs.filter (fun q => q.fn == f && q.qid != 0)).length < 128 → 1 ≤ cmdDw e 10 / 65536 → cmdDw e 10 / 65536 ≤ 4095 →
       cmdDw e 11 / 65536 ≠ 0 → (s'.cq f (cmdDw e 11 / 65536)).isSome →
       ∀ n u, s'.bindNvme f qid = some (n, u) → ∃ q : NvmeSq, q.fn = f ∧ q.qid = qid ∧ q.qcn = n ∧ q.base = cmdPrp1 e ∧
         q.entries = cmdDw e 10 / 65536 + 1 ∧ q.head = 0 ∧ q.tail = 0 ∧ q.cqid = cmdDw e 11 / 65536 ∧
         exec (.createIoSq fn) s = .next (State.nvmeComplete { u with host := { u.host with sqs := u.host.sqs ++ [q] } } f 0 cid 0 nvmeOk)) ∧
     (∀ q, s.takeNvme f true 0x00 = some (0, e, s') → qid ≠ 0 → s'.sq f qid = some q → ∃ t u : State, exec (.deleteIoSq fn) s = .next t ∧
       t = u.nvmeComplete f 0 cid 0 nvmeOk ∧ u.sq f qid = none ∧ Table.find u.qct q.qcn = none ∧ u.host.cqs = s'.host.cqs) ∧
     (∀ q, s.takeNvme f true 0x04 = some (0, e, s') → qid ≠ 0 → s'.cq f qid = some q → (∀ r ∈ s'.host.sqs, ¬ (r.fn = f ∧ r.cqid = qid)) →
       ∃ t u : State, exec (.deleteIoCq fn) s = .next t ∧ t = u.nvmeComplete f 0 cid 0 nvmeOk ∧ u.cq f qid = none ∧
         Table.find u.qct q.qcn = none ∧ u.host.sqs = s'.host.sqs) ∧
     (s.takeNvme f true 0x06 = some (0, e, s') → cmdDw e 10 % 256 = 2 →
       exec (.identify fn) s = .next ((s'.prpWrite f e (fitBytes 4096 ((((s'.activeNs f).filter (fun n => decide (cmdNsid e < n))).take 1024).flatMap
         (leBytes 4)))).nvmeComplete f 0 cid 0 nvmeOk)) ∧
     (∀ x, s.takeNvme f true 0x06 = some (0, e, s') → cmdDw e 10 % 256 = 0 → s'.attached f (cmdNsid e) = some x →
       ∃ (page : List Byte) (u : State), exec (.identify fn) s = .next ((u.prpWrite f e page).nvmeComplete f 0 cid 0 nvmeOk) ∧ page.length = 4096 ∧
         leAt page 0 8 = x.units % 2 ^ 64 ∧ leAt page 8 8 = x.units % 2 ^ 64 ∧ leAt page 130 1 = 12 ∧ { u with free := s'.free } = s') ∧
     (s.takeNvme f true 0x02 = some (0, e, s') → cmdDw e 10 % 256 = 1 →
       exec (.getLogPage fn) s = .next ((s'.prpWrite f e (fitBytes (4 * (cmdDw e 10 / 65536 + cmdDw e 11 % 65536 * 65536 + 1))
         ((fitBytes 4096 ((((s'.controller f).map (·.errors)).getD []).flatMap errorEntry)).drop (cmdDw e 12 + cmdDw e 13 * 2 ^ 32)))).nvmeComplete
           f 0 cid 0 nvmeOk)) ∧
     (s.takeNvme f true 0x08 = some (0, e, s') → exec (.abort fn) s = .next (s'.nvmeComplete f 0 cid 1 nvmeOk)) ∧
     (∀ c, s.takeNvme f true 0x09 = some (0, e, s') → s'.controller f = some c → cmdDw e 10 < 2 ^ 31 →
       cmdDw e 10 % 256 ∈ [0x01, 0x04, 0x08, 0x09, 0x0B] →
       exec (.setFeatures fn) s = .next ((s'.setController { c with
         features := Table.put c.features (cmdDw e 10 % 256) (BitVec.ofNat 32 (cmdDw e 11)) }).nvmeComplete f 0 cid 0 nvmeOk)) ∧
     (∀ c, s.takeNvme f true 0x0A = some (0, e, s') → s'.controller f = some c →
       (cmdDw e 10 % 256 ∈ [0x01, 0x04, 0x08, 0x09, 0x0B] →
         exec (.getFeatures fn) s = .next (s'.nvmeComplete f 0 cid (c.feature (cmdDw e 10 % 256)).toNat nvmeOk)) ∧
       (cmdDw e 10 % 256 = 0x02 → exec (.getFeatures fn) s = .next (s'.nvmeComplete f 0 cid c.ps nvmeOk))) ∧
     (∀ c, s.takeNvme f true 0x0C = some (0, e, s') → s'.controller f = some c →
       (c.events = [] → c.aers.length < 4 → exec (.asynchronousEventRequest fn) s = .next (s'.setController { c with aers := c.aers ++ [cid] })) ∧
       (∀ x rest, c.events = x :: rest → exec (.asynchronousEventRequest fn) s =
         .next ((s'.setController { c with events := rest }).nvmeComplete f 0 cid (x.kind + x.info * 2 ^ 8 + x.page * 2 ^ 16) nvmeOk))) ∧
     (∀ c entry, s.controller f = some c → c.apst.getD c.ps 0 = entry → bitAt (c.feature 0x0C) 0 = true →
       (∀ q ∈ s.host.sqs, q.fn = c.fn → q.head = q.tail) → natAt entry 8 24 ≠ 0 → c.ps < natAt entry 3 5 → natAt entry 3 5 ≤ 4 →
       natAt entry 8 24 * 1000000 ≤ (s.gtc - c.idleSince).toNat →
       exec (.apst fn) s = .next (s.setController { c with ps := natAt entry 3 5 }))) ∧
  (∀ (fn : BitVec 6) (s s' : State) (e : List Byte) (f q cid n : Nat), fn.toNat = f → cmdCid e = cid → cmdBadPsdt e = false →
     cmdBlocks e = n → s.recovering = false → s.fnTurn = some f →
     (s.takeNvme f false 0x02 = some (q, e, s') → n ≤ 256 →
       (∀ st, s'.ioCheck f e (cmdSlba e) n false = some st → exec (.nvmeRead fn) s = .next (s'.nvmeComplete f q cid 0 st)) ∧
       (s'.ioCheck f e (cmdSlba e) n false = none → ∀ us, (s'.readRun (cmdNsid e) (cmdSlba e) n).1 = us → (∀ u ∈ us, u.isSome) →
         ∃ t u : State, exec (.nvmeRead fn) s = .next t ∧ t = u.nvmeComplete f q cid 0 nvmeOk ∧
           u.host.mem = (s'.prpWrite f e (us.flatMap (fun b => b.getD []))).host.mem ∧ u.dram = s'.dram ∧ u.cores = s'.cores)) ∧
     (s.takeNvme f false 0x01 = some (q, e, s') → n ≤ 256 →
       (∀ st, s'.ioCheck f e (cmdSlba e) n true = some st → exec (.nvmeWrite fn) s = .next (s'.nvmeComplete f q cid 0 st)) ∧
       (s'.ioCheck f e (cmdSlba e) n true = none → ∃ t, exec (.nvmeWrite fn) s = .next t ∧
         t.ftl.writers = s'.ftl.writers ++ [⟨s'.ftl.nextWriter, .nvme f q cid, n, false⟩] ∧ t.dram = s'.dram ∧ t.host.mem = s'.host.mem ∧
         (∀ i, i < n → ∃ u ∈ t.ftl.entry ++ t.ftl.user.queue ++ t.ftl.user.units, u.space = cmdNsid e ∧ u.lua = cmdSlba e + i ∧
           u.writer = some s'.ftl.nextWriter ∧ u.data = sliceOf (i * 4096) 4096 (s'.prpRead f e (n * 4096))))) ∧
     (s.takeNvme f false 0x08 = some (q, e, s') →
       (∀ st, s'.ioCheck f e (cmdSlba e) n true = some st → exec (.writeZeroes fn) s = .next (s'.nvmeComplete f q cid 0 st)) ∧
       (s'.ioCheck f e (cmdSlba e) n true = none → ∃ t, exec (.writeZeroes fn) s = .next t ∧
         t.ftl.writers = s'.ftl.writers ++ [⟨s'.ftl.nextWriter, .nvme f q cid, n, false⟩] ∧
         (∀ i, i < n → ∃ u ∈ t.ftl.entry ++ t.ftl.user.queue ++ t.ftl.user.units, u.space = cmdNsid e ∧ u.lua = cmdSlba e + i ∧
           u.writer = some s'.ftl.nextWriter ∧ u.data = zeros 4096))) ∧
     (s.takeNvme f false 0x00 = some (q, e, s') → s'.mounted = true →
       (cmdNsid e = 0xFFFFFFFF → exec (.nvmeFlush fn) s = .next (s'.beginSync (.nvme f q cid) 0)) ∧
       (cmdNsid e ≠ 0xFFFFFFFF → (s'.attached f (cmdNsid e)).isSome →
         exec (.nvmeFlush fn) s = .next (s'.beginSync (.nvme f q cid) (cmdNsid e))) ∧
       (cmdNsid e ≠ 0xFFFFFFFF → s'.attached f (cmdNsid e) = none →
         exec (.nvmeFlush fn) s = .next (s'.nvmeComplete f q cid 0 nvmeBadNamespace))) ∧
     (∀ runs, s.takeNvme f false 0x09 = some (q, e, s') →
       (∀ st, s'.ioCheck f e 0 0 true = some st → exec (.datasetManagement fn runs) s = .next (s'.nvmeComplete f q cid 0 st)) ∧
       (s'.ioCheck f e 0 0 true = none → cmdDw e 11 / 4 % 2 = 0 →
         exec (.datasetManagement fn runs) s = .next (s'.nvmeComplete f q cid 0 nvmeOk))))

/-- R382, R420, R423 to R426: a command ring is created with the lowest free QCN, and a deleted one completes its grants with
WITHDRAWN. A HOST_DELIVER takes its part, then the oldest grant of its subscriber and writes the pieces where the grant says,
and then the manifest; it ends with OK and its grant completes. Fenced, it is refused. -/
def Obligations.HostDelivery : Prop :=
  (∀ (s s' : State) (e : List Byte) (i n : Nat), s.takeNvme 0 true 0xC1 = some (0, e, s') → cmdBadPsdt e = false →
    (List.range 16).find? (fun k => (s'.cmdRing k).isNone) = some i → s'.freeQcn = some n → 16 ≤ cmdDw e 10 % 4096 + 1 →
    cmdPrp1 e % 4096 = 0 → cmdPrp2 e % 4096 = 0 →
    ∃ t u r, exec .createCommandRing s = .next t ∧ t = State.nvmeComplete u 0 0 (cmdCid e) n nvmeOk ∧ u.cmdRing i = some r ∧ r.qcn = n ∧
      r.sqBase = cmdPrp1 e ∧ r.cqBase = cmdPrp2 e ∧ r.entries = cmdDw e 10 % 4096 + 1 ∧ r.sqHead = 0 ∧ r.cqTail = 0 ∧
      Table.find u.qct n = some (.commandRing i) ∧ u.dram = s'.dram) ∧
  (∀ (s s' : State) (e : List Byte) (i : Nat) (r : CmdRing), s.takeNvme 0 true 0xC2 = some (0, e, s') → cmdBadPsdt e = false →
    s'.cmdRingOf (cmdDw e 10) = some i → s'.cmdRing i = some r → s'.host.grants = [] →
    (r.outstanding ≠ [] → exec .deleteCommandRing s = .next (s'.setCmdRing i { r with deleting := some (cmdCid e) })) ∧
    (r.outstanding = [] → ∃ t u : State, exec .deleteCommandRing s = .next t ∧ t = u.nvmeComplete 0 0 (cmdCid e) 0 nvmeOk ∧
      u.cmdRing i = none ∧ Table.find u.qct r.qcn = none ∧ u.dram = s'.dram)) ∧
  (∀ (c : CoreId) (tk : Ticket) (s : State) (x : Taken), s.running c tk 11 0x02 = some x → s.engineRuns 11 = true → x.core = c → x.ticket = tk →
    (s.hostDelivery c tk = none → s.flag Reg.GTC_FENCE_FENCED = true →
      ∃ t, exec (.hostDeliver c tk false) s = .next t ∧ EndedWith t c tk stFENCED 0 ∧ t.store = s.store ∧ t.rings = s.rings ∧ t.cores = s.cores) ∧
    (s.hostDelivery c tk = none → s.flag Reg.GTC_FENCE_FENCED = false →
      ∀ p, s.partNamed ((s.recipeOfRing 11 x.ring).map (·.1)) (x.fieldAt 0x10 8) (x.fieldAt 0x18 1) = some p →
        ∃ t, exec (.hostDeliver c tk false) s = .next t ∧ t.hostDelivery c tk = some ⟨c.val, tk.toNat, { p with out := true }, none, 0⟩ ∧
          { p with out := true } ∈ t.store.parts ∧ t.host.mem = s.host.mem ∧ t.dram = s.dram) ∧
    (∀ d g rest, s.hostDelivery c tk = some d → d.grant = none → s.grantsOf (x.fieldAt 0x1A 2 % 4096) = g :: rest → s.linkUp = true →
      ¬ (g.length < in64 (partNeed d.entry) ∨ g.manLen < d.entry.manifest.length) →
      ∃ t d', exec (.hostDeliver c tk false) s = .next t ∧ t.hostDelivery c tk = some d' ∧ d'.grant = some g ∧ d'.entry = d.entry ∧
        d'.bytes = partPayload d.entry ∧ t.grantsOf (x.fieldAt 0x1A 2 % 4096) = rest ∧ t.dram = s.dram ∧
        t.host.mem = d.entry.pieces.foldl (fun m p => Mem.store m (g.addr + p.1 * pieceStride d.entry) p.2) s.host.mem) ∧
    (∀ d g, s.hostDelivery c tk = some d → d.grant = some g → s.linkUp = true →
      ∃ t, exec (.hostDeliver c tk false) s = .next t ∧ EndedWith t c tk stOK 0 ∧ t.hostDelivery c tk = none ∧
        t.store.parts = s.store.parts.erase d.entry ∧ t.rings = s.rings ∧ t.cores = s.cores ∧
        (∀ cid, g.ref = .manager cid → t.host.mem = Mem.store s.host.mem g.manAddr d.entry.manifest ∧
          t.host.replies = s.host.replies ++ [⟨cid, in64 d.bytes % 2 ^ 32 + g.generation.toNat * 2 ^ 32, csOK, []⟩])))

/-- R427 to R434, R440: GO starts the transfer that the registers of a DIRECT or SHADOW channel describe, ends one of COUNT 0 at
once, and is counted on a busy channel. COPY starts its channel the same way. A burst moves up to 4 KiB, reordered by SWAP, and
advances SRC, DST and COUNT; the last one ends a COPY with OK and sets DONE on a channel. PAUSE holds a channel.
R435 to R439: a pool that is enabled builds its list: each free buffer holds the address of the next, and the last 0. ALLOC takes
COUNT buffers off its head, marks them and writes their addresses, or ends with EMPTY and takes nothing; FREE checks every
address first and puts the buffers back at the head. A pool is disabled only while no buffer of it is taken. -/
def Obligations.MoversAndPools : Prop :=
  ((∀ (w : Writer) (n : BitVec 6) (s : State), s.mayWrite w = true → s.polderOn polPH = true →
     (s.dmaBusy n.toNat = true → exec (.go w n) s = .next (s.errAdd Reg.DMA_ERR_CNT_GO_IGNORED 1)) ∧
     (s.dmaBusy n.toNat = false → s.dmaMode n.toNat = 1 → s.loaderOnly = false → s.dmaCount n.toNat ≠ 0 →
       swapFits (s.fld (chan Reg.DMA_CH_CTL_SWAP n.toNat)) (s.dmaSrc n.toNat) (s.dmaDst n.toNat) (s.dmaCount n.toNat) = true →
       exec (.go w n) s = .next (s.setDmaRun n.toNat (s.dmaOfCtl n.toNat))) ∧
     (s.dmaBusy n.toNat = false → s.dmaMode n.toNat = 1 → s.loaderOnly = false → s.dmaCount n.toNat = 0 →
       ∃ t, exec (.go w n) s = .next t ∧ t.flag (chan Reg.DMA_CH_STAT_DONE n.toNat) = true ∧ t.dmaBusy n.toNat = false ∧ t.dmaRun n.toNat = none ∧
         t.dram = s.dram) ∧
     exec (.valid w n) s = .next (s.setFlag (chan Reg.DMA_CH_SH_FLAGS_VALID n.toNat) true) ∧
     (∃ t, exec (.pause w n) s = .next t ∧ t.dmaPaused n.toNat = true ∧ t.dmaReady n.toNat = false ∧ t.dmaRun n.toNat = s.dmaRun n.toNat ∧
       t.dmaCount n.toNat = s.dmaCount n.toNat ∧ t.dram = s.dram) ∧
     (∀ r, s.flag (chan Reg.DMA_CH_CTL_PAUSE n.toNat) = true → s.dmaRun n.toNat = some r → r.lost = false →
       swapFits r.swap (s.dmaSrc n.toNat) (s.dmaDst n.toNat) (s.dmaCount n.toNat) = true →
       ∃ t, exec (.pauseClear w n) s = .next t ∧ t.dmaPaused n.toNat = false ∧ t.dmaRun n.toNat = some r ∧
         t.dmaSrc n.toNat = s.dmaSrc n.toNat ∧ t.dmaCount n.toNat = s.dmaCount n.toNat ∧ t.dram = s.dram)) ∧
   (∀ (c : CoreId) (tk : Ticket) (s : State) (x : Taken), s.running c tk 11 0x01 = some x → s.engineRuns 11 = true → x.unit < 64 →
     s.dmaBusy x.unit = false → s.copyBad x = false →
     (x.fieldAt 0x20 4 = 0 → ∃ t, exec (.copy c tk) s = .next t ∧ EndedWith t c tk stOK 0 ∧ t.dram = s.dram) ∧
     (x.fieldAt 0x20 4 ≠ 0 → swapFits (x.fieldAt 0x24 1 % 8) (x.fieldAt 0x10 8) (x.fieldAt 0x18 8) (x.fieldAt 0x20 4) = false →
       ∃ t, exec (.copy c tk) s = .next t ∧ EndedWith t c tk stBAD_SWAP 0 ∧ t.dram = s.dram) ∧
     (x.fieldAt 0x20 4 ≠ 0 → swapFits (x.fieldAt 0x24 1 % 8) (x.fieldAt 0x10 8) (x.fieldAt 0x18 8) (x.fieldAt 0x20 4) = true →
       ∃ t r, exec (.copy c tk) s = .next t ∧ t.dmaRun x.unit = some r ∧ r.owner = some (c.val, tk.toNat) ∧ r.swap = x.fieldAt 0x24 1 % 8 ∧
         t.dmaSrc x.unit = x.fieldAt 0x10 8 ∧ t.dmaDst x.unit = x.fieldAt 0x18 8 ∧ t.dmaCount x.unit = x.fieldAt 0x20 4 ∧
         t.dmaBusy x.unit = true ∧ t.dram = s.dram)) ∧
   (∀ (s : State) (n k : Nat) (aged : Bool) (r : DmaRun), s.engineRuns 11 = true → s.dmaPick = some (n, aged) → s.dmaRun n = some r →
     s.burstSize n r = k →
     (r.srcHost = false → r.dstHost = false → s.regionAt (s.dmaSrc n % 2 ^ 48) k = .dram → s.regionAt (s.dmaDst n % 2 ^ 48) k = .dram →
       ∃ t, exec (.dmaBurst false) s = .next t ∧
         t.dram = Mem.store s.dram (s.dmaDst n % 2 ^ 48) (swapBytes r.swap (s.dramBytes (s.dmaSrc n % 2 ^ 48) k)) ∧
         t.dmaSrc n = (s.dmaSrc n + k) % 2 ^ 64 ∧ t.dmaDst n = (s.dmaDst n + k) % 2 ^ 64 ∧ t.dmaCount n = s.dmaCount n - k ∧
         t.host.mem = s.host.mem ∧ t.host.dmaLast = n ∧ t.rings = s.rings ∧ t.cores = s.cores) ∧
     (r.srcHost = false → r.dstHost = true → s.linkUp = true → s.regionAt (s.dmaSrc n % 2 ^ 48) k = .dram →
       ∃ t, exec (.dmaBurst false) s = .next t ∧ k ≤ s.host.maxPayload ∧
         t.host.mem = Mem.store s.host.mem (s.dmaDst n) (swapBytes r.swap (s.dramBytes (s.dmaSrc n % 2 ^ 48) k)) ∧ t.dram = s.dram ∧
         t.dmaCount n = s.dmaCount n - k) ∧
     k ≤ 4096 ∧ s.dmaReady n = true) ∧
   (∀ (n : BitVec 6) (s : State) (r : DmaRun), s.dmaRun n.toNat = some r → s.engineRuns 11 = true → s.dmaPaused n.toNat = false →
     s.dmaCount n.toNat = 0 →
     (r.owner = none → s.shadowValid n.toNat = false → ∃ t, exec (.dmaTransferDone n) s = .next t ∧
       t.flag (chan Reg.DMA_CH_STAT_DONE n.toNat) = true ∧ t.dmaBusy n.toNat = false ∧ t.dmaRun n.toNat = none ∧ t.dram = s.dram) ∧
     (∀ (c : CoreId) (tk : Ticket) x, r.owner = some (c.val, tk.toNat) → s.takenAt c tk = some x → x.result = none → x.core = c → x.ticket = tk →
       ∃ t, exec (.dmaTransferDone n) s = .next t ∧ EndedWith t c tk stOK 0 ∧ t.dmaBusy n.toNat = false ∧ t.dmaRun n.toNat = none ∧ t.dram = s.dram))) ∧
  ((∀ (w : Writer) (n : BitVec 3) (value : Word32) (s : State), s.mayWrite w = true → s.polderOn polPH = true →
     (s.poolOn n.toNat = false → (s.setFld (pool Reg.BPM_POOL_CFG_COUNT n.toNat) (natAt value 0 24)).poolRefused n.toNat (natAt value 0 24) = false →
       ∃ t, exec (.poolEnable w n value) s = .next t ∧ t.poolOn n.toNat = true ∧ t.poolCount n.toNat = natAt value 0 24 ∧
         t.flag (pool Reg.BPM_POOL_CFG_BUILDING n.toNat) = true ∧ t.poolFree n.toNat = 0 ∧ t.poolBroken n.toNat = false ∧ t.cores = s.cores) ∧
     (s.poolOn n.toNat = true → s.poolFree n.toNat = s.poolCount n.toNat →
       ∃ t, exec (.poolDisable w n value) s = .next t ∧ t.poolOn n.toNat = false ∧ t.poolFree n.toNat = 0 ∧ t.cores = s.cores) ∧
     (s.poolOn n.toNat = true → s.poolFree n.toNat ≠ s.poolCount n.toNat → s.flag (pool Reg.BPM_POOL_CFG_BUILDING n.toNat) = false →
       exec (.poolDisable w n value) s = .next s)) ∧
   (∀ (n : BitVec 3) (s : State), s.polderOn polPH = true → s.flag (pool Reg.BPM_POOL_CFG_BUILDING n.toNat) = true →
     ∃ t, exec (.freeListBuilt n) s = .next t ∧ t.flag (pool Reg.BPM_POOL_CFG_BUILDING n.toNat) = false ∧
       t.poolFree n.toNat = s.poolCount n.toNat ∧ t.poolHead n.toNat = s.poolBase n.toNat ∧ t.cores = s.cores ∧
       (∀ i, i < s.poolCount n.toNat → Mem.readLe t.dram (s.poolBase n.toNat + i * poolBuffer n.toNat) 8 =
         (if i + 1 < s.poolCount n.toNat then s.poolBase n.toNat + (i + 1) * poolBuffer n.toNat else 0) % 2 ^ 64)) ∧
   (∀ (c : CoreId) (tk : Ticket) (s : State) (x : Taken) (n count : Nat), s.running c tk 12 0x01 = some x → s.engineRuns 12 = true →
     poolFor (x.fieldAt 0x10 4) = some n → x.fieldAt 0x14 1 = count → 1 ≤ count → count ≤ 16 → s.poolBroken n = false →
     (s.poolOn n = false ∨ s.poolFree n < count → ∃ t, exec (.alloc c tk) s = .next t ∧ EndedWith t c tk stEMPTY n ∧ t.dram = s.dram ∧
       t.poolFree n = s.poolFree n ∧ t.poolHead n = s.poolHead n) ∧
     (s.poolOn n = true → count ≤ s.poolFree n → s.walkFree n (s.poolHead n) count = none →
       ∃ t, exec (.alloc c tk) s = .next t ∧ EndedWith t c tk stPOOL_BROKEN n ∧ t.poolBroken n = true ∧ t.dram = s.dram) ∧
     (∀ as head, s.poolOn n = true → count ≤ s.poolFree n → s.walkFree n (s.poolHead n) count = some (as, head) →
       ∃ t, exec (.alloc c tk) s = .next t ∧ EndedWith t c tk stOK n ∧ as.length = count ∧ t.poolHead n = head ∧
         t.poolFree n = s.poolFree n - count ∧ (∀ i a, as[i]? = some a → Mem.readLe t.dram (x.fieldAt 0x18 8 + 8 * i) 8 = a % 2 ^ 64) ∧
         t.rings = s.rings ∧ t.cores = s.cores ∧
         (∀ a i, a ∈ as → s.bufferOf n a = some i →
           (s.bitmapBase + (s.poolBit n + i) / 8 < x.fieldAt 0x18 8 ∨ x.fieldAt 0x18 8 + 8 * count ≤ s.bitmapBase + (s.poolBit n + i) / 8) →
           t.allocated n i = true))) ∧
   (∀ (c : CoreId) (tk : Ticket) (s : State) (x : Taken) (a : Nat), s.running c tk 12 0x02 = some x → s.engineRuns 12 = true →
     x.fieldAt 0x14 1 = 1 → s.dramLe (x.fieldAt 0x18 8) 8 = a →
     (s.poolOfAddr a = none → ∃ t, exec (.free c tk) s = .next t ∧ EndedWith t c tk stBAD_ADDR 0 ∧ t.dram = s.dram) ∧
     (∀ n i, s.poolOfAddr a = some (n, i) → s.poolBroken n = false → s.allocated n i = false →
       ∃ t, exec (.free c tk) s = .next t ∧ EndedWith t c tk stNOT_ALLOCATED n ∧ t.dram = s.dram) ∧
     (∀ n i, s.poolOfAddr a = some (n, i) → s.poolBroken n = false → s.allocated n i = true → s.poolFree n < s.poolCount n →
       ∃ t, exec (.free c tk) s = .next t ∧ EndedWith t c tk stOK n ∧ t.poolHead n = a ∧ t.poolFree n = s.poolFree n + 1 ∧
         t.allocated n i = false ∧ t.rings = s.rings ∧ t.cores = s.cores)))

/-- R426, R445, R452, R453, R475 to R478: a renewal request goes out every LEASE ÷ 4; a grant sets the expiry LEASE after its request
and unfences; the GTC reaching the expiry sets FENCED, and a write that lowers the expiry below the GTC does so at once; UNFENCE
clears it only while the expiry is above the GTC. -/
def Obligations.Leases : Prop :=
  (∀ (s : State), s.inSystem = true → s.leased = true →
    (s.system.lastAsk = none ∨ (∃ g, s.system.lastAsk = some g ∧ s.system.lease ≤ 4 * (s.gtc - g).toNat)) →
    exec .leaseRenewal s = .next { s with system := { s.system with
      lastAsk := some s.gtc, asked := true, out := s.system.out ++ [.renewal s.gtc] } }) ∧
  (∀ (requested granted : Word64) (lease n : Nat) (term : Word32) (s : State), s.inSystem = true → s.leased = true → s.system.asked = true →
    requested ≤ granted → n = Max.max 500000000 (Min.min 30000000000 lease) → (granted - requested).toNat ≤ n →
    s.gtc < requested + BitVec.ofNat 64 n →
    ∃ (t : State), exec (.leaseGrant requested granted lease term) s = .next t ∧ t.system.expiry = requested + BitVec.ofNat 64 n ∧
      t.system.asked = false ∧ t.system.lease = n ∧ t.flag GTC_FENCE_FENCED = false ∧
      t.reg GTC_LEASE_LO = (requested + BitVec.ofNat 64 n).setWidth 32 ∧ t.reg GTC_TERM = term ∧
      t.gtc = s.gtc ∧ t.dram = s.dram ∧ t.cores = s.cores ∧ t.rings = s.rings ∧ t.net = s.net ∧ t.host = s.host) ∧
  (∀ (s : State), s.leased = true → s.flag GTC_FENCE_FENCED = false →
    (s.system.expiry ≤ s.gtc → ∃ t, exec .fence s = .next t ∧ t.flag GTC_FENCE_FENCED = true ∧ t.host.deliveries = [] ∧
      t.fld GTC_ERR_CNT_FENCES = Min.min 0xFFFF (s.fld GTC_ERR_CNT_FENCES + 1) ∧ t.gtc = s.gtc ∧ t.rings = s.rings ∧ t.cores = s.cores) ∧
    (∀ (w : Writer) (value : Word32), s.mayWrite w = true →
      (s.gtc ≤ value ++ s.reg GTC_LEASE_LO → ∃ t, exec (.leaseExpiryWrite w value) s = .next t ∧
        t.system.expiry = value ++ s.reg GTC_LEASE_LO ∧ t.reg GTC_LEASE_HI = value ∧ t.flag GTC_FENCE_FENCED = false ∧
        t.dram = s.dram ∧ t.cores = s.cores ∧ t.net = s.net ∧ t.host = s.host) ∧
      (value ++ s.reg GTC_LEASE_LO < s.gtc → ∃ t, exec (.leaseExpiryWrite w value) s = .next t ∧
        t.system.expiry = value ++ s.reg GTC_LEASE_LO ∧ t.flag GTC_FENCE_FENCED = true ∧ t.rings = s.rings ∧ t.cores = s.cores))) ∧
  (∀ (w : Writer) (s : State), s.mayWrite w = true →
    (s.gtc < s.system.expiry → ∃ t, exec (.unfence w) s = .next t ∧ t.flag GTC_FENCE_FENCED = false ∧ { t with regs := s.regs } = s) ∧
    (s.system.expiry ≤ s.gtc → exec (.unfence w) s = .next s))

/-- R451, R454 to R456, R462, R466, R468, R469: the manager declares a worker dead LEASE + 1 s after its last grant and gives its place to
the spare; the standby takes office with three lapsed votes under the next term; the bitmaps of a block are joined into its
drop map, sent with the survivor counts of the earlier blocks; a part that is late by BACKUP_DELAY gets a backup; a check
reports its digest and discards its part; two digests that differ start a third preparation, and the minority is asked for a
self-test and held.
R27, R457, R458, R476: an exchange writes the offset to `GTC_OFFSET` and `DBG_GTC_OFS`; the sixteenth of a joining module steps the
GTC to the mean; later ones adjust the rate, within ±200 ppm, mark LOST beyond ±10 µs and become LOCKED with eight offsets in
a row within ±250 ns; a module behind by more than 1 ms steps forward. Two seconds without an exchange are HOLDOVER. A read of
the low word of `GTC_NOW` latches the high word. -/
def Obligations.ManagerAndTime : Prop :=
  (∀ (s : State), s.inSystem = true →
     (∀ (worker spare : BitVec 14) (group : BitVec 12) (place : BitVec 6) (lastGrant : Word64), lastGrant ≤ s.gtc →
       s.system.lease + 1000000000 ≤ (s.gtc - lastGrant).toNat → (∀ e ∈ s.system.dead, e.1 ≠ worker.toNat) →
       ∃ t, exec (.workerDead worker spare group place lastGrant) s = .next t ∧
         Table.find t.system.servers (group.toNat * 256 + place.toNat) = some spare.toNat ∧
         (worker.toNat, group.toNat * 256 + place.toNat) ∈ t.system.dead ∧
         t.system.out = s.system.out ++ [.newServer place.toNat spare.toNat] ∧ { t with system := s.system } = s) ∧
     (∀ (grants : List Word64) (own : Word64) (rest : List Word64), grants = own :: rest → s.system.office = false → grants.length ≤ 5 →
       (own ≤ s.gtc ∧ s.system.lease ≤ (s.gtc - own).toNat) →
       3 ≤ (grants.filter (fun g => decide (g ≤ s.gtc) && decide (s.system.lease ≤ (s.gtc - g).toNat))).length →
       ∃ t, exec (.managerTakeover grants) s = .next t ∧ t.system.office = true ∧ t.reg GTC_TERM = s.reg GTC_TERM + 1 ∧
         t.system.out = s.system.out ++ [.askVotes (s.reg GTC_TERM + 1).toNat] ∧ { t with system := s.system, regs := s.regs } = s) ∧
     (∀ (epoch block : BitVec 32) (positions : Nat) (maps : List (List Nat)), positions ≤ 65536 →
       Table.find s.system.drops (epoch.toNat * 2 ^ 32 + block.toNat) = none →
       (∀ b, b < block.toNat → (Table.find s.system.drops (epoch.toNat * 2 ^ 32 + b)).isSome) →
       ∃ t drops counts, exec (.dropMap epoch block positions maps) s = .next t ∧ (∀ p, p ∈ drops ↔ p < positions ∧ ∃ m ∈ maps, p ∈ m) ∧
         drops.Nodup ∧ t.system.out = s.system.out ++ [.dropMap block.toNat drops counts] ∧ counts.length = block.toNat ∧
         (∀ b, b < block.toNat → ∃ d k, Table.find s.system.drops (epoch.toNat * 2 ^ 32 + b) = some (d, k) ∧ counts[b]? = some (b, k)) ∧
         Table.find t.system.drops (epoch.toNat * 2 ^ 32 + block.toNat) = some (drops, positions - drops.length) ∧
         { t with system := s.system } = s) ∧
     (∀ (group : BitVec 12) (seq : Word64) (place : BitVec 6) (firstOffer : Word64) (delay : Nat) (node : BitVec 14), firstOffer ≤ s.gtc →
       backupDelay delay ≤ (s.gtc - firstOffer).toNat → (s.system.backups.filter (fun e => e.1 == group.toNat)).length < 4 →
       (group.toNat, seq.toNat, place.toNat) ∉ s.system.backups →
       ∃ t, exec (.backupStart group seq place firstOffer delay node []) s = .next t ∧
         t.system.backups = s.system.backups ++ [(group.toNat, seq.toNat, place.toNat)] ∧ (group.toNat, place.toNat) ∈ t.system.covered ∧
         t.system.out = s.system.out ++ [.backup seq.toNat place.toNat node.toNat] ∧ { t with system := s.system } = s) ∧
     (∀ (seq : Word64) (part : Byte) (p : PackPart), s.store.parts.find? (fun p => p.seq == seq.toNat && !p.out) = some p →
       ∃ t, exec (.checkPreparation seq part) s = .next t ∧ t.system.out = s.system.out ++ [.digest seq.toNat part.toNat (partDigest p)] ∧
         t.store.parts = s.store.parts.erase p ∧ t.dram = s.dram ∧ t.cores = s.cores ∧ t.net = s.net) ∧
     (∀ (seq : Word64) (part : Byte) (first second third : BitVec 14 × Word64) (delivered : Word64) (qcn : BitVec 16), first.2 ≠ second.2 →
       ((seq.toNat, part.toNat) ∉ s.system.kept →
         ∃ t, exec (.digestMismatch seq part first second none delivered qcn) s = .next t ∧ (seq.toNat, part.toNat) ∈ t.system.kept ∧
           t.system.out = s.system.out ++ [.third seq.toNat part.toNat] ∧ { t with system := s.system } = s) ∧
       ((seq.toNat, part.toNat) ∈ s.system.kept → third.2 = first.2 →
         ∃ t, exec (.digestMismatch seq part first second (some third) delivered qcn) s = .next t ∧ second.1.toNat ∈ t.system.held ∧
           t.system.out = s.system.out ++ [.selfTest second.1.toNat] ∧ t.dram = s.dram ∧ t.cores = s.cores ∧ t.rings = s.rings) ∧
       ((seq.toNat, part.toNat) ∈ s.system.kept → third.2 = second.2 →
         ∃ t, exec (.digestMismatch seq part first second (some third) delivered qcn) s = .next t ∧ first.1.toNat ∈ t.system.held ∧
           t.system.out = s.system.out ++ [.selfTest first.1.toNat] ∧ t.dram = s.dram ∧ t.cores = s.cores ∧ t.rings = s.rings))) ∧
  ((∀ (offset rate : Int) (s : State), s.inSystem = true → -2 ^ 31 ≤ offset → offset < 2 ^ 31 → s.system.stepDue = none →
     ∃ t, exec (.ptpExchange offset rate) s = .next t ∧ t.reg GTC_OFFSET = BitVec.ofInt 32 offset ∧ t.reg DBG_GTC_OFS = BitVec.ofInt 32 offset ∧
       t.system.lastPtp = some s.gtc ∧ t.dram = s.dram ∧ t.cores = s.cores ∧ t.rings = s.rings ∧ t.recipes = s.recipes ∧
       (s.system.joined < 15 → t.system.joined = s.system.joined + 1 ∧ t.system.offsets = s.system.offsets + offset ∧ t.gtc = s.gtc ∧
         t.fld GTC_SYNC_STATE = 1) ∧
       (s.system.joined = 15 → s.noLaunch = true →
         t.gtc = s.gtc - BitVec.ofInt 64 ((s.system.offsets + offset) / 16) ∧ t.system.joined = 16 ∧ t.fld GTC_SYNC_STATE = 0) ∧
       (16 ≤ s.system.joined → t.reg GTC_RATE = BitVec.ofInt 32 (Max.max (-200000) (Min.min 200000 rate)) ∧
         (10000 < offset → t.flag GTC_SYNC_LOST = true ∧ t.gtc = s.gtc) ∧
         (-1000000 ≤ offset → offset < -10000 → t.flag GTC_SYNC_LOST = true ∧ t.gtc = s.gtc) ∧
         (offset < -1000000 → t.flag GTC_SYNC_LOST = true ∧ (s.noLaunch = true → t.gtc = s.gtc + BitVec.ofInt 64 (-offset)) ∧
           (s.noLaunch = false → t.gtc = s.gtc ∧ t.system.stepDue = some (-offset))) ∧
         (-250 ≤ offset → offset ≤ 250 → 7 ≤ s.system.streak → s.system.ahead = false → t.fld GTC_SYNC_STATE = 2 ∧ t.gtc = s.gtc) ∧
         (-250 ≤ offset → offset ≤ 250 → s.system.streak < 7 → s.fld GTC_SYNC_STATE ≠ 3 → t.system.streak = s.system.streak + 1 ∧
           t.fld GTC_SYNC_STATE = s.fld GTC_SYNC_STATE))) ∧
   (∀ (s : State) (g : Word64), s.system.lastPtp = some g → 2000000000 ≤ (s.gtc - g).toNat → s.fld GTC_SYNC_STATE ≠ 3 →
     ∃ t, exec .holdover s = .next t ∧ t.fld GTC_SYNC_STATE = 3 ∧ t.reg GTC_RATE = s.reg GTC_RATE ∧ t.gtc = s.gtc ∧
       { t with system := s.system, regs := s.regs } = s) ∧
   (∀ (s : State), ∃ (t u : State), exec (.gtcNowRead false) s = .next t ∧ t.host.reads = s.host.reads ++ [s.gtc.setWidth 32] ∧
     exec (.gtcNowRead true) t = .next u ∧ u.host.reads = t.host.reads ++ [(s.gtc >>> 32).setWidth 32] ∧ u.system.nowHigh = none ∧
     { u with system := s.system, host := s.host } = s))

/-- R480, R481, R489, R500, R505, R521, R526, R605: power at the input, a restart after a flush and the power-on command begin a cold
start: the GTC at 0, every register at its reset value, DRAM lost, media and boot flash kept. After the stagger the ladder
begins; each step powers one polder once the spacing has passed and the load fits the budget; at its end every polder is ON
and CC0 is released.
R36, R488, R490, R503, R557, R598: a warm reset with its key resets every core and polder but PA, loses DRAM, clears the safe state and
keeps the GTC, and CC0 alone is released; a polder reset aborts the work of that polder and clears its counters; a drained core
enters reset and leaves it by its bit; RELEASE lets the polders that are ON drive their pads. -/
def Obligations.PowerUpAndResets : Prop :=
  ((∀ (s : State),
     let cold (o : Host.Outcome State Fault Refusal) : Prop := ∃ t, o = .next t ∧ t.power.phase = .cold ∧ t.gtc = 0 ∧ t.regs = [] ∧
       t.cores = Vector.replicate 16 Core.reset ∧ t.rings = [] ∧ t.taken = [] ∧ t.dram = [] ∧ t.flash.nand = s.flash.nand ∧
       t.ftl.anchor = s.ftl.anchor ∧ t.bootFlash = s.bootFlash ∧ t.host.mem = s.host.mem ∧ t.pending = s.pending
     (s.power.phase = .unpowered → cold (exec .inputStart s)) ∧
     (s.power.phase = .flushed → cold (exec (.postFlushRestart true) s)) ∧
     (s.power.phase = .flushed → exec (.postFlushRestart false) s = .next { s with power := { s.power with phase := .unpowered } }) ∧
     (s.power.phase = .off → s.power.matched = true → cold (exec .powerOnCommand s)) ∧
     (s.power.phase = .off → s.power.matched = false → exec .powerOnCommand s = .next s)) ∧
   (∀ (chans : List (BitVec 2)) (dram : Nat) (eeprom loader : Bool) (s : State),
     (s.power.phase = .cold → s.fld POL_STAGGER_SLOT * s.fld POL_STAGGER_STEP_US * 1000 ≤ s.gtc.toNat →
       ∃ t, exec (.coldStart chans dram eeprom loader) s = .next t ∧ t.power.phase = .ladder .cold ∧
         t.power.ladder = ⟨ladderOrder.filter (fun p => s.polder p == 0), [], s.gtc, false⟩ ∧ t.dram = s.dram ∧ t.cores = s.cores) ∧
     (s.power.phase = .ladder .cold → s.ladderDone 10000 = true → loader = true →
       ∃ t, exec (.coldStart chans dram eeprom loader) s = .next t ∧ t.power.phase = .on ∧ (∀ p, p ≤ 10 → t.polder p = 3) ∧
         t.cores = s.cores ∧ t.dram = s.dram ∧ t.reg POL_CORE_RST = s.reg POL_CORE_RST ∧
         ((∀ b ∈ chans.take (Config.ddrChannels s.part.variant), b ≠ 1 ∧ b ≠ 2) → t.dramSize = 0) ∧
         (eeprom = false → t.sec.image = none ∧ t.fld SEC_FW_STATE_STATE = 1 ∧ t.fld SEC_FW_STATE_REASON = 8))) ∧
   (∀ (s : State) (k : LadderKind) (p : Nat) (rest : List Nat), s.power.phase = .ladder k → s.power.ladder.left = p :: rest → p ∈ ladderOrder →
     s.ladderSpaced = true →
     (s.ladderLoad p ≤ Max.max 11 (s.fld POL_LADDER_BUDGET_W) →
       ∃ t, exec .ladderStep s = .next t ∧ t.polder p = 1 ∧ t.power.ladder.left = rest ∧
         t.power.ladder.begun = (p, s.gtc) :: s.power.ladder.begun ∧ (∀ q, q ≤ 10 → q ≠ p → t.polder q = s.polder q) ∧
         { t with power := s.power, regs := s.regs } = s) ∧
     (Max.max 11 (s.fld POL_LADDER_BUDGET_W) < s.ladderLoad p → s.power.ladder.delayed = false →
       ∃ t, exec .ladderStep s = .next t ∧ t.power.ladder.left = p :: rest ∧ t.power.ladder.delayed = true ∧ t.polder p = s.polder p ∧
         (t.counter unitPOL 4).count = (s.counter unitPOL 4).count + 1 ∧ t.dram = s.dram ∧ t.cores = s.cores))) ∧
  ((∀ (w : Writer) (value : Word32) (s : State),
     let reset (t : State) : Prop := t.cores = Vector.replicate 16 Core.reset ∧ t.rings = [] ∧ t.taken = [] ∧ t.recipes = [] ∧ t.dram = [] ∧
       t.flag FLT_STATUS_SAFE = false ∧ t.gtc = s.gtc ∧ t.reg POL_CORE_RST = 1 ∧ t.flash.nand = s.flash.nand ∧ t.bootFlash = s.bootFlash
     natAt value 16 16 = 0xA5C3 → natAt value 0 2 = 1 → s.mayReset w = true → s.power.phase.resets = true → s.power.phase ≠ .ladder .warm →
     ((∀ p, p ≤ 10 → s.polder p ≠ 0) →
       ∃ t, exec (.warmReset w value true) s = .next t ∧ reset t ∧ t.power.phase = .on ∧ t.fld POL_WAKE_CAUSE = 4 ∧ (∀ p, p ≤ 10 → t.polder p = 3)) ∧
     ((∃ p, p ≤ 10 ∧ s.polder p = 0) → ∃ t, exec (.warmReset w value true) s = .next t ∧ reset t ∧ t.power.phase = .ladder .warm)) ∧
   (∀ (w : Writer) (value : Word32) (s : State), s.power.phase = .ladder .warm → s.ladderDone 10000 = true →
     ∃ t, exec (.warmReset w value true) s = .next t ∧ t.power.phase = .on ∧ t.fld POL_WAKE_CAUSE = 4 ∧ (∀ p, p ≤ 10 → t.polder p = 3) ∧
       t.cores = s.cores ∧ t.dram = s.dram ∧ t.gtc = s.gtc) ∧
   (∀ (w : Writer) (value : Word32) (p : Nat) (s : State), natAt value 16 16 = 0xA5C3 → natAt value 0 2 = 2 → natAt value 12 4 = p →
     s.mayWrite w = true → stoppable p = true → 2 ≤ s.polder p →
     ∃ t, exec (.polderReset w value) s = .next t ∧ (∀ x ∈ t.taken, classPolder x.cls ≠ p) ∧
       (∀ u k, u < 24 → k < 16 → unitPolder u = p → t.counter u k = Counter.zero) ∧ t.gtc = s.gtc ∧ t.power = s.power ∧ t.flash = s.flash) ∧
   (∀ (w : Writer) (c : CoreId) (s : State), s.mayWrite w = true → s.power.coreReset = 0 →
     (s.outOfReset c = true → (s.core c).drained = true →
       ∃ t, exec (.coreReset w c) s = .next t ∧ t.core c = Core.reset ∧ t.outOfReset c = false ∧
         (∀ d : CoreId, d ≠ c → t.core d = s.core d ∧ t.outOfReset d = s.outOfReset d) ∧ { t with cores := s.cores, regs := s.regs } = s) ∧
     (s.outOfReset c = true → (s.core c).drained = false →
       ∃ t, exec (.coreReset w c) s = .next t ∧ t.cores = s.cores ∧ t.outOfReset c = true ∧ bitAt t.power.coreReset c.val = true) ∧
     (∃ t, exec (.coreRelease w c) s = .next t ∧ t.cores = s.cores ∧ t.outOfReset c = true ∧
         (∀ d : CoreId, d ≠ c → t.outOfReset d = s.outOfReset d) ∧ { t with regs := s.regs } = s)) ∧
   (∀ (w : Writer) (polders : BitVec 11) (s : State), s.mayWrite w = true →
     ∃ t, exec (.padRelease w polders) s = .next t ∧
       (∀ p, p ≤ 10 → bitAt (BitVec.ofNat 11 (t.fld POL_PAD_HELD)) p =
         (bitAt (BitVec.ofNat 11 (s.fld POL_PAD_HELD)) p && !(bitAt polders p && s.polderOn p))) ∧
       (s.flag FLT_STATUS_SAFE = false → s.loaderOnly = false →
         t.power.writeProtect = (s.power.writeProtect && !(bitAt polders polPF && s.polderOn polPF)) ∧
         t.power.txDisable = (s.power.txDisable && !(bitAt polders polPN && s.polderOn polPN))) ∧
       (s.flag FLT_STATUS_SAFE = true ∨ s.loaderOnly = true → t.power = s.power) ∧ { t with regs := s.regs, power := s.power } = s))

/-- R484 to R487, R502, R504, R548: STOP stops an idle polder's clock and starts it again; the source switches to a locked PLL, and on its lock;
the effective OPP is the request and the steps of governor and throttle, at most 3; above the cap the governor slows the next
polder, and it gives a step back after 10 ms below 90 %; the thermal throttle does the same at 100 °C and 95 °C; a droop is
counted. -/
def Obligations.ClocksAndOperatingPoints : Prop :=
  (∀ (w : Writer) (i : BitVec 4) (p : Nat) (s : State), s.mayWrite w = true → p = i.toNat → p ≤ 10 →
    (stoppable p = true → s.polderOn p = true → s.polderIdle p = true →
      ∃ t, exec (.clockStop w i true) s = .next t ∧ t.polder p = 2 ∧ t.flag (clk POL_CLK_STOP p) = true ∧ t.flag (clk POL_CLK_STOPPED p) = true ∧
        t.gtc = s.gtc ∧ t.dram = s.dram ∧ t.cores = s.cores ∧ t.rings = s.rings) ∧
    (stoppable p = true → s.polder p = 2 → s.fld POL_MODE_CUR < 3 →
      ∃ t, exec (.clockStop w i false) s = .next t ∧ t.polder p = 3 ∧ t.flag (clk POL_CLK_STOP p) = false ∧ t.flag (clk POL_CLK_STOPPED p) = false ∧
        t.gtc = s.gtc ∧ t.dram = s.dram ∧ t.cores = s.cores ∧ t.rings = s.rings) ∧
    (∀ pll : Bool, ∃ t, exec (.clockSourceSwitch w i pll) s = .next t ∧ t.flag (clk POL_CLK_SRC p) = pll ∧
      bitAt t.power.onPll p = (pll && s.flag (clk POL_CLK_LOCK p)) ∧ { t with regs := s.regs, power := s.power } = s) ∧
    (s.polder p ≠ 0 → s.flag (clk POL_CLK_SRC p) = true →
      ∃ t, exec (.pllLock i) s = .next t ∧ t.flag (clk POL_CLK_LOCK p) = true ∧ bitAt t.power.onPll p = true ∧
        { t with regs := s.regs, power := s.power } = s) ∧
    (∀ opp : BitVec 2, p ∈ dvfsOrder → ∃ t, exec (.oppChange w i opp) s = .next t ∧ t.fld (clk POL_CLK_OPP p) = opp.toNat ∧
      t.fld (clk POL_CLK_OPP_CUR p) = Min.min 3 (opp.toNat + s.power.steps p) ∧ t.power = s.power ∧ t.gtc = s.gtc ∧ t.dram = s.dram ∧ t.cores = s.cores) ∧
    (s.polderOn p = true → ∃ t, exec (.clockStretch i) s = .next t ∧ (t.counter unitPOL 3).count = (s.counter unitPOL 3).count + 1 ∧
      t.gtc = s.gtc ∧ t.dram = s.dram ∧ t.cores = s.cores)) ∧
  (∀ (input nand : BitVec 16) (s : State), s.fld POL_MODE_CUR = 1 ∨ s.fld POL_MODE_CUR = 2 →
    ∀ cap, cap = (if s.fld POL_MODE_CUR = 1 then 2200 else 1600) →
    (∀ p, cap < input.toNat → s.nextSlower s.power.governed = some p →
      ∃ t, exec (.powerGovernor input nand) s = .next t ∧ t.fld MGT_POWER_INPUT = input.toNat ∧ t.fld MGT_POWER_NAND = nand.toNat ∧
        t.power.governed = p :: s.power.governed ∧
        t.fld (clk POL_CLK_OPP_CUR p) = Min.min 3 (s.fld (clk POL_CLK_OPP p) + s.power.steps p + 1) ∧ t.dram = s.dram ∧ t.cores = s.cores) ∧
    (cap < input.toNat → s.nextSlower s.power.governed = none →
      ∃ t, exec (.powerGovernor input nand) s = .next t ∧ t.power.idles = true ∧ t.power.governed = s.power.governed ∧ t.dram = s.dram ∧ t.cores = s.cores) ∧
    (∀ g, 10 * input.toNat ≤ 9 * cap → s.power.lowSince = some g → 10000000 ≤ (s.gtc - g).toNat →
      ∃ t, exec (.powerGovernor input nand) s = .next t ∧ t.power.idles = false ∧
        (s.power.idles = true → t.power.governed = s.power.governed) ∧
        (s.power.idles = false → t.power.governed = s.power.governed.drop 1) ∧ t.dram = s.dram ∧ t.cores = s.cores) ∧
    (9 * cap < 10 * input.toNat → input.toNat ≤ cap →
      ∃ t, exec (.powerGovernor input nand) s = .next t ∧ t.power.lowSince = none ∧ t.power.governed = s.power.governed ∧ t.power.idles = s.power.idles)) ∧
  (∀ (temp : Int) (s : State),
    (∀ p, 1000 ≤ temp → s.nextSlower s.power.throttled = some p →
      ∃ t, exec (.thermalThrottle temp) s = .next t ∧ t.power.throttled = p :: s.power.throttled ∧
        t.fld (clk POL_CLK_OPP_CUR p) = Min.min 3 (s.fld (clk POL_CLK_OPP p) + s.power.steps p + 1) ∧ t.dram = s.dram ∧ t.cores = s.cores) ∧
    (1000 ≤ temp → s.nextSlower s.power.throttled = none →
      exec (.thermalThrottle temp) s = .next { s with power := { s.power with idles := true, coolSince := none } }) ∧
    (∀ g, temp < 950 → s.power.coolSince = some g → 10000000 ≤ (s.gtc - g).toNat → s.power.idles = false →
      ∃ t, exec (.thermalThrottle temp) s = .next t ∧ t.power.throttled = s.power.throttled.drop 1 ∧ t.dram = s.dram ∧ t.cores = s.cores))

/-- R418, R419, R491 to R499, R502: the module takes the state of R419; MS3 stops the data-path polders and its exit starts them; an entry to
MS4 is refused with its cause, or tells CC0 and CC1 and, once they wait, writes the save list, gates its polders and keeps DRAM;
a wake source begins the ladder, whose end restores a save list that passes its checks and makes a warm reset otherwise. -/
def Obligations.PowerStates : Prop :=
  (∀ (s : State), s.power.phase = .on →
    (s.moduleState ≤ 2 → s.fld POL_MODE_CUR ≠ 3 → ∃ t, exec .powerStateChange s = .next t ∧ t.fld POL_MODE_CUR = s.moduleState ∧
      t.fld HST_PWR_PS = s.moduleState ∧ { t with regs := s.regs } = s) ∧
    (s.moduleState = 3 → s.fld POL_MODE_CUR < 3 → ∀ i ∈ [Instr.powerStateChange, Instr.ms3Entry], ∃ t, exec i s = .next t ∧
      t.fld POL_MODE_CUR = 3 ∧ t.fld HST_PWR_PS = 3 ∧ (∀ p ∈ ms3Polders, s.polderOn p = true → t.polder p = 2) ∧
      t.gtc = s.gtc ∧ t.dram = s.dram ∧ t.cores = s.cores ∧ t.rings = s.rings) ∧
    (s.moduleState ≤ 2 → s.fld POL_MODE_CUR = 3 → ∀ i ∈ [Instr.powerStateChange, Instr.ms3Exit], ∃ t, exec i s = .next t ∧
      t.fld POL_MODE_CUR = s.moduleState ∧ (∀ p ∈ ms3Polders, s.polder p = 2 → s.flag (clk POL_CLK_STOP p) = false → t.polder p = 3) ∧
      t.gtc = s.gtc ∧ t.dram = s.dram ∧ t.cores = s.cores ∧ t.rings = s.rings) ∧
    (∀ cause, s.heldState = 4 → s.ms4Refusal = some cause → ∃ t, exec .ms4Entry s = .next t ∧ t.flag POL_MODE_REFUSED = true ∧
      t.fld POL_MODE_CAUSE = cause ∧ { t with regs := s.regs } = s) ∧
    (s.heldState = 4 → s.ms4Refusal = none → ∃ t, exec .ms4Entry s = .next t ∧ t.power.phase = .entering ∧ t.fld POL_MODE_TARGET = 4 ∧
      t.letters = s.letters ++ [.powerSave] ∧ t.letters1 = s.letters1 ++ [.powerSave] ∧ t.dram = s.dram ∧ t.cores = s.cores)) ∧
  (∀ (s : State), s.power.phase = .entering → s.coreWaits 0 = true → s.coreWaits 1 = true →
    ∃ t, exec .ms4Entry s = .next t ∧ t.power.phase = .asleep ∧ t.fld POL_MODE_CUR = 4 ∧ (∀ p ∈ ms4Polders, t.polder p = 0) ∧
      t.saveGood = true ∧ t.flag POL_SAVE_STAT_VALID = true ∧ t.dram = s.dram ∧ t.gtc = s.gtc) ∧
  (∀ (s : State), s.power.phase = .asleep →
    let woken (src cause : Nat) (o : Host.Outcome State Fault Refusal) : Prop := ∃ t, o = .next t ∧ t.power.phase = .ladder .wake ∧
      bitAt (t.reg POL_WAKE) (16 + src) = true ∧ (s.fld POL_WAKE_PEND = 0 → t.fld POL_WAKE_CAUSE = cause) ∧
      t.power.ladder.left = ladderOrder.filter (fun p => ms4Polders.contains p && s.polder p == 0) ∧ t.dram = s.dram ∧ t.gtc = s.gtc
    (∀ addr : BitVec 7, addr.toNat = s.fld POL_SMB_ADDR → woken 0 1 (exec (.sidebandMatch addr) s)) ∧
    (s.flag POL_WAKE_EN_PCIE = true → woken 1 2 (exec .pcieWake s)) ∧
    (s.flag POL_WAKE_EN_GTC = true → s.power.wakeAt ≤ s.gtc → woken 2 3 (exec .gtcWake s)) ∧
    (∀ ecc loader, s.fld POL_WAKE_PEND ≠ 0 → ∃ t, exec (.ms4Exit ecc loader) s = .next t ∧ t.power.phase = .ladder .wake ∧ t.dram = s.dram)) ∧
  (∀ (s : State) (addr : BitVec 7), s.power.phase = .off → addr.toNat = s.fld POL_SMB_ADDR →
    exec (.sidebandMatch addr) s = .next { s with power := { s.power with matched := true } }) ∧
  (∀ (s : State), s.power.phase = .on → s.fld POL_MODE_CUR = 3 →
    (s.flag POL_WAKE_EN_PCIE = true → ∃ t, exec .pcieWake s = .next t ∧ t.fld POL_MODE_CUR = Min.min 2 s.operational ∧ t.dram = s.dram) ∧
    (s.flag POL_WAKE_EN_GTC = true → s.power.wakeAt ≤ s.gtc →
      ∃ t, exec .gtcWake s = .next t ∧ t.fld POL_MODE_CUR = Min.min 2 s.operational ∧ t.dram = s.dram)) ∧
  (∀ (s : State), s.power.phase = .ladder .wake → s.ladderDone 0 = true →
    (s.saveGood = true → ∀ loader, ∃ t, exec (.ms4Exit false loader) s = .next t ∧ t.power.phase = .on ∧ t.fld POL_MODE_CUR = 0 ∧
      t.reg POL_CORE_RST = 3 ∧ (∀ p ∈ ms4Polders, t.polder p = 3) ∧
      (∀ i o, savedRegs[i]? = some o → t.reg o = BitVec.ofNat 32 (Mem.readLe s.power.save (0x7700 + 4 * i) 4)) ∧ t.dram = s.dram ∧ t.gtc = s.gtc) ∧
    (∀ ecc, s.saveGood = false ∨ ecc = true → ∃ t, exec (.ms4Exit ecc true) s = .next t ∧ t.flag POL_SAVE_STAT_CRC_FAIL = true ∧
      t.fld POL_ERR_CNT_RESTORE_FAIL = Min.min 0xFFFF (s.fld POL_ERR_CNT_RESTORE_FAIL + 1) ∧ t.dram = [] ∧ t.gtc = s.gtc))

/-- R23 to R26, R505, R509, R513 to R521, R526, R548, R549: measurements of the bank set HU_LIMIT and the effective limit; a power-fail trigger,
an overvoltage or an overcurrent sheds every polder but PA and PF at once, with its cause; a controlled power-off waits first;
the end of the flush leaves the records that were not durable and the cursor on the media, with write protection on.
R516, R522 to R525, R528: a due test that may start lowers HU_LIMIT to that of 56.0 V; once DIRTY is at or below it the load is connected
and the drop gives ESR, and after 100 ms the test is postponed; at 56.0 V the load is disconnected and the time gives C; at 59.4 V
the test ends and WORN, ESR_HIGH and FAILED are judged, FAILED being a doubt. A request within 24 h is refused. The HI word of a
restart point copies its three words. -/
def Obligations.FlushesAndTests : Prop :=
  ((∀ (vbank vin iin : BitVec 16) (s : State) (hu : Nat), s.power.phase ≠ .unpowered →
     hu = Min.min 256 (Min.min s.flushCap ((s.fld MGT_CAP_C_UF * (vbank.toNat * vbank.toNat - 3600 * 3600) - 48000000000) / 234375000)) →
     ∃ t, exec (.bankSample vbank vin iin) s = .next t ∧ t.fld MGT_BANK_VBANK = vbank.toNat ∧ t.fld MGT_INPUT_VIN = vin.toNat ∧
       t.fld MGT_INPUT_IIN = iin.toNat ∧ t.fld FTL_JNL_CFG_LIMIT_EFF = Min.min (t.fld FTL_JNL_CFG_DIRTY_LIMIT) (t.fld MGT_HOLDUP_HU_LIMIT) ∧
       (s.power.test = none → t.fld MGT_HOLDUP_HU_LIMIT = hu) ∧
       (∀ x, s.power.test = some x → x.disconnected = none → t.fld MGT_HOLDUP_HU_LIMIT = Min.min hu (s.fld MGT_HOLDUP_HU_LIMIT)) ∧
       (∀ x, s.power.test = some x → x.disconnected ≠ none → t.fld MGT_HOLDUP_HU_LIMIT = hu) ∧
       t.flag MGT_BANK_ARMED = decide (48000000000 ≤ s.fld MGT_CAP_C_UF * (vbank.toNat * vbank.toNat - 3600 * 3600)) ∧ t.cores = s.cores) ∧
   (∀ (s : State), s.inputClosed = true →
     (∃ t, exec .inputHigh s = .next t ∧ t.flag MGT_HEALTH_INPUT_HIGH = true ∧ { t with regs := s.regs } = s) ∧
     (∃ t, exec .nandOverload s = .next t ∧ t.flag MGT_HEALTH_NAND_OVERLOAD = true ∧
       t.fld MGT_ERR_CNT_NAND_OVERLOADS = Min.min 0xFFFF (s.fld MGT_ERR_CNT_NAND_OVERLOADS + 1) ∧ { t with regs := s.regs } = s) ∧
     (∃ t, exec .dip s = .next t ∧ (t.counter unitMGT 0).count = (s.counter unitMGT 0).count + 1 ∧ t.power.test = none ∧
       t.power.phase = s.power.phase ∧ t.dram = s.dram ∧ t.cores = s.cores)) ∧
   (∀ (s : State),
     let shed (f : Flush) (t : State) : Prop := t.power.phase = .flush ∧ t.power.flush = some f ∧ t.dram = [] ∧ t.rings = [] ∧ t.taken = [] ∧
       t.cores = Vector.replicate 16 Core.reset ∧ (∀ p, p ≤ 10 → p ≠ polPA → p ≠ polPF → t.polder p = 0) ∧ t.flash = s.flash ∧
       t.ftl.journal = s.ftl.journal ∧ t.ftl.map = s.ftl.map ∧ t.gtc = s.gtc
     (s.inputClosed = true → s.power.flush = none → s.power.phase ≠ .flush →
       (∃ t, exec .powerFailTrigger s = .next t ∧ shed ⟨1, false, s.gtc, true, s.flag FLT_STATUS_SAFE, false⟩ t) ∧
       (∃ t, exec .overvoltage s = .next t ∧ shed ⟨2, false, s.gtc, true, s.flag FLT_STATUS_SAFE, false⟩ t) ∧
       (∃ t, exec .overcurrent s = .next t ∧ shed ⟨3, false, s.gtc, true, s.flag FLT_STATUS_SAFE, false⟩ t)) ∧
     (∀ f, s.power.phase = .flush → s.power.flush = some f → f.shed = false →
       (∃ t, exec .powerFailTrigger s = .next t ∧ shed { f with shed := true } t) ∧
       (s.offReady f = true → ∃ t, exec .flushEnd s = .next t ∧ shed { f with shed := true } t) ∧
       (s.offReady f = false → exec .flushEnd s = .next s))) ∧
   (∀ (s : State), s.inputClosed = true → s.power.flush = none →
     let waits (o : Host.Outcome State Fault Refusal) : Prop := ∃ t, o = .next t ∧ t.power.phase = .flush ∧
       t.power.flush = some ⟨4, true, s.gtc, false, s.flag FLT_STATUS_SAFE, false⟩ ∧ t.dram = s.dram ∧ t.cores = s.cores ∧ t.rings = s.rings
     (∀ (w : Writer) (value : Word32), natAt value 16 16 = 0x5A3C → bitAt value 0 = true → w = .sideband ∨ s.mayWrite w = true →
       waits (exec (.controlledPowerOff w value) s)) ∧
     waits (exec .ejectorOpen s) ∧
     (∀ temp : Int, 1150 ≤ temp → waits (exec (.thermalPowerOff temp) s)) ∧
     (∀ temp : Int, temp < 1150 → exec (.thermalPowerOff temp) s = .next s)) ∧
   (∀ (s : State) (f : Flush), s.power.flush = some f → f.shed = true →
     ∃ t, exec .flushEnd s = .next t ∧ t.power.phase = (if f.controlled then .off else .flushed) ∧ t.power.flush = none ∧
       t.power.writeProtect = true ∧ t.polder polPF = 0 ∧ t.gtc = s.gtc ∧ t.cores = s.cores ∧
       (s.flag MGT_BANK_ARMED = false → t.flash.nand = s.flash.nand) ∧
       (∀ n k x, s.polderOn polPF = true → s.flag MGT_BANK_ARMED = true → f.cut = false → f.safe = false → s.mounted = true →
         s.ftl.user.programming = false → s.ftl.gcStream.programming = false → s.flushTargets = [(n, k)] →
         Table.find s.ftl.superblocks n = some x → 3 ≤ x.members.length → k + s.ftl.journal.length + 3 ≤ s.stripesPer →
         t.ftl.journal = [] ∧ t.ftl.cursor.isSome = true))) ∧
  ((∀ (s : State), s.testDue = true → s.testMayStart = true → ∃ t, exec .capacitorTest s = .next t ∧
     t.power.test = some ⟨s.gtc, none, none, false⟩ ∧ t.power.testAsked = false ∧ t.fld MGT_HOLDUP_HU_LIMIT = s.huAt 5600 ∧ t.cores = s.cores) ∧
   (∀ (w : Writer) (s : State), s.mayWrite w = true →
     (86400 ≤ s.testAge → exec (.capacitorTestRequest w) s = .next { s with power := { s.power with testAsked := true } }) ∧
     (s.testAge < 86400 → ∃ t, exec (.capacitorTestRequest w) s = .next t ∧ t.flag MGT_TEST_CFG_REFUSED = true ∧ { t with regs := s.regs } = s)) ∧
   (∀ (drop : BitVec 16) (s : State) (x : CapTest), s.power.test = some x → x.connected = none →
     (s.ftl.dirty ≤ s.fld MGT_HOLDUP_HU_LIMIT * 65536 → ∃ t, exec (.testLoadConnect drop) s = .next t ∧
       t.power.test = some { x with connected := some (s.gtc, drop.toNat) } ∧ t.fld MGT_CAP_ESR_MOHM = drop.toNat ∧
       { t with power := s.power, regs := s.regs } = s) ∧
     (s.fld MGT_HOLDUP_HU_LIMIT * 65536 < s.ftl.dirty → 100000000 ≤ (s.gtc - x.at_).toNat → ∃ t, exec (.testLoadConnect drop) s = .next t ∧
       t.power.test = none ∧ t.flag MGT_TEST_CFG_POSTPONED = true ∧ (t.counter unitMGT 4).count = (s.counter unitMGT 4).count + 1 ∧ t.cores = s.cores)) ∧
   (∀ (s : State) (x : CapTest) (g : Word64) (drop ns : Nat), s.power.test = some x → x.connected = some (g, drop) → x.disconnected = none →
     ns = (s.gtc - g).toNat → s.fld MGT_BANK_VBANK ≤ 5600 ∨ 60000000 < ns →
     (ns ≤ 60000000 → drop < 4000 → ns / (4000 - drop) ≤ 8160 → ∃ t, exec .testLoadDisconnect s = .next t ∧
       t.fld MGT_CAP_C_UF = ns / (4000 - drop) ∧ t.power.test = some { x with disconnected := some s.gtc } ∧ t.power.faults = 0 ∧ t.cores = s.cores) ∧
     (60000000 < ns ∨ 4000 ≤ drop ∨ 8160 < ns / (4000 - drop) → ∃ t, exec .testLoadDisconnect s = .next t ∧
       t.flag MGT_HEALTH_TEST_FAULT = true ∧ t.fld MGT_CAP_C_UF = s.fld MGT_CAP_C_UF ∧ t.power.faults = s.power.faults + 1 ∧
       t.fld MGT_ERR_CNT_TEST_FAULTS = Min.min 0xFFFF (s.fld MGT_ERR_CNT_TEST_FAULTS + 1) ∧ { t with power := s.power, regs := s.regs } = s)) ∧
   (∀ (s : State) (x : CapTest), s.power.test = some x → x.disconnected.isSome = true → 5940 ≤ s.fld MGT_BANK_VBANK → s.power.flush = none →
     ∃ t, exec .testEnd s = .next t ∧ t.power.test = none ∧ t.power.tested = true ∧
       (2246 ≤ s.fld MGT_CAP_C_UF → s.power.faults < 2 → t.flag MGT_HEALTH_WORN = decide (s.fld MGT_CAP_C_UF < 4688) ∧
         t.flag MGT_HEALTH_ESR_HIGH = decide (500 < s.fld MGT_CAP_ESR_MOHM) ∧ t.flag MGT_HEALTH_FAILED = false ∧
         t.flag FLT_STATUS_SAFE = s.flag FLT_STATUS_SAFE ∧ t.cores = s.cores ∧ t.dram = s.dram) ∧
       (s.fld MGT_CAP_C_UF < 2246 ∨ 2 ≤ s.power.faults → t.flag MGT_HEALTH_FAILED = true ∧ t.flag FLT_STATUS_SAFE = true)) ∧
   (∀ (w : Writer) (n : BitVec 3) (value : Word32) (s : State), s.mayWrite w = true →
     ∃ t, exec (.restartWrite w n value) s = .next t ∧ t.reg (MGT_RESTART_HI + 12 * n.toNat) = value ∧
       Table.find t.power.restart n.toNat = some (s.reg (MGT_RESTART_DS + 12 * n.toNat), value ++ s.reg (MGT_RESTART_LO + 12 * n.toNat)) ∧
       { t with power := s.power, regs := s.regs } = s))

/-- R26, R487, R509, R551 to R554, R558, R559, R573: each source of doubt raises its code: the first doubt enters the safe state, with FIRST
and FIRST_LOG, its SOURCE bit, every sub-port down, transmitters off, write protection on and no descriptor left; in the safe
state it is only logged and counted; in a flash journal or sequencer during a flush it cuts the flush.
R566 to R571: a replay request that no check refuses starts the run, and one that is refused ends at once with its result block; a
run compares the digest, and after the last one the block holds outcome, runs and mismatches. -/
def Obligations.DoubtsAndReplays : Prop :=
  ((∀ (s : State) (polder : BitVec 4) (detail : BitVec 20) (address value : Word32) (c : CoreId) (w : Writer),
     s.power.flush = none →
     let doubts (code : Nat) (o : Host.Outcome State Fault Refusal) : Prop :=
       (s.flag FLT_STATUS_SAFE = false → ∃ t, o = .next t ∧ t.flag FLT_STATUS_SAFE = true ∧ t.fld FLT_STATUS_FIRST = code ∧
         t.fld FLT_STATUS_FIRST_LOG = s.fld FLT_LOG_HEAD_NEXT ∧ bitAt (t.reg FLT_SOURCE) code = true ∧ (∀ n, (t.subport n).up = false) ∧
         t.power.txDisable = true ∧ t.power.writeProtect = true ∧ t.taken = [] ∧ t.fault.testing = none ∧ t.fault.replay = none ∧
         t.gtc = s.gtc ∧ t.flash.nand = s.flash.nand) ∧
       (s.flag FLT_STATUS_SAFE = true → ∃ t, o = .next t ∧ t.flag FLT_STATUS_SAFE = true ∧ t.fld FLT_STATUS_FIRST = s.fld FLT_STATUS_FIRST ∧
         bitAt (t.reg FLT_SOURCE) code = true ∧ t.fld FLT_ERR_CNT_DOUBTS = Min.min 0xFFFF (s.fld FLT_ERR_CNT_DOUBTS + 1) ∧
         t.dram = s.dram ∧ t.cores = s.cores ∧ t.taken = s.taken ∧ t.power = s.power)
     doubts 1 (exec (.sramUe polder detail address) s) ∧ doubts 2 (exec (.dramUe polder detail address) s) ∧
     doubts 3 (exec (.clock polder) s) ∧ doubts 4 (exec (.voltage polder) s) ∧ doubts 4 (exec .nandRailTrip s) ∧
     (bitAt (s.reg FLT_WDOG_CFG) c.val = true →
       zeroActsAsOne (s.fld FLT_WDOG_CFG_PERIOD_MS) * 1000000 ≤ (s.gtc - Table.at 0 s.fault.kicks c.val).toNat → doubts 5 (exec (.watchdog c) s)) ∧
     doubts 6 (exec (.hsmAbort polder detail none) s) ∧ doubts 7 (exec (.selfCheck polder detail) s) ∧
     (w = .host ∨ w = .sideband → natAt value 16 16 = 0xC35A → bitAt value 0 = true → doubts 8 (exec (.force w value) s))) ∧
   (∀ (s : State) (polder : BitVec 4) (machine : BitVec 20) (c : CoreId) (tk : Ticket), s.power.flush = none → s.flag FLT_STATUS_SAFE = false →
     ∃ t, exec (.hsmAbort polder machine (some (c, tk))) s = .next t ∧ t.flag FLT_STATUS_SAFE = true ∧ t.fld FLT_STATUS_FIRST = 6 ∧ t.taken = []) ∧
   (∀ (s : State) (f : Flush) (polder : BitVec 4) (detail : BitVec 20) (address : Word32), s.power.flush = some f → f.shed = true →
     (∃ t, exec (.sramUe polder detail address) s = .next t ∧ t.power.flush = some { f with cut := f.cut || (polder.toNat == polPF) } ∧
       bitAt (t.reg FLT_SOURCE) 1 = true ∧ t.flag FLT_STATUS_SAFE = s.flag FLT_STATUS_SAFE ∧ t.cores = s.cores ∧ t.dram = s.dram) ∧
     (∃ t, exec (.hsmAbort polder detail none) s = .next t ∧ t.power.flush = some { f with cut := f.cut || (polder.toNat == polPF) } ∧
       bitAt (t.reg FLT_SOURCE) 6 = true ∧ t.flag FLT_STATUS_SAFE = s.flag FLT_STATUS_SAFE ∧ t.cores = s.cores ∧ t.dram = s.dram))) ∧
  ((∀ (w : Writer) (value : Word32) (block : Nat) (s : State), s.mayWrite w = true → s.flag FLT_RPL_REQ_HI_BUSY = false →
     block = (s.reg FLT_RPL_REQ_LO).toNat + natAt value 0 16 * 2 ^ 32 →
     (s.flag FLT_STATUS_SAFE = false → s.replayRefusal block = none → ∃ t, exec (.replayRequest (.request w value)) s = .next t ∧
       t.fault.replay = some ⟨block, 0, 0, 0xFFFFFFFF, 0⟩ ∧ t.flag FLT_RPL_REQ_HI_BUSY = true ∧ t.dram = s.dram ∧ t.cores = s.cores) ∧
     (s.flag FLT_STATUS_SAFE = true ∨ (s.replayRefusal block).isSome = true → ∃ t, exec (.replayRequest (.request w value)) s = .next t ∧
       t.fault.replay = none ∧ t.flag FLT_RPL_REQ_HI_BUSY = false ∧ t.flag FLT_RPL_REQ_HI_DONE = true ∧ t.cores = s.cores ∧ t.rings = s.rings)) ∧
   (∀ (digest : Word64) (piece : Option Word32) (temp : BitVec 16) (load : Byte) (s : State) (r : ReplayRun) (at_ : Nat) (differs : Bool),
     s.fault.replay = some r → differs = (digest.toNat != s.dramLe (s.dramLe r.block 8 + 0x30) 8 || piece.isSome) → at_ = s.dramLe (r.block + 8) 8 →
     (r.runs + 1 < zeroActsAsOne (s.dramLe (r.block + 0x24) 1) → ∃ t q, exec (.replayRequest (.ran digest piece temp load)) s = .next t ∧
       t.fault.replay = some q ∧ q.runs = r.runs + 1 ∧ q.mismatches = r.mismatches + differs.toNat ∧ q.digest = digest.toNat ∧ t.dram = s.dram ∧
       t.cores = s.cores) ∧
     (zeroActsAsOne (s.dramLe (r.block + 0x24) 1) ≤ r.runs + 1 → r.runs + 1 < 256 → ∃ t, exec (.replayRequest (.ran digest piece temp load)) s = .next t ∧
       t.fault.replay = none ∧ t.flag FLT_RPL_REQ_HI_BUSY = false ∧ t.flag FLT_RPL_REQ_HI_DONE = true ∧
       Mem.readLe t.dram at_ 1 = (if r.mismatches = 0 ∧ differs = false then 0 else 1) ∧ Mem.readLe t.dram (at_ + 1) 1 = r.runs + 1 ∧
       Mem.readLe t.dram (at_ + 8) 8 = digest.toNat ∧ (∀ a, a < at_ ∨ at_ + 64 ≤ a → Mem.get t.dram a = Mem.get s.dram a) ∧ t.cores = s.cores) ∧
     (s.dramLe (r.block + 0x20) 2 ≠ 0 → ∃ t, exec (.replayRequest (.unreached temp load)) s = .next t ∧ t.fault.replay = none ∧
       t.flag FLT_RPL_REQ_HI_DONE = true ∧ Mem.readLe t.dram at_ 1 = 5 ∧ (∀ a, a < at_ ∨ at_ + 64 ≤ a → Mem.get t.dram a = Mem.get s.dram a) ∧
       t.cores = s.cores)))

/-- R558 to R565, R573: a corrected flip is counted; KICK restarts the watchdogs it names, CLEAR returns the counters of its units to 0 and
LATCH copies those of one unit; a self-test request joins the queue or is refused, RETIRE takes the unit out of rotation; a test
begins once its unit is idle, and passes, which puts the unit back, or fails and is logged. -/
def Obligations.CountersAndSelfTests : Prop :=
  (∀ (s : State), ∃ t, exec .singleFlip s = .next t ∧ (t.counter unitFLT 0).count = (s.counter unitFLT 0).count + 1 ∧
    t.dram = s.dram ∧ t.cores = s.cores ∧ t.rings = s.rings) ∧
  (∀ (w : Writer) (s : State), s.mayWrite w = true →
    (∀ cores : BitVec 16, ∃ t, exec (.kick w cores) s = .next t ∧
      (∀ n, n < 16 → Table.at 0 t.fault.kicks n = if bitAt cores n then s.gtc else Table.at 0 s.fault.kicks n) ∧ { t with fault := s.fault } = s) ∧
    (∀ units : BitVec 24, ∃ t, exec (.clear w units) s = .next t ∧
      (∀ u k, u < 24 → k < 16 → t.counter u k = if bitAt units u then Counter.zero else s.counter u k) ∧
      (∀ u o, u < 24 → o ∈ errCounters → unitAt o = some u → t.reg o = if bitAt units u then 0 else s.reg o) ∧
      { t with regs := s.regs, events := s.events } = s) ∧
    (∀ unit : BitVec 5, ∃ t, exec (.latch w unit) s = .next t ∧
      (∀ k, k < 16 → Table.at Counter.zero t.eventSnap (eventKey unit.toNat k) = s.counter unit.toNat k) ∧
      (∀ o ∈ errCounters, unitAt o = some unit.toNat → Table.at 0 t.errSnap o = s.reg o) ∧
      { t with errSnap := s.errSnap, eventSnap := s.eventSnap } = s) ∧
    (∀ (cls : BitVec 4) (unit : BitVec 9),
      (s.testRefused cls.toNat unit.toNat = true → ∀ i ∈ [Instr.selfTestRequest w cls unit, Instr.retire w cls unit], ∃ t, exec i s = .next t ∧
        t.flag FLT_ST_STAT_REFUSED = true ∧ { t with regs := s.regs } = s) ∧
      (s.testRefused cls.toNat unit.toNat = false →
        (∃ t, exec (.selfTestRequest w cls unit) s = .next t ∧ t.fault.queue = s.fault.queue ++ [(cls.toNat, unit.toNat)] ∧
          t.fld FLT_ST_STAT_QUEUED = s.fault.queue.length + 1 ∧ { t with regs := s.regs, fault := s.fault } = s) ∧
        (∃ t, exec (.retire w cls unit) s = .next t ∧ t.inRotation cls.toNat unit.toNat = false ∧ t.dram = s.dram ∧ t.cores = s.cores ∧
          t.rings = s.rings)))) ∧
  (∀ (passes : Bool) (s : State) (cls unit : Nat),
    (∀ rest, s.fault.testing = none → s.fault.queue = (cls, unit) :: rest → cls < 13 → s.flag FLT_STATUS_SAFE = false →
      s.polderOn (classPolder cls) = true → s.unitIdle cls unit = true →
      ∃ t, exec (.selfTest passes) s = .next t ∧ t.fault.testing = some (cls, unit) ∧ t.fault.queue = rest ∧ t.flag FLT_ST_STAT_BUSY = true ∧
        t.fld FLT_ST_STAT_CLASS = cls ∧ t.fld FLT_ST_STAT_UNIT = unit % 512 ∧ t.dram = s.dram ∧ t.cores = s.cores ∧ t.rings = s.rings) ∧
    (s.fault.testing = some (cls, unit) →
      (∃ t, exec (.selfTest true) s = .next t ∧ t.fault.testing = none ∧ t.fld FLT_ST_STAT_LAST = 1 ∧ t.flag FLT_ST_STAT_BUSY = false ∧
        (∀ r b, rotationBit cls unit = some (r, b) → b < 32 → bitAt (t.reg r) b = true) ∧
        (t.counter unitFLT 1).count = (s.counter unitFLT 1).count + 1 ∧ t.dram = s.dram ∧ t.cores = s.cores) ∧
      (∃ t, exec (.selfTest false) s = .next t ∧ t.fault.testing = none ∧ t.fld FLT_ST_STAT_LAST = 2 ∧ t.flag FLT_ST_STAT_BUSY = false ∧
        t.fld FLT_ERR_CNT_ST_FAIL = Min.min 0xFFFF (s.fld FLT_ERR_CNT_ST_FAIL + 1) ∧ t.dram = s.dram ∧ t.cores = s.cores)))

/-- R575 to R578, R618: IDCODE shifts out the code of the part and every other instruction bypasses; a scan shifts out the response to the
previous request and carries its own out: LOCKED outside the unlocked scope, registers of halted cores, memory at M, and BAR2.
R13, R579 to R590: a SYNC or MARK record goes to the buffer at the write pointer; ARM clears TRIGGERED and FROZEN; FIRE takes an armed trigger at
the write pointer; after the records that follow it the buffer freezes; the port sends the oldest unsent record with the next
SEQ. A register without a behaviour of its own takes a write by its access codes. -/
def Obligations.DebugAndTrace : Prop :=
  (∀ (s : State), s.powered = true → s.polderOn polPG = true → s.dap.waiting = none →
     (∃ t, exec .idcode s = .next t ∧ t.dap.ir = 0x01 ∧ t.dap.out = s.dap.out ++ [BitVec.ofNat 120 s.idcode] ∧ { t with dap := s.dap } = s) ∧
     (∀ ir : BitVec 5, ir ≠ 0x01 → ir ≠ 0x10 → exec (.bypass ir) s = .next { s with dap := { s.dap with ir := ir } }) ∧
     (∀ (space : BitVec 2) (addr : BitVec 48) (data : Word64), s.dapOpen space = false →
       ∀ i ∈ [Instr.dapRead space addr, Instr.dapWrite space addr data], ∃ t, exec i s = .next t ∧ t.dap.out = s.dap.out ++ [s.dap.response] ∧
         t.dap.response = dapResponse dapLOCKED 0 ∧ { t with dap := s.dap } = s) ∧
     (∀ (c : CoreId) (n : Nat) (addr : BitVec 48) (v data : Word64), s.dapOpen 2 = true → addr = BitVec.ofNat 48 (n + c.val * 65536) → n < 65536 →
       ((s.core c).halted = true → s.dapCoreRead c n = some v →
         (∃ t, exec (.dapRead 2 addr) s = .next t ∧ t.dap.out = s.dap.out ++ [s.dap.response] ∧ t.dap.response = dapResponse dapOK v ∧
           { t with dap := s.dap } = s) ∧
         (n < 0x1000 ∨ csrReadOnly (n - 0x1000) = false → ∃ t, exec (.dapWrite 2 addr data) s = .next t ∧ t.dap.response = dapResponse dapOK 0 ∧
           t.core c = (s.core c).dapWrite n data ∧ (∀ d : CoreId, d ≠ c → t.core d = s.core d) ∧ { t with dap := s.dap, cores := s.cores } = s)) ∧
       ((s.core c).halted = false → ∃ t, exec (.dapRead 2 addr) s = .next t ∧ t.dap.response = dapResponse dapERROR 0 ∧ { t with dap := s.dap } = s)) ∧
     (∀ (addr : BitVec 48) (data : Word64), s.dapOpen 1 = true → addr.toNat % 8 = 0 →
       (s.mapAllows privM .load addr.toNat 8 false = true → s.hasDataError addr.toNat 8 = false →
         ∃ t, exec (.dapRead 1 addr) s = .next t ∧ t.dap.response = dapResponse dapOK (BitVec.ofNat 64 (leNat (s.physBytes addr.toNat 8))) ∧
           { t with dap := s.dap } = s) ∧
       (s.mapAllows privM .store addr.toNat 8 false = true →
         ∃ t, exec (.dapWrite 1 addr data) s = .next t ∧ t.dap.response = dapResponse dapOK 0 ∧ StoredBytes s t addr.toNat 8 data.toNat ∧
           t.cores = s.cores ∧ t.regs = s.regs)) ∧
     (∀ (addr : BitVec 48) (data : Word64) (off p : Nat), s.dapOpen 0 = true → addr.toNat = off → off % 4 = 0 → off < 0x08000000 →
       (unitAt off).map unitPolder = some p → s.polderOn p = true →
       ∃ u : State, u = { s with dap := { s.dap with ir := 0x10, out := s.dap.out ++ [s.dap.response] } } ∧
         exec (.dapRead 0 addr) s = .next { (u.readReg off).2 with
           dap := { (u.readReg off).2.dap with response := dapResponse dapOK ((u.readReg off).1.setWidth 64), waiting := none } } ∧
         exec (.dapWrite 0 addr data) s = .next { u.writeReg .debugPort off (data.setWidth 32) with
           dap := { (u.writeReg .debugPort off (data.setWidth 32)).dap with response := dapResponse dapOK 0, waiting := none } })) ∧
  ((∀ (s : State) (r : TraceRec) (w : Writer) (value : Word32) (i : Instr), s.polderOn polPG = true → s.flag DBG_STAT_FROZEN = false →
     s.flag DBG_CTL_CAPTURE = true → s.trace.lostAt = none →
     ((i = .traceSync ∧ s.gtc.toNat % 2 ^ 20 = 0 ∧ bitAt (s.reg DBG_CTL) 1 = true ∧
         r = ⟨5, 10, BitVec.ofNat 32 (s.fld GTC_SYNC_STATE), s.gtc,
           BitVec.ofNat 128 ((s.reg GTC_OFFSET).toNat + (s.reg GTC_RATE).toNat * 2 ^ 32 + natAt s.part.serial 0 64 * 2 ^ 64)⟩) ∨
       (i = .mark w value ∧ s.mayWrite w = true ∧ bitAt (s.reg DBG_CTL) 4 = true ∧ r = ⟨0x0C, 10, value, s.gtc, BitVec.ofNat 128 (markCode w)⟩)) →
     ∃ t, exec i s = .next t ∧ Table.at TraceRec.empty t.trace.buf (s.fld DBG_STAT_WPTR) = r ∧
       (∀ k, k ≠ s.fld DBG_STAT_WPTR → Table.at TraceRec.empty t.trace.buf k = Table.at TraceRec.empty s.trace.buf k) ∧
       t.fld DBG_STAT_WPTR = (s.fld DBG_STAT_WPTR + 1) % 524288 ∧ t.trace.written = s.trace.written + 1 ∧
       t.flag DBG_STAT_FROZEN = decide (s.trace.left = 1) ∧ t.dram = s.dram ∧ t.cores = s.cores ∧ t.gtc = s.gtc) ∧
   (∀ (w : Writer) (s : State), s.mayWrite w = true → s.polderOn polPG = true →
     (∃ t, exec (.arm w) s = .next t ∧ t.flag DBG_STAT_ARMED = true ∧ t.flag DBG_STAT_TRIGGERED = false ∧ t.flag DBG_STAT_FROZEN = false ∧
       t.trace.frozenGap = none ∧ t.dram = s.dram ∧ t.cores = s.cores) ∧
     (s.flag DBG_STAT_ARMED = true → s.flag DBG_STAT_TRIGGERED = false → bitAt (s.reg DBG_TRIG_CFG) 0 = true →
       ∃ t, exec (.fire w) s = .next t ∧ t.flag DBG_STAT_ARMED = false ∧ t.flag DBG_STAT_TRIGGERED = true ∧
         t.fld DBG_TRIG_PTR_PTR = s.fld DBG_STAT_WPTR ∧ t.dram = s.dram ∧ t.cores = s.cores)) ∧
   (∀ (s : State), s.flag DBG_STAT_TRIGGERED = true → s.trace.left = 0 →
     ∃ t, exec .frozen s = .next t ∧ t.flag DBG_STAT_FROZEN = true ∧ { t with regs := s.regs } = s) ∧
   (∀ (s : State), s.polderOn polPG = true → s.portSending = true →
     (∀ g, s.trace.overGap = some g → ∃ t, exec .tracePortSend s = .next t ∧
       ((s.counter unitDBG 1).count ≠ -1 → t.trace.overGap = none ∧ t.trace.passed = s.trace.passed) ∧
       t.trace.port = s.trace.port ++ [(s.trace.seq, gapRecord g 0)] ∧ t.trace.seq = s.trace.seq + 1 ∧ t.dram = s.dram ∧ t.cores = s.cores) ∧
     (s.trace.overGap = none → s.trace.passed < s.trace.written → s.trace.written ≤ s.trace.passed + 524288 →
       ∃ t, exec .tracePortSend s = .next t ∧ ((s.counter unitDBG 1).count ≠ -1 → t.trace.passed = s.trace.passed + 1) ∧ t.trace.seq = s.trace.seq + 1 ∧
         t.trace.port = s.trace.port ++ [(s.trace.seq, Table.at TraceRec.empty s.trace.buf
           ((s.fld DBG_STAT_WPTR + 524288 - (s.trace.written - s.trace.passed)) % 524288))] ∧ t.dram = s.dram ∧ t.cores = s.cores)) ∧
   (∀ (w : Writer) (off : BitVec 27) (value : Word32) (s : State) (a : Nat), a = off.toNat / 4 * 4 → w ≠ .sideband → s.mayWrite w = true →
     (a ∈ [POL_LADDER, MGT_RESTART_DS, MGT_RESTART_LO, GTC_TERM, GTC_LEASE_LO, FLT_WDOG_CFG, FLT_RPL_REQ_LO, SEC_ACT_AT_LO] →
       ∃ t r, exec (.registerWrite w off value) s = .next t ∧ regRowAt a = some r ∧ t.reg a = writtenWord r (s.reg a) value ∧
         (∀ b, b ≠ a → t.reg b = s.reg b) ∧ { t with regs := s.regs } = s) ∧
     (unitAt a = none → exec (.registerWrite w off value) s = .next s)))

/-- R601 to R609, R618: ATTEST signs a report of the next index for a token, and answers EXHAUSTED or RATE_LIMITED otherwise; a token comes
back each second; READ_CERT answers a page of the certificate area; a challenge is kept, and a good token for it unlocks the
port in its scope, while the third failure blocks it.
R610 to R617, R619, R620: image bytes reach the staging area; a commit of an image that every check admits starts the write of the boot
flash, and any other is refused with its reason; the end of a write that reads back leaves the image in the boot flash, a
first bad readback writes again. SVN_COMMIT raises the fuses to the running image's version; an activation is armed 100 ms ahead
once an image is written, is disarmed by a write, and at its value fences the module and makes a warm reset. -/
def Obligations.IdentityAndFirmware : Prop :=
  ((∀ (w : Writer) (s : State), s.mayMail w = true →
     (s.sec.next < 2 ^ 30 → s.fld SEC_ATT_TOKENS_TOKENS ≠ 0 → ∃ t, exec (.attest w) s = .next t ∧ t.sec.next = s.sec.next + 1 ∧
       t.fld SEC_ATT_TOKENS_TOKENS = s.fld SEC_ATT_TOKENS_TOKENS - 1 ∧ t.fld SEC_MBOX_CTL_STATUS = 0 ∧ t.flag SEC_MBOX_CTL_DONE = true ∧
       Mem.bytes t.sec.mbox 0 200 = s.reportBody s.sec.next ∧ s.sec.next < t.sec.reserved ∧ t.dram = s.dram ∧ t.cores = s.cores) ∧
     (2 ^ 30 ≤ s.sec.next → ∃ t, exec (.attest w) s = .next t ∧ t.fld SEC_MBOX_CTL_STATUS = 3 ∧ t.flag SEC_MBOX_CTL_DONE = true ∧
       t.sec.next = s.sec.next ∧ t.fld SEC_ATT_TOKENS_TOKENS = s.fld SEC_ATT_TOKENS_TOKENS) ∧
     (s.sec.next < 2 ^ 30 → s.fld SEC_ATT_TOKENS_TOKENS = 0 → ∃ t, exec (.attest w) s = .next t ∧ t.fld SEC_MBOX_CTL_STATUS = 2 ∧
       t.flag SEC_MBOX_CTL_DONE = true ∧ t.sec.next = s.sec.next) ∧
     (∀ off, off = leNat (s.mailBytes 0 4) → off % 4096 = 0 → off < 65536 → ∃ t, exec (.readCert w) s = .next t ∧ t.fld SEC_MBOX_CTL_STATUS = 0 ∧
       Mem.bytes t.sec.mbox 0 4096 = Mem.bytes s.bootFlash (0x400000 + off) 4096 ∧ t.fld SEC_MBOX_CTL_LEN = 512 ∧
       { t with sec := s.sec, regs := s.regs } = s) ∧
     (leNat (s.mailBytes 0 4) % 4096 ≠ 0 → ∃ t, exec (.readCert w) s = .next t ∧ t.fld SEC_MBOX_CTL_STATUS = 4) ∧
     (∃ t bytes, exec (.dbgChallenge w) s = .next t ∧ bytes.length = 32 ∧ t.sec.challenge = some (bytes, s.gtc) ∧ Mem.bytes t.sec.mbox 0 32 = bytes ∧
       t.fld SEC_MBOX_CTL_STATUS = 0 ∧ { t with sec := s.sec, regs := s.regs, free := s.free } = s) ∧
     (s.flag SEC_DBG_BLOCKED = false → s.tokenGood = true → ∃ t, exec (.dbgUnlock w) s = .next t ∧ t.flag SEC_DBG_UNLOCKED = true ∧
       t.fld SEC_DBG_SCOPE = leNat (s.mailBytes 60 4) % 4 ∧ t.fld SEC_MBOX_CTL_STATUS = 0 ∧ t.sec.challenge = none ∧ t.sec.failures = 0 ∧
       { t with sec := s.sec, regs := s.regs } = s) ∧
     (s.flag SEC_DBG_BLOCKED = false → s.tokenGood = false → ∃ t, exec (.dbgUnlock w) s = .next t ∧ t.sec.failures = s.sec.failures + 1 ∧
       t.fld SEC_MBOX_CTL_STATUS = 5 ∧ t.flag SEC_DBG_UNLOCKED = s.flag SEC_DBG_UNLOCKED ∧ t.flag SEC_DBG_BLOCKED = decide (2 ≤ s.sec.failures) ∧
       { t with sec := s.sec, regs := s.regs } = s) ∧
     (s.flag SEC_DBG_BLOCKED = true → ∃ t, exec (.dbgUnlock w) s = .next t ∧ t.fld SEC_MBOX_CTL_STATUS = 5 ∧ t.sec.failures = s.sec.failures)) ∧
   (∀ (s : State),
     (1000000000 ≤ (s.gtc - s.sec.refilled).toNat → ∃ t, exec .tokenRefill s = .next t ∧
       t.fld SEC_ATT_TOKENS_TOKENS = Min.min 16 (s.fld SEC_ATT_TOKENS_TOKENS + 1) ∧ t.sec.refilled = s.sec.refilled + 1000000000 ∧
       { t with sec := s.sec, regs := s.regs } = s) ∧
     ((s.gtc - s.sec.refilled).toNat < 1000000000 → exec .tokenRefill s = .next s))) ∧
  ((∀ (cid : BitVec 16) (off : Nat) (data : List Byte) (s : State),
     (s.sec.commit.isSome = true → exec (.firmwareImageDownload (.manager cid) off data) s =
       .next { s with host := { s.host with replies := s.host.replies ++ [⟨cid.toNat, 0, nvmeProhibited, []⟩] } }) ∧
     (s.sec.commit = none → off % 4 = 0 → off < 50331648 → off + data.length ≤ 50331648 → (∀ r ∈ s.sec.got, apart r.1 r.2 off data.length = true) →
       Sec.complete { s.sec with got := s.sec.got ++ [(off, data.length)] } 0 = false →
       ∃ t, exec (.firmwareImageDownload (.manager cid) off data) s = .next t ∧ t.sec.stage = Mem.store s.sec.stage off data ∧
         t.sec.got = s.sec.got ++ [(off, data.length)] ∧ t.host.replies = s.host.replies ++ [⟨cid.toNat, 0, nvmeOk, []⟩] ∧
         { t with sec := s.sec, host := s.host } = s) ∧
     (s.sec.commit = none → (∃ r ∈ s.sec.got, apart r.1 r.2 off data.length = false) → off % 4 = 0 → off < 50331648 → off + data.length ≤ 50331648 →
       exec (.firmwareImageDownload (.manager cid) off data) s =
         .next { s with host := { s.host with replies := s.host.replies ++ [⟨cid.toNat, 0, nvmeOverlap, []⟩] } })) ∧
   (∀ (cid : BitVec 16) (ca : BitVec 3) (s : State), ca.toNat ≤ 1 → s.sec.commit = none →
     (∀ reason, s.imageReason s.sec.stage 0 = some reason → ∃ t, exec (.firmwareCommit (.manager cid) 1 ca) s = .next t ∧ t.sec.stage = [] ∧
       t.sec.got = [] ∧ t.fld SEC_FW_STATE_REASON = reason ∧ t.host.replies = s.host.replies ++ [⟨cid.toNat, 0, nvmeBadImage, []⟩] ∧
       t.bootFlash = s.bootFlash ∧ t.dram = s.dram ∧ t.cores = s.cores) ∧
     (s.imageReason s.sec.stage 0 = none → revocationMask s.sec.stage = none → ∃ t, exec (.firmwareCommit (.manager cid) 1 ca) s = .next t ∧
       t.sec.commit = some ⟨.manager cid.toNat, ca.toNat, 1⟩ ∧ t.fld SEC_FW_STATE_STATE = 2 ∧ t.host.replies = s.host.replies ∧ t.dram = s.dram ∧
       t.cores = s.cores)) ∧
   (∀ (cid : BitVec 16) (fs ca : BitVec 3) (s : State),
     (fs ≠ 1 → exec (.firmwareCommit (.manager cid) fs ca) s =
       .next { s with host := { s.host with replies := s.host.replies ++ [⟨cid.toNat, 0, nvmeBadSlot, []⟩] } }) ∧
     (∀ e s', s.takeNvme 0 true 0x10 = some (0, e, s') → cmdBadPsdt e = false → cmdDw e 10 % 8 ≠ 1 →
       exec (.firmwareCommit .nvme fs ca) s = .next (s'.nvmeComplete 0 0 (cmdCid e) 0 nvmeBadSlot)) ∧
     (∀ e s' off data, s.takeNvme 0 true 0x11 = some (0, e, s') → cmdBadPsdt e = false → s'.sec.commit.isSome = true →
       exec (.firmwareImageDownload .nvme off data) s = .next (s'.nvmeComplete 0 0 (cmdCid e) 0 nvmeProhibited))) ∧
   (∀ (s : State) (c : FwCommit) (loader : Bool), s.sec.commit = some c →
     (∀ cid, c.sender = .manager cid → s.sec.commits = [] → s.loaderOnly = false → ∃ t, exec (.imageWriteDone true loader) s = .next t ∧
       t.bootFlash = Mem.store s.bootFlash 0x1000000 (Mem.bytes s.sec.stage 0 (imageBlocks s.sec.stage 0 * 65536)) ∧ t.sec.commit = none ∧
       t.fld SEC_FW_STATE_STATE = 3 ∧ t.host.replies = s.host.replies ++ [⟨cid, 0, if c.ca = 1 then nvmeNeedsReset else nvmeOk, []⟩] ∧
       t.dram = s.dram ∧ t.cores = s.cores) ∧
     (c.tries < 2 → exec (.imageWriteDone false loader) s =
       .next { s with sec := { s.sec with commit := some { c with tries := c.tries + 1 } } })) ∧
   (∀ (w : Writer) (s : State), s.mayWrite w = true →
     (∀ i, s.sec.image = some i → ∃ t, exec (.svnCommit w) s = .next t ∧ t.sec.otp.svn = Max.max s.sec.otp.svn i.2.2 ∧ { t with sec := s.sec, regs := s.regs } = s) ∧
     (∀ (value : Word32) (g : Word64), g = value ++ s.reg SEC_ACT_AT_LO → s.gtc.toNat + 100000000 ≤ g.toNat → s.fld SEC_FW_STATE_STATE = 3 →
       ∃ t, exec (.activationArm w value) s = .next t ∧ t.flag SEC_ACT_STAT_ARMED = true ∧ t.sec.actAt = g ∧ { t with sec := s.sec, regs := s.regs } = s) ∧
     (∀ value : Word32, (value ++ s.reg SEC_ACT_AT_LO : Word64).toNat < s.gtc.toNat + 100000000 ∨ s.fld SEC_FW_STATE_STATE ≠ 3 →
       ∃ t, exec (.activationArm w value) s = .next t ∧ t.flag SEC_ACT_STAT_LATE = true ∧ { t with regs := s.regs } = s) ∧
     (s.flag SEC_ACT_STAT_ARMED = true → ∃ t, exec (.disarm w) s = .next t ∧ t.flag SEC_ACT_STAT_ARMED = false ∧ t.flag SEC_ACT_STAT_MISSED = true ∧
       { t with regs := s.regs } = s)) ∧
   (∀ (s : State), s.flag SEC_ACT_STAT_ARMED = true → s.sec.actAt ≤ s.gtc → s.power.phase.resets = true →
     ∃ t, exec (.activation true) s = .next t ∧ t.flag GTC_FENCE_FENCED = true ∧ t.cores = Vector.replicate 16 Core.reset ∧ t.dram = [] ∧
       t.flag SEC_ACT_STAT_ARMED = false ∧ t.gtc = s.gtc))

/-- The queue of commands: a step with a command at the front is that command's effect on the machine with the rest of the queue, first in,
first out. -/
def Obligations.StepRunsFrontCommand : Prop :=
  ∀ (c : Instr) (rest : List Instr) (s : State), step { s with pending := c :: rest } = exec c { s with pending := rest }

/-- No command adds a command to the queue, drops one or changes their order: a step takes the front one alone, and an idle step
takes none. -/
def Obligations.StepTakesOneCommand : Prop :=
  ∀ (s t : State), step s = .next t → t.pending = s.pending.tail

/-- R27, R458: on an empty queue an idle step is one tick of the GTC, a nanosecond (the model's choice, log entry 5): the count moves on by one,
and by the step of R458 that is due once no launch is pending; without power nothing happens. Every step answers a next state:
no command faults and none is refused. -/
def Obligations.IdleTicksAndNothingStops : Prop :=
  (∀ (s : State), s.pending = [] →
    (s.powered = true → ∃ t, step s = .next t ∧ t.pending = [] ∧ t.part = s.part ∧ t.flash.nand = s.flash.nand ∧
      (s.system.stepDue = none → t.gtc = s.gtc + 1) ∧
      (∀ d, s.system.stepDue = some d → s.noLaunch = true → t.gtc = s.gtc + 1 + BitVec.ofInt 64 d)) ∧
    (s.powered = false → step s = .next s)) ∧
  (∀ (s : State), Safe (step s))

/-- R36, R37, R66, R67, R489, R503, R528, R573, R599, R607: after reset every core is at M with interrupts disabled and PREV_PRIV_M 0b10, every general and
vector register 0, every CSR at its value and `pc` at the core reset vector; CC0 alone is out of reset, PA alone is ON, the GTC
stands at 0, and registers read their reset values. Memory lists nothing, and the two invariants hold. -/
def Obligations.AfterReset : Prop :=
  (∀ (c : CoreId) (k : Core), (k = State.reset.core c ∨ k = Core.reset) → k.priv = privM ∧ k.ieM = false ∧ k.ieS = false ∧ k.prevPrivM = 2 ∧
    k.status = 0x2002 ∧ k.pc = 0 ∧ (∀ r : RegField, k.reg r = 0 ∧ k.vreg r = 0) ∧ k.fflags = 0 ∧ k.cycle = 0 ∧ k.instret = 0 ∧
    k.trapVecS = 0 ∧ k.trapPcS = 0 ∧ k.trapCauseS = 0 ∧ k.trapValS = 0 ∧ k.scratchS = 0 ∧
    k.trapVecM = 0 ∧ k.trapPcM = 0 ∧ k.trapCauseM = 0 ∧ k.trapValM = 0 ∧ k.scratchM = 0 ∧ k.deleg = 0 ∧ k.irqEn = 0 ∧
    k.gtcCmp = BitVec.allOnes 64 ∧ k.bpCtl = 0 ∧ k.wpCtl = 0 ∧ k.halted = false ∧ k.wait = none ∧ k.tickets = []) ∧
  (∀ c : CoreId, State.reset.outOfReset c = decide (c = 0)) ∧
  (∀ p, p ≤ 10 → State.reset.polder p = if p = 0 then 3 else 0) ∧
  State.reset.gtc = 0 ∧ State.reset.reg POL_PAD = BitVec.ofNat 32 (0x7FE * 65536) ∧ State.reset.fld POL_LADDER_BUDGET_W = 24 ∧
  State.reset.fld POL_LADDER_SPACING_US = 50 ∧ State.reset.fld POL_STAGGER_STEP_US = 200 ∧ State.reset.fld MGT_CAP_C_UF = 5440 ∧
  State.reset.fld FLT_WDOG_CFG_PERIOD_MS = 500 ∧ State.reset.fld FLT_WDOG_CFG_EN = 3 ∧ State.reset.fld FTL_JNL_CFG_DIRTY_LIMIT = 256 ∧
  State.reset.fld DBG_CTL_SRC_EN = 0x3F ∧ State.reset.fld SEC_ATT_TOKENS_TOKENS = 16 ∧ State.reset.flag FLT_STATUS_SAFE = false ∧
  State.reset.pending = [] ∧ State.reset.dram = [] ∧ State.reset.rings = [] ∧ State.reset.taken = [] ∧ State.reset.power.phase = .cold ∧
  State.reset.memWf ∧ ∀ c, (State.reset.core c).statusLegal

/-- The byte memories (DRAM, host memory and the boot flash) keep their canonical form in every step: equal memories are equal data. -/
def Obligations.MemoryFormKept : Prop :=
  ∀ (s t : State), s.memWf → step s = .next t → t.memWf

/-- R37, R66, R67: in every step, whatever command it runs, each core's level stays one of U, S and M, PREV_PRIV_M never holds 0b11, and
the reserved bits of STATUS stay 0. -/
def Obligations.PrivilegeLevelsKept : Prop :=
  ∀ (s t : State), (∀ c, (s.core c).statusLegal) → step s = .next t → ∀ c, (t.core c).statusLegal
end

