-- ==== Sys2Proof/Laws/Mem.lean ====
section
/-!
SUPPORT. The canonical form of tables and byte memories: every operation over them keeps it, and what a read answers after a write.
-/

namespace Sys2Proof.Machine

/-- The canonical form, as keys that rise and entries that differ from the default. -/
theorem Table.canonical_iff {α : Type} [DecidableEq α] {d : α} {t : Table α} :
    Table.canonical d t = true ↔ t.Pairwise (fun a b => a.1 < b.1) ∧ ∀ e ∈ t, e.2 ≠ d := by
  induction t with
  | nil => simp [canonical]
  | cons e t ih =>
    obtain ⟨j, x⟩ := e
    cases t with
    | nil => simp [canonical]
    | cons f t =>
      obtain ⟨k, y⟩ := f
      simp only [canonical, Bool.and_eq_true, ih, bne_iff_ne, decide_eq_true_eq, List.pairwise_cons, List.forall_mem_cons]
      constructor
      · rintro ⟨⟨hx, hjk⟩, ⟨hk, hp⟩, hy, hd⟩
        exact ⟨⟨⟨hjk, fun e he => Nat.lt_trans hjk (hk e he)⟩, hk, hp⟩, hx, hy, hd⟩
      · rintro ⟨⟨⟨hjk, -⟩, hk, hp⟩, hx, hy, hd⟩
        exact ⟨⟨hx, hjk⟩, ⟨hk, hp⟩, hy, hd⟩

theorem Table.mem_put {α : Type} {t : Table α} {k : Nat} {x : α} {e : Nat × α} (h : e ∈ t.put k x) : e = (k, x) ∨ e ∈ t := by
  induction t with
  | nil => simpa [put] using h
  | cons f t ih =>
    simp only [put] at h
    split at h
    · simpa using h
    · split at h
      · rcases List.mem_cons.1 h with h | h
        · exact .inl h
        · exact .inr (List.mem_cons_of_mem _ h)
      · rcases List.mem_cons.1 h with h | h
        · exact .inr (h ▸ List.mem_cons_self)
        · exact (ih h).imp id (List.mem_cons_of_mem _)

theorem Table.drop_sublist {α : Type} (t : Table α) (k : Nat) : (t.drop k).Sublist t := by
  induction t with
  | nil => exact List.Sublist.slnil
  | cons f t ih =>
    simp only [drop]
    split
    · exact ih.cons _
    · exact ih.cons_cons _

theorem Table.put_rising {α : Type} {t : Table α} (h : t.Pairwise (fun a b => a.1 < b.1)) (k : Nat) (x : α) :
    (t.put k x).Pairwise (fun a b => a.1 < b.1) := by
  induction t with
  | nil => simp [put]
  | cons f t ih =>
    obtain ⟨hf, ht⟩ := List.pairwise_cons.1 h
    simp only [put]
    split
    next hk =>
      refine List.pairwise_cons.2 ⟨fun e he => ?_, h⟩
      rcases List.mem_cons.1 he with he | he
      · exact he ▸ hk
      · exact Nat.lt_trans hk (hf e he)
    next =>
      split
      next hk => exact List.pairwise_cons.2 ⟨fun e he => hk ▸ hf e he, ht⟩
      next hk hne =>
        refine List.pairwise_cons.2 ⟨fun e he => ?_, ih ht⟩
        rcases mem_put he with he | he
        · subst he; exact Nat.lt_of_le_of_ne (Nat.le_of_not_lt hk) (Ne.symm hne)
        · exact hf e he

/-- A write keeps the canonical form. -/
theorem Table.write_canonical {α : Type} [DecidableEq α] {d : α} {t : Table α} (h : Table.canonical d t = true) (k : Nat) (x : α) :
    Table.canonical d (t.write d k x) = true := by
  rw [canonical_iff] at h ⊢
  rw [write]
  split
  · exact ⟨h.1.sublist (drop_sublist t k), fun e he => h.2 e ((drop_sublist t k).subset he)⟩
  · refine ⟨put_rising h.1 k x, fun e he => ?_⟩
    rcases mem_put he with he | he
    · subst he; assumption
    · exact h.2 e he

theorem Table.find_put {α : Type} (t : Table α) (k j : Nat) (x : α) :
    (t.put k x).find j = if j = k then some x else t.find j := by
  induction t with
  | nil =>
    by_cases h : j = k
    · simp [put, find, h]
    · simp [put, find, h, Ne.symm h]
  | cons f t ih =>
    simp only [put]
    split
    next hk =>
      by_cases h : j = k
      · simp [find, h]
      · simp [find, h, Ne.symm h]
    next =>
      split
      next hk =>
        by_cases h : j = k
        · simp [find, h]
        · have : ¬ f.1 = j := fun e => h (e ▸ hk.symm)
          simp [find, h, Ne.symm h, this]
      next hk hne =>
        by_cases hj : f.1 = j
        · have : ¬ j = k := fun e => hne (e ▸ hj.symm)
          simp [find, hj, this]
        · have e : (f.1 == j) = false := by simpa using hj
          simpa only [find, List.find?_cons, e] using ih

theorem Table.find_drop {α : Type} (t : Table α) (k j : Nat) : (t.drop k).find j = if j = k then none else t.find j := by
  induction t with
  | nil => simp [drop, find]
  | cons f t ih =>
    simp only [drop]
    split
    next hk =>
      rw [ih]
      split
      · rfl
      next h =>
        have : ¬ f.1 = j := fun e => h (e ▸ hk.symm)
        simp [find, this]
    next hk =>
      by_cases hj : f.1 = j
      · have : ¬ j = k := fun e => hk (e ▸ hj.symm)
        simp [find, hj, this]
      · have e : (f.1 == j) = false := by simpa using hj
        simpa only [find, List.find?_cons, e] using ih

/-- A read after a write. -/
theorem Table.at_write {α : Type} [DecidableEq α] (d : α) (t : Table α) (k j : Nat) (x : α) :
    Table.at d (t.write d k x) j = if j = k then x else Table.at d t j := by
  unfold Table.at write
  split
  next h => rw [find_drop]; split <;> simp [h]
  next => rw [find_put]; split <;> rfl

/-- No byte listed: canonical. -/
theorem Mem.wf_nil : Mem.wf [] = true := rfl

theorem Mem.wf_set {m : Mem} (h : m.wf = true) (a : Nat) (b : Byte) : (m.set a b).wf = true := Table.write_canonical h a b

/-- Storing bytes keeps the canonical form. -/
theorem Mem.wf_store {m : Mem} (h : m.wf = true) (a : Nat) (bs : List Byte) : (m.store a bs).wf = true := by
  induction bs generalizing m a with
  | nil => exact h
  | cons b bs ih => exact ih (wf_set h a b) _

theorem Mem.wf_writeLe {m : Mem} (h : m.wf = true) (a n v : Nat) : (m.writeLe a n v).wf = true := wf_store h a _

theorem Mem.wf_clear {m : Mem} (h : m.wf = true) (a n : Nat) : (m.clear a n).wf = true := by
  simp only [wf, clear, Table.canonical_iff] at h ⊢
  exact ⟨h.1.sublist List.filter_sublist, fun e he => h.2 e (List.mem_filter.1 he).1⟩

theorem Mem.get_set (m : Mem) (a x : Nat) (b : Byte) : (m.set a b).get x = if x = a then b else m.get x :=
  Table.at_write memUnlisted m a x b

/-- What a byte reads as after bytes were stored from `a` upwards. -/
theorem Mem.get_store (m : Mem) (a x : Nat) (bs : List Byte) :
    (m.store a bs).get x = if a ≤ x ∧ x < a + bs.length then nth 0 bs (x - a) else m.get x := by
  induction bs generalizing m a with
  | nil => simp only [store, List.length_nil]; rw [if_neg]; omega
  | cons b bs ih =>
    rw [store, ih, get_set]
    by_cases h1 : x = a
    · subst h1
      rw [if_neg (by omega), if_pos rfl, if_pos (by simp)]
      simp [nth]
    · by_cases h2 : a ≤ x ∧ x < a + (b :: bs).length
      · rw [if_pos h2, if_pos (by simp only [List.length_cons] at h2; omega)]
        have : x - a = (x - (a + 1)) + 1 := by omega
        simp [nth, this]
      · rw [if_neg h2, if_neg (by simp only [List.length_cons] at h2; omega), if_neg h1]

theorem leBytes_length (n v : Nat) : (leBytes n v).length = n := by
  induction n generalizing v with
  | zero => rfl
  | succ n ih => simp [leBytes, ih]

theorem leBytes_getD (n v i : Nat) (h : i < n) : (leBytes n v).getD i 0 = BitVec.ofNat 8 (v / 256 ^ i) := by
  induction n generalizing v i with
  | zero => omega
  | succ n ih =>
    cases i with
    | zero => simp [leBytes]
    | succ i =>
      have := ih (v / 256) i (by omega)
      simp only [leBytes, List.getD_cons_succ, this, Nat.div_div_eq_div_mul, Nat.pow_succ, Nat.mul_comm]

/-- The little-endian bytes of a number spell it again, up to their width. -/
theorem leNat_leBytes (n v : Nat) : leNat (leBytes n v) = v % 256 ^ n := by
  induction n generalizing v with
  | zero => simp [leBytes, leNat, Nat.mod_one]
  | succ n ih =>
    have e : (BitVec.ofNat 8 v).toNat = v % 256 := BitVec.toNat_ofNat v 8
    rw [leBytes, leNat, ih, e, Nat.pow_add_one' (m := 256), Nat.mod_mul]

end Sys2Proof.Machine
end

