-- ==== Sys2Proof/Laws/KeepCore.lean ====
section
/-!
SUPPORT. What every operation of the machine keeps (`Holds`): the commands that wait, the canonical form of the byte memories and a legal
`STATUS` in every core. One lemma for each shared operation, to be cited in place of unfolding it. This file: the register file, the cores and their instructions.
-/

namespace Sys2Proof.Machine

/-- What every step keeps: the queue behind the command, the form of the byte memories and the legality of every core's STATUS. -/
structure Holds (p : List Instr) (s : State) : Prop where
  queue : s.pending = p
  mem : s.memWf
  status : ∀ c, (s.core c).statusLegal

/-- A STATUS word is legal. -/
def StatusLegal (w : Word64) : Prop := bitsAt w 0 2 ≠ 3 ∧ bitsAt w 12 2 ≠ 3 ∧ w &&& 0xFFFFFFFFFFFF007C = 0

theorem statusLegal_word {k : Core} (h : k.statusLegal) : StatusLegal k.status := h

theorem legal_of_word {k : Core} (h : StatusLegal k.status) : k.statusLegal := h

theorem statusLegal_reset : Core.reset.statusLegal := by
  refine ⟨?_, ?_, ?_⟩ <;> decide

theorem statusLegal_status {k k' : Core} (h : k.statusLegal) (e : k'.status = k.status) : k'.statusLegal := by
  simpa only [Core.statusLegal, Core.priv, Core.prevPrivM, e] using h

theorem holds_ite {p : List Instr} {c : Prop} [Decidable c] {a b : State} (ha : c → Holds p a) (hb : ¬c → Holds p b) :
    Holds p (if c then a else b) := by
  split
  · exact ha ‹_›
  · exact hb ‹_›

theorem legal_ite {c : Prop} [Decidable c] {a b : Core} (ha : c → a.statusLegal) (hb : ¬c → b.statusLegal) :
    (if c then a else b).statusLegal := by
  split
  · exact ha ‹_›
  · exact hb ‹_›

theorem getLsbD_putBits (w : Word64) (lo len v i : Nat) (h : i < 64) :
    (putBits w lo len v).getLsbD i = if lo ≤ i ∧ i < lo + len then v.testBit (i - lo) else w.getLsbD i := by
  simp only [putBits, BitVec.getLsbD_or, BitVec.getLsbD_and, BitVec.getLsbD_not, BitVec.getLsbD_ofNat, h, decide_true, Bool.true_and,
    Nat.testBit_shiftLeft, Nat.testBit_two_pow_sub_one, Nat.testBit_mod_two_pow]
  by_cases h1 : lo ≤ i
  · by_cases h2 : i < lo + len
    · have h3 : i - lo < len := by omega
      simp [h1, h2, h3]
    · have h3 : ¬ i - lo < len := by omega
      simp [h1, h2, h3]
  · simp [h1]

theorem getLsbD_putBit (w : Word64) (j : Nat) (b : Bool) (i : Nat) (h : i < 64) :
    (putBit w j b).getLsbD i = if i = j then b else w.getLsbD i := by
  rw [putBit, getLsbD_putBits _ _ _ _ _ h]
  by_cases e : i = j
  · subst e; cases b <;> simp
  · rw [if_neg e, if_neg (by omega)]

/-- The same by single bits. -/
theorem statusLegal_bits {w : Word64} : StatusLegal w ↔ (w.getLsbD 0 && w.getLsbD 1) = false ∧ (w.getLsbD 12 && w.getLsbD 13) = false ∧
    ∀ i, i < 64 → (0xFFFFFFFFFFFF007C#64).getLsbD i = true → w.getLsbD i = false := by
  have two (lo : Nat) : bitsAt w lo 2 ≠ 3 ↔ (w.getLsbD lo && w.getLsbD (lo + 1)) = false := by
    constructor
    · intro h
      cases h0 : w.getLsbD lo <;> cases h1 : w.getLsbD (lo + 1) <;> first | rfl | skip
      refine absurd (BitVec.eq_of_getLsbD_eq fun i hi => ?_) h
      have : i = 0 ∨ i = 1 := by omega
      rcases this with e | e <;> subst e <;> simp [bitsAt, h0, h1]
    · intro h e
      have h0 := congrArg (fun x : BitVec 2 => x.getLsbD 0) e
      have h1 := congrArg (fun x : BitVec 2 => x.getLsbD 1) e
      simp [bitsAt] at h0 h1
      simp [h0, h1] at h
  refine and_congr (two 0) (and_congr (two 12) ?_)
  constructor
  · intro h i _ hr
    have := congrArg (fun x : Word64 => x.getLsbD i) h
    simpa [BitVec.getLsbD_and, hr] using this
  · intro h
    refine BitVec.eq_of_getLsbD_eq fun i hi => ?_
    have z : (0 : Word64).getLsbD i = false := BitVec.getLsbD_zero
    rw [BitVec.getLsbD_and, z]
    cases e : (0xFFFFFFFFFFFF007C#64).getLsbD i
    · simp
    · simp [h i hi e]

theorem reserved_bits : ∀ i, i < 64 → (0xFFFFFFFFFFFF007C#64).getLsbD i = true → (2 ≤ i ∧ i ≤ 6) ∨ 16 ≤ i := by decide

/-- A legal word with a field replaced that holds no level and no reserved bit. -/
theorem StatusLegal.putBits {w : Word64} (h : StatusLegal w) {lo len : Nat} (hl : 7 ≤ lo) (hu : lo + len ≤ 12 ∨ (14 ≤ lo ∧ lo + len ≤ 16))
    (v : Nat) : StatusLegal (putBits w lo len v) := by
  rw [statusLegal_bits] at h ⊢
  obtain ⟨h0, h12, hr⟩ := h
  refine ⟨?_, ?_, fun i hi hb => ?_⟩
  · rw [getLsbD_putBits _ _ _ _ _ (by omega), getLsbD_putBits _ _ _ _ _ (by omega), if_neg (by omega), if_neg (by omega), h0]
  · rw [getLsbD_putBits _ _ _ _ _ (by omega), getLsbD_putBits _ _ _ _ _ (by omega), if_neg (by omega), if_neg (by omega), h12]
  · rw [getLsbD_putBits _ _ _ _ _ hi, if_neg (by have := reserved_bits i hi hb; omega), hr i hi hb]

theorem StatusLegal.putBit {w : Word64} (h : StatusLegal w) {i : Nat} (hl : 7 ≤ i) (hu : i + 1 ≤ 12 ∨ (14 ≤ i ∧ i + 1 ≤ 16)) (b : Bool) :
    StatusLegal (putBit w i b) := h.putBits hl hu _

/-- A legal word with a level put into PRIV or PREV_PRIV_M. -/
theorem StatusLegal.putLevel {w : Word64} (h : StatusLegal w) {lo : Nat} (hl : lo = 0 ∨ lo = 12) {v : Nat} (hv : v < 3) :
    StatusLegal (Machine.putBits w lo 2 v) := by
  rw [statusLegal_bits] at h ⊢
  obtain ⟨h0, h12, hr⟩ := h
  have two : (v.testBit 0 && v.testBit 1) = false := by
    have : v = 0 ∨ v = 1 ∨ v = 2 := by omega
    rcases this with e | e | e <;> subst e <;> rfl
  refine ⟨?_, ?_, fun i hi hb => ?_⟩
  · rw [getLsbD_putBits _ _ _ _ _ (by omega), getLsbD_putBits _ _ _ _ _ (by omega)]
    rcases hl with e | e <;> subst e
    · exact two
    · exact h0
  · rw [getLsbD_putBits _ _ _ _ _ (by omega), getLsbD_putBits _ _ _ _ _ (by omega)]
    rcases hl with e | e <;> subst e
    · exact h12
    · exact two
  · rw [getLsbD_putBits _ _ _ _ _ hi, if_neg (by have := reserved_bits i hi hb; omega), hr i hi hb]

theorem level_lt {b : BitVec 2} (h : b ≠ 3) : b.toNat < 3 := by
  have := b.isLt
  have : b.toNat ≠ 3 := fun e => h (BitVec.eq_of_toNat_eq e)
  omega

/-- A write of STATUS under a mask of writable fields keeps it legal. -/
theorem StatusLegal.write {w : Word64} (h : StatusLegal w) (v mask : Word64) (hm : mask &&& 0xFFFFFFFFFFFF007F = 0)
    (hp : mask.getLsbD 12 = true → mask.getLsbD 13 = true) (hq : mask.getLsbD 13 = true → mask.getLsbD 12 = true) :
    StatusLegal (statusWrite w v mask) := by
  have hlow : ∀ i, i < 64 → (0xFFFFFFFFFFFF007F#64).getLsbD i = true → mask.getLsbD i = false := fun i _ hb => by
    have := congrArg (fun x : Word64 => x.getLsbD i) hm
    simpa [BitVec.getLsbD_and, hb] using this
  have h00 := hlow 0 (by omega) (by decide)
  have h01 := hlow 1 (by omega) (by decide)
  rw [statusLegal_bits] at h ⊢
  obtain ⟨h0, h12, hr⟩ := h
  have hn : natAt v 12 2 = 3 ↔ (v.getLsbD 12 && v.getLsbD 13) = true := by
    have e : natAt v 12 2 = (bitsAt v 12 2).toNat := by simp [natAt, bitsAt]
    have e0 : (bitsAt v 12 2).getLsbD 0 = v.getLsbD 12 := by simp [bitsAt]
    have e1 : (bitsAt v 12 2).getLsbD 1 = v.getLsbD 13 := by simp [bitsAt]
    rw [e, ← e0, ← e1]
    generalize bitsAt v 12 2 = b
    revert b; decide
  have bit (i : Nat) (hi : i < 64) (m : Word64) :
      ((w &&& ~~~m) ||| (v &&& m)).getLsbD i = if m.getLsbD i then v.getLsbD i else w.getLsbD i := by
    simp only [BitVec.getLsbD_or, BitVec.getLsbD_and, BitVec.getLsbD_not, hi, decide_true, Bool.true_and]
    cases m.getLsbD i <;> simp
  have res : ∀ i, i < 64 → (0xFFFFFFFFFFFF007C#64).getLsbD i = true → (0xFFFFFFFFFFFF007F#64).getLsbD i = true := by decide
  unfold statusWrite
  split
  next h3 =>
    have bm (i : Nat) (hi : i < 64) : (mask &&& ~~~0x3000#64).getLsbD i = (mask.getLsbD i && !(0x3000#64).getLsbD i) := by
      simp only [BitVec.getLsbD_and, BitVec.getLsbD_not, hi, decide_true, Bool.true_and]
    refine ⟨?_, ?_, fun i hi hb => ?_⟩
    · rw [bit 0 (by omega), bit 1 (by omega), bm 0 (by omega), bm 1 (by omega), h00, h01]; exact h0
    · have a12 : (0x3000#64).getLsbD 12 = true := by decide
      have a13 : (0x3000#64).getLsbD 13 = true := by decide
      rw [bit 12 (by omega), bit 13 (by omega), bm 12 (by omega), bm 13 (by omega), a12, a13]
      simpa using h12
    · rw [bit i hi, bm i hi, hlow i hi (res i hi hb)]; exact hr i hi hb
  next h3 =>
    refine ⟨?_, ?_, fun i hi hb => ?_⟩
    · rw [bit 0 (by omega), bit 1 (by omega), h00, h01]; exact h0
    · rw [hn] at h3
      rw [bit 12 (by omega), bit 13 (by omega)]
      cases e : mask.getLsbD 12
      · cases e' : mask.getLsbD 13
        · simpa using h12
        · exact absurd (hq e') (by rw [e]; exact Bool.false_ne_true)
      · rw [hp e]; simpa using h3
    · rw [bit i hi, hlow i hi (res i hi hb)]; exact hr i hi hb

theorem foldl_holds {p : List Instr} {α : Type} {l : List α} {f : State → α → State} {s : State} (h : Holds p s)
    (hf : ∀ s x, Holds p s → Holds p (f s x)) : Holds p (l.foldl f s) := by
  induction l generalizing s with
  | nil => exact h
  | cons x l ih => exact ih (hf s x h)

theorem holds_snd {p : List Instr} {α : Type} {e : α × State} {a : α} {t : State} (he : e = (a, t)) (h : Holds p e.2) : Holds p t := by
  subst he; exact h

theorem holds_fst {p : List Instr} {α : Type} {e : State × α} {a : α} {t : State} (he : e = (t, a)) (h : Holds p e.1) : Holds p t := by
  subst he; exact h

theorem foldl_snd_holds {p : List Instr} {α β : Type} {l : List α} {f : β × State → α → β × State} {i : β × State} (h : Holds p i.2)
    (hf : ∀ a x, Holds p a.2 → Holds p (f a x).2) : Holds p (l.foldl f i).2 := by
  induction l generalizing i with
  | nil => exact h
  | cons x l ih => exact ih (hf i x h)

theorem foldl_fst_holds {p : List Instr} {α β : Type} {l : List α} {f : State × β → α → State × β} {i : State × β} (h : Holds p i.1)
    (hf : ∀ a x, Holds p a.1 → Holds p (f a x).1) : Holds p (l.foldl f i).1 := by
  induction l generalizing i with
  | nil => exact h
  | cons x l ih => exact ih (hf i x h)

/-- Every state in an answer that may be absent holds. -/
structure HoldsIn (p : List Instr) {α : Type} (π : α → State) (o : Option α) : Prop where
  holds : ∀ r, o = some r → Holds p (π r)

theorem HoldsIn.none {p : List Instr} {α : Type} {π : α → State} : HoldsIn p π none := ⟨fun _ h => nomatch h⟩

theorem HoldsIn.some {p : List Instr} {α : Type} {π : α → State} {a : α} (h : Holds p (π a)) : HoldsIn p π (some a) :=
  ⟨fun _ e => Option.some.inj e ▸ h⟩

theorem holds_bootStore {p : List Instr} {s : State} (h : Holds p s) (a : Nat) (bs : List Byte) :
    Holds p { s with bootFlash := Mem.store s.bootFlash a bs } :=
  ⟨h.queue, ⟨h.mem.1, h.mem.2.1, Mem.wf_store h.mem.2.2 a bs⟩, h.status⟩

/-- A state with the cores reset and DRAM lost. -/
theorem holds_fresh {p : List Instr} {s t : State} (h : Holds p s) (hq : t.pending = s.pending) (hd : t.dram = [] ∨ t.dram = s.dram)
    (hm : t.host.mem = s.host.mem) (hb : t.bootFlash = s.bootFlash) (hc : t.cores = Vector.replicate 16 Core.reset) : Holds p t := by
  refine ⟨hq.trans h.queue, ⟨?_, hm ▸ h.mem.2.1, hb ▸ h.mem.2.2⟩, fun c => ?_⟩
  · rcases hd with e | e
    · rw [e]; rfl
    · rw [e]; exact h.mem.1
  · have : t.core c = Core.reset := by simp [State.core, hc]
    rw [this]; exact statusLegal_reset

theorem holds_snd_ite {p : List Instr} {α : Type} {c : Prop} [Decidable c] {a b : α × State} (ha : c → Holds p a.2) (hb : ¬c → Holds p b.2) :
    Holds p (if c then a else b).2 := by
  split
  · exact ha ‹_›
  · exact hb ‹_›

theorem legal_ofNat_two {b : BitVec 1} : (b.setWidth 2).toNat < 3 := by
  revert b; decide

theorem HoldsIn.ite {p : List Instr} {α : Type} {π : α → State} {c : Prop} [Decidable c] {a b : Option α} (ha : c → HoldsIn p π a)
    (hb : ¬c → HoldsIn p π b) : HoldsIn p π (if c then a else b) := by
  split
  · exact ha ‹_›
  · exact hb ‹_›

theorem holds_trace {p : List Instr} {s : State} (h : Holds p s) (x : Trace) : Holds p { s with trace := x } := ⟨h.queue, h.mem, h.status⟩

/-- `Holds` of a state with these queue, memories and cores. -/
def HoldsParts (p q : List Instr) (dram hostMem bootFlash : Mem) (cores : Vector Core 16) : Prop :=
  q = p ∧ (Mem.wf dram = true ∧ Mem.wf hostMem = true ∧ Mem.wf bootFlash = true) ∧ ∀ c : CoreId, (cores[c]).statusLegal

theorem holds_of_parts {p : List Instr} {s : State} (h : HoldsParts p s.pending s.dram s.host.mem s.bootFlash s.cores) : Holds p s :=
  ⟨h.1, h.2.1, h.2.2⟩

theorem Holds.parts {p : List Instr} {s : State} (h : Holds p s) : HoldsParts p s.pending s.dram s.host.mem s.bootFlash s.cores :=
  ⟨h.queue, h.mem, h.status⟩

/-! ## Machine/RegFile.lean -/

theorem State.setReg_holds {p : List Instr} {s : State} (h : Holds p s) : ∀ a1 a2, Holds p (State.setReg s a1 a2) := by
  intro a1 a2
  unfold State.setReg
  try dsimp only
  repeat' first
    | with_reducible assumption
    | (refine holds_of_parts ?_; dsimp only; with_reducible refine Holds.parts ?_)

theorem State.setFld_holds {p : List Instr} {s : State} (h : Holds p s) : ∀ a1 a2, Holds p (State.setFld s a1 a2) := by
  intro a1 a2
  unfold State.setFld
  try dsimp only
  repeat' first
    | with_reducible assumption
    | with_reducible refine State.setReg_holds ?_ _ _

theorem State.setFlag_holds {p : List Instr} {s : State} (h : Holds p s) : ∀ a1 a2, Holds p (State.setFlag s a1 a2) := by
  intro a1 a2
  unfold State.setFlag
  try dsimp only
  repeat' first
    | with_reducible assumption
    | with_reducible refine State.setFld_holds ?_ _ _

theorem State.errAdd_holds {p : List Instr} {s : State} (h : Holds p s) : ∀ a1 a2, Holds p (State.errAdd s a1 a2) := by
  intro a1 a2
  unfold State.errAdd
  try dsimp only
  repeat' first
    | with_reducible assumption
    | with_reducible refine State.setFld_holds ?_ _ _

theorem State.clearRegs_holds {p : List Instr} {s : State} (h : Holds p s) : ∀ a1 a2, Holds p (State.clearRegs s a1 a2) := by
  intro a1 a2
  unfold State.clearRegs
  try dsimp only
  repeat' first
    | with_reducible assumption
    | (refine holds_of_parts ?_; dsimp only; with_reducible refine Holds.parts ?_)

theorem State.setPolder_holds {p : List Instr} {s : State} (h : Holds p s) : ∀ a1 a2, Holds p (State.setPolder s a1 a2) := by
  intro a1 a2
  unfold State.setPolder
  try dsimp only
  repeat' first
    | with_reducible assumption
    | with_reducible refine State.setReg_holds ?_ _ _

theorem State.countQuiet_holds {p : List Instr} {s : State} (h : Holds p s) : ∀ a1 a2 a3, Holds p (State.countQuiet s a1 a2 a3).1 := by
  intro a1 a2 a3
  unfold State.countQuiet
  try dsimp only
  repeat' first
    | with_reducible assumption
    | with_reducible refine State.setReg_holds ?_ _ _
    | (refine holds_of_parts ?_; dsimp only; with_reducible refine Holds.parts ?_)
    | split

theorem State.traceOverwrite_holds {p : List Instr} {s : State} (h : Holds p s) : ∀ a1, Holds p (State.traceOverwrite s a1) := by
  intro a1
  unfold State.traceOverwrite
  try dsimp only
  repeat' first
    | with_reducible assumption
    | with_reducible refine holds_ite (fun _ => ?_) (fun _ => ?_)
    | with_reducible refine State.countQuiet_holds ?_ _ _ _
    | (refine holds_of_parts ?_; dsimp only; with_reducible refine Holds.parts ?_)

theorem State.traceStore_holds {p : List Instr} {s : State} (h : Holds p s) : ∀ a1, Holds p (s.traceStore a1) := by
  intro a1
  unfold State.traceStore
  refine holds_ite (fun _ => ?_) (fun _ => holds_ite (fun _ => ?_) (fun _ => h))
  · extract_lets src s1
    have h1 : Holds p s1 := holds_trace h _
    exact State.countQuiet_holds h1 _ _ _
  · extract_lets w left s1 src s2 s3 s4
    have h1 : Holds p s1 := State.traceOverwrite_holds h _
    have h2 : Holds p s2 := holds_trace h1 _
    have h4 : Holds p s4 := State.countQuiet_holds (State.setFld_holds h2 _ _) _ _ _
    exact holds_ite (fun _ => State.setFlag_holds h4 _ _) (fun _ => h4)

theorem State.traceWrite_holds {p : List Instr} {s : State} (h : Holds p s) : ∀ a1, Holds p (State.traceWrite s a1) := by
  intro a1
  unfold State.traceWrite
  try dsimp only
  repeat' first
    | with_reducible assumption
    | with_reducible refine State.traceStore_holds ?_ _
    | with_reducible refine State.errAdd_holds ?_ _ _
    | (refine holds_of_parts ?_; dsimp only; with_reducible refine Holds.parts ?_)
    | split

theorem State.trigger_holds {p : List Instr} {s : State} (h : Holds p s) : ∀ a1, Holds p (State.trigger s a1) := by
  intro a1
  unfold State.trigger
  try dsimp only
  repeat' first
    | with_reducible assumption
    | with_reducible refine holds_ite (fun _ => ?_) (fun _ => ?_)
    | with_reducible refine State.setFlag_holds ?_ _ _
    | with_reducible refine State.setFld_holds ?_ _ _
    | with_reducible refine State.traceWrite_holds ?_ _
    | with_reducible refine State.countQuiet_holds ?_ _ _ _
    | (refine holds_of_parts ?_; dsimp only; with_reducible refine Holds.parts ?_)

theorem State.emit_holds {p : List Instr} {s : State} (h : Holds p s) : ∀ a1 a2 a3 a4, Holds p (State.emit s a1 a2 a3 a4) := by
  intro a1 a2 a3 a4
  unfold State.emit
  try dsimp only
  repeat' first
    | with_reducible assumption
    | with_reducible refine holds_ite (fun _ => ?_) (fun _ => ?_)
    | with_reducible refine State.traceWrite_holds ?_ _

theorem State.marker_holds {p : List Instr} {s : State} (h : Holds p s) : ∀ a1 a2 a3, Holds p (State.marker s a1 a2 a3) := by
  intro a1 a2 a3
  unfold State.marker
  try dsimp only
  repeat' first
    | with_reducible assumption
    | with_reducible refine holds_ite (fun _ => ?_) (fun _ => ?_)
    | with_reducible refine State.traceWrite_holds ?_ _
    | (refine holds_of_parts ?_; dsimp only; with_reducible refine Holds.parts ?_)

theorem State.flushMarkers_holds {p : List Instr} {s : State} (h : Holds p s) : Holds p (State.flushMarkers s) := by
  unfold State.flushMarkers
  try dsimp only
  repeat' first
    | with_reducible assumption
    | intro _
    | with_reducible refine foldl_holds ?_ ?_
    | with_reducible refine State.traceWrite_holds ?_ _
    | with_reducible refine State.errAdd_holds ?_ _ _
    | (refine holds_of_parts ?_; dsimp only; with_reducible refine Holds.parts ?_)
    | split

theorem State.logFault_holds {p : List Instr} {s : State} (h : Holds p s) : ∀ a1 a2 a3 a4, Holds p (State.logFault s a1 a2 a3 a4) := by
  intro a1 a2 a3 a4
  unfold State.logFault
  try dsimp only
  repeat' first
    | with_reducible assumption
    | with_reducible refine holds_ite (fun _ => ?_) (fun _ => ?_)
    | with_reducible refine State.setFld_holds ?_ _ _
    | with_reducible refine State.setFlag_holds ?_ _ _
    | with_reducible refine State.countQuiet_holds ?_ _ _ _
    | with_reducible refine State.emit_holds ?_ _ _ _ _
    | with_reducible refine State.trigger_holds ?_ _
    | (refine holds_of_parts ?_; dsimp only; with_reducible refine Holds.parts ?_)

theorem State.count_holds {p : List Instr} {s : State} (h : Holds p s) : ∀ a1 a2 a3, Holds p (State.count s a1 a2 a3) := by
  intro a1 a2 a3
  unfold State.count
  try dsimp only
  repeat' first
    | with_reducible assumption
    | with_reducible refine holds_ite (fun _ => ?_) (fun _ => ?_)
    | with_reducible refine State.countQuiet_holds ?_ _ _ _
    | with_reducible refine State.logFault_holds ?_ _ _ _ _

theorem State.setTests_holds {p : List Instr} {s : State} (h : Holds p s) : ∀ a1, Holds p (State.setTests s a1) := by
  intro a1
  unfold State.setTests
  try dsimp only
  repeat' first
    | with_reducible assumption
    | with_reducible refine State.setFld_holds ?_ _ _
    | (refine holds_of_parts ?_; dsimp only; with_reducible refine Holds.parts ?_)

theorem State.queueTest_holds {p : List Instr} {s : State} (h : Holds p s) : ∀ a1 a2, Holds p (State.queueTest s a1 a2) := by
  intro a1 a2
  unfold State.queueTest
  try dsimp only
  repeat' first
    | with_reducible assumption
    | with_reducible refine holds_ite (fun _ => ?_) (fun _ => ?_)
    | with_reducible refine State.setFlag_holds ?_ _ _
    | with_reducible refine State.setTests_holds ?_ _

theorem State.freshFree_holds {p : List Instr} {s : State} (h : Holds p s) : Holds p (State.freshFree s).2 := by
  unfold State.freshFree
  try dsimp only
  repeat' first
    | with_reducible assumption
    | (refine holds_of_parts ?_; dsimp only; with_reducible refine Holds.parts ?_)

theorem State.interrupt_holds {p : List Instr} {s : State} (h : Holds p s) : ∀ a1 a2, Holds p (State.interrupt s a1 a2) := by
  intro a1 a2
  unfold State.interrupt
  try dsimp only
  repeat' first
    | with_reducible assumption
    | (refine holds_of_parts ?_; dsimp only; with_reducible refine Holds.parts ?_)

/-! ## Machine/Ops.lean -/

theorem State.setCore_holds {p : List Instr} {s : State} {c : CoreId} {k : Core} (h : Holds p s) (hk : k.statusLegal) :
    Holds p (s.setCore c k) := by
  refine ⟨h.queue, h.mem, fun d => ?_⟩
  by_cases e : d = c
  · subst e; simpa [State.core, State.setCore] using hk
  · have : c.val ≠ d.val := fun x => e (Fin.ext x.symm)
    simpa [State.core, State.setCore, this] using h.status d

theorem Core.setReg_holds {k : Core} (h : k.statusLegal) : ∀ a1 a2, (Core.setReg k a1 a2).statusLegal := by
  intro a1 a2
  unfold Core.setReg
  try dsimp only
  repeat' first
    | with_reducible assumption
    | with_reducible refine legal_ite (fun _ => ?_) (fun _ => ?_)
    | (refine legal_of_word ?_; dsimp only; with_reducible refine statusLegal_word ?_)

theorem Core.setVreg_holds {k : Core} (h : k.statusLegal) : ∀ a1 a2, (Core.setVreg k a1 a2).statusLegal := by
  intro a1 a2
  unfold Core.setVreg
  try dsimp only
  repeat' first
    | with_reducible assumption
    | (refine legal_of_word ?_; dsimp only; with_reducible refine statusLegal_word ?_)

theorem State.haltOne_holds {p : List Instr} {s : State} (h : Holds p s) : ∀ a1 a2, Holds p (State.haltOne s a1 a2) := by
  intro a1 a2
  unfold State.haltOne
  try dsimp only
  repeat' first
    | with_reducible assumption
    | with_reducible refine State.setCore_holds ?_ ?_
    | with_reducible refine State.emit_holds ?_ _ _ _ _
    | with_reducible refine State.trigger_holds ?_ _
    | with_reducible refine Holds.status (p := p) ?_ _
    | (refine legal_of_word ?_; dsimp only; with_reducible refine statusLegal_word ?_)

theorem State.enterHalt_holds {p : List Instr} {s : State} (h : Holds p s) : ∀ a1 a2, Holds p (State.enterHalt s a1 a2) := by
  intro a1 a2
  unfold State.enterHalt
  try dsimp only
  repeat' first
    | with_reducible assumption
    | intro _
    | with_reducible refine holds_ite (fun _ => ?_) (fun _ => ?_)
    | with_reducible refine foldl_holds ?_ ?_
    | with_reducible refine State.haltOne_holds ?_ _ _

theorem State.settleRecipe_holds {p : List Instr} {s : State} (h : Holds p s) : ∀ a1, Holds p (State.settleRecipe s a1) := by
  intro a1
  unfold State.settleRecipe
  try dsimp only
  repeat' first
    | with_reducible assumption
    | with_reducible refine holds_ite (fun _ => ?_) (fun _ => ?_)
    | (refine holds_of_parts ?_; dsimp only; with_reducible refine Holds.parts ?_)
    | split

theorem State.coreEnds_holds {p : List Instr} {s : State} (h : Holds p s) : ∀ a1, Holds p (State.coreEnds s a1) := by
  intro a1
  unfold State.coreEnds
  try dsimp only
  repeat' first
    | with_reducible assumption
    | with_reducible refine holds_ite (fun _ => ?_) (fun _ => ?_)
    | with_reducible refine State.settleRecipe_holds ?_ _
    | with_reducible refine State.setCore_holds ?_ ?_
    | with_reducible refine Holds.status (p := p) ?_ _
    | (refine legal_of_word ?_; dsimp only; with_reducible refine statusLegal_word ?_)
    | split

theorem State.stopCore_holds {p : List Instr} {s : State} (h : Holds p s) : ∀ a1, Holds p (State.stopCore s a1) := by
  intro a1
  unfold State.stopCore
  try dsimp only
  repeat' first
    | with_reducible assumption
    | with_reducible refine holds_ite (fun _ => ?_) (fun _ => ?_)
    | with_reducible refine State.setCore_holds ?_ ?_
    | with_reducible refine Holds.status (p := p) ?_ _
    | (refine legal_of_word ?_; dsimp only; with_reducible refine statusLegal_word ?_)

theorem State.coreFails_holds {p : List Instr} {s : State} (h : Holds p s) : ∀ a1 a2 a3, Holds p (State.coreFails s a1 a2 a3) := by
  intro a1 a2 a3
  unfold State.coreFails
  try dsimp only
  repeat' first
    | with_reducible assumption
    | intro _
    | with_reducible refine holds_ite (fun _ => ?_) (fun _ => ?_)
    | with_reducible refine foldl_holds ?_ ?_
    | with_reducible refine State.setCore_holds ?_ ?_
    | with_reducible refine State.settleRecipe_holds ?_ _
    | with_reducible refine State.stopCore_holds ?_ _
    | (refine holds_of_parts ?_; dsimp only; with_reducible refine Holds.parts ?_)
    | with_reducible refine Holds.status (p := p) ?_ _
    | (refine legal_of_word ?_; dsimp only; with_reducible refine statusLegal_word ?_)
    | split

theorem Core.trapEntry_holds {k : Core} (h : k.statusLegal) : ∀ a1 a2 a3, (k.trapEntry a1 a2 a3).statusLegal := by
  intro a1 a2 a3
  unfold Core.trapEntry
  have hw : StatusLegal k.status := h
  dsimp only
  split
  · refine legal_of_word ?_
    refine (((hw.putLevel (.inr rfl) (level_lt h.1)).putBit ?_ ?_ _).putBit ?_ ?_ _ |>.putBit ?_ ?_ _).putLevel (.inl rfl) ?_ <;> decide
  · refine legal_of_word ?_
    refine (((hw.putBits ?_ ?_ _).putBit ?_ ?_ _).putBit ?_ ?_ _ |>.putBit ?_ ?_ _).putLevel (.inl rfl) ?_ <;> decide

theorem State.raise_holds {p : List Instr} {s : State} (h : Holds p s) : ∀ a1 a2 a3, Holds p (State.raise s a1 a2 a3) := by
  intro a1 a2 a3
  unfold State.raise
  try dsimp only
  repeat' first
    | with_reducible assumption
    | with_reducible refine holds_ite (fun _ => ?_) (fun _ => ?_)
    | with_reducible refine State.logFault_holds ?_ _ _ _ _
    | with_reducible refine State.enterHalt_holds ?_ _ _
    | with_reducible refine State.setCore_holds ?_ ?_
    | with_reducible refine Core.trapEntry_holds ?_ _ _ _
    | with_reducible refine State.coreFails_holds ?_ _ _ _
    | with_reducible refine Holds.status (p := p) ?_ _

theorem Core.retireTo_holds {k : Core} (h : k.statusLegal) : ∀ a1 a2, (Core.retireTo k a1 a2).statusLegal := by
  intro a1 a2
  unfold Core.retireTo
  try dsimp only
  repeat' first
    | with_reducible assumption
    | (refine legal_of_word ?_; dsimp only; with_reducible refine statusLegal_word ?_)

theorem Core.retire_holds {k : Core} (h : k.statusLegal) : ∀ a1, (Core.retire k a1).statusLegal := by
  intro a1
  unfold Core.retire
  try dsimp only
  repeat' first
    | with_reducible assumption
    | with_reducible refine Core.retireTo_holds ?_ _ _

theorem State.takeInterrupt_holds {p : List Instr} {s : State} (h : Holds p s) : ∀ a1 a2, Holds p (State.takeInterrupt s a1 a2) := by
  intro a1 a2
  unfold State.takeInterrupt
  try dsimp only
  repeat' first
    | with_reducible assumption
    | with_reducible refine Core.retire_holds ?_ _
    | with_reducible refine State.setCore_holds ?_ ?_
    | with_reducible refine Core.trapEntry_holds ?_ _ _ _
    | with_reducible refine Holds.status (p := p) ?_ _
    | split

theorem Core.trapReturn_holds {k : Core} (h : k.statusLegal) : ∀ a1, (k.trapReturn a1).statusLegal := by
  intro a1
  unfold Core.trapReturn
  have hw : StatusLegal k.status := h
  dsimp only
  split
  · refine legal_of_word ?_
    refine ((hw.putLevel (.inl rfl) ?_).putBit ?_ ?_ _).putBit ?_ ?_ _
    · rw [if_neg h.2.1]; exact level_lt h.2.1
    all_goals decide
  · refine legal_of_word ?_
    refine ((hw.putLevel (.inl rfl) ?_).putBit ?_ ?_ _).putBit ?_ ?_ _
    · exact legal_ofNat_two
    all_goals decide

theorem State.issue_holds {p : List Instr} {s t : State} (h : Holds p s) {c : CoreId} (e : s.issue c = .acted t) : Holds p t := by
  unfold State.issue at e
  dsimp only at e
  repeat' split at e
  all_goals cases e
  all_goals first
    | exact State.takeInterrupt_holds h _ _
    | exact State.enterHalt_holds h _ _
    | exact State.raise_holds h _ _ _

theorem State.runInsn_holds {p : List Instr} {s : State} {c : CoreId} {word : Word32} {legal : Bool} {body : State → State} (h : Holds p s)
    (hb : ∀ s, Holds p s → Holds p (body s)) : Holds p (s.runInsn c word legal body) := by
  unfold State.runInsn
  split
  · exact h
  next e => exact State.issue_holds h e
  · split
    · exact hb _ h
    · exact State.raise_holds h _ _ _

theorem State.checkAccess_holds {p : List Instr} {s t : State} (h : Holds p s) {c : CoreId} {kind : AccessKind} {a : Word64} {n : Nat}
    {scalar : Bool} (e : s.checkAccess c kind a n scalar = some t) : Holds p t := by
  unfold State.checkAccess at e
  dsimp only at e
  repeat' split at e
  all_goals cases e
  all_goals first
    | exact State.enterHalt_holds h _ _
    | exact State.raise_holds h _ _ _

theorem State.writeDram_holds {p : List Instr} {s : State} (h : Holds p s) : ∀ a1 a2, Holds p (s.writeDram a1 a2) :=
  fun _ _ => ⟨h.queue, ⟨Mem.wf_store h.mem.1 _ _, h.mem.2⟩, h.status⟩

theorem Core.issueTicket_holds {k : Core} (h : k.statusLegal) : ∀ a1 a2, (Core.issueTicket k a1 a2).statusLegal := by
  intro a1 a2
  unfold Core.issueTicket
  try dsimp only
  repeat' first
    | with_reducible assumption
    | (refine legal_of_word ?_; dsimp only; with_reducible refine statusLegal_word ?_)

theorem Core.completeTicket_holds {k : Core} (h : k.statusLegal) : ∀ a1 a2, (Core.completeTicket k a1 a2).statusLegal := by
  intro a1 a2
  unfold Core.completeTicket
  try dsimp only
  repeat' first
    | with_reducible assumption
    | (refine legal_of_word ?_; dsimp only; with_reducible refine statusLegal_word ?_)
    | split

/-! ## Machine/Flags.lean -/

theorem Core.raiseFlags_holds {k : Core} (h : k.statusLegal) : ∀ a1, (Core.raiseFlags k a1).statusLegal := by
  intro a1
  unfold Core.raiseFlags
  try dsimp only
  repeat' first
    | with_reducible assumption
    | (refine legal_of_word ?_; dsimp only; with_reducible refine statusLegal_word ?_)

/-! ## Machine/Alu.lean -/

theorem State.writesReg_holds {p : List Instr} {s : State} (h : Holds p s) : ∀ a1 a2 a3 a4 a5, Holds p (State.writesReg s a1 a2 a3 a4 a5) := by
  intro a1 a2 a3 a4 a5
  unfold State.writesReg
  try dsimp only
  repeat' first
    | with_reducible assumption
    | intro _
    | with_reducible refine State.runInsn_holds ?_ ?_
    | with_reducible refine State.setCore_holds ?_ ?_
    | with_reducible refine Core.retire_holds ?_ _
    | with_reducible refine Core.setReg_holds ?_ _ _
    | with_reducible refine Holds.status (p := p) ?_ _

theorem State.rrrOp_holds {p : List Instr} {s : State} (h : Holds p s) : ∀ a1 a2 a3 a4 a5, Holds p (State.rrrOp s a1 a2 a3 a4 a5) := by
  intro a1 a2 a3 a4 a5
  unfold State.rrrOp
  try dsimp only
  repeat' first
    | with_reducible assumption
    | with_reducible refine State.writesReg_holds ?_ _ _ _ _ _

theorem State.unaryOp_holds {p : List Instr} {s : State} (h : Holds p s) : ∀ a1 a2 a3 a4, Holds p (State.unaryOp s a1 a2 a3 a4) := by
  intro a1 a2 a3 a4
  unfold State.unaryOp
  try dsimp only
  repeat' first
    | with_reducible assumption
    | with_reducible refine State.writesReg_holds ?_ _ _ _ _ _

theorem State.rriOp_holds {p : List Instr} {s : State} (h : Holds p s) : ∀ a1 a2 a3 a4, Holds p (State.rriOp s a1 a2 a3 a4) := by
  intro a1 a2 a3 a4
  unfold State.rriOp
  try dsimp only
  repeat' first
    | with_reducible assumption
    | with_reducible refine State.writesReg_holds ?_ _ _ _ _ _

theorem State.shiftOp_holds {p : List Instr} {s : State} (h : Holds p s) : ∀ a1 a2 a3 a4, Holds p (State.shiftOp s a1 a2 a3 a4) := by
  intro a1 a2 a3 a4
  unfold State.shiftOp
  try dsimp only
  repeat' first
    | with_reducible assumption
    | with_reducible refine State.writesReg_holds ?_ _ _ _ _ _

theorem State.branchOp_holds {p : List Instr} {s : State} (h : Holds p s) : ∀ a1 a2 a3 a4, Holds p (State.branchOp s a1 a2 a3 a4) := by
  intro a1 a2 a3 a4
  unfold State.branchOp
  try dsimp only
  repeat' first
    | with_reducible assumption
    | intro _
    | with_reducible refine State.runInsn_holds ?_ ?_
    | with_reducible refine State.setCore_holds ?_ ?_
    | with_reducible refine Core.retireTo_holds ?_ _ _
    | with_reducible refine Holds.status (p := p) ?_ _

theorem State.vecOp_holds {p : List Instr} {s : State} (h : Holds p s) : ∀ a1 a2 a3, Holds p (State.vecOp s a1 a2 a3) := by
  intro a1 a2 a3
  unfold State.vecOp
  try dsimp only
  repeat' first
    | with_reducible assumption
    | intro _
    | with_reducible refine State.runInsn_holds ?_ ?_
    | with_reducible refine State.setCore_holds ?_ ?_
    | with_reducible refine Core.retire_holds ?_ _
    | with_reducible refine Core.setVreg_holds ?_ _ _
    | with_reducible refine Holds.status (p := p) ?_ _

theorem State.vecFloatOp_holds {p : List Instr} {s : State} (h : Holds p s) : ∀ a1 a2 a3, Holds p (State.vecFloatOp s a1 a2 a3) := by
  intro a1 a2 a3
  unfold State.vecFloatOp
  try dsimp only
  repeat' first
    | with_reducible assumption
    | intro _
    | with_reducible refine State.runInsn_holds ?_ ?_
    | with_reducible refine State.setCore_holds ?_ ?_
    | with_reducible refine Core.retire_holds ?_ _
    | with_reducible refine Core.raiseFlags_holds ?_ _
    | with_reducible refine Core.setVreg_holds ?_ _ _
    | with_reducible refine Holds.status (p := p) ?_ _

/-! ## Machine/SysInsn.lean -/

theorem Core.csrWrite_holds {k : Core} (h : k.statusLegal) : ∀ a1 a2, (k.csrWrite a1 a2).statusLegal := by
  intro a1 a2
  unfold Core.csrWrite
  have hw : StatusLegal k.status := h
  repeat' first
    | with_reducible exact h
    | with_reducible refine legal_ite (fun _ => ?_) (fun _ => ?_)
    | (refine legal_of_word ?_; dsimp only; with_reducible exact hw)
    | exact legal_of_word (hw.write _ _ (by decide) (by decide) (by decide))

theorem State.csrOp_holds {p : List Instr} {s : State} (h : Holds p s) : ∀ a1 a2 a3 a4 a5, Holds p (State.csrOp s a1 a2 a3 a4 a5) := by
  intro a1 a2 a3 a4 a5
  unfold State.csrOp
  try dsimp only
  repeat' first
    | with_reducible assumption
    | intro _
    | with_reducible refine holds_ite (fun _ => ?_) (fun _ => ?_)
    | with_reducible refine State.runInsn_holds ?_ ?_
    | with_reducible refine State.raise_holds ?_ _ _ _
    | with_reducible refine Core.csrWrite_holds ?_ _ _
    | with_reducible refine State.setCore_holds ?_ ?_
    | with_reducible refine Core.retire_holds ?_ _
    | with_reducible refine Core.setReg_holds ?_ _ _
    | with_reducible refine Holds.status (p := p) ?_ _
    | split

theorem State.setRing_holds {p : List Instr} {s : State} (h : Holds p s) : ∀ a1 a2 a3, Holds p (State.setRing s a1 a2 a3) := by
  intro a1 a2 a3
  unfold State.setRing
  try dsimp only
  repeat' first
    | with_reducible assumption
    | (refine holds_of_parts ?_; dsimp only; with_reducible refine Holds.parts ?_)

theorem State.requestHalt_holds {p : List Instr} {s : State} (h : Holds p s) : ∀ a1, Holds p (State.requestHalt s a1) := by
  intro a1
  unfold State.requestHalt
  try dsimp only
  repeat' first
    | with_reducible assumption
    | with_reducible refine holds_ite (fun _ => ?_) (fun _ => ?_)
    | with_reducible refine State.enterHalt_holds ?_ _ _

theorem State.leaveHalt_holds {p : List Instr} {s : State} (h : Holds p s) : ∀ a1, Holds p (State.leaveHalt s a1) := by
  intro a1
  unfold State.leaveHalt
  try dsimp only
  repeat' first
    | with_reducible assumption
    | with_reducible refine holds_ite (fun _ => ?_) (fun _ => ?_)
    | with_reducible refine State.emit_holds ?_ _ _ _ _
    | with_reducible refine State.setCore_holds ?_ ?_
    | with_reducible refine Holds.status (p := p) ?_ _
    | (refine legal_of_word ?_; dsimp only; with_reducible refine statusLegal_word ?_)

theorem State.writeSwi_holds {p : List Instr} {s : State} (h : Holds p s) : ∀ a1 a2, Holds p (State.writeSwi s a1 a2) := by
  intro a1 a2
  unfold State.writeSwi
  try dsimp only
  repeat' first
    | with_reducible assumption
    | intro _
    | with_reducible refine foldl_holds ?_ ?_
    | with_reducible refine State.setCore_holds ?_ ?_
    | with_reducible refine Holds.status (p := p) ?_ _
    | (refine legal_of_word ?_; dsimp only; with_reducible refine statusLegal_word ?_)

end Sys2Proof.Machine
end

