-- ==== Sys2Proof/Laws/KeepFlash.lean ====
section
/-!
SUPPORT. What every operation keeps (`Holds`, Laws/KeepCore.lean): rings, recipes, flash and the translation layer.
-/

namespace Sys2Proof.Machine

/-! ## Machine/Rings.lean -/

theorem State.ringError_holds {p : List Instr} {s : State} (h : Holds p s) : ∀ a1 a2, Holds p (State.ringError s a1 a2) := by
  intro a1 a2
  unfold State.ringError
  try dsimp only
  repeat' first
    | with_reducible assumption
    | with_reducible refine State.setRing_holds ?_ _ _ _

theorem State.setTaken_holds {p : List Instr} {s : State} (h : Holds p s) : ∀ a1, Holds p (State.setTaken s a1) := by
  intro a1
  unfold State.setTaken
  try dsimp only
  repeat' first
    | with_reducible assumption
    | (refine holds_of_parts ?_; dsimp only; with_reducible refine Holds.parts ?_)

theorem State.finish_holds {p : List Instr} {s : State} (h : Holds p s) : ∀ a1 a2 a3 a4, Holds p (State.finish s a1 a2 a3 a4) := by
  intro a1 a2 a3 a4
  unfold State.finish
  try dsimp only
  repeat' first
    | with_reducible assumption
    | with_reducible refine State.setTaken_holds ?_ _

theorem State.engineAccess_holds {p : List Instr} {s : State} (h : Holds p s) : ∀ a1 a2 a3 a4, Holds p (State.engineAccess s a1 a2 a3 a4) := by
  intro a1 a2 a3 a4
  unfold State.engineAccess
  try dsimp only
  repeat' first
    | with_reducible assumption
    | intro _
    | with_reducible refine holds_ite (fun _ => ?_) (fun _ => ?_)
    | with_reducible refine foldl_holds ?_ ?_
    | with_reducible refine State.count_holds ?_ _ _ _
    | with_reducible refine State.trigger_holds ?_ _
    | with_reducible refine State.emit_holds ?_ _ _ _ _

theorem State.engineWrite_holds {p : List Instr} {s : State} (h : Holds p s) : ∀ a1 a2 a3, Holds p (State.engineWrite s a1 a2 a3) := by
  intro a1 a2 a3
  unfold State.engineWrite
  try dsimp only
  repeat' first
    | with_reducible assumption
    | with_reducible refine State.engineAccess_holds ?_ _ _ _ _
    | with_reducible refine State.writeDram_holds ?_ _ _

theorem Core.queueTicket_holds {k : Core} (h : k.statusLegal) : ∀ a1, (Core.queueTicket k a1).statusLegal := by
  intro a1
  unfold Core.queueTicket
  try dsimp only
  repeat' first
    | with_reducible assumption
    | with_reducible refine legal_ite (fun _ => ?_) (fun _ => ?_)
    | (refine legal_of_word ?_; dsimp only; with_reducible refine statusLegal_word ?_)

theorem State.completeTaken_holds {p : List Instr} {s : State} (h : Holds p s) : ∀ a1 a2, Holds p (State.completeTaken s a1 a2) := by
  intro a1 a2
  unfold State.completeTaken
  try dsimp only
  repeat' first
    | with_reducible assumption
    | with_reducible refine holds_ite (fun _ => ?_) (fun _ => ?_)
    | with_reducible refine State.engineWrite_holds ?_ _ _ _
    | with_reducible refine Core.completeTicket_holds ?_ _ _
    | with_reducible refine State.setCore_holds ?_ ?_
    | with_reducible refine Core.queueTicket_holds ?_ _
    | with_reducible refine State.setRing_holds ?_ _ _ _
    | with_reducible refine State.emit_holds ?_ _ _ _ _
    | (refine holds_of_parts ?_; dsimp only; with_reducible refine Holds.parts ?_)
    | with_reducible refine Holds.status (p := p) ?_ _
    | split

theorem State.endTaken_holds {p : List Instr} {s : State} (h : Holds p s) : ∀ a1 a2 a3, Holds p (State.endTaken s a1 a2 a3) := by
  intro a1 a2 a3
  unfold State.endTaken
  try dsimp only
  repeat' first
    | with_reducible assumption
    | with_reducible refine State.completeTaken_holds ?_ _ _

/-! ## Machine/HostQueue.lean -/

theorem State.hostWrite_holds {p : List Instr} {s : State} (h : Holds p s) : ∀ a1 a2, Holds p (s.hostWrite a1 a2) :=
  fun _ _ => ⟨h.queue, ⟨h.mem.1, Mem.wf_store h.mem.2.1 _ _, h.mem.2.2⟩, h.status⟩

theorem State.hostStores_holds {p : List Instr} {s : State} (h : Holds p s) : ∀ a1, Holds p (State.hostStores s a1) := by
  intro a1
  unfold State.hostStores
  try dsimp only
  repeat' first
    | with_reducible assumption
    | intro _
    | with_reducible refine foldl_holds ?_ ?_
    | with_reducible refine State.hostWrite_holds ?_ _ _

theorem State.setController_holds {p : List Instr} {s : State} (h : Holds p s) : ∀ a1, Holds p (State.setController s a1) := by
  intro a1
  unfold State.setController
  try dsimp only
  repeat' first
    | with_reducible assumption
    | (refine holds_of_parts ?_; dsimp only; with_reducible refine Holds.parts ?_)

theorem State.setSq_holds {p : List Instr} {s : State} (h : Holds p s) : ∀ a1, Holds p (State.setSq s a1) := by
  intro a1
  unfold State.setSq
  try dsimp only
  repeat' first
    | with_reducible assumption
    | (refine holds_of_parts ?_; dsimp only; with_reducible refine Holds.parts ?_)

theorem State.setCq_holds {p : List Instr} {s : State} (h : Holds p s) : ∀ a1, Holds p (State.setCq s a1) := by
  intro a1
  unfold State.setCq
  try dsimp only
  repeat' first
    | with_reducible assumption
    | (refine holds_of_parts ?_; dsimp only; with_reducible refine Holds.parts ?_)

theorem State.putCqe_holds {p : List Instr} {s : State} (h : Holds p s) : ∀ a1 a2 a3 a4 a5 a6, Holds p (State.putCqe s a1 a2 a3 a4 a5 a6) := by
  intro a1 a2 a3 a4 a5 a6
  unfold State.putCqe
  try dsimp only
  repeat' first
    | with_reducible assumption
    | with_reducible refine holds_ite (fun _ => ?_) (fun _ => ?_)
    | with_reducible refine State.hostWrite_holds ?_ _ _
    | with_reducible refine State.setCq_holds ?_ _
    | with_reducible refine State.interrupt_holds ?_ _ _

theorem State.nvmeComplete_holds {p : List Instr} {s : State} (h : Holds p s) : ∀ a1 a2 a3 a4 a5, Holds p (State.nvmeComplete s a1 a2 a3 a4 a5) := by
  intro a1 a2 a3 a4 a5
  unfold State.nvmeComplete
  try dsimp only
  repeat' first
    | with_reducible assumption
    | with_reducible refine holds_ite (fun _ => ?_) (fun _ => ?_)
    | with_reducible refine State.count_holds ?_ _ _ _
    | with_reducible refine State.setController_holds ?_ _
    | with_reducible refine State.errAdd_holds ?_ _ _
    | with_reducible refine State.setCq_holds ?_ _
    | with_reducible refine State.putCqe_holds ?_ _ _ _ _ _ _
    | split

theorem State.releaseCq_holds {p : List Instr} {s : State} (h : Holds p s) : ∀ a1 a2 a3, Holds p (State.releaseCq s a1 a2 a3) := by
  intro a1 a2 a3
  induction a3 generalizing s a1 a2 with
  | zero =>
    unfold State.releaseCq
    repeat' first
      | with_reducible assumption
  | succ k ih =>
    unfold State.releaseCq
    try dsimp only
    repeat' first
      | with_reducible assumption
      | (with_reducible apply ih)
      | with_reducible refine holds_ite (fun _ => ?_) (fun _ => ?_)
      | with_reducible refine State.putCqe_holds ?_ _ _ _ _ _ _
      | with_reducible refine State.setCq_holds ?_ _
      | split

theorem State.setCmdRing_holds {p : List Instr} {s : State} (h : Holds p s) : ∀ a1 a2, Holds p (State.setCmdRing s a1 a2) := by
  intro a1 a2
  unfold State.setCmdRing
  try dsimp only
  repeat' first
    | with_reducible assumption
    | (refine holds_of_parts ?_; dsimp only; with_reducible refine Holds.parts ?_)

theorem State.putEntry_holds {p : List Instr} {s : State} (h : Holds p s) : ∀ a1 a2 a3, Holds p (State.putEntry s a1 a2 a3) := by
  intro a1 a2 a3
  unfold State.putEntry
  try dsimp only
  repeat' first
    | with_reducible assumption
    | with_reducible refine State.hostWrite_holds ?_ _ _
    | with_reducible refine State.setCmdRing_holds ?_ _ _
    | with_reducible refine State.interrupt_holds ?_ _ _
    | with_reducible refine State.count_holds ?_ _ _ _

theorem State.releaseEntries_holds {p : List Instr} {s : State} (h : Holds p s) : ∀ a1 a2, Holds p (State.releaseEntries s a1 a2) := by
  intro a1 a2
  induction a2 generalizing s a1 with
  | zero =>
    unfold State.releaseEntries
    repeat' first
      | with_reducible assumption
  | succ k ih =>
    unfold State.releaseEntries
    try dsimp only
    repeat' first
      | with_reducible assumption
      | (with_reducible apply ih)
      | with_reducible refine holds_ite (fun _ => ?_) (fun _ => ?_)
      | with_reducible refine State.putEntry_holds ?_ _ _ _
      | split

theorem State.settleDelete_holds {p : List Instr} {s : State} (h : Holds p s) : ∀ a1, Holds p (State.settleDelete s a1) := by
  intro a1
  unfold State.settleDelete
  try dsimp only
  repeat' first
    | with_reducible assumption
    | with_reducible refine holds_ite (fun _ => ?_) (fun _ => ?_)
    | with_reducible refine State.nvmeComplete_holds ?_ _ _ _ _ _
    | (refine holds_of_parts ?_; dsimp only; with_reducible refine Holds.parts ?_)
    | split

theorem State.completeCommand_holds {p : List Instr} {s : State} (h : Holds p s) : ∀ a1 a2 a3 a4, Holds p (State.completeCommand s a1 a2 a3 a4) := by
  intro a1 a2 a3 a4
  unfold State.completeCommand
  try dsimp only
  repeat' first
    | with_reducible assumption
    | with_reducible refine holds_ite (fun _ => ?_) (fun _ => ?_)
    | with_reducible refine State.setCmdRing_holds ?_ _ _
    | with_reducible refine State.putEntry_holds ?_ _ _ _
    | with_reducible refine State.settleDelete_holds ?_ _
    | (refine holds_of_parts ?_; dsimp only; with_reducible refine Holds.parts ?_)
    | split

theorem State.popEntry_holds {p : List Instr} {s : State} (h : Holds p s) : ∀ a1 a2, Holds p (State.popEntry s a1 a2) := by
  intro a1 a2
  unfold State.popEntry
  try dsimp only
  repeat' first
    | with_reducible assumption
    | with_reducible refine State.setCmdRing_holds ?_ _ _
    | split

theorem State.rejectUnknown_holds {p : List Instr} {s : State} (h : Holds p s) : ∀ a1 a2, Holds p (State.rejectUnknown s a1 a2) := by
  intro a1 a2
  induction a2 generalizing s a1 with
  | zero =>
    unfold State.rejectUnknown
    repeat' first
      | with_reducible assumption
  | succ k ih =>
    unfold State.rejectUnknown
    try dsimp only
    repeat' first
      | with_reducible assumption
      | (with_reducible apply ih)
      | with_reducible refine holds_ite (fun _ => ?_) (fun _ => ?_)
      | with_reducible refine State.completeCommand_holds ?_ _ _ _ _
      | with_reducible refine State.popEntry_holds ?_ _ _
      | split

theorem State.takeCommand_holds {p : List Instr} {s : State} (h : Holds p s) : ∀ a1 a2, HoldsIn p (fun r => r.2.2) (s.takeCommand a1 a2) := by
  intro a1 a2
  unfold State.takeCommand
  repeat' first
    | exact HoldsIn.none
    | with_reducible refine HoldsIn.some ?_
    | with_reducible refine HoldsIn.ite (fun _ => ?_) (fun _ => ?_)
    | with_reducible assumption
    | with_reducible refine State.rejectUnknown_holds ?_ _ _
    | with_reducible refine State.popEntry_holds ?_ _ _
    | split

theorem State.discardDoorbell_holds {p : List Instr} {s : State} (h : Holds p s) : ∀ a1, Holds p (State.discardDoorbell s a1) := by
  intro a1
  unfold State.discardDoorbell
  try dsimp only
  repeat' first
    | with_reducible assumption
    | with_reducible refine State.errAdd_holds ?_ _ _
    | with_reducible refine State.ringError_holds ?_ _ _
    | split

/-! ## Machine/Recipe.lean -/

theorem State.placeRing_holds {p : List Instr} {s : State} (h : Holds p s) : ∀ a1 a2 a3 a4 a5 a6 a7 a8 a9, Holds p (State.placeRing s a1 a2 a3 a4 a5 a6 a7 a8 a9) := by
  intro a1 a2 a3 a4 a5 a6 a7 a8 a9
  unfold State.placeRing
  try dsimp only
  repeat' first
    | with_reducible assumption
    | with_reducible refine State.setRing_holds ?_ _ _ _
    | (refine holds_of_parts ?_; dsimp only; with_reducible refine Holds.parts ?_)

theorem State.placeRecipe_holds {p : List Instr} {s : State} (h : Holds p s) : ∀ a1 a2 a3, Holds p (State.placeRecipe s a1 a2 a3) := by
  intro a1 a2 a3
  unfold State.placeRecipe
  try dsimp only
  repeat' first
    | with_reducible assumption
    | intro _
    | with_reducible refine foldl_holds ?_ ?_
    | with_reducible refine State.writeDram_holds ?_ _ _
    | with_reducible refine State.setCore_holds ?_ ?_
    | with_reducible refine State.placeRing_holds ?_ _ _ _ _ _ _ _ _ _
    | (refine holds_of_parts ?_; dsimp only; with_reducible refine Holds.parts ?_)
    | with_reducible refine Holds.status (p := p) ?_ _
    | (refine legal_of_word ?_; dsimp only; with_reducible refine statusLegal_word ?_)

theorem Core.startRecipe_holds {k : Core} (h : k.statusLegal) : ∀ a1 a2 a3, (k.startRecipe a1 a2 a3).statusLegal :=
  fun _ _ _ => legal_of_word (StatusLegal.putLevel h (.inl rfl) (by decide))

/-! ## Machine/Flash.lean -/

theorem State.setDie_holds {p : List Instr} {s : State} (h : Holds p s) : ∀ a1 a2, Holds p (State.setDie s a1 a2) := by
  intro a1 a2
  unfold State.setDie
  try dsimp only
  repeat' first
    | with_reducible assumption
    | (refine holds_of_parts ?_; dsimp only; with_reducible refine Holds.parts ?_)

theorem State.repopulate_holds {p : List Instr} {s : State} (h : Holds p s) : Holds p (State.repopulate s) := by
  unfold State.repopulate
  try dsimp only
  repeat' first
    | with_reducible assumption
    | with_reducible refine State.setFld_holds ?_ _ _
    | with_reducible refine State.setFlag_holds ?_ _ _
    | (refine holds_of_parts ?_; dsimp only; with_reducible refine Holds.parts ?_)

theorem State.setChanRate_holds {p : List Instr} {s : State} (h : Holds p s) : ∀ a1 a2, Holds p (State.setChanRate s a1 a2) := by
  intro a1 a2
  unfold State.setChanRate
  try dsimp only
  repeat' first
    | with_reducible assumption
    | with_reducible refine State.setReg_holds ?_ _ _

theorem State.failChannel_holds {p : List Instr} {s : State} (h : Holds p s) : ∀ a1, Holds p (State.failChannel s a1) := by
  intro a1
  unfold State.failChannel
  try dsimp only
  repeat' first
    | with_reducible assumption
    | with_reducible refine holds_ite (fun _ => ?_) (fun _ => ?_)
    | with_reducible refine State.repopulate_holds ?_
    | with_reducible refine State.setChanRate_holds ?_ _ _
    | (refine holds_of_parts ?_; dsimp only; with_reducible refine Holds.parts ?_)

theorem State.dieDead_holds {p : List Instr} {s : State} (h : Holds p s) : ∀ a1, Holds p (State.dieDead s a1) := by
  intro a1
  unfold State.dieDead
  try dsimp only
  repeat' first
    | with_reducible assumption
    | with_reducible refine holds_ite (fun _ => ?_) (fun _ => ?_)
    | with_reducible refine State.setDie_holds ?_ _ _
    | with_reducible refine State.errAdd_holds ?_ _ _
    | with_reducible refine State.failChannel_holds ?_ _
    | (refine holds_of_parts ?_; dsimp only; with_reducible refine Holds.parts ?_)
    | split

theorem State.checkReadOnly_holds {p : List Instr} {s : State} (h : Holds p s) : Holds p (State.checkReadOnly s) := by
  unfold State.checkReadOnly
  try dsimp only
  repeat' first
    | with_reducible assumption
    | with_reducible refine holds_ite (fun _ => ?_) (fun _ => ?_)
    | with_reducible refine State.setFld_holds ?_ _ _

theorem State.setSuperblock_holds {p : List Instr} {s : State} (h : Holds p s) : ∀ a1 a2, Holds p (State.setSuperblock s a1 a2) := by
  intro a1 a2
  unfold State.setSuperblock
  try dsimp only
  repeat' first
    | with_reducible assumption
    | (refine holds_of_parts ?_; dsimp only; with_reducible refine Holds.parts ?_)

theorem State.askRefresh_holds {p : List Instr} {s : State} (h : Holds p s) : ∀ a1 a2, Holds p (State.askRefresh s a1 a2) := by
  intro a1 a2
  unfold State.askRefresh
  try dsimp only
  repeat' first
    | with_reducible assumption
    | with_reducible refine State.setSuperblock_holds ?_ _ _
    | split

theorem State.retireBlock_holds {p : List Instr} {s : State} (h : Holds p s) : ∀ a1 a2, Holds p (State.retireBlock s a1 a2) := by
  intro a1 a2
  unfold State.retireBlock
  try dsimp only
  repeat' first
    | with_reducible assumption
    | with_reducible refine holds_ite (fun _ => ?_) (fun _ => ?_)
    | with_reducible refine State.askRefresh_holds ?_ _ _
    | with_reducible refine State.setDie_holds ?_ _ _
    | with_reducible refine State.dieDead_holds ?_ _
    | with_reducible refine State.checkReadOnly_holds ?_
    | split

theorem State.readSteps_holds {p : List Instr} {s : State} (h : Holds p s) : ∀ a1 a2, Holds p (State.readSteps s a1 a2).2 := by
  intro a1 a2
  unfold State.readSteps
  try dsimp only
  repeat' first
    | with_reducible assumption
    | with_reducible refine holds_ite (fun _ => ?_) (fun _ => ?_)
    | with_reducible refine holds_snd_ite (fun _ => ?_) (fun _ => ?_)
    | with_reducible refine State.count_holds ?_ _ _ _
    | with_reducible refine State.errAdd_holds ?_ _ _
    | (refine holds_of_parts ?_; dsimp only; with_reducible refine Holds.parts ?_)
    | split

theorem State.rebuildCodeword_holds {p : List Instr} {s : State} (h : Holds p s) : ∀ a1, Holds p (State.rebuildCodeword s a1).2 := by
  intro a1
  unfold State.rebuildCodeword
  try dsimp only
  repeat' first
    | with_reducible assumption
    | intro _
    | with_reducible refine holds_snd_ite (fun _ => ?_) (fun _ => ?_)
    | with_reducible refine foldl_snd_holds ?_ ?_
    | with_reducible refine State.readSteps_holds ?_ _ _
    | with_reducible refine State.errAdd_holds ?_ _ _
    | split

theorem State.readCodeword_holds {p : List Instr} {s : State} (h : Holds p s) : ∀ a1, Holds p (State.readCodeword s a1).2 := by
  intro a1
  unfold State.readCodeword
  try dsimp only
  repeat' first
    | with_reducible assumption
    | with_reducible refine holds_ite (fun _ => ?_) (fun _ => ?_)
    | with_reducible refine holds_snd_ite (fun _ => ?_) (fun _ => ?_)
    | with_reducible refine State.rebuildCodeword_holds ?_ _
    | with_reducible refine State.errAdd_holds ?_ _ _
    | with_reducible refine State.readSteps_holds ?_ _ _
    | with_reducible refine State.askRefresh_holds ?_ _ _
    | with_reducible refine State.retireBlock_holds ?_ _ _
    | split

theorem State.suspendDie_holds {p : List Instr} {s : State} (h : Holds p s) : ∀ a1, Holds p (State.suspendDie s a1) := by
  intro a1
  unfold State.suspendDie
  try dsimp only
  repeat' first
    | with_reducible assumption
    | with_reducible refine holds_ite (fun _ => ?_) (fun _ => ?_)
    | with_reducible refine State.count_holds ?_ _ _ _
    | with_reducible refine State.setDie_holds ?_ _ _
    | split

theorem State.physCodeword_holds {p : List Instr} {s : State} (h : Holds p s) : ∀ a1 a2, Holds p (State.physCodeword s a1 a2).2 := by
  intro a1 a2
  unfold State.physCodeword
  try dsimp only
  repeat' first
    | with_reducible assumption
    | with_reducible refine holds_snd_ite (fun _ => ?_) (fun _ => ?_)
    | with_reducible refine State.count_holds ?_ _ _ _
    | with_reducible refine State.readSteps_holds ?_ _ _

theorem State.calibrated_holds {p : List Instr} {s : State} (h : Holds p s) : ∀ a1 a2, Holds p (State.calibrated s a1 a2) := by
  intro a1 a2
  unfold State.calibrated
  try dsimp only
  repeat' first
    | with_reducible assumption
    | (refine holds_of_parts ?_; dsimp only; with_reducible refine Holds.parts ?_)

theorem State.patrolOne_holds {p : List Instr} {s : State} (h : Holds p s) : ∀ a1 a2, Holds p (State.patrolOne s a1 a2) := by
  intro a1 a2
  unfold State.patrolOne
  try dsimp only
  repeat' first
    | with_reducible assumption
    | intro _
    | with_reducible refine holds_ite (fun _ => ?_) (fun _ => ?_)
    | with_reducible refine foldl_holds ?_ ?_
    | with_reducible refine State.count_holds ?_ _ _ _
    | with_reducible refine State.setSuperblock_holds ?_ _ _
    | (refine holds_of_parts ?_; dsimp only; with_reducible refine Holds.parts ?_)

/-! ## Machine/Ftl.lean -/

theorem State.answer_holds {p : List Instr} {s : State} (h : Holds p s) : ∀ a1 a2 a3, Holds p (State.answer s a1 a2 a3) := by
  intro a1 a2 a3
  unfold State.answer
  try dsimp only
  repeat' first
    | with_reducible assumption
    | with_reducible refine holds_ite (fun _ => ?_) (fun _ => ?_)
    | with_reducible refine State.finish_holds ?_ _ _ _ _
    | with_reducible refine State.nvmeComplete_holds ?_ _ _ _ _ _
    | with_reducible refine State.completeCommand_holds ?_ _ _ _ _
    | split

theorem State.setMap_holds {p : List Instr} {s : State} (h : Holds p s) : ∀ a1 a2 a3, Holds p (State.setMap s a1 a2 a3) := by
  intro a1 a2 a3
  unfold State.setMap
  try dsimp only
  repeat' first
    | with_reducible assumption
    | with_reducible refine holds_ite (fun _ => ?_) (fun _ => ?_)
    | (refine holds_of_parts ?_; dsimp only; with_reducible refine Holds.parts ?_)

theorem State.countSpaces_holds {p : List Instr} {s : State} (h : Holds p s) : Holds p (State.countSpaces s) := by
  unfold State.countSpaces
  try dsimp only
  repeat' first
    | with_reducible assumption
    | with_reducible refine State.setFld_holds ?_ _ _

theorem State.unmap_holds {p : List Instr} {s : State} (h : Holds p s) : ∀ a1 a2 a3, Holds p (State.unmap s a1 a2 a3) := by
  intro a1 a2 a3
  unfold State.unmap
  try dsimp only
  repeat' first
    | with_reducible assumption
    | intro _
    | with_reducible refine foldl_holds ?_ ?_
    | with_reducible refine State.setMap_holds ?_ _ _ _

theorem State.applyRecord_holds {p : List Instr} {s : State} (h : Holds p s) : ∀ a1, Holds p (State.applyRecord s a1) := by
  intro a1
  unfold State.applyRecord
  try dsimp only
  repeat' first
    | with_reducible assumption
    | with_reducible refine holds_ite (fun _ => ?_) (fun _ => ?_)
    | with_reducible refine State.setMap_holds ?_ _ _ _
    | with_reducible refine State.unmap_holds ?_ _ _ _
    | with_reducible refine State.setSuperblock_holds ?_ _ _
    | with_reducible refine State.countSpaces_holds ?_
    | (refine holds_of_parts ?_; dsimp only; with_reducible refine Holds.parts ?_)
    | split

theorem State.showJournal_holds {p : List Instr} {s : State} (h : Holds p s) : Holds p (State.showJournal s) := by
  unfold State.showJournal
  try dsimp only
  repeat' first
    | with_reducible assumption
    | with_reducible refine State.setFld_holds ?_ _ _

theorem State.unitDone_holds {p : List Instr} {s : State} (h : Holds p s) : ∀ a1, Holds p (State.unitDone s a1) := by
  intro a1
  unfold State.unitDone
  try dsimp only
  repeat' first
    | with_reducible assumption
    | with_reducible refine holds_ite (fun _ => ?_) (fun _ => ?_)
    | with_reducible refine State.answer_holds ?_ _ _ _
    | (refine holds_of_parts ?_; dsimp only; with_reducible refine Holds.parts ?_)
    | split

theorem State.appendNow_holds {p : List Instr} {s : State} (h : Holds p s) : ∀ a1 a2, Holds p (State.appendNow s a1 a2) := by
  intro a1 a2
  unfold State.appendNow
  try dsimp only
  repeat' first
    | with_reducible assumption
    | with_reducible refine State.unitDone_holds ?_ _
    | with_reducible refine State.showJournal_holds ?_
    | with_reducible refine State.applyRecord_holds ?_ _
    | (refine holds_of_parts ?_; dsimp only; with_reducible refine Holds.parts ?_)

theorem State.append_holds {p : List Instr} {s : State} (h : Holds p s) : ∀ a1 a2, Holds p (State.append s a1 a2) := by
  intro a1 a2
  unfold State.append
  try dsimp only
  repeat' first
    | with_reducible assumption
    | with_reducible refine holds_ite (fun _ => ?_) (fun _ => ?_)
    | with_reducible refine State.appendNow_holds ?_ _ _
    | (refine holds_of_parts ?_; dsimp only; with_reducible refine Holds.parts ?_)

theorem State.drainWaiting_holds {p : List Instr} {s : State} (h : Holds p s) : ∀ a1, Holds p (State.drainWaiting s a1) := by
  intro a1
  induction a1 generalizing s with
  | zero =>
    unfold State.drainWaiting
    repeat' first
      | with_reducible assumption
  | succ k ih =>
    unfold State.drainWaiting
    try dsimp only
    repeat' first
      | with_reducible assumption
      | (with_reducible apply ih)
      | with_reducible refine holds_ite (fun _ => ?_) (fun _ => ?_)
      | with_reducible refine State.appendNow_holds ?_ _ _
      | (refine holds_of_parts ?_; dsimp only; with_reducible refine Holds.parts ?_)
      | split

theorem State.openSuperblock_holds {p : List Instr} {s : State} (h : Holds p s) : ∀ a1, Holds p (State.openSuperblock s a1).2 := by
  intro a1
  unfold State.openSuperblock
  try dsimp only
  repeat' first
    | with_reducible assumption
    | intro _
    | with_reducible refine holds_snd_ite (fun _ => ?_) (fun _ => ?_)
    | with_reducible refine foldl_holds ?_ ?_
    | with_reducible refine State.setFld_holds ?_ _ _
    | with_reducible refine State.setSuperblock_holds ?_ _ _
    | with_reducible refine State.append_holds ?_ _ _
    | (refine holds_of_parts ?_; dsimp only; with_reducible refine Holds.parts ?_)

theorem State.setStream_holds {p : List Instr} {s : State} (h : Holds p s) : ∀ a1 a2, Holds p (State.setStream s a1 a2) := by
  intro a1 a2
  unfold State.setStream
  try dsimp only
  repeat' first
    | with_reducible assumption
    | (refine holds_of_parts ?_; dsimp only; with_reducible refine Holds.parts ?_)

theorem State.fillRound_holds {p : List Instr} {s : State} (h : Holds p s) : ∀ a1 a2, Holds p (State.fillRound s a1 a2) := by
  intro a1 a2
  induction a2 generalizing s a1 with
  | zero =>
    unfold State.fillRound
    repeat' first
      | with_reducible assumption
  | succ k ih =>
    unfold State.fillRound
    try dsimp only
    repeat' first
      | with_reducible assumption
      | (with_reducible apply ih)
      | with_reducible refine holds_ite (fun _ => ?_) (fun _ => ?_)
      | with_reducible refine State.setStream_holds ?_ _ _
      | with_reducible refine State.openSuperblock_holds ?_ _
      | (refine holds_of_parts ?_; dsimp only; with_reducible refine Holds.parts ?_)
      | (with_reducible apply holds_snd; with_reducible assumption)
      | split

theorem State.fill_holds {p : List Instr} {s : State} (h : Holds p s) : ∀ a1, Holds p (State.fill s a1) := by
  intro a1
  unfold State.fill
  try dsimp only
  repeat' first
    | with_reducible assumption
    | with_reducible refine State.fillRound_holds ?_ _ _

theorem State.programWords_holds {p : List Instr} {s : State} (h : Holds p s) : ∀ a1, Holds p (State.programWords s a1) := by
  intro a1
  unfold State.programWords
  try dsimp only
  repeat' first
    | with_reducible assumption
    | intro _
    | with_reducible refine foldl_holds ?_ ?_
    | (refine holds_of_parts ?_; dsimp only; with_reducible refine Holds.parts ?_)
    | split

theorem State.reportUnit_holds {p : List Instr} {s : State} (h : Holds p s) : ∀ a1 a2, Holds p (State.reportUnit s a1 a2) := by
  intro a1 a2
  unfold State.reportUnit
  try dsimp only
  repeat' first
    | with_reducible assumption
    | with_reducible refine State.append_holds ?_ _ _
    | with_reducible refine State.count_holds ?_ _ _ _
    | split

theorem State.closeSb_holds {p : List Instr} {s : State} (h : Holds p s) : ∀ a1, Holds p (State.closeSb s a1) := by
  intro a1
  unfold State.closeSb
  try dsimp only
  repeat' first
    | with_reducible assumption
    | (refine holds_of_parts ?_; dsimp only; with_reducible refine Holds.parts ?_)

theorem State.endRound_holds {p : List Instr} {s : State} (h : Holds p s) : ∀ a1, Holds p (State.endRound s a1) := by
  intro a1
  unfold State.endRound
  try dsimp only
  repeat' first
    | with_reducible assumption
    | with_reducible refine holds_ite (fun _ => ?_) (fun _ => ?_)
    | with_reducible refine State.setStream_holds ?_ _ _
    | with_reducible refine State.closeSb_holds ?_ _
    | with_reducible refine State.fill_holds ?_ _
    | (refine holds_of_parts ?_; dsimp only; with_reducible refine Holds.parts ?_)
    | split

theorem State.prepareMeta_holds {p : List Instr} {s : State} (h : Holds p s) : Holds p (State.prepareMeta s) := by
  unfold State.prepareMeta
  try dsimp only
  repeat' first
    | with_reducible assumption
    | with_reducible refine holds_ite (fun _ => ?_) (fun _ => ?_)
    | with_reducible refine State.openSuperblock_holds ?_ _
    | (refine holds_of_parts ?_; dsimp only; with_reducible refine Holds.parts ?_)
    | (with_reducible apply holds_snd; with_reducible assumption)
    | split

theorem State.advanceMeta_holds {p : List Instr} {s : State} (h : Holds p s) : Holds p (State.advanceMeta s) := by
  unfold State.advanceMeta
  try dsimp only
  repeat' first
    | with_reducible assumption
    | with_reducible refine holds_ite (fun _ => ?_) (fun _ => ?_)
    | with_reducible refine State.closeSb_holds ?_ _
    | (refine holds_of_parts ?_; dsimp only; with_reducible refine Holds.parts ?_)
    | split

theorem State.metaWrite_holds {p : List Instr} {s : State} (h : Holds p s) : ∀ a1 a2 a3 a4 a5, Holds p (State.metaWrite s a1 a2 a3 a4 a5).2 := by
  intro a1 a2 a3 a4 a5
  unfold State.metaWrite
  try dsimp only
  repeat' first
    | with_reducible assumption
    | with_reducible refine holds_snd_ite (fun _ => ?_) (fun _ => ?_)
    | with_reducible refine State.advanceMeta_holds ?_
    | with_reducible refine State.retireBlock_holds ?_ _ _
    | with_reducible refine State.errAdd_holds ?_ _ _
    | with_reducible refine State.count_holds ?_ _ _ _
    | with_reducible refine State.programWords_holds ?_ _
    | with_reducible refine State.prepareMeta_holds ?_
    | split

theorem State.countFree_holds {p : List Instr} {s : State} (h : Holds p s) : ∀ a1, Holds p (State.countFree s a1) := by
  intro a1
  unfold State.countFree
  try dsimp only
  repeat' first
    | with_reducible assumption
    | with_reducible refine holds_ite (fun _ => ?_) (fun _ => ?_)
    | with_reducible refine State.setFld_holds ?_ _ _
    | with_reducible refine State.setFlag_holds ?_ _ _
    | (refine holds_of_parts ?_; dsimp only; with_reducible refine Holds.parts ?_)

theorem State.settleDurable_holds {p : List Instr} {s : State} (h : Holds p s) : Holds p (State.settleDurable s) := by
  unfold State.settleDurable
  try dsimp only
  repeat' first
    | with_reducible assumption
    | intro _
    | with_reducible refine foldl_holds ?_ ?_
    | with_reducible refine State.answer_holds ?_ _ _ _
    | with_reducible refine State.append_holds ?_ _ _
    | with_reducible refine State.countFree_holds ?_ _
    | with_reducible refine State.drainWaiting_holds ?_ _
    | (refine holds_of_parts ?_; dsimp only; with_reducible refine Holds.parts ?_)

theorem State.programJournal_holds {p : List Instr} {s : State} (h : Holds p s) : ∀ a1, Holds p (State.programJournal s a1) := by
  intro a1
  unfold State.programJournal
  try dsimp only
  repeat' first
    | with_reducible assumption
    | with_reducible refine State.metaWrite_holds ?_ _ _ _ _ _
    | with_reducible refine State.showJournal_holds ?_
    | with_reducible refine State.settleDurable_holds ?_
    | with_reducible refine State.count_holds ?_ _ _ _
    | (refine holds_of_parts ?_; dsimp only; with_reducible refine Holds.parts ?_)
    | split

theorem State.cachePage_holds {p : List Instr} {s : State} (h : Holds p s) : ∀ a1, Holds p (State.cachePage s a1) := by
  intro a1
  unfold State.cachePage
  try dsimp only
  repeat' first
    | with_reducible assumption
    | with_reducible refine holds_ite (fun _ => ?_) (fun _ => ?_)
    | (refine holds_of_parts ?_; dsimp only; with_reducible refine Holds.parts ?_)

theorem State.touchMap_holds {p : List Instr} {s : State} (h : Holds p s) : ∀ a1 a2, Holds p (State.touchMap s a1 a2) := by
  intro a1 a2
  unfold State.touchMap
  try dsimp only
  repeat' first
    | with_reducible assumption
    | with_reducible refine holds_ite (fun _ => ?_) (fun _ => ?_)
    | with_reducible refine State.count_holds ?_ _ _ _
    | with_reducible refine State.cachePage_holds ?_ _

theorem State.writeBack_holds {p : List Instr} {s : State} (h : Holds p s) : ∀ a1 a2, Holds p (State.writeBack s a1 a2) := by
  intro a1 a2
  unfold State.writeBack
  try dsimp only
  repeat' first
    | with_reducible assumption
    | with_reducible refine State.metaWrite_holds ?_ _ _ _ _ _
    | with_reducible refine State.append_holds ?_ _ _
    | with_reducible refine State.count_holds ?_ _ _ _
    | (refine holds_of_parts ?_; dsimp only; with_reducible refine Holds.parts ?_)
    | split

theorem State.readUnit_holds {p : List Instr} {s : State} (h : Holds p s) : ∀ a1 a2, Holds p (State.readUnit s a1 a2).2 := by
  intro a1 a2
  unfold State.readUnit
  try dsimp only
  repeat' first
    | with_reducible assumption
    | with_reducible refine holds_snd_ite (fun _ => ?_) (fun _ => ?_)
    | with_reducible refine State.touchMap_holds ?_ _ _
    | with_reducible refine State.errAdd_holds ?_ _ _
    | with_reducible refine State.readCodeword_holds ?_ _
    | split

theorem State.readRun_holds {p : List Instr} {s : State} (h : Holds p s) : ∀ a1 a2 a3, Holds p (State.readRun s a1 a2 a3).2 := by
  intro a1 a2 a3
  unfold State.readRun
  try dsimp only
  repeat' first
    | with_reducible assumption
    | intro _
    | with_reducible refine foldl_snd_holds ?_ ?_
    | with_reducible refine State.readUnit_holds ?_ _ _

theorem State.showCredits_holds {p : List Instr} {s : State} (h : Holds p s) : Holds p (State.showCredits s) := by
  unfold State.showCredits
  try dsimp only
  repeat' first
    | with_reducible assumption
    | with_reducible refine State.setFld_holds ?_ _ _

theorem State.admitUnits_holds {p : List Instr} {s : State} (h : Holds p s) : ∀ a1, Holds p (State.admitUnits s a1) := by
  intro a1
  induction a1 generalizing s with
  | zero =>
    unfold State.admitUnits
    repeat' first
      | with_reducible assumption
  | succ k ih =>
    unfold State.admitUnits
    try dsimp only
    repeat' first
      | with_reducible assumption
      | (with_reducible apply ih)
      | with_reducible refine holds_ite (fun _ => ?_) (fun _ => ?_)
      | (refine holds_of_parts ?_; dsimp only; with_reducible refine Holds.parts ?_)
      | split

theorem State.pumpWrites_holds {p : List Instr} {s : State} (h : Holds p s) : Holds p (State.pumpWrites s) := by
  unfold State.pumpWrites
  try dsimp only
  repeat' first
    | with_reducible assumption
    | with_reducible refine State.fill_holds ?_ _
    | with_reducible refine State.showCredits_holds ?_
    | with_reducible refine State.admitUnits_holds ?_ _

theorem State.beginWrite_holds {p : List Instr} {s : State} (h : Holds p s) : ∀ a1 a2 a3 a4 a5, Holds p (State.beginWrite s a1 a2 a3 a4 a5) := by
  intro a1 a2 a3 a4 a5
  unfold State.beginWrite
  try dsimp only
  repeat' first
    | with_reducible assumption
    | with_reducible refine State.pumpWrites_holds ?_
    | (refine holds_of_parts ?_; dsimp only; with_reducible refine Holds.parts ?_)

theorem State.recordFor_holds {p : List Instr} {s : State} (h : Holds p s) : ∀ a1 a2, Holds p (State.recordFor s a1 a2) := by
  intro a1 a2
  unfold State.recordFor
  try dsimp only
  repeat' first
    | with_reducible assumption
    | intro _
    | with_reducible refine foldl_holds ?_ ?_
    | with_reducible refine State.append_holds ?_ _ _
    | (refine holds_of_parts ?_; dsimp only; with_reducible refine Holds.parts ?_)

theorem State.trimRuns_holds {p : List Instr} {s : State} (h : Holds p s) : ∀ a1 a2 a3 a4 a5, Holds p (State.trimRuns s a1 a2 a3 a4 a5) := by
  intro a1 a2 a3 a4 a5
  unfold State.trimRuns
  try dsimp only
  repeat' first
    | with_reducible assumption
    | with_reducible refine holds_ite (fun _ => ?_) (fun _ => ?_)
    | with_reducible refine State.count_holds ?_ _ _ _
    | with_reducible refine State.answer_holds ?_ _ _ _
    | with_reducible refine State.recordFor_holds ?_ _ _
    | (refine holds_of_parts ?_; dsimp only; with_reducible refine Holds.parts ?_)

theorem State.createSpace_holds {p : List Instr} {s : State} (h : Holds p s) : ∀ a1 a2 a3 a4, Holds p (State.createSpace s a1 a2 a3 a4) := by
  intro a1 a2 a3 a4
  unfold State.createSpace
  try dsimp only
  repeat' first
    | with_reducible assumption
    | with_reducible refine holds_ite (fun _ => ?_) (fun _ => ?_)
    | with_reducible refine State.answer_holds ?_ _ _ _
    | with_reducible refine State.recordFor_holds ?_ _ _
    | with_reducible refine State.countSpaces_holds ?_
    | (refine holds_of_parts ?_; dsimp only; with_reducible refine Holds.parts ?_)

theorem State.deleteSpace_holds {p : List Instr} {s : State} (h : Holds p s) : ∀ a1 a2, Holds p (State.deleteSpace s a1 a2) := by
  intro a1 a2
  unfold State.deleteSpace
  try dsimp only
  repeat' first
    | with_reducible assumption
    | with_reducible refine holds_ite (fun _ => ?_) (fun _ => ?_)
    | with_reducible refine State.answer_holds ?_ _ _ _
    | with_reducible refine State.recordFor_holds ?_ _ _

theorem State.beginSync_holds {p : List Instr} {s : State} (h : Holds p s) : ∀ a1 a2, Holds p (State.beginSync s a1 a2) := by
  intro a1 a2
  unfold State.beginSync
  try dsimp only
  repeat' first
    | with_reducible assumption
    | with_reducible refine holds_ite (fun _ => ?_) (fun _ => ?_)
    | with_reducible refine State.answer_holds ?_ _ _ _
    | (refine holds_of_parts ?_; dsimp only; with_reducible refine Holds.parts ?_)

/-! ## Machine/Reclaim.lean -/

theorem State.beginGc_holds {p : List Instr} {s : State} (h : Holds p s) : ∀ a1 a2 a3, Holds p (State.beginGc s a1 a2 a3) := by
  intro a1 a2 a3
  unfold State.beginGc
  try dsimp only
  repeat' first
    | with_reducible assumption
    | with_reducible refine holds_ite (fun _ => ?_) (fun _ => ?_)
    | with_reducible refine State.setFld_holds ?_ _ _
    | with_reducible refine State.setFlag_holds ?_ _ _
    | (refine holds_of_parts ?_; dsimp only; with_reducible refine Holds.parts ?_)

theorem State.awaitFree_holds {p : List Instr} {s : State} (h : Holds p s) : ∀ a1 a2, Holds p (State.awaitFree s a1 a2) := by
  intro a1 a2
  unfold State.awaitFree
  try dsimp only
  repeat' first
    | with_reducible assumption
    | (refine holds_of_parts ?_; dsimp only; with_reducible refine Holds.parts ?_)

theorem State.freeVictim_holds {p : List Instr} {s : State} (h : Holds p s) : ∀ a1, Holds p (State.freeVictim s a1) := by
  intro a1
  unfold State.freeVictim
  try dsimp only
  repeat' first
    | with_reducible assumption
    | with_reducible refine State.awaitFree_holds ?_ _ _
    | with_reducible refine State.append_holds ?_ _ _
    | with_reducible refine State.setFlag_holds ?_ _ _

theorem State.eraseBlock_holds {p : List Instr} {s : State} (h : Holds p s) : ∀ a1 a2, Holds p (State.eraseBlock s a1 a2) := by
  intro a1 a2
  unfold State.eraseBlock
  try dsimp only
  repeat' first
    | with_reducible assumption
    | (refine holds_of_parts ?_; dsimp only; with_reducible refine Holds.parts ?_)

theorem State.rebuildMember_holds {p : List Instr} {s : State} (h : Holds p s) : ∀ a1 a2 a3 a4 a5, Holds p (State.rebuildMember s a1 a2 a3 a4 a5) := by
  intro a1 a2 a3 a4 a5
  unfold State.rebuildMember
  try dsimp only
  repeat' first
    | with_reducible assumption
    | intro _
    | with_reducible refine foldl_holds ?_ ?_
    | with_reducible refine State.rebuildCodeword_holds ?_ _
    | with_reducible refine State.errAdd_holds ?_ _ _
    | with_reducible refine State.setSuperblock_holds ?_ _ _
    | with_reducible refine State.append_holds ?_ _ _
    | with_reducible refine State.count_holds ?_ _ _ _
    | (refine holds_of_parts ?_; dsimp only; with_reducible refine Holds.parts ?_)
    | split

theorem State.takeCheckpoint_holds {p : List Instr} {s : State} (h : Holds p s) : Holds p (State.takeCheckpoint s) := by
  unfold State.takeCheckpoint
  try dsimp only
  repeat' first
    | with_reducible assumption
    | intro _
    | with_reducible refine foldl_holds ?_ ?_
    | with_reducible refine State.writeBack_holds ?_ _ _
    | with_reducible refine State.showJournal_holds ?_
    | (refine holds_of_parts ?_; dsimp only; with_reducible refine Holds.parts ?_)

theorem State.showTotals_holds {p : List Instr} {s : State} (h : Holds p s) : Holds p (State.showTotals s) := by
  unfold State.showTotals
  try dsimp only
  repeat' first
    | with_reducible assumption
    | with_reducible refine State.setFld_holds ?_ _ _

theorem State.startMeta_holds {p : List Instr} {s : State} (h : Holds p s) : Holds p (State.startMeta s) := by
  unfold State.startMeta
  try dsimp only
  repeat' first
    | with_reducible assumption
    | with_reducible refine State.openSuperblock_holds ?_ _
    | (refine holds_of_parts ?_; dsimp only; with_reducible refine Holds.parts ?_)
    | (with_reducible apply holds_snd; with_reducible assumption)
    | split

theorem State.armFlushUp_holds {p : List Instr} {s : State} (h : Holds p s) : ∀ a1, Holds p (State.armFlushUp s a1) := by
  intro a1
  induction a1 generalizing s with
  | zero =>
    unfold State.armFlushUp
    repeat' first
      | with_reducible assumption
  | succ k ih =>
    unfold State.armFlushUp
    try dsimp only
    repeat' first
      | with_reducible assumption
      | (with_reducible apply ih)
      | with_reducible refine holds_ite (fun _ => ?_) (fun _ => ?_)
      | with_reducible refine State.openSuperblock_holds ?_ _
      | (refine holds_of_parts ?_; dsimp only; with_reducible refine Holds.parts ?_)
      | (with_reducible apply holds_snd; with_reducible assumption)
      | split

theorem State.armFlush_holds {p : List Instr} {s : State} (h : Holds p s) : Holds p (State.armFlush s) := by
  unfold State.armFlush
  try dsimp only
  repeat' first
    | with_reducible assumption
    | with_reducible refine State.armFlushUp_holds ?_ _
    | (refine holds_of_parts ?_; dsimp only; with_reducible refine Holds.parts ?_)

theorem State.formatFlash_holds {p : List Instr} {s : State} (h : Holds p s) : Holds p (State.formatFlash s) := by
  unfold State.formatFlash
  try dsimp only
  repeat' first
    | with_reducible assumption
    | with_reducible refine State.showTotals_holds ?_
    | with_reducible refine State.setFld_holds ?_ _ _
    | with_reducible refine State.takeCheckpoint_holds ?_
    | with_reducible refine State.armFlush_holds ?_
    | with_reducible refine State.startMeta_holds ?_
    | (refine holds_of_parts ?_; dsimp only; with_reducible refine Holds.parts ?_)

theorem State.replay_holds {p : List Instr} {s : State} (h : Holds p s) : ∀ a1 a2, Holds p (State.replay s a1 a2) := by
  intro a1 a2
  induction a2 generalizing s a1 with
  | zero =>
    unfold State.replay
    repeat' first
      | with_reducible assumption
  | succ k ih =>
    unfold State.replay
    try dsimp only
    repeat' first
      | with_reducible assumption
      | intro _
      | (with_reducible apply ih)
      | with_reducible refine foldl_holds ?_ ?_
      | with_reducible refine State.applyRecord_holds ?_ _
      | (refine holds_of_parts ?_; dsimp only; with_reducible refine Holds.parts ?_)
      | split

theorem State.loadMapPage_holds {p : List Instr} {s : State} (h : Holds p s) : ∀ a1 a2, Holds p (State.loadMapPage s a1 a2) := by
  intro a1 a2
  unfold State.loadMapPage
  try dsimp only
  repeat' first
    | with_reducible assumption
    | intro _
    | with_reducible refine holds_ite (fun _ => ?_) (fun _ => ?_)
    | with_reducible refine foldl_holds ?_ ?_
    | (refine holds_of_parts ?_; dsimp only; with_reducible refine Holds.parts ?_)
    | split

theorem State.scanWord_holds {p : List Instr} {s : State} (h : Holds p s) : ∀ a1 a2 a3 a4, Holds p (State.scanWord s a1 a2 a3 a4) := by
  intro a1 a2 a3 a4
  unfold State.scanWord
  try dsimp only
  repeat' first
    | with_reducible assumption
    | with_reducible refine holds_ite (fun _ => ?_) (fun _ => ?_)
    | with_reducible refine State.setMap_holds ?_ _ _ _
    | split

theorem State.reverseScan_holds {p : List Instr} {s : State} (h : Holds p s) : ∀ a1, Holds p (State.reverseScan s a1) := by
  intro a1
  unfold State.reverseScan
  try dsimp only
  repeat' first
    | with_reducible assumption
    | intro _
    | with_reducible refine foldl_holds ?_ ?_
    | with_reducible refine State.scanWord_holds ?_ _ _ _ _
    | with_reducible refine State.setSuperblock_holds ?_ _ _

theorem State.recover_holds {p : List Instr} {s : State} (h : Holds p s) : ∀ a1, Holds p (State.recover s a1) := by
  intro a1
  unfold State.recover
  try dsimp only
  repeat' first
    | with_reducible assumption
    | intro _
    | with_reducible refine foldl_holds ?_ ?_
    | with_reducible refine State.loadMapPage_holds ?_ _ _
    | with_reducible refine State.replay_holds ?_ _ _
    | with_reducible refine State.reverseScan_holds ?_ _
    | with_reducible refine State.setFld_holds ?_ _ _
    | with_reducible refine State.armFlush_holds ?_
    | with_reducible refine State.startMeta_holds ?_
    | with_reducible refine State.countSpaces_holds ?_
    | with_reducible refine State.showTotals_holds ?_
    | with_reducible refine State.takeCheckpoint_holds ?_
    | with_reducible refine State.beginGc_holds ?_ _ _ _
    | with_reducible refine State.checkReadOnly_holds ?_
    | (refine holds_of_parts ?_; dsimp only; with_reducible refine Holds.parts ?_)
    | split

end Sys2Proof.Machine
end

