-- ==== Sys2Proof/Laws/KeepEngines.lean ====
section
/-!
SUPPORT. What every operation keeps (`Holds`, Laws/KeepCore.lean): the fetch, mill, kiln, mash, lauter, token and cask units.
-/

namespace Sys2Proof.Machine

/-! ## Machine/Fetch.lean -/

theorem State.spaceBytes_holds {p : List Instr} {s : State} (h : Holds p s) : ∀ a1 a2 a3, Holds p (State.spaceBytes s a1 a2 a3).2 := by
  intro a1 a2 a3
  unfold State.spaceBytes
  try dsimp only
  repeat' first
    | with_reducible assumption
    | with_reducible refine holds_snd_ite (fun _ => ?_) (fun _ => ?_)
    | with_reducible refine State.freshFree_holds ?_
    | with_reducible refine State.readRun_holds ?_ _ _ _
    | split

theorem State.loadCatalog_holds {p : List Instr} {s : State} (h : Holds p s) : ∀ a1 a2, Holds p (State.loadCatalog s a1 a2) := by
  intro a1 a2
  unfold State.loadCatalog
  try dsimp only
  repeat' first
    | with_reducible assumption
    | with_reducible refine State.spaceBytes_holds ?_ _ _ _
    | with_reducible refine State.count_holds ?_ _ _ _
    | (refine holds_of_parts ?_; dsimp only; with_reducible refine Holds.parts ?_)

theorem State.setFetchStream_holds {p : List Instr} {s : State} (h : Holds p s) : ∀ a1 a2, Holds p (State.setFetchStream s a1 a2) := by
  intro a1 a2
  unfold State.setFetchStream
  try dsimp only
  repeat' first
    | with_reducible assumption
    | (refine holds_of_parts ?_; dsimp only; with_reducible refine Holds.parts ?_)

theorem State.showFetch_holds {p : List Instr} {s : State} (h : Holds p s) : Holds p (State.showFetch s) := by
  unfold State.showFetch
  try dsimp only
  repeat' first
    | with_reducible assumption
    | with_reducible refine State.setFld_holds ?_ _ _

theorem State.closeStream_holds {p : List Instr} {s : State} (h : Holds p s) : ∀ a1, Holds p (State.closeStream s a1) := by
  intro a1
  unfold State.closeStream
  try dsimp only
  repeat' first
    | with_reducible assumption
    | with_reducible refine State.showFetch_holds ?_
    | (refine holds_of_parts ?_; dsimp only; with_reducible refine Holds.parts ?_)

theorem State.countEntry_holds {p : List Instr} {s : State} (h : Holds p s) : ∀ a1, Holds p (State.countEntry s a1) := by
  intro a1
  unfold State.countEntry
  repeat' first
    | with_reducible assumption
    | with_reducible refine holds_ite (fun _ => ?_) (fun _ => ?_)
    | with_reducible refine State.errAdd_holds ?_ _ _

theorem State.stageItem_holds {p : List Instr} {s : State} (h : Holds p s) :
    ∀ a1 a2 a3 a4, HoldsIn p (fun r => r.2) (s.stageItem a1 a2 a3 a4) := by
  intro a1 a2 a3 a4
  unfold State.stageItem
  repeat' first
    | exact HoldsIn.none
    | with_reducible refine HoldsIn.some ?_
    | with_reducible refine HoldsIn.ite (fun _ => ?_) (fun _ => ?_)
    | with_reducible assumption
    | intro _
    | with_reducible refine foldl_holds ?_ ?_
    | with_reducible refine State.suspendDie_holds ?_ _
    | with_reducible refine State.spaceBytes_holds ?_ _ _ _
    | with_reducible refine State.engineWrite_holds ?_ _ _ _
    | with_reducible refine State.count_holds ?_ _ _ _
    | split

theorem State.putItem_holds {p : List Instr} {s : State} (h : Holds p s) : ∀ a1 a2, Holds p (State.putItem s a1 a2) := by
  intro a1 a2
  unfold State.putItem
  try dsimp only
  repeat' first
    | with_reducible assumption
    | with_reducible refine State.showFetch_holds ?_
    | with_reducible refine State.setFetchStream_holds ?_ _ _
    | split

theorem State.rebuiltBytes_holds {p : List Instr} {s : State} (h : Holds p s) : ∀ a1 a2 a3, Holds p (State.rebuiltBytes s a1 a2 a3).2 := by
  intro a1 a2 a3
  unfold State.rebuiltBytes
  try dsimp only
  repeat' first
    | with_reducible assumption
    | intro _
    | with_reducible refine foldl_snd_holds ?_ ?_
    | with_reducible refine State.rebuildCodeword_holds ?_ _
    | split

theorem State.checkItem_holds {p : List Instr} {s : State} (h : Holds p s) : ∀ a1 a2 a3, Holds p (State.checkItem s a1 a2 a3).2 := by
  intro a1 a2 a3
  unfold State.checkItem
  try dsimp only
  repeat' first
    | with_reducible assumption
    | with_reducible refine holds_snd_ite (fun _ => ?_) (fun _ => ?_)
    | with_reducible refine State.count_holds ?_ _ _ _
    | with_reducible refine State.rebuiltBytes_holds ?_ _ _ _
    | with_reducible refine State.engineWrite_holds ?_ _ _ _
    | with_reducible refine State.errAdd_holds ?_ _ _
    | (refine holds_of_parts ?_; dsimp only; with_reducible refine Holds.parts ?_)
    | split

theorem State.endClosed_holds {p : List Instr} {s : State} (h : Holds p s) : ∀ a1, Holds p (State.endClosed s a1) := by
  intro a1
  unfold State.endClosed
  try dsimp only
  repeat' first
    | with_reducible assumption
    | with_reducible refine holds_snd_ite (fun _ => ?_) (fun _ => ?_)
    | with_reducible refine State.freshFree_holds ?_
    | with_reducible refine State.engineWrite_holds ?_ _ _ _
    | with_reducible refine State.finish_holds ?_ _ _ _ _
    | split

theorem State.beginFill_holds {p : List Instr} {s : State} (h : Holds p s) : ∀ a1, Holds p (State.beginFill s a1) := by
  intro a1
  unfold State.beginFill
  try dsimp only
  repeat' first
    | with_reducible assumption
    | with_reducible refine holds_ite (fun _ => ?_) (fun _ => ?_)
    | with_reducible refine State.closeStream_holds ?_ _
    | with_reducible refine State.showFetch_holds ?_
    | with_reducible refine State.setFetchStream_holds ?_ _ _
    | with_reducible refine State.finish_holds ?_ _ _ _ _
    | (refine holds_of_parts ?_; dsimp only; with_reducible refine Holds.parts ?_)
    | split

theorem State.tryFill_holds {p : List Instr} {s : State} (h : Holds p s) : ∀ a1 a2, Holds p (State.tryFill s a1 a2) := by
  intro a1 a2
  unfold State.tryFill
  try dsimp only
  repeat' first
    | with_reducible assumption
    | with_reducible refine holds_ite (fun _ => ?_) (fun _ => ?_)
    | with_reducible refine State.setFetchStream_holds ?_ _ _
    | with_reducible refine State.engineWrite_holds ?_ _ _ _
    | with_reducible refine State.finish_holds ?_ _ _ _ _
    | with_reducible refine State.showFetch_holds ?_

theorem State.fetchRingCleared_holds {p : List Instr} {s : State} (h : Holds p s) : ∀ a1, Holds p (State.fetchRingCleared s a1) := by
  intro a1
  unfold State.fetchRingCleared
  try dsimp only
  repeat' first
    | with_reducible assumption
    | intro _
    | with_reducible refine foldl_holds ?_ ?_
    | with_reducible refine State.endClosed_holds ?_ _
    | with_reducible refine State.showFetch_holds ?_
    | with_reducible refine State.setFetchStream_holds ?_ _ _
    | split

/-! ## Machine/Mills.lean -/

theorem State.endMill_holds {p : List Instr} {s : State} (h : Holds p s) : ∀ a1 a2 a3 a4, Holds p (State.endMill s a1 a2 a3 a4) := by
  intro a1 a2 a3 a4
  unfold State.endMill
  try dsimp only
  repeat' first
    | with_reducible assumption
    | with_reducible refine holds_ite (fun _ => ?_) (fun _ => ?_)
    | with_reducible refine State.engineWrite_holds ?_ _ _ _
    | with_reducible refine State.count_holds ?_ _ _ _
    | with_reducible refine State.errAdd_holds ?_ _ _
    | with_reducible refine State.finish_holds ?_ _ _ _ _

theorem State.millWhole_holds {p : List Instr} {s : State} (h : Holds p s) : ∀ a1 a2 a3 a4 a5 a6 a7 a8, Holds p (State.millWhole s a1 a2 a3 a4 a5 a6 a7 a8) := by
  intro a1 a2 a3 a4 a5 a6 a7 a8
  unfold State.millWhole
  try dsimp only
  repeat' first
    | with_reducible assumption
    | with_reducible refine holds_ite (fun _ => ?_) (fun _ => ?_)
    | with_reducible refine State.freshFree_holds ?_
    | with_reducible refine State.engineWrite_holds ?_ _ _ _
    | with_reducible refine State.endMill_holds ?_ _ _ _ _

theorem State.millDecode_holds {p : List Instr} {s : State} (h : Holds p s) : ∀ a1 a2 a3 a4 a5 a6, Holds p (State.millDecode s a1 a2 a3 a4 a5 a6) := by
  intro a1 a2 a3 a4 a5 a6
  unfold State.millDecode
  try dsimp only
  repeat' first
    | with_reducible assumption
    | with_reducible refine holds_ite (fun _ => ?_) (fun _ => ?_)
    | with_reducible refine State.freshFree_holds ?_
    | with_reducible refine State.endMill_holds ?_ _ _ _ _
    | with_reducible refine State.count_holds ?_ _ _ _
    | with_reducible refine State.engineWrite_holds ?_ _ _ _

theorem State.millRun_holds {p : List Instr} {s : State} (h : Holds p s) : ∀ a1 a2, Holds p (State.millRun s a1 a2) := by
  intro a1 a2
  unfold State.millRun
  try dsimp only
  repeat' first
    | with_reducible assumption
    | with_reducible refine holds_ite (fun _ => ?_) (fun _ => ?_)
    | with_reducible refine State.freshFree_holds ?_
    | with_reducible refine State.engineAccess_holds ?_ _ _ _ _
    | with_reducible refine State.finish_holds ?_ _ _ _ _
    | with_reducible refine State.count_holds ?_ _ _ _
    | with_reducible refine State.millWhole_holds ?_ _ _ _ _ _ _ _ _
    | with_reducible refine State.endMill_holds ?_ _ _ _ _
    | with_reducible refine State.millDecode_holds ?_ _ _ _ _ _ _
    | split

/-! ## Machine/Kiln.lean -/

theorem State.setOutcome_holds {p : List Instr} {s : State} (h : Holds p s) : ∀ a1 a2, Holds p (State.setOutcome s a1 a2) := by
  intro a1 a2
  unfold State.setOutcome
  try dsimp only
  repeat' first
    | with_reducible assumption
    | (refine holds_of_parts ?_; dsimp only; with_reducible refine Holds.parts ?_)

theorem State.kilnRefuse_holds {p : List Instr} {s : State} (h : Holds p s) : ∀ a1 a2, Holds p (State.kilnRefuse s a1 a2) := by
  intro a1 a2
  unfold State.kilnRefuse
  try dsimp only
  repeat' first
    | with_reducible assumption
    | with_reducible refine State.finish_holds ?_ _ _ _ _
    | with_reducible refine State.count_holds ?_ _ _ _

theorem State.endKiln_holds {p : List Instr} {s : State} (h : Holds p s) : ∀ a1 a2 a3 a4, Holds p (State.endKiln s a1 a2 a3 a4) := by
  intro a1 a2 a3 a4
  unfold State.endKiln
  try dsimp only
  repeat' first
    | with_reducible assumption
    | with_reducible refine holds_ite (fun _ => ?_) (fun _ => ?_)
    | with_reducible refine State.engineAccess_holds ?_ _ _ _ _
    | with_reducible refine State.engineWrite_holds ?_ _ _ _
    | with_reducible refine State.setOutcome_holds ?_ _ _
    | with_reducible refine State.count_holds ?_ _ _ _
    | with_reducible refine State.errAdd_holds ?_ _ _
    | with_reducible refine State.finish_holds ?_ _ _ _ _
    | split

theorem State.kilnExpand_holds {p : List Instr} {s : State} (h : Holds p s) : ∀ a1 a2 a3 a4 a5, Holds p (State.kilnExpand s a1 a2 a3 a4 a5) := by
  intro a1 a2 a3 a4 a5
  unfold State.kilnExpand
  try dsimp only
  repeat' first
    | with_reducible assumption
    | with_reducible refine holds_ite (fun _ => ?_) (fun _ => ?_)
    | with_reducible refine State.kilnRefuse_holds ?_ _ _
    | with_reducible refine State.endKiln_holds ?_ _ _ _ _

theorem State.kilnDecompress_holds {p : List Instr} {s : State} (h : Holds p s) : ∀ a1, Holds p (State.kilnDecompress s a1) := by
  intro a1
  unfold State.kilnDecompress
  try dsimp only
  repeat' first
    | with_reducible assumption
    | with_reducible refine holds_ite (fun _ => ?_) (fun _ => ?_)
    | with_reducible refine State.kilnRefuse_holds ?_ _ _
    | with_reducible refine State.finish_holds ?_ _ _ _ _
    | with_reducible refine State.count_holds ?_ _ _ _
    | with_reducible refine State.kilnExpand_holds ?_ _ _ _ _ _
    | split

theorem State.laneOut_holds {p : List Instr} {s : State} (h : Holds p s) : ∀ a1, Holds p (State.laneOut s a1) := by
  intro a1
  unfold State.laneOut
  try dsimp only
  repeat' first
    | with_reducible assumption
    | with_reducible refine State.queueTest_holds ?_ _ _
    | with_reducible refine State.setReg_holds ?_ _ _

theorem State.kilnCompress_holds {p : List Instr} {s : State} (h : Holds p s) : ∀ a1 a2, Holds p (State.kilnCompress s a1 a2) := by
  intro a1 a2
  unfold State.kilnCompress
  try dsimp only
  repeat' first
    | with_reducible assumption
    | with_reducible refine holds_ite (fun _ => ?_) (fun _ => ?_)
    | with_reducible refine State.kilnRefuse_holds ?_ _ _
    | with_reducible refine State.endKiln_holds ?_ _ _ _ _
    | with_reducible refine State.engineWrite_holds ?_ _ _ _
    | with_reducible refine State.laneOut_holds ?_ _
    | with_reducible refine State.errAdd_holds ?_ _ _
    | with_reducible refine State.freshFree_holds ?_
    | split

theorem State.gfCombine_holds {p : List Instr} {s : State} (h : Holds p s) : ∀ a1, Holds p (State.gfCombine s a1) := by
  intro a1
  unfold State.gfCombine
  try dsimp only
  repeat' first
    | with_reducible assumption
    | intro _
    | with_reducible refine holds_ite (fun _ => ?_) (fun _ => ?_)
    | with_reducible refine foldl_holds ?_ ?_
    | with_reducible refine State.kilnRefuse_holds ?_ _ _
    | with_reducible refine State.ringError_holds ?_ _ _
    | with_reducible refine State.freshFree_holds ?_
    | with_reducible refine State.engineAccess_holds ?_ _ _ _ _
    | with_reducible refine State.engineWrite_holds ?_ _ _ _
    | with_reducible refine State.count_holds ?_ _ _ _
    | with_reducible refine State.finish_holds ?_ _ _ _ _

/-! ## Machine/Mash.lean -/

theorem State.showTiles_holds {p : List Instr} {s : State} (h : Holds p s) : Holds p (State.showTiles s) := by
  unfold State.showTiles
  try dsimp only
  repeat' first
    | with_reducible assumption
    | intro _
    | with_reducible refine foldl_holds ?_ ?_
    | with_reducible refine State.setReg_holds ?_ _ _

theorem State.tileDrop_holds {p : List Instr} {s : State} (h : Holds p s) : ∀ a1, Holds p (State.tileDrop s a1) := by
  intro a1
  unfold State.tileDrop
  try dsimp only
  repeat' first
    | with_reducible assumption
    | with_reducible refine State.showTiles_holds ?_
    | (refine holds_of_parts ?_; dsimp only; with_reducible refine Holds.parts ?_)

theorem State.tileOut_holds {p : List Instr} {s : State} (h : Holds p s) : ∀ a1, Holds p (State.tileOut s a1) := by
  intro a1
  unfold State.tileOut
  try dsimp only
  repeat' first
    | with_reducible assumption
    | with_reducible refine State.queueTest_holds ?_ _ _
    | with_reducible refine State.tileDrop_holds ?_ _

theorem State.endTransform_holds {p : List Instr} {s : State} (h : Holds p s) : ∀ a1 a2 a3, Holds p (State.endTransform s a1 a2 a3) := by
  intro a1 a2 a3
  unfold State.endTransform
  try dsimp only
  repeat' first
    | with_reducible assumption
    | with_reducible refine holds_ite (fun _ => ?_) (fun _ => ?_)
    | with_reducible refine State.count_holds ?_ _ _ _
    | with_reducible refine State.errAdd_holds ?_ _ _
    | with_reducible refine State.finish_holds ?_ _ _ _ _

theorem State.bareTransform_holds {p : List Instr} {s : State} (h : Holds p s) : ∀ a1 a2 a3, Holds p (State.bareTransform s a1 a2 a3) := by
  intro a1 a2 a3
  unfold State.bareTransform
  try dsimp only
  repeat' first
    | with_reducible assumption
    | with_reducible refine State.freshFree_holds ?_
    | with_reducible refine State.engineWrite_holds ?_ _ _ _
    | with_reducible refine State.endTransform_holds ?_ _ _ _

theorem State.transformRun_holds {p : List Instr} {s : State} (h : Holds p s) : ∀ a1 a2 a3 a4 a5, Holds p (State.transformRun s a1 a2 a3 a4 a5) := by
  intro a1 a2 a3 a4 a5
  unfold State.transformRun
  try dsimp only
  repeat' first
    | with_reducible assumption
    | with_reducible refine State.freshFree_holds ?_
    | with_reducible refine State.engineAccess_holds ?_ _ _ _ _
    | with_reducible refine State.count_holds ?_ _ _ _
    | with_reducible refine State.engineWrite_holds ?_ _ _ _
    | with_reducible refine State.endTransform_holds ?_ _ _ _

theorem State.transform_holds {p : List Instr} {s : State} (h : Holds p s) : ∀ a1 a2, Holds p (State.transform s a1 a2) := by
  intro a1 a2
  unfold State.transform
  try dsimp only
  repeat' first
    | with_reducible assumption
    | with_reducible refine holds_ite (fun _ => ?_) (fun _ => ?_)
    | with_reducible refine State.engineAccess_holds ?_ _ _ _ _
    | with_reducible refine State.endTransform_holds ?_ _ _ _
    | with_reducible refine State.bareTransform_holds ?_ _ _ _
    | with_reducible refine State.tileOut_holds ?_ _
    | with_reducible refine State.errAdd_holds ?_ _ _
    | with_reducible refine State.transformRun_holds ?_ _ _ _ _ _
    | split

theorem State.runModel_holds {p : List Instr} {s : State} (h : Holds p s) : ∀ a1 a2 a3, Holds p (State.runModel s a1 a2 a3).2 := by
  intro a1 a2 a3
  unfold State.runModel
  try dsimp only
  repeat' first
    | with_reducible assumption
    | with_reducible refine State.freshFree_holds ?_
    | with_reducible refine State.count_holds ?_ _ _ _
    | with_reducible refine State.engineAccess_holds ?_ _ _ _ _

theorem State.score_holds {p : List Instr} {s : State} (h : Holds p s) : ∀ a1 a2, Holds p (State.score s a1 a2) := by
  intro a1 a2
  unfold State.score
  try dsimp only
  repeat' first
    | with_reducible assumption
    | with_reducible refine holds_ite (fun _ => ?_) (fun _ => ?_)
    | with_reducible refine State.finish_holds ?_ _ _ _ _
    | with_reducible refine State.tileOut_holds ?_ _
    | with_reducible refine State.errAdd_holds ?_ _ _
    | with_reducible refine State.runModel_holds ?_ _ _ _
    | with_reducible refine State.engineWrite_holds ?_ _ _ _
    | split

theorem State.modelLoad_holds {p : List Instr} {s : State} (h : Holds p s) : ∀ a1, Holds p (State.modelLoad s a1) := by
  intro a1
  unfold State.modelLoad
  try dsimp only
  repeat' first
    | with_reducible assumption
    | with_reducible refine holds_ite (fun _ => ?_) (fun _ => ?_)
    | with_reducible refine State.finish_holds ?_ _ _ _ _
    | with_reducible refine State.engineAccess_holds ?_ _ _ _ _
    | with_reducible refine State.showTiles_holds ?_
    | (refine holds_of_parts ?_; dsimp only; with_reducible refine Holds.parts ?_)

theorem State.modelUnload_holds {p : List Instr} {s : State} (h : Holds p s) : ∀ a1, Holds p (State.modelUnload s a1) := by
  intro a1
  unfold State.modelUnload
  try dsimp only
  repeat' first
    | with_reducible assumption
    | with_reducible refine holds_ite (fun _ => ?_) (fun _ => ?_)
    | with_reducible refine State.finish_holds ?_ _ _ _ _
    | with_reducible refine State.showTiles_holds ?_
    | (refine holds_of_parts ?_; dsimp only; with_reducible refine Holds.parts ?_)

/-! ## Machine/Lauter.lean -/

theorem State.judgeOne_holds {p : List Instr} {s : State} (h : Holds p s) :
    ∀ a1 a2 a3 a4 a5 a6, Holds p (s.judgeOne a1 a2 a3 a4 a5 a6).2.2 := by
  intro a1 a2 a3 a4 a5 a6
  unfold State.judgeOne
  dsimp only
  repeat' first
    | with_reducible assumption
    | with_reducible refine holds_ite (fun _ => ?_) (fun _ => ?_)
    | with_reducible refine holds_snd_ite (fun _ => ?_) (fun _ => ?_)
    | with_reducible refine State.count_holds ?_ _ _ _
    | with_reducible refine State.runModel_holds ?_ _ _ _
    | with_reducible refine State.errAdd_holds ?_ _ _
    | split

theorem State.judgeAll_holds {p : List Instr} {s : State} (h : Holds p s) :
    ∀ a1 a2 a3 a4 a5 a6 a7, Holds p (s.judgeAll a1 a2 a3 a4 a5 a6 a7).2 := by
  intro a1 a2 a3 a4 a5 a6 a7
  induction a7 generalizing s a5 a6 with
  | nil => exact h
  | cons q ps ih =>
    unfold State.judgeAll
    have hj := State.judgeOne_holds h a1 a2 a3 a4 a5 q
    split
    next e => rw [e] at hj; exact ih hj _ _
    next e => rw [e] at hj; exact hj

theorem State.filterRun_holds {p : List Instr} {s : State} (h : Holds p s) : ∀ a1, Holds p (State.filterRun s a1) := by
  intro a1
  unfold State.filterRun
  try dsimp only
  repeat' first
    | with_reducible assumption
    | with_reducible refine holds_ite (fun _ => ?_) (fun _ => ?_)
    | with_reducible refine State.errAdd_holds ?_ _ _
    | with_reducible refine State.finish_holds ?_ _ _ _ _
    | with_reducible refine State.count_holds ?_ _ _ _
    | with_reducible refine State.engineAccess_holds ?_ _ _ _ _
    | with_reducible refine State.engineWrite_holds ?_ _ _ _
    | with_reducible refine State.judgeAll_holds ?_ _ _ _ _ _ _ _
    | split

theorem State.showSet_holds {p : List Instr} {s : State} (h : Holds p s) : ∀ a1, Holds p (State.showSet s a1) := by
  intro a1
  unfold State.showSet
  try dsimp only
  repeat' first
    | with_reducible assumption
    | with_reducible refine State.setReg_holds ?_ _ _

theorem State.loadSet_holds {p : List Instr} {s : State} (h : Holds p s) : ∀ a1, Holds p (State.loadSet s a1) := by
  intro a1
  unfold State.loadSet
  try dsimp only
  repeat' first
    | with_reducible assumption
    | with_reducible refine holds_ite (fun _ => ?_) (fun _ => ?_)
    | with_reducible refine State.finish_holds ?_ _ _ _ _
    | with_reducible refine State.freshFree_holds ?_
    | with_reducible refine State.engineAccess_holds ?_ _ _ _ _
    | with_reducible refine State.engineWrite_holds ?_ _ _ _
    | with_reducible refine State.showSet_holds ?_ _
    | (refine holds_of_parts ?_; dsimp only; with_reducible refine Holds.parts ?_)

theorem State.signatureRun_holds {p : List Instr} {s : State} (h : Holds p s) : ∀ a1, Holds p (State.signatureRun s a1) := by
  intro a1
  unfold State.signatureRun
  try dsimp only
  repeat' first
    | with_reducible assumption
    | with_reducible refine holds_ite (fun _ => ?_) (fun _ => ?_)
    | with_reducible refine State.finish_holds ?_ _ _ _ _
    | with_reducible refine State.errAdd_holds ?_ _ _
    | with_reducible refine State.count_holds ?_ _ _ _
    | with_reducible refine State.engineAccess_holds ?_ _ _ _ _
    | with_reducible refine State.engineWrite_holds ?_ _ _ _
    | split

theorem State.unloadSet_holds {p : List Instr} {s : State} (h : Holds p s) : ∀ a1, Holds p (State.unloadSet s a1) := by
  intro a1
  unfold State.unloadSet
  try dsimp only
  repeat' first
    | with_reducible assumption
    | with_reducible refine holds_ite (fun _ => ?_) (fun _ => ?_)
    | with_reducible refine State.finish_holds ?_ _ _ _ _
    | with_reducible refine State.showSet_holds ?_ _
    | (refine holds_of_parts ?_; dsimp only; with_reducible refine Holds.parts ?_)

/-! ## Machine/Store.lean -/

theorem State.showStore_holds {p : List Instr} {s : State} (h : Holds p s) : Holds p (State.showStore s) := by
  unfold State.showStore
  try dsimp only
  repeat' first
    | with_reducible assumption
    | with_reducible refine State.setFld_holds ?_ _ _

theorem State.storeWait_holds {p : List Instr} {s : State} (h : Holds p s) : ∀ a1, Holds p (State.storeWait s a1) := by
  intro a1
  unfold State.storeWait
  try dsimp only
  repeat' first
    | with_reducible assumption
    | with_reducible refine holds_ite (fun _ => ?_) (fun _ => ?_)
    | (refine holds_of_parts ?_; dsimp only; with_reducible refine Holds.parts ?_)

theorem State.storeServed_holds {p : List Instr} {s : State} (h : Holds p s) : ∀ a1, Holds p (State.storeServed s a1) := by
  intro a1
  unfold State.storeServed
  try dsimp only
  repeat' first
    | with_reducible assumption
    | (refine holds_of_parts ?_; dsimp only; with_reducible refine Holds.parts ?_)

theorem State.setPackStream_holds {p : List Instr} {s : State} (h : Holds p s) : ∀ a1 a2, Holds p (State.setPackStream s a1 a2) := by
  intro a1 a2
  unfold State.setPackStream
  try dsimp only
  repeat' first
    | with_reducible assumption
    | with_reducible refine State.showStore_holds ?_
    | (refine holds_of_parts ?_; dsimp only; with_reducible refine Holds.parts ?_)

theorem State.enterSegment_holds {p : List Instr} {s : State} (h : Holds p s) : ∀ a1 a2 a3, Holds p (State.enterSegment s a1 a2 a3) := by
  intro a1 a2 a3
  unfold State.enterSegment
  try dsimp only
  repeat' first
    | with_reducible assumption
    | with_reducible refine holds_ite (fun _ => ?_) (fun _ => ?_)
    | with_reducible refine State.setPackStream_holds ?_ _ _

theorem State.releaseStore_holds {p : List Instr} {s : State} (h : Holds p s) : ∀ a1, Holds p (State.releaseStore s a1) := by
  intro a1
  unfold State.releaseStore
  try dsimp only
  repeat' first
    | with_reducible assumption
    | with_reducible refine State.showStore_holds ?_
    | (refine holds_of_parts ?_; dsimp only; with_reducible refine Holds.parts ?_)

/-! ## Machine/Token.lean -/

theorem State.showVocab_holds {p : List Instr} {s : State} (h : Holds p s) : ∀ a1, Holds p (State.showVocab s a1) := by
  intro a1
  unfold State.showVocab
  try dsimp only
  repeat' first
    | with_reducible assumption
    | with_reducible refine State.setReg_holds ?_ _ _

theorem State.vocabLoad_holds {p : List Instr} {s : State} (h : Holds p s) : ∀ a1, Holds p (State.vocabLoad s a1) := by
  intro a1
  unfold State.vocabLoad
  try dsimp only
  repeat' first
    | with_reducible assumption
    | with_reducible refine holds_ite (fun _ => ?_) (fun _ => ?_)
    | with_reducible refine State.finish_holds ?_ _ _ _ _
    | with_reducible refine State.freshFree_holds ?_
    | with_reducible refine State.engineAccess_holds ?_ _ _ _ _
    | with_reducible refine State.engineWrite_holds ?_ _ _ _
    | with_reducible refine State.showVocab_holds ?_ _
    | (refine holds_of_parts ?_; dsimp only; with_reducible refine Holds.parts ?_)
    | split

theorem State.vocabUnload_holds {p : List Instr} {s : State} (h : Holds p s) : ∀ a1, Holds p (State.vocabUnload s a1) := by
  intro a1
  unfold State.vocabUnload
  try dsimp only
  repeat' first
    | with_reducible assumption
    | with_reducible refine holds_ite (fun _ => ?_) (fun _ => ?_)
    | with_reducible refine State.finish_holds ?_ _ _ _ _
    | with_reducible refine State.showVocab_holds ?_ _
    | (refine holds_of_parts ?_; dsimp only; with_reducible refine Holds.parts ?_)

theorem State.endTokenize_holds {p : List Instr} {s : State} (h : Holds p s) : ∀ a1 a2 a3, Holds p (State.endTokenize s a1 a2 a3) := by
  intro a1 a2 a3
  unfold State.endTokenize
  try dsimp only
  repeat' first
    | with_reducible assumption
    | with_reducible refine holds_ite (fun _ => ?_) (fun _ => ?_)
    | with_reducible refine State.freshFree_holds ?_
    | with_reducible refine State.count_holds ?_ _ _ _
    | with_reducible refine State.errAdd_holds ?_ _ _
    | with_reducible refine State.finish_holds ?_ _ _ _ _

theorem State.tokenRefuse_holds {p : List Instr} {s : State} (h : Holds p s) : ∀ a1 a2, Holds p (State.tokenRefuse s a1 a2) := by
  intro a1 a2
  unfold State.tokenRefuse
  try dsimp only
  repeat' first
    | with_reducible assumption
    | with_reducible refine State.finish_holds ?_ _ _ _ _
    | with_reducible refine State.count_holds ?_ _ _ _

theorem State.tokenizeItem_holds {p : List Instr} {s : State} (h : Holds p s) : ∀ a1 a2 a3 a4 a5 a6 a7, Holds p (State.tokenizeItem s a1 a2 a3 a4 a5 a6 a7) := by
  intro a1 a2 a3 a4 a5 a6 a7
  unfold State.tokenizeItem
  try dsimp only
  repeat' first
    | with_reducible assumption
    | with_reducible refine holds_ite (fun _ => ?_) (fun _ => ?_)
    | with_reducible refine State.tokenRefuse_holds ?_ _ _
    | with_reducible refine State.storeWait_holds ?_ _
    | with_reducible refine State.engineAccess_holds ?_ _ _ _ _
    | with_reducible refine State.storeServed_holds ?_ _
    | with_reducible refine State.errAdd_holds ?_ _ _
    | with_reducible refine State.engineWrite_holds ?_ _ _ _
    | with_reducible refine State.enterSegment_holds ?_ _ _ _
    | with_reducible refine State.endTokenize_holds ?_ _ _ _
    | split

theorem State.tokenizeText_holds {p : List Instr} {s : State} (h : Holds p s) : ∀ a1 a2 a3 a4, Holds p (State.tokenizeText s a1 a2 a3 a4) := by
  intro a1 a2 a3 a4
  unfold State.tokenizeText
  try dsimp only
  repeat' first
    | with_reducible assumption
    | with_reducible refine holds_ite (fun _ => ?_) (fun _ => ?_)
    | with_reducible refine State.errAdd_holds ?_ _ _
    | with_reducible refine State.engineAccess_holds ?_ _ _ _ _
    | with_reducible refine State.engineWrite_holds ?_ _ _ _
    | with_reducible refine State.endTokenize_holds ?_ _ _ _

theorem State.tokenizeBounded_holds {p : List Instr} {s : State} (h : Holds p s) : ∀ a1 a2 a3 a4 a5, Holds p (State.tokenizeBounded s a1 a2 a3 a4 a5) := by
  intro a1 a2 a3 a4 a5
  unfold State.tokenizeBounded
  try dsimp only
  repeat' first
    | with_reducible assumption
    | with_reducible refine holds_ite (fun _ => ?_) (fun _ => ?_)
    | with_reducible refine State.tokenRefuse_holds ?_ _ _
    | with_reducible refine State.tokenizeText_holds ?_ _ _ _ _

theorem State.tokenizePiece_holds {p : List Instr} {s : State} (h : Holds p s) : ∀ a1 a2 a3 a4, Holds p (State.tokenizePiece s a1 a2 a3 a4) := by
  intro a1 a2 a3 a4
  unfold State.tokenizePiece
  try dsimp only
  repeat' first
    | with_reducible assumption
    | with_reducible refine holds_ite (fun _ => ?_) (fun _ => ?_)
    | with_reducible refine State.tokenRefuse_holds ?_ _ _
    | with_reducible refine State.engineAccess_holds ?_ _ _ _ _
    | with_reducible refine State.errAdd_holds ?_ _ _
    | with_reducible refine State.endTokenize_holds ?_ _ _ _
    | with_reducible refine State.engineWrite_holds ?_ _ _ _
    | (refine holds_of_parts ?_; dsimp only; with_reducible refine Holds.parts ?_)
    | split

theorem State.tokenize_holds {p : List Instr} {s : State} (h : Holds p s) : ∀ a1, Holds p (State.tokenize s a1) := by
  intro a1
  unfold State.tokenize
  try dsimp only
  repeat' first
    | with_reducible assumption
    | with_reducible refine holds_ite (fun _ => ?_) (fun _ => ?_)
    | with_reducible refine State.tokenRefuse_holds ?_ _ _
    | with_reducible refine State.tokenizePiece_holds ?_ _ _ _ _
    | with_reducible refine State.tokenizeItem_holds ?_ _ _ _ _ _ _ _
    | with_reducible refine State.tokenizeBounded_holds ?_ _ _ _ _ _
    | split

/-! ## Machine/Cask.lean -/

theorem State.replayWrite_holds {p : List Instr} {s : State} (h : Holds p s) : ∀ a1 a2 a3 a4 a5, Holds p (State.replayWrite s a1 a2 a3 a4 a5) := by
  intro a1 a2 a3 a4 a5
  unfold State.replayWrite
  try dsimp only
  repeat' first
    | with_reducible assumption
    | with_reducible refine holds_ite (fun _ => ?_) (fun _ => ?_)
    | with_reducible refine State.freshFree_holds ?_
    | with_reducible refine State.setFld_holds ?_ _ _
    | with_reducible refine State.engineWrite_holds ?_ _ _ _

theorem State.closePart_holds {p : List Instr} {s : State} (h : Holds p s) : ∀ a1 a2 a3 a4 a5 a6 a7 a8 a9, Holds p (State.closePart s a1 a2 a3 a4 a5 a6 a7 a8 a9) := by
  intro a1 a2 a3 a4 a5 a6 a7 a8 a9
  unfold State.closePart
  try dsimp only
  repeat' first
    | with_reducible assumption
    | with_reducible refine holds_ite (fun _ => ?_) (fun _ => ?_)
    | with_reducible refine State.showStore_holds ?_
    | with_reducible refine State.engineWrite_holds ?_ _ _ _
    | with_reducible refine State.count_holds ?_ _ _ _
    | with_reducible refine State.replayWrite_holds ?_ _ _ _ _ _
    | (refine holds_of_parts ?_; dsimp only; with_reducible refine Holds.parts ?_)

theorem State.caskRefuse_holds {p : List Instr} {s : State} (h : Holds p s) : ∀ a1 a2, Holds p (State.caskRefuse s a1 a2) := by
  intro a1 a2
  unfold State.caskRefuse
  try dsimp only
  repeat' first
    | with_reducible assumption
    | with_reducible refine holds_ite (fun _ => ?_) (fun _ => ?_)
    | with_reducible refine State.finish_holds ?_ _ _ _ _
    | with_reducible refine State.errAdd_holds ?_ _ _

theorem State.packSlots_holds {p : List Instr} {s : State} (h : Holds p s) : ∀ a1, Holds p (State.packSlots s a1) := by
  intro a1
  unfold State.packSlots
  try dsimp only
  repeat' first
    | with_reducible assumption
    | with_reducible refine holds_ite (fun _ => ?_) (fun _ => ?_)
    | with_reducible refine State.caskRefuse_holds ?_ _ _
    | with_reducible refine State.storeWait_holds ?_ _
    | with_reducible refine State.freshFree_holds ?_
    | with_reducible refine State.closePart_holds ?_ _ _ _ _ _ _ _ _ _
    | with_reducible refine State.storeServed_holds ?_ _
    | with_reducible refine State.errAdd_holds ?_ _ _
    | with_reducible refine State.count_holds ?_ _ _ _
    | with_reducible refine State.finish_holds ?_ _ _ _ _
    | split

theorem State.closeRows_holds {p : List Instr} {s : State} (h : Holds p s) : ∀ a1 a2 a3 a4 a5 a6 a7 a8 a9, Holds p (State.closeRows s a1 a2 a3 a4 a5 a6 a7 a8 a9) := by
  intro a1 a2 a3 a4 a5 a6 a7 a8 a9
  unfold State.closeRows
  try dsimp only
  repeat' first
    | with_reducible assumption
    | with_reducible refine State.closePart_holds ?_ _ _ _ _ _ _ _ _ _
    | with_reducible refine State.count_holds ?_ _ _ _

theorem State.packRows_holds {p : List Instr} {s : State} (h : Holds p s) : ∀ a1, Holds p (State.packRows s a1) := by
  intro a1
  unfold State.packRows
  try dsimp only
  repeat' first
    | with_reducible assumption
    | with_reducible refine holds_ite (fun _ => ?_) (fun _ => ?_)
    | with_reducible refine State.caskRefuse_holds ?_ _ _
    | with_reducible refine State.setPackStream_holds ?_ _ _
    | with_reducible refine State.finish_holds ?_ _ _ _ _
    | with_reducible refine State.errAdd_holds ?_ _ _
    | with_reducible refine State.storeServed_holds ?_ _
    | with_reducible refine State.storeWait_holds ?_ _
    | with_reducible refine State.closeRows_holds ?_ _ _ _ _ _ _ _ _ _
    | split

theorem State.mergeRun_holds {p : List Instr} {s : State} (h : Holds p s) : ∀ a1, Holds p (State.mergeRun s a1) := by
  intro a1
  unfold State.mergeRun
  try dsimp only
  repeat' first
    | with_reducible assumption
    | with_reducible refine holds_ite (fun _ => ?_) (fun _ => ?_)
    | with_reducible refine State.caskRefuse_holds ?_ _ _
    | with_reducible refine State.engineAccess_holds ?_ _ _ _ _
    | with_reducible refine State.count_holds ?_ _ _ _
    | with_reducible refine State.engineWrite_holds ?_ _ _ _
    | with_reducible refine State.finish_holds ?_ _ _ _ _

theorem State.dropPart_holds {p : List Instr} {s : State} (h : Holds p s) : ∀ a1, Holds p (State.dropPart s a1) := by
  intro a1
  unfold State.dropPart
  try dsimp only
  repeat' first
    | with_reducible assumption
    | with_reducible refine State.showStore_holds ?_
    | (refine holds_of_parts ?_; dsimp only; with_reducible refine Holds.parts ?_)

theorem State.discardRun_holds {p : List Instr} {s : State} (h : Holds p s) : ∀ a1, Holds p (State.discardRun s a1) := by
  intro a1
  unfold State.discardRun
  try dsimp only
  repeat' first
    | with_reducible assumption
    | with_reducible refine State.finish_holds ?_ _ _ _ _
    | with_reducible refine State.dropPart_holds ?_ _
    | with_reducible refine State.caskRefuse_holds ?_ _ _
    | split

end Sys2Proof.Machine
end

