-- ==== Sys2Proof/Laws/KeepNet.lean ====
section
/-!
SUPPORT. What every operation keeps (`Holds`, Laws/KeepCore.lean): the weir, RDMA, NVMe, the host queues, DMA, pools and the system.
-/

namespace Sys2Proof.Machine

/-! ## Machine/Weir.lean -/

theorem State.setSubport_holds {p : List Instr} {s : State} (h : Holds p s) : ∀ a1 a2, Holds p (State.setSubport s a1 a2) := by
  intro a1 a2
  unfold State.setSubport
  try dsimp only
  repeat' first
    | with_reducible assumption
    | (refine holds_of_parts ?_; dsimp only; with_reducible refine Holds.parts ?_)

theorem State.showSubport_holds {p : List Instr} {s : State} (h : Holds p s) : ∀ a1, Holds p (State.showSubport s a1) := by
  intro a1
  unfold State.showSubport
  try dsimp only
  repeat' first
    | with_reducible assumption
    | with_reducible refine State.setReg_holds ?_ _ _

theorem State.setQueue_holds {p : List Instr} {s : State} (h : Holds p s) : ∀ a1 a2, Holds p (State.setQueue s a1 a2) := by
  intro a1 a2
  unfold State.setQueue
  try dsimp only
  repeat' first
    | with_reducible assumption
    | (refine holds_of_parts ?_; dsimp only; with_reducible refine Holds.parts ?_)

theorem State.setNode_holds {p : List Instr} {s : State} (h : Holds p s) : ∀ a1 a2, Holds p (State.setNode s a1 a2) := by
  intro a1 a2
  unfold State.setNode
  try dsimp only
  repeat' first
    | with_reducible assumption
    | (refine holds_of_parts ?_; dsimp only; with_reducible refine Holds.parts ?_)

theorem State.weirAdd_holds {p : List Instr} {s : State} (h : Holds p s) : ∀ a1 a2 a3, Holds p (State.weirAdd s a1 a2 a3) := by
  intro a1 a2 a3
  unfold State.weirAdd
  try dsimp only
  repeat' first
    | with_reducible assumption
    | with_reducible refine holds_ite (fun _ => ?_) (fun _ => ?_)
    | with_reducible refine State.setQueue_holds ?_ _ _
    | with_reducible refine State.setNode_holds ?_ _ _
    | with_reducible refine State.count_holds ?_ _ _ _

theorem State.weirDrop_holds {p : List Instr} {s : State} (h : Holds p s) : ∀ a1 a2, Holds p (State.weirDrop s a1 a2) := by
  intro a1 a2
  unfold State.weirDrop
  try dsimp only
  repeat' first
    | with_reducible assumption
    | intro _
    | with_reducible refine foldl_holds ?_ ?_
    | with_reducible refine State.setQueue_holds ?_ _ _

theorem State.setQp_holds {p : List Instr} {s : State} (h : Holds p s) : ∀ a1 a2, Holds p (State.setQp s a1 a2) := by
  intro a1 a2
  unfold State.setQp
  try dsimp only
  repeat' first
    | with_reducible assumption
    | (refine holds_of_parts ?_; dsimp only; with_reducible refine Holds.parts ?_)

theorem State.startTimer_holds {p : List Instr} {s : State} (h : Holds p s) : ∀ a1, Holds p (State.startTimer s a1) := by
  intro a1
  unfold State.startTimer
  try dsimp only
  repeat' first
    | with_reducible assumption
    | with_reducible refine holds_ite (fun _ => ?_) (fun _ => ?_)
    | with_reducible refine State.setQp_holds ?_ _ _
    | split

theorem State.packetLeft_holds {p : List Instr} {s : State} (h : Holds p s) : ∀ a1, Holds p (State.packetLeft s a1) := by
  intro a1
  unfold State.packetLeft
  try dsimp only
  repeat' first
    | with_reducible assumption
    | with_reducible refine holds_ite (fun _ => ?_) (fun _ => ?_)
    | with_reducible refine State.count_holds ?_ _ _ _
    | with_reducible refine State.startTimer_holds ?_ _
    | with_reducible refine State.setQp_holds ?_ _ _
    | (refine holds_of_parts ?_; dsimp only; with_reducible refine Holds.parts ?_)
    | split

theorem State.sendFrom_holds {p : List Instr} {s : State} (h : Holds p s) : ∀ a1 a2 a3, Holds p (State.sendFrom s a1 a2 a3) := by
  intro a1 a2 a3
  unfold State.sendFrom
  try dsimp only
  repeat' first
    | with_reducible assumption
    | with_reducible refine State.setSubport_holds ?_ _ _
    | with_reducible refine State.setQueue_holds ?_ _ _
    | with_reducible refine State.setNode_holds ?_ _ _
    | with_reducible refine State.count_holds ?_ _ _ _
    | with_reducible refine State.packetLeft_holds ?_ _
    | (refine holds_of_parts ?_; dsimp only; with_reducible refine Holds.parts ?_)
    | split

theorem State.notePause_holds {p : List Instr} {s : State} (h : Holds p s) : ∀ a1, Holds p (State.notePause s a1) := by
  intro a1
  unfold State.notePause
  try dsimp only
  repeat' first
    | with_reducible assumption
    | with_reducible refine holds_ite (fun _ => ?_) (fun _ => ?_)
    | with_reducible refine State.errAdd_holds ?_ _ _
    | with_reducible refine State.setSubport_holds ?_ _ _
    | split

theorem State.endPause_holds {p : List Instr} {s : State} (h : Holds p s) : ∀ a1, Holds p (State.endPause s a1) := by
  intro a1
  unfold State.endPause
  try dsimp only
  repeat' first
    | with_reducible assumption
    | intro _
    | with_reducible refine holds_ite (fun _ => ?_) (fun _ => ?_)
    | with_reducible refine foldl_holds ?_ ?_
    | with_reducible refine State.notePause_holds ?_ _
    | with_reducible refine State.setSubport_holds ?_ _ _
    | with_reducible refine State.setNode_holds ?_ _ _
    | with_reducible refine State.showSubport_holds ?_ _

theorem State.sendPause_holds {p : List Instr} {s : State} (h : Holds p s) : ∀ a1 a2, Holds p (State.sendPause s a1 a2) := by
  intro a1 a2
  unfold State.sendPause
  try dsimp only
  repeat' first
    | with_reducible assumption
    | with_reducible refine State.setSubport_holds ?_ _ _
    | with_reducible refine State.count_holds ?_ _ _ _
    | with_reducible refine State.setReg_holds ?_ _ _
    | (refine holds_of_parts ?_; dsimp only; with_reducible refine Holds.parts ?_)

theorem State.rxLevel_holds {p : List Instr} {s : State} (h : Holds p s) : ∀ a1 a2, Holds p (State.rxLevel s a1 a2) := by
  intro a1 a2
  unfold State.rxLevel
  try dsimp only
  repeat' first
    | with_reducible assumption
    | with_reducible refine holds_ite (fun _ => ?_) (fun _ => ?_)
    | with_reducible refine State.setSubport_holds ?_ _ _
    | with_reducible refine State.sendPause_holds ?_ _ _

theorem State.cutRate_holds {p : List Instr} {s : State} (h : Holds p s) : ∀ a1 a2, Holds p (State.cutRate s a1 a2) := by
  intro a1 a2
  unfold State.cutRate
  try dsimp only
  repeat' first
    | with_reducible assumption
    | with_reducible refine holds_ite (fun _ => ?_) (fun _ => ?_)
    | with_reducible refine State.count_holds ?_ _ _ _
    | with_reducible refine State.setQueue_holds ?_ _ _

theorem State.cnpIn_holds {p : List Instr} {s : State} (h : Holds p s) : ∀ a1 a2, Holds p (State.cnpIn s a1 a2) := by
  intro a1 a2
  unfold State.cnpIn
  try dsimp only
  repeat' first
    | with_reducible assumption
    | with_reducible refine State.cutRate_holds ?_ _ _
    | with_reducible refine State.count_holds ?_ _ _ _

theorem State.setSelected_holds {p : List Instr} {s : State} (h : Holds p s) : ∀ a1, Holds p (State.setSelected s a1) := by
  intro a1
  unfold State.setSelected
  try dsimp only
  repeat' first
    | with_reducible assumption
    | with_reducible refine holds_ite (fun _ => ?_) (fun _ => ?_)
    | with_reducible refine State.setNode_holds ?_ _ _
    | with_reducible refine State.setQueue_holds ?_ _ _

theorem State.latchQueue_holds {p : List Instr} {s : State} (h : Holds p s) : ∀ a1, Holds p (State.latchQueue s a1) := by
  intro a1
  unfold State.latchQueue
  try dsimp only
  repeat' first
    | with_reducible assumption
    | with_reducible refine State.setReg_holds ?_ _ _

theorem State.readDepth_holds {p : List Instr} {s : State} (h : Holds p s) : Holds p (State.readDepth s).2 := by
  unfold State.readDepth
  try dsimp only
  repeat' first
    | with_reducible assumption
    | with_reducible refine State.setReg_holds ?_ _ _
    | with_reducible refine State.setSelected_holds ?_ _

theorem State.readDelay_holds {p : List Instr} {s : State} (h : Holds p s) : Holds p (State.readDelay s).2 := by
  unfold State.readDelay
  try dsimp only
  repeat' first
    | with_reducible assumption
    | with_reducible refine State.setReg_holds ?_ _ _
    | with_reducible refine State.setSelected_holds ?_ _

theorem State.linkLost_holds {p : List Instr} {s : State} (h : Holds p s) : ∀ a1, Holds p (State.linkLost s a1) := by
  intro a1
  unfold State.linkLost
  try dsimp only
  repeat' first
    | with_reducible assumption
    | intro _
    | with_reducible refine holds_ite (fun _ => ?_) (fun _ => ?_)
    | with_reducible refine foldl_holds ?_ ?_
    | with_reducible refine State.setQueue_holds ?_ _ _
    | with_reducible refine State.showSubport_holds ?_ _
    | with_reducible refine State.setSubport_holds ?_ _ _
    | with_reducible refine State.startTimer_holds ?_ _
    | with_reducible refine State.setReg_holds ?_ _ _

theorem State.linkUpNow_holds {p : List Instr} {s : State} (h : Holds p s) : ∀ a1, Holds p (State.linkUpNow s a1) := by
  intro a1
  unfold State.linkUpNow
  try dsimp only
  repeat' first
    | with_reducible assumption
    | with_reducible refine State.showSubport_holds ?_ _
    | with_reducible refine State.setSubport_holds ?_ _ _
    | (refine holds_of_parts ?_; dsimp only; with_reducible refine Holds.parts ?_)

theorem State.writePortCfg_holds {p : List Instr} {s : State} (h : Holds p s) : ∀ a1 a2, Holds p (State.writePortCfg s a1 a2) := by
  intro a1 a2
  unfold State.writePortCfg
  try dsimp only
  repeat' first
    | with_reducible assumption
    | intro _
    | with_reducible refine holds_ite (fun _ => ?_) (fun _ => ?_)
    | with_reducible refine foldl_holds ?_ ?_
    | with_reducible refine State.setReg_holds ?_ _ _
    | with_reducible refine State.linkLost_holds ?_ _
    | (refine holds_of_parts ?_; dsimp only; with_reducible refine Holds.parts ?_)

/-! ## Machine/RingCmd.lean -/

theorem State.ringOff_holds {p : List Instr} {s : State} (h : Holds p s) : ∀ a1 a2, Holds p (State.ringOff s a1 a2) := by
  intro a1 a2
  unfold State.ringOff
  try dsimp only
  repeat' first
    | with_reducible assumption
    | with_reducible refine holds_ite (fun _ => ?_) (fun _ => ?_)
    | with_reducible refine State.setRing_holds ?_ _ _ _
    | with_reducible refine State.closeStream_holds ?_ _
    | (refine holds_of_parts ?_; dsimp only; with_reducible refine Holds.parts ?_)

theorem State.clearEn_holds {p : List Instr} {s : State} (h : Holds p s) : ∀ a1 a2, Holds p (State.clearEn s a1 a2) := by
  intro a1 a2
  unfold State.clearEn
  try dsimp only
  repeat' first
    | with_reducible assumption
    | with_reducible refine holds_ite (fun _ => ?_) (fun _ => ?_)
    | with_reducible refine State.setRing_holds ?_ _ _ _
    | with_reducible refine State.fetchRingCleared_holds ?_ _
    | with_reducible refine State.ringOff_holds ?_ _ _

theorem State.tryEnable_holds {p : List Instr} {s : State} (h : Holds p s) : ∀ a1 a2 a3, Holds p (State.tryEnable s a1 a2 a3) := by
  intro a1 a2 a3
  unfold State.tryEnable
  try dsimp only
  repeat' first
    | with_reducible assumption
    | with_reducible refine holds_ite (fun _ => ?_) (fun _ => ?_)
    | with_reducible refine State.setRing_holds ?_ _ _ _
    | (refine holds_of_parts ?_; dsimp only; with_reducible refine Holds.parts ?_)

theorem State.writeRingCfg_holds {p : List Instr} {s : State} (h : Holds p s) : ∀ a1, Holds p (State.writeRingCfg s a1) := by
  intro a1
  unfold State.writeRingCfg
  try dsimp only
  repeat' first
    | with_reducible assumption
    | with_reducible refine holds_ite (fun _ => ?_) (fun _ => ?_)
    | with_reducible refine State.clearEn_holds ?_ _ _
    | with_reducible refine State.setRing_holds ?_ _ _ _
    | with_reducible refine State.tryEnable_holds ?_ _ _ _

theorem State.writeRingBase_holds {p : List Instr} {s : State} (h : Holds p s) : ∀ a1 a2, Holds p (State.writeRingBase s a1 a2) := by
  intro a1 a2
  unfold State.writeRingBase
  try dsimp only
  repeat' first
    | with_reducible assumption
    | with_reducible refine holds_ite (fun _ => ?_) (fun _ => ?_)
    | with_reducible refine State.setRing_holds ?_ _ _ _

theorem State.writeRingWin_holds {p : List Instr} {s : State} (h : Holds p s) : ∀ a1 a2 a3, Holds p (State.writeRingWin s a1 a2 a3) := by
  intro a1 a2 a3
  unfold State.writeRingWin
  try dsimp only
  repeat' first
    | with_reducible assumption
    | with_reducible refine holds_ite (fun _ => ?_) (fun _ => ?_)
    | with_reducible refine State.setRing_holds ?_ _ _ _

theorem State.writeRingErr_holds {p : List Instr} {s : State} (h : Holds p s) : ∀ a1, Holds p (State.writeRingErr s a1) := by
  intro a1
  unfold State.writeRingErr
  try dsimp only
  repeat' first
    | with_reducible assumption
    | with_reducible refine State.setRing_holds ?_ _ _ _

theorem State.popTicket_holds {p : List Instr} {s : State} (h : Holds p s) : ∀ a1, Holds p (State.popTicket s a1).2 := by
  intro a1
  unfold State.popTicket
  try dsimp only
  repeat' first
    | with_reducible assumption
    | with_reducible refine State.setCore_holds ?_ ?_
    | with_reducible refine Holds.status (p := p) ?_ _
    | (refine legal_of_word ?_; dsimp only; with_reducible refine statusLegal_word ?_)
    | split

theorem State.writeTkiStat_holds {p : List Instr} {s : State} (h : Holds p s) : ∀ a1 a2, Holds p (State.writeTkiStat s a1 a2) := by
  intro a1 a2
  unfold State.writeTkiStat
  try dsimp only
  repeat' first
    | with_reducible assumption
    | with_reducible refine State.setCore_holds ?_ ?_
    | with_reducible refine Holds.status (p := p) ?_ _
    | (refine legal_of_word ?_; dsimp only; with_reducible refine statusLegal_word ?_)

/-! ## Machine/Debug.lean -/

theorem State.mark_holds {p : List Instr} {s : State} (h : Holds p s) : ∀ a1 a2, Holds p (State.mark s a1 a2) := by
  intro a1 a2
  unfold State.mark
  try dsimp only
  repeat' first
    | with_reducible assumption
    | with_reducible refine State.emit_holds ?_ _ _ _ _

theorem State.arm_holds {p : List Instr} {s : State} (h : Holds p s) : Holds p (State.arm s) := by
  unfold State.arm
  try dsimp only
  repeat' first
    | with_reducible assumption
    | with_reducible refine State.setFlag_holds ?_ _ _
    | with_reducible refine State.traceWrite_holds ?_ _
    | with_reducible refine State.errAdd_holds ?_ _ _
    | (refine holds_of_parts ?_; dsimp only; with_reducible refine Holds.parts ?_)
    | split

theorem State.portSend_holds {p : List Instr} {s : State} (h : Holds p s) : ∀ a1, Holds p (State.portSend s a1) := by
  intro a1
  unfold State.portSend
  try dsimp only
  repeat' first
    | with_reducible assumption
    | with_reducible refine State.count_holds ?_ _ _ _
    | (refine holds_of_parts ?_; dsimp only; with_reducible refine Holds.parts ?_)

theorem State.writeDbgCtl_holds {p : List Instr} {s : State} (h : Holds p s) : ∀ a1, Holds p (State.writeDbgCtl s a1) := by
  intro a1
  unfold State.writeDbgCtl
  try dsimp only
  repeat' first
    | with_reducible assumption
    | with_reducible refine holds_ite (fun _ => ?_) (fun _ => ?_)
    | with_reducible refine State.setReg_holds ?_ _ _
    | (refine holds_of_parts ?_; dsimp only; with_reducible refine Holds.parts ?_)

/-! ## Machine/Nvme.lean -/

theorem State.bindNvme_holds {p : List Instr} {s : State} (h : Holds p s) : ∀ a1 a2, HoldsIn p (fun r => r.2) (s.bindNvme a1 a2) := by
  refine fun a1 a2 => ⟨fun r e => ?_⟩
  obtain ⟨q, -, rfl⟩ := Option.map_eq_some_iff.1 e
  exact ⟨h.queue, h.mem, h.status⟩

theorem State.freeQueue_holds {p : List Instr} {s : State} (h : Holds p s) : ∀ a1, Holds p (State.freeQueue s a1) := by
  intro a1
  unfold State.freeQueue
  try dsimp only
  repeat' first
    | with_reducible assumption
    | (refine holds_of_parts ?_; dsimp only; with_reducible refine Holds.parts ?_)

theorem State.dropController_holds {p : List Instr} {s : State} (h : Holds p s) : ∀ a1, Holds p (State.dropController s a1) := by
  intro a1
  unfold State.dropController
  try dsimp only
  repeat' first
    | with_reducible assumption
    | intro _
    | with_reducible refine foldl_holds ?_ ?_
    | with_reducible refine State.freeQueue_holds ?_ _
    | (refine holds_of_parts ?_; dsimp only; with_reducible refine Holds.parts ?_)

theorem State.raiseEvent_holds {p : List Instr} {s : State} (h : Holds p s) : ∀ a1 a2, Holds p (State.raiseEvent s a1 a2) := by
  intro a1 a2
  unfold State.raiseEvent
  try dsimp only
  repeat' first
    | with_reducible assumption
    | with_reducible refine holds_ite (fun _ => ?_) (fun _ => ?_)
    | with_reducible refine State.nvmeComplete_holds ?_ _ _ _ _ _
    | with_reducible refine State.setController_holds ?_ _
    | split

theorem State.spendTurn_holds {p : List Instr} {s : State} (h : Holds p s) : ∀ a1, Holds p (State.spendTurn s a1) := by
  intro a1
  unfold State.spendTurn
  try dsimp only
  repeat' first
    | with_reducible assumption
    | (refine holds_of_parts ?_; dsimp only; with_reducible refine Holds.parts ?_)

theorem State.fetchSq_holds {p : List Instr} {s : State} (h : Holds p s) : ∀ a1 a2 a3, Holds p (State.fetchSq s a1 a2 a3) := by
  intro a1 a2 a3
  unfold State.fetchSq
  try dsimp only
  repeat' first
    | with_reducible assumption
    | with_reducible refine State.setSq_holds ?_ _
    | with_reducible refine State.setController_holds ?_ _

theorem State.rejectNvme_holds {p : List Instr} {s : State} (h : Holds p s) : ∀ a1 a2, Holds p (State.rejectNvme s a1 a2) := by
  intro a1 a2
  induction a2 generalizing s a1 with
  | zero =>
    unfold State.rejectNvme
    repeat' first
      | with_reducible assumption
  | succ k ih =>
    unfold State.rejectNvme
    try dsimp only
    repeat' first
      | with_reducible assumption
      | (with_reducible apply ih)
      | with_reducible refine holds_ite (fun _ => ?_) (fun _ => ?_)
      | with_reducible refine State.nvmeComplete_holds ?_ _ _ _ _ _
      | with_reducible refine State.fetchSq_holds ?_ _ _ _
      | split

theorem State.takeNvme_holds {p : List Instr} {s : State} (h : Holds p s) : ∀ a1 a2 a3, HoldsIn p (fun r => r.2.2) (s.takeNvme a1 a2 a3) := by
  intro a1 a2 a3
  unfold State.takeNvme
  repeat' first
    | exact HoldsIn.none
    | with_reducible refine HoldsIn.some ?_
    | with_reducible refine HoldsIn.ite (fun _ => ?_) (fun _ => ?_)
    | with_reducible assumption
    | with_reducible refine holds_ite (fun _ => ?_) (fun _ => ?_)
    | with_reducible refine State.fetchSq_holds ?_ _ _ _
    | with_reducible refine State.spendTurn_holds ?_ _
    | with_reducible refine State.rejectNvme_holds ?_ _ _
    | split

theorem State.adminCommand_holds {p : List Instr} {s : State} {run : State → List Byte → State} (h : Holds p s) (a1 a2 : Nat)
    (hr : ∀ s e, Holds p s → Holds p (run s e)) : Holds p (s.adminCommand a1 a2 run) := by
  unfold State.adminCommand
  split
  next e =>
    have hs := (State.takeNvme_holds h _ _ _).holds _ e
    dsimp only at hs
    split
    · exact State.nvmeComplete_holds hs _ _ _ _ _
    · exact hr _ _ hs
  · exact h

theorem State.prpWrite_holds {p : List Instr} {s : State} (h : Holds p s) : ∀ a1 a2 a3, Holds p (s.prpWrite a1 a2 a3) := by
  intro a1 a2 a3
  unfold State.prpWrite
  exact foldl_fst_holds h fun a x ha => State.hostWrite_holds ha _ _

theorem State.openPage_holds {p : List Instr} {s : State} (h : Holds p s) : ∀ a1 a2, Holds p (State.openPage s a1 a2).2 := by
  intro a1 a2
  unfold State.openPage
  try dsimp only
  repeat' first
    | with_reducible assumption
    | with_reducible refine State.freshFree_holds ?_

theorem State.ioCommand_holds {p : List Instr} {s : State} {run : State → Nat → List Byte → State} (h : Holds p s) (a1 a2 : Nat)
    (hr : ∀ s q e, Holds p s → Holds p (run s q e)) : Holds p (s.ioCommand a1 a2 run) := by
  unfold State.ioCommand
  split
  · exact h
  · split
    next e =>
      have hs := (State.takeNvme_holds h _ _ _).holds _ e
      dsimp only at hs
      split
      · exact State.nvmeComplete_holds hs _ _ _ _ _
      · exact hr _ _ _ hs
    · exact h

/-! ## Machine/Rdma.lean -/

theorem State.startLost_holds {p : List Instr} {s : State} (h : Holds p s) : ∀ a1, Holds p (State.startLost s a1) := by
  intro a1
  unfold State.startLost
  try dsimp only
  repeat' first
    | with_reducible assumption
    | with_reducible refine holds_ite (fun _ => ?_) (fun _ => ?_)
    | with_reducible refine State.startTimer_holds ?_ _
    | split

theorem State.pumpQp_holds {p : List Instr} {s : State} (h : Holds p s) : ∀ a1 a2, Holds p (State.pumpQp s a1 a2) := by
  intro a1 a2
  induction a2 generalizing s a1 with
  | zero =>
    unfold State.pumpQp
    repeat' first
      | with_reducible assumption
      | with_reducible refine State.startLost_holds ?_ _
  | succ k ih =>
    unfold State.pumpQp
    try dsimp only
    repeat' first
      | with_reducible assumption
      | (with_reducible apply ih)
      | with_reducible refine holds_ite (fun _ => ?_) (fun _ => ?_)
      | with_reducible refine State.startLost_holds ?_ _
      | with_reducible refine State.weirAdd_holds ?_ _ _ _
      | with_reducible refine State.setQp_holds ?_ _ _
      | split

theorem State.post_holds {p : List Instr} {s : State} (h : Holds p s) : ∀ a1 a2, Holds p (State.post s a1 a2) := by
  intro a1 a2
  unfold State.post
  try dsimp only
  repeat' first
    | with_reducible assumption
    | with_reducible refine State.pumpQp_holds ?_ _ _
    | with_reducible refine State.setQp_holds ?_ _ _
    | split

theorem State.urgent_holds {p : List Instr} {s : State} (h : Holds p s) : ∀ a1 a2 a3 a4, Holds p (State.urgent s a1 a2 a3 a4) := by
  intro a1 a2 a3 a4
  unfold State.urgent
  try dsimp only
  repeat' first
    | with_reducible assumption
    | with_reducible refine holds_ite (fun _ => ?_) (fun _ => ?_)
    | with_reducible refine State.setSubport_holds ?_ _ _

theorem State.deliveryRecord_holds {p : List Instr} {s : State} (h : Holds p s) : ∀ a1 a2 a3 a4 a5 a6, Holds p (State.deliveryRecord s a1 a2 a3 a4 a5 a6) := by
  intro a1 a2 a3 a4 a5 a6
  unfold State.deliveryRecord
  try dsimp only
  repeat' first
    | with_reducible assumption
    | with_reducible refine holds_ite (fun _ => ?_) (fun _ => ?_)
    | with_reducible refine State.engineWrite_holds ?_ _ _ _

theorem State.deliverRefuse_holds {p : List Instr} {s : State} (h : Holds p s) : ∀ a1 a2, Holds p (State.deliverRefuse s a1 a2) := by
  intro a1 a2
  unfold State.deliverRefuse
  try dsimp only
  repeat' first
    | with_reducible assumption
    | with_reducible refine State.finish_holds ?_ _ _ _ _
    | with_reducible refine State.deliveryRecord_holds ?_ _ _ _ _ _ _

theorem State.endDelivery_holds {p : List Instr} {s : State} (h : Holds p s) : ∀ a1 a2, Holds p (State.endDelivery s a1 a2) := by
  intro a1 a2
  unfold State.endDelivery
  try dsimp only
  repeat' first
    | with_reducible assumption
    | with_reducible refine holds_ite (fun _ => ?_) (fun _ => ?_)
    | with_reducible refine State.dropPart_holds ?_ _
    | with_reducible refine State.finish_holds ?_ _ _ _ _
    | with_reducible refine State.deliveryRecord_holds ?_ _ _ _ _ _ _
    | (refine holds_of_parts ?_; dsimp only; with_reducible refine Holds.parts ?_)
    | split

theorem State.setRegion_holds {p : List Instr} {s : State} (h : Holds p s) : ∀ a1 a2, Holds p (State.setRegion s a1 a2) := by
  intro a1 a2
  unfold State.setRegion
  try dsimp only
  repeat' first
    | with_reducible assumption
    | with_reducible refine State.setFld_holds ?_ _ _
    | (refine holds_of_parts ?_; dsimp only; with_reducible refine Holds.parts ?_)

theorem State.registerNow_holds {p : List Instr} {s : State} (h : Holds p s) : ∀ a1 a2, Holds p (State.registerNow s a1 a2) := by
  intro a1 a2
  unfold State.registerNow
  try dsimp only
  repeat' first
    | with_reducible assumption
    | with_reducible refine holds_ite (fun _ => ?_) (fun _ => ?_)
    | with_reducible refine State.setRegion_holds ?_ _ _
    | with_reducible refine State.finish_holds ?_ _ _ _ _
    | with_reducible refine State.engineWrite_holds ?_ _ _ _

theorem State.endRevoke_holds {p : List Instr} {s : State} (h : Holds p s) : ∀ a1 a2, Holds p (State.endRevoke s a1 a2) := by
  intro a1 a2
  unfold State.endRevoke
  try dsimp only
  repeat' first
    | with_reducible assumption
    | with_reducible refine holds_ite (fun _ => ?_) (fun _ => ?_)
    | with_reducible refine State.setRegion_holds ?_ _ _
    | with_reducible refine State.finish_holds ?_ _ _ _ _
    | with_reducible refine State.registerNow_holds ?_ _ _
    | split

theorem State.settleRevokes_holds {p : List Instr} {s : State} (h : Holds p s) : Holds p (State.settleRevokes s) := by
  unfold State.settleRevokes
  try dsimp only
  repeat' first
    | with_reducible assumption
    | intro _
    | with_reducible refine holds_ite (fun _ => ?_) (fun _ => ?_)
    | with_reducible refine foldl_holds ?_ ?_
    | with_reducible refine State.endRevoke_holds ?_ _ _

theorem State.beginRevoke_holds {p : List Instr} {s : State} (h : Holds p s) : ∀ a1 a2, Holds p (State.beginRevoke s a1 a2) := by
  intro a1 a2
  unfold State.beginRevoke
  try dsimp only
  repeat' first
    | with_reducible assumption
    | with_reducible refine State.settleRevokes_holds ?_
    | with_reducible refine State.setRegion_holds ?_ _ _

theorem State.endQpWork_holds {p : List Instr} {s : State} (h : Holds p s) : ∀ a1 a2 a3 a4 a5, Holds p (State.endQpWork s a1 a2 a3 a4 a5) := by
  intro a1 a2 a3 a4 a5
  unfold State.endQpWork
  try dsimp only
  repeat' first
    | with_reducible assumption
    | intro _
    | with_reducible refine foldl_holds ?_ ?_
    | with_reducible refine State.endDelivery_holds ?_ _ _
    | with_reducible refine State.finish_holds ?_ _ _ _ _
    | split

theorem State.qpError_holds {p : List Instr} {s : State} (h : Holds p s) : ∀ a1 a2 a3 a4 a5, Holds p (State.qpError s a1 a2 a3 a4 a5) := by
  intro a1 a2 a3 a4 a5
  unfold State.qpError
  try dsimp only
  repeat' first
    | with_reducible assumption
    | with_reducible refine holds_ite (fun _ => ?_) (fun _ => ?_)
    | with_reducible refine State.setQp_holds ?_ _ _
    | with_reducible refine State.weirDrop_holds ?_ _ _
    | with_reducible refine State.setSubport_holds ?_ _ _
    | with_reducible refine State.errAdd_holds ?_ _ _
    | with_reducible refine State.settleRevokes_holds ?_
    | with_reducible refine State.endQpWork_holds ?_ _ _ _ _ _
    | split

theorem State.cmdReject_holds {p : List Instr} {s : State} (h : Holds p s) : Holds p (State.cmdReject s) := by
  unfold State.cmdReject
  try dsimp only
  repeat' first
    | with_reducible assumption
    | with_reducible refine State.setFlag_holds ?_ _ _

theorem State.cmdInit_holds {p : List Instr} {s : State} (h : Holds p s) : ∀ a1, Holds p (State.cmdInit s a1) := by
  intro a1
  unfold State.cmdInit
  try dsimp only
  repeat' first
    | with_reducible assumption
    | with_reducible refine holds_ite (fun _ => ?_) (fun _ => ?_)
    | with_reducible refine State.setQp_holds ?_ _ _
    | with_reducible refine State.cmdReject_holds ?_
    | (refine holds_of_parts ?_; dsimp only; with_reducible refine Holds.parts ?_)
    | split

theorem State.cmdMove_holds {p : List Instr} {s : State} (h : Holds p s) : ∀ a1 a2, Holds p (State.cmdMove s a1 a2) := by
  intro a1 a2
  unfold State.cmdMove
  try dsimp only
  repeat' first
    | with_reducible assumption
    | with_reducible refine holds_ite (fun _ => ?_) (fun _ => ?_)
    | with_reducible refine State.setQp_holds ?_ _ _
    | with_reducible refine State.cmdReject_holds ?_
    | split

theorem State.cmdErr_holds {p : List Instr} {s : State} (h : Holds p s) : Holds p (State.cmdErr s) := by
  unfold State.cmdErr
  try dsimp only
  repeat' first
    | with_reducible assumption
    | with_reducible refine holds_ite (fun _ => ?_) (fun _ => ?_)
    | with_reducible refine State.qpError_holds ?_ _ _ _ _ _
    | with_reducible refine State.cmdReject_holds ?_
    | split

theorem State.unbindQp_holds {p : List Instr} {s : State} (h : Holds p s) : ∀ a1, Holds p (State.unbindQp s a1) := by
  intro a1
  unfold State.unbindQp
  try dsimp only
  repeat' first
    | with_reducible assumption
    | (refine holds_of_parts ?_; dsimp only; with_reducible refine Holds.parts ?_)

theorem State.cmdReset_holds {p : List Instr} {s : State} (h : Holds p s) : ∀ a1, Holds p (State.cmdReset s a1) := by
  intro a1
  unfold State.cmdReset
  try dsimp only
  repeat' first
    | with_reducible assumption
    | with_reducible refine holds_ite (fun _ => ?_) (fun _ => ?_)
    | with_reducible refine State.unbindQp_holds ?_ _
    | with_reducible refine State.setQp_holds ?_ _ _
    | with_reducible refine State.cmdReject_holds ?_
    | split

theorem State.qpCommand_holds {p : List Instr} {s : State} (h : Holds p s) : ∀ a1, Holds p (State.qpCommand s a1) := by
  intro a1
  unfold State.qpCommand
  try dsimp only
  repeat' first
    | with_reducible assumption
    | with_reducible refine State.cmdInit_holds ?_ _
    | with_reducible refine State.cmdMove_holds ?_ _ _
    | with_reducible refine State.cmdErr_holds ?_
    | with_reducible refine State.cmdReset_holds ?_ _
    | split

theorem State.goBack_holds {p : List Instr} {s : State} (h : Holds p s) : ∀ a1, Holds p (State.goBack s a1) := by
  intro a1
  unfold State.goBack
  try dsimp only
  repeat' first
    | with_reducible assumption
    | intro _
    | with_reducible refine foldl_holds ?_ ?_
    | with_reducible refine State.setQp_holds ?_ _ _
    | with_reducible refine State.weirDrop_holds ?_ _ _
    | with_reducible refine State.count_holds ?_ _ _ _
    | with_reducible refine State.weirAdd_holds ?_ _ _ _
    | (refine holds_of_parts ?_; dsimp only; with_reducible refine Holds.parts ?_)
    | split

theorem State.ackedPacket_holds {p : List Instr} {s : State} (h : Holds p s) : ∀ a1, Holds p (State.ackedPacket s a1) := by
  intro a1
  unfold State.ackedPacket
  try dsimp only
  repeat' first
    | with_reducible assumption
    | with_reducible refine State.count_holds ?_ _ _ _
    | (refine holds_of_parts ?_; dsimp only; with_reducible refine Holds.parts ?_)
    | split

theorem State.ackUpTo_holds {p : List Instr} {s : State} (h : Holds p s) : ∀ a1 a2, Holds p (State.ackUpTo s a1 a2) := by
  intro a1 a2
  unfold State.ackUpTo
  try dsimp only
  repeat' first
    | with_reducible assumption
    | intro _
    | with_reducible refine holds_ite (fun _ => ?_) (fun _ => ?_)
    | with_reducible refine foldl_holds ?_ ?_
    | with_reducible refine State.setQp_holds ?_ _ _
    | with_reducible refine State.pumpQp_holds ?_ _ _
    | with_reducible refine State.ackedPacket_holds ?_ _
    | split

theorem State.settleShare_holds {p : List Instr} {s : State} (h : Holds p s) : ∀ a1 a2, Holds p (State.settleShare s a1 a2) := by
  intro a1 a2
  unfold State.settleShare
  try dsimp only
  repeat' first
    | with_reducible assumption
    | with_reducible refine holds_ite (fun _ => ?_) (fun _ => ?_)
    | with_reducible refine State.finish_holds ?_ _ _ _ _
    | split

theorem State.responseIn_holds {p : List Instr} {s : State} (h : Holds p s) : ∀ a1 a2 a3, Holds p (State.responseIn s a1 a2 a3) := by
  intro a1 a2 a3
  unfold State.responseIn
  try dsimp only
  repeat' first
    | with_reducible assumption
    | with_reducible refine holds_ite (fun _ => ?_) (fun _ => ?_)
    | with_reducible refine State.ackUpTo_holds ?_ _ _
    | with_reducible refine State.count_holds ?_ _ _ _
    | with_reducible refine State.engineWrite_holds ?_ _ _ _
    | with_reducible refine State.setQp_holds ?_ _ _
    | with_reducible refine State.settleShare_holds ?_ _ _
    | with_reducible refine State.pumpQp_holds ?_ _ _
    | split

theorem State.nakIn_holds {p : List Instr} {s : State} (h : Holds p s) : ∀ a1 a2 a3, Holds p (State.nakIn s a1 a2 a3) := by
  intro a1 a2 a3
  unfold State.nakIn
  try dsimp only
  repeat' first
    | with_reducible assumption
    | with_reducible refine State.ackUpTo_holds ?_ _ _
    | with_reducible refine State.goBack_holds ?_ _
    | with_reducible refine State.qpError_holds ?_ _ _ _ _ _
    | split

theorem State.setDelivery_holds {p : List Instr} {s : State} (h : Holds p s) : ∀ a1, Holds p (State.setDelivery s a1) := by
  intro a1
  unfold State.setDelivery
  try dsimp only
  repeat' first
    | with_reducible assumption
    | (refine holds_of_parts ?_; dsimp only; with_reducible refine Holds.parts ?_)

theorem State.writePart_holds {p : List Instr} {s : State} (h : Holds p s) : ∀ a1 a2, Holds p (State.writePart s a1 a2) := by
  intro a1 a2
  unfold State.writePart
  try dsimp only
  repeat' first
    | with_reducible assumption
    | with_reducible refine State.post_holds ?_ _ _
    | split

theorem State.grantIn_holds {p : List Instr} {s : State} (h : Holds p s) : ∀ a1 a2, Holds p (State.grantIn s a1 a2) := by
  intro a1 a2
  unfold State.grantIn
  try dsimp only
  repeat' first
    | with_reducible assumption
    | with_reducible refine holds_ite (fun _ => ?_) (fun _ => ?_)
    | with_reducible refine State.post_holds ?_ _ _
    | with_reducible refine State.endDelivery_holds ?_ _ _
    | with_reducible refine State.writePart_holds ?_ _ _
    | with_reducible refine State.setDelivery_holds ?_ _
    | with_reducible refine State.freshFree_holds ?_
    | split

theorem State.declineIn_holds {p : List Instr} {s : State} (h : Holds p s) : ∀ a1, Holds p (State.declineIn s a1) := by
  intro a1
  unfold State.declineIn
  try dsimp only
  repeat' first
    | with_reducible assumption
    | with_reducible refine State.endDelivery_holds ?_ _ _
    | split

theorem State.grantMessage_holds {p : List Instr} {s : State} (h : Holds p s) : ∀ a1 a2, Holds p (State.grantMessage s a1 a2) := by
  intro a1 a2
  unfold State.grantMessage
  try dsimp only
  repeat' first
    | with_reducible assumption
    | with_reducible refine holds_ite (fun _ => ?_) (fun _ => ?_)
    | with_reducible refine State.grantIn_holds ?_ _ _
    | with_reducible refine State.declineIn_holds ?_ _
    | with_reducible refine State.errAdd_holds ?_ _ _

theorem State.grantCommand_holds {p : List Instr} {s : State} (h : Holds p s) : ∀ a1 a2 a3, Holds p (State.grantCommand s a1 a2 a3) := by
  intro a1 a2 a3
  unfold State.grantCommand
  try dsimp only
  repeat' first
    | with_reducible assumption
    | with_reducible refine holds_ite (fun _ => ?_) (fun _ => ?_)
    | with_reducible refine State.grantMessage_holds ?_ _ _
    | split

theorem State.deliverRun_holds {p : List Instr} {s : State} (h : Holds p s) : ∀ a1, Holds p (State.deliverRun s a1) := by
  intro a1
  unfold State.deliverRun
  try dsimp only
  repeat' first
    | with_reducible assumption
    | with_reducible refine holds_ite (fun _ => ?_) (fun _ => ?_)
    | with_reducible refine State.deliverRefuse_holds ?_ _ _
    | with_reducible refine State.post_holds ?_ _ _
    | (refine holds_of_parts ?_; dsimp only; with_reducible refine Holds.parts ?_)
    | split

theorem State.fenceDeliveries_holds {p : List Instr} {s : State} (h : Holds p s) : Holds p (State.fenceDeliveries s) := by
  unfold State.fenceDeliveries
  try dsimp only
  repeat' first
    | with_reducible assumption
    | intro _
    | with_reducible refine holds_ite (fun _ => ?_) (fun _ => ?_)
    | with_reducible refine foldl_holds ?_ ?_
    | with_reducible refine State.qpError_holds ?_ _ _ _ _ _

theorem State.unloadDeliveries_holds {p : List Instr} {s : State} (h : Holds p s) : ∀ a1, Holds p (State.unloadDeliveries s a1) := by
  intro a1
  unfold State.unloadDeliveries
  try dsimp only
  repeat' first
    | with_reducible assumption
    | intro _
    | with_reducible refine holds_ite (fun _ => ?_) (fun _ => ?_)
    | with_reducible refine foldl_holds ?_ ?_
    | with_reducible refine State.endDelivery_holds ?_ _ _
    | with_reducible refine State.deliverRefuse_holds ?_ _ _
    | split

theorem State.unbindRecipeQps_holds {p : List Instr} {s : State} (h : Holds p s) : ∀ a1, Holds p (State.unbindRecipeQps s a1) := by
  intro a1
  unfold State.unbindRecipeQps
  try dsimp only
  repeat' first
    | with_reducible assumption
    | intro _
    | with_reducible refine holds_ite (fun _ => ?_) (fun _ => ?_)
    | with_reducible refine foldl_holds ?_ ?_
    | with_reducible refine State.unbindQp_holds ?_ _
    | with_reducible refine State.qpError_holds ?_ _ _ _ _ _

theorem State.reconRun_holds {p : List Instr} {s : State} (h : Holds p s) : ∀ a1, Holds p (State.reconRun s a1) := by
  intro a1
  unfold State.reconRun
  try dsimp only
  repeat' first
    | with_reducible assumption
    | with_reducible refine holds_ite (fun _ => ?_) (fun _ => ?_)
    | with_reducible refine State.finish_holds ?_ _ _ _ _
    | with_reducible refine State.post_holds ?_ _ _
    | split

theorem State.nakError_holds {p : List Instr} {s : State} (h : Holds p s) : ∀ a1 a2 a3, Holds p (State.nakError s a1 a2 a3) := by
  intro a1 a2 a3
  unfold State.nakError
  try dsimp only
  repeat' first
    | with_reducible assumption
    | with_reducible refine State.qpError_holds ?_ _ _ _ _ _
    | with_reducible refine State.urgent_holds ?_ _ _ _ _

theorem State.keyFails_holds {p : List Instr} {s : State} (h : Holds p s) : ∀ a1 a2, Holds p (State.keyFails s a1 a2) := by
  intro a1 a2
  unfold State.keyFails
  try dsimp only
  repeat' first
    | with_reducible assumption
    | with_reducible refine State.nakError_holds ?_ _ _ _
    | with_reducible refine State.errAdd_holds ?_ _ _

theorem State.executed_holds {p : List Instr} {s : State} (h : Holds p s) : ∀ a1 a2 a3 a4, Holds p (State.executed s a1 a2 a3 a4) := by
  intro a1 a2 a3 a4
  unfold State.executed
  try dsimp only
  repeat' first
    | with_reducible assumption
    | with_reducible refine holds_ite (fun _ => ?_) (fun _ => ?_)
    | with_reducible refine State.setQp_holds ?_ _ _
    | with_reducible refine State.urgent_holds ?_ _ _ _ _

theorem State.readRespond_holds {p : List Instr} {s : State} (h : Holds p s) : ∀ a1 a2 a3 a4 a5 a6 a7, Holds p (State.readRespond s a1 a2 a3 a4 a5 a6 a7) := by
  intro a1 a2 a3 a4 a5 a6 a7
  unfold State.readRespond
  try dsimp only
  repeat' first
    | with_reducible assumption
    | intro _
    | with_reducible refine holds_ite (fun _ => ?_) (fun _ => ?_)
    | with_reducible refine foldl_holds ?_ ?_
    | with_reducible refine State.spaceBytes_holds ?_ _ _ _
    | with_reducible refine State.engineAccess_holds ?_ _ _ _ _
    | with_reducible refine State.urgent_holds ?_ _ _ _ _
    | with_reducible refine State.setQp_holds ?_ _ _
    | with_reducible refine State.weirAdd_holds ?_ _ _ _
    | split

theorem State.toFirmware_holds {p : List Instr} {s : State} (h : Holds p s) : ∀ a1 a2 a3, Holds p (State.toFirmware s a1 a2 a3) := by
  intro a1 a2 a3
  unfold State.toFirmware
  try dsimp only
  repeat' first
    | with_reducible assumption
    | (refine holds_of_parts ?_; dsimp only; with_reducible refine Holds.parts ?_)

theorem State.sendIn_holds {p : List Instr} {s : State} (h : Holds p s) : ∀ a1 a2 a3 a4, Holds p (State.sendIn s a1 a2 a3 a4) := by
  intro a1 a2 a3 a4
  unfold State.sendIn
  try dsimp only
  repeat' first
    | with_reducible assumption
    | with_reducible refine holds_ite (fun _ => ?_) (fun _ => ?_)
    | with_reducible refine State.grantMessage_holds ?_ _ _
    | with_reducible refine State.executed_holds ?_ _ _ _ _
    | with_reducible refine State.errAdd_holds ?_ _ _
    | with_reducible refine State.urgent_holds ?_ _ _ _ _
    | with_reducible refine State.toFirmware_holds ?_ _ _ _
    | (refine holds_of_parts ?_; dsimp only; with_reducible refine Holds.parts ?_)

theorem State.writeIn_holds {p : List Instr} {s : State} (h : Holds p s) : ∀ a1 a2 a3 a4 a5 a6 a7 a8 a9, Holds p (State.writeIn s a1 a2 a3 a4 a5 a6 a7 a8 a9) := by
  intro a1 a2 a3 a4 a5 a6 a7 a8 a9
  unfold State.writeIn
  try dsimp only
  repeat' first
    | with_reducible assumption
    | with_reducible refine holds_ite (fun _ => ?_) (fun _ => ?_)
    | with_reducible refine State.nakError_holds ?_ _ _ _
    | with_reducible refine State.keyFails_holds ?_ _ _
    | with_reducible refine State.engineWrite_holds ?_ _ _ _
    | with_reducible refine State.executed_holds ?_ _ _ _ _
    | with_reducible refine State.toFirmware_holds ?_ _ _ _
    | with_reducible refine State.settleRevokes_holds ?_
    | split

theorem State.readIn_holds {p : List Instr} {s : State} (h : Holds p s) : ∀ a1 a2 a3 a4 a5, Holds p (State.readIn s a1 a2 a3 a4 a5) := by
  intro a1 a2 a3 a4 a5
  unfold State.readIn
  try dsimp only
  repeat' first
    | with_reducible assumption
    | with_reducible refine holds_ite (fun _ => ?_) (fun _ => ?_)
    | with_reducible refine State.nakError_holds ?_ _ _ _
    | with_reducible refine State.keyFails_holds ?_ _ _
    | with_reducible refine State.readRespond_holds ?_ _ _ _ _ _ _ _

theorem State.duplicateIn_holds {p : List Instr} {s : State} (h : Holds p s) : ∀ a1 a2 a3 a4, Holds p (State.duplicateIn s a1 a2 a3 a4) := by
  intro a1 a2 a3 a4
  unfold State.duplicateIn
  try dsimp only
  repeat' first
    | with_reducible assumption
    | with_reducible refine holds_ite (fun _ => ?_) (fun _ => ?_)
    | with_reducible refine State.urgent_holds ?_ _ _ _ _
    | with_reducible refine State.readRespond_holds ?_ _ _ _ _ _ _ _
    | with_reducible refine State.nakError_holds ?_ _ _ _
    | with_reducible refine State.setQp_holds ?_ _ _
    | with_reducible refine State.errAdd_holds ?_ _ _
    | with_reducible refine State.engineWrite_holds ?_ _ _ _
    | with_reducible refine State.settleRevokes_holds ?_
    | split

theorem State.requestIn_holds {p : List Instr} {s : State} (h : Holds p s) : ∀ a1 a2 a3 a4, Holds p (State.requestIn s a1 a2 a3 a4) := by
  intro a1 a2 a3 a4
  unfold State.requestIn
  try dsimp only
  repeat' first
    | with_reducible assumption
    | with_reducible refine holds_ite (fun _ => ?_) (fun _ => ?_)
    | with_reducible refine State.nakError_holds ?_ _ _ _
    | with_reducible refine State.sendIn_holds ?_ _ _ _ _
    | with_reducible refine State.writeIn_holds ?_ _ _ _ _ _ _ _ _ _
    | with_reducible refine State.readIn_holds ?_ _ _ _ _ _
    | with_reducible refine State.urgent_holds ?_ _ _ _ _
    | with_reducible refine State.setQp_holds ?_ _ _
    | with_reducible refine State.duplicateIn_holds ?_ _ _ _ _
    | split

theorem State.answerCe_holds {p : List Instr} {s : State} (h : Holds p s) : ∀ a1 a2, Holds p (State.answerCe s a1 a2) := by
  intro a1 a2
  unfold State.answerCe
  try dsimp only
  repeat' first
    | with_reducible assumption
    | with_reducible refine holds_ite (fun _ => ?_) (fun _ => ?_)
    | with_reducible refine State.urgent_holds ?_ _ _ _ _
    | with_reducible refine State.setQp_holds ?_ _ _

theorem State.packetIn_holds {p : List Instr} {s : State} (h : Holds p s) : ∀ a1 a2, Holds p (State.packetIn s a1 a2) := by
  intro a1 a2
  unfold State.packetIn
  try dsimp only
  repeat' first
    | with_reducible assumption
    | with_reducible refine holds_ite (fun _ => ?_) (fun _ => ?_)
    | with_reducible refine State.errAdd_holds ?_ _ _
    | with_reducible refine State.answerCe_holds ?_ _ _
    | with_reducible refine State.ackUpTo_holds ?_ _ _
    | with_reducible refine State.nakIn_holds ?_ _ _ _
    | with_reducible refine State.responseIn_holds ?_ _ _ _
    | with_reducible refine State.cnpIn_holds ?_ _ _
    | with_reducible refine State.requestIn_holds ?_ _ _ _ _
    | split

/-! ## Machine/HostCmd.lean -/

theorem State.endGrant_holds {p : List Instr} {s : State} (h : Holds p s) : ∀ a1 a2 a3, Holds p (State.endGrant s a1 a2 a3) := by
  intro a1 a2 a3
  unfold State.endGrant
  try dsimp only
  repeat' first
    | with_reducible assumption
    | with_reducible refine State.completeCommand_holds ?_ _ _ _ _

theorem State.setGrants_holds {p : List Instr} {s : State} (h : Holds p s) : ∀ a1 a2, Holds p (State.setGrants s a1 a2) := by
  intro a1 a2
  unfold State.setGrants
  try dsimp only
  repeat' first
    | with_reducible assumption
    | (refine holds_of_parts ?_; dsimp only; with_reducible refine Holds.parts ?_)

theorem State.withdraw_holds {p : List Instr} {s : State} (h : Holds p s) : ∀ a1 a2, Holds p (State.withdraw s a1 a2).1 := by
  intro a1 a2
  unfold State.withdraw
  try dsimp only
  repeat' first
    | with_reducible assumption
    | intro _
    | with_reducible refine foldl_holds ?_ ?_
    | with_reducible refine State.setGrants_holds ?_ _ _
    | with_reducible refine State.endGrant_holds ?_ _ _ _

theorem State.putHostDelivery_holds {p : List Instr} {s : State} (h : Holds p s) : ∀ a1, Holds p (State.putHostDelivery s a1) := by
  intro a1
  unfold State.putHostDelivery
  try dsimp only
  repeat' first
    | with_reducible assumption
    | (refine holds_of_parts ?_; dsimp only; with_reducible refine Holds.parts ?_)

theorem State.endHostDelivery_holds {p : List Instr} {s : State} (h : Holds p s) : ∀ a1 a2 a3, Holds p (State.endHostDelivery s a1 a2 a3) := by
  intro a1 a2 a3
  unfold State.endHostDelivery
  try dsimp only
  repeat' first
    | with_reducible assumption
    | with_reducible refine holds_ite (fun _ => ?_) (fun _ => ?_)
    | with_reducible refine State.dropPart_holds ?_ _
    | with_reducible refine State.engineWrite_holds ?_ _ _ _
    | with_reducible refine State.finish_holds ?_ _ _ _ _
    | (refine holds_of_parts ?_; dsimp only; with_reducible refine Holds.parts ?_)
    | split

theorem State.hostDeliverRefuse_holds {p : List Instr} {s : State} (h : Holds p s) : ∀ a1 a2, Holds p (State.hostDeliverRefuse s a1 a2) := by
  intro a1 a2
  unfold State.hostDeliverRefuse
  try dsimp only
  repeat' first
    | with_reducible assumption
    | with_reducible refine holds_ite (fun _ => ?_) (fun _ => ?_)
    | with_reducible refine State.engineWrite_holds ?_ _ _ _
    | with_reducible refine State.finish_holds ?_ _ _ _ _

theorem State.hostDeliverStart_holds {p : List Instr} {s : State} (h : Holds p s) : ∀ a1, Holds p (State.hostDeliverStart s a1) := by
  intro a1
  unfold State.hostDeliverStart
  try dsimp only
  repeat' first
    | with_reducible assumption
    | with_reducible refine holds_ite (fun _ => ?_) (fun _ => ?_)
    | with_reducible refine State.hostDeliverRefuse_holds ?_ _ _
    | with_reducible refine State.putHostDelivery_holds ?_ _
    | (refine holds_of_parts ?_; dsimp only; with_reducible refine Holds.parts ?_)
    | split

theorem State.hostDeliverPayload_holds {p : List Instr} {s : State} (h : Holds p s) : ∀ a1 a2 a3, Holds p (State.hostDeliverPayload s a1 a2 a3) := by
  intro a1 a2 a3
  unfold State.hostDeliverPayload
  try dsimp only
  repeat' first
    | with_reducible assumption
    | intro _
    | with_reducible refine holds_ite (fun _ => ?_) (fun _ => ?_)
    | with_reducible refine foldl_holds ?_ ?_
    | with_reducible refine State.endHostDelivery_holds ?_ _ _ _
    | with_reducible refine State.setGrants_holds ?_ _ _
    | with_reducible refine State.endGrant_holds ?_ _ _ _
    | with_reducible refine State.errAdd_holds ?_ _ _
    | with_reducible refine State.hostWrite_holds ?_ _ _
    | with_reducible refine State.count_holds ?_ _ _ _
    | with_reducible refine State.putHostDelivery_holds ?_ _
    | split

theorem State.hostDeliverSeal_holds {p : List Instr} {s : State} (h : Holds p s) : ∀ a1 a2 a3, Holds p (State.hostDeliverSeal s a1 a2 a3) := by
  intro a1 a2 a3
  unfold State.hostDeliverSeal
  try dsimp only
  repeat' first
    | with_reducible assumption
    | with_reducible refine holds_ite (fun _ => ?_) (fun _ => ?_)
    | with_reducible refine State.endHostDelivery_holds ?_ _ _ _
    | with_reducible refine State.errAdd_holds ?_ _ _
    | with_reducible refine State.hostWrite_holds ?_ _ _
    | with_reducible refine State.endGrant_holds ?_ _ _ _
    | with_reducible refine State.count_holds ?_ _ _ _

theorem State.fenceHostDeliveries_holds {p : List Instr} {s : State} (h : Holds p s) : Holds p (State.fenceHostDeliveries s) := by
  unfold State.fenceHostDeliveries
  try dsimp only
  repeat' first
    | with_reducible assumption
    | intro _
    | with_reducible refine foldl_holds ?_ ?_
    | with_reducible refine State.endGrant_holds ?_ _ _ _
    | with_reducible refine State.endHostDelivery_holds ?_ _ _ _
    | split

/-! ## Machine/Dma.lean -/

theorem State.setChanAddr_holds {p : List Instr} {s : State} (h : Holds p s) : ∀ a1 a2 a3 a4, Holds p (State.setChanAddr s a1 a2 a3 a4) := by
  intro a1 a2 a3 a4
  unfold State.setChanAddr
  try dsimp only
  repeat' first
    | with_reducible assumption
    | with_reducible refine State.setFld_holds ?_ _ _

theorem State.setTransfer_holds {p : List Instr} {s : State} (h : Holds p s) : ∀ a1 a2 a3 a4, Holds p (State.setTransfer s a1 a2 a3 a4) := by
  intro a1 a2 a3 a4
  unfold State.setTransfer
  try dsimp only
  repeat' first
    | with_reducible assumption
    | with_reducible refine State.setFld_holds ?_ _ _
    | with_reducible refine State.setChanAddr_holds ?_ _ _ _ _

theorem State.setDmaRun_holds {p : List Instr} {s : State} (h : Holds p s) : ∀ a1 a2, Holds p (State.setDmaRun s a1 a2) := by
  intro a1 a2
  unfold State.setDmaRun
  try dsimp only
  repeat' first
    | with_reducible assumption
    | with_reducible refine State.setFlag_holds ?_ _ _
    | (refine holds_of_parts ?_; dsimp only; with_reducible refine Holds.parts ?_)

theorem State.dropDmaRun_holds {p : List Instr} {s : State} (h : Holds p s) : ∀ a1, Holds p (State.dropDmaRun s a1) := by
  intro a1
  unfold State.dropDmaRun
  try dsimp only
  repeat' first
    | with_reducible assumption
    | with_reducible refine State.setFlag_holds ?_ _ _
    | (refine holds_of_parts ?_; dsimp only; with_reducible refine Holds.parts ?_)

theorem State.dmaDone_holds {p : List Instr} {s : State} (h : Holds p s) : ∀ a1, Holds p (State.dmaDone s a1) := by
  intro a1
  unfold State.dmaDone
  try dsimp only
  repeat' first
    | with_reducible assumption
    | with_reducible refine holds_ite (fun _ => ?_) (fun _ => ?_)
    | with_reducible refine State.setFlag_holds ?_ _ _
    | with_reducible refine State.interrupt_holds ?_ _ _

theorem State.dmaFail_holds {p : List Instr} {s : State} (h : Holds p s) : ∀ a1 a2 a3, Holds p (State.dmaFail s a1 a2 a3) := by
  intro a1 a2 a3
  unfold State.dmaFail
  try dsimp only
  repeat' first
    | with_reducible assumption
    | with_reducible refine holds_ite (fun _ => ?_) (fun _ => ?_)
    | with_reducible refine State.dropDmaRun_holds ?_ _
    | with_reducible refine State.errAdd_holds ?_ _ _
    | with_reducible refine State.finish_holds ?_ _ _ _ _
    | with_reducible refine State.dmaDone_holds ?_ _
    | with_reducible refine State.setFld_holds ?_ _ _
    | with_reducible refine State.setFlag_holds ?_ _ _
    | split

theorem State.dmaStart_holds {p : List Instr} {s : State} (h : Holds p s) : ∀ a1, Holds p (State.dmaStart s a1) := by
  intro a1
  unfold State.dmaStart
  try dsimp only
  repeat' first
    | with_reducible assumption
    | with_reducible refine holds_ite (fun _ => ?_) (fun _ => ?_)
    | with_reducible refine State.setDmaRun_holds ?_ _ _
    | with_reducible refine State.dmaDone_holds ?_ _
    | with_reducible refine State.dropDmaRun_holds ?_ _
    | with_reducible refine State.dmaFail_holds ?_ _ _ _

theorem State.loadShadow_holds {p : List Instr} {s : State} (h : Holds p s) : ∀ a1, Holds p (State.loadShadow s a1) := by
  intro a1
  unfold State.loadShadow
  try dsimp only
  repeat' first
    | with_reducible assumption
    | with_reducible refine State.setTransfer_holds ?_ _ _ _ _
    | with_reducible refine State.setReg_holds ?_ _ _
    | with_reducible refine State.setFlag_holds ?_ _ _

theorem State.dmaGo_holds {p : List Instr} {s : State} (h : Holds p s) : ∀ a1, Holds p (State.dmaGo s a1) := by
  intro a1
  unfold State.dmaGo
  try dsimp only
  repeat' first
    | with_reducible assumption
    | with_reducible refine holds_ite (fun _ => ?_) (fun _ => ?_)
    | with_reducible refine State.errAdd_holds ?_ _ _
    | with_reducible refine State.loadShadow_holds ?_ _
    | with_reducible refine State.dmaStart_holds ?_ _

theorem State.dmaPause_holds {p : List Instr} {s : State} (h : Holds p s) : ∀ a1, Holds p (State.dmaPause s a1) := by
  intro a1
  unfold State.dmaPause
  try dsimp only
  repeat' first
    | with_reducible assumption
    | with_reducible refine State.setFlag_holds ?_ _ _

theorem State.dmaResume_holds {p : List Instr} {s : State} (h : Holds p s) : ∀ a1, Holds p (State.dmaResume s a1) := by
  intro a1
  unfold State.dmaResume
  try dsimp only
  repeat' first
    | with_reducible assumption
    | with_reducible refine holds_ite (fun _ => ?_) (fun _ => ?_)
    | with_reducible refine State.setFlag_holds ?_ _ _
    | with_reducible refine State.dmaFail_holds ?_ _ _ _
    | with_reducible refine State.setDmaRun_holds ?_ _ _
    | split

theorem State.dmaMove_holds {p : List Instr} {s : State} (h : Holds p s) : ∀ a1 a2 a3, Holds p (State.dmaMove s a1 a2 a3) := by
  intro a1 a2 a3
  unfold State.dmaMove
  try dsimp only
  repeat' first
    | with_reducible assumption
    | with_reducible refine holds_ite (fun _ => ?_) (fun _ => ?_)
    | with_reducible refine State.dmaFail_holds ?_ _ _ _
    | with_reducible refine State.engineAccess_holds ?_ _ _ _ _
    | with_reducible refine State.hostWrite_holds ?_ _ _
    | with_reducible refine State.engineWrite_holds ?_ _ _ _
    | with_reducible refine State.setTransfer_holds ?_ _ _ _ _
    | with_reducible refine State.count_holds ?_ _ _ _

theorem State.dmaAbort_holds {p : List Instr} {s : State} (h : Holds p s) : Holds p (State.dmaAbort s) := by
  unfold State.dmaAbort
  try dsimp only
  repeat' first
    | with_reducible assumption
    | intro _
    | with_reducible refine holds_ite (fun _ => ?_) (fun _ => ?_)
    | with_reducible refine foldl_holds ?_ ?_
    | with_reducible refine State.dropDmaRun_holds ?_ _
    | with_reducible refine State.dmaFail_holds ?_ _ _ _
    | split

theorem State.dmaLinkLost_holds {p : List Instr} {s : State} (h : Holds p s) : Holds p (State.dmaLinkLost s) := by
  unfold State.dmaLinkLost
  try dsimp only
  repeat' first
    | with_reducible assumption
    | intro _
    | with_reducible refine holds_ite (fun _ => ?_) (fun _ => ?_)
    | with_reducible refine foldl_holds ?_ ?_
    | with_reducible refine State.setDmaRun_holds ?_ _ _
    | with_reducible refine State.dmaFail_holds ?_ _ _ _
    | split

theorem State.hostReset_holds {p : List Instr} {s : State} (h : Holds p s) : Holds p (State.hostReset s) := by
  unfold State.hostReset
  try dsimp only
  repeat' first
    | with_reducible assumption
    | intro _
    | with_reducible refine holds_ite (fun _ => ?_) (fun _ => ?_)
    | with_reducible refine foldl_holds ?_ ?_
    | with_reducible refine State.dmaLinkLost_holds ?_
    | with_reducible refine State.endHostDelivery_holds ?_ _ _ _
    | with_reducible refine State.errAdd_holds ?_ _ _
    | with_reducible refine State.dropController_holds ?_ _
    | with_reducible refine State.freeQueue_holds ?_ _
    | with_reducible refine State.setReg_holds ?_ _ _
    | (refine holds_of_parts ?_; dsimp only; with_reducible refine Holds.parts ?_)

/-! ## Machine/Pools.lean -/

theorem State.setPoolFree_holds {p : List Instr} {s : State} (h : Holds p s) : ∀ a1 a2 a3, Holds p (State.setPoolFree s a1 a2 a3) := by
  intro a1 a2 a3
  unfold State.setPoolFree
  try dsimp only
  repeat' first
    | with_reducible assumption
    | with_reducible refine State.setFld_holds ?_ _ _
    | (refine holds_of_parts ?_; dsimp only; with_reducible refine Holds.parts ?_)

theorem State.setAllocated_holds {p : List Instr} {s : State} (h : Holds p s) : ∀ a1 a2 a3, Holds p (State.setAllocated s a1 a2 a3) := by
  intro a1 a2 a3
  unfold State.setAllocated
  try dsimp only
  repeat' first
    | with_reducible assumption
    | with_reducible refine State.writeDram_holds ?_ _ _

theorem State.layBits_holds {p : List Instr} {s : State} (h : Holds p s) : ∀ a1, Holds p (State.layBits s a1) := by
  intro a1
  unfold State.layBits
  try dsimp only
  repeat' first
    | with_reducible assumption
    | intro _
    | with_reducible refine foldl_holds ?_ ?_
    | with_reducible refine State.setAllocated_holds ?_ _ _ _

theorem State.writePoolCfg_holds {p : List Instr} {s : State} (h : Holds p s) : ∀ a1 a2, Holds p (State.writePoolCfg s a1 a2) := by
  intro a1 a2
  unfold State.writePoolCfg
  try dsimp only
  repeat' first
    | with_reducible assumption
    | with_reducible refine holds_ite (fun _ => ?_) (fun _ => ?_)
    | with_reducible refine State.setFlag_holds ?_ _ _
    | with_reducible refine State.layBits_holds ?_ _
    | with_reducible refine State.setPoolFree_holds ?_ _ _ _
    | with_reducible refine State.setFld_holds ?_ _ _
    | with_reducible refine State.errAdd_holds ?_ _ _

theorem State.allocRun_holds {p : List Instr} {s : State} (h : Holds p s) : ∀ a1, Holds p (State.allocRun s a1) := by
  intro a1
  unfold State.allocRun
  try dsimp only
  repeat' first
    | with_reducible assumption
    | intro _
    | with_reducible refine holds_ite (fun _ => ?_) (fun _ => ?_)
    | with_reducible refine foldl_holds ?_ ?_
    | with_reducible refine State.finish_holds ?_ _ _ _ _
    | with_reducible refine State.count_holds ?_ _ _ _
    | with_reducible refine State.setFlag_holds ?_ _ _
    | with_reducible refine State.setAllocated_holds ?_ _ _ _
    | with_reducible refine State.setPoolFree_holds ?_ _ _ _
    | with_reducible refine State.engineWrite_holds ?_ _ _ _
    | split

theorem State.freeRun_holds {p : List Instr} {s : State} (h : Holds p s) : ∀ a1, Holds p (State.freeRun s a1) := by
  intro a1
  unfold State.freeRun
  try dsimp only
  repeat' first
    | with_reducible assumption
    | intro _
    | with_reducible refine holds_ite (fun _ => ?_) (fun _ => ?_)
    | with_reducible refine foldl_holds ?_ ?_
    | with_reducible refine State.finish_holds ?_ _ _ _ _
    | with_reducible refine State.engineAccess_holds ?_ _ _ _ _
    | with_reducible refine State.errAdd_holds ?_ _ _
    | with_reducible refine State.writeDram_holds ?_ _ _
    | with_reducible refine State.setPoolFree_holds ?_ _ _ _
    | with_reducible refine State.setAllocated_holds ?_ _ _ _
    | with_reducible refine State.count_holds ?_ _ _ _

/-! ## Machine/System.lean -/

theorem State.setSystem_holds {p : List Instr} {s : State} (h : Holds p s) : ∀ a1, Holds p (State.setSystem s a1) := by
  intro a1
  unfold State.setSystem
  try dsimp only
  repeat' first
    | with_reducible assumption
    | (refine holds_of_parts ?_; dsimp only; with_reducible refine Holds.parts ?_)

theorem State.tell_holds {p : List Instr} {s : State} (h : Holds p s) : ∀ a1, Holds p (State.tell s a1) := by
  intro a1
  unfold State.tell
  try dsimp only
  repeat' first
    | with_reducible assumption
    | with_reducible refine State.setSystem_holds ?_ _

theorem State.setFenced_holds {p : List Instr} {s : State} (h : Holds p s) : Holds p (State.setFenced s) := by
  unfold State.setFenced
  try dsimp only
  repeat' first
    | with_reducible assumption
    | with_reducible refine holds_ite (fun _ => ?_) (fun _ => ?_)
    | with_reducible refine State.fenceHostDeliveries_holds ?_
    | with_reducible refine State.fenceDeliveries_holds ?_
    | with_reducible refine State.errAdd_holds ?_ _ _
    | with_reducible refine State.setFlag_holds ?_ _ _

theorem State.unfence_holds {p : List Instr} {s : State} (h : Holds p s) : Holds p (State.unfence s) := by
  unfold State.unfence
  try dsimp only
  repeat' first
    | with_reducible assumption
    | with_reducible refine holds_ite (fun _ => ?_) (fun _ => ?_)
    | with_reducible refine State.setFlag_holds ?_ _ _

theorem State.writeLeaseHi_holds {p : List Instr} {s : State} (h : Holds p s) : ∀ a1, Holds p (State.writeLeaseHi s a1) := by
  intro a1
  unfold State.writeLeaseHi
  try dsimp only
  repeat' first
    | with_reducible assumption
    | with_reducible refine holds_ite (fun _ => ?_) (fun _ => ?_)
    | with_reducible refine State.setReg_holds ?_ _ _
    | with_reducible refine State.count_holds ?_ _ _ _
    | with_reducible refine State.setSystem_holds ?_ _
    | with_reducible refine State.setFenced_holds ?_

theorem State.writeLease_holds {p : List Instr} {s : State} (h : Holds p s) : ∀ a1, Holds p (State.writeLease s a1) := by
  intro a1
  unfold State.writeLease
  try dsimp only
  repeat' first
    | with_reducible assumption
    | with_reducible refine State.writeLeaseHi_holds ?_ _
    | with_reducible refine State.setReg_holds ?_ _ _

theorem State.writeFence_holds {p : List Instr} {s : State} (h : Holds p s) : ∀ a1, Holds p (State.writeFence s a1) := by
  intro a1
  unfold State.writeFence
  try dsimp only
  repeat' first
    | with_reducible assumption
    | with_reducible refine holds_ite (fun _ => ?_) (fun _ => ?_)
    | with_reducible refine State.setFlag_holds ?_ _ _
    | with_reducible refine State.unfence_holds ?_

theorem State.makeStep_holds {p : List Instr} {s : State} (h : Holds p s) : Holds p (State.makeStep s) := by
  unfold State.makeStep
  try dsimp only
  repeat' first
    | with_reducible assumption
    | with_reducible refine holds_ite (fun _ => ?_) (fun _ => ?_)
    | with_reducible refine State.setFld_holds ?_ _ _
    | with_reducible refine State.setSystem_holds ?_ _
    | (refine holds_of_parts ?_; dsimp only; with_reducible refine Holds.parts ?_)
    | split

theorem State.syncFree_holds {p : List Instr} {s : State} (h : Holds p s) : Holds p (State.syncFree s) := by
  unfold State.syncFree
  try dsimp only
  repeat' first
    | with_reducible assumption
    | with_reducible refine holds_ite (fun _ => ?_) (fun _ => ?_)
    | with_reducible refine State.setFld_holds ?_ _ _

theorem State.trackOffset_holds {p : List Instr} {s : State} (h : Holds p s) : ∀ a1 a2, Holds p (State.trackOffset s a1 a2) := by
  intro a1 a2
  unfold State.trackOffset
  try dsimp only
  repeat' first
    | with_reducible assumption
    | with_reducible refine holds_ite (fun _ => ?_) (fun _ => ?_)
    | with_reducible refine State.count_holds ?_ _ _ _
    | with_reducible refine State.setReg_holds ?_ _ _
    | with_reducible refine State.setSystem_holds ?_ _
    | with_reducible refine State.syncFree_holds ?_
    | with_reducible refine State.errAdd_holds ?_ _ _
    | with_reducible refine State.setFlag_holds ?_ _ _
    | with_reducible refine State.setFld_holds ?_ _ _
    | with_reducible refine State.makeStep_holds ?_

theorem State.readNowLo_holds {p : List Instr} {s : State} (h : Holds p s) : Holds p (State.readNowLo s).2 := by
  unfold State.readNowLo
  try dsimp only
  repeat' first
    | with_reducible assumption
    | with_reducible refine State.setSystem_holds ?_ _

theorem State.readNowHi_holds {p : List Instr} {s : State} (h : Holds p s) : Holds p (State.readNowHi s).2 := by
  unfold State.readNowHi
  try dsimp only
  repeat' first
    | with_reducible assumption
    | with_reducible refine State.setSystem_holds ?_ _

end Sys2Proof.Machine
end

