-- ==== Sys2Proof/Laws/KeepPower.lean ====
section
/-!
SUPPORT. What every operation keeps (`Holds`, Laws/KeepCore.lean): faults, power, holdup, security, register access and the debug port.
-/

namespace Sys2Proof.Machine

/-- The state in the answer of a register's door holds. -/
def RegDoor.holds (p : List Instr) : RegDoor → Prop
  | .opens s => Holds p s
  | .waits s => Holds p s
  | .dead => True

theorem RegDoor.holds_opens {p : List Instr} {s : State} (h : Holds p s) : (RegDoor.opens s).holds p := h
theorem RegDoor.holds_waits {p : List Instr} {s : State} (h : Holds p s) : (RegDoor.waits s).holds p := h
theorem RegDoor.holds_dead {p : List Instr} : RegDoor.dead.holds p := trivial

/-- The state after a request of the debug port holds. -/
def DapEnd.holds (p : List Instr) : DapEnd → Prop
  | .ends _ _ s => Holds p s
  | .waits s => Holds p s

theorem DapEnd.holds_ends {p : List Instr} {s : State} {n : Nat} {v : Word64} (h : Holds p s) : (DapEnd.ends n v s).holds p := h
theorem DapEnd.holds_waits {p : List Instr} {s : State} (h : Holds p s) : (DapEnd.waits s).holds p := h

/-! ## Machine/Fault.lean -/

theorem State.abortUntaken_holds {p : List Instr} {s : State} (h : Holds p s) : Holds p (State.abortUntaken s) := by
  unfold State.abortUntaken
  try dsimp only
  repeat' first
    | with_reducible assumption
    | intro _
    | with_reducible refine foldl_holds ?_ ?_
    | with_reducible refine Core.completeTicket_holds ?_ _ _
    | with_reducible refine State.setCore_holds ?_ ?_
    | with_reducible refine Core.queueTicket_holds ?_ _
    | with_reducible refine Holds.status (p := p) ?_ _
    | split

theorem State.abortTaken_holds {p : List Instr} {s : State} (h : Holds p s) : ∀ a1, Holds p (State.abortTaken s a1) := by
  intro a1
  unfold State.abortTaken
  try dsimp only
  repeat' first
    | with_reducible assumption
    | intro _
    | with_reducible refine foldl_holds ?_ ?_
    | with_reducible refine State.completeTaken_holds ?_ _ _
    | with_reducible refine State.endTaken_holds ?_ _ _ _
    | (refine holds_of_parts ?_; dsimp only; with_reducible refine Holds.parts ?_)
    | split

theorem State.silencePorts_holds {p : List Instr} {s : State} (h : Holds p s) : Holds p (State.silencePorts s) := by
  unfold State.silencePorts
  try dsimp only
  repeat' first
    | with_reducible assumption
    | intro _
    | with_reducible refine foldl_holds ?_ ?_
    | with_reducible refine State.setQueue_holds ?_ _ _
    | (refine holds_of_parts ?_; dsimp only; with_reducible refine Holds.parts ?_)

theorem State.abortDeliveries_holds {p : List Instr} {s : State} (h : Holds p s) : Holds p (State.abortDeliveries s) := by
  unfold State.abortDeliveries
  try dsimp only
  repeat' first
    | with_reducible assumption
    | intro _
    | with_reducible refine foldl_holds ?_ ?_
    | with_reducible refine State.qpError_holds ?_ _ _ _ _ _
    | with_reducible refine holds_ite (fun _ => ?_) (fun _ => ?_)
    | with_reducible refine State.endDelivery_holds ?_ _ _
    | with_reducible refine State.endHostDelivery_holds ?_ _ _ _
    | with_reducible refine State.deliverRefuse_holds ?_ _ _
    | with_reducible refine State.hostDeliverRefuse_holds ?_ _ _
    | (refine holds_of_parts ?_; dsimp only; with_reducible refine Holds.parts ?_)

theorem State.endReplay_holds {p : List Instr} {s : State} (h : Holds p s) : ∀ a1 a2 a3, Holds p (State.endReplay s a1 a2 a3) := by
  intro a1 a2 a3
  unfold State.endReplay
  try dsimp only
  repeat' first
    | with_reducible assumption
    | with_reducible refine State.writeDram_holds ?_ _ _
    | with_reducible refine State.setFlag_holds ?_ _ _
    | (refine holds_of_parts ?_; dsimp only; with_reducible refine Holds.parts ?_)
    | split

theorem State.enterSafe_holds {p : List Instr} {s : State} (h : Holds p s) : Holds p (State.enterSafe s) := by
  unfold State.enterSafe
  try dsimp only
  repeat' first
    | with_reducible assumption
    | intro _
    | with_reducible refine holds_ite (fun _ => ?_) (fun _ => ?_)
    | with_reducible refine foldl_holds ?_ ?_
    | with_reducible refine State.setFlag_holds ?_ _ _
    | with_reducible refine State.abortDeliveries_holds ?_
    | with_reducible refine State.silencePorts_holds ?_
    | with_reducible refine State.dmaAbort_holds ?_
    | with_reducible refine State.abortUntaken_holds ?_
    | with_reducible refine State.abortTaken_holds ?_ _
    | with_reducible refine State.showSet_holds ?_ _
    | with_reducible refine State.showTiles_holds ?_
    | with_reducible refine State.setFld_holds ?_ _ _
    | with_reducible refine State.setTests_holds ?_ _
    | with_reducible refine State.freshFree_holds ?_
    | with_reducible refine State.endReplay_holds ?_ _ _ _
    | (refine holds_of_parts ?_; dsimp only; with_reducible refine Holds.parts ?_)

theorem State.doubt_holds {p : List Instr} {s : State} (h : Holds p s) : ∀ a1 a2 a3 a4 a5, Holds p (State.doubt s a1 a2 a3 a4 a5) := by
  intro a1 a2 a3 a4 a5
  unfold State.doubt
  try dsimp only
  repeat' first
    | with_reducible assumption
    | with_reducible refine holds_ite (fun _ => ?_) (fun _ => ?_)
    | with_reducible refine State.errAdd_holds ?_ _ _
    | with_reducible refine State.logFault_holds ?_ _ _ _ _
    | with_reducible refine State.setReg_holds ?_ _ _
    | with_reducible refine State.enterSafe_holds ?_
    | with_reducible refine State.setFld_holds ?_ _ _
    | (refine holds_of_parts ?_; dsimp only; with_reducible refine Holds.parts ?_)
    | split

theorem State.writeForce_holds {p : List Instr} {s : State} (h : Holds p s) : ∀ a1 a2, Holds p (State.writeForce s a1 a2) := by
  intro a1 a2
  unfold State.writeForce
  try dsimp only
  repeat' first
    | with_reducible assumption
    | with_reducible refine holds_ite (fun _ => ?_) (fun _ => ?_)
    | with_reducible refine State.doubt_holds ?_ _ _ _ _ _

theorem State.kick_holds {p : List Instr} {s : State} (h : Holds p s) : ∀ a1, Holds p (State.kick s a1) := by
  intro a1
  unfold State.kick
  try dsimp only
  repeat' first
    | with_reducible assumption
    | intro _
    | with_reducible refine holds_ite (fun _ => ?_) (fun _ => ?_)
    | with_reducible refine foldl_holds ?_ ?_
    | (refine holds_of_parts ?_; dsimp only; with_reducible refine Holds.parts ?_)

theorem State.clearCounters_holds {p : List Instr} {s : State} (h : Holds p s) : ∀ a1, Holds p (State.clearCounters s a1) := by
  intro a1
  unfold State.clearCounters
  try dsimp only
  repeat' first
    | with_reducible assumption
    | intro _
    | with_reducible refine foldl_holds ?_ ?_
    | with_reducible refine State.setReg_holds ?_ _ _
    | (refine holds_of_parts ?_; dsimp only; with_reducible refine Holds.parts ?_)

theorem State.clearUnits_holds {p : List Instr} {s : State} (h : Holds p s) : ∀ a1, Holds p (State.clearUnits s a1) := by
  intro a1
  unfold State.clearUnits
  try dsimp only
  repeat' first
    | with_reducible assumption
    | intro _
    | with_reducible refine holds_ite (fun _ => ?_) (fun _ => ?_)
    | with_reducible refine foldl_holds ?_ ?_
    | with_reducible refine State.clearCounters_holds ?_ _

theorem State.latch_holds {p : List Instr} {s : State} (h : Holds p s) : ∀ a1, Holds p (State.latch s a1) := by
  intro a1
  unfold State.latch
  try dsimp only
  repeat' first
    | with_reducible assumption
    | (refine holds_of_parts ?_; dsimp only; with_reducible refine Holds.parts ?_)

theorem State.setRotation_holds {p : List Instr} {s : State} (h : Holds p s) : ∀ a1 a2 a3, Holds p (State.setRotation s a1 a2 a3) := by
  intro a1 a2 a3
  unfold State.setRotation
  try dsimp only
  repeat' first
    | with_reducible assumption
    | with_reducible refine holds_ite (fun _ => ?_) (fun _ => ?_)
    | with_reducible refine State.showTiles_holds ?_
    | with_reducible refine State.tileDrop_holds ?_ _
    | with_reducible refine State.setReg_holds ?_ _ _
    | (refine holds_of_parts ?_; dsimp only; with_reducible refine Holds.parts ?_)
    | split

theorem State.requestTest_holds {p : List Instr} {s : State} (h : Holds p s) : ∀ a1 a2 a3, Holds p (State.requestTest s a1 a2 a3) := by
  intro a1 a2 a3
  unfold State.requestTest
  try dsimp only
  repeat' first
    | with_reducible assumption
    | with_reducible refine holds_ite (fun _ => ?_) (fun _ => ?_)
    | with_reducible refine State.setFlag_holds ?_ _ _
    | with_reducible refine State.failChannel_holds ?_ _
    | with_reducible refine State.setRotation_holds ?_ _ _ _
    | with_reducible refine State.logFault_holds ?_ _ _ _ _
    | with_reducible refine State.queueTest_holds ?_ _ _

theorem State.requestReplay_holds {p : List Instr} {s : State} (h : Holds p s) : ∀ a1, Holds p (State.requestReplay s a1) := by
  intro a1
  unfold State.requestReplay
  try dsimp only
  repeat' first
    | with_reducible assumption
    | with_reducible refine holds_ite (fun _ => ?_) (fun _ => ?_)
    | with_reducible refine State.setFlag_holds ?_ _ _
    | with_reducible refine State.setFld_holds ?_ _ _
    | with_reducible refine State.freshFree_holds ?_
    | with_reducible refine State.endReplay_holds ?_ _ _ _
    | (refine holds_of_parts ?_; dsimp only; with_reducible refine Holds.parts ?_)
    | split

/-! ## Machine/SecImage.lean -/

theorem State.setSec_holds {p : List Instr} {s : State} (h : Holds p s) : ∀ a1, Holds p (State.setSec s a1) := by
  intro a1
  unfold State.setSec
  try dsimp only
  repeat' first
    | with_reducible assumption
    | (refine holds_of_parts ?_; dsimp only; with_reducible refine Holds.parts ?_)

theorem State.showSec_holds {p : List Instr} {s : State} (h : Holds p s) : Holds p (State.showSec s) := by
  unfold State.showSec
  try dsimp only
  repeat' first
    | with_reducible assumption
    | with_reducible refine State.setReg_holds ?_ _ _
    | with_reducible refine State.setFld_holds ?_ _ _

theorem State.attestStart_holds {p : List Instr} {s : State} (h : Holds p s) : Holds p (State.attestStart s) := by
  unfold State.attestStart
  try dsimp only
  repeat' first
    | with_reducible assumption
    | with_reducible refine State.setSec_holds ?_ _

theorem State.enterLoaderOnly_holds {p : List Instr} {s : State} (h : Holds p s) : ∀ a1, Holds p (State.enterLoaderOnly s a1) := by
  intro a1
  unfold State.enterLoaderOnly
  try dsimp only
  repeat' first
    | with_reducible assumption
    | with_reducible refine State.showSec_holds ?_
    | with_reducible refine State.setReg_holds ?_ _ _
    | with_reducible refine State.setSec_holds ?_ _

theorem State.startLoader_holds {p : List Instr} {s : State} (h : Holds p s) : ∀ a1 a2, Holds p (State.startLoader s a1 a2) := by
  intro a1 a2
  unfold State.startLoader
  try dsimp only
  repeat' first
    | with_reducible assumption
    | with_reducible refine holds_ite (fun _ => ?_) (fun _ => ?_)
    | with_reducible refine State.doubt_holds ?_ _ _ _ _ _
    | with_reducible refine State.showSec_holds ?_
    | with_reducible refine State.setSec_holds ?_ _
    | with_reducible refine State.enterLoaderOnly_holds ?_ _
    | with_reducible refine State.setReg_holds ?_ _ _
    | split

/-! ## Machine/Power.lean -/

theorem State.setPower_holds {p : List Instr} {s : State} (h : Holds p s) : ∀ a1, Holds p (State.setPower s a1) := by
  intro a1
  unfold State.setPower
  try dsimp only
  repeat' first
    | with_reducible assumption
    | (refine holds_of_parts ?_; dsimp only; with_reducible refine Holds.parts ?_)

theorem State.setPhase_holds {p : List Instr} {s : State} (h : Holds p s) : ∀ a1, Holds p (State.setPhase s a1) := by
  intro a1
  unfold State.setPhase
  try dsimp only
  repeat' first
    | with_reducible assumption
    | with_reducible refine State.setPower_holds ?_ _

theorem State.stopPolder_holds {p : List Instr} {s : State} (h : Holds p s) : ∀ a1 a2, Holds p (State.stopPolder s a1 a2) := by
  intro a1 a2
  unfold State.stopPolder
  try dsimp only
  repeat' first
    | with_reducible assumption
    | with_reducible refine State.setFlag_holds ?_ _ _
    | with_reducible refine State.setPolder_holds ?_ _ _
    | with_reducible refine State.marker_holds ?_ _ _ _

theorem State.resumePolder_holds {p : List Instr} {s : State} (h : Holds p s) : ∀ a1 a2, Holds p (State.resumePolder s a1 a2) := by
  intro a1 a2
  unfold State.resumePolder
  try dsimp only
  repeat' first
    | with_reducible assumption
    | with_reducible refine holds_ite (fun _ => ?_) (fun _ => ?_)
    | with_reducible refine State.setFlag_holds ?_ _ _
    | with_reducible refine State.setPolder_holds ?_ _ _
    | with_reducible refine State.flushMarkers_holds ?_
    | with_reducible refine State.marker_holds ?_ _ _ _

theorem State.settleStops_holds {p : List Instr} {s : State} (h : Holds p s) : Holds p (State.settleStops s) := by
  unfold State.settleStops
  try dsimp only
  repeat' first
    | with_reducible assumption
    | intro _
    | with_reducible refine holds_ite (fun _ => ?_) (fun _ => ?_)
    | with_reducible refine foldl_holds ?_ ?_
    | with_reducible refine State.stopPolder_holds ?_ _ _

theorem State.writeStop_holds {p : List Instr} {s : State} (h : Holds p s) : ∀ a1 a2, Holds p (State.writeStop s a1 a2) := by
  intro a1 a2
  unfold State.writeStop
  try dsimp only
  repeat' first
    | with_reducible assumption
    | with_reducible refine holds_ite (fun _ => ?_) (fun _ => ?_)
    | with_reducible refine State.setFlag_holds ?_ _ _
    | with_reducible refine State.settleStops_holds ?_
    | with_reducible refine State.resumePolder_holds ?_ _ _

theorem State.writeSrc_holds {p : List Instr} {s : State} (h : Holds p s) : ∀ a1 a2, Holds p (State.writeSrc s a1 a2) := by
  intro a1 a2
  unfold State.writeSrc
  try dsimp only
  repeat' first
    | with_reducible assumption
    | with_reducible refine State.setFlag_holds ?_ _ _
    | with_reducible refine State.setPower_holds ?_ _

theorem State.applyOpp_holds {p : List Instr} {s : State} (h : Holds p s) : ∀ a1, Holds p (State.applyOpp s a1) := by
  intro a1
  unfold State.applyOpp
  try dsimp only
  repeat' first
    | with_reducible assumption
    | with_reducible refine holds_ite (fun _ => ?_) (fun _ => ?_)
    | with_reducible refine State.marker_holds ?_ _ _ _
    | with_reducible refine State.setFld_holds ?_ _ _

theorem State.applyOpps_holds {p : List Instr} {s : State} (h : Holds p s) : Holds p (State.applyOpps s) := by
  unfold State.applyOpps
  try dsimp only
  repeat' first
    | with_reducible assumption
    | intro _
    | with_reducible refine foldl_holds ?_ ?_
    | with_reducible refine State.applyOpp_holds ?_ _

theorem State.writeOpp_holds {p : List Instr} {s : State} (h : Holds p s) : ∀ a1 a2, Holds p (State.writeOpp s a1 a2) := by
  intro a1 a2
  unfold State.writeOpp
  try dsimp only
  repeat' first
    | with_reducible assumption
    | with_reducible refine holds_ite (fun _ => ?_) (fun _ => ?_)
    | with_reducible refine State.applyOpp_holds ?_ _
    | with_reducible refine State.setFld_holds ?_ _ _

theorem State.clearUnitsOf_holds {p : List Instr} {s : State} (h : Holds p s) : ∀ a1, Holds p (State.clearUnitsOf s a1) := by
  intro a1
  unfold State.clearUnitsOf
  try dsimp only
  repeat' first
    | with_reducible assumption
    | (refine holds_of_parts ?_; dsimp only; with_reducible refine Holds.parts ?_)

theorem State.coldReset_holds {p : List Instr} {s : State} (h : Holds p s) : Holds p s.coldReset := by
  unfold State.coldReset
  refine State.attestStart_holds ?_
  exact holds_fresh h rfl (.inl rfl) rfl rfl rfl

theorem State.loseTrace_holds {p : List Instr} {s : State} (h : Holds p s) : Holds p (State.loseTrace s) := by
  unfold State.loseTrace
  try dsimp only
  repeat' first
    | with_reducible assumption
    | (refine holds_of_parts ?_; dsimp only; with_reducible refine Holds.parts ?_)

theorem State.warmClear_holds {p : List Instr} {s : State} (h : Holds p s) : Holds p s.warmClear := by
  unfold State.warmClear
  dsimp only
  repeat' first
    | with_reducible assumption
    | intro _
    | with_reducible refine holds_ite (fun _ => ?_) (fun _ => ?_)
    | with_reducible refine foldl_holds ?_ ?_
    | with_reducible refine State.loseTrace_holds ?_
    | with_reducible refine State.setFlag_holds ?_ _ _
    | with_reducible refine State.setFld_holds ?_ _ _
    | with_reducible refine State.setTests_holds ?_ _
    | with_reducible refine State.setReg_holds ?_ _ _
    | split
  all_goals exact holds_fresh h rfl (.inl rfl) rfl rfl rfl

theorem State.releasePolders_holds {p : List Instr} {s : State} (h : Holds p s) : Holds p (State.releasePolders s) := by
  unfold State.releasePolders
  try dsimp only
  repeat' first
    | with_reducible assumption
    | intro _
    | with_reducible refine foldl_holds ?_ ?_
    | with_reducible refine State.setPolder_holds ?_ _ _
    | with_reducible refine State.setPhase_holds ?_ _
    | with_reducible refine State.flushMarkers_holds ?_

theorem State.beginLadder_holds {p : List Instr} {s : State} (h : Holds p s) : ∀ a1 a2, Holds p (State.beginLadder s a1 a2) := by
  intro a1 a2
  unfold State.beginLadder
  try dsimp only
  repeat' first
    | with_reducible assumption
    | with_reducible refine State.setPower_holds ?_ _

theorem State.trainDram_holds {p : List Instr} {s : State} (h : Holds p s) : ∀ a1 a2, Holds p (State.trainDram s a1 a2) := by
  intro a1 a2
  unfold State.trainDram
  try dsimp only
  repeat' first
    | with_reducible assumption
    | with_reducible refine State.setReg_holds ?_ _ _
    | (refine holds_of_parts ?_; dsimp only; with_reducible refine Holds.parts ?_)

theorem State.finishWarm_holds {p : List Instr} {s : State} (h : Holds p s) : ∀ a1, Holds p (State.finishWarm s a1) := by
  intro a1
  unfold State.finishWarm
  try dsimp only
  repeat' first
    | with_reducible assumption
    | with_reducible refine State.startLoader_holds ?_ _ _
    | with_reducible refine State.setFld_holds ?_ _ _
    | with_reducible refine State.releasePolders_holds ?_

theorem State.warmReset_holds {p : List Instr} {s : State} (h : Holds p s) : ∀ a1, Holds p (State.warmReset s a1) := by
  intro a1
  unfold State.warmReset
  try dsimp only
  repeat' first
    | with_reducible assumption
    | with_reducible refine holds_ite (fun _ => ?_) (fun _ => ?_)
    | with_reducible refine State.warmClear_holds ?_
    | with_reducible refine State.beginLadder_holds ?_ _ _
    | with_reducible refine State.finishWarm_holds ?_ _

theorem State.writeWarm_holds {p : List Instr} {s : State} (h : Holds p s) : ∀ a1 a2 a3, Holds p (State.writeWarm s a1 a2 a3) := by
  intro a1 a2 a3
  unfold State.writeWarm
  try dsimp only
  repeat' first
    | with_reducible assumption
    | with_reducible refine holds_ite (fun _ => ?_) (fun _ => ?_)
    | with_reducible refine State.warmReset_holds ?_ _

theorem State.resetPolder_holds {p : List Instr} {s : State} (h : Holds p s) : ∀ a1, Holds p (State.resetPolder s a1) := by
  intro a1
  unfold State.resetPolder
  try dsimp only
  repeat' first
    | with_reducible assumption
    | intro _
    | with_reducible refine holds_ite (fun _ => ?_) (fun _ => ?_)
    | with_reducible refine foldl_holds ?_ ?_
    | with_reducible refine State.abortTaken_holds ?_ _
    | with_reducible refine State.marker_holds ?_ _ _ _
    | with_reducible refine State.clearCounters_holds ?_ _
    | with_reducible refine State.loseTrace_holds ?_
    | with_reducible refine State.clearUnitsOf_holds ?_ _

theorem State.writePolderReset_holds {p : List Instr} {s : State} (h : Holds p s) : ∀ a1 a2, Holds p (State.writePolderReset s a1 a2) := by
  intro a1 a2
  unfold State.writePolderReset
  try dsimp only
  repeat' first
    | with_reducible assumption
    | with_reducible refine holds_ite (fun _ => ?_) (fun _ => ?_)
    | with_reducible refine State.resetPolder_holds ?_ _

theorem State.resetCore_holds {p : List Instr} {s : State} (h : Holds p s) : ∀ a1, Holds p (s.resetCore a1) := by
  intro a1
  unfold State.resetCore
  dsimp only
  repeat' first
    | exact statusLegal_reset
    | with_reducible assumption
    | with_reducible refine State.setCore_holds ?_ ?_
    | with_reducible refine State.setReg_holds ?_ _ _
    | with_reducible refine State.setPower_holds ?_ _

theorem State.settleCores_holds {p : List Instr} {s : State} (h : Holds p s) : Holds p (State.settleCores s) := by
  unfold State.settleCores
  try dsimp only
  repeat' first
    | with_reducible assumption
    | intro _
    | with_reducible refine holds_ite (fun _ => ?_) (fun _ => ?_)
    | with_reducible refine foldl_holds ?_ ?_
    | with_reducible refine State.resetCore_holds ?_ _

theorem State.writeCoreRst_holds {p : List Instr} {s : State} (h : Holds p s) : ∀ a1, Holds p (State.writeCoreRst s a1) := by
  intro a1
  unfold State.writeCoreRst
  try dsimp only
  repeat' first
    | with_reducible assumption
    | intro _
    | with_reducible refine holds_ite (fun _ => ?_) (fun _ => ?_)
    | with_reducible refine foldl_holds ?_ ?_
    | with_reducible refine State.setPower_holds ?_ _
    | with_reducible refine State.setReg_holds ?_ _ _
    | with_reducible refine State.settleCores_holds ?_

theorem State.releasePads_holds {p : List Instr} {s : State} (h : Holds p s) : ∀ a1, Holds p (State.releasePads s a1) := by
  intro a1
  unfold State.releasePads
  try dsimp only
  repeat' first
    | with_reducible assumption
    | intro _
    | with_reducible refine holds_ite (fun _ => ?_) (fun _ => ?_)
    | with_reducible refine foldl_holds ?_ ?_
    | with_reducible refine State.setFld_holds ?_ _ _
    | with_reducible refine State.setPower_holds ?_ _

theorem State.setMode_holds {p : List Instr} {s : State} (h : Holds p s) : ∀ a1, Holds p (State.setMode s a1) := by
  intro a1
  unfold State.setMode
  try dsimp only
  repeat' first
    | with_reducible assumption
    | with_reducible refine State.setFld_holds ?_ _ _

theorem State.enterMs3_holds {p : List Instr} {s : State} (h : Holds p s) : Holds p (State.enterMs3 s) := by
  unfold State.enterMs3
  try dsimp only
  repeat' first
    | with_reducible assumption
    | intro _
    | with_reducible refine holds_ite (fun _ => ?_) (fun _ => ?_)
    | with_reducible refine foldl_holds ?_ ?_
    | with_reducible refine State.stopPolder_holds ?_ _ _
    | with_reducible refine State.count_holds ?_ _ _ _
    | with_reducible refine State.setMode_holds ?_ _

theorem State.leaveMs3_holds {p : List Instr} {s : State} (h : Holds p s) : ∀ a1, Holds p (State.leaveMs3 s a1) := by
  intro a1
  unfold State.leaveMs3
  try dsimp only
  repeat' first
    | with_reducible assumption
    | intro _
    | with_reducible refine holds_ite (fun _ => ?_) (fun _ => ?_)
    | with_reducible refine foldl_holds ?_ ?_
    | with_reducible refine State.resumePolder_holds ?_ _ _
    | with_reducible refine State.setMode_holds ?_ _

theorem State.decideMs4_holds {p : List Instr} {s : State} (h : Holds p s) : Holds p (State.decideMs4 s) := by
  unfold State.decideMs4
  try dsimp only
  repeat' first
    | with_reducible assumption
    | with_reducible refine State.setFld_holds ?_ _ _
    | with_reducible refine State.setFlag_holds ?_ _ _
    | with_reducible refine State.setPhase_holds ?_ _
    | (refine holds_of_parts ?_; dsimp only; with_reducible refine Holds.parts ?_)
    | split

theorem State.writeSave_holds {p : List Instr} {s : State} (h : Holds p s) : Holds p (State.writeSave s) := by
  unfold State.writeSave
  try dsimp only
  repeat' first
    | with_reducible assumption
    | with_reducible refine State.setPower_holds ?_ _
    | with_reducible refine State.setFld_holds ?_ _ _
    | with_reducible refine State.setFlag_holds ?_ _ _

theorem State.restoreSave_holds {p : List Instr} {s : State} (h : Holds p s) : Holds p (State.restoreSave s) := by
  unfold State.restoreSave
  try dsimp only
  repeat' first
    | with_reducible assumption
    | intro _
    | with_reducible refine foldl_holds ?_ ?_
    | with_reducible refine State.setReg_holds ?_ _ _
    | (refine holds_of_parts ?_; dsimp only; with_reducible refine Holds.parts ?_)

theorem State.gatePolder_holds {p : List Instr} {s : State} (h : Holds p s) : ∀ a1, Holds p (State.gatePolder s a1) := by
  intro a1
  unfold State.gatePolder
  try dsimp only
  repeat' first
    | with_reducible assumption
    | with_reducible refine State.setPolder_holds ?_ _ _
    | with_reducible refine State.marker_holds ?_ _ _ _
    | with_reducible refine State.clearUnitsOf_holds ?_ _
    | with_reducible refine State.setReg_holds ?_ _ _
    | with_reducible refine State.setPower_holds ?_ _

theorem State.sleep_holds {p : List Instr} {s : State} (h : Holds p s) : Holds p s.sleep := by
  unfold State.sleep
  dsimp only
  repeat' first
    | with_reducible assumption
    | intro _
    | with_reducible refine foldl_holds ?_ ?_
    | with_reducible refine State.setFld_holds ?_ _ _
    | with_reducible refine State.gatePolder_holds ?_ _
    | with_reducible refine State.loseTrace_holds ?_
    | with_reducible refine State.setMode_holds ?_ _
    | with_reducible refine State.stopPolder_holds ?_ _ _
    | with_reducible refine State.setPhase_holds ?_ _
    | with_reducible refine State.count_holds ?_ _ _ _
    | with_reducible refine State.setFlag_holds ?_ _ _
  exact holds_fresh (State.setFld_holds (State.writeSave_holds h) Reg.POL_PAD_HELD
    (BitVec.ofNat 11 (s.writeSave.fld Reg.POL_PAD_HELD) ||| 0x508#11).toNat) rfl (.inr rfl) rfl rfl rfl

theorem State.beginExit_holds {p : List Instr} {s : State} (h : Holds p s) : Holds p (State.beginExit s) := by
  unfold State.beginExit
  try dsimp only
  repeat' first
    | with_reducible assumption
    | with_reducible refine State.setFlag_holds ?_ _ _
    | with_reducible refine State.resumePolder_holds ?_ _ _
    | with_reducible refine State.beginLadder_holds ?_ _ _

theorem State.wake_holds {p : List Instr} {s : State} (h : Holds p s) : ∀ a1, Holds p (State.wake s a1) := by
  intro a1
  unfold State.wake
  try dsimp only
  repeat' first
    | with_reducible assumption
    | with_reducible refine holds_ite (fun _ => ?_) (fun _ => ?_)
    | with_reducible refine State.setFld_holds ?_ _ _
    | with_reducible refine State.setMode_holds ?_ _
    | with_reducible refine State.setPhase_holds ?_ _
    | with_reducible refine State.setFlag_holds ?_ _ _
    | with_reducible refine State.beginExit_holds ?_
    | split

theorem State.endExit_holds {p : List Instr} {s : State} (h : Holds p s) : Holds p (State.endExit s) := by
  unfold State.endExit
  try dsimp only
  repeat' first
    | with_reducible assumption
    | intro _
    | with_reducible refine foldl_holds ?_ ?_
    | with_reducible refine State.setPolder_holds ?_ _ _
    | with_reducible refine State.resumePolder_holds ?_ _ _
    | with_reducible refine State.setReg_holds ?_ _ _
    | with_reducible refine State.setPhase_holds ?_ _
    | with_reducible refine State.count_holds ?_ _ _ _
    | with_reducible refine State.setFlag_holds ?_ _ _
    | with_reducible refine State.setMode_holds ?_ _

/-! ## Machine/Unload.lean -/

theorem State.discardRing_holds {p : List Instr} {s : State} (h : Holds p s) : ∀ a1 a2, Holds p (State.discardRing s a1 a2) := by
  intro a1 a2
  unfold State.discardRing
  try dsimp only
  repeat' first
    | with_reducible assumption
    | with_reducible refine holds_ite (fun _ => ?_) (fun _ => ?_)
    | with_reducible refine State.setRing_holds ?_ _ _ _
    | with_reducible refine State.clearEn_holds ?_ _ _
    | with_reducible refine State.ringOff_holds ?_ _ _

theorem State.releaseSlots_holds {p : List Instr} {s : State} (h : Holds p s) : ∀ a1, Holds p (State.releaseSlots s a1) := by
  intro a1
  unfold State.releaseSlots
  try dsimp only
  repeat' first
    | with_reducible assumption
    | intro _
    | with_reducible refine foldl_holds ?_ ?_
    | with_reducible refine State.showSet_holds ?_ _
    | with_reducible refine State.showTiles_holds ?_
    | (refine holds_of_parts ?_; dsimp only; with_reducible refine Holds.parts ?_)

theorem State.releaseRecipe_holds {p : List Instr} {s : State} (h : Holds p s) : ∀ a1 a2, Holds p (s.releaseRecipe a1 a2) := by
  intro a1 a2
  unfold State.releaseRecipe
  dsimp only
  repeat' first
    | exact statusLegal_reset
    | with_reducible assumption
    | intro _
    | with_reducible refine foldl_holds ?_ ?_
    | with_reducible refine State.releaseStore_holds ?_ _
    | with_reducible refine State.releaseSlots_holds ?_ _
    | with_reducible refine State.unbindRecipeQps_holds ?_ _
    | with_reducible refine State.setCore_holds ?_ ?_
    | with_reducible refine State.setRing_holds ?_ _ _ _
    | (refine holds_of_parts ?_; dsimp only; with_reducible refine Holds.parts ?_)

theorem State.settleUnload_holds {p : List Instr} {s : State} (h : Holds p s) : ∀ a1, Holds p (State.settleUnload s a1) := by
  intro a1
  unfold State.settleUnload
  try dsimp only
  repeat' first
    | with_reducible assumption
    | intro _
    | with_reducible refine holds_ite (fun _ => ?_) (fun _ => ?_)
    | with_reducible refine foldl_holds ?_ ?_
    | with_reducible refine State.completeCommand_holds ?_ _ _ _ _
    | with_reducible refine State.releaseRecipe_holds ?_ _ _
    | split

theorem State.settleUnloads_holds {p : List Instr} {s : State} (h : Holds p s) : Holds p (State.settleUnloads s) := by
  unfold State.settleUnloads
  try dsimp only
  repeat' first
    | with_reducible assumption
    | intro _
    | with_reducible refine foldl_holds ?_ ?_
    | with_reducible refine State.settleUnload_holds ?_ _

/-! ## Machine/Engine.lean -/

theorem State.spendRing_holds {p : List Instr} {s : State} (h : Holds p s) : ∀ a1 a2, Holds p (State.spendRing s a1 a2) := by
  intro a1 a2
  unfold State.spendRing
  try dsimp only
  repeat' first
    | with_reducible assumption
    | (refine holds_of_parts ?_; dsimp only; with_reducible refine Holds.parts ?_)

theorem State.take_holds {p : List Instr} {s : State} (h : Holds p s) : ∀ a1 a2, Holds p (State.take s a1 a2) := by
  intro a1 a2
  unfold State.take
  try dsimp only
  repeat' first
    | with_reducible assumption
    | with_reducible refine holds_ite (fun _ => ?_) (fun _ => ?_)
    | with_reducible refine State.spendRing_holds ?_ _ _
    | with_reducible refine State.setRing_holds ?_ _ _ _
    | with_reducible refine State.emit_holds ?_ _ _ _ _
    | with_reducible refine State.finish_holds ?_ _ _ _ _
    | with_reducible refine State.ringError_holds ?_ _ _
    | (refine holds_of_parts ?_; dsimp only; with_reducible refine Holds.parts ?_)
    | split

theorem State.watchWord_holds {p : List Instr} {s : State} (h : Holds p s) : ∀ a1 a2, Holds p (State.watchWord s a1 a2).2 := by
  intro a1 a2
  unfold State.watchWord
  try dsimp only
  repeat' first
    | with_reducible assumption
    | with_reducible refine holds_snd_ite (fun _ => ?_) (fun _ => ?_)
    | with_reducible refine State.freshFree_holds ?_
    | split

theorem State.watch_holds {p : List Instr} {s : State} (h : Holds p s) : ∀ a1 a2 a3 a4, Holds p (State.watch s a1 a2 a3 a4) := by
  intro a1 a2 a3 a4
  unfold State.watch
  try dsimp only
  repeat' first
    | with_reducible assumption
    | with_reducible refine holds_ite (fun _ => ?_) (fun _ => ?_)
    | with_reducible refine holds_snd_ite (fun _ => ?_) (fun _ => ?_)
    | with_reducible refine State.count_holds ?_ _ _ _
    | with_reducible refine State.errAdd_holds ?_ _ _
    | with_reducible refine State.emit_holds ?_ _ _ _ _
    | with_reducible refine State.watchWord_holds ?_ _ _
    | with_reducible refine State.freshFree_holds ?_
    | with_reducible refine State.trigger_holds ?_ _

theorem State.watches_holds {p : List Instr} {s : State} (h : Holds p s) : ∀ a1 a2 a3, Holds p (State.watches s a1 a2 a3) := by
  intro a1 a2 a3
  unfold State.watches
  try dsimp only
  repeat' first
    | with_reducible assumption
    | intro _
    | with_reducible refine holds_ite (fun _ => ?_) (fun _ => ?_)
    | with_reducible refine foldl_holds ?_ ?_
    | with_reducible refine State.watch_holds ?_ _ _ _ _

theorem State.settleAll_holds {p : List Instr} {s : State} (h : Holds p s) : Holds p (State.settleAll s) := by
  unfold State.settleAll
  try dsimp only
  repeat' first
    | with_reducible assumption
    | with_reducible refine State.settleStops_holds ?_
    | with_reducible refine State.settleCores_holds ?_
    | with_reducible refine State.settleUnloads_holds ?_

/-! ## Machine/Holdup.lean -/

theorem State.applyLimit_holds {p : List Instr} {s : State} (h : Holds p s) : Holds p (State.applyLimit s) := by
  unfold State.applyLimit
  try dsimp only
  repeat' first
    | with_reducible assumption
    | with_reducible refine State.setFld_holds ?_ _ _
    | with_reducible refine State.drainWaiting_holds ?_ _

theorem State.setLimit_holds {p : List Instr} {s : State} (h : Holds p s) : ∀ a1, Holds p (State.setLimit s a1) := by
  intro a1
  unfold State.setLimit
  try dsimp only
  repeat' first
    | with_reducible assumption
    | with_reducible refine State.applyLimit_holds ?_
    | with_reducible refine State.setFld_holds ?_ _ _

theorem State.showBank_holds {p : List Instr} {s : State} (h : Holds p s) : Holds p (State.showBank s) := by
  unfold State.showBank
  try dsimp only
  repeat' first
    | with_reducible assumption
    | with_reducible refine State.setFlag_holds ?_ _ _
    | with_reducible refine State.setFld_holds ?_ _ _

theorem State.abandonTest_holds {p : List Instr} {s : State} (h : Holds p s) : Holds p (State.abandonTest s) := by
  unfold State.abandonTest
  try dsimp only
  repeat' first
    | with_reducible assumption
    | with_reducible refine State.showBank_holds ?_
    | with_reducible refine State.setPower_holds ?_ _

theorem State.loseShed_holds {p : List Instr} {s : State} (h : Holds p s) : Holds p s.loseShed := by
  unfold State.loseShed
  dsimp only
  repeat' first
    | with_reducible assumption
    | intro _
    | with_reducible refine foldl_holds ?_ ?_
    | with_reducible refine State.setPolder_holds ?_ _ _
    | with_reducible refine State.setReg_holds ?_ _ _
    | with_reducible refine State.loseTrace_holds ?_
  all_goals exact holds_fresh h rfl (.inl rfl) rfl rfl rfl

theorem State.shed_holds {p : List Instr} {s : State} (h : Holds p s) : ∀ a1, Holds p (State.shed s a1) := by
  intro a1
  unfold State.shed
  try dsimp only
  repeat' first
    | with_reducible assumption
    | with_reducible refine State.loseShed_holds ?_
    | with_reducible refine State.abandonTest_holds ?_
    | with_reducible refine State.setPower_holds ?_ _

theorem State.powerFail_holds {p : List Instr} {s : State} (h : Holds p s) : ∀ a1, Holds p (State.powerFail s a1) := by
  intro a1
  unfold State.powerFail
  try dsimp only
  repeat' first
    | with_reducible assumption
    | with_reducible refine holds_ite (fun _ => ?_) (fun _ => ?_)
    | with_reducible refine State.setPhase_holds ?_ _
    | with_reducible refine State.shed_holds ?_ _
    | with_reducible refine State.count_holds ?_ _ _ _
    | split

theorem State.powerOff_holds {p : List Instr} {s : State} (h : Holds p s) : Holds p (State.powerOff s) := by
  unfold State.powerOff
  try dsimp only
  repeat' first
    | with_reducible assumption
    | with_reducible refine holds_ite (fun _ => ?_) (fun _ => ?_)
    | with_reducible refine State.count_holds ?_ _ _ _
    | with_reducible refine State.showBank_holds ?_
    | with_reducible refine State.setPower_holds ?_ _

theorem State.writeMgtCtl_holds {p : List Instr} {s : State} (h : Holds p s) : ∀ a1 a2, Holds p (State.writeMgtCtl s a1 a2) := by
  intro a1 a2
  unfold State.writeMgtCtl
  try dsimp only
  repeat' first
    | with_reducible assumption
    | with_reducible refine holds_ite (fun _ => ?_) (fun _ => ?_)
    | with_reducible refine State.powerOff_holds ?_

theorem State.flushUnit_holds {p : List Instr} {s : State} (h : Holds p s) : ∀ a1 a2 a3 a4 a5, Holds p (State.flushUnit s a1 a2 a3 a4 a5).2 := by
  intro a1 a2 a3 a4 a5
  unfold State.flushUnit
  try dsimp only
  repeat' first
    | with_reducible assumption
    | with_reducible refine holds_snd_ite (fun _ => ?_) (fun _ => ?_)
    | with_reducible refine State.programWords_holds ?_ _
    | (refine holds_of_parts ?_; dsimp only; with_reducible refine Holds.parts ?_)
    | split

theorem State.flushJournal_holds {p : List Instr} {s : State} (h : Holds p s) : ∀ a1 a2, Holds p (State.flushJournal s a1 a2).2 := by
  intro a1 a2
  induction a2 generalizing s a1 with
  | zero =>
    unfold State.flushJournal
    repeat' first
      | with_reducible assumption
  | succ k ih =>
    unfold State.flushJournal
    try dsimp only
    repeat' first
      | with_reducible assumption
      | (with_reducible apply ih)
      | with_reducible refine State.flushUnit_holds ?_ _ _ _ _ _
      | (refine holds_of_parts ?_; dsimp only; with_reducible refine Holds.parts ?_)
      | (with_reducible apply holds_snd; with_reducible assumption)
      | split

theorem State.endPrograms_holds {p : List Instr} {s : State} (h : Holds p s) : ∀ a1, Holds p (State.endPrograms s a1) := by
  intro a1
  unfold State.endPrograms
  try dsimp only
  repeat' first
    | with_reducible assumption
    | intro _
    | with_reducible refine holds_ite (fun _ => ?_) (fun _ => ?_)
    | with_reducible refine foldl_holds ?_ ?_
    | with_reducible refine State.count_holds ?_ _ _ _
    | with_reducible refine State.programWords_holds ?_ _
    | split

theorem State.writeCursors_holds {p : List Instr} {s : State} (h : Holds p s) : ∀ a1 a2 a3, Holds p (State.writeCursors s a1 a2 a3) := by
  intro a1 a2 a3
  unfold State.writeCursors
  try dsimp only
  repeat' first
    | with_reducible assumption
    | with_reducible refine holds_ite (fun _ => ?_) (fun _ => ?_)
    | with_reducible refine State.flushUnit_holds ?_ _ _ _ _ _
    | (refine holds_of_parts ?_; dsimp only; with_reducible refine Holds.parts ?_)
    | split

theorem State.writeFlush_holds {p : List Instr} {s : State} (h : Holds p s) : ∀ a1, Holds p (State.writeFlush s a1) := by
  intro a1
  unfold State.writeFlush
  try dsimp only
  repeat' first
    | with_reducible assumption
    | with_reducible refine holds_ite (fun _ => ?_) (fun _ => ?_)
    | with_reducible refine holds_snd_ite (fun _ => ?_) (fun _ => ?_)
    | with_reducible refine State.endPrograms_holds ?_ _
    | with_reducible refine State.flushJournal_holds ?_ _ _
    | with_reducible refine State.writeCursors_holds ?_ _ _ _

theorem State.askTest_holds {p : List Instr} {s : State} (h : Holds p s) : Holds p (State.askTest s) := by
  unfold State.askTest
  try dsimp only
  repeat' first
    | with_reducible assumption
    | with_reducible refine holds_ite (fun _ => ?_) (fun _ => ?_)
    | with_reducible refine State.setFlag_holds ?_ _ _
    | with_reducible refine State.setPower_holds ?_ _

theorem State.writeRestart_holds {p : List Instr} {s : State} (h : Holds p s) : ∀ a1 a2, Holds p (State.writeRestart s a1 a2) := by
  intro a1 a2
  unfold State.writeRestart
  try dsimp only
  repeat' first
    | with_reducible assumption
    | with_reducible refine State.setReg_holds ?_ _ _
    | with_reducible refine State.setPower_holds ?_ _

/-! ## Machine/Sec.lean -/

theorem State.answerMail_holds {p : List Instr} {s : State} (h : Holds p s) : ∀ a1 a2, Holds p (State.answerMail s a1 a2) := by
  intro a1 a2
  unfold State.answerMail
  try dsimp only
  repeat' first
    | with_reducible assumption
    | with_reducible refine State.setSec_holds ?_ _
    | with_reducible refine State.setReg_holds ?_ _ _

theorem State.reserveIndex_holds {p : List Instr} {s : State} (h : Holds p s) : Holds p s.reserveIndex := by
  unfold State.reserveIndex
  dsimp only
  split
  · exact h
  · exact holds_bootStore (State.setSec_holds h _) _ _

theorem State.attest_holds {p : List Instr} {s : State} (h : Holds p s) : Holds p (State.attest s) := by
  unfold State.attest
  try dsimp only
  repeat' first
    | with_reducible assumption
    | with_reducible refine holds_ite (fun _ => ?_) (fun _ => ?_)
    | with_reducible refine State.answerMail_holds ?_ _ _
    | with_reducible refine State.reserveIndex_holds ?_
    | with_reducible refine State.setFld_holds ?_ _ _
    | with_reducible refine State.showSec_holds ?_
    | with_reducible refine State.setSec_holds ?_ _

theorem State.readCert_holds {p : List Instr} {s : State} (h : Holds p s) : Holds p (State.readCert s) := by
  unfold State.readCert
  try dsimp only
  repeat' first
    | with_reducible assumption
    | with_reducible refine holds_ite (fun _ => ?_) (fun _ => ?_)
    | with_reducible refine State.answerMail_holds ?_ _ _

theorem State.debugChallenge_holds {p : List Instr} {s : State} (h : Holds p s) : Holds p (State.debugChallenge s) := by
  unfold State.debugChallenge
  try dsimp only
  repeat' first
    | with_reducible assumption
    | with_reducible refine State.freshFree_holds ?_
    | with_reducible refine State.answerMail_holds ?_ _ _
    | with_reducible refine State.setSec_holds ?_ _

theorem State.debugUnlock_holds {p : List Instr} {s : State} (h : Holds p s) : Holds p (State.debugUnlock s) := by
  unfold State.debugUnlock
  try dsimp only
  repeat' first
    | with_reducible assumption
    | with_reducible refine holds_ite (fun _ => ?_) (fun _ => ?_)
    | with_reducible refine State.answerMail_holds ?_ _ _
    | with_reducible refine State.setSec_holds ?_ _
    | with_reducible refine State.setFld_holds ?_ _ _
    | with_reducible refine State.setFlag_holds ?_ _ _

theorem State.mailOp_holds {p : List Instr} {s : State} (h : Holds p s) : ∀ a1, Holds p (State.mailOp s a1) := by
  intro a1
  unfold State.mailOp
  try dsimp only
  repeat' first
    | with_reducible assumption
    | with_reducible refine State.attest_holds ?_
    | with_reducible refine State.readCert_holds ?_
    | with_reducible refine State.debugChallenge_holds ?_
    | with_reducible refine State.debugUnlock_holds ?_
    | with_reducible refine State.answerMail_holds ?_ _ _
    | split

theorem State.commitSvn_holds {p : List Instr} {s : State} (h : Holds p s) : Holds p (State.commitSvn s) := by
  unfold State.commitSvn
  try dsimp only
  repeat' first
    | with_reducible assumption
    | with_reducible refine State.showSec_holds ?_
    | with_reducible refine State.setSec_holds ?_ _
    | split

theorem State.armActivation_holds {p : List Instr} {s : State} (h : Holds p s) : ∀ a1, Holds p (State.armActivation s a1) := by
  intro a1
  unfold State.armActivation
  try dsimp only
  repeat' first
    | with_reducible assumption
    | with_reducible refine holds_ite (fun _ => ?_) (fun _ => ?_)
    | with_reducible refine State.setFlag_holds ?_ _ _
    | with_reducible refine State.setSec_holds ?_ _
    | with_reducible refine State.setReg_holds ?_ _ _

theorem State.disarm_holds {p : List Instr} {s : State} (h : Holds p s) : Holds p (State.disarm s) := by
  unfold State.disarm
  try dsimp only
  repeat' first
    | with_reducible assumption
    | with_reducible refine holds_ite (fun _ => ?_) (fun _ => ?_)
    | with_reducible refine State.setFlag_holds ?_ _ _

theorem State.fwComplete_holds {p : List Instr} {s : State} (h : Holds p s) : ∀ a1 a2, Holds p (State.fwComplete s a1 a2) := by
  intro a1 a2
  unfold State.fwComplete
  try dsimp only
  repeat' first
    | with_reducible assumption
    | with_reducible refine State.nvmeComplete_holds ?_ _ _ _ _ _
    | with_reducible refine State.completeCommand_holds ?_ _ _ _ _
    | split

theorem State.discardBlock_holds {p : List Instr} {s : State} (h : Holds p s) : ∀ a1, Holds p (State.discardBlock s a1) := by
  intro a1
  unfold State.discardBlock
  try dsimp only
  repeat' first
    | with_reducible assumption
    | with_reducible refine State.errAdd_holds ?_ _ _
    | with_reducible refine State.setSec_holds ?_ _

theorem State.stageBytes_holds {p : List Instr} {s : State} (h : Holds p s) : ∀ a1 a2, Holds p (State.stageBytes s a1 a2).2 := by
  intro a1 a2
  unfold State.stageBytes
  try dsimp only
  repeat' first
    | with_reducible assumption
    | intro _
    | with_reducible refine holds_snd_ite (fun _ => ?_) (fun _ => ?_)
    | with_reducible refine foldl_holds ?_ ?_
    | with_reducible refine State.setSec_holds ?_ _
    | with_reducible refine State.showSec_holds ?_
    | with_reducible refine State.discardBlock_holds ?_ _

theorem State.refuseImage_holds {p : List Instr} {s : State} (h : Holds p s) : ∀ a1 a2, Holds p (State.refuseImage s a1 a2) := by
  intro a1 a2
  unfold State.refuseImage
  try dsimp only
  repeat' first
    | with_reducible assumption
    | with_reducible refine State.setSec_holds ?_ _
    | with_reducible refine State.fwComplete_holds ?_ _ _
    | with_reducible refine State.showSec_holds ?_
    | with_reducible refine State.setFld_holds ?_ _ _

theorem State.commitDone_holds {p : List Instr} {s : State} (h : Holds p s) : ∀ a1, Holds p (State.commitDone s a1) := by
  intro a1
  unfold State.commitDone
  try dsimp only
  repeat' first
    | with_reducible assumption
    | with_reducible refine State.fwComplete_holds ?_ _ _

theorem State.runCommit_holds {p : List Instr} {s : State} (h : Holds p s) : ∀ a1, Holds p (s.runCommit a1) := by
  intro a1
  unfold State.runCommit
  dsimp only
  repeat' first
    | with_reducible refine holds_bootStore ?_ _ _
    | with_reducible assumption
    | with_reducible refine holds_ite (fun _ => ?_) (fun _ => ?_)
    | with_reducible refine State.refuseImage_holds ?_ _ _
    | with_reducible refine State.commitDone_holds ?_ _
    | with_reducible refine State.showSec_holds ?_
    | with_reducible refine State.setSec_holds ?_ _
    | with_reducible refine State.disarm_holds ?_
    | with_reducible refine State.setFld_holds ?_ _ _
    | split

theorem State.commitImage_holds {p : List Instr} {s : State} (h : Holds p s) : ∀ a1 a2, Holds p (State.commitImage s a1 a2) := by
  intro a1 a2
  unfold State.commitImage
  try dsimp only
  repeat' first
    | with_reducible assumption
    | with_reducible refine holds_ite (fun _ => ?_) (fun _ => ?_)
    | with_reducible refine State.setSec_holds ?_ _
    | with_reducible refine State.runCommit_holds ?_ _

theorem State.fwCommit_holds {p : List Instr} {s : State} (h : Holds p s) : ∀ a1 a2 a3, Holds p (State.fwCommit s a1 a2 a3) := by
  intro a1 a2 a3
  unfold State.fwCommit
  try dsimp only
  repeat' first
    | with_reducible assumption
    | with_reducible refine holds_ite (fun _ => ?_) (fun _ => ?_)
    | with_reducible refine State.fwComplete_holds ?_ _ _
    | with_reducible refine State.commitImage_holds ?_ _ _

theorem State.nextCommit_holds {p : List Instr} {s : State} (h : Holds p s) : ∀ a1, Holds p (State.nextCommit s a1) := by
  intro a1
  induction a1 generalizing s with
  | zero =>
    unfold State.nextCommit
    repeat' first
      | with_reducible assumption
  | succ k ih =>
    unfold State.nextCommit
    try dsimp only
    repeat' first
      | with_reducible assumption
      | (with_reducible apply ih)
      | with_reducible refine State.runCommit_holds ?_ _
      | with_reducible refine State.setSec_holds ?_ _
      | split

theorem State.imageWritten_holds {p : List Instr} {s : State} (h : Holds p s) : ∀ a1 a2, Holds p (s.imageWritten a1 a2) := by
  intro a1 a2
  unfold State.imageWritten
  dsimp only
  repeat' first
    | with_reducible refine holds_bootStore ?_ _ _
    | with_reducible assumption
    | with_reducible refine holds_ite (fun _ => ?_) (fun _ => ?_)
    | with_reducible refine State.commitDone_holds ?_ _
    | with_reducible refine State.setFld_holds ?_ _ _
    | with_reducible refine State.setSec_holds ?_ _
    | with_reducible refine State.nextCommit_holds ?_ _
    | with_reducible refine State.warmReset_holds ?_ _

theorem State.imageLost_holds {p : List Instr} {s : State} (h : Holds p s) : ∀ a1, Holds p (s.imageLost a1) := by
  intro a1
  unfold State.imageLost
  dsimp only
  repeat' first
    | with_reducible refine holds_bootStore ?_ _ _
    | with_reducible assumption
    | with_reducible refine State.freshFree_holds ?_
    | with_reducible refine State.setFld_holds ?_ _ _
    | with_reducible refine State.setSec_holds ?_ _
    | with_reducible refine State.fwComplete_holds ?_ _ _
    | with_reducible refine State.nextCommit_holds ?_ _

/-! ## Machine/RegAccess.lean -/

theorem State.clearOvf_holds {p : List Instr} {s : State} (h : Holds p s) : ∀ a1 a2 a3, Holds p (State.clearOvf s a1 a2 a3) := by
  intro a1 a2 a3
  unfold State.clearOvf
  try dsimp only
  repeat' first
    | with_reducible assumption
    | with_reducible refine holds_ite (fun _ => ?_) (fun _ => ?_)
    | (refine holds_of_parts ?_; dsimp only; with_reducible refine Holds.parts ?_)

theorem State.writeWindow_holds {p : List Instr} {s : State} (h : Holds p s) : ∀ a1 a2, Holds p (State.writeWindow s a1 a2) := by
  intro a1 a2
  unfold State.writeWindow
  try dsimp only
  repeat' first
    | with_reducible assumption
    | with_reducible refine State.setPower_holds ?_ _
    | with_reducible refine State.setSec_holds ?_ _
    | split

theorem State.readCC_holds {p : List Instr} {s : State} (h : Holds p s) : ∀ a1, HoldsIn p (fun r => r.2) (s.readCC a1) := by
  intro a1
  unfold State.readCC
  repeat' first
    | exact HoldsIn.none
    | with_reducible refine HoldsIn.some ?_
    | with_reducible refine HoldsIn.ite (fun _ => ?_) (fun _ => ?_)
    | with_reducible assumption
    | with_reducible refine State.popTicket_holds ?_ _
    | split

theorem State.readOther_holds {p : List Instr} {s : State} (h : Holds p s) : ∀ a1, HoldsIn p (fun r => r.2) (s.readOther a1) := by
  intro a1
  unfold State.readOther
  repeat' first
    | exact HoldsIn.none
    | with_reducible refine HoldsIn.some ?_
    | with_reducible refine HoldsIn.ite (fun _ => ?_) (fun _ => ?_)
    | with_reducible assumption
    | with_reducible refine State.readNowLo_holds ?_
    | with_reducible refine State.readNowHi_holds ?_
    | with_reducible refine State.readDepth_holds ?_
    | with_reducible refine State.readDelay_holds ?_

theorem State.readReg_holds {p : List Instr} {s : State} (h : Holds p s) : ∀ a1, Holds p (s.readReg a1).2 := by
  intro a1
  unfold State.readReg
  split
  · exact h
  · split
    · exact h
    · split
      · exact h
      · split
        next e =>
          split at e
          · exact (State.readCC_holds h _).holds _ e
          · exact (State.readOther_holds h _).holds _ e
        · split
          · exact State.setReg_holds h _ _
          · exact h

theorem State.plainWrite_holds {p : List Instr} {s : State} (h : Holds p s) : ∀ a1 a2, Holds p (State.plainWrite s a1 a2) := by
  intro a1 a2
  unfold State.plainWrite
  try dsimp only
  repeat' first
    | with_reducible assumption
    | with_reducible refine State.setReg_holds ?_ _ _
    | split

theorem State.writeClk_holds {p : List Instr} {s : State} (h : Holds p s) : ∀ a1 a2, Holds p (State.writeClk s a1 a2) := by
  intro a1 a2
  unfold State.writeClk
  try dsimp only
  repeat' first
    | with_reducible assumption
    | with_reducible refine State.writeSrc_holds ?_ _ _
    | with_reducible refine State.writeStop_holds ?_ _ _
    | with_reducible refine State.writeOpp_holds ?_ _ _

theorem State.writePOL_holds {p : List Instr} {s : State} (h : Holds p s) : ∀ a1 a2 a3, Holds p (State.writePOL s a1 a2 a3) := by
  intro a1 a2 a3
  unfold State.writePOL
  try dsimp only
  repeat' first
    | with_reducible assumption
    | with_reducible refine holds_ite (fun _ => ?_) (fun _ => ?_)
    | with_reducible refine State.releasePads_holds ?_ _
    | with_reducible refine State.writeCoreRst_holds ?_ _
    | with_reducible refine State.freshFree_holds ?_
    | with_reducible refine State.writePolderReset_holds ?_ _ _
    | with_reducible refine State.writeWarm_holds ?_ _ _ _
    | with_reducible refine State.plainWrite_holds ?_ _ _
    | with_reducible refine State.setPower_holds ?_ _
    | with_reducible refine State.writeClk_holds ?_ _ _

theorem State.writeMGT_holds {p : List Instr} {s : State} (h : Holds p s) : ∀ a1 a2 a3, Holds p (State.writeMGT s a1 a2 a3) := by
  intro a1 a2 a3
  unfold State.writeMGT
  try dsimp only
  repeat' first
    | with_reducible assumption
    | with_reducible refine holds_ite (fun _ => ?_) (fun _ => ?_)
    | with_reducible refine State.applyLimit_holds ?_
    | with_reducible refine State.plainWrite_holds ?_ _ _
    | with_reducible refine State.setPower_holds ?_ _
    | with_reducible refine State.askTest_holds ?_
    | with_reducible refine State.writeMgtCtl_holds ?_ _ _
    | with_reducible refine State.writeRestart_holds ?_ _ _

theorem State.writeGTC_holds {p : List Instr} {s : State} (h : Holds p s) : ∀ a1 a2, Holds p (State.writeGTC s a1 a2) := by
  intro a1 a2
  unfold State.writeGTC
  try dsimp only
  repeat' first
    | with_reducible assumption
    | with_reducible refine holds_ite (fun _ => ?_) (fun _ => ?_)
    | with_reducible refine State.writeLeaseHi_holds ?_ _
    | with_reducible refine State.writeFence_holds ?_ _
    | with_reducible refine State.plainWrite_holds ?_ _ _

theorem State.writeOvfIrq_holds {p : List Instr} {s : State} (h : Holds p s) : ∀ a1, Holds p (State.writeOvfIrq s a1) := by
  intro a1
  unfold State.writeOvfIrq
  try dsimp only
  repeat' first
    | with_reducible assumption
    | intro _
    | with_reducible refine holds_ite (fun _ => ?_) (fun _ => ?_)
    | with_reducible refine foldl_holds ?_ ?_
    | with_reducible refine State.setReg_holds ?_ _ _
    | (refine holds_of_parts ?_; dsimp only; with_reducible refine Holds.parts ?_)

theorem State.writeReplayCfg_holds {p : List Instr} {s : State} (h : Holds p s) : ∀ a1, Holds p (State.writeReplayCfg s a1) := by
  intro a1
  unfold State.writeReplayCfg
  try dsimp only
  repeat' first
    | with_reducible assumption
    | with_reducible refine holds_ite (fun _ => ?_) (fun _ => ?_)
    | with_reducible refine State.setFld_holds ?_ _ _
    | with_reducible refine State.setFlag_holds ?_ _ _

theorem State.writeFLT_holds {p : List Instr} {s : State} (h : Holds p s) : ∀ a1 a2 a3, Holds p (State.writeFLT s a1 a2 a3) := by
  intro a1 a2 a3
  unfold State.writeFLT
  try dsimp only
  repeat' first
    | with_reducible assumption
    | with_reducible refine holds_ite (fun _ => ?_) (fun _ => ?_)
    | with_reducible refine State.plainWrite_holds ?_ _ _
    | with_reducible refine State.writeForce_holds ?_ _ _
    | with_reducible refine State.kick_holds ?_ _
    | with_reducible refine State.writeOvfIrq_holds ?_ _
    | with_reducible refine State.clearUnits_holds ?_ _
    | with_reducible refine State.requestTest_holds ?_ _ _ _
    | with_reducible refine State.writeReplayCfg_holds ?_ _
    | with_reducible refine State.requestReplay_holds ?_ _

theorem State.writeDbgCore_holds {p : List Instr} {s : State} (h : Holds p s) : ∀ a1 a2, Holds p (State.writeDbgCore s a1 a2) := by
  intro a1 a2
  unfold State.writeDbgCore
  try dsimp only
  repeat' first
    | with_reducible assumption
    | with_reducible refine holds_ite (fun _ => ?_) (fun _ => ?_)
    | with_reducible refine State.requestHalt_holds ?_ _
    | with_reducible refine State.leaveHalt_holds ?_ _

theorem State.writeCC_holds {p : List Instr} {s : State} (h : Holds p s) : ∀ a1 a2, Holds p (State.writeCC s a1 a2) := by
  intro a1 a2
  unfold State.writeCC
  try dsimp only
  repeat' first
    | with_reducible assumption
    | with_reducible refine holds_ite (fun _ => ?_) (fun _ => ?_)
    | with_reducible refine State.writeSwi_holds ?_ _ _
    | with_reducible refine State.writeRingCfg_holds ?_ _
    | with_reducible refine State.writeRingBase_holds ?_ _ _
    | with_reducible refine State.writeRingWin_holds ?_ _ _ _
    | with_reducible refine State.writeRingErr_holds ?_ _
    | with_reducible refine State.writeDbgCore_holds ?_ _ _
    | with_reducible refine State.writeTkiStat_holds ?_ _ _
    | with_reducible refine State.plainWrite_holds ?_ _ _
    | split

theorem State.writePrioCfg_holds {p : List Instr} {s : State} (h : Holds p s) : ∀ a1, Holds p (State.writePrioCfg s a1) := by
  intro a1
  unfold State.writePrioCfg
  try dsimp only
  repeat' first
    | with_reducible assumption
    | with_reducible refine holds_ite (fun _ => ?_) (fun _ => ?_)
    | with_reducible refine State.plainWrite_holds ?_ _ _
    | with_reducible refine State.setFld_holds ?_ _ _

theorem State.writeNet_holds {p : List Instr} {s : State} (h : Holds p s) : ∀ a1 a2, Holds p (State.writeNet s a1 a2) := by
  intro a1 a2
  unfold State.writeNet
  try dsimp only
  repeat' first
    | with_reducible assumption
    | with_reducible refine holds_ite (fun _ => ?_) (fun _ => ?_)
    | with_reducible refine State.writePortCfg_holds ?_ _ _
    | with_reducible refine State.writePrioCfg_holds ?_ _
    | with_reducible refine State.plainWrite_holds ?_ _ _
    | with_reducible refine State.qpCommand_holds ?_ _
    | with_reducible refine State.setReg_holds ?_ _ _
    | with_reducible refine State.latchQueue_holds ?_ _
    | (refine holds_of_parts ?_; dsimp only; with_reducible refine Holds.parts ?_)

theorem State.writeDmaCtl_holds {p : List Instr} {s : State} (h : Holds p s) : ∀ a1 a2, Holds p (State.writeDmaCtl s a1 a2) := by
  intro a1 a2
  unfold State.writeDmaCtl
  try dsimp only
  repeat' first
    | with_reducible assumption
    | with_reducible refine holds_ite (fun _ => ?_) (fun _ => ?_)
    | with_reducible refine State.setReg_holds ?_ _ _
    | with_reducible refine State.dmaPause_holds ?_ _
    | with_reducible refine State.dmaResume_holds ?_ _
    | with_reducible refine State.dmaGo_holds ?_ _

theorem State.writeHost_holds {p : List Instr} {s : State} (h : Holds p s) : ∀ a1 a2, Holds p (State.writeHost s a1 a2) := by
  intro a1 a2
  unfold State.writeHost
  try dsimp only
  repeat' first
    | with_reducible assumption
    | with_reducible refine holds_ite (fun _ => ?_) (fun _ => ?_)
    | with_reducible refine State.writeDmaCtl_holds ?_ _ _
    | with_reducible refine State.plainWrite_holds ?_ _ _
    | with_reducible refine State.writePoolCfg_holds ?_ _ _
    | (refine holds_of_parts ?_; dsimp only; with_reducible refine Holds.parts ?_)

theorem State.writeDBG_holds {p : List Instr} {s : State} (h : Holds p s) : ∀ a1 a2 a3, Holds p (State.writeDBG s a1 a2 a3) := by
  intro a1 a2 a3
  unfold State.writeDBG
  try dsimp only
  repeat' first
    | with_reducible assumption
    | with_reducible refine holds_ite (fun _ => ?_) (fun _ => ?_)
    | with_reducible refine State.writeDbgCtl_holds ?_ _
    | with_reducible refine State.plainWrite_holds ?_ _ _
    | with_reducible refine State.arm_holds ?_
    | with_reducible refine State.trigger_holds ?_ _
    | with_reducible refine State.mark_holds ?_ _ _

theorem State.writeSEC_holds {p : List Instr} {s : State} (h : Holds p s) : ∀ a1 a2, Holds p (State.writeSEC s a1 a2) := by
  intro a1 a2
  unfold State.writeSEC
  try dsimp only
  repeat' first
    | with_reducible assumption
    | with_reducible refine holds_ite (fun _ => ?_) (fun _ => ?_)
    | with_reducible refine State.commitSvn_holds ?_
    | with_reducible refine State.armActivation_holds ?_ _
    | with_reducible refine State.plainWrite_holds ?_ _ _
    | with_reducible refine State.disarm_holds ?_
    | with_reducible refine State.mailOp_holds ?_ _

theorem State.writeEngine_holds {p : List Instr} {s : State} (h : Holds p s) : ∀ a1 a2, Holds p (State.writeEngine s a1 a2) := by
  intro a1 a2
  unfold State.writeEngine
  try dsimp only
  repeat' first
    | with_reducible assumption
    | with_reducible refine holds_ite (fun _ => ?_) (fun _ => ?_)
    | with_reducible refine State.plainWrite_holds ?_ _ _
    | with_reducible refine State.applyLimit_holds ?_

theorem State.writeUnit_holds {p : List Instr} {s : State} (h : Holds p s) : ∀ a1 a2 a3 a4, Holds p (State.writeUnit s a1 a2 a3 a4) := by
  intro a1 a2 a3 a4
  unfold State.writeUnit
  try dsimp only
  repeat' first
    | with_reducible assumption
    | with_reducible refine holds_ite (fun _ => ?_) (fun _ => ?_)
    | with_reducible refine State.writePOL_holds ?_ _ _ _
    | with_reducible refine State.writeMGT_holds ?_ _ _ _
    | with_reducible refine State.writeGTC_holds ?_ _ _
    | with_reducible refine State.writeFLT_holds ?_ _ _ _
    | with_reducible refine State.writeCC_holds ?_ _ _
    | with_reducible refine State.writeNet_holds ?_ _ _
    | with_reducible refine State.writeHost_holds ?_ _ _
    | with_reducible refine State.writeDBG_holds ?_ _ _ _
    | with_reducible refine State.writeSEC_holds ?_ _ _
    | with_reducible refine State.writeEngine_holds ?_ _ _

theorem State.writeReg_holds {p : List Instr} {s : State} (h : Holds p s) : ∀ a1 a2 a3, Holds p (State.writeReg s a1 a2 a3) := by
  intro a1 a2 a3
  unfold State.writeReg
  try dsimp only
  repeat' first
    | with_reducible assumption
    | with_reducible refine holds_ite (fun _ => ?_) (fun _ => ?_)
    | with_reducible refine State.writeWindow_holds ?_ _ _
    | with_reducible refine State.clearOvf_holds ?_ _ _ _
    | with_reducible refine State.latch_holds ?_ _
    | with_reducible refine State.writeUnit_holds ?_ _ _ _ _
    | split

theorem State.regDoor_holds {p : List Instr} {s : State} (h : Holds p s) : ∀ a1 a2, (s.regDoor a1 a2).holds p := by
  intro a1 a2
  unfold State.regDoor
  repeat' first
    | with_reducible refine RegDoor.holds_opens ?_
    | with_reducible refine RegDoor.holds_waits ?_
    | exact RegDoor.holds_dead
    | with_reducible assumption
    | with_reducible refine State.leaveMs3_holds ?_ _
    | with_reducible refine State.wake_holds ?_ _
    | split
    | dsimp only

theorem State.regDoor_opens {p : List Instr} {s t : State} (h : Holds p s) {a : Bool} {n : Nat} (e : s.regDoor a n = .opens t) : Holds p t := by
  have := State.regDoor_holds h a n
  rw [e] at this; exact this

theorem State.regDoor_waits {p : List Instr} {s t : State} (h : Holds p s) {a : Bool} {n : Nat} (e : s.regDoor a n = .waits t) : Holds p t := by
  have := State.regDoor_holds h a n
  rw [e] at this; exact this

/-! ## Machine/DebugPort.lean -/

theorem State.setDap_holds {p : List Instr} {s : State} (h : Holds p s) : ∀ a1, Holds p (State.setDap s a1) := by
  intro a1
  unfold State.setDap
  try dsimp only
  repeat' first
    | with_reducible assumption
    | (refine holds_of_parts ?_; dsimp only; with_reducible refine Holds.parts ?_)

theorem State.dapRegister_holds {p : List Instr} {s : State} (h : Holds p s) : ∀ a1, (s.dapRegister a1).holds p := by
  intro a1
  unfold State.dapRegister
  dsimp only
  split
  · exact DapEnd.holds_ends h
  · have hd := State.regDoor_holds h false a1.addr.toNat
    split
    next e =>
      rw [e] at hd
      have hd : Holds p _ := hd
      split
      · exact DapEnd.holds_ends (State.writeReg_holds hd _ _ _)
      · exact DapEnd.holds_ends (State.readReg_holds hd _)
    next e => rw [e] at hd; exact hd
    · exact DapEnd.holds_ends h

theorem State.dapMemory_holds {p : List Instr} {s : State} (h : Holds p s) : ∀ a1, (s.dapMemory a1).holds p := by
  intro a1
  unfold State.dapMemory
  dsimp only
  repeat' first
    | with_reducible refine DapEnd.holds_ends ?_
    | with_reducible assumption
    | with_reducible refine State.writeDram_holds ?_ _ _
    | split

theorem Core.dapWrite_holds {k : Core} (h : k.statusLegal) : ∀ a1 a2, (Core.dapWrite k a1 a2).statusLegal := by
  intro a1 a2
  unfold Core.dapWrite
  try dsimp only
  repeat' first
    | with_reducible assumption
    | with_reducible refine Core.setReg_holds ?_ _ _
    | with_reducible refine Core.setVreg_holds ?_ _ _
    | with_reducible refine Core.csrWrite_holds ?_ _ _
    | with_reducible refine legal_ite (fun _ => ?_) (fun _ => ?_)
    | (refine legal_of_word ?_; dsimp only; with_reducible refine statusLegal_word ?_)

theorem State.dapCore_holds {p : List Instr} {s : State} (h : Holds p s) : ∀ a1, (s.dapCore a1).holds p := by
  intro a1
  unfold State.dapCore
  dsimp only
  repeat' first
    | with_reducible refine DapEnd.holds_ends ?_
    | with_reducible assumption
    | with_reducible refine State.setCore_holds ?_ ?_
    | with_reducible refine Core.dapWrite_holds ?_ _ _
    | with_reducible refine Holds.status (p := p) ?_ _
    | split

theorem State.dapRun_holds {p : List Instr} {s : State} (h : Holds p s) : ∀ a1, (s.dapRun a1).holds p := by
  intro a1
  unfold State.dapRun
  repeat' split
  · exact DapEnd.holds_ends h
  · exact State.dapRegister_holds h _
  · exact State.dapMemory_holds h _
  · exact State.dapCore_holds h _
  · exact DapEnd.holds_ends h

theorem State.dapStart_holds {p : List Instr} {s : State} (h : Holds p s) : ∀ a1, Holds p (s.dapStart a1) := by
  intro a1
  unfold State.dapStart
  have hd := State.dapRun_holds h a1
  split
  next e => rw [e] at hd; exact State.setDap_holds hd _
  next e => rw [e] at hd; exact State.setDap_holds hd _

theorem State.dapScan_holds {p : List Instr} {s : State} (h : Holds p s) : ∀ a1, Holds p (State.dapScan s a1) := by
  intro a1
  unfold State.dapScan
  try dsimp only
  repeat' first
    | with_reducible assumption
    | with_reducible refine holds_ite (fun _ => ?_) (fun _ => ?_)
    | with_reducible refine State.dapStart_holds ?_ _
    | with_reducible refine State.setDap_holds ?_ _
    | split

/-! ## Machine/MemInsn.lean -/

theorem State.loadOp_holds {p : List Instr} {s : State} (h : Holds p s) : ∀ a1 a2 a3 a4 a5, Holds p (State.loadOp s a1 a2 a3 a4 a5) := by
  intro a1 a2 a3 a4 a5
  unfold State.loadOp
  try dsimp only
  repeat' first
    | with_reducible assumption
    | intro _
    | with_reducible refine State.runInsn_holds ?_ ?_
    | (with_reducible refine State.checkAccess_holds ?_ (by with_reducible assumption))
    | with_reducible refine State.setCore_holds ?_ ?_
    | with_reducible refine Core.retire_holds ?_ _
    | with_reducible refine Core.setReg_holds ?_ _ _
    | with_reducible refine Holds.status (p := p) ?_ _
    | split

theorem State.storeOp_holds {p : List Instr} {s : State} (h : Holds p s) : ∀ a1 a2 a3 a4, Holds p (State.storeOp s a1 a2 a3 a4) := by
  intro a1 a2 a3 a4
  unfold State.storeOp
  try dsimp only
  repeat' first
    | with_reducible assumption
    | intro _
    | with_reducible refine State.runInsn_holds ?_ ?_
    | (with_reducible refine State.checkAccess_holds ?_ (by with_reducible assumption))
    | with_reducible refine State.setCore_holds ?_ ?_
    | with_reducible refine State.writeDram_holds ?_ _ _
    | with_reducible refine Core.retire_holds ?_ _
    | with_reducible refine Holds.status (p := p) ?_ _
    | split

theorem State.atomOp_holds {p : List Instr} {s : State} (h : Holds p s) : ∀ a1 a2 a3, Holds p (State.atomOp s a1 a2 a3) := by
  intro a1 a2 a3
  unfold State.atomOp
  try dsimp only
  repeat' first
    | with_reducible assumption
    | intro _
    | with_reducible refine State.runInsn_holds ?_ ?_
    | (with_reducible refine State.checkAccess_holds ?_ (by with_reducible assumption))
    | with_reducible refine State.setCore_holds ?_ ?_
    | with_reducible refine State.writeDram_holds ?_ _ _
    | with_reducible refine Core.retire_holds ?_ _
    | with_reducible refine Core.setReg_holds ?_ _ _
    | with_reducible refine Holds.status (p := p) ?_ _
    | split

/-! ## Machine/RegInsn.lean -/

theorem State.loadWord_holds {p : List Instr} {s : State} (h : Holds p s) : ∀ a1 a2 a3 a4, Holds p (State.loadWord s a1 a2 a3 a4) := by
  intro a1 a2 a3 a4
  unfold State.loadWord
  try dsimp only
  repeat' first
    | with_reducible assumption
    | intro _
    | with_reducible refine State.runInsn_holds ?_ ?_
    | (with_reducible refine State.checkAccess_holds ?_ (by with_reducible assumption))
    | with_reducible refine State.setCore_holds ?_ ?_
    | with_reducible refine Core.retire_holds ?_ _
    | with_reducible refine Core.setReg_holds ?_ _ _
    | (first | with_reducible refine State.regDoor_opens ?_ (by with_reducible assumption) | with_reducible refine State.regDoor_waits ?_ (by with_reducible assumption))
    | with_reducible refine State.readReg_holds ?_ _
    | with_reducible refine Holds.status (p := p) ?_ _
    | split

/-! ## Machine/Tick.lean -/

theorem State.tick_holds {p : List Instr} {s : State} (h : Holds p s) : Holds p (State.tick s) := by
  unfold State.tick
  try dsimp only
  repeat' first
    | with_reducible assumption
    | with_reducible refine holds_ite (fun _ => ?_) (fun _ => ?_)
    | with_reducible refine State.settleAll_holds ?_
    | with_reducible refine State.makeStep_holds ?_
    | (refine holds_of_parts ?_; dsimp only; with_reducible refine Holds.parts ?_)

/-! ## Safety.lean -/

theorem State.wrote_holds {p : List Instr} {s : State} (h : Holds p s) : ∀ a1 a2 a3, Holds p (State.wrote s a1 a2 a3) := by
  intro a1 a2 a3
  unfold State.wrote
  try dsimp only
  repeat' first
    | with_reducible assumption
    | with_reducible refine State.setCore_holds ?_ ?_
    | with_reducible refine Core.retire_holds ?_ _
    | with_reducible refine Core.setReg_holds ?_ _ _
    | with_reducible refine Holds.status (p := p) ?_ _

end Sys2Proof.Machine
end

