-- ==== Sys2Proof/Laws/State.lean ====
section
/-!
SUPPORT. What each plain update of the state and of a core leaves in every field, one lemma for each field, true by unfolding.
-/

namespace Sys2Proof.Machine

/-! ## State.setReg -/

@[simp] theorem State.setReg_pending (s : State) (off : Nat) (w : Word32) : (s.setReg off w).pending = s.pending := rfl
@[simp] theorem State.setReg_part (s : State) (off : Nat) (w : Word32) : (s.setReg off w).part = s.part := rfl
@[simp] theorem State.setReg_gtc (s : State) (off : Nat) (w : Word32) : (s.setReg off w).gtc = s.gtc := rfl
@[simp] theorem State.setReg_regs (s : State) (off : Nat) (w : Word32) :
    (s.setReg off w).regs = Table.write (resetWord s.part off) s.regs off w := rfl
@[simp] theorem State.setReg_errSnap (s : State) (off : Nat) (w : Word32) : (s.setReg off w).errSnap = s.errSnap := rfl
@[simp] theorem State.setReg_events (s : State) (off : Nat) (w : Word32) : (s.setReg off w).events = s.events := rfl
@[simp] theorem State.setReg_eventSnap (s : State) (off : Nat) (w : Word32) : (s.setReg off w).eventSnap = s.eventSnap := rfl
@[simp] theorem State.setReg_fltLog (s : State) (off : Nat) (w : Word32) : (s.setReg off w).fltLog = s.fltLog := rfl
@[simp] theorem State.setReg_letters (s : State) (off : Nat) (w : Word32) : (s.setReg off w).letters = s.letters := rfl
@[simp] theorem State.setReg_letters1 (s : State) (off : Nat) (w : Word32) : (s.setReg off w).letters1 = s.letters1 := rfl
@[simp] theorem State.setReg_msix (s : State) (off : Nat) (w : Word32) : (s.setReg off w).msix = s.msix := rfl
@[simp] theorem State.setReg_trace (s : State) (off : Nat) (w : Word32) : (s.setReg off w).trace = s.trace := rfl
@[simp] theorem State.setReg_dap (s : State) (off : Nat) (w : Word32) : (s.setReg off w).dap = s.dap := rfl
@[simp] theorem State.setReg_cores (s : State) (off : Nat) (w : Word32) : (s.setReg off w).cores = s.cores := rfl
@[simp] theorem State.setReg_rings (s : State) (off : Nat) (w : Word32) : (s.setReg off w).rings = s.rings := rfl
@[simp] theorem State.setReg_turns (s : State) (off : Nat) (w : Word32) : (s.setReg off w).turns = s.turns := rfl
@[simp] theorem State.setReg_taken (s : State) (off : Nat) (w : Word32) : (s.setReg off w).taken = s.taken := rfl
@[simp] theorem State.setReg_qct (s : State) (off : Nat) (w : Word32) : (s.setReg off w).qct = s.qct := rfl
@[simp] theorem State.setReg_recipes (s : State) (off : Nat) (w : Word32) : (s.setReg off w).recipes = s.recipes := rfl
@[simp] theorem State.setReg_host (s : State) (off : Nat) (w : Word32) : (s.setReg off w).host = s.host := rfl
@[simp] theorem State.setReg_flash (s : State) (off : Nat) (w : Word32) : (s.setReg off w).flash = s.flash := rfl
@[simp] theorem State.setReg_ftl (s : State) (off : Nat) (w : Word32) : (s.setReg off w).ftl = s.ftl := rfl
@[simp] theorem State.setReg_fetch (s : State) (off : Nat) (w : Word32) : (s.setReg off w).fetch = s.fetch := rfl
@[simp] theorem State.setReg_mash (s : State) (off : Nat) (w : Word32) : (s.setReg off w).mash = s.mash := rfl
@[simp] theorem State.setReg_sets (s : State) (off : Nat) (w : Word32) : (s.setReg off w).sets = s.sets := rfl
@[simp] theorem State.setReg_vocabs (s : State) (off : Nat) (w : Word32) : (s.setReg off w).vocabs = s.vocabs := rfl
@[simp] theorem State.setReg_texts (s : State) (off : Nat) (w : Word32) : (s.setReg off w).texts = s.texts := rfl
@[simp] theorem State.setReg_store (s : State) (off : Nat) (w : Word32) : (s.setReg off w).store = s.store := rfl
@[simp] theorem State.setReg_net (s : State) (off : Nat) (w : Word32) : (s.setReg off w).net = s.net := rfl
@[simp] theorem State.setReg_system (s : State) (off : Nat) (w : Word32) : (s.setReg off w).system = s.system := rfl
@[simp] theorem State.setReg_power (s : State) (off : Nat) (w : Word32) : (s.setReg off w).power = s.power := rfl
@[simp] theorem State.setReg_fault (s : State) (off : Nat) (w : Word32) : (s.setReg off w).fault = s.fault := rfl
@[simp] theorem State.setReg_sec (s : State) (off : Nat) (w : Word32) : (s.setReg off w).sec = s.sec := rfl
@[simp] theorem State.setReg_dram (s : State) (off : Nat) (w : Word32) : (s.setReg off w).dram = s.dram := rfl
@[simp] theorem State.setReg_dramSize (s : State) (off : Nat) (w : Word32) : (s.setReg off w).dramSize = s.dramSize := rfl
@[simp] theorem State.setReg_dramErr (s : State) (off : Nat) (w : Word32) : (s.setReg off w).dramErr = s.dramErr := rfl
@[simp] theorem State.setReg_bootFlash (s : State) (off : Nat) (w : Word32) : (s.setReg off w).bootFlash = s.bootFlash := rfl
@[simp] theorem State.setReg_free (s : State) (off : Nat) (w : Word32) : (s.setReg off w).free = s.free := rfl

/-! ## State.setCore -/

@[simp] theorem State.setCore_pending (s : State) (c : CoreId) (k : Core) : (s.setCore c k).pending = s.pending := rfl
@[simp] theorem State.setCore_part (s : State) (c : CoreId) (k : Core) : (s.setCore c k).part = s.part := rfl
@[simp] theorem State.setCore_gtc (s : State) (c : CoreId) (k : Core) : (s.setCore c k).gtc = s.gtc := rfl
@[simp] theorem State.setCore_regs (s : State) (c : CoreId) (k : Core) : (s.setCore c k).regs = s.regs := rfl
@[simp] theorem State.setCore_errSnap (s : State) (c : CoreId) (k : Core) : (s.setCore c k).errSnap = s.errSnap := rfl
@[simp] theorem State.setCore_events (s : State) (c : CoreId) (k : Core) : (s.setCore c k).events = s.events := rfl
@[simp] theorem State.setCore_eventSnap (s : State) (c : CoreId) (k : Core) : (s.setCore c k).eventSnap = s.eventSnap := rfl
@[simp] theorem State.setCore_fltLog (s : State) (c : CoreId) (k : Core) : (s.setCore c k).fltLog = s.fltLog := rfl
@[simp] theorem State.setCore_letters (s : State) (c : CoreId) (k : Core) : (s.setCore c k).letters = s.letters := rfl
@[simp] theorem State.setCore_letters1 (s : State) (c : CoreId) (k : Core) : (s.setCore c k).letters1 = s.letters1 := rfl
@[simp] theorem State.setCore_msix (s : State) (c : CoreId) (k : Core) : (s.setCore c k).msix = s.msix := rfl
@[simp] theorem State.setCore_trace (s : State) (c : CoreId) (k : Core) : (s.setCore c k).trace = s.trace := rfl
@[simp] theorem State.setCore_dap (s : State) (c : CoreId) (k : Core) : (s.setCore c k).dap = s.dap := rfl
@[simp] theorem State.setCore_cores (s : State) (c : CoreId) (k : Core) :
    (s.setCore c k).cores = s.cores.set c k := rfl
@[simp] theorem State.setCore_rings (s : State) (c : CoreId) (k : Core) : (s.setCore c k).rings = s.rings := rfl
@[simp] theorem State.setCore_turns (s : State) (c : CoreId) (k : Core) : (s.setCore c k).turns = s.turns := rfl
@[simp] theorem State.setCore_taken (s : State) (c : CoreId) (k : Core) : (s.setCore c k).taken = s.taken := rfl
@[simp] theorem State.setCore_qct (s : State) (c : CoreId) (k : Core) : (s.setCore c k).qct = s.qct := rfl
@[simp] theorem State.setCore_recipes (s : State) (c : CoreId) (k : Core) : (s.setCore c k).recipes = s.recipes := rfl
@[simp] theorem State.setCore_host (s : State) (c : CoreId) (k : Core) : (s.setCore c k).host = s.host := rfl
@[simp] theorem State.setCore_flash (s : State) (c : CoreId) (k : Core) : (s.setCore c k).flash = s.flash := rfl
@[simp] theorem State.setCore_ftl (s : State) (c : CoreId) (k : Core) : (s.setCore c k).ftl = s.ftl := rfl
@[simp] theorem State.setCore_fetch (s : State) (c : CoreId) (k : Core) : (s.setCore c k).fetch = s.fetch := rfl
@[simp] theorem State.setCore_mash (s : State) (c : CoreId) (k : Core) : (s.setCore c k).mash = s.mash := rfl
@[simp] theorem State.setCore_sets (s : State) (c : CoreId) (k : Core) : (s.setCore c k).sets = s.sets := rfl
@[simp] theorem State.setCore_vocabs (s : State) (c : CoreId) (k : Core) : (s.setCore c k).vocabs = s.vocabs := rfl
@[simp] theorem State.setCore_texts (s : State) (c : CoreId) (k : Core) : (s.setCore c k).texts = s.texts := rfl
@[simp] theorem State.setCore_store (s : State) (c : CoreId) (k : Core) : (s.setCore c k).store = s.store := rfl
@[simp] theorem State.setCore_net (s : State) (c : CoreId) (k : Core) : (s.setCore c k).net = s.net := rfl
@[simp] theorem State.setCore_system (s : State) (c : CoreId) (k : Core) : (s.setCore c k).system = s.system := rfl
@[simp] theorem State.setCore_power (s : State) (c : CoreId) (k : Core) : (s.setCore c k).power = s.power := rfl
@[simp] theorem State.setCore_fault (s : State) (c : CoreId) (k : Core) : (s.setCore c k).fault = s.fault := rfl
@[simp] theorem State.setCore_sec (s : State) (c : CoreId) (k : Core) : (s.setCore c k).sec = s.sec := rfl
@[simp] theorem State.setCore_dram (s : State) (c : CoreId) (k : Core) : (s.setCore c k).dram = s.dram := rfl
@[simp] theorem State.setCore_dramSize (s : State) (c : CoreId) (k : Core) : (s.setCore c k).dramSize = s.dramSize := rfl
@[simp] theorem State.setCore_dramErr (s : State) (c : CoreId) (k : Core) : (s.setCore c k).dramErr = s.dramErr := rfl
@[simp] theorem State.setCore_bootFlash (s : State) (c : CoreId) (k : Core) : (s.setCore c k).bootFlash = s.bootFlash := rfl
@[simp] theorem State.setCore_free (s : State) (c : CoreId) (k : Core) : (s.setCore c k).free = s.free := rfl

/-! ## State.setRing -/

@[simp] theorem State.setRing_pending (s : State) (cls ring : Nat) (r : Ring) : (s.setRing cls ring r).pending = s.pending := rfl
@[simp] theorem State.setRing_part (s : State) (cls ring : Nat) (r : Ring) : (s.setRing cls ring r).part = s.part := rfl
@[simp] theorem State.setRing_gtc (s : State) (cls ring : Nat) (r : Ring) : (s.setRing cls ring r).gtc = s.gtc := rfl
@[simp] theorem State.setRing_regs (s : State) (cls ring : Nat) (r : Ring) : (s.setRing cls ring r).regs = s.regs := rfl
@[simp] theorem State.setRing_errSnap (s : State) (cls ring : Nat) (r : Ring) : (s.setRing cls ring r).errSnap = s.errSnap := rfl
@[simp] theorem State.setRing_events (s : State) (cls ring : Nat) (r : Ring) : (s.setRing cls ring r).events = s.events := rfl
@[simp] theorem State.setRing_eventSnap (s : State) (cls ring : Nat) (r : Ring) : (s.setRing cls ring r).eventSnap = s.eventSnap := rfl
@[simp] theorem State.setRing_fltLog (s : State) (cls ring : Nat) (r : Ring) : (s.setRing cls ring r).fltLog = s.fltLog := rfl
@[simp] theorem State.setRing_letters (s : State) (cls ring : Nat) (r : Ring) : (s.setRing cls ring r).letters = s.letters := rfl
@[simp] theorem State.setRing_letters1 (s : State) (cls ring : Nat) (r : Ring) : (s.setRing cls ring r).letters1 = s.letters1 := rfl
@[simp] theorem State.setRing_msix (s : State) (cls ring : Nat) (r : Ring) : (s.setRing cls ring r).msix = s.msix := rfl
@[simp] theorem State.setRing_trace (s : State) (cls ring : Nat) (r : Ring) : (s.setRing cls ring r).trace = s.trace := rfl
@[simp] theorem State.setRing_dap (s : State) (cls ring : Nat) (r : Ring) : (s.setRing cls ring r).dap = s.dap := rfl
@[simp] theorem State.setRing_cores (s : State) (cls ring : Nat) (r : Ring) : (s.setRing cls ring r).cores = s.cores := rfl
@[simp] theorem State.setRing_rings (s : State) (cls ring : Nat) (r : Ring) :
    (s.setRing cls ring r).rings = Table.write Ring.reset s.rings (ringKey cls ring) r := rfl
@[simp] theorem State.setRing_turns (s : State) (cls ring : Nat) (r : Ring) : (s.setRing cls ring r).turns = s.turns := rfl
@[simp] theorem State.setRing_taken (s : State) (cls ring : Nat) (r : Ring) : (s.setRing cls ring r).taken = s.taken := rfl
@[simp] theorem State.setRing_qct (s : State) (cls ring : Nat) (r : Ring) : (s.setRing cls ring r).qct = s.qct := rfl
@[simp] theorem State.setRing_recipes (s : State) (cls ring : Nat) (r : Ring) : (s.setRing cls ring r).recipes = s.recipes := rfl
@[simp] theorem State.setRing_host (s : State) (cls ring : Nat) (r : Ring) : (s.setRing cls ring r).host = s.host := rfl
@[simp] theorem State.setRing_flash (s : State) (cls ring : Nat) (r : Ring) : (s.setRing cls ring r).flash = s.flash := rfl
@[simp] theorem State.setRing_ftl (s : State) (cls ring : Nat) (r : Ring) : (s.setRing cls ring r).ftl = s.ftl := rfl
@[simp] theorem State.setRing_fetch (s : State) (cls ring : Nat) (r : Ring) : (s.setRing cls ring r).fetch = s.fetch := rfl
@[simp] theorem State.setRing_mash (s : State) (cls ring : Nat) (r : Ring) : (s.setRing cls ring r).mash = s.mash := rfl
@[simp] theorem State.setRing_sets (s : State) (cls ring : Nat) (r : Ring) : (s.setRing cls ring r).sets = s.sets := rfl
@[simp] theorem State.setRing_vocabs (s : State) (cls ring : Nat) (r : Ring) : (s.setRing cls ring r).vocabs = s.vocabs := rfl
@[simp] theorem State.setRing_texts (s : State) (cls ring : Nat) (r : Ring) : (s.setRing cls ring r).texts = s.texts := rfl
@[simp] theorem State.setRing_store (s : State) (cls ring : Nat) (r : Ring) : (s.setRing cls ring r).store = s.store := rfl
@[simp] theorem State.setRing_net (s : State) (cls ring : Nat) (r : Ring) : (s.setRing cls ring r).net = s.net := rfl
@[simp] theorem State.setRing_system (s : State) (cls ring : Nat) (r : Ring) : (s.setRing cls ring r).system = s.system := rfl
@[simp] theorem State.setRing_power (s : State) (cls ring : Nat) (r : Ring) : (s.setRing cls ring r).power = s.power := rfl
@[simp] theorem State.setRing_fault (s : State) (cls ring : Nat) (r : Ring) : (s.setRing cls ring r).fault = s.fault := rfl
@[simp] theorem State.setRing_sec (s : State) (cls ring : Nat) (r : Ring) : (s.setRing cls ring r).sec = s.sec := rfl
@[simp] theorem State.setRing_dram (s : State) (cls ring : Nat) (r : Ring) : (s.setRing cls ring r).dram = s.dram := rfl
@[simp] theorem State.setRing_dramSize (s : State) (cls ring : Nat) (r : Ring) : (s.setRing cls ring r).dramSize = s.dramSize := rfl
@[simp] theorem State.setRing_dramErr (s : State) (cls ring : Nat) (r : Ring) : (s.setRing cls ring r).dramErr = s.dramErr := rfl
@[simp] theorem State.setRing_bootFlash (s : State) (cls ring : Nat) (r : Ring) : (s.setRing cls ring r).bootFlash = s.bootFlash := rfl
@[simp] theorem State.setRing_free (s : State) (cls ring : Nat) (r : Ring) : (s.setRing cls ring r).free = s.free := rfl

/-! ## State.setDap -/

@[simp] theorem State.setDap_pending (s : State) (d : Dap) : (s.setDap d).pending = s.pending := rfl
@[simp] theorem State.setDap_part (s : State) (d : Dap) : (s.setDap d).part = s.part := rfl
@[simp] theorem State.setDap_gtc (s : State) (d : Dap) : (s.setDap d).gtc = s.gtc := rfl
@[simp] theorem State.setDap_regs (s : State) (d : Dap) : (s.setDap d).regs = s.regs := rfl
@[simp] theorem State.setDap_errSnap (s : State) (d : Dap) : (s.setDap d).errSnap = s.errSnap := rfl
@[simp] theorem State.setDap_events (s : State) (d : Dap) : (s.setDap d).events = s.events := rfl
@[simp] theorem State.setDap_eventSnap (s : State) (d : Dap) : (s.setDap d).eventSnap = s.eventSnap := rfl
@[simp] theorem State.setDap_fltLog (s : State) (d : Dap) : (s.setDap d).fltLog = s.fltLog := rfl
@[simp] theorem State.setDap_letters (s : State) (d : Dap) : (s.setDap d).letters = s.letters := rfl
@[simp] theorem State.setDap_letters1 (s : State) (d : Dap) : (s.setDap d).letters1 = s.letters1 := rfl
@[simp] theorem State.setDap_msix (s : State) (d : Dap) : (s.setDap d).msix = s.msix := rfl
@[simp] theorem State.setDap_trace (s : State) (d : Dap) : (s.setDap d).trace = s.trace := rfl
@[simp] theorem State.setDap_dap (s : State) (d : Dap) :
    (s.setDap d).dap = d := rfl
@[simp] theorem State.setDap_cores (s : State) (d : Dap) : (s.setDap d).cores = s.cores := rfl
@[simp] theorem State.setDap_rings (s : State) (d : Dap) : (s.setDap d).rings = s.rings := rfl
@[simp] theorem State.setDap_turns (s : State) (d : Dap) : (s.setDap d).turns = s.turns := rfl
@[simp] theorem State.setDap_taken (s : State) (d : Dap) : (s.setDap d).taken = s.taken := rfl
@[simp] theorem State.setDap_qct (s : State) (d : Dap) : (s.setDap d).qct = s.qct := rfl
@[simp] theorem State.setDap_recipes (s : State) (d : Dap) : (s.setDap d).recipes = s.recipes := rfl
@[simp] theorem State.setDap_host (s : State) (d : Dap) : (s.setDap d).host = s.host := rfl
@[simp] theorem State.setDap_flash (s : State) (d : Dap) : (s.setDap d).flash = s.flash := rfl
@[simp] theorem State.setDap_ftl (s : State) (d : Dap) : (s.setDap d).ftl = s.ftl := rfl
@[simp] theorem State.setDap_fetch (s : State) (d : Dap) : (s.setDap d).fetch = s.fetch := rfl
@[simp] theorem State.setDap_mash (s : State) (d : Dap) : (s.setDap d).mash = s.mash := rfl
@[simp] theorem State.setDap_sets (s : State) (d : Dap) : (s.setDap d).sets = s.sets := rfl
@[simp] theorem State.setDap_vocabs (s : State) (d : Dap) : (s.setDap d).vocabs = s.vocabs := rfl
@[simp] theorem State.setDap_texts (s : State) (d : Dap) : (s.setDap d).texts = s.texts := rfl
@[simp] theorem State.setDap_store (s : State) (d : Dap) : (s.setDap d).store = s.store := rfl
@[simp] theorem State.setDap_net (s : State) (d : Dap) : (s.setDap d).net = s.net := rfl
@[simp] theorem State.setDap_system (s : State) (d : Dap) : (s.setDap d).system = s.system := rfl
@[simp] theorem State.setDap_power (s : State) (d : Dap) : (s.setDap d).power = s.power := rfl
@[simp] theorem State.setDap_fault (s : State) (d : Dap) : (s.setDap d).fault = s.fault := rfl
@[simp] theorem State.setDap_sec (s : State) (d : Dap) : (s.setDap d).sec = s.sec := rfl
@[simp] theorem State.setDap_dram (s : State) (d : Dap) : (s.setDap d).dram = s.dram := rfl
@[simp] theorem State.setDap_dramSize (s : State) (d : Dap) : (s.setDap d).dramSize = s.dramSize := rfl
@[simp] theorem State.setDap_dramErr (s : State) (d : Dap) : (s.setDap d).dramErr = s.dramErr := rfl
@[simp] theorem State.setDap_bootFlash (s : State) (d : Dap) : (s.setDap d).bootFlash = s.bootFlash := rfl
@[simp] theorem State.setDap_free (s : State) (d : Dap) : (s.setDap d).free = s.free := rfl

/-! ## State.setPower -/

@[simp] theorem State.setPower_pending (s : State) (x : Power) : (s.setPower x).pending = s.pending := rfl
@[simp] theorem State.setPower_part (s : State) (x : Power) : (s.setPower x).part = s.part := rfl
@[simp] theorem State.setPower_gtc (s : State) (x : Power) : (s.setPower x).gtc = s.gtc := rfl
@[simp] theorem State.setPower_regs (s : State) (x : Power) : (s.setPower x).regs = s.regs := rfl
@[simp] theorem State.setPower_errSnap (s : State) (x : Power) : (s.setPower x).errSnap = s.errSnap := rfl
@[simp] theorem State.setPower_events (s : State) (x : Power) : (s.setPower x).events = s.events := rfl
@[simp] theorem State.setPower_eventSnap (s : State) (x : Power) : (s.setPower x).eventSnap = s.eventSnap := rfl
@[simp] theorem State.setPower_fltLog (s : State) (x : Power) : (s.setPower x).fltLog = s.fltLog := rfl
@[simp] theorem State.setPower_letters (s : State) (x : Power) : (s.setPower x).letters = s.letters := rfl
@[simp] theorem State.setPower_letters1 (s : State) (x : Power) : (s.setPower x).letters1 = s.letters1 := rfl
@[simp] theorem State.setPower_msix (s : State) (x : Power) : (s.setPower x).msix = s.msix := rfl
@[simp] theorem State.setPower_trace (s : State) (x : Power) : (s.setPower x).trace = s.trace := rfl
@[simp] theorem State.setPower_dap (s : State) (x : Power) : (s.setPower x).dap = s.dap := rfl
@[simp] theorem State.setPower_cores (s : State) (x : Power) : (s.setPower x).cores = s.cores := rfl
@[simp] theorem State.setPower_rings (s : State) (x : Power) : (s.setPower x).rings = s.rings := rfl
@[simp] theorem State.setPower_turns (s : State) (x : Power) : (s.setPower x).turns = s.turns := rfl
@[simp] theorem State.setPower_taken (s : State) (x : Power) : (s.setPower x).taken = s.taken := rfl
@[simp] theorem State.setPower_qct (s : State) (x : Power) : (s.setPower x).qct = s.qct := rfl
@[simp] theorem State.setPower_recipes (s : State) (x : Power) : (s.setPower x).recipes = s.recipes := rfl
@[simp] theorem State.setPower_host (s : State) (x : Power) : (s.setPower x).host = s.host := rfl
@[simp] theorem State.setPower_flash (s : State) (x : Power) : (s.setPower x).flash = s.flash := rfl
@[simp] theorem State.setPower_ftl (s : State) (x : Power) : (s.setPower x).ftl = s.ftl := rfl
@[simp] theorem State.setPower_fetch (s : State) (x : Power) : (s.setPower x).fetch = s.fetch := rfl
@[simp] theorem State.setPower_mash (s : State) (x : Power) : (s.setPower x).mash = s.mash := rfl
@[simp] theorem State.setPower_sets (s : State) (x : Power) : (s.setPower x).sets = s.sets := rfl
@[simp] theorem State.setPower_vocabs (s : State) (x : Power) : (s.setPower x).vocabs = s.vocabs := rfl
@[simp] theorem State.setPower_texts (s : State) (x : Power) : (s.setPower x).texts = s.texts := rfl
@[simp] theorem State.setPower_store (s : State) (x : Power) : (s.setPower x).store = s.store := rfl
@[simp] theorem State.setPower_net (s : State) (x : Power) : (s.setPower x).net = s.net := rfl
@[simp] theorem State.setPower_system (s : State) (x : Power) : (s.setPower x).system = s.system := rfl
@[simp] theorem State.setPower_power (s : State) (x : Power) :
    (s.setPower x).power = x := rfl
@[simp] theorem State.setPower_fault (s : State) (x : Power) : (s.setPower x).fault = s.fault := rfl
@[simp] theorem State.setPower_sec (s : State) (x : Power) : (s.setPower x).sec = s.sec := rfl
@[simp] theorem State.setPower_dram (s : State) (x : Power) : (s.setPower x).dram = s.dram := rfl
@[simp] theorem State.setPower_dramSize (s : State) (x : Power) : (s.setPower x).dramSize = s.dramSize := rfl
@[simp] theorem State.setPower_dramErr (s : State) (x : Power) : (s.setPower x).dramErr = s.dramErr := rfl
@[simp] theorem State.setPower_bootFlash (s : State) (x : Power) : (s.setPower x).bootFlash = s.bootFlash := rfl
@[simp] theorem State.setPower_free (s : State) (x : Power) : (s.setPower x).free = s.free := rfl

/-! ## State.setSec -/

@[simp] theorem State.setSec_pending (s : State) (x : Sec) : (s.setSec x).pending = s.pending := rfl
@[simp] theorem State.setSec_part (s : State) (x : Sec) : (s.setSec x).part = s.part := rfl
@[simp] theorem State.setSec_gtc (s : State) (x : Sec) : (s.setSec x).gtc = s.gtc := rfl
@[simp] theorem State.setSec_regs (s : State) (x : Sec) : (s.setSec x).regs = s.regs := rfl
@[simp] theorem State.setSec_errSnap (s : State) (x : Sec) : (s.setSec x).errSnap = s.errSnap := rfl
@[simp] theorem State.setSec_events (s : State) (x : Sec) : (s.setSec x).events = s.events := rfl
@[simp] theorem State.setSec_eventSnap (s : State) (x : Sec) : (s.setSec x).eventSnap = s.eventSnap := rfl
@[simp] theorem State.setSec_fltLog (s : State) (x : Sec) : (s.setSec x).fltLog = s.fltLog := rfl
@[simp] theorem State.setSec_letters (s : State) (x : Sec) : (s.setSec x).letters = s.letters := rfl
@[simp] theorem State.setSec_letters1 (s : State) (x : Sec) : (s.setSec x).letters1 = s.letters1 := rfl
@[simp] theorem State.setSec_msix (s : State) (x : Sec) : (s.setSec x).msix = s.msix := rfl
@[simp] theorem State.setSec_trace (s : State) (x : Sec) : (s.setSec x).trace = s.trace := rfl
@[simp] theorem State.setSec_dap (s : State) (x : Sec) : (s.setSec x).dap = s.dap := rfl
@[simp] theorem State.setSec_cores (s : State) (x : Sec) : (s.setSec x).cores = s.cores := rfl
@[simp] theorem State.setSec_rings (s : State) (x : Sec) : (s.setSec x).rings = s.rings := rfl
@[simp] theorem State.setSec_turns (s : State) (x : Sec) : (s.setSec x).turns = s.turns := rfl
@[simp] theorem State.setSec_taken (s : State) (x : Sec) : (s.setSec x).taken = s.taken := rfl
@[simp] theorem State.setSec_qct (s : State) (x : Sec) : (s.setSec x).qct = s.qct := rfl
@[simp] theorem State.setSec_recipes (s : State) (x : Sec) : (s.setSec x).recipes = s.recipes := rfl
@[simp] theorem State.setSec_host (s : State) (x : Sec) : (s.setSec x).host = s.host := rfl
@[simp] theorem State.setSec_flash (s : State) (x : Sec) : (s.setSec x).flash = s.flash := rfl
@[simp] theorem State.setSec_ftl (s : State) (x : Sec) : (s.setSec x).ftl = s.ftl := rfl
@[simp] theorem State.setSec_fetch (s : State) (x : Sec) : (s.setSec x).fetch = s.fetch := rfl
@[simp] theorem State.setSec_mash (s : State) (x : Sec) : (s.setSec x).mash = s.mash := rfl
@[simp] theorem State.setSec_sets (s : State) (x : Sec) : (s.setSec x).sets = s.sets := rfl
@[simp] theorem State.setSec_vocabs (s : State) (x : Sec) : (s.setSec x).vocabs = s.vocabs := rfl
@[simp] theorem State.setSec_texts (s : State) (x : Sec) : (s.setSec x).texts = s.texts := rfl
@[simp] theorem State.setSec_store (s : State) (x : Sec) : (s.setSec x).store = s.store := rfl
@[simp] theorem State.setSec_net (s : State) (x : Sec) : (s.setSec x).net = s.net := rfl
@[simp] theorem State.setSec_system (s : State) (x : Sec) : (s.setSec x).system = s.system := rfl
@[simp] theorem State.setSec_power (s : State) (x : Sec) : (s.setSec x).power = s.power := rfl
@[simp] theorem State.setSec_fault (s : State) (x : Sec) : (s.setSec x).fault = s.fault := rfl
@[simp] theorem State.setSec_sec (s : State) (x : Sec) :
    (s.setSec x).sec = x := rfl
@[simp] theorem State.setSec_dram (s : State) (x : Sec) : (s.setSec x).dram = s.dram := rfl
@[simp] theorem State.setSec_dramSize (s : State) (x : Sec) : (s.setSec x).dramSize = s.dramSize := rfl
@[simp] theorem State.setSec_dramErr (s : State) (x : Sec) : (s.setSec x).dramErr = s.dramErr := rfl
@[simp] theorem State.setSec_bootFlash (s : State) (x : Sec) : (s.setSec x).bootFlash = s.bootFlash := rfl
@[simp] theorem State.setSec_free (s : State) (x : Sec) : (s.setSec x).free = s.free := rfl

/-! ## State.setSystem -/

@[simp] theorem State.setSystem_pending (s : State) (x : System) : (s.setSystem x).pending = s.pending := rfl
@[simp] theorem State.setSystem_part (s : State) (x : System) : (s.setSystem x).part = s.part := rfl
@[simp] theorem State.setSystem_gtc (s : State) (x : System) : (s.setSystem x).gtc = s.gtc := rfl
@[simp] theorem State.setSystem_regs (s : State) (x : System) : (s.setSystem x).regs = s.regs := rfl
@[simp] theorem State.setSystem_errSnap (s : State) (x : System) : (s.setSystem x).errSnap = s.errSnap := rfl
@[simp] theorem State.setSystem_events (s : State) (x : System) : (s.setSystem x).events = s.events := rfl
@[simp] theorem State.setSystem_eventSnap (s : State) (x : System) : (s.setSystem x).eventSnap = s.eventSnap := rfl
@[simp] theorem State.setSystem_fltLog (s : State) (x : System) : (s.setSystem x).fltLog = s.fltLog := rfl
@[simp] theorem State.setSystem_letters (s : State) (x : System) : (s.setSystem x).letters = s.letters := rfl
@[simp] theorem State.setSystem_letters1 (s : State) (x : System) : (s.setSystem x).letters1 = s.letters1 := rfl
@[simp] theorem State.setSystem_msix (s : State) (x : System) : (s.setSystem x).msix = s.msix := rfl
@[simp] theorem State.setSystem_trace (s : State) (x : System) : (s.setSystem x).trace = s.trace := rfl
@[simp] theorem State.setSystem_dap (s : State) (x : System) : (s.setSystem x).dap = s.dap := rfl
@[simp] theorem State.setSystem_cores (s : State) (x : System) : (s.setSystem x).cores = s.cores := rfl
@[simp] theorem State.setSystem_rings (s : State) (x : System) : (s.setSystem x).rings = s.rings := rfl
@[simp] theorem State.setSystem_turns (s : State) (x : System) : (s.setSystem x).turns = s.turns := rfl
@[simp] theorem State.setSystem_taken (s : State) (x : System) : (s.setSystem x).taken = s.taken := rfl
@[simp] theorem State.setSystem_qct (s : State) (x : System) : (s.setSystem x).qct = s.qct := rfl
@[simp] theorem State.setSystem_recipes (s : State) (x : System) : (s.setSystem x).recipes = s.recipes := rfl
@[simp] theorem State.setSystem_host (s : State) (x : System) : (s.setSystem x).host = s.host := rfl
@[simp] theorem State.setSystem_flash (s : State) (x : System) : (s.setSystem x).flash = s.flash := rfl
@[simp] theorem State.setSystem_ftl (s : State) (x : System) : (s.setSystem x).ftl = s.ftl := rfl
@[simp] theorem State.setSystem_fetch (s : State) (x : System) : (s.setSystem x).fetch = s.fetch := rfl
@[simp] theorem State.setSystem_mash (s : State) (x : System) : (s.setSystem x).mash = s.mash := rfl
@[simp] theorem State.setSystem_sets (s : State) (x : System) : (s.setSystem x).sets = s.sets := rfl
@[simp] theorem State.setSystem_vocabs (s : State) (x : System) : (s.setSystem x).vocabs = s.vocabs := rfl
@[simp] theorem State.setSystem_texts (s : State) (x : System) : (s.setSystem x).texts = s.texts := rfl
@[simp] theorem State.setSystem_store (s : State) (x : System) : (s.setSystem x).store = s.store := rfl
@[simp] theorem State.setSystem_net (s : State) (x : System) : (s.setSystem x).net = s.net := rfl
@[simp] theorem State.setSystem_system (s : State) (x : System) :
    (s.setSystem x).system = x := rfl
@[simp] theorem State.setSystem_power (s : State) (x : System) : (s.setSystem x).power = s.power := rfl
@[simp] theorem State.setSystem_fault (s : State) (x : System) : (s.setSystem x).fault = s.fault := rfl
@[simp] theorem State.setSystem_sec (s : State) (x : System) : (s.setSystem x).sec = s.sec := rfl
@[simp] theorem State.setSystem_dram (s : State) (x : System) : (s.setSystem x).dram = s.dram := rfl
@[simp] theorem State.setSystem_dramSize (s : State) (x : System) : (s.setSystem x).dramSize = s.dramSize := rfl
@[simp] theorem State.setSystem_dramErr (s : State) (x : System) : (s.setSystem x).dramErr = s.dramErr := rfl
@[simp] theorem State.setSystem_bootFlash (s : State) (x : System) : (s.setSystem x).bootFlash = s.bootFlash := rfl
@[simp] theorem State.setSystem_free (s : State) (x : System) : (s.setSystem x).free = s.free := rfl

/-! ## State.setQp -/

@[simp] theorem State.setQp_pending (s : State) (qcn : Nat) (q : Qp) : (s.setQp qcn q).pending = s.pending := rfl
@[simp] theorem State.setQp_part (s : State) (qcn : Nat) (q : Qp) : (s.setQp qcn q).part = s.part := rfl
@[simp] theorem State.setQp_gtc (s : State) (qcn : Nat) (q : Qp) : (s.setQp qcn q).gtc = s.gtc := rfl
@[simp] theorem State.setQp_regs (s : State) (qcn : Nat) (q : Qp) : (s.setQp qcn q).regs = s.regs := rfl
@[simp] theorem State.setQp_errSnap (s : State) (qcn : Nat) (q : Qp) : (s.setQp qcn q).errSnap = s.errSnap := rfl
@[simp] theorem State.setQp_events (s : State) (qcn : Nat) (q : Qp) : (s.setQp qcn q).events = s.events := rfl
@[simp] theorem State.setQp_eventSnap (s : State) (qcn : Nat) (q : Qp) : (s.setQp qcn q).eventSnap = s.eventSnap := rfl
@[simp] theorem State.setQp_fltLog (s : State) (qcn : Nat) (q : Qp) : (s.setQp qcn q).fltLog = s.fltLog := rfl
@[simp] theorem State.setQp_letters (s : State) (qcn : Nat) (q : Qp) : (s.setQp qcn q).letters = s.letters := rfl
@[simp] theorem State.setQp_letters1 (s : State) (qcn : Nat) (q : Qp) : (s.setQp qcn q).letters1 = s.letters1 := rfl
@[simp] theorem State.setQp_msix (s : State) (qcn : Nat) (q : Qp) : (s.setQp qcn q).msix = s.msix := rfl
@[simp] theorem State.setQp_trace (s : State) (qcn : Nat) (q : Qp) : (s.setQp qcn q).trace = s.trace := rfl
@[simp] theorem State.setQp_dap (s : State) (qcn : Nat) (q : Qp) : (s.setQp qcn q).dap = s.dap := rfl
@[simp] theorem State.setQp_cores (s : State) (qcn : Nat) (q : Qp) : (s.setQp qcn q).cores = s.cores := rfl
@[simp] theorem State.setQp_rings (s : State) (qcn : Nat) (q : Qp) : (s.setQp qcn q).rings = s.rings := rfl
@[simp] theorem State.setQp_turns (s : State) (qcn : Nat) (q : Qp) : (s.setQp qcn q).turns = s.turns := rfl
@[simp] theorem State.setQp_taken (s : State) (qcn : Nat) (q : Qp) : (s.setQp qcn q).taken = s.taken := rfl
@[simp] theorem State.setQp_qct (s : State) (qcn : Nat) (q : Qp) : (s.setQp qcn q).qct = s.qct := rfl
@[simp] theorem State.setQp_recipes (s : State) (qcn : Nat) (q : Qp) : (s.setQp qcn q).recipes = s.recipes := rfl
@[simp] theorem State.setQp_host (s : State) (qcn : Nat) (q : Qp) : (s.setQp qcn q).host = s.host := rfl
@[simp] theorem State.setQp_flash (s : State) (qcn : Nat) (q : Qp) : (s.setQp qcn q).flash = s.flash := rfl
@[simp] theorem State.setQp_ftl (s : State) (qcn : Nat) (q : Qp) : (s.setQp qcn q).ftl = s.ftl := rfl
@[simp] theorem State.setQp_fetch (s : State) (qcn : Nat) (q : Qp) : (s.setQp qcn q).fetch = s.fetch := rfl
@[simp] theorem State.setQp_mash (s : State) (qcn : Nat) (q : Qp) : (s.setQp qcn q).mash = s.mash := rfl
@[simp] theorem State.setQp_sets (s : State) (qcn : Nat) (q : Qp) : (s.setQp qcn q).sets = s.sets := rfl
@[simp] theorem State.setQp_vocabs (s : State) (qcn : Nat) (q : Qp) : (s.setQp qcn q).vocabs = s.vocabs := rfl
@[simp] theorem State.setQp_texts (s : State) (qcn : Nat) (q : Qp) : (s.setQp qcn q).texts = s.texts := rfl
@[simp] theorem State.setQp_store (s : State) (qcn : Nat) (q : Qp) : (s.setQp qcn q).store = s.store := rfl
@[simp] theorem State.setQp_net (s : State) (qcn : Nat) (q : Qp) :
    (s.setQp qcn q).net = { s.net with qps := Table.put s.net.qps qcn q } := rfl
@[simp] theorem State.setQp_system (s : State) (qcn : Nat) (q : Qp) : (s.setQp qcn q).system = s.system := rfl
@[simp] theorem State.setQp_power (s : State) (qcn : Nat) (q : Qp) : (s.setQp qcn q).power = s.power := rfl
@[simp] theorem State.setQp_fault (s : State) (qcn : Nat) (q : Qp) : (s.setQp qcn q).fault = s.fault := rfl
@[simp] theorem State.setQp_sec (s : State) (qcn : Nat) (q : Qp) : (s.setQp qcn q).sec = s.sec := rfl
@[simp] theorem State.setQp_dram (s : State) (qcn : Nat) (q : Qp) : (s.setQp qcn q).dram = s.dram := rfl
@[simp] theorem State.setQp_dramSize (s : State) (qcn : Nat) (q : Qp) : (s.setQp qcn q).dramSize = s.dramSize := rfl
@[simp] theorem State.setQp_dramErr (s : State) (qcn : Nat) (q : Qp) : (s.setQp qcn q).dramErr = s.dramErr := rfl
@[simp] theorem State.setQp_bootFlash (s : State) (qcn : Nat) (q : Qp) : (s.setQp qcn q).bootFlash = s.bootFlash := rfl
@[simp] theorem State.setQp_free (s : State) (qcn : Nat) (q : Qp) : (s.setQp qcn q).free = s.free := rfl

/-! ## State.setDie -/

@[simp] theorem State.setDie_pending (s : State) (d : Nat) (x : Die) : (s.setDie d x).pending = s.pending := rfl
@[simp] theorem State.setDie_part (s : State) (d : Nat) (x : Die) : (s.setDie d x).part = s.part := rfl
@[simp] theorem State.setDie_gtc (s : State) (d : Nat) (x : Die) : (s.setDie d x).gtc = s.gtc := rfl
@[simp] theorem State.setDie_regs (s : State) (d : Nat) (x : Die) : (s.setDie d x).regs = s.regs := rfl
@[simp] theorem State.setDie_errSnap (s : State) (d : Nat) (x : Die) : (s.setDie d x).errSnap = s.errSnap := rfl
@[simp] theorem State.setDie_events (s : State) (d : Nat) (x : Die) : (s.setDie d x).events = s.events := rfl
@[simp] theorem State.setDie_eventSnap (s : State) (d : Nat) (x : Die) : (s.setDie d x).eventSnap = s.eventSnap := rfl
@[simp] theorem State.setDie_fltLog (s : State) (d : Nat) (x : Die) : (s.setDie d x).fltLog = s.fltLog := rfl
@[simp] theorem State.setDie_letters (s : State) (d : Nat) (x : Die) : (s.setDie d x).letters = s.letters := rfl
@[simp] theorem State.setDie_letters1 (s : State) (d : Nat) (x : Die) : (s.setDie d x).letters1 = s.letters1 := rfl
@[simp] theorem State.setDie_msix (s : State) (d : Nat) (x : Die) : (s.setDie d x).msix = s.msix := rfl
@[simp] theorem State.setDie_trace (s : State) (d : Nat) (x : Die) : (s.setDie d x).trace = s.trace := rfl
@[simp] theorem State.setDie_dap (s : State) (d : Nat) (x : Die) : (s.setDie d x).dap = s.dap := rfl
@[simp] theorem State.setDie_cores (s : State) (d : Nat) (x : Die) : (s.setDie d x).cores = s.cores := rfl
@[simp] theorem State.setDie_rings (s : State) (d : Nat) (x : Die) : (s.setDie d x).rings = s.rings := rfl
@[simp] theorem State.setDie_turns (s : State) (d : Nat) (x : Die) : (s.setDie d x).turns = s.turns := rfl
@[simp] theorem State.setDie_taken (s : State) (d : Nat) (x : Die) : (s.setDie d x).taken = s.taken := rfl
@[simp] theorem State.setDie_qct (s : State) (d : Nat) (x : Die) : (s.setDie d x).qct = s.qct := rfl
@[simp] theorem State.setDie_recipes (s : State) (d : Nat) (x : Die) : (s.setDie d x).recipes = s.recipes := rfl
@[simp] theorem State.setDie_host (s : State) (d : Nat) (x : Die) : (s.setDie d x).host = s.host := rfl
@[simp] theorem State.setDie_flash (s : State) (d : Nat) (x : Die) :
    (s.setDie d x).flash = { s.flash with dies := Table.put s.flash.dies d x } := rfl
@[simp] theorem State.setDie_ftl (s : State) (d : Nat) (x : Die) : (s.setDie d x).ftl = s.ftl := rfl
@[simp] theorem State.setDie_fetch (s : State) (d : Nat) (x : Die) : (s.setDie d x).fetch = s.fetch := rfl
@[simp] theorem State.setDie_mash (s : State) (d : Nat) (x : Die) : (s.setDie d x).mash = s.mash := rfl
@[simp] theorem State.setDie_sets (s : State) (d : Nat) (x : Die) : (s.setDie d x).sets = s.sets := rfl
@[simp] theorem State.setDie_vocabs (s : State) (d : Nat) (x : Die) : (s.setDie d x).vocabs = s.vocabs := rfl
@[simp] theorem State.setDie_texts (s : State) (d : Nat) (x : Die) : (s.setDie d x).texts = s.texts := rfl
@[simp] theorem State.setDie_store (s : State) (d : Nat) (x : Die) : (s.setDie d x).store = s.store := rfl
@[simp] theorem State.setDie_net (s : State) (d : Nat) (x : Die) : (s.setDie d x).net = s.net := rfl
@[simp] theorem State.setDie_system (s : State) (d : Nat) (x : Die) : (s.setDie d x).system = s.system := rfl
@[simp] theorem State.setDie_power (s : State) (d : Nat) (x : Die) : (s.setDie d x).power = s.power := rfl
@[simp] theorem State.setDie_fault (s : State) (d : Nat) (x : Die) : (s.setDie d x).fault = s.fault := rfl
@[simp] theorem State.setDie_sec (s : State) (d : Nat) (x : Die) : (s.setDie d x).sec = s.sec := rfl
@[simp] theorem State.setDie_dram (s : State) (d : Nat) (x : Die) : (s.setDie d x).dram = s.dram := rfl
@[simp] theorem State.setDie_dramSize (s : State) (d : Nat) (x : Die) : (s.setDie d x).dramSize = s.dramSize := rfl
@[simp] theorem State.setDie_dramErr (s : State) (d : Nat) (x : Die) : (s.setDie d x).dramErr = s.dramErr := rfl
@[simp] theorem State.setDie_bootFlash (s : State) (d : Nat) (x : Die) : (s.setDie d x).bootFlash = s.bootFlash := rfl
@[simp] theorem State.setDie_free (s : State) (d : Nat) (x : Die) : (s.setDie d x).free = s.free := rfl

/-! ## State.hostWrite -/

@[simp] theorem State.hostWrite_pending (s : State) (a : Nat) (bs : List Byte) : (s.hostWrite a bs).pending = s.pending := rfl
@[simp] theorem State.hostWrite_part (s : State) (a : Nat) (bs : List Byte) : (s.hostWrite a bs).part = s.part := rfl
@[simp] theorem State.hostWrite_gtc (s : State) (a : Nat) (bs : List Byte) : (s.hostWrite a bs).gtc = s.gtc := rfl
@[simp] theorem State.hostWrite_regs (s : State) (a : Nat) (bs : List Byte) : (s.hostWrite a bs).regs = s.regs := rfl
@[simp] theorem State.hostWrite_errSnap (s : State) (a : Nat) (bs : List Byte) : (s.hostWrite a bs).errSnap = s.errSnap := rfl
@[simp] theorem State.hostWrite_events (s : State) (a : Nat) (bs : List Byte) : (s.hostWrite a bs).events = s.events := rfl
@[simp] theorem State.hostWrite_eventSnap (s : State) (a : Nat) (bs : List Byte) : (s.hostWrite a bs).eventSnap = s.eventSnap := rfl
@[simp] theorem State.hostWrite_fltLog (s : State) (a : Nat) (bs : List Byte) : (s.hostWrite a bs).fltLog = s.fltLog := rfl
@[simp] theorem State.hostWrite_letters (s : State) (a : Nat) (bs : List Byte) : (s.hostWrite a bs).letters = s.letters := rfl
@[simp] theorem State.hostWrite_letters1 (s : State) (a : Nat) (bs : List Byte) : (s.hostWrite a bs).letters1 = s.letters1 := rfl
@[simp] theorem State.hostWrite_msix (s : State) (a : Nat) (bs : List Byte) : (s.hostWrite a bs).msix = s.msix := rfl
@[simp] theorem State.hostWrite_trace (s : State) (a : Nat) (bs : List Byte) : (s.hostWrite a bs).trace = s.trace := rfl
@[simp] theorem State.hostWrite_dap (s : State) (a : Nat) (bs : List Byte) : (s.hostWrite a bs).dap = s.dap := rfl
@[simp] theorem State.hostWrite_cores (s : State) (a : Nat) (bs : List Byte) : (s.hostWrite a bs).cores = s.cores := rfl
@[simp] theorem State.hostWrite_rings (s : State) (a : Nat) (bs : List Byte) : (s.hostWrite a bs).rings = s.rings := rfl
@[simp] theorem State.hostWrite_turns (s : State) (a : Nat) (bs : List Byte) : (s.hostWrite a bs).turns = s.turns := rfl
@[simp] theorem State.hostWrite_taken (s : State) (a : Nat) (bs : List Byte) : (s.hostWrite a bs).taken = s.taken := rfl
@[simp] theorem State.hostWrite_qct (s : State) (a : Nat) (bs : List Byte) : (s.hostWrite a bs).qct = s.qct := rfl
@[simp] theorem State.hostWrite_recipes (s : State) (a : Nat) (bs : List Byte) : (s.hostWrite a bs).recipes = s.recipes := rfl
@[simp] theorem State.hostWrite_host (s : State) (a : Nat) (bs : List Byte) :
    (s.hostWrite a bs).host = { s.host with mem := Mem.store s.host.mem a bs } := rfl
@[simp] theorem State.hostWrite_flash (s : State) (a : Nat) (bs : List Byte) : (s.hostWrite a bs).flash = s.flash := rfl
@[simp] theorem State.hostWrite_ftl (s : State) (a : Nat) (bs : List Byte) : (s.hostWrite a bs).ftl = s.ftl := rfl
@[simp] theorem State.hostWrite_fetch (s : State) (a : Nat) (bs : List Byte) : (s.hostWrite a bs).fetch = s.fetch := rfl
@[simp] theorem State.hostWrite_mash (s : State) (a : Nat) (bs : List Byte) : (s.hostWrite a bs).mash = s.mash := rfl
@[simp] theorem State.hostWrite_sets (s : State) (a : Nat) (bs : List Byte) : (s.hostWrite a bs).sets = s.sets := rfl
@[simp] theorem State.hostWrite_vocabs (s : State) (a : Nat) (bs : List Byte) : (s.hostWrite a bs).vocabs = s.vocabs := rfl
@[simp] theorem State.hostWrite_texts (s : State) (a : Nat) (bs : List Byte) : (s.hostWrite a bs).texts = s.texts := rfl
@[simp] theorem State.hostWrite_store (s : State) (a : Nat) (bs : List Byte) : (s.hostWrite a bs).store = s.store := rfl
@[simp] theorem State.hostWrite_net (s : State) (a : Nat) (bs : List Byte) : (s.hostWrite a bs).net = s.net := rfl
@[simp] theorem State.hostWrite_system (s : State) (a : Nat) (bs : List Byte) : (s.hostWrite a bs).system = s.system := rfl
@[simp] theorem State.hostWrite_power (s : State) (a : Nat) (bs : List Byte) : (s.hostWrite a bs).power = s.power := rfl
@[simp] theorem State.hostWrite_fault (s : State) (a : Nat) (bs : List Byte) : (s.hostWrite a bs).fault = s.fault := rfl
@[simp] theorem State.hostWrite_sec (s : State) (a : Nat) (bs : List Byte) : (s.hostWrite a bs).sec = s.sec := rfl
@[simp] theorem State.hostWrite_dram (s : State) (a : Nat) (bs : List Byte) : (s.hostWrite a bs).dram = s.dram := rfl
@[simp] theorem State.hostWrite_dramSize (s : State) (a : Nat) (bs : List Byte) : (s.hostWrite a bs).dramSize = s.dramSize := rfl
@[simp] theorem State.hostWrite_dramErr (s : State) (a : Nat) (bs : List Byte) : (s.hostWrite a bs).dramErr = s.dramErr := rfl
@[simp] theorem State.hostWrite_bootFlash (s : State) (a : Nat) (bs : List Byte) : (s.hostWrite a bs).bootFlash = s.bootFlash := rfl
@[simp] theorem State.hostWrite_free (s : State) (a : Nat) (bs : List Byte) : (s.hostWrite a bs).free = s.free := rfl

/-! ## State.writeDram -/

@[simp] theorem State.writeDram_pending (s : State) (a : Nat) (bs : List Byte) : (s.writeDram a bs).pending = s.pending := rfl
@[simp] theorem State.writeDram_part (s : State) (a : Nat) (bs : List Byte) : (s.writeDram a bs).part = s.part := rfl
@[simp] theorem State.writeDram_gtc (s : State) (a : Nat) (bs : List Byte) : (s.writeDram a bs).gtc = s.gtc := rfl
@[simp] theorem State.writeDram_regs (s : State) (a : Nat) (bs : List Byte) : (s.writeDram a bs).regs = s.regs := rfl
@[simp] theorem State.writeDram_errSnap (s : State) (a : Nat) (bs : List Byte) : (s.writeDram a bs).errSnap = s.errSnap := rfl
@[simp] theorem State.writeDram_events (s : State) (a : Nat) (bs : List Byte) : (s.writeDram a bs).events = s.events := rfl
@[simp] theorem State.writeDram_eventSnap (s : State) (a : Nat) (bs : List Byte) : (s.writeDram a bs).eventSnap = s.eventSnap := rfl
@[simp] theorem State.writeDram_fltLog (s : State) (a : Nat) (bs : List Byte) : (s.writeDram a bs).fltLog = s.fltLog := rfl
@[simp] theorem State.writeDram_letters (s : State) (a : Nat) (bs : List Byte) : (s.writeDram a bs).letters = s.letters := rfl
@[simp] theorem State.writeDram_letters1 (s : State) (a : Nat) (bs : List Byte) : (s.writeDram a bs).letters1 = s.letters1 := rfl
@[simp] theorem State.writeDram_msix (s : State) (a : Nat) (bs : List Byte) : (s.writeDram a bs).msix = s.msix := rfl
@[simp] theorem State.writeDram_trace (s : State) (a : Nat) (bs : List Byte) : (s.writeDram a bs).trace = s.trace := rfl
@[simp] theorem State.writeDram_dap (s : State) (a : Nat) (bs : List Byte) : (s.writeDram a bs).dap = s.dap := rfl
@[simp] theorem State.writeDram_cores (s : State) (a : Nat) (bs : List Byte) : (s.writeDram a bs).cores = s.cores := rfl
@[simp] theorem State.writeDram_rings (s : State) (a : Nat) (bs : List Byte) : (s.writeDram a bs).rings = s.rings := rfl
@[simp] theorem State.writeDram_turns (s : State) (a : Nat) (bs : List Byte) : (s.writeDram a bs).turns = s.turns := rfl
@[simp] theorem State.writeDram_taken (s : State) (a : Nat) (bs : List Byte) : (s.writeDram a bs).taken = s.taken := rfl
@[simp] theorem State.writeDram_qct (s : State) (a : Nat) (bs : List Byte) : (s.writeDram a bs).qct = s.qct := rfl
@[simp] theorem State.writeDram_recipes (s : State) (a : Nat) (bs : List Byte) : (s.writeDram a bs).recipes = s.recipes := rfl
@[simp] theorem State.writeDram_host (s : State) (a : Nat) (bs : List Byte) : (s.writeDram a bs).host = s.host := rfl
@[simp] theorem State.writeDram_flash (s : State) (a : Nat) (bs : List Byte) : (s.writeDram a bs).flash = s.flash := rfl
@[simp] theorem State.writeDram_ftl (s : State) (a : Nat) (bs : List Byte) : (s.writeDram a bs).ftl = s.ftl := rfl
@[simp] theorem State.writeDram_fetch (s : State) (a : Nat) (bs : List Byte) : (s.writeDram a bs).fetch = s.fetch := rfl
@[simp] theorem State.writeDram_mash (s : State) (a : Nat) (bs : List Byte) : (s.writeDram a bs).mash = s.mash := rfl
@[simp] theorem State.writeDram_sets (s : State) (a : Nat) (bs : List Byte) : (s.writeDram a bs).sets = s.sets := rfl
@[simp] theorem State.writeDram_vocabs (s : State) (a : Nat) (bs : List Byte) : (s.writeDram a bs).vocabs = s.vocabs := rfl
@[simp] theorem State.writeDram_texts (s : State) (a : Nat) (bs : List Byte) : (s.writeDram a bs).texts = s.texts := rfl
@[simp] theorem State.writeDram_store (s : State) (a : Nat) (bs : List Byte) : (s.writeDram a bs).store = s.store := rfl
@[simp] theorem State.writeDram_net (s : State) (a : Nat) (bs : List Byte) : (s.writeDram a bs).net = s.net := rfl
@[simp] theorem State.writeDram_system (s : State) (a : Nat) (bs : List Byte) : (s.writeDram a bs).system = s.system := rfl
@[simp] theorem State.writeDram_power (s : State) (a : Nat) (bs : List Byte) : (s.writeDram a bs).power = s.power := rfl
@[simp] theorem State.writeDram_fault (s : State) (a : Nat) (bs : List Byte) : (s.writeDram a bs).fault = s.fault := rfl
@[simp] theorem State.writeDram_sec (s : State) (a : Nat) (bs : List Byte) : (s.writeDram a bs).sec = s.sec := rfl
@[simp] theorem State.writeDram_dram (s : State) (a : Nat) (bs : List Byte) :
    (s.writeDram a bs).dram = Mem.store s.dram a bs := rfl
@[simp] theorem State.writeDram_dramSize (s : State) (a : Nat) (bs : List Byte) : (s.writeDram a bs).dramSize = s.dramSize := rfl
@[simp] theorem State.writeDram_dramErr (s : State) (a : Nat) (bs : List Byte) :
    (s.writeDram a bs).dramErr = s.dramErr.filter (fun w => !(decide (a ≤ w * 8) && decide (w * 8 + 8 ≤ a + bs.length))) := rfl
@[simp] theorem State.writeDram_bootFlash (s : State) (a : Nat) (bs : List Byte) : (s.writeDram a bs).bootFlash = s.bootFlash := rfl
@[simp] theorem State.writeDram_free (s : State) (a : Nat) (bs : List Byte) : (s.writeDram a bs).free = s.free := rfl

/-! ## Core.setReg -/

@[simp] theorem Core.setReg_v (k : Core) (r : RegField) (v : Word64) : (k.setReg r v).v = k.v := by unfold Core.setReg; split <;> rfl
@[simp] theorem Core.setReg_pc (k : Core) (r : RegField) (v : Word64) : (k.setReg r v).pc = k.pc := by unfold Core.setReg; split <;> rfl
@[simp] theorem Core.setReg_fflags (k : Core) (r : RegField) (v : Word64) : (k.setReg r v).fflags = k.fflags := by unfold Core.setReg; split <;> rfl
@[simp] theorem Core.setReg_cycle (k : Core) (r : RegField) (v : Word64) : (k.setReg r v).cycle = k.cycle := by unfold Core.setReg; split <;> rfl
@[simp] theorem Core.setReg_instret (k : Core) (r : RegField) (v : Word64) : (k.setReg r v).instret = k.instret := by unfold Core.setReg; split <;> rfl
@[simp] theorem Core.setReg_status (k : Core) (r : RegField) (v : Word64) : (k.setReg r v).status = k.status := by unfold Core.setReg; split <;> rfl
@[simp] theorem Core.setReg_trapVecS (k : Core) (r : RegField) (v : Word64) : (k.setReg r v).trapVecS = k.trapVecS := by unfold Core.setReg; split <;> rfl
@[simp] theorem Core.setReg_trapPcS (k : Core) (r : RegField) (v : Word64) : (k.setReg r v).trapPcS = k.trapPcS := by unfold Core.setReg; split <;> rfl
@[simp] theorem Core.setReg_trapCauseS (k : Core) (r : RegField) (v : Word64) : (k.setReg r v).trapCauseS = k.trapCauseS := by unfold Core.setReg; split <;> rfl
@[simp] theorem Core.setReg_trapValS (k : Core) (r : RegField) (v : Word64) : (k.setReg r v).trapValS = k.trapValS := by unfold Core.setReg; split <;> rfl
@[simp] theorem Core.setReg_scratchS (k : Core) (r : RegField) (v : Word64) : (k.setReg r v).scratchS = k.scratchS := by unfold Core.setReg; split <;> rfl
@[simp] theorem Core.setReg_trapVecM (k : Core) (r : RegField) (v : Word64) : (k.setReg r v).trapVecM = k.trapVecM := by unfold Core.setReg; split <;> rfl
@[simp] theorem Core.setReg_trapPcM (k : Core) (r : RegField) (v : Word64) : (k.setReg r v).trapPcM = k.trapPcM := by unfold Core.setReg; split <;> rfl
@[simp] theorem Core.setReg_trapCauseM (k : Core) (r : RegField) (v : Word64) : (k.setReg r v).trapCauseM = k.trapCauseM := by unfold Core.setReg; split <;> rfl
@[simp] theorem Core.setReg_trapValM (k : Core) (r : RegField) (v : Word64) : (k.setReg r v).trapValM = k.trapValM := by unfold Core.setReg; split <;> rfl
@[simp] theorem Core.setReg_scratchM (k : Core) (r : RegField) (v : Word64) : (k.setReg r v).scratchM = k.scratchM := by unfold Core.setReg; split <;> rfl
@[simp] theorem Core.setReg_deleg (k : Core) (r : RegField) (v : Word64) : (k.setReg r v).deleg = k.deleg := by unfold Core.setReg; split <;> rfl
@[simp] theorem Core.setReg_irqEn (k : Core) (r : RegField) (v : Word64) : (k.setReg r v).irqEn = k.irqEn := by unfold Core.setReg; split <;> rfl
@[simp] theorem Core.setReg_gtcCmp (k : Core) (r : RegField) (v : Word64) : (k.setReg r v).gtcCmp = k.gtcCmp := by unfold Core.setReg; split <;> rfl
@[simp] theorem Core.setReg_regionU (k : Core) (r : RegField) (v : Word64) : (k.setReg r v).regionU = k.regionU := by unfold Core.setReg; split <;> rfl
@[simp] theorem Core.setReg_regionS (k : Core) (r : RegField) (v : Word64) : (k.setReg r v).regionS = k.regionS := by unfold Core.setReg; split <;> rfl
@[simp] theorem Core.setReg_bpAddr (k : Core) (r : RegField) (v : Word64) : (k.setReg r v).bpAddr = k.bpAddr := by unfold Core.setReg; split <;> rfl
@[simp] theorem Core.setReg_bpCtl (k : Core) (r : RegField) (v : Word64) : (k.setReg r v).bpCtl = k.bpCtl := by unfold Core.setReg; split <;> rfl
@[simp] theorem Core.setReg_wpAddr (k : Core) (r : RegField) (v : Word64) : (k.setReg r v).wpAddr = k.wpAddr := by unfold Core.setReg; split <;> rfl
@[simp] theorem Core.setReg_wpMask (k : Core) (r : RegField) (v : Word64) : (k.setReg r v).wpMask = k.wpMask := by unfold Core.setReg; split <;> rfl
@[simp] theorem Core.setReg_wpCtl (k : Core) (r : RegField) (v : Word64) : (k.setReg r v).wpCtl = k.wpCtl := by unfold Core.setReg; split <;> rfl
@[simp] theorem Core.setReg_halted (k : Core) (r : RegField) (v : Word64) : (k.setReg r v).halted = k.halted := by unfold Core.setReg; split <;> rfl
@[simp] theorem Core.setReg_haltCause (k : Core) (r : RegField) (v : Word64) : (k.setReg r v).haltCause = k.haltCause := by unfold Core.setReg; split <;> rfl
@[simp] theorem Core.setReg_wait (k : Core) (r : RegField) (v : Word64) : (k.setReg r v).wait = k.wait := by unfold Core.setReg; split <;> rfl
@[simp] theorem Core.setReg_duty (k : Core) (r : RegField) (v : Word64) : (k.setReg r v).duty = k.duty := by unfold Core.setReg; split <;> rfl
@[simp] theorem Core.setReg_swi (k : Core) (r : RegField) (v : Word64) : (k.setReg r v).swi = k.swi := by unfold Core.setReg; split <;> rfl
@[simp] theorem Core.setReg_issued (k : Core) (r : RegField) (v : Word64) : (k.setReg r v).issued = k.issued := by unfold Core.setReg; split <;> rfl
@[simp] theorem Core.setReg_tickets (k : Core) (r : RegField) (v : Word64) : (k.setReg r v).tickets = k.tickets := by unfold Core.setReg; split <;> rfl
@[simp] theorem Core.setReg_tki (k : Core) (r : RegField) (v : Word64) : (k.setReg r v).tki = k.tki := by unfold Core.setReg; split <;> rfl
@[simp] theorem Core.setReg_tkiOvf (k : Core) (r : RegField) (v : Word64) : (k.setReg r v).tkiOvf = k.tkiOvf := by unfold Core.setReg; split <;> rfl

/-! ## Core.setVreg -/

@[simp] theorem Core.setVreg_g (k : Core) (r : RegField) (v : VWord) : (k.setVreg r v).g = k.g := rfl
@[simp] theorem Core.setVreg_v (k : Core) (r : RegField) (v : VWord) :
    (k.setVreg r v).v = k.v.set (r.toNat % 16) v (Nat.mod_lt _ (by decide)) := rfl
@[simp] theorem Core.setVreg_pc (k : Core) (r : RegField) (v : VWord) : (k.setVreg r v).pc = k.pc := rfl
@[simp] theorem Core.setVreg_fflags (k : Core) (r : RegField) (v : VWord) : (k.setVreg r v).fflags = k.fflags := rfl
@[simp] theorem Core.setVreg_cycle (k : Core) (r : RegField) (v : VWord) : (k.setVreg r v).cycle = k.cycle := rfl
@[simp] theorem Core.setVreg_instret (k : Core) (r : RegField) (v : VWord) : (k.setVreg r v).instret = k.instret := rfl
@[simp] theorem Core.setVreg_status (k : Core) (r : RegField) (v : VWord) : (k.setVreg r v).status = k.status := rfl
@[simp] theorem Core.setVreg_trapVecS (k : Core) (r : RegField) (v : VWord) : (k.setVreg r v).trapVecS = k.trapVecS := rfl
@[simp] theorem Core.setVreg_trapPcS (k : Core) (r : RegField) (v : VWord) : (k.setVreg r v).trapPcS = k.trapPcS := rfl
@[simp] theorem Core.setVreg_trapCauseS (k : Core) (r : RegField) (v : VWord) : (k.setVreg r v).trapCauseS = k.trapCauseS := rfl
@[simp] theorem Core.setVreg_trapValS (k : Core) (r : RegField) (v : VWord) : (k.setVreg r v).trapValS = k.trapValS := rfl
@[simp] theorem Core.setVreg_scratchS (k : Core) (r : RegField) (v : VWord) : (k.setVreg r v).scratchS = k.scratchS := rfl
@[simp] theorem Core.setVreg_trapVecM (k : Core) (r : RegField) (v : VWord) : (k.setVreg r v).trapVecM = k.trapVecM := rfl
@[simp] theorem Core.setVreg_trapPcM (k : Core) (r : RegField) (v : VWord) : (k.setVreg r v).trapPcM = k.trapPcM := rfl
@[simp] theorem Core.setVreg_trapCauseM (k : Core) (r : RegField) (v : VWord) : (k.setVreg r v).trapCauseM = k.trapCauseM := rfl
@[simp] theorem Core.setVreg_trapValM (k : Core) (r : RegField) (v : VWord) : (k.setVreg r v).trapValM = k.trapValM := rfl
@[simp] theorem Core.setVreg_scratchM (k : Core) (r : RegField) (v : VWord) : (k.setVreg r v).scratchM = k.scratchM := rfl
@[simp] theorem Core.setVreg_deleg (k : Core) (r : RegField) (v : VWord) : (k.setVreg r v).deleg = k.deleg := rfl
@[simp] theorem Core.setVreg_irqEn (k : Core) (r : RegField) (v : VWord) : (k.setVreg r v).irqEn = k.irqEn := rfl
@[simp] theorem Core.setVreg_gtcCmp (k : Core) (r : RegField) (v : VWord) : (k.setVreg r v).gtcCmp = k.gtcCmp := rfl
@[simp] theorem Core.setVreg_regionU (k : Core) (r : RegField) (v : VWord) : (k.setVreg r v).regionU = k.regionU := rfl
@[simp] theorem Core.setVreg_regionS (k : Core) (r : RegField) (v : VWord) : (k.setVreg r v).regionS = k.regionS := rfl
@[simp] theorem Core.setVreg_bpAddr (k : Core) (r : RegField) (v : VWord) : (k.setVreg r v).bpAddr = k.bpAddr := rfl
@[simp] theorem Core.setVreg_bpCtl (k : Core) (r : RegField) (v : VWord) : (k.setVreg r v).bpCtl = k.bpCtl := rfl
@[simp] theorem Core.setVreg_wpAddr (k : Core) (r : RegField) (v : VWord) : (k.setVreg r v).wpAddr = k.wpAddr := rfl
@[simp] theorem Core.setVreg_wpMask (k : Core) (r : RegField) (v : VWord) : (k.setVreg r v).wpMask = k.wpMask := rfl
@[simp] theorem Core.setVreg_wpCtl (k : Core) (r : RegField) (v : VWord) : (k.setVreg r v).wpCtl = k.wpCtl := rfl
@[simp] theorem Core.setVreg_halted (k : Core) (r : RegField) (v : VWord) : (k.setVreg r v).halted = k.halted := rfl
@[simp] theorem Core.setVreg_haltCause (k : Core) (r : RegField) (v : VWord) : (k.setVreg r v).haltCause = k.haltCause := rfl
@[simp] theorem Core.setVreg_wait (k : Core) (r : RegField) (v : VWord) : (k.setVreg r v).wait = k.wait := rfl
@[simp] theorem Core.setVreg_duty (k : Core) (r : RegField) (v : VWord) : (k.setVreg r v).duty = k.duty := rfl
@[simp] theorem Core.setVreg_swi (k : Core) (r : RegField) (v : VWord) : (k.setVreg r v).swi = k.swi := rfl
@[simp] theorem Core.setVreg_issued (k : Core) (r : RegField) (v : VWord) : (k.setVreg r v).issued = k.issued := rfl
@[simp] theorem Core.setVreg_tickets (k : Core) (r : RegField) (v : VWord) : (k.setVreg r v).tickets = k.tickets := rfl
@[simp] theorem Core.setVreg_tki (k : Core) (r : RegField) (v : VWord) : (k.setVreg r v).tki = k.tki := rfl
@[simp] theorem Core.setVreg_tkiOvf (k : Core) (r : RegField) (v : VWord) : (k.setVreg r v).tkiOvf = k.tkiOvf := rfl

/-! ## Core.retireTo -/

@[simp] theorem Core.retireTo_g (k : Core) (c : CoreId) (pc : Word64) : (k.retireTo c pc).g = k.g := rfl
@[simp] theorem Core.retireTo_v (k : Core) (c : CoreId) (pc : Word64) : (k.retireTo c pc).v = k.v := rfl
@[simp] theorem Core.retireTo_pc (k : Core) (c : CoreId) (pc : Word64) : (k.retireTo c pc).pc = pc := rfl
@[simp] theorem Core.retireTo_fflags (k : Core) (c : CoreId) (pc : Word64) : (k.retireTo c pc).fflags = k.fflags := rfl
@[simp] theorem Core.retireTo_cycle (k : Core) (c : CoreId) (pc : Word64) :
    (k.retireTo c pc).cycle = k.cycle + 1 + BitVec.ofNat 64 (Config.cyclesSpent c.val k.instret.toNat) := rfl
@[simp] theorem Core.retireTo_instret (k : Core) (c : CoreId) (pc : Word64) : (k.retireTo c pc).instret = k.instret + 1 := rfl
@[simp] theorem Core.retireTo_status (k : Core) (c : CoreId) (pc : Word64) : (k.retireTo c pc).status = k.status := rfl
@[simp] theorem Core.retireTo_trapVecS (k : Core) (c : CoreId) (pc : Word64) : (k.retireTo c pc).trapVecS = k.trapVecS := rfl
@[simp] theorem Core.retireTo_trapPcS (k : Core) (c : CoreId) (pc : Word64) : (k.retireTo c pc).trapPcS = k.trapPcS := rfl
@[simp] theorem Core.retireTo_trapCauseS (k : Core) (c : CoreId) (pc : Word64) : (k.retireTo c pc).trapCauseS = k.trapCauseS := rfl
@[simp] theorem Core.retireTo_trapValS (k : Core) (c : CoreId) (pc : Word64) : (k.retireTo c pc).trapValS = k.trapValS := rfl
@[simp] theorem Core.retireTo_scratchS (k : Core) (c : CoreId) (pc : Word64) : (k.retireTo c pc).scratchS = k.scratchS := rfl
@[simp] theorem Core.retireTo_trapVecM (k : Core) (c : CoreId) (pc : Word64) : (k.retireTo c pc).trapVecM = k.trapVecM := rfl
@[simp] theorem Core.retireTo_trapPcM (k : Core) (c : CoreId) (pc : Word64) : (k.retireTo c pc).trapPcM = k.trapPcM := rfl
@[simp] theorem Core.retireTo_trapCauseM (k : Core) (c : CoreId) (pc : Word64) : (k.retireTo c pc).trapCauseM = k.trapCauseM := rfl
@[simp] theorem Core.retireTo_trapValM (k : Core) (c : CoreId) (pc : Word64) : (k.retireTo c pc).trapValM = k.trapValM := rfl
@[simp] theorem Core.retireTo_scratchM (k : Core) (c : CoreId) (pc : Word64) : (k.retireTo c pc).scratchM = k.scratchM := rfl
@[simp] theorem Core.retireTo_deleg (k : Core) (c : CoreId) (pc : Word64) : (k.retireTo c pc).deleg = k.deleg := rfl
@[simp] theorem Core.retireTo_irqEn (k : Core) (c : CoreId) (pc : Word64) : (k.retireTo c pc).irqEn = k.irqEn := rfl
@[simp] theorem Core.retireTo_gtcCmp (k : Core) (c : CoreId) (pc : Word64) : (k.retireTo c pc).gtcCmp = k.gtcCmp := rfl
@[simp] theorem Core.retireTo_regionU (k : Core) (c : CoreId) (pc : Word64) : (k.retireTo c pc).regionU = k.regionU := rfl
@[simp] theorem Core.retireTo_regionS (k : Core) (c : CoreId) (pc : Word64) : (k.retireTo c pc).regionS = k.regionS := rfl
@[simp] theorem Core.retireTo_bpAddr (k : Core) (c : CoreId) (pc : Word64) : (k.retireTo c pc).bpAddr = k.bpAddr := rfl
@[simp] theorem Core.retireTo_bpCtl (k : Core) (c : CoreId) (pc : Word64) : (k.retireTo c pc).bpCtl = k.bpCtl := rfl
@[simp] theorem Core.retireTo_wpAddr (k : Core) (c : CoreId) (pc : Word64) : (k.retireTo c pc).wpAddr = k.wpAddr := rfl
@[simp] theorem Core.retireTo_wpMask (k : Core) (c : CoreId) (pc : Word64) : (k.retireTo c pc).wpMask = k.wpMask := rfl
@[simp] theorem Core.retireTo_wpCtl (k : Core) (c : CoreId) (pc : Word64) : (k.retireTo c pc).wpCtl = k.wpCtl := rfl
@[simp] theorem Core.retireTo_halted (k : Core) (c : CoreId) (pc : Word64) : (k.retireTo c pc).halted = k.halted := rfl
@[simp] theorem Core.retireTo_haltCause (k : Core) (c : CoreId) (pc : Word64) : (k.retireTo c pc).haltCause = k.haltCause := rfl
@[simp] theorem Core.retireTo_wait (k : Core) (c : CoreId) (pc : Word64) : (k.retireTo c pc).wait = none := rfl
@[simp] theorem Core.retireTo_duty (k : Core) (c : CoreId) (pc : Word64) : (k.retireTo c pc).duty = k.duty := rfl
@[simp] theorem Core.retireTo_swi (k : Core) (c : CoreId) (pc : Word64) : (k.retireTo c pc).swi = k.swi := rfl
@[simp] theorem Core.retireTo_issued (k : Core) (c : CoreId) (pc : Word64) : (k.retireTo c pc).issued = k.issued := rfl
@[simp] theorem Core.retireTo_tickets (k : Core) (c : CoreId) (pc : Word64) : (k.retireTo c pc).tickets = k.tickets := rfl
@[simp] theorem Core.retireTo_tki (k : Core) (c : CoreId) (pc : Word64) : (k.retireTo c pc).tki = k.tki := rfl
@[simp] theorem Core.retireTo_tkiOvf (k : Core) (c : CoreId) (pc : Word64) : (k.retireTo c pc).tkiOvf = k.tkiOvf := rfl

/-! ## Core.retire -/

@[simp] theorem Core.retire_g (k : Core) (c : CoreId) : (k.retire c).g = k.g := rfl
@[simp] theorem Core.retire_v (k : Core) (c : CoreId) : (k.retire c).v = k.v := rfl
@[simp] theorem Core.retire_pc (k : Core) (c : CoreId) : (k.retire c).pc = k.pc + 4 := rfl
@[simp] theorem Core.retire_fflags (k : Core) (c : CoreId) : (k.retire c).fflags = k.fflags := rfl
@[simp] theorem Core.retire_cycle (k : Core) (c : CoreId) :
    (k.retire c).cycle = k.cycle + 1 + BitVec.ofNat 64 (Config.cyclesSpent c.val k.instret.toNat) := rfl
@[simp] theorem Core.retire_instret (k : Core) (c : CoreId) : (k.retire c).instret = k.instret + 1 := rfl
@[simp] theorem Core.retire_status (k : Core) (c : CoreId) : (k.retire c).status = k.status := rfl
@[simp] theorem Core.retire_trapVecS (k : Core) (c : CoreId) : (k.retire c).trapVecS = k.trapVecS := rfl
@[simp] theorem Core.retire_trapPcS (k : Core) (c : CoreId) : (k.retire c).trapPcS = k.trapPcS := rfl
@[simp] theorem Core.retire_trapCauseS (k : Core) (c : CoreId) : (k.retire c).trapCauseS = k.trapCauseS := rfl
@[simp] theorem Core.retire_trapValS (k : Core) (c : CoreId) : (k.retire c).trapValS = k.trapValS := rfl
@[simp] theorem Core.retire_scratchS (k : Core) (c : CoreId) : (k.retire c).scratchS = k.scratchS := rfl
@[simp] theorem Core.retire_trapVecM (k : Core) (c : CoreId) : (k.retire c).trapVecM = k.trapVecM := rfl
@[simp] theorem Core.retire_trapPcM (k : Core) (c : CoreId) : (k.retire c).trapPcM = k.trapPcM := rfl
@[simp] theorem Core.retire_trapCauseM (k : Core) (c : CoreId) : (k.retire c).trapCauseM = k.trapCauseM := rfl
@[simp] theorem Core.retire_trapValM (k : Core) (c : CoreId) : (k.retire c).trapValM = k.trapValM := rfl
@[simp] theorem Core.retire_scratchM (k : Core) (c : CoreId) : (k.retire c).scratchM = k.scratchM := rfl
@[simp] theorem Core.retire_deleg (k : Core) (c : CoreId) : (k.retire c).deleg = k.deleg := rfl
@[simp] theorem Core.retire_irqEn (k : Core) (c : CoreId) : (k.retire c).irqEn = k.irqEn := rfl
@[simp] theorem Core.retire_gtcCmp (k : Core) (c : CoreId) : (k.retire c).gtcCmp = k.gtcCmp := rfl
@[simp] theorem Core.retire_regionU (k : Core) (c : CoreId) : (k.retire c).regionU = k.regionU := rfl
@[simp] theorem Core.retire_regionS (k : Core) (c : CoreId) : (k.retire c).regionS = k.regionS := rfl
@[simp] theorem Core.retire_bpAddr (k : Core) (c : CoreId) : (k.retire c).bpAddr = k.bpAddr := rfl
@[simp] theorem Core.retire_bpCtl (k : Core) (c : CoreId) : (k.retire c).bpCtl = k.bpCtl := rfl
@[simp] theorem Core.retire_wpAddr (k : Core) (c : CoreId) : (k.retire c).wpAddr = k.wpAddr := rfl
@[simp] theorem Core.retire_wpMask (k : Core) (c : CoreId) : (k.retire c).wpMask = k.wpMask := rfl
@[simp] theorem Core.retire_wpCtl (k : Core) (c : CoreId) : (k.retire c).wpCtl = k.wpCtl := rfl
@[simp] theorem Core.retire_halted (k : Core) (c : CoreId) : (k.retire c).halted = k.halted := rfl
@[simp] theorem Core.retire_haltCause (k : Core) (c : CoreId) : (k.retire c).haltCause = k.haltCause := rfl
@[simp] theorem Core.retire_wait (k : Core) (c : CoreId) : (k.retire c).wait = none := rfl
@[simp] theorem Core.retire_duty (k : Core) (c : CoreId) : (k.retire c).duty = k.duty := rfl
@[simp] theorem Core.retire_swi (k : Core) (c : CoreId) : (k.retire c).swi = k.swi := rfl
@[simp] theorem Core.retire_issued (k : Core) (c : CoreId) : (k.retire c).issued = k.issued := rfl
@[simp] theorem Core.retire_tickets (k : Core) (c : CoreId) : (k.retire c).tickets = k.tickets := rfl
@[simp] theorem Core.retire_tki (k : Core) (c : CoreId) : (k.retire c).tki = k.tki := rfl
@[simp] theorem Core.retire_tkiOvf (k : Core) (c : CoreId) : (k.retire c).tkiOvf = k.tkiOvf := rfl

end Sys2Proof.Machine
end

