-- ==== Sys2Proof/Laws/Ops.lean ====
section
/-!
SUPPORT. What each shared operation can do, said once: a read after a write of a register, a field, a core, a ring or a QP; what
counting, logging and tracing may touch; how an instruction starts; what an engine leaves of its descriptor.
-/

namespace Sys2Proof.Machine

/-! ## Bit fields -/

/-- A bit of a word after a field was put into it. -/
theorem getLsbD_putField {n : Nat} (w : BitVec n) (lo len v i : Nat) (h : i < n) :
    (putBits w lo len v).getLsbD i = if lo ≤ i ∧ i < lo + len then v.testBit (i - lo) else w.getLsbD i := by
  simp only [putBits, BitVec.getLsbD_or, BitVec.getLsbD_and, BitVec.getLsbD_not, BitVec.getLsbD_ofNat, h, decide_true, Bool.true_and,
    Nat.testBit_shiftLeft, Nat.testBit_two_pow_sub_one, Nat.testBit_mod_two_pow]
  by_cases h1 : lo ≤ i
  · by_cases h2 : i < lo + len
    · have h3 : i - lo < len := by omega
      simp [h1, h2, h3]
    · have h3 : ¬ i - lo < len := by omega
      simp [h1, h2, h3]
  · simp [h1]

/-- A field read after it was put. -/
theorem natAt_putBits_self {n : Nat} (w : BitVec n) (lo len v : Nat) (h : lo + len ≤ n) : natAt (putBits w lo len v) lo len = v % 2 ^ len := by
  refine Nat.eq_of_testBit_eq fun i => ?_
  simp only [natAt, Nat.testBit_mod_two_pow, Nat.testBit_shiftRight, BitVec.testBit_toNat]
  by_cases hi : i < len
  · rw [getLsbD_putField _ _ _ _ _ (by omega), if_pos (by omega)]
    simp [hi]
  · simp [hi]

/-- A field that does not meet the one put. -/
theorem natAt_putBits_of_disjoint {n : Nat} (w : BitVec n) (lo len v a k : Nat) (h : a + k ≤ lo ∨ lo + len ≤ a) :
    natAt (putBits w lo len v) a k = natAt w a k := by
  refine Nat.eq_of_testBit_eq fun i => ?_
  simp only [natAt, Nat.testBit_mod_two_pow, Nat.testBit_shiftRight, BitVec.testBit_toNat]
  by_cases hi : i < k
  · by_cases hn : a + i < n
    · rw [getLsbD_putField _ _ _ _ _ hn, if_neg (by omega)]
    · rw [BitVec.getLsbD_of_ge _ _ (by omega), BitVec.getLsbD_of_ge _ _ (by omega)]
  · simp [hi]

/-! ## Registers -/

/-- A register read after a register was written. -/
theorem State.reg_setReg (s : State) (off x : Nat) (w : Word32) : (s.setReg off w).reg x = if x = off then w else s.reg x := by
  unfold State.reg State.setReg Table.at Table.write
  dsimp only
  split
  next h =>
    rw [Table.find_drop]
    split
    next e => subst e; rw [h]; rfl
    · rfl
  next h =>
    rw [Table.find_put]
    split
    · rfl
    · rfl

@[simp] theorem State.reg_setReg_self (s : State) (off : Nat) (w : Word32) : (s.setReg off w).reg off = w := by
  rw [State.reg_setReg, if_pos rfl]

/-- A register read after a field of some register was written. -/
theorem State.reg_setFld (s : State) (f : Fld) (v x : Nat) :
    (s.setFld f v).reg x = if x = f.off then putBits (s.reg x) f.lo f.len v else s.reg x := by
  rw [State.setFld, State.reg_setReg]
  split
  next h => rw [h]
  · rfl

/-- A field read after it was written. -/
theorem State.fld_setFld_self (s : State) (f : Fld) (v : Nat) (h : f.lo + f.len ≤ 32) : (s.setFld f v).fld f = v % 2 ^ f.len := by
  rw [State.fld, State.reg_setFld, if_pos rfl, natAt_putBits_self _ _ _ _ h]

/-- A field of another register, or one that does not meet the field written. -/
theorem State.fld_setFld_of_disjoint (s : State) (f g : Fld) (v : Nat) (h : g.off ≠ f.off ∨ g.lo + g.len ≤ f.lo ∨ f.lo + f.len ≤ g.lo) :
    (s.setFld f v).fld g = s.fld g := by
  rw [State.fld, State.reg_setFld]
  split
  next e => rw [natAt_putBits_of_disjoint _ _ _ _ _ _ (h.resolve_left (fun n => n e))]; rfl
  · rfl

/-- A flag read after it was written. -/
theorem State.flag_setFlag_self (s : State) (f : Fld) (b : Bool) (h : f.len = 1) (hl : f.lo < 32) : (s.setFlag f b).flag f = b := by
  unfold State.flag State.setFlag bitAt
  rw [State.reg_setFld, if_pos rfl, getLsbD_putField _ _ _ _ _ hl, if_pos (by omega)]
  cases b <;> simp

/-! ## Cores -/

/-- A core read after a core was written. -/
theorem State.core_setCore (s : State) (c d : CoreId) (k : Core) : (s.setCore c k).core d = if d = c then k else s.core d := by
  by_cases e : d = c
  · subst e; simp [State.core, State.setCore]
  · have : c.val ≠ d.val := fun x => e (Fin.ext x.symm)
    simp [State.core, State.setCore, this, e]

@[simp] theorem State.core_setCore_self (s : State) (c : CoreId) (k : Core) : (s.setCore c k).core c = k := by
  rw [State.core_setCore, if_pos rfl]

theorem State.core_setCore_of_ne (s : State) {c d : CoreId} (k : Core) (h : d ≠ c) : (s.setCore c k).core d = s.core d := by
  rw [State.core_setCore, if_neg h]

/-- Updates that leave the cores leave each core. -/
theorem State.core_of_cores {s t : State} (h : t.cores = s.cores) (c : CoreId) : t.core c = s.core c := by
  rw [State.core, State.core, h]

/-- A core's write keeps every other part of the state. -/
theorem State.setCore_onlyCores (s : State) (c : CoreId) (k : Core) : OnlyCores s (s.setCore c k) := rfl

/-- A general register read after one was written: g0 reads as zero and takes nothing (R34). -/
theorem Core.reg_setReg (k : Core) (r q : RegField) (v : Word64) : (k.setReg r v).reg q = if q = r ∧ q ≠ 0 then v else k.reg q := by
  unfold Core.setReg
  split
  next hr =>
    rw [if_neg]
    exact fun h => h.2 (h.1.trans hr)
  next hr =>
    unfold Core.reg
    by_cases hq : q = 0
    · rw [if_pos hq, if_pos hq, if_neg (fun h => h.2 hq)]
    · rw [if_neg hq, if_neg hq]
      dsimp only
      rw [Vector.getElem_set]
      by_cases e : q = r
      · rw [if_pos (by rw [e]), if_pos ⟨e, hq⟩]
      · rw [if_neg (fun x => e (BitVec.eq_of_toNat_eq x.symm)), if_neg (fun h => e h.1)]

@[simp] theorem Core.reg_zero (k : Core) : k.reg 0 = 0 := if_pos rfl

@[simp] theorem Core.setReg_zero (k : Core) (v : Word64) : k.setReg 0 v = k := if_pos rfl

/-- A vector register read after one was written; both fields name one of 16 registers. -/
theorem Core.vreg_setVreg (k : Core) (r q : RegField) (v : VWord) :
    (k.setVreg r v).vreg q = if q.toNat % 16 = r.toNat % 16 then v else k.vreg q := by
  unfold Core.vreg Core.setVreg
  by_cases e : q.toNat % 16 = r.toNat % 16
  · simp [e]
  · have : ¬ r.toNat % 16 = q.toNat % 16 := fun x => e x.symm
    simp [e, this]

@[simp] theorem Core.reg_retireTo (k : Core) (c : CoreId) (pc : Word64) (r : RegField) : (k.retireTo c pc).reg r = k.reg r := rfl
@[simp] theorem Core.vreg_retireTo (k : Core) (c : CoreId) (pc : Word64) (r : RegField) : (k.retireTo c pc).vreg r = k.vreg r := rfl
@[simp] theorem Core.reg_setVreg (k : Core) (r q : RegField) (v : VWord) : (k.setVreg r v).reg q = k.reg q := rfl

/-! ## How an instruction runs (R73) -/

/-- A core whose instruction starts takes its body, where its word is legal. -/
theorem State.runInsn_starts {s : State} {c : CoreId} (h : s.starts c) (word : Word32) (body : State → State) :
    s.runInsn c word true body = body s := by
  unfold State.runInsn
  rw [show s.issue c = .go from h]
  rfl

/-- A core whose instruction starts raises ILLEGAL, where its word is not legal (R50, R68). -/
theorem State.runInsn_illegal {s : State} {c : CoreId} (h : s.starts c) (word : Word32) (body : State → State) :
    s.runInsn c word false body = s.raise c excIllegal (word.setWidth 64) := by
  unfold State.runInsn
  rw [show s.issue c = .go from h]
  rfl

/-- A core that does not run takes nothing. -/
theorem State.runInsn_stays {s : State} {c : CoreId} (h : s.canRun c = false) (word : Word32) (legal : Bool) (body : State → State) :
    s.runInsn c word legal body = s := by
  have : s.issue c = .stays := by unfold State.issue; rw [h]; rfl
  unfold State.runInsn
  rw [this]

/-- An exception that is no double trap and fails no recipe's core is taken (R70): nothing but the core's trap entry. -/
theorem State.raise_taken (s : State) (c : CoreId) (code : Nat) (val : Word64) (h : (s.core c).priv = privM → (s.core c).inTrapM = false)
    (hu : (s.core c).priv ≠ privU ∨ code = excSvcU) :
    s.raise c code val = s.setCore c ((s.core c).trapEntry ((s.core c).excToM code) (BitVec.ofNat 64 code) val) := by
  unfold State.raise
  extract_lets k
  rw [if_neg, if_neg]
  · intro g
    simp only [Bool.and_eq_true, decide_eq_true_eq] at g
    exact hu.elim (fun x => x g.1) (fun x => g.2 x)
  · intro g
    simp only [Bool.and_eq_true, decide_eq_true_eq] at g
    rw [h g.1] at g
    exact Bool.false_ne_true g.2

/-! ## DRAM -/

/-- Bytes stored in DRAM read back, and every other byte is as it was. -/
theorem State.writeDram_storedBytes (s : State) (a n v : Nat) : StoredBytes s (s.writeDram a (leBytes n v)) a n v := by
  refine ⟨fun i hi => ?_, fun x hx => ?_, fun w => ?_⟩
  · rw [State.writeDram_dram, Mem.get_store, leBytes_length, if_pos (by omega), show a + i - a = i by omega]
    exact leBytes_getD n v i hi
  · rw [State.writeDram_dram, Mem.get_store, leBytes_length, if_neg (by omega)]
  · simp only [State.writeDram_dramErr, List.mem_filter, leBytes_length, Bool.not_eq_true', Bool.and_eq_false_iff, decide_eq_false_iff_not,
      ← Decidable.not_and_iff_not_or_not]

/-! ## Rings, QPs and descriptors -/

/-- A ring read after a ring was written. -/
theorem State.ring_setRing (s : State) (cls ring a b : Nat) (r : Ring) :
    (s.setRing cls ring r).ring a b = if ringKey a b = ringKey cls ring then r else s.ring a b :=
  Table.at_write Ring.reset s.rings _ _ r

/-- A QP read after a QP was written. -/
theorem State.qpAt_setQp (s : State) (a b : Nat) (q : Qp) : (s.setQp a q).qpAt b = if b = a then some q else s.qpAt b :=
  Table.find_put s.net.qps a b q

/-- Where the descriptor that runs for a ticket is, it is the one taken. -/
theorem State.running_takenAt {s : State} {c : CoreId} {t : Ticket} {cls op : Nat} {x : Taken} (h : s.running c t cls op = some x) :
    s.takenAt c t = some x ∧ x.cls = cls ∧ descOpcode x.desc = op ∧ x.result = none := by
  unfold State.running at h
  split at h
  next y e =>
    split at h
    next g =>
      cases h
      simp only [Bool.and_eq_true, decide_eq_true_eq, Option.isNone_iff_eq_none] at g
      exact ⟨e, g.1.1, g.1.2, g.2⟩
    · cases h
  · cases h

/-- The taken descriptor is the ticket's. -/
theorem State.takenAt_ticket {s : State} {c : CoreId} {t : Ticket} {x : Taken} (h : s.takenAt c t = some x) : x.core = c ∧ x.ticket = t := by
  have := List.find?_some h
  simpa [Bool.and_eq_true] using this

/-- After an engine ended a descriptor, the ticket's descriptor holds the result. -/
theorem State.finish_takenAt {s : State} {c : CoreId} {t : Ticket} {x : Taken} (h : s.takenAt c t = some x) (status detail : Nat)
    (o : List (Nat × Nat)) :
    (s.finish x status detail o).takenAt c t =
      some { x with result := some ⟨BitVec.ofNat 8 status, BitVec.ofNat 16 detail, true, o⟩ } := by
  obtain ⟨rfl, rfl⟩ := takenAt_ticket h
  unfold State.finish State.setTaken State.takenAt at *
  dsimp only
  rw [List.find?_map]
  have e : (fun y : Taken => (y.core == x.core && y.ticket == x.ticket)) ∘ (fun y : Taken =>
      if (y.core == x.core && y.ticket == x.ticket) = true then
        { x with result := some ⟨BitVec.ofNat 8 status, BitVec.ofNat 16 detail, true, o⟩ } else y) =
      fun y : Taken => (y.core == x.core && y.ticket == x.ticket) := by
    funext y
    simp only [Function.comp_apply]
    split
    next g => rw [g]; simp
    · rfl
  rw [e, h]
  simp

/-! ## Counting, logging and tracing -/

/-- `t` is `s` but for registers, counters, the fault log, messages to the host and to CC0, and the trace. -/
def OnlyLogs (s t : State) : Prop :=
  { t with regs := s.regs, events := s.events, fltLog := s.fltLog, letters := s.letters, msix := s.msix, trace := s.trace } = s

theorem OnlyLogs.refl (s : State) : OnlyLogs s s := rfl

theorem OnlyLogs.trans {s t u : State} (h : OnlyLogs s t) (g : OnlyLogs t u) : OnlyLogs s u := by
  unfold OnlyLogs at *
  rw [← h, ← g]

theorem OnlyLogs.ite {s a b : State} {c : Prop} [Decidable c] (ha : OnlyLogs s a) (hb : OnlyLogs s b) : OnlyLogs s (if c then a else b) := by
  split
  · exact ha
  · exact hb

theorem OnlyLogs.proj {s t : State} (h : OnlyLogs s t) {α : Type} (f : State → α) :
    f { t with regs := s.regs, events := s.events, fltLog := s.fltLog, letters := s.letters, msix := s.msix, trace := s.trace } = f s :=
  congrArg f h

theorem OnlyLogs.cores {s t : State} (h : OnlyLogs s t) : t.cores = s.cores := h.proj State.cores
theorem OnlyLogs.core {s t : State} (h : OnlyLogs s t) (c : CoreId) : t.core c = s.core c := State.core_of_cores h.cores c
theorem OnlyLogs.rings {s t : State} (h : OnlyLogs s t) : t.rings = s.rings := h.proj State.rings
theorem OnlyLogs.taken {s t : State} (h : OnlyLogs s t) : t.taken = s.taken := h.proj State.taken
theorem OnlyLogs.dram {s t : State} (h : OnlyLogs s t) : t.dram = s.dram := h.proj State.dram
theorem OnlyLogs.host {s t : State} (h : OnlyLogs s t) : t.host = s.host := h.proj State.host
theorem OnlyLogs.net {s t : State} (h : OnlyLogs s t) : t.net = s.net := h.proj State.net
theorem OnlyLogs.flash {s t : State} (h : OnlyLogs s t) : t.flash = s.flash := h.proj State.flash
theorem OnlyLogs.ftl {s t : State} (h : OnlyLogs s t) : t.ftl = s.ftl := h.proj State.ftl
theorem OnlyLogs.gtc {s t : State} (h : OnlyLogs s t) : t.gtc = s.gtc := h.proj State.gtc
theorem OnlyLogs.pending {s t : State} (h : OnlyLogs s t) : t.pending = s.pending := h.proj State.pending
theorem OnlyLogs.power {s t : State} (h : OnlyLogs s t) : t.power = s.power := h.proj State.power
theorem OnlyLogs.system {s t : State} (h : OnlyLogs s t) : t.system = s.system := h.proj State.system
theorem OnlyLogs.fault {s t : State} (h : OnlyLogs s t) : t.fault = s.fault := h.proj State.fault
theorem OnlyLogs.sec {s t : State} (h : OnlyLogs s t) : t.sec = s.sec := h.proj State.sec

theorem OnlyLogs.ofTrace (s : State) (x : Trace) : OnlyLogs s { s with trace := x } := rfl
theorem State.setReg_onlyLogs (s : State) (off : Nat) (w : Word32) : OnlyLogs s (s.setReg off w) := rfl
theorem State.setFld_onlyLogs (s : State) (f : Fld) (v : Nat) : OnlyLogs s (s.setFld f v) := rfl
theorem State.setFlag_onlyLogs (s : State) (f : Fld) (b : Bool) : OnlyLogs s (s.setFlag f b) := rfl
theorem State.errAdd_onlyLogs (s : State) (f : Fld) (k : Nat) : OnlyLogs s (s.errAdd f k) := rfl

theorem State.countQuiet_onlyLogs (s : State) (u k n : Nat) : OnlyLogs s (s.countQuiet u k n).1 := by
  unfold State.countQuiet
  dsimp only
  repeat' split
  all_goals rfl

theorem State.traceOverwrite_onlyLogs (s : State) (w : Nat) : OnlyLogs s (s.traceOverwrite w) := by
  unfold State.traceOverwrite
  extract_lets tr g
  refine OnlyLogs.ite (OnlyLogs.refl s) (OnlyLogs.ite ?_ (OnlyLogs.ofTrace s _))
  exact (OnlyLogs.ofTrace s _).trans (State.countQuiet_onlyLogs _ _ _ _)

theorem State.traceStore_onlyLogs (s : State) (r : TraceRec) : OnlyLogs s (s.traceStore r) := by
  unfold State.traceStore
  refine OnlyLogs.ite ?_ (OnlyLogs.ite ?_ (OnlyLogs.refl s))
  · extract_lets src s1
    have h1 : OnlyLogs s s1 := OnlyLogs.ofTrace s _
    exact h1.trans (State.countQuiet_onlyLogs _ _ _ _)
  · extract_lets w left s1 src s2 s3 s4
    have h1 : OnlyLogs s s1 := State.traceOverwrite_onlyLogs s w
    have h2 : OnlyLogs s1 s2 := OnlyLogs.ofTrace s1 _
    have h4 : OnlyLogs s2 s4 := (State.setFld_onlyLogs s2 _ _).trans (State.countQuiet_onlyLogs _ _ _ _)
    exact OnlyLogs.ite (((h1.trans h2).trans h4).trans (State.setFlag_onlyLogs _ _ _)) ((h1.trans h2).trans h4)

theorem State.traceWrite_onlyLogs (s : State) (r : TraceRec) : OnlyLogs s (s.traceWrite r) := by
  unfold State.traceWrite
  refine OnlyLogs.trans ?_ (State.traceStore_onlyLogs _ _)
  split
  · exact OnlyLogs.refl s
  · exact (OnlyLogs.ofTrace s _).trans ((State.errAdd_onlyLogs _ _ _).trans (State.traceStore_onlyLogs _ _))

/-- A trace record touches the trace, its counters and what their wrap signals. -/
theorem State.emit_onlyLogs (s : State) (typ polder : Nat) (info : Word32) (data : BitVec 128) : OnlyLogs s (s.emit typ polder info data) := by
  unfold State.emit
  exact OnlyLogs.ite (State.traceWrite_onlyLogs _ _) (OnlyLogs.refl s)

/-- A trigger touches the trace unit's registers, its records and counters. -/
theorem State.trigger_onlyLogs (s : State) (src : Nat) : OnlyLogs s (s.trigger src) := by
  unfold State.trigger
  refine OnlyLogs.ite ?_ (OnlyLogs.refl s)
  extract_lets pre s1 s2 src3 s3 s4
  have h3 : OnlyLogs s s3 := rfl
  exact (h3.trans (State.traceWrite_onlyLogs _ _)).trans (State.countQuiet_onlyLogs _ _ _ _)

/-- A fault log entry touches the log, its registers and counters, and the trace. -/
theorem State.logFault_onlyLogs (s : State) (kind polder detail value : Nat) : OnlyLogs s (s.logFault kind polder detail value) := by
  unfold State.logFault
  extract_lets e i s1 s2 s3 s4 s5
  have h2 : OnlyLogs s s2 := rfl
  have h3 : OnlyLogs s2 s3 := OnlyLogs.ite (State.setFlag_onlyLogs _ _ _) (OnlyLogs.refl _)
  exact (((h2.trans h3).trans (State.countQuiet_onlyLogs _ _ _ _)).trans (State.emit_onlyLogs _ _ _ _ _)).trans (State.trigger_onlyLogs _ _)

/-- An event counted touches the counter, and on a wrap what R562 signals and logs. -/
theorem State.count_onlyLogs (s : State) (u k n : Nat) : OnlyLogs s (s.count u k n) := by
  unfold State.count
  split
  next t wrapped e =>
    have h : OnlyLogs s t := by have := State.countQuiet_onlyLogs s u k n; rw [e] at this; exact this
    exact OnlyLogs.ite ((h.trans (State.countQuiet_onlyLogs _ _ _ _)).trans (State.logFault_onlyLogs _ _ _ _ _)) h

@[simp] theorem State.count_core (s : State) (u k n : Nat) (c : CoreId) : (s.count u k n).core c = s.core c := (s.count_onlyLogs u k n).core c
@[simp] theorem State.count_dram (s : State) (u k n : Nat) : (s.count u k n).dram = s.dram := (s.count_onlyLogs u k n).dram
@[simp] theorem State.count_taken (s : State) (u k n : Nat) : (s.count u k n).taken = s.taken := (s.count_onlyLogs u k n).taken
@[simp] theorem State.count_pending (s : State) (u k n : Nat) : (s.count u k n).pending = s.pending := (s.count_onlyLogs u k n).pending

/-! ## Memories after reset -/

theorem State.reset_memWf : State.reset.memWf := ⟨rfl, rfl, rfl⟩

end Sys2Proof.Machine
end

