-- ==== Sys2Proof/Tests/Slice0.lean ====
section
/-!
SUPPORT. The model's own tests: an ill-formed term for each check of `Instr.wf`, for each statement with hypotheses a state and
operands that meet them (`witness_<statement>`), and single steps whose expected values are worked out from the rules named.
-/

namespace Sys2Proof.Tests

open Machine Machine.Reg

set_option Elab.async false

/-! ## Helpers: small states to test on -/

/-- A register table with these words. -/
def regsOf (l : List (Nat × Nat)) : Table Word32 := l.foldl (fun t e => Table.put t e.1 (BitVec.ofNat 32 e.2)) []

/-- A module that runs with 1 GiB of DRAM: every polder ON, no work anywhere, and these register words. -/
def on (l : List (Nat × Nat)) : State :=
  { State.reset with
    power := { Power.reset with phase := .on }, sec := { State.reset.sec with image := some (zeros 32, 1, 0) }, dramSize := 2 ^ 30, regs := regsOf ((POL_STATE, 0x3FFFFF) :: l) }

/-- `n` bytes, zero but for these fields: offset, length, value. -/
def image (n : Nat) (fs : List (Nat × Nat × Nat)) : List Byte :=
  fs.foldl (fun bs f => bs.take f.1 ++ leBytes f.2.1 f.2.2 ++ bs.drop (f.1 + f.2.1)) (zeros n)

/-- A descriptor of core 0, ticket 1, on ring 0 of a class, that an engine works on. -/
def work (cls op : Nat) (fs : List (Nat × Nat × Nat)) : Taken := ⟨cls, 0, 0, 1, image 64 ((0, 1, cls) :: (1, 1, op) :: fs), 0, 0, none⟩

/-- A state whose engines hold this descriptor alone. -/
def busy (s : State) (x : Taken) : State := { s with taken := [x] }

/-- Core 0 changed. -/
def core0 (s : State) (f : Core → Core) : State := s.setCore 0 (f (s.core 0))

/-- A ring of M, of core 0, with 64 entries at the start of DRAM, `n` of them waiting. -/
def ringM (n : Nat) : Ring := { Ring.reset with en := true, ownerPriv := 2, base := 0x040000000000, tail := n, qcn := 5 }

/-- DRAM with these bytes from an address on. -/
def withDram (s : State) (a : Nat) (bs : List Byte) : State := { s with dram := Mem.store s.dram a bs }

/-- What a command leaves, or reset where it stops. -/
def after (o : Host.Outcome State Fault Refusal) : State := match o with
  | .next t => t
  | _ => State.reset

/-- Core 0 after a command. -/
def after0 (o : Host.Outcome State Fault Refusal) : Core := (after o).core 0

/-! ## Well-formedness: one ill-formed term for each check -/

theorem wf_smoke_good : (Instr.add 0 (.add ⟨1, 2, 3⟩)).wf = true ∧ (Instr.recipeLaunch (.manager 1 (zeros 64) [])).wf = true := by decide +kernel
theorem wf_smoke_unassigned : (Instr.add 0 (.unassigned (wordRrr 0x01 ⟨1, 2, 3⟩ 0))).wf = false := by decide +kernel
theorem wf_smoke_entry : (Instr.recipeLaunch (.manager 1 (zeros 63) [])).wf = false := by decide +kernel
theorem wf_smoke_placement : (Instr.recipeLoad (.ring 0) ⟨[1, 1], [], [], [], [0, 0], 0, 0, 0, 0⟩).wf = false := by decide +kernel
theorem wf_smoke_stores : (Instr.sqTail 1 0 [(2 ^ 64 - 1, [0, 0])]).wf = false := by decide +kernel
theorem wf_smoke_runs : (Instr.trim 0 1 [(4, 2), (5, 1)]).wf = false ∧ (Instr.trim 0 1 [(4, 0)]).wf = false := by decide +kernel
theorem wf_smoke_rebuilt : (Instr.gristReadIssue (some ([], []))).wf = false := by decide +kernel
theorem wf_smoke_grant : (Instr.grant 1 (zeros 63)).wf = false ∧ (Instr.decline 1 []).wf = false := by decide +kernel
theorem wf_smoke_packet : (Instr.packetReceive ⟨0, 0, 0, false, .readReq 0 (2 ^ 32) 0⟩ 0 0).wf = false := by decide +kernel
theorem wf_smoke_dies : (Instr.channelTraining 0 [(0, ⟨0, true, false, 3, 16384, 0, 1, 1, 0, []⟩)] none).wf = false := by decide +kernel
theorem wf_smoke_cell : (Instr.codewordRead 0 0 0 0 0 ⟨none, some 16, false, []⟩).wf = false := by decide +kernel
theorem wf_smoke_mount : (Instr.mount 3 true).wf = false := by decide +kernel
theorem wf_smoke_frame : (Instr.puntFrame 0 (zeros 9217)).wf = false := by decide +kernel
theorem wf_smoke_controller : (Instr.controllerEnable 0 (2 ^ 64) 0 0 0 0 false).wf = false := by decide +kernel
theorem wf_smoke_drops : (Instr.dropMap 0 0 4 [[4]]).wf = false ∧ (Instr.dropMap 0 0 65537 []).wf = false := by decide +kernel
theorem wf_smoke_takeover : (Instr.managerTakeover []).wf = false := by decide +kernel
theorem wf_smoke_channels : (Instr.coldStart (List.replicate 13 0) 0 true true).wf = false := by decide +kernel
theorem wf_smoke_download : (Instr.firmwareImageDownload (.manager 0) 0 [1]).wf = false := by decide +kernel
theorem decode_none : decodeTableWord 64 0 = none := rfl

/-! ## Cores -/

/-- Core 0 holds `a` in g2 and `b` in g3. -/
def two (a b : Word64) : State := core0 (on []) (fun k => (k.setReg 2 a).setReg 3 b)

theorem witness_IntegerResults : (two 7 9).starts 0 ∧ ((two 7 9).core 0).reg 2 = 7 ∧ ((two 7 9).core 0).reg 3 = 9 := ⟨rfl, rfl, rfl⟩

theorem witness_DivisionResults : ((two 7 0).starts 0 ∧ ((two 7 0).core 0).reg 3 = 0) ∧
    ((two (BitVec.intMin 64) (BitVec.allOnes 64)).starts 0 ∧ ((two (BitVec.intMin 64) (BitVec.allOnes 64)).core 0).reg 2 = BitVec.intMin 64 ∧
      ((two (BitVec.intMin 64) (BitVec.allOnes 64)).core 0).reg 3 = BitVec.allOnes 64) := ⟨⟨rfl, rfl⟩, rfl, rfl, rfl⟩

theorem witness_BitAndImmediateResults : (on []).starts 0 ∧ ((⟨1, 2, 0⟩ : Rrr).rb = 0 ∧ (⟨1, 2, 31⟩ : Rrr).rb ≠ 0) ∧
    ((⟨1, 0, 5⟩ : Rri).ra = 0 ∧ (⟨1, 31, 5⟩ : Rri).ra ≠ 0) ∧ ((⟨1, 2, 0, 63⟩ : ShiftImm).upper = 0 ∧ (⟨1, 2, 1, 0⟩ : ShiftImm).upper ≠ 0) :=
  ⟨rfl, by decide, by decide, by decide⟩

theorem witness_RegisterWriteFrame : (on []).starts 0 ∧ (∃ t, (on []).wrote 0 0 5 = t) ∧ (∃ t, (on []).wrote 0 31 5 = t) :=
  ⟨rfl, ⟨_, rfl⟩, ⟨_, rfl⟩⟩

theorem witness_ControlTransfers : (two 7 7).starts 0 ∧ (∃ k, (two 7 7).core 0 = k ∧ k.reg 2 = 7 ∧ k.reg 3 = 7) := ⟨rfl, _, rfl, rfl, rfl⟩

theorem test_add_wraps : (after0 (exec (.add 0 (.add ⟨1, 2, 3⟩)) (two (BitVec.allOnes 64) 2))).reg 1 = 1 := by decide +kernel
theorem test_sra_modulo : (after0 (exec (.sra 0 ⟨1, 2, 3⟩) (two (BitVec.intMin 64) 0x43))).reg 1 = 0xF000000000000000 := by decide +kernel
theorem test_addw_extends : (after0 (exec (.addw 0 ⟨1, 2, 3⟩) (two 0x7FFFFFFF 1))).reg 1 = 0xFFFFFFFF80000000 := by decide +kernel
theorem test_div_by_zero : (after0 (exec (.div 0 ⟨1, 2, 3⟩) (two 9 0))).reg 1 = BitVec.allOnes 64 := by decide +kernel
theorem test_rem_sign : (after0 (exec (.rem 0 ⟨1, 2, 3⟩) (two (-7) 2))).reg 1 = -1 := by decide +kernel
theorem test_branch_forward : (after0 (exec (.beq 0 ⟨0, 0, 0x7FF⟩) (on []))).pc = 0x1FFC := by decide +kernel
theorem test_jal_links : (after0 (exec (.jal 0 1) (on []))).reg 31 = 4 := by decide +kernel

/-! ## Memory and vectors -/

/-- Core 0 holds an address in g2, with 16 KiB of DRAM data nowhere written. -/
def at2 (a : Nat) : State := core0 (on []) (fun k => k.setReg 2 (BitVec.ofNat 64 a))

theorem witness_LoadsAndStores : (at2 0x040000000000).starts 0 ∧ (at2 0x040000000000).allowed 0 .load 0x040000000000 64 false ∧
    (at2 0x040000000000).allowed 0 .store 0x040000000000 64 false ∧ (at2 0x040000000000).allowed 0 .load 0x040000000000 4 true ∧
    (at2 0x04003FFFFFF8).allowed 0 .store 0x04003FFFFFF8 8 false ∧
    (at2 0x04003FFFFFFF).allowed 0 .load 0x04003FFFFFFF 1 false ∧ (at2 0x040000000002).allowed 0 .store 0x040000000002 2 false ∧
    (on []).regionAt 0x040000000000 4 ≠ .registers := ⟨rfl, rfl, rfl, rfl, rfl, rfl, rfl, by decide +kernel⟩

theorem witness_AtomicResults : (at2 0x040000000000).starts 0 ∧ (at2 0x040000000000).allowed 0 .atomic 0x040000000000 8 false ∧
    (at2 0x040000000004).allowed 0 .atomic 0x040000000004 4 false := ⟨rfl, rfl, rfl⟩

theorem witness_AccessTraps :
    let w (ctl : Word64) : State := core0 (at2 0x040000000000) (fun k => { k with wpAddr := k.wpAddr.set 0 0x040000000000, wpCtl := ctl })
    ((at2 0x040000000001).starts 0 ∧ 0x040000000001 % 8 ≠ 0) ∧
    ((w 0x29).starts 0 ∧ ((w 0x29).core 0).watchpoint .load 0x040000000000 8 = .raise) ∧
    ((w 0x59).starts 0 ∧ ((w 0x59).core 0).watchpoint .store 0x040000000000 8 = .halt) ∧
    ((at2 0x1000000000).starts 0 ∧ ((at2 0x1000000000).core 0).watchpoint .load 0x1000000000 8 = .none ∧
      ((at2 0x1000000000).core 0).watchpoint .store 0x1000000000 8 = .none ∧
      (at2 0x1000000000).accessAllowed 0 .load 0x1000000000 8 false = false ∧ (at2 0x1000000000).accessAllowed 0 .store 0x1000000000 8 false = false) ∧
    ({ at2 0x040000000000 with dramErr := [0x8000000000] }.starts 0 ∧
      { at2 0x040000000000 with dramErr := [0x8000000000] }.accessAllowed 0 .load 0x040000000000 8 false = true ∧
      { at2 0x040000000000 with dramErr := [0x8000000000] }.hasDataError 0x040000000000 8 = true) := by
  refine ⟨⟨rfl, by decide⟩, ⟨rfl, ?_⟩, ⟨rfl, ?_⟩, ⟨rfl, ?_, ?_, ?_, ?_⟩, rfl, ?_, ?_⟩ <;> decide +kernel

theorem witness_VectorInstructions : (on []).starts 0 ∧ (∃ k, (on []).core 0 = k) ∧ (15 : RegField).toNat < 16 ∧ (0 : BitVec 2).toNat < 2 ∧
    2 ≤ (3 : BitVec 2).toNat ∧ laneBits 0 = 8 ∧ 512 / laneBits 3 = 8 := ⟨rfl, ⟨_, rfl⟩, by decide, by decide, by decide, by decide, by decide⟩

theorem test_lb_signed : (after0 (exec (.lb 0 ⟨1, 2, 0⟩) (withDram (at2 0x040000000000) 0x040000000000 [0x80]))).reg 1 = 0xFFFFFFFFFFFFFF80 := by decide +kernel
theorem test_sh_bytes : let d := (after (exec (.sh 0 ⟨2, 2, 2⟩) (at2 0x040000001000))).dram
    Mem.get d 0x040000001002 = 0 ∧ Mem.get d 0x040000001003 = 0x10 ∧ Mem.get d 0x040000001004 = 0 := by decide +kernel
theorem test_atcas_fails : (after0 (exec (.atcas 0 ⟨⟨3, 2, 2⟩, 0, true⟩) (withDram (at2 0x040000000000) 0x040000000000 [5]))).reg 3 = 5 := by decide +kernel
theorem test_vadd_lane : let k := after0 (exec (.vadd 0 ⟨⟨1, 2, 3⟩, 0⟩) (core0 (on []) (fun k => (k.setVreg 2 0x1FF).setVreg 3 0x102)))
    k.vreg 1 = 0x201 := by decide +kernel
theorem test_vext_past : (after0 (exec (.vext 0 ⟨⟨1, 2, 3⟩, 3⟩) (core0 (two 0 8) (fun k => k.setVreg 2 0x1FF)))).reg 1 = 0 := by decide +kernel
theorem test_vfadd : (after0 (exec (.vfadd 0 ⟨⟨1, 2, 2⟩, 2⟩) (core0 (on []) (fun k => k.setVreg 2 0x3F800000)))).vreg 1 = 0x40000000 := by decide +kernel

/-! ## Traps, tickets and the control of cores -/

/-- Core 0 at a level (U is 0, S is 1), its `pc` at the start of DRAM, every address granted to both levels. -/
def atLevel (p : Word64) : State := core0 (on []) (fun k => { k with
  status := 0x2000 + p, pc := 0x040000000000, regionU := k.regionU.set 0 0x8730000000000000, regionS := k.regionS.set 0 0x8730000000000000 })

theorem witness_CsrAccess : ((on []).starts 0 ∧ (on []).csrRead 0 0x805 = some 0 ∧ csrPriv 0x805 ≤ ((on []).core 0).priv.toNat ∧ csrReadOnly 0x805 = false) ∧
    ((atLevel 0).starts 0 ∧ (atLevel 0).csrRead 0 0xFFF = none) ∧
    (((atLevel 0).csrRead 0 0x202).isSome ∧ csrReadOnly 0x202 = true) ∧
    (((atLevel 1).csrRead 0 0x800).isSome ∧ ((atLevel 1).core 0).priv.toNat < csrPriv 0x800 ∧ csrReadOnly 0x800 = false) :=
  ⟨⟨rfl, rfl, by decide +kernel, rfl⟩, ⟨rfl, rfl⟩, ⟨by decide +kernel, rfl⟩, by decide +kernel, by decide +kernel, rfl⟩

theorem witness_CsrReadBack : ∃ k, ((on []).core 0).csrWrite 0x800 (BitVec.allOnes 64) = k ∧ k.prevPrivM = 2 ∧ k.ieM = true := ⟨_, rfl, rfl, rfl⟩

theorem witness_ExceptionEntry :
    (¬ (((atLevel 0).core 0).priv = privM ∧ ((atLevel 0).core 0).inTrapM = true) ∧ excSvcU = excSvcU ∧ ((atLevel 0).core 0).deleg.getLsbD excSvcU = false) ∧
    (((atLevel 1).core 0).priv ≠ privU ∧ ((core0 (atLevel 1) (fun k => { k with deleg := 2 })).core 0).deleg.getLsbD 1 = true ∧
      ((core0 (atLevel 1) (fun k => { k with deleg := 2 })).core 0).priv ≠ privM) ∧
    (((core0 (on []) (fun k => { k with status := 0x6002 })).core 0).priv = privM ∧ ((core0 (on []) (fun k => { k with status := 0x6002 })).core 0).inTrapM = false) ∧
    (((core0 (on []) (fun k => { k with status := 0x8002 })).core 0).priv = privM ∧ ((core0 (on []) (fun k => { k with status := 0x8002 })).core 0).inTrapM = true ∧
      (core0 (on []) (fun k => { k with status := 0x8002 })).flag CC_DBG_GLOBAL_HALT_ALL = false) := by decide +kernel

theorem witness_SystemInstructions : (on []).starts 0 ∧ ((on []).core 0).priv = privM ∧ (on []).irqPend 0 &&& ((on []).core 0).irqEn = 0 ∧
    ((atLevel 0).starts 0 ∧ ((atLevel 0).core 0).priv = privU ∧ (atLevel 0).recipeOf 0 = none) ∧
    ((atLevel 1).starts 0 ∧ ((atLevel 1).core 0).priv = privS) ∧
    (let s := core0 (on []) (fun k => { k with swi := true, irqEn := 1 }); s.starts 0 ∧ s.irqPend 0 &&& (s.core 0).irqEn ≠ 0) :=
  ⟨rfl, rfl, rfl, ⟨rfl, rfl, by decide +kernel⟩, ⟨rfl, rfl⟩, rfl, by decide +kernel⟩

theorem witness_TrapReturn : ((on []).starts 0 ∧ ((on []).core 0).priv = privM ∧ ((on []).core 0).prevPrivM ≠ 3) ∧
    ((atLevel 1).starts 0 ∧ ((atLevel 1).core 0).priv ≠ privU ∧ ((atLevel 1).core 0).priv ≠ privM) := ⟨⟨rfl, rfl, by decide +kernel⟩, rfl, by decide +kernel, by decide +kernel⟩

theorem witness_CoreEvents :
    (((on []).core 0).gtcCmp ≤ (on []).gtc → False) ∧ ((core0 (on []) (fun k => { k with gtcCmp := 0 })).core 0).gtcCmp ≤ (on []).gtc ∧
    (let s := core0 (atLevel 0) (fun k => { k with wait := some (.fence 1), swi := true, gtcCmp := 0, irqEn := 3, deleg := 2 ^ 32 })
     s.waits 0 = true ∧ (s.core 0).wait ≠ some .idle ∧ s.irqReady 0 = some 1 ∧ (s.core 0).irqToM 1 = true ∧ (s.core 0).irqToM 0 = false) ∧
    (let s := core0 (atLevel 0) (fun k => { k with wait := some .idle, swi := true, irqEn := 1 })
     s.waits 0 = true ∧ (s.core 0).wait = some .idle ∧ s.irqPend 0 &&& (s.core 0).irqEn ≠ 0) ∧
    (let s := core0 (on []) (fun k => { k with wait := some (.ticket 1 1), issued := 1, tickets := [⟨2, some 0x10⟩] })
     s.waits 0 = true ∧ (s.core 0).ticketAge 1 = some 0 ∧ (s.core 0).ticketResult 0 = some 0x10) ∧
    (let s := core0 (on []) (fun k => { k with wait := some (.fence 2), issued := 1, tickets := [⟨2, none⟩] })
     s.waits 0 = true ∧ (s.core 0).outstanding 2 = false) := by decide +kernel

/-- Core 0 has issued two tickets, of classes 1 and 2, the older complete, and holds a value in g2. -/
def issued2 (v : Word64) : State := core0 (on []) (fun k => { k.setReg 2 v with issued := 2, tickets := [⟨2, none⟩, ⟨1, some 0⟩] })

/-- Class 2, ring 3: 64 entries of M of core 0, `n` waiting; the descriptor to submit lies 8 KiB into DRAM. -/
def submitter (n : Nat) (l : List (Nat × Nat)) : State :=
  let s := { on l with rings := [(2 * 1024 + 3, ringM n)] }
  core0 s (fun k => k.setReg 2 0x040000002000)

theorem witness_Tickets : ((issued2 0).starts 0 ∧ ((issued2 0).core 0).ticketIn 2 = none) ∧ ((issued2 3).core 0).ticketIn 2 = none ∧
    ((issued2 0x100000001).core 0).ticketIn 2 = none ∧
    (((issued2 1).core 0).ticketIn 2 = some 1 ∧ ((issued2 1).core 0).tickets[1]? = some ⟨1, some 0⟩) ∧
    (((issued2 2).core 0).ticketIn 2 = some 0 ∧ ((issued2 2).core 0).tickets[0]? = some ⟨2, none⟩) ∧
    ((core0 (on []) (fun k => { k.setReg 2 1 with issued := 4097, tickets := [] })).core 0).ticketIn 2 = some 4096 ∧
    (((issued2 0).core 0).outstanding 4 = true ∧ ((issued2 0).core 0).outstanding 2 = false) ∧
    ((submitter 0 []).starts 0 ∧ ((submitter 0 []).ring 2 3).ownedBy 0 ((submitter 0 []).core 0).priv = true ∧ ((submitter 0 []).ring 2 3).full = false ∧
      ((submitter 64 []).ring 2 3).full = true ∧ ((submitter 0 []).ring 2 3).ownedBy 1 privM = false ∧
      (submitter 0 []).allowed 0 .load 0x040000002000 64 false ∧ Config.absent (submitter 0 []).part.variant 2 = false ∧
      (submitter 0 []).doorbellsOff = false ∧ (submitter 0 [(FLT_STATUS, 2 ^ FLT_STATUS_SAFE.lo)]).flag FLT_STATUS_SAFE = true) := by
  refine ⟨⟨rfl, ?_⟩, ?_, ?_, ⟨?_, ?_⟩, ⟨?_, ?_⟩, ?_, ⟨?_, ?_⟩, rfl, ?_, ?_, ?_, ?_, rfl, ?_, ?_, ?_⟩ <;> decide +kernel

theorem witness_CoreControl : (on []).mayWrite .host = true ∧ (on []).mayWrite (.core 0) = true ∧ (on []).outOfReset 0 = true ∧
    ((on []).core 0).halted = false ∧ (on []).flag CC_DBG_GLOBAL_HALT_ALL = false ∧
    ((core0 (on []) (fun k => { k with halted := true })).core 0).halted = true := by decide +kernel

theorem test_trap_vector : let k := after0 (exec (.brk 0 ⟨0, 0, 0⟩) (core0 (on []) (fun k => { k with pc := 0x100, trapVecM := 0x203 })))
    k.pc = 0x200 ∧ k.trapPcM = 0x100 ∧ k.trapCauseM = 0x0B ∧ k.trapValM = 0x100 ∧ k.inTrapM = true := by decide +kernel
theorem test_csrset_old : let k := after0 (exec (.csrset 0 ⟨1, 2, 0x805⟩) (core0 (on []) (fun k => { k.setReg 2 6 with scratchM := 3 })))
    k.reg 1 = 3 ∧ k.scratchM = 7 := by decide +kernel
theorem test_tret_level : (after0 (exec (.tret 0 ⟨0, 0, 0⟩) (core0 (on []) (fun k => { k with status := 0x4002, trapPcM := 0x43 })))).pc = 0x40 := by decide +kernel
theorem test_sub_ticket : let t := after (exec (.sub 0 ⟨2, 3, 1, 2⟩) (submitter 63 []))
    (t.core 0).reg 1 = 1 ∧ (t.ring 2 3).tail = 64 ∧ Mem.get t.dram (0x040000000000 + 63 * 64 + 4) = 1 := by decide +kernel
theorem test_sub_full : (after0 (exec (.sub 0 ⟨2, 3, 1, 2⟩) (submitter 64 []))).reg 1 = 0 := by decide +kernel
theorem test_tkp_outstanding : (after0 (exec (.tkp 0 ⟨0, 0, 1, 2⟩) (issued2 2))).reg 1 = 0x200 := by decide +kernel
theorem test_swi_pending : (after (exec (.swiSet .host 2) (on []))).irqPend 1 = 1 := by decide +kernel

/-! ## Rings and descriptors -/

/-- Ring 3 of class 2 selected, as it stands, its queue context bound. -/
def chosen (r : Ring) : State :=
  { on [(CC_RING_IDX, 3 * 2 ^ CC_RING_IDX_RING.lo + 2 * 2 ^ CC_RING_IDX_CLS.lo)] with
    rings := [(2 * 1024 + 3, r)], qct := [(5, .engineRing 2 3)] }

theorem witness_RingEnableDisable :
    ((chosen (Ring.reset)).ringSel = (2, 3) ∧ (chosen Ring.reset).reaches .host polPC = true ∧
      (let n := Ring.reset.withCfg 0x80610005
       6 ≤ n.log2.toNat ∧ n.base.toNat % (64 * 2 ^ n.log2.toNat) = 0 ∧ n.ownerPriv ≠ 3 ∧
       (chosen Ring.reset).boundElsewhere n.qcn.toNat (.engineRing 2 3) = false ∧ Config.absent (chosen Ring.reset).part.variant 2 = false) ∧
      (Ring.reset.withCfg 0x80510005).log2.toNat < 6) ∧
    ((chosen (ringM 0)).ring 2 3 = ringM 0 ∧ (ringM 0).en = true ∧ (ringM 0).waiting = 0 ∧
      Table.find (chosen (ringM 0)).qct (ringM 0).qcn.toNat = some (.engineRing 2 3)) ∧
    ((ringM 1).en = true ∧ (ringM 1).waiting ≠ 0) ∧
    (let q := { ringM 0 with en := false, disabling := true }
     (chosen q).ring 2 3 = q ∧ q.disabling = true ∧ q.waiting = 0) := by decide +kernel

/-- A descriptor of this opcode waits on ring 3 of class 2. -/
def offered (op : Nat) : State :=
  withDram { on [] with rings := [(2 * 1024 + 3, ringM 1)] } 0x040000000000 (image 64 [(0, 1, 2), (1, 1, op), (4, 4, 1)])

theorem witness_DescriptorFlow :
    ((offered 1).takes 2 = true ∧ (((offered 1).nextOffer 2).map (fun o => decide (o.2 = none ∧ o.1.cls = 2 ∧ o.1.ring < 1024 ∧ o.1.result = none ∧
      (offered 1).takenAt o.1.core o.1.ticket = none))) = some true) ∧
    ((offered 0xFF).takes 2 = true ∧ (((offered 0xFF).nextOffer 2).map (fun o => decide (o.2.isSome ∧ o.1.cls = 2 ∧ o.1.ring < 1024 ∧ o.1.result = none))) = some true) ∧
    (let x := { work 2 1 [] with result := some ⟨0, 0, true, []⟩ }
     (busy (on []) x).takenAt 0 1 = some x ∧ (busy (on []) x).polderOn (classPolder 2) = true) ∧
    (let r : Ring := { ringM 0 with win := (Vector.replicate 4 regionReset).set 0 0x8730000000000000 }
     { on [] with rings := [(2 * 1024, r)] }.statusAddrOk 2 0 0x040000000108 = true ∧ { on [] with rings := [(2 * 1024, r)] }.statusAddrOk 2 0 0x040000000104 = false) ∧
    ((core0 (on []) (fun k => { k with tki := List.replicate 64 9 })).core 0).tki.length = 64 ∧
    (on []).reaches .host polPC = true := by decide +kernel

theorem test_ring_enable_rejects : let t := after (exec (.ringEnable .host 0x510005) (chosen Ring.reset))
    (t.ring 2 3).en = false ∧ (t.ring 2 3).reject = true ∧ (t.ring 2 3).cause = 1 := by decide +kernel
theorem test_take_bad_opcode : ((after (exec (.descriptorTake 2) (offered 0xFF))).takenAt 0 1).map (fun x => x.result.map (fun r => r.status)) = some (some 0xF1) := by
  decide +kernel
theorem test_tki_pop : let t := after (exec (.tkiPop .host 0) (core0 (on []) (fun k => { k with tki := [7, 8] })))
    (t.core 0).tki = [8] ∧ t.host.reads = [7] := by decide +kernel

/-! ## Recipes and command rings -/

/-- A recipe image of one core and one stage of class 2 with one ring and one relocated `sub`. -/
def recipeImage : List Byte := image 256 [(0, 4, 0x5043524B), (4, 2, 1), (6, 1, 1), (7, 1, 1), (8, 4, 256), (0x0C, 4, 192), (0x18, 4, 128), (0x1C, 4, 144),
  (0x20, 4, 1), (0x24, 4, 192), (0x28, 4, 256), (0x30, 1, 1), (0x40, 4, 1), (129, 1, 2), (130, 1, 0xFF), (132, 2, 1), (134, 1, 1), (135, 1, 6),
  (136, 1, 1), (144, 4, 192), (192, 4, 0x30 * 2 ^ 26 + 2 * 2 ^ 22)]

/-- A free placement for it. -/
def recipePlace : Placement := ⟨[2], [0], [0x040000050000], [7], [0x040000000000], 0x040000001000, 0x040000010000, 0x040000002000, 0x040000003000⟩

theorem witness_RecipeLife_loads : ∃ e, (on []).takeCommand (.manager 9 (image 64 [(0, 1, 1), (0x10, 8, 256)]) recipeImage) 0x01 = some (.manager 9, e, on []) ∧
    (on []).loaderOnly = false ∧ leAt e 0x08 8 % 64 = 0 ∧ leAt e 0x10 8 ≤ 16777216 ∧
    (on []).loadRefusal recipeImage = none ∧ (on []).freeHandle = 0 ∧
    (on []).placementFree recipeImage (stageTable recipeImage) (markStages (on []).part.variant (stageTable recipeImage)) recipePlace = true ∧
    imgRelocs recipeImage = 1 ∧ relocSound recipeImage (stageTable recipeImage) 0 = true := by
  refine ⟨_, rfl, ?_⟩; decide +kernel

theorem witness_RecipeLife_refused : (on []).loadRefusal (zeros 256) = some 0x01 ∧ leAt (zeros 256) 0 4 ≠ 0x5043524B ∧
    leAt (image 256 [(0, 4, 0x5043524B), (4, 2, 2)]) 0 4 = 0x5043524B ∧ leAt (image 256 [(0, 4, 0x5043524B), (4, 2, 2)]) 4 2 ≠ 1 := by decide +kernel

/-- A loaded recipe on core 2. -/
def recipe (st : RecipeState) (l : Option Launch) : Recipe where
  hash := []
  cores := [2]
  entry := 192
  codeOff := 192
  code := [⟨0x040000000000, 4096⟩]
  data := ⟨0x040000001000, 4096⟩
  bss := ⟨0x040000010000, 65536⟩
  staging := ⟨0x040000002000, 4096⟩
  stagingBytes := 0
  page := ⟨0x040000003000, 4096⟩
  stages := [⟨0, 2, 1, 6, 1, true⟩]
  slots := [⟨0, 0, 2, 2, 0⟩]
  seedSlots := 1
  damagePolicy := 0
  maxRatio := 100
  maxPixels := 100
  maxAudio := 100
  maxBytes := 100
  lookahead := 1
  state := st
  launch := l
  failure := none
  unloading := []

/-- The module with that recipe under handle 0. -/
def with0 (r : Recipe) : State := { on [] with recipes := [(0, r)] }

/-- A launch at 200 µs. -/
def launch0 : Launch := ⟨200000, 1, 0, 1, [zeros 16]⟩

theorem witness_RecipeLife :
    (∃ e p, (with0 (recipe .loaded none)).takeCommand (.manager 9 (image 64 [(0, 1, 2)]) (image 48 [(0, 8, 200000)])) 0x02 = some (.manager 9, e, with0 (recipe .loaded none)) ∧
      leAt e 0x04 4 = 0 ∧ (with0 (recipe .loaded none)).commandBytes (.manager 9 (image 64 [(0, 1, 2)]) (image 48 [(0, 8, 200000)])) (leAt e 0x08 8) 128 = p ∧
      (recipe .loaded none).seedSlots ≤ (48 - 0x20) / 16 ∧ (on []).gtc.toNat + 100000 ≤ leAt p 0 8 ∧ (recipe .running none).state ≠ .loaded) ∧
    (let s := { with0 (recipe .waiting (some launch0)) with gtc := 200000 }
     Table.find s.recipes 0 = some (recipe .waiting (some launch0)) ∧ launch0.at_ ≤ s.gtc ∧ (on []).gtc < launch0.at_) ∧
    ((with0 (recipe .loaded none)).taken = [] ∧ (with0 (recipe .loaded none)).net.deliveries = [] ∧ (recipe .loaded none).unloading = [] ∧
      { recipe .loaded none with unloading := [.manager 1] }.unloading ≠ []) := by
  refine ⟨⟨_, _, rfl, ?_, rfl, ?_, ?_, ?_⟩, ?_, ?_⟩ <;> decide +kernel

/-- The link is up, and command ring 1 stands with a RECIPE_STATUS as its front entry. -/
def hosted : State :=
  let s := on [(HST_LINK, 2 ^ HST_LINK_UP.lo)]
  { s with host := { s.host with mem := Mem.store [] 0x1000 (image 64 [(0, 1, 4), (2, 2, 9), (4, 4, 5)]), cmdRings := [(1, ⟨6, 0x1000, 0x2000, 16, 0, 0, 1, 0, 0, true, [], [], none⟩)] } }

theorem witness_HostCommandRings : (∃ e t, hosted.takeCommand (.ring 1) 0x04 = some (.ring 6 9, e, t) ∧ leAt e 0x04 4 = 5) ∧
    (hosted.cmdRingOf 6 = some 1 ∧ hosted.hostPosts = true ∧ hosted.doorbellsOff = false ∧
      ∀ r, hosted.cmdRing 1 = some r → r.cqFull = false ∧ r.held = [] ∧ r.deleting = none ∧ 0 < r.entries) ∧
    (∀ r, hosted.cmdRing 1 = some r → (15 : Word32).toNat < r.entries ∧
      ∀ e, (hosted.setCmdRing 1 { r with sqTail := 15 }).frontEntry 1 = some e → leAt e 0 1 ∈ ringOpcodes) ∧
    hosted.cmdRingOf 7 = none ∧ (hosted.grantsOf 4095).length < 64 := by
  refine ⟨⟨_, _, rfl, ?_⟩, ⟨?_, ?_, ?_, ?_⟩, ?_, ?_, ?_⟩
  · decide +kernel
  · decide +kernel
  · decide +kernel
  · decide +kernel
  · intro r h; injection h with h; subst h; decide +kernel
  · intro r h; injection h with h; subst h
    refine ⟨by decide +kernel, ?_⟩
    intro e he; injection he with he; subst he; decide +kernel
  · decide +kernel
  · decide +kernel

theorem test_status_bad_handle : let t := after (exec (.recipeStatus (.ring 1)) hosted)
    t.hostBytes 0x2000 16 = image 16 [(8, 2, 1), (12, 2, 9), (14, 2, 1 + 2 * 0x31)] := by decide +kernel
theorem test_launch_late : (after (exec (.recipeLaunch (.manager 9 (image 64 [(0, 1, 2)]) (image 48 [(0, 8, 99999)]))) (with0 (recipe .loaded none)))).host.replies.map (·.status) = [0x0B] := by
  decide +kernel
theorem test_sq_tail : ((after (exec (.sqTail 6 2 [(0x1040, [4])]) hosted)).cmdRing 1).map (·.sqTail) = some 2 := by decide +kernel

/-! ## Fetch, kiln and mills -/

/-- A region word that grants every access to every address. -/
def grantAll : Word64 := 0x8730000000000000

/-- Core 0's ticket 1 is in work on ring 0 of a class; the ring is enabled with DRAM granted and belongs to recipe 0, which runs. -/
def engaged (cls op : Nat) (fs : List (Nat × Nat × Nat)) (l : List (Nat × Nat) := []) : State :=
  { busy (on l) (work cls op fs) with
    rings := [(cls * 1024, { ringM 0 with win := (Vector.replicate 4 regionReset).set 0 grantAll })]
    recipes := [(0, { recipe .running (some launch0) with slots := [⟨0, 0, 2, cls, 0⟩] })] }

/-- A volume of `n` items. -/
def volume (n : Nat) : Volume := ⟨1, n, 1, 0, 4096, n, 2 ^ 20, 0⟩

/-- An item of 64 stored bytes at a position. -/
def item (pos grist : Nat) (staged : Bool) : FetchItem :=
  ⟨pos, pos, 0, 0, 1, 0, 64, 64, 8, 8, (crc64 (zeros 64)).toNat, 0, grist, 0, 0, 0, 0, staged, false, false, none⟩

/-- A stream of ring 0 over `n` positions with these items. -/
def stream (n : Nat) (is : List FetchItem) (began : Option (Nat × Nat)) : FetchStream :=
  ⟨1, 1, 0, true, 0, 0, n, zeros 16, volume n, 1, 0, 0x040000002000, is, [], [], [], began, false⟩

/-- A state with that stream, a serving flash and pages of the catalog cache. -/
def streaming (s : State) (st : FetchStream) (cache : List (Nat × List Byte)) : State :=
  { s with regs := Table.put s.regs FTL_STATE (BitVec.ofNat 32 (2 * 2 ^ FTL_STATE_STATE.lo)), fetch := { s.fetch with streams := [(0, st)], cache := cache, opened := 1 } }

theorem witness_StreamCommands_fill :
    let x := work 1 1 [(0x1E, 2, 4), (0x26, 2, 1), (0x28, 8, 0x040000008000)]
    let u := streaming (engaged 1 1 [(0x1E, 2, 4), (0x26, 2, 1), (0x28, 8, 0x040000008000)]) (stream 1 [item 0 0x040000002100 true] (some (0, 1))) []
    u.running 0 1 1 0x01 = some x ∧ u.engineRuns 1 = true ∧ u.behindFill x = false ∧ (u.ring 1 0).en = true ∧
      u.fetchStream 0 = some (stream 1 [item 0 0x040000002100 true] (some (0, 1))) ∧
      (stream 1 [item 0 0x040000002100 true] (some (0, 1))).began = some ((0 : CoreId).val, (1 : Ticket).toNat) ∧
      ((stream 1 [item 0 0x040000002100 true] (some (0, 1))).remaining.filterMap (fun p =>
        (stream 1 [item 0 0x040000002100 true] (some (0, 1))).items.find? (fun i => i.pos == p && i.staged))).length = 1 ∧ x.minItems = 1 ∧
      ((stream 1 [item 0 0 false] none).remaining.filterMap (fun p => (stream 1 [item 0 0 false] none).items.find? (fun i => i.pos == p && i.staged))).length = 0 ∧
      (stream 1 [item 0 0 false] none).remaining.length = 1 := by decide +kernel

theorem witness_StreamCommands_permute :
    let s := engaged 1 2 [(0x20, 6, 3), (0x1E, 2, 3), (0x28, 8, 0x040000008000)]
    s.running 0 1 1 0x02 = some (work 1 2 [(0x20, 6, 3), (0x1E, 2, 3), (0x28, 8, 0x040000008000)]) ∧ s.engineRuns 1 = true ∧
      s.seedOf 1 0 3 = none ∧ s.seedOf 1 0 0 = some (zeros 16) ∧ (work 1 2 [(0x20, 6, 3), (0x1E, 2, 3)]).fieldAt 0x20 6 = 3 := by decide +kernel

/-- Unit 0 of space 1 holds the header of `volume 2`, its two CRCs worked out by hand; only its first 64 bytes are kept. -/
def mediaWord : Codeword :=
  ⟨image 64 [(0, 4, 0x4C4F5644), (4, 2, 1), (6, 2, 1), (8, 6, 2), (0x10, 1, 1), (0x12, 1, 1), (0x18, 8, 4096), (0x20, 8, 2), (0x38, 8, 0x4886a7bb5c371241)],
    image 16 [(5, 1, 1), (6, 2, 1), (8, 6, 1), (14, 2, 0x7233)], []⟩

/-- A die of one plane in use. -/
def die0 : Die := ⟨.inUse, ⟨0, true, false, 1, 16384, 0, 16, 16, 4, []⟩, [], 0, false, 0⟩

/-- A module whose flash serves that unit. -/
def withMedia (s : State) (ws : List (Nat × Codeword)) : State :=
  { s with
    flash := { s.flash with dies := [(0, die0)], nand := ws }
    ftl := { s.ftl with
      spaces := [(1, ⟨2, 256, 1, 0, false, 0, 0⟩)], map := [(mapKey 1 0, 0)], cached := [(0, false)]
      superblocks := [(0, ⟨[(0, 0)], .userData, 1, true, false, false⟩)] } }

set_option maxRecDepth 10000 in
theorem witness_StreamCommands_spare :
    let x := work 1 3 [(0x10, 2, 1), (0x28, 8, 0x040000008000)]
    let s := withMedia (streaming (engaged 1 3 [(0x10, 2, 1), (0x28, 8, 0x040000008000)]) (stream 2 [] none) [(catKey 1 1, image 64 [(6, 1, 1), (8, 4, 64), (38, 1, 1), (40, 4, 64)])])
      [(cwKey 0 0 0 0 0, mediaWord)]
    s.running 0 1 1 0x03 = some x ∧ (s.ring 1 0).en = true ∧ s.seedOf 1 0 0 = some (zeros 16) ∧ s.volumeFor 1 = some (volume 2) ∧
      substitute (zeros 16) 0 (volume 2) 0 7 = none ∧
      ((substitute (zeros 16) 0 (volume 2) 0 0).bind (fun e => (s.cachedPage (volume 2) ((volume 2).entryPage e.2).1).map (fun pg =>
        (s.stageItem 0 { recipe .running (some launch0) with stagingBytes := 4096 } (volume 2)
          (pageItem (volume 2) (recipe .running (some launch0)) e.1 e.2 pg ((volume 2).entryPage e.2).2)).isSome))) = some true ∧
      x.fieldAt 0x30 4 = 0 ∧
      (engaged 1 4 []).running 0 1 1 0x04 = some (work 1 4 []) ∧ (engaged 1 4 []).behindFill (work 1 4 []) = false := by decide +kernel

/-- The recipe of `engaged 1`, with 4 KiB of staging. -/
def fetching (st : FetchStream) (cache : List (Nat × List Byte)) : State :=
  let s := streaming (engaged 1 1 []) st cache
  { s with recipes := [(0, { recipe .running (some launch0) with slots := [⟨0, 0, 2, 1, 0⟩], stagingBytes := 4096 })] }

theorem witness_FetchProgress :
    ((fetching (stream 1 [] none) []).fetchRuns = true ∧ (stream 1 [] none).closed = false ∧ (stream 1 [] none).window.map (·.1) = [] ++ 0 :: [] ∧
      (permPi (zeros 16) 0 1 0).1 = 0 ∧ ((fetching (stream 1 [] none) []).cachedPage (volume 1) ((volume 1).entryPage 0).1).isNone) ∧
    (let s := fetching (stream 1 [] none) [(catKey 1 1, image 32 [(6, 1, 1), (8, 4, 64)])]
     (s.nextRead.map (fun rd => decide (rd.ring = 0 ∧ rd.item.staged = false ∧ rd.item.storedLen ≤ 4096 - 64 ∧ (s.stagingFor 0 (recipe .running none) 64).isNone)
       && (s.stagingFor 0 { recipe .running none with stagingBytes := 4096 } rd.item.storedLen).isSome)) = some true) ∧
    (let s := fetching (stream 1 [item 0 0x040000002100 false] none) []
     s.fetchRuns = true ∧ (s.fetchStream 0).map (fun st => st.items.find? (fun j => j.pos == 0 && !j.staged && j.grist != 0)) =
        some (some (item 0 0x040000002100 false)) ∧ (crc64 (s.dramBytes 0x040000002100 64)).toNat = (item 0 0x040000002100 false).crc) ∧
    (let i := { item 0 0x040000002100 false with unread := true }
     let s := withMedia (fetching (stream 1 [i] none) []) []
     let s := { s with
       flash := { s.flash with failed := [0] }
       ftl := { s.ftl with superblocks := [(0, ⟨[(0, 0), (1, 0)], .userData, 1, true, false, false⟩)] } }
     s.fetchRuns = true ∧ (stream 1 [i] none).items.find? (fun j => j.pos == 0 && !j.staged && j.grist != 0) = some i ∧ i.unread = true ∧
       ((s.count unitCAT 4 64).rebuiltBytes 1 0 64).1 = none ∧ ((s.count unitCAT 4 64).rebuiltBytes 1 0 64).2.fetchStream 0 = some (stream 1 [i] none)) := by
  decide +kernel


/-! ## Streams of the mills, as Python encoders wrote them from the standards -/

/-- A PNG of 2 by 2 pixels of RGB with the Paeth filter. -/
def pngBytes : List Byte :=
  [137, 80, 78, 71, 13, 10, 26, 10, 0, 0, 0, 13, 73, 72, 68, 82, 0, 0, 0, 2, 0, 0, 0, 2, 8, 2, 0, 0, 0, 253, 212, 154, 115, 0, 0, 0, 4, 103, 65, 77,
   65, 0, 0, 0, 0, 139, 37, 96, 77, 0, 0, 0, 19, 73, 68, 65, 84, 120, 156, 99, 97, 100, 98, 6, 2, 22, 54, 54, 54, 32, 5, 0, 1, 101, 0, 51, 210, 167, 247, 124,
   0, 0, 0, 0, 73, 69, 78, 68, 174, 66, 96, 130]

/-- A TIFF of 8 by 2 bilevel pixels in CCITT T.6. -/
def tiffBytes : List Byte :=
  [73, 73, 42, 0, 14, 0, 0, 0, 35, 225, 111, 0, 16, 1, 8, 0, 0, 1, 3, 0, 1, 0, 0, 0, 8, 0, 0, 0, 1, 1, 3, 0, 1, 0, 0, 0, 2, 0, 0, 0,
   2, 1, 3, 0, 1, 0, 0, 0, 1, 0, 0, 0, 3, 1, 3, 0, 1, 0, 0, 0, 4, 0, 0, 0, 6, 1, 3, 0, 1, 0, 0, 0, 0, 0, 0, 0, 17, 1, 4, 0,
   1, 0, 0, 0, 8, 0, 0, 0, 21, 1, 3, 0, 1, 0, 0, 0, 1, 0, 0, 0, 23, 1, 4, 0, 1, 0, 0, 0, 6, 0, 0, 0, 0, 0, 0, 0]

/-- A FLAC stream of five samples. -/
def flacBytes : List Byte :=
  [102, 76, 97, 67, 0, 0, 0, 34, 0, 16, 0, 16, 0, 0, 0, 0, 0, 0, 11, 184, 0, 240, 0, 0, 0, 5, 0, 0, 0, 0, 0, 0, 0, 0, 0, 0, 0, 0, 0, 0,
   0, 0, 129, 0, 0, 5, 0, 0, 0, 0, 0, 255, 248, 96, 0, 0, 4, 246, 16, 64, 106, 113, 66, 52, 92, 171]

/-- A WAV file of four samples at 8 kHz. -/
def wavBytes : List Byte :=
  [82, 73, 70, 70, 44, 0, 0, 0, 87, 65, 86, 69, 102, 109, 116, 32, 16, 0, 0, 0, 1, 0, 1, 0, 64, 31, 0, 0, 128, 62, 0, 0, 2, 0, 16, 0, 100, 97, 116, 97,
   8, 0, 0, 0, 1, 0, 254, 255, 44, 1, 112, 254]

theorem test_png_decodes : (pngHeaders pngBytes).known = true ∧ (pngDecode pngBytes).damage = none ∧
    (pngDecode pngBytes).values = [1, 2, 3, 4, 5, 6, 7, 8, 9, 10, 11, 12] := by decide +kernel

theorem test_tiff_g4_decodes : tiffFault tiffBytes = none ∧ (tiffDecode tiffBytes).damage = none ∧
    (tiffDecode tiffBytes).values = [0, 1, 1, 0, 0, 0, 1, 1, 0, 1, 1, 1, 0, 0, 1, 1] := by decide +kernel

theorem test_flac_decodes : (flacDecode 5 flacBytes).damage = none ∧ (flacDecode 5 flacBytes).values = [5, 7, 9, 12, -3] := by
  decide +kernel

/-- A frame whose CRC-16 fails is silence, and its CRC is the failing element (R172, R174). -/
theorem test_flac_bad_frame : (flacDecode 5 (flacBytes.take 65 ++ [170])).damage = some (8, 64) ∧
    (flacDecode 5 (flacBytes.take 65 ++ [170])).units = 5 := by decide +kernel

/-- A DECODE of the WAV file to S16, its item and stream in memory. -/
def milling : State :=
  withDram (withDram (engaged 5 1 [(0x10, 8, 0x040000008000), (0x18, 8, 0x040000009000), (0x20, 4, 52), (0x30, 4, 8), (0x34, 1, 0x20)])
    0x040000008000 (image 64 [(7, 1, 5), (0x18, 4, 52), (0x28, 4, 4), (0x2C, 4, 2 ^ 24 + 8000)])) 0x040000009000 wavBytes

theorem witness_Mills : (∃ x, milling.millRunning 0 1 1 = some x ∧ milling.engineRuns 5 = true ∧
      (let i := itemView (milling.dramBytes (x.fieldAt 0x10 8) 64)
       let src := milling.dramBytes (x.fieldAt 0x18 8) (x.fieldAt 0x20 4)
       let h := streamHeaders i.codec src
       itemDamage i = none ∧ i.status = stOK ∧ src = wavBytes ∧
       millRefusal milling.part.variant 5 (x.fieldAt 0x34 1) (x.fieldAt 0x35 1 % 16) (bitAt (BitVec.ofNat 16 (x.fieldAt 0x36 2)) 5)
         (bitAt (BitVec.ofNat 16 (x.fieldAt 0x36 2)) 7) (natAt (BitVec.ofNat 16 (x.fieldAt 0x36 2)) 8 8) i.codec = none ∧
       headerDamage 5 0x20 0 52 false ⟨0, 2 ^ 16 - 1, 0, 4, 192⟩ h i = none ∧ outBytes 0x20 h i 0 = 8 ∧
       (streamDecode i.codec 0 0 i.dim0 src).damage = none)) ∧
    (∃ x, (engaged 5 1 []).millRunning 0 1 1 = some x ∧ (engaged 5 1 []).engineRuns 5 = true) ∧
    millRefusal (on []).part.variant 5 0x20 0 false false 0 4 = some stWRONG_CODEC ∧
    ¬ ((pngHeaders pngBytes).bits = 1 ∧ (pngHeaders pngBytes).comps = 1) ∧ (pngHeaders pngBytes).known = true ∧
    (pngHeaders pngBytes).unsupported = none := by
  refine ⟨⟨_, rfl, ?_, ?_⟩, ⟨_, rfl, ?_⟩, ?_, ?_⟩ <;> decide +kernel

theorem witness_KilnAndGf :
    (let x := work 2 1 [(0x20, 4, 64), (0x24, 4, 192), (0x2E, 1, 1)]
     let s := engaged 2 1 [(0x20, 4, 64), (0x24, 4, 192), (0x2E, 1, 1)]
     s.running 0 1 2 0x01 = some x ∧ s.engineRuns 2 = true ∧ s.behindContext x = false ∧ x.last = false ∧ x.badDict 1 = false ∧ x.restore = false ∧
       x.flush = false ∧ x.checksum = false ∧ x.ctx = 0 ∧ x.fieldAt 0x38 8 = 0) ∧
    (let fs : List (Nat × Nat × Nat) := [(0x10, 8, 0x040000009000), (0x20, 4, 8), (0x24, 4, 192), (0x2E, 1, 2)]
     let s := withDram (engaged 2 1 fs) 0x040000009000 [1, 3, 0, 252, 255, 97, 98, 99]
     let d := expandTo (s.streamJob (work 2 1 fs) 2 8) none
     d.declared = none ∧ d.damage = none ∧ d.reached = 3 ∧ 3 ≤ 192 ∧ 3 ≤ (s.limitsOf 2 0).ratio * 8 ∧ 3 ≤ (s.limitsOf 2 0).bytes) ∧
    (let fs : List (Nat × Nat × Nat) := [(0x10, 8, 0x040000009000), (0x20, 4, 19), (0x24, 4, 192), (0x2E, 1, 1)]
     let s := withDram (engaged 2 1 fs) 0x040000009000 [40, 181, 47, 253, 32, 24, 85, 0, 0, 32, 97, 98, 99, 100, 1, 0, 211, 142, 8]
     let j := s.streamJob (work 2 1 fs) 1 19
     (expandTo j none).declared = some 24 ∧ (expandTo j (some 24)).damage = none ∧ (expandTo j (some 24)).reached = 24) ∧
    (let fs : List (Nat × Nat × Nat) := [(0x10, 8, 0x040000009000), (0x20, 4, 8), (0x24, 4, 192), (0x2E, 1, 2)]
     let s := withDram (engaged 2 1 fs) 0x040000009000 [7]
     let d := expandTo (s.streamJob (work 2 1 fs) 2 8) none
     d.declared = none ∧ d.damage = some (6, 0) ∧ d.reached = 0) ∧
    ((engaged 2 2 [(0x20, 4, 64), (0x24, 4, 64), (0x2E, 1, 5)]).running 0 1 2 0x02).isSome = true ∧
    (let x := work 2 1 [(0x10, 8, 0x040000002100), (0x2E, 1, 5)]
     let s := streaming { engaged 2 1 [(0x10, 8, 0x040000002100), (0x2E, 1, 5)] with rings := [] } { stream 1 [] none with held := [{ item 0 0x040000002100 true with frame := 5 }] } []
     s.running 0 1 2 0x01 = some x ∧
       (s.liveItem 2 0 (fun j => j.grist != 0 && j.grist == x.fieldAt 0x10 8)).map (fun i => (i.status, i.frame)) = some (stOK, 5)) ∧
    (let fs : List (Nat × Nat × Nat) := [(0x10, 8, 0x040000008000), (0x18, 8, 0x040000008040), (0x20, 8, 0x040000008080), (0x28, 4, 64), (0x2C, 1, 2), (0x2D, 1, 1)]
     let s := withDram (engaged 2 3 fs) 0x040000008000 (leBytes 8 0x040000009000 ++ leBytes 8 0x040000009040 ++ zeros 48 ++ leBytes 8 0x040000009080)
     let x := work 2 3 fs
     s.running 0 1 2 0x03 = some x ∧ x.gfShape = true ∧ (work 2 3 [(0x2C, 1, 65)]).gfShape = false ∧
       s.shareTable 0x040000008000 2 = [0x040000009000, 0x040000009040] ∧ s.shareTable 0x040000008040 1 = [0x040000009080] ∧
       s.windowGrants 2 0 .load 0x040000008000 16 = true ∧ s.windowGrants 2 0 .load 0x040000008080 2 = true ∧
       s.windowGrants 2 0 .load 0x040000009040 64 = true ∧ s.windowGrants 2 0 .store 0x040000009080 64 = true) := by decide +kernel

/-- A fixed-Huffman block and a Zstandard frame, each of a repeated string, as common encoders write them. -/
theorem test_expand_deflate : (expandRaw [75, 76, 74, 78, 4, 35, 0] none).blocks.flatten = [97, 98, 99, 97, 98, 99, 97, 98, 99] := by decide +kernel
theorem test_expand_zstd : (expandZstd [40, 181, 47, 253, 32, 24, 85, 0, 0, 32, 97, 98, 99, 100, 1, 0, 211, 142, 8] [] none).blocks.flatten =
    (List.replicate 6 [97, 98, 99, 100]).flatten := by decide +kernel
theorem test_permute_two : let t := after (exec (.permute 0 1) (engaged 1 2 [(0x20, 6, 2), (0x1E, 2, 2), (0x28, 8, 0x040000008000)]))
    [Mem.readLe t.dram 0x040000008000 6, Mem.readLe t.dram 0x040000008008 6] ∈ [[0, 1], [1, 0]] := by decide +kernel
theorem test_gf_sum : let fs : List (Nat × Nat × Nat) := [(0x10, 8, 0x040000008000), (0x18, 8, 0x040000008040), (0x20, 8, 0x040000008080), (0x28, 4, 64), (0x2C, 1, 2), (0x2D, 1, 1)]
    let s := withDram (withDram (engaged 2 3 fs) 0x040000008000 (leBytes 8 0x040000009000 ++ leBytes 8 0x040000009040 ++ zeros 48 ++ leBytes 8 0x040000009080
      ++ zeros 56 ++ [2, 1])) 0x040000009000 ([0x80] ++ zeros 63 ++ [3])
    Mem.get (after (exec (.gfCombine 0 1) s)).dram 0x040000009080 = 0x1E := by decide +kernel
theorem test_item_staged : ((after (exec (.itemStaged 0 0 none) (fetching (stream 1 [item 0 0x040000002100 false] none) []))).fetchStream 0).map
    (fun st => st.items.map (fun i => (i.staged, i.status))) = some [(true, 0)] := by decide +kernel

/-! ## Mash, lauter, token unit and cask packer -/

/-- An 8 by 8 RGB image in memory, as its wort record gives it. -/
def wortRecord : List Byte := image 128 [(0x16, 1, 1), (0x18, 4, 8), (0x1C, 4, 8), (0x20, 8, 0x040000009000), (0x2C, 4, 24)]

theorem witness_TransformCompletes :
    let fs : List (Nat × Nat × Nat) := [(0x10, 8, 0x040000008000), (0x18, 8, 0x040000008100), (0x20, 8, 0x04000000A000), (0x28, 4, 768), (0x2C, 1, 1), (0x38, 8, 0x04000000B000)]
    let x := work 7 1 fs
    let s := withDram (withDram (engaged 7 1 fs) 0x040000008000 wortRecord) 0x040000008100 (image 32 [(0, 1, 7)])
    s.running 0 1 7 0x01 = some x ∧ s.engineRuns 7 = true ∧ (wortView (s.dramBytes (x.fieldAt 0x10 8) 128)).status = stOK ∧ x.fieldAt 0x2D 1 / 64 = 0 ∧
      ¬ 128 ≤ x.fieldAt 0x2F 1 ∧ (s.opList x).length = 1 ∧
      ((opShapes s.mashRevision ⟨0, 0, 0, 0⟩ 0 0 true 0 (s.opList x) (wortView wortRecord).shape).map (fun l =>
        decide (l.any Shape.tooLarge = false ∧ (l.getLastD (wortView wortRecord).shape).elems * outElemBytes 0 ≤ 768))) = some true := by decide +kernel

/-- A model of one layer without weights. -/
def modelImage : List Byte :=
  image 96 [(0, 4, 0x4C444D4B), (4, 2, 1), (6, 1, 1), (8, 4, 1), (0x0C, 1, 1), (0x14, 4, 96), (0x18, 4, 64), (64, 1, 3)]

theorem witness_ScoringFiltersSets_models :
    (let fs : List (Nat × Nat × Nat) := [(0x18, 8, 0x040000008000), (0x20, 4, 96)]
     let s := withDram (engaged 7 3 fs) 0x040000008000 modelImage
     s.running 0 1 7 0x03 = some (work 7 3 fs) ∧ s.dramBytes 0x040000008000 96 = modelImage ∧ Table.find s.mash.models 0 = none ∧
       modelFormatOk modelImage 96 = true ∧ modelTooLarge modelImage = false ∧ modelTileCount modelImage 96 = 1 ∧
       ((List.range (Config.unitCount s.part.variant 7)).filter s.tileIn).length = Config.unitCount s.part.variant 7 ∧ s.mash.modelTiles.length + 1 ≤ s.modelTileLimit ∧
       s.taken.any (fun y => y.cls == 7 && descOpcode y.desc == 1 && y.result.isNone) = false) ∧
    (let fs : List (Nat × Nat × Nat) := [(0x20, 4, 1)]
     let s := { engaged 7 2 fs with mash := { (on []).mash with models := [(0, ⟨none, modelImage, [0]⟩)] } }
     s.running 0 1 7 0x02 = some (work 7 2 fs) ∧ (Table.find s.mash.models 0).isSome ∧ (work 7 2 fs).fieldAt 0x20 4 = leAt modelImage 8 4 ∧
       s.slotInUse 3 0 = true ∧ ({ engaged 7 4 [] with mash := s.mash }).slotInUse 3 0 = false) := by decide +kernel

theorem witness_ScoringFiltersSets_filter :
    let fs : List (Nat × Nat × Nat) := [(0x10, 8, 0x040000008000), (0x24, 1, 1), (0x28, 8, 0x040000008100), (0x38, 8, 0x040000008200)]
    let s := withDram (engaged 6 1 fs) 0x040000008100 (image 16 [(0, 1, 1), (4, 4, 1), (8, 4, 9)])
    s.running 0 1 6 0x01 = some (work 6 1 fs) ∧ s.engineRuns 6 = true ∧ (judged 0 (s.dramBytes 0x040000008000 128)).status = stOK ∧
      predicate (s.dramBytes 0x040000008100 16) = ⟨1, 0, 0, 1, 9, 0⟩ ∧ s.predicateRefusal ⟨1, 0, 0, 1, 9, 0⟩ 0 0 0 0 = none ∧
      boundValue (judged 0 (s.dramBytes 0x040000008000 128)) 0 0 = 0 ∧ (judged 0 (image 128 [(6, 1, stDAMAGED)])).status = stDAMAGED := by decide +kernel

/-- A MinHash set of 64 values, one band and no entries. -/
def setImage : List Byte := image 64 [(0, 4, 0x5453484D), (4, 2, 1), (6, 1, 64), (7, 1, 1), (0x0A, 1, 1)]

theorem witness_ScoringFiltersSets_sets :
    (let fs : List (Nat × Nat × Nat) := [(0x18, 8, 0x040000008000), (0x20, 4, 64)]
     let s := withDram (engaged 6 2 fs) 0x040000008000 setImage
     s.running 0 1 6 0x02 = some (work 6 2 fs) ∧ s.dramBytes 0x040000008000 64 = setImage ∧ setFormatOk setImage = true ∧ (setHead setImage).entries = 0 ∧
       Table.find s.sets 0 = none) ∧
    (let s := { engaged 6 3 [] with sets := [(0, ⟨none, setImage⟩)] }
     (s.running 0 1 6 0x03).isSome ∧ (setHead setImage).tokens = decide (0 = 1) ∧ s.slotInUse 2 0 = true ∧
       ({ engaged 6 4 [] with sets := s.sets }).slotInUse 2 0 = false) := by decide +kernel

/-- A vocabulary of byte-fallback, MASK and PAD tokens alone. -/
def vocabImage : List Byte :=
  image 2128 [(0, 4, 0x434F564B), (4, 2, 1), (6, 1, 1), (8, 4, 258), (0x10, 4, 256), (0x14, 4, 257), (0x1C, 4, 64), (0x28, 4, 2128)]
def vocab0 : Vocab := ⟨1, 0, 256, 257, List.replicate 258 [], [], []⟩

theorem witness_Tokenizing_vocabulary : vocabHeadOk vocabImage = true ∧
    (let fs : List (Nat × Nat × Nat) := [(0x18, 8, 0x040000008000), (0x20, 4, 2128), (0x30, 4, 65536)]
     (engaged 8 2 fs).running 0 1 8 0x02 = some (work 8 2 fs) ∧ (engaged 8 2 fs).engineRuns 8 = true ∧ 16 * vocab0.stringBytes + 65536 ≤ (work 8 2 fs).fieldAt 0x30 4) ∧
    (let s := { engaged 8 3 [] with vocabs := [(0, vocab0)] }
     (s.running 0 1 8 0x03).isSome ∧ (Table.find s.vocabs (work 8 3 []).vocabSlot).isSome ∧ s.tokenBefore (work 8 3 []) 1 0 = false) := by decide +kernel

/-- A module with a 1 GiB pack store. -/
def stored (s : State) : State :=
  { s with regs := Table.put (Table.put s.regs CSK_STORE_SIZE (BitVec.ofNat 32 (2 ^ CSK_STORE_SIZE_GIB.lo))) CSK_STORE_BASE_HI 0x400 }

theorem witness_Tokenizing_tokenize :
    (let fs : List (Nat × Nat × Nat) := [(0x10, 8, 0x040000008000), (0x18, 4, 8), (0x27, 1, 16), (0x28, 8, 0x040000009000), (0x30, 4, 96), (0x34, 2, 0xFFFF)]
     let s := { engaged 8 1 fs with vocabs := [(0, vocab0)] }
     let x := work 8 1 fs
     s.running 0 1 8 0x01 = some x ∧ s.engineRuns 8 = true ∧ (Table.find s.vocabs x.vocabSlot).isSome ∧ s.tokenBefore x 3 x.vocabSlot = false ∧
       vocab0.forcedSeq (x.fieldAt 0x34 1) = some [] ∧ vocab0.forcedSeq (x.fieldAt 0x35 1) = some [] ∧ x.tokCut.bad 0 = false ∧ x.maxIn ≤ 67108864 ∧
       x.enc 0 ≠ 0 ∧ x.tokCut.trunc = 0 ∧ 64 + 4 * x.fieldAt 0x18 4 ≤ x.fieldAt 0x30 4 ∧ x.fieldAt 0x18 4 ≤ (s.limitsOf 8 0).bytes) ∧
    (let fs : List (Nat × Nat × Nat) := [(0x10, 8, 0x040000002100), (0x27, 1, 16), (0x34, 2, 0xFFFF), (0x36, 1, 8)]
     let s := streaming (stored { engaged 8 1 fs with vocabs := [(0, vocab0)] }) { stream 1 [] none with held := [item 0 0x040000002100 true] } []
     let x := work 8 1 fs
     x.fieldAt 0x18 4 = 0 ∧ s.textItem x = some (item 0 0x040000002100 true) ∧ (s.recipeOfRing 8 0).isSome ∧ (s.streamOfItem 0 0x040000002100).isSome ∧
       x.tokFlag 3 = true ∧ s.storeRefuses (segmentBytes []) = false ∧ s.storeTurn x true = true ∧ (s.storeRun (segmentBytes []) true).isSome) := by decide +kernel

theorem witness_CaskPacking_slots :
    let fs : List (Nat × Nat × Nat) := [(0x10, 8, 0x040000008000), (0x18, 2, 2), (0x1A, 1, 1), (0x1C, 4, 2), (0x28, 4, 16), (0x30, 4, 16)]
    let s := withDram (withDram (stored (engaged 9 1 fs)) 0x040000008000 (leBytes 8 0x040000009000 ++ leBytes 8 1 ++ leBytes 8 0x040000009000 ++ leBytes 8 0))
      0x040000009000 (image 64 [(0x14, 1, 1), (0x18, 4, 16), (0x1C, 4, 1)])
    let x := work 9 1 fs
    s.running 0 1 9 0x01 = some x ∧ s.engineRuns 9 = true ∧ s.storeSize ≠ 0 ∧ (engaged 9 1 fs).storeSize = 0 ∧ fmtPlain 1 = true ∧ fmtPlain 7 = false ∧ fmtMx 7 = false ∧
      (s.slotEntries x).map (·.slot) = [1, 0] ∧ s.slotTicketsDone x (s.slotEntries x) = true ∧
      (s.slotEntries x).map (fun e => (placedStatus e.status, e.elems)) = [(true, 16), (true, 16)] ∧
      s.storeRefuses (2 * slotBytes 1 16 16 + 256) = false ∧ s.storeTurn x false = true ∧ (s.storeRun (2 * slotBytes 1 16 16 + 256) false).isSome := by decide +kernel

/-- An open row of two tokens. -/
def row0 : OpenRow := ⟨[1, 2], [1, 1], [0, 1], [], 1, 0, 0, 0x040000000000, 64, 8⟩

theorem witness_CaskPacking_rows :
    let fs : List (Nat × Nat × Nat) := [(0x10, 1, 1), (0x12, 1, 128), (0x14, 4, 8)]
    let s0 := streaming (stored (engaged 9 2 fs)) (stream 1 [] none) []
    let s := { s0 with recipes := [(0, { recipe .running (some launch0) with slots := [⟨0, 0, 2, 9, 0⟩, ⟨1, 0, 0, 1, 0⟩] })] }
    let ps : PackStream := ⟨0, [], [0], [row0], 0, [], 1⟩
    let x := work 9 2 fs
    s.running 0 1 9 0x02 = some x ∧ s.engineRuns 9 = true ∧ s.storeSize ≠ 0 ∧ s.storeRefuses (8 * 8) = false ∧ s0.rowStream x = none ∧ s.rowStream x = some (stream 1 [] none) ∧ (row0.width, row0.size) = (8, 8 * (4 + 4)) ∧
      (let r := placeAll 0 8 x.rowWindow 64 ps (⟨ps.rows, [], ps.dropped, ps.placed⟩, ps) ((stream 1 [] none).packable ps.packed)
       (if bitAt (BitVec.ofNat 8 (x.fieldAt 0x12 1)) 7 && (stream 1 [] none).allPacked r.2.packed then r.1.closed ++ r.1.rows else r.1.closed) = [row0]) ∧
      (let ps := s.packStream 1 0
       let r := placeAll 0 8 x.rowWindow 64 ps (⟨ps.rows, [], ps.dropped, ps.placed⟩, ps) ((stream 1 [] none).packable ps.packed)
       (if bitAt (BitVec.ofNat 8 (x.fieldAt 0x12 1)) 7 && (stream 1 [] none).allPacked r.2.packed then r.1.closed ++ r.1.rows else r.1.closed) = []) := by decide +kernel

/-- A closed part of the recipe, SEQ 7. -/
def part0 : PackPart := ⟨some 0, 0, 7, zeros 128, [(0, zeros 64)], false, 0x040020000000, 192⟩

theorem witness_CaskPacking_merge :
    (let fs : List (Nat × Nat × Nat) := [(0x10, 8, 0x040000008000), (0x18, 4, 1), (0x20, 8, 0x040000009000)]
     let s := withDram (engaged 9 3 fs) 0x040000008000 (leBytes 4 0 ++ leBytes 4 3)
     s.running 0 1 9 0x03 = some (work 9 3 fs) ∧ s.engineRuns 9 = true ∧ s.dramLe (0x040000008000 + 4) 4 ≠ 0 ∧ (work 9 3 []).fieldAt 0x18 4 = 0) ∧
    (let s := { engaged 9 4 [(0x10, 8, 7)] with store := { (on []).store with parts := [part0] } }
     (s.running 0 1 9 0x04).isSome ∧ s.partNamed ((s.recipeOfRing 9 0).map (·.1)) 7 0 = some part0 ∧ s.partNamed ((s.recipeOfRing 9 0).map (·.1)) 7 1 = none) := by
  decide +kernel

theorem test_discard : (after (exec (.discard 0 1) { engaged 9 4 [(0x10, 8, 7)] with store := { (on []).store with parts := [part0] } })).store.parts = [] := by
  decide +kernel
theorem test_model_load : ((after (exec (.modelLoad 0 1) (withDram (engaged 7 3 [(0x18, 8, 0x040000008000), (0x20, 4, 96)]) 0x040000008000 modelImage))).mash.models.map
    (fun e => e.2.tiles)) = [[0]] := by decide +kernel
theorem test_unload_vocab : (after (exec (.vocabUnload 0 1) { engaged 8 3 [] with vocabs := [(0, vocab0)] })).vocabs = [] := by decide +kernel
theorem test_crc_nvme : (crc64Nvme [0x31, 0x32, 0x33, 0x34, 0x35, 0x36, 0x37, 0x38, 0x39]).toNat = 0xAE8B14860A799888 := by decide +kernel

/-! ## Flash and translation -/

/-- A mounted flash with an armed bank whose unit 0 of space 1 is `mediaWord`. -/
def served (s : State) : State := ((withMedia s [(cwKey 0 0 0 0 0, mediaWord)]).setFld FTL_STATE_STATE 2).setFld MGT_BANK_ARMED 1

/-- The same with superblock 0 of two members, and other changes to the translation engine. -/
def paired (s : State) (f : Ftl → Ftl) : State :=
  let s := served s
  { s with
    flash := { s.flash with dies := [(0, die0), (32, die0)] }
    ftl := f { s.ftl with superblocks := [(0, ⟨[(0, 0), (32, 0)], .userData, 1, true, true, false⟩)] } }

theorem witness_FlashMedia_dies : (on []).flashRuns = true ∧ 31 % 32 < 32 ∧ 0 < (on []).channels ∧ [(5 : BitVec 5)].Nodup ∧
    (served (on [])).dieUsable 0 = true ∧ (served (on [])).die 0 = some die0 ∧ die0.state = .inUse ∧ die0.stuck = 0 ∧
    1 ≤ { die0 with stuck := 1 }.stuck := by decide +kernel

theorem witness_FlashMedia_reads : (served (on [])).readWaits ⟨0, 0, 0, 0, 0⟩ = false ∧ (served (on [])).missing 0 0 = false ∧
    (Table.find (served (on [])).flash.nand (CwAddr.key ⟨0, 0, 0, 0, 0⟩)).isSome ∧ (⟨some 3, none, true, []⟩ : CellState).bits = some 3 ∧
    1 ∉ (⟨some 3, none, true, []⟩ : CellState).miscorrects ∧
    (let s := { served (on []) with flash := { (served (on [])).flash with failed := [0] } }
     s.flashRuns = true ∧ s.missing 0 0 = true ∧ s.readWaits ⟨0, 0, 0, 0, 0⟩ = false) := by decide +kernel

set_option maxRecDepth 10000 in
theorem mediaWord_checks : mediaWord.checks = true := by decide +kernel

theorem witness_FlashMedia_phys :
    let s := served (engaged 0 0x40 [(0x18, 8, 0x040000010000), (0x20, 8, 0x040000009000)])
    (s.running 0 1 0 0x40).isSome ∧ s.engineRuns 0 = true ∧ (s.ring 0 0).ownerPriv = privM ∧ s.die 0 = some die0 ∧ s.dieUsable 0 = true ∧ s.dieUsable 1 = false ∧
      0 < die0.ident.blocks ∧ 0 < die0.ident.pages ∧ ((s.setRing 0 0 Ring.reset).ring 0 0).ownerPriv ≠ privM := by decide +kernel

theorem witness_FlashMedia_service :
    ((served (on [])).serviceFree 0 = true ∧ (served (on [])).serviceDeferred = false ∧
      (let s := { served (on []) with gtc := BitVec.allOnes 64 }
       (s.setFld FLS_CAL_CFG_PERIOD_S 5).fld FLS_CAL_CFG_PERIOD_S ≠ 0 ∧ (s.lastCal 0).1.toNat + 5 * 10 ^ 9 ≤ s.gtc.toNat) ∧
      ((served (on [])).setFld FLS_CAL_CFG_TEMP_DELTA 7).fld FLS_CAL_CFG_TEMP_DELTA = 7 ∧ 7 ≤ ((32 : Int) - ((served (on [])).lastCal 0).2).natAbs) ∧
    (let s := served (engaged 0 0x41 [(0x11, 1, 1)])
     (s.running 0 1 0 0x41).isSome ∧ (s.ring 0 0).ownerPriv = privM ∧ s.populated 0 = true ∧ s.flag FLS_SERVICE_BUSY = false ∧ 0 < s.channels) ∧
    (((served (on [])).setFld FLS_PATROL_CFG_PERIOD_H 1).fld FLS_PATROL_CFG_PERIOD_H ≠ 0 ∧ (served (on [])).patrolNext = (0, 1) ∧
      (Table.find (served (on [])).ftl.superblocks 0).isSome) := by decide +kernel

theorem witness_UnitReadsAndWrites_reads :
    (let s := served (engaged 0 1 [(0x10, 2, 1), (0x14, 4, 2), (0x18, 5, 254)])
     let x := work 0 1 [(0x10, 2, 1), (0x14, 4, 2), (0x18, 5, 254)]
     s.running 0 1 0 0x01 = some x ∧ s.engineRuns 0 = true ∧ s.recovering = false ∧ unitCount x = 2 ∧ s.ringPriv x ≠ privU ∧
       s.spaceCheck 1 254 2 false = none ∧ s.spaceCheck 1 255 2 false = some stRANGE ∧ s.runWaits 1 254 2 = false ∧ s.lookup 1 254 = none ∧
       (s.setRing 0 0 { ringM 0 with ownerPriv := privU }).ringPriv x = privU) ∧
    (let s := served (on [])
     s.lookup 1 0 = some 0 ∧ (s.space 1).isSome ∧ s.locAddr 0 = some ⟨0, 0, 0, 0, 0⟩ ∧ s.missing 0 0 = false ∧
       Table.find s.flash.nand (CwAddr.key ⟨0, 0, 0, 0, 0⟩) = some mediaWord ∧ s.healthOf ⟨0, 0, 0, 0, 0⟩ = Health.good ∧ mediaWord.kind = kindUser ∧
       mediaWord.space = 1 ∧ mediaWord.lua = 0 ∧ 0 ≤ mediaWord.seq) := by decide +kernel

theorem witness_UnitReadsAndWrites_writes :
    (let s := served (engaged 0 2 [(0x10, 2, 1), (0x20, 8, 0x040000010000)])
     (s.running 0 1 0 0x02).isSome ∧ s.writing (.desc 0 1) = false ∧ s.spaceCheck 1 0 1 true = none ∧ s.spaceHeld 1 = false) ∧
    (let s := served (engaged 0 3 [(0x10, 2, 1)])
     (s.running 0 1 0 0x03).isSome ∧ s.flag FLT_STATUS_SAFE = false ∧ s.ftl.waiting = [] ∧ (s.setFld FTL_JNL_CFG_LIMIT_EFF 1).appendFits = true ∧ s.ftl.writers = []) ∧
    (let s := served (engaged 0 6 [(0x10, 2, 1)])
     (s.running 0 1 0 0x06).isSome ∧ s.ftl.syncs = [] ∧ s.mounted = true ∧ (s.space 1).isSome ∧ s.ftl.syncPoint 1 ≤ s.ftl.durable ∧
       ({ s.ftl with journal := [⟨recTrim, 1, 1, 0, 0, 0⟩], appended := 1 } : Ftl).durable <
         ({ s.ftl with journal := [⟨recTrim, 1, 1, 0, 0, 0⟩], appended := 1 } : Ftl).syncPoint 1) := by decide +kernel

theorem witness_Spaces :
    (let s := (served (engaged 0 4 [(0x10, 2, 4095), (0x12, 1, 1), (0x18, 5, 16)])).setFld FTL_USER_LO_UNITS_L 272
     (s.running 0 1 0 0x04).isSome ∧ s.recovering = false ∧ s.flag FLT_STATUS_SAFE = false ∧ s.fld FTL_STATE_STATE = 2 ∧ Table.find s.ftl.spaces 4095 = none ∧
       s.spaceUnits + 16 ≤ s.userUnits) ∧
    (let s := served (engaged 0 5 [(0x10, 2, 1)])
     (s.running 0 1 0 0x05).isSome ∧ (s.space 1).isSome ∧ s.spaceHeld 1 = false ∧ s.mounted = true) ∧
    (let e := image 64 [(0x10, 2, 4095), (0x12, 1, 2), (0x18, 5, 16)]
     fitBytes 64 e = e ∧ leAt e 0x12 1 = 2 ∧ leAt e 0x18 5 = 16) ∧
    (let s := served (on [])
     let s := { s with ftl := { s.ftl with spaces := [(1, ⟨2, 256, 1, 0, true, 0, 0⟩)] } }
     (Table.find s.ftl.spaces 1).map (·.walking) = some true ∧ s.flashRuns = true) := by decide +kernel

/-- A round of the USER stream on superblock 0, programming since 0. -/
def userRound : OpenStream := ⟨some 0, 1023, [⟨1, 3, [], none, none, some 0, false⟩], 1, true, [], 1, [], 0⟩

theorem witness_ProgramsAndJournal :
    (let s := paired (on []) (fun f => { f with user := userRound })
     s.stream .userData = userRound ∧ (Table.find s.ftl.superblocks 0).map (fun x => x.members[1]?) = some (some (32, 0)) ∧ s.flashStarts = true ∧
       1 ∉ userRound.done ∧ s.sbReady 0 = true ∧ bitAt (s.reg FLS_CHAN_STATE) (32 / 32) = false ∧ 4 * userRound.round + 4 ≤ 4096) ∧
    (let s := { paired (on []) (fun f => { f with user := { userRound with programming := false } }) with gtc := 2 ^ 40 }
     s.flashRuns = true ∧ s.ftl.user.units ≠ [] ∧
       s.ftl.user.oldest.toNat + zeroActsAsOne (s.fld FTL_WRITE_CFG_FILL_US) * 1000 ≤ s.gtc.toNat) ∧
    (let s := paired (on []) (fun f => { f with metaSb := some 0, journal := List.replicate 126 ⟨recTrim, 1, 1, 0, 0, 0⟩ })
     126 ≤ s.ftl.journal.length ∧ (s.metaWrite kindJournal 0 0 (journalPage 0 0 (s.ftl.journal.take 126)) true).1.isSome ∧ s.ftl.metaStripe < 16384 ∧
       (Table.find s.ftl.superblocks 0).map (fun x => decide (x.members.Nodup ∧ (∀ e ∈ x.members, e.2 < 8192) ∧ x.members.length = 2)) = some true) ∧
    (let s := paired (on []) (fun f => { f with flashed := 2 ^ 60 })
     s.mounted = true ∧ Max.max 64 (s.fld FTL_CKPT_CFG_CKPT_MIB) * 1048576 < s.ftl.flashed) ∧
    (let s := paired (on []) (fun f => { f with directory := [(5, 9)], cached := [(0, true)], metaSb := some 0 })
     Table.find s.ftl.cached 5 = none ∧ (Table.find s.ftl.directory 5).isSome ∧ Table.find s.ftl.cached 0 = some true ∧
       (s.metaWrite kindMap 0 0 [] true).1.isSome) := by decide +kernel

theorem witness_ReclamationAndMounts_reclaim :
    (let s := ({ paired (on []) id with gtc := BitVec.allOnes 64 }).setFld FTL_GC_CFG_IDLE_MS 1
     s.ftl.gc = none ∧ s.pickVictim.map (·.1) = some 0 ∧ s.fld FTL_GC_CFG_IDLE_MS ≠ 0 ∧ s.ftl.lastWork.toNat + 1 * 10 ^ 6 ≤ s.gtc.toNat ∧
       s.validUnits 0 * 100 ≤ 60 * 500 ∧ s.freeSbs < s.freeLow) ∧
    (let g : GcRun := ⟨0, true, [0], 0, none⟩
     let s := paired (on []) (fun f => { f with gc := some g })
     s.locAddr 0 = some ⟨0, 0, 0, 0, 0⟩ ∧ s.gcHeld g = false ∧ bitAt (s.reg FLS_CHAN_STATE) 0 = false ∧
       (s.namedIn (locSb 0)).find? (fun e => e.2.2 == 0) = some (1, 0, 0) ∧ (s.namedIn (locSb 4)).find? (fun e => e.2.2 == 4) = none) ∧
    (let s := paired (on []) (fun f => { f with gc := some ⟨0, true, [], 0, none⟩ })
     s.movesPending 0 = false ∧ s.dieUsable 0 = true ∧ s.flash.failed.contains (0 / 32) = false ∧ s.blockRetired 0 0 = false ∧ s.flashStarts = true) ∧
    (let s := paired (on []) (fun f => { f with gc := some ⟨0, true, [], 0, some [0, 1]⟩ })
     1 ∈ [0, 1] ∧ (Table.find s.ftl.superblocks 0).map (fun x => x.members[1]?) = some (some (32, 0)) ∧ s.polderOn polPF = true ∧ s.power.flush = none) ∧
    (let s := paired (on []) id
     ({ s with flash := { s.flash with rebuilds := [32] } }).flashStarts = true) := by decide +kernel

theorem witness_ReclamationAndMounts_mount :
    (let s := on []
     s.flashRuns = true ∧ s.fld FTL_STATE_STATE = 0 ∧ (s.setFld FLS_POP_MODE 1).fld FLS_POP_MODE ≠ 0 ∧ s.ftl.anchor = none ∧
       s.usableChannels.length ≤ s.channels) ∧
    (let d (ch : Nat) : Nat × Die := (ch * 32, die0)
     let s := { on [] with flash := { (on []).flash with dies := (List.range (on []).channels).map d } }
     s.usableChannels.length = s.channels) := by decide +kernel

theorem test_training_rate : (after (exec (.channelTraining 2 [(0, die0.ident)] (some 7)) (on []))).chanRate 2 = 4 := by decide +kernel
theorem test_dead_die : let t := after (exec (.dieTimeout 0 false false) (served (on []))); t.dieUsable 0 = false ∧ t.flash.rebuilds = [0] := by decide +kernel
theorem test_read_range : ((after (exec (.read 0 1) (served (engaged 0 1 [(0x10, 2, 1), (0x14, 4, 2), (0x18, 5, 255)])))).takenAt 0 1).map (fun x => x.result.map (·.status.toNat)) =
    some (some stRANGE) := by decide +kernel
theorem test_fill_timer : (after (exec .fillTimer { paired (on []) (fun f => { f with user := { userRound with programming := false } }) with gtc := 2 ^ 40 })).ftl.user.programming = true := by
  decide +kernel

/-! ## Network -/

/-- Sub-port 0 is up, with a queue pair 5 of recipe 0 in a state, and other changes to the network side. -/
def netted (s : State) (st : Nat) (f : Net → Net) : State :=
  let q : Qp := ⟨st, false, 0, 2, 7, false, some 0, 0, 9, [], [], 0, none, false, none, none, none, []⟩
  { s with net := f { s.net with qps := [(5, q), (6, { q with control := true })], subports := s.net.subports.set 0 { SubPort.reset with up := true } } }

/-- A packet of queue pair 5 that waits or flies. -/
def packet0 : OutPacket := ⟨5, 0, 1, .send true true [], .other, none, 0, 0, 1, 0⟩

theorem witness_PortsAndPauses :
    (let s := on []
     s.mayWrite .host = true ∧ s.netRuns = true ∧ 0 < Config.ethPorts s.part.variant ∧ bitAt (s.reg NET_PORT_CFG) 31 = false ∧
       ({ s with net := { s.net with ports := [(0, 0xC0000000)] } }).subportExists 1 = true ∧ (s.subport 1).up = false) ∧
    (let s := netted (on []) qpRTS id
     (s.subport 0).up = true ∧ (s.subport 0).puntCount < 100000 ∧ s.fld NET_PRIO_CFG_DATA_PRIO < 8) ∧
    (let s := netted { on [] with gtc := 5 } qpRTS (fun n => { n with subports := n.subports.set 0 { SubPort.reset with up := true, pausedSince := some 1, pausedUntil := 5 } })
     (s.subport 0).pausedSince.isSome ∧ (s.subport 0).pausedUntil ≤ s.gtc) ∧
    (let s := netted { on [(WER_PAUSE_STAT, 2 ^ 8)] with gtc := 40000 } qpRTS id
     s.xoffSent 0 = true ∧ 40000 ≤ (s.gtc - (s.subport 0).lastPause).toNat) ∧
    (let s := netted { on [] with gtc := 2 ^ 40 } qpRTS (fun n => { n with queues := [(queueKey 0 1 7, ⟨[], Entity.zero, some 1000, some 5, 0⟩)] })
     (s.qpAt 5).isSome ∧ (s.qpAt 5).map (s.qpService 5) = some 1 ∧ (s.queueAt (queueKey 0 1 7)).rc = some 1000 ∧ 50000 ≤ (s.gtc - 5).toNat ∧
       zeroActsAsOne (s.fld WER_CC_CFG_INTERVAL) * 1000 ≤ (s.gtc - (s.queueAt (queueKey 0 1 7)).lastRise).toNat) := by decide +kernel

theorem witness_WeirSchedules :
    (let s := netted (on []) qpRTS (fun n => { n with subports := n.subports.set 0 { SubPort.reset with up := true, urgent := [{ packet0 with body := .cnp }] } })
     s.netRuns = true ∧ (s.subport 0).up = true ∧ (s.subport 0).urgent.find? (s.urgentReady (s.subport 0)) = some { packet0 with body := .cnp }) ∧
    (let s := netted (on []) qpRTS (fun n => { n with queues := [(queueKey 0 1 7, ⟨[packet0], Entity.zero, none, none, 0⟩)] })
     (s.subport 0).urgent.find? (s.urgentReady (s.subport 0)) = none ∧ s.nextQueue 0 = some (1, queueKey 0 1 7) ∧
       (s.queueAt (queueKey 0 1 7)).packets = [packet0] ∧ s.nextQueue 1 = none) ∧
    (let s := netted (on []) qpRTS (fun n => { n with queues := [(queueKey 0 1 7, ⟨[packet0], { Entity.zero with slot := some 3 }, none, none, 0⟩)] })
     Table.canonical WeirQueue.empty s.net.queues = true ∧ Table.canonical ServiceNode.zero s.net.nodes = true ∧ s.gtc.toNat % 1024 = 0) ∧
    ({ Entity.zero with slot := some 3 }.slot = some 3 ∧ 255 < (3 + 1) * 64 ∧ (3 + 1) * 64 ≤ 256 ∧ ({ Entity.zero with slot := some 3 }).e.floor / 64 ≤ 3) ∧
    ((on []).polderOn polPN = true ∧ (on []).mayWrite .host = true) := by decide +kernel

theorem witness_QueuePairs :
    ((on []).netWrites .host = true ∧ (on []).qpSelected = 0 ∧ (on []).qpAt 0 = none ∧ (on []).boundElsewhere 0 .rdmaQp = false) ∧
    (let s (st : Nat) := netted (on [(RDM_QCT_IDX, 5 * 2 ^ RDM_QCT_IDX_QCN.lo)]) st id
     (s qpINIT).qpSelected = 5 ∧ (s qpINIT).netWrites .host = true ∧ ((s qpINIT).qpAt 5).map (·.state) = some qpINIT ∧
       ((s qpERR).qpAt 5).map (·.state) = some qpERR ∧ (s qpERR).flushDone 5 = true) ∧
    (let s := netted (on []) qpRTS (fun n => { n with qps := n.qps.map (fun e => (e.1, { e.2 with flight := [packet0], timer := some 0 })) })
     s.netRuns = true ∧ (s.qpAt 5).map (fun q => decide (q.timer = some 0 ∧ (0 : Word64) ≤ s.gtc ∧ q.flight ≠ [] ∧ q.retries < s.retryLimit q ∧
       s.retryLimit { q with retries := 100 } ≤ 100)) = some true) := by decide +kernel

/-- A DELIVER of `part0` in progress. -/
def deliver0 : Delivery := ⟨0, 1, 5, 6, 3, 7, 100, { part0 with out := true }, false, 0, 0, false, false, false, 0, 0, 0⟩

theorem witness_Deliveries :
    (let fs : List (Nat × Nat × Nat) := [(0x10, 8, 7), (0x1A, 2, 5), (0x1C, 2, 6)]
     let s := netted { engaged 10 1 fs with store := { (on []).store with parts := [part0] } } qpRTS id
     let x := work 10 1 fs
     s.running 0 1 10 0x01 = some x ∧ s.engineRuns 10 = true ∧ s.deliveryOf 0 1 = none ∧ s.flag GTC_FENCE_FENCED = false ∧
       (s.setFld GTC_FENCE_FENCED 1).flag GTC_FENCE_FENCED = true ∧ (s.setFld GTC_FENCE_FENCED 1).engineRuns 10 = true ∧
       s.qpUsable x 5 false = true ∧ s.qpUsable x 6 true = true ∧ s.qpUsable x 6 false = false ∧
       s.partNamed ((s.recipeOfRing 10 0).map (·.1)) 7 0 = some part0) ∧
    (let msg := image 64 [(0, 4, grantMagic), (4, 1, 2), (5, 1, 3), (0xC, 2, 7), (0x10, 8, 7), (0x20, 4, 2), (0x30, 4, 128)]
     let s := netted (engaged 10 1 []) qpRTS (fun n => { n with deliveries := [deliver0] })
     (s.qpAt 6).isSome ∧ s.netRuns = true ∧ (s.subport 0).up = true ∧ leAt msg 0 4 = grantMagic ∧ s.waitingFor (grantOf msg) = some deliver0 ∧
       s.takenAt 0 1 = some (work 10 1 []) ∧ (grantOf msg).typ = 2 ∧
       ¬ ((grantOf msg).length < in64 (partNeed part0) ∨ (grantOf msg).manLen < part0.manifest.length) ∧ 0 < in64 (partNeed part0)) ∧
    (let s := netted { engaged 10 1 [] with gtc := 100 } qpRTS (fun n => { n with deliveries := [deliver0] })
     s.deliveryOf 0 1 = some deliver0 ∧ deliver0.deadline ≠ 0 ∧ deliver0.deadline ≤ s.gtc.toNat ∧ (s.qpAt deliver0.dataQ).isSome ∧
       { deliver0 with granted := true, sealLeft := true }.releaseSent = false) := by decide +kernel

theorem witness_Regions :
    (let fs : List (Nat × Nat × Nat) := [(0x10, 4, 0x010FFFFF), (0x18, 8, 0x040000000000), (0x20, 8, 2 ^ 30), (0x28, 8, 0x040000008000)]
     let s := engaged 10 3 fs
     let x := work 10 3 fs
     s.running 0 1 10 0x03 = some x ∧ x.fieldAt 0x10 4 % 2 ^ 20 = 2 ^ 20 - 1 ∧ s.registerBad x = false ∧ s.generationRecent RegionEntry.fresh = false ∧
       s.generationRecent { RegionEntry.fresh with retired := [(0, 0)] } = true ∧ s.registerBad (work 10 3 []) = true) ∧
    (let e : RegionEntry := ⟨none, 0x040000000000, 4096, 1, 3, true, none, []⟩
     let s := netted (engaged 10 4 []) qpRTS (fun n => { n with regions := [(0, e)] })
     s.running 0 1 10 0x04 = some (work 10 4 []) ∧ s.regionEntry 0 = e ∧ (∀ g ∈ s.net.qps, g.2.holds 0 = false) ∧
       Table.canonical RegionEntry.fresh s.net.regions = true ∧
       ((s.qpAt 5).map (fun q => ({ q with incoming := some ⟨0, 0, false⟩ } : Qp).holds 0)) = some true ∧
       zeroActsAsOne (s.fld RDM_REVOKE_CFG_REVOKE_TMO) * 1000000 ≤ ((2 ^ 40 : Word64) - 0).toNat) ∧
    (let fs : List (Nat × Nat × Nat) := [(0x10, 2, 5), (0x28, 4, 1048640)]
     let s := netted (engaged 10 2 fs) qpRTS id
     s.running 0 1 10 0x02 = some (work 10 2 fs) ∧ s.qpUsable (work 10 2 fs) 5 false = true ∧ 1048640 % 64 = 0) := by decide +kernel

theorem witness_PacketsArrive :
    let e : RegionEntry := ⟨none, 0x040000000000, 4096, 1, 3, true, none, []⟩
    let s := netted (on []) qpRTS (fun n => { n with regions := [(2, e)] })
    s.netRuns = true ∧ (s.subport 0).up = true ∧ (0x800005 : BitVec 24).toNat = 0x800000 + 5 ∧ s.qpAt 9 = none ∧
      (s.qpAt 5).map (fun q => decide (q.sub = 0 ∧ q.state = qpRTS ∧ q.epsn = 9 ∧ q.incoming = none ∧ 4096 ≤ q.mtu)) = some true ∧
      (∀ r ∈ s.net.regions, r.2.revoking = none) ∧ s.keyCheck (rkeyOf 2 3) 0x040000000FF0 16 0 = .pass ∧ s.keyCheck (rkeyOf 2 3) 0x040000000FF0 17 0 ≠ .pass ∧
      0 < psnAfter 10 9 ∧ psnAfter 8 9 = 2 ^ 24 - 1 := by decide +kernel

theorem test_write_stores : let e : RegionEntry := ⟨none, 0x040000000000, 4096, 1, 3, true, none, []⟩
    let t := after (exec (.packetReceive ⟨0, 0x800005, 9, false, .write true true 0x040000000010 (rkeyOf 2 3) 2 none [7, 8]⟩ 0 0) (netted (on []) qpRTS (fun n => { n with regions := [(2, e)] })))
    t.physBytes 0x040000000010 2 = [7, 8] ∧ (t.qpAt 5).map (·.epsn) = some 10 := by decide +kernel
theorem test_rts_rejected : (after (exec (.rts .host) (netted (on [(RDM_QCT_IDX, 5 * 2 ^ RDM_QCT_IDX_QCN.lo)]) qpINIT id))).flag RDM_QP_STATE_CMD_REJECT = true := by
  decide +kernel
theorem test_pfc_release : ((after (exec (.pfcReceive 0 (BitVec.ofNat 3 ((on []).fld NET_PRIO_CFG_DATA_PRIO)) 0) (netted (on []) qpRTS
    (fun n => { n with subports := n.subports.set 0 { SubPort.reset with up := true, pausedSince := some 1 } })))).subport 0).pausedSince = none := by decide +kernel

/-! ## Host interface -/

/-- The PF's controller, which has fetched nothing yet. -/
def pf : Controller := ⟨0, 12, false, false, [], [], [], [], ⟨0, 0, []⟩, 0, none, 0, []⟩

/-- The link is up, the PF is enabled, and a command of this opcode stands first in its admin queue or in I/O queue 1. -/
def asked (admin : Bool) (op : Nat) (fs : List (Nat × Nat × Nat)) : State :=
  let s := ((withMedia (on [(HST_LINK, 2 ^ HST_LINK_UP.lo)]) []).setFld FTL_STATE_STATE 2)
  { s with
    ftl := { s.ftl with spaces := [(1, ⟨1, 256, 1, 0, false, 1, 0⟩)] }
    qct := [(1, .nvmeQueue 0 0), (2, .nvmeQueue 0 0)]
    host := { s.host with
      mem := Mem.store [] 0x10000 (image 64 ((0, 1, op) :: (2, 2, 9) :: fs)), controllers := [pf]
      sqs := [if admin then ⟨0, 0, 1, 0x10000, 16, 0, 1, 0, 0⟩ else ⟨0, 1, 1, 0x10000, 16, 0, 1, 0, 0⟩]
      cqs := [⟨0, 0, 2, 0x20000, 16, 0, 0, true, 0, true, []⟩] } }

/-- The command is taken from queue `qid`, and what follows it holds of its entry and of the state behind it. -/
def takes (admin : Bool) (op qid : Nat) (fs : List (Nat × Nat × Nat)) (p : List Byte → State → Bool) : Bool :=
  ((asked admin op fs).takeNvme 0 admin op).any (fun r => r.1 == qid && cmdCid r.2.1 == 9 && !cmdBadPsdt r.2.1 && p r.2.1 r.2.2)

theorem witness_HostLinkAndQueues_link : (on []).polderOn polPH = true ∧ (on []).linkUp = false ∧ (6 : BitVec 3).toNat ≤ 6 ∧ (16 : BitVec 5).toNat ∈ [1, 4, 8, 16] ∧
    (on [(HST_LINK, 2 ^ HST_LINK_UP.lo)]).linkUp = true ∧ (on []).functionExists 0 = true ∧ (on []).controller 0 = none ∧
    (State.bindNvme { on [] with qct := [(0, .rdmaQp)] } 0 0).map (fun r => r.1) = some 1 ∧
    (asked true 6 []).doorbellsOff = false ∧ ((asked true 6 []).sq 0 0).isSome ∧ (15 : Word32).toNat < 16 ∧ ((asked true 6 []).controller 0).isSome ∧
    ((asked true 6 []).sq 0 3).isNone ∧ ((asked true 6 []).cq 0 0).map (·.held) = some [] ∧ ((asked true 6 []).cq 0 3).isNone := by decide +kernel

theorem witness_HostLinkAndQueues_complete : takes true 6 0 [] (fun _ _ => true) = true ∧
    (∃ q a, (asked true 6 []).pickSq pf = some (q, a) ∧ q.qid = 0 ∧ q.waits = true) ∧ (asked true 6 []).hostPosts = true ∧
    (match (asked true 6 []).cq 0 0 with | some q => decide ((q.tail + 1) % q.entries ≠ q.head ∧ q.held = []) | none => false) = true :=
  ⟨by decide +kernel, ⟨_, _, rfl, rfl, rfl⟩, by decide +kernel, by decide +kernel⟩

theorem witness_NvmeCommands_admin :
    takes true 0x05 0 [(40, 4, 15 * 65536 + 128), (44, 4, 1)] (fun e s => cmdDw e 11 % 2 == 1 && cmdDw e 10 % 65536 == 128 && (s.cq 0 128).isNone && cmdDw e 10 / 65536 == 15) = true ∧
    takes true 0x01 0 [(40, 4, 15 * 65536 + 1), (44, 4, 65537)] (fun e s => (s.sq 0 1).isNone && cmdDw e 11 / 65536 == 1 &&
      (({ s with host := { s.host with cqs := [⟨0, 1, 2, 0, 16, 0, 0, true, 0, true, []⟩] } }).cq 0 1).isSome) = true ∧
    takes true 0x00 0 [(40, 4, 1)] (fun e s => cmdDw e 10 % 65536 != 0 && (({ s with host := { s.host with sqs := [⟨0, 1, 1, 0, 16, 0, 1, 0, 0⟩] } }).sq 0 1).isSome) = true ∧
    takes true 0x04 0 [(40, 4, 1)] (fun _ s => s.host.sqs.all (fun r => !(r.fn == 0 && r.cqid == 1))) = true ∧
    takes true 0x06 0 [(40, 4, 2)] (fun e _ => cmdDw e 10 % 256 == 2) = true ∧
    takes true 0x06 0 [(4, 4, 1)] (fun e s => cmdDw e 10 % 256 == 0 && (s.attached 0 (cmdNsid e)).isSome) = true ∧
    takes true 0x02 0 [(40, 4, 1)] (fun e _ => cmdDw e 10 % 256 == 1) = true ∧ takes true 0x08 0 [] (fun _ _ => true) = true ∧
    takes true 0x09 0 [(40, 4, 4)] (fun e s => decide (cmdDw e 10 < 2 ^ 31) && [0x01, 0x04, 0x08, 0x09, 0x0B].contains (cmdDw e 10 % 256) && (s.controller 0).isSome) = true ∧
    takes true 0x0A 0 [(40, 4, 2)] (fun e _ => cmdDw e 10 % 256 == 2) = true ∧
    takes true 0x0C 0 [] (fun _ s => (s.controller 0).any (fun c => c.events.isEmpty && decide (c.aers.length < 4))) = true ∧
    (let c : Controller := { pf with apst := [(10 * 256 + 3 * 8 : Word64)], features := [(0x0C, 1)] }
     bitAt (c.feature 0x0C) 0 = true ∧ natAt (c.apst.getD 0 0) 3 5 = 3 ∧ natAt (c.apst.getD 0 0) 8 24 * 1000000 ≤ ((2 ^ 40 : Word64) - c.idleSince).toNat) := by
  decide +kernel

theorem witness_NvmeCommands_io :
    ((asked false 2 []).recovering = false ∧ (asked false 2 []).fnTurn = some 0) ∧
    takes false 0x02 1 [(4, 4, 1), (40, 8, 255)] (fun e s => cmdBlocks e == 1 && (s.ioCheck 0 e (cmdSlba e) 1 false).isNone && ((s.readRun 1 255 1).1.all (fun u => u.isSome))) = true ∧
    takes false 0x02 1 [(4, 4, 1), (40, 8, 256)] (fun e s => (s.ioCheck 0 e (cmdSlba e) 1 false).isSome) = true ∧
    takes false 0x01 1 [(4, 4, 1), (48, 4, 255)] (fun e s => cmdBlocks e == 256 && (s.ioCheck 0 e (cmdSlba e) 256 true).isNone) = true ∧
    takes false 0x08 1 [(4, 4, 1)] (fun e s => (s.ioCheck 0 e (cmdSlba e) 1 true).isNone) = true ∧
    takes false 0x00 1 [(4, 4, 1)] (fun e s => s.mounted && (s.attached 0 (cmdNsid e)).isSome) = true ∧
    takes false 0x00 1 [(4, 4, 0xFFFFFFFF)] (fun e s => s.mounted && cmdNsid e == 0xFFFFFFFF && (s.attached 0 2).isNone) = true ∧
    takes false 0x09 1 [(4, 4, 1)] (fun e s => (s.ioCheck 0 e 0 0 true).isNone && cmdDw e 11 / 4 % 2 == 0) = true := by decide +kernel

theorem witness_HostDelivery :
    takes true 0xC1 0 [(40, 4, 15)] (fun e s => (List.range 16).find? (fun k => (s.cmdRing k).isNone) == some 0 && decide (16 ≤ cmdDw e 10 % 4096 + 1) &&
      cmdPrp1 e % 4096 == 0 && cmdPrp2 e % 4096 == 0) = true ∧
    takes true 0xC2 0 [(40, 4, 6)] (fun e s => cmdDw e 10 == 6 && s.host.grants.isEmpty) = true ∧ (hosted.cmdRingOf 6 = some 1) ∧
    (let s := { engaged 11 2 [(0x10, 8, 7)] with store := { (on []).store with parts := [part0] } }
     let x := work 11 2 [(0x10, 8, 7)]
     s.running 0 1 11 0x02 = some x ∧ s.engineRuns 11 = true ∧ s.hostDelivery 0 1 = none ∧ s.flag GTC_FENCE_FENCED = false ∧
       s.partNamed ((s.recipeOfRing 11 0).map (·.1)) 7 0 = some part0) ∧
    (let g : CaskGrant := ⟨.manager 9, 0, 0x30000, 2, 128, 0x40000⟩
     let s := engaged 11 2 [] [(HST_LINK, 2 ^ HST_LINK_UP.lo)]
     let s := { s with host := { s.host with grants := [(0, [g])], deliveries := [⟨0, 1, part0, none, 0⟩] } }
     (s.hostDelivery 0 1).map (·.grant) = some none ∧ s.grantsOf 0 = [g] ∧ s.linkUp = true ∧ ¬ (g.length < in64 (partNeed part0) ∨ g.manLen < part0.manifest.length)) := by
  decide +kernel

/-- DMA channel 63 moves `n` bytes within DRAM, unpaused. -/
def moving (n : Nat) (owner : Option (Nat × Nat)) : State :=
  let s := on []
  let s := (((s.setFld (chan DMA_CH_COUNT_BYTES 63) n).setFld (chan DMA_CH_SRC_LO_ADDR_L 63) 0x1000).setFld (chan DMA_CH_SRC_HI_ADDR_H 63) 0x400).setFld (chan DMA_CH_DST_HI_ADDR_H 63) 0x400
  s.setDmaRun 63 ⟨0, false, false, 0, 0, owner, 0, false⟩

theorem witness_MoversAndPools_dma :
    ((on []).mayWrite .host = true ∧ (on []).polderOn polPH = true ∧ (on []).dmaBusy 63 = false ∧ (moving 1 none).dmaBusy 63 = true ∧
      (let s := (((on []).setFld (chan DMA_CH_CTL_MODE 63) 1).setFld (chan DMA_CH_COUNT_BYTES 63) 64)
       s.dmaMode 63 = 1 ∧ s.dmaCount 63 = 64 ∧ swapFits (s.fld (chan DMA_CH_CTL_SWAP 63)) (s.dmaSrc 63) (s.dmaDst 63) 64 = true ∧
         ((on []).setFld (chan DMA_CH_CTL_MODE 63) 1).dmaCount 63 = 0) ∧
      ((moving 1 none).setFlag (chan DMA_CH_CTL_PAUSE 63) true).flag (chan DMA_CH_CTL_PAUSE 63) = true) ∧
    (let x := work 11 1 [(0x20, 4, 6), (0x24, 1, 3)]
     let s := busy (on []) x
     s.running 0 1 11 0x01 = some x ∧ s.engineRuns 11 = true ∧ s.copyBad x = false ∧ x.unit < 64 ∧ swapFits 3 0 0 6 = false ∧ swapFits 0 0 0 6 = true) ∧
    ((moving 5000 none).dmaPick = some (63, false) ∧ ((moving 5000 none).dmaRun 63).map ((moving 5000 none).burstSize 63) = some 4096 ∧
      (moving 5000 none).regionAt ((moving 5000 none).dmaSrc 63 % 2 ^ 48) 4096 = .dram ∧ (moving 5000 none).regionAt ((moving 5000 none).dmaDst 63 % 2 ^ 48) 4096 = .dram) ∧
    ((moving 0 (some (0, 1))).dmaCount 63 = 0 ∧ (moving 0 none).dmaPaused 63 = false ∧ (moving 0 none).shadowValid 63 = false) := by decide +kernel

/-- Pool 0 of two buffers at the start of DRAM, enabled, with its bitmap behind it and `n` buffers free. -/
def pooled (s : State) (n : Nat) (building : Bool) : State :=
  let s := ((((s.setFld (pool BPM_POOL_BASE_HI_BASE_H 0) 0x400).setFld (pool BPM_POOL_CFG_COUNT 0) 2).setFld (pool BPM_POOL_CFG_EN 0) 1).setFld (pool BPM_POOL_FREE_FREE 0) n).setFlag
    (pool BPM_POOL_CFG_BUILDING 0) building
  let s := (s.setFld BPM_BITMAP_HI_ADDR_H 0x400).setFld BPM_BITMAP_LO_ADDR_L 0x1000
  { s with host := { s.host with poolHeads := [(0, 0x040000000000)] } }

theorem witness_MoversAndPools_pools :
    ((pooled (on []) 2 false).poolOn 0 = true ∧ (pooled (on []) 2 false).poolFree 0 = (pooled (on []) 2 false).poolCount 0 ∧
      (pooled (on []) 1 false).poolFree 0 ≠ (pooled (on []) 1 false).poolCount 0 ∧ (pooled (on []) 1 false).flag (pool BPM_POOL_CFG_BUILDING 0) = false ∧
      (pooled (on []) 0 true).flag (pool BPM_POOL_CFG_BUILDING 0) = true ∧ (pooled (on []) 2 false).poolOn 1 = false ∧
      ((pooled (on []) 2 false).setFld (pool BPM_POOL_BASE_HI_BASE_H 1) 0x500).poolRefused 1 2 = false) ∧
    (let fs : List (Nat × Nat × Nat) := [(0x10, 4, 1), (0x14, 1, 2), (0x18, 8, 0x040000020000)]
     let x := work 12 1 fs
     let s := pooled (busy (on []) x) 2 false
     s.running 0 1 12 0x01 = some x ∧ s.engineRuns 12 = true ∧ poolFor 1 = some 0 ∧ s.poolBroken 0 = false ∧ s.poolHead 0 = 0x040000000000 ∧
       (withDram s 0x040000000000 (leBytes 8 (0x040000000000 + poolBuffer 0))).walkFree 0 0x040000000000 2 = some ([0x040000000000, 0x040000000000 + poolBuffer 0], 0) ∧
       (withDram s 0x040000000000 [1]).walkFree 0 0x040000000000 2 = none ∧ (pooled (busy (on []) x) 1 false).poolFree 0 < 2) ∧
    (let x := work 12 2 [(0x14, 1, 1), (0x18, 8, 0x040000020000)]
     let s := withDram (pooled (busy (on []) x) 1 false) 0x040000020000 (leBytes 8 0x040000000000)
     s.running 0 1 12 0x02 = some x ∧ s.poolOfAddr 0x040000000000 = some (0, 0) ∧ s.poolOfAddr 0x040000000001 = none ∧ s.allocated 0 0 = false ∧
       (withDram s 0x040000040000 [1]).allocated 0 0 = true) := by decide +kernel

theorem test_nvme_abort : (after (exec (.abort 0) (asked true 8 []))).hostBytes 0x20000 16 = image 16 [(0, 4, 1), (8, 2, 1), (12, 2, 9), (14, 2, 1)] := by decide +kernel
theorem test_go_ignored : (after (exec (.go .host 63) (moving 1 none))).fld DMA_ERR_CNT_GO_IGNORED = 1 := by decide +kernel
theorem test_free_unaligned : ((after (exec (.free 0 1) (withDram (pooled (busy (on []) (work 12 2 [(0x14, 1, 1), (0x18, 8, 0x040000020000)])) 1 false) 0x040000020000
    (leBytes 8 0x040000000001)))).takenAt 0 1).map (fun x => x.result.map (·.status.toNat)) = some (some stBAD_ADDR) := by decide +kernel

/-! ## System, power, faults, identity -/

/-- The module takes part in a leased system at GTC value `g`. -/
def leasing (g : Word64) (f : System → System) : State :=
  let s := (on []).setFlag GTC_FENCE_LEASE_EN true
  { s with gtc := g, system := f s.system }

theorem witness_Leases :
    ((leasing 0 id).inSystem = true ∧ (leasing 0 id).leased = true ∧ (leasing 0 id).system.lastAsk = none) ∧
    ((leasing 500000000 (fun y => { y with lastAsk := some 0 })).system.lease ≤ 4 * ((leasing 500000000 id).gtc - 0).toNat) ∧
    (let s := leasing 10 (fun y => { y with asked := true, lastAsk := some 5 })
     s.system.asked = true ∧ (5 : Word64) ≤ 7 ∧ ((7 : Word64) - 5).toNat ≤ 500000000 ∧ s.gtc < 5 + BitVec.ofNat 64 500000000 ∧
       s.gtc < 5 + BitVec.ofNat 64 30000000000) ∧
    ((leasing 10 (fun y => { y with expiry := 10 })).flag GTC_FENCE_FENCED = false ∧ (leasing 10 id).mayWrite .host = true ∧
      (leasing (2 ^ 32) id).gtc ≤ ((1 : Word32) ++ (leasing (2 ^ 32) id).reg GTC_LEASE_LO : Word64) ∧
      ((0 : Word32) ++ (leasing (2 ^ 32) id).reg GTC_LEASE_LO : Word64) < (leasing (2 ^ 32) id).gtc) ∧
    ((leasing 10 (fun y => { y with expiry := 11 })).gtc < 11 ∧ (10 : Word64) ≤ (leasing 10 id).gtc) := by decide +kernel

theorem witness_ManagerAndTime_duties :
    ((leasing (2 ^ 40) id).inSystem = true ∧ (0 : Word64) ≤ (leasing (2 ^ 40) id).gtc ∧
      (leasing (2 ^ 40) id).system.lease + 1000000000 ≤ ((leasing (2 ^ 40) id).gtc - 0).toNat ∧ (leasing (2 ^ 40) id).system.dead = []) ∧
    ((leasing (2 ^ 40) id).system.office = false ∧
      3 ≤ ([0, 0, 0] : List Word64).countP (fun g => decide (g ≤ (leasing (2 ^ 40) id).gtc) && decide ((leasing (2 ^ 40) id).system.lease ≤ ((leasing (2 ^ 40) id).gtc - g).toNat))) ∧
    (let s := leasing 0 (fun y => { y with drops := [(2 ^ 32, ([1], 3))] })
     Table.find s.system.drops (2 ^ 32 + 1) = none ∧ (∀ b, b < 1 → (Table.find s.system.drops (2 ^ 32 + b)).isSome) ∧ (4 : Nat) ≤ 65536) ∧
    (backupDelay 0 ≤ ((leasing 30000000 id).gtc - 0).toNat ∧ backupDelay 1 = 1000000 ∧ (leasing 0 id).system.backups = []) ∧
    (({ leasing 0 id with store := { (on []).store with parts := [part0] } } : State).store.parts.find? (fun p => p.seq == 7 && !p.out) = some part0) ∧
    (((3 : BitVec 14), (9 : Word64)).2 ≠ ((4 : BitVec 14), (8 : Word64)).2 ∧ (leasing 0 id).system.kept = [] ∧
      (leasing 0 (fun y => { y with kept := [(7, 0)] })).system.kept = [(7, 0)]) := by decide +kernel

theorem witness_ManagerAndTime_time :
    ((leasing 0 id).system.stepDue = none ∧ (leasing 0 id).inSystem = true ∧ (leasing 0 id).system.joined < 15 ∧ (leasing 0 id).noLaunch = true ∧
      (leasing 0 (fun y => { y with joined := 15 })).system.joined = 15 ∧ (16 ≤ (leasing 0 (fun y => { y with joined := 16, streak := 7 })).system.joined) ∧
      (leasing 0 (fun y => { y with joined := 16, streak := 7 })).system.ahead = false ∧ (leasing 0 id).fld GTC_SYNC_STATE ≠ 3 ∧
      (-2 ^ 31 : Int) ≤ -1000001 ∧ (250 : Int) < 2 ^ 31) ∧
    (({ leasing 0 id with recipes := [(1, recipe .waiting none)] } : State).noLaunch = false) ∧
    (let s := leasing 2000000000 (fun y => { y with lastPtp := some 0 })
     s.system.lastPtp = some 0 ∧ 2000000000 ≤ (s.gtc - 0).toNat ∧ s.fld GTC_SYNC_STATE ≠ 3) := by decide +kernel

theorem test_fence_counts : let t := after (exec .fence (leasing 10 (fun y => { y with expiry := 10 })))
    t.flag GTC_FENCE_FENCED = true ∧ t.fld GTC_ERR_CNT_FENCES = 1 := by decide +kernel
theorem test_renewal_early : (after (exec .leaseRenewal (leasing 499999999 (fun y => { y with lastAsk := some 0 })))).system.out = [] := by decide +kernel
theorem test_ptp_lost : (after (exec (.ptpExchange 10001 300000) (leasing 0 (fun y => { y with joined := 16 })))).fld GTC_RATE_PPB = 200000 ∧
    (after (exec (.ptpExchange 10001 0) (leasing 0 (fun y => { y with joined := 16 })))).flag GTC_SYNC_LOST = true ∧
    (after (exec (.ptpExchange 10000 0) (leasing 0 (fun y => { y with joined := 16 })))).flag GTC_SYNC_LOST = false := by decide +kernel

/-- The module stands in a phase of the power logic, with other changes to it. -/
def phased (s : State) (ph : PowerPhase) (f : Power → Power) : State := { s with power := f { s.power with phase := ph } }

/-- A ladder with these polders left, whose last step powered PC at GTC 0. -/
def climbing (kind : LadderKind) (left : List Nat) (g : Word64) (l : List (Nat × Nat)) : State :=
  { phased (on l) (.ladder kind) (fun p => { p with ladder := ⟨left, [(polPC, 0)], 0, false⟩ }) with gtc := g }

theorem witness_PowerUpAndResets_up :
    ((phased (on []) .unpowered id).power.phase = .unpowered ∧ (phased (on []) .flushed id).power.phase = .flushed ∧
      (phased (on []) .off (fun p => { p with matched := true })).power.matched = true ∧ (phased (on []) .off id).power.matched = false) ∧
    (State.reset.power.phase = .cold ∧ State.reset.fld POL_STAGGER_SLOT * State.reset.fld POL_STAGGER_STEP_US * 1000 ≤ State.reset.gtc.toNat) ∧
    ((climbing .cold [] 10000 []).ladderDone 10000 = true ∧ (climbing .cold [] 9999 []).ladderDone 10000 = false ∧
      (∀ b ∈ ([0, 3] : List (BitVec 2)).take (Config.ddrChannels (on []).part.variant), b ≠ 1 ∧ b ≠ 2)) ∧
    (let s := climbing .cold [polPF] 50000 []
     s.power.ladder.left = [polPF] ∧ polPF ∈ ladderOrder ∧ s.ladderSpaced = true ∧
       s.ladderLoad polPF ≤ Nat.max 11 (s.fld POL_LADDER_BUDGET_W) ∧
       (let t := { s with power := { s.power with ladder := { s.power.ladder with begun := [(polPX, 0), (polPD, 0), (polPT, 0)] } } }
        Nat.max 11 (t.fld POL_LADDER_BUDGET_W) < t.ladderLoad polPF ∧ t.ladderSpaced = true ∧ t.power.ladder.delayed = false)) := by decide +kernel

theorem witness_PowerUpAndResets_pads :
    (natAt (0xA5C30001 : Word32) 16 16 = 0xA5C3 ∧ natAt (0xA5C30001 : Word32) 0 2 = 1 ∧ (on []).mayReset .host = true ∧ (on []).mayReset .sideband = true ∧
      (on []).power.phase.resets = true ∧ (on []).power.phase ≠ .ladder .warm ∧ (∀ p, p < 11 → (on []).polder p ≠ 0) ∧
      (on [(POL_STATE, 0x0FFFFF)]).polder 10 = 0) ∧
    ((climbing .warm [] 10000 []).power.phase = .ladder .warm ∧ (climbing .warm [] 10000 []).ladderDone 10000 = true) ∧
    (natAt (0xA5C36002 : Word32) 0 2 = 2 ∧ natAt (0xA5C36002 : Word32) 12 4 = polPX ∧ stoppable polPX = true ∧ 2 ≤ (on []).polder polPX) ∧
    ((on []).mayWrite .host = true ∧ (on []).power.coreReset = 0 ∧ (on [(POL_CORE_RST, 1)]).outOfReset 0 = true ∧ ((on []).core 0).drained = true ∧
      ((core0 (on []) (fun k => { k with tickets := [⟨0, none⟩] })).core 0).drained = false) ∧
    ((on []).flag FLT_STATUS_SAFE = false ∧ (on []).loaderOnly = false ∧ (on [(FLT_STATUS, 2 ^ FLT_STATUS_SAFE.lo)]).flag FLT_STATUS_SAFE = true) := by
  decide +kernel

theorem witness_ClocksAndOperatingPoints :
    ((on []).mayWrite .host = true ∧ (6 : BitVec 4).toNat = polPX ∧ stoppable polPX = true ∧ (on []).polderOn polPX = true ∧ (on []).polderIdle polPX = true ∧
      (on [(POL_STATE, 0x3FFFFF - 2 ^ 12)]).polder polPX = 2 ∧ (on []).fld POL_MODE_CUR < 3 ∧ ((on []).setFlag (clk POL_CLK_SRC polPX) true).flag (clk POL_CLK_SRC polPX) = true ∧
      polPX ∈ dvfsOrder) ∧
    (let s := on [(POL_MODE, 2 ^ POL_MODE_CUR.lo)]
     s.fld POL_MODE_CUR = 1 ∧ 2200 < (2201 : BitVec 16).toNat ∧ s.nextSlower s.power.governed = some polPX ∧
       10 * (1980 : BitVec 16).toNat ≤ 9 * 2200 ∧ 9 * 2200 < 10 * (1981 : BitVec 16).toNat ∧
       (let u := { s with gtc := 10000000, power := { s.power with lowSince := some 0, idles := true, governed := [polPD] } }
        u.power.lowSince = some 0 ∧ 10000000 ≤ (u.gtc - 0).toNat ∧ u.power.idles = true)) ∧
    (let s := dvfsOrder.foldl (fun s p => s.setFld (clk POL_CLK_OPP_CUR p) 3) (on [(POL_MODE, 2 * 2 ^ POL_MODE_CUR.lo)])
     s.fld POL_MODE_CUR = 2 ∧ s.nextSlower s.power.governed = none ∧ s.nextSlower s.power.throttled = none) ∧
    (let s := { on [] with gtc := 10000000, power := { (on []).power with coolSince := some 0, throttled := [polPX] } }
     s.power.coolSince = some 0 ∧ 10000000 ≤ (s.gtc - 0).toNat ∧ s.power.idles = false ∧ s.nextSlower s.power.throttled = some polPD) := by decide +kernel

/-- The module with one enabled controller that holds a power state, and the floor at 4. -/
def held (ps : Nat) (l : List (Nat × Nat)) : State :=
  let s := (on l).setFld HST_PWR_FLOOR 4
  { s with host := { s.host with controllers := [{ pf with ps := ps }] } }

theorem witness_PowerStates :
    ((held 2 []).power.phase = .on ∧ (held 2 []).moduleState = 2 ∧ (held 2 []).fld POL_MODE_CUR ≠ 3) ∧
    ((held 3 []).moduleState = 3 ∧ (held 3 []).fld POL_MODE_CUR < 3 ∧ (held 1 [(POL_MODE, 3 * 2 ^ POL_MODE_CUR.lo)]).fld POL_MODE_CUR = 3 ∧
      (held 1 [(POL_MODE, 3 * 2 ^ POL_MODE_CUR.lo)]).moduleState = 1) ∧
    ((held 4 []).heldState = 4 ∧ (held 4 []).ms4Refusal = none ∧ (held 4 [(FLT_STATUS, 2 ^ FLT_STATUS_SAFE.lo)]).ms4Refusal = some 4) ∧
    (let s := phased (on [(POL_CORE_RST, 0)]) .entering id
     s.coreWaits 0 = true ∧ s.coreWaits 1 = true ∧ (core0 (on [(POL_CORE_RST, 1)]) (fun k => { k with wait := some .idle })).coreWaits 0 = true) ∧
    (let s := ((((phased (on [(POL_SMB, 0x2A * 2 ^ POL_SMB_ADDR.lo)]) .asleep (fun p => { p with wakeAt := 0 })).setFlag POL_WAKE_EN_PCIE true).setFlag POL_WAKE_EN_GTC true))
     s.power.phase = .asleep ∧ (0x2A : BitVec 7).toNat = s.fld POL_SMB_ADDR ∧ s.flag POL_WAKE_EN_PCIE = true ∧ s.flag POL_WAKE_EN_GTC = true ∧ s.power.wakeAt ≤ s.gtc ∧
       s.fld POL_WAKE_PEND = 0 ∧ (s.setFld POL_WAKE_PEND 1).fld POL_WAKE_PEND ≠ 0) ∧
    (let s := phased (on [(POL_SMB, 0x2A * 2 ^ POL_SMB_ADDR.lo)]) .off id
     s.power.phase = .off ∧ (0x2A : BitVec 7).toNat = s.fld POL_SMB_ADDR) ∧
    ((climbing .wake [] 0 []).power.phase = .ladder .wake ∧ (climbing .wake [] 0 []).ladderDone 0 = true ∧ (climbing .wake [] 0 []).saveGood = false) := by
  decide +kernel

theorem witness_FlushesAndTests_flushes :
    ((on []).power.phase ≠ .unpowered ∧ (on []).power.test = none ∧
      (phased (on []) .on (fun p => { p with test := some ⟨0, none, none, false⟩ })).power.test = some ⟨0, none, none, false⟩) ∧
    ((on []).inputClosed = true ∧ (on []).power.flush = none ∧ (on []).power.phase ≠ .flush) ∧
    (let f : Flush := ⟨4, true, 0, false, false, false⟩
     let s := phased (on []) .flush (fun p => { p with flush := some f })
     s.power.flush = some f ∧ f.shed = false ∧ s.offReady f = true ∧ (busy s (work 0 2 [])).offReady f = false) ∧
    (natAt (0x5A3C0001 : Word32) 16 16 = 0x5A3C ∧ bitAt (0x5A3C0001 : Word32) 0 = true ∧ (on []).mayWrite .host = true) ∧
    (let f : Flush := ⟨1, false, 0, true, false, false⟩
     let s := withMedia ((((phased (on []) .flush (fun p => { p with flush := some f })).setFlag MGT_BANK_ARMED true).setFld FTL_STATE_STATE 2)) []
     let x : Superblock := ⟨[(0, 0), (1, 0), (2, 0), (3, 0)], .metadata, 1, false, false, false⟩
     let s := { s with ftl := { s.ftl with metaSb := some 3, metaStripe := 0, superblocks := [(3, x)] } }
     s.power.flush = some f ∧ f.shed = true ∧ s.polderOn polPF = true ∧ s.flag MGT_BANK_ARMED = true ∧ s.mounted = true ∧ s.ftl.user.programming = false ∧
       s.ftl.gcStream.programming = false ∧ s.flushTargets = [(3, 0)] ∧ 3 ≤ x.members.length ∧ 0 + s.ftl.journal.length + 3 ≤ s.stripesPer ∧
       (s.setFlag MGT_BANK_ARMED false).flag MGT_BANK_ARMED = false) := by decide +kernel

/-- A capacitor test runs. -/
def testing (x : CapTest) (g : Word64) (l : List (Nat × Nat)) : State := { phased (on l) .on (fun p => { p with test := some x }) with gtc := g }

theorem witness_FlushesAndTests_tests :
    (let s := ((phased (on []) .on (fun p => { p with testAsked := true, ageBase := 86400 })).setFld MGT_BANK_VBANK 5940).setFld MGT_INPUT_VIN 4400
     s.testDue = true ∧ s.testMayStart = true ∧ (s.setFld MGT_INPUT_VIN 5801).testMayStart = false ∧ 86400 ≤ s.testAge) ∧
    ((on []).testAge < 86400 ∧ (on []).mayWrite .host = true) ∧
    (let x : CapTest := ⟨0, none, none, false⟩
     let s := testing x 100000000 []
     s.power.test = some x ∧ s.ftl.dirty ≤ s.fld MGT_HOLDUP_HU_LIMIT * 65536 ∧
       (let t := { s with ftl := { s.ftl with journal := [⟨2, 1, 1, 0, 0, 0⟩] } }
        (t.setFld MGT_HOLDUP_HU_LIMIT 0).fld MGT_HOLDUP_HU_LIMIT * 65536 < t.ftl.dirty) ∧ 100000000 ≤ (s.gtc - x.at_).toNat) ∧
    (let x : CapTest := ⟨0, some (0, 100), none, false⟩
     let s := testing x 20000000 []
     s.power.test = some x ∧ (s.gtc - 0).toNat = 20000000 ∧ s.fld MGT_BANK_VBANK ≤ 5600 ∧ 20000000 ≤ 60000000 ∧ 100 < 4000 ∧ 20000000 / (4000 - 100) ≤ 8160 ∧
       60000000 < ((testing x 60000001 []).gtc - 0).toNat) ∧
    (let x : CapTest := ⟨0, some (0, 100), some 0, false⟩
     let s := (testing x 1 []).setFld MGT_BANK_VBANK 5940
     s.power.test = some x ∧ x.disconnected.isSome = true ∧ 5940 ≤ s.fld MGT_BANK_VBANK ∧ s.power.flush = none ∧ 2246 ≤ s.fld MGT_CAP_C_UF ∧ s.power.faults < 2 ∧
       (s.setFld MGT_CAP_C_UF 2245).fld MGT_CAP_C_UF < 2246) := by decide +kernel

theorem test_opp_limit : (after (exec (.oppChange .host 6 3) (phased (on []) .on (fun p => { p with governed := [polPX] })))).fld (clk POL_CLK_OPP_CUR polPX) = 3 := by
  decide +kernel
theorem test_ms4_busy : (after (exec .ms4Entry { held 4 [] with sec := { (held 4 []).sec with commit := some ⟨.manager 1, 0, 1⟩ } })).fld POL_MODE_CAUSE = 1 := by
  decide +kernel
theorem test_shed_cause : ((after (exec .overcurrent (on []))).power.flush.map (·.cause), (after (exec .overcurrent (on []))).polder polPF,
    (after (exec .overcurrent (on []))).polder polPC) = (some 3, 3, 0) := by decide +kernel
theorem test_cap_c : (after (exec .testLoadDisconnect (testing ⟨0, some (0, 100), none, false⟩ 20000000 []))).fld MGT_CAP_C_UF = 5128 := by decide +kernel
theorem test_cap_refused : (after (exec (.capacitorTestRequest .host) (on []))).flag MGT_TEST_CFG_REFUSED = true := by decide +kernel

theorem witness_DoubtsAndReplays_doubts :
    ((on []).power.flush = none ∧ (on []).flag FLT_STATUS_SAFE = false ∧ (on [(FLT_STATUS, 2 ^ FLT_STATUS_SAFE.lo)]).flag FLT_STATUS_SAFE = true) ∧
    (let s := { on [] with gtc := 500000000 }
     bitAt (s.reg FLT_WDOG_CFG) 1 = true ∧ zeroActsAsOne (s.fld FLT_WDOG_CFG_PERIOD_MS) * 1000000 ≤ (s.gtc - Table.at 0 s.fault.kicks 1).toNat) ∧
    (natAt (0xC35A0001 : Word32) 16 16 = 0xC35A ∧ bitAt (0xC35A0001 : Word32) 0 = true) ∧
    (let f : Flush := ⟨1, false, 0, true, false, false⟩
     (phased (on []) .flush (fun p => { p with flush := some f })).power.flush = some f ∧ f.shed = true) := by decide +kernel

theorem witness_CountersAndSelfTests :
    ((on []).mayWrite .host = true ∧ (on []).testRefused 3 0 = false ∧ (on []).testRefused 1 0 = true ∧
      ({ on [] with fault := { (on []).fault with queue := List.replicate 16 (3, 0) } } : State).testRefused 3 0 = true) ∧
    (let s := { on [] with fault := { (on []).fault with queue := [(3, 1)] } }
     s.fault.testing = none ∧ s.fault.queue = (3, 1) :: [] ∧ s.flag FLT_STATUS_SAFE = false ∧ s.polderOn (classPolder 3) = true ∧ s.unitIdle 3 1 = true) ∧
    (({ on [] with fault := { (on []).fault with testing := some (3, 1) } } : State).fault.testing = some (3, 1) ∧ rotationBit 3 1 = some (MIL_ROT_IMG, 1)) := by
  decide +kernel

theorem witness_DoubtsAndReplays_replays :
    ((on []).mayWrite .host = true ∧ (on []).flag FLT_RPL_REQ_HI_BUSY = false ∧ (on []).flag FLT_STATUS_SAFE = false ∧
      ((on []).replayRefusal 0).isSome = true) ∧
    (let r : ReplayRun := ⟨0x040000000000, 0, 0, 0xFFFFFFFF, 0⟩
     let s := withDram { on [] with fault := { (on []).fault with replay := some r } } 0x040000000000 (image 64 [(0, 8, 0x040000001000), (8, 8, 0x040000002000), (0x20, 2, 9), (0x24, 1, 2)])
     s.fault.replay = some r ∧ r.runs + 1 < zeroActsAsOne (s.dramLe (r.block + 0x24) 1) ∧
       zeroActsAsOne (s.dramLe (r.block + 0x24) 1) ≤ ({ r with runs := 1 }).runs + 1 ∧ s.dramLe (r.block + 0x20) 2 ≠ 0 ∧ (5 : Nat) + 1 < 256) := by decide +kernel

/-- The debug port is unlocked in both scopes. -/
def unlocked : State := on [(SEC_DBG, 2 ^ SEC_DBG_UNLOCKED.lo + 3 * 2 ^ SEC_DBG_SCOPE.lo)]

theorem witness_DebugAndTrace_port :
    ((on []).powered = true ∧ (on []).polderOn polPG = true ∧ (on []).dap.waiting = none ∧ (0x1F : BitVec 5) ≠ 0x01 ∧ (0x1F : BitVec 5) ≠ 0x10 ∧
      (on []).dapOpen 0 = false ∧ (on []).dapOpen 1 = false) ∧
    (unlocked.dapOpen 0 = true ∧ unlocked.dapOpen 1 = true ∧ unlocked.dapOpen 2 = true) ∧
    (let s := unlocked.setCore 15 { unlocked.core 15 with halted := true, pc := 0x40 }
     (s.core 15).halted = true ∧ s.dapCoreRead 15 0x200 = some 0x40 ∧ (BitVec.ofNat 48 (0x200 + 15 * 65536)).toNat = 0x0F0200 ∧ csrReadOnly 0x000 = false ∧
       (s.core 0).halted = false) ∧
    (let s := { unlocked with dramSize := 2 ^ 30 }
     (0x040000000008 : BitVec 48).toNat % 8 = 0 ∧ s.mapAllows privM .load 0x040000000008 8 false = true ∧ s.hasDataError 0x040000000008 8 = false ∧
       s.mapAllows privM .store 0x040000000008 8 false = true) ∧
    ((unitAt GTC_TERM).map unitPolder = some polPA ∧ unlocked.polderOn polPA = true ∧ GTC_TERM % 4 = 0 ∧ GTC_TERM < 0x08000000) := by decide +kernel

theorem witness_DebugAndTrace_trace :
    (let s := { on [] with gtc := 2 ^ 20, trace := { Trace.empty with left := 1 } }
     let s := (s.setFlag DBG_CTL_CAPTURE true).setFld DBG_CTL_SRC_EN 0x3F
     s.polderOn polPG = true ∧ s.flag DBG_STAT_FROZEN = false ∧ s.flag DBG_CTL_CAPTURE = true ∧ s.trace.lostAt = none ∧ s.gtc.toNat % 2 ^ 20 = 0 ∧
       bitAt (s.reg DBG_CTL) 1 = true ∧ bitAt (s.reg DBG_CTL) 4 = true ∧ s.mayWrite .host = true ∧ s.trace.left = 1) ∧
    (let s := (on [(DBG_STAT, 2 ^ DBG_STAT_ARMED.lo)]).setReg DBG_TRIG_CFG 1
     s.flag DBG_STAT_ARMED = true ∧ s.flag DBG_STAT_TRIGGERED = false ∧ bitAt (s.reg DBG_TRIG_CFG) 0 = true) ∧
    ((on [(DBG_STAT, 2 ^ DBG_STAT_TRIGGERED.lo)]).flag DBG_STAT_TRIGGERED = true ∧ (on []).trace.left = 0) ∧
    (let s := { (on []).setFlag DBG_CTL_PORT_EN true with gtc := 1000000, trace := { Trace.empty with portOn := some 0, written := 1 } }
     s.portSending = true ∧ s.trace.overGap = none ∧ s.trace.passed < s.trace.written ∧ s.trace.written ≤ s.trace.passed + 524288 ∧
       (s.counter unitDBG 1).count ≠ -1 ∧
       ({ s with trace := { s.trace with overGap := some ⟨3, 0, 9⟩ } } : State).trace.overGap = some ⟨3, 0, 9⟩) ∧
    ((BitVec.ofNat 27 GTC_TERM).toNat / 4 * 4 = GTC_TERM ∧ unitAt 0x05800000 = none ∧ (0x05800000 : BitVec 27).toNat / 4 * 4 = 0x05800000) := by decide +kernel

theorem witness_IdentityAndFirmware_attestation :
    ((on []).mayMail .host = true ∧ (on []).mayMail .sideband = true ∧ (on []).sec.next < 2 ^ 30 ∧ (on []).fld SEC_ATT_TOKENS_TOKENS ≠ 0 ∧
      ((on []).setFld SEC_ATT_TOKENS_TOKENS 0).fld SEC_ATT_TOKENS_TOKENS = 0 ∧
      2 ^ 30 ≤ ({ on [] with sec := { (on []).sec with next := 2 ^ 30 } } : State).sec.next) ∧
    (let s := { on [] with sec := { (on []).sec with mbox := Mem.store [] 0 (leBytes 4 0xF000) } }
     leNat (s.mailBytes 0 4) = 0xF000 ∧ 0xF000 % 4096 = 0 ∧ 0xF000 < 65536 ∧
       leNat (({ on [] with sec := { (on []).sec with mbox := Mem.store [] 0 [1] } } : State).mailBytes 0 4) % 4096 ≠ 0) ∧
    ((on []).flag SEC_DBG_BLOCKED = false ∧ (on []).tokenGood = false ∧ (on [(SEC_DBG, 2 ^ SEC_DBG_BLOCKED.lo)]).flag SEC_DBG_BLOCKED = true) ∧
    (1000000000 ≤ (({ on [] with gtc := 1000000000 } : State).gtc - (on []).sec.refilled).toNat ∧ ((on []).gtc - (on []).sec.refilled).toNat < 1000000000) := by
  decide +kernel

/-- A firmware commit of the manager whose write runs. -/
def writing (tries ca : Nat) : State := { on [] with sec := { (on []).sec with commit := some ⟨.manager 9, ca, tries⟩ } }

theorem witness_IdentityAndFirmware_update :
    ((writing 1 0).sec.commit.isSome = true ∧ (on []).sec.commit = none ∧ (50331644 : Nat) % 4 = 0 ∧ 50331644 < 50331648 ∧ 50331644 + 4 ≤ 50331648 ∧
      (on []).sec.got = [] ∧ Sec.complete { (on []).sec with got := [(50331644, 4)] } 0 = false ∧ apart 0 8 4 4 = false ∧ apart 0 4 4 4 = true) ∧
    ((1 : BitVec 3).toNat ≤ 1 ∧ (on []).imageReason (on []).sec.stage 0 = some 1) ∧
    takes true 0x10 0 [(40, 4, 2)] (fun e _ => cmdDw e 10 % 8 != 1) = true ∧
    ((writing 1 1).sec.commits = [] ∧ (writing 1 1).loaderOnly = false ∧ (1 : Nat) < 2) ∧
    ((on []).mayWrite .host = true ∧ (on []).sec.image = some (zeros 32, 1, 0) ∧ (on [(SEC_FW_STATE, 3 * 2 ^ SEC_FW_STATE_STATE.lo)]).fld SEC_FW_STATE_STATE = 3 ∧
      (0 : Word64).toNat + 100000000 ≤ ((1 : Word32) ++ (on []).reg SEC_ACT_AT_LO : Word64).toNat ∧ (on []).fld SEC_FW_STATE_STATE ≠ 3 ∧
      (on [(SEC_ACT_STAT, 2 ^ SEC_ACT_STAT_ARMED.lo)]).flag SEC_ACT_STAT_ARMED = true) ∧
    ((on []).sec.actAt ≤ (on []).gtc ∧ (on []).power.phase.resets = true) := by decide +kernel

theorem test_watchdog_doubt : (after (exec (.watchdog 1) { on [] with gtc := 500000000 })).fld FLT_STATUS_FIRST = 5 := by decide +kernel
theorem test_force_key : (after (exec (.force .host 0xC35B0001) (on []))).flag FLT_STATUS_SAFE = false := by decide +kernel
theorem test_idcode_then_bypass : (after (exec (.bypass 0x1F) (after (exec .idcode (on []))))).dap.ir = 0x1F ∧
    (after (exec .idcode (on []))).dap.out.length = 1 := by decide +kernel
theorem test_unlock_blocks : let f (s : State) := after (exec (.dbgUnlock .host) s)
    (f (f (on []))).flag SEC_DBG_BLOCKED = false ∧ (f (f (f (on [])))).flag SEC_DBG_BLOCKED = true := by decide +kernel
theorem test_activation_late : (after (exec (.activationArm .host 0) (on []))).flag SEC_ACT_STAT_LATE = true := by decide +kernel
theorem test_download_overlap : let f (s : State) := after (exec (.firmwareImageDownload (.manager 1) 0 [1, 2, 3, 4]) s)
    (f (f (on []))).host.replies.map (·.status) = [nvmeOk, nvmeOverlap] := by decide +kernel

/-! ## The whole machine -/

theorem witness_StepTakesOneCommand : ∃ t, step { on [] with pending := [.singleFlip, .fence] } = .next t ∧ t.pending = [.fence] := ⟨_, rfl, rfl⟩

theorem witness_IdleTicksAndNothingStops : (on []).pending = [] ∧ (on []).powered = true ∧ (on []).system.stepDue = none ∧ (on []).noLaunch = true ∧
    (leasing 0 (fun y => { y with stepDue := some 5 })).system.stepDue = some 5 ∧ (phased (on []) .off id).powered = false := by decide +kernel

theorem witness_AfterReset : State.reset.core 15 = Core.reset ∧ (10 : Nat) ≤ 10 := ⟨rfl, by decide⟩

theorem witness_MemoryFormKept : (withDram (on []) 0x040000000000 [1, 2]).memWf ∧ ∃ t, step (withDram (on []) 0x040000000000 [1, 2]) = .next t :=
  ⟨by unfold State.memWf; decide +kernel, _, rfl⟩

theorem witness_PrivilegeLevelsKept : (∀ c, ((on []).core c).statusLegal) ∧ ∃ t, step (on []) = .next t := ⟨by unfold Core.statusLegal; decide +kernel, _, rfl⟩

theorem test_idle_tick : (after (step (on []))).gtc = 1 := by decide +kernel

end Sys2Proof.Tests
end

/-!
SUPPORT. What every step answers, and what an idle tick of the GTC leaves standing (R27, R458).
-/

namespace Sys2Proof.Machine

/-! ## Every step answers a next state -/

/-- SUB answers a next state whether a halted core submits (R77) or a running one. -/
theorem execSub_safe (c : CoreId) (f : St) (s : State) : Safe (execSub c f s) := by
  unfold execSub
  extract_lets k
  split
  · exact ⟨_, rfl⟩
  · exact ⟨_, rfl⟩

/-- Every command's meaning answers a next state. It is `.next` of a state as it stands, but for ADD, which reads the form of its
word first, and for SUB, which asks first whether the core is halted. -/
theorem exec_safe (i : Instr) (s : State) : Safe (exec i s) := by
  cases i with
  | add c w =>
    cases w with
    | add f => exact ⟨_, rfl⟩
    | unassigned word => exact ⟨_, rfl⟩
  | sub c f => exact execSub_safe c f s
  | _ => exact ⟨_, rfl⟩

theorem step_idle {s : State} (h : s.pending = []) : step s = .next s.tick := by
  simp only [step, h]

theorem step_command {s : State} {c : Instr} {rest : List Instr} (h : s.pending = c :: rest) :
    step s = exec c { s with pending := rest } := by
  simp only [step, h]

theorem step_safe (s : State) : Safe (step s) := by
  cases h : s.pending with
  | nil => exact ⟨s.tick, step_idle h⟩
  | cons c rest => exact step_command h ▸ exec_safe c _

/-! ## What settling leaves standing

The unloads, core resets and STOP bits that settle at a tick (R122, R490, R502) reach far into the machine, but none touches the
waiting commands, the part, the GTC or the flash. -/

/-- The waiting commands, the part, the GTC and the flash. -/
def State.steady (s : State) : List Instr × Part × Word64 × Flash := (s.pending, s.part, s.gtc, s.flash)

theorem OnlyLogs.steady {s t : State} (h : OnlyLogs s t) : t.steady = s.steady := h.proj State.steady

theorem ite_steady {s a b : State} {c : Prop} [Decidable c] (ha : a.steady = s.steady) (hb : b.steady = s.steady) :
    (if c then a else b).steady = s.steady := by
  split
  · exact ha
  · exact hb

theorem foldl_steady {α : Type} {f : State → α → State} (hf : ∀ s a, (f s a).steady = s.steady) (l : List α) (s : State) :
    (l.foldl f s).steady = s.steady :=
  List.foldlRecOn (motive := fun t => t.steady = s.steady) l f rfl fun t ht a _ => (hf t a).trans ht

/-! ### STOP bits and core resets -/

theorem State.marker_steady (s : State) (typ polder kind : Nat) : (s.marker typ polder kind).steady = s.steady := by
  unfold State.marker
  exact ite_steady (s.traceWrite_onlyLogs _).steady (ite_steady rfl rfl)

theorem State.stopPolder_steady (s : State) (p kind : Nat) : (s.stopPolder p kind).steady = s.steady :=
  s.marker_steady 3 p kind

theorem State.settleStops_steady (s : State) : s.settleStops.steady = s.steady :=
  foldl_steady (fun t p => ite_steady (t.stopPolder_steady p 0) rfl) _ s

theorem State.resetCore_steady (s : State) (c : CoreId) : (s.resetCore c).steady = s.steady := rfl

theorem State.settleCores_steady (s : State) : s.settleCores.steady = s.steady :=
  foldl_steady (fun t c => ite_steady (t.resetCore_steady c) rfl) _ s

/-! ### Completions of commands -/

theorem State.count_steady (s : State) (u k n : Nat) : (s.count u k n).steady = s.steady := (s.count_onlyLogs u k n).steady

theorem State.putCqe_steady (s : State) (q : NvmeCq) (dw0 sqHead sqid cid status : Nat) :
    (s.putCqe q dw0 sqHead sqid cid status).steady = s.steady := by
  unfold State.putCqe
  extract_lets s1 t s2
  have h2 : s2.steady = s.steady := rfl
  clear_value s2
  exact ite_steady h2 h2

theorem State.nvmeComplete_steady (s : State) (fn sqid cid dw0 status : Nat) :
    (s.nvmeComplete fn sqid cid dw0 status).steady = s.steady := by
  unfold State.nvmeComplete
  split
  · rfl
  split
  next c sq _ _ =>
    split
    next q _ =>
      extract_lets s1 s2
      have h1 : s1.steady = s.steady := s.count_steady unitHST 0 1
      have h2 : s2.steady = s.steady := by
        clear_value s1
        exact ite_steady h1 h1
      clear_value s2
      exact ite_steady h2 ((s2.putCqe_steady _ _ _ _ _ _).trans h2)
    · rfl
  · rfl

theorem State.settleDelete_steady (s : State) (i : Nat) : (s.settleDelete i).steady = s.steady := by
  unfold State.settleDelete
  split
  · split
    · exact ite_steady (State.nvmeComplete_steady _ _ _ _ _ _) rfl
    · rfl
  · rfl

theorem State.putEntry_steady (s : State) (i : Nat) (r : CmdRing) (e : HeldEntry) : (s.putEntry i r e).steady = s.steady :=
  State.count_steady _ unitHST 3 1

theorem State.completeCommand_steady (s : State) (ref : CmdRef) (result status : Nat) (data : List Byte) :
    (s.completeCommand ref result status data).steady = s.steady := by
  unfold State.completeCommand
  cases ref with
  | manager cid => rfl
  | ring qcn cid =>
    dsimp only
    split
    · rfl
    next i _ =>
      split
      · rfl
      · exact (State.settleDelete_steady _ i).trans (ite_steady rfl (ite_steady rfl (s.putEntry_steady i _ _)))

/-! ### Queue pairs of a recipe -/

theorem State.weirDrop_steady (s : State) (qcn : Nat) (all : Bool) : (s.weirDrop qcn all).steady = s.steady := by
  unfold State.weirDrop
  exact foldl_steady (fun _ _ => by rfl) _ s

theorem State.engineAccess_steady (s : State) (cls : Nat) (write : Bool) (a n : Nat) :
    (s.engineAccess cls write a n).steady = s.steady := by
  unfold State.engineAccess
  refine ite_steady rfl ((foldl_steady (fun t i => ?_) _ _).trans (s.count_steady unitMEM write.toNat n))
  exact ite_steady ((t.emit_onlyLogs _ _ _ _).trans (State.trigger_onlyLogs _ 4)).steady rfl

theorem State.engineWrite_steady (s : State) (cls a : Nat) (bs : List Byte) : (s.engineWrite cls a bs).steady = s.steady :=
  State.engineAccess_steady _ cls true a bs.length

theorem State.finish_steady (s : State) (x : Taken) (status detail : Nat) (output : List (Nat × Nat)) :
    (s.finish x status detail output).steady = s.steady := rfl

theorem State.deliveryRecord_steady (s : State) (x : Taken) (slot flags gen bytes resends : Nat) :
    (s.deliveryRecord x slot flags gen bytes resends).steady = s.steady := by
  unfold State.deliveryRecord
  exact ite_steady rfl (s.engineWrite_steady _ _ _)

theorem State.endDelivery_steady (s : State) (d : Delivery) (status : Nat) : (s.endDelivery d status).steady = s.steady := by
  unfold State.endDelivery
  extract_lets net s1 store s2
  have h1 : s1.steady = s.steady := rfl
  clear_value s1
  have h2 : s2.steady = s.steady := ite_steady h1 h1
  clear_value s2
  split
  next x _ => exact (s2.deliveryRecord_steady x _ _ _ _ _).trans h2
  · exact h2

theorem State.endQpWork_steady (s : State) (qcn : Nat) (q : Qp) (cause : Nat) (owner : Option (Nat × Nat)) (others : Nat) :
    (s.endQpWork qcn q cause owner others).steady = s.steady := by
  unfold State.endQpWork
  refine (foldl_steady (fun t o => ?_) _ _).trans (foldl_steady (fun t d => t.endDelivery_steady d _) _ s)
  dsimp only
  split
  next x _ => exact t.finish_steady x _ 0 []
  · rfl

theorem State.registerNow_steady (s : State) (x : Taken) (detail : Nat) : (s.registerNow x detail).steady = s.steady := by
  unfold State.registerNow
  exact ite_steady rfl (State.engineWrite_steady _ 10 _ _)

theorem State.endRevoke_steady (s : State) (r n : Nat) : (s.endRevoke r n).steady = s.steady := by
  unfold State.endRevoke
  dsimp only
  split
  · rfl
  · split
    · exact ite_steady rfl (State.registerNow_steady _ _ _)
    · rfl

theorem State.settleRevokes_steady (s : State) : s.settleRevokes.steady = s.steady := by
  unfold State.settleRevokes
  refine foldl_steady (fun t e => ?_) _ s
  exact ite_steady (t.endRevoke_steady e.1 0) rfl

theorem State.qpError_steady (s : State) (qcn cause : Nat) (owner : Option (Nat × Nat)) (others : Nat) (command : Bool) :
    (s.qpError qcn cause owner others command).steady = s.steady := by
  unfold State.qpError
  split
  · rfl
  next q _ =>
    refine ite_steady rfl ?_
    extract_lets s1 s2 n p s3 s4
    have h3 : s3.steady = s.steady := s1.weirDrop_steady qcn true
    have h4 : s4.steady = s3.steady := ite_steady rfl rfl
    calc (s4.endQpWork qcn q cause owner others).settleRevokes.steady
        = (s4.endQpWork qcn q cause owner others).steady := State.settleRevokes_steady _
      _ = s4.steady := s4.endQpWork_steady qcn q cause owner others
      _ = s.steady := h4.trans h3

theorem State.unbindRecipeQps_steady (s : State) (h : Nat) : (s.unbindRecipeQps h).steady = s.steady := by
  unfold State.unbindRecipeQps
  refine foldl_steady (fun t e => ?_) _ s
  exact ite_steady (t.qpError_steady e.1 stFLUSHED none stFLUSHED true) rfl

/-! ### Unloads -/

theorem State.showTiles_steady (s : State) : s.showTiles.steady = s.steady := by
  unfold State.showTiles
  extract_lets tiles s1 s2
  have h1 : s1.steady = s.steady := foldl_steady (fun _ _ => by rfl) _ s
  have h2 : s2.steady = s1.steady := foldl_steady (fun _ _ => by rfl) _ s1
  clear_value s1 s2
  exact h2.trans h1

theorem State.releaseSlots_steady (s : State) (h : Nat) : (s.releaseSlots h).steady = s.steady := by
  unfold State.releaseSlots
  extract_lets models gone mash s1
  have h1 : s1.showTiles.steady = s1.steady := s1.showTiles_steady
  exact (foldl_steady (fun _ _ => by rfl) gone s1.showTiles).trans h1

theorem State.releaseRecipe_steady (s : State) (h : Nat) (r : Recipe) : (s.releaseRecipe h r).steady = s.steady := by
  unfold State.releaseRecipe
  extract_lets s1 s2 s3
  have h1 : s1.steady = s.steady := (State.releaseSlots_steady _ h).trans (s.unbindRecipeQps_steady h)
  have h2 : s2.steady = s1.steady := foldl_steady (fun _ _ => by rfl) _ s1
  have h3 : s3.steady = s2.steady := foldl_steady (fun _ _ => by rfl) _ s2
  clear_value s1 s2 s3
  exact h3.trans (h2.trans h1)

theorem State.settleUnload_steady (s : State) (h : Nat) : (s.settleUnload h).steady = s.steady := by
  unfold State.settleUnload
  split
  next r _ =>
    exact ite_steady rfl
      ((foldl_steady (fun t ref => t.completeCommand_steady ref 0 csOK []) _ _).trans (s.releaseRecipe_steady h r))
  · rfl

theorem State.settleUnloads_steady (s : State) : s.settleUnloads.steady = s.steady := by
  unfold State.settleUnloads
  exact foldl_steady (fun t (e : Nat × Recipe) => t.settleUnload_steady e.1) _ s

theorem State.settleAll_steady (s : State) : s.settleAll.steady = s.steady :=
  calc s.settleUnloads.settleCores.settleStops.steady
      = s.settleUnloads.settleCores.steady := State.settleStops_steady _
    _ = s.settleUnloads.steady := State.settleCores_steady _
    _ = s.steady := s.settleUnloads_steady

/-! ## The tick -/

/-- How far the step of R458 moves the GTC now: nothing while none is due or a launch is pending. -/
def State.stepNow (s : State) : Word64 :=
  match s.system.stepDue with
  | some d => if s.noLaunch then BitVec.ofInt 64 d else 0
  | none => 0

theorem State.stepNow_of_none {s : State} (h : s.system.stepDue = none) : s.stepNow = 0 := by
  simp only [State.stepNow, h]

theorem State.stepNow_of_some {s : State} {d : Int} (h : s.system.stepDue = some d) (hl : s.noLaunch = true) :
    s.stepNow = BitVec.ofInt 64 d := by
  simp only [State.stepNow, h, hl, if_true]

theorem State.makeStep_steady (s : State) : s.makeStep.steady = (s.pending, s.part, s.gtc + s.stepNow, s.flash) := by
  cases hd : s.system.stepDue with
  | none => simp only [State.makeStep, State.stepNow, hd, State.steady, add_zero]
  | some d =>
    cases hl : s.noLaunch with
    | true =>
      simp only [State.makeStep, State.stepNow, hd, hl, if_true]
      rfl
    | false => simp only [State.makeStep, State.stepNow, hd, hl, State.steady, Bool.false_eq_true, if_false, add_zero]

/-- A tick moves the GTC on by one and by the step that is due, and keeps the waiting commands, the part and the flash. -/
theorem State.tick_steady {s : State} (h : s.powered = true) :
    s.tick.steady = (s.pending, s.part, s.gtc + 1 + s.stepNow, s.flash) := by
  rw [State.tick, if_pos h, State.settleAll_steady]
  exact State.makeStep_steady _

theorem State.tick_unpowered {s : State} (h : s.powered = false) : s.tick = s := by
  rw [State.tick, h, if_neg Bool.false_ne_true]

/-- Settles O57: `tick_steady` gives the idle step with power, and `step_safe` that no step stops. -/
theorem idleTicksAndNothingStops : Obligations.IdleTicksAndNothingStops := by
  unfold Obligations.IdleTicksAndNothingStops
  refine ⟨fun s hp => ⟨fun hon => ?_, fun hoff => ?_⟩, step_safe⟩
  · obtain ⟨hpending, hpart, hgtc, hflash⟩ : s.tick.pending = s.pending ∧ s.tick.part = s.part ∧
        s.tick.gtc = s.gtc + 1 + s.stepNow ∧ s.tick.flash = s.flash := by
      simpa only [State.steady, Prod.mk.injEq] using State.tick_steady hon
    refine ⟨s.tick, step_idle hp, hpending.trans hp, hpart, by rw [hflash], fun hnone => ?_, fun d hd hl => ?_⟩
    · rw [hgtc, State.stepNow_of_none hnone, add_zero]
    · rw [hgtc, State.stepNow_of_some hd hl]
  · rw [step_idle hp, State.tick_unpowered hoff]

end Sys2Proof.Machine

/-!
SUPPORT. Integer, multiply, divide, bit and immediate instructions (R34, R49 to R53): their values as arithmetic, and the one
register they write.
-/

namespace Sys2Proof.Machine

/-! ## An instruction that writes one register -/

/-- An instruction that starts, with a legal word, writes its value to rd and retires. -/
theorem State.writesReg_starts {s : State} {c : CoreId} (h : s.starts c) (word : Word32) (rd : RegField) (value : Core → Word64) :
    s.writesReg c word true rd value = s.wrote c rd (value (s.core c)) :=
  State.runInsn_starts h word _

theorem State.writesReg_illegal {s : State} {c : CoreId} (h : s.starts c) (word : Word32) (rd : RegField) (value : Core → Word64) :
    s.writesReg c word false rd value = s.raise c excIllegal (word.setWidth 64) :=
  State.runInsn_illegal h word _

theorem State.rrrOp_starts {s : State} {c : CoreId} {f : Rrr} {g : Word64 → Word64 → Word64} {a b v : Word64} (h : s.starts c)
    (ha : (s.core c).reg f.ra = a) (hb : (s.core c).reg f.rb = b) (hv : g a b = v) (op func : Nat) :
    s.rrrOp c op func f g = s.wrote c f.rd v := by
  rw [State.rrrOp, State.writesReg_starts h, ha, hb, hv]

/-! ## Values (R52) -/

theorem natAt_zero {w : Nat} (b : BitVec w) (n : Nat) : natAt b 0 n = b.toNat % 2 ^ n := rfl

theorem shiftLeft_eq_mul {w : Nat} (a : BitVec w) (n : Nat) : a <<< n = BitVec.ofNat w (a.toNat * 2 ^ n) := by
  refine BitVec.eq_of_toNat_eq ?_
  rw [BitVec.toNat_shiftLeft, Nat.shiftLeft_eq, BitVec.toNat_ofNat]

theorem shiftRight_eq_div {w : Nat} (a : BitVec w) (n : Nat) : a >>> n = BitVec.ofNat w (a.toNat / 2 ^ n) := by
  refine BitVec.eq_of_toNat_eq ?_
  rw [BitVec.toNat_ushiftRight, Nat.shiftRight_eq_div_pow, BitVec.toNat_ofNat, Nat.mod_eq_of_lt]
  exact (Nat.div_le_self _ _).trans_lt a.isLt

theorem sshiftRight_eq_div {w : Nat} (a : BitVec w) (n : Nat) : a.sshiftRight n = BitVec.ofInt w (a.toInt / 2 ^ n) := by
  rw [BitVec.sshiftRight, Int.shiftRight_eq_div_pow]
  norm_cast

theorem boolWord_decide (p : Prop) [Decidable p] : boolWord (decide p) = if p then 1 else 0 := by
  by_cases h : p <;> simp [boolWord, h]

theorem boolWord_slt {w : Nat} (a b : BitVec w) : boolWord (a.slt b) = if a.toInt < b.toInt then 1 else 0 := by
  rw [BitVec.slt_eq_decide, boolWord_decide]

theorem boolWord_lt {w : Nat} (a b : BitVec w) : boolWord (a < b) = if a.toNat < b.toNat then 1 else 0 := by
  rw [boolWord_decide]
  exact if_congr BitVec.lt_def rfl rfl

theorem ite_slt_eq_min {w : Nat} (a b : BitVec w) : (if b.slt a then b else a) = BitVec.ofInt w (min a.toInt b.toInt) := by
  by_cases h : b.toInt < a.toInt
  · rw [if_pos (by simpa [BitVec.slt] using h), min_eq_right h.le, BitVec.ofInt_toInt]
  · rw [if_neg (by simpa [BitVec.slt] using h), min_eq_left (not_lt.1 h), BitVec.ofInt_toInt]

theorem ite_slt_eq_max {w : Nat} (a b : BitVec w) : (if a.slt b then b else a) = BitVec.ofInt w (max a.toInt b.toInt) := by
  by_cases h : a.toInt < b.toInt
  · rw [if_pos (by simpa [BitVec.slt] using h), max_eq_right h.le, BitVec.ofInt_toInt]
  · rw [if_neg (by simpa [BitVec.slt] using h), max_eq_left (not_lt.1 h), BitVec.ofInt_toInt]

theorem ite_lt_eq_min {w : Nat} (a b : BitVec w) : (if b < a then b else a) = BitVec.ofNat w (min a.toNat b.toNat) := by
  by_cases h : b < a
  · rw [if_pos h, min_eq_right (BitVec.lt_def.1 h).le, BitVec.ofNat_toNat, BitVec.setWidth_eq]
  · rw [if_neg h, min_eq_left (not_lt.1 h), BitVec.ofNat_toNat, BitVec.setWidth_eq]

theorem ite_lt_eq_max {w : Nat} (a b : BitVec w) : (if a < b then b else a) = BitVec.ofNat w (max a.toNat b.toNat) := by
  by_cases h : a < b
  · rw [if_pos h, max_eq_right (BitVec.lt_def.1 h).le, BitVec.ofNat_toNat, BitVec.setWidth_eq]
  · rw [if_neg h, max_eq_left (not_lt.1 h), BitVec.ofNat_toNat, BitVec.setWidth_eq]

theorem sext32_add (a b : Word64) : sext32 (a + b) = (a.setWidth 32 + b.setWidth 32).signExtend 64 := by
  rw [sext32, BitVec.setWidth_add a b (by decide)]

theorem sext32_sub (a b : Word64) : sext32 (a - b) = (a.setWidth 32 - b.setWidth 32).signExtend 64 := by
  rw [sext32, BitVec.sub_eq_add_neg, BitVec.setWidth_add _ _ (by decide), BitVec.setWidth_neg_of_le (by decide), ← BitVec.sub_eq_add_neg]

theorem signExtend_shiftLeft_low (a : Word64) (n : Nat) :
    (a.setWidth 32 <<< n).signExtend 64 = (BitVec.ofNat 32 (a.toNat * 2 ^ n)).signExtend 64 := by
  rw [shiftLeft_eq_mul, BitVec.toNat_setWidth]
  exact congrArg _ (BitVec.eq_of_toNat_eq (by simp [Nat.mul_mod]))

theorem signExtend_shiftRight_low (a : Word64) (n : Nat) :
    (a.setWidth 32 >>> n).signExtend 64 = (BitVec.ofNat 32 (a.toNat % 2 ^ 32 / 2 ^ n)).signExtend 64 := by
  rw [shiftRight_eq_div, BitVec.toNat_setWidth]

theorem signExtend_sshiftRight_eq_div (a : Word32) (n : Nat) : (a.sshiftRight n).signExtend 64 = BitVec.ofInt 64 (a.toInt / 2 ^ n) := by
  rw [BitVec.signExtend, BitVec.toInt_sshiftRight, Int.shiftRight_eq_div_pow]
  norm_cast

theorem mul_eq_ofNat {w : Nat} (a b : BitVec w) : a * b = BitVec.ofNat w (a.toNat * b.toNat) :=
  BitVec.eq_of_toNat_eq (by simp)

/-- Settles O1: `rrrOp_starts` names the next state, and the values are the lemmas of R52's functions. -/
theorem integerResults : Obligations.IntegerResults := by
  unfold Obligations.IntegerResults
  intro c f s hs a b ha hb
  have result {g : Word64 → Word64 → Word64} {v : Word64} (hv : g a b = v) (op func : Nat) :
      (.next (s.rrrOp c op func f g) : Res) = .next (s.wrote c f.rd v) :=
    congrArg _ (State.rrrOp_starts hs ha hb hv op func)
  exact ⟨result rfl _ _, result rfl _ _, result rfl _ _, result rfl _ _, result rfl _ _,
    result (shiftLeft_eq_mul a _) _ _, result (shiftRight_eq_div a _) _ _, result (sshiftRight_eq_div a _) _ _,
    result (boolWord_slt a b) _ _, result (boolWord_lt a b) _ _,
    result (ite_slt_eq_min a b) _ _, result (ite_slt_eq_max a b) _ _, result (ite_lt_eq_min a b) _ _, result (ite_lt_eq_max a b) _ _,
    result (sext32_add a b) _ _, result (sext32_sub a b) _ _,
    result (signExtend_shiftLeft_low a _) _ _, result (signExtend_shiftRight_low a _) _ _, result (signExtend_sshiftRight_eq_div _ _) _ _,
    result (mul_eq_ofNat a b) _ _, result rfl _ _, result rfl _ _⟩

end Sys2Proof.Machine

/-!
SUPPORT. Division, bit functions and immediate forms (R49, R51 to R53).
-/

namespace Sys2Proof.Machine

/-! ## Division (R53) -/

theorem remSigned_eq_srem {a b : Word64} (hb : b ≠ 0) : remSigned a b = a.srem b := by
  rw [remSigned, if_neg hb, ← BitVec.toInt_srem, BitVec.ofInt_toInt]

/-- A quotient and a remainder give the dividend back: `tdiv` and `tmod` do, and wrapping keeps sums and products. -/
theorem divSigned_mul_add_remSigned {a b : Word64} (hb : b ≠ 0) : divSigned a b * b + remSigned a b = a := by
  rw [divSigned, remSigned, if_neg hb, if_neg hb]
  calc BitVec.ofInt 64 (a.toInt.tdiv b.toInt) * b + BitVec.ofInt 64 (a.toInt.tmod b.toInt)
      = BitVec.ofInt 64 (a.toInt.tdiv b.toInt * b.toInt + a.toInt.tmod b.toInt) := by
        rw [BitVec.ofInt_add, BitVec.ofInt_mul, BitVec.ofInt_toInt]
    _ = a := by rw [mul_comm, Int.mul_tdiv_add_tmod, BitVec.ofInt_toInt]

theorem toNat_divUnsigned {a b : Word64} (hb : b ≠ 0) : (divUnsigned a b).toNat = a.toNat / b.toNat := by
  rw [divUnsigned, if_neg hb, BitVec.toNat_ofNat, Nat.mod_eq_of_lt]
  exact (Nat.div_le_self _ _).trans_lt a.isLt

theorem toNat_remUnsigned {a b : Word64} (hb : b ≠ 0) : (remUnsigned a b).toNat = a.toNat % b.toNat := by
  rw [remUnsigned, if_neg hb, BitVec.toNat_ofNat, Nat.mod_eq_of_lt]
  exact (Nat.mod_le _ _).trans_lt a.isLt

theorem divUnsigned_mul_add_remUnsigned {a b : Word64} (hb : b ≠ 0) : divUnsigned a b * b + remUnsigned a b = a := by
  refine BitVec.eq_of_toNat_eq ?_
  rw [BitVec.toNat_add, BitVec.toNat_mul, toNat_divUnsigned hb, toNat_remUnsigned hb, Nat.mod_add_mod, Nat.div_add_mod',
    Nat.mod_eq_of_lt a.isLt]

/-- Settles O2: each quotient and remainder by its definition, its corners by evaluation. -/
theorem divisionResults : Obligations.DivisionResults := by
  unfold Obligations.DivisionResults
  intro c f s hs a b ha hb
  have result {g : Word64 → Word64 → Word64} (func : Nat) : (.next (s.rrrOp c 2 func f g) : Res) = .next (s.wrote c f.rd (g a b)) :=
    congrArg _ (State.rrrOp_starts hs ha hb rfl 2 func)
  refine ⟨divSigned a b, remSigned a b, divUnsigned a b, remUnsigned a b, result 4, result 6, result 5, result 7, ?_, ?_, ?_⟩
  case _ =>
    rintro rfl
    exact ⟨rfl, rfl, rfl, rfl⟩
  case _ =>
    intro hz
    exact ⟨if_neg hz, by rw [remSigned_eq_srem hz, BitVec.toInt_srem], toNat_divUnsigned hz, toNat_remUnsigned hz,
      divSigned_mul_add_remSigned hz, divUnsigned_mul_add_remUnsigned hz⟩
  case _ =>
    rintro rfl rfl
    decide

/-! ## Counting and reversing (R52) -/

section
variable {n : Nat} (p : Nat → Bool)

theorem takeWhile_range_getElem (i : Nat) (h : i < ((List.range n).takeWhile p).length) : ((List.range n).takeWhile p)[i] = i := by
  rw [(List.takeWhile_prefix p).getElem h, List.getElem_range]

theorem length_takeWhile_range_le : ((List.range n).takeWhile p).length ≤ n :=
  (List.takeWhile_prefix p).length_le.trans List.length_range.le

theorem holds_of_lt_length_takeWhile_range (i : Nat) (h : i < ((List.range n).takeWhile p).length) : p i = true := by
  have := List.mem_takeWhile_imp (List.getElem_mem h)
  rwa [takeWhile_range_getElem] at this

theorem fails_at_length_takeWhile_range (h : ((List.range n).takeWhile p).length < n) : p ((List.range n).takeWhile p).length = false := by
  set m := ((List.range n).takeWhile p).length with hm
  have hsplit : List.range n = (List.range n).takeWhile p ++ (List.range n).dropWhile p := List.takeWhile_append_dropWhile.symm
  have hlen : 0 < ((List.range n).dropWhile p).length := by
    have := congrArg List.length hsplit
    rw [List.length_range, List.length_append, ← hm] at this
    omega
  have hfirst : (List.range n)[m]'(by rwa [List.length_range]) = ((List.range n).dropWhile p)[0] := by
    rw [List.getElem_of_eq hsplit, List.getElem_append_right hm.ge]
    simp [hm]
  rw [List.getElem_range] at hfirst
  rw [hfirst]
  exact Bool.not_eq_true _ ▸ List.dropWhile_get_zero_not p _ hlen

end

theorem toNat_ofNat_small {m : Nat} (h : m ≤ 64) : (BitVec.ofNat 64 m).toNat = m := by
  rw [BitVec.toNat_ofNat]
  omega

/-- The leading zeros of a word are zero and the bit below them is set. -/
theorem leadingZeros_spec (a : Word64) : leadingZeros a ≤ 64 ∧ (∀ i, i < leadingZeros a → a.getMsbD i = false) ∧
    (leadingZeros a < 64 → a.getMsbD (leadingZeros a) = true) := by
  refine ⟨length_takeWhile_range_le _, fun i hi => ?_, fun hlt => ?_⟩
  · have hzero := holds_of_lt_length_takeWhile_range (fun i => !a.getLsbD (64 - 1 - i)) i hi
    rw [BitVec.getMsbD, (Bool.not_eq_true' _).mp hzero, Bool.and_false]
  · have hset := fails_at_length_takeWhile_range (fun i => !a.getLsbD (64 - 1 - i)) hlt
    rw [BitVec.getMsbD, decide_eq_true hlt, Bool.true_and]
    exact (Bool.not_eq_false' _).mp hset

/-- The trailing zeros of a word are zero and the bit above them is set. -/
theorem trailingZeros_spec (a : Word64) : trailingZeros a ≤ 64 ∧ (∀ i, i < trailingZeros a → a.getLsbD i = false) ∧
    (trailingZeros a < 64 → a.getLsbD (trailingZeros a) = true) :=
  ⟨length_takeWhile_range_le _,
    fun i hi => (Bool.not_eq_true' _).mp (holds_of_lt_length_takeWhile_range (fun i => !a.getLsbD i) i hi),
    fun hlt => (Bool.not_eq_false' _).mp (fails_at_length_takeWhile_range (fun i => !a.getLsbD i) hlt)⟩

theorem popCount_le (a : Word64) : popCount a ≤ 64 := (List.length_filter_le _ _).trans List.length_range.le

theorem popCount_eq_card {w : Nat} (a : BitVec w) : popCount a = ((Finset.range w).filter (fun i => a.getLsbD i = true)).card := by
  change _ = ((List.range w).filter (fun i => decide (a.getLsbD i = true))).length
  simp [popCount]

theorem leNat_lt (bs : List Byte) : leNat bs < 256 ^ bs.length := by
  induction bs with
  | nil => exact Nat.one_pos
  | cons b bs ih =>
    have := b.isLt
    rw [leNat, List.length_cons, Nat.pow_succ]
    omega

/-- A byte of the number that little-endian bytes spell is the byte in its place. -/
theorem leNat_byte (bs : List Byte) (i : Nat) : BitVec.ofNat 8 (leNat bs / 256 ^ i) = bs.getD i 0 := by
  induction bs generalizing i with
  | nil => simp [leNat]
  | cons b bs ih =>
    cases i with
    | zero => exact BitVec.eq_of_toNat_eq (by have := b.isLt; simp [leNat]; omega)
    | succ i =>
      have hq : leNat (b :: bs) / 256 ^ (i + 1) = leNat bs / 256 ^ i := by
        have := b.isLt
        rw [leNat, Nat.pow_succ', ← Nat.div_div_eq_div_mul]
        congr 1
        omega
      rw [hq, ih, List.getD_cons_succ]

/-- A byte of a number within a word. -/
theorem extract_byte_ofNat {v : Nat} (h : v < 2 ^ 64) (i : Nat) :
    (BitVec.ofNat 64 v).extractLsb' (8 * i) 8 = BitVec.ofNat 8 (v / 256 ^ i) := by
  refine BitVec.eq_of_toNat_eq ?_
  rw [BitVec.extractLsb'_toNat, BitVec.toNat_ofNat, BitVec.toNat_ofNat, Nat.mod_eq_of_lt h, Nat.shiftRight_eq_div_pow, Nat.pow_mul]

theorem byteSwap_toNat {n : Nat} (h : n ≤ 8) (a : Word64) : (byteSwap n a).toNat = leNat (leBytes n a.toNat).reverse := by
  have hlt := leNat_lt (leBytes n a.toNat).reverse
  rw [List.length_reverse, leBytes_length] at hlt
  have hle : 256 ^ n ≤ 2 ^ 64 := (Nat.pow_le_pow_right (by decide) h).trans (by decide)
  rw [byteSwap, BitVec.toNat_ofNat, Nat.mod_eq_of_lt (hlt.trans_le hle)]

theorem byteSwap_lt {n : Nat} (h : n ≤ 8) (a : Word64) : (byteSwap n a).toNat < 256 ^ n := by
  have hlt := leNat_lt (leBytes n a.toNat).reverse
  rwa [List.length_reverse, leBytes_length, ← byteSwap_toNat h] at hlt

/-- Byte `i` of the reversed bytes is byte `n − 1 − i` of the word. -/
theorem byteSwap_byte {n : Nat} (h : n ≤ 8) (a : Word64) (i : Nat) (hi : i < n) :
    (byteSwap n a).extractLsb' (8 * i) 8 = a.extractLsb' (8 * (n - 1 - i)) 8 := by
  have hof (x : Word64) : BitVec.ofNat 64 x.toNat = x := by rw [BitVec.ofNat_toNat, BitVec.setWidth_eq]
  calc (byteSwap n a).extractLsb' (8 * i) 8
      = BitVec.ofNat 8 ((byteSwap n a).toNat / 256 ^ i) := by rw [← extract_byte_ofNat (byteSwap n a).isLt, hof]
    _ = (leBytes n a.toNat).reverse.getD i 0 := by rw [byteSwap_toNat h, leNat_byte]
    _ = (leBytes n a.toNat).getD (n - 1 - i) 0 := by
        rw [List.getD_eq_getElem?_getD, List.getElem?_reverse (by rwa [leBytes_length]), leBytes_length, ← List.getD_eq_getElem?_getD]
    _ = a.extractLsb' (8 * (n - 1 - i)) 8 := by rw [leBytes_getD _ _ _ (by omega), ← extract_byte_ofNat a.isLt, hof]

/-! ## Bit and immediate forms (R49, R51, R52) -/

theorem State.unaryOp_starts {s : State} {c : CoreId} {f : Rrr} {a : Word64} (h : s.starts c) (ha : (s.core c).reg f.ra = a) (hb : f.rb = 0)
    (func : Nat) (g : Word64 → Word64) : s.unaryOp c func f g = s.wrote c f.rd (g a) := by
  rw [State.unaryOp, hb, ← ha]
  exact State.writesReg_starts h _ _ _

theorem State.unaryOp_illegal {s : State} {c : CoreId} {f : Rrr} (h : s.starts c) (hb : f.rb ≠ 0) (func : Nat) (g : Word64 → Word64) :
    s.unaryOp c func f g = s.raise c excIllegal ((wordRrr 0x01 f func).setWidth 64) := by
  rw [State.unaryOp, beq_false_of_ne hb]
  exact State.writesReg_illegal h _ _ _

theorem State.rriOp_starts {s : State} {c : CoreId} {f : Rri} {g : Word64 → BitVec 16 → Word64} {a v : Word64} (h : s.starts c)
    (ha : (s.core c).reg f.ra = a) (hv : g a f.imm = v) (op : Nat) : s.rriOp c op f g = s.wrote c f.rd v := by
  rw [State.rriOp, State.writesReg_starts h, ha, hv]

theorem State.shiftOp_starts {s : State} {c : CoreId} {f : ShiftImm} {g : Word64 → Nat → Word64} {a v : Word64} (h : s.starts c)
    (ha : (s.core c).reg f.ra = a) (hu : f.upper = 0) (hv : g a f.shamt.toNat = v) (sel : Nat) :
    s.shiftOp c sel f g = s.wrote c f.rd v := by
  rw [State.shiftOp, hu, ← hv, ← ha]
  exact State.writesReg_starts h _ _ _

theorem State.shiftOp_illegal {s : State} {c : CoreId} {f : ShiftImm} (h : s.starts c) (hu : f.upper ≠ 0) (sel : Nat)
    (g : Word64 → Nat → Word64) : s.shiftOp c sel f g = s.raise c excIllegal ((wordShift sel f).setWidth 64) := by
  rw [State.shiftOp, beq_false_of_ne hu]
  exact State.writesReg_illegal h _ _ _

theorem toInt_simm (imm : BitVec 16) : (simm imm).toInt = imm.toInt := BitVec.toInt_signExtend_of_le (by decide)

/-- What `lui` writes: the immediate, signed, times 2^16 (R52). -/
theorem lui_value (imm : BitVec 16) : (imm.setWidth 32 <<< 16).signExtend 64 = BitVec.ofInt 64 (imm.toInt * 65536) := by
  have hint : (imm.setWidth 32 <<< 16).toInt = imm.toInt * 65536 := by
    have hnat : (imm.setWidth 32 <<< 16).toNat = imm.toNat * 65536 := by
      have := imm.isLt
      rw [BitVec.toNat_shiftLeft, BitVec.toNat_setWidth, Nat.shiftLeft_eq]
      omega
    rw [BitVec.toInt_eq_toNat_cond, BitVec.toInt_eq_toNat_cond, hnat]
    split <;> split <;> push_cast <;> omega
  rw [BitVec.signExtend, hint]
theorem execLui_starts {s : State} {c : CoreId} {f : Rri} (h : s.starts c) (hz : f.ra = 0) :
    execLui c f s = .next (s.wrote c f.rd (BitVec.ofInt 64 (f.imm.toInt * 65536))) := by
  rw [execLui, hz, ← lui_value]
  exact congrArg _ (State.writesReg_starts h _ _ _)

theorem execLui_illegal {s : State} {c : CoreId} {f : Rri} (h : s.starts c) (hz : f.ra ≠ 0) :
    execLui c f s = .next (s.raise c excIllegal ((wordRri 0x0F f).setWidth 64)) := by
  rw [execLui, beq_false_of_ne hz]
  exact congrArg _ (State.writesReg_illegal h _ _ _)

/-- Settles O3: the counts by `takeWhile` over the bits, the reversals by `byteSwap_byte`, the immediate forms by their values. -/
theorem bitAndImmediateResults : Obligations.BitAndImmediateResults := by
  unfold Obligations.BitAndImmediateResults
  refine ⟨fun c f s hs a ha => ⟨fun hb => ?_, fun hb => ?_⟩,
    fun c s hs => ⟨fun f a ha => ?_, fun f a ha => ⟨fun hu => ?_, fun hu => ?_⟩⟩⟩
  · have result (func : Nat) (g : Word64 → Word64) : (.next (s.unaryOp c func f g) : Res) = .next (s.wrote c f.rd (g a)) :=
      congrArg _ (State.unaryOp_starts hs ha hb func g)
    have hlz := toNat_ofNat_small (leadingZeros_spec a).1
    have htz := toNat_ofNat_small (trailingZeros_spec a).1
    have hpc := toNat_ofNat_small (popCount_le a)
    refine ⟨_, _, _, _, _, _, result _ _, result _ _, result _ _, result _ _, result _ _, result _ _, ?_⟩
    rw [hlz, htz, hpc]
    obtain ⟨hlz64, hlzZero, hlzSet⟩ := leadingZeros_spec a
    obtain ⟨htz64, htzZero, htzSet⟩ := trailingZeros_spec a
    exact ⟨hlz64, hlzZero, hlzSet, htz64, htzZero, htzSet, popCount_eq_card a, byteSwap_lt (by decide) a, byteSwap_byte (by decide) a,
      byteSwap_lt (by decide) a, byteSwap_byte (by decide) a, byteSwap_byte (by decide) a⟩
  · have illegal (func : Nat) (g : Word64 → Word64) :
        (.next (s.unaryOp c func f g) : Res) = .next (s.raise c excIllegal ((wordRrr 0x01 f func).setWidth 64)) :=
      congrArg _ (State.unaryOp_illegal hs hb func g)
    exact ⟨illegal _ _, illegal _ _, illegal _ _, illegal _ _, illegal _ _, illegal _ _⟩
  · have result {g : Word64 → BitVec 16 → Word64} {v : Word64} (hv : g a f.imm = v) (op : Nat) :
        (.next (s.rriOp c op f g) : Res) = .next (s.wrote c f.rd v) :=
      congrArg _ (State.rriOp_starts hs ha hv op)
    exact ⟨result rfl _, result rfl _, result rfl _, result rfl _,
      result ((boolWord_slt _ _).trans (by rw [toInt_simm])) _, result (boolWord_lt a (f.imm.signExtend 64)) _,
      execLui_starts hs, execLui_illegal hs⟩
  · have result {g : Word64 → Nat → Word64} {v : Word64} (hv : g a f.shamt.toNat = v) (sel : Nat) :
        (.next (s.shiftOp c sel f g) : Res) = .next (s.wrote c f.rd v) :=
      congrArg _ (State.shiftOp_starts hs ha hu hv sel)
    exact ⟨result (shiftLeft_eq_mul _ _) _, result (shiftRight_eq_div _ _) _, result (sshiftRight_eq_div _ _) _⟩
  · have illegal (sel : Nat) (g : Word64 → Nat → Word64) :
        (.next (s.shiftOp c sel f g) : Res) = .next (s.raise c excIllegal ((wordShift sel f).setWidth 64)) :=
      congrArg _ (State.shiftOp_illegal hs hu sel g)
    exact ⟨illegal _ _, illegal _ _, illegal _ _⟩

end Sys2Proof.Machine

/-!
SUPPORT. What a register write leaves standing, and control transfers (R34, R49, R54).
-/

namespace Sys2Proof.Machine

/-! ## The frame of a register write (R34) -/

@[simp] theorem Core.reg_retire (k : Core) (c : CoreId) (r : RegField) : (k.retire c).reg r = k.reg r := rfl

@[simp] theorem State.wrote_core_self (s : State) (c : CoreId) (rd : RegField) (v : Word64) :
    (s.wrote c rd v).core c = ((s.core c).setReg rd v).retire c :=
  State.core_setCore_self _ _ _

theorem State.wrote_core_of_ne (s : State) {c d : CoreId} (rd : RegField) (v : Word64) (h : d ≠ c) : (s.wrote c rd v).core d = s.core d :=
  State.core_setCore_of_ne _ _ h

theorem Core.reg_setReg_self (k : Core) (r : RegField) (v : Word64) : (k.setReg r v).reg r = if r = 0 then 0 else v := by
  rw [Core.reg_setReg]
  by_cases h : r = 0
  · rw [if_neg fun e => e.2 h, if_pos h, h, Core.reg_zero]
  · rw [if_pos ⟨rfl, h⟩, if_neg h]

theorem Core.reg_setReg_of_ne (k : Core) {r q : RegField} (v : Word64) (h : q ≠ r) : (k.setReg r v).reg q = k.reg q := by
  rw [Core.reg_setReg, if_neg fun e => h e.1]

/-- A general register written and the instruction retired: nothing else of the core but `pc`, its counters and its wait. -/
theorem Core.setReg_retire_frame (k : Core) (c : CoreId) (rd : RegField) (v : Word64) :
    { (k.setReg rd v).retire c with g := k.g, pc := k.pc, instret := k.instret, cycle := k.cycle, wait := k.wait } = k := by
  unfold Core.setReg
  split <;> rfl

theorem execJal_starts {s : State} {c : CoreId} (h : s.starts c) (off : BitVec 26) :
    execJal c off s = .next (s.setCore c (((s.core c).setReg 31 ((s.core c).pc + 4)).retireTo c (relTarget (s.core c).pc off))) :=
  congrArg _ (State.runInsn_starts h _ _)

/-- Settles O4: reads of g0 and of the written register, and the frame of `wrote`. -/
theorem registerWriteFrame : Obligations.RegisterWriteFrame := by
  unfold Obligations.RegisterWriteFrame
  refine ⟨Core.reg_zero, Core.setReg_zero, fun c off s hs => ?_, fun c rd v s t ht => ?_⟩
  · refine ⟨_, execJal_starts hs off, ?_, fun r hr => ?_⟩
    · rw [State.core_setCore_self, Core.reg_retireTo, Core.reg_setReg_self, if_neg (by decide)]
    · rw [State.core_setCore_self, Core.reg_retireTo, Core.reg_setReg_of_ne _ _ hr]
  · subst ht
    rw [State.wrote_core_self]
    exact ⟨Core.reg_setReg_self _ _ _, fun r hr => Core.reg_setReg_of_ne _ _ hr, by simp, by simp, Core.setReg_retire_frame _ _ _ _,
      fun d hd => s.wrote_core_of_ne rd v hd, State.setCore_onlyCores _ _ _⟩

/-! ## Branches and jumps (R49, R54) -/

theorem relTarget_eq (pc : Word64) {n : Nat} (off : BitVec n) : relTarget pc off = pc + BitVec.ofInt 64 (4 * off.toInt) := by
  rw [relTarget, BitVec.ofInt_mul, BitVec.mul_comm]
  rfl

/-- A branch goes to its target exactly when its comparison, a proposition here, holds. -/
theorem State.branchOp_starts {s : State} {c : CoreId} {f : Br} {taken : Word64 → Word64 → Bool} {p : Prop} [Decidable p] (h : s.starts c)
    (hp : taken ((s.core c).reg f.ra) ((s.core c).reg f.rb) = true ↔ p) (op : Nat) :
    s.branchOp c op f taken = s.setCore c ((s.core c).retireTo c
      (if p then (s.core c).pc + BitVec.ofInt 64 (4 * f.off.toInt) else (s.core c).pc + 4)) := by
  rw [State.branchOp, State.runInsn_starts h]
  simp only [hp, relTarget_eq]

/-- Settles O5: the branches by `branchOp_starts`, the jumps by their definitions. -/
theorem controlTransfers : Obligations.ControlTransfers := by
  unfold Obligations.ControlTransfers
  rintro c s hs k rfl
  refine ⟨?_, fun off => ⟨?_, ?_⟩, fun f => ?_⟩
  · rintro f a b rfl rfl
    have goes {taken : Word64 → Word64 → Bool} {p : Prop} [Decidable p]
        (hp : taken ((s.core c).reg f.ra) ((s.core c).reg f.rb) = true ↔ p) (op : Nat) :
        (.next (s.branchOp c op f taken) : Res) = .next (s.setCore c ((s.core c).retireTo c
          (if p then (s.core c).pc + BitVec.ofInt 64 (4 * f.off.toInt) else (s.core c).pc + 4))) :=
      congrArg _ (State.branchOp_starts hs hp op)
    refine ⟨goes decide_eq_true_iff _, goes decide_eq_true_iff _, goes BitVec.slt_iff_toInt_lt _, goes ?_ _,
      goes (decide_eq_true_iff.trans BitVec.lt_def) _, goes (decide_eq_true_iff.trans BitVec.le_def) _⟩
    rw [Bool.not_eq_true', ← Bool.not_eq_true, BitVec.slt_iff_toInt_lt, not_lt]
  · rw [← relTarget_eq]
    exact congrArg _ (State.runInsn_starts hs _ _)
  · rw [← relTarget_eq]
    exact execJal_starts hs off
  · exact congrArg _ (State.runInsn_starts hs _ _)

end Sys2Proof.Machine

/-!
SUPPORT. Loads, stores and atomics, and what stands against an access (R11, R47, R54, R55, R68, R73).
-/

namespace Sys2Proof.Machine

/-! ## Loads and stores (R54, R11) -/

section
variable {s t : State} {c : CoreId} {f : Rri} {a : Word64} {n : Nat}

/-- A load that nothing stands against writes what it read. -/
theorem State.loadOp_allowed (h : s.starts c) (ha : (s.core c).reg f.ra + f.imm.signExtend 64 = a) (hk : s.allowed c .load a n false)
    (op : Nat) (ext : Nat → Word64) : s.loadOp c op n f ext = s.wrote c f.rd (ext (leNat (s.physBytes a.toNat n))) := by
  have hea : (s.core c).ea f = a := ha
  rw [State.loadOp, State.runInsn_starts h]
  simp only [hea, show s.checkAccess c .load a n false = none from hk]
  rfl

/-- A load that something stands against does that instead. -/
theorem State.loadOp_stopped (h : s.starts c) (ha : (s.core c).reg f.ra + f.imm.signExtend 64 = a)
    (hk : s.checkAccess c .load a n false = some t) (op : Nat) (ext : Nat → Word64) : s.loadOp c op n f ext = t := by
  have hea : (s.core c).ea f = a := ha
  rw [State.loadOp, State.runInsn_starts h]
  simp only [hea, hk]

theorem State.storeOp_allowed (h : s.starts c) (ha : (s.core c).reg f.ra + f.imm.signExtend 64 = a) (hk : s.allowed c .store a n false)
    (op : Nat) : s.storeOp c op n f = (s.writeDram a.toNat (leBytes n ((s.core c).reg f.rd).toNat)).setCore c ((s.core c).retire c) := by
  have hea : (s.core c).ea f = a := ha
  rw [State.storeOp, State.runInsn_starts h]
  simp only [hea, show s.checkAccess c .store a n false = none from hk]

theorem State.storeOp_stopped (h : s.starts c) (ha : (s.core c).reg f.ra + f.imm.signExtend 64 = a)
    (hk : s.checkAccess c .store a n false = some t) (op : Nat) : s.storeOp c op n f = t := by
  have hea : (s.core c).ea f = a := ha
  rw [State.storeOp, State.runInsn_starts h]
  simp only [hea, hk]

theorem State.regOffset_none (hr : s.regionAt a.toNat 4 ≠ .registers) : s.regOffset a.toNat = none := if_neg hr

theorem State.loadWord_allowed (h : s.starts c) (ha : (s.core c).reg f.ra + f.imm.signExtend 64 = a) (hk : s.allowed c .load a 4 true)
    (hr : s.regionAt a.toNat 4 ≠ .registers) (op : Nat) (ext : Word32 → Word64) :
    s.loadWord c op f ext = s.wrote c f.rd (ext (BitVec.ofNat 32 (leNat (s.physBytes a.toNat 4)))) := by
  have hea : (s.core c).ea f = a := ha
  rw [State.loadWord, State.runInsn_starts h]
  simp only [hea, show s.checkAccess c .load a 4 true = none from hk, State.regOffset_none hr]
  rfl

theorem execSw_allowed (h : s.starts c) (ha : (s.core c).reg f.ra + f.imm.signExtend 64 = a) (hk : s.allowed c .store a 4 true)
    (hr : s.regionAt a.toNat 4 ≠ .registers) : execSw c f s =
      .next ((s.writeDram a.toNat (leBytes 4 (((s.core c).reg f.rd).setWidth 32).toNat)).setCore c ((s.core c).retire c)) := by
  have hea : (s.core c).ea f = a := ha
  rw [execSw, State.runInsn_starts h]
  simp only [hea, show s.checkAccess c .store a 4 true = none from hk, State.regOffset_none hr]

theorem vregOk_of_lt {r : RegField} (h : r.toNat < 16) : vregOk r = true := by
  rw [vregOk, bitAt, Bool.not_eq_true']
  exact Nat.testBit_eq_false_of_lt (i := 4) h

theorem execVld_allowed (h : s.starts c) (ha : (s.core c).reg f.ra + f.imm.signExtend 64 = a) (hk : s.allowed c .load a 64 false)
    (hr : f.rd.toNat < 16) : execVld c f s =
      .next (s.setCore c (((s.core c).setVreg f.rd (BitVec.ofNat 512 (leNat (s.physBytes a.toNat 64)))).retire c)) := by
  have hea : (s.core c).ea f = a := ha
  rw [execVld, vregOk_of_lt hr, State.runInsn_starts h]
  simp only [hea, show s.checkAccess c .load a 64 false = none from hk]

theorem execVst_allowed (h : s.starts c) (ha : (s.core c).reg f.ra + f.imm.signExtend 64 = a) (hk : s.allowed c .store a 64 false)
    (hr : f.rd.toNat < 16) : execVst c f s =
      .next ((s.writeDram a.toNat (leBytes 64 ((s.core c).vreg f.rd).toNat)).setCore c ((s.core c).retire c)) := by
  have hea : (s.core c).ea f = a := ha
  rw [execVst, vregOk_of_lt hr, State.runInsn_starts h]
  simp only [hea, show s.checkAccess c .store a 64 false = none from hk]

end

theorem State.physBytes_length (s : State) (a n : Nat) : (s.physBytes a n).length = n := by
  rw [State.physBytes, List.length_map, List.length_range]

theorem leBytes_mod (n v : Nat) : leBytes n (v % 256 ^ n) = leBytes n v := by
  induction n generalizing v with
  | zero => rfl
  | succ n ih =>
    have hbyte : BitVec.ofNat 8 (v % 256 ^ (n + 1)) = BitVec.ofNat 8 v :=
      BitVec.eq_of_toNat_eq (by simp [Nat.pow_succ'])
    have hrest : v % 256 ^ (n + 1) / 256 = v / 256 % 256 ^ n := by rw [Nat.pow_succ', Nat.mod_mul_right_div_self]
    rw [leBytes, leBytes, hbyte, hrest, ih]

theorem leBytes_setWidth_low (v : Word64) : leBytes 4 (v.setWidth 32).toNat = leBytes 4 v.toNat := by
  rw [BitVec.toNat_setWidth]
  exact leBytes_mod 4 v.toNat

theorem setWidth_ofNat_low {v : Nat} (h : v < 2 ^ 32) : (BitVec.ofNat 32 v).setWidth 64 = BitVec.ofNat 64 v :=
  BitVec.eq_of_toNat_eq (by simp; omega)

/-- Bytes stored in DRAM with one core's update beside them: what is stored, and that nothing else changed. -/
theorem State.writeDram_setCore_stored (s : State) (c : CoreId) (k : Core) (a n v : Nat) :
    StoredBytes s ((s.writeDram a (leBytes n v)).setCore c k) a n v ∧ OnlyStored s ((s.writeDram a (leBytes n v)).setCore c k) c k :=
  ⟨s.writeDram_storedBytes a n v, State.core_setCore_self _ _ _, fun _ hd => State.core_setCore_of_ne _ _ hd, rfl⟩

/-- Settles O6: each load and store by its `allowed` lemma, and what a store leaves by `writeDram_setCore_stored`. -/
theorem loadsAndStores : Obligations.LoadsAndStores := by
  unfold Obligations.LoadsAndStores
  refine ⟨fun c f s hs a ha => ?_, fun c f s hs a ha k hk => ?_⟩
  · have load {n : Nat} (hn : s.allowed c .load a n false) (op : Nat) (ext : Nat → Word64) :
        (.next (s.loadOp c op n f ext) : Res) = .next (s.wrote c f.rd (ext (leNat (s.physBytes a.toNat n)))) :=
      congrArg _ (State.loadOp_allowed hs ha hn op ext)
    have hlt : leNat (s.physBytes a.toNat 4) < 2 ^ 32 := by
      have := leNat_lt (s.physBytes a.toNat 4)
      rwa [State.physBytes_length] at this
    refine ⟨fun h1 => ⟨load h1 _ _, load h1 _ _⟩, fun h2 => ⟨load h2 _ _, load h2 _ _⟩, fun h4 hr => ?_, fun h8 => load h8 _ _,
      execVld_allowed hs ha⟩
    have word (op : Nat) (ext : Word32 → Word64) : (.next (s.loadWord c op f ext) : Res) = .next (s.wrote c f.rd (ext _)) :=
      congrArg _ (State.loadWord_allowed hs ha h4 hr op ext)
    exact ⟨word _ _, (word _ _).trans (by rw [setWidth_ofNat_low hlt])⟩
  · subst hk
    have store {n : Nat} (hn : s.allowed c .store a n false) (op : Nat) : ∃ t, (.next (s.storeOp c op n f) : Res) = .next t ∧
        StoredBytes s t a.toNat n ((s.core c).reg f.rd).toNat ∧ OnlyStored s t c ((s.core c).retire c) :=
      ⟨_, congrArg _ (State.storeOp_allowed hs ha hn op), s.writeDram_setCore_stored _ _ _ _ _⟩
    refine ⟨fun h1 => store h1 _, fun h2 => store h2 _, fun h4 hr => ⟨_, execSw_allowed hs ha h4 hr, ?_⟩, fun h8 => store h8 _,
      fun h64 hr => ⟨_, execVst_allowed hs ha h64 hr, s.writeDram_setCore_stored _ _ _ _ _⟩⟩
    rw [leBytes_setWidth_low]
    exact s.writeDram_setCore_stored _ _ _ _ _

/-! ## Atomics (R47, R55) -/

section
variable {s : State} {c : CoreId} {f : Atom}

theorem State.atomOp_wide (hs : s.starts c) (hw : f.wide = true) (hk : s.allowed c .atomic ((s.core c).reg f.regs.ra) 8 false) (oper : Nat) :
    s.atomOp c oper f =
      let k := s.core c
      let a := (k.reg f.regs.ra).toNat
      let old := BitVec.ofNat 64 (leNat (s.physBytes a 8))
      (s.writeDram a (leBytes 8 (atomicNew oper old (k.reg f.regs.rb) (k.reg f.regs.rd)).toNat)).setCore c
        ((k.setReg f.regs.rd old).retire c) := by
  have hself (x : Word64) : BitVec.ofNat 64 x.toNat = x := by rw [BitVec.ofNat_toNat, BitVec.setWidth_eq]
  have hcheck : s.checkAccess c .atomic ((s.core c).reg f.regs.ra) 8 false = none := hk
  rw [State.atomOp, State.runInsn_starts hs]
  simp only [hw, if_true, hcheck, hself]

theorem State.atomOp_narrow (hs : s.starts c) (hw : f.wide = false) (hk : s.allowed c .atomic ((s.core c).reg f.regs.ra) 4 false)
    (oper : Nat) : s.atomOp c oper f =
      let k := s.core c
      let a := (k.reg f.regs.ra).toNat
      let old := BitVec.ofNat 32 (leNat (s.physBytes a 4))
      (s.writeDram a (leBytes 4 (atomicNew oper old ((k.reg f.regs.rb).setWidth 32) ((k.reg f.regs.rd).setWidth 32)).toNat)).setCore c
        ((k.setReg f.regs.rd (old.signExtend 64)).retire c) := by
  have hcheck : s.checkAccess c .atomic ((s.core c).reg f.regs.ra) 4 false = none := hk
  rw [State.atomOp, State.runInsn_starts hs]
  simp only [hw, Bool.false_eq_true, if_false, hcheck, BitVec.ofNat_toNat]

/-- An atomic whose new value is `g` of the old value, rb and rd. -/
theorem State.atomOp_result {i : Instr} {oper : Nat} {g : (n : Nat) → BitVec n → BitVec n → BitVec n → BitVec n} (hs : s.starts c)
    (hi : exec i s = .next (s.atomOp c oper f)) (hg : ∀ n (old b d : BitVec n), atomicNew oper old b d = g n old b d) :
    AtomResult i c f s g := by
  refine ⟨fun hw hk => ⟨_, _, hi.trans (congrArg _ (State.atomOp_wide hs hw hk oper)), rfl, ?_⟩,
    fun hw hk => ⟨_, _, hi.trans (congrArg _ (State.atomOp_narrow hs hw hk oper)), rfl, ?_⟩⟩
  · rw [← hg]
    exact s.writeDram_setCore_stored _ _ _ _ _
  · rw [← hg]
    exact s.writeDram_setCore_stored _ _ _ _ _

end

/-- Settles O7: every operation is `atomicNew`'s. -/
theorem atomicResults : Obligations.AtomicResults := by
  unfold Obligations.AtomicResults
  intro c f s hs
  refine ⟨State.atomOp_result hs rfl ?_, State.atomOp_result hs rfl ?_, State.atomOp_result hs rfl ?_, State.atomOp_result hs rfl ?_,
    State.atomOp_result hs rfl ?_, State.atomOp_result hs rfl ?_, State.atomOp_result hs rfl ?_, State.atomOp_result hs rfl ?_,
    State.atomOp_result hs rfl ?_, State.atomOp_result hs rfl ?_⟩ <;> intro n old b d
  · rfl
  · rfl
  · rfl
  · rfl
  · rfl
  · exact if_congr BitVec.slt_iff_toInt_lt rfl rfl
  · exact if_congr BitVec.slt_iff_toInt_lt rfl rfl
  · exact if_congr BitVec.lt_def rfl rfl
  · exact if_congr BitVec.lt_def rfl rfl
  · rfl

/-! ## What stands against an access (R68, R73) -/

section
variable {s : State} {c : CoreId} {kind : AccessKind} {a : Word64} {n : Nat} {scalar : Bool}

theorem State.checkAccess_unaligned (h : a.toNat % n ≠ 0) : s.checkAccess c kind a n scalar =
    some (s.raise c (if kind == .store || kind == .atomic then excStoreAlign else excLoadAlign) a) := by
  simp only [State.checkAccess, isAligned, beq_false_of_ne h, Bool.not_false, if_true]

theorem State.checkAccess_watch_raises (h : a.toNat % n = 0) (hw : (s.core c).watchpoint kind a n = .raise) :
    s.checkAccess c kind a n scalar = some (s.raise c excWatchpoint a) := by
  simp [State.checkAccess, isAligned, h, hw]

theorem State.checkAccess_watch_halts (h : a.toNat % n = 0) (hw : (s.core c).watchpoint kind a n = .halt) :
    s.checkAccess c kind a n scalar = some (s.enterHalt c 3) := by
  simp [State.checkAccess, isAligned, h, hw]

theorem State.checkAccess_denied (h : a.toNat % n = 0) (hw : (s.core c).watchpoint kind a n = .none)
    (hd : s.accessAllowed c kind a n scalar = false) : s.checkAccess c kind a n scalar =
      some (s.raise c (if kind == .store || kind == .atomic then excStoreAccess else excLoadAccess) a) := by
  simp only [State.checkAccess, isAligned, h, hw, hd, beq_self_eq_true, Bool.not_true, Bool.false_eq_true, if_false, Bool.not_false, if_true]

theorem State.checkAccess_dataError (h : a.toNat % n = 0) (hw : (s.core c).watchpoint kind a n = .none)
    (hd : s.accessAllowed c kind a n scalar = true) (hk : kind ≠ .store) (he : s.hasDataError a.toNat n = true) :
    s.checkAccess c kind a n scalar = some (s.raise c excDataError a) := by
  simp [State.checkAccess, isAligned, h, hw, hd, hk, he]

end

/-- Settles O8: what `checkAccess` answers, in the order of R73, is what the load or store does. -/
theorem accessTraps : Obligations.AccessTraps := by
  unfold Obligations.AccessTraps
  intro c f s hs a ha
  have load {t : State} (h : s.checkAccess c .load a 8 false = some t) : execLd c f s = .next t :=
    congrArg _ (State.loadOp_stopped hs ha h _ _)
  have store {t : State} (h : s.checkAccess c .store a 8 false = some t) : execSd c f s = .next t :=
    congrArg _ (State.storeOp_stopped hs ha h _)
  exact ⟨fun h => ⟨load (State.checkAccess_unaligned h), store (State.checkAccess_unaligned h)⟩,
    fun h hw => load (State.checkAccess_watch_raises h hw), fun h hw => store (State.checkAccess_watch_halts h hw),
    fun h hw hd => load (State.checkAccess_denied h hw hd), fun h hw hd => store (State.checkAccess_denied h hw hd),
    fun h hw hd he => load (State.checkAccess_dataError h hw hd (by decide) he)⟩

end Sys2Proof.Machine

/-!
SUPPORT. Vector instructions lane by lane (R35, R51, R56, R57).
-/

namespace Sys2Proof.Machine

/-! ## Vector lanes (R35, R56) -/

/-- The number that a vector of lanes spells, lane 0 lowest. -/
def lanesNat (w : Nat) (lanes : List (BitVec w)) : Nat := lanes.foldr (fun x acc => x.toNat + 2 ^ w * acc) 0

theorem packLanes_eq (w : Nat) (lanes : List (BitVec w)) : packLanes w lanes = BitVec.ofNat 512 (lanesNat w lanes) := rfl

theorem lanesNat_cons {w : Nat} (x : BitVec w) (lanes : List (BitVec w)) :
    lanesNat w (x :: lanes) = x.toNat + 2 ^ w * lanesNat w lanes := rfl

theorem lanesNat_lt {w : Nat} (lanes : List (BitVec w)) : lanesNat w lanes < 2 ^ (w * lanes.length) := by
  induction lanes with
  | nil => exact Nat.one_pos
  | cons x lanes ih =>
    have hx := x.isLt
    rw [lanesNat_cons, List.length_cons, Nat.mul_succ, Nat.add_comm (w * _), Nat.pow_add]
    calc x.toNat + 2 ^ w * lanesNat w lanes < 2 ^ w + 2 ^ w * lanesNat w lanes := by omega
      _ = 2 ^ w * (lanesNat w lanes + 1) := by ring
      _ ≤ 2 ^ w * 2 ^ (w * lanes.length) := Nat.mul_le_mul_left _ ih

theorem lanesNat_lt_of_le {w m : Nat} (lanes : List (BitVec w)) (h : w * lanes.length ≤ m) : lanesNat w lanes < 2 ^ m :=
  (lanesNat_lt lanes).trans_le (Nat.pow_le_pow_right Nat.two_pos h)

theorem toNat_ofNat_of_lt {w x : Nat} (h : x < 2 ^ w) : (BitVec.ofNat w x).toNat = x := by
  rw [BitVec.toNat_ofNat, Nat.mod_eq_of_lt h]

theorem lanesNat_lane {w : Nat} (lanes : List (BitVec w)) (j : Nat) (hj : j < lanes.length) :
    lanesNat w lanes / 2 ^ (w * j) % 2 ^ w = lanes[j].toNat := by
  induction lanes generalizing j with
  | nil => exact absurd hj (Nat.not_lt_zero j)
  | cons x lanes ih =>
    cases j with
    | zero => rw [lanesNat_cons, Nat.mul_zero, Nat.pow_zero, Nat.div_one, Nat.add_mul_mod_self_left, Nat.mod_eq_of_lt x.isLt]; rfl
    | succ j =>
      have hq : lanesNat w (x :: lanes) / 2 ^ (w * (j + 1)) = lanesNat w lanes / 2 ^ (w * j) := by
        rw [lanesNat_cons, Nat.mul_succ, Nat.add_comm (w * j), Nat.pow_add, ← Nat.div_div_eq_div_mul,
          Nat.add_mul_div_left _ _ (Nat.two_pow_pos w), Nat.div_eq_of_lt x.isLt, Nat.zero_add]
      rw [hq, ih j (Nat.lt_of_succ_lt_succ hj), List.getElem_cons_succ]

/-- A lane of packed lanes is that lane, where they fit the register. -/
theorem laneOf_packLanes {w : Nat} (lanes : List (BitVec w)) (j : Nat) (hj : j < lanes.length) (hfit : w * lanes.length ≤ 512) :
    laneOf w (packLanes w lanes) j = lanes[j] := by
  have hlt := lanesNat_lt_of_le lanes hfit
  refine BitVec.eq_of_toNat_eq ?_
  rw [laneOf, BitVec.extractLsb'_toNat, packLanes_eq, toNat_ofNat_of_lt hlt, Nat.shiftRight_eq_div_pow,
    lanesNat_lane lanes j hj]

/-- The lanes of a vector made lane by lane. -/
theorem laneOf_packLanes_map {w : Nat} (g : Nat → BitVec w) (j : Nat) (hj : j < 512 / w) :
    laneOf w (packLanes w ((List.range (512 / w)).map g)) j = g j := by
  have hlen : ((List.range (512 / w)).map g).length = 512 / w := by rw [List.length_map, List.length_range]
  rw [laneOf_packLanes _ j (by rwa [hlen]) (by rw [hlen]; exact Nat.mul_div_le 512 w), List.getElem_map, List.getElem_range]

theorem laneOf_mapLanes {w : Nat} (g : BitVec w → BitVec w → BitVec w) (a b : VWord) (j : Nat) (hj : j < 512 / w) :
    laneOf w (mapLanes w g a b) j = g (laneOf w a j) (laneOf w b j) :=
  laneOf_packLanes_map _ j hj

/-- A lane put in place: that lane takes the value, and the others stay. -/
theorem laneOf_putBits {w : Nat} (v : VWord) (i j x : Nat) (hi : i < 512 / w) :
    laneOf w (putBits v (w * i) w x) j = if j = i then BitVec.ofNat w x else laneOf w v j := by
  have hend : w * i + w ≤ 512 := (Nat.mul_le_mul_left w hi).trans (Nat.mul_div_le 512 w)
  refine BitVec.eq_of_toNat_eq ?_
  have hlane (u : VWord) : (laneOf w u j).toNat = natAt u (w * j) w := by rw [laneOf, BitVec.extractLsb'_toNat]; rfl
  rw [hlane]
  by_cases e : j = i
  · rw [if_pos e, e, natAt_putBits_self _ _ _ _ hend, BitVec.toNat_ofNat]
  · rw [if_neg e, hlane, natAt_putBits_of_disjoint]
    rcases Nat.lt_or_gt_of_ne e with h | h
    · exact .inl (Nat.mul_le_mul_left w h)
    · exact .inr (Nat.mul_le_mul_left w h)

theorem toNat_foldl_add {w : Nat} (l : List (BitVec w)) (x : BitVec w) :
    (l.foldl (· + ·) x).toNat = (x.toNat + (l.map BitVec.toNat).sum) % 2 ^ w := by
  induction l generalizing x with
  | nil => simp
  | cons y l ih =>
    rw [List.foldl_cons, ih, BitVec.toNat_add, List.map_cons, List.sum_cons, Nat.mod_add_mod, Nat.add_assoc]

theorem toNat_laneSum (w : Nat) (v : VWord) :
    (laneSum w v).toNat = ((List.range (512 / w)).map (fun j => (laneOf w v j).toNat)).sum % 2 ^ w := by
  have hz : (0 : BitVec w).toNat = 0 := by simp
  rw [laneSum, lanesOf, toNat_foldl_add, List.map_map, hz, Nat.zero_add]
  rfl

/-! ## Lane-wise integer instructions (R56) -/

theorem vecFieldsOk_lanewise {oper : Nat} {rd ra rb : RegField} (ho : oper < 0x20) (hd : rd.toNat < 16) (ha : ra.toNat < 16)
    (hb : rb.toNat < 16) : vecFieldsOk oper rd ra rb = true := by
  rw [vecFieldsOk, if_neg (by omega), if_neg (by omega), if_neg (by omega), if_neg (by omega), vregOk_of_lt hd, vregOk_of_lt ha,
    vregOk_of_lt hb]
  rfl

/-- A lane-wise instruction whose operation on a lane is `g`. -/
theorem State.vecOp_result {i : Instr} {s : State} {c : CoreId} {f : Vec} {oper : Nat} {g : (w : Nat) → BitVec w → BitVec w → BitVec w}
    (hs : s.starts c) (hf : vecFieldsOk oper f.regs.rd f.regs.ra f.regs.rb = true) (hi : exec i s = .next (s.vecOp c oper f))
    (hg : ∀ w (a b : BitVec w), laneOp oper a b = g w a b) : LaneResult i c f s g := by
  refine ⟨_, hi.trans (congrArg _ ?_), fun j hj => (laneOf_mapLanes (fun x y => laneOp oper x y) _ _ j hj).trans (hg _ _ _)⟩
  rw [State.vecOp, hf, State.runInsn_starts hs]
  rfl

theorem Core.setVreg_vreg_self (k : Core) (r : RegField) : k.setVreg r (k.vreg r) = k := by
  rw [Core.setVreg, Core.vreg, Vector.set_getElem_self]

section
variable {s : State} {c : CoreId} {f : Vec}

theorem execVbcast_starts (hs : s.starts c) (hd : f.regs.rd.toNat < 16) (hb : f.regs.rb = 0) : execVbcast c f s =
    .next (s.setCore c (((s.core c).setVreg f.regs.rd (packLanes (laneBits f.width) ((List.range (512 / laneBits f.width)).map
      fun _ => ((s.core c).reg f.regs.ra).setWidth (laneBits f.width)))).retire c)) := by
  have hf : vecFieldsOk 0x20 f.regs.rd f.regs.ra f.regs.rb = true := by
    rw [vecFieldsOk, if_pos rfl, vregOk_of_lt hd, hb]
    rfl
  rw [execVbcast, hf, State.runInsn_starts hs, List.map_const', List.length_range]

theorem execVext_starts (hs : s.starts c) (ha : f.regs.ra.toNat < 16) : execVext c f s = .next (s.wrote c f.regs.rd
    (if ((s.core c).reg f.regs.rb).toNat < 512 / laneBits f.width then
      (laneOf (laneBits f.width) ((s.core c).vreg f.regs.ra) ((s.core c).reg f.regs.rb).toNat).setWidth 64 else 0)) := by
  have hf : vecFieldsOk 0x21 f.regs.rd f.regs.ra f.regs.rb = true := vregOk_of_lt ha
  rw [execVext, hf, State.writesReg_starts hs]

/-- `vins` writes rd: with the lane put in place, or as it was beyond the lanes. -/
theorem execVins_starts (hs : s.starts c) (hd : f.regs.rd.toNat < 16) : execVins c f s =
    .next (s.setCore c (((s.core c).setVreg f.regs.rd
      (if ((s.core c).reg f.regs.rb).toNat < 512 / laneBits f.width then
        putBits ((s.core c).vreg f.regs.rd) (laneBits f.width * ((s.core c).reg f.regs.rb).toNat) (laneBits f.width)
          ((s.core c).reg f.regs.ra).toNat
      else (s.core c).vreg f.regs.rd)).retire c)) := by
  have hf : vecFieldsOk 0x22 f.regs.rd f.regs.ra f.regs.rb = true := vregOk_of_lt hd
  rw [execVins, hf, State.runInsn_starts hs]
  dsimp only
  split
  · rfl
  · rw [Core.setVreg_vreg_self]

theorem execVredsum_starts (hs : s.starts c) (ha : f.regs.ra.toNat < 16) (hb : f.regs.rb = 0) : execVredsum c f s =
    .next (s.wrote c f.regs.rd ((laneSum (laneBits f.width) ((s.core c).vreg f.regs.ra)).signExtend 64)) := by
  have hf : vecFieldsOk 0x23 f.regs.rd f.regs.ra f.regs.rb = true := by
    change (vregOk f.regs.ra && f.regs.rb == 0) = true
    rw [vregOk_of_lt ha, hb]
    rfl
  rw [execVredsum, hf, State.writesReg_starts hs]

end

/-! ## Floating-point lanes (R51, R57) -/

theorem FFlags.bits_or (x y : FFlags) : BitVec.ofNat 5 (x.or y).bits = BitVec.ofNat 5 x.bits ||| BitVec.ofNat 5 y.bits := by
  obtain ⟨a, b, c, d, e⟩ := x
  obtain ⟨a', b', c', d', e'⟩ := y
  revert a b c d e a' b' c' d' e'
  decide

/-- The conditions any lane met, bit by bit. -/
theorem FFlags.bits_foldl_or {α : Type} (l : List α) (g : α → FFlags) (x : FFlags) (b : Nat) :
    (BitVec.ofNat 5 (l.foldl (fun acc r => acc.or (g r)) x).bits).getLsbD b =
      ((BitVec.ofNat 5 x.bits).getLsbD b || l.any (fun r => (BitVec.ofNat 5 (g r).bits).getLsbD b)) := by
  induction l generalizing x with
  | nil => simp
  | cons r l ih => rw [List.foldl_cons, ih, FFlags.bits_or, BitVec.getLsbD_or, List.any_cons, Bool.or_assoc]

/-- The lane widths a floating-point format has are those of its width code. -/
theorem laneFmt_width {code : BitVec 2} (h : 2 ≤ code.toNat) : (laneFmt code).width = laneBits code := by
  revert h
  revert code
  decide

theorem vecFloatFieldsOk_of_lt {op : Nat} {rd ra rb : RegField} (hop : op < 8) (hd : rd.toNat < 16) (ha : ra.toNat < 16)
    (hb : if op < 6 then rb.toNat < 16 else rb = 0) : vecFloatFieldsOk op rd ra rb = true := by
  rw [vecFloatFieldsOk, vregOk_of_lt hd, vregOk_of_lt ha]
  by_cases h : op < 6
  · rw [if_pos h] at hb
    rw [if_neg (by simp; omega), vregOk_of_lt hb]
    rfl
  · rw [if_neg h] at hb
    rw [if_pos (by simp; omega), hb]
    rfl

section
variable {s : State} {c : CoreId} {f : Vec} {op : Nat}

theorem State.vecFloatOp_illegal (hs : s.starts c) (hw : f.width.toNat < 2) :
    s.vecFloatOp c op f = s.raise c excIllegal ((wordVec 0x05 op f).setWidth 64) := by
  have hbit : bitAt f.width 1 = false := Nat.testBit_eq_false_of_lt (i := 1) hw
  rw [State.vecFloatOp, hbit, Bool.false_and, State.runInsn_illegal hs]

theorem State.vecFloatOp_starts (hs : s.starts c) (hop : op < 8) (hw : 2 ≤ f.width.toNat) (hd : f.regs.rd.toNat < 16)
    (ha : f.regs.ra.toNat < 16) (hb : if op < 6 then f.regs.rb.toNat < 16 else f.regs.rb = 0) :
    s.vecFloatOp c op f =
      let k := s.core c
      let r := vectorFloat op f.width (k.vreg f.regs.rd) (k.vreg f.regs.ra) (k.vreg f.regs.rb)
      s.setCore c (((k.raiseFlags r.2).setVreg f.regs.rd r.1).retire c) := by
  have hbit : bitAt f.width 1 = true := by
    revert hw
    generalize f.width = code
    revert code
    decide
  rw [State.vecFloatOp, hbit, vecFloatFieldsOk_of_lt hop hd ha hb, Bool.and_self, State.runInsn_starts hs]
  rfl

end

theorem laneOf_vectorFloat {op : Nat} {code : BitVec 2} (c a b : VWord) {w : Nat} (hw : (laneFmt code).width = w) (j : Nat)
    (hj : j < 512 / w) : laneOf w (vectorFloat op code c a b).1 j =
      BitVec.ofNat w (floatLane op (laneFmt code) (laneOf w c j).toNat (laneOf w a j).toNat (laneOf w b j).toNat).1 := by
  subst hw
  rw [vectorFloat]
  dsimp only
  rw [List.map_map, laneOf_packLanes_map _ j hj]
  rfl

theorem vectorFloat_flags {op : Nat} {code : BitVec 2} (c a b : VWord) {w : Nat} (hw : (laneFmt code).width = w) (n : Nat) :
    (BitVec.ofNat 5 (vectorFloat op code c a b).2.bits).getLsbD n = (List.range (512 / w)).any (fun j =>
      (BitVec.ofNat 5 (floatLane op (laneFmt code) (laneOf w c j).toNat (laneOf w a j).toNat (laneOf w b j).toNat).2.bits).getLsbD n) := by
  subst hw
  rw [vectorFloat]
  dsimp only
  rw [FFlags.bits_foldl_or, List.any_map]
  exact Bool.false_or _ ▸ (congrArg (· || _) BitVec.getLsbD_zero)

/-- Settles O9: lane by lane through `laneOf_packLanes_map`, the flags through `vectorFloat_flags`. -/
theorem vectorInstructions : Obligations.VectorInstructions := by
  unfold Obligations.VectorInstructions
  refine ⟨fun c f s hs hd ha hb => ?_, fun c f s hs k hk w n hw hn => ?_, fun c f s hs k hk i op hi => ?_⟩
  · have lanes {i : Instr} {oper : Nat} {g : (w : Nat) → BitVec w → BitVec w → BitVec w} (ho : oper < 0x20)
        (hi : exec i s = .next (s.vecOp c oper f)) (hg : ∀ w (a b : BitVec w), laneOp oper a b = g w a b) : LaneResult i c f s g :=
      State.vecOp_result hs (vecFieldsOk_lanewise ho hd ha hb) hi hg
    exact ⟨lanes (by decide) rfl fun _ _ _ => rfl, lanes (by decide) rfl fun _ _ _ => rfl, lanes (by decide) rfl fun _ _ _ => rfl,
      lanes (by decide) rfl fun _ _ _ => rfl, lanes (by decide) rfl fun _ _ _ => rfl, lanes (by decide) rfl fun _ _ _ => rfl,
      lanes (by decide) rfl fun _ => ite_slt_eq_min, lanes (by decide) rfl fun _ => ite_slt_eq_max,
      lanes (by decide) rfl fun _ => ite_lt_eq_min, lanes (by decide) rfl fun _ => ite_lt_eq_max,
      lanes (by decide) rfl fun _ _ _ => rfl, lanes (by decide) rfl fun _ _ _ => rfl,
      lanes (by decide) rfl fun _ _ _ => sshiftRight_eq_div _ _, lanes (by decide) rfl fun _ _ _ => rfl,
      lanes (by decide) rfl fun _ _ _ => if_congr BitVec.slt_iff_toInt_lt rfl rfl,
      lanes (by decide) rfl fun _ _ _ => if_congr BitVec.lt_def rfl rfl⟩
  · subst hk hw hn
    refine ⟨fun hd hb => ⟨_, execVbcast_starts hs hd hb, fun j hj => laneOf_packLanes_map _ j hj⟩, fun ha => execVext_starts hs ha,
      fun hd => ⟨_, execVins_starts hs hd, fun j hj => ?_⟩, fun ha hb => ⟨_, execVredsum_starts hs ha hb, toNat_laneSum _ _⟩⟩
    split
    next hi => rw [laneOf_putBits _ _ _ _ hi, BitVec.ofNat_toNat]
    next hi => rw [if_neg (by omega)]
  · subst hk
    obtain ⟨hexec, hop⟩ : exec i s = .next (s.vecFloatOp c op f) ∧ op < 8 := by
      simp only [List.mem_cons, Prod.mk.injEq, List.not_mem_nil, or_false] at hi
      rcases hi with ⟨rfl, rfl⟩ | ⟨rfl, rfl⟩ | ⟨rfl, rfl⟩ | ⟨rfl, rfl⟩ | ⟨rfl, rfl⟩ | ⟨rfl, rfl⟩ | ⟨rfl, rfl⟩ |
        ⟨rfl, rfl⟩ <;>
        exact ⟨rfl, by decide⟩
    refine ⟨fun hw => hexec.trans (congrArg _ (State.vecFloatOp_illegal hs hw)), fun hw hd ha hb =>
      ⟨_, _, hexec.trans (congrArg _ (State.vecFloatOp_starts hs hop hw hd ha hb)), rfl, fun w hlane =>
        ⟨laneOf_vectorFloat _ _ _ ((laneFmt_width hw).trans hlane), fun b _ => ?_⟩⟩⟩
    rw [← vectorFloat_flags _ _ _ ((laneFmt_width hw).trans hlane), Core.raiseFlags, BitVec.getLsbD_or]

end Sys2Proof.Machine

/-!
SUPPORT. CSR forms, and what a written CSR reads back (R42, R58, R66, R67).
-/

namespace Sys2Proof.Machine

/-! ## CSR forms (R58, R66, R73) -/

section
variable {s : State} {c : CoreId} {f : Sys}

/-- `csrr` of a listed CSR that the level may reach. -/
theorem State.csrOp_reads {old : Word64} (hs : s.starts c) (hold : s.csrRead c f.csr.toNat = some old)
    (hlevel : csrPriv f.csr.toNat ≤ (s.core c).priv.toNat) (fn : Nat) : s.csrOp c fn f true none = s.wrote c f.rd old := by
  rw [State.csrOp, State.runInsn_starts hs]
  dsimp only
  rw [hold]
  dsimp only
  rw [if_neg (by simp), if_neg (by omega)]
  rfl

/-- A writing form of a listed CSR that the level may reach and that is not read-only. -/
theorem State.csrOp_writes {old : Word64} (hs : s.starts c) (hold : s.csrRead c f.csr.toNat = some old)
    (hlevel : csrPriv f.csr.toNat ≤ (s.core c).priv.toNat) (hwrite : csrReadOnly f.csr.toNat = false) (fn : Nat)
    (g : Word64 → Word64 → Word64) : s.csrOp c fn f true (some g) =
      s.setCore c ((((s.core c).csrWrite f.csr.toNat (g old ((s.core c).reg f.ra))).setReg f.rd old).retire c) := by
  rw [State.csrOp, State.runInsn_starts hs]
  dsimp only
  rw [hold]
  dsimp only
  rw [if_neg (by simp [hwrite]), if_neg (by omega)]

theorem State.csrOp_unlisted (hs : s.starts c) (hnone : s.csrRead c f.csr.toNat = none) (fn : Nat) (legal : Bool)
    (new : Option (Word64 → Word64 → Word64)) :
    s.csrOp c fn f legal new = s.raise c excIllegal ((wordSys fn f).setWidth 64) := by
  cases legal with
  | false => exact State.runInsn_illegal hs _ _
  | true =>
    rw [State.csrOp, State.runInsn_starts hs]
    dsimp only
    rw [hnone]

theorem State.csrOp_readOnly (hs : s.starts c) (hsome : (s.csrRead c f.csr.toNat).isSome) (hwrite : csrReadOnly f.csr.toNat = true)
    (fn : Nat) (g : Word64 → Word64 → Word64) : s.csrOp c fn f true (some g) = s.raise c excIllegal ((wordSys fn f).setWidth 64) := by
  obtain ⟨old, hold⟩ := Option.isSome_iff_exists.1 hsome
  rw [State.csrOp, State.runInsn_starts hs]
  dsimp only
  rw [hold]
  dsimp only
  rw [if_pos (by simp [hwrite])]

theorem State.csrOp_privileged {new : Option (Word64 → Word64 → Word64)} (hs : s.starts c) (hsome : (s.csrRead c f.csr.toNat).isSome)
    (hwrite : (new.isSome && csrReadOnly f.csr.toNat) = false) (hlevel : (s.core c).priv.toNat < csrPriv f.csr.toNat) (fn : Nat) :
    s.csrOp c fn f true new = s.raise c excPrivileged ((wordSys fn f).setWidth 64) := by
  obtain ⟨old, hold⟩ := Option.isSome_iff_exists.1 hsome
  rw [State.csrOp, State.runInsn_starts hs]
  dsimp only
  rw [hold]
  dsimp only
  rw [hwrite, if_neg Bool.false_ne_true, if_pos hlevel]

theorem execCsrr_eq (hz : f.ra = 0) : execCsrr c f s = .next (s.csrOp c 0x0 f true none) := by
  rw [execCsrr, hz]
  rfl

theorem execCsrr_illegal (hs : s.starts c) (hz : f.ra ≠ 0) : execCsrr c f s = .next (s.raise c excIllegal ((wordSys 0 f).setWidth 64)) := by
  rw [execCsrr, beq_false_of_ne hz]
  exact congrArg _ (State.runInsn_illegal hs _ _)

end

/-- Settles O10: each CSR form by what `csrOp` answers. -/
theorem csrAccess : Obligations.CsrAccess := by
  unfold Obligations.CsrAccess
  refine ⟨fun c f s hs k hk old hold hlevel => ?_, fun c f s hs k hk => ?_⟩
  · subst hk
    refine ⟨fun hz => (execCsrr_eq hz).trans (congrArg _ (State.csrOp_reads hs hold hlevel 0)), fun hw => ?_⟩
    have write (fn : Nat) (g : Word64 → Word64 → Word64) : (.next (s.csrOp c fn f true (some g)) : Res) = .next (s.setCore c
        ((((s.core c).csrWrite f.csr.toNat (g old ((s.core c).reg f.ra))).setReg f.rd old).retire c)) :=
      congrArg _ (State.csrOp_writes hs hold hlevel hw fn g)
    exact ⟨write 1 _, write 2 _, write 3 _⟩
  · subst hk
    have unlisted (hnone : s.csrRead c f.csr.toNat = none) (fn : Nat) (legal : Bool) (new : Option (Word64 → Word64 → Word64)) :
        (.next (s.csrOp c fn f legal new) : Res) = .next (s.raise c excIllegal ((wordSys fn f).setWidth 64)) :=
      congrArg _ (State.csrOp_unlisted hs hnone fn legal new)
    exact ⟨fun hnone => ⟨unlisted hnone 1 _ _, unlisted hnone 2 _ _, unlisted hnone 3 _ _, unlisted hnone 0 _ _⟩, execCsrr_illegal hs,
      fun hsome hw => congrArg _ (State.csrOp_readOnly hs hsome hw 1 _), fun hsome hlevel =>
        ⟨fun hz => (execCsrr_eq hz).trans (congrArg _ (State.csrOp_privileged hs hsome rfl hlevel 0)),
         fun hw => congrArg _ (State.csrOp_privileged (new := some fun _ a => a) hs hsome hw hlevel 1)⟩⟩

/-! ## What a written CSR reads back (R42, R66, R67) -/

/-- The CSRs that a core's own registers answer, on the core a write left. -/
theorem State.csrRead_setCore (s : State) (c : CoreId) (k : Core) {n : Nat} {x : Word64}
    (h : ∀ t : State, t.core c = k → t.csrRead c n = some x) : (s.setCore c k).csrRead c n = some x :=
  h _ (State.core_setCore_self _ _ _)

theorem setReg64_getD {n : Nat} (v : Vector Word64 n) (i : Nat) (x : Word64) (h : i < n) : (setReg64 v i x).toList.getD i 0 = x := by
  rw [setReg64, dif_pos h, List.getD_eq_getElem?_getD]
  simp [h]

theorem setWidth_low_eq_and (v : Word64) (n : Nat) : (v.setWidth n).setWidth 64 = v &&& BitVec.ofNat 64 (2 ^ n - 1) := by
  refine BitVec.eq_of_getLsbD_eq fun i hi => ?_
  rw [BitVec.getLsbD_setWidth, BitVec.getLsbD_setWidth, BitVec.getLsbD_and, BitVec.getLsbD_ofNat, Nat.testBit_two_pow_sub_one,
    decide_eq_true hi, Bool.true_and, Bool.true_and, Bool.and_comm]

/-- A bit of STATUS after a write under a mask; a PREV_PRIV_M of 0b11 takes its two bits out of the mask (R67). -/
theorem getLsbD_statusWrite (old v mask : Word64) (i : Nat) (hi : i < 64) : (statusWrite old v mask).getLsbD i =
    if mask.getLsbD i && !(decide (v.extractLsb' 12 2 = 3) && (i == 12 || i == 13)) then v.getLsbD i else old.getLsbD i := by
  have hfield : natAt v 12 2 = 3 ↔ v.extractLsb' 12 2 = 3 := by
    rw [← BitVec.toNat_inj, BitVec.extractLsb'_toNat]
    rfl
  have hprev : (0x3000#64).getLsbD i = (i == 12 || i == 13) := by
    revert i
    decide
  have hmask (m : Word64) : ((old &&& ~~~m) ||| (v &&& m)).getLsbD i = if m.getLsbD i then v.getLsbD i else old.getLsbD i := by
    rw [BitVec.getLsbD_or, BitVec.getLsbD_and, BitVec.getLsbD_and, BitVec.getLsbD_not, decide_eq_true hi]
    cases m.getLsbD i <;> simp
  rw [statusWrite]
  by_cases h : v.extractLsb' 12 2 = 3
  · rw [if_pos (hfield.2 h), hmask, BitVec.getLsbD_and, BitVec.getLsbD_not, hprev, decide_eq_true hi, decide_eq_true h, Bool.true_and,
      Bool.true_and]
  · rw [if_neg (fun e => h (hfield.1 e)), hmask, decide_eq_false h, Bool.false_and, Bool.not_false, Bool.and_true]

theorem statusWrite_statusMaskS (old v : Word64) : statusWrite old v statusMaskS = (old &&& ~~~0x4A80#64) ||| (v &&& 0x4A80) := by
  rw [statusWrite]
  split <;> rfl

section
variable (old v : Word64)

theorem bitsAt_statusWrite_priv : bitsAt (statusWrite old v statusMaskM) 0 2 = bitsAt old 0 2 := by
  refine BitVec.eq_of_getLsbD_eq fun i hi => ?_
  have hmask : statusMaskM.getLsbD (0 + i) = false := by
    revert i
    decide
  rw [bitsAt, bitsAt, BitVec.getLsbD_extractLsb', BitVec.getLsbD_extractLsb', getLsbD_statusWrite _ _ _ _ (by omega), hmask]
  rfl

theorem bitAt_statusWrite_ieM : bitAt (statusWrite old v statusMaskM) 8 = v.getLsbD 8 := by
  rw [bitAt, getLsbD_statusWrite _ _ _ _ (by decide), if_pos]
  simp [statusMaskM]

theorem bitsAt_statusWrite_prevPrivM : bitsAt (statusWrite old v statusMaskM) 12 2 =
    if v.extractLsb' 12 2 = 3 then bitsAt old 12 2 else v.extractLsb' 12 2 := by
  refine BitVec.eq_of_getLsbD_eq fun i hi => ?_
  have hmask : statusMaskM.getLsbD (12 + i) = true ∧ (12 + i == 12 || 12 + i == 13) = true := by
    revert i
    decide
  rw [bitsAt, BitVec.getLsbD_extractLsb', getLsbD_statusWrite _ _ _ _ (by omega), hmask.1, hmask.2, Bool.and_true, Bool.true_and]
  by_cases h : v.extractLsb' 12 2 = 3
  · rw [if_pos h, decide_eq_true h, bitsAt, BitVec.getLsbD_extractLsb']
    rfl
  · rw [if_neg h, decide_eq_false h, BitVec.getLsbD_extractLsb', decide_eq_true hi]
    simp

end

/-- `k'` has the registers, `pc`, the halt and the tickets of `k`. -/
def Core.SameRest (k k' : Core) : Prop := k'.g = k.g ∧ k'.v = k.v ∧ k'.pc = k.pc ∧ k'.halted = k.halted ∧ k'.tickets = k.tickets

theorem Core.SameRest.ite {k a b : Core} {p : Prop} [Decidable p] (ha : k.SameRest a) (hb : k.SameRest b) : k.SameRest (if p then a else b) := by
  split
  · exact ha
  · exact hb

/-- A CSR write leaves the registers, `pc`, the halt and the tickets. -/
theorem Core.csrWrite_sameRest (k : Core) (n : Nat) (v : Word64) : k.SameRest (k.csrWrite n v) := by
  unfold Core.csrWrite
  repeat' with_reducible refine Core.SameRest.ite ?_ ?_
  all_goals exact ⟨rfl, rfl, rfl, rfl, rfl⟩

section
variable {t : State} {c : CoreId} {k : Core} {n : Nat} {v : Word64}

/-- A CSR that holds every bit reads back the value written. -/
theorem State.csrRead_whole (ht : t.core c = k.csrWrite n v)
    (hn : n ∈ [0x401, 0x402, 0x403, 0x404, 0x405, 0x801, 0x802, 0x803, 0x804, 0x805, 0x809]) : t.csrRead c n = some v := by
  simp only [List.mem_cons, List.not_mem_nil, or_false] at hn
  rw [State.csrRead, ht]
  rcases hn with rfl | rfl | rfl | rfl | rfl | rfl | rfl | rfl | rfl | rfl | rfl <;> rfl

theorem State.csrRead_bpAddr (ht : t.core c = k.csrWrite n v) (hlo : 0x820 ≤ n) (hhi : n ≤ 0x827) : t.csrRead c n = some v := by
  rw [State.csrRead, ht]
  simp (disch := omega) only [Core.csrWrite, ↓if_neg, ↓if_pos, setReg64_getD]

theorem State.csrRead_wpAddr (ht : t.core c = k.csrWrite n v) (hlo : 0x830 ≤ n) (hhi : n ≤ 0x833) : t.csrRead c n = some v := by
  rw [State.csrRead, ht]
  simp (disch := omega) only [Core.csrWrite, ↓if_neg, ↓if_pos, setReg64_getD]

theorem State.csrRead_wpMask (ht : t.core c = k.csrWrite n v) (hlo : 0x834 ≤ n) (hhi : n ≤ 0x837) : t.csrRead c n = some v := by
  rw [State.csrRead, ht]
  simp (disch := omega) only [Core.csrWrite, ↓if_neg, ↓if_pos, setReg64_getD]

theorem State.csrRead_regionU (ht : t.core c = k.csrWrite n v) (hlo : 0x410 ≤ n) (hhi : n ≤ 0x41F) :
    t.csrRead c n = some (v &&& regionMask) := by
  rw [State.csrRead, ht]
  simp (disch := omega) only [Core.csrWrite, ↓if_neg, ↓if_pos, setReg64_getD]

theorem State.csrRead_regionS (ht : t.core c = k.csrWrite n v) (hlo : 0x810 ≤ n) (hhi : n ≤ 0x81F) :
    t.csrRead c n = some (v &&& regionMask) := by
  rw [State.csrRead, ht]
  simp (disch := omega) only [Core.csrWrite, ↓if_neg, ↓if_pos, setReg64_getD]

theorem State.csrRead_fflags (ht : t.core c = k.csrWrite 0x000 v) : t.csrRead c 0x000 = some (v &&& 0x1F) := by
  rw [State.csrRead, ht]
  exact congrArg some (setWidth_low_eq_and v 5)

theorem State.csrRead_irqEn (ht : t.core c = k.csrWrite 0x807 v) : t.csrRead c 0x807 = some (v &&& 0xF) := by
  rw [State.csrRead, ht]
  exact congrArg some (setWidth_low_eq_and v 4)

theorem State.csrRead_deleg (ht : t.core c = k.csrWrite 0x806 v) : t.csrRead c 0x806 = some (v &&& delegMask) := by
  rw [State.csrRead, ht]
  rfl

end

/-- Settles O11: the branch of `csrRead` that answers a number, on the field that the branch of `csrWrite` for it wrote. -/
theorem csrReadBack : Obligations.CsrReadBack := by
  unfold Obligations.CsrReadBack
  intro c s v n
  have ht (m : Nat) : (s.setCore c ((s.core c).csrWrite m v)).core c = (s.core c).csrWrite m v := State.core_setCore_self _ _ _
  refine ⟨State.csrRead_whole (ht n), State.csrRead_bpAddr (ht n), fun hlo hhi => ?_, ?_, ?_, ?_, State.csrRead_regionU (ht n),
    State.csrRead_regionS (ht n), ?_, ?_, Core.csrWrite_sameRest _ _ _⟩
  · by_cases h : n ≤ 0x833
    · exact State.csrRead_wpAddr (ht n) hlo h
    · exact State.csrRead_wpMask (ht n) (by omega) hhi
  · rintro rfl
    exact State.csrRead_fflags (ht _)
  · rintro rfl
    exact State.csrRead_irqEn (ht _)
  · rintro rfl
    exact State.csrRead_deleg (ht _)
  · rintro rfl
    exact ⟨bitsAt_statusWrite_priv _ _, bitAt_statusWrite_ieM _ _, bitsAt_statusWrite_prevPrivM _ _⟩
  · rintro rfl
    exact statusWrite_statusMaskS _ _

end Sys2Proof.Machine

/-!
SUPPORT. Trap entry and return, debug halt, and the system instructions (R43, R44, R58, R67, R69 to R72, R76).
-/

namespace Sys2Proof.Machine

/-! ## Fields of STATUS (R67) -/

section
variable {n : Nat} (w : BitVec n)

theorem bitAt_putBits_of_outside {lo len i : Nat} (v : Nat) (hi : i < n) (h : i < lo ∨ lo + len ≤ i) :
    bitAt (putBits w lo len v) i = bitAt w i := by
  rw [bitAt, getLsbD_putField _ _ _ _ _ hi, if_neg (by omega)]
  rfl

theorem bitAt_putBit_self {i : Nat} (b : Bool) (hi : i < n) : bitAt (putBit w i b) i = b := by
  rw [bitAt, putBit, getLsbD_putField _ _ _ _ _ hi, if_pos (by omega)]
  cases b <;> simp

theorem bitAt_putBit_of_ne {i j : Nat} (b : Bool) (hi : i < n) (h : i ≠ j) : bitAt (putBit w j b) i = bitAt w i :=
  bitAt_putBits_of_outside w _ hi (by omega)

theorem bitsAt_putBits_self {lo len : Nat} (v : Nat) (h : lo + len ≤ n) : bitsAt (putBits w lo len v) lo len = BitVec.ofNat len v :=
  BitVec.eq_of_toNat_eq (by rw [bitsAt, BitVec.extractLsb'_toNat, BitVec.toNat_ofNat]; exact natAt_putBits_self w lo len v h)

theorem bitsAt_putBits_of_disjoint {lo len a k : Nat} (v : Nat) (h : a + k ≤ lo ∨ lo + len ≤ a) :
    bitsAt (putBits w lo len v) a k = bitsAt w a k :=
  BitVec.eq_of_toNat_eq (by
    rw [bitsAt, bitsAt, BitVec.extractLsb'_toNat, BitVec.extractLsb'_toNat]
    exact natAt_putBits_of_disjoint w lo len v a k h)

theorem bitsAt_putBit_of_disjoint {i a k : Nat} (b : Bool) (h : a + k ≤ i ∨ i + 1 ≤ a) : bitsAt (putBit w i b) a k = bitsAt w a k :=
  bitsAt_putBits_of_disjoint w _ h

end

/-! ## Trap entry (R69, R70) -/

/-- What a trap to M leaves of the core `k`: its trap registers and level written, its enable saved and cleared. -/
theorem Core.trapEntry_toM (k : Core) (cause val : Word64) :
    let k' := k.trapEntry true cause val
    k'.trapPcM = k.pc ∧ k'.trapCauseM = cause ∧ k'.trapValM = val ∧ k'.priv = privM ∧ k'.prevPrivM = k.priv ∧
      k'.ieM = false ∧ k'.prevIeM = k.ieM ∧ k'.inTrapM = true ∧ k'.ieS = k.ieS ∧ k'.inTrapS = k.inTrapS ∧
      k'.pc = k.trapVecM &&& ~~~3#64 ∧
      { k' with trapPcM := k.trapPcM, trapCauseM := k.trapCauseM, trapValM := k.trapValM, status := k.status, pc := k.pc
                wait := k.wait } = k := by
  refine ⟨rfl, rfl, rfl, ?_, ?_, ?_, ?_, ?_, ?_, ?_, rfl, rfl⟩
  all_goals
    simp (disch := decide) only [Core.trapEntry, if_true, Core.priv, Core.prevPrivM, Core.ieM, Core.prevIeM, Core.inTrapM, Core.ieS,
      Core.inTrapS, bitAt_putBits_of_outside, bitAt_putBit_self, bitAt_putBit_of_ne, bitsAt_putBits_self, bitsAt_putBits_of_disjoint,
      bitsAt_putBit_of_disjoint, BitVec.ofNat_toNat, BitVec.setWidth_eq]
  rfl

/-- What a trap to S leaves of the core `k`. -/
theorem Core.trapEntry_toS (k : Core) (cause val : Word64) :
    let k' := k.trapEntry false cause val
    k'.trapPcS = k.pc ∧ k'.trapCauseS = cause ∧ k'.trapValS = val ∧ k'.priv = privS ∧
      k'.prevPrivS = (k.priv.setWidth 1).setWidth 2 ∧ k'.ieS = false ∧ k'.prevIeS = k.ieS ∧ k'.inTrapS = true ∧
      k'.ieM = k.ieM ∧ k'.inTrapM = k.inTrapM ∧ k'.pc = k.trapVecS &&& ~~~3#64 ∧
      { k' with trapPcS := k.trapPcS, trapCauseS := k.trapCauseS, trapValS := k.trapValS, status := k.status, pc := k.pc
                wait := k.wait } = k := by
  refine ⟨rfl, rfl, rfl, ?_, ?_, ?_, ?_, ?_, ?_, ?_, rfl, rfl⟩
  all_goals
    simp (disch := decide) only [Core.trapEntry, Bool.false_eq_true, if_false, Core.priv, Core.prevPrivS, Core.ieM, Core.prevIeS,
      Core.inTrapM, Core.ieS, Core.inTrapS, bitAt_putBits_of_outside, bitAt_putBit_self, bitAt_putBit_of_ne, bitsAt_putBits_self,
      bitsAt_putBits_of_disjoint, bitsAt_putBit_of_disjoint, BitVec.ofNat_toNat]
  rfl

theorem Core.excToM_eq_true {k : Core} {code : Nat} (h : k.priv = privM ∨ k.deleg.getLsbD code = false) : k.excToM code = true := by
  rw [Core.excToM, bitAt]
  rcases h with h | h
  · rw [h]; rfl
  · rw [h, Bool.not_false, Bool.or_true]

theorem Core.excToM_eq_false {k : Core} {code : Nat} (hp : k.priv ≠ privM) (hd : k.deleg.getLsbD code = true) : k.excToM code = false := by
  rw [Core.excToM, bitAt, hd, beq_false_of_ne hp]
  rfl

/-! ## Debug halt (R72, R76) -/

/-- The registers that counting and tracing write: the overflow flags and the trace unit's own. -/
def logRegisters : List Nat :=
  [Reg.FLT_OVF_PEND, Reg.DBG_STAT_FROZEN.off, Reg.DBG_STAT_WPTR.off, Reg.DBG_STAT_ARMED.off, Reg.DBG_STAT_TRIGGERED.off,
   Reg.DBG_ERR_CNT_GAPS.off, Reg.DBG_TRIG_PTR_PTR.off]

/-- `t` holds in every register but those what `s` holds. -/
def RegsKept (s t : State) : Prop := ∀ off, off ∉ logRegisters → t.reg off = s.reg off

theorem RegsKept.refl (s : State) : RegsKept s s := fun _ _ => rfl

theorem RegsKept.trans {s t u : State} (h : RegsKept s t) (g : RegsKept t u) : RegsKept s u := fun off hoff => (g off hoff).trans (h off hoff)

theorem RegsKept.ite {s a b : State} {p : Prop} [Decidable p] (ha : RegsKept s a) (hb : RegsKept s b) : RegsKept s (if p then a else b) := by
  split
  · exact ha
  · exact hb

theorem RegsKept.setReg (s : State) {off : Nat} (w : Word32) (h : off ∈ logRegisters) : RegsKept s (s.setReg off w) := fun x hx => by
  rw [State.reg_setReg, if_neg]
  rintro rfl
  exact hx h

theorem RegsKept.setFld (s : State) {f : Fld} (v : Nat) (h : f.off ∈ logRegisters) : RegsKept s (s.setFld f v) := RegsKept.setReg s _ h

theorem RegsKept.setFlag (s : State) {f : Fld} (b : Bool) (h : f.off ∈ logRegisters) : RegsKept s (s.setFlag f b) := RegsKept.setFld s _ h

theorem RegsKept.errAdd (s : State) {f : Fld} (k : Nat) (h : f.off ∈ logRegisters) : RegsKept s (s.errAdd f k) := RegsKept.setFld s _ h

theorem RegsKept.setCore (s : State) (c : CoreId) (k : Core) : RegsKept s (s.setCore c k) := RegsKept.refl s

theorem RegsKept.setTrace (s : State) (x : Trace) : RegsKept s { s with trace := x } := RegsKept.refl s

theorem RegsKept.flag {s t : State} (h : RegsKept s t) {f : Fld} (hf : f.off ∉ logRegisters) : t.flag f = s.flag f := by
  rw [State.flag, h _ hf]
  rfl

theorem State.countQuiet_regsKept (s : State) (u k n : Nat) : RegsKept s (s.countQuiet u k n).1 := by
  unfold State.countQuiet
  extract_lets c sum wrapped s1 s2
  have h1 : RegsKept s s1 := RegsKept.refl s
  have h2 : RegsKept s1 s2 := RegsKept.setReg s1 _ (by decide)
  split
  · split
    · exact h1.trans h2
    · exact h1.trans h2
  · exact h1

theorem State.traceOverwrite_regsKept (s : State) (w : Nat) : RegsKept s (s.traceOverwrite w) := by
  unfold State.traceOverwrite
  extract_lets tr g
  refine RegsKept.ite (RegsKept.refl s) (RegsKept.ite ?_ (RegsKept.refl s))
  exact (RegsKept.setTrace s _).trans (State.countQuiet_regsKept _ _ _ _)

theorem State.traceStore_regsKept (s : State) (r : TraceRec) : RegsKept s (s.traceStore r) := by
  unfold State.traceStore
  refine RegsKept.ite ?_ (RegsKept.ite ?_ (RegsKept.refl s))
  · extract_lets src s1
    have h1 : RegsKept s s1 := RegsKept.setTrace s _
    exact h1.trans (State.countQuiet_regsKept s1 _ _ _)
  · extract_lets w left s1 src s2 s3 s4
    have h1 : RegsKept s s1 := s.traceOverwrite_regsKept w
    have h2 : RegsKept s s2 := h1.trans (RegsKept.setTrace s1 _)
    have h4 : RegsKept s2 s4 := (RegsKept.setFld s2 _ (by decide)).trans (State.countQuiet_regsKept _ _ _ _)
    exact RegsKept.ite ((h2.trans h4).trans (RegsKept.setFlag s4 _ (by decide))) (h2.trans h4)

theorem State.traceWrite_regsKept (s : State) (r : TraceRec) : RegsKept s (s.traceWrite r) := by
  unfold State.traceWrite
  refine RegsKept.trans ?_ (State.traceStore_regsKept _ _)
  split
  · exact RegsKept.refl s
  · exact ((RegsKept.setTrace s _).trans (RegsKept.errAdd _ _ (by decide))).trans (State.traceStore_regsKept _ _)

theorem State.emit_regsKept (s : State) (typ polder : Nat) (info : Word32) (data : BitVec 128) : RegsKept s (s.emit typ polder info data) := by
  unfold State.emit
  exact RegsKept.ite (State.traceWrite_regsKept _ _) (RegsKept.refl s)

theorem State.trigger_regsKept (s : State) (src : Nat) : RegsKept s (s.trigger src) := by
  unfold State.trigger
  refine RegsKept.ite ?_ (RegsKept.refl s)
  extract_lets pre s1 s2 src3 s3 s4
  have h1 : RegsKept s s1 := (RegsKept.setFlag s _ (by decide)).trans (RegsKept.setFlag _ _ (by decide))
  have h2 : RegsKept s1 s2 := RegsKept.setFld s1 _ (by decide)
  have h3 : RegsKept s2 s3 := RegsKept.setTrace s2 _
  have h4 : RegsKept s3 s4 := State.traceWrite_regsKept s3 _
  exact (((h1.trans h2).trans h3).trans h4).trans (State.countQuiet_regsKept s4 _ _ _)

/-- A core in debug halt (R75, R79). -/
def Core.halt (k : Core) (cause : Nat) : Core := { k with halted := true, haltCause := BitVec.ofNat 4 cause, wait := none }

/-- One core halts; beside that the trace records it. -/
theorem State.haltOne_onlyLogs (s : State) (c : CoreId) (cause : Nat) :
    OnlyLogs (s.setCore c ((s.core c).halt cause)) (s.haltOne c cause) := by
  rw [State.haltOne]
  exact (State.emit_onlyLogs (s.setCore c ((s.core c).halt cause)) _ _ _ _).trans (State.trigger_onlyLogs _ _)

theorem State.haltOne_regsKept (s : State) (c : CoreId) (cause : Nat) : RegsKept s (s.haltOne c cause) := by
  rw [State.haltOne]
  exact ((RegsKept.setCore s c ((s.core c).halt cause)).trans (State.emit_regsKept _ _ _ _ _)).trans (State.trigger_regsKept _ _)

/-- With HALT_ALL clear only the core itself enters debug halt (R76). -/
theorem State.enterHalt_onlyLogs {s : State} (h : s.flag Reg.CC_DBG_GLOBAL_HALT_ALL = false) (c : CoreId) (cause : Nat) :
    OnlyLogs (s.setCore c ((s.core c).halt cause)) (s.enterHalt c cause) := by
  have hflag : (s.haltOne c cause).flag Reg.CC_DBG_GLOBAL_HALT_ALL = false :=
    ((s.haltOne_regsKept c cause).flag (by decide)).trans h
  rw [State.enterHalt]
  rw [hflag, if_neg Bool.false_ne_true]
  exact s.haltOne_onlyLogs c cause

/-- Settles O12: `trapEntry_toM` and `trapEntry_toS` after `raise_taken`, and the double trap by `enterHalt_onlyLogs`. -/
theorem exceptionEntry : Obligations.ExceptionEntry := by
  unfold Obligations.ExceptionEntry
  refine ⟨fun c code val s t k k' hk ht hk' hdouble hrecipe => ?_, fun c code val s k hk hpriv htrap hall => ?_⟩
  · subst hk ht hk'
    have htrap : (s.core c).priv = privM → (s.core c).inTrapM = false := fun h => Bool.eq_false_iff.2 fun e => hdouble ⟨h, e⟩
    rw [s.raise_taken c code val htrap hrecipe, State.core_setCore_self]
    refine ⟨fun h => ?_, fun hp hd => ?_, fun d hd => s.core_setCore_of_ne _ hd, s.setCore_onlyCores c _⟩
    · rw [Core.excToM_eq_true h]
      exact Core.trapEntry_toM _ _ _
    · rw [Core.excToM_eq_false hp hd]
      exact Core.trapEntry_toS _ _ _
  · subst hk
    have hraise : s.raise c code val = (s.enterHalt c 5).logFault 0x10 polPC c.val 0 := by
      rw [State.raise]
      exact if_pos (by rw [hpriv, htrap]; rfl)
    have hlogs := (State.enterHalt_onlyLogs hall c 5).trans ((s.enterHalt c 5).logFault_onlyLogs 0x10 polPC c.val 0)
    refine ⟨_, hraise, (hlogs.core c).trans (State.core_setCore_self _ _ _), fun d hd => (hlogs.core d).trans (s.core_setCore_of_ne _ hd),
      hlogs.dram, hlogs.gtc, rfl⟩

/-! ## System instructions (R43, R44, R58, R71) -/

section
variable {s : State} {c : CoreId} {f : Sys}

theorem sysPlain_of_zero (hd : f.rd = 0) (ha : f.ra = 0) (hc : f.csr = 0) : sysPlain f = true := by
  rw [sysPlain, hd, ha, hc]
  rfl

theorem sysPlain_of_nonzero (h : f.rd ≠ 0 ∨ f.ra ≠ 0 ∨ f.csr ≠ 0) : sysPlain f = false := by
  rw [sysPlain]
  rcases h with h | h | h
  · rw [beq_false_of_ne h]; rfl
  · rw [beq_false_of_ne h, Bool.and_false]; rfl
  · rw [beq_false_of_ne h, Bool.and_false]

/-- At U on a core of no recipe `svc` is SVC_U alone: the supervisor has no part to end. -/
theorem execSvc_atU (hs : s.starts c) (hf : sysPlain f = true) (hp : (s.core c).priv = privU) (hr : s.recipeOf c = none) :
    execSvc c f s = .next (s.raise c excSvcU 0) := by
  have htaken : s.raise c excSvcU 0 = s.setCore c ((s.core c).trapEntry ((s.core c).excToM excSvcU) (BitVec.ofNat 64 excSvcU) 0) :=
    s.raise_taken c excSvcU 0 (fun h => absurd (hp.symm.trans h) (by decide)) (.inr rfl)
  have hnone : (s.raise c excSvcU 0).recipeOf c = none := by rw [htaken]; exact hr
  rw [execSvc, hf, State.runInsn_starts hs]
  dsimp only
  rw [if_pos hp, if_pos hp, State.coreEnds, State.coreFails, hnone]
  exact congrArg _ (ite_self _)

theorem execSvc_above (hs : s.starts c) (hf : sysPlain f = true) (hp : (s.core c).priv ≠ privU) :
    execSvc c f s = .next (s.raise c (if (s.core c).priv = privS then excSvcS else excSvcM) 0) := by
  rw [execSvc, hf, State.runInsn_starts hs]
  dsimp only
  rw [if_neg hp, if_neg hp]

theorem execTret_above (hs : s.starts c) (hf : sysPlain f = true) (hp : (s.core c).priv ≠ privU) :
    execTret c f s = .next (s.setCore c ((s.core c).trapReturn c)) := by
  rw [execTret, hf, State.runInsn_starts hs]
  dsimp only
  rw [if_neg hp]

theorem execTret_atU (hs : s.starts c) (hf : sysPlain f = true) (hp : (s.core c).priv = privU) :
    execTret c f s = .next (s.raise c excPrivileged ((wordSys 0xA f).setWidth 64)) := by
  rw [execTret, hf, State.runInsn_starts hs]
  dsimp only
  rw [if_pos hp]

theorem execIdle_above (hs : s.starts c) (hf : sysPlain f = true) (hp : (s.core c).priv ≠ privU) : execIdle c f s =
    .next (if s.wakeReady c then s.setCore c ((s.core c).retire c) else s.setCore c { s.core c with wait := some .idle }) := by
  rw [execIdle, hf, State.runInsn_starts hs]
  dsimp only
  rw [if_neg hp]

theorem execIdle_atU (hs : s.starts c) (hf : sysPlain f = true) (hp : (s.core c).priv = privU) :
    execIdle c f s = .next (s.raise c excPrivileged ((wordSys 0xB f).setWidth 64)) := by
  rw [execIdle, hf, State.runInsn_starts hs]
  dsimp only
  rw [if_pos hp]

end

/-- Settles O13: each system instruction by its body, and ILLEGAL by `sysPlain_of_nonzero`. -/
theorem systemInstructions : Obligations.SystemInstructions := by
  unfold Obligations.SystemInstructions
  intro c f s hs k hk
  subst hk
  refine ⟨fun hd ha hc => ?_, fun h => ?_⟩
  · have hf := sysPlain_of_zero hd ha hc
    have plain (word : Word32) (body : State → State) : (.next (s.runInsn c word (sysPlain f) body) : Res) = .next (body s) := by
      rw [hf, State.runInsn_starts hs]
    refine ⟨plain _ _, plain _ _, plain _ _, execSvc_atU hs hf, fun hp => ?_, fun hp => ?_, execTret_above hs hf, fun hp hw => ?_,
      fun hp hw => ?_, fun hp => ⟨execTret_atU hs hf hp, execIdle_atU hs hf hp⟩⟩
    · exact (execSvc_above hs hf (by rw [hp]; decide)).trans (by rw [if_pos hp])
    · exact (execSvc_above hs hf (by rw [hp]; decide)).trans (by rw [if_neg (by rw [hp]; decide)])
    · exact (execIdle_above hs hf hp).trans (by rw [State.wakeReady, if_pos (bne_iff_ne.2 hw)])
    · exact (execIdle_above hs hf hp).trans (by rw [State.wakeReady, if_neg (by rw [hw]; decide)])
  · have illegal (word : Word32) (body : State → State) :
        (.next (s.runInsn c word (sysPlain f) body) : Res) = .next (s.raise c excIllegal (word.setWidth 64)) := by
      rw [sysPlain_of_nonzero h, State.runInsn_illegal hs]
    exact ⟨illegal _ _, illegal _ _, illegal _ _, illegal _ _, illegal _ _, illegal _ _⟩

/-! ## Trap return (R71) -/

/-- What a return at M leaves. -/
theorem Core.trapReturn_atM {k : Core} (c : CoreId) (h : k.priv = privM) :
    (k.trapReturn c).ieM = k.prevIeM ∧ (k.trapReturn c).inTrapM = false ∧ (k.trapReturn c).pc = k.trapPcM &&& ~~~3#64 ∧
      (k.trapReturn c).priv = (if k.prevPrivM = 3 then privM else k.prevPrivM) ∧ (k.trapReturn c).ieS = k.ieS ∧
      (k.trapReturn c).inTrapS = k.inTrapS := by
  rw [Core.trapReturn, if_pos h]
  refine ⟨?_, ?_, rfl, ?_, ?_, ?_⟩
  all_goals
    simp (disch := decide) only [Core.priv, Core.ieM, Core.inTrapM, Core.ieS, Core.inTrapS, bitAt_putBits_of_outside, bitAt_putBit_self,
      bitAt_putBit_of_ne, bitsAt_putBits_self, bitsAt_putBit_of_disjoint, BitVec.ofNat_toNat, BitVec.setWidth_eq]

/-- What a return at S leaves. -/
theorem Core.trapReturn_atS {k : Core} (c : CoreId) (h : k.priv ≠ privM) :
    (k.trapReturn c).ieS = k.prevIeS ∧ (k.trapReturn c).inTrapS = false ∧ (k.trapReturn c).pc = k.trapPcS &&& ~~~3#64 ∧
      (k.trapReturn c).priv = k.prevPrivS ∧ (k.trapReturn c).ieM = k.ieM ∧ (k.trapReturn c).inTrapM = k.inTrapM := by
  rw [Core.trapReturn, if_neg h]
  refine ⟨?_, ?_, rfl, ?_, ?_, ?_⟩
  all_goals
    simp (disch := decide) only [Core.priv, Core.ieM, Core.inTrapM, Core.ieS, Core.inTrapS, bitAt_putBits_of_outside, bitAt_putBit_self,
      bitAt_putBit_of_ne, bitsAt_putBits_self, bitsAt_putBit_of_disjoint, BitVec.ofNat_toNat, BitVec.setWidth_eq]

theorem Core.trapReturn_frame (k : Core) (c : CoreId) :
    { k.trapReturn c with status := k.status, pc := k.pc, instret := k.instret, cycle := k.cycle, wait := k.wait } = k ∧
      (k.trapReturn c).instret = k.instret + 1 := by
  rw [Core.trapReturn]
  split <;> exact ⟨rfl, rfl⟩

theorem Core.prevPrivS_le (k : Core) : k.prevPrivS.toNat ≤ 1 := by
  rw [Core.prevPrivS]
  generalize bitsAt k.status 11 1 = b
  revert b
  decide

/-- Settles O14: `trapReturn` at each level. -/
theorem trapReturn : Obligations.TrapReturn := by
  unfold Obligations.TrapReturn
  intro c f s k hs hk hd ha hc hp
  subst hk
  refine ⟨_, execTret_above hs (sysPlain_of_zero hd ha hc) hp, fun h => ?_, fun h => ?_, Core.trapReturn_frame _ _⟩
  · obtain ⟨hie, htrap, hpc, hpriv, hieS, htrapS⟩ := Core.trapReturn_atM c h
    exact ⟨hie, htrap, hpc, fun h3 => by rw [hpriv, if_neg h3], fun h3 => by rw [hpriv, if_pos h3], hieS, htrapS⟩
  · obtain ⟨hie, htrap, hpc, hpriv, hieM, htrapM⟩ := Core.trapReturn_atS c h
    exact ⟨hie, htrap, hpc, hpriv, hpriv ▸ Core.prevPrivS_le _, hieM, htrapM⟩

end Sys2Proof.Machine

/-!
SUPPORT. Interrupts, waits and the control of cores, and the state after reset (R58, R62 to R66, R70, R73, R76, R79, R81).
-/

namespace Sys2Proof.Machine

/-! ## Interrupts and waits (R58, R62, R64, R66, R70, R73) -/

theorem State.irqPend_timer (s : State) (c : CoreId) : (s.irqPend c).getLsbD 1 = decide ((s.core c).gtcCmp ≤ s.gtc) := by
  rw [State.irqPend]
  generalize (s.core c).swi = a, decide ((s.core c).gtcCmp ≤ s.gtc) = b, (!(s.core c).tki.isEmpty || (s.core c).tkiOvf) = d,
    ((c.val == 0 && !s.letters.isEmpty) || (c.val == 1 && !s.letters1.isEmpty)) = e
  revert a b d e
  decide

/-- TIMER_INTERRUPT moves the GTC up to `GTC_CMP` where it is below, and nothing else. -/
theorem execTimerInterrupt_spec (c : CoreId) (s : State) : ∃ t, execTimerInterrupt c s = .next t ∧ (s.core c).gtcCmp ≤ t.gtc ∧
    ((s.core c).gtcCmp ≤ s.gtc → t = s) ∧ { t with gtc := s.gtc } = s ∧ (t.irqPend c).getLsbD 1 = true := by
  refine ⟨_, rfl, ?_⟩
  split
  next h =>
    exact ⟨BitVec.le_refl _, fun hle => absurd h (BitVec.not_lt.2 hle), rfl,
      (State.irqPend_timer _ c).trans (decide_eq_true (BitVec.le_refl (s.core c).gtcCmp))⟩
  next h =>
    have hle : (s.core c).gtcCmp ≤ s.gtc := BitVec.not_lt.1 h
    exact ⟨hle, fun _ => rfl, rfl, (State.irqPend_timer s c).trans (decide_eq_true hle)⟩

/-- The first that meets a condition in the order 3, 2, 1, 0 is the highest below 4 that meets it. -/
theorem find?_highest {p : Nat → Bool} {n : Nat} (h : [3, 2, 1, 0].find? p = some n) :
    n < 4 ∧ p n = true ∧ ∀ m, n < m → m < 4 → p m = false := by
  obtain ⟨hp, as, bs, hsplit, hbefore⟩ := List.find?_eq_some_iff_append.1 h
  have hbelow (m : Nat) : m ∈ [3, 2, 1, 0] ↔ m < 4 := by
    simp only [List.mem_cons, List.not_mem_nil, or_false]
    omega
  refine ⟨(hbelow n).1 (List.mem_of_find?_eq_some h), hp, fun m hnm hm => ?_⟩
  have hm4 : m ∈ as ++ n :: bs := hsplit ▸ (hbelow m).2 hm
  have hsorted : (as ++ n :: bs).Pairwise (· > ·) := hsplit ▸ (by decide)
  rcases List.mem_append.1 hm4 with ha | hb
  · exact (Bool.not_eq_true' _).mp (hbefore m ha)
  · rcases List.mem_cons.1 hb with rfl | hb
    · exact absurd hnm (lt_irrefl m)
    · have := List.rel_of_pairwise_cons (List.pairwise_append.1 hsorted).2.1 hb
      omega

/-- The interrupt that is ready is the highest pending, enabled and admitted one (R73). -/
theorem State.irqReady_some {s : State} {c : CoreId} {n : Nat} (h : s.irqReady c = some n) :
    n < 4 ∧ (s.irqPend c).getLsbD n = true ∧ (s.core c).irqEn.getLsbD n = true ∧
      ∀ m, n < m → m < 4 → (s.irqPend c).getLsbD m = true → (s.core c).irqEn.getLsbD m = true → (s.core c).irqAdmitted m = false := by
  rw [State.irqReady] at h
  obtain ⟨hn, hready, hhigher⟩ := find?_highest h
  simp only [Bool.and_eq_true] at hready
  refine ⟨hn, hready.1.1, hready.1.2, fun m hm hm4 hpend hen => ?_⟩
  have hnot := hhigher m hm hm4
  rwa [bitAt, bitAt, hpend, hen, Bool.true_and, Bool.true_and] at hnot

theorem Core.trapEntry_wait (k : Core) (toM : Bool) (cause val : Word64) : (k.trapEntry toM cause val).wait = none := by
  cases toM <;> rfl

theorem Core.trapEntry_g (k : Core) (toM : Bool) (cause val : Word64) : (k.trapEntry toM cause val).g = k.g := by
  cases toM <;> rfl

theorem execTakeInterrupt_waits {s : State} {c : CoreId} {n : Nat} (hw : s.waits c = true) (hidle : (s.core c).wait ≠ some .idle)
    (hn : s.irqReady c = some n) : execTakeInterrupt c s =
      .next (s.setCore c ((s.core c).trapEntry ((s.core c).irqToM n) (BitVec.ofNat 64 (2 ^ 63 + n)) 0)) := by
  rw [execTakeInterrupt, if_pos hw, hn]
  dsimp only
  rw [State.takeInterrupt, if_neg hidle]

/-- Settles O15: the timer by `execTimerInterrupt_spec`, the taken interrupt by `irqReady_some` and the trap entry, the rest by their
conditions. -/
theorem coreEvents : Obligations.CoreEvents := by
  unfold Obligations.CoreEvents
  intro c s k hk
  subst hk
  refine ⟨execTimerInterrupt_spec c s, fun hw hidle n hn => ?_, fun hw hwait hwake => ?_, fun rd tk age st hw hwait hage hst => ?_,
    fun m hw hwait hout => ?_⟩
  · obtain ⟨hn4, hpend, hen, hhigher⟩ := State.irqReady_some hn
    refine ⟨_, execTakeInterrupt_waits hw hidle hn, hn4, hpend, hen, hhigher, ?_⟩
    rw [State.core_setCore_self]
    refine ⟨fun hM => ?_, fun hS => ?_, Core.trapEntry_wait _ _ _ _, Core.trapEntry_g _ _ _ _, fun d hd => s.core_setCore_of_ne _ hd,
      s.setCore_onlyCores c _⟩
    · rw [hM]
      obtain ⟨hpc, hcause, -, hpriv, -, -, -, -, -, -, hvec, -⟩ := (s.core c).trapEntry_toM (BitVec.ofNat 64 (2 ^ 63 + n)) 0
      exact ⟨hpc, hcause, hvec, hpriv⟩
    · rw [hS]
      obtain ⟨hpc, hcause, -, hpriv, -, -, -, -, -, -, hvec, -⟩ := (s.core c).trapEntry_toS (BitVec.ofNat 64 (2 ^ 63 + n)) 0
      exact ⟨hpc, hcause, hvec, hpriv⟩
  · refine congrArg _ (if_pos ?_)
    rw [hw, hwait, State.wakeReady, bne_iff_ne.2 hwake]
    rfl
  · change execWtcReturn c s = _
    rw [execWtcReturn, hwait]
    dsimp only
    rw [hage, Option.bind_some, hst]
    dsimp only
    rw [if_pos hw]
    rfl
  · change execFncReturn c s = _
    rw [execFncReturn, hwait]
    dsimp only
    rw [hw, hout]
    rfl

/-! ## Control of cores (R76, R79, R81) -/

theorem State.requestHalt_running {s : State} {c : CoreId} (hr : s.outOfReset c = true) (hh : (s.core c).halted = false) :
    s.requestHalt c = s.enterHalt c 1 := by
  rw [State.requestHalt, hr, hh]
  rfl

theorem State.requestHalt_halted {s : State} {c : CoreId} (hh : (s.core c).halted = true) : s.requestHalt c = s := by
  rw [State.requestHalt, hh, Bool.not_true, Bool.and_false]
  rfl

theorem State.leaveHalt_halted {s : State} {c : CoreId} (hh : (s.core c).halted = true) :
    OnlyLogs (s.setCore c { s.core c with halted := false, haltCause := 0 }) (s.leaveHalt c) := by
  rw [State.leaveHalt]
  dsimp only
  rw [if_pos hh]
  exact State.emit_onlyLogs _ _ _ _ _

theorem State.leaveHalt_running {s : State} {c : CoreId} (hh : (s.core c).halted = false) : s.leaveHalt c = s := by
  rw [State.leaveHalt, hh]
  rfl

/-- Each core of a list updated once: those in it are, the others are as they were, and nothing but cores changes. -/
theorem State.foldl_setCore (g : CoreId → Core → Core) (l : List CoreId) (hl : l.Nodup) (s : State) :
    OnlyCores s (l.foldl (fun t c => t.setCore c (g c (t.core c))) s) ∧
      ∀ d, (l.foldl (fun t c => t.setCore c (g c (t.core c))) s).core d = if d ∈ l then g d (s.core d) else s.core d := by
  induction l generalizing s with
  | nil => exact ⟨rfl, fun d => (if_neg List.not_mem_nil).symm⟩
  | cons c l ih =>
    obtain ⟨hc, hl⟩ := List.nodup_cons.1 hl
    obtain ⟨honly, hcores⟩ := ih hl (s.setCore c (g c (s.core c)))
    refine ⟨?_, fun d => ?_⟩
    · have := congrArg (fun t : State => { t with cores := s.cores }) honly
      exact this
    · rw [List.foldl_cons, hcores, State.core_setCore]
      by_cases e : d = c
      · subst e
        rw [if_neg hc, if_pos rfl, if_pos List.mem_cons_self]
      · rw [if_neg e]
        simp only [List.mem_cons, e, false_or]

theorem State.writeSwi_spec (s : State) (set clear : BitVec 16) : OnlyCores s (s.writeSwi set clear) ∧
    ∀ d, (s.writeSwi set clear).core d =
      { s.core d with swi := bitAt set d.val || ((s.core d).swi && !bitAt clear d.val) } := by
  obtain ⟨honly, hcores⟩ := State.foldl_setCore (fun c k => { k with swi := bitAt set c.val || (k.swi && !bitAt clear c.val) })
    (List.finRange 16) (List.nodup_finRange 16) s
  exact ⟨honly, fun d => (hcores d).trans (if_pos (List.mem_finRange d))⟩

/-- Settles O17: halts and resumes by what halting leaves, the software interrupts by `writeSwi_spec`. -/
theorem coreControl : Obligations.CoreControl := by
  unfold Obligations.CoreControl
  intro w s hw
  have write (f : State → State) : (.next (if s.mayWrite w then f s else s) : Res) = .next (f s) := congrArg _ (if_pos hw)
  refine ⟨fun c hr hh hall => ?_, fun c hh => ⟨?_, ?_⟩, fun c hh => ?_, fun m => ?_, fun m => ?_, rfl, rfl⟩
  · have hlogs := State.enterHalt_onlyLogs hall c 1
    exact ⟨_, (write (·.requestHalt c)).trans (congrArg _ (State.requestHalt_running hr hh)),
      (hlogs.core c).trans (State.core_setCore_self _ _ _), fun d hd => (hlogs.core d).trans (s.core_setCore_of_ne _ hd), hlogs.dram, hlogs.rings⟩
  · exact (write (·.requestHalt c)).trans (congrArg _ (State.requestHalt_halted hh))
  · have hlogs := State.leaveHalt_halted hh
    exact ⟨_, write (·.leaveHalt c), (hlogs.core c).trans (State.core_setCore_self _ _ _),
      fun d hd => (hlogs.core d).trans (s.core_setCore_of_ne _ hd), hlogs.dram, hlogs.rings⟩
  · exact (write (·.leaveHalt c)).trans (congrArg _ (State.leaveHalt_running hh))
  · obtain ⟨honly, hcores⟩ := s.writeSwi_spec m 0
    refine ⟨_, write (·.writeSwi m 0), honly, fun d => (hcores d).trans ?_⟩
    simp [bitAt]
  · obtain ⟨honly, hcores⟩ := s.writeSwi_spec 0 m
    refine ⟨_, write (·.writeSwi 0 m), honly, fun d => (hcores d).trans ?_⟩
    simp [bitAt]

/-! ## After reset (R36, R37, R66, R67, R489) -/

theorem State.reset_core (c : CoreId) : State.reset.core c = Core.reset := by
  simp [State.core, State.reset]

theorem Core.reset_reg (r : RegField) : Core.reset.reg r = 0 := by
  simp [Core.reg, Core.reset]

theorem Core.reset_vreg (r : RegField) : Core.reset.vreg r = 0 := by
  simp [Core.vreg, Core.reset]

/-- Settles O58: every core of reset is `Core.reset`, and the registers are evaluated. -/
theorem afterReset : Obligations.AfterReset := by
  unfold Obligations.AfterReset
  refine ⟨fun c k hk => ?_, by decide +kernel, by decide +kernel, rfl, by decide +kernel, by decide +kernel, by decide +kernel,
    by decide +kernel, by decide +kernel, by decide +kernel, by decide +kernel, by decide +kernel, by decide +kernel, by decide +kernel,
    by decide +kernel, rfl, rfl, rfl, rfl, rfl, State.reset_memWf, fun c => ?_⟩
  · obtain rfl : k = Core.reset := hk.elim (fun e => e.trans (State.reset_core c)) id
    exact ⟨by decide, by decide, by decide, by decide, rfl, rfl, fun r => ⟨Core.reset_reg r, Core.reset_vreg r⟩, rfl, rfl, rfl, rfl, rfl,
      rfl, rfl, rfl, rfl, rfl, rfl, rfl, rfl, rfl, rfl, rfl, rfl, rfl, rfl, rfl, rfl⟩
  · rw [State.reset_core]
    exact statusLegal_reset

end Sys2Proof.Machine

/-!
SUPPORT. Ticket instructions and submissions (R59, R60, R62, R64, R65, R84 to R86).
-/

namespace Sys2Proof.Machine

/-! ## Ticket instructions (R62, R64, R65) -/

section
variable {s : State} {c : CoreId} {f : St}

theorem State.starts_canRun (h : s.starts c) : s.canRun c = true := by
  cases hr : s.canRun c with
  | true => rfl
  | false =>
    have hstays : s.issue c = .stays := by rw [State.issue, hr]; rfl
    exact nomatch hstays.symm.trans h

theorem State.starts_halted (h : s.starts c) : (s.core c).halted = false := by
  have hr := State.starts_canRun h
  simp only [State.canRun, Bool.and_eq_true, Bool.not_eq_true'] at hr
  exact hr.1.1.2

theorem Core.ticketResult_forgotten (k : Core) {age : Nat} (h : 4096 ≤ age) : k.ticketResult age = some 0x100 := if_pos h

theorem Core.ticketResult_entry (k : Core) {age : Nat} {e : TicketEntry} (h : age < 4096) (he : k.tickets[age]? = some e) :
    k.ticketResult age = e.status.map (fun st => st.setWidth 64) := by
  rw [Core.ticketResult, if_neg (by omega), he]

section
variable (hs : s.starts c) (hcls : f.cls = 0) (hring : f.ring = 0)
include hs hcls hring

theorem execWtc_notIssued (h : (s.core c).ticketIn f.ra = none) :
    execWtc c f s = .next (s.raise c excIllegalTicket ((s.core c).reg f.ra)) := by
  rw [execWtc, hcls, hring, beq_self_eq_true, beq_self_eq_true, Bool.and_self, State.runInsn_starts hs]
  dsimp only
  rw [h]

theorem execWtc_result {age : Nat} {v : Word64} (h : (s.core c).ticketIn f.ra = some age) (hv : (s.core c).ticketResult age = some v) :
    execWtc c f s = .next (s.wrote c f.rd v) := by
  rw [execWtc, hcls, hring, beq_self_eq_true, beq_self_eq_true, Bool.and_self, State.runInsn_starts hs]
  dsimp only
  rw [h]
  dsimp only
  rw [hv]
  rfl

theorem execWtc_waits {age : Nat} (h : (s.core c).ticketIn f.ra = some age) (hv : (s.core c).ticketResult age = none) :
    execWtc c f s = .next (s.setCore c { s.core c with wait := some (.ticket f.rd (((s.core c).reg f.ra).setWidth 32)) }) := by
  rw [execWtc, hcls, hring, beq_self_eq_true, beq_self_eq_true, Bool.and_self, State.runInsn_starts hs]
  dsimp only
  rw [h]
  dsimp only
  rw [hv]

theorem execTkp_notIssued (h : (s.core c).ticketIn f.ra = none) :
    execTkp c f s = .next (s.raise c excIllegalTicket ((s.core c).reg f.ra)) := by
  rw [execTkp, hcls, hring, beq_self_eq_true, beq_self_eq_true, Bool.and_self, State.runInsn_starts hs]
  dsimp only
  rw [h]

theorem execTkp_result {age : Nat} (h : (s.core c).ticketIn f.ra = some age) :
    execTkp c f s = .next (s.wrote c f.rd (((s.core c).ticketResult age).getD 0x200)) := by
  rw [execTkp, hcls, hring, beq_self_eq_true, beq_self_eq_true, Bool.and_self, State.runInsn_starts hs]
  dsimp only
  rw [h]
  rfl

theorem execFnc_starts (hd : f.rd = 0) : execFnc c f s = .next
    (if (s.core c).outstanding (((s.core c).reg f.ra).setWidth 16) then
      s.setCore c { s.core c with wait := some (.fence (((s.core c).reg f.ra).setWidth 16)) }
     else s.setCore c ((s.core c).retire c)) := by
  rw [execFnc, hcls, hring, hd, beq_self_eq_true, beq_self_eq_true, beq_self_eq_true, Bool.and_self, Bool.and_self, State.runInsn_starts hs]

theorem execGtc_starts (ha : f.ra = 0) : execGtc c f s = .next (s.wrote c f.rd s.gtc) := by
  rw [execGtc, hcls, hring, ha, beq_self_eq_true, beq_self_eq_true, beq_self_eq_true, Bool.and_self, Bool.and_self, State.runInsn_starts hs]
  rfl

end
end

/-! ## Submission (R59, R60, R84 to R86) -/

/-- The descriptor a ring's slot takes: the 64 bytes read with the ticket in bytes 4 to 7. -/
def submitted (d : List Byte) (t : Ticket) : List Byte := sliceOf 0 4 d ++ leBytes 4 t.toNat ++ d.drop 8

theorem submitted_length {d : List Byte} (h : d.length = 64) (t : Ticket) : (submitted d t).length = 64 := by
  rw [submitted, List.length_append, List.length_append, leBytes_length, sliceOf, List.length_take, List.length_drop, List.length_drop, h]
  rfl

theorem submitted_byte {d : List Byte} (h : d.length = 64) (t : Ticket) (i : Nat) :
    (submitted d t).getD i 0 = if 4 ≤ i ∧ i < 8 then t.extractLsb' (8 * (i - 4)) 8 else d.getD i 0 := by
  have hhead : (sliceOf 0 4 d).length = 4 := by rw [sliceOf, List.length_take, List.length_drop, h]; rfl
  have hfront : (sliceOf 0 4 d ++ leBytes 4 t.toNat).length = 8 := by rw [List.length_append, hhead, leBytes_length]
  rw [submitted, List.getD_eq_getElem?_getD, List.getD_eq_getElem?_getD]
  by_cases h4 : i < 4
  · rw [if_neg (by omega), List.getElem?_append_left (by omega), List.getElem?_append_left (by omega), sliceOf, List.drop_zero,
      List.getElem?_take_of_lt h4]
  by_cases h8 : i < 8
  · rw [if_pos ⟨by omega, h8⟩, List.getElem?_append_left (by omega), List.getElem?_append_right (by omega), hhead,
      ← List.getD_eq_getElem?_getD, leBytes_getD _ _ _ (by omega)]
    refine BitVec.eq_of_toNat_eq ?_
    rw [BitVec.toNat_ofNat, BitVec.extractLsb'_toNat, Nat.shiftRight_eq_div_pow, Nat.pow_mul]
  · rw [if_neg (by omega), List.getElem?_append_right (by omega), hfront, List.getElem?_drop, show 8 + (i - 8) = i by omega]

theorem State.physBytes_getD (s : State) (a n i : Nat) (h : i < n) : (s.physBytes a n).getD i 0 = s.physByte (a + i) := by
  rw [State.physBytes, List.getD_eq_getElem?_getD, List.getElem?_map, List.getElem?_range h]
  rfl

theorem ringKey_inj {q w cls : Nat} {ring : BitVec 10} (hw : w < 1024) (h : (q, w) ≠ (cls, ring.toNat)) :
    ringKey q w ≠ ringKey cls ring.toNat := fun e => h (by
  have := ring.isLt
  rw [ringKey, ringKey] at e
  exact Prod.ext (by dsimp only; omega) (by dsimp only; omega))

/-- The core once `sub` has issued its ticket, written it to rd and retired; a ticket that completes at once joins the interrupt queue
where IRQ is set. -/
def Core.issues (k : Core) (c : CoreId) (cls : Nat) (rd : RegField) (status : Option Byte) (irq : Bool) : Core :=
  let k' := k.issueTicket cls status
  ((if status.isSome && irq then k'.queueTicket k.ticketNext else k').setReg rd (k.ticketNext.setWidth 64)).retire c

theorem Core.issues_head (k : Core) (c : CoreId) (cls : Nat) (rd : RegField) (status : Option Byte) (irq : Bool) :
    (k.issues c cls rd status irq).tickets.head? = some ⟨cls, status⟩ := by
  have hq (k' : Core) (t : Ticket) : (k'.queueTicket t).tickets = k'.tickets := by rw [Core.queueTicket]; split <;> rfl
  rw [Core.issues, Core.retire_tickets, Core.setReg_tickets]
  split
  · rw [hq]; rfl
  · rfl

theorem Core.issues_none (k : Core) (c : CoreId) (cls : Nat) (rd : RegField) (irq : Bool) :
    k.issues c cls rd none irq = ((k.issueTicket cls none).setReg rd (k.ticketNext.setWidth 64)).retire c := rfl

/-- The state once `sub` has put the 64 bytes at `a` into the ring's next slot. -/
def State.submits (s : State) (c : CoreId) (f : St) (a : Word64) (irq : Bool) : State :=
  let k := s.core c
  let r := s.ring f.cls.toNat f.ring.toNat
  ((s.writeDram (r.slot r.tail) (submitted (s.physBytes a.toNat 64) k.ticketNext)).setRing f.cls.toNat f.ring.toNat
    { r with tail := (r.tail + 1) % (2 * r.size) }).setCore c (k.issues c f.cls.toNat f.rd none irq)

section
variable {s : State} {c : CoreId} {f : St} {a : Word64}

/-- What `sub` does once its source may be read and its class is present (R60). -/
theorem execSub_starts (hs : s.starts c) (ha : (s.core c).reg f.ra = a) (hk : s.allowed c .load a 64 false)
    (hp : Config.absent s.part.variant f.cls.toNat = false) : ∃ irq, execSub c f s = .next (
      let k := s.core c
      let r := s.ring f.cls.toNat f.ring.toNat
      if !r.ownedBy c k.priv then s.raise c excStreamAccess a
      else if r.full || r.disabling || k.entryHeld then s.wrote c f.rd 0
      else if s.flag Reg.FLT_STATUS_SAFE then s.setCore c (k.issues c f.cls.toNat f.rd (some 0x22) irq)
      else if s.doorbellsOff then s.setCore c (k.issues c f.cls.toNat f.rd none irq)
      else s.submits c f a irq) := by
  subst ha
  have hcheck : s.checkAccess c .load ((s.core c).reg f.ra) 64 false = none := hk
  refine ⟨bitAt (BitVec.ofNat 16 (leAt (s.physBytes ((s.core c).reg f.ra).toNat 64) 2 2)) 1, ?_⟩
  rw [execSub, State.starts_halted hs, Bool.and_false, if_neg Bool.false_ne_true, State.runInsn_starts hs]
  dsimp only
  rw [hcheck, hp]
  rfl

theorem State.submits_core (s : State) (c : CoreId) (f : St) (a : Word64) (irq : Bool) :
    (s.submits c f a irq).core c = (s.core c).issues c f.cls.toNat f.rd none irq :=
  State.core_setCore_self _ _ _

theorem State.submits_core_of_ne (s : State) {c d : CoreId} (f : St) (a : Word64) (irq : Bool) (h : d ≠ c) :
    (s.submits c f a irq).core d = s.core d := by
  rw [State.submits, State.core_setCore_of_ne _ _ h]
  exact State.core_of_cores (by rw [State.setRing_cores, State.writeDram_cores]) d

theorem State.submits_onlyMemRings (s : State) (c : CoreId) (f : St) (a : Word64) (irq : Bool) : OnlyMemRings s (s.submits c f a irq) := by
  unfold OnlyMemRings State.submits State.setCore State.setRing State.writeDram
  rfl

/-- DRAM after a submission: the slot at TAIL holds the descriptor with its ticket, every other byte is as it was. -/
theorem State.submits_dram (s : State) (c : CoreId) (f : St) (a : Word64) (irq : Bool) :
    let r := s.ring f.cls.toNat f.ring.toNat
    (∀ i, i < 64 → Mem.get (s.submits c f a irq).dram (r.slot r.tail + i) =
      if 4 ≤ i ∧ i < 8 then (s.core c).ticketNext.extractLsb' (8 * (i - 4)) 8 else s.physByte (a.toNat + i)) ∧
    ∀ x, x < r.slot r.tail ∨ r.slot r.tail + 64 ≤ x → Mem.get (s.submits c f a irq).dram x = Mem.get s.dram x := by
  intro r
  have hlen := submitted_length (s.physBytes_length a.toNat 64) (s.core c).ticketNext
  have hdram : (s.submits c f a irq).dram =
      Mem.store s.dram (r.slot r.tail) (submitted (s.physBytes a.toNat 64) (s.core c).ticketNext) := by
    rw [State.submits, State.setCore_dram, State.setRing_dram, State.writeDram_dram]
  refine ⟨fun i hi => ?_, fun x hx => ?_⟩
  · rw [hdram, Mem.get_store, hlen, if_pos (by omega), nth, Nat.add_sub_cancel_left, submitted_byte (s.physBytes_length a.toNat 64),
      s.physBytes_getD _ _ _ hi]
  · rw [hdram, Mem.get_store, hlen, if_neg (by omega)]

/-- The rings after a submission: TAIL of the ring moves on, and every other ring is as it was. -/
theorem State.submits_ring (s : State) (c : CoreId) (f : St) (a : Word64) (irq : Bool) :
    let r := s.ring f.cls.toNat f.ring.toNat
    ((s.submits c f a irq).ring f.cls.toNat f.ring.toNat).tail = (r.tail + 1) % (2 * r.size) ∧
    ∀ q w, (q, w) ≠ (f.cls.toNat, f.ring.toNat) → w < 1024 → (s.submits c f a irq).ring q w = s.ring q w := by
  intro r
  have hring (q w : Nat) : (s.submits c f a irq).ring q w =
      if ringKey q w = ringKey f.cls.toNat f.ring.toNat then { r with tail := (r.tail + 1) % (2 * r.size) } else s.ring q w :=
    State.ring_setRing (s.writeDram _ _) _ _ q w _
  refine ⟨?_, fun q w hne hw => ?_⟩
  · rw [hring, if_pos rfl]
  · rw [hring, if_neg (ringKey_inj hw hne)]

end

/-- Settles O16: `wtc` and `tkp` by the ticket's result, `sub` by `execSub_starts` and what the slot then holds. -/
theorem tickets : Obligations.Tickets := by
  unfold Obligations.Tickets
  refine ⟨fun c f s hs hcls hring k hk v hv => ?_, fun c f s hs k hk a r ha hr hread hp => ?_⟩
  · subst hk hv
    refine ⟨fun h => ⟨execWtc_notIssued hs hcls hring h, execTkp_notIssued hs hcls hring h⟩, fun age hage => ⟨fun hold => ?_,
      fun e st hlt he hst => ?_, fun e hlt he hst => ?_⟩, fun hd hout => ?_, fun hd hout => ?_, execGtc_starts hs hcls hring⟩
    · have hres := (s.core c).ticketResult_forgotten hold
      exact ⟨execWtc_result hs hcls hring hage hres, (execTkp_result hs hcls hring hage).trans (by rw [hres]; rfl)⟩
    · have hres : (s.core c).ticketResult age = some (st.setWidth 64) := by rw [(s.core c).ticketResult_entry hlt he, hst]; rfl
      exact ⟨execWtc_result hs hcls hring hage hres, (execTkp_result hs hcls hring hage).trans (by rw [hres]; rfl)⟩
    · have hres : (s.core c).ticketResult age = none := by rw [(s.core c).ticketResult_entry hlt he, hst]; rfl
      exact ⟨execWtc_waits hs hcls hring hage hres, (execTkp_result hs hcls hring hage).trans (by rw [hres]; rfl)⟩
    · exact (execFnc_starts hs hcls hring hd).trans (by rw [hout]; rfl)
    · exact (execFnc_starts hs hcls hring hd).trans (by rw [hout]; rfl)
  · obtain ⟨irq, hsub⟩ := execSub_starts hs (hk ▸ ha) hread hp
    subst hk ha hr
    dsimp only at hsub
    refine ⟨fun ho => hsub.trans (by rw [ho]; rfl), fun ho hfull => hsub.trans ?_, fun ho hnf hnd hne => ?_⟩
    · rw [ho, if_neg (by simp), if_pos (by simpa only [Bool.or_eq_true, or_assoc] using hfull)]
    rw [ho, hnf, hnd, hne] at hsub
    refine ⟨fun hsafe => ⟨s.setCore c ((s.core c).issues c f.cls.toNat f.rd (some 0x22) irq), hsub.trans (by rw [hsafe]; rfl), ?_, rfl, rfl⟩,
      fun hsafe hdoor =>
      ⟨s.submits c f ((s.core c).reg f.ra) irq, hsub.trans (by rw [hsafe, hdoor]; rfl), ?_⟩⟩
    · rw [State.core_setCore_self, Core.issues_head]
    · obtain ⟨hslot, hrest⟩ := s.submits_dram c f ((s.core c).reg f.ra) irq
      obtain ⟨htail, hrings⟩ := s.submits_ring c f ((s.core c).reg f.ra) irq
      refine ⟨?_, ?_, ?_, ?_, hslot, hrest, htail, hrings, fun d hd => s.submits_core_of_ne f _ irq hd, s.submits_onlyMemRings c f _ irq⟩
      · rw [State.submits_core, Core.issues_none, Core.retire_issued, Core.setReg_issued]
        rfl
      · rw [State.submits_core, Core.issues_head]
      · rw [State.submits_core, Core.issues_none, Core.reg_retire, Core.reg_setReg_self]
      · rw [State.submits_core, Core.issues_none, Core.retire_pc, Core.setReg_pc]
        rfl

end Sys2Proof.Machine

/-!
SUPPORT. What leaves the cores as they are: for every shared operation of the machine that never writes a core, the rule that its
`cores` are those before. With these rules `simp` removes such an operation from a statement about cores.
-/

namespace Sys2Proof.Machine

/-! ## Branches, folds and answers with a value -/

@[simp] theorem State.cores_ite (c : Prop) [Decidable c] (s t : State) : (if c then s else t).cores = if c then s.cores else t.cores :=
  apply_ite State.cores c s t

@[simp] theorem snd_cores_ite {α : Type} (c : Prop) [Decidable c] (s t : α × State) :
    (if c then s else t).2.cores = if c then s.2.cores else t.2.cores :=
  apply_ite (fun x => x.2.cores) c s t

/-- A fold of a step that leaves the cores leaves them. -/
@[simp] theorem foldl_cores {α : Type} {f : State → α → State} (hf : ∀ s a, (f s a).cores = s.cores) (l : List α) (s : State) :
    (l.foldl f s).cores = s.cores :=
  List.foldlRecOn (motive := fun t => t.cores = s.cores) l f rfl fun t ht a _ => (hf t a).trans ht

@[simp] theorem foldl_snd_cores {α β : Type} {f : β × State → α → β × State} (hf : ∀ e a, (f e a).2.cores = e.2.cores) (l : List α)
    (i : β × State) : (l.foldl f i).2.cores = i.2.cores :=
  List.foldlRecOn (motive := fun e => e.2.cores = i.2.cores) l f rfl fun e he a _ => (hf e a).trans he

@[simp] theorem foldl_fst_cores {α β : Type} {f : State × β → α → State × β} (hf : ∀ e a, (f e a).1.cores = e.1.cores) (l : List α)
    (i : State × β) : (l.foldl f i).1.cores = i.1.cores :=
  List.foldlRecOn (motive := fun e => e.1.cores = i.1.cores) l f rfl fun e he a _ => (hf e a).trans he

/-- The state of an answer named by a match. -/
theorem cores_of_snd {α : Type} {e : α × State} {a : α} {t : State} (he : e = (a, t)) : t.cores = e.2.cores := he ▸ rfl

section
variable (s : State)

/-! ### Registers, counters, the fault log and the trace (R560 to R562, R574, R579 to R588) -/

@[simp] theorem State.setFld_cores (f v) : (s.setFld f v).cores = s.cores := (s.setFld_onlyLogs f v).cores
@[simp] theorem State.setFlag_cores (f b) : (s.setFlag f b).cores = s.cores := (s.setFlag_onlyLogs f b).cores
@[simp] theorem State.errAdd_cores (f k) : (s.errAdd f k).cores = s.cores := (s.errAdd_onlyLogs f k).cores
@[simp] theorem State.setPolder_cores (p v) : (s.setPolder p v).cores = s.cores := by simp [State.setPolder]
@[simp] theorem State.countQuiet_cores (u k n) : (s.countQuiet u k n).1.cores = s.cores := (s.countQuiet_onlyLogs u k n).cores
@[simp] theorem State.traceOverwrite_cores (w) : (s.traceOverwrite w).cores = s.cores := (s.traceOverwrite_onlyLogs w).cores
@[simp] theorem State.traceStore_cores (r) : (s.traceStore r).cores = s.cores := (s.traceStore_onlyLogs r).cores
@[simp] theorem State.traceWrite_cores (r) : (s.traceWrite r).cores = s.cores := (s.traceWrite_onlyLogs r).cores
@[simp] theorem State.trigger_cores (src) : (s.trigger src).cores = s.cores := (s.trigger_onlyLogs src).cores

@[simp] theorem State.emit_cores (typ polder info data) : (s.emit typ polder info data).cores = s.cores :=
  (s.emit_onlyLogs typ polder info data).cores

@[simp] theorem State.marker_cores (typ polder kind) : (s.marker typ polder kind).cores = s.cores := by simp [State.marker]

@[simp] theorem State.flushMarkers_cores : s.flushMarkers.cores = s.cores := by
  unfold State.flushMarkers
  dsimp only
  split <;> simp

@[simp] theorem State.logFault_cores (kind polder detail value) : (s.logFault kind polder detail value).cores = s.cores :=
  (s.logFault_onlyLogs kind polder detail value).cores

@[simp] theorem State.count_cores (u k n) : (s.count u k n).cores = s.cores := (s.count_onlyLogs u k n).cores
@[simp] theorem State.setTests_cores (q) : (s.setTests q).cores = s.cores := by simp [State.setTests]
@[simp] theorem State.queueTest_cores (cls unit) : (s.queueTest cls unit).cores = s.cores := by simp [State.queueTest]
@[simp] theorem State.freshFree_cores : (s.freshFree).2.cores = s.cores := by simp [State.freshFree]
@[simp] theorem State.interrupt_cores (fn vector) : (s.interrupt fn vector).cores = s.cores := by simp [State.interrupt]

/-! ### Shared operations of the control cores -/

@[simp] theorem State.settleRecipe_cores (h) : (s.settleRecipe h).cores = s.cores := by
  unfold State.settleRecipe
  split <;> simp

/-! ### Rings, taken descriptors and engine accesses (R92, R97 to R102) -/

@[simp] theorem State.ringError_cores (cls ring) : (s.ringError cls ring).cores = s.cores := by simp [State.ringError]
@[simp] theorem State.setTaken_cores (x) : (s.setTaken x).cores = s.cores := by simp [State.setTaken]
@[simp] theorem State.finish_cores (x status detail output) : (s.finish x status detail output).cores = s.cores := by simp [State.finish]
@[simp] theorem State.engineAccess_cores (cls write a n) : (s.engineAccess cls write a n).cores = s.cores := by simp [State.engineAccess]
@[simp] theorem State.engineWrite_cores (cls a bs) : (s.engineWrite cls a bs).cores = s.cores := by simp [State.engineWrite]

/-! ### The host's queues (R410 to R421) -/

@[simp] theorem State.hostStores_cores (stores) : (s.hostStores stores).cores = s.cores :=
  foldl_cores (fun _ _ => by simp) stores s

@[simp] theorem State.setController_cores (c) : (s.setController c).cores = s.cores := by simp [State.setController]
@[simp] theorem State.setSq_cores (q) : (s.setSq q).cores = s.cores := by simp [State.setSq]
@[simp] theorem State.setCq_cores (q) : (s.setCq q).cores = s.cores := by simp [State.setCq]

@[simp] theorem State.putCqe_cores (q dw0 sqHead sqid cid status) : (s.putCqe q dw0 sqHead sqid cid status).cores = s.cores := by
  simp [State.putCqe]

@[simp] theorem State.nvmeComplete_cores (fn sqid cid dw0 status) : (s.nvmeComplete fn sqid cid dw0 status).cores = s.cores := by
  unfold State.nvmeComplete
  repeat' split
  all_goals simp

@[simp] theorem State.releaseCq_cores (fn qid k) : (s.releaseCq fn qid k).cores = s.cores := by
  induction k generalizing s with
  | zero => simp [State.releaseCq]
  | succ k ih =>
    unfold State.releaseCq
    repeat' split
    all_goals simp [ih]

@[simp] theorem State.setCmdRing_cores (i r) : (s.setCmdRing i r).cores = s.cores := by simp [State.setCmdRing]
@[simp] theorem State.putEntry_cores (i r e) : (s.putEntry i r e).cores = s.cores := by simp [State.putEntry]

@[simp] theorem State.releaseEntries_cores (i k) : (s.releaseEntries i k).cores = s.cores := by
  induction k generalizing s with
  | zero => simp [State.releaseEntries]
  | succ k ih =>
    unfold State.releaseEntries
    repeat' split
    all_goals simp [ih]

@[simp] theorem State.settleDelete_cores (i) : (s.settleDelete i).cores = s.cores := by
  unfold State.settleDelete
  repeat' split
  all_goals simp

@[simp] theorem State.completeCommand_cores (ref result status data) : (s.completeCommand ref result status data).cores = s.cores := by
  unfold State.completeCommand
  repeat' split
  all_goals simp

@[simp] theorem State.popEntry_cores (i e) : (s.popEntry i e).cores = s.cores := by
  unfold State.popEntry
  split <;> simp

@[simp] theorem State.rejectUnknown_cores (i k) : (s.rejectUnknown i k).cores = s.cores := by
  induction k generalizing s with
  | zero => simp [State.rejectUnknown]
  | succ k ih =>
    unfold State.rejectUnknown
    repeat' split
    all_goals simp [ih]

@[simp] theorem State.discardDoorbell_cores (qcn) : (s.discardDoorbell qcn).cores = s.cores := by
  unfold State.discardDoorbell
  dsimp only
  split <;> simp

/-! ### Recipes (R108 to R120) -/

@[simp] theorem State.placeRing_cores (m core e ring base qcn data bss staging) :
    (s.placeRing m core e ring base qcn data bss staging).cores = s.cores := by
  simp [State.placeRing]

/-! ### Flash channels (R285 to R318) -/

@[simp] theorem State.repopulate_cores : s.repopulate.cores = s.cores := by simp [State.repopulate]
@[simp] theorem State.setChanRate_cores (ch v) : (s.setChanRate ch v).cores = s.cores := by simp [State.setChanRate]
@[simp] theorem State.failChannel_cores (ch) : (s.failChannel ch).cores = s.cores := by simp [State.failChannel]

@[simp] theorem State.dieDead_cores (d) : (s.dieDead d).cores = s.cores := by
  unfold State.dieDead
  split <;> simp

@[simp] theorem State.checkReadOnly_cores : s.checkReadOnly.cores = s.cores := by simp [State.checkReadOnly]
@[simp] theorem State.setSuperblock_cores (n x) : (s.setSuperblock n x).cores = s.cores := by simp [State.setSuperblock]

@[simp] theorem State.askRefresh_cores (d b) : (s.askRefresh d b).cores = s.cores := by
  unfold State.askRefresh
  split <;> simp

@[simp] theorem State.retireBlock_cores (d b) : (s.retireBlock d b).cores = s.cores := by
  unfold State.retireBlock
  split <;> simp

@[simp] theorem State.readSteps_cores (a last) : (s.readSteps a last).2.cores = s.cores := by
  unfold State.readSteps
  dsimp only
  split <;> simp

@[simp] theorem State.rebuildCodeword_cores (a) : (s.rebuildCodeword a).2.cores = s.cores := by
  unfold State.rebuildCodeword
  dsimp only
  repeat' split
  all_goals simp

@[simp] theorem State.readCodeword_cores (a) : (s.readCodeword a).2.cores = s.cores := by
  unfold State.readCodeword
  dsimp only
  repeat' split
  all_goals simp

@[simp] theorem State.suspendDie_cores (d) : (s.suspendDie d).cores = s.cores := by
  unfold State.suspendDie
  split <;> simp

@[simp] theorem State.physCodeword_cores (a mode) : (s.physCodeword a mode).2.cores = s.cores := by simp [State.physCodeword]
@[simp] theorem State.calibrated_cores (ch temp) : (s.calibrated ch temp).cores = s.cores := by simp [State.calibrated]
@[simp] theorem State.patrolOne_cores (n x) : (s.patrolOne n x).cores = s.cores := by simp [State.patrolOne]

/-! ### Map, journal and write streams (R319 to R337) -/

@[simp] theorem State.answer_cores (a status detail) : (s.answer a status detail).cores = s.cores := by
  cases a with
  | desc c t =>
    unfold State.answer
    dsimp only
    split <;> simp
  | nvme fn sqid cid => simp [State.answer]
  | ring ref => simp [State.answer]

@[simp] theorem State.setMap_cores (space lua v) : (s.setMap space lua v).cores = s.cores := by simp [State.setMap]
@[simp] theorem State.countSpaces_cores : s.countSpaces.cores = s.cores := by simp [State.countSpaces]
@[simp] theorem State.unmap_cores (space lua n) : (s.unmap space lua n).cores = s.cores := by simp [State.unmap]

@[simp] theorem State.applyRecord_cores (r) : (s.applyRecord r).cores = s.cores := by
  unfold State.applyRecord
  dsimp only
  repeat' split
  all_goals simp

@[simp] theorem State.showJournal_cores : s.showJournal.cores = s.cores := by simp [State.showJournal]

@[simp] theorem State.unitDone_cores (w) : (s.unitDone w).cores = s.cores := by
  unfold State.unitDone
  split <;> simp

@[simp] theorem State.appendNow_cores (r w) : (s.appendNow r w).cores = s.cores := by simp [State.appendNow]
@[simp] theorem State.append_cores (r w) : (s.append r w).cores = s.cores := by simp [State.append]

@[simp] theorem State.drainWaiting_cores (k) : (s.drainWaiting k).cores = s.cores := by
  induction k generalizing s with
  | zero => simp [State.drainWaiting]
  | succ k ih =>
    unfold State.drainWaiting
    split <;> simp [ih]

@[simp] theorem State.openSuperblock_cores (st) : (s.openSuperblock st).2.cores = s.cores := by simp [State.openSuperblock]
@[simp] theorem State.setStream_cores (st o) : (s.setStream st o).cores = s.cores := by simp [State.setStream]

@[simp] theorem State.fillRound_cores (st k) : (s.fillRound st k).cores = s.cores := by
  induction k generalizing s with
  | zero => simp [State.fillRound]
  | succ k ih =>
    unfold State.fillRound
    extract_lets o
    split
    · rfl
    split
    · rfl
    · simp [ih]
    · split
      next n t e =>
        have ht : t.cores = s.cores := by simpa using cores_of_snd e
        simp [ih, ht]
      next t e => simpa using cores_of_snd e

@[simp] theorem State.fill_cores (st) : (s.fill st).cores = s.cores := by simp [State.fill]

@[simp] theorem State.programWords_cores (ws) : (s.programWords ws).cores = s.cores := by
  refine foldl_cores (fun t e => ?_) ws s
  split <;> simp

@[simp] theorem State.reportUnit_cores (st u) : (s.reportUnit st u).cores = s.cores := by
  unfold State.reportUnit
  split <;> simp

@[simp] theorem State.closeSb_cores (n) : (s.closeSb n).cores = s.cores := by simp [State.closeSb]

@[simp] theorem State.endRound_cores (st) : (s.endRound st).cores = s.cores := by
  unfold State.endRound
  dsimp only
  split <;> simp

@[simp] theorem State.prepareMeta_cores : s.prepareMeta.cores = s.cores := by
  unfold State.prepareMeta
  split
  · split
    next n t e => simpa using cores_of_snd e
    next t e => simpa using cores_of_snd e
  · rfl

@[simp] theorem State.advanceMeta_cores : s.advanceMeta.cores = s.cores := by
  unfold State.advanceMeta
  split <;> simp

@[simp] theorem State.metaWrite_cores (kind space lua data ok) : (s.metaWrite kind space lua data ok).2.cores = s.cores := by
  unfold State.metaWrite
  repeat' split
  all_goals simp

@[simp] theorem State.countFree_cores (v0) : (s.countFree v0).cores = s.cores := by simp [State.countFree]
@[simp] theorem State.settleDurable_cores : s.settleDurable.cores = s.cores := by simp [State.settleDurable]

@[simp] theorem State.programJournal_cores (ok) : (s.programJournal ok).cores = s.cores := by
  unfold State.programJournal
  dsimp only
  split <;> simp

@[simp] theorem State.cachePage_cores (page) : (s.cachePage page).cores = s.cores := by simp [State.cachePage]
@[simp] theorem State.touchMap_cores (space lua) : (s.touchMap space lua).cores = s.cores := by simp [State.touchMap]

@[simp] theorem State.writeBack_cores (page ok) : (s.writeBack page ok).cores = s.cores := by
  unfold State.writeBack
  dsimp only
  split <;> simp

@[simp] theorem State.readUnit_cores (space lua) : (s.readUnit space lua).2.cores = s.cores := by
  unfold State.readUnit
  dsimp only
  repeat' split
  all_goals simp

@[simp] theorem State.readRun_cores (space lua n) : (s.readRun space lua n).2.cores = s.cores := by simp [State.readRun]
@[simp] theorem State.showCredits_cores : s.showCredits.cores = s.cores := by simp [State.showCredits]

@[simp] theorem State.admitUnits_cores (k) : (s.admitUnits k).cores = s.cores := by
  induction k generalizing s with
  | zero => simp [State.admitUnits]
  | succ k ih =>
    unfold State.admitUnits
    split <;> simp [ih]

@[simp] theorem State.pumpWrites_cores : s.pumpWrites.cores = s.cores := by simp [State.pumpWrites]

@[simp] theorem State.beginWrite_cores (a space lua units fabric) : (s.beginWrite a space lua units fabric).cores = s.cores := by
  simp [State.beginWrite]

@[simp] theorem State.recordFor_cores (a rs) : (s.recordFor a rs).cores = s.cores := by simp [State.recordFor]
@[simp] theorem State.trimRuns_cores (a space lua n runs) : (s.trimRuns a space lua n runs).cores = s.cores := by simp [State.trimRuns]

@[simp] theorem State.createSpace_cores (a space typ units) : (s.createSpace a space typ units).cores = s.cores := by
  simp [State.createSpace]

@[simp] theorem State.deleteSpace_cores (a space) : (s.deleteSpace a space).cores = s.cores := by simp [State.deleteSpace]
@[simp] theorem State.beginSync_cores (a space) : (s.beginSync a space).cores = s.cores := by simp [State.beginSync]

/-! ### Reclamation, rebuild, checkpoints and mounts (R306, R329, R338 to R349) -/

@[simp] theorem State.beginGc_cores (n x fg) : (s.beginGc n x fg).cores = s.cores := by simp [State.beginGc]
@[simp] theorem State.awaitFree_cores (n v0) : (s.awaitFree n v0).cores = s.cores := by simp [State.awaitFree]
@[simp] theorem State.freeVictim_cores (g) : (s.freeVictim g).cores = s.cores := by simp [State.freeVictim]
@[simp] theorem State.eraseBlock_cores (d b) : (s.eraseBlock d b).cores = s.cores := by simp [State.eraseBlock]

@[simp] theorem State.rebuildMember_cores (n x i d b) : (s.rebuildMember n x i d b).cores = s.cores := by
  unfold State.rebuildMember
  split
  · extract_lets cells t u
    have ht : t.cores = s.cores := foldl_cores (fun u a => by dsimp only; split <;> simp) cells s
    simp [u, ht]
  · simp

@[simp] theorem State.takeCheckpoint_cores : s.takeCheckpoint.cores = s.cores := by simp [State.takeCheckpoint]
@[simp] theorem State.showTotals_cores : s.showTotals.cores = s.cores := by simp [State.showTotals]

@[simp] theorem State.startMeta_cores : s.startMeta.cores = s.cores := by
  unfold State.startMeta
  split
  next n t e => simpa using cores_of_snd e
  next t e => simpa using cores_of_snd e

@[simp] theorem State.armFlushUp_cores (k) : (s.armFlushUp k).cores = s.cores := by
  induction k generalizing s with
  | zero => simp [State.armFlushUp]
  | succ k ih =>
    unfold State.armFlushUp
    extract_lets dies covered usable
    split
    · rfl
    · split
      next n t e =>
        have ht : t.cores = s.cores := by simpa using cores_of_snd e
        simp [ih, ht]
      next t e => simpa using cores_of_snd e

@[simp] theorem State.armFlush_cores : s.armFlush.cores = s.cores := by simp [State.armFlush]
@[simp] theorem State.formatFlash_cores : s.formatFlash.cores = s.cores := by simp [State.formatFlash]

@[simp] theorem State.replay_cores (j k) : (s.replay j k).cores = s.cores := by
  induction k generalizing s j with
  | zero => simp [State.replay]
  | succ k ih =>
    unfold State.replay
    split <;> simp [ih]

@[simp] theorem State.loadMapPage_cores (page loc) : (s.loadMapPage page loc).cores = s.cores := by
  unfold State.loadMapPage
  split <;> simp

@[simp] theorem State.scanWord_cores (st victim l w) : (s.scanWord st victim l w).cores = s.cores := by
  unfold State.scanWord
  split <;> simp

@[simp] theorem State.reverseScan_cores (victim) : (s.reverseScan victim).cores = s.cores := by simp [State.reverseScan]

@[simp] theorem State.recover_cores (a) : (s.recover a).cores = s.cores := by
  unfold State.recover
  dsimp only
  repeat' split
  all_goals simp

/-! ### Fetch and permutation (R123 to R153) -/

@[simp] theorem State.spaceBytes_cores (space off len) : (s.spaceBytes space off len).2.cores = s.cores := by simp [State.spaceBytes]
@[simp] theorem State.loadCatalog_cores (v page) : (s.loadCatalog v page).cores = s.cores := by simp [State.loadCatalog]
@[simp] theorem State.setFetchStream_cores (ring st) : (s.setFetchStream ring st).cores = s.cores := by simp [State.setFetchStream]
@[simp] theorem State.showFetch_cores : s.showFetch.cores = s.cores := by simp [State.showFetch]
@[simp] theorem State.closeStream_cores (ring) : (s.closeStream ring).cores = s.cores := by simp [State.closeStream]
@[simp] theorem State.countEntry_cores (i) : (s.countEntry i).cores = s.cores := by simp [State.countEntry]

@[simp] theorem State.putItem_cores (ring i) : (s.putItem ring i).cores = s.cores := by
  unfold State.putItem
  split <;> simp

@[simp] theorem State.rebuiltBytes_cores (space off len) : (s.rebuiltBytes space off len).2.cores = s.cores := by
  refine foldl_snd_cores (fun e i => ?_) _ ([], s)
  split <;> simp

@[simp] theorem State.checkItem_cores (v i peer) : (s.checkItem v i peer).2.cores = s.cores := by
  unfold State.checkItem
  dsimp only
  repeat' split
  all_goals simp

@[simp] theorem State.endClosed_cores (x) : (s.endClosed x).cores = s.cores := by
  unfold State.endClosed
  dsimp only
  repeat' split
  all_goals simp

@[simp] theorem State.beginFill_cores (x) : (s.beginFill x).cores = s.cores := by
  unfold State.beginFill
  dsimp only
  repeat' split
  all_goals simp

@[simp] theorem State.tryFill_cores (x st) : (s.tryFill x st).cores = s.cores := by simp [State.tryFill]

@[simp] theorem State.fetchRingCleared_cores (ring) : (s.fetchRingCleared ring).cores = s.cores := by
  unfold State.fetchRingCleared
  dsimp only
  split <;> simp

/-! ### Mills (R154 to R181) -/

@[simp] theorem State.endMill_cores (x i w outRun) : (s.endMill x i w outRun).cores = s.cores := by simp [State.endMill]

@[simp] theorem State.millWhole_cores (x i h conceal l d probe lanes) : (s.millWhole x i h conceal l d probe lanes).cores = s.cores := by
  simp [State.millWhole]

@[simp] theorem State.millDecode_cores (x i h conceal src lane) : (s.millDecode x i h conceal src lane).cores = s.cores := by
  simp [State.millDecode]

@[simp] theorem State.millRun_cores (x probe) : (s.millRun x probe).cores = s.cores := by
  unfold State.millRun
  dsimp only
  repeat' split
  all_goals simp

/-! ### Kiln (R182 to R205) -/

@[simp] theorem State.setOutcome_cores (grist o) : (s.setOutcome grist o).cores = s.cores := by simp [State.setOutcome]
@[simp] theorem State.kilnRefuse_cores (x code) : (s.kilnRefuse x code).cores = s.cores := by simp [State.kilnRefuse]

@[simp] theorem State.endKiln_cores (x j item e) : (s.endKiln x j item e).cores = s.cores := by
  unfold State.endKiln
  repeat' split
  all_goals simp

@[simp] theorem State.kilnExpand_cores (x item format len dst) : (s.kilnExpand x item format len dst).cores = s.cores := by
  simp [State.kilnExpand]

@[simp] theorem State.kilnDecompress_cores (x) : (s.kilnDecompress x).cores = s.cores := by
  unfold State.kilnDecompress
  split <;> simp

@[simp] theorem State.laneOut_cores (lane) : (s.laneOut lane).cores = s.cores := by simp [State.laneOut]

@[simp] theorem State.kilnCompress_cores (x mismatch) : (s.kilnCompress x mismatch).cores = s.cores := by
  unfold State.kilnCompress
  dsimp only
  repeat' split
  all_goals simp

@[simp] theorem State.gfCombine_cores (x) : (s.gfCombine x).cores = s.cores := by simp [State.gfCombine]

/-! ### Mash (R206 to R231) -/

@[simp] theorem State.showTiles_cores : s.showTiles.cores = s.cores := by
  unfold State.showTiles
  extract_lets tiles s1 s2
  have h1 : s1.cores = s.cores := foldl_cores (fun _ _ => by simp) _ s
  have h2 : s2.cores = s1.cores := foldl_cores (fun _ _ => by simp) _ s1
  exact (s2.setReg_cores _ _).trans (h2.trans h1)

@[simp] theorem State.tileDrop_cores (t) : (s.tileDrop t).cores = s.cores := by simp [State.tileDrop]
@[simp] theorem State.tileOut_cores (t) : (s.tileOut t).cores = s.cores := by simp [State.tileOut]
@[simp] theorem State.endTransform_cores (x status out) : (s.endTransform x status out).cores = s.cores := by simp [State.endTransform]
@[simp] theorem State.bareTransform_cores (x w status) : (s.bareTransform x w status).cores = s.cores := by simp [State.bareTransform]

@[simp] theorem State.transformRun_cores (x w key ops shapes) : (s.transformRun x w key ops shapes).cores = s.cores := by
  simp [State.transformRun]

@[simp] theorem State.transform_cores (x tileError) : (s.transform x tileError).cores = s.cores := by
  unfold State.transform
  dsimp only
  repeat' split
  all_goals simp

@[simp] theorem State.runModel_cores (m a n) : (s.runModel m a n).2.cores = s.cores := by simp [State.runModel]

@[simp] theorem State.score_cores (x tileError) : (s.score x tileError).cores = s.cores := by
  unfold State.score
  split <;> simp

@[simp] theorem State.modelLoad_cores (x) : (s.modelLoad x).cores = s.cores := by simp [State.modelLoad]
@[simp] theorem State.modelUnload_cores (x) : (s.modelUnload x).cores = s.cores := by simp [State.modelUnload]

/-! ### Lauter (R232 to R247) -/

@[simp] theorem State.judgeOne_cores (x j sameSet text v p) : (s.judgeOne x j sameSet text v p).2.2.cores = s.cores := by
  unfold State.judgeOne
  dsimp only
  repeat' split
  all_goals simp

@[simp] theorem State.judgeAll_cores (x j sameSet text v i ps) : (s.judgeAll x j sameSet text v i ps).2.cores = s.cores := by
  induction ps generalizing s v i with
  | nil => simp [State.judgeAll]
  | cons p ps ih =>
    unfold State.judgeAll
    split
    next v' t e => rw [ih]; simpa using congrArg (·.2.2.cores) e.symm
    next v' t e => simpa using congrArg (·.2.2.cores) e.symm

@[simp] theorem State.filterRun_cores (x) : (s.filterRun x).cores = s.cores := by
  unfold State.filterRun
  dsimp only
  repeat' split
  all_goals simp

@[simp] theorem State.showSet_cores (slot) : (s.showSet slot).cores = s.cores := by simp [State.showSet]
@[simp] theorem State.loadSet_cores (x) : (s.loadSet x).cores = s.cores := by simp [State.loadSet]

@[simp] theorem State.signatureRun_cores (x) : (s.signatureRun x).cores = s.cores := by
  unfold State.signatureRun
  split <;> simp

@[simp] theorem State.unloadSet_cores (x) : (s.unloadSet x).cores = s.cores := by simp [State.unloadSet]

/-! ### Pack store (R266 to R268) -/

@[simp] theorem State.showStore_cores : s.showStore.cores = s.cores := by simp [State.showStore]
@[simp] theorem State.storeWait_cores (x) : (s.storeWait x).cores = s.cores := by simp [State.storeWait]
@[simp] theorem State.storeServed_cores (x) : (s.storeServed x).cores = s.cores := by simp [State.storeServed]
@[simp] theorem State.setPackStream_cores (serial p) : (s.setPackStream serial p).cores = s.cores := by simp [State.setPackStream]
@[simp] theorem State.enterSegment_cores (st pos g) : (s.enterSegment st pos g).cores = s.cores := by simp [State.enterSegment]
@[simp] theorem State.releaseStore_cores (h) : (s.releaseStore h).cores = s.cores := by simp [State.releaseStore]

/-! ### Token unit (R248 to R265) -/

@[simp] theorem State.showVocab_cores (slot) : (s.showVocab slot).cores = s.cores := by simp [State.showVocab]

@[simp] theorem State.vocabLoad_cores (x) : (s.vocabLoad x).cores = s.cores := by
  unfold State.vocabLoad
  dsimp only
  repeat' split
  all_goals simp

@[simp] theorem State.vocabUnload_cores (x) : (s.vocabUnload x).cores = s.cores := by simp [State.vocabUnload]
@[simp] theorem State.endTokenize_cores (x o out) : (s.endTokenize x o out).cores = s.cores := by simp [State.endTokenize]
@[simp] theorem State.tokenRefuse_cores (x code) : (s.tokenRefuse x code).cores = s.cores := by simp [State.tokenRefuse]

@[simp] theorem State.tokenizeItem_cores (x v h i enc first last) : (s.tokenizeItem x v h i enc first last).cores = s.cores := by
  unfold State.tokenizeItem
  dsimp only
  repeat' split
  all_goals simp

@[simp] theorem State.tokenizeText_cores (x v first last) : (s.tokenizeText x v first last).cores = s.cores := by simp [State.tokenizeText]

@[simp] theorem State.tokenizeBounded_cores (x v first last f) : (s.tokenizeBounded x v first last f).cores = s.cores := by
  simp [State.tokenizeBounded]

@[simp] theorem State.tokenizePiece_cores (x v first last) : (s.tokenizePiece x v first last).cores = s.cores := by
  unfold State.tokenizePiece
  dsimp only
  split <;> simp

@[simp] theorem State.tokenize_cores (x) : (s.tokenize x).cores = s.cores := by
  unfold State.tokenize
  dsimp only
  repeat' split
  all_goals simp

/-! ### Cask packer (R268 to R284) -/

@[simp] theorem State.replayWrite_cores (manifest ms generation startPos gtcFirst) :
    (s.replayWrite manifest ms generation startPos gtcFirst).cores = s.cores := by
  simp [State.replayWrite]

@[simp] theorem State.closePart_cores (x h ms pieces base size startPos gtcFirst copy) :
    (s.closePart x h ms pieces base size startPos gtcFirst copy).cores = s.cores := by
  simp [State.closePart]

@[simp] theorem State.caskRefuse_cores (x code) : (s.caskRefuse x code).cores = s.cores := by simp [State.caskRefuse]

@[simp] theorem State.packSlots_cores (x) : (s.packSlots x).cores = s.cores := by
  unfold State.packSlots
  extract_lets es count f slots n inner policy bytes need
  iterate 8 split; · simp
  split
  · simp
  · split
    next draw t e =>
      have ht : t.cores = s.cores := by simpa using cores_of_snd e
      simp [ht]

@[simp] theorem State.closeRows_cores (x st ps rows dropped width e base need) :
    (s.closeRows x st ps rows dropped width e base need).cores = s.cores := by
  simp [State.closeRows]

@[simp] theorem State.packRows_cores (x) : (s.packRows x).cores = s.cores := by
  unfold State.packRows
  extract_lets width flags e stride policy
  iterate 3 split; · simp
  split
  · simp
  · extract_lets ps start
    iterate 3 split; · simp
    split
    extract_lets final closed rows drops members need q1 after t
    split
    · simp [after]
    · split <;> simp [t, after]

@[simp] theorem State.mergeRun_cores (x) : (s.mergeRun x).cores = s.cores := by simp [State.mergeRun]
@[simp] theorem State.dropPart_cores (p) : (s.dropPart p).cores = s.cores := by simp [State.dropPart]

@[simp] theorem State.discardRun_cores (x) : (s.discardRun x).cores = s.cores := by
  unfold State.discardRun
  split <;> simp

/-! ### Weir and ports (R355 to R358, R388 to R405) -/

@[simp] theorem State.setSubport_cores (n p) : (s.setSubport n p).cores = s.cores := by simp [State.setSubport]
@[simp] theorem State.showSubport_cores (n) : (s.showSubport n).cores = s.cores := by simp [State.showSubport]
@[simp] theorem State.setQueue_cores (k q) : (s.setQueue k q).cores = s.cores := by simp [State.setQueue]
@[simp] theorem State.setNode_cores (k n) : (s.setNode k n).cores = s.cores := by simp [State.setNode]
@[simp] theorem State.weirAdd_cores (sub subscriber p) : (s.weirAdd sub subscriber p).cores = s.cores := by simp [State.weirAdd]
@[simp] theorem State.weirDrop_cores (qcn all) : (s.weirDrop qcn all).cores = s.cores := by simp [State.weirDrop]

@[simp] theorem State.startTimer_cores (qcn) : (s.startTimer qcn).cores = s.cores := by
  unfold State.startTimer
  split <;> simp

@[simp] theorem State.packetLeft_cores (p) : (s.packetLeft p).cores = s.cores := by
  unfold State.packetLeft
  dsimp only
  repeat' split
  all_goals simp

@[simp] theorem State.sendFrom_cores (sub service qk) : (s.sendFrom sub service qk).cores = s.cores := by
  unfold State.sendFrom
  dsimp only
  split <;> simp

@[simp] theorem State.notePause_cores (sub) : (s.notePause sub).cores = s.cores := by
  unfold State.notePause
  dsimp only
  split <;> simp

@[simp] theorem State.endPause_cores (sub) : (s.endPause sub).cores = s.cores := by simp [State.endPause]
@[simp] theorem State.sendPause_cores (sub quanta) : (s.sendPause sub quanta).cores = s.cores := by simp [State.sendPause]
@[simp] theorem State.rxLevel_cores (sub kib) : (s.rxLevel sub kib).cores = s.cores := by simp [State.rxLevel]
@[simp] theorem State.cutRate_cores (sub qk) : (s.cutRate sub qk).cores = s.cores := by simp [State.cutRate]
@[simp] theorem State.cnpIn_cores (qcn q) : (s.cnpIn qcn q).cores = s.cores := by simp [State.cnpIn]
@[simp] theorem State.setSelected_cores (x) : (s.setSelected x).cores = s.cores := by simp [State.setSelected]

@[simp] theorem State.latchQueue_cores (value) : (s.latchQueue value).cores = s.cores := by
  unfold State.latchQueue
  extract_lets s1 x kib ticks s2
  exact (s2.setReg_cores _ _).trans ((s1.setReg_cores _ _).trans (s.setReg_cores _ _))

@[simp] theorem State.readDepth_cores : (s.readDepth).2.cores = s.cores := by simp [State.readDepth]
@[simp] theorem State.readDelay_cores : (s.readDelay).2.cores = s.cores := by simp [State.readDelay]
@[simp] theorem answerRead_cores (r : Word32 × State) : (answerRead r).cores = r.2.cores := by simp [answerRead]
@[simp] theorem State.linkLost_cores (sub) : (s.linkLost sub).cores = s.cores := by simp [State.linkLost]
@[simp] theorem State.linkUpNow_cores (sub) : (s.linkUpNow sub).cores = s.cores := by simp [State.linkUpNow]
@[simp] theorem State.writePortCfg_cores (port value) : (s.writePortCfg port value).cores = s.cores := by simp [State.writePortCfg]

/-! ### The ring window (R88 to R96) -/

@[simp] theorem State.ringOff_cores (cls ring) : (s.ringOff cls ring).cores = s.cores := by
  unfold State.ringOff
  dsimp only
  repeat' split
  all_goals simp

@[simp] theorem State.clearEn_cores (cls ring) : (s.clearEn cls ring).cores = s.cores := by simp [State.clearEn]
@[simp] theorem State.tryEnable_cores (cls ring r) : (s.tryEnable cls ring r).cores = s.cores := by simp [State.tryEnable]
@[simp] theorem State.writeRingCfg_cores (w) : (s.writeRingCfg w).cores = s.cores := by simp [State.writeRingCfg]
@[simp] theorem State.writeRingBase_cores (hi w) : (s.writeRingBase hi w).cores = s.cores := by simp [State.writeRingBase]
@[simp] theorem State.writeRingWin_cores (m hi w) : (s.writeRingWin m hi w).cores = s.cores := by simp [State.writeRingWin]
@[simp] theorem State.writeRingErr_cores (w) : (s.writeRingErr w).cores = s.cores := by simp [State.writeRingErr]

/-! ### Trace records and the trace port (R580 to R590) -/

@[simp] theorem State.mark_cores (w value) : (s.mark w value).cores = s.cores := by simp [State.mark]

@[simp] theorem State.arm_cores : s.arm.cores = s.cores := by
  unfold State.arm
  dsimp only
  split <;> simp

@[simp] theorem State.portSend_cores (r) : (s.portSend r).cores = s.cores := by simp [State.portSend]
@[simp] theorem State.writeDbgCtl_cores (value) : (s.writeDbgCtl value).cores = s.cores := by simp [State.writeDbgCtl]

/-! ### NVMe controllers (R406 to R417) -/

@[simp] theorem State.freeQueue_cores (qcn) : (s.freeQueue qcn).cores = s.cores := by simp [State.freeQueue]
@[simp] theorem State.dropController_cores (fn) : (s.dropController fn).cores = s.cores := by simp [State.dropController]

@[simp] theorem State.raiseEvent_cores (fn e) : (s.raiseEvent fn e).cores = s.cores := by
  unfold State.raiseEvent
  repeat' split
  all_goals simp

@[simp] theorem State.spendTurn_cores (fn) : (s.spendTurn fn).cores = s.cores := by simp [State.spendTurn]
@[simp] theorem State.fetchSq_cores (c q arb) : (s.fetchSq c q arb).cores = s.cores := by simp [State.fetchSq]

@[simp] theorem State.rejectNvme_cores (fn k) : (s.rejectNvme fn k).cores = s.cores := by
  induction k generalizing s with
  | zero => simp [State.rejectNvme]
  | succ k ih =>
    unfold State.rejectNvme
    dsimp only
    repeat' split
    all_goals simp [ih]

theorem State.takeNvme_cores {s t : State} {fn admin opcode q e} (h : s.takeNvme fn admin opcode = some (q, e, t)) : t.cores = s.cores := by
  unfold State.takeNvme at h
  dsimp only at h
  repeat' split at h
  all_goals cases h
  all_goals simp

@[simp] theorem State.adminCommand_cores {run : State → List Byte → State} (hr : ∀ s e, (run s e).cores = s.cores) (s : State) (fn opcode) :
    (s.adminCommand fn opcode run).cores = s.cores := by
  unfold State.adminCommand
  split
  next q e t h => simp [hr, State.takeNvme_cores h]
  · rfl

@[simp] theorem State.prpWrite_cores (fn e bs) : (s.prpWrite fn e bs).cores = s.cores :=
  foldl_fst_cores (fun _ _ => by simp) _ (s, bs)

@[simp] theorem State.openPage_cores (n fields) : (s.openPage n fields).2.cores = s.cores := by simp [State.openPage]

@[simp] theorem State.ioCommand_cores {run : State → Nat → List Byte → State} (hr : ∀ s q e, (run s q e).cores = s.cores)
    (s : State) (fn opcode) :
    (s.ioCommand fn opcode run).cores = s.cores := by
  unfold State.ioCommand
  split
  · rfl
  · split
    next q e t h => simp [hr, State.takeNvme_cores h]
    · rfl

/-! ### RDMA (R359 to R385) -/

@[simp] theorem State.startLost_cores (qcn) : (s.startLost qcn).cores = s.cores := by
  unfold State.startLost
  split <;> simp

@[simp] theorem State.pumpQp_cores (qcn k) : (s.pumpQp qcn k).cores = s.cores := by
  induction k generalizing s with
  | zero => simp [State.pumpQp]
  | succ k ih =>
    unfold State.pumpQp
    dsimp only
    repeat' split
    all_goals simp [ih]

@[simp] theorem State.post_cores (qcn ps) : (s.post qcn ps).cores = s.cores := by
  unfold State.post
  split <;> simp

@[simp] theorem State.urgent_cores (qcn q psn body) : (s.urgent qcn q psn body).cores = s.cores := by simp [State.urgent]

@[simp] theorem State.deliveryRecord_cores (x slot flags gen bytes resends) :
    (s.deliveryRecord x slot flags gen bytes resends).cores = s.cores := by
  simp [State.deliveryRecord]

@[simp] theorem State.deliverRefuse_cores (x status) : (s.deliverRefuse x status).cores = s.cores := by simp [State.deliverRefuse]

@[simp] theorem State.endDelivery_cores (d status) : (s.endDelivery d status).cores = s.cores := by
  unfold State.endDelivery
  dsimp only
  split <;> simp

@[simp] theorem State.setRegion_cores (r e) : (s.setRegion r e).cores = s.cores := by simp [State.setRegion]
@[simp] theorem State.registerNow_cores (x detail) : (s.registerNow x detail).cores = s.cores := by simp [State.registerNow]

@[simp] theorem State.endRevoke_cores (r n) : (s.endRevoke r n).cores = s.cores := by
  unfold State.endRevoke
  dsimp only
  repeat' split
  all_goals simp

@[simp] theorem State.settleRevokes_cores : s.settleRevokes.cores = s.cores := by simp [State.settleRevokes]
@[simp] theorem State.beginRevoke_cores (r x) : (s.beginRevoke r x).cores = s.cores := by simp [State.beginRevoke]

@[simp] theorem State.endQpWork_cores (qcn q cause owner others) : (s.endQpWork qcn q cause owner others).cores = s.cores := by
  unfold State.endQpWork
  refine (foldl_cores (fun t o => ?_) _ _).trans (foldl_cores (fun t d => by simp) _ s)
  dsimp only
  split <;> simp

@[simp] theorem State.qpError_cores (qcn cause owner others command) : (s.qpError qcn cause owner others command).cores = s.cores := by
  unfold State.qpError
  split <;> simp

@[simp] theorem State.cmdReject_cores : s.cmdReject.cores = s.cores := by simp [State.cmdReject]

@[simp] theorem State.cmdInit_cores (setup) : (s.cmdInit setup).cores = s.cores := by
  unfold State.cmdInit
  dsimp only
  split <;> simp

@[simp] theorem State.cmdMove_cores (src dst) : (s.cmdMove src dst).cores = s.cores := by
  unfold State.cmdMove
  split <;> simp

@[simp] theorem State.cmdErr_cores : s.cmdErr.cores = s.cores := by
  unfold State.cmdErr
  split <;> simp

@[simp] theorem State.unbindQp_cores (qcn) : (s.unbindQp qcn).cores = s.cores := by simp [State.unbindQp]

@[simp] theorem State.cmdReset_cores (unbind) : (s.cmdReset unbind).cores = s.cores := by
  unfold State.cmdReset
  dsimp only
  split <;> simp

@[simp] theorem State.qpCommand_cores (cmd) : (s.qpCommand cmd).cores = s.cores := by
  unfold State.qpCommand
  split <;> simp

@[simp] theorem State.goBack_cores (qcn) : (s.goBack qcn).cores = s.cores := by
  unfold State.goBack
  split <;> simp

@[simp] theorem State.ackedPacket_cores (p) : (s.ackedPacket p).cores = s.cores := by
  unfold State.ackedPacket
  split <;> simp

@[simp] theorem State.ackUpTo_cores (qcn psn) : (s.ackUpTo qcn psn).cores = s.cores := by
  unfold State.ackUpTo
  split <;> simp

@[simp] theorem State.settleShare_cores (qcn o) : (s.settleShare qcn o).cores = s.cores := by
  unfold State.settleShare
  repeat' split
  all_goals simp

@[simp] theorem State.responseIn_cores (qcn psn data) : (s.responseIn qcn psn data).cores = s.cores := by
  unfold State.responseIn
  dsimp only
  repeat' split
  all_goals simp

@[simp] theorem State.nakIn_cores (qcn psn code) : (s.nakIn qcn psn code).cores = s.cores := by
  unfold State.nakIn
  split <;> simp

@[simp] theorem State.setDelivery_cores (d) : (s.setDelivery d).cores = s.cores := by simp [State.setDelivery]

@[simp] theorem State.writePart_cores (d m) : (s.writePart d m).cores = s.cores := by
  unfold State.writePart
  split <;> simp

@[simp] theorem State.grantIn_cores (qcn m) : (s.grantIn qcn m).cores = s.cores := by
  unfold State.grantIn
  dsimp only
  repeat' split
  all_goals simp

@[simp] theorem State.declineIn_cores (m) : (s.declineIn m).cores = s.cores := by
  unfold State.declineIn
  split <;> simp

@[simp] theorem State.grantMessage_cores (qcn b) : (s.grantMessage qcn b).cores = s.cores := by simp [State.grantMessage]

@[simp] theorem State.grantCommand_cores (qcn typ b) : (s.grantCommand qcn typ b).cores = s.cores := by
  unfold State.grantCommand
  split <;> simp

@[simp] theorem State.deliverRun_cores (x) : (s.deliverRun x).cores = s.cores := by
  unfold State.deliverRun
  repeat' split
  all_goals simp

@[simp] theorem State.fenceDeliveries_cores : s.fenceDeliveries.cores = s.cores := by simp [State.fenceDeliveries]

@[simp] theorem State.unloadDeliveries_cores (h) : (s.unloadDeliveries h).cores = s.cores := by
  refine foldl_cores (fun t x => ?_) _ s
  split <;> simp

@[simp] theorem State.unbindRecipeQps_cores (h) : (s.unbindRecipeQps h).cores = s.cores := by simp [State.unbindRecipeQps]

@[simp] theorem State.reconRun_cores (x) : (s.reconRun x).cores = s.cores := by
  unfold State.reconRun
  dsimp only
  split <;> simp

@[simp] theorem State.nakError_cores (qcn q code) : (s.nakError qcn q code).cores = s.cores := by simp [State.nakError]
@[simp] theorem State.keyFails_cores (qcn q) : (s.keyFails qcn q).cores = s.cores := by simp [State.keyFails]
@[simp] theorem State.executed_cores (qcn q n ack) : (s.executed qcn q n ack).cores = s.cores := by simp [State.executed]

@[simp] theorem State.readRespond_cores (qcn q psn addr key len again) : (s.readRespond qcn q psn addr key len again).cores = s.cores := by
  unfold State.readRespond
  dsimp only
  split <;> simp

@[simp] theorem State.toFirmware_cores (qcn first data) : (s.toFirmware qcn first data).cores = s.cores := by simp [State.toFirmware]
@[simp] theorem State.sendIn_cores (qcn q first data) : (s.sendIn qcn q first data).cores = s.cores := by simp [State.sendIn]

@[simp] theorem State.writeIn_cores (qcn q first last addr key len imm data) :
    (s.writeIn qcn q first last addr key len imm data).cores = s.cores := by
  unfold State.writeIn
  repeat' split
  all_goals simp

@[simp] theorem State.readIn_cores (qcn q addr key len) : (s.readIn qcn q addr key len).cores = s.cores := by simp [State.readIn]

@[simp] theorem State.duplicateIn_cores (qcn psn q body) : (s.duplicateIn qcn psn q body).cores = s.cores := by
  unfold State.duplicateIn
  dsimp only
  repeat' split
  all_goals simp

@[simp] theorem State.requestIn_cores (qcn psn q body) : (s.requestIn qcn psn q body).cores = s.cores := by
  unfold State.requestIn
  extract_lets d
  split
  · split
    · simp
    · split <;> simp
  · split
    · split <;> simp
    · simp

@[simp] theorem State.answerCe_cores (qcn q) : (s.answerCe qcn q).cores = s.cores := by simp [State.answerCe]

@[simp] theorem State.packetIn_cores (qcn p) : (s.packetIn qcn p).cores = s.cores := by
  unfold State.packetIn
  dsimp only
  repeat' split
  all_goals simp

/-! ### Command rings and host delivery (R408, R420 to R426) -/

@[simp] theorem State.endGrant_cores (g bytes status) : (s.endGrant g bytes status).cores = s.cores := by simp [State.endGrant]
@[simp] theorem State.setGrants_cores (sub gs) : (s.setGrants sub gs).cores = s.cores := by simp [State.setGrants]
@[simp] theorem State.withdraw_cores (sub pick) : (s.withdraw sub pick).1.cores = s.cores := by simp [State.withdraw]
@[simp] theorem State.putHostDelivery_cores (d) : (s.putHostDelivery d).cores = s.cores := by simp [State.putHostDelivery]

@[simp] theorem State.endHostDelivery_cores (d status flags) : (s.endHostDelivery d status flags).cores = s.cores := by
  unfold State.endHostDelivery
  dsimp only
  split <;> simp

@[simp] theorem State.hostDeliverRefuse_cores (x status) : (s.hostDeliverRefuse x status).cores = s.cores := by
  simp [State.hostDeliverRefuse]

@[simp] theorem State.hostDeliverStart_cores (x) : (s.hostDeliverStart x).cores = s.cores := by
  unfold State.hostDeliverStart
  repeat' split
  all_goals simp

@[simp] theorem State.hostDeliverPayload_cores (x d fails) : (s.hostDeliverPayload x d fails).cores = s.cores := by
  unfold State.hostDeliverPayload
  extract_lets sub deadline
  split
  · simp
  · extract_lets s1 d1 n s2 s3
    have h2 : s2.cores = s1.cores := foldl_cores (fun _ _ => by simp) _ s1
    simp [s3, h2, s1]

@[simp] theorem State.hostDeliverSeal_cores (d g fails) : (s.hostDeliverSeal d g fails).cores = s.cores := by simp [State.hostDeliverSeal]

@[simp] theorem State.fenceHostDeliveries_cores : s.fenceHostDeliveries.cores = s.cores := by
  refine foldl_cores (fun t d => ?_) _ s
  dsimp only
  split <;> simp

/-! ### DMA (R427 to R434) -/

@[simp] theorem State.setChanAddr_cores (lo hi n a) : (s.setChanAddr lo hi n a).cores = s.cores := by simp [State.setChanAddr]
@[simp] theorem State.setTransfer_cores (n src dst count) : (s.setTransfer n src dst count).cores = s.cores := by simp [State.setTransfer]
@[simp] theorem State.setDmaRun_cores (n r) : (s.setDmaRun n r).cores = s.cores := by simp [State.setDmaRun]
@[simp] theorem State.dropDmaRun_cores (n) : (s.dropDmaRun n).cores = s.cores := by simp [State.dropDmaRun]
@[simp] theorem State.dmaDone_cores (n) : (s.dmaDone n).cores = s.cores := by simp [State.dmaDone]

@[simp] theorem State.dmaFail_cores (n cause status) : (s.dmaFail n cause status).cores = s.cores := by
  unfold State.dmaFail
  dsimp only
  repeat' split
  all_goals simp

@[simp] theorem State.dmaStart_cores (n) : (s.dmaStart n).cores = s.cores := by simp [State.dmaStart]

@[simp] theorem State.loadShadow_cores (n) : (s.loadShadow n).cores = s.cores := by
  unfold State.loadShadow
  extract_lets src dst flags s1 ctl s2
  have h1 : s1.cores = s.cores := s.setTransfer_cores n src dst _
  have h2 : s2.cores = s1.cores := s1.setReg_cores ctl _
  rw [State.setFlag_cores, h2, h1]

@[simp] theorem State.dmaGo_cores (n) : (s.dmaGo n).cores = s.cores := by simp [State.dmaGo]
@[simp] theorem State.dmaPause_cores (n) : (s.dmaPause n).cores = s.cores := by simp [State.dmaPause]

@[simp] theorem State.dmaResume_cores (n) : (s.dmaResume n).cores = s.cores := by
  unfold State.dmaResume
  dsimp only
  split <;> simp

@[simp] theorem State.dmaMove_cores (n r fails) : (s.dmaMove n r fails).cores = s.cores := by simp [State.dmaMove]

@[simp] theorem State.dmaAbort_cores : s.dmaAbort.cores = s.cores := by
  refine foldl_cores (fun t n => ?_) _ s
  split <;> simp

@[simp] theorem State.dmaLinkLost_cores : s.dmaLinkLost.cores = s.cores := by
  refine foldl_cores (fun t n => ?_) _ s
  split <;> simp

@[simp] theorem State.hostReset_cores : s.hostReset.cores = s.cores := by simp [State.hostReset]

/-! ### Buffer pools (R435 to R439) -/

@[simp] theorem State.setPoolFree_cores (n head free) : (s.setPoolFree n head free).cores = s.cores := by simp [State.setPoolFree]
@[simp] theorem State.setAllocated_cores (n i v) : (s.setAllocated n i v).cores = s.cores := by simp [State.setAllocated]
@[simp] theorem State.layBits_cores (old) : (s.layBits old).cores = s.cores := by simp [State.layBits]
@[simp] theorem State.writePoolCfg_cores (n value) : (s.writePoolCfg n value).cores = s.cores := by simp [State.writePoolCfg]

@[simp] theorem State.allocRun_cores (x) : (s.allocRun x).cores = s.cores := by
  unfold State.allocRun
  extract_lets size count out
  split
  · simp
  · iterate 3 split; · simp
    split
    · simp
    · extract_lets s1 s2 s3
      have h1 : s1.cores = s.cores := foldl_cores (fun t a => by split <;> simp) _ s
      simp [s3, s2, h1]

@[simp] theorem State.freeRun_cores (x) : (s.freeRun x).cores = s.cores := by simp [State.freeRun]

/-! ### Leases and time (R445 to R479) -/

@[simp] theorem State.tell_cores (m) : (s.tell m).cores = s.cores := by simp [State.tell]
@[simp] theorem State.setFenced_cores : s.setFenced.cores = s.cores := by simp [State.setFenced]
@[simp] theorem State.unfence_cores : s.unfence.cores = s.cores := by simp [State.unfence]
@[simp] theorem State.writeLeaseHi_cores (value) : (s.writeLeaseHi value).cores = s.cores := by simp [State.writeLeaseHi]
@[simp] theorem State.writeLease_cores (e) : (s.writeLease e).cores = s.cores := by simp [State.writeLease]
@[simp] theorem State.writeFence_cores (value) : (s.writeFence value).cores = s.cores := by simp [State.writeFence]

@[simp] theorem State.makeStep_cores : s.makeStep.cores = s.cores := by
  unfold State.makeStep
  split <;> simp

@[simp] theorem State.syncFree_cores : s.syncFree.cores = s.cores := by simp [State.syncFree]
@[simp] theorem State.trackOffset_cores (offset rate) : (s.trackOffset offset rate).cores = s.cores := by simp [State.trackOffset]
@[simp] theorem State.readNowLo_cores : (s.readNowLo).2.cores = s.cores := by simp [State.readNowLo]
@[simp] theorem State.readNowHi_cores : (s.readNowHi).2.cores = s.cores := by simp [State.readNowHi]

/-! ### Doubts, watchdogs, self-tests and replay (R551 to R574) -/

@[simp] theorem State.silencePorts_cores : s.silencePorts.cores = s.cores := by simp [State.silencePorts]
@[simp] theorem State.abortDeliveries_cores : s.abortDeliveries.cores = s.cores := by simp [State.abortDeliveries]

@[simp] theorem State.endReplay_cores (outcome temp load) : (s.endReplay outcome temp load).cores = s.cores := by
  unfold State.endReplay
  split <;> simp

@[simp] theorem State.kick_cores (cores) : (s.kick cores).cores = s.cores := by simp [State.kick]

@[simp] theorem State.clearCounters_cores (u) : (s.clearCounters u).cores = s.cores :=
  foldl_cores (fun _ _ => by simp) (errCountersOf u) s

@[simp] theorem State.clearUnits_cores (units) : (s.clearUnits units).cores = s.cores := by simp [State.clearUnits]
@[simp] theorem State.latch_cores (u) : (s.latch u).cores = s.cores := by simp [State.latch]

@[simp] theorem State.setRotation_cores (cls unit on) : (s.setRotation cls unit on).cores = s.cores := by
  unfold State.setRotation
  repeat' split
  all_goals simp

@[simp] theorem State.requestTest_cores (cls unit retire) : (s.requestTest cls unit retire).cores = s.cores := by simp [State.requestTest]

@[simp] theorem State.requestReplay_cores (value) : (s.requestReplay value).cores = s.cores := by
  unfold State.requestReplay
  dsimp only
  repeat' split
  all_goals simp

/-! ### Firmware images and the loader (R605 to R620) -/

@[simp] theorem State.showSec_cores : s.showSec.cores = s.cores := by simp [State.showSec]
@[simp] theorem State.attestStart_cores : s.attestStart.cores = s.cores := by simp [State.attestStart]
@[simp] theorem State.enterLoaderOnly_cores (reason) : (s.enterLoaderOnly reason).cores = s.cores := by simp [State.enterLoaderOnly]

/-! ### Polders, resets and power states (R480 to R504) -/

@[simp] theorem State.setPhase_cores (p) : (s.setPhase p).cores = s.cores := by simp [State.setPhase]
@[simp] theorem State.stopPolder_cores (p kind) : (s.stopPolder p kind).cores = s.cores := by simp [State.stopPolder]
@[simp] theorem State.resumePolder_cores (p kind) : (s.resumePolder p kind).cores = s.cores := by simp [State.resumePolder]
@[simp] theorem State.settleStops_cores : s.settleStops.cores = s.cores := by simp [State.settleStops]
@[simp] theorem State.writeStop_cores (p stop) : (s.writeStop p stop).cores = s.cores := by simp [State.writeStop]
@[simp] theorem State.writeSrc_cores (p pll) : (s.writeSrc p pll).cores = s.cores := by simp [State.writeSrc]
@[simp] theorem State.applyOpp_cores (p) : (s.applyOpp p).cores = s.cores := by simp [State.applyOpp]
@[simp] theorem State.applyOpps_cores : s.applyOpps.cores = s.cores := by simp [State.applyOpps]
@[simp] theorem State.writeOpp_cores (p opp) : (s.writeOpp p opp).cores = s.cores := by simp [State.writeOpp]
@[simp] theorem State.clearUnitsOf_cores (pick) : (s.clearUnitsOf pick).cores = s.cores := by simp [State.clearUnitsOf]
@[simp] theorem State.loseTrace_cores : s.loseTrace.cores = s.cores := by simp [State.loseTrace]
@[simp] theorem State.releasePolders_cores : s.releasePolders.cores = s.cores := by simp [State.releasePolders]
@[simp] theorem State.beginLadder_cores (kind pick) : (s.beginLadder kind pick).cores = s.cores := by simp [State.beginLadder]
@[simp] theorem State.trainDram_cores (chans dram) : (s.trainDram chans dram).cores = s.cores := by simp [State.trainDram]
@[simp] theorem State.releasePads_cores (polders) : (s.releasePads polders).cores = s.cores := by simp [State.releasePads]
@[simp] theorem State.setMode_cores (m) : (s.setMode m).cores = s.cores := by simp [State.setMode]
@[simp] theorem State.enterMs3_cores : s.enterMs3.cores = s.cores := by simp [State.enterMs3]
@[simp] theorem State.leaveMs3_cores (m) : (s.leaveMs3 m).cores = s.cores := by simp [State.leaveMs3]

@[simp] theorem State.decideMs4_cores : s.decideMs4.cores = s.cores := by
  unfold State.decideMs4
  split <;> simp

@[simp] theorem State.writeSave_cores : s.writeSave.cores = s.cores := by
  unfold State.writeSave
  extract_lets rings m1 m2 m3 m4 m5 crc m p t
  have ht : t.cores = s.cores := s.setPower_cores _
  rw [State.setFld_cores, State.setFlag_cores, ht]

@[simp] theorem State.restoreSave_cores : s.restoreSave.cores = s.cores := by
  unfold State.restoreSave
  extract_lets m s1 net s2
  have h1 : s1.cores = s.cores := foldl_cores (fun _ _ => by simp) _ s
  exact (foldl_cores (fun _ _ => by simp) _ s2).trans h1

@[simp] theorem State.gatePolder_cores (p) : (s.gatePolder p).cores = s.cores := by simp [State.gatePolder]
@[simp] theorem State.beginExit_cores : s.beginExit.cores = s.cores := by simp [State.beginExit]

@[simp] theorem State.wake_cores (src) : (s.wake src).cores = s.cores := by
  unfold State.wake
  dsimp only
  split <;> simp

@[simp] theorem State.endExit_cores : s.endExit.cores = s.cores := by simp [State.endExit]

/-! ### Unloading a recipe (R122, R385) -/

@[simp] theorem State.discardRing_cores (cls ring) : (s.discardRing cls ring).cores = s.cores := by simp [State.discardRing]
@[simp] theorem State.releaseSlots_cores (h) : (s.releaseSlots h).cores = s.cores := by simp [State.releaseSlots]

/-! ### What every engine does with its rings (R87, R99, R102) -/

@[simp] theorem State.spendRing_cores (cls ring) : (s.spendRing cls ring).cores = s.cores := by simp [State.spendRing]

@[simp] theorem State.take_cores (x failed) : (s.take x failed).cores = s.cores := by
  unfold State.take
  dsimp only
  split <;> simp

@[simp] theorem State.watchWord_cores (fmt v) : (s.watchWord fmt v).2.cores = s.cores := by
  unfold State.watchWord
  split <;> simp

@[simp] theorem State.watch_cores (i x r seen) : (s.watch i x r seen).cores = s.cores := by simp [State.watch]
@[simp] theorem State.watches_cores (x r seen) : (s.watches x r seen).cores = s.cores := by simp [State.watches]

/-! ### Hold-up bank and flush (R505 to R529) -/

@[simp] theorem State.applyLimit_cores : s.applyLimit.cores = s.cores := by simp [State.applyLimit]
@[simp] theorem State.setLimit_cores (hu) : (s.setLimit hu).cores = s.cores := by simp [State.setLimit]
@[simp] theorem State.showBank_cores : s.showBank.cores = s.cores := by simp [State.showBank]
@[simp] theorem State.abandonTest_cores : s.abandonTest.cores = s.cores := by simp [State.abandonTest]
@[simp] theorem State.powerOff_cores : s.powerOff.cores = s.cores := by simp [State.powerOff]
@[simp] theorem State.writeMgtCtl_cores (w value) : (s.writeMgtCtl w value).cores = s.cores := by simp [State.writeMgtCtl]

@[simp] theorem State.flushUnit_cores (t avoid kind lua data) : (s.flushUnit t avoid kind lua data).2.cores = s.cores := by
  unfold State.flushUnit
  dsimp only
  repeat' split
  all_goals simp

@[simp] theorem State.flushJournal_cores (targets k) : (s.flushJournal targets k).2.cores = s.cores := by
  induction k generalizing s targets with
  | zero => simp [State.flushJournal]
  | succ k ih =>
    unfold State.flushJournal
    split
    · rfl
    · rfl
    · extract_lets rs
      split
      next t e => simpa [ih] using cores_of_snd e
      next a t e => simpa [ih] using cores_of_snd e

@[simp] theorem State.endPrograms_cores (st) : (s.endPrograms st).cores = s.cores := by
  unfold State.endPrograms
  dsimp only
  split <;> simp

@[simp] theorem State.writeCursors_cores (f journal targets) : (s.writeCursors f journal targets).cores = s.cores := by
  unfold State.writeCursors
  split <;> simp

@[simp] theorem State.writeFlush_cores (f) : (s.writeFlush f).cores = s.cores := by simp [State.writeFlush]
@[simp] theorem State.askTest_cores : s.askTest.cores = s.cores := by simp [State.askTest]
@[simp] theorem State.writeRestart_cores (n value) : (s.writeRestart n value).cores = s.cores := by simp [State.writeRestart]

/-! ### Identity and firmware (R604 to R619) -/

@[simp] theorem State.answerMail_cores (status response) : (s.answerMail status response).cores = s.cores := by
  unfold State.answerMail
  extract_lets s1
  rw [State.setReg_cores]
  rfl

@[simp] theorem State.reserveIndex_cores : s.reserveIndex.cores = s.cores := by simp [State.reserveIndex]
@[simp] theorem State.attest_cores : s.attest.cores = s.cores := by simp [State.attest]
@[simp] theorem State.readCert_cores : s.readCert.cores = s.cores := by simp [State.readCert]
@[simp] theorem State.debugChallenge_cores : s.debugChallenge.cores = s.cores := by simp [State.debugChallenge]
@[simp] theorem State.debugUnlock_cores : s.debugUnlock.cores = s.cores := by simp [State.debugUnlock]

@[simp] theorem State.mailOp_cores (op) : (s.mailOp op).cores = s.cores := by
  unfold State.mailOp
  split <;> simp

@[simp] theorem State.commitSvn_cores : s.commitSvn.cores = s.cores := by
  unfold State.commitSvn
  split <;> simp

@[simp] theorem State.armActivation_cores (value) : (s.armActivation value).cores = s.cores := by simp [State.armActivation]
@[simp] theorem State.disarm_cores : s.disarm.cores = s.cores := by simp [State.disarm]

@[simp] theorem State.fwComplete_cores (sender status) : (s.fwComplete sender status).cores = s.cores := by
  unfold State.fwComplete
  split <;> simp

@[simp] theorem State.discardBlock_cores (i) : (s.discardBlock i).cores = s.cores := by simp [State.discardBlock]
@[simp] theorem State.stageBytes_cores (off data) : (s.stageBytes off data).2.cores = s.cores := by simp [State.stageBytes]
@[simp] theorem State.refuseImage_cores (sender reason) : (s.refuseImage sender reason).cores = s.cores := by simp [State.refuseImage]
@[simp] theorem State.commitDone_cores (c) : (s.commitDone c).cores = s.cores := by simp [State.commitDone]

@[simp] theorem State.runCommit_cores (c) : (s.runCommit c).cores = s.cores := by
  unfold State.runCommit
  dsimp only
  repeat' split
  all_goals simp

@[simp] theorem State.commitImage_cores (sender ca) : (s.commitImage sender ca).cores = s.cores := by simp [State.commitImage]
@[simp] theorem State.fwCommit_cores (sender fs ca) : (s.fwCommit sender fs ca).cores = s.cores := by simp [State.fwCommit]

@[simp] theorem State.nextCommit_cores (k) : (s.nextCommit k).cores = s.cores := by
  induction k generalizing s with
  | zero => simp [State.nextCommit]
  | succ k ih =>
    unfold State.nextCommit
    split <;> simp [ih]

@[simp] theorem State.imageLost_cores (c) : (s.imageLost c).cores = s.cores := by simp [State.imageLost]

/-! ### Register reads and writes (R12, R13, R624 to R631) -/

@[simp] theorem State.clearOvf_cores (u k value) : (s.clearOvf u k value).cores = s.cores := by simp [State.clearOvf]

@[simp] theorem State.writeWindow_cores (w value) : (s.writeWindow w value).cores = s.cores := by
  unfold State.writeWindow
  split <;> simp

@[simp] theorem State.plainWrite_cores (off value) : (s.plainWrite off value).cores = s.cores := by
  unfold State.plainWrite
  split <;> simp

@[simp] theorem State.writeClk_cores (p value) : (s.writeClk p value).cores = s.cores := by simp [State.writeClk]
@[simp] theorem State.writeMGT_cores (w off value) : (s.writeMGT w off value).cores = s.cores := by simp [State.writeMGT]
@[simp] theorem State.writeGTC_cores (off value) : (s.writeGTC off value).cores = s.cores := by simp [State.writeGTC]
@[simp] theorem State.writeOvfIrq_cores (value) : (s.writeOvfIrq value).cores = s.cores := by simp [State.writeOvfIrq]
@[simp] theorem State.writeReplayCfg_cores (value) : (s.writeReplayCfg value).cores = s.cores := by simp [State.writeReplayCfg]
@[simp] theorem State.writePrioCfg_cores (value) : (s.writePrioCfg value).cores = s.cores := by simp [State.writePrioCfg]
@[simp] theorem State.writeNet_cores (off value) : (s.writeNet off value).cores = s.cores := by simp [State.writeNet]
@[simp] theorem State.writeDmaCtl_cores (n value) : (s.writeDmaCtl n value).cores = s.cores := by simp [State.writeDmaCtl]
@[simp] theorem State.writeHost_cores (off value) : (s.writeHost off value).cores = s.cores := by simp [State.writeHost]
@[simp] theorem State.writeDBG_cores (w off value) : (s.writeDBG w off value).cores = s.cores := by simp [State.writeDBG]
@[simp] theorem State.writeSEC_cores (off value) : (s.writeSEC off value).cores = s.cores := by simp [State.writeSEC]
@[simp] theorem State.writeEngine_cores (off value) : (s.writeEngine off value).cores = s.cores := by simp [State.writeEngine]

end

/-! ### Answers that may be absent -/

theorem State.takeCommand_cores {s t : State} {src opcode ref e} (h : s.takeCommand src opcode = some (ref, e, t)) : t.cores = s.cores := by
  unfold State.takeCommand at h
  repeat' split at h
  all_goals cases h
  all_goals simp

theorem State.stageItem_cores {s t : State} {handle r v i j} (h : s.stageItem handle r v i = some (j, t)) : t.cores = s.cores := by
  unfold State.stageItem at h
  dsimp only at h
  repeat' split at h
  all_goals cases h
  all_goals simp

theorem State.bindNvme_cores {s t : State} {fn qid q} (h : s.bindNvme fn qid = some (q, t)) : t.cores = s.cores := by
  unfold State.bindNvme at h
  obtain ⟨_, _, e⟩ := Option.map_eq_some_iff.mp h
  cases e
  rfl

/-- Every state in an answer that may be absent has the cores of `s`. -/
def KeepsCoresIn (s : State) (o : Option (Word32 × State)) : Prop := ∀ r ∈ o, r.2.cores = s.cores

theorem keepsCoresIn_ite {s : State} {c : Prop} [Decidable c] {a b : Option (Word32 × State)} (ha : KeepsCoresIn s a)
    (hb : KeepsCoresIn s b) : KeepsCoresIn s (if c then a else b) := by
  split
  · exact ha
  · exact hb

theorem State.readOther_keepsCoresIn (s : State) (off) : KeepsCoresIn s (s.readOther off) := by
  unfold State.readOther
  repeat' refine keepsCoresIn_ite ?_ ?_
  all_goals simp [KeepsCoresIn]

/-- The state behind a register door that is not dead. -/
def RegDoor.KeepsCores (s : State) : RegDoor → Prop
  | .opens t => t.cores = s.cores
  | .waits t => t.cores = s.cores
  | .dead => True

theorem State.regDoor_keepsCores (s : State) (host off) : (s.regDoor host off).KeepsCores s := by
  unfold State.regDoor
  split
  · rfl
  split
  · rfl
  split
  · trivial
  · extract_lets woken
    have hw : woken.cores = s.cores := by
      dsimp only [woken]
      split
      · simp
      · simp
      · simp
      · rfl
    split <;> exact hw

theorem State.regDoor_opens_cores {s t : State} {host off} (h : s.regDoor host off = .opens t) : t.cores = s.cores := by
  have := s.regDoor_keepsCores host off
  rwa [h] at this

theorem State.regDoor_waits_cores {s t : State} {host off} (h : s.regDoor host off = .waits t) : t.cores = s.cores := by
  have := s.regDoor_keepsCores host off
  rwa [h] at this

end Sys2Proof.Machine

/-!
SUPPORT. What reaches the cores: every shared operation that writes a core keeps each core's STATUS legal (R37, R66, R67).
-/

namespace Sys2Proof.Machine

/-- Every core's STATUS is legal (R37, R66, R67). -/
def LegalCores (v : Vector Core 16) : Prop := ∀ c : CoreId, v[c].statusLegal

theorem LegalCores.core {s : State} (h : LegalCores s.cores) (c : CoreId) : (s.core c).statusLegal := h c

theorem legalCores_reset : LegalCores (Vector.replicate 16 Core.reset) := fun c => by
  simpa using statusLegal_reset

@[simp] theorem legalCores_ite (c : Prop) [Decidable c] (v w : Vector Core 16) :
    LegalCores (if c then v else w) ↔ (c → LegalCores v) ∧ (¬c → LegalCores w) := by
  split <;> simp [*]

theorem LegalCores.set {v : Vector Core 16} (h : LegalCores v) (c : CoreId) {k : Core} (hk : k.statusLegal) :
    LegalCores (v.set c k) := fun d => by
  by_cases e : d = c
  · subst e; simpa using hk
  · have : c.val ≠ d.val := fun x => e (Fin.ext x.symm)
    simpa [this] using h d

section
variable {s : State}

theorem State.setCore_legal (h : LegalCores s.cores) (c) {k : Core} (hk : k.statusLegal) : LegalCores (s.setCore c k).cores := h.set c hk

/-- A core written with its STATUS as it was. -/
theorem State.setCore_legal_of_status (h : LegalCores s.cores) (c) {k : Core} (e : k.status = (s.core c).status) :
    LegalCores (s.setCore c k).cores := h.set c (statusLegal_status (h.core c) e)

theorem foldl_legal {α : Type} {f : State → α → State} {l : List α} (h : LegalCores s.cores)
    (hf : ∀ s a, LegalCores s.cores → LegalCores (f s a).cores) : LegalCores (l.foldl f s).cores := by
  induction l generalizing s with
  | nil => exact h
  | cons a l ih => exact ih (hf s a h)

/-! ### Halts, traps and interrupts -/

theorem State.haltOne_legal (h : LegalCores s.cores) (c cause) : LegalCores (s.haltOne c cause).cores := by
  unfold State.haltOne
  rw [State.trigger_cores, State.emit_cores]
  exact State.setCore_legal_of_status h c rfl

theorem State.enterHalt_legal (h : LegalCores s.cores) (c cause) : LegalCores (s.enterHalt c cause).cores := by
  unfold State.enterHalt
  extract_lets t
  have ht : LegalCores t.cores := State.haltOne_legal h c cause
  split
  · refine foldl_legal ht fun u d hu => ?_
    split
    · exact State.haltOne_legal hu d 4
    · exact hu
  · exact ht

theorem State.coreEnds_legal (h : LegalCores s.cores) (c) : LegalCores (s.coreEnds c).cores := by
  unfold State.coreEnds
  split
  · split
    · rw [State.settleRecipe_cores]
      exact State.setCore_legal_of_status h c rfl
    · exact h
  · exact h

theorem State.stopCore_legal (h : LegalCores s.cores) (c) : LegalCores (s.stopCore c).cores := by
  unfold State.stopCore
  extract_lets k
  split
  · exact h
  · exact State.setCore_legal_of_status h c rfl

theorem State.coreFails_legal (h : LegalCores s.cores) (c status exception) : LegalCores (s.coreFails c status exception).cores := by
  unfold State.coreFails
  split
  · split
    · extract_lets i new kept t t' u
      rw [State.settleRecipe_cores]
      have hu : LegalCores u.cores := State.setCore_legal_of_status (s := t) h c rfl
      exact foldl_legal hu fun v d hv => State.stopCore_legal hv d
    · exact h
  · exact h

theorem State.raise_legal (h : LegalCores s.cores) (c code val) : LegalCores (s.raise c code val).cores := by
  unfold State.raise
  extract_lets k t
  split
  · rw [State.logFault_cores]
    exact State.enterHalt_legal h c 5
  · have ht : LegalCores t.cores := State.setCore_legal h c (Core.trapEntry_holds (h.core c) _ _ _)
    split
    · exact State.coreFails_legal ht c _ true
    · exact ht

theorem State.takeInterrupt_legal (h : LegalCores s.cores) (c n) : LegalCores (s.takeInterrupt c n).cores := by
  unfold State.takeInterrupt
  extract_lets k k'
  have hk : k'.statusLegal := legal_ite (fun _ => Core.retire_holds (h.core c) c) (fun _ => h.core c)
  exact State.setCore_legal h c (Core.trapEntry_holds hk _ _ _)

/-! ### How an instruction runs -/

theorem State.issue_legal {t : State} (h : LegalCores s.cores) {c} (e : s.issue c = .acted t) : LegalCores t.cores := by
  unfold State.issue at e
  dsimp only at e
  repeat' split at e
  all_goals cases e
  · exact State.takeInterrupt_legal h c _
  · exact State.enterHalt_legal h c 2
  · exact State.raise_legal h c _ _
  · exact State.raise_legal h c _ _
  · exact State.raise_legal h c _ _

/-- An instruction keeps legal cores where its body does. -/
theorem State.runInsn_legal (h : LegalCores s.cores) (c word legal) {body : State → State}
    (hb : LegalCores s.cores → LegalCores (body s).cores) : LegalCores (s.runInsn c word legal body).cores := by
  unfold State.runInsn
  split
  · exact h
  next e => exact State.issue_legal h e
  · split
    · exact hb h
    · exact State.raise_legal h c _ _

theorem State.checkAccess_legal {t : State} (h : LegalCores s.cores) {c kind a n scalar} (e : s.checkAccess c kind a n scalar = some t) :
    LegalCores t.cores := by
  unfold State.checkAccess at e
  extract_lets store at e
  split at e
  · cases e; exact State.raise_legal h c _ _
  · split at e
    · cases e; exact State.enterHalt_legal h c 3
    · cases e; exact State.raise_legal h c _ _
    · split at e
      · cases e; exact State.raise_legal h c _ _
      split at e
      · cases e; exact State.raise_legal h c _ _
      · cases e

/-- The core that retires after a change that left its STATUS legal. -/
theorem State.setCore_retire_legal (h : LegalCores s.cores) (c) {k : Core} (hk : k.statusLegal) :
    LegalCores (s.setCore c (k.retire c)).cores := State.setCore_legal h c (Core.retire_holds hk c)

theorem State.writesReg_legal (h : LegalCores s.cores) (c word legal rd value) : LegalCores (s.writesReg c word legal rd value).cores :=
  State.runInsn_legal h c word legal fun h => State.setCore_retire_legal h c (Core.setReg_holds (h.core c) _ _)

theorem State.rrrOp_legal (h : LegalCores s.cores) (c op func f g) : LegalCores (s.rrrOp c op func f g).cores :=
  State.writesReg_legal h c _ _ _ _

theorem State.unaryOp_legal (h : LegalCores s.cores) (c func f g) : LegalCores (s.unaryOp c func f g).cores :=
  State.writesReg_legal h c _ _ _ _

theorem State.rriOp_legal (h : LegalCores s.cores) (c op f g) : LegalCores (s.rriOp c op f g).cores :=
  State.writesReg_legal h c _ _ _ _

theorem State.shiftOp_legal (h : LegalCores s.cores) (c sel f g) : LegalCores (s.shiftOp c sel f g).cores :=
  State.writesReg_legal h c _ _ _ _

theorem State.branchOp_legal (h : LegalCores s.cores) (c op f taken) : LegalCores (s.branchOp c op f taken).cores :=
  State.runInsn_legal h c _ _ fun h => State.setCore_legal h c (Core.retireTo_holds (h.core c) c _)

theorem State.vecOp_legal (h : LegalCores s.cores) (c oper f) : LegalCores (s.vecOp c oper f).cores :=
  State.runInsn_legal h c _ _ fun h => State.setCore_retire_legal h c (Core.setVreg_holds (h.core c) _ _)

theorem State.vecFloatOp_legal (h : LegalCores s.cores) (c oper f) : LegalCores (s.vecFloatOp c oper f).cores :=
  State.runInsn_legal h c _ _ fun h => State.setCore_retire_legal h c (Core.raiseFlags_holds (Core.setVreg_holds (h.core c) _ _) _)

theorem State.csrOp_legal (h : LegalCores s.cores) (c fn f legal new) : LegalCores (s.csrOp c fn f legal new).cores := by
  refine State.runInsn_legal h c _ _ fun h => ?_
  dsimp only
  split
  · exact State.raise_legal h c _ _
  · split
    · exact State.raise_legal h c _ _
    split
    · exact State.raise_legal h c _ _
    · refine State.setCore_retire_legal h c (Core.setReg_holds ?_ _ _)
      split
      · exact Core.csrWrite_holds (h.core c) _ _
      · exact h.core c

theorem State.loadOp_legal (h : LegalCores s.cores) (c op n f ext) : LegalCores (s.loadOp c op n f ext).cores := by
  refine State.runInsn_legal h c _ _ fun h => ?_
  dsimp only
  split
  next e => exact State.checkAccess_legal h e
  · exact State.setCore_retire_legal h c (Core.setReg_holds (h.core c) _ _)

theorem State.storeOp_legal (h : LegalCores s.cores) (c op n f) : LegalCores (s.storeOp c op n f).cores := by
  refine State.runInsn_legal h c _ _ fun h => ?_
  dsimp only
  split
  next e => exact State.checkAccess_legal h e
  · exact State.setCore_retire_legal (s := s.writeDram _ _) h c (h.core c)

theorem State.atomOp_legal (h : LegalCores s.cores) (c oper f) : LegalCores (s.atomOp c oper f).cores := by
  refine State.runInsn_legal h c _ _ fun h => ?_
  dsimp only
  split
  next e => exact State.checkAccess_legal h e
  · exact State.setCore_retire_legal (s := s.writeDram _ _) h c (Core.setReg_holds (h.core c) _ _)

/-! ### Halts from outside, software interrupts and tickets -/

theorem State.requestHalt_legal (h : LegalCores s.cores) (c) : LegalCores (s.requestHalt c).cores := by
  unfold State.requestHalt
  split
  · exact State.enterHalt_legal h c 1
  · exact h

theorem State.leaveHalt_legal (h : LegalCores s.cores) (c) : LegalCores (s.leaveHalt c).cores := by
  unfold State.leaveHalt
  extract_lets k
  split
  · rw [State.emit_cores]
    exact State.setCore_legal_of_status h c rfl
  · exact h

theorem State.writeSwi_legal (h : LegalCores s.cores) (set clear) : LegalCores (s.writeSwi set clear).cores :=
  foldl_legal h fun _ c h => State.setCore_legal_of_status h c rfl

theorem Core.queueTicket_legal {k : Core} (h : k.statusLegal) (t) : (k.queueTicket t).statusLegal :=
  legal_ite (fun _ => h) (fun _ => h)

/-- A ticket completes at its core, which may queue it (R102). -/
theorem Core.completeTicket_queue_legal {k : Core} (h : k.statusLegal) (t u : Ticket) (status) (b : Bool) :
    (if b then (k.completeTicket t status).queueTicket u else k.completeTicket t status).statusLegal :=
  have hc := Core.completeTicket_holds h t status
  legal_ite (fun _ => Core.queueTicket_legal hc u) (fun _ => hc)

theorem State.completeTaken_legal (h : LegalCores s.cores) (x r) : LegalCores (s.completeTaken x r).cores := by
  unfold State.completeTaken
  extract_lets a t k u v rg bad w
  have ht : LegalCores t.cores := by simpa [t] using h
  have hw : LegalCores w.cores := State.setCore_legal ht x.core (Core.completeTicket_queue_legal (ht.core x.core) _ _ _ _)
  split
  · rwa [State.emit_cores]
  · exact hw

theorem State.endTaken_legal (h : LegalCores s.cores) (x status word) : LegalCores (s.endTaken x status word).cores :=
  State.completeTaken_legal h x _

theorem State.popTicket_legal (h : LegalCores s.cores) (c) : LegalCores (s.popTicket c).2.cores := by
  unfold State.popTicket
  extract_lets k
  split
  · exact h
  · exact State.setCore_legal_of_status h c rfl

theorem State.writeTkiStat_legal (h : LegalCores s.cores) (c w) : LegalCores (s.writeTkiStat c w).cores :=
  State.setCore_legal_of_status h c rfl

theorem State.abortUntaken_legal (h : LegalCores s.cores) : LegalCores s.abortUntaken.cores :=
  foldl_legal h fun _ _ h => foldl_legal h fun _ _ h =>
    State.setCore_legal h _ (Core.completeTicket_queue_legal (h.core _) _ _ _ _)

theorem State.abortTaken_legal (h : LegalCores s.cores) (pick) : LegalCores (s.abortTaken pick).cores := by
  refine foldl_legal (l := s.taken.filter pick) h fun t x ht => ?_
  split
  · exact State.completeTaken_legal ht x _
  · exact State.endTaken_legal ht x _ _

/-! ### Recipes -/

theorem State.placeRecipe_legal (h : LegalCores s.cores) (m p handle) : LegalCores (s.placeRecipe m p handle).cores := by
  unfold State.placeRecipe
  extract_lets t act slots text
  split
  extract_lets s1 s2 s3 s4 r
  have h1 : LegalCores s1.cores := foldl_legal h fun u cb hu => State.setCore_legal_of_status (s := u.writeDram _ _) hu cb.1 rfl
  have h4 : s4.cores = s3.cores := foldl_cores (fun _ _ => by simp) _ s3
  exact h4.symm ▸ h1

theorem State.releaseRecipe_legal (h : LegalCores s.cores) (handle r) : LegalCores (s.releaseRecipe handle r).cores := by
  unfold State.releaseRecipe
  extract_lets s1 s2 s3
  have h1 : LegalCores s1.cores := by simpa [s1] using h
  have h2 : LegalCores s2.cores := foldl_legal h1 fun _ c h => State.setCore_legal h c statusLegal_reset
  have h3 : s3.cores = s2.cores := foldl_cores (fun _ _ => by simp) _ s2
  exact h3 ▸ h2

theorem State.settleUnload_legal (h : LegalCores s.cores) (handle) : LegalCores (s.settleUnload handle).cores := by
  unfold State.settleUnload
  split
  next r _ =>
    split
    · exact h
    · rw [foldl_cores (fun _ _ => by simp)]
      exact State.releaseRecipe_legal h handle r
  · exact h

theorem State.settleUnloads_legal (h : LegalCores s.cores) : LegalCores s.settleUnloads.cores :=
  foldl_legal h fun _ e h => State.settleUnload_legal h e.1

/-! ### Core resets, sheds and the tick -/

theorem State.resetCore_legal (h : LegalCores s.cores) (c) : LegalCores (s.resetCore c).cores :=
  State.setCore_legal h c statusLegal_reset

theorem State.settleCores_legal (h : LegalCores s.cores) : LegalCores s.settleCores.cores :=
  foldl_legal h fun t c h => by
    split
    · exact State.resetCore_legal h c
    · exact h

theorem State.writeCoreRst_legal (h : LegalCores s.cores) (value) : LegalCores (s.writeCoreRst value).cores := by
  refine State.settleCores_legal (foldl_legal h fun t c h => ?_)
  simpa using h

theorem State.settleAll_legal (h : LegalCores s.cores) : LegalCores s.settleAll.cores := by
  rw [State.settleAll, State.settleStops_cores]
  exact State.settleCores_legal (State.settleUnloads_legal h)

theorem State.tick_legal (h : LegalCores s.cores) : LegalCores s.tick.cores := by
  unfold State.tick
  split
  · exact State.settleAll_legal (by simpa using h)
  · exact h

end

theorem State.loseShed_legal (s : State) : LegalCores s.loseShed.cores := by
  simp [State.loseShed, legalCores_reset]

theorem State.shed_legal (s : State) (f) : LegalCores (s.shed f).cores := State.loseShed_legal _

theorem State.sleep_legal (s : State) : LegalCores s.sleep.cores := by
  simp [State.sleep, legalCores_reset, -List.foldl_reverse]

theorem State.coldReset_legal (s : State) : LegalCores s.coldReset.cores := by
  rw [State.coldReset, State.attestStart_cores]
  exact legalCores_reset

theorem State.warmClear_legal (s : State) : LegalCores s.warmClear.cores := by
  simp [State.warmClear, legalCores_reset]

section
variable {s : State}

/-! ### The safe state, resets and flushes -/

theorem State.enterSafe_legal (h : LegalCores s.cores) : LegalCores s.enterSafe.cores := by
  simp [State.enterSafe, State.abortUntaken_legal, State.abortTaken_legal, h]

theorem State.doubt_legal (h : LegalCores s.cores) (code polder detail value cuts) :
    LegalCores (s.doubt code polder detail value cuts).cores := by
  unfold State.doubt
  extract_lets entry s1 s2
  have h2 : LegalCores s2.cores := by simpa [s2, s1] using h
  split
  · split
    · exact h2
    split
    · exact h2
    · exact State.enterSafe_legal (by simpa using h2)
  · split
    · exact h2
    · exact State.enterSafe_legal (by simpa using h2)

theorem State.writeForce_legal (h : LegalCores s.cores) (w value) : LegalCores (s.writeForce w value).cores := by
  unfold State.writeForce
  extract_lets admitted
  split
  · exact State.doubt_legal h 8 polPA 0 0 false
  · exact h

theorem State.startLoader_legal (h : LegalCores s.cores) (eepromOk loaderOk) : LegalCores (s.startLoader eepromOk loaderOk).cores := by
  unfold State.startLoader
  split
  · exact State.doubt_legal (by simpa using h) 7 polPA 0 0 false
  split
  · simpa using h
  split
  · simpa using h
  · simpa using h

theorem State.finishWarm_legal (h : LegalCores s.cores) (loaderOk) : LegalCores (s.finishWarm loaderOk).cores :=
  State.startLoader_legal (by simpa using h) true loaderOk

theorem State.warmReset_legal (s : State) (loaderOk) : LegalCores (s.warmReset loaderOk).cores := by
  unfold State.warmReset
  extract_lets t
  have ht : LegalCores t.cores := s.warmClear_legal
  split
  · simpa using ht
  · exact State.finishWarm_legal ht loaderOk

theorem State.writeWarm_legal (h : LegalCores s.cores) (w value loaderOk) : LegalCores (s.writeWarm w value loaderOk).cores := by
  unfold State.writeWarm
  split
  · exact s.warmReset_legal loaderOk
  · exact h

theorem State.resetPolder_legal (h : LegalCores s.cores) (p) : LegalCores (s.resetPolder p).cores := by
  unfold State.resetPolder
  split
  · exact h
  · extract_lets s1 s2 s3
    have h1 : LegalCores s1.cores := State.abortTaken_legal (by simpa using h) _
    have h2 : s2.cores = s1.cores := foldl_cores (fun _ _ => by simp) _ s1
    simpa [s3, h2] using h1

theorem State.writePolderReset_legal (h : LegalCores s.cores) (w value) : LegalCores (s.writePolderReset w value).cores := by
  unfold State.writePolderReset
  split
  · exact State.resetPolder_legal h _
  · exact h

theorem State.powerFail_legal (h : LegalCores s.cores) (cause) : LegalCores (s.powerFail cause).cores := by
  unfold State.powerFail
  split
  · exact h
  · exact h
  · simpa using h
  · split
    · exact h
    · exact State.shed_legal _ _
  · exact State.shed_legal _ _

theorem State.imageWritten_legal (h : LegalCores s.cores) (c loaderOk) : LegalCores (s.imageWritten c loaderOk).cores := by
  unfold State.imageWritten
  extract_lets n s1 s2 s3 s4
  split
  · exact State.warmReset_legal _ _
  · simpa [s4, s3, s2, s1] using h

/-! ### Registers read and written -/

/-- Every state in an answer that may be absent has legal cores. -/
def LegalIn (o : Option (Word32 × State)) : Prop := ∀ r ∈ o, LegalCores r.2.cores

theorem LegalIn.ite {c : Prop} [Decidable c] {a b : Option (Word32 × State)} (ha : LegalIn a) (hb : LegalIn b) :
    LegalIn (if c then a else b) := by
  split
  · exact ha
  · exact hb

theorem LegalIn.some {w : Word32} {t : State} (h : LegalCores t.cores) : LegalIn (some (w, t)) := fun _ e => by cases e; exact h

theorem State.readCC_legal (h : LegalCores s.cores) (off) : LegalIn (s.readCC off) := by
  unfold State.readCC
  refine LegalIn.ite (LegalIn.some h) (LegalIn.ite (LegalIn.some h) (LegalIn.ite (LegalIn.some h) ?_))
  split
  · exact LegalIn.some h
  · split
    · exact LegalIn.some (State.popTicket_legal h _)
    · exact LegalIn.some h
    · exact fun r hr => absurd hr (Option.not_mem_none r)

theorem State.readReg_legal (h : LegalCores s.cores) (off) : LegalCores (s.readReg off).2.cores := by
  unfold State.readReg
  split
  · exact h
  split
  · exact h
  split
  · exact h
  split
  next r e =>
    have hr : LegalIn (if unitAt off = Option.some unitCC then s.readCC off else s.readOther off) :=
      LegalIn.ite (State.readCC_legal h off) fun r hr => by rw [s.readOther_keepsCoresIn off r hr]; exact h
    exact hr r e
  · split
    · simpa using h
    · exact h

theorem State.writeCC_legal (h : LegalCores s.cores) (off value) : LegalCores (s.writeCC off value).cores := by
  unfold State.writeCC
  split
  · exact State.writeSwi_legal h _ _
  iterate 5 split; · simpa using h
  split
  · unfold State.writeDbgCore
    split
    · exact State.requestHalt_legal h _
    split
    · exact State.leaveHalt_legal h _
    · exact h
  · exact State.writeTkiStat_legal h _ _
  · simpa using h

theorem State.writePOL_legal (h : LegalCores s.cores) (w off value) : LegalCores (s.writePOL w off value).cores := by
  unfold State.writePOL
  split
  · simpa using h
  split
  · exact State.writeCoreRst_legal h _
  split
  · exact State.writePolderReset_legal (State.writeWarm_legal (by simpa using h) _ _ _) _ _
  · simpa using h

theorem State.writeFLT_legal (h : LegalCores s.cores) (w off value) : LegalCores (s.writeFLT w off value).cores := by
  unfold State.writeFLT
  split
  · simpa using h
  split
  · exact State.writeForce_legal h _ _
  · simpa using h

theorem State.writeUnit_legal (h : LegalCores s.cores) (w u off value) : LegalCores (s.writeUnit w u off value).cores := by
  unfold State.writeUnit
  split
  · exact State.writePOL_legal h _ _ _
  split
  · simpa using h
  split
  · simpa using h
  split
  · exact State.writeFLT_legal h _ _ _
  split
  · exact State.writeCC_legal h _ _
  · simpa using h

theorem State.writeReg_legal (h : LegalCores s.cores) (w off value) : LegalCores (s.writeReg w off value).cores := by
  unfold State.writeReg
  split
  · simpa using h
  split
  · simpa using h
  · simpa using h
  · exact State.writeUnit_legal h _ _ _ _
  · exact h

/-! ### The debug port, and loads of the register space -/

/-- A DAP request ends or waits with legal cores. -/
def DapEnd.Legal : DapEnd → Prop
  | .ends _ _ t => LegalCores t.cores
  | .waits t => LegalCores t.cores

theorem State.dapRegister_legal (h : LegalCores s.cores) (r) : (s.dapRegister r).Legal := by
  unfold State.dapRegister
  extract_lets off
  split
  · exact h
  split
  next t e =>
    have ht : LegalCores t.cores := State.regDoor_opens_cores e ▸ h
    split
    · exact State.writeReg_legal ht _ _ _
    · exact State.readReg_legal ht off
  next t e =>
    have ht : LegalCores t.cores := State.regDoor_waits_cores e ▸ h
    exact ht
  · exact h

theorem State.dapMemory_legal (h : LegalCores s.cores) (r) : (s.dapMemory r).Legal := by
  unfold State.dapMemory
  extract_lets a kind
  split
  · exact h
  split
  · exact h
  · exact h

theorem State.dapCore_legal (h : LegalCores s.cores) (r) : (s.dapCore r).Legal := by
  unfold State.dapCore
  extract_lets c n
  split
  · exact h
  split
  · exact h
  split
  · exact h
  split
  · exact h
  · exact State.setCore_legal h c (Core.dapWrite_holds (h.core c) _ _)

theorem State.dapRun_legal (h : LegalCores s.cores) (r) : (s.dapRun r).Legal := by
  unfold State.dapRun
  split
  · exact h
  split
  · exact State.dapRegister_legal h r
  split
  · exact State.dapMemory_legal h r
  split
  · exact State.dapCore_legal h r
  · exact h

theorem State.dapStart_legal (h : LegalCores s.cores) (r) : LegalCores (s.dapStart r).cores := by
  have hr := State.dapRun_legal h r
  unfold State.dapStart
  split
  next e => rw [e] at hr; rw [State.setDap_cores]; exact hr
  next e => rw [e] at hr; rw [State.setDap_cores]; exact hr

theorem State.dapScan_legal (h : LegalCores s.cores) (r) : LegalCores (s.dapScan r).cores := by
  unfold State.dapScan
  split
  · exact h
  · extract_lets s1 d s2
    have h1 : LegalCores s1.cores := by
      dsimp only [s1]
      split
      · exact State.dapStart_legal h _
      · exact h
    have h2 : LegalCores s2.cores := by rwa [s1.setDap_cores]
    split
    · exact h2
    · exact State.dapStart_legal h2 r

theorem State.loadWord_legal (h : LegalCores s.cores) (c op f ext) : LegalCores (s.loadWord c op f ext).cores := by
  refine State.runInsn_legal h c _ _ fun h => ?_
  extract_lets a done
  have hd (t : State) (v) (ht : LegalCores t.cores) : LegalCores (done t v).cores :=
    State.setCore_retire_legal ht c (Core.setReg_holds (ht.core c) _ _)
  split
  next e => exact State.checkAccess_legal h e
  split
  · exact hd s _ h
  split
  next t e =>
    have ht : LegalCores t.cores := State.regDoor_opens_cores e ▸ h
    exact hd _ _ (State.readReg_legal ht _)
  next t e => exact State.regDoor_waits_cores e ▸ h
  · exact hd s _ h

end

end Sys2Proof.Machine

/-!
SUPPORT. Every command keeps each core's STATUS legal (R37, R66, R67).
-/

namespace Sys2Proof.Machine

/-- The next state a command answers has legal cores. -/
def LegalNext : Res → Prop
  | .next t => LegalCores t.cores
  | _ => True

@[simp] theorem legalNext_next (t : State) : LegalNext (.next t) ↔ LegalCores t.cores := Iff.rfl

section
variable {s : State}

theorem State.takeCommand_legal {t : State} (h : LegalCores s.cores) {src opcode ref e} (ht : s.takeCommand src opcode = some (ref, e, t)) :
    LegalCores t.cores := State.takeCommand_cores ht ▸ h

theorem State.adminCommand_legal (h : LegalCores s.cores) {fn opcode} {run : State → List Byte → State}
    (hr : ∀ t e, (run t e).cores = t.cores) : LegalCores (s.adminCommand fn opcode run).cores := by
  rwa [State.adminCommand_cores hr]

theorem State.ioCommand_legal (h : LegalCores s.cores) {fn opcode} {run : State → Nat → List Byte → State}
    (hr : ∀ t q e, (run t q e).cores = t.cores) : LegalCores (s.ioCommand fn opcode run).cores := by
  rwa [State.ioCommand_cores hr]

/-! ### Events that act on a core -/

theorem execTimerInterrupt_legal (h : LegalCores s.cores) (c) : LegalNext (execTimerInterrupt c s) := by simp [execTimerInterrupt, h]

theorem execManagementMailboxRead_legal (h : LegalCores s.cores) (c) : LegalNext (execManagementMailboxRead c s) := by
  simp [execManagementMailboxRead, h]

/-! ### The host's queues (R410 to R421) -/

theorem execSqTail_legal (h : LegalCores s.cores) (qcn value stores) : LegalNext (execSqTail qcn value stores s) := by
  unfold execSqTail
  dsimp only
  rw [legalNext_next]
  repeat' split
  all_goals simpa using h

theorem execCqHead_legal (h : LegalCores s.cores) (qcn value) : LegalNext (execCqHead qcn value s) := by
  unfold execCqHead
  rw [legalNext_next]
  repeat' split
  all_goals simpa using h

/-! ### Recipes (R108 to R120) -/

theorem execRecipeStatus_legal (h : LegalCores s.cores) (src) : LegalNext (execRecipeStatus src s) := by
  unfold execRecipeStatus
  rw [legalNext_next]
  split
  · exact h
  next ref e t ht => split <;> simpa using State.takeCommand_legal h ht

/-! ### Flash channels (R285 to R318) -/

theorem execChannelTraining_legal (h : LegalCores s.cores) (ch dies best) : LegalNext (execChannelTraining ch dies best s) := by
  unfold execChannelTraining
  extract_lets c s1 s2
  rw [legalNext_next]
  split
  · exact h
  · have h1 : s1.cores = s.cores := foldl_cores (fun t e => by dsimp only; split <;> simp) dies s
    have h2 : s2.cores = s1.cores := by
      dsimp only [s2]
      split
      · simp
      · split <;> simp
    rwa [State.repopulate_cores, h2, h1]

theorem execCodewordRead_legal (h : LegalCores s.cores) (die block page plane cw shows) :
    LegalNext (execCodewordRead die block page plane cw shows s) := by
  simp [execCodewordRead, h]

theorem execStripeReconstruction_legal (h : LegalCores s.cores) (die block page plane cw) :
    LegalNext (execStripeReconstruction die block page plane cw s) := by
  simp [execStripeReconstruction, h]

theorem execDieTimeout_legal (h : LegalCores s.cores) (die cleared answers) : LegalNext (execDieTimeout die cleared answers s) := by
  unfold execDieTimeout
  rw [legalNext_next]
  split <;> simpa using h

theorem execPhysRead_legal (h : LegalCores s.cores) (c t) : LegalNext (execPhysRead c t s) := by
  unfold execPhysRead
  rw [legalNext_next]
  split <;> simpa using h

theorem execPeriodicCalibration_legal (h : LegalCores s.cores) (ch) : LegalNext (execPeriodicCalibration ch s) := by
  simp [execPeriodicCalibration, h]

theorem execTempCalibration_legal (h : LegalCores s.cores) (ch temp) : LegalNext (execTempCalibration ch temp s) := by
  simp [execTempCalibration, h]

theorem execChannelService_legal (h : LegalCores s.cores) (c t best) : LegalNext (execChannelService c t best s) := by
  unfold execChannelService
  rw [legalNext_next]
  repeat' split
  all_goals simpa using h

theorem execPatrolRead_legal (h : LegalCores s.cores) : LegalNext (execPatrolRead s) := by
  unfold execPatrolRead
  rw [legalNext_next]
  split <;> simpa using h

/-! ### Map, journal and write streams (R319 to R337) -/

theorem execProgramDone_legal (h : LegalCores s.cores) (gcStream m ok) : LegalNext (execProgramDone gcStream m ok s) := by
  unfold execProgramDone
  dsimp only
  rw [legalNext_next]
  repeat' split
  all_goals simpa using h

theorem execFillTimer_legal (h : LegalCores s.cores) : LegalNext (execFillTimer s) := by simp [execFillTimer, h]

theorem execJournalPageProgram_legal (h : LegalCores s.cores) (ok) : LegalNext (execJournalPageProgram ok s) := by
  simp [execJournalPageProgram, h]

theorem execMapPageRead_legal (h : LegalCores s.cores) (page) : LegalNext (execMapPageRead page s) := by simp [execMapPageRead, h]
theorem execMapWriteback_legal (h : LegalCores s.cores) (page ok) : LegalNext (execMapWriteback page ok s) := by simp [execMapWriteback, h]

theorem execRead_legal (h : LegalCores s.cores) (c t) : LegalNext (execRead c t s) := by
  unfold execRead
  dsimp only
  rw [legalNext_next]
  repeat' split
  all_goals simpa using h

theorem execWrite_legal (h : LegalCores s.cores) (c t) : LegalNext (execWrite c t s) := by
  unfold execWrite
  dsimp only
  rw [legalNext_next]
  repeat' split
  all_goals simpa using h

theorem execTrim_legal (h : LegalCores s.cores) (c t runs) : LegalNext (execTrim c t runs s) := by
  unfold execTrim
  dsimp only
  rw [legalNext_next]
  repeat' split
  all_goals simpa using h

theorem execSpaceCreate_legal (h : LegalCores s.cores) (c t) : LegalNext (execSpaceCreate c t s) := by
  unfold execSpaceCreate
  rw [legalNext_next]
  split <;> simpa using h

theorem execSpaceDelete_legal (h : LegalCores s.cores) (c t) : LegalNext (execSpaceDelete c t s) := by
  unfold execSpaceDelete
  rw [legalNext_next]
  split <;> simpa using h

theorem execSpaceWalk_legal (h : LegalCores s.cores) (space) : LegalNext (execSpaceWalk space s) := by
  unfold execSpaceWalk
  rw [legalNext_next]
  split <;> simpa using h

theorem execSync_legal (h : LegalCores s.cores) (c t) : LegalNext (execSync c t s) := by
  unfold execSync
  rw [legalNext_next]
  split <;> simpa using h

/-! ### Reclamation, rebuild, checkpoints and mounts (R306, R329, R338 to R349) -/

theorem execBackgroundGc_legal (h : LegalCores s.cores) : LegalNext (execBackgroundGc s) := by
  unfold execBackgroundGc
  rw [legalNext_next]
  repeat' split
  all_goals simpa using h

theorem execForegroundGc_legal (h : LegalCores s.cores) : LegalNext (execForegroundGc s) := by
  unfold execForegroundGc
  rw [legalNext_next]
  repeat' split
  all_goals simpa using h

theorem execGcMove_legal (h : LegalCores s.cores) : LegalNext (execGcMove s) := by
  unfold execGcMove
  dsimp only
  rw [legalNext_next]
  repeat' split
  all_goals simpa using h

theorem execVictimErase_legal (h : LegalCores s.cores) : LegalNext (execVictimErase s) := by
  unfold execVictimErase
  rw [legalNext_next]
  split
  · exact h
  split
  · exact h
  split
  · simpa using h
  split
  · exact h
  · extract_lets ms s1
    have h1 : s1.cores = s.cores := foldl_cores (fun t i => by dsimp only; split <;> simp) ms s
    simpa [h1] using h

theorem execEraseDone_legal (h : LegalCores s.cores) (m ok) : LegalNext (execEraseDone m ok s) := by
  unfold execEraseDone
  dsimp only
  rw [legalNext_next]
  repeat' split
  all_goals simpa using h

theorem execDieRebuild_legal (h : LegalCores s.cores) : LegalNext (execDieRebuild s) := by
  unfold execDieRebuild
  rw [legalNext_next]
  split
  · exact h
  split
  · exact h
  · extract_lets s1 s2 s3 s4
    have h3 : s3.cores = s2.cores := foldl_cores (fun t e => by split <;> simp) _ s2
    simpa [s4, h3, s2, s1] using h

theorem execCheckpoint_legal (h : LegalCores s.cores) : LegalNext (execCheckpoint s) := by simp [execCheckpoint, h]

theorem execMount_legal (h : LegalCores s.cores) (copies checkpoint) : LegalNext (execMount copies checkpoint s) := by
  unfold execMount
  rw [legalNext_next]
  repeat' split
  all_goals simpa using h

/-! ### Fetch and permutation (R123 to R153) -/

theorem execGristReadIssue_legal (h : LegalCores s.cores) (rebuilt) : LegalNext (execGristReadIssue rebuilt s) := by
  unfold execGristReadIssue
  rw [legalNext_next]
  split
  · exact h
  split
  · exact h
  split
  · extract_lets v f t
    split
    extract_lets s1 s2 i
    have h1 : LegalCores s1.cores := by simpa [s1] using h
    have h2 : LegalCores s2.cores := by simpa [s2] using h1
    split
    · split
      next ht => simpa [State.stageItem_cores ht] using h2
      · simpa using h2
    split
    · extract_lets j
      split
      · simpa using h1
      split
      · simpa using h1
      split <;> simpa using h1
    · simpa using h1
  · exact h

theorem execCatalogMiss_legal (h : LegalCores s.cores) (ring) : LegalNext (execCatalogMiss ring s) := by
  unfold execCatalogMiss
  dsimp only
  rw [legalNext_next]
  repeat' split
  all_goals simpa using h

theorem execItemStaged_legal (h : LegalCores s.cores) (ring pos peer) : LegalNext (execItemStaged ring pos peer s) := by
  unfold execItemStaged
  dsimp only
  rw [legalNext_next]
  repeat' split
  all_goals simpa using h

theorem execFillList_legal (h : LegalCores s.cores) (c t) : LegalNext (execFillList c t s) := by
  unfold execFillList
  dsimp only
  rw [legalNext_next]
  repeat' split
  all_goals simpa using h

theorem execPermute_legal (h : LegalCores s.cores) (c t) : LegalNext (execPermute c t s) := by
  unfold execPermute
  rw [legalNext_next]
  repeat' split
  all_goals simpa using h

theorem execSpare_legal (h : LegalCores s.cores) (c t peer) : LegalNext (execSpare c t peer s) := by
  unfold execSpare
  rw [legalNext_next]
  split
  · exact h
  · extract_lets list p epoch attempt
    split
    · exact h
    split
    · simpa using h
    split
    · split
      · simpa using h
      · split
        · simpa using h
        split
        · simpa using h
        · split
          extract_lets s1 i
          have h1 : LegalCores (s1.countEntry i).cores := by simpa [s1] using h
          split
          · simpa using h1
          next ht =>
            have ht : LegalCores _ := State.stageItem_cores ht ▸ h1
            split
            next j u hu =>
              have hu : LegalCores u.cores := by rw [cores_of_snd hu]; simpa using ht
              dsimp only
              split <;> simpa using hu
    · simpa using h

theorem execClose_legal (h : LegalCores s.cores) (c t) : LegalNext (execClose c t s) := by
  unfold execClose
  rw [legalNext_next]
  split <;> simpa using h

/-! ### Mills (R154 to R181) -/

theorem execDecode_legal (h : LegalCores s.cores) (c t) : LegalNext (execDecode c t s) := by
  unfold execDecode
  rw [legalNext_next]
  split <;> simpa using h

theorem execProbe_legal (h : LegalCores s.cores) (c t) : LegalNext (execProbe c t s) := by
  unfold execProbe
  rw [legalNext_next]
  split <;> simpa using h

/-! ### Kiln (R182 to R205) -/

theorem execDecompress_legal (h : LegalCores s.cores) (c t) : LegalNext (execDecompress c t s) := by
  unfold execDecompress
  rw [legalNext_next]
  split <;> simpa using h

theorem execCompress_legal (h : LegalCores s.cores) (c t mismatch) : LegalNext (execCompress c t mismatch s) := by
  unfold execCompress
  rw [legalNext_next]
  split <;> simpa using h

theorem execGfCombine_legal (h : LegalCores s.cores) (c t) : LegalNext (execGfCombine c t s) := by
  unfold execGfCombine
  rw [legalNext_next]
  split <;> simpa using h

/-! ### Mash (R206 to R231) -/

theorem execTransform_legal (h : LegalCores s.cores) (c t tileError) : LegalNext (execTransform c t tileError s) := by
  unfold execTransform
  rw [legalNext_next]
  split <;> simpa using h

theorem execScore_legal (h : LegalCores s.cores) (c t tileError) : LegalNext (execScore c t tileError s) := by
  unfold execScore
  rw [legalNext_next]
  split <;> simpa using h

theorem execModelLoad_legal (h : LegalCores s.cores) (c t) : LegalNext (execModelLoad c t s) := by
  unfold execModelLoad
  rw [legalNext_next]
  split <;> simpa using h

theorem execModelUnload_legal (h : LegalCores s.cores) (c t) : LegalNext (execModelUnload c t s) := by
  unfold execModelUnload
  rw [legalNext_next]
  split <;> simpa using h

/-! ### Lauter (R232 to R247) -/

theorem execFilter_legal (h : LegalCores s.cores) (c t) : LegalNext (execFilter c t s) := by
  unfold execFilter
  rw [legalNext_next]
  split <;> simpa using h

theorem execLoadSet_legal (h : LegalCores s.cores) (c t) : LegalNext (execLoadSet c t s) := by
  unfold execLoadSet
  rw [legalNext_next]
  split <;> simpa using h

theorem execSignature_legal (h : LegalCores s.cores) (c t) : LegalNext (execSignature c t s) := by
  unfold execSignature
  rw [legalNext_next]
  split <;> simpa using h

theorem execUnloadSet_legal (h : LegalCores s.cores) (c t) : LegalNext (execUnloadSet c t s) := by
  unfold execUnloadSet
  rw [legalNext_next]
  split <;> simpa using h

/-! ### Token unit (R248 to R265) -/

theorem execTokenize_legal (h : LegalCores s.cores) (c t) : LegalNext (execTokenize c t s) := by
  unfold execTokenize
  rw [legalNext_next]
  split <;> simpa using h

theorem execVocabLoad_legal (h : LegalCores s.cores) (c t) : LegalNext (execVocabLoad c t s) := by
  unfold execVocabLoad
  rw [legalNext_next]
  split <;> simpa using h

theorem execVocabUnload_legal (h : LegalCores s.cores) (c t) : LegalNext (execVocabUnload c t s) := by
  unfold execVocabUnload
  rw [legalNext_next]
  split <;> simpa using h

/-! ### Cask packer (R268 to R284) -/

theorem execPackSlots_legal (h : LegalCores s.cores) (c t) : LegalNext (execPackSlots c t s) := by
  unfold execPackSlots
  rw [legalNext_next]
  split <;> simpa using h

theorem execPackRows_legal (h : LegalCores s.cores) (c t) : LegalNext (execPackRows c t s) := by
  unfold execPackRows
  rw [legalNext_next]
  split <;> simpa using h

theorem execMerge_legal (h : LegalCores s.cores) (c t) : LegalNext (execMerge c t s) := by
  unfold execMerge
  rw [legalNext_next]
  split <;> simpa using h

theorem execDiscard_legal (h : LegalCores s.cores) (c t) : LegalNext (execDiscard c t s) := by
  unfold execDiscard
  rw [legalNext_next]
  split <;> simpa using h

/-! ### Weir and ports (R355 to R358, R388 to R405) -/

theorem execPacketSchedule_legal (h : LegalCores s.cores) (sub) : LegalNext (execPacketSchedule sub s) := by
  unfold execPacketSchedule
  dsimp only
  rw [legalNext_next]
  repeat' split
  all_goals simpa using h

theorem execWheelRelease_legal (h : LegalCores s.cores) : LegalNext (execWheelRelease s) := by simp [execWheelRelease, h]

theorem execPfcReceive_legal (h : LegalCores s.cores) (sub prio quanta) : LegalNext (execPfcReceive sub prio quanta s) := by
  simp [execPfcReceive, h]

theorem execPauseExpiry_legal (h : LegalCores s.cores) (sub) : LegalNext (execPauseExpiry sub s) := by simp [execPauseExpiry, h]
theorem execPfcRepeat_legal (h : LegalCores s.cores) (sub kib) : LegalNext (execPfcRepeat sub kib s) := by simp [execPfcRepeat, h]

theorem execCnpReceive_legal (h : LegalCores s.cores) (qcn) : LegalNext (execCnpReceive qcn s) := by
  unfold execCnpReceive
  rw [legalNext_next]
  split <;> simpa using h

theorem execRcRise_legal (h : LegalCores s.cores) (sub service subscriber) : LegalNext (execRcRise sub service subscriber s) := by
  unfold execRcRise
  dsimp only
  rw [legalNext_next]
  split <;> simpa using h

theorem execQueueSample_legal (h : LegalCores s.cores) : LegalNext (execQueueSample s) := by simp [execQueueSample, h]
theorem execQLatch_legal (h : LegalCores s.cores) (w value) : LegalNext (execQLatch w value s) := by simp [execQLatch, h]
theorem execQDepthRead_legal (h : LegalCores s.cores) : LegalNext (execQDepthRead s) := by simp [execQDepthRead, h]
theorem execQDelayRead_legal (h : LegalCores s.cores) : LegalNext (execQDelayRead s) := by simp [execQDelayRead, h]
theorem execLinkDown_legal (h : LegalCores s.cores) (sub) : LegalNext (execLinkDown sub s) := by simp [execLinkDown, h]
theorem execLinkUp_legal (h : LegalCores s.cores) (sub) : LegalNext (execLinkUp sub s) := by simp [execLinkUp, h]

theorem execPortEnable_legal (h : LegalCores s.cores) (w port value partner) : LegalNext (execPortEnable w port value partner s) := by
  simp [execPortEnable, h]

theorem execPuntFrame_legal (h : LegalCores s.cores) (sub frame) : LegalNext (execPuntFrame sub frame s) := by simp [execPuntFrame, h]

/-! ### The ring window (R88 to R96) -/

theorem execRingEnable_legal (h : LegalCores s.cores) (w value) : LegalNext (execRingEnable w value s) := by simp [execRingEnable, h]
theorem execRingDisable_legal (h : LegalCores s.cores) (w value) : LegalNext (execRingDisable w value s) := by simp [execRingDisable, h]
theorem execRingDrained_legal (h : LegalCores s.cores) (cls ring) : LegalNext (execRingDrained cls ring s) := by simp [execRingDrained, h]

/-! ### Trace records and the trace port (R580 to R590) -/

theorem execTraceSync_legal (h : LegalCores s.cores) : LegalNext (execTraceSync s) := by simp [execTraceSync, h]
theorem execMark_legal (h : LegalCores s.cores) (w value) : LegalNext (execMark w value s) := by simp [execMark, h]
theorem execArm_legal (h : LegalCores s.cores) (w) : LegalNext (execArm w s) := by simp [execArm, h]
theorem execFire_legal (h : LegalCores s.cores) (w) : LegalNext (execFire w s) := by simp [execFire, h]
theorem execFrozen_legal (h : LegalCores s.cores) : LegalNext (execFrozen s) := by simp [execFrozen, h]

theorem execTracePortSend_legal (h : LegalCores s.cores) : LegalNext (execTracePortSend s) := by
  unfold execTracePortSend
  rw [legalNext_next]
  repeat' split
  all_goals simpa using h

/-! ### NVMe controllers (R406 to R417) -/

theorem execControllerEnable_legal (h : LegalCores s.cores) (fn asq acq sqSize cqSize mps wrr) :
    LegalNext (execControllerEnable fn asq acq sqSize cqSize mps wrr s) := by
  unfold execControllerEnable
  extract_lets f
  rw [legalNext_next]
  split
  · exact h
  split
  · exact h
  next h1 =>
    split
    · exact h
    next h2 => simpa [State.bindNvme_cores h2, State.bindNvme_cores h1] using h

theorem execControllerReset_legal (h : LegalCores s.cores) (fn) : LegalNext (execControllerReset fn s) := by
  unfold execControllerReset
  rw [legalNext_next]
  split
  · exact h
  split <;> simpa using h

theorem execNvmeDoorbell_legal (h : LegalCores s.cores) (fn qid completion value stores) :
    LegalNext (execNvmeDoorbell fn qid completion value stores s) := by
  unfold execNvmeDoorbell
  dsimp only
  rw [legalNext_next]
  repeat' split
  all_goals simpa using h

theorem execCreateIoCq_legal (h : LegalCores s.cores) (fn) : LegalNext (execCreateIoCq fn s) := by
  refine State.adminCommand_legal h fun t e => ?_
  extract_lets done qid size dw11
  iterate 3 split; · simp [done]
  split
  · simp [done]
  next hq => simpa [done] using State.bindNvme_cores hq

theorem execCreateIoSq_legal (h : LegalCores s.cores) (fn) : LegalNext (execCreateIoSq fn s) := by
  refine State.adminCommand_legal h fun t e => ?_
  extract_lets done qid size dw11 cqid
  iterate 4 split; · simp [done]
  split
  · simp [done]
  next hq => simpa [done] using State.bindNvme_cores hq

theorem execDeleteIoSq_legal (h : LegalCores s.cores) (fn) : LegalNext (execDeleteIoSq fn s) := by
  refine State.adminCommand_legal h fun t e => ?_
  dsimp only
  split <;> simp

theorem execDeleteIoCq_legal (h : LegalCores s.cores) (fn) : LegalNext (execDeleteIoCq fn s) := by
  refine State.adminCommand_legal h fun t e => ?_
  dsimp only
  split <;> simp

theorem execIdentify_legal (h : LegalCores s.cores) (fn) : LegalNext (execIdentify fn s) := by
  refine State.adminCommand_legal h fun t e => ?_
  extract_lets cns nsid send states ids
  have hs (u : State) (bs) : (send u bs).cores = u.cores := by simp [send]
  have hc (status) : (t.nvmeComplete fn.toNat 0 (cmdCid e) 0 status).cores = t.cores := t.nvmeComplete_cores _ _ _ _ _
  split
  · split
    · extract_lets n
      split
      next hp => rw [hs, cores_of_snd hp, State.openPage_cores]
    · split
      · exact hc _
      · exact hs _ _
  split
  · split
    next hp => rw [hs, cores_of_snd hp, State.openPage_cores]
  split
  · exact hs _ _
  split
  · split
    · split
      next hp => rw [hs, cores_of_snd hp, State.openPage_cores]
    · exact hc _
  · exact hc _

theorem execGetLogPage_legal (h : LegalCores s.cores) (fn) : LegalNext (execGetLogPage fn s) := by simp [execGetLogPage, h]
theorem execAbort_legal (h : LegalCores s.cores) (fn) : LegalNext (execAbort fn s) := by simp [execAbort, h]

theorem execSetFeatures_legal (h : LegalCores s.cores) (fn) : LegalNext (execSetFeatures fn s) := by
  refine State.adminCommand_legal h fun t e => ?_
  extract_lets fid v done
  split
  · rfl
  · iterate 3 split; · simp [done]
    simp [done]

theorem execGetFeatures_legal (h : LegalCores s.cores) (fn) : LegalNext (execGetFeatures fn s) := by
  refine State.adminCommand_legal h fun t e => ?_
  dsimp only
  split <;> simp

theorem execAsynchronousEventRequest_legal (h : LegalCores s.cores) (fn) : LegalNext (execAsynchronousEventRequest fn s) := by
  refine State.adminCommand_legal h fun t e => ?_
  split
  · rfl
  · split <;> simp

theorem execApst_legal (h : LegalCores s.cores) (fn) : LegalNext (execApst fn s) := by
  unfold execApst
  rw [legalNext_next]
  split <;> simpa using h

theorem execNvmeRead_legal (h : LegalCores s.cores) (fn) : LegalNext (execNvmeRead fn s) := by
  refine State.ioCommand_legal h fun t q e => ?_
  extract_lets n done
  split
  · simp [done]
  · split <;> simp [done]

theorem execNvmeWrite_legal (h : LegalCores s.cores) (fn) : LegalNext (execNvmeWrite fn s) := by
  refine State.ioCommand_legal h fun t q e => ?_
  dsimp only
  split
  · simp
  · split <;> simp

theorem execWriteZeroes_legal (h : LegalCores s.cores) (fn) : LegalNext (execWriteZeroes fn s) := by
  refine State.ioCommand_legal h fun t q e => ?_
  dsimp only
  split <;> simp

theorem execNvmeFlush_legal (h : LegalCores s.cores) (fn) : LegalNext (execNvmeFlush fn s) := by simp [execNvmeFlush, h]

theorem execDatasetManagement_legal (h : LegalCores s.cores) (fn runs) : LegalNext (execDatasetManagement fn runs s) := by
  refine State.ioCommand_legal h fun t q e => ?_
  extract_lets done n b ranges recs s1 f s2
  split
  · simp [done]
  split
  · simp [done]
  split
  · simp [done]
  · simp [done, s2, s1]

theorem execPcieLinkTrained_legal (h : LegalCores s.cores) (speed width flit vfs payload) :
    LegalNext (execPcieLinkTrained speed width flit vfs payload s) := by
  unfold execPcieLinkTrained
  extract_lets sp s1 hs
  rw [legalNext_next]
  split
  · exact h
  · have h1 : s1.cores = s.cores := s.setReg_cores _ _
    exact h1.symm ▸ h

/-! ### RDMA (R359 to R385) -/

theorem execInit_legal (h : LegalCores s.cores) (w setup) : LegalNext (execInit w setup s) := by simp [execInit, h]
theorem execRtr_legal (h : LegalCores s.cores) (w) : LegalNext (execRtr w s) := by simp [execRtr, h]
theorem execRts_legal (h : LegalCores s.cores) (w) : LegalNext (execRts w s) := by simp [execRts, h]
theorem execErr_legal (h : LegalCores s.cores) (w) : LegalNext (execErr w s) := by simp [execErr, h]
theorem execReset_legal (h : LegalCores s.cores) (w unbind) : LegalNext (execReset w unbind s) := by simp [execReset, h]

theorem execRetryTimeout_legal (h : LegalCores s.cores) (qcn) : LegalNext (execRetryTimeout qcn s) := by
  unfold execRetryTimeout
  rw [legalNext_next]
  repeat' split
  all_goals simpa using h

theorem execGrant_legal (h : LegalCores s.cores) (qcn msg) : LegalNext (execGrant qcn msg s) := by simp [execGrant, h]
theorem execDecline_legal (h : LegalCores s.cores) (qcn msg) : LegalNext (execDecline qcn msg s) := by simp [execDecline, h]

theorem execDeliver_legal (h : LegalCores s.cores) (c t) : LegalNext (execDeliver c t s) := by
  unfold execDeliver
  rw [legalNext_next]
  split <;> simpa using h

theorem execSealAcknowledged_legal (h : LegalCores s.cores) (c t) : LegalNext (execSealAcknowledged c t s) := by
  unfold execSealAcknowledged
  rw [legalNext_next]
  repeat' split
  all_goals simpa using h

theorem execRelease_legal (h : LegalCores s.cores) (c t) : LegalNext (execRelease c t s) := by
  unfold execRelease
  rw [legalNext_next]
  split <;> simpa using h

theorem execNoGrant_legal (h : LegalCores s.cores) (c t) : LegalNext (execNoGrant c t s) := by
  unfold execNoGrant
  rw [legalNext_next]
  split <;> simpa using h

theorem execReconRead_legal (h : LegalCores s.cores) (c t) : LegalNext (execReconRead c t s) := by
  unfold execReconRead
  rw [legalNext_next]
  split <;> simpa using h

theorem execRegister_legal (h : LegalCores s.cores) (c t) : LegalNext (execRegister c t s) := by
  unfold execRegister
  rw [legalNext_next]
  split <;> simpa using h

theorem execRevoke_legal (h : LegalCores s.cores) (c t) : LegalNext (execRevoke c t s) := by
  unfold execRevoke
  rw [legalNext_next]
  split <;> simpa using h

theorem execRevokeTimeout_legal (h : LegalCores s.cores) (c t) : LegalNext (execRevokeTimeout c t s) := by
  unfold execRevokeTimeout
  rw [legalNext_next]
  split <;> simpa using h

theorem execPacketReceive_legal (h : LegalCores s.cores) (p kib recycled) : LegalNext (execPacketReceive p kib recycled s) := by
  simp [execPacketReceive, h]

/-! ### Command rings and host delivery (R408, R420 to R426) -/

theorem execCaskGrant_legal (h : LegalCores s.cores) (src) : LegalNext (execCaskGrant src s) := by
  unfold execCaskGrant
  rw [legalNext_next]
  split
  · exact h
  next ht => simpa using State.takeCommand_legal h ht

theorem execGrantWithdraw_legal (h : LegalCores s.cores) (src) : LegalNext (execGrantWithdraw src s) := by
  unfold execGrantWithdraw
  rw [legalNext_next]
  split
  · exact h
  next ht => simpa using State.takeCommand_legal h ht

theorem execCmdSpaceCreate_legal (h : LegalCores s.cores) (src) : LegalNext (execCmdSpaceCreate src s) := by
  unfold execCmdSpaceCreate
  rw [legalNext_next]
  split
  · exact h
  split
  · exact h
  next ht => simpa using State.takeCommand_legal h ht

theorem execCmdSpaceDelete_legal (h : LegalCores s.cores) (src) : LegalNext (execCmdSpaceDelete src s) := by
  unfold execCmdSpaceDelete
  rw [legalNext_next]
  split
  · exact h
  split
  · exact h
  next ht => simpa [h] using fun _ => State.takeCommand_legal h ht

theorem execNsAttach_legal (h : LegalCores s.cores) (src) : LegalNext (execNsAttach src s) := by
  unfold execNsAttach
  rw [legalNext_next]
  split
  · exact h
  next ht =>
    have ht := State.takeCommand_legal h ht
    extract_lets n
    iterate 2 split; · simpa using ht
    split <;> simpa using ht

theorem execCreateCommandRing_legal (h : LegalCores s.cores) : LegalNext (execCreateCommandRing s) := by
  refine State.adminCommand_legal h fun t e => ?_
  extract_lets cid entries ok
  split
  · simp
  · simp

theorem execDeleteCommandRing_legal (h : LegalCores s.cores) : LegalNext (execDeleteCommandRing s) := by
  refine State.adminCommand_legal h fun t e => ?_
  dsimp only
  split
  · simp
  · split <;> simp

theorem execHostDeliver_legal (h : LegalCores s.cores) (c t fails) : LegalNext (execHostDeliver c t fails s) := by
  unfold execHostDeliver
  rw [legalNext_next]
  repeat' split
  all_goals simpa using h

/-! ### DMA (R427 to R434) -/

theorem execGo_legal (h : LegalCores s.cores) (w n) : LegalNext (execGo w n s) := by simp [execGo, h]
theorem execValid_legal (h : LegalCores s.cores) (w n) : LegalNext (execValid w n s) := by simp [execValid, h]
theorem execPause_legal (h : LegalCores s.cores) (w n) : LegalNext (execPause w n s) := by simp [execPause, h]
theorem execPauseClear_legal (h : LegalCores s.cores) (w n) : LegalNext (execPauseClear w n s) := by simp [execPauseClear, h]

theorem execCopy_legal (h : LegalCores s.cores) (c t) : LegalNext (execCopy c t s) := by
  unfold execCopy
  rw [legalNext_next]
  split <;> simpa using h

theorem execDmaBurst_legal (h : LegalCores s.cores) (fails) : LegalNext (execDmaBurst fails s) := by
  unfold execDmaBurst
  rw [legalNext_next]
  split
  · exact h
  split
  · exact h
  split
  · exact h
  · extract_lets others s1 s2 f s3 s4
    have h1 : s1.cores = s.cores := foldl_cores (fun t k => by split <;> simp) others s
    simpa [s4, s3, s2, h1] using h

theorem execDmaTransferDone_legal (h : LegalCores s.cores) (n) : LegalNext (execDmaTransferDone n s) := by
  unfold execDmaTransferDone
  dsimp only
  rw [legalNext_next]
  repeat' split
  all_goals simpa using h

theorem execPerst_legal (h : LegalCores s.cores) : LegalNext (execPerst s) := by simp [execPerst, h]

/-! ### Buffer pools (R435 to R439) -/

theorem execPoolEnable_legal (h : LegalCores s.cores) (w n value) : LegalNext (execPoolEnable w n value s) := by simp [execPoolEnable, h]
theorem execPoolDisable_legal (h : LegalCores s.cores) (w n value) : LegalNext (execPoolDisable w n value s) := by simp [execPoolDisable, h]

theorem execFreeListBuilt_legal (h : LegalCores s.cores) (n) : LegalNext (execFreeListBuilt n s) := by
  unfold execFreeListBuilt
  extract_lets m base count addr s1
  rw [legalNext_next]
  split
  · exact h
  · have h1 : s1.cores = s.cores := foldl_cores (fun _ _ => by simp) _ s
    simpa [h1] using h

theorem execAlloc_legal (h : LegalCores s.cores) (c t) : LegalNext (execAlloc c t s) := by
  unfold execAlloc
  rw [legalNext_next]
  split <;> simpa using h

theorem execFree_legal (h : LegalCores s.cores) (c t) : LegalNext (execFree c t s) := by
  unfold execFree
  rw [legalNext_next]
  split <;> simpa using h

theorem execGenerationHoldEnd_legal (h : LegalCores s.cores) (c t) : LegalNext (execGenerationHoldEnd c t s) := by
  unfold execGenerationHoldEnd
  rw [legalNext_next]
  split <;> simpa using h

/-! ### Leases and time (R445 to R479) -/

theorem execLeaseRenewal_legal (h : LegalCores s.cores) : LegalNext (execLeaseRenewal s) := by simp [execLeaseRenewal, h]

theorem execLeaseGrant_legal (h : LegalCores s.cores) (requested granted lease term) :
    LegalNext (execLeaseGrant requested granted lease term s) := by
  simp [execLeaseGrant, h]

theorem execFence_legal (h : LegalCores s.cores) : LegalNext (execFence s) := by simp [execFence, h]
theorem execUnfence_legal (h : LegalCores s.cores) (w) : LegalNext (execUnfence w s) := by simp [execUnfence, h]

theorem execLeaseExpiryWrite_legal (h : LegalCores s.cores) (w value) : LegalNext (execLeaseExpiryWrite w value s) := by
  simp [execLeaseExpiryWrite, h]

theorem execWorkerDead_legal (h : LegalCores s.cores) (worker spare group place lastGrant) :
    LegalNext (execWorkerDead worker spare group place lastGrant s) := by
  simp [execWorkerDead, h]

theorem execManagerTakeover_legal (h : LegalCores s.cores) (grants) : LegalNext (execManagerTakeover grants s) := by
  simp [execManagerTakeover, h]

theorem execDropMap_legal (h : LegalCores s.cores) (epoch block positions maps) : LegalNext (execDropMap epoch block positions maps s) := by
  simp [execDropMap, h]

theorem execBackupStart_legal (h : LegalCores s.cores) (group seq place firstOffer delay node recovered) :
    LegalNext (execBackupStart group seq place firstOffer delay node recovered s) := by
  simp [execBackupStart, h]

theorem execCheckPreparation_legal (h : LegalCores s.cores) (seq part) : LegalNext (execCheckPreparation seq part s) := by
  unfold execCheckPreparation
  rw [legalNext_next]
  split <;> simpa using h

theorem execDigestMismatch_legal (h : LegalCores s.cores) (seq part first second third delivered qcn) :
    LegalNext (execDigestMismatch seq part first second third delivered qcn s) := by
  unfold execDigestMismatch
  dsimp only
  rw [legalNext_next]
  repeat' split
  all_goals simpa using h

theorem execPtpExchange_legal (h : LegalCores s.cores) (offset rate) : LegalNext (execPtpExchange offset rate s) := by
  simp [execPtpExchange, h]

theorem execHoldover_legal (h : LegalCores s.cores) : LegalNext (execHoldover s) := by
  unfold execHoldover
  rw [legalNext_next]
  split <;> simpa using h

theorem execGtcNowRead_legal (h : LegalCores s.cores) (high) : LegalNext (execGtcNowRead high s) := by simp [execGtcNowRead, h]

/-! ### Doubts, watchdogs, self-tests and replay (R551 to R574) -/

theorem execSingleFlip_legal (h : LegalCores s.cores) : LegalNext (execSingleFlip s) := by simp [execSingleFlip, h]
theorem execKick_legal (h : LegalCores s.cores) (w cores) : LegalNext (execKick w cores s) := by simp [execKick, h]
theorem execClear_legal (h : LegalCores s.cores) (w units) : LegalNext (execClear w units s) := by simp [execClear, h]
theorem execLatch_legal (h : LegalCores s.cores) (w unit) : LegalNext (execLatch w unit s) := by simp [execLatch, h]

theorem execSelfTestRequest_legal (h : LegalCores s.cores) (w cls unit) : LegalNext (execSelfTestRequest w cls unit s) := by
  simp [execSelfTestRequest, h]

theorem execRetire_legal (h : LegalCores s.cores) (w cls unit) : LegalNext (execRetire w cls unit s) := by simp [execRetire, h]

theorem execSelfTest_legal (h : LegalCores s.cores) (passes) : LegalNext (execSelfTest passes s) := by
  unfold execSelfTest
  rw [legalNext_next]
  repeat' split
  all_goals simpa using h

theorem execReplayRequest_legal (h : LegalCores s.cores) (ev) : LegalNext (execReplayRequest ev s) := by
  unfold execReplayRequest
  rw [legalNext_next]
  split <;> simpa using h

/-! ### Polders, resets and power states (R480 to R504) -/

theorem execClockStop_legal (h : LegalCores s.cores) (w polder stop) : LegalNext (execClockStop w polder stop s) := by
  unfold execClockStop
  rw [legalNext_next]
  repeat' split
  all_goals simpa using h

theorem execClockSourceSwitch_legal (h : LegalCores s.cores) (w polder pll) : LegalNext (execClockSourceSwitch w polder pll s) := by
  unfold execClockSourceSwitch
  rw [legalNext_next]
  repeat' split
  all_goals simpa using h

theorem execPllLock_legal (h : LegalCores s.cores) (polder) : LegalNext (execPllLock polder s) := by
  unfold execPllLock
  rw [legalNext_next]
  split <;> simpa using h

theorem execOppChange_legal (h : LegalCores s.cores) (w polder opp) : LegalNext (execOppChange w polder opp s) := by
  unfold execOppChange
  rw [legalNext_next]
  repeat' split
  all_goals simpa using h

theorem execPowerGovernor_legal (h : LegalCores s.cores) (input nand) : LegalNext (execPowerGovernor input nand s) := by
  unfold execPowerGovernor
  rw [legalNext_next]
  repeat' split
  all_goals simpa using h

theorem execThermalThrottle_legal (h : LegalCores s.cores) (temp) : LegalNext (execThermalThrottle temp s) := by
  unfold execThermalThrottle
  rw [legalNext_next]
  repeat' split
  all_goals simpa using h

theorem execClockStretch_legal (h : LegalCores s.cores) (polder) : LegalNext (execClockStretch polder s) := by
  unfold execClockStretch
  rw [legalNext_next]
  split <;> simpa using h

theorem execLadderStep_legal (h : LegalCores s.cores) : LegalNext (execLadderStep s) := by
  unfold execLadderStep
  rw [legalNext_next]
  split <;> simpa using h

theorem execPadRelease_legal (h : LegalCores s.cores) (w polders) : LegalNext (execPadRelease w polders s) := by simp [execPadRelease, h]
theorem execMs3Entry_legal (h : LegalCores s.cores) : LegalNext (execMs3Entry s) := by simp [execMs3Entry, h]
theorem execMs3Exit_legal (h : LegalCores s.cores) : LegalNext (execMs3Exit s) := by simp [execMs3Exit, h]
theorem execPowerStateChange_legal (h : LegalCores s.cores) : LegalNext (execPowerStateChange s) := by simp [execPowerStateChange, h]

theorem execSidebandMatch_legal (h : LegalCores s.cores) (addr) : LegalNext (execSidebandMatch addr s) := by
  unfold execSidebandMatch
  rw [legalNext_next]
  repeat' split
  all_goals simpa using h

theorem execPcieWake_legal (h : LegalCores s.cores) : LegalNext (execPcieWake s) := by
  unfold execPcieWake
  rw [legalNext_next]
  split
  · exact h
  · split <;> simpa using h

theorem execGtcWake_legal (h : LegalCores s.cores) : LegalNext (execGtcWake s) := by
  unfold execGtcWake
  rw [legalNext_next]
  split
  · split <;> simpa using h
  · exact h

/-! ### What every engine does with its rings (R87, R99, R102) -/

theorem execDescriptorTake_legal (h : LegalCores s.cores) (cls) : LegalNext (execDescriptorTake cls s) := by
  unfold execDescriptorTake
  rw [legalNext_next]
  repeat' split
  all_goals simpa using h

/-! ### Hold-up bank and flush (R505 to R529) -/

theorem execBankSample_legal (h : LegalCores s.cores) (vbank vin iin) : LegalNext (execBankSample vbank vin iin s) := by
  unfold execBankSample
  dsimp only
  rw [legalNext_next]
  repeat' split
  all_goals simpa using h

theorem execInputHigh_legal (h : LegalCores s.cores) : LegalNext (execInputHigh s) := by simp [execInputHigh, h]
theorem execNandOverload_legal (h : LegalCores s.cores) : LegalNext (execNandOverload s) := by simp [execNandOverload, h]
theorem execDip_legal (h : LegalCores s.cores) : LegalNext (execDip s) := by simp [execDip, h]

theorem execControlledPowerOff_legal (h : LegalCores s.cores) (w value) : LegalNext (execControlledPowerOff w value s) := by
  simp [execControlledPowerOff, h]

theorem execEjectorOpen_legal (h : LegalCores s.cores) : LegalNext (execEjectorOpen s) := by simp [execEjectorOpen, h]

theorem execThermalPowerOff_legal (h : LegalCores s.cores) (temp) : LegalNext (execThermalPowerOff temp s) := by
  simp [execThermalPowerOff, h]

theorem execCapacitorTest_legal (h : LegalCores s.cores) : LegalNext (execCapacitorTest s) := by simp [execCapacitorTest, h]

theorem execCapacitorTestRequest_legal (h : LegalCores s.cores) (w) : LegalNext (execCapacitorTestRequest w s) := by
  simp [execCapacitorTestRequest, h]

theorem execTestLoadConnect_legal (h : LegalCores s.cores) (drop) : LegalNext (execTestLoadConnect drop s) := by
  unfold execTestLoadConnect
  rw [legalNext_next]
  split <;> simpa using h

theorem execTestLoadDisconnect_legal (h : LegalCores s.cores) : LegalNext (execTestLoadDisconnect s) := by
  unfold execTestLoadDisconnect
  dsimp only
  rw [legalNext_next]
  repeat' split
  all_goals simpa using h

theorem execRestartWrite_legal (h : LegalCores s.cores) (w n value) : LegalNext (execRestartWrite w n value s) := by
  simp [execRestartWrite, h]

/-! ### Identity and firmware (R604 to R619) -/

theorem execAttest_legal (h : LegalCores s.cores) (w) : LegalNext (execAttest w s) := by simp [execAttest, h]

theorem execTokenRefill_legal (h : LegalCores s.cores) : LegalNext (execTokenRefill s) := by
  unfold execTokenRefill
  rw [legalNext_next]
  split
  · exact h
  · extract_lets t
    rwa [State.setFld_cores, State.setSec_cores]

theorem execReadCert_legal (h : LegalCores s.cores) (w) : LegalNext (execReadCert w s) := by simp [execReadCert, h]
theorem execDbgChallenge_legal (h : LegalCores s.cores) (w) : LegalNext (execDbgChallenge w s) := by simp [execDbgChallenge, h]
theorem execDbgUnlock_legal (h : LegalCores s.cores) (w) : LegalNext (execDbgUnlock w s) := by simp [execDbgUnlock, h]
theorem execSvnCommit_legal (h : LegalCores s.cores) (w) : LegalNext (execSvnCommit w s) := by simp [execSvnCommit, h]

theorem execActivationArm_legal (h : LegalCores s.cores) (w value) : LegalNext (execActivationArm w value s) := by
  simp [execActivationArm, h]

theorem execDisarm_legal (h : LegalCores s.cores) (w) : LegalNext (execDisarm w s) := by simp [execDisarm, h]

theorem execFirmwareImageDownload_legal (h : LegalCores s.cores) (src offset data) :
    LegalNext (execFirmwareImageDownload src offset data s) := by
  unfold execFirmwareImageDownload
  rw [legalNext_next]
  split <;> simpa using h

theorem execFirmwareCommit_legal (h : LegalCores s.cores) (src fs ca) : LegalNext (execFirmwareCommit src fs ca s) := by
  unfold execFirmwareCommit
  rw [legalNext_next]
  split <;> simpa using h

/-! ### The debug port (R575 to R578) -/

theorem execIdcode_legal (h : LegalCores s.cores) : LegalNext (execIdcode s) := by simp [execIdcode, h]
theorem execBypass_legal (h : LegalCores s.cores) (ir) : LegalNext (execBypass ir s) := by simp [execBypass, h]

/-! ### Instructions with a body of their own -/

theorem execAdd_legal (h : LegalCores s.cores) (c w) : LegalNext (execAdd c w s) := by
  cases w with
  | add f => exact State.rrrOp_legal h c _ _ f _
  | unassigned word =>
    unfold execAdd
    rw [legalNext_next]
    split
    · exact h
    · exact State.runInsn_legal h c _ _ id

theorem execJ_legal (h : LegalCores s.cores) (c off) : LegalNext (execJ c off s) :=
  State.runInsn_legal h c _ _ fun h => State.setCore_legal h c (Core.retireTo_holds (h.core c) c _)

theorem execJal_legal (h : LegalCores s.cores) (c off) : LegalNext (execJal c off s) :=
  State.runInsn_legal h c _ _ fun h => State.setCore_legal h c (Core.retireTo_holds (Core.setReg_holds (h.core c) _ _) c _)

theorem execJalr_legal (h : LegalCores s.cores) (c f) : LegalNext (execJalr c f s) :=
  State.runInsn_legal h c _ _ fun h => State.setCore_legal h c (Core.retireTo_holds (Core.setReg_holds (h.core c) _ _) c _)

theorem execVbcast_legal (h : LegalCores s.cores) (c f) : LegalNext (execVbcast c f s) :=
  State.runInsn_legal h c _ _ fun h => State.setCore_retire_legal h c (Core.setVreg_holds (h.core c) _ _)

theorem execVins_legal (h : LegalCores s.cores) (c f) : LegalNext (execVins c f s) :=
  State.runInsn_legal h c _ _ fun h =>
    State.setCore_retire_legal h c (legal_ite (fun _ => Core.setVreg_holds (h.core c) _ _) fun _ => h.core c)

theorem execVld_legal (h : LegalCores s.cores) (c f) : LegalNext (execVld c f s) := by
  refine State.runInsn_legal h c _ _ fun h => ?_
  dsimp only
  split
  next e => exact State.checkAccess_legal h e
  · exact State.setCore_retire_legal h c (Core.setVreg_holds (h.core c) _ _)

theorem execVst_legal (h : LegalCores s.cores) (c f) : LegalNext (execVst c f s) := by
  refine State.runInsn_legal h c _ _ fun h => ?_
  dsimp only
  split
  next e => exact State.checkAccess_legal h e
  · exact State.setCore_retire_legal (s := s.writeDram _ _) h c (h.core c)

theorem execSw_legal (h : LegalCores s.cores) (c f) : LegalNext (execSw c f s) := by
  refine State.runInsn_legal h c _ _ fun h => ?_
  extract_lets k a v
  have hk : k.statusLegal := h.core c
  split
  next e => exact State.checkAccess_legal h e
  split
  · exact State.setCore_retire_legal (s := s.writeDram _ _) h c hk
  split
  next t e =>
    have ht : LegalCores t.cores := State.regDoor_opens_cores e ▸ h
    exact State.writeReg_legal (State.setCore_retire_legal ht c hk) _ _ _
  next t e =>
    have ht : LegalCores t.cores := State.regDoor_waits_cores e ▸ h
    exact ht
  · exact State.setCore_retire_legal h c hk

theorem execMbar_legal (h : LegalCores s.cores) (c f) : LegalNext (execMbar c f s) :=
  State.runInsn_legal h c _ _ fun h => State.setCore_retire_legal h c (h.core c)

theorem execIbar_legal (h : LegalCores s.cores) (c f) : LegalNext (execIbar c f s) :=
  State.runInsn_legal h c _ _ fun h => State.setCore_retire_legal h c (h.core c)

theorem execSvc_legal (h : LegalCores s.cores) (c f) : LegalNext (execSvc c f s) := by
  refine State.runInsn_legal h c _ _ fun h => ?_
  extract_lets k code t
  have ht : LegalCores t.cores := State.raise_legal h c code 0
  split
  · split
    · exact State.coreEnds_legal ht c
    · exact State.coreFails_legal ht c _ _
  · exact ht

theorem execBrk_legal (h : LegalCores s.cores) (c f) : LegalNext (execBrk c f s) :=
  State.runInsn_legal h c _ _ fun h => State.raise_legal h c _ _

theorem execTret_legal (h : LegalCores s.cores) (c f) : LegalNext (execTret c f s) := by
  refine State.runInsn_legal h c _ _ fun h => ?_
  dsimp only
  split
  · exact State.raise_legal h c _ _
  · exact State.setCore_legal h c (Core.trapReturn_holds (h.core c) c)

theorem execIdle_legal (h : LegalCores s.cores) (c f) : LegalNext (execIdle c f s) := by
  refine State.runInsn_legal h c _ _ fun h => ?_
  dsimp only
  split
  · exact State.raise_legal h c _ _
  split
  · exact State.setCore_retire_legal h c (h.core c)
  · exact State.setCore_legal_of_status h c rfl

theorem execIdleWake_legal (h : LegalCores s.cores) (c) : LegalNext (execIdleWake c s) := by
  unfold execIdleWake
  rw [legalNext_next]
  split
  · exact State.setCore_retire_legal h c (h.core c)
  · exact h

theorem execTakeInterrupt_legal (h : LegalCores s.cores) (c) : LegalNext (execTakeInterrupt c s) := by
  unfold execTakeInterrupt
  rw [legalNext_next]
  split
  · split
    · exact State.takeInterrupt_legal h c _
    · exact h
  · exact h

/-! ### Tickets -/

/-- The core that issues a ticket and retires. -/
theorem Core.issue_retire_legal {k : Core} (h : k.statusLegal) (c : CoreId) (cls rd v t) (b : Bool) (st : Option Byte) :
    (((if b then (k.issueTicket cls st).queueTicket t else k.issueTicket cls st).setReg rd v).retire c).statusLegal :=
  have hi := Core.issueTicket_holds h cls st
  Core.retire_holds (Core.setReg_holds (legal_ite (fun _ => Core.queueTicket_legal hi t) fun _ => hi) rd v) c

theorem execSub_legal (h : LegalCores s.cores) (c f) : LegalNext (execSub c f s) := by
  unfold execSub
  extract_lets k
  split
  · exact State.raise_legal h c _ _
  refine State.runInsn_legal h c _ _ fun h => ?_
  extract_lets a d zero issued r copy s1 s2
  have hk : k.statusLegal := h.core c
  have hz : LegalCores zero.cores := State.setCore_retire_legal h c (Core.setReg_holds hk _ _)
  have hi (st) : (issued st).statusLegal := Core.issue_retire_legal hk c _ _ _ _ _ st
  have h2 : LegalCores s2.cores := by rwa [State.setRing_cores, State.writeDram_cores]
  clear_value issued zero s2
  split
  next e => exact State.checkAccess_legal h e
  split
  · split
    · exact State.raise_legal h c _ _
    split
    · exact hz
    · exact State.setCore_legal h c (hi _)
  · split
    · exact State.raise_legal h c _ _
    split
    · exact hz
    split
    · exact State.setCore_legal h c (hi _)
    split
    · exact State.setCore_legal h c (hi _)
    · exact State.setCore_legal h2 c (hi _)

theorem execWtc_legal (h : LegalCores s.cores) (c f) : LegalNext (execWtc c f s) := by
  refine State.runInsn_legal h c _ _ fun h => ?_
  dsimp only
  split
  · exact State.raise_legal h c _ _
  split
  · exact State.setCore_retire_legal h c (Core.setReg_holds (h.core c) _ _)
  · exact State.setCore_legal_of_status h c rfl

theorem execWtcReturn_legal (h : LegalCores s.cores) (c) : LegalNext (execWtcReturn c s) := by
  unfold execWtcReturn
  extract_lets k
  rw [legalNext_next]
  split
  · split
    · split
      · exact State.setCore_retire_legal h c (Core.setReg_holds (h.core c) _ _)
      · exact h
    · exact h
  · exact h

theorem execTkp_legal (h : LegalCores s.cores) (c f) : LegalNext (execTkp c f s) := by
  refine State.runInsn_legal h c _ _ fun h => ?_
  dsimp only
  split
  · exact State.raise_legal h c _ _
  · exact State.setCore_retire_legal h c (Core.setReg_holds (h.core c) _ _)

theorem execFnc_legal (h : LegalCores s.cores) (c f) : LegalNext (execFnc c f s) := by
  refine State.runInsn_legal h c _ _ fun h => ?_
  dsimp only
  split
  · exact State.setCore_legal_of_status h c rfl
  · exact State.setCore_retire_legal h c (h.core c)

theorem execFncReturn_legal (h : LegalCores s.cores) (c) : LegalNext (execFncReturn c s) := by
  unfold execFncReturn
  extract_lets k
  rw [legalNext_next]
  split
  · split
    · exact State.setCore_retire_legal h c (h.core c)
    · exact h
  · exact h

theorem execGtc_legal (h : LegalCores s.cores) (c f) : LegalNext (execGtc c f s) :=
  State.runInsn_legal h c _ _ fun h => State.setCore_retire_legal h c (Core.setReg_holds (h.core c) _ _)

theorem execDescriptorComplete_legal (h : LegalCores s.cores) (c t seen) : LegalNext (execDescriptorComplete c t seen s) := by
  unfold execDescriptorComplete
  rw [legalNext_next]
  split
  · split
    · split
      · exact State.settleAll_legal (by simpa using State.completeTaken_legal h _ _)
      · exact h
    · exact h
  · exact h

theorem execTkiPop_legal (h : LegalCores s.cores) (w c) : LegalNext (execTkiPop w c s) := by
  unfold execTkiPop
  rw [legalNext_next]
  split
  · rw [answerRead_cores]
    exact State.popTicket_legal h c
  · exact h

/-! ### The control of cores, and registers written -/

theorem execHalt_legal (h : LegalCores s.cores) (w c) : LegalNext (execHalt w c s) := by
  simp [execHalt, h, State.requestHalt_legal h c]

theorem execResume_legal (h : LegalCores s.cores) (w c) : LegalNext (execResume w c s) := by
  simp [execResume, h, State.leaveHalt_legal h c]

theorem execSwiSet_legal (h : LegalCores s.cores) (w cores) : LegalNext (execSwiSet w cores s) := by
  simp [execSwiSet, h, State.writeSwi_legal h]

theorem execSwiClear_legal (h : LegalCores s.cores) (w cores) : LegalNext (execSwiClear w cores s) := by
  simp [execSwiClear, h, State.writeSwi_legal h]

theorem execRegisterWrite_legal (h : LegalCores s.cores) (w off value) : LegalNext (execRegisterWrite w off value s) := by
  unfold execRegisterWrite
  extract_lets a
  rw [legalNext_next]
  split
  · exact h
  split
  next t e =>
    have ht : LegalCores t.cores := State.regDoor_opens_cores e ▸ h
    exact State.writeReg_legal ht _ _ _
  next t e =>
    have ht : LegalCores t.cores := State.regDoor_waits_cores e ▸ h
    exact ht
  · exact h

/-! ### Recipes -/

theorem execRecipeLoad_legal (h : LegalCores s.cores) (src place) : LegalNext (execRecipeLoad src place s) := by
  unfold execRecipeLoad
  rw [legalNext_next]
  split
  · exact h
  split
  · exact h
  next ref e t ht =>
    have ht := State.takeCommand_legal h ht
    extract_lets addr len m tb act handle u v
    iterate 2 split; · simpa using ht
    split
    · simpa using ht
    · iterate 2 split; · simpa using ht
      have hu : LegalCores u.cores := State.placeRecipe_legal ht m place handle
      rw [State.completeCommand_cores]
      dsimp only [v]
      split <;> exact hu

theorem execRecipeLaunch_legal (h : LegalCores s.cores) (src) : LegalNext (execRecipeLaunch src s) := by
  unfold execRecipeLaunch
  rw [legalNext_next]
  split
  · exact h
  next ref e t ht =>
    have ht := State.takeCommand_legal h ht
    have hc (code status) : LegalCores (t.completeCommand ref code status).cores := by rwa [State.completeCommand_cores]
    extract_lets i
    split
    · exact hc _ _
    split
    · exact hc _ _
    extract_lets u v w
    split
    · exact hc _ _
    split
    · exact hc _ _
    have hu : LegalCores u.cores := by rwa [t.writeDram_cores]
    have hv : LegalCores v.cores := foldl_legal hu fun _ c h => State.setCore_legal_of_status h c rfl
    rw [State.completeCommand_cores]
    exact hv

theorem execRecipeStart_legal (h : LegalCores s.cores) (handle) : LegalNext (execRecipeStart handle s) := by
  unfold execRecipeStart
  rw [legalNext_next]
  split
  · split
    · split
      · extract_lets t
        have ht : LegalCores t.cores := foldl_legal h fun _ x h => State.setCore_legal h x.1.1 (Core.startRecipe_holds (h.core _) _ _ _)
        exact ht
      · exact h
    · exact h
  · exact h

theorem execRecipeUnload_legal (h : LegalCores s.cores) (src) : LegalNext (execRecipeUnload src s) := by
  unfold execRecipeUnload
  rw [legalNext_next]
  split
  · exact h
  next ref e t ht =>
    have ht := State.takeCommand_legal h ht
    extract_lets i
    split
    · simpa using ht
    · extract_lets u v w
      split
      · exact ht
      · have hv : LegalCores v.cores := by
          dsimp only [v]
          split
          · exact ht
          · exact foldl_legal (s := u) ht fun _ c h => State.stopCore_legal h c
        refine State.settleUnload_legal ?_ i
        rw [foldl_cores (fun _ _ => by simp)]
        simpa [w] using hv

/-! ### Faults, resets and power -/

theorem execClock_legal (h : LegalCores s.cores) (polder) : LegalNext (execClock polder s) := by
  unfold execClock
  extract_lets p
  rw [legalNext_next]
  split
  · exact State.doubt_legal h _ _ _ _ _
  · exact State.doubt_legal (by simpa using h) _ _ _ _ _

theorem execWatchdog_legal (h : LegalCores s.cores) (c) : LegalNext (execWatchdog c s) := by
  unfold execWatchdog
  extract_lets period last
  rw [legalNext_next]
  split
  · exact State.doubt_legal (by simpa using h) _ _ _ _ _
  · exact h

theorem execHsmAbort_legal (h : LegalCores s.cores) (polder machine work) : LegalNext (execHsmAbort polder machine work s) := by
  unfold execHsmAbort
  extract_lets t
  have ht : LegalCores t.cores := State.doubt_legal h _ _ _ _ _
  rw [legalNext_next]
  split
  · exact State.abortTaken_legal ht _
  · exact ht

theorem execColdStart_legal (h : LegalCores s.cores) (chans dram eepromOk loaderOk) :
    LegalNext (execColdStart chans dram eepromOk loaderOk s) := by
  unfold execColdStart
  rw [legalNext_next]
  split
  · split
    · simpa using h
    · exact h
  · split
    · exact State.startLoader_legal (by simpa using h) _ _
    · exact h
  · exact h

theorem execWarmReset_legal (h : LegalCores s.cores) (w value loaderOk) : LegalNext (execWarmReset w value loaderOk s) := by
  unfold execWarmReset
  rw [legalNext_next]
  split
  · exact State.finishWarm_legal h _
  · exact State.writeWarm_legal h _ _ _

theorem execCoreReset_legal (h : LegalCores s.cores) (w c) : LegalNext (execCoreReset w c s) := by
  simp [execCoreReset, h, State.writeCoreRst_legal h]

theorem execCoreRelease_legal (h : LegalCores s.cores) (w c) : LegalNext (execCoreRelease w c s) := by
  simp [execCoreRelease, h, State.writeCoreRst_legal h]

theorem execMs4Entry_legal (h : LegalCores s.cores) : LegalNext (execMs4Entry s) := by
  unfold execMs4Entry
  rw [legalNext_next]
  split
  · simpa using h
  · split
    · exact s.sleep_legal
    · exact h
  · exact h

theorem execMs4Exit_legal (h : LegalCores s.cores) (eccError loaderOk) : LegalNext (execMs4Exit eccError loaderOk s) := by
  unfold execMs4Exit
  rw [legalNext_next]
  split
  · simpa using h
  · split
    · exact h
    split
    · simpa using h
    · exact State.warmReset_legal _ _
  · exact h

theorem execInputStart_legal (h : LegalCores s.cores) : LegalNext (execInputStart s) := by
  simp [execInputStart, h, State.coldReset_legal]

theorem execFlushEnd_legal (h : LegalCores s.cores) : LegalNext (execFlushEnd s) := by
  unfold execFlushEnd
  rw [legalNext_next]
  split
  · exact h
  next f _ =>
    split
    · split
      · exact s.shed_legal f
      · exact h
    · simpa using h

theorem execPostFlushRestart_legal (h : LegalCores s.cores) (recovered) : LegalNext (execPostFlushRestart recovered s) := by
  simp [execPostFlushRestart, h, State.coldReset_legal]

theorem execPowerOnCommand_legal (h : LegalCores s.cores) : LegalNext (execPowerOnCommand s) := by
  simp [execPowerOnCommand, h, State.coldReset_legal]

theorem execTestEnd_legal (h : LegalCores s.cores) : LegalNext (execTestEnd s) := by
  unfold execTestEnd
  rw [legalNext_next]
  split
  · split
    · exact h
    · extract_lets c failed p s1 s2 s3
      have h3 : LegalCores s3.cores := by simpa [s3, s2, s1] using h
      split
      · exact State.doubt_legal h3 _ _ _ _ _
      · exact h3
  · exact h

theorem execActivation_legal (h : LegalCores s.cores) (loaderOk) : LegalNext (execActivation loaderOk s) := by
  simp [execActivation, h, State.warmReset_legal]

theorem execImageWriteDone_legal (h : LegalCores s.cores) (ok loaderOk) : LegalNext (execImageWriteDone ok loaderOk s) := by
  unfold execImageWriteDone
  rw [legalNext_next]
  split
  · exact h
  · split
    · exact State.imageWritten_legal h _ _
    · simpa using h

/-! ### All commands -/

/-- Every command keeps each core's STATUS legal. -/
theorem exec_legal (h : LegalCores s.cores) (i : Instr) : LegalNext (exec i s) := by
  cases i with
  | add c w => exact execAdd_legal h c w
  | dif c f | and c f | or c f | xor c f | sll c f | srl c f | sra c f | slt c f | sltu c f | min c f | max c f | minu c f | maxu c f
  | addw c f | difw c f | sllw c f | srlw c f | sraw c f | mul c f | mulh c f | mulhu c f | div c f | divu c f | rem c f | remu c f =>
    exact State.rrrOp_legal h c _ _ f _
  | clz c f | ctz c f | pop c f | bswapH c f | bswapW c f | bswapD c f =>
    exact State.unaryOp_legal h c _ f _
  | addi c f | andi c f | ori c f | xori c f | slti c f | sltiu c f =>
    exact State.rriOp_legal h c _ f _
  | slli c f | srli c f | srai c f =>
    exact State.shiftOp_legal h c _ f _
  | lui c f | vext c f | vredsum c f =>
    exact State.writesReg_legal h c _ _ _ _
  | beq c f | bne c f | blt c f | bge c f | bltu c f | bgeu c f =>
    exact State.branchOp_legal h c _ f _
  | j c off => exact execJ_legal h c off
  | jal c off => exact execJal_legal h c off
  | jalr c f => exact execJalr_legal h c f
  | lb c f | lbu c f | lh c f | lhu c f | ld c f =>
    exact State.loadOp_legal h c _ _ f _
  | lw c f | lwu c f =>
    exact State.loadWord_legal h c _ f _
  | vld c f => exact execVld_legal h c f
  | sb c f | sh c f | sd c f =>
    exact State.storeOp_legal h c _ _ f
  | sw c f => exact execSw_legal h c f
  | vst c f => exact execVst_legal h c f
  | atadd c f | atswp c f | atand c f | ator c f | atxor c f | atmax c f | atmin c f | atmaxu c f | atminu c f | atcas c f =>
    exact State.atomOp_legal h c _ f
  | vadd c f | vdif c f | vmul c f | vand c f | vor c f | vxor c f | vmin c f | vmax c f | vminu c f | vmaxu c f | vsll c f | vsrl c f
  | vsra c f | vcmpeq c f | vcmplt c f | vcmpltu c f =>
    exact State.vecOp_legal h c _ f
  | vbcast c f => exact execVbcast_legal h c f
  | vins c f => exact execVins_legal h c f
  | vfadd c f | vfdif c f | vfmul c f | vfma c f | vfmin c f | vfmax c f | vfcvtI c f | vfcvtF c f =>
    exact State.vecFloatOp_legal h c _ f
  | csrr c f | csrw c f | csrset c f | csrclr c f =>
    exact State.csrOp_legal h c _ f _ _
  | mbar c f => exact execMbar_legal h c f
  | ibar c f => exact execIbar_legal h c f
  | svc c f => exact execSvc_legal h c f
  | brk c f => exact execBrk_legal h c f
  | tret c f => exact execTret_legal h c f
  | idle c f => exact execIdle_legal h c f
  | idleWake c => exact execIdleWake_legal h c
  | sub c f => exact execSub_legal h c f
  | wtc c f => exact execWtc_legal h c f
  | wtcReturn c => exact execWtcReturn_legal h c
  | tkp c f => exact execTkp_legal h c f
  | fnc c f => exact execFnc_legal h c f
  | fncReturn c => exact execFncReturn_legal h c
  | gtc c f => exact execGtc_legal h c f
  | takeInterrupt c => exact execTakeInterrupt_legal h c
  | timerInterrupt c => exact execTimerInterrupt_legal h c
  | halt w c => exact execHalt_legal h w c
  | resume w c => exact execResume_legal h w c
  | swiSet w cores => exact execSwiSet_legal h w cores
  | swiClear w cores => exact execSwiClear_legal h w cores
  | ringEnable w value => exact execRingEnable_legal h w value
  | ringDisable w value => exact execRingDisable_legal h w value
  | ringDrained cls ring => exact execRingDrained_legal h cls ring
  | descriptorTake cls => exact execDescriptorTake_legal h cls
  | descriptorComplete c t seen => exact execDescriptorComplete_legal h c t seen
  | tkiPop w c => exact execTkiPop_legal h w c
  | sqTail qcn value stores => exact execSqTail_legal h qcn value stores
  | cqHead qcn value => exact execCqHead_legal h qcn value
  | recipeLoad src place => exact execRecipeLoad_legal h src place
  | recipeLaunch src => exact execRecipeLaunch_legal h src
  | recipeStart handle => exact execRecipeStart_legal h handle
  | recipeUnload src => exact execRecipeUnload_legal h src
  | recipeStatus src => exact execRecipeStatus_legal h src
  | cmdSpaceCreate src => exact execCmdSpaceCreate_legal h src
  | cmdSpaceDelete src => exact execCmdSpaceDelete_legal h src
  | nsAttach src => exact execNsAttach_legal h src
  | caskGrant src => exact execCaskGrant_legal h src
  | grantWithdraw src => exact execGrantWithdraw_legal h src
  | fillList c t => exact execFillList_legal h c t
  | permute c t => exact execPermute_legal h c t
  | spare c t peer => exact execSpare_legal h c t peer
  | close c t => exact execClose_legal h c t
  | gristReadIssue rebuilt => exact execGristReadIssue_legal h rebuilt
  | catalogMiss ring => exact execCatalogMiss_legal h ring
  | itemStaged ring pos peer => exact execItemStaged_legal h ring pos peer
  | decode c t => exact execDecode_legal h c t
  | probe c t => exact execProbe_legal h c t
  | decompress c t => exact execDecompress_legal h c t
  | compress c t mismatch => exact execCompress_legal h c t mismatch
  | gfCombine c t => exact execGfCombine_legal h c t
  | transform c t tileError => exact execTransform_legal h c t tileError
  | score c t tileError => exact execScore_legal h c t tileError
  | modelLoad c t => exact execModelLoad_legal h c t
  | modelUnload c t => exact execModelUnload_legal h c t
  | filter c t => exact execFilter_legal h c t
  | loadSet c t => exact execLoadSet_legal h c t
  | signature c t => exact execSignature_legal h c t
  | unloadSet c t => exact execUnloadSet_legal h c t
  | tokenize c t => exact execTokenize_legal h c t
  | vocabLoad c t => exact execVocabLoad_legal h c t
  | vocabUnload c t => exact execVocabUnload_legal h c t
  | packSlots c t => exact execPackSlots_legal h c t
  | packRows c t => exact execPackRows_legal h c t
  | merge c t => exact execMerge_legal h c t
  | discard c t => exact execDiscard_legal h c t
  | physRead c t => exact execPhysRead_legal h c t
  | channelService c t best => exact execChannelService_legal h c t best
  | channelTraining ch dies best => exact execChannelTraining_legal h ch dies best
  | codewordRead die block page plane cw shows => exact execCodewordRead_legal h die block page plane cw shows
  | stripeReconstruction die block page plane cw => exact execStripeReconstruction_legal h die block page plane cw
  | programDone gcStream m ok => exact execProgramDone_legal h gcStream m ok
  | eraseDone m ok => exact execEraseDone_legal h m ok
  | dieTimeout die cleared answers => exact execDieTimeout_legal h die cleared answers
  | dieRebuild => exact execDieRebuild_legal h
  | patrolRead => exact execPatrolRead_legal h
  | periodicCalibration ch => exact execPeriodicCalibration_legal h ch
  | tempCalibration ch temp => exact execTempCalibration_legal h ch temp
  | read c t => exact execRead_legal h c t
  | write c t => exact execWrite_legal h c t
  | trim c t runs => exact execTrim_legal h c t runs
  | spaceCreate c t => exact execSpaceCreate_legal h c t
  | spaceDelete c t => exact execSpaceDelete_legal h c t
  | spaceWalk space => exact execSpaceWalk_legal h space
  | sync c t => exact execSync_legal h c t
  | journalPageProgram ok => exact execJournalPageProgram_legal h ok
  | fillTimer => exact execFillTimer_legal h
  | mapPageRead page => exact execMapPageRead_legal h page
  | mapWriteback page ok => exact execMapWriteback_legal h page ok
  | checkpoint => exact execCheckpoint_legal h
  | backgroundGc => exact execBackgroundGc_legal h
  | foregroundGc => exact execForegroundGc_legal h
  | gcMove => exact execGcMove_legal h
  | victimErase => exact execVictimErase_legal h
  | mount copies checkpoint => exact execMount_legal h copies checkpoint
  | portEnable w port value partner => exact execPortEnable_legal h w port value partner
  | linkDown sub => exact execLinkDown_legal h sub
  | linkUp sub => exact execLinkUp_legal h sub
  | packetReceive p kib recycled => exact execPacketReceive_legal h p kib recycled
  | pfcRepeat sub kib => exact execPfcRepeat_legal h sub kib
  | puntFrame sub frame => exact execPuntFrame_legal h sub frame
  | cnpReceive qcn => exact execCnpReceive_legal h qcn
  | rcRise sub service subscriber => exact execRcRise_legal h sub service subscriber
  | pfcReceive sub prio quanta => exact execPfcReceive_legal h sub prio quanta
  | pauseExpiry sub => exact execPauseExpiry_legal h sub
  | retryTimeout qcn => exact execRetryTimeout_legal h qcn
  | init w setup => exact execInit_legal h w setup
  | rtr w => exact execRtr_legal h w
  | rts w => exact execRts_legal h w
  | err w => exact execErr_legal h w
  | reset w unbind => exact execReset_legal h w unbind
  | deliver c t => exact execDeliver_legal h c t
  | grant qcn msg => exact execGrant_legal h qcn msg
  | decline qcn msg => exact execDecline_legal h qcn msg
  | sealAcknowledged c t => exact execSealAcknowledged_legal h c t
  | release c t => exact execRelease_legal h c t
  | noGrant c t => exact execNoGrant_legal h c t
  | reconRead c t => exact execReconRead_legal h c t
  | register c t => exact execRegister_legal h c t
  | revoke c t => exact execRevoke_legal h c t
  | revokeTimeout c t => exact execRevokeTimeout_legal h c t
  | packetSchedule sub => exact execPacketSchedule_legal h sub
  | wheelRelease => exact execWheelRelease_legal h
  | queueSample => exact execQueueSample_legal h
  | qLatch w value => exact execQLatch_legal h w value
  | qDepthRead => exact execQDepthRead_legal h
  | qDelayRead => exact execQDelayRead_legal h
  | perst => exact execPerst_legal h
  | createIoSq fn => exact execCreateIoSq_legal h fn
  | createIoCq fn => exact execCreateIoCq_legal h fn
  | deleteIoSq fn => exact execDeleteIoSq_legal h fn
  | deleteIoCq fn => exact execDeleteIoCq_legal h fn
  | getLogPage fn => exact execGetLogPage_legal h fn
  | identify fn => exact execIdentify_legal h fn
  | abort fn => exact execAbort_legal h fn
  | setFeatures fn => exact execSetFeatures_legal h fn
  | getFeatures fn => exact execGetFeatures_legal h fn
  | asynchronousEventRequest fn => exact execAsynchronousEventRequest_legal h fn
  | firmwareImageDownload src offset data => exact execFirmwareImageDownload_legal h src offset data
  | firmwareCommit src fs ca => exact execFirmwareCommit_legal h src fs ca
  | imageWriteDone ok loaderOk => exact execImageWriteDone_legal h ok loaderOk
  | createCommandRing => exact execCreateCommandRing_legal h
  | deleteCommandRing => exact execDeleteCommandRing_legal h
  | nvmeFlush fn => exact execNvmeFlush_legal h fn
  | nvmeWrite fn => exact execNvmeWrite_legal h fn
  | nvmeRead fn => exact execNvmeRead_legal h fn
  | writeZeroes fn => exact execWriteZeroes_legal h fn
  | datasetManagement fn runs => exact execDatasetManagement_legal h fn runs
  | controllerReset fn => exact execControllerReset_legal h fn
  | apst fn => exact execApst_legal h fn
  | powerStateChange => exact execPowerStateChange_legal h
  | hostDeliver c t fails => exact execHostDeliver_legal h c t fails
  | copy c t => exact execCopy_legal h c t
  | go w n => exact execGo_legal h w n
  | dmaBurst fails => exact execDmaBurst_legal h fails
  | dmaTransferDone n => exact execDmaTransferDone_legal h n
  | pause w n => exact execPause_legal h w n
  | pauseClear w n => exact execPauseClear_legal h w n
  | valid w n => exact execValid_legal h w n
  | poolEnable w n value => exact execPoolEnable_legal h w n value
  | freeListBuilt n => exact execFreeListBuilt_legal h n
  | poolDisable w n value => exact execPoolDisable_legal h w n value
  | alloc c t => exact execAlloc_legal h c t
  | free c t => exact execFree_legal h c t
  | leaseRenewal => exact execLeaseRenewal_legal h
  | leaseGrant requested granted lease term => exact execLeaseGrant_legal h requested granted lease term
  | fence => exact execFence_legal h
  | unfence w => exact execUnfence_legal h w
  | leaseExpiryWrite w value => exact execLeaseExpiryWrite_legal h w value
  | workerDead worker spare group place lastGrant => exact execWorkerDead_legal h worker spare group place lastGrant
  | managerTakeover grants => exact execManagerTakeover_legal h grants
  | ptpExchange offset rate => exact execPtpExchange_legal h offset rate
  | holdover => exact execHoldover_legal h
  | dropMap epoch block positions maps => exact execDropMap_legal h epoch block positions maps
  | backupStart group seq place firstOffer delay node recovered => exact execBackupStart_legal h group seq place firstOffer delay node recovered
  | checkPreparation seq part => exact execCheckPreparation_legal h seq part
  | digestMismatch seq part first second third delivered qcn => exact execDigestMismatch_legal h seq part first second third delivered qcn
  | coldStart chans dram eepromOk loaderOk => exact execColdStart_legal h chans dram eepromOk loaderOk
  | ladderStep => exact execLadderStep_legal h
  | warmReset w value loaderOk => exact execWarmReset_legal h w value loaderOk
  | polderReset w value =>
    exact State.writePolderReset_legal h _ _
  | coreReset w c => exact execCoreReset_legal h w c
  | coreRelease w c => exact execCoreRelease_legal h w c
  | padRelease w polders => exact execPadRelease_legal h w polders
  | clockStop w polder stop => exact execClockStop_legal h w polder stop
  | clockSourceSwitch w polder pll => exact execClockSourceSwitch_legal h w polder pll
  | oppChange w polder opp => exact execOppChange_legal h w polder opp
  | powerGovernor input nand => exact execPowerGovernor_legal h input nand
  | clockStretch polder => exact execClockStretch_legal h polder
  | ms3Entry => exact execMs3Entry_legal h
  | ms3Exit => exact execMs3Exit_legal h
  | ms4Entry => exact execMs4Entry_legal h
  | ms4Exit eccError loaderOk => exact execMs4Exit_legal h eccError loaderOk
  | sidebandMatch addr => exact execSidebandMatch_legal h addr
  | pcieWake => exact execPcieWake_legal h
  | gtcWake => exact execGtcWake_legal h
  | inputStart => exact execInputStart_legal h
  | dip => exact execDip_legal h
  | powerFailTrigger | overvoltage | overcurrent =>
    exact State.powerFail_legal h _
  | flushEnd => exact execFlushEnd_legal h
  | postFlushRestart recovered => exact execPostFlushRestart_legal h recovered
  | bankSample vbank vin iin => exact execBankSample_legal h vbank vin iin
  | capacitorTest => exact execCapacitorTest_legal h
  | testLoadConnect drop => exact execTestLoadConnect_legal h drop
  | testLoadDisconnect => exact execTestLoadDisconnect_legal h
  | testEnd => exact execTestEnd_legal h
  | capacitorTestRequest w => exact execCapacitorTestRequest_legal h w
  | controlledPowerOff w value => exact execControlledPowerOff_legal h w value
  | ejectorOpen => exact execEjectorOpen_legal h
  | nandRailTrip | sramUe polder detail address | dramUe polder detail address | voltage polder | selfCheck polder detail =>
    exact State.doubt_legal h _ _ _ _ _
  | thermalThrottle temp => exact execThermalThrottle_legal h temp
  | thermalPowerOff temp => exact execThermalPowerOff_legal h temp
  | restartWrite w n value => exact execRestartWrite_legal h w n value
  | gtcNowRead high => exact execGtcNowRead_legal h high
  | clock polder => exact execClock_legal h polder
  | watchdog c => exact execWatchdog_legal h c
  | hsmAbort polder machine work => exact execHsmAbort_legal h polder machine work
  | force w value =>
    exact State.writeForce_legal h _ _
  | singleFlip => exact execSingleFlip_legal h
  | kick w cores => exact execKick_legal h w cores
  | clear w units => exact execClear_legal h w units
  | latch w unit => exact execLatch_legal h w unit
  | selfTestRequest w cls unit => exact execSelfTestRequest_legal h w cls unit
  | retire w cls unit => exact execRetire_legal h w cls unit
  | selfTest passes => exact execSelfTest_legal h passes
  | replayRequest ev => exact execReplayRequest_legal h ev
  | dapRead space addr | dapWrite space addr data =>
    exact State.dapScan_legal h _
  | idcode => exact execIdcode_legal h
  | bypass ir => exact execBypass_legal h ir
  | traceSync => exact execTraceSync_legal h
  | arm w => exact execArm_legal h w
  | fire w => exact execFire_legal h w
  | frozen => exact execFrozen_legal h
  | mark w value => exact execMark_legal h w value
  | tracePortSend => exact execTracePortSend_legal h
  | attest w => exact execAttest_legal h w
  | readCert w => exact execReadCert_legal h w
  | dbgChallenge w => exact execDbgChallenge_legal h w
  | dbgUnlock w => exact execDbgUnlock_legal h w
  | tokenRefill => exact execTokenRefill_legal h
  | svnCommit w => exact execSvnCommit_legal h w
  | activationArm w value => exact execActivationArm_legal h w value
  | disarm w => exact execDisarm_legal h w
  | activation loaderOk => exact execActivation_legal h loaderOk
  | registerWrite w off value => exact execRegisterWrite_legal h w off value
  | powerOnCommand => exact execPowerOnCommand_legal h
  | pllLock polder => exact execPllLock_legal h polder
  | managementMailboxRead c => exact execManagementMailboxRead_legal h c
  | inputHigh => exact execInputHigh_legal h
  | nandOverload => exact execNandOverload_legal h
  | pcieLinkTrained speed width flit vfs payload => exact execPcieLinkTrained_legal h speed width flit vfs payload
  | nvmeDoorbell fn qid completion value stores => exact execNvmeDoorbell_legal h fn qid completion value stores
  | controllerEnable fn asq acq sqSize cqSize mps wrr => exact execControllerEnable_legal h fn asq acq sqSize cqSize mps wrr
  | generationHoldEnd c t => exact execGenerationHoldEnd_legal h c t

end

theorem step_legal {s : State} (h : LegalCores s.cores) : LegalNext (step s) := by
  cases hp : s.pending with
  | nil => rw [step_idle hp]; exact State.tick_legal h
  | cons c rest => rw [step_command hp]; exact exec_legal (s := { s with pending := rest }) h c

/-- Settles O60: `exec_legal` for a command, and `tick_legal` for an idle step. -/
theorem privilegeLevelsKept : Obligations.PrivilegeLevelsKept := by
  unfold Obligations.PrivilegeLevelsKept
  intro s t h ht
  have hs : LegalNext (step s) := step_legal h
  rw [ht] at hs
  exact hs

end Sys2Proof.Machine

/-!
SUPPORT. Taking, completing and popping: what an engine's accesses touch, the ring a take moves on, and what a completion leaves
(R87, R98 to R102, R105, R106).
-/

namespace Sys2Proof.Machine

/-! ## Accesses of an engine (R593, R597) -/

theorem foldl_onlyLogs {α : Type} {f : State → α → State} (hf : ∀ s a, OnlyLogs s (f s a)) (l : List α) (s : State) :
    OnlyLogs s (l.foldl f s) :=
  List.foldlRecOn (motive := OnlyLogs s) l f (OnlyLogs.refl s) fun t ht a _ => ht.trans (hf t a)

/-- An engine's access touches the counters, and the trace where a filter matches. -/
theorem State.engineAccess_onlyLogs (s : State) (cls : Nat) (write : Bool) (a n : Nat) : OnlyLogs s (s.engineAccess cls write a n) := by
  unfold State.engineAccess
  refine OnlyLogs.ite (OnlyLogs.refl s) ((s.count_onlyLogs _ _ _).trans (foldl_onlyLogs (fun t i => ?_) _ _))
  exact OnlyLogs.ite ((t.emit_onlyLogs _ _ _ _).trans (State.trigger_onlyLogs _ _)) (OnlyLogs.refl t)

theorem State.engineWrite_dram (s : State) (cls a : Nat) (bs : List Byte) :
    (s.engineWrite cls a bs).dram = Mem.store s.dram a bs :=
  (State.engineAccess_onlyLogs _ cls true a bs.length).dram

theorem State.engineWrite_taken (s : State) (cls a : Nat) (bs : List Byte) : (s.engineWrite cls a bs).taken = s.taken :=
  (State.engineAccess_onlyLogs _ cls true a bs.length).taken

/-! ## Taking a descriptor (R87, R98, R99) -/

theorem State.ring_of_rings {s t : State} (h : t.rings = s.rings) (cls ring : Nat) : t.ring cls ring = s.ring cls ring := by
  rw [State.ring, State.ring, h]

theorem State.ring_setRing_self (s : State) (cls ring : Nat) (r : Ring) : (s.setRing cls ring r).ring cls ring = r := by
  rw [State.ring_setRing, if_pos rfl]

/-- Rings below 1024 of every class have keys of their own. -/
theorem ringKey_ne {a b cls ring : Nat} (hb : b < 1024) (hr : ring < 1024) (h : (a, b) ≠ (cls, ring)) :
    ringKey a b ≠ ringKey cls ring := by
  have hring : (BitVec.ofNat 10 ring).toNat = ring := by rw [BitVec.toNat_ofNat, Nat.mod_eq_of_lt hr]
  exact hring ▸ ringKey_inj hb (hring.symm ▸ h)

section
variable (s : State) (x : Taken)

/-- The state once an engine has taken `x`, but for the TAKE record: the turn is spent, HEAD has moved on and `x` is in work. -/
def State.movesOn (s : State) (x : Taken) : State :=
  let r := s.ring x.cls x.ring
  { (s.spendRing x.cls x.ring).setRing x.cls x.ring { r with head := (r.head + 1) % (2 * r.size) } with taken := s.taken ++ [x] }

theorem State.take_onlyLogs : OnlyLogs (s.movesOn x) (s.take x none) := by
  unfold State.take
  extract_lets r s1 s2 s3 s4
  have h3 : OnlyLogs s2 s3 := OnlyLogs.ite (s2.emit_onlyLogs _ _ _ _) (OnlyLogs.refl s2)
  exact congrArg (fun t : State => { t with taken := t.taken ++ [x] }) h3

/-- A failed check ends the descriptor just taken, and its ring counts it (R98, R99). -/
theorem State.take_failed (code : Nat) : s.take x (some code) = ((s.take x none).ringError x.cls x.ring).finish x code 0 [] := rfl

theorem State.take_taken : (s.take x none).taken = s.taken ++ [x] := (s.take_onlyLogs x).taken
theorem State.take_dram : (s.take x none).dram = s.dram := (s.take_onlyLogs x).dram

theorem State.take_ring (a b : Nat) : (s.take x none).ring a b =
    if ringKey a b = ringKey x.cls x.ring then
      { s.ring x.cls x.ring with head := ((s.ring x.cls x.ring).head + 1) % (2 * (s.ring x.cls x.ring).size) }
    else s.ring a b :=
  (State.ring_of_rings (s.take_onlyLogs x).rings a b).trans (State.ring_setRing (s.spendRing x.cls x.ring) x.cls x.ring a b _)

theorem State.take_takenAt (h : s.takenAt x.core x.ticket = none) : (s.take x none).takenAt x.core x.ticket = some x := by
  unfold State.takenAt at *
  rw [State.take_taken, List.find?_append, h]
  simp

theorem State.take_failed_ring (code : Nat) : (s.take x (some code)).ring x.cls x.ring =
    { s.ring x.cls x.ring with
      head := ((s.ring x.cls x.ring).head + 1) % (2 * (s.ring x.cls x.ring).size)
      errors := min 0xFFFF ((s.ring x.cls x.ring).errors + 1) } := by
  have hring : (s.take x (some code)).ring x.cls x.ring = ((s.take x none).ringError x.cls x.ring).ring x.cls x.ring := rfl
  rw [hring, State.ringError, State.ring_setRing_self, State.take_ring, if_pos rfl]
  rfl

end

/-! ## Completing a descriptor (R99 to R102, R105) -/

/-- A byte of a word, taken from its number. -/
theorem ofNat_byte {w : Nat} (v : BitVec w) (i : Nat) : BitVec.ofNat 8 (v.toNat / 256 ^ i) = v.extractLsb' (8 * i) 8 := by
  refine BitVec.eq_of_toNat_eq ?_
  rw [BitVec.toNat_ofNat, BitVec.extractLsb'_toNat, Nat.shiftRight_eq_div_pow, Nat.pow_mul]

/-- The status word of a completed descriptor: status, unit, detail and ticket (R100). -/
def statusWord (x : Taken) (r : Result) : List Byte :=
  leBytes 1 r.status.toNat ++ leBytes 1 x.unit ++ leBytes 2 r.detail.toNat ++ leBytes 4 x.ticket.toNat

theorem statusWord_length (x : Taken) (r : Result) : (statusWord x r).length = 8 := by
  simp only [statusWord, List.length_append, leBytes_length]

theorem statusWord_status (x : Taken) (r : Result) : (statusWord x r).getD 0 0 = r.status :=
  BitVec.ofNat_toNat 8 r.status

theorem statusWord_unit (x : Taken) (r : Result) : (statusWord x r).getD 1 0 = BitVec.ofNat 8 x.unit := rfl

theorem statusWord_detail (x : Taken) (r : Result) (i : Nat) (h : i < 2) :
    (statusWord x r).getD (2 + i) 0 = r.detail.extractLsb' (8 * i) 8 := by
  rw [← ofNat_byte, ← leBytes_getD 2 _ i h, statusWord, List.getD_append _ _ _ _ (by simp [leBytes_length]; omega),
    List.getD_append_right _ _ _ _ (by simp [leBytes_length])]
  simp [leBytes_length]

theorem statusWord_ticket (x : Taken) (r : Result) (i : Nat) (h : i < 4) :
    (statusWord x r).getD (4 + i) 0 = x.ticket.extractLsb' (8 * i) 8 := by
  rw [← ofNat_byte, ← leBytes_getD 4 _ i h, statusWord, List.getD_append_right _ _ _ _ (by simp [leBytes_length])]
  simp [leBytes_length]

theorem Core.completeTicket_g (k : Core) (t : Ticket) (st : Byte) : (k.completeTicket t st).g = k.g := by
  unfold Core.completeTicket; split <;> rfl
theorem Core.completeTicket_pc (k : Core) (t : Ticket) (st : Byte) : (k.completeTicket t st).pc = k.pc := by
  unfold Core.completeTicket; split <;> rfl
theorem Core.completeTicket_tki (k : Core) (t : Ticket) (st : Byte) : (k.completeTicket t st).tki = k.tki := by
  unfold Core.completeTicket; split <;> rfl

/-- The ticket's entry holds the status. -/
theorem Core.completeTicket_entry {k : Core} {t : Ticket} {age : Nat} {e : TicketEntry} (st : Byte) (ha : k.ticketAge t = some age)
    (he : k.tickets[age]? = some e) : (k.completeTicket t st).tickets[age]? = some { e with status := some st } := by
  simp only [Core.completeTicket, ha, List.getElem?_modify_eq, he]
  rfl

theorem Core.queueTicket_g (k : Core) (t : Ticket) : (k.queueTicket t).g = k.g := by unfold Core.queueTicket; split <;> rfl
theorem Core.queueTicket_pc (k : Core) (t : Ticket) : (k.queueTicket t).pc = k.pc := by unfold Core.queueTicket; split <;> rfl
theorem Core.queueTicket_tickets (k : Core) (t : Ticket) : (k.queueTicket t).tickets = k.tickets := by
  unfold Core.queueTicket; split <;> rfl

/-- A core once its descriptor `x` has completed with `r` (R102, R105). -/
def Core.completed (k : Core) (x : Taken) (r : Result) : Core :=
  if descIrq x.desc then (k.completeTicket x.ticket r.status).queueTicket x.ticket else k.completeTicket x.ticket r.status

section
variable (k : Core) (x : Taken) (r : Result)

theorem Core.completed_g : (k.completed x r).g = k.g := by
  unfold Core.completed
  split
  · rw [Core.queueTicket_g, Core.completeTicket_g]
  · rw [Core.completeTicket_g]

theorem Core.completed_pc : (k.completed x r).pc = k.pc := by
  unfold Core.completed
  split
  · rw [Core.queueTicket_pc, Core.completeTicket_pc]
  · rw [Core.completeTicket_pc]

theorem Core.completed_tickets : (k.completed x r).tickets = (k.completeTicket x.ticket r.status).tickets := by
  unfold Core.completed
  split
  · rw [Core.queueTicket_tickets]
  · rfl

variable {x}

theorem Core.completed_queued (hi : descIrq x.desc = true) (h : k.tki.length < 64) : (k.completed x r).tki = k.tki ++ [x.ticket] := by
  rw [Core.completed, if_pos hi, Core.queueTicket, Core.completeTicket_tki, if_pos h]

theorem Core.completed_overflow (hi : descIrq x.desc = true) (h : 64 ≤ k.tki.length) : (k.completed x r).tkiOvf = true := by
  rw [Core.completed, if_pos hi, Core.queueTicket, Core.completeTicket_tki, if_neg (not_lt.2 h)]

theorem Core.completed_silent (hi : descIrq x.desc = false) : (k.completed x r).tki = k.tki := by
  rw [Core.completed, hi, if_neg Bool.false_ne_true, Core.completeTicket_tki]

end

section
variable (s : State) (x : Taken) (r : Result)

/-- The status word is written: R99 and R102 ask for one, and STATUS_ADDR names an address that the checks admit. -/
def State.statusWordDue (s : State) (x : Taken) (r : Result) : Bool :=
  r.writesWord && descStatusAddr x.desc ≠ 0 && s.statusAddrOk x.cls x.ring (descStatusAddr x.desc)

/-- The state with the status word written where one is due. -/
def State.withStatusWord (s : State) (x : Taken) (r : Result) : State :=
  if s.statusWordDue x r then s.engineWrite x.cls (descStatusAddr x.desc) (statusWord x r) else s

theorem State.withStatusWord_dram : (s.withStatusWord x r).dram =
    if s.statusWordDue x r then Mem.store s.dram (descStatusAddr x.desc) (statusWord x r) else s.dram := by
  rw [State.withStatusWord, apply_ite State.dram, State.engineWrite_dram]

theorem State.withStatusWord_core (c : CoreId) : (s.withStatusWord x r).core c = s.core c :=
  State.core_of_cores (by rw [State.withStatusWord, State.cores_ite, State.engineWrite_cores, ite_self]) c

theorem State.withStatusWord_taken : (s.withStatusWord x r).taken = s.taken := by
  rw [State.withStatusWord, apply_ite State.taken, State.engineWrite_taken, ite_self]

/-- A completion, but for the ring's counts and the DONE record: the status word, the core, and the descriptor that is gone. -/
theorem State.completeTaken_frame :
    let u := s.withStatusWord x r
    let v := u.setCore x.core ((u.core x.core).completed x r)
    (s.completeTaken x r).dram = v.dram ∧ (s.completeTaken x r).cores = v.cores ∧
      (s.completeTaken x r).taken = s.taken.filter (fun y => !(y.core == x.core && y.ticket == x.ticket)) := by
  intro u v
  unfold State.completeTaken
  extract_lets a s1 k s2 s3 rg bad s4
  have htaken : s4.taken = s.taken.filter (fun y => !(y.core == x.core && y.ticket == x.ticket)) :=
    congrArg (List.filter _) (s.withStatusWord_taken x r)
  have logs {t : State} (h : OnlyLogs s4 t) : t.dram = v.dram ∧ t.cores = v.cores ∧ t.taken = _ :=
    ⟨h.dram, h.cores, h.taken.trans htaken⟩
  exact logs (OnlyLogs.ite (s4.emit_onlyLogs _ _ _ _) (OnlyLogs.refl s4))

theorem State.completeTaken_dram : (s.completeTaken x r).dram =
    if s.statusWordDue x r then Mem.store s.dram (descStatusAddr x.desc) (statusWord x r) else s.dram :=
  (s.completeTaken_frame x r).1.trans (s.withStatusWord_dram x r)

theorem State.completeTaken_core : (s.completeTaken x r).core x.core = (s.core x.core).completed x r := by
  rw [State.core_of_cores (s.completeTaken_frame x r).2.1, State.core_setCore_self, State.withStatusWord_core]

theorem State.completeTaken_core_of_ne {d : CoreId} (h : d ≠ x.core) : (s.completeTaken x r).core d = s.core d := by
  rw [State.core_of_cores (s.completeTaken_frame x r).2.1, State.core_setCore_of_ne _ _ h, State.withStatusWord_core]

theorem State.completeTaken_takenAt : (s.completeTaken x r).takenAt x.core x.ticket = none := by
  unfold State.takenAt
  rw [(s.completeTaken_frame x r).2.2, List.find?_eq_none]
  intro y hy
  simpa [imp_iff_not_or] using (List.mem_filter.1 hy).2

end

/-! ## The ticket interrupt queue (R105, R106) -/

theorem execTkiPop_reaches {w : Writer} {s : State} (h : s.reaches w polPC = true) (c : CoreId) :
    execTkiPop w c s = .next (answerRead (s.popTicket c)) := by
  rw [execTkiPop, if_pos h]

theorem State.popTicket_queued {s : State} {c : CoreId} {tk : Ticket} {rest : List Ticket} (h : (s.core c).tki = tk :: rest) :
    s.popTicket c = (tk, s.setCore c { s.core c with tki := rest }) := by
  simp only [State.popTicket, h]

theorem State.popTicket_empty {s : State} {c : CoreId} (h : (s.core c).tki = []) : s.popTicket c = (0, s) := by
  simp only [State.popTicket, h]

/-! ## The statement -/

theorem execDescriptorTake_offer {cls : BitVec 4} {s : State} {x : Taken} {failed : Option Nat} (ht : s.takes cls.toNat = true)
    (ho : s.nextOffer cls.toNat = some (x, failed)) : exec (.descriptorTake cls) s = .next (s.take x failed) := by
  change execDescriptorTake cls s = _
  simp only [execDescriptorTake, ht, ho, if_true]

theorem execDescriptorComplete_ended {c : CoreId} {tk : Ticket} {s : State} {x : Taken} {r : Result} (hx : s.takenAt c tk = some x)
    (hr : x.result = some r) (hp : s.polderOn (classPolder x.cls) = true) (seen : Option Nat) :
    exec (.descriptorComplete c tk seen) s = .next (((s.completeTaken x r).watches x r seen).settleAll) := by
  change execDescriptorComplete c tk seen s = _
  simp only [execDescriptorComplete, hx, hr, hp, if_true]

/-- Settles O19: a take by `take_onlyLogs`, a completion by `completeTaken_frame`, a pop by the queue's two cases. -/
theorem descriptorFlow : Obligations.DescriptorFlow := by
  unfold Obligations.DescriptorFlow
  refine ⟨fun cls s x ht _ hring hfree _ => ⟨fun ho => ?_, fun code ho => ?_⟩,
    ⟨fun c tk seen s x r hx hr hp => execDescriptorComplete_ended hx hr hp seen, fun s t x r a ht ha => ?_⟩,
    fun w c s hw => ⟨fun tk rest hq => ?_, fun hq => ?_⟩⟩
  · refine ⟨_, execDescriptorTake_offer ht ho, s.take_taken x, ?_, ?_, fun a b hne hb => ?_, s.take_dram x, s.take_cores x _⟩
    · rw [State.take_ring, if_pos rfl]
    · rw [State.take_ring, if_pos rfl]
    · rw [State.take_ring, if_neg (ringKey_ne hb hring hne)]
  · have hend : (s.take x (some code)).takenAt x.core x.ticket = _ :=
      State.finish_takenAt (s := (s.take x none).ringError x.cls x.ring) (s.take_takenAt x hfree) code 0 []
    exact ⟨_, execDescriptorTake_offer ht ho, hend, by rw [State.take_failed_ring], by rw [State.take_failed_ring], s.take_dram x,
      s.take_cores x _⟩
  · subst ht ha
    have hbyte (i : Nat) (hi : i < 8) (hdue : s.statusWordDue x r = true) :
        Mem.get (s.completeTaken x r).dram (descStatusAddr x.desc + i) = (statusWord x r).getD i 0 := by
      rw [State.completeTaken_dram, if_pos hdue, Mem.get_store, statusWord_length, if_pos (by omega), Nat.add_sub_cancel_left, nth]
    rw [State.completeTaken_core, Core.completed_tickets, Core.completed_g, Core.completed_pc]
    refine ⟨fun hword hne hok => ?_, fun hno => ?_, fun age e => Core.completeTicket_entry _, Core.completed_queued _ _,
      Core.completed_overflow _ _, Core.completed_silent _ _, s.completeTaken_takenAt x r, rfl, rfl,
      fun d => s.completeTaken_core_of_ne x r⟩
    · have hdue : s.statusWordDue x r = true := by rw [State.statusWordDue, hword, hok, decide_eq_true hne]; rfl
      refine ⟨(hbyte 0 (by omega) hdue).trans (statusWord_status x r), hbyte 1 (by omega) hdue, fun i hi => ?_, fun i hi => ?_,
        fun b hb => ?_⟩
      · rw [Nat.add_assoc, hbyte _ (by omega) hdue, statusWord_detail x r i hi]
      · rw [Nat.add_assoc, hbyte _ (by omega) hdue, statusWord_ticket x r i hi]
      · rw [State.completeTaken_dram, if_pos hdue, Mem.get_store, statusWord_length, if_neg (by omega)]
    · have hdue : s.statusWordDue x r = false := by
        rw [State.statusWordDue]
        rcases hno with h | h | h <;> simp [h]
      rw [State.completeTaken_dram, hdue, if_neg Bool.false_ne_true]
  · have hpop := State.popTicket_queued hq
    exact ⟨_, execTkiPop_reaches hw c, by rw [hpop]; rfl, by rw [hpop]; exact s.core_setCore_self c _,
      fun d hd => by rw [hpop]; exact s.core_setCore_of_ne _ hd, by rw [hpop]; rfl⟩
  · have hpop := State.popTicket_empty hq
    exact ⟨_, execTkiPop_reaches hw c, by rw [hpop]; rfl, by rw [hpop]; rfl, by rw [hpop]; rfl⟩

end Sys2Proof.Machine

/-!
SUPPORT. The life of a recipe: what a completed command touches, what a placement leaves, the launch, the start and the release
(R117 to R122, R422, R632).
-/

namespace Sys2Proof.Machine

/-! ## What a command's completion touches (R116, R420, R421) -/

/-- `t` is `s` but for the host's side, the queue contexts and what logging touches. -/
def OnlyHost (s t : State) : Prop := OnlyLogs s { t with host := s.host, qct := s.qct }

theorem OnlyHost.refl (s : State) : OnlyHost s s := rfl

theorem OnlyHost.trans {s t u : State} (h : OnlyHost s t) (g : OnlyHost t u) : OnlyHost s u := by
  unfold OnlyHost OnlyLogs at *
  rw [← h, ← g]

theorem OnlyHost.ite {s a b : State} {c : Prop} [Decidable c] (ha : OnlyHost s a) (hb : OnlyHost s b) : OnlyHost s (if c then a else b) := by
  split
  · exact ha
  · exact hb

theorem OnlyLogs.onlyHost {s t : State} (h : OnlyLogs s t) : OnlyHost s t := by
  unfold OnlyHost OnlyLogs at *
  rw [← h]

theorem OnlyHost.proj {s t : State} (h : OnlyHost s t) {α : Type} (f : State → α) : f { t with
    regs := s.regs, events := s.events, fltLog := s.fltLog, letters := s.letters, msix := s.msix, trace := s.trace
    host := s.host, qct := s.qct } = f s := congrArg f h

theorem OnlyHost.recipes {s t : State} (h : OnlyHost s t) : t.recipes = s.recipes := h.proj State.recipes
theorem OnlyHost.rings {s t : State} (h : OnlyHost s t) : t.rings = s.rings := h.proj State.rings
theorem OnlyHost.cores {s t : State} (h : OnlyHost s t) : t.cores = s.cores := h.proj State.cores

section
variable (s : State)

theorem State.hostWrite_onlyHost (a : Nat) (bs : List Byte) : OnlyHost s (s.hostWrite a bs) := rfl
theorem State.setCq_onlyHost (q : NvmeCq) : OnlyHost s (s.setCq q) := rfl
theorem State.setController_onlyHost (c : Controller) : OnlyHost s (s.setController c) := rfl
theorem State.setCmdRing_onlyHost (i : Nat) (r : CmdRing) : OnlyHost s (s.setCmdRing i r) := rfl
theorem State.interrupt_onlyHost (fn vector : Nat) : OnlyHost s (s.interrupt fn vector) := rfl

theorem State.putCqe_onlyHost (q : NvmeCq) (dw0 sqHead sqid cid status : Nat) : OnlyHost s (s.putCqe q dw0 sqHead sqid cid status) := by
  unfold State.putCqe
  extract_lets s1 t s2
  have h2 : OnlyHost s s2 := (s.hostWrite_onlyHost _ _).trans (s1.setCq_onlyHost _)
  exact OnlyHost.ite (h2.trans (s2.interrupt_onlyHost _ _)) h2

theorem State.nvmeComplete_onlyHost (fn sqid cid dw0 status : Nat) : OnlyHost s (s.nvmeComplete fn sqid cid dw0 status) := by
  unfold State.nvmeComplete
  split
  · exact OnlyHost.refl s
  split
  next c sq _ _ =>
    split
    next q _ =>
      extract_lets s1 s2
      have h1 : OnlyHost s s1 := (s.count_onlyLogs unitHST 0 1).onlyHost
      have h2 : OnlyHost s1 s2 :=
        OnlyHost.ite ((s1.errAdd_onlyLogs _ _).onlyHost.trans (State.setController_onlyHost _ _)) (OnlyHost.refl s1)
      exact (h1.trans h2).trans (OnlyHost.ite (s2.setCq_onlyHost _) (s2.putCqe_onlyHost _ _ _ _ _ _))
    · exact OnlyHost.refl s
  · exact OnlyHost.refl s

theorem State.settleDelete_onlyHost (i : Nat) : OnlyHost s (s.settleDelete i) := by
  unfold State.settleDelete
  split
  · split
    · extract_lets host s1
      have h1 : OnlyHost s s1 := rfl
      exact OnlyHost.ite (h1.trans (s1.nvmeComplete_onlyHost _ _ _ _ _)) (OnlyHost.refl s)
    · exact OnlyHost.refl s
  · exact OnlyHost.refl s

theorem State.putEntry_onlyHost (i : Nat) (r : CmdRing) (e : HeldEntry) : OnlyHost s (s.putEntry i r e) := by
  unfold State.putEntry
  extract_lets s1 t s2
  have h2 : OnlyHost s s2 := (s.hostWrite_onlyHost _ _).trans (s1.setCmdRing_onlyHost _ _)
  exact (h2.trans (s2.count_onlyLogs unitHST 3 1).onlyHost).trans (State.interrupt_onlyHost _ _ _)

theorem State.completeCommand_onlyHost (ref : CmdRef) (result status : Nat) (data : List Byte) :
    OnlyHost s (s.completeCommand ref result status data) := by
  cases ref with
  | manager cid => rfl
  | ring qcn cid =>
    unfold State.completeCommand
    dsimp only
    split
    · exact OnlyHost.refl s
    · split
      · exact OnlyHost.refl s
      · refine OnlyHost.trans ?_ (State.settleDelete_onlyHost _ _)
        exact OnlyHost.ite (s.setCmdRing_onlyHost _ _) (OnlyHost.ite (s.setCmdRing_onlyHost _ _) (s.putEntry_onlyHost _ _ _))

end

/-! ## Folds over a recipe's cores and rings -/

/-- A fold establishes what each step does, where the steps that follow keep it. -/
theorem foldl_establishes {α : Type} {f : State → α → State} {P : α → State → Prop} (hself : ∀ s a, P a (f s a)) {l : List α}
    (hkeep : l.Pairwise (fun a b => ∀ s, P a s → P a (f s b))) (s : State) : ∀ a ∈ l, P a (l.foldl f s) := by
  induction l generalizing s with
  | nil => exact fun a ha => nomatch ha
  | cons b l ih =>
    obtain ⟨hb, hl⟩ := List.pairwise_cons.1 hkeep
    intro a ha
    rcases List.mem_cons.1 ha with rfl | ha
    · exact List.foldlRecOn (motive := P a) l f (hself s a) fun t ht c hc => hb c hc t ht
    · exact ih hl (f s b) a ha

/-- A fold keeps what each of its steps keeps. -/
theorem foldl_keeps {α β : Type} {f : State → α → State} (π : State → β) {l : List α} (hf : ∀ s, ∀ a ∈ l, π (f s a) = π s) (s : State) :
    π (l.foldl f s) = π s :=
  List.foldlRecOn (motive := fun t => π t = π s) l f rfl fun t ht a ha => (hf t a ha).trans ht

/-- Cores written from a list that does not hold `c` leave it. -/
theorem foldl_setCore_core_of_notMem {α : Type} (key : α → CoreId) (g : State → α → Core) {l : List α} {c : CoreId}
    (h : c ∉ l.map key) (s : State) : (l.foldl (fun t a => t.setCore (key a) (g t a)) s).core c = s.core c :=
  foldl_keeps (State.core · c) (fun t _ ha => t.core_setCore_of_ne _ fun e => h (e ▸ List.mem_map_of_mem ha)) s

/-! ## Fields of a record -/

theorem leAt_lt (bs : List Byte) (off len : Nat) : leAt bs off len < 256 ^ len :=
  (leNat_lt _).trans_le (Nat.pow_le_pow_right (by decide) (List.length_take_le _ _))

theorem toNat_ofNat_leAt {w len : Nat} (h : 256 ^ len = 2 ^ w) (bs : List Byte) (off : Nat) :
    (BitVec.ofNat w (leAt bs off len)).toNat = leAt bs off len := by
  rw [BitVec.toNat_ofNat, ← h, Nat.mod_eq_of_lt (leAt_lt bs off len)]

/-! ## Loading (R117, R118, R632) -/

/-- The lowest free handle is free, and every handle below it is in use. -/
theorem State.freeHandle_spec {s : State} {h : Nat} (hf : s.freeHandle = h) (hlt : h < 256) :
    Table.find s.recipes h = none ∧ ∀ i, i < h → (Table.find s.recipes i).isSome := by
  unfold State.freeHandle at hf
  cases hfind : (List.range 256).find? (fun h => (Table.find s.recipes h).isNone) with
  | none =>
    rw [hfind, Option.getD_none] at hf
    omega
  | some j =>
    rw [hfind, Option.getD_some] at hf
    subst hf
    obtain ⟨hj, -, hbelow⟩ := List.find?_range_eq_some.1 hfind
    exact ⟨Option.isNone_iff_eq_none.1 hj, fun i hi => by simpa using hbelow i hi⟩

/-- A ring enabled empty for U (R632). -/
def Ring.readyForU (r : Ring) : Prop := r.en = true ∧ r.ownerPriv = privU ∧ r.waiting = 0

theorem Ring.waiting_of_empty {r : Ring} (h : r.tail = r.head) : r.waiting = 0 := by
  rw [Ring.waiting, h, Nat.add_sub_cancel_left, Nat.mod_self]

section
variable (s : State) (m : List Byte) (core : CoreId) (e : StageEntry) (ring base qcn : Nat) (data bss staging : Block)

theorem State.placeRing_readyForU : ((s.placeRing m core e ring base qcn data bss staging).ring e.cls ring).readyForU := by
  unfold State.placeRing
  extract_lets win reset r placed
  change ((s.setRing e.cls ring r).ring e.cls ring).readyForU
  rw [State.ring_setRing_self]
  exact ⟨rfl, rfl, Ring.waiting_of_empty rfl⟩

theorem State.placeRing_keeps_readyForU {a b : Nat} (hab : (s.ring a b).readyForU) :
    ((s.placeRing m core e ring base qcn data bss staging).ring a b).readyForU := by
  unfold State.placeRing
  extract_lets win reset r placed
  change ((s.setRing e.cls ring r).ring a b).readyForU
  rw [State.ring_setRing]
  split
  · exact ⟨rfl, rfl, Ring.waiting_of_empty rfl⟩
  · exact hab

end

/-- What a placement leaves: the recipe loaded under its handle, its rings enabled empty for U. -/
theorem State.placeRecipe_spec (s : State) (m : List Byte) (p : Placement) (h : Nat) :
    ∃ r, (s.placeRecipe m p h).recipes = Table.put s.recipes h r ∧ r.state = .loaded ∧ r.hash = sha256 m ∧ r.cores = p.cores ∧
      r.launch = none ∧ ∀ sl ∈ r.slots, ((s.placeRecipe m p h).ring sl.cls sl.ring).readyForU := by
  unfold State.placeRecipe
  extract_lets t act slots text
  split
  next code data bss staging page _ =>
  extract_lets s1 s2 s3 s4 r
  have h1 : s1.recipes = s.recipes := foldl_keeps State.recipes (fun _ _ _ => by rfl) s
  have h4 : s4.recipes = s3.recipes := foldl_keeps State.recipes (fun _ _ _ => by rfl) s3
  refine ⟨r, congrArg (fun x => Table.put x h r) (h4.trans h1), rfl, rfl, rfl, rfl, fun sl hsl => ?_⟩
  obtain ⟨x, hx, rfl⟩ := List.mem_map.1 hsl
  refine foldl_establishes (P := fun (x : (Nat × StageEntry × Nat) × Nat × Nat × Nat) (u : State) =>
    (u.ring x.1.2.1.cls x.2.1).readyForU) (fun u x => ?_) (List.pairwise_of_forall fun x y u hu => ?_) s3 x hx
  · exact u.placeRing_readyForU m _ x.1.2.1 x.2.1 _ _ data bss staging
  · exact u.placeRing_keeps_readyForU m _ y.1.2.1 y.2.1 _ _ data bss staging hu

section
variable {src : CmdSrc} {p : Placement} {s s' : State} {ref : CmdRef} {e m : List Byte} (hl : s.loaderOnly = false)
  (ht : s.takeCommand src 0x01 = some (ref, e, s')) (ha : leAt e 0x08 8 % 64 = 0) (hn : leAt e 0x10 8 ≤ 16777216)
  (hm : s'.commandBytes src (leAt e 0x08 8) (leAt e 0x10 8) = m)
include hl ht ha hn hm

theorem execRecipeLoad_refused {code : Nat} (hc : s'.loadRefusal m = some code) :
    exec (.recipeLoad src p) s = .next (s'.completeCommand ref 0 code) := by
  change execRecipeLoad src p s = _
  simp [execRecipeLoad, hl, ht, isAligned, ha, not_lt.2 hn, hm, hc]

/-- An admitted load is placed; a ring's command has its hash written to the host too (R422). -/
theorem execRecipeLoad_placed (hc : s'.loadRefusal m = none) (hh : s'.freeHandle < 256)
    (hp : s'.placementFree m (stageTable m) (markStages s'.part.variant (stageTable m)) p = true)
    (hr : ∀ i, i < imgRelocs m → relocSound m (stageTable m) i = true) :
    ∃ u, OnlyHost (s'.placeRecipe m p s'.freeHandle) u ∧
      exec (.recipeLoad src p) s = .next (u.completeCommand ref s'.freeHandle csOK (sha256 m)) := by
  have hrel : (List.range (imgRelocs m)).all (relocSound m (stageTable m)) = true :=
    List.all_eq_true.2 fun i hi => hr i (List.mem_range.1 hi)
  change ∃ u, _ ∧ execRecipeLoad src p s = _
  cases ref with
  | ring qcn cid =>
    refine ⟨_, State.hostWrite_onlyHost _ (leAt e 0x18 8) (sha256 m), ?_⟩
    simp [execRecipeLoad, hl, ht, isAligned, ha, not_lt.2 hn, hm, hc, hh.ne, hp, hrel]
  | manager cid =>
    refine ⟨_, OnlyHost.refl _, ?_⟩
    simp [execRecipeLoad, hl, ht, isAligned, ha, not_lt.2 hn, hm, hc, hh.ne, hp, hrel]

end

/-! ## Launching (R119, R120) -/

/-- The launch that a launch payload asks for (R119). -/
def launchOf (p : List Byte) : Launch where
  at_ := BitVec.ofNat 64 (leAt p 0 8)
  dataset := BitVec.ofNat 16 (leAt p 0x08 2)
  epochFirst := BitVec.ofNat 32 (leAt p 0x0C 4)
  epochCount := BitVec.ofNat 32 (leAt p 0x10 4)
  seeds := (List.range 4).map (fun k => sliceOf (0x20 + 16 * k) 16 p)

/-- The cores of a launched recipe wait for L. -/
def State.awaits (s : State) (cs : List CoreId) : State := cs.foldl (fun s c => s.setCore c { s.core c with duty := .waiting }) s

section
variable (s : State) (cs : List CoreId)

theorem State.awaits_dram : (s.awaits cs).dram = s.dram := foldl_keeps State.dram (fun _ _ _ => by rfl) s
theorem State.awaits_rings : (s.awaits cs).rings = s.rings := foldl_keeps State.rings (fun _ _ _ => by rfl) s
theorem State.awaits_qct : (s.awaits cs).qct = s.qct := foldl_keeps State.qct (fun _ _ _ => by rfl) s

theorem State.awaits_duty : ∀ c ∈ cs, ((s.awaits cs).core c).duty = .waiting := by
  refine foldl_establishes (P := fun c (t : State) => (t.core c).duty = .waiting) (fun t c => ?_)
    (List.pairwise_of_forall fun c d t ht => ?_) s
  · rw [State.core_setCore_self]
  · rw [State.core_setCore]
    split
    · rfl
    · exact ht

theorem State.awaits_core_of_notMem {c : CoreId} (hc : c ∉ cs) : (s.awaits cs).core c = s.core c :=
  foldl_setCore_core_of_notMem id (fun t c => { t.core c with duty := .waiting }) (by rwa [List.map_id]) s

end

section
variable (s : State) (h : Nat) (r : Recipe) (l : Launch)

/-- The state once a launch was accepted: the launch block written, the cores waiting for L. -/
def State.launches (s : State) (h : Nat) (r : Recipe) (l : Launch) : State :=
  let s := (s.writeDram r.page.base (launchBlock s.part.variant r l)).awaits r.cores
  { s with recipes := Table.put s.recipes h { r with state := .waiting, launch := some l } }

theorem State.launches_find : Table.find (s.launches h r l).recipes h = some { r with state := .waiting, launch := some l } := by
  rw [State.launches, Table.find_put, if_pos rfl]

theorem State.launches_dram : (s.launches h r l).dram = Mem.store s.dram r.page.base (launchBlock s.part.variant r l) := by
  unfold State.launches
  exact (State.awaits_dram _ r.cores).trans (s.writeDram_dram _ _)

theorem State.launches_rings : (s.launches h r l).rings = s.rings := by
  unfold State.launches
  exact (State.awaits_rings _ r.cores).trans (s.writeDram_rings _ _)

theorem State.launches_qct : (s.launches h r l).qct = s.qct := by
  unfold State.launches
  exact (State.awaits_qct _ r.cores).trans (s.writeDram_qct _ _)

theorem State.launches_duty : ∀ c ∈ r.cores, ((s.launches h r l).core c).duty = .waiting :=
  State.awaits_duty (s.writeDram r.page.base (launchBlock s.part.variant r l)) r.cores

theorem State.launches_core_of_notMem {c : CoreId} (hc : c ∉ r.cores) : (s.launches h r l).core c = s.core c := by
  unfold State.launches
  exact (State.awaits_core_of_notMem _ r.cores hc).trans (State.core_of_cores (s.writeDram_cores _ _) c)

theorem State.launches_block (i : Nat) (hi : i < (launchBlock s.part.variant r l).length) :
    Mem.get (s.launches h r l).dram (r.page.base + i) = (launchBlock s.part.variant r l).getD i 0 := by
  rw [State.launches_dram, Mem.get_store, if_pos (by omega), Nat.add_sub_cancel_left, nth]

end

/-- The seeds a launch supplies: what the manager's payload holds, or the four of a host's block (R422). -/
def seedsSupplied : CmdSrc → Nat
  | .manager _ _ payload => (payload.length - 0x20) / 16
  | .ring _ => 4

section
variable {src : CmdSrc} {s s' : State} {ref : CmdRef} {e : List Byte} (ht : s.takeCommand src 0x02 = some (ref, e, s'))
include ht

theorem execRecipeLaunch_badHandle (hr : Table.find s'.recipes (leAt e 0x04 4) = none) :
    exec (.recipeLaunch src) s = .next (s'.completeCommand ref 0 csBAD_HANDLE) := by
  change execRecipeLaunch src s = _
  simp only [execRecipeLaunch, ht, hr]

variable {r : Recipe} (hr : Table.find s'.recipes (leAt e 0x04 4) = some r)
include hr

theorem execRecipeLaunch_wrongState (h : r.state ≠ .loaded ∨ r.unloading ≠ []) :
    exec (.recipeLaunch src) s = .next (s'.completeCommand ref 0 csWRONG_STATE) := by
  change execRecipeLaunch src s = _
  simp only [execRecipeLaunch, ht, hr, if_pos h]

theorem execRecipeLaunch_accepted {p : List Byte} (hp : s'.commandBytes src (leAt e 0x08 8) 128 = p) (hstate : r.state = .loaded)
    (hun : r.unloading = []) (hseeds : r.seedSlots ≤ seedsSupplied src) (hat : s'.gtc.toNat + 100000 ≤ leAt p 0 8) :
    exec (.recipeLaunch src) s = .next ((s'.launches (leAt e 0x04 4) r (launchOf p)).completeCommand ref 0 csOK) := by
  have hok : ¬ (r.state ≠ .loaded ∨ r.unloading ≠ []) := fun h => h.elim (· hstate) (· hun)
  change execRecipeLaunch src s = _
  cases src with
  | manager cid entry payload =>
    have hs : ¬ (payload.length - 0x20) / 16 < r.seedSlots := not_lt.2 hseeds
    simp only [execRecipeLaunch, ht, hr, if_neg hok, hp, if_neg hs, if_neg (not_lt.2 hat)]
    rfl
  | ring i =>
    have hs : ¬ 4 < r.seedSlots := not_lt.2 hseeds
    simp only [execRecipeLaunch, ht, hr, if_neg hok, hp, if_neg hs, if_neg (not_lt.2 hat)]
    rfl

end

/-! ## The start at L (R119) -/

section
variable (k : Core) (entry page index : Nat)

theorem Core.startRecipe_priv : (k.startRecipe entry page index).priv = privU :=
  BitVec.eq_of_toNat_eq ((BitVec.extractLsb'_toNat ..).trans (natAt_putBits_self k.status 0 2 0 (by decide)))

theorem Core.startRecipe_reg (g : RegField) : (k.startRecipe entry page index).reg g =
    if g = 1 then BitVec.ofNat 64 page else if g = 2 then BitVec.ofNat 64 index else 0 := by
  have one : g = 1 ↔ 1 = g.toNat := ⟨fun h => h ▸ rfl, fun h => BitVec.eq_of_toNat_eq h.symm⟩
  have two : g = 2 ↔ 2 = g.toNat := ⟨fun h => h ▸ rfl, fun h => BitVec.eq_of_toNat_eq h.symm⟩
  rw [Core.reg, Core.startRecipe]
  split
  next hz => subst hz; rfl
  · dsimp only
    rw [Vector.getElem_set, Vector.getElem_set, Vector.getElem_replicate]
    simp only [← one, ← two]
    by_cases h1 : g = 1
    · subst h1; rfl
    · rw [if_neg h1, if_neg h1]

theorem Core.startRecipe_vreg (g : RegField) : (k.startRecipe entry page index).vreg g = 0 := Vector.getElem_replicate _

end

/-- A core of a recipe, by its index, as it stands after the start. -/
def Recipe.startedCore (r : Recipe) (x : (CoreId × Block) × Nat) (k : Core) : Core :=
  k.startRecipe (x.1.2.base + (r.entry - r.codeOff)) r.page.base x.2

/-- Every core of a recipe starts from its own code copy. -/
def State.startsCores (s : State) (r : Recipe) : State :=
  ((r.cores.zip r.code).zipIdx).foldl (fun s x => s.setCore x.1.1 (r.startedCore x (s.core x.1.1))) s

/-- The state once the recipe of a handle has started. -/
def State.startsRecipe (s : State) (h : Nat) (r : Recipe) : State :=
  { s.startsCores r with recipes := Table.put (s.startsCores r).recipes h { r with state := .running } }

section
variable {s : State} {handle : BitVec 8} {r : Recipe} {l : Launch} (hr : Table.find s.recipes handle.toNat = some r)
  (hstate : r.state = .waiting) (hlaunch : r.launch = some l)
include hr hstate hlaunch

theorem execRecipeStart_due (hun : r.unloading = []) (hat : l.at_ ≤ s.gtc) :
    exec (.recipeStart handle) s = .next (s.startsRecipe handle.toNat r) := by
  change execRecipeStart handle s = _
  rw [execRecipeStart, hr]
  dsimp only
  split
  next l' _ hl' =>
    rw [hlaunch, Option.some_inj] at hl'
    rw [if_pos ⟨hl' ▸ hat, hun⟩]
    rfl
  next hne => exact absurd hlaunch (hne l hstate)

theorem execRecipeStart_early (hat : s.gtc < l.at_) : exec (.recipeStart handle) s = .next s := by
  have hno : ¬ (l.at_ ≤ s.gtc ∧ r.unloading = []) := fun h => BitVec.not_lt.2 h.1 hat
  change execRecipeStart handle s = _
  simp only [execRecipeStart, hr, hstate, hlaunch, if_neg hno]

end

section
variable (s : State) (h : Nat) (r : Recipe)

theorem State.startsRecipe_find : Table.find (s.startsRecipe h r).recipes h = some { r with state := .running } := by
  rw [State.startsRecipe, Table.find_put, if_pos rfl]

theorem State.startsCores_dram : (s.startsCores r).dram = s.dram := foldl_keeps State.dram (fun _ _ _ => by rfl) s
theorem State.startsCores_rings : (s.startsCores r).rings = s.rings := foldl_keeps State.rings (fun _ _ _ => by rfl) s

variable {r} (hlen : r.code.length = r.cores.length)
include hlen

theorem Recipe.startOrder_cores : ((r.cores.zip r.code).zipIdx).map (fun x => x.1.1) = r.cores := by
  calc ((r.cores.zip r.code).zipIdx).map (fun x => x.1.1)
      = (((r.cores.zip r.code).zipIdx).map Prod.fst).map Prod.fst := (List.map_map ..).symm
    _ = r.cores := by rw [List.zipIdx_map_fst, List.map_fst_zip hlen.ge]

theorem State.startsCores_core_of_notMem {c : CoreId} (hc : c ∉ r.cores) : (s.startsCores r).core c = s.core c :=
  foldl_setCore_core_of_notMem (fun x : (CoreId × Block) × Nat => x.1.1) (fun t x => r.startedCore x (t.core x.1.1))
    (by rwa [Recipe.startOrder_cores hlen]) s

/-- Each core of the recipe has started from its own code copy. -/
theorem State.startsCores_core (hnd : r.cores.Nodup) (i : Nat) (hi : i < r.cores.length) (b : Block) (hb : r.code[i]? = some b) :
    ∃ k, (s.startsCores r).core r.cores[i] = r.startedCore ((r.cores[i], b), i) k := by
  have hdistinct : ((r.cores.zip r.code).zipIdx).Pairwise (fun x y => x.1.1 ≠ y.1.1) :=
    List.pairwise_map.1 (by rwa [Recipe.startOrder_cores hlen])
  have hmem : ((r.cores[i], b), i) ∈ (r.cores.zip r.code).zipIdx := by
    rw [List.mem_zipIdx_iff_getElem?, List.getElem?_zip_eq_some]
    exact ⟨List.getElem?_eq_getElem hi, hb⟩
  exact foldl_establishes (P := fun x (t : State) => ∃ k, t.core x.1.1 = r.startedCore x k)
    (fun t x => ⟨_, t.core_setCore_self x.1.1 _⟩)
    (hdistinct.imp fun {x y} hne t ht => ht.imp fun k hk => (t.core_setCore_of_ne _ hne).trans hk) s _ hmem

end

/-! ## Unloading (R122, R385, R422) -/

/-- Nothing of the machine is taken, and the recipes are those of `s`. -/
def Untaken (s t : State) : Prop := t.recipes = s.recipes ∧ t.taken = []

theorem Untaken.trans {s t u : State} (h : Untaken s t) (g : Untaken t u) : Untaken s u := ⟨g.1.trans h.1, g.2⟩

theorem Untaken.ite {s a b : State} {c : Prop} [Decidable c] (ha : Untaken s a) (hb : Untaken s b) : Untaken s (if c then a else b) := by
  split
  · exact ha
  · exact hb

theorem Untaken.foldl {α : Type} {f : State → α → State} (hf : ∀ s a, s.taken = [] → Untaken s (f s a)) (l : List α) {s : State}
    (h : s.taken = []) : Untaken s (l.foldl f s) :=
  List.foldlRecOn (motive := Untaken s) l f ⟨rfl, h⟩ fun t ht a _ => ht.trans (hf t a ht.2)

section
variable {s : State} (h : s.taken = [])
include h

theorem State.stopCore_untaken (c : CoreId) : Untaken s (s.stopCore c) := by
  unfold State.stopCore
  exact Untaken.ite ⟨rfl, h⟩ ⟨rfl, h⟩

theorem State.ringOff_untaken (cls ring : Nat) : Untaken s (s.ringOff cls ring) := by
  unfold State.ringOff
  extract_lets r q s1 s2
  have h2 : Untaken s s2 := Untaken.ite ⟨rfl, h⟩ ⟨rfl, h⟩
  exact Untaken.ite ⟨h2.1, h2.2⟩ h2

theorem State.fetchRingCleared_untaken (ring : Nat) : Untaken s (s.fetchRingCleared ring) := by
  unfold State.fetchRingCleared
  rw [h]
  dsimp only [List.filter_nil, List.foldl_nil]
  split
  · exact ⟨rfl, h⟩
  · exact ⟨rfl, h⟩

theorem State.clearEn_untaken (cls ring : Nat) : Untaken s (s.clearEn cls ring) := by
  unfold State.clearEn
  extract_lets r s1 s2
  have h2 : Untaken s s2 := Untaken.ite (State.fetchRingCleared_untaken (s := s1) h ring) ⟨rfl, h⟩
  exact Untaken.ite (h2.trans (State.ringOff_untaken h2.2 cls ring)) h2

theorem State.discardRing_untaken (cls ring : Nat) : Untaken s (s.discardRing cls ring) := by
  unfold State.discardRing
  extract_lets r s1
  exact Untaken.ite (Untaken.ite (State.clearEn_untaken (s := s1) h cls ring) (State.ringOff_untaken (s := s1) h cls ring)) ⟨rfl, h⟩

theorem State.unloadDeliveries_of_untaken (handle : Nat) : s.unloadDeliveries handle = s := by
  unfold State.unloadDeliveries
  rw [h]
  rfl

/-- With nothing taken, an unload in progress releases its recipe and completes its commands. -/
theorem State.settleUnload_untaken {handle : Nat} {r : Recipe} (hr : Table.find s.recipes handle = some r) (hun : r.unloading ≠ []) :
    s.settleUnload handle = r.unloading.foldl (fun s ref => s.completeCommand ref 0 csOK) (s.releaseRecipe handle r) := by
  unfold State.settleUnload
  rw [hr, h]
  simp [hun]

end

section
variable (s : State) (h : Nat) (r : Recipe)

theorem State.releaseRecipe_find : Table.find (s.releaseRecipe h r).recipes h = none := by
  unfold State.releaseRecipe
  extract_lets s1 s2 s3
  exact (Table.find_drop _ h h).trans (if_pos rfl)

theorem State.releaseRecipe_core : ∀ c ∈ r.cores, (s.releaseRecipe h r).core c = Core.reset := by
  intro c hc
  unfold State.releaseRecipe
  extract_lets s1 s2 s3
  have h2 : s2.core c = Core.reset := by
    refine foldl_establishes (P := fun c (t : State) => t.core c = Core.reset) (fun t c => t.core_setCore_self c _)
      (List.pairwise_of_forall fun c d t ht => ?_) s1 c hc
    rw [State.core_setCore, ht, ite_self]
  exact (foldl_keeps (State.core · c) (fun _ _ _ => by rfl) s2).trans h2

theorem State.releaseRecipe_ring : ∀ sl ∈ r.slots, (s.releaseRecipe h r).ring sl.cls sl.ring = Ring.reset := by
  intro sl hsl
  unfold State.releaseRecipe
  extract_lets s1 s2 s3
  refine foldl_establishes (P := fun (sl : RingSlot) (t : State) => t.ring sl.cls sl.ring = Ring.reset)
    (fun t sl => t.ring_setRing_self sl.cls sl.ring _) (List.pairwise_of_forall fun a b t ht => ?_) s2 sl hsl
  rw [State.ring_setRing, ht, ite_self]

end

/-- What an unload does before it settles: its command is noted, the cores are stopped, deliveries and rings let go. -/
def State.beginsUnload (s : State) (h : Nat) (r : Recipe) (ref : CmdRef) : State :=
  let s := { s with recipes := Table.put s.recipes h { r with unloading := r.unloading ++ [ref] } }
  let s := if r.state = .ended then s else r.cores.foldl (fun (s : State) c => s.stopCore c) s
  let s := s.unloadDeliveries h
  r.slots.foldl (fun (s : State) sl => s.discardRing sl.cls sl.ring) s

theorem State.beginsUnload_untaken {s : State} (ht : s.taken = []) (h : Nat) (r : Recipe) (ref : CmdRef) :
    Table.find (s.beginsUnload h r ref).recipes h = some { r with unloading := r.unloading ++ [ref] } ∧
      (s.beginsUnload h r ref).taken = [] := by
  unfold State.beginsUnload
  extract_lets s1 s2 s3
  have h2 : Untaken s1 s2 := Untaken.ite ⟨rfl, ht⟩ (Untaken.foldl (fun t c h => State.stopCore_untaken h c) r.cores ht)
  have h3 : Untaken s1 s3 := by
    rw [show s3 = s2 from State.unloadDeliveries_of_untaken h2.2 h]
    exact h2
  have h4 := h3.trans (Untaken.foldl (fun t (sl : RingSlot) h => State.discardRing_untaken h sl.cls sl.ring) r.slots h3.2)
  refine ⟨?_, h4.2⟩
  rw [h4.1]
  exact (Table.find_put _ _ _ _).trans (if_pos rfl)

section
variable {src : CmdSrc} {s s' : State} {ref : CmdRef} {e : List Byte}

section
variable (ht : s.takeCommand src 0x03 = some (ref, e, s'))
include ht

theorem execRecipeUnload_badHandle (hr : Table.find s'.recipes (leAt e 0x04 4) = none) :
    exec (.recipeUnload src) s = .next (s'.completeCommand ref 0 csBAD_HANDLE) := by
  change execRecipeUnload src s = _
  simp only [execRecipeUnload, ht, hr]

variable {r : Recipe} (hr : Table.find s'.recipes (leAt e 0x04 4) = some r)
include hr

theorem execRecipeUnload_joins (hun : r.unloading ≠ []) : exec (.recipeUnload src) s =
    .next { s' with recipes := Table.put s'.recipes (leAt e 0x04 4) { r with unloading := r.unloading ++ [ref] } } := by
  change execRecipeUnload src s = _
  simp [execRecipeUnload, ht, hr, hun]

/-- With nothing taken, a first unload releases the recipe at once and completes. -/
theorem execRecipeUnload_releases (hun : r.unloading = []) (htaken : s'.taken = []) :
    ∃ u r', exec (.recipeUnload src) s = .next ((State.releaseRecipe u (leAt e 0x04 4) r').completeCommand ref 0 csOK) ∧
      r'.cores = r.cores ∧ r'.slots = r.slots := by
  obtain ⟨hfind, hnone⟩ := State.beginsUnload_untaken htaken (leAt e 0x04 4) r ref
  have hsettle := State.settleUnload_untaken hnone hfind (List.append_ne_nil_of_right_ne_nil _ (List.cons_ne_nil _ _))
  refine ⟨s'.beginsUnload (leAt e 0x04 4) r ref, { r with unloading := r.unloading ++ [ref] }, ?_, rfl, rfl⟩
  have hexec : exec (.recipeUnload src) s = .next ((s'.beginsUnload (leAt e 0x04 4) r ref).settleUnload (leAt e 0x04 4)) := by
    change execRecipeUnload src s = _
    rw [execRecipeUnload, ht]
    dsimp only
    rw [hr]
    dsimp only
    rw [if_neg (by simp [hun])]
    rfl
  rw [hexec, hsettle, hun]
  rfl

end

section
variable (ht : s.takeCommand src 0x04 = some (ref, e, s'))
include ht

theorem execRecipeStatus_badHandle (hr : Table.find s'.recipes (leAt e 0x04 4) = none) :
    exec (.recipeStatus src) s = .next (s'.completeCommand ref 0 csBAD_HANDLE) := by
  change execRecipeStatus src s = _
  simp only [execRecipeStatus, ht, hr]

theorem execRecipeStatus_word {r : Recipe} (hr : Table.find s'.recipes (leAt e 0x04 4) = some r) :
    exec (.recipeStatus src) s = .next (s'.completeCommand ref r.statusWord csOK) := by
  change execRecipeStatus src s = _
  simp only [execRecipeStatus, ht, hr]

end
end

/-! ## The statement -/

/-- Settles O20: the load by `placeRecipe_spec`, the launch by `launches`, the start by `startsRecipe`, the unload by `releaseRecipe`. -/
theorem recipeLife : Obligations.RecipeLife := by
  unfold Obligations.RecipeLife
  refine ⟨fun src p s s' ref e m h hl ht ha hn hm hc hh hlt hp hr => ?_, fun src p s s' ref e m code hl ht ha hn hm => ⟨?_, ?_, ?_⟩,
    fun src s s' ref e p h ht hh hp => ?_, fun handle s r l hr hstate hlaunch hun hnd hlen => ⟨fun hat => ?_, ?_⟩,
    fun src s s' ref e h hh => ⟨fun ht => ⟨fun hr => ?_, fun r hr hun htaken _ => ?_, fun r hr hun => ?_⟩, fun ht => ⟨?_, ?_⟩⟩⟩
  · subst hh
    obtain ⟨hfree, hbelow⟩ := State.freeHandle_spec rfl hlt
    obtain ⟨u, honly, hexec⟩ := execRecipeLoad_placed hl ht ha hn hm hc hlt hp hr
    obtain ⟨r, hrec, hstate, hhash, hcores, hlaunch, hrings⟩ := s'.placeRecipe_spec m p s'.freeHandle
    have hfind (i : Nat) : Table.find u.recipes i = if i = s'.freeHandle then some r else Table.find s'.recipes i := by
      rw [honly.recipes, hrec, Table.find_put]
    exact ⟨_, u, r, hexec, rfl, hfree, hbelow, (hfind _).trans (if_pos rfl), hstate, hhash, hcores, hlaunch,
      fun i hi => (hfind i).trans (if_neg hi), fun sl hsl => by rw [State.ring_of_rings honly.rings]; exact hrings sl hsl⟩
  · exact execRecipeLoad_refused hl ht ha hn hm
  · exact fun hmagic => if_pos hmagic
  · exact fun hmagic hversion => (if_neg (not_not.2 hmagic)).trans (if_pos hversion)
  · subst hh
    refine ⟨execRecipeLaunch_badHandle ht, fun r hr => ⟨execRecipeLaunch_wrongState ht hr, fun hstate hun hseeds hat => ?_⟩⟩
    have hsupplied : r.seedSlots ≤ seedsSupplied src := by cases src <;> exact hseeds
    exact ⟨_, s'.launches (leAt e 0x04 4) r (launchOf p), launchOf p,
      execRecipeLaunch_accepted ht hr hp hstate hun hsupplied hat, rfl, toNat_ofNat_leAt rfl p _, toNat_ofNat_leAt rfl p _,
      toNat_ofNat_leAt rfl p _, toNat_ofNat_leAt rfl p _, s'.launches_find _ r _, s'.launches_duty _ r _,
      fun c hc => s'.launches_core_of_notMem _ r _ hc, s'.launches_block _ r _, s'.launches_rings _ r _, s'.launches_qct _ r _⟩
  · refine ⟨_, execRecipeStart_due hr hstate hlaunch hun hat, s.startsRecipe_find _ r, fun i hi b hb => ?_,
      fun c hc => s.startsCores_core_of_notMem hlen hc, s.startsCores_dram r, s.startsCores_rings r⟩
    obtain ⟨k, hk⟩ := s.startsCores_core hlen hnd i hi b hb
    refine ⟨_, hk, Core.startRecipe_priv _ _ _ _, rfl, rfl, rfl, rfl, rfl, fun g h1 h2 => ?_, Core.startRecipe_vreg _ _ _ _, rfl⟩
    rw [Recipe.startedCore, Core.startRecipe_reg, if_neg h1, if_neg h2]
  · exact execRecipeStart_early hr hstate hlaunch
  · subst hh
    exact execRecipeUnload_badHandle ht hr
  · subst hh
    obtain ⟨u, r', hexec, hcores, hslots⟩ := execRecipeUnload_releases ht hr hun htaken
    have honly := (u.releaseRecipe (leAt e 0x04 4) r').completeCommand_onlyHost ref 0 csOK []
    refine ⟨_, hexec, ?_, fun c hc => ?_, fun sl hsl => ?_⟩
    · rw [honly.recipes, State.releaseRecipe_find]
    · rw [State.core_of_cores honly.cores, State.releaseRecipe_core _ _ _ c (hcores ▸ hc)]
    · rw [State.ring_of_rings honly.rings, State.releaseRecipe_ring _ _ _ sl (hslots ▸ hsl)]
  · subst hh
    exact execRecipeUnload_joins ht hr hun
  · exact hh ▸ execRecipeStatus_badHandle ht
  · exact fun r hr => execRecipeStatus_word ht (hh ▸ hr)

end Sys2Proof.Machine

/-!
SUPPORT. What reading the media touches: every read of a unit, a run, an extent or a stripe leaves everything but the flash, the
translation engine, the free values drawn and what logging touches (R300 to R309, R324, R325).
-/

namespace Sys2Proof.Machine

/-! ## States that differ by a read of the media -/

/-- `t` is `s` but for the flash, the translation engine, the free values drawn and what logging touches. -/
def OnlyReads (s t : State) : Prop := OnlyLogs s { t with flash := s.flash, ftl := s.ftl, free := s.free }

theorem OnlyReads.refl (s : State) : OnlyReads s s := rfl

theorem OnlyReads.trans {s t u : State} (h : OnlyReads s t) (g : OnlyReads t u) : OnlyReads s u := by
  unfold OnlyReads OnlyLogs at *
  rw [← h, ← g]

theorem OnlyReads.ite {s a b : State} {c : Prop} [Decidable c] (ha : OnlyReads s a) (hb : OnlyReads s b) :
    OnlyReads s (if c then a else b) := by
  split
  · exact ha
  · exact hb

theorem OnlyLogs.onlyReads {s t : State} (h : OnlyLogs s t) : OnlyReads s t := by
  unfold OnlyReads OnlyLogs at *
  rw [← h]

theorem OnlyReads.proj {s t : State} (h : OnlyReads s t) {α : Type} (f : State → α) : f { t with
    regs := s.regs, events := s.events, fltLog := s.fltLog, letters := s.letters, msix := s.msix, trace := s.trace
    flash := s.flash, ftl := s.ftl, free := s.free } = f s := congrArg f h

theorem OnlyReads.dram {s t : State} (h : OnlyReads s t) : t.dram = s.dram := h.proj State.dram
theorem OnlyReads.rings {s t : State} (h : OnlyReads s t) : t.rings = s.rings := h.proj State.rings
theorem OnlyReads.fetch {s t : State} (h : OnlyReads s t) : t.fetch = s.fetch := h.proj State.fetch

theorem OnlyReads.ofFlash (s : State) (x : Flash) : OnlyReads s { s with flash := x } := rfl
theorem OnlyReads.ofFtl (s : State) (x : Ftl) : OnlyReads s { s with ftl := x } := rfl

/-- The state of an answer named by a match. -/
theorem OnlyReads.of_snd {α : Type} {s t : State} {e : α × State} {a : α} (he : e = (a, t)) (h : OnlyReads s e.2) : OnlyReads s t := by
  subst he
  exact h

theorem OnlyReads.snd_ite {α : Type} {s : State} {c : Prop} [Decidable c] {a b : α × State} (ha : OnlyReads s a.2)
    (hb : OnlyReads s b.2) : OnlyReads s (if c then a else b).2 := by
  split
  · exact ha
  · exact hb

theorem OnlyReads.foldl {α : Type} {f : State → α → State} (hf : ∀ s a, OnlyReads s (f s a)) (l : List α) (s : State) :
    OnlyReads s (l.foldl f s) :=
  List.foldlRecOn (motive := OnlyReads s) l f (OnlyReads.refl s) fun t ht a _ => ht.trans (hf t a)

theorem OnlyReads.foldl_snd {α β : Type} {f : β × State → α → β × State} (hf : ∀ e a, OnlyReads e.2 (f e a).2) (l : List α)
    (i : β × State) : OnlyReads i.2 (l.foldl f i).2 :=
  List.foldlRecOn (motive := fun e => OnlyReads i.2 e.2) l f (OnlyReads.refl i.2) fun e he a _ => he.trans (hf e a)

section
variable (s : State)

theorem State.count_onlyReads (u k n : Nat) : OnlyReads s (s.count u k n) := (s.count_onlyLogs u k n).onlyReads
theorem State.errAdd_onlyReads (f : Fld) (k : Nat) : OnlyReads s (s.errAdd f k) := (s.errAdd_onlyLogs f k).onlyReads
theorem State.setDie_onlyReads (d : Nat) (x : Die) : OnlyReads s (s.setDie d x) := rfl
theorem State.freshFree_onlyReads : OnlyReads s s.freshFree.2 := rfl

/-! ## Dies, channels and blocks that fail (R305, R307, R308) -/

theorem State.repopulate_onlyReads : OnlyReads s s.repopulate := by
  unfold State.repopulate
  extract_lets used dies fl s1 ces s2 s3 s4 s5
  have h1 : OnlyReads s s1 := OnlyReads.ofFlash s _
  have h3 : OnlyLogs s1 s3 := (s1.setFld_onlyLogs _ _).trans (s2.setFld_onlyLogs _ _)
  have h5 : OnlyLogs s3 s5 := ((s3.setFld_onlyLogs _ _).trans (State.setFld_onlyLogs _ _ _)).trans (s4.setFld_onlyLogs _ _)
  exact h1.trans ((h3.trans h5).trans (s5.setFlag_onlyLogs _ _)).onlyReads

theorem State.failChannel_onlyReads (ch : Nat) : OnlyReads s (s.failChannel ch) := by
  unfold State.failChannel
  extract_lets held fl s1
  have h1 : OnlyReads s s1 := OnlyReads.ofFlash s _
  have hrate : OnlyLogs s1 (s1.setChanRate ch 0xF) := s1.setReg_onlyLogs _ _
  exact OnlyReads.ite (OnlyReads.refl s) ((h1.trans hrate.onlyReads).trans (State.repopulate_onlyReads _))

theorem State.dieDead_onlyReads (d : Nat) : OnlyReads s (s.dieDead d) := by
  unfold State.dieDead
  split
  next x _ =>
    extract_lets s1 fl s2 s3 ch
    have h3 : OnlyReads s s3 := ((s.setDie_onlyReads d _).trans (OnlyReads.ofFlash s1 _)).trans (s2.errAdd_onlyReads _ _)
    exact OnlyReads.ite (OnlyReads.refl s) (OnlyReads.ite h3 (h3.trans (s3.failChannel_onlyReads ch)))
  · exact OnlyReads.refl s

theorem State.checkReadOnly_onlyReads : OnlyReads s s.checkReadOnly := by
  unfold State.checkReadOnly
  exact OnlyReads.ite (s.setFld_onlyLogs _ _).onlyReads (OnlyReads.refl s)

theorem State.askRefresh_onlyReads (d b : Nat) : OnlyReads s (s.askRefresh d b) := by
  unfold State.askRefresh
  split
  · exact OnlyReads.ofFtl s _
  · exact OnlyReads.refl s

theorem State.retireBlock_onlyReads (d b : Nat) : OnlyReads s (s.retireBlock d b) := by
  unfold State.retireBlock
  split
  next x _ =>
    extract_lets y s1 recent s2
    have h1 : OnlyReads s s1 := (s.setDie_onlyReads d y).trans (State.askRefresh_onlyReads _ d b)
    have h2 : OnlyReads s1 s2 := OnlyReads.ite (s1.dieDead_onlyReads d) (OnlyReads.refl s1)
    exact OnlyReads.ite (OnlyReads.refl s) ((h1.trans h2).trans s2.checkReadOnly_onlyReads)
  · exact OnlyReads.refl s

theorem State.suspendDie_onlyReads (d : Nat) : OnlyReads s (s.suspendDie d) := by
  unfold State.suspendDie
  split
  · exact OnlyReads.ite ((s.setDie_onlyReads d _).trans (State.count_onlyReads _ _ _ _)) (OnlyReads.refl s)
  · exact OnlyReads.refl s

/-! ## Codewords (R295, R300 to R302) -/

theorem State.readSteps_onlyReads (a : CwAddr) (last : Nat) : OnlyReads s (s.readSteps a last).2 := by
  unfold State.readSteps
  extract_lets s1 k fl s2 h e
  have h2 : OnlyReads s s2 := (s.count_onlyReads unitFLS 0 1).trans (OnlyReads.ofFlash s1 _)
  split
  · exact h2
  next w _ =>
    extract_lets wrong s3 order hit tried s4 fl s5 s6
    have hwrong (t : State) (decoded : Bool) (step : Nat) : OnlyReads t (wrong t decoded step) :=
      OnlyReads.ite (t.errAdd_onlyReads _ _) (OnlyReads.refl t)
    have h3 : OnlyReads s s3 := h2.trans (hwrong s2 _ _)
    have h4 : OnlyReads s s4 := h3.trans (s3.count_onlyReads _ _ _)
    have h5 : OnlyReads s s5 := h4.trans (hwrong s4 _ _)
    have h6 : OnlyReads s s6 := h5.trans (s5.count_onlyReads _ _ _)
    refine OnlyReads.snd_ite (h2.trans (s2.count_onlyReads _ _ _)) (OnlyReads.snd_ite h3 (OnlyReads.snd_ite ?_ ?_))
    · exact h4.trans (OnlyReads.ofFlash s4 _)
    · exact OnlyReads.snd_ite h5 (OnlyReads.snd_ite h6 (h6.trans (hwrong s6 _ _)))

theorem State.rebuildCodeword_onlyReads (a : CwAddr) : OnlyReads s (s.rebuildCodeword a).2 := by
  unfold State.rebuildCodeword
  split
  · exact OnlyReads.refl s
  next n x _ =>
    extract_lets w p pm m at_ others
    refine OnlyReads.snd_ite (OnlyReads.refl s) ?_
    split
    next reads t he =>
      have ht : OnlyReads s t :=
        OnlyReads.of_snd he (OnlyReads.foldl_snd (fun e i => by exact e.2.readSteps_onlyReads (at_ i) 3) others ([], s))
      extract_lets
      exact OnlyReads.snd_ite ht (OnlyReads.snd_ite ht (ht.trans (t.errAdd_onlyReads _ _)))

theorem State.readCodeword_onlyReads (a : CwAddr) : OnlyReads s (s.readCodeword a).2 := by
  unfold State.readCodeword
  split
  · split
    next w t he =>
      have ht : OnlyReads s t := OnlyReads.of_snd he (s.rebuildCodeword_onlyReads a)
      cases w with
      | some q => exact ht
      | none => exact ht.trans (t.errAdd_onlyReads _ _)
  · split
    next r t he =>
      have ht : OnlyReads s t := OnlyReads.of_snd he (s.readSteps_onlyReads a 3)
      split
      · exact OnlyReads.ite (ht.trans (t.askRefresh_onlyReads _ _)) ht
      · split
        next w u hw =>
          have hu : OnlyReads s u := ht.trans (OnlyReads.of_snd hw (t.rebuildCodeword_onlyReads a))
          have hretired : OnlyReads s ((u.askRefresh a.die a.block).retireBlock a.die a.block) :=
            (hu.trans (u.askRefresh_onlyReads _ _)).trans (State.retireBlock_onlyReads _ _ _)
          cases w with
          | some q => exact hretired
          | none => exact hretired.trans (State.errAdd_onlyReads _ _ _)

/-! ## Units, runs and extents (R324, R325, R132, R143) -/

theorem State.touchMap_onlyReads (space lua : Nat) : OnlyReads s (s.touchMap space lua) := by
  unfold State.touchMap
  extract_lets page
  refine OnlyReads.ite (s.count_onlyReads _ _ _) ((s.count_onlyReads unitFTL 6 1).trans ?_)
  unfold State.cachePage
  exact OnlyReads.ite (OnlyReads.refl _) (OnlyReads.ofFtl _ _)

theorem State.readUnit_onlyReads (space lua : Nat) : OnlyReads s (s.readUnit space lua).2 := by
  unfold State.readUnit
  extract_lets s1
  have h1 : OnlyReads s s1 := s.touchMap_onlyReads space lua
  split
  · split
    · exact h1.trans (s1.errAdd_onlyReads _ _)
    next a _ =>
      split
      next r t he =>
        have ht : OnlyReads s t := h1.trans (OnlyReads.of_snd he (s1.readCodeword_onlyReads a))
        split
        · exact OnlyReads.snd_ite ht ((ht.trans (t.errAdd_onlyReads _ _)).trans (State.errAdd_onlyReads _ _ _))
        · exact ht.trans (t.errAdd_onlyReads _ _)
  · exact h1

theorem State.readRun_onlyReads (space lua n : Nat) : OnlyReads s (s.readRun space lua n).2 := by
  refine OnlyReads.foldl_snd (fun e i => ?_) _ ([], s)
  exact e.2.readUnit_onlyReads space (lua + i)

theorem State.spaceBytes_onlyReads (space off len : Nat) : OnlyReads s (s.spaceBytes space off len).2 := by
  unfold State.spaceBytes
  split
  next first n _ =>
    split
    next us t ht =>
      have hrun : OnlyReads s t := OnlyReads.of_snd ht (s.readRun_onlyReads space first n)
      extract_lets unread
      split
      next draw u hu =>
        refine hrun.trans (OnlyReads.of_snd hu ?_)
        exact OnlyReads.snd_ite t.freshFree_onlyReads (OnlyReads.refl t)

theorem State.rebuiltBytes_onlyReads (space off len : Nat) : OnlyReads s (s.rebuiltBytes space off len).2 := by
  refine OnlyReads.foldl_snd (fun e i => ?_) _ ([], s)
  split
  next a _ => exact e.2.rebuildCodeword_onlyReads a
  · exact OnlyReads.refl e.2

end

end Sys2Proof.Machine

/-!
SUPPORT. The fetch engine's shared operations: fields of the records it writes, streams and cached pages, items put into a stream,
the staging of an item and the check of what was staged (R132, R139 to R143, R148, R149).
-/

namespace Sys2Proof.Machine

/-! ## Fields of a written record -/

/-- A little-endian field that stands behind `pre`. -/
theorem leAt_append_leBytes (pre rest : List Byte) (n v : Nat) : leAt (pre ++ (leBytes n v ++ rest)) pre.length n = v % 256 ^ n := by
  rw [leAt, sliceOf, List.drop_left, List.take_left' (leBytes_length n v), leNat_leBytes]

theorem Mem.bytes_store (m : Mem) (a k n : Nat) {bs : List Byte} (h : k + n ≤ bs.length) :
    Mem.bytes (Mem.store m a bs) (a + k) n = sliceOf k n bs := by
  refine List.ext_getElem (by simp [Mem.bytes, sliceOf]; omega) fun i hi _ => ?_
  have hin : i < n := by simpa [Mem.bytes] using hi
  have hk : a + k + i - a = k + i := by omega
  simp only [Mem.bytes, sliceOf, List.getElem_map, List.getElem_range, List.getElem_take, List.getElem_drop]
  rw [Mem.get_store, if_pos (by omega), hk, nth, List.getD_eq_getElem _ _ (by omega)]

/-- A field of a record read back from where the record was stored. -/
theorem Mem.readLe_store (m : Mem) (a k n : Nat) {bs : List Byte} (h : k + n ≤ bs.length) :
    Mem.readLe (Mem.store m a bs) (a + k) n = leAt bs k n := by
  rw [Mem.readLe, Mem.bytes_store m a k n h, leAt]

theorem listBytes_length (epoch next : Nat) (is : List FetchItem) : 64 ≤ (listBytes epoch next is).length := by
  simp only [listBytes, List.length_append, leBytes_length, zeros, List.length_replicate]
  omega

/-- COUNT of a list's header (R149). -/
theorem leAt_listBytes_count (epoch next : Nat) (is : List FetchItem) : leAt (listBytes epoch next is) 0 4 = is.length % 256 ^ 4 := by
  simp only [listBytes, List.append_assoc]
  exact leAt_append_leBytes [] _ 4 is.length

/-- EPOCH of a list's header (R149). -/
theorem leAt_listBytes_epoch (epoch next : Nat) (is : List FetchItem) : leAt (listBytes epoch next is) 4 4 = epoch % 256 ^ 4 := by
  simp only [listBytes, List.append_assoc]
  exact leAt_append_leBytes (leBytes 4 is.length) _ 4 epoch

/-- Word `i` of a run of equally wide words. -/
theorem leAt_flatMap_leBytes {α : Type} (f : α → Nat) (n : Nat) (l : List α) (i : Nat) (hi : i < l.length) :
    leAt (l.flatMap (fun a => leBytes n (f a))) (n * i) n = f l[i] % 256 ^ n := by
  have hlen : ((l.take i).flatMap (fun a => leBytes n (f a))).length = n * i := by
    simp [List.length_flatMap, leBytes_length, Nat.min_eq_left hi.le, Nat.mul_comm]
  conv_lhs => rw [← List.take_append_drop i l, List.drop_eq_getElem_cons hi, List.flatMap_append, List.flatMap_cons, ← hlen]
  exact leAt_append_leBytes _ _ n _

/-! ## Descriptors in work -/

theorem State.takenAt_of_taken {s t : State} (h : t.taken = s.taken) (c : CoreId) (tk : Ticket) : t.takenAt c tk = s.takenAt c tk := by
  rw [State.takenAt, State.takenAt, h]

/-- An engine's end of the descriptor in work. -/
theorem State.finish_endedWith {s t : State} {c : CoreId} {tk : Ticket} {x : Taken} (h : s.takenAt c tk = some x) (ht : t.taken = s.taken)
    (status detail : Nat) (o : List (Nat × Nat)) : EndedWith (t.finish x status detail o) c tk status detail :=
  ⟨_, _, State.finish_takenAt ((State.takenAt_of_taken ht c tk).trans h) status detail o, rfl, rfl, rfl⟩

section
variable (s : State) (x : Taken) (status detail : Nat) (o : List (Nat × Nat))

@[simp] theorem State.finish_dram : (s.finish x status detail o).dram = s.dram := rfl
@[simp] theorem State.finish_rings : (s.finish x status detail o).rings = s.rings := rfl
@[simp] theorem State.finish_fetch : (s.finish x status detail o).fetch = s.fetch := rfl
@[simp] theorem State.finish_fetchStream (ring : Nat) : (s.finish x status detail o).fetchStream ring = s.fetchStream ring := rfl

end

theorem OnlyLogs.fetch {s t : State} (h : OnlyLogs s t) : t.fetch = s.fetch := h.proj State.fetch

/-- An engine's write stores its bytes; the rest is counting and tracing. -/
theorem State.engineWrite_onlyLogs (s : State) (cls a : Nat) (bs : List Byte) : OnlyLogs (s.writeDram a bs) (s.engineWrite cls a bs) :=
  State.engineAccess_onlyLogs _ cls true a bs.length

theorem State.engineWrite_readLe (s : State) (cls a k n : Nat) {bs : List Byte} (h : k + n ≤ bs.length) :
    Mem.readLe (s.engineWrite cls a bs).dram (a + k) n = leAt bs k n := by
  rw [State.engineWrite_dram, Mem.readLe_store _ _ _ _ h]

/-- The count that a list's header shows where the list was written (R149). -/
theorem State.engineWrite_listCount (s : State) (list epoch next : Nat) (is : List FetchItem) (h : is.length < 256 ^ 4) :
    Mem.readLe (s.engineWrite 1 list (listBytes epoch next is)).dram list 4 = is.length := by
  refine (s.engineWrite_readLe 1 list 0 4 ?_).trans ((leAt_listBytes_count _ _ _).trans (Nat.mod_eq_of_lt h))
  exact le_trans (by decide) (listBytes_length _ _ _)

theorem State.engineWrite_fetch (s : State) (cls a : Nat) (bs : List Byte) : (s.engineWrite cls a bs).fetch = s.fetch :=
  (s.engineWrite_onlyLogs cls a bs).fetch

theorem State.engineWrite_rings (s : State) (cls a : Nat) (bs : List Byte) : (s.engineWrite cls a bs).rings = s.rings :=
  (s.engineWrite_onlyLogs cls a bs).rings

/-! ## Streams and cached pages (R132, R139) -/

section
variable {s t : State}

theorem State.fetchStream_of_fetch (h : t.fetch = s.fetch) (ring : Nat) : t.fetchStream ring = s.fetchStream ring := by
  rw [State.fetchStream, State.fetchStream, h]

theorem State.cachedPage_of_fetch (h : t.fetch = s.fetch) (v : Volume) (page : Nat) : t.cachedPage v page = s.cachedPage v page := by
  rw [State.cachedPage, State.cachedPage, h]

theorem State.trackedBytes_of_streams (h : t.fetch.streams = s.fetch.streams) (handle : Nat) :
    t.trackedBytes handle = s.trackedBytes handle := by
  rw [State.trackedBytes, State.trackedBytes, h]

theorem State.stagingFor_of_streams (h : t.fetch.streams = s.fetch.streams) (hheld : t.fetch.spareHeld = s.fetch.spareHeld)
    (hr : t.recipes = s.recipes) (handle : Nat) (r : Recipe) (n : Nat) : t.stagingFor handle r n = s.stagingFor handle r n := by
  simp only [State.stagingFor, State.stagingUsed, State.recipeOfRing, h, hheld, hr]

end

section
variable (s : State)

theorem State.fetchStream_setFetchStream (ring q : Nat) (st : FetchStream) :
    (s.setFetchStream ring st).fetchStream q = if q = ring then some st else s.fetchStream q := Table.find_put _ _ _ _

theorem State.showFetch_onlyLogs : OnlyLogs s s.showFetch := rfl

theorem State.fetchStream_closeStream (ring q : Nat) :
    (s.closeStream ring).fetchStream q = if q = ring then none else s.fetchStream q := Table.find_drop _ _ _

@[simp] theorem State.setFetchStream_dram (ring : Nat) (st : FetchStream) : (s.setFetchStream ring st).dram = s.dram := rfl
@[simp] theorem State.setFetchStream_rings (ring : Nat) (st : FetchStream) : (s.setFetchStream ring st).rings = s.rings := rfl
@[simp] theorem State.setFetchStream_turn (ring : Nat) (st : FetchStream) : (s.setFetchStream ring st).fetch.turn = s.fetch.turn := rfl
@[simp] theorem State.closeStream_dram (ring : Nat) : (s.closeStream ring).dram = s.dram := rfl
@[simp] theorem State.closeStream_rings (ring : Nat) : (s.closeStream ring).rings = s.rings := rfl
@[simp] theorem State.closeStream_taken (ring : Nat) : (s.closeStream ring).taken = s.taken := rfl

/-- A stream with an item in place of any other of its position. -/
def FetchStream.withItem (st : FetchStream) (i : FetchItem) : FetchStream :=
  { st with items := st.items.filter (fun j => j.pos != i.pos) ++ [i] }

theorem FetchStream.mem_withItem (st : FetchStream) (i : FetchItem) : i ∈ (st.withItem i).items := by
  simp [FetchStream.withItem]

theorem FetchStream.mem_withItem_of_ne {st : FetchStream} {i j : FetchItem} (hj : j ∈ st.items) (h : j.pos ≠ i.pos) :
    j ∈ (st.withItem i).items := by
  simp [FetchStream.withItem, hj, h]

variable {s}

theorem State.putItem_eq {ring : Nat} {st : FetchStream} (h : s.fetchStream ring = some st) (i : FetchItem) :
    s.putItem ring i = (s.setFetchStream ring (st.withItem i)).showFetch := by
  simp only [State.putItem, h, FetchStream.withItem]

theorem State.putItem_fetchStream {ring : Nat} {st : FetchStream} (h : s.fetchStream ring = some st) (i : FetchItem) :
    (s.putItem ring i).fetchStream ring = some (st.withItem i) := by
  rw [State.putItem_eq h, State.fetchStream_of_fetch (State.showFetch_onlyLogs _).fetch, State.fetchStream_setFetchStream, if_pos rfl]

end

/-- An item put into its stream leaves everything outside the streams but what is shown of them (R152). -/
theorem State.putItem_onlyLogs {s : State} {ring : Nat} {st : FetchStream} (h : s.fetchStream ring = some st) (i : FetchItem) :
    OnlyLogs (s.setFetchStream ring (st.withItem i)) (s.putItem ring i) :=
  State.putItem_eq h i ▸ State.showFetch_onlyLogs _

/-! ## Reading a catalog page (R132) -/

theorem State.catalogRoom_pos (s : State) : 0 < s.catalogRoom := by
  unfold State.catalogRoom zeroActsAsOne
  split <;> omega

section
variable (s : State) (v : Volume) (page : Nat)

/-- A read of a catalog page touches the media and, in the fetch engine, the cache. -/
theorem State.loadCatalog_reads : ∃ u bs, OnlyReads s u ∧ s.loadCatalog v page =
    { u with fetch := { u.fetch with cache := ((catKey v.space page, bs) :: u.fetch.cache).take u.catalogRoom } } := by
  have hread := s.spaceBytes_onlyReads v.space (page * 4096) 4096
  exact ⟨_, _, (hread.trans (State.count_onlyReads _ unitCAT 1 1)).trans (State.count_onlyReads _ unitCAT 5 _), rfl⟩

theorem State.loadCatalog_cachedPage : ((s.loadCatalog v page).cachedPage v page).isSome := by
  obtain ⟨u, bs, -, he⟩ := s.loadCatalog_reads v page
  obtain ⟨k, hk⟩ := Nat.exists_eq_succ_of_ne_zero u.catalogRoom_pos.ne'
  rw [he, hk]
  simp [State.cachedPage]

theorem State.loadCatalog_fetchStream (ring : Nat) : (s.loadCatalog v page).fetchStream ring = s.fetchStream ring := by
  obtain ⟨u, bs, hu, he⟩ := s.loadCatalog_reads v page
  rw [he]
  exact State.fetchStream_of_fetch hu.fetch ring

theorem State.loadCatalog_dram : (s.loadCatalog v page).dram = s.dram := by
  obtain ⟨u, bs, hu, he⟩ := s.loadCatalog_reads v page
  rw [he]
  exact hu.dram

theorem State.loadCatalog_rings : (s.loadCatalog v page).rings = s.rings := by
  obtain ⟨u, bs, hu, he⟩ := s.loadCatalog_reads v page
  rw [he]
  exact hu.rings

end

/-! ## Staging an item and checking it (R139, R140, R143) -/

/-- `t` is `s` but for the media, DRAM and what logging touches. -/
def OnlyStages (s t : State) : Prop := OnlyReads s { t with dram := s.dram, dramErr := s.dramErr }

theorem OnlyStages.refl (s : State) : OnlyStages s s := rfl

theorem OnlyStages.trans {s t u : State} (h : OnlyStages s t) (g : OnlyStages t u) : OnlyStages s u := by
  unfold OnlyStages OnlyReads OnlyLogs at *
  rw [← h, ← g]

theorem OnlyReads.onlyStages {s t : State} (h : OnlyReads s t) : OnlyStages s t := by
  unfold OnlyStages OnlyReads OnlyLogs at *
  rw [← h]

theorem OnlyStages.proj {s t : State} (h : OnlyStages s t) {α : Type} (f : State → α) : f { t with
    regs := s.regs, events := s.events, fltLog := s.fltLog, letters := s.letters, msix := s.msix, trace := s.trace
    flash := s.flash, ftl := s.ftl, free := s.free, dram := s.dram, dramErr := s.dramErr } = f s := congrArg f h

theorem OnlyStages.fetch {s t : State} (h : OnlyStages s t) : t.fetch = s.fetch := h.proj State.fetch
theorem OnlyStages.taken {s t : State} (h : OnlyStages s t) : t.taken = s.taken := h.proj State.taken
theorem OnlyStages.rings {s t : State} (h : OnlyStages s t) : t.rings = s.rings := h.proj State.rings
theorem OnlyStages.cores {s t : State} (h : OnlyStages s t) : t.cores = s.cores := h.proj State.cores

section
variable (s : State)

theorem State.engineWrite_onlyStages (cls a : Nat) (bs : List Byte) : OnlyStages s (s.engineWrite cls a bs) := by
  have hwrite : OnlyStages s (s.writeDram a bs) := rfl
  exact hwrite.trans (s.engineWrite_onlyLogs cls a bs).onlyReads.onlyStages

theorem State.countEntry_onlyLogs (i : FetchItem) : OnlyLogs s (s.countEntry i) := by
  unfold State.countEntry
  exact OnlyLogs.ite (s.errAdd_onlyLogs _ _) (OnlyLogs.ite (s.errAdd_onlyLogs _ _) (OnlyLogs.refl s))

/-- An item that is not staged and fits has its grist read to the place found for it. -/
theorem State.stageItem_reads {handle : Nat} {r : Recipe} {v : Volume} {i : FetchItem} {a : Nat} (hstaged : i.staged = false)
    (hfit : i.storedLen ≤ r.stagingBytes - s.trackedBytes handle) (ha : s.stagingFor handle r i.storedLen = some a) :
    ∃ (b : SpaceRead) (t : State), s.stageItem handle r v i = some ({ i with grist := a, unread := b.unread, blank := b.blank }, t) ∧
      OnlyStages s t := by
  unfold State.stageItem
  rw [hstaged, if_neg Bool.false_ne_true, if_neg (not_lt.2 hfit), ha]
  dsimp only
  refine ⟨_, _, rfl, OnlyStages.trans (OnlyReads.onlyStages ?_) (State.engineWrite_onlyStages _ 1 a _)⟩
  refine OnlyReads.trans (OnlyReads.trans ?_ (State.count_onlyReads _ unitCAT 5 _)) (State.count_onlyReads _ unitCAT 6 _)
  exact (OnlyReads.foldl (fun t d => t.suspendDie_onlyReads d) _ s).trans (State.spaceBytes_onlyReads _ _ _ _)

variable {s}

/-- What staging an item gives: an item of the same position and entry, with nothing touched but the media and DRAM. -/
theorem State.stageItem_some {t : State} {handle : Nat} {r : Recipe} {v : Volume} {i j : FetchItem}
    (h : s.stageItem handle r v i = some (j, t)) : OnlyStages s t ∧ j.pos = i.pos ∧ j.gsid = i.gsid := by
  by_cases hstaged : i.staged = true
  · rw [State.stageItem, if_pos hstaged] at h
    cases h
    exact ⟨OnlyStages.refl s, rfl, rfl⟩
  by_cases hfit : r.stagingBytes - s.trackedBytes handle < i.storedLen
  · rw [State.stageItem, if_neg hstaged, if_pos hfit] at h
    cases h
    exact ⟨OnlyStages.refl s, rfl, rfl⟩
  cases ha : s.stagingFor handle r i.storedLen with
  | none => simp [State.stageItem, hstaged, hfit, ha] at h
  | some a =>
    obtain ⟨b, u, he, hu⟩ := s.stageItem_reads (v := v) (Bool.eq_false_of_not_eq_true hstaged) (not_lt.1 hfit) ha
    cases he.symm.trans h
    exact ⟨hu, rfl, rfl⟩

variable (s)

/-- What a check gives: an item of the same position and entry, with nothing touched but the media and DRAM. -/
theorem State.checkItem_spec (v : Volume) (i : FetchItem) (peer : Option (List Byte)) :
    OnlyStages s (s.checkItem v i peer).2 ∧ (s.checkItem v i peer).1.pos = i.pos ∧ (s.checkItem v i peer).1.gsid = i.gsid := by
  unfold State.checkItem
  extract_lets good s1
  have h1 : OnlyReads s s1 := s.count_onlyReads _ _ _
  split
  · exact ⟨h1.onlyStages, rfl, rfl⟩
  split
  next again t he =>
    have ht : OnlyStages s t := (h1.trans (OnlyReads.of_snd he (s1.rebuiltBytes_onlyReads _ _ _))).onlyStages
    extract_lets s2 s3 lost
    have h2 : OnlyStages s s2 := by
      cases again with
      | some b => exact ht.trans (t.engineWrite_onlyStages _ _ _)
      | none => exact ht
    have h3 : OnlyStages s s3 := by
      cases peer with
      | some b => exact h2.trans (s2.engineWrite_onlyStages _ _ _)
      | none => exact h2
    split
    · exact ⟨h2, rfl, rfl⟩
    split
    · exact ⟨h3, rfl, rfl⟩
    · exact ⟨h3.trans (s3.errAdd_onlyReads _ _).onlyStages, rfl, rfl⟩

end

end Sys2Proof.Machine

/-!
SUPPORT. The fetch engine's descriptors: a FILL_LIST's list, PERMUTE's run of evaluations, CLOSE, and SPARE's list of one (R144 to
R150).
-/

namespace Sys2Proof.Machine

/-! ## FILL_LIST (R146 to R149) -/

/-- The staged items a list may take, in the order of their positions (R148). -/
def FetchStream.ready (st : FetchStream) : List FetchItem :=
  st.remaining.filterMap (fun p => st.items.find? (fun i => i.pos == p && i.staged))

theorem FetchStream.ready_pos {st : FetchStream} {i : FetchItem} (h : i ∈ st.ready) : i.pos ∈ st.remaining := by
  obtain ⟨p, hp, hfind⟩ := List.mem_filterMap.1 h
  have hsome := List.find?_some hfind
  rw [Bool.and_eq_true, beq_iff_eq] at hsome
  exact hsome.1 ▸ hp

/-- Placing outputs drops items, and changes the position of none. -/
theorem placeOut_sublist (base size : Nat) (used : List Block) (l : List FetchItem) :
    ((placeOut base size used l).map FetchItem.pos).Sublist (l.map FetchItem.pos) := by
  induction l generalizing used with
  | nil => exact List.Sublist.slnil
  | cons i l ih =>
    unfold placeOut
    extract_lets n status
    split
    · exact (ih used).cons_cons _
    split
    · exact (ih used).cons_cons _
    split
    · exact (ih _).cons_cons _
    · exact (ih used).cons _

theorem placeOut_length_le (base size : Nat) (used : List Block) (l : List FetchItem) :
    (placeOut base size used l).length ≤ l.length := by
  simpa using (placeOut_sublist base size used l).length_le

/-- Without an output area an item keeps its place in the list and gets no output space (R148). -/
theorem placeOut_noArea (base : Nat) (used : List Block) (i : FetchItem) :
    placeOut base 0 used [i] = [{ i with out := 0, outSize := 0 }] := by
  simp [placeOut]

/-- The items of a FILL_LIST's list: MAX_ITEMS of those that are ready, as far as the output area takes them (R146, R148). -/
def FetchStream.listed (st : FetchStream) (x : Taken) : List FetchItem :=
  placeOut (x.fieldAt 0x38 8) (x.fieldAt 0x30 4 * 1048576)
    ((st.held.filter (fun i => i.outSize != 0)).map (fun i => (⟨i.out, i.outSize⟩ : Block))) (st.ready.take x.maxItems)

theorem Taken.maxItems_le (x : Taken) : x.maxItems ≤ 4096 := by
  unfold Taken.maxItems
  extract_lets m
  split <;> omega

theorem FetchStream.listed_length_le (st : FetchStream) (x : Taken) :
    (st.listed x).length ≤ x.maxItems ∧ (st.listed x).length ≤ st.ready.length := by
  have h := placeOut_length_le (x.fieldAt 0x38 8) (x.fieldAt 0x30 4 * 1048576)
    ((st.held.filter (fun i => i.outSize != 0)).map (fun i => (⟨i.out, i.outSize⟩ : Block))) (st.ready.take x.maxItems)
  rw [List.length_take] at h
  exact le_min_iff.1 h

theorem FetchStream.listed_pos {st : FetchStream} {x : Taken} {i : FetchItem} (h : i ∈ st.listed x) : i.pos ∈ st.remaining := by
  have hpos : i.pos ∈ (st.ready.take x.maxItems).map FetchItem.pos :=
    (placeOut_sublist _ _ _ _).subset (List.mem_map_of_mem h)
  obtain ⟨j, hj, he⟩ := List.mem_map.1 hpos
  exact he ▸ FetchStream.ready_pos (List.mem_of_mem_take hj)

/-- The stream once the list of `x` holds its items. -/
def FetchStream.returns (st : FetchStream) (x : Taken) : FetchStream :=
  { st with
    items := st.items.filter (fun i => !(st.listed x).any (fun j => j.pos == i.pos)), held := st.listed x
    returned := st.returned ++ (st.listed x).map (·.pos), began := none }

section
variable {s : State} {x : Taken} {st : FetchStream}

theorem State.tryFill_waits (hmin : st.ready.length < x.minItems) (hleft : st.ready.length < st.remaining.length) :
    s.tryFill x st = s := by
  have h : (decide (st.ready.length < x.minItems) && decide (st.ready.length < st.remaining.length)) = true := by
    rw [decide_eq_true hmin, decide_eq_true hleft]; rfl
  exact if_pos h

/-- The state with the list of `x` written and its items handed over, but for the descriptor's end (R148, R149). -/
def State.fills (s : State) (x : Taken) (st : FetchStream) : State :=
  ((s.setFetchStream x.ring (st.returns x)).engineWrite 1 (x.fieldAt 0x28 8)
    (listBytes st.epoch (st.returns x).nextPos (st.listed x))).showFetch

theorem State.tryFill_lists (h : x.minItems ≤ st.ready.length ∨ st.remaining.length ≤ st.ready.length) :
    s.tryFill x st =
      (s.fills x st).finish x stOK (st.listed x).length [(x.fieldAt 0x28 8, 64 + 64 * (st.listed x).length)] := by
  have hno : ¬ (decide (st.ready.length < x.minItems) && decide (st.ready.length < st.remaining.length)) = true := by
    simpa [or_iff_not_imp_left] using h
  exact if_neg hno

variable (s x st)

/-- The list's write and the show of the engine's registers leave the stream's state as it was set. -/
theorem State.fills_onlyLogs : OnlyLogs ((s.setFetchStream x.ring (st.returns x)).writeDram (x.fieldAt 0x28 8)
    (listBytes st.epoch (st.returns x).nextPos (st.listed x))) (s.fills x st) :=
  (State.engineWrite_onlyLogs _ 1 _ _).trans (State.showFetch_onlyLogs _)

theorem State.fills_taken : (s.fills x st).taken = s.taken := (s.fills_onlyLogs x st).taken
theorem State.fills_rings : (s.fills x st).rings = s.rings := (s.fills_onlyLogs x st).rings

theorem State.fills_fetchStream : (s.fills x st).fetchStream x.ring = some (st.returns x) := by
  rw [State.fetchStream_of_fetch (s.fills_onlyLogs x st).fetch]
  exact (s.fetchStream_setFetchStream x.ring x.ring _).trans (if_pos rfl)

theorem State.fills_count : Mem.readLe (s.fills x st).dram (x.fieldAt 0x28 8) 4 = (st.listed x).length :=
  State.engineWrite_listCount _ _ _ _ _ (((st.listed_length_le x).1.trans x.maxItems_le).trans_lt (by decide))

theorem State.fills_epoch : Mem.readLe (s.fills x st).dram (x.fieldAt 0x28 8 + 4) 4 = st.epoch % 2 ^ 32 :=
  (State.engineWrite_readLe _ 1 _ 4 4 (le_trans (by decide) (listBytes_length _ _ _))).trans (leAt_listBytes_epoch _ _ _)

end

/-- A FILL_LIST that may complete: its list at LIST, its stream, and its descriptor's end. -/
theorem State.tryFill_completes {s : State} {c : CoreId} {tk : Ticket} {x : Taken} {st : FetchStream}
    (hx : s.running c tk 1 0x01 = some x) (h : x.minItems ≤ st.ready.length ∨ st.remaining.length ≤ st.ready.length) :
    EndedWith (s.tryFill x st) c tk stOK (st.listed x).length ∧
      Mem.readLe (s.tryFill x st).dram (x.fieldAt 0x28 8) 4 = (st.listed x).length ∧
      Mem.readLe (s.tryFill x st).dram (x.fieldAt 0x28 8 + 4) 4 = st.epoch % 2 ^ 32 ∧
      (s.tryFill x st).fetchStream x.ring = some (st.returns x) ∧ (s.tryFill x st).rings = s.rings := by
  rw [State.tryFill_lists h, State.finish_dram, State.finish_fetchStream, State.finish_rings]
  exact ⟨State.finish_endedWith (State.running_takenAt hx).1 (s.fills_taken x st) _ _ _, s.fills_count x st, s.fills_epoch x st,
    s.fills_fetchStream x st, s.fills_rings x st⟩

/-- A ring's stream has begun the FILL_LIST of this ticket. -/
def State.fillBegun (s : State) (c : CoreId) (tk : Ticket) (ring : Nat) : Bool :=
  (s.fetchStream ring).any (fun q => q.began == some (c.val, tk.toNat))

/-- A FILL_LIST first of its enabled ring begins where it has not, and tries to complete. -/
theorem execFillList_tries {c : CoreId} {tk : Ticket} {s u : State} {x : Taken} {st : FetchStream} (hx : s.running c tk 1 0x01 = some x)
    (hruns : s.engineRuns 1 = true) (hfirst : s.behindFill x = false) (hen : (s.ring 1 x.ring).en = true)
    (hu : (if s.fillBegun c tk x.ring then s else s.beginFill x) = u) (hux : u.running c tk 1 0x01 = some x)
    (hst : u.fetchStream x.ring = some st) : exec (.fillList c tk) s = .next (u.tryFill x st) := by
  change execFillList c tk s = _
  rw [State.fillBegun] at hu
  cases hq : s.fetchStream x.ring with
  | none =>
    rw [hq, Option.any_none] at hu
    simp only [execFillList, hx, hruns, hfirst, hen, hq, hu, hux, hst]
    rfl
  | some q =>
    rw [hq, Option.any_some] at hu
    simp only [execFillList, hx, hruns, hfirst, hen, hq, hu, hux, hst]
    rfl

/-! ## PERMUTE (R145, R150) -/

/-- The words PERMUTE writes for `count` positions. -/
def permWords (f : Nat → Nat × Nat) (count : Nat) : List Byte :=
  ((List.range count).map f).flatMap (fun r => leBytes 8 (r.1 % 2 ^ 48 + min 255 r.2 * 2 ^ 56))

theorem permWords_length (f : Nat → Nat × Nat) (count : Nat) : (permWords f count).length = 8 * count := by
  simp [permWords, List.length_flatMap, leBytes_length, Function.comp_def, Nat.mul_comm]

theorem leAt_permWords (f : Nat → Nat × Nat) {count i : Nat} (hi : i < count) :
    leAt (permWords f count) (8 * i) 8 = (f i).1 % 2 ^ 48 + min 255 (f i).2 * 2 ^ 56 := by
  have hword := leAt_flatMap_leBytes (fun r : Nat × Nat => r.1 % 2 ^ 48 + min 255 r.2 * 2 ^ 56) 8 ((List.range count).map f) i
    (by simpa using hi)
  have hlt : (f i).1 % 2 ^ 48 + min 255 (f i).2 * 2 ^ 56 < 256 ^ 8 := by omega
  rw [permWords, hword]
  simpa using Nat.mod_eq_of_lt hlt

/-- What PERMUTE evaluates for position `i` of its run: π, or σ where its body asks for the spare stream (R133, R150). -/
def Taken.permAt (x : Taken) (seed : List Byte) (n i : Nat) : Nat × Nat :=
  (if x.fieldAt 0x13 1 % 2 = 1 then permSigma else permPi) seed (x.fieldAt 0x14 4) n (x.fieldAt 0x18 6 + i)

/-- Evaluations of the permutation, counted (R152). -/
def State.countPerms (s : State) (rs : List (Nat × Nat)) : State :=
  (s.count unitCAT 2 (rs.foldl (fun m r => m + r.2) 0)).count unitCAT 3 rs.length

theorem State.countPerms_onlyLogs (s : State) (rs : List (Nat × Nat)) : OnlyLogs s (s.countPerms rs) :=
  (s.count_onlyLogs unitCAT 2 _).trans (State.count_onlyLogs _ unitCAT 3 _)

/-- What PERMUTE's write leaves: each word of the run in its place, and every other byte as it was. -/
theorem State.engineWrite_permWords (s : State) (out : Nat) (f : Nat → Nat × Nat) (count : Nat) :
    (∀ i, i < count → Mem.readLe (s.engineWrite 1 out (permWords f count)).dram (out + 8 * i) 8 =
      (f i).1 % 2 ^ 48 + min 255 (f i).2 * 2 ^ 56) ∧
    (∀ a, a < out ∨ out + 8 * count ≤ a → Mem.get (s.engineWrite 1 out (permWords f count)).dram a = Mem.get s.dram a) := by
  constructor
  · intro i hi
    rw [State.engineWrite_readLe _ _ _ _ _ (by rw [permWords_length]; omega), leAt_permWords f hi]
  · intro a ha
    rw [State.engineWrite_dram, Mem.get_store, permWords_length, if_neg (by omega)]

section
variable {c : CoreId} {tk : Ticket} {s : State} {x : Taken} (hx : s.running c tk 1 0x02 = some x) (hruns : s.engineRuns 1 = true)
include hx hruns

theorem execPermute_badSeed (hseed : s.seedOf 1 x.ring (x.fieldAt 0x12 1 % 4) = none) :
    exec (.permute c tk) s = .next (s.finish x stBAD_SEED 0 []) := by
  change execPermute c tk s = _
  simp only [execPermute, hx, hruns, hseed]
  rfl

/-- A PERMUTE whose run lies in the dataset writes its words and ends with OK. -/
theorem execPermute_writes {seed : List Byte} {n count : Nat} (hseed : s.seedOf 1 x.ring (x.fieldAt 0x12 1 % 4) = some seed) (hn : 0 < n)
    (hsize : (if x.fieldAt 0x20 6 = 0 then ((s.volumeFor (x.fieldAt 0x10 2)).map (·.n)).getD 0 else x.fieldAt 0x20 6) = n)
    (hcount : (if x.fieldAt 0x1E 2 = 0 then 65536 else x.fieldAt 0x1E 2) = count) (hin : x.fieldAt 0x18 6 + count ≤ n) :
    exec (.permute c tk) s = .next (((s.countPerms ((List.range count).map (x.permAt seed n))).engineWrite 1 (x.fieldAt 0x28 8)
      (permWords (x.permAt seed n) count)).finish x stOK 0 [(x.fieldAt 0x28 8, (permWords (x.permAt seed n) count).length)]) := by
  have hmin : min count (n - x.fieldAt 0x18 6) = count := by omega
  change execPermute c tk s = _
  unfold execPermute
  simp only [hx, hruns, hseed, hsize, hcount, if_neg hn.ne', hmin, if_neg (not_lt.2 hin)]
  rfl

end

/-! ## CLOSE (R147, R150) -/

theorem execClose_closes {c : CoreId} {tk : Ticket} {s : State} {x : Taken} (hx : s.running c tk 1 0x04 = some x)
    (hruns : s.engineRuns 1 = true) (hfirst : s.behindFill x = false) :
    exec (.close c tk) s = .next ((s.closeStream x.ring).finish x stOK 0 []) := by
  change execClose c tk s = _
  simp only [execClose, hx, hruns, hfirst]
  rfl

/-! ## SPARE (R144, R145, R150) -/

/-- The item SPARE lists: the substitute's, with the position it stands for, and no output space (R144, R149). -/
def FetchItem.substituted (i : FetchItem) (attempt origin : Nat) : FetchItem :=
  { i with
    status := if i.status = stOK then stSUBSTITUTED else i.status, attempt := attempt, origin := origin, out := 0, outSize := 0 }

/-- An item after the check that SPARE makes of what is not staged whole (R143, R144). -/
def State.checked (s : State) (v : Volume) (i : FetchItem) (peer : Option (List Byte)) : FetchItem × State :=
  if i.staged then (i, s) else s.checkItem v i peer

theorem State.checked_spec (s : State) (v : Volume) (i : FetchItem) (peer : Option (List Byte)) :
    OnlyStages s (s.checked v i peer).2 ∧ (s.checked v i peer).1.pos = i.pos ∧ (s.checked v i peer).1.gsid = i.gsid := by
  unfold State.checked
  split
  · exact ⟨OnlyStages.refl s, rfl, rfl⟩
  · exact s.checkItem_spec v i peer

theorem pageItem_pos (v : Volume) (r : Recipe) (pos g : Nat) (page : List Byte) (at_ : Nat) : (pageItem v r pos g page at_).pos = pos := by
  unfold pageItem
  split <;> rfl

theorem pageItem_gsid (v : Volume) (r : Recipe) (pos g : Nat) (page : List Byte) (at_ : Nat) : (pageItem v r pos g page at_).gsid = g := by
  unfold pageItem
  split <;> rfl

/-- The substitute as it comes out of staging and check: its position and GSID, with the descriptors and the fetch engine as staging
left them. -/
theorem State.checked_substitute {s s1 s2 : State} {h : Nat} {r : Recipe} {v : Volume} {pos g at_ : Nat} {pg : List Byte} {i : FetchItem}
    (hlogs : OnlyLogs s s1) (hstage : s1.stageItem h r v (pageItem v r pos g pg at_) = some (i, s2)) (peer : Option (List Byte)) :
    (s2.checked v i peer).2.taken = s.taken ∧ (s2.checked v i peer).2.fetch = s2.fetch ∧ (s2.checked v i peer).1.pos = pos ∧
      (s2.checked v i peer).1.gsid = g := by
  obtain ⟨hstaged, hpos, hgsid⟩ := State.stageItem_some hstage
  obtain ⟨hchecked, hpos', hgsid'⟩ := s2.checked_spec v i peer
  exact ⟨hchecked.taken.trans (hstaged.taken.trans hlogs.taken), hchecked.fetch, hpos'.trans (hpos.trans (pageItem_pos _ _ _ _ _ _)),
    hgsid'.trans (hgsid.trans (pageItem_gsid _ _ _ _ _ _))⟩

/-- The state with the item `j` held for its ring's SPAREs and listed at `list`. -/
def State.listsSpare (s : State) (ring list epoch p : Nat) (j : FetchItem) : State :=
  ({ s with fetch := { s.fetch with
      spareHeld := Table.put s.fetch.spareHeld ring (Table.at [] s.fetch.spareHeld ring ++ [j]) } }.showFetch).engineWrite 1 list
    (listBytes epoch p [j])

section
variable (s : State) (ring list epoch p : Nat) (j : FetchItem)

theorem State.listsSpare_taken : (s.listsSpare ring list epoch p j).taken = s.taken := State.engineWrite_taken _ _ _ _

theorem State.listsSpare_held : Table.at [] (s.listsSpare ring list epoch p j).fetch.spareHeld ring =
    Table.at [] s.fetch.spareHeld ring ++ [j] := by
  rw [State.listsSpare, State.engineWrite_fetch, Table.at]
  exact congrArg (Option.getD · []) ((Table.find_put _ ring ring _).trans (if_pos rfl))

end

section
variable {c : CoreId} {tk : Ticket} {s : State} {x : Taken} {seed : List Byte} {h : Nat} {r : Recipe} {v : Volume}
  (hx : s.running c tk 1 0x03 = some x) (hruns : s.engineRuns 1 = true) (hen : (s.ring 1 x.ring).en = true)
  (hseed : s.seedOf 1 x.ring (x.fieldAt 0x12 1 % 4) = some seed) (hrec : s.recipeOfRing 1 x.ring = some (h, r))
  (hvol : s.volumeFor (x.fieldAt 0x10 2) = some v) (hp : x.fieldAt 0x18 6 < v.n)
include hx hruns hen hseed hrec hvol hp

theorem execSpare_exhausted (peer : Option (List Byte))
    (hsub : substitute seed (x.fieldAt 0x14 4) v (x.fieldAt 0x18 6) (x.fieldAt 0x13 1) = none) :
    exec (.spare c tk peer) s = .next ((s.engineWrite 1 (x.fieldAt 0x28 8) (listBytes (x.fieldAt 0x14 4) (x.fieldAt 0x18 6) [])).finish
      x stSPARES_EXHAUSTED 0 []) := by
  change execSpare c tk peer s = _
  simp only [execSpare, hx, hruns, hen, hseed, hrec, hvol, if_neg (not_le.2 hp), hsub]
  rfl

/-- A SPARE whose substitute's entry is cached and whose item needs no output space lists the item once it is staged. -/
theorem execSpare_lists (peer : Option (List Byte)) {pos g : Nat} {pg : List Byte} {i : FetchItem} {s2 : State}
    (hsub : substitute seed (x.fieldAt 0x14 4) v (x.fieldAt 0x18 6) (x.fieldAt 0x13 1) = some (pos, g))
    (hpage : s.cachedPage v (v.entryPage g).1 = some pg)
    (hstage : ((s.count unitCAT 0 1).countEntry (pageItem v r pos g pg (v.entryPage g).2)).stageItem h r v
      (pageItem v r pos g pg (v.entryPage g).2) = some (i, s2)) (hsize : x.fieldAt 0x30 4 = 0) {j : FetchItem}
    (hj : (s2.checked v i peer).1.substituted (x.fieldAt 0x13 1) (x.fieldAt 0x18 6 % 65536) = j) :
    exec (.spare c tk peer) s = .next (((s2.checked v i peer).2.listsSpare x.ring (x.fieldAt 0x28 8) (x.fieldAt 0x14 4)
      (x.fieldAt 0x18 6) j).finish x j.status 0 [(x.fieldAt 0x28 8, 128)]) := by
  have hpage' : (s.count unitCAT 0 1).cachedPage v (v.entryPage g).1 = some pg :=
    (State.cachedPage_of_fetch (s.count_onlyLogs unitCAT 0 1).fetch _ _).trans hpage
  subst hj
  change execSpare c tk peer s = _
  unfold execSpare
  simp only [hx, hruns, hen, hseed, hrec, hvol, if_neg (not_le.2 hp), hsub, hpage, hpage', Option.isSome_some, if_true, Option.getD_some,
    hstage, hsize, Nat.zero_mul, placeOut_noArea]
  rfl

end

/-! ## The statement -/

/-- Settles O22: FILL_LIST by `tryFill_completes`, PERMUTE by `engineWrite_permWords`, CLOSE by the dropped stream, SPARE by
`execSpare_lists` and what staging and the check leave. -/
theorem streamCommands : Obligations.StreamCommands := by
  unfold Obligations.StreamCommands
  refine ⟨fun c tk s u x st hx hruns hfirst hen hu hux hst ready hready => ?_, fun c tk s x hx hruns => ⟨fun hseed => ?_,
    fun seed n count out hseed hn hsize hcount hout hin => ?_⟩, fun c tk s x hx hruns hfirst => ?_,
    fun c tk peer s x seed h r v hx hruns hen hseed hrec hvol hp => ⟨fun hsub => ?_,
      fun pos g pg i i2 s1 s2 hsub hpage hi hs1 hstage hsize => ?_⟩⟩
  · have hbegun : (if s.fillBegun c tk x.ring then s else s.beginFill x) = u := by
      rw [State.fillBegun]
      cases hq : s.fetchStream x.ring with
      | none => simpa only [hq, Option.any_none] using hu
      | some q => simpa only [hq, Option.any_some] using hu
    have hexec := execFillList_tries hx hruns hfirst hen hbegun hux hst
    have hready : st.ready = ready := hready
    subst hready
    refine ⟨fun hmin hleft => hexec.trans (congrArg _ (State.tryFill_waits hmin hleft)), fun h => ?_⟩
    obtain ⟨hend, hcount, hepoch, hstream, hrings⟩ := State.tryFill_completes hux h
    obtain ⟨hmax, hlen⟩ := st.listed_length_le x
    exact ⟨_, _, _, hexec, hend, hmax, hlen, hcount, hepoch, hstream, rfl,
      fun i hi => ⟨FetchStream.listed_pos hi, List.mem_append_right _ (List.mem_map_of_mem hi)⟩, hrings, u.tryFill_cores x st⟩
  · exact ⟨_, execPermute_badSeed hx hruns hseed, State.finish_endedWith (State.running_takenAt hx).1 rfl _ _ _, rfl⟩
  · subst hout
    obtain ⟨hwords, hrest⟩ := (s.countPerms ((List.range count).map (x.permAt seed n))).engineWrite_permWords (x.fieldAt 0x28 8)
      (x.permAt seed n) count
    have hlogs := s.countPerms_onlyLogs ((List.range count).map (x.permAt seed n))
    refine ⟨_, execPermute_writes hx hruns hseed hn hsize hcount hin,
      State.finish_endedWith (State.running_takenAt hx).1 ((State.engineWrite_taken _ _ _ _).trans hlogs.taken) _ _ _, ?_,
      fun a ha => ?_, ?_, ?_⟩
    · rw [State.finish_dram]
      exact hwords
    · rw [State.finish_dram, hrest a ha, hlogs.dram]
    · rw [State.finish_rings, State.engineWrite_rings, hlogs.rings]
    · rw [State.finish_cores, State.engineWrite_cores, hlogs.cores]
  · refine ⟨_, execClose_closes hx hruns hfirst,
      State.finish_endedWith (State.running_takenAt hx).1 (s.closeStream_taken _) _ _ _, ?_, fun r hr => ?_, ?_, ?_⟩
    · rw [State.finish_fetchStream, State.fetchStream_closeStream, if_pos rfl]
    · rw [State.finish_fetchStream, State.fetchStream_closeStream, if_neg hr]
    · rw [State.finish_dram, State.closeStream_dram]
    · rw [State.finish_rings, State.closeStream_rings]
  · exact ⟨_, execSpare_exhausted hx hruns hen hseed hrec hvol hp peer hsub,
      State.finish_endedWith (State.running_takenAt hx).1 (State.engineWrite_taken _ _ _ _) _ _ _,
      (congrArg (Mem.readLe · _ 4) (State.finish_dram _ _ _ _ _)).trans (s.engineWrite_listCount _ _ _ [] (by simp))⟩
  · subst hi hs1
    obtain ⟨htaken, hfetch, hpos, hgsid⟩ :=
      State.checked_substitute ((s.count_onlyLogs unitCAT 0 1).trans (State.countEntry_onlyLogs _ _)) hstage peer
    have hexec := execSpare_lists hx hruns hen hseed hrec hvol hp peer hsub hpage hstage hsize rfl
    refine ⟨_, (s2.checked v i2 peer).1.substituted (x.fieldAt 0x13 1) (x.fieldAt 0x18 6 % 65536), hexec, ?_, ?_, ?_, hpos, hgsid, rfl,
      fun hwhole => ?_⟩
    · exact State.finish_endedWith (State.running_takenAt hx).1 ((State.listsSpare_taken _ _ _ _ _ _).trans htaken) _ _ _
    · rw [State.finish_dram]
      exact State.engineWrite_listCount _ _ _ _ [_] (by simp)
    · rw [State.finish_fetch, State.listsSpare_held, hfetch]
    · rw [State.checked, if_pos hwhole]
      rfl

end Sys2Proof.Machine

/-!
SUPPORT. The fetch engine's own work: the catalog page a window misses, the grist read whose turn it is, and the check of what was
read (R132, R139 to R143).
-/

namespace Sys2Proof.Machine

/-! ## Catalog pages (R132) -/

/-- The catalog page with the entry of a position. -/
def FetchStream.pageOf (st : FetchStream) (q : Nat) : Nat :=
  (st.volume.entryPage (permPi st.seed st.epoch st.volume.n q).1).1

/-- A position of the node's own that was not issued and whose catalog page is not cached. -/
def State.wantsPage (s : State) (st : FetchStream) (q : Nat) : Bool :=
  (permPi st.seed st.epoch st.volume.n q).1 % st.volume.places == st.volume.place && !st.items.any (fun i => i.pos == q)
    && (s.cachedPage st.volume (st.pageOf q)).isNone

/-- The first of a list that meets a test, with what it answers. -/
theorem findSome?_first {α β : Type} {p : α → Bool} {f : α → β} {pre suf : List α} {a : α} (hpre : ∀ b ∈ pre, p b = false)
    (ha : p a = true) : (pre ++ a :: suf).findSome? (fun b => if p b then some (f b) else none) = some (f a) := by
  have hnone : pre.findSome? (fun b => if p b then some (f b) else none) = none :=
    List.findSome?_eq_none_iff.2 fun b hb => by simp [hpre b hb]
  simp [List.findSome?_append, hnone, ha]

/-- The lowest position of the window whose page is missing has its page read. -/
theorem execCatalogMiss_loads {ring : BitVec 10} {s : State} {st : FetchStream} {pre suf : List Nat} {p : Nat}
    (hst : s.fetchStream ring.toNat = some st) (hruns : s.fetchRuns = true) (hopen : st.closed = false)
    (hwindow : st.window.map (·.1) = pre ++ p :: suf) (hpre : ∀ q ∈ pre, s.wantsPage st q = false) (hp : s.wantsPage st p = true) :
    exec (.catalogMiss ring) s =
      .next ((s.setFetchStream ring.toNat { st with missed := st.missed ++ [p] }).loadCatalog st.volume (st.pageOf p)) := by
  have hfirst : st.window.findSome? (fun e => if s.wantsPage st e.1 then some (e.1, st.pageOf e.1) else none) = some (p, st.pageOf p) := by
    have := findSome?_first (f := fun q => (q, st.pageOf q)) (suf := suf) hpre hp
    rwa [← hwindow, List.findSome?_map] at this
  simp only [State.wantsPage, FetchStream.pageOf, beq_eq_decide] at hfirst
  change execCatalogMiss ring s = _
  simp only [execCatalogMiss, hst, hruns, hopen, beq_eq_decide, hfirst, Bool.not_true, Bool.or_false, Bool.false_eq_true, if_false,
    FetchStream.pageOf]

/-! ## Grist reads (R139 to R142) -/

/-- The state once the read `rd` has its turn, before its grist is read. -/
def State.turnsTo (s : State) (rd : GristRead) (st : FetchStream) : State :=
  let s := { s with fetch := { s.fetch with turn := rd.die / 32 } }
  let s := (s.count unitCAT 2 (permPi st.seed st.epoch st.volume.n rd.item.pos).2).count unitCAT 3 1
  (if st.missed.contains rd.item.pos then s else s.count unitCAT 0 1).countEntry rd.item

theorem State.turnsTo_onlyLogs (s : State) (rd : GristRead) (st : FetchStream) :
    OnlyLogs { s with fetch := { s.fetch with turn := rd.die / 32 } } (s.turnsTo rd st) := by
  unfold State.turnsTo
  extract_lets fl s1 s2
  have h2 : OnlyLogs s1 s2 := (s1.count_onlyLogs _ _ _).trans (State.count_onlyLogs _ _ _ _)
  exact (h2.trans (OnlyLogs.ite (OnlyLogs.refl s2) (s2.count_onlyLogs _ _ _))).trans (State.countEntry_onlyLogs _ _)

theorem State.turnsTo_fetch (s : State) (rd : GristRead) (st : FetchStream) :
    (s.turnsTo rd st).fetch = { s.fetch with turn := rd.die / 32 } := (s.turnsTo_onlyLogs rd st).fetch

theorem State.turnsTo_trackedBytes (s : State) (rd : GristRead) (st : FetchStream) (handle : Nat) :
    (s.turnsTo rd st).trackedBytes handle = s.trackedBytes handle :=
  State.trackedBytes_of_streams (by rw [State.turnsTo_fetch]) handle

theorem State.turnsTo_stagingFor (s : State) (rd : GristRead) (st : FetchStream) (handle : Nat) (r : Recipe) (n : Nat) :
    (s.turnsTo rd st).stagingFor handle r n = s.stagingFor handle r n :=
  State.stagingFor_of_streams (by rw [State.turnsTo_fetch]) (by rw [State.turnsTo_fetch])
    ((s.turnsTo_onlyLogs rd st).proj State.recipes) handle r n

theorem State.turnsTo_fetchStream (s : State) (rd : GristRead) (st : FetchStream) (ring : Nat) :
    (s.turnsTo rd st).fetchStream ring = s.fetchStream ring := by
  rw [State.fetchStream, State.turnsTo_fetch]
  rfl

/-- The next read of the node's own, once staged, puts its item into the stream. -/
theorem execGristReadIssue_puts {s t : State} {rd : GristRead} {st : FetchStream} {h : Nat} {r : Recipe} {i : FetchItem}
    (rebuilt : Option (List Byte × List Byte)) (hruns : s.fetchRuns = true) (hnext : s.nextRead = some rd)
    (hst : s.fetchStream rd.ring = some st) (hrec : s.recipeOfRing 1 rd.ring = some (h, r))
    (hhome : (permPi st.seed st.epoch st.volume.n rd.item.pos).1 % st.volume.places = st.volume.place)
    (hstage : (s.turnsTo rd st).stageItem h r st.volume rd.item = some (i, t)) :
    exec (.gristReadIssue rebuilt) s = .next (t.putItem rd.ring i) := by
  rw [State.turnsTo] at hstage
  change execGristReadIssue rebuilt s = _
  simp only [execGristReadIssue, hruns, hnext, hst, hrec, hhome, hstage]
  rfl

/-! ## The check of a staged item (R143) -/

/-- An item once its check finds that nothing can give it (R143, R149 CAUSE 2). -/
def FetchItem.lost (i : FetchItem) : FetchItem :=
  { i with staged := true, status := stDAMAGED, cause := 2, grist := if i.blank then 0 else i.grist }

theorem State.checkItem_sound {s : State} {i : FetchItem} (hread : i.unread = false)
    (hcrc : (crc64 (s.dramBytes i.grist i.storedLen)).toNat = i.crc) (v : Volume) (peer : Option (List Byte)) :
    s.checkItem v i peer = ({ i with staged := true }, s.count unitCAT 4 i.storedLen) := by
  have hbytes : (s.count unitCAT 4 i.storedLen).dramBytes i.grist i.storedLen = s.dramBytes i.grist i.storedLen := by
    rw [State.dramBytes, State.dramBytes, State.count_dram]
  simp [State.checkItem, hread, hbytes, hcrc]

theorem State.checkItem_lost {s u : State} {v : Volume} {i : FetchItem} (hread : i.unread = true)
    (hnone : (s.count unitCAT 4 i.storedLen).rebuiltBytes v.space i.offset i.storedLen = (none, u)) :
    s.checkItem v i none = (i.lost, u.errAdd Reg.CAT_ERR_CNT_CRC_FAIL 1) := by
  simp [State.checkItem, hread, hnone, FetchItem.lost]

theorem execItemStaged_checks {ring : BitVec 10} {pos : BitVec 48} {s : State} {st : FetchStream} {i : FetchItem}
    (hst : s.fetchStream ring.toNat = some st)
    (hfind : st.items.find? (fun j => j.pos == pos.toNat && !j.staged && j.grist != 0) = some i) (hruns : s.fetchRuns = true)
    (hopen : st.closed = false) (peer : Option (List Byte)) :
    exec (.itemStaged ring pos peer) s =
      .next ((s.checkItem st.volume i peer).2.putItem ring.toNat (s.checkItem st.volume i peer).1) := by
  change execItemStaged ring pos peer s = _
  simp only [execItemStaged, hst, hfind, hruns, hopen]
  rfl

/-! ## The statement -/

/-- Settles O23: the page by `loadCatalog_reads`, the read by `stageItem_reads`, the checks by `checkItem_sound` and
`checkItem_lost`. -/
theorem fetchProgress : Obligations.FetchProgress := by
  unfold Obligations.FetchProgress
  refine ⟨fun ring s st pre suf p hst hruns hopen hwindow => ?_,
    fun rebuilt s rd st h r a hruns hnext hst hrec hhome hstaged hfit ha => ?_,
    fun ring pos peer s st i hst hfind hruns hopen hread hcrc => ?_,
    fun ring pos s s1 st i hst hfind hruns hopen hread hnone hst1 => ?_⟩
  · intro wants hpre hp
    refine ⟨_, execCatalogMiss_loads hst hruns hopen hwindow hpre hp, State.loadCatalog_cachedPage _ _ _,
      ⟨{ st with missed := st.missed ++ [p] }, ?_, rfl⟩, fun q hq => ?_, State.loadCatalog_dram _ _ _, State.loadCatalog_rings _ _ _⟩
    · rw [State.loadCatalog_fetchStream, State.fetchStream_setFetchStream, if_pos rfl]
    · rw [State.loadCatalog_fetchStream, State.fetchStream_setFetchStream, if_neg hq]
  · obtain ⟨b, t, hstage, honly⟩ := (s.turnsTo rd st).stageItem_reads (v := st.volume) hstaged
      (by rwa [State.turnsTo_trackedBytes]) ((s.turnsTo_stagingFor rd st h r _).trans ha)
    have ht : t.fetchStream rd.ring = some st := by
      rw [State.fetchStream_of_fetch honly.fetch, State.turnsTo_fetchStream, hst]
    have hput := State.putItem_onlyLogs ht { rd.item with grist := a, unread := b.unread, blank := b.blank }
    refine ⟨_, _, _, execGristReadIssue_puts rebuilt hruns hnext hst hrec hhome hstage, State.putItem_fetchStream ht _,
      st.mem_withItem _, rfl, rfl, hstaged, ?_, ?_, ?_⟩
    · rw [hput.fetch, State.setFetchStream_turn, honly.fetch, State.turnsTo_fetch]
    · rw [hput.rings, State.setFetchStream_rings, honly.rings, (s.turnsTo_onlyLogs rd st).rings]
    · rw [State.putItem_cores, honly.cores, (s.turnsTo_onlyLogs rd st).cores]
  · have hexec := execItemStaged_checks hst hfind hruns hopen peer
    rw [State.checkItem_sound hread hcrc] at hexec
    have ht : (s.count unitCAT 4 i.storedLen).fetchStream ring.toNat = some st :=
      (State.fetchStream_of_fetch (s.count_onlyLogs unitCAT 4 i.storedLen).fetch _).trans hst
    refine ⟨_, _, hexec, State.putItem_fetchStream ht _, st.mem_withItem _, fun j hj hne => FetchStream.mem_withItem_of_ne hj hne, ?_⟩
    rw [(State.putItem_onlyLogs ht _).dram, State.setFetchStream_dram, State.count_dram]
  · have hexec := execItemStaged_checks hst hfind hruns hopen none
    rw [State.checkItem_lost hread hnone] at hexec
    exact ⟨_, _, hexec, State.putItem_fetchStream (s := s1.errAdd Reg.CAT_ERR_CNT_CRC_FAIL 1) hst1 _, st.mem_withItem _⟩

end Sys2Proof.Machine

/-!
SUPPORT. The mills: the registers that an access leaves, the ways a mill's run ends, and what its record shows (R156, R157, R160,
R168 to R177).
-/

namespace Sys2Proof.Machine

/-! ## Registers that counting and logging leave -/

theorem State.reg_ite {s a b : State} {p : Prop} [Decidable p] {off : Nat} (ha : a.reg off = s.reg off) (hb : b.reg off = s.reg off) :
    (if p then a else b).reg off = s.reg off := by
  split
  · exact ha
  · exact hb

section
variable (s : State) {off : Nat} (hoff : off ∉ Reg.FLT_LOG_HEAD :: logRegisters)
include hoff

theorem State.logFault_reg (kind polder detail value : Nat) : (s.logFault kind polder detail value).reg off = s.reg off := by
  obtain ⟨hhead, hlog⟩ := not_or.1 (mt List.mem_cons.2 hoff)
  unfold State.logFault
  extract_lets e i s1 s2 s3 s4 s5
  have h2 : s2.reg off = s.reg off := (s1.reg_setFld _ _ off).trans (if_neg hhead)
  have h3 : s3.reg off = s2.reg off := State.reg_ite ((s2.reg_setFld _ _ off).trans (if_neg hhead)) rfl
  have h5 : s5.reg off = s3.reg off :=
    ((s3.countQuiet_regsKept _ _ _).trans (State.emit_regsKept _ _ _ _ _)) off hlog
  exact (s5.trigger_regsKept 2 off hlog).trans (h5.trans (h3.trans h2))

theorem State.count_reg (u k n : Nat) : (s.count u k n).reg off = s.reg off := by
  have hlog : off ∉ logRegisters := fun h => hoff (List.mem_cons_of_mem _ h)
  unfold State.count
  split
  next t wrapped ht =>
    have h : t.reg off = s.reg off := by
      have := s.countQuiet_regsKept u k n off hlog
      rwa [ht] at this
    exact State.reg_ite ((State.logFault_reg _ hoff _ _ _ _).trans ((t.countQuiet_regsKept _ _ _ off hlog).trans h)) h

/-- An engine's access leaves the registers but those of counting, logging and tracing. -/
theorem State.engineAccess_reg (cls : Nat) (write : Bool) (a n : Nat) : (s.engineAccess cls write a n).reg off = s.reg off := by
  have hlog : off ∉ logRegisters := fun h => hoff (List.mem_cons_of_mem _ h)
  unfold State.engineAccess
  refine State.reg_ite rfl
    (List.foldlRecOn (motive := fun t : State => t.reg off = s.reg off) _ _ (s.count_reg hoff _ _ _) fun t ht i _ => ?_)
  exact State.reg_ite (((t.emit_regsKept _ _ _ _).trans (State.trigger_regsKept _ _) off hlog).trans ht) ht

end

/-! ## What a mill's descriptor names (R156) -/

section
variable (s : State) (x : Taken)

/-- ITEM as the mill reads it. -/
def State.millItem : ItemView := itemView (s.dramBytes (x.fieldAt 0x10 8) 64)

/-- The stream at SRC. -/
def State.millSource : List Byte := s.dramBytes (x.fieldAt 0x18 8) (x.fieldAt 0x20 4)

def State.millHeaders : Headers := streamHeaders (s.millItem x).codec (s.millSource x)

/-- The refusal of R157 that the descriptor meets. -/
def State.millRefuses : Option Nat :=
  millRefusal s.part.variant x.cls (x.fieldAt 0x34 1) (x.fieldAt 0x35 1 % 16) (bitAt (BitVec.ofNat 16 (x.fieldAt 0x36 2)) 5)
    (bitAt (BitVec.ofNat 16 (x.fieldAt 0x36 2)) 7) (natAt (BitVec.ofNat 16 (x.fieldAt 0x36 2)) 8 8) (s.millItem x).codec

/-- B1 meets an accepted image of another kind than 1 bit and one component (R158). -/
def State.millWrongKind : Bool :=
  x.fieldAt 0x34 1 = 7 && !((s.millHeaders x).bits == 1 && (s.millHeaders x).comps == 1) && (s.millHeaders x).known
    && (s.millHeaders x).unsupported.isNone

theorem State.millWrongKind_iff : s.millWrongKind x = true ↔
    x.fieldAt 0x34 1 = 7 ∧ ¬ ((s.millHeaders x).bits = 1 ∧ (s.millHeaders x).comps = 1) ∧ (s.millHeaders x).known = true ∧
      (s.millHeaders x).unsupported = none := by
  simp [State.millWrongKind, and_assoc, imp_iff_not_or]

/-- The damage that the headers show (R168 to R170). -/
def State.millHeaderDamage : Option Damage :=
  headerDamage x.cls (x.fieldAt 0x34 1) (x.fieldAt 0x35 1 % 16) (x.fieldAt 0x20 4)
    (bitAt (BitVec.ofNat 16 (x.fieldAt 0x36 2)) 5) (s.limitsOf x.cls x.ring) (s.millHeaders x) (s.millItem x)

/-- The resolution levels that the mill discards (R168). -/
def State.millLevels : Nat := if x.cls = 4 then reduction (s.millHeaders x) (x.fieldAt 0x35 1 % 16) else 0

/-- The state once the mill has read ITEM and SRC. -/
def State.millReads : State :=
  (s.engineAccess x.cls false (x.fieldAt 0x10 8) 64).freshFree.2.engineAccess x.cls false (x.fieldAt 0x18 8) (x.fieldAt 0x20 4)

/-- The mill conceals damage (R157, R173). -/
def State.millConceals : Bool := bitAt (BitVec.ofNat 16 (x.fieldAt 0x36 2)) 6 || (s.limitsOf x.cls x.ring).policy == 0

/-- LANES of a run that no scan spreads over the lanes (R154, R177). -/
def State.millLane : Nat :=
  let draw := (s.engineAccess x.cls false (x.fieldAt 0x10 8) 64).freshFree.1
  if x.cls = 4 then draw % 256 else 2 ^ (draw % 8)

/-- The record of a PROBE whose headers pass. -/
def State.millProbed : Wort :=
  let image := fmtImage (x.fieldAt 0x34 1)
  let d : Option Damage := if (s.millItem x).status = stDAMAGED then some ⟨1, allOnes64, 0, 0, false⟩ else none
  let status := wortStatus (s.millConceals x) d
  bareWort (s.millLane x) (if status = stOK ∧ (s.millItem x).status = stSUBSTITUTED then stSUBSTITUTED else status) d (s.millHeaders x)
    (if image then outWidth (s.millHeaders x) (s.millLevels x) else outSamples (s.millHeaders x) (s.millItem x))
    (if image then outHeight (s.millHeaders x) (s.millLevels x) else (s.millHeaders x).channels * 2 ^ 24 + (s.millHeaders x).rate)
    (s.millLevels x)

theorem State.millProbed_status (h : (s.millItem x).status = stOK) : (s.millProbed x).status = stOK := by
  simp [State.millProbed, bareWort, wortStatus, h, stOK, stDAMAGED, stSUBSTITUTED]

theorem State.engineAccess_dramBytes (cls : Nat) (write : Bool) (a n b k : Nat) :
    (s.engineAccess cls write a n).dramBytes b k = s.dramBytes b k :=
  congrArg (Mem.bytes · b k) (s.engineAccess_onlyLogs cls write a n).dram

theorem State.freshFree_dramBytes (b k : Nat) : s.freshFree.2.dramBytes b k = s.dramBytes b k := rfl

theorem State.engineAccess_part (cls : Nat) (write : Bool) (a n : Nat) : (s.engineAccess cls write a n).part = s.part :=
  (s.engineAccess_onlyLogs cls write a n).proj State.part

theorem State.engineAccess_limitsOf (cls : Nat) (write : Bool) (a n cls' ring : Nat) :
    (s.engineAccess cls write a n).limitsOf cls' ring = s.limitsOf cls' ring := by
  have h : (s.engineAccess cls write a n).recipes = s.recipes := (s.engineAccess_onlyLogs cls write a n).proj State.recipes
  rw [State.limitsOf, State.limitsOf, State.recipeOfRing, State.recipeOfRing, h]

theorem State.millReads_onlyReads : OnlyReads s (s.millReads x) :=
  ((s.engineAccess_onlyLogs _ _ _ _).onlyReads.trans (State.freshFree_onlyReads _)).trans
    (OnlyLogs.onlyReads (State.engineAccess_onlyLogs _ _ _ _ _))

theorem State.millReads_taken : (s.millReads x).taken = s.taken := (s.millReads_onlyReads x).proj State.taken

/-- The codec table revision is the same once the mill has read (R159). -/
theorem State.millReads_codecRevision : (s.millReads x).codecRevision = s.codecRevision := by
  have hreg : (s.millReads x).reg Reg.GLB_DCLASS = s.reg Reg.GLB_DCLASS :=
    (State.engineAccess_reg _ (by decide) _ _ _ _).trans (s.engineAccess_reg (by decide) _ _ _ _)
  rw [State.codecRevision, State.codecRevision, hreg]

end

theorem State.millRunning_takenAt {s : State} {c : CoreId} {tk : Ticket} {op : Nat} {x : Taken} (h : s.millRunning c tk op = some x) :
    s.takenAt c tk = some x := by
  unfold State.millRunning at h
  split at h
  next y hy =>
    split at h
    · exact h ▸ hy
    · cases h
  · cases h

/-- DECODE and PROBE run their mill. -/
theorem exec_millRun {c : CoreId} {tk : Ticket} {s : State} {x : Taken} {probe : Bool}
    (hx : s.millRunning c tk (if probe then 2 else 1) = some x) (hruns : s.engineRuns x.cls = true) :
    exec (if probe then .probe c tk else .decode c tk) s = .next (s.millRun x probe) := by
  cases probe with
  | true =>
    change s.millRunning c tk 2 = some x at hx
    change execProbe c tk s = _
    simp only [execProbe, hx, hruns, if_true]
  | false =>
    change s.millRunning c tk 1 = some x at hx
    change execDecode c tk s = _
    simp only [execDecode, hx, hruns, if_true]

/-! ## The branches of a mill's run -/

section
variable {s : State} {x : Taken}

/-- A refused descriptor ends with its code (R157). -/
theorem State.millRun_refused {code : Nat} (hcode : s.millRefuses x = some code) (probe : Bool) :
    s.millRun x probe = ((s.engineAccess x.cls false (x.fieldAt 0x10 8) 64).count unitMIL 0 1).finish x code 0 [] := by
  simp only [State.millRefuses, State.millItem] at hcode
  simp only [State.millRun, State.engineAccess_part, hcode]

/-- The run of a descriptor that the mill takes, whose item brings no damage of its own (R157, R168 to R173). -/
theorem State.millRun_accepted (htakes : s.millRefuses x = none) (hitem : itemDamage (s.millItem x) = none) (probe : Bool) :
    s.millRun x probe =
      if s.millWrongKind x then ((s.millReads x).count unitMIL 0 1).finish x stBAD_FORMAT 0 []
      else (s.millHeaderDamage x).elim
        (if probe then (s.millReads x).endMill x (s.millItem x) (s.millProbed x) []
          else (s.millReads x).millDecode x (s.millItem x) (s.millHeaders x) (s.millConceals x) (s.millSource x) (s.millLane x))
        (fun d => (s.millReads x).millWhole x (s.millItem x) (s.millHeaders x) (s.millConceals x) (s.limitsOf x.cls x.ring) d probe
          (s.millLane x)) := by
  simp only [State.millRefuses, State.millItem] at htakes hitem
  simp only [State.millRun, State.engineAccess_part, State.engineAccess_dramBytes, State.freshFree_dramBytes,
    State.engineAccess_limitsOf, htakes, hitem]
  generalize hg : s.millHeaderDamage x = d
  simp only [State.millHeaderDamage, State.millHeaders, State.millItem, State.millSource] at hg
  simp only [hg]
  cases d <;> rfl

end

/-! ## The record and the descriptor's end (R177) -/

theorem Wort.record_length (w : Wort) (i : ItemView) (x : Taken) (gtc : Nat) : (w.record i x gtc).length = 128 := by
  unfold Wort.record
  extract_lets d
  simp only [List.length_append, leBytes_length, zeros, List.length_replicate]

theorem Wort.leAt_record_gsid (w : Wort) (i : ItemView) (x : Taken) (gtc : Nat) : leAt (w.record i x gtc) 0 6 = i.gsid % 2 ^ 48 := by
  unfold Wort.record
  extract_lets d
  simp only [List.append_assoc]
  exact (leAt_append_leBytes [] _ 6 i.gsid).trans (by norm_num)

theorem Wort.leAt_record_status (w : Wort) (i : ItemView) (x : Taken) (gtc : Nat) : leAt (w.record i x gtc) 6 1 = w.status % 256 := by
  unfold Wort.record
  extract_lets d
  simp only [List.append_assoc]
  exact (leAt_append_leBytes (leBytes 6 i.gsid) _ 1 w.status).trans (by rw [pow_one])

/-- The record's write, the counters of R180 and R181, and the end of the descriptor. -/
theorem State.endMill_finishes (s : State) (x : Taken) (i : ItemView) (w : Wort) (o : List (Nat × Nat)) : ∃ t detail,
    OnlyLogs (s.writeDram (x.fieldAt 0x38 8) (w.record i x s.gtc.toNat)) t ∧ s.endMill x i w o = t.finish x w.status detail o := by
  unfold State.endMill
  extract_lets d s1 s2 s3 s4
  have h1 : OnlyLogs (s.writeDram (x.fieldAt 0x38 8) (w.record i x s.gtc.toNat)) s1 := s.engineWrite_onlyLogs _ _ _
  have h2 : OnlyLogs s1 s2 := s1.count_onlyLogs unitMIL 0 1
  have h3 : OnlyLogs s2 s3 :=
    OnlyLogs.ite ((s2.errAdd_onlyLogs _ 1).trans (State.count_onlyLogs _ unitMIL 5 _))
      (OnlyLogs.ite (s2.errAdd_onlyLogs _ 1) (OnlyLogs.refl s2))
  have h4 : OnlyLogs s3 s4 := OnlyLogs.ite (s3.errAdd_onlyLogs _ 1) (OnlyLogs.ite (s3.errAdd_onlyLogs _ 1) (OnlyLogs.refl s3))
  exact ⟨s4, _, ((h1.trans h2).trans h3).trans h4, rfl⟩

/-- What the end of a mill's descriptor leaves of DRAM: the record is written. -/
theorem State.endMill_dram (s : State) (x : Taken) (i : ItemView) (w : Wort) (o : List (Nat × Nat)) :
    (s.endMill x i w o).dram = Mem.store s.dram (x.fieldAt 0x38 8) (w.record i x s.gtc.toNat) := by
  obtain ⟨t, detail, ht, hend⟩ := s.endMill_finishes x i w o
  rw [hend, State.finish_dram, ht.dram, State.writeDram_dram]

/-- Outside its record the end of a mill's descriptor leaves DRAM. -/
theorem State.endMill_get (s : State) (x : Taken) (i : ItemView) (w : Wort) (o : List (Nat × Nat)) {a : Nat}
    (ha : a < x.fieldAt 0x38 8 ∨ x.fieldAt 0x38 8 + 128 ≤ a) : Mem.get (s.endMill x i w o).dram a = Mem.get s.dram a := by
  rw [State.endMill_dram, Mem.get_store, w.record_length, if_neg (by omega)]

/-- From `s`, the mill ended the descriptor `x` with a status in `t`, and its record shows the item's GSID and the status. -/
structure MillRecorded (s t : State) (c : CoreId) (tk : Ticket) (x : Taken) (i : ItemView) (status : Nat) : Prop where
  ended : Ended t c tk status
  rings : t.rings = s.rings
  gsid : Mem.readLe t.dram (x.fieldAt 0x38 8) 6 = i.gsid % 2 ^ 48
  status : Mem.readLe t.dram (x.fieldAt 0x38 8 + 6) 1 = status % 256

/-- `t` is the end of a mill's descriptor from a state with the descriptors and rings of `s`, with a status that meets `p`. -/
def MillEnds (s t : State) (x : Taken) (i : ItemView) (p : Nat → Prop) : Prop :=
  ∃ (u : State) (w : Wort) (o : List (Nat × Nat)), u.taken = s.taken ∧ u.rings = s.rings ∧ t = u.endMill x i w o ∧ p w.status

section
variable {s t : State} {c : CoreId} {tk : Ticket} {x : Taken} {i : ItemView}

/-- The end of a mill's descriptor from a state with the descriptors and rings of `s`. -/
theorem State.endMill_recorded (hx : s.takenAt c tk = some x) (htaken : t.taken = s.taken) (hrings : t.rings = s.rings) (w : Wort)
    (o : List (Nat × Nat)) : MillRecorded s (t.endMill x i w o) c tk x i w.status where
  ended := by
    obtain ⟨u, detail, hu, hend⟩ := t.endMill_finishes x i w o
    have hu : u.taken = s.taken := (hu.taken.trans (State.writeDram_taken _ _ _)).trans htaken
    exact hend ▸ ⟨detail, State.finish_endedWith hx hu _ _ _⟩
  rings := by
    obtain ⟨u, detail, hu, hend⟩ := t.endMill_finishes x i w o
    rw [hend, State.finish_rings, hu.rings, State.writeDram_rings, hrings]
  gsid := by
    have h := Mem.readLe_store t.dram (x.fieldAt 0x38 8) 0 6 (le_of_le_of_eq (by decide) (w.record_length i x t.gtc.toNat).symm)
    rwa [Nat.add_zero, w.leAt_record_gsid, ← State.endMill_dram] at h
  status := by
    have h := Mem.readLe_store t.dram (x.fieldAt 0x38 8) 6 1 (le_of_le_of_eq (by decide) (w.record_length i x t.gtc.toNat).symm)
    rwa [w.leAt_record_status, ← State.endMill_dram] at h

theorem MillEnds.recorded {u : State} {p : Nat → Prop} (h : MillEnds t u x i p) (hx : s.takenAt c tk = some x)
    (htaken : t.taken = s.taken) (hrings : t.rings = s.rings) : ∃ status, MillRecorded s u c tk x i status ∧ p status := by
  obtain ⟨v, w, o, hv, hvr, rfl, hp⟩ := h
  exact ⟨_, State.endMill_recorded hx (hv.trans htaken) (hvr.trans hrings) w o, hp⟩

/-- Whole damage ends with a record of its status (R173, R176). -/
theorem State.millWhole_ends (s : State) (x : Taken) (i : ItemView) (h : Headers) (conceal : Bool) (l : RingLimits) (d : Damage)
    (probe : Bool) (lanes : Nat) : MillEnds s (s.millWhole x i h conceal l d probe lanes) x i (· = wortStatus conceal (some d)) := by
  unfold State.millWhole
  extract_lets f status
  split
  · split
    exact ⟨_, _, _, s.engineWrite_taken _ _ _, s.engineWrite_rings _ _ _, rfl, rfl⟩
  · exact ⟨s, _, _, rfl, rfl, rfl, rfl⟩

end

/-! ## The decode once the headers pass (R160, R171 to R175) -/

section
variable (s : State) (x : Taken) (i : ItemView) (h : Headers) (conceal : Bool) (src : List Byte) (lane : Nat)

/-- Output that OUT_LEN does not hold is not begun (R160). -/
theorem State.millDecode_overflows
    (hlen : x.fieldAt 0x30 4 < outBytes (x.fieldAt 0x34 1) h i (if x.cls = 4 then reduction h (x.fieldAt 0x35 1 % 16) else 0)) :
    ∃ w : Wort, w.status = stOVERFLOW ∧ s.millDecode x i h conceal src lane = s.endMill x i w [] :=
  ⟨_, rfl, if_pos hlen⟩

/-- A decode whose output fits ends with a record: OK where the item is sound and the stream is. -/
theorem State.millDecode_ends
    (hlen : outBytes (x.fieldAt 0x34 1) h i (if x.cls = 4 then reduction h (x.fieldAt 0x35 1 % 16) else 0) ≤ x.fieldAt 0x30 4) :
    MillEnds s (s.millDecode x i h conceal src lane) x i fun status => i.status = stOK →
      (streamDecode i.codec s.codecRevision (if x.cls = 4 then reduction h (x.fieldAt 0x35 1 % 16) else 0) i.dim0 src).damage = none →
      status = stOK := by
  unfold State.millDecode
  extract_lets f reduce r image w ht base base1 d cfg damage status comps bytes status1
  have hsound : i.status = stOK → d.damage = none → status = stOK := fun hi hd => by
    simp only [status, damage, hd, hi]
    rfl
  rw [if_neg hlen.not_gt]
  split
  next used cuts _ =>
    extract_lets lanes base2
    split
    next draw t ht =>
      extract_lets t1 t2 t3
      obtain ⟨htaken, hrings⟩ : t.taken = s.taken ∧ t.rings = s.rings := by
        cases ht
        exact ⟨rfl, rfl⟩
      have h1 : OnlyLogs t t1 := (State.count_onlyLogs _ unitMIL 3 src.length).trans (State.count_onlyLogs _ unitMIL 4 _)
      have h2 : OnlyLogs t t2 := h1.trans (OnlyLogs.ite (t1.count_onlyLogs _ _ _) (t1.count_onlyLogs _ _ _))
      split
      next hdmg => exact ⟨t1, _, _, h1.taken.trans htaken, h1.rings.trans hrings, rfl, hsound⟩
      next =>
        refine ⟨t3, _, _, (State.engineWrite_taken _ _ _ _).trans (h2.taken.trans htaken),
          (State.engineWrite_rings _ _ _ _).trans (h2.rings.trans hrings), rfl, fun hi hd => ?_⟩
        exact (if_neg (by rw [hi]; exact fun e => absurd e.2 (by decide))).trans (hsound hi hd)

end

/-! ## How a run ends -/

/-- Output bytes that the descriptor's format needs (R160). -/
def State.millOutBytes (s : State) (x : Taken) : Nat :=
  outBytes (x.fieldAt 0x34 1) (s.millHeaders x) (s.millItem x) (s.millLevels x)

/-- The stream's decode. -/
def State.millDecoded (s : State) (x : Taken) : Decoded :=
  streamDecode (s.millItem x).codec s.codecRevision (s.millLevels x) (s.millItem x).dim0 (s.millSource x)

/-- What DRAM holds outside the record is as it was. -/
def OnlyRecord (s t : State) (x : Taken) : Prop :=
  ∀ a, a < x.fieldAt 0x38 8 ∨ x.fieldAt 0x38 8 + 128 ≤ a → Mem.get t.dram a = Mem.get s.dram a

theorem State.millReads_endMill_onlyRecord (s : State) (x : Taken) (i : ItemView) (w : Wort) (o : List (Nat × Nat)) :
    OnlyRecord s ((s.millReads x).endMill x i w o) x := fun _ ha => by
  rw [State.endMill_get _ _ _ _ _ ha, (s.millReads_onlyReads x).dram]

section
variable {c : CoreId} {tk : Ticket} {s : State} {x : Taken} (hx : s.takenAt c tk = some x) (htakes : s.millRefuses x = none)
  (hitem : itemDamage (s.millItem x) = none)
include hx htakes hitem

/-- B1 meets an image of another kind: BAD_FORMAT, and no record (R157, R158). -/
theorem State.millRun_badFormat (hkind : s.millWrongKind x = true) (probe : Bool) :
    Ended (s.millRun x probe) c tk stBAD_FORMAT ∧ (s.millRun x probe).rings = s.rings := by
  have hlogs := (s.millReads x).count_onlyLogs unitMIL 0 1
  rw [State.millRun_accepted htakes hitem, if_pos hkind, State.finish_rings, hlogs.rings, (s.millReads_onlyReads x).rings]
  exact ⟨⟨_, State.finish_endedWith hx (hlogs.taken.trans (s.millReads_taken x)) _ _ _⟩, rfl⟩

variable (hkind : ¬ s.millWrongKind x = true)
include hkind

theorem State.millRun_headerDamage {d : Damage} (hd : s.millHeaderDamage x = some d) (probe : Bool) :
    ∃ status, MillRecorded s (s.millRun x probe) c tk x (s.millItem x) status := by
  rw [State.millRun_accepted htakes hitem, if_neg hkind, hd]
  obtain ⟨status, h, -⟩ := (State.millWhole_ends _ _ _ _ _ _ _ _ _).recorded hx (s.millReads_taken x) (s.millReads_onlyReads x).rings
  exact ⟨status, h⟩

variable (hd : s.millHeaderDamage x = none)
include hd

/-- A PROBE of a sound item whose headers pass writes its record alone (R156). -/
theorem State.millRun_probe (hok : (s.millItem x).status = stOK) :
    MillRecorded s (s.millRun x true) c tk x (s.millItem x) stOK ∧ OnlyRecord s (s.millRun x true) x := by
  rw [State.millRun_accepted htakes hitem, if_neg hkind, hd, ← s.millProbed_status x hok]
  exact ⟨State.endMill_recorded hx (s.millReads_taken x) (s.millReads_onlyReads x).rings _ _, s.millReads_endMill_onlyRecord _ _ _ _⟩

/-- A DECODE whose output does not fit writes its record alone (R160). -/
theorem State.millRun_overflow (hlen : x.fieldAt 0x30 4 < s.millOutBytes x) :
    MillRecorded s (s.millRun x false) c tk x (s.millItem x) stOVERFLOW ∧ OnlyRecord s (s.millRun x false) x := by
  obtain ⟨w, hw, hend⟩ := (s.millReads x).millDecode_overflows x (s.millItem x) (s.millHeaders x) (s.millConceals x) (s.millSource x)
    (s.millLane x) hlen
  have hrun : s.millRun x false = (s.millReads x).endMill x (s.millItem x) w [] := by
    rw [State.millRun_accepted htakes hitem, if_neg hkind, hd, ← hend]
    rfl
  rw [hrun, ← hw]
  exact ⟨State.endMill_recorded hx (s.millReads_taken x) (s.millReads_onlyReads x).rings _ _, s.millReads_endMill_onlyRecord _ _ _ _⟩

/-- A DECODE whose output fits ends with its record, and with OK where item and stream are sound (R171 to R173). -/
theorem State.millRun_decode (hok : (s.millItem x).status = stOK) (hlen : s.millOutBytes x ≤ x.fieldAt 0x30 4) :
    ∃ status, MillRecorded s (s.millRun x false) c tk x (s.millItem x) status ∧
      ((s.millDecoded x).damage = none → status = stOK) := by
  have hends := (s.millReads x).millDecode_ends x (s.millItem x) (s.millHeaders x) (s.millConceals x) (s.millSource x) (s.millLane x) hlen
  rw [State.millReads_codecRevision] at hends
  rw [State.millRun_accepted htakes hitem, if_neg hkind, hd]
  obtain ⟨status, hrec, hsound⟩ := hends.recorded hx (s.millReads_taken x) (s.millReads_onlyReads x).rings
  exact ⟨status, hrec, hsound hok⟩

end

/-- A descriptor that the mill takes ends with a record, whose status is what R156 and R160 say where the headers pass. -/
theorem State.millRun_recorded {c : CoreId} {tk : Ticket} {s : State} {x : Taken} (hx : s.takenAt c tk = some x)
    (htakes : s.millRefuses x = none) (hitem : itemDamage (s.millItem x) = none) (hkind : ¬ s.millWrongKind x = true)
    (hok : (s.millItem x).status = stOK) (probe : Bool) :
    ∃ status, MillRecorded s (s.millRun x probe) c tk x (s.millItem x) status ∧ (s.millHeaderDamage x = none →
      (probe = true → status = stOK ∧ OnlyRecord s (s.millRun x probe) x) ∧
      (probe = false → x.fieldAt 0x30 4 < s.millOutBytes x → status = stOVERFLOW ∧ OnlyRecord s (s.millRun x probe) x) ∧
      (probe = false → s.millOutBytes x ≤ x.fieldAt 0x30 4 → (s.millDecoded x).damage = none → status = stOK)) := by
  cases hd : s.millHeaderDamage x with
  | some d =>
    obtain ⟨status, hrec⟩ := State.millRun_headerDamage hx htakes hitem hkind hd probe
    exact ⟨status, hrec, (nomatch ·)⟩
  | none =>
    cases probe with
    | true =>
      obtain ⟨hrec, honly⟩ := State.millRun_probe hx htakes hitem hkind hd hok
      exact ⟨stOK, hrec, fun _ => ⟨fun _ => ⟨rfl, honly⟩, (nomatch ·), (nomatch ·)⟩⟩
    | false =>
      rcases lt_or_ge (x.fieldAt 0x30 4) (s.millOutBytes x) with hlen | hlen
      · obtain ⟨hrec, honly⟩ := State.millRun_overflow hx htakes hitem hkind hd hlen
        exact ⟨stOVERFLOW, hrec, fun _ => ⟨(nomatch ·), fun _ _ => ⟨rfl, honly⟩, fun _ h => absurd h hlen.not_ge⟩⟩
      · obtain ⟨status, hrec, hsound⟩ := State.millRun_decode hx htakes hitem hkind hd hok hlen
        exact ⟨status, hrec, fun _ => ⟨(nomatch ·), fun _ h => absurd hlen (not_le_of_gt h), fun _ _ => hsound⟩⟩

/-! ## The statement -/

/-- Settles O24: a refused descriptor by `millRun_refused`, one that its mill takes by `millRun_badFormat` and `millRun_recorded`. -/
theorem mills : Obligations.Mills := by
  unfold Obligations.Mills
  refine ⟨fun c tk s x probe i hx hruns hi htakes hitem hok => ?_, fun c tk s x code hx hruns hcode => ?_⟩
  · subst hi
    have hexec := exec_millRun hx hruns
    have hx := State.millRunning_takenAt hx
    have hcores := s.millRun_cores x probe
    by_cases hkind : s.millWrongKind x = true
    · obtain ⟨hend, hrings⟩ := State.millRun_badFormat hx htakes hitem hkind probe
      refine ⟨_, stBAD_FORMAT, hexec, hend, hrings, hcores, ?_⟩
      rintro src h rfl rfl other
      have hother : other := (s.millWrongKind_iff x).1 hkind
      exact ⟨fun _ => rfl, fun hno => absurd hother hno, fun hno => absurd hother hno⟩
    · obtain ⟨status, hrec, hpass⟩ := State.millRun_recorded hx htakes hitem hkind hok probe
      refine ⟨_, status, hexec, hrec.ended, hrec.rings, hcores, ?_⟩
      rintro src h rfl rfl other
      have hother : ¬ other := mt (s.millWrongKind_iff x).2 hkind
      exact ⟨fun hno => absurd hno hother, fun _ => ⟨hrec.gsid, hrec.status⟩, fun _ hd => hpass hd⟩
  · have hexec : exec (.decode c tk) s = .next (s.millRun x false) := exec_millRun (probe := false) hx hruns
    rw [State.millRun_refused hcode] at hexec
    have hlogs := (s.engineAccess_onlyLogs x.cls false (x.fieldAt 0x10 8) 64).trans (State.count_onlyLogs _ unitMIL 0 1)
    exact ⟨_, hexec, State.finish_endedWith (State.millRunning_takenAt hx) hlogs.taken _ _ _, hlogs.dram⟩

end Sys2Proof.Machine

/-!
SUPPORT. The kiln's streams: how a DECOMPRESS and a COMPRESS end, and what their end writes (R188 to R200).
-/

namespace Sys2Proof.Machine

/-! ## Bytes in memory -/

theorem Mem.get_store_getD (m : Mem) (a : Nat) {bs : List Byte} {k : Nat} (hk : k < bs.length) :
    Mem.get (Mem.store m a bs) (a + k) = bs.getD k 0 := by
  rw [Mem.get_store, if_pos (by omega), Nat.add_sub_cancel_left, nth]

theorem Mem.get_store_outside (m : Mem) {a b : Nat} {bs : List Byte} (hb : b < a ∨ a + bs.length ≤ b) :
    Mem.get (Mem.store m a bs) b = Mem.get m b := by
  rw [Mem.get_store, if_neg (by omega)]

theorem Mem.bytes_length (m : Mem) (a n : Nat) : (Mem.bytes m a n).length = n := by simp [Mem.bytes]

theorem Mem.bytes_getD (m : Mem) (a : Nat) {n k : Nat} (hk : k < n) : (Mem.bytes m a n).getD k 0 = Mem.get m (a + k) := by
  simp [Mem.bytes, hk]

theorem Mem.sliceOf_bytes (m : Mem) (a : Nat) {off n k : Nat} (h : off + n ≤ k) :
    sliceOf off n (Mem.bytes m a k) = Mem.bytes m (a + off) n := by
  refine List.ext_getElem (by simp [sliceOf, Mem.bytes]; omega) fun i _ _ => ?_
  simp [sliceOf, Mem.bytes, Nat.add_assoc]

/-! ## The end of a job (R188, R198 to R200, R204) -/

/-- `t` is `s` but for the tracking records, the media, DRAM and what logging touches. -/
def OnlyTracks (s t : State) : Prop := OnlyStages s { t with fetch := s.fetch }

theorem OnlyTracks.refl (s : State) : OnlyTracks s s := rfl

theorem OnlyTracks.trans {s t u : State} (h : OnlyTracks s t) (g : OnlyTracks t u) : OnlyTracks s u := by
  unfold OnlyTracks OnlyStages OnlyReads OnlyLogs at *
  rw [← h, ← g]

theorem OnlyTracks.ite {s a b : State} {c : Prop} [Decidable c] (ha : OnlyTracks s a) (hb : OnlyTracks s b) :
    OnlyTracks s (if c then a else b) := by
  split
  · exact ha
  · exact hb

theorem OnlyStages.onlyTracks {s t : State} (h : OnlyStages s t) : OnlyTracks s t := by
  unfold OnlyTracks OnlyStages OnlyReads OnlyLogs at *
  rw [← h]

theorem OnlyTracks.taken {s t : State} (h : OnlyTracks s t) : t.taken = s.taken := OnlyStages.taken (t := { t with fetch := s.fetch }) h
theorem OnlyTracks.rings {s t : State} (h : OnlyTracks s t) : t.rings = s.rings := OnlyStages.rings (t := { t with fetch := s.fetch }) h

theorem OnlyLogs.onlyTracks {s t : State} (h : OnlyLogs s t) : OnlyTracks s t := h.onlyReads.onlyStages.onlyTracks

theorem State.engineWrite_onlyTracks (s : State) (cls a : Nat) (bs : List Byte) : OnlyTracks s (s.engineWrite cls a bs) :=
  (s.engineWrite_onlyStages cls a bs).onlyTracks

theorem State.freshFree_onlyTracks (s : State) : OnlyTracks s s.freshFree.2 := s.freshFree_onlyReads.onlyStages.onlyTracks

theorem State.setOutcome_onlyTracks (s : State) (grist : Nat) (o : KilnOutcome) : OnlyTracks s (s.setOutcome grist o) := rfl

/-- The writes of a job's end, its outcome and counters, and the end of its descriptor. Without result record and context the output is all
that is written. -/
theorem State.endKiln_finishes (s : State) (x : Taken) (j : StreamJob) (item : Option FetchItem) (e : KilnEnd) : ∃ t,
    OnlyTracks s t ∧ (x.fieldAt 0x38 8 = 0 → x.ctx = 0 → t.dram = Mem.store s.dram (x.fieldAt 0x18 8) e.output) ∧
      s.endKiln x j item e = t.finish x e.status e.kind [(x.fieldAt 0x18 8, e.output.length)] := by
  unfold State.endKiln
  extract_lets dst s1 s2 s3 s4 s5 s6 s7 s8
  have h1 : OnlyLogs s s1 := s.engineAccess_onlyLogs _ _ _ _
  have h2 : OnlyTracks s s2 := h1.onlyTracks.trans (s1.engineWrite_onlyTracks _ _ _)
  have h3 : OnlyTracks s s3 := h2.trans (OnlyTracks.ite (OnlyTracks.refl s2) (s2.engineWrite_onlyTracks _ _ _))
  have h4 : OnlyTracks s s4 := h3.trans (OnlyTracks.ite (s3.engineWrite_onlyTracks _ _ _) (OnlyTracks.refl s3))
  obtain ⟨h5, hdram⟩ : OnlyTracks s4 s5 ∧ s5.dram = s4.dram := by
    cases item with
    | some i => exact ⟨s4.setOutcome_onlyTracks _ _, rfl⟩
    | none => exact ⟨OnlyTracks.refl s4, rfl⟩
  have h6 : OnlyLogs s5 s6 :=
    ((s5.count_onlyLogs unitKLN 0 1).trans (State.count_onlyLogs _ unitKLN 1 _)).trans (State.count_onlyLogs _ unitKLN 2 _)
  have h7 : OnlyLogs s6 s7 := OnlyLogs.ite (s6.count_onlyLogs _ _ _) (OnlyLogs.refl s6)
  have h8 : OnlyLogs s7 s8 := OnlyLogs.ite (s7.errAdd_onlyLogs _ _) (OnlyLogs.ite (s7.errAdd_onlyLogs _ _)
    (OnlyLogs.ite (s7.errAdd_onlyLogs _ _) (OnlyLogs.ite (s7.count_onlyLogs _ _ _) (OnlyLogs.refl s7))))
  have hlogs : OnlyLogs s5 s8 := (h6.trans h7).trans h8
  refine ⟨s8, (h4.trans h5).trans hlogs.onlyTracks, fun hresult hctx => ?_, rfl⟩
  have h43 : s4 = s3 := if_neg (by simp [hctx])
  have h32 : s3 = s2 := if_pos hresult
  rw [hlogs.dram, hdram, h43, h32, State.engineWrite_dram, h1.dram]

/-- From `s`, the kiln ended the job of the descriptor `x` as `e` in `t`. -/
structure KilnEnded (s t : State) (c : CoreId) (tk : Ticket) (x : Taken) (e : KilnEnd) : Prop where
  ended : Ended t c tk e.status
  rings : t.rings = s.rings
  cores : t.cores = s.cores
  dram : x.fieldAt 0x38 8 = 0 → x.ctx = 0 → t.dram = Mem.store s.dram (x.fieldAt 0x18 8) e.output

theorem State.endKiln_ended {s : State} {c : CoreId} {tk : Ticket} {x : Taken} (hx : s.takenAt c tk = some x) (j : StreamJob)
    (item : Option FetchItem) (e : KilnEnd) : KilnEnded s (s.endKiln x j item e) c tk x e := by
  obtain ⟨t, ht, hdram, hend⟩ := s.endKiln_finishes x j item e
  exact {
    ended := hend ▸ ⟨_, State.finish_endedWith hx ht.taken _ _ _⟩
    rings := by rw [hend, State.finish_rings, ht.rings]
    cores := s.endKiln_cores x j item e
    dram := fun hresult hctx => by rw [hend, State.finish_dram, hdram hresult hctx] }

/-- Without result record and context the output alone is written. -/
theorem KilnEnded.writes {s t : State} {c : CoreId} {tk : Ticket} {x : Taken} {e : KilnEnd} (h : KilnEnded s t c tk x e)
    (hresult : x.fieldAt 0x38 8 = 0) (hctx : x.ctx = 0) :
    (∀ k, k < e.output.length → Mem.get t.dram (x.fieldAt 0x18 8 + k) = e.output.getD k 0) ∧
      (∀ a, a < x.fieldAt 0x18 8 ∨ x.fieldAt 0x18 8 + e.output.length ≤ a → Mem.get t.dram a = Mem.get s.dram a) := by
  rw [h.dram hresult hctx]
  exact ⟨fun k hk => Mem.get_store_getD _ _ hk, fun a ha => Mem.get_store_outside _ ha⟩

/-- A refused descriptor ends with its code and writes nothing (R200). -/
theorem State.kilnRefuse_ends {s : State} {c : CoreId} {tk : Ticket} {x : Taken} (hx : s.takenAt c tk = some x) (code : Nat) :
    EndedWith (s.kilnRefuse x code) c tk code 0 ∧ (s.kilnRefuse x code).dram = s.dram :=
  have hlogs := s.count_onlyLogs unitKLN 0 1
  ⟨State.finish_endedWith hx hlogs.taken _ _ _, hlogs.dram⟩

/-! ## How an expansion ends (R191 to R193, R196) -/

section
variable {j : StreamJob} {l : RingLimits} {len dst n : Nat}

theorem limitKind_eq_none (hbytes : n ≤ l.bytes) (hratio : n ≤ l.ratio * len) : limitKind l len n = none := by
  rw [limitKind, if_neg hbytes.not_gt, if_neg hratio.not_gt]

/-- An undamaged expansion to the known size, within the limits and the output space, is whole. -/
theorem knownEnd_whole (hdamage : (expandTo j (some n)).damage = none) (hreached : (expandTo j (some n)).reached = n) (hdst : n ≤ dst)
    (hbytes : n ≤ l.bytes) (hratio : n ≤ l.ratio * len) (item : Bool) :
    (knownEnd j l len dst n item).status = stOK ∧ (knownEnd j l len dst n item).output = (expandTo j (some n)).blocks.flatten := by
  simp [knownEnd, limitKind_eq_none hbytes hratio, hdst.not_gt, hdamage, hreached]

variable {e : Expanded} (hdst : e.reached ≤ dst) (hbytes : e.reached ≤ l.bytes) (hratio : e.reached ≤ l.ratio * len)
include hdst hbytes hratio

/-- A sizing pass that ends undamaged within the limits and the output space leaves the whole output. -/
theorem sizedEnd_whole (hdamage : e.damage = none) :
    (sizedEnd j e l len dst).status = stOK ∧ (sizedEnd j e l len dst).output = e.blocks.flatten := by
  have hin : ¬ min (min l.bytes (l.ratio * len)) dst < e.reached := by omega
  simp only [sizedEnd, if_neg hin, hdamage, and_self]

/-- Damage that the sizing pass meets first leaves no output. -/
theorem sizedEnd_damaged (hdamage : e.damage.isSome = true) :
    (sizedEnd j e l len dst).status = stDAMAGED ∧ (sizedEnd j e l len dst).output = [] := by
  have hin : ¬ min (min l.bytes (l.ratio * len)) dst < e.reached := by omega
  obtain ⟨d, hd⟩ := Option.isSome_iff_exists.1 hdamage
  simp only [sizedEnd, if_neg hin, hd, bareEnd, and_self]

end

/-! ## DECOMPRESS -/

/-- How the expansion of a job ends, by its item's or its frames' declared size or by a sizing pass (R191). -/
def State.expandEnd (s : State) (x : Taken) (item : Option FetchItem) (format len dst : Nat) : KilnEnd :=
  let j := s.streamJob x format len
  match item.elim (expandTo j none).declared (some ·.expandedLen) with
  | some n => knownEnd j (s.limitsOf 2 x.ring) len dst n item.isSome
  | none => sizedEnd j (expandTo j none) (s.limitsOf 2 x.ring) len dst

section
variable {s : State} {x : Taken}

/-- A job that restores no context has no pending input. -/
theorem State.pendingOf_streamJob (hrestore : x.restore = false) (format len : Nat) : pendingOf (s.streamJob x format len) = some 0 := by
  simp [pendingOf, State.streamJob, hrestore]

/-- A job with a sound dictionary, which restores no context, is expanded. -/
theorem State.kilnExpand_ends {format : Nat} (hdict : x.badDict format = false) (hrestore : x.restore = false) (item : Option FetchItem)
    (len dst : Nat) :
    s.kilnExpand x item format len dst = s.endKiln x (s.streamJob x format len) item (s.expandEnd x item format len dst) := by
  simp only [State.kilnExpand, hdict, State.pendingOf_streamJob hrestore, State.expandEnd]
  cases item <;> rfl

variable (hlow : 1 ≤ x.fieldAt 0x2E 1 % 16) (hhigh : x.fieldAt 0x2E 1 % 16 ≤ 5) (hflush : x.flush = false) (hsum : x.checksum = false)
  (hlast : x.last = true → x.ctx ≠ 0)
include hlow hhigh hflush hsum hlast

/-- A listed format, without COMPRESS's options and with a context where LAST is set, is no BAD_FORMAT (R200). -/
theorem Taken.formatTaken (itemMode : Bool) : (decide (5 < x.fieldAt 0x2E 1 % 16) || (!itemMode && x.fieldAt 0x2E 1 % 16 == 0) || x.flush ||
    x.checksum || (x.last && x.ctx == 0)) = false := by
  have hctx : (x.last && x.ctx == 0) = false := by simpa using hlast
  have hzero : (x.fieldAt 0x2E 1 % 16 == 0) = false := beq_eq_false_iff_ne.2 (by omega)
  rw [decide_eq_false hhigh.not_gt, hzero, hflush, hsum, hctx, Bool.and_false]
  rfl

/-- A DECOMPRESS of a stated length expands its stream. -/
theorem State.kilnDecompress_stream (hlen : 0 < x.fieldAt 0x20 4) :
    s.kilnDecompress x = s.kilnExpand x none (x.fieldAt 0x2E 1 % 16) (x.fieldAt 0x20 4) (x.fieldAt 0x24 4) := by
  have hmode : (x.fieldAt 0x20 4 == 0) = false := beq_eq_false_iff_ne.2 hlen.ne'
  unfold State.kilnDecompress
  extract_lets format itemMode
  rw [if_neg (Bool.eq_false_iff.1 (Taken.formatTaken hlow hhigh hflush hsum hlast itemMode)), if_neg (Bool.eq_false_iff.1 hmode)]

/-- In item mode a live item that carries data and has the format named is expanded (R198). -/
theorem State.kilnDecompress_item {i : FetchItem} (hlen : x.fieldAt 0x20 4 = 0)
    (hitem : s.liveItem 2 x.ring (fun j => j.grist != 0 && j.grist == x.fieldAt 0x10 8) = some i)
    (hstatus : i.status = stOK ∨ i.status = stSUBSTITUTED) (hframe : i.frame = x.fieldAt 0x2E 1 % 16) :
    s.kilnDecompress x = s.kilnExpand x (some i) i.frame i.storedLen
      (if x.fieldAt 0x24 4 = 0 then alignUp i.expandedLen 64 else x.fieldAt 0x24 4) := by
  unfold State.kilnDecompress
  extract_lets format itemMode
  have hmode : itemMode = true := beq_iff_eq.2 hlen
  rw [if_neg (Bool.eq_false_iff.1 (Taken.formatTaken hlow hhigh hflush hsum hlast itemMode)), if_pos hmode, hitem]
  dsimp only
  rw [if_neg (fun h => hstatus.elim h.1 h.2), if_neg (by omega)]

end

section
variable {c : CoreId} {tk : Ticket} {s : State} {x : Taken} (hruns : s.engineRuns 2 = true)
include hruns

theorem execDecompress_runs (hx : s.running c tk 2 0x01 = some x) (hbehind : s.behindContext x = false) :
    exec (.decompress c tk) s = .next (s.kilnDecompress x) := by
  change execDecompress c tk s = _
  simp only [execDecompress, hx, hruns, hbehind]
  rfl

theorem execCompress_runs (hx : s.running c tk 2 0x02 = some x) (hbehind : s.behindContext x = false) (mismatch : Option Nat) :
    exec (.compress c tk mismatch) s = .next (s.kilnCompress x mismatch) := by
  change execCompress c tk mismatch s = _
  simp only [execCompress, hx, hruns, hbehind]
  rfl

theorem execGfCombine_runs (hx : s.running c tk 2 0x03 = some x) : exec (.gfCombine c tk) s = .next (s.gfCombine x) := by
  change execGfCombine c tk s = _
  simp only [execGfCombine, hx, hruns, if_true]

end

/-! ## COMPRESS (R190, R191, R194) -/

/-- The job of a COMPRESS. -/
def State.codedJob (s : State) (x : Taken) : StreamJob := s.streamJob x (x.fieldAt 0x2E 1 % 16) (x.fieldAt 0x20 4)

/-- What a COMPRESS codes. -/
def State.coded (s : State) (x : Taken) : Compressed := Config.compress (s.codedJob x)

/-- A COMPRESS with room for its bound, a sound dictionary and no context to restore ends with NOT_SMALLER or its output. -/
theorem State.kilnCompress_ends {s : State} {x : Taken} (hlow : 1 ≤ x.fieldAt 0x2E 1 % 16) (hhigh : x.fieldAt 0x2E 1 % 16 ≤ 5)
    (hlast : x.last = true → x.ctx ≠ 0) (hdict : x.badDict (x.fieldAt 0x2E 1 % 16) = false) (hrestore : x.restore = false)
    (hroom : (if x.ctx = 0 then x.fieldAt 0x20 4 else x.fieldAt 0x20 4 + 4096) ≤ x.fieldAt 0x24 4) :
    s.kilnCompress x none =
      if x.ctx = 0 ∧ x.fieldAt 0x20 4 ≤ (s.coded x).output.length then
        (s.freshFree.2.engineWrite 2 (x.fieldAt 0x18 8) ((List.range (x.fieldAt 0x20 4)).map (Config.rawByte s.freshFree.1))).endKiln x
          (s.codedJob x) none (bareEnd stNOT_SMALLER 0 0 (s.coded x).consumed false)
      else s.endKiln x (s.codedJob x) none
        ⟨stOK, (s.coded x).output.take (x.fieldAt 0x24 4), (s.coded x).consumed, 0, (s.coded x).check, 0, false⟩ := by
  have hctx : ¬ (x.last && x.ctx == 0) = true := by simpa using hlast
  have hformat : ¬ (x.fieldAt 0x2E 1 % 16 = 0 ∨ 5 < x.fieldAt 0x2E 1 % 16 ∨ (x.last && x.ctx == 0) = true) :=
    not_or.2 ⟨by omega, not_or.2 ⟨hhigh.not_gt, hctx⟩⟩
  unfold State.kilnCompress
  extract_lets format len dst j
  have hpending : pendingOf j = some 0 := State.pendingOf_streamJob hrestore _ _
  have hbound : ¬ dst < (if j.oneShot = true then len else len + 0 + 4096) := by
    simpa [dst, len, j, State.streamJob] using hroom
  rw [if_neg hformat, if_neg (Bool.eq_false_iff.1 hdict), hpending]
  dsimp only
  rw [if_neg hbound]
  have hgrows : (x.ctx == 0 && decide (x.fieldAt 0x20 4 ≤ (s.coded x).output.length)) = true ↔
      x.ctx = 0 ∧ x.fieldAt 0x20 4 ≤ (s.coded x).output.length := by simp
  exact if_congr hgrows rfl rfl

/-- A one-shot that does not shrink ends with NOT_SMALLER, any other COMPRESS with OK and its output. -/
theorem State.kilnCompress_ended {c : CoreId} {tk : Ticket} {s : State} {x : Taken} (hx : s.takenAt c tk = some x)
    (hlow : 1 ≤ x.fieldAt 0x2E 1 % 16) (hhigh : x.fieldAt 0x2E 1 % 16 ≤ 5) (hlast : x.last = true → x.ctx ≠ 0)
    (hdict : x.badDict (x.fieldAt 0x2E 1 % 16) = false) (hrestore : x.restore = false)
    (hroom : (if x.ctx = 0 then x.fieldAt 0x20 4 else x.fieldAt 0x20 4 + 4096) ≤ x.fieldAt 0x24 4) : ∃ st,
    Ended (s.kilnCompress x none) c tk st ∧ (s.kilnCompress x none).rings = s.rings ∧
      (x.ctx = 0 → x.fieldAt 0x20 4 ≤ (s.coded x).output.length → st = stNOT_SMALLER) ∧
      (x.ctx ≠ 0 ∨ (s.coded x).output.length < x.fieldAt 0x20 4 → st = stOK ∧ (x.fieldAt 0x38 8 = 0 → x.ctx = 0 →
        ∀ k, k < (s.coded x).output.length →
          Mem.get (s.kilnCompress x none).dram (x.fieldAt 0x18 8 + k) = (s.coded x).output.getD k 0)) := by
  rw [State.kilnCompress_ends hlow hhigh hlast hdict hrestore hroom]
  by_cases hgrows : x.ctx = 0 ∧ x.fieldAt 0x20 4 ≤ (s.coded x).output.length
  · rw [if_pos hgrows]
    have hfrom := s.freshFree_onlyTracks.trans (s.freshFree.2.engineWrite_onlyTracks 2 (x.fieldAt 0x18 8)
      ((List.range (x.fieldAt 0x20 4)).map (Config.rawByte s.freshFree.1)))
    have hend := State.endKiln_ended ((State.takenAt_of_taken hfrom.taken c tk).trans hx) (s.codedJob x) none
      (bareEnd stNOT_SMALLER 0 0 (s.coded x).consumed false)
    exact ⟨stNOT_SMALLER, hend.ended, hend.rings.trans hfrom.rings, fun _ _ => rfl,
      fun h => (h.elim (· hgrows.1) (·.not_ge hgrows.2)).elim⟩
  · rw [if_neg hgrows]
    have hend := State.endKiln_ended hx (s.codedJob x) none
      ⟨stOK, (s.coded x).output.take (x.fieldAt 0x24 4), (s.coded x).consumed, 0, (s.coded x).check, 0, false⟩
    refine ⟨stOK, hend.ended, hend.rings, fun hctx hlen => (hgrows ⟨hctx, hlen⟩).elim, fun _ => ⟨rfl, fun hresult hctx => ?_⟩⟩
    rw [if_pos hctx] at hroom
    have hwhole : (s.coded x).output.take (x.fieldAt 0x24 4) = (s.coded x).output :=
      List.take_of_length_le (le_trans (not_le.1 fun h => hgrows ⟨hctx, h⟩).le hroom)
    have hwrites := (hend.writes hresult hctx).1
    dsimp only at hwrites
    rwa [hwhole] at hwrites ⊢

end Sys2Proof.Machine

/-!
SUPPORT. GF_COMBINE: a row's sum byte by byte, and the shares in memory once every row is written (R201, R202).
-/

namespace Sys2Proof.Machine

/-! ## A row's sum (R201) -/

/-- Coefficients and shares combined onto a run of bytes. -/
def gfSum (terms : List (Byte × List Byte)) (acc : List Byte) : List Byte :=
  terms.foldl (fun acc e => List.zipWith (fun a b => a ^^^ gfMul e.1 b) acc e.2) acc

/-- Shares as long as the run leave its length, and each of its bytes gains the products of the bytes at its place. -/
theorem gfSum_spec {terms : List (Byte × List Byte)} {len : Nat} (hterms : ∀ e ∈ terms, e.2.length = len) {acc : List Byte}
    (hacc : acc.length = len) : (gfSum terms acc).length = len ∧ ∀ k, k < len →
      (gfSum terms acc).getD k 0 = (terms.map (fun e => gfMul e.1 (e.2.getD k 0))).foldl (fun u v => u ^^^ v) (acc.getD k 0) := by
  induction terms generalizing acc with
  | nil => exact ⟨hacc, fun k _ => rfl⟩
  | cons e terms ih =>
    obtain ⟨he, hterms⟩ := List.forall_mem_cons.1 hterms
    obtain ⟨hlen, hsum⟩ := ih hterms (acc := List.zipWith (fun a b => a ^^^ gfMul e.1 b) acc e.2) (by simp [hacc, he])
    refine ⟨hlen, fun k hk => (hsum k hk).trans ?_⟩
    have hbyte : (List.zipWith (fun a b => a ^^^ gfMul e.1 b) acc e.2).getD k 0 = acc.getD k 0 ^^^ gfMul e.1 (e.2.getD k 0) := by
      simp [hacc, he, hk]
    rw [hbyte]
    rfl

/-! ## The shares of a descriptor -/

section
variable (s : State) (x : Taken)

/-- The input and output shares' addresses. -/
def State.gfIns : List Nat := s.shareTable (x.fieldAt 0x10 8) x.gfIn
def State.gfOuts : List Nat := s.shareTable (x.fieldAt 0x18 8) x.gfOut

/-- The combination for output `j`. -/
def State.gfOutput (j : Nat) : List Byte :=
  gfRow (sliceOf (j * x.gfIn) x.gfIn (s.dramBytes (x.fieldAt 0x20 8) (x.gfIn * x.gfOut))) ((s.gfIns x).map (fun a => s.dramBytes a x.gfLen))
    x.gfLen

theorem State.gfIns_length : (s.gfIns x).length = x.gfIn := by simp [State.gfIns, State.shareTable]
theorem State.gfOuts_length : (s.gfOuts x).length = x.gfOut := by simp [State.gfOuts, State.shareTable]

/-- The coefficients of output `j`, each with its input share. -/
def State.gfTerms (j : Nat) : List (Byte × List Byte) :=
  (List.range x.gfIn).map (fun i =>
    (Mem.get s.dram (x.fieldAt 0x20 8 + j * x.gfIn + i), s.dramBytes ((s.gfIns x).getD i 0) x.gfLen))

/-- A combination is as long as a share. -/
theorem State.gfOutput_length (j : Nat) : (s.gfOutput x j).length = x.gfLen := by
  refine (gfSum_spec (fun e he => ?_) (by simp [zeros])).1
  obtain ⟨a, -, ha⟩ := List.mem_map.1 (List.of_mem_zip he).2
  rw [← ha, State.dramBytes, Mem.bytes_length]

theorem State.gfOutput_eq {j : Nat} (hj : j < x.gfOut) : s.gfOutput x j = gfSum (s.gfTerms x j) (zeros x.gfLen) := by
  have hslice : j * x.gfIn + x.gfIn ≤ x.gfIn * x.gfOut := by
    calc j * x.gfIn + x.gfIn = x.gfIn * (j + 1) := by ring
      _ ≤ x.gfIn * x.gfOut := Nat.mul_le_mul_left _ hj
  have hcoef : sliceOf (j * x.gfIn) x.gfIn (s.dramBytes (x.fieldAt 0x20 8) (x.gfIn * x.gfOut)) =
      (List.range x.gfIn).map (fun i => Mem.get s.dram (x.fieldAt 0x20 8 + j * x.gfIn + i)) := Mem.sliceOf_bytes _ _ hslice
  have hsrc : (s.gfIns x).map (fun a => s.dramBytes a x.gfLen) =
      (List.range x.gfIn).map (fun i => s.dramBytes ((s.gfIns x).getD i 0) x.gfLen) :=
    List.ext_getElem (by simp [State.gfIns_length]) fun i hi _ => by
      have hi : i < (s.gfIns x).length := by simpa using hi
      simp [hi]
  rw [State.gfOutput, hcoef, hsrc, gfRow, List.zip_map']
  rfl

/-- Each byte of a combination is the sum over GF(2^8) of the inputs' bytes times their coefficients (R201). -/
theorem State.gfOutput_getD {j k : Nat} (hj : j < x.gfOut) (hk : k < x.gfLen) :
    (s.gfOutput x j).getD k 0 = ((List.range x.gfIn).map (fun i =>
      gfMul (Mem.get s.dram (x.fieldAt 0x20 8 + j * x.gfIn + i)) (Mem.get s.dram ((s.gfIns x).getD i 0 + k)))).foldl
        (fun u v => u ^^^ v) 0 := by
  have hlen : ∀ e ∈ s.gfTerms x j, e.2.length = x.gfLen := by simp [State.gfTerms, State.dramBytes, Mem.bytes_length]
  have hzero : (zeros x.gfLen).getD k 0 = 0 := by simp [zeros, hk]
  rw [State.gfOutput_eq s x hj, (gfSum_spec hlen (by simp [zeros])).2 k hk, hzero]
  simp only [State.gfTerms, List.map_map, Function.comp_def, State.dramBytes, Mem.bytes_getD _ _ hk]

/-- What is written at an output share: where it overlaps an input, unspecified bytes (R202). -/
def State.gfShare (e : Nat × Nat) : List Byte :=
  (s.gfOutput x e.2).zipIdx.map (fun b =>
    if (s.gfIns x).any (fun i => decide (i ≤ e.1 + b.2 ∧ e.1 + b.2 < i + x.gfLen)) then Config.rawByte s.freshFree.1 (e.1 + b.2)
    else b.1)

theorem State.gfShare_length (e : Nat × Nat) : (s.gfShare x e).length = x.gfLen := by simp [State.gfShare, State.gfOutput_length]

/-- Apart from the inputs an output share takes its combination. -/
theorem State.gfShare_getD {e : Nat × Nat} (hapart : ∀ i ∈ s.gfIns x, i + x.gfLen ≤ e.1 ∨ e.1 + x.gfLen ≤ i) {k : Nat}
    (hk : k < x.gfLen) : (s.gfShare x e).getD k 0 = (s.gfOutput x e.2).getD k 0 := by
  have hout : ¬ (s.gfIns x).any (fun i => decide (i ≤ e.1 + k ∧ e.1 + k < i + x.gfLen)) = true := by
    rw [List.any_eq_true]
    rintro ⟨i, hi, hin⟩
    have := hapart i hi
    have := of_decide_eq_true hin
    omega
  have hrow : k < (s.gfOutput x e.2).length := (s.gfOutput_length x e.2).symm ▸ hk
  rw [List.getD_eq_getElem _ _ hrow, List.getD_eq_getElem _ _ ((s.gfShare_length x e).symm ▸ hk)]
  simp only [State.gfShare, List.getElem_map, List.getElem_zipIdx, Nat.zero_add, if_neg hout]

/-- The inputs read and every output share written. -/
def State.gfWrites : State :=
  (s.gfOuts x).zipIdx.foldl (fun t e => t.engineWrite 2 e.1 (s.gfShare x e))
    ((s.gfIns x).foldl (fun t a => t.engineAccess 2 false a x.gfLen) s.freshFree.2)

theorem State.gfReads_onlyReads : OnlyReads s ((s.gfIns x).foldl (fun t a => t.engineAccess 2 false a x.gfLen) s.freshFree.2) :=
  s.freshFree_onlyReads.trans (foldl_onlyLogs (fun t a => t.engineAccess_onlyLogs 2 false a x.gfLen) _ _).onlyReads

theorem State.gfWrites_taken : (s.gfWrites x).taken = s.taken :=
  (foldl_keeps State.taken (fun t _ _ => t.engineWrite_taken _ _ _) _).trans ((s.gfReads_onlyReads x).proj State.taken)

theorem State.gfWrites_rings : (s.gfWrites x).rings = s.rings :=
  (foldl_keeps State.rings (fun t _ _ => t.engineWrite_rings _ _ _) _).trans (s.gfReads_onlyReads x).rings

variable {s x}

/-- What lies in no output share stays. -/
theorem State.gfWrites_outside {a : Nat} (ha : ∀ b ∈ s.gfOuts x, a < b ∨ b + x.gfLen ≤ a) :
    Mem.get (s.gfWrites x).dram a = Mem.get s.dram a := by
  refine (foldl_keeps (fun t => Mem.get t.dram a) (fun t e he => ?_) _).trans (by rw [(s.gfReads_onlyReads x).dram])
  have hmem : e.1 ∈ s.gfOuts x := List.fst_mem_of_mem_zipIdx he
  exact (congrArg (Mem.get · a) (t.engineWrite_dram _ _ _)).trans
    (Mem.get_store_outside _ (by rw [State.gfShare_length]; exact ha _ hmem))

/-- Output shares that do not overlap each hold what was written there. -/
theorem State.gfWrites_share (hapart : (s.gfOuts x).Pairwise (fun a b => a + x.gfLen ≤ b ∨ b + x.gfLen ≤ a)) {j b k : Nat}
    (hb : (s.gfOuts x)[j]? = some b) (hk : k < x.gfLen) : Mem.get (s.gfWrites x).dram (b + k) = (s.gfShare x (b, j)).getD k 0 := by
  have hpairs : (s.gfOuts x).zipIdx.Pairwise (fun e g => e.1 + x.gfLen ≤ g.1 ∨ g.1 + x.gfLen ≤ e.1) :=
    List.pairwise_map.1 ((List.zipIdx_map_fst 0 (s.gfOuts x)).symm ▸ hapart)
  refine foldl_establishes (P := fun e t => Mem.get t.dram (e.1 + k) = (s.gfShare x e).getD k 0) (fun t e => ?_)
    (hpairs.imp fun {e g} hne t ht => ?_) _ _ (List.mk_mem_zipIdx_iff_getElem?.2 hb)
  · exact (congrArg (Mem.get · _) (t.engineWrite_dram _ _ _)).trans
      (Mem.get_store_getD _ _ ((s.gfShare_length x e).symm ▸ hk))
  · refine ((congrArg (Mem.get · _) (t.engineWrite_dram _ _ _)).trans (Mem.get_store_outside _ ?_)).trans ht
    rw [State.gfShare_length]
    omega

/-! ## How a GF_COMBINE ends (R202) -/

/-- A geometry outside R202 is refused; that it is checked before the windows is log entry 38. -/
theorem State.gfCombine_refused (hshape : x.gfShape = false) : s.gfCombine x = s.kilnRefuse x stBAD_GEOMETRY := by
  simp [State.gfCombine, hshape]

variable (hshape : x.gfShape = true) (hins : s.windowGrants 2 x.ring .load (x.fieldAt 0x10 8) (8 * x.gfIn) = true)
  (houts : s.windowGrants 2 x.ring .load (x.fieldAt 0x18 8) (8 * x.gfOut) = true)
  (hcoef : s.windowGrants 2 x.ring .load (x.fieldAt 0x20 8) (x.gfIn * x.gfOut) = true)
  (halign : ∀ a ∈ s.gfIns x ++ s.gfOuts x, a % 64 = 0)
  (hload : ∀ a ∈ s.gfIns x, s.windowGrants 2 x.ring .load a x.gfLen = true)
  (hstore : ∀ a ∈ s.gfOuts x, s.windowGrants 2 x.ring .store a x.gfLen = true)
include hshape hins houts hcoef halign hload hstore

/-- Within its windows a sound geometry has its output shares written. -/
theorem State.gfCombine_writes :
    s.gfCombine x = ((((s.gfWrites x).count unitKLN 0 1).count unitKLN 2 (x.gfOut * x.gfLen)).count unitKLN 4 (x.gfIn * x.gfLen)).finish x
      stOK 0 ((s.gfOuts x).map (fun a => (a, x.gfLen))) := by
  have haligned : (s.gfIns x ++ s.gfOuts x).any (fun a => a % 64 != 0) = false :=
    List.any_eq_false.2 fun a ha => by simp [halign a ha]
  have hgrants : ((s.gfIns x).all (fun a => s.windowGrants 2 x.ring .load a x.gfLen) &&
      (s.gfOuts x).all (fun a => s.windowGrants 2 x.ring .store a x.gfLen)) = true :=
    Bool.and_eq_true_iff.2 ⟨List.all_eq_true.2 hload, List.all_eq_true.2 hstore⟩
  simp only [State.gfIns, State.gfOuts] at haligned hgrants
  simp only [State.gfCombine, hshape, hins, houts, hcoef, haligned, hgrants]
  rfl

/-- A sound geometry within its windows ends with OK, and DRAM is as the writes of its output shares leave it. -/
theorem State.gfCombine_ends {c : CoreId} {tk : Ticket} (hx : s.takenAt c tk = some x) :
    EndedWith (s.gfCombine x) c tk stOK 0 ∧ (s.gfCombine x).rings = s.rings ∧ (s.gfCombine x).dram = (s.gfWrites x).dram := by
  have hlogs := (((s.gfWrites x).count_onlyLogs unitKLN 0 1).trans (State.count_onlyLogs _ unitKLN 2 (x.gfOut * x.gfLen))).trans
    (State.count_onlyLogs _ unitKLN 4 (x.gfIn * x.gfLen))
  rw [State.gfCombine_writes hshape hins houts hcoef halign hload hstore, State.finish_rings, State.finish_dram]
  exact ⟨State.finish_endedWith hx (hlogs.taken.trans (s.gfWrites_taken x)) _ _ _, hlogs.rings.trans (s.gfWrites_rings x), hlogs.dram⟩

end

end Sys2Proof.Machine

/-!
SUPPORT. The kiln's statement: DECOMPRESS of a stream and of an item, COMPRESS, and GF_COMBINE (R182 to R202).
-/

namespace Sys2Proof.Machine

section
variable {s : State} {x : Taken} {format len dst : Nat}

/-- A stream of known size, or one that its sizing pass finds whole, ends whole where limits and output space admit it. -/
theorem State.expandEnd_whole {d e : Expanded} {n : Nat} (hd : expandTo (s.streamJob x format len) none = d)
    (hdeclared : d.declared = some n ∨ d.declared = none)
    (hknown : d.declared = some n → expandTo (s.streamJob x format len) (some n) = e) (hsized : d.declared = none → d = e)
    (hdamage : e.damage = none) (hreached : e.reached = n) (hdst : n ≤ dst) (hbytes : n ≤ (s.limitsOf 2 x.ring).bytes)
    (hratio : n ≤ (s.limitsOf 2 x.ring).ratio * len) :
    (s.expandEnd x none format len dst).status = stOK ∧ (s.expandEnd x none format len dst).output = e.blocks.flatten := by
  subst hd
  unfold State.expandEnd
  rcases hdeclared with hn | hn
  · obtain rfl := hknown hn
    simp only [Option.elim_none, hn]
    exact knownEnd_whole hdamage hreached hdst hbytes hratio _
  · obtain rfl := hsized hn
    subst hreached
    simp only [Option.elim_none, hn]
    exact sizedEnd_whole hdst hbytes hratio hdamage

/-- A stream without declared size whose sizing pass meets damage first ends with it and without output. -/
theorem State.expandEnd_damaged {d : Expanded} (hd : expandTo (s.streamJob x format len) none = d) (hdeclared : d.declared = none)
    (hdamage : d.damage.isSome = true) (hdst : d.reached ≤ dst) (hbytes : d.reached ≤ (s.limitsOf 2 x.ring).bytes)
    (hratio : d.reached ≤ (s.limitsOf 2 x.ring).ratio * len) :
    (s.expandEnd x none format len dst).status = stDAMAGED ∧ (s.expandEnd x none format len dst).output = [] := by
  subst hd
  simp only [State.expandEnd, Option.elim_none, hdeclared]
  exact sizedEnd_damaged hdst hbytes hratio hdamage

/-- An item whose stream yields what its record declares ends with OK where limits and output space admit it (R193, R198). -/
theorem State.expandEnd_item {i : FetchItem} {e : Expanded} (he : expandTo (s.streamJob x format len) (some i.expandedLen) = e)
    (hdamage : e.damage = none) (hreached : e.reached = i.expandedLen) (hdst : i.expandedLen ≤ dst)
    (hbytes : i.expandedLen ≤ (s.limitsOf 2 x.ring).bytes) (hratio : i.expandedLen ≤ (s.limitsOf 2 x.ring).ratio * len) :
    (s.expandEnd x (some i) format len dst).status = stOK := by
  subst he
  exact (knownEnd_whole hdamage hreached hdst hbytes hratio true).1

end

theorem le_alignUp (n : Nat) {d : Nat} (hd : 0 < d) : n ≤ alignUp n d := by
  have hsplit := Nat.div_add_mod' (n + d - 1) d
  have hrest := Nat.mod_lt (n + d - 1) hd
  rw [alignUp, ceilDiv]
  omega

/-- Settles O25: a DECOMPRESS by how its expansion ends (`expandEnd_whole`, `expandEnd_damaged`, `expandEnd_item`), a COMPRESS by
`kilnCompress_ended`, GF_COMBINE by the shares that `gfWrites` leaves. -/
theorem kilnAndGf : Obligations.KilnAndGf := by
  unfold Obligations.KilnAndGf
  refine ⟨fun c tk s x f len dst hruns hbehind hf hlen hdst hlow hhigh hlast hdict hrestore => ?_,
    fun c tk s x ins outs len hx hruns hlen hins houts => ?_⟩
  · subst f len dst
    refine ⟨fun hx hstream hflush hsum => ?_, fun hx hroom => ?_, fun i hx hitem hflush hsum hlive hstatus hframe => ?_⟩
    · have hexec := execDecompress_runs hruns hx hbehind
      rw [State.kilnDecompress_stream hlow hhigh hflush hsum hlast hstream, State.kilnExpand_ends hdict hrestore] at hexec
      have hend := State.endKiln_ended (State.running_takenAt hx).1 (s.streamJob x (x.fieldAt 0x2E 1 % 16) (x.fieldAt 0x20 4)) none
        (s.expandEnd x none (x.fieldAt 0x2E 1 % 16) (x.fieldAt 0x20 4) (x.fieldAt 0x24 4))
      refine ⟨_, _, hexec, hend.ended, hend.rings, hend.cores, fun d e n hd hdecl hknown hsized hdmg hreached hfits hbytes hratio => ?_,
        fun d hd hdecl hdmg hfits hbytes hratio => ?_⟩
      · obtain ⟨hok, hout⟩ := State.expandEnd_whole hd hdecl hknown hsized hdmg hreached hfits hbytes hratio
        refine ⟨hok, fun hresult hctx => ?_⟩
        exact hout ▸ hend.writes hresult hctx
      · obtain ⟨hstatus, hout⟩ := State.expandEnd_damaged hd hdecl hdmg hfits hbytes hratio
        refine ⟨hstatus, fun hresult hctx => ?_⟩
        rw [hend.dram hresult hctx, hout]
        rfl
    · have hexec := execCompress_runs hruns hx hbehind none
      obtain ⟨st, hended, hrings, hgrows, hshrinks⟩ :=
        State.kilnCompress_ended (State.running_takenAt hx).1 hlow hhigh hlast hdict hrestore hroom
      refine ⟨_, st, hexec, hended, hrings, s.kilnCompress_cores x none, ?_⟩
      rintro z rfl
      exact ⟨hgrows, hshrinks⟩
    · have hexec := execDecompress_runs hruns hx hbehind
      rw [State.kilnDecompress_item hlow hhigh hflush hsum hlast hitem hlive hstatus hframe, hframe,
        State.kilnExpand_ends hdict hrestore] at hexec
      have hend := State.endKiln_ended (State.running_takenAt hx).1 (s.streamJob x (x.fieldAt 0x2E 1 % 16) i.storedLen) (some i)
        (s.expandEnd x (some i) (x.fieldAt 0x2E 1 % 16) i.storedLen
          (if x.fieldAt 0x24 4 = 0 then alignUp i.expandedLen 64 else x.fieldAt 0x24 4))
      refine ⟨_, _, hexec, hend.ended, hend.rings, hend.cores, fun e he hdmg hreached hroom hbytes hratio =>
        State.expandEnd_item he hdmg hreached ?_ hbytes hratio⟩
      split
      · exact le_alignUp _ (by decide)
      next hdst => exact hroom.resolve_left hdst
  · subst len
    change s.gfIns x = ins at hins
    change s.gfOuts x = outs at houts
    subst ins outs
    have htaken := (State.running_takenAt hx).1
    refine ⟨fun hshape => ?_, fun hshape htabIn htabOut hcoef halign hload hstore => ?_⟩
    · obtain ⟨hend, hdram⟩ := State.kilnRefuse_ends htaken stBAD_GEOMETRY
      have hexec := execGfCombine_runs hruns hx
      rw [State.gfCombine_refused hshape] at hexec
      exact ⟨_, hexec, hend, hdram⟩
    · obtain ⟨hend, hrings, hdram⟩ := State.gfCombine_ends hshape htabIn htabOut hcoef halign hload hstore htaken
      refine ⟨_, execGfCombine_runs hruns hx, hend, hrings, s.gfCombine_cores x, fun hapart hfree j b k hb hk => ?_, fun a ha => ?_⟩
      · have hj : j < x.gfOut := s.gfOuts_length x ▸ (List.getElem?_eq_some_iff.1 hb).1
        have hapartIns := fun i hi => hfree i hi b (List.mem_of_getElem? hb)
        rw [hdram, State.gfWrites_share hapart hb hk, State.gfShare_getD s x hapartIns hk, State.gfOutput_getD s x hj hk]
      · rw [hdram, State.gfWrites_outside ha]

end Sys2Proof.Machine

/-!
SUPPORT. A descriptor in work whose engine reads, writes one run of DRAM and ends: what SCORE, FILTER and SIGNATURE share.
-/

namespace Sys2Proof.Machine

/-! ## What an engine's reads leave -/

section
variable {s t : State} (h : OnlyReads s t)
include h

theorem OnlyReads.taken : t.taken = s.taken := h.proj State.taken
theorem OnlyReads.cores : t.cores = s.cores := h.proj State.cores
theorem OnlyReads.mash : t.mash = s.mash := h.proj State.mash
theorem OnlyReads.sets : t.sets = s.sets := h.proj State.sets

end

theorem State.engineAccess_onlyReads (s : State) (cls : Nat) (write : Bool) (a n : Nat) : OnlyReads s (s.engineAccess cls write a n) :=
  (s.engineAccess_onlyLogs cls write a n).onlyReads

/-! ## The end of a descriptor behind one write -/

/-- From `s`, a descriptor ended in `t` with a status and a detail, and its engine stored `bs` at `a`; the rest of DRAM, rings, cores,
models and sets stay. -/
structure EndedWriting (s t : State) (c : CoreId) (tk : Ticket) (status detail a : Nat) (bs : List Byte) : Prop where
  ended : EndedWith t c tk status detail
  dram : t.dram = Mem.store s.dram a bs
  rings : t.rings = s.rings
  cores : t.cores = s.cores
  mash : t.mash = s.mash
  sets : t.sets = s.sets

/-- An engine that only read, then writes one run of DRAM and ends its descriptor. -/
theorem OnlyReads.endedWriting {s u : State} {c : CoreId} {tk : Ticket} {x : Taken} (h : OnlyReads s u) (hx : s.takenAt c tk = some x)
    (cls a : Nat) (bs : List Byte) (status detail : Nat) (o : List (Nat × Nat)) :
    EndedWriting s ((u.engineWrite cls a bs).finish x status detail o) c tk status detail a bs where
  ended := State.finish_endedWith hx ((u.engineWrite_taken cls a bs).trans h.taken) status detail o
  dram := by rw [State.finish_dram, State.engineWrite_dram, h.dram]
  rings := by rw [State.finish_rings, State.engineWrite_rings, h.rings]
  cores := by rw [State.finish_cores, State.engineWrite_cores, h.cores]
  mash := ((u.engineWrite_onlyStages cls a bs).proj State.mash).trans h.mash
  sets := ((u.engineWrite_onlyStages cls a bs).proj State.sets).trans h.sets

end Sys2Proof.Machine

/-!
SUPPORT. Scoring models: SCORE, and what MODEL_LOAD and MODEL_UNLOAD leave resident (R228 to R231, R240).
-/

namespace Sys2Proof.Machine

/-! ## SCORE (R231) -/

section
variable {s : State} {x : Taken} {m : MashModel}

theorem State.runModel_onlyReads (s : State) (m : MashModel) (a n : Nat) : OnlyReads s (s.runModel m a n).2 := by
  unfold State.runModel
  extract_lets scores
  exact (((s.freshFree_onlyReads.trans (State.count_onlyReads _ _ _ _)).trans (State.count_onlyReads _ _ _ _)).trans
    (State.count_onlyReads _ _ _ _)).trans (State.engineAccess_onlyReads _ _ _ _ _)

/-- A SCORE of a resident model whose input has the model's length writes the model's scores. -/
theorem State.score_ends {c : CoreId} {tk : Ticket} (hx : s.takenAt c tk = some x)
    (hmodel : Table.find s.mash.models (x.fieldAt 0x10 1 % 4) = some m)
    (hlen : leAt m.image 7 1 ≠ 0 ∨ x.fieldAt 0x20 4 = leAt m.image 8 4) :
    EndedWriting s (s.score x false) c tk stOK x.unit (x.fieldAt 0x28 8)
      ((s.runModel m (x.fieldAt 0x18 8) (x.fieldAt 0x20 4)).1.flatMap (leBytes 4)) := by
  have hinput : ¬ (leAt m.image 7 1 = 0 ∧ x.fieldAt 0x20 4 ≠ leAt m.image 8 4) := fun h => hlen.elim (· h.1) h.2
  rw [State.score, hmodel]
  dsimp only
  rw [if_neg hinput, if_neg Bool.false_ne_true]
  exact (s.runModel_onlyReads m _ _).endedWriting hx _ _ _ _ _ _

end

/-! ## The resident models -/

/-- Other models resident: the tiles and their registers follow (R207, R244). -/
def State.withModels (s : State) (ms : Table MashModel) : State := { s with mash := { s.mash with models := ms } }.showTiles

theorem State.showTiles_onlyLogs (s : State) : OnlyLogs s s.showTiles := by
  unfold State.showTiles
  extract_lets tiles s1 s2
  have h1 : OnlyLogs s s1 := foldl_onlyLogs (fun t _ => t.setReg_onlyLogs _ _) _ s
  have h2 : OnlyLogs s1 s2 := foldl_onlyLogs (fun t _ => t.setReg_onlyLogs _ _) _ s1
  exact (h1.trans h2).trans (s2.setReg_onlyLogs _ _)

section
variable (s : State) (ms : Table MashModel)

theorem State.withModels_models : (s.withModels ms).mash.models = ms :=
  (State.showTiles_onlyLogs { s with mash := { s.mash with models := ms } }).proj (·.mash.models)

theorem State.withModels_taken : (s.withModels ms).taken = s.taken := (State.showTiles_onlyLogs _).taken
theorem State.withModels_dram : (s.withModels ms).dram = s.dram := (State.showTiles_onlyLogs _).dram

end

theorem State.finish_mash (s : State) (x : Taken) (status detail : Nat) (o : List (Nat × Nat)) :
    (s.finish x status detail o).mash = s.mash := rfl

/-- A descriptor that ends with other models resident, and wrote nothing. -/
theorem OnlyReads.withModels_ends {s u : State} {c : CoreId} {tk : Ticket} {x : Taken} (h : OnlyReads s u) (hx : s.takenAt c tk = some x)
    (ms : Table MashModel) (status detail : Nat) (o : List (Nat × Nat)) :
    EndedWith ((u.withModels ms).finish x status detail o) c tk status detail ∧
      ((u.withModels ms).finish x status detail o).mash.models = ms ∧ ((u.withModels ms).finish x status detail o).dram = s.dram := by
  rw [State.finish_mash, State.withModels_models, State.finish_dram, State.withModels_dram, h.dram]
  exact ⟨State.finish_endedWith hx ((u.withModels_taken ms).trans h.taken) _ _ _, rfl, rfl⟩

/-! ## MODEL_LOAD and MODEL_UNLOAD (R228 to R230, R240) -/

section
variable {s : State} {x : Taken}

/-- MODEL_LOAD of a sound image into a free slot, with tiles enough that no TRANSFORM works on, places the model on the lowest of
them. That it waits for a tile at work is log entry 60. -/
theorem State.modelLoad_loads {b : List Byte} {need : Nat} {free : List Nat} (hb : s.dramBytes (x.fieldAt 0x18 8) (x.fieldAt 0x20 4) = b)
    (hslot : Table.find s.mash.models (x.fieldAt 0x10 1 % 4) = none) (hformat : modelFormatOk b (x.fieldAt 0x20 4) = true)
    (hsize : modelTooLarge b = false) (hneed : modelTileCount b (x.fieldAt 0x20 4) = need)
    (hfree : (List.range (Config.unitCount s.part.variant 7)).filter s.tileIn = free) (htiles : need ≤ free.length)
    (hlimit : s.mash.modelTiles.length + need ≤ s.modelTileLimit)
    (hidle : s.taken.any (fun y => y.cls == 7 && descOpcode y.desc == 1 && y.result.isNone && (free.take need).contains y.unit) = false) :
    ∃ owner, s.modelLoad x = ((s.engineAccess 7 false (x.fieldAt 0x18 8) (x.fieldAt 0x20 4)).withModels
      (Table.put s.mash.models (x.fieldAt 0x10 1 % 4) ⟨owner, b, free.take need⟩)).finish x stOK 0 [] := by
  have hroom : ¬ (free.length < need ∨ s.modelTileLimit < s.mash.modelTiles.length + need) := by omega
  have hmash := (s.engineAccess_onlyReads 7 false (x.fieldAt 0x18 8) (x.fieldAt 0x20 4)).mash
  refine ⟨(s.recipeOfRing 7 x.ring).map (·.1), ?_⟩
  simp only [State.modelLoad, hb, hneed, hfree, hslot, hformat, hsize, if_neg hroom, hidle, State.withModels, hmash]
  rfl

/-- MODEL_UNLOAD takes the model of a slot that nothing uses away. -/
theorem State.modelUnload_unloads (hslot : (Table.find s.mash.models (x.fieldAt 0x10 1 % 4)).isSome)
    (hidle : s.slotInUse 3 (x.fieldAt 0x10 1 % 4) = false) :
    s.modelUnload x = (s.withModels (Table.drop s.mash.models (x.fieldAt 0x10 1 % 4))).finish x stOK 0 [] := by
  rw [State.modelUnload, Option.isNone_eq_false_iff.2 hslot, if_neg Bool.false_ne_true, hidle, if_neg Bool.false_ne_true]
  rfl

/-- MODEL_UNLOAD waits while a descriptor uses the model. -/
theorem State.modelUnload_waits (hslot : (Table.find s.mash.models (x.fieldAt 0x10 1 % 4)).isSome)
    (hused : s.slotInUse 3 (x.fieldAt 0x10 1 % 4) = true) : s.modelUnload x = s := by
  rw [State.modelUnload, Option.isNone_eq_false_iff.2 hslot, if_neg Bool.false_ne_true, hused, if_pos rfl]

end

end Sys2Proof.Machine

/-!
SUPPORT. FILTER: which predicates are admitted, what judging leaves, and how the descriptor ends (R232 to R234, R238).
-/

namespace Sys2Proof.Machine

/-! ## Predicates by what they refuse and fail (R233, R239) -/

/-- A predicate is refused by the sets and models alone. -/
theorem OnlyReads.predicateRefusal {s t : State} (h : OnlyReads s t) (p : Predicate) (recKind textKind text scoreIn : Nat) :
    t.predicateRefusal p recKind textKind text scoreIn = s.predicateRefusal p recKind textKind text scoreIn := by
  rw [State.predicateRefusal, State.predicateRefusal, h.sets, h.mash]

/-- A bounds or status predicate that the sample's values miss. -/
def Predicate.fails (j : Judged) (textLen : Nat) (p : Predicate) : Bool :=
  if p.kind = 1 then !(decide (p.lo ≤ boundValue j textLen p.arg) && decide (boundValue j textLen p.arg ≤ p.hi))
  else !bitAt (BitVec.ofNat 32 p.extra) j.status

section
variable (s : State) (x : Taken) (j : Judged) (same : Nat → Bool) (text : List Byte) (v : Verdict)

/-! ## Judging (R234) -/

/-- Judging a predicate counts, and runs at most a model. -/
theorem State.judgeOne_onlyReads (p : Predicate) : OnlyReads s (s.judgeOne x j same text v p).2.2 := by
  unfold State.judgeOne
  extract_lets n
  split
  next => exact OnlyReads.refl s
  next =>
    split
    next =>
      split
      next => exact OnlyReads.refl s
      next st _ =>
        extract_lets h s1
        have h1 : OnlyReads s s1 := s.count_onlyReads _ _ _
        split <;> exact h1
    next =>
      split
      next =>
        split
        next => exact OnlyReads.refl s
        next m _ =>
          split
          next scores s1 hrun =>
            have h1 : OnlyReads s s1 := OnlyReads.of_snd hrun (OnlyReads.snd_ite (s.runModel_onlyReads m _ _) (s.runModel_onlyReads m _ _))
            exact h1.trans (OnlyReads.ite (s1.errAdd_onlyReads _ _) (OnlyReads.refl s1))
      next => exact OnlyReads.refl s

/-- A bounds or status predicate is judged by the sample's values, without further effect. -/
theorem State.judgeOne_value {p : Predicate} (hp : p.kind = 1 ∨ p.kind = 4) :
    s.judgeOne x j same text v p = (!p.fails j (x.fieldAt 0x20 4), v, s) := by
  unfold State.judgeOne Predicate.fails
  rcases hp with hp | hp
  · simp [hp]
  · simp [hp]

variable (i : Nat)

theorem State.judgeAll_onlyReads (ps : List Predicate) : OnlyReads s (s.judgeAll x j same text v i ps).2 := by
  induction ps generalizing s v i with
  | nil => exact OnlyReads.refl s
  | cons p ps ih =>
    have hone := s.judgeOne_onlyReads x j same text v p
    unfold State.judgeAll
    split
    next w t hp =>
      rw [hp] at hone
      exact hone.trans (ih t w (i + 1))
    next w t hp =>
      rw [hp] at hone
      exact hone

/-- Bounds and status predicates that the sample meets leave the verdict to those behind them. -/
theorem State.judgeAll_append {pre : List Predicate} (hkind : ∀ p ∈ pre, p.kind = 1 ∨ p.kind = 4)
    (hpass : ∀ p ∈ pre, p.fails j (x.fieldAt 0x20 4) = false) (suf : List Predicate) :
    s.judgeAll x j same text v i (pre ++ suf) = s.judgeAll x j same text v (i + pre.length) suf := by
  induction pre generalizing i with
  | nil => rfl
  | cons p pre ih =>
    obtain ⟨hpk, hkind⟩ := List.forall_mem_cons.1 hkind
    obtain ⟨hpp, hpass⟩ := List.forall_mem_cons.1 hpass
    rw [List.cons_append, State.judgeAll, s.judgeOne_value x j same text v hpk, hpp]
    refine (ih (i + 1) hkind hpass).trans ?_
    rw [List.length_cons, Nat.add_right_comm, Nat.add_assoc]

/-- The first bounds or status predicate that the sample misses decides. -/
theorem State.judgeAll_fails {p : Predicate} (hkind : p.kind = 1 ∨ p.kind = 4) (hfails : p.fails j (x.fieldAt 0x20 4) = true)
    (suf : List Predicate) : s.judgeAll x j same text v i (p :: suf) = ({ v with failed := some (i, p.kind) }, s) := by
  rw [State.judgeAll, s.judgeOne_value x j same text v hkind, hfails]
  rfl

end

/-! ## The descriptor (R232, R238, R239) -/

/-- What judging starts from. -/
def Verdict.unjudged : Verdict := ⟨.none, 0, 0, 0⟩

section
variable (s : State) (x : Taken)

/-- The record that a FILTER judges. -/
def State.filterRecord : Judged := judged (x.fieldAt 0x25 1 % 4) (s.dramBytes (x.fieldAt 0x10 8) 128)

def State.filterPredicates : List Predicate :=
  (List.range (x.fieldAt 0x24 1)).map (fun i => predicate (s.dramBytes (x.fieldAt 0x28 8 + 16 * i) 16))

/-- The state once the lauter has read the record and the predicates. -/
def State.filterReads : State :=
  (s.engineAccess 6 false (x.fieldAt 0x10 8) (if x.fieldAt 0x25 1 % 4 = 1 then 128 else 64)).engineAccess 6 false (x.fieldAt 0x28 8)
    (16 * x.fieldAt 0x24 1)

theorem State.filterReads_onlyReads : OnlyReads s (s.filterReads x) :=
  (s.engineAccess_onlyReads _ _ _ _).trans (State.engineAccess_onlyReads _ _ _ _ _)

/-- A FILTER that R239 does not refuse. -/
structure State.FilterAdmitted : Prop where
  count_pos : 1 ≤ x.fieldAt 0x24 1
  count_le : x.fieldAt 0x24 1 ≤ 16
  recKind : x.fieldAt 0x25 1 % 4 ≠ 3
  textKind : x.fieldAt 0x25 1 / 4 % 4 ≤ 1
  predicates : ∀ p ∈ s.filterPredicates x,
    s.predicateRefusal p (x.fieldAt 0x25 1 % 4) (x.fieldAt 0x25 1 / 4 % 4) (x.fieldAt 0x18 8) (x.fieldAt 0x30 8) = none

/-- Bytes of TEXT. -/
def Taken.textBytes (x : Taken) : Nat := x.fieldAt 0x20 4 * (if x.fieldAt 0x25 1 / 4 % 4 = 1 then 4 else 1)

/-- The state once the lauter has read TEXT as well. -/
def State.filterReadsText : State :=
  (s.filterReads x).engineAccess 6 false (x.fieldAt 0x18 8) (if x.fieldAt 0x18 8 = 0 then 0 else x.textBytes)

theorem State.filterReadsText_onlyReads : OnlyReads s (s.filterReadsText x) :=
  (s.filterReads_onlyReads x).trans (State.engineAccess_onlyReads _ _ _ _ _)

/-- What judging the sample comes to, and the state it leaves. -/
def State.filterJudges : Verdict × State :=
  (s.filterReadsText x).judgeAll x (s.filterRecord x) (fun d => (s.filterReadsText x).sampleDataset 6 x.ring == some d)
    (if x.fieldAt 0x18 8 = 0 then [] else (s.filterReads x).dramBytes (x.fieldAt 0x18 8) x.textBytes) Verdict.unjudged 0 (s.filterPredicates x)

theorem State.filterJudges_onlyReads : OnlyReads s (s.filterJudges x).2 :=
  (s.filterReadsText_onlyReads x).trans (State.judgeAll_onlyReads _ _ _ _ _ _ _ _)

/-- Bounds and status predicates that the sample meets keep it. -/
theorem State.filterJudges_keeps (hkind : ∀ p ∈ s.filterPredicates x, p.kind = 1 ∨ p.kind = 4)
    (hpass : ∀ p ∈ s.filterPredicates x, p.fails (s.filterRecord x) (x.fieldAt 0x20 4) = false) : (s.filterJudges x).1.failed = none := by
  rw [State.filterJudges, ← List.append_nil (s.filterPredicates x), State.judgeAll_append _ _ _ _ _ _ _ hkind hpass]
  rfl

/-- Among bounds and status predicates the first that the sample misses drops it. -/
theorem State.filterJudges_drops (hkind : ∀ p ∈ s.filterPredicates x, p.kind = 1 ∨ p.kind = 4) {pre suf : List Predicate} {p : Predicate}
    (hsplit : s.filterPredicates x = pre ++ p :: suf) (hpass : ∀ q ∈ pre, q.fails (s.filterRecord x) (x.fieldAt 0x20 4) = false)
    (hfails : p.fails (s.filterRecord x) (x.fieldAt 0x20 4) = true) : (s.filterJudges x).1.failed = some (pre.length, p.kind) := by
  rw [hsplit] at hkind
  rw [State.filterJudges, hsplit, State.judgeAll_append _ _ _ _ _ _ _ (fun q hq => hkind q (by simp [hq])) hpass,
    State.judgeAll_fails _ _ _ _ _ _ _ (hkind p (by simp)) hfails, Nat.zero_add]

/-- The end of a FILTER that judged its sample: the verdict record, and OK or DROPPED. -/
def State.endFilter (s : State) (x : Taken) (j : Judged) (v : Verdict) : State :=
  match v.failed with
  | none => ((s.count unitLTR 1 1).engineWrite 6 (x.fieldAt 0x38 8) (verdictRecord j 0 v)).finish x stOK 0 [(x.fieldAt 0x38 8, 32)]
  | some (_, k) => ((s.count unitLTR (if k = 2 then 3 else if k = 3 then 4 else 2) 1).engineWrite 6 (x.fieldAt 0x38 8)
      (verdictRecord j 1 v)).finish x stDROPPED 0 [(x.fieldAt 0x38 8, 32)]

variable {s x}

/-- An admitted FILTER writes verdict 2 for a sample without data, and else what judging comes to. -/
theorem State.filterRun_admitted (h : s.FilterAdmitted x) : s.filterRun x =
    if (s.filterRecord x).status ≠ stOK ∧ (s.filterRecord x).status ≠ stCONCEALED ∧ (s.filterRecord x).status ≠ stSUBSTITUTED then
      (((s.filterReads x).count unitLTR 0 1).engineWrite 6 (x.fieldAt 0x38 8) (verdictRecord (s.filterRecord x) 2 Verdict.unjudged)).finish x
        (s.filterRecord x).status 0 [(x.fieldAt 0x38 8, 32)]
    else ((s.filterJudges x).2.count unitLTR 0 1).endFilter x (s.filterRecord x) (s.filterJudges x).1 := by
  obtain ⟨hpos, hle, hrec, htext, hpreds⟩ := h
  have hshape : ¬ (x.fieldAt 0x24 1 = 0 ∨ 16 < x.fieldAt 0x24 1 ∨ x.fieldAt 0x25 1 % 4 = 3 ∨ 1 < x.fieldAt 0x25 1 / 4 % 4) := by omega
  have hadmit : (s.filterPredicates x).findSome? (fun p => (s.filterReads x).predicateRefusal p (x.fieldAt 0x25 1 % 4)
      (x.fieldAt 0x25 1 / 4 % 4) (x.fieldAt 0x18 8) (x.fieldAt 0x30 8)) = none :=
    List.findSome?_eq_none_iff.2 fun p hp => ((s.filterReads_onlyReads x).predicateRefusal p _ _ _ _).trans (hpreds p hp)
  simp only [State.filterPredicates, State.filterReads] at hadmit
  simp only [State.filterRun, if_neg hshape, hadmit]
  rfl

/-- A kept sample ends with OK, a dropped one with DROPPED, and the verdict is written either way. -/
theorem State.endFilter_ends {t : State} {c : CoreId} {tk : Ticket} (hx : s.takenAt c tk = some x) (h : OnlyReads s t) (j : Judged)
    (v : Verdict) :
    EndedWriting s (t.endFilter x j v) c tk (if v.failed = none then stOK else stDROPPED) 0 (x.fieldAt 0x38 8)
      (verdictRecord j (if v.failed = none then 0 else 1) v) := by
  unfold State.endFilter
  cases hv : v.failed with
  | none => exact (h.trans (t.count_onlyReads _ _ _)).endedWriting hx _ _ _ _ _ _
  | some e => exact (h.trans (t.count_onlyReads _ _ _)).endedWriting hx _ _ _ _ _ _

/-- An admitted FILTER of a sample without data ends with the sample's status, and writes verdict 2. -/
theorem State.filterRun_bare {c : CoreId} {tk : Ticket} (hx : s.takenAt c tk = some x) (h : s.FilterAdmitted x)
    (hbare : (s.filterRecord x).status ≠ stOK ∧ (s.filterRecord x).status ≠ stCONCEALED ∧ (s.filterRecord x).status ≠ stSUBSTITUTED) :
    EndedWriting s (s.filterRun x) c tk (s.filterRecord x).status 0 (x.fieldAt 0x38 8)
      (verdictRecord (s.filterRecord x) 2 Verdict.unjudged) := by
  rw [State.filterRun_admitted h, if_pos hbare]
  exact ((s.filterReads_onlyReads x).trans (State.count_onlyReads _ _ _ _)).endedWriting hx _ _ _ _ _ _

/-- An admitted FILTER of a sample with data ends as judging comes to. -/
theorem State.filterRun_judged {c : CoreId} {tk : Ticket} (hx : s.takenAt c tk = some x) (h : s.FilterAdmitted x)
    (hdata : (s.filterRecord x).status = stOK ∨ (s.filterRecord x).status = stCONCEALED ∨ (s.filterRecord x).status = stSUBSTITUTED) :
    EndedWriting s (s.filterRun x) c tk (if (s.filterJudges x).1.failed = none then stOK else stDROPPED) 0 (x.fieldAt 0x38 8)
      (verdictRecord (s.filterRecord x) (if (s.filterJudges x).1.failed = none then 0 else 1) (s.filterJudges x).1) := by
  rw [State.filterRun_admitted h, if_neg (fun hbare => hdata.elim hbare.1 (·.elim hbare.2.1 hbare.2.2))]
  exact State.endFilter_ends hx ((s.filterJudges_onlyReads x).trans (State.count_onlyReads _ _ _ _)) _ _

end

end Sys2Proof.Machine

/-!
SUPPORT. MinHash sets: LOAD_SET, SIGNATURE and UNLOAD_SET (R235 to R237, R240).
-/

namespace Sys2Proof.Machine

/-- Other sets resident: the register of the slot follows (R246). -/
def State.withSets (s : State) (slot : Nat) (ts : Table MinSet) : State := { s with sets := ts }.showSet slot

section
variable {s : State} {x : Taken}

/-- A descriptor that ends with other sets resident. -/
theorem State.withSets_ends {u : State} {c : CoreId} {tk : Ticket} (hx : s.takenAt c tk = some x) (hu : u.taken = s.taken) (slot : Nat)
    (ts : Table MinSet) (status detail : Nat) (o : List (Nat × Nat)) :
    EndedWith ((u.withSets slot ts).finish x status detail o) c tk status detail ∧
      ((u.withSets slot ts).finish x status detail o).sets = ts ∧ ((u.withSets slot ts).finish x status detail o).dram = u.dram :=
  ⟨State.finish_endedWith hx hu _ _ _, rfl, rfl⟩

/-- What LOAD_SET writes to the area of its index: bytes of the lauter's own. -/
def State.setIndex (s : State) (h : SetHead) : List Byte := (List.range (h.entries * h.bands * 8)).map (Config.rawByte s.freshFree.1)

theorem State.setIndex_length (s : State) (h : SetHead) : (s.setIndex h).length = h.entries * h.bands * 8 := by simp [State.setIndex]

/-- The state once LOAD_SET has read the image. -/
def State.setReads (s : State) (x : Taken) : State := s.freshFree.2.engineAccess 6 false (x.fieldAt 0x18 8) (x.fieldAt 0x20 4)

theorem State.setReads_onlyReads (s : State) (x : Taken) : OnlyReads s (s.setReads x) :=
  s.freshFree_onlyReads.trans (State.engineAccess_onlyReads _ _ _ _ _)

/-- LOAD_SET of a sound set into a free slot, with an area that holds its index, writes the index and makes the set resident. -/
theorem State.loadSet_loads {b : List Byte} (hb : s.dramBytes (x.fieldAt 0x18 8) (x.fieldAt 0x20 4) = b)
    (hslot : Table.find s.sets (x.fieldAt 0x10 1 % 4) = none) (hformat : setFormatOk b = true)
    (harea : (setHead b).entries * (setHead b).bands * 8 ≤ x.fieldAt 0x30 8) : ∃ owner,
    s.loadSet x = (((s.setReads x).engineWrite 6 (x.fieldAt 0x28 8) (s.setIndex (setHead b))).withSets (x.fieldAt 0x10 1 % 4)
      (Table.put s.sets (x.fieldAt 0x10 1 % 4) ⟨owner, b⟩)).finish x stOK 0 [] := by
  have hfits : (!setFormatOk b || Nat.blt (x.fieldAt 0x30 8) ((setHead b).entries * (setHead b).bands * 8)) = false :=
    Bool.eq_false_iff.2 (by simpa [hformat] using harea)
  have hsets : ((s.setReads x).engineWrite 6 (x.fieldAt 0x28 8) (s.setIndex (setHead b))).sets = s.sets :=
    ((State.engineWrite_onlyStages _ _ _ _).proj State.sets).trans (s.setReads_onlyReads x).sets
  refine ⟨(((s.setReads x).engineWrite 6 (x.fieldAt 0x28 8) (s.setIndex (setHead b))).recipeOfRing 6 x.ring).map (·.1), ?_⟩
  rw [← hsets]
  simp only [State.loadSet, hb, hslot, hfits]
  rfl

/-- SIGNATURE of an input of the set's kind writes its signature. -/
theorem State.signatureRun_ends {c : CoreId} {tk : Ticket} {st : MinSet} (hx : s.takenAt c tk = some x)
    (hset : Table.find s.sets (x.fieldAt 0x10 1 % 4) = some st) (hkind : x.fieldAt 0x24 1 ≤ 1)
    (htokens : (setHead st.image).tokens = decide (x.fieldAt 0x24 1 = 1)) :
    EndedWriting s (s.signatureRun x) c tk stOK 0 (x.fieldAt 0x28 8) (((setHead st.image).signature (s.dramBytes (x.fieldAt 0x18 8)
      (x.fieldAt 0x20 4 * (if (setHead st.image).tokens then 4 else 1)))).flatMap (leBytes 4)) := by
  have haccepted : ((setHead st.image).tokens != (x.fieldAt 0x24 1 == 1) || Nat.blt 1 (x.fieldAt 0x24 1)) = false :=
    Bool.eq_false_iff.2 (by simpa [htokens, beq_eq_decide] using hkind)
  rw [State.signatureRun, hset]
  dsimp only
  rw [haccepted, if_neg Bool.false_ne_true]
  exact ((s.engineAccess_onlyReads _ _ _ _).trans (State.count_onlyReads _ _ _ _)).endedWriting hx _ _ _ _ _ _

/-- UNLOAD_SET takes the set of a slot that nothing uses away. -/
theorem State.unloadSet_unloads (hslot : (Table.find s.sets (x.fieldAt 0x10 1 % 4)).isSome)
    (hidle : s.slotInUse 2 (x.fieldAt 0x10 1 % 4) = false) :
    s.unloadSet x = (s.withSets (x.fieldAt 0x10 1 % 4) (Table.drop s.sets (x.fieldAt 0x10 1 % 4))).finish x stOK 0 [] := by
  rw [State.unloadSet, Option.isNone_eq_false_iff.2 hslot, if_neg Bool.false_ne_true, hidle, if_neg Bool.false_ne_true]
  rfl

end

end Sys2Proof.Machine

/-!
SUPPORT. The statement on scoring models, FILTER and MinHash sets (R228 to R240).
-/

namespace Sys2Proof.Machine

/-! ## The commands, on the descriptor that runs for them -/

section
variable {c : CoreId} {tk : Ticket} {s : State} {x : Taken} (hruns : s.engineRuns 7 = true)
include hruns

theorem execScore_runs (hx : s.running c tk 7 0x02 = some x) : exec (.score c tk false) s = .next (s.score x false) := by
  change execScore c tk false s = _
  simp only [execScore, hx, hruns, if_true]

theorem execModelLoad_runs (hx : s.running c tk 7 0x03 = some x) : exec (.modelLoad c tk) s = .next (s.modelLoad x) := by
  change execModelLoad c tk s = _
  simp only [execModelLoad, hx, hruns, if_true]

theorem execModelUnload_runs (hx : s.running c tk 7 0x04 = some x) : exec (.modelUnload c tk) s = .next (s.modelUnload x) := by
  change execModelUnload c tk s = _
  simp only [execModelUnload, hx, hruns, if_true]

end

section
variable {c : CoreId} {tk : Ticket} {s : State} {x : Taken} (hruns : s.engineRuns 6 = true)
include hruns

theorem execFilter_runs (hx : s.running c tk 6 0x01 = some x) : exec (.filter c tk) s = .next (s.filterRun x) := by
  change execFilter c tk s = _
  simp only [execFilter, hx, hruns, if_true]

theorem execLoadSet_runs (hx : s.running c tk 6 0x02 = some x) : exec (.loadSet c tk) s = .next (s.loadSet x) := by
  change execLoadSet c tk s = _
  simp only [execLoadSet, hx, hruns, if_true]

theorem execSignature_runs (hx : s.running c tk 6 0x03 = some x) : exec (.signature c tk) s = .next (s.signatureRun x) := by
  change execSignature c tk s = _
  simp only [execSignature, hx, hruns, if_true]

theorem execUnloadSet_runs (hx : s.running c tk 6 0x04 = some x) : exec (.unloadSet c tk) s = .next (s.unloadSet x) := by
  change execUnloadSet c tk s = _
  simp only [execUnloadSet, hx, hruns, if_true]

end

/-- Settles O27: SCORE, FILTER and SIGNATURE by the one run that they write (`EndedWriting`), the loads and unloads by the models
and sets that they leave resident (`withModels`, `withSets`). -/
theorem scoringFiltersSets : Obligations.ScoringFiltersSets := by
  unfold Obligations.ScoringFiltersSets
  refine ⟨fun c tk s x hruns => ⟨fun m hx hmodel hlen => ?_, fun b need free hx hb hslot hformat hsize hneed hfree htiles hlimit hidle => ?_,
      fun hx hslot hidle => ?_, fun hx hslot hused => ?_⟩,
    fun c tk s x n recKind textKind j ps hx hruns hn hpos hle hrecKind hrec htextKind htext hj hps hpreds => ?_,
    fun c tk s x hruns => ⟨fun b h hx hb hh hslot hformat harea => ?_, fun st h hx hset hh hkind htokens => ?_, fun hx hslot hidle => ?_⟩⟩
  · have hend := State.score_ends (State.running_takenAt hx).1 hmodel hlen
    exact ⟨_, execScore_runs hruns hx, hend.ended, hend.dram, hend.mash, hend.rings, hend.cores⟩
  · have hexec := execModelLoad_runs hruns hx
    obtain ⟨owner, hload⟩ := State.modelLoad_loads hb hslot hformat hsize hneed hfree htiles hlimit hidle
    rw [hload] at hexec
    obtain ⟨hended, hmodels, hdram⟩ := OnlyReads.withModels_ends
      (s.engineAccess_onlyReads 7 false (x.fieldAt 0x18 8) (x.fieldAt 0x20 4)) (State.running_takenAt hx).1
      (Table.put s.mash.models (x.fieldAt 0x10 1 % 4) ⟨owner, b, free.take need⟩) stOK 0 []
    exact ⟨_, _, hexec, hended, by rw [hmodels, Table.find_put, if_pos rfl], rfl, rfl,
      fun k hk => by rw [hmodels, Table.find_put, if_neg hk], hdram⟩
  · have hexec := execModelUnload_runs hruns hx
    rw [State.modelUnload_unloads hslot hidle] at hexec
    obtain ⟨hended, hmodels, hdram⟩ := (OnlyReads.refl s).withModels_ends (State.running_takenAt hx).1
      (Table.drop s.mash.models (x.fieldAt 0x10 1 % 4)) stOK 0 []
    exact ⟨_, hexec, hended, by rw [hmodels, Table.find_drop, if_pos rfl], hdram⟩
  · rw [execModelUnload_runs hruns hx, State.modelUnload_waits hslot hused]
  · subst n recKind textKind
    change s.filterRecord x = j at hj
    change s.filterPredicates x = ps at hps
    subst j ps
    have htaken := (State.running_takenAt hx).1
    have hadmitted : s.FilterAdmitted x := ⟨hpos, hle, hrec, htext, hpreds⟩
    refine ⟨fun hbare _ => ?_, fun hdata => ?_⟩
    · have hend := State.filterRun_bare htaken hadmitted hbare
      exact ⟨_, execFilter_runs hruns hx, hend.ended, hend.dram⟩
    · have hend := State.filterRun_judged htaken hadmitted hdata
      refine ⟨_, (s.filterJudges x).1, execFilter_runs hruns hx, hend.rings, hend.cores, hend.sets, fun hv => ?_, fun hv => ?_,
        s.filterJudges_keeps x, fun hkind pre p suf => s.filterJudges_drops x hkind⟩
      · rw [if_pos hv, if_pos hv] at hend
        exact ⟨hend.ended, hend.dram⟩
      · rw [if_neg hv, if_neg hv] at hend
        exact ⟨hend.ended, hend.dram⟩
  · subst h
    have hexec := execLoadSet_runs hruns hx
    obtain ⟨owner, hload⟩ := State.loadSet_loads hb hslot hformat harea
    rw [hload] at hexec
    have hreads := s.setReads_onlyReads x
    obtain ⟨hended, hsets, hdram⟩ := State.withSets_ends (State.running_takenAt hx).1
      ((State.engineWrite_taken _ 6 (x.fieldAt 0x28 8) (s.setIndex (setHead b))).trans hreads.taken) (x.fieldAt 0x10 1 % 4)
      (Table.put s.sets (x.fieldAt 0x10 1 % 4) ⟨owner, b⟩) stOK 0 []
    refine ⟨_, _, hexec, hended, by rw [hsets, Table.find_put, if_pos rfl], rfl, fun k hk => by rw [hsets, Table.find_put, if_neg hk],
      fun a ha => ?_⟩
    rw [hdram, State.engineWrite_dram, hreads.dram, Mem.get_store_outside _ (by rwa [State.setIndex_length])]
  · subst h
    have hend := State.signatureRun_ends (State.running_takenAt hx).1 hset hkind htokens
    exact ⟨_, execSignature_runs hruns hx, hend.ended, hend.sets, hend.dram⟩
  · have hexec := execUnloadSet_runs hruns hx
    rw [State.unloadSet_unloads hslot hidle] at hexec
    obtain ⟨hended, hsets, hdram⟩ := State.withSets_ends (State.running_takenAt hx).1 rfl (x.fieldAt 0x10 1 % 4)
      (Table.drop s.sets (x.fieldAt 0x10 1 % 4)) stOK 0 []
    exact ⟨_, hexec, hended, by rw [hsets, Table.find_drop, if_pos rfl], hdram⟩

end Sys2Proof.Machine

/-!
SUPPORT. Vocabularies: what VOCAB_LOAD and VOCAB_UNLOAD leave resident (R249 to R251).
-/

namespace Sys2Proof.Machine

theorem OnlyStages.vocabs {s t : State} (h : OnlyStages s t) : t.vocabs = s.vocabs := h.proj State.vocabs
theorem OnlyStages.gtc {s t : State} (h : OnlyStages s t) : t.gtc = s.gtc := h.proj State.gtc

/-- Other vocabularies resident: the register of the slot follows. -/
def State.withVocabs (s : State) (slot : Nat) (vs : Table Vocab) : State := { s with vocabs := vs }.showVocab slot

section
variable {s : State} {x : Taken}

/-- A descriptor that ends with other vocabularies resident. -/
theorem State.withVocabs_ends {u : State} {c : CoreId} {tk : Ticket} (hx : s.takenAt c tk = some x) (hu : u.taken = s.taken) (slot : Nat)
    (vs : Table Vocab) (status detail : Nat) (o : List (Nat × Nat)) :
    EndedWith ((u.withVocabs slot vs).finish x status detail o) c tk status detail ∧
      ((u.withVocabs slot vs).finish x status detail o).vocabs = vs ∧ ((u.withVocabs slot vs).finish x status detail o).dram = u.dram :=
  ⟨State.finish_endedWith hx hu _ _ _, rfl, rfl⟩

/-- Bytes of the area that a vocabulary's trie takes (R251). -/
def Vocab.trieLen (v : Vocab) : Nat := 16 * v.stringBytes + 65536

/-- What VOCAB_LOAD writes to the area of the trie: bytes of the unit's own (log entry 64). -/
def State.trieBytes (s : State) (v : Vocab) : List Byte := (List.range v.trieLen).map (Config.rawByte s.freshFree.1)

theorem State.trieBytes_length (s : State) (v : Vocab) : (s.trieBytes v).length = v.trieLen := by simp [State.trieBytes]

/-- The state once VOCAB_LOAD has read the image and written the trie. -/
def State.trieWritten (s : State) (x : Taken) (v : Vocab) : State :=
  (s.freshFree.2.engineAccess 8 false (x.fieldAt 0x18 8) (x.fieldAt 0x20 4)).engineWrite 8 (x.fieldAt 0x28 8) (s.trieBytes v)

theorem State.vocabReads_onlyReads (s : State) (x : Taken) :
    OnlyReads s (s.freshFree.2.engineAccess 8 false (x.fieldAt 0x18 8) (x.fieldAt 0x20 4)) :=
  s.freshFree_onlyReads.trans (State.engineAccess_onlyReads _ _ _ _ _)

theorem State.trieWritten_onlyStages (s : State) (x : Taken) (v : Vocab) : OnlyStages s (s.trieWritten x v) :=
  (s.vocabReads_onlyReads x).onlyStages.trans (State.engineWrite_onlyStages _ _ _ _)

theorem State.trieWritten_dram (s : State) (x : Taken) (v : Vocab) :
    (s.trieWritten x v).dram = Mem.store s.dram (x.fieldAt 0x28 8) (s.trieBytes v) := by
  rw [State.trieWritten, State.engineWrite_dram, (s.vocabReads_onlyReads x).dram]

/-- VOCAB_LOAD of an image that parses into a free slot, with an area that holds the trie, writes the trie and makes the vocabulary
resident. -/
theorem State.vocabLoad_loads {v : Vocab} (hslot : Table.find s.vocabs (x.fieldAt 0x10 1 % 16) = none)
    (hparse : parseVocab (s.dramBytes (x.fieldAt 0x18 8) (x.fieldAt 0x20 4)) = some v) (harea : v.trieLen ≤ x.fieldAt 0x30 4) :
    s.vocabLoad x = ((s.trieWritten x v).withVocabs (x.fieldAt 0x10 1 % 16)
      (Table.put s.vocabs (x.fieldAt 0x10 1 % 16) v)).finish x stOK 0 [] := by
  have hroom : ¬ x.fieldAt 0x30 4 < 16 * v.stringBytes + 65536 := by rwa [Vocab.trieLen, ← Nat.not_lt] at harea
  have hlen : (s.dramBytes (x.fieldAt 0x18 8) (x.fieldAt 0x20 4)).length = x.fieldAt 0x20 4 := Mem.bytes_length _ _ _
  have hvocabs : (s.trieWritten x v).vocabs = s.vocabs := (s.trieWritten_onlyStages x v).vocabs
  rw [← hvocabs]
  simp only [State.vocabLoad, hslot, hparse, hlen, if_neg hroom]
  rfl

/-- VOCAB_LOAD into a slot that holds a vocabulary is refused. -/
theorem State.vocabLoad_busy (hslot : (Table.find s.vocabs (x.fieldAt 0x10 1 % 16)).isSome) :
    s.vocabLoad x = s.finish x stVOCAB_BUSY 0 [] := by
  rw [State.vocabLoad, if_pos hslot]

/-- VOCAB_UNLOAD takes the vocabulary of a slot that no earlier TOKENIZE uses away. -/
theorem State.vocabUnload_unloads (hslot : (Table.find s.vocabs x.vocabSlot).isSome) (hidle : s.tokenBefore x 1 x.vocabSlot = false) :
    s.vocabUnload x = (s.withVocabs x.vocabSlot (Table.drop s.vocabs x.vocabSlot)).finish x stOK 0 [] := by
  rw [State.vocabUnload, Option.isNone_eq_false_iff.2 hslot, if_neg Bool.false_ne_true, hidle, if_neg Bool.false_ne_true]
  rfl

end

end Sys2Proof.Machine

/-!
SUPPORT. TOKENIZE: its descriptor's checks, and what it writes and leaves in both modes (R255 to R263).
-/

namespace Sys2Proof.Machine

/-! ## States that differ by a pack to the store -/

/-- `t` is `s` but for the pack store, the media, DRAM and what logging touches. -/
def OnlyPacks (s t : State) : Prop := OnlyStages s { t with store := s.store }

theorem OnlyPacks.refl (s : State) : OnlyPacks s s := rfl

theorem OnlyPacks.trans {s t u : State} (h : OnlyPacks s t) (g : OnlyPacks t u) : OnlyPacks s u := by
  unfold OnlyPacks OnlyStages OnlyReads OnlyLogs at *
  rw [← h, ← g]

theorem OnlyStages.onlyPacks {s t : State} (h : OnlyStages s t) : OnlyPacks s t := by
  unfold OnlyPacks OnlyStages OnlyReads OnlyLogs at *
  rw [← h]

section
variable {s t : State} (h : OnlyPacks s t)
include h

theorem OnlyPacks.taken : t.taken = s.taken := OnlyStages.taken (t := { t with store := s.store }) h
theorem OnlyPacks.rings : t.rings = s.rings := OnlyStages.rings (t := { t with store := s.store }) h
theorem OnlyPacks.vocabs : t.vocabs = s.vocabs := OnlyStages.vocabs (t := { t with store := s.store }) h

end

theorem State.enterSegment_onlyPacks (s : State) (st : FetchStream) (pos : Nat) (g : Segment) : OnlyPacks s (s.enterSegment st pos g) := by
  unfold State.enterSegment
  extract_lets p
  split
  · exact OnlyPacks.refl s
  · rfl

theorem State.enterSegment_dram (s : State) (st : FetchStream) (pos : Nat) (g : Segment) : (s.enterSegment st pos g).dram = s.dram := by
  unfold State.enterSegment
  extract_lets p
  split <;> rfl

/-! ## The end of a TOKENIZE (R259, R283) -/

/-- A TOKENIZE counts and ends with its text's status. -/
theorem State.endTokenize_finishes (s : State) (x : Taken) (o : TextOut) (out : List (Nat × Nat)) : ∃ t,
    OnlyReads s t ∧ s.endTokenize x o out = t.finish x o.status 0 out := by
  unfold State.endTokenize
  split
  next misses s1 hfree =>
    extract_lets s2 s3 s4 s5 s6
    have h1 : OnlyReads s s1 := OnlyReads.of_snd hfree s.freshFree_onlyReads
    have h2 : OnlyReads s1 s2 := ((s1.count_onlyReads _ _ _).trans (State.count_onlyReads _ _ _ _)).trans (State.count_onlyReads _ _ _ _)
    have h3 : OnlyReads s2 s3 := ((s2.count_onlyReads _ _ _).trans (State.count_onlyReads _ _ _ _)).trans (State.count_onlyReads _ _ _ _)
    have h4 : OnlyReads s3 s4 := OnlyReads.ite (s3.errAdd_onlyReads _ _) (OnlyReads.refl s3)
    have h5 : OnlyReads s4 s5 := OnlyReads.ite (s4.errAdd_onlyReads _ _) (OnlyReads.refl s4)
    have h6 : OnlyReads s5 s6 := OnlyReads.ite (s5.errAdd_onlyReads _ _) (OnlyReads.refl s5)
    exact ⟨s6, ((((h1.trans h2).trans h3).trans h4).trans h5).trans h6, rfl⟩

/-- From `s`, a TOKENIZE of the descriptor ended in `t` with a status and left DRAM as `m`; vocabularies and rings stay. -/
structure TokenizeEnded (s t : State) (c : CoreId) (tk : Ticket) (status : Nat) (m : Mem) : Prop where
  ended : EndedWith t c tk status 0
  dram : t.dram = m
  vocabs : t.vocabs = s.vocabs
  rings : t.rings = s.rings

/-- A TOKENIZE that ends behind its writes. -/
theorem OnlyPacks.endTokenize_ended {s u : State} {c : CoreId} {tk : Ticket} {x : Taken} (h : OnlyPacks s u)
    (hx : s.takenAt c tk = some x) (o : TextOut) (out : List (Nat × Nat)) :
    TokenizeEnded s (u.endTokenize x o out) c tk o.status u.dram := by
  obtain ⟨t, ht, hend⟩ := u.endTokenize_finishes x o out
  have hpacks : OnlyPacks s t := h.trans ht.onlyStages.onlyPacks
  rw [hend]
  exact ⟨State.finish_endedWith hx hpacks.taken _ _ _, ht.dram, hpacks.vocabs, hpacks.rings⟩

/-! ## Explicit mode (R262, R263) -/

section
variable (s : State) (x : Taken) (v : Vocab) (first last : List Nat)

/-- The most bytes of a text that the descriptor and its recipe take (R256). -/
def State.textMost : Nat := min x.maxIn (s.limitsOf 8 x.ring).bytes

/-- The row of an explicit text: clean, or past the limit. -/
def State.plainRow : TextRow × Nat × Nat := limitRow (.clean, x.fieldAt 0x18 4, 0) (s.textMost x)

/-- What an explicit one-shot TOKENIZE makes of its text. -/
def State.plainText : TextOut :=
  textOut v (x.enc 0) x.tokCut first last (x.tokFlag 5 || (s.limitsOf 8 x.ring).policy == 0) false (s.plainRow x).1
    (if (s.plainRow x).1 = .limit then [] else s.dramBytes (x.fieldAt 0x10 8) (x.fieldAt 0x18 4)) (s.plainRow x).2.2

/-- Within the limit the text is tokenized whole. -/
theorem State.plainText_within (h : x.fieldAt 0x18 4 ≤ s.textMost x) : s.plainText x v first last =
    textOut v (x.enc 0) x.tokCut first last (x.tokFlag 5 || (s.limitsOf 8 x.ring).policy == 0) false .clean
      (s.dramBytes (x.fieldAt 0x10 8) (x.fieldAt 0x18 4)) 0 := by
  have hrow : s.plainRow x = (.clean, x.fieldAt 0x18 4, 0) := if_neg (Nat.not_lt.2 h)
  rw [State.plainText, hrow, if_neg TextRow.noConfusion]

/-- The state once an explicit one-shot TOKENIZE has read its text, or has found it too long. -/
def State.plainReads : State :=
  if (s.plainRow x).1 = .limit then s.errAdd Reg.TOK_ERR_CNT1_LIMIT 1
  else s.engineAccess 8 false (x.fieldAt 0x10 8) (x.fieldAt 0x18 4)

theorem State.plainReads_onlyLogs : OnlyLogs s (s.plainReads x) :=
  OnlyLogs.ite (s.errAdd_onlyLogs _ _) (s.engineAccess_onlyLogs _ _ _ _)

/-- The DRAM that an explicit one-shot TOKENIZE leaves: the tokens behind their record. -/
def State.plainDram : Mem :=
  Mem.store (Mem.store s.dram (x.fieldAt 0x28 8 + 64) (tokenBytes (s.plainText x v first last).tokens)) (x.fieldAt 0x28 8)
    (tokenRecord x (s.plainText x v first last) 0 0 (x.fieldAt 0x28 8 + 64) s.gtc.toNat)

variable {s x} in
theorem State.tokenizeText_ended {c : CoreId} {tk : Ticket} (hx : s.takenAt c tk = some x) :
    TokenizeEnded s (s.tokenizeText x v first last) c tk (s.plainText x v first last).status (s.plainDram x v first last) := by
  have htokens := State.engineWrite_onlyStages (s.plainReads x) 8 (x.fieldAt 0x28 8 + 64) (tokenBytes (s.plainText x v first last).tokens)
  have hgtc := htokens.gtc.trans (s.plainReads_onlyLogs x).gtc
  have hstages := ((s.plainReads_onlyLogs x).onlyReads.onlyStages.trans htokens).trans (State.engineWrite_onlyStages _ 8 (x.fieldAt 0x28 8)
    (tokenRecord x (s.plainText x v first last) 0 0 (x.fieldAt 0x28 8 + 64) s.gtc.toNat))
  have hend := hstages.onlyPacks.endTokenize_ended hx (s.plainText x v first last)
    [(x.fieldAt 0x28 8, 64 + 4 * (s.plainText x v first last).tokens.length)]
  rw [State.engineWrite_dram, State.engineWrite_dram, (s.plainReads_onlyLogs x).dram, ← hgtc] at hend
  rw [State.plainDram, ← hgtc]
  exact hend

end

/-! ## Item mode (R259 to R261, R267) -/

section
variable (s : State) (x : Taken) (v : Vocab) (i : FetchItem) (first last : List Nat)

/-- The row of an item, or the refusal of its length. -/
def State.itemRow : TextRow × Nat × Nat := limitRow (textRow i) (s.textMost x)

/-- The bytes of an item that TOKENIZE reads: from its grist with FRAME 0, else from its output (log entry 65). SKIP reads none. -/
def State.itemInput : List Byte :=
  if x.tokFlag 3 then [] else s.dramBytes (if i.frame = 0 then i.grist else i.out) (s.itemRow x i).2.1

/-- What an item-mode TOKENIZE makes of its item. That SKIP ends with DROPPED is log entry 65. -/
def State.itemText : TextOut :=
  if x.tokFlag 3 then ⟨[], stDROPPED, 0, 0, 0, 0, 0, 0⟩
  else textOut v (x.enc i.codec) x.tokCut first last (x.tokFlag 5 || (s.limitsOf 8 x.ring).policy == 0)
    (x.tokFlag 4 || i.status == stSUBSTITUTED) (s.itemRow x i).1 (s.itemInput x i) (s.itemRow x i).2.2

/-- The home position that an item's segment takes. -/
def Taken.segmentPos : Nat := if x.tokFlag 4 then x.fieldAt 0x28 6 else i.pos

theorem State.itemText_of_row {row : TextRow} {len dmg : Nat} (hrow : s.itemRow x i = (row, len, dmg)) : s.itemText x v i first last =
    if x.tokFlag 3 then ⟨[], stDROPPED, 0, 0, 0, 0, 0, 0⟩
    else textOut v (x.enc i.codec) x.tokCut first last (x.tokFlag 5 || (s.limitsOf 8 x.ring).policy == 0)
      (x.tokFlag 4 || i.status == stSUBSTITUTED) row (s.dramBytes (if i.frame = 0 then i.grist else i.out) len) dmg := by
  rw [State.itemText, State.itemInput, hrow]
  split <;> rfl

end

/-- The segment `g` of an item's text packed, its tokens written, and its record where the descriptor names a place for one. -/
def State.packsSegment (s : State) (x : Taken) (i : FetchItem) (o : TextOut) (st : FetchStream) (g : Segment) : State :=
  let s := (s.enterSegment st (x.segmentPos i) g).engineWrite 8 g.base (tokenBytes o.tokens)
  if x.fieldAt 0x38 8 = 0 then s
  else s.engineWrite 8 (x.fieldAt 0x38 8) (tokenRecord x o i.gsid (x.segmentPos i) g.base s.gtc.toNat)

section
variable (s : State) (x : Taken) (i : FetchItem) (o : TextOut) (st : FetchStream) (g : Segment)

theorem State.packsSegment_onlyPacks : OnlyPacks s (s.packsSegment x i o st g) := by
  unfold State.packsSegment
  extract_lets s1
  have h1 : OnlyPacks s s1 := (s.enterSegment_onlyPacks st _ g).trans (State.engineWrite_onlyStages _ _ _ _).onlyPacks
  split
  · exact h1
  · exact h1.trans (s1.engineWrite_onlyStages _ _ _).onlyPacks

/-- Without a place for the record the tokens are all that is written. -/
theorem State.packsSegment_dram (hrecord : x.fieldAt 0x38 8 = 0) :
    (s.packsSegment x i o st g).dram = Mem.store s.dram g.base (tokenBytes o.tokens) := by
  rw [State.packsSegment, if_pos hrecord, State.engineWrite_dram, State.enterSegment_dram]

end

section
variable {s : State} {x : Taken} {v : Vocab} {i : FetchItem} {first last : List Nat} {st : FetchStream} {h base : Nat} {lowest : Bool}

/-- An item whose stream is open and whose segment finds space in the store is packed there. That the space is the first that fits is
log entry 67. -/
theorem State.tokenizeItem_packs (hstream : s.streamOfItem h i.grist = some st)
    (hlowest : (s.lowestUnpacked st == some (x.segmentPos i)) = lowest)
    (hadmits : s.storeRefuses (segmentBytes (s.itemText x v i first last).tokens) = false) (hturn : s.storeTurn x lowest = true)
    (hrun : s.storeRun (segmentBytes (s.itemText x v i first last).tokens) lowest = some base) : ∃ t g out,
    OnlyPacks s t ∧ t.dram = s.dram ∧ g.base = base ∧ s.tokenizeItem x v h i (x.enc i.codec) first last =
      (t.packsSegment x i (s.itemText x v i first last) st g).endTokenize x (s.itemText x v i first last) out := by
  unfold State.tokenizeItem
  extract_lets limits conceal addr skip subst pos lane aux
  split
  next row len dmg hrow =>
    extract_lets refused input o need s1 s2 ext
    have hitem : s.itemRow x i = (row, len, dmg) := hrow
    have ho : s.itemText x v i first last = o := by rw [State.itemText, State.itemInput, hitem]
    have hserved : OnlyPacks s (s.storeServed x) := rfl
    have h1 : OnlyLogs (s.storeServed x) s1 := State.engineAccess_onlyLogs _ _ _ _ _
    have h2 : OnlyLogs s1 s2 := OnlyLogs.ite (s1.errAdd_onlyLogs _ _) (OnlyLogs.refl s1)
    rw [ho] at hadmits hrun ⊢
    subst hlowest
    have hneed : s.storeRefuses need = false := hadmits
    have hspace : (if s.storeTurn x (s.lowestUnpacked st == some pos) then s.storeRun need (s.lowestUnpacked st == some pos) else none) =
        some base := (if_pos hturn).trans hrun
    refine ⟨s2, ⟨o.tokens, o.status, o.flags, i.gsid, o.dmg, skip, v.pad, v.strings.length, ext, base, need⟩,
      if aux = 0 then [] else [(aux, 64)], hserved.trans (h1.trans h2).onlyReads.onlyStages.onlyPacks, (h1.trans h2).dram, rfl, ?_⟩
    simp only [hstream, hneed, hspace]
    rfl

theorem State.tokenizeItem_ended {c : CoreId} {tk : Ticket} (hx : s.takenAt c tk = some x) (hstream : s.streamOfItem h i.grist = some st)
    (hlowest : (s.lowestUnpacked st == some (x.segmentPos i)) = lowest)
    (hadmits : s.storeRefuses (segmentBytes (s.itemText x v i first last).tokens) = false) (hturn : s.storeTurn x lowest = true)
    (hrun : s.storeRun (segmentBytes (s.itemText x v i first last).tokens) lowest = some base) : ∃ m,
    (x.fieldAt 0x38 8 = 0 → m = Mem.store s.dram base (tokenBytes (s.itemText x v i first last).tokens)) ∧
      TokenizeEnded s (s.tokenizeItem x v h i (x.enc i.codec) first last) c tk (s.itemText x v i first last).status m := by
  obtain ⟨t, g, out, ht, hdram, rfl, hpack⟩ := State.tokenizeItem_packs hstream hlowest hadmits hturn hrun
  have hpacks := ht.trans (t.packsSegment_onlyPacks x i (s.itemText x v i first last) st g)
  rw [hpack]
  exact ⟨_, fun hrecord => hdram ▸ t.packsSegment_dram x i _ st g hrecord, hpacks.endTokenize_ended hx _ out⟩

end

/-! ## The checks of a TOKENIZE (R255, R256, R636) -/

/-- The descriptor passes the checks that both modes share: its vocabulary is resident and stays, its forced sequences exist and its
truncation is sound. -/
structure State.TokenizeAdmitted (s : State) (x : Taken) (v : Vocab) (first last : List Nat) : Prop where
  vocab : Table.find s.vocabs x.vocabSlot = some v
  stays : s.tokenBefore x 3 x.vocabSlot = false
  begins : v.forcedSeq (x.fieldAt 0x34 1) = some first
  ends : v.forcedSeq (x.fieldAt 0x35 1) = some last
  cut : x.tokCut.bad (first.length + last.length) = false
  most : x.maxIn ≤ 67108864

section
variable {s : State} {x : Taken} {v : Vocab} {first last : List Nat} (h : s.TokenizeAdmitted x v first last)
include h

/-- An admitted one-shot text with room for its bound is tokenized, whatever item has its address. -/
theorem State.TokenizeAdmitted.tokenize_text (htext : x.fieldAt 0x18 4 ≠ 0) (hctx : x.fieldAt 0x38 8 = 0) (henc : x.enc 0 ≠ 0)
    (hroom : 64 + 4 * (if x.tokCut.trunc = 0 then x.fieldAt 0x18 4 + (first.length + last.length)
      else min (x.fieldAt 0x18 4 + (first.length + last.length)) x.tokCut.limit) ≤ x.fieldAt 0x30 4) :
    s.tokenize x = s.tokenizeText x v first last := by
  have hbounded : s.tokenizeBounded x v first last (first.length + last.length) = s.tokenizeText x v first last :=
    if_neg (Nat.not_lt.2 hroom)
  obtain ⟨hvocab, hstays, hbegins, hends, hcut, hmost⟩ := h
  have hmost' : decide (67108864 < x.maxIn) = false := decide_eq_false (Nat.not_lt.2 hmost)
  have htext' : (x.fieldAt 0x18 4 == 0) = false := beq_eq_false_iff_ne.2 htext
  have henc' : (x.enc 0 == 0) = false := beq_eq_false_iff_ne.2 henc
  simp only [State.tokenize, hvocab, hstays, hbegins, hends, hcut, hmost', hctx, htext', henc', hbounded,
    Bool.false_and, Bool.not_false, Bool.true_and, bne_self_eq_false, Bool.or_self, Bool.false_eq_true, if_false]
  split <;> rfl

/-- An admitted TOKENIZE without a length takes the live item that it names. -/
theorem State.TokenizeAdmitted.tokenize_item {i : FetchItem} {e : Nat × Recipe} (hitem : x.fieldAt 0x18 4 = 0)
    (hlive : s.textItem x = some i) (henc : x.enc i.codec ≠ 0) (hrecipe : s.recipeOfRing 8 x.ring = some e) :
    s.tokenize x = s.tokenizeItem x v e.1 i (x.enc i.codec) first last := by
  obtain ⟨hvocab, hstays, hbegins, hends, hcut, hmost⟩ := h
  have hmost' : decide (67108864 < x.maxIn) = false := decide_eq_false (Nat.not_lt.2 hmost)
  have henc' : (x.enc i.codec == 0) = false := beq_eq_false_iff_ne.2 henc
  simp only [State.tokenize, hvocab, hstays, hbegins, hends, hcut, hmost', hitem, henc', hlive, hrecipe]
  rfl

end

end Sys2Proof.Machine

/-!
SUPPORT. The statement on vocabularies and TOKENIZE (R249 to R263).
-/

namespace Sys2Proof.Machine

/-! ## The commands, on the descriptor that runs for them -/

section
variable {c : CoreId} {tk : Ticket} {s : State} {x : Taken} (hruns : s.engineRuns 8 = true)
include hruns

theorem execTokenize_runs (hx : s.running c tk 8 0x01 = some x) : exec (.tokenize c tk) s = .next (s.tokenize x) := by
  change execTokenize c tk s = _
  simp only [execTokenize, hx, hruns, if_true]

theorem execVocabLoad_runs (hx : s.running c tk 8 0x02 = some x) : exec (.vocabLoad c tk) s = .next (s.vocabLoad x) := by
  change execVocabLoad c tk s = _
  simp only [execVocabLoad, hx, hruns, if_true]

theorem execVocabUnload_runs (hx : s.running c tk 8 0x03 = some x) : exec (.vocabUnload c tk) s = .next (s.vocabUnload x) := by
  change execVocabUnload c tk s = _
  simp only [execVocabUnload, hx, hruns, if_true]

end

/-- Settles O28: the loads and unloads by the vocabularies that they leave resident (`withVocabs`), TOKENIZE by the run that its
checks let pass (`TokenizeAdmitted`) and what that run leaves (`TokenizeEnded`). -/
theorem tokenizing : Obligations.Tokenizing := by
  unfold Obligations.Tokenizing
  refine ⟨fun c tk s x hruns => ⟨fun v hx hslot hparse harea => ?_, fun hx hslot => ?_, fun hx hslot hidle => ?_⟩,
    fun c tk s x v first last hx hruns hvocab hstays hbegins hends hcut hmost => ⟨fun htext hctx henc hroom => ?_,
      fun i h r st row len dmg o lowest base hitem hlive henc hrecipe hstream hrow ho hlowest hadmits hturn hrun => ?_⟩⟩
  · have hexec := execVocabLoad_runs hruns hx
    rw [State.vocabLoad_loads hslot hparse harea] at hexec
    obtain ⟨hended, hvocabs, hdram⟩ := State.withVocabs_ends (State.running_takenAt hx).1 (s.trieWritten_onlyStages x v).taken
      (x.fieldAt 0x10 1 % 16) (Table.put s.vocabs (x.fieldAt 0x10 1 % 16) v) stOK 0 []
    refine ⟨_, hexec, hended, by rw [hvocabs, Table.find_put, if_pos rfl], fun k hk => by rw [hvocabs, Table.find_put, if_neg hk],
      fun a ha => ?_⟩
    rw [hdram, State.trieWritten_dram, Mem.get_store_outside _ (by rwa [State.trieBytes_length])]
  · have hexec := execVocabLoad_runs hruns hx
    rw [State.vocabLoad_busy hslot] at hexec
    exact ⟨_, hexec, State.finish_endedWith (State.running_takenAt hx).1 rfl _ _ _, rfl, rfl⟩
  · have hexec := execVocabUnload_runs hruns hx
    rw [State.vocabUnload_unloads hslot hidle] at hexec
    obtain ⟨hended, hvocabs, hdram⟩ := State.withVocabs_ends (State.running_takenAt hx).1 rfl x.vocabSlot
      (Table.drop s.vocabs x.vocabSlot) stOK 0 []
    exact ⟨_, hexec, hended, by rw [hvocabs, Table.find_drop, if_pos rfl], hdram⟩
  · have hadmitted : s.TokenizeAdmitted x v first last := ⟨hvocab, hstays, hbegins, hends, hcut, hmost⟩
    have hexec := execTokenize_runs hruns hx
    rw [hadmitted.tokenize_text htext hctx henc hroom] at hexec
    have hend := State.tokenizeText_ended v first last (State.running_takenAt hx).1
    exact ⟨_, s.plainText x v first last, hexec, hend.ended, s.plainText_within x v first last, hend.dram, hend.vocabs, hend.rings,
      s.tokenizeText_cores x v first last⟩
  · have hadmitted : s.TokenizeAdmitted x v first last := ⟨hvocab, hstays, hbegins, hends, hcut, hmost⟩
    obtain rfl : s.itemText x v i first last = o := (s.itemText_of_row x v i first last hrow).trans ho
    have hexec := execTokenize_runs hruns hx
    rw [hadmitted.tokenize_item hitem hlive henc hrecipe] at hexec
    obtain ⟨m, hm, hend⟩ := State.tokenizeItem_ended (State.running_takenAt hx).1 hstream hlowest hadmits hturn hrun
    exact ⟨_, hexec, hend.ended, hend.vocabs, hend.rings, fun hrecord => hend.dram.trans (hm hrecord)⟩

end Sys2Proof.Machine

/-!
SUPPORT. The translation engine's appends: what a record, the answers it releases, a superblock's opening and the rounds leave as
they are (R326 to R332, R340, R342).
-/

namespace Sys2Proof.Machine

/-! ## States that differ by the work of the media -/

/-- `t` is `s` but for the media and their engine, the descriptors and host commands these answer, and what logging touches. -/
def OnlyMedia (s t : State) : Prop := OnlyReads s { t with host := s.host, qct := s.qct, taken := s.taken }

theorem OnlyMedia.refl (s : State) : OnlyMedia s s := rfl

theorem OnlyMedia.trans {s t u : State} (h : OnlyMedia s t) (g : OnlyMedia t u) : OnlyMedia s u := by
  unfold OnlyMedia OnlyReads OnlyLogs at *
  rw [← h, ← g]

theorem OnlyReads.onlyMedia {s t : State} (h : OnlyReads s t) : OnlyMedia s t := by
  unfold OnlyMedia OnlyReads OnlyLogs at *
  rw [← h]

theorem OnlyHost.onlyMedia {s t : State} (h : OnlyHost s t) : OnlyMedia s t := by
  unfold OnlyMedia OnlyReads OnlyHost OnlyLogs at *
  rw [← h]

section
variable {s t : State} (h : OnlyMedia s t)
include h

theorem OnlyMedia.dram : t.dram = s.dram := OnlyReads.dram (t := { t with host := s.host, qct := s.qct, taken := s.taken }) h
theorem OnlyMedia.rings : t.rings = s.rings := OnlyReads.rings (t := { t with host := s.host, qct := s.qct, taken := s.taken }) h
theorem OnlyMedia.cores : t.cores = s.cores := OnlyReads.cores (t := { t with host := s.host, qct := s.qct, taken := s.taken }) h

end

/-- What appending records leaves of the media and their engine: the codewords, the dies, JSEQ and the bytes of journal since START. -/
def State.written (s : State) : Table Codeword × Table Die × Nat × Nat := (s.flash.nand, s.flash.dies, s.ftl.jseq, s.ftl.flashed)

/-- `t` is `s` but for the work of the media, and nothing was programmed or retired from `s` to `t`. -/
structure OnlyRecords (s t : State) : Prop where
  media : OnlyMedia s t
  written : t.written = s.written

theorem OnlyRecords.refl (s : State) : OnlyRecords s s := ⟨.refl s, rfl⟩

theorem OnlyRecords.trans {s t u : State} (h : OnlyRecords s t) (g : OnlyRecords t u) : OnlyRecords s u :=
  ⟨h.media.trans g.media, g.written.trans h.written⟩

theorem OnlyRecords.ite {s a b : State} {c : Prop} [Decidable c] (ha : OnlyRecords s a) (hb : OnlyRecords s b) :
    OnlyRecords s (if c then a else b) := by
  split
  · exact ha
  · exact hb

theorem OnlyRecords.foldl {α : Type} {f : State → α → State} (hf : ∀ s a, OnlyRecords s (f s a)) (l : List α) (s : State) :
    OnlyRecords s (l.foldl f s) :=
  List.foldlRecOn (motive := OnlyRecords s) l f (OnlyRecords.refl s) fun t ht a _ => ht.trans (hf t a)

/-- The state of an answer named by a match. -/
theorem OnlyRecords.of_snd {α : Type} {s t : State} {e : α × State} {a : α} (he : e = (a, t)) (h : OnlyRecords s e.2) : OnlyRecords s t := by
  subst he
  exact h

theorem OnlyLogs.onlyRecords {s t : State} (h : OnlyLogs s t) : OnlyRecords s t :=
  ⟨h.onlyReads.onlyMedia, by rw [State.written, h.flash, h.ftl, State.written]⟩

theorem OnlyHost.onlyRecords {s t : State} (h : OnlyHost s t) : OnlyRecords s t :=
  ⟨h.onlyMedia, h.proj State.written⟩

section
variable {s t : State} (h : OnlyRecords s t)
include h

theorem OnlyRecords.nand : t.flash.nand = s.flash.nand := congrArg (·.1) h.written
theorem OnlyRecords.dies : t.flash.dies = s.flash.dies := congrArg (·.2.1) h.written
theorem OnlyRecords.jseq : t.ftl.jseq = s.ftl.jseq := congrArg (·.2.2.1) h.written
theorem OnlyRecords.flashed : t.ftl.flashed = s.ftl.flashed := congrArg (·.2.2.2) h.written

end

section
variable (s : State)

theorem State.count_onlyRecords (u k n : Nat) : OnlyRecords s (s.count u k n) := (s.count_onlyLogs u k n).onlyRecords
theorem State.setFld_onlyRecords (f : Fld) (v : Nat) : OnlyRecords s (s.setFld f v) := (s.setFld_onlyLogs f v).onlyRecords

/-! ## The effect of a record (R326, R327, R331) -/

theorem State.answer_onlyRecords (a : Asker) (status detail : Nat) : OnlyRecords s (s.answer a status detail) := by
  cases a with
  | desc c t =>
    unfold State.answer
    dsimp only
    split
    · exact OnlyRecords.ite ⟨rfl, rfl⟩ (OnlyRecords.refl s)
    · exact OnlyRecords.refl s
  | nvme fn sqid cid => exact (s.nvmeComplete_onlyHost fn sqid cid 0 (nvmeOf status)).onlyRecords
  | ring ref => exact (s.completeCommand_onlyHost ref 0 status []).onlyRecords

theorem State.setMap_onlyRecords (space lua : Nat) (v : Option Nat) : OnlyRecords s (s.setMap space lua v) :=
  OnlyRecords.ite ⟨rfl, rfl⟩ ⟨rfl, rfl⟩

theorem State.unmap_onlyRecords (space lua n : Nat) : OnlyRecords s (s.unmap space lua n) :=
  OnlyRecords.foldl (fun t k => t.setMap_onlyRecords space (k - mapKey space 0) none) _ s

theorem State.applyRecord_onlyRecords (r : JRecord) : OnlyRecords s (s.applyRecord r) := by
  unfold State.applyRecord
  refine OnlyRecords.ite (s.setMap_onlyRecords _ _ _) (OnlyRecords.ite (OnlyRecords.ite (s.setMap_onlyRecords _ _ _) (OnlyRecords.refl s))
    (OnlyRecords.ite (s.unmap_onlyRecords _ _ _) (OnlyRecords.ite (OnlyRecords.ite (OnlyRecords.refl s) ⟨rfl, rfl⟩)
      (OnlyRecords.ite ?member (OnlyRecords.ite ?close (OnlyRecords.ite ⟨rfl, rfl⟩ (OnlyRecords.ite ?space (OnlyRecords.refl s))))))))
  case member =>
    split
    · exact ⟨rfl, rfl⟩
    · exact OnlyRecords.refl s
  case close =>
    split
    · exact ⟨rfl, rfl⟩
    · exact OnlyRecords.refl s
  case space => exact ⟨rfl, rfl⟩

theorem State.showJournal_onlyRecords : OnlyRecords s s.showJournal := ⟨rfl, rfl⟩

theorem State.unitDone_onlyRecords (w : Option Nat) : OnlyRecords s (s.unitDone w) := by
  unfold State.unitDone
  split
  next x _ =>
    extract_lets fs s1
    have h1 : OnlyRecords s s1 := ⟨rfl, rfl⟩
    exact OnlyRecords.ite (h1.trans (s1.answer_onlyRecords _ _ _)) ⟨rfl, rfl⟩
  · exact OnlyRecords.refl s

theorem State.appendNow_onlyRecords (r : JRecord) (w : Option Nat) : OnlyRecords s (s.appendNow r w) := by
  unfold State.appendNow
  extract_lets f s1
  have h1 : OnlyRecords s s1 := ⟨rfl, rfl⟩
  exact ((h1.trans (s1.applyRecord_onlyRecords r)).trans (State.showJournal_onlyRecords _)).trans (State.unitDone_onlyRecords _ w)

theorem State.append_onlyRecords (r : JRecord) (w : Option Nat) : OnlyRecords s (s.append r w) :=
  OnlyRecords.ite (OnlyRecords.refl s) (OnlyRecords.ite (s.appendNow_onlyRecords r w) ⟨rfl, rfl⟩)

theorem State.drainWaiting_onlyRecords (k : Nat) : OnlyRecords s (s.drainWaiting k) := by
  induction k generalizing s with
  | zero => exact OnlyRecords.refl s
  | succ k ih =>
    unfold State.drainWaiting
    split
    · exact OnlyRecords.refl s
    next r w rest _ =>
      have h1 : OnlyRecords s { s with ftl := { s.ftl with waiting := rest } } := ⟨rfl, rfl⟩
      exact OnlyRecords.ite ((h1.trans (State.appendNow_onlyRecords _ r w)).trans (ih _)) (OnlyRecords.refl s)

/-! ## Superblocks and rounds (R297, R330 to R332) -/

theorem OnlyRecords.snd_ite {α : Type} {s : State} {c : Prop} [Decidable c] {a b : α × State} (ha : OnlyRecords s a.2)
    (hb : OnlyRecords s b.2) : OnlyRecords s (if c then a else b).2 := by
  split
  · exact ha
  · exact hb

theorem State.openSuperblock_onlyRecords (st : WriteStream) : OnlyRecords s (s.openSuperblock st).2 := by
  unfold State.openSuperblock
  extract_lets members n seq rot fl s1 s2 s3 s4 s5 s6
  have h3 : OnlyRecords s s3 := ⟨rfl, rfl⟩
  have h4 : OnlyRecords s s4 := h3.trans (s3.append_onlyRecords _ none)
  have h5 : OnlyRecords s s5 := h4.trans (OnlyRecords.foldl (fun t e => t.append_onlyRecords _ none) _ s4)
  exact OnlyRecords.snd_ite (OnlyRecords.refl s) (h5.trans ⟨rfl, rfl⟩)

theorem State.setStream_onlyRecords (st : WriteStream) (o : OpenStream) : OnlyRecords s (s.setStream st o) := by
  cases st <;> exact ⟨rfl, rfl⟩

theorem State.fillRound_onlyRecords (st : WriteStream) (k : Nat) : OnlyRecords s (s.fillRound st k) := by
  induction k generalizing s with
  | zero => exact OnlyRecords.refl s
  | succ k ih =>
    unfold State.fillRound
    extract_lets o
    refine OnlyRecords.ite (OnlyRecords.refl s) ?_
    split
    · exact OnlyRecords.refl s
    · exact OnlyRecords.ite (s.setStream_onlyRecords st _) ((s.setStream_onlyRecords st _).trans (ih _))
    · split
      next n t e =>
        have ht : OnlyRecords s t := OnlyRecords.of_snd e (s.openSuperblock_onlyRecords st)
        have hseq : OnlyRecords t { t with ftl := { t.ftl with nextSeq := t.ftl.nextSeq + 16 } } := ⟨rfl, rfl⟩
        exact ((ht.trans hseq).trans (State.setStream_onlyRecords _ st _)).trans (ih _)
      next t e => exact OnlyRecords.of_snd e (s.openSuperblock_onlyRecords st)

theorem State.reportUnit_onlyRecords (st : WriteStream) (u : WriteUnit) : OnlyRecords s (s.reportUnit st u) := by
  unfold State.reportUnit
  split
  · exact (s.count_onlyRecords _ _ _).trans (State.append_onlyRecords _ _ _)
  · exact (s.count_onlyRecords _ _ _).trans (State.append_onlyRecords _ _ _)
  · exact OnlyRecords.refl s

theorem State.closeSb_onlyRecords (n : Nat) : OnlyRecords s (s.closeSb n) := ⟨rfl, rfl⟩

theorem State.endRound_onlyRecords (st : WriteStream) : OnlyRecords s (s.endRound st) := by
  unfold State.endRound
  extract_lets o full o' f s1
  split
  · exact OnlyRecords.refl s
  next n _ =>
    extract_lets s2
    have hseq : OnlyRecords s { s with ftl := { f with nextSeq := f.nextSeq + 16 } } := ⟨rfl, rfl⟩
    have h1 : OnlyRecords s s1 := hseq.trans (State.setStream_onlyRecords _ st o')
    have h2 : OnlyRecords s1 s2 := OnlyRecords.ite (s1.closeSb_onlyRecords n) (OnlyRecords.refl s1)
    exact (h1.trans h2).trans (s2.fillRound_onlyRecords st _)

/-! ## The META stream and what becomes durable (R328, R330, R340, R350) -/

theorem State.prepareMeta_onlyRecords : OnlyRecords s s.prepareMeta := by
  unfold State.prepareMeta
  refine OnlyRecords.ite ?_ (OnlyRecords.refl s)
  split
  next n t e => exact (OnlyRecords.of_snd e (s.openSuperblock_onlyRecords .metadata)).trans ⟨rfl, rfl⟩
  next t e => exact OnlyRecords.of_snd e (s.openSuperblock_onlyRecords .metadata)

theorem State.advanceMeta_onlyRecords : OnlyRecords s s.advanceMeta := by
  unfold State.advanceMeta
  extract_lets stripe s1
  have h1 : OnlyRecords s s1 := by
    unfold s1
    split
    · exact s.closeSb_onlyRecords _
    · exact OnlyRecords.refl s
  exact OnlyRecords.ite (h1.trans ⟨rfl, rfl⟩) ⟨rfl, rfl⟩

theorem State.countFree_onlyRecords (v0 : Bool) : OnlyRecords s (s.countFree v0) := by
  unfold State.countFree
  extract_lets s1 fl s2
  have h1 : OnlyRecords s s1 := s.setFld_onlyRecords _ _
  have h2 : OnlyRecords s1 s2 := OnlyRecords.ite ⟨rfl, rfl⟩ (OnlyRecords.refl s1)
  exact (h1.trans h2).trans (OnlyRecords.ite (s2.setFlag_onlyLogs _ _).onlyRecords (OnlyRecords.refl s2))

theorem State.settleDurable_onlyRecords : OnlyRecords s s.settleDurable := by
  unfold State.settleDurable
  extract_lets d ready f1 s1 s2 shut f3 s3 s4 freed f5 s5 s6
  have h1 : OnlyRecords s s1 := ⟨rfl, rfl⟩
  have h2 : OnlyRecords s1 s2 := OnlyRecords.foldl (fun t y => t.answer_onlyRecords _ _ _) ready s1
  have h3 : OnlyRecords s2 s3 := ⟨rfl, rfl⟩
  have h4 : OnlyRecords s3 s4 := OnlyRecords.foldl (fun t e => t.append_onlyRecords _ _) shut s3
  have h5 : OnlyRecords s4 s5 := ⟨rfl, rfl⟩
  have h6 : OnlyRecords s5 s6 := OnlyRecords.foldl (fun t e => t.countFree_onlyRecords _) freed s5
  exact (((((h1.trans h2).trans h3).trans h4).trans h5).trans h6).trans (s6.drainWaiting_onlyRecords _)

end

end Sys2Proof.Machine

/-!
SUPPORT. Programs on the medium: the places of codewords, a wordline's codewords, a META stripe, and the retirement of a block
(R293, R296, R298, R299, R305, R308).
-/

namespace Sys2Proof.Machine

/-! ## Places (R322) -/

theorem cwKey_block {b page plane cw : Nat} (d : Nat) (hpage : page < 4096) (hplane : plane < 4) (hcw : cw < 4) :
    cwKey d b page plane cw / 65536 = blockKey d b := by
  unfold cwKey blockKey
  omega

theorem cwKey_injective {d b page plane cw page' plane' cw' : Nat} (hplane : plane < 4) (hcw : cw < 4) (hplane' : plane' < 4)
    (hcw' : cw' < 4) (h : cwKey d b page plane cw = cwKey d b page' plane' cw') : page = page' ∧ plane = plane' ∧ cw = cw' := by
  unfold cwKey at h
  omega

theorem blockKey_injective {d b d' b' : Nat} (hb : b < 8192) (hb' : b' < 8192) (h : blockKey d b = blockKey d' b') : (d, b) = (d', b') := by
  unfold blockKey at h
  exact Prod.ext (by dsimp only; omega) (by dsimp only; omega)

theorem State.locAddr_packLoc {s : State} {n m page plane cw d b : Nat} {x : Superblock}
    (hsb : Table.find s.ftl.superblocks n = some x) (hmember : x.members[m]? = some (d, b)) (hm : m < 32) (hpage : page < 4096)
    (hplane : plane < 4) (hcw : cw < 4) : s.locAddr (packLoc n m page plane cw) = some ⟨d, b, page, plane, cw⟩ := by
  have hn : locSb (packLoc n m page plane cw) = n := by unfold locSb packLoc; omega
  have hm' : locMember (packLoc n m page plane cw) = m := by unfold locMember packLoc; omega
  have hp : packLoc n m page plane cw / 16 % 4096 = page := by unfold packLoc; omega
  have hq : packLoc n m page plane cw / 4 % 4 = plane := by unfold packLoc; omega
  have hc : packLoc n m page plane cw % 4 = cw := by unfold packLoc; omega
  simp only [State.locAddr, hn, hm', hsb, hmember, hp, hq, hc]

/-! ## Codewords programmed at their places -/

section
variable {s : State} {ws : List (Nat × Codeword)} {k : Nat}

theorem State.programWords_onlyReads (s : State) (ws : List (Nat × Codeword)) : OnlyReads s (s.programWords ws) := by
  refine OnlyReads.foldl (fun t e => ?_) ws s
  split
  · exact OnlyReads.ofFlash t _
  · exact OnlyReads.refl t

theorem State.programWords_ftl (s : State) (ws : List (Nat × Codeword)) : (s.programWords ws).ftl = s.ftl := by
  refine foldl_keeps State.ftl (fun t e _ => ?_) s
  split <;> rfl

/-- One codeword programmed. -/
theorem State.programWords_cons_nand (s : State) (e : Nat × Codeword) (ws : List (Nat × Codeword)) :
    ∃ u : State, s.programWords (e :: ws) = u.programWords ws ∧ (∀ l, u.locAddr l = s.locAddr l) ∧
      ∀ k, Table.find u.flash.nand k = if (s.locAddr e.1).map CwAddr.key = some k then some e.2 else Table.find s.flash.nand k := by
  cases ha : s.locAddr e.1 with
  | none =>
    refine ⟨s, ?_, fun _ => rfl, fun k => rfl⟩
    rw [State.programWords, List.foldl_cons, ha, State.programWords]
  | some a =>
    refine ⟨{ s with flash := { s.flash with
      nand := Table.put s.flash.nand a.key e.2, health := Table.drop s.flash.health a.key } }, ?_, fun _ => rfl, fun k => ?_⟩
    · rw [State.programWords, List.foldl_cons, ha, State.programWords]
    · simp only [Table.find_put, Option.map_some, Option.some.injEq, eq_comm]

/-- A place that no codeword of the program goes to stays. -/
theorem State.programWords_elsewhere (h : ∀ e ∈ ws, (s.locAddr e.1).map CwAddr.key ≠ some k) :
    Table.find (s.programWords ws).flash.nand k = Table.find s.flash.nand k := by
  induction ws generalizing s with
  | nil => rfl
  | cons e ws ih =>
    obtain ⟨he, hws⟩ := List.forall_mem_cons.1 h
    obtain ⟨u, hu, hloc, hnand⟩ := s.programWords_cons_nand e ws
    rw [hu, ih (fun f hf => by rw [hloc]; exact hws f hf), hnand, if_neg he]

/-- A place holds what every codeword that goes to it says, once one does. -/
theorem State.programWords_placed {w : Codeword} (hsome : ∃ e ∈ ws, (s.locAddr e.1).map CwAddr.key = some k)
    (hall : ∀ e ∈ ws, (s.locAddr e.1).map CwAddr.key = some k → e.2 = w) : Table.find (s.programWords ws).flash.nand k = some w := by
  induction ws generalizing s with
  | nil => simp at hsome
  | cons e ws ih =>
    obtain ⟨he, hws⟩ := List.forall_mem_cons.1 hall
    obtain ⟨u, hu, hloc, hnand⟩ := s.programWords_cons_nand e ws
    rw [hu]
    by_cases hlater : ∃ f ∈ ws, (u.locAddr f.1).map CwAddr.key = some k
    · exact ih hlater fun f hf => by rw [hloc]; exact hws f hf
    · have hfirst : (s.locAddr e.1).map CwAddr.key = some k := by
        obtain ⟨f, hf, hfk⟩ := hsome
        rcases List.mem_cons.1 hf with rfl | hf
        · exact hfk
        · exact absurd ⟨f, hf, by rw [hloc]; exact hfk⟩ hlater
      rw [State.programWords_elsewhere (fun f hf hfk => hlater ⟨f, hf, hfk⟩), hnand, if_pos hfirst, he hfirst]

end

/-! ## A wordline (R298) -/

/-- The codeword of a wordline in stripe `j` of its round. -/
def wordlineWord (n w : Nat) (o : OpenStream) (m j cw : Nat) : Codeword :=
  let loc (i : Nat) : Nat := packLoc n i (4 * o.round + j / 4) (j % 4) cw
  let pm := parityMember n (stripeNumber (4 * o.round + j / 4) (j % 4)) w
  if m = pm then parityWord (((List.range w).filter (· != pm)).map (fun i => roundWord o (loc i))) (2 ^ w - 1) (o.seqBase + j)
  else roundWord o (loc m)

theorem mem_wordline {n w m : Nat} {o : OpenStream} {e : Nat × Codeword} : e ∈ wordline n w o m ↔
    ∃ j, j < 16 ∧ ∃ cw, cw < 4 ∧ (packLoc n m (4 * o.round + j / 4) (j % 4) cw, wordlineWord n w o m j cw) = e := by
  simp only [wordline, List.mem_flatMap, List.mem_map, List.mem_range, wordlineWord]

section
variable {s : State} {o : OpenStream} {n m d b : Nat} {x : Superblock} (hsb : Table.find s.ftl.superblocks n = some x)
  (hmember : x.members[m]? = some (d, b)) (hm : m < 32) (hround : 4 * o.round + 4 ≤ 4096)
include hsb hmember hm hround

theorem State.wordline_key {j cw : Nat} (hj : j < 16) (hcw : cw < 4) :
    (s.locAddr (packLoc n m (4 * o.round + j / 4) (j % 4) cw)).map CwAddr.key =
      some (cwKey d b (4 * o.round + j / 4) (j % 4) cw) := by
  rw [State.locAddr_packLoc hsb hmember hm (by omega) (by omega) hcw]
  rfl

theorem State.programWordline_placed (w : Nat) {j cw : Nat} (hj : j < 16) (hcw : cw < 4) :
    Table.find (s.programWords (wordline n w o m)).flash.nand (cwKey d b (4 * o.round + j / 4) (j % 4) cw) =
      some (wordlineWord n w o m j cw) := by
  refine State.programWords_placed ⟨_, mem_wordline.2 ⟨j, hj, cw, hcw, rfl⟩, State.wordline_key hsb hmember hm hround hj hcw⟩
    fun e he hk => ?_
  obtain ⟨j', hj', cw', hcw', rfl⟩ := mem_wordline.1 he
  rw [State.wordline_key hsb hmember hm hround hj' hcw'] at hk
  obtain ⟨hpage, hplane, rfl⟩ := cwKey_injective (by omega) hcw' (by omega) hcw (Option.some.inj hk)
  obtain rfl : j' = j := by omega
  rfl

theorem State.programWordline_elsewhere (w : Nat) {k : Nat} (hk : k / 65536 ≠ blockKey d b) :
    Table.find (s.programWords (wordline n w o m)).flash.nand k = Table.find s.flash.nand k := by
  refine State.programWords_elsewhere fun e he heq => hk ?_
  obtain ⟨j, hj, cw, hcw, rfl⟩ := mem_wordline.1 he
  rw [State.wordline_key hsb hmember hm hround hj hcw] at heq
  rw [← Option.some.inj heq, cwKey_block d (by omega) (by omega) hcw]

end

/-! ## Retired blocks (R305, R307, R308) -/

/-- The retired blocks of a die. -/
def State.retiredOf (s : State) (d : Nat) : Option (List (Nat × Word64)) := (s.die d).map (·.retired)

theorem State.blockRetired_eq (s : State) (d b : Nat) :
    s.blockRetired d b = ((s.retiredOf d).map (·.any (fun r => r.1 == b))).getD true := by
  unfold State.blockRetired State.retiredOf
  cases s.die d <;> rfl

/-- The codewords on the medium and the retired blocks. -/
def State.cells (s : State) : Table Codeword × (Nat → Option (List (Nat × Word64))) := (s.flash.nand, s.retiredOf)

theorem OnlyRecords.cells {s t : State} (h : OnlyRecords s t) : t.cells = s.cells := by
  have hretired : t.retiredOf = s.retiredOf := by
    funext d
    rw [State.retiredOf, State.die, h.dies, State.retiredOf, State.die]
  rw [State.cells, h.nand, hretired, State.cells]

theorem cells_ite {s a b : State} {c : Prop} [Decidable c] (ha : a.cells = s.cells) (hb : b.cells = s.cells) :
    (if c then a else b).cells = s.cells := by
  split
  · exact ha
  · exact hb

/-- A table whose values change but for what `f` reads of them. -/
theorem Table.find_map_value {α β : Type} {f : α → β} {g : Nat × α → α} (hg : ∀ e, f (g e) = f e.2) (t : Table α) (k : Nat) :
    (Table.find (t.map (fun e => (e.1, g e))) k).map f = (Table.find t k).map f := by
  have hkey : (fun e : Nat × α => e.1 == k) ∘ (fun e => (e.1, g e)) = fun e => e.1 == k := rfl
  rw [Table.find, Table.find, List.find?_map, hkey]
  cases List.find? (fun e => e.1 == k) t with
  | none => rfl
  | some e => exact congrArg some (hg e)

section
variable (s : State)

theorem State.setDie_retiredOf (d e : Nat) (x : Die) : (s.setDie d x).retiredOf e = if e = d then some x.retired else s.retiredOf e := by
  rw [State.retiredOf, State.die, State.setDie, Table.find_put]
  split <;> rfl

theorem State.repopulate_cells : s.repopulate.cells = s.cells := by
  have hretired : s.repopulate.retiredOf = s.retiredOf := by
    funext d
    refine Table.find_map_value (f := Die.retired) (fun e => ?_) s.flash.dies d
    split <;> rfl
  have hnand : s.repopulate.flash.nand = s.flash.nand := by simp only [State.repopulate, State.setFlag, State.setFld, State.setReg_flash]
  rw [State.cells, hnand, hretired, State.cells]

theorem State.failChannel_cells (ch : Nat) : (s.failChannel ch).cells = s.cells := by
  unfold State.failChannel
  extract_lets held fl s1
  exact cells_ite rfl (State.repopulate_cells _)

theorem State.dieDead_cells (d : Nat) : (s.dieDead d).cells = s.cells := by
  unfold State.dieDead
  split
  next x hx =>
    extract_lets s1 fl s2 s3 ch
    have h1 : s1.retiredOf = s.retiredOf := by
      funext e
      rw [State.setDie_retiredOf]
      split
      next he => rw [he, State.retiredOf, hx]; rfl
      · rfl
    have h3 : s3.cells = s.cells := Prod.ext rfl h1
    exact cells_ite rfl (cells_ite h3 ((s3.failChannel_cells ch).trans h3))
  · rfl

theorem State.askRefresh_cells (d b : Nat) : (s.askRefresh d b).cells = s.cells := by
  unfold State.askRefresh
  split <;> rfl

/-- What retiring a block does: it is retired, and the medium keeps its codewords. -/
theorem State.retireBlock_retires (d b : Nat) :
    (s.retireBlock d b).blockRetired d b = true ∧ (s.retireBlock d b).flash.nand = s.flash.nand := by
  unfold State.retireBlock
  split
  next x hx =>
    split
    next h => exact ⟨by rw [State.blockRetired, hx]; exact h, rfl⟩
    · extract_lets y s1 recent s2
      have h1 : s1.cells = (s.setDie d y).cells := (s.setDie d y).askRefresh_cells d b
      have h2 : s2.cells = s1.cells := cells_ite (s1.dieDead_cells d) rfl
      have h3 : s2.checkReadOnly.cells = s2.cells := cells_ite rfl rfl
      have hcells : s2.checkReadOnly.cells = (s.setDie d y).cells := h3.trans (h2.trans h1)
      have hretired : s2.checkReadOnly.retiredOf d = some y.retired :=
        (congrFun (congrArg Prod.snd hcells) d).trans ((s.setDie_retiredOf d d y).trans (if_pos rfl))
      refine ⟨?_, congrArg Prod.fst hcells⟩
      rw [State.blockRetired_eq, hretired]
      simp [y]
  next hx => exact ⟨by rw [State.blockRetired, hx], rfl⟩

end

/-! ## A META stripe (R299, R330) -/

/-- The member that a META unit goes to where `pm` is the stripe's parity member. -/
def metaMember (pm : Nat) : Nat := if pm = 0 then 1 else 0

theorem metaMember_ne (pm : Nat) : metaMember pm ≠ pm := by unfold metaMember; split <;> omega
theorem metaMember_le (pm : Nat) : metaMember pm ≤ 1 := by unfold metaMember; split <;> omega

/-- The codewords of a META unit's page: the unit, and filler behind it. -/
def State.metaWord (s : State) (kind space lua : Nat) (data : List Byte) (cw : Nat) : Codeword :=
  if cw = 0 then ⟨data, oobBytes data lua kind space s.ftl.nextSeq, []⟩
  else ⟨fillerData, oobBytes fillerData 0 kindFiller 0 s.ftl.nextSeq, []⟩

/-- The codewords of a META unit's stripe on superblock `n` with parity member `pm`. -/
def State.metaWords (s : State) (n pm kind space lua : Nat) (data : List Byte) : List (Nat × Codeword) :=
  (List.range 4).flatMap (fun cw =>
    [(packLoc n (metaMember pm) (s.ftl.metaStripe / 4) (s.ftl.metaStripe % 4) cw, s.metaWord kind space lua data cw),
      (packLoc n pm (s.ftl.metaStripe / 4) (s.ftl.metaStripe % 4) cw,
        parityWord [s.metaWord kind space lua data cw] (2 ^ metaMember pm) s.ftl.nextSeq)])

theorem State.mem_metaWords {s : State} {n pm kind space lua : Nat} {data : List Byte} {e : Nat × Codeword} :
    e ∈ s.metaWords n pm kind space lua data ↔ ∃ cw, cw < 4 ∧
      (e = (packLoc n (metaMember pm) (s.ftl.metaStripe / 4) (s.ftl.metaStripe % 4) cw, s.metaWord kind space lua data cw) ∨
        e = (packLoc n pm (s.ftl.metaStripe / 4) (s.ftl.metaStripe % 4) cw,
          parityWord [s.metaWord kind space lua data cw] (2 ^ metaMember pm) s.ftl.nextSeq)) := by
  simp only [State.metaWords, List.mem_flatMap, List.mem_range, List.mem_cons, List.not_mem_nil, or_false]

section
variable {s : State} {n pm : Nat} {x : Superblock} (hsb : Table.find s.ftl.superblocks n = some x)
  (hpm : parityMember n s.ftl.metaStripe x.members.length = pm)
include hsb hpm

/-- A META write programs the unit's stripe and moves the META stream past it. -/
theorem State.metaWrite_programs (hmeta : s.ftl.metaSb = some n) (kind space lua : Nat) (data : List Byte) :
    s.metaWrite kind space lua data true =
      (some (packLoc n (metaMember pm) (s.ftl.metaStripe / 4) (s.ftl.metaStripe % 4) 0),
        ((s.programWords (s.metaWords n pm kind space lua data)).count unitFLS 4 2).advanceMeta.prepareMeta) := by
  subst hpm
  unfold State.metaWrite
  rw [hmeta]
  dsimp only
  rw [hsb]
  rfl

/-- The unit of a META stripe lies at its place: filler goes to other places of its block, parity to another block. -/
theorem State.metaWords_placed (hnodup : x.members.Nodup) (hblocks : ∀ e ∈ x.members, e.2 < 8192) (hlow : 2 ≤ x.members.length)
    (hhigh : x.members.length ≤ 32) (hstripe : s.ftl.metaStripe < 16384) (kind space lua : Nat) (data : List Byte) :
    ∃ a, s.locAddr (packLoc n (metaMember pm) (s.ftl.metaStripe / 4) (s.ftl.metaStripe % 4) 0) = some a ∧
      Table.find (s.programWords (s.metaWords n pm kind space lua data)).flash.nand a.key = some (s.metaWord kind space lua data 0) := by
  have hpage : s.ftl.metaStripe / 4 < 4096 := by omega
  have hplane : s.ftl.metaStripe % 4 < 4 := by omega
  have hp : pm < x.members.length := by
    rw [← hpm, parityMember, if_neg (by omega)]
    exact Nat.mod_lt _ (by omega)
  have hm : metaMember pm < x.members.length := (metaMember_le pm).trans_lt hlow
  have haddr {i : Nat} (hi : i < x.members.length) {cw : Nat} (hcw : cw < 4) :
      s.locAddr (packLoc n i (s.ftl.metaStripe / 4) (s.ftl.metaStripe % 4) cw) =
        some ⟨x.members[i].1, x.members[i].2, s.ftl.metaStripe / 4, s.ftl.metaStripe % 4, cw⟩ :=
    State.locAddr_packLoc hsb (List.getElem?_eq_getElem hi) (by omega) hpage hplane hcw
  have hkey {i : Nat} (hi : i < x.members.length) {cw : Nat} (hcw : cw < 4) :
      (s.locAddr (packLoc n i (s.ftl.metaStripe / 4) (s.ftl.metaStripe % 4) cw)).map CwAddr.key =
        some (cwKey x.members[i].1 x.members[i].2 (s.ftl.metaStripe / 4) (s.ftl.metaStripe % 4) cw) := by
    rw [haddr hi hcw]
    rfl
  have hapart : blockKey x.members[pm].1 x.members[pm].2 ≠ blockKey x.members[metaMember pm].1 x.members[metaMember pm].2 := fun h =>
    metaMember_ne pm ((List.Nodup.getElem_inj_iff hnodup).1
      (blockKey_injective (hblocks _ (List.getElem_mem hp)) (hblocks _ (List.getElem_mem hm)) h)).symm
  refine ⟨_, haddr hm four_pos,
    State.programWords_placed ⟨_, State.mem_metaWords.2 ⟨0, four_pos, .inl rfl⟩, hkey hm four_pos⟩ fun e he hk => ?_⟩
  obtain ⟨cw, hcw, rfl | rfl⟩ := State.mem_metaWords.1 he
  · obtain ⟨-, -, rfl⟩ := cwKey_injective hplane hcw hplane four_pos (Option.some.inj ((hkey hm hcw).symm.trans hk))
    rfl
  · have hsame := congrArg (· / 65536) (Option.some.inj ((hkey hp hcw).symm.trans hk))
    exact absurd ((cwKey_block _ hpage hplane hcw).symm.trans (hsame.trans (cwKey_block _ hpage hplane four_pos))) hapart

end

end Sys2Proof.Machine

/-!
SUPPORT. The steps that program the medium: wordline programs and rounds, journal pages, checkpoints, and map pages read and written
back (R298, R308, R323, R324, R327 to R333).
-/

namespace Sys2Proof.Machine

/-! ## Wordline programs (R298, R308, R331) -/

/-- From `s` to `t` a block was retired: the medium keeps its codewords, and only the work of the media differs. -/
structure Retires (d b : Nat) (s t : State) : Prop where
  media : OnlyMedia s t
  nand : t.flash.nand = s.flash.nand
  retired : t.blockRetired d b = true

theorem OnlyRecords.retires {s u : State} (h : OnlyRecords s u) (d b : Nat) : Retires d b s (u.retireBlock d b) :=
  have ⟨hretired, hnand⟩ := u.retireBlock_retires d b
  ⟨h.media.trans (u.retireBlock_onlyReads d b).onlyMedia, hnand.trans h.nand, hretired⟩

theorem Retires.trans {d b : Nat} {s t u : State} (h : Retires d b s t) (g : OnlyRecords t u) : Retires d b s u where
  media := h.media.trans g.media
  nand := g.nand.trans h.nand
  retired := by
    have hcells : u.retiredOf = t.retiredOf := congrArg Prod.snd g.cells
    rw [State.blockRetired_eq, hcells, ← State.blockRetired_eq, h.retired]

theorem Retires.ite {d b : Nat} {s t u : State} {c : Prop} [Decidable c] (ht : Retires d b s t) (hu : Retires d b s u) :
    Retires d b s (if c then t else u) := by
  split
  · exact ht
  · exact hu

theorem State.setGc_onlyRecords (s : State) (g : Option GcRun) : OnlyRecords s { s with ftl := { s.ftl with gc := g } } := ⟨rfl, rfl⟩

section
variable {s : State} {gc : Bool} {m : BitVec 5} {o : OpenStream} {n d b : Nat} {x : Superblock}
  (ho : s.stream (if gc then .reclaim else .userData) = o) (hsb : o.sb = some n) (hx : Table.find s.ftl.superblocks n = some x)
  (hmember : x.members[m.toNat]? = some (d, b)) (hstarts : s.flashStarts = true) (hprogramming : o.programming = true)
  (hdone : m.toNat ∉ o.done) (hready : s.sbReady n = true) (hchannel : bitAt (s.reg Reg.FLS_CHAN_STATE) (d / 32) = false)
include ho hsb hx hmember hstarts hprogramming hdone hready hchannel

/-- A program that ends well leaves the wordline on the medium; what follows only records and reports. -/
theorem execProgramDone_ok : ∃ t, exec (.programDone gc m true) s = .next t ∧
    OnlyRecords ((s.programWords (wordline n x.members.length o m.toNat)).count unitFLS 4 16) t := by
  refine ⟨_, rfl, ?_⟩
  have hfirst : o.done.contains m.toNat = false := by simpa using hdone
  have hreports (u : State) (ready : List WriteUnit) (o' : OpenStream) (st : WriteStream) :
      OnlyRecords u (ready.foldl (fun t v => t.reportUnit st v) (u.setStream st o')) :=
    (u.setStream_onlyRecords st o').trans (OnlyRecords.foldl (fun t v => t.reportUnit_onlyRecords st v) ready _)
  simp only [ho, hsb, hx, hmember, hstarts, hprogramming, hready, hchannel, hfirst, Bool.not_true, Bool.or_false, Bool.false_eq_true,
    if_false, if_true]
  exact OnlyRecords.ite ((hreports _ _ _ _).trans (State.endRound_onlyRecords _ _)) (hreports _ _ _ _)

/-- A program that fails retires the block. -/
theorem execProgramDone_failed : ∃ t, exec (.programDone gc m false) s = .next t ∧ Retires d b s t := by
  refine ⟨_, rfl, ?_⟩
  have hfirst : o.done.contains m.toNat = false := by simpa using hdone
  have hends {u : State} (hu : OnlyRecords s u) (st : WriteStream) (c : Prop) [Decidable c] :
      Retires d b s (if c then (u.retireBlock d b).endRound st else u.retireBlock d b) :=
    Retires.ite ((hu.retires d b).trans (State.endRound_onlyRecords _ st)) (hu.retires d b)
  have herr (st : WriteStream) (o' : OpenStream) (f g : Fld) : OnlyRecords s (((s.setStream st o').errAdd f 1).errAdd g 1) :=
    (s.setStream_onlyRecords st o').trans ((State.errAdd_onlyLogs _ f 1).trans (State.errAdd_onlyLogs _ g 1)).onlyRecords
  simp only [ho, hsb, hx, hmember, hstarts, hprogramming, hready, hchannel, hfirst, Bool.not_true, Bool.or_false, Bool.false_eq_true,
    if_false]
  refine hends (OnlyRecords.ite ?_ (herr _ _ _ _)) _ _
  split
  · exact (herr _ _ _ _).trans (State.setGc_onlyRecords _ _)
  · exact herr _ _ _ _

/-- Where the codewords of a wordline lie once its program has ended well; the rest of the medium, DRAM, cores and rings stay. -/
theorem programDone_writes (hround : 4 * o.round + 4 ≤ 4096) : ∃ t, exec (.programDone gc m true) s = .next t ∧ t.dram = s.dram ∧
    t.cores = s.cores ∧ t.rings = s.rings ∧
    (∀ j cw, j < 16 → cw < 4 → Table.find t.flash.nand (cwKey d b (4 * o.round + j / 4) (j % 4) cw) =
      some (wordlineWord n x.members.length o m.toNat j cw)) ∧
    ∀ k, k / 65536 ≠ blockKey d b → Table.find t.flash.nand k = Table.find s.flash.nand k := by
  obtain ⟨t, hexec, ht⟩ := execProgramDone_ok ho hsb hx hmember hstarts hprogramming hdone hready hchannel
  have hprogram := (s.programWords_onlyReads (wordline n x.members.length o m.toNat)).onlyMedia
  have hrecords := (State.count_onlyRecords _ unitFLS 4 16).trans ht
  have hmedia := hprogram.trans hrecords.media
  refine ⟨t, hexec, hmedia.dram, hmedia.cores, hmedia.rings, fun j cw hj hcw => ?_, fun k hk => ?_⟩
  · rw [hrecords.nand, State.programWordline_placed hx hmember m.isLt hround _ hj hcw]
  · rw [hrecords.nand, State.programWordline_elsewhere hx hmember m.isLt hround _ hk]

end

theorem execFillTimer_due {s : State} (hruns : s.flashRuns = true) (hidle : s.ftl.user.programming = false) (hunits : s.ftl.user.units ≠ [])
    (hdue : s.ftl.user.oldest.toNat + zeroActsAsOne (s.fld Reg.FTL_WRITE_CFG_FILL_US) * 1000 ≤ s.gtc.toNat) :
    exec .fillTimer s = .next { s with ftl := { s.ftl with user := { s.ftl.user with programming := true } } } := by
  change execFillTimer s = _
  simp only [execFillTimer, hruns, hidle, List.isEmpty_eq_false_iff.2 hunits, hdue, decide_true, Bool.not_false, Bool.and_self, if_true]
  rfl

/-! ## META writes and journal pages (R299, R327, R328) -/

theorem State.passStripe_onlyRecords (s : State) : OnlyRecords s (s.count unitFLS 4 2).advanceMeta.prepareMeta :=
  ((s.count_onlyRecords unitFLS 4 2).trans (State.advanceMeta_onlyRecords _)).trans (State.prepareMeta_onlyRecords _)

/-- A META write programs one stripe; what follows only records. -/
theorem State.metaWrite_records (s : State) (kind space lua : Nat) (data : List Byte) :
    ∃ u, OnlyReads s u ∧ u.ftl = s.ftl ∧ OnlyRecords u (s.metaWrite kind space lua data true).2 := by
  cases hmeta : s.ftl.metaSb with
  | none =>
    refine ⟨s, OnlyReads.refl s, rfl, ?_⟩
    rw [State.metaWrite, hmeta]
    exact OnlyRecords.refl s
  | some n =>
    cases hx : Table.find s.ftl.superblocks n with
    | none =>
      refine ⟨s, OnlyReads.refl s, rfl, ?_⟩
      rw [State.metaWrite, hmeta]
      dsimp only
      rw [hx]
      exact OnlyRecords.refl s
    | some x =>
      rw [State.metaWrite_programs hx rfl hmeta]
      dsimp only
      exact ⟨_, s.programWords_onlyReads _, s.programWords_ftl _, State.passStripe_onlyRecords _⟩

section
variable {s u : State} {kind space lua : Nat} {data : List Byte} {l : Option Nat} (h : s.metaWrite kind space lua data true = (l, u))
include h

theorem State.metaWrite_onlyMedia : OnlyMedia s u := by
  obtain ⟨v, hv, -, hrecords⟩ := s.metaWrite_records kind space lua data
  exact hv.onlyMedia.trans (OnlyRecords.of_snd h hrecords).media

/-- A META write leaves JSEQ and the bytes of journal since START. -/
theorem State.metaWrite_journal : u.ftl.jseq = s.ftl.jseq ∧ u.ftl.flashed = s.ftl.flashed := by
  obtain ⟨v, -, hftl, hrecords⟩ := s.metaWrite_records kind space lua data
  have hu := OnlyRecords.of_snd h hrecords
  exact ⟨hftl ▸ hu.jseq, hftl ▸ hu.flashed⟩

end

/-- A META unit lies at the place its write answers, with its out-of-band area. -/
theorem State.metaWrite_placed {s : State} {n : Nat} {x : Superblock} (hmeta : s.ftl.metaSb = some n)
    (hx : Table.find s.ftl.superblocks n = some x) (hnodup : x.members.Nodup) (hblocks : ∀ e ∈ x.members, e.2 < 8192)
    (hlow : 2 ≤ x.members.length) (hhigh : x.members.length ≤ 32) (hstripe : s.ftl.metaStripe < 16384) (kind space lua : Nat)
    (data : List Byte) : ∃ l u a w, s.metaWrite kind space lua data true = (some l, u) ∧ s.locAddr l = some a ∧
      Table.find u.flash.nand a.key = some w ∧ w.data = data ∧ w.oob = oobBytes data lua kind space s.ftl.nextSeq ∧
      u.dram = s.dram := by
  have hwrite := State.metaWrite_programs hx rfl hmeta kind space lua data
  obtain ⟨a, haddr, hplaced⟩ := State.metaWords_placed hx rfl hnodup hblocks hlow hhigh hstripe kind space lua data
  refine ⟨_, _, a, s.metaWord kind space lua data 0, hwrite, haddr, ?_, rfl, rfl, (State.metaWrite_onlyMedia hwrite).dram⟩
  rw [(State.passStripe_onlyRecords _).nand, hplaced]

/-- A journal page that was programmed takes the next JSEQ and counts in the journal since START. -/
theorem execJournalPageProgram_programs {s u : State} {l : Nat} (hstarts : s.flashStarts = true) (hfull : 126 ≤ s.ftl.journal.length)
    (h : s.metaWrite kindJournal 0 (s.ftl.jseq % 2 ^ 40) (journalPage s.ftl.jseq s.ftl.start (s.ftl.journal.take 126)) true = (some l, u)) :
    ∃ t, exec (.journalPageProgram true) s = .next t ∧ OnlyMedia s t ∧ t.ftl.jseq = s.ftl.jseq + 1 ∧
      t.ftl.flashed = s.ftl.flashed + 4096 ∧ t.flash.nand = u.flash.nand := by
  obtain ⟨hjseq, hflashed⟩ := State.metaWrite_journal h
  have hexec : exec (.journalPageProgram true) s = .next (s.programJournal true) := by
    change execJournalPageProgram true s = _
    simp only [execJournalPageProgram, hstarts, hfull, decide_true, Bool.true_or, Bool.and_self, if_true]
  refine ⟨_, hexec, ?_⟩
  unfold State.programJournal
  extract_lets rs
  rw [h]
  dsimp only
  generalize hv : ({ u with ftl := { u.ftl with
    journal := u.ftl.journal.drop rs.length, jseq := u.ftl.jseq + 1, flashed := u.ftl.flashed + 4096, journalSince := u.gtc } } : State) = v
  have hsettled : OnlyRecords v ((v.count unitFTL 3 1).settleDurable).showJournal :=
    ((v.count_onlyRecords unitFTL 3 1).trans (State.settleDurable_onlyRecords _)).trans (State.showJournal_onlyRecords _)
  have hmedia : OnlyMedia s v := (State.metaWrite_onlyMedia h).trans (hv ▸ rfl)
  subst hv
  exact ⟨hmedia.trans hsettled.media, hsettled.jseq.trans (congrArg (· + 1) hjseq), hsettled.flashed.trans (congrArg (· + 4096) hflashed),
    hsettled.nand⟩

/-! ## Map pages (R323, R324) -/

section
variable {s u : State} {page l : Nat}

/-- A map page missed is cached clean. -/
theorem State.cachePage_caches (hmiss : Table.find s.ftl.cached page = none) :
    Table.find (s.cachePage page).ftl.cached page = some false := by
  rw [State.cachePage, hmiss, if_neg (by decide)]
  exact (Table.find_put _ page page false).trans (if_pos rfl)

/-- Caching a page touches only the cache. -/
theorem State.cachePage_cached (s : State) (page : Nat) : ∃ c, s.cachePage page = { s with ftl := { s.ftl with cached := c } } := by
  unfold State.cachePage
  extract_lets t t'
  split
  · exact ⟨s.ftl.cached, rfl⟩
  · exact ⟨_, rfl⟩

/-- Caching a page leaves the map, its directory, the flash and DRAM. -/
theorem State.cachePage_keeps (s : State) (page : Nat) : (s.cachePage page).ftl.map = s.ftl.map ∧
    (s.cachePage page).ftl.directory = s.ftl.directory ∧ (s.cachePage page).flash = s.flash ∧ (s.cachePage page).dram = s.dram := by
  obtain ⟨c, hc⟩ := s.cachePage_cached page
  rw [hc]
  exact ⟨rfl, rfl, rfl, rfl⟩

/-- A map page missed is read: it is cached clean, and map, directory, flash and DRAM stay. -/
theorem execMapPageRead_caches (hruns : s.flashRuns = true) (hmiss : Table.find s.ftl.cached page = none)
    (hknown : (Table.find s.ftl.directory page).isSome) : ∃ t, exec (.mapPageRead page) s = .next t ∧
      Table.find t.ftl.cached page = some false ∧ t.ftl.map = s.ftl.map ∧ t.ftl.directory = s.ftl.directory ∧ t.flash = s.flash ∧
      t.dram = s.dram := by
  have hexec : exec (.mapPageRead page) s = .next (((s.count unitFTL 6 1).count unitFLS 0 1).cachePage page) := by
    change execMapPageRead page s = _
    simp only [execMapPageRead, hruns, hmiss, hknown, Option.isNone_none, Bool.and_self, if_true]
  have hcounted := (s.count_onlyLogs unitFTL 6 1).trans (State.count_onlyLogs _ unitFLS 0 1)
  obtain ⟨hmap, hdirectory, hflash, hdram⟩ := ((s.count unitFTL 6 1).count unitFLS 0 1).cachePage_keeps page
  rw [hcounted.ftl] at hmap hdirectory
  exact ⟨_, hexec, State.cachePage_caches (by rw [hcounted.ftl, hmiss]), hmap, hdirectory, hflash.trans hcounted.flash,
    hdram.trans hcounted.dram⟩

/-- An append that has room applies its record at once. -/
theorem State.append_now (hsafe : s.flag Reg.FLT_STATUS_SAFE = false) (hwaiting : s.ftl.waiting = []) (hfits : s.appendFits = true)
    (r : JRecord) (w : Option Nat) : s.append r w = s.appendNow r w := by
  rw [State.append, hsafe, hwaiting, hfits]
  rfl

/-- A MAP record of space 0 names a map page's new place. -/
theorem State.appendNow_directory (s : State) (page l : Nat) :
    Table.find (s.appendNow ⟨recMap, 0, 0, page, l, 0⟩ none).ftl.directory page = some l :=
  (Table.find_put s.ftl.directory page page l).trans (if_pos rfl)

theorem State.setCached_onlyRecords (s : State) (c : Table Bool) : OnlyRecords s { s with ftl := { s.ftl with cached := c } } := ⟨rfl, rfl⟩

theorem State.writeBack_onlyMedia (s : State) (page : Nat) : OnlyMedia s (s.writeBack page true) := by
  unfold State.writeBack
  split
  next loc u h =>
    have hu : OnlyMedia s u := State.metaWrite_onlyMedia h
    split
    next l =>
      exact hu.trans (((u.count_onlyRecords unitFTL 4 1).trans (State.append_onlyRecords _ _ none)).trans
        (State.setCached_onlyRecords _ _)).media
    · exact hu

/-- A map page written back: the record of its new place is appended and the cached page is clean. -/
theorem State.writeBack_writes (h : s.metaWrite kindMap 0 page (s.mapPageBytes page) true = (some l, u)) : ∃ v,
    v = (u.count unitFTL 4 1).append ⟨recMap, 0, 0, page, l, 0⟩ ∧
      s.writeBack page true = { v with ftl := { v.ftl with cached := Table.put v.ftl.cached page false } } := by
  refine ⟨_, rfl, ?_⟩
  rw [State.writeBack, h]

theorem State.count_appendFits (s : State) : (s.count unitFTL 4 1).appendFits = s.appendFits := by
  rw [State.appendFits, State.limitEff, State.fld, s.count_reg (by decide), (s.count_onlyLogs _ _ _).ftl]
  rfl

theorem State.count_safe (s : State) : (s.count unitFTL 4 1).flag Reg.FLT_STATUS_SAFE = s.flag Reg.FLT_STATUS_SAFE := by
  rw [State.flag, s.count_reg (by decide)]
  rfl

theorem execMapWriteback_writes (hstarts : s.flashStarts = true) (hdirty : Table.find s.ftl.cached page = some true)
    (h : s.metaWrite kindMap 0 page (s.mapPageBytes page) true = (some l, u)) :
    ∃ t, exec (.mapWriteback page true) s = .next t ∧ OnlyMedia s t ∧ Table.find t.ftl.cached page = some false ∧
      t.flash.nand = u.flash.nand ∧
      (u.flag Reg.FLT_STATUS_SAFE = false → u.ftl.waiting = [] → u.appendFits = true → t.lookup 0 page = some l) := by
  have hexec : exec (.mapWriteback page true) s = .next (s.writeBack page true) := by
    change execMapWriteback page true s = _
    simp only [execMapWriteback, hstarts, hdirty, beq_self_eq_true, Bool.and_self, if_true]
  obtain ⟨v, hv, hwrites⟩ := State.writeBack_writes h
  have hrecords : OnlyRecords u v := hv ▸ (u.count_onlyRecords unitFTL 4 1).trans (State.append_onlyRecords _ _ none)
  refine ⟨_, hexec, s.writeBack_onlyMedia page, ?_⟩
  rw [hwrites]
  refine ⟨(Table.find_put _ page page false).trans (if_pos rfl), hrecords.nand, fun hsafe hwaiting hfits => ?_⟩
  have hnow : v = (u.count unitFTL 4 1).appendNow ⟨recMap, 0, 0, page, l, 0⟩ none :=
    hv.trans (State.append_now (u.count_safe.trans hsafe) ((congrArg Ftl.waiting (u.count_onlyLogs _ _ _).ftl).trans hwaiting)
      (u.count_appendFits.trans hfits) _ none)
  exact (congrArg (fun t : State => Table.find t.ftl.directory page) hnow).trans (State.appendNow_directory _ page l)

end

/-! ## Checkpoints (R329) -/

theorem State.takeCheckpoint_onlyMedia (s : State) : OnlyMedia s s.takeCheckpoint := by
  unfold State.takeCheckpoint
  extract_lets j s1 f
  have h1 : OnlyMedia s s1 :=
    List.foldlRecOn (motive := OnlyMedia s) _ _ (OnlyMedia.refl s) fun t ht e _ => ht.trans (t.writeBack_onlyMedia e.1)
  exact h1.trans ((OnlyReads.ofFtl s1 _).onlyMedia.trans (State.showJournal_onlyRecords _).media)

/-- A checkpoint begins the journal anew and anchors the tables as they stand. -/
theorem State.takeCheckpoint_anchors (s : State) : ∃ a, s.takeCheckpoint.ftl.start = s.ftl.jseq ∧ s.takeCheckpoint.ftl.flashed = 0 ∧
    s.takeCheckpoint.ftl.anchor = some a ∧ a.start = s.ftl.jseq ∧ a.directory = s.takeCheckpoint.ftl.directory ∧
    a.superblocks = s.takeCheckpoint.ftl.superblocks ∧ a.spaces = s.takeCheckpoint.ftl.spaces :=
  ⟨_, rfl, rfl, rfl, rfl, rfl, rfl, rfl⟩

theorem execCheckpoint_due {s : State} (hstarts : s.flashStarts = true) (hmounted : s.mounted = true)
    (hdue : Max.max 64 (s.fld Reg.FTL_CKPT_CFG_CKPT_MIB) * 1048576 < s.ftl.flashed) : exec .checkpoint s = .next s.takeCheckpoint := by
  change execCheckpoint s = _
  simp only [execCheckpoint, hstarts, hmounted, hdue, decide_true, Bool.and_self, if_true]

/-- Settles O33: a wordline by the places of its codewords (`programDone_writes`) or its block retired (`Retires`), the META stream by
what a META write programs and what only records after it (`OnlyRecords`). The parity codeword, the anchor and the map cache are
as log entries 75 (deduced), 78 and 84 (design choices) have them. -/
theorem programsAndJournal : Obligations.ProgramsAndJournal := by
  unfold Obligations.ProgramsAndJournal
  refine ⟨⟨fun gc m s o n d b x ho hsb hx hmember hstarts hprogramming hdone hready hchannel hround => ⟨?_, ?_⟩,
      fun s => execFillTimer_due⟩,
    fun s u l hstarts hfull h => ?_, fun s kind space lua n data x hmeta hx hnodup hblocks hlow hhigh hstripe => ?_,
    fun s hstarts hmounted hdue => ?_, fun page s => execMapPageRead_caches, fun page l s u hstarts hdirty h => ?_⟩
  · exact programDone_writes ho hsb hx hmember hstarts hprogramming hdone hready hchannel hround
  · obtain ⟨t, hexec, ht⟩ := execProgramDone_failed ho hsb hx hmember hstarts hprogramming hdone hready hchannel
    exact ⟨t, hexec, ht.retired, ht.nand, ht.media.dram, ht.media.cores, ht.media.rings⟩
  · obtain ⟨t, hexec, hmedia, hjseq, hflashed, hnand⟩ := execJournalPageProgram_programs hstarts hfull h
    exact ⟨t, hexec, hjseq, hflashed, hnand, hmedia.dram, hmedia.cores⟩
  · exact State.metaWrite_placed hmeta hx hnodup hblocks hlow hhigh hstripe kind space lua data
  · obtain ⟨a, hstart, hflashed, hanchor, hjseq, hdirectory, hsuperblocks, hspaces⟩ := s.takeCheckpoint_anchors
    have hmedia := s.takeCheckpoint_onlyMedia
    exact ⟨_, a, execCheckpoint_due hstarts hmounted hdue, hstart, hflashed, hanchor, hjseq, hdirectory, hsuperblocks, hspaces,
      hmedia.dram, hmedia.cores⟩
  · obtain ⟨t, hexec, hmedia, hcached, hnand, hlookup⟩ := execMapWriteback_writes hstarts hdirty h
    exact ⟨t, hexec, hcached, hnand, hmedia.dram, hmedia.cores, hlookup⟩

end Sys2Proof.Machine

/-!
SUPPORT. Reads of units (R324, R325, R350, R351): what a read leaves of the medium and the map, what one unit reads as, and how a READ
ends.
-/

namespace Sys2Proof.Machine

/-! ## What reading leaves of the medium and the map -/

/-- The codewords on the medium and the map. -/
def State.mapped (s : State) : Table Codeword × Table Nat := (s.flash.nand, s.ftl.map)

theorem OnlyLogs.mapped {s t : State} (h : OnlyLogs s t) : t.mapped = s.mapped := by
  rw [State.mapped, h.flash, h.ftl, State.mapped]

theorem mapped_ite {s a b : State} {c : Prop} [Decidable c] (ha : a.mapped = s.mapped) (hb : b.mapped = s.mapped) :
    (if c then a else b).mapped = s.mapped := by
  split
  · exact ha
  · exact hb

theorem mapped_snd_ite {α : Type} {s : State} {c : Prop} [Decidable c] {a b : α × State} (ha : a.2.mapped = s.mapped)
    (hb : b.2.mapped = s.mapped) : (if c then a else b).2.mapped = s.mapped := by
  split
  · exact ha
  · exact hb

/-- The state of an answer named by a match. -/
theorem mapped_of_snd {α : Type} {s t : State} {e : α × State} {a : α} (he : e = (a, t)) (h : e.2.mapped = s.mapped) :
    t.mapped = s.mapped := by
  subst he
  exact h

theorem mapped_foldl_snd {α β : Type} {f : β × State → α → β × State} (hf : ∀ e a, (f e a).2.mapped = e.2.mapped) (l : List α)
    (i : β × State) : (l.foldl f i).2.mapped = i.2.mapped :=
  List.foldlRecOn (motive := fun e : β × State => e.2.mapped = i.2.mapped) l f rfl fun e he a _ => (hf e a).trans he

section
variable (s : State)

theorem State.count_mapped (u k n : Nat) : (s.count u k n).mapped = s.mapped := (s.count_onlyLogs u k n).mapped
theorem State.errAdd_mapped (f : Fld) (k : Nat) : (s.errAdd f k).mapped = s.mapped := rfl

theorem State.failChannel_mapped (ch : Nat) : (s.failChannel ch).mapped = s.mapped := mapped_ite rfl rfl

theorem State.dieDead_mapped (d : Nat) : (s.dieDead d).mapped = s.mapped := by
  unfold State.dieDead
  split
  · exact mapped_ite rfl (mapped_ite rfl (State.failChannel_mapped _ _))
  · rfl

theorem State.askRefresh_mapped (d b : Nat) : (s.askRefresh d b).mapped = s.mapped := by
  unfold State.askRefresh
  split <;> rfl

theorem State.retireBlock_mapped (d b : Nat) : (s.retireBlock d b).mapped = s.mapped := by
  unfold State.retireBlock
  split
  next x _ =>
    extract_lets y s1 recent s2
    have h1 : s1.mapped = s.mapped := (s.setDie d y).askRefresh_mapped d b
    have h2 : s2.mapped = s1.mapped := mapped_ite (s1.dieDead_mapped d) rfl
    have h3 : s2.checkReadOnly.mapped = s2.mapped := mapped_ite rfl rfl
    exact mapped_ite rfl (h3.trans (h2.trans h1))
  · rfl

theorem State.readSteps_mapped (a : CwAddr) (last : Nat) : (s.readSteps a last).2.mapped = s.mapped := by
  unfold State.readSteps
  extract_lets s1 k fl s2 h e
  have h2 : s2.mapped = s.mapped := s.count_mapped unitFLS 0 1
  split
  · exact h2
  next w _ =>
    extract_lets wrong s3 order hit tried s4 fl s5 s6
    have hwrong (t : State) (decoded : Bool) (step : Nat) : (wrong t decoded step).mapped = t.mapped := mapped_ite rfl rfl
    have h3 : s3.mapped = s.mapped := (hwrong s2 _ _).trans h2
    have h4 : s4.mapped = s.mapped := (s3.count_mapped _ _ _).trans h3
    have h5 : s5.mapped = s.mapped := (hwrong s4 _ _).trans h4
    have h6 : s6.mapped = s.mapped := (s5.count_mapped _ _ _).trans h5
    exact mapped_snd_ite ((s2.count_mapped _ _ _).trans h2) (mapped_snd_ite h3 (mapped_snd_ite h4 (mapped_snd_ite h5
      (mapped_snd_ite h6 ((hwrong s6 _ _).trans h6)))))

theorem State.rebuildCodeword_mapped (a : CwAddr) : (s.rebuildCodeword a).2.mapped = s.mapped := by
  unfold State.rebuildCodeword
  split
  · rfl
  next n x _ =>
    extract_lets w p pm m at_ others
    refine mapped_snd_ite rfl ?_
    split
    next reads t he =>
      have ht : t.mapped = s.mapped :=
        mapped_of_snd he (mapped_foldl_snd (fun e i => by exact e.2.readSteps_mapped (at_ i) 3) others ([], s))
      exact mapped_snd_ite ht (mapped_snd_ite ht ht)

theorem State.readCodeword_mapped (a : CwAddr) : (s.readCodeword a).2.mapped = s.mapped := by
  unfold State.readCodeword
  split
  · split
    next w t he =>
      have ht : t.mapped = s.mapped := mapped_of_snd he (s.rebuildCodeword_mapped a)
      cases w <;> exact ht
  · split
    next r t he =>
      have ht : t.mapped = s.mapped := mapped_of_snd he (s.readSteps_mapped a 3)
      split
      · exact mapped_ite ((t.askRefresh_mapped _ _).trans ht) ht
      · split
        next w u hw =>
          have hu : u.mapped = t.mapped := mapped_of_snd hw (t.rebuildCodeword_mapped a)
          have hretired : ((u.askRefresh a.die a.block).retireBlock a.die a.block).mapped = s.mapped :=
            (State.retireBlock_mapped _ _ _).trans ((u.askRefresh_mapped _ _).trans (hu.trans ht))
          cases w <;> exact hretired

/-- A use of a map page touches only the cache, and what counting touches. -/
theorem State.touchMap_keeps (space lua : Nat) : ∃ c, (s.touchMap space lua).ftl = { s.ftl with cached := c } ∧
    (s.touchMap space lua).flash = s.flash ∧
    ∀ off, off ∉ Reg.FLT_LOG_HEAD :: logRegisters → (s.touchMap space lua).reg off = s.reg off := by
  unfold State.touchMap
  extract_lets page
  split
  · have h := s.count_onlyLogs unitFTL 5 1
    exact ⟨s.ftl.cached, h.ftl, h.flash, fun off hoff => s.count_reg hoff _ _ _⟩
  · have h := s.count_onlyLogs unitFTL 6 1
    obtain ⟨c, hc⟩ := (s.count unitFTL 6 1).cachePage_cached page
    rw [hc]
    exact ⟨c, congrArg (fun f : Ftl => { f with cached := c }) h.ftl, h.flash, fun off hoff => s.count_reg hoff _ _ _⟩

theorem State.touchMap_mapped (space lua : Nat) : (s.touchMap space lua).mapped = s.mapped := by
  obtain ⟨c, hftl, hflash, -⟩ := s.touchMap_keeps space lua
  rw [State.mapped, hftl, hflash, State.mapped]

theorem State.readUnit_mapped (space lua : Nat) : (s.readUnit space lua).2.mapped = s.mapped := by
  unfold State.readUnit
  extract_lets s1
  have h1 : s1.mapped = s.mapped := s.touchMap_mapped space lua
  split
  · split
    · exact h1
    next a _ =>
      split
      next r t he =>
        have ht : t.mapped = s.mapped := mapped_of_snd he ((s1.readCodeword_mapped a).trans h1)
        split
        · exact mapped_snd_ite ht ht
        · exact ht
  · exact h1

theorem State.readRun_mapped (space lua n : Nat) : (s.readRun space lua n).2.mapped = s.mapped :=
  mapped_foldl_snd (fun e i => by exact e.2.readUnit_mapped space (lua + i)) _ ([], s)

end

/-! ## What one unit reads as (R325) -/

section
variable {s : State} {space lua : Nat}

theorem State.lookup_touchMap (a b : Nat) : (s.touchMap a b).lookup space lua = s.lookup space lua := by
  obtain ⟨c, hftl, -⟩ := s.touchMap_keeps a b
  rw [State.lookup, hftl, State.lookup]

theorem State.readUnit_unmapped (h : s.lookup space lua = none) : (s.readUnit space lua).1 = some (zeros 4096) := by
  have hlookup : (s.touchMap space lua).lookup space lua = none := (State.lookup_touchMap _ _).trans h
  rw [State.readUnit, hlookup]

/-- A sound codeword of a member that its channel reads is read as it stands, at the first step. -/
theorem State.readCodeword_good {a : CwAddr} {w : Codeword} (hmissing : s.missing a.die a.block = false)
    (hword : Table.find s.flash.nand a.key = some w) (hhealth : s.healthOf a = Health.good) (hchecks : w.checks = true) :
    (s.readCodeword a).1.word = some w := by
  have hsteps : (s.readSteps a 3).1 = ⟨some w, 1, 0, 0, false⟩ := by
    have hcount := s.count_onlyLogs unitFLS 0 1
    unfold State.readSteps
    extract_lets s1 k fl s2 h
    have hfind : Table.find s2.flash.nand a.key = some w := (congrArg (fun f : Flash => Table.find f.nand a.key) hcount.flash).trans hword
    have hgood : h = Health.good := (congrArg (fun f : Flash => Table.at Health.good f.health a.key) hcount.flash).trans hhealth
    rw [hfind, hgood]
    simp [Health.good, Health.stands, hchecks]
  obtain ⟨t, ht⟩ : ∃ t, s.readSteps a 3 = (⟨some w, 1, 0, 0, false⟩, t) := ⟨_, Prod.ext hsteps rfl⟩
  rw [State.readCodeword, hmissing, if_neg Bool.false_ne_true, ht]

theorem State.readUnit_mappedUnit {l : Nat} {sp : Space} {a : CwAddr} {w : Codeword} (hlookup : s.lookup space lua = some l)
    (hspace : s.space space = some sp) (haddr : s.locAddr l = some a) (hmissing : s.missing a.die a.block = false)
    (hword : Table.find s.flash.nand a.key = some w) (hhealth : s.healthOf a = Health.good) (hchecks : w.checks = true)
    (hkind : w.kind = kindUser) (hwspace : w.space = space) (hlua : w.lua = lua) (hseq : sp.createdSeq ≤ w.seq) :
    (s.readUnit space lua).1 = some w.data := by
  have hlookup' : (s.touchMap space lua).lookup space lua = some l := (State.lookup_touchMap _ _).trans hlookup
  obtain ⟨c, hftl, hflash, hreg⟩ := s.touchMap_keeps space lua
  unfold State.readUnit
  extract_lets s1
  have hspace' : s1.space space = some sp := by rw [State.space, hftl]; exact hspace
  have haddr' : s1.locAddr l = some a := by rw [State.locAddr, hftl]; exact haddr
  have hmissing' : s1.missing a.die a.block = false := by
    rw [State.missing, State.dieUsable, State.blockRetired, State.die, hflash, hreg _ (by decide)]
    exact hmissing
  have hread : (s1.readCodeword a).1.word = some w :=
    State.readCodeword_good hmissing' (by rw [hflash, hword]) (by rw [State.healthOf, hflash]; exact hhealth) hchecks
  rw [hlookup', hspace']
  dsimp only
  rw [haddr']
  dsimp only
  rw [hread]
  simp [hkind, hwspace, hlua, hseq]

end

/-! ## How a READ ends (R350, R351) -/

/-- The bytes that a READ writes for the units it read; an unreadable unit's are drawn. -/
def readBytes (draw : Nat) (us : List (Option (List Byte))) : List Byte :=
  us.zipIdx.flatMap (fun e => e.1.getD ((List.range 4096).map (fun i => Config.rawByte draw (e.2 * 4096 + i))))

/-- The state once a READ has written the units it read; `u` is what reading them left. -/
def State.unitsWritten (u : State) (x : Taken) (us : List (Option (List Byte))) : State :=
  let s := u.freshFree.2.engineWrite 0 (x.fieldAt 0x20 8) (readBytes u.freshFree.1 us)
  { s with ftl := { s.ftl with lastWork := s.gtc } }

theorem State.unitsWritten_writes (u : State) (x : Taken) (us : List (Option (List Byte))) :
    (u.unitsWritten x us).dram = Mem.store u.dram (x.fieldAt 0x20 8) (readBytes u.freshFree.1 us) ∧ (u.unitsWritten x us).taken = u.taken ∧
    (u.unitsWritten x us).rings = u.rings ∧ (u.unitsWritten x us).cores = u.cores ∧ (u.unitsWritten x us).mapped = u.mapped := by
  have h := State.engineWrite_onlyLogs u.freshFree.2 0 (x.fieldAt 0x20 8) (readBytes u.freshFree.1 us)
  exact ⟨State.engineWrite_dram _ _ _ _, h.taken, h.rings, h.cores, h.mapped⟩

/-- The status and the detail of a READ of these units. -/
def readEnd (us : List (Option (List Byte))) : Nat × Nat :=
  match us.findIdx? (fun u => u.isNone) with
  | some i => (stUNREADABLE, min 0xFFFF i)
  | none => (stOK, 0)

section
variable {us : List (Option (List Byte))}

theorem readBytes_of_isSome (h : ∀ u ∈ us, u.isSome) (draw : Nat) : readBytes draw us = us.flatMap (fun u => u.getD []) := by
  have hread : ∀ e ∈ us.zipIdx, e.1.getD ((List.range 4096).map (fun i => Config.rawByte draw (e.2 * 4096 + i))) = e.1.getD [] := by
    intro e he
    obtain ⟨bs, hbs⟩ := Option.isSome_iff_exists.1 (h e.1 (List.fst_mem_of_mem_zipIdx he))
    rw [hbs, Option.getD_some, Option.getD_some]
  calc readBytes draw us = us.zipIdx.flatMap (fun e => e.1.getD []) := List.flatMap_congr hread
    _ = (us.zipIdx.map Prod.fst).flatMap (fun u => u.getD []) := by rw [List.flatMap_map]
    _ = us.flatMap (fun u => u.getD []) := by rw [List.zipIdx_map_fst]

theorem readEnd_of_isSome (h : ∀ u ∈ us, u.isSome) : readEnd us = (stOK, 0) := by
  have hnone : us.findIdx? (fun u => u.isNone) = none :=
    List.findIdx?_eq_none_iff.2 fun u hu => by rw [Option.isNone_eq_false_iff]; exact h u hu
  rw [readEnd, hnone]

theorem readEnd_of_first {i : Nat} (hi : us[i]? = some none) (hbefore : ∀ j, j < i → (us.getD j none).isSome) :
    readEnd us = (stUNREADABLE, min 0xFFFF i) := by
  obtain ⟨hlen, hget⟩ := List.getElem?_eq_some_iff.1 hi
  have hsome : us.findIdx? (fun u => u.isNone) = some i := by
    refine List.findIdx?_eq_some_iff_getElem.2 ⟨hlen, by rw [hget]; rfl, fun j hj => ?_⟩
    have hj' := hbefore j hj
    rw [List.getD_eq_getElem _ _ (hj.trans hlen)] at hj'
    rw [Bool.not_eq_true, Option.isNone_eq_false_iff]
    exact hj'
  rw [readEnd, hsome]

end

section
variable {c : CoreId} {tk : Ticket} {s : State} {x : Taken} (hx : s.running c tk 0 0x01 = some x) (hruns : s.engineRuns 0 = true)
  (hmount : s.recovering = false)
include hx hruns hmount

theorem execRead_notPriv (hpriv : s.ringPriv x = privU) : exec (.read c tk) s = .next (s.finish x stNOT_PRIV 0 []) := by
  change execRead c tk s = _
  simp only [execRead, hx, hruns, hmount, hpriv]
  rfl

variable (hpriv : s.ringPriv x ≠ privU) (hcount : unitCount x ≤ 65536)
include hpriv hcount

theorem execRead_refused {code : Nat} (hcheck : s.spaceCheck (x.fieldAt 0x10 2) (x.fieldAt 0x18 5) (unitCount x) false = some code) :
    exec (.read c tk) s = .next (s.finish x code 0 []) := by
  change execRead c tk s = _
  simp only [execRead, hx, hruns, hmount, if_neg hpriv, if_neg (Nat.not_lt.2 hcount), hcheck]
  rfl

/-- A READ that every check admits only reads, then writes the units to DRAM and ends. -/
theorem execRead_reads (hcheck : s.spaceCheck (x.fieldAt 0x10 2) (x.fieldAt 0x18 5) (unitCount x) false = none)
    (hwaits : s.runWaits (x.fieldAt 0x10 2) (x.fieldAt 0x18 5) (unitCount x) = false) {us : List (Option (List Byte))}
    (hus : (s.readRun (x.fieldAt 0x10 2) (x.fieldAt 0x18 5) (unitCount x)).1 = us) :
    ∃ t draw, exec (.read c tk) s = .next t ∧ EndedWith t c tk (readEnd us).1 (readEnd us).2 ∧
      t.dram = Mem.store s.dram (x.fieldAt 0x20 8) (readBytes draw us) ∧ t.rings = s.rings ∧ t.cores = s.cores ∧ t.mapped = s.mapped := by
  obtain ⟨u, hu⟩ : ∃ u, s.readRun (x.fieldAt 0x10 2) (x.fieldAt 0x18 5) (unitCount x) = (us, u) := ⟨_, Prod.ext hus rfl⟩
  have hreads : OnlyReads s u := OnlyReads.of_snd hu (s.readRun_onlyReads _ _ _)
  have hmapped : u.mapped = s.mapped := mapped_of_snd hu (s.readRun_mapped _ _ _)
  obtain ⟨hdram, htaken, hrings, hcores, hwritten⟩ := u.unitsWritten_writes x us
  have hexec : exec (.read c tk) s = .next ((u.unitsWritten x us).finish x (readEnd us).1 (readEnd us).2
      [(x.fieldAt 0x20 8, (readBytes u.freshFree.1 us).length)]) := by
    change execRead c tk s = _
    simp only [execRead, hx, hruns, hmount, if_neg hpriv, if_neg (Nat.not_lt.2 hcount), hcheck, hwaits, hu, readEnd]
    cases us.findIdx? (fun u => u.isNone) <;> rfl
  obtain ⟨hat, -⟩ := State.running_takenAt hx
  exact ⟨_, u.freshFree.1, hexec, State.finish_endedWith hat (htaken.trans hreads.taken) _ _ _, hreads.dram ▸ hdram,
    hrings.trans hreads.rings, hcores.trans hreads.cores, hwritten.trans hmapped⟩

end

end Sys2Proof.Machine

/-!
SUPPORT. What is asked of a space (R326 to R328, R331 to R337, R350): a WRITE's units on their way to the medium, a record that an asker
waits for, trims, and spaces made, ended and walked.
-/

namespace Sys2Proof.Machine

/-! ## States that differ by records applied -/

/-- The writers, and the units on their way to the USER stream. -/
def State.unitWork (s : State) : List UnitWriter × List WriteUnit × OpenStream := (s.ftl.writers, s.ftl.entry, s.ftl.user)

/-- `t` is `s` but for the flash, the engine's tables and journal, the free values drawn and what logging touches. -/
structure OnlyTables (s t : State) : Prop where
  reads : OnlyReads s t
  work : t.unitWork = s.unitWork

theorem OnlyTables.refl (s : State) : OnlyTables s s := ⟨.refl s, rfl⟩

theorem OnlyTables.trans {s t u : State} (h : OnlyTables s t) (g : OnlyTables t u) : OnlyTables s u :=
  ⟨h.reads.trans g.reads, g.work.trans h.work⟩

theorem OnlyTables.ite {s a b : State} {c : Prop} [Decidable c] (ha : OnlyTables s a) (hb : OnlyTables s b) :
    OnlyTables s (if c then a else b) := by
  split
  · exact ha
  · exact hb

theorem OnlyTables.foldl {α : Type} {f : State → α → State} (hf : ∀ s a, OnlyTables s (f s a)) (l : List α) (s : State) :
    OnlyTables s (l.foldl f s) :=
  List.foldlRecOn (motive := OnlyTables s) l f (OnlyTables.refl s) fun t ht a _ => ht.trans (hf t a)

section
variable {s t : State} (h : OnlyTables s t)
include h

theorem OnlyTables.writers : t.ftl.writers = s.ftl.writers := congrArg (·.1) h.work
theorem OnlyTables.entry : t.ftl.entry = s.ftl.entry := congrArg (·.2.1) h.work
theorem OnlyTables.user : t.ftl.user = s.ftl.user := congrArg (·.2.2) h.work

end

section
variable (s : State)

theorem State.setMap_onlyTables (space lua : Nat) (v : Option Nat) : OnlyTables s (s.setMap space lua v) :=
  OnlyTables.ite ⟨rfl, rfl⟩ ⟨rfl, rfl⟩

theorem State.unmap_onlyTables (space lua n : Nat) : OnlyTables s (s.unmap space lua n) :=
  OnlyTables.foldl (fun t k => t.setMap_onlyTables space (k - mapKey space 0) none) _ s

theorem State.applyRecord_onlyTables (r : JRecord) : OnlyTables s (s.applyRecord r) := by
  unfold State.applyRecord
  refine OnlyTables.ite (s.setMap_onlyTables _ _ _) (OnlyTables.ite (OnlyTables.ite (s.setMap_onlyTables _ _ _) (OnlyTables.refl s))
    (OnlyTables.ite (s.unmap_onlyTables _ _ _) (OnlyTables.ite (OnlyTables.ite (OnlyTables.refl s) ⟨rfl, rfl⟩)
      (OnlyTables.ite ?member (OnlyTables.ite ?close (OnlyTables.ite ⟨rfl, rfl⟩ (OnlyTables.ite ⟨rfl, rfl⟩ (OnlyTables.refl s))))))))
  case member =>
    split
    · exact ⟨rfl, rfl⟩
    · exact OnlyTables.refl s
  case close =>
    split
    · exact ⟨rfl, rfl⟩
    · exact OnlyTables.refl s

/-- An append that completes no writer. -/
theorem State.append_onlyTables (r : JRecord) : OnlyTables s (s.append r) := by
  have hnow : OnlyTables s (s.appendNow r none) := by
    unfold State.appendNow
    extract_lets f s1
    have h1 : OnlyTables s s1 := ⟨rfl, rfl⟩
    exact (h1.trans (s1.applyRecord_onlyTables r)).trans ⟨rfl, rfl⟩
  exact OnlyTables.ite (OnlyTables.refl s) (OnlyTables.ite hnow ⟨rfl, rfl⟩)

theorem State.openSuperblock_onlyTables (st : WriteStream) : OnlyTables s (s.openSuperblock st).2 := by
  unfold State.openSuperblock
  extract_lets members n seq rot fl s1 s2 s3 s4 s5 s6
  have h3 : OnlyTables s s3 := ⟨rfl, rfl⟩
  have h4 : OnlyTables s s4 := h3.trans (s3.append_onlyTables _)
  have h5 : OnlyTables s s5 := h4.trans (OnlyTables.foldl (fun t e => t.append_onlyTables _) _ s4)
  split
  · exact OnlyTables.refl s
  · exact h5.trans ⟨rfl, rfl⟩

end

/-! ## Units on their way to the medium (R331, R332, R340) -/

/-- The units that wait for admission, that wait behind the USER round, and of the round. -/
def State.underWay (s : State) : List WriteUnit := s.ftl.entry ++ s.ftl.user.queue ++ s.ftl.user.units

/-- From `s` to `t` the units on their way stay on it, some with a place; of the state only the flash and the engine differ. -/
structure Carries (s t : State) : Prop where
  reads : OnlyReads s t
  nand : t.flash.nand = s.flash.nand
  writers : t.ftl.writers = s.ftl.writers
  units : ∀ u ∈ s.underWay, ∃ p, { u with placed := p } ∈ t.underWay

theorem Carries.refl (s : State) : Carries s s := ⟨.refl s, rfl, rfl, fun u hu => ⟨u.placed, hu⟩⟩

theorem Carries.trans {s t u : State} (h : Carries s t) (g : Carries t u) : Carries s u where
  reads := h.reads.trans g.reads
  nand := g.nand.trans h.nand
  writers := g.writers.trans h.writers
  units v hv := by
    obtain ⟨p, hp⟩ := h.units v hv
    obtain ⟨q, hq⟩ := g.units _ hp
    exact ⟨q, hq⟩

theorem Carries.ite {s a b : State} {c : Prop} [Decidable c] (ha : Carries s a) (hb : Carries s b) : Carries s (if c then a else b) := by
  split
  · exact ha
  · exact hb

/-- The state of an answer named by a match. -/
theorem Carries.of_snd {α : Type} {s t : State} {e : α × State} {a : α} (he : e = (a, t)) (h : Carries s e.2) : Carries s t := by
  subst he
  exact h

section
variable (s : State)

/-- The USER stream replaced by one that holds its units. -/
theorem State.setUser_carries (o : OpenStream)
    (h : ∀ u ∈ s.ftl.user.queue ++ s.ftl.user.units, ∃ p, { u with placed := p } ∈ o.queue ++ o.units) :
    Carries s (s.setStream .userData o) where
  reads := rfl
  nand := rfl
  writers := rfl
  units u hu := by
    rw [State.underWay, List.append_assoc] at hu ⊢
    rcases List.mem_append.1 hu with hu | hu
    · exact ⟨u.placed, List.mem_append_left _ hu⟩
    · obtain ⟨p, hp⟩ := h u hu
      exact ⟨p, List.mem_append_right _ hp⟩

theorem State.openSuperblock_carries (st : WriteStream) : Carries s (s.openSuperblock st).2 := by
  have h := s.openSuperblock_onlyTables st
  refine ⟨h.reads, (s.openSuperblock_onlyRecords st).nand, h.writers, fun u hu => ⟨u.placed, ?_⟩⟩
  rw [State.underWay, h.entry, h.user]
  exact hu

theorem State.fillRound_carries (k : Nat) : Carries s (s.fillRound .userData k) := by
  induction k generalizing s with
  | zero => exact Carries.refl s
  | succ k ih =>
    unfold State.fillRound
    extract_lets o
    refine Carries.ite (Carries.refl s) ?_
    split
    · exact Carries.refl s
    next u rest n hqueue hsb =>
      refine Carries.ite (s.setUser_carries _ fun v hv => ⟨v.placed, hv⟩) ((s.setUser_carries _ fun v hv => ?_).trans (ih _))
      have hqueue' : s.ftl.user.queue = u :: rest := hqueue
      rw [hqueue', List.cons_append] at hv
      rcases List.mem_cons.1 hv with rfl | hv
      · exact ⟨_, List.mem_append_right _ (List.mem_append_right _ (List.mem_singleton.2 rfl))⟩
      · rcases List.mem_append.1 hv with hv | hv
        · exact ⟨v.placed, List.mem_append_left _ hv⟩
        · exact ⟨v.placed, List.mem_append_right _ (List.mem_append_left _ hv)⟩
    · split
      next n t he =>
        have ht : Carries s t := Carries.of_snd he (s.openSuperblock_carries .userData)
        have hseq : Carries t { t with ftl := { t.ftl with nextSeq := t.ftl.nextSeq + 16 } } :=
          ⟨rfl, rfl, rfl, fun v hv => ⟨v.placed, hv⟩⟩
        refine ((ht.trans hseq).trans (State.setUser_carries _ _ ?_)).trans (ih _)
        exact fun v hv => ⟨v.placed, hv⟩
      next t he => exact Carries.of_snd he (s.openSuperblock_carries .userData)

theorem State.admitUnits_carries (k : Nat) : Carries s (s.admitUnits k) := by
  induction k generalizing s with
  | zero => exact Carries.refl s
  | succ k ih =>
    unfold State.admitUnits
    split
    · exact Carries.refl s
    next u rest hentry =>
      extract_lets paid
      refine Carries.ite (Carries.trans ?_ (ih _)) (Carries.refl s)
      refine ⟨rfl, rfl, rfl, fun v hv => ⟨v.placed, ?_⟩⟩
      rw [State.underWay, hentry] at hv
      simp only [State.underWay, List.mem_append, List.mem_cons, List.not_mem_nil] at hv ⊢
      tauto

theorem State.pumpWrites_carries : Carries s s.pumpWrites := by
  have hshow : Carries (s.admitUnits s.ftl.entry.length) (s.admitUnits s.ftl.entry.length).showCredits :=
    ⟨rfl, rfl, rfl, fun v hv => ⟨v.placed, hv⟩⟩
  exact ((s.admitUnits_carries _).trans hshow).trans (State.fillRound_carries _ _)

end

/-- A WRITE begun: its writer waits, and its units are on their way. -/
theorem State.beginWrite_begins (s : State) (a : Asker) (space lua : Nat) (units : List (List Byte)) (fabric : Bool) :
    OnlyReads s (s.beginWrite a space lua units fabric) ∧ (s.beginWrite a space lua units fabric).flash.nand = s.flash.nand ∧
    (s.beginWrite a space lua units fabric).ftl.writers = s.ftl.writers ++ [⟨s.ftl.nextWriter, a, units.length, fabric⟩] ∧
    ∀ i data, units[i]? = some data → ∃ u ∈ (s.beginWrite a space lua units fabric).underWay,
      u.space = space ∧ u.lua = lua + i ∧ u.writer = some s.ftl.nextWriter ∧ u.data = data := by
  unfold State.beginWrite
  extract_lets id us f
  have h := State.pumpWrites_carries { s with ftl := { f with
    writers := f.writers ++ [⟨id, a, units.length, fabric⟩], nextWriter := id + 1, entry := f.entry ++ us, lastWork := s.gtc } }
  have hbegun : OnlyReads s { s with ftl := { f with
    writers := f.writers ++ [⟨id, a, units.length, fabric⟩], nextWriter := id + 1, entry := f.entry ++ us, lastWork := s.gtc } } := rfl
  refine ⟨hbegun.trans h.reads, h.nand, h.writers, fun i data hdata => ?_⟩
  have hmem : (⟨space, lua + i, data, none, some id, none, false⟩ : WriteUnit) ∈ us :=
    List.mem_map.2 ⟨(data, i), List.mem_zipIdx_iff_getElem?.2 hdata, rfl⟩
  obtain ⟨p, hp⟩ := h.units _ (List.mem_append_left _ (List.mem_append_left _ (List.mem_append_right _ hmem)))
  exact ⟨_, hp, rfl, rfl, rfl, rfl⟩

/-! ## A record that an asker waits for (R328) -/

/-- A record appended now is applied at once, for a writer that no other shares its number with. -/
structure State.Records (s : State) : Prop where
  safe : s.flag Reg.FLT_STATUS_SAFE = false
  waiting : s.ftl.waiting = []
  fits : s.appendFits = true
  fresh : ∀ w ∈ s.ftl.writers, w.id ≠ s.ftl.nextWriter

/-- What decides whether a record is applied at once. -/
def Ftl.pipe (f : Ftl) : List JRecord × List (JRecord × Option Nat) × List UnitWriter × Nat :=
  (f.journal, f.waiting, f.writers, f.nextWriter)

theorem State.Records.of_eq {s t : State} (h : s.Records) (hsafe : t.reg Reg.FLT_STATUS = s.reg Reg.FLT_STATUS)
    (hlimit : t.reg Reg.FTL_JNL_CFG = s.reg Reg.FTL_JNL_CFG) (hpipe : t.ftl.pipe = s.ftl.pipe) : t.Records := by
  obtain ⟨hjournal, hwaiting, hwriters, hnext⟩ : t.ftl.journal = s.ftl.journal ∧ t.ftl.waiting = s.ftl.waiting ∧
      t.ftl.writers = s.ftl.writers ∧ t.ftl.nextWriter = s.ftl.nextWriter := by simpa [Ftl.pipe] using hpipe
  refine ⟨(congrArg (bitAt · 31) hsafe).trans h.safe, hwaiting.trans h.waiting, ?_, by rw [hwriters, hnext]; exact h.fresh⟩
  have hfld : t.limitEff = s.limitEff := congrArg (fun w => natAt w 16 9 * 65536) hlimit
  rw [State.appendFits, Ftl.dirty, hjournal, hfld]
  exact h.fits

section
variable (s : State)

/-- A record of an asker in the journal, not yet applied. -/
def State.recorded (a : Asker) (r : JRecord) : State :=
  { s with ftl := { s.ftl with
    writers := s.ftl.writers ++ [⟨s.ftl.nextWriter, a, 1, false⟩], nextWriter := s.ftl.nextWriter + 1
    journal := s.ftl.journal ++ [r], appended := s.ftl.appended + 1
    journalSince := if s.ftl.journal.isEmpty then s.gtc else s.ftl.journalSince } }

def State.dropWriter (id : Nat) : State := { s with ftl := { s.ftl with writers := s.ftl.writers.filter (fun y => y.id != id) } }

/-- A record of an asker appended and applied, and its writer done. -/
def State.withRecord (a : Asker) (r : JRecord) : State := (((s.recorded a r).applyRecord r).showJournal).dropWriter s.ftl.nextWriter

theorem State.withRecord_onlyReads (a : Asker) (r : JRecord) : OnlyReads s (s.withRecord a r) := by
  have hrecorded : OnlyReads s (s.recorded a r) := rfl
  have hdone (t : State) (id : Nat) : OnlyReads t (t.showJournal.dropWriter id) := rfl
  exact (hrecorded.trans ((s.recorded a r).applyRecord_onlyTables r).reads).trans (hdone _ _)

/-- The last unit of a writer on record completes it. -/
theorem State.unitDone_last {w : UnitWriter} (hfind : s.ftl.writers.find? (fun y => y.id == w.id) = some w) (hleft : w.left ≤ 1) :
    s.unitDone (some w.id) = (s.dropWriter w.id).answer w.asker stOK 0 := by
  rw [State.unitDone, Option.bind_some, hfind]
  simp only [if_pos hleft]
  rfl

/-- One record for an asker: with room it is applied and the asker answered. -/
theorem State.recordFor_answers (h : s.Records) (a : Asker) (r : JRecord) : s.recordFor a [r] = (s.withRecord a r).answer a stOK 0 := by
  obtain ⟨hsafe, hwaiting, hfits, hfresh⟩ := h
  have happend : s.recordFor a [r] = (((s.recorded a r).applyRecord r).showJournal).unitDone (some s.ftl.nextWriter) :=
    State.append_now (s := { s with ftl := { s.ftl with
      writers := s.ftl.writers ++ [⟨s.ftl.nextWriter, a, 1, false⟩], nextWriter := s.ftl.nextWriter + 1 } }) hsafe hwaiting hfits r _
  have hwriters : ((s.recorded a r).applyRecord r).showJournal.ftl.writers = s.ftl.writers ++ [⟨s.ftl.nextWriter, a, 1, false⟩] :=
    ((s.recorded a r).applyRecord_onlyTables r).writers
  have hfind : ((s.recorded a r).applyRecord r).showJournal.ftl.writers.find? (fun y => y.id == s.ftl.nextWriter) =
      some ⟨s.ftl.nextWriter, a, 1, false⟩ := by
    have hnone : s.ftl.writers.find? (fun y => y.id == s.ftl.nextWriter) = none :=
      List.find?_eq_none.2 fun w hw => by simpa using hfresh w hw
    rw [hwriters, List.find?_append, hnone, Option.none_or, List.find?_singleton, if_pos (beq_self_eq_true _)]
  rw [happend]
  exact State.unitDone_last _ (w := ⟨s.ftl.nextWriter, a, 1, false⟩) hfind le_rfl

/-- A descriptor that runs is answered by its end. -/
theorem State.answer_desc {c : CoreId} {tk : Ticket} {x : Taken} (hat : s.takenAt c tk = some x) (hres : x.result = none)
    (status detail : Nat) : s.answer (.desc c tk) status detail = s.finish x status detail [] := by
  simp only [State.answer, hat, hres, Option.isNone_none, if_true]

end

/-! ## Trims (R335) -/

theorem Table.find_eq_none {α : Type} {t : Table α} {k : Nat} (h : ∀ e ∈ t, e.1 ≠ k) : Table.find t k = none := by
  rw [Table.find, List.find?_eq_none.2 fun e he => by simpa using h e he, Option.map_none]

/-- A table thinned out by its keys. -/
theorem Table.find_filter {α : Type} (t : Table α) (p : Nat → Bool) (k : Nat) :
    Table.find (t.filter (fun e => p e.1)) k = if p k then Table.find t k else none := by
  have hkey : (fun e : Nat × α => decide (p e.1 = true ∧ (e.1 == k) = true)) = fun e => p k && e.1 == k := by
    funext e
    by_cases he : e.1 = k <;> simp [he]
  rw [Table.find, List.find?_filter, hkey, Table.find]
  cases p k <;> simp

section
variable {s : State} {space : Nat} (hspace : space ≠ 0)
include hspace

/-- The map once its entries of a space at keys from a list are gone. -/
theorem State.unmapKeys_find {ks : List Nat} (hks : ∀ k ∈ ks, mapKey space 0 ≤ k) (k : Nat) :
    Table.find (ks.foldl (fun s k => s.setMap space (k - mapKey space 0) none) s).ftl.map k =
      if k ∈ ks then none else Table.find s.ftl.map k := by
  induction ks generalizing s with
  | nil => simp
  | cons j ks ih =>
    obtain ⟨hj, hks⟩ := List.forall_mem_cons.1 hks
    have hkey : mapKey space (j - mapKey space 0) = j := by unfold mapKey at hj ⊢; omega
    have hset : Table.find (s.setMap space (j - mapKey space 0) none).ftl.map k = if k = j then none else Table.find s.ftl.map k := by
      rw [State.setMap, if_neg hspace, hkey]
      exact Table.find_drop _ _ _
    rw [List.foldl_cons, ih hks, hset]
    by_cases hk : k = j <;> simp [hk]

/-- The map once a run of a space's units is unmapped. -/
theorem State.unmap_find (lua n k : Nat) : Table.find (s.unmap space lua n).ftl.map k =
    if mapKey space lua ≤ k ∧ k < mapKey space lua + n then none else Table.find s.ftl.map k := by
  have hmem : ∀ j, j ∈ (s.ftl.map.filter (fun e => decide (mapKey space lua ≤ e.1) && decide (e.1 < mapKey space lua + n))).map (·.1) ↔
      (∃ v, (j, v) ∈ s.ftl.map) ∧ mapKey space lua ≤ j ∧ j < mapKey space lua + n := by
    intro j
    simp
  rw [State.unmap, State.unmapKeys_find hspace fun j hj => le_trans (by unfold mapKey; omega) ((hmem j).1 hj).2.1]
  by_cases hrun : mapKey space lua ≤ k ∧ k < mapKey space lua + n
  · rw [if_pos hrun]
    split
    · rfl
    next hout => exact Table.find_eq_none fun e he hk => hout ((hmem k).2 ⟨⟨e.2, hk ▸ he⟩, hrun⟩)
  · rw [if_neg hrun, if_neg fun hin => hrun ((hmem k).1 hin).2]

end

theorem State.unmap_journal (s : State) (space lua n : Nat) : (s.unmap space lua n).ftl.journal = s.ftl.journal :=
  foldl_keeps (fun t => t.ftl.journal) (fun t k _ => by dsimp only [State.setMap]; split <;> rfl) s

/-- A TRIM of a whole run of a space's units (R335): it is counted, and its one record answers. -/
theorem State.trimRuns_whole {s : State} (h : s.Records) {n : Nat} (hn : n ≠ 0) (a : Asker) (space lua : Nat) : ∃ t : State,
    s.trimRuns a space lua n [(0, n)] = (t.withRecord a ⟨recTrim, space, n, lua, 0, 0⟩).answer a stOK 0 ∧ OnlyReads s t ∧
      t.ftl.map = s.ftl.map ∧ t.ftl.journal = s.ftl.journal := by
  have hpos : 0 < n := Nat.pos_of_ne_zero hn
  have hcount := s.count_onlyLogs unitFTL 7 n
  have hrecords : ({ s.count unitFTL 7 n with ftl := { s.ftl with lastWork := s.gtc } } : State).Records :=
    h.of_eq (s.count_reg (by decide) _ _ _) (s.count_reg (by decide) _ _ _) rfl
  have hworked : OnlyReads s { s.count unitFTL 7 n with ftl := { s.ftl with lastWork := s.gtc } } :=
    hcount.onlyReads.trans (OnlyReads.ofFtl _ _)
  refine ⟨_, ?_, hworked, rfl, rfl⟩
  rw [← State.recordFor_answers _ hrecords]
  simp [State.trimRuns, hpos, hcount.ftl, hcount.gtc]

/-! ## Spaces (R319, R320, R337) -/

section
variable (s : State) (a : Asker) (space typ units : Nat)

/-- A space put in the table, its record not yet appended. -/
def State.addSpace : State :=
  State.countSpaces { s with ftl := { s.ftl with
    nextSeq := s.ftl.nextSeq + 1, nextMapPage := s.ftl.nextMapPage + ceilDiv units 819
    spaces := Table.put s.ftl.spaces space ⟨typ, units, s.ftl.nextSeq, s.ftl.nextMapPage, false, 0, 0⟩ } }

theorem State.space_of_spaces {s t : State} {n : Nat} (h : Table.find t.ftl.spaces n = Table.find s.ftl.spaces n) :
    t.space n = s.space n := by
  rw [State.space, State.space, h]

/-- The record of a space made keeps it, and every other. -/
theorem State.withRecord_made (units seq base k : Nat) : Table.find (s.withRecord a ⟨recSpace, space, 1, units, seq, base⟩).ftl.spaces k =
    if k = space then some ⟨(Table.find s.ftl.spaces space).elim 1 (·.typ), units, seq, base, false, 0, 0⟩
    else Table.find s.ftl.spaces k :=
  Table.find_put _ _ _ _

/-- The record of a space ended marks it for the walk, and keeps every other. -/
theorem State.withRecord_ended {x : Space} (hx : Table.find s.ftl.spaces space = some x) (k : Nat) :
    Table.find (s.withRecord a ⟨recSpace, space, 0, 0, 0, 0⟩).ftl.spaces k =
      if k = space then some { x with walking := true } else Table.find s.ftl.spaces k := by
  have hspaces : (s.withRecord a ⟨recSpace, space, 0, 0, 0, 0⟩).ftl.spaces = Table.put s.ftl.spaces space { x with walking := true } := by
    change (match Table.find s.ftl.spaces space with
      | some x => Table.put s.ftl.spaces space { x with walking := true }
      | none => s.ftl.spaces) = _
    rw [hx]
  rw [hspaces, Table.find_put]

variable {s space typ units}

/-- A space that R320 and R350 admit is made, and the asker answered. -/
theorem State.createSpace_makes (h : s.Records) (hmounted : s.mounted = true) (hstate : s.fld Reg.FTL_STATE_STATE = 2) (hlow : 1 ≤ space)
    (hhigh : space ≤ 4095) (htyp : typ = 1 ∨ typ = 2) (hunits : units ≠ 0) (hnone : Table.find s.ftl.spaces space = none)
    (hroom : s.spaceUnits + units ≤ s.userUnits) : ∃ t : State, s.createSpace a space typ units = t.answer a stOK 0 ∧ OnlyReads s t ∧
      t.space space = some ⟨typ, units, s.ftl.nextSeq, s.ftl.nextMapPage, false, 0, 0⟩ ∧ ∀ k, k ≠ space → t.space k = s.space k := by
  have hrecords : (s.addSpace space typ units).Records :=
    h.of_eq ((State.reg_setFld _ _ _ _).trans (if_neg (by decide))) ((State.reg_setFld _ _ _ _).trans (if_neg (by decide))) rfl
  have hadd : OnlyReads s (s.addSpace space typ units) := rfl
  have hfind (k : Nat) : Table.find (s.addSpace space typ units).ftl.spaces k =
      if k = space then some ⟨typ, units, s.ftl.nextSeq, s.ftl.nextMapPage, false, 0, 0⟩ else Table.find s.ftl.spaces k :=
    Table.find_put _ _ _ _
  refine ⟨(s.addSpace space typ units).withRecord a ⟨recSpace, space, 1, units, s.ftl.nextSeq, s.ftl.nextMapPage⟩, ?_,
    hadd.trans (State.withRecord_onlyReads _ _ _), ?_, fun k hk => State.space_of_spaces ?_⟩
  · have hvalid : (space = 0 || space > 4095 || !(typ == 1 || typ == 2) || units = 0) = false := by
      rcases htyp with rfl | rfl <;> simp [hunits] <;> omega
    rw [← State.recordFor_answers _ hrecords]
    simp only [State.createSpace, hmounted, hstate, hvalid, hnone, Option.isSome_none, if_neg (Nat.not_lt.2 hroom)]
    rfl
  · rw [State.space, State.withRecord_made, if_pos rfl, hfind, if_pos rfl]
    rfl
  · rw [State.withRecord_made, if_neg hk, hfind, if_neg hk]

/-- A space deleted is there for no later command. -/
theorem State.deleteSpace_ends (h : s.Records) (hmounted : s.mounted = true) (hlow : 1 ≤ space) (hhigh : space ≤ 4095)
    (hsome : (s.space space).isSome) : ∃ t : State, s.deleteSpace a space = t.answer a stOK 0 ∧ OnlyReads s t ∧
      t.space space = none ∧ ∀ k, k ≠ space → t.space k = s.space k := by
  obtain ⟨x, hx⟩ : ∃ x, Table.find s.ftl.spaces space = some x := by
    cases hfind : Table.find s.ftl.spaces space with
    | some x => exact ⟨x, rfl⟩
    | none => rw [State.space, hfind] at hsome; exact absurd hsome Bool.false_ne_true
  refine ⟨s.withRecord a ⟨recSpace, space, 0, 0, 0, 0⟩, ?_, s.withRecord_onlyReads _ _, ?_, fun k hk => State.space_of_spaces ?_⟩
  · have hvalid : (space = 0 || space > 4095) = false := by simp; omega
    have hthere : (s.space space).isNone = false := by rw [Option.isNone_eq_false_iff]; exact hsome
    rw [← State.recordFor_answers _ h]
    simp only [State.deleteSpace, hmounted, hvalid, hthere]
    rfl
  · rw [State.space, State.withRecord_ended _ _ _ hx, if_pos rfl]
    rfl
  · rw [State.withRecord_ended _ _ _ hx, if_neg hk]

/-- The walk of a deleted space removes it with its map; the rest of the map stays. -/
theorem execSpaceWalk_walks {n : BitVec 12} {x : Space} (hx : Table.find s.ftl.spaces n.toNat = some x) (hwalking : x.walking = true)
    (hruns : s.flashRuns = true) : ∃ t, exec (.spaceWalk n) s = .next t ∧ Table.find t.ftl.spaces n.toNat = none ∧
      (∀ k, Table.find t.ftl.map k = if k / 2 ^ 40 != n.toNat then Table.find s.ftl.map k else none) ∧ t.dram = s.dram ∧
      t.flash = s.flash := by
  have hexec : ∃ t : State, exec (.spaceWalk n) s = .next t ∧ t.ftl.spaces = Table.drop s.ftl.spaces n.toNat ∧
      t.ftl.map = s.ftl.map.filter (fun e => e.1 / 2 ^ 40 != n.toNat) ∧ t.dram = s.dram ∧ t.flash = s.flash := by
    refine ⟨_, rfl, ?_⟩
    dsimp only
    rw [hx]
    dsimp only
    rw [hwalking, hruns]
    exact ⟨rfl, rfl, rfl, rfl⟩
  obtain ⟨t, hexec, hspaces, hmap, hdram, hflash⟩ := hexec
  refine ⟨t, hexec, by rw [hspaces, Table.find_drop, if_pos rfl], fun k => ?_, hdram, hflash⟩
  rw [hmap]
  exact Table.find_filter s.ftl.map (fun j => j / 2 ^ 40 != n.toNat) k

end

end Sys2Proof.Machine

/-!
SUPPORT. The commands of the translation engine on the descriptor that runs for them, and the statements on units and spaces (R319 to
R323, R325, R331, R335 to R337, R350, R351).
-/

namespace Sys2Proof.Machine

/-! ## The commands, on the descriptor that runs for them -/

theorem unitCount_ne_zero (x : Taken) : unitCount x ≠ 0 := by
  unfold unitCount zeroActsAsOne
  split
  · exact one_ne_zero
  · assumption

/-- No command's checks admit space 0. -/
theorem State.spaceCheck_space {s : State} {space lua n : Nat} {writes : Bool} (h : s.spaceCheck space lua n writes = none) : space ≠ 0 := by
  rintro rfl
  unfold State.spaceCheck at h
  split at h
  · cases h
  · split at h <;> simp at h

section
variable {c : CoreId} {tk : Ticket} {s : State} {x : Taken} (hruns : s.engineRuns 0 = true) (hmount : s.recovering = false)
include hruns hmount

section
variable (hwriting : s.writing (.desc c tk) = false)
include hwriting

section
variable (hpriv : s.ringPriv x ≠ privU)
  (hcheck : s.spaceCheck (x.fieldAt 0x10 2) (x.fieldAt 0x18 5) (unitCount x) true = none) (hheld : s.spaceHeld (x.fieldAt 0x10 2) = false)
include hpriv hcheck hheld

/-- A WRITE that every check admits begins: it reads its buffer unless its units are zeros, and answers nothing yet. -/
theorem execWrite_begins (hx : s.running c tk 0 0x02 = some x) (hcount : unitCount x ≤ 65536) : ∃ u : State, OnlyLogs s u ∧
    exec (.write c tk) s = .next (u.beginWrite (.desc c tk) (x.fieldAt 0x10 2) (x.fieldAt 0x18 5)
      ((List.range (unitCount x)).map (fun i =>
        if x.fieldAt 0x12 1 % 2 = 1 then zeros 4096 else s.dramBytes (x.fieldAt 0x20 8 + i * 4096) 4096)) false) := by
  have hexec (zero : Bool) (hzero : (x.fieldAt 0x12 1 % 2 == 1) = zero) : exec (.write c tk) s =
      .next ((if zero then s else s.engineAccess 0 false (x.fieldAt 0x20 8) (unitCount x * 4096)).beginWrite (.desc c tk)
        (x.fieldAt 0x10 2) (x.fieldAt 0x18 5) ((List.range (unitCount x)).map (fun i => if zero then zeros 4096 else
          (if zero then s else s.engineAccess 0 false (x.fieldAt 0x20 8) (unitCount x * 4096)).dramBytes
            (x.fieldAt 0x20 8 + i * 4096) 4096)) false) := by
    change execWrite c tk s = _
    simp only [execWrite, hx, hruns, hmount, hwriting, if_neg hpriv, if_neg (Nat.not_lt.2 hcount), hcheck, hheld, hzero]
    rfl
  by_cases hzero : x.fieldAt 0x12 1 % 2 = 1
  · refine ⟨s, OnlyLogs.refl s, ?_⟩
    simpa [hzero] using hexec true (by simpa using hzero)
  · refine ⟨s.engineAccess 0 false (x.fieldAt 0x20 8) (unitCount x * 4096), State.engineAccess_onlyLogs _ _ _ _ _, ?_⟩
    simpa [hzero, State.engineAccess_dramBytes] using hexec false (by simpa using hzero)

theorem execTrim_runs (hx : s.running c tk 0 0x03 = some x) (runs : List (Nat × Nat)) :
    exec (.trim c tk runs) s = .next (s.trimRuns (.desc c tk) (x.fieldAt 0x10 2) (x.fieldAt 0x18 5) (unitCount x) runs) := by
  change execTrim c tk runs s = _
  simp only [execTrim, hx, hruns, hmount, hwriting, if_neg hpriv, hcheck, hheld]
  rfl

end

section
variable (hpriv : s.ringPriv x = privM)
include hpriv

theorem execSpaceCreate_runs (hx : s.running c tk 0 0x04 = some x) :
    exec (.spaceCreate c tk) s = .next (s.createSpace (.desc c tk) (x.fieldAt 0x10 2) (x.fieldAt 0x12 1) (x.fieldAt 0x18 5)) := by
  change execSpaceCreate c tk s = _
  simp only [execSpaceCreate, hx, hruns, hmount, hwriting, hpriv, Bool.not_true, Bool.or_false, Bool.false_eq_true, if_false, ne_eq,
    not_true_eq_false]

theorem execSpaceDelete_runs (hx : s.running c tk 0 0x05 = some x) (hheld : s.spaceHeld (x.fieldAt 0x10 2) = false) :
    exec (.spaceDelete c tk) s = .next (s.deleteSpace (.desc c tk) (x.fieldAt 0x10 2)) := by
  change execSpaceDelete c tk s = _
  simp only [execSpaceDelete, hx, hruns, hmount, hwriting, hpriv, hheld]
  rfl

end

end

theorem execSync_runs (hx : s.running c tk 0 0x06 = some x) (hpriv : s.ringPriv x ≠ privU)
    (hfirst : ∀ w ∈ s.ftl.syncs, w.asker ≠ .desc c tk) (hmounted : s.mounted = true)
    (hspace : x.fieldAt 0x10 2 = 0 ∨ (s.space (x.fieldAt 0x10 2)).isSome) :
    exec (.sync c tk) s = .next (s.beginSync (.desc c tk) (x.fieldAt 0x10 2)) := by
  have hnone : s.ftl.syncs.any (fun y => y.asker == .desc c tk) = false :=
    List.any_eq_false.2 fun w hw => by simpa using hfirst w hw
  have hthere : (x.fieldAt 0x10 2 ≠ 0 && (s.space (x.fieldAt 0x10 2)).isNone) = false := by
    rcases hspace with h | h
    · simp [h]
    · simp [Option.isNone_eq_false_iff.2 h]
  change execSync c tk s = _
  simp only [execSync, hx, hruns, hmount, hnone, if_neg hpriv, hmounted, hthere]
  rfl

end

section
variable {s : State} (hmount : s.recovering = false) (cid : BitVec 16) (entry pay : List Byte)
include hmount

theorem execCmdSpaceCreate_runs : exec (.cmdSpaceCreate (.manager cid entry pay)) s =
    .next (s.createSpace (.ring (.manager cid.toNat)) (leAt (fitBytes 64 entry) 0x10 2) (leAt (fitBytes 64 entry) 0x12 1)
      (leAt (fitBytes 64 entry) 0x18 5)) := by
  change execCmdSpaceCreate (.manager cid entry pay) s = _
  simp only [execCmdSpaceCreate, hmount, State.takeCommand, Bool.false_eq_true, if_false]

theorem execCmdSpaceDelete_runs (hheld : s.spaceHeld (leAt (fitBytes 64 entry) 0x10 2) = false) :
    exec (.cmdSpaceDelete (.manager cid entry pay)) s =
      .next (s.deleteSpace (.ring (.manager cid.toNat)) (leAt (fitBytes 64 entry) 0x10 2)) := by
  change execCmdSpaceDelete (.manager cid entry pay) s = _
  simp only [execCmdSpaceDelete, hmount, State.takeCommand, hheld, Bool.false_eq_true, if_false]

end

/-! ## The answers -/

theorem OnlyReads.host {s t : State} (h : OnlyReads s t) : t.host = s.host := h.proj State.host

section
variable {c : CoreId} {tk : Ticket} {s u : State} {x : Taken} (hat : s.takenAt c tk = some x) (hres : x.result = none)
include hat hres

/-- Where only the flash and the engine changed, the answer to a descriptor in work ends it. -/
theorem OnlyReads.answersDesc (h : OnlyReads s u) (status detail : Nat) :
    u.answer (.desc c tk) status detail = u.finish x status detail [] ∧ EndedWith (u.finish x status detail []) c tk status detail :=
  ⟨u.answer_desc ((State.takenAt_of_taken h.taken c tk).trans hat) hres status detail, State.finish_endedWith hat h.taken _ _ _⟩

end

/-! ## The statements -/

section
variable {c : CoreId} {tk : Ticket} {s : State} {x : Taken} (hruns : s.engineRuns 0 = true) (hmount : s.recovering = false)
  (hwriting : s.writing (.desc c tk) = false)
include hruns hmount hwriting

/-- A WRITE that every check admits leaves its units, with their data, on their way. -/
theorem write_carries (hpriv : s.ringPriv x ≠ privU)
    (hcheck : s.spaceCheck (x.fieldAt 0x10 2) (x.fieldAt 0x18 5) (unitCount x) true = none) (hheld : s.spaceHeld (x.fieldAt 0x10 2) = false)
    (hx : s.running c tk 0 0x02 = some x) (hcount : unitCount x ≤ 65536) :
    ∃ t, exec (.write c tk) s = .next t ∧ t.ftl.writers = s.ftl.writers ++ [⟨s.ftl.nextWriter, .desc c tk, unitCount x, false⟩] ∧
      t.takenAt c tk = some x ∧ t.dram = s.dram ∧ t.flash.nand = s.flash.nand ∧ t.rings = s.rings ∧ t.cores = s.cores ∧
      ∀ i, i < unitCount x → ∃ u ∈ t.underWay, u.space = x.fieldAt 0x10 2 ∧ u.lua = x.fieldAt 0x18 5 + i ∧
        u.writer = some s.ftl.nextWriter ∧
        u.data = if x.fieldAt 0x12 1 % 2 = 1 then zeros 4096 else s.dramBytes (x.fieldAt 0x20 8 + i * 4096) 4096 := by
  obtain ⟨hat, -⟩ := State.running_takenAt hx
  obtain ⟨u, hu, hexec⟩ := execWrite_begins hruns hmount hwriting hpriv hcheck hheld hx hcount
  obtain ⟨hreads, hnand, hwriters, hunits⟩ := u.beginWrite_begins (.desc c tk) (x.fieldAt 0x10 2) (x.fieldAt 0x18 5)
    ((List.range (unitCount x)).map (fun i =>
      if x.fieldAt 0x12 1 % 2 = 1 then zeros 4096 else s.dramBytes (x.fieldAt 0x20 8 + i * 4096) 4096)) false
  have h := hu.onlyReads.trans hreads
  refine ⟨_, hexec, ?_, (State.takenAt_of_taken h.taken c tk).trans hat, h.dram, by rw [hnand, hu.flash], h.rings, h.cores, fun i hi => ?_⟩
  · rw [hwriters, hu.ftl, List.length_map, List.length_range]
  · rw [hu.ftl] at hunits
    exact hunits i _ (by rw [List.getElem?_map, List.getElem?_range hi, Option.map_some])

/-- A TRIM of the whole run, with room for its record, unmaps the run and nothing else. -/
theorem trim_unmaps (hpriv : s.ringPriv x ≠ privU)
    (hcheck : s.spaceCheck (x.fieldAt 0x10 2) (x.fieldAt 0x18 5) (unitCount x) true = none) (hheld : s.spaceHeld (x.fieldAt 0x10 2) = false)
    (hx : s.running c tk 0 0x03 = some x) (hrecords : s.Records) :
    ∃ t, exec (.trim c tk [(0, unitCount x)]) s = .next t ∧ EndedWith t c tk stOK 0 ∧
      (∀ k, Table.find t.ftl.map k = if mapKey (x.fieldAt 0x10 2) (x.fieldAt 0x18 5) ≤ k ∧
        k < mapKey (x.fieldAt 0x10 2) (x.fieldAt 0x18 5) + unitCount x then none else Table.find s.ftl.map k) ∧
      t.ftl.journal = s.ftl.journal ++ [⟨recTrim, x.fieldAt 0x10 2, unitCount x, x.fieldAt 0x18 5, 0, 0⟩] ∧ t.dram = s.dram ∧
      t.rings = s.rings ∧ t.cores = s.cores := by
  obtain ⟨hat, -, -, hres⟩ := State.running_takenAt hx
  have hspace : x.fieldAt 0x10 2 ≠ 0 := State.spaceCheck_space hcheck
  obtain ⟨t, htrim, ht, hmap, hjournal⟩ :=
    State.trimRuns_whole hrecords (unitCount_ne_zero x) (.desc c tk) (x.fieldAt 0x10 2) (x.fieldAt 0x18 5)
  have h := ht.trans (t.withRecord_onlyReads (.desc c tk) ⟨recTrim, x.fieldAt 0x10 2, unitCount x, x.fieldAt 0x18 5, 0, 0⟩)
  obtain ⟨hanswer, hended⟩ := h.answersDesc hat hres stOK 0
  refine ⟨_, (execTrim_runs hruns hmount hwriting hpriv hcheck hheld hx _).trans (congrArg _ (htrim.trans hanswer)), hended,
    fun k => ?_, ?_, h.dram, h.rings, h.cores⟩
  · rw [← hmap]
    exact State.unmap_find hspace _ _ k
  · rw [← hjournal]
    exact State.unmap_journal _ _ _ _

end

/-- Settles O31: a READ by `execRead_reads`, a WRITE by the units it carries (`Carries`), a TRIM by its one record (`withRecord`). The
order of the refusals, the free bytes of an unreadable unit and the runs of a TRIM are as log entries 81 and 82 (deduced) have
them. -/
theorem unitReadsAndWrites : Obligations.UnitReadsAndWrites := by
  unfold Obligations.UnitReadsAndWrites
  refine ⟨⟨?read, fun s space lua => State.readUnit_unmapped, fun s space lua l sp a w => State.readUnit_mappedUnit⟩, ?write⟩
  case read =>
    rintro c tk s x space n lua us hx hruns hmount rfl rfl rfl
    obtain ⟨hat, -⟩ := State.running_takenAt hx
    refine ⟨fun hpriv => ?_, fun hpriv hcount code hcheck => ?_, fun hpriv hcount hcheck hwaits hus => ?_⟩
    · exact ⟨_, execRead_notPriv hx hruns hmount hpriv, State.finish_endedWith hat rfl _ _ _, rfl⟩
    · exact ⟨_, execRead_refused hx hruns hmount hpriv hcount hcheck, State.finish_endedWith hat rfl _ _ _, rfl⟩
    · obtain ⟨t, draw, hexec, hended, hdram, hrings, hcores, hmapped⟩ := execRead_reads hx hruns hmount hpriv hcount hcheck hwaits hus
      refine ⟨fun hall => ?_, fun i hi hbefore => ?_⟩
      · rw [readEnd_of_isSome hall] at hended
        rw [readBytes_of_isSome hall] at hdram
        exact ⟨t, hexec, hended, hdram, hrings, hcores, congrArg (·.1) hmapped, congrArg (·.2) hmapped⟩
      · rw [readEnd_of_first hi hbefore] at hended
        exact ⟨t, hexec, hended, hrings, hcores⟩
  case write =>
    rintro c tk s x space n lua hruns hmount hwriting hpriv rfl rfl rfl
    refine ⟨fun hx hcount hcheck hheld => write_carries hruns hmount hwriting hpriv hcheck hheld hx hcount,
      fun hx hcheck hheld hsafe hwaiting hfits hfresh => ?_, fun y hx hfirst hmounted hspace => ?_⟩
    · obtain ⟨t, hexec, hended, hmap, hrest⟩ :=
        trim_unmaps hruns hmount hwriting hpriv hcheck hheld hx ⟨hsafe, hwaiting, hfits, hfresh⟩
      refine ⟨t, hexec, hended, fun i hi => ?_, fun k hk => ?_, hrest⟩
      · rw [State.lookup, if_neg (State.spaceCheck_space hcheck), hmap, if_pos (by unfold mapKey; omega)]
      · rw [hmap, if_neg (by omega)]
    · obtain ⟨hat, -, -, hres⟩ := State.running_takenAt hx
      have hexec := execSync_runs hruns hmount hx hpriv hfirst hmounted (hspace.imp_right fun h => by rw [h]; rfl)
      refine ⟨fun hdurable => ?_, fun hlater => ?_⟩
      · obtain ⟨hanswer, hended⟩ := (OnlyReads.refl s).answersDesc hat hres stOK 0
        rw [State.beginSync, if_pos hdurable, hanswer] at hexec
        exact ⟨_, hexec, hended, rfl, rfl⟩
      · rw [hexec, State.beginSync, if_neg (Nat.not_le.2 hlater)]

/-- Settles O32: a space made by `createSpace_makes`, one ended by `deleteSpace_ends`, its walk by `execSpaceWalk_walks`. -/
theorem spaces : Obligations.Spaces := by
  unfold Obligations.Spaces
  intro s hmount hsafe hwaiting hfits hfresh
  have hrecords : s.Records := ⟨hsafe, hwaiting, hfits, hfresh⟩
  refine ⟨?desc, ?command, fun n x hx hwalking hruns => ?walk⟩
  case desc =>
    rintro c tk x space typ units hruns hwriting hpriv hmounted rfl rfl rfl
    refine ⟨fun hx hstate hlow hhigh htyp hunits hnone hroom => ?_, fun hx hlow hhigh hsome hheld => ?_⟩
    · obtain ⟨hat, -, -, hres⟩ := State.running_takenAt hx
      obtain ⟨t, hcreate, ht, hmade, hothers⟩ :=
        State.createSpace_makes (.desc c tk) hrecords hmounted hstate hlow hhigh htyp hunits hnone hroom
      obtain ⟨hanswer, hended⟩ := ht.answersDesc hat hres stOK 0
      exact ⟨_, _, (execSpaceCreate_runs hruns hmount hwriting hpriv hx).trans (congrArg _ (hcreate.trans hanswer)), hended, hmade, rfl,
        rfl, rfl, hothers, ht.dram, ht.cores⟩
    · obtain ⟨hat, -, -, hres⟩ := State.running_takenAt hx
      obtain ⟨t, hdelete, ht, hgone, hothers⟩ := State.deleteSpace_ends (.desc c tk) hrecords hmounted hlow hhigh hsome
      obtain ⟨hanswer, hended⟩ := ht.answersDesc hat hres stOK 0
      exact ⟨_, (execSpaceDelete_runs hruns hmount hwriting hpriv hx hheld).trans (congrArg _ (hdelete.trans hanswer)), hended, hgone,
        hothers, ht.dram, ht.cores⟩
  case command =>
    rintro cid entry pay e space rfl rfl hmounted hlow hhigh
    refine ⟨fun hstate htyp hunits hnone hroom => ?_, fun hsome hheld => ?_⟩
    · obtain ⟨t, hcreate, ht, hmade, -⟩ :=
        State.createSpace_makes (.ring (.manager cid.toNat)) hrecords hmounted hstate hlow hhigh htyp hunits hnone hroom
      exact ⟨_, _, (execCmdSpaceCreate_runs hmount cid entry pay).trans (congrArg _ hcreate), by rw [← ht.host]; rfl, hmade, rfl, rfl,
        ht.dram, ht.cores⟩
    · obtain ⟨t, hdelete, ht, hgone, -⟩ := State.deleteSpace_ends (.ring (.manager cid.toNat)) hrecords hmounted hlow hhigh hsome
      exact ⟨_, (execCmdSpaceDelete_runs hmount cid entry pay hheld).trans (congrArg _ hdelete), by rw [← ht.host]; rfl, hgone, ht.dram,
        ht.cores⟩
  case walk =>
    obtain ⟨t, hexec, hgone, hmap, hdram, hflash⟩ := execSpaceWalk_walks hx hwalking hruns
    exact ⟨t, hexec, hgone, fun k hk => by rw [hmap, hk, bne_self_eq_false]; rfl, fun k hk => by rw [hmap, if_pos (bne_iff_ne.2 hk)],
      hdram, hflash⟩

end Sys2Proof.Machine

/-!
SUPPORT. What the weir and the ports touch: states that differ on the network side alone, and reads of sub-ports, queues and port
registers after they are written (R355 to R358, R393, R398 to R400, R403).
-/

namespace Sys2Proof.Machine

/-! ## States that differ on the network side -/

/-- `t` is `s` but for the network side and what logging touches. -/
def OnlyNet (s t : State) : Prop := OnlyLogs s { t with net := s.net }

theorem OnlyNet.refl (s : State) : OnlyNet s s := rfl

theorem OnlyNet.trans {s t u : State} (h : OnlyNet s t) (g : OnlyNet t u) : OnlyNet s u := by
  unfold OnlyNet OnlyLogs at *
  rw [← h, ← g]

theorem OnlyNet.ite {s a b : State} {c : Prop} [Decidable c] (ha : OnlyNet s a) (hb : OnlyNet s b) : OnlyNet s (if c then a else b) := by
  split
  · exact ha
  · exact hb

theorem OnlyNet.foldl {α : Type} {f : State → α → State} (hf : ∀ s a, OnlyNet s (f s a)) (l : List α) (s : State) :
    OnlyNet s (l.foldl f s) :=
  List.foldlRecOn (motive := OnlyNet s) l f (OnlyNet.refl s) fun t ht a _ => ht.trans (hf t a)

theorem OnlyLogs.onlyNet {s t : State} (h : OnlyLogs s t) : OnlyNet s t := by
  unfold OnlyNet OnlyLogs at *
  rw [← h]

section
variable {s t : State} (h : OnlyNet s t)
include h

theorem OnlyNet.proj {α : Type} (f : State → α) : f { t with
    regs := s.regs, events := s.events, fltLog := s.fltLog, letters := s.letters, msix := s.msix, trace := s.trace, net := s.net } = f s :=
  congrArg f h

theorem OnlyNet.dram : t.dram = s.dram := h.proj State.dram
theorem OnlyNet.rings : t.rings = s.rings := h.proj State.rings
theorem OnlyNet.cores : t.cores = s.cores := h.proj State.cores
theorem OnlyNet.taken : t.taken = s.taken := h.proj State.taken

end

section
variable (s : State)

theorem State.setReg_onlyNet (off : Nat) (w : Word32) : OnlyNet s (s.setReg off w) := rfl
theorem State.errAdd_onlyNet (f : Fld) (k : Nat) : OnlyNet s (s.errAdd f k) := rfl
theorem State.count_onlyNet (u k n : Nat) : OnlyNet s (s.count u k n) := (s.count_onlyLogs u k n).onlyNet
theorem State.setSubport_onlyNet (n : BitVec 3) (p : SubPort) : OnlyNet s (s.setSubport n p) := rfl
theorem State.showSubport_onlyNet (n : BitVec 3) : OnlyNet s (s.showSubport n) := rfl
theorem State.setQueue_onlyNet (k : Nat) (q : WeirQueue) : OnlyNet s (s.setQueue k q) := rfl
theorem State.setNode_onlyNet (k : Nat) (n : ServiceNode) : OnlyNet s (s.setNode k n) := rfl
theorem State.setQp_onlyNet (k : Nat) (q : Qp) : OnlyNet s (s.setQp k q) := rfl

theorem State.startTimer_onlyNet (k : Nat) : OnlyNet s (s.startTimer k) := by
  unfold State.startTimer
  split
  · exact OnlyNet.ite (s.setQp_onlyNet _ _) (OnlyNet.refl s)
  · exact OnlyNet.refl s

theorem State.linkLost_onlyNet (sub : BitVec 3) : OnlyNet s (s.linkLost sub) := by
  unfold State.linkLost
  extract_lets s1 p s2 s3 off
  have h1 : OnlyNet s s1 := OnlyNet.foldl (fun t e => OnlyNet.ite (t.setQueue_onlyNet _ _) (OnlyNet.refl t)) _ s
  have h2 : OnlyNet s1 s2 := (s1.setSubport_onlyNet sub _).trans (State.showSubport_onlyNet _ sub)
  have h3 : OnlyNet s2 s3 := OnlyNet.foldl (fun t e => OnlyNet.ite (t.startTimer_onlyNet _) (OnlyNet.refl t)) _ s2
  exact ((h1.trans h2).trans h3).trans (s3.setReg_onlyNet _ _)

theorem State.linkUpNow_onlyNet (sub : BitVec 3) : OnlyNet s (s.linkUpNow sub) := rfl

theorem State.notePause_onlyNet (sub : BitVec 3) : OnlyNet s (s.notePause sub) := by
  unfold State.notePause
  extract_lets p
  split
  · exact OnlyNet.ite ((s.setSubport_onlyNet sub _).trans (State.errAdd_onlyNet _ _ _)) (OnlyNet.refl s)
  · exact OnlyNet.refl s

theorem State.endPause_onlyNet (sub : BitVec 3) : OnlyNet s (s.endPause sub) := by
  unfold State.endPause
  extract_lets s1 p s2 s3
  have h1 : OnlyNet s s1 := s.notePause_onlyNet sub
  have h3 : OnlyNet s2 s3 := OnlyNet.foldl (fun t n => OnlyNet.ite (OnlyNet.refl t) (t.setNode_onlyNet _ _)) _ s2
  exact OnlyNet.ite h1 (((h1.trans (s1.setSubport_onlyNet sub _)).trans h3).trans (s3.showSubport_onlyNet sub))

theorem State.sendPause_onlyNet (sub : BitVec 3) (quanta : Nat) : OnlyNet s (s.sendPause sub quanta) := by
  unfold State.sendPause
  extract_lets p s1 net s2 s3
  have h2 : OnlyNet s s2 := rfl
  exact (h2.trans (s2.count_onlyNet _ _ _)).trans (s3.setReg_onlyNet _ _)

theorem State.cutRate_onlyNet (sub : BitVec 3) (qk : Nat) : OnlyNet s (s.cutRate sub qk) := by
  unfold State.cutRate
  extract_lets q line recent rc
  exact OnlyNet.ite (OnlyNet.refl s) ((s.setQueue_onlyNet _ _).trans (State.count_onlyNet _ _ _ _))

/-! ## Sub-ports -/

@[simp] theorem State.subport_setSubport (n m : BitVec 3) (p : SubPort) :
    (s.setSubport n p).subport m = if m = n then p else s.subport m := by
  by_cases e : m = n
  · subst e; simp [State.subport, State.setSubport]
  · have : n.toNat ≠ m.toNat := fun x => e (BitVec.eq_of_toNat_eq x.symm)
    simp [State.subport, State.setSubport, this, e]

theorem State.subport_of_net {s t : State} (h : t.net = s.net) (n : BitVec 3) : t.subport n = s.subport n := by
  unfold State.subport
  simp only [h]

@[simp] theorem State.subport_setReg (off : Nat) (w : Word32) (n : BitVec 3) : (s.setReg off w).subport n = s.subport n := rfl
@[simp] theorem State.subport_showSubport (m n : BitVec 3) : (s.showSubport m).subport n = s.subport n := rfl
@[simp] theorem State.subport_setQueue (k : Nat) (q : WeirQueue) (n : BitVec 3) : (s.setQueue k q).subport n = s.subport n := rfl
@[simp] theorem State.subport_setNode (k : Nat) (x : ServiceNode) (n : BitVec 3) : (s.setNode k x).subport n = s.subport n := rfl
@[simp] theorem State.subport_setQp (k : Nat) (q : Qp) (n : BitVec 3) : (s.setQp k q).subport n = s.subport n := rfl
@[simp] theorem State.subport_errAdd (f : Fld) (k : Nat) (n : BitVec 3) : (s.errAdd f k).subport n = s.subport n := rfl

@[simp] theorem State.subport_count (u k c : Nat) (n : BitVec 3) : (s.count u k c).subport n = s.subport n :=
  State.subport_of_net (s.count_onlyLogs u k c).net n

@[simp] theorem State.subport_startTimer (k : Nat) (n : BitVec 3) : (s.startTimer k).subport n = s.subport n := by
  unfold State.startTimer
  split
  · split <;> rfl
  · rfl

theorem subNo_toNat {n : Nat} (h : n < 8) : (subNo n).toNat = n := by
  rw [subNo, BitVec.toNat_ofNat, Nat.mod_eq_of_lt (by omega)]

/-! ## Queues -/

theorem State.queueAt_setQueue (k j : Nat) (q : WeirQueue) : (s.setQueue k q).queueAt j = if j = k then q else s.queueAt j :=
  Table.at_write WeirQueue.empty s.net.queues k j q

theorem State.queueAt_of_net {s t : State} (h : t.net = s.net) (k : Nat) : t.queueAt k = s.queueAt k := by
  rw [State.queueAt, State.queueAt, h]

@[simp] theorem State.queueAt_setQp (n : Nat) (q : Qp) (k : Nat) : (s.setQp n q).queueAt k = s.queueAt k := rfl
@[simp] theorem State.queueAt_setReg (off : Nat) (w : Word32) (k : Nat) : (s.setReg off w).queueAt k = s.queueAt k := rfl

@[simp] theorem State.queueAt_count (u i n k : Nat) : (s.count u i n).queueAt k = s.queueAt k :=
  State.queueAt_of_net (s.count_onlyLogs u i n).net k

@[simp] theorem State.queueAt_startTimer (n k : Nat) : (s.startTimer n).queueAt k = s.queueAt k := by
  unfold State.startTimer
  split
  · split <;> rfl
  · rfl

/-! ## Registers of the ports -/

/-- The network polder works still after a register is written that is neither `POL_STATE` nor `FLT_STATUS`. -/
theorem State.netRuns_setReg {off : Nat} (w : Word32) (hpol : Reg.POL_STATE ≠ off) (hflt : Reg.FLT_STATUS_SAFE.off ≠ off) :
    (s.setReg off w).netRuns = s.netRuns := by
  simp only [State.netRuns, State.polderOn, State.polder, State.flag, State.reg_setReg, if_neg hpol, if_neg hflt]

/-- A register that is none of those that show a sub-port. -/
theorem State.reg_showSubport {off : Nat} (n : BitVec 3) (hstat : off ≠ Reg.NET_PORT_STAT + 4 * (n.toNat / 2))
    (hpause : off ≠ Reg.WER_PAUSE_STAT) : (s.showSubport n).reg off = s.reg off := by
  rw [State.showSubport, State.reg_setReg, if_neg hpause, State.reg_setReg, if_neg hstat]

end

end Sys2Proof.Machine

/-!
SUPPORT. Ports that come up, links that go down, pauses and congestion control, and the statement about them (R355, R356, R358,
R393, R398 to R400, R403).
-/

namespace Sys2Proof.Machine

/-! ## A link goes down (R356, R403) -/

section
variable (s : State) (sub : BitVec 3)

/-- The queues of a sub-port are drained. -/
def State.drainQueues (l : Table WeirQueue) : State :=
  l.foldl (fun (s : State) e => if e.1 / 16384 == sub.toNat then s.setQueue e.1 { e.2 with packets := [] } else s) s

theorem State.drainQueues_subport (l : Table WeirQueue) (n : BitVec 3) : (s.drainQueues sub l).subport n = s.subport n :=
  foldl_keeps (State.subport · n) (fun t e _ => by dsimp only; split <;> rfl) s

/-- A queue of another sub-port stays. -/
theorem State.drainQueues_queueAt_of_ne {k : Nat} (l : Table WeirQueue) (hk : k / 16384 ≠ sub.toNat) :
    (s.drainQueues sub l).queueAt k = s.queueAt k :=
  foldl_keeps (State.queueAt · k) (fun t e _ => by
    dsimp only
    split
    next he =>
      rw [State.queueAt_setQueue, if_neg]
      rintro rfl
      exact hk (beq_iff_eq.1 he)
    · rfl) s

/-- A queue of the sub-port holds nothing once its entry was drained, and where it held nothing before. -/
theorem State.drainQueues_packets {k : Nat} (hk : k / 16384 = sub.toNat) (l : Table WeirQueue)
    (h : (s.queueAt k).packets = [] ∨ ∃ e ∈ l, e.1 = k) : ((s.drainQueues sub l).queueAt k).packets = [] := by
  induction l generalizing s with
  | nil =>
    rcases h with h | ⟨e, he, -⟩
    · exact h
    · exact nomatch he
  | cons e l ih =>
    refine ih _ ?_
    beta_reduce
    by_cases hek : e.1 = k
    · refine .inl ?_
      rw [if_pos (beq_iff_eq.2 (hek.symm ▸ hk)), State.queueAt_setQueue, if_pos hek.symm]
    · refine h.imp (fun h => ?_) fun ⟨f, hf, hfk⟩ => ?_
      · split
        · rw [State.queueAt_setQueue, if_neg (Ne.symm hek)]
          exact h
        · exact h
      · exact ⟨f, (List.mem_cons.1 hf).resolve_left fun hfe => hek (hfe ▸ hfk), hfk⟩

theorem State.drainQueues_packets_self {k : Nat} (hk : k / 16384 = sub.toNat) :
    ((s.drainQueues sub s.net.queues).queueAt k).packets = [] := by
  refine s.drainQueues_packets sub hk _ ?_
  by_cases h : ∃ e ∈ s.net.queues, e.1 = k
  · exact .inr h
  · refine .inl ?_
    rw [State.queueAt, Table.at, Table.find_eq_none fun e he hek => h ⟨e, he, hek⟩]
    rfl

/-- A link that goes down, as its parts: queues drained, the sub-port down, timers started and the change shown. -/
theorem State.linkLost_eq : ∃ (l : Table Qp) (off : Nat) (w : Word32), s.linkLost sub =
    (l.foldl (fun (s : State) e => if e.2.sub = sub.toNat then s.startTimer e.1 else s)
      (((s.drainQueues sub s.net.queues).setSubport sub
        { s.subport sub with up := false, urgent := [], pausedSince := none }).showSubport sub)).setReg off w := by
  rw [← s.drainQueues_subport sub s.net.queues sub]
  exact ⟨_, _, _, rfl⟩

theorem State.linkLost_subport (n : BitVec 3) : (s.linkLost sub).subport n =
    if n = sub then { s.subport sub with up := false, urgent := [], pausedSince := none } else s.subport n := by
  obtain ⟨l, off, w, h⟩ := s.linkLost_eq sub
  rw [h, State.subport_setReg]
  refine (foldl_keeps (State.subport · n) (fun t e _ => by split <;> simp) _).trans ?_
  rw [State.subport_showSubport, State.subport_setSubport, State.drainQueues_subport]

theorem State.linkLost_queueAt (k : Nat) : (s.linkLost sub).queueAt k = (s.drainQueues sub s.net.queues).queueAt k := by
  obtain ⟨l, off, w, h⟩ := s.linkLost_eq sub
  rw [h, State.queueAt_setReg]
  exact foldl_keeps (State.queueAt · k) (fun t e _ => by split <;> simp) _

/-! ## A link comes up (R393, R403) -/

theorem State.linkUpNow_subport (n : BitVec 3) : (s.linkUpNow sub).subport n =
    if n = sub then { s.subport sub with
      up := true, whole := !bitAt (Table.at 0 s.net.ports (sub.toNat / 2)) 30, v := 0, pausedSince := none } else s.subport n :=
  State.subport_setSubport _ sub n _

/-- The queues of the sub-port start afresh. -/
theorem State.linkUpNow_queueAt {k : Nat} (hk : k / 16384 = sub.toNat) : (s.linkUpNow sub).queueAt k = WeirQueue.empty := by
  change Table.at WeirQueue.empty (s.net.queues.filter fun e => e.1 / 16384 != sub.toNat) k = _
  rw [Table.at, Table.find_filter s.net.queues (fun j => j / 16384 != sub.toNat), hk, bne_self_eq_false]
  rfl

/-- A sub-port that exists and is down comes up. -/
def State.bringUp (n : BitVec 3) : State := if s.subportExists n && !(s.subport n).up then s.linkUpNow n else s

theorem State.bringUp_onlyNet : OnlyNet s (s.bringUp sub) := OnlyNet.ite (s.linkUpNow_onlyNet sub) (OnlyNet.refl s)

theorem State.bringUp_subport_of_ne {n : BitVec 3} (h : n ≠ sub) : (s.bringUp sub).subport n = s.subport n := by
  unfold State.bringUp
  split
  · rw [State.linkUpNow_subport, if_neg h]
  · rfl

theorem State.bringUp_up (h : s.subportExists sub = true) : ((s.bringUp sub).subport sub).up = true := by
  unfold State.bringUp
  split
  next => rw [State.linkUpNow_subport, if_pos rfl]
  next hup => simpa [h] using hup

theorem State.bringUp_subportExists (n : BitVec 3) : (s.bringUp sub).subportExists n = s.subportExists n := by
  unfold State.bringUp
  split <;> rfl

theorem State.bringUp_reg {off : Nat} (hstat : off ≠ Reg.NET_PORT_STAT + 4 * (sub.toNat / 2)) (hpause : off ≠ Reg.WER_PAUSE_STAT) :
    (s.bringUp sub).reg off = s.reg off := by
  unfold State.bringUp
  split
  · exact State.reg_showSubport _ sub hstat hpause
  · rfl

end

/-! ## A port is enabled (R355, R356) -/

/-- `NET_PORT_CFGn` is none of the registers that show a sub-port. -/
theorem portCfg_ne {port : Nat} (hp : port < 4) (k : Nat) : Reg.NET_PORT_CFG + 4 * port ≠ Reg.NET_PORT_STAT + 4 * k ∧
    Reg.NET_PORT_CFG + 4 * port ≠ Reg.WER_PAUSE_STAT := by
  unfold Reg.NET_PORT_CFG Reg.NET_PORT_STAT Reg.WER_PAUSE_STAT
  omega

section
variable (s : State) (port : BitVec 2) (value : Word32)

/-- The configuration that PORT_ENABLE sets. -/
def enabledCfg : Word32 := (value ||| 0x80000000) &&& 0xF0003FFF

theorem bitAt_enabledCfg_en : bitAt (enabledCfg value) 31 = true := by simp [enabledCfg, bitAt]
theorem bitAt_enabledCfg_split : bitAt (enabledCfg value) 30 = bitAt value 30 := by simp [enabledCfg, bitAt]

/-- The state with the configuration of a port in its register and in force. -/
def State.withPortCfg : State :=
  let s := s.setReg (Reg.NET_PORT_CFG + 4 * port.toNat) (enabledCfg value)
  { s with net := { s.net with ports := Table.put s.net.ports port.toNat (enabledCfg value) } }

theorem State.writePortCfg_enabling (hoff : bitAt (s.reg (Reg.NET_PORT_CFG + 4 * port.toNat)) 31 = false) :
    s.writePortCfg port.toNat (value ||| 0x80000000) = s.withPortCfg port value := by
  have hen : bitAt (value ||| 0x80000000) 31 = true := by simp [bitAt]
  unfold State.writePortCfg
  simp only [hen, hoff]
  rfl

theorem State.withPortCfg_subportExists {n : BitVec 3} (hn : n.toNat / 2 = port.toNat) (hport : port.toNat < Config.ethPorts s.part.variant)
    (hhalf : n.toNat % 2 = 0 ∨ bitAt value 30 = true) : (s.withPortCfg port value).subportExists n = true := by
  have hcfg : Table.at 0 (s.withPortCfg port value).net.ports port.toNat = enabledCfg value := by
    rw [Table.at, State.withPortCfg, Table.find_put, if_pos rfl]
    rfl
  have hpart : (s.withPortCfg port value).part = s.part := rfl
  simp only [State.subportExists, hn, hcfg, hpart, hport, bitAt_enabledCfg_en, bitAt_enabledCfg_split]
  simpa using hhalf

variable {s port} {w : Writer} (hw : s.mayWrite w = true) (hruns : s.netRuns = true)
  (hoff : bitAt (s.reg (Reg.NET_PORT_CFG + 4 * port.toNat)) 31 = false)
include hw hruns hoff

/-- Both sub-ports of the port are brought up under the configuration written. -/
theorem execPortEnable_brings : exec (.portEnable w port value true) s =
    .next (((s.withPortCfg port value).bringUp (subNo (2 * port.toNat))).bringUp (subNo (2 * port.toNat + 1))) := by
  have hpn : s.polderOn polPN = true := (Bool.and_eq_true_iff.1 hruns).1
  have hne := port.isLt
  have hstill : (s.withPortCfg port value).netRuns = true :=
    (State.netRuns_setReg s _ (by simp only [Reg.POL_STATE, Reg.NET_PORT_CFG]; omega)
      (by simp only [Reg.FLT_STATUS_SAFE, Reg.NET_PORT_CFG]; omega)).trans hruns
  change execPortEnable w port value true s = _
  simp only [execPortEnable, hw, hpn, hoff, State.writePortCfg_enabling s port value hoff, hstill]
  rfl

theorem execPortEnable_enables (hport : port.toNat < Config.ethPorts s.part.variant) :
    ∃ t, exec (.portEnable w port value true) s = .next t ∧ (t.subport (subNo (2 * port.toNat))).up = true ∧
      (bitAt value 30 = true → (t.subport (subNo (2 * port.toNat + 1))).up = true) ∧
      bitAt (t.reg (Reg.NET_PORT_CFG + 4 * port.toNat)) 31 = true ∧
      (∀ n : BitVec 3, n.toNat / 2 ≠ port.toNat → t.subport n = s.subport n) ∧ t.dram = s.dram ∧ t.cores = s.cores := by
  have hlt := port.isLt
  have hlow : (subNo (2 * port.toNat)).toNat = 2 * port.toNat := subNo_toNat (by omega)
  have hhigh : (subNo (2 * port.toNat + 1)).toNat = 2 * port.toNat + 1 := subNo_toNat (by omega)
  have hne {n : BitVec 3} {k : Nat} (hk : (subNo k).toNat = k) (h : n.toNat ≠ k) : n ≠ subNo k := fun e => h (e ▸ hk)
  have honly := ((s.withPortCfg port value).bringUp_onlyNet (subNo (2 * port.toNat))).trans
    (State.bringUp_onlyNet _ (subNo (2 * port.toNat + 1)))
  refine ⟨_, execPortEnable_brings value hw hruns hoff, ?_, fun hsplit => ?_, ?_, fun n hn => ?_, honly.dram, honly.cores⟩
  · rw [State.bringUp_subport_of_ne _ _ (hne hhigh (by omega))]
    exact State.bringUp_up _ _ (s.withPortCfg_subportExists port value (by omega) hport (.inl (by omega)))
  · refine State.bringUp_up _ _ ?_
    rw [State.bringUp_subportExists]
    exact s.withPortCfg_subportExists port value (by omega) hport (.inr hsplit)
  · rw [State.bringUp_reg _ _ (portCfg_ne hlt _).1 (portCfg_ne hlt 0).2, State.bringUp_reg _ _ (portCfg_ne hlt _).1 (portCfg_ne hlt 0).2]
    refine (congrArg (bitAt · 31) (State.reg_setReg_self s _ _)).trans (bitAt_enabledCfg_en value)
  · rw [State.bringUp_subport_of_ne _ _ (hne hhigh (by omega)), State.bringUp_subport_of_ne _ _ (hne hlow (by omega))]
    rfl

end

/-! ## Pauses (R399) -/

section
variable (s : State) (sub : BitVec 3)

/-- Counting a long pause marks the sub-port and leaves the rest of it. -/
theorem State.notePause_subport : ∃ b, (s.notePause sub).subport sub = { s.subport sub with longCounted := b } := by
  unfold State.notePause
  extract_lets p
  split
  · split
    · exact ⟨true, by rw [State.subport_errAdd, State.subport_setSubport, if_pos rfl]⟩
    · exact ⟨_, rfl⟩
  · exact ⟨_, rfl⟩

/-- A sub-port that a PFC frame pauses for its quanta of 512 bit times. -/
def SubPort.pausedFor (p : SubPort) (now : Word64) (quanta : Nat) : SubPort :=
  { p with
    pausedSince := some (p.pausedSince.getD now)
    pausedUntil := now + BitVec.ofNat 64 (ceilDiv (quanta * 512 * 1000000000) p.line) }

theorem State.endPause_pausedSince : ((s.endPause sub).subport sub).pausedSince = none := by
  unfold State.endPause
  extract_lets s1 p s2 s3
  split
  next h => exact Option.isNone_iff_eq_none.1 h
  next =>
    have h3 : s3.subport sub = s2.subport sub := foldl_keeps (State.subport · sub) (fun t n _ => by dsimp only; split <;> rfl) s2
    rw [State.subport_showSubport, h3, State.subport_setSubport, if_pos rfl]

theorem State.sendPause_pauses (quanta : Nat) : (s.sendPause sub quanta).net.pauses = s.net.pauses ++ [(sub.toNat, quanta)] := by
  unfold State.sendPause
  extract_lets p s1 net s2 s3
  have h3 : s3.net = s2.net := (s2.count_onlyLogs _ _ _).net
  exact congrArg Net.pauses h3

theorem State.sendPause_subport (quanta : Nat) : (s.sendPause sub quanta).subport sub = { s.subport sub with lastPause := s.gtc } := by
  unfold State.sendPause
  extract_lets p s1 net s2 s3
  have h2 : s2.subport sub = s1.subport sub := rfl
  rw [State.subport_setReg, State.subport_count, h2, State.subport_setSubport, if_pos rfl]

theorem State.sendPause_xoffSent (quanta : Nat) : (s.sendPause sub quanta).xoffSent sub = (quanta != 0) := by
  have hlt := sub.isLt
  unfold State.sendPause State.xoffSent
  rw [State.reg_setReg_self, bitAt_putBit_self _ _ (by omega)]

end

/-! ## Congestion control (R398) -/

section
variable (s : State) (sub : BitVec 3) (qk : Nat)

theorem State.cutRate_qps : (s.cutRate sub qk).net.qps = s.net.qps := by
  unfold State.cutRate
  extract_lets q line recent rc
  split
  · rfl
  · exact (congrArg Net.qps (State.count_onlyLogs _ _ _ _).net).trans rfl

theorem State.cutRate_queueAt_of_ne {j : Nat} (h : j ≠ qk) : (s.cutRate sub qk).queueAt j = s.queueAt j := by
  unfold State.cutRate
  extract_lets q line recent rc
  split
  · rfl
  · rw [State.queueAt_count, State.queueAt_setQueue, if_neg h]

/-- Within 50 µs of a cut the queue is as it was. -/
theorem State.cutRate_recent {a : Word64} (hcut : (s.queueAt qk).lastCut = some a) (h : (s.gtc - a).toNat < 50000) :
    s.cutRate sub qk = s := by
  simp only [State.cutRate, hcut, h, decide_true, if_true]

/-- Otherwise its rate is cut by CUT sixteenths, down to RMIN. -/
theorem State.cutRate_queueAt (h : ∀ a, (s.queueAt qk).lastCut = some a → 50000 ≤ (s.gtc - a).toNat) :
    (s.cutRate sub qk).queueAt qk = { s.queueAt qk with
      rc := some (Max.max ((s.queueAt qk).rc.getD (s.subport sub).line * zeroActsAsOne (s.fld Reg.WER_CC_CFG_CUT) / 16)
        (zeroActsAsOne (s.fld Reg.WER_CC_CFG_RMIN) * 100000000))
      lastCut := some s.gtc, lastRise := s.gtc } := by
  unfold State.cutRate
  extract_lets q line recent rc
  have hrecent : recent = false := by
    show (match q.lastCut with | some t => decide ((s.gtc - t).toNat < 50000) | none => false) = false
    cases hq : q.lastCut with
    | none => rfl
    | some a => exact decide_eq_false (Nat.not_lt.2 (h a hq))
  rw [hrecent, if_neg Bool.false_ne_true, State.queueAt_count, State.queueAt_setQueue, if_pos rfl]

end

/-! ## The commands -/

/-- A frame for another priority is ignored. -/
theorem execPfcReceive_ignores {s : State} {sub prio : BitVec 3} (quanta : BitVec 16)
    (hprio : prio.toNat ≠ s.fld Reg.NET_PRIO_CFG_DATA_PRIO) : exec (.pfcReceive sub prio quanta) s = .next s := by
  change execPfcReceive sub prio quanta s = _
  simp [execPfcReceive, hprio]

section
variable {s : State} {sub : BitVec 3} (hruns : s.netRuns = true)
include hruns

section
variable (hup : (s.subport sub).up = true)
include hup

theorem execPuntFrame_punts {n : Nat} (frame : List Byte)
    (hn : (if (s.subport sub).puntSecond = s.gtc.toNat / 1000000000 then (s.subport sub).puntCount else 0) = n) :
    (n < 100000 → ∃ t, exec (.puntFrame sub frame) s = .next t ∧ t.net.punted = s.net.punted ++ [(sub.toNat, frame)] ∧
      (t.subport sub).puntCount = n + 1 ∧ t.regs = s.regs ∧ t.dram = s.dram) ∧
    (100000 ≤ n → exec (.puntFrame sub frame) s = .next (s.errAdd Reg.NET_ERR_CNT_PUNT_DROP 1)) := by
  have hexec : exec (.puntFrame sub frame) s = .next (if 100000 ≤ n then s.errAdd Reg.NET_ERR_CNT_PUNT_DROP 1 else
      let u := s.setSubport sub { s.subport sub with puntSecond := s.gtc.toNat / 1000000000, puntCount := n + 1 }
      { u with net := { u.net with punted := s.net.punted ++ [(sub.toNat, frame)] } }) := by
    subst hn
    change execPuntFrame sub frame s = _
    simp only [execPuntFrame, hruns, hup]
    rfl
  refine ⟨fun hlt => ⟨_, hexec.trans (congrArg _ (if_neg (Nat.not_le.2 hlt))), rfl, ?_, rfl, rfl⟩,
    fun hle => hexec.trans (congrArg _ (if_pos hle))⟩
  exact congrArg SubPort.puntCount ((s.subport_setSubport sub sub _).trans (if_pos rfl))

variable {prio : BitVec 3} (hprio : prio.toNat = s.fld Reg.NET_PRIO_CFG_DATA_PRIO)
include hprio

/-- No quanta: the pause is released. -/
theorem execPfcReceive_releases : exec (.pfcReceive sub prio 0) s = .next ((s.count unitWER 2 1).endPause sub) := by
  change execPfcReceive sub prio 0 s = _
  simp [execPfcReceive, hruns, hup, hprio]

/-- Quanta: the sub-port is paused until they have run out, and since the first of the frames that pause it without a break. -/
theorem execPfcReceive_pauses {quanta : BitVec 16} (hq : quanta ≠ 0) :
    ∃ t, exec (.pfcReceive sub prio quanta) s = .next t ∧ OnlyNet s t ∧
    (t.subport sub).pausedSince = some ((s.subport sub).pausedSince.getD s.gtc) ∧
    (t.subport sub).pausedUntil = s.gtc + BitVec.ofNat 64 (ceilDiv (quanta.toNat * 512 * 1000000000) (s.subport sub).line) := by
  set u := (s.count unitWER 2 1).notePause sub with hu
  have honly : OnlyNet s u := (s.count_onlyNet _ _ _).trans (State.notePause_onlyNet _ sub)
  have hgtc : u.gtc = s.gtc := honly.proj State.gtc
  obtain ⟨b, hsub⟩ := (s.count unitWER 2 1).notePause_subport sub
  rw [State.subport_count, ← hu] at hsub
  refine ⟨(u.setSubport sub ((u.subport sub).pausedFor u.gtc quanta.toNat)).showSubport sub, ?_,
    (honly.trans (u.setSubport_onlyNet sub _)).trans (State.showSubport_onlyNet _ sub), ?_, ?_⟩
  · change execPfcReceive sub prio quanta s = _
    simp only [execPfcReceive, hruns, hup, hprio, hq, Bool.not_true, Bool.or_false, bne_self_eq_false, if_false, Bool.false_eq_true]
    rfl
  · rw [State.subport_showSubport, State.subport_setSubport, if_pos rfl, hsub, hgtc]
    rfl
  · rw [State.subport_showSubport, State.subport_setSubport, if_pos rfl, hsub, hgtc]
    rfl

end

theorem execPauseExpiry_ends (hsince : (s.subport sub).pausedSince.isSome) (huntil : (s.subport sub).pausedUntil ≤ s.gtc) :
    exec (.pauseExpiry sub) s = .next (s.endPause sub) := by
  change execPauseExpiry sub s = _
  simp [execPauseExpiry, hruns, hsince, huntil]

/-- The occupancy is noted; a pause is then released at XON_KIB and repeated after 40 µs above it. -/
theorem execPfcRepeat_eq (kib : Nat) (hxoff : s.xoffSent sub = true) : exec (.pfcRepeat sub kib) s =
    let u := s.setSubport sub { s.subport sub with rx := kib }
    .next (if kib ≤ s.fld Reg.WER_PFC_CFG_XON_KIB then u.sendPause sub 0
      else if 40000 ≤ (s.gtc - (s.subport sub).lastPause).toNat then u.sendPause sub 0xFFFF else u) := by
  have hlast : ((s.setSubport sub { s.subport sub with rx := kib }).subport sub).lastPause = (s.subport sub).lastPause := by
    rw [State.subport_setSubport, if_pos rfl]
  change execPfcRepeat sub kib s = _
  simp only [execPfcRepeat, hruns, hxoff, hlast]
  rfl

theorem execPfcRepeat_repeats (kib : Nat) (hxoff : s.xoffSent sub = true) :
    ∃ t, exec (.pfcRepeat sub kib) s = .next t ∧ (t.subport sub).rx = kib ∧ t.dram = s.dram ∧
      (kib ≤ s.fld Reg.WER_PFC_CFG_XON_KIB → t.net.pauses = s.net.pauses ++ [(sub.toNat, 0)] ∧ t.xoffSent sub = false) ∧
      (s.fld Reg.WER_PFC_CFG_XON_KIB < kib → 40000 ≤ (s.gtc - (s.subport sub).lastPause).toNat →
        t.net.pauses = s.net.pauses ++ [(sub.toNat, 0xFFFF)] ∧ t.xoffSent sub = true) ∧
      (s.fld Reg.WER_PFC_CFG_XON_KIB < kib → (s.gtc - (s.subport sub).lastPause).toNat < 40000 → t.net.pauses = s.net.pauses) := by
  set u := s.setSubport sub { s.subport sub with rx := kib } with hu
  have hrx : (u.subport sub).rx = kib := by rw [hu, State.subport_setSubport, if_pos rfl]
  have hsent (quanta : Nat) : ((u.sendPause sub quanta).subport sub).rx = kib ∧ (u.sendPause sub quanta).dram = s.dram ∧
      (u.sendPause sub quanta).net.pauses = s.net.pauses ++ [(sub.toNat, quanta)] ∧
      (u.sendPause sub quanta).xoffSent sub = (quanta != 0) :=
    ⟨by rw [State.sendPause_subport]; exact hrx, (u.sendPause_onlyNet sub quanta).dram, u.sendPause_pauses sub quanta,
      u.sendPause_xoffSent sub quanta⟩
  refine ⟨_, execPfcRepeat_eq hruns kib hxoff, ?_⟩
  rw [← hu]
  split
  next hle =>
    obtain ⟨hkib, hdram, hpauses, hx⟩ := hsent 0
    exact ⟨hkib, hdram, fun _ => ⟨hpauses, hx⟩, fun h => absurd hle (Nat.not_le.2 h), fun h => absurd hle (Nat.not_le.2 h)⟩
  next hgt =>
    split
    next hlate =>
      obtain ⟨hkib, hdram, hpauses, hx⟩ := hsent 0xFFFF
      exact ⟨hkib, hdram, fun h => absurd h hgt, fun _ _ => ⟨hpauses, hx⟩, fun _ h => absurd hlate (Nat.not_le.2 h)⟩
    next hearly => exact ⟨hrx, rfl, fun h => absurd h hgt, fun _ h => absurd h hearly, fun _ _ => rfl⟩

/-- A CNP of a QP whose link is up cuts the rate of its queue, or leaves a queue that was cut just now. -/
theorem execCnpReceive_cuts {qcn : BitVec 16} {q : Qp} {k : Nat} (hq : s.qpAt qcn.toNat = some q)
    (hup : (s.subport (subNo q.sub)).up = true) (hk : queueKey q.sub (s.qpService qcn.toNat q) q.subscriber = k) :
    exec (.cnpReceive qcn) s = .next ((s.count unitRDM 6 1).cutRate (subNo q.sub) k) := by
  change execCnpReceive qcn s = _
  simp [execCnpReceive, hq, hruns, hup, State.cnpIn, hk]

theorem execCnpReceive_rate {qcn : BitVec 16} {q : Qp} {k : Nat} (hq : s.qpAt qcn.toNat = some q)
    (hup : (s.subport (subNo q.sub)).up = true) (hk : queueKey q.sub (s.qpService qcn.toNat q) q.subscriber = k)
    {w : WeirQueue} (hw : s.queueAt k = w) :
    ∃ t, exec (.cnpReceive qcn) s = .next t ∧ t.net.qps = s.net.qps ∧ t.dram = s.dram ∧ (∀ j, j ≠ k → t.queueAt j = s.queueAt j) ∧
      ((∀ a, w.lastCut = some a → 50000 ≤ (s.gtc - a).toNat) → (t.queueAt k).lastCut = some s.gtc ∧ (t.queueAt k).packets = w.packets ∧
        (t.queueAt k).rc = some (Max.max (w.rc.getD (s.subport (subNo q.sub)).line * zeroActsAsOne (s.fld Reg.WER_CC_CFG_CUT) / 16)
          (zeroActsAsOne (s.fld Reg.WER_CC_CFG_RMIN) * 100000000))) ∧
      (∀ a, w.lastCut = some a → (s.gtc - a).toNat < 50000 → t.queueAt k = w) := by
  set u := s.count unitRDM 6 1 with hu
  have hlogs : OnlyLogs s u := s.count_onlyLogs unitRDM 6 1
  have hfld (f : Fld) (hf : f.off = Reg.WER_CC_CFG) : u.fld f = s.fld f := by
    rw [State.fld, hf, hu, s.count_reg (by decide), State.fld, hf]
  have huw : u.queueAt k = w := (State.queueAt_of_net hlogs.net k).trans hw
  refine ⟨_, execCnpReceive_cuts hruns hq hup hk, ?_, ?_, fun j hj => ?_, fun hlate => ?_, fun a ha hsoon => ?_⟩
  · rw [State.cutRate_qps, hlogs.net]
  · exact (u.cutRate_onlyNet _ _).dram.trans hlogs.dram
  · rw [State.cutRate_queueAt_of_ne _ _ _ hj, State.queueAt_count]
  · rw [u.cutRate_queueAt _ k (by rw [huw, hlogs.gtc]; exact hlate), huw, hlogs.gtc, hfld _ rfl, hfld _ rfl,
      State.subport_of_net hlogs.net]
    exact ⟨rfl, rfl, rfl⟩
  · rw [u.cutRate_recent _ k (huw.symm ▸ ha) (hlogs.gtc.symm ▸ hsoon), huw]

end

theorem execLinkDown_drains {sub : BitVec 3} {s : State} (hup : (s.subport sub).up = true) :
    exec (.linkDown sub) s = .next (s.linkLost sub) := congrArg _ (if_pos hup)

theorem execLinkUp_starts {sub : BitVec 3} {s : State} (hruns : s.netRuns = true) (hexists : s.subportExists sub = true)
    (hdown : (s.subport sub).up = false) : exec (.linkUp sub) s = .next (s.linkUpNow sub) := by
  change execLinkUp sub s = _
  simp [execLinkUp, hruns, hexists, hdown]

theorem execRcRise_raises {sub : BitVec 3} {service : BitVec 2} {subscriber : BitVec 12} {s : State} {rc : Nat}
    (hrc : (s.queueAt (queueKey sub.toNat service.toNat subscriber.toNat)).rc = some rc) (hruns : s.netRuns = true)
    (hlate : zeroActsAsOne (s.fld Reg.WER_CC_CFG_INTERVAL) * 1000 ≤
      (s.gtc - (s.queueAt (queueKey sub.toNat service.toNat subscriber.toNat)).lastRise).toNat) :
    exec (.rcRise sub service subscriber) s =
      let k := queueKey sub.toNat service.toNat subscriber.toNat
      let up := rc + s.fld Reg.WER_CC_CFG_RISE * 100000000
      .next (s.setQueue k { s.queueAt k with rc := if (s.subport sub).line ≤ up then none else some up, lastRise := s.gtc }) := by
  change execRcRise sub service subscriber s = _
  simp only [execRcRise, hrc, hruns, decide_eq_false (Nat.not_lt.2 hlate), Bool.not_true, Bool.or_false, Bool.false_eq_true,
    if_false]

/-! ## The statement -/

/-- Settles O35: a port by `execPortEnable_enables`, links by `linkLost_subport` and `linkUpNow_subport`, pauses by
`execPfcReceive_pauses` and `execPfcRepeat_repeats`, congestion by `execCnpReceive_rate`. -/
theorem portsAndPauses : Obligations.PortsAndPauses := by
  unfold Obligations.PortsAndPauses
  refine ⟨⟨?enable, ?down, ?up, ?punt⟩, ?pfc, ?expiry, ?again, ?cnp, ?rise⟩
  case enable => exact fun w port value s hw hruns hport hoff => execPortEnable_enables value hw hruns hoff hport
  case down =>
    intro sub s hup
    have honly := s.linkLost_onlyNet sub
    have hsub := (s.linkLost_subport sub sub).trans (if_pos rfl)
    refine ⟨_, execLinkDown_drains hup, by rw [hsub], by rw [hsub], fun k hk => ?_, fun k hk => ?_, fun n hn => ?_, honly.dram,
      honly.rings, honly.cores⟩
    · rw [State.linkLost_queueAt, s.drainQueues_packets_self sub hk]
    · rw [State.linkLost_queueAt, s.drainQueues_queueAt_of_ne sub _ hk]
    · rw [State.linkLost_subport, if_neg hn]
  case up =>
    intro sub s hruns hexists hdown
    have hsub := (s.linkUpNow_subport sub sub).trans (if_pos rfl)
    refine ⟨_, execLinkUp_starts hruns hexists hdown, by rw [hsub], by rw [hsub], by rw [hsub], by rw [hsub],
      fun k hk => s.linkUpNow_queueAt sub hk, fun n hn => ?_, rfl, rfl, rfl⟩
    rw [State.linkUpNow_subport, if_neg hn]
  case punt => exact fun sub frame s hruns hup => execPuntFrame_punts hruns hup frame rfl
  case pfc =>
    intro sub prio quanta s hruns hup
    refine ⟨execPfcReceive_ignores quanta, fun hprio => ?_⟩
    by_cases hq : quanta = 0
    · subst hq
      have honly := (s.count_onlyNet unitWER 2 1).trans (State.endPause_onlyNet _ sub)
      exact ⟨_, execPfcReceive_releases hruns hup hprio, honly.dram, honly.cores, fun _ => State.endPause_pausedSince _ sub,
        fun h => absurd rfl h⟩
    · obtain ⟨t, hexec, honly, hsince, huntil⟩ := execPfcReceive_pauses hruns hup hprio hq
      exact ⟨t, hexec, honly.dram, honly.cores, fun h => absurd h hq, fun _ => ⟨hsince, huntil⟩⟩
  case expiry =>
    intro sub s hruns hsince huntil
    have honly := s.endPause_onlyNet sub
    exact ⟨_, execPauseExpiry_ends hruns hsince huntil, s.endPause_pausedSince sub, honly.dram, honly.cores⟩
  case again => exact fun sub kib s hruns hxoff => execPfcRepeat_repeats hruns kib hxoff
  case cnp => exact fun qcn s q w k hq hruns hup hk hw => execCnpReceive_rate hruns hq hup hk hw
  case rise =>
    rintro sub service subscriber s rc up k rfl hrc hruns hlate rfl
    exact execRcRise_raises hrc hruns hlate

end Sys2Proof.Machine

/-!
SUPPORT. Regions, revocations and QPs that enter ERR while no DELIVER is under way (R366, R371, R373, R374).
-/

namespace Sys2Proof.Machine

/-! ## Tables and folds -/

/-- Of a table with rising keys, each entry is what its key finds. -/
theorem Table.find_of_mem {α : Type} {t : Table α} (h : t.Pairwise (fun a b => a.1 < b.1)) {k : Nat} {x : α} (hx : (k, x) ∈ t) :
    Table.find t k = some x := by
  induction t with
  | nil => exact nomatch hx
  | cons e t ih =>
    obtain ⟨he, ht⟩ := List.pairwise_cons.1 h
    rcases List.mem_cons.1 hx with rfl | hx
    · simp [Table.find]
    · have hne : (e.1 == k) = false := beq_false_of_ne (Nat.ne_of_lt (he _ hx))
      rw [Table.find, List.find?_cons, hne]
      exact ih ht hx

theorem Table.mem_of_find {α : Type} {t : Table α} {k : Nat} {x : α} (h : Table.find t k = some x) : (k, x) ∈ t := by
  obtain ⟨e, he, rfl⟩ := Option.map_eq_some_iff.1 h
  have hk : e.1 = k := beq_iff_eq.1 (List.find?_some (p := fun e : Nat × α => e.1 == k) he)
  exact hk ▸ List.mem_of_find?_eq_some he

/-- A fold whose steps stay at `u` or lead to `v`, where they end, ends at `v` if some step leads there. -/
theorem foldl_arrives {α : Type} {f : State → α → State} {u v : State} (hv : ∀ a, f v a = v) {l : List α}
    (hu : ∀ a ∈ l, f u a = u ∨ f u a = v) {a : α} (ha : a ∈ l) (h : f u a = v) : l.foldl f u = v := by
  induction l with
  | nil => exact nomatch ha
  | cons b l ih =>
    rw [List.foldl_cons]
    rcases hu b List.mem_cons_self with hb | hb
    · rcases List.mem_cons.1 ha with rfl | ha
      · rw [h, List.foldl_fixed' hv]
      · rw [hb, ih (fun c hc => hu c (List.mem_cons_of_mem _ hc)) ha]
    · rw [hb, List.foldl_fixed' hv]

/-! ## Descriptors that end -/

/-- The descriptor in work is the one that its owner's name finds. -/
theorem State.takenOf_of_takenAt {s : State} {c : CoreId} {tk : Ticket} {x : Taken} (h : s.takenAt c tk = some x) (hres : x.result = none) :
    s.takenOf (c.val, tk.toNat) = some x := by
  obtain ⟨hx, before, after, hlist, hbefore⟩ := List.find?_eq_some_iff_append.1 h
  obtain ⟨hcore, hticket⟩ := State.takenAt_ticket h
  refine List.find?_eq_some_iff_append.2 ⟨by simp [hcore, hticket, hres], before, after, hlist, fun y hy => ?_⟩
  have hy := hbefore y hy
  simp only [Bool.not_eq_true', Bool.and_eq_false_iff, beq_eq_false_iff_ne] at hy ⊢
  exact .inl (hy.imp (fun h e => h (Fin.ext e)) fun h e => h (BitVec.eq_of_toNat_eq e))

theorem State.takenOf_ticket {s : State} {o : Nat × Nat} {y : Taken} (h : s.takenOf o = some y) : (y.core.val, y.ticket.toNat) = o := by
  have hy := List.find?_some h
  simp only [Bool.and_eq_true, beq_iff_eq] at hy
  exact Prod.ext hy.1.1 hy.1.2

/-- The end of another descriptor leaves a ticket's. -/
theorem State.finish_takenAt_of_ne (s : State) {c : CoreId} {tk : Ticket} {y : Taken} (h : (y.core.val, y.ticket.toNat) ≠ (c.val, tk.toNat))
    (status detail : Nat) (o : List (Nat × Nat)) : (s.finish y status detail o).takenAt c tk = s.takenAt c tk := by
  have hother {z : Taken} (hz : (z.core == y.core && z.ticket == y.ticket) = true) : (z.core == c && z.ticket == tk) = false := by
    obtain ⟨hcore, hticket⟩ := Bool.and_eq_true_iff.1 hz
    rw [beq_iff_eq.1 hcore, beq_iff_eq.1 hticket]
    refine Bool.eq_false_iff.2 fun e => h ?_
    obtain ⟨hcore, hticket⟩ := Bool.and_eq_true_iff.1 e
    rw [beq_iff_eq.1 hcore, beq_iff_eq.1 hticket]
  have hself : (y.core == c && y.ticket == tk) = false := hother (by simp)
  unfold State.finish State.setTaken State.takenAt
  generalize s.taken = l
  induction l with
  | nil => rfl
  | cons z l ih =>
    dsimp only at ih ⊢
    rw [List.map_cons, List.find?_cons, List.find?_cons, ih]
    by_cases hz : (z.core == y.core && z.ticket == y.ticket) = true
    · simp only [if_pos hz, hself, hother hz]
    · simp only [if_neg hz]

/-! ## Regions (R371, R373) -/

section
variable (s : State)

theorem State.regionEntry_setRegion (r k : Nat) (e : RegionEntry) :
    (s.setRegion r e).regionEntry k = if k = r then e else s.regionEntry k :=
  Table.at_write RegionEntry.fresh s.net.regions r k e

theorem State.regionEntry_setRegion_self (r : Nat) (e : RegionEntry) : (s.setRegion r e).regionEntry r = e := by
  rw [State.regionEntry_setRegion, if_pos rfl]

theorem State.regionEntry_of_regions {s t : State} (h : t.net.regions = s.net.regions) (r : Nat) : t.regionEntry r = s.regionEntry r := by
  rw [State.regionEntry, State.regionEntry, h]

theorem State.finish_regionEntry (x : Taken) (status detail : Nat) (o : List (Nat × Nat)) (r : Nat) :
    (s.finish x status detail o).regionEntry r = s.regionEntry r := rfl

theorem State.setRegion_onlyNet (r : Nat) (e : RegionEntry) : OnlyNet s (s.setRegion r e) := rfl

/-- A region whose entry differs from a free one stands in the table. -/
theorem State.mem_regions {r : Nat} (h : s.regionEntry r ≠ RegionEntry.fresh) : (r, s.regionEntry r) ∈ s.net.regions := by
  refine Table.mem_of_find ?_
  unfold State.regionEntry Table.at at *
  cases hfind : Table.find s.net.regions r with
  | none => exact absurd (by rw [hfind]; rfl) h
  | some e => rfl

/-- No region is being revoked. -/
def State.noneRevoking : Prop := ∀ k, (s.regionEntry k).revoking = none

theorem State.endRevoke_of_none {r : Nat} (n : Nat) (h : (s.regionEntry r).revoking = none) : s.endRevoke r n = s := by
  rw [State.endRevoke, h]

/-- Where no region is being revoked, nothing settles. -/
theorem State.settleRevokes_of_none (h : s.noneRevoking) : s.settleRevokes = s := by
  refine List.foldl_fixed' (fun e => ?_) _
  rw [s.endRevoke_of_none 0 (h e.1), ite_self]

/-- The revocation of a region that a REVOKE in work asked for ends with the count of QPs moved to ERR. -/
theorem State.endRevoke_revoke {r n : Nat} {c : CoreId} {tk : Ticket} {x : Taken} {rp : Word64} (hx : s.takenAt c tk = some x)
    (hres : x.result = none) (hop : descOpcode x.desc = 4) (hrev : (s.regionEntry r).revoking = some (c.val, tk.toNat, rp)) :
    s.endRevoke r n = (s.setRegion r { s.regionEntry r with revoking := none }).finish x stOK (min 0xFFFF n) [] := by
  have hof : (s.setRegion r { s.regionEntry r with revoking := none }).takenOf (c.val, tk.toNat) = some x :=
    State.takenOf_of_takenAt (State.takenAt_of_taken rfl c tk ▸ hx) hres
  unfold State.endRevoke
  simp only [hrev, hof, hop, if_true]

end

/-! ## The revoke point (R374) -/

/-- A region's entry from its revoke point on. -/
def RegionEntry.revokedBy (e : RegionEntry) (x : Taken) (now : Word64) : RegionEntry :=
  { e with
    registered := false, generation := (e.generation + 1) % 4096, revoking := some (x.core.val, x.ticket.toNat, now)
    retired := e.retired.filter (fun g => g.1 != e.generation) ++ [(e.generation, now)] }

section
variable {s : State} {r : Nat} (x : Taken) (hnone : s.noneRevoking)

theorem State.beginRevoke_eq : s.beginRevoke r x = (s.setRegion r ((s.regionEntry r).revokedBy x s.gtc)).settleRevokes := rfl

include hnone

theorem State.setRegion_revoking_of_ne {k : Nat} (e : RegionEntry) (h : k ≠ r) : ((s.setRegion r e).regionEntry k).revoking = none := by
  rw [State.regionEntry_setRegion, if_neg h]
  exact hnone k

/-- While a QP holds a message of the region, the revocation waits for it. -/
theorem State.beginRevoke_of_held (hheld : ∃ q ∈ s.net.qps, q.2.holds r = true) :
    s.beginRevoke r x = s.setRegion r ((s.regionEntry r).revokedBy x s.gtc) := by
  rw [State.beginRevoke_eq]
  refine List.foldl_fixed' (fun e => ?_) _
  by_cases he : e.1 = r
  · have hany : (s.net.qps.any fun q => q.2.holds e.1) = true := List.any_eq_true.2 (he ▸ hheld)
    have hqps : (s.setRegion r ((s.regionEntry r).revokedBy x s.gtc)).net.qps = s.net.qps := rfl
    rw [hqps, hany, Bool.not_true, Bool.and_false, if_neg Bool.false_ne_true]
  · rw [State.endRevoke_of_none _ _ (State.setRegion_revoking_of_ne hnone _ he), ite_self]

/-- Where none holds one, the revocation ends at once. -/
theorem State.beginRevoke_of_free (hfree : ∀ q ∈ s.net.qps, q.2.holds r = false) (hx : s.takenAt x.core x.ticket = some x)
    (hres : x.result = none) (hop : descOpcode x.desc = 4) :
    s.beginRevoke r x = ((s.setRegion r ((s.regionEntry r).revokedBy x s.gtc)).setRegion r
      { (s.regionEntry r).revokedBy x s.gtc with revoking := none }).finish x stOK 0 [] := by
  rw [State.beginRevoke_eq]
  set e := (s.regionEntry r).revokedBy x s.gtc with he
  set u := s.setRegion r e with hu
  have hentry : u.regionEntry r = e := s.regionEntry_setRegion_self r e
  have hend : u.endRevoke r 0 = (u.setRegion r { e with revoking := none }).finish x stOK 0 [] := by
    have := u.endRevoke_revoke (n := 0) (r := r) (rp := s.gtc) (State.takenAt_of_taken rfl _ _ ▸ hx) hres hop (by rw [hentry]; rfl)
    rwa [hentry] at this
  set v := (u.setRegion r { e with revoking := none }).finish x stOK 0 [] with hv
  have hvnone : v.noneRevoking := fun k => by
    by_cases hk : k = r
    · exact congrArg RegionEntry.revoking ((u.regionEntry_setRegion r k _).trans (if_pos hk))
    · exact ((congrArg RegionEntry.revoking ((u.regionEntry_setRegion r k _).trans (if_neg hk))).trans
        (State.setRegion_revoking_of_ne hnone e hk))
  have hmem : (r, e) ∈ u.net.regions := hentry ▸ u.mem_regions (by rw [hentry]; intro h; cases congrArg RegionEntry.revoking h)
  refine foldl_arrives (v := v) (fun a => by rw [v.endRevoke_of_none 0 (hvnone a.1), ite_self]) (fun a _ => ?_) hmem ?_
  · by_cases ha : a.1 = r
    · rw [ha, hend]
      exact (ite_eq_or_eq _ v u).symm
    · exact .inl (by rw [u.endRevoke_of_none 0 (State.setRegion_revoking_of_ne hnone e ha), ite_self])
  · have hany : (u.net.qps.any fun q => q.2.holds r) = false := List.any_eq_false.2 fun q hq => by rw [hfree q hq]; exact Bool.false_ne_true
    have hsome : e.revoking.isSome = true := rfl
    rw [hend]
    exact if_pos (by rw [hany, hsome]; rfl)

end

/-! ## QPs that enter ERR (R366) -/

/-- `t` is `s` but for the descriptors in work. -/
def OnlyTaken (s t : State) : Prop := { t with taken := s.taken } = s

theorem OnlyTaken.proj {s t : State} (h : OnlyTaken s t) {α : Type} (f : State → α) : f { t with taken := s.taken } = f s := congrArg f h

/-- A descriptor has no packet on a QP. -/
def Qp.carriesNothingOf (q : Qp) (o : Nat × Nat) : Prop := ∀ p ∈ q.flight ++ q.todo, p.owner ≠ some o

/-- What RDMA has under way: queue pairs, regions and deliveries. -/
def State.rdmaWork (s : State) : Table Qp × Table RegionEntry × List Delivery := (s.net.qps, s.net.regions, s.net.deliveries)

theorem State.weirDrop_rdmaWork (s : State) (n : Nat) (all : Bool) : (s.weirDrop n all).rdmaWork = s.rdmaWork :=
  foldl_keeps State.rdmaWork (fun _ _ _ => by rfl) s

theorem State.weirDrop_onlyNet (s : State) (n : Nat) (all : Bool) : OnlyNet s (s.weirDrop n all) :=
  OnlyNet.foldl (fun t _ => t.setQueue_onlyNet _ _) _ s

/-- With no DELIVER under way, the work of a QP that ends is its READ shares. -/
theorem State.endQpWork_onlyTaken (s : State) (n : Nat) (q : Qp) (cause : Nat) (owner : Option (Nat × Nat)) (others : Nat)
    (hd : s.net.deliveries = []) : OnlyTaken s (s.endQpWork n q cause owner others) ∧
    ∀ c tk, q.carriesNothingOf (c.val, tk.toNat) → (s.endQpWork n q cause owner others).takenAt c tk = s.takenAt c tk := by
  unfold State.endQpWork
  extract_lets code mine s1 shares
  have h1 : s1 = s := by
    have hmine : mine = [] := by show List.filter _ s.net.deliveries = []; rw [hd]; rfl
    show mine.foldl _ s = s
    rw [hmine]
    rfl
  rw [h1]
  refine List.foldlRecOn (motive := fun t => OnlyTaken s t ∧
    ∀ c tk, q.carriesNothingOf (c.val, tk.toNat) → t.takenAt c tk = s.takenAt c tk) _ _ ⟨rfl, fun _ _ _ => rfl⟩ fun t ⟨ht, htk⟩ o ho => ?_
  split
  next y hy =>
    refine ⟨ht, fun c tk hc => ?_⟩
    rw [State.finish_takenAt_of_ne, htk c tk hc]
    rw [State.takenOf_ticket hy]
    rintro rfl
    obtain ⟨p, hp, hpo⟩ := List.mem_filterMap.1 (List.mem_eraseDups.1 ho)
    exact hc p (List.mem_filter.1 hp).1 hpo
  next => exact ⟨ht, htk⟩

/-- A QP in ERR: nothing is left of its work. -/
def Qp.erred (q : Qp) : Qp :=
  { q with state := qpERR, todo := [], flight := [], timer := none, retries := 0, incoming := none, again := none, reads := [] }

/-- A QP that enters ERR leaves the weir; its work ends, and what revocations waited for settles. -/
theorem State.qpError_eq {s : State} {n : Nat} {q : Qp} (hq : s.qpAt n = some q) (cause : Nat) (owner : Option (Nat × Nat)) (others : Nat)
    (command : Bool) (hstate : ¬ (q.state = qpERR ∨ q.state = qpRESET ∨ (q.state = qpINIT ∧ !command))) :
    ∃ u, OnlyNet s u ∧ u.rdmaWork = (s.setQp n q.erred).rdmaWork ∧
      s.qpError n cause owner others command = (u.endQpWork n q cause owner others).settleRevokes := by
  unfold State.qpError
  rw [hq]
  dsimp only
  rw [if_neg hstate]
  set s1 := s.setQp n q.erred
  set s2 := s1.weirDrop n true
  have h2 : OnlyNet s s2 := (s.setQp_onlyNet n _).trans (s1.weirDrop_onlyNet n true)
  refine ⟨_, (h2.trans (s2.setSubport_onlyNet (subNo q.sub) _)).trans (OnlyNet.ite (OnlyNet.refl _) (State.errAdd_onlyNet _ _ _)), ?_, rfl⟩
  exact (show State.rdmaWork _ = s2.rdmaWork by split <;> rfl).trans (s1.weirDrop_rdmaWork n true)

/-- `t` is `s` but that QPs entered ERR, whose descriptors ended, while no DELIVER was under way and no region being revoked. -/
structure Quiets (s t : State) : Prop where
  dram : t.dram = s.dram
  regions : t.net.regions = s.net.regions
  deliveries : t.net.deliveries = s.net.deliveries
  qps : ∀ n, t.qpAt n = s.qpAt n ∨ ∃ q, t.qpAt n = some (Qp.erred q)
  takenAt : ∀ c tk, (∀ n q, s.qpAt n = some q → q.carriesNothingOf (c.val, tk.toNat)) → t.takenAt c tk = s.takenAt c tk

theorem Quiets.refl (s : State) : Quiets s s := ⟨rfl, rfl, rfl, fun _ => .inl rfl, fun _ _ _ => rfl⟩

/-- A descriptor that has no packet on any QP has none once QPs have entered ERR. -/
theorem Quiets.carriesNothingOf {s t : State} (h : Quiets s t) {o : Nat × Nat} (ho : ∀ n q, s.qpAt n = some q → q.carriesNothingOf o)
    (n : Nat) (q : Qp) (hq : t.qpAt n = some q) : q.carriesNothingOf o := by
  rcases h.qps n with e | ⟨q', e⟩
  · exact ho n q (e ▸ hq)
  · cases hq.symm.trans e
    exact fun p hp => nomatch hp

theorem Quiets.trans {s t u : State} (h : Quiets s t) (g : Quiets t u) : Quiets s u where
  dram := g.dram.trans h.dram
  regions := g.regions.trans h.regions
  deliveries := g.deliveries.trans h.deliveries
  qps n := (g.qps n).elim (fun e => e ▸ h.qps n) .inr
  takenAt c tk hc := (g.takenAt c tk (h.carriesNothingOf hc)).trans (h.takenAt c tk hc)

theorem Quiets.noneRevoking {s t : State} (h : Quiets s t) (hs : s.noneRevoking) : t.noneRevoking := fun k => by
  rw [State.regionEntry_of_regions h.regions]
  exact hs k

section
variable {s : State} (hd : s.net.deliveries = []) (hnone : s.noneRevoking)
include hd hnone

/-- With nothing to deliver and nothing to revoke, a QP that enters ERR ends the READ shares on it and no more. -/
theorem State.qpError_ends {n : Nat} {q : Qp} (hq : s.qpAt n = some q) (cause : Nat) (owner : Option (Nat × Nat)) (others : Nat)
    (command : Bool) (hstate : ¬ (q.state = qpERR ∨ q.state = qpRESET ∨ (q.state = qpINIT ∧ !command))) :
    (s.qpError n cause owner others command).dram = s.dram ∧
    (s.qpError n cause owner others command).rdmaWork = (s.setQp n q.erred).rdmaWork ∧
    ∀ c tk, q.carriesNothingOf (c.val, tk.toNat) → (s.qpError n cause owner others command).takenAt c tk = s.takenAt c tk := by
  obtain ⟨u, honly, hwork, heq⟩ := State.qpError_eq hq cause owner others command hstate
  obtain ⟨hended, htaken⟩ := u.endQpWork_onlyTaken n q cause owner others (congrArg (·.2.2) hwork |>.trans hd)
  have hwork' : (u.endQpWork n q cause owner others).rdmaWork = (s.setQp n q.erred).rdmaWork :=
    (hended.proj State.rdmaWork).trans hwork
  have hquiet : (u.endQpWork n q cause owner others).noneRevoking := fun k => by
    rw [State.regionEntry_of_regions (s := s) (congrArg (·.2.1) hwork')]
    exact hnone k
  rw [heq, State.settleRevokes_of_none _ hquiet]
  exact ⟨(hended.proj State.dram).trans honly.dram, hwork',
    fun c tk hc => (htaken c tk hc).trans (State.takenAt_of_taken honly.taken c tk)⟩

theorem State.qpError_quiets (n cause : Nat) (owner : Option (Nat × Nat)) (others : Nat) (command : Bool) :
    Quiets s (s.qpError n cause owner others command) := by
  by_cases h : ∃ q, s.qpAt n = some q ∧ ¬ (q.state = qpERR ∨ q.state = qpRESET ∨ (q.state = qpINIT ∧ !command))
  · obtain ⟨q, hq, hstate⟩ := h
    obtain ⟨hdram, hwork, htaken⟩ := State.qpError_ends hd hnone hq cause owner others command hstate
    refine ⟨hdram, congrArg (·.2.1) hwork, congrArg (·.2.2) hwork, fun j => ?_, fun c tk hc => htaken c tk (hc n q hq)⟩
    rw [State.qpAt, show (s.qpError n cause owner others command).net.qps = _ from congrArg (·.1) hwork]
    change (s.setQp n q.erred).qpAt j = _ ∨ ∃ q', (s.setQp n q.erred).qpAt j = _
    rw [State.qpAt_setQp]
    split
    · exact .inr ⟨q, rfl⟩
    · exact .inl rfl
  · have hstays : s.qpError n cause owner others command = s := by
      unfold State.qpError
      split
      · rfl
      next q hq => exact if_pos (by_contra fun hstate => h ⟨q, hq, hstate⟩)
    rw [hstays]
    exact Quiets.refl s

/-- A QP in RTR or RTS enters ERR. -/
theorem State.qpError_erred {n : Nat} {q : Qp} (hq : s.qpAt n = some q) (hstate : q.state = qpRTR ∨ q.state = qpRTS) (cause : Nat)
    (owner : Option (Nat × Nat)) (others : Nat) (command : Bool) :
    (s.qpError n cause owner others command).qpAt n = some q.erred := by
  have hlive : ¬ (q.state = qpERR ∨ q.state = qpRESET ∨ (q.state = qpINIT ∧ !command)) := by
    rcases hstate with h | h <;> simp [h, qpRTR, qpRTS, qpERR, qpRESET, qpINIT]
  obtain ⟨-, hwork, -⟩ := State.qpError_ends hd hnone hq cause owner others command hlive
  rw [State.qpAt, show (s.qpError n cause owner others command).net.qps = _ from congrArg (·.1) hwork]
  exact (State.qpAt_setQp s n n q.erred).trans (if_pos rfl)

/-- QPs put into ERR one after the other: each of them that was in RTR or RTS is in ERR. -/
theorem State.qpErrors_quiets (cause : Nat) (owner : Option (Nat × Nat)) (others : Nat) (command : Bool) (l : List Nat) :
    Quiets s (l.foldl (fun (s : State) n => s.qpError n cause owner others command) s) ∧
    ∀ n ∈ l, ∀ q, s.qpAt n = some q → q.state = qpRTR ∨ q.state = qpRTS →
      ∃ q', (l.foldl (fun (s : State) n => s.qpError n cause owner others command) s).qpAt n = some (Qp.erred q') := by
  induction l generalizing s with
  | nil => exact ⟨Quiets.refl s, fun n hn => nomatch hn⟩
  | cons m l ih =>
    have hstep := State.qpError_quiets hd hnone m cause owner others command
    obtain ⟨hquiet, herred⟩ := ih (hstep.deliveries.trans hd) (hstep.noneRevoking hnone)
    refine ⟨hstep.trans hquiet, fun n hn q hq hstate => ?_⟩
    by_cases hnm : n = m
    · subst hnm
      have hm := State.qpError_erred hd hnone hq hstate cause owner others command
      exact (hquiet.qps n).elim (fun e => ⟨q, e.trans hm⟩) id
    · rcases hstep.qps n with e | ⟨q', e⟩
      · exact herred n ((List.mem_cons.1 hn).resolve_left hnm) q (e.trans hq) hstate
      · exact (hquiet.qps n).elim (fun e' => ⟨q', e'.trans e⟩) id

end

end Sys2Proof.Machine

/-!
SUPPORT. Work posted to a QP, the commands REGISTER, REVOKE and RECON_READ on the descriptor that runs for them, and the statement on
regions (R359, R371, R373, R374, R380).
-/

namespace Sys2Proof.Machine

/-! ## Work posted to a QP (R359) -/

section
variable (s : State)

theorem State.weirAdd_onlyNet (sub subscriber : Nat) (p : OutPacket) : OnlyNet s (s.weirAdd sub subscriber p) := by
  unfold State.weirAdd
  dsimp only
  refine OnlyNet.ite (OnlyNet.refl s) (OnlyNet.ite (OnlyNet.trans ?_ (State.count_onlyNet _ _ _ _)) ?_)
  · exact (s.setNode_onlyNet _ _).trans (State.setQueue_onlyNet _ _ _)
  · exact (s.setNode_onlyNet _ _).trans (State.setQueue_onlyNet _ _ _)

theorem State.weirAdd_qps (sub subscriber : Nat) (p : OutPacket) : (s.weirAdd sub subscriber p).net.qps = s.net.qps := by
  unfold State.weirAdd
  dsimp only
  refine iteInduction (motive := fun t : State => t.net.qps = s.net.qps) (fun _ => rfl) fun _ =>
    iteInduction (motive := fun t : State => t.net.qps = s.net.qps) (fun _ => ?_) fun _ => rfl
  exact (congrArg Net.qps (State.count_onlyLogs _ _ _ _).net).trans rfl

/-- The packets of a QP that have not been acknowledged: those in flight, then those that wait. -/
def Qp.packets (q : Qp) : List OutPacket := q.flight ++ q.todo

theorem State.startTimer_packets {n : Nat} {q : Qp} (hq : s.qpAt n = some q) :
    ∃ q', (s.startTimer n).qpAt n = some q' ∧ q'.packets = q.packets := by
  unfold State.startTimer
  rw [hq]
  dsimp only
  split
  · exact ⟨_, (State.qpAt_setQp _ _ _ _).trans (if_pos rfl), rfl⟩
  · exact ⟨q, hq, rfl⟩

theorem State.startLost_onlyNet (n : Nat) : OnlyNet s (s.startLost n) := by
  unfold State.startLost
  split
  · exact OnlyNet.ite (OnlyNet.refl s) (s.startTimer_onlyNet n)
  · exact OnlyNet.refl s

theorem State.startLost_packets {n : Nat} {q : Qp} (hq : s.qpAt n = some q) :
    ∃ q', (s.startLost n).qpAt n = some q' ∧ q'.packets = q.packets := by
  unfold State.startLost
  rw [hq]
  dsimp only
  split
  · exact ⟨q, hq, rfl⟩
  · exact s.startTimer_packets hq

theorem State.pumpQp_onlyNet (n k : Nat) : OnlyNet s (s.pumpQp n k) := by
  induction k generalizing s with
  | zero => exact s.startLost_onlyNet n
  | succ k ih =>
    unfold State.pumpQp
    split
    · exact OnlyNet.refl s
    split
    · exact s.startLost_onlyNet n
    · exact OnlyNet.ite (s.startLost_onlyNet n) (((s.setQp_onlyNet n _).trans (State.weirAdd_onlyNet _ _ _ _)).trans (ih _))

/-- Packets go from waiting to flight in their order: what is unacknowledged stays. -/
theorem State.pumpQp_packets {n : Nat} (k : Nat) {q : Qp} (hq : s.qpAt n = some q) :
    ∃ q', (s.pumpQp n k).qpAt n = some q' ∧ q'.packets = q.packets := by
  induction k generalizing s q with
  | zero => exact s.startLost_packets hq
  | succ k ih =>
    unfold State.pumpQp
    rw [hq]
    dsimp only
    split
    next => exact s.startLost_packets hq
    next p rest htodo =>
      split
      · exact s.startLost_packets hq
      · have hsent : ((s.setQp n { q with todo := rest, flight := q.flight ++ [p] }).weirAdd q.sub q.subscriber p).qpAt n =
            some { q with todo := rest, flight := q.flight ++ [p] } := by
          rw [State.qpAt, State.weirAdd_qps]
          exact (s.qpAt_setQp n n _).trans (if_pos rfl)
        obtain ⟨q', hq', hpackets⟩ := ih _ hsent
        refine ⟨q', hq', hpackets.trans ?_⟩
        rw [Qp.packets, Qp.packets, htodo, List.append_assoc]
        rfl

/-- Packets take their PSNs and stay what they are otherwise. -/
theorem foldl_psns_map {β : Type} (g : OutPacket → β) (hg : ∀ p psn, g { p with psn := psn } = g p) (ps : List OutPacket)
    (acc : Nat × List OutPacket) :
    (ps.foldl (fun (acc : Nat × List OutPacket) p => (psnAdd acc.1 p.span, acc.2 ++ [{ p with psn := acc.1 }])) acc).2.map g =
      acc.2.map g ++ ps.map g := by
  induction ps generalizing acc with
  | nil => simp
  | cons p ps ih => rw [List.foldl_cons, ih]; simp [hg]

theorem State.post_onlyNet (n : Nat) (ps : List OutPacket) : OnlyNet s (s.post n ps) := by
  unfold State.post
  split
  · exact OnlyNet.refl s
  · exact (s.setQp_onlyNet n _).trans (State.pumpQp_onlyNet _ n _)

/-- Posted packets join those of the QP, behind them. -/
theorem State.post_packets {n : Nat} {q : Qp} (hq : s.qpAt n = some q) (ps : List OutPacket) :
    ∃ q' out, (s.post n ps).qpAt n = some q' ∧ q'.packets = q.packets ++ out ∧
      ∀ {β : Type} (g : OutPacket → β), (∀ p psn, g { p with psn := psn } = g p) → out.map g = ps.map g := by
  unfold State.post
  rw [hq]
  dsimp only
  obtain ⟨q', hq', hpackets⟩ := State.pumpQp_packets (s.setQp n _) _ ((s.qpAt_setQp n n _).trans (if_pos rfl))
  exact ⟨q', _, hq', hpackets.trans (List.append_assoc _ _ _).symm, fun g hg => foldl_psns_map g hg ps (q.psn, [])⟩

end

/-! ## RECON_READ (R380) -/

section
/-- A packet is a READ of a descriptor's share. -/
def OutPacket.sharedBy (o : Nat × Nat) (p : OutPacket) : Bool := p.role == .share && p.owner == some o

/-- The READs of a RECON_READ's share, one for each chunk. -/
def Taken.shareReads (x : Taken) (q : Qp) (o : Nat × Nat) : List OutPacket :=
  (List.range (ceilDiv (x.fieldAt 0x28 4) shareChunk)).map (fun i =>
    let off := i * shareChunk
    let n := min shareChunk (x.fieldAt 0x28 4 - off)
    request (x.fieldAt 0x10 2) 1 (q.packetsFor n) (.readReq (x.fieldAt 0x18 8 + off) (x.fieldAt 0x14 4) n) .share (some o)
      (x.fieldAt 0x20 8 + off))

theorem Taken.shareReads_sharedBy (x : Taken) (q : Qp) (o : Nat × Nat) :
    (x.shareReads q o).map (OutPacket.sharedBy o) = List.replicate (ceilDiv (x.fieldAt 0x28 4) shareChunk) true := by
  simp [Taken.shareReads, OutPacket.sharedBy, request, Function.comp_def, List.map_const']

variable {c : CoreId} {tk : Ticket} {s : State} {x : Taken} (hruns : s.engineRuns 10 = true)
include hruns

/-- The READs of a share join the QP, one for each chunk. -/
theorem execReconRead_posts {q : Qp} (hx : s.running c tk 10 0x02 = some x) (hq : s.qpAt (x.fieldAt 0x10 2) = some q)
    (husable : s.qpUsable x (x.fieldAt 0x10 2) false = true) (hlow : 64 ≤ x.fieldAt 0x28 4) (hhigh : x.fieldAt 0x28 4 ≤ 16777216)
    (hunit : x.fieldAt 0x28 4 % 64 = 0) (hfresh : ∀ p ∈ q.packets, p.owner ≠ some (c.val, tk.toNat)) :
    ∃ t q', exec (.reconRead c tk) s = .next t ∧ OnlyNet s t ∧ t.qpAt (x.fieldAt 0x10 2) = some q' ∧
      (q'.packets.filter (OutPacket.sharedBy (c.val, tk.toNat))).length = ceilDiv (x.fieldAt 0x28 4) shareChunk := by
  have hnone : ((q.flight ++ q.todo).any fun p => p.owner == some (c.val, tk.toNat)) = false :=
    List.any_eq_false.2 fun p hp => by simpa using hfresh p hp
  have hlen : ¬ (x.fieldAt 0x28 4 < 64 ∨ 16777216 < x.fieldAt 0x28 4 ∨ x.fieldAt 0x28 4 % 64 ≠ 0) := by omega
  obtain ⟨rfl, rfl⟩ := State.takenAt_ticket (State.running_takenAt hx).1
  have hexec : exec (.reconRead x.core x.ticket) s = .next (s.post (x.fieldAt 0x10 2) (x.shareReads q (x.core.val, x.ticket.toNat))) := by
    change execReconRead x.core x.ticket s = _
    simp only [execReconRead, hx, hruns, if_true, State.reconRun, hq, husable, hnone, if_neg hlen, Bool.not_true, Bool.false_eq_true,
      if_false, Taken.shareReads]
  obtain ⟨q', out, hq', hpackets, hout⟩ := s.post_packets hq (x.shareReads q (x.core.val, x.ticket.toNat))
  refine ⟨_, q', hexec, s.post_onlyNet _ _, hq', ?_⟩
  have hold : q.packets.filter (OutPacket.sharedBy (x.core.val, x.ticket.toNat)) = [] :=
    List.filter_eq_nil_iff.2 fun p hp h => hfresh p hp (beq_iff_eq.1 (Bool.and_eq_true_iff.1 h).2)
  calc (q'.packets.filter (OutPacket.sharedBy (x.core.val, x.ticket.toNat))).length
      = (out.map (OutPacket.sharedBy (x.core.val, x.ticket.toNat))).countP id := by
        rw [hpackets, List.filter_append, hold, List.nil_append, ← List.countP_eq_length_filter, List.countP_map]
        rfl
    _ = ceilDiv (x.fieldAt 0x28 4) shareChunk := by
        rw [hout _ fun _ _ => rfl, Taken.shareReads_sharedBy, List.countP_replicate, if_pos (id_eq true)]

/-! ## REGISTER (R371, R373) -/

section
variable (hx : s.running c tk 10 0x03 = some x) (hnone : (s.regionEntry (x.fieldAt 0x10 4 % 2 ^ 20)).revoking = none)
include hx hnone

theorem execRegister_refuses (hbad : s.registerBad x = true) : exec (.register c tk) s = .next (s.finish x stBAD_REGION 0 []) := by
  change execRegister c tk s = _
  simp only [execRegister, hx, hruns, hnone, hbad, Bool.not_true, Option.isSome_none, Bool.or_self, Bool.false_eq_true, if_false, if_true]

/-- REGISTER and GENERATION_HOLD_END alike go on with a region that is free. -/
theorem execRegister_proceeds (hfree : (s.regionEntry (x.fieldAt 0x10 4 % 2 ^ 20)).registered = false) (hgood : s.registerBad x = false) :
    ∀ i ∈ [Instr.register c tk, Instr.generationHoldEnd c tk], exec i s = .next (s.registerNow x 0) := by
  refine List.forall_mem_cons.2 ⟨?_, List.forall_mem_singleton.2 ?_⟩
  · change execRegister c tk s = _
    simp only [execRegister, hx, hruns, hnone, hgood, hfree, Bool.not_true, Option.isSome_none, Bool.or_self, Bool.false_eq_true, if_false]
  · change execGenerationHoldEnd c tk s = _
    simp only [execGenerationHoldEnd, hx, hruns, hnone, hgood, hfree, Bool.not_false, Option.isNone_none, Bool.and_self, if_true]

end

end

section
variable {s : State} {x : Taken}

/-- A generation in use within the second is waited for. -/
theorem State.registerNow_of_recent (h : s.generationRecent (s.regionEntry (x.fieldAt 0x10 4 % 2 ^ 20)) = true) (detail : Nat) :
    s.registerNow x detail = s := if_pos h

/-- A descriptor that sets a region, writes bytes and ends. -/
theorem State.setRegion_write_finish {c : CoreId} {tk : Ticket} (hx : s.takenAt c tk = some x) (r : Nat) (e : RegionEntry) (a : Nat)
    (bs : List Byte) (status detail : Nat) (o : List (Nat × Nat)) {t : State}
    (ht : ((s.setRegion r e).engineWrite 10 a bs).finish x status detail o = t) :
    EndedWith t c tk status detail ∧ t.regionEntry r = e ∧ t.dram = Mem.store s.dram a bs ∧
      (∀ k, k ≠ r → t.regionEntry k = s.regionEntry k) ∧ t.rings = s.rings ∧ t.cores = s.cores := by
  subst ht
  have hentry (k : Nat) : ((s.setRegion r e).engineWrite 10 a bs).regionEntry k = if k = r then e else s.regionEntry k :=
    (State.regionEntry_of_regions (congrArg Net.regions (State.engineWrite_onlyLogs _ _ _ _).net) k).trans (s.regionEntry_setRegion r k e)
  refine ⟨State.finish_endedWith hx ((State.engineWrite_taken _ _ _ _).trans (s.setRegion_onlyNet r e).taken) _ _ _, ?_, ?_,
    fun k hk => ?_, ?_, ?_⟩
  · rw [State.finish_regionEntry, hentry, if_pos rfl]
  · rw [State.finish_dram, State.engineWrite_dram, (s.setRegion_onlyNet r e).dram]
  · rw [State.finish_regionEntry, hentry, if_neg hk]
  · rw [State.finish_rings, State.engineWrite_rings, (s.setRegion_onlyNet r e).rings]
  · rw [State.finish_cores, State.engineWrite_cores, State.setRegion_cores]

/-- A region's entry as its REGISTER sets it. -/
def State.registeredEntry (s : State) (x : Taken) (e : RegionEntry) : RegionEntry where
  space := if x.fieldAt 0x13 1 / 4 % 2 = 1 then some (x.fieldAt 0x14 2) else none
  base := x.fieldAt 0x18 8
  length := x.fieldAt 0x20 8
  access := BitVec.ofNat 2 (x.fieldAt 0x13 1)
  generation := e.generation
  registered := true
  revoking := none
  retired := e.retired.filter (fun g => decide ((s.gtc - g.2).toNat < 1000000000))

variable {c : CoreId} {tk : Ticket} {r : Nat} {e : RegionEntry} (hr : x.fieldAt 0x10 4 % 2 ^ 20 = r) (he : s.regionEntry r = e)
  (h : s.generationRecent e = false)
include hr he h

/-- Otherwise the region is set, and its key is written. -/
theorem State.registerNow_of_old (detail : Nat) : s.registerNow x detail =
    ((s.setRegion r (s.registeredEntry x e)).engineWrite 10 (x.fieldAt 0x28 8) (leBytes 4 (rkeyOf r e.generation))).finish x stOK detail
      [(x.fieldAt 0x28 8, 4)] := by
  unfold State.registerNow
  rw [hr]
  simp only [he, h, Bool.false_eq_true, if_false, State.registeredEntry]

theorem State.registerNow_registers (hx : s.takenAt c tk = some x) :
    ∃ e', EndedWith (s.registerNow x 0) c tk stOK 0 ∧ (s.registerNow x 0).regionEntry r = e' ∧ e'.registered = true ∧
      e'.base = x.fieldAt 0x18 8 ∧ e'.length = x.fieldAt 0x20 8 ∧ e'.generation = e.generation ∧
      (s.registerNow x 0).dram = Mem.store s.dram (x.fieldAt 0x28 8) (leBytes 4 (rkeyOf r e.generation)) ∧
      (∀ k, k ≠ r → (s.registerNow x 0).regionEntry k = s.regionEntry k) ∧ (s.registerNow x 0).rings = s.rings ∧
      (s.registerNow x 0).cores = s.cores := by
  rw [State.registerNow_of_old hr he h]
  obtain ⟨hended, hentry, hdram, hothers, hrings, hcores⟩ := State.setRegion_write_finish hx r (s.registeredEntry x e) (x.fieldAt 0x28 8)
    (leBytes 4 (rkeyOf r e.generation)) stOK 0 [(x.fieldAt 0x28 8, 4)] rfl
  exact ⟨s.registeredEntry x e, hended, hentry, rfl, rfl, rfl, rfl, hdram, hothers, hrings, hcores⟩

end

/-! ## REVOKE (R374) -/

section
variable {c : CoreId} {tk : Ticket} {s : State} {x : Taken} {r : Nat} (hx : s.running c tk 10 0x04 = some x)
  (hr : x.fieldAt 0x10 4 % 2 ^ 20 = r)
include hx hr

section
variable (hruns : s.engineRuns 10 = true) (hnone : (s.regionEntry r).revoking = none)
include hruns hnone

theorem execRevoke_refuses (hfree : (s.regionEntry r).registered = false) :
    exec (.revoke c tk) s = .next (s.finish x stBAD_REGION 0 []) := by
  subst hr
  change execRevoke c tk s = _
  simp only [execRevoke, hx, hruns, hnone, hfree, Bool.not_true, Option.isSome_none, Bool.or_self, Bool.false_eq_true, if_false,
    Bool.not_false, if_true]

theorem execRevoke_begins (hset : (s.regionEntry r).registered = true) : exec (.revoke c tk) s = .next (s.beginRevoke r x) := by
  subst hr
  change execRevoke c tk s = _
  simp only [execRevoke, hx, hruns, hnone, hset, Bool.not_true, Option.isSome_none, Bool.or_self, Bool.false_eq_true, if_false]

end

/-- The generation moves on; the revocation ends at once where no QP holds a message of the region, and waits otherwise. -/
theorem execRevoke_revokes (hruns : s.engineRuns 10 = true) (hnone : s.noneRevoking) (hset : (s.regionEntry r).registered = true) :
    ∃ t e', exec (.revoke c tk) s = .next t ∧ t.regionEntry r = e' ∧ e'.registered = false ∧
      e'.generation = ((s.regionEntry r).generation + 1) % 4096 ∧ t.dram = s.dram ∧ t.rings = s.rings ∧ t.cores = s.cores ∧
      ((∀ q ∈ s.net.qps, q.2.holds r = false) → EndedWith t c tk stOK 0 ∧ e'.revoking = none) ∧
      ((∃ q ∈ s.net.qps, q.2.holds r = true) → t.takenAt c tk = some x ∧ e'.revoking = some (c.val, tk.toNat, s.gtc)) := by
  obtain ⟨hat, -, hop, hres⟩ := State.running_takenAt hx
  obtain ⟨rfl, rfl⟩ := State.takenAt_ticket hat
  have hexec := execRevoke_begins hx hr hruns (hnone r) hset
  by_cases hheld : ∃ q ∈ s.net.qps, q.2.holds r = true
  · rw [State.beginRevoke_of_held x hnone hheld] at hexec
    obtain ⟨q, hq, hholds⟩ := hheld
    refine ⟨_, _, hexec, s.regionEntry_setRegion_self r _, rfl, rfl, rfl, rfl, rfl, fun hfree => ?_, fun _ => ⟨hat, rfl⟩⟩
    exact absurd hholds (by rw [hfree q hq]; exact Bool.false_ne_true)
  · have hfree (q) (hq : q ∈ s.net.qps) : q.2.holds r = false := Bool.eq_false_iff.2 fun h => hheld ⟨q, hq, h⟩
    rw [State.beginRevoke_of_free x hnone hfree hat hres hop] at hexec
    exact ⟨_, _, hexec, (State.finish_regionEntry _ _ _ _ _ r).trans (State.regionEntry_setRegion_self _ r _), rfl, rfl, rfl, rfl, rfl,
      fun _ => ⟨State.finish_endedWith hat rfl _ _ _, rfl⟩, fun h => absurd h hheld⟩

end

/-! ## REVOKE_TIMEOUT (R374) -/

section
variable {c : CoreId} {tk : Ticket} {s : State} {r : Nat} {rp : Word64} (hrev : (s.regionEntry r).revoking = some (c.val, tk.toNat, rp))
  (hothers : ∀ k, k ≠ r → (s.regionEntry k).revoking = none) (hregions : Table.canonical RegionEntry.fresh s.net.regions = true)
include hrev hothers hregions

/-- The region that a REVOKE waits for is found by its descriptor. -/
theorem State.find_revoking : s.net.regions.find? (fun e => e.2.revoking.any (fun v => v.1 == c.val && v.2.1 == tk.toNat)) =
    some (r, s.regionEntry r) := by
  have hmem : (r, s.regionEntry r) ∈ s.net.regions := s.mem_regions fun h => by rw [h] at hrev; cases hrev
  cases hfind : s.net.regions.find? (fun e => e.2.revoking.any (fun v => v.1 == c.val && v.2.1 == tk.toNat)) with
  | none => exact absurd (List.find?_eq_none.1 hfind _ hmem) (by simp [hrev])
  | some e =>
    have hentry : s.regionEntry e.1 = e.2 := by
      rw [State.regionEntry, Table.at, Table.find_of_mem (Table.canonical_iff.1 hregions).1 (List.mem_of_find?_eq_some hfind)]
      rfl
    have hr : e.1 = r := by
      by_contra hne
      have hnone := hothers _ hne
      rw [hentry] at hnone
      simpa [hnone] using List.find?_some hfind
    rw [← hr, hentry]

/-- At REVOKE_TMO the QPs that hold a message of the region enter ERR, and the revocation ends with their count. -/
theorem execRevokeTimeout_ends (hnet : s.netRuns = true)
    (hlate : zeroActsAsOne (s.fld Reg.RDM_REVOKE_CFG_REVOKE_TMO) * 1000000 ≤ (s.gtc - rp).toNat) {held : List Nat}
    (hheld : (s.net.qps.filter (fun q => q.2.holds r)).map (·.1) = held) : exec (.revokeTimeout c tk) s =
      let t := held.foldl (fun (s : State) q => s.qpError q stFLUSHED none stFLUSHED false)
        (s.setRegion r { s.regionEntry r with revoking := none })
      .next ((t.setRegion r { t.regionEntry r with revoking := (s.regionEntry r).revoking }).endRevoke r held.length) := by
  subst hheld
  change execRevokeTimeout c tk s = _
  simp only [execRevokeTimeout, State.find_revoking hrev hothers hregions, hrev, hnet, Option.map_some, Option.getD_some,
    decide_eq_false (Nat.not_lt.2 hlate), Bool.not_true, Bool.or_self, Bool.false_eq_true, if_false]

theorem execRevokeTimeout_revokes {x : Taken} (hx : s.running c tk 10 0x04 = some x) (hnet : s.netRuns = true)
    (hlate : zeroActsAsOne (s.fld Reg.RDM_REVOKE_CFG_REVOKE_TMO) * 1000000 ≤ (s.gtc - rp).toNat)
    (hfresh : ∀ q ∈ s.net.qps, q.2.carriesNothingOf (c.val, tk.toNat)) (hd : s.net.deliveries = []) :
    ∃ t, exec (.revokeTimeout c tk) s = .next t ∧ Ended t c tk stOK ∧ (t.regionEntry r).revoking = none ∧ t.dram = s.dram ∧
      (∀ n q, s.qpAt n = some q → q.holds r = true → q.state = qpRTR ∨ q.state = qpRTS → ∃ q', t.qpAt n = some q' ∧ q'.state = qpERR) := by
  obtain ⟨hat, -, hop, hres⟩ := State.running_takenAt hx
  set u := s.setRegion r { s.regionEntry r with revoking := none } with hu
  have hnone : u.noneRevoking := fun k => by
    rw [hu, State.regionEntry_setRegion]
    split
    · rfl
    next hk => exact hothers k hk
  set held := (s.net.qps.filter (fun q => q.2.holds r)).map (·.1) with hheld
  obtain ⟨hquiet, herred⟩ := State.qpErrors_quiets (s := u) hd hnone stFLUSHED none stFLUSHED false held
  set t := held.foldl (fun (s : State) q => s.qpError q stFLUSHED none stFLUSHED false) u with ht
  have htaken : t.takenAt c tk = some x :=
    (hquiet.takenAt c tk fun n q hq => hfresh _ (Table.mem_of_find (t := s.net.qps) hq)).trans hat
  have hentry := t.regionEntry_setRegion_self r { t.regionEntry r with revoking := (s.regionEntry r).revoking }
  have hend := State.endRevoke_revoke (t.setRegion r { t.regionEntry r with revoking := (s.regionEntry r).revoking })
    (r := r) (n := held.length) (rp := rp) (State.takenAt_of_taken rfl c tk ▸ htaken) hres hop (by rw [hentry]; exact hrev)
  refine ⟨_, (execRevokeTimeout_ends hrev hothers hregions hnet hlate hheld.symm).trans (congrArg _ hend), ⟨min 0xFFFF held.length, ?_⟩,
    ?_, hquiet.dram, fun n q hq hholds hstate => ?_⟩
  · exact State.finish_endedWith htaken rfl _ _ _
  · rw [State.finish_regionEntry, State.regionEntry_setRegion_self]
  · have hn : n ∈ held := List.mem_map.2 ⟨(n, q), List.mem_filter.2 ⟨Table.mem_of_find hq, hholds⟩, rfl⟩
    obtain ⟨q', hq'⟩ := herred n hn q hq hstate
    exact ⟨_, hq', rfl⟩

end

/-! ## The statement -/

/-- Settles O39: REGISTER by `registerNow_registers`, REVOKE by `execRevoke_revokes`, its timeout by `execRevokeTimeout_revokes`,
RECON_READ by `execReconRead_posts`. -/
theorem regions : Obligations.Regions := by
  unfold Obligations.Regions
  rintro c tk s x r e hruns - - hr rfl
  refine ⟨?register, ?bad, ?revoke, ?free, ?timeout, ?recon⟩
  case register =>
    intro hx hnone hfree hgood
    have hexec := execRegister_proceeds hruns hx (hr.symm ▸ hnone) (hr.symm ▸ hfree) hgood
    refine ⟨fun hrecent => ?_, fun hold i hi => ?_⟩
    · rw [State.registerNow_of_recent (hr.symm ▸ hrecent)] at hexec
      exact ⟨hexec _ (by simp), hexec _ (by simp)⟩
    · obtain ⟨e', h⟩ := State.registerNow_registers hr rfl hold (State.running_takenAt hx).1
      exact ⟨_, e', hexec i hi, h⟩
  case bad =>
    intro hx hnone hbad
    exact ⟨_, execRegister_refuses hruns hx (hr.symm ▸ hnone) hbad, State.finish_endedWith (State.running_takenAt hx).1 rfl _ _ _, rfl, rfl⟩
  case revoke => exact fun hx hnone hset => execRevoke_revokes hx hr hruns hnone hset
  case free =>
    intro hx hnone hfree _
    exact ⟨_, execRevoke_refuses hx hr hruns hnone hfree, State.finish_endedWith (State.running_takenAt hx).1 rfl _ _ _, rfl, rfl⟩
  case timeout =>
    exact fun rp hx hnet hrev hothers hregions hlate hfresh hd => execRevokeTimeout_revokes hrev hothers hregions hx hnet hlate hfresh hd
  case recon =>
    intro q hx hq husable hlow hhigh hunit hfresh
    obtain ⟨t, q', hexec, honly, hq', hshares⟩ := execReconRead_posts hruns hx hq husable hlow hhigh hunit hfresh
    exact ⟨t, q', hexec, hq', (State.takenAt_of_taken honly.taken c tk).trans (State.running_takenAt hx).1, honly.dram, hshares⟩

end Sys2Proof.Machine

/-!
SUPPORT. What every command keeps: the queue of commands behind it, and the canonical form of the byte memories. One lemma for each
operation of the model, in the order of their definitions; the commands and a step from these.
-/

namespace Sys2Proof.Machine

/-- What a command of the past state `p` keeps, whatever the machine holds: `s` has the commands that wait in `p`, and its byte memories are in
canonical form if those of `p` are. -/
structure Kept (p s : State) : Prop where
  queue : s.pending = p.pending
  mem : p.memWf → s.memWf

/-- `Kept` by the parts of a state that it speaks of. -/
def KeptParts (p : State) (q : List Instr) (dram hostMem boot : Mem) : Prop :=
  q = p.pending ∧ (p.memWf → Mem.wf dram = true ∧ Mem.wf hostMem = true ∧ Mem.wf boot = true)

theorem Kept.refl (s : State) : Kept s s := ⟨rfl, id⟩

theorem Kept.parts {p s : State} (h : Kept p s) : KeptParts p s.pending s.dram s.host.mem s.bootFlash := ⟨h.queue, h.mem⟩

/-- A state written out field by field. -/
theorem Kept.of {p s : State} (h : KeptParts p s.pending s.dram s.host.mem s.bootFlash) : Kept p s := ⟨h.1, h.2⟩

theorem Kept.ite {p s t : State} {c : Prop} [Decidable c] (hs : Kept p s) (ht : Kept p t) : Kept p (if c then s else t) := by
  split
  · exact hs
  · exact ht

theorem Kept.ite_snd {p : State} {c : Prop} [Decidable c] {α : Type} {a b : α × State} (ha : Kept p a.2) (hb : Kept p b.2) :
    Kept p (if c then a else b).2 := by
  split
  · exact ha
  · exact hb

theorem Kept.foldl {p : State} {α : Type} {f : State → α → State} {l : List α} {s : State} (h : Kept p s)
    (hf : ∀ s a, Kept p s → Kept p (f s a)) : Kept p (l.foldl f s) :=
  List.foldlRecOn l f h fun t ht a _ => hf t a ht

theorem Kept.foldl_snd {p : State} {α β : Type} {f : β × State → α → β × State} {l : List α} {e : β × State} (h : Kept p e.2)
    (hf : ∀ e a, Kept p e.2 → Kept p (f e a).2) : Kept p (l.foldl f e).2 :=
  List.foldlRecOn (motive := fun e : β × State => Kept p e.2) l f h fun t ht a _ => hf t a ht

theorem Kept.foldl_fst {p : State} {α β : Type} {f : State × β → α → State × β} {l : List α} {e : State × β} (h : Kept p e.1)
    (hf : ∀ e a, Kept p e.1 → Kept p (f e a).1) : Kept p (l.foldl f e).1 :=
  List.foldlRecOn (motive := fun e : State × β => Kept p e.1) l f h fun t ht a _ => hf t a ht

theorem Kept.of_onlyLogs {p s t : State} (h : Kept p s) (ht : OnlyLogs s t) : Kept p t :=
  .of (by rw [ht.pending, ht.dram, ht.host, ht.proj State.bootFlash]; exact h.parts)

/-! ## The operations -/

section
variable {p s t : State}

/-! ### The log, the trace and the memories -/

theorem Kept.of_snd {α : Type} {e : α × State} {a : α} (h : Kept p e.2) (he : e = (a, t)) : Kept p t := by
  subst he
  exact h

theorem Kept.of_fst {α : Type} {e : State × α} {a : α} (h : Kept p e.1) (he : e = (t, a)) : Kept p t := by
  subst he
  exact h

theorem Kept.countQuiet {u k n} (h : Kept p s) : Kept p (s.countQuiet u k n).1 := h.of_onlyLogs (s.countQuiet_onlyLogs u k n)
theorem Kept.traceWrite {r} (h : Kept p s) : Kept p (s.traceWrite r) := h.of_onlyLogs (s.traceWrite_onlyLogs r)
theorem Kept.trigger {src} (h : Kept p s) : Kept p (s.trigger src) := h.of_onlyLogs (s.trigger_onlyLogs src)

theorem Kept.emit {typ polder info data} (h : Kept p s) : Kept p (s.emit typ polder info data) :=
  h.of_onlyLogs (s.emit_onlyLogs typ polder info data)

theorem Kept.logFault {kind polder detail value} (h : Kept p s) : Kept p (s.logFault kind polder detail value) :=
  h.of_onlyLogs (s.logFault_onlyLogs kind polder detail value)

theorem Kept.count {u k n} (h : Kept p s) : Kept p (s.count u k n) := h.of_onlyLogs (s.count_onlyLogs u k n)

theorem Kept.writeDram {a bs} (h : Kept p s) : Kept p (s.writeDram a bs) :=
  ⟨h.queue, fun hp => ⟨Mem.wf_store (h.mem hp).1 a bs, (h.mem hp).2⟩⟩

theorem Kept.hostWrite {a bs} (h : Kept p s) : Kept p (s.hostWrite a bs) :=
  ⟨h.queue, fun hp => ⟨(h.mem hp).1, Mem.wf_store (h.mem hp).2.1 a bs, (h.mem hp).2.2⟩⟩

theorem Kept.storeBoot {a bs} (h : Kept p s) : Kept p { s with bootFlash := Mem.store s.bootFlash a bs } :=
  ⟨h.queue, fun hp => ⟨(h.mem hp).1, (h.mem hp).2.1, Mem.wf_store (h.mem hp).2.2 a bs⟩⟩

/-- A state that lost its DRAM. -/
theorem Kept.loseDram (h : Kept p s) (hq : t.pending = s.pending) (hd : t.dram = []) (hm : t.host.mem = s.host.mem)
    (hb : t.bootFlash = s.bootFlash) : Kept p t :=
  .of (by rw [hq, hd, hm, hb]; exact ⟨h.queue, fun hp => ⟨rfl, (h.mem hp).2⟩⟩)

theorem Kept.setReg {off w} (h : Kept p s) : Kept p (s.setReg off w) :=
  .of h.parts

theorem Kept.setFld {f v} (h : Kept p s) : Kept p (s.setFld f v) :=
  h.setReg

theorem Kept.setFlag {f b} (h : Kept p s) : Kept p (s.setFlag f b) :=
  h.setFld

theorem Kept.errAdd {f k} (h : Kept p s) : Kept p (s.errAdd f k) :=
  h.setFld

theorem Kept.clearRegs {lo hi} (h : Kept p s) : Kept p (s.clearRegs lo hi) :=
  .of h.parts

theorem Kept.setPolder {x2 v} (h : Kept p s) : Kept p (s.setPolder x2 v) :=
  h.setReg

theorem Kept.traceOverwrite {w} (h : Kept p s) : Kept p (s.traceOverwrite w) :=
  .ite h (.ite (.countQuiet (.of h.parts)) (.of h.parts))

theorem Kept.traceStore {r} (h : Kept p s) : Kept p (s.traceStore r) := by
  unfold State.traceStore
  extract_lets _ s1 w left s2 _ s3 s4 s5
  have h1 : Kept p s1 := .of h.parts
  have h2 : Kept p s2 := h.traceOverwrite
  have h3 : Kept p s3 := .of h2.parts
  have h5 : Kept p s5 := h3.setFld.countQuiet
  exact .ite h1.countQuiet (.ite (.ite h5.setFlag h5) h)

theorem Kept.marker {typ polder kind} (h : Kept p s) : Kept p (s.marker typ polder kind) :=
  .ite h.traceWrite (.ite (.of h.parts) (.of h.parts))

theorem Kept.flushMarkers (h : Kept p s) : Kept p s.flushMarkers := by
  unfold State.flushMarkers
  dsimp only
  split
  · exact .foldl (.of h.parts) fun _ _ ht => ht.traceWrite
  · exact .traceWrite (.errAdd (.foldl (.of h.parts) fun _ _ ht => ht.traceWrite))

theorem Kept.setTests {q} (h : Kept p s) : Kept p (s.setTests q) :=
  .setFld (.of h.parts)

theorem Kept.queueTest {cls unit} (h : Kept p s) : Kept p (s.queueTest cls unit) :=
  .ite h.setFlag h.setTests

theorem Kept.freshFree (h : Kept p s) : Kept p s.freshFree.2 :=
  .of h.parts

theorem Kept.interrupt {fn vector} (h : Kept p s) : Kept p (s.interrupt fn vector) :=
  .of h.parts

theorem Kept.setCore {c k} (h : Kept p s) : Kept p (s.setCore c k) :=
  .of h.parts

theorem Kept.haltOne {c cause} (h : Kept p s) : Kept p (s.haltOne c cause) :=
  h.setCore.emit.trigger

theorem Kept.enterHalt {c cause} (h : Kept p s) : Kept p (s.enterHalt c cause) :=
  .ite (h.haltOne.foldl fun _ _ ht => .ite ht.haltOne ht) h.haltOne

theorem Kept.settleRecipe {x2} (h : Kept p s) : Kept p (s.settleRecipe x2) := by
  unfold State.settleRecipe
  split
  · exact .ite (.of h.parts) h
  · exact h

theorem Kept.coreEnds {c} (h : Kept p s) : Kept p (s.coreEnds c) := by
  unfold State.coreEnds
  split
  · exact .ite h.setCore.settleRecipe h
  · exact h

theorem Kept.stopCore {c} (h : Kept p s) : Kept p (s.stopCore c) :=
  .ite h h.setCore

theorem Kept.coreFails {c status exception} (h : Kept p s) : Kept p (s.coreFails c status exception) := by
  unfold State.coreFails
  split
  · exact .ite (.settleRecipe (.foldl (.setCore (.of h.parts)) fun _ _ ht => ht.stopCore)) h
  · exact h

theorem Kept.raise {c code val} (h : Kept p s) : Kept p (s.raise c code val) :=
  .ite h.enterHalt.logFault (.ite h.setCore.coreFails h.setCore)

theorem Kept.takeInterrupt {c n} (h : Kept p s) : Kept p (s.takeInterrupt c n) :=
  h.setCore

theorem Kept.issue {c} (h : Kept p s) (e : s.issue c = .acted t) : Kept p t := by
  unfold State.issue at e
  dsimp only at e
  repeat' split at e
  all_goals cases e
  · exact h.takeInterrupt
  · exact h.enterHalt
  · exact h.raise
  · exact h.raise
  · exact h.raise

/-- An instruction keeps what its body keeps. -/
theorem Kept.runInsn {c word legal} {body : State → State} (h : Kept p s) (hb : Kept p (body s)) :
    Kept p (s.runInsn c word legal body) := by
  unfold State.runInsn
  split
  · exact h
  · exact h.issue ‹_›
  · exact .ite hb h.raise

theorem Kept.checkAccess {c kind a n scalar} (h : Kept p s) (e : s.checkAccess c kind a n scalar = some t) : Kept p t := by
  unfold State.checkAccess at e
  extract_lets store at e
  split at e
  · cases e
    exact h.raise
  split at e
  · cases e
    exact h.enterHalt
  · cases e
    exact h.raise
  split at e
  · cases e
    exact h.raise
  split at e
  · cases e
    exact h.raise
  · cases e

/-! ### Cores, flash and the translation layer -/

theorem Kept.writesReg {c word legal rd value} (h : Kept p s) : Kept p (s.writesReg c word legal rd value) :=
  h.runInsn h.setCore

theorem Kept.rrrOp {c op func f g} (h : Kept p s) : Kept p (s.rrrOp c op func f g) :=
  h.writesReg

theorem Kept.unaryOp {c func f g} (h : Kept p s) : Kept p (s.unaryOp c func f g) :=
  h.writesReg

theorem Kept.rriOp {c op f g} (h : Kept p s) : Kept p (s.rriOp c op f g) :=
  h.writesReg

theorem Kept.shiftOp {c sel f g} (h : Kept p s) : Kept p (s.shiftOp c sel f g) :=
  h.writesReg

theorem Kept.branchOp {c op f taken} (h : Kept p s) : Kept p (s.branchOp c op f taken) :=
  h.runInsn h.setCore

theorem Kept.vecOp {c oper f} (h : Kept p s) : Kept p (s.vecOp c oper f) :=
  h.runInsn h.setCore

theorem Kept.vecFloatOp {c oper f} (h : Kept p s) : Kept p (s.vecFloatOp c oper f) :=
  h.runInsn h.setCore

theorem Kept.csrOp {c fn f legal new} (h : Kept p s) : Kept p (s.csrOp c fn f legal new) := by
  unfold State.csrOp
  refine h.runInsn ?_
  extract_lets k n
  split
  · exact h.raise
  · exact .ite h.raise (.ite h.raise h.setCore)

theorem Kept.setRing {cls ring r} (h : Kept p s) : Kept p (s.setRing cls ring r) :=
  .of h.parts

theorem Kept.requestHalt {c} (h : Kept p s) : Kept p (s.requestHalt c) :=
  .ite h.enterHalt h

theorem Kept.leaveHalt {c} (h : Kept p s) : Kept p (s.leaveHalt c) :=
  .ite h.setCore.emit h

theorem Kept.writeSwi {set clear} (h : Kept p s) : Kept p (s.writeSwi set clear) :=
  h.foldl fun _ _ ht => ht.setCore

theorem Kept.ringError {cls ring} (h : Kept p s) : Kept p (s.ringError cls ring) :=
  h.setRing

theorem Kept.setTaken {x} (h : Kept p s) : Kept p (s.setTaken x) :=
  .of h.parts

theorem Kept.finish {x status detail output} (h : Kept p s) : Kept p (s.finish x status detail output) :=
  h.setTaken

theorem Kept.engineAccess {cls write a n} (h : Kept p s) : Kept p (s.engineAccess cls write a n) :=
  .ite h (h.count.foldl fun _ _ ht => .ite ht.emit.trigger ht)

theorem Kept.engineWrite {cls a bs} (h : Kept p s) : Kept p (s.engineWrite cls a bs) :=
  h.writeDram.engineAccess

theorem Kept.completeTaken {x r} (h : Kept p s) : Kept p (s.completeTaken x r) := by
  unfold State.completeTaken
  extract_lets a s1 k s2 s3 rg bad s4
  have h1 : Kept p s1 := .ite h.engineWrite h
  have h2 : Kept p s2 := h1.setCore
  have h3 : Kept p s3 := .of h2.parts
  have h4 : Kept p s4 := h3.setRing
  exact .ite h4.emit h4

theorem Kept.endTaken {x status word} (h : Kept p s) : Kept p (s.endTaken x status word) :=
  h.completeTaken

-- MISSING hostWrite

theorem Kept.hostStores {stores} (h : Kept p s) : Kept p (s.hostStores stores) :=
  h.foldl fun _ _ ht => ht.hostWrite

theorem Kept.setController {c} (h : Kept p s) : Kept p (s.setController c) :=
  .of h.parts

theorem Kept.setSq {q} (h : Kept p s) : Kept p (s.setSq q) :=
  .of h.parts

theorem Kept.setCq {q} (h : Kept p s) : Kept p (s.setCq q) :=
  .of h.parts

theorem Kept.putCqe {q dw0 sqHead sqid cid status} (h : Kept p s) : Kept p (s.putCqe q dw0 sqHead sqid cid status) :=
  .ite h.hostWrite.setCq.interrupt h.hostWrite.setCq

theorem Kept.nvmeComplete {fn sqid cid dw0 status} (h : Kept p s) : Kept p (s.nvmeComplete fn sqid cid dw0 status) := by
  unfold State.nvmeComplete
  refine .ite h ?_
  split
  · split
    · extract_lets s1 s2
      have h1 : Kept p s1 := h.count
      have h2 : Kept p s2 := .ite h1.errAdd.setController h1
      exact .ite h2.setCq h2.putCqe
    · exact h
  · exact h

theorem Kept.releaseCq {fn qid k} (h : Kept p s) : Kept p (s.releaseCq fn qid k) := by
  induction k generalizing s with
  | zero => exact h
  | succ k ih =>
    unfold State.releaseCq
    split
    · refine .ite h ?_
      split
      · exact h
      · exact ih h.setCq.putCqe
    · exact h

theorem Kept.setCmdRing {i r} (h : Kept p s) : Kept p (s.setCmdRing i r) :=
  .of h.parts

theorem Kept.putEntry {i r e} (h : Kept p s) : Kept p (s.putEntry i r e) :=
  h.hostWrite.setCmdRing.count.interrupt

theorem Kept.releaseEntries {i k} (h : Kept p s) : Kept p (s.releaseEntries i k) := by
  induction k generalizing s with
  | zero => exact h
  | succ k ih =>
    unfold State.releaseEntries
    split
    · refine .ite h ?_
      split
      · exact h
      · exact ih h.putEntry
    · exact h

theorem Kept.settleDelete {i} (h : Kept p s) : Kept p (s.settleDelete i) := by
  unfold State.settleDelete
  split
  · split
    · exact .ite (.nvmeComplete (.of h.parts)) h
    · exact h
  · exact h

theorem Kept.completeCommand {ref result status data} (h : Kept p s) : Kept p (s.completeCommand ref result status data) := by
  unfold State.completeCommand
  split
  · exact .of h.parts
  · split
    · exact h
    · split
      · exact h
      · extract_lets r e s1
        have h1 : Kept p s1 := .ite h.setCmdRing (.ite h.setCmdRing h.putEntry)
        exact h1.settleDelete

theorem Kept.popEntry {i e} (h : Kept p s) : Kept p (s.popEntry i e) := by
  unfold State.popEntry
  split
  · exact h.setCmdRing
  · exact h

theorem Kept.rejectUnknown {i k} (h : Kept p s) : Kept p (s.rejectUnknown i k) := by
  induction k generalizing s with
  | zero => exact h
  | succ k ih =>
    unfold State.rejectUnknown
    split
    · exact .ite h (ih h.popEntry.completeCommand)
    · exact h

theorem Kept.takeCommand {src opcode r} (h : Kept p s) (e : s.takeCommand src opcode = some r) : Kept p r.2.2 := by
  unfold State.takeCommand at e
  split at e
  · cases e
    exact h
  · split at e
    · split at e
      · cases e
        exact h.popEntry.rejectUnknown
      · cases e
    · cases e

theorem Kept.discardDoorbell {qcn} (h : Kept p s) : Kept p (s.discardDoorbell qcn) := by
  unfold State.discardDoorbell
  extract_lets s1
  have h1 : Kept p s1 := h.errAdd
  split
  · exact h1.ringError
  · exact h1

theorem Kept.placeRing {m core e ring base qcn data bss staging} (h : Kept p s) : Kept p (s.placeRing m core e ring base qcn data bss staging) :=
  .of h.parts

theorem Kept.placeRecipe {m place handle} (h : Kept p s) : Kept p (s.placeRecipe m place handle) := by
  unfold State.placeRecipe
  extract_lets t act slots text
  split
  extract_lets s1 s2 s3 s4 r
  have h1 : Kept p s1 := h.foldl fun _ _ ht => ht.writeDram.setCore
  have h3 : Kept p s3 := h1.writeDram.writeDram
  have h4 : Kept p s4 := h3.foldl fun _ _ ht => ht.placeRing
  exact .of h4.parts

theorem Kept.setDie {d x} (h : Kept p s) : Kept p (s.setDie d x) :=
  .of h.parts

theorem Kept.repopulate (h : Kept p s) : Kept p s.repopulate :=
  .setFlag (.setFld (.setFld (.setFld (.setFld (.setFld (.of h.parts))))))

theorem Kept.setChanRate {ch v} (h : Kept p s) : Kept p (s.setChanRate ch v) :=
  h.setReg

theorem Kept.failChannel {ch} (h : Kept p s) : Kept p (s.failChannel ch) :=
  .ite h (.repopulate (.setChanRate (.of h.parts)))

theorem Kept.dieDead {d} (h : Kept p s) : Kept p (s.dieDead d) := by
  unfold State.dieDead
  split
  · exact .ite h (.ite (.errAdd (.of h.parts)) (.failChannel (.errAdd (.of h.parts))))
  · exact h

theorem Kept.checkReadOnly (h : Kept p s) : Kept p s.checkReadOnly :=
  .ite h.setFld h

theorem Kept.setSuperblock {n x} (h : Kept p s) : Kept p (s.setSuperblock n x) :=
  .of h.parts

theorem Kept.askRefresh {d b} (h : Kept p s) : Kept p (s.askRefresh d b) := by
  unfold State.askRefresh
  split
  · exact h.setSuperblock
  · exact h

theorem Kept.retireBlock {d b} (h : Kept p s) : Kept p (s.retireBlock d b) := by
  unfold State.retireBlock
  split
  · exact .ite h (.checkReadOnly (.ite h.setDie.askRefresh.dieDead h.setDie.askRefresh))
  · exact h

theorem Kept.readSteps {a last} (h : Kept p s) : Kept p (s.readSteps a last).2 := by
  unfold State.readSteps
  extract_lets s1 k _ s2
  have h2 : Kept p s2 := .of h.count.parts
  clear_value s2
  split
  · exact h2
  · extract_lets wrong s3 order hit tried s4 _ s5 s6
    have hwrong {t b n} (ht : Kept p t) : Kept p (wrong t b n) := .ite ht.errAdd ht
    have h4 : Kept p s4 := (hwrong h2).count
    have h6 : Kept p s6 := (hwrong h4).count
    exact .ite_snd h2.count (.ite_snd (hwrong h2) (.ite_snd (.of h4.parts) (.ite_snd (hwrong h4) (.ite_snd h6 (hwrong h6)))))

theorem Kept.rebuildCodeword {a} (h : Kept p s) : Kept p (s.rebuildCodeword a).2 := by
  unfold State.rebuildCodeword
  split
  · exact h
  · extract_lets w p pm m at_ others zero oob0
    refine .ite_snd h (.ite_snd (h.foldl_snd fun _ _ ht => ?_) (.ite_snd (h.foldl_snd fun _ _ ht => ?_) (.errAdd (h.foldl_snd fun _ _ ht => ?_))))
    · split
      exact .of_snd ht.readSteps ‹_›
    · split
      exact .of_snd ht.readSteps ‹_›
    · split
      exact .of_snd ht.readSteps ‹_›

theorem Kept.readCodeword {a} (h : Kept p s) : Kept p (s.readCodeword a).2 := by
  unfold State.readCodeword
  refine .ite_snd ?_ ?_
  · split
    split
    · exact .of_snd h.rebuildCodeword ‹_›
    · exact .errAdd (.of_snd h.rebuildCodeword ‹_›)
  · split
    split
    · exact .ite (.askRefresh (.of_snd h.readSteps ‹_›)) (.of_snd h.readSteps ‹_›)
    · split
      extract_lets s1
      have h1 : Kept p s1 := .retireBlock (.askRefresh (.of_snd (.rebuildCodeword (.of_snd h.readSteps ‹_›)) ‹_›))
      split
      · exact h1
      · exact h1.errAdd

theorem Kept.suspendDie {d} (h : Kept p s) : Kept p (s.suspendDie d) := by
  unfold State.suspendDie
  split
  · exact .ite h.setDie.count h
  · exact h

theorem Kept.physCodeword {a mode} (h : Kept p s) : Kept p (s.physCodeword a mode).2 :=
  .ite_snd h.count h.readSteps

theorem Kept.calibrated {ch temp} (h : Kept p s) : Kept p (s.calibrated ch temp) :=
  .of h.parts

theorem Kept.patrolOne {n x} (h : Kept p s) : Kept p (s.patrolOne n x) :=
  .ite (.setSuperblock (h.count.foldl fun _ _ ht => .of ht.parts)) (h.count.foldl fun _ _ ht => .of ht.parts)

theorem Kept.answer {a status detail} (h : Kept p s) : Kept p (s.answer a status detail) := by
  unfold State.answer
  split
  · split
    · exact .ite h.finish h
    · exact h
  · exact h.nvmeComplete
  · exact h.completeCommand

theorem Kept.setMap {space lua v} (h : Kept p s) : Kept p (s.setMap space lua v) :=
  .ite (.of h.parts) (.of h.parts)

theorem Kept.countSpaces (h : Kept p s) : Kept p s.countSpaces :=
  h.setFld

theorem Kept.unmap {space lua n} (h : Kept p s) : Kept p (s.unmap space lua n) :=
  h.foldl fun _ _ ht => ht.setMap

theorem Kept.applyRecord {r} (h : Kept p s) : Kept p (s.applyRecord r) := by
  unfold State.applyRecord
  refine .ite h.setMap (.ite (.ite h.setMap h) (.ite h.unmap (.ite (.ite h h.setSuperblock) (.ite ?_ (.ite ?_ (.ite (.of h.parts) (.ite (.countSpaces
    (.of h.parts)) h)))))))
  · split
    · extract_lets e
      exact h.setSuperblock
    · exact h
  · split
    · exact h.setSuperblock
    · exact h

theorem Kept.showJournal (h : Kept p s) : Kept p s.showJournal :=
  h.setFld.setFld

theorem Kept.unitDone {w} (h : Kept p s) : Kept p (s.unitDone w) := by
  unfold State.unitDone
  split
  · exact .ite (.answer (.of h.parts)) (.of h.parts)
  · exact h

theorem Kept.appendNow {r w} (h : Kept p s) : Kept p (s.appendNow r w) :=
  .unitDone (.showJournal (.applyRecord (.of h.parts)))

theorem Kept.append {r w} (h : Kept p s) : Kept p (s.append r w) :=
  .ite h (.ite h.appendNow (.of h.parts))

theorem Kept.drainWaiting {k} (h : Kept p s) : Kept p (s.drainWaiting k) := by
  induction k generalizing s with
  | zero => exact h
  | succ k ih =>
    unfold State.drainWaiting
    split
    · exact h
    · exact .ite (ih (.appendNow (.of h.parts))) h

theorem Kept.openSuperblock {st} (h : Kept p s) : Kept p (s.openSuperblock st).2 := by
  unfold State.openSuperblock
  extract_lets members n seq rot _ s1 s2 s3 s4 s5 _ s6
  have h1 : Kept p s1 := .of h.parts
  have h5 : Kept p s5 := h1.setFld.setSuperblock.append.foldl fun _ _ ht => ht.append
  have h6 : Kept p s6 := .of h5.parts
  exact .ite_snd h h6

theorem Kept.setStream {st o} (h : Kept p s) : Kept p (s.setStream st o) :=
  .of h.parts

theorem Kept.fillRound {st k} (h : Kept p s) : Kept p (s.fillRound st k) := by
  induction k generalizing s with
  | zero => exact h
  | succ k ih =>
    unfold State.fillRound
    extract_lets o
    refine .ite h ?_
    split
    · exact h
    · exact .ite h.setStream (ih h.setStream)
    · split
      next n t e =>
        have ht : Kept p t := .of_snd h.openSuperblock e
        exact ih (.setStream (.of ht.parts))
      next t e => exact .of_snd h.openSuperblock e

theorem Kept.fill {st} (h : Kept p s) : Kept p (s.fill st) :=
  h.fillRound

theorem Kept.programWords {ws} (h : Kept p s) : Kept p (s.programWords ws) := by
  unfold State.programWords
  refine h.foldl fun _ _ ht => ?_
  split
  · exact .of ht.parts
  · exact ht

theorem Kept.reportUnit {st u} (h : Kept p s) : Kept p (s.reportUnit st u) := by
  unfold State.reportUnit
  split
  · exact h.count.append
  · extract_lets fabric
    exact h.count.append
  · exact h

theorem Kept.closeSb {n} (h : Kept p s) : Kept p (s.closeSb n) :=
  .of h.parts

theorem Kept.endRound {st} (h : Kept p s) : Kept p (s.endRound st) := by
  unfold State.endRound
  extract_lets o full o _ s1
  have h1 : Kept p s1 := .setStream (.of h.parts)
  split
  · exact h
  · extract_lets s2
    have h2 : Kept p s2 := .ite h1.closeSb h1
    exact h2.fill

theorem Kept.prepareMeta (h : Kept p s) : Kept p s.prepareMeta := by
  unfold State.prepareMeta
  refine .ite ?_ h
  split
  next n t e =>
    have ht : Kept p t := .of_snd h.openSuperblock e
    exact .of ht.parts
  next t e => exact .of_snd h.openSuperblock e

theorem Kept.advanceMeta (h : Kept p s) : Kept p s.advanceMeta := by
  unfold State.advanceMeta
  extract_lets stripe s1
  have h1 : Kept p s1 := by
    dsimp only [s1]
    split
    · exact h.closeSb
    · exact h
  exact .ite (.of h1.parts) (.of h.parts)

theorem Kept.metaWrite {kind space lua data ok} (h : Kept p s) : Kept p (s.metaWrite kind space lua data ok).2 := by
  unfold State.metaWrite
  split
  · exact h
  · split
    · exact h
    · extract_lets w q pm m seq e unit filler words s1
      have h1 : Kept p s1 := h.programWords.count
      clear_value e s1
      split
      · exact h.errAdd.retireBlock.advanceMeta
      · exact h1.advanceMeta.prepareMeta

theorem Kept.countFree {v0} (h : Kept p s) : Kept p (s.countFree v0) :=
  .ite (.setFlag (.ite (.of h.parts) h.setFld)) (.ite (.of h.parts) h.setFld)

theorem Kept.settleDurable (h : Kept p s) : Kept p s.settleDurable := by
  unfold State.settleDurable
  extract_lets d ready _ s1 s2 shut _ s3 s4 freed _ s5 s6
  have h1 : Kept p s1 := .of h.parts
  have h2 : Kept p s2 := h1.foldl fun _ _ ht => ht.answer
  have h3 : Kept p s3 := .of h2.parts
  have h4 : Kept p s4 := h3.foldl fun _ _ ht => ht.append
  have h5 : Kept p s5 := .of h4.parts
  have h6 : Kept p s6 := h5.foldl fun _ _ ht => ht.countFree
  exact h6.drainWaiting

theorem Kept.programJournal {ok} (h : Kept p s) : Kept p (s.programJournal ok) := by
  unfold State.programJournal
  extract_lets rs
  split
  next loc t e =>
    have ht : Kept p t := .of_snd h.metaWrite e
    split
    · exact ht
    · exact .showJournal (.settleDurable (.count (.of ht.parts)))

theorem Kept.cachePage {page} (h : Kept p s) : Kept p (s.cachePage page) :=
  .ite h (.of h.parts)

theorem Kept.touchMap {space lua} (h : Kept p s) : Kept p (s.touchMap space lua) :=
  .ite h.count h.count.cachePage

theorem Kept.writeBack {page ok} (h : Kept p s) : Kept p (s.writeBack page ok) := by
  unfold State.writeBack
  split
  split
  · extract_lets s1 _
    have h1 : Kept p s1 := .append (.count (.of_snd h.metaWrite ‹_›))
    exact .of h1.parts
  · exact .of_snd h.metaWrite ‹_›

theorem Kept.readUnit {space lua} (h : Kept p s) : Kept p (s.readUnit space lua).2 := by
  unfold State.readUnit
  extract_lets s1
  have h1 : Kept p s1 := h.touchMap
  split
  · split
    · exact h1.errAdd
    · split
      split
      · exact .ite_snd (.of_snd h1.readCodeword ‹_›) (.errAdd (.errAdd (.of_snd h1.readCodeword ‹_›)))
      · exact .errAdd (.of_snd h1.readCodeword ‹_›)
  · exact h1

theorem Kept.readRun {space lua n} (h : Kept p s) : Kept p (s.readRun space lua n).2 := by
  unfold State.readRun
  refine h.foldl_snd fun _ _ ht => ?_
  split
  exact .of_snd ht.readUnit ‹_›

theorem Kept.showCredits (h : Kept p s) : Kept p s.showCredits :=
  h.setFld

theorem Kept.admitUnits {k} (h : Kept p s) : Kept p (s.admitUnits k) := by
  induction k generalizing s with
  | zero => exact h
  | succ k ih =>
    unfold State.admitUnits
    split
    · exact h
    · exact .ite (ih (.of h.parts)) h

theorem Kept.pumpWrites (h : Kept p s) : Kept p s.pumpWrites :=
  h.admitUnits.showCredits.fill

theorem Kept.beginWrite {a space lua units fabric} (h : Kept p s) : Kept p (s.beginWrite a space lua units fabric) :=
  .pumpWrites (.of h.parts)

theorem Kept.recordFor {a rs} (h : Kept p s) : Kept p (s.recordFor a rs) :=
  .foldl (.of h.parts) fun _ _ ht => ht.append

theorem Kept.trimRuns {a space lua n runs} (h : Kept p s) : Kept p (s.trimRuns a space lua n runs) :=
  .ite (.answer (.of h.count.parts)) (.recordFor (.of h.count.parts))

theorem Kept.createSpace {a space typ units} (h : Kept p s) : Kept p (s.createSpace a space typ units) := by
  unfold State.createSpace
  exact .ite h.answer (.ite h.answer (.ite h.answer (.ite h.answer (.ite h.answer (.recordFor (.countSpaces (.of h.parts)))))))

theorem Kept.deleteSpace {a space} (h : Kept p s) : Kept p (s.deleteSpace a space) :=
  .ite h.answer (.ite h.answer (.ite h.answer h.recordFor))

theorem Kept.beginSync {a space} (h : Kept p s) : Kept p (s.beginSync a space) :=
  .ite h.answer (.of h.parts)

theorem Kept.beginGc {n x fg} (h : Kept p s) : Kept p (s.beginGc n x fg) :=
  .ite (.setFlag (.setFlag (.setFld (.of h.parts)))) (.setFlag (.setFld (.of h.parts)))

theorem Kept.awaitFree {n v0} (h : Kept p s) : Kept p (s.awaitFree n v0) :=
  .of h.parts

theorem Kept.freeVictim {g} (h : Kept p s) : Kept p (s.freeVictim g) :=
  h.append.awaitFree.setFlag

theorem Kept.eraseBlock {d b} (h : Kept p s) : Kept p (s.eraseBlock d b) :=
  .of h.parts

theorem Kept.rebuildMember {n x i d b} (h : Kept p s) : Kept p (s.rebuildMember n x i d b) := by
  unfold State.rebuildMember
  split
  · extract_lets cells s1 s2
    have h1 : Kept p s1 := h.foldl fun t a ht => by
      split
      next w u e =>
        have hu : Kept p u := .of_snd ht.rebuildCodeword e
        split
        · exact .of hu.parts
        · exact hu.errAdd
    exact h1.setSuperblock.count.append
  · exact h.setSuperblock

theorem Kept.takeCheckpoint (h : Kept p s) : Kept p s.takeCheckpoint := by
  unfold State.takeCheckpoint
  extract_lets j s1 f
  have h1 : Kept p s1 := h.foldl fun _ _ ht => ht.writeBack
  exact .showJournal (.of h1.parts)

theorem Kept.showTotals (h : Kept p s) : Kept p s.showTotals :=
  h.setFld.setFld

theorem Kept.startMeta (h : Kept p s) : Kept p s.startMeta := by
  unfold State.startMeta
  split
  next n t e =>
    have ht : Kept p t := .of_snd h.openSuperblock e
    exact .of ht.parts
  next t e => exact .of_snd h.openSuperblock e

theorem Kept.armFlushUp {k} (h : Kept p s) : Kept p (s.armFlushUp k) := by
  induction k generalizing s with
  | zero => exact h
  | succ k ih =>
    unfold State.armFlushUp
    extract_lets dies covered usable
    refine .ite h ?_
    split
    next n t e =>
      have ht : Kept p t := .of_snd h.openSuperblock e
      exact .ite (ih (.of ht.parts)) h
    next t e => exact .of_snd h.openSuperblock e

theorem Kept.armFlush (h : Kept p s) : Kept p s.armFlush :=
  .armFlushUp (.of h.parts)

theorem Kept.formatFlash (h : Kept p s) : Kept p s.formatFlash :=
  .takeCheckpoint (.setFld (.armFlush (.startMeta (.setFld (.setFld (.showTotals (.of h.parts)))))))

theorem Kept.replay {j k} (h : Kept p s) : Kept p (s.replay j k) := by
  induction k generalizing s j with
  | zero => exact h
  | succ k ih =>
    unfold State.replay
    split
    · exact .of h.parts
    · exact ih (h.foldl fun _ _ ht => ht.applyRecord)

theorem Kept.loadMapPage {page loc} (h : Kept p s) : Kept p (s.loadMapPage page loc) := by
  unfold State.loadMapPage
  split
  · exact h.foldl fun _ _ ht => .ite ht (.of ht.parts)
  · exact h

theorem Kept.scanWord {st victim l w} (h : Kept p s) : Kept p (s.scanWord st victim l w) := by
  unfold State.scanWord
  split
  · exact h
  · extract_lets now
    exact .ite (.ite h.setMap h) (.ite h.setMap h)

theorem Kept.reverseScan {victim} (h : Kept p s) : Kept p (s.reverseScan victim) :=
  .foldl (h.foldl fun _ _ ht => ht.scanWord) fun _ _ ht => ht.setSuperblock

theorem Kept.recover {a} (h : Kept p s) : Kept p (s.recover a) := by
  unfold State.recover
  extract_lets cursor _ s1 s2 s3 _ s4 victim s5 _ s6 s7 s8 s9 s10
  clear_value cursor
  have h1 : Kept p s1 := .of h.parts
  have h3 : Kept p s3 := (h1.foldl fun _ _ ht => ht.loadMapPage).replay
  have h4 : Kept p s4 := .of h3.parts
  have h5 : Kept p s5 := h4.reverseScan
  have h6 : Kept p s6 := by
    dsimp only [s6]
    split
    · exact .of h5.parts
    · exact h5
  have h9 : Kept p s9 := h6.setFld.setFld.showTotals.countSpaces.startMeta.armFlush.setFld.takeCheckpoint
  have h10 : Kept p s10 := by
    dsimp only [s10]
    split
    · exact h9.beginGc
    · exact h9
  exact h10.checkReadOnly

theorem Kept.spaceBytes {space off len} (h : Kept p s) : Kept p (s.spaceBytes space off len).2 :=
  .ite_snd h.readRun.freshFree h.readRun

theorem Kept.loadCatalog {v page} (h : Kept p s) : Kept p (s.loadCatalog v page) := by
  unfold State.loadCatalog
  extract_lets reads
  split
  next b t e =>
    have ht : Kept p t := .of_snd h.spaceBytes e
    exact .of ht.count.count.parts

theorem Kept.setFetchStream {ring st} (h : Kept p s) : Kept p (s.setFetchStream ring st) :=
  .of h.parts

theorem Kept.showFetch (h : Kept p s) : Kept p s.showFetch :=
  h.setFld.setFld

theorem Kept.closeStream {ring} (h : Kept p s) : Kept p (s.closeStream ring) :=
  .showFetch (.of h.parts)

theorem Kept.countEntry {i} (h : Kept p s) : Kept p (s.countEntry i) :=
  .ite h.errAdd (.ite h.errAdd h)

theorem Kept.stageItem {handle r v i x} (h : Kept p s) (e : s.stageItem handle r v i = some x) : Kept p x.2 := by
  unfold State.stageItem at e
  split at e
  · cases e
    exact h
  split at e
  · cases e
    exact h
  split at e
  · cases e
  · dsimp only at e
    cases e
    exact (Kept.spaceBytes (h.foldl fun _ _ ht => ht.suspendDie)).count.count.engineWrite

theorem Kept.putItem {ring i} (h : Kept p s) : Kept p (s.putItem ring i) := by
  unfold State.putItem
  split
  · exact h.setFetchStream.showFetch
  · exact h

theorem Kept.rebuiltBytes {space off len} (h : Kept p s) : Kept p (s.rebuiltBytes space off len).2 := by
  unfold State.rebuiltBytes
  refine h.foldl_snd fun _ _ ht => ?_
  split
  · split
    exact .of_snd ht.rebuildCodeword ‹_›
  · exact ht

theorem Kept.checkItem {v i peer} (h : Kept p s) : Kept p (s.checkItem v i peer).2 := by
  unfold State.checkItem
  extract_lets good s1
  have h1 : Kept p s1 := h.count
  refine .ite_snd h1 (.ite_snd ?_ (.ite_snd ?_ (.errAdd ?_)))
  · split
    · refine .engineWrite (h1.foldl_snd fun _ _ ht => ?_)
      split
      · split
        exact .of_snd ht.rebuildCodeword ‹_›
      · exact ht
    · refine h1.foldl_snd fun _ _ ht => ?_
      split
      · split
        exact .of_snd ht.rebuildCodeword ‹_›
      · exact ht
  · split
    · refine .engineWrite ?_
      split
      · refine .engineWrite (h1.foldl_snd fun _ _ ht => ?_)
        split
        · split
          exact .of_snd ht.rebuildCodeword ‹_›
        · exact ht
      · refine h1.foldl_snd fun _ _ ht => ?_
        split
        · split
          exact .of_snd ht.rebuildCodeword ‹_›
        · exact ht
    · split
      · refine .engineWrite (h1.foldl_snd fun _ _ ht => ?_)
        split
        · split
          exact .of_snd ht.rebuildCodeword ‹_›
        · exact ht
      · refine h1.foldl_snd fun _ _ ht => ?_
        split
        · split
          exact .of_snd ht.rebuildCodeword ‹_›
        · exact ht
  · split
    · refine .engineWrite ?_
      split
      · refine .engineWrite (h1.foldl_snd fun _ _ ht => ?_)
        split
        · split
          exact .of_snd ht.rebuildCodeword ‹_›
        · exact ht
      · refine h1.foldl_snd fun _ _ ht => ?_
        split
        · split
          exact .of_snd ht.rebuildCodeword ‹_›
        · exact ht
    · split
      · refine .engineWrite (h1.foldl_snd fun _ _ ht => ?_)
        split
        · split
          exact .of_snd ht.rebuildCodeword ‹_›
        · exact ht
      · refine h1.foldl_snd fun _ _ ht => ?_
        split
        · split
          exact .of_snd ht.rebuildCodeword ‹_›
        · exact ht

theorem Kept.endClosed {x} (h : Kept p s) : Kept p (s.endClosed x) := by
  unfold State.endClosed
  split
  next next t e =>
    have ht : Kept p t := by
      refine .of_snd (.ite_snd h ?_) e
      split
      · exact h
      · exact h.freshFree
    exact ht.engineWrite.finish

/-! ### Engines, hosts and queue pairs -/

theorem Kept.beginFill {x} (h : Kept p s) : Kept p (s.beginFill x) := by
  unfold State.beginFill
  extract_lets mark _ s1 fresh
  have hfresh {t} (ht : Kept p t) : Kept p (fresh t) := by
    have hu : Kept p (t.closeStream x.ring) := ht.closeStream
    dsimp only [fresh]
    generalize t.closeStream x.ring = u at hu ⊢
    split
    · exact .showFetch (.of hu.parts)
    · exact hu.finish
  have h1 : Kept p s1 := .of h.parts
  split
  · exact .ite h1.setFetchStream.showFetch (hfresh h1)
  · exact hfresh h1

theorem Kept.tryFill {x st} (h : Kept p s) : Kept p (s.tryFill x st) :=
  .ite h h.setFetchStream.engineWrite.showFetch.finish

theorem Kept.fetchRingCleared {ring} (h : Kept p s) : Kept p (s.fetchRingCleared ring) := by
  unfold State.fetchRingCleared
  extract_lets waiting s1
  have h1 : Kept p s1 := h.foldl fun _ _ ht => ht.endClosed
  split
  · exact h1.setFetchStream.showFetch
  · exact h1

theorem Kept.endMill {x i w outRun} (h : Kept p s) : Kept p (s.endMill x i w outRun) := by
  unfold State.endMill
  extract_lets d s1 s2 s3 s4
  have h1 : Kept p s1 := h.engineWrite
  have h2 : Kept p s2 := h1.count
  have h3 : Kept p s3 := .ite h2.errAdd.count (.ite h2.errAdd h2)
  have h4 : Kept p s4 := .ite h3.errAdd (.ite h3.errAdd h3)
  exact h4.finish

theorem Kept.millWhole {x i handle conceal l d probe lanes} (h : Kept p s) : Kept p (s.millWhole x i handle conceal l d probe lanes) :=
  .ite h.engineWrite.endMill h.endMill

theorem Kept.millDecode {x i handle conceal src lane} (h : Kept p s) : Kept p (s.millDecode x i handle conceal src lane) := by
  unfold State.millDecode
  extract_lets f reduce r image w outHeight base base d cfg damage status comps bytes status
  refine .ite h.endMill ?_
  split
  extract_lets lanes
  split
  next draw t e =>
    have ht : Kept p t := .of_snd h.freshFree e
    extract_lets s1 s2 s3
    have h1 : Kept p s1 := ht.count.count
    have h2 : Kept p s2 := .ite h1.count h1.count
    exact .ite h1.endMill h2.engineWrite.endMill

theorem Kept.millRun {x probe} (h : Kept p s) : Kept p (s.millRun x probe) := by
  unfold State.millRun
  extract_lets f reduce opts strict i s1 l conceal len image d status status
  have h1 : Kept p s1 := h.engineAccess
  split
  · exact h1.count.finish
  · split
    extract_lets lane src s2 h0 r w
    have h2 : Kept p s2 := .engineAccess (.of_snd h1.freshFree ‹_›)
    split
    · exact .millWhole (.of_snd h1.freshFree ‹_›)
    · refine .ite h2.count.finish ?_
      split
      · exact h2.millWhole
      · exact .ite h2.endMill h2.millDecode

theorem Kept.setOutcome {grist o} (h : Kept p s) : Kept p (s.setOutcome grist o) :=
  .of h.parts

theorem Kept.kilnRefuse {x code} (h : Kept p s) : Kept p (s.kilnRefuse x code) :=
  h.count.finish

theorem Kept.endKiln {x j item e} (h : Kept p s) : Kept p (s.endKiln x j item e) := by
  unfold State.endKiln
  extract_lets dst s1 s2 s3 s4 s5 s6 s7 s8
  have h1 : Kept p s1 := h.engineAccess
  have h2 : Kept p s2 := h1.engineWrite
  have h3 : Kept p s3 := .ite h2 h2.engineWrite
  have h4 : Kept p s4 := .ite h3.engineWrite h3
  have h5 : Kept p s5 := by
    dsimp only [s5]
    split
    · exact h4.setOutcome
    · exact h4
  have h6 : Kept p s6 := h5.count.count.count
  have h7 : Kept p s7 := .ite h6.count h6
  have h8 : Kept p s8 := .ite h7.errAdd (.ite h7.errAdd (.ite h7.errAdd (.ite h7.count h7)))
  exact h8.finish

theorem Kept.kilnExpand {x item format len dst} (h : Kept p s) : Kept p (s.kilnExpand x item format len dst) :=
  .ite h.kilnRefuse (.ite h.kilnRefuse h.endKiln)

theorem Kept.kilnDecompress {x} (h : Kept p s) : Kept p (s.kilnDecompress x) := by
  unfold State.kilnDecompress
  extract_lets format itemMode given
  refine .ite h.kilnRefuse (.ite ?_ h.kilnExpand)
  split
  · exact h.kilnRefuse
  · exact .ite h.count.finish (.ite h.kilnRefuse h.kilnExpand)

theorem Kept.laneOut {lane} (h : Kept p s) : Kept p (s.laneOut lane) :=
  h.setReg.queueTest

theorem Kept.kilnCompress {x mismatch} (h : Kept p s) : Kept p (s.kilnCompress x mismatch) := by
  unfold State.kilnCompress
  extract_lets format len dst j r
  refine .ite h.kilnRefuse (.ite h.kilnRefuse ?_)
  split
  · exact h.kilnRefuse
  · extract_lets bound
    refine .ite h.endKiln ?_
    split
    · extract_lets s1 s2
      have h1 : Kept p s1 := h.engineWrite
      have h2 : Kept p s2 := h1.errAdd.laneOut
      exact h2.kilnRefuse
    · exact .ite (.endKiln (.engineWrite (.of h.parts))) h.endKiln

theorem Kept.gfCombine {x} (h : Kept p s) : Kept p (s.gfCombine x) := by
  unfold State.gfCombine
  extract_lets nin nout len ins outs src coef
  refine .ite h.kilnRefuse (.ite h.ringError.kilnRefuse (.ite h.kilnRefuse (.ite h.ringError.kilnRefuse ?_)))
  split
  next draw t e =>
    have ht : Kept p t := .of_snd h.freshFree e
    extract_lets s1 s2 s3
    have h1 : Kept p s1 := ht.foldl fun _ _ hu => hu.engineAccess
    have h2 : Kept p s2 := h1.foldl fun _ _ hu => hu.engineWrite
    exact h2.count.count.count.finish

theorem Kept.showTiles (h : Kept p s) : Kept p s.showTiles :=
  .setReg (.foldl (h.foldl fun _ _ ht => ht.setReg) fun _ _ ht => ht.setReg)

theorem Kept.tileDrop {t} (h : Kept p s) : Kept p (s.tileDrop t) :=
  .showTiles (.of h.parts)

theorem Kept.tileOut {t} (h : Kept p s) : Kept p (s.tileOut t) :=
  h.tileDrop.queueTest

theorem Kept.endTransform {x status out} (h : Kept p s) : Kept p (s.endTransform x status out) :=
  .finish (.ite h.count.errAdd h.count)

theorem Kept.bareTransform {x w status} (h : Kept p s) : Kept p (s.bareTransform x w status) :=
  .endTransform (.engineWrite (.of h.parts))

theorem Kept.transformRun {x w key ops shapes} (h : Kept p s) : Kept p (s.transformRun x w key ops shapes) :=
  .endTransform (.engineWrite (.engineWrite (.count (.count (.count (.engineAccess (.engineAccess (.of h.parts))))))))

theorem Kept.transform {x tileError} (h : Kept p s) : Kept p (s.transform x tileError) := by
  unfold State.transform
  extract_lets w e pin pinned nops s1 ops s2 seed key
  have h1 : Kept p s1 := h.engineAccess
  have h2 : Kept p s2 := h1.engineAccess
  refine .ite h1.endTransform (.ite h1.endTransform (.ite h1.bareTransform (.ite h1.bareTransform ?_)))
  split
  · exact h2.bareTransform
  · extract_lets last
    exact .ite h2.bareTransform (.ite h2.bareTransform (.ite h2.errAdd.tileOut.endTransform h2.transformRun))

theorem Kept.runModel {m a n} (h : Kept p s) : Kept p (s.runModel m a n).2 :=
  .engineAccess (.count (.count (.count (.of h.parts))))

theorem Kept.score {x tileError} (h : Kept p s) : Kept p (s.score x tileError) := by
  unfold State.score
  extract_lets n
  split
  · exact h.finish
  · exact .ite h.finish (.ite h.errAdd.tileOut.finish (.finish (.engineWrite (.engineAccess (.count (.count (.count (.of h.parts))))))))

theorem Kept.modelLoad {x} (h : Kept p s) : Kept p (s.modelLoad x) := by
  unfold State.modelLoad
  extract_lets slot len b need free tiles busy m s1 _
  have h1 : Kept p s1 := h.engineAccess
  exact .ite h.finish (.ite h.finish (.ite h.finish (.ite h.finish (.ite h (.finish (.showTiles (.of h1.parts)))))))

theorem Kept.modelUnload {x} (h : Kept p s) : Kept p (s.modelUnload x) :=
  .ite h.finish (.ite h (.finish (.showTiles (.of h.parts))))

theorem Kept.judgeOne {x j sameSet text v q} (h : Kept p s) : Kept p (s.judgeOne x j sameSet text v q).2.2 := by
  unfold State.judgeOne
  split
  · exact h
  split
  · split
    · exact h
    · extract_lets hd s1
      have h1 : Kept p s1 := h.count
      split <;> exact h1
  split
  · split
    · exact h
    · split
      next e =>
        have ht := Kept.of_snd (.ite_snd h.runModel h.runModel) e
        exact .ite ht.errAdd ht
  · exact h

theorem Kept.judgeAll {x j sameSet text v i ps} (h : Kept p s) : Kept p (s.judgeAll x j sameSet text v i ps).2 := by
  induction ps generalizing s v i with
  | nil => exact h
  | cons q qs ih =>
    unfold State.judgeAll
    have hq : Kept p (s.judgeOne x j sameSet text v q).2.2 := h.judgeOne
    split
    next e => exact ih (by rw [e] at hq; exact hq)
    next e => rw [e] at hq; exact hq

theorem Kept.filterRun {x} (h : Kept p s) : Kept p (s.filterRun x) := by
  unfold State.filterRun
  extract_lets n recKind textKind text scoreIn bad j ps s1 out none_ len body s2 same
  have hbad {t code} (ht : Kept p t) : Kept p (bad t code) := .finish (.count (.ite ht.errAdd ht))
  have h1 : Kept p s1 := h.engineAccess.engineAccess
  refine .ite (hbad h) ?_
  split
  · exact hbad h1
  refine .ite h1.count.engineWrite.finish ?_
  split
  next v t e =>
    have ht : Kept p t := .of_snd h1.engineAccess.judgeAll e
    extract_lets s3
    split
    · exact ht.count.count.engineWrite.finish
    · exact ht.count.count.engineWrite.finish

theorem Kept.showSet {slot} (h : Kept p s) : Kept p (s.showSet slot) :=
  h.setReg

theorem Kept.loadSet {x} (h : Kept p s) : Kept p (s.loadSet x) := by
  unfold State.loadSet
  extract_lets slot len b hd n
  clear_value n hd b
  refine .ite h.finish (.ite h.finish ?_)
  split
  next draw t e =>
    have ht : Kept p t := .of_snd h.freshFree e
    extract_lets s1 s2 st
    have h2 : Kept p s2 := ht.engineAccess.engineWrite
    exact .finish (.showSet (.of h2.parts))

theorem Kept.signatureRun {x} (h : Kept p s) : Kept p (s.signatureRun x) := by
  unfold State.signatureRun
  split
  · exact h.finish
  · extract_lets h0 kind b s1 out
    have h1 : Kept p s1 := h.engineAccess.count
    exact .ite h.errAdd.finish h1.engineWrite.finish

theorem Kept.unloadSet {x} (h : Kept p s) : Kept p (s.unloadSet x) :=
  .ite h.finish (.ite h (.finish (.showSet (.of h.parts))))

theorem Kept.showStore (h : Kept p s) : Kept p s.showStore :=
  h.setFld

theorem Kept.storeWait {x} (h : Kept p s) : Kept p (s.storeWait x) :=
  .ite h (.of h.parts)

theorem Kept.storeServed {x} (h : Kept p s) : Kept p (s.storeServed x) :=
  .of h.parts

theorem Kept.setPackStream {serial q} (h : Kept p s) : Kept p (s.setPackStream serial q) :=
  .showStore (.of h.parts)

theorem Kept.enterSegment {st pos g} (h : Kept p s) : Kept p (s.enterSegment st pos g) :=
  .ite h h.setPackStream

theorem Kept.releaseStore {handle} (h : Kept p s) : Kept p (s.releaseStore handle) :=
  .showStore (.of h.parts)

theorem Kept.showVocab {slot} (h : Kept p s) : Kept p (s.showVocab slot) :=
  h.setReg

theorem Kept.vocabLoad {x} (h : Kept p s) : Kept p (s.vocabLoad x) := by
  unfold State.vocabLoad
  extract_lets slot b
  clear_value b slot
  refine .ite h.finish ?_
  split
  · exact h.finish
  extract_lets need
  clear_value need
  refine .ite h.finish ?_
  split
  next draw t e =>
    have ht : Kept p t := .of_snd h.freshFree e
    extract_lets s1 s2
    have h2 : Kept p s2 := ht.engineAccess.engineWrite
    exact .finish (.showVocab (.of h2.parts))

theorem Kept.vocabUnload {x} (h : Kept p s) : Kept p (s.vocabUnload x) :=
  .ite h.finish (.ite h (.finish (.showVocab (.of h.parts))))

theorem Kept.endTokenize {x o out} (h : Kept p s) : Kept p (s.endTokenize x o out) := by
  unfold State.endTokenize
  split
  next misses t e =>
    have ht : Kept p t := .of_snd h.freshFree e
    extract_lets s1 s2 s3 s4 s5
    have h2 : Kept p s2 := ht.count.count.count.count.count.count
    have h3 : Kept p s3 := .ite h2.errAdd h2
    have h4 : Kept p s4 := .ite h3.errAdd h3
    have h5 : Kept p s5 := .ite h4.errAdd h4
    exact h5.finish

theorem Kept.tokenRefuse {x code} (h : Kept p s) : Kept p (s.tokenRefuse x code) :=
  h.count.finish

theorem Kept.tokenizeItem {x v handle i enc first last} (h : Kept p s) : Kept p (s.tokenizeItem x v handle i enc first last) := by
  unfold State.tokenizeItem
  extract_lets l conceal addr skip subst pos lane aux
  split
  extract_lets refused input o need s1 s2 ext
  have h1 : Kept p s1 := h.storeServed.engineAccess
  have h2 : Kept p s2 := .ite h1.errAdd h1
  split
  · exact h.tokenRefuse
  · refine .ite h.tokenRefuse ?_
    extract_lets lowest
    split
    · exact h.storeWait
    · extract_lets g s3 s4
      have h3 : Kept p s3 := h2.enterSegment.engineWrite
      have h4 : Kept p s4 := .ite h3 h3.engineWrite
      exact h4.endTokenize

theorem Kept.tokenizeText {x v first last} (h : Kept p s) : Kept p (s.tokenizeText x v first last) :=
  .endTokenize (.engineWrite (.engineWrite (.ite h.errAdd h.engineAccess)))

theorem Kept.tokenizeBounded {x v first last f} (h : Kept p s) : Kept p (s.tokenizeBounded x v first last f) :=
  .ite h.tokenRefuse h.tokenizeText

theorem Kept.tokenizePiece {x v first last} (h : Kept p s) : Kept p (s.tokenizePiece x v first last) := by
  unfold State.tokenizePiece
  extract_lets l len enc begins ends ctx f bound out s1 o s2
  have h1 : Kept p s1 := h.engineAccess
  have h2 : Kept p s2 := h1.errAdd
  split
  · exact h.tokenRefuse
  · exact .ite h.tokenRefuse (.ite h2.engineWrite.endTokenize (.endTokenize (.engineWrite (.engineWrite (.ite h1 (.engineWrite (.of h1.parts)))))))

theorem Kept.tokenize {x} (h : Kept p s) : Kept p (s.tokenize x) := by
  unfold State.tokenize
  extract_lets item ctx streamed live noItem
  split
  · exact h.tokenRefuse
  · refine .ite h.tokenRefuse (.ite h.tokenRefuse ?_)
    split
    · extract_lets f
      refine .ite h.tokenRefuse (.ite h.tokenizePiece ?_)
      split
      · exact .ite h.tokenizeItem h.tokenizeBounded
      · exact h.tokenizeBounded
    · exact h.tokenRefuse

theorem Kept.replayWrite {manifest ms generation startPos gtcFirst} (h : Kept p s) :
    Kept p (s.replayWrite manifest ms generation startPos gtcFirst) :=
  .ite h (.ite (.of h.parts) (.setFld (.engineWrite (.of h.parts))))

theorem Kept.closePart {x handle ms pieces base size startPos gtcFirst copy} (h : Kept p s) :
    Kept p (s.closePart x handle ms pieces base size startPos gtcFirst copy) := by
  unfold State.closePart
  extract_lets manifest p0 payload _ s1 s2 s3 s4
  have h1 : Kept p s1 := .showStore (.of h.parts)
  have h2 : Kept p s2 := h1.engineWrite
  have h3 : Kept p s3 := .ite h2 h2.engineWrite
  have h4 : Kept p s4 := h3.count.count
  exact h4.replayWrite

theorem Kept.caskRefuse {x code} (h : Kept p s) : Kept p (s.caskRefuse x code) :=
  .finish (.ite h.errAdd h)

theorem Kept.packSlots {x} (h : Kept p s) : Kept p (s.packSlots x) := by
  unfold State.packSlots
  extract_lets es count f slots n inner policy bytes need order epoch
  refine .ite h.caskRefuse (.ite h.caskRefuse (.ite h.caskRefuse (.ite h.caskRefuse (.ite h (.ite h.caskRefuse (.ite h (.ite h.caskRefuse ?_)))))))
  split
  · exact h.storeWait
  · exact .finish (.count (.errAdd (.closePart (.storeServed (.of h.parts)))))

theorem Kept.closeRows {x st ps rows dropped width e base need} (h : Kept p s) : Kept p (s.closeRows x st ps rows dropped width e base need) :=
  h.closePart.count.count

theorem Kept.packRows {x} (h : Kept p s) : Kept p (s.packRows x) := by
  unfold State.packRows
  extract_lets width flags e stride policy
  refine .ite h.caskRefuse (.ite h.caskRefuse (.ite h.caskRefuse ?_))
  split
  · exact h.caskRefuse
  · extract_lets ps start
    refine .ite h.caskRefuse (.ite h.caskRefuse (.ite h.caskRefuse (.ite h.setPackStream.storeServed.errAdd.finish ?_)))
    split
    · exact h.storeWait
    · extract_lets s1 s2
      have h1 : Kept p s1 := h.setPackStream.storeServed.errAdd
      have h2 : Kept p s2 := h1.closeRows
      exact h2.finish

theorem Kept.mergeRun {x} (h : Kept p s) : Kept p (s.mergeRun x) :=
  .ite h.caskRefuse (.ite h.caskRefuse h.engineAccess.engineWrite.count.finish)

theorem Kept.dropPart {q} (h : Kept p s) : Kept p (s.dropPart q) :=
  .showStore (.of h.parts)

theorem Kept.discardRun {x} (h : Kept p s) : Kept p (s.discardRun x) := by
  unfold State.discardRun
  split
  · exact h.dropPart.finish
  · exact h.caskRefuse

theorem Kept.setSubport {n q} (h : Kept p s) : Kept p (s.setSubport n q) :=
  .of h.parts

theorem Kept.showSubport {n} (h : Kept p s) : Kept p (s.showSubport n) :=
  h.setReg.setReg

theorem Kept.setQueue {k q} (h : Kept p s) : Kept p (s.setQueue k q) :=
  .of h.parts

theorem Kept.setNode {k n} (h : Kept p s) : Kept p (s.setNode k n) :=
  .of h.parts

theorem Kept.weirAdd {sub subscriber q} (h : Kept p s) : Kept p (s.weirAdd sub subscriber q) :=
  .ite h (.ite h.setNode.setQueue.count h.setNode.setQueue)

theorem Kept.weirDrop {qcn all} (h : Kept p s) : Kept p (s.weirDrop qcn all) :=
  h.foldl fun _ _ ht => ht.setQueue

theorem Kept.setQp {qcn q} (h : Kept p s) : Kept p (s.setQp qcn q) :=
  .of h.parts

theorem Kept.startTimer {qcn} (h : Kept p s) : Kept p (s.startTimer qcn) := by
  unfold State.startTimer
  split
  · exact .ite h.setQp h
  · exact h

theorem Kept.packetLeft {q} (h : Kept p s) : Kept p (s.packetLeft q) := by
  unfold State.packetLeft
  extract_lets s1 s2 mine s3 _
  have h1 : Kept p s1 := h.count
  have h2 : Kept p s2 := by
    dsimp only [s2]
    split
    · exact h1.setQp.startTimer
    · exact h1
  have h3 : Kept p s3 := .ite h2.count h2
  exact .ite (.of h3.parts) h2

theorem Kept.sendFrom {sub service qk} (h : Kept p s) : Kept p (s.sendFrom sub service qk) := by
  unfold State.sendFrom
  extract_lets nk q node port s1
  have h1 : Kept p s1 := h.setSubport
  split
  · exact h
  · extract_lets len qr nr s2 s3 _ s4 s5
    have h2 : Kept p s2 := h1.setQueue
    have h3 : Kept p s3 := h2.setNode
    have h4 : Kept p s4 := .of h3.parts
    have h5 : Kept p s5 := h4.count.count.count
    exact h5.packetLeft

theorem Kept.notePause {sub} (h : Kept p s) : Kept p (s.notePause sub) := by
  unfold State.notePause
  extract_lets p0
  split
  · exact .ite h.setSubport.errAdd h
  · exact h

theorem Kept.endPause {sub} (h : Kept p s) : Kept p (s.endPause sub) :=
  .ite h.notePause (.showSubport (h.notePause.setSubport.foldl fun _ _ ht => .ite ht ht.setNode))

theorem Kept.sendPause {sub quanta} (h : Kept p s) : Kept p (s.sendPause sub quanta) :=
  .setReg (.count (.of h.parts))

theorem Kept.rxLevel {sub kib} (h : Kept p s) : Kept p (s.rxLevel sub kib) :=
  .ite h.setSubport.sendPause h.setSubport

theorem Kept.cutRate {sub qk} (h : Kept p s) : Kept p (s.cutRate sub qk) :=
  .ite h h.setQueue.count

theorem Kept.cnpIn {qcn q} (h : Kept p s) : Kept p (s.cnpIn qcn q) :=
  h.count.cutRate

theorem Kept.setSelected {x} (h : Kept p s) : Kept p (s.setSelected x) :=
  .ite h.setNode h.setQueue

theorem Kept.latchQueue {value} (h : Kept p s) : Kept p (s.latchQueue value) :=
  h.setReg.setReg.setReg

theorem Kept.readDepth (h : Kept p s) : Kept p s.readDepth.2 :=
  h.setSelected.setReg

theorem Kept.readDelay (h : Kept p s) : Kept p s.readDelay.2 :=
  h.setSelected.setReg

theorem Kept.linkLost {sub} (h : Kept p s) : Kept p (s.linkLost sub) := by
  unfold State.linkLost
  extract_lets s1 p0 s2 s3 off
  have h1 : Kept p s1 := h.foldl fun _ _ ht => .ite ht.setQueue ht
  have h2 : Kept p s2 := h1.setSubport.showSubport
  have h3 : Kept p s3 := h2.foldl fun _ _ ht => .ite ht.startTimer ht
  exact h3.setReg

theorem Kept.linkUpNow {sub} (h : Kept p s) : Kept p (s.linkUpNow sub) :=
  .showSubport (.setSubport (.of h.parts))

theorem Kept.writePortCfg {port value} (h : Kept p s) : Kept p (s.writePortCfg port value) := by
  unfold State.writePortCfg
  extract_lets off was s1 subs _ s2 _
  have h1 : Kept p s1 := h.setReg
  have h2 : Kept p s2 := h1.foldl fun _ _ ht => .ite ht.linkLost ht
  exact .ite (.of h1.parts) (.ite (.of h2.parts) h1)

theorem Kept.ringOff {cls ring} (h : Kept p s) : Kept p (s.ringOff cls ring) :=
  .ite (.closeStream (.ite (.of h.parts) h.setRing)) (.ite (.of h.parts) h.setRing)

theorem Kept.clearEn {cls ring} (h : Kept p s) : Kept p (s.clearEn cls ring) :=
  .ite (.ringOff (.ite h.setRing.fetchRingCleared h.setRing)) (.ite h.setRing.fetchRingCleared h.setRing)

theorem Kept.tryEnable {cls ring r} (h : Kept p s) : Kept p (s.tryEnable cls ring r) :=
  .ite h.setRing (.of h.parts)

theorem Kept.writeRingCfg {w} (h : Kept p s) : Kept p (s.writeRingCfg w) :=
  .ite (.ite h h.clearEn) (.ite (.ite h.setRing h) (.ite h.tryEnable h.setRing))

theorem Kept.writeRingBase {hi w} (h : Kept p s) : Kept p (s.writeRingBase hi w) :=
  .ite h (.ite h.setRing h.setRing)

theorem Kept.writeRingWin {m hi w} (h : Kept p s) : Kept p (s.writeRingWin m hi w) :=
  .ite h.setRing h

theorem Kept.writeRingErr {w} (h : Kept p s) : Kept p (s.writeRingErr w) :=
  h.setRing

theorem Kept.popTicket {c} (h : Kept p s) : Kept p (s.popTicket c).2 := by
  unfold State.popTicket
  extract_lets k
  split
  · exact h
  · exact h.setCore

theorem Kept.writeTkiStat {c w} (h : Kept p s) : Kept p (s.writeTkiStat c w) :=
  h.setCore

theorem Kept.mark {w value} (h : Kept p s) : Kept p (s.mark w value) :=
  h.emit

theorem Kept.arm (h : Kept p s) : Kept p s.arm := by
  unfold State.arm
  extract_lets s1 gap _ s2
  clear_value gap
  have h1 : Kept p s1 := h.setFlag.setFlag.setFlag
  have h2 : Kept p s2 := .of h1.parts
  clear_value s2
  split
  · exact h2.errAdd.traceWrite
  · exact h2

theorem Kept.portSend {r} (h : Kept p s) : Kept p (s.portSend r) :=
  .count (.of h.parts)

theorem Kept.writeDbgCtl {value} (h : Kept p s) : Kept p (s.writeDbgCtl value) :=
  .ite (.of h.parts) h.setReg

theorem Kept.bindNvme {fn qid r} (h : Kept p s) (e : s.bindNvme fn qid = some r) : Kept p r.2 := by
  obtain ⟨q, -, rfl⟩ := Option.map_eq_some_iff.mp e
  exact .of h.parts

theorem Kept.freeQueue {qcn} (h : Kept p s) : Kept p (s.freeQueue qcn) :=
  .of h.parts

theorem Kept.dropController {fn} (h : Kept p s) : Kept p (s.dropController fn) := by
  unfold State.dropController
  extract_lets mine s1 _
  have h1 : Kept p s1 := h.foldl fun _ _ ht => ht.freeQueue
  exact .of h1.parts

theorem Kept.raiseEvent {fn e} (h : Kept p s) : Kept p (s.raiseEvent fn e) := by
  unfold State.raiseEvent
  split
  · exact h
  · split
    · exact h.setController.nvmeComplete
    · exact .ite h h.setController

theorem Kept.spendTurn {fn} (h : Kept p s) : Kept p (s.spendTurn fn) :=
  .of h.parts

theorem Kept.fetchSq {c q arb} (h : Kept p s) : Kept p (s.fetchSq c q arb) :=
  h.setController.setSq

theorem Kept.rejectNvme {fn k} (h : Kept p s) : Kept p (s.rejectNvme fn k) := by
  induction k generalizing s with
  | zero => exact h
  | succ k ih =>
    unfold State.rejectNvme
    split
    · exact h
    split
    · exact h
    · exact .ite h (ih h.fetchSq.nvmeComplete)

theorem Kept.takeNvme {fn admin opcode r} (h : Kept p s) (e : s.takeNvme fn admin opcode = some r) : Kept p r.2.2 := by
  unfold State.takeNvme at e
  split at e
  · cases e
  split at e
  · cases e
  dsimp only at e
  split at e
  · cases e
  · cases e
    exact .rejectNvme (.ite h.fetchSq h.fetchSq.spendTurn)

theorem Kept.adminCommand {fn opcode} {run : State → List Byte → State} (h : Kept p s)
    (hr : ∀ t e, Kept p t → Kept p (run t e)) : Kept p (s.adminCommand fn opcode run) := by
  unfold State.adminCommand
  split
  next e =>
    have ht := h.takeNvme e
    exact .ite ht.nvmeComplete (hr _ _ ht)
  · exact h

theorem Kept.prpWrite {fn e bs} (h : Kept p s) : Kept p (s.prpWrite fn e bs) :=
  h.foldl_fst fun _ _ ht => ht.hostWrite

theorem Kept.openPage {n fields} (h : Kept p s) : Kept p (s.openPage n fields).2 :=
  .of h.parts

theorem Kept.ioCommand {fn opcode} {run : State → Nat → List Byte → State} (h : Kept p s)
    (hr : ∀ t q e, Kept p t → Kept p (run t q e)) : Kept p (s.ioCommand fn opcode run) := by
  unfold State.ioCommand
  refine .ite h ?_
  split
  next e =>
    have ht := h.takeNvme e
    exact .ite ht.nvmeComplete (hr _ _ _ ht)
  · exact h

theorem Kept.startLost {qcn} (h : Kept p s) : Kept p (s.startLost qcn) := by
  unfold State.startLost
  split
  · exact .ite h h.startTimer
  · exact h

theorem Kept.pumpQp {qcn k} (h : Kept p s) : Kept p (s.pumpQp qcn k) := by
  induction k generalizing s with
  | zero => exact h.startLost
  | succ k ih =>
    unfold State.pumpQp
    split
    · exact h
    split
    · exact h.startLost
    · exact .ite h.startLost (ih h.setQp.weirAdd)

theorem Kept.post {qcn ps} (h : Kept p s) : Kept p (s.post qcn ps) := by
  unfold State.post
  split
  · exact h
  · exact h.setQp.pumpQp

theorem Kept.urgent {qcn q psn body} (h : Kept p s) : Kept p (s.urgent qcn q psn body) :=
  .ite h.setSubport h

theorem Kept.deliveryRecord {x slot flags gen bytes resends} (h : Kept p s) : Kept p (s.deliveryRecord x slot flags gen bytes resends) :=
  .ite h h.engineWrite

theorem Kept.deliverRefuse {x status} (h : Kept p s) : Kept p (s.deliverRefuse x status) :=
  h.deliveryRecord.finish

theorem Kept.endDelivery {d status} (h : Kept p s) : Kept p (s.endDelivery d status) := by
  unfold State.endDelivery
  extract_lets _ s1 _ s2 flags
  have h1 : Kept p s1 := .of h.parts
  have h2 : Kept p s2 := .ite h1.dropPart (.of h1.parts)
  split
  · exact h2.deliveryRecord.finish
  · exact h2

theorem Kept.setRegion {r e} (h : Kept p s) : Kept p (s.setRegion r e) :=
  .setFld (.of h.parts)

theorem Kept.registerNow {x detail} (h : Kept p s) : Kept p (s.registerNow x detail) :=
  .ite h h.setRegion.engineWrite.finish

theorem Kept.endRevoke {r n} (h : Kept p s) : Kept p (s.endRevoke r n) := by
  unfold State.endRevoke
  extract_lets e s1
  have h1 : Kept p s1 := h.setRegion
  split
  · exact h
  · split
    · exact .ite h1.finish h1.registerNow
    · exact h1

theorem Kept.settleRevokes (h : Kept p s) : Kept p s.settleRevokes :=
  h.foldl fun _ _ ht => .ite ht.endRevoke ht

theorem Kept.beginRevoke {r x} (h : Kept p s) : Kept p (s.beginRevoke r x) :=
  h.setRegion.settleRevokes

theorem Kept.endQpWork {qcn q cause owner others} (h : Kept p s) : Kept p (s.endQpWork qcn q cause owner others) := by
  unfold State.endQpWork
  extract_lets code mine s1 shares
  have h1 : Kept p s1 := h.foldl fun _ _ ht => ht.endDelivery
  refine h1.foldl fun _ _ ht => ?_
  split
  · exact .of ht.parts
  · exact ht

theorem Kept.qpError {qcn cause owner others command} (h : Kept p s) : Kept p (s.qpError qcn cause owner others command) := by
  unfold State.qpError
  split
  · exact h
  · exact .ite h (.settleRevokes (.endQpWork (.ite h.setQp.weirDrop.setSubport h.setQp.weirDrop.setSubport.errAdd)))

theorem Kept.cmdReject (h : Kept p s) : Kept p s.cmdReject :=
  h.setFlag

theorem Kept.cmdInit {setup} (h : Kept p s) : Kept p (s.cmdInit setup) := by
  unfold State.cmdInit
  extract_lets n
  split
  · exact .ite h.setQp h.cmdReject
  · exact .ite h.setQp h.cmdReject
  · exact h.cmdReject
  · exact .ite h.cmdReject (.setQp (.of h.parts))

theorem Kept.cmdMove {src dst} (h : Kept p s) : Kept p (s.cmdMove src dst) := by
  unfold State.cmdMove
  split
  · exact .ite h.setQp h.cmdReject
  · exact h.cmdReject

theorem Kept.cmdErr (h : Kept p s) : Kept p s.cmdErr := by
  unfold State.cmdErr
  split
  · exact .ite h.qpError h.cmdReject
  · exact h.cmdReject

theorem Kept.unbindQp {qcn} (h : Kept p s) : Kept p (s.unbindQp qcn) :=
  .of h.parts

theorem Kept.cmdReset {unbind} (h : Kept p s) : Kept p (s.cmdReset unbind) := by
  unfold State.cmdReset
  extract_lets n
  split
  · exact .ite (.ite h.unbindQp h.setQp) h.cmdReject
  · exact h.cmdReject

theorem Kept.qpCommand {cmd} (h : Kept p s) : Kept p (s.qpCommand cmd) := by
  unfold State.qpCommand
  split
  · exact h.cmdInit
  · exact h.cmdMove
  · exact h.cmdMove
  · exact h.cmdErr
  · exact h.cmdReset
  · exact h

theorem Kept.goBack {qcn} (h : Kept p s) : Kept p (s.goBack qcn) := by
  unfold State.goBack
  split
  · exact h
  · extract_lets left q' s1 s2 _ s3
    have h1 : Kept p s1 := h.weirDrop.setQp
    have h2 : Kept p s2 := h1.count
    have h3 : Kept p s3 := .of h2.parts
    exact h3.foldl fun _ _ ht => ht.weirAdd

theorem Kept.ackedPacket {q} (h : Kept p s) : Kept p (s.ackedPacket q) := by
  unfold State.ackedPacket
  extract_lets n mine onMine
  split
  · exact .count (.of h.parts)
  · exact .count (.of h.parts)
  · exact h

theorem Kept.ackUpTo {qcn psn} (h : Kept p s) : Kept p (s.ackUpTo qcn psn) := by
  unfold State.ackUpTo
  split
  · exact h
  · extract_lets done rest q' s1
    have h1 : Kept p s1 := h.setQp
    exact .ite h (.pumpQp (h1.foldl fun _ _ ht => ht.ackedPacket))

theorem Kept.settleShare {qcn o} (h : Kept p s) : Kept p (s.settleShare qcn o) := by
  unfold State.settleShare
  split
  · refine .ite h ?_
    split
    · exact h.finish
    · exact h
  · exact h

theorem Kept.responseIn {qcn psn data} (h : Kept p s) : Kept p (s.responseIn qcn psn data) := by
  unfold State.responseIn
  extract_lets s1
  have h1 : Kept p s1 := h.ackUpTo
  split
  · exact h1
  · split
    · exact h1
    · split
      · exact .ite h1 h1.engineWrite.count.setQp.pumpQp.settleShare
      · exact h1

theorem Kept.nakIn {qcn psn code} (h : Kept p s) : Kept p (s.nakIn qcn psn code) := by
  unfold State.nakIn
  extract_lets s1 owner
  have h1 : Kept p s1 := h.ackUpTo
  split
  · exact h1.goBack
  · exact h1
  · exact h1.qpError

theorem Kept.setDelivery {d} (h : Kept p s) : Kept p (s.setDelivery d) :=
  .of h.parts

theorem Kept.writePart {d m} (h : Kept p s) : Kept p (s.writePart d m) := by
  unfold State.writePart
  split
  · exact h
  · extract_lets owner stride pieces closing
    exact h.post

theorem Kept.grantIn {qcn m} (h : Kept p s) : Kept p (s.grantIn qcn m) := by
  unfold State.grantIn
  split
  · extract_lets d s1 d
    have h1 : Kept p s1 := h.post
    exact .ite h1.endDelivery h.setDelivery.writePart
  · split
    · exact .ite h (.post (.of h.parts))
    · exact h

theorem Kept.declineIn {m} (h : Kept p s) : Kept p (s.declineIn m) := by
  unfold State.declineIn
  split
  · exact h.endDelivery
  · exact h

/-! ### Deliveries, polders, faults and resets -/

theorem Kept.grantMessage {qcn b} (h : Kept p s) : Kept p (s.grantMessage qcn b) :=
  .ite h.grantIn (.ite h.declineIn (.ite h h.errAdd))

theorem Kept.grantCommand {qcn typ b} (h : Kept p s) : Kept p (s.grantCommand qcn typ b) := by
  unfold State.grantCommand
  split
  · exact .ite h h.grantMessage
  · exact h

theorem Kept.deliverRun {x} (h : Kept p s) : Kept p (s.deliverRun x) := by
  unfold State.deliverRun
  extract_lets dataQ ctrlQ _
  refine .ite h.deliverRefuse (.ite h.deliverRefuse ?_)
  split
  · exact h.deliverRefuse
  · extract_lets p' s1 d _ s2 m service
    have h1 : Kept p s1 := .of h.parts
    have h2 : Kept p s2 := .of h1.parts
    exact h2.post

theorem Kept.fenceDeliveries (h : Kept p s) : Kept p s.fenceDeliveries :=
  h.foldl fun _ _ ht => .ite ht.qpError ht

theorem Kept.unloadDeliveries {handle} (h : Kept p s) : Kept p (s.unloadDeliveries handle) := by
  unfold State.unloadDeliveries
  refine h.foldl fun t x ht => ?_
  split
  · split
    · exact ht
    · exact ht.endDelivery
  · exact ht.deliverRefuse

theorem Kept.unbindRecipeQps {handle} (h : Kept p s) : Kept p (s.unbindRecipeQps handle) :=
  h.foldl fun _ _ ht => .ite ht.qpError.unbindQp ht

theorem Kept.reconRun {x} (h : Kept p s) : Kept p (s.reconRun x) := by
  unfold State.reconRun
  extract_lets qcn len owner
  split
  · exact h.finish
  · exact .ite h.finish (.ite h.finish (.ite h h.post))

theorem Kept.nakError {qcn q code} (h : Kept p s) : Kept p (s.nakError qcn q code) :=
  h.urgent.qpError

theorem Kept.keyFails {qcn q} (h : Kept p s) : Kept p (s.keyFails qcn q) :=
  h.errAdd.nakError

theorem Kept.executed {qcn q n ack} (h : Kept p s) : Kept p (s.executed qcn q n ack) :=
  .ite h.setQp.urgent h.setQp

theorem Kept.readRespond {qcn q psn addr key len again} (h : Kept p s) : Kept p (s.readRespond qcn q psn addr key len again) := by
  unfold State.readRespond
  extract_lets r e n q'
  refine .ite (.urgent ?_) (.foldl (.setQp ?_) fun _ _ ht => ht.weirAdd)
  · split
    · split
      exact .of_snd h.spaceBytes ‹_›
    · exact h.engineAccess
  · split
    · split
      exact .of_snd h.spaceBytes ‹_›
    · exact h.engineAccess

theorem Kept.toFirmware {qcn first data} (h : Kept p s) : Kept p (s.toFirmware qcn first data) :=
  .of h.parts

theorem Kept.sendIn {qcn q first data} (h : Kept p s) : Kept p (s.sendIn qcn q first data) := by
  unfold State.sendIn
  exact .ite h.executed.grantMessage (.ite h.executed.errAdd (.ite h.urgent (.toFirmware (.executed (.ite (.of h.parts) h)))))

theorem Kept.writeIn {qcn q first last addr key len imm data} (h : Kept p s) : Kept p (s.writeIn qcn q first last addr key len imm data) := by
  unfold State.writeIn
  refine .ite h.nakError (.ite h.keyFails (.settleRevokes ?_))
  split
  · exact .ite h.engineWrite.executed.toFirmware h.engineWrite.executed
  · exact h.engineWrite.executed

theorem Kept.readIn {qcn q addr key len} (h : Kept p s) : Kept p (s.readIn qcn q addr key len) :=
  .ite h.nakError (.ite h.keyFails h.readRespond)

theorem Kept.duplicateIn {qcn psn q body} (h : Kept p s) : Kept p (s.duplicateIn qcn psn q body) := by
  unfold State.duplicateIn
  extract_lets ack
  have hack {t} (ht : Kept p t) : Kept p (ack t) := ht.urgent
  split
  · split
    · exact h.urgent
    · exact h.readRespond
  · extract_lets origin
    clear_value origin
    split
    · exact hack h
    · extract_lets s1 s2
      have h2 : Kept p s2 := .ite h.setQp.errAdd h.setQp.engineWrite
      exact .ite h.nakError (hack h2).settleRevokes
  · exact hack h

theorem Kept.requestIn {qcn psn q body} (h : Kept p s) : Kept p (s.requestIn qcn psn q body) := by
  unfold State.requestIn
  extract_lets d
  refine .ite (.ite h.nakError ?_) (.ite (.ite h h.setQp.urgent) h.duplicateIn)
  split
  · exact h.sendIn
  · exact h.writeIn
  · exact h.readIn
  · exact h.nakError

theorem Kept.answerCe {qcn q} (h : Kept p s) : Kept p (s.answerCe qcn q) :=
  .ite h h.setQp.urgent

theorem Kept.packetIn {qcn q} (h : Kept p s) : Kept p (s.packetIn qcn q) := by
  unfold State.packetIn
  split
  · exact h.errAdd
  · refine .ite h.errAdd (.ite h ?_)
    extract_lets s1 q
    have h1 : Kept p s1 := .ite h.answerCe h
    split
    · exact h1.ackUpTo
    · exact h1.nakIn
    · exact h1.responseIn
    · exact h1.cnpIn
    · exact h1.requestIn

theorem Kept.endGrant {g bytes status} (h : Kept p s) : Kept p (s.endGrant g bytes status) :=
  h.completeCommand

theorem Kept.setGrants {sub gs} (h : Kept p s) : Kept p (s.setGrants sub gs) :=
  .of h.parts

theorem Kept.withdraw {sub pick} (h : Kept p s) : Kept p (s.withdraw sub pick).1 :=
  h.setGrants.foldl fun _ _ ht => ht.endGrant

theorem Kept.putHostDelivery {d} (h : Kept p s) : Kept p (s.putHostDelivery d) :=
  .of h.parts

theorem Kept.endHostDelivery {d status flags} (h : Kept p s) : Kept p (s.endHostDelivery d status flags) := by
  unfold State.endHostDelivery
  extract_lets _ s1 _ s2 gen
  have h1 : Kept p s1 := .of h.parts
  have h2 : Kept p s2 := .ite h1.dropPart (.of h1.parts)
  split
  · exact h2
  · extract_lets a s3
    have h3 : Kept p s3 := .ite h2 h2.engineWrite
    exact h3.finish

theorem Kept.hostDeliverRefuse {x status} (h : Kept p s) : Kept p (s.hostDeliverRefuse x status) :=
  .finish (.ite h h.engineWrite)

theorem Kept.hostDeliverStart {x} (h : Kept p s) : Kept p (s.hostDeliverStart x) := by
  unfold State.hostDeliverStart
  refine .ite h.hostDeliverRefuse ?_
  split
  · exact h.hostDeliverRefuse
  · extract_lets p' _ s1
    have h1 : Kept p s1 := .of h.parts
    exact h1.putHostDelivery

theorem Kept.hostDeliverPayload {x d fails} (h : Kept p s) : Kept p (s.hostDeliverPayload x d fails) := by
  unfold State.hostDeliverPayload
  extract_lets sub deadline
  split
  · exact .ite h.endHostDelivery h
  · extract_lets s1 d n s2 s3
    have h1 : Kept p s1 := h.setGrants
    have h2 : Kept p s2 := h1.foldl fun _ _ ht => ht.hostWrite
    have h3 : Kept p s3 := h2.count.count
    exact .ite h1.endGrant.endHostDelivery (.ite h1.errAdd.endHostDelivery h3.putHostDelivery)

theorem Kept.hostDeliverSeal {d g fails} (h : Kept p s) : Kept p (s.hostDeliverSeal d g fails) :=
  .ite h.errAdd.endHostDelivery h.hostWrite.endGrant.count.endHostDelivery

theorem Kept.fenceHostDeliveries (h : Kept p s) : Kept p s.fenceHostDeliveries := by
  unfold State.fenceHostDeliveries
  refine h.foldl fun t d ht => ?_
  split
  · exact ht.endGrant.endHostDelivery
  · exact ht.endHostDelivery

theorem Kept.setChanAddr {lo hi n a} (h : Kept p s) : Kept p (s.setChanAddr lo hi n a) :=
  h.setFld.setFld

theorem Kept.setTransfer {n src dst count} (h : Kept p s) : Kept p (s.setTransfer n src dst count) :=
  h.setChanAddr.setChanAddr.setFld

theorem Kept.setDmaRun {n r} (h : Kept p s) : Kept p (s.setDmaRun n r) :=
  .setFlag (.of h.parts)

theorem Kept.dropDmaRun {n} (h : Kept p s) : Kept p (s.dropDmaRun n) :=
  .setFlag (.of h.parts)

theorem Kept.dmaDone {n} (h : Kept p s) : Kept p (s.dmaDone n) :=
  .ite h.setFlag.interrupt h.setFlag

theorem Kept.dmaFail {n cause status} (h : Kept p s) : Kept p (s.dmaFail n cause status) := by
  unfold State.dmaFail
  split
  · exact h
  · extract_lets s1 s2
    have h1 : Kept p s1 := h.dropDmaRun
    have h2 : Kept p s2 := .ite h1.errAdd h1
    split
    · split
      · exact h2.finish
      · exact h2
    · exact h2.setFlag.setFld.dmaDone

theorem Kept.dmaStart {n} (h : Kept p s) : Kept p (s.dmaStart n) :=
  .ite h.setDmaRun.dropDmaRun.dmaDone (.ite h.setDmaRun.dmaFail h.setDmaRun)

theorem Kept.loadShadow {n} (h : Kept p s) : Kept p (s.loadShadow n) :=
  h.setTransfer.setReg.setFlag

theorem Kept.dmaGo {n} (h : Kept p s) : Kept p (s.dmaGo n) :=
  .ite h.errAdd (.ite h (.dmaStart (.ite h.loadShadow h)))

theorem Kept.dmaPause {n} (h : Kept p s) : Kept p (s.dmaPause n) :=
  h.setFlag.setFlag

theorem Kept.dmaResume {n} (h : Kept p s) : Kept p (s.dmaResume n) := by
  unfold State.dmaResume
  extract_lets s1
  have h1 : Kept p s1 := h.setFlag.setFlag
  split
  · exact .ite h1.dmaFail (.ite h1.dmaFail h1.setDmaRun)
  · exact h1

theorem Kept.dmaMove {n r fails} (h : Kept p s) : Kept p (s.dmaMove n r fails) := by
  unfold State.dmaMove
  extract_lets src dst k device bs s1 s2 s3
  have h1 : Kept p s1 := .ite h h.engineAccess
  have h2 : Kept p s2 := .ite h1.hostWrite h1.engineWrite
  have h3 : Kept p s3 := h2.setTransfer
  exact .ite h.dmaFail (.ite h.dmaFail h3.count)

theorem Kept.dmaAbort (h : Kept p s) : Kept p s.dmaAbort := by
  unfold State.dmaAbort
  refine h.foldl fun t n ht => ?_
  split
  · exact .ite ht.dropDmaRun ht.dmaFail
  · exact ht

theorem Kept.dmaLinkLost (h : Kept p s) : Kept p s.dmaLinkLost := by
  unfold State.dmaLinkLost
  refine h.foldl fun t n ht => ?_
  split
  · exact .ite ht (.ite ht.setDmaRun ht.dmaFail)
  · exact ht

theorem Kept.hostReset (h : Kept p s) : Kept p s.hostReset := by
  unfold State.hostReset
  extract_lets s1 s2 s3 s4 ofRing grants _ s5
  have h1 : Kept p s1 := h.dmaLinkLost
  have h2 : Kept p s2 := h1.foldl fun _ _ ht => .ite ht.errAdd.endHostDelivery ht
  have h3 : Kept p s3 := h2.foldl fun _ _ ht => ht.dropController
  have h4 : Kept p s4 := h3.foldl fun _ _ ht => ht.freeQueue
  have h5 : Kept p s5 := .of h4.parts
  exact h5.setReg

theorem Kept.setPoolFree {n head free} (h : Kept p s) : Kept p (s.setPoolFree n head free) :=
  .setFld (.of h.parts)

theorem Kept.setAllocated {n i v} (h : Kept p s) : Kept p (s.setAllocated n i v) :=
  h.writeDram

theorem Kept.layBits {old} (h : Kept p s) : Kept p (s.layBits old) :=
  h.foldl fun _ _ ht => ht.foldl fun _ _ hu => hu.setAllocated

theorem Kept.writePoolCfg {n value} (h : Kept p s) : Kept p (s.writePoolCfg n value) := by
  unfold State.writePoolCfg
  extract_lets en old s1 s2 old s3
  have h1 : Kept p s1 := h.setFlag.setFlag
  have h2 : Kept p s2 := h.setFld
  have h3 : Kept p s3 := h2.setFlag.setFlag
  exact .ite (.ite h h1.setFlag.setPoolFree.layBits) (.ite h2 (.ite h2.errAdd h3.setFlag.setPoolFree.layBits))

theorem Kept.allocRun {x} (h : Kept p s) : Kept p (s.allocRun x) := by
  unfold State.allocRun
  extract_lets size count out
  split
  · exact h.finish
  · refine .ite h.finish (.ite h.finish (.ite h.count.finish ?_))
    split
    · exact h.setFlag.finish
    · extract_lets s1 s2 s3
      have h1 : Kept p s1 := by
        refine h.foldl fun t a ht => ?_
        split
        · exact ht.setAllocated
        · exact ht
      exact h1.setPoolFree.engineWrite.count.finish

theorem Kept.freeRun {x} (h : Kept p s) : Kept p (s.freeRun x) := by
  unfold State.freeRun
  extract_lets count list s1 addrs found n bs s2
  have h1 : Kept p s1 := h.engineAccess
  have h2 : Kept p s2 := h1.foldl fun _ _ ht => ht.writeDram.setAllocated.setPoolFree
  exact .ite h.finish (.ite h1.errAdd.finish (.ite h1.finish (.ite h1.errAdd.finish h2.count.finish)))

theorem Kept.setSystem {y} (h : Kept p s) : Kept p (s.setSystem y) :=
  .of h.parts

theorem Kept.tell {m} (h : Kept p s) : Kept p (s.tell m) :=
  h.setSystem

theorem Kept.setFenced (h : Kept p s) : Kept p s.setFenced :=
  .ite h h.setFlag.errAdd.fenceDeliveries.fenceHostDeliveries

theorem Kept.unfence (h : Kept p s) : Kept p s.unfence :=
  .ite h.setFlag h

theorem Kept.writeLeaseHi {value} (h : Kept p s) : Kept p (s.writeLeaseHi value) :=
  .ite h.setReg.setSystem.count.setFenced h.setReg.setSystem.count

theorem Kept.writeLease {e} (h : Kept p s) : Kept p (s.writeLease e) :=
  h.setReg.writeLeaseHi

theorem Kept.writeFence {value} (h : Kept p s) : Kept p (s.writeFence value) :=
  .ite (.unfence (.ite h h.setFlag)) (.ite h h.setFlag)

theorem Kept.makeStep (h : Kept p s) : Kept p s.makeStep := by
  unfold State.makeStep
  split
  · exact .ite (.setFld (.setSystem (.of h.parts))) h
  · exact h

theorem Kept.syncFree (h : Kept p s) : Kept p s.syncFree :=
  .ite h h.setFld

theorem Kept.trackOffset {offset rate} (h : Kept p s) : Kept p (s.trackOffset offset rate) := by
  unfold State.trackOffset
  extract_lets lost near s1 y y s2 s3 _
  have h1 : Kept p s1 := h.setReg.count
  have h2 : Kept p s2 := h1.setSystem
  have h3 : Kept p s3 := .ite (.syncFree (.ite h2 h2.setFlag.errAdd)) (.ite h2.setFld h2)
  exact .ite h3.setSystem.setFld.makeStep (.ite h3.setFld h3)

theorem Kept.readNowLo (h : Kept p s) : Kept p s.readNowLo.2 :=
  h.setSystem

theorem Kept.readNowHi (h : Kept p s) : Kept p s.readNowHi.2 :=
  h.setSystem

theorem Kept.abortUntaken (h : Kept p s) : Kept p s.abortUntaken :=
  h.foldl fun _ _ ht => ht.foldl fun _ _ hu => hu.setCore

theorem Kept.abortTaken {pick} (h : Kept p s) : Kept p (s.abortTaken pick) := by
  unfold State.abortTaken
  extract_lets mine named s1 _ _
  have h1 : Kept p s1 := by
    refine h.foldl fun t x ht => ?_
    split
    · exact ht.completeTaken
    · exact ht.endTaken
  exact .of h1.parts

theorem Kept.silencePorts (h : Kept p s) : Kept p s.silencePorts := by
  unfold State.silencePorts
  extract_lets s1 _ _
  have h1 : Kept p s1 := h.foldl fun _ _ ht => ht.setQueue
  exact .of h1.parts

theorem Kept.abortDeliveries (h : Kept p s) : Kept p s.abortDeliveries := by
  unfold State.abortDeliveries
  extract_lets s1 s2 s3
  have h1 : Kept p s1 := h.foldl fun _ _ ht => ht.qpError
  have h2 : Kept p s2 := h1.foldl fun _ _ ht => ht.endDelivery
  have h3 : Kept p s3 := h2.foldl fun _ _ ht => ht.endHostDelivery
  exact h3.foldl fun _ _ ht => .ite ht.deliverRefuse (.ite ht.hostDeliverRefuse ht)

theorem Kept.endReplay {outcome temp load} (h : Kept p s) : Kept p (s.endReplay outcome temp load) := by
  unfold State.endReplay
  split
  · exact h
  · extract_lets bytes s1 _ s2
    clear_value bytes
    have h1 : Kept p s1 := h.writeDram
    clear_value s1
    have h2 : Kept p s2 := .of h1.parts
    exact h2.setFlag.setFlag

theorem Kept.enterSafe (h : Kept p s) : Kept p s.enterSafe := by
  unfold State.enterSafe
  extract_lets s1 s2 _ s3 s4 s5 _ _ s6 s7 s8 _ s9
  have h2 : Kept p s2 := h.setFlag.silencePorts.abortDeliveries
  have h3 : Kept p s3 := .of h2.parts
  have h5 : Kept p s5 := h3.dmaAbort.abortTaken.abortUntaken
  clear_value s5
  have h6 : Kept p s6 := .of h5.parts
  have h7 : Kept p s7 := h6.showTiles.foldl fun _ _ ht => ht.showSet
  have h8 : Kept p s8 := .ite h7.setFlag.setFld h7
  have h9 : Kept p s9 := .setTests (.of h8.parts)
  clear_value s9
  split
  next n t e =>
    have ht : Kept p t := .of_snd h9.freshFree e
    exact .of ht.endReplay.parts

theorem Kept.doubt {code polder detail value cuts} (h : Kept p s) : Kept p (s.doubt code polder detail value cuts) := by
  unfold State.doubt
  extract_lets entry s1 s2 _
  have h1 : Kept p s1 := h.logFault.errAdd
  have h2 : Kept p s2 := h1.setReg
  split
  · exact .ite (.of h2.parts) (.ite h2 h2.setFld.setFld.enterSafe)
  · exact .ite h2 h2.setFld.setFld.enterSafe

theorem Kept.writeForce {w value} (h : Kept p s) : Kept p (s.writeForce w value) :=
  .ite h.doubt h

theorem Kept.kick {cores} (h : Kept p s) : Kept p (s.kick cores) :=
  h.foldl fun _ _ ht => .ite (.of ht.parts) ht

theorem Kept.clearCounters {u} (h : Kept p s) : Kept p (s.clearCounters u) := by
  unfold State.clearCounters
  extract_lets s1
  have h1 : Kept p s1 := h.foldl fun _ _ ht => ht.setReg
  exact .of h1.parts

theorem Kept.clearUnits {units} (h : Kept p s) : Kept p (s.clearUnits units) :=
  h.foldl fun _ _ ht => .ite ht.clearCounters ht

theorem Kept.latch {u} (h : Kept p s) : Kept p (s.latch u) :=
  .of h.parts

theorem Kept.setRotation {cls unit on} (h : Kept p s) : Kept p (s.setRotation cls unit on) := by
  unfold State.setRotation
  refine .ite (.ite (.showTiles (.of h.parts)) h.tileDrop) ?_
  split
  · exact h.setReg
  · exact h

theorem Kept.requestTest {cls unit retire} (h : Kept p s) : Kept p (s.requestTest cls unit retire) :=
  .ite h.setFlag (.ite (.logFault (.ite h.failChannel h.setRotation)) h.queueTest)

theorem Kept.requestReplay {value} (h : Kept p s) : Kept p (s.requestReplay value) := by
  unfold State.requestReplay
  extract_lets s1 block _ s2 s3
  have h1 : Kept p s1 := h.setFld.setFlag
  have h2 : Kept p s2 := .of h1.parts
  have h3 : Kept p s3 := h2.setFlag
  clear_value s3
  refine .ite h ?_
  split
  next n t e =>
  have ht : Kept p t := .of_snd h3.freshFree e
  extract_lets out
  have hout {code} : Kept p (out code) := ht.endReplay
  refine .ite hout ?_
  split
  · exact hout
  · exact ht

theorem Kept.setSec {x} (h : Kept p s) : Kept p (s.setSec x) :=
  .of h.parts

theorem Kept.showSec (h : Kept p s) : Kept p s.showSec :=
  h.setReg.setReg.setReg.setReg.setReg.setFld

theorem Kept.attestStart (h : Kept p s) : Kept p s.attestStart :=
  h.setSec

theorem Kept.enterLoaderOnly {reason} (h : Kept p s) : Kept p (s.enterLoaderOnly reason) :=
  h.setSec.setReg.showSec

theorem Kept.startLoader {eepromOk loaderOk} (h : Kept p s) : Kept p (s.startLoader eepromOk loaderOk) := by
  unfold State.startLoader
  refine .ite h.setSec.showSec.doubt (.ite h.enterLoaderOnly ?_)
  split
  · exact h.enterLoaderOnly
  · extract_lets head image
    clear_value head image
    exact .ite h.setSec.showSec h.setSec.setReg.showSec

theorem Kept.setPower {q} (h : Kept p s) : Kept p (s.setPower q) :=
  .of h.parts

theorem Kept.setPhase {q} (h : Kept p s) : Kept p (s.setPhase q) :=
  h.setPower

theorem Kept.stopPolder {q kind} (h : Kept p s) : Kept p (s.stopPolder q kind) :=
  h.marker.setPolder.setFlag

theorem Kept.resumePolder {q kind} (h : Kept p s) : Kept p (s.resumePolder q kind) :=
  .marker (.ite h.setPolder.setFlag.flushMarkers h.setPolder.setFlag)

theorem Kept.settleStops (h : Kept p s) : Kept p s.settleStops :=
  h.foldl fun _ _ ht => .ite ht.stopPolder ht

theorem Kept.writeStop {q stop} (h : Kept p s) : Kept p (s.writeStop q stop) :=
  .ite h (.ite h.setFlag.settleStops (.ite h.setFlag.resumePolder h.setFlag))

theorem Kept.writeSrc {q pll} (h : Kept p s) : Kept p (s.writeSrc q pll) :=
  h.setFlag.setPower

theorem Kept.applyOpp {q} (h : Kept p s) : Kept p (s.applyOpp q) :=
  .ite h (.ite (.marker (.setFld (.ite h.marker h))) (.setFld (.ite h.marker h)))

theorem Kept.applyOpps (h : Kept p s) : Kept p s.applyOpps :=
  h.foldl fun _ _ ht => ht.applyOpp

theorem Kept.writeOpp {q opp} (h : Kept p s) : Kept p (s.writeOpp q opp) :=
  .ite h.setFld.applyOpp h

theorem Kept.clearUnitsOf {pick} (h : Kept p s) : Kept p (s.clearUnitsOf pick) :=
  .of h.parts

theorem Kept.coldReset (h : Kept p s) : Kept p s.coldReset := by
  unfold State.coldReset
  exact .attestStart (.of ⟨h.queue, fun hp => ⟨rfl, (h.mem hp).2⟩⟩)

theorem Kept.loseTrace (h : Kept p s) : Kept p s.loseTrace :=
  .of h.parts

theorem Kept.warmClear (h : Kept p s) : Kept p s.warmClear := by
  unfold State.warmClear
  extract_lets s1 _ _ _ _ s2 s3 s4 s5 s6 s7 s8 s9
  have h1 : Kept p s1 := h.clearUnitsOf
  have h2 : Kept p s2 := h1.loseDram rfl rfl rfl rfl
  have h5 : Kept p s5 := h2.loseTrace.setFlag.setFlag.setFlag.setTests.setFlag.setFld
  have h6 : Kept p s6 := h5.foldl fun _ _ ht => .ite ht ht.setReg
  exact h6.setFld.setReg.setFld.setFld.setFlag.setFlag.setFlag

theorem Kept.releasePolders (h : Kept p s) : Kept p s.releasePolders :=
  .setPhase (.flushMarkers (h.foldl fun _ _ ht => ht.setPolder))

theorem Kept.beginLadder {kind pick} (h : Kept p s) : Kept p (s.beginLadder kind pick) :=
  h.setPower

theorem Kept.trainDram {chans dram} (h : Kept p s) : Kept p (s.trainDram chans dram) :=
  .of h.parts

theorem Kept.finishWarm {loaderOk} (h : Kept p s) : Kept p (s.finishWarm loaderOk) :=
  h.releasePolders.setFld.startLoader

theorem Kept.warmReset {loaderOk} (h : Kept p s) : Kept p (s.warmReset loaderOk) :=
  .ite h.warmClear.beginLadder h.warmClear.finishWarm

theorem Kept.writeWarm {w value loaderOk} (h : Kept p s) : Kept p (s.writeWarm w value loaderOk) :=
  .ite h.warmReset h

theorem Kept.resetPolder {q} (h : Kept p s) : Kept p (s.resetPolder q) := by
  unfold State.resetPolder
  extract_lets s1 s2 s3
  have h2 : Kept p s2 := h.marker.abortTaken.foldl fun _ _ ht => .ite ht.clearCounters ht
  have h3 : Kept p s3 := .ite h2.clearUnitsOf.loseTrace h2
  exact .ite h h3.marker

theorem Kept.writePolderReset {w value} (h : Kept p s) : Kept p (s.writePolderReset w value) :=
  .ite h.resetPolder h

theorem Kept.resetCore {c} (h : Kept p s) : Kept p (s.resetCore c) :=
  h.setCore.setReg.setPower

theorem Kept.settleCores (h : Kept p s) : Kept p s.settleCores :=
  h.foldl fun _ _ ht => .ite ht.resetCore ht

theorem Kept.writeCoreRst {value} (h : Kept p s) : Kept p (s.writeCoreRst value) :=
  .settleCores (h.foldl fun _ _ ht => .ite ht.setPower.setReg (.ite ht.setPower ht))

theorem Kept.releasePads {polders} (h : Kept p s) : Kept p (s.releasePads polders) :=
  .ite (h.foldl fun _ _ ht => .ite ht.setFld ht) (.setPower (h.foldl fun _ _ ht => .ite ht.setFld ht))

theorem Kept.setMode {m} (h : Kept p s) : Kept p (s.setMode m) :=
  h.setFld.setFld

theorem Kept.enterMs3 (h : Kept p s) : Kept p s.enterMs3 :=
  .count (.setMode (h.foldl fun _ _ ht => .ite ht.stopPolder ht))

theorem Kept.leaveMs3 {m} (h : Kept p s) : Kept p (s.leaveMs3 m) :=
  .setMode (h.foldl fun _ _ ht => .ite ht.resumePolder ht)

theorem Kept.decideMs4 (h : Kept p s) : Kept p s.decideMs4 := by
  unfold State.decideMs4
  split
  · exact h.setFlag.setFld
  · extract_lets s1
    have h1 : Kept p s1 := .of h.parts
    exact h1.setFld.setFlag.setPhase

theorem Kept.writeSave (h : Kept p s) : Kept p s.writeSave :=
  h.setPower.setFlag.setFld

theorem Kept.restoreSave (h : Kept p s) : Kept p s.restoreSave := by
  unfold State.restoreSave
  extract_lets m s1 _ s2
  have h1 : Kept p s1 := h.foldl fun _ _ ht => .of ht.parts
  have h2 : Kept p s2 := .of h1.parts
  exact h2.foldl fun _ _ ht => ht.setReg

theorem Kept.gatePolder {q} (h : Kept p s) : Kept p (s.gatePolder q) :=
  h.marker.setPolder.clearUnitsOf.setReg.setPower

theorem Kept.sleep (h : Kept p s) : Kept p s.sleep := by
  unfold State.sleep
  extract_lets s1 s2 _ _ _ _ s3 s4 s5 s6
  have h1 : Kept p s1 := h.writeSave
  have h2 : Kept p s2 := h1.setFld
  have h3 : Kept p s3 := .of h2.parts
  have h4 : Kept p s4 := h3.foldl fun _ _ ht => ht.gatePolder
  have h5 : Kept p s5 := h4.loseTrace
  have h6 : Kept p s6 := h5.stopPolder.setMode
  exact h6.setFld.setFlag.count.setPhase

theorem Kept.beginExit (h : Kept p s) : Kept p s.beginExit :=
  h.resumePolder.setFlag.beginLadder

theorem Kept.wake {src} (h : Kept p s) : Kept p (s.wake src) := by
  unfold State.wake
  extract_lets pend s1 s2
  have h1 : Kept p s1 := .ite h.setFld h
  have h2 : Kept p s2 := h1.setFld
  split
  · exact h2.setFld.setFlag.setPhase.setMode
  · exact h2.beginExit
  · exact h2

theorem Kept.endExit (h : Kept p s) : Kept p s.endExit := by
  unfold State.endExit
  extract_lets s1 s2 s3
  have h1 : Kept p s1 := h.foldl fun _ _ ht => ht.setPolder
  have h2 : Kept p s2 := h1.foldl fun _ _ ht => ht.resumePolder
  have h3 : Kept p s3 := h2.setReg
  exact h3.setMode.setFlag.count.setPhase

theorem Kept.discardRing {cls ring} (h : Kept p s) : Kept p (s.discardRing cls ring) :=
  .ite (.ite h.setRing.clearEn h.setRing.ringOff) h

theorem Kept.releaseSlots {handle} (h : Kept p s) : Kept p (s.releaseSlots handle) :=
  .foldl (.showTiles (.of h.parts)) fun _ _ ht => ht.showSet

theorem Kept.releaseRecipe {handle r} (h : Kept p s) : Kept p (s.releaseRecipe handle r) := by
  unfold State.releaseRecipe
  extract_lets s1 s2 s3
  have h1 : Kept p s1 := h.unbindRecipeQps.releaseSlots.releaseStore
  have h2 : Kept p s2 := h1.foldl fun _ _ ht => ht.setCore
  have h3 : Kept p s3 := h2.foldl fun _ _ ht => ht.setRing
  exact .of h3.parts

theorem Kept.settleUnload {handle} (h : Kept p s) : Kept p (s.settleUnload handle) := by
  unfold State.settleUnload
  split
  · exact .ite h (h.releaseRecipe.foldl fun _ _ ht => ht.completeCommand)
  · exact h

theorem Kept.settleUnloads (h : Kept p s) : Kept p s.settleUnloads :=
  h.foldl fun _ _ ht => ht.settleUnload

theorem Kept.spendRing {cls ring} (h : Kept p s) : Kept p (s.spendRing cls ring) :=
  .of h.parts

theorem Kept.take {x failed} (h : Kept p s) : Kept p (s.take x failed) := by
  unfold State.take
  extract_lets r s1 s2 s3 s4
  have h1 : Kept p s1 := h.spendRing
  have h2 : Kept p s2 := h1.setRing
  have h3 : Kept p s3 := .ite h2.emit h2
  have h4 : Kept p s4 := .of h3.parts
  split
  · exact h4.ringError.finish
  · exact h4

theorem Kept.watchWord {fmt v} (h : Kept p s) : Kept p (s.watchWord fmt v).2 := by
  unfold State.watchWord
  split
  · exact h
  · exact .ite_snd h (.of h.parts)

theorem Kept.watch {i x r seen} (h : Kept p s) : Kept p (s.watch i x r seen) := by
  unfold State.watch
  extract_lets w hit whole b cut fmt st pol s1 s2 s3
  clear_value b st
  have h3 : Kept p s3 := .emit (.ite h.count.count.errAdd h.count.count)
  clear_value s3
  refine .ite h ?_
  split
  next low t e =>
  have ht : Kept p t := .of_snd h3.watchWord e
  split
  next high u e =>
  have hu : Kept p u := .of_snd ht.watchWord e
  extract_lets s4
  have h4 : Kept p s4 := hu.emit
  clear_value s4
  split
  next draw v e =>
  have hv : Kept p v := .of_snd (.ite_snd h4.freshFree h4) e
  extract_lets total s5
  have h5 : Kept p s5 := hv.emit
  exact .ite h5.trigger h5

theorem Kept.watches {x r seen} (h : Kept p s) : Kept p (s.watches x r seen) :=
  .ite h (h.foldl fun _ _ ht => ht.watch)

theorem Kept.settleAll (h : Kept p s) : Kept p s.settleAll :=
  h.settleUnloads.settleCores.settleStops

/-! ### Power, firmware, registers and the debug port -/

theorem Kept.applyLimit (h : Kept p s) : Kept p s.applyLimit :=
  h.setFld.drainWaiting

theorem Kept.setLimit {hu} (h : Kept p s) : Kept p (s.setLimit hu) :=
  h.setFld.setFld.applyLimit

theorem Kept.showBank (h : Kept p s) : Kept p s.showBank :=
  h.setFld.setFlag.setFlag

theorem Kept.abandonTest (h : Kept p s) : Kept p s.abandonTest :=
  h.setPower.showBank

theorem Kept.loseShed (h : Kept p s) : Kept p s.loseShed := by
  unfold State.loseShed
  extract_lets lost s1 _ _ _ s2 s3
  have h1 : Kept p s1 := h.clearUnitsOf
  have h2 : Kept p s2 := h1.loseDram rfl rfl rfl rfl
  have h3 : Kept p s3 := h2.setReg.foldl fun _ _ ht => ht.setPolder
  exact h3.setPolder.loseTrace

theorem Kept.shed {f} (h : Kept p s) : Kept p (s.shed f) :=
  h.setPower.abandonTest.loseShed

theorem Kept.powerFail {cause} (h : Kept p s) : Kept p (s.powerFail cause) := by
  unfold State.powerFail
  split
  · exact h
  · exact h
  · exact h.setPhase
  · exact .ite h h.count.shed
  · extract_lets s1
    have h1 : Kept p s1 := h.count
    exact h1.setPhase.shed

theorem Kept.powerOff (h : Kept p s) : Kept p s.powerOff :=
  .ite h h.count.setPower.showBank

theorem Kept.writeMgtCtl {w value} (h : Kept p s) : Kept p (s.writeMgtCtl w value) :=
  .ite h.powerOff h

theorem Kept.flushUnit {a avoid kind lua data} (h : Kept p s) : Kept p (s.flushUnit a avoid kind lua data).2 := by
  unfold State.flushUnit
  split
  · exact h
  extract_lets w pm seq unit filler _
  split
  · exact h
  extract_lets words s1
  have h1 : Kept p s1 := h.programWords
  clear_value s1
  exact .ite_snd h (.of h1.parts)

theorem Kept.flushJournal {targets k} (h : Kept p s) : Kept p (s.flushJournal targets k).2 := by
  induction k generalizing s targets with
  | zero => exact h
  | succ k ih =>
    unfold State.flushJournal
    split
    · exact h
    · exact h
    · extract_lets rs
      split
      next t e => exact ih (.of_snd h.flushUnit e)
      next t e =>
        have ht : Kept p t := .of_snd h.flushUnit e
        exact ih (.of ht.parts)

theorem Kept.endPrograms {st} (h : Kept p s) : Kept p (s.endPrograms st) := by
  unfold State.endPrograms
  extract_lets o
  split
  · exact .ite (h.foldl fun _ _ ht => ht.programWords.count) h
  · exact h

theorem Kept.writeCursors {f journal targets} (h : Kept p s) : Kept p (s.writeCursors f journal targets) := by
  unfold State.writeCursors
  split
  · exact h
  extract_lets bytes victim
  split
  next t e =>
  have ht : Kept p t := .of_snd h.flushUnit e
  split
  next u e =>
  have hu : Kept p u := .of_snd ht.flushUnit e
  exact .ite hu (.of hu.parts)

theorem Kept.writeFlush {f} (h : Kept p s) : Kept p (s.writeFlush f) := by
  unfold State.writeFlush
  extract_lets s1 journal
  have h1 : Kept p s1 := h.endPrograms.endPrograms
  refine .ite h (.ite h1 ?_)
  split
  next t e => exact .writeCursors (.of_snd (.ite_snd h1.flushJournal h1) e)

theorem Kept.askTest (h : Kept p s) : Kept p s.askTest :=
  .ite h.setFlag h.setPower

theorem Kept.writeRestart {n value} (h : Kept p s) : Kept p (s.writeRestart n value) :=
  h.setReg.setPower

theorem Kept.answerMail {status response} (h : Kept p s) : Kept p (s.answerMail status response) :=
  h.setSec.setReg

theorem Kept.reserveIndex (h : Kept p s) : Kept p s.reserveIndex := by
  unfold State.reserveIndex
  extract_lets x last _
  exact .ite h h.setSec.storeBoot

theorem Kept.attest (h : Kept p s) : Kept p s.attest :=
  .ite h.answerMail (.ite h.answerMail h.setFld.reserveIndex.setSec.showSec.answerMail)

theorem Kept.readCert (h : Kept p s) : Kept p s.readCert :=
  .ite h.answerMail h.answerMail

theorem Kept.debugChallenge (h : Kept p s) : Kept p s.debugChallenge :=
  .answerMail (.setSec (.of h.parts))

theorem Kept.debugUnlock (h : Kept p s) : Kept p s.debugUnlock :=
  .ite h.answerMail (.ite h.setSec.setFlag.setFld.answerMail (.answerMail (.ite h.setSec.setFlag h.setSec)))

theorem Kept.mailOp {op} (h : Kept p s) : Kept p (s.mailOp op) := by
  unfold State.mailOp
  split
  · exact h
  · exact h.attest
  · exact h.readCert
  · exact h.debugChallenge
  · exact h.debugUnlock
  · exact h.answerMail

theorem Kept.commitSvn (h : Kept p s) : Kept p s.commitSvn := by
  unfold State.commitSvn
  split
  · exact h.setSec.showSec
  · exact h

theorem Kept.armActivation {value} (h : Kept p s) : Kept p (s.armActivation value) :=
  .ite h.setFlag h.setReg.setSec.setFlag

theorem Kept.disarm (h : Kept p s) : Kept p s.disarm :=
  .ite h.setFlag.setFlag h

theorem Kept.fwComplete {sender status} (h : Kept p s) : Kept p (s.fwComplete sender status) := by
  unfold State.fwComplete
  split
  · exact h.nvmeComplete
  · exact h.completeCommand

theorem Kept.discardBlock {i} (h : Kept p s) : Kept p (s.discardBlock i) :=
  h.setSec.errAdd

theorem Kept.stageBytes {off data} (h : Kept p s) : Kept p (s.stageBytes off data).2 := by
  unfold State.stageBytes
  extract_lets x x s1 new bad s2 s3
  have h1 : Kept p s1 := h.setSec
  have h2 : Kept p s2 := h1.setSec
  have h3 : Kept p s3 := .showSec (h2.foldl fun _ _ ht => ht.discardBlock)
  exact .ite_snd h (.ite_snd h (.ite_snd h (.ite_snd h1 h3)))

theorem Kept.refuseImage {sender reason} (h : Kept p s) : Kept p (s.refuseImage sender reason) :=
  h.setSec.setFld.showSec.fwComplete

theorem Kept.commitDone {c} (h : Kept p s) : Kept p (s.commitDone c) :=
  h.fwComplete

theorem Kept.runCommit {c} (h : Kept p s) : Kept p (s.runCommit c) := by
  unfold State.runCommit
  extract_lets m key _ _ s1 _ s2
  have h1 : Kept p s1 := h.storeBoot
  clear_value s1
  split
  · exact h.refuseImage
  split
  · exact .ite h.refuseImage h.setSec.showSec.commitDone
  · exact h1.disarm.setSec.setFld

theorem Kept.commitImage {sender ca} (h : Kept p s) : Kept p (s.commitImage sender ca) :=
  .ite h.setSec h.runCommit

theorem Kept.fwCommit {sender fs ca} (h : Kept p s) : Kept p (s.fwCommit sender fs ca) :=
  .ite h.fwComplete (.ite h.fwComplete h.commitImage)

theorem Kept.nextCommit {k} (h : Kept p s) : Kept p (s.nextCommit k) := by
  induction k generalizing s with
  | zero => exact h
  | succ k ih =>
    unfold State.nextCommit
    split
    · exact ih h.setSec.runCommit
    · exact h

theorem Kept.imageWritten {c loaderOk} (h : Kept p s) : Kept p (s.imageWritten c loaderOk) := by
  unfold State.imageWritten
  extract_lets n s1 _ s2 s3
  have h1 : Kept p s1 := h.storeBoot
  clear_value s1
  have h3 : Kept p s3 := h1.setSec.setFld.commitDone.nextCommit
  exact .ite h3.warmReset h3

theorem Kept.imageLost {c} (h : Kept p s) : Kept p (s.imageLost c) := by
  unfold State.imageLost
  extract_lets n
  split
  next draw t e =>
    have ht : Kept p t := .of_snd h.freshFree e
    extract_lets s1 _ s2 s3
    have h1 : Kept p s1 := ht.storeBoot
    clear_value s1
    exact h1.setSec.setFld.setFld.fwComplete.nextCommit

theorem Kept.clearOvf {u k value} (h : Kept p s) : Kept p (s.clearOvf u k value) :=
  .ite (.of h.parts) h

theorem Kept.writeWindow {w value} (h : Kept p s) : Kept p (s.writeWindow w value) := by
  unfold State.writeWindow
  split
  · exact h.setPower
  · exact h.setSec
  · exact h
  · exact h

/-- A claim about the state that a read of a register leaves, where there is such a register. -/
def KeptRead (p : State) (o : Option (Word32 × State)) : Prop := ∀ r, o = some r → Kept p r.2

theorem Kept.read {r : Word32 × State} (h : Kept p r.2) : KeptRead p (some r) := fun _ e => Option.some.inj e ▸ h

theorem KeptRead.none : KeptRead p none := fun _ e => nomatch e

theorem KeptRead.ite {c : Prop} [Decidable c] {a b : Option (Word32 × State)} (ha : KeptRead p a) (hb : KeptRead p b) :
    KeptRead p (if c then a else b) := by
  split
  · exact ha
  · exact hb

theorem Kept.readCC {off} (h : Kept p s) : KeptRead p (s.readCC off) := by
  unfold State.readCC
  refine .ite (.read h) (.ite (.read h) (.ite (.read h) ?_))
  split
  · exact .read h
  split
  · exact .read h.popTicket
  · exact .read h
  · exact .none

theorem Kept.readOther {off} (h : Kept p s) : KeptRead p (s.readOther off) := by
  unfold State.readOther
  exact .ite (.read h) (.ite (.read h.readNowLo) (.ite (.read h.readNowHi) (.ite (.read h) (.ite (.read h) (.ite (.read h)
    (.ite (.read h) (.ite (.read h.readDepth) (.ite (.read h.readDelay) (.ite (.read h) (.ite (.read h) (.ite (.read h)
    (.ite (.read h) .none))))))))))))

theorem Kept.readReg {off} (h : Kept p s) : Kept p (s.readReg off).2 := by
  unfold State.readReg
  split
  · exact h
  split
  · exact h
  refine .ite_snd h ?_
  split
  next r e =>
    split at e
    · exact h.readCC _ e
    · exact h.readOther _ e
  · split
    · exact h.setReg
    · exact h

theorem Kept.plainWrite {off value} (h : Kept p s) : Kept p (s.plainWrite off value) := by
  unfold State.plainWrite
  split
  · exact h.setReg
  · exact h

theorem Kept.writeClk {q value} (h : Kept p s) : Kept p (s.writeClk q value) :=
  h.writeSrc.writeOpp.writeStop

theorem Kept.writePOL {w off value} (h : Kept p s) : Kept p (s.writePOL w off value) := by
  unfold State.writePOL
  exact .ite h.releasePads (.ite h.writeCoreRst (.ite (.writePolderReset (.writeWarm (.of h.parts))) (.ite h.plainWrite.setPower
    (.ite h.writeClk h.plainWrite))))

theorem Kept.writeMGT {w off value} (h : Kept p s) : Kept p (s.writeMGT w off value) := by
  unfold State.writeMGT
  exact .ite (.ite h h.plainWrite.applyLimit) (.ite (.ite h h.setPower) (.ite (.ite h.plainWrite.askTest h.plainWrite) (.ite h.writeMgtCtl
    (.ite h.writeRestart h.plainWrite))))

theorem Kept.writeGTC {off value} (h : Kept p s) : Kept p (s.writeGTC off value) :=
  .ite h.writeLeaseHi (.ite h.writeFence h.plainWrite)

theorem Kept.writeOvfIrq {value} (h : Kept p s) : Kept p (s.writeOvfIrq value) :=
  h.setReg.foldl fun _ _ ht => .ite (.of ht.parts) ht

theorem Kept.writeReplayCfg {value} (h : Kept p s) : Kept p (s.writeReplayCfg value) :=
  .setFlag (.ite h h.setFld)

theorem Kept.writeFLT {w off value} (h : Kept p s) : Kept p (s.writeFLT w off value) := by
  unfold State.writeFLT
  exact .ite (.ite h h.plainWrite) (.ite h.writeForce (.ite h.kick (.ite h.writeOvfIrq (.ite h.clearUnits (.ite h.requestTest (.ite h.writeReplayCfg
    (.ite h.requestReplay h.plainWrite)))))))

theorem Kept.writeDbgCore {c value} (h : Kept p s) : Kept p (s.writeDbgCore c value) :=
  .ite h.requestHalt (.ite h.leaveHalt h)

theorem Kept.writeCC {off value} (h : Kept p s) : Kept p (s.writeCC off value) := by
  unfold State.writeCC
  refine .ite h.writeSwi (.ite h.writeRingCfg (.ite h.writeRingBase (.ite h.writeRingBase (.ite h.writeRingWin (.ite h.writeRingErr ?_)))))
  split
  · exact h.writeDbgCore
  · exact h.writeTkiStat
  · exact h.plainWrite

theorem Kept.writePrioCfg {value} (h : Kept p s) : Kept p (s.writePrioCfg value) :=
  .ite h.plainWrite.setFld.setFld h.plainWrite

theorem Kept.writeNet {off value} (h : Kept p s) : Kept p (s.writeNet off value) := by
  unfold State.writeNet
  exact .ite h.writePortCfg (.ite h.writePrioCfg (.ite (.ite h.plainWrite h.plainWrite.qpCommand) (.ite (.of h.parts) (.ite (.ite h.setReg h)
    (.ite h.latchQueue h.plainWrite)))))

theorem Kept.writeDmaCtl {n value} (h : Kept p s) : Kept p (s.writeDmaCtl n value) := by
  unfold State.writeDmaCtl
  extract_lets off was mode w s1 s2
  have h1 : Kept p s1 := h.setReg
  have h2 : Kept p s2 := .ite h1.dmaPause (.ite h1.dmaResume h1)
  exact .ite h2.dmaGo h2

theorem Kept.writeHost {off value} (h : Kept p s) : Kept p (s.writeHost off value) :=
  .ite (.of h.parts) (.ite (.ite h.writeDmaCtl (.ite h h.plainWrite)) (.ite h.writePoolCfg h.plainWrite))

theorem Kept.writeDBG {w off value} (h : Kept p s) : Kept p (s.writeDBG w off value) :=
  .ite h.writeDbgCtl (.ite (.ite h.plainWrite.arm h.plainWrite) (.ite (.ite h.trigger h) (.ite h.mark h.plainWrite)))

theorem Kept.writeSEC {off value} (h : Kept p s) : Kept p (s.writeSEC off value) := by
  unfold State.writeSEC
  exact .ite (.ite h.commitSvn h) (.ite h.armActivation (.ite (.ite h.plainWrite.disarm h.plainWrite) (.ite h.plainWrite.mailOp h.plainWrite)))

theorem Kept.writeEngine {off value} (h : Kept p s) : Kept p (s.writeEngine off value) := by
  unfold State.writeEngine
  exact .ite (.ite h.plainWrite h) (.ite h.plainWrite.applyLimit (.ite (.ite h h.plainWrite) (.ite (.ite h.plainWrite h) h.plainWrite)))

theorem Kept.writeUnit {w u off value} (h : Kept p s) : Kept p (s.writeUnit w u off value) := by
  unfold State.writeUnit
  exact .ite h.writePOL (.ite h.writeMGT (.ite h.writeGTC (.ite h.writeFLT (.ite h.writeCC (.ite h.writeNet (.ite h.writeHost (.ite h.writeDBG
    (.ite h.writeSEC h.writeEngine))))))))

theorem Kept.writeReg {w off value} (h : Kept p s) : Kept p (s.writeReg w off value) := by
  unfold State.writeReg
  split
  · exact h.writeWindow
  · split
    · exact .ite h.clearOvf h
    · exact .ite h.latch h
    · exact h.writeUnit
    · exact h

/-- A claim about the state in which the door of a register leaves the machine. -/
def KeptDoor (p : State) : RegDoor → Prop
  | .opens t | .waits t => Kept p t
  | .dead => True

theorem Kept.regDoor {host off} (h : Kept p s) : KeptDoor p (s.regDoor host off) := by
  unfold State.regDoor
  split
  · exact h
  split
  · exact h
  split
  · trivial
  extract_lets woken
  have hw : Kept p woken := by
    dsimp only [woken]
    split
    · exact .ite (.leaveMs3 (.ite h.wake h)) h
    · exact .ite h.wake h
    · exact .ite h.wake h
    · exact h
  split
  · exact hw
  · exact hw

theorem Kept.setDap {d} (h : Kept p s) : Kept p (s.setDap d) :=
  .of h.parts

/-- A claim about the state in which a debug port's request leaves the machine. -/
def KeptEnd (p : State) : DapEnd → Prop
  | .ends _ _ t | .waits t => Kept p t

theorem Kept.dapRegister {r} (h : Kept p s) : KeptEnd p (s.dapRegister r) := by
  unfold State.dapRegister
  extract_lets off
  have hd : KeptDoor p (s.regDoor false off) := h.regDoor
  split
  · exact h
  split
  next t e =>
    rw [e] at hd
    split
    · exact hd.writeReg
    · exact hd.readReg
  next t e =>
    rw [e] at hd
    exact hd
  · exact h

theorem Kept.dapMemory {r} (h : Kept p s) : KeptEnd p (s.dapMemory r) := by
  unfold State.dapMemory
  extract_lets a kind
  split
  · exact h
  split
  · exact h.writeDram
  · exact h

theorem Kept.dapCore {r} (h : Kept p s) : KeptEnd p (s.dapCore r) := by
  unfold State.dapCore
  extract_lets c n
  split
  · exact h
  split
  · exact h
  split
  · exact h
  split
  · exact h
  · exact h.setCore

theorem Kept.dapRun {r} (h : Kept p s) : KeptEnd p (s.dapRun r) := by
  unfold State.dapRun
  split
  · exact h
  split
  · exact h.dapRegister
  split
  · exact h.dapMemory
  split
  · exact h.dapCore
  · exact h

theorem Kept.dapStart {r} (h : Kept p s) : Kept p (s.dapStart r) := by
  have hr : KeptEnd p (s.dapRun r) := h.dapRun
  unfold State.dapStart
  split
  next t e =>
    rw [e] at hr
    exact hr.setDap
  next t e =>
    rw [e] at hr
    exact hr.setDap

theorem Kept.dapScan {r} (h : Kept p s) : Kept p (s.dapScan r) := by
  unfold State.dapScan
  extract_lets s1 s2
  have h1 : Kept p s1 := by
    dsimp only [s1]
    split
    · exact h.dapStart
    · exact h
  exact .ite h (.ite h1.setDap h1.setDap.dapStart)

theorem Kept.loadOp {c op n f ext} (h : Kept p s) : Kept p (s.loadOp c op n f ext) := by
  unfold State.loadOp
  refine h.runInsn ?_
  extract_lets k a
  split
  · exact h.checkAccess ‹_›
  · exact h.setCore

theorem Kept.storeOp {c op n f} (h : Kept p s) : Kept p (s.storeOp c op n f) := by
  unfold State.storeOp
  refine h.runInsn ?_
  extract_lets k a
  split
  · exact h.checkAccess ‹_›
  · exact h.writeDram.setCore

theorem Kept.atomOp {c oper f} (h : Kept p s) : Kept p (s.atomOp c oper f) := by
  unfold State.atomOp
  refine h.runInsn ?_
  extract_lets k a n old b cmp
  split
  · exact h.checkAccess ‹_›
  · exact h.writeDram.setCore

theorem Kept.loadWord {c op f ext} (h : Kept p s) : Kept p (s.loadWord c op f ext) := by
  unfold State.loadWord
  refine h.runInsn ?_
  extract_lets a done
  split
  · exact h.checkAccess ‹_›
  have hdone {t v} (ht : Kept p t) : Kept p (done t v) := ht.setCore
  split
  · exact hdone h
  next off _ =>
  have hd : KeptDoor p (s.regDoor false off) := h.regDoor
  split
  next t e =>
    rw [e] at hd
    exact hdone hd.readReg
  next t e =>
    rw [e] at hd
    exact hd
  · exact hdone h

theorem Kept.tick (h : Kept p s) : Kept p s.tick :=
  .ite (.settleAll (.makeStep (.of h.parts))) h

theorem Kept.wrote {c rd v} (h : Kept p s) : Kept p (s.wrote c rd v) :=
  h.setCore

end

/-! ## The commands -/

/-- The next state a command answers keeps what `Kept` says of the past state. -/
def KeptNext (p : State) : Res → Prop
  | .next t => Kept p t
  | _ => True

section
variable {p s t : State}

theorem KeptNext.next (h : Kept p s) : KeptNext p (.next s) := h

theorem Kept.answerRead {r : Word32 × State} (h : Kept p r.2) : Kept p (answerRead r) := .of h.parts

theorem execAdd_kept {c w} (h : Kept p s) : KeptNext p (execAdd c w s) := by
  cases w with
  | add f => exact .next h.rrrOp
  | unassigned word => exact .next (.ite h (h.runInsn h))

theorem execJ_kept {c off} (h : Kept p s) : KeptNext p (execJ c off s) :=
  .next (h.runInsn h.setCore)

theorem execJal_kept {c off} (h : Kept p s) : KeptNext p (execJal c off s) :=
  .next (h.runInsn h.setCore)

theorem execJalr_kept {c f} (h : Kept p s) : KeptNext p (execJalr c f s) :=
  .next (h.runInsn h.setCore)

theorem execVld_kept {c f} (h : Kept p s) : KeptNext p (execVld c f s) := by
  unfold execVld
  refine .next ?_
  refine h.runInsn ?_
  extract_lets k a
  split
  · exact h.checkAccess ‹_›
  · exact h.setCore

theorem execSw_kept {c f} (h : Kept p s) : KeptNext p (execSw c f s) := by
  unfold execSw
  refine .next (h.runInsn ?_)
  extract_lets k a v
  split
  · exact h.checkAccess ‹_›
  split
  · exact h.writeDram.setCore
  next off _ =>
  have hd : KeptDoor p (s.regDoor false off) := h.regDoor
  split
  next t e =>
    rw [e] at hd
    exact Kept.writeReg (Kept.setCore hd)
  next t e =>
    rw [e] at hd
    exact hd
  · exact h.setCore

theorem execVst_kept {c f} (h : Kept p s) : KeptNext p (execVst c f s) := by
  unfold execVst
  refine .next ?_
  refine h.runInsn ?_
  extract_lets k a
  split
  · exact h.checkAccess ‹_›
  · exact h.writeDram.setCore

theorem execVbcast_kept {c f} (h : Kept p s) : KeptNext p (execVbcast c f s) :=
  .next (h.runInsn h.setCore)

theorem execVins_kept {c f} (h : Kept p s) : KeptNext p (execVins c f s) :=
  .next (h.runInsn h.setCore)

theorem execMbar_kept {c f} (h : Kept p s) : KeptNext p (execMbar c f s) :=
  .next (h.runInsn h.setCore)

theorem execIbar_kept {c f} (h : Kept p s) : KeptNext p (execIbar c f s) :=
  .next (h.runInsn h.setCore)

theorem execSvc_kept {c f} (h : Kept p s) : KeptNext p (execSvc c f s) :=
  .next (h.runInsn (.ite (.ite h.raise.coreEnds h.raise.coreFails) h.raise))

theorem execBrk_kept {c f} (h : Kept p s) : KeptNext p (execBrk c f s) :=
  .next (h.runInsn h.raise)

theorem execTret_kept {c f} (h : Kept p s) : KeptNext p (execTret c f s) :=
  .next (h.runInsn (.ite h.raise h.setCore))

theorem execIdle_kept {c f} (h : Kept p s) : KeptNext p (execIdle c f s) :=
  .next (h.runInsn (.ite h.raise (.ite h.setCore h.setCore)))

theorem execIdleWake_kept {c} (h : Kept p s) : KeptNext p (execIdleWake c s) :=
  .next (.ite h.setCore h)

theorem execSub_kept {c f} (h : Kept p s) : KeptNext p (execSub c f s) := by
  unfold execSub
  extract_lets k cls
  split
  · exact .next h.raise
  refine .next (h.runInsn ?_)
  extract_lets a d zero issued r copy s1 s2
  clear_value d
  have h2 : Kept p s2 := h.writeDram.setRing
  split
  · exact h.checkAccess ‹_›
  · exact .ite (.ite h.raise (.ite h.setCore h.setCore))
      (.ite h.raise (.ite h.setCore (.ite h.setCore (.ite h.setCore h2.setCore))))

theorem execWtc_kept {c f} (h : Kept p s) : KeptNext p (execWtc c f s) := by
  unfold execWtc
  refine .next ?_
  refine h.runInsn ?_
  extract_lets k
  split
  · exact h.raise
  · split
    · exact h.setCore
    · exact h.setCore

theorem execWtcReturn_kept {c} (h : Kept p s) : KeptNext p (execWtcReturn c s) := by
  unfold execWtcReturn
  refine .next ?_
  split
  · split
    · exact .ite h.setCore h
    · exact h
  · exact h

theorem execTkp_kept {c f} (h : Kept p s) : KeptNext p (execTkp c f s) := by
  unfold execTkp
  refine .next ?_
  refine h.runInsn ?_
  extract_lets k
  split
  · exact h.raise
  · exact h.setCore

theorem execFnc_kept {c f} (h : Kept p s) : KeptNext p (execFnc c f s) :=
  .next (h.runInsn (.ite h.setCore h.setCore))

theorem execFncReturn_kept {c} (h : Kept p s) : KeptNext p (execFncReturn c s) := by
  unfold execFncReturn
  refine .next ?_
  split
  · exact .ite h.setCore h
  · exact h

theorem execGtc_kept {c f} (h : Kept p s) : KeptNext p (execGtc c f s) :=
  .next (h.runInsn h.setCore)

theorem execTakeInterrupt_kept {c} (h : Kept p s) : KeptNext p (execTakeInterrupt c s) := by
  unfold execTakeInterrupt
  refine .next ?_
  refine .ite ?_ h
  split
  · exact h.takeInterrupt
  · exact h

theorem execTimerInterrupt_kept {c} (h : Kept p s) : KeptNext p (execTimerInterrupt c s) :=
  .next (.ite (.of h.parts) h)

theorem execHalt_kept {w c} (h : Kept p s) : KeptNext p (execHalt w c s) :=
  .next (.ite h.requestHalt h)

theorem execResume_kept {w c} (h : Kept p s) : KeptNext p (execResume w c s) :=
  .next (.ite h.leaveHalt h)

theorem execSwiSet_kept {w cores} (h : Kept p s) : KeptNext p (execSwiSet w cores s) :=
  .next (.ite h.writeSwi h)

theorem execSwiClear_kept {w cores} (h : Kept p s) : KeptNext p (execSwiClear w cores s) :=
  .next (.ite h.writeSwi h)

theorem execRingEnable_kept {w value} (h : Kept p s) : KeptNext p (execRingEnable w value s) :=
  .next (.ite h.writeRingCfg h)

theorem execRingDisable_kept {w value} (h : Kept p s) : KeptNext p (execRingDisable w value s) :=
  .next (.ite h.writeRingCfg h)

theorem execRingDrained_kept {cls ring} (h : Kept p s) : KeptNext p (execRingDrained cls ring s) :=
  .next (.ite h.ringOff h)

theorem execDescriptorTake_kept {cls} (h : Kept p s) : KeptNext p (execDescriptorTake cls s) := by
  unfold execDescriptorTake
  refine .next ?_
  refine .ite ?_ h
  split
  · exact h.take
  · exact h

theorem execDescriptorComplete_kept {c t seen} (h : Kept p s) : KeptNext p (execDescriptorComplete c t seen s) := by
  unfold execDescriptorComplete
  refine .next ?_
  split
  · split
    · exact .ite h.completeTaken.watches.settleAll h
    · exact h
  · exact h

theorem execTkiPop_kept {w c} (h : Kept p s) : KeptNext p (execTkiPop w c s) :=
  .next (.ite (.of h.popTicket.parts) h)

theorem execSqTail_kept {qcn value stores} (h : Kept p s) : KeptNext p (execSqTail qcn value stores s) := by
  unfold execSqTail
  refine .next ?_
  refine .ite h ?_
  extract_lets s1
  have h1 : Kept p s1 := h.hostStores
  split
  · split
    · exact .ite h1.setCmdRing.rejectUnknown h1.discardDoorbell
    · exact h1
  · exact h1.discardDoorbell

theorem execCqHead_kept {qcn value} (h : Kept p s) : KeptNext p (execCqHead qcn value s) := by
  unfold execCqHead
  refine .next ?_
  refine .ite h ?_
  split
  · split
    · exact .ite h.setCmdRing.releaseEntries h.discardDoorbell
    · exact h
  · exact h.discardDoorbell

theorem execRecipeLoad_kept {src place} (h : Kept p s) : KeptNext p (execRecipeLoad src place s) := by
  unfold execRecipeLoad
  refine .next ?_
  refine .ite h ?_
  split
  · exact h
  · extract_lets addr len m t0 act handle s1 s2
    have h1 : Kept p s1 := .placeRecipe (h.takeCommand ‹_›)
    have h2 : Kept p s2 := by
      dsimp only [s2]
      split
      · exact h1.hostWrite
      · exact h1
    refine .ite (.completeCommand (h.takeCommand ‹_›)) (.ite (.completeCommand (h.takeCommand ‹_›)) ?_)
    split
    · exact .completeCommand (h.takeCommand ‹_›)
    · exact .ite (.completeCommand (h.takeCommand ‹_›)) (.ite (.completeCommand (h.takeCommand ‹_›)) h2.completeCommand)

theorem execRecipeLaunch_kept {src} (h : Kept p s) : KeptNext p (execRecipeLaunch src s) := by
  unfold execRecipeLaunch
  refine .next ?_
  split
  · exact h
  next ref e u he =>
  have ht : Kept p u := h.takeCommand he
  extract_lets handle b supplied start _
  split
  · exact ht.completeCommand
  extract_lets s1 s2 s3
  have h2 : Kept p s2 := ht.writeDram.foldl fun _ _ hu => hu.setCore
  have h3 : Kept p s3 := .of h2.parts
  exact .ite (ht.completeCommand) (.ite (ht.completeCommand) (.ite (ht.completeCommand) h3.completeCommand))

theorem execRecipeStart_kept {handle} (h : Kept p s) : KeptNext p (execRecipeStart handle s) := by
  unfold execRecipeStart
  refine .next ?_
  split
  · split
    · extract_lets s1
      have h1 : Kept p s1 := h.foldl fun _ _ ht => ht.setCore
      exact .ite (.of h1.parts) h
    · exact h
  · exact h

theorem execRecipeUnload_kept {src} (h : Kept p s) : KeptNext p (execRecipeUnload src s) := by
  unfold execRecipeUnload
  refine .next ?_
  split
  · exact h
  next ref e u he =>
  have ht : Kept p u := h.takeCommand he
  extract_lets handle
  split
  · exact ht.completeCommand
  extract_lets s1 s2 s3
  have h1 : Kept p s1 := .of ht.parts
  have h2 : Kept p s2 := .ite h1 (h1.foldl fun _ _ hu => hu.stopCore)
  exact .ite h1 (h2.unloadDeliveries.foldl fun _ _ hu => hu.discardRing).settleUnload

theorem execRecipeStatus_kept {src} (h : Kept p s) : KeptNext p (execRecipeStatus src s) := by
  unfold execRecipeStatus
  refine .next ?_
  split
  · exact h
  · split
    · exact .completeCommand (h.takeCommand ‹_›)
    · exact .completeCommand (h.takeCommand ‹_›)

theorem execCmdSpaceCreate_kept {src} (h : Kept p s) : KeptNext p (execCmdSpaceCreate src s) := by
  unfold execCmdSpaceCreate
  refine .next ?_
  refine .ite h ?_
  split
  · exact h
  · exact .createSpace (h.takeCommand ‹_›)

theorem execCmdSpaceDelete_kept {src} (h : Kept p s) : KeptNext p (execCmdSpaceDelete src s) := by
  unfold execCmdSpaceDelete
  refine .next ?_
  refine .ite h ?_
  split
  · exact h
  · extract_lets space
    exact .ite h (.deleteSpace (h.takeCommand ‹_›))

theorem execNsAttach_kept {src} (h : Kept p s) : KeptNext p (execNsAttach src s) := by
  unfold execNsAttach
  refine .next ?_
  split
  · exact h
  next ref e u he =>
  have ht : Kept p u := h.takeCommand he
  extract_lets n a ro _
  refine .ite (ht.completeCommand) (.ite (ht.completeCommand) ?_)
  split
  · exact ht.completeCommand
  extract_lets s1 changed s2
  have h1 : Kept p s1 := .of ht.parts
  have h2 : Kept p s2 := h1.foldl fun _ _ hu => .ite hu.raiseEvent hu
  exact h2.completeCommand

theorem execCaskGrant_kept {src} (h : Kept p s) : KeptNext p (execCaskGrant src s) := by
  unfold execCaskGrant
  refine .next ?_
  split
  · exact h
  · extract_lets sub g gs
    exact .ite (.endGrant (h.takeCommand ‹_›)) (.setGrants (h.takeCommand ‹_›))

theorem execGrantWithdraw_kept {src} (h : Kept p s) : KeptNext p (execGrantWithdraw src s) := by
  unfold execGrantWithdraw
  refine .next ?_
  split
  · exact h
  · exact .completeCommand (.foldl (.setGrants (h.takeCommand ‹_›)) fun _ _ ht => ht.endGrant)

theorem execFillList_kept {c t} (h : Kept p s) : KeptNext p (execFillList c t s) := by
  unfold execFillList
  refine .next ?_
  split
  · exact h
  · refine .ite h (.ite h.endClosed ?_)
    extract_lets begun s1
    have h1 : Kept p s1 := .ite h h.beginFill
    split
    · exact h1.tryFill
    · exact h1

theorem execPermute_kept {c t} (h : Kept p s) : KeptNext p (execPermute c t s) := by
  unfold execPermute
  refine .next ?_
  split
  · exact h
  · refine .ite h ?_
    split
    · exact h.finish
    · extract_lets given n first count epoch f rs bytes out s1 s2
      have h1 : Kept p s1 := h.count.count
      have h2 : Kept p s2 := h1.engineWrite
      exact .ite h.finish h2.finish

theorem execSpare_kept {c t peer} (h : Kept p s) : KeptNext p (execSpare c t peer s) := by
  unfold execSpare
  refine .next ?_
  split
  · exact h
  extract_lets list at_ epoch attempt
  refine .ite h (.ite h.endClosed ?_)
  split
  · split
    · exact h.finish
    refine .ite h.finish ?_
    split
    · exact h.engineWrite.finish
    split
    extract_lets s1 i
    have h1 : Kept p s1 := .ite h.count h.loadCatalog
    clear_value s1
    split
    · exact h1
    next e =>
    have ht := Kept.stageItem (Kept.countEntry h1) e
    split
    next e =>
    have hu := Kept.of_snd (.ite_snd ht (Kept.checkItem ht)) e
    extract_lets i spares used _
    split
    · exact hu
    · extract_lets s2 s3
      have h2 : Kept p s2 := .of hu.parts
      exact h2.showFetch.engineWrite.finish
  · exact h.finish

theorem execClose_kept {c t} (h : Kept p s) : KeptNext p (execClose c t s) := by
  unfold execClose
  refine .next ?_
  split
  · exact h
  · exact .ite h.closeStream.finish h

theorem execGristReadIssue_kept {rebuilt} (h : Kept p s) : KeptNext p (execGristReadIssue rebuilt s) := by
  unfold execGristReadIssue
  refine .next ?_
  refine .ite h ?_
  split
  · exact h
  · split
    · extract_lets v _ s1
      have h1 : Kept p s1 := .of h.parts
      refine .ite ?_ ?_
      · extract_lets s2
        have h2 : Kept p s2 := .ite h1.count.count h1.count.count.count
        split
        · exact .putItem (h2.countEntry.stageItem ‹_›)
        · exact h2
      · split
        · extract_lets i
          refine .ite h1.count.count.putItem (.ite h1.count.count.putItem ?_)
          split
          · exact h1.count.count.engineWrite.putItem
          · exact h1.count.count
        · extract_lets i
          exact h1.count.count.putItem
    · exact h

theorem execCatalogMiss_kept {ring} (h : Kept p s) : KeptNext p (execCatalogMiss ring s) := by
  unfold execCatalogMiss
  refine .next ?_
  split
  · exact h
  extract_lets want
  clear_value want
  refine .ite h ?_
  split
  · exact h.setFetchStream.loadCatalog
  · exact h

theorem execItemStaged_kept {ring pos peer} (h : Kept p s) : KeptNext p (execItemStaged ring pos peer s) := by
  unfold execItemStaged
  refine .next ?_
  split
  · exact h
  split
  · refine .ite h ?_
    split
    next e => exact .putItem (.of_snd h.checkItem e)
  · exact h

theorem execDecode_kept {c t} (h : Kept p s) : KeptNext p (execDecode c t s) := by
  unfold execDecode
  refine .next ?_
  split
  · exact .ite h.millRun h
  · exact h

theorem execProbe_kept {c t} (h : Kept p s) : KeptNext p (execProbe c t s) := by
  unfold execProbe
  refine .next ?_
  split
  · exact .ite h.millRun h
  · exact h

theorem execDecompress_kept {c t} (h : Kept p s) : KeptNext p (execDecompress c t s) := by
  unfold execDecompress
  refine .next ?_
  split
  · exact .ite h.kilnDecompress h
  · exact h

theorem execCompress_kept {c t mismatch} (h : Kept p s) : KeptNext p (execCompress c t mismatch s) := by
  unfold execCompress
  refine .next ?_
  split
  · exact .ite h.kilnCompress h
  · exact h

theorem execGfCombine_kept {c t} (h : Kept p s) : KeptNext p (execGfCombine c t s) := by
  unfold execGfCombine
  refine .next ?_
  split
  · exact .ite h.gfCombine h
  · exact h

theorem execTransform_kept {c t tileError} (h : Kept p s) : KeptNext p (execTransform c t tileError s) := by
  unfold execTransform
  refine .next ?_
  split
  · exact .ite h.transform h
  · exact h

theorem execScore_kept {c t tileError} (h : Kept p s) : KeptNext p (execScore c t tileError s) := by
  unfold execScore
  refine .next ?_
  split
  · exact .ite h.score h
  · exact h

theorem execModelLoad_kept {c t} (h : Kept p s) : KeptNext p (execModelLoad c t s) := by
  unfold execModelLoad
  refine .next ?_
  split
  · exact .ite h.modelLoad h
  · exact h

theorem execModelUnload_kept {c t} (h : Kept p s) : KeptNext p (execModelUnload c t s) := by
  unfold execModelUnload
  refine .next ?_
  split
  · exact .ite h.modelUnload h
  · exact h

theorem execFilter_kept {c t} (h : Kept p s) : KeptNext p (execFilter c t s) := by
  unfold execFilter
  refine .next ?_
  split
  · exact .ite h.filterRun h
  · exact h

theorem execLoadSet_kept {c t} (h : Kept p s) : KeptNext p (execLoadSet c t s) := by
  unfold execLoadSet
  refine .next ?_
  split
  · exact .ite h.loadSet h
  · exact h

theorem execSignature_kept {c t} (h : Kept p s) : KeptNext p (execSignature c t s) := by
  unfold execSignature
  refine .next ?_
  split
  · exact .ite h.signatureRun h
  · exact h

theorem execUnloadSet_kept {c t} (h : Kept p s) : KeptNext p (execUnloadSet c t s) := by
  unfold execUnloadSet
  refine .next ?_
  split
  · exact .ite h.unloadSet h
  · exact h

theorem execTokenize_kept {c t} (h : Kept p s) : KeptNext p (execTokenize c t s) := by
  unfold execTokenize
  refine .next ?_
  split
  · exact .ite h.tokenize h
  · exact h

theorem execVocabLoad_kept {c t} (h : Kept p s) : KeptNext p (execVocabLoad c t s) := by
  unfold execVocabLoad
  refine .next ?_
  split
  · exact .ite h.vocabLoad h
  · exact h

theorem execVocabUnload_kept {c t} (h : Kept p s) : KeptNext p (execVocabUnload c t s) := by
  unfold execVocabUnload
  refine .next ?_
  split
  · exact .ite h.vocabUnload h
  · exact h

theorem execPackSlots_kept {c t} (h : Kept p s) : KeptNext p (execPackSlots c t s) := by
  unfold execPackSlots
  refine .next ?_
  split
  · exact .ite h.packSlots h
  · exact h

theorem execPackRows_kept {c t} (h : Kept p s) : KeptNext p (execPackRows c t s) := by
  unfold execPackRows
  refine .next ?_
  split
  · exact .ite h.packRows h
  · exact h

theorem execMerge_kept {c t} (h : Kept p s) : KeptNext p (execMerge c t s) := by
  unfold execMerge
  refine .next ?_
  split
  · exact .ite h.mergeRun h
  · exact h

theorem execDiscard_kept {c t} (h : Kept p s) : KeptNext p (execDiscard c t s) := by
  unfold execDiscard
  refine .next ?_
  split
  · exact .ite h.discardRun h
  · exact h

theorem execPhysRead_kept {c t} (h : Kept p s) : KeptNext p (execPhysRead c t s) := by
  unfold execPhysRead
  refine .next ?_
  split
  · exact h
  extract_lets d plane mode block page inside s1 a
  have h1 : Kept p s1 := h.suspendDie
  clear_value s1 inside
  refine .ite h (.ite h.finish (.ite h.finish ?_))
  split
  next rs u e =>
  have hu : Kept p u := by
    refine .of_snd (.foldl_snd ?_ ?_) e
    · exact h1
    · exact fun _ _ hv => hv.physCodeword
  split
  next draw v e =>
  have hv : Kept p v := .of_snd hu.freshFree e
  exact hv.engineWrite.engineWrite.finish

theorem execChannelService_kept {c t best} (h : Kept p s) : KeptNext p (execChannelService c t best s) := by
  unfold execChannelService
  refine .next ?_
  split
  · exact h
  · extract_lets ch retrain target
    refine .ite h (.ite h.finish (.ite h.finish (.ite h (.ite h.calibrated.finish ?_))))
    split
    · extract_lets got s1
      have h1 : Kept p s1 := h.setChanRate.calibrated
      exact h1.finish
    · exact h.failChannel.finish

theorem execChannelTraining_kept {ch dies best} (h : Kept p s) : KeptNext p (execChannelTraining ch dies best s) := by
  unfold execChannelTraining
  refine .next ?_
  refine .ite h (.repopulate (.ite (.setChanRate (h.foldl fun _ _ ht => ?_)) ?_))
  · extract_lets d
    split
    · exact .of ht.parts
    · exact .of ht.parts
  · split
    · refine .setChanRate (h.foldl fun _ _ ht => ?_)
      extract_lets d
      split
      · exact .of ht.parts
      · exact .of ht.parts
    · refine .failChannel (h.foldl fun _ _ ht => ?_)
      extract_lets d
      split
      · exact .of ht.parts
      · exact .of ht.parts

theorem execCodewordRead_kept {die block page plane cw shows} (h : Kept p s) : KeptNext p (execCodewordRead die block page plane cw shows s) :=
  .next (.ite (.readCodeword (.of h.parts)) h)

theorem execStripeReconstruction_kept {die block page plane cw} (h : Kept p s) : KeptNext p (execStripeReconstruction die block page plane cw s) :=
  .next (.ite h.readCodeword h)

theorem execProgramDone_kept {gcStream m ok} (h : Kept p s) : KeptNext p (execProgramDone gcStream m ok s) := by
  unfold execProgramDone
  refine .next ?_
  split
  · exact h
  · split
    · exact h
    · extract_lets w s1 o ready o s2 hurt again o s3 s4 moved _ s5
      have h1 : Kept p s1 := h.programWords.count
      have h2 : Kept p s2 := h1.setStream.foldl fun _ _ ht => ht.reportUnit
      have h3 : Kept p s3 := h.setStream.errAdd
      have h4 : Kept p s4 := h3.errAdd
      have h5 : Kept p s5 := by
        dsimp only [s5]
        refine .ite ?_ h4
        split
        · exact .of h4.parts
        · exact h4
      split
      · exact h
      · exact .ite h (.ite (.ite h2.endRound h2) (.ite h5.retireBlock.endRound h5.retireBlock))

theorem execEraseDone_kept {m ok} (h : Kept p s) : KeptNext p (execEraseDone m ok s) := by
  unfold execEraseDone
  refine .next ?_
  split
  · exact h
  split
  · extract_lets e s1 s2 ms _ g
    have h1 : Kept p s1 := by
      dsimp only [s1]
      split
      · exact h.setDie
      · exact h
    have h2 : Kept p s2 := .ite h1.eraseBlock.count h1.errAdd.retireBlock
    exact .ite h (.ite h2.freeVictim (.of h2.parts))
  · exact h

theorem execDieTimeout_kept {die cleared answers} (h : Kept p s) : KeptNext p (execDieTimeout die cleared answers s) := by
  unfold execDieTimeout
  refine .next ?_
  split
  · exact .ite h (.ite h.setDie.dieDead h.setDie)
  · exact h

theorem execDieRebuild_kept (h : Kept p s) : KeptNext p (execDieRebuild s) := by
  unfold execDieRebuild
  refine .next ?_
  split
  · exact h
  extract_lets s1 s2 s3 s4 _
  have h2 : Kept p s2 := h.setFlag.setFld.setFlag
  have h3 : Kept p s3 := by
    refine h2.foldl fun t e ht => ?_
    split
    · exact ht.rebuildMember
    · exact ht
  have h4 : Kept p s4 := h3.setFld.setFlag
  exact .ite h (.of h4.parts)

theorem execPatrolRead_kept (h : Kept p s) : KeptNext p (execPatrolRead s) := by
  unfold execPatrolRead
  extract_lets period
  split
  extract_lets wraps late start
  refine .next ?_
  split
  · exact h
  extract_lets s1 s2 _ s3
  have h2 : Kept p s2 := .ite h.patrolOne.setFlag h.patrolOne
  have h3 : Kept p s3 := .of h2.parts
  exact .ite h h3.setFld

theorem execPeriodicCalibration_kept {ch} (h : Kept p s) : KeptNext p (execPeriodicCalibration ch s) :=
  .next (.ite h.calibrated h)

theorem execTempCalibration_kept {ch temp} (h : Kept p s) : KeptNext p (execTempCalibration ch temp s) :=
  .next (.ite h.calibrated h)

theorem execRead_kept {c t} (h : Kept p s) : KeptNext p (execRead c t s) := by
  unfold execRead
  refine .next ?_
  split
  · exact h
  · extract_lets space n lua
    refine .ite h (.ite h.finish (.ite h.finish ?_))
    split
    · exact h.finish
    · refine .ite h ?_
      split
      split
      extract_lets bytes s1 _ s2
      have h1 : Kept p s1 := .engineWrite (.of_snd (.freshFree (.of_snd h.readRun ‹_›)) ‹_›)
      have h2 : Kept p s2 := .of h1.parts
      split
      · exact h2.finish
      · exact h2.finish

theorem execWrite_kept {c t} (h : Kept p s) : KeptNext p (execWrite c t s) := by
  unfold execWrite
  refine .next ?_
  split
  · exact h
  · extract_lets space zero n lua buf s1 units
    have h1 : Kept p s1 := .ite h h.engineAccess
    refine .ite h (.ite h.finish (.ite h.finish ?_))
    split
    · exact h.finish
    · exact .ite h h1.beginWrite

theorem execTrim_kept {c t runs} (h : Kept p s) : KeptNext p (execTrim c t runs s) := by
  unfold execTrim
  refine .next ?_
  split
  · exact h
  · extract_lets space n lua
    refine .ite h (.ite h.finish ?_)
    split
    · exact h.finish
    · exact .ite h h.trimRuns

theorem execSpaceCreate_kept {c t} (h : Kept p s) : KeptNext p (execSpaceCreate c t s) := by
  unfold execSpaceCreate
  refine .next ?_
  split
  · exact h
  · exact .ite h (.ite h.finish h.createSpace)

theorem execSpaceDelete_kept {c t} (h : Kept p s) : KeptNext p (execSpaceDelete c t s) := by
  unfold execSpaceDelete
  refine .next ?_
  split
  · exact h
  · extract_lets space
    exact .ite h (.ite h.finish (.ite h h.deleteSpace))

theorem execSpaceWalk_kept {space} (h : Kept p s) : KeptNext p (execSpaceWalk space s) := by
  unfold execSpaceWalk
  refine .next ?_
  split
  · exact .ite (.of h.parts) h
  · exact h

theorem execSync_kept {c t} (h : Kept p s) : KeptNext p (execSync c t s) := by
  unfold execSync
  refine .next ?_
  split
  · exact h
  · extract_lets space
    exact .ite h (.ite h.finish (.ite h.finish (.ite h.finish h.beginSync)))

theorem execJournalPageProgram_kept {ok} (h : Kept p s) : KeptNext p (execJournalPageProgram ok s) :=
  .next (.ite h.programJournal h)

theorem execFillTimer_kept (h : Kept p s) : KeptNext p (execFillTimer s) :=
  .next (.ite h.setStream h)

theorem execMapPageRead_kept {page} (h : Kept p s) : KeptNext p (execMapPageRead page s) :=
  .next (.ite h.count.count.cachePage h)

theorem execMapWriteback_kept {page ok} (h : Kept p s) : KeptNext p (execMapWriteback page ok s) :=
  .next (.ite h.writeBack h)

theorem execCheckpoint_kept (h : Kept p s) : KeptNext p (execCheckpoint s) :=
  .next (.ite h.takeCheckpoint h)

theorem execBackgroundGc_kept (h : Kept p s) : KeptNext p (execBackgroundGc s) := by
  unfold execBackgroundGc
  refine .next ?_
  refine .ite h ?_
  split
  · exact .ite h.beginGc h
  · exact h

theorem execForegroundGc_kept (h : Kept p s) : KeptNext p (execForegroundGc s) := by
  unfold execForegroundGc
  refine .next ?_
  refine .ite h ?_
  split
  · split
    · extract_lets v q _ s1
      have h1 : Kept p s1 := .of h.parts
      exact h1.setFlag.setFlag
    · exact h
  · split
    · exact h.beginGc
    · exact h

theorem execGcMove_kept (h : Kept p s) : KeptNext p (execGcMove s) := by
  unfold execGcMove
  refine .next ?_
  split
  · exact h
  split
  · exact h
  split
  · exact .of h.parts
  extract_lets owner
  clear_value owner
  refine .ite h ?_
  split
  · exact .of h.parts
  split
  next r t e =>
  have ht : Kept p t := .of_snd h.readCodeword e
  split
  · exact ht
  · exact .pumpWrites (.fill (.of ht.parts))

theorem execVictimErase_kept (h : Kept p s) : KeptNext p (execVictimErase s) := by
  unfold execVictimErase
  refine .next ?_
  split
  · exact h
  · refine .ite h (.ite (.ite h.setStream h) ?_)
    split
    · exact .of h.parts
    · extract_lets ms s1
      have h1 : Kept p s1 := by
        dsimp only [s1]
        refine h.foldl fun _ _ ht => ?_
        split
        · exact .of ht.parts
        · exact ht
      exact .ite h1.freeVictim (.of h1.parts)

theorem execMount_kept {copies checkpoint} (h : Kept p s) : KeptNext p (execMount copies checkpoint s) := by
  unfold execMount
  refine .next ?_
  refine .ite h ?_
  split
  · exact .ite h.formatFlash h
  · exact .ite h.setFld h.recover

theorem execPortEnable_kept {w port value partner} (h : Kept p s) : KeptNext p (execPortEnable w port value partner s) :=
  .next (.ite h (.ite h.writePortCfg (h.writePortCfg.foldl fun _ _ ht => .ite ht.linkUpNow ht)))

theorem execLinkDown_kept {sub} (h : Kept p s) : KeptNext p (execLinkDown sub s) :=
  .next (.ite h.linkLost h)

theorem execLinkUp_kept {sub} (h : Kept p s) : KeptNext p (execLinkUp sub s) :=
  .next (.ite h.linkUpNow h)

theorem execPacketReceive_kept {q kib recycled} (h : Kept p s) : KeptNext p (execPacketReceive q kib recycled s) := by
  unfold execPacketReceive
  refine .next ?_
  extract_lets _ s1 s2 qpn qcn lossless
  have h1 : Kept p s1 := .of h.parts
  have h2 : Kept p s2 := h1.count.rxLevel
  clear_value s2
  exact .ite h (.ite (.of h2.parts) (.ite h2.errAdd (.ite h2.errAdd h2.packetIn)))

theorem execPfcRepeat_kept {sub kib} (h : Kept p s) : KeptNext p (execPfcRepeat sub kib s) :=
  .next (.ite h (.ite h.setSubport.sendPause (.ite h.setSubport.sendPause h.setSubport)))

theorem execPuntFrame_kept {sub frame} (h : Kept p s) : KeptNext p (execPuntFrame sub frame s) :=
  .next (.ite h (.ite h.errAdd (.of h.parts)))

theorem execCnpReceive_kept {qcn} (h : Kept p s) : KeptNext p (execCnpReceive qcn s) := by
  unfold execCnpReceive
  refine .next ?_
  split
  · exact .ite h h.cnpIn
  · exact h

theorem execRcRise_kept {sub service subscriber} (h : Kept p s) : KeptNext p (execRcRise sub service subscriber s) := by
  unfold execRcRise
  refine .next ?_
  extract_lets k q
  split
  · exact h
  · exact .ite h h.setQueue

theorem execPfcReceive_kept {sub prio quanta} (h : Kept p s) : KeptNext p (execPfcReceive sub prio quanta s) :=
  .next (.ite h (.ite h.count.endPause h.count.notePause.setSubport.showSubport))

theorem execPauseExpiry_kept {sub} (h : Kept p s) : KeptNext p (execPauseExpiry sub s) :=
  .next (.ite h.endPause h)

theorem execRetryTimeout_kept {qcn} (h : Kept p s) : KeptNext p (execRetryTimeout qcn s) := by
  unfold execRetryTimeout
  refine .next ?_
  split
  · split
    · exact .ite h (.ite h.qpError h.goBack)
    · exact h
  · exact h

theorem execInit_kept {w setup} (h : Kept p s) : KeptNext p (execInit w setup s) :=
  .next (.ite h.cmdInit h)

theorem execRtr_kept {w} (h : Kept p s) : KeptNext p (execRtr w s) :=
  .next (.ite h.cmdMove h)

theorem execRts_kept {w} (h : Kept p s) : KeptNext p (execRts w s) :=
  .next (.ite h.cmdMove h)

theorem execErr_kept {w} (h : Kept p s) : KeptNext p (execErr w s) :=
  .next (.ite h.cmdErr h)

theorem execReset_kept {w unbind} (h : Kept p s) : KeptNext p (execReset w unbind s) :=
  .next (.ite h.cmdReset h)

theorem execDeliver_kept {c t} (h : Kept p s) : KeptNext p (execDeliver c t s) := by
  unfold execDeliver
  refine .next ?_
  split
  · exact .ite h.deliverRun h
  · exact h

theorem execSealAcknowledged_kept {c t} (h : Kept p s) : KeptNext p (execSealAcknowledged c t s) := by
  unfold execSealAcknowledged
  refine .next ?_
  split
  · split
    · extract_lets open_ d
      exact .ite h h.setDelivery.post
    · exact h
  · exact h

theorem execRelease_kept {c t} (h : Kept p s) : KeptNext p (execRelease c t s) := by
  unfold execRelease
  refine .next ?_
  split
  · exact .ite h.endDelivery h
  · exact h

theorem execNoGrant_kept {c t} (h : Kept p s) : KeptNext p (execNoGrant c t s) := by
  unfold execNoGrant
  refine .next ?_
  split
  · exact .ite h.endDelivery h
  · exact h

theorem execReconRead_kept {c t} (h : Kept p s) : KeptNext p (execReconRead c t s) := by
  unfold execReconRead
  refine .next ?_
  split
  · exact .ite h.reconRun h
  · exact h

theorem execRegister_kept {c t} (h : Kept p s) : KeptNext p (execRegister c t s) := by
  unfold execRegister
  refine .next ?_
  split
  · extract_lets r e
    exact .ite h (.ite h.finish (.ite h.beginRevoke h.registerNow))
  · exact h

theorem execRevoke_kept {c t} (h : Kept p s) : KeptNext p (execRevoke c t s) := by
  unfold execRevoke
  refine .next ?_
  split
  · extract_lets r e
    exact .ite h.settleRevokes (.ite h.finish h.beginRevoke)
  · exact h

theorem execRevokeTimeout_kept {c t} (h : Kept p s) : KeptNext p (execRevokeTimeout c t s) := by
  unfold execRevokeTimeout
  refine .next ?_
  split
  · extract_lets rp held keep s1 s2 _
    have h1 : Kept p s1 := h.setRegion
    have h2 : Kept p s2 := h1.foldl fun _ _ ht => ht.qpError
    exact .ite h h2.setRegion.endRevoke
  · exact h

theorem execPacketSchedule_kept {sub} (h : Kept p s) : KeptNext p (execPacketSchedule sub s) := by
  unfold execPacketSchedule
  refine .next ?_
  refine .ite h ?_
  extract_lets port
  split
  · extract_lets s1 _
    have h1 : Kept p s1 := h.setSubport
    exact .count (.of h1.parts)
  · split
    · exact h.sendFrom
    · exact h

theorem execWheelRelease_kept (h : Kept p s) : KeptNext p (execWheelRelease s) :=
  .next (.ite h (.foldl (h.foldl fun _ _ ht => ht.setQueue.count) fun _ _ ht => ht.setNode.count))

theorem execQueueSample_kept (h : Kept p s) : KeptNext p (execQueueSample s) :=
  .next (.ite h (.foldl (.foldl (h.foldl fun _ _ ht => ht.setQueue) fun _ _ ht => ht.setNode) fun _ _ ht => ht.notePause))

theorem execQLatch_kept {w value} (h : Kept p s) : KeptNext p (execQLatch w value s) :=
  .next (.ite h.latchQueue h)

theorem execQDepthRead_kept (h : Kept p s) : KeptNext p (execQDepthRead s) :=
  .next (.ite (.of h.readDepth.parts) h)

theorem execQDelayRead_kept (h : Kept p s) : KeptNext p (execQDelayRead s) :=
  .next (.ite (.of h.readDelay.parts) h)

theorem execPerst_kept (h : Kept p s) : KeptNext p (execPerst s) :=
  .next (.ite h.hostReset h)

theorem execCreateIoSq_kept {fn} (h : Kept p s) : KeptNext p (execCreateIoSq fn s) := by
  unfold execCreateIoSq
  refine .next (h.adminCommand fun t e ht => ?_)
  extract_lets done qid size dw11 cqid
  have hdone {u st} (hu : Kept p u) : Kept p (done u st) := hu.nvmeComplete
  refine .ite (hdone ht) (.ite (hdone ht) (.ite (hdone ht) (.ite (hdone ht) ?_)))
  split
  · exact hdone ht
  next qcn u he =>
    have hu : Kept p u := ht.bindNvme he
    exact hdone (.of hu.parts)

theorem execCreateIoCq_kept {fn} (h : Kept p s) : KeptNext p (execCreateIoCq fn s) := by
  unfold execCreateIoCq
  refine .next (h.adminCommand fun t e ht => ?_)
  extract_lets done qid size dw11
  have hdone {u st} (hu : Kept p u) : Kept p (done u st) := hu.nvmeComplete
  refine .ite (hdone ht) (.ite (hdone ht) (.ite (hdone ht) ?_))
  split
  · exact hdone ht
  next qcn u he =>
    have hu : Kept p u := ht.bindNvme he
    exact hdone (.of hu.parts)

theorem execDeleteIoSq_kept {fn} (h : Kept p s) : KeptNext p (execDeleteIoSq fn s) := by
  unfold execDeleteIoSq
  refine .next (h.adminCommand fun t e ht => ?_)
  extract_lets qid
  split
  · extract_lets s1 s2
    have h1 : Kept p s1 := ht.freeQueue
    exact .nvmeComplete (.of h1.parts)
  · exact ht.nvmeComplete

theorem execDeleteIoCq_kept {fn} (h : Kept p s) : KeptNext p (execDeleteIoCq fn s) := by
  unfold execDeleteIoCq
  refine .next (h.adminCommand fun t e ht => ?_)
  extract_lets qid
  split
  · extract_lets s1 s2
    have h1 : Kept p s1 := ht.freeQueue
    exact .ite ht.nvmeComplete (.nvmeComplete (.of h1.parts))
  · exact ht.nvmeComplete

theorem execGetLogPage_kept {fn} (h : Kept p s) : KeptNext p (execGetLogPage fn s) := by
  unfold execGetLogPage
  refine .next (h.adminCommand fun t e ht => ?_)
  extract_lets lid len off supported
  split
  next page u e =>
  have hu : Kept p u := .of_snd (.ite_snd ht (.ite_snd ht (.ite_snd ht.openPage ht.openPage))) e
  exact .ite hu.prpWrite.nvmeComplete hu.nvmeComplete

theorem execIdentify_kept {fn} (h : Kept p s) : KeptNext p (execIdentify fn s) := by
  unfold execIdentify
  refine .next (h.adminCommand fun t e ht => ?_)
  extract_lets cns nsid send states ids
  have hsend {u bs} (hu : Kept p u) : Kept p (send u bs) := hu.prpWrite.nvmeComplete
  refine .ite ?_ (.ite ?_ (.ite (hsend ht) (.ite ?_ ht.nvmeComplete)))
  · split
    · extract_lets n
      split
      next e => exact hsend (.of_snd ht.openPage e)
    · exact .ite ht.nvmeComplete (hsend ht)
  · split
    next e => exact hsend (.of_snd ht.openPage e)
  · split
    · split
      next e => exact hsend (.of_snd ht.openPage e)
    · exact ht.nvmeComplete

theorem execAbort_kept {fn} (h : Kept p s) : KeptNext p (execAbort fn s) :=
  .next (h.adminCommand fun _ _ ht => ht.nvmeComplete)

theorem execSetFeatures_kept {fn} (h : Kept p s) : KeptNext p (execSetFeatures fn s) := by
  unfold execSetFeatures
  refine .next (h.adminCommand fun t e ht => ?_)
  extract_lets fid v done
  have hdone {u dw0 st} (hu : Kept p u) : Kept p (done u dw0 st) := hu.nvmeComplete
  split
  · exact ht
  · exact .ite (hdone ht) (.ite (hdone ht) (.ite (hdone ht) (hdone ht.setController)))

theorem execGetFeatures_kept {fn} (h : Kept p s) : KeptNext p (execGetFeatures fn s) := by
  unfold execGetFeatures
  refine .next (h.adminCommand fun t e ht => ?_)
  extract_lets fid
  split
  · exact ht
  · exact .ite ht.nvmeComplete (.nvmeComplete (.ite ht.prpWrite ht))

theorem execAsynchronousEventRequest_kept {fn} (h : Kept p s) : KeptNext p (execAsynchronousEventRequest fn s) := by
  unfold execAsynchronousEventRequest
  refine .next (h.adminCommand fun t e ht => ?_)
  split
  · exact ht
  split
  · exact ht.setController.nvmeComplete
  · exact .ite ht.nvmeComplete ht.setController

theorem execFirmwareImageDownload_kept {src offset data} (h : Kept p s) : KeptNext p (execFirmwareImageDownload src offset data s) := by
  cases src with
  | nvme => exact .next (h.adminCommand fun t e ht => ht.stageBytes.fwComplete)
  | manager cid => exact .next h.stageBytes.fwComplete

theorem execFirmwareCommit_kept {src fs ca} (h : Kept p s) : KeptNext p (execFirmwareCommit src fs ca s) := by
  unfold execFirmwareCommit
  refine .next ?_
  split
  · exact h.adminCommand fun _ _ ht => ht.fwCommit
  · exact h.fwCommit

theorem execImageWriteDone_kept {ok loaderOk} (h : Kept p s) : KeptNext p (execImageWriteDone ok loaderOk s) := by
  unfold execImageWriteDone
  refine .next ?_
  split
  · exact h
  · exact .ite h.imageWritten (.ite h.setSec h.imageLost)

theorem execCreateCommandRing_kept (h : Kept p s) : KeptNext p (execCreateCommandRing s) := by
  unfold execCreateCommandRing
  refine .next (h.adminCommand fun t e ht => ?_)
  extract_lets cid entries ok
  split
  · exact .ite ht.nvmeComplete (.nvmeComplete (.setCmdRing (.of ht.parts)))
  · exact ht.nvmeComplete

theorem execDeleteCommandRing_kept (h : Kept p s) : KeptNext p (execDeleteCommandRing s) := by
  unfold execDeleteCommandRing
  refine .next (h.adminCommand fun t e ht => ?_)
  extract_lets qcn
  split
  · exact ht.nvmeComplete
  split
  · exact ht
  · exact .settleDelete (.setCmdRing (ht.foldl fun _ _ hu => hu.withdraw))

theorem execNvmeFlush_kept {fn} (h : Kept p s) : KeptNext p (execNvmeFlush fn s) :=
  .next (h.ioCommand fun _ _ _ ht => .ite ht.nvmeComplete (.ite ht.beginSync (.ite ht.nvmeComplete ht.beginSync)))

theorem execNvmeWrite_kept {fn} (h : Kept p s) : KeptNext p (execNvmeWrite fn s) := by
  unfold execNvmeWrite
  refine .next (h.ioCommand fun t q e ht => ?_)
  extract_lets n
  refine .ite ht.nvmeComplete ?_
  split
  · exact ht.nvmeComplete
  · exact ht.count.beginWrite

theorem execNvmeRead_kept {fn} (h : Kept p s) : KeptNext p (execNvmeRead fn s) := by
  unfold execNvmeRead
  refine .next (h.ioCommand fun t q e ht => ?_)
  extract_lets n done
  have hdone {u st} (hu : Kept p u) : Kept p (done u st) := hu.nvmeComplete
  refine .ite (hdone ht) ?_
  split
  · exact hdone ht
  split
  next us u e =>
  have hu : Kept p u := .of_snd ht.readRun e
  split
  next draw v e =>
  have hv : Kept p v := .of_snd hu.freshFree e
  extract_lets bytes s1 _ s2
  have h1 : Kept p s1 := hv.prpWrite.count
  have h2 : Kept p s2 := .of h1.parts
  exact hdone h2

theorem execWriteZeroes_kept {fn} (h : Kept p s) : KeptNext p (execWriteZeroes fn s) := by
  unfold execWriteZeroes
  refine .next (h.ioCommand fun t q e ht => ?_)
  extract_lets n
  split
  · exact ht.nvmeComplete
  · exact ht.beginWrite

theorem execDatasetManagement_kept {fn runs} (h : Kept p s) : KeptNext p (execDatasetManagement fn runs s) := by
  unfold execDatasetManagement
  refine .next (h.ioCommand fun t q e ht => ?_)
  extract_lets done n b ranges recs s1 _ s2
  have hdone {u st} (hu : Kept p u) : Kept p (done u st) := hu.nvmeComplete
  have h1 : Kept p s1 := ht.count
  have h2 : Kept p s2 := .of h1.parts
  split
  · exact hdone ht
  refine .ite (hdone ht) ?_
  split
  · exact hdone ht
  · exact .ite (hdone h2) h2.recordFor

theorem execControllerReset_kept {fn} (h : Kept p s) : KeptNext p (execControllerReset fn s) := by
  unfold execControllerReset
  refine .next ?_
  refine .ite h ?_
  split
  · exact h.dropController
  · exact h.foldl fun _ _ ht => ht.dropController

theorem execApst_kept {fn} (h : Kept p s) : KeptNext p (execApst fn s) := by
  unfold execApst
  refine .next ?_
  split
  · exact h
  · extract_lets entry ms target idle
    exact .ite h.setController h

theorem execPowerStateChange_kept (h : Kept p s) : KeptNext p (execPowerStateChange s) :=
  .next (.ite h (.ite (.ite h.leaveMs3 h.setMode) (.ite (.ite h h.enterMs3) h.decideMs4)))

theorem execHostDeliver_kept {c t fails} (h : Kept p s) : KeptNext p (execHostDeliver c t fails s) := by
  unfold execHostDeliver
  refine .next ?_
  split
  · exact h
  · refine .ite h ?_
    split
    · exact h.hostDeliverStart
    · split
      · exact h.hostDeliverPayload
      · exact h.hostDeliverSeal

theorem execCopy_kept {c t} (h : Kept p s) : KeptNext p (execCopy c t s) := by
  unfold execCopy
  refine .next ?_
  split
  · exact h
  · extract_lets n b len s1
    have h1 : Kept p s1 := h.setTransfer
    exact .ite h (.ite h.finish (.ite h.count.finish (.ite h.finish h1.setDmaRun)))

theorem execGo_kept {w n} (h : Kept p s) : KeptNext p (execGo w n s) :=
  .next (.ite h.dmaGo h)

theorem execDmaBurst_kept {fails} (h : Kept p s) : KeptNext p (execDmaBurst fails s) := by
  unfold execDmaBurst
  refine .next ?_
  refine .ite h ?_
  split
  · exact h
  · split
    · exact h
    · extract_lets others s1 s2 _ s3 s4
      have h1 : Kept p s1 := by
        dsimp only [s1]
        refine h.foldl fun _ _ ht => ?_
        split
        · exact .setFlag (.of ht.parts)
        · exact ht
      have h2 : Kept p s2 := h1.setDmaRun
      have h3 : Kept p s3 := .of h2.parts
      have h4 : Kept p s4 := h3.count
      exact h4.dmaMove

theorem execDmaTransferDone_kept {n} (h : Kept p s) : KeptNext p (execDmaTransferDone n s) := by
  unfold execDmaTransferDone
  refine .next ?_
  split
  · exact h
  · refine .ite h ?_
    split
    · extract_lets s1
      have h1 : Kept p s1 := h.dropDmaRun
      split
      · exact h1.count.finish
      · exact h1
    · extract_lets s1
      have h1 : Kept p s1 := h.dropDmaRun.count
      exact .ite h1.dmaDone.loadShadow.dmaStart h1.dmaDone

theorem execPause_kept {w n} (h : Kept p s) : KeptNext p (execPause w n s) :=
  .next (.ite h.dmaPause h)

theorem execPauseClear_kept {w n} (h : Kept p s) : KeptNext p (execPauseClear w n s) :=
  .next (.ite h.dmaResume h)

theorem execValid_kept {w n} (h : Kept p s) : KeptNext p (execValid w n s) :=
  .next (.ite h.setFlag h)

theorem execPoolEnable_kept {w n value} (h : Kept p s) : KeptNext p (execPoolEnable w n value s) :=
  .next (.ite h.writePoolCfg h)

theorem execFreeListBuilt_kept {n} (h : Kept p s) : KeptNext p (execFreeListBuilt n s) :=
  .next (.ite h (.setPoolFree (.setFlag (h.foldl fun _ _ ht => ht.writeDram))))

theorem execPoolDisable_kept {w n value} (h : Kept p s) : KeptNext p (execPoolDisable w n value s) :=
  .next (.ite h.writePoolCfg h)

theorem execAlloc_kept {c t} (h : Kept p s) : KeptNext p (execAlloc c t s) := by
  unfold execAlloc
  refine .next ?_
  split
  · exact .ite h.allocRun h
  · exact h

theorem execFree_kept {c t} (h : Kept p s) : KeptNext p (execFree c t s) := by
  unfold execFree
  refine .next ?_
  split
  · exact .ite h.freeRun h
  · exact h

theorem execLeaseRenewal_kept (h : Kept p s) : KeptNext p (execLeaseRenewal s) :=
  .next (.ite h.setSystem.tell h)

theorem execLeaseGrant_kept {requested granted lease term} (h : Kept p s) : KeptNext p (execLeaseGrant requested granted lease term s) :=
  .next (.ite (.ite h.setSystem h.setSystem.setReg.writeLease.unfence) h)

theorem execFence_kept (h : Kept p s) : KeptNext p (execFence s) :=
  .next (.ite h.setFenced h)

theorem execUnfence_kept {w} (h : Kept p s) : KeptNext p (execUnfence w s) :=
  .next (.ite h.unfence h)

theorem execLeaseExpiryWrite_kept {w value} (h : Kept p s) : KeptNext p (execLeaseExpiryWrite w value s) :=
  .next (.ite h.writeLeaseHi h)

theorem execWorkerDead_kept {worker spare group place lastGrant} (h : Kept p s) : KeptNext p (execWorkerDead worker spare group place lastGrant s) :=
  .next (.ite h.setSystem.tell h)

theorem execManagerTakeover_kept {grants} (h : Kept p s) : KeptNext p (execManagerTakeover grants s) :=
  .next (.ite (.ite h.tell.setReg.setSystem h.tell) h)

theorem execPtpExchange_kept {offset rate} (h : Kept p s) : KeptNext p (execPtpExchange offset rate s) := by
  unfold execPtpExchange
  extract_lets w s1 _ y y'
  have h1 : Kept p s1 := h.setReg.setReg.count
  exact .next (.ite h (.ite (.ite h1.setSystem.setFld.makeStep h1.setSystem.setFld) (.ite h1.setSystem.makeStep h1.setSystem.trackOffset)))

theorem execHoldover_kept (h : Kept p s) : KeptNext p (execHoldover s) := by
  unfold execHoldover
  refine .next ?_
  split
  · exact .ite h.setSystem.setFld h
  · exact h

theorem execDropMap_kept {epoch block positions maps} (h : Kept p s) : KeptNext p (execDropMap epoch block positions maps s) :=
  .next (.ite h.setSystem.tell h)

theorem execBackupStart_kept {group seq place firstOffer delay node recovered} (h : Kept p s) :
    KeptNext p (execBackupStart group seq place firstOffer delay node recovered s) :=
  .next (.ite h.setSystem.tell h.setSystem)

theorem execCheckPreparation_kept {seq part} (h : Kept p s) : KeptNext p (execCheckPreparation seq part s) := by
  unfold execCheckPreparation
  refine .next ?_
  split
  · exact .ite h.tell.dropPart h
  · exact h

theorem execDigestMismatch_kept {seq part first second third delivered qcn} (h : Kept p s) :
    KeptNext p (execDigestMismatch seq part first second third delivered qcn s) := by
  unfold execDigestMismatch
  refine .next ?_
  refine .ite h ?_
  extract_lets y name
  split
  · exact .ite h h.setSystem.tell
  · refine .ite h ?_
    extract_lets loser s1 s2
    have h1 : Kept p s1 := h.setSystem
    have h2 : Kept p s2 := h1.tell
    split
    · exact .ite h2.post h2
    · exact h2

theorem execColdStart_kept {chans dram eepromOk loaderOk} (h : Kept p s) : KeptNext p (execColdStart chans dram eepromOk loaderOk s) := by
  unfold execColdStart
  refine .next ?_
  split
  · exact .ite h.attestStart.showSec.beginLadder h
  · exact .ite h.releasePolders.setFld.trainDram.startLoader h
  · exact h

theorem execLadderStep_kept (h : Kept p s) : KeptNext p (execLadderStep s) := by
  unfold execLadderStep
  refine .next ?_
  split
  · exact .ite h (.ite (.ite h h.setPower.count) h.setPower.setPolder)
  · exact h

theorem execWarmReset_kept {w value loaderOk} (h : Kept p s) : KeptNext p (execWarmReset w value loaderOk s) :=
  .next (.ite h.finishWarm h.writeWarm)

theorem execCoreReset_kept {w c} (h : Kept p s) : KeptNext p (execCoreReset w c s) :=
  .next (.ite h.writeCoreRst h)

theorem execCoreRelease_kept {w c} (h : Kept p s) : KeptNext p (execCoreRelease w c s) :=
  .next (.ite h.writeCoreRst h)

theorem execPadRelease_kept {w polders} (h : Kept p s) : KeptNext p (execPadRelease w polders s) :=
  .next (.ite h.releasePads h)

theorem execClockStop_kept {w polder stop} (h : Kept p s) : KeptNext p (execClockStop w polder stop s) := by
  unfold execClockStop
  refine .next ?_
  refine .ite ?_ h
  split
  · exact h.writeStop
  · exact h

theorem execClockSourceSwitch_kept {w polder pll} (h : Kept p s) : KeptNext p (execClockSourceSwitch w polder pll s) := by
  unfold execClockSourceSwitch
  refine .next ?_
  refine .ite ?_ h
  split
  · exact h.writeSrc
  · exact h

theorem execOppChange_kept {w polder opp} (h : Kept p s) : KeptNext p (execOppChange w polder opp s) := by
  unfold execOppChange
  refine .next ?_
  refine .ite ?_ h
  split
  · exact h.writeOpp
  · exact h

theorem execPowerGovernor_kept {input nand} (h : Kept p s) : KeptNext p (execPowerGovernor input nand s) := by
  unfold execPowerGovernor
  extract_lets s1 x mode cap
  have h1 : Kept p s1 := h.setFld.setFld
  refine .next (.ite h1.setPower.applyOpps (.ite ?_ (.ite (.ite (.ite h1.setPower h1.setPower.applyOpps) h1.setPower) h1.setPower)))
  split
  · exact h1.setPower.applyOpp
  · exact h1.setPower

theorem execClockStretch_kept {polder} (h : Kept p s) : KeptNext p (execClockStretch polder s) := by
  unfold execClockStretch
  refine .next ?_
  split
  · exact .ite h.count h
  · exact h

theorem execMs3Entry_kept (h : Kept p s) : KeptNext p (execMs3Entry s) :=
  .next (.ite h.enterMs3 h)

theorem execMs3Exit_kept (h : Kept p s) : KeptNext p (execMs3Exit s) :=
  .next (.ite h.leaveMs3 h)

theorem execMs4Entry_kept (h : Kept p s) : KeptNext p (execMs4Entry s) := by
  unfold execMs4Entry
  refine .next ?_
  split
  · exact .ite h.decideMs4 h
  · exact .ite h.sleep h
  · exact h

theorem execMs4Exit_kept {eccError loaderOk} (h : Kept p s) : KeptNext p (execMs4Exit eccError loaderOk s) := by
  unfold execMs4Exit
  refine .next ?_
  split
  · exact .ite h.beginExit h
  · exact .ite h (.ite h.endExit.restoreSave h.setFlag.errAdd.endExit.warmReset)
  · exact h

theorem execSidebandMatch_kept {addr} (h : Kept p s) : KeptNext p (execSidebandMatch addr s) := by
  unfold execSidebandMatch
  refine .next ?_
  refine .ite h ?_
  split
  · exact h.wake
  · exact h.wake
  · exact h.setPower
  · exact h

theorem execPcieWake_kept (h : Kept p s) : KeptNext p (execPcieWake s) := by
  unfold execPcieWake
  refine .next ?_
  refine .ite h ?_
  split
  · exact h.wake
  · exact h.wake
  · exact .ite h.wake.leaveMs3 h
  · exact h

theorem execGtcWake_kept (h : Kept p s) : KeptNext p (execGtcWake s) := by
  unfold execGtcWake
  refine .next ?_
  refine .ite ?_ h
  split
  · exact h.wake
  · exact h.wake
  · exact .ite h.wake.leaveMs3 h
  · exact h

theorem execInputStart_kept (h : Kept p s) : KeptNext p (execInputStart s) :=
  .next (.ite h.coldReset h)

theorem execDip_kept (h : Kept p s) : KeptNext p (execDip s) :=
  .next (.ite h.count.abandonTest h)

theorem execFlushEnd_kept (h : Kept p s) : KeptNext p (execFlushEnd s) := by
  unfold execFlushEnd
  refine .next ?_
  split
  · exact h
  · exact .ite (.ite h.shed h) h.writeFlush.setPolder.count.setPower.showBank

theorem execPostFlushRestart_kept {recovered} (h : Kept p s) : KeptNext p (execPostFlushRestart recovered s) :=
  .next (.ite (.ite h.coldReset h.setPhase) h)

theorem execBankSample_kept {vbank vin iin} (h : Kept p s) : KeptNext p (execBankSample vbank vin iin s) := by
  unfold execBankSample
  refine .next ?_
  refine .ite h ?_
  extract_lets v s1 hu
  have h1 : Kept p s1 := h.setFld.setFld.setFld
  split
  · split
    · extract_lets s2
      have h2 : Kept p s2 := .ite h1.setFlag h1
      exact h2.setLimit.showBank
    · exact h1.setLimit.showBank
  · exact h1.setLimit.showBank

theorem execCapacitorTest_kept (h : Kept p s) : KeptNext p (execCapacitorTest s) :=
  .next (.ite h.setPower.setLimit.showBank h)

theorem execTestLoadConnect_kept {drop} (h : Kept p s) : KeptNext p (execTestLoadConnect drop s) := by
  unfold execTestLoadConnect
  refine .next ?_
  split
  · exact .ite h (.ite h.setPower.setFld.showBank (.ite h.setPower.setFlag.count.setLimit.showBank h))
  · exact h

theorem execTestLoadDisconnect_kept (h : Kept p s) : KeptNext p (execTestLoadDisconnect s) := by
  unfold execTestLoadDisconnect
  refine .next ?_
  split
  · split
    · extract_lets ns _ s1 s2
      have h1 : Kept p s1 := h.setPower
      have h2 : Kept p s2 := h.setPower
      refine .ite h ?_
      split
      · exact h1.setFld.setLimit.showBank
      · exact h2.setFlag.errAdd.showBank
    · exact h
  · exact h

theorem execTestEnd_kept (h : Kept p s) : KeptNext p (execTestEnd s) := by
  unfold execTestEnd
  refine .next ?_
  split
  · exact .ite h (.ite h.setPower.setFlag.setFlag.setFlag.count.showBank.doubt h.setPower.setFlag.setFlag.setFlag.count.showBank)
  · exact h

theorem execCapacitorTestRequest_kept {w} (h : Kept p s) : KeptNext p (execCapacitorTestRequest w s) :=
  .next (.ite h.askTest h)

theorem execThermalThrottle_kept {temp} (h : Kept p s) : KeptNext p (execThermalThrottle temp s) := by
  unfold execThermalThrottle
  refine .next ?_
  refine .ite ?_ (.ite (.ite (.ite h.setPower h.setPower.applyOpps) h.setPower) h.setPower)
  split
  · exact h.setPower.applyOpp
  · exact h.setPower

theorem execThermalPowerOff_kept {temp} (h : Kept p s) : KeptNext p (execThermalPowerOff temp s) :=
  .next (.ite h.powerOff h)

theorem execRestartWrite_kept {w n value} (h : Kept p s) : KeptNext p (execRestartWrite w n value s) :=
  .next (.ite h.writeRestart h)

theorem execGtcNowRead_kept {high} (h : Kept p s) : KeptNext p (execGtcNowRead high s) := by
  unfold execGtcNowRead
  exact .next (.answerRead (.ite_snd h.readNowHi h.readNowLo))

theorem execClock_kept {polder} (h : Kept p s) : KeptNext p (execClock polder s) :=
  .next (.ite h.doubt h.setFlag.errAdd.doubt)

theorem execWatchdog_kept {c} (h : Kept p s) : KeptNext p (execWatchdog c s) :=
  .next (.ite (.doubt (.of h.parts)) h)

theorem execHsmAbort_kept {polder machine work} (h : Kept p s) : KeptNext p (execHsmAbort polder machine work s) := by
  unfold execHsmAbort
  refine .next ?_
  split
  · exact h.doubt.abortTaken
  · exact h.doubt

theorem execKick_kept {w cores} (h : Kept p s) : KeptNext p (execKick w cores s) :=
  .next (.ite h.kick h)

theorem execClear_kept {w units} (h : Kept p s) : KeptNext p (execClear w units s) :=
  .next (.ite h.clearUnits h)

theorem execLatch_kept {w unit} (h : Kept p s) : KeptNext p (execLatch w unit s) :=
  .next (.ite h.latch h)

theorem execSelfTestRequest_kept {w cls unit} (h : Kept p s) : KeptNext p (execSelfTestRequest w cls unit s) :=
  .next (.ite h.requestTest h)

theorem execRetire_kept {w cls unit} (h : Kept p s) : KeptNext p (execRetire w cls unit s) :=
  .next (.ite h.requestTest h)

theorem execSelfTest_kept {passes} (h : Kept p s) : KeptNext p (execSelfTest passes s) := by
  unfold execSelfTest
  refine .next ?_
  split
  · extract_lets _ s1 s2 s3
    have h1 : Kept p s1 := .setFlag (.of h.parts)
    have h2 : Kept p s2 := .ite h1.setReg h1
    have h3 : Kept p s3 := .ite h2.failChannel h2
    exact .ite h2.setFld.setRotation.count h3.setFld.errAdd.logFault
  · split
    · exact h
    · extract_lets s1 _ s2 s3
      have h1 : Kept p s1 := h.setTests.setRotation
      have h2 : Kept p s2 := .of h1.parts
      have h3 : Kept p s3 := .ite h2.setFlag.setFld.setFld h2
      exact .ite h h3.setFlag.setFld.setFld

theorem execReplayRequest_kept {ev} (h : Kept p s) : KeptNext p (execReplayRequest ev s) := by
  unfold execReplayRequest
  refine .next ?_
  split
  · exact .ite h.requestReplay h
  · extract_lets differs r _ s1 s2
    have h1 : Kept p s1 := .count (.of h.parts)
    have h2 : Kept p s2 := .ite h1.count h1
    exact .ite h2.endReplay h2
  · exact .ite h h.endReplay
  · exact h

theorem execIdcode_kept (h : Kept p s) : KeptNext p (execIdcode s) :=
  .next (.ite h.setDap h)

theorem execBypass_kept {ir} (h : Kept p s) : KeptNext p (execBypass ir s) :=
  .next (.ite h.setDap h)

theorem execTraceSync_kept (h : Kept p s) : KeptNext p (execTraceSync s) :=
  .next (.ite h.emit h)

theorem execArm_kept {w} (h : Kept p s) : KeptNext p (execArm w s) :=
  .next (.ite h.arm h)

theorem execFire_kept {w} (h : Kept p s) : KeptNext p (execFire w s) :=
  .next (.ite h.trigger h)

theorem execFrozen_kept (h : Kept p s) : KeptNext p (execFrozen s) :=
  .next (.ite h.setFlag h)

theorem execMark_kept {w value} (h : Kept p s) : KeptNext p (execMark w value s) :=
  .next (.ite h.mark h)

theorem execTracePortSend_kept (h : Kept p s) : KeptNext p (execTracePortSend s) := by
  unfold execTracePortSend
  refine .next ?_
  refine .ite h ?_
  split
  · exact .portSend (.errAdd (.of h.parts))
  · exact .ite h (.portSend (.of h.parts))

theorem execAttest_kept {w} (h : Kept p s) : KeptNext p (execAttest w s) :=
  .next (.ite h.attest h)

theorem execReadCert_kept {w} (h : Kept p s) : KeptNext p (execReadCert w s) :=
  .next (.ite h.readCert h)

theorem execDbgChallenge_kept {w} (h : Kept p s) : KeptNext p (execDbgChallenge w s) :=
  .next (.ite h.debugChallenge h)

theorem execDbgUnlock_kept {w} (h : Kept p s) : KeptNext p (execDbgUnlock w s) :=
  .next (.ite h.debugUnlock h)

theorem execTokenRefill_kept (h : Kept p s) : KeptNext p (execTokenRefill s) :=
  .next (.ite h h.setSec.setFld)

theorem execSvnCommit_kept {w} (h : Kept p s) : KeptNext p (execSvnCommit w s) :=
  .next (.ite h.commitSvn h)

theorem execActivationArm_kept {w value} (h : Kept p s) : KeptNext p (execActivationArm w value s) :=
  .next (.ite h.armActivation h)

theorem execDisarm_kept {w} (h : Kept p s) : KeptNext p (execDisarm w s) :=
  .next (.ite h.disarm h)

theorem execActivation_kept {loaderOk} (h : Kept p s) : KeptNext p (execActivation loaderOk s) :=
  .next (.ite h.setFenced.warmReset h)

theorem execRegisterWrite_kept {w off value} (h : Kept p s) : KeptNext p (execRegisterWrite w off value s) := by
  unfold execRegisterWrite
  extract_lets a
  refine .next (.ite h ?_)
  have hd : KeptDoor p (s.regDoor (w == .host) a) := h.regDoor
  split
  next t e =>
    rw [e] at hd
    exact Kept.writeReg hd
  next t e =>
    rw [e] at hd
    exact hd
  · exact h

theorem execPowerOnCommand_kept (h : Kept p s) : KeptNext p (execPowerOnCommand s) :=
  .next (.ite h.coldReset h)

theorem execPllLock_kept {polder} (h : Kept p s) : KeptNext p (execPllLock polder s) := by
  unfold execPllLock
  refine .next ?_
  split
  · exact .ite h.setFlag.setPower h
  · exact h

theorem execManagementMailboxRead_kept {c} (h : Kept p s) : KeptNext p (execManagementMailboxRead c s) :=
  .next (.ite (.of h.parts) (.ite (.of h.parts) h))

theorem execInputHigh_kept (h : Kept p s) : KeptNext p (execInputHigh s) :=
  .next (.ite h.setFlag h)

theorem execNandOverload_kept (h : Kept p s) : KeptNext p (execNandOverload s) :=
  .next (.ite h.setFlag.errAdd h)

theorem execPcieLinkTrained_kept {speed width flit vfs payload} (h : Kept p s) :
    KeptNext p (execPcieLinkTrained speed width flit vfs payload s) := by
  unfold execPcieLinkTrained
  extract_lets sp s1 _
  have h1 : Kept p s1 := h.setReg
  clear_value s1
  exact .next (.ite h (.of h1.parts))

theorem execNvmeDoorbell_kept {fn qid completion value stores} (h : Kept p s) : KeptNext p (execNvmeDoorbell fn qid completion value stores s) := by
  unfold execNvmeDoorbell
  refine .next ?_
  refine .ite h (.ite ?_ ?_)
  · split
    · exact .ite h.hostStores.raiseEvent h.hostStores.setCq.releaseCq
    · exact h.hostStores.raiseEvent
  · split
    · refine .ite h.hostStores.raiseEvent (.rejectNvme ?_)
      split
      · exact h.hostStores.setSq.setController
      · exact h.hostStores.setSq
    · exact h.hostStores.raiseEvent

theorem execControllerEnable_kept (h : Kept p s) (fn asq acq sqSize cqSize mps wrr) :
    KeptNext p (execControllerEnable fn asq acq sqSize cqSize mps wrr s) := by
  unfold execControllerEnable
  extract_lets f
  refine .next (.ite h ?_)
  split
  · exact h
  next q1 t e =>
  have ht : Kept p t := h.bindNvme e
  split
  · exact h
  next q2 u e =>
  have hu : Kept p u := ht.bindNvme e
  exact .of hu.parts

theorem execGenerationHoldEnd_kept {c t} (h : Kept p s) : KeptNext p (execGenerationHoldEnd c t s) := by
  unfold execGenerationHoldEnd
  refine .next ?_
  split
  · extract_lets e
    exact .ite h.registerNow h
  · exact h

/-! ### All commands -/

/-- Every command keeps the queue behind it and the form of the byte memories. -/
theorem exec_kept (h : Kept p s) (i : Instr) : KeptNext p (exec i s) := by
  cases i with
  | add c w => exact execAdd_kept h
  | dif c f | and c f | or c f | xor c f | sll c f | srl c f | sra c f | slt c f | sltu c f | min c f | max c f | minu c f | maxu c f | addw c f
  | difw c f | sllw c f | srlw c f | sraw c f | mul c f | mulh c f | mulhu c f | div c f | divu c f | rem c f | remu c f =>
    exact .next h.rrrOp
  | clz c f | ctz c f | pop c f | bswapH c f | bswapW c f | bswapD c f => exact .next h.unaryOp
  | addi c f | andi c f | ori c f | xori c f | slti c f | sltiu c f => exact .next h.rriOp
  | slli c f | srli c f | srai c f => exact .next h.shiftOp
  | lui c f | vext c f | vredsum c f => exact .next h.writesReg
  | beq c f | bne c f | blt c f | bge c f | bltu c f | bgeu c f => exact .next h.branchOp
  | j c off => exact execJ_kept h
  | jal c off => exact execJal_kept h
  | jalr c f => exact execJalr_kept h
  | lb c f | lbu c f | lh c f | lhu c f | ld c f => exact .next h.loadOp
  | lw c f | lwu c f => exact .next h.loadWord
  | vld c f => exact execVld_kept h
  | sb c f | sh c f | sd c f => exact .next h.storeOp
  | sw c f => exact execSw_kept h
  | vst c f => exact execVst_kept h
  | atadd c f | atswp c f | atand c f | ator c f | atxor c f | atmax c f | atmin c f | atmaxu c f | atminu c f | atcas c f => exact .next h.atomOp
  | vadd c f | vdif c f | vmul c f | vand c f | vor c f | vxor c f | vmin c f | vmax c f | vminu c f | vmaxu c f | vsll c f | vsrl c f | vsra c f
  | vcmpeq c f | vcmplt c f | vcmpltu c f =>
    exact .next h.vecOp
  | vbcast c f => exact execVbcast_kept h
  | vins c f => exact execVins_kept h
  | vfadd c f | vfdif c f | vfmul c f | vfma c f | vfmin c f | vfmax c f | vfcvtI c f | vfcvtF c f => exact .next h.vecFloatOp
  | csrr c f | csrw c f | csrset c f | csrclr c f => exact .next h.csrOp
  | mbar c f => exact execMbar_kept h
  | ibar c f => exact execIbar_kept h
  | svc c f => exact execSvc_kept h
  | brk c f => exact execBrk_kept h
  | tret c f => exact execTret_kept h
  | idle c f => exact execIdle_kept h
  | idleWake c => exact execIdleWake_kept h
  | sub c f => exact execSub_kept h
  | wtc c f => exact execWtc_kept h
  | wtcReturn c => exact execWtcReturn_kept h
  | tkp c f => exact execTkp_kept h
  | fnc c f => exact execFnc_kept h
  | fncReturn c => exact execFncReturn_kept h
  | gtc c f => exact execGtc_kept h
  | takeInterrupt c => exact execTakeInterrupt_kept h
  | timerInterrupt c => exact execTimerInterrupt_kept h
  | halt w c => exact execHalt_kept h
  | resume w c => exact execResume_kept h
  | swiSet w cores => exact execSwiSet_kept h
  | swiClear w cores => exact execSwiClear_kept h
  | ringEnable w value => exact execRingEnable_kept h
  | ringDisable w value => exact execRingDisable_kept h
  | ringDrained cls ring => exact execRingDrained_kept h
  | descriptorTake cls => exact execDescriptorTake_kept h
  | descriptorComplete c t seen => exact execDescriptorComplete_kept h
  | tkiPop w c => exact execTkiPop_kept h
  | sqTail qcn value stores => exact execSqTail_kept h
  | cqHead qcn value => exact execCqHead_kept h
  | recipeLoad src place => exact execRecipeLoad_kept h
  | recipeLaunch src => exact execRecipeLaunch_kept h
  | recipeStart handle => exact execRecipeStart_kept h
  | recipeUnload src => exact execRecipeUnload_kept h
  | recipeStatus src => exact execRecipeStatus_kept h
  | cmdSpaceCreate src => exact execCmdSpaceCreate_kept h
  | cmdSpaceDelete src => exact execCmdSpaceDelete_kept h
  | nsAttach src => exact execNsAttach_kept h
  | caskGrant src => exact execCaskGrant_kept h
  | grantWithdraw src => exact execGrantWithdraw_kept h
  | fillList c t => exact execFillList_kept h
  | permute c t => exact execPermute_kept h
  | spare c t peer => exact execSpare_kept h
  | close c t => exact execClose_kept h
  | gristReadIssue rebuilt => exact execGristReadIssue_kept h
  | catalogMiss ring => exact execCatalogMiss_kept h
  | itemStaged ring pos peer => exact execItemStaged_kept h
  | decode c t => exact execDecode_kept h
  | probe c t => exact execProbe_kept h
  | decompress c t => exact execDecompress_kept h
  | compress c t mismatch => exact execCompress_kept h
  | gfCombine c t => exact execGfCombine_kept h
  | transform c t tileError => exact execTransform_kept h
  | score c t tileError => exact execScore_kept h
  | modelLoad c t => exact execModelLoad_kept h
  | modelUnload c t => exact execModelUnload_kept h
  | filter c t => exact execFilter_kept h
  | loadSet c t => exact execLoadSet_kept h
  | signature c t => exact execSignature_kept h
  | unloadSet c t => exact execUnloadSet_kept h
  | tokenize c t => exact execTokenize_kept h
  | vocabLoad c t => exact execVocabLoad_kept h
  | vocabUnload c t => exact execVocabUnload_kept h
  | packSlots c t => exact execPackSlots_kept h
  | packRows c t => exact execPackRows_kept h
  | merge c t => exact execMerge_kept h
  | discard c t => exact execDiscard_kept h
  | physRead c t => exact execPhysRead_kept h
  | channelService c t best => exact execChannelService_kept h
  | channelTraining ch dies best => exact execChannelTraining_kept h
  | codewordRead die block page plane cw shows => exact execCodewordRead_kept h
  | stripeReconstruction die block page plane cw => exact execStripeReconstruction_kept h
  | programDone gcStream m ok => exact execProgramDone_kept h
  | eraseDone m ok => exact execEraseDone_kept h
  | dieTimeout die cleared answers => exact execDieTimeout_kept h
  | dieRebuild => exact execDieRebuild_kept h
  | patrolRead => exact execPatrolRead_kept h
  | periodicCalibration ch => exact execPeriodicCalibration_kept h
  | tempCalibration ch temp => exact execTempCalibration_kept h
  | read c t => exact execRead_kept h
  | write c t => exact execWrite_kept h
  | trim c t runs => exact execTrim_kept h
  | spaceCreate c t => exact execSpaceCreate_kept h
  | spaceDelete c t => exact execSpaceDelete_kept h
  | spaceWalk space => exact execSpaceWalk_kept h
  | sync c t => exact execSync_kept h
  | journalPageProgram ok => exact execJournalPageProgram_kept h
  | fillTimer => exact execFillTimer_kept h
  | mapPageRead page => exact execMapPageRead_kept h
  | mapWriteback page ok => exact execMapWriteback_kept h
  | checkpoint => exact execCheckpoint_kept h
  | backgroundGc => exact execBackgroundGc_kept h
  | foregroundGc => exact execForegroundGc_kept h
  | gcMove => exact execGcMove_kept h
  | victimErase => exact execVictimErase_kept h
  | mount copies checkpoint => exact execMount_kept h
  | portEnable w port value partner => exact execPortEnable_kept h
  | linkDown sub => exact execLinkDown_kept h
  | linkUp sub => exact execLinkUp_kept h
  | packetReceive p kib recycled => exact execPacketReceive_kept h
  | pfcRepeat sub kib => exact execPfcRepeat_kept h
  | puntFrame sub frame => exact execPuntFrame_kept h
  | cnpReceive qcn => exact execCnpReceive_kept h
  | rcRise sub service subscriber => exact execRcRise_kept h
  | pfcReceive sub prio quanta => exact execPfcReceive_kept h
  | pauseExpiry sub => exact execPauseExpiry_kept h
  | retryTimeout qcn => exact execRetryTimeout_kept h
  | init w setup => exact execInit_kept h
  | rtr w => exact execRtr_kept h
  | rts w => exact execRts_kept h
  | err w => exact execErr_kept h
  | reset w unbind => exact execReset_kept h
  | deliver c t => exact execDeliver_kept h
  | grant qcn msg | decline qcn msg => exact .next h.grantCommand
  | sealAcknowledged c t => exact execSealAcknowledged_kept h
  | release c t => exact execRelease_kept h
  | noGrant c t => exact execNoGrant_kept h
  | reconRead c t => exact execReconRead_kept h
  | register c t => exact execRegister_kept h
  | revoke c t => exact execRevoke_kept h
  | revokeTimeout c t => exact execRevokeTimeout_kept h
  | packetSchedule sub => exact execPacketSchedule_kept h
  | wheelRelease => exact execWheelRelease_kept h
  | queueSample => exact execQueueSample_kept h
  | qLatch w value => exact execQLatch_kept h
  | qDepthRead => exact execQDepthRead_kept h
  | qDelayRead => exact execQDelayRead_kept h
  | perst => exact execPerst_kept h
  | createIoSq fn => exact execCreateIoSq_kept h
  | createIoCq fn => exact execCreateIoCq_kept h
  | deleteIoSq fn => exact execDeleteIoSq_kept h
  | deleteIoCq fn => exact execDeleteIoCq_kept h
  | getLogPage fn => exact execGetLogPage_kept h
  | identify fn => exact execIdentify_kept h
  | abort fn => exact execAbort_kept h
  | setFeatures fn => exact execSetFeatures_kept h
  | getFeatures fn => exact execGetFeatures_kept h
  | asynchronousEventRequest fn => exact execAsynchronousEventRequest_kept h
  | firmwareImageDownload src offset data => exact execFirmwareImageDownload_kept h
  | firmwareCommit src fs ca => exact execFirmwareCommit_kept h
  | imageWriteDone ok loaderOk => exact execImageWriteDone_kept h
  | createCommandRing => exact execCreateCommandRing_kept h
  | deleteCommandRing => exact execDeleteCommandRing_kept h
  | nvmeFlush fn => exact execNvmeFlush_kept h
  | nvmeWrite fn => exact execNvmeWrite_kept h
  | nvmeRead fn => exact execNvmeRead_kept h
  | writeZeroes fn => exact execWriteZeroes_kept h
  | datasetManagement fn runs => exact execDatasetManagement_kept h
  | controllerReset fn => exact execControllerReset_kept h
  | apst fn => exact execApst_kept h
  | powerStateChange => exact execPowerStateChange_kept h
  | hostDeliver c t fails => exact execHostDeliver_kept h
  | copy c t => exact execCopy_kept h
  | go w n => exact execGo_kept h
  | dmaBurst fails => exact execDmaBurst_kept h
  | dmaTransferDone n => exact execDmaTransferDone_kept h
  | pause w n => exact execPause_kept h
  | pauseClear w n => exact execPauseClear_kept h
  | valid w n => exact execValid_kept h
  | poolEnable w n value => exact execPoolEnable_kept h
  | freeListBuilt n => exact execFreeListBuilt_kept h
  | poolDisable w n value => exact execPoolDisable_kept h
  | alloc c t => exact execAlloc_kept h
  | free c t => exact execFree_kept h
  | leaseRenewal => exact execLeaseRenewal_kept h
  | leaseGrant requested granted lease term => exact execLeaseGrant_kept h
  | fence => exact execFence_kept h
  | unfence w => exact execUnfence_kept h
  | leaseExpiryWrite w value => exact execLeaseExpiryWrite_kept h
  | workerDead worker spare group place lastGrant => exact execWorkerDead_kept h
  | managerTakeover grants => exact execManagerTakeover_kept h
  | ptpExchange offset rate => exact execPtpExchange_kept h
  | holdover => exact execHoldover_kept h
  | dropMap epoch block positions maps => exact execDropMap_kept h
  | backupStart group seq place firstOffer delay node recovered => exact execBackupStart_kept h
  | checkPreparation seq part => exact execCheckPreparation_kept h
  | digestMismatch seq part first second third delivered qcn => exact execDigestMismatch_kept h
  | coldStart chans dram eepromOk loaderOk => exact execColdStart_kept h
  | ladderStep => exact execLadderStep_kept h
  | warmReset w value loaderOk => exact execWarmReset_kept h
  | polderReset w value => exact .next h.writePolderReset
  | coreReset w c => exact execCoreReset_kept h
  | coreRelease w c => exact execCoreRelease_kept h
  | padRelease w polders => exact execPadRelease_kept h
  | clockStop w polder stop => exact execClockStop_kept h
  | clockSourceSwitch w polder pll => exact execClockSourceSwitch_kept h
  | oppChange w polder opp => exact execOppChange_kept h
  | powerGovernor input nand => exact execPowerGovernor_kept h
  | clockStretch polder => exact execClockStretch_kept h
  | ms3Entry => exact execMs3Entry_kept h
  | ms3Exit => exact execMs3Exit_kept h
  | ms4Entry => exact execMs4Entry_kept h
  | ms4Exit eccError loaderOk => exact execMs4Exit_kept h
  | sidebandMatch addr => exact execSidebandMatch_kept h
  | pcieWake => exact execPcieWake_kept h
  | gtcWake => exact execGtcWake_kept h
  | inputStart => exact execInputStart_kept h
  | dip => exact execDip_kept h
  | powerFailTrigger | overvoltage | overcurrent => exact .next h.powerFail
  | flushEnd => exact execFlushEnd_kept h
  | postFlushRestart recovered => exact execPostFlushRestart_kept h
  | bankSample vbank vin iin => exact execBankSample_kept h
  | capacitorTest => exact execCapacitorTest_kept h
  | testLoadConnect drop => exact execTestLoadConnect_kept h
  | testLoadDisconnect => exact execTestLoadDisconnect_kept h
  | testEnd => exact execTestEnd_kept h
  | capacitorTestRequest w => exact execCapacitorTestRequest_kept h
  | controlledPowerOff w value => exact .next h.writeMgtCtl
  | ejectorOpen => exact .next h.powerOff
  | nandRailTrip | sramUe polder detail address | dramUe polder detail address | voltage polder | selfCheck polder detail => exact .next h.doubt
  | thermalThrottle temp => exact execThermalThrottle_kept h
  | thermalPowerOff temp => exact execThermalPowerOff_kept h
  | restartWrite w n value => exact execRestartWrite_kept h
  | gtcNowRead high => exact execGtcNowRead_kept h
  | clock polder => exact execClock_kept h
  | watchdog c => exact execWatchdog_kept h
  | hsmAbort polder machine work => exact execHsmAbort_kept h
  | force w value => exact .next h.writeForce
  | singleFlip => exact .next h.count
  | kick w cores => exact execKick_kept h
  | clear w units => exact execClear_kept h
  | latch w unit => exact execLatch_kept h
  | selfTestRequest w cls unit => exact execSelfTestRequest_kept h
  | retire w cls unit => exact execRetire_kept h
  | selfTest passes => exact execSelfTest_kept h
  | replayRequest ev => exact execReplayRequest_kept h
  | dapRead space addr | dapWrite space addr data => exact .next h.dapScan
  | idcode => exact execIdcode_kept h
  | bypass ir => exact execBypass_kept h
  | traceSync => exact execTraceSync_kept h
  | arm w => exact execArm_kept h
  | fire w => exact execFire_kept h
  | frozen => exact execFrozen_kept h
  | mark w value => exact execMark_kept h
  | tracePortSend => exact execTracePortSend_kept h
  | attest w => exact execAttest_kept h
  | readCert w => exact execReadCert_kept h
  | dbgChallenge w => exact execDbgChallenge_kept h
  | dbgUnlock w => exact execDbgUnlock_kept h
  | tokenRefill => exact execTokenRefill_kept h
  | svnCommit w => exact execSvnCommit_kept h
  | activationArm w value => exact execActivationArm_kept h
  | disarm w => exact execDisarm_kept h
  | activation loaderOk => exact execActivation_kept h
  | registerWrite w off value => exact execRegisterWrite_kept h
  | powerOnCommand => exact execPowerOnCommand_kept h
  | pllLock polder => exact execPllLock_kept h
  | managementMailboxRead c => exact execManagementMailboxRead_kept h
  | inputHigh => exact execInputHigh_kept h
  | nandOverload => exact execNandOverload_kept h
  | pcieLinkTrained speed width flit vfs payload => exact execPcieLinkTrained_kept h
  | nvmeDoorbell fn qid completion value stores => exact execNvmeDoorbell_kept h
  | controllerEnable fn asq acq sqSize cqSize mps wrr => exact execControllerEnable_kept h fn asq acq sqSize cqSize mps wrr
  | generationHoldEnd c t => exact execGenerationHoldEnd_kept h

theorem step_kept (s : State) : KeptNext { s with pending := s.pending.tail } (step s) := by
  unfold step
  split
  next c rest e =>
    rw [e]
    exact exec_kept (.refl _) c
  next e =>
    rw [e]
    exact .next (.tick (.of ⟨e, (Kept.refl s).mem⟩))

end

theorem step_keeps {s t : State} (h : step s = .next t) : Kept { s with pending := s.pending.tail } t := by
  have hs := step_kept s
  rw [h] at hs
  exact hs

/-! ## The statements -/

/-- Settles O59: every command keeps the form of the byte memories (`exec_kept`), and so does a tick. -/
theorem memoryFormKept : Obligations.MemoryFormKept :=
  fun _ _ hs h => (step_keeps h).mem hs

/-- Settles O56: no command touches the queue behind it (`exec_kept`), nor does a tick. -/
theorem stepTakesOneCommand : Obligations.StepTakesOneCommand :=
  fun _ _ h => (step_keeps h).queue

/-- Settles O55, by the definition of a step. -/
theorem stepRunsFrontCommand : Obligations.StepRunsFrontCommand :=
  fun _ _ _ => rfl

end Sys2Proof.Machine

/-!
SUPPORT. What the weir sends: the keyed folds that serve every queue and every service once, the wheel, the samples and the latched
values, and the statement about them (R388 to R397, R402, R404).
-/

namespace Sys2Proof.Machine

/-! ## Folds that write each key once -/

/-- What a fold that writes each key of its list once leaves to read: `g` of the element and of what stood at its key. -/
theorem read_foldl_writes {α β : Type} {f : State → α → State} {read : State → Nat → β} {key : α → Nat} {g : α → β → β}
    {I : State → Prop} (hI : ∀ t a, I t → I (f t a))
    (hf : ∀ t a j, I t → read (f t a) j = if j = key a then g a (read t j) else read t j) :
    ∀ (l : List α) (s : State), I s → (l.map key).Nodup →
      (∀ a ∈ l, read (l.foldl f s) (key a) = g a (read s (key a))) ∧ (∀ j, j ∉ l.map key → read (l.foldl f s) j = read s j)
  | [], _, _, _ => ⟨fun _ h => absurd h (List.not_mem_nil), fun _ _ => rfl⟩
  | b :: l, s, hs, hnd => by
    rw [List.map_cons, List.nodup_cons] at hnd
    obtain ⟨hrest, hnot⟩ := read_foldl_writes hI hf l (f s b) (hI s b hs) hnd.2
    refine ⟨fun a ha => ?_, fun j hj => ?_⟩
    · rw [List.foldl_cons]
      rcases List.mem_cons.1 ha with rfl | ha
      · rw [hnot _ hnd.1, hf s a _ hs, if_pos rfl]
      · have hne : key a ≠ key b := fun e => hnd.1 (e ▸ List.mem_map_of_mem ha)
        rw [hrest a ha, hf s b _ hs, if_neg hne]
    · rw [List.map_cons, List.mem_cons, not_or] at hj
      rw [List.foldl_cons, hnot j hj.2, hf s b j hs, if_neg hj.1]

theorem Table.nodup_keys {α : Type} [DecidableEq α] {d : α} {t : Table α} (h : Table.canonical d t = true) : (t.map (·.1)).Nodup :=
  List.pairwise_map.2 ((Table.canonical_iff.1 h).1.imp fun hlt => Nat.ne_of_lt hlt)

/-! ## The nodes of the weir -/

section
variable (s : State)

theorem State.nodeAt_setNode (k j : Nat) (n : ServiceNode) : (s.setNode k n).nodeAt j = if j = k then n else s.nodeAt j :=
  Table.at_write ServiceNode.zero s.net.nodes k j n

theorem State.nodeAt_of_net {s t : State} (h : t.net = s.net) (k : Nat) : t.nodeAt k = s.nodeAt k := by
  rw [State.nodeAt, State.nodeAt, h]

@[simp] theorem State.nodeAt_count (u i n k : Nat) : (s.count u i n).nodeAt k = s.nodeAt k :=
  State.nodeAt_of_net (s.count_onlyLogs u i n).net k
@[simp] theorem State.nodeAt_setQueue (k j : Nat) (q : WeirQueue) : (s.setQueue k q).nodeAt j = s.nodeAt j := rfl
@[simp] theorem State.nodeAt_setSubport (m : BitVec 3) (p : SubPort) (k : Nat) : (s.setSubport m p).nodeAt k = s.nodeAt k := rfl
@[simp] theorem State.nodeAt_setReg (off : Nat) (w : Word32) (k : Nat) : (s.setReg off w).nodeAt k = s.nodeAt k := rfl
@[simp] theorem State.queueAt_setNode (k j : Nat) (n : ServiceNode) : (s.setNode k n).queueAt j = s.queueAt j := rfl
@[simp] theorem State.queueAt_setSubport (m : BitVec 3) (p : SubPort) (k : Nat) : (s.setSubport m p).queueAt k = s.queueAt k := rfl

end

theorem State.queueAt_of_queues {s t : State} (h : t.net.queues = s.net.queues) (k : Nat) : t.queueAt k = s.queueAt k := by
  rw [State.queueAt, State.queueAt, h]

theorem State.subport_of_subports {s t : State} (h : t.net.subports = s.net.subports) (n : BitVec 3) : t.subport n = s.subport n := by
  unfold State.subport
  simp only [h]

/-! ## A packet leaves (R390, R393) -/

theorem Entity.hold_f (x : Entity) (now : Nat) : (x.hold now).1.f = x.f := by
  unfold Entity.hold
  split <;> rfl

/-- R393: the finish tag of a queue that sent `len` counted bytes. -/
theorem State.queueSent_f (s : State) (q : WeirQueue) (subscriber len : Nat) :
    (s.queueSent q subscriber len).1.f = (q.ent.s + len * 65536 / s.queueWeight subscriber) % 2 ^ 48 := by
  unfold State.queueSent
  extract_lets e e'
  rw [Entity.hold_f]
  dsimp only [e']
  split <;> rfl

/-- `t` is `s` but for what logging touches and for the QPs and deliveries of the network side. -/
def OnlyTransport (s t : State) : Prop :=
  OnlyLogs s { t with net := { t.net with qps := s.net.qps, deliveries := s.net.deliveries } }

theorem OnlyLogs.onlyTransport {s t : State} (h : OnlyLogs s t) : OnlyTransport s t := by
  unfold OnlyTransport OnlyLogs at *
  rw [← h]

theorem OnlyTransport.trans {s t u : State} (h : OnlyTransport s t) (g : OnlyTransport t u) : OnlyTransport s u := by
  unfold OnlyTransport OnlyLogs at *
  rw [← h, ← g]

section
variable {s t : State} (h : OnlyTransport s t)
include h

theorem OnlyTransport.onlyNet : OnlyNet s t := by
  unfold OnlyNet OnlyTransport OnlyLogs at *
  rw [← h]

theorem OnlyTransport.proj {α : Type} (f : Net → α) : f { t.net with qps := s.net.qps, deliveries := s.net.deliveries } = f s.net :=
  congrArg f (OnlyLogs.net h)

theorem OnlyTransport.sent : t.net.sent = s.net.sent := h.proj Net.sent
theorem OnlyTransport.queueAt (k : Nat) : t.queueAt k = s.queueAt k := h.proj fun n => Table.at WeirQueue.empty n.queues k
theorem OnlyTransport.subport (n : BitVec 3) : t.subport n = s.subport n := h.proj fun x => x.subports[n.toNat]'(n.isLt)

end

section
variable (s : State)

theorem State.setQp_onlyTransport (k : Nat) (q : Qp) : OnlyTransport s (s.setQp k q) := rfl

theorem State.startTimer_onlyTransport (k : Nat) : OnlyTransport s (s.startTimer k) := by
  unfold State.startTimer
  split
  · split
    · exact s.setQp_onlyTransport _ _
    · exact (OnlyLogs.refl s).onlyTransport
  · exact (OnlyLogs.refl s).onlyTransport

/-- What a packet's leaving means to its QP and delivery (R367, R384) changes nothing of the weir. -/
theorem State.packetLeft_onlyTransport (p : OutPacket) : OnlyTransport s (s.packetLeft p) := by
  unfold State.packetLeft
  extract_lets s1 s2 mine s3 _
  have h1 : OnlyTransport s s1 := (s.count_onlyLogs _ _ _).onlyTransport
  have h2 : OnlyTransport s1 s2 := by
    dsimp only [s2]
    split
    · exact (s1.setQp_onlyTransport _ _).trans (State.startTimer_onlyTransport _ _)
    · exact (OnlyLogs.refl s1).onlyTransport
  have h3 : OnlyTransport s2 s3 := (OnlyLogs.ite (s2.count_onlyLogs _ _ _) (OnlyLogs.refl s2)).onlyTransport
  clear_value s2 s3
  split
  · exact (h1.trans h2).trans (h3.trans rfl)
  · exact h1.trans h2

/-- R393, R396: the head of a queue leaves, and nothing else of the weir moves but the queue's tags, its node and the virtual time. -/
theorem State.sendFrom_sends {sub service qk : Nat} {p : OutPacket} {rest : List OutPacket} (hq : (s.queueAt qk).packets = p :: rest) :
    OnlyNet s (s.sendFrom sub service qk) ∧ (s.sendFrom sub service qk).net.sent = s.net.sent ++ [(sub, p)] ∧
      (s.sendFrom sub service qk).queueAt qk =
        { s.queueAt qk with packets := rest, ent := (s.queueSent (s.queueAt qk) (qk % 4096) (s.countedLen p)).1 } ∧
      (∀ j, j ≠ qk → (s.sendFrom sub service qk).queueAt j = s.queueAt j) ∧
      ((s.sendFrom sub service qk).subport (subNo sub)).v = (s.nodeAt (nodeKey sub service)).ent.s := by
  unfold State.sendFrom
  extract_lets nk q node port s1
  split
  next e => cases e.symm.trans hq
  next p' rest' e =>
  obtain ⟨rfl, rfl⟩ := List.cons.inj (e.symm.trans hq)
  extract_lets len qr nr s2 s3 _ s4 s5
  have hqr : qr.1 = (s.queueSent q (qk % 4096) len).1 := rfl
  clear_value nr qr
  have hqueue3 (j : Nat) : s3.queueAt j = if j = qk then { q with packets := rest', ent := qr.1 } else s.queueAt j :=
    s1.queueAt_setQueue qk j _
  have h3 : OnlyNet s s3 := (s.setSubport_onlyNet _ _).trans ((s1.setQueue_onlyNet _ _).trans (s2.setNode_onlyNet _ _))
  have hsent3 : s3.net.sent = s.net.sent := rfl
  have hport3 : s3.subport (subNo sub) = { port with v := node.ent.s } := (s.subport_setSubport _ _ _).trans (if_pos rfl)
  clear_value s3
  have h4 : OnlyNet s3 s4 := rfl
  have hsent4 : s4.net.sent = s.net.sent ++ [(sub, p')] := congrArg (· ++ [(sub, p')]) hsent3
  have hqueue4 (j : Nat) : s4.queueAt j = s3.queueAt j := rfl
  have hport4 (n : BitVec 3) : s4.subport n = s3.subport n := rfl
  have h5 : OnlyTransport s4 (s5.packetLeft p') :=
    (((s4.count_onlyLogs _ _ _).trans (State.count_onlyLogs _ _ _ _)).trans (State.count_onlyLogs _ _ _ _)).onlyTransport.trans
      (s5.packetLeft_onlyTransport p')
  clear_value s4 s5
  rw [← hqr]
  refine ⟨(h3.trans h4).trans h5.onlyNet, h5.sent.trans hsent4, ?_, fun j hj => ?_, ?_⟩
  · rw [h5.queueAt, hqueue4, hqueue3, if_pos rfl]
  · rw [h5.queueAt, hqueue4, hqueue3, if_neg hj]
  · rw [h5.subport, hport4, hport3]

end

/-- R390: an urgent frame that may go leaves first. -/
theorem execPacketSchedule_urgent {sub : BitVec 3} {s : State} (hruns : s.netRuns = true) (hup : (s.subport sub).up = true) {p : OutPacket}
    (hp : (s.subport sub).urgent.find? (s.urgentReady (s.subport sub)) = some p) :
    ∃ t, exec (.packetSchedule sub) s = .next t ∧ t.net.sent = s.net.sent ++ [(sub.toNat, p)] ∧
      (t.subport sub).urgent = (s.subport sub).urgent.erase p ∧ t.net.queues = s.net.queues ∧ t.dram = s.dram := by
  set u : State := s.setSubport sub { s.subport sub with urgent := (s.subport sub).urgent.erase p } with hu
  set v : State := { u with net := { u.net with sent := u.net.sent ++ [(sub.toNat, p)] } } with hv
  have hlogs := v.count_onlyLogs unitRDM 0 1
  refine ⟨v.count unitRDM 0 1, ?_, congrArg Net.sent hlogs.net, ?_, (congrArg Net.queues hlogs.net).trans rfl, hlogs.dram⟩
  · simp [exec, execPacketSchedule, hruns, hup, hp, hu, hv]
  · rw [State.subport_of_net hlogs.net]
    exact congrArg SubPort.urgent ((s.subport_setSubport sub sub _).trans (if_pos rfl))

theorem subNo_toNat_self (n : BitVec 3) : subNo n.toNat = n := by simp [subNo]

/-! ## The wheel (R397) -/

theorem Entity.fire_waits {x : Entity} {now v k : Nat} (h : x.slot = some k) (hnow : now < (k + 1) * 64) : (x.fire now v).1 = x := by
  simp [Entity.fire, h, hnow]

theorem Entity.fire_releases {x : Entity} {now v k : Nat} (h : x.slot = some k) (hnow : (k + 1) * 64 ≤ now) (he : x.e.floor / 64 ≤ k) :
    (x.fire now v).1 = { x with slot := none, s := tagMax v x.f } := by
  simp [Entity.fire, h, Nat.not_lt.2 hnow, Nat.not_lt.2 he]

section
variable (s : State)

/-- One queue's turn at the wheel. -/
def State.fireQueue (e : Nat × WeirQueue) (now : Nat) : State :=
  (s.setQueue e.1 { e.2 with ent := (e.2.ent.fire now (s.nodeAt (e.1 / 4096)).v).1 }).count unitWER 5
    (e.2.ent.fire now (s.nodeAt (e.1 / 4096)).v).2.toNat

/-- One service's turn at the wheel. -/
def State.fireNode (e : Nat × ServiceNode) (now : Nat) : State :=
  (s.setNode e.1 { e.2 with ent := (e.2.ent.fire now (s.subport (subNo (e.1 / 4))).v).1 }).count unitWER 5
    (e.2.ent.fire now (s.subport (subNo (e.1 / 4))).v).2.toNat

theorem execWheelRelease_fires (h : s.netRuns = true) :
    exec .wheelRelease s = .next (
      let t := s.net.queues.foldl (fun (t : State) e => t.fireQueue e s.gtc.toNat) s
      t.net.nodes.foldl (fun (t : State) e => t.fireNode e s.gtc.toNat) t) := by
  simp only [exec, execWheelRelease, h]
  rfl

theorem State.fireQueue_onlyNet (e : Nat × WeirQueue) (now : Nat) : OnlyNet s (s.fireQueue e now) :=
  (s.setQueue_onlyNet _ _).trans (State.count_onlyNet _ _ _ _)

theorem State.fireNode_onlyNet (e : Nat × ServiceNode) (now : Nat) : OnlyNet s (s.fireNode e now) :=
  (s.setNode_onlyNet _ _).trans (State.count_onlyNet _ _ _ _)

theorem State.fireQueue_nodes (e : Nat × WeirQueue) (now : Nat) : (s.fireQueue e now).net.nodes = s.net.nodes :=
  (congrArg Net.nodes (State.count_onlyLogs _ _ _ _).net).trans rfl

theorem State.fireQueue_subport (e : Nat × WeirQueue) (now : Nat) (n : BitVec 3) : (s.fireQueue e now).subport n = s.subport n := by
  simp [State.fireQueue]

theorem State.fireNode_subport (e : Nat × ServiceNode) (now : Nat) (n : BitVec 3) : (s.fireNode e now).subport n = s.subport n := by
  simp [State.fireNode]

theorem State.fireNode_queueAt (e : Nat × ServiceNode) (now k : Nat) : (s.fireNode e now).queueAt k = s.queueAt k := by
  simp [State.fireNode]

theorem State.nodeAt_of_nodes {s t : State} (h : t.net.nodes = s.net.nodes) (k : Nat) : t.nodeAt k = s.nodeAt k := by
  rw [State.nodeAt, State.nodeAt, h]

end

/-- R397: every queue and every service fires once, at the virtual times before the release. -/
theorem execWheelRelease_releases {s : State} (hruns : s.netRuns = true)
    (hqueues : Table.canonical WeirQueue.empty s.net.queues = true) (hnodes : Table.canonical ServiceNode.zero s.net.nodes = true) :
    ∃ t, exec .wheelRelease s = .next t ∧ t.dram = s.dram ∧ t.cores = s.cores ∧
      (∀ k q, Table.find s.net.queues k = some q → t.queueAt k = { q with ent := (q.ent.fire s.gtc.toNat (s.nodeAt (k / 4096)).v).1 }) ∧
      (∀ k n, Table.find s.net.nodes k = some n → t.nodeAt k = { n with ent := (n.ent.fire s.gtc.toNat (s.subport (subNo (k / 4))).v).1 }) := by
  have hexec := execWheelRelease_fires s hruns
  set now := s.gtc.toNat
  set u := s.net.queues.foldl (fun (t : State) e => t.fireQueue e now) s with hu
  set v := u.net.nodes.foldl (fun (t : State) e => t.fireNode e now) u with hv
  have honly : OnlyNet s v :=
    (OnlyNet.foldl (fun t e => t.fireQueue_onlyNet e now) _ s).trans (OnlyNet.foldl (fun t e => t.fireNode_onlyNet e now) _ u)
  have hunodes : u.net.nodes = s.net.nodes := foldl_keeps (fun t : State => t.net.nodes) (fun t e _ => t.fireQueue_nodes e now) s
  have huports (n : BitVec 3) : u.subport n = s.subport n := foldl_keeps (fun t : State => t.subport n) (fun t e _ => t.fireQueue_subport e now n) s
  have hvqueues (k : Nat) : v.queueAt k = u.queueAt k := foldl_keeps (fun t : State => t.queueAt k) (fun t e _ => t.fireNode_queueAt e now k) u
  obtain ⟨hfireq, -⟩ := read_foldl_writes (read := State.queueAt) (key := Prod.fst) (I := fun t => t.net.nodes = s.net.nodes)
    (f := fun (t : State) (e : Nat × WeirQueue) => t.fireQueue e now)
    (g := fun e _ => { e.2 with ent := (e.2.ent.fire now (s.nodeAt (e.1 / 4096)).v).1 })
    (fun t e ht => (t.fireQueue_nodes e now).trans ht)
    (fun t e j ht => by simp [State.fireQueue, State.queueAt_setQueue, State.nodeAt_of_nodes ht]) s.net.queues s rfl
    (Table.nodup_keys hqueues)
  obtain ⟨hfiren, -⟩ := read_foldl_writes (read := State.nodeAt) (key := Prod.fst) (I := fun t => ∀ n, t.subport n = u.subport n)
    (f := fun (t : State) (e : Nat × ServiceNode) => t.fireNode e now)
    (g := fun e _ => { e.2 with ent := (e.2.ent.fire now (s.subport (subNo (e.1 / 4))).v).1 })
    (fun t e ht n => (t.fireNode_subport e now n).trans (ht n))
    (fun t e j ht => by simp [State.fireNode, State.nodeAt_setNode, ht, huports]) u.net.nodes u (fun _ => rfl)
    (hunodes ▸ Table.nodup_keys hnodes)
  refine ⟨v, hexec, honly.dram, honly.cores, fun k q hq => ?_, fun k n hn => ?_⟩
  · rw [hvqueues]
    exact hfireq (k, q) (Table.mem_of_find hq)
  · exact hfiren (k, n) (hunodes ▸ Table.mem_of_find hn)

/-! ## Samples (R402) -/

/-- The packets that wait, queue by queue. -/
def waitingPackets (queues : Table WeirQueue) : List (Nat × List OutPacket) :=
  (queues.filter (fun e => !e.2.packets.isEmpty)).map (fun e => (e.1, e.2.packets))

theorem waitingPackets_cons (k : Nat) (q : WeirQueue) (t : Table WeirQueue) :
    waitingPackets ((k, q) :: t) = (if q.packets.isEmpty then [] else [(k, q.packets)]) ++ waitingPackets t := by
  unfold waitingPackets
  cases h : q.packets.isEmpty <;> simp [h]

theorem waitingPackets_drop {k : Nat} : ∀ {t : Table WeirQueue}, (∀ e ∈ t, e.1 = k → e.2.packets = []) →
    waitingPackets (t.drop k) = waitingPackets t
  | [], _ => rfl
  | (j, q) :: t, h => by
    have ih := waitingPackets_drop (t := t) fun e he => h e (List.mem_cons_of_mem _ he)
    rw [Table.drop]
    split
    next hk => rw [ih, waitingPackets_cons, h (j, q) List.mem_cons_self hk.symm]; rfl
    next => rw [waitingPackets_cons, waitingPackets_cons, ih]

theorem waitingPackets_put {k : Nat} {q : WeirQueue} : ∀ {t : Table WeirQueue}, t.Pairwise (fun a b => a.1 < b.1) →
    (∃ e ∈ t, e.1 = k ∧ e.2.packets = q.packets) → waitingPackets (t.put k q) = waitingPackets t
  | [], _, h => by obtain ⟨e, he, -⟩ := h; cases he
  | (j, x) :: t, hs, ⟨e, he, hek, heq⟩ => by
    rw [List.pairwise_cons] at hs
    rw [Table.put]
    rcases List.mem_cons.1 he with rfl | he
    · obtain rfl : j = k := hek
      rw [if_neg (Nat.lt_irrefl j), if_pos rfl, waitingPackets_cons, waitingPackets_cons, ← heq]
    · have hlt : j < k := hek ▸ hs.1 e he
      rw [if_neg (by omega), if_neg (by omega), waitingPackets_cons, waitingPackets_cons, waitingPackets_put hs.2 ⟨e, he, hek, heq⟩]

/-- A queue that is written with the packets that it held leaves the packets that wait. -/
theorem waitingPackets_write {k : Nat} {q x : WeirQueue} {t : Table WeirQueue} (ht : Table.canonical WeirQueue.empty t = true)
    (hx : Table.find t k = some x) (hq : q.packets = x.packets) : waitingPackets (Table.write WeirQueue.empty t k q) = waitingPackets t := by
  have hrising := (Table.canonical_iff.1 ht).1
  unfold Table.write
  split
  next he =>
    refine waitingPackets_drop fun e hmem hk => ?_
    have := Table.find_of_mem hrising (k := e.1) (x := e.2) hmem
    rw [hk, hx] at this
    rw [← Option.some.inj this, ← hq, he]; rfl
  next => exact waitingPackets_put hrising ⟨(k, x), Table.mem_of_find hx, rfl, hq.symm⟩

section
variable (s : State)

theorem State.nodeLoad_eq (k : Nat) :
    s.nodeLoad k = ((waitingPackets s.net.queues).filter (fun e => e.1 / 4096 == k)).foldl
      (fun acc e => (acc.1 + (s.queueLoad e.2).1, max acc.2 (s.queueLoad e.2).2)) (0, 0) := by
  unfold State.nodeLoad State.backlog waitingPackets
  rw [List.filter_map, List.foldl_map, List.filter_filter]
  rfl

/-- One queue sampled. -/
def State.sampleQueue (e : Nat × WeirQueue) : State :=
  s.setQueue e.1 { e.2 with ent := e.2.ent.sample (s.queueLoad e.2.packets).1 (s.queueLoad e.2.packets).2 }

/-- One service sampled. -/
def State.sampleNode (k : Nat) : State :=
  s.setNode k { s.nodeAt k with ent := (s.nodeAt k).ent.sample (s.nodeLoad k).1 (s.nodeLoad k).2 }

/-- Every queue sampled. -/
def State.sampleQueues : State := s.net.queues.foldl (fun (t : State) e => t.sampleQueue e) s

/-- Every service sampled. -/
def State.sampleNodes : State := (List.range 32).foldl (fun (t : State) k => t.sampleNode k) s

/-- Every sub-port's pause looked at. -/
def State.notePauses : State := (List.range 8).foldl (fun (t : State) n => t.notePause (subNo n)) s

theorem execQueueSample_samples (hruns : s.netRuns = true) (hgtc : s.gtc.toNat % 1024 = 0) :
    exec .queueSample s = .next s.sampleQueues.sampleNodes.notePauses := by
  simp only [exec, execQueueSample, hruns, hgtc]
  rfl

/-- The time, the QPs and the registers, which say how long a packet counts and waits. -/
def SameLoads (s t : State) : Prop := t.net.qps = s.net.qps ∧ (∀ off, t.reg off = s.reg off) ∧ t.gtc = s.gtc

theorem SameLoads.queueLoad {s t : State} (h : SameLoads s t) (ps : List OutPacket) : t.queueLoad ps = s.queueLoad ps := by
  obtain ⟨hqps, hregs, hgtc⟩ := h
  have hlen (p : OutPacket) : t.countedLen p = s.countedLen p := by
    simp only [State.countedLen, State.qpAt, State.fld, hqps, hregs]
  cases ps with
  | nil => rfl
  | cons p ps => simp only [State.queueLoad, hlen, hgtc]

theorem SameLoads.nodeLoad {s t : State} (h : SameLoads s t) (hw : waitingPackets t.net.queues = waitingPackets s.net.queues) (k : Nat) :
    t.nodeLoad k = s.nodeLoad k := by
  simp only [State.nodeLoad_eq, hw, h.queueLoad]

theorem State.notePause_weir (n : BitVec 3) : (s.notePause n).net.queues = s.net.queues ∧ (s.notePause n).net.nodes = s.net.nodes := by
  unfold State.notePause
  extract_lets p
  split
  · split <;> exact ⟨rfl, rfl⟩
  · exact ⟨rfl, rfl⟩

theorem State.sampleQueue_kept (e : Nat × WeirQueue) : SameLoads s (s.sampleQueue e) ∧ (s.sampleQueue e).net.nodes = s.net.nodes :=
  ⟨⟨rfl, fun _ => rfl, rfl⟩, rfl⟩

theorem State.sampleNode_queues (k : Nat) : (s.sampleNode k).net.queues = s.net.queues := rfl

end

theorem SameLoads.trans {s t u : State} (h : SameLoads s t) (g : SameLoads t u) : SameLoads s u :=
  ⟨g.1.trans h.1, fun off => (g.2.1 off).trans (h.2.1 off), g.2.2.trans h.2.2⟩

/-- Sampling the queues leaves the packets that wait. -/
theorem waitingPackets_samples : ∀ (l : List (Nat × WeirQueue)) (t : State), Table.canonical WeirQueue.empty t.net.queues = true →
    (l.map (·.1)).Nodup → (∀ e ∈ l, Table.find t.net.queues e.1 = some e.2) →
    waitingPackets (l.foldl (fun (t : State) e => t.sampleQueue e) t).net.queues = waitingPackets t.net.queues
  | [], _, _, _, _ => rfl
  | e :: l, t, ht, hnd, hfind => by
    rw [List.map_cons, List.nodup_cons] at hnd
    have hwrite := waitingPackets_write ht (hfind e List.mem_cons_self)
      (q := { e.2 with ent := e.2.ent.sample (t.queueLoad e.2.packets).1 (t.queueLoad e.2.packets).2 }) rfl
    rw [List.foldl_cons, waitingPackets_samples l (t.sampleQueue e) (Table.write_canonical ht _ _) hnd.2 fun a ha => ?_]
    · exact hwrite
    · have hne : a.1 ≠ e.1 := fun he => hnd.1 (he ▸ List.mem_map_of_mem ha)
      refine Eq.trans ?_ (hfind a (List.mem_cons_of_mem _ ha))
      show Table.find (Table.write _ _ _ _) a.1 = _
      unfold Table.write
      split
      · rw [Table.find_drop, if_neg hne]
      · rw [Table.find_put, if_neg hne]

section
variable (s : State)

theorem State.sampleQueues_onlyNet : OnlyNet s s.sampleQueues :=
  OnlyNet.foldl (fun t _ => t.setQueue_onlyNet _ _) _ s

theorem State.sampleNodes_onlyNet : OnlyNet s s.sampleNodes := by
  unfold State.sampleNodes
  exact OnlyNet.foldl (fun t _ => t.setNode_onlyNet _ _) _ s

theorem State.notePauses_onlyNet : OnlyNet s s.notePauses := by
  unfold State.notePauses
  exact OnlyNet.foldl (fun t _ => t.notePause_onlyNet _) _ s

theorem State.sampleQueues_kept : SameLoads s s.sampleQueues ∧ s.sampleQueues.net.nodes = s.net.nodes :=
  List.foldlRecOn (motive := fun t : State => SameLoads s t ∧ t.net.nodes = s.net.nodes) _ _ ⟨⟨rfl, fun _ => rfl, rfl⟩, rfl⟩
    fun t ht e _ => ⟨ht.1.trans (t.sampleQueue_kept e).1, (t.sampleQueue_kept e).2.trans ht.2⟩

theorem State.sampleNodes_queues : s.sampleNodes.net.queues = s.net.queues := by
  unfold State.sampleNodes
  exact foldl_keeps (fun t : State => t.net.queues) (fun t k _ => t.sampleNode_queues k) s

theorem State.notePauses_weir : s.notePauses.net.queues = s.net.queues ∧ s.notePauses.net.nodes = s.net.nodes := by
  unfold State.notePauses
  exact ⟨foldl_keeps (fun t : State => t.net.queues) (fun t _ _ => (t.notePause_weir _).1) s,
    foldl_keeps (fun t : State => t.net.nodes) (fun t _ _ => (t.notePause_weir _).2) s⟩

end

section
variable {s : State}

theorem State.sampleQueues_queueAt (hqueues : Table.canonical WeirQueue.empty s.net.queues = true) {k : Nat} {q : WeirQueue}
    (hq : Table.find s.net.queues k = some q) :
    s.sampleQueues.queueAt k = { q with ent := q.ent.sample (s.queueLoad q.packets).1 (s.queueLoad q.packets).2 } :=
  (read_foldl_writes (read := State.queueAt) (key := Prod.fst) (I := SameLoads s)
    (f := fun (t : State) (e : Nat × WeirQueue) => t.sampleQueue e)
    (g := fun e _ => { e.2 with ent := e.2.ent.sample (s.queueLoad e.2.packets).1 (s.queueLoad e.2.packets).2 })
    (fun t e ht => ht.trans (t.sampleQueue_kept e).1)
    (fun t e j ht => by rw [State.sampleQueue, State.queueAt_setQueue, ht.queueLoad]) s.net.queues s ⟨rfl, fun _ => rfl, rfl⟩
    (Table.nodup_keys hqueues)).1 (k, q) (Table.mem_of_find hq)

theorem State.sampleNodes_nodeAt {k : Nat} (hk : k < 32) :
    s.sampleNodes.nodeAt k = { s.nodeAt k with ent := (s.nodeAt k).ent.sample (s.nodeLoad k).1 (s.nodeLoad k).2 } := by
  unfold State.sampleNodes
  exact (read_foldl_writes (read := State.nodeAt) (key := id) (I := fun t => SameLoads s t ∧ t.net.queues = s.net.queues)
    (f := fun (t : State) (k : Nat) => t.sampleNode k)
    (g := fun k n => { n with ent := n.ent.sample (s.nodeLoad k).1 (s.nodeLoad k).2 })
    (fun t k ht => ⟨ht.1.trans ⟨rfl, fun _ => rfl, rfl⟩, (t.sampleNode_queues k).trans ht.2⟩)
    (fun t k j ht => by
      rw [State.sampleNode, State.nodeAt_setNode, ht.1.nodeLoad (congrArg waitingPackets ht.2)]
      by_cases he : j = k
      · rw [he]
        rfl
      · rw [if_neg he]
        exact (if_neg he).symm)
    (List.range 32) s ⟨⟨rfl, fun _ => rfl, rfl⟩, rfl⟩ (by simpa using List.nodup_range)).1 k (List.mem_range.2 hk)

/-- R402: every queue and every service is sampled once, with what waits in it. -/
theorem execQueueSample_latches (hruns : s.netRuns = true) (hqueues : Table.canonical WeirQueue.empty s.net.queues = true)
    (hgtc : s.gtc.toNat % 1024 = 0) :
    ∃ t, exec .queueSample s = .next t ∧ t.dram = s.dram ∧ t.cores = s.cores ∧
      (∀ k q, Table.find s.net.queues k = some q →
        t.queueAt k = { q with ent := q.ent.sample (s.queueLoad q.packets).1 (s.queueLoad q.packets).2 }) ∧
      (∀ k, k < 32 → t.nodeAt k = { s.nodeAt k with ent := (s.nodeAt k).ent.sample (s.nodeLoad k).1 (s.nodeLoad k).2 }) := by
  have honly := (s.sampleQueues_onlyNet.trans (State.sampleNodes_onlyNet _)).trans (State.notePauses_onlyNet _)
  obtain ⟨hloads, hnodes⟩ := s.sampleQueues_kept
  have hwait : waitingPackets s.sampleQueues.net.queues = waitingPackets s.net.queues :=
    waitingPackets_samples _ s hqueues (Table.nodup_keys hqueues) fun e he => Table.find_of_mem (Table.canonical_iff.1 hqueues).1 he
  obtain ⟨hpausequeues, hpausenodes⟩ := s.sampleQueues.sampleNodes.notePauses_weir
  refine ⟨_, execQueueSample_samples s hruns hgtc, honly.dram, honly.cores, fun k q hq => ?_, fun k hk => ?_⟩
  · rw [State.queueAt_of_queues (hpausequeues.trans (State.sampleNodes_queues _)), State.sampleQueues_queueAt hqueues hq]
  · rw [State.nodeAt_of_nodes hpausenodes, State.sampleNodes_nodeAt hk, State.nodeAt_of_nodes hnodes, hloads.nodeLoad hwait]

end

/-! ## The latched values (R402, R404) -/

/-- Two halves of a register that a sum of two small numbers fills. -/
theorem natAt_halves {a b : Nat} (ha : a ≤ 0xFFFF) (hb : b ≤ 0xFFFF) :
    natAt (BitVec.ofNat 32 (a * 65536 + b)) 16 16 = a ∧ natAt (BitVec.ofNat 32 (a * 65536 + b)) 0 16 = b := by
  have h : (a * 65536 + b) % 2 ^ 32 = a * 65536 + b := Nat.mod_eq_of_lt (by omega)
  simp only [natAt, BitVec.toNat_ofNat, h]
  constructor <;> omega

section
variable (s : State)

theorem State.selected_of {s t : State} (hidx : t.reg Reg.WER_Q_IDX = s.reg Reg.WER_Q_IDX) (hnet : t.net = s.net) : t.selected = s.selected := by
  simp only [State.selected, State.nodeAt, State.queueAt, hidx, hnet]

theorem State.selected_setReg {off : Nat} (w : Word32) (h : Reg.WER_Q_IDX ≠ off) : (s.setReg off w).selected = s.selected :=
  State.selected_of ((s.reg_setReg off _ w).trans (if_neg h)) rfl

/-- The selected entity read after it was changed. -/
theorem State.selected_setSelected (x : Entity) : (s.setSelected x).selected = x := by
  have hidx : (s.setSelected x).reg Reg.WER_Q_IDX = s.reg Reg.WER_Q_IDX := by
    unfold State.setSelected
    extract_lets w node
    split <;> rfl
  rw [State.selected, hidx]
  unfold State.setSelected
  extract_lets w node
  split
  · rw [State.nodeAt_setNode, if_pos rfl]
  · rw [State.queueAt_setQueue, if_pos rfl]

theorem State.setSelected_onlyNet (x : Entity) : OnlyNet s (s.setSelected x) := by
  unfold State.setSelected
  extract_lets w node
  exact OnlyNet.ite (s.setNode_onlyNet _ _) (s.setQueue_onlyNet _ _)

theorem State.setSelected_reg (x : Entity) (off : Nat) : (s.setSelected x).reg off = s.reg off := by
  unfold State.setSelected
  extract_lets w node
  split <;> rfl

end

/-- R402, R404: a write of `WER_Q_IDX` latches the selected entity's samples. -/
theorem State.latchQueue_latches (s : State) (value : Word32) :
    (s.latchQueue value).reg Reg.WER_Q_IDX = value &&& 0x80073FFF ∧ (s.latchQueue value).net = s.net ∧
      natAt ((s.latchQueue value).reg Reg.WER_Q_DEPTH) 16 16 = Min.min 0xFFFF (ceilDiv (s.latchQueue value).selected.depth 1024) ∧
      natAt ((s.latchQueue value).reg Reg.WER_Q_DEPTH) 0 16 = Min.min 0xFFFF (ceilDiv (s.latchQueue value).selected.depthMax 1024) ∧
      natAt ((s.latchQueue value).reg Reg.WER_Q_DELAY) 16 16 = Min.min 0xFFFF ((s.latchQueue value).selected.delay / 64) ∧
      natAt ((s.latchQueue value).reg Reg.WER_Q_DELAY) 0 16 = Min.min 0xFFFF ((s.latchQueue value).selected.delayMax / 64) := by
  set u := s.setReg Reg.WER_Q_IDX (value &&& 0x80073FFF) with hu
  set depth := BitVec.ofNat 32
    (Min.min 0xFFFF (ceilDiv u.selected.depth 1024) * 65536 + Min.min 0xFFFF (ceilDiv u.selected.depthMax 1024)) with hdepth
  set delay := BitVec.ofNat 32 (Min.min 0xFFFF (u.selected.delay / 64) * 65536 + Min.min 0xFFFF (u.selected.delayMax / 64)) with hdelay
  have hlatch : s.latchQueue value = (u.setReg Reg.WER_Q_DEPTH depth).setReg Reg.WER_Q_DELAY delay := rfl
  have hreg (off : Nat) : (s.latchQueue value).reg off =
      if off = Reg.WER_Q_DELAY then delay else if off = Reg.WER_Q_DEPTH then depth else u.reg off := by
    rw [hlatch, State.reg_setReg, State.reg_setReg]
  have hsel : (s.latchQueue value).selected = u.selected := by
    rw [hlatch, State.selected_setReg _ _ (by decide), State.selected_setReg _ _ (by decide)]
  have hidx : (s.latchQueue value).reg Reg.WER_Q_IDX = value &&& 0x80073FFF := by
    rw [hreg, if_neg (by decide), if_neg (by decide), hu, State.reg_setReg, if_pos rfl]
  have hd := natAt_halves (Nat.min_le_left 0xFFFF (ceilDiv u.selected.depth 1024)) (Nat.min_le_left 0xFFFF (ceilDiv u.selected.depthMax 1024))
  have hl := natAt_halves (Nat.min_le_left 0xFFFF (u.selected.delay / 64)) (Nat.min_le_left 0xFFFF (u.selected.delayMax / 64))
  have hdepthReg : (s.latchQueue value).reg Reg.WER_Q_DEPTH = depth := by rw [hreg, if_neg (by decide), if_pos rfl]
  have hdelayReg : (s.latchQueue value).reg Reg.WER_Q_DELAY = delay := by rw [hreg, if_pos rfl]
  rw [hsel, hdepthReg, hdelayReg]
  exact ⟨hidx, rfl, hd.1, hd.2, hl.1, hl.2⟩

/-- A read of a latched value returns it and clears its maximum. -/
theorem answerRead_clears {s : State} {off : Nat} (hoff : Reg.WER_Q_IDX ≠ off) (x : Entity) :
    let t := answerRead (s.reg off, (s.setSelected x).setReg off (s.reg off &&& 0xFFFF0000))
    t.host.reads = s.host.reads ++ [s.reg off] ∧ t.reg off = s.reg off &&& 0xFFFF0000 ∧ t.selected = x ∧ t.dram = s.dram := by
  intro t
  set u := (s.setSelected x).setReg off (s.reg off &&& 0xFFFF0000) with hu
  have honly : OnlyNet s u := (s.setSelected_onlyNet x).trans (State.setReg_onlyNet _ _ _)
  have hreg (o : Nat) : t.reg o = u.reg o := rfl
  refine ⟨congrArg (· ++ [s.reg off]) (honly.proj fun t => t.host.reads), ?_, ?_, honly.dram⟩
  · rw [hreg, hu, State.reg_setReg, if_pos rfl]
  · rw [State.selected_of (s := u) (t := t) rfl rfl, hu, State.selected_setReg _ _ hoff, State.selected_setSelected]

/-! ## The statement -/

/-- Settles O36: the packet boundary by `execPacketSchedule_urgent` and `State.sendFrom_sends`, the wheel by `execWheelRelease_releases`,
the samples by `execQueueSample_latches`, the latched values by `State.latchQueue_latches` and `answerRead_clears`. -/
theorem weirSchedules : Obligations.WeirSchedules := by
  unfold Obligations.WeirSchedules
  refine ⟨fun sub s hruns hup => ⟨fun p hp => execPacketSchedule_urgent hruns hup hp, fun hnone => ⟨fun hnext => ?idle, ?send⟩⟩,
    fun s hruns hqueues hnodes => ⟨execWheelRelease_releases hruns hqueues hnodes, execQueueSample_latches hruns hqueues⟩,
    fun x now v k hk => ⟨Entity.fire_waits hk, Entity.fire_releases hk⟩,
    fun w value s hpn => ⟨fun hw => ?latch, ?depth, ?delay⟩⟩
  case idle => simp [exec, execPacketSchedule, hruns, hup, hnone, hnext]
  case send =>
    intro service qk p rest hnext hq
    obtain ⟨honly, hsent, hqueue, hothers, hv⟩ := s.sendFrom_sends (sub := sub.toNat) (service := service) hq
    refine ⟨s.sendFrom sub.toNat service qk, ?_, hsent, by rw [hqueue], ?_, ?_, hothers, honly.dram, honly.cores⟩
    · simp [exec, execPacketSchedule, hruns, hup, hnone, hnext]
    · rw [hqueue]
      exact s.queueSent_f _ _ _
    · rwa [subNo_toNat_self] at hv
  case latch =>
    exact ⟨s.latchQueue value, by simp [exec, execQLatch, hw, hpn], s.latchQueue_latches value⟩
  case depth =>
    obtain ⟨hreads, hreg, hsel, hdram⟩ := answerRead_clears (s := s) (off := Reg.WER_Q_DEPTH) (by decide) { s.selected with depthMax := 0 }
    exact ⟨_, by simp [exec, execQDepthRead, hpn, State.readDepth], hreads, hreg, hsel, hdram⟩
  case delay =>
    obtain ⟨hreads, hreg, hsel, hdram⟩ := answerRead_clears (s := s) (off := Reg.WER_Q_DELAY) (by decide) { s.selected with delayMax := 0 }
    exact ⟨_, by simp [exec, execQDelayRead, hpn, State.readDelay], hreads, hreg, hsel, hdram⟩

end Sys2Proof.Machine

/-!
SUPPORT. Leases and the fence (R426, R445, R452, R453, R475 to R478): what the end of the deliveries leaves, the
two words of the expiry, and the commands of leases.
-/

namespace Sys2Proof.Machine

/-- The registers of the fence. -/
def fenceRegisters : List Nat := [Reg.GTC_FENCE_FENCED.off, Reg.GTC_ERR_CNT_FENCES.off]

/-- What the end of deliveries and of their grants leaves as it is in a past state `p`. -/
structure Ends (p s : State) : Prop where
  rings : s.rings = p.rings
  cores : s.cores = p.cores
  gtc : s.gtc = p.gtc
  system : s.system = p.system
  reg : ∀ off ∈ fenceRegisters, s.reg off = p.reg off

/-- `Ends` by the parts of a state that it speaks of. -/
def EndsParts (p : State) (rings : Table Ring) (cores : Vector Core 16) (gtc : Word64) (system : System) (reg : Nat → Word32) : Prop :=
  rings = p.rings ∧ cores = p.cores ∧ gtc = p.gtc ∧ system = p.system ∧ ∀ off ∈ fenceRegisters, reg off = p.reg off

theorem Ends.refl (s : State) : Ends s s := ⟨rfl, rfl, rfl, rfl, fun _ _ => rfl⟩

theorem Ends.parts {p s : State} (h : Ends p s) : EndsParts p s.rings s.cores s.gtc s.system s.reg :=
  ⟨h.rings, h.cores, h.gtc, h.system, h.reg⟩

/-- A state written out field by field. -/
theorem Ends.of {p s : State} (h : EndsParts p s.rings s.cores s.gtc s.system s.reg) : Ends p s :=
  ⟨h.1, h.2.1, h.2.2.1, h.2.2.2.1, h.2.2.2.2⟩

theorem Ends.ite {p s t : State} {c : Prop} [Decidable c] (hs : Ends p s) (ht : Ends p t) : Ends p (if c then s else t) := by
  split
  · exact hs
  · exact ht

theorem Ends.foldl {p : State} {α : Type} {f : State → α → State} {l : List α} {s : State} (h : Ends p s)
    (hf : ∀ s a, Ends p s → Ends p (f s a)) : Ends p (l.foldl f s) :=
  List.foldlRecOn l f h fun t ht a _ => hf t a ht

theorem Ends.of_onlyLogs {p s t : State} (h : Ends p s) (ht : OnlyLogs s t) (hr : ∀ off ∈ fenceRegisters, t.reg off = s.reg off) : Ends p t :=
  ⟨ht.rings.trans h.rings, ht.cores.trans h.cores, ht.gtc.trans h.gtc, ht.system.trans h.system, fun off ho => (hr off ho).trans (h.reg off ho)⟩

theorem fenceRegisters_not_logged {off : Nat} (h : off ∈ fenceRegisters) : off ∉ Reg.FLT_LOG_HEAD :: logRegisters := by
  revert off
  decide

section
variable {p s t : State}

theorem Ends.setReg {off w} (h : Ends p s) (ho : off ∉ fenceRegisters := by decide) : Ends p (s.setReg off w) :=
  h.of_onlyLogs (s.setReg_onlyLogs off w) fun x hx => by
    rw [State.reg_setReg, if_neg]
    rintro rfl
    exact ho hx

theorem Ends.setFld {f v} (h : Ends p s) (ho : f.off ∉ fenceRegisters := by decide) : Ends p (s.setFld f v) := h.setReg ho
theorem Ends.errAdd {f k} (h : Ends p s) (ho : f.off ∉ fenceRegisters := by decide) : Ends p (s.errAdd f k) := h.setFld ho

theorem Ends.count {u k n} (h : Ends p s) : Ends p (s.count u k n) :=
  h.of_onlyLogs (s.count_onlyLogs u k n) fun _ ho => s.count_reg (fenceRegisters_not_logged ho) u k n

theorem Ends.engineAccess {cls write a n} (h : Ends p s) : Ends p (s.engineAccess cls write a n) :=
  h.of_onlyLogs (s.engineAccess_onlyLogs cls write a n) fun _ ho => s.engineAccess_reg (fenceRegisters_not_logged ho) cls write a n

theorem Ends.writeDram {a bs} (h : Ends p s) : Ends p (s.writeDram a bs) := .of h.parts


theorem Ends.interrupt {fn vector} (h : Ends p s) : Ends p (s.interrupt fn vector) :=
  .of h.parts

theorem Ends.setTaken {x} (h : Ends p s) : Ends p (s.setTaken x) :=
  .of h.parts

theorem Ends.finish {x status detail output} (h : Ends p s) : Ends p (s.finish x status detail output) :=
  h.setTaken

theorem Ends.engineWrite {cls a bs} (h : Ends p s) : Ends p (s.engineWrite cls a bs) :=
  h.writeDram.engineAccess

theorem Ends.hostWrite {a bs} (h : Ends p s) : Ends p (s.hostWrite a bs) :=
  .of h.parts

theorem Ends.setController {c} (h : Ends p s) : Ends p (s.setController c) :=
  .of h.parts

theorem Ends.setCq {q} (h : Ends p s) : Ends p (s.setCq q) :=
  .of h.parts

theorem Ends.putCqe {q dw0 sqHead sqid cid status} (h : Ends p s) : Ends p (s.putCqe q dw0 sqHead sqid cid status) :=
  .ite h.hostWrite.setCq.interrupt h.hostWrite.setCq

theorem Ends.nvmeComplete {fn sqid cid dw0 status} (h : Ends p s) : Ends p (s.nvmeComplete fn sqid cid dw0 status) := by
  unfold State.nvmeComplete
  refine .ite h ?_
  split
  · split
    · extract_lets s1 s2
      have h1 : Ends p s1 := h.count
      have h2 : Ends p s2 := .ite h1.errAdd.setController h1
      exact .ite h2.setCq h2.putCqe
    · exact h
  · exact h

theorem Ends.setCmdRing {i r} (h : Ends p s) : Ends p (s.setCmdRing i r) :=
  .of h.parts

theorem Ends.putEntry {i r e} (h : Ends p s) : Ends p (s.putEntry i r e) :=
  h.hostWrite.setCmdRing.count.interrupt

theorem Ends.settleDelete {i} (h : Ends p s) : Ends p (s.settleDelete i) := by
  unfold State.settleDelete
  split
  · split
    · exact .ite (.nvmeComplete (.of h.parts)) h
    · exact h
  · exact h

theorem Ends.completeCommand {ref result status data} (h : Ends p s) : Ends p (s.completeCommand ref result status data) := by
  unfold State.completeCommand
  split
  · exact .of h.parts
  · split
    · exact h
    · split
      · exact h
      · extract_lets r e s1
        have h1 : Ends p s1 := .ite h.setCmdRing (.ite h.setCmdRing h.putEntry)
        exact h1.settleDelete

theorem Ends.showStore (h : Ends p s) : Ends p s.showStore :=
  h.setFld

theorem Ends.dropPart {q} (h : Ends p s) : Ends p (s.dropPart q) :=
  .showStore (.of h.parts)

theorem Ends.setSubport {n q} (h : Ends p s) : Ends p (s.setSubport n q) :=
  .of h.parts

theorem Ends.setQueue {k q} (h : Ends p s) : Ends p (s.setQueue k q) :=
  .of h.parts

theorem Ends.weirDrop {qcn all} (h : Ends p s) : Ends p (s.weirDrop qcn all) :=
  h.foldl fun _ _ ht => ht.setQueue

theorem Ends.setQp {qcn q} (h : Ends p s) : Ends p (s.setQp qcn q) :=
  .of h.parts

theorem Ends.deliveryRecord {x slot flags gen bytes resends} (h : Ends p s) : Ends p (s.deliveryRecord x slot flags gen bytes resends) :=
  .ite h h.engineWrite

theorem Ends.endDelivery {d status} (h : Ends p s) : Ends p (s.endDelivery d status) := by
  unfold State.endDelivery
  extract_lets _ s1 _ s2 flags
  have h1 : Ends p s1 := .of h.parts
  have h2 : Ends p s2 := .ite h1.dropPart (.of h1.parts)
  split
  · exact h2.deliveryRecord.finish
  · exact h2

theorem Ends.setRegion {r e} (h : Ends p s) : Ends p (s.setRegion r e) :=
  .setFld (.of h.parts)

theorem Ends.registerNow {x detail} (h : Ends p s) : Ends p (s.registerNow x detail) :=
  .ite h h.setRegion.engineWrite.finish

theorem Ends.endRevoke {r n} (h : Ends p s) : Ends p (s.endRevoke r n) := by
  unfold State.endRevoke
  extract_lets e s1
  have h1 : Ends p s1 := h.setRegion
  split
  · exact h
  · split
    · exact .ite h1.finish h1.registerNow
    · exact h1

theorem Ends.settleRevokes (h : Ends p s) : Ends p s.settleRevokes :=
  h.foldl fun _ _ ht => .ite ht.endRevoke ht

theorem Ends.endQpWork {qcn q cause owner others} (h : Ends p s) : Ends p (s.endQpWork qcn q cause owner others) := by
  unfold State.endQpWork
  extract_lets code mine s1 shares
  have h1 : Ends p s1 := h.foldl fun _ _ ht => ht.endDelivery
  refine h1.foldl fun _ _ ht => ?_
  split
  · exact .of ht.parts
  · exact ht

theorem Ends.qpError {qcn cause owner others command} (h : Ends p s) : Ends p (s.qpError qcn cause owner others command) := by
  unfold State.qpError
  split
  · exact h
  · exact .ite h (.settleRevokes (.endQpWork (.ite h.setQp.weirDrop.setSubport h.setQp.weirDrop.setSubport.errAdd)))

theorem Ends.fenceDeliveries (h : Ends p s) : Ends p s.fenceDeliveries :=
  h.foldl fun _ _ ht => .ite ht.qpError ht

theorem Ends.endGrant {g bytes status} (h : Ends p s) : Ends p (s.endGrant g bytes status) :=
  h.completeCommand

theorem Ends.endHostDelivery {d status flags} (h : Ends p s) : Ends p (s.endHostDelivery d status flags) := by
  unfold State.endHostDelivery
  extract_lets _ s1 _ s2 gen
  have h1 : Ends p s1 := .of h.parts
  have h2 : Ends p s2 := .ite h1.dropPart (.of h1.parts)
  split
  · exact h2
  · extract_lets a s3
    have h3 : Ends p s3 := .ite h2 h2.engineWrite
    exact h3.finish


theorem Ends.fenceHostDeliveries (h : Ends p s) : Ends p s.fenceHostDeliveries := by
  unfold State.fenceHostDeliveries
  refine h.foldl fun t d ht => ?_
  split
  · exact ht.endGrant.endHostDelivery
  · exact ht.endHostDelivery

end

/-! ## The host deliveries end with the fence (R426) -/

section
variable (s : State)

theorem State.putCqe_deliveries (q : NvmeCq) (dw0 sqHead sqid cid status : Nat) :
    (s.putCqe q dw0 sqHead sqid cid status).host.deliveries = s.host.deliveries := by
  unfold State.putCqe
  extract_lets
  split <;> rfl

theorem State.nvmeComplete_deliveries (fn sqid cid dw0 status : Nat) :
    (s.nvmeComplete fn sqid cid dw0 status).host.deliveries = s.host.deliveries := by
  unfold State.nvmeComplete
  split
  · rfl
  split
  · split
    · extract_lets s1 s2
      have h1 : s1.host = s.host := (s.count_onlyLogs unitHST 0 1).proj State.host
      have h2 : s2.host.deliveries = s.host.deliveries := by
        rw [← h1]
        unfold s2
        split <;> rfl
      split
      · exact h2
      · exact (s2.putCqe_deliveries ..).trans h2
    · rfl
  · rfl

theorem State.settleDelete_deliveries (i : Nat) : (s.settleDelete i).host.deliveries = s.host.deliveries := by
  unfold State.settleDelete
  split
  · split
    · split
      · exact State.nvmeComplete_deliveries ..
      · rfl
    · rfl
  · rfl

theorem State.putEntry_deliveries (i : Nat) (r : CmdRing) (e : HeldEntry) : (s.putEntry i r e).host.deliveries = s.host.deliveries := by
  unfold State.putEntry
  extract_lets s1 t s2
  have h : (s2.count unitHST 3 1).host = s2.host := (s2.count_onlyLogs unitHST 3 1).host
  exact (congrArg HostSide.deliveries h :)

theorem State.completeCommand_deliveries (ref : CmdRef) (result status : Nat) (data : List Byte) :
    (s.completeCommand ref result status data).host.deliveries = s.host.deliveries := by
  unfold State.completeCommand
  split
  · rfl
  · split
    · rfl
    · split
      · rfl
      · extract_lets r e s1
        refine (s1.settleDelete_deliveries _).trans ?_
        unfold s1
        split
        · rfl
        · split
          · rfl
          · exact s.putEntry_deliveries ..

/-- The two deliveries are of one descriptor. -/
def HostDelivery.same (d e : HostDelivery) : Bool := e.core == d.core && e.ticket == d.ticket

theorem State.endHostDelivery_deliveries (d : HostDelivery) (status flags : Nat) :
    (s.endHostDelivery d status flags).host.deliveries = s.host.deliveries.filter (fun e => !d.same e) := by
  unfold State.endHostDelivery
  extract_lets _ s1 _ s2 gen
  have h2 : s2.host = s1.host := by
    unfold s2
    split <;> rfl
  refine Eq.trans ?_ (congrArg HostSide.deliveries h2)
  split
  · rfl
  · extract_lets a s3
    change s3.host.deliveries = _
    unfold s3
    split
    · rfl
    · exact congrArg HostSide.deliveries ((State.engineAccess_onlyLogs _ _ _ _ _).proj State.host)

/-- A fold that ends the deliveries of a list leaves none of them. -/
theorem foldl_deliveries {f : State → HostDelivery → State}
    (hf : ∀ s d, (f s d).host.deliveries = s.host.deliveries.filter (fun e => !d.same e)) (l : List HostDelivery) :
    (l.foldl f s).host.deliveries = s.host.deliveries.filter (fun e => !l.any (·.same e)) := by
  induction l generalizing s with
  | nil => simp
  | cons d l ih => rw [List.foldl_cons, ih, hf, List.filter_filter]; simp [Bool.and_comm]

/-- FENCED leaves no delivery to the host. -/
theorem State.fenceHostDeliveries_deliveries : s.fenceHostDeliveries.host.deliveries = [] := by
  unfold State.fenceHostDeliveries
  rw [foldl_deliveries]
  · refine List.filter_eq_nil_iff.2 fun d hd => ?_
    rw [Bool.not_eq_true, Bool.not_eq_false']
    exact List.any_eq_true.2 ⟨d, hd, by simp [HostDelivery.same]⟩
  · intro t d
    rw [State.endHostDelivery_deliveries]
    split
    · exact congrArg _ (t.completeCommand_deliveries ..)
    · rfl

/-! ## What the leases and the manager touch -/

/-- `t` is `s` but for the module's system state and what logging touches. -/
def OnlySystem (s t : State) : Prop := OnlyLogs s { t with system := s.system }

theorem OnlySystem.trans {s t u : State} (h : OnlySystem s t) (g : OnlySystem t u) : OnlySystem s u := by
  unfold OnlySystem OnlyLogs at *
  rw [← h, ← g]

theorem OnlyLogs.onlySystem {s t : State} (h : OnlyLogs s t) : OnlySystem s t := by
  unfold OnlySystem OnlyLogs at *
  rw [← h]

section
variable {s t : State} (h : OnlySystem s t)
include h

theorem OnlySystem.part : t.part = s.part := OnlyLogs.proj h State.part
theorem OnlySystem.gtc : t.gtc = s.gtc := OnlyLogs.proj h State.gtc
theorem OnlySystem.dram : t.dram = s.dram := OnlyLogs.proj h State.dram
theorem OnlySystem.cores : t.cores = s.cores := OnlyLogs.proj h State.cores
theorem OnlySystem.rings : t.rings = s.rings := OnlyLogs.proj h State.rings
theorem OnlySystem.net : t.net = s.net := OnlyLogs.proj h State.net
theorem OnlySystem.host : t.host = s.host := OnlyLogs.proj h State.host
theorem OnlySystem.fault : t.fault = s.fault := OnlyLogs.proj h State.fault

end

theorem State.setSystem_onlySystem (y : System) : OnlySystem s (s.setSystem y) := rfl
theorem State.setReg_onlySystem (off : Nat) (w : Word32) : OnlySystem s (s.setReg off w) := rfl

/-! ## FENCED and the expiry (R475 to R478) -/

section
variable {s} (hoff : s.flag Reg.GTC_FENCE_FENCED = false)
include hoff

/-- The fence of a module that is not fenced: FENCED is set and counted, and the deliveries end. -/
theorem State.setFenced_ends :
    Ends ((s.setFlag Reg.GTC_FENCE_FENCED true).errAdd Reg.GTC_ERR_CNT_FENCES 1) s.setFenced ∧ s.setFenced.host.deliveries = [] := by
  unfold State.setFenced
  rw [if_neg (by simp [hoff])]
  exact ⟨(Ends.refl _).fenceDeliveries.fenceHostDeliveries, State.fenceHostDeliveries_deliveries _⟩

theorem State.setFenced_flag : s.setFenced.flag Reg.GTC_FENCE_FENCED = true := by
  have h := (State.setFenced_ends hoff).1.reg Reg.GTC_FENCE_FENCED.off (by decide)
  unfold State.flag
  rw [h]
  refine Eq.trans ?_ (State.flag_setFlag_self s Reg.GTC_FENCE_FENCED true rfl (by decide))
  exact congrArg (bitAt · _) ((State.reg_setFld _ _ _ _).trans (if_neg (by decide)))

theorem State.setFenced_fences :
    s.setFenced.fld Reg.GTC_ERR_CNT_FENCES = min 0xFFFF (s.fld Reg.GTC_ERR_CNT_FENCES + 1) := by
  have h := (State.setFenced_ends hoff).1.reg Reg.GTC_ERR_CNT_FENCES.off (by decide)
  have hfld : (s.setFlag Reg.GTC_FENCE_FENCED true).fld Reg.GTC_ERR_CNT_FENCES = s.fld Reg.GTC_ERR_CNT_FENCES :=
    State.fld_setFld_of_disjoint _ _ _ _ (.inl (by decide))
  refine (congrArg (natAt · _ _) h).trans ((State.fld_setFld_self _ _ _ (by decide)).trans ?_)
  rw [hfld]
  exact Nat.mod_eq_of_lt (lt_of_le_of_lt (Nat.min_le_left _ _) (by decide))

end

/-- The write of the upper word: the expiry is both words, and a leased module whose expiry is behind the GTC is fenced. -/
theorem State.writeLeaseHi_expiry (value : Word32) :
    ∃ u, OnlySystem s u ∧ u.system = { s.system with expiry := value ++ s.reg Reg.GTC_LEASE_LO } ∧
      (∀ off ∉ Reg.FLT_LOG_HEAD :: logRegisters, u.reg off = if off = Reg.GTC_LEASE_HI then value else s.reg off) ∧
      s.writeLeaseHi value = if s.leased && decide ((value ++ s.reg Reg.GTC_LEASE_LO : Word64) < s.gtc) then u.setFenced else u := by
  have hlo : (s.setReg Reg.GTC_LEASE_HI value).reg Reg.GTC_LEASE_LO = s.reg Reg.GTC_LEASE_LO :=
    (s.reg_setReg _ _ _).trans (if_neg (by decide))
  unfold State.writeLeaseHi
  extract_lets _ v e _ u
  have he : value ++ s.reg Reg.GTC_LEASE_LO = e := congrArg (value ++ ·) hlo.symm
  rw [he]
  clear_value e
  have hcount : OnlyLogs (v.setSystem { v.system with expiry := e }) u := State.count_onlyLogs _ _ _ _
  have hu : OnlySystem s u := (s.setReg_onlySystem _ _).trans ((v.setSystem_onlySystem _).trans hcount.onlySystem)
  have hreg : ∀ off ∉ Reg.FLT_LOG_HEAD :: logRegisters, u.reg off = if off = Reg.GTC_LEASE_HI then value else s.reg off :=
    fun off ho => (State.count_reg _ ho _ _ _).trans (s.reg_setReg _ _ _)
  have hleased : u.leased = s.leased := by
    unfold State.leased State.flag
    rw [hreg _ (by decide), if_neg (by decide), hu.part]
  refine ⟨u, hu, hcount.system, hreg, ?_⟩
  rw [hleased, hu.gtc]

/-- UNFENCE leaves all but the register of the fence. -/
theorem State.unfence_regs : { s.unfence with regs := s.regs } = s := by
  unfold State.unfence
  split <;> rfl

theorem State.unfence_onlyLogs : OnlyLogs s s.unfence := by
  unfold State.unfence
  split <;> rfl

theorem State.unfence_flag (h : s.gtc < s.system.expiry) : s.unfence.flag Reg.GTC_FENCE_FENCED = false := by
  unfold State.unfence
  rw [if_pos h]
  exact State.flag_setFlag_self s Reg.GTC_FENCE_FENCED false rfl (by decide)

theorem State.unfence_reg {off : Nat} (h : off ≠ Reg.GTC_FENCE_FENCED.off) : s.unfence.reg off = s.reg off := by
  unfold State.unfence
  split
  · exact (s.reg_setFld _ _ _).trans (if_neg h)
  · rfl

end

/-- Both words of an expiry make it again. -/
theorem expiry_halves (e : Word64) : (bitsAt e 32 32 ++ e.setWidth 32 : Word64) = e := by
  refine BitVec.eq_of_getLsbD_eq fun i hi => ?_
  simp only [bitsAt, BitVec.getLsbD_append, BitVec.getLsbD_setWidth, BitVec.getLsbD_extractLsb']
  split
  · simp [*]
  · rw [decide_eq_true (by omega), Bool.true_and, Nat.add_sub_cancel' (by omega)]

/-- An expiry above the GTC: it stands in both words of the register, and nothing is fenced. -/
theorem State.writeLease_expiry (s : State) (e : Word64) (h : s.gtc < e) :
    OnlySystem s (s.writeLease e) ∧ (s.writeLease e).system = { s.system with expiry := e } ∧
      ∀ off ∉ Reg.FLT_LOG_HEAD :: logRegisters, (s.writeLease e).reg off =
        if off = Reg.GTC_LEASE_HI then bitsAt e 32 32 else if off = Reg.GTC_LEASE_LO then e.setWidth 32 else s.reg off := by
  obtain ⟨u, hu, hsys, hreg, heq⟩ := (s.setReg Reg.GTC_LEASE_LO (e.setWidth 32)).writeLeaseHi_expiry (bitsAt e 32 32)
  have hlo : (bitsAt e 32 32 ++ (s.setReg Reg.GTC_LEASE_LO (e.setWidth 32)).reg Reg.GTC_LEASE_LO : Word64) = e := by
    rw [State.reg_setReg_self]
    exact expiry_halves e
  have hnot : decide (e < (s.setReg Reg.GTC_LEASE_LO (e.setWidth 32)).gtc) = false := decide_eq_false (BitVec.not_lt.2 (BitVec.le_of_lt h))
  rw [hlo] at hsys heq
  rw [hnot, Bool.and_false, if_neg Bool.false_ne_true] at heq
  unfold State.writeLease
  rw [heq]
  exact ⟨((s.setReg_onlySystem _ _).trans hu), hsys, fun off ho => (hreg off ho).trans (congrArg _ (s.reg_setReg _ _ _))⟩

/-! ## The commands of leases -/

theorem execLeaseRenewal_due {s : State} (hin : s.inSystem = true) (hleased : s.leased = true)
    (hdue : s.system.lastAsk = none ∨ ∃ g, s.system.lastAsk = some g ∧ s.system.lease ≤ 4 * (s.gtc - g).toNat) :
    exec .leaseRenewal s = .next { s with system := { s.system with
      lastAsk := some s.gtc, asked := true, out := s.system.out ++ [.renewal s.gtc] } } := by
  change execLeaseRenewal s = _
  unfold execLeaseRenewal
  rcases hdue with hnone | ⟨g, hsome, hg⟩
  · simp only [hin, hleased, hnone]
    rfl
  · simp only [hin, hleased, hsome, hg, decide_true]
    rfl

theorem execLeaseGrant_taken {s : State} {requested granted : Word64} {lease n : Nat} {term : Word32} (hin : s.inSystem = true)
    (hleased : s.leased = true) (hasked : s.system.asked = true) (hle : requested ≤ granted)
    (hn : n = max 500000000 (min 30000000000 lease)) (hlate : (granted - requested).toNat ≤ n)
    (hexp : s.gtc < requested + BitVec.ofNat 64 n) :
    ∃ t, exec (.leaseGrant requested granted lease term) s = .next t ∧ t.system.expiry = requested + BitVec.ofNat 64 n ∧
      t.system.asked = false ∧ t.system.lease = n ∧ t.flag Reg.GTC_FENCE_FENCED = false ∧
      t.reg Reg.GTC_LEASE_LO = (requested + BitVec.ofNat 64 n).setWidth 32 ∧ t.reg Reg.GTC_TERM = term ∧
      t.gtc = s.gtc ∧ t.dram = s.dram ∧ t.cores = s.cores ∧ t.rings = s.rings ∧ t.net = s.net ∧ t.host = s.host := by
  have hexec : exec (.leaseGrant requested granted lease term) s = .next ((((s.setSystem { s.system with asked := false, lease := n }).setReg
      Reg.GTC_TERM term).writeLease (requested + BitVec.ofNat 64 n)).unfence) := by
    change execLeaseGrant requested granted lease term s = _
    unfold execLeaseGrant
    rw [hin, hleased, hasked, show clampTo 500000000 30000000000 lease = n from hn.symm]
    extract_lets v
    rw [decide_eq_false (BitVec.not_lt.2 hle), decide_eq_false (Nat.not_lt.2 hlate)]
    rfl
  generalize requested + BitVec.ofNat 64 n = e at *
  obtain ⟨hw, hsys, hreg⟩ :=
    State.writeLease_expiry ((s.setSystem { s.system with asked := false, lease := n }).setReg Reg.GTC_TERM term) e hexp
  generalize State.writeLease _ e = w at hexec hw hsys hreg
  have ht : OnlySystem s w.unfence :=
    ((s.setSystem_onlySystem _).trans ((State.setReg_onlySystem _ _ _).trans hw)).trans w.unfence_onlyLogs.onlySystem
  have hsys' := w.unfence_onlyLogs.system.trans hsys
  refine ⟨w.unfence, hexec, congrArg System.expiry hsys', congrArg System.asked hsys', congrArg System.lease hsys',
    w.unfence_flag ?_, ?_, ?_, ht.gtc, ht.dram, ht.cores, ht.rings, ht.net, ht.host⟩
  · rw [hsys, hw.gtc]
    exact hexp
  · rw [w.unfence_reg (by decide), hreg _ (by decide)]
    rfl
  · rw [w.unfence_reg (by decide), hreg _ (by decide)]
    exact State.reg_setReg_self _ _ _

theorem execFence_due {s : State} (hleased : s.leased = true) (hoff : s.flag Reg.GTC_FENCE_FENCED = false) (hexp : s.system.expiry ≤ s.gtc) :
    ∃ t, exec .fence s = .next t ∧ t.flag Reg.GTC_FENCE_FENCED = true ∧ t.host.deliveries = [] ∧
      t.fld Reg.GTC_ERR_CNT_FENCES = min 0xFFFF (s.fld Reg.GTC_ERR_CNT_FENCES + 1) ∧ t.gtc = s.gtc ∧ t.rings = s.rings ∧ t.cores = s.cores := by
  obtain ⟨hends, hnone⟩ := State.setFenced_ends hoff
  have hexec : exec .fence s = .next s.setFenced := by
    change execFence s = _
    unfold execFence
    rw [hleased, decide_eq_true hexp]
    rfl
  exact ⟨_, hexec, State.setFenced_flag hoff, hnone, State.setFenced_fences hoff, hends.gtc, hends.rings, hends.cores⟩

section
variable {s : State} {w : Writer} (hmay : s.mayWrite w = true)
include hmay

theorem execLeaseExpiryWrite_open (value : Word32) (hoff : s.flag Reg.GTC_FENCE_FENCED = false)
    (hexp : s.gtc ≤ value ++ s.reg Reg.GTC_LEASE_LO) :
    ∃ t, exec (.leaseExpiryWrite w value) s = .next t ∧
      t.system.expiry = value ++ s.reg Reg.GTC_LEASE_LO ∧ t.reg Reg.GTC_LEASE_HI = value ∧ t.flag Reg.GTC_FENCE_FENCED = false ∧
      t.dram = s.dram ∧ t.cores = s.cores ∧ t.net = s.net ∧ t.host = s.host := by
  obtain ⟨u, hu, hsys, hreg, heq⟩ := s.writeLeaseHi_expiry value
  rw [decide_eq_false (BitVec.not_lt.2 hexp), Bool.and_false, if_neg Bool.false_ne_true] at heq
  refine ⟨u, ?_, congrArg System.expiry hsys, hreg _ (by decide), ?_, hu.dram, hu.cores, hu.net, hu.host⟩
  · change execLeaseExpiryWrite w value s = _
    unfold execLeaseExpiryWrite
    rw [if_pos hmay, heq]
  · unfold State.flag
    rw [hreg _ (by decide)]
    exact hoff

theorem execLeaseExpiryWrite_fences (value : Word32) (hleased : s.leased = true) (hoff : s.flag Reg.GTC_FENCE_FENCED = false)
    (hexp : value ++ s.reg Reg.GTC_LEASE_LO < s.gtc) :
    ∃ t, exec (.leaseExpiryWrite w value) s = .next t ∧
      t.system.expiry = value ++ s.reg Reg.GTC_LEASE_LO ∧ t.flag Reg.GTC_FENCE_FENCED = true ∧ t.rings = s.rings ∧ t.cores = s.cores := by
  obtain ⟨u, hu, hsys, hreg, heq⟩ := s.writeLeaseHi_expiry value
  rw [hleased, decide_eq_true hexp, Bool.and_true, if_pos rfl] at heq
  have huoff : u.flag Reg.GTC_FENCE_FENCED = false := by
    unfold State.flag
    rw [hreg _ (by decide)]
    exact hoff
  have hends := (State.setFenced_ends huoff).1
  refine ⟨u.setFenced, ?_, ?_, State.setFenced_flag huoff, hends.rings.trans hu.rings, hends.cores.trans hu.cores⟩
  · change execLeaseExpiryWrite w value s = _
    unfold execLeaseExpiryWrite
    rw [if_pos hmay, heq]
  · exact congrArg System.expiry (hends.system.trans hsys)

theorem execUnfence_eq : exec (.unfence w) s = .next s.unfence := by
  change execUnfence w s = _
  unfold execUnfence
  rw [if_pos hmay]

end

/-- Settles O45: the expiry takes effect with its upper word, so a grant's two words are the expiry again, and the end of the
deliveries leaves the fence. -/
theorem leases : Obligations.Leases := by
  unfold Obligations.Leases
  refine ⟨fun s => execLeaseRenewal_due, fun requested granted lease n term s => execLeaseGrant_taken,
    fun s hleased hoff => ⟨execFence_due hleased hoff, fun w value hmay =>
      ⟨execLeaseExpiryWrite_open hmay value hoff, execLeaseExpiryWrite_fences hmay value hleased hoff⟩⟩,
    fun w s hmay => ⟨fun h => ?_, fun h => ?_⟩⟩
  · exact ⟨_, execUnfence_eq hmay, s.unfence_flag h, s.unfence_regs⟩
  · rw [execUnfence_eq hmay]
    exact congrArg _ (if_neg (BitVec.not_lt.2 h))

end Sys2Proof.Machine

/-!
SUPPORT. The manager's duties and the alignment of time (R27, R451, R454 to R458, R462, R466 to R469, R476).
-/

namespace Sys2Proof.Machine

/-! ## The manager's rows (R451, R454 to R456, R462, R466 to R469) -/

/-- The positions of a block that some bitmap drops. -/
def joinedDrops (positions : Nat) (maps : List (List Nat)) : List Nat :=
  (List.range positions).filter (fun p => maps.any (fun m => m.contains p))

theorem mem_joinedDrops {positions p : Nat} {maps : List (List Nat)} :
    p ∈ joinedDrops positions maps ↔ p < positions ∧ ∃ m ∈ maps, p ∈ m := by
  simp [joinedDrops, List.mem_filter]

/-- The survivor counts of the first `n` blocks, `key b` the key of block `b`. -/
def survivorCounts (drops : Table (List Nat × Nat)) (key : Nat → Nat) (n : Nat) : List (Nat × Nat) :=
  (List.range n).map (fun b => (b, ((Table.find drops (key b)).getD default).2))

/-- Where every earlier block has its drop map, what DROP_MAP collects is the survivor count of each. -/
theorem filterMap_survivorCounts {drops : Table (List Nat × Nat)} {key : Nat → Nat} {n : Nat}
    (h : ∀ b, b < n → (Table.find drops (key b)).isSome) :
    (List.range n).filterMap (fun b => (Table.find drops (key b)).map (fun d => (b, d.2))) = survivorCounts drops key n := by
  unfold survivorCounts
  rw [← List.filterMap_eq_map]
  refine List.filterMap_congr fun b hb => ?_
  obtain ⟨d, hd⟩ := Option.isSome_iff_exists.1 (h b (List.mem_range.1 hb))
  simp [hd]

theorem survivorCounts_getElem? {drops : Table (List Nat × Nat)} {key : Nat → Nat} {n b : Nat} {d : List Nat × Nat} (hb : b < n)
    (hd : Table.find drops (key b) = some d) : (survivorCounts drops key n)[b]? = some (b, d.2) := by
  simp [survivorCounts, hb, hd]

section
variable {s : State} (hin : s.inSystem = true)
include hin

theorem execWorkerDead_dead (worker spare : BitVec 14) (group : BitVec 12) (place : BitVec 6) (lastGrant : Word64) (hlast : lastGrant ≤ s.gtc)
    (hlapsed : s.system.lease + 1000000000 ≤ (s.gtc - lastGrant).toNat) (hnew : ∀ e ∈ s.system.dead, e.1 ≠ worker.toNat) :
    ∃ t, exec (.workerDead worker spare group place lastGrant) s = .next t ∧
      Table.find t.system.servers (group.toNat * 256 + place.toNat) = some spare.toNat ∧
      (worker.toNat, group.toNat * 256 + place.toNat) ∈ t.system.dead ∧
      t.system.out = s.system.out ++ [.newServer place.toNat spare.toNat] ∧ { t with system := s.system } = s := by
  have hdead : s.system.dead.any (fun d => d.1 == worker.toNat) = false :=
    List.any_eq_false.2 fun e he => by simpa using hnew e he
  refine ⟨(s.setSystem { s.system with
    servers := Table.put s.system.servers (group.toNat * 256 + place.toNat) spare.toNat
    dead := s.system.dead ++ [(worker.toNat, group.toNat * 256 + place.toNat)] }).tell (.newServer place.toNat spare.toNat), ?_,
    (Table.find_put _ _ _ _).trans (if_pos rfl), List.mem_append_right _ (List.mem_singleton.2 rfl), rfl, rfl⟩
  change execWorkerDead worker spare group place lastGrant s = _
  unfold execWorkerDead
  simp only [hin, decide_eq_true hlast, decide_eq_true hlapsed, hdead]
  rfl

theorem execManagerTakeover_takes {own : Word64} {rest : List Word64} (hoff : s.system.office = false) (hfive : (own :: rest).length ≤ 5)
    (hown : own ≤ s.gtc ∧ s.system.lease ≤ (s.gtc - own).toNat)
    (hvotes : 3 ≤ ((own :: rest).filter (fun g => decide (g ≤ s.gtc) && decide (s.system.lease ≤ (s.gtc - g).toNat))).length) :
    ∃ t, exec (.managerTakeover (own :: rest)) s = .next t ∧ t.system.office = true ∧ t.reg Reg.GTC_TERM = s.reg Reg.GTC_TERM + 1 ∧
      t.system.out = s.system.out ++ [.askVotes (s.reg Reg.GTC_TERM + 1).toNat] ∧ { t with system := s.system, regs := s.regs } = s := by
  refine ⟨((s.tell (.askVotes (s.reg Reg.GTC_TERM + 1).toNat)).setReg Reg.GTC_TERM (s.reg Reg.GTC_TERM + 1)).setSystem
    { (s.tell (.askVotes (s.reg Reg.GTC_TERM + 1).toNat)).system with office := true }, ?_, rfl, State.reg_setReg_self _ _ _, rfl, rfl⟩
  change execManagerTakeover (own :: rest) s = _
  unfold execManagerTakeover
  simp only [hin, hoff, List.head?_cons, Option.any_some, decide_eq_true hown.1, decide_eq_true hown.2, decide_eq_true hvotes,
    decide_eq_true hfive]
  rfl

theorem execDropMap_joins (epoch block : BitVec 32) (positions : Nat) (maps : List (List Nat)) (hpos : positions ≤ 65536)
    (hnew : Table.find s.system.drops (epoch.toNat * 2 ^ 32 + block.toNat) = none)
    (hearlier : ∀ b, b < block.toNat → (Table.find s.system.drops (epoch.toNat * 2 ^ 32 + b)).isSome) :
    ∃ t drops counts, exec (.dropMap epoch block positions maps) s = .next t ∧
      (∀ p, p ∈ drops ↔ p < positions ∧ ∃ m ∈ maps, p ∈ m) ∧
      drops.Nodup ∧ t.system.out = s.system.out ++ [.dropMap block.toNat drops counts] ∧ counts.length = block.toNat ∧
      (∀ b, b < block.toNat → ∃ d k, Table.find s.system.drops (epoch.toNat * 2 ^ 32 + b) = some (d, k) ∧ counts[b]? = some (b, k)) ∧
      Table.find t.system.drops (epoch.toNat * 2 ^ 32 + block.toNat) = some (drops, positions - drops.length) ∧
      { t with system := s.system } = s := by
  refine ⟨(s.setSystem { s.system with
    drops := Table.put s.system.drops (epoch.toNat * 2 ^ 32 + block.toNat)
      (joinedDrops positions maps, positions - (joinedDrops positions maps).length) }).tell
      (.dropMap block.toNat (joinedDrops positions maps) (survivorCounts s.system.drops (epoch.toNat * 2 ^ 32 + ·) block.toNat)),
    _, _, ?_, fun p => mem_joinedDrops, List.nodup_range.filter _, rfl, ?_, fun b hb => ?_, (Table.find_put _ _ _ _).trans (if_pos rfl), rfl⟩
  · change execDropMap epoch block positions maps s = _
    unfold execDropMap
    have hcounts := filterMap_survivorCounts (key := (epoch.toNat * 2 ^ 32 + ·)) hearlier
    have hlen : (survivorCounts s.system.drops (epoch.toNat * 2 ^ 32 + ·) block.toNat).length = block.toNat := by
      simp [survivorCounts]
    dsimp only at hcounts ⊢
    rw [hin, hcounts, decide_eq_true hpos, hnew, hlen, beq_self_eq_true]
    rfl
  · simp [survivorCounts]
  · obtain ⟨⟨d, k⟩, hd⟩ := Option.isSome_iff_exists.1 (hearlier b hb)
    exact ⟨d, k, hd, survivorCounts_getElem? hb hd⟩

theorem execBackupStart_starts (group : BitVec 12) (seq : Word64) (place : BitVec 6) (firstOffer : Word64) (delay : Nat) (node : BitVec 14)
    (hfirst : firstOffer ≤ s.gtc) (hlate : backupDelay delay ≤ (s.gtc - firstOffer).toNat)
    (hfour : (s.system.backups.filter (fun e => e.1 == group.toNat)).length < 4)
    (hnew : (group.toNat, seq.toNat, place.toNat) ∉ s.system.backups) :
    ∃ t, exec (.backupStart group seq place firstOffer delay node []) s = .next t ∧
      t.system.backups = s.system.backups ++ [(group.toNat, seq.toNat, place.toNat)] ∧ (group.toNat, place.toNat) ∈ t.system.covered ∧
      t.system.out = s.system.out ++ [.backup seq.toNat place.toNat node.toNat] ∧ { t with system := s.system } = s := by
  refine ⟨(s.setSystem { s.system with
    backups := s.system.backups ++ [(group.toNat, seq.toNat, place.toNat)]
    covered := (group.toNat, place.toNat) :: s.system.covered.erase (group.toNat, place.toNat) }).tell
      (.backup seq.toNat place.toNat node.toNat), ?_, rfl, List.mem_cons_self, rfl, rfl⟩
  change execBackupStart group seq place firstOffer delay node [] s = _
  unfold execBackupStart
  have hnone : s.system.backups.contains (group.toNat, seq.toNat, place.toNat) = false := by simpa using hnew
  simp only [hin, List.contains_nil, Bool.and_false, Bool.not_false, List.filter_true, decide_eq_true hfirst, decide_eq_true hlate,
    decide_eq_true hfour, hnone]
  rfl

theorem execCheckPreparation_reports (seq : Word64) (part : Byte) {p : PackPart}
    (hfind : s.store.parts.find? (fun p => p.seq == seq.toNat && !p.out) = some p) :
    ∃ t, exec (.checkPreparation seq part) s = .next t ∧ t.system.out = s.system.out ++ [.digest seq.toNat part.toNat (partDigest p)] ∧
      t.store.parts = s.store.parts.erase p ∧ t.dram = s.dram ∧ t.cores = s.cores ∧ t.net = s.net := by
  refine ⟨(s.tell (.digest seq.toNat part.toNat (partDigest p))).dropPart p, ?_, rfl, rfl, rfl, rfl, rfl⟩
  change execCheckPreparation seq part s = _
  unfold execCheckPreparation
  rw [hfind]
  exact congrArg _ (if_pos hin)

theorem execDigestMismatch_starts (seq : Word64) (part : Byte) {first second : BitVec 14 × Word64} (delivered : Word64) (qcn : BitVec 16)
    (hne : first.2 ≠ second.2) (hnew : (seq.toNat, part.toNat) ∉ s.system.kept) :
    ∃ t, exec (.digestMismatch seq part first second none delivered qcn) s = .next t ∧ (seq.toNat, part.toNat) ∈ t.system.kept ∧
      t.system.out = s.system.out ++ [.third seq.toNat part.toNat] ∧ { t with system := s.system } = s := by
  refine ⟨(s.setSystem { s.system with kept := s.system.kept ++ [(seq.toNat, part.toNat)] }).tell (.third seq.toNat part.toNat), ?_,
    List.mem_append_right _ (List.mem_singleton.2 rfl), rfl, rfl⟩
  change execDigestMismatch seq part first second none delivered qcn s = _
  unfold execDigestMismatch
  have hnone : s.system.kept.contains (seq.toNat, part.toNat) = false := by simpa using hnew
  simp only [hin, beq_false_of_ne hne, hnone]
  rfl

/-- The third digest is that of one of the two: the other module is asked for a self-test and held. -/
theorem execDigestMismatch_decides (seq : Word64) (part : Byte) {first second third : BitVec 14 × Word64} (delivered : Word64) (qcn : BitVec 16)
    (hne : first.2 ≠ second.2) (hkept : (seq.toNat, part.toNat) ∈ s.system.kept) {loser : BitVec 14 × Word64}
    (hloser : third.2 = first.2 ∧ loser = second ∨ third.2 = second.2 ∧ loser = first) :
    ∃ t, exec (.digestMismatch seq part first second (some third) delivered qcn) s = .next t ∧ loser.1.toNat ∈ t.system.held ∧
      t.system.out = s.system.out ++ [.selfTest loser.1.toNat] ∧ t.dram = s.dram ∧ t.cores = s.cores ∧ t.rings = s.rings := by
  have hkept' : s.system.kept.contains (seq.toNat, part.toNat) = true := by simpa using hkept
  have hmatch : (third.2 != first.2 && third.2 != second.2) = false := by
    rcases hloser with ⟨h, -⟩ | ⟨h, -⟩ <;> simp [h]
  have hpick : (if third.2 = first.2 then second else first) = loser := by
    rcases hloser with ⟨h, rfl⟩ | ⟨h, rfl⟩
    · exact if_pos h
    · exact if_neg fun he => hne (he.symm.trans h)
  change ∃ t, execDigestMismatch seq part first second (some third) delivered qcn s = .next t ∧ _
  unfold execDigestMismatch
  rw [hin, beq_false_of_ne hne]
  simp only [hkept', hmatch, hpick, Bool.not_true, Bool.or_self, Bool.false_eq_true, ↓reduceIte]
  generalize hv : State.tell _ (.selfTest loser.1.toNat) = v
  have hframe : loser.1.toNat ∈ v.system.held ∧ v.system.out = s.system.out ++ [.selfTest loser.1.toNat] ∧
      v.dram = s.dram ∧ v.cores = s.cores ∧ v.rings = s.rings := by
    subst hv
    exact ⟨List.mem_cons_self, rfl, rfl, rfl, rfl⟩
  have hnet {t : State} (ht : OnlyNet v t) : loser.1.toNat ∈ t.system.held ∧ t.system.out = s.system.out ++ [.selfTest loser.1.toNat] ∧
      t.dram = s.dram ∧ t.cores = s.cores ∧ t.rings = s.rings := by
    rw [ht.dram, ht.cores, ht.rings, show t.system = v.system from ht.proj State.system]
    exact hframe
  refine ⟨_, rfl, hnet ?_⟩
  split
  · exact OnlyNet.ite (v.post_onlyNet _ _) (OnlyNet.refl v)
  · exact OnlyNet.refl v

end


/-! ## The alignment of time (R27, R457, R458) -/

theorem OnlySystem.recipes {s t : State} (h : OnlySystem s t) : t.recipes = s.recipes := OnlyLogs.proj h State.recipes

/-- A flag of another register, or one that is outside the field written. -/
theorem State.flag_setFld_of_disjoint (s : State) (f g : Fld) (v : Nat) (hg : g.lo < 32)
    (h : g.off ≠ f.off ∨ g.lo < f.lo ∨ f.lo + f.len ≤ g.lo) : (s.setFld f v).flag g = s.flag g := by
  unfold State.flag
  rw [State.reg_setFld]
  split
  next e => exact bitAt_putBits_of_outside _ v hg (h.resolve_left fun n => n e)
  · rfl

/-- The system state after an offset is noted: the offsets near 0 in a row, and whether one was more than 1 ms ahead. -/
def System.noted (y : System) (offset : Int) : System :=
  { y with streak := if decide (offset.natAbs ≤ 250) then y.streak + 1 else 0, ahead := y.ahead || decide (1000000 < offset) }

/-- The state in which an exchange after the joining step finds the marks: the rate is in force and the offset noted. -/
def State.tracked (s : State) (offset rate : Int) : State :=
  let s := (s.setReg Reg.GTC_RATE (BitVec.ofInt 32 (max (-200000) (min 200000 rate)))).count unitGTC 1 1
  s.setSystem (s.system.noted offset)

/-- LOST, counted once, and `GTC_SYNC`.STATE no longer LOCKED. -/
def State.markLost (s : State) : State :=
  (if s.flag Reg.GTC_SYNC_LOST then s else (s.setFlag Reg.GTC_SYNC_LOST true).errAdd Reg.GTC_ERR_CNT_SYNC_LOST 1).syncFree

section
variable (s : State) (offset rate : Int)

theorem State.tracked_onlySystem : OnlySystem s (s.tracked offset rate) :=
  (s.setReg_onlySystem _ _).trans ((State.count_onlyLogs _ _ _ _).onlySystem.trans (State.setSystem_onlySystem _ _))

theorem State.tracked_system : (s.tracked offset rate).system = s.system.noted offset :=
  congrArg (System.noted · offset) (State.count_onlyLogs _ _ _ _).system

theorem State.tracked_reg {off : Nat} (h : off ∉ Reg.FLT_LOG_HEAD :: logRegisters) : (s.tracked offset rate).reg off =
    if off = Reg.GTC_RATE then BitVec.ofInt 32 (max (-200000) (min 200000 rate)) else s.reg off :=
  (State.count_reg _ h _ _ _).trans (s.reg_setReg _ _ _)

theorem State.syncFree_onlyLogs : OnlyLogs s s.syncFree := by
  unfold State.syncFree
  exact OnlyLogs.ite (OnlyLogs.refl s) rfl

theorem State.syncFree_reg {off : Nat} (h : off ≠ Reg.GTC_SYNC_STATE.off) : s.syncFree.reg off = s.reg off := by
  unfold State.syncFree
  exact State.reg_ite rfl ((s.reg_setFld _ _ _).trans (if_neg h))

theorem State.syncFree_flag : s.syncFree.flag Reg.GTC_SYNC_LOST = s.flag Reg.GTC_SYNC_LOST := by
  unfold State.syncFree
  split
  · rfl
  · exact s.flag_setFld_of_disjoint _ _ _ (by decide) (by decide)

theorem State.markLost_onlyLogs : OnlyLogs s s.markLost := by
  unfold State.markLost
  have hmark : OnlyLogs s ((s.setFlag Reg.GTC_SYNC_LOST true).errAdd Reg.GTC_ERR_CNT_SYNC_LOST 1) := rfl
  exact (OnlyLogs.ite (OnlyLogs.refl s) hmark).trans (State.syncFree_onlyLogs _)

theorem State.markLost_reg {off : Nat} (h : off ≠ Reg.GTC_SYNC_STATE.off) (herr : off ≠ Reg.GTC_ERR_CNT_SYNC_LOST.off) :
    s.markLost.reg off = s.reg off := by
  unfold State.markLost
  refine (State.syncFree_reg _ h).trans (State.reg_ite rfl ?_)
  exact ((State.reg_setFld _ _ _ _).trans (if_neg herr)).trans ((s.reg_setFld _ _ _).trans (if_neg h))

theorem State.markLost_flag : s.markLost.flag Reg.GTC_SYNC_LOST = true := by
  unfold State.markLost
  rw [State.syncFree_flag]
  split
  · assumption
  · exact (State.flag_setFld_of_disjoint _ _ _ _ (by decide) (by decide)).trans (s.flag_setFlag_self _ true rfl (by decide))

/-- The state of an exchange that is not LOST: HOLDOVER is over. -/
def State.leaveHoldover (s : State) : State := if s.fld Reg.GTC_SYNC_STATE = 3 then s.setFld Reg.GTC_SYNC_STATE 0 else s

theorem State.leaveHoldover_onlyLogs : OnlyLogs s s.leaveHoldover := by
  unfold State.leaveHoldover
  exact OnlyLogs.ite rfl (OnlyLogs.refl s)

theorem State.leaveHoldover_reg {off : Nat} (h : off ≠ Reg.GTC_SYNC_STATE.off) : s.leaveHoldover.reg off = s.reg off := by
  unfold State.leaveHoldover
  exact State.reg_ite ((s.reg_setFld _ _ _).trans (if_neg h)) rfl

/-- The marks of an offset after the joining step. -/
def State.marked (s : State) (offset rate : Int) : State :=
  if decide (10000 < offset.natAbs) then (s.tracked offset rate).markLost else (s.tracked offset rate).leaveHoldover

theorem State.trackOffset_eq : s.trackOffset offset rate =
    if offset < -1000000 then (((s.marked offset rate).setSystem { (s.marked offset rate).system with stepDue := some (-offset) }).setFld
      Reg.GTC_SYNC_STATE 1).makeStep
    else if decide (8 ≤ (s.tracked offset rate).system.streak) && !(s.tracked offset rate).system.ahead then
      (s.marked offset rate).setFld Reg.GTC_SYNC_STATE 2
    else s.marked offset rate := rfl

end

theorem State.makeStep_steps {s : State} {d : Int} (hdue : s.system.stepDue = some d) (hno : s.noLaunch = true) :
    s.makeStep = ({ s with gtc := s.gtc + BitVec.ofInt 64 d }.setSystem { s.system with stepDue := none }).setFld Reg.GTC_SYNC_STATE 0 := by
  unfold State.makeStep
  rw [hdue]
  exact if_pos hno

theorem State.makeStep_waits {s : State} (hno : s.noLaunch = false) : s.makeStep = s := by
  unfold State.makeStep
  split
  · exact if_neg (by simp [hno])
  · rfl

theorem OnlySystem.noLaunch {s t : State} (h : OnlySystem s t) : t.noLaunch = s.noLaunch :=
  congrArg (fun r : Table _ => r.all _) h.recipes

/-- `saturate32` of an offset that fits a word is the offset. -/
theorem saturate32_of_fits {v : Int} (hlow : -2 ^ 31 ≤ v) (hhigh : v < 2 ^ 31) : saturate32 v = BitVec.ofInt 32 v := by
  unfold saturate32
  rw [show max (-(2 ^ 31)) (min (2 ^ 31 - 1) v) = v by omega]

/-- The state in which an exchange finds the module: both offset registers written and the exchange counted. -/
def State.offsetNoted (s : State) (offset : Int) : State :=
  (((s.setReg Reg.GTC_OFFSET (saturate32 offset)).setReg Reg.DBG_GTC_OFS (saturate32 offset)).count unitGTC 0 1)

theorem State.offsetNoted_onlyLogs (s : State) (offset : Int) : OnlyLogs s (s.offsetNoted offset) :=
  ((s.setReg_onlyLogs _ _).trans (State.setReg_onlyLogs _ _ _)).trans (State.count_onlyLogs _ _ _ _)

theorem State.offsetNoted_reg (s : State) (offset : Int) {off : Nat} (h : off ∉ Reg.FLT_LOG_HEAD :: logRegisters) :
    (s.offsetNoted offset).reg off =
      if off = Reg.DBG_GTC_OFS then saturate32 offset else if off = Reg.GTC_OFFSET then saturate32 offset else s.reg off := by
  refine (State.count_reg _ h _ _ _).trans ?_
  rw [State.reg_setReg, State.reg_setReg]

theorem OnlySystem.withGtc {s t : State} (h : OnlySystem s t) (g : Word64) : OnlySystem { s with gtc := g } { t with gtc := g } := by
  unfold OnlySystem OnlyLogs at *
  rw [← h]

/-- The registers that show an exchange. -/
def offsetRegisters : List Nat := [Reg.GTC_OFFSET, Reg.DBG_GTC_OFS, Reg.GTC_RATE]

/-- What the marks and the step of an exchange leave: all but the GTC, the module's system state and the registers of the marks. -/
structure Aligns (s t : State) : Prop where
  only : OnlySystem s { t with gtc := s.gtc }
  reg : ∀ off ∈ offsetRegisters, t.reg off = s.reg off
  lastPtp : t.system.lastPtp = s.system.lastPtp

theorem offsetRegisters_not_mark {off : Nat} (h : off ∈ offsetRegisters) :
    off ≠ Reg.GTC_SYNC_STATE.off ∧ off ≠ Reg.GTC_ERR_CNT_SYNC_LOST.off := by
  revert off
  decide

theorem Aligns.trans {s t u : State} (h : Aligns s t) (g : Aligns t u) : Aligns s u where
  only := by
    have hu : OnlySystem { t with gtc := s.gtc } { u with gtc := s.gtc } := g.only.withGtc s.gtc
    exact h.only.trans hu
  reg off ho := (g.reg off ho).trans (h.reg off ho)
  lastPtp := g.lastPtp.trans h.lastPtp

section
variable (s : State)

theorem State.setFld_aligns (v : Nat) : Aligns s (s.setFld Reg.GTC_SYNC_STATE v) where
  only := rfl
  reg _ ho := (s.reg_setFld _ _ _).trans (if_neg (offsetRegisters_not_mark ho).1)
  lastPtp := rfl

theorem State.setSystem_aligns {y : System} (h : y.lastPtp = s.system.lastPtp) : Aligns s (s.setSystem y) := ⟨rfl, fun _ _ => rfl, h⟩

theorem State.markLost_aligns : Aligns s s.markLost where
  only := by
    have h := s.markLost_onlyLogs.onlySystem
    have hgtc : { s.markLost with gtc := s.gtc } = s.markLost := by rw [← h.gtc]
    rw [hgtc]
    exact h
  reg _ ho := s.markLost_reg (offsetRegisters_not_mark ho).1 (offsetRegisters_not_mark ho).2
  lastPtp := congrArg System.lastPtp s.markLost_onlyLogs.system

theorem State.leaveHoldover_aligns : Aligns s s.leaveHoldover := by
  unfold State.leaveHoldover
  split
  · exact s.setFld_aligns 0
  · exact ⟨rfl, fun _ _ => rfl, rfl⟩

theorem State.makeStep_aligns : Aligns s s.makeStep := by
  unfold State.makeStep
  split
  · split
    · refine Aligns.trans ?_ (State.setFld_aligns _ 0)
      exact ⟨rfl, fun _ _ => rfl, rfl⟩
    · exact ⟨rfl, fun _ _ => rfl, rfl⟩
  · exact ⟨rfl, fun _ _ => rfl, rfl⟩

theorem State.marked_aligns (offset rate : Int) : Aligns (s.tracked offset rate) (s.marked offset rate) := by
  unfold State.marked
  split
  · exact State.markLost_aligns _
  · exact State.leaveHoldover_aligns _

theorem State.trackOffset_aligns (offset rate : Int) : Aligns (s.tracked offset rate) (s.trackOffset offset rate) := by
  rw [State.trackOffset_eq]
  refine (s.marked_aligns offset rate).trans ?_
  generalize s.marked offset rate = u
  split
  · exact (u.setSystem_aligns (y := { u.system with stepDue := some (-offset) }) rfl).trans
      ((State.setFld_aligns _ 1).trans (State.makeStep_aligns _))
  · split
    · exact u.setFld_aligns 2
    · exact ⟨rfl, fun _ _ => rfl, rfl⟩

end

/-! The outcomes of an offset after the joining step. -/

section
variable {s : State} {offset : Int} (rate : Int)

theorem State.marked_system : (s.marked offset rate).system = s.system.noted offset := by
  rw [← s.tracked_system offset rate]
  unfold State.marked
  split
  · exact (State.markLost_onlyLogs _).system
  · exact (State.leaveHoldover_onlyLogs _).system

theorem State.marked_gtc : (s.marked offset rate).gtc = s.gtc := by
  rw [← (s.tracked_onlySystem offset rate).gtc]
  unfold State.marked
  split
  · exact (State.markLost_onlyLogs _).gtc
  · exact (State.leaveHoldover_onlyLogs _).gtc

theorem State.marked_noLaunch : (s.marked offset rate).noLaunch = s.noLaunch := by
  rw [← (s.tracked_onlySystem offset rate).noLaunch]
  unfold State.marked
  split
  · exact (State.markLost_onlyLogs _).onlySystem.noLaunch
  · exact (State.leaveHoldover_onlyLogs _).onlySystem.noLaunch

/-- An offset of more than 10 µs is marked LOST. -/
theorem State.marked_lost (h : 10000 < offset.natAbs) : (s.marked offset rate).flag Reg.GTC_SYNC_LOST = true := by
  unfold State.marked
  rw [if_pos (decide_eq_true h)]
  exact State.markLost_flag _

theorem State.trackOffset_lost (hlost : 10000 < offset.natAbs) (h : -1000000 ≤ offset) : s.trackOffset offset rate = s.marked offset rate := by
  rw [State.trackOffset_eq, if_neg (Int.not_lt.2 h), s.tracked_system, if_neg]
  simp [System.noted, show ¬ offset.natAbs ≤ 250 by omega]

theorem State.trackOffset_locked (h : offset.natAbs ≤ 250) (hstreak : 7 ≤ s.system.streak) (hahead : s.system.ahead = false) :
    s.trackOffset offset rate = (s.marked offset rate).setFld Reg.GTC_SYNC_STATE 2 := by
  rw [State.trackOffset_eq, if_neg (by omega), s.tracked_system, if_pos]
  simp [System.noted, h, hahead, show offset ≤ 1000000 by omega, hstreak]

theorem State.trackOffset_unlocked (h : offset.natAbs ≤ 250) (hstreak : s.system.streak < 7) (hstate : s.fld Reg.GTC_SYNC_STATE ≠ 3) :
    s.trackOffset offset rate = s.tracked offset rate := by
  have hfld : (s.tracked offset rate).fld Reg.GTC_SYNC_STATE = s.fld Reg.GTC_SYNC_STATE := by
    unfold State.fld
    rw [s.tracked_reg offset rate (by decide), if_neg (by decide)]
  rw [State.trackOffset_eq, if_neg (by omega), s.tracked_system, if_neg (by simp [System.noted, h]; omega)]
  unfold State.marked State.leaveHoldover
  rw [decide_eq_false (by omega), hfld, if_neg hstate]
  exact if_neg Bool.false_ne_true

/-- The state before the step forward: LOST is marked, the step is due and `GTC_SYNC`.STATE is 1. -/
def State.stepForward (s : State) (offset rate : Int) : State :=
  ((s.marked offset rate).setSystem { (s.marked offset rate).system with stepDue := some (-offset) }).setFld Reg.GTC_SYNC_STATE 1

theorem State.trackOffset_forward (h : offset < -1000000) : s.trackOffset offset rate = (s.stepForward offset rate).makeStep := by
  rw [State.trackOffset_eq, if_pos h]
  rfl

theorem State.stepForward_lost (h : offset < -1000000) : (s.stepForward offset rate).flag Reg.GTC_SYNC_LOST = true :=
  (State.flag_setFld_of_disjoint _ _ _ _ (by decide) (by decide)).trans (State.marked_lost rate (by omega))

theorem State.makeStep_lost (s : State) : s.makeStep.flag Reg.GTC_SYNC_LOST = s.flag Reg.GTC_SYNC_LOST := by
  unfold State.makeStep
  split
  · split
    · exact State.flag_setFld_of_disjoint _ _ _ _ (by decide) (by decide)
    · rfl
  · rfl

end


/-! ## An exchange (R457, R458) -/

/-- The state that an exchange goes on from: the offset is shown, the exchange counted and its time noted. -/
def State.exchanged (s : State) (offset : Int) : State :=
  (s.offsetNoted offset).setSystem { (s.offsetNoted offset).system with lastPtp := some (s.offsetNoted offset).gtc }

section
variable (s : State) (offset : Int)

theorem State.exchanged_onlySystem : OnlySystem s (s.exchanged offset) :=
  (s.offsetNoted_onlyLogs offset).onlySystem.trans (State.setSystem_onlySystem _ _)

theorem State.exchanged_system : (s.exchanged offset).system = { s.system with lastPtp := some s.gtc } := by
  have hsys := (s.offsetNoted_onlyLogs offset).system
  have hgtc := (s.offsetNoted_onlyLogs offset).gtc
  unfold State.exchanged State.setSystem
  dsimp only
  rw [hsys, hgtc]

theorem State.exchanged_joined : (s.exchanged offset).system.joined = s.system.joined := by rw [State.exchanged_system]
theorem State.exchanged_offsets : (s.exchanged offset).system.offsets = s.system.offsets := by rw [State.exchanged_system]
theorem State.exchanged_streak : (s.exchanged offset).system.streak = s.system.streak := by rw [State.exchanged_system]
theorem State.exchanged_ahead : (s.exchanged offset).system.ahead = s.system.ahead := by rw [State.exchanged_system]
theorem State.exchanged_stepDue : (s.exchanged offset).system.stepDue = s.system.stepDue := by rw [State.exchanged_system]
theorem State.exchanged_lastPtp : (s.exchanged offset).system.lastPtp = some s.gtc := by rw [State.exchanged_system]

theorem State.exchanged_reg {off : Nat} (h : off ∉ Reg.FLT_LOG_HEAD :: logRegisters) : (s.exchanged offset).reg off =
    if off = Reg.DBG_GTC_OFS then saturate32 offset else if off = Reg.GTC_OFFSET then saturate32 offset else s.reg off :=
  s.offsetNoted_reg offset h

end

/-- What every exchange leaves, and the offset it shows. -/
structure Exchange (s t : State) (offset : Int) : Prop where
  shown : t.reg Reg.GTC_OFFSET = BitVec.ofInt 32 offset
  shownDbg : t.reg Reg.DBG_GTC_OFS = BitVec.ofInt 32 offset
  lastPtp : t.system.lastPtp = some s.gtc
  dram : t.dram = s.dram
  cores : t.cores = s.cores
  rings : t.rings = s.rings
  recipes : t.recipes = s.recipes

section
variable {s t : State} {offset rate : Int} (hlow : -2 ^ 31 ≤ offset) (hhigh : offset < 2 ^ 31)
include hlow hhigh

theorem Aligns.exchange {u : State} (ht : Aligns u t) (hu : OnlySystem s u) (hsys : u.system.lastPtp = some s.gtc)
    (hreg : ∀ off ∈ [Reg.GTC_OFFSET, Reg.DBG_GTC_OFS], u.reg off = (s.exchanged offset).reg off) : Exchange s t offset where
  shown := by
    rw [ht.reg _ (by decide), hreg _ (by decide), s.exchanged_reg offset (by decide), saturate32_of_fits hlow hhigh]
    rfl
  shownDbg := by
    rw [ht.reg _ (by decide), hreg _ (by decide), s.exchanged_reg offset (by decide), saturate32_of_fits hlow hhigh]
    rfl
  lastPtp := ht.lastPtp.trans hsys
  dram := ht.only.dram.trans hu.dram
  cores := ht.only.cores.trans hu.cores
  rings := ht.only.rings.trans hu.rings
  recipes := ht.only.recipes.trans hu.recipes

theorem Aligns.exchange_of_exchanged (ht : Aligns (s.exchanged offset) t) : Exchange s t offset :=
  ht.exchange hlow hhigh (s.exchanged_onlySystem offset) (s.exchanged_lastPtp offset) fun _ _ => rfl

theorem State.trackOffset_exchange : Exchange s ((s.exchanged offset).trackOffset offset rate) offset := by
  have htracked := State.tracked_system (s.exchanged offset) offset rate
  refine (State.trackOffset_aligns _ offset rate).exchange hlow hhigh
    ((s.exchanged_onlySystem offset).trans (State.tracked_onlySystem _ _ _)) ?_ fun off ho => ?_
  · rw [htracked, s.exchanged_system]
    rfl
  · have hoff : off ∉ Reg.FLT_LOG_HEAD :: logRegisters ∧ off ≠ Reg.GTC_RATE := by
      revert off
      decide
    rw [State.tracked_reg _ _ _ hoff.1, if_neg hoff.2]

end

/-- The system state of a joining module after one more offset. -/
def System.joinOne (y : System) (offset : Int) : System := { y with joined := y.joined + 1, offsets := y.offsets + offset }

/-- The system state with the step to the mean of the 16 offsets due. -/
def System.meanDue (y : System) : System := { y with stepDue := some (-(y.offsets / 16)), streak := 0 }

section
variable {s : State} (hin : s.inSystem = true) (offset rate : Int)
include hin

/-- An exchange in a system, by the count of the joining module and a step that is due. -/
theorem execPtpExchange_eq : exec (.ptpExchange offset rate) s = .next (
    let u := s.exchanged offset
    if u.system.joined < 16 then
      if (u.system.joinOne offset).joined = 16 then
        ((u.setSystem (u.system.joinOne offset).meanDue).setFld Reg.GTC_SYNC_STATE 1).makeStep
      else (u.setSystem (u.system.joinOne offset)).setFld Reg.GTC_SYNC_STATE 1
    else if u.system.stepDue.isSome then u.makeStep
    else u.trackOffset offset rate) := by
  change execPtpExchange offset rate s = _
  unfold execPtpExchange
  rw [hin]
  rfl

theorem execPtpExchange_joins (h : s.system.joined < 15) : exec (.ptpExchange offset rate) s =
    .next (((s.exchanged offset).setSystem ((s.exchanged offset).system.joinOne offset)).setFld Reg.GTC_SYNC_STATE 1) := by
  have hj := s.exchanged_joined offset
  have hone : ((s.exchanged offset).system.joinOne offset).joined = (s.exchanged offset).system.joined + 1 := rfl
  rw [execPtpExchange_eq hin]
  dsimp only
  rw [if_pos (by omega), if_neg (by omega)]

theorem execPtpExchange_steps (h : s.system.joined = 15) : exec (.ptpExchange offset rate) s = .next
    (((s.exchanged offset).setSystem ((s.exchanged offset).system.joinOne offset).meanDue).setFld Reg.GTC_SYNC_STATE 1).makeStep := by
  have hj := s.exchanged_joined offset
  have hone : ((s.exchanged offset).system.joinOne offset).joined = (s.exchanged offset).system.joined + 1 := rfl
  rw [execPtpExchange_eq hin]
  dsimp only
  rw [if_pos (by omega), if_pos (by omega)]

theorem execPtpExchange_tracks (h : 16 ≤ s.system.joined) (hdue : s.system.stepDue = none) :
    exec (.ptpExchange offset rate) s = .next ((s.exchanged offset).trackOffset offset rate) := by
  have hj := s.exchanged_joined offset
  rw [execPtpExchange_eq hin]
  dsimp only
  rw [if_neg (by omega), s.exchanged_stepDue, hdue]
  rfl

end

/-! ## What the exchanges of a joined module do to the GTC and its marks -/

section
variable {s : State} {offset : Int} (rate : Int)

theorem State.trackOffset_rate : ((s.exchanged offset).trackOffset offset rate).reg Reg.GTC_RATE =
    BitVec.ofInt 32 (max (-200000) (min 200000 rate)) := by
  rw [(State.trackOffset_aligns _ offset rate).reg _ (by decide), State.tracked_reg _ _ _ (by decide), if_pos rfl]

theorem State.trackOffset_marksLost (hlost : 10000 < offset.natAbs) (h : -1000000 ≤ offset) :
    (s.trackOffset offset rate).flag Reg.GTC_SYNC_LOST = true ∧ (s.trackOffset offset rate).gtc = s.gtc := by
  rw [State.trackOffset_lost rate hlost h]
  exact ⟨State.marked_lost rate hlost, State.marked_gtc rate⟩

theorem State.trackOffset_stepsForward (h : offset < -1000000) : (s.trackOffset offset rate).flag Reg.GTC_SYNC_LOST = true ∧
    (s.noLaunch = true → (s.trackOffset offset rate).gtc = s.gtc + BitVec.ofInt 64 (-offset)) ∧
    (s.noLaunch = false → (s.trackOffset offset rate).gtc = s.gtc ∧ (s.trackOffset offset rate).system.stepDue = some (-offset)) := by
  rw [State.trackOffset_forward rate h]
  have hno : (s.stepForward offset rate).noLaunch = s.noLaunch := State.marked_noLaunch rate
  have hgtc : (s.stepForward offset rate).gtc = s.gtc := State.marked_gtc rate
  refine ⟨(State.makeStep_lost _).trans (State.stepForward_lost rate h), fun hnone => ?_, fun hsome => ?_⟩
  · rw [State.makeStep_steps (s := s.stepForward offset rate) (d := -offset) rfl (hno.trans hnone), ← hgtc]
    rfl
  · rw [State.makeStep_waits (hno.trans hsome)]
    exact ⟨hgtc, rfl⟩

theorem State.trackOffset_locks (h : offset.natAbs ≤ 250) (hstreak : 7 ≤ s.system.streak) (hahead : s.system.ahead = false) :
    (s.trackOffset offset rate).fld Reg.GTC_SYNC_STATE = 2 ∧ (s.trackOffset offset rate).gtc = s.gtc := by
  rw [State.trackOffset_locked rate h hstreak hahead]
  exact ⟨State.fld_setFld_self _ _ _ (by decide), State.marked_gtc rate⟩

theorem State.trackOffset_counts (h : offset.natAbs ≤ 250) (hstreak : s.system.streak < 7) (hstate : s.fld Reg.GTC_SYNC_STATE ≠ 3) :
    (s.trackOffset offset rate).system.streak = s.system.streak + 1 ∧
      (s.trackOffset offset rate).fld Reg.GTC_SYNC_STATE = s.fld Reg.GTC_SYNC_STATE := by
  rw [State.trackOffset_unlocked rate h hstreak hstate]
  constructor
  · rw [State.tracked_system]
    exact if_pos (decide_eq_true h)
  · unfold State.fld
    rw [s.tracked_reg offset rate (by decide), if_neg (by decide)]

end

/-- An earlier exchange of a joining module: the offset is added, and the GTC goes on. -/
theorem State.joinOne_shows (s : State) (offset : Int) :
    let t := (s.setSystem (s.system.joinOne offset)).setFld Reg.GTC_SYNC_STATE 1
    t.system.joined = s.system.joined + 1 ∧ t.system.offsets = s.system.offsets + offset ∧ t.gtc = s.gtc ∧ t.fld Reg.GTC_SYNC_STATE = 1 :=
  ⟨rfl, rfl, rfl, State.fld_setFld_self _ _ _ (by decide)⟩

theorem State.joinOne_aligns (s : State) (offset : Int) : Aligns s ((s.setSystem (s.system.joinOne offset)).setFld Reg.GTC_SYNC_STATE 1) :=
  (s.setSystem_aligns (y := s.system.joinOne offset) rfl).trans (State.setFld_aligns _ 1)

theorem State.meanDue_aligns (s : State) (offset : Int) :
    Aligns s ((s.setSystem (s.system.joinOne offset).meanDue).setFld Reg.GTC_SYNC_STATE 1).makeStep :=
  (s.setSystem_aligns (y := (s.system.joinOne offset).meanDue) rfl).trans ((State.setFld_aligns _ 1).trans (State.makeStep_aligns _))

/-- The sixteenth exchange of a joining module: the GTC steps by the mean of the offsets. -/
theorem State.makeStep_toMean {s : State} (offset : Int) (h : s.system.joined = 15) (hno : s.noLaunch = true) :
    let t := ((s.setSystem (s.system.joinOne offset).meanDue).setFld Reg.GTC_SYNC_STATE 1).makeStep
    t.gtc = s.gtc - BitVec.ofInt 64 ((s.system.offsets + offset) / 16) ∧ t.system.joined = 16 ∧ t.fld Reg.GTC_SYNC_STATE = 0 := by
  dsimp only
  generalize hu : (s.setSystem (s.system.joinOne offset).meanDue).setFld Reg.GTC_SYNC_STATE 1 = u
  have hdue : u.system.stepDue = some (-((s.system.offsets + offset) / 16)) := by rw [← hu]; rfl
  have hjoined : u.system.joined = s.system.joined + 1 := by rw [← hu]; rfl
  have hgtc : u.gtc = s.gtc := by rw [← hu]; rfl
  have hnone : u.noLaunch = true := by rw [← hu]; exact hno
  rw [State.makeStep_steps hdue hnone]
  refine ⟨?_, hjoined.trans (by rw [h]), State.fld_setFld_self _ _ _ (by decide)⟩
  rw [BitVec.sub_eq_add_neg, ← BitVec.ofInt_neg, ← hgtc]
  rfl

theorem execHoldover_due {s : State} {g : Word64} (hlast : s.system.lastPtp = some g) (hlate : 2000000000 ≤ (s.gtc - g).toNat)
    (hstate : s.fld Reg.GTC_SYNC_STATE ≠ 3) :
    ∃ t, exec .holdover s = .next t ∧ t.fld Reg.GTC_SYNC_STATE = 3 ∧ t.reg Reg.GTC_RATE = s.reg Reg.GTC_RATE ∧ t.gtc = s.gtc ∧
      { t with system := s.system, regs := s.regs } = s := by
  refine ⟨(s.setSystem { s.system with streak := 0 }).setFld Reg.GTC_SYNC_STATE 3, ?_, State.fld_setFld_self _ _ _ (by decide),
    (State.reg_setFld _ _ _ _).trans (if_neg (by decide)), rfl, rfl⟩
  change execHoldover s = _
  unfold execHoldover
  rw [hlast]
  exact congrArg _ (if_pos (Bool.and_eq_true_iff.2 ⟨decide_eq_true hlate, bne_iff_ne.2 hstate⟩))

theorem State.readNowLo_frame (s : State) : { answerRead s.readNowLo with system := s.system, host := s.host } = s := rfl
theorem State.readNowHi_frame (s : State) : { answerRead s.readNowHi with system := s.system, host := s.host } = s := rfl

theorem execGtcNowRead_latches (s : State) : ∃ t u, exec (.gtcNowRead false) s = .next t ∧
    t.host.reads = s.host.reads ++ [s.gtc.setWidth 32] ∧ exec (.gtcNowRead true) t = .next u ∧
    u.host.reads = t.host.reads ++ [(s.gtc >>> 32).setWidth 32] ∧ u.system.nowHigh = none ∧
    { u with system := s.system, host := s.host } = s := by
  have hhigh : bitsAt s.gtc 32 32 = (s.gtc >>> 32).setWidth 32 := by
    unfold bitsAt
    ext i hi
    simp
  have hlatched : (answerRead s.readNowLo).system.nowHigh = some (bitsAt s.gtc 32 32) := rfl
  have hlo := s.readNowLo_frame
  refine ⟨answerRead s.readNowLo, answerRead (answerRead s.readNowLo).readNowHi, rfl, rfl, rfl, ?_, rfl, ?_⟩
  · rw [← hhigh]
    generalize answerRead s.readNowLo = t at hlatched
    change t.host.reads ++ [t.system.nowHigh.getD _] = _
    rw [hlatched]
    rfl
  · generalize answerRead s.readNowLo = t at hlo
    have hhi := t.readNowHi_frame
    generalize answerRead t.readNowHi = u at hhi
    rw [← hlo, ← hhi]

/-! ## The three kinds of exchange (R457) -/

section
variable {s : State} (hin : s.inSystem = true) {offset : Int} (rate : Int) (hlow : -2 ^ 31 ≤ offset) (hhigh : offset < 2 ^ 31)
include hin hlow hhigh

theorem execPtpExchange_adds (hj : s.system.joined < 15) : ∃ t, exec (.ptpExchange offset rate) s = .next t ∧ Exchange s t offset ∧
    t.system.joined = s.system.joined + 1 ∧ t.system.offsets = s.system.offsets + offset ∧ t.gtc = s.gtc ∧ t.fld Reg.GTC_SYNC_STATE = 1 := by
  have hshow := State.joinOne_shows (s.exchanged offset) offset
  dsimp only at hshow
  rw [s.exchanged_joined, s.exchanged_offsets, (s.exchanged_onlySystem offset).gtc] at hshow
  exact ⟨_, execPtpExchange_joins hin offset rate hj, (State.joinOne_aligns _ offset).exchange_of_exchanged hlow hhigh, hshow⟩

theorem execPtpExchange_jumps (hj : s.system.joined = 15) : ∃ t, exec (.ptpExchange offset rate) s = .next t ∧ Exchange s t offset ∧
    (s.noLaunch = true →
      t.gtc = s.gtc - BitVec.ofInt 64 ((s.system.offsets + offset) / 16) ∧ t.system.joined = 16 ∧ t.fld Reg.GTC_SYNC_STATE = 0) := by
  refine ⟨_, execPtpExchange_steps hin offset rate hj, (State.meanDue_aligns _ offset).exchange_of_exchanged hlow hhigh, fun hnone => ?_⟩
  have hstep := State.makeStep_toMean offset ((s.exchanged_joined offset).trans hj)
    ((s.exchanged_onlySystem offset).noLaunch.trans hnone)
  dsimp only at hstep
  rw [(s.exchanged_onlySystem offset).gtc, s.exchanged_offsets] at hstep
  exact hstep

/-- The marks of an exchange of a joined module, by its offset. -/
theorem execPtpExchange_marks (hj : 16 ≤ s.system.joined) (hdue : s.system.stepDue = none) :
    ∃ t, exec (.ptpExchange offset rate) s = .next t ∧ Exchange s t offset ∧
      t.reg Reg.GTC_RATE = BitVec.ofInt 32 (max (-200000) (min 200000 rate)) ∧
      (10000 < offset → t.flag Reg.GTC_SYNC_LOST = true ∧ t.gtc = s.gtc) ∧
      (-1000000 ≤ offset → offset < -10000 → t.flag Reg.GTC_SYNC_LOST = true ∧ t.gtc = s.gtc) ∧
      (offset < -1000000 → t.flag Reg.GTC_SYNC_LOST = true ∧ (s.noLaunch = true → t.gtc = s.gtc + BitVec.ofInt 64 (-offset)) ∧
        (s.noLaunch = false → t.gtc = s.gtc ∧ t.system.stepDue = some (-offset))) ∧
      (-250 ≤ offset → offset ≤ 250 → 7 ≤ s.system.streak → s.system.ahead = false → t.fld Reg.GTC_SYNC_STATE = 2 ∧ t.gtc = s.gtc) ∧
      (-250 ≤ offset → offset ≤ 250 → s.system.streak < 7 → s.fld Reg.GTC_SYNC_STATE ≠ 3 → t.system.streak = s.system.streak + 1 ∧
        t.fld Reg.GTC_SYNC_STATE = s.fld Reg.GTC_SYNC_STATE) := by
  have hstate : (s.exchanged offset).fld Reg.GTC_SYNC_STATE = s.fld Reg.GTC_SYNC_STATE := by
    unfold State.fld
    rw [s.exchanged_reg offset (by decide), if_neg (by decide), if_neg (by decide)]
  refine ⟨_, execPtpExchange_tracks hin offset rate hj hdue, State.trackOffset_exchange hlow hhigh, State.trackOffset_rate rate, ?_⟩
  rw [← (s.exchanged_onlySystem offset).gtc, ← (s.exchanged_onlySystem offset).noLaunch, ← hstate, ← s.exchanged_streak offset,
    ← s.exchanged_ahead offset]
  generalize s.exchanged offset = u
  exact ⟨fun h => State.trackOffset_marksLost rate (by omega) (by omega), fun h h' => State.trackOffset_marksLost rate (by omega) h,
    State.trackOffset_stepsForward rate, fun h h' => State.trackOffset_locks rate (by omega),
    fun h h' => State.trackOffset_counts rate (by omega)⟩

end

/-- Settles O46: the rows of the manager are steps of the system state, and an exchange is the notes, the marks and the step, each of
which leaves what the others write. -/
theorem managerAndTime : Obligations.ManagerAndTime := by
  unfold Obligations.ManagerAndTime
  refine ⟨fun s hin => ⟨?_, ?_, ?_, ?_, ?_, ?_⟩, fun offset rate s hin hlow hhigh hdue => ?_, fun s g => execHoldover_due,
    execGtcNowRead_latches⟩
  · exact execWorkerDead_dead hin
  · rintro grants own rest rfl hoff hfive hown hvotes
    exact execManagerTakeover_takes hin hoff hfive hown hvotes
  · exact execDropMap_joins hin
  · exact execBackupStart_starts hin
  · exact fun seq part p => execCheckPreparation_reports hin seq part
  · exact fun seq part first second third delivered qcn hne => ⟨execDigestMismatch_starts hin seq part delivered qcn hne,
      fun hkept h => execDigestMismatch_decides hin seq part delivered qcn hne hkept (.inl ⟨h, rfl⟩),
      fun hkept h => execDigestMismatch_decides hin seq part delivered qcn hne hkept (.inr ⟨h, rfl⟩)⟩
  · rcases (show s.system.joined < 15 ∨ s.system.joined = 15 ∨ 16 ≤ s.system.joined by omega) with hj | hj | hj
    · obtain ⟨t, hexec, hx, hadds⟩ := execPtpExchange_adds hin rate hlow hhigh hj
      exact ⟨t, hexec, hx.shown, hx.shownDbg, hx.lastPtp, hx.dram, hx.cores, hx.rings, hx.recipes, fun _ => hadds, fun h => by omega,
        fun h => by omega⟩
    · obtain ⟨t, hexec, hx, hjumps⟩ := execPtpExchange_jumps hin rate hlow hhigh hj
      exact ⟨t, hexec, hx.shown, hx.shownDbg, hx.lastPtp, hx.dram, hx.cores, hx.rings, hx.recipes, fun h => by omega, fun _ => hjumps,
        fun h => by omega⟩
    · obtain ⟨t, hexec, hx, hmarks⟩ := execPtpExchange_marks hin rate hlow hhigh hj hdue
      exact ⟨t, hexec, hx.shown, hx.shownDbg, hx.lastPtp, hx.dram, hx.cores, hx.rings, hx.recipes, fun h => by omega, fun h => by omega,
        fun _ => hmarks⟩

end Sys2Proof.Machine

/-!
SUPPORT. Clocks, operating points, the governor and the throttle (R484 to R487, R502, R504, R548): the event counters that
logging leaves, the clock registers of the polders, and the commands.
-/

namespace Sys2Proof.Machine

/-! ## Event counters that logging leaves (R562, R583) -/

/-- The event counters that logging and tracing count. -/
def logEvents : List Nat := [eventKey unitFLT 4, eventKey unitFLT 5, eventKey unitDBG 0, eventKey unitDBG 2, eventKey unitDBG 3]

/-- `t` has every event counter as `s` has it, but those of logging and tracing. -/
def EventsKept (s t : State) : Prop := ∀ key ∉ logEvents, Table.at Counter.zero t.events key = Table.at Counter.zero s.events key

theorem EventsKept.trans {s t u : State} (h : EventsKept s t) (g : EventsKept t u) : EventsKept s u :=
  fun key hk => (g key hk).trans (h key hk)

theorem EventsKept.of_events {s t : State} (h : t.events = s.events) : EventsKept s t := fun _ _ => by rw [h]

theorem EventsKept.ite {s a b : State} {p : Prop} [Decidable p] (ha : EventsKept s a) (hb : EventsKept s b) : EventsKept s (if p then a else b) := by
  split
  · exact ha
  · exact hb

section
variable (s : State)

/-- An event counted without what its wrap logs. -/
theorem State.countQuiet_events (u k n : Nat) : (s.countQuiet u k n).1.events = Table.write Counter.zero s.events (eventKey u k)
    ⟨BitVec.ofNat 48 ((s.counter u k).count.toNat + n), (s.counter u k).ovf || decide ((s.counter u k).count.toNat + n ≥ 2 ^ 48)⟩ := by
  unfold State.countQuiet
  extract_lets c sum wrapped s1 s2
  split
  · split
    · rfl
    · rfl
  · rfl

theorem State.countQuiet_eventsKept {u k : Nat} (n : Nat) (h : eventKey u k ∈ logEvents) : EventsKept s (s.countQuiet u k n).1 := by
  intro key hk
  rw [s.countQuiet_events, Table.at_write, if_neg]
  rintro rfl
  exact hk h

theorem State.traceOverwrite_eventsKept (w : Nat) : EventsKept s (s.traceOverwrite w) := by
  unfold State.traceOverwrite
  extract_lets tr g
  exact EventsKept.ite (.of_events rfl) (EventsKept.ite (State.countQuiet_eventsKept _ _ (by decide)) (.of_events rfl))

theorem State.traceStore_eventsKept (r : TraceRec) : EventsKept s (s.traceStore r) := by
  unfold State.traceStore
  refine EventsKept.ite ?_ (EventsKept.ite ?_ (.of_events rfl))
  · exact State.countQuiet_eventsKept _ _ (by decide)
  · extract_lets w left s1 _ s2 s3 s4
    have h1 : EventsKept s s1 := s.traceOverwrite_eventsKept w
    have h4 : EventsKept s3 s4 := State.countQuiet_eventsKept _ _ (by decide)
    exact EventsKept.ite (h1.trans h4) (h1.trans h4)

theorem State.traceWrite_eventsKept (r : TraceRec) : EventsKept s (s.traceWrite r) := by
  unfold State.traceWrite
  refine EventsKept.trans ?_ (State.traceStore_eventsKept _ _)
  split
  · exact .of_events rfl
  · exact State.traceStore_eventsKept _ _

theorem State.trigger_eventsKept (src : Nat) : EventsKept s (s.trigger src) := by
  unfold State.trigger
  refine EventsKept.ite ?_ (.of_events rfl)
  extract_lets pre s1 s2 _ s3 s4
  have h4 : EventsKept s3 s4 := State.traceWrite_eventsKept _ _
  exact EventsKept.trans (s := s) h4 (State.countQuiet_eventsKept _ _ (by decide))

theorem State.logFault_eventsKept (kind polder detail value : Nat) : EventsKept s (s.logFault kind polder detail value) := by
  unfold State.logFault
  extract_lets e i s1 s2 s3 s4 s5
  have h3 : EventsKept s s3 := .of_events (by unfold s3; split <;> rfl)
  have h4 : EventsKept s3 s4 := State.countQuiet_eventsKept _ _ (by decide)
  have h5 : EventsKept s4 s5 := EventsKept.ite (State.traceWrite_eventsKept _ _) (.of_events rfl)
  exact ((h3.trans h4).trans h5).trans (State.trigger_eventsKept _ _)

/-- An event counted: its counter grows, and what a wrap logs leaves it. -/
theorem State.count_counter {u k : Nat} (n : Nat) (h : eventKey u k ∉ logEvents) :
    ((s.count u k n).counter u k).count = (s.counter u k).count + BitVec.ofNat 48 n := by
  have hquiet : ((s.countQuiet u k n).1.counter u k).count = (s.counter u k).count + BitVec.ofNat 48 n := by
    unfold State.counter
    rw [s.countQuiet_events, Table.at_write, if_pos rfl, BitVec.ofNat_add, BitVec.ofNat_toNat, BitVec.setWidth_eq]
    rfl
  unfold State.count
  split
  next t wrapped ht =>
    rw [ht] at hquiet
    split
    · refine (congrArg Counter.count ?_).trans hquiet
      exact ((t.countQuiet_eventsKept 1 (by decide)).trans (State.logFault_eventsKept _ _ _ _ _)) _ h
    · exact hquiet

end

/-! ## The registers of the polders (R484, R485, R503) -/

/-- `t` is `s` but for the power state and what logging touches. -/
def OnlyPower (s t : State) : Prop := OnlyLogs s { t with power := s.power }

theorem OnlyPower.trans {s t u : State} (h : OnlyPower s t) (g : OnlyPower t u) : OnlyPower s u := by
  unfold OnlyPower OnlyLogs at *
  rw [← h, ← g]

theorem OnlyLogs.onlyPower {s t : State} (h : OnlyLogs s t) : OnlyPower s t := by
  unfold OnlyPower OnlyLogs at *
  rw [← h]

section
variable {s t : State} (h : OnlyPower s t)
include h

theorem OnlyPower.gtc : t.gtc = s.gtc := OnlyLogs.proj h State.gtc
theorem OnlyPower.dram : t.dram = s.dram := OnlyLogs.proj h State.dram
theorem OnlyPower.cores : t.cores = s.cores := OnlyLogs.proj h State.cores
theorem OnlyPower.rings : t.rings = s.rings := OnlyLogs.proj h State.rings
theorem OnlyPower.taken : t.taken = s.taken := OnlyLogs.proj h State.taken

end

/-- No counter or log touches a polder's clock register, and no polder's clock register is another's register. -/
theorem clk_notMem_logRegisters {p : Nat} (h : p ≤ 10) : Reg.POL_CLK + 4 * p ∉ Reg.FLT_LOG_HEAD :: logRegisters := by
  have hall : ∀ q < 11, Reg.POL_CLK + 4 * q ∉ Reg.FLT_LOG_HEAD :: logRegisters := by decide
  exact hall p (by omega)

theorem clk_ne {p : Nat} (h : p ≤ 10) : Reg.POL_CLK + 4 * p ≠ Reg.POL_STATE ∧ Reg.POL_CLK + 4 * p ≠ Reg.POL_MODE := by
  unfold Reg.POL_CLK Reg.POL_STATE Reg.POL_MODE
  omega

section
variable (s : State)

theorem State.marker_onlyLogs (typ polder kind : Nat) : OnlyLogs s (s.marker typ polder kind) := by
  unfold State.marker
  extract_lets r
  exact OnlyLogs.ite (s.traceWrite_onlyLogs r) (OnlyLogs.ite rfl rfl)

theorem State.marker_regsKept (typ polder kind : Nat) : RegsKept s (s.marker typ polder kind) := by
  unfold State.marker
  extract_lets r
  exact RegsKept.ite (s.traceWrite_regsKept r) (RegsKept.ite (RegsKept.refl s) (RegsKept.refl s))

theorem State.flushMarkers_onlyLogs : OnlyLogs s s.flushMarkers := by
  unfold State.flushMarkers
  extract_lets held gap _ s1 s2
  have h2 : OnlyLogs s s2 := List.foldlRecOn (motive := OnlyLogs s) _ _ (by rfl) fun t ht r _ => ht.trans (t.traceWrite_onlyLogs r)
  clear_value gap
  split
  · exact h2
  · exact h2.trans ((State.errAdd_onlyLogs _ _ _).trans (State.traceWrite_onlyLogs _ _))

theorem State.flushMarkers_regsKept : RegsKept s s.flushMarkers := by
  unfold State.flushMarkers
  extract_lets held gap _ s1 s2
  have h2 : RegsKept s s2 :=
    List.foldlRecOn (motive := RegsKept s) _ _ (RegsKept.refl s) fun t ht r _ => ht.trans (t.traceWrite_regsKept r)
  clear_value gap
  split
  · exact h2
  · exact h2.trans ((RegsKept.errAdd _ _ (by decide)).trans (State.traceWrite_regsKept _ _))

theorem State.polder_setPolder {p : Nat} (v : Nat) (h : p ≤ 10) (q : Nat) :
    (s.setPolder p v).polder q = if q = p then v % 4 else s.polder q := by
  unfold State.polder State.setPolder
  rw [State.reg_setReg_self]
  split
  next e => rw [e, natAt_putBits_self _ _ _ _ (by omega), show (2 ^ 2 : Nat) = 4 from rfl]
  next e => exact natAt_putBits_of_disjoint _ _ _ _ _ _ (by omega)

theorem State.polder_of_reg {s t : State} (h : t.reg Reg.POL_STATE = s.reg Reg.POL_STATE) (p : Nat) : t.polder p = s.polder p := by
  unfold State.polder
  rw [h]

end

/-! ## Clocks that stop and run again (R484, R502) -/

/-- A fold over a list without repetitions does its work on `a` once: what leads to it stands until then, and its result from then on. -/
theorem foldl_once {α : Type} {f : State → α → State} {I P : State → Prop} {a : α} (hI : ∀ s b, b ≠ a → I s → I (f s b))
    (hstep : ∀ s, I s → P (f s a)) (hP : ∀ s b, b ≠ a → P s → P (f s b)) {l : List α} (hnd : l.Nodup) (ha : a ∈ l) {s : State}
    (hs : I s) : P (l.foldl f s) := by
  induction l generalizing s with
  | nil => exact absurd ha List.not_mem_nil
  | cons b l ih =>
    obtain ⟨hb, hl⟩ := List.nodup_cons.1 hnd
    rw [List.foldl_cons]
    by_cases hba : b = a
    · subst hba
      exact List.foldlRecOn (motive := P) l f (hstep s hs) fun t ht c hc => hP t c (fun e => hb (e ▸ hc)) ht
    · exact ih hl ((List.mem_cons.1 ha).resolve_left fun e => hba e.symm) (hI s b hba hs)

theorem stoppable_le {p : Nat} (h : stoppable p = true) : p ≤ 10 := by
  have hall : ∀ q ∈ [polPD, polPK, polPX, polPT, polPG], q ≤ 10 := by decide
  exact hall p (by simpa [stoppable] using h)

section
variable (s : State)

theorem State.polderIdle_of_taken {s t : State} (h : t.taken = s.taken) (p : Nat) : t.polderIdle p = s.polderIdle p := by
  unfold State.polderIdle
  rw [h]

theorem State.stopPolder_onlyLogs (p kind : Nat) : OnlyLogs s (s.stopPolder p kind) := by
  unfold State.stopPolder
  exact ((s.marker_onlyLogs 3 p kind).trans (State.setReg_onlyLogs _ _ _)).trans (State.setFlag_onlyLogs _ _ _)

/-- The stop of a polder's clock writes the states and the polder's own clock register. -/
theorem State.stopPolder_reg (p kind : Nat) {off : Nat} (hlog : off ∉ logRegisters) (hstate : off ≠ Reg.POL_STATE)
    (hclk : off ≠ Reg.POL_CLK + 4 * p) : (s.stopPolder p kind).reg off = s.reg off := by
  unfold State.stopPolder
  refine (State.reg_setFld _ _ _ _).trans ((if_neg hclk).trans ?_)
  exact (State.reg_setReg _ _ _ _).trans ((if_neg hstate).trans (s.marker_regsKept 3 p kind off hlog))

theorem State.polder_setFld_clk {p : Nat} (hp : p ≤ 10) {f : Fld} (hf : f.off = Reg.POL_CLK) (v q : Nat) :
    (s.setFld (clk f p) v).polder q = s.polder q := by
  refine State.polder_of_reg ((State.reg_setFld _ _ _ _).trans (if_neg ?_)) q
  have hoff : (clk f p).off = Reg.POL_CLK + 4 * p := congrArg (· + 4 * p) hf
  rw [hoff]
  exact (clk_ne hp).1.symm

theorem State.polder_marker (typ polder kind q : Nat) : (s.marker typ polder kind).polder q = s.polder q :=
  State.polder_of_reg (s.marker_regsKept _ _ _ _ (by decide)) q

section
variable {p : Nat} (hp : p ≤ 10)
include hp

theorem State.stopPolder_polder (kind q : Nat) : (s.stopPolder p kind).polder q = if q = p then 2 else s.polder q := by
  unfold State.stopPolder
  refine (State.polder_setFld_clk _ hp rfl _ _).trans ?_
  rw [State.polder_setPolder _ _ hp, State.polder_marker]

theorem State.stopPolder_clk (kind : Nat) : (s.stopPolder p kind).reg (Reg.POL_CLK + 4 * p) = putBits (s.reg (Reg.POL_CLK + 4 * p)) 30 1 1 := by
  have hlog := (not_or.1 (mt List.mem_cons.2 (clk_notMem_logRegisters hp))).2
  unfold State.stopPolder
  refine (State.reg_setFld _ _ _ _).trans ((if_pos rfl).trans (congrArg (putBits · 30 1 1) ?_))
  exact (State.reg_setReg _ _ _ _).trans ((if_neg (clk_ne hp).1).trans (s.marker_regsKept 3 p kind _ hlog))

end

/-- What a stop of `p`'s clock leads to, with the write of its STOP bit before it. -/
structure Stopped (s t : State) (p : Nat) : Prop where
  only : OnlyLogs s t
  polder : t.polder p = 2
  clk : t.reg (Reg.POL_CLK + 4 * p) = putBits (s.reg (Reg.POL_CLK + 4 * p)) 30 1 1

/-- One step of the STOP bits leaves another polder's state and clock register. -/
theorem State.settleStop_other {p q : Nat} (hp : p ≤ 10) (hq : q ≠ p) :
    let t := if stoppable q && s.flag (Machine.clk Reg.POL_CLK_STOP q) && s.polderOn q && s.polderIdle q then s.stopPolder q 0 else s
    OnlyLogs s t ∧ t.polder p = s.polder p ∧ t.reg (Reg.POL_CLK + 4 * p) = s.reg (Reg.POL_CLK + 4 * p) := by
  dsimp only
  split
  next h =>
    have hq10 : q ≤ 10 := stoppable_le (by simp only [Bool.and_eq_true] at h; exact h.1.1.1)
    refine ⟨s.stopPolder_onlyLogs q 0, (s.stopPolder_polder hq10 0 p).trans (if_neg hq.symm), ?_⟩
    have hne : Reg.POL_CLK + 4 * p ≠ Reg.POL_CLK + 4 * q := by omega
    exact s.stopPolder_reg q 0 (not_or.1 (mt List.mem_cons.2 (clk_notMem_logRegisters hp))).2 (clk_ne hp).1 hne
  · exact ⟨OnlyLogs.refl s, rfl, rfl⟩

/-- The STOP bit of an idle polder takes effect, whatever other STOP bits do. -/
theorem State.settleStops_stops {p : Nat} (hstop : stoppable p = true) (hflag : s.flag (Machine.clk Reg.POL_CLK_STOP p) = true)
    (hon : s.polderOn p = true) (hidle : s.polderIdle p = true) : Stopped s s.settleStops p := by
  have hp := stoppable_le hstop
  have hmem : p ∈ List.range 11 := List.mem_range.2 (by omega)
  unfold State.settleStops
  refine foldl_once (I := fun t => OnlyLogs s t ∧ t.polder p = s.polder p ∧ t.reg (Reg.POL_CLK + 4 * p) = s.reg (Reg.POL_CLK + 4 * p))
    (P := fun t => Stopped s t p) ?_ ?_ ?_ List.nodup_range hmem ⟨OnlyLogs.refl s, rfl, rfl⟩
  · rintro t q hq ⟨ht, hpol, hclk⟩
    obtain ⟨ht', hpol', hclk'⟩ := t.settleStop_other hp hq
    exact ⟨ht.trans ht', hpol'.trans hpol, hclk'.trans hclk⟩
  · rintro t ⟨ht, hpol, hclk⟩
    have hflag' : t.flag (Machine.clk Reg.POL_CLK_STOP p) = true := (congrArg (bitAt · 31) hclk).trans hflag
    have hon' : t.polderOn p = true := by
      unfold State.polderOn
      rw [hpol]
      exact hon
    have hidle' : t.polderIdle p = true := (State.polderIdle_of_taken ht.taken p).trans hidle
    rw [hstop, hflag', hon', hidle']
    change Stopped s (t.stopPolder p 0) p
    exact ⟨ht.trans (t.stopPolder_onlyLogs p 0), (t.stopPolder_polder hp 0 p).trans (if_pos rfl), by rw [t.stopPolder_clk hp, hclk]⟩
  · rintro t q hq ⟨ht, hpol, hclk⟩
    obtain ⟨ht', hpol', hclk'⟩ := t.settleStop_other hp hq
    exact ⟨ht.trans ht', hpol'.trans hpol, hclk'.trans hclk⟩

/-! The clock of a polder runs again. -/

theorem State.resumePolder_onlyLogs (p kind : Nat) : OnlyLogs s (s.resumePolder p kind) := by
  unfold State.resumePolder
  extract_lets s1 s2
  have h1 : OnlyLogs s s1 := (s.setReg_onlyLogs _ _).trans (State.setFlag_onlyLogs _ _ _)
  have h2 : OnlyLogs s1 s2 := OnlyLogs.ite s1.flushMarkers_onlyLogs (OnlyLogs.refl s1)
  exact (h1.trans h2).trans (s2.marker_onlyLogs _ _ _)

/-- What the run of a clock writes besides what tracing writes. -/
theorem State.resumePolder_regsKept (p kind : Nat) :
    RegsKept ((s.setPolder p 3).setFlag (clk Reg.POL_CLK_STOPPED p) false) (s.resumePolder p kind) := by
  unfold State.resumePolder
  extract_lets s1 s2
  have h2 : RegsKept s1 s2 := RegsKept.ite s1.flushMarkers_regsKept (RegsKept.refl s1)
  exact h2.trans (s2.marker_regsKept _ _ _)

section
variable {p : Nat} (hp : p ≤ 10)
include hp

theorem State.resumePolder_polder (kind q : Nat) : (s.resumePolder p kind).polder q = if q = p then 3 else s.polder q := by
  rw [State.polder_of_reg (s.resumePolder_regsKept p kind Reg.POL_STATE (by decide)) q]
  exact (State.polder_setFld_clk _ hp rfl _ _).trans (s.polder_setPolder 3 hp q)

theorem State.resumePolder_clk (kind : Nat) :
    (s.resumePolder p kind).reg (Reg.POL_CLK + 4 * p) = putBits (s.reg (Reg.POL_CLK + 4 * p)) 30 1 0 := by
  have hlog := (not_or.1 (mt List.mem_cons.2 (clk_notMem_logRegisters hp))).2
  rw [s.resumePolder_regsKept p kind _ hlog]
  refine (State.reg_setFld _ _ _ _).trans ((if_pos rfl).trans (congrArg (putBits · 30 1 0) ?_))
  exact (State.reg_setReg _ _ _ _).trans (if_neg (clk_ne hp).1)

end
end

/-! ## The commands of a polder's clock -/

theorem polderOf_eq {i : BitVec 4} {p : Nat} (hp : p = i.toNat) (hle : p ≤ 10) : polderOf i = some p := by
  subst hp
  exact if_pos hle

/-- A write of a STOP bit reads back, and leaves the states of the polders. -/
theorem State.stopBit_flag (s : State) (p : Nat) (b : Bool) : (s.setFlag (clk Reg.POL_CLK_STOP p) b).flag (clk Reg.POL_CLK_STOP p) = b :=
  State.flag_setFlag_self _ _ _ rfl (by change 31 < 32; decide)

theorem State.setPower_flag (s : State) (x : Power) (f : Fld) : (s.setPower x).flag f = s.flag f := rfl
theorem State.setPower_fld (s : State) (x : Power) (f : Fld) : (s.setPower x).fld f = s.fld f := rfl

section
variable {s : State} {w : Writer} (hmay : s.mayWrite w = true) {i : BitVec 4} {p : Nat} (hi : polderOf i = some p) (hp : p ≤ 10)
include hmay hi

theorem execClockStop_writes (stop : Bool) : exec (.clockStop w i stop) s = .next (s.writeStop p stop) := by
  change execClockStop w i stop s = _
  unfold execClockStop
  rw [if_pos hmay, hi]

theorem execClockStop_stops (hstop : stoppable p = true) (hon : s.polderOn p = true) (hidle : s.polderIdle p = true) :
    ∃ t, exec (.clockStop w i true) s = .next t ∧ t.polder p = 2 ∧ t.flag (clk Reg.POL_CLK_STOP p) = true ∧
      t.flag (clk Reg.POL_CLK_STOPPED p) = true ∧ t.gtc = s.gtc ∧ t.dram = s.dram ∧ t.cores = s.cores ∧ t.rings = s.rings := by
  have hwrite : s.writeStop p true = (s.setFlag (clk Reg.POL_CLK_STOP p) true).settleStops := by
    unfold State.writeStop
    rw [hstop]
    rfl
  have honly : OnlyLogs s (s.setFlag (clk Reg.POL_CLK_STOP p) true) := s.setFlag_onlyLogs _ _
  have hset := s.stopBit_flag p true
  have hon' : (s.setFlag (clk Reg.POL_CLK_STOP p) true).polderOn p = true :=
    (congrArg (· == 3) (s.polder_setFld_clk (stoppable_le hstop) rfl _ p)).trans hon
  rw [execClockStop_writes hmay hi, hwrite]
  generalize s.setFlag (clk Reg.POL_CLK_STOP p) true = u at *
  obtain ⟨hu, hpol, hclk⟩ := u.settleStops_stops hstop hset hon' (by rwa [State.polderIdle_of_taken honly.taken])
  have ht := honly.trans hu
  refine ⟨_, rfl, hpol, ?_, ?_, ht.gtc, ht.dram, ht.cores, ht.rings⟩
  · exact (congrArg (bitAt · 31) hclk).trans ((bitAt_putBits_of_outside _ 1 (by decide) (by decide)).trans hset)
  · exact (congrArg (bitAt · 30) hclk).trans (bitAt_putBit_self _ true (by decide))

include hp in
theorem execClockStop_resumes (hstop : stoppable p = true) (hpol : s.polder p = 2) (hmode : s.fld Reg.POL_MODE_CUR < 3) :
    ∃ t, exec (.clockStop w i false) s = .next t ∧ t.polder p = 3 ∧ t.flag (clk Reg.POL_CLK_STOP p) = false ∧
      t.flag (clk Reg.POL_CLK_STOPPED p) = false ∧ t.gtc = s.gtc ∧ t.dram = s.dram ∧ t.cores = s.cores ∧ t.rings = s.rings := by
  have hpol' : (s.setFlag (clk Reg.POL_CLK_STOP p) false).polder p = 2 := (s.polder_setFld_clk hp rfl _ p).trans hpol
  have hmode' : (s.setFlag (clk Reg.POL_CLK_STOP p) false).fld Reg.POL_MODE_CUR < 3 := by
    refine lt_of_eq_of_lt (State.fld_setFld_of_disjoint _ _ _ _ (.inl ?_)) hmode
    exact (clk_ne hp).2.symm
  have hwrite : s.writeStop p false = (s.setFlag (clk Reg.POL_CLK_STOP p) false).resumePolder p 0 := by
    unfold State.writeStop
    rw [hstop]
    exact if_pos (And.intro hpol' hmode')
  have honly : OnlyLogs s (s.setFlag (clk Reg.POL_CLK_STOP p) false) := s.setFlag_onlyLogs _ _
  have hset := s.stopBit_flag p false
  rw [execClockStop_writes hmay hi, hwrite]
  generalize s.setFlag (clk Reg.POL_CLK_STOP p) false = u at *
  have ht := honly.trans (u.resumePolder_onlyLogs p 0)
  have hclk := u.resumePolder_clk hp 0
  refine ⟨_, rfl, (u.resumePolder_polder hp 0 p).trans (if_pos rfl), ?_, ?_, ht.gtc, ht.dram, ht.cores, ht.rings⟩
  · exact (congrArg (bitAt · 31) hclk).trans ((bitAt_putBits_of_outside _ 0 (by decide) (by decide)).trans hset)
  · exact (congrArg (bitAt · 30) hclk).trans (bitAt_putBit_self _ false (by decide))

include hp in
theorem execClockSourceSwitch_switches (pll : Bool) : ∃ t, exec (.clockSourceSwitch w i pll) s = .next t ∧
    t.flag (clk Reg.POL_CLK_SRC p) = pll ∧ bitAt t.power.onPll p = (pll && s.flag (clk Reg.POL_CLK_LOCK p)) ∧
    { t with regs := s.regs, power := s.power } = s := by
  have hlock : (s.setFlag (clk Reg.POL_CLK_SRC p) pll).flag (clk Reg.POL_CLK_LOCK p) = s.flag (clk Reg.POL_CLK_LOCK p) :=
    State.flag_setFld_of_disjoint _ _ _ _ (by change 28 < 32; decide) (.inr (.inl (by change 28 < 29; decide)))
  have hexec : exec (.clockSourceSwitch w i pll) s = .next ((s.setFlag (clk Reg.POL_CLK_SRC p) pll).setPower
      { s.power with onPll := putBit s.power.onPll p (pll && s.flag (clk Reg.POL_CLK_LOCK p)) }) := by
    rw [← hlock]
    change execClockSourceSwitch w i pll s = _
    unfold execClockSourceSwitch
    rw [if_pos hmay, hi]
    rfl
  refine ⟨_, hexec, ?_, bitAt_putBit_self _ _ (by omega), rfl⟩
  rw [State.setPower_flag]
  exact State.flag_setFlag_self _ _ _ rfl (by change 29 < 32; decide)

end

theorem execPllLock_locks {s : State} {i : BitVec 4} {p : Nat} (hi : polderOf i = some p) (hp : p ≤ 10) (hpow : s.polder p ≠ 0)
    (hsrc : s.flag (clk Reg.POL_CLK_SRC p) = true) : ∃ t, exec (.pllLock i) s = .next t ∧ t.flag (clk Reg.POL_CLK_LOCK p) = true ∧
      bitAt t.power.onPll p = true ∧ { t with regs := s.regs, power := s.power } = s := by
  refine ⟨(s.setFlag (clk Reg.POL_CLK_LOCK p) true).setPower { s.power with onPll := putBit s.power.onPll p true }, ?_, ?_,
    bitAt_putBit_self _ true (by omega), rfl⟩
  · change execPllLock i s = _
    unfold execPllLock
    rw [hi]
    exact congrArg _ (if_pos ⟨hpow, hsrc⟩)
  · rw [State.setPower_flag]
    exact State.flag_setFlag_self _ _ _ rfl (by change 28 < 32; decide)

theorem execClockStretch_counts {s : State} {i : BitVec 4} {p : Nat} (hi : polderOf i = some p) (hon : s.polderOn p = true) :
    ∃ t, exec (.clockStretch i) s = .next t ∧ (t.counter unitPOL 3).count = (s.counter unitPOL 3).count + 1 ∧
      t.gtc = s.gtc ∧ t.dram = s.dram ∧ t.cores = s.cores := by
  have h := s.count_onlyLogs unitPOL 3 1
  refine ⟨s.count unitPOL 3 1, ?_, s.count_counter 1 (by decide), h.gtc, h.dram, h.cores⟩
  change execClockStretch i s = _
  unfold execClockStretch
  rw [hi]
  exact congrArg _ (if_pos hon)

/-! ## Operating points (R485, R486, R548) -/

section
variable (s : State)

theorem dvfsOrder_le {p : Nat} (h : p ∈ dvfsOrder) : p ≤ 10 := by
  revert p
  decide

theorem State.applyOpp_onlyLogs (p : Nat) : OnlyLogs s (s.applyOpp p) := by
  unfold State.applyOpp
  extract_lets opp s1 s2
  have h1 : OnlyLogs s s1 := OnlyLogs.ite (s.marker_onlyLogs _ _ _) (OnlyLogs.refl s)
  have h2 : OnlyLogs s s2 := h1.trans (s1.setFld_onlyLogs _ _)
  exact OnlyLogs.ite (OnlyLogs.refl s) (OnlyLogs.ite (h2.trans (s2.marker_onlyLogs _ _ _)) h2)

theorem State.applyOpps_onlyLogs : OnlyLogs s s.applyOpps :=
  List.foldlRecOn (motive := OnlyLogs s) _ _ (OnlyLogs.refl s) fun t ht p _ => ht.trans (t.applyOpp_onlyLogs p)

section
variable {p : Nat} (hp : p ≤ 10)
include hp

/-- The effective OPP written where it changes; the markers of the change leave the register. -/
theorem State.applyOpp_clk : (s.applyOpp p).reg (Reg.POL_CLK + 4 * p) =
    if min 3 (s.fld (clk Reg.POL_CLK_OPP p) + s.power.steps p) = s.fld (clk Reg.POL_CLK_OPP_CUR p) then s.reg (Reg.POL_CLK + 4 * p)
    else putBits (s.reg (Reg.POL_CLK + 4 * p)) 24 2 (min 3 (s.fld (clk Reg.POL_CLK_OPP p) + s.power.steps p)) := by
  have hlog := (not_or.1 (mt List.mem_cons.2 (clk_notMem_logRegisters hp))).2
  have hmark {t : State} {typ kind : Nat} {c : Prop} [Decidable c] :
      (if c then t.marker typ p kind else t).reg (Reg.POL_CLK + 4 * p) = t.reg (Reg.POL_CLK + 4 * p) :=
    State.reg_ite (t.marker_regsKept typ p kind _ hlog) rfl
  unfold State.applyOpp
  extract_lets opp s1 s2
  split
  · rfl
  · exact hmark.trans ((State.reg_setFld _ _ _ _).trans ((if_pos rfl).trans (congrArg (putBits · 24 2 opp) hmark)))

omit hp in
theorem State.applyOpp_reg {off : Nat} (hlog : off ∉ logRegisters) (hclk : off ≠ Reg.POL_CLK + 4 * p) : (s.applyOpp p).reg off = s.reg off := by
  unfold State.applyOpp
  extract_lets opp s1 s2
  have h1 : s1.reg off = s.reg off := State.reg_ite (s.marker_regsKept _ _ _ off hlog) rfl
  have h2 : s2.reg off = s.reg off := (State.reg_setFld _ _ _ _).trans ((if_neg hclk).trans h1)
  exact State.reg_ite rfl (State.reg_ite ((s2.marker_regsKept _ _ _ off hlog).trans h2) h2)

theorem State.applyOpp_opp : (s.applyOpp p).fld (clk Reg.POL_CLK_OPP_CUR p) = min 3 (s.fld (clk Reg.POL_CLK_OPP p) + s.power.steps p) := by
  change natAt ((s.applyOpp p).reg (Reg.POL_CLK + 4 * p)) 24 2 = _
  rw [s.applyOpp_clk hp]
  split
  next h => exact h.symm
  · rw [natAt_putBits_self _ _ _ _ (by decide)]
    exact Nat.mod_eq_of_lt (by omega)

theorem State.applyOpp_request : (s.applyOpp p).fld (clk Reg.POL_CLK_OPP p) = s.fld (clk Reg.POL_CLK_OPP p) := by
  change natAt ((s.applyOpp p).reg (Reg.POL_CLK + 4 * p)) 26 2 = _
  rw [s.applyOpp_clk hp]
  split
  · rfl
  · exact natAt_putBits_of_disjoint _ _ _ _ _ _ (by decide)

end
end

/-- A write of OPP, and the effective OPP that follows it. -/
theorem execOppChange_applies {s : State} {w : Writer} (hmay : s.mayWrite w = true) {i : BitVec 4} {p : Nat} (hi : polderOf i = some p)
    (hp : p ≤ 10) (opp : BitVec 2) (hdvfs : p ∈ dvfsOrder) :
    ∃ t, exec (.oppChange w i opp) s = .next t ∧ t.fld (clk Reg.POL_CLK_OPP p) = opp.toNat ∧
      t.fld (clk Reg.POL_CLK_OPP_CUR p) = min 3 (opp.toNat + s.power.steps p) ∧ t.power = s.power ∧ t.gtc = s.gtc ∧ t.dram = s.dram ∧
      t.cores = s.cores := by
  have hexec : exec (.oppChange w i opp) s = .next ((s.setFld (clk Reg.POL_CLK_OPP p) opp.toNat).applyOpp p) := by
    change execOppChange w i opp s = _
    unfold execOppChange State.writeOpp
    rw [if_pos hmay, hi]
    exact congrArg _ (if_pos (by simpa using hdvfs))
  have hreq : (s.setFld (clk Reg.POL_CLK_OPP p) opp.toNat).fld (clk Reg.POL_CLK_OPP p) = opp.toNat :=
    (State.fld_setFld_self _ _ _ (by change 28 ≤ 32; decide)).trans (Nat.mod_eq_of_lt opp.isLt)
  have honly : OnlyLogs s (s.setFld (clk Reg.POL_CLK_OPP p) opp.toNat) := s.setFld_onlyLogs _ _
  generalize s.setFld (clk Reg.POL_CLK_OPP p) opp.toNat = u at *
  have ht := honly.trans (u.applyOpp_onlyLogs p)
  refine ⟨_, hexec, (u.applyOpp_request hp).trans hreq, ?_, ht.power, ht.gtc, ht.dram, ht.cores⟩
  rw [u.applyOpp_opp hp, hreq, honly.power]

/-- The next polder to slow is found in the clock registers alone. -/
theorem State.nextSlower_congr {s t : State} (h : ∀ p ≤ 10, t.reg (Reg.POL_CLK + 4 * p) = s.reg (Reg.POL_CLK + 4 * p)) (steps : List Nat) :
    t.nextSlower steps = s.nextSlower steps := by
  have hfld (p : Nat) (hp : p ≤ 10) : t.fld (clk Reg.POL_CLK_OPP_CUR p) = s.fld (clk Reg.POL_CLK_OPP_CUR p) := congrArg (natAt · 24 2) (h p hp)
  unfold State.nextSlower
  extract_lets start
  refine List.find?_congr fun p hp => ?_
  obtain ⟨k, -, rfl⟩ := List.mem_map.1 hp
  rw [hfld]
  have hle : ∀ j < 5, dvfsOrder.getD j 0 ≤ 10 := by decide
  exact hle _ (Nat.mod_lt _ (by decide))

/-- The polder that is slowed next is one of the polders with DVFS. -/
theorem State.nextSlower_le {s : State} {steps : List Nat} {p : Nat} (h : s.nextSlower steps = some p) : p ≤ 10 := by
  unfold State.nextSlower at h
  obtain ⟨k, -, rfl⟩ := List.mem_map.1 (List.mem_of_find?_eq_some h)
  have hle : ∀ j < 5, dvfsOrder.getD j 0 ≤ 10 := by decide
  exact hle _ (Nat.mod_lt _ (by decide))

theorem Power.steps_governed (x : Power) (p : Nat) :
    ({ x with governed := p :: x.governed, lowSince := none } : Power).steps p = x.steps p + 1 := by
  change List.count p (p :: x.governed) + List.count p x.throttled = List.count p x.governed + List.count p x.throttled + 1
  rw [List.count_cons_self]
  omega

theorem Power.steps_throttled (x : Power) (p : Nat) :
    ({ x with throttled := p :: x.throttled, coolSince := none } : Power).steps p = x.steps p + 1 := by
  change List.count p x.governed + List.count p (p :: x.throttled) = List.count p x.governed + List.count p x.throttled + 1
  rw [List.count_cons_self]
  omega

/-- A polder slowed by one step. -/
theorem State.slow_opp {s : State} {p : Nat} (hp : p ≤ 10) {x : Power} (hx : x.steps p = s.power.steps p + 1) :
    let t := (s.setPower x).applyOpp p
    t.power = x ∧ t.fld (clk Reg.POL_CLK_OPP_CUR p) = min 3 (s.fld (clk Reg.POL_CLK_OPP p) + s.power.steps p + 1) ∧
      t.dram = s.dram ∧ t.cores = s.cores := by
  dsimp only
  have ht := (s.setPower x).applyOpp_onlyLogs p
  refine ⟨ht.power, ?_, ht.dram, ht.cores⟩
  rw [State.applyOpp_opp _ hp, State.setPower_fld, Nat.add_assoc, ← hx]
  rfl

section
variable {s : State} (input nand : BitVec 16)

/-- The state of a measurement of the input power. -/
def State.measured (s : State) (input nand : BitVec 16) : State :=
  (s.setFld Reg.MGT_POWER_INPUT input.toNat).setFld Reg.MGT_POWER_NAND nand.toNat

theorem State.measured_reg {off : Nat} (h : off ≠ Reg.MGT_POWER) : (s.measured input nand).reg off = s.reg off :=
  (State.reg_setFld _ _ _ _).trans ((if_neg h).trans ((s.reg_setFld _ _ _).trans (if_neg h)))

theorem State.measured_input : (s.measured input nand).fld Reg.MGT_POWER_INPUT = input.toNat :=
  (State.fld_setFld_of_disjoint _ _ _ _ (by decide)).trans
    ((State.fld_setFld_self _ _ _ (by decide)).trans (Nat.mod_eq_of_lt input.isLt))

theorem State.measured_nand : (s.measured input nand).fld Reg.MGT_POWER_NAND = nand.toNat :=
  (State.fld_setFld_self _ _ _ (by decide)).trans (Nat.mod_eq_of_lt nand.isLt)

theorem State.measured_onlyLogs : OnlyLogs s (s.measured input nand) := (s.setFld_onlyLogs _ _).trans (State.setFld_onlyLogs _ _ _)

/-- The governor in the two modes with a cap. -/
theorem execPowerGovernor_governs {cap : Nat} (hmode : s.fld Reg.POL_MODE_CUR = 1 ∨ s.fld Reg.POL_MODE_CUR = 2)
    (hcap : cap = if s.fld Reg.POL_MODE_CUR = 1 then 2200 else 1600) :
    exec (.powerGovernor input nand) s = .next (
      let u := s.measured input nand
      if cap < input.toNat then
        match s.nextSlower s.power.governed with
        | some p => (u.setPower { s.power with governed := p :: s.power.governed, lowSince := none }).applyOpp p
        | none => u.setPower { s.power with idles := true, lowSince := none }
      else if 10 * input.toNat ≤ 9 * cap then
        if lowFor s.power.lowSince s.gtc then
          if s.power.idles then u.setPower { s.power with idles := false }
          else (u.setPower { s.power with governed := s.power.governed.drop 1 }).applyOpps
        else u.setPower { s.power with lowSince := some (s.power.lowSince.getD s.gtc) }
      else u.setPower { s.power with lowSince := none }) := by
  have hcur : (s.measured input nand).fld Reg.POL_MODE_CUR = s.fld Reg.POL_MODE_CUR :=
    congrArg (natAt · _ _) (s.measured_reg input nand (by decide))
  have hnext : (s.measured input nand).nextSlower s.power.governed = s.nextSlower s.power.governed :=
    State.nextSlower_congr (fun p hp => s.measured_reg input nand (by unfold Reg.POL_CLK Reg.MGT_POWER; omega)) _
  have hnot : ¬ (s.fld Reg.POL_MODE_CUR ≠ 1 ∧ s.fld Reg.POL_MODE_CUR ≠ 2) := by omega
  change execPowerGovernor input nand s = .next (
    let u := s.measured input nand
    _)
  rw [hcap, ← hnext]
  rw [← hcur] at hnot ⊢
  exact congrArg _ (if_neg hnot)

variable {input nand} {cap : Nat} (hmode : s.fld Reg.POL_MODE_CUR = 1 ∨ s.fld Reg.POL_MODE_CUR = 2)
  (hcap : cap = if s.fld Reg.POL_MODE_CUR = 1 then 2200 else 1600)
include hmode hcap

theorem execPowerGovernor_slows {p : Nat} (hover : cap < input.toNat) (hnext : s.nextSlower s.power.governed = some p) :
    ∃ t, exec (.powerGovernor input nand) s = .next t ∧ t.fld Reg.MGT_POWER_INPUT = input.toNat ∧ t.fld Reg.MGT_POWER_NAND = nand.toNat ∧
      t.power.governed = p :: s.power.governed ∧
      t.fld (clk Reg.POL_CLK_OPP_CUR p) = min 3 (s.fld (clk Reg.POL_CLK_OPP p) + s.power.steps p + 1) ∧ t.dram = s.dram ∧ t.cores = s.cores := by
  have hp := State.nextSlower_le hnext
  have hclk : Reg.MGT_POWER ≠ Reg.POL_CLK + 4 * p := by
    unfold Reg.POL_CLK Reg.MGT_POWER
    omega
  have hu := s.measured_onlyLogs input nand
  have hin := s.measured_input input nand
  have hnand := s.measured_nand input nand
  have hreq : (s.measured input nand).fld (clk Reg.POL_CLK_OPP p) = s.fld (clk Reg.POL_CLK_OPP p) :=
    congrArg (natAt · _ _) (s.measured_reg input nand hclk.symm)
  rw [execPowerGovernor_governs input nand hmode hcap]
  dsimp only
  rw [if_pos hover, hnext]
  generalize s.measured input nand = u at *
  have hsteps : ({ s.power with governed := p :: s.power.governed, lowSince := none } : Power).steps p = u.power.steps p + 1 := by
    rw [hu.power]
    exact Power.steps_governed _ _
  have hreg {f : Fld} (hf : f.off = Reg.MGT_POWER) :
      ((u.setPower { s.power with governed := p :: s.power.governed, lowSince := none }).applyOpp p).fld f = u.fld f := by
    refine congrArg (natAt · _ _) (State.applyOpp_reg _ ?_ ?_)
    · rw [hf]
      decide
    · rwa [hf]
  obtain ⟨hpow, hopp, hdram, hcores⟩ := State.slow_opp hp hsteps
  refine ⟨_, rfl, (hreg rfl).trans hin, (hreg rfl).trans hnand, congrArg Power.governed hpow, ?_, hdram.trans hu.dram, hcores.trans hu.cores⟩
  rw [hopp, hreq, hu.power]

theorem execPowerGovernor_idles (hover : cap < input.toNat) (hnext : s.nextSlower s.power.governed = none) :
    ∃ t, exec (.powerGovernor input nand) s = .next t ∧ t.power.idles = true ∧ t.power.governed = s.power.governed ∧ t.dram = s.dram ∧
      t.cores = s.cores := by
  rw [execPowerGovernor_governs input nand hmode hcap]
  dsimp only
  rw [if_pos hover, hnext]
  exact ⟨_, rfl, rfl, rfl, rfl, rfl⟩

theorem execPowerGovernor_frees {g : Word64} (hlow : 10 * input.toNat ≤ 9 * cap) (hsince : s.power.lowSince = some g)
    (hlong : 10000000 ≤ (s.gtc - g).toNat) :
    ∃ t, exec (.powerGovernor input nand) s = .next t ∧ t.power.idles = false ∧
      (s.power.idles = true → t.power.governed = s.power.governed) ∧
      (s.power.idles = false → t.power.governed = s.power.governed.drop 1) ∧ t.dram = s.dram ∧ t.cores = s.cores := by
  have hfor : lowFor s.power.lowSince s.gtc = true := by
    rw [hsince]
    exact decide_eq_true hlong
  rw [execPowerGovernor_governs input nand hmode hcap]
  dsimp only
  rw [if_neg (by omega), if_pos hlow, if_pos hfor]
  have hu := s.measured_onlyLogs input nand
  generalize s.measured input nand = u at hu
  by_cases hidles : s.power.idles = true
  case pos =>
    rw [if_pos hidles]
    exact ⟨_, rfl, rfl, fun _ => rfl, fun h => absurd (hidles.symm.trans h) (by decide), hu.dram, hu.cores⟩
  case neg =>
    rw [if_neg hidles]
    have ht := State.applyOpps_onlyLogs (u.setPower { s.power with governed := s.power.governed.drop 1 })
    refine ⟨_, rfl, ?_, fun h => absurd h hidles, fun _ => ?_, ht.dram.trans hu.dram, ht.cores.trans hu.cores⟩
    · rw [ht.power]
      exact Bool.eq_false_iff.2 hidles
    · rw [ht.power]
      rfl

theorem execPowerGovernor_holds (hhigh : 9 * cap < 10 * input.toNat) (hunder : input.toNat ≤ cap) :
    ∃ t, exec (.powerGovernor input nand) s = .next t ∧ t.power.lowSince = none ∧ t.power.governed = s.power.governed ∧
      t.power.idles = s.power.idles := by
  rw [execPowerGovernor_governs input nand hmode hcap]
  dsimp only
  rw [if_neg (by omega), if_neg (by omega)]
  exact ⟨_, rfl, rfl, rfl, rfl⟩

end

/-! The thermal throttle (R548). -/

section
variable {temp : Int} {s : State}

theorem execThermalThrottle_hot (hot : 1000 ≤ temp) : exec (.thermalThrottle temp) s = .next (
    match s.nextSlower s.power.throttled with
    | some p => (s.setPower { s.power with throttled := p :: s.power.throttled, coolSince := none }).applyOpp p
    | none => s.setPower { s.power with idles := true, coolSince := none }) :=
  congrArg _ (if_pos hot)

theorem execThermalThrottle_slows {p : Nat} (hot : 1000 ≤ temp) (hnext : s.nextSlower s.power.throttled = some p) :
    ∃ t, exec (.thermalThrottle temp) s = .next t ∧ t.power.throttled = p :: s.power.throttled ∧
      t.fld (clk Reg.POL_CLK_OPP_CUR p) = min 3 (s.fld (clk Reg.POL_CLK_OPP p) + s.power.steps p + 1) ∧ t.dram = s.dram ∧ t.cores = s.cores := by
  have hsteps := s.power.steps_throttled p
  obtain ⟨hpow, hopp, hdram, hcores⟩ := State.slow_opp (State.nextSlower_le hnext) hsteps
  rw [execThermalThrottle_hot hot, hnext]
  exact ⟨_, rfl, congrArg Power.throttled hpow, hopp, hdram, hcores⟩

theorem execThermalThrottle_idles (hot : 1000 ≤ temp) (hnext : s.nextSlower s.power.throttled = none) :
    exec (.thermalThrottle temp) s = .next { s with power := { s.power with idles := true, coolSince := none } } := by
  rw [execThermalThrottle_hot hot, hnext]
  rfl

theorem execThermalThrottle_frees {g : Word64} (hcool : temp < 950) (hsince : s.power.coolSince = some g)
    (hlong : 10000000 ≤ (s.gtc - g).toNat) (hidles : s.power.idles = false) :
    ∃ t, exec (.thermalThrottle temp) s = .next t ∧ t.power.throttled = s.power.throttled.drop 1 ∧ t.dram = s.dram ∧ t.cores = s.cores := by
  have hfor : lowFor s.power.coolSince s.gtc = true := by
    rw [hsince]
    exact decide_eq_true hlong
  have hexec : exec (.thermalThrottle temp) s =
      .next ((s.setPower { s.power with throttled := s.power.throttled.drop 1 }).applyOpps) := by
    change execThermalThrottle temp s = _
    unfold execThermalThrottle
    dsimp only
    rw [if_neg (by omega), if_pos hcool, if_pos hfor, hidles]
    rfl
  have ht := State.applyOpps_onlyLogs (s.setPower { s.power with throttled := s.power.throttled.drop 1 })
  exact ⟨_, hexec, congrArg Power.throttled ht.power, ht.dram, ht.cores⟩

end

/-- Settles O48: a stop or a run of one clock leaves the states and clock registers of the other polders, and the effective OPP is the
request and the steps after every change of either. -/
theorem clocksAndOperatingPoints : Obligations.ClocksAndOperatingPoints := by
  unfold Obligations.ClocksAndOperatingPoints
  refine ⟨fun w i p s hmay hi hp => ?_, fun input nand s hmode cap hcap => ?_, fun temp s => ?_⟩
  case refine_1 =>
    have hof := polderOf_eq hi hp
    exact ⟨execClockStop_stops hmay hof, execClockStop_resumes hmay hof hp, execClockSourceSwitch_switches hmay hof hp,
      execPllLock_locks hof hp, execOppChange_applies hmay hof hp, execClockStretch_counts hof⟩
  case refine_2 =>
    exact ⟨fun p => execPowerGovernor_slows hmode hcap, execPowerGovernor_idles hmode hcap, fun g => execPowerGovernor_frees hmode hcap,
      execPowerGovernor_holds hmode hcap⟩
  case refine_3 =>
    exact ⟨fun p => execThermalThrottle_slows, execThermalThrottle_idles, fun g => execThermalThrottle_frees⟩

end Sys2Proof.Machine

/-!
SUPPORT. Cold start, the wake ladder, the resets and the pads (R36, R480, R488 to R490, R500, R503, R505, R521, R526, R557, R598):
registers outside a list, the polders released, the loader, what a warm reset clears, and the commands.
-/

namespace Sys2Proof.Machine

/-! ## Registers outside a list -/

/-- `t` holds in every register outside the list what `s` holds. -/
def RegsBut (l : List Nat) (s t : State) : Prop := ∀ off ∉ l, t.reg off = s.reg off

section
variable {l : List Nat} {s t u : State}

theorem RegsBut.refl (l : List Nat) (s : State) : RegsBut l s s := fun _ _ => rfl

theorem RegsBut.trans (h : RegsBut l s t) (g : RegsBut l t u) : RegsBut l s u := fun off ho => (g off ho).trans (h off ho)

theorem RegsBut.ite {a b : State} {c : Prop} [Decidable c] (ha : RegsBut l s a) (hb : RegsBut l s b) : RegsBut l s (if c then a else b) := by
  split
  · exact ha
  · exact hb

theorem RegsBut.mono {k : List Nat} (h : RegsBut l s t) (hlk : l ⊆ k) : RegsBut k s t := fun off ho => h off fun hm => ho (hlk hm)

theorem RegsKept.regsBut (h : RegsKept s t) (hl : logRegisters ⊆ l) : RegsBut l s t := fun off ho => h off fun hm => ho (hl hm)

theorem RegsBut.setReg (s : State) {off : Nat} (w : Word32) (h : off ∈ l) : RegsBut l s (s.setReg off w) := fun x hx => by
  rw [State.reg_setReg, if_neg]
  rintro rfl
  exact hx h

theorem RegsBut.setFld (s : State) {f : Fld} (v : Nat) (h : f.off ∈ l) : RegsBut l s (s.setFld f v) := RegsBut.setReg s _ h
theorem RegsBut.setFlag (s : State) {f : Fld} (b : Bool) (h : f.off ∈ l) : RegsBut l s (s.setFlag f b) := RegsBut.setFld s _ h

theorem RegsBut.foldl {α : Type} {f : State → α → State} {xs : List α} (hf : ∀ s, ∀ a ∈ xs, RegsBut l s (f s a)) (s : State) :
    RegsBut l s (xs.foldl f s) :=
  List.foldlRecOn (motive := RegsBut l s) xs f (RegsBut.refl l s) fun t ht a ha => ht.trans (hf t a ha)

theorem RegsBut.flag (h : RegsBut l s t) {f : Fld} (hf : f.off ∉ l) : t.flag f = s.flag f := congrArg (bitAt · _) (h _ hf)
theorem RegsBut.fld (h : RegsBut l s t) {f : Fld} (hf : f.off ∉ l) : t.fld f = s.fld f := congrArg (natAt · _ _) (h _ hf)
theorem RegsBut.polder (h : RegsBut l s t) (hl : Reg.POL_STATE ∉ l) (p : Nat) : t.polder p = s.polder p := State.polder_of_reg (h _ hl) p

end

/-! ## The states of several polders -/

section
variable {v : Nat} {l : List Nat} (hl : ∀ p ∈ l, p ≤ 10)
include hl

theorem State.foldl_setPolder (s : State) (q : Nat) :
    (l.foldl (fun (s : State) p => s.setPolder p v) s).polder q = if q ∈ l then v % 4 else s.polder q := by
  induction l generalizing s with
  | nil => rfl
  | cons p l ih =>
    rw [List.foldl_cons, ih (fun q hq => hl q (List.mem_cons_of_mem _ hq)), s.polder_setPolder v (hl p List.mem_cons_self)]
    by_cases hq : q ∈ l
    · rw [if_pos hq, if_pos (List.mem_cons_of_mem _ hq)]
    · by_cases hqp : q = p
      · rw [if_neg hq, if_pos hqp, if_pos (hqp ▸ List.mem_cons_self)]
      · rw [if_neg hq, if_neg hqp, if_neg (fun h => (List.mem_cons.1 h).elim hqp hq)]

end

theorem State.foldl_setPolder_onlyLogs (v : Nat) (l : List Nat) (s : State) : OnlyLogs s (l.foldl (fun (s : State) p => s.setPolder p v) s) :=
  List.foldlRecOn (motive := OnlyLogs s) _ _ (OnlyLogs.refl s) fun t ht _ _ => ht.trans (t.setReg_onlyLogs _ _)

/-! ## The release of the polders (R489) -/

/-- The registers that the release of the polders writes. -/
def releaseRegisters : List Nat := Reg.POL_STATE :: logRegisters

section
variable (s : State)

theorem State.releasePolders_onlyPower : OnlyPower s s.releasePolders := by
  unfold State.releasePolders
  extract_lets t
  exact ((State.foldl_setPolder_onlyLogs 3 _ s).trans t.flushMarkers_onlyLogs).onlyPower.trans rfl

theorem State.releasePolders_power : s.releasePolders.power = { s.power with phase := .on } := by
  unfold State.releasePolders
  extract_lets t
  have h : t.flushMarkers.power = s.power := ((State.foldl_setPolder_onlyLogs 3 _ s).trans t.flushMarkers_onlyLogs).power
  exact congrArg (fun x : Power => { x with phase := .on }) h

theorem State.releasePolders_regsBut : RegsBut releaseRegisters s s.releasePolders := by
  unfold State.releasePolders
  extract_lets t
  have h : RegsBut releaseRegisters s t := RegsBut.foldl (fun u p _ => RegsBut.setReg u _ (by decide)) s
  exact h.trans (t.flushMarkers_regsKept.regsBut (by decide))

theorem State.releasePolders_polder {p : Nat} (hp : p ≤ 10) : s.releasePolders.polder p = 3 := by
  unfold State.releasePolders
  extract_lets t
  have ht : t.polder p = if p ∈ List.range 11 then 3 % 4 else s.polder p :=
    State.foldl_setPolder (fun q hq => Nat.le_of_lt_succ (List.mem_range.1 hq)) s p
  rw [if_pos (List.mem_range.2 (by omega))] at ht
  exact (State.polder_of_reg (t.flushMarkers_regsKept _ (by decide)) p).trans ht

end

/-! ## The loader (R602, R616, R617) -/

/-- The registers that the loader writes. -/
def loaderRegisters : List Nat := [Reg.SEC_ROOT, Reg.SEC_SVN, Reg.SEC_FW_VER, Reg.SEC_ATT, Reg.SEC_ATT_LEFT, Reg.SEC_FW_STAT, Reg.SEC_FW_STATE]

/-- What the loader does where its own check passes: the state of security and its registers. -/
structure Loads (s t : State) : Prop where
  only : OnlyLogs s { t with sec := s.sec }
  regs : RegsBut loaderRegisters s t

theorem Loads.trans {s t u : State} (h : Loads s t) (g : Loads t u) : Loads s u where
  only := by
    have hst := h.only
    have htu := g.only
    unfold OnlyLogs at *
    rw [← hst, ← htu]
  regs := h.regs.trans g.regs

theorem Loads.proj {s t : State} (h : Loads s t) {α : Type} (f : State → α) :
    f { t with regs := s.regs, events := s.events, fltLog := s.fltLog, letters := s.letters, msix := s.msix, trace := s.trace, sec := s.sec } =
      f s :=
  congrArg f h.only

section
variable (s : State)

theorem State.setSec_loads (x : Sec) : Loads s (s.setSec x) := ⟨rfl, RegsBut.refl _ _⟩
theorem State.setReg_loads {off : Nat} (w : Word32) (h : off ∈ loaderRegisters) : Loads s (s.setReg off w) := ⟨rfl, RegsBut.setReg s w h⟩

theorem State.showSec_loads : Loads s s.showSec := by
  unfold State.showSec
  extract_lets x s1 s2 s3 s4 s5
  have h1 : Loads s s1 := s.setReg_loads _ (by decide)
  have h2 : Loads s1 s2 := s1.setReg_loads _ (by decide)
  have h3 : Loads s2 s3 := s2.setReg_loads _ (by decide)
  have h4 : Loads s3 s4 := s3.setReg_loads _ (by decide)
  have h5 : Loads s4 s5 := s4.setReg_loads _ (by decide)
  exact ((((h1.trans h2).trans h3).trans h4).trans h5).trans (s5.setReg_loads _ (by decide))

theorem State.enterLoaderOnly_loads (reason : Nat) : Loads s (s.enterLoaderOnly reason) :=
  ((s.setSec_loads _).trans (State.setReg_loads _ _ (by decide))).trans (State.showSec_loads _)

/-- A loader that passes its own check touches the state of security and its registers alone. -/
theorem State.startLoader_loads (eepromOk : Bool) : Loads s (s.startLoader eepromOk true) := by
  unfold State.startLoader
  rw [if_neg (by decide)]
  split
  · exact s.enterLoaderOnly_loads 8
  · split
    · exact s.enterLoaderOnly_loads _
    · extract_lets h image
      split
      · exact (s.setSec_loads _).trans (State.showSec_loads _)
      · exact ((s.setSec_loads _).trans (State.setReg_loads _ _ (by decide))).trans (State.showSec_loads _)

end

/-! ## What a warm reset clears (R488, R503, R557) -/

/-- The registers of the polders that are kept. -/
theorem State.clearUnitsOf_reg (s : State) (pick : Nat → Bool) {off : Nat} (h : ((unitAt off).any fun u => pick (unitPolder u)) = false) :
    (s.clearUnitsOf pick).reg off = s.reg off := by
  have hfind := Table.find_filter s.regs (fun o => !((unitAt o).any fun u => pick (unitPolder u))) off
  rw [h] at hfind
  exact congrArg (fun o : Option Word32 => o.getD _) hfind

/-- What a warm reset leaves, but for the ladder and the loader after it. -/
structure WarmReset (s t : State) : Prop where
  cores : t.cores = Vector.replicate 16 Core.reset
  rings : t.rings = []
  taken : t.taken = []
  recipes : t.recipes = []
  dram : t.dram = []
  gtc : t.gtc = s.gtc
  nand : t.flash.nand = s.flash.nand
  bootFlash : t.bootFlash = s.bootFlash
  safe : t.flag Reg.FLT_STATUS_SAFE = false
  coreRst : t.reg Reg.POL_CORE_RST = 1
  crcFail : t.flag Reg.POL_SAVE_STAT_CRC_FAIL = s.flag Reg.POL_SAVE_STAT_CRC_FAIL
  errCnt : t.reg Reg.POL_ERR_CNT = s.reg Reg.POL_ERR_CNT

/-- `t` is `s` but for registers, the trace and the fault unit. -/
def OnlyFault (s t : State) : Prop := OnlyLogs s { t with fault := s.fault }

theorem OnlyFault.trans {s t u : State} (h : OnlyFault s t) (g : OnlyFault t u) : OnlyFault s u := by
  unfold OnlyFault OnlyLogs at *
  rw [← h, ← g]

theorem OnlyLogs.onlyFault {s t : State} (h : OnlyLogs s t) : OnlyFault s t := by
  unfold OnlyFault OnlyLogs at *
  rw [← h]

theorem OnlyFault.proj {s t : State} (h : OnlyFault s t) {α : Type} (f : State → α) : f { t with
    regs := s.regs, events := s.events, fltLog := s.fltLog, letters := s.letters, msix := s.msix, trace := s.trace, fault := s.fault } = f s :=
  congrArg f h

/-- The registers of PA are not among those that the other polders lose. -/
theorem paRegisters_kept : ∀ off ∈ [Reg.POL_STATE, Reg.POL_ERR_CNT, Reg.POL_SAVE_STAT],
    ((unitAt off).any fun u => unitPolder u != polPA) = false := by
  decide

/-- The registers that a warm reset writes once the other polders have lost theirs. -/
def State.warmRegs (s : State) : State :=
  let s := s.loseTrace
  let s := (s.setFlag Reg.FLT_STATUS_SAFE false).setFlag Reg.FLT_STATUS_READY false
  let s := (((s.setFlag Reg.FLT_ST_STAT_BUSY false).setTests []).setFlag Reg.FLT_RPL_REQ_HI_BUSY false).setFld Reg.GTC_SYNC_STATE 3
  let s := (List.range 11).foldl (fun (s : State) p => if p = polPA then s else s.setReg (Reg.POL_CLK + 4 * p) 0) s
  let s := (s.setFld Reg.POL_PAD_HELD 0x7FE).setReg Reg.POL_CORE_RST 1
  let s := ((s.setFld Reg.POL_MODE_CUR 0).setFld Reg.POL_MODE_TARGET 0).setFlag Reg.POL_MODE_BUSY false
  let s := s.setFlag Reg.POL_SAVE_STAT_VALID false
  s.setFlag Reg.SEC_ACT_STAT_ARMED false

section
variable (s : State)

theorem State.warmRegs_onlyFault : OnlyFault s s.warmRegs := by
  unfold State.warmRegs
  extract_lets s2 s3 s4 s5 s6 s7 s8
  have h3 : OnlyLogs s s3 := (OnlyLogs.ofTrace s _).trans ((s2.setFlag_onlyLogs _ _).trans (State.setFlag_onlyLogs _ _ _))
  clear_value s3
  have htests (u : State) : OnlyFault u (u.setTests []) := rfl
  have h4 : OnlyFault s3 s4 := ((s3.setFlag_onlyLogs _ _).onlyFault.trans (htests _)).trans
    ((State.setFlag_onlyLogs _ _ _).trans (State.setFld_onlyLogs _ _ _)).onlyFault
  have h5 : OnlyLogs s4 s5 := List.foldlRecOn (motive := OnlyLogs s4) _ _ (OnlyLogs.refl s4) fun t ht p _ =>
    ht.trans (OnlyLogs.ite (OnlyLogs.refl t) (t.setReg_onlyLogs _ _))
  clear_value s5
  have h6 : OnlyLogs s5 s6 := (s5.setFld_onlyLogs _ _).trans (State.setReg_onlyLogs _ _ _)
  have h7 : OnlyLogs s6 s7 := ((s6.setFld_onlyLogs _ _).trans (State.setFld_onlyLogs _ _ _)).trans (State.setFlag_onlyLogs _ _ _)
  have h9 : OnlyLogs s7 (s8.setFlag Reg.SEC_ACT_STAT_ARMED false) := (s7.setFlag_onlyLogs _ _).trans (State.setFlag_onlyLogs _ _ _)
  exact (h3.onlyFault.trans h4).trans (((h5.trans h6).trans h7).trans h9).onlyFault

/-- Each register that stands after a warm reset as it was written, and those that are not written. -/
theorem State.warmRegs_reg : s.warmRegs.reg Reg.POL_STATE = s.reg Reg.POL_STATE ∧ s.warmRegs.reg Reg.POL_ERR_CNT = s.reg Reg.POL_ERR_CNT ∧
    s.warmRegs.flag Reg.FLT_STATUS_SAFE = false ∧
    s.warmRegs.reg Reg.POL_CORE_RST = 1 ∧ s.warmRegs.flag Reg.POL_SAVE_STAT_CRC_FAIL = s.flag Reg.POL_SAVE_STAT_CRC_FAIL := by
  unfold State.warmRegs
  extract_lets s2 s3 s4 s5 s6 s7 s8
  have r3 : RegsBut [Reg.FLT_STATUS] s s3 := (RegsBut.setFlag _ _ (by decide)).trans (RegsBut.setFlag _ _ (by decide))
  have hsafe : s3.flag Reg.FLT_STATUS_SAFE = false :=
    (State.flag_setFld_of_disjoint _ _ _ _ (by decide) (by decide)).trans (State.flag_setFlag_self _ _ _ rfl (by decide))
  clear_value s3
  have r4 : RegsBut [Reg.GTC_SYNC, Reg.FLT_RPL_REQ_HI, Reg.FLT_ST_STAT] s3 s4 :=
    (((RegsBut.setFlag _ _ (by decide)).trans (RegsBut.setFld _ _ (by decide))).trans (RegsBut.setFlag _ _ (by decide))).trans
      (RegsBut.setFld _ _ (by decide))
  clear_value s4
  have r5 : RegsBut ((List.range 11).map (Reg.POL_CLK + 4 * ·)) s4 s5 := RegsBut.foldl (fun t p hp =>
    RegsBut.ite (RegsBut.refl _ t) (RegsBut.setReg t _ (List.mem_map_of_mem hp))) s4
  clear_value s5
  have r6 : RegsBut [Reg.POL_PAD, Reg.POL_CORE_RST] s5 s6 := (RegsBut.setFld _ _ (by decide)).trans (RegsBut.setReg _ _ (by decide))
  have hrst : s6.reg Reg.POL_CORE_RST = 1 := State.reg_setReg_self _ _ _
  clear_value s6
  have r7 : RegsBut [Reg.POL_MODE] s6 s7 :=
    ((RegsBut.setFld _ _ (by decide)).trans (RegsBut.setFld _ _ (by decide))).trans (RegsBut.setFlag _ _ (by decide))
  clear_value s7
  have r8 : RegsBut [Reg.POL_SAVE_STAT] s7 s8 := RegsBut.setFlag _ _ (by decide)
  have hcrc : s8.flag Reg.POL_SAVE_STAT_CRC_FAIL = s7.flag Reg.POL_SAVE_STAT_CRC_FAIL :=
    State.flag_setFld_of_disjoint _ _ _ _ (by decide) (by decide)
  clear_value s8
  have r9 : RegsBut [Reg.SEC_ACT_STAT] s8 (s8.setFlag Reg.SEC_ACT_STAT_ARMED false) := RegsBut.setFlag _ _ (by decide)
  generalize s8.setFlag Reg.SEC_ACT_STAT_ARMED false = s9 at r9 ⊢
  refine ⟨?_, ?_, ?_, ?_, ?_⟩
  · rw [r9 _ (by decide), r8 _ (by decide), r7 _ (by decide), r6 _ (by decide), r5 _ (by decide), r4 _ (by decide), r3 _ (by decide)]
  · rw [r9 _ (by decide), r8 _ (by decide), r7 _ (by decide), r6 _ (by decide), r5 _ (by decide), r4 _ (by decide), r3 _ (by decide)]
  · rw [r9.flag (by decide), r8.flag (by decide), r7.flag (by decide), r6.flag (by decide), r5.flag (by decide), r4.flag (by decide), hsafe]
  · rw [r9 _ (by decide), r8 _ (by decide), r7 _ (by decide), hrst]
  · rw [r9.flag (by decide), hcrc, r7.flag (by decide), r6.flag (by decide), r5.flag (by decide), r4.flag (by decide), r3.flag (by decide)]

/-- What the other polders lose, before the registers of PA are written. -/
theorem State.warmClear_eq : ∃ v : State, s.warmClear = v.warmRegs ∧
    v.cores = Vector.replicate 16 Core.reset ∧ v.rings = [] ∧ v.taken = [] ∧
    v.recipes = [] ∧ v.dram = [] ∧ v.gtc = s.gtc ∧ v.flash.nand = s.flash.nand ∧ v.bootFlash = s.bootFlash ∧
    v.power.phase = s.power.phase ∧ ∀ off, v.reg off = (s.clearUnitsOf (fun p => p != polPA)).reg off :=
  ⟨_, rfl, rfl, rfl, rfl, rfl, rfl, rfl, rfl, rfl, rfl, fun _ => rfl⟩

theorem State.warmClear_warm : WarmReset s s.warmClear ∧ s.warmClear.power.phase = s.power.phase ∧
    ∀ p, s.warmClear.polder p = s.polder p := by
  obtain ⟨v, heq, hcores, hrings, htaken, hrecipes, hdram, hgtc, hnand, hboot, hphase, hreg⟩ := s.warmClear_eq
  obtain ⟨hstate, herr, hsafe, hrst, hcrc⟩ := v.warmRegs_reg
  have hkeep {off : Nat} (h : off ∈ [Reg.POL_STATE, Reg.POL_ERR_CNT, Reg.POL_SAVE_STAT]) : v.reg off = s.reg off :=
    (hreg off).trans (s.clearUnitsOf_reg _ (paRegisters_kept off h))
  have hall := v.warmRegs_onlyFault
  rw [heq]
  generalize v.warmRegs = t at *
  refine ⟨⟨(hall.proj State.cores).trans hcores, (hall.proj State.rings).trans hrings, (hall.proj State.taken).trans htaken,
    (hall.proj State.recipes).trans hrecipes, (hall.proj State.dram).trans hdram, (hall.proj State.gtc).trans hgtc,
    (hall.proj (fun u => u.flash.nand)).trans hnand, (hall.proj State.bootFlash).trans hboot, hsafe, hrst,
    hcrc.trans (congrArg (bitAt · _) (hkeep (by decide))), herr.trans (hkeep (by decide))⟩,
    (hall.proj (fun u => u.power.phase)).trans hphase, fun p => ?_⟩
  exact State.polder_of_reg (hstate.trans (hkeep (by decide))) p

end

/-! ## The end of a ladder: the polders are released and the loader starts (R489, R503) -/

/-- The registers that a release with its cause, DDR5 training and the loader write. -/
def startRegisters : List Nat := Reg.POL_WAKE :: Reg.MEM_CHAN_STAT :: (releaseRegisters ++ loaderRegisters)

/-- What the release of the polders with cause `c`, with training and the loader after it, leaves. -/
structure Started (s t : State) (c : Nat) : Prop where
  proj : ∀ {α : Type} (f : State → α), f { t with
    regs := s.regs, events := s.events, fltLog := s.fltLog, letters := s.letters, msix := s.msix, trace := s.trace
    power := s.power, sec := s.sec, dramSize := s.dramSize } = f s
  phase : t.power.phase = .on
  regs : RegsBut startRegisters s t
  cause : t.fld Reg.POL_WAKE_CAUSE = c
  polder : ∀ p, p ≤ 10 → t.polder p = 3

/-- The state in which the loader starts. -/
def State.released (s : State) (c : Nat) : State := s.releasePolders.setFld Reg.POL_WAKE_CAUSE c

section
variable (s : State) {c : Nat} (hc : c < 16)

theorem State.released_onlyPower (c : Nat) : OnlyPower s (s.released c) := s.releasePolders_onlyPower.trans (State.setFld_onlyLogs _ _ _).onlyPower

theorem State.released_phase (c : Nat) : (s.released c).power.phase = .on := congrArg Power.phase s.releasePolders_power

theorem State.released_regsBut (c : Nat) : RegsBut (Reg.POL_WAKE :: releaseRegisters) s (s.released c) :=
  (s.releasePolders_regsBut.mono (List.subset_cons_self _ _)).trans (RegsBut.setFld _ _ List.mem_cons_self)

theorem State.released_polder (c : Nat) {p : Nat} (hp : p ≤ 10) : (s.released c).polder p = 3 :=
  (State.polder_of_reg ((State.reg_setFld _ _ _ _).trans (if_neg (by decide))) p).trans (s.releasePolders_polder hp)

include hc in
theorem State.released_cause : (s.released c).fld Reg.POL_WAKE_CAUSE = c :=
  (State.fld_setFld_self _ _ _ (by decide)).trans (Nat.mod_eq_of_lt hc)

end

/-- What training and the loader touch. -/
structure Starts (s t : State) : Prop where
  only : OnlyLogs s { t with sec := s.sec, dramSize := s.dramSize }
  regs : RegsBut (Reg.MEM_CHAN_STAT :: loaderRegisters) s t

theorem Starts.trans {s t u : State} (h : Starts s t) (g : Starts t u) : Starts s u where
  only := by
    have hst := h.only
    have htu := g.only
    unfold OnlyLogs at *
    rw [← hst, ← htu]
  regs := h.regs.trans g.regs

theorem Loads.starts {s t : State} (h : Loads s t) : Starts s t where
  only := by
    have hst := h.only
    unfold OnlyLogs at *
    rw [← hst]
  regs := h.regs.mono (List.subset_cons_self _ _)

theorem State.trainDram_starts (s : State) (chans : List (BitVec 2)) (dram : Nat) : Starts s (s.trainDram chans dram) :=
  ⟨rfl, RegsBut.setReg s _ List.mem_cons_self⟩

theorem Starts.started {s t : State} {c : Nat} (h : Starts (s.released c) t) (hc : c < 16) : Started s t c where
  proj f := by
    have hrel := s.released_onlyPower c
    have hst := h.only
    unfold OnlyPower at hrel
    unfold OnlyLogs at *
    rw [← hrel, ← hst]
  phase := (congrArg Power.phase (OnlyLogs.power h.only)).trans (s.released_phase c)
  regs := ((s.released_regsBut c).mono (by decide)).trans (h.regs.mono (by decide))
  cause := (h.regs.fld (by decide)).trans (s.released_cause hc)
  polder p hp := (h.regs.polder (by decide) p).trans (s.released_polder c hp)

/-! ## The warm reset (R488, R503) -/

theorem State.finishWarm_started (s : State) : Started s (s.finishWarm true) 4 :=
  (State.startLoader_loads _ true).starts.started (by decide)

/-- The loader at the end of a warm reset leaves what the reset cleared. -/
theorem WarmReset.finish {s w : State} (h : WarmReset s w) : WarmReset s (w.finishWarm true) := by
  have g := w.finishWarm_started
  generalize w.finishWarm true = t at g
  exact ⟨(g.proj State.cores).trans h.cores, (g.proj State.rings).trans h.rings, (g.proj State.taken).trans h.taken,
    (g.proj State.recipes).trans h.recipes, (g.proj State.dram).trans h.dram, (g.proj State.gtc).trans h.gtc,
    (g.proj (fun u => u.flash.nand)).trans h.nand, (g.proj State.bootFlash).trans h.bootFlash, (g.regs.flag (by decide)).trans h.safe,
    (g.regs _ (by decide)).trans h.coreRst, (g.regs.flag (by decide)).trans h.crcFail, (g.regs _ (by decide)).trans h.errCnt⟩

/-- A ladder before the end of a warm reset touches the power state alone. -/
theorem WarmReset.beginLadder {s w : State} (h : WarmReset s w) (kind : LadderKind) (pick : Nat → Bool) : WarmReset s (w.beginLadder kind pick) :=
  ⟨h.cores, h.rings, h.taken, h.recipes, h.dram, h.gtc, h.nand, h.bootFlash, h.safe, h.coreRst, h.crcFail, h.errCnt⟩

section
variable (s : State)

/-- A warm reset of a module with every polder powered. -/
theorem State.warmReset_powered (h : ∀ p, p ≤ 10 → s.polder p ≠ 0) : s.warmReset true = s.warmClear.finishWarm true := by
  unfold State.warmReset
  refine if_neg fun hany => ?_
  obtain ⟨p, hp, hzero⟩ := List.any_eq_true.1 hany
  rw [s.warmClear_warm.2.2, beq_iff_eq] at hzero
  exact h p (Nat.le_of_lt_succ (List.mem_range.1 hp)) hzero

theorem State.warmReset_gated (h : ∃ p, p ≤ 10 ∧ s.polder p = 0) : s.warmReset true = s.warmClear.beginLadder .warm (fun _ => true) := by
  obtain ⟨p, hp, hzero⟩ := h
  unfold State.warmReset
  refine if_pos (List.any_eq_true.2 ⟨p, List.mem_range.2 (by omega), ?_⟩)
  rw [s.warmClear_warm.2.2, hzero]
  rfl

/-- What a warm reset leaves, whether a ladder comes first or not. -/
theorem State.warmReset_warm : WarmReset s (s.warmReset true) := by
  unfold State.warmReset
  dsimp only
  split
  · exact s.warmClear_warm.1.beginLadder _ _
  · exact s.warmClear_warm.1.finish

end

/-! ## Cold start (R480, R489, R505, R521, R526) -/

/-- What a cold start leaves of a state. -/
structure ColdStart (s t : State) : Prop where
  phase : t.power.phase = .cold
  gtc : t.gtc = 0
  regs : t.regs = []
  cores : t.cores = Vector.replicate 16 Core.reset
  rings : t.rings = []
  taken : t.taken = []
  dram : t.dram = []
  nand : t.flash.nand = s.flash.nand
  anchor : t.ftl.anchor = s.ftl.anchor
  bootFlash : t.bootFlash = s.bootFlash
  mem : t.host.mem = s.host.mem
  pending : t.pending = s.pending

theorem State.coldReset_coldStart (s : State) : ColdStart s s.coldReset := ⟨rfl, rfl, rfl, rfl, rfl, rfl, rfl, rfl, rfl, rfl, rfl, rfl⟩

theorem ColdStart.outcome {s t : State} (h : ColdStart s t) {o : Host.Outcome State Fault Refusal} (ho : o = .next t) : ∃ t, o = .next t ∧
    t.power.phase = .cold ∧ t.gtc = 0 ∧ t.regs = [] ∧ t.cores = Vector.replicate 16 Core.reset ∧ t.rings = [] ∧ t.taken = [] ∧
    t.dram = [] ∧ t.flash.nand = s.flash.nand ∧ t.ftl.anchor = s.ftl.anchor ∧ t.bootFlash = s.bootFlash ∧ t.host.mem = s.host.mem ∧
    t.pending = s.pending :=
  ⟨t, ho, h.phase, h.gtc, h.regs, h.cores, h.rings, h.taken, h.dram, h.nand, h.anchor, h.bootFlash, h.mem, h.pending⟩

section
variable {s : State} {chans : List (BitVec 2)} {dram : Nat} {eeprom : Bool}

/-- After the stagger the ladder begins over the polders that are gated. -/
theorem execColdStart_begins (loader : Bool) (hphase : s.power.phase = .cold)
    (hstagger : s.fld Reg.POL_STAGGER_SLOT * s.fld Reg.POL_STAGGER_STEP_US * 1000 ≤ s.gtc.toNat) :
    ∃ t, exec (.coldStart chans dram eeprom loader) s = .next t ∧ t.power.phase = .ladder .cold ∧
      t.power.ladder = ⟨ladderOrder.filter (fun p => s.polder p == 0), [], s.gtc, false⟩ ∧ t.dram = s.dram ∧ t.cores = s.cores := by
  have hexec : exec (.coldStart chans dram eeprom loader) s = .next ((s.attestStart.showSec).beginLadder .cold (fun _ => true)) := by
    change execColdStart chans dram eeprom loader s = _
    unfold execColdStart
    rw [hphase]
    exact congrArg _ (if_pos hstagger)
  have hload := (s.setSec_loads s.attestStart.sec).trans (State.showSec_loads (s.setSec s.attestStart.sec))
  have heq : s.attestStart = s.setSec s.attestStart.sec := rfl
  rw [heq] at hexec
  generalize (s.setSec s.attestStart.sec).showSec = u at hload hexec
  have hpol : (fun p => true && u.polder p == 0) = fun p => s.polder p == 0 := by
    funext p
    rw [hload.regs.polder (by decide), Bool.true_and]
  have hgtc : u.gtc = s.gtc := hload.proj State.gtc
  refine ⟨_, hexec, rfl, ?_, hload.proj State.dram, hload.proj State.cores⟩
  change (⟨ladderOrder.filter (fun p => true && u.polder p == 0), [], u.gtc, false⟩ : Ladder) = _
  rw [hpol, hgtc]

theorem State.showSec_fwState (s : State) : s.showSec.reg Reg.SEC_FW_STATE = s.reg Reg.SEC_FW_STATE := by
  unfold State.showSec
  dsimp only
  rw [State.reg_setFld, if_neg (by decide), State.reg_setReg, if_neg (by decide), State.reg_setReg, if_neg (by decide), State.reg_setReg,
    if_neg (by decide), State.reg_setReg, if_neg (by decide), State.reg_setReg, if_neg (by decide)]

theorem State.enterLoaderOnly_shows (s : State) {reason : Nat} (h : reason < 256) : (s.enterLoaderOnly reason).sec.image = none ∧
    (s.enterLoaderOnly reason).fld Reg.SEC_FW_STATE_STATE = 1 ∧ (s.enterLoaderOnly reason).fld Reg.SEC_FW_STATE_REASON = reason := by
  have hreg : (s.enterLoaderOnly reason).reg Reg.SEC_FW_STATE = BitVec.ofNat 32 (2 ^ 29 + reason) :=
    (State.showSec_fwState _).trans (State.reg_setReg_self _ _ _)
  refine ⟨rfl, ?_, ?_⟩
  · refine (congrArg (natAt · 29 3) hreg).trans ?_
    unfold natAt
    rw [BitVec.toNat_ofNat, Nat.shiftRight_eq_div_pow]
    omega
  · refine (congrArg (natAt · 0 8) hreg).trans ?_
    unfold natAt
    rw [BitVec.toNat_ofNat, Nat.shiftRight_eq_div_pow]
    omega

/-- No channel in use, no DRAM. -/
theorem State.trainDram_none (s : State) {chans : List (BitVec 2)} (dram : Nat)
    (h : ∀ b ∈ chans.take (Config.ddrChannels s.part.variant), b ≠ 1 ∧ b ≠ 2) : (s.trainDram chans dram).dramSize = 0 := by
  unfold State.trainDram
  refine if_neg fun hany => ?_
  obtain ⟨⟨b, i⟩, hb, hused⟩ := List.any_eq_true.1 hany
  obtain ⟨h1, h2⟩ := h b (List.fst_mem_of_mem_zipIdx hb)
  rw [Bool.or_eq_true, beq_iff_eq, beq_iff_eq] at hused
  exact hused.elim h1 h2

/-- The end of the cold ladder: every polder is ON, and the loader starts after training. -/
theorem execColdStart_ends (hphase : s.power.phase = .ladder .cold) (hdone : s.ladderDone 10000 = true) :
    ∃ t, exec (.coldStart chans dram eeprom true) s = .next t ∧ t.power.phase = .on ∧ (∀ p, p ≤ 10 → t.polder p = 3) ∧
      t.cores = s.cores ∧ t.dram = s.dram ∧ t.reg Reg.POL_CORE_RST = s.reg Reg.POL_CORE_RST ∧
      ((∀ b ∈ chans.take (Config.ddrChannels s.part.variant), b ≠ 1 ∧ b ≠ 2) → t.dramSize = 0) ∧
      (eeprom = false → t.sec.image = none ∧ t.fld Reg.SEC_FW_STATE_STATE = 1 ∧ t.fld Reg.SEC_FW_STATE_REASON = 8) := by
  have hexec : exec (.coldStart chans dram eeprom true) s = .next (((s.released 0).trainDram chans dram).startLoader eeprom true) := by
    change execColdStart chans dram eeprom true s = _
    unfold execColdStart
    rw [hphase]
    exact congrArg _ (if_pos hdone)
  have hload := State.startLoader_loads ((s.released 0).trainDram chans dram) eeprom
  have hst : Started s _ 0 := (((s.released 0).trainDram_starts chans dram).trans hload.starts).started (by decide)
  refine ⟨_, hexec, hst.phase, hst.polder, hst.proj State.cores, hst.proj State.dram, hst.regs _ (by decide), fun hnone => ?_, fun he => ?_⟩
  · have hpart : (s.released 0).part = s.part := OnlyLogs.proj (s.released_onlyPower 0) State.part
    exact (hload.proj State.dramSize).trans ((s.released 0).trainDram_none dram (by rwa [hpart]))
  · subst he
    exact State.enterLoaderOnly_shows _ (by decide)

/-! ## The ladder (R500, R501) -/

theorem ladderOrder_le {p : Nat} (h : p ∈ ladderOrder) : p ≤ 10 := by
  revert p
  decide

variable {k : LadderKind} {p : Nat} {rest : List Nat} (hphase : s.power.phase = .ladder k) (hleft : s.power.ladder.left = p :: rest)
  (hspaced : s.ladderSpaced = true)
include hphase hleft hspaced

theorem execLadderStep_powers (hp : p ≤ 10) (hload : s.ladderLoad p ≤ max 11 (s.fld Reg.POL_LADDER_BUDGET_W)) :
    ∃ t, exec .ladderStep s = .next t ∧ t.polder p = 1 ∧ t.power.ladder.left = rest ∧
      t.power.ladder.begun = (p, s.gtc) :: s.power.ladder.begun ∧ (∀ q, q ≤ 10 → q ≠ p → t.polder q = s.polder q) ∧
      { t with power := s.power, regs := s.regs } = s := by
  have hexec : exec .ladderStep s = .next ((s.setPower { s.power with ladder := { s.power.ladder with
      left := rest, begun := (p, s.gtc) :: s.power.ladder.begun, delayed := false } }).setPolder p 1) := by
    change execLadderStep s = _
    unfold execLadderStep
    dsimp only
    rw [hphase, hleft]
    dsimp only
    rw [hspaced, if_neg (by decide), if_neg (by omega)]
  exact ⟨_, hexec, (State.polder_setPolder _ 1 hp p).trans (if_pos rfl), rfl, rfl,
    fun q _ hq => (State.polder_setPolder _ 1 hp q).trans (if_neg hq), rfl⟩

theorem execLadderStep_delays (hload : max 11 (s.fld Reg.POL_LADDER_BUDGET_W) < s.ladderLoad p) (hnew : s.power.ladder.delayed = false) :
    ∃ t, exec .ladderStep s = .next t ∧ t.power.ladder.left = p :: rest ∧ t.power.ladder.delayed = true ∧ t.polder p = s.polder p ∧
      (t.counter unitPOL 4).count = (s.counter unitPOL 4).count + 1 ∧ t.dram = s.dram ∧ t.cores = s.cores := by
  have hexec : exec .ladderStep s = .next
      ((s.setPower { s.power with ladder := { s.power.ladder with delayed := true } }).count unitPOL 4 1) := by
    change execLadderStep s = _
    unfold execLadderStep
    dsimp only
    rw [hphase, hleft]
    dsimp only
    rw [hspaced, if_neg (by decide), if_pos hload, hnew]
    rfl
  have h := State.count_onlyLogs (s.setPower { s.power with ladder := { s.power.ladder with delayed := true } }) unitPOL 4 1
  refine ⟨_, hexec, (congrArg (fun x : Power => x.ladder.left) h.power).trans hleft, congrArg (fun x : Power => x.ladder.delayed) h.power, ?_,
    State.count_counter _ 1 (by decide), h.dram, h.cores⟩
  exact State.polder_of_reg (State.count_reg _ (by decide) _ _ _) p

end

/-! ## The warm reset as a command (R488, R503) -/

section
variable {w : Writer} {value : Word32} {s : State}

theorem execWarmReset_resets (hkey : natAt value 16 16 = 0xA5C3) (hkind : natAt value 0 2 = 1) (hmay : s.mayReset w = true)
    (hresets : s.power.phase.resets = true) (hnot : s.power.phase ≠ .ladder .warm) :
    exec (.warmReset w value true) s = .next (s.warmReset true) := by
  have hwrite : s.writeWarm w value true = s.warmReset true := if_pos ⟨hkey, hkind, hmay, hresets⟩
  have hexec : exec (.warmReset w value true) s = .next (s.writeWarm w value true) := congrArg _ (if_neg fun h => hnot h.1)
  rw [hexec, hwrite]

theorem execWarmReset_ends (hphase : s.power.phase = .ladder .warm) (hdone : s.ladderDone 10000 = true) :
    exec (.warmReset w value true) s = .next (s.finishWarm true) := by
  change execWarmReset w value true s = _
  unfold execWarmReset
  rw [if_pos (And.intro hphase hdone)]

end

/-! ## The reset of one polder (R488) -/

section
variable (s : State)

/-- What the end of descriptors leaves of the rest. -/
structure Aborts (s t : State) : Prop where
  gtc : t.gtc = s.gtc
  power : t.power = s.power
  flash : t.flash = s.flash

theorem Aborts.trans {s t u : State} (h : Aborts s t) (g : Aborts t u) : Aborts s u :=
  ⟨g.gtc.trans h.gtc, g.power.trans h.power, g.flash.trans h.flash⟩

theorem OnlyLogs.aborts {s t : State} (h : OnlyLogs s t) : Aborts s t := ⟨h.gtc, h.power, h.flash⟩

theorem State.completeTaken_aborts (x : Taken) (r : Result) : Aborts s (s.completeTaken x r) := by
  unfold State.completeTaken
  extract_lets a s1 k s2 s3 rg bad s4
  have h1 : Aborts s s1 := by
    unfold s1
    split
    · exact Aborts.trans (t := s.writeDram a _) ⟨rfl, rfl, rfl⟩ (State.engineAccess_onlyLogs _ _ _ _ _).aborts
    · exact ⟨rfl, rfl, rfl⟩
  have h4 : Aborts s1 s4 := ⟨rfl, rfl, rfl⟩
  split
  · exact (h1.trans h4).trans (s4.emit_onlyLogs _ _ _ _).aborts
  · exact h1.trans h4

/-- One descriptor that is aborted ends as any other does. -/
theorem State.abortOne_frame (x : Taken) :
    let t := match x.result with
      | some r => s.completeTaken x r
      | none => s.endTaken x stABORTED true
    Aborts s t ∧ t.taken = s.taken.filter (fun y => !(y.core == x.core && y.ticket == x.ticket)) := by
  dsimp only
  split
  · exact ⟨s.completeTaken_aborts _ _, (s.completeTaken_frame _ _).2.2⟩
  · exact ⟨s.completeTaken_aborts _ _, (s.completeTaken_frame _ _).2.2⟩

/-- Aborted descriptors are gone, and no other comes. -/
theorem State.abortTaken_frame (pick : Taken → Bool) : Aborts s (s.abortTaken pick) ∧ ∀ x ∈ (s.abortTaken pick).taken, pick x = false := by
  unfold State.abortTaken
  extract_lets mine named s1
  have h (l : List Taken) (u : State) : Aborts u (l.foldl (fun (s : State) x =>
      match x.result with
      | some r => s.completeTaken x r
      | none => s.endTaken x stABORTED true) u) ∧ ∀ y ∈ (l.foldl (fun (s : State) x =>
      match x.result with
      | some r => s.completeTaken x r
      | none => s.endTaken x stABORTED true) u).taken, y ∈ u.taken ∧ y ∉ l := by
    induction l generalizing u with
    | nil => exact ⟨⟨rfl, rfl, rfl⟩, fun y hy => ⟨hy, List.not_mem_nil⟩⟩
    | cons x l ih =>
      obtain ⟨hfr, htk⟩ := u.abortOne_frame x
      obtain ⟨hfr', htk'⟩ := ih _
      refine ⟨hfr.trans hfr', fun y hy => ?_⟩
      obtain ⟨hmem, hnot⟩ := htk' y hy
      rw [htk, List.mem_filter] at hmem
      refine ⟨hmem.1, fun hyl => ?_⟩
      rcases List.mem_cons.1 hyl with rfl | hyl
      · simp at hmem
      · exact hnot hyl
  obtain ⟨hfr, htk⟩ := h mine s
  refine ⟨⟨hfr.gtc, hfr.power, hfr.flash⟩, fun x hx => ?_⟩
  obtain ⟨hmem, hnot⟩ := htk x hx
  by_contra hpick
  exact hnot (List.mem_filter.2 ⟨hmem, by simpa using hpick⟩)

end

/-! ## The counters of a polder's units (R488) -/

theorem State.marker_eventsKept (s : State) (typ polder kind : Nat) : EventsKept s (s.marker typ polder kind) := by
  unfold State.marker
  extract_lets r
  exact EventsKept.ite (s.traceWrite_eventsKept r) (EventsKept.ite (.of_events rfl) (.of_events rfl))

/-- Every counter of unit `u` is 0. -/
def State.countersClear (s : State) (u : Nat) : Prop := ∀ k, k < 16 → s.counter u k = Counter.zero

theorem eventKey_div (u : Nat) {k : Nat} (h : k < 16) : eventKey u k / 16 = u := by
  unfold eventKey
  omega

theorem Table.at_filter {α : Type} (d : α) (t : Table α) (p : Nat → Bool) (k : Nat) :
    Table.at d (t.filter (fun e => p e.1)) k = if p k then Table.at d t k else d := by
  unfold Table.at
  rw [Table.find_filter]
  split <;> rfl

section
variable (s : State)

theorem State.clearCounters_events (u : Nat) : (s.clearCounters u).events = s.events.filter (fun e => e.1 / 16 != u) := by
  have h : ((errCountersOf u).foldl (fun (s : State) o => s.setReg o 0) s).events = s.events :=
    List.foldlRecOn (motive := fun t : State => t.events = s.events) _ _ rfl fun t ht _ _ => ht
  exact congrArg (List.filter _) h

theorem State.clearCounters_clears (u : Nat) : (s.clearCounters u).countersClear u := by
  intro k hk
  unfold State.counter
  rw [s.clearCounters_events, Table.at_filter _ _ (fun o => o / 16 != u), if_neg (by simp [eventKey_div u hk])]

theorem State.clearCounters_keeps {u : Nat} (v : Nat) (h : s.countersClear u) : (s.clearCounters v).countersClear u := by
  intro k hk
  have hz := h k hk
  unfold State.counter at hz ⊢
  rw [s.clearCounters_events, Table.at_filter _ _ (fun o => o / 16 != v), hz, ite_self]

theorem State.clearCounters_onlyLogs (u : Nat) : OnlyLogs s (s.clearCounters u) := by
  have h : OnlyLogs s ((errCountersOf u).foldl (fun (s : State) o => s.setReg o 0) s) :=
    List.foldlRecOn (motive := OnlyLogs s) _ _ (OnlyLogs.refl s) fun t ht _ _ => ht.trans (t.setReg_onlyLogs _ _)
  exact h.trans rfl

/-- The counters of the units of polder `p` return to 0. -/
def State.clearPolder (s : State) (p : Nat) : State :=
  (List.range 24).foldl (fun (s : State) u => if unitPolder u = p then s.clearCounters u else s) s

theorem State.clearPolder_onlyLogs (p : Nat) : OnlyLogs s (s.clearPolder p) :=
  List.foldlRecOn (motive := OnlyLogs s) _ _ (OnlyLogs.refl s) fun t ht _ _ =>
    ht.trans (OnlyLogs.ite (t.clearCounters_onlyLogs _) (OnlyLogs.refl t))

theorem State.clearPolder_clears {p u : Nat} (hu : u < 24) (hp : unitPolder u = p) : (s.clearPolder p).countersClear u := by
  unfold State.clearPolder
  refine foldl_once (I := fun _ => True) (P := fun t => t.countersClear u) (fun _ _ _ _ => trivial) ?_ ?_ List.nodup_range
    (List.mem_range.2 hu) trivial
  · intro t _
    rw [if_pos hp]
    exact t.clearCounters_clears u
  · intro t v _ ht
    split
    · exact t.clearCounters_keeps v ht
    · exact ht

/-- A polder reset: the descriptors end, the counters return to 0, and PG loses its registers and the trace. -/
theorem State.resetPolder_eq {p : Nat} (hstop : stoppable p = true) (hpow : 2 ≤ s.polder p) : s.resetPolder p =
    let t := ((s.marker 3 p 4).abortTaken (fun x => classPolder x.cls == p)).clearPolder p
    (if p = polPG then (t.clearUnitsOf (fun q => q == polPG)).loseTrace else t).marker 4 p 4 := by
  unfold State.resetPolder
  rw [hstop, decide_eq_false (by omega : ¬ s.polder p = 0), decide_eq_false (by omega : ¬ s.polder p = 1)]
  rfl

end

/-- Without capture nothing is stored. -/
theorem State.traceStore_of_captureOff {s : State} (hfrozen : s.flag Reg.DBG_STAT_FROZEN = false) (hcap : s.flag Reg.DBG_CTL_CAPTURE = false)
    (r : TraceRec) : s.traceStore r = s := by
  unfold State.traceStore
  rw [hfrozen, hcap]
  rfl

/-- PG has no capture after its reset, so that the markers that follow count nothing. -/
theorem State.marker_events_of_captureOff {s : State} (hfrozen : s.flag Reg.DBG_STAT_FROZEN = false)
    (hcap : s.flag Reg.DBG_CTL_CAPTURE = false) (typ polder kind : Nat) : (s.marker typ polder kind).events = s.events := by
  have hwrite (r : TraceRec) : (s.traceWrite r).events = s.events := by
    unfold State.traceWrite
    split
    · rw [State.traceStore_of_captureOff hfrozen hcap]
    next g _ =>
      have hf : (State.errAdd { s with trace := { s.trace with lostAt := none } } Reg.DBG_ERR_CNT_GAPS 1).flag Reg.DBG_STAT_FROZEN = false :=
        (State.flag_setFld_of_disjoint _ _ _ _ (by decide) (by decide)).trans hfrozen
      have hc : (State.errAdd { s with trace := { s.trace with lostAt := none } } Reg.DBG_ERR_CNT_GAPS 1).flag Reg.DBG_CTL_CAPTURE = false :=
        (State.flag_setFld_of_disjoint _ _ _ _ (by decide) (by decide)).trans hcap
      rw [State.traceStore_of_captureOff hf hc, State.traceStore_of_captureOff hf hc]
      rfl
  unfold State.marker
  dsimp only
  split
  · exact hwrite _
  · split
    · rfl
    · rfl

/-- The registers of PG after its units are cleared stand at their reset values. -/
theorem State.clearUnitsOf_reset (s : State) (pick : Nat → Bool) {off : Nat} (h : ((unitAt off).any fun u => pick (unitPolder u)) = true) :
    (s.clearUnitsOf pick).reg off = resetWord s.part off := by
  have hfind := Table.at_filter (resetWord s.part off) s.regs (fun o => !((unitAt o).any fun u => pick (unitPolder u))) off
  rw [h] at hfind
  exact hfind

theorem resetWord_trace (p : Part) :
    bitAt (resetWord p Reg.DBG_STAT_FROZEN.off) 29 = false ∧ bitAt (resetWord p Reg.DBG_CTL_CAPTURE.off) 30 = false := by
  have hstat : partReset p Reg.DBG_STAT_FROZEN.off = none := rfl
  have hctl : partReset p Reg.DBG_CTL_CAPTURE.off = none := rfl
  unfold resetWord
  rw [hstat, hctl]
  decide

/-- A counter stays clear where the events are only thinned out. -/
theorem State.countersClear_of_filter {s t : State} {u : Nat} (h : s.countersClear u) {p : Nat → Bool}
    (ht : t.events = s.events.filter (fun e => p e.1)) : t.countersClear u := by
  intro k hk
  have hz := h k hk
  unfold State.counter at hz ⊢
  rw [ht, Table.at_filter _ _ p, hz, ite_self]

/-- A unit of a polder that a reset may reach is neither the fault unit nor, but for PG, the trace unit. -/
theorem eventKey_notMem_logEvents {u k : Nat} (hk : k < 16) (hstop : stoppable (unitPolder u) = true) (hpg : unitPolder u ≠ polPG) :
    eventKey u k ∉ logEvents := by
  intro h
  have hu : u = unitFLT ∨ u = unitDBG := by
    have hdiv : ∀ key ∈ logEvents, key / 16 = unitFLT ∨ key / 16 = unitDBG := by decide
    have := hdiv _ h
    rwa [eventKey_div u hk] at this
  rcases hu with rfl | rfl
  · exact absurd hstop (by decide)
  · exact hpg rfl

/-- After a polder reset the counters of its units are 0; the marker of its end counts none of them. -/
theorem State.resetPolder_clears {s : State} {p u : Nat} (hstop : stoppable p = true) (hpow : 2 ≤ s.polder p) (hu : u < 24)
    (hup : unitPolder u = p) : (s.resetPolder p).countersClear u := by
  rw [s.resetPolder_eq hstop hpow]
  extract_lets t
  have ht : t.countersClear u := State.clearPolder_clears _ hu hup
  clear_value t
  by_cases hpg : p = polPG
  case pos =>
    rw [if_pos hpg]
    have hpart : ∀ off, ((unitAt off).any fun u => unitPolder u == polPG) = true →
        (t.clearUnitsOf (fun q => q == polPG)).loseTrace.reg off = resetWord t.part off := fun off h =>
          (t.clearUnitsOf_reset (fun q => q == polPG) h :)
    have hf : (t.clearUnitsOf (fun q => q == polPG)).loseTrace.flag Reg.DBG_STAT_FROZEN = false :=
      (congrArg (bitAt · 29) (hpart _ (by decide))).trans (resetWord_trace _).1
    have hc : (t.clearUnitsOf (fun q => q == polPG)).loseTrace.flag Reg.DBG_CTL_CAPTURE = false :=
      (congrArg (bitAt · 30) (hpart _ (by decide))).trans (resetWord_trace _).2
    refine State.countersClear_of_filter ht (p := fun o => !((unitPolder (o / 16)) == polPG)) ?_
    exact State.marker_events_of_captureOff hf hc _ _ _
  case neg =>
    rw [if_neg hpg]
    intro k hk
    have hkey : eventKey u k ∉ logEvents := eventKey_notMem_logEvents hk (by rwa [hup]) (by rwa [hup])
    exact (t.marker_eventsKept 4 p 4 _ hkey).trans (ht k hk)

/-- What a polder reset ends and what it leaves. -/
theorem State.resetPolder_frame {s : State} {p : Nat} (hstop : stoppable p = true) (hpow : 2 ≤ s.polder p) :
    Aborts s (s.resetPolder p) ∧ ∀ x ∈ (s.resetPolder p).taken, classPolder x.cls ≠ p := by
  rw [s.resetPolder_eq hstop hpow]
  obtain ⟨hab, htaken⟩ := (s.marker 3 p 4).abortTaken_frame (fun x => classPolder x.cls == p)
  have hmark := (s.marker_onlyLogs 3 p 4).aborts
  generalize (s.marker 3 p 4).abortTaken _ = v at hab htaken ⊢
  have hclear := v.clearPolder_onlyLogs p
  generalize v.clearPolder p = t at hclear ⊢
  have hpg : Aborts t (if p = polPG then (t.clearUnitsOf (fun q => q == polPG)).loseTrace else t) ∧
      (if p = polPG then (t.clearUnitsOf (fun q => q == polPG)).loseTrace else t).taken = t.taken := by
    split
    · exact ⟨⟨rfl, rfl, rfl⟩, rfl⟩
    · exact ⟨⟨rfl, rfl, rfl⟩, rfl⟩
  dsimp only
  generalize (if p = polPG then (t.clearUnitsOf (fun q => q == polPG)).loseTrace else t) = w at hpg ⊢
  have hend := w.marker_onlyLogs 4 p 4
  refine ⟨(((hmark.trans hab).trans hclear.aborts).trans hpg.1).trans hend.aborts, fun x hx => ?_⟩
  rw [hend.taken, hpg.2, hclear.taken] at hx
  simpa using htaken x hx


/-! ## The resets of cores (R36, R490) -/

/-- The word of `POL_CORE_RST` by its bits. -/
theorem State.outOfReset_setRst (s : State) (c d : CoreId) (b : Bool) :
    (s.setReg Reg.POL_CORE_RST (putBit (s.reg Reg.POL_CORE_RST) c.val b)).outOfReset d = if d = c then b else s.outOfReset d := by
  unfold State.outOfReset
  rw [State.reg_setReg_self]
  split
  next h => rw [h, bitAt_putBit_self _ _ (by omega)]
  next h => exact bitAt_putBit_of_ne _ _ (by omega) fun e => h (Fin.ext e)

/-- One core's bit of a write of `POL_CORE_RST`. -/
def State.writeRstBit (s : State) (value : BitVec 16) (c : CoreId) : State :=
  if bitAt value c.val then
    (s.setPower { s.power with coreReset := putBit s.power.coreReset c.val false }).setReg Reg.POL_CORE_RST
      (putBit (s.reg Reg.POL_CORE_RST) c.val true)
  else if s.outOfReset c then s.setPower { s.power with coreReset := putBit s.power.coreReset c.val true }
  else s

theorem State.writeCoreRst_eq (s : State) (value : BitVec 16) :
    s.writeCoreRst value = ((List.finRange 16).foldl (fun t c => t.writeRstBit value c) s).settleCores := rfl

section
variable (s : State) (value : BitVec 16)

theorem State.writeRstBit_frame (c : CoreId) :
    { s.writeRstBit value c with regs := s.regs, power := { (s.writeRstBit value c).power with coreReset := s.power.coreReset } } = s := by
  unfold State.writeRstBit
  split
  · rfl
  · split
    · rfl
    · rfl

theorem State.writeRstBit_out (c d : CoreId) :
    (s.writeRstBit value c).outOfReset d = (s.outOfReset d || (decide (d = c) && bitAt value c.val)) := by
  unfold State.writeRstBit
  split
  next h =>
    refine (State.outOfReset_setRst (s.setPower _) c d true).trans ?_
    rw [h]
    by_cases hdc : d = c
    · simp [hdc]
    · simp only [hdc, decide_false, Bool.false_and, Bool.or_false]
      rfl
  next h =>
    rw [Bool.not_eq_true] at h
    rw [h, Bool.and_false, Bool.or_false]
    split
    · rfl
    · rfl

theorem State.writeRstBit_held (c : CoreId) (j : Nat) (hj : j < 16) : bitAt (s.writeRstBit value c).power.coreReset j =
    if j = c.val then (if bitAt value c.val then false else s.outOfReset c || bitAt s.power.coreReset j) else bitAt s.power.coreReset j := by
  unfold State.writeRstBit
  split
  next h =>
    split
    next e => subst e; exact bitAt_putBit_self _ _ c.isLt
    next e => exact bitAt_putBit_of_ne _ _ hj e
  next h =>
    split
    next hon =>
      split
      next e => subst e; rw [hon]; exact bitAt_putBit_self _ _ c.isLt
      next e => exact bitAt_putBit_of_ne _ _ hj e
    next hoff =>
      rw [Bool.not_eq_true] at hoff
      rw [hoff]
      simp

/-- A write of `POL_CORE_RST` before core resets settle. -/
def State.writeRstBits (s : State) (value : BitVec 16) : State := (List.finRange 16).foldl (fun t c => t.writeRstBit value c) s

theorem State.writeRstBits_frame :
    { s.writeRstBits value with regs := s.regs, power := { (s.writeRstBits value).power with coreReset := s.power.coreReset } } = s := by
  refine List.foldlRecOn (motive := fun t : State => { t with regs := s.regs, power := { t.power with coreReset := s.power.coreReset } } = s)
    _ _ rfl fun t ht c _ => ?_
  have hstep := t.writeRstBit_frame value c
  generalize t.writeRstBit value c = u at hstep ⊢
  rw [← ht, ← hstep]

theorem State.writeRstBits_cores : (s.writeRstBits value).cores = s.cores :=
  (congrArg State.cores (s.writeRstBits_frame value) :)

/-- Each core's bits after a write: let go where the value has its bit, and held where it was out of reset and has not. -/
theorem State.writeRstBits_core (c : CoreId) :
    (s.writeRstBits value).outOfReset c = (s.outOfReset c || bitAt value c.val) ∧
      bitAt (s.writeRstBits value).power.coreReset c.val =
        if bitAt value c.val then false else s.outOfReset c || bitAt s.power.coreReset c.val := by
  refine foldl_once (a := c) (I := fun t => t.outOfReset c = s.outOfReset c ∧ bitAt t.power.coreReset c.val = bitAt s.power.coreReset c.val)
    (P := fun t => t.outOfReset c = (s.outOfReset c || bitAt value c.val) ∧
      bitAt t.power.coreReset c.val = if bitAt value c.val then false else s.outOfReset c || bitAt s.power.coreReset c.val)
    ?_ ?_ ?_ (List.nodup_finRange 16) (List.mem_finRange c) ⟨rfl, rfl⟩
  · rintro t d hd ⟨hout, hheld⟩
    rw [t.writeRstBit_out, t.writeRstBit_held _ _ _ c.isLt, if_neg fun e => hd (Fin.ext e.symm), decide_eq_false (Ne.symm hd), Bool.false_and,
      Bool.or_false]
    exact ⟨hout, hheld⟩
  · rintro t ⟨hout, hheld⟩
    rw [t.writeRstBit_out, t.writeRstBit_held _ _ _ c.isLt, if_pos rfl, decide_eq_true rfl, Bool.true_and, hout, hheld]
    exact ⟨rfl, rfl⟩
  · rintro t d hd ⟨hout, hheld⟩
    rw [t.writeRstBit_out, t.writeRstBit_held _ _ _ c.isLt, if_neg fun e => hd (Fin.ext e.symm), decide_eq_false (Ne.symm hd), Bool.false_and,
      Bool.or_false]
    exact ⟨hout, hheld⟩

/-- Where one core alone may be held, it alone is reset, once it is drained. -/
theorem State.settleCores_one {s : State} {c : CoreId} (h : ∀ d : CoreId, d ≠ c → bitAt s.power.coreReset d.val = false) :
    s.settleCores = if bitAt s.power.coreReset c.val && (s.core c).drained then s.resetCore c else s := by
  have hbit (d : CoreId) (hd : d ≠ c) : bitAt (s.resetCore c).power.coreReset d.val = false :=
    (bitAt_putBit_of_ne _ _ d.isLt fun e => hd (Fin.ext e)).trans (h d hd)
  have hskip (t : State) (d : CoreId) (ht : bitAt t.power.coreReset d.val = false) :
      (if bitAt t.power.coreReset d.val && (t.core d).drained then t.resetCore d else t) = t := by
    rw [ht]
    rfl
  unfold State.settleCores
  refine foldl_once (a := c) (I := fun t => t = s)
    (P := fun t => t = if bitAt s.power.coreReset c.val && (s.core c).drained then s.resetCore c else s) ?_ ?_ ?_
    (List.nodup_finRange 16) (List.mem_finRange c) rfl
  · rintro t d hd rfl
    exact hskip t d (h d hd)
  · rintro t rfl
    rfl
  · rintro t d hd ht
    refine (hskip t d ?_).trans ht
    rw [ht]
    split
    · exact hbit d hd
    · exact h d hd

end

/-- The word that a reset or a release of one core writes. -/
theorem State.coreRstWith_bit {s : State} (hnone : s.power.coreReset = 0) (c d : CoreId) (on : Bool) :
    bitAt (s.coreRstWith c on) d.val = if d = c then on else s.outOfReset d := by
  unfold State.coreRstWith State.outOfReset
  split
  next h => subst h; exact bitAt_putBit_self _ _ d.isLt
  next h =>
    rw [bitAt_putBit_of_ne _ _ d.isLt fun e => h (Fin.ext e), hnone, show ~~~(0 : BitVec 16) = BitVec.allOnes 16 from rfl,
      BitVec.and_allOnes]
    simp [bitAt, bitsAt]

section
variable {s : State} (hnone : s.power.coreReset = 0) (c : CoreId)
include hnone

/-- The bits after a reset of one core is written: it alone is held. -/
theorem State.writeRstBits_hold (hout : s.outOfReset c = true) (d : CoreId) :
    (s.writeRstBits (s.coreRstWith c false)).outOfReset d = s.outOfReset d ∧
      bitAt (s.writeRstBits (s.coreRstWith c false)).power.coreReset d.val = decide (d = c) := by
  obtain ⟨h1, h2⟩ := s.writeRstBits_core (s.coreRstWith c false) d
  rw [h1, h2, State.coreRstWith_bit hnone, hnone]
  by_cases hdc : d = c
  · subst hdc
    simp [hout]
  · cases hd : s.outOfReset d <;> simp [hdc, bitAt]

/-- The bits after a release of one core is written: none is held. -/
theorem State.writeRstBits_release (d : CoreId) :
    (s.writeRstBits (s.coreRstWith c true)).outOfReset d = (s.outOfReset d || decide (d = c)) ∧
      bitAt (s.writeRstBits (s.coreRstWith c true)).power.coreReset d.val = false := by
  obtain ⟨h1, h2⟩ := s.writeRstBits_core (s.coreRstWith c true) d
  rw [h1, h2, State.coreRstWith_bit hnone, hnone]
  by_cases hdc : d = c
  · subst hdc
    simp
  · cases hd : s.outOfReset d <;> simp [hdc, bitAt]

variable {w : Writer} (hmay : s.mayWrite w = true)
include hmay

omit hnone in
theorem execCoreReset_writes : exec (.coreReset w c) s = .next (s.writeRstBits (s.coreRstWith c false)).settleCores := by
  change execCoreReset w c s = _
  unfold execCoreReset
  rw [if_pos hmay]
  rfl

theorem execCoreReset_settles (hout : s.outOfReset c = true) : exec (.coreReset w c) s = .next
    (if (s.core c).drained then (s.writeRstBits (s.coreRstWith c false)).resetCore c else s.writeRstBits (s.coreRstWith c false)) := by
  have hone (d : CoreId) (hd : d ≠ c) : bitAt (s.writeRstBits (s.coreRstWith c false)).power.coreReset d.val = false :=
    (State.writeRstBits_hold hnone c hout d).2.trans (decide_eq_false hd)
  have hcore : (s.writeRstBits (s.coreRstWith c false)).core c = s.core c :=
    State.core_of_cores (s.writeRstBits_cores _) c
  rw [execCoreReset_writes c hmay, State.settleCores_one hone, (State.writeRstBits_hold hnone c hout c).2, decide_eq_true rfl, Bool.true_and,
    hcore]

theorem execCoreReset_drained (hout : s.outOfReset c = true) (hdrained : (s.core c).drained = true) :
    ∃ t, exec (.coreReset w c) s = .next t ∧ t.core c = Core.reset ∧ t.outOfReset c = false ∧
      (∀ d : CoreId, d ≠ c → t.core d = s.core d ∧ t.outOfReset d = s.outOfReset d) ∧ { t with cores := s.cores, regs := s.regs } = s := by
  have hbits := State.writeRstBits_hold hnone c hout
  have hframe := s.writeRstBits_frame (s.coreRstWith c false)
  have hcores := s.writeRstBits_cores (s.coreRstWith c false)
  refine ⟨_, (execCoreReset_settles hnone c hmay hout).trans (congrArg _ (if_pos hdrained)), ?_⟩
  generalize s.writeRstBits (s.coreRstWith c false) = u at hbits hframe hcores ⊢
  have hout' (d : CoreId) : (u.resetCore c).outOfReset d = if d = c then false else u.outOfReset d :=
    State.outOfReset_setRst (u.setCore c Core.reset) c d false
  have hzero : putBit u.power.coreReset c.val false = s.power.coreReset := by
    rw [hnone]
    refine BitVec.eq_of_getLsbD_eq fun i hi => ?_
    change bitAt _ i = bitAt 0 i
    by_cases hic : i = c.val
    · subst hic
      rw [bitAt_putBit_self _ _ hi]
      simp [bitAt]
    · rw [bitAt_putBit_of_ne _ _ hi hic, (hbits ⟨i, hi⟩).2, decide_eq_false fun e => hic (congrArg Fin.val e)]
      simp [bitAt]
  refine ⟨State.core_setCore_self _ _ _, (hout' c).trans (if_pos rfl), fun d hd => ⟨?_, ?_⟩, ?_⟩
  · exact (State.core_setCore_of_ne _ _ hd).trans (State.core_of_cores hcores d)
  · rw [hout' d, if_neg hd, (hbits d).1]
  · refine Eq.trans ?_ hframe
    unfold State.resetCore
    dsimp only [State.setPower, State.setReg, State.setCore]
    rw [hzero, ← hcores]

theorem execCoreReset_waits (hout : s.outOfReset c = true) (hdrained : (s.core c).drained = false) :
    ∃ t, exec (.coreReset w c) s = .next t ∧ t.cores = s.cores ∧ t.outOfReset c = true ∧ bitAt t.power.coreReset c.val = true := by
  have hbits := State.writeRstBits_hold hnone c hout c
  refine ⟨_, (execCoreReset_settles hnone c hmay hout).trans (congrArg _ (if_neg (by simp [hdrained]))), ?_, hbits.1.trans hout,
    hbits.2.trans (decide_eq_true rfl)⟩
  exact s.writeRstBits_cores _

theorem execCoreRelease_releases : ∃ t, exec (.coreRelease w c) s = .next t ∧ t.cores = s.cores ∧ t.outOfReset c = true ∧
    (∀ d : CoreId, d ≠ c → t.outOfReset d = s.outOfReset d) ∧ { t with regs := s.regs } = s := by
  have hbits := State.writeRstBits_release hnone c
  have hframe := s.writeRstBits_frame (s.coreRstWith c true)
  have hexec : exec (.coreRelease w c) s = .next (s.writeRstBits (s.coreRstWith c true)) := by
    change execCoreRelease w c s = _
    unfold execCoreRelease
    rw [if_pos hmay, State.writeCoreRst_eq]
    change Host.Outcome.next (s.writeRstBits (s.coreRstWith c true)).settleCores = _
    rw [State.settleCores_one (c := c) fun d _ => (hbits d).2, (hbits c).2]
    rfl
  refine ⟨_, hexec, s.writeRstBits_cores _, by rw [(hbits c).1, decide_eq_true rfl, Bool.or_true], fun d hd => by
    rw [(hbits d).1, decide_eq_false hd, Bool.or_false], ?_⟩
  generalize s.writeRstBits (s.coreRstWith c true) = u at hbits hframe ⊢
  have hzero : u.power.coreReset = s.power.coreReset := by
    rw [hnone]
    refine BitVec.eq_of_getLsbD_eq fun i hi => ?_
    exact (hbits ⟨i, hi⟩).2.trans (by simp)
  refine Eq.trans ?_ hframe
  rw [← hzero]

end

/-! ## Pads (R598) -/

/-- The pads that are held, one bit for each polder. -/
def State.padsHeld (s : State) : BitVec 11 := BitVec.ofNat 11 (s.fld Reg.POL_PAD_HELD)

/-- One polder's bit of a release. -/
def State.releasePad (s : State) (polders : BitVec 11) (p : Nat) : State :=
  if bitAt polders p && s.polderOn p then s.setFld Reg.POL_PAD_HELD (putBit (BitVec.ofNat 11 (s.fld Reg.POL_PAD_HELD)) p false).toNat
  else s

section
variable (s : State) (polders : BitVec 11)

theorem State.releasePad_frame (p : Nat) :
    { s.releasePad polders p with regs := s.regs } = s ∧ RegsBut [Reg.POL_PAD] s (s.releasePad polders p) := by
  unfold State.releasePad
  split
  · exact ⟨rfl, RegsBut.setFld _ _ (by decide)⟩
  · exact ⟨rfl, RegsBut.refl _ _⟩

theorem State.releasePad_held (p : Nat) : (s.releasePad polders p).padsHeld =
    if bitAt polders p && s.polderOn p then putBit s.padsHeld p false else s.padsHeld := by
  unfold State.releasePad
  split
  · unfold State.padsHeld
    rw [State.fld_setFld_self _ _ _ (by decide), show (2 ^ Reg.POL_PAD_HELD.len : Nat) = 2 ^ 11 from rfl, Nat.mod_eq_of_lt (BitVec.isLt _),
      BitVec.ofNat_toNat, BitVec.setWidth_eq]
  · rfl

theorem State.releasePad_bit (q : Nat) {p : Nat} (hp : p < 11) : bitAt (s.releasePad polders q).padsHeld p =
    if p = q then bitAt s.padsHeld p && !(bitAt polders p && s.polderOn p) else bitAt s.padsHeld p := by
  rw [State.releasePad_held]
  by_cases hpq : p = q
  · subst hpq
    rw [if_pos rfl]
    split
    next h => rw [bitAt_putBit_self _ _ hp, h, Bool.not_true, Bool.and_false]
    next h => rw [Bool.not_eq_true] at h; rw [h, Bool.not_false, Bool.and_true]
  · rw [if_neg hpq]
    split
    · exact bitAt_putBit_of_ne _ _ hp hpq
    · rfl

/-- The pads of the polders that are ON are let go. -/
def State.releasePadBits : State := (List.range 11).foldl (fun t p => t.releasePad polders p) s

theorem State.releasePadBits_frame :
    { s.releasePadBits polders with regs := s.regs } = s ∧ RegsBut [Reg.POL_PAD] s (s.releasePadBits polders) := by
  refine List.foldlRecOn (motive := fun t : State => { t with regs := s.regs } = s ∧ RegsBut [Reg.POL_PAD] s t) _ _
    ⟨rfl, RegsBut.refl _ s⟩ fun t ht p _ => ?_
  obtain ⟨hframe, hregs⟩ := t.releasePad_frame polders p
  refine ⟨?_, ht.2.trans hregs⟩
  generalize t.releasePad polders p = u at hframe ⊢
  rw [← ht.1, ← hframe]

theorem State.polderOn_of_regs {t : State} (h : RegsBut [Reg.POL_PAD] s t) (p : Nat) : t.polderOn p = s.polderOn p :=
  congrArg (· == 3) (h.polder (by decide) p)

theorem State.releasePadBits_bit {p : Nat} (hp : p < 11) :
    bitAt (s.releasePadBits polders).padsHeld p = (bitAt s.padsHeld p && !(bitAt polders p && s.polderOn p)) := by
  have hfold : RegsBut [Reg.POL_PAD] s (s.releasePadBits polders) ∧
      bitAt (s.releasePadBits polders).padsHeld p = (bitAt s.padsHeld p && !(bitAt polders p && s.polderOn p)) := by
    refine foldl_once (a := p) (I := fun t => RegsBut [Reg.POL_PAD] s t ∧ bitAt t.padsHeld p = bitAt s.padsHeld p)
      (P := fun t => RegsBut [Reg.POL_PAD] s t ∧ bitAt t.padsHeld p = (bitAt s.padsHeld p && !(bitAt polders p && s.polderOn p)))
      ?_ ?_ ?_ List.nodup_range (List.mem_range.2 hp) ⟨RegsBut.refl _ s, rfl⟩
    · rintro t q hq ⟨hregs, hbit⟩
      exact ⟨hregs.trans (t.releasePad_frame polders q).2, by rw [t.releasePad_bit polders q hp, if_neg hq.symm, hbit]⟩
    · rintro t ⟨hregs, hbit⟩
      exact ⟨hregs.trans (t.releasePad_frame polders p).2, by rw [t.releasePad_bit polders p hp, if_pos rfl, hbit, s.polderOn_of_regs hregs]⟩
    · rintro t q hq ⟨hregs, hbit⟩
      exact ⟨hregs.trans (t.releasePad_frame polders q).2, by rw [t.releasePad_bit polders q hp, if_neg hq.symm, hbit]⟩
  exact hfold.2

end

/-- RELEASE lets the pads of the polders that are ON drive, and outside the safe state with an image the two protections go too. -/
theorem execPadRelease_releases {w : Writer} {s : State} (polders : BitVec 11) (hmay : s.mayWrite w = true) :
    ∃ t, exec (.padRelease w polders) s = .next t ∧
      (∀ p, p ≤ 10 → bitAt (BitVec.ofNat 11 (t.fld Reg.POL_PAD_HELD)) p =
        (bitAt (BitVec.ofNat 11 (s.fld Reg.POL_PAD_HELD)) p && !(bitAt polders p && s.polderOn p))) ∧
      (s.flag Reg.FLT_STATUS_SAFE = false → s.loaderOnly = false →
        t.power.writeProtect = (s.power.writeProtect && !(bitAt polders polPF && s.polderOn polPF)) ∧
        t.power.txDisable = (s.power.txDisable && !(bitAt polders polPN && s.polderOn polPN))) ∧
      (s.flag Reg.FLT_STATUS_SAFE = true ∨ s.loaderOnly = true → t.power = s.power) ∧ { t with regs := s.regs, power := s.power } = s := by
  have hbit {p : Nat} (hp : p ≤ 10) := s.releasePadBits_bit polders (Nat.lt_succ_of_le hp)
  obtain ⟨hframe, hregs⟩ := s.releasePadBits_frame polders
  have hexec : exec (.padRelease w polders) s = .next (
      let u := s.releasePadBits polders
      if u.flag Reg.FLT_STATUS_SAFE || u.loaderOnly then u
      else u.setPower { u.power with
        writeProtect := u.power.writeProtect && !(bitAt polders polPF && u.polderOn polPF)
        txDisable := u.power.txDisable && !(bitAt polders polPN && u.polderOn polPN) }) := congrArg _ (if_pos hmay)
  have hsafe : (s.releasePadBits polders).flag Reg.FLT_STATUS_SAFE = s.flag Reg.FLT_STATUS_SAFE := hregs.flag (by decide)
  have hon := s.polderOn_of_regs hregs
  generalize s.releasePadBits polders = u at hbit hframe hexec hsafe hon
  have hpower : u.power = s.power := (congrArg State.power hframe :)
  have hloader : u.loaderOnly = s.loaderOnly := (congrArg State.loaderOnly hframe :)
  dsimp only at hexec
  rw [hsafe, hloader] at hexec
  by_cases hclosed : (s.flag Reg.FLT_STATUS_SAFE || s.loaderOnly) = true
  case pos =>
    rw [if_pos hclosed] at hexec
    refine ⟨u, hexec, fun p => hbit, fun h1 h2 => ?_, fun _ => hpower, ?_⟩
    · rw [h1, h2] at hclosed
      exact absurd hclosed (by decide)
    · refine Eq.trans ?_ hframe
      rw [← hpower]
  case neg =>
    rw [if_neg hclosed] at hexec
    refine ⟨_, hexec, fun p => hbit, fun _ _ => ?_, fun h => absurd (Bool.or_eq_true_iff.2 h) hclosed, ?_⟩
    · rw [← hpower, ← hon, ← hon]
      exact ⟨rfl, rfl⟩
    · refine Eq.trans ?_ hframe
      rw [← hpower]
      rfl

/-- Settles O47: a cold start is the reset state with what power cannot take away, a warm reset keeps the registers of PA, and every fold over
polders or cores does its work on each of them once. -/
theorem powerUpAndResets : Obligations.PowerUpAndResets := by
  unfold Obligations.PowerUpAndResets
  refine ⟨⟨fun s => ?_, fun chans dram eeprom loader s => ?_, fun s k p rest hphase hleft hp hspaced => ?_⟩,
    fun w value s => ?_, fun w value s hphase hdone => ?_, fun w value p s hkey hkind hp hmay hstop hpow => ?_,
    fun w c s hmay hnone => ?_, fun w polders s hmay => execPadRelease_releases polders hmay⟩
  case refine_1 =>
    have hcold := s.coldReset_coldStart
    refine ⟨fun h => hcold.outcome ?_, fun h => hcold.outcome ?_, fun h => ?_, fun h hm => hcold.outcome ?_, fun h hm => ?_⟩
    · exact congrArg _ (if_pos h)
    · exact congrArg _ (if_pos h)
    · exact congrArg _ (if_pos h)
    · exact congrArg _ (if_pos (And.intro h hm))
    · exact congrArg _ (if_neg fun hand => absurd (hm.symm.trans hand.2) (by decide))
  case refine_2 =>
    refine ⟨execColdStart_begins loader, fun hphase hdone hloader => ?_⟩
    subst hloader
    exact execColdStart_ends hphase hdone
  case refine_3 => exact ⟨execLadderStep_powers hphase hleft hspaced (ladderOrder_le hp), execLadderStep_delays hphase hleft hspaced⟩
  case refine_4 =>
    intro reset hkey hkind hmay hresets hnot
    have hexec := execWarmReset_resets hkey hkind hmay hresets hnot
    have hwarm := s.warmReset_warm
    have hreset : reset (s.warmReset true) := ⟨hwarm.cores, hwarm.rings, hwarm.taken, hwarm.recipes, hwarm.dram, hwarm.safe, hwarm.gtc,
      hwarm.coreRst, hwarm.nand, hwarm.bootFlash⟩
    refine ⟨fun hpow => ⟨_, hexec, hreset, ?_⟩, fun hgated => ⟨_, hexec, hreset, ?_⟩⟩
    · have hst := s.warmClear.finishWarm_started
      rw [s.warmReset_powered hpow]
      exact ⟨hst.phase, hst.cause, hst.polder⟩
    · rw [s.warmReset_gated hgated]
      rfl
  case refine_5 =>
    have hst := s.finishWarm_started
    have hexec := execWarmReset_ends (w := w) (value := value) hphase hdone
    generalize s.finishWarm true = t at hst hexec
    exact ⟨t, hexec, hst.phase, hst.cause, hst.polder, hst.proj State.cores, hst.proj State.dram, hst.proj State.gtc⟩
  case refine_6 =>
    have hexec : exec (.polderReset w value) s = .next (s.resetPolder p) := by
      subst hp
      exact congrArg _ (if_pos (And.intro hkey (And.intro hkind hmay)))
    obtain ⟨hab, htaken⟩ := State.resetPolder_frame hstop hpow
    exact ⟨_, hexec, htaken, fun u k hu hk hup => State.resetPolder_clears hstop hpow hu hup k hk, hab.gtc, hab.power, hab.flash⟩
  case refine_7 =>
    exact ⟨execCoreReset_drained hnone c hmay, execCoreReset_waits hnone c hmay, execCoreRelease_releases hnone c hmay⟩

end Sys2Proof.Machine

/-!
SUPPORT. Module power states, the entry to MS4 with its save list, wake sources and the exit (O49).
-/

namespace Sys2Proof.Machine

/-! ## The module state, MS3 and its end (R418, R419, R502) -/

section
variable (s : State)

theorem State.setMode_onlyLogs (m : Nat) : OnlyLogs s (s.setMode m) := (s.setFld_onlyLogs _ _).trans (State.setFld_onlyLogs _ _ _)

theorem State.setMode_regsBut (m : Nat) : RegsBut [Reg.POL_MODE, Reg.HST_PWR] s (s.setMode m) :=
  (RegsBut.setFld s m (by decide)).trans (RegsBut.setFld _ m (by decide))

theorem State.setMode_cur {m : Nat} (h : m < 8) : (s.setMode m).fld Reg.POL_MODE_CUR = m :=
  (State.fld_setFld_of_disjoint _ _ _ _ (by decide)).trans ((State.fld_setFld_self _ _ _ (by decide)).trans (Nat.mod_eq_of_lt h))

theorem State.setMode_ps {m : Nat} (h : m < 8) : (s.setMode m).fld Reg.HST_PWR_PS = m :=
  (State.fld_setFld_self _ _ _ (by decide)).trans (Nat.mod_eq_of_lt h)

theorem State.setPhase_fld (x : PowerPhase) (f : Fld) : (s.setPhase x).fld f = s.fld f := rfl
theorem State.setPhase_flag (x : PowerPhase) (f : Fld) : (s.setPhase x).flag f = s.flag f := rfl
theorem State.setPhase_polder (x : PowerPhase) (p : Nat) : (s.setPhase x).polder p = s.polder p := rfl

theorem ms3Polders_le {p : Nat} (h : p ∈ ms3Polders) : p ≤ 10 := by
  revert p
  decide

/-! What is done to one polder leaves the states of the others. -/

section
variable {p q : Nat} (hne : p ≠ q)
include hne

theorem State.polder_setPolder_of_ne (v : Nat) : (s.setPolder q v).polder p = s.polder p := by
  unfold State.polder State.setPolder
  rw [State.reg_setReg_self]
  exact natAt_putBits_of_disjoint _ _ _ _ _ _ (by omega)

omit hne in
theorem State.polder_setFlag_clk {f : Fld} (hf : f.off = Reg.POL_CLK) (b : Bool) : (s.setFlag (clk f q) b).polder p = s.polder p := by
  refine State.polder_of_reg ((State.reg_setFld _ _ _ _).trans (if_neg ?_)) p
  have hoff : (clk f q).off = Reg.POL_CLK + 4 * q := congrArg (· + 4 * q) hf
  rw [hoff]
  unfold Reg.POL_STATE Reg.POL_CLK
  omega

theorem State.stopPolder_polder_of_ne (kind : Nat) : (s.stopPolder q kind).polder p = s.polder p := by
  unfold State.stopPolder
  rw [State.polder_setFlag_clk _ rfl, State.polder_setPolder_of_ne _ hne, State.polder_marker]

theorem State.resumePolder_polder_of_ne (kind : Nat) : (s.resumePolder q kind).polder p = s.polder p := by
  rw [State.polder_of_reg (s.resumePolder_regsKept q kind Reg.POL_STATE (by decide)), State.polder_setFlag_clk _ rfl,
    State.polder_setPolder_of_ne _ hne]

theorem State.resumePolder_clk_of_ne (hp : p ≤ 10) (kind : Nat) :
    (s.resumePolder q kind).reg (Reg.POL_CLK + 4 * p) = s.reg (Reg.POL_CLK + 4 * p) := by
  have hlog := (not_or.1 (mt List.mem_cons.2 (clk_notMem_logRegisters hp))).2
  have hclk : Reg.POL_CLK + 4 * p ≠ Reg.POL_CLK + 4 * q := by omega
  rw [s.resumePolder_regsKept q kind _ hlog]
  exact (State.reg_setFld _ _ _ _).trans ((if_neg hclk).trans ((State.reg_setReg _ _ _ _).trans (if_neg (clk_ne hp).1)))

end

/-- The data-path polders stop. -/
def State.stopDataPath : State := ms3Polders.foldl (fun (s : State) p => if s.polderOn p then s.stopPolder p 2 else s) s

theorem State.stopDataPath_onlyLogs : OnlyLogs s s.stopDataPath :=
  List.foldlRecOn (motive := OnlyLogs s) _ _ (OnlyLogs.refl s) fun t ht p _ =>
    ht.trans (OnlyLogs.ite (t.stopPolder_onlyLogs p 2) (OnlyLogs.refl t))

theorem State.stopDataPath_stops {p : Nat} (hp : p ∈ ms3Polders) (hon : s.polderOn p = true) : s.stopDataPath.polder p = 2 := by
  refine foldl_once (a := p) (I := fun t => t.polder p = s.polder p) (P := fun t => t.polder p = 2) ?_ ?_ ?_ (by decide) hp rfl
  · intro t q hq ht
    split
    · exact (t.stopPolder_polder_of_ne hq.symm 2).trans ht
    · exact ht
  · intro t ht
    have hon' : t.polderOn p = true := (congrArg (· == 3) ht).trans hon
    rw [if_pos hon']
    exact (t.stopPolder_polder (ms3Polders_le hp) 2 p).trans (if_pos rfl)
  · intro t q hq ht
    split
    · exact (t.stopPolder_polder_of_ne hq.symm 2).trans ht
    · exact ht

/-- MS3 entered: the mode is shown, and the data-path polders that ran are stopped. -/
theorem State.enterMs3_facts : OnlyLogs s s.enterMs3 ∧ s.enterMs3.fld Reg.POL_MODE_CUR = 3 ∧ s.enterMs3.fld Reg.HST_PWR_PS = 3 ∧
    ∀ p ∈ ms3Polders, s.polderOn p = true → s.enterMs3.polder p = 2 := by
  have heq : s.enterMs3 = (s.stopDataPath.setMode 3).count unitPOL 2 1 := rfl
  rw [heq]
  have hreg {off : Nat} (h : off ∉ Reg.FLT_LOG_HEAD :: logRegisters) := State.count_reg (s.stopDataPath.setMode 3) h unitPOL 2 1
  refine ⟨(s.stopDataPath_onlyLogs.trans (State.setMode_onlyLogs _ 3)).trans (State.count_onlyLogs _ _ _ _), ?_, ?_, fun p hp hon => ?_⟩
  · exact (congrArg (natAt · _ _) (hreg (by decide))).trans (State.setMode_cur _ (by decide))
  · exact (congrArg (natAt · _ _) (hreg (by decide))).trans (State.setMode_ps _ (by decide))
  · rw [State.polder_of_reg (hreg (by decide)), (State.setMode_regsBut _ 3).polder (by decide)]
    exact s.stopDataPath_stops hp hon

/-- The data-path polders run again, but for those that STOP holds. -/
def State.runDataPath : State :=
  ms3Polders.foldl (fun (s : State) p => if s.polder p = 2 ∧ !s.flag (clk Reg.POL_CLK_STOP p) then s.resumePolder p 2 else s) s

theorem State.runDataPath_onlyLogs : OnlyLogs s s.runDataPath :=
  List.foldlRecOn (motive := OnlyLogs s) _ _ (OnlyLogs.refl s) fun t ht p _ =>
    ht.trans (OnlyLogs.ite (t.resumePolder_onlyLogs p 2) (OnlyLogs.refl t))

theorem State.runDataPath_runs {p : Nat} (hp : p ∈ ms3Polders) (hpol : s.polder p = 2) (hfree : s.flag (clk Reg.POL_CLK_STOP p) = false) :
    s.runDataPath.polder p = 3 := by
  have hle := ms3Polders_le hp
  refine foldl_once (a := p) (I := fun t => t.polder p = 2 ∧ t.reg (Reg.POL_CLK + 4 * p) = s.reg (Reg.POL_CLK + 4 * p))
    (P := fun t => t.polder p = 3) ?_ ?_ ?_ (by decide) hp ⟨hpol, rfl⟩
  · rintro t q hq ⟨ht, hclk⟩
    split
    · exact ⟨(t.resumePolder_polder_of_ne hq.symm 2).trans ht, (t.resumePolder_clk_of_ne hq.symm hle 2).trans hclk⟩
    · exact ⟨ht, hclk⟩
  · rintro t ⟨ht, hclk⟩
    have hfree' : t.flag (clk Reg.POL_CLK_STOP p) = false := (congrArg (bitAt · 31) hclk).trans hfree
    rw [if_pos ⟨ht, by rw [hfree']; rfl⟩]
    exact (t.resumePolder_polder hle 2 p).trans (if_pos rfl)
  · intro t q hq ht
    split
    · exact (t.resumePolder_polder_of_ne hq.symm 2).trans ht
    · exact ht

theorem State.leaveMs3_facts {m : Nat} (hm : m < 8) : OnlyLogs s (s.leaveMs3 m) ∧ (s.leaveMs3 m).fld Reg.POL_MODE_CUR = m ∧
    ∀ p ∈ ms3Polders, s.polder p = 2 → s.flag (clk Reg.POL_CLK_STOP p) = false → (s.leaveMs3 m).polder p = 3 := by
  have heq : s.leaveMs3 m = s.runDataPath.setMode m := rfl
  rw [heq]
  refine ⟨s.runDataPath_onlyLogs.trans (State.setMode_onlyLogs _ m), State.setMode_cur _ hm, fun p hp hpol hfree => ?_⟩
  exact ((State.setMode_regsBut _ m).polder (by decide) p).trans (s.runDataPath_runs hp hpol hfree)

end

/-! ## The commands of the module state in the power state ON -/

section
variable {s : State} (hon : s.power.phase = .on)
include hon

theorem execPowerStateChange_on : exec .powerStateChange s = .next (
    if s.moduleState ≤ 2 then (if s.fld Reg.POL_MODE_CUR = 3 then s.leaveMs3 s.moduleState else s.setMode s.moduleState)
    else if s.moduleState = 3 then (if s.fld Reg.POL_MODE_CUR = 3 then s else s.enterMs3)
    else s.decideMs4) :=
  congrArg _ (if_neg fun h => h hon)

/-- Both commands that enter MS3 enter it alike. -/
theorem exec_entersMs3 (hstate : s.moduleState = 3) (hcur : s.fld Reg.POL_MODE_CUR < 3) {i : Instr}
    (hi : i ∈ [Instr.powerStateChange, Instr.ms3Entry]) : exec i s = .next s.enterMs3 := by
  rcases List.mem_cons.1 hi with rfl | hi
  · rw [execPowerStateChange_on hon, if_neg (by omega), if_pos hstate, if_neg (by omega)]
  · obtain rfl := List.mem_singleton.1 hi
    exact congrArg _ (if_pos (And.intro hon (And.intro hcur hstate)))

theorem exec_leavesMs3 (hstate : s.moduleState ≤ 2) (hcur : s.fld Reg.POL_MODE_CUR = 3) {i : Instr}
    (hi : i ∈ [Instr.powerStateChange, Instr.ms3Exit]) : exec i s = .next (s.leaveMs3 s.moduleState) := by
  rcases List.mem_cons.1 hi with rfl | hi
  · rw [execPowerStateChange_on hon, if_pos hstate, if_pos hcur]
  · obtain rfl := List.mem_singleton.1 hi
    exact congrArg _ (if_pos (And.intro hon (And.intro hcur (Nat.lt_succ_of_le hstate))))

/-- The governor's decision, once every controller holds PS4. -/
theorem execMs4Entry_decides (hheld : s.heldState = 4) : exec .ms4Entry s = .next s.decideMs4 := by
  change execMs4Entry s = _
  unfold execMs4Entry
  rw [hon]
  exact congrArg _ (if_pos hheld)

omit hon in
theorem State.ms4Refusal_lt {cause : Nat} (h : s.ms4Refusal = some cause) : cause < 16 := by
  unfold State.ms4Refusal at h
  split at h
  · cases h; decide
  split at h
  · cases h; decide
  split at h
  · cases h; decide
  split at h
  · cases h; decide
  split at h
  · cases h; decide
  split at h
  · cases h; decide
  · cases h

theorem execMs4Entry_refuses {cause : Nat} (hheld : s.heldState = 4) (hcause : s.ms4Refusal = some cause) :
    ∃ t, exec .ms4Entry s = .next t ∧ t.flag Reg.POL_MODE_REFUSED = true ∧ t.fld Reg.POL_MODE_CAUSE = cause ∧ { t with regs := s.regs } = s := by
  refine ⟨(s.setFlag Reg.POL_MODE_REFUSED true).setFld Reg.POL_MODE_CAUSE cause, ?_, ?_, ?_, rfl⟩
  · rw [execMs4Entry_decides hon hheld]
    unfold State.decideMs4
    rw [hcause]
  · exact (State.flag_setFld_of_disjoint _ _ _ _ (by decide) (by decide)).trans (State.flag_setFlag_self _ _ _ rfl (by decide))
  · exact (State.fld_setFld_self _ _ _ (by decide)).trans (Nat.mod_eq_of_lt (State.ms4Refusal_lt hcause))

theorem execMs4Entry_tells (hheld : s.heldState = 4) (hnone : s.ms4Refusal = none) :
    ∃ t, exec .ms4Entry s = .next t ∧ t.power.phase = .entering ∧ t.fld Reg.POL_MODE_TARGET = 4 ∧
      t.letters = s.letters ++ [.powerSave] ∧ t.letters1 = s.letters1 ++ [.powerSave] ∧ t.dram = s.dram ∧ t.cores = s.cores := by
  have hdecide : s.decideMs4 = ((State.setFld { s with letters := s.letters ++ [Letter.powerSave], letters1 := s.letters1 ++ [Letter.powerSave] }
      Reg.POL_MODE_TARGET 4).setFlag Reg.POL_MODE_BUSY true).setPhase .entering := by
    unfold State.decideMs4
    rw [hnone]
  refine ⟨_, (execMs4Entry_decides hon hheld).trans (congrArg _ hdecide), rfl, ?_, rfl, rfl, rfl, rfl⟩
  rw [State.setPhase_fld]
  exact (State.fld_setFld_of_disjoint _ _ _ _ (by decide)).trans (State.fld_setFld_self _ _ _ (by decide))

end

/-! ## Wake sources (R498, R499, R502) -/

section
variable (s : State)

/-- What the beginning of the exit from MS4 leaves. -/
theorem State.beginExit_facts : OnlyPower s s.beginExit ∧ s.beginExit.power.phase = .ladder .wake ∧
    s.beginExit.reg Reg.POL_WAKE = s.reg Reg.POL_WAKE ∧
    s.beginExit.power.ladder.left = ladderOrder.filter (fun p => ms4Polders.contains p && s.polder p == 0) := by
  unfold State.beginExit
  extract_lets u
  have hu : OnlyLogs s u := (s.resumePolder_onlyLogs polPF 3).trans (State.setFlag_onlyLogs _ _ _)
  have hregs : u.reg Reg.POL_WAKE = s.reg Reg.POL_WAKE := by
    refine (State.reg_setFld _ _ _ _).trans ((if_neg (by decide)).trans ?_)
    rw [s.resumePolder_regsKept polPF 3 _ (by decide)]
    exact (State.reg_setFld _ _ _ _).trans ((if_neg (by decide)).trans ((State.reg_setReg _ _ _ _).trans (if_neg (by decide))))
  have hpol {p : Nat} (hne : p ≠ polPF) : u.polder p = s.polder p :=
    (State.polder_of_reg ((State.reg_setFld _ _ _ _).trans (if_neg (by decide))) p).trans (s.resumePolder_polder_of_ne hne 3)
  refine ⟨hu.onlyPower.trans rfl, rfl, hregs, ?_⟩
  change ladderOrder.filter (fun p => ms4Polders.contains p && u.polder p == 0) = _
  refine List.filter_congr fun p _ => ?_
  by_cases hp : p = polPF
  · have hpf : ms4Polders.contains polPF = false := by decide
    rw [hp, hpf, Bool.false_and, Bool.false_and]
  · rw [hpol hp]

/-- The wake register after source `src` fires: the source is pending, and the first one is the cause. -/
def State.wakeNoted (s : State) (src : Nat) : State :=
  (if s.fld Reg.POL_WAKE_PEND = 0 then s.setFld Reg.POL_WAKE_CAUSE (src + 1) else s).setFld Reg.POL_WAKE_PEND
    (putBit (BitVec.ofNat 3 (s.fld Reg.POL_WAKE_PEND)) src true).toNat

theorem State.wakeNoted_onlyLogs (src : Nat) : OnlyLogs s (s.wakeNoted src) :=
  (OnlyLogs.ite (s.setFld_onlyLogs _ _) (OnlyLogs.refl s)).trans (State.setFld_onlyLogs _ _ _)

theorem State.wakeNoted_regsBut (src : Nat) : RegsBut [Reg.POL_WAKE] s (s.wakeNoted src) :=
  (RegsBut.ite (RegsBut.setFld s _ (by decide)) (RegsBut.refl _ s)).trans (RegsBut.setFld _ _ (by decide))

theorem State.wakeNoted_pends {src : Nat} (h : src < 3) : bitAt ((s.wakeNoted src).reg Reg.POL_WAKE) (16 + src) = true := by
  unfold State.wakeNoted
  rw [State.reg_setFld, if_pos (by decide), bitAt, getLsbD_putField _ _ _ _ _ (by omega)]
  rw [if_pos (by change 16 ≤ 16 + src ∧ 16 + src < 16 + 3; omega)]
  change ((putBit (BitVec.ofNat 3 (s.fld Reg.POL_WAKE_PEND)) src true).toNat).testBit (16 + src - 16) = true
  rw [Nat.add_sub_cancel_left, BitVec.testBit_toNat]
  exact bitAt_putBit_self _ true h

theorem State.wakeNoted_cause {src : Nat} (h : src < 3) (hnone : s.fld Reg.POL_WAKE_PEND = 0) :
    (s.wakeNoted src).fld Reg.POL_WAKE_CAUSE = src + 1 := by
  unfold State.wakeNoted
  rw [State.fld_setFld_of_disjoint _ _ _ _ (by decide), if_pos hnone, State.fld_setFld_self _ _ _ (by decide)]
  exact Nat.mod_eq_of_lt (by change src + 1 < 2 ^ 4; omega)

theorem State.wake_asleep {src : Nat} (h : s.power.phase = .asleep) : s.wake src = (s.wakeNoted src).beginExit := by
  have hphase : (s.wakeNoted src).power.phase = .asleep := (congrArg Power.phase (s.wakeNoted_onlyLogs src).power).trans h
  change (match (s.wakeNoted src).power.phase with
    | .entering => _
    | .asleep => (s.wakeNoted src).beginExit
    | _ => s.wakeNoted src) = _
  rw [hphase]

theorem State.wake_on {src : Nat} (h : s.power.phase = .on) : s.wake src = s.wakeNoted src := by
  have hphase : (s.wakeNoted src).power.phase = .on := (congrArg Power.phase (s.wakeNoted_onlyLogs src).power).trans h
  change (match (s.wakeNoted src).power.phase with
    | .entering => _
    | .asleep => (s.wakeNoted src).beginExit
    | _ => s.wakeNoted src) = _
  rw [hphase]

/-- A wake source that fires in MS4. -/
theorem State.wake_wakes {src : Nat} (h : s.power.phase = .asleep) (hsrc : src < 3) :
    (s.wake src).power.phase = .ladder .wake ∧ bitAt ((s.wake src).reg Reg.POL_WAKE) (16 + src) = true ∧
      (s.fld Reg.POL_WAKE_PEND = 0 → (s.wake src).fld Reg.POL_WAKE_CAUSE = src + 1) ∧
      (s.wake src).power.ladder.left = ladderOrder.filter (fun p => ms4Polders.contains p && s.polder p == 0) ∧
      (s.wake src).dram = s.dram ∧ (s.wake src).gtc = s.gtc := by
  have hnoted := s.wakeNoted_onlyLogs src
  obtain ⟨honly, hphase, hreg, hleft⟩ := (s.wakeNoted src).beginExit_facts
  have hpol : (fun p => ms4Polders.contains p && (s.wakeNoted src).polder p == 0) = fun p => ms4Polders.contains p && s.polder p == 0 := by
    funext p
    rw [(s.wakeNoted_regsBut src).polder (by decide)]
  rw [s.wake_asleep h]
  refine ⟨hphase, ?_, fun hnone => ?_, hleft.trans (congrArg (List.filter · ladderOrder) hpol), honly.dram.trans hnoted.dram,
    honly.gtc.trans hnoted.gtc⟩
  · rw [hreg]
    exact s.wakeNoted_pends hsrc
  · exact (congrArg (natAt · _ _) hreg).trans (s.wakeNoted_cause hsrc hnone)

/-- A wake source that fires in MS3 ends it. -/
theorem State.wake_endsMs3 {src m : Nat} (h : s.power.phase = .on) (hm : m < 8) :
    ((s.wake src).leaveMs3 m).fld Reg.POL_MODE_CUR = m ∧ ((s.wake src).leaveMs3 m).dram = s.dram := by
  obtain ⟨honly, hcur, -⟩ := (s.wakeNoted src).leaveMs3_facts hm
  rw [s.wake_on h]
  exact ⟨hcur, honly.dram.trans (s.wakeNoted_onlyLogs src).dram⟩

end

section
variable {s : State}

theorem execSidebandMatch_asleep {addr : BitVec 7} (h : s.power.phase = .asleep) (haddr : addr.toNat = s.fld Reg.POL_SMB_ADDR) :
    exec (.sidebandMatch addr) s = .next (s.wake 0) := by
  change execSidebandMatch addr s = _
  unfold execSidebandMatch
  rw [if_neg (fun hne => hne haddr), h]

theorem execSidebandMatch_off {addr : BitVec 7} (h : s.power.phase = .off) (haddr : addr.toNat = s.fld Reg.POL_SMB_ADDR) :
    exec (.sidebandMatch addr) s = .next { s with power := { s.power with matched := true } } := by
  change execSidebandMatch addr s = _
  unfold execSidebandMatch
  rw [if_neg (fun hne => hne haddr), h]
  rfl

theorem execPcieWake_asleep (h : s.power.phase = .asleep) (hen : s.flag Reg.POL_WAKE_EN_PCIE = true) : exec .pcieWake s = .next (s.wake 1) := by
  change execPcieWake s = _
  unfold execPcieWake
  rw [hen, h]
  rfl

theorem execPcieWake_on (h : s.power.phase = .on) (hcur : s.fld Reg.POL_MODE_CUR = 3) (hen : s.flag Reg.POL_WAKE_EN_PCIE = true) :
    exec .pcieWake s = .next ((s.wake 1).leaveMs3 (min 2 s.operational)) := by
  change execPcieWake s = _
  unfold execPcieWake
  rw [hen, h]
  exact congrArg _ (if_pos hcur)

theorem execGtcWake_asleep (h : s.power.phase = .asleep) (hen : s.flag Reg.POL_WAKE_EN_GTC = true) (hat : s.power.wakeAt ≤ s.gtc) :
    exec .gtcWake s = .next (s.wake 2) := by
  change execGtcWake s = _
  unfold execGtcWake
  rw [hen, decide_eq_true hat, h]
  rfl

theorem execGtcWake_on (h : s.power.phase = .on) (hcur : s.fld Reg.POL_MODE_CUR = 3) (hen : s.flag Reg.POL_WAKE_EN_GTC = true)
    (hat : s.power.wakeAt ≤ s.gtc) : exec .gtcWake s = .next ((s.wake 2).leaveMs3 (min 2 s.operational)) := by
  change execGtcWake s = _
  unfold execGtcWake
  rw [hen, decide_eq_true hat, h]
  exact congrArg _ (if_pos hcur)

theorem execMs4Exit_begins {ecc loader : Bool} (h : s.power.phase = .asleep) (hpend : s.fld Reg.POL_WAKE_PEND ≠ 0) :
    exec (.ms4Exit ecc loader) s = .next s.beginExit := by
  change execMs4Exit ecc loader s = _
  unfold execMs4Exit
  rw [h]
  exact congrArg _ (if_pos hpend)

end

/-! ## The save list (R495, R496) -/

/-- A save list is good where its header names at most 256 records and its CRC. -/
def saveGoodMem (m : Mem) : Bool :=
  Mem.readLe m 0 4 == 0x56534B50 && decide (Mem.readLe m 4 4 ≤ 256) && Mem.readLe m 8 4 == (crc32c (Mem.bytes m 0x100 0x7F00)).toNat

theorem State.saveGood_eq (s : State) : s.saveGood = saveGoodMem s.power.save := rfl

/-- Bytes behind a header are what they were before it was stored. -/
theorem Mem.bytes_store_above (m : Mem) {h : List Byte} {a : Nat} (len : Nat) (ha : h.length ≤ a) :
    Mem.bytes (Mem.store m 0 h) a len = Mem.bytes m a len := by
  unfold Mem.bytes
  refine List.map_congr_left fun i _ => ?_
  exact Mem.get_store_outside m (.inr (by omega))

/-- The three words of a header read back. -/
theorem readLe_header (m : Mem) {magic n crc : Nat} (hmagic : magic < 256 ^ 4) (hn : n < 256 ^ 4) (hcrc : crc < 256 ^ 4) :
    let t := Mem.store m 0 (leBytes 4 magic ++ leBytes 4 n ++ leBytes 4 crc)
    Mem.readLe t 0 4 = magic ∧ Mem.readLe t 4 4 = n ∧ Mem.readLe t 8 4 = crc := by
  have hlen : (leBytes 4 magic ++ leBytes 4 n ++ leBytes 4 crc).length = 12 := by simp [leBytes_length]
  have hcat : leBytes 4 magic ++ leBytes 4 n ++ leBytes 4 crc = leBytes 4 magic ++ (leBytes 4 n ++ leBytes 4 crc) := List.append_assoc _ _ _
  refine ⟨(Mem.readLe_store m 0 0 4 (by omega)).trans ?_, (Mem.readLe_store m 0 4 4 (by omega)).trans ?_,
    (Mem.readLe_store m 0 8 4 (by omega)).trans ?_⟩
  · rw [hcat]
    exact (leAt_append_leBytes [] _ 4 _).trans (Nat.mod_eq_of_lt hmagic)
  · rw [hcat]
    exact (leAt_append_leBytes (leBytes 4 magic) _ 4 n).trans (Nat.mod_eq_of_lt hn)
  · have h := leAt_append_leBytes (leBytes 4 magic ++ leBytes 4 n) [] 4 crc
    rw [List.append_nil] at h
    exact h.trans (Nat.mod_eq_of_lt hcrc)

/-- A list with its header stored passes its checks. -/
theorem saveGoodMem_header (m : Mem) {n : Nat} (hn : n ≤ 256) :
    saveGoodMem (Mem.store m 0 (leBytes 4 0x56534B50 ++ leBytes 4 n ++ leBytes 4 (crc32c (Mem.bytes m 0x100 0x7F00)).toNat)) = true := by
  unfold saveGoodMem
  rw [Mem.bytes_store_above m 0x7F00 (a := 0x100) (by simp [leBytes_length])]
  generalize hc : (crc32c (Mem.bytes m 0x100 0x7F00)).toNat = crc
  have hcrc : crc < 256 ^ 4 := by
    rw [← hc]
    exact BitVec.isLt _
  clear hc
  obtain ⟨h0, h4, h8⟩ := readLe_header m (magic := 0x56534B50) (n := n) (crc := crc) (by norm_num) (by omega) hcrc
  rw [h0, h4, h8, decide_eq_true hn, beq_self_eq_true, beq_self_eq_true]
  rfl

theorem State.setPower_onlyPower (s : State) (x : Power) : OnlyPower s (s.setPower x) := rfl

/-- The list that an entry to MS4 writes, and its flag. -/
theorem State.writeSave_facts (s : State) : OnlyPower s s.writeSave ∧ s.writeSave.saveGood = true ∧
    s.writeSave.flag Reg.POL_SAVE_STAT_VALID = true := by
  unfold State.writeSave
  extract_lets rings m0 m1 m2 m3 m4 crc m5 _ u
  have hrings : rings.length ≤ 256 := List.length_take_le _ _
  have hgood : saveGoodMem m5 = true := saveGoodMem_header m4 hrings
  have hu : OnlyPower s u := s.setPower_onlyPower _
  have husave : u.power.save = m5 := rfl
  clear_value u m5
  refine ⟨hu.trans ((u.setFlag_onlyLogs _ _).trans (State.setFld_onlyLogs _ _ _)).onlyPower, ?_, ?_⟩
  · rw [State.saveGood_eq]
    exact (congrArg saveGoodMem husave).trans hgood
  · exact (State.flag_setFld_of_disjoint _ _ _ _ (by decide) (by decide)).trans (State.flag_setFlag_self _ _ _ rfl (by decide))

/-! ## The polders that MS4 gates (R493) -/

/-- What the entry to MS4 keeps of the memory and of what a wake needs. -/
structure Sleeps (s t : State) : Prop where
  gtc : t.gtc = s.gtc
  dram : t.dram = s.dram
  save : t.power.save = s.power.save
  stat : t.reg Reg.POL_SAVE_STAT = s.reg Reg.POL_SAVE_STAT

theorem Sleeps.trans {s t u : State} (h : Sleeps s t) (g : Sleeps t u) : Sleeps s u :=
  ⟨g.gtc.trans h.gtc, g.dram.trans h.dram, g.save.trans h.save, g.stat.trans h.stat⟩

theorem OnlyLogs.sleeps {s t : State} (h : OnlyLogs s t) (hr : t.reg Reg.POL_SAVE_STAT = s.reg Reg.POL_SAVE_STAT) : Sleeps s t :=
  ⟨h.gtc, h.dram, congrArg Power.save h.power, hr⟩

/-- The polders that MS4 gates are neither PA nor PF. -/
theorem ms4Polders_facts {p : Nat} (h : p ∈ ms4Polders) : p ≤ 10 ∧ p ≠ polPA ∧ p ≠ polPF := by
  have hall : ∀ q ∈ ms4Polders, q ≤ 10 ∧ q ≠ polPA ∧ q ≠ polPF := by decide
  exact hall p h

section
variable (s : State) {q : Nat}

/-- A gated polder loses its own units, none of them PA's. -/
theorem State.gatePolder_facts (hq : q ∈ ms4Polders) :
    Sleeps s (s.gatePolder q) ∧ ∀ p, (s.gatePolder q).polder p = if p = q then 0 else s.polder p := by
  obtain ⟨hle, hpa, -⟩ := ms4Polders_facts hq
  have hunit : ∀ off ∈ [Reg.POL_STATE, Reg.POL_SAVE_STAT], ((unitAt off).any fun u => unitPolder u == q) = false := by
    have hzero : ∀ off ∈ [Reg.POL_STATE, Reg.POL_SAVE_STAT], ((unitAt off).map unitPolder) = some polPA := by decide
    intro off ho
    have h := hzero off ho
    obtain ⟨u, hu, hup⟩ := Option.map_eq_some_iff.1 h
    rw [hu, Option.any_some, hup]
    exact beq_false_of_ne hpa.symm
  unfold State.gatePolder
  extract_lets s1 s2 s3
  have hlogs : OnlyLogs s s1 := (s.marker_onlyLogs 3 q 3).trans (State.setReg_onlyLogs _ _ _)
  have hstat1 : s1.reg Reg.POL_SAVE_STAT = s.reg Reg.POL_SAVE_STAT :=
    (State.reg_setReg _ _ _ _).trans ((if_neg (by decide)).trans (s.marker_regsKept 3 q 3 _ (by decide)))
  have hpol1 (p : Nat) : s1.polder p = if p = q then 0 else s.polder p := by
    refine (State.polder_setPolder _ 0 hle p).trans ?_
    rw [State.polder_marker]
  have hreg2 : ∀ off ∈ [Reg.POL_STATE, Reg.POL_SAVE_STAT], s2.reg off = s1.reg off := fun off ho => s1.clearUnitsOf_reg _ (hunit off ho)
  have hreg3 : ∀ off ∈ [Reg.POL_STATE, Reg.POL_SAVE_STAT], s3.reg off = s2.reg off := by
    intro off ho
    refine (State.reg_setReg _ _ _ _).trans (if_neg ?_)
    have hsmall : ∀ x ∈ [Reg.POL_STATE, Reg.POL_SAVE_STAT], x < Reg.POL_CLK := by decide
    have := hsmall off ho
    omega
  have h12 : Sleeps s1 s2 := ⟨rfl, rfl, rfl, hreg2 _ (by decide)⟩
  have h23 : Sleeps s2 s3 := ⟨rfl, rfl, rfl, hreg3 _ (by decide)⟩
  have h34 : Sleeps s3 (s3.setPower { s3.power with onPll := putBit s3.power.onPll q false }) := ⟨rfl, rfl, rfl, rfl⟩
  refine ⟨(((hlogs.sleeps hstat1).trans h12).trans h23).trans h34, fun p => ?_⟩
  have h3 : s3.polder p = s1.polder p := State.polder_of_reg ((hreg3 _ (by decide)).trans (hreg2 _ (by decide))) p
  exact h3.trans (hpol1 p)

/-- The polders of MS4 are gated one after another. -/
theorem State.gateAll_facts {l : List Nat} (hl : ∀ q ∈ l, q ∈ ms4Polders) : Sleeps s (l.foldl (fun (s : State) p => s.gatePolder p) s) ∧
    ∀ p, (l.foldl (fun (s : State) p => s.gatePolder p) s).polder p = if p ∈ l then 0 else s.polder p := by
  induction l generalizing s with
  | nil => exact ⟨⟨rfl, rfl, rfl, rfl⟩, fun p => rfl⟩
  | cons q l ih =>
    obtain ⟨hsl, hpol⟩ := s.gatePolder_facts (hl q List.mem_cons_self)
    obtain ⟨hsl', hpol'⟩ := ih (s.gatePolder q) fun x hx => hl x (List.mem_cons_of_mem _ hx)
    refine ⟨hsl.trans hsl', fun p => ?_⟩
    rw [List.foldl_cons, hpol', hpol]
    by_cases hp : p ∈ l
    · rw [if_pos hp, if_pos (List.mem_cons_of_mem _ hp)]
    · by_cases hpq : p = q
      · rw [if_neg hp, if_pos hpq, if_pos (hpq ▸ List.mem_cons_self)]
      · rw [if_neg hp, if_neg hpq, if_neg fun h => (List.mem_cons.1 h).elim hpq hp]

end

/-- The state whose polders MS4 gates: the list is written, and the cores and most of the network are lost. -/
def State.asleepCores (s : State) : State :=
  let s := s.setFld Reg.POL_PAD_HELD ((BitVec.ofNat 11 (s.fld Reg.POL_PAD_HELD)) ||| 0x508#11).toNat
  { s with
    cores := Vector.replicate 16 Core.reset, rings := [], turns := [], mash := { s.mash with models := [] }, sets := [], vocabs := []
    texts := [], store := ⟨[], [], []⟩, fetch := { s.fetch with cache := [] }
    net := { Net.reset with qps := s.net.qps, regions := s.net.regions, inbox := s.net.inbox, sent := s.net.sent
                            pauses := s.net.pauses, punted := s.net.punted }
    power := { s.power with txDisable := true, coreReset := 0 } }

/-- The last steps of an entry to MS4: the trace is lost, PF stops and the mode is shown. -/
def State.sleepEnd (s : State) : State :=
  let s := (s.loseTrace.stopPolder polPF 3).setMode 4
  (((s.setFld Reg.POL_MODE_TARGET 0).setFlag Reg.POL_MODE_BUSY false).count unitPOL 0 1).setPhase .asleep

theorem State.sleep_eq (s : State) :
    s.sleep = ((ms4Polders.reverse).foldl (fun (s : State) p => s.gatePolder p) s.writeSave.asleepCores).sleepEnd := rfl

theorem State.asleepCores_sleeps (s : State) : Sleeps s s.asleepCores :=
  ⟨rfl, rfl, rfl, (State.reg_setFld s _ _ _).trans (if_neg (by decide))⟩

theorem State.sleepEnd_facts (s : State) : Sleeps s s.sleepEnd ∧ s.sleepEnd.power.phase = .asleep ∧ s.sleepEnd.fld Reg.POL_MODE_CUR = 4 ∧
    ∀ p, p ≠ polPF → s.sleepEnd.polder p = s.polder p := by
  unfold State.sleepEnd
  extract_lets u
  have hstop : OnlyLogs s (s.loseTrace.stopPolder polPF 3) := (OnlyLogs.ofTrace s _).trans (State.stopPolder_onlyLogs _ _ _)
  have hstat : (s.loseTrace.stopPolder polPF 3).reg Reg.POL_SAVE_STAT = s.reg Reg.POL_SAVE_STAT :=
    State.stopPolder_reg _ _ _ (by decide) (by decide) (by decide)
  have hpol {p : Nat} (hp : p ≠ polPF) : (s.loseTrace.stopPolder polPF 3).polder p = s.polder p := State.stopPolder_polder_of_ne _ hp 3
  have hcur : u.fld Reg.POL_MODE_CUR = 4 := State.setMode_cur _ (by decide)
  have honly : OnlyLogs s u := hstop.trans (State.setMode_onlyLogs _ 4)
  have hmode : RegsBut [Reg.POL_MODE, Reg.HST_PWR] (s.loseTrace.stopPolder polPF 3) u := State.setMode_regsBut _ 4
  clear_value u
  have hend : RegsBut [Reg.POL_MODE] u ((u.setFld Reg.POL_MODE_TARGET 0).setFlag Reg.POL_MODE_BUSY false) :=
    (RegsBut.setFld _ _ (by decide)).trans (RegsBut.setFlag _ _ (by decide))
  have hcur' : ((u.setFld Reg.POL_MODE_TARGET 0).setFlag Reg.POL_MODE_BUSY false).fld Reg.POL_MODE_CUR = 4 :=
    (State.fld_setFld_of_disjoint _ _ _ _ (by decide)).trans ((State.fld_setFld_of_disjoint _ _ _ _ (by decide)).trans hcur)
  have honly' : OnlyLogs u ((u.setFld Reg.POL_MODE_TARGET 0).setFlag Reg.POL_MODE_BUSY false) :=
    (u.setFld_onlyLogs _ _).trans (State.setFlag_onlyLogs _ _ _)
  generalize (u.setFld Reg.POL_MODE_TARGET 0).setFlag Reg.POL_MODE_BUSY false = v at hend hcur' honly'
  have hcount := v.count_onlyLogs unitPOL 0 1
  have hreg {off : Nat} (h : off ∉ Reg.FLT_LOG_HEAD :: logRegisters) := v.count_reg h unitPOL 0 1
  have hall := (honly.trans honly').trans hcount
  refine ⟨?_, rfl, (congrArg (natAt · _ _) (hreg (by decide))).trans hcur', fun p hp => ?_⟩
  · refine (hall.sleeps ?_).trans ⟨rfl, rfl, rfl, rfl⟩
    rw [hreg (by decide), hend _ (by decide), hmode _ (by decide), hstat]
  · rw [State.setPhase_polder, State.polder_of_reg (hreg (by decide)), hend.polder (by decide), hmode.polder (by decide), hpol hp]

/-- MS4 entered: the list is good, its polders are gated, and DRAM and the GTC go on. -/
theorem State.sleep_facts (s : State) : s.sleep.power.phase = .asleep ∧ s.sleep.fld Reg.POL_MODE_CUR = 4 ∧
    (∀ p ∈ ms4Polders, s.sleep.polder p = 0) ∧ s.sleep.saveGood = true ∧ s.sleep.flag Reg.POL_SAVE_STAT_VALID = true ∧
    s.sleep.dram = s.dram ∧ s.sleep.gtc = s.gtc := by
  obtain ⟨hsave, hgood, hvalid⟩ := s.writeSave_facts
  have hcores := s.writeSave.asleepCores_sleeps
  obtain ⟨hgate, hpol⟩ := s.writeSave.asleepCores.gateAll_facts (l := ms4Polders.reverse) fun q hq => List.mem_reverse.1 hq
  rw [s.sleep_eq]
  generalize (ms4Polders.reverse).foldl (fun (s : State) p => s.gatePolder p) s.writeSave.asleepCores = g at hgate hpol ⊢
  obtain ⟨hend, hphase, hcur, hpolEnd⟩ := g.sleepEnd_facts
  have hall := (hcores.trans hgate).trans hend
  refine ⟨hphase, hcur, fun p hp => ?_, ?_, (congrArg (bitAt · 31) hall.stat).trans hvalid, hall.dram.trans hsave.dram,
    hall.gtc.trans hsave.gtc⟩
  · rw [hpolEnd p (ms4Polders_facts hp).2.2, hpol, if_pos (List.mem_reverse.2 hp)]
  · rw [State.saveGood_eq, hall.save]
    exact hgood

theorem execMs4Entry_sleeps {s : State} (hphase : s.power.phase = .entering) (h0 : s.coreWaits 0 = true) (h1 : s.coreWaits 1 = true) :
    exec .ms4Entry s = .next s.sleep := by
  change execMs4Entry s = _
  unfold execMs4Entry
  rw [hphase, h0, h1]
  rfl


/-! ## The exit from MS4 (R494, R496) -/

/-- The registers that the end of the wake ladder writes, but for those of the polders' clocks. -/
def exitRegisters : List Nat := [Reg.POL_STATE, Reg.POL_CORE_RST, Reg.POL_MODE, Reg.HST_PWR]

/-- The registers of PA that a wake must show at its end. -/
def wakeRegisters : List Nat := [Reg.POL_SAVE_STAT, Reg.POL_ERR_CNT]

theorem State.resumePolder_wakeRegs (s : State) (q kind : Nat) {off : Nat} (h : off ∈ wakeRegisters) :
    (s.resumePolder q kind).reg off = s.reg off := by
  have hfacts : ∀ x ∈ wakeRegisters, x ∉ logRegisters ∧ x < Reg.POL_CLK ∧ x ≠ Reg.POL_STATE := by decide
  obtain ⟨hlog, hlt, hstate⟩ := hfacts off h
  have hclk : off ≠ Reg.POL_CLK + 4 * q := by omega
  rw [s.resumePolder_regsKept q kind _ hlog]
  exact (State.reg_setFld _ _ _ _).trans ((if_neg hclk).trans ((State.reg_setReg _ _ _ _).trans (if_neg hstate)))

/-- The polders of MS4 run again. -/
def State.runMs4 (s : State) : State := ms4Polders.foldl (fun (s : State) p => s.resumePolder p 3) s

section
variable (s : State)

theorem State.runMs4_onlyLogs : OnlyLogs s s.runMs4 :=
  List.foldlRecOn (motive := OnlyLogs s) _ _ (OnlyLogs.refl s) fun t ht p _ => ht.trans (t.resumePolder_onlyLogs p 3)

theorem State.runMs4_wakeRegs {off : Nat} (h : off ∈ wakeRegisters) : s.runMs4.reg off = s.reg off :=
  List.foldlRecOn (motive := fun t : State => t.reg off = s.reg off) _ _ rfl fun t ht p _ => (t.resumePolder_wakeRegs p 3 h).trans ht

theorem State.runMs4_polder {p : Nat} (hp : p ∈ ms4Polders) : s.runMs4.polder p = 3 := by
  refine foldl_once (a := p) (I := fun _ => True) (P := fun t => t.polder p = 3) (fun _ _ _ _ => trivial) ?_ ?_ (by decide) hp trivial
  · intro t _
    exact (t.resumePolder_polder (ms4Polders_facts hp).1 3 p).trans (if_pos rfl)
  · intro t q hq ht
    exact (t.resumePolder_polder_of_ne hq.symm 3).trans ht

/-- What the end of the wake ladder leaves. -/
theorem State.endExit_facts : OnlyPower s s.endExit ∧ s.endExit.power = { s.power with phase := .on } ∧ s.endExit.fld Reg.POL_MODE_CUR = 0 ∧
    s.endExit.reg Reg.POL_CORE_RST = 3 ∧ (∀ p ∈ ms4Polders, s.endExit.polder p = 3) ∧
    ∀ off ∈ wakeRegisters, s.endExit.reg off = s.reg off := by
  have heq : s.endExit = (((((ms4Polders.foldl (fun (s : State) p => s.setPolder p 3) s).runMs4.setReg Reg.POL_CORE_RST 3).setMode 0).setFlag
      Reg.POL_MODE_BUSY false).count unitPOL 1 1).setPhase .on := rfl
  have hset : OnlyLogs s (ms4Polders.foldl (fun (s : State) p => s.setPolder p 3) s) := State.foldl_setPolder_onlyLogs 3 _ s
  have hsetRegs : RegsBut [Reg.POL_STATE] s (ms4Polders.foldl (fun (s : State) p => s.setPolder p 3) s) :=
    RegsBut.foldl (fun t p _ => RegsBut.setReg t _ (by decide)) s
  rw [heq]
  generalize ms4Polders.foldl (fun (s : State) p => s.setPolder p 3) s = v at hset hsetRegs
  have hrun := v.runMs4_onlyLogs
  have hrunRegs {off : Nat} (h : off ∈ wakeRegisters) := v.runMs4_wakeRegs h
  have hpol {p : Nat} (hp : p ∈ ms4Polders) := v.runMs4_polder hp
  generalize v.runMs4 = u at hrun hrunRegs hpol
  have hmode : OnlyLogs u (((u.setReg Reg.POL_CORE_RST 3).setMode 0).setFlag Reg.POL_MODE_BUSY false) :=
    ((u.setReg_onlyLogs _ _).trans (State.setMode_onlyLogs _ 0)).trans (State.setFlag_onlyLogs _ _ _)
  have hmodeRegs : RegsBut [Reg.POL_CORE_RST, Reg.POL_MODE, Reg.HST_PWR] u
      (((u.setReg Reg.POL_CORE_RST 3).setMode 0).setFlag Reg.POL_MODE_BUSY false) :=
    ((RegsBut.setReg _ _ (by decide)).trans ((State.setMode_regsBut _ 0).mono (by decide))).trans (RegsBut.setFlag _ _ (by decide))
  have hcur : (((u.setReg Reg.POL_CORE_RST 3).setMode 0).setFlag Reg.POL_MODE_BUSY false).fld Reg.POL_MODE_CUR = 0 :=
    (State.fld_setFld_of_disjoint _ _ _ _ (by decide)).trans (State.setMode_cur _ (by decide))
  have hrst : (((u.setReg Reg.POL_CORE_RST 3).setMode 0).setFlag Reg.POL_MODE_BUSY false).reg Reg.POL_CORE_RST = 3 :=
    (RegsBut.setFlag (l := [Reg.POL_MODE]) _ _ (by decide) _ (by decide)).trans
      ((State.setMode_regsBut _ 0 _ (by decide)).trans (State.reg_setReg_self _ _ _))
  generalize ((u.setReg Reg.POL_CORE_RST 3).setMode 0).setFlag Reg.POL_MODE_BUSY false = w at hmode hmodeRegs hcur hrst
  have hcount := w.count_onlyLogs unitPOL 1 1
  have hreg {off : Nat} (h : off ∉ Reg.FLT_LOG_HEAD :: logRegisters) := w.count_reg h unitPOL 1 1
  have hall := ((hset.trans hrun).trans hmode).trans hcount
  have hnot : ∀ off ∈ wakeRegisters, off ∉ Reg.FLT_LOG_HEAD :: logRegisters ∧ off ∉ [Reg.POL_CORE_RST, Reg.POL_MODE, Reg.HST_PWR] ∧
    off ∉ [Reg.POL_STATE] := by decide
  refine ⟨hall.onlyPower.trans (State.setPower_onlyPower _ _), congrArg (fun x : Power => { x with phase := .on }) hall.power,
    (congrArg (natAt · _ _) (hreg (by decide))).trans hcur, (hreg (by decide)).trans hrst, fun p hp => ?_, fun off ho => ?_⟩
  · rw [State.setPhase_polder, State.polder_of_reg (hreg (by decide)), hmodeRegs.polder (by decide), hpol hp]
  · obtain ⟨hn1, hn2, hn3⟩ := hnot off ho
    exact (hreg hn1).trans ((hmodeRegs _ hn2).trans ((hrunRegs ho).trans (hsetRegs _ hn3)))

/-! ## The save list restored (R496) -/

/-- The registers of the save list, restored from its sixth area. -/
def State.restoreRegs (s : State) (m : Mem) : State :=
  savedRegs.zipIdx.foldl (fun (s : State) e => s.setReg e.1 (BitVec.ofNat 32 (Mem.readLe m (0x7700 + 4 * e.2) 4))) s

theorem State.restoreRegs_onlyLogs (m : Mem) : OnlyLogs s (s.restoreRegs m) :=
  List.foldlRecOn (motive := OnlyLogs s) _ _ (OnlyLogs.refl s) fun t ht _ _ => ht.trans (t.setReg_onlyLogs _ _)

theorem State.restoreRegs_regsBut (m : Mem) : RegsBut savedRegs s (s.restoreRegs m) := by
  refine RegsBut.foldl (fun t e he => RegsBut.setReg t _ ?_) s
  exact List.fst_mem_of_mem_zipIdx he

theorem savedRegs_nodup : savedRegs.Nodup := by decide

theorem State.restoreRegs_reg (m : Mem) {i o : Nat} (h : savedRegs[i]? = some o) :
    (s.restoreRegs m).reg o = BitVec.ofNat 32 (Mem.readLe m (0x7700 + 4 * i) 4) := by
  have hmem : (o, i) ∈ savedRegs.zipIdx := List.mem_zipIdx_iff_getElem?.2 h
  have hnd : (savedRegs.zipIdx.map Prod.fst).Nodup := by
    rw [List.zipIdx_map_fst]
    exact savedRegs_nodup
  have hread := (read_foldl_writes (f := fun (s : State) (e : Nat × Nat) => s.setReg e.1 (BitVec.ofNat 32 (Mem.readLe m (0x7700 + 4 * e.2) 4)))
    (read := State.reg) (key := Prod.fst) (g := fun e _ => BitVec.ofNat 32 (Mem.readLe m (0x7700 + 4 * e.2) 4)) (I := fun _ => True)
    (fun _ _ _ => trivial) (fun t e j _ => t.reg_setReg _ _ _) savedRegs.zipIdx s trivial hnd).1 (o, i) hmem
  exact hread

/-- The rings and the sub-port words of the save list are restored before its registers. -/
theorem State.restoreSave_eq : ∃ rings net, s.restoreSave = State.restoreRegs { s with rings := rings, net := net } s.power.save := by
  have hrings (n : Nat) (m : Mem) (t : State) : ∃ rings, (List.range n).foldl (fun (s : State) i =>
      { s with
        rings := Table.write Ring.reset s.rings (leAt (Mem.bytes m (0x100 + 48 * i) 48) 0 4 % 2 ^ 14)
          (Ring.restored (Mem.bytes m (0x100 + 48 * i) 48)) }) t = { t with rings := rings } :=
    List.foldlRecOn (motive := fun u : State => ∃ rings, u = { t with rings := rings }) _ _ ⟨t.rings, rfl⟩ fun u hu i _ => by
      obtain ⟨rings, rfl⟩ := hu
      exact ⟨_, rfl⟩
  obtain ⟨rings, heq⟩ := hrings (Mem.readLe s.power.save 4 4) s.power.save s
  unfold State.restoreSave State.restoreRegs
  dsimp only
  rw [heq]
  exact ⟨_, _, rfl⟩

end

/-! ## The end of the wake ladder (R496) -/

section
variable (s : State)

theorem savedRegs_disjoint : Reg.POL_MODE ∉ savedRegs ∧ Reg.POL_CORE_RST ∉ savedRegs ∧ Reg.POL_STATE ∉ savedRegs := by decide

/-- The save list restored at the end of the wake ladder. -/
theorem State.endExit_restoreSave : s.endExit.restoreSave.power.phase = .on ∧ s.endExit.restoreSave.fld Reg.POL_MODE_CUR = 0 ∧
    s.endExit.restoreSave.reg Reg.POL_CORE_RST = 3 ∧ (∀ p ∈ ms4Polders, s.endExit.restoreSave.polder p = 3) ∧
    (∀ i o, savedRegs[i]? = some o → s.endExit.restoreSave.reg o = BitVec.ofNat 32 (Mem.readLe s.power.save (0x7700 + 4 * i) 4)) ∧
    s.endExit.restoreSave.dram = s.dram ∧ s.endExit.restoreSave.gtc = s.gtc := by
  obtain ⟨honly, hpower, hcur, hrst, hpol, -⟩ := s.endExit_facts
  obtain ⟨rings, net, heq⟩ := s.endExit.restoreSave_eq
  have hsave : s.endExit.power.save = s.power.save := (congrArg Power.save hpower :)
  rw [hsave] at heq
  rw [heq]
  generalize s.endExit = t at *
  have hlogs := State.restoreRegs_onlyLogs { t with rings := rings, net := net } s.power.save
  have hregs := State.restoreRegs_regsBut { t with rings := rings, net := net } s.power.save
  have hread {i o : Nat} := State.restoreRegs_reg { t with rings := rings, net := net } s.power.save (i := i) (o := o)
  generalize State.restoreRegs { t with rings := rings, net := net } s.power.save = u at *
  obtain ⟨hmode, hcore, hstate⟩ := savedRegs_disjoint
  refine ⟨(congrArg Power.phase hlogs.power).trans (congrArg Power.phase hpower :), (hregs.fld hmode).trans hcur,
    (hregs _ hcore).trans hrst, fun p hp => (hregs.polder hstate p).trans (hpol p hp), fun i o h => hread h,
    hlogs.dram.trans honly.dram, hlogs.gtc.trans honly.gtc⟩

/-- The state in which the failure of a restore is noted. -/
def State.restoreFailed : State := (s.setFlag Reg.POL_SAVE_STAT_CRC_FAIL true).errAdd Reg.POL_ERR_CNT_RESTORE_FAIL 1

theorem State.restoreFailed_facts : s.restoreFailed.gtc = s.gtc ∧ s.restoreFailed.flag Reg.POL_SAVE_STAT_CRC_FAIL = true ∧
    s.restoreFailed.fld Reg.POL_ERR_CNT_RESTORE_FAIL = Min.min 0xFFFF (s.fld Reg.POL_ERR_CNT_RESTORE_FAIL + 1) := by
  unfold State.restoreFailed State.errAdd
  have hfld : (s.setFlag Reg.POL_SAVE_STAT_CRC_FAIL true).fld Reg.POL_ERR_CNT_RESTORE_FAIL = s.fld Reg.POL_ERR_CNT_RESTORE_FAIL :=
    (RegsBut.setFlag (l := [Reg.POL_SAVE_STAT]) s true (by decide)).fld (by decide)
  have hlt : Min.min 0xFFFF (s.fld Reg.POL_ERR_CNT_RESTORE_FAIL + 1) < 2 ^ 16 := by omega
  rw [hfld]
  refine ⟨rfl, ?_, (State.fld_setFld_self _ _ _ (by decide)).trans (Nat.mod_eq_of_lt hlt)⟩
  exact ((RegsBut.setFld (l := [Reg.POL_ERR_CNT]) _ _ (by decide)).flag (by decide)).trans (State.flag_setFlag_self _ _ _ rfl (by decide))

/-- A list that fails its checks makes a warm reset, which keeps the flag and the error counter. -/
theorem State.restoreFailed_warmReset : ((s.restoreFailed).endExit.warmReset true).flag Reg.POL_SAVE_STAT_CRC_FAIL = true ∧
    ((s.restoreFailed).endExit.warmReset true).fld Reg.POL_ERR_CNT_RESTORE_FAIL =
      Min.min 0xFFFF (s.fld Reg.POL_ERR_CNT_RESTORE_FAIL + 1) ∧
    ((s.restoreFailed).endExit.warmReset true).dram = [] ∧ ((s.restoreFailed).endExit.warmReset true).gtc = s.gtc := by
  obtain ⟨hgtc, hflag, hcount⟩ := s.restoreFailed_facts
  obtain ⟨honly, -, -, -, -, hwake⟩ := s.restoreFailed.endExit_facts
  have hwarm := s.restoreFailed.endExit.warmReset_warm
  have hstat : s.restoreFailed.endExit.flag Reg.POL_SAVE_STAT_CRC_FAIL = s.restoreFailed.flag Reg.POL_SAVE_STAT_CRC_FAIL :=
    congrArg (bitAt · _) (hwake _ (by decide))
  refine ⟨hwarm.crcFail.trans (hstat.trans hflag), ?_, hwarm.dram, hwarm.gtc.trans (honly.gtc.trans hgtc)⟩
  exact (congrArg (natAt · _ _) (hwarm.errCnt.trans (hwake _ (by decide)))).trans hcount

end

section
variable {s : State} (hphase : s.power.phase = .ladder .wake) (hdone : s.ladderDone 0 = true)
include hphase hdone

theorem execMs4Exit_restores (hgood : s.saveGood = true) (loader : Bool) : exec (.ms4Exit false loader) s = .next s.endExit.restoreSave := by
  change execMs4Exit false loader s = _
  unfold execMs4Exit
  rw [hphase]
  dsimp only
  rw [hdone, hgood]
  rfl

theorem execMs4Exit_resets {ecc : Bool} (hbad : s.saveGood = false ∨ ecc = true) (loader : Bool) :
    exec (.ms4Exit ecc loader) s = .next (s.restoreFailed.endExit.warmReset loader) := by
  have hfails : (s.saveGood && !ecc) = false := by
    rcases hbad with h | h
    · rw [h, Bool.false_and]
    · rw [h, Bool.not_true, Bool.and_false]
  change execMs4Exit ecc loader s = _
  unfold execMs4Exit
  rw [hphase]
  dsimp only
  rw [hdone, hfails]
  rfl

end

theorem execPowerStateChange_sets {s : State} (hon : s.power.phase = .on) (hstate : s.moduleState ≤ 2) (hcur : s.fld Reg.POL_MODE_CUR ≠ 3) :
    exec .powerStateChange s = .next (s.setMode s.moduleState) := by
  rw [execPowerStateChange_on hon, if_pos hstate, if_neg hcur]

/-- Settles O49: each command of the power states makes one of the changes above. -/
theorem powerStates_hold : Obligations.PowerStates := by
  unfold Obligations.PowerStates
  refine ⟨fun s hon => ⟨fun hm hcur => ?_, fun hm hcur i hi => ?_, fun hm hcur i hi => ?_, fun cause hheld hcause => ?_,
      fun hheld hnone => ?_⟩, fun s hphase h0 h1 => ?_, fun s hphase => ⟨fun addr haddr => ?_, fun hen => ?_, fun hen hat => ?_,
      fun ecc loader hpend => ?_⟩, fun s addr hphase haddr => execSidebandMatch_off hphase haddr,
    fun s hon hcur => ⟨fun hen => ?_, fun hen hat => ?_⟩, fun s hphase hdone => ⟨fun hgood loader => ?_, fun ecc hbad => ?_⟩⟩
  · exact ⟨_, execPowerStateChange_sets hon hm hcur, s.setMode_cur (by omega), s.setMode_ps (by omega), rfl⟩
  · obtain ⟨honly, hmode, hps, hstops⟩ := s.enterMs3_facts
    exact ⟨_, exec_entersMs3 hon hm hcur hi, hmode, hps, hstops, honly.gtc, honly.dram, honly.cores, honly.rings⟩
  · obtain ⟨honly, hmode, hruns⟩ := s.leaveMs3_facts (m := s.moduleState) (by omega)
    exact ⟨_, exec_leavesMs3 hon hm hcur hi, hmode, hruns, honly.gtc, honly.dram, honly.cores, honly.rings⟩
  · exact execMs4Entry_refuses hon hheld hcause
  · exact execMs4Entry_tells hon hheld hnone
  · exact ⟨_, execMs4Entry_sleeps hphase h0 h1, s.sleep_facts⟩
  · exact ⟨_, execSidebandMatch_asleep hphase haddr, s.wake_wakes hphase (by decide)⟩
  · exact ⟨_, execPcieWake_asleep hphase hen, s.wake_wakes hphase (by decide)⟩
  · exact ⟨_, execGtcWake_asleep hphase hen hat, s.wake_wakes hphase (by decide)⟩
  · obtain ⟨honly, hladder, -, -⟩ := s.beginExit_facts
    exact ⟨_, execMs4Exit_begins hphase hpend, hladder, honly.dram⟩
  · exact ⟨_, execPcieWake_on hon hcur hen, s.wake_endsMs3 hon (by omega)⟩
  · exact ⟨_, execGtcWake_on hon hcur hen hat, s.wake_endsMs3 hon (by omega)⟩
  · exact ⟨_, execMs4Exit_restores hphase hdone hgood loader, s.endExit_restoreSave⟩
  · exact ⟨_, execMs4Exit_resets hphase hdone hbad true, s.restoreFailed_warmReset⟩

end Sys2Proof.Machine

/-!
SUPPORT. The debug port's scans, the trace buffer, its trigger and port, and register writes by access codes (O53).
-/

namespace Sys2Proof.Machine

/-! ## Scans of the debug port (R575 to R578) -/

/-- The machine once a scan has shifted out the response to the previous request. -/
def State.dapShifted (s : State) : State := s.setDap { s.dap with ir := 0x10, out := s.dap.out ++ [s.dap.response] }

/-- The machine once a request has ended with a response. -/
def State.dapEnded (s : State) (response : BitVec 120) : State := s.setDap { s.dap with response := response, waiting := none }

section
variable {s : State} (hpg : s.polderOn polPG = true) (hwait : s.dap.waiting = none)
include hpg hwait

theorem State.dapScan_starts (r : DapRequest) : s.dapScan r = s.dapShifted.dapStart r := by
  have hidle : s.dapShifted.dap.waiting.isSome = false := congrArg Option.isSome hwait
  unfold State.dapScan
  rw [hpg, hwait]
  change (if s.dapShifted.dap.waiting.isSome = true then s.dapShifted else s.dapShifted.dapStart r) = _
  rw [hidle]
  rfl

/-- A request that ends at once leaves its response for the next scan. -/
theorem State.dapScan_ends {r : DapRequest} {result : Nat} {data : Word64} {t : State} (h : s.dapShifted.dapRun r = .ends result data t) :
    s.dapScan r = t.dapEnded (dapResponse result data) := by
  rw [State.dapScan_starts hpg hwait]
  unfold State.dapStart
  rw [h]
  rfl

end

theorem State.dapRun_locked {s : State} {r : DapRequest} (h : s.dapOpen r.space = false) : s.dapRun r = .ends dapLOCKED 0 s := by
  unfold State.dapRun
  rw [h]
  rfl

section
variable {s : State}

/-! ### The spaces behind the unlock -/

theorem State.dapRun_register {r : DapRequest} (hopen : s.dapOpen 0 = true) (h : r.space = 0) : s.dapRun r = s.dapRegister r := by
  unfold State.dapRun
  rw [h, hopen]
  rfl

theorem State.dapRun_memory {r : DapRequest} (hopen : s.dapOpen 1 = true) (h : r.space = 1) : s.dapRun r = s.dapMemory r := by
  unfold State.dapRun
  rw [h, hopen]
  rfl

theorem State.dapRun_core {r : DapRequest} (hopen : s.dapOpen 2 = true) (h : r.space = 2) : s.dapRun r = s.dapCore r := by
  unfold State.dapRun
  rw [h, hopen]
  rfl

/-! ### Registers of cores (R577) -/

/-- The fields of the address of a core's register. -/
theorem dapCore_fields (c : CoreId) {n : Nat} (hn : n < 65536) : natAt (BitVec.ofNat 48 (n + c.val * 65536)) 0 16 = n ∧
    natAt (BitVec.ofNat 48 (n + c.val * 65536)) 16 4 = c.val ∧ natAt (BitVec.ofNat 48 (n + c.val * 65536)) 20 28 = 0 := by
  have hc := c.isLt
  have hval : (BitVec.ofNat 48 (n + c.val * 65536)).toNat = n + c.val * 65536 :=
    (BitVec.toNat_ofNat _ _).trans (Nat.mod_eq_of_lt (by omega))
  unfold natAt
  rw [hval]
  omega

section
variable {c : CoreId} {n : Nat} (hn : n < 65536) (write : Bool) (data : Word64)
include hn

theorem State.dapCore_halted {v : Word64} (hhalt : (s.core c).halted = true) (hread : s.dapCoreRead c n = some v) :
    s.dapCore ⟨write, 2, BitVec.ofNat 48 (n + c.val * 65536), data⟩ =
      if !write then .ends dapOK v s
      else if 0x1000 ≤ n ∧ csrReadOnly (n - 0x1000) = true then .ends dapERROR 0 s
      else .ends dapOK 0 (s.setCore c ((s.core c).dapWrite n data)) := by
  obtain ⟨hnum, hcore, hzero⟩ := dapCore_fields c hn
  have hid : (⟨natAt (BitVec.ofNat 48 (n + c.val * 65536)) 16 4, Nat.mod_lt _ (by decide)⟩ : CoreId) = c := Fin.ext hcore
  unfold State.dapCore
  dsimp only
  rw [hid, hnum, hhalt, hzero, hread]
  exact if_neg (by rintro (h | h) <;> exact absurd h (by decide))

theorem State.dapCore_running (hrun : (s.core c).halted = false) :
    s.dapCore ⟨write, 2, BitVec.ofNat 48 (n + c.val * 65536), data⟩ = .ends dapERROR 0 s := by
  have hid : (⟨natAt (BitVec.ofNat 48 (n + c.val * 65536)) 16 4, Nat.mod_lt _ (by decide)⟩ : CoreId) = c := Fin.ext (dapCore_fields c hn).2.1
  unfold State.dapCore
  dsimp only
  rw [hid]
  exact if_pos (.inl hrun)

end

/-! ### Memory and BAR2 (R578) -/

section
variable {addr : BitVec 48} (data : Word64)

theorem State.dapMemory_reads (hal : addr.toNat % 8 = 0) (hmap : s.mapAllows privM .load addr.toNat 8 false = true)
    (herr : s.hasDataError addr.toNat 8 = false) :
    s.dapMemory ⟨false, 1, addr, data⟩ = .ends dapOK (BitVec.ofNat 64 (leNat (s.physBytes addr.toNat 8))) s := by
  unfold State.dapMemory
  dsimp only
  rw [if_neg (by decide : ¬ (false = true)), hal, hmap, herr]
  rfl

theorem State.dapMemory_writes (hal : addr.toNat % 8 = 0) (hmap : s.mapAllows privM .store addr.toNat 8 false = true) :
    s.dapMemory ⟨true, 1, addr, data⟩ = .ends dapOK 0 (s.writeDram addr.toNat (leBytes 8 data.toNat)) := by
  unfold State.dapMemory
  dsimp only
  rw [if_pos rfl, hal, hmap]
  refine (if_neg ?_).trans (if_pos rfl)
  rintro (h | h | h)
  · exact h rfl
  · exact absurd h (by decide)
  · exact absurd h.2 (by decide)

/-- A register in a polder that is ON is reached at once. -/
theorem State.regDoor_on (host : Bool) {off p : Nat} (hp : (unitAt off).map unitPolder = some p) (hon : s.polderOn p = true) :
    s.regDoor host off = .opens s := by
  unfold State.regDoor
  rw [hp]
  exact if_pos (.inr (.inr hon))

variable {off p : Nat} (hoff : addr.toNat = off) (hal : off % 4 = 0) (hlt : off < 0x08000000) (hp : (unitAt off).map unitPolder = some p)
  (hon : s.polderOn p = true)
include hoff hal hlt hp hon

theorem State.dapRegister_opens (write : Bool) : s.dapRegister ⟨write, 0, addr, data⟩ =
    if write then .ends dapOK 0 (s.writeReg .debugPort off (data.setWidth 32))
    else .ends dapOK ((s.readReg off).1.setWidth 64) (s.readReg off).2 := by
  unfold State.dapRegister
  dsimp only
  rw [hoff, if_neg (by omega), State.regDoor_on false hp hon]

end
end

/-! ## What the commands of the debug port do -/

theorem execIdcode_powered {s : State} (h : s.powered = true) :
    exec .idcode s = .next (s.setDap { s.dap with ir := 0x01, out := s.dap.out ++ [BitVec.ofNat 120 s.idcode] }) := congrArg _ (if_pos h)

theorem execBypass_powered {s : State} (h : s.powered = true) {ir : BitVec 5} (h1 : ir ≠ 0x01) (h10 : ir ≠ 0x10) :
    exec (.bypass ir) s = .next { s with dap := { s.dap with ir := ir } } := by
  change execBypass ir s = _
  unfold execBypass
  rw [if_pos h, if_neg (not_or.2 ⟨h1, h10⟩)]
  rfl

section
variable {s : State} (hpg : s.polderOn polPG = true) (hwait : s.dap.waiting = none)
include hpg hwait

theorem execDapRead_ends {space : BitVec 2} {addr : BitVec 48} {result : Nat} {data : Word64} {t : State}
    (h : s.dapShifted.dapRun ⟨false, space, addr, 0⟩ = .ends result data t) :
      exec (.dapRead space addr) s = .next (t.dapEnded (dapResponse result data)) :=
  congrArg _ (State.dapScan_ends hpg hwait h)

theorem execDapWrite_ends {space : BitVec 2} {addr : BitVec 48} {value : Word64} {result : Nat} {data : Word64} {t : State}
    (h : s.dapShifted.dapRun ⟨true, space, addr, value⟩ = .ends result data t) :
    exec (.dapWrite space addr value) s = .next (t.dapEnded (dapResponse result data)) :=
  congrArg _ (State.dapScan_ends hpg hwait h)

theorem execDap_locked {space : BitVec 2} (addr : BitVec 48) (data : Word64) (hlock : s.dapOpen space = false) {i : Instr}
    (hi : i ∈ [Instr.dapRead space addr, Instr.dapWrite space addr data]) : exec i s = .next (s.dapShifted.dapEnded (dapResponse dapLOCKED 0)) := by
  have hlock' : s.dapShifted.dapOpen space = false := hlock
  rcases List.mem_cons.1 hi with rfl | hi
  · exact execDapRead_ends hpg hwait (State.dapRun_locked hlock')
  · obtain rfl := List.mem_singleton.1 hi
    exact execDapWrite_ends hpg hwait (State.dapRun_locked hlock')

section
variable {c : CoreId} {n : Nat} (hn : n < 65536) (hopen : s.dapOpen 2 = true)
include hn hopen

theorem execDapRead_core {v : Word64} (hhalt : (s.core c).halted = true) (hread : s.dapCoreRead c n = some v) :
    exec (.dapRead 2 (BitVec.ofNat 48 (n + c.val * 65536))) s = .next (s.dapShifted.dapEnded (dapResponse dapOK v)) := by
  have hread' : s.dapShifted.dapCoreRead c n = some v := hread
  exact execDapRead_ends hpg hwait ((State.dapRun_core (s := s.dapShifted) hopen rfl).trans
    (State.dapCore_halted (s := s.dapShifted) hn false 0 hhalt hread'))

theorem execDapWrite_core {v : Word64} (hhalt : (s.core c).halted = true) (hread : s.dapCoreRead c n = some v)
    (hfree : n < 0x1000 ∨ csrReadOnly (n - 0x1000) = false) (data : Word64) :
    exec (.dapWrite 2 (BitVec.ofNat 48 (n + c.val * 65536)) data) s =
      .next ((s.dapShifted.setCore c ((s.core c).dapWrite n data)).dapEnded (dapResponse dapOK 0)) := by
  have hread' : s.dapShifted.dapCoreRead c n = some v := hread
  have hnot : ¬ (0x1000 ≤ n ∧ csrReadOnly (n - 0x1000) = true) := by
    rintro ⟨hle, hro⟩
    rcases hfree with h | h
    · omega
    · rw [h] at hro
      exact absurd hro (by decide)
  refine execDapWrite_ends hpg hwait ((State.dapRun_core (s := s.dapShifted) hopen rfl).trans
    ((State.dapCore_halted (s := s.dapShifted) hn true data hhalt hread').trans ?_))
  exact if_neg hnot

theorem execDapRead_running (hrun : (s.core c).halted = false) :
    exec (.dapRead 2 (BitVec.ofNat 48 (n + c.val * 65536))) s = .next (s.dapShifted.dapEnded (dapResponse dapERROR 0)) :=
  execDapRead_ends hpg hwait ((State.dapRun_core (s := s.dapShifted) hopen rfl).trans (State.dapCore_running (s := s.dapShifted) hn false 0 hrun))

end

section
variable {addr : BitVec 48} (hopen : s.dapOpen 1 = true) (hal : addr.toNat % 8 = 0)
include hopen hal

theorem execDapRead_memory (hmap : s.mapAllows privM .load addr.toNat 8 false = true) (herr : s.hasDataError addr.toNat 8 = false) :
    exec (.dapRead 1 addr) s = .next (s.dapShifted.dapEnded (dapResponse dapOK (BitVec.ofNat 64 (leNat (s.physBytes addr.toNat 8))))) := by
  have hmap' : s.dapShifted.mapAllows privM .load addr.toNat 8 false = true := hmap
  exact execDapRead_ends hpg hwait ((State.dapRun_memory (s := s.dapShifted) hopen rfl).trans
    (State.dapMemory_reads (s := s.dapShifted) 0 hal hmap' herr))

theorem execDapWrite_memory (data : Word64) (hmap : s.mapAllows privM .store addr.toNat 8 false = true) :
    exec (.dapWrite 1 addr data) s = .next ((s.dapShifted.writeDram addr.toNat (leBytes 8 data.toNat)).dapEnded (dapResponse dapOK 0)) := by
  have hmap' : s.dapShifted.mapAllows privM .store addr.toNat 8 false = true := hmap
  exact execDapWrite_ends hpg hwait ((State.dapRun_memory (s := s.dapShifted) hopen rfl).trans
    (State.dapMemory_writes (s := s.dapShifted) data hal hmap'))

end

section
variable {addr : BitVec 48} {off p : Nat} (hopen : s.dapOpen 0 = true) (hoff : addr.toNat = off) (hal : off % 4 = 0) (hlt : off < 0x08000000)
  (hp : (unitAt off).map unitPolder = some p) (hon : s.polderOn p = true)
include hopen hoff hal hlt hp hon

theorem execDapRead_register : exec (.dapRead 0 addr) s =
    .next ((s.dapShifted.readReg off).2.dapEnded (dapResponse dapOK ((s.dapShifted.readReg off).1.setWidth 64))) := by
  have hon' : s.dapShifted.polderOn p = true := hon
  exact execDapRead_ends hpg hwait ((State.dapRun_register (s := s.dapShifted) hopen rfl).trans
    (State.dapRegister_opens 0 hoff hal hlt hp hon' false))

theorem execDapWrite_register (data : Word64) : exec (.dapWrite 0 addr data) s =
    .next ((s.dapShifted.writeReg .debugPort off (data.setWidth 32)).dapEnded (dapResponse dapOK 0)) := by
  have hon' : s.dapShifted.polderOn p = true := hon
  exact execDapWrite_ends hpg hwait ((State.dapRun_register (s := s.dapShifted) hopen rfl).trans
    (State.dapRegister_opens data hoff hal hlt hp hon' true))

end
end

/-! ## Records of the trace buffer (R579 to R587) -/

/-- The registers that a trace record writes. -/
def recordRegisters : List Nat := [Reg.FLT_OVF_PEND, Reg.DBG_STAT_WPTR.off, Reg.DBG_ERR_CNT_GAPS.off]

section
variable (s : State)

theorem State.countQuiet_trace (u k n : Nat) : (s.countQuiet u k n).1.trace = s.trace := by
  unfold State.countQuiet
  extract_lets c sum wrapped s1 s2
  split
  · split
    · rfl
    · rfl
  · rfl

theorem State.countQuiet_regsBut (u k n : Nat) : RegsBut [Reg.FLT_OVF_PEND] s (s.countQuiet u k n).1 := by
  unfold State.countQuiet
  extract_lets c sum wrapped s1 s2
  have h2 : RegsBut [Reg.FLT_OVF_PEND] s1 s2 := RegsBut.setReg s1 _ List.mem_cons_self
  split
  · split
    · exact h2
    · exact h2
  · exact RegsBut.refl _ s

theorem State.traceOverwrite_regsBut (w : Nat) : RegsBut [Reg.FLT_OVF_PEND] s (s.traceOverwrite w) := by
  unfold State.traceOverwrite
  extract_lets tr g
  exact RegsBut.ite (RegsBut.refl _ s) (RegsBut.ite (State.countQuiet_regsBut { s with trace := _ } _ _ _) (RegsBut.refl _ s))

/-- Of the trace, an overwritten record changes what the port has passed and dropped. -/
theorem State.traceOverwrite_trace (w : Nat) : ∃ passed gap,
    (s.traceOverwrite w).trace = { s.trace with passed := passed, overGap := gap } := by
  unfold State.traceOverwrite
  extract_lets tr g
  split
  · exact ⟨_, _, rfl⟩
  · split
    · exact ⟨_, _, State.countQuiet_trace _ _ _ _⟩
    · exact ⟨_, _, rfl⟩

/-- A record stored in the buffer, before the freeze that may follow it. -/
def State.traceCapture (r : TraceRec) : State :=
  let w := s.fld Reg.DBG_STAT_WPTR
  let t := s.traceOverwrite w
  let t := { t with trace := { t.trace with
    buf := Table.write TraceRec.empty t.trace.buf w r, written := t.trace.written + 1, left := s.trace.left - 1 } }
  (State.countQuiet (t.setFld Reg.DBG_STAT_WPTR ((w + 1) % traceSize)) unitDBG 0 1).1

theorem State.traceStore_eq (r : TraceRec) : s.traceStore r =
    if s.flag Reg.DBG_STAT_FROZEN then
      (State.countQuiet { s with trace := { s.trace with frozenGap := GapCount.grow s.trace.frozenGap r.gtc } } unitDBG 2 1).1
    else if s.flag Reg.DBG_CTL_CAPTURE then
      (if s.trace.left = 1 then (s.traceCapture r).setFlag Reg.DBG_STAT_FROZEN true else s.traceCapture r)
    else s := rfl

/-- What capturing one record does to the trace and to `DBG_STAT`. -/
theorem State.traceCapture_facts (r : TraceRec) : (s.traceCapture r).trace.buf =
      Table.write TraceRec.empty s.trace.buf (s.fld Reg.DBG_STAT_WPTR) r ∧
    (s.traceCapture r).trace.written = s.trace.written + 1 ∧ (s.traceCapture r).trace.left = s.trace.left - 1 ∧
    (s.traceCapture r).trace.frozenGap = s.trace.frozenGap ∧ (s.traceCapture r).trace.port = s.trace.port ∧
    (s.traceCapture r).trace.seq = s.trace.seq ∧ RegsBut recordRegisters s (s.traceCapture r) ∧
    (s.traceCapture r).reg Reg.DBG_STAT_WPTR.off =
      putBits (s.reg Reg.DBG_STAT_WPTR.off) 0 19 ((s.fld Reg.DBG_STAT_WPTR + 1) % traceSize) := by
  obtain ⟨passed, gap, htrace⟩ := s.traceOverwrite_trace (s.fld Reg.DBG_STAT_WPTR)
  have hregs := s.traceOverwrite_regsBut (s.fld Reg.DBG_STAT_WPTR)
  unfold State.traceCapture
  extract_lets w t _ u
  change t.trace = _ at htrace
  change RegsBut _ s t at hregs
  have hu := State.countQuiet_regsBut (u.setFld Reg.DBG_STAT_WPTR ((w + 1) % traceSize)) unitDBG 0 1
  have hset : RegsBut recordRegisters t (u.setFld Reg.DBG_STAT_WPTR ((w + 1) % traceSize)) := RegsBut.setFld u _ (by decide)
  rw [State.countQuiet_trace]
  refine ⟨?_, ?_, rfl, ?_, ?_, ?_, ((hregs.mono (by decide)).trans hset).trans (hu.mono (by decide)), ?_⟩
  · exact (congrArg (fun x : Trace => Table.write TraceRec.empty x.buf w r) htrace :)
  · exact (congrArg (fun x : Trace => x.written + 1) htrace :)
  · exact (congrArg Trace.frozenGap htrace :)
  · exact (congrArg Trace.port htrace :)
  · exact (congrArg Trace.seq htrace :)
  · rw [hu _ (by decide), State.reg_setFld, if_pos rfl]
    exact congrArg (putBits · 0 19 ((w + 1) % traceSize)) (hregs _ (by decide))

end

/-- The loss of a buffer is counted, since the GAP that stands for it comes now. -/
def State.lossNoted (s : State) : State := State.errAdd { s with trace := { s.trace with lostAt := none } } Reg.DBG_ERR_CNT_GAPS 1

theorem State.lossNoted_regsBut (s : State) : RegsBut [Reg.DBG_ERR_CNT_GAPS.off] s s.lossNoted :=
  RegsBut.setFld { s with trace := { s.trace with lostAt := none } } _ List.mem_cons_self

section
variable {s : State}

/-- What a stored record keeps, a written one keeps. -/
theorem State.traceWrite_keeps {P : State → Prop} (h : P s) (hloss : P s.lossNoted) (hstore : ∀ t r, P t → P (State.traceStore t r))
    (r : TraceRec) : P (s.traceWrite r) := by
  unfold State.traceWrite
  refine hstore _ _ ?_
  split
  · exact h
  · exact hstore s.lossNoted _ hloss

theorem State.traceWrite_eq (hlost : s.trace.lostAt = none) (r : TraceRec) : s.traceWrite r = s.traceStore r := by
  unfold State.traceWrite
  rw [hlost]

/-- A record that is captured: it stands at the write pointer, which moves on, and the last one after a trigger freezes the buffer. -/
theorem State.traceStore_captures (hfrozen : s.flag Reg.DBG_STAT_FROZEN = false) (hcap : s.flag Reg.DBG_CTL_CAPTURE = true) (r : TraceRec) :
    Table.at TraceRec.empty (s.traceStore r).trace.buf (s.fld Reg.DBG_STAT_WPTR) = r ∧
    (∀ k, k ≠ s.fld Reg.DBG_STAT_WPTR → Table.at TraceRec.empty (s.traceStore r).trace.buf k = Table.at TraceRec.empty s.trace.buf k) ∧
    (s.traceStore r).fld Reg.DBG_STAT_WPTR = (s.fld Reg.DBG_STAT_WPTR + 1) % 524288 ∧
    (s.traceStore r).trace.written = s.trace.written + 1 ∧
    (s.traceStore r).flag Reg.DBG_STAT_FROZEN = decide (s.trace.left = 1) := by
  obtain ⟨hbuf, hwritten, -, -, -, -, -, hreg⟩ := s.traceCapture_facts r
  have hlt : (s.fld Reg.DBG_STAT_WPTR + 1) % traceSize < 2 ^ 19 := Nat.mod_lt _ (by unfold traceSize; omega)
  have hwptr : (s.traceCapture r).fld Reg.DBG_STAT_WPTR = (s.fld Reg.DBG_STAT_WPTR + 1) % traceSize := by
    unfold State.fld at hreg ⊢
    rw [hreg]
    exact (natAt_putBits_self _ _ _ _ (by decide)).trans (Nat.mod_eq_of_lt hlt)
  have hclear : (s.traceCapture r).flag Reg.DBG_STAT_FROZEN = false := by
    refine Eq.trans ?_ hfrozen
    change bitAt ((s.traceCapture r).reg Reg.DBG_STAT_WPTR.off) 29 = bitAt (s.reg Reg.DBG_STAT_WPTR.off) 29
    rw [hreg]
    exact bitAt_putBits_of_outside _ _ (by decide) (by omega)
  have heq : s.traceStore r = if s.trace.left = 1 then (s.traceCapture r).setFlag Reg.DBG_STAT_FROZEN true else s.traceCapture r := by
    rw [State.traceStore_eq, if_neg (by rw [hfrozen]; decide), if_pos hcap]
  have htrace : (s.traceStore r).trace = (s.traceCapture r).trace := by
    rw [heq]
    split
    · rfl
    · rfl
  rw [htrace, hbuf]
  refine ⟨(Table.at_write _ _ _ _ _).trans (if_pos rfl), fun k hk => (Table.at_write _ _ _ _ _).trans (if_neg hk), ?_, hwritten, ?_⟩
  · rw [heq]
    split
    · exact (State.fld_setFld_of_disjoint _ _ _ _ (by decide)).trans hwptr
    · exact hwptr
  · rw [heq]
    by_cases hleft : s.trace.left = 1
    · rw [if_pos hleft, decide_eq_true hleft]
      exact State.flag_setFlag_self _ _ _ rfl (by decide)
    · rw [if_neg hleft, decide_eq_false hleft]
      exact hclear

/-- The record of a source in a running PG, with its type enabled and no lost buffer to stand for. -/
theorem State.emit_eq {typ b : Nat} (hb : traceEnable typ = some b) (hen : bitAt (s.reg Reg.DBG_CTL) b = true) (hpg : s.polderOn polPG = true)
    (hlost : s.trace.lostAt = none) (info : Word32) (data : BitVec 128) :
    s.emit typ polPG info data = s.traceStore ⟨BitVec.ofNat 8 typ, BitVec.ofNat 8 polPG, info, s.gtc, data⟩ := by
  unfold State.emit
  rw [hb, hpg]
  dsimp only
  rw [hen]
  exact State.traceWrite_eq hlost _

theorem execTraceSync_stores (hpg : s.polderOn polPG = true) (hlost : s.trace.lostAt = none) (hgtc : s.gtc.toNat % 2 ^ 20 = 0)
    (hen : bitAt (s.reg Reg.DBG_CTL) 1 = true) : exec .traceSync s = .next (s.traceStore ⟨5, 10, BitVec.ofNat 32 (s.fld Reg.GTC_SYNC_STATE), s.gtc,
      BitVec.ofNat 128 ((s.reg Reg.GTC_OFFSET).toNat + (s.reg Reg.GTC_RATE).toNat * 2 ^ 32 + natAt s.part.serial 0 64 * 2 ^ 64)⟩) :=
  congrArg _ ((if_pos hgtc).trans (State.emit_eq rfl hen hpg hlost _ _))

theorem execMark_stores (hpg : s.polderOn polPG = true) (hlost : s.trace.lostAt = none) {w : Writer} (hmay : s.mayWrite w = true)
    (hen : bitAt (s.reg Reg.DBG_CTL) 4 = true) (value : Word32) :
    exec (.mark w value) s = .next (s.traceStore ⟨0x0C, 10, value, s.gtc, BitVec.ofNat 128 (markCode w)⟩) := by
  have hreach : s.reaches w polPG = true := by rw [State.reaches, hmay, hpg]; rfl
  exact congrArg _ ((if_pos hreach).trans (State.emit_eq rfl hen hpg hlost _ _))

/-! ## Arming and firing (R586, R587) -/

/-- No trigger counts its records, no record waits for an arm, and the buffer is not frozen. -/
structure TraceIdle (s : State) : Prop where
  frozen : s.flag Reg.DBG_STAT_FROZEN = false
  left : s.trace.left = 0
  gap : s.trace.frozenGap = none

theorem State.traceStore_idle (h : TraceIdle s) (r : TraceRec) : TraceIdle (s.traceStore r) := by
  rw [State.traceStore_eq, if_neg (by rw [h.frozen]; decide)]
  obtain ⟨-, -, hleft, hgap, -, -, -, hreg⟩ := s.traceCapture_facts r
  have hclear : (s.traceCapture r).flag Reg.DBG_STAT_FROZEN = s.flag Reg.DBG_STAT_FROZEN := by
    change bitAt ((s.traceCapture r).reg Reg.DBG_STAT_WPTR.off) 29 = bitAt (s.reg Reg.DBG_STAT_WPTR.off) 29
    rw [hreg]
    exact bitAt_putBits_of_outside _ _ (by decide) (by omega)
  split
  · rw [if_neg (by rw [h.left]; decide)]
    exact ⟨hclear.trans h.frozen, hleft.trans (by rw [h.left]), hgap.trans h.gap⟩
  · exact h

theorem State.traceWrite_idle (h : TraceIdle s) (r : TraceRec) : TraceIdle (s.traceWrite r) :=
  State.traceWrite_keeps h ⟨(s.lossNoted_regsBut.flag (by decide)).trans h.frozen, h.left, h.gap⟩ (fun _ r ht => State.traceStore_idle ht r) r

/-- A record leaves the trigger's flags. -/
theorem State.traceStore_triggerFlags {f : Fld} (hf : f ∈ [Reg.DBG_STAT_ARMED, Reg.DBG_STAT_TRIGGERED]) (s : State) (r : TraceRec) :
    (s.traceStore r).flag f = s.flag f := by
  have hfacts : ∀ g ∈ [Reg.DBG_STAT_ARMED, Reg.DBG_STAT_TRIGGERED], g.off = Reg.DBG_STAT_WPTR.off ∧ 29 < g.lo ∧ g.lo < 32 := by decide
  obtain ⟨hoff, hlo, hhi⟩ := hfacts f hf
  obtain ⟨-, -, -, -, -, -, -, hreg⟩ := s.traceCapture_facts r
  have hcapture : (s.traceCapture r).flag f = s.flag f := by
    unfold State.flag
    rw [hoff, hreg]
    exact bitAt_putBits_of_outside _ _ hhi (by omega)
  rw [State.traceStore_eq]
  split
  · exact (State.countQuiet_regsBut _ _ _ _).flag (by rw [hoff]; decide)
  split
  · split
    · refine (State.flag_setFld_of_disjoint _ _ _ _ hhi (.inr (.inr ?_))).trans hcapture
      exact hlo
    · exact hcapture
  · rfl

theorem State.traceWrite_triggerFlags {f : Fld} (hf : f ∈ [Reg.DBG_STAT_ARMED, Reg.DBG_STAT_TRIGGERED]) (s : State) (r : TraceRec) :
    (s.traceWrite r).flag f = s.flag f := by
  have hoff : ∀ g ∈ [Reg.DBG_STAT_ARMED, Reg.DBG_STAT_TRIGGERED], g.off ∉ [Reg.DBG_ERR_CNT_GAPS.off] := by decide
  exact State.traceWrite_keeps (P := fun t => t.flag f = s.flag f) rfl (s.lossNoted_regsBut.flag (hoff f hf))
    (fun t r ht => (State.traceStore_triggerFlags hf t r).trans ht) r

theorem State.traceStore_regsBut (s : State) (r : TraceRec) : RegsBut recordRegisters s (s.traceStore r) := by
  rw [State.traceStore_eq]
  obtain ⟨-, -, -, -, -, -, hregs, -⟩ := s.traceCapture_facts r
  refine RegsBut.ite ?_ (RegsBut.ite (RegsBut.ite (hregs.trans (RegsBut.setFlag _ _ (by decide))) hregs) (RegsBut.refl _ s))
  exact (State.countQuiet_regsBut { s with trace := _ } _ _ _).mono (by decide)

theorem State.traceWrite_regsBut (s : State) (r : TraceRec) : RegsBut recordRegisters s (s.traceWrite r) :=
  State.traceWrite_keeps (RegsBut.refl _ s) (s.lossNoted_regsBut.mono (by decide)) (fun t r ht => ht.trans (t.traceStore_regsBut r)) r

/-- ARM, before the GAP for the records counted. -/
def State.armFlags (s : State) : State :=
  ((s.setFlag Reg.DBG_STAT_ARMED true).setFlag Reg.DBG_STAT_TRIGGERED false).setFlag Reg.DBG_STAT_FROZEN false

theorem State.armFlags_facts (s : State) : OnlyLogs s s.armFlags ∧ s.armFlags.flag Reg.DBG_STAT_ARMED = true ∧
    s.armFlags.flag Reg.DBG_STAT_TRIGGERED = false ∧ s.armFlags.flag Reg.DBG_STAT_FROZEN = false := by
  refine ⟨rfl, ?_, ?_, State.flag_setFlag_self _ _ _ rfl (by decide)⟩
  · refine (State.flag_setFld_of_disjoint _ _ _ _ (by decide) (by decide)).trans ?_
    exact (State.flag_setFld_of_disjoint _ _ _ _ (by decide) (by decide)).trans (State.flag_setFlag_self _ _ _ rfl (by decide))
  · exact (State.flag_setFld_of_disjoint _ _ _ _ (by decide) (by decide)).trans (State.flag_setFlag_self _ _ _ rfl (by decide))

/-- ARM: the trigger is armed, and the buffer goes on. -/
theorem State.arm_facts (s : State) : OnlyLogs s s.arm ∧ s.arm.flag Reg.DBG_STAT_ARMED = true ∧ s.arm.flag Reg.DBG_STAT_TRIGGERED = false ∧
    TraceIdle s.arm := by
  obtain ⟨hlogs, harmed, htriggered, hfrozen⟩ := s.armFlags_facts
  unfold State.arm
  extract_lets t gap _ u
  have ht : t = s.armFlags := rfl
  rw [← ht] at hlogs harmed htriggered hfrozen
  have honly : OnlyLogs s u := hlogs.trans (OnlyLogs.ofTrace t _)
  have hidle : TraceIdle u := ⟨hfrozen, rfl, rfl⟩
  have harmed' : u.flag Reg.DBG_STAT_ARMED = true := harmed
  have htriggered' : u.flag Reg.DBG_STAT_TRIGGERED = false := htriggered
  clear_value u gap
  split
  next g =>
    have herr : RegsBut [Reg.DBG_ERR_CNT_GAPS.off] u (u.errAdd Reg.DBG_ERR_CNT_GAPS 1) := RegsBut.setFld u _ List.mem_cons_self
    have hkept : TraceIdle (u.errAdd Reg.DBG_ERR_CNT_GAPS 1) := ⟨(herr.flag (by decide)).trans hidle.frozen, hidle.left, hidle.gap⟩
    have hlogs' := honly.trans (u.errAdd_onlyLogs Reg.DBG_ERR_CNT_GAPS 1)
    have ha := (herr.flag (f := Reg.DBG_STAT_ARMED) (by decide)).trans harmed'
    have hb := (herr.flag (f := Reg.DBG_STAT_TRIGGERED) (by decide)).trans htriggered'
    generalize u.errAdd Reg.DBG_ERR_CNT_GAPS 1 = v at hkept hlogs' ha hb
    exact ⟨hlogs'.trans (v.traceWrite_onlyLogs _), (State.traceWrite_triggerFlags (by decide) v _).trans ha,
      (State.traceWrite_triggerFlags (by decide) v _).trans hb, State.traceWrite_idle hkept _⟩
  · exact ⟨honly, harmed', htriggered', hidle⟩

/-- A trigger taken: its flags and the write pointer at it. -/
def State.triggerFlags (s : State) : State :=
  let t := (s.setFlag Reg.DBG_STAT_ARMED false).setFlag Reg.DBG_STAT_TRIGGERED true
  t.setFld Reg.DBG_TRIG_PTR_PTR (t.fld Reg.DBG_STAT_WPTR)

theorem State.triggerFlags_facts (s : State) : s.triggerFlags.flag Reg.DBG_STAT_ARMED = false ∧
    s.triggerFlags.flag Reg.DBG_STAT_TRIGGERED = true ∧ s.triggerFlags.fld Reg.DBG_TRIG_PTR_PTR = s.fld Reg.DBG_STAT_WPTR := by
  refine ⟨?_, ?_, ?_⟩
  · refine (State.flag_setFld_of_disjoint _ _ _ _ (by decide) (by decide)).trans ?_
    exact (State.flag_setFld_of_disjoint _ _ _ _ (by decide) (by decide)).trans (State.flag_setFlag_self _ _ _ rfl (by decide))
  · exact (State.flag_setFld_of_disjoint _ _ _ _ (by decide) (by decide)).trans (State.flag_setFlag_self _ _ _ rfl (by decide))
  · refine (State.fld_setFld_self _ _ _ (by decide)).trans ((Nat.mod_eq_of_lt (Nat.mod_lt _ (Nat.two_pow_pos _))).trans ?_)
    exact (State.fld_setFld_of_disjoint _ _ _ _ (by decide)).trans (State.fld_setFld_of_disjoint _ _ _ _ (by decide))

/-- `n` records are to follow before the buffer freezes. -/
def State.countRecords (s : State) (n : Nat) : State := { s with trace := { s.trace with left := n } }

theorem State.countRecords_regsBut (s : State) (n : Nat) : RegsBut [] s (s.countRecords n) := fun _ _ => rfl

section
variable (hpg : s.polderOn polPG = true) (harmed : s.flag Reg.DBG_STAT_ARMED = true) (htriggered : s.flag Reg.DBG_STAT_TRIGGERED = false)
  {src : Nat} (hsrc : bitAt (s.reg Reg.DBG_TRIG_CFG) src = true)
include hpg harmed htriggered hsrc

theorem State.trigger_eq : ∃ n r, s.trigger src = (State.countQuiet ((s.triggerFlags.countRecords n).traceWrite r) unitDBG 3 1).1 := by
  unfold State.trigger
  rw [hpg, harmed, htriggered, hsrc]
  exact ⟨max 1 ((16 - min 16 (s.fld Reg.DBG_TRIG_CFG_PRE)) * 32768), _, if_pos rfl⟩

/-- An armed trigger is taken at the write pointer. -/
theorem State.trigger_fires : (s.trigger src).flag Reg.DBG_STAT_ARMED = false ∧ (s.trigger src).flag Reg.DBG_STAT_TRIGGERED = true ∧
    (s.trigger src).fld Reg.DBG_TRIG_PTR_PTR = s.fld Reg.DBG_STAT_WPTR := by
  obtain ⟨n, r, heq⟩ := State.trigger_eq hpg harmed htriggered hsrc
  obtain ⟨h1, h2, h3⟩ := s.triggerFlags_facts
  have hleft := s.triggerFlags.countRecords_regsBut n
  rw [heq]
  rw [← hleft.flag List.not_mem_nil] at h1 h2
  rw [← hleft.fld List.not_mem_nil] at h3
  generalize s.triggerFlags.countRecords n = t at *
  have hcount := State.countQuiet_regsBut (t.traceWrite r) unitDBG 3 1
  have hwrite {f : Fld} (hf) := State.traceWrite_triggerFlags (f := f) hf t r
  have hregs := t.traceWrite_regsBut r
  refine ⟨?_, ?_, ?_⟩
  · exact (hcount.flag (by decide)).trans ((hwrite (by decide)).trans h1)
  · exact (hcount.flag (by decide)).trans ((hwrite (by decide)).trans h2)
  · exact (hcount.fld (by decide)).trans ((hregs.fld (by decide)).trans h3)

end
end

/-! ## The trace port (R581, R589, R590) -/

/-- `t` has sent through the port what `s` has sent. -/
def PortKept (s t : State) : Prop := t.trace.port = s.trace.port ∧ t.trace.seq = s.trace.seq

theorem PortKept.refl (s : State) : PortKept s s := ⟨rfl, rfl⟩

section
variable {s t u : State}

theorem PortKept.trans (h : PortKept s t) (g : PortKept t u) : PortKept s u := ⟨g.1.trans h.1, g.2.trans h.2⟩

theorem PortKept.of_trace (h : t.trace = s.trace) : PortKept s t := ⟨congrArg Trace.port h, congrArg Trace.seq h⟩

theorem PortKept.ite {a b : State} {c : Prop} [Decidable c] (ha : PortKept s a) (hb : PortKept s b) : PortKept s (if c then a else b) := by
  split
  · exact ha
  · exact hb

end

section
variable (s : State)

theorem State.traceStore_portKept (r : TraceRec) : PortKept s (s.traceStore r) := by
  rw [State.traceStore_eq]
  obtain ⟨-, -, -, -, hport, hseq, -, -⟩ := s.traceCapture_facts r
  have hcapture : PortKept s (s.traceCapture r) := ⟨hport, hseq⟩
  refine PortKept.ite ?_ (PortKept.ite (PortKept.ite hcapture hcapture) (PortKept.refl s))
  have hgap : PortKept s { s with trace := { s.trace with frozenGap := GapCount.grow s.trace.frozenGap r.gtc } } := ⟨rfl, rfl⟩
  exact hgap.trans (.of_trace (State.countQuiet_trace _ _ _ _))

theorem State.traceWrite_portKept (r : TraceRec) : PortKept s (s.traceWrite r) :=
  State.traceWrite_keeps (PortKept.refl s) ⟨rfl, rfl⟩ (fun t r ht => ht.trans (t.traceStore_portKept r)) r

theorem State.trigger_portKept (src : Nat) : PortKept s (s.trigger src) := by
  unfold State.trigger
  refine PortKept.ite ?_ (PortKept.refl s)
  extract_lets pre s1 s2 _ s3 s4
  have h3 : PortKept s s3 := ⟨rfl, rfl⟩
  exact (h3.trans (s3.traceWrite_portKept _)).trans (.of_trace (State.countQuiet_trace _ _ _ _))

theorem State.logFault_portKept (kind polder detail value : Nat) : PortKept s (s.logFault kind polder detail value) := by
  unfold State.logFault
  extract_lets e i s1 s2 s3 s4 s5
  have h3 : PortKept s s3 := by
    unfold s3
    exact PortKept.ite ⟨rfl, rfl⟩ ⟨rfl, rfl⟩
  have h4 : PortKept s3 s4 := .of_trace (State.countQuiet_trace _ _ _ _)
  have h5 : PortKept s4 s5 := PortKept.ite (s4.traceWrite_portKept _) (PortKept.refl s4)
  exact ((h3.trans h4).trans h5).trans (s5.trigger_portKept _)

theorem State.count_portKept (u k n : Nat) : PortKept s (s.count u k n) := by
  unfold State.count
  split
  next t wrapped ht =>
    have hquiet : PortKept s t := .of_trace ((congrArg (fun x : State × Bool => x.1.trace) ht).symm.trans (s.countQuiet_trace u k n))
    refine PortKept.ite ((hquiet.trans ?_).trans (State.logFault_portKept _ _ _ _ _)) hquiet
    exact .of_trace (State.countQuiet_trace _ _ _ _)

/-- An event counted without a wrap leaves the trace. -/
theorem State.count_trace {u k : Nat} (h : (s.counter u k).count ≠ -1) : (s.count u k 1).trace = s.trace := by
  have hlt : ¬ (s.counter u k).count.toNat + 1 ≥ 2 ^ 48 := fun hge => h (BitVec.eq_of_toNat_eq (by
    have := (s.counter u k).count.isLt
    have hmax : (-1 : BitVec 48).toNat = 2 ^ 48 - 1 := by decide
    omega))
  have hflag : (s.countQuiet u k 1).2 = false := by
    unfold State.countQuiet
    dsimp only
    rw [decide_eq_false hlt]
    rfl
  unfold State.count
  split
  next t wrapped ht =>
    have hno : wrapped = false := (congrArg Prod.snd ht).symm.trans hflag
    rw [if_neg (by rw [hno]; decide)]
    exact (congrArg (fun x : State × Bool => x.1.trace) ht).symm.trans (s.countQuiet_trace u k 1)

/-- A record at the port with the next SEQ. -/
def State.portRecord (r : TraceRec) : State :=
  { s with trace := { s.trace with seq := s.trace.seq + 1, port := s.trace.port ++ [(s.trace.seq, r)] } }

theorem State.portSend_eq (r : TraceRec) : s.portSend r = (s.portRecord r).count unitDBG 1 1 := rfl

/-- One record leaves the port with the next SEQ. -/
theorem State.portSend_facts (r : TraceRec) : OnlyLogs s (s.portSend r) ∧ (s.portSend r).trace.port = s.trace.port ++ [(s.trace.seq, r)] ∧
    (s.portSend r).trace.seq = s.trace.seq + 1 ∧
    ((s.counter unitDBG 1).count ≠ -1 → (s.portSend r).trace.overGap = s.trace.overGap ∧ (s.portSend r).trace.passed = s.trace.passed) := by
  have hlogs : OnlyLogs s (s.portRecord r) := OnlyLogs.ofTrace s _
  obtain ⟨hport, hseq⟩ := (s.portRecord r).count_portKept unitDBG 1 1
  rw [s.portSend_eq]
  refine ⟨hlogs.trans (State.count_onlyLogs _ _ _ _), hport, hseq, fun hwrap => ?_⟩
  rw [(s.portRecord r).count_trace hwrap]
  exact ⟨rfl, rfl⟩

end

section
variable {s : State} (hpg : s.polderOn polPG = true) (hport : s.portSending = true)
include hpg hport

theorem execTracePortSend_gap {g : GapCount} (hgap : s.trace.overGap = some g) : exec .tracePortSend s =
    .next (State.portSend (State.errAdd { s with trace := { s.trace with overGap := none } } Reg.DBG_ERR_CNT_GAPS 1) (gapRecord g 0)) := by
  change execTracePortSend s = _
  unfold execTracePortSend
  rw [hpg, hport, hgap]
  rfl

theorem execTracePortSend_record (hgap : s.trace.overGap = none) (hleft : s.trace.passed < s.trace.written) : exec .tracePortSend s =
    .next (State.portSend { s with trace := { s.trace with passed := s.trace.passed + 1 } } (Table.at TraceRec.empty s.trace.buf
      ((s.fld Reg.DBG_STAT_WPTR + 524288 - (s.trace.written - s.trace.passed)) % 524288))) := by
  change execTracePortSend s = _
  unfold execTracePortSend
  rw [hpg, hport, hgap]
  have hsome : s.unsent ≠ 0 := by
    unfold State.unsent
    omega
  exact congrArg _ (if_neg hsome)

end

theorem execFrozen_freezes {s : State} (htrig : s.flag Reg.DBG_STAT_TRIGGERED = true) (hleft : s.trace.left = 0) :
    exec .frozen s = .next (s.setFlag Reg.DBG_STAT_FROZEN true) := by
  refine congrArg _ (if_pos ?_)
  rw [htrig, hleft]
  rfl

theorem State.reaches_of {s : State} {w : Writer} {p : Nat} (hmay : s.mayWrite w = true) (hon : s.polderOn p = true) : s.reaches w p = true := by
  rw [State.reaches, hmay, hon]
  rfl


/-! ## Writes of registers without a behaviour of their own (R13) -/

/-- Registers of PA without a behaviour of their own. -/
def plainRegisters : List Nat := [Reg.POL_LADDER, Reg.MGT_RESTART_DS, Reg.MGT_RESTART_LO, Reg.GTC_TERM, Reg.GTC_LEASE_LO, Reg.FLT_WDOG_CFG,
  Reg.FLT_RPL_REQ_LO, Reg.SEC_ACT_AT_LO]

/-- No memory stands in the register space at an offset. -/
def noWindow (off : Nat) : Bool :=
  !(decide (0x00110000 ≤ off ∧ off < 0x00120000) || decide (0x00400400 ≤ off ∧ off < 0x00400800) ||
    decide (0x05100000 ≤ off ∧ off < 0x05200000) || decide (0x05410000 ≤ off ∧ off < 0x05411000))

theorem State.regWindow_none (s : State) {off : Nat} (h : noWindow off = true) : s.regWindow off = none := by
  unfold noWindow at h
  simp only [Bool.not_eq_true', Bool.or_eq_false_iff, decide_eq_false_iff_not] at h
  obtain ⟨⟨⟨hsave, hlog⟩, htrace⟩, hmail⟩ := h
  unfold State.regWindow
  rw [if_neg hsave, if_neg hlog, if_neg htrace, if_neg hmail]

theorem plainRegisters_place : ∀ a ∈ plainRegisters, noWindow a = true ∧ eventPair a = none ∧ latchAt a = none ∧
    (unitAt a).map unitPolder = some polPA := by decide

theorem plainRegisters_row : ∀ a ∈ plainRegisters, (regRowAt a).isSome = true := by decide

/-- The units of PA leave each of these registers to its access codes. -/
theorem State.writeUnit_plain (s : State) (w : Writer) (value : Word32) :
    ∀ a ∈ plainRegisters, s.writeUnit w ((unitAt a).getD 0) a value = s.plainWrite a value := by
  simp only [plainRegisters, List.forall_mem_cons]
  exact ⟨rfl, rfl, rfl, rfl, rfl, rfl, rfl, rfl, List.forall_mem_nil _⟩

section
variable {s : State} {w : Writer} (hw : w ≠ .sideband) (hmay : s.mayWrite w = true)
include hw hmay

theorem State.mayReach_of (off : Nat) : s.mayReach w off = true := by
  cases w with
  | sideband => exact absurd rfl hw
  | core c => exact hmay
  | host => exact hmay
  | debugPort => exact hmay

/-- A register of PA is reached at once. -/
theorem execRegisterWrite_opens {off : BitVec 27} {a : Nat} (ha : a = off.toNat / 4 * 4) (value : Word32)
    (hdoor : s.regDoor (w == .host) a = .opens s) : exec (.registerWrite w off value) s = .next (s.writeReg w a value) := by
  have halign : alignDown off.toNat 4 = a := ha.symm
  change execRegisterWrite w off value s = _
  unfold execRegisterWrite
  dsimp only
  rw [halign, State.mayReach_of hw hmay a, hdoor]
  rfl

theorem execRegisterWrite_plain {off : BitVec 27} {a : Nat} (ha : a = off.toNat / 4 * 4) (value : Word32) (hplain : a ∈ plainRegisters) :
    exec (.registerWrite w off value) s = .next (s.plainWrite a value) := by
  obtain ⟨hwin, hpair, hlatch, hpol⟩ := plainRegisters_place a hplain
  have hdoor : s.regDoor (w == .host) a = .opens s := by
    unfold State.regDoor
    rw [hpol]
    exact if_pos (.inl rfl)
  obtain ⟨u, hu, -⟩ := Option.map_eq_some_iff.1 hpol
  rw [execRegisterWrite_opens hw hmay ha value hdoor]
  unfold State.writeReg
  rw [s.regWindow_none hwin, hpair, hlatch, hu]
  have hplainWrite := s.writeUnit_plain w value a hplain
  rw [hu] at hplainWrite
  exact congrArg _ hplainWrite

/-- Above the window of SEC a write does nothing. -/
theorem execRegisterWrite_hole {off : BitVec 27} {a : Nat} (ha : a = off.toNat / 4 * 4) (value : Word32) (hnone : unitAt a = none) :
    exec (.registerWrite w off value) s = .next s := by
  have hdoor : s.regDoor (w == .host) a = .opens s := by
    unfold State.regDoor
    rw [hnone]
    rfl
  have hle : 0x05800000 ≤ a := by
    by_contra hlt
    unfold unitAt at hnone
    rw [if_pos (by omega)] at hnone
    cases hnone
  have hwin : noWindow a = true := by
    unfold noWindow
    rw [decide_eq_false (by omega), decide_eq_false (by omega), decide_eq_false (by omega), decide_eq_false (by omega)]
    rfl
  have hpair : eventPair a = none := by
    unfold eventPair
    rw [hnone]
  have hlatch : latchAt a = none := by
    unfold latchAt
    rw [hnone]
  rw [execRegisterWrite_opens hw hmay ha value hdoor]
  unfold State.writeReg
  rw [s.regWindow_none hwin, hpair, hlatch, hnone]

end

/-! ## The debug port, the trace and register writes -/

section
variable {s : State}

/-- The end of a request leaves its response and changes the debug port alone. -/
theorem State.dapEnded_facts (s : State) (y : BitVec 120) : (s.dapEnded y).dap.response = y ∧ (s.dapEnded y).dap.out = s.dap.out ∧
    (∀ d, { s.dapEnded y with dap := d } = { s with dap := d }) ∧ (s.dapEnded y).cores = s.cores ∧ (s.dapEnded y).dram = s.dram ∧
    (s.dapEnded y).dramErr = s.dramErr ∧ (s.dapEnded y).regs = s.regs :=
  ⟨rfl, rfl, fun _ => rfl, rfl, rfl, rfl, rfl⟩

theorem execArm_arms {w : Writer} (hreach : s.reaches w polPG = true) : exec (.arm w) s = .next s.arm := congrArg _ (if_pos hreach)

theorem execFire_triggers {w : Writer} (hreach : s.reaches w polPG = true) : exec (.fire w) s = .next (s.trigger 0) := congrArg _ (if_pos hreach)

theorem execRecord_stores {r : TraceRec} {w : Writer} {value : Word32} {i : Instr} (hpg : s.polderOn polPG = true)
    (hlost : s.trace.lostAt = none)
    (h : (i = .traceSync ∧ s.gtc.toNat % 2 ^ 20 = 0 ∧ bitAt (s.reg Reg.DBG_CTL) 1 = true ∧
        r = ⟨5, 10, BitVec.ofNat 32 (s.fld Reg.GTC_SYNC_STATE), s.gtc,
          BitVec.ofNat 128 ((s.reg Reg.GTC_OFFSET).toNat + (s.reg Reg.GTC_RATE).toNat * 2 ^ 32 + natAt s.part.serial 0 64 * 2 ^ 64)⟩) ∨
      (i = .mark w value ∧ s.mayWrite w = true ∧ bitAt (s.reg Reg.DBG_CTL) 4 = true ∧
        r = ⟨0x0C, 10, value, s.gtc, BitVec.ofNat 128 (markCode w)⟩)) : exec i s = .next (s.traceStore r) := by
  rcases h with ⟨rfl, hgtc, hen, rfl⟩ | ⟨rfl, hmay, hen, rfl⟩
  · exact execTraceSync_stores hpg hlost hgtc hen
  · exact execMark_stores hpg hlost hmay hen value

end

/-- Settles O53: each scan ends its request, each record goes to the buffer or to the port, and plain registers take their writes. -/
theorem debugAndTrace : Obligations.DebugAndTrace := by
  unfold Obligations.DebugAndTrace
  refine ⟨fun s hpow hpg hwait => ⟨?_, ?_, ?_, ?_, ?_, ?_⟩, ?_, ?_, ?_, ?_, ?_⟩
  · exact ⟨_, execIdcode_powered hpow, rfl, rfl, rfl⟩
  · exact fun ir h1 h10 => execBypass_powered hpow h1 h10
  · intro space addr data hlock i hi
    obtain ⟨hresp, hout, hframe, -⟩ := s.dapShifted.dapEnded_facts (dapResponse dapLOCKED 0)
    exact ⟨_, execDap_locked hpg hwait addr data hlock hi, hout, hresp, hframe s.dap⟩
  · rintro c n addr v data hopen rfl hn
    refine ⟨fun hhalt hread => ⟨?_, fun hfree => ?_⟩, fun hrun => ?_⟩
    · obtain ⟨hresp, hout, hframe, -⟩ := s.dapShifted.dapEnded_facts (dapResponse dapOK v)
      exact ⟨_, execDapRead_core hpg hwait hn hopen hhalt hread, hout, hresp, hframe s.dap⟩
    · obtain ⟨hresp, -, hframe, hcores, -⟩ := (s.dapShifted.setCore c ((s.core c).dapWrite n data)).dapEnded_facts (dapResponse dapOK 0)
      exact ⟨_, execDapWrite_core hpg hwait hn hopen hhalt hread hfree data, hresp,
        (State.core_of_cores hcores c).trans (s.dapShifted.core_setCore_self c _),
        fun d hd => (State.core_of_cores hcores d).trans (s.dapShifted.core_setCore_of_ne _ hd),
        (congrArg (fun x : State => { x with cores := s.cores }) (hframe s.dap) :)⟩
    · obtain ⟨hresp, -, hframe, -⟩ := s.dapShifted.dapEnded_facts (dapResponse dapERROR 0)
      exact ⟨_, execDapRead_running hpg hwait hn hopen hrun, hresp, hframe s.dap⟩
  · refine fun addr data hopen hal => ⟨fun hmap herr => ?_, fun hmap => ?_⟩
    · obtain ⟨hresp, -, hframe, -⟩ := s.dapShifted.dapEnded_facts (dapResponse dapOK (BitVec.ofNat 64 (leNat (s.physBytes addr.toNat 8))))
      exact ⟨_, execDapRead_memory hpg hwait hopen hal hmap herr, hresp, hframe s.dap⟩
    · obtain ⟨hresp, -, -, hcores, hdram, herrs, hregs⟩ :=
        (s.dapShifted.writeDram addr.toNat (leBytes 8 data.toNat)).dapEnded_facts (dapResponse dapOK 0)
      refine ⟨_, execDapWrite_memory hpg hwait hopen hal data hmap, hresp, ?_, hcores, hregs⟩
      unfold StoredBytes
      rw [hdram, herrs]
      exact s.dapShifted.writeDram_storedBytes _ 8 _
  · intro addr data off p hopen hoff hal hlt hp hon
    exact ⟨s.dapShifted, rfl, execDapRead_register hpg hwait hopen hoff hal hlt hp hon,
      execDapWrite_register hpg hwait hopen hoff hal hlt hp hon data⟩
  · intro s r w value i hpg hfrozen hcap hlost h
    obtain ⟨hat, hothers, hwptr, hwritten, hfreeze⟩ := State.traceStore_captures hfrozen hcap r
    have hlogs := s.traceStore_onlyLogs r
    exact ⟨_, execRecord_stores hpg hlost h, hat, hothers, hwptr, hwritten, hfreeze, hlogs.dram, hlogs.cores, hlogs.gtc⟩
  · intro w s hmay hpg
    have hreach := State.reaches_of hmay hpg
    refine ⟨?_, fun harmed htriggered hsrc => ?_⟩
    · obtain ⟨hlogs, harmed, htriggered, hidle⟩ := s.arm_facts
      exact ⟨_, execArm_arms hreach, harmed, htriggered, hidle.frozen, hidle.gap, hlogs.dram, hlogs.cores⟩
    · obtain ⟨h1, h2, h3⟩ := State.trigger_fires hpg harmed htriggered hsrc
      have hlogs := s.trigger_onlyLogs 0
      exact ⟨_, execFire_triggers hreach, h1, h2, h3, hlogs.dram, hlogs.cores⟩
  · exact fun s htrig hleft => ⟨_, execFrozen_freezes htrig hleft, State.flag_setFlag_self _ _ _ rfl (by decide), rfl⟩
  · refine fun s hpg hport => ⟨fun g hgap => ?_, fun hgap hleft _ => ?_⟩
    · obtain ⟨hlogs, hsent, hseq, hkept⟩ := State.portSend_facts
        (State.errAdd { s with trace := { s.trace with overGap := none } } Reg.DBG_ERR_CNT_GAPS 1) (gapRecord g 0)
      exact ⟨_, execTracePortSend_gap hpg hport hgap, hkept, hsent, hseq, hlogs.dram, hlogs.cores⟩
    · obtain ⟨hlogs, hsent, hseq, hkept⟩ := State.portSend_facts { s with trace := { s.trace with passed := s.trace.passed + 1 } }
        (Table.at TraceRec.empty s.trace.buf ((s.fld Reg.DBG_STAT_WPTR + 524288 - (s.trace.written - s.trace.passed)) % 524288))
      exact ⟨_, execTracePortSend_record hpg hport hgap hleft, fun hwrap => (hkept hwrap).2, hseq, hsent, hlogs.dram, hlogs.cores⟩
  · refine fun w off value s a ha hw hmay => ⟨fun hplain => ?_, fun hnone => execRegisterWrite_hole hw hmay ha value hnone⟩
    obtain ⟨row, hrow⟩ := Option.isSome_iff_exists.1 (plainRegisters_row a hplain)
    have hwrite : s.plainWrite a value = s.setReg a (writtenWord row (s.reg a) value) := by
      unfold State.plainWrite
      rw [hrow]
    refine ⟨_, row, (execRegisterWrite_plain hw hmay ha value hplain).trans (congrArg _ hwrite), hrow, State.reg_setReg_self _ _ _,
      fun b hb => (State.reg_setReg _ _ _ _).trans (if_neg hb), rfl⟩

end Sys2Proof.Machine

/-!
SUPPORT. NVMe commands: fields of a page, admin commands, PRP transfers and I/O commands (O42).
-/

namespace Sys2Proof.Machine

/-! ## Fields put into a page -/

/-- A field put in place. -/
def putAt (b : List Byte) (off : Nat) (bs : List Byte) : List Byte := b.take off ++ bs ++ b.drop (off + bs.length)

/-- Fields put in place one after another. -/
def putAll (b : List Byte) (fields : List (Nat × List Byte)) : List Byte := fields.foldl (fun b f => putAt b f.1 f.2) b

theorem putAll_cons (b : List Byte) (f : Nat × List Byte) (fields : List (Nat × List Byte)) :
    putAll b (f :: fields) = putAll (putAt b f.1 f.2) fields := rfl

theorem putAll_append (b : List Byte) (l r : List (Nat × List Byte)) : putAll b (l ++ r) = putAll (putAll b l) r := List.foldl_append

theorem State.openPage_eq (s : State) (n : Nat) (fields : List (Nat × List Byte)) :
    s.openPage n fields = (putAll ((List.range n).map (fun i => Config.rawByte s.freshFree.1 i)) fields, s.freshFree.2) := rfl

section
variable {b bs : List Byte} {off : Nat} (h : off + bs.length ≤ b.length)
include h

theorem putAt_length : (putAt b off bs).length = b.length := by
  simp only [putAt, List.length_append, List.length_take, List.length_drop]
  omega

theorem sliceOf_putAt_self {k n : Nat} (hk : k + n ≤ bs.length) : sliceOf (off + k) n (putAt b off bs) = sliceOf k n bs := by
  have hlen : (b.take off).length = off := List.length_take_of_le (by omega)
  unfold sliceOf putAt
  rw [List.append_assoc, ← List.drop_drop, List.drop_left' hlen, List.drop_append_of_le_length (by omega),
    List.take_append_of_le_length (by rw [List.length_drop]; omega)]

theorem sliceOf_putAt_of_disjoint {a n : Nat} (ha : a + n ≤ off ∨ off + bs.length ≤ a) : sliceOf a n (putAt b off bs) = sliceOf a n b := by
  have hlen : (b.take off).length = off := List.length_take_of_le (by omega)
  refine List.ext_getElem? fun i => ?_
  simp only [sliceOf, putAt, List.getElem?_take, List.getElem?_drop, List.append_assoc]
  split
  next hi =>
    rcases ha with hbefore | hbehind
    · rw [List.getElem?_append_left (by omega), List.getElem?_take, if_pos (by omega)]
    · rw [List.getElem?_append_right (by omega), hlen, List.getElem?_append_right (by omega), List.getElem?_drop]
      exact congrArg (b[·]?) (by omega)
  · rfl

end

/-- Fields that lie within the page and leave `[a, a + n)` alone. -/
def Beside (a n : Nat) (len : Nat) (fields : List (Nat × List Byte)) : Prop :=
  ∀ f ∈ fields, f.1 + f.2.length ≤ len ∧ (a + n ≤ f.1 ∨ f.1 + f.2.length ≤ a)

theorem putAll_length {fields : List (Nat × List Byte)} {b : List Byte} (h : ∀ f ∈ fields, f.1 + f.2.length ≤ b.length) :
    (putAll b fields).length = b.length := by
  induction fields generalizing b with
  | nil => rfl
  | cons f fields ih =>
    have hf := putAt_length (h f List.mem_cons_self)
    rw [putAll_cons, ih fun g hg => by rw [hf]; exact h g (List.mem_cons_of_mem _ hg), hf]

theorem sliceOf_putAll {a n : Nat} {fields : List (Nat × List Byte)} {b : List Byte} (h : Beside a n b.length fields) :
    sliceOf a n (putAll b fields) = sliceOf a n b := by
  induction fields generalizing b with
  | nil => rfl
  | cons f fields ih =>
    obtain ⟨hfit, hbeside⟩ := h f List.mem_cons_self
    have hf := putAt_length hfit
    rw [putAll_cons, ih fun g hg => by rw [hf]; exact h g (List.mem_cons_of_mem _ hg), sliceOf_putAt_of_disjoint hfit hbeside]

/-- A field that no later one touches reads back. -/
theorem leAt_putAll {b bs : List Byte} {fields l r : List (Nat × List Byte)} {off k n a : Nat} (hfields : fields = l ++ (off, bs) :: r)
    (ha : a = off + k) (hfit : ∀ f ∈ fields, f.1 + f.2.length ≤ b.length) (hk : k + n ≤ bs.length)
    (hr : Beside a n b.length r) : leAt (putAll b fields) a n = leAt bs k n := by
  subst hfields ha
  have hlen := putAll_length fun f hf => hfit f (List.mem_append_left _ hf)
  have hoff : off + bs.length ≤ b.length := hfit (off, bs) (List.mem_append_right _ List.mem_cons_self)
  have hput : (putAt (putAll b l) off bs).length = b.length := (putAt_length (by rw [hlen]; exact hoff)).trans hlen
  unfold leAt
  rw [putAll_append, putAll_cons, sliceOf_putAll (by rw [hput]; exact hr), sliceOf_putAt_self (by rw [hlen]; exact hoff) hk]

/-! ## IDENTIFY of a namespace (R413) -/

/-- The fields of the Identify Namespace page. -/
def namespaceFields (units : Nat) : List (Nat × List Byte) :=
  [(0, leBytes 8 units), (8, leBytes 8 units), (16, leBytes 8 units), (25, [0]), (26, [0]), (29, [0]), (33, [0]), (128, [0, 0, 12])]

theorem namespacePage_reads {b : List Byte} (hb : b.length = 4096) (units : Nat) : (putAll b (namespaceFields units)).length = 4096 ∧
    leAt (putAll b (namespaceFields units)) 0 8 = units % 2 ^ 64 ∧ leAt (putAll b (namespaceFields units)) 8 8 = units % 2 ^ 64 ∧
    leAt (putAll b (namespaceFields units)) 130 1 = 12 := by
  have hunits : leAt (leBytes 8 units) 0 8 = units % 2 ^ 64 := by
    have h := leAt_append_leBytes [] [] 8 units
    rw [List.append_nil] at h
    exact h.trans (by norm_num)
  have hfit : ∀ f ∈ namespaceFields units, f.1 + f.2.length ≤ b.length := by
    simp only [namespaceFields, List.forall_mem_cons, leBytes_length, hb, List.length_cons, List.length_nil]
    decide
  have hfirst : namespaceFields units = [] ++ (0, leBytes 8 units) :: (namespaceFields units).tail := rfl
  have hsecond : namespaceFields units = [(0, leBytes 8 units)] ++ (8, leBytes 8 units) :: (namespaceFields units).tail.tail := rfl
  have hlast : namespaceFields units = (namespaceFields units).take 7 ++ (128, [0, 0, 12]) :: [] := rfl
  have hlen : 0 + 8 ≤ (leBytes 8 units).length := (leBytes_length 8 units).symm.le
  refine ⟨(putAll_length hfit).trans hb, (leAt_putAll (k := 0) hfirst rfl hfit hlen ?_).trans hunits,
    (leAt_putAll (k := 0) hsecond rfl hfit hlen ?_).trans hunits, leAt_putAll (k := 2) hlast rfl hfit (by decide) (List.forall_mem_nil _)⟩
  · simp only [Beside, namespaceFields, List.tail_cons, List.forall_mem_cons, leBytes_length, hb, List.length_cons, List.length_nil]
    decide
  · simp only [Beside, namespaceFields, List.tail_cons, List.forall_mem_cons, leBytes_length, hb, List.length_cons, List.length_nil]
    decide


/-! ## Admin commands that are taken (R411, R413, R416) -/

theorem State.adminCommand_runs {s t : State} {f opcode q : Nat} {e : List Byte} (h : s.takeNvme f true opcode = some (q, e, t))
    (hpsdt : cmdBadPsdt e = false) (run : State → List Byte → State) : s.adminCommand f opcode run = run t e := by
  unfold State.adminCommand
  rw [h]
  exact if_neg (by rw [hpsdt]; decide)

/-- A queue may be made: its number is in range and free, and its controller has one left. -/
theorem queuePlace_free {qid n : Nat} {taken : Bool} (h1 : 1 ≤ qid) (h128 : qid ≤ 128) (hfree : taken = false) (hn : n < 128) :
    (decide (qid = 0) || decide (queueLimit < qid) || taken || decide (queueLimit ≤ n)) = false := by
  unfold queueLimit
  rw [hfree, decide_eq_false (by omega), decide_eq_false (by omega), decide_eq_false (by omega)]
  rfl

section
variable {fn : BitVec 6} {s t : State} {e : List Byte} (hpsdt : cmdBadPsdt e = false)
include hpsdt

theorem execCreateIoCq_creates (ht : s.takeNvme fn.toNat true 0x05 = some (0, e, t)) (hpc : cmdDw e 11 % 2 = 1)
    (h1 : 1 ≤ cmdDw e 10 % 65536) (h128 : cmdDw e 10 % 65536 ≤ 128) (hfree : t.cq fn.toNat (cmdDw e 10 % 65536) = none)
    (hcount : (t.host.cqs.filter (fun q => q.fn == fn.toNat && q.qid != 0)).length < 128) (hmin : 1 ≤ cmdDw e 10 / 65536)
    (hmax : cmdDw e 10 / 65536 ≤ 4095) {n : Nat} {u : State} (hbind : t.bindNvme fn.toNat (cmdDw e 10 % 65536) = some (n, u)) :
    exec (.createIoCq fn) s = .next (State.nvmeComplete { u with host := { u.host with
      cqs := u.host.cqs ++ [⟨fn.toNat, cmdDw e 10 % 65536, n, cmdPrp1 e, cmdDw e 10 / 65536 + 1, 0, 0, true, cmdDw e 11 / 65536,
        cmdDw e 11 / 2 % 2 == 1, []⟩] } } fn.toNat 0 (cmdCid e) 0 nvmeOk) := by
  refine congrArg _ ((State.adminCommand_runs ht hpsdt _).trans ?_)
  dsimp only
  rw [if_neg (by omega), queuePlace_free h1 h128 (congrArg Option.isSome hfree) hcount, if_neg (by decide), if_neg (by omega), hbind]

theorem execCreateIoSq_creates (ht : s.takeNvme fn.toNat true 0x01 = some (0, e, t)) (hpc : cmdDw e 11 % 2 = 1)
    (h1 : 1 ≤ cmdDw e 10 % 65536) (h128 : cmdDw e 10 % 65536 ≤ 128) (hfree : t.sq fn.toNat (cmdDw e 10 % 65536) = none)
    (hcount : (t.host.sqs.filter (fun q => q.fn == fn.toNat && q.qid != 0)).length < 128) (hmin : 1 ≤ cmdDw e 10 / 65536)
    (hmax : cmdDw e 10 / 65536 ≤ 4095) (hcqid : cmdDw e 11 / 65536 ≠ 0) (hcq : (t.cq fn.toNat (cmdDw e 11 / 65536)).isSome)
    {n : Nat} {u : State} (hbind : t.bindNvme fn.toNat (cmdDw e 10 % 65536) = some (n, u)) :
    exec (.createIoSq fn) s = .next (State.nvmeComplete { u with host := { u.host with
      sqs := u.host.sqs ++ [⟨fn.toNat, cmdDw e 10 % 65536, n, cmdPrp1 e, cmdDw e 10 / 65536 + 1, 0, 0, cmdDw e 11 / 65536,
        BitVec.ofNat 2 (cmdDw e 11 / 2)⟩] } } fn.toNat 0 (cmdCid e) 0 nvmeOk) := by
  have hknown : (decide (cmdDw e 11 / 65536 = 0) || (t.cq fn.toNat (cmdDw e 11 / 65536)).isNone) = false := by
    rw [decide_eq_false hcqid, Option.isNone_eq_false_iff.2 hcq]
    rfl
  refine congrArg _ ((State.adminCommand_runs ht hpsdt _).trans ?_)
  dsimp only
  rw [if_neg (by omega), queuePlace_free h1 h128 (congrArg Option.isSome hfree) hcount, if_neg (by decide), hknown, if_neg (by decide),
    if_neg (by omega), hbind]

/-- The machine without a submission queue. -/
def State.dropSq (s : State) (f qid qcn : Nat) : State :=
  { s.freeQueue qcn with host := { s.host with sqs := s.host.sqs.filter (fun r => !(r.fn == f && r.qid == qid)) } }

/-- The machine without a completion queue. -/
def State.dropCq (s : State) (f qid qcn : Nat) : State :=
  { s.freeQueue qcn with host := { s.host with cqs := s.host.cqs.filter (fun r => !(r.fn == f && r.qid == qid)) } }

omit hpsdt in
theorem State.dropSq_facts (s : State) (f qid qcn : Nat) : (s.dropSq f qid qcn).sq f qid = none ∧ Table.find (s.dropSq f qid qcn).qct qcn = none ∧
    (s.dropSq f qid qcn).host.cqs = s.host.cqs := by
  refine ⟨List.find?_eq_none.2 fun r hr => ?_, (Table.find_drop _ _ _).trans (if_pos rfl), rfl⟩
  have hgone := (List.mem_filter.1 hr).2
  rw [Bool.not_eq_true']  at hgone
  rw [hgone]
  decide

omit hpsdt in
theorem State.dropCq_facts (s : State) (f qid qcn : Nat) : (s.dropCq f qid qcn).cq f qid = none ∧ Table.find (s.dropCq f qid qcn).qct qcn = none ∧
    (s.dropCq f qid qcn).host.sqs = s.host.sqs := by
  refine ⟨List.find?_eq_none.2 fun r hr => ?_, (Table.find_drop _ _ _).trans (if_pos rfl), rfl⟩
  have hgone := (List.mem_filter.1 hr).2
  rw [Bool.not_eq_true'] at hgone
  rw [hgone]
  decide

theorem execDeleteIoSq_deletes {q : NvmeSq} (ht : s.takeNvme fn.toNat true 0x00 = some (0, e, t)) (hqid : cmdDw e 10 % 65536 ≠ 0)
    (hq : t.sq fn.toNat (cmdDw e 10 % 65536) = some q) :
    exec (.deleteIoSq fn) s = .next ((t.dropSq fn.toNat (cmdDw e 10 % 65536) q.qcn).nvmeComplete fn.toNat 0 (cmdCid e) 0 nvmeOk) := by
  refine congrArg _ ((State.adminCommand_runs ht hpsdt _).trans ?_)
  dsimp only
  rw [if_neg hqid, hq]
  rfl

theorem execDeleteIoCq_deletes {q : NvmeCq} (ht : s.takeNvme fn.toNat true 0x04 = some (0, e, t)) (hqid : cmdDw e 10 % 65536 ≠ 0)
    (hq : t.cq fn.toNat (cmdDw e 10 % 65536) = some q)
    (hunused : ∀ r ∈ t.host.sqs, ¬ (r.fn = fn.toNat ∧ r.cqid = cmdDw e 10 % 65536)) :
    exec (.deleteIoCq fn) s = .next ((t.dropCq fn.toNat (cmdDw e 10 % 65536) q.qcn).nvmeComplete fn.toNat 0 (cmdCid e) 0 nvmeOk) := by
  have hany : t.host.sqs.any (fun r => r.fn == fn.toNat && r.cqid == cmdDw e 10 % 65536) = false :=
    List.any_eq_false.2 fun r hr hboth => hunused r hr (by simpa using hboth)
  refine congrArg _ ((State.adminCommand_runs ht hpsdt _).trans ?_)
  dsimp only
  rw [if_neg hqid, hq]
  dsimp only
  rw [hany]
  rfl

/-! ### IDENTIFY and GET_LOG_PAGE -/

theorem execIdentify_lists (ht : s.takeNvme fn.toNat true 0x06 = some (0, e, t)) (hcns : cmdDw e 10 % 256 = 2) :
    exec (.identify fn) s = .next ((t.prpWrite fn.toNat e (fitBytes 4096 ((((t.activeNs fn.toNat).filter
      (fun n => decide (cmdNsid e < n))).take 1024).flatMap (leBytes 4)))).nvmeComplete fn.toNat 0 (cmdCid e) 0 nvmeOk) := by
  refine congrArg _ ((State.adminCommand_runs ht hpsdt _).trans ?_)
  dsimp only
  rw [hcns]
  rfl

theorem execIdentify_shows {x : Space} (ht : s.takeNvme fn.toNat true 0x06 = some (0, e, t)) (hcns : cmdDw e 10 % 256 = 0)
    (hx : t.attached fn.toNat (cmdNsid e) = some x) :
    exec (.identify fn) s = .next ((t.freshFree.2.prpWrite fn.toNat e (putAll ((List.range 4096).map
      (fun i => Config.rawByte t.freshFree.1 i)) (namespaceFields x.units))).nvmeComplete fn.toNat 0 (cmdCid e) 0 nvmeOk) := by
  refine congrArg _ ((State.adminCommand_runs ht hpsdt _).trans ?_)
  dsimp only
  rw [hcns, if_pos rfl, hx]
  rfl

theorem execGetLogPage_errors (ht : s.takeNvme fn.toNat true 0x02 = some (0, e, t)) (hlid : cmdDw e 10 % 256 = 1) :
    exec (.getLogPage fn) s = .next ((t.prpWrite fn.toNat e (fitBytes (4 * (cmdDw e 10 / 65536 + cmdDw e 11 % 65536 * 65536 + 1))
      ((fitBytes 4096 ((((t.controller fn.toNat).map (·.errors)).getD []).flatMap errorEntry)).drop
        (cmdDw e 12 + cmdDw e 13 * 2 ^ 32)))).nvmeComplete fn.toNat 0 (cmdCid e) 0 nvmeOk) := by
  refine congrArg _ ((State.adminCommand_runs ht hpsdt _).trans ?_)
  dsimp only
  rw [hlid, if_pos rfl, if_pos (.inl rfl)]

/-! ### Features and events -/

theorem execAbort_aborts (ht : s.takeNvme fn.toNat true 0x08 = some (0, e, t)) :
    exec (.abort fn) s = .next (t.nvmeComplete fn.toNat 0 (cmdCid e) 1 nvmeOk) :=
  congrArg _ (State.adminCommand_runs ht hpsdt _)

variable {c : Controller} (hc : t.controller fn.toNat = some c)
include hc

omit hpsdt hc in
/-- The features that only hold a value. -/
theorem plainFeature_facts {k : Nat} (h : k ∈ [0x01, 0x04, 0x08, 0x09, 0x0B]) :
    featureIds.contains k = true ∧ k ≠ 0x02 ∧ k ≠ 0x07 ∧ k ≠ 0x0C := by
  revert k
  decide

theorem execSetFeatures_sets (ht : s.takeNvme fn.toNat true 0x09 = some (0, e, t)) (hsave : cmdDw e 10 < 2 ^ 31)
    (hfid : cmdDw e 10 % 256 ∈ [0x01, 0x04, 0x08, 0x09, 0x0B]) :
    exec (.setFeatures fn) s = .next ((t.setController { c with
      features := Table.put c.features (cmdDw e 10 % 256) (BitVec.ofNat 32 (cmdDw e 11)) }).nvmeComplete fn.toNat 0 (cmdCid e) 0 nvmeOk) := by
  obtain ⟨hknown, h2, h7, h12⟩ := plainFeature_facts hfid
  refine congrArg _ ((State.adminCommand_runs ht hpsdt _).trans ?_)
  dsimp only
  rw [hc]
  dsimp only
  rw [hknown, if_neg (by decide), if_neg (by omega), if_neg (fun h => h2 h.1), if_neg h2, if_neg h12, if_neg h7]

theorem execGetFeatures_plain (ht : s.takeNvme fn.toNat true 0x0A = some (0, e, t))
    (hfid : cmdDw e 10 % 256 ∈ [0x01, 0x04, 0x08, 0x09, 0x0B]) :
    exec (.getFeatures fn) s = .next (t.nvmeComplete fn.toNat 0 (cmdCid e) (c.feature (cmdDw e 10 % 256)).toNat nvmeOk) := by
  obtain ⟨hknown, h2, h7, h12⟩ := plainFeature_facts hfid
  refine congrArg _ ((State.adminCommand_runs ht hpsdt _).trans ?_)
  dsimp only
  rw [hc]
  dsimp only
  rw [hknown, if_neg (by decide), if_neg h12, if_neg h7, if_neg h2]

theorem execGetFeatures_power (ht : s.takeNvme fn.toNat true 0x0A = some (0, e, t)) (hfid : cmdDw e 10 % 256 = 0x02) :
    exec (.getFeatures fn) s = .next (t.nvmeComplete fn.toNat 0 (cmdCid e) c.ps nvmeOk) := by
  refine congrArg _ ((State.adminCommand_runs ht hpsdt _).trans ?_)
  dsimp only
  rw [hc, hfid]
  rfl

theorem execAer_waits (ht : s.takeNvme fn.toNat true 0x0C = some (0, e, t)) (hnone : c.events = []) (hroom : c.aers.length < 4) :
    exec (.asynchronousEventRequest fn) s = .next (t.setController { c with aers := c.aers ++ [cmdCid e] }) := by
  refine congrArg _ ((State.adminCommand_runs ht hpsdt _).trans ?_)
  rw [hc]
  dsimp only
  rw [hnone]
  exact if_neg (by omega)

theorem execAer_answers (ht : s.takeNvme fn.toNat true 0x0C = some (0, e, t)) {x : NvmeEvent} {rest : List NvmeEvent}
    (hevents : c.events = x :: rest) : exec (.asynchronousEventRequest fn) s =
      .next ((t.setController { c with events := rest }).nvmeComplete fn.toNat 0 (cmdCid e) (x.kind + x.info * 2 ^ 8 + x.page * 2 ^ 16) nvmeOk) := by
  refine congrArg _ ((State.adminCommand_runs ht hpsdt _).trans ?_)
  rw [hc]
  dsimp only
  rw [hevents]

end

/-- An idle timer that has run out moves the controller to the state that its table names. -/
theorem execApst_moves {fn : BitVec 6} {s : State} {c : Controller} {entry : BitVec 64} (hc : s.controller fn.toNat = some c)
    (hentry : c.apst.getD c.ps 0 = entry) (hen : bitAt (c.feature 0x0C) 0 = true) (hidle : ∀ q ∈ s.host.sqs, q.fn = c.fn → q.head = q.tail)
    (hms : natAt entry 8 24 ≠ 0) (hlow : c.ps < natAt entry 3 5) (hmax : natAt entry 3 5 ≤ 4)
    (htime : natAt entry 8 24 * 1000000 ≤ (s.gtc - c.idleSince).toNat) :
    exec (.apst fn) s = .next (s.setController { c with ps := natAt entry 3 5 }) := by
  have hany : s.host.sqs.any (fun q => q.fn == c.fn && q.waits) = false := by
    refine List.any_eq_false.2 fun q hq hboth => ?_
    obtain ⟨hfn, hwaits⟩ := Bool.and_eq_true_iff.1 hboth
    exact absurd (hidle q hq (beq_iff_eq.1 hfn)) (bne_iff_ne.1 hwaits)
  change execApst fn s = _
  unfold execApst
  rw [hc]
  dsimp only
  rw [hentry, hen, hany, bne_iff_ne.2 hms, decide_eq_true hlow, decide_eq_true hmax, decide_eq_true htime]
  rfl


/-! ## I/O commands that are taken in their turn (R412 to R414) -/

section
variable {s t : State}

/-! What PRP transfers do depends on the host's side alone. -/

theorem State.prpList_host (h : t.host = s.host) (page at_ rest k : Nat) : t.prpList page at_ rest k = s.prpList page at_ rest k := by
  have hbytes (a n : Nat) : t.hostBytes a n = s.hostBytes a n := congrArg (fun x : HostSide => Mem.bytes x.mem a n) h
  induction k generalizing at_ rest with
  | zero => rfl
  | succ k ih => simp only [State.prpList, hbytes, ih]

theorem State.prpRuns_host (h : t.host = s.host) (f : Nat) (e : List Byte) (len : Nat) : t.prpRuns f e len = s.prpRuns f e len := by
  have hc : t.controller f = s.controller f := congrArg (fun x : HostSide => x.controllers.find? (fun c : Controller => c.fn == f)) h
  simp only [State.prpRuns, hc, State.prpList_host h]

/-- One run of a transfer to the host. -/
def prpPut (acc : State × List Byte) (r : Nat × Nat) : State × List Byte := (acc.1.hostWrite r.1 (acc.2.take r.2), acc.2.drop r.2)

theorem prpPut_host (l : List (Nat × Nat)) (h : t.host = s.host) (bs : List Byte) :
    (l.foldl prpPut (t, bs)).1.host = (l.foldl prpPut (s, bs)).1.host := by
  induction l generalizing s t bs with
  | nil => exact h
  | cons r l ih =>
    refine ih ?_ _
    exact congrArg (fun x : HostSide => { x with mem := Mem.store x.mem r.1 (bs.take r.2) }) h

theorem State.prpWrite_host (h : t.host = s.host) (f : Nat) (e bs : List Byte) : (t.prpWrite f e bs).host = (s.prpWrite f e bs).host := by
  have heq (u : State) : u.prpWrite f e bs = ((u.prpRuns f e bs.length).foldl prpPut (u, bs)).1 := rfl
  rw [heq, heq, State.prpRuns_host h]
  exact prpPut_host _ h bs

theorem State.prpWrite_onlyHost (s : State) (f : Nat) (e bs : List Byte) : OnlyHost s (s.prpWrite f e bs) :=
  List.foldlRecOn (motive := fun acc : State × List Byte => OnlyHost s acc.1) _ _ (OnlyHost.refl s) fun _ h _ _ => h.trans rfl

theorem State.prpRead_host (h : t.host = s.host) (f : Nat) (e : List Byte) (len : Nat) : t.prpRead f e len = s.prpRead f e len := by
  have hbytes (a n : Nat) : t.hostBytes a n = s.hostBytes a n := congrArg (fun x : HostSide => Mem.bytes x.mem a n) h
  simp only [State.prpRead, State.prpRuns_host h, hbytes]

end

theorem State.ioCommand_runs {s t : State} {f opcode q : Nat} {e : List Byte} (hrec : s.recovering = false) (hturn : s.fnTurn = some f)
    (h : s.takeNvme f false opcode = some (q, e, t)) (hpsdt : cmdBadPsdt e = false) (run : State → Nat → List Byte → State) :
    s.ioCommand f opcode run = run t q e := by
  unfold State.ioCommand
  rw [hrec, hturn, h, bne_self_eq_false, if_neg (by decide)]
  dsimp only
  rw [hpsdt]
  rfl

/-- Bytes read for the host: they are sent, counted, and the engine has worked. -/
def State.readSent (s : State) (f : Nat) (e bytes : List Byte) : State :=
  let s := (s.prpWrite f e bytes).count unitHST 1 bytes.length
  { s with ftl := { s.ftl with lastWork := s.gtc } }

theorem State.readSent_facts {s t : State} (h : OnlyReads s t) (f : Nat) (e bytes : List Byte) :
    (t.readSent f e bytes).host.mem = (s.prpWrite f e bytes).host.mem ∧ (t.readSent f e bytes).dram = s.dram ∧
    (t.readSent f e bytes).cores = s.cores := by
  have hcount := State.count_onlyLogs (t.prpWrite f e bytes) unitHST 1 bytes.length
  have honly := t.prpWrite_onlyHost f e bytes
  exact ⟨congrArg HostSide.mem (hcount.host.trans (State.prpWrite_host h.host f e bytes)),
    hcount.dram.trans ((honly.proj State.dram).trans h.dram), hcount.cores.trans (honly.cores.trans h.cores)⟩

theorem mdtsBlocks_fits {n : Nat} (h : n ≤ 256) : ¬ mdtsBlocks < n := Nat.not_lt.2 h

section
variable {fn : BitVec 6} {s t : State} {q : Nat} {e : List Byte} (hpsdt : cmdBadPsdt e = false) (hrec : s.recovering = false)
  (hturn : s.fnTurn = some fn.toNat)
include hpsdt hrec hturn

section
variable (ht : s.takeNvme fn.toNat false 0x02 = some (q, e, t)) (hn : cmdBlocks e ≤ 256)
include ht hn

theorem execNvmeRead_fails {st : Nat} (hcheck : t.ioCheck fn.toNat e (cmdSlba e) (cmdBlocks e) false = some st) :
    exec (.nvmeRead fn) s = .next (t.nvmeComplete fn.toNat q (cmdCid e) 0 st) := by
  refine congrArg _ ((State.ioCommand_runs hrec hturn ht hpsdt _).trans ?_)
  dsimp only
  rw [if_neg (mdtsBlocks_fits hn), hcheck]

/-- A READ that passes its checks reads the blocks and gives them to the host. -/
theorem execNvmeRead_reads (hcheck : t.ioCheck fn.toNat e (cmdSlba e) (cmdBlocks e) false = none) {us : List (Option (List Byte))}
    (hus : (t.readRun (cmdNsid e) (cmdSlba e) (cmdBlocks e)).1 = us) (hall : ∀ u ∈ us, u.isSome) :
    ∃ u : State, exec (.nvmeRead fn) s = .next (u.nvmeComplete fn.toNat q (cmdCid e) 0 nvmeOk) ∧
      u.host.mem = (t.prpWrite fn.toNat e (us.flatMap (fun b => b.getD []))).host.mem ∧ u.dram = t.dram ∧ u.cores = t.cores := by
  obtain ⟨v, hv⟩ : ∃ v, t.readRun (cmdNsid e) (cmdSlba e) (cmdBlocks e) = (us, v) := ⟨_, Prod.ext hus rfl⟩
  have hreads : OnlyReads t v.freshFree.2 := (OnlyReads.of_snd hv (t.readRun_onlyReads _ _ _)).trans v.freshFree_onlyReads
  have hnone : us.any (fun u => u.isNone) = false :=
    List.any_eq_false.2 fun u hu => by rw [Bool.not_eq_true, Option.isNone_eq_false_iff]; exact hall u hu
  have hbytes := readBytes_of_isSome hall v.freshFree.1
  refine ⟨v.freshFree.2.readSent fn.toNat e (us.flatMap (fun b => b.getD [])), ?_, State.readSent_facts hreads _ _ _⟩
  refine congrArg _ ((State.ioCommand_runs hrec hturn ht hpsdt _).trans ((if_neg (mdtsBlocks_fits hn)).trans ?_))
  rw [hcheck, hv]
  change State.nvmeComplete (v.freshFree.2.readSent fn.toNat e (readBytes v.freshFree.1 us)) fn.toNat q (cmdCid e) 0
    (if us.any (fun u => u.isNone) then nvmeOf stUNREADABLE else nvmeOk) = _
  rw [hnone, hbytes]
  rfl

end

section
variable (ht : s.takeNvme fn.toNat false 0x01 = some (q, e, t)) (hn : cmdBlocks e ≤ 256)
include ht hn

theorem execNvmeWrite_fails {st : Nat} (hcheck : t.ioCheck fn.toNat e (cmdSlba e) (cmdBlocks e) true = some st) :
    exec (.nvmeWrite fn) s = .next (t.nvmeComplete fn.toNat q (cmdCid e) 0 st) := by
  refine congrArg _ ((State.ioCommand_runs hrec hturn ht hpsdt _).trans ?_)
  dsimp only
  rw [if_neg (mdtsBlocks_fits hn), hcheck]

theorem execNvmeWrite_begins (hcheck : t.ioCheck fn.toNat e (cmdSlba e) (cmdBlocks e) true = none) :
    exec (.nvmeWrite fn) s = .next ((t.count unitHST 2 (cmdBlocks e * 4096)).beginWrite (.nvme fn.toNat q (cmdCid e)) (cmdNsid e) (cmdSlba e)
      ((List.range (cmdBlocks e)).map (fun i => sliceOf (i * 4096) 4096 (t.prpRead fn.toNat e (cmdBlocks e * 4096)))) false) := by
  refine congrArg _ ((State.ioCommand_runs hrec hturn ht hpsdt _).trans ?_)
  dsimp only
  rw [if_neg (mdtsBlocks_fits hn), hcheck]

end

section
variable (ht : s.takeNvme fn.toNat false 0x08 = some (q, e, t))
include ht

theorem execWriteZeroes_fails {st : Nat} (hcheck : t.ioCheck fn.toNat e (cmdSlba e) (cmdBlocks e) true = some st) :
    exec (.writeZeroes fn) s = .next (t.nvmeComplete fn.toNat q (cmdCid e) 0 st) := by
  refine congrArg _ ((State.ioCommand_runs hrec hturn ht hpsdt _).trans ?_)
  dsimp only
  rw [hcheck]

theorem execWriteZeroes_begins (hcheck : t.ioCheck fn.toNat e (cmdSlba e) (cmdBlocks e) true = none) :
    exec (.writeZeroes fn) s = .next (t.beginWrite (.nvme fn.toNat q (cmdCid e)) (cmdNsid e) (cmdSlba e)
      (List.replicate (cmdBlocks e) (zeros 4096)) false) := by
  refine congrArg _ ((State.ioCommand_runs hrec hturn ht hpsdt _).trans ?_)
  dsimp only
  rw [hcheck]

end

section
variable (ht : s.takeNvme fn.toNat false 0x00 = some (q, e, t)) (hmount : t.mounted = true)
include ht hmount

/-- FLUSH, once the flash is mounted. -/
theorem execNvmeFlush_mounted : exec (.nvmeFlush fn) s = .next (
    if cmdNsid e = 0xFFFFFFFF then t.beginSync (.nvme fn.toNat q (cmdCid e)) 0
    else if (t.attached fn.toNat (cmdNsid e)).isNone then t.nvmeComplete fn.toNat q (cmdCid e) 0 nvmeBadNamespace
    else t.beginSync (.nvme fn.toNat q (cmdCid e)) (cmdNsid e)) := by
  refine congrArg _ ((State.ioCommand_runs hrec hturn ht hpsdt _).trans ?_)
  dsimp only
  rw [hmount]
  rfl

end

section
variable (ht : s.takeNvme fn.toNat false 0x09 = some (q, e, t)) (runs : List (List (Nat × Nat)))
include ht

theorem execDatasetManagement_fails {st : Nat} (hcheck : t.ioCheck fn.toNat e 0 0 true = some st) :
    exec (.datasetManagement fn runs) s = .next (t.nvmeComplete fn.toNat q (cmdCid e) 0 st) := by
  refine congrArg _ ((State.ioCommand_runs hrec hturn ht hpsdt _).trans ?_)
  dsimp only
  rw [hcheck]

theorem execDatasetManagement_idle (hcheck : t.ioCheck fn.toNat e 0 0 true = none) (had : cmdDw e 11 / 4 % 2 = 0) :
    exec (.datasetManagement fn runs) s = .next (t.nvmeComplete fn.toNat q (cmdCid e) 0 nvmeOk) := by
  refine congrArg _ ((State.ioCommand_runs hrec hturn ht hpsdt _).trans ?_)
  dsimp only
  rw [hcheck]
  exact if_pos had

end
end

/-- A write begun for an NVMe command: its writer waits, and its units are on their way. -/
theorem State.beginWrite_nvme {s t : State} (hlogs : OnlyLogs s t) (a : Asker) (space lua n : Nat) (g : Nat → List Byte) :
    let u := t.beginWrite a space lua ((List.range n).map g) false
    u.ftl.writers = s.ftl.writers ++ [⟨s.ftl.nextWriter, a, n, false⟩] ∧ u.dram = s.dram ∧ u.host.mem = s.host.mem ∧
    ∀ i, i < n → ∃ x ∈ u.ftl.entry ++ u.ftl.user.queue ++ u.ftl.user.units, x.space = space ∧ x.lua = lua + i ∧
      x.writer = some s.ftl.nextWriter ∧ x.data = g i := by
  obtain ⟨hreads, -, hwriters, hunits⟩ := t.beginWrite_begins a space lua ((List.range n).map g) false
  rw [hlogs.ftl, List.length_map, List.length_range] at hwriters
  rw [hlogs.ftl] at hunits
  refine ⟨hwriters, hreads.dram.trans hlogs.dram, congrArg HostSide.mem (hreads.host.trans hlogs.host), fun i hi => hunits i (g i) ?_⟩
  rw [List.getElem?_map, List.getElem?_range hi]
  rfl


/-! ## NVMe commands -/

section
variable {fn : BitVec 6} {s t : State} {q : Nat} {e : List Byte} (hpsdt : cmdBadPsdt e = false) (hrec : s.recovering = false)
  (hturn : s.fnTurn = some fn.toNat)
include hpsdt hrec hturn

/-- WRITE puts the host's blocks on their way. -/
theorem execNvmeWrite_queues (ht : s.takeNvme fn.toNat false 0x01 = some (q, e, t)) (hn : cmdBlocks e ≤ 256)
    (hcheck : t.ioCheck fn.toNat e (cmdSlba e) (cmdBlocks e) true = none) :
    ∃ u, exec (.nvmeWrite fn) s = .next u ∧
      u.ftl.writers = t.ftl.writers ++ [⟨t.ftl.nextWriter, .nvme fn.toNat q (cmdCid e), cmdBlocks e, false⟩] ∧ u.dram = t.dram ∧
      u.host.mem = t.host.mem ∧ ∀ i, i < cmdBlocks e → ∃ x ∈ u.ftl.entry ++ u.ftl.user.queue ++ u.ftl.user.units,
        x.space = cmdNsid e ∧ x.lua = cmdSlba e + i ∧ x.writer = some t.ftl.nextWriter ∧
        x.data = sliceOf (i * 4096) 4096 (t.prpRead fn.toNat e (cmdBlocks e * 4096)) :=
  ⟨_, execNvmeWrite_begins hpsdt hrec hturn ht hn hcheck, State.beginWrite_nvme (t.count_onlyLogs unitHST 2 _) _ _ _ _ _⟩

/-- WRITE ZEROES puts zero blocks on their way. -/
theorem execWriteZeroes_queues (ht : s.takeNvme fn.toNat false 0x08 = some (q, e, t))
    (hcheck : t.ioCheck fn.toNat e (cmdSlba e) (cmdBlocks e) true = none) :
    ∃ u, exec (.writeZeroes fn) s = .next u ∧
      u.ftl.writers = t.ftl.writers ++ [⟨t.ftl.nextWriter, .nvme fn.toNat q (cmdCid e), cmdBlocks e, false⟩] ∧
      ∀ i, i < cmdBlocks e → ∃ x ∈ u.ftl.entry ++ u.ftl.user.queue ++ u.ftl.user.units,
        x.space = cmdNsid e ∧ x.lua = cmdSlba e + i ∧ x.writer = some t.ftl.nextWriter ∧ x.data = zeros 4096 := by
  have hzeros : List.replicate (cmdBlocks e) (zeros 4096) = (List.range (cmdBlocks e)).map (fun _ => zeros 4096) := by
    rw [List.map_const', List.length_range]
  obtain ⟨hwriters, -, -, hunits⟩ := State.beginWrite_nvme (OnlyLogs.refl t) (.nvme fn.toNat q (cmdCid e)) (cmdNsid e) (cmdSlba e)
    (cmdBlocks e) (fun _ => zeros 4096)
  rw [← hzeros] at hwriters hunits
  exact ⟨_, execWriteZeroes_begins hpsdt hrec hturn ht hcheck, hwriters, hunits⟩

end

/-- Settles O42: each command, once taken, does what its equation above says. -/
theorem nvmeCommands : Obligations.NvmeCommands := by
  unfold Obligations.NvmeCommands
  refine ⟨?_, ?_⟩
  · rintro fn s t e f cid qid rfl rfl hpsdt rfl
    refine ⟨?_, ?_, ?_, ?_, ?_, ?_, ?_, ?_, ?_, ?_, ?_, ?_⟩
    · intro ht hpc h1 h128 hfree hcount hmin hmax n u hbind
      exact ⟨_, rfl, rfl, rfl, rfl, rfl, rfl, rfl, rfl, rfl,
        execCreateIoCq_creates hpsdt ht hpc h1 h128 hfree hcount hmin hmax hbind⟩
    · intro ht hpc h1 h128 hfree hcount hmin hmax hcqid hcq n u hbind
      exact ⟨_, rfl, rfl, rfl, rfl, rfl, rfl, rfl, rfl,
        execCreateIoSq_creates hpsdt ht hpc h1 h128 hfree hcount hmin hmax hcqid hcq hbind⟩
    · intro q ht hqid hq
      exact ⟨_, _, execDeleteIoSq_deletes hpsdt ht hqid hq, rfl, t.dropSq_facts _ _ _⟩
    · intro q ht hqid hq hunused
      exact ⟨_, _, execDeleteIoCq_deletes hpsdt ht hqid hq hunused, rfl, t.dropCq_facts _ _ _⟩
    · exact fun ht hcns => execIdentify_lists hpsdt ht hcns
    · intro x ht hcns hx
      have hlen : ((List.range 4096).map (fun i => Config.rawByte t.freshFree.1 i)).length = 4096 :=
        (List.length_map _).trans List.length_range
      obtain ⟨hpage, h0, h8, h130⟩ := namespacePage_reads hlen x.units
      exact ⟨_, _, execIdentify_shows hpsdt ht hcns hx, hpage, h0, h8, h130, rfl⟩
    · exact fun ht hlid => execGetLogPage_errors hpsdt ht hlid
    · exact fun ht => execAbort_aborts hpsdt ht
    · exact fun c ht hc hsave hfid => execSetFeatures_sets hpsdt hc ht hsave hfid
    · exact fun c ht hc => ⟨execGetFeatures_plain hpsdt hc ht, execGetFeatures_power hpsdt hc ht⟩
    · exact fun c ht hc => ⟨execAer_waits hpsdt hc ht, fun x rest => execAer_answers hpsdt hc ht⟩
    · exact fun c entry hc hentry hen hidle hms hlow hmax htime => execApst_moves hc hentry hen hidle hms hlow hmax htime
  · rintro fn s t e f q cid n rfl rfl hpsdt rfl hrec hturn
    refine ⟨fun ht hn => ⟨fun st => ?_, fun hcheck us hus hall => ?_⟩, fun ht hn => ⟨fun st => ?_, fun hcheck => ?_⟩,
      fun ht => ⟨fun st => ?_, fun hcheck => ?_⟩, fun ht hmount => ?_, fun runs ht => ⟨fun st => ?_, fun hcheck had => ?_⟩⟩
    · exact execNvmeRead_fails hpsdt hrec hturn ht hn
    · obtain ⟨u, hexec, hu⟩ := execNvmeRead_reads hpsdt hrec hturn ht hn hcheck hus hall
      exact ⟨_, u, hexec, rfl, hu⟩
    · exact execNvmeWrite_fails hpsdt hrec hturn ht hn
    · exact execNvmeWrite_queues hpsdt hrec hturn ht hn hcheck
    · exact execWriteZeroes_fails hpsdt hrec hturn ht
    · exact execWriteZeroes_queues hpsdt hrec hturn ht hcheck
    · have hflush := execNvmeFlush_mounted hpsdt hrec hturn ht hmount
      refine ⟨fun hall => hflush.trans (congrArg _ (if_pos hall)), fun hone hsome => ?_, fun hone hnone => ?_⟩
      · refine hflush.trans (congrArg _ ((if_neg hone).trans (if_neg ?_)))
        rw [Bool.not_eq_true, Option.isNone_eq_false_iff]
        exact hsome
      · exact hflush.trans (congrArg _ ((if_neg hone).trans (if_pos (congrArg Option.isNone hnone))))
    · exact execDatasetManagement_fails hpsdt hrec hturn ht runs
    · exact execDatasetManagement_idle hpsdt hrec hturn ht runs hcheck had

end Sys2Proof.Machine
